-- ==== Sys2Proof/Word.lean ====
section
/-! DEFINITION. The word types of the IGV-4820 and the small data types that registers, commands and states share. -/

namespace Sys2Proof

/-- A register word: register pages accept only aligned 32-bit accesses (R22). -/
abbrev Word := BitVec 32

/-- A byte of memory. -/
abbrev Byte := BitVec 8

/-- The two actuator slices; Tower A is instance 0, Tower B instance 1 (Table 00-3). -/
inductive Tower
  | A
  | B
  deriving DecidableEq, Repr

/-- The instance number of a Tower (R25). -/
def Tower.idx : Tower → Nat
  | .A => 0
  | .B => 1

/-- The other Tower. -/
def Tower.other : Tower → Tower
  | .A => .B
  | .B => .A

/-- The two readers of a head (Table 00-3). -/
inductive Reader
  | a
  | b
  deriving DecidableEq, Repr

/-- The three control engines (R96): SRV_A, SRV_B and SPN. -/
inductive Eng
  | srvA
  | srvB
  | spn
  deriving DecidableEq, Repr

/-- The number of an engine: 0, 1 for the SRV instances and 2 for SPN. -/
def Eng.idx : Eng → Nat
  | .srvA => 0
  | .srvB => 1
  | .spn => 2

/-- The engine of a Tower. -/
def Tower.eng : Tower → Eng
  | .A => .srvA
  | .B => .srvB

/-- One value for each Tower. -/
structure Two (α : Type) where
  a : α
  b : α
  deriving DecidableEq, Repr

/-- The value of Tower `t`. -/
def Two.get {α : Type} (p : Two α) : Tower → α
  | .A => p.a
  | .B => p.b

/-- The pair with the value of Tower `t` replaced. -/
def Two.set {α : Type} (p : Two α) : Tower → α → Two α
  | .A, x => { p with a := x }
  | .B, x => { p with b := x }

/-- A field of a register: the register's address, the field's low bit and its width. -/
structure Fld where
  addr : Nat
  lo : Nat
  width : Nat
  deriving DecidableEq, Repr

/-- The access types of Table 00-7. `rp` is "RW from port 13, else RO" (SYS_BOOT_STAT); `ow` marks a field whose write
is a command of its own row, so that the generic register write leaves it alone. -/
inductive Access
  | rw
  | ro
  | wo
  | wc
  | ws
  | rp
  | ow
  deriving DecidableEq, Repr

/-- One field of a register table: low bit, width, access type and reset value. A bit that no field covers is reserved. -/
structure FldDesc where
  lo : Nat
  width : Nat
  acc : Access
  reset : Nat
  deriving DecidableEq, Repr

/-- One line of the register map: `count` registers `stride` bytes apart from page offset `off`. -/
structure RegDesc where
  off : Nat
  count : Nat
  stride : Nat
  flds : List FldDesc
  deriving DecidableEq, Repr

end Sys2Proof
end

