-- ==== Sys2Proof/Syntax.lean ====
section
/-! DEFINITION. The commands of the block: one constructor per row of spec/opcode_table.json. The table gives no operands, so
each constructor carries what the manual's rule says the step depends on: the instance it acts on, the word written, and, for
an event of the surroundings, the values that were measured. -/

namespace Sys2Proof

/-- A spire by class (0 track sequencers, 1 packet engines, 2 band movers, 3 integrity engines) and index in SPR_SEL's
numbering (R280). -/
structure Spire where
  cls : Nat
  idx : Nat
  deriving DecidableEq, Repr

/-- What the flux and torque estimator gives at a switching decision (R67, R69, R76): torque and flux with 4,096 rated, the
flux angle in 1/4,096 electrical revolution, the observer residual in ADC codes, and SPN_VBUS in 10 mV. -/
structure SpnEst where
  torque : Int
  flux : Int
  fluxAngle : Nat
  residual : Nat
  vbus : Nat
  deriving DecidableEq, Repr

/-- The servo field of a wedge as one reader reads it, up to the wedge index (Table 05-1): the local angle of the SAM's leading edge, when the
mark is found, and the 16 index cells, first cell highest. -/
structure ServoIn where
  edge : Option (BitVec 24)
  index : BitVec 16
  deriving DecidableEq, Repr

/-- The rest of the field: the 32 track-ID cells, first cell highest, and the signed burst amplitudes. -/
structure BurstIn where
  track : BitVec 32
  n1 : Int
  n2 : Int
  deriving DecidableEq, Repr

/-- What an engine samples from outside at stage 1 (Table 04-3): the VCM current sense, SPN_VBUS, the estimated torque, the
sum of the last four AUX_SP conversions, SPEED_DEV in ppm. -/
structure EngIn where
  vcmI : Int
  vbus : Int
  torqueEst : Int
  auxSum : Int
  deriving DecidableEq, Repr

/-- A live or replay detection unit (R190). -/
inductive Unit3
  | normal
  | verify
  | replay
  deriving DecidableEq, Repr

/-- A reader's front-end state at the end of a capture (CHN_AFE_STAT). -/
structure AfeIn where
  gain : Nat
  phase : Nat
  dcofs : Nat
  rms : Nat
  deriving DecidableEq, Repr

/-- A sector as firmware's retry ladder names it (Table 09-5): where it lies, what it holds and what R260 asks of it. -/
structure Sect where
  head : Nat
  zone : Nat
  track : Nat
  pos : Nat
  /-- CMR, RAW or generation-1 sector (R260). -/
  cmr : Bool
  raw : Bool
  gen1 : Bool
  frag : Nat
  incarn : Nat
  idx : Nat
  vault : Nat
  band : Nat
  slot : Nat
  member : Nat
  deriving DecidableEq, Repr

/-- The factory values that an attempt uses: reader offsets (R268), the head's normal HEATER code, HSTEP and its maximum
(R269). -/
structure Factory where
  offA : Nat
  offB : Nat
  heater : Nat
  hstep : Nat
  hmax : Nat
  deriving DecidableEq, Repr

/-! ### Network operands -/

/-- Where a packet came from, and where its session sends (R311): port, MAC address, IP address, UDP port. -/
structure Peer where
  port : Nat := 0
  mac : Nat := 0
  ip : Nat := 0
  udp : Nat := 0
  deriving DecidableEq, Repr

/-- An AOT header (Table 11-2) as it stands in the packet: `tag` is byte 20, `rsv` byte 21, `plen` PAYLOAD_LEN; TYPE is that of the command. -/
structure AotHdr where
  version : Nat := 3
  flags : Nat := 0
  epoch : Nat := 1
  sid : Nat := 0
  seq : Nat := 0
  ack : Nat := 0
  window : Nat := 0
  plen : Nat := 0
  tag : Nat := 0
  rsv : Nat := 0
  gen : Nat := 0
  opcode : Nat := 0
  sack : Nat := 0
  off : Nat := 0
  deriving DecidableEq, Repr

/-- One object as an AUDIT finds it (R374): the unrecovered sectors and the parity slots rewritten. -/
structure AuditIn where
  vault : Nat
  handle : Nat
  mismatch : Bool
  unrec : Nat
  rewritten : Nat
  deriving DecidableEq, Repr

/-- The commands. -/
inductive Instr
  -- register framework
  | registerWrite (port : Nat) (addr : Nat) (size : Nat) (val : Word)
  | expertKeyWrite (blk inst page : Nat) (val : Word)
  | intForceWrite (blk inst page : Nat) (val : Word)
  | enableWrite (blk inst : Nat)
  | disableWrite (blk inst : Nat)
  | softReset (blk inst page : Nat)
  | startComplete (blk inst : Nat)
  | shutdownComplete (blk inst : Nat)
  | restartCycleEnd (blk inst : Nat)
  | mbxDoorbellSet (val : Word)
  -- angle time base
  | servoWedge (t : Tower) (a b : ServoIn) (dt : Nat)
  | obsPhaseMeasure (obs : BitVec 24)
  | wedgeBoundary (t : Tower)
  | servoWindowOpen (t : Tower)
  | servoWindowClose (t : Tower)
  | positionTick (t : Tower)
  | currentSubtick (t : Tower) (sub : Nat)
  | comparatorArm (n : Nat) (tgt : Word) (ctl : Word)
  | comparatorDisarm (n : Nat) (ctl : Word)
  | comparatorFire (n : Nat)
  | cmpTestFlush (val : Word)
  | atbSkewWrite (t : Tower) (val : Word)
  | atbObsOffsetWrite (val : Word)
  -- spindle drive
  | switchingDecision (est : SpnEst)
  | currentConversion (j : Nat) (iu iv iw : Int)
  | bemfCrossing (fwd : Bool) (amp : Nat) (interval : Nat) (sinceEdge : Nat) (angle : BitVec 24)
  | recapTimeout
  | electricalRev (periodNs : Nat)
  | syncInPulse (angle : BitVec 24) (intervalNs : Nat) (overRate : Bool)
  | syncPulseTimeout
  | markerMeasureDone
  | listenEnd
  | brakeRevEnd
  | ipsAttemptDone (peaks : List Nat)
  | alignDone
  | rampTimeout
  | brakeStopDone
  | faultStopParked
  | spnCfgWrite (val : Word)
  | spnGateForceWrite (val : Word)
  -- control engines
  | engineTick (e : Eng)
  | slotEvaluation (e : Eng) (inp : EngIn)
  | profGo (t : Tower)
  | profPWrite (t : Tower) (val : Word)
  | engSwap (e : Eng)
  | faultClr (e : Eng)
  | engCntClr (e : Eng)
  | slotEnWrite (e : Eng) (val : Word)
  | slotCfgWrite (e : Eng) (kind : Nat) (n : Nat) (val : Word)
  | coefWrite (e : Eng) (val : Word)
  | traceArm (e : Eng)
  | traceForce (e : Eng)
  -- actuators
  | demodResult (t : Tower) (a b : BurstIn)
  | load (t : Tower) (others : Word)
  | unload (t : Tower) (others : Word)
  | retract (t : Tower) (others : Word)
  | srvHeadWrite (t : Tower) (val : Word)
  | srvTrackWrite (t : Tower) (val : Word)
  | srvOffsetWrite (t : Tower) (val : Word)
  | generatorTick (t : Tower) (vaux vcmI : Int)
  | genMoveEnd (t : Tower)
  | genHoldEnd (t : Tower)
  | loadTimeout (t : Tower)
  | shockConversion (s0 s1 : Int)
  -- media layout
  | headRemoved (t : Tower) (h : Nat)
  -- read channel
  | frontDetectorDone (t : Tower) (verify : Bool) (sampA sampB : List Byte) (afeA afeB : AfeIn)
  | detectorPassDone (t : Tower) (u : Unit3)
  | localIterationDone (t : Tower) (u : Unit3)
  | crcCheckDone (t : Tower) (u : Unit3)
  | chnRpPush (t : Tower) (val : Word)
  | replayStart (t : Tower)
  | rbPin (t : Tower) (val : Word)
  | rbUnpin (t : Tower) (val : Word)
  | chnCoefWrite (t : Tower) (val : Word)
  | eqAdaptUpdate (t : Tower)
  | chnCntClr (t : Tower) (val : Word)
  -- write path, preamp link and Lantern
  | sectorWriteStart (t : Tower) (encoded : Bool)
  | sectorWriteEnd (t : Tower)
  | cplFrameSend (t : Tower)
  | keepalive (t : Tower)
  | cplAck (t : Tower) (seq addr data : Nat)
  | cplNak (t : Tower) (seq : Nat)
  | readData (t : Tower) (seq addr data : Nat)
  | telemetry (t : Tower) (head code : Nat)
  | cplFaultFrame (t : Tower) (status : Nat)
  | cplBadFrame (t : Tower) (kind : Nat)
  | cplAnswerTimeout (t : Tower)
  | cplResetRelease (t : Tower)
  | cplVersionRead (t : Tower)
  | cplRegGo (t : Tower) (val : Word)
  | telemetryStrobe (t : Tower)
  | lanBiasRampStep (t : Tower)
  | holdoffEnd (t : Tower)
  | ptabWrite (t : Tower) (val : Word)
  -- retry ladder
  | ladderAttempt (t : Tower) (sec : Sect) (profile : Nat) (fac : Factory)
  | ladderEnd (t : Tower) (sec : Sect) (outcome : Nat)
  -- spires: microwords, commands, macro commands
  | alu (sp : Spire)
  | alui (sp : Spire)
  | ldi (sp : Spire)
  | lui (sp : Spire)
  | br (sp : Spire)
  | cbr (sp : Spire)
  | call (sp : Spire)
  | nop (sp : Spire)
  | ret (sp : Spire)
  | halt (sp : Spire)
  | fence (sp : Spire)
  | ld (sp : Spire)
  | st (sp : Spire)
  | getang (sp : Spire)
  | arm (sp : Spire)
  | waitc (sp : Spire)
  | disarm (sp : Spire)
  | loadz (sp : Spire)
  | anchor (sp : Spire)
  | rplan (sp : Spire)
  | wplan (sp : Spire)
  | wget (sp : Spire)
  | captr (sp : Spire)
  | outc (sp : Spire)
  | emitr (sp : Spire)
  | syncp (sp : Spire)
  | bandMoverPush (sp : Spire)
  | hinit (sp : Spire)
  | hupd (sp : Spire)
  | hfin (sp : Spire)
  | gfacc (sp : Spire)
  | gfsolve (sp : Spire)
  | integrityOpDone (n : Nat)
  | rxnext (sp : Spire)
  | sess (sp : Spire)
  | openOp (sp : Spire)
  | seal (sp : Spire)
  | rwin (sp : Spire)
  | rmark (sp : Spire)
  | txq (sp : Spire)
  | timer (sp : Spire)
  | pop (sp : Spire)
  | post (sp : Spire)
  | waitSatisfied (sp : Spire)
  | sprStart (cls : Nat) (val : Word)
  | sprHalt (cls : Nat) (val : Word)
  | sprStep (cls : Nat) (val : Word)
  | sprMcForce (cls : Nat) (val : Word)
  | sprCsWrite (cls : Nat) (val : Word)
  | sprQpush (cls : Nat) (val : Word)
  | mqPush (core : Nat) (words : List Word) (val : Word)
  | readRun (sp : Spire)
  | writeRun (sp : Spire)
  | seek (sp : Spire)
  | headSwitch (sp : Spire)
  | angleEvent (sp : Spire)
  | moveRun (sp : Spire) (cmds : List (List Word)) (failed : Nat)
  | tailScan (sp : Spire) (tail : List (Nat × List Byte)) (head band status : Nat)
  | hash (sp : Spire)
  | parityAcc (sp : Spire)
  | parityOut (sp : Spire)
  | rebuild (sp : Spire)
  -- network
  | ethFrameRx (port : Nat) (frame : List Byte)
  | linkUp (port fec : Nat)
  | linkDown (port : Nat) (hiBer : Bool)
  | arpRequest (port ip : Nat)
  | neighbourSolicitation (port ip : Nat)
  | echoRequest (port : Nat) (v6 : Bool) (ip : Nat)
  | fwtxSend
  | hello (rx : Peer) (h : AotHdr) (body frame : List Byte)
  | auth (rx : Peer) (h : AotHdr) (body gtag : List Byte)
  | cmd (rx : Peer) (h : AotHdr) (body gtag : List Byte)
  | data (rx : Peer) (h : AotHdr) (body gtag : List Byte)
  | ack (rx : Peer) (h : AotHdr) (body gtag : List Byte)
  | rekey (rx : Peer) (h : AotHdr) (body gtag : List Byte)
  | reset (rx : Peer) (h : AotHdr) (body gtag : List Byte)
  | close (rx : Peer) (h : AotHdr) (body gtag : List Byte)
  | hsTimeout (i : Nat)
  | idleTimeout (i : Nat)
  | retransmitTimer (i : Nat)
  | ackDelayTimer (i : Nat)
  | closingTimeout (i : Nat)
  | cookieKeyRotation
  | aotSessOpen (val : Word)
  | aotSessClose (val : Word)
  | aotShutdownTimeout
  | ethCntClr (port : Nat) (val : Word)
  | aotCntClr (val : Word)
  -- object commands
  | put (i tag : Nat) (choice : Tower)
  | putAcknowledged (i tag : Nat)
  | putDurable (vault handle : Nat)
  | get (i tag : Nat) (unrec : List (Nat × Nat))
  | stat (i tag : Nat)
  | delete (i tag : Nat) (written : Bool)
  | list (i tag : Nat)
  | setRetention (i tag : Nat) (written : Bool)
  | legalHold (i tag : Nat) (written : Bool)
  | flush (i tag : Nat)
  | audit (i tag : Nat) (found : List AuditIn)
  | exportManifest (i tag : Nat)
  | rawInfo (i tag : Nat)
  | rawRead (i tag : Nat) (unrec : List (Nat × Nat))
  | rawWrite (i tag : Nat) (verified : Bool)
  | getLog (i tag : Nat)
  | fwDownload (i tag : Nat)
  | fwActivate (i tag : Nat)
  | activationDrainTimeout
  | setPower (i tag : Nat)
  | identify (i tag : Nat)
  | abort (i tag : Nat)
  | towerFailed (t : Tower)
  | powerLossRestart
  -- Dome
  | vaultCreate (i tag : Nat)
  | vaultUnlock (i tag : Nat)
  | vaultLock (i tag : Nat)
  | vaultInfo (i tag : Nat)
  | vaultErase (i tag : Nat)
  | vaultSetMin (i tag : Nat)
  | timeQuery (i tag : Nat)
  | timeToken (i tag : Nat)
  | anchorSet (i tag : Nat)
  | selfTest (i tag : Nat) (pass : Nat)
  | zeroise (i tag : Nat)
  | entropyHealthFail
  | clockTick
  | clockRecordTimer
  | clockRecordDone
  | recNow (val : Word)
  | stRun (val : Word) (pass : Nat)
  | keyLoad (val : Word)
  | keyClear (val : Word)
  | keyClearAll (val : Word)
  | keyBusDone
  -- main memory
  | ddrRead (port addr n : Nat)
  | ddrWrite (port addr : Nat) (bytes : List Byte)
  | memInit (val : Word)
  | memInitDone
  | memCntClr (val : Word)
  | trainingDone (fail : Option (Nat × Nat × Nat))
  | scrubRead
  | memLogPop (val : Word)
  | eccFlipArm (val : Word)
  -- Cupola
  | cupolaRead (core addr n : Nat) (perr : Bool)
  | cupolaStore (core addr : Nat) (bytes : List Byte)
  | cupolaFillDone (line : Nat)
  | prefetchFill (line : Nat)
  | scratchpadAccess (port addr n : Nat) (wr : Option (List Byte)) (perr : Bool)
  | invLine (val : Word)
  | invRange (val : Word)
  | invAll (val : Word)
  | invWays (val : Word)
  | maintDone
  | cupSpadWrite (val : Word)
  | spadWalkDone
  | cupCntClr (val : Word)
  -- DMA engine
  | dmaChEnable (c : Nat) (val : Word)
  | dmaChDisable (c : Nat) (val : Word)
  | descFetched (c : Nat)
  | dmaBurstIssue
  | dmaReadDone (c : Nat)
  | dmaWriteDone (c : Nat)
  | dmaWritebackDone (c : Nat)
  | descRereadDone (c : Nat)
  | dmaChDb (c : Nat) (val : Word)
  | dmaRequestPulse (line : Nat)
  | quiesceAck
  | quiesceTimeout
  -- embedded flash
  | flashCommandCycle (addr : Nat) (bytes : List Byte) (vppOk : Bool)
  | wordProgram (addr : Nat) (bytes : List Byte) (vppOk : Bool)
  | bufferProgram (writes : List (Nat × List Byte)) (vppOk : Bool)
  | sectorErase (index target : Nat) (vppOk : Bool)
  | eraseSuspend
  | eraseResume (vppOk : Bool)
  | flashReset
  | passwordCheck (pw : List Byte) (vppOk : Bool)
  | passwordSet (pw : List Byte) (vppOk : Bool)
  | passwordClose
  | ppbSet (addr value : Nat) (vppOk : Bool)
  | ppbClearAll (vppOk : Bool)
  | programDone (fail : Option Nat) (retries : Nat)
  | metadataWriteDone
  | erasePulseDone (pass vppOk : Bool)
  | suspendDone
  | flashRead (addr n ecc : Nat)
  | marginScrubRead (fails : Bool)
  | flsBootWpWrite (port : Nat) (val : Word)
  | flsCntClr (val : Word)
  | mscrubFailClear (val : Word)
  -- power, clocks and thermal management
  | avsRequest (val : Word) (nack : Bool)
  | avsSettleDone (read : Option Nat)
  | cpuMultWrite (val : Word)
  | cpuPllLocked
  | clockLoss
  | domainPowerDown (val : Word)
  | domainPowerUp (val : Word)
  | domainRelease
  | activityTouch (val : Word)
  | idleTimerExpiry (n : Nat)
  | holdupBegin
  | holdupDone (failActive : Bool)
  | belfrySlotEnd (raw : Nat)
  | shutDelayExpiry
  | shutClr (val : Word)
  | thermalTrip
  | thermalTripReset
  | thermalResetRelease
  | inputFilterChange (i : Nat) (active : Bool)
  | inputRearm (i : Nat)
  | inputStuck (i : Nat)
  -- reset, boot and test
  | powerOnReset (fails : Nat) (failActive : Bool)
  | hart12Start (pass : Nat)
  | swNow (val : Word)
  | swDefer (val : Word)
  | deferTimeout
  | watchdogExpiry
  | wdtKick (val : Word)
  | hartRun (val : Word)
  | listenerTimeout
  | idOp (crc : Nat) (payload : List Byte)
  | genkey (crc : Nat) (payload : List Byte)
  | putcert (crc : Nat) (payload : List Byte)
  | putanchor (crc : Nat) (payload : List Byte)
  | putident (crc : Nat) (payload : List Byte)
  | putkey1 (crc : Nat) (payload : List Byte)
  | commit (crc : Nat) (payload : List Byte)
  | loadimg (crc : Nat) (payload : List Byte)
  | bistGo (val : Word)
  | bistDone (fails : Nat)
  | extest (loaded : List Bool)
  | samplePreload (captured loaded : List Bool)
  | idcode
  | clamp
  | highz
  | extestPulse (loaded : List Bool)
  | extestTrain (loaded : List Bool)
  | debug
  | mbist (stores fails : Nat)
  | scan
  | bypass
  | overflow
  -- event recorder
  | hwEventPost (code sev source : Nat) (payload : List Byte)
  | evrPost (val : Word)
  | postTaken
  | rateTokensFull (n : Nat)
  | rateEntryWrite (val : Word)
  | clrFatal (port : Nat) (val : Word)
  | clrGen (port : Nat) (val : Word)
  | evrCntClr (val : Word)
  | readerStreamOverflow (t : Tower)
  | inputBucketFull (i : Nat)
  deriving DecidableEq, Repr

end Sys2Proof
end

