-- ==== Sys2Proof/Decode.lean ====
section
/-! DEFINITION. Table words. Every row of spec/opcode_table.json has an empty list of fields: the table gives no command any bits, so no
word spells a command. -/

namespace Sys2Proof

/-- The command that a word of `nbits` bits spells by the table's bits: none, since no row gives bits. -/
def decodeTableWord (_nbits _w : Nat) : Option Instr := none

end Sys2Proof
end

