-- ==== Sys2Proof/Machine/Bits.lean ====
section
/-! DEFINITION. Integer helpers: bit fields, two's complement, saturation, rounding and square roots. -/

namespace Sys2Proof.Machine

/-- Bits [lo + w - 1 : lo] of `x`. -/
def bits (x lo w : Nat) : Nat := x / 2 ^ lo % 2 ^ w

/-- The two's complement value of the low `w` bits of `x`. -/
def sx (w x : Nat) : Int :=
  if 2 ^ (w - 1) ≤ x % 2 ^ w then (x % 2 ^ w : Nat) - (2 ^ w : Nat) else (x % 2 ^ w : Nat)

/-- The low `w` bits of an integer. -/
def ux (w : Nat) (x : Int) : Nat := (x % (2 ^ w : Nat)).toNat

/-- `x + k` saturating at the largest value of `w` bits. -/
def satAdd (w x k : Nat) : Nat := min (2 ^ w - 1) (x + k)

/-- `x` limited to [lo, hi]. -/
def clampI (x lo hi : Int) : Int := max lo (min x hi)

/-- The sign of an integer: -1, 0 or 1. -/
def sgn (x : Int) : Int := if x < 0 then -1 else if x = 0 then 0 else 1

/-- A bit as a number. -/
def b2n (b : Bool) : Nat := if b then 1 else 0

/-- Nat zero acts as one: "0 acts as 1". -/
def atLeast1 (x : Nat) : Nat := if x = 0 then 1 else x

/-- One bit step of the integer square root. -/
def isqrtStep (n r : Nat) (b : Nat) : Nat := if (r + 2 ^ b) * (r + 2 ^ b) ≤ n then r + 2 ^ b else r

/-- The integer square root, rounded down, of a number below 2^128. -/
def isqrt (n : Nat) : Nat := (List.range 64).reverse.foldl (isqrtStep n) 0

/-- `x / 2^k` rounded to nearest with ties to even (R102). -/
def rne (x : Int) (k : Nat) : Int :=
  let q := x / (2 ^ k : Nat)
  let r := x % (2 ^ k : Nat)
  if 2 * r < (2 ^ k : Nat) then q
  else if (2 ^ k : Nat) < 2 * r then q + 1
  else if q % 2 = 0 then q else q + 1

/-- The element of a list at an index, or a default. -/
def nth {α : Type} (l : List α) (n : Nat) (d : α) : α := l.getD n d

/-- A list with one element replaced; unchanged when the index is outside. -/
def upd {α : Type} (l : List α) (n : Nat) (x : α) : List α := l.set n x

/-- Insert into a set of numbers kept as a list without repeats. -/
def insertN (x : Nat) (l : List Nat) : List Nat := if l.contains x then l else x :: l

/-- Remove from a set of numbers. -/
def removeN (x : Nat) (l : List Nat) : List Nat := l.filter (fun y => !(y == x))

end Sys2Proof.Machine
end

