-- ==== Sys2Proof/Machine/Codes.lean ====
section
/-! DEFINITION. The codes that the manual gives in full: CRC-32C, CRC-8, the LDPC parity of a sector and the Reed-Solomon field. -/

namespace Sys2Proof.Machine

/-! ## CRC -/

/-- One bit of a reflected CRC. -/
def crcBitR (poly x : Nat) : Nat := if x % 2 = 1 then Nat.xor (x / 2) poly else x / 2

/-- A reflected CRC-32 over bytes, initial value and final XOR 0xFFFF_FFFF. -/
def crcReflected (poly : Nat) (l : List Nat) : Nat :=
  Nat.xor 0xFFFFFFFF (l.foldl (fun x b => (List.range 8).foldl (fun y _ => crcBitR poly y) (Nat.xor x b)) 0xFFFFFFFF)

/-- CRC-32C over bytes (R156): 0x1EDC_6F41, reflected. -/
def crc32c (l : List Nat) : Nat := crcReflected 0x82F63B78 l

/-- The FCS of an IEEE 802.3 frame (R306): 0x04C1_1DB7, reflected. -/
def crcEth (l : List Byte) : Nat := crcReflected 0xEDB88320 (l.map (·.toNat))

/-- CRC-32C of a list of bytes. -/
def crcBytes (l : List Byte) : Nat := crc32c (l.map (·.toNat))

/-- One bit of the CRC-8 of R235, most significant bit first. -/
def crc8Bit (x : Nat) : Nat := if 128 ≤ x then Nat.xor (2 * x % 256) 0x07 else 2 * x

/-- CRC-8 over bytes: polynomial 0x07, initial value 0 (R235). -/
def crc8 (l : List Nat) : Nat := l.foldl (fun x b => (List.range 8).foldl (fun y _ => crc8Bit y) (Nat.xor x b)) 0

/-! ## GF(2^8) with 0x11D (R172) -/

def gfDouble (x : Nat) : Nat := if 128 ≤ x then Nat.xor (2 * x) 0x11D else 2 * x

/-- The product of two field elements, by bits of the second. -/
def gfMul (a b : Nat) : Nat :=
  ((List.range 8).foldl (fun (p : Nat × Nat) i => (if b / 2 ^ i % 2 = 1 then Nat.xor p.1 p.2 else p.1, gfDouble p.2)) (0, a)).1

/-- The inverse: the 254th power. -/
def gfInv (a : Nat) : Nat := ((List.range 7).foldl (fun (p : Nat × Nat) _ => (gfMul p.1 (gfMul p.2 p.2), gfMul p.2 p.2)) (1, a)).1

/-- g_(j,i) of R172. -/
def gfCoef (j i : Nat) : Nat := gfMul (16 + i) (gfInv (Nat.xor j (16 + i)))

/-! ## The LDPC code (R204, R205) -/

/-- A_g and B_g of a generation. -/
def ldpcAB (g : Nat) : Nat × Nat := if g = 1 then (37, 11) else if g = 2 then (53, 97) else (77, 141)

/-- The shift of block row ρ and block column c of H_g. -/
def ldpcShift (g r c : Nat) : Nat := ((ldpcAB g).1 * (r + 1) * (c + 1) + (ldpcAB g).2 * c) % 256

/-- The block rows that block column c of the information part takes part in. -/
def ldpcRows (c : Nat) : List Nat :=
  let d := nth [1, 2, 4, 7] (c % 4) 1
  (List.range 4).map (fun t => (c + t * d) % 15)

/-- A 256-bit block times the circulant P^s: row i picks column (i + s) mod 256. Bit i of the number is position i. -/
def circ (s x : Nat) : Nat := (x / 2 ^ s + x * 2 ^ (256 - s)) % 2 ^ 256

/-- The contributions of the information part to the 15 block rows of H_3, the set that is written (R186); `blocks` are its 129 blocks. -/
def ldpcSums (blocks : List Nat) : List Nat :=
  (List.range 15).map (fun r =>
    (blocks.zipIdx).foldl (fun acc e => if (ldpcRows e.2).contains r then Nat.xor acc (circ (ldpcShift 3 r e.2) e.1) else acc) 0)

/-- The 15 parity blocks: block 0 is the sum of all rows, and each further block follows row by row down the dual diagonal. -/
def ldpcParity (blocks : List Nat) : List Nat :=
  let v := ldpcSums blocks
  let p0 := v.foldl Nat.xor 0
  let own := fun r => if r = 0 then circ 1 p0 else if r = 7 then p0 else if r = 14 then circ 1 p0 else 0
  ((List.range 14).foldl (fun (acc : List Nat × Nat) r =>
    let p := Nat.xor (Nat.xor (nth v r 0) (own r)) acc.2
    (acc.1 ++ [p], p)) ([p0], 0)).1

/-- Bytes as bits in media order: each byte most significant bit first (R153). -/
def mediaBits (l : List Byte) : List Bool := l.flatMap (fun b => (List.range 8).map (fun i => b.toNat / 2 ^ (7 - i) % 2 == 1))

/-- The number whose bit i is element i. -/
def bitsNat (l : List Bool) : Nat := l.foldr (fun b acc => b2n b + 2 * acc) 0

/-- Cut a list into pieces of `n`, at most `fuel` of them. -/
def chunks {α : Type} (n : Nat) : Nat → List α → List (List α)
  | 0, _ => []
  | fuel + 1, l => if l.isEmpty then [] else l.take n :: chunks n fuel (l.drop n)

/-- The 480 parity bytes of a 4,128-byte information block, in media order. -/
def ldpcEncode (info : List Byte) : List Byte :=
  let blocks := (chunks 256 129 (mediaBits info)).map bitsNat
  let pbits := (ldpcParity blocks).flatMap (fun p => (List.range 256).map (fun i => p / 2 ^ i % 2 == 1))
  (chunks 8 480 pbits).map (fun c => BitVec.ofNat 8 (c.foldl (fun acc b => 2 * acc + b2n b) 0))

/-! ## SHA-256 (R350) and SHA-384 (Table 13-1): the algorithms of FIPS 180-4, which the manual names without retelling them (log entry 30) -/

/-- What tells one hash from another: bits of a word, rounds, the amounts of the four mixtures (the third number of the last two is a shift), the round
constants and the initial value, packed with the first word lowest. `hash_consts` in the tests says that the constants are root bits of primes. -/
structure HashKind where
  bits : Nat
  rounds : Nat
  wideA : List Nat
  wideE : List Nat
  near : List Nat × Nat
  far : List Nat × Nat
  k : Nat
  init : Nat

def hash256 : HashKind := {
  bits := 32, rounds := 64, wideA := [2, 13, 22], wideE := [6, 11, 25], near := ([7, 18], 3), far := ([17, 19], 10)
  k := 0xC67178F2BEF9A3F7A4506CEB90BEFFFA8CC7020884C8781478A5636F748F82EE682E6FF35B9CCA4F4ED8AA4A391C0CB334B0BCB52748774C1E376C0819A4C116106AA070F40E3585D6990624D192E819C76C51A3C24B8B70A81A664BA2BFE8A192722C8581C2C92E766A0ABB650A735453380D134D2C6DFC2E1B213827B70A851429296706CA6351D5A79147C6E00BF3BF597FC7B00327C8A831C66D983E515276F988DA5CB0A9DC4A7484AA2DE92C6F240CA1CC0FC19DC6EFBE4786E49B69C1C19BF1749BDC06A780DEB1FE72BE5D74550C7DC3243185BE12835B01D807AA98AB1C5ED5923F82A459F111F13956C25BE9B5DBA5B5C0FBCF71374491428A2F98
  init := 0x5BE0CD191F83D9AB9B05688C510E527FA54FF53A3C6EF372BB67AE856A09E667 }

def hash384 : HashKind := {
  bits := 64, rounds := 80, wideA := [28, 34, 39], wideE := [14, 18, 41], near := ([1, 8], 7), far := ([19, 61], 6)
  k := 0x6C44198C4A4758175FCB6FAB3AD6FAEC597F299CFC657E2A4CC5D4BECB3E42B6431D67C49C100D4C3C9EBE0A15C9BEBC32CAAB7B40C7249328DB77F523047D841B710B35131C471B113F9804BEF90DAE0A637DC5A2C898A606F067AA72176FBAF57D4F7FEE6ED178EADA7DD6CDE0EB1ED186B8C721C0C207CA273ECEEA26619CC67178F2E372532BBEF9A3F7B2C67915A4506CEBDE82BDE990BEFFFA23631E288CC702081A6439EC84C87814A1F0AB7278A5636F43172F60748F82EE5DEFB2FC682E6FF3D6B2B8A35B9CCA4F7763E3734ED8AA4AE3418ACB391C0CB3C5C95A6334B0BCB5E19B48A82748774CDF8EEB991E376C085141AB5319A4C116B8D2D0C8106AA07032BBD1B8F40E35855771202AD69906245565A910D192E819D6EF5218C76C51A30654BE30C24B8B70D0F89791A81A664BBC423001A2BFE8A14CF1036492722C851482353B81C2C92E47EDAEE6766A0ABB3C77B2A8650A73548BAF63DE53380D139D95B3DF4D2C6DFC5AC42AED2E1B21385C26C92627B70A8546D22FFC142929670A0E6E7006CA6351E003826FD5A79147930AA725C6E00BF33DA88FC2BF597FC7BEEF0EE4B00327C898FB213FA831C66D2DB43210983E5152EE66DFAB76F988DA831153B55CB0A9DCBD41FBD44A7484AA6EA6E4832DE92C6F592B0275240CA1CC77AC9C650FC19DC68B8CD5B5EFBE4786384F25E3E49B69C19EF14AD2C19BF174CF6926949BDC06A725C7123580DEB1FE3B1696B172BE5D74F27B896F550C7DC3D5FFB4E2243185BE4EE4B28C12835B0145706FBED807AA98A3030242AB1C5ED5DA6D8118923F82A4AF194F9B59F111F1B605D0193956C25BF348B538E9B5DBA58189DBBCB5C0FBCFEC4D3B2F7137449123EF65CD428A2F98D728AE22
  init := 0x47B5481DBEFA4FA4DB0C2E0D64F98FA78EB44A876858151167332667FFC00B31152FECD8F70E59399159015A3070DD17629A292A367CD507CBBB9D5DC1059ED8 }

/-- The largest number below 2 ^ n whose k-th power is at most x, bit by bit. -/
def rootOf (k x n : Nat) : Nat := (List.range n).reverse.foldl (fun r b => if (r + 2 ^ b) ^ k ≤ x then r + 2 ^ b else r) 0

/-- The primes below `n`. -/
def primesTo (n : Nat) : List Nat :=
  (List.range n).filter (fun p => decide (2 ≤ p) && (List.range 22).all (fun d => decide (d < 2) || decide (p ≤ d) || !(p % d == 0)))

/-- The first w fraction bits of the k-th root of a prime: the cube roots give the round constants, the square roots an initial value. -/
def rootBits (k w p : Nat) : Nat := rootOf k (p * 2 ^ (w * k)) (w + 6) % 2 ^ w

/-- Word `i` of a packed table. -/
def HashKind.word (x : HashKind) (t i : Nat) : Nat := t / 2 ^ (x.bits * i) % 2 ^ x.bits

/-- A word turned right by n. -/
def HashKind.turn (x : HashKind) (n v : Nat) : Nat := v / 2 ^ n + v % 2 ^ n * 2 ^ (x.bits - n)

/-- The sum modulo 2 of a word turned by each of the amounts, and of `y`. -/
def HashKind.mix (x : HashKind) (l : List Nat) (v y : Nat) : Nat := l.foldl (fun acc n => Nat.xor acc (x.turn n v)) y

/-- What a round keeps: the newest four values of the two working rows, and the 16 newest words of the schedule, oldest first. -/
structure Digest where
  row1 : Nat × Nat × Nat × Nat
  row2 : Nat × Nat × Nat × Nat
  sched : List Nat

/-- Round `i`: the oldest word of the schedule is used up, and its successor enters. -/
def HashKind.round (x : HashKind) (s : Digest) (i : Nat) : Digest :=
  match s.row1, s.row2 with
  | (a, b, c, d), (e, f, g, h) =>
    let m := 2 ^ x.bits
    let w := nth s.sched 0 0
    let choice := Nat.xor (Nat.land e f) (Nat.land (m - 1 - e) g)
    let major := Nat.lor (Nat.land a b) (Nat.land c (Nat.lor a b))
    let up := h + x.mix x.wideE e 0 + choice + x.word x.k i + w
    let old := nth s.sched 1 0
    let late := nth s.sched 14 0
    let next := (w + x.mix x.near.1 old (old / 2 ^ x.near.2) + nth s.sched 9 0 + x.mix x.far.1 late (late / 2 ^ x.far.2)) % m
    { row1 := ((up + x.mix x.wideA a 0 + major) % m, a, b, c), row2 := ((d + up) % m, e, f, g), sched := s.sched.drop 1 ++ [next] }

/-- The eight words of a hash value, packed, after one more block of 16 words. -/
def HashKind.block (x : HashKind) (h : Nat) (blk : List Byte) : Nat :=
  let words := (chunks (x.bits / 8) 16 blk).map (fun l => l.foldl (fun acc b => 256 * acc + b.toNat) 0)
  let p := x.word h
  let e := (List.range x.rounds).foldl x.round { row1 := (p 0, p 1, p 2, p 3), row2 := (p 4, p 5, p 6, p 7), sched := words }
  match e.row1, e.row2 with
  | (a, b, c, d), (q, r, t, u) =>
    ([a, b, c, d, q, r, t, u].zipIdx).foldl (fun acc y => acc + (y.1 + p y.2) % 2 ^ x.bits * 2 ^ (x.bits * y.2)) 0

/-- The first `n` bytes of a hash value. The message is followed by one bit 1, zeros, and its length in bits in the space of two words. -/
def HashKind.digest (x : HashKind) (n : Nat) (m : List Byte) : List Byte :=
  let wb := x.bits / 8
  let blocks := (m.length + 1 + 2 * wb + 16 * wb - 1) / (16 * wb)
  let bits := 8 * m.length
  let tail := (List.range (16 * wb * blocks - m.length)).map (fun k =>
    let left := 16 * wb * blocks - m.length - 1 - k
    BitVec.ofNat 8 (if k = 0 then 128 else if left < 2 * wb then bits / 256 ^ left else 0))
  let h := (chunks (16 * wb) blocks (m ++ tail)).foldl x.block x.init
  (List.range n).map (fun k => BitVec.ofNat 8 (x.word h (k / wb) / 256 ^ (wb - 1 - k % wb)))

/-- SHA-256 of a list of bytes: 32 bytes. -/
def sha256 (m : List Byte) : List Byte := hash256.digest 32 m

/-- SHA-384 of a list of bytes: 48 bytes. -/
def sha384 (m : List Byte) : List Byte := hash384.digest 48 m

end Sys2Proof.Machine
end

