-- ==== Sys2Proof/Config.lean ====
section
/-! DEFINITION. What the manual leaves open: constants without a body, which nothing in Lean can evaluate. -/

namespace Sys2Proof.Config

/-- The free values of the machine: the value the manual leaves undefined, by the number of the draw (State.freeCount).
Log entry 2. -/
opaque freeNat : Nat → Nat

/-- The logarithm that the soft detector takes for an ISIG of 0, with 54 fraction bits: the manual states no result (R203). -/
opaque lnZero : Int

/-- The physical sector address that generations 1 and 2 use as their XTS tweak (Table 06-9), by head, track and position. -/
opaque physTweak : Nat → Nat → Nat → Nat

/-- The hardware unique key in the fuses, 256 bits (Table 13-4): the factory's. -/
opaque huk : Nat

/-- The public point whose digest stands in root key slot n of the fuses (R399): the factory's. -/
opaque rootPoint : Nat → List Byte

/-- The AES-KW key that a PUTKEY1 payload is wrapped under, from the agreed Z (Table 20-5 names no derivation). -/
opaque agreedKey : List Byte → Nat

/-- The hash that picks the per-source HELLO bucket (R333). -/
opaque srcHash : Nat → Nat

/-- The correction of a housekeeping ADC code by BEL_ADC_CAL: gain, offset, code (R511 gives no formula). -/
opaque adcCorrect : Nat → Int → Nat → Int

/-- The braking torque of DECEL, 4,096 = rated (R92 gives no law): by SPN_ACCEL.DEC and the measured speed. -/
opaque brakeTorque : Nat → Nat → Nat

/-- A LIST record: the manual gives it no layout. By vault, handle and OSTATE. -/
opaque listRecord : Nat → Nat → Nat → List Byte

/-- The version of the boot ROM (Table 20-5 gives it no size). -/
opaque romVersion : List Byte

/-- The boot ROM's bytes, by address (the manual does not give them). -/
opaque romByte : Nat → Byte

/-- HUPD's descriptor (Table 10-5 gives it no layout): source address and length, from the 64 bytes at its address. -/
opaque hupdDesc : List Byte → Nat × Nat

/-- GFACC's descriptor: source, k, m, member, from its 64 bytes. -/
opaque gfaccDesc : List Byte → Nat × Nat × Nat × Nat

/-- The bases of accumulator j in a GFACC descriptor: user bytes, CRC parity. -/
opaque gfaccBase : List Byte → Nat → Nat × Nat

/-- GFSOLVE's descriptor: k, m, the missing member, destination of the user bytes and of the CRC, from its 256 bytes. -/
opaque gfsolveDesc : List Byte → Nat × Nat × Nat × Nat × Nat

/-- The sources of a GFSOLVE descriptor: address and member index. -/
opaque gfsolveSrc : List Byte → List (Nat × Nat)

/-- The packet descriptor of a packet engine (Table 11-10 gives it no layout): AOT type, flags, tag, GEN, offset, payload, from its
bytes. -/
opaque sealDesc : List Byte → Nat × Nat × Nat × Nat × Nat × List Byte

/-- A received packet's descriptor: header fields as in a packet of TYPE, EPOCH and SEQ, additional data, ciphertext, tag. -/
opaque openDesc : List Byte → Nat × Nat × Nat × List Byte × List Byte × List Byte

/-- The result that OPEN leaves in the descriptor: the bytes stored at its address, from the bytes before and the plaintext. -/
opaque openResult : List Byte → Option (List Byte) → List Byte

/-- The frame that a TXQ descriptor names. -/
opaque txqFrame : List Byte → List Byte

/-- The address of a session entry in the session table (SESS). -/
opaque sessEntry : Nat → Nat

/-- The fields of an integrity command of the base image (Table 10-13 gives its words no layout): opcode, field, the eight words. -/
opaque imgField : Nat → Nat → List Word → Nat

/-- Registers of the internal responder of the CPL link-layer loop-back before they are written (Table 20-8 gives no contents). -/
opaque responder : Nat → BitVec 16

end Sys2Proof.Config
end

