-- ==== Sys2Proof/Machine/RegMap.lean ====
section
/-! DEFINITION. The register map: the address of every register of the manual's register tables, every field of it, and the
table of fields, access types and reset values that the generic register write and the reset of a register follow
(R3 to R6, R22 to R27, and the "Registers" section of each chapter). -/

namespace Sys2Proof.Machine

/-- The base of the register page of block code `b`, instance `i`, page `p` (R25). -/
def pageBase (b i p : Nat) : Nat := 0x20000000 + b * 0x100000 + i * 0x10000 + p * 0x1000

/-- Page E (SRV 2 or SPN 2) and page F (SRV 3 or SPN 3) of engine `e`: 0 SRV_A, 1 SRV_B, 2 SPN. -/
def engPage (e p : Nat) : Nat := if e = 2 then pageBase 0x0E 0 p else pageBase 0x0F e p

/-- The channel block of DMA channel `c`: page 1 + c / 4, 0x38 bytes each. -/
def dmaCh (c : Nat) : Nat := pageBase 0x09 0 (1 + c / 4) + 0x20 + 0x38 * (c % 4)

/-! The registers and their fields, by the manual's names. An array register takes its index; a block with several
instances takes the instance first. -/

def SYS_MBX_DB_SET : Nat := 0x20105020
def SYS_MBX_DB_SET_SET : Fld := ⟨SYS_MBX_DB_SET, 0, 8⟩
def SYS_MBX_DB_PEND : Nat := 0x20105024
def SYS_MBX_DB_PEND_PEND : Fld := ⟨SYS_MBX_DB_PEND, 0, 8⟩
def ATB_CFG : Nat := 0x20D00020
def ATB_CFG_PREF : Fld := ⟨ATB_CFG, 4, 2⟩
def ATB_CFG_OBS_ONLY : Fld := ⟨ATB_CFG, 0, 1⟩
def ATB_SRC : Nat := 0x20D00024
def ATB_SRC_GOOD_A : Fld := ⟨ATB_SRC, 28, 4⟩
def ATB_SRC_GOOD_B : Fld := ⟨ATB_SRC, 24, 4⟩
def ATB_SRC_WG_INHIBIT : Fld := ⟨ATB_SRC, 9, 1⟩
def ATB_SRC_RELIABLE : Fld := ⟨ATB_SRC, 8, 1⟩
def ATB_SRC_OBS_OK : Fld := ⟨ATB_SRC, 7, 1⟩
def ATB_SRC_LOADED_B : Fld := ⟨ATB_SRC, 6, 1⟩
def ATB_SRC_LOADED_A : Fld := ⟨ATB_SRC, 5, 1⟩
def ATB_SRC_LOCK_B : Fld := ⟨ATB_SRC, 4, 1⟩
def ATB_SRC_LOCK_A : Fld := ⟨ATB_SRC, 3, 1⟩
def ATB_SRC_LOCKED : Fld := ⟨ATB_SRC, 2, 1⟩
def ATB_SRC_SRC : Fld := ⟨ATB_SRC, 0, 2⟩
def ATB_ANGLE : Nat := 0x20D00028
def ATB_ANGLE_REV : Fld := ⟨ATB_ANGLE, 24, 8⟩
def ATB_ANGLE_WEDGE : Fld := ⟨ATB_ANGLE, 15, 9⟩
def ATB_ANGLE_PHASE : Fld := ⟨ATB_ANGLE, 0, 15⟩
def ATB_RATE : Nat := 0x20D0002C
def ATB_RATE_RATE : Fld := ⟨ATB_RATE, 0, 32⟩
def ATB_EPOCH : Nat := 0x20D00030
def ATB_EPOCH_DISC_COUNT : Fld := ⟨ATB_EPOCH, 16, 16⟩
def ATB_EPOCH_EPOCH : Fld := ⟨ATB_EPOCH, 0, 8⟩
def ATB_PHERR_T (n : Nat) : Nat := 0x20D00034 + 4 * n
def ATB_PHERR_T_GOOD (n : Nat) : Fld := ⟨ATB_PHERR_T n, 31, 1⟩
def ATB_PHERR_T_IS_SRC (n : Nat) : Fld := ⟨ATB_PHERR_T n, 30, 1⟩
def ATB_PHERR_T_ERR (n : Nat) : Fld := ⟨ATB_PHERR_T n, 0, 24⟩
def ATB_SKEW_T (n : Nat) : Nat := 0x20D0003C + 4 * n
def ATB_SKEW_T_SKEW (n : Nat) : Fld := ⟨ATB_SKEW_T n, 0, 16⟩
def ATB_TICK_T (n : Nat) : Nat := 0x20D00044 + 4 * n
def ATB_TICK_T_SUB_EN (n : Nat) : Fld := ⟨ATB_TICK_T n, 16, 1⟩
def ATB_TICK_T_PHASE (n : Nat) : Fld := ⟨ATB_TICK_T n, 0, 15⟩
def ATB_SWIN_T (n : Nat) : Nat := 0x20D0004C + 4 * n
def ATB_SWIN_T_WIDTH (n : Nat) : Fld := ⟨ATB_SWIN_T n, 16, 16⟩
def ATB_SWIN_T_LEAD (n : Nat) : Fld := ⟨ATB_SWIN_T n, 0, 16⟩
def ATB_OBS_OFFSET : Nat := 0x20D00054
def ATB_OBS_OFFSET_OFFSET : Fld := ⟨ATB_OBS_OFFSET, 0, 24⟩
def ATB_XCHK_LIM : Nat := 0x20D00058
def ATB_XCHK_LIM_COUNT : Fld := ⟨ATB_XCHK_LIM, 16, 4⟩
def ATB_XCHK_LIM_LIMIT : Fld := ⟨ATB_XCHK_LIM, 0, 16⟩
def ATB_LAST_EVT : Nat := 0x20D0005C
def ATB_LAST_EVT_KIND : Fld := ⟨ATB_LAST_EVT, 28, 4⟩
def ATB_LAST_EVT_FROM : Fld := ⟨ATB_LAST_EVT, 26, 2⟩
def ATB_LAST_EVT_TO : Fld := ⟨ATB_LAST_EVT, 24, 2⟩
def ATB_LAST_EVT_ERR : Fld := ⟨ATB_LAST_EVT, 0, 24⟩
def ATB_CMP_ARMED (n : Nat) : Nat := 0x20D01020 + 4 * n
def ATB_CMP_ARMED_ARMED (n : Nat) : Fld := ⟨ATB_CMP_ARMED n, 0, 32⟩
def ATB_CMP_FLUSH : Nat := 0x20D01030
def ATB_CMP_FLUSH_TWR_B : Fld := ⟨ATB_CMP_FLUSH, 1, 1⟩
def ATB_CMP_FLUSH_TWR_A : Fld := ⟨ATB_CMP_FLUSH, 0, 1⟩
def ATB_CMP_TGT (n : Nat) : Nat := 0x20D01100 + 8 * n
def ATB_CMP_TGT_TGT (n : Nat) : Fld := ⟨ATB_CMP_TGT n, 0, 32⟩
def ATB_CMP_CTL (n : Nat) : Nat := 0x20D01104 + 8 * n
def ATB_CMP_CTL_ARM (n : Nat) : Fld := ⟨ATB_CMP_CTL n, 31, 1⟩
def ATB_CMP_CTL_STATUS (n : Nat) : Fld := ⟨ATB_CMP_CTL n, 27, 4⟩
def ATB_CMP_CTL_EPOCH (n : Nat) : Fld := ⟨ATB_CMP_CTL n, 16, 8⟩
def ATB_CMP_CTL_ACTION (n : Nat) : Fld := ⟨ATB_CMP_CTL n, 12, 4⟩
def ATB_CMP_CTL_OWNER (n : Nat) : Fld := ⟨ATB_CMP_CTL n, 10, 2⟩
def ATB_CMP_CTL_REPEAT (n : Nat) : Fld := ⟨ATB_CMP_CTL n, 9, 1⟩
def SPN_CFG : Nat := 0x20E00020
def SPN_CFG_POLE_PAIRS : Fld := ⟨SPN_CFG, 8, 4⟩
def SPN_CFG_DIR : Fld := ⟨SPN_CFG, 4, 1⟩
def SPN_CFG_TARGET : Fld := ⟨SPN_CFG, 0, 2⟩
def SPN_MODE : Nat := 0x20E00024
def SPN_MODE_MARK_VALID : Fld := ⟨SPN_MODE, 19, 1⟩
def SPN_MODE_SYNC_LOCKED : Fld := ⟨SPN_MODE, 18, 1⟩
def SPN_MODE_SPIN_INHIBIT : Fld := ⟨SPN_MODE, 17, 1⟩
def SPN_MODE_AT_SPEED : Fld := ⟨SPN_MODE, 16, 1⟩
def SPN_MODE_START_RES : Fld := ⟨SPN_MODE, 8, 4⟩
def SPN_MODE_MODE : Fld := ⟨SPN_MODE, 0, 4⟩
def SPN_SPEED : Nat := 0x20E00028
def SPN_SPEED_REVERSE : Fld := ⟨SPN_SPEED, 31, 1⟩
def SPN_SPEED_SPEED : Fld := ⟨SPN_SPEED, 0, 23⟩
def SPN_SPEED_ERR : Nat := 0x20E0002C
def SPN_SPEED_ERR_ERR : Fld := ⟨SPN_SPEED_ERR, 0, 24⟩
def SPN_SYNC_CFG : Nat := 0x20E00030
def SPN_SYNC_CFG_DIV : Fld := ⟨SPN_SYNC_CFG, 16, 10⟩
def SPN_SYNC_CFG_PULL : Fld := ⟨SPN_SYNC_CFG, 4, 3⟩
def SPN_SYNC_CFG_OUT_EN : Fld := ⟨SPN_SYNC_CFG, 1, 1⟩
def SPN_SYNC_CFG_EN : Fld := ⟨SPN_SYNC_CFG, 0, 1⟩
def SPN_SYNC_PHASE : Nat := 0x20E00034
def SPN_SYNC_PHASE_PHASE : Fld := ⟨SPN_SYNC_PHASE, 0, 24⟩
def SPN_SYNC_STAT : Nat := 0x20E00038
def SPN_SYNC_STAT_LOCKED : Fld := ⟨SPN_SYNC_STAT, 31, 1⟩
def SPN_SYNC_STAT_CAUSE : Fld := ⟨SPN_SYNC_STAT, 28, 3⟩
def SPN_SYNC_STAT_ERR : Fld := ⟨SPN_SYNC_STAT, 0, 24⟩
def SPN_CNT_SKIP : Nat := 0x20E0003C
def SPN_CNT_SKIP_COUNT : Fld := ⟨SPN_CNT_SKIP, 0, 32⟩
def SPN_CNT_EVT : Nat := 0x20E00040
def SPN_CNT_EVT_LOSS : Fld := ⟨SPN_CNT_EVT, 24, 8⟩
def SPN_CNT_EVT_RECAP_FAIL : Fld := ⟨SPN_CNT_EVT, 16, 8⟩
def SPN_CNT_EVT_UNDERSPEED : Fld := ⟨SPN_CNT_EVT, 8, 8⟩
def SPN_CNT_EVT_OC_CUT : Fld := ⟨SPN_CNT_EVT, 0, 8⟩
def SPN_LAST_EVT : Nat := 0x20E00044
def SPN_LAST_EVT_KIND : Fld := ⟨SPN_LAST_EVT, 28, 4⟩
def SPN_LAST_EVT_MODE : Fld := ⟨SPN_LAST_EVT, 24, 4⟩
def SPN_LAST_EVT_SPEED : Fld := ⟨SPN_LAST_EVT, 0, 23⟩
def SPN_HYST : Nat := 0x20E01100
def SPN_HYST_TBAND : Fld := ⟨SPN_HYST, 16, 16⟩
def SPN_HYST_FBAND : Fld := ⟨SPN_HYST, 0, 16⟩
def SPN_FLUX_REF : Nat := 0x20E01104
def SPN_FLUX_REF_REF : Fld := ⟨SPN_FLUX_REF, 0, 16⟩
def SPN_GATE : Nat := 0x20E01108
def SPN_GATE_DEADTIME : Fld := ⟨SPN_GATE, 0, 8⟩
def SPN_SAMP : Nat := 0x20E0110C
def SPN_SAMP_SETTLE : Fld := ⟨SPN_SAMP, 0, 12⟩
def SPN_OBS_LIM : Nat := 0x20E01110
def SPN_OBS_LIM_LIMIT : Fld := ⟨SPN_OBS_LIM, 0, 12⟩
def SPN_ILIM : Nat := 0x20E01114
def SPN_ILIM_LIMIT : Fld := ⟨SPN_ILIM, 0, 12⟩
def SPN_MODEL_RL : Nat := 0x20E01118
def SPN_MODEL_RL_RES : Fld := ⟨SPN_MODEL_RL, 16, 16⟩
def SPN_MODEL_RL_IND : Fld := ⟨SPN_MODEL_RL, 0, 16⟩
def SPN_MODEL_KE : Nat := 0x20E0111C
def SPN_MODEL_KE_KE : Fld := ⟨SPN_MODEL_KE, 0, 16⟩
def SPN_PA_SPAN : Nat := 0x20E01120
def SPN_PA_SPAN_SPAN : Fld := ⟨SPN_PA_SPAN, 0, 13⟩
def SPN_PA (n : Nat) : Nat := 0x20E01140 + 4 * n
def SPN_PA_ADV (n : Nat) : Fld := ⟨SPN_PA n, 0, 12⟩
def SPN_START_CFG : Nat := 0x20E02100
def SPN_START_CFG_IPS_DIFF : Fld := ⟨SPN_START_CFG, 16, 12⟩
def SPN_START_CFG_IPS_PULSE : Fld := ⟨SPN_START_CFG, 8, 8⟩
def SPN_START_CFG_BEMF_MIN : Fld := ⟨SPN_START_CFG, 0, 8⟩
def SPN_ALIGN : Nat := 0x20E02104
def SPN_ALIGN_ALIGN_I : Fld := ⟨SPN_ALIGN, 20, 12⟩
def SPN_ALIGN_ALIGN_MS : Fld := ⟨SPN_ALIGN, 0, 16⟩
def SPN_RAMP : Nat := 0x20E02108
def SPN_RAMP_RAMP_ACC : Fld := ⟨SPN_RAMP, 16, 16⟩
def SPN_RAMP_RAMP_TIMEOUT : Fld := ⟨SPN_RAMP, 0, 16⟩
def SPN_ACCEL : Nat := 0x20E0210C
def SPN_ACCEL_ACC : Fld := ⟨SPN_ACCEL, 16, 16⟩
def SPN_ACCEL_DEC : Fld := ⟨SPN_ACCEL, 0, 16⟩
def SPN_RECAP : Nat := 0x20E02110
def SPN_RECAP_TIMEOUT : Fld := ⟨SPN_RECAP, 0, 16⟩
def SPN_BUS : Nat := 0x20E02114
def SPN_BUS_VBUS_MAX : Fld := ⟨SPN_BUS, 16, 16⟩
def SPN_BUS_HOLDUP_V : Fld := ⟨SPN_BUS, 0, 16⟩
def SPN_IPS_RES : Nat := 0x20E02118
def SPN_IPS_RES_ATTEMPTS : Fld := ⟨SPN_IPS_RES, 24, 2⟩
def SPN_IPS_RES_SECTOR : Fld := ⟨SPN_IPS_RES, 16, 4⟩
def SPN_IPS_RES_DIFF : Fld := ⟨SPN_IPS_RES, 0, 12⟩
def SPN_MARK_CFG : Nat := 0x20E03100
def SPN_MARK_CFG_MIN_CONF : Fld := ⟨SPN_MARK_CFG, 0, 8⟩
def SPN_MARK : Nat := 0x20E03104
def SPN_MARK_VALID : Fld := ⟨SPN_MARK, 31, 1⟩
def SPN_MARK_CONF : Fld := ⟨SPN_MARK, 16, 8⟩
def SPN_MARK_POLE_IDX : Fld := ⟨SPN_MARK, 0, 4⟩
def SPN_MARK_SIG (n : Nat) : Nat := 0x20E03140 + 4 * n
def SPN_MARK_SIG_SIG (n : Nat) : Fld := ⟨SPN_MARK_SIG n, 0, 16⟩
def SPN_GATE_RB : Nat := 0x20E03180
def SPN_GATE_RB_BRAKE_N : Fld := ⟨SPN_GATE_RB, 6, 1⟩
def SPN_GATE_RB_GATES : Fld := ⟨SPN_GATE_RB, 0, 6⟩
def SPN_GATE_FORCE : Nat := 0x20E03184
def SPN_GATE_FORCE_FORCE_EN : Fld := ⟨SPN_GATE_FORCE, 31, 1⟩
def SPN_GATE_FORCE_PATTERN : Fld := ⟨SPN_GATE_FORCE, 0, 6⟩
def SRV_ENG_STAT (i : Nat) : Nat := 0x20F02020 + 0x10000 * i
def SRV_ENG_STAT_OVERRUN (i : Nat) : Fld := ⟨SRV_ENG_STAT i, 24, 8⟩
def SRV_ENG_STAT_SAT_NOW (i : Nat) : Fld := ⟨SRV_ENG_STAT i, 16, 4⟩
def SRV_ENG_STAT_XCPL_STALE (i : Nat) : Fld := ⟨SRV_ENG_STAT i, 11, 1⟩
def SRV_ENG_STAT_SWAP_PEND (i : Nat) : Fld := ⟨SRV_ENG_STAT i, 10, 1⟩
def SRV_ENG_STAT_ACTIVE (i : Nat) : Fld := ⟨SRV_ENG_STAT i, 9, 1⟩
def SRV_ENG_STAT_BUSY (i : Nat) : Fld := ⟨SRV_ENG_STAT i, 8, 1⟩
def SRV_ENG_STAT_ESTATE (i : Nat) : Fld := ⟨SRV_ENG_STAT i, 0, 2⟩
def SPN_ENG_STAT : Nat := 0x20E02020
def SPN_ENG_STAT_OVERRUN : Fld := ⟨SPN_ENG_STAT, 24, 8⟩
def SPN_ENG_STAT_SAT_NOW : Fld := ⟨SPN_ENG_STAT, 16, 4⟩
def SPN_ENG_STAT_XCPL_STALE : Fld := ⟨SPN_ENG_STAT, 11, 1⟩
def SPN_ENG_STAT_SWAP_PEND : Fld := ⟨SPN_ENG_STAT, 10, 1⟩
def SPN_ENG_STAT_ACTIVE : Fld := ⟨SPN_ENG_STAT, 9, 1⟩
def SPN_ENG_STAT_BUSY : Fld := ⟨SPN_ENG_STAT, 8, 1⟩
def SPN_ENG_STAT_ESTATE : Fld := ⟨SPN_ENG_STAT, 0, 2⟩
def SRV_ENG_RUN (i : Nat) : Nat := 0x20F02024 + 0x10000 * i
def SRV_ENG_RUN_SLOT_EN (i : Nat) : Fld := ⟨SRV_ENG_RUN i, 0, 4⟩
def SPN_ENG_RUN : Nat := 0x20E02024
def SPN_ENG_RUN_SLOT_EN : Fld := ⟨SPN_ENG_RUN, 0, 4⟩
def SRV_ENG_CMD (i : Nat) : Nat := 0x20F02028 + 0x10000 * i
def SRV_ENG_CMD_CNT_CLR (i : Nat) : Fld := ⟨SRV_ENG_CMD i, 2, 1⟩
def SRV_ENG_CMD_FAULT_CLR (i : Nat) : Fld := ⟨SRV_ENG_CMD i, 1, 1⟩
def SRV_ENG_CMD_SWAP (i : Nat) : Fld := ⟨SRV_ENG_CMD i, 0, 1⟩
def SPN_ENG_CMD : Nat := 0x20E02028
def SPN_ENG_CMD_CNT_CLR : Fld := ⟨SPN_ENG_CMD, 2, 1⟩
def SPN_ENG_CMD_FAULT_CLR : Fld := ⟨SPN_ENG_CMD, 1, 1⟩
def SPN_ENG_CMD_SWAP : Fld := ⟨SPN_ENG_CMD, 0, 1⟩
def SRV_ENG_FAULT (i : Nat) : Nat := 0x20F0202C + 0x10000 * i
def SRV_ENG_FAULT_CAUSE (i : Nat) : Fld := ⟨SRV_ENG_FAULT i, 28, 4⟩
def SRV_ENG_FAULT_SLOT (i : Nat) : Fld := ⟨SRV_ENG_FAULT i, 26, 2⟩
def SRV_ENG_FAULT_STAGE (i : Nat) : Fld := ⟨SRV_ENG_FAULT i, 23, 3⟩
def SRV_ENG_FAULT_RD_PERR (i : Nat) : Fld := ⟨SRV_ENG_FAULT i, 13, 1⟩
def SRV_ENG_FAULT_ADDR (i : Nat) : Fld := ⟨SRV_ENG_FAULT i, 0, 13⟩
def SPN_ENG_FAULT : Nat := 0x20E0202C
def SPN_ENG_FAULT_CAUSE : Fld := ⟨SPN_ENG_FAULT, 28, 4⟩
def SPN_ENG_FAULT_SLOT : Fld := ⟨SPN_ENG_FAULT, 26, 2⟩
def SPN_ENG_FAULT_STAGE : Fld := ⟨SPN_ENG_FAULT, 23, 3⟩
def SPN_ENG_FAULT_RD_PERR : Fld := ⟨SPN_ENG_FAULT, 13, 1⟩
def SPN_ENG_FAULT_ADDR : Fld := ⟨SPN_ENG_FAULT, 0, 13⟩
def SRV_ENG_SATCNT (i : Nat) : Nat := 0x20F02030 + 0x10000 * i
def SRV_ENG_SATCNT_COUNT (i : Nat) : Fld := ⟨SRV_ENG_SATCNT i, 0, 32⟩
def SPN_ENG_SATCNT : Nat := 0x20E02030
def SPN_ENG_SATCNT_COUNT : Fld := ⟨SPN_ENG_SATCNT, 0, 32⟩
def SRV_ENG_BUDGET (i : Nat) : Nat := 0x20F02034 + 0x10000 * i
def SRV_ENG_BUDGET_WORST (i : Nat) : Fld := ⟨SRV_ENG_BUDGET i, 16, 16⟩
def SRV_ENG_BUDGET_LAST (i : Nat) : Fld := ⟨SRV_ENG_BUDGET i, 0, 16⟩
def SPN_ENG_BUDGET : Nat := 0x20E02034
def SPN_ENG_BUDGET_WORST : Fld := ⟨SPN_ENG_BUDGET, 16, 16⟩
def SPN_ENG_BUDGET_LAST : Fld := ⟨SPN_ENG_BUDGET, 0, 16⟩
def SRV_ENG_SLOT_CFG (i n : Nat) : Nat := 0x20F02200 + 0x10000 * i + 4 * n
def SRV_ENG_SLOT_CFG_XPUB (i n : Nat) : Fld := ⟨SRV_ENG_SLOT_CFG i n, 31, 1⟩
def SRV_ENG_SLOT_CFG_XCPL (i n : Nat) : Fld := ⟨SRV_ENG_SLOT_CFG i n, 30, 1⟩
def SRV_ENG_SLOT_CFG_AW_RAW (i n : Nat) : Fld := ⟨SRV_ENG_SLOT_CFG i n, 29, 1⟩
def SRV_ENG_SLOT_CFG_NESTED (i n : Nat) : Fld := ⟨SRV_ENG_SLOT_CFG i n, 28, 1⟩
def SRV_ENG_SLOT_CFG_INNER (i n : Nat) : Fld := ⟨SRV_ENG_SLOT_CFG i n, 26, 2⟩
def SRV_ENG_SLOT_CFG_TICK (i n : Nat) : Fld := ⟨SRV_ENG_SLOT_CFG i n, 24, 2⟩
def SRV_ENG_SLOT_CFG_RATIO (i n : Nat) : Fld := ⟨SRV_ENG_SLOT_CFG i n, 20, 4⟩
def SRV_ENG_SLOT_CFG_NSTATE (i n : Nat) : Fld := ⟨SRV_ENG_SLOT_CFG i n, 8, 4⟩
def SRV_ENG_SLOT_CFG_NIN (i n : Nat) : Fld := ⟨SRV_ENG_SLOT_CFG i n, 4, 2⟩
def SRV_ENG_SLOT_CFG_NOUT (i n : Nat) : Fld := ⟨SRV_ENG_SLOT_CFG i n, 0, 2⟩
def SPN_ENG_SLOT_CFG (n : Nat) : Nat := 0x20E02200 + 4 * n
def SPN_ENG_SLOT_CFG_XPUB (n : Nat) : Fld := ⟨SPN_ENG_SLOT_CFG n, 31, 1⟩
def SPN_ENG_SLOT_CFG_XCPL (n : Nat) : Fld := ⟨SPN_ENG_SLOT_CFG n, 30, 1⟩
def SPN_ENG_SLOT_CFG_AW_RAW (n : Nat) : Fld := ⟨SPN_ENG_SLOT_CFG n, 29, 1⟩
def SPN_ENG_SLOT_CFG_NESTED (n : Nat) : Fld := ⟨SPN_ENG_SLOT_CFG n, 28, 1⟩
def SPN_ENG_SLOT_CFG_INNER (n : Nat) : Fld := ⟨SPN_ENG_SLOT_CFG n, 26, 2⟩
def SPN_ENG_SLOT_CFG_TICK (n : Nat) : Fld := ⟨SPN_ENG_SLOT_CFG n, 24, 2⟩
def SPN_ENG_SLOT_CFG_RATIO (n : Nat) : Fld := ⟨SPN_ENG_SLOT_CFG n, 20, 4⟩
def SPN_ENG_SLOT_CFG_NSTATE (n : Nat) : Fld := ⟨SPN_ENG_SLOT_CFG n, 8, 4⟩
def SPN_ENG_SLOT_CFG_NIN (n : Nat) : Fld := ⟨SPN_ENG_SLOT_CFG n, 4, 2⟩
def SPN_ENG_SLOT_CFG_NOUT (n : Nat) : Fld := ⟨SPN_ENG_SLOT_CFG n, 0, 2⟩
def SRV_ENG_IN_SEL (i n : Nat) : Nat := 0x20F02210 + 0x10000 * i + 4 * n
def SRV_ENG_IN_SEL_ELEM_3 (i n : Nat) : Fld := ⟨SRV_ENG_IN_SEL i n, 24, 8⟩
def SRV_ENG_IN_SEL_ELEM_2 (i n : Nat) : Fld := ⟨SRV_ENG_IN_SEL i n, 16, 8⟩
def SRV_ENG_IN_SEL_ELEM_1 (i n : Nat) : Fld := ⟨SRV_ENG_IN_SEL i n, 8, 8⟩
def SRV_ENG_IN_SEL_ELEM_0 (i n : Nat) : Fld := ⟨SRV_ENG_IN_SEL i n, 0, 8⟩
def SPN_ENG_IN_SEL (n : Nat) : Nat := 0x20E02210 + 4 * n
def SPN_ENG_IN_SEL_ELEM_3 (n : Nat) : Fld := ⟨SPN_ENG_IN_SEL n, 24, 8⟩
def SPN_ENG_IN_SEL_ELEM_2 (n : Nat) : Fld := ⟨SPN_ENG_IN_SEL n, 16, 8⟩
def SPN_ENG_IN_SEL_ELEM_1 (n : Nat) : Fld := ⟨SPN_ENG_IN_SEL n, 8, 8⟩
def SPN_ENG_IN_SEL_ELEM_0 (n : Nat) : Fld := ⟨SPN_ENG_IN_SEL n, 0, 8⟩
def SRV_ENG_SP_SEL (i n : Nat) : Nat := 0x20F02220 + 0x10000 * i + 4 * n
def SRV_ENG_SP_SEL_ELEM_3 (i n : Nat) : Fld := ⟨SRV_ENG_SP_SEL i n, 24, 8⟩
def SRV_ENG_SP_SEL_ELEM_2 (i n : Nat) : Fld := ⟨SRV_ENG_SP_SEL i n, 16, 8⟩
def SRV_ENG_SP_SEL_ELEM_1 (i n : Nat) : Fld := ⟨SRV_ENG_SP_SEL i n, 8, 8⟩
def SRV_ENG_SP_SEL_ELEM_0 (i n : Nat) : Fld := ⟨SRV_ENG_SP_SEL i n, 0, 8⟩
def SPN_ENG_SP_SEL (n : Nat) : Nat := 0x20E02220 + 4 * n
def SPN_ENG_SP_SEL_ELEM_3 (n : Nat) : Fld := ⟨SPN_ENG_SP_SEL n, 24, 8⟩
def SPN_ENG_SP_SEL_ELEM_2 (n : Nat) : Fld := ⟨SPN_ENG_SP_SEL n, 16, 8⟩
def SPN_ENG_SP_SEL_ELEM_1 (n : Nat) : Fld := ⟨SPN_ENG_SP_SEL n, 8, 8⟩
def SPN_ENG_SP_SEL_ELEM_0 (n : Nat) : Fld := ⟨SPN_ENG_SP_SEL n, 0, 8⟩
def SRV_ENG_OUT_SEL (i n : Nat) : Nat := 0x20F02230 + 0x10000 * i + 4 * n
def SRV_ENG_OUT_SEL_ELEM_3 (i n : Nat) : Fld := ⟨SRV_ENG_OUT_SEL i n, 24, 8⟩
def SRV_ENG_OUT_SEL_ELEM_2 (i n : Nat) : Fld := ⟨SRV_ENG_OUT_SEL i n, 16, 8⟩
def SRV_ENG_OUT_SEL_ELEM_1 (i n : Nat) : Fld := ⟨SRV_ENG_OUT_SEL i n, 8, 8⟩
def SRV_ENG_OUT_SEL_ELEM_0 (i n : Nat) : Fld := ⟨SRV_ENG_OUT_SEL i n, 0, 8⟩
def SPN_ENG_OUT_SEL (n : Nat) : Nat := 0x20E02230 + 4 * n
def SPN_ENG_OUT_SEL_ELEM_3 (n : Nat) : Fld := ⟨SPN_ENG_OUT_SEL n, 24, 8⟩
def SPN_ENG_OUT_SEL_ELEM_2 (n : Nat) : Fld := ⟨SPN_ENG_OUT_SEL n, 16, 8⟩
def SPN_ENG_OUT_SEL_ELEM_1 (n : Nat) : Fld := ⟨SPN_ENG_OUT_SEL n, 8, 8⟩
def SPN_ENG_OUT_SEL_ELEM_0 (n : Nat) : Fld := ⟨SPN_ENG_OUT_SEL n, 0, 8⟩
def SRV_ENG_SP_CONST (i n : Nat) : Nat := 0x20F02240 + 0x10000 * i + 4 * n
def SRV_ENG_SP_CONST_M (i n : Nat) : Fld := ⟨SRV_ENG_SP_CONST i n, 8, 16⟩
def SRV_ENG_SP_CONST_E (i n : Nat) : Fld := ⟨SRV_ENG_SP_CONST i n, 0, 8⟩
def SPN_ENG_SP_CONST (n : Nat) : Nat := 0x20E02240 + 4 * n
def SPN_ENG_SP_CONST_M (n : Nat) : Fld := ⟨SPN_ENG_SP_CONST n, 8, 16⟩
def SPN_ENG_SP_CONST_E (n : Nat) : Fld := ⟨SPN_ENG_SP_CONST n, 0, 8⟩
def SRV_ENG_AUX (i : Nat) : Nat := 0x20F02250 + 0x10000 * i
def SRV_ENG_AUX_ALLOW (i : Nat) : Fld := ⟨SRV_ENG_AUX i, 31, 1⟩
def SRV_ENG_AUX_OFFSET (i : Nat) : Fld := ⟨SRV_ENG_AUX i, 16, 12⟩
def SRV_ENG_AUX_GAIN (i : Nat) : Fld := ⟨SRV_ENG_AUX i, 0, 16⟩
def SRV_ENG_XCPL_AGE (i : Nat) : Nat := 0x20F02254 + 0x10000 * i
def SRV_ENG_XCPL_AGE_AGE (i : Nat) : Fld := ⟨SRV_ENG_XCPL_AGE i, 0, 8⟩
def SRV_ENG_COEF_ADDR (i : Nat) : Nat := 0x20F02300 + 0x10000 * i
def SRV_ENG_COEF_ADDR_AUTO_INC (i : Nat) : Fld := ⟨SRV_ENG_COEF_ADDR i, 31, 1⟩
def SRV_ENG_COEF_ADDR_ADDR (i : Nat) : Fld := ⟨SRV_ENG_COEF_ADDR i, 0, 13⟩
def SPN_ENG_COEF_ADDR : Nat := 0x20E02300
def SPN_ENG_COEF_ADDR_AUTO_INC : Fld := ⟨SPN_ENG_COEF_ADDR, 31, 1⟩
def SPN_ENG_COEF_ADDR_ADDR : Fld := ⟨SPN_ENG_COEF_ADDR, 0, 13⟩
def SRV_ENG_COEF_DATA (i : Nat) : Nat := 0x20F02304 + 0x10000 * i
def SRV_ENG_COEF_DATA_DATA (i : Nat) : Fld := ⟨SRV_ENG_COEF_DATA i, 0, 16⟩
def SPN_ENG_COEF_DATA : Nat := 0x20E02304
def SPN_ENG_COEF_DATA_DATA : Fld := ⟨SPN_ENG_COEF_DATA, 0, 16⟩
def SRV_ENG_PROF_CTL (i : Nat) : Nat := 0x20F03020 + 0x10000 * i
def SRV_ENG_PROF_CTL_GO (i : Nat) : Fld := ⟨SRV_ENG_PROF_CTL i, 31, 1⟩
def SRV_ENG_PROF_CTL_DONE (i : Nat) : Fld := ⟨SRV_ENG_PROF_CTL i, 1, 1⟩
def SRV_ENG_PROF_CTL_BUSY (i : Nat) : Fld := ⟨SRV_ENG_PROF_CTL i, 0, 1⟩
def SRV_ENG_PROF_TGT (i : Nat) : Nat := 0x20F03024 + 0x10000 * i
def SRV_ENG_PROF_TGT_TARGET (i : Nat) : Fld := ⟨SRV_ENG_PROF_TGT i, 0, 32⟩
def SRV_ENG_PROF_P (i : Nat) : Nat := 0x20F03028 + 0x10000 * i
def SRV_ENG_PROF_P_P (i : Nat) : Fld := ⟨SRV_ENG_PROF_P i, 0, 32⟩
def SRV_ENG_PROF_V (i : Nat) : Nat := 0x20F0302C + 0x10000 * i
def SRV_ENG_PROF_V_V (i : Nat) : Fld := ⟨SRV_ENG_PROF_V i, 0, 32⟩
def SRV_ENG_PROF_A (i : Nat) : Nat := 0x20F03030 + 0x10000 * i
def SRV_ENG_PROF_A_A (i : Nat) : Fld := ⟨SRV_ENG_PROF_A i, 0, 32⟩
def SRV_ENG_PROF_VMAX (i : Nat) : Nat := 0x20F03034 + 0x10000 * i
def SRV_ENG_PROF_VMAX_LIMIT (i : Nat) : Fld := ⟨SRV_ENG_PROF_VMAX i, 0, 32⟩
def SRV_ENG_PROF_AMAX (i : Nat) : Nat := 0x20F03038 + 0x10000 * i
def SRV_ENG_PROF_AMAX_LIMIT (i : Nat) : Fld := ⟨SRV_ENG_PROF_AMAX i, 0, 32⟩
def SRV_ENG_PROF_JMAX (i : Nat) : Nat := 0x20F0303C + 0x10000 * i
def SRV_ENG_PROF_JMAX_LIMIT (i : Nat) : Fld := ⟨SRV_ENG_PROF_JMAX i, 0, 32⟩
def SRV_ENG_PROF_CFG (i : Nat) : Nat := 0x20F03040 + 0x10000 * i
def SRV_ENG_PROF_CFG_TICK (i : Nat) : Fld := ⟨SRV_ENG_PROF_CFG i, 16, 2⟩
def SRV_ENG_PROF_CFG_DONE_TOL (i : Nat) : Fld := ⟨SRV_ENG_PROF_CFG i, 0, 16⟩
def SRV_ENG_TRC_CTL (i : Nat) : Nat := 0x20F03060 + 0x10000 * i
def SRV_ENG_TRC_CTL_ARM (i : Nat) : Fld := ⟨SRV_ENG_TRC_CTL i, 31, 1⟩
def SRV_ENG_TRC_CTL_FORCE (i : Nat) : Fld := ⟨SRV_ENG_TRC_CTL i, 30, 1⟩
def SRV_ENG_TRC_CTL_POST (i : Nat) : Fld := ⟨SRV_ENG_TRC_CTL i, 16, 12⟩
def SRV_ENG_TRC_CTL_DECIM (i : Nat) : Fld := ⟨SRV_ENG_TRC_CTL i, 8, 8⟩
def SRV_ENG_TRC_CTL_SLOT (i : Nat) : Fld := ⟨SRV_ENG_TRC_CTL i, 0, 2⟩
def SPN_ENG_TRC_CTL : Nat := 0x20E03060
def SPN_ENG_TRC_CTL_ARM : Fld := ⟨SPN_ENG_TRC_CTL, 31, 1⟩
def SPN_ENG_TRC_CTL_FORCE : Fld := ⟨SPN_ENG_TRC_CTL, 30, 1⟩
def SPN_ENG_TRC_CTL_POST : Fld := ⟨SPN_ENG_TRC_CTL, 16, 12⟩
def SPN_ENG_TRC_CTL_DECIM : Fld := ⟨SPN_ENG_TRC_CTL, 8, 8⟩
def SPN_ENG_TRC_CTL_SLOT : Fld := ⟨SPN_ENG_TRC_CTL, 0, 2⟩
def SRV_ENG_TRC_TRIG (i : Nat) : Nat := 0x20F03064 + 0x10000 * i
def SRV_ENG_TRC_TRIG_SRC (i : Nat) : Fld := ⟨SRV_ENG_TRC_TRIG i, 28, 4⟩
def SRV_ENG_TRC_TRIG_THR_M (i : Nat) : Fld := ⟨SRV_ENG_TRC_TRIG i, 8, 16⟩
def SRV_ENG_TRC_TRIG_THR_E (i : Nat) : Fld := ⟨SRV_ENG_TRC_TRIG i, 0, 8⟩
def SPN_ENG_TRC_TRIG : Nat := 0x20E03064
def SPN_ENG_TRC_TRIG_SRC : Fld := ⟨SPN_ENG_TRC_TRIG, 28, 4⟩
def SPN_ENG_TRC_TRIG_THR_M : Fld := ⟨SPN_ENG_TRC_TRIG, 8, 16⟩
def SPN_ENG_TRC_TRIG_THR_E : Fld := ⟨SPN_ENG_TRC_TRIG, 0, 8⟩
def SRV_ENG_TRC_STAT (i : Nat) : Nat := 0x20F03068 + 0x10000 * i
def SRV_ENG_TRC_STAT_STATE (i : Nat) : Fld := ⟨SRV_ENG_TRC_STAT i, 30, 2⟩
def SRV_ENG_TRC_STAT_SHORT (i : Nat) : Fld := ⟨SRV_ENG_TRC_STAT i, 29, 1⟩
def SRV_ENG_TRC_STAT_TRIG_IDX (i : Nat) : Fld := ⟨SRV_ENG_TRC_STAT i, 16, 12⟩
def SRV_ENG_TRC_STAT_COUNT (i : Nat) : Fld := ⟨SRV_ENG_TRC_STAT i, 0, 13⟩
def SPN_ENG_TRC_STAT : Nat := 0x20E03068
def SPN_ENG_TRC_STAT_STATE : Fld := ⟨SPN_ENG_TRC_STAT, 30, 2⟩
def SPN_ENG_TRC_STAT_SHORT : Fld := ⟨SPN_ENG_TRC_STAT, 29, 1⟩
def SPN_ENG_TRC_STAT_TRIG_IDX : Fld := ⟨SPN_ENG_TRC_STAT, 16, 12⟩
def SPN_ENG_TRC_STAT_COUNT : Fld := ⟨SPN_ENG_TRC_STAT, 0, 13⟩
def SRV_ENG_TRC_ADDR (i : Nat) : Nat := 0x20F0306C + 0x10000 * i
def SRV_ENG_TRC_ADDR_AUTO_INC (i : Nat) : Fld := ⟨SRV_ENG_TRC_ADDR i, 31, 1⟩
def SRV_ENG_TRC_ADDR_CH (i : Nat) : Fld := ⟨SRV_ENG_TRC_ADDR i, 12, 3⟩
def SRV_ENG_TRC_ADDR_IDX (i : Nat) : Fld := ⟨SRV_ENG_TRC_ADDR i, 0, 12⟩
def SPN_ENG_TRC_ADDR : Nat := 0x20E0306C
def SPN_ENG_TRC_ADDR_AUTO_INC : Fld := ⟨SPN_ENG_TRC_ADDR, 31, 1⟩
def SPN_ENG_TRC_ADDR_CH : Fld := ⟨SPN_ENG_TRC_ADDR, 12, 3⟩
def SPN_ENG_TRC_ADDR_IDX : Fld := ⟨SPN_ENG_TRC_ADDR, 0, 12⟩
def SRV_ENG_TRC_DATA (i : Nat) : Nat := 0x20F03070 + 0x10000 * i
def SRV_ENG_TRC_DATA_ENTRY (i : Nat) : Fld := ⟨SRV_ENG_TRC_DATA i, 0, 32⟩
def SPN_ENG_TRC_DATA : Nat := 0x20E03070
def SPN_ENG_TRC_DATA_ENTRY : Fld := ⟨SPN_ENG_TRC_DATA, 0, 32⟩
def SRV_ENG_TRC_SEL (i n : Nat) : Nat := 0x20F03080 + 0x10000 * i + 4 * n
def SRV_ENG_TRC_SEL_KIND (i n : Nat) : Fld := ⟨SRV_ENG_TRC_SEL i n, 8, 4⟩
def SRV_ENG_TRC_SEL_SLOT (i n : Nat) : Fld := ⟨SRV_ENG_TRC_SEL i n, 4, 2⟩
def SRV_ENG_TRC_SEL_INDEX (i n : Nat) : Fld := ⟨SRV_ENG_TRC_SEL i n, 0, 4⟩
def SPN_ENG_TRC_SEL (n : Nat) : Nat := 0x20E03080 + 4 * n
def SPN_ENG_TRC_SEL_KIND (n : Nat) : Fld := ⟨SPN_ENG_TRC_SEL n, 8, 4⟩
def SPN_ENG_TRC_SEL_SLOT (n : Nat) : Fld := ⟨SPN_ENG_TRC_SEL n, 4, 2⟩
def SPN_ENG_TRC_SEL_INDEX (n : Nat) : Fld := ⟨SPN_ENG_TRC_SEL n, 0, 4⟩
def SRV_CFG (i : Nat) : Nat := 0x20F00020 + 0x10000 * i
def SRV_CFG_NHEADS (i : Nat) : Fld := ⟨SRV_CFG i, 8, 4⟩
def SRV_CFG_SRDR (i : Nat) : Fld := ⟨SRV_CFG i, 4, 1⟩
def SRV_CFG_PRED_EN (i : Nat) : Fld := ⟨SRV_CFG i, 0, 1⟩
def SRV_CMD (i : Nat) : Nat := 0x20F00024 + 0x10000 * i
def SRV_CMD_RETRACT (i : Nat) : Fld := ⟨SRV_CMD i, 2, 1⟩
def SRV_CMD_UNLOAD (i : Nat) : Fld := ⟨SRV_CMD i, 1, 1⟩
def SRV_CMD_LOAD (i : Nat) : Fld := ⟨SRV_CMD i, 0, 1⟩
def SRV_MODE (i : Nat) : Nat := 0x20F00028 + 0x10000 * i
def SRV_MODE_CAUSE (i : Nat) : Fld := ⟨SRV_MODE i, 28, 4⟩
def SRV_MODE_EMRG_HOLD (i : Nat) : Fld := ⟨SRV_MODE i, 12, 1⟩
def SRV_MODE_SHOCK_HOLD (i : Nat) : Fld := ⟨SRV_MODE i, 11, 1⟩
def SRV_MODE_HEAD_PEND (i : Nat) : Fld := ⟨SRV_MODE i, 10, 1⟩
def SRV_MODE_OTWI (i : Nat) : Fld := ⟨SRV_MODE i, 9, 1⟩
def SRV_MODE_LOADED (i : Nat) : Fld := ⟨SRV_MODE i, 8, 1⟩
def SRV_MODE_MODE (i : Nat) : Fld := ⟨SRV_MODE i, 0, 4⟩
def SRV_HEAD (i : Nat) : Nat := 0x20F0002C + 0x10000 * i
def SRV_HEAD_HEAD (i : Nat) : Fld := ⟨SRV_HEAD i, 0, 4⟩
def SRV_TRACK (i : Nat) : Nat := 0x20F00030 + 0x10000 * i
def SRV_TRACK_REF (i : Nat) : Fld := ⟨SRV_TRACK i, 0, 32⟩
def SRV_OFFSET (i : Nat) : Nat := 0x20F00034 + 0x10000 * i
def SRV_OFFSET_OFFSET (i : Nat) : Fld := ⟨SRV_OFFSET i, 0, 16⟩
def SRV_POS (i : Nat) : Nat := 0x20F00038 + 0x10000 * i
def SRV_POS_POS (i : Nat) : Fld := ⟨SRV_POS i, 0, 32⟩
def SRV_PES (i : Nat) : Nat := 0x20F0003C + 0x10000 * i
def SRV_PES_VALID (i : Nat) : Fld := ⟨SRV_PES i, 31, 1⟩
def SRV_PES_PRED (i : Nat) : Fld := ⟨SRV_PES i, 30, 1⟩
def SRV_PES_PES (i : Nat) : Fld := ⟨SRV_PES i, 0, 16⟩
def SRV_OTW (i : Nat) : Nat := 0x20F00040 + 0x10000 * i
def SRV_OTW_CLR_N (i : Nat) : Fld := ⟨SRV_OTW i, 16, 4⟩
def SRV_OTW_LIM (i : Nat) : Fld := ⟨SRV_OTW i, 0, 16⟩
def SRV_SETTLE (i : Nat) : Nat := 0x20F00044 + 0x10000 * i
def SRV_SETTLE_N (i : Nat) : Fld := ⟨SRV_SETTLE i, 16, 4⟩
def SRV_SETTLE_TOL (i : Nat) : Fld := ⟨SRV_SETTLE i, 0, 16⟩
def SRV_SHOCK (i : Nat) : Nat := 0x20F00048 + 0x10000 * i
def SRV_SHOCK_HOLD (i : Nat) : Fld := ⟨SRV_SHOCK i, 24, 8⟩
def SRV_SHOCK_LIM (i : Nat) : Fld := ⟨SRV_SHOCK i, 0, 12⟩
def SRV_SHOCK_VAL (i : Nat) : Nat := 0x20F0004C + 0x10000 * i
def SRV_SHOCK_VAL_SHOCK_1 (i : Nat) : Fld := ⟨SRV_SHOCK_VAL i, 16, 12⟩
def SRV_SHOCK_VAL_SHOCK_0 (i : Nat) : Fld := ⟨SRV_SHOCK_VAL i, 0, 12⟩
def SRV_CNT (i : Nat) : Nat := 0x20F00050 + 0x10000 * i
def SRV_CNT_RETRACTS (i : Nat) : Fld := ⟨SRV_CNT i, 24, 8⟩
def SRV_CNT_LATE_DEMOD (i : Nat) : Fld := ⟨SRV_CNT i, 16, 8⟩
def SRV_CNT_OTW_EVT (i : Nat) : Fld := ⟨SRV_CNT i, 8, 8⟩
def SRV_CNT_EMRG (i : Nat) : Fld := ⟨SRV_CNT i, 0, 8⟩
def SRV_BAD (i : Nat) : Nat := 0x20F00054 + 0x10000 * i
def SRV_BAD_COUNT (i : Nat) : Fld := ⟨SRV_BAD i, 0, 32⟩
def SRV_DEMOD (i : Nat) : Nat := 0x20F01100 + 0x10000 * i
def SRV_DEMOD_LOAD_N (i : Nat) : Fld := ⟨SRV_DEMOD i, 24, 4⟩
def SRV_DEMOD_MAXMISS (i : Nat) : Fld := ⟨SRV_DEMOD i, 16, 4⟩
def SRV_DEMOD_AMIN (i : Nat) : Fld := ⟨SRV_DEMOD i, 0, 12⟩
def SRV_LIN (i n : Nat) : Nat := 0x20F01140 + 0x10000 * i + 4 * n
def SRV_LIN_CORR (i n : Nat) : Fld := ⟨SRV_LIN i n, 0, 16⟩
def SRV_BEMF (i : Nat) : Nat := 0x20F01200 + 0x10000 * i
def SRV_BEMF_VSRC_EN (i : Nat) : Fld := ⟨SRV_BEMF i, 31, 1⟩
def SRV_BEMF_VSEL (i : Nat) : Fld := ⟨SRV_BEMF i, 24, 3⟩
def SRV_BEMF_VGAIN (i : Nat) : Fld := ⟨SRV_BEMF i, 12, 12⟩
def SRV_BEMF_RGAIN (i : Nat) : Fld := ⟨SRV_BEMF i, 0, 12⟩
def SRV_GEN_LOAD (i : Nat) : Nat := 0x20F01204 + 0x10000 * i
def SRV_GEN_LOAD_I_DRIVE (i : Nat) : Fld := ⟨SRV_GEN_LOAD i, 16, 16⟩
def SRV_GEN_LOAD_VTGT (i : Nat) : Fld := ⟨SRV_GEN_LOAD i, 0, 16⟩
def SRV_GEN_UNLOAD (i : Nat) : Nat := 0x20F0120C + 0x10000 * i
def SRV_GEN_UNLOAD_I_DRIVE (i : Nat) : Fld := ⟨SRV_GEN_UNLOAD i, 16, 16⟩
def SRV_GEN_UNLOAD_VTGT (i : Nat) : Fld := ⟨SRV_GEN_UNLOAD i, 0, 16⟩
def SRV_GEN_RETRACT (i : Nat) : Nat := 0x20F01214 + 0x10000 * i
def SRV_GEN_RETRACT_I_DRIVE (i : Nat) : Fld := ⟨SRV_GEN_RETRACT i, 16, 16⟩
def SRV_GEN_RETRACT_VTGT (i : Nat) : Fld := ⟨SRV_GEN_RETRACT i, 0, 16⟩
def SRV_GEN_LOAD_T (i : Nat) : Nat := 0x20F01208 + 0x10000 * i
def SRV_GEN_LOAD_T_T_MOVE (i : Nat) : Fld := ⟨SRV_GEN_LOAD_T i, 16, 16⟩
def SRV_GEN_LOAD_T_T_HOLD (i : Nat) : Fld := ⟨SRV_GEN_LOAD_T i, 0, 16⟩
def SRV_GEN_UNLOAD_T (i : Nat) : Nat := 0x20F01210 + 0x10000 * i
def SRV_GEN_UNLOAD_T_T_MOVE (i : Nat) : Fld := ⟨SRV_GEN_UNLOAD_T i, 16, 16⟩
def SRV_GEN_UNLOAD_T_T_HOLD (i : Nat) : Fld := ⟨SRV_GEN_UNLOAD_T i, 0, 16⟩
def SRV_GEN_RETRACT_T (i : Nat) : Nat := 0x20F01218 + 0x10000 * i
def SRV_GEN_RETRACT_T_T_MOVE (i : Nat) : Fld := ⟨SRV_GEN_RETRACT_T i, 16, 16⟩
def SRV_GEN_RETRACT_T_T_HOLD (i : Nat) : Fld := ⟨SRV_GEN_RETRACT_T i, 0, 16⟩
def SRV_GEN_HOLD (i : Nat) : Nat := 0x20F0121C + 0x10000 * i
def SRV_GEN_HOLD_I_HOLD (i : Nat) : Fld := ⟨SRV_GEN_HOLD i, 16, 16⟩
def SRV_GEN_HOLD_VHYS (i : Nat) : Fld := ⟨SRV_GEN_HOLD i, 0, 16⟩
def CHN_CFG (i : Nat) : Nat := 0x21000020 + 0x10000 * i
def CHN_CFG_AUTO_L2 (i : Nat) : Fld := ⟨CHN_CFG i, 1, 1⟩
def CHN_CFG_AUTO_L1 (i : Nat) : Fld := ⟨CHN_CFG i, 0, 1⟩
def CHN_STAT (i : Nat) : Nat := 0x21000024 + 0x10000 * i
def CHN_STAT_CAP_VERIFY (i : Nat) : Fld := ⟨CHN_STAT i, 5, 1⟩
def CHN_STAT_CAP_NORMAL (i : Nat) : Fld := ⟨CHN_STAT i, 4, 1⟩
def CHN_STAT_BUSY_REPLAY (i : Nat) : Fld := ⟨CHN_STAT i, 2, 1⟩
def CHN_STAT_BUSY_VERIFY (i : Nat) : Fld := ⟨CHN_STAT i, 1, 1⟩
def CHN_STAT_BUSY_NORMAL (i : Nat) : Fld := ⟨CHN_STAT i, 0, 1⟩
def CHN_RING_BASE (i : Nat) : Nat := 0x21000028 + 0x10000 * i
def CHN_RING_BASE_BASE (i : Nat) : Fld := ⟨CHN_RING_BASE i, 0, 32⟩
def CHN_RING_CFG (i : Nat) : Nat := 0x2100002C + 0x10000 * i
def CHN_RING_CFG_LOG2SIZE (i : Nat) : Fld := ⟨CHN_RING_CFG i, 0, 4⟩
def CHN_RING_PROD (i : Nat) : Nat := 0x21000030 + 0x10000 * i
def CHN_RING_PROD_INDEX (i : Nat) : Fld := ⟨CHN_RING_PROD i, 0, 16⟩
def CHN_RING_CONS (i : Nat) : Nat := 0x21000034 + 0x10000 * i
def CHN_RING_CONS_INDEX (i : Nat) : Fld := ⟨CHN_RING_CONS i, 0, 16⟩
def CHN_AFE_A (i : Nat) : Nat := 0x21001020 + 0x10000 * i
def CHN_AFE_A_FC (i : Nat) : Fld := ⟨CHN_AFE_A i, 24, 6⟩
def CHN_AFE_A_BOOST (i : Nat) : Fld := ⟨CHN_AFE_A i, 16, 5⟩
def CHN_AFE_A_GAIN (i : Nat) : Fld := ⟨CHN_AFE_A i, 8, 8⟩
def CHN_AFE_A_AGC_EN (i : Nat) : Fld := ⟨CHN_AFE_A i, 1, 1⟩
def CHN_AFE_A_PWR (i : Nat) : Fld := ⟨CHN_AFE_A i, 0, 1⟩
def CHN_AFE_B (i : Nat) : Nat := 0x21001024 + 0x10000 * i
def CHN_AFE_B_FC (i : Nat) : Fld := ⟨CHN_AFE_B i, 24, 6⟩
def CHN_AFE_B_BOOST (i : Nat) : Fld := ⟨CHN_AFE_B i, 16, 5⟩
def CHN_AFE_B_GAIN (i : Nat) : Fld := ⟨CHN_AFE_B i, 8, 8⟩
def CHN_AFE_B_AGC_EN (i : Nat) : Fld := ⟨CHN_AFE_B i, 1, 1⟩
def CHN_AFE_B_PWR (i : Nat) : Fld := ⟨CHN_AFE_B i, 0, 1⟩
def CHN_AFE_SRV (i : Nat) : Nat := 0x21001028 + 0x10000 * i
def CHN_AFE_SRV_FC (i : Nat) : Fld := ⟨CHN_AFE_SRV i, 24, 6⟩
def CHN_AFE_SRV_BOOST (i : Nat) : Fld := ⟨CHN_AFE_SRV i, 16, 5⟩
def CHN_AFE_SRV_GAIN (i : Nat) : Fld := ⟨CHN_AFE_SRV i, 8, 8⟩
def CHN_AFE_SRV_AGC_EN (i : Nat) : Fld := ⟨CHN_AFE_SRV i, 1, 1⟩
def CHN_AFE_SRV_PWR (i : Nat) : Fld := ⟨CHN_AFE_SRV i, 0, 1⟩
def CHN_AGC (i : Nat) : Nat := 0x2100102C + 0x10000 * i
def CHN_AGC_TARGET (i : Nat) : Fld := ⟨CHN_AGC i, 24, 8⟩
def CHN_AGC_KACQ (i : Nat) : Fld := ⟨CHN_AGC i, 20, 4⟩
def CHN_AGC_KTRK (i : Nat) : Fld := ⟨CHN_AGC i, 16, 4⟩
def CHN_TREC (i : Nat) : Nat := 0x21001030 + 0x10000 * i
def CHN_TREC_KP_ACQ (i : Nat) : Fld := ⟨CHN_TREC i, 28, 4⟩
def CHN_TREC_KP_TRK (i : Nat) : Fld := ⟨CHN_TREC i, 24, 4⟩
def CHN_TREC_KI_TRK (i : Nat) : Fld := ⟨CHN_TREC i, 20, 4⟩
def CHN_TREC_ACQ_BITS (i : Nat) : Fld := ⟨CHN_TREC i, 0, 8⟩
def CHN_AFE_STAT (i n : Nat) : Nat := 0x21001034 + 0x10000 * i + 4 * n
def CHN_AFE_STAT_GAIN (i n : Nat) : Fld := ⟨CHN_AFE_STAT i n, 24, 8⟩
def CHN_AFE_STAT_PHASE (i n : Nat) : Fld := ⟨CHN_AFE_STAT i n, 16, 6⟩
def CHN_AFE_STAT_DCOFS (i n : Nat) : Fld := ⟨CHN_AFE_STAT i n, 8, 8⟩
def CHN_AFE_STAT_RMS (i n : Nat) : Fld := ⟨CHN_AFE_STAT i n, 0, 8⟩
def CHN_SYNC (i : Nat) : Nat := 0x21002020 + 0x10000 * i
def CHN_SYNC_W (i : Nat) : Fld := ⟨CHN_SYNC i, 24, 8⟩
def CHN_SYNC_THR (i : Nat) : Fld := ⟨CHN_SYNC i, 16, 6⟩
def CHN_SYNC_THR_RELAX (i : Nat) : Fld := ⟨CHN_SYNC i, 8, 6⟩
def CHN_SYNC_REJ (i : Nat) : Nat := 0x21002024 + 0x10000 * i
def CHN_SYNC_REJ_REJECT (i : Nat) : Fld := ⟨CHN_SYNC_REJ i, 0, 12⟩
def CHN_MARGIN (i : Nat) : Nat := 0x21002028 + 0x10000 * i
def CHN_MARGIN_CMARGIN (i : Nat) : Fld := ⟨CHN_MARGIN i, 0, 7⟩
def CHN_ITER_NORMAL (i : Nat) : Nat := 0x21003020 + 0x10000 * i
def CHN_ITER_NORMAL_GMAX (i : Nat) : Fld := ⟨CHN_ITER_NORMAL i, 8, 4⟩
def CHN_ITER_NORMAL_LMAX (i : Nat) : Fld := ⟨CHN_ITER_NORMAL i, 0, 5⟩
def CHN_ITER_VERIFY (i : Nat) : Nat := 0x21003024 + 0x10000 * i
def CHN_ITER_VERIFY_GMAX (i : Nat) : Fld := ⟨CHN_ITER_VERIFY i, 8, 4⟩
def CHN_ITER_VERIFY_LMAX (i : Nat) : Fld := ⟨CHN_ITER_VERIFY i, 0, 5⟩
def CHN_ITER_REPLAY (i : Nat) : Nat := 0x21003028 + 0x10000 * i
def CHN_ITER_REPLAY_GMAX (i : Nat) : Fld := ⟨CHN_ITER_REPLAY i, 8, 4⟩
def CHN_ITER_REPLAY_LMAX (i : Nat) : Fld := ⟨CHN_ITER_REPLAY i, 0, 5⟩
def CHN_COEF_ADDR (i : Nat) : Nat := 0x21004020 + 0x10000 * i
def CHN_COEF_ADDR_AUTO_INC (i : Nat) : Fld := ⟨CHN_COEF_ADDR i, 31, 1⟩
def CHN_COEF_ADDR_ADDR (i : Nat) : Fld := ⟨CHN_COEF_ADDR i, 0, 9⟩
def CHN_COEF_DATA (i : Nat) : Nat := 0x21004024 + 0x10000 * i
def CHN_COEF_DATA_DATA (i : Nat) : Fld := ⟨CHN_COEF_DATA i, 0, 16⟩
def CHN_EQ_ADAPT (i : Nat) : Nat := 0x21004028 + 0x10000 * i
def CHN_EQ_ADAPT_EN (i : Nat) : Fld := ⟨CHN_EQ_ADAPT i, 31, 1⟩
def CHN_EQ_ADAPT_MU (i : Nat) : Fld := ⟨CHN_EQ_ADAPT i, 0, 4⟩
def CHN_RP_REQ (i n : Nat) : Nat := 0x21005020 + 0x10000 * i + 4 * n
def CHN_RP_REQ_WORD (i n : Nat) : Fld := ⟨CHN_RP_REQ i n, 0, 32⟩
def CHN_RP_PUSH (i : Nat) : Nat := 0x21005034 + 0x10000 * i
def CHN_RP_PUSH_PUSH (i : Nat) : Fld := ⟨CHN_RP_PUSH i, 0, 1⟩
def CHN_RP_STAT (i : Nat) : Nat := 0x21005038 + 0x10000 * i
def CHN_RP_STAT_DEPTH (i : Nat) : Fld := ⟨CHN_RP_STAT i, 16, 5⟩
def CHN_RP_STAT_BUSY (i : Nat) : Fld := ⟨CHN_RP_STAT i, 8, 1⟩
def CHN_RP_STAT_TAG (i : Nat) : Fld := ⟨CHN_RP_STAT i, 0, 8⟩
def CHN_RB_PIN (i : Nat) : Nat := 0x2100503C + 0x10000 * i
def CHN_RB_PIN_OP (i : Nat) : Fld := ⟨CHN_RB_PIN i, 31, 1⟩
def CHN_RB_PIN_SLOT (i : Nat) : Fld := ⟨CHN_RB_PIN i, 16, 6⟩
def CHN_RB_PIN_GEN (i : Nat) : Fld := ⟨CHN_RB_PIN i, 8, 8⟩
def CHN_RB_STAT (i : Nat) : Nat := 0x21005040 + 0x10000 * i
def CHN_RB_STAT_PIN_COUNT (i : Nat) : Fld := ⟨CHN_RB_STAT i, 24, 6⟩
def CHN_RB_STAT_LAST_ALLOC (i : Nat) : Fld := ⟨CHN_RB_STAT i, 16, 6⟩
def CHN_RB_STAT_PIN_OK (i : Nat) : Fld := ⟨CHN_RB_STAT i, 0, 1⟩
def CHN_RB_PINMAP_LO (i : Nat) : Nat := 0x21005044 + 0x10000 * i
def CHN_RB_PINMAP_LO_MAP (i : Nat) : Fld := ⟨CHN_RB_PINMAP_LO i, 0, 32⟩
def CHN_RB_PINMAP_HI (i : Nat) : Nat := 0x21005048 + 0x10000 * i
def CHN_RB_PINMAP_HI_MAP (i : Nat) : Fld := ⟨CHN_RB_PINMAP_HI i, 0, 32⟩
def CHN_RB_PIN_MAX (i : Nat) : Nat := 0x2100504C + 0x10000 * i
def CHN_RB_PIN_MAX_MAX (i : Nat) : Fld := ⟨CHN_RB_PIN_MAX i, 0, 6⟩
def CHN_CNT_SECT (i : Nat) : Nat := 0x21006020 + 0x10000 * i
def CHN_CNT_SECT_COUNT (i : Nat) : Fld := ⟨CHN_CNT_SECT i, 0, 32⟩
def CHN_CNT_CONV (i : Nat) : Nat := 0x21006024 + 0x10000 * i
def CHN_CNT_CONV_COUNT (i : Nat) : Fld := ⟨CHN_CNT_CONV i, 0, 32⟩
def CHN_CNT_FAIL (i : Nat) : Nat := 0x21006028 + 0x10000 * i
def CHN_CNT_FAIL_NO_SLOT (i : Nat) : Fld := ⟨CHN_CNT_FAIL i, 24, 8⟩
def CHN_CNT_FAIL_INCOMPLETE (i : Nat) : Fld := ⟨CHN_CNT_FAIL i, 16, 8⟩
def CHN_CNT_FAIL_RING_DROP (i : Nat) : Fld := ⟨CHN_CNT_FAIL i, 8, 8⟩
def CHN_CNT_FAIL_LIVE_FAIL (i : Nat) : Fld := ⟨CHN_CNT_FAIL i, 0, 8⟩
def CHN_CNT_SYNC (i : Nat) : Nat := 0x2100602C + 0x10000 * i
def CHN_CNT_SYNC_MISS (i : Nat) : Fld := ⟨CHN_CNT_SYNC i, 16, 16⟩
def CHN_CNT_SYNC_REJ (i : Nat) : Fld := ⟨CHN_CNT_SYNC i, 0, 16⟩
def CHN_CNT_CAND (i : Nat) : Nat := 0x21006030 + 0x10000 * i
def CHN_CNT_CAND_USED (i : Nat) : Fld := ⟨CHN_CNT_CAND i, 0, 32⟩
def CHN_CNT_REPLAY (i : Nat) : Nat := 0x21006034 + 0x10000 * i
def CHN_CNT_REPLAY_ATTEMPTS (i : Nat) : Fld := ⟨CHN_CNT_REPLAY i, 16, 16⟩
def CHN_CNT_REPLAY_CONV (i : Nat) : Fld := ⟨CHN_CNT_REPLAY i, 0, 16⟩
def CHN_CNT_CLR (i : Nat) : Nat := 0x21006038 + 0x10000 * i
def CHN_CNT_CLR_CLR (i : Nat) : Fld := ⟨CHN_CNT_CLR i, 0, 1⟩
def CHN_RB_DIAG_ADDR (i : Nat) : Nat := 0x21007100 + 0x10000 * i
def CHN_RB_DIAG_ADDR_AUTO_INC (i : Nat) : Fld := ⟨CHN_RB_DIAG_ADDR i, 31, 1⟩
def CHN_RB_DIAG_ADDR_SLOT (i : Nat) : Fld := ⟨CHN_RB_DIAG_ADDR i, 16, 6⟩
def CHN_RB_DIAG_ADDR_WORD (i : Nat) : Fld := ⟨CHN_RB_DIAG_ADDR i, 0, 15⟩
def CHN_RB_DIAG_DATA (i : Nat) : Nat := 0x21007104 + 0x10000 * i
def CHN_RB_DIAG_DATA_DATA (i : Nat) : Fld := ⟨CHN_RB_DIAG_DATA i, 0, 32⟩
def CHN_TEST (i : Nat) : Nat := 0x21007108 + 0x10000 * i
def CHN_TEST_LOOP (i : Nat) : Fld := ⟨CHN_TEST i, 0, 3⟩
def LAN_CFG (i : Nat) : Nat := 0x21100020 + 0x10000 * i
def LAN_CFG_TRIM_EN (i : Nat) : Fld := ⟨LAN_CFG i, 5, 1⟩
def LAN_CFG_LEARN_EN (i : Nat) : Fld := ⟨LAN_CFG i, 4, 1⟩
def LAN_CFG_KIND (i : Nat) : Fld := ⟨LAN_CFG i, 0, 2⟩
def LAN_GATE (i : Nat) : Nat := 0x21100024 + 0x10000 * i
def LAN_GATE_LEAD (i : Nat) : Fld := ⟨LAN_GATE i, 16, 16⟩
def LAN_GATE_TAIL (i : Nat) : Fld := ⟨LAN_GATE i, 0, 16⟩
def LAN_STAT (i : Nat) : Nat := 0x21100028 + 0x10000 * i
def LAN_STAT_CAUSE (i : Nat) : Fld := ⟨LAN_STAT i, 28, 4⟩
def LAN_STAT_THROTTLE (i : Nat) : Fld := ⟨LAN_STAT i, 27, 1⟩
def LAN_STAT_HOLDOFF (i : Nat) : Fld := ⟨LAN_STAT i, 26, 1⟩
def LAN_STAT_READY (i : Nat) : Fld := ⟨LAN_STAT i, 25, 1⟩
def LAN_STAT_AG (i : Nat) : Fld := ⟨LAN_STAT i, 24, 1⟩
def LAN_STAT_HEAD (i : Nat) : Fld := ⟨LAN_STAT i, 20, 4⟩
def LAN_STAT_ZONE (i : Nat) : Fld := ⟨LAN_STAT i, 10, 6⟩
def LAN_STAT_P (i : Nat) : Fld := ⟨LAN_STAT i, 0, 10⟩
def LAN_WARN (i : Nat) : Nat := 0x2110002C + 0x10000 * i
def LAN_WARN_ONTIME_WARN (i : Nat) : Fld := ⟨LAN_WARN i, 12, 12⟩
def LAN_WARN_POWER_WARN (i : Nat) : Fld := ⟨LAN_WARN i, 0, 12⟩
def LAN_WARN_D (i : Nat) : Nat := 0x21100030 + 0x10000 * i
def LAN_WARN_D_DRIFT_WARN (i : Nat) : Fld := ⟨LAN_WARN_D i, 0, 12⟩
def LAN_DUTY (i : Nat) : Nat := 0x21100034 + 0x10000 * i
def LAN_DUTY_MAX (i : Nat) : Fld := ⟨LAN_DUTY i, 0, 8⟩
def LAN_CNT (i : Nat) : Nat := 0x21100038 + 0x10000 * i
def LAN_CNT_CONSEC (i : Nat) : Fld := ⟨LAN_CNT i, 28, 4⟩
def LAN_CNT_ABORTS (i : Nat) : Fld := ⟨LAN_CNT i, 0, 24⟩
def LAN_LIMIT (i : Nat) : Nat := 0x21100100 + 0x10000 * i
def LAN_LIMIT_PMAX (i : Nat) : Fld := ⟨LAN_LIMIT i, 16, 10⟩
def LAN_LIMIT_PWARN (i : Nat) : Fld := ⟨LAN_LIMIT i, 0, 10⟩
def LAN_PMIN (i : Nat) : Nat := 0x21100104 + 0x10000 * i
def LAN_PMIN_PMIN (i : Nat) : Fld := ⟨LAN_PMIN i, 0, 10⟩
def LAN_BIAS (i : Nat) : Nat := 0x21100108 + 0x10000 * i
def LAN_BIAS_BIAS (i : Nat) : Fld := ⟨LAN_BIAS i, 16, 10⟩
def LAN_BIAS_RAMP (i : Nat) : Fld := ⟨LAN_BIAS i, 0, 8⟩
def LAN_THERM (i : Nat) : Nat := 0x21101100 + 0x10000 * i
def LAN_THERM_T_TGT (i : Nat) : Fld := ⟨LAN_THERM i, 20, 12⟩
def LAN_THERM_T_HYS (i : Nat) : Fld := ⟨LAN_THERM i, 8, 8⟩
def LAN_THERM_TRIM_MAX (i : Nat) : Fld := ⟨LAN_THERM i, 0, 8⟩
def LAN_ROR (i : Nat) : Nat := 0x21101104 + 0x10000 * i
def LAN_ROR_T_ABS (i : Nat) : Fld := ⟨LAN_ROR i, 20, 12⟩
def LAN_ROR_ROR_LIM (i : Nat) : Fld := ⟨LAN_ROR i, 8, 12⟩
def LAN_ROR_ROR_N (i : Nat) : Fld := ⟨LAN_ROR i, 4, 4⟩
def LAN_ROR_ABORT_MAX (i : Nat) : Fld := ⟨LAN_ROR i, 0, 4⟩
def LAN_HOLD (i : Nat) : Nat := 0x21101108 + 0x10000 * i
def LAN_HOLD_ABORT_CUT (i : Nat) : Fld := ⟨LAN_HOLD i, 24, 8⟩
def LAN_HOLD_HOLDOFF (i : Nat) : Fld := ⟨LAN_HOLD i, 0, 16⟩
def LAN_HEAD (i n : Nat) : Nat := 0x21101140 + 0x10000 * i + 4 * n
def LAN_HEAD_TRIM (i n : Nat) : Fld := ⟨LAN_HEAD i n, 24, 8⟩
def LAN_HEAD_TPEAK (i n : Nat) : Fld := ⟨LAN_HEAD i n, 12, 12⟩
def LAN_HEAD_TLAST (i n : Nat) : Fld := ⟨LAN_HEAD i n, 0, 12⟩
def LAN_PTAB_ADDR (i : Nat) : Nat := 0x21102100 + 0x10000 * i
def LAN_PTAB_ADDR_AUTO_INC (i : Nat) : Fld := ⟨LAN_PTAB_ADDR i, 31, 1⟩
def LAN_PTAB_ADDR_INDEX (i : Nat) : Fld := ⟨LAN_PTAB_ADDR i, 0, 10⟩
def LAN_PTAB_DATA (i : Nat) : Nat := 0x21102104 + 0x10000 * i
def LAN_PTAB_DATA_P (i : Nat) : Fld := ⟨LAN_PTAB_DATA i, 0, 10⟩
def LAN_LEARN (i : Nat) : Nat := 0x21102108 + 0x10000 * i
def LAN_LEARN_EBER_LO (i : Nat) : Fld := ⟨LAN_LEARN i, 20, 12⟩
def LAN_LEARN_EBER_HI (i : Nat) : Fld := ⟨LAN_LEARN i, 8, 12⟩
def LAN_LEARN_ITER_HI (i : Nat) : Fld := ⟨LAN_LEARN i, 0, 8⟩
def LAN_LEARN_N (i : Nat) : Nat := 0x2110210C + 0x10000 * i
def LAN_LEARN_N_COUNT (i : Nat) : Fld := ⟨LAN_LEARN_N i, 16, 16⟩
def LAN_LEARN_N_N (i : Nat) : Fld := ⟨LAN_LEARN_N i, 0, 16⟩
def LAN_ONTIME_LO (i n : Nat) : Nat := 0x21103100 + 0x10000 * i + 8 * n
def LAN_ONTIME_LO_COUNT_LO (i n : Nat) : Fld := ⟨LAN_ONTIME_LO i n, 0, 32⟩
def LAN_ONTIME_HI (i n : Nat) : Nat := 0x21103104 + 0x10000 * i + 8 * n
def LAN_ONTIME_HI_COUNT_HI (i n : Nat) : Fld := ⟨LAN_ONTIME_HI i n, 0, 16⟩
def LAN_RATED (i : Nat) : Nat := 0x21103180 + 0x10000 * i
def LAN_RATED_RATED_H (i : Nat) : Fld := ⟨LAN_RATED i, 0, 16⟩
def LAN_DRIFT (i n : Nat) : Nat := 0x211031C0 + 0x10000 * i + 4 * n
def LAN_DRIFT_REFZ (i n : Nat) : Fld := ⟨LAN_DRIFT i n, 26, 6⟩
def LAN_DRIFT_BASE (i n : Nat) : Fld := ⟨LAN_DRIFT i n, 16, 10⟩
def LAN_DRIFT_DRIFT_LIM (i n : Nat) : Fld := ⟨LAN_DRIFT i n, 0, 8⟩
def TWR_ZTAB_BASE (i : Nat) : Nat := 0x21500020 + 0x10000 * i
def TWR_ZTAB_BASE_BASE (i : Nat) : Fld := ⟨TWR_ZTAB_BASE i, 0, 32⟩
def TWR_VERIFY (i : Nat) : Nat := 0x21500024 + 0x10000 * i
def TWR_VERIFY_EBER_MIN (i : Nat) : Fld := ⟨TWR_VERIFY i, 16, 12⟩
def TWR_VERIFY_ITER_MAX (i : Nat) : Fld := ⟨TWR_VERIFY i, 0, 12⟩
def TWR_STAT (i : Nat) : Nat := 0x21500028 + 0x10000 * i
def TWR_STAT_LAST (i : Nat) : Fld := ⟨TWR_STAT i, 4, 4⟩
def TWR_STAT_AG (i : Nat) : Fld := ⟨TWR_STAT i, 1, 1⟩
def TWR_STAT_WG (i : Nat) : Fld := ⟨TWR_STAT i, 0, 1⟩
def TWR_CNT_WR (i : Nat) : Nat := 0x2150002C + 0x10000 * i
def TWR_CNT_WR_WRITTEN (i : Nat) : Fld := ⟨TWR_CNT_WR i, 0, 32⟩
def TWR_CNT_VFAIL (i : Nat) : Nat := 0x21500030 + 0x10000 * i
def TWR_CNT_VFAIL_CUT (i : Nat) : Fld := ⟨TWR_CNT_VFAIL i, 16, 16⟩
def TWR_CNT_VFAIL_VFAIL (i : Nat) : Fld := ⟨TWR_CNT_VFAIL i, 0, 16⟩
def TWR_VRDR (i n : Nat) : Nat := 0x21501100 + 0x10000 * i + 4 * n
def TWR_VRDR_RDR (i n : Nat) : Fld := ⟨TWR_VRDR i n, 0, 32⟩
def TWR_VDLY (i n : Nat) : Nat := 0x21501140 + 0x10000 * i + 4 * n
def TWR_VDLY_VDLY_B (i n : Nat) : Fld := ⟨TWR_VDLY i n, 16, 16⟩
def TWR_VDLY_VDLY_A (i n : Nat) : Fld := ⟨TWR_VDLY i n, 0, 16⟩
def TWR_PRECOMP (i n : Nat) : Nat := 0x21502100 + 0x10000 * i + 4 * n
def TWR_PRECOMP_PC_3 (i n : Nat) : Fld := ⟨TWR_PRECOMP i n, 24, 6⟩
def TWR_PRECOMP_PC_2 (i n : Nat) : Fld := ⟨TWR_PRECOMP i n, 16, 6⟩
def TWR_PRECOMP_PC_1 (i n : Nat) : Fld := ⟨TWR_PRECOMP i n, 8, 6⟩
def TWR_PRECOMP_PC_0 (i n : Nat) : Fld := ⟨TWR_PRECOMP i n, 0, 6⟩
def CPL_CFG (i : Nat) : Nat := 0x21200020 + 0x10000 * i
def CPL_CFG_RETRY (i : Nat) : Fld := ⟨CPL_CFG i, 0, 4⟩
def CPL_STAT (i : Nat) : Nat := 0x21200024 + 0x10000 * i
def CPL_STAT_PREAMP_ID (i : Nat) : Fld := ⟨CPL_STAT i, 16, 16⟩
def CPL_STAT_PSTATUS (i : Nat) : Fld := ⟨CPL_STAT i, 8, 8⟩
def CPL_STAT_VERSION (i : Nat) : Fld := ⟨CPL_STAT i, 4, 4⟩
def CPL_STAT_LINK_UP (i : Nat) : Fld := ⟨CPL_STAT i, 0, 1⟩
def CPL_REG_CMD (i : Nat) : Nat := 0x21200028 + 0x10000 * i
def CPL_REG_CMD_GO (i : Nat) : Fld := ⟨CPL_REG_CMD i, 31, 1⟩
def CPL_REG_CMD_READ (i : Nat) : Fld := ⟨CPL_REG_CMD i, 30, 1⟩
def CPL_REG_CMD_ERR (i : Nat) : Fld := ⟨CPL_REG_CMD i, 29, 1⟩
def CPL_REG_CMD_ADDR (i : Nat) : Fld := ⟨CPL_REG_CMD i, 0, 8⟩
def CPL_REG_DATA (i : Nat) : Nat := 0x2120002C + 0x10000 * i
def CPL_REG_DATA_DATA (i : Nat) : Fld := ⟨CPL_REG_DATA i, 0, 16⟩
def CPL_CNT (i : Nat) : Nat := 0x21200030 + 0x10000 * i
def CPL_CNT_CRC (i : Nat) : Fld := ⟨CPL_CNT i, 24, 8⟩
def CPL_CNT_NAK (i : Nat) : Fld := ⟨CPL_CNT i, 16, 8⟩
def CPL_CNT_TIMEOUT (i : Nat) : Fld := ⟨CPL_CNT i, 8, 8⟩
def CPL_CNT_BAD (i : Nat) : Fld := ⟨CPL_CNT i, 0, 8⟩
def SPR_SEL (i : Nat) : Nat := 0x21300020 + 0x10000 * i
def SPR_SEL_INDEX (i : Nat) : Fld := ⟨SPR_SEL i, 0, 4⟩
def SPR_CMD (i : Nat) : Nat := 0x21300024 + 0x10000 * i
def SPR_CMD_STEP (i : Nat) : Fld := ⟨SPR_CMD i, 2, 1⟩
def SPR_CMD_HALT (i : Nat) : Fld := ⟨SPR_CMD i, 1, 1⟩
def SPR_CMD_START (i : Nat) : Fld := ⟨SPR_CMD i, 0, 1⟩
def SPR_STATUS (i : Nat) : Nat := 0x21300028 + 0x10000 * i
def SPR_STATUS_SSTATE (i : Nat) : Fld := ⟨SPR_STATUS i, 30, 2⟩
def SPR_STATUS_WAITON (i : Nat) : Fld := ⟨SPR_STATUS i, 26, 4⟩
def SPR_STATUS_QDEPTH (i : Nat) : Fld := ⟨SPR_STATUS i, 21, 5⟩
def SPR_STATUS_SP (i : Nat) : Fld := ⟨SPR_STATUS i, 16, 4⟩
def SPR_STATUS_PC (i : Nat) : Fld := ⟨SPR_STATUS i, 0, 12⟩
def SPR_START (i : Nat) : Nat := 0x2130002C + 0x10000 * i
def SPR_START_ADDR (i : Nat) : Fld := ⟨SPR_START i, 0, 12⟩
def SPR_MC (i : Nat) : Nat := 0x21300030 + 0x10000 * i
def SPR_MC_CAUSE (i : Nat) : Fld := ⟨SPR_MC i, 28, 4⟩
def SPR_MC_ADDR (i : Nat) : Fld := ⟨SPR_MC i, 0, 12⟩
def SPR_MC_WORD (i : Nat) : Nat := 0x21300034 + 0x10000 * i
def SPR_MC_WORD_WORD (i : Nat) : Fld := ⟨SPR_MC_WORD i, 0, 25⟩
def SPR_MC_CMD (i : Nat) : Nat := 0x21300038 + 0x10000 * i
def SPR_MC_CMD_VALID (i : Nat) : Fld := ⟨SPR_MC_CMD i, 31, 1⟩
def SPR_MC_CMD_OPCODE (i : Nat) : Fld := ⟨SPR_MC_CMD i, 16, 8⟩
def SPR_MC_CMD_TAG (i : Nat) : Fld := ⟨SPR_MC_CMD i, 0, 16⟩
def SPR_MAP (i : Nat) : Nat := 0x2130003C + 0x10000 * i
def SPR_MAP_MCHECK (i : Nat) : Fld := ⟨SPR_MAP i, 16, 16⟩
def SPR_MAP_HALTED (i : Nat) : Fld := ⟨SPR_MAP i, 0, 16⟩
def SPR_CS_ADDR (i : Nat) : Nat := 0x21300040 + 0x10000 * i
def SPR_CS_ADDR_AUTO_INC (i : Nat) : Fld := ⟨SPR_CS_ADDR i, 31, 1⟩
def SPR_CS_ADDR_PAR_AUTO (i : Nat) : Fld := ⟨SPR_CS_ADDR i, 30, 1⟩
def SPR_CS_ADDR_ALL (i : Nat) : Fld := ⟨SPR_CS_ADDR i, 29, 1⟩
def SPR_CS_ADDR_ADDR (i : Nat) : Fld := ⟨SPR_CS_ADDR i, 0, 12⟩
def SPR_CS_DATA (i : Nat) : Nat := 0x21300044 + 0x10000 * i
def SPR_CS_DATA_DATA (i : Nat) : Fld := ⟨SPR_CS_DATA i, 0, 25⟩
def SPR_DBG_SEL (i : Nat) : Nat := 0x21300048 + 0x10000 * i
def SPR_DBG_SEL_REG (i : Nat) : Fld := ⟨SPR_DBG_SEL i, 0, 5⟩
def SPR_DBG_DATA (i : Nat) : Nat := 0x2130004C + 0x10000 * i
def SPR_DBG_DATA_DATA (i : Nat) : Fld := ⟨SPR_DBG_DATA i, 0, 32⟩
def SPR_MC_FORCE (i : Nat) : Nat := 0x21300100 + 0x10000 * i
def SPR_MC_FORCE_FORCE (i : Nat) : Fld := ⟨SPR_MC_FORCE i, 0, 1⟩
def SPR_QCMD (i n : Nat) : Nat := 0x21301020 + 0x10000 * i + 4 * n
def SPR_QCMD_WORD (i n : Nat) : Fld := ⟨SPR_QCMD i n, 0, 32⟩
def SPR_QPUSH (i : Nat) : Nat := 0x21301040 + 0x10000 * i
def SPR_QPUSH_TARGETS (i : Nat) : Fld := ⟨SPR_QPUSH i, 0, 16⟩
def SPR_QRES (i : Nat) : Nat := 0x21301044 + 0x10000 * i
def SPR_QRES_RESULT (i : Nat) : Fld := ⟨SPR_QRES i, 0, 2⟩
def SPR_COMP_PEND (i : Nat) : Nat := 0x21301048 + 0x10000 * i
def SPR_COMP_PEND_PEND (i : Nat) : Fld := ⟨SPR_COMP_PEND i, 0, 16⟩
def SPR_CRING_BASE (i n : Nat) : Nat := 0x21301100 + 0x10000 * i + 16 * n
def SPR_CRING_BASE_BASE (i n : Nat) : Fld := ⟨SPR_CRING_BASE i n, 0, 32⟩
def SPR_CRING_CFG (i n : Nat) : Nat := 0x21301104 + 0x10000 * i + 16 * n
def SPR_CRING_CFG_LOG2SIZE (i n : Nat) : Fld := ⟨SPR_CRING_CFG i n, 0, 4⟩
def SPR_CRING_PROD (i n : Nat) : Nat := 0x21301108 + 0x10000 * i + 16 * n
def SPR_CRING_PROD_INDEX (i n : Nat) : Fld := ⟨SPR_CRING_PROD i n, 0, 16⟩
def SPR_CRING_CONS (i n : Nat) : Nat := 0x2130110C + 0x10000 * i + 16 * n
def SPR_CRING_CONS_INDEX (i n : Nat) : Fld := ⟨SPR_CRING_CONS i n, 0, 16⟩
def FIX_ACC_BASE_LO : Nat := 0x21400020
def FIX_ACC_BASE_LO_ADDR : Fld := ⟨FIX_ACC_BASE_LO, 12, 20⟩
def FIX_ACC_BASE_HI : Nat := 0x21400024
def FIX_ACC_BASE_HI_ADDR : Fld := ⟨FIX_ACC_BASE_HI, 0, 8⟩
def FIX_BUSY : Nat := 0x21400028
def FIX_BUSY_BUSY : Fld := ⟨FIX_BUSY, 0, 4⟩
def FIX_CNT_HASH : Nat := 0x2140002C
def FIX_CNT_HASH_KIB : Fld := ⟨FIX_CNT_HASH, 0, 32⟩
def FIX_CNT_GF : Nat := 0x21400030
def FIX_CNT_GF_SLOTS : Fld := ⟨FIX_CNT_GF, 0, 32⟩
def ETH_CFG (i : Nat) : Nat := 0x20A00020 + 0x10000 * i
def ETH_CFG_LT_EN (i : Nat) : Fld := ⟨ETH_CFG i, 7, 1⟩
def ETH_CFG_FEC (i : Nat) : Fld := ⟨ETH_CFG i, 4, 2⟩
def ETH_CFG_MODE (i : Nat) : Fld := ⟨ETH_CFG i, 0, 3⟩
def ETH_STAT (i : Nat) : Nat := 0x20A00024 + 0x10000 * i
def ETH_STAT_FEC_ACT (i : Nat) : Fld := ⟨ETH_STAT i, 6, 2⟩
def ETH_STAT_HI_BER (i : Nat) : Fld := ⟨ETH_STAT i, 5, 1⟩
def ETH_STAT_BLOCK_LOCK (i : Nat) : Fld := ⟨ETH_STAT i, 4, 1⟩
def ETH_STAT_LT_DONE (i : Nat) : Fld := ⟨ETH_STAT i, 3, 1⟩
def ETH_STAT_AN_DONE (i : Nat) : Fld := ⟨ETH_STAT i, 2, 1⟩
def ETH_STAT_SPEED (i : Nat) : Fld := ⟨ETH_STAT i, 1, 1⟩
def ETH_STAT_LINK (i : Nat) : Fld := ⟨ETH_STAT i, 0, 1⟩
def ETH_MAC_LO (i : Nat) : Nat := 0x20A00028 + 0x10000 * i
def ETH_MAC_LO_MAC (i : Nat) : Fld := ⟨ETH_MAC_LO i, 0, 32⟩
def ETH_MAC_HI (i : Nat) : Nat := 0x20A0002C + 0x10000 * i
def ETH_MAC_HI_MAC (i : Nat) : Fld := ⟨ETH_MAC_HI i, 0, 16⟩
def ETH_FRAME (i : Nat) : Nat := 0x20A00030 + 0x10000 * i
def ETH_FRAME_PCP (i : Nat) : Fld := ⟨ETH_FRAME i, 29, 3⟩
def ETH_FRAME_TAG_EN (i : Nat) : Fld := ⟨ETH_FRAME i, 28, 1⟩
def ETH_FRAME_VID (i : Nat) : Fld := ⟨ETH_FRAME i, 16, 12⟩
def ETH_FRAME_MAXFRAME (i : Nat) : Fld := ⟨ETH_FRAME i, 0, 14⟩
def ETH_ICMP (i : Nat) : Nat := 0x20A00034 + 0x10000 * i
def ETH_ICMP_RATE (i : Nat) : Fld := ⟨ETH_ICMP i, 0, 16⟩
def ETH_IP4 (i n : Nat) : Nat := 0x20A01020 + 0x10000 * i + 4 * n
def ETH_IP4_ADDR (i n : Nat) : Fld := ⟨ETH_IP4 i n, 0, 32⟩
def ETH_IP6 (i n : Nat) : Nat := 0x20A01040 + 0x10000 * i + 4 * n
def ETH_IP6_ADDR (i n : Nat) : Fld := ⟨ETH_IP6 i n, 0, 32⟩
def ETH_IP_VALID (i : Nat) : Nat := 0x20A01030 + 0x10000 * i
def ETH_IP_VALID_V6 (i : Nat) : Fld := ⟨ETH_IP_VALID i, 4, 8⟩
def ETH_IP_VALID_V4 (i : Nat) : Fld := ⟨ETH_IP_VALID i, 0, 4⟩
def ETH_CNT (i n : Nat) : Nat := 0x20A02020 + 0x10000 * i + 4 * n
def ETH_CNT_COUNT (i n : Nat) : Fld := ⟨ETH_CNT i n, 0, 32⟩
def ETH_CNT_CLR (i : Nat) : Nat := 0x20A02048 + 0x10000 * i
def ETH_CNT_CLR_CLR (i : Nat) : Fld := ⟨ETH_CNT_CLR i, 0, 1⟩
def ETH_TEST (i : Nat) : Nat := 0x20A03100 + 0x10000 * i
def ETH_TEST_LOOP (i : Nat) : Fld := ⟨ETH_TEST i, 0, 3⟩
def AOT_CFG : Nat := 0x20B00020
def AOT_CFG_MAXPL : Fld := ⟨AOT_CFG, 8, 8⟩
def AOT_CFG_COOKIE_ALWAYS : Fld := ⟨AOT_CFG, 4, 1⟩
def AOT_CFG_VER_EN : Fld := ⟨AOT_CFG, 1, 3⟩
def AOT_UDP : Nat := 0x20B00024
def AOT_UDP_PORT : Fld := ⟨AOT_UDP, 0, 16⟩
def AOT_STAT : Nat := 0x20B00028
def AOT_STAT_OPEN : Fld := ⟨AOT_STAT, 16, 13⟩
def AOT_STAT_HANDSHAKE : Fld := ⟨AOT_STAT, 0, 9⟩
def AOT_LIMITS : Nat := 0x20B0002C
def AOT_LIMITS_HS_MAX : Fld := ⟨AOT_LIMITS, 16, 9⟩
def AOT_LIMITS_COOKIE_AT : Fld := ⟨AOT_LIMITS, 0, 9⟩
def AOT_ACK : Nat := 0x20B01020
def AOT_ACK_DELAY : Fld := ⟨AOT_ACK, 16, 16⟩
def AOT_ACK_EVERY : Fld := ⟨AOT_ACK, 0, 8⟩
def AOT_RTO : Nat := 0x20B01024
def AOT_RTO_MAX : Fld := ⟨AOT_RTO, 20, 12⟩
def AOT_RTO_MIN : Fld := ⟨AOT_RTO, 0, 20⟩
def AOT_RETRY : Nat := 0x20B01028
def AOT_RETRY_IDLE : Fld := ⟨AOT_RETRY, 16, 16⟩
def AOT_RETRY_MAX : Fld := ⟨AOT_RETRY, 0, 4⟩
def AOT_HS : Nat := 0x20B0102C
def AOT_HS_TIMEOUT : Fld := ⟨AOT_HS, 0, 16⟩
def AOT_REKEY : Nat := 0x20B01030
def AOT_REKEY_PKTS : Fld := ⟨AOT_REKEY, 0, 5⟩
def AOT_CWND : Nat := 0x20B01034
def AOT_CWND_MAX : Fld := ⟨AOT_CWND, 16, 11⟩
def AOT_CWND_INIT : Fld := ⟨AOT_CWND, 0, 11⟩
def AOT_HELLO : Nat := 0x20B02020
def AOT_HELLO_ALL : Fld := ⟨AOT_HELLO, 16, 16⟩
def AOT_HELLO_RATE : Fld := ⟨AOT_HELLO, 8, 8⟩
def AOT_HELLO_BURST : Fld := ⟨AOT_HELLO, 0, 8⟩
def AOT_CNT (n : Nat) : Nat := 0x20B03020 + 4 * n
def AOT_CNT_COUNT (n : Nat) : Fld := ⟨AOT_CNT n, 0, 32⟩
def AOT_SESS_SEL : Nat := 0x20B04020
def AOT_SESS_SEL_INDEX : Fld := ⟨AOT_SESS_SEL, 0, 12⟩
def AOT_SESS_STAT : Nat := 0x20B04024
def AOT_SESS_STAT_STATE : Fld := ⟨AOT_SESS_STAT, 30, 2⟩
def AOT_SESS_STAT_VERSION : Fld := ⟨AOT_SESS_STAT, 28, 2⟩
def AOT_SESS_STAT_COUNTER : Fld := ⟨AOT_SESS_STAT, 0, 20⟩
def AOT_SESS_TX : Nat := 0x20B04028
def AOT_SESS_TX_NEXT : Fld := ⟨AOT_SESS_TX, 0, 32⟩
def AOT_SESS_RX : Nat := 0x20B0402C
def AOT_SESS_RX_ACK : Fld := ⟨AOT_SESS_RX, 0, 32⟩
def AOT_SESS_EPOCH : Nat := 0x20B04030
def AOT_SESS_EPOCH_TX : Fld := ⟨AOT_SESS_EPOCH, 16, 16⟩
def AOT_SESS_EPOCH_RX : Fld := ⟨AOT_SESS_EPOCH, 0, 16⟩
def AOT_SESS_TAGS : Nat := 0x20B04034
def AOT_SESS_TAGS_BUSY : Fld := ⟨AOT_SESS_TAGS, 0, 32⟩
def AOT_SESS_CTL : Nat := 0x20B04038
def AOT_SESS_CTL_CLOSE : Fld := ⟨AOT_SESS_CTL, 31, 1⟩
def AOT_SESS_CTL_OPEN : Fld := ⟨AOT_SESS_CTL, 30, 1⟩
def AOT_SESS_CTL_REASON : Fld := ⟨AOT_SESS_CTL, 0, 4⟩
def AOT_FWRX_BASE : Nat := 0x20B05020
def AOT_FWRX_BASE_BASE : Fld := ⟨AOT_FWRX_BASE, 0, 32⟩
def AOT_FWRX_CFG : Nat := 0x20B05024
def AOT_FWRX_CFG_LOG2SIZE : Fld := ⟨AOT_FWRX_CFG, 0, 4⟩
def AOT_FWRX_PROD : Nat := 0x20B05028
def AOT_FWRX_PROD_INDEX : Fld := ⟨AOT_FWRX_PROD, 0, 16⟩
def AOT_FWRX_CONS : Nat := 0x20B0502C
def AOT_FWRX_CONS_INDEX : Fld := ⟨AOT_FWRX_CONS, 0, 16⟩
def AOT_FWTX_BASE : Nat := 0x20B05030
def AOT_FWTX_BASE_BASE : Fld := ⟨AOT_FWTX_BASE, 0, 32⟩
def AOT_FWTX_CFG : Nat := 0x20B05034
def AOT_FWTX_CFG_LOG2SIZE : Fld := ⟨AOT_FWTX_CFG, 0, 4⟩
def AOT_FWTX_PROD : Nat := 0x20B05038
def AOT_FWTX_PROD_INDEX : Fld := ⟨AOT_FWTX_PROD, 0, 16⟩
def AOT_FWTX_CONS : Nat := 0x20B0503C
def AOT_FWTX_CONS_INDEX : Fld := ⟨AOT_FWTX_CONS, 0, 16⟩
def DOM_MSTATE : Nat := 0x20C00020
def DOM_MSTATE_APPROVED : Fld := ⟨DOM_MSTATE, 31, 1⟩
def DOM_MSTATE_ERR_CAUSE : Fld := ⟨DOM_MSTATE, 8, 8⟩
def DOM_MSTATE_MSTATE : Fld := ⟨DOM_MSTATE, 0, 3⟩
def DOM_ST_RESULT : Nat := 0x20C00024
def DOM_ST_RESULT_RUN : Fld := ⟨DOM_ST_RESULT, 30, 2⟩
def DOM_ST_RESULT_PASS : Fld := ⟨DOM_ST_RESULT, 0, 14⟩
def DOM_CLOCK_LO : Nat := 0x20C00028
def DOM_CLOCK_LO_CLOCK : Fld := ⟨DOM_CLOCK_LO, 0, 32⟩
def DOM_CLOCK_HI : Nat := 0x20C0002C
def DOM_CLOCK_HI_CLOCK : Fld := ⟨DOM_CLOCK_HI, 0, 32⟩
def DOM_CLOCK_STAT : Nat := 0x20C00030
def DOM_CLOCK_STAT_SINCE : Fld := ⟨DOM_CLOCK_STAT, 16, 16⟩
def DOM_CLOCK_STAT_SEQ : Fld := ⟨DOM_CLOCK_STAT, 0, 16⟩
def DOM_CMD : Nat := 0x20C00034
def DOM_CMD_ST_RUN : Fld := ⟨DOM_CMD, 1, 1⟩
def DOM_CMD_REC_NOW : Fld := ⟨DOM_CMD, 0, 1⟩
def DOM_KB_CMD : Nat := 0x20C01020
def DOM_KB_CMD_GO : Fld := ⟨DOM_KB_CMD, 31, 1⟩
def DOM_KB_CMD_OP : Fld := ⟨DOM_KB_CMD, 29, 2⟩
def DOM_KB_CMD_TARGET : Fld := ⟨DOM_KB_CMD, 27, 2⟩
def DOM_KB_CMD_SLOT : Fld := ⟨DOM_KB_CMD, 12, 14⟩
def DOM_KB_CMD_SRC : Fld := ⟨DOM_KB_CMD, 0, 8⟩
def DOM_KB_STAT : Nat := 0x20C01024
def DOM_KB_STAT_WAITING : Fld := ⟨DOM_KB_STAT, 31, 1⟩
def DOM_KB_STAT_ERR : Fld := ⟨DOM_KB_STAT, 0, 4⟩
def DOM_TRNG_STAT : Nat := 0x20C02020
def DOM_TRNG_STAT_HEALTH_OK : Fld := ⟨DOM_TRNG_STAT, 31, 1⟩
def DOM_TRNG_STAT_RESEEDS : Fld := ⟨DOM_TRNG_STAT, 0, 16⟩
def DOM_TRNG_CFG : Nat := 0x20C02100
def DOM_TRNG_CFG_RAW_TAP : Fld := ⟨DOM_TRNG_CFG, 31, 1⟩
def DOM_TRNG_RAW : Nat := 0x20C02104
def DOM_TRNG_RAW_RAW : Fld := ⟨DOM_TRNG_RAW, 0, 32⟩
def DOM_DBG : Nat := 0x20C03020
def DOM_DBG_BTP_EN : Fld := ⟨DOM_DBG, 1, 1⟩
def DOM_DBG_JTAG_EN : Fld := ⟨DOM_DBG, 0, 1⟩
def DOM_FUSE_KEYS : Nat := 0x20C03024
def DOM_FUSE_KEYS_REVOKED : Fld := ⟨DOM_FUSE_KEYS, 4, 4⟩
def DOM_FUSE_KEYS_VALID : Fld := ⟨DOM_FUSE_KEYS, 0, 4⟩
def MEM_CFG : Nat := 0x20800020
def MEM_CFG_MARK_EN : Fld := ⟨MEM_CFG, 31, 1⟩
def MEM_CFG_MARK_DEV : Fld := ⟨MEM_CFG, 24, 6⟩
def MEM_CFG_TREF2X : Fld := ⟨MEM_CFG, 12, 1⟩
def MEM_CFG_MODE : Fld := ⟨MEM_CFG, 8, 1⟩
def MEM_CFG_RANKS : Fld := ⟨MEM_CFG, 4, 1⟩
def MEM_CFG_DENSITY : Fld := ⟨MEM_CFG, 1, 2⟩
def MEM_CFG_WIDTH : Fld := ⟨MEM_CFG, 0, 1⟩
def MEM_STAT : Nat := 0x20800024
def MEM_STAT_CAUSE : Fld := ⟨MEM_STAT, 28, 4⟩
def MEM_STAT_SIZE : Fld := ⟨MEM_STAT, 16, 8⟩
def MEM_STAT_SCRUB_ON : Fld := ⟨MEM_STAT, 4, 1⟩
def MEM_STAT_INIT_BUSY : Fld := ⟨MEM_STAT, 3, 1⟩
def MEM_STAT_SELF_REFRESH : Fld := ⟨MEM_STAT, 2, 1⟩
def MEM_STAT_INIT_DONE : Fld := ⟨MEM_STAT, 1, 1⟩
def MEM_STAT_TRAINED : Fld := ⟨MEM_STAT, 0, 1⟩
def MEM_CMD : Nat := 0x20800028
def MEM_CMD_CNT_CLR : Fld := ⟨MEM_CMD, 1, 1⟩
def MEM_CMD_INIT : Fld := ⟨MEM_CMD, 0, 1⟩
def MEM_SCRUB : Nat := 0x2080002C
def MEM_SCRUB_EN : Fld := ⟨MEM_SCRUB, 31, 1⟩
def MEM_SCRUB_INTERVAL : Fld := ⟨MEM_SCRUB, 0, 20⟩
def MEM_SCRUB_POS : Nat := 0x20800030
def MEM_SCRUB_POS_BURST : Fld := ⟨MEM_SCRUB_POS, 0, 29⟩
def MEM_SCRUB_PASS : Nat := 0x20800034
def MEM_SCRUB_PASS_PASSES : Fld := ⟨MEM_SCRUB_PASS, 0, 16⟩
def MEM_CNT_CE : Nat := 0x20800038
def MEM_CNT_CE_COUNT : Fld := ⟨MEM_CNT_CE, 0, 32⟩
def MEM_CNT_UE : Nat := 0x2080003C
def MEM_CNT_UE_COUNT : Fld := ⟨MEM_CNT_UE, 0, 32⟩
def MEM_CNT_PAR : Nat := 0x20800040
def MEM_CNT_PAR_PARITY : Fld := ⟨MEM_CNT_PAR, 16, 16⟩
def MEM_CNT_PAR_REFUSED : Fld := ⟨MEM_CNT_PAR, 0, 16⟩
def MEM_LOG_STAT : Nat := 0x20801020
def MEM_LOG_STAT_LOST : Fld := ⟨MEM_LOG_STAT, 8, 8⟩
def MEM_LOG_STAT_COUNT : Fld := ⟨MEM_LOG_STAT, 0, 5⟩
def MEM_LOG_POP : Nat := 0x20801024
def MEM_LOG_POP_POP : Fld := ⟨MEM_LOG_POP, 0, 1⟩
def MEM_LOG (n : Nat) : Nat := 0x20801030 + 4 * n
def MEM_LOG_WORD (n : Nat) : Fld := ⟨MEM_LOG n, 0, 32⟩
def MEM_DEV_SEL : Nat := 0x20801080
def MEM_DEV_SEL_DEV : Fld := ⟨MEM_DEV_SEL, 0, 6⟩
def MEM_DEV_CNT : Nat := 0x20801084
def MEM_DEV_CNT_COUNT : Fld := ⟨MEM_DEV_CNT, 0, 16⟩
def MEM_DEV_THR : Nat := 0x20801088
def MEM_DEV_THR_THR : Fld := ⟨MEM_DEV_THR, 0, 16⟩
def MEM_DEV_OVER_LO : Nat := 0x2080108C
def MEM_DEV_OVER_LO_OVER : Fld := ⟨MEM_DEV_OVER_LO, 0, 32⟩
def MEM_DEV_OVER_HI : Nat := 0x20801090
def MEM_DEV_OVER_HI_OVER : Fld := ⟨MEM_DEV_OVER_HI, 0, 32⟩
def MEM_ECC_FLIP (n : Nat) : Nat := 0x20802100 + 4 * n
def MEM_ECC_FLIP_LANES (n : Nat) : Fld := ⟨MEM_ECC_FLIP n, 0, 32⟩
def MEM_ECC_FLIP_4 : Nat := 0x20802110
def MEM_ECC_FLIP_4_ARM : Fld := ⟨MEM_ECC_FLIP_4, 31, 1⟩
def MEM_ECC_FLIP_4_BEAT : Fld := ⟨MEM_ECC_FLIP_4, 16, 3⟩
def MEM_ECC_FLIP_4_LANES : Fld := ⟨MEM_ECC_FLIP_4, 0, 16⟩
def MEM_TRAIN_STAT : Nat := 0x20802120
def MEM_TRAIN_STAT_STEP : Fld := ⟨MEM_TRAIN_STAT, 28, 4⟩
def MEM_TRAIN_STAT_RANK : Fld := ⟨MEM_TRAIN_STAT, 24, 1⟩
def MEM_TRAIN_STAT_LANE : Fld := ⟨MEM_TRAIN_STAT, 16, 8⟩
def MEM_TEST : Nat := 0x20802124
def MEM_TEST_LOOP : Fld := ⟨MEM_TEST, 0, 2⟩
def MEM_REP_SEL : Nat := 0x20803020
def MEM_REP_SEL_STORE : Fld := ⟨MEM_REP_SEL, 0, 4⟩
def MEM_REP_STAT : Nat := 0x20803024
def MEM_REP_STAT_UNREP : Fld := ⟨MEM_REP_STAT, 24, 8⟩
def MEM_REP_STAT_ROWS : Fld := ⟨MEM_REP_STAT, 12, 12⟩
def MEM_REP_STAT_COLS : Fld := ⟨MEM_REP_STAT, 0, 12⟩
def MEM_REP_FUSE : Nat := 0x20803028
def MEM_REP_FUSE_OK : Fld := ⟨MEM_REP_FUSE, 31, 1⟩
def MEM_REP_FUSE_CRC : Fld := ⟨MEM_REP_FUSE, 0, 16⟩
def CUP_CFG : Nat := 0x20700020
def CUP_CFG_PF_DEPTH : Fld := ⟨CUP_CFG, 8, 4⟩
def CUP_CFG_VC_EN : Fld := ⟨CUP_CFG, 2, 1⟩
def CUP_CFG_NL_EN : Fld := ⟨CUP_CFG, 1, 1⟩
def CUP_CFG_PF_EN : Fld := ⟨CUP_CFG, 0, 1⟩
def CUP_WAY_LOCK : Nat := 0x20700024
def CUP_WAY_LOCK_LOCK : Fld := ⟨CUP_WAY_LOCK, 0, 16⟩
def CUP_SPAD : Nat := 0x20700028
def CUP_SPAD_SPAD_BUSY : Fld := ⟨CUP_SPAD, 31, 1⟩
def CUP_SPAD_CORE : Fld := ⟨CUP_SPAD, 9, 1⟩
def CUP_SPAD_MGMT : Fld := ⟨CUP_SPAD, 8, 1⟩
def CUP_SPAD_EN : Fld := ⟨CUP_SPAD, 0, 4⟩
def CUP_STASH : Nat := 0x2070002C
def CUP_STASH_FIX_EN : Fld := ⟨CUP_STASH, 1, 1⟩
def CUP_STASH_DMA_EN : Fld := ⟨CUP_STASH, 0, 1⟩
def CUP_WMASK (n : Nat) : Nat := 0x20700040 + 4 * n
def CUP_WMASK_MASK (n : Nat) : Fld := ⟨CUP_WMASK n, 0, 16⟩
def CUP_MAINT_ADDR_LO : Nat := 0x20700070
def CUP_MAINT_ADDR_LO_ADDR : Fld := ⟨CUP_MAINT_ADDR_LO, 6, 26⟩
def CUP_MAINT_ADDR_HI : Nat := 0x20700074
def CUP_MAINT_ADDR_HI_ADDR : Fld := ⟨CUP_MAINT_ADDR_HI, 0, 8⟩
def CUP_MAINT_LEN : Nat := 0x20700078
def CUP_MAINT_LEN_LEN : Fld := ⟨CUP_MAINT_LEN, 0, 32⟩
def CUP_MAINT_CMD : Nat := 0x2070007C
def CUP_MAINT_CMD_GO : Fld := ⟨CUP_MAINT_CMD, 31, 1⟩
def CUP_MAINT_CMD_OP : Fld := ⟨CUP_MAINT_CMD, 0, 3⟩
def CUP_MAINT_STAT : Nat := 0x20700080
def CUP_MAINT_STAT_BUSY : Fld := ⟨CUP_MAINT_STAT, 31, 1⟩
def CUP_MAINT_STAT_LINES_INV : Fld := ⟨CUP_MAINT_STAT, 0, 17⟩
def CUP_MAINT_LOCKED : Nat := 0x20700084
def CUP_MAINT_LOCKED_LOCKED_INV : Fld := ⟨CUP_MAINT_LOCKED, 0, 17⟩
def CUP_CNT (n : Nat) : Nat := 0x20701020 + 4 * n
def CUP_CNT_COUNT (n : Nat) : Fld := ⟨CUP_CNT n, 0, 32⟩
def CUP_CNT_CLR : Nat := 0x2070103C
def CUP_CNT_CLR_CLR : Fld := ⟨CUP_CNT_CLR, 0, 1⟩
def DMA_BUF : Nat := 0x20900020
def DMA_BUF_PEAK : Fld := ⟨DMA_BUF, 16, 9⟩
def DMA_BUF_IN_USE : Fld := ⟨DMA_BUF, 0, 9⟩
def DMA_PARK : Nat := 0x20900024
def DMA_PARK_PARKED : Fld := ⟨DMA_PARK, 0, 32⟩
def DMA_QSTAT : Nat := 0x20900028
def DMA_QSTAT_DOMAINS : Fld := ⟨DMA_QSTAT, 16, 16⟩
def DMA_QSTAT_ACK : Fld := ⟨DMA_QSTAT, 0, 1⟩
def DMA_CNT_BAD : Nat := 0x2090002C
def DMA_CNT_BAD_COUNT : Fld := ⟨DMA_CNT_BAD, 0, 32⟩
def FLS_OPSTAT : Nat := 0x20600020
def FLS_OPSTAT_BUSY : Fld := ⟨FLS_OPSTAT, 31, 1⟩
def FLS_OPSTAT_SUSP : Fld := ⟨FLS_OPSTAT, 30, 1⟩
def FLS_OPSTAT_OP : Fld := ⟨FLS_OPSTAT, 24, 4⟩
def FLS_OPSTAT_RESULT : Fld := ⟨FLS_OPSTAT, 20, 4⟩
def FLS_OPSTAT_SEQ : Fld := ⟨FLS_OPSTAT, 16, 4⟩
def FLS_OPSTAT_SECTOR : Fld := ⟨FLS_OPSTAT, 0, 8⟩
def FLS_WAIT : Nat := 0x20600024
def FLS_WAIT_CYCLES : Fld := ⟨FLS_WAIT, 0, 5⟩
def FLS_BOOT_WP : Nat := 0x20600028
def FLS_BOOT_WP_WP : Fld := ⟨FLS_BOOT_WP, 0, 16⟩
def FLS_PROT : Nat := 0x2060002C
def FLS_PROT_PW_LOCKED : Fld := ⟨FLS_PROT, 5, 1⟩
def FLS_PROT_PW_OPEN : Fld := ⟨FLS_PROT, 4, 1⟩
def FLS_PROT_FAILS : Fld := ⟨FLS_PROT, 0, 4⟩
def FLS_PPB (n : Nat) : Nat := 0x20600030 + 4 * n
def FLS_PPB_PPB (n : Nat) : Fld := ⟨FLS_PPB n, 0, 32⟩
def FLS_SECT_SEL : Nat := 0x20600040
def FLS_SECT_SEL_SECTOR : Fld := ⟨FLS_SECT_SEL, 0, 8⟩
def FLS_SECT_INFO : Nat := 0x20600044
def FLS_SECT_INFO_INC : Fld := ⟨FLS_SECT_INFO, 31, 1⟩
def FLS_SECT_INFO_WORN : Fld := ⟨FLS_SECT_INFO, 30, 1⟩
def FLS_SECT_INFO_PROT : Fld := ⟨FLS_SECT_INFO, 29, 1⟩
def FLS_SECT_INFO_ERASE_CNT : Fld := ⟨FLS_SECT_INFO, 0, 24⟩
def FLS_INC_MAP (n : Nat) : Nat := 0x20600048 + 4 * n
def FLS_INC_MAP_MAP (n : Nat) : Fld := ⟨FLS_INC_MAP n, 0, 32⟩
def FLS_WORN_MAP (n : Nat) : Nat := 0x2060005C + 4 * n
def FLS_WORN_MAP_MAP (n : Nat) : Fld := ⟨FLS_WORN_MAP n, 0, 32⟩
def FLS_LAST_ERASE_PULSES : Nat := 0x20600070
def FLS_LAST_ERASE_PULSES_SECTOR : Fld := ⟨FLS_LAST_ERASE_PULSES, 24, 8⟩
def FLS_LAST_ERASE_PULSES_PULSES : Fld := ⟨FLS_LAST_ERASE_PULSES, 0, 12⟩
def FLS_LAST_PROG_RETRY : Nat := 0x20600074
def FLS_LAST_PROG_RETRY_RETRIES : Fld := ⟨FLS_LAST_PROG_RETRY, 0, 8⟩
def FLS_CNT_ECC : Nat := 0x20600078
def FLS_CNT_ECC_CE : Fld := ⟨FLS_CNT_ECC, 16, 16⟩
def FLS_CNT_ECC_UE : Fld := ⟨FLS_CNT_ECC, 0, 16⟩
def FLS_CNT_MISC : Nat := 0x2060007C
def FLS_CNT_MISC_BUSY_READ : Fld := ⟨FLS_CNT_MISC, 16, 16⟩
def FLS_CNT_MISC_INC_READ : Fld := ⟨FLS_CNT_MISC, 8, 8⟩
def FLS_CNT_MISC_SEQ_ERR : Fld := ⟨FLS_CNT_MISC, 0, 8⟩
def FLS_CNT_CLR : Nat := 0x20600080
def FLS_CNT_CLR_CLR : Fld := ⟨FLS_CNT_CLR, 0, 1⟩
def FLS_MSCRUB : Nat := 0x20600084
def FLS_MSCRUB_EN : Fld := ⟨FLS_MSCRUB, 31, 1⟩
def FLS_MSCRUB_INTERVAL : Fld := ⟨FLS_MSCRUB, 0, 16⟩
def FLS_MSCRUB_POS : Nat := 0x20600088
def FLS_MSCRUB_POS_WORD : Fld := ⟨FLS_MSCRUB_POS, 0, 20⟩
def FLS_MSCRUB_FAIL : Nat := 0x2060008C
def FLS_MSCRUB_FAIL_PASSES : Fld := ⟨FLS_MSCRUB_FAIL, 16, 16⟩
def FLS_MSCRUB_FAIL_FAILS : Fld := ⟨FLS_MSCRUB_FAIL, 0, 16⟩
def FLS_MSCRUB_ADDR : Nat := 0x20600090
def FLS_MSCRUB_ADDR_ADDR : Fld := ⟨FLS_MSCRUB_ADDR, 0, 24⟩
def FLS_ERASE_LIM : Nat := 0x20601100
def FLS_ERASE_LIM_PROG_MAX : Fld := ⟨FLS_ERASE_LIM, 24, 4⟩
def FLS_ERASE_LIM_MAX_PULSES : Fld := ⟨FLS_ERASE_LIM, 0, 12⟩
def PWR_RAIL_STAT : Nat := 0x20200020
def PWR_RAIL_STAT_FAIL_AT_RESET : Fld := ⟨PWR_RAIL_STAT, 8, 1⟩
def PWR_RAIL_STAT_IN_RANGE : Fld := ⟨PWR_RAIL_STAT, 0, 6⟩
def PWR_PSTATE : Nat := 0x20200024
def PWR_PSTATE_STATE : Fld := ⟨PWR_PSTATE, 0, 3⟩
def PWR_ACT : Nat := 0x20200028
def PWR_ACT_TOUCH : Fld := ⟨PWR_ACT, 31, 1⟩
def PWR_ACT_ELAPSED : Fld := ⟨PWR_ACT, 0, 31⟩
def PWR_IDLE (n : Nat) : Nat := 0x20200030 + 4 * n
def PWR_IDLE_MS (n : Nat) : Fld := ⟨PWR_IDLE n, 0, 32⟩
def PWR_DOM_REQ : Nat := 0x20201020
def PWR_DOM_REQ_GO : Fld := ⟨PWR_DOM_REQ, 31, 1⟩
def PWR_DOM_REQ_ON : Fld := ⟨PWR_DOM_REQ, 16, 1⟩
def PWR_DOM_REQ_DOMAINS : Fld := ⟨PWR_DOM_REQ, 0, 16⟩
def PWR_DOM_STAT : Nat := 0x20201024
def PWR_DOM_STAT_BUSY : Fld := ⟨PWR_DOM_STAT, 31, 1⟩
def PWR_DOM_STAT_POWERED : Fld := ⟨PWR_DOM_STAT, 0, 16⟩
def PWR_DOM_RESULT : Nat := 0x20201028
def PWR_DOM_RESULT_DOMAIN : Fld := ⟨PWR_DOM_RESULT, 16, 4⟩
def PWR_DOM_RESULT_RESULT : Fld := ⟨PWR_DOM_RESULT, 0, 4⟩
def PWR_HART_PARK : Nat := 0x2020102C
def PWR_HART_PARK_PARK : Fld := ⟨PWR_HART_PARK, 0, 13⟩
def PWR_AVS_CFG : Nat := 0x20202020
def PWR_AVS_CFG_ADDR : Fld := ⟨PWR_AVS_CFG, 25, 7⟩
def PWR_AVS_CFG_EXP : Fld := ⟨PWR_AVS_CFG, 16, 5⟩
def PWR_AVS_CFG_SETTLE : Fld := ⟨PWR_AVS_CFG, 0, 16⟩
def PWR_AVS_REQ : Nat := 0x20202024
def PWR_AVS_REQ_GO : Fld := ⟨PWR_AVS_REQ, 31, 1⟩
def PWR_AVS_REQ_MV : Fld := ⟨PWR_AVS_REQ, 0, 10⟩
def PWR_AVS_STAT : Nat := 0x20202028
def PWR_AVS_STAT_ERR : Fld := ⟨PWR_AVS_STAT, 28, 4⟩
def PWR_AVS_STAT_MV_READ : Fld := ⟨PWR_AVS_STAT, 16, 10⟩
def PWR_AVS_STAT_MV_NOW : Fld := ⟨PWR_AVS_STAT, 0, 10⟩
def PWR_HOLDUP : Nat := 0x20203020
def PWR_HOLDUP_ARM : Fld := ⟨PWR_HOLDUP, 31, 1⟩
def PWR_HOLDUP_FAIL_FILT : Fld := ⟨PWR_HOLDUP, 16, 8⟩
def PWR_HOLDUP_SHED : Fld := ⟨PWR_HOLDUP, 0, 16⟩
def PWR_HOLDUP_T : Nat := 0x20203024
def PWR_HOLDUP_T_TIME : Fld := ⟨PWR_HOLDUP_T, 0, 16⟩
def PWR_HOLDUP_STAT : Nat := 0x20203028
def PWR_HOLDUP_STAT_PHASE : Fld := ⟨PWR_HOLDUP_STAT, 30, 2⟩
def PWR_HOLDUP_STAT_SHED_DONE : Fld := ⟨PWR_HOLDUP_STAT, 0, 16⟩
def PWR_TRIP : Nat := 0x2020302C
def PWR_TRIP_TRIPPED : Fld := ⟨PWR_TRIP, 31, 1⟩
def PWR_TRIP_HOT : Fld := ⟨PWR_TRIP, 30, 1⟩
def CLK_CPU : Nat := 0x20300020
def CLK_CPU_BUSY : Fld := ⟨CLK_CPU, 31, 1⟩
def CLK_CPU_MULT : Fld := ⟨CLK_CPU, 0, 8⟩
def CLK_STAT : Nat := 0x20300024
def CLK_STAT_MULT_EFF : Fld := ⟨CLK_STAT, 8, 8⟩
def CLK_STAT_LOCK : Fld := ⟨CLK_STAT, 0, 7⟩
def BEL_ROUND : Nat := 0x20400020
def BEL_ROUND_SLOT : Fld := ⟨BEL_ROUND, 16, 6⟩
def BEL_ROUND_ROUNDS : Fld := ⟨BEL_ROUND, 0, 16⟩
def BEL_STATUS : Nat := 0x20400024
def BEL_STATUS_SHUT : Fld := ⟨BEL_STATUS, 31, 1⟩
def BEL_STATUS_THROT : Fld := ⟨BEL_STATUS, 28, 3⟩
def BEL_STATUS_SHUT_CH : Fld := ⟨BEL_STATUS, 0, 6⟩
def BEL_CMD : Nat := 0x20400028
def BEL_CMD_SHUT_CLR : Fld := ⟨BEL_CMD, 0, 1⟩
def BEL_THROT : Nat := 0x2040002C
def BEL_THROT_CPU_MULT : Fld := ⟨BEL_THROT, 24, 8⟩
def BEL_THROT_GMAX : Fld := ⟨BEL_THROT, 8, 4⟩
def BEL_THROT_LMAX : Fld := ⟨BEL_THROT, 0, 5⟩
def BEL_SHUT : Nat := 0x20400030
def BEL_SHUT_SPIN_STOP : Fld := ⟨BEL_SHUT, 31, 1⟩
def BEL_SHUT_DELAY : Fld := ⟨BEL_SHUT, 16, 8⟩
def BEL_SHUT_DOM : Fld := ⟨BEL_SHUT, 0, 16⟩
def BEL_CH_LIM (n : Nat) : Nat := 0x20401100 + 16 * n
def BEL_CH_LIM_WARN_HI (n : Nat) : Fld := ⟨BEL_CH_LIM n, 16, 16⟩
def BEL_CH_LIM_WARN_LO (n : Nat) : Fld := ⟨BEL_CH_LIM n, 0, 16⟩
def BEL_CH_ACT (n : Nat) : Nat := 0x20401104 + 16 * n
def BEL_CH_ACT_THROT (n : Nat) : Fld := ⟨BEL_CH_ACT n, 16, 16⟩
def BEL_CH_ACT_SHUT (n : Nat) : Fld := ⟨BEL_CH_ACT n, 0, 16⟩
def BEL_CH_CFG (n : Nat) : Nat := 0x20401108 + 16 * n
def BEL_CH_CFG_EN (n : Nat) : Fld := ⟨BEL_CH_CFG n, 31, 1⟩
def BEL_CH_CFG_ROR_ACT (n : Nat) : Fld := ⟨BEL_CH_CFG n, 28, 3⟩
def BEL_CH_CFG_TMASK (n : Nat) : Fld := ⟨BEL_CH_CFG n, 24, 3⟩
def BEL_CH_CFG_HYS (n : Nat) : Fld := ⟨BEL_CH_CFG n, 16, 8⟩
def BEL_CH_CFG_ROR_LIM (n : Nat) : Fld := ⟨BEL_CH_CFG n, 0, 16⟩
def BEL_CH_VAL (n : Nat) : Nat := 0x2040110C + 16 * n
def BEL_CH_VAL_SAMPLE (n : Nat) : Fld := ⟨BEL_CH_VAL n, 16, 16⟩
def BEL_CH_VAL_RATE (n : Nat) : Fld := ⟨BEL_CH_VAL n, 0, 16⟩
def BEL_RO_CAL (n : Nat) : Nat := 0x20402100 + 4 * n
def BEL_RO_CAL_C125 (n : Nat) : Fld := ⟨BEL_RO_CAL n, 16, 16⟩
def BEL_RO_CAL_C25 (n : Nat) : Fld := ⟨BEL_RO_CAL n, 0, 16⟩
def BEL_ADC_CAL : Nat := 0x20402140
def BEL_ADC_CAL_GAIN : Fld := ⟨BEL_ADC_CAL, 16, 16⟩
def BEL_ADC_CAL_OFFSET : Fld := ⟨BEL_ADC_CAL, 0, 16⟩
def BEL_IN_FILT (n : Nat) : Nat := 0x20403100 + 16 * n
def BEL_IN_FILT_MINPW (n : Nat) : Fld := ⟨BEL_IN_FILT n, 16, 16⟩
def BEL_IN_FILT_REARM (n : Nat) : Fld := ⟨BEL_IN_FILT n, 0, 16⟩
def BEL_IN_RATE (n : Nat) : Nat := 0x20403104 + 16 * n
def BEL_IN_RATE_RATE (n : Nat) : Fld := ⟨BEL_IN_RATE n, 8, 24⟩
def BEL_IN_RATE_BURST (n : Nat) : Fld := ⟨BEL_IN_RATE n, 0, 8⟩
def BEL_IN_STUCK (n : Nat) : Nat := 0x20403108 + 16 * n
def BEL_IN_STUCK_MS (n : Nat) : Fld := ⟨BEL_IN_STUCK n, 0, 16⟩
def BEL_IN_STAT (n : Nat) : Nat := 0x2040310C + 16 * n
def BEL_IN_STAT_LEVEL (n : Nat) : Fld := ⟨BEL_IN_STAT n, 31, 1⟩
def BEL_IN_STAT_STUCK (n : Nat) : Fld := ⟨BEL_IN_STAT n, 30, 1⟩
def BEL_IN_STAT_OVR (n : Nat) : Fld := ⟨BEL_IN_STAT n, 29, 1⟩
def BEL_IN_STAT_ARMED (n : Nat) : Fld := ⟨BEL_IN_STAT n, 28, 1⟩
def BEL_IN_STAT_OVR_CNT (n : Nat) : Fld := ⟨BEL_IN_STAT n, 0, 16⟩
def EVR_CFG : Nat := 0x20500020
def EVR_CFG_IRQ_SEV : Fld := ⟨EVR_CFG, 0, 3⟩
def EVR_BASE : Nat := 0x20500024
def EVR_BASE_BLOCK : Fld := ⟨EVR_BASE, 18, 6⟩
def EVR_BOOT : Nat := 0x20500028
def EVR_BOOT_BOOT : Fld := ⟨EVR_BOOT, 0, 16⟩
def EVR_SEQ : Nat := 0x2050002C
def EVR_SEQ_NEXT : Fld := ⟨EVR_SEQ, 0, 32⟩
def EVR_POST : Nat := 0x20500030
def EVR_POST_ADDR : Fld := ⟨EVR_POST, 6, 26⟩
def EVR_POST_STAT : Nat := 0x20500034
def EVR_POST_STAT_REFUSED : Fld := ⟨EVR_POST_STAT, 16, 16⟩
def EVR_POST_STAT_DEPTH : Fld := ⟨EVR_POST_STAT, 0, 5⟩
def EVR_OCC : Nat := 0x20500038
def EVR_OCC_FATAL : Fld := ⟨EVR_OCC, 16, 9⟩
def EVR_OCC_GENERAL : Fld := ⟨EVR_OCC, 0, 12⟩
def EVR_DROP (n : Nat) : Nat := 0x20500040 + 4 * n
def EVR_DROP_SEV_HI (n : Nat) : Fld := ⟨EVR_DROP n, 16, 16⟩
def EVR_DROP_SEV_LO (n : Nat) : Fld := ⟨EVR_DROP n, 0, 16⟩
def EVR_PRING_BASE : Nat := 0x20500050
def EVR_PRING_BASE_ADDR : Fld := ⟨EVR_PRING_BASE, 12, 20⟩
def EVR_PRING_PROD : Nat := 0x20500054
def EVR_PRING_PROD_INDEX : Fld := ⟨EVR_PRING_PROD, 0, 16⟩
def EVR_PRING_CONS : Nat := 0x20500058
def EVR_PRING_CONS_INDEX : Fld := ⟨EVR_PRING_CONS, 0, 16⟩
def EVR_CMD : Nat := 0x2050005C
def EVR_CMD_CNT_CLR : Fld := ⟨EVR_CMD, 2, 1⟩
def EVR_CMD_CLR_FATAL : Fld := ⟨EVR_CMD, 1, 1⟩
def EVR_CMD_CLR_GEN : Fld := ⟨EVR_CMD, 0, 1⟩
def EVR_RL_SEL : Nat := 0x20501020
def EVR_RL_SEL_ENTRY : Fld := ⟨EVR_RL_SEL, 0, 8⟩
def EVR_RL_CFG : Nat := 0x20501024
def EVR_RL_CFG_CODE : Fld := ⟨EVR_RL_CFG, 16, 16⟩
def EVR_RL_CFG_BURST : Fld := ⟨EVR_RL_CFG, 8, 8⟩
def EVR_RL_CFG_EN : Fld := ⟨EVR_RL_CFG, 0, 1⟩
def EVR_RL_RATE : Nat := 0x20501028
def EVR_RL_RATE_RATE : Fld := ⟨EVR_RL_RATE, 0, 16⟩
def EVR_RL_STAT : Nat := 0x2050102C
def EVR_RL_STAT_COUNT : Fld := ⟨EVR_RL_STAT, 16, 16⟩
def EVR_RL_STAT_MAXSEV : Fld := ⟨EVR_RL_STAT, 8, 3⟩
def EVR_RL_STAT_TOKENS : Fld := ⟨EVR_RL_STAT, 0, 8⟩
def SYS_RST_CAUSE : Nat := 0x20100020
def SYS_RST_CAUSE_CAUSE : Fld := ⟨SYS_RST_CAUSE, 0, 8⟩
def SYS_RST_REQ : Nat := 0x20100024
def SYS_RST_REQ_PEND : Fld := ⟨SYS_RST_REQ, 31, 1⟩
def SYS_RST_REQ_DEFER : Fld := ⟨SYS_RST_REQ, 1, 1⟩
def SYS_RST_REQ_NOW : Fld := ⟨SYS_RST_REQ, 0, 1⟩
def SYS_RST_DEFER : Nat := 0x20100028
def SYS_RST_DEFER_MS : Fld := ⟨SYS_RST_DEFER, 0, 16⟩
def SYS_BOOT_STAT : Nat := 0x2010002C
def SYS_BOOT_STAT_CODE : Fld := ⟨SYS_BOOT_STAT, 24, 8⟩
def SYS_BOOT_STAT_CAL_OK : Fld := ⟨SYS_BOOT_STAT, 23, 1⟩
def SYS_BOOT_STAT_SLOT : Fld := ⟨SYS_BOOT_STAT, 16, 2⟩
def SYS_HART_RUN : Nat := 0x20101020
def SYS_HART_RUN_RUN : Fld := ⟨SYS_HART_RUN, 0, 12⟩
def SYS_HART_RVEC_LO (n : Nat) : Nat := 0x20101040 + 8 * n
def SYS_HART_RVEC_LO_ADDR (n : Nat) : Fld := ⟨SYS_HART_RVEC_LO n, 2, 30⟩
def SYS_HART_RVEC_HI (n : Nat) : Nat := 0x20101044 + 8 * n
def SYS_HART_RVEC_HI_ADDR (n : Nat) : Fld := ⟨SYS_HART_RVEC_HI n, 0, 8⟩
def SYS_WDT_CFG : Nat := 0x20102020
def SYS_WDT_CFG_EN : Fld := ⟨SYS_WDT_CFG, 31, 1⟩
def SYS_WDT_CFG_LOCK : Fld := ⟨SYS_WDT_CFG, 30, 1⟩
def SYS_WDT_CFG_MS : Fld := ⟨SYS_WDT_CFG, 0, 16⟩
def SYS_WDT_KICK : Nat := 0x20102024
def SYS_WDT_KICK_KEY : Fld := ⟨SYS_WDT_KICK, 0, 32⟩
def SYS_WDT_STAT : Nat := 0x20102028
def SYS_WDT_STAT_WARNED : Fld := ⟨SYS_WDT_STAT, 31, 1⟩
def SYS_WDT_STAT_LEFT : Fld := ⟨SYS_WDT_STAT, 0, 16⟩
def SYS_DIE_ID (n : Nat) : Nat := 0x20103020 + 4 * n
def SYS_DIE_ID_ID (n : Nat) : Fld := ⟨SYS_DIE_ID n, 0, 32⟩
def SYS_FUSE_STAT : Nat := 0x20103028
def SYS_FUSE_STAT_LOADED : Fld := ⟨SYS_FUSE_STAT, 31, 1⟩
def SYS_FUSE_STAT_OK : Fld := ⟨SYS_FUSE_STAT, 0, 5⟩
def SYS_JTAG_ID : Nat := 0x2010302C
def SYS_JTAG_ID_IDCODE : Fld := ⟨SYS_JTAG_ID, 0, 32⟩
def SYS_BIST_SEL : Nat := 0x20104020
def SYS_BIST_SEL_STORE : Fld := ⟨SYS_BIST_SEL, 0, 9⟩
def SYS_BIST_CMD : Nat := 0x20104024
def SYS_BIST_CMD_GO : Fld := ⟨SYS_BIST_CMD, 31, 1⟩
def SYS_BIST_CMD_ALG : Fld := ⟨SYS_BIST_CMD, 0, 2⟩
def SYS_BIST_RES : Nat := 0x20104028
def SYS_BIST_RES_FAIL : Fld := ⟨SYS_BIST_RES, 0, 9⟩
def SYS_BIST_POR : Nat := 0x2010402C
def SYS_BIST_POR_FAIL : Fld := ⟨SYS_BIST_POR, 0, 9⟩
def CPL_TEST (i : Nat) : Nat := 0x21201100 + 0x10000 * i
def CPL_TEST_LOOP (i : Nat) : Fld := ⟨CPL_TEST i, 0, 2⟩
def BTP_CFG : Nat := 0x21600020
def BTP_CFG_DIV : Fld := ⟨BTP_CFG, 16, 4⟩
def BTP_CFG_SRC_EN : Fld := ⟨BTP_CFG, 0, 8⟩
def BTP_STAT : Nat := 0x21600024
def BTP_STAT_DROPPED : Fld := ⟨BTP_STAT, 16, 16⟩
def BTP_STAT_LEVEL : Fld := ⟨BTP_STAT, 0, 13⟩
def AOT_CNT_CLR : Nat := 0x20B03060
def AOT_CNT_CLR_CLR : Fld := ⟨AOT_CNT_CLR, 0, 1⟩
def DMA_CH_CFG (c : Nat) : Nat := dmaCh c + 0x0
def DMA_CH_CFG_PRIO (c : Nat) : Fld := ⟨DMA_CH_CFG c, 31, 1⟩
def DMA_CH_CFG_BURST (c : Nat) : Fld := ⟨DMA_CH_CFG c, 28, 2⟩
def DMA_CH_CFG_MAXBLK (c : Nat) : Fld := ⟨DMA_CH_CFG c, 24, 4⟩
def DMA_CH_CFG_REQ_EN (c : Nat) : Fld := ⟨DMA_CH_CFG c, 20, 1⟩
def DMA_CH_CFG_REQ (c : Nat) : Fld := ⟨DMA_CH_CFG c, 16, 4⟩
def DMA_CH_CTL (c : Nat) : Nat := dmaCh c + 0x4
def DMA_CH_CTL_EN (c : Nat) : Fld := ⟨DMA_CH_CTL c, 0, 1⟩
def DMA_CH_STAT (c : Nat) : Nat := dmaCh c + 0x8
def DMA_CH_STAT_CSTATE (c : Nat) : Fld := ⟨DMA_CH_STAT c, 29, 3⟩
def DMA_CH_STAT_REQ_OVF (c : Nat) : Fld := ⟨DMA_CH_STAT c, 25, 1⟩
def DMA_CH_STAT_DB_PEND (c : Nat) : Fld := ⟨DMA_CH_STAT c, 24, 1⟩
def DMA_CH_STAT_REQ_CNT (c : Nat) : Fld := ⟨DMA_CH_STAT c, 20, 4⟩
def DMA_CH_STAT_BLOCKS (c : Nat) : Fld := ⟨DMA_CH_STAT c, 15, 5⟩
def DMA_CH_DESC_LO (c : Nat) : Nat := dmaCh c + 0xC
def DMA_CH_DESC_LO_ADDR (c : Nat) : Fld := ⟨DMA_CH_DESC_LO c, 5, 27⟩
def DMA_CH_DESC_HI (c : Nat) : Nat := dmaCh c + 0x10
def DMA_CH_DESC_HI_ADDR (c : Nat) : Fld := ⟨DMA_CH_DESC_HI c, 0, 8⟩
def DMA_CH_SRC (c : Nat) : Nat := dmaCh c + 0x14
def DMA_CH_SRC_SRC (c : Nat) : Fld := ⟨DMA_CH_SRC c, 0, 32⟩
def DMA_CH_DST (c : Nat) : Nat := dmaCh c + 0x18
def DMA_CH_DST_DST (c : Nat) : Fld := ⟨DMA_CH_DST c, 0, 32⟩
def DMA_CH_ADDR_HI (c : Nat) : Nat := dmaCh c + 0x1C
def DMA_CH_ADDR_HI_DST (c : Nat) : Fld := ⟨DMA_CH_ADDR_HI c, 8, 8⟩
def DMA_CH_ADDR_HI_SRC (c : Nat) : Fld := ⟨DMA_CH_ADDR_HI c, 0, 8⟩
def DMA_CH_REMAIN (c : Nat) : Nat := dmaCh c + 0x20
def DMA_CH_REMAIN_BYTES (c : Nat) : Fld := ⟨DMA_CH_REMAIN c, 0, 25⟩
def DMA_CH_IRQ (c : Nat) : Nat := dmaCh c + 0x24
def DMA_CH_IRQ_ERROR (c : Nat) : Fld := ⟨DMA_CH_IRQ c, 3, 1⟩
def DMA_CH_IRQ_BAD (c : Nat) : Fld := ⟨DMA_CH_IRQ c, 2, 1⟩
def DMA_CH_IRQ_FULL (c : Nat) : Fld := ⟨DMA_CH_IRQ c, 1, 1⟩
def DMA_CH_IRQ_HALF (c : Nat) : Fld := ⟨DMA_CH_IRQ c, 0, 1⟩
def DMA_CH_IRQ_EN (c : Nat) : Nat := dmaCh c + 0x28
def DMA_CH_IRQ_EN_ERROR (c : Nat) : Fld := ⟨DMA_CH_IRQ_EN c, 3, 1⟩
def DMA_CH_IRQ_EN_BAD (c : Nat) : Fld := ⟨DMA_CH_IRQ_EN c, 2, 1⟩
def DMA_CH_IRQ_EN_FULL (c : Nat) : Fld := ⟨DMA_CH_IRQ_EN c, 1, 1⟩
def DMA_CH_IRQ_EN_HALF (c : Nat) : Fld := ⟨DMA_CH_IRQ_EN c, 0, 1⟩
def DMA_CH_DB (c : Nat) : Nat := dmaCh c + 0x2C
def DMA_CH_DB_RING (c : Nat) : Fld := ⟨DMA_CH_DB c, 0, 1⟩
def DMA_CH_CNT (c : Nat) : Nat := dmaCh c + 0x30
def DMA_CH_CNT_DONE (c : Nat) : Fld := ⟨DMA_CH_CNT c, 16, 16⟩
def DMA_CH_CNT_BAD (c : Nat) : Fld := ⟨DMA_CH_CNT c, 0, 16⟩

/-! The fields of each page, for the generic write. -/

def rw (lo width reset : Nat) : FldDesc := ⟨lo, width, .rw, reset⟩
def ro (lo width reset : Nat) : FldDesc := ⟨lo, width, .ro, reset⟩
def wo (lo width reset : Nat) : FldDesc := ⟨lo, width, .wo, reset⟩
def wc (lo width reset : Nat) : FldDesc := ⟨lo, width, .wc, reset⟩
def ws (lo width reset : Nat) : FldDesc := ⟨lo, width, .ws, reset⟩
def rp (lo width reset : Nat) : FldDesc := ⟨lo, width, .rp, reset⟩
def ow (lo width reset : Nat) : FldDesc := ⟨lo, width, .ow, reset⟩

def pageSYS5 : List RegDesc := [
  ⟨0x20, 1, 4, [ow 0 8 0]⟩,  -- SYS_MBX_DB_SET
  ⟨0x24, 1, 4, [wc 0 8 0]⟩]  -- SYS_MBX_DB_PEND

def pageATB0 : List RegDesc := [
  ⟨0x20, 1, 4, [rw 4 2 0, rw 0 1 0]⟩,  -- ATB_CFG
  ⟨0x24, 1, 4, [ro 28 4 0, ro 24 4 0, ro 9 1 1, ro 8 1 0, ro 7 1 0, ro 6 1 0, ro 5 1 0, ro 4 1 0, ro 3 1 0, ro 2 1 0, ro 0 2 0]⟩,  -- ATB_SRC
  ⟨0x28, 1, 4, [ro 24 8 0, ro 15 9 0, ro 0 15 0]⟩,  -- ATB_ANGLE
  ⟨0x2C, 1, 4, [ro 0 32 0]⟩,  -- ATB_RATE
  ⟨0x30, 1, 4, [ro 16 16 0, ro 0 8 0]⟩,  -- ATB_EPOCH
  ⟨0x34, 2, 4, [ro 31 1 0, ro 30 1 0, ro 0 24 0]⟩,  -- ATB_PHERR_T
  ⟨0x3C, 2, 4, [ow 0 16 0]⟩,  -- ATB_SKEW_T
  ⟨0x44, 2, 4, [rw 16 1 1, rw 0 15 0x600]⟩,  -- ATB_TICK_T
  ⟨0x4C, 2, 4, [rw 16 16 0x800, rw 0 16 0x200]⟩,  -- ATB_SWIN_T
  ⟨0x54, 1, 4, [ow 0 24 0]⟩,  -- ATB_OBS_OFFSET
  ⟨0x58, 1, 4, [rw 16 4 4, rw 0 16 0x200]⟩,  -- ATB_XCHK_LIM
  ⟨0x5C, 1, 4, [ro 28 4 0, ro 26 2 0, ro 24 2 0, ro 0 24 0]⟩]  -- ATB_LAST_EVT

def pageATB1 : List RegDesc := [
  ⟨0x20, 4, 4, [ro 0 32 0]⟩,  -- ATB_CMP_ARMED
  ⟨0x30, 1, 4, [ow 1 1 0, ow 0 1 0]⟩,  -- ATB_CMP_FLUSH
  ⟨0x100, 128, 8, [rw 0 32 0]⟩,  -- ATB_CMP_TGT
  ⟨0x104, 128, 8, [ow 31 1 0, ow 27 4 0, ow 16 8 0, ow 12 4 0, ow 10 2 0, ow 9 1 0]⟩]  -- ATB_CMP_CTL

def pageSPN0 : List RegDesc := [
  ⟨0x20, 1, 4, [ow 8 4 8, ow 4 1 0, ow 0 2 0]⟩,  -- SPN_CFG
  ⟨0x24, 1, 4, [ro 19 1 0, ro 18 1 0, ro 17 1 1, ro 16 1 0, ro 8 4 0, ro 0 4 0]⟩,  -- SPN_MODE
  ⟨0x28, 1, 4, [ro 31 1 0, ro 0 23 0]⟩,  -- SPN_SPEED
  ⟨0x2C, 1, 4, [ro 0 24 0]⟩,  -- SPN_SPEED_ERR
  ⟨0x30, 1, 4, [rw 16 10 1, rw 4 3 2, rw 1 1 0, rw 0 1 0]⟩,  -- SPN_SYNC_CFG
  ⟨0x34, 1, 4, [rw 0 24 0]⟩,  -- SPN_SYNC_PHASE
  ⟨0x38, 1, 4, [ro 31 1 0, ro 28 3 5, ro 0 24 0]⟩,  -- SPN_SYNC_STAT
  ⟨0x3C, 1, 4, [ro 0 32 0]⟩,  -- SPN_CNT_SKIP
  ⟨0x40, 1, 4, [ro 24 8 0, ro 16 8 0, ro 8 8 0, ro 0 8 0]⟩,  -- SPN_CNT_EVT
  ⟨0x44, 1, 4, [ro 28 4 0, ro 24 4 0, ro 0 23 0]⟩]  -- SPN_LAST_EVT

def pageSPN1 : List RegDesc := [
  ⟨0x100, 1, 4, [rw 16 16 0x80, rw 0 16 0x40]⟩,  -- SPN_HYST
  ⟨0x104, 1, 4, [rw 0 16 0x1000]⟩,  -- SPN_FLUX_REF
  ⟨0x108, 1, 4, [rw 0 8 0x64]⟩,  -- SPN_GATE
  ⟨0x10C, 1, 4, [rw 0 12 0x190]⟩,  -- SPN_SAMP
  ⟨0x110, 1, 4, [rw 0 12 0xc8]⟩,  -- SPN_OBS_LIM
  ⟨0x114, 1, 4, [rw 0 12 0xc00]⟩,  -- SPN_ILIM
  ⟨0x118, 1, 4, [rw 16 16 0, rw 0 16 0]⟩,  -- SPN_MODEL_RL
  ⟨0x11C, 1, 4, [rw 0 16 0]⟩,  -- SPN_MODEL_KE
  ⟨0x120, 1, 4, [rw 0 13 0x1f40]⟩,  -- SPN_PA_SPAN
  ⟨0x140, 16, 4, [rw 0 12 0]⟩]  -- SPN_PA

def pageSPN2 : List RegDesc := [
  ⟨0x100, 1, 4, [rw 16 12 0x40, rw 8 8 0x14, rw 0 8 0xa]⟩,  -- SPN_START_CFG
  ⟨0x104, 1, 4, [rw 20 12 0x600, rw 0 16 0xc8]⟩,  -- SPN_ALIGN
  ⟨0x108, 1, 4, [rw 16 16 0xc8, rw 0 16 0xbb8]⟩,  -- SPN_RAMP
  ⟨0x10C, 1, 4, [rw 16 16 0x4b0, rw 0 16 0x4b0]⟩,  -- SPN_ACCEL
  ⟨0x110, 1, 4, [rw 0 16 0x64]⟩,  -- SPN_RECAP
  ⟨0x114, 1, 4, [rw 16 16 0x546, rw 0 16 0x438]⟩,  -- SPN_BUS
  ⟨0x118, 1, 4, [ro 24 2 0, ro 16 4 0, ro 0 12 0]⟩,  -- SPN_IPS_RES
  ⟨0x20, 1, 4, [ro 24 8 0, ro 16 4 0, ro 11 1 0, ro 10 1 0, ro 9 1 0, ro 8 1 0, ro 0 2 0]⟩,  -- SPN_ENG_STAT
  ⟨0x24, 1, 4, [rw 0 4 0]⟩,  -- SPN_ENG_RUN
  ⟨0x28, 1, 4, [wo 2 1 0, wo 1 1 0, ws 0 1 0]⟩,  -- SPN_ENG_CMD
  ⟨0x2C, 1, 4, [ro 28 4 0, ro 26 2 0, ro 23 3 0, wc 13 1 0, ro 0 13 0]⟩,  -- SPN_ENG_FAULT
  ⟨0x30, 1, 4, [ro 0 32 0]⟩,  -- SPN_ENG_SATCNT
  ⟨0x34, 1, 4, [ro 16 16 0, ro 0 16 0]⟩,  -- SPN_ENG_BUDGET
  ⟨0x200, 4, 4, [rw 31 1 0, rw 30 1 0, rw 29 1 0, rw 28 1 0, rw 26 2 0, rw 24 2 0, rw 20 4 0, rw 8 4 0, rw 4 2 0, rw 0 2 0]⟩,  -- SPN_ENG_SLOT_CFG
  ⟨0x210, 4, 4, [rw 24 8 0, rw 16 8 0, rw 8 8 0, rw 0 8 0]⟩,  -- SPN_ENG_IN_SEL
  ⟨0x220, 4, 4, [rw 24 8 0, rw 16 8 0, rw 8 8 0, rw 0 8 0]⟩,  -- SPN_ENG_SP_SEL
  ⟨0x230, 4, 4, [rw 24 8 0, rw 16 8 0, rw 8 8 0, rw 0 8 0]⟩,  -- SPN_ENG_OUT_SEL
  ⟨0x240, 4, 4, [rw 8 16 0, rw 0 8 0x80]⟩,  -- SPN_ENG_SP_CONST
  ⟨0x300, 1, 4, [rw 31 1 0, rw 0 13 0]⟩,  -- SPN_ENG_COEF_ADDR
  ⟨0x304, 1, 4, [rw 0 16 0]⟩]  -- SPN_ENG_COEF_DATA

def pageSPN3 : List RegDesc := [
  ⟨0x100, 1, 4, [rw 0 8 0x40]⟩,  -- SPN_MARK_CFG
  ⟨0x104, 1, 4, [ro 31 1 0, ro 16 8 0, ro 0 4 0]⟩,  -- SPN_MARK
  ⟨0x140, 12, 4, [rw 0 16 0]⟩,  -- SPN_MARK_SIG
  ⟨0x180, 1, 4, [ro 6 1 1, ro 0 6 0]⟩,  -- SPN_GATE_RB
  ⟨0x184, 1, 4, [ow 31 1 0, ow 0 6 0]⟩,  -- SPN_GATE_FORCE
  ⟨0x60, 1, 4, [ws 31 1 0, wo 30 1 0, rw 16 12 0x800, rw 8 8 0, rw 0 2 0]⟩,  -- SPN_ENG_TRC_CTL
  ⟨0x64, 1, 4, [rw 28 4 0, rw 8 16 0, rw 0 8 0x80]⟩,  -- SPN_ENG_TRC_TRIG
  ⟨0x68, 1, 4, [ro 30 2 0, ro 29 1 0, ro 16 12 0, ro 0 13 0]⟩,  -- SPN_ENG_TRC_STAT
  ⟨0x6C, 1, 4, [rw 31 1 0, rw 12 3 0, rw 0 12 0]⟩,  -- SPN_ENG_TRC_ADDR
  ⟨0x70, 1, 4, [ro 0 32 0]⟩,  -- SPN_ENG_TRC_DATA
  ⟨0x80, 8, 4, [rw 8 4 0, rw 4 2 0, rw 0 4 0]⟩]  -- SPN_ENG_TRC_SEL

def pageSRV2 : List RegDesc := [
  ⟨0x20, 1, 4, [ro 24 8 0, ro 16 4 0, ro 11 1 1, ro 10 1 0, ro 9 1 0, ro 8 1 0, ro 0 2 0]⟩,  -- SRV_ENG_STAT
  ⟨0x24, 1, 4, [rw 0 4 0]⟩,  -- SRV_ENG_RUN
  ⟨0x28, 1, 4, [wo 2 1 0, wo 1 1 0, ws 0 1 0]⟩,  -- SRV_ENG_CMD
  ⟨0x2C, 1, 4, [ro 28 4 0, ro 26 2 0, ro 23 3 0, wc 13 1 0, ro 0 13 0]⟩,  -- SRV_ENG_FAULT
  ⟨0x30, 1, 4, [ro 0 32 0]⟩,  -- SRV_ENG_SATCNT
  ⟨0x34, 1, 4, [ro 16 16 0, ro 0 16 0]⟩,  -- SRV_ENG_BUDGET
  ⟨0x200, 4, 4, [rw 31 1 0, rw 30 1 0, rw 29 1 0, rw 28 1 0, rw 26 2 0, rw 24 2 0, rw 20 4 0, rw 8 4 0, rw 4 2 0, rw 0 2 0]⟩,  -- SRV_ENG_SLOT_CFG
  ⟨0x210, 4, 4, [rw 24 8 0, rw 16 8 0, rw 8 8 0, rw 0 8 0]⟩,  -- SRV_ENG_IN_SEL
  ⟨0x220, 4, 4, [rw 24 8 0, rw 16 8 0, rw 8 8 0, rw 0 8 0]⟩,  -- SRV_ENG_SP_SEL
  ⟨0x230, 4, 4, [rw 24 8 0, rw 16 8 0, rw 8 8 0, rw 0 8 0]⟩,  -- SRV_ENG_OUT_SEL
  ⟨0x240, 4, 4, [rw 8 16 0, rw 0 8 0x80]⟩,  -- SRV_ENG_SP_CONST
  ⟨0x250, 1, 4, [rw 31 1 0, rw 16 12 0, rw 0 16 0x1000]⟩,  -- SRV_ENG_AUX
  ⟨0x254, 1, 4, [rw 0 8 4]⟩,  -- SRV_ENG_XCPL_AGE
  ⟨0x300, 1, 4, [rw 31 1 0, rw 0 13 0]⟩,  -- SRV_ENG_COEF_ADDR
  ⟨0x304, 1, 4, [rw 0 16 0]⟩]  -- SRV_ENG_COEF_DATA

def pageSRV3 : List RegDesc := [
  ⟨0x20, 1, 4, [ow 31 1 0, ro 1 1 0, ro 0 1 0]⟩,  -- SRV_ENG_PROF_CTL
  ⟨0x24, 1, 4, [rw 0 32 0]⟩,  -- SRV_ENG_PROF_TGT
  ⟨0x28, 1, 4, [ow 0 32 0]⟩,  -- SRV_ENG_PROF_P
  ⟨0x2C, 1, 4, [ro 0 32 0]⟩,  -- SRV_ENG_PROF_V
  ⟨0x30, 1, 4, [ro 0 32 0]⟩,  -- SRV_ENG_PROF_A
  ⟨0x34, 1, 4, [rw 0 32 0]⟩,  -- SRV_ENG_PROF_VMAX
  ⟨0x38, 1, 4, [rw 0 32 0]⟩,  -- SRV_ENG_PROF_AMAX
  ⟨0x3C, 1, 4, [rw 0 32 0]⟩,  -- SRV_ENG_PROF_JMAX
  ⟨0x40, 1, 4, [rw 16 2 0, rw 0 16 0]⟩,  -- SRV_ENG_PROF_CFG
  ⟨0x60, 1, 4, [ws 31 1 0, wo 30 1 0, rw 16 12 0x800, rw 8 8 0, rw 0 2 0]⟩,  -- SRV_ENG_TRC_CTL
  ⟨0x64, 1, 4, [rw 28 4 0, rw 8 16 0, rw 0 8 0x80]⟩,  -- SRV_ENG_TRC_TRIG
  ⟨0x68, 1, 4, [ro 30 2 0, ro 29 1 0, ro 16 12 0, ro 0 13 0]⟩,  -- SRV_ENG_TRC_STAT
  ⟨0x6C, 1, 4, [rw 31 1 0, rw 12 3 0, rw 0 12 0]⟩,  -- SRV_ENG_TRC_ADDR
  ⟨0x70, 1, 4, [ro 0 32 0]⟩,  -- SRV_ENG_TRC_DATA
  ⟨0x80, 8, 4, [rw 8 4 0, rw 4 2 0, rw 0 4 0]⟩]  -- SRV_ENG_TRC_SEL

def pageSRV0 : List RegDesc := [
  ⟨0x20, 1, 4, [rw 8 4 0xc, rw 4 1 0, rw 0 1 1]⟩,  -- SRV_CFG
  ⟨0x24, 1, 4, [ow 2 1 0, ow 1 1 0, ow 0 1 0]⟩,  -- SRV_CMD
  ⟨0x28, 1, 4, [ro 28 4 0, ro 12 1 0, ro 11 1 0, ro 10 1 0, ro 9 1 1, ro 8 1 0, ro 0 4 7]⟩,  -- SRV_MODE
  ⟨0x2C, 1, 4, [ow 0 4 0]⟩,  -- SRV_HEAD
  ⟨0x30, 1, 4, [ow 0 32 0]⟩,  -- SRV_TRACK
  ⟨0x34, 1, 4, [ow 0 16 0]⟩,  -- SRV_OFFSET
  ⟨0x38, 1, 4, [ro 0 32 0]⟩,  -- SRV_POS
  ⟨0x3C, 1, 4, [ro 31 1 0, ro 30 1 0, ro 0 16 0]⟩,  -- SRV_PES
  ⟨0x40, 1, 4, [rw 16 4 4, rw 0 16 0xccd]⟩,  -- SRV_OTW
  ⟨0x44, 1, 4, [rw 16 4 8, rw 0 16 0x666]⟩,  -- SRV_SETTLE
  ⟨0x48, 1, 4, [rw 24 8 0x10, rw 0 12 0x400]⟩,  -- SRV_SHOCK
  ⟨0x4C, 1, 4, [ro 16 12 0, ro 0 12 0]⟩,  -- SRV_SHOCK_VAL
  ⟨0x50, 1, 4, [ro 24 8 0, ro 16 8 0, ro 8 8 0, ro 0 8 0]⟩,  -- SRV_CNT
  ⟨0x54, 1, 4, [ro 0 32 0]⟩]  -- SRV_BAD

def pageSRV1 : List RegDesc := [
  ⟨0x100, 1, 4, [rw 24 4 4, rw 16 4 8, rw 0 12 0x80]⟩,  -- SRV_DEMOD
  ⟨0x140, 33, 4, [rw 0 16 0]⟩,  -- SRV_LIN
  ⟨0x200, 1, 4, [rw 31 1 0, rw 24 3 0, rw 12 12 0, rw 0 12 0]⟩,  -- SRV_BEMF
  ⟨0x204, 1, 4, [rw 16 16 0x600, rw 0 16 0x40]⟩,  -- SRV_GEN_LOAD
  ⟨0x20C, 1, 4, [rw 16 16 0x800, rw 0 16 0x60]⟩,  -- SRV_GEN_UNLOAD
  ⟨0x214, 1, 4, [rw 16 16 0x1000, rw 0 16 0xa0]⟩,  -- SRV_GEN_RETRACT
  ⟨0x208, 1, 4, [rw 16 16 0x12c, rw 0 16 0]⟩,  -- SRV_GEN_LOAD_T
  ⟨0x210, 1, 4, [rw 16 16 0x64, rw 0 16 0x14]⟩,  -- SRV_GEN_UNLOAD_T
  ⟨0x218, 1, 4, [rw 16 16 0x32, rw 0 16 0xa]⟩,  -- SRV_GEN_RETRACT_T
  ⟨0x21C, 1, 4, [rw 16 16 0x400, rw 0 16 8]⟩]  -- SRV_GEN_HOLD

def pageCHN0 : List RegDesc := [
  ⟨0x20, 1, 4, [rw 1 1 1, rw 0 1 1]⟩,  -- CHN_CFG
  ⟨0x24, 1, 4, [ro 5 1 0, ro 4 1 0, ro 2 1 0, ro 1 1 0, ro 0 1 0]⟩,  -- CHN_STAT
  ⟨0x28, 1, 4, [rw 5 27 0]⟩,  -- CHN_RING_BASE
  ⟨0x2C, 1, 4, [rw 0 4 8]⟩,  -- CHN_RING_CFG
  ⟨0x30, 1, 4, [ro 0 16 0]⟩,  -- CHN_RING_PROD
  ⟨0x34, 1, 4, [rw 0 16 0]⟩]  -- CHN_RING_CONS

def pageCHN1 : List RegDesc := [
  ⟨0x20, 1, 4, [rw 24 6 0x30, rw 16 5 0xc, rw 8 8 0x60, rw 1 1 1, rw 0 1 1]⟩,  -- CHN_AFE_A
  ⟨0x24, 1, 4, [rw 24 6 0x30, rw 16 5 0xc, rw 8 8 0x60, rw 1 1 1, rw 0 1 1]⟩,  -- CHN_AFE_B
  ⟨0x28, 1, 4, [rw 24 6 0x30, rw 16 5 0xc, rw 8 8 0x60, rw 1 1 1]⟩,  -- CHN_AFE_SRV
  ⟨0x2C, 1, 4, [rw 24 8 0x30, rw 20 4 3, rw 16 4 8]⟩,  -- CHN_AGC
  ⟨0x30, 1, 4, [rw 28 4 2, rw 24 4 5, rw 20 4 0xb, rw 0 8 0x60]⟩,  -- CHN_TREC
  ⟨0x34, 2, 4, [ro 24 8 0, ro 16 6 0, ro 8 8 0, ro 0 8 0]⟩]  -- CHN_AFE_STAT

def pageCHN2 : List RegDesc := [
  ⟨0x20, 1, 4, [rw 24 8 0x20, rw 16 6 8, rw 8 6 0x10]⟩,  -- CHN_SYNC
  ⟨0x24, 1, 4, [rw 0 12 0x5dc]⟩,  -- CHN_SYNC_REJ
  ⟨0x28, 1, 4, [rw 0 7 0x10]⟩]  -- CHN_MARGIN

def pageCHN3 : List RegDesc := [
  ⟨0x20, 1, 4, [rw 8 4 8, rw 0 5 0x14]⟩,  -- CHN_ITER_NORMAL
  ⟨0x24, 1, 4, [rw 8 4 4, rw 0 5 0x14]⟩,  -- CHN_ITER_VERIFY
  ⟨0x28, 1, 4, [rw 8 4 8, rw 0 5 0x1e]⟩]  -- CHN_ITER_REPLAY

def pageCHN4 : List RegDesc := [
  ⟨0x20, 1, 4, [rw 31 1 0, rw 0 9 0]⟩,  -- CHN_COEF_ADDR
  ⟨0x24, 1, 4, [ow 0 16 0]⟩,  -- CHN_COEF_DATA
  ⟨0x28, 1, 4, [rw 31 1 0, rw 0 4 0xc]⟩]  -- CHN_EQ_ADAPT

def pageCHN5 : List RegDesc := [
  ⟨0x20, 5, 4, [rw 0 32 0]⟩,  -- CHN_RP_REQ
  ⟨0x34, 1, 4, [ow 0 1 0]⟩,  -- CHN_RP_PUSH
  ⟨0x38, 1, 4, [ro 16 5 0, ro 8 1 0, ro 0 8 0]⟩,  -- CHN_RP_STAT
  ⟨0x3C, 1, 4, [ow 31 1 0, ow 16 6 0, ow 8 8 0]⟩,  -- CHN_RB_PIN
  ⟨0x40, 1, 4, [ro 24 6 0, ro 16 6 0x32, ro 0 1 0]⟩,  -- CHN_RB_STAT
  ⟨0x44, 1, 4, [ro 0 32 0]⟩,  -- CHN_RB_PINMAP_LO
  ⟨0x48, 1, 4, [ro 0 32 0]⟩,  -- CHN_RB_PINMAP_HI
  ⟨0x4C, 1, 4, [rw 0 6 0x28]⟩]  -- CHN_RB_PIN_MAX

def pageCHN6 : List RegDesc := [
  ⟨0x20, 1, 4, [ro 0 32 0]⟩,  -- CHN_CNT_SECT
  ⟨0x24, 1, 4, [ro 0 32 0]⟩,  -- CHN_CNT_CONV
  ⟨0x28, 1, 4, [ro 24 8 0, ro 16 8 0, ro 8 8 0, ro 0 8 0]⟩,  -- CHN_CNT_FAIL
  ⟨0x2C, 1, 4, [ro 16 16 0, ro 0 16 0]⟩,  -- CHN_CNT_SYNC
  ⟨0x30, 1, 4, [ro 0 32 0]⟩,  -- CHN_CNT_CAND
  ⟨0x34, 1, 4, [ro 16 16 0, ro 0 16 0]⟩,  -- CHN_CNT_REPLAY
  ⟨0x38, 1, 4, [ow 0 1 0]⟩]  -- CHN_CNT_CLR

def pageCHN7 : List RegDesc := [
  ⟨0x100, 1, 4, [rw 31 1 0, rw 16 6 0, rw 0 15 0]⟩,  -- CHN_RB_DIAG_ADDR
  ⟨0x104, 1, 4, [ro 0 32 0]⟩,  -- CHN_RB_DIAG_DATA
  ⟨0x108, 1, 4, [rw 0 3 0]⟩]  -- CHN_TEST

def pageLAN0 : List RegDesc := [
  ⟨0x20, 1, 4, [rw 5 1 1, rw 4 1 0, rw 0 2 0]⟩,  -- LAN_CFG
  ⟨0x24, 1, 4, [rw 16 16 0x280, rw 0 16 0x80]⟩,  -- LAN_GATE
  ⟨0x28, 1, 4, [ro 28 4 0, ro 27 1 0, ro 26 1 0, ro 25 1 0, ro 24 1 0, ro 20 4 0, ro 10 6 0, ro 0 10 0]⟩,  -- LAN_STAT
  ⟨0x2C, 1, 4, [wc 12 12 0, wc 0 12 0]⟩,  -- LAN_WARN
  ⟨0x30, 1, 4, [wc 0 12 0]⟩,  -- LAN_WARN_D
  ⟨0x34, 1, 4, [rw 0 8 0x80]⟩,  -- LAN_DUTY
  ⟨0x38, 1, 4, [ro 28 4 0, ro 0 24 0]⟩,  -- LAN_CNT
  ⟨0x100, 1, 4, [rw 16 10 0x3ff, rw 0 10 0x366]⟩,  -- LAN_LIMIT
  ⟨0x104, 1, 4, [rw 0 10 0x40]⟩,  -- LAN_PMIN
  ⟨0x108, 1, 4, [rw 16 10 0xa0, rw 0 8 4]⟩]  -- LAN_BIAS

def pageLAN1 : List RegDesc := [
  ⟨0x100, 1, 4, [rw 20 12 0x3e8, rw 8 8 0x10, rw 0 8 0x20]⟩,  -- LAN_THERM
  ⟨0x104, 1, 4, [rw 20 12 0x640, rw 8 12 0x50, rw 4 4 4, rw 0 4 3]⟩,  -- LAN_ROR
  ⟨0x108, 1, 4, [rw 24 8 8, rw 0 16 0xc8]⟩,  -- LAN_HOLD
  ⟨0x140, 12, 4, [rw 24 8 0, ro 12 12 0, ro 0 12 0]⟩]  -- LAN_HEAD

def pageLAN2 : List RegDesc := [
  ⟨0x100, 1, 4, [rw 31 1 0, rw 0 10 0]⟩,  -- LAN_PTAB_ADDR
  ⟨0x104, 1, 4, [ow 0 10 0]⟩,  -- LAN_PTAB_DATA
  ⟨0x108, 1, 4, [rw 20 12 0x280, rw 8 12 0x380, rw 0 8 0x28]⟩,  -- LAN_LEARN
  ⟨0x10C, 1, 4, [ro 16 16 0, rw 0 16 0x100]⟩]  -- LAN_LEARN_N

def pageLAN3 : List RegDesc := [
  ⟨0x100, 12, 8, [rw 0 32 0]⟩,  -- LAN_ONTIME_LO
  ⟨0x104, 12, 8, [rw 0 16 0]⟩,  -- LAN_ONTIME_HI
  ⟨0x180, 1, 4, [rw 0 16 0xbb8]⟩,  -- LAN_RATED
  ⟨0x1C0, 12, 4, [rw 26 6 0, rw 16 10 0, rw 0 8 0x40]⟩]  -- LAN_DRIFT

def pageTWR0 : List RegDesc := [
  ⟨0x20, 1, 4, [rw 5 27 0]⟩,  -- TWR_ZTAB_BASE
  ⟨0x24, 1, 4, [rw 16 12 0x2c0, rw 0 12 0x3c]⟩,  -- TWR_VERIFY
  ⟨0x28, 1, 4, [ro 4 4 0, ro 1 1 0, ro 0 1 0]⟩,  -- TWR_STAT
  ⟨0x2C, 1, 4, [ro 0 32 0]⟩,  -- TWR_CNT_WR
  ⟨0x30, 1, 4, [ro 16 16 0, ro 0 16 0]⟩]  -- TWR_CNT_VFAIL

def pageTWR1 : List RegDesc := [
  ⟨0x100, 4, 4, [rw 0 32 0xaaaaaaaa]⟩,  -- TWR_VRDR
  ⟨0x140, 12, 4, [rw 16 16 0, rw 0 16 0]⟩]  -- TWR_VDLY

def pageTWR2 : List RegDesc := [
  ⟨0x100, 2, 4, [rw 24 6 0, rw 16 6 0, rw 8 6 0, rw 0 6 0]⟩]  -- TWR_PRECOMP

def pageCPL0 : List RegDesc := [
  ⟨0x20, 1, 4, [rw 0 4 3]⟩,  -- CPL_CFG
  ⟨0x24, 1, 4, [ro 16 16 0, ro 8 8 0, ro 4 4 0, ro 0 1 0]⟩,  -- CPL_STAT
  ⟨0x28, 1, 4, [ow 31 1 0, rw 30 1 0, ro 29 1 0, rw 0 8 0]⟩,  -- CPL_REG_CMD
  ⟨0x2C, 1, 4, [rw 0 16 0]⟩,  -- CPL_REG_DATA
  ⟨0x30, 1, 4, [ro 24 8 0, ro 16 8 0, ro 8 8 0, ro 0 8 0]⟩]  -- CPL_CNT

def pageSPR0 : List RegDesc := [
  ⟨0x20, 1, 4, [rw 0 4 0]⟩,  -- SPR_SEL
  ⟨0x24, 1, 4, [ow 2 1 0, ow 1 1 0, ow 0 1 0]⟩,  -- SPR_CMD
  ⟨0x28, 1, 4, [ro 30 2 0, ro 26 4 0, ro 21 5 0, ro 16 4 0, ro 0 12 0x40]⟩,  -- SPR_STATUS
  ⟨0x2C, 1, 4, [rw 0 12 0x40]⟩,  -- SPR_START
  ⟨0x30, 1, 4, [ro 28 4 0, ro 0 12 0]⟩,  -- SPR_MC
  ⟨0x34, 1, 4, [ro 0 25 0]⟩,  -- SPR_MC_WORD
  ⟨0x38, 1, 4, [ro 31 1 0, ro 16 8 0, ro 0 16 0]⟩,  -- SPR_MC_CMD
  ⟨0x3C, 1, 4, [ro 16 16 0, ro 0 16 0xffff]⟩,  -- SPR_MAP
  ⟨0x40, 1, 4, [rw 31 1 0, rw 30 1 1, rw 29 1 0, rw 0 12 0]⟩,  -- SPR_CS_ADDR
  ⟨0x44, 1, 4, [ow 0 25 0]⟩,  -- SPR_CS_DATA
  ⟨0x48, 1, 4, [rw 0 5 0]⟩,  -- SPR_DBG_SEL
  ⟨0x4C, 1, 4, [ro 0 32 0]⟩,  -- SPR_DBG_DATA
  ⟨0x100, 1, 4, [ow 0 1 0]⟩]  -- SPR_MC_FORCE

def pageSPR1 : List RegDesc := [
  ⟨0x20, 8, 4, [rw 0 32 0]⟩,  -- SPR_QCMD
  ⟨0x40, 1, 4, [ow 0 16 0]⟩,  -- SPR_QPUSH
  ⟨0x44, 1, 4, [ro 0 2 0]⟩,  -- SPR_QRES
  ⟨0x48, 1, 4, [wc 0 16 0]⟩,  -- SPR_COMP_PEND
  ⟨0x100, 8, 16, [rw 4 28 0]⟩,  -- SPR_CRING_BASE
  ⟨0x104, 8, 16, [rw 0 4 6]⟩,  -- SPR_CRING_CFG
  ⟨0x108, 8, 16, [ro 0 16 0]⟩,  -- SPR_CRING_PROD
  ⟨0x10C, 8, 16, [rw 0 16 0]⟩]  -- SPR_CRING_CONS

def pageFIX0 : List RegDesc := [
  ⟨0x20, 1, 4, [rw 12 20 0]⟩,  -- FIX_ACC_BASE_LO
  ⟨0x24, 1, 4, [rw 0 8 0x10]⟩,  -- FIX_ACC_BASE_HI
  ⟨0x28, 1, 4, [ro 0 4 0]⟩,  -- FIX_BUSY
  ⟨0x2C, 1, 4, [ro 0 32 0]⟩,  -- FIX_CNT_HASH
  ⟨0x30, 1, 4, [ro 0 32 0]⟩]  -- FIX_CNT_GF

def pageETH0 : List RegDesc := [
  ⟨0x20, 1, 4, [rw 7 1 1, rw 4 2 3, rw 0 3 0]⟩,  -- ETH_CFG
  ⟨0x24, 1, 4, [ro 6 2 0, ro 5 1 0, ro 4 1 0, ro 3 1 0, ro 2 1 0, ro 1 1 0, ro 0 1 0]⟩,  -- ETH_STAT
  ⟨0x28, 1, 4, [rw 0 32 0]⟩,  -- ETH_MAC_LO
  ⟨0x2C, 1, 4, [rw 0 16 0]⟩,  -- ETH_MAC_HI
  ⟨0x30, 1, 4, [rw 29 3 0, rw 28 1 0, rw 16 12 0, rw 0 14 0x5ee]⟩,  -- ETH_FRAME
  ⟨0x34, 1, 4, [rw 0 16 0x3e8]⟩]  -- ETH_ICMP

def pageETH1 : List RegDesc := [
  ⟨0x20, 4, 4, [rw 0 32 0]⟩,  -- ETH_IP4
  ⟨0x40, 32, 4, [rw 0 32 0]⟩,  -- ETH_IP6
  ⟨0x30, 1, 4, [rw 4 8 0, rw 0 4 0]⟩]  -- ETH_IP_VALID

def pageETH2 : List RegDesc := [
  ⟨0x20, 10, 4, [ro 0 32 0]⟩,  -- ETH_CNT
  ⟨0x48, 1, 4, [ow 0 1 0]⟩]  -- ETH_CNT_CLR

def pageETH3 : List RegDesc := [
  ⟨0x100, 1, 4, [rw 0 3 0]⟩]  -- ETH_TEST

def pageAOT0 : List RegDesc := [
  ⟨0x20, 1, 4, [rw 8 8 0x80, rw 4 1 0, rw 1 3 7]⟩,  -- AOT_CFG
  ⟨0x24, 1, 4, [rw 0 16 0x60f4]⟩,  -- AOT_UDP
  ⟨0x28, 1, 4, [ro 16 13 0, ro 0 9 0]⟩,  -- AOT_STAT
  ⟨0x2C, 1, 4, [rw 16 9 0x100, rw 0 9 0x80]⟩]  -- AOT_LIMITS

def pageAOT1 : List RegDesc := [
  ⟨0x20, 1, 4, [rw 16 16 0x14, rw 0 8 8]⟩,  -- AOT_ACK
  ⟨0x24, 1, 4, [rw 20 12 0x3e8, rw 0 20 0xc8]⟩,  -- AOT_RTO
  ⟨0x28, 1, 4, [rw 16 16 0x12c, rw 0 4 0xa]⟩,  -- AOT_RETRY
  ⟨0x2C, 1, 4, [rw 0 16 0x3e8]⟩,  -- AOT_HS
  ⟨0x30, 1, 4, [rw 0 5 0x1c]⟩,  -- AOT_REKEY
  ⟨0x34, 1, 4, [rw 16 11 0x400, rw 0 11 0x10]⟩]  -- AOT_CWND

def pageAOT2 : List RegDesc := [
  ⟨0x20, 1, 4, [rw 16 16 0x800, rw 8 8 0x10, rw 0 8 4]⟩]  -- AOT_HELLO

def pageAOT3 : List RegDesc := [
  ⟨0x20, 15, 4, [ro 0 32 0]⟩,  -- AOT_CNT
  ⟨0x60, 1, 4, [ow 0 1 0]⟩]  -- AOT_CNT_CLR

def pageAOT4 : List RegDesc := [
  ⟨0x20, 1, 4, [rw 0 12 0]⟩,  -- AOT_SESS_SEL
  ⟨0x24, 1, 4, [ro 30 2 0, ro 28 2 0, ro 0 20 0]⟩,  -- AOT_SESS_STAT
  ⟨0x28, 1, 4, [ro 0 32 0]⟩,  -- AOT_SESS_TX
  ⟨0x2C, 1, 4, [ro 0 32 0]⟩,  -- AOT_SESS_RX
  ⟨0x30, 1, 4, [ro 16 16 0, ro 0 16 0]⟩,  -- AOT_SESS_EPOCH
  ⟨0x34, 1, 4, [ro 0 32 0]⟩,  -- AOT_SESS_TAGS
  ⟨0x38, 1, 4, [ow 31 1 0, ow 30 1 0, ow 0 4 0]⟩]  -- AOT_SESS_CTL

def pageAOT5 : List RegDesc := [
  ⟨0x20, 1, 4, [rw 6 26 0]⟩,  -- AOT_FWRX_BASE
  ⟨0x24, 1, 4, [rw 0 4 4]⟩,  -- AOT_FWRX_CFG
  ⟨0x28, 1, 4, [ro 0 16 0]⟩,  -- AOT_FWRX_PROD
  ⟨0x2C, 1, 4, [rw 0 16 0]⟩,  -- AOT_FWRX_CONS
  ⟨0x30, 1, 4, [rw 6 26 0]⟩,  -- AOT_FWTX_BASE
  ⟨0x34, 1, 4, [rw 0 4 4]⟩,  -- AOT_FWTX_CFG
  ⟨0x38, 1, 4, [rw 0 16 0]⟩,  -- AOT_FWTX_PROD
  ⟨0x3C, 1, 4, [ro 0 16 0]⟩]  -- AOT_FWTX_CONS

def pageDOM0 : List RegDesc := [
  ⟨0x20, 1, 4, [ro 31 1 0, ro 8 8 0, ro 0 3 0]⟩,  -- DOM_MSTATE
  ⟨0x24, 1, 4, [ro 30 2 0, ro 0 14 0]⟩,  -- DOM_ST_RESULT
  ⟨0x28, 1, 4, [ro 0 32 0]⟩,  -- DOM_CLOCK_LO
  ⟨0x2C, 1, 4, [ro 0 32 0]⟩,  -- DOM_CLOCK_HI
  ⟨0x30, 1, 4, [ro 16 16 0, ro 0 16 0]⟩,  -- DOM_CLOCK_STAT
  ⟨0x34, 1, 4, [ow 1 1 0, ow 0 1 0]⟩]  -- DOM_CMD

def pageDOM1 : List RegDesc := [
  ⟨0x20, 1, 4, [ow 31 1 0, rw 29 2 0, rw 27 2 0, rw 12 14 0, rw 0 8 0]⟩,  -- DOM_KB_CMD
  ⟨0x24, 1, 4, [ro 31 1 0, ro 0 4 0]⟩]  -- DOM_KB_STAT

def pageDOM2 : List RegDesc := [
  ⟨0x20, 1, 4, [ro 31 1 0, ro 0 16 0]⟩,  -- DOM_TRNG_STAT
  ⟨0x100, 1, 4, [rw 31 1 0]⟩,  -- DOM_TRNG_CFG
  ⟨0x104, 1, 4, [ro 0 32 0]⟩]  -- DOM_TRNG_RAW

def pageDOM3 : List RegDesc := [
  ⟨0x20, 1, 4, [rw 1 1 0, rw 0 1 0]⟩,  -- DOM_DBG
  ⟨0x24, 1, 4, [ro 4 4 0, ro 0 4 0]⟩]  -- DOM_FUSE_KEYS

def pageMEM0 : List RegDesc := [
  ⟨0x20, 1, 4, [rw 31 1 0, rw 24 6 0, rw 12 1 0, rw 8 1 0, rw 4 1 0, rw 1 2 0, rw 0 1 0]⟩,  -- MEM_CFG
  ⟨0x24, 1, 4, [ro 28 4 0, ro 16 8 0, ro 4 1 0, ro 3 1 0, ro 2 1 0, ro 1 1 0, ro 0 1 0]⟩,  -- MEM_STAT
  ⟨0x28, 1, 4, [ow 1 1 0, ow 0 1 0]⟩,  -- MEM_CMD
  ⟨0x2C, 1, 4, [rw 31 1 0, rw 0 20 0x649]⟩,  -- MEM_SCRUB
  ⟨0x30, 1, 4, [ro 0 29 0]⟩,  -- MEM_SCRUB_POS
  ⟨0x34, 1, 4, [ro 0 16 0]⟩,  -- MEM_SCRUB_PASS
  ⟨0x38, 1, 4, [ro 0 32 0]⟩,  -- MEM_CNT_CE
  ⟨0x3C, 1, 4, [ro 0 32 0]⟩,  -- MEM_CNT_UE
  ⟨0x40, 1, 4, [ro 16 16 0, ro 0 16 0]⟩]  -- MEM_CNT_PAR

def pageMEM1 : List RegDesc := [
  ⟨0x20, 1, 4, [ro 8 8 0, ro 0 5 0]⟩,  -- MEM_LOG_STAT
  ⟨0x24, 1, 4, [ow 0 1 0]⟩,  -- MEM_LOG_POP
  ⟨0x30, 4, 4, [ro 0 32 0]⟩,  -- MEM_LOG
  ⟨0x80, 1, 4, [rw 0 6 0]⟩,  -- MEM_DEV_SEL
  ⟨0x84, 1, 4, [ro 0 16 0]⟩,  -- MEM_DEV_CNT
  ⟨0x88, 1, 4, [rw 0 16 0x100]⟩,  -- MEM_DEV_THR
  ⟨0x8C, 1, 4, [wc 0 32 0]⟩,  -- MEM_DEV_OVER_LO
  ⟨0x90, 1, 4, [wc 0 32 0]⟩]  -- MEM_DEV_OVER_HI

def pageMEM2 : List RegDesc := [
  ⟨0x100, 4, 4, [rw 0 32 0]⟩,  -- MEM_ECC_FLIP
  ⟨0x110, 1, 4, [ow 31 1 0, rw 16 3 0, rw 0 16 0]⟩,  -- MEM_ECC_FLIP_4
  ⟨0x120, 1, 4, [ro 28 4 0, ro 24 1 0, ro 16 8 0]⟩,  -- MEM_TRAIN_STAT
  ⟨0x124, 1, 4, [rw 0 2 0]⟩]  -- MEM_TEST

def pageMEM3 : List RegDesc := [
  ⟨0x20, 1, 4, [rw 0 4 0]⟩,  -- MEM_REP_SEL
  ⟨0x24, 1, 4, [ro 24 8 0, ro 12 12 0, ro 0 12 0]⟩,  -- MEM_REP_STAT
  ⟨0x28, 1, 4, [ro 31 1 0, ro 0 16 0]⟩]  -- MEM_REP_FUSE

def pageCUP0 : List RegDesc := [
  ⟨0x20, 1, 4, [rw 8 4 4, rw 2 1 1, rw 1 1 1, rw 0 1 1]⟩,  -- CUP_CFG
  ⟨0x24, 1, 4, [rw 0 16 0]⟩,  -- CUP_WAY_LOCK
  ⟨0x28, 1, 4, [ro 31 1 0, ow 9 1 0, ow 8 1 0, ow 0 4 0]⟩,  -- CUP_SPAD
  ⟨0x2C, 1, 4, [rw 1 1 0, rw 0 1 0]⟩,  -- CUP_STASH
  ⟨0x40, 8, 4, [rw 0 16 0xffff]⟩,  -- CUP_WMASK
  ⟨0x60, 2, 4, [rw 0 16 0]⟩,  -- CUP_WMASK
  ⟨0x70, 1, 4, [rw 6 26 0]⟩,  -- CUP_MAINT_ADDR_LO
  ⟨0x74, 1, 4, [rw 0 8 0]⟩,  -- CUP_MAINT_ADDR_HI
  ⟨0x78, 1, 4, [rw 0 32 0]⟩,  -- CUP_MAINT_LEN
  ⟨0x7C, 1, 4, [ow 31 1 0, ow 0 3 0]⟩,  -- CUP_MAINT_CMD
  ⟨0x80, 1, 4, [ro 31 1 0, ro 0 17 0]⟩,  -- CUP_MAINT_STAT
  ⟨0x84, 1, 4, [ro 0 17 0]⟩]  -- CUP_MAINT_LOCKED

def pageCUP1 : List RegDesc := [
  ⟨0x20, 7, 4, [ro 0 32 0]⟩,  -- CUP_CNT
  ⟨0x3C, 1, 4, [ow 0 1 0]⟩]  -- CUP_CNT_CLR

def pageDMA0 : List RegDesc := [
  ⟨0x20, 1, 4, [ro 16 9 0, ro 0 9 0]⟩,  -- DMA_BUF
  ⟨0x24, 1, 4, [ro 0 32 0]⟩,  -- DMA_PARK
  ⟨0x28, 1, 4, [ro 16 16 0, ro 0 1 0]⟩,  -- DMA_QSTAT
  ⟨0x2C, 1, 4, [ro 0 32 0]⟩]  -- DMA_CNT_BAD

def pageFLS0 : List RegDesc := [
  ⟨0x20, 1, 4, [ro 31 1 0, ro 30 1 0, ro 24 4 0, ro 20 4 0, ro 16 4 0, ro 0 8 0]⟩,  -- FLS_OPSTAT
  ⟨0x24, 1, 4, [rw 0 5 0x1f]⟩,  -- FLS_WAIT
  ⟨0x28, 1, 4, [ow 0 16 0xffff]⟩,  -- FLS_BOOT_WP
  ⟨0x2C, 1, 4, [ro 5 1 0, ro 4 1 0, ro 0 4 0]⟩,  -- FLS_PROT
  ⟨0x30, 4, 4, [ro 0 32 0]⟩,  -- FLS_PPB
  ⟨0x40, 1, 4, [rw 0 8 0]⟩,  -- FLS_SECT_SEL
  ⟨0x44, 1, 4, [ro 31 1 0, ro 30 1 0, ro 29 1 0, ro 0 24 0]⟩,  -- FLS_SECT_INFO
  ⟨0x48, 5, 4, [ro 0 32 0]⟩,  -- FLS_INC_MAP
  ⟨0x5C, 5, 4, [ro 0 32 0]⟩,  -- FLS_WORN_MAP
  ⟨0x70, 1, 4, [ro 24 8 0, ro 0 12 0]⟩,  -- FLS_LAST_ERASE_PULSES
  ⟨0x74, 1, 4, [ro 0 8 0]⟩,  -- FLS_LAST_PROG_RETRY
  ⟨0x78, 1, 4, [ro 16 16 0, ro 0 16 0]⟩,  -- FLS_CNT_ECC
  ⟨0x7C, 1, 4, [ro 16 16 0, ro 8 8 0, ro 0 8 0]⟩,  -- FLS_CNT_MISC
  ⟨0x80, 1, 4, [ow 0 1 0]⟩,  -- FLS_CNT_CLR
  ⟨0x84, 1, 4, [rw 31 1 0, rw 0 16 0x10]⟩,  -- FLS_MSCRUB
  ⟨0x88, 1, 4, [ro 0 20 0]⟩,  -- FLS_MSCRUB_POS
  ⟨0x8C, 1, 4, [ro 16 16 0, ro 0 16 0]⟩,  -- FLS_MSCRUB_FAIL
  ⟨0x90, 1, 4, [ro 0 24 0]⟩]  -- FLS_MSCRUB_ADDR

def pageFLS1 : List RegDesc := [
  ⟨0x100, 1, 4, [rw 24 4 0xf, rw 0 12 0x200]⟩]  -- FLS_ERASE_LIM

def pagePWR0 : List RegDesc := [
  ⟨0x20, 1, 4, [ro 8 1 0, ro 0 6 0]⟩,  -- PWR_RAIL_STAT
  ⟨0x24, 1, 4, [rw 0 3 0]⟩,  -- PWR_PSTATE
  ⟨0x28, 1, 4, [ow 31 1 0, ro 0 31 0]⟩,  -- PWR_ACT
  ⟨0x30, 5, 4, [rw 0 32 0]⟩]  -- PWR_IDLE

def pagePWR1 : List RegDesc := [
  ⟨0x20, 1, 4, [ow 31 1 0, rw 16 1 0, rw 0 16 0]⟩,  -- PWR_DOM_REQ
  ⟨0x24, 1, 4, [ro 31 1 0, ro 0 16 0x7ff]⟩,  -- PWR_DOM_STAT
  ⟨0x28, 1, 4, [ro 16 4 0, ro 0 4 0]⟩,  -- PWR_DOM_RESULT
  ⟨0x2C, 1, 4, [rw 0 13 0]⟩]  -- PWR_HART_PARK

def pagePWR2 : List RegDesc := [
  ⟨0x20, 1, 4, [rw 25 7 0x40, rw 16 5 0x14, rw 0 16 0x64]⟩,  -- PWR_AVS_CFG
  ⟨0x24, 1, 4, [ow 31 1 0, rw 0 10 0x320]⟩,  -- PWR_AVS_REQ
  ⟨0x28, 1, 4, [ro 28 4 0, ro 16 10 0, ro 0 10 0x320]⟩]  -- PWR_AVS_STAT

def pagePWR3 : List RegDesc := [
  ⟨0x20, 1, 4, [rw 31 1 1, rw 16 8 2, rw 0 16 0x56c]⟩,  -- PWR_HOLDUP
  ⟨0x24, 1, 4, [rw 0 16 0x50]⟩,  -- PWR_HOLDUP_T
  ⟨0x28, 1, 4, [ro 30 2 0, ro 0 16 0]⟩,  -- PWR_HOLDUP_STAT
  ⟨0x2C, 1, 4, [ro 31 1 0, ro 30 1 0]⟩]  -- PWR_TRIP

def pageCLK0 : List RegDesc := [
  ⟨0x20, 1, 4, [ro 31 1 0, ow 0 8 0x80]⟩,  -- CLK_CPU
  ⟨0x24, 1, 4, [ro 8 8 0x80, ro 0 7 0]⟩]  -- CLK_STAT

def pageBEL0 : List RegDesc := [
  ⟨0x20, 1, 4, [ro 16 6 0, ro 0 16 0]⟩,  -- BEL_ROUND
  ⟨0x24, 1, 4, [ro 31 1 0, ro 28 3 0, ro 0 6 0]⟩,  -- BEL_STATUS
  ⟨0x28, 1, 4, [ow 0 1 0]⟩,  -- BEL_CMD
  ⟨0x2C, 1, 4, [rw 24 8 0x40, rw 8 4 2, rw 0 5 0xa]⟩,  -- BEL_THROT
  ⟨0x30, 1, 4, [rw 31 1 1, rw 16 8 0x46, rw 0 16 0x160]⟩]  -- BEL_SHUT

def pageBEL1 : List RegDesc := [
  ⟨0x100, 12, 16, [rw 16 16 0x780, rw 0 16 0xfd80]⟩,  -- BEL_CH_LIM
  ⟨0x1C0, 9, 16, [rw 16 16 0x7fff, rw 0 16 0x8000]⟩,  -- BEL_CH_LIM
  ⟨0x250, 1, 16, [rw 16 16 0x39c, rw 0 16 0x2ac]⟩,  -- BEL_CH_LIM
  ⟨0x260, 1, 16, [rw 16 16 0x3b1, rw 0 16 0x357]⟩,  -- BEL_CH_LIM
  ⟨0x270, 1, 16, [rw 16 16 0x762, rw 0 16 0x6ae]⟩,  -- BEL_CH_LIM
  ⟨0x280, 1, 16, [rw 16 16 0x762, rw 0 16 0x6ae]⟩,  -- BEL_CH_LIM
  ⟨0x290, 1, 16, [rw 16 16 0xa41, rw 0 16 0x947]⟩,  -- BEL_CH_LIM
  ⟨0x2A0, 1, 16, [rw 16 16 0x4ec, rw 0 16 0x474]⟩,  -- BEL_CH_LIM
  ⟨0x2B0, 37, 16, [rw 16 16 0x7fff, rw 0 16 0x8000]⟩,  -- BEL_CH_LIM
  ⟨0x104, 12, 16, [rw 16 16 0x870, rw 0 16 0x960]⟩,  -- BEL_CH_ACT
  ⟨0x1C4, 52, 16, [rw 16 16 0x7fff, rw 0 16 0x7fff]⟩,  -- BEL_CH_ACT
  ⟨0x108, 12, 16, [rw 31 1 1, rw 28 3 4, rw 24 3 7, rw 16 8 0x20, rw 0 16 0xa0]⟩,  -- BEL_CH_CFG
  ⟨0x1C8, 9, 16, [rw 31 1 0, rw 28 3 0, rw 24 3 0, rw 16 8 0x20, rw 0 16 0x7fff]⟩,  -- BEL_CH_CFG
  ⟨0x258, 6, 16, [rw 31 1 1, rw 28 3 0, rw 24 3 0, rw 16 8 0x20, rw 0 16 0x7fff]⟩,  -- BEL_CH_CFG
  ⟨0x2B8, 37, 16, [rw 31 1 0, rw 28 3 0, rw 24 3 0, rw 16 8 0x20, rw 0 16 0x7fff]⟩,  -- BEL_CH_CFG
  ⟨0x10C, 64, 16, [ro 16 16 0, ro 0 16 0]⟩]  -- BEL_CH_VAL

def pageBEL2 : List RegDesc := [
  ⟨0x100, 12, 4, [rw 16 16 0x8ca0, rw 0 16 0x9c40]⟩,  -- BEL_RO_CAL
  ⟨0x140, 1, 4, [rw 16 16 0x8000, rw 0 16 0]⟩]  -- BEL_ADC_CAL

def pageBEL3 : List RegDesc := [
  ⟨0x100, 1, 16, [rw 16 16 100, rw 0 16 10]⟩,  -- BEL_IN_FILT
  ⟨0x110, 1, 16, [rw 16 16 200, rw 0 16 100]⟩,  -- BEL_IN_FILT
  ⟨0x120, 1, 16, [rw 16 16 500, rw 0 16 100]⟩,  -- BEL_IN_FILT
  ⟨0x130, 1, 16, [rw 16 16 1000, rw 0 16 100]⟩,  -- BEL_IN_FILT
  ⟨0x104, 1, 16, [rw 8 24 80000, rw 0 8 4]⟩,  -- BEL_IN_RATE
  ⟨0x114, 1, 16, [rw 8 24 1000, rw 0 8 4]⟩,  -- BEL_IN_RATE
  ⟨0x124, 1, 16, [rw 8 24 1000, rw 0 8 8]⟩,  -- BEL_IN_RATE
  ⟨0x134, 1, 16, [rw 8 24 100, rw 0 8 2]⟩,  -- BEL_IN_RATE
  ⟨0x108, 1, 16, [rw 0 16 1]⟩,  -- BEL_IN_STUCK
  ⟨0x118, 1, 16, [rw 0 16 100]⟩,  -- BEL_IN_STUCK
  ⟨0x128, 1, 16, [rw 0 16 500]⟩,  -- BEL_IN_STUCK
  ⟨0x10C, 4, 16, [ro 31 1 0, ro 30 1 0, ro 29 1 0, ro 28 1 1, ro 0 16 0]⟩]  -- BEL_IN_STAT

def pageEVR0 : List RegDesc := [
  ⟨0x20, 1, 4, [rw 0 3 4]⟩,  -- EVR_CFG
  ⟨0x24, 1, 4, [rw 18 6 0x3f]⟩,  -- EVR_BASE
  ⟨0x28, 1, 4, [rw 0 16 0]⟩,  -- EVR_BOOT
  ⟨0x2C, 1, 4, [rw 0 32 0]⟩,  -- EVR_SEQ
  ⟨0x30, 1, 4, [ow 6 26 0]⟩,  -- EVR_POST
  ⟨0x34, 1, 4, [ro 16 16 0, ro 0 5 0]⟩,  -- EVR_POST_STAT
  ⟨0x38, 1, 4, [ro 16 9 0, ro 0 12 0]⟩,  -- EVR_OCC
  ⟨0x40, 4, 4, [ro 16 16 0, ro 0 16 0]⟩,  -- EVR_DROP
  ⟨0x50, 1, 4, [rw 12 20 0]⟩,  -- EVR_PRING_BASE
  ⟨0x54, 1, 4, [ro 0 16 0]⟩,  -- EVR_PRING_PROD
  ⟨0x58, 1, 4, [rw 0 16 0]⟩,  -- EVR_PRING_CONS
  ⟨0x5C, 1, 4, [ow 2 1 0, ow 1 1 0, ow 0 1 0]⟩]  -- EVR_CMD

def pageEVR1 : List RegDesc := [
  ⟨0x20, 1, 4, [rw 0 8 0]⟩,  -- EVR_RL_SEL
  ⟨0x24, 1, 4, [ow 16 16 0, ow 8 8 4, ow 0 1 0]⟩,  -- EVR_RL_CFG
  ⟨0x28, 1, 4, [ow 0 16 0xa]⟩,  -- EVR_RL_RATE
  ⟨0x2C, 1, 4, [ro 16 16 0, ro 8 3 0, ro 0 8 0]⟩]  -- EVR_RL_STAT

def pageSYS0 : List RegDesc := [
  ⟨0x20, 1, 4, [wc 0 8 0]⟩,  -- SYS_RST_CAUSE
  ⟨0x24, 1, 4, [ro 31 1 0, ow 1 1 0, ow 0 1 0]⟩,  -- SYS_RST_REQ
  ⟨0x28, 1, 4, [rw 0 16 0x9c4]⟩,  -- SYS_RST_DEFER
  ⟨0x2C, 1, 4, [rp 24 8 0, rp 23 1 0, rp 16 2 0]⟩]  -- SYS_BOOT_STAT

def pageSYS1 : List RegDesc := [
  ⟨0x20, 1, 4, [ow 0 12 0]⟩,  -- SYS_HART_RUN
  ⟨0x40, 12, 8, [rw 2 30 0xc000000]⟩,  -- SYS_HART_RVEC_LO
  ⟨0x44, 12, 8, [rw 0 8 0]⟩]  -- SYS_HART_RVEC_HI

def pageSYS2 : List RegDesc := [
  ⟨0x20, 1, 4, [rw 31 1 0, rw 30 1 0, rw 0 16 0x7d0]⟩,  -- SYS_WDT_CFG
  ⟨0x24, 1, 4, [ow 0 32 0]⟩,  -- SYS_WDT_KICK
  ⟨0x28, 1, 4, [ro 31 1 0, ro 0 16 0]⟩]  -- SYS_WDT_STAT

def pageSYS3 : List RegDesc := [
  ⟨0x20, 2, 4, [ro 0 32 0]⟩,  -- SYS_DIE_ID
  ⟨0x28, 1, 4, [ro 31 1 0, ro 0 5 0]⟩,  -- SYS_FUSE_STAT
  ⟨0x2C, 1, 4, [ro 0 32 0x14820753]⟩]  -- SYS_JTAG_ID

def pageSYS4 : List RegDesc := [
  ⟨0x20, 1, 4, [rw 0 9 0]⟩,  -- SYS_BIST_SEL
  ⟨0x24, 1, 4, [ow 31 1 0, rw 0 2 0]⟩,  -- SYS_BIST_CMD
  ⟨0x28, 1, 4, [ro 0 9 0]⟩,  -- SYS_BIST_RES
  ⟨0x2C, 1, 4, [ro 0 9 0]⟩]  -- SYS_BIST_POR

def pageCPL1 : List RegDesc := [
  ⟨0x100, 1, 4, [rw 0 2 0]⟩]  -- CPL_TEST

def pageBTP0 : List RegDesc := [
  ⟨0x20, 1, 4, [rw 16 4 1, rw 0 8 0]⟩,  -- BTP_CFG
  ⟨0x24, 1, 4, [ro 16 16 0, ro 0 13 0]⟩]  -- BTP_STAT

def pageDMAch : List RegDesc := [
  ⟨0x20, 4, 56, [rw 31 1 0, rw 28 2 3, rw 24 4 4, rw 20 1 0, rw 16 4 0]⟩,  -- DMA_CH_CFG
  ⟨0x24, 4, 56, [ow 0 1 0]⟩,  -- DMA_CH_CTL
  ⟨0x28, 4, 56, [ro 29 3 0, wc 25 1 0, ro 24 1 0, ro 20 4 0, ro 15 5 0]⟩,  -- DMA_CH_STAT
  ⟨0x2C, 4, 56, [rw 5 27 0]⟩,  -- DMA_CH_DESC_LO
  ⟨0x30, 4, 56, [rw 0 8 0]⟩,  -- DMA_CH_DESC_HI
  ⟨0x34, 4, 56, [ro 0 32 0]⟩,  -- DMA_CH_SRC
  ⟨0x38, 4, 56, [ro 0 32 0]⟩,  -- DMA_CH_DST
  ⟨0x3C, 4, 56, [ro 8 8 0, ro 0 8 0]⟩,  -- DMA_CH_ADDR_HI
  ⟨0x40, 4, 56, [ro 0 25 0]⟩,  -- DMA_CH_REMAIN
  ⟨0x44, 4, 56, [wc 3 1 0, wc 2 1 0, wc 1 1 0, wc 0 1 0]⟩,  -- DMA_CH_IRQ
  ⟨0x48, 4, 56, [rw 3 1 0, rw 2 1 0, rw 1 1 0, rw 0 1 0]⟩,  -- DMA_CH_IRQ_EN
  ⟨0x4C, 4, 56, [ow 0 1 0]⟩,  -- DMA_CH_DB
  ⟨0x50, 4, 56, [ro 16 16 0, ro 0 16 0]⟩]  -- DMA_CH_CNT

/-- The register tables of page `p` of block code `b` (basic and expert registers; the page header is separate). -/
def regTable (b p : Nat) : List RegDesc :=
  if b = 0x01 then (if p = 5 then pageSYS5 else if p = 0 then pageSYS0 else if p = 1 then pageSYS1 else if p = 2 then pageSYS2 else if p = 3 then pageSYS3 else if p = 4 then pageSYS4 else [])
  else if b = 0x0D then (if p = 0 then pageATB0 else if p = 1 then pageATB1 else [])
  else if b = 0x0E then (if p = 0 then pageSPN0 else if p = 1 then pageSPN1 else if p = 2 then pageSPN2 else if p = 3 then pageSPN3 else [])
  else if b = 0x0F then (if p = 2 then pageSRV2 else if p = 3 then pageSRV3 else if p = 0 then pageSRV0 else if p = 1 then pageSRV1 else [])
  else if b = 0x10 then (if p = 0 then pageCHN0 else if p = 1 then pageCHN1 else if p = 2 then pageCHN2 else if p = 3 then pageCHN3 else if p = 4 then pageCHN4 else if p = 5 then pageCHN5 else if p = 6 then pageCHN6 else if p = 7 then pageCHN7 else [])
  else if b = 0x11 then (if p = 0 then pageLAN0 else if p = 1 then pageLAN1 else if p = 2 then pageLAN2 else if p = 3 then pageLAN3 else [])
  else if b = 0x15 then (if p = 0 then pageTWR0 else if p = 1 then pageTWR1 else if p = 2 then pageTWR2 else [])
  else if b = 0x12 then (if p = 0 then pageCPL0 else if p = 1 then pageCPL1 else [])
  else if b = 0x13 then (if p = 0 then pageSPR0 else if p = 1 then pageSPR1 else [])
  else if b = 0x14 then (if p = 0 then pageFIX0 else [])
  else if b = 0x0A then (if p = 0 then pageETH0 else if p = 1 then pageETH1 else if p = 2 then pageETH2 else if p = 3 then pageETH3 else [])
  else if b = 0x0B then (if p = 0 then pageAOT0 else if p = 1 then pageAOT1 else if p = 2 then pageAOT2 else if p = 3 then pageAOT3 else if p = 4 then pageAOT4 else if p = 5 then pageAOT5 else [])
  else if b = 0x0C then (if p = 0 then pageDOM0 else if p = 1 then pageDOM1 else if p = 2 then pageDOM2 else if p = 3 then pageDOM3 else [])
  else if b = 0x08 then (if p = 0 then pageMEM0 else if p = 1 then pageMEM1 else if p = 2 then pageMEM2 else if p = 3 then pageMEM3 else [])
  else if b = 0x07 then (if p = 0 then pageCUP0 else if p = 1 then pageCUP1 else [])
  else if b = 0x09 then (if p = 0 then pageDMA0 else if 1 ≤ p then pageDMAch else [])
  else if b = 0x06 then (if p = 0 then pageFLS0 else if p = 1 then pageFLS1 else [])
  else if b = 0x02 then (if p = 0 then pagePWR0 else if p = 1 then pagePWR1 else if p = 2 then pagePWR2 else if p = 3 then pagePWR3 else [])
  else if b = 0x03 then (if p = 0 then pageCLK0 else [])
  else if b = 0x04 then (if p = 0 then pageBEL0 else if p = 1 then pageBEL1 else if p = 2 then pageBEL2 else if p = 3 then pageBEL3 else [])
  else if b = 0x05 then (if p = 0 then pageEVR0 else if p = 1 then pageEVR1 else [])
  else if b = 0x16 then (if p = 0 then pageBTP0 else [])
  else []

end Sys2Proof.Machine
end

