-- ==== Sys2Proof/Machine/State.lean ====
section
/-! DEFINITION. The state of the block: the register file, memory, and what each unit holds that no register shows; the queue of
waiting commands. All of it is plain data. -/

namespace Sys2Proof.Machine

/-- The faults of a step. No rule of the manual leaves the device without an effect: no command and no step raises `stuck`, which stands
only because the interface asks for a type of faults (safe: nothing stops). -/
inductive Fault
  | stuck
  deriving DecidableEq, Repr

/-- The refusals of a step. `notModelled` is raised by an arm of exec that has no meaning yet (safe: the model stops). -/
inductive Refusal
  | notModelled (mnemonic : String)
  deriving DecidableEq, Repr

/-! ## Framework ("Architecture and address map") -/

/-- What the framework holds beside the registers. Blocks and pages are named by the base address of their page. -/
structure FwkState where
  /-- Pages whose expert registers accept writes (R7, R8). -/
  unlocked : List Nat := []
  /-- Blocks whose shut-down runs as a fault stop (Table 01-5). -/
  faultStop : List Nat := []
  /-- Blocks whose soft reset waits for the shut-down (R35, R36). -/
  softWait : List Nat := []
  /-- Blocks in the one restart cycle of R30. -/
  restart : List Nat := []
  /-- Blocks whose start waits for a BIST run (R550). -/
  bistWait : List Nat := []
  /-- 1.0 GHz fabric cycles since the last reset that reached the core domain. -/
  cycle : Nat := 0
  /-- ACLINT mtime (R24). -/
  mtime : Nat := 0
  /-- Cycles of the 25 MHz reference since the last power-on reset: the time base of the AON domain. -/
  aon : Nat := 0
  /-- A hold-up is in progress (R506): no completion is sealed (R366). -/
  holdup : Bool := false
  /-- High words latched by a read of the low word (LAN_ONTIME, DOM_CLOCK), by the address of the high word. -/
  latch : List (Nat × Word) := []
  /-- PLIC sources claimed and not completed. -/
  claimed : List Nat := []
  deriving DecidableEq, Repr

/-! ## Angle time base -/

/-- What the angle time base holds for one Tower. -/
structure AtbTower where
  /-- The skew in force, in 2^-24 ac (R46). -/
  skewNow : Int := 0
  /-- Consecutive bad wedges (R48). -/
  bad : Nat := 0
  /-- The index of the previous good wedge, and of the previous wedge whose SAM was found and whose index parity checked: the reference
  wedge of R47 while the Tower is locked, and while it is not. -/
  refIdx : Option Nat := none
  foundIdx : Option Nat := none
  /-- The error of the latest good wedge, in ac (R578). -/
  err : Int := 0
  /-- The last wedge was good. -/
  lastGood : Bool := false
  /-- The servo window is open (R577). -/
  winOpen : Bool := false
  /-- The window stays open until the next SAM (R577). -/
  winHeld : Bool := false
  /-- A SAM was found in the present window; the local angle of the last SAM's edge; the local angle at which the present window
  opened (R577). -/
  samSeen : Bool := false
  samAt : BitVec 24 := 0
  openAt : Nat := 0
  /-- The rate that the Tower's servo indicates at its last good wedge, in 2^-24 ac per cycle (R51). -/
  rate : Nat := 0
  /-- What the local angle advanced by in the last fabric cycle, in 2^-24 ac; 0 when it jumped or stood (R55, R575). -/
  adv : Nat := 0
  /-- Comparator actions 2, 4, 6 and 8 performed in the present fabric cycle (R62). -/
  closedNow : List Nat := []
  /-- Consecutive wedges over the cross-check limit (R56). -/
  xchk : Nat := 0
  /-- The coming wedge is the switch wedge of a head switch (R137). -/
  switchWedge : Bool := false
  /-- The wedge after a switch wedge: its index is two greater (R47). -/
  gap : Bool := false
  /-- ATB_SWIN in force (R233): a write takes effect at the next wedge boundary. -/
  swin : Nat := 0x08000200
  deriving DecidableEq, Repr

/-- The angle time base. SRC, the locks, WG_INHIBIT, EPOCH and the comparators stand in their registers. -/
structure AtbState where
  /-- The ATB angle: [55:24] the visible 32 bits, [23:0] the fraction of R44. -/
  angle : BitVec 56 := 0
  /-- The measured rate without slew, in 2^-24 ac per cycle (R51). -/
  rate : Nat := 0
  /-- The residual still to be slewed, in 2^-24 ac (R51). -/
  residual : Int := 0
  /-- Good wedges of the source since the discontinuity (R54). -/
  inhCount : Nat := 0
  /-- A discontinuity happened in the present fabric cycle (R62); and the Tower that took the source by a lock gain in it, with the
  error corrected for it (R49). -/
  discNow : Bool := false
  tookNow : Option (Tower × Int) := none
  tw : Two AtbTower := ⟨{}, {}⟩
  deriving DecidableEq, Repr

/-! ## Spindle drive -/

/-- The spindle beside its registers. MODE, the flags, the gates and the counts stand in their registers. -/
structure SpnState where
  /-- The torque comparator state of R68. -/
  tau : Int := 0
  /-- The flux comparator state of R68. -/
  phi : Int := 1
  /-- The vector in force, 0 to 7 (Table 03-3). -/
  vec : Nat := 0
  /-- The next decision is the first of a closed-loop mode (R68). -/
  first : Bool := true
  /-- ns offsets from the present decision of the switching edges (R74); those of the last period are negative. -/
  edges : List Int := []
  /-- Conversion 19 of the period was skipped (R76). -/
  skip19 : Bool := false
  /-- An overcurrent cut happened in this period (R75). -/
  ocCut : Bool := false
  /-- Consecutive periods that ended in a cut. -/
  ocRun : Nat := 0
  /-- Consecutive residuals above the limit (R76). -/
  residBad : Nat := 0
  /-- Evaluated residuals within bounds since the last one that was not, or since a loss (R77). -/
  residOk : Nat := 0
  /-- Intervals in ns of the crossings of the present run, newest first (R79, R90). -/
  crossings : List Nat := []
  /-- The present run of crossings is in the forward sequence. -/
  crossFwd : Bool := true
  /-- The observer's mechanical angle at the last crossing, recapture or measurement, in ac. -/
  obsAngle : BitVec 24 := 0
  /-- The observer has held the rotor since the start (R87). -/
  held : Bool := false
  /-- Consecutive electrical revolutions in band (R82). -/
  bandRun : Nat := 0
  /-- An electrical revolution with OBS_OK has ended in CATCH (Table 03-6). -/
  catchRev : Bool := false
  /-- The under-speed condition (R84). -/
  underspeed : Bool := false
  /-- The emergency-park request as a level (R84). -/
  parkReq : Bool := false
  /-- The speed reference in 1/200,000 rpm: SPN_ACCEL moves it by whole units at each decision. -/
  refSpeed : Nat := 0
  /-- Consecutive SYNC_IN pulses in the lock window, and out of the loss window (R86). -/
  syncRun : Nat := 0
  syncOut : Nat := 0
  /-- The SYNC_IN-derived speed, 0.001 rpm. -/
  syncSpeed : Nat := 0
  /-- A shut-down has begun and takes effect at the next decision (R579). -/
  shutPend : Bool := false
  /-- The stop is a hold-up stop (R94). -/
  holdup : Bool := false
  /-- Decisions in DECEL with SPN_VBUS above VBUS_MAX (Table 03-6). -/
  vbusOver : Nat := 0
  /-- A marker measurement is running (R87). -/
  measuring : Bool := false
  /-- DIR in force: taken from SPN_CFG at each LISTEN (R93). -/
  dir : Bool := false
  /-- An aligned start is under way, so the result becomes ALIGNED; otherwise CAUGHT. The start braked a reverse rotation (Table 03-7). -/
  aligned : Bool := false
  revBraked : Bool := false
  /-- The condition that the next decision takes as its exit (R89): 0 none, 1 listen ended, 2 reverse brake ended, 3 sector found, 4 third
  ambiguous attempt, 5 align elapsed, 6 RAMP_TIMEOUT elapsed, 7 recaptured, 8 recapture failed, 9 brake stop done. -/
  exit : Nat := 0
  /-- The pole index of the present electrical revolution, once the observer has held the rotor (R87). -/
  pole : Option Nat := none
  /-- The marker measurement: ns summed over the electrical revolutions of each pole index, and electrical revolutions measured (R87). -/
  sums : List Nat := []
  revs : Nat := 0
  /-- OBS_OK has been 1 since the last wrap (Table 03-6, CATCH). -/
  obsWrap : Bool := false
  /-- The forced vector of RAMP: its electrical angle in 1 / 2.4 x 10^12 revolution and its speed in 1/200,000 rpm. -/
  rampAngle : Nat := 0
  rampSpeed : Nat := 0
  /-- Decisions of the present position-sensing attempt (R91). -/
  ipsCount : Nat := 0
  /-- The largest phase current at the last conversion 19 (R73). -/
  i19 : Nat := 0
  /-- SYNC_OUT pulses emitted (R86). -/
  syncOutN : Nat := 0
  deriving DecidableEq, Repr

/-! ## Control engines -/

/-- A block-floating-point vector (R99): mantissas and one exponent. -/
structure BVec where
  m : List Int := []
  e : Int := -128
  deriving DecidableEq, Repr

/-- The vectors of a slot's last evaluation. The state x̂ stands in the coefficient memory. -/
structure EngSlot where
  y : BVec := {}
  s : BVec := {}
  w : BVec := {}
  nu : BVec := {}
  u : BVec := {}
  usat : BVec := {}
  /-- The port integers of R108. -/
  ports : List Int := [0, 0, 0, 0]
  deriving DecidableEq, Repr

/-- Ticks that reach an engine in one engine cycle (R104): the number of each stream that ticked. -/
structure TickInst where
  t0 : Option Nat := none
  t1 : Option Nat := none
  /-- A swap was pending when the instant started (R119). -/
  swap : Bool := false
  /-- Slots enabled since the instant started, which first evaluate at a later tick (R121). -/
  barred : List Nat := []
  deriving DecidableEq, Repr

/-- The profile generator of an SRV engine (R113); all values carry 16 fraction bits. -/
structure Profile where
  p : Int := 0
  v : Int := 0
  a : Int := 0
  target : Int := 0
  deriving DecidableEq, Repr

/-- A control engine beside its registers. -/
structure EngState where
  slots : List EngSlot := [{}, {}, {}, {}]
  /-- The coefficient memory: words that are not 0, by address (R117). -/
  coef : List (Nat × Nat) := []
  /-- Addresses of coefficient words with a parity error (R122). -/
  badPar : List Nat := []
  /-- The ports of Table 05-5 code 1 and 2 (VCM_DAC or TORQUE_REF; MA_DAC or TORQUE_HOLDUP). -/
  port1 : Int := 0
  port2 : Int := 0
  /-- Ticks emitted towards the engine, not yet one tick instant. -/
  arrived : TickInst := {}
  /-- Tick numbers of T_EREV and T_DEC emitted (R98). -/
  count0 : Nat := 0
  count1 : Nat := 0
  /-- The tick instant being evaluated, its slots not yet evaluated, and the instants waiting (R106). -/
  now : TickInst := {}
  due : List Nat := []
  waiting : List TickInst := []
  /-- Engine cycles used at the present tick instant. -/
  used : Nat := 0
  /-- The vector received from the other engine, and the ticks of each stream since it came (R115, R116). -/
  recv : BVec := {}
  recvAge0 : Nat := 256
  recvAge1 : Nat := 256
  prof : Profile := {}
  /-- Trace entries that are not 0, by channel × 4096 + index (R125). -/
  trace : List (Nat × Nat) := []
  /-- An engine fault is held (R97, R124). -/
  held : Bool := false
  /-- Samples of the capture, evaluations since the last sample, FORCE pending, POST samples left. -/
  trcCount : Nat := 0
  trcDecim : Nat := 0
  trcForce : Bool := false
  trcLeft : Nat := 0
  /-- Trigger conditions that have occurred since the last sample: overrun, fault, discontinuity or rotor loss, swap. -/
  trcEvents : List Nat := []
  deriving DecidableEq, Repr

/-! ## Actuators -/

/-- The three generators of R141. -/
inductive GenKind
  | load
  | unload
  | retract
  deriving DecidableEq, Repr

/-- A running generator. -/
structure GenRun where
  kind : GenKind
  hold : Bool := false
  cmd : Int := 0
  deriving DecidableEq, Repr

/-- One actuator beside its registers. Positions are in 2^-32 track. -/
structure SrvState where
  gen : Option GenRun := none
  /-- The DAC pins of Table 05-3. -/
  vcmPin : Int := 0
  maPin : Int := 0
  /-- After LOADING the pin holds the generator's last value until a stage-4 delivery (Table 05-2). -/
  pinHeld : Bool := false
  /-- The last two delivered positions, newest first, and how many position-valid wedges the prediction has (R131). -/
  p1 : Int := 0
  p2 : Int := 0
  predN : Nat := 0
  delivered : Bool := false
  /-- Runs of LOADING, SETTLE, the OTWI clear and the misses of R133. -/
  loadRun : Nat := 0
  settleRun : Nat := 0
  otwRun : Nat := 0
  missRun : Nat := 0
  pesPrev : Int := 0
  /-- A wedge's demodulator result is not available yet (R135). -/
  demodPending : Bool := false
  /-- The wedge being demodulated is a switch wedge. -/
  demodSwitch : Bool := false
  /-- Wedges since the last head switch, for R131. -/
  sinceSwitch : Nat := 3
  /-- The head in force and the linearisation table in force (R136). -/
  head : Nat := 0
  lin : List Int := []
  /-- Wedge boundaries left of the shock hold (R147, R148). -/
  shockLeft : Nat := 0
  /-- Codes of Table 05-4 of the emergency sources active as levels. -/
  emrg : List Nat := []
  /-- The present wedge's boundary has passed and its demodulator result is still to come (R135). -/
  lateWin : Bool := false
  /-- In the present fabric cycle: a LOAD was accepted, an emergency source arrived in UNLOADED (its code), SRV_HEAD was written (R152). -/
  loadNow : Bool := false
  emrgNow : Option Nat := none
  headNow : Bool := false
  deriving DecidableEq, Repr

/-! ## Read channel -/

/-- A sync candidate (R209, R210): its number, offset, Hamming distance and unsatisfied checks. -/
structure Cand where
  idx : Nat := 0
  off : Int := 0
  hd : Nat := 0
  synw : Nat := 0
  deriving DecidableEq, Repr

/-- A piece of a captured sector (R195): wedge index, first window bit, samples. -/
structure Piece where
  wedge : Nat
  bit : Int
  count : Nat
  /-- Its first sector bit, and the window bit at which that bit lies (R198). -/
  s0 : Nat := 0
  b0 : Nat := 0
  deriving DecidableEq, Repr

/-- A sector capture that a sequencer's plan has queued (CAPTR, R287). -/
structure CapPlan where
  /-- VERIFY of a write plan, or NORMAL of a read plan (R191). -/
  verify : Bool := false
  readers : Nat := 0
  eqset : Nat := 0
  head : Nat := 0
  zone : Nat := 0
  track : Nat := 0
  pos : Nat := 0
  fgen : Nat := 3
  tag : Nat := 0
  dest : Nat := 0
  ordinal : Nat := 0
  last : Bool := false
  /-- The owning sequencer, .0 to .3. -/
  owner : Nat := 0
  /-- The first window of the plan in which the sector has a piece, and its pieces. -/
  firstWin : Nat := 0
  pieces : List Piece := []
  /-- How often each reader's window had opened when the plan was queued. -/
  baseA : Nat := 0
  baseB : Nat := 0
  /-- The local angle from the opening of the sector's last window to the end of its last piece. -/
  endOff : Nat := 0
  /-- The run that the sector belongs to (R212). -/
  run : Nat := 0
  deriving DecidableEq, Repr

/-- A slot of the replay buffer with its descriptor (R195, R197). -/
structure RbSlot where
  gen : Nat := 0
  capturing : Bool := false
  decoding : Bool := false
  replayable : Bool := false
  /-- The ATB EPOCH at capture. -/
  epoch : Nat := 0
  cap : CapPlan := {}
  cands : List Cand := []
  /-- Offsets already tried, newest first. -/
  tried : List Int := []
  last : Option Cand := none
  relaxed : Bool := false
  missed : Bool := false
  /-- The coefficient memory as the capture found it (R201). -/
  coef : List (Nat × Nat) := []
  /-- The fabric cycle of the last codeword sample. -/
  stamp : Nat := 0
  /-- The samples of readers A and B in capture order (R195), and their VGA gain codes at the end of the capture. -/
  sampA : List Byte := []
  sampB : List Byte := []
  gainA : Nat := 0
  gainB : Nat := 0
  deriving DecidableEq, Repr

/-- A replay request (Table 07-4); `auto` marks the automatic requests of R215, `next` the modes that follow in the chain. -/
structure RpReq where
  words : List Word := []
  auto : Bool := false
  next : List Nat := []
  deriving DecidableEq, Repr

/-- A decode in progress on one unit (R207). -/
structure Decode where
  slot : Nat
  cand : Cand := {}
  /-- Global iterations begun, local iterations completed in all and in this global iteration. -/
  g : Nat := 1
  l : Nat := 0
  lHere : Nat := 0
  unsat : Nat := 0
  gmax : Nat := 8
  lmax : Nat := 20
  /-- The detector pass of this global iteration is complete. -/
  passed : Bool := false
  /-- The coefficient set as copied when the capture or request started (R201). -/
  coef : List (Nat × Nat) := []
  /-- Candidates still to be tried by this request. -/
  rest : List Cand := []
  req : RpReq := {}
  /-- The channel LLRs of the 36,864 codeword bits, their LLRs after the last local iteration, and the check-to-variable messages of the
  3,840 checks (R206). -/
  chan : List Int := []
  post : List Int := []
  msgs : List (List Int) := []
  /-- The decisions of the first detector pass, and the present ones (R207, R221). -/
  first : List Bool := []
  bits : List Bool := []
  deriving DecidableEq, Repr

/-- One Tower's read channel beside its registers. -/
structure ChnState where
  slots : List RbSlot := List.replicate 51 {}
  /-- Captures queued and not started, and started captures with their slots, oldest first. -/
  plans : List CapPlan := []
  caps : List (CapPlan × Nat) := []
  /-- The reader windows (Table 02-3), and how often each has opened. -/
  winA : Bool := false
  winB : Bool := false
  opensA : Nat := 0
  opensB : Nat := 0
  /-- The local angle at which each window opened last, and gain and phase that each front end held when it closed last (R194). -/
  winAtA : Nat := 0
  winAtB : Nat := 0
  heldA : Nat × Nat := (0, 0)
  heldB : Nat × Nat := (0, 0)
  /-- Runs queued so far; decodes whose unit is still busy with a sector of an earlier run, oldest first. -/
  runs : Nat := 0
  waits : List (Unit3 × Decode) := []
  normal : Option Decode := none
  verify : Option Decode := none
  replay : Option Decode := none
  queue : List RpReq := []
  /-- Converged decodes that wait for XTS decryption and the CRC check, by unit (R213). -/
  crcs : List (Unit3 × Decode) := []
  /-- Coefficient words that are not 0 (R201). -/
  coef : List (Nat × Nat) := []
  /-- The sums of a joint NORMAL sector of set 0 that converged, for the 20 joint taps, while its update is due (R202). -/
  adapt : Option (List Int) := none
  /-- CHN_TEST.LOOP in force since the last start (R551). -/
  loopNow : Nat := 0
  /-- The bits that the serialiser sent of each sector of the present write run, by ordinal, for the digital loop-back (Table 20-8). -/
  sentBits : List (Nat × List Byte) := []
  deriving DecidableEq, Repr

/-! ## Write path, preamp link and Lantern -/

/-- A write run in progress (R226, R234). -/
structure WriteRun where
  head : Nat := 0
  zone : Nat := 0
  count : Nat := 0
  src : Nat := 0
  meta_ : Nat := 0
  /-- The sector in progress, and whether its first bit has been reached. -/
  cur : Nat := 0
  writing : Bool := false
  ended : Bool := false
  /-- Write outcomes (Table 08-1) of the sectors reached. -/
  wouts : List Nat := []
  /-- The serialiser's precompensation as taken at the run's start. -/
  precomp : List Word := []
  /-- The band slot of the run's first sector (word 7 of WRITE_RUN). -/
  start : Nat := 0
  /-- The 37,200 bits of the sector in progress, in bytes, the first bit of each its most significant (Table 06-1, R226). -/
  enc : List Byte := []
  /-- When the serialiser makes each transition of that sector, in 1/64 bit from the sector's first bit (R228). -/
  trans : List Int := []
  deriving DecidableEq, Repr

/-- A downstream frame (R235). -/
structure CplFrame where
  typ : Nat
  seq : Nat := 0
  addr : Nat := 0
  data : Nat := 0
  fw : Bool := false
  resends : Nat := 0
  deriving DecidableEq, Repr

/-- One Tower's preamp link beside its registers. -/
structure CplState where
  awaiting : Option CplFrame := none
  seq : Nat := 0
  /-- Pending downstream frames by priority (R237). -/
  pendHead : Bool := false
  pendAssist : Option Nat := none
  pendBias : Option Nat := none
  pendFw : Option CplFrame := none
  pendKeep : Bool := false
  pendRead : Option Nat := none
  /-- The CPL_x_RST_N pin. -/
  rstN : Bool := false
  /-- The 40 frame bits sent last (R235). -/
  sent : Nat := 0
  /-- The start has read VERSION this often; the version is adopted; the starting HEAD_SEL is out (R240). -/
  verReads : Nat := 0
  adopted : Bool := false
  started : Bool := false
  /-- A LINK fault stop waits for the Lantern (R241). -/
  waitLan : Bool := false
  /-- CPL_TEST.LOOP in force since the last start (R551). -/
  loopNow : Nat := 0
  /-- Registers that the internal responder of the link-layer loop-back has been written (Table 20-8). -/
  resp : List (Nat × Nat) := []
  /-- The fabric cycle in which RST_N fell last (R241). -/
  rstAt : Nat := 0
  deriving DecidableEq, Repr

/-- One Tower's Lantern beside its registers. -/
structure LanState where
  /-- BIAS as last sent, and the target of a ramp in progress. -/
  bias : Nat := 0
  ramp : Option Nat := none
  /-- Heads in hold-off, and its phase: 0 none, 1 cooling, 2 holding, 3 ramping back. -/
  holdHeads : List Nat := []
  holdPhase : Nat := 0
  /-- The last ASSIST_CODE acknowledged (R243), and whether one awaits acknowledgement. -/
  acked : Option Nat := none
  assistWait : Bool := false
  /-- Temperature codes of the present gate, newest first (R245). -/
  temps : List Nat := []
  /-- PTAB entries that are not 0, by 64h + z. -/
  ptab : List (Nat × Nat) := []
  /-- Learning: records, failures and sums, and the head and zone they belong to (R250). -/
  lrnFails : Nat := 0
  lrnEber : Nat := 0
  lrnLocal : Nat := 0
  lrnHead : Nat := 0
  lrnZone : Nat := 0
  /-- The last 256 wedges, newest first: an assist gate opened in it (R249); and the present wedge. -/
  duty : List Bool := []
  dutyNow : Bool := false
  /-- LEAD and TAIL of the write run in force (R233). -/
  gate : Nat := 0x02800080
  /-- The head of the last write run (R250). -/
  runHead : Nat := 0
  /-- Events of the present fabric cycle: CONSEC before a gate that closed on schedule, an assist gate that found no leave to open, and a PTAB
  entry that firmware wrote (R251, R257). -/
  shutNow : Option Nat := none
  tryNow : Bool := false
  ptabNow : Option Nat := none
  deriving DecidableEq, Repr

/-- The write side of one Tower. -/
structure TwrState where
  run : Option WriteRun := none
  cpl : CplState := {}
  lan : LanState := {}
  deriving DecidableEq, Repr

/-! ## Spires -/

/-- A plan of the plan unit (R287): `wins` holds for each window the eight fields of WGET, absent ones as none. -/
structure Plan where
  write : Bool := false
  head : Nat := 0
  zone : Nat := 0
  track : Nat := 0
  first : Nat := 0
  count : Nat := 0
  readers : Nat := 0
  eqset : Nat := 0
  wins : List (List (Option Nat)) := []
  caps : List CapPlan := []
  queued : Bool := false
  deriving DecidableEq, Repr

/-- What a spire in WAIT waits on (SPR_STATUS.WAITON), with the registers the operation names. LD, FENCE and POST find their accesses
complete at once. -/
inductive SprWait
  | none
  | pop
  | waitc (r c : Nat)
  | outc (rd : Nat)
  | syncp
  deriving DecidableEq, Repr

/-- A base-image routine in progress (Tables 10-10 and 10-13): opcode, stage, window or step, the count or mask it collects, its status. -/
structure MRun where
  op : Nat
  stage : Nat := 0
  k : Nat := 0
  acc : Nat := 0
  status : Nat := 0
  deriving DecidableEq, Repr

/-- One spire (R280). Register 0 to 15 are w0 to w15. -/
structure SpireState where
  /-- Control-store words that are not 0 (R281). -/
  cs : List (Nat × BitVec 25) := []
  w : List Word := List.replicate 16 0
  pc : Nat := 0x040
  stack : List Nat := []
  z : Bool := false
  n : Bool := false
  c : Bool := false
  ef0 : Bool := false
  ef1 : Bool := false
  /-- 0 HALTED, 1 RUN, 2 WAIT, 3 MCHECK (Table 10-14). -/
  sstate : Nat := 0
  wait : SprWait := .none
  /-- The command queue and the running command (R292 to R295). -/
  queue : List (List Word) := []
  running : Option (List Word) := none
  seqEpoch : Nat := 0
  start : Nat := 0x040
  /-- SPR_MC, SPR_MC_WORD and SPR_MC_CMD. -/
  mcCause : Nat := 0
  mcAddr : Nat := 0
  mcWord : Nat := 0
  mcCmd : Nat := 0
  /-- The plan unit (track sequencers): zone descriptor words with head and zone, anchor, plan, outcome notifications. -/
  zoneDesc : Option (Nat × Nat × List Word) := none
  anchor : Nat := 0
  plan : Option Plan := none
  notes : List Word := []
  /-- The sequencer has reached SYNCP for the running command; the rendezvous has been met. -/
  synced : Bool := false
  syncMet : Bool := false
  /-- A running integrity datapath operation (R286): FN and its two operands. -/
  intOp : Option (Nat × Nat × Nat) := none
  /-- The session named by the packet engine's last SESS (R334). -/
  sess : Nat := 0
  routine : Option MRun := none
  /-- Comparator fires that this owner has been told of, by comparator, since it was last armed (R59). -/
  fires : List (Nat × Nat) := []
  deriving DecidableEq, Repr

/-- The spires' surroundings. -/
structure SprEnv where
  /-- MQ_W0 to MQ_W7 and the result of the last MQ_PUSH, for channel cores A.0, A.1, B.0, B.1 (Table 10-9). -/
  mqW : List (List Word) := List.replicate 4 (List.replicate 8 0)
  mqRes : List Nat := [0, 0, 0, 0]
  /-- STEP commands that came over the fabric and are still to be performed. -/
  steps : List Spire := []
  /-- SHA-256 states by address: the bytes hashed so far (R286). -/
  hashes : List (Nat × List Byte) := []
  deriving DecidableEq, Repr


/-! ## Media structures and the retry ladder ("Media format and layout", "Retry and recovery") -/

/-- Row states of Table 06-7. -/
inductive RowSt
  | empty
  | open_
  | covered
  | dataDone
  | protected_
  deriving DecidableEq, Repr

/-- A spread group (R170 to R177) with the rows that are not EMPTY. -/
structure Group where
  band : Nat
  k : Nat := 11
  m : Nat := 1
  /-- Member i's head, by the active head list at allocation (R171). -/
  heads : List Nat := []
  vault : Nat := 0
  incarn : Nat := 0
  rowSectors : Nat := 256
  gen : Nat := 3
  rows : List (Nat × RowSt) := []
  /-- The CRC-32C of each data slot that passed read-after-write, by member and slot (R172); the parity slots that did (Table 06-7). -/
  crcs : List ((Nat × Nat) × Nat) := []
  parity : List (Nat × Nat) := []
  /-- The accumulator row, of the 16 of the Tower, that each open row holds (R177). -/
  accs : List (Nat × Nat) := []
  /-- PARTIAL_PARITY records: the row, and for each data member the slot after the last one covered (R175). -/
  partials : List (Nat × List Nat) := []
  degraded : Bool := false
  closed : Bool := false
  /-- Queued to the band movers (R168, R179). -/
  queued : Bool := false
  deriving DecidableEq, Repr

/-- A band of a surface: write pointer, slip map (slot, slip slot), no free slip slot left, and format generation (R164 to R168, R186). -/
structure Band where
  head : Nat
  band : Nat
  wp : Nat := 0
  slips : List (Nat × Nat) := []
  exhausted : Bool := false
  gen : Nat := 3
  deriving DecidableEq, Repr

/-- Where a sector of an object lies: an entry of the band maps (R184, R185, R271). -/
structure Place where
  frag : Nat
  incarn : Nat
  idx : Nat
  vault : Nat
  band : Nat
  member : Nat
  slot : Nat
  /-- Its object is deleted. -/
  dead : Bool := false
  deriving DecidableEq, Repr

/-- A sector whose plaintext waits in DDR for a slip slot (R256, R275), with the metadata that names it. -/
structure Rewrite where
  head : Nat
  band : Nat
  slot : Nat
  typ : Nat := 0
  frag : Nat := 0
  incarn : Nat := 0
  idx : Nat := 0
  /-- Relocation by the band movers instead (R275). -/
  relocate : Bool := false
  deriving DecidableEq, Repr

/-- What firmware last saw of a sector that did not converge (R258): its position, the newest live outcome with its slot, generation and time, the
newest outcome of all, UNSAT and CORR of it, the modes of the requests that ran on the capture, and how many live outcomes there were. -/
structure SeenOut where
  head : Nat
  track : Nat
  pos : Nat
  slot : Nat := 63
  gen : Nat := 0
  live : Nat := 0
  at_ : Nat := 0
  out : Nat := 0
  unsat : Nat := 0
  corr : Nat := 0
  modes : List Nat := []
  count : Nat := 0
  deriving DecidableEq, Repr

/-- A retry ladder in progress (R258 to R279). -/
structure Ladder where
  sec : Sect
  profile : Nat := 0
  step : Nat := 0
  att : Nat := 0
  /-- Live outcomes of the sector before the present attempt; the attempt's own replay request is posted (R264, R267, R268); the time of the live
  outcome that began the ladder. -/
  seenAt : Nat := 0
  posted : Bool := false
  since : Nat := 0
  /-- Repeats of the present attempt (R261) and captures made. -/
  rep : Nat := 0
  captures : Nat := 1
  bestUnsat : Nat := 4095
  unread : Nat := 0
  /-- The HEATER code of the head without boost, while it is boosted. -/
  normalHeater : Option Nat := none
  deriving DecidableEq, Repr

/-- The structures that firmware keeps for one Tower: the object index is `ObjState.objs`; what stands here is on two heads of the Tower as METADATA
(Table 06-8). -/
structure LayState where
  /-- The active head list H (R171). -/
  heads : List Nat := [0, 1, 2, 3, 4, 5, 6, 7, 8, 9, 10, 11]
  groups : List Group := []
  bands : List Band := []
  /-- The primary and the grown defect list: head, track and position (R169). -/
  primary : List (Nat × Nat × Nat) := []
  grown : List (Nat × Nat × Nat) := []
  rewrites : List Rewrite := []
  /-- The band maps: where the sectors of objects lie; the sectors of the open row of a closed group, which are written into another group (R168);
  slots, by band, member and slot, that failed L0 to L7 (R178). -/
  places : List Place := []
  rehome : List Place := []
  unreadable : List (Nat × Nat × Nat) := []
  /-- Band moves: source band, destination band and destination row (R184); the bands, by head and index, that the movers write. -/
  feeds : List (Nat × Nat × Nat) := []
  moverBands : List (Nat × Nat) := []
  /-- The incarnation last given to a group of a band index (R173), and the groups held free for the band movers (R188). -/
  incarns : List (Nat × Nat) := []
  spareGroups : Nat := 32
  seen : List SeenOut := []
  ladders : List Ladder := []
  /-- Sectors recovered at L0 to L2, by head (Table 09-4). -/
  shallow : List Nat := List.replicate 16 0
  deriving DecidableEq, Repr

/-! ## Keys on the key bus (R386) -/

/-- Keys held in the slots of the XTS engines of both Towers and the GCM engines, by slot number. -/
structure KeySlots where
  xts : Two (List (Nat × Nat)) := ⟨[], []⟩
  gcm : List (Nat × Nat) := []
  deriving DecidableEq, Repr

/-! ## Network ("Network ports and AOT transport") -/

/-- A tag of a session (Table 11-9): 0 IDLE, 1 ACTIVE, 2 COMPLETING. -/
structure NTag where
  st : Nat := 0
  live : Nat := 0
  last : Nat := 0
  /-- The sequence of the final CPL. -/
  cplSeq : Nat := 0
  deriving DecidableEq, Repr

/-- A reliable packet that its sender keeps (R326): plaintext, and how often it was resent. -/
structure RelPkt where
  seq : Nat
  typ : Nat
  epoch : Nat := 1
  flags : Nat := 0
  tag : Nat := 0
  gen : Nat := 0
  off : Nat := 0
  body : List Byte := []
  /-- The bytes as first sent, resent unchanged. -/
  wire : List Byte := []
  resends : Nat := 0
  sackResent : Bool := false
  sentAt : Nat := 0
  deriving DecidableEq, Repr

/-- A session entry (R320 to R331). -/
structure Sess where
  /-- 0 FREE, 1 HANDSHAKE, 2 OPEN, 3 CLOSING. -/
  st : Nat := 0
  version : Nat := 0
  counter : Nat := 0
  /-- 0 none, 1 User, 2 Crypto Officer; the anchor that gave it and its vault mask (R382, R384). -/
  role : Nat := 0
  anchor : Nat := 0
  mask : Nat := 0
  peer : Peer := {}
  random : Nat := 0
  maxPl : Nat := 1024
  keysLoaded : Bool := false
  /-- Of the handshake (R316, R317): the parts of HELLO_REPLY, the bytes that H1 covers, PRK, and the index of AUTH's last part. -/
  reply : List (List Byte) := []
  transcript : List Byte := []
  prk : List Byte := []
  authLast : Option Nat := none
  /-- Receive side: the epochs whose key is held and the epoch secret, the REKEY that ends an epoch, ACK, recorded sequences, right edge. -/
  rxHeld : List Nat := [1]
  rxSecret : List Byte := []
  rxEpoch : Nat := 1
  rekeyAt : Option (Nat × Nat) := none
  ack : Nat := 0
  seen : List Nat := []
  edge : Nat := 1024
  ackSeen : Option Nat := none
  sinceAck : Nat := 0
  delayOn : Bool := false
  /-- Send side. -/
  next : Nat := 0
  txEpoch : Nat := 1
  txSecret : List Byte := []
  rekeySeq : Option Nat := none
  epochPkts : Nat := 0
  waiting : List RelPkt := []
  unacked : List RelPkt := []
  peerAck : Nat := 0
  peerEdge : Nat := 1
  cwnd : Nat := 16
  cwndAcked : Nat := 0
  /-- Time in µs of the last CWND reduction (R330). -/
  cutAt : Option Nat := none
  ackNext : Nat := 0
  /-- SRTT and RTTVAR in µs (R329), and RTO in µs. -/
  rtt : Option (Nat × Nat) := none
  rto : Nat := 1000
  closeSeq : Option Nat := none
  closeDone : Bool := false
  tags : List NTag := List.replicate 32 {}
  authParts : List (Nat × List Byte) := []
  /-- The sequence of the last RESET delivered (R361). -/
  resetSeq : Option Nat := none
  deriving DecidableEq, Repr

/-- The last packet or frame that left on a port: session, type, sequence, acknowledgement, SACK and the bytes after the header. -/
structure TxRec where
  sess : Option Nat := none
  typ : Nat := 0
  seq : Nat := 0
  epoch : Nat := 0
  ack : Nat := 0
  sack : Nat := 0
  wire : List Byte := []
  deriving DecidableEq, Repr

/-- A port beside its registers. -/
structure EthState where
  /-- ETH_CFG.MODE and ETH_TEST.LOOP in force since the last start (R306, R551). -/
  modeNow : Nat := 0
  loopNow : Nat := 0
  /-- The second (of mtime) and the echo replies sent in it (R309). -/
  echoSec : Nat := 0
  echoN : Nat := 0
  lastTx : Option TxRec := none
  deriving DecidableEq, Repr

/-- A token bucket: millionths of a token, as of a time in µs. -/
structure Bucket where
  tokens : Nat := 0
  since : Nat := 0
  fresh : Bool := true
  deriving DecidableEq, Repr

/-- The AOT block beside its registers. -/
structure AotState where
  sess : List (Nat × Sess) := []
  /-- The per-source table of R333 and the device-wide bucket. -/
  sources : List (Nat × Bucket) := []
  all : Bucket := {}
  /-- The present and the previous cookie key (R319). -/
  cookieKey : Nat := 0
  cookiePrev : Nat := 0
  /-- Frames handed to each packet engine, by descriptor address (RXNEXT). -/
  rxq : List (Nat × Nat) := []
  /-- Timers that have expired for an engine's TIMER: session indices. -/
  expired : List Nat := []
  closingAll : Bool := false
  deriving DecidableEq, Repr

/-! ## Object commands -/

/-- A command that holds a tag and a slot (R343, R355). -/
structure Cmd where
  sess : Nat
  tag : Nat
  gen : Nat := 0
  opcode : Nat := 0
  seq : Nat := 0
  cflags : Nat := 0
  vault : Nat := 0
  handle : Nat := 0
  offset : Nat := 0
  len : Nat := 0
  block : List Byte := []
  /-- The CMD's PAYLOAD_LEN was 128 and its reserved fields 0. -/
  wellFormed : Bool := true
  started : Bool := false
  /-- The final CPL is sealed. -/
  done : Bool := false
  acked : Bool := false
  /-- Bytes received of the host's DATA stream, by offset. -/
  chunks : List (Nat × List Byte) := []
  /-- Objects covered by a FLUSH: vault and handle (R359). -/
  covers : List (Nat × Nat) := []
  deriving DecidableEq, Repr

/-- An object (Table 12-1): 1 RECEIVING, 2 ACKNOWLEDGED, 3 DURABLE. -/
structure Obj where
  vault : Nat
  handle : Nat
  st : Nat := 1
  incarn : Nat := 0
  tower : Tower := .A
  len : Nat := 0
  sha : List Byte := []
  retain : Nat := 0
  created : Nat := 0
  holds : List Nat := []
  bytes : List (Nat × List Byte) := []
  /-- The PUT that made it. -/
  sess : Nat := 0
  sid : Nat := 0
  tag : Nat := 0
  gen : Nat := 0
  deriving DecidableEq, Repr

/-- An entry of the lost-write report (Table 12-13). -/
structure Lost where
  cause : Nat
  vault : Nat
  tower : Tower
  handle : Nat
  incarn : Nat
  gen : Nat
  len : Nat
  sid : Nat
  tag : Nat
  deriving DecidableEq, Repr

/-- What firmware holds about objects and the drive. -/
structure ObjState where
  cmds : List Cmd := []
  objs : List Obj := []
  /-- INCARN last given to a handle fragment (R155, R341). -/
  incarns : List (Nat × Nat) := []
  lost : List Lost := []
  lostBoot : Nat := 0
  lostSource : Nat := 0
  summaryMissing : Bool := false
  lostClock : Nat := 0
  /-- The power-loss summary: begun in a hold-up, programmed in NOR (R507); a restart that must build the report is due. -/
  sumDraft : Bool := false
  summary : Bool := false
  lossPending : Bool := false
  /-- The report was written before the reset took the chip (Table 12-11). -/
  deferred : Bool := false
  /-- The journal mirror (R182): vault, handle, INCARN and change, 1 acknowledged, 2 durable, 3 removed, 4 named by a power-loss summary; oldest first. -/
  journal : List (Nat × Nat × Nat × Nat) := []
  failedA : Bool := false
  failedB : Bool := false
  /-- Raw sectors that have been written: content by (tower, LBA). -/
  raw : List (Nat × Nat × List Byte) := []
  /-- The default group shape and row (R170, R174). -/
  k : Nat := 11
  m : Nat := 1
  rowSectors : Nat := 256
  /-- Power state and idle times of SET_POWER. -/
  pstate : Nat := 0
  idle : List Nat := [0, 0, 0, 0, 0]
  /-- Activation in progress: session, tag, slot, RETRY_MS. -/
  activating : Option (Nat × Nat × Nat × Nat) := none
  /-- A device reset is deferred (Table 12-11). -/
  resetting : Bool := false
  /-- Ladder records and the identity strings. -/
  model : List Byte := []
  serial : List Byte := []
  deriving DecidableEq, Repr

/-! ## Dome -/

/-- The state of CTR_DRBG (R396): key, V and the reseed counter, 0 before instantiation. -/
structure Drbg where
  key : Nat := 0
  v : Nat := 0
  count : Nat := 0
  deriving DecidableEq, Repr

/-- A vault (R388 to R390); `wrapped` is its media key, AES-KW under the vault wrap key, 576 bits. -/
structure Vault where
  id : Nat
  unlocked : Bool := false
  hasSecret : Bool := false
  compliance : Bool := false
  minRet : Nat := 0
  salt : Nat := 0
  wrapped : Nat := 0
  /-- A lock or an erase is under way, and whether the vault was unlocked before it (R390). -/
  closing : Option Bool := none
  deriving DecidableEq, Repr

/-- A trust anchor (R384): ROLE 1 USER, 2 CO, 3 TIME. -/
structure Anchor where
  slot : Nat
  point : List Byte
  role : Nat
  mask : Nat
  deriving DecidableEq, Repr

/-- A key bus operation in progress (R386, R387). -/
structure KbOp where
  op : Nat
  target : Nat
  slot : Nat
  src : Nat
  deriving DecidableEq, Repr

/-- The Dome beside its registers. What NOR keeps (boot record, key record, vault table, clock ring) stays over resets. -/
structure DomState where
  drbg : Drbg := {}
  /-- Entries of the key RAM that are not zero. -/
  keyRam : List (Nat × Nat) := []
  /-- The key record: whether it is valid, the device salt, the device identity key and the generation-1 drive key, AES-KW under KEK_DEV. -/
  keyRecord : Bool := false
  salt : Nat := 0
  devWrapped : Nat := 0
  gen1Wrapped : Option Nat := none
  /-- Certificate chain of the device key, installed by PUTCERT. -/
  cert : List Byte := []
  anchors : List Anchor := []
  vaults : List Vault := []
  /-- The retention clock, the seconds since its last record and the sequence of the next one; the records stand in NOR. -/
  clock : Nat := 0
  since : Nat := 0
  recSeq : Nat := 0
  /-- A record in programming: the value it holds, and the session and tag of the token it accepts. -/
  recBusy : Option (Nat × Option (Nat × Nat)) := none
  /-- A record has been asked for while one was in programming. -/
  recAgain : Bool := false
  /-- The last NONCE issued and the clock at its issue. -/
  nonce : Option (Nat × Nat) := none
  /-- Boot record: active slot, SVN_MIN, approved-mode flag. -/
  bootSlot : Nat := 0
  svnMin : Nat := 0
  approved : Bool := false
  /-- The failed marks of the firmware slots (R400). -/
  fwFailed : List Bool := [false, false]
  /-- The slot that runs. -/
  running : Nat := 0
  kb : Option KbOp := none
  deriving DecidableEq, Repr

/-! ## Main memory and Cupola -/

/-- The response on the fabric to the last access that a command made: its bytes, and the 32-byte beats (address divided by 32) that
received the error response of R22. -/
structure Resp where
  data : List Byte := []
  err : List Nat := []
  deriving DecidableEq, Repr

/-- The DDR controller and DRAM beside the registers and the data bytes, which stand in memory. -/
structure DdrState where
  /-- Stored bits that differ from the code word of the data: lane mask by beat, 8 × burst + beat (R407). -/
  err : List (Nat × Nat) := []
  /-- The mode that DRAM was last initialised in: byte parity where true (R416). -/
  allPar : Bool := false
  /-- Bytes, as offsets from the base of DDR, whose check lanes are of the other mode than `allPar` says (R413). -/
  parity : List Nat := []
  /-- MEM_TEST.LOOP in force since the last start (R551). -/
  loopNow : Nat := 0
  /-- The error log, oldest first (R420). -/
  log : List (List Word) := []
  /-- Corrected symbols by device (R421). -/
  dev : List (Nat × Nat) := []
  deriving DecidableEq, Repr

/-- A valid line of the Cupola array. -/
structure CLine where
  way : Nat
  /-- The line: address / 64. -/
  line : Nat
  data : List Byte := []
  /-- The stamp of the last use (R433). -/
  used : Nat := 0
  deriving DecidableEq, Repr

/-- A fill in the fill tracker. -/
structure CFill where
  line : Nat
  core : Nat
  prefetch : Bool := false
  /-- Covered by an invalidation: not installed (R448). -/
  drop : Bool := false
  /-- A maintenance operation waits for it. -/
  held : Bool := false
  /-- What the read gives, once a later request of its port has made it take effect (R20). -/
  got : Option Resp := none
  deriving DecidableEq, Repr

/-- A stream tracker (R437): the core, its last line, direction and count of consecutive lines. -/
structure CTrack where
  core : Nat
  last : Nat
  up : Bool := true
  count : Nat := 1
  deriving DecidableEq, Repr

/-- The Cupola beside its registers. -/
structure CupState where
  lines : List CLine := []
  /-- Victim cache and side buffer, newest first: line and data. -/
  victim : List (Nat × List Byte) := []
  side : List (Nat × List Byte) := []
  fills : List CFill := []
  /-- Stream trackers, most recently used first. -/
  tracks : List CTrack := []
  stamp : Nat := 0
  /-- Scratchpad ways that the present walk changes (R442). -/
  changed : Nat := 0
  deriving DecidableEq, Repr

/-! ## Memories of the cores (Tables 00-4 and 00-5) -/

/-- The L1 data caches of the eight application cores, lines newest first, and the TCM of the four channel cores, the bytes that are not 0. No command reads
or writes a TCM but its BIST (log entry 34). -/
structure CoreState where
  l1 : List (List (Nat × List Byte)) := List.replicate 8 []
  tcm : List (List Host.Cell) := List.replicate 4 []
  deriving DecidableEq, Repr

/-! ## DMA engine -/

/-- A burst of a channel, oldest first: offset and bytes; reading, or writing with the count of bytes whose writes went through. -/
structure DmaBurst where
  off : Nat
  len : Nat
  writing : Bool := false
  good : Nat := 0
  /-- Its place in the order of issue, and what its read gives once a later request has made it take effect (R20). -/
  seq : Nat := 0
  got : Option Resp := none
  deriving DecidableEq, Repr

/-- A DMA channel beside its registers. CSTATE, the counts and the progress registers stand in the registers. -/
structure DmaCh where
  /-- The descriptor as read at FETCH, and its address. -/
  desc : List Word := []
  addr : Nat := 0
  /-- Bytes whose reads were issued, whose reads returned, and whose writes completed. -/
  issued : Nat := 0
  read : Nat := 0
  wrote : Nat := 0
  bursts : List DmaBurst := []
  half : Bool := false
  /-- The error that ends the descriptor: 0 none, 1 read, 2 write, 3 FORMAT (R461). -/
  err : Nat := 0
  /-- Word 7 to be written; while the channel parks it is not issued. -/
  word7 : Option Word := none
  hold7 : Bool := false
  /-- The re-read of R459 is in flight. -/
  reread : Bool := false
  /-- The descriptor has ended and the re-check of R458 waits while the channel parks. -/
  ended : Bool := false
  /-- The state before parking, and a parking request: 1 power, 2 stop. -/
  back : Nat := 0
  park : Nat := 0
  /-- The domains of the quiesce request that parked it. -/
  dom : Nat := 0
  /-- What the descriptor read in flight gives, once a later request has made it take effect (R20). -/
  got : Option Resp := none
  deriving DecidableEq, Repr

/-- The DMA beside its registers. -/
structure DmaState where
  ch : List DmaCh := List.replicate 32 {}
  /-- The channel served last (R451). -/
  last : Nat := 31
  /-- The bursts issued so far. -/
  seq : Nat := 0
  /-- The domains of the present quiesce request (R463). -/
  quiesce : Option Nat := none
  deriving DecidableEq, Repr

/-! ## Embedded flash -/

/-- A running or suspended operation of the flash. `phase`: 0 programming, 1 first metadata write, 2 pulse, 3 second metadata write,
4 a metadata command. -/
structure FlsOp where
  op : Nat
  sector : Nat
  phase : Nat := 0
  /-- Target words, ascending, with their bytes. -/
  words : List (Nat × List Byte) := []
  pulses : Nat := 0
  /-- A suspend has been asked for. -/
  susp : Bool := false
  /-- The new password. -/
  pw : List Byte := []
  deriving DecidableEq, Repr

/-- The flash beside its registers. Words are numbered by 16 bytes from 0x00_0100_0000; counters, markers, protection bits and the
password are the metadata row. -/
structure FlsState where
  /-- Programmed words, as ranges (first word, count). -/
  prog : List (Nat × Nat) := []
  /-- The command byte of the sequence in its data, index or target phase; data written so far by offset; sector index; step of the second U. -/
  cmd : Nat := 0
  buf : List (Nat × Byte) := []
  index : Nat := 0
  step : Nat := 0
  run : Option FlsOp := none
  held : Option FlsOp := none
  counts : List (Nat × Nat) := []
  markers : List Nat := []
  ppb : List Nat := []
  pw : List Byte := List.replicate 16 0xFF#8
  deriving DecidableEq, Repr

/-! ## Power, clocks, Belfry -/

/-- A domain request in progress (R501, R502): the domains, powering up, waiting for the quiesce, and the reason: 0 a request,
1 a hold-up (R506). -/
structure DomReq where
  domains : Nat
  up : Bool := false
  why : Nat := 0
  deriving DecidableEq, Repr

/-- The token bucket of a filtered input (R519): millionths of a token as of AON time `since`, in reference cycles. -/
structure InputState where
  tokens : Nat := 0
  since : Nat := 0
  fresh : Bool := true
  deriving DecidableEq, Repr

/-- Power, clocks and Belfry beside the registers. -/
structure PwrState where
  req : Option DomReq := none
  /-- SHED domains of a hold-up that waits for the running request (Table 18-12). -/
  shedPend : Option Nat := none
  /-- PWR_FAIL_N as filtered, active high. -/
  fail : Bool := false
  /-- AON time of the last activity event (R505). -/
  actAt : Nat := 0
  /-- MV of the running voltage request, and the last VOUT_COMMAND sent: PMBus address and code (R496). -/
  avsMv : Nat := 0
  vout : Option (Nat × Nat) := none
  /-- Domains that a thermal shutdown gates when its delay ends (R514). -/
  shutDom : Option Nat := none
  /-- Sample histories of the Belfry since its start, newest first (R512). -/
  hist : List (Nat × List Int) := []
  /-- Channels over WARN_HI, over THROT and over ROR_LIM, with their hysteresis; and those with WARN, THROT and SHUT active. -/
  hi : List Nat := []
  thr : List Nat := []
  ror : List Nat := []
  warn : List Nat := []
  throt : List Nat := []
  shut : List Nat := []
  inputs : List InputState := [{}, {}, {}, {}]
  /-- The chip waits in reset for its rails to fall (R508), or in the THERMAL reset (R516). -/
  waitRails : Bool := false
  thermal : Bool := false
  deriving DecidableEq, Repr

/-! ## Reset, boot, test -/

/-- The fuses (Table 20-2). They stay over every reset. -/
structure FuseState where
  /-- Bit g: the CRC of group g holds. -/
  ok : Nat := 31
  /-- Group 0: per store, macros that need repair, spare rows and columns in use; the stored CRC. -/
  repair : List (Nat × Nat × Nat) := List.replicate 9 (0, 0, 0)
  crc : Nat := 0
  /-- Group 2: the word of DOM_FUSE_KEYS. -/
  keys : Nat := 0
  /-- Group 3: page bases with the word of PAGE_CAP, where it differs from all capabilities. -/
  caps : List (Nat × Nat) := []
  /-- Group 4: die identifier and the version nibble of the IDCODE. -/
  die : Nat := 0
  version : Nat := 1
  deriving DecidableEq, Repr

/-- What the UART_0 listener has taken since it started (R547). Nothing of it survives a reset. -/
structure Listener where
  devKey : Option Nat := none
  cert : Option (List Byte) := none
  anchors : List Anchor := []
  ident : Option (List Byte × List Byte × List Byte) := none
  key1 : Option Nat := none
  /-- The recovery listener of step 7, which does not end by itself. -/
  recovery : Bool := false
  deriving DecidableEq, Repr

/-- A PMP entry that is not OFF (R546): hart, entry, first address, size, and R, W, X, L. -/
structure PmpEntry where
  hart : Nat
  entry : Nat
  base : Nat
  size : Nat
  r : Bool
  w : Bool
  x : Bool
  l : Bool
  deriving DecidableEq, Repr

/-- Reset, boot, TAP and trace port beside the registers. -/
structure SysState where
  fuse : FuseState := {}
  /-- Hart 12 has left reset; the boot ROM is done and the image runs. -/
  hart12 : Bool := false
  launched : Bool := false
  listener : Option Listener := none
  /-- The last answer of the listener: command, status, bytes. -/
  answer : Option (Nat × Nat × List Byte) := none
  /-- AON time of the watchdog's last load, moved on while it stands still (R539). -/
  wdtAt : Nat := 0
  /-- The stores of a BIST run in progress. -/
  bist : Option Nat := none
  /-- The test state of R554. -/
  test : Bool := false
  /-- The TAP: instruction in force, selected data register (0 bypass, 1 IDCODE, 2 boundary cells, 3 debug, 4 BIST, 5 scan), the boundary
  cells' update values by ball number, and how the balls are driven (0 functional, 1 cells, 2 floating, 3 pulse, 4 train). -/
  tapIr : Nat := 2
  tapDr : Nat := 1
  cells : List Bool := []
  captured : List Bool := []
  balls : Nat := 0
  /-- Bytes in the trace FIFO, oldest first (R557). -/
  fifo : List Byte := []
  /-- MAC addresses of the factory record, 12 bytes (R549). -/
  macs : List Byte := []
  /-- PMP entries that are not OFF, as every reset leaves them. -/
  pmp : List PmpEntry := [{ hart := 12, entry := 0, base := 0, size := 0x10000, r := true, w := false, x := true, l := true }]
  deriving DecidableEq, Repr


/-! ## Event recorder -/

/-- A post that waits in the event recorder (R524 to R526): a firmware post names its image by address, a hardware post carries
its code, severity, source and payload. TIME is sampled at arrival. -/
structure EvrPost where
  fw : Bool := false
  /-- The record image lies in memory at `addr`; otherwise the fields below hold it. -/
  img : Bool := false
  addr : Nat := 0
  code : Nat := 0
  sev : Nat := 0
  source : Nat := 0
  payload : List Byte := []
  time : Nat := 0
  deriving DecidableEq, Repr

/-- An entry of the rate table (R527). `tokens` counts in 1/25,000,000 token, as of mtime `since`. -/
structure RateEntry where
  code : Nat := 0
  burst : Nat := 4
  en : Bool := false
  rate : Nat := 10
  count : Nat := 0
  maxsev : Nat := 0
  tokens : Nat := 0
  since : Nat := 0
  first : Nat := 0
  last : Nat := 0
  deriving DecidableEq, Repr

/-- The event recorder beside its registers and the store in the Central Buffer. -/
structure EvrState where
  /-- Posts in arrival order. -/
  posts : List EvrPost := []
  /-- Entries that have been written, by index. -/
  rate : List (Nat × RateEntry) := []
  deriving DecidableEq, Repr

/-! ## The state -/

/-- The state of the IGV-4820 as a block (see INVENTORY.md, "State"). -/
structure State where
  /-- Register values that differ from their reset value, by address, addresses rising (R25 to R27). -/
  regs : List (Nat × Word) := []
  /-- Bytes of memory that differ from 0, by physical address, addresses rising (R23). -/
  mem : List Host.Cell := []
  fwk : FwkState := {}
  atb : AtbState := {}
  spn : SpnState := {}
  /-- SRV_A, SRV_B and SPN. -/
  engA : EngState := {}
  engB : EngState := {}
  engS : EngState := {}
  srv : Two SrvState := ⟨{}, {}⟩
  chn : Two ChnState := ⟨{}, {}⟩
  twr : Two TwrState := ⟨{}, {}⟩
  lay : Two LayState := ⟨{}, {}⟩
  keys : KeySlots := {}
  /-- The 32 spires: track sequencers A.0 to B.3, packet engines 0 to 15, band movers A.0 to B.1, integrity engines 0 to 3. -/
  spires : List SpireState := List.replicate 32 {}
  sprEnv : SprEnv := {}
  eth : List EthState := [{}, {}]
  aot : AotState := {}
  obj : ObjState := {}
  dom : DomState := {}
  evr : EvrState := {}
  ddr : DdrState := {}
  cup : CupState := {}
  dma : DmaState := {}
  cores : CoreState := {}
  fls : FlsState := {}
  pwr : PwrState := {}
  sys : SysState := {}
  resp : Option Resp := none
  /-- The model's own counter of free values drawn (log entry 2); no field of the manual. -/
  freeCount : Nat := 0
  /-- The commands that wait, first in, first out. -/
  pending : List Instr := []
  deriving DecidableEq, Repr

/-- The machine right after a power-on reset: every register at its reset value, memory with nothing listed. -/
def State.reset : State := {}

end Sys2Proof.Machine
end

