-- ==== Sys2Proof/Machine/Ops.lean ====
section
/-! DEFINITION. The named operations over registers, memory, block states, interrupts, free values and hardware posts. -/

namespace Sys2Proof.Machine

/-- The outcome of a meaning. -/
abbrev Out := Host.Outcome State Fault Refusal

/-! ## Register addresses -/

/-- The block codes of Table 01-4. -/
def bSYS : Nat := 0x01
def bPWR : Nat := 0x02
def bCLK : Nat := 0x03
def bBEL : Nat := 0x04
def bEVR : Nat := 0x05
def bFLS : Nat := 0x06
def bCUP : Nat := 0x07
def bMEM : Nat := 0x08
def bDMA : Nat := 0x09
def bETH : Nat := 0x0A
def bAOT : Nat := 0x0B
def bDOM : Nat := 0x0C
def bATB : Nat := 0x0D
def bSPN : Nat := 0x0E
def bSRV : Nat := 0x0F
def bCHN : Nat := 0x10
def bLAN : Nat := 0x11
def bCPL : Nat := 0x12
def bSPR : Nat := 0x13
def bFIX : Nat := 0x14
def bTWR : Nat := 0x15
def bBTP : Nat := 0x16

def regBlk (a : Nat) : Nat := (a - 0x20000000) / 0x100000
def regInst (a : Nat) : Nat := a / 0x10000 % 16
def regPage (a : Nat) : Nat := a / 0x1000 % 16
def regOff (a : Nat) : Nat := a % 0x1000

/-- The address lies in the register window of Table 01-3. -/
def inRegs (a : Nat) : Bool := 0x20000000 ≤ a && a < 0x30000000

/-- Instances and pages of each block code (Table 01-4). -/
def blkShape (b : Nat) : Nat × Nat :=
  if b = bSYS then (1, 6) else if b = bPWR then (1, 4) else if b = bCLK then (1, 2) else if b = bBEL then (1, 4)
  else if b = bEVR then (1, 2) else if b = bFLS then (1, 2) else if b = bCUP then (1, 2) else if b = bMEM then (1, 4)
  else if b = bDMA then (1, 9) else if b = bETH then (2, 4) else if b = bAOT then (1, 8) else if b = bDOM then (1, 4)
  else if b = bATB then (1, 2) else if b = bSPN then (1, 4) else if b = bSRV then (2, 4) else if b = bCHN then (2, 8)
  else if b = bLAN then (2, 4) else if b = bCPL then (2, 2) else if b = bSPR then (4, 2) else if b = bFIX then (1, 2)
  else if b = bTWR then (2, 4) else if b = bBTP then (1, 1) else (0, 0)

/-- The page is implemented (R26). -/
def pageImpl (b i p : Nat) : Bool := i < (blkShape b).1 && p < (blkShape b).2

/-- The blocks whose EN reads 1 and whose STATE is ON from reset (R29). -/
def fixedOn (b : Nat) : Bool := b == bSYS || b == bPWR || b == bCLK || b == bDOM

/-! ## Reset values -/

/-- The register of a description covers the offset. -/
def descHas (d : RegDesc) (off : Nat) : Bool :=
  d.off ≤ off && off < d.off + d.count * d.stride && (off - d.off) % d.stride == 0

/-- The fields of the register at an address; none for a location no table lists (R22). -/
def fieldsAt (a : Nat) : List FldDesc :=
  match (regTable (regBlk a) (regPage a)).find? (fun d => descHas d (regOff a)) with
  | some d => d.flds
  | none => []

/-- The reset value of the page header (R27, R29): identity, capabilities, CTL and STAT. -/
def hdrReset (b i p off : Nat) : Nat :=
  if off = 0 then b * 0x10000 + i * 0x100 + 2
  else if off = 4 then 0x7FFFFFFF
  else if off = 8 then (if fixedOn b || b == bFLS || b == bCUP then 1 else 0)
  else if off = 12 && p == 0 then (if fixedOn b then 2 else if b == bFLS || b == bCUP then 1 else 0)
  else 0

/-- The reset value of the register at an address. -/
def resetOf (a : Nat) : Word :=
  if regOff a < 0x20 then BitVec.ofNat 32 (hdrReset (regBlk a) (regInst a) (regPage a) (regOff a))
  else BitVec.ofNat 32 ((fieldsAt a).foldl (fun acc f => acc + f.reset * 2 ^ f.lo) 0)

/-! ## The register file -/

/-- The value listed for an address. -/
def regLookup : List (Nat × Word) → Nat → Option Word
  | [], _ => none
  | (k, v) :: r, a => if k = a then some v else regLookup r a

/-- A list with the value of an address written in its place. -/
def regInsert (a : Nat) (v : Word) : List (Nat × Word) → List (Nat × Word)
  | [] => [(a, v)]
  | (k, w) :: r => if a < k then (a, v) :: (k, w) :: r else if a = k then (a, v) :: r else (k, w) :: regInsert a v r

/-- A list without the entry of an address. -/
def regErase (a : Nat) (l : List (Nat × Word)) : List (Nat × Word) := l.filter (fun e => !(e.1 == a))

/-- The canonical form of the register file: addresses rising, no entry at its reset value. -/
def regsWf : List (Nat × Word) → Bool
  | [] => true
  | [(k, v)] => !(v == resetOf k)
  | (k, v) :: (k', v') :: r => !(v == resetOf k) && decide (k < k') && regsWf ((k', v') :: r)

/-- The stored value of a register. -/
def State.reg (s : State) (a : Nat) : Word := (regLookup s.regs a).getD (resetOf a)

/-- The state with a register's stored value replaced. -/
def State.setReg (s : State) (a : Nat) (v : Word) : State :=
  { s with regs := if v = resetOf a then regErase a s.regs else regInsert a v s.regs }

/-- Field `f` of a register word. -/
def fieldOf (v : Word) (lo width : Nat) : Nat := v.toNat / 2 ^ lo % 2 ^ width

/-- A field of word `n` of a descriptor. -/
def dword (l : List Word) (n lo w : Nat) : Nat := fieldOf (nth l n 0) lo w

/-- A register word with a field replaced by the low bits of `x`. -/
def withField (v : Word) (lo width x : Nat) : Word :=
  BitVec.ofNat 32 (v.toNat - v.toNat / 2 ^ lo % 2 ^ width * 2 ^ lo + x % 2 ^ width * 2 ^ lo)

/-- The value of a register field. -/
def State.rd (s : State) (f : Fld) : Nat := fieldOf (s.reg f.addr) f.lo f.width

/-- The state with a register field written. -/
def State.wr (s : State) (f : Fld) (x : Nat) : State := s.setReg f.addr (withField (s.reg f.addr) f.lo f.width x)

/-- A one-bit field as a truth value. -/
def State.on (s : State) (f : Fld) : Bool := s.rd f == 1

/-- A one-bit field written from a truth value. -/
def State.wb (s : State) (f : Fld) (b : Bool) : State := s.wr f (b2n b)

/-- A field in two's complement. -/
def State.rdI (s : State) (f : Fld) : Int := sx f.width (s.rd f)

/-- A field written in two's complement. -/
def State.wrI (s : State) (f : Fld) (x : Int) : State := s.wr f (ux f.width x)

/-- A count that saturates at the width of its field. -/
def State.bump (s : State) (f : Fld) (k : Nat) : State := s.wr f (satAdd f.width (s.rd f) k)

/-- The register file without the registers of block `b`, instance `i`; PAGE_CAP holds fuses, which no reset changes (R27). -/
def State.dropBlock (s : State) (b i : Nat) : State :=
  { s with regs := s.regs.filter (fun e => !(pageBase b i 0 ≤ e.1 && e.1 < pageBase b i 0 + 0x10000) || regOff e.1 == 4) }

/-- The RW fields of a register, and those whose write is a command of its own, take a written word's bits. -/
def State.storeRow (s : State) (a : Nat) (v : Word) : State :=
  (fieldsAt a).foldl (fun s f => if f.acc = .rw ∨ f.acc = .ow then s.wr ⟨a, f.lo, f.width⟩ (fieldOf v f.lo f.width) else s) s

/-! ## Interrupts -/

/-- INT_STAT bit `bit` of page `p` is set by a hardware event (R27). -/
def State.irq (s : State) (b i p bit : Nat) : State := s.wr ⟨pageBase b i p + 0x10, bit, 1⟩ 1

/-- The page's line: any bit of INT_STAT AND INT_EN (R38). -/
def State.pageLine (s : State) (b i p : Nat) : Bool :=
  !((s.reg (pageBase b i p + 0x10) &&& s.reg (pageBase b i p + 0x14)) == 0#32)

/-- The PLIC source of a block instance: its pages' lines ORed (R38). -/
def State.blockLine (s : State) (b i : Nat) : Bool :=
  (List.range (blkShape b).2).any (fun p => s.pageLine b i p)

/-! ## Block states (Table 01-5) -/

def stOFF : Nat := 0
def stSTARTING : Nat := 1
def stON : Nat := 2
def stSTOPPING : Nat := 3
def stFAULT : Nat := 4

/-- STATE of a block. -/
def State.st (s : State) (b i : Nat) : Nat := s.rd ⟨pageBase b i 0 + 0x0C, 0, 3⟩

def State.setSt (s : State) (b i v : Nat) : State := s.wr ⟨pageBase b i 0 + 0x0C, 0, 3⟩ v

/-- RESTART_PENDING of a block. -/
def State.rpend (s : State) (b i : Nat) : Bool := s.on ⟨pageBase b i 0 + 0x0C, 3, 1⟩

def State.setRpend (s : State) (b i : Nat) (v : Bool) : State := s.wb ⟨pageBase b i 0 + 0x0C, 3, 1⟩ v

/-- CTL.EN of a block. -/
def State.en (s : State) (b i : Nat) : Bool := s.on ⟨pageBase b i 0 + 0x08, 0, 1⟩

def State.setEn (s : State) (b i : Nat) (v : Bool) : State := s.wb ⟨pageBase b i 0 + 0x08, 0, 1⟩ v

/-- The key of a block in the framework's sets: the base of its page 0. -/
def blkKey (b i : Nat) : Nat := pageBase b i 0

def State.isFaultStop (s : State) (b i : Nat) : Bool := s.fwk.faultStop.contains (blkKey b i)

/-- A block is ON. -/
def State.isOn (s : State) (b i : Nat) : Bool := s.st b i == stON

/-- An update of the framework's own state. -/
def State.updFwk (s : State) (f : FwkState → FwkState) : State := { s with fwk := f s.fwk }

/-- A fault detected in a block (Table 01-5, R34): in STARTING or ON, EN clears and `shut` begins the shut-down as a fault stop;
in STOPPING the shut-down continues as a fault stop; in OFF and FAULT nothing changes here. -/
def State.faultStop (s : State) (b i : Nat) (shut : State → State) : State :=
  if s.st b i = stSTARTING ∨ s.st b i = stON then
    shut (((s.setEn b i false).setSt b i stSTOPPING).updFwk (fun y => { y with faultStop := insertN (blkKey b i) y.faultStop }))
  else if s.st b i = stSTOPPING then
    ((s.setEn b i false).setRpend b i false).updFwk (fun y => { y with faultStop := insertN (blkKey b i) y.faultStop })
  else s

/-! ## Resets of a block (R8, R35) -/

/-- The repair map as the fuses give it (R424), which every reset of the MEM block shows again. -/
def State.repairShow (s : State) : State :=
  if s.on SYS_FUSE_STAT_LOADED then (s.wb MEM_REP_FUSE_OK (s.sys.fuse.ok % 2 == 1)).wr MEM_REP_FUSE_CRC s.sys.fuse.crc else s

/-- The level that consumers see of input `i`: the filtered level, or that of Table 18-11 while the input is STUCK (R521). -/
def State.inActive (s : State) (i : Nat) : Bool :=
  if s.on (BEL_IN_STAT_STUCK i) then i == 1 else s.on (BEL_IN_STAT_LEVEL i)

/-- What a reset leaves standing because it follows a level: LOADED_A and LOADED_B are 1 exactly while MODE is SEEK, SETTLE or FOLLOW (R138),
and SHOCK_HOLD is 1 while SHOCK_N is active (R148). -/
def State.levelShow (s : State) : State :=
  let ld := fun (i : Nat) => let m := s.rd (SRV_MODE_MODE i); m == 2 || m == 3 || m == 4
  let s1 := (s.wb ATB_SRC_LOADED_A (ld 0)).wb ATB_SRC_LOADED_B (ld 1)
  if s.inActive 2 then
    let hold := fun (i : Nat) (v : SrvState) => { v with shockLeft := max v.shockLeft (atLeast1 (s.rd (SRV_SHOCK_HOLD i))) }
    let s2 := (s1.wr (SRV_MODE_SHOCK_HOLD 0) 1).wr (SRV_MODE_SHOCK_HOLD 1) 1
    { s2 with srv := ⟨hold 0 s2.srv.a, hold 1 s2.srv.b⟩ }
  else s1

/-- A block instance returns to reset: its registers, its locks (R8) and its place in the state machine of Table 01-5. -/
def State.blockReset (s : State) (e : Nat × Nat) : State :=
  let k := blkKey e.1 e.2
  let mine := fun (a : Nat) => a / 0x10000 == k / 0x10000
  let s1 := s.dropBlock e.1 e.2
  let s2 : State := { s1 with fwk := { s1.fwk with
      unlocked := s1.fwk.unlocked.filter (fun a => !mine a)
      faultStop := removeN k s1.fwk.faultStop
      softWait := removeN k s1.fwk.softWait
      restart := removeN k s1.fwk.restart
      bistWait := removeN k s1.fwk.bistWait } }
  if e.1 = bMEM then s2.repairShow else s2

/-- What an engine keeps over a soft reset: its coefficients and state regions (R122). -/
def EngState.softReset (x : EngState) : EngState := { coef := x.coef, badPar := x.badPar }

/-- The spires of a class return to reset. -/
def State.spiresReset (s : State) (cls : Nat) : State :=
  { s with spires := s.spires.zipIdx.map (fun e =>
      if (if e.2 < 8 then 0 else if e.2 < 24 then 1 else if e.2 < 28 then 2 else 3) = cls then {} else e.1) }

/-- The state that stands behind the registers of a block instance, and the memories that a soft reset clears (R35, R122, R195, R281, R466;
log entry 41). -/
def State.softUnit (s : State) (b i : Nat) : State :=
  let t : Tower := if i = 0 then .A else .B
  if b = bATB then { s with atb := {} }
  else if b = bSPN then { s with spn := {}, engS := s.engS.softReset }
  else if b = bSRV then
    { s with srv := s.srv.set t { emrg := (s.srv.get t).emrg }
             engA := if i = 0 then s.engA.softReset else s.engA
             engB := if i = 0 then s.engB else s.engB.softReset }
  else if b = bCHN then { s with chn := s.chn.set t {} }
  else if b = bLAN then { s with twr := s.twr.set t { s.twr.get t with lan := {} } }
  else if b = bCPL then { s with twr := s.twr.set t { s.twr.get t with cpl := { rstAt := (s.twr.get t).cpl.rstAt } } }
  else if b = bTWR then { s with twr := s.twr.set t { s.twr.get t with run := none } }
  else if b = bSPR then s.spiresReset i
  else if b = bETH then { s with eth := s.eth.set i {} }
  else if b = bAOT then { s with aot := {} }
  else if b = bMEM then { s with ddr := { s.ddr with log := [], dev := [] } }
  else if b = bCUP then { s with cup := {} }
  else if b = bDMA then { s with dma := {} }
  else if b = bEVR then { s with evr := {} }
  else if b = bFLS then { s with fls := { s.fls with cmd := 0, buf := [], index := 0, step := 0, run := none, held := none } }
  else if b = bBEL then { s with pwr := { s.pwr with hist := [], hi := [], thr := [], ror := [], warn := [], throt := [], shut := [] } }
  else if b = bBTP then { s with sys := { s.sys with fifo := [] } }
  else s

/-- The register reset of a soft reset (R35). -/
def State.softApply (s : State) (b i : Nat) : State := ((s.blockReset (b, i)).softUnit b i).levelShow

/-- A shut-down reaches its end (Table 01-5). DESIGN CHOICE (log entry 59): STOP_DONE and FAULT, which the header table gives to any page, are
set in INT_STAT of page 0 only. -/
def State.shutEnd (s : State) (b i : Nat) : State :=
  if s.st b i = stSTOPPING then
    let s1 := s.irq b i 0 29
    if s.isFaultStop b i then
      let s2 := (s1.irq b i 0 30).setSt b i stFAULT
      (s2.updFwk (fun y => { y with faultStop := removeN (blkKey b i) y.faultStop }))
    else if s.rpend b i then
      let s2 := (s1.setRpend b i false).setSt b i stOFF
      (s2.updFwk (fun y => { y with restart := insertN (blkKey b i) y.restart }))
    else s1.setSt b i stOFF
  else s

/-- A shut-down reaches its end, and with it the register reset of a soft reset that waited (R35). -/
def State.shutDone (s : State) (b i : Nat) : State :=
  if s.st b i = stSTOPPING ∧ s.fwk.softWait.contains (blkKey b i) then (s.shutEnd b i).softApply b i else s.shutEnd b i

/-- A write of CTL.EN = 0 or the shut-down part of a soft reset begins the shut-down of a block that is STARTING or ON. -/
def State.beginStop (s : State) (b i : Nat) : State := (s.setEn b i false).setSt b i stSTOPPING

/-- A write of CTL with EN = 0 (Table 01-5), `stop` being the shut-down actions: in STARTING and ON the shut-down begins, in STOPPING
RESTART_PENDING clears, FAULT returns to OFF, and in the restart cycle the restart is cancelled (R30). -/
def State.disable (s : State) (b i : Nat) (stop : State → State) : State :=
  let v := s.st b i
  let s0 := s.setEn b i false
  if v = stSTARTING ∨ v = stON then stop (s0.beginStop b i)
  else if v = stSTOPPING then s0.setRpend b i false
  else if v = stFAULT then s0.setSt b i stOFF
  else s0.updFwk (fun y => { y with restart := removeN (blkKey b i) y.restart })

/-! ## Memory -/

/-- The byte listed for an address; an unlisted byte reads 0 (log entry 4). -/
def memLookup : List Host.Cell → Nat → Byte
  | [], _ => 0
  | (k, v) :: r, a => if k = a then v else memLookup r a

/-- A byte written into the list in its canonical place. -/
def memInsert (a : Nat) (v : Byte) : List Host.Cell → List Host.Cell
  | [] => [(a, v)]
  | (k, w) :: r => if a < k then (a, v) :: (k, w) :: r else if a = k then (a, v) :: r else (k, w) :: memInsert a v r

def memErase (a : Nat) (l : List Host.Cell) : List Host.Cell := l.filter (fun e => !(e.1 == a))

/-- The canonical form of memory: addresses strictly rising, no entry 0. -/
def memWf : List Host.Cell → Bool
  | [] => true
  | [(_, v)] => !(v == 0#8)
  | (k, v) :: (k', v') :: r => !(v == 0#8) && decide (k < k') && memWf ((k', v') :: r)

/-- One byte of memory. -/
def State.byte (s : State) (a : Nat) : Byte := memLookup s.mem a

/-- One byte of memory written. -/
def State.setByte (s : State) (a : Nat) (v : Byte) : State :=
  { s with mem := if v = 0 then memErase a s.mem else memInsert a v s.mem }

/-- Bytes `a` to `a + n - 1`. -/
def State.bytes (s : State) (a : Nat) : Nat → List Byte
  | 0 => []
  | n + 1 => s.byte a :: s.bytes (a + 1) n

/-- A list of bytes written from `a` upwards. -/
def State.setBytes (s : State) (a : Nat) : List Byte → State
  | [] => s
  | v :: r => (s.setByte a v).setBytes (a + 1) r

/-- The number a list of bytes spells, least significant byte first. -/
def leNat : List Byte → Nat
  | [] => 0
  | b :: r => b.toNat + 256 * leNat r

/-- `n` bytes of a number, least significant byte first. -/
def leBytes : Nat → Nat → List Byte
  | 0, _ => []
  | n + 1, x => BitVec.ofNat 8 x :: leBytes n (x / 256)

/-- The 32-bit word at an address, least significant byte first (log entry 5). -/
def State.word (s : State) (a : Nat) : Word := BitVec.ofNat 32 (leNat (s.bytes a 4))

/-- A 32-bit word stored at an address, least significant byte first. -/
def State.setWord (s : State) (a : Nat) (v : Word) : State := s.setBytes a (leBytes 4 v.toNat)

/-! ## Free values -/

/-- Draw a free value (log entry 2). -/
def State.free (s : State) : Nat := Config.freeNat s.freeCount

/-- The state after a draw. -/
def State.drawn (s : State) : State := { s with freeCount := s.freeCount + 1 }

/-! ## Hardware posts to the event recorder (R524) -/

/-- The drop count of a severity (EVR_DROP_n). -/
def evrDropFld (sev : Nat) : Fld := if sev % 2 = 0 then EVR_DROP_SEV_LO (sev / 2) else EVR_DROP_SEV_HI (sev / 2)

/-- TIME of a record now (Table 19-1): BOOT in [63:48], microseconds in [47:0]. -/
def State.evrTime (s : State) : Nat := s.rd EVR_BOOT_BOOT * 2 ^ 48 + s.fwk.mtime / 25 % 2 ^ 48

/-- A hardware source posts an event: a post that finds the 8-entry queue full, or the block not ON, is dropped and counted. -/
def State.hwPost (s : State) (code sev source : Nat) (payload : List Byte) : State :=
  if s.isOn bEVR 0 && (s.evr.posts.filter (fun p => !p.fw)).length < 8 then
    { s with evr := { s.evr with posts := s.evr.posts ++
        [{ fw := false, code := code, sev := sev, source := source, payload := payload, time := s.evrTime }] } }
  else (s.bump (evrDropFld sev) 1).irq bEVR 0 0 26

/-! ## Activity (R505) and the trace port (R555 to R557) -/

/-- An activity event restarts every idle timer. -/
def State.activity (s : State) : State := { s with pwr := { s.pwr with actAt := s.fwk.aon } }

/-- The trace port sends: its block is ON, DOM_DBG.BTP_EN is 1, the chip is not in approved mode (R556). -/
def State.btpOpen (s : State) : Bool := s.isOn bBTP 0 && s.on DOM_DBG_BTP_EN && !s.on DOM_MSTATE_APPROVED

/-- A packet of a source group of BTP_CFG.SRC_EN is queued, or dropped whole and counted. -/
def State.trace (s : State) (group source kind : Nat) (payload : List Byte) : State :=
  if s.btpOpen && s.rd BTP_CFG_SRC_EN / 2 ^ group % 2 == 1 then
    let p := [0x5A#8, BitVec.ofNat 8 source, BitVec.ofNat 8 kind, BitVec.ofNat 8 payload.length] ++ payload
    if s.sys.fifo.length + p.length ≤ 4096 then
      { (s.wr BTP_STAT_LEVEL (s.sys.fifo.length + p.length)) with sys := { s.sys with fifo := s.sys.fifo ++ p } }
    else s.bump BTP_STAT_DROPPED 1
  else s

/-! ## Admission of register writes -/

/-- The power domain of a block instance (Table 18-4). -/
def domOf (b i : Nat) : Nat :=
  if b = bPWR ∨ b = bCLK ∨ b = bBEL then 0
  else if b = bDOM ∨ b = bFLS then 1
  else if b = bETH ∨ b = bAOT then 2
  else if b = bCHN ∨ b = bLAN ∨ b = bCPL ∨ b = bTWR then 5 + i
  else if b = bMEM then 7
  else if b = bATB ∨ b = bSPN ∨ b = bSRV then 9
  else if b = bBTP then 10
  else 4

/-- The domain is on. -/
def State.powered (s : State) (d : Nat) : Bool := s.rd PWR_DOM_STAT_POWERED / 2 ^ d % 2 == 1

/-- The chip is held in reset (R508, R516), or in the test state of R554: nothing answers. -/
def State.halted (s : State) : Bool := s.pwr.waitRails || s.pwr.thermal || s.sys.test

/-- The page at an address answers: it is implemented (R26) and its domain is on (R500). -/
def State.served (s : State) (a : Nat) : Bool :=
  !s.halted && inRegs a && pageImpl (regBlk a) (regInst a) (regPage a) && s.powered (domOf (regBlk a) (regInst a))

/-- The base of the page of an address. -/
def pageOf (a : Nat) : Nat := a / 0x1000 * 0x1000

/-- The page is unlocked (R8). -/
def State.unlocked (s : State) (a : Nat) : Bool := s.fwk.unlocked.contains (pageOf a)

/-- FUSE_DIS of the page's block instance (R28). -/
def State.fuseDis (s : State) (a : Nat) : Bool := s.on ⟨pageOf a + 4, 31, 1⟩

/-- A soft reset of the block waits for its shut-down (R36). -/
def State.softWaiting (s : State) (a : Nat) : Bool := s.fwk.softWait.contains (blkKey (regBlk a) (regInst a))

/-- A write to the register at `a` is admitted: its page answers, is not disabled by fuse (R28), no soft reset waits (R36), and
for an expert register the page is unlocked (R7). -/
def State.admits (s : State) (a : Nat) : Bool :=
  s.served a && !s.fuseDis a && !s.softWaiting a && (regOff a < 0x100 || s.unlocked a)

/-- A register table of the manual lists the address (R22). -/
def listed (a : Nat) : Bool := !(fieldsAt a).isEmpty

/-- A write to a register: performed when admitted; a write to an expert register of a locked page is ignored and sets LOCKED_WRITE
(R9); any other write that is not admitted changes nothing (R22, R28, R36). -/
def State.gated (s : State) (a : Nat) (f : State → State) : State :=
  if s.admits a then f s
  else if s.served a && !s.fuseDis a && !s.softWaiting a && listed a then s.wr ⟨pageOf a + 0x10, 31, 1⟩ 1
  else s

/-! ## Updates of the units -/

def State.updAtb (s : State) (f : AtbState → AtbState) : State := { s with atb := f s.atb }
def State.updAtbT (s : State) (t : Tower) (f : AtbTower → AtbTower) : State :=
  { s with atb := { s.atb with tw := s.atb.tw.set t (f (s.atb.tw.get t)) } }
def State.updSpn (s : State) (f : SpnState → SpnState) : State := { s with spn := f s.spn }
def State.eng (s : State) : Eng → EngState
  | .srvA => s.engA
  | .srvB => s.engB
  | .spn => s.engS
def State.updEng (s : State) (e : Eng) (f : EngState → EngState) : State :=
  match e with
  | .srvA => { s with engA := f s.engA }
  | .srvB => { s with engB := f s.engB }
  | .spn => { s with engS := f s.engS }
def State.updSrv (s : State) (t : Tower) (f : SrvState → SrvState) : State :=
  { s with srv := s.srv.set t (f (s.srv.get t)) }
def State.updChn (s : State) (t : Tower) (f : ChnState → ChnState) : State :=
  { s with chn := s.chn.set t (f (s.chn.get t)) }
def State.updTwr (s : State) (t : Tower) (f : TwrState → TwrState) : State :=
  { s with twr := s.twr.set t (f (s.twr.get t)) }
def State.updCpl (s : State) (t : Tower) (f : CplState → CplState) : State :=
  s.updTwr t (fun x => { x with cpl := f x.cpl })
def State.updLan (s : State) (t : Tower) (f : LanState → LanState) : State :=
  s.updTwr t (fun x => { x with lan := f x.lan })

/-- The flat number of a spire in State.spires. -/
def spireFlat (sp : Spire) : Nat :=
  if sp.cls = 0 then sp.idx else if sp.cls = 1 then 8 + sp.idx else if sp.cls = 2 then 24 + sp.idx else 28 + sp.idx

/-- The spires of a class. -/
def classSize (c : Nat) : Nat := if c = 0 then 8 else if c = 1 then 16 else 4

/-- The spire exists. -/
def spireValid (sp : Spire) : Bool := sp.cls < 4 && sp.idx < classSize sp.cls

def State.spire (s : State) (sp : Spire) : SpireState := s.spires.getD (spireFlat sp) {}
def State.updSpire (s : State) (sp : Spire) (f : SpireState → SpireState) : State :=
  { s with spires := s.spires.set (spireFlat sp) (f (s.spire sp)) }

/-- Sparse word stores (coefficient memories, trace, PTAB): entries that are not 0. -/
def sparseGet (l : List (Nat × Nat)) (a : Nat) : Nat := (l.find? (fun e => e.1 == a)).elim 0 (·.2)
def sparseSet (l : List (Nat × Nat)) (a v : Nat) : List (Nat × Nat) :=
  let l' := l.filter (fun e => !(e.1 == a))
  if v = 0 then l' else (a, v) :: l'

end Sys2Proof.Machine
end

