-- ==== Sys2Proof/Machine/Evr.lean ====
section
/-! DEFINITION. The event recorder: records, posts, rate limits, the RAM store with its persist ring, clears, start and shut-down. -/

namespace Sys2Proof.Machine

/-! ## Records (R523) -/

/-- A record with its CRC (Table 19-1). -/
def evrRecord (code sev source seq time : Nat) (payload : List Byte) : List Byte :=
  let b := leBytes 2 code ++ leBytes 1 sev ++ leBytes 1 source ++ leBytes 4 seq ++ leBytes 8 time
    ++ (payload ++ List.replicate 40 0#8).take 40 ++ List.replicate 4 0#8
  b ++ leBytes 4 (crcBytes b)

def State.evrIrq (s : State) (bit : Nat) : State := s.irq bEVR 0 0 bit

/-- The address of slot k of the store (R528). -/
def State.evrSlot (s : State) (k : Nat) : Nat := 0x10000000 + s.rd EVR_BASE_BLOCK * 0x40000 + 64 * k

def State.slotCode (s : State) (k : Nat) : Nat := leNat (s.bytes (s.evrSlot k) 2)
def State.slotSev (s : State) (k : Nat) : Nat := (s.byte (s.evrSlot k + 2)).toNat
def State.slotSeq (s : State) (k : Nat) : Nat := leNat (s.bytes (s.evrSlot k + 4) 4)

/-- Slots 0 to 255 form the FATAL area, 256 to 4,095 the general area. -/
def fatalSlots : List Nat := List.range 256
def generalSlots : List Nat := (List.range 3840).map (fun k => 256 + k)

/-- The general record of lowest SEQ among those of the lowest severity up to `sev` (R529). -/
def State.victim (s : State) (sev : Nat) : Option Nat :=
  generalSlots.foldl (fun (best : Option Nat) k =>
    if s.slotCode k = 0 ∨ sev < s.slotSev k then best
    else match best with
      | none => some k
      | some b => if s.slotSev k < s.slotSev b ∨ (s.slotSev k = s.slotSev b ∧ s.slotSeq k < s.slotSeq b) then some k else best) none

/-- Where a record of a severity is stored (R529): the slot, and whether it was empty. -/
def State.evrPlace (s : State) (sev : Nat) : Option (Nat × Bool) :=
  match (if sev = 6 then fatalSlots.find? (fun k => s.slotCode k == 0) else none) with
  | some k => some (k, true)
  | none => match generalSlots.find? (fun k => s.slotCode k == 0) with
    | some k => some (k, true)
    | none => (s.victim sev).map (fun k => (k, false))

/-- The persist ring entry of a stored record (R531). -/
def State.persist (s : State) (slot sev seq : Nat) : State :=
  let prod := s.rd EVR_PRING_PROD_INDEX
  if (prod + 65536 - s.rd EVR_PRING_CONS_INDEX) % 65536 = 1024 then s.evrIrq 24
  else ((s.setWord (s.rd EVR_PRING_BASE_ADDR * 4096 + 4 * (prod % 1024))
      (BitVec.ofNat 32 (seq % 65536 * 65536 + sev % 8 * 4096 + slot))).wr EVR_PRING_PROD_INDEX (prod + 1)).evrIrq 25

/-- A record is stored, or dropped and counted (R526, R529). -/
def State.evrStore (s : State) (code sev source time : Nat) (payload : List Byte) : State :=
  match s.evrPlace sev with
  | none => (s.bump (evrDropFld sev) 1).evrIrq 26
  | some (k, fresh) =>
    let seq := s.rd EVR_SEQ_NEXT
    let s1 := (s.setBytes (s.evrSlot k) (evrRecord code sev source seq time payload)).wr EVR_SEQ_NEXT (seq + 1)
    let s2 := if fresh = false then s1 else if k < 256 then s1.wr EVR_OCC_FATAL (s.rd EVR_OCC_FATAL + 1)
      else s1.wr EVR_OCC_GENERAL (s.rd EVR_OCC_GENERAL + 1)
    let s3 := if s.rd EVR_CFG_IRQ_SEV ≤ sev then s2.evrIrq 28 else s2
    (if sev = 6 then s3.evrIrq 27 else s3).persist k sev seq

/-! ## Rate limits (R527, R528) -/

def State.updEvr (s : State) (f : EvrState → EvrState) : State := { s with evr := f s.evr }

def State.rateEntry (s : State) (n : Nat) : RateEntry := ((s.evr.rate.find? (fun (e : Nat × RateEntry) => e.1 == n)).map (fun e => e.2)).getD {}

def State.setRate (s : State) (n : Nat) (x : RateEntry) : State :=
  s.updEvr (fun v => { v with rate := (n, x) :: v.rate.filter (fun e => !(e.1 == n)) })

/-- A full bucket, in 1/25,000,000 token. -/
def RateEntry.full (x : RateEntry) : Nat := atLeast1 x.burst * 25000000

/-- The bucket as it stands at an mtime: tokens accrue at RATE per second up to BURST. -/
def RateEntry.at (x : RateEntry) (now : Nat) : RateEntry :=
  { x with tokens := min x.full (x.tokens + atLeast1 x.rate * (now - x.since)), since := now }

/-- The lowest-indexed enabled entry of a code; FATAL records and codes 0x0100 to 0x01FF match none. -/
def State.rateMatch (s : State) (code sev : Nat) : Option Nat :=
  if sev = 6 ∨ code / 256 = 1 then none
  else (List.range 256).find? (fun n => (s.rateEntry n).en && (s.rateEntry n).code == code)

/-- R527 on one record: stored, or suppressed. -/
def State.evrPass (s : State) (code sev source time : Nat) (payload : List Byte) : State :=
  match s.rateMatch code sev with
  | none => s.evrStore code sev source time payload
  | some n =>
    let x := (s.rateEntry n).at s.fwk.mtime
    if 25000000 ≤ x.tokens then (s.setRate n { x with tokens := x.tokens - 25000000 }).evrStore code sev source time payload
    else s.setRate n { x with
      count := satAdd 16 x.count 1, maxsev := max x.maxsev sev, first := if x.count = 0 then time else x.first, last := time }

/-- The payload of a SUPPRESSED record (R528). -/
def RateEntry.summary (x : RateEntry) : List Byte := leBytes 2 x.code ++ leBytes 4 x.count ++ leBytes 8 x.first ++ leBytes 8 x.last

/-- R528: a rate entry's tokens reach BURST with suppressed records. -/
def execRateTokensFull (n : Nat) (s : State) : Out :=
  let x := (s.rateEntry n).at s.fwk.mtime
  .next (if 256 ≤ n ∨ x.count = 0 ∨ x.tokens < x.full then s
    else ((s.setRate n { x with count := 0, maxsev := 0 }).hwPost 0x0101 x.maxsev 5 x.summary).evrIrq 22)

/-- R527: a write of EVR_RL_CFG: the selected entry takes CODE, BURST and EN; EN = 1 fills its bucket. -/
def State.rlCfg (s : State) (val : Word) : State :=
  let n := s.rd EVR_RL_SEL_ENTRY
  let x := (s.rateEntry n).at s.fwk.mtime
  let y := { x with code := fieldOf val 16 16, burst := fieldOf val 8 8, en := fieldOf val 0 1 == 1 }
  s.setRate n (if y.en then { y with tokens := y.full } else y)

/-- A write of EVR_RL_RATE. -/
def State.rlRate (s : State) (val : Word) : State :=
  let n := s.rd EVR_RL_SEL_ENTRY
  s.setRate n { (s.rateEntry n).at s.fwk.mtime with rate := fieldOf val 0 16 }

/-- R527: a write of a rate entry. -/
def execRateEntryWrite (val : Word) (s : State) : Out := .next (s.gated EVR_RL_CFG (fun s => s.rlCfg val))

/-! ## Posts (R524 to R526) -/

/-- R524: a hardware source posts an event. -/
def execHwEventPost (code sev source : Nat) (payload : List Byte) (s : State) : Out :=
  .next (if code = 0 ∨ 6 < sev then s else s.hwPost code sev source payload)

/-- A refused firmware post. -/
def State.postRefused (s : State) : State := (s.bump EVR_POST_STAT_REFUSED 1).evrIrq 23

/-- A write of EVR_POST (R525). -/
def State.evrPostWrite (s : State) (val : Word) : State :=
  if s.isOn bEVR 0 ∧ s.rd EVR_POST_STAT_DEPTH < 16 then
    (s.updEvr (fun v => { v with posts := v.posts ++ [{ fw := true, img := true, addr := fieldOf val 6 26 * 64, time := s.evrTime }] })).wr
      EVR_POST_STAT_DEPTH (s.rd EVR_POST_STAT_DEPTH + 1)
  else s.postRefused

/-- R525: a write of EVR_POST. -/
def execEvrPost (val : Word) (s : State) : Out := .next (s.gated EVR_POST (fun s => s.evrPostWrite val))

/-- A post with the fields of its record; a firmware image is read now. -/
def State.postRead (s : State) (p : EvrPost) : EvrPost :=
  if p.img then
    let b := s.bytes p.addr 64
    { p with code := leNat (b.take 2), sev := leNat ((b.drop 2).take 1) % 8, source := 128 + leNat ((b.drop 3).take 1) % 128,
             payload := (b.drop 16).take 40 }
  else p

/-- One post leaves the front of the queue. -/
def State.takePost (s : State) : State :=
  match s.evr.posts with
  | [] => s
  | p :: rest =>
    let s1 := s.updEvr (fun v => { v with posts := rest })
    let s2 := if p.fw then s1.wr EVR_POST_STAT_DEPTH (s.rd EVR_POST_STAT_DEPTH - 1) else s1
    let q := s.postRead p
    if p.fw ∧ (q.code = 0 ∨ q.code / 256 = 1 ∨ q.sev = 7) then s2.postRefused
    else s2.evrPass q.code q.sev q.source q.time q.payload

/-- R526: the next queued post is taken. -/
def execPostTaken (s : State) : Out := .next (if s.isOn bEVR 0 then s.takePost else s)

/-! ## Clears (R530) -/

/-- CODE 0 is written to every slot of a list that is not empty. -/
def State.emptySlots (s : State) (l : List Nat) : State :=
  l.foldl (fun s k => if s.slotCode k = 0 then s else s.setBytes (s.evrSlot k) [0#8, 0#8]) s

/-- The areas named are emptied, then a CLEARED record is stored. -/
def State.evrClear (s : State) (gen fatal : Bool) : State :=
  let s1 := if gen then (s.emptySlots generalSlots).wr EVR_OCC_GENERAL 0 else s
  let s2 := if fatal then (s1.emptySlots fatalSlots).wr EVR_OCC_FATAL 0 else s1
  if gen || fatal then s2.evrStore 0x0102 2 5 s.evrTime [BitVec.ofNat 8 (b2n gen + 2 * b2n fatal)] else s2

/-- A write of EVR_CMD from a fabric port. -/
def State.evrCmd (s : State) (port : Nat) (val : Word) : State :=
  let s1 := if fieldOf val 2 1 = 1 then
      ((List.range 4).foldl (fun s n => s.setReg (EVR_DROP n) 0) s).wr EVR_POST_STAT_REFUSED 0 else s
  let fatal := fieldOf val 1 1 == 1
  let s2 := s1.evrClear (fieldOf val 0 1 == 1) (fatal && port == 13)
  if fatal && !(port == 13) then s2.evrIrq 21 else s2

/-- R530: a write of CLR_FATAL. -/
def execClrFatal (port : Nat) (val : Word) (s : State) : Out :=
  .next (s.gated EVR_CMD (fun s => s.evrCmd port (withField val 1 1 1)))

/-- R530: a write of CLR_GEN. -/
def execClrGen (port : Nat) (val : Word) (s : State) : Out :=
  .next (s.gated EVR_CMD (fun s => s.evrCmd port (withField val 0 1 1)))

/-- R524: a write of EVR_CMD.CNT_CLR alone. -/
def execEvrCntClr (val : Word) (s : State) : Out :=
  .next (s.gated EVR_CMD (fun s => s.evrCmd 13 (withField (withField (withField val 2 1 1) 1 1 0) 0 1 0)))

/-- A write of EVR_BASE, EVR_BOOT or EVR_SEQ while STATE is not OFF is ignored. -/
def State.evrSetup (s : State) (a : Nat) (val : Word) : State :=
  if s.st bEVR 0 = stOFF then s.storeRow a val else s.evrIrq 21

/-! ## Start and shut-down (R534) -/

/-- A slot is valid. -/
def State.slotValid (s : State) (k : Nat) : Bool :=
  let b := s.bytes (s.evrSlot k) 64
  crcBytes (b.take 60) == leNat (b.drop 60) && !(s.slotCode k == 0) && decide (s.slotSev k ≤ 6) && (decide (256 ≤ k) || s.slotSev k == 6)

/-- The start actions: every slot that is not valid is emptied, EVR_SEQ passes the highest valid SEQ, and REBUILT is stored. -/
def State.evrStart (s : State) : State :=
  let ok := (List.range 4096).filter s.slotValid
  let bad := (List.range 4096).filter (fun k => !(s.slotValid k) && !(s.slotCode k == 0))
  let top := ok.foldl (fun m k => max m (s.slotSeq k + 1)) (s.rd EVR_SEQ_NEXT)
  let s1 := ((s.emptySlots bad).wr EVR_SEQ_NEXT top).wr EVR_OCC_FATAL (ok.filter (fun k => decide (k < 256))).length
  let s2 := (s1.wr EVR_OCC_GENERAL (ok.filter (fun k => decide (256 ≤ k))).length).updEvr (fun v => { v with posts := [] })
  (s2.evrStore 0x0103 1 5 s.evrTime (leBytes 2 ok.length ++ leBytes 2 bad.length)).evrIrq 20

/-- The queued posts are completed. -/
def State.takeAll (s : State) : Nat → State
  | 0 => s
  | n + 1 => s.takePost.takeAll n

/-- The shut-down: queued posts, the summaries of R528, and the end; the block never enters FAULT. -/
def State.evrStop (s : State) : State :=
  let s1 := s.takeAll s.evr.posts.length
  let due := (List.range 256).filter (fun n => !((s1.rateEntry n).count == 0))
  (due.foldl (fun s n =>
    let x := s.rateEntry n
    ((s.setRate n { x with count := 0, maxsev := 0 }).evrStore 0x0101 x.maxsev 5 s.evrTime x.summary).evrIrq 22) s1).shutDone bEVR 0

end Sys2Proof.Machine
end

