-- ==== Sys2Proof/Machine/Ddr.lean ====
section
/-! DEFINITION. Main memory: the symbol codes, reads and writes with correction, patrol scrub, the error log and counts, training,
initialisation and fault injection. The data bytes of DRAM stand in memory; what the stored bits differ from a code word stands in
DdrState.err. -/

namespace Sys2Proof.Machine

def State.updDdr (s : State) (f : DdrState → DdrState) : State := { s with ddr := f s.ddr }
def State.memIrq (s : State) (bit : Nat) : State := s.irq bMEM 0 0 bit

/-- The base of the DDR4 window (Table 01-3). -/
def ddrBase : Nat := 0x1000000000

/-! ## Configuration (R405, R414) -/

/-- Populated GiB of a configuration of Table 14-1; none for one it does not list. -/
def State.ddrSize (s : State) : Option Nat :=
  let two := s.rd MEM_CFG_RANKS == 1
  match s.rd MEM_CFG_WIDTH, s.rd MEM_CFG_DENSITY with
  | 0, 0 => some (if two then 64 else 32)
  | 0, 1 => if two then none else some 64
  | 1, 0 => some (if two then 32 else 16)
  | 1, 1 => some (if two then 64 else 32)
  | _, _ => none

/-- The controller runs in byte-parity mode (R414); a loop-back counts from the start that took it (R551). -/
def State.ddrParity (s : State) : Bool :=
  s.st bMEM 0 == stSTARTING || !(s.ddr.loopNow == 0) || s.on MEM_CFG_MODE

/-- x8 devices. -/
def State.ddrX8 (s : State) : Bool := s.on MEM_CFG_WIDTH

def State.ddrDevs (s : State) : Nat := if s.ddrX8 then 18 else 36

/-- The marked device (R409). -/
def State.ddrMark (s : State) : Option Nat :=
  if s.on MEM_CFG_MARK_EN ∧ s.rd MEM_CFG_MARK_DEV < s.ddrDevs then some (s.rd MEM_CFG_MARK_DEV) else none

/-! ## Lanes and symbols (R406 to R408) -/

/-- The lane of bit 0 of data byte j of a beat. -/
def byteLane (j : Nat) : Nat := if j < 8 then 8 * j else 72 + 8 * (j - 8)

/-- Data byte j of a lane mask. -/
def laneByte (m j : Nat) : Nat := m / 2 ^ byteLane j % 256

/-- The exponent of x at which a device's symbol stands (Table 14-2). -/
def symPos (x8 : Bool) (d : Nat) : Nat :=
  if x8 then (if d < 8 then d + 2 else if d = 8 then 0 else if d = 17 then 1 else d + 1)
  else if d < 16 then d + 4 else if d = 16 then 0 else if d = 17 then 1 else if d = 34 then 2 else if d = 35 then 3 else d + 2

/-- Beats of code word c. -/
def cwBeats (x8 : Bool) (c : Nat) : List Nat := if x8 then [c] else [2 * c, 2 * c + 1]

/-- Code words of a burst. -/
def cwCount (x8 : Bool) : Nat := if x8 then 8 else 4

/-- The symbol of device d in code word c, from the lane masks of the eight beats. -/
def symOf (x8 : Bool) (ms : List Nat) (c d : Nat) : Nat :=
  if x8 then nth ms c 0 / 2 ^ (8 * d) % 256
  else nth ms (2 * c) 0 / 2 ^ (4 * d) % 16 + 16 * (nth ms (2 * c + 1) 0 / 2 ^ (4 * d) % 16)

/-- The lane masks of a list of symbols by device, for the beats of one code word. -/
def symMasks (x8 : Bool) (l : List Nat) : List Nat :=
  if x8 then [l.zipIdx.foldl (fun a e => a + e.1 * 2 ^ (8 * e.2)) 0]
  else [l.zipIdx.foldl (fun a e => a + e.1 % 16 * 2 ^ (4 * e.2)) 0, l.zipIdx.foldl (fun a e => a + e.1 / 16 * 2 ^ (4 * e.2)) 0]

/-- The powers of α = 0x02. -/
def gfPow (n : Nat) : Nat := (List.range (n % 255)).foldl (fun x _ => gfDouble x) 1

/-- Syndrome j of a list of error symbols by device. -/
def syndrome (x8 : Bool) (l : List Nat) (j : Nat) : Nat :=
  l.zipIdx.foldl (fun a e => if e.1 = 0 then a else Nat.xor a (gfMul e.1 (gfPow (j * symPos x8 e.2)))) 0

/-- A pattern of symbols (device, value) has the syndromes given. -/
def patFits (x8 : Bool) (syn : List Nat) (pat : List (Nat × Nat)) : Bool :=
  syn.zipIdx.all (fun e => pat.foldl (fun a p => Nat.xor a (gfMul p.2 (gfPow (e.2 * symPos x8 p.1)))) 0 == e.1)

/-- The two symbols at devices p and q that give syndromes 0 and 1. -/
def solvePair (x8 : Bool) (syn : List Nat) (p q : Nat) : List (Nat × Nat) :=
  let xp := gfPow (symPos x8 p)
  let xq := gfPow (symPos x8 q)
  let eq := gfMul (Nat.xor (nth syn 1 0) (gfMul (nth syn 0 0) xp)) (gfInv (Nat.xor xp xq))
  [(p, Nat.xor (nth syn 0 0) eq), (q, eq)]

/-- The error pattern that the decoder finds within the limits of Table 14-2; none when there is none (R409). -/
def rsDecode (x8 : Bool) (mark : Option Nat) (syn : List Nat) : Option (List (Nat × Nat)) :=
  let n := if x8 then 18 else 36
  let nz := fun (l : List (Nat × Nat)) => l.filter (fun e => !(e.2 == 0))
  if syn.all (· == 0) then some []
  else
    let one := match mark with
      | some m => [[(m, nth syn 0 0)]]
      | none => (List.range n).map (fun d => [(d, nth syn 0 0)])
    match one.find? (patFits x8 syn) with
    | some p => some (nz p)
    | none =>
      if x8 then none
      else
        let two := match mark with
          | some m => ((List.range n).filter (fun d => !(d == m))).map (fun d => solvePair x8 syn m d)
          | none => (List.range n).flatMap (fun a => (List.range a).map (fun b => solvePair x8 syn b a))
        (two.find? (patFits x8 syn)).map nz

/-! ## The log and the counts (R420, R421) -/

/-- One event enters the log. -/
def State.memLog (s : State) (kind source port cw syms bytes burst : Nat) : State :=
  if 16 ≤ s.ddr.log.length then
    (if s.rd MEM_LOG_STAT_LOST = 0 then s.memIrq 24 else s).bump MEM_LOG_STAT_LOST 1
  else
    let w : List Word := [BitVec.ofNat 32 burst, BitVec.ofNat 32 (kind * 2 ^ 28 + source * 2 ^ 24 + port % 16 * 2 ^ 20 + cw * 2 ^ 16 + syms),
      BitVec.ofNat 32 bytes, BitVec.ofNat 32 s.fwk.mtime]
    (s.updDdr (fun d => { d with log := d.log ++ [w] })).wr MEM_LOG_STAT_COUNT (s.ddr.log.length + 1)

/-- A symbol corrected on a device. -/
def State.devCorrected (s : State) (d : Nat) : State :=
  let n := satAdd 16 (sparseGet s.ddr.dev d) 1
  let s1 := s.updDdr (fun x => { x with dev := sparseSet x.dev d n })
  if n = atLeast1 (s.rd MEM_DEV_THR_THR) then
    (s1.wr (if d < 32 then ⟨MEM_DEV_OVER_LO, d, 1⟩ else ⟨MEM_DEV_OVER_HI, d - 32, 1⟩) 1).memIrq 25
  else s1

/-- SYM_A and SYM_B of a log entry, lower device first. -/
def logSyms (l : List Nat) : Nat :=
  match l with
  | [] => 0
  | [a] => 128 + a
  | a :: b :: _ => 128 + min a b + 256 * (128 + max a b)

/-- A corrected code word: log, counts and interrupt. -/
def State.ceEvent (s : State) (source port cw burst : Nat) (pat : List (Nat × Nat)) : State :=
  let devs := pat.map (·.1)
  devs.foldl (fun s d => s.devCorrected d) (((s.memLog 1 source port cw (logSyms devs) 0 burst).bump MEM_CNT_CE_COUNT 1).memIrq 28)

/-- An uncorrectable code word. -/
def State.ueEvent (s : State) (kind source port cw burst : Nat) : State :=
  ((s.memLog kind source port cw 0 0 burst).bump MEM_CNT_UE_COUNT 1).memIrq 27

/-! ## Bursts -/

/-- The lane masks of a burst. -/
def State.burstErr (s : State) (b : Nat) : List Nat := (List.range 8).map (fun i => sparseGet s.ddr.err (8 * b + i))

def State.setErr (s : State) (b i m : Nat) : State := s.updDdr (fun d => { d with err := sparseSet d.err (8 * b + i) m })

/-- A beat's data bytes with a lane mask applied. -/
def xorBeat (l : List Byte) (m : Nat) : List Byte := l.zipIdx.map (fun e => e.1 ^^^ BitVec.ofNat 8 (laneByte m e.2))

def State.beatBytes (s : State) (b i : Nat) : List Byte := s.bytes (ddrBase + 128 * b + 16 * i) 16

/-- What the decoder makes of code word c of a burst: the pattern it corrects (none: uncorrectable) and the lane masks, beat by beat, of what
then still differs from the data. -/
def State.cwDecode (s : State) (b c : Nat) : Option (List (Nat × Nat)) × List Nat :=
  let x8 := s.ddrX8
  let errs := (List.range s.ddrDevs).map (symOf x8 (s.burstErr b) c)
  let syn := (List.range (if x8 then 2 else 4)).map (syndrome x8 errs)
  match rsDecode x8 s.ddrMark syn with
  | none => (none, [])
  | some pat =>
    (some pat, symMasks x8 (errs.zipIdx.map (fun e => Nat.xor e.1 (pat.foldl (fun a p => if p.1 = e.2 then Nat.xor a p.2 else a) 0))))

/-- The events of decoding a burst (R410, R411): one code word after the other. -/
def State.burstEvents (s : State) (b source port : Nat) : State :=
  (List.range (cwCount s.ddrX8)).foldl (fun s c =>
    match (s.cwDecode b c).1 with
    | none => s.ueEvent 2 source port c b
    | some [] => s
    | some pat => s.ceEvent source port c b pat) s

/-- Corrected code words are written back: the data takes what the decoder delivered and the stored bits become that code word. -/
def State.cwWriteBack (s : State) (b c : Nat) : State :=
  match s.cwDecode b c with
  | (some _, ms) =>
    (cwBeats s.ddrX8 c).zipIdx.foldl (fun s e =>
      (s.setBytes (ddrBase + 128 * b + 16 * e.1) (xorBeat (s.beatBytes b e.1) (nth ms e.2 0))).setErr b e.1 0) s
  | (none, _) => s

/-- A code word that the decoder corrects, or none. -/
def State.cwBad (s : State) (b c : Nat) : Bool := (s.cwDecode b c).1.isNone
def State.cwFixed (s : State) (b c : Nat) : Bool := (s.cwDecode b c).1.elim false (fun p => !p.isEmpty)

/-- Bytes of a parity beat that fail (R413). -/
def parityFails (m : Nat) : Nat :=
  (List.range 16).foldl (fun a j =>
    let lane := if j < 8 then 64 + j else 128 + j
    let ones := ((List.range 8).filter (fun i => m / 2 ^ (byteLane j + i) % 2 == 1)).length + m / 2 ^ lane % 2
    if ones % 2 = 1 then a + 2 ^ j else a) 0

/-- Byte k of DDR was written in byte-parity mode. -/
def State.bytePar (s : State) (k : Nat) : Bool := !(s.ddr.parity.contains k == s.ddr.allPar)

/-- Bytes of a beat that were written in byte-parity mode, one bit each. -/
def State.parBytes (s : State) (b i : Nat) : Nat :=
  (List.range 16).foldl (fun a j => if s.bytePar (128 * b + 16 * i + j) then a + 2 ^ j else a) 0

/-- The failing bytes of a beat that is read in byte-parity mode (R413). -/
def State.beatFails (s : State) (b i : Nat) : Nat := Nat.land (parityFails (sparseGet s.ddr.err (8 * b + i))) (s.parBytes b i)

/-- The data of a beat with the bytes written in the other mode than the present one undefined (R413). -/
def State.otherMode (s : State) (b i : Nat) (l : List Byte) : List Byte :=
  l.zipIdx.map (fun e => if s.bytePar (128 * b + 16 * i + e.2) = s.ddrParity then e.1
    else BitVec.ofNat 8 (s.free / 2 ^ (128 * (8 * (b % 32) + i) + 8 * e.2)))

/-- The data of a beat as the fabric receives it, and whether it gets the error response. -/
def State.beatRead (s : State) (b i : Nat) : List Byte × Bool :=
  if s.ddrParity then
    (s.otherMode b i (xorBeat (s.beatBytes b i) (sparseGet s.ddr.err (8 * b + i))), !(s.beatFails b i == 0))
  else
    let c := if s.ddrX8 then i else i / 2
    match s.cwDecode b c with
    | (none, _) => (List.replicate 16 0#8, true)
    | (some _, ms) => (s.otherMode b i (xorBeat (s.beatBytes b i) (nth ms (if s.ddrX8 then 0 else i % 2) 0)), false)

/-- The events and the write-back of reading a burst. -/
def State.burstRead (s : State) (b source port : Nat) : State :=
  if s.ddrParity then
    (List.range 8).foldl (fun s i =>
      let f := s.beatFails b i
      if f = 0 then s
      else ((s.memLog 3 source port i 0 f b).bump MEM_CNT_PAR_PARITY 1).memIrq 26) s
  else
    let cws := List.range (cwCount s.ddrX8)
    let s1 := s.burstEvents b source port
    if cws.any (s.cwBad b) then s1 else (cws.filter (s.cwFixed b)).foldl (fun s c => s.cwWriteBack b c) s1

/-- The address lies in populated memory. -/
def State.ddrIn (s : State) (a : Nat) : Bool := decide (ddrBase ≤ a) && decide (a < ddrBase + s.rd MEM_STAT_SIZE * 2 ^ 30)

/-- The beats of 32 bytes that an access touches. -/
def beats32 (a n : Nat) : List Nat := (List.range ((a + n + 31) / 32 - a / 32)).map (fun k => a / 32 + k)

/-- An access that DDR does not serve: STATE not ON (R418), INIT running (R416), or outside populated memory. -/
def State.ddrRefused (s : State) (a n : Nat) : Bool :=
  !(s.isOn bMEM 0) || s.on MEM_STAT_INIT_BUSY || !(s.ddrIn a) || !(s.ddrIn (a + n - 1))

/-- The count of R416. -/
def State.ddrRefuse (s : State) : State := if s.isOn bMEM 0 ∧ s.on MEM_STAT_INIT_BUSY then s.bump MEM_CNT_PAR_REFUSED 1 else s

/-- A fabric read of n bytes that stays in one burst: the state, and the response (R410, R411). -/
def State.ddrReadOp (s : State) (port a n : Nat) : State × Resp :=
  if s.ddrRefused a n then (s.ddrRefuse, { data := List.replicate n 0#8, err := beats32 a n })
  else
    let b := (a - ddrBase) / 128
    let off := (a - ddrBase) % 128
    let rs := (List.range 8).map (s.beatRead b)
    let data := (((rs.flatMap (·.1)).drop off).take n)
    let bad := (beats32 a n).filter (fun k => (nth rs (2 * (k % 4)) ([], false)).2 || (nth rs (2 * (k % 4) + 1) ([], false)).2)
    (s.drawn.burstRead b 0 port, { data := data, err := bad })

/-- The mask armed by R422 is applied to the burst write that issues now, and the registers clear. -/
def State.ddrFlip (s : State) (b : Nat) : State :=
  if s.on MEM_ECC_FLIP_4_ARM then
    let m := (List.range 4).foldl (fun a n => a + s.rd (MEM_ECC_FLIP_LANES n) * 2 ^ (32 * n)) 0 + s.rd MEM_ECC_FLIP_4_LANES * 2 ^ 128
    let i := s.rd MEM_ECC_FLIP_4_BEAT
    let s1 := s.setErr b i (Nat.xor (sparseGet s.ddr.err (8 * b + i)) m)
    ((List.range 4).foldl (fun s n => s.setReg (MEM_ECC_FLIP n) 0) s1).setReg MEM_ECC_FLIP_4 0
  else s

/-- Beats of a burst that a write of n bytes from offset off touches, and code words that it touches or covers. -/
def touchedCws (x8 : Bool) (off n : Nat) : List Nat :=
  let w := if x8 then 16 else 32
  (List.range (cwCount x8)).filter (fun c => decide (w * c < off + n) && decide (off < w * (c + 1)))

def coveredCw (x8 : Bool) (off n c : Nat) : Bool :=
  let w := if x8 then 16 else 32
  decide (off ≤ w * c) && decide (w * (c + 1) ≤ off + n)

/-- The bytes that a write stores carry the check lanes of the present mode. -/
def State.markMode (s : State) (b off n : Nat) : State :=
  let is := (List.range n).map (fun j => 128 * b + off + j)
  let rest := s.ddr.parity.filter (fun k => !(is.contains k))
  s.updDdr (fun d => { d with parity := if s.ddrParity = d.allPar then rest else is ++ rest })

/-- A lane mask without the lanes of byte j and its check lane. -/
def maskWithout (m j : Nat) : Nat :=
  let lane := if j < 8 then 64 + j else 128 + j
  m - laneByte m j * 2 ^ byteLane j - m / 2 ^ lane % 2 * 2 ^ lane

/-- Bytes that byte-parity mode stores match their data and parity lanes again. -/
def State.freshBytes (s : State) (b off n : Nat) : State :=
  (List.range n).foldl (fun s j => let i := (off + j) / 16
    s.setErr b i (maskWithout (sparseGet s.ddr.err (8 * b + i)) ((off + j) % 16))) s

/-- A fabric write that stays in one burst: the state, and whether it was performed (R412). -/
def State.ddrWriteOp (s : State) (port a : Nat) (l : List Byte) : State × Bool :=
  let n := l.length
  if n = 0 ∨ s.ddrRefused a n then (s.ddrRefuse, false)
  else
    let b := (a - ddrBase) / 128
    let off := (a - ddrBase) % 128
    let x8 := s.ddrX8
    if s.ddrParity then
      (((((s.freshBytes b off n).setBytes a l).markMode b off n)).ddrFlip b, true)
    else
      let hit := touchedCws x8 off n
      let clear := fun (s : State) (cs : List Nat) => (cs.flatMap (cwBeats x8)).foldl (fun s i => s.setErr b i 0) s
      if hit.all (coveredCw x8 off n) then ((((clear s hit).setBytes a l).markMode b off n).ddrFlip b, true)
      else
        let cws := List.range (cwCount x8)
        let bad := cws.filter (s.cwBad b)
        let s1 := cws.foldl (fun s c =>
          match (s.cwDecode b c).1 with
          | none => s.ueEvent (if hit.contains c then 4 else 2) 1 port c b
          | some [] => s
          | some pat => s.ceEvent 1 port c b pat) s
        if bad.any (fun c => hit.contains c) then (s1, false)
        else
          let s2 := (cws.filter (fun c => hit.contains c || (s.cwFixed b c && bad.isEmpty))).foldl (fun s c => s.cwWriteBack b c) s1
          (((s2.setBytes a l).markMode b off n).ddrFlip b, true)

/-- R410, R411: a DDR read burst; n is cut at the end of the burst. -/
def execDdrRead (port addr n : Nat) (s : State) : Out :=
  let r := s.ddrReadOp port addr (min n (128 - addr % 128))
  .next { r.1 with resp := some r.2 }

/-! ## Initialisation, scrub, log and counts -/

/-- A write of MEM_CMD. -/
def State.memCmd (s : State) (val : Word) : State :=
  let s1 := if fieldOf val 1 1 = 1 then
      ((((s.setReg MEM_CNT_CE 0).setReg MEM_CNT_UE 0).setReg MEM_CNT_PAR 0).updDdr (fun d => { d with dev := [] })) else s
  if fieldOf val 0 1 = 0 then s1
  else if s.isOn bMEM 0 = false ∨ s.on MEM_STAT_INIT_BUSY then s1.memIrq 21
  else s1.wr MEM_STAT_INIT_BUSY 1

/-- R416: a write of MEM_CMD.INIT. -/
def execMemInit (val : Word) (s : State) : Out := .next (s.gated MEM_CMD (fun s => s.memCmd (withField val 0 1 1)))

/-- R421: a write of MEM_CMD.CNT_CLR. -/
def execMemCntClr (val : Word) (s : State) : Out := .next (s.gated MEM_CMD (fun s => s.memCmd (withField val 1 1 1)))

/-- Memory without the bytes of the DDR window from `lo` up to `hi`: they read 0. -/
def State.ddrZero (s : State) (lo hi : Nat) : State :=
  { s with mem := s.mem.filter (fun e => !(decide (ddrBase + lo ≤ e.1) && decide (e.1 < ddrBase + hi))) }

/-- R416: INIT ends with zero data and valid check symbols everywhere. -/
def execMemInitDone (s : State) : Out :=
  .next (if s.on MEM_STAT_INIT_BUSY then
    ((((s.ddrZero 0 (s.rd MEM_STAT_SIZE * 2 ^ 30)).updDdr (fun d => { d with
      err := [], parity := [], allPar := s.ddrParity })).wr MEM_STAT_INIT_BUSY 0).wr MEM_STAT_INIT_DONE 1).memIrq 23
  else s)

/-- The scrubber runs (R419). -/
def State.scrubOn (s : State) : Bool :=
  s.on MEM_SCRUB_EN && s.isOn bMEM 0 && s.on MEM_STAT_INIT_DONE && !(s.on MEM_STAT_INIT_BUSY)

/-- R419: the patrol scrubber reads the next burst. -/
def execScrubRead (s : State) : Out :=
  if s.scrubOn = false then .next s
  else
    let b := s.rd MEM_SCRUB_POS_BURST
    let s1 := s.burstRead b 2 0
    .next (if s.rd MEM_STAT_SIZE * 2 ^ 23 ≤ b + 1 then ((s1.wr MEM_SCRUB_POS_BURST 0).bump MEM_SCRUB_PASS_PASSES 1).memIrq 22
      else s1.wr MEM_SCRUB_POS_BURST (b + 1))

/-- A write of MEM_LOG_POP. -/
def State.memPop (s : State) (val : Word) : State :=
  if fieldOf val 0 1 = 1 then (s.updDdr (fun d => { d with log := d.log.drop 1 })).wr MEM_LOG_STAT_COUNT (s.ddr.log.length - 1) else s

/-- R420: a write of MEM_LOG_POP removes the oldest entry. -/
def execMemLogPop (val : Word) (s : State) : Out := .next (s.gated MEM_LOG_POP (fun s => s.memPop val))

/-- R422: a write of MEM_ECC_FLIP_4 with ARM arms the mask. -/
def execEccFlipArm (val : Word) (s : State) : Out :=
  .next (s.gated MEM_ECC_FLIP_4 (fun s => s.storeRow MEM_ECC_FLIP_4 (withField val 31 1 1)))

/-- A write of MEM_CFG: one that changes WIDTH, DENSITY or RANKS outside OFF and FAULT is ignored; a change into symbol mode clears
INIT_DONE. -/
def State.memCfg (s : State) (val : Word) : State :=
  let moves := !(fieldOf val 0 1 == s.rd MEM_CFG_WIDTH) || !(fieldOf val 1 2 == s.rd MEM_CFG_DENSITY) || !(fieldOf val 4 1 == s.rd MEM_CFG_RANKS)
  if moves ∧ ¬ s.st bMEM 0 = stOFF ∧ ¬ s.st bMEM 0 = stFAULT then s.memIrq 21
  else
    let s1 := s.storeRow MEM_CFG val
    if s.ddrParity ∧ s1.ddrParity = false then s1.wr MEM_STAT_INIT_DONE 0 else s1

/-! ## Start and shut-down (R405, R417, R418) -/

def mCONFIG : Nat := 1
def mTRAIN : Nat := 2

/-- A fault stop of the MEM block. -/
def State.memFault (s : State) (cause : Nat) : State :=
  ((s.wr MEM_STAT_CAUSE cause).faultStop bMEM 0 id).shutDone bMEM 0

/-- The start actions: a configuration that Table 14-1 does not list fails; the rest waits for the exit from self-refresh or for training. -/
def State.memStart (s : State) : State :=
  let s1 := s.updDdr (fun d => { d with loopNow := s.rd MEM_TEST_LOOP })
  match s.ddrSize with
  | none => s1.memFault mCONFIG
  | some _ => if s.on MEM_STAT_TRAINED ∧ s.on MEM_STAT_SELF_REFRESH then s1 else s1.wr MEM_TRAIN_STAT_STEP 0

/-- The controller goes ON, which is a change into symbol mode unless MODE or a loop-back keeps byte parity. -/
def State.memOn (s : State) : State :=
  let s1 := ((s.wr MEM_STAT_SIZE (s.ddrSize.getD 0)).wr MEM_STAT_SELF_REFRESH 0).setSt bMEM 0 stON
  if s1.ddrParity then s1 else s1.wr MEM_STAT_INIT_DONE 0

/-- R417: DRAM training completes, or fails at a step, rank and lane. The lowest 64 KiB of each rank are lost. -/
def execTrainingDone (fail : Option (Nat × Nat × Nat)) (s : State) : Out :=
  if ¬ s.st bMEM 0 = stSTARTING ∨ (s.on MEM_STAT_TRAINED ∧ s.on MEM_STAT_SELF_REFRESH) then .next s
  else match fail with
    | some (step, rank, lane) =>
      .next (((((s.wr MEM_TRAIN_STAT_STEP step).wr MEM_TRAIN_STAT_RANK rank).wr MEM_TRAIN_STAT_LANE lane).wr MEM_STAT_TRAINED 0).memFault mTRAIN)
    | none =>
      let rank := s.ddrSize.getD 0 * 2 ^ 30 / (s.rd MEM_CFG_RANKS + 1)
      let s1 := if s.rd MEM_CFG_RANKS = 1 then (s.ddrZero 0 65536).ddrZero rank (rank + 65536) else s.ddrZero 0 65536
      .next (((s1.wr MEM_TRAIN_STAT_STEP 6).wr MEM_TRAIN_STAT_LANE 255).wr MEM_STAT_TRAINED 1).memOn

/-- The end of the shut-down: the DRAM is in self-refresh. -/
def State.memStopEnd (s : State) : State := (s.wr MEM_STAT_INIT_BUSY 0).wr MEM_STAT_SELF_REFRESH 1

/-- A reset that reaches the block: DRAM content does not survive it (R418). -/
def State.memLost (s : State) : State := (s.ddrZero 0 (2 ^ 36)).updDdr (fun _ => {})

end Sys2Proof.Machine
end

