-- ==== Sys2Proof/Machine/Cup.lean ====
section
/-! DEFINITION. The Cupola: array, victim cache, side buffer, fill tracker, prefetcher, scratchpad ways, snoop and stash, maintenance. -/

namespace Sys2Proof.Machine

def State.updCup (s : State) (f : CupState → CupState) : State := { s with cup := f s.cup }
def State.cupIrq (s : State) (bit : Nat) : State := s.irq bCUP 0 0 bit

/-! ## Ways and allocation (R432 to R436, R440) -/

/-- Way w is a scratchpad way. -/
def State.spadWay (s : State) (w : Nat) : Bool := decide (12 ≤ w) && s.rd CUP_SPAD_EN / 2 ^ (w - 12) % 2 == 1

/-- Ways that a requester of mask `m` may allocate into (R433). -/
def State.permitted (s : State) (m : Nat) : List Nat :=
  (List.range 16).filter (fun w => m / 2 ^ w % 2 == 1 && s.rd CUP_WAY_LOCK_LOCK / 2 ^ w % 2 == 0 && !(s.spadWay w))

/-- The set of a line (R425). -/
def setOf (line : Nat) : Nat := line % 4096

def State.lineIn (s : State) (line : Nat) : Option CLine := s.cup.lines.find? (fun l => l.line == line)

def State.lineAt (s : State) (set w : Nat) : Option CLine := s.cup.lines.find? (fun l => l.way == w && setOf l.line == set)

/-- The way that takes a new line: the lowest invalid one, else the least recently used (R433). -/
def State.chooseWay (s : State) (m line : Nat) : Option Nat :=
  let ws := s.permitted m
  match ws.find? (fun w => (s.lineAt (setOf line) w).isNone) with
  | some w => some w
  | none =>
    (ws.foldl (fun (best : Option (Nat × Nat)) w =>
      let u := (s.lineAt (setOf line) w).elim 0 (·.used)
      match best with
      | none => some (w, u)
      | some b => if u < b.2 then some (w, u) else some b) none).map (·.1)

/-- The bytes that a way's array holds at a set, as scratchpad addresses see them (R440). -/
def spadAddr (w set : Nat) : Nat := 0x30000000 + (w - 12) * 0x40000 + set * 64

/-- A line's data enters the array. Ways 12 to 15 show it to the scratchpad window when they are enabled later (R442). -/
def State.arrayData (s : State) (w line : Nat) (d : List Byte) : State := if 12 ≤ w then s.setBytes (spadAddr w (setOf line)) d else s

/-- A line enters way w in place of what stands there. -/
def State.putLine (s : State) (w line : Nat) (d : List Byte) : State :=
  (s.updCup (fun c => { c with
    lines := { way := w, line := line, data := d, used := c.stamp } :: c.lines.filter (fun l => !(l.way == w && setOf l.line == setOf line)),
    stamp := c.stamp + 1 })).arrayData w line d

/-- A displaced line moves to the victim cache (R436). -/
def State.displace (s : State) (old : Option CLine) : State :=
  match old with
  | none => s
  | some l => if s.on CUP_CFG_VC_EN then s.updCup (fun c => { c with victim := ((l.line, l.data) :: c.victim).take 64 }) else s

/-- Allocation of a line for a requester mask; unchanged when no way is permitted. -/
def State.install (s : State) (m line : Nat) (d : List Byte) : State :=
  match s.chooseWay m line with
  | none => s
  | some w => (s.putLine w line d).displace (s.lineAt (setOf line) w)

def State.coreMask (s : State) (core : Nat) : Nat := s.rd (CUP_WMASK_MASK core)

/-! ## Removal -/

/-- Lines of the three structures that a test covers are removed. -/
def State.dropLines (s : State) (f : Nat → Bool) : State :=
  s.updCup (fun c => { c with
    lines := c.lines.filter (fun l => !(f l.line)), victim := c.victim.filter (fun e => !(f e.1)), side := c.side.filter (fun e => !(f e.1)) })

/-- The line stands in some structure. -/
def State.holds (s : State) (line : Nat) : Bool :=
  (s.lineIn line).isSome || s.cup.victim.any (fun e => e.1 == line) || s.cup.side.any (fun e => e.1 == line)

/-- Pending fills of covered lines are not installed (R448); `held` makes a maintenance operation wait for them. -/
def State.dropFills (s : State) (f : Nat → Bool) (held : Bool) : State :=
  s.updCup (fun c => { c with fills := c.fills.map (fun x => if f x.line then { x with drop := true, held := x.held || held } else x) })

/-- R430: a write by another initiator to a line. -/
def State.cupSnoop (s : State) (line : Nat) : State :=
  let s1 := if s.holds line then s.bump (CUP_CNT_COUNT 4) 1 else s
  (s1.dropLines (fun x => x == line)).dropFills (fun x => x == line) false

/-- R430, R431: the DDR controller presents a write of `n` bytes that it has accepted from `port`. -/
def State.cupPresent (s : State) (port a : Nat) (l : List Byte) : State :=
  if port = 0 ∨ port = 1 then s
  else
    let n := l.length
    let m := if port = 12 then s.rd (CUP_WMASK_MASK 8) else s.rd (CUP_WMASK_MASK 9)
    let may := s.isOn bCUP 0 && ((port == 12 && s.on CUP_STASH_DMA_EN) || (port == 11 && s.on CUP_STASH_FIX_EN)) && !(s.permitted m).isEmpty
    ((List.range ((a + n + 63) / 64 - a / 64)).map (fun k => a / 64 + k)).foldl (fun s line =>
      let s1 := s.cupSnoop line
      if may ∧ a ≤ 64 * line ∧ 64 * (line + 1) ≤ a + n then
        ((s1.dropLines (fun x => x == line)).install m line ((l.drop (64 * line - a)).take 64)).bump (CUP_CNT_COUNT 5) 1
      else s1) s

/-- A fabric write to DDR: the controller's effect, and the presentation to the Cupola. -/
def State.ddrStore (s : State) (port a : Nat) (l : List Byte) : State × Bool :=
  let r := s.ddrWriteOp port a l
  (if r.2 then r.1.cupPresent port a l else r.1, r.2)

/-- R410, R412, R430: a DDR write; the bytes are cut at the end of the burst. -/
def execDdrWrite (port addr : Nat) (bytes : List Byte) (s : State) : Out :=
  let l := bytes.take (128 - addr % 128)
  let r := s.ddrStore port addr l
  .next { r.1 with resp := some { err := if r.2 then [] else beats32 addr l.length } }

/-! ## Prefetch (R437, R438) -/

def lineInDdr (line : Nat) : Bool := decide (ddrBase ≤ 64 * line) && decide (64 * line < ddrBase + 2 ^ 36)

/-- NOR main array, boot region and calibration row (Table 15-1). -/
def addrInNor (a : Nat) : Bool :=
  (decide (0x01000000 ≤ a) && decide (a < 0x01810000)) || (decide (0x01810000 ≤ a) && decide (a < 0x01810800))

/-- A fill starts while the tracker has room for it; a demand for a line that a prefetch fetches takes that fill over. -/
def State.fill (s : State) (line core : Nat) (pf : Bool) : State :=
  if s.cup.fills.any (fun x => x.line == line) then
    (if pf then s else s.updCup (fun c => { c with fills := c.fills.map (fun x =>
      if x.line = line ∧ x.prefetch then { x with core := core, prefetch := false } else x) }))
  else if 32 ≤ s.cup.fills.length then s
  else s.updCup (fun c => { c with fills := c.fills ++ [{ line := line, core := core, prefetch := pf }] })

/-- A prefetch of a line of the same 4 KiB page that no structure holds and no fill fetches. -/
def State.prefetch (s : State) (from_ line core : Nat) : State :=
  if ¬ line / 64 = from_ / 64 ∨ s.holds line then s else s.fill line core true

/-- A tracker extended by a demand of a core. -/
def CTrack.extend (t : CTrack) (core line : Nat) : Option CTrack :=
  if ¬ t.core = core ∨ ¬ t.last / 64 = line / 64 then none
  else if line = t.last + 1 ∧ (t.up ∨ t.count = 1) then some { t with last := line, up := true, count := min 3 (t.count + 1) }
  else if line + 1 = t.last ∧ (t.up = false ∨ t.count = 1) then some { t with last := line, up := false, count := min 3 (t.count + 1) }
  else none

/-- The lines that a confident tracker keeps ahead of the latest demand. -/
def trackLines (t : CTrack) (depth : Nat) : List Nat :=
  ((List.range depth).map (fun k => if t.up then t.last + 1 + k else t.last - (1 + k))).filter (fun x => x / 64 == t.last / 64)

/-- A demand miss or side-buffer hit in DDR trains the trackers and issues prefetches. -/
def State.train (s : State) (core line : Nat) (miss : Bool) : State :=
  if lineInDdr line = false then s
  else
    let hit := s.cup.tracks.findSome? (fun t => (t.extend core line).map (fun u => (t, u)))
    let tracks := if s.on CUP_CFG_PF_EN then
        (match hit with
          | some (t, u) => u :: s.cup.tracks.filter (fun x => !(x == t))
          | none => ({ core := core, last := line } :: s.cup.tracks).take 8)
      else s.cup.tracks
    let s1 := s.updCup (fun c => { c with tracks := tracks })
    match (if s.on CUP_CFG_PF_EN then hit else none) with
    | some (_, u) =>
      if u.count = 3 then (trackLines u (atLeast1 (s.rd CUP_CFG_PF_DEPTH))).foldl (fun s x => s.prefetch line x core) s1
      else if miss ∧ s.on CUP_CFG_NL_EN then s1.prefetch line (line + 1) core else s1
    | none => if miss ∧ s.on CUP_CFG_NL_EN then s1.prefetch line (line + 1) core else s1

/-! ## Core reads and stores (R425 to R429, R434, R436, R439, R443) -/

/-- A parity error met by a lookup: the line is invalidated and counted. -/
def State.cupPerr (s : State) (line : Nat) : State :=
  (((s.dropLines (fun x => x == line)).bump (CUP_CNT_COUNT 6) 1).cupIrq 27).hwPost 0x0420 1 7 []

/-- A cacheable read of a core that finds the Cupola ON: the line's data when a structure holds it; otherwise a fill starts. -/
def State.cupLookup (s : State) (core line : Nat) (perr : Bool) : State × Option (List Byte) :=
  let s0 := if perr ∧ s.holds line then s.cupPerr line else s
  match s0.lineIn line with
  | some l =>
    ((s0.updCup (fun c => { c with
        lines := c.lines.map (fun x => if x.line = line then { x with used := c.stamp } else x), stamp := c.stamp + 1 })).bump (CUP_CNT_COUNT 0) 1,
      some l.data)
  | none => match s0.cup.victim.find? (fun e => e.1 == line) with
    | some (_, d) =>
      let s1 := s0.bump (CUP_CNT_COUNT 2) 1
      match s1.chooseWay (s1.coreMask core) line with
      | none => (s1, some d)
      | some w =>
        let old := if s1.on CUP_CFG_VC_EN then s1.lineAt (setOf line) w else none
        (((s1.putLine w line d).updCup (fun c => { c with
          victim := c.victim.filterMap (fun e => if e.1 = line then old.map (fun l => (l.line, l.data)) else some e) })), some d)
    | none => match s0.cup.side.find? (fun e => e.1 == line) with
      | some (_, d) =>
        let s1 := (s0.bump (CUP_CNT_COUNT 3) 1).train core line false
        if (s1.permitted (s1.coreMask core)).isEmpty then (s1, some d)
        else ((s1.updCup (fun c => { c with side := c.side.filter (fun e => !(e.1 == line)) })).install (s1.coreMask core) line d, some d)
      | none => (((s0.bump (CUP_CNT_COUNT 1) 1).fill line core false).train core line true, none)

/-- R428: a store of a core to a cacheable line: updated in the array, removed from the other two structures. -/
def State.cupStoreHit (s : State) (a : Nat) (l : List Byte) : State :=
  let line := a / 64
  let off := a % 64
  match s.lineIn line with
  | some x =>
    let d := x.data.take off ++ l ++ x.data.drop (off + l.length)
    (s.updCup (fun c => { c with lines := c.lines.map (fun y => if y.line = line then { y with data := d } else y) })).arrayData x.way line d
  | none => s.updCup (fun c => { c with victim := c.victim.filter (fun e => !(e.1 == line)), side := c.side.filter (fun e => !(e.1 == line)) })

/-- A demand fill returns with its data; a fill that met an error, that an invalidation covered or that returns while the block shuts down
is not installed (R433, R445, R448). -/
def State.fillReturn (s : State) (x : CFill) (d : List Byte) (ok : Bool) : State :=
  let s1 := s.updCup (fun c => { c with fills := c.fills.filter (fun y => !(y.line == x.line)) })
  if ok = false ∨ x.drop ∨ s.isOn bCUP 0 = false then s1
  else if x.prefetch then s1.updCup (fun c => { c with side := ((x.line, d) :: c.side).take 32 })
  else s1.install (s1.coreMask x.core) x.line d

/-! ## L1 data caches of the cores (R429) -/

/-- A core has read a line: its L1 data cache of 512 lines holds it. The manual gives no replacement rule for it (DESIGN CHOICE, log entry 34). -/
def State.l1Fill (s : State) (core line : Nat) (d : List Byte) : State :=
  let l := nth s.cores.l1 core []
  { s with cores := { s.cores with l1 := upd s.cores.l1 core (((line, d) :: l.filter (fun e => !(e.1 == line))).take 512) } }

/-- A write of a core reaches the Cupola: the line goes from the L1 data caches of the other seven, and its own copy takes the bytes. -/
def State.l1Store (s : State) (core a : Nat) (b : List Byte) : State :=
  let line := a / 64
  let own := fun (l : List (Nat × List Byte)) =>
    l.map (fun e => if e.1 = line then (e.1, e.2.take (a % 64) ++ b ++ e.2.drop (a % 64 + b.length)) else e)
  { s with cores := { s.cores with
      l1 := s.cores.l1.zipIdx.map (fun x => if x.2 = core then own x.1 else x.1.filter (fun e => !(e.1 == line))) } }

/-! ## Scratchpad (R440 to R443) -/

/-- The way of a scratchpad address. -/
def spadWayOf (a : Nat) : Nat := 12 + (a - 0x30000000) / 0x40000

/-- A scratchpad access is served (R441). -/
def State.spadServed (s : State) (port a : Nat) : Bool :=
  decide (0x30000000 ≤ a) && decide (a < 0x30100000) && s.spadWay (spadWayOf a)
    && ((port == 13 && s.on CUP_SPAD_MGMT) || (decide (port ≤ 1) && s.on CUP_SPAD_CORE))

/-- The access waits for the walk that changes its way (R442). -/
def State.spadWaits (s : State) (a : Nat) : Bool := s.on CUP_SPAD_SPAD_BUSY && s.cup.changed / 2 ^ (spadWayOf a - 12) % 2 == 1

/-- R441, R443: a scratchpad access, cut at the end of its quarter; `perr` says that a read meets a parity error. -/
def execScratchpadAccess (port addr n : Nat) (wr : Option (List Byte)) (perr : Bool) (s : State) : Out :=
  let room := 0x40000 - addr % 0x40000
  let len := min room (wr.elim n (·.length))
  if s.spadServed port addr = false then .next { s with resp := some { data := List.replicate len 0#8, err := beats32 addr len } }
  else if s.spadWaits addr then .next s
  else match wr with
    | some l => .next ({ s.setBytes addr (l.take room) with resp := some {} })
    | none =>
      if perr then .next { s.cupIrq 26 with resp := some { data := List.replicate len 0#8, err := beats32 addr len } }
      else .next { s with resp := some { data := s.bytes addr len, err := [] } }

/-- A write of CUP_SPAD. EN cannot change while a walk runs. -/
def State.cupSpad (s : State) (val : Word) : State :=
  let old := s.rd CUP_SPAD_EN
  let new := fieldOf val 0 4
  let s1 := (s.wr CUP_SPAD_CORE (fieldOf val 9 1)).wr CUP_SPAD_MGMT (fieldOf val 8 1)
  if s.on CUP_SPAD_SPAD_BUSY then s.cupIrq 24
  else if new = old then s1
  else
    let changed := Nat.xor old new
    let s2 := (s1.wr CUP_SPAD_EN new).wr CUP_SPAD_SPAD_BUSY 1
    s2.updCup (fun c => { c with
      changed := changed,
      lines := c.lines.filter (fun l => !(decide (12 ≤ l.way) && changed / 2 ^ (l.way - 12) % 2 == 1)) })

/-- R442: a write of CUP_SPAD. -/
def execCupSpadWrite (val : Word) (s : State) : Out := .next (s.gated CUP_SPAD (fun s => s.cupSpad val))

/-- R442: the scratchpad walk ends; one that waits for a maintenance operation goes on. -/
def execSpadWalkDone (s : State) : Out :=
  .next (if s.on CUP_SPAD_SPAD_BUSY ∧ s.on CUP_MAINT_STAT_BUSY = false then
    ((s.wr CUP_SPAD_SPAD_BUSY 0).updCup (fun c => { c with changed := 0 })).cupIrq 25 else s)

/-! ## Maintenance (R446 to R448) -/

/-- CUP_MAINT_ADDR. -/
def State.maintAddr (s : State) : Nat := s.rd CUP_MAINT_ADDR_HI_ADDR * 2 ^ 32 + s.rd CUP_MAINT_ADDR_LO_ADDR * 64

/-- The lines that an operation covers; a line of the array is named with its way. -/
def State.maintCovers (s : State) (op : Nat) (way : Option Nat) (line : Nat) : Bool :=
  let a := s.maintAddr
  let len := s.rd CUP_MAINT_LEN_LEN
  if op = 1 then line == a / 64
  else if op = 2 then !(len == 0) && decide (a < 64 * (line + 1)) && decide (64 * line < a + len)
  else if op = 3 then true
  else way.elim false (fun w => len / 2 ^ w % 2 == 1 && !(s.spadWay w))

/-- A maintenance operation: its lines go, and their pending fills will not be installed. -/
def State.maintRun (s : State) (op : Nat) : State :=
  let gone := s.cup.lines.filter (fun l => s.maintCovers op (some l.way) l.line)
  let v := s.cup.victim.filter (fun e => s.maintCovers op none e.1)
  let sd := s.cup.side.filter (fun e => s.maintCovers op none e.1)
  let locked := (gone.filter (fun l => s.rd CUP_WAY_LOCK_LOCK / 2 ^ l.way % 2 == 1)).length
  let s1 := s.updCup (fun c => { c with
    lines := c.lines.filter (fun l => !(s.maintCovers op (some l.way) l.line)), victim := c.victim.filter (fun e => !(s.maintCovers op none e.1)),
    side := c.side.filter (fun e => !(s.maintCovers op none e.1)) })
  (((s1.dropFills (s.maintCovers op none) true).wr CUP_MAINT_STAT_LINES_INV (gone.length + v.length + sd.length)).wr CUP_MAINT_LOCKED_LOCKED_INV
    locked).wr CUP_MAINT_STAT_BUSY 1

/-- A write of CUP_MAINT_CMD. GO reads as BUSY. -/
def State.cupMaint (s : State) (val : Word) : State :=
  let op := fieldOf val 0 3
  let s1 := s.wr CUP_MAINT_CMD_OP op
  if fieldOf val 31 1 = 0 then s1
  else if s.on CUP_MAINT_STAT_BUSY ∨ op = 0 ∨ 4 < op ∨ s.st bCUP 0 = stSTARTING ∨ s.st bCUP 0 = stSTOPPING then
    (if s.on CUP_MAINT_STAT_BUSY then s else s1).cupIrq 24
  else (s1.maintRun op).wr CUP_MAINT_CMD_GO 1

/-- A write of CUP_MAINT_CMD with GO and an OP. -/
def cupMaintOp (op : Nat) (val : Word) (s : State) : State :=
  s.gated CUP_MAINT_CMD (fun s => s.cupMaint (withField (withField val 0 3 op) 31 1 1))

/-- R446: INV_LINE. -/
def execInvLine (val : Word) (s : State) : Out := .next (cupMaintOp 1 val s)

/-- R446: INV_RANGE. -/
def execInvRange (val : Word) (s : State) : Out := .next (cupMaintOp 2 val s)

/-- R446: INV_ALL. -/
def execInvAll (val : Word) (s : State) : Out := .next (cupMaintOp 3 val s)

/-- R446: INV_WAYS. -/
def execInvWays (val : Word) (s : State) : Out := .next (cupMaintOp 4 val s)

/-- R448: a maintenance operation ends once the covered fills have completed. -/
def execMaintDone (s : State) : Out :=
  .next (if s.on CUP_MAINT_STAT_BUSY ∧ (s.cup.fills.any (fun x => x.held)) = false then
    ((s.wr CUP_MAINT_STAT_BUSY 0).wr CUP_MAINT_CMD_GO 0).cupIrq 28 else s)

/-- R443: a write of CUP_CNT_CLR. -/
def execCupCntClr (val : Word) (s : State) : Out :=
  .next (s.gated CUP_CNT_CLR (fun s => if fieldOf val 0 1 = 1 then
    (List.range 7).foldl (fun s n => s.setReg (CUP_CNT n) 0) s else s))

/-! ## Start, shut-down and reset (R444, R445) -/

/-- The walk of R444: every tag that is not of a scratchpad way, and the victim cache. -/
def State.cupWalk (s : State) : State :=
  s.updCup (fun c => { c with lines := [], victim := [], side := [], tracks := [] })

/-- The start actions, and the walk after a reset that reaches the block. -/
def State.cupStart (s : State) : State := (s.cupWalk).updCup (fun c => { c with fills := [] })

/-- The shut-down: the prefetcher stops; outstanding fills complete without installing. -/
def State.cupStop (s : State) : State := s.cupWalk.dropFills (fun _ => true) false

end Sys2Proof.Machine
end

