-- ==== Sys2Proof/Machine/Dma.lean ====
section
/-! DEFINITION. DMA engine: channel states, enable and disable, burst issue, peripheral requests, doorbells, parking and quiesce. What
needs the fabric stands in DmaBus.lean. -/

namespace Sys2Proof.Machine

def State.updDma (s : State) (f : DmaState → DmaState) : State := { s with dma := f s.dma }
def State.dmaIrq (s : State) (bit : Nat) : State := s.irq bDMA 0 0 bit

/-! ## Channels -/

def State.chn_ (s : State) (c : Nat) : DmaCh := nth s.dma.ch c {}

/-- CSTATE (Table 16-3). -/
def State.cst (s : State) (c : Nat) : Nat := s.rd (DMA_CH_STAT_CSTATE c)

def cOFF : Nat := 0
def cFETCH : Nat := 1
def cRUN : Nat := 2
def cWAIT : Nat := 3
def cLAST : Nat := 4
def cPOWER : Nat := 5
def cSTOP : Nat := 6
def cERROR : Nat := 7

/-- CSTATE changes, and DMA_PARK with it. -/
def State.setCst (s : State) (c v : Nat) : State :=
  (s.wr (DMA_CH_STAT_CSTATE c) v).wb ⟨DMA_PARK, c, 1⟩ (v == cLAST || v == cPOWER || v == cSTOP)

/-- The present descriptor's address. -/
def State.descAddr (s : State) (c : Nat) : Nat := s.rd (DMA_CH_DESC_HI_ADDR c) * 2 ^ 32 + s.rd (DMA_CH_DESC_LO_ADDR c) * 32

def State.setDescAddr (s : State) (c a : Nat) : State := (s.wr (DMA_CH_DESC_HI_ADDR c) (a / 2 ^ 32)).wr (DMA_CH_DESC_LO_ADDR c) (a / 32)

/-! ## Fields of a descriptor (Table 16-1) -/

def dLen (l : List Word) : Nat := dword l 1 0 25
def dSrc (l : List Word) : Nat := dword l 3 0 8 * 2 ^ 32 + dword l 2 0 32
def dDst (l : List Word) : Nat := dword l 3 8 8 * 2 ^ 32 + dword l 4 0 32
def dNext (l : List Word) : Nat := dword l 6 0 8 * 2 ^ 32 + dword l 5 5 27 * 32
def dLast (l : List Word) : Bool := dword l 0 31 1 == 1
def dSrcFix (l : List Word) : Bool := dword l 0 28 1 == 1
def dDstFix (l : List Word) : Bool := dword l 0 27 1 == 1

/-- R453: LEN, SRC, DST and word 0 are formed as Table 16-1 requires. -/
def descOk (l : List Word) : Bool :=
  decide (4 ≤ dLen l) && decide (dLen l ≤ 2 ^ 24) && dLen l % 4 == 0 && dSrc l % 4 == 0 && dDst l % 4 == 0 && dword l 0 0 27 == 0

/-- BURST in bytes (R454). -/
def State.burstOf (s : State) (c : Nat) : Nat := 32 * 2 ^ s.rd (DMA_CH_CFG_BURST c)

def State.maxBlk (s : State) (c : Nat) : Nat := if s.rd (DMA_CH_CFG_MAXBLK c) = 0 then 16 else s.rd (DMA_CH_CFG_MAXBLK c)

/-! ## Progress registers -/

/-- Blocks held by all channels. -/
def State.blocksUsed (s : State) : Nat := s.dma.ch.foldl (fun n x => n + x.bursts.length) 0

/-- The registers that show a channel's progress follow its state (DMA_CH_SRC to DMA_CH_REMAIN, BLOCKS, DMA_BUF). -/
def State.dmaShow (s : State) (c : Nat) : State :=
  let x := s.chn_ c
  let src := dSrc x.desc + (if dSrcFix x.desc then 0 else x.read)
  let dst := dDst x.desc + (if dDstFix x.desc then 0 else x.wrote)
  let s1 := (((s.wr (DMA_CH_SRC_SRC c) src).wr (DMA_CH_DST_DST c) dst).wr (DMA_CH_ADDR_HI_SRC c) (src / 2 ^ 32)).wr (DMA_CH_ADDR_HI_DST c) (dst / 2 ^ 32)
  let n := s.blocksUsed
  (((s1.wr (DMA_CH_REMAIN_BYTES c) (dLen x.desc - x.wrote)).wr (DMA_CH_STAT_BLOCKS c) x.bursts.length).wr DMA_BUF_IN_USE n).wr DMA_BUF_PEAK
    (max (s.rd DMA_BUF_PEAK) n)

def State.updCh (s : State) (c : Nat) (f : DmaCh → DmaCh) : State :=
  (s.updDma (fun d => { d with ch := upd d.ch c (f (nth d.ch c {})) })).dmaShow c

/-! ## Parking (R457, R463, R466) -/

/-- A channel that is asked to park does so once nothing of it is under way. -/
def State.parkCheck (s : State) (c : Nat) : State :=
  let x := s.chn_ c
  let v := s.cst c
  if ¬ x.park = 0 ∧ (v = cFETCH ∨ v = cRUN ∨ v = cWAIT) ∧ x.bursts.isEmpty ∧ (x.word7.isNone ∨ x.hold7) ∧ x.reread = false then
    (s.updCh c (fun y => { y with back := v, park := 0 })).setCst c (if x.park = 1 then cPOWER else cSTOP)
  else s

/-- A parked channel continues where it stopped. -/
def State.unpark (s : State) (c : Nat) : State :=
  let x := s.chn_ c
  (s.updCh c (fun y => { y with hold7 := false, reread := y.reread || y.ended, ended := false, dom := 0, park := 0 })).setCst c x.back

/-- Word 7 of the descriptor is determined; it is issued unless the channel parks (R455, R463). -/
def State.setWord7 (s : State) (c : Nat) (w : Word) : State := s.updCh c (fun y => { y with word7 := some w, hold7 := !(y.park == 0) })

/-- When every burst has ended: word 7 with DONE, or with BAD and the error (R455, R461). -/
def State.dmaEnd (s : State) (c : Nat) : State :=
  let x := s.chn_ c
  if ¬ x.bursts.isEmpty ∨ x.word7.isSome ∨ x.ended ∨ x.reread ∨ x.desc.isEmpty then s
  else if ¬ x.err = 0 then s.setWord7 c (BitVec.ofNat 32 (2 ^ 30 + x.err * 2 ^ 28 + x.wrote))
  else if x.wrote = dLen x.desc then s.setWord7 c (BitVec.ofNat 32 (2 ^ 31 + x.wrote))
  else s

/-! ## Enable and disable (R456, R457, R460) -/

/-- The channel leaves OFF: its descriptor is fetched. -/
def State.dmaFetch (s : State) (c : Nat) : State :=
  let park := (s.chn_ c).park
  ((s.updCh c (fun y => { back := y.back, park := park, dom := y.dom })).setCst c cFETCH).parkCheck c

/-- Another channel with EN = 1 uses the request line. -/
def State.lineTaken (s : State) (c : Nat) : Bool :=
  s.on (DMA_CH_CFG_REQ_EN c) && (List.range 32).any (fun k =>
    !(k == c) && s.on (DMA_CH_CTL_EN k) && s.on (DMA_CH_CFG_REQ_EN k) && s.rd (DMA_CH_CFG_REQ k) == s.rd (DMA_CH_CFG_REQ c))

/-- R460: the target memory of a descriptor in progress holds undefined values. -/
def State.dmaSpoil (s : State) (l : List Word) : State :=
  let n := if dDstFix l then 4 else dLen l
  let a := dDst l
  if l.isEmpty ∨ descOk l = false then s
  else if (0x10000000 ≤ a ∧ a + n ≤ 0x11000000) ∨ ddrBase ≤ a then s.drawn.setBytes a (leBytes n s.free)
  else s

/-- R460: a channel stops at once; its progress registers and the target memory hold undefined values. -/
def State.dmaDisable (s : State) (c : Nat) : State :=
  let x := s.chn_ c
  let s0 := if s.cst c = cLAST ∨ x.reread ∨ x.ended then s else s.dmaSpoil x.desc
  let s1 := ((s0.updCh c (fun _ => {})).wr (DMA_CH_STAT_REQ_CNT c) 0).wr (DMA_CH_STAT_DB_PEND c) 0
  let s2 := if s.cst c = cOFF then s1
    else ((s1.drawn.wr (DMA_CH_SRC_SRC c) s.free).wr (DMA_CH_DST_DST c) (s.free / 2 ^ 32)).wr (DMA_CH_REMAIN_BYTES c) (s.free / 2 ^ 64)
  (s2.setCst c cOFF).wr (DMA_CH_CTL_EN c) 0

/-- A write of DMA_CH_CTL. -/
def State.dmaCtl (s : State) (c : Nat) (val : Word) : State :=
  if fieldOf val 0 1 = 0 then (if s.on (DMA_CH_CTL_EN c) ∨ ¬ s.cst c = cOFF then s.dmaDisable c else s)
  else if s.on (DMA_CH_CTL_EN c) then s
  else if s.lineTaken c then s.dmaIrq 26
  else
    let s1 := s.wr (DMA_CH_CTL_EN c) 1
    if s.isOn bDMA 0 ∧ s.cst c = cOFF then s1.dmaFetch c else s1

/-- R457: a write of EN = 1. -/
def execDmaChEnable (c : Nat) (val : Word) (s : State) : Out :=
  .next (if 32 ≤ c then s else s.gated (DMA_CH_CTL c) (fun s => s.dmaCtl c (withField val 0 1 1)))

/-- R460: a write of EN = 0. -/
def execDmaChDisable (c : Nat) (val : Word) (s : State) : Out :=
  .next (if 32 ≤ c then s else s.gated (DMA_CH_CTL c) (fun s => s.dmaCtl c (withField val 0 1 0)))

/-- A write of DMA_CH_CFG or DMA_CH_DESC: ignored while CSTATE is not OFF. -/
def State.dmaSetup (s : State) (c a : Nat) (val : Word) : State := if s.cst c = cOFF then s.storeRow a val else s.dmaIrq 26

/-! ## Bursts (R450, R451, R454, R456) -/

/-- The channel has bytes left to read and room for a block. -/
def State.dmaWants (s : State) (c : Nat) : Bool :=
  let x := s.chn_ c
  s.cst c == cRUN && x.park == 0 && !x.desc.isEmpty && x.err == 0 && x.word7.isNone && !x.ended && !x.reread
    && decide (x.issued < dLen x.desc)

def State.dmaReady (s : State) (c : Nat) : Bool :=
  s.dmaWants c && decide ((s.chn_ c).bursts.length < s.maxBlk c) && (!(s.on (DMA_CH_CFG_REQ_EN c)) || !(s.rd (DMA_CH_STAT_REQ_CNT c) == 0))

/-- Write bursts outstanding (R451). -/
def State.dmaWrites (s : State) : Nat := s.dma.ch.foldl (fun n x => n + (x.bursts.filter (fun b => b.writing)).length) 0

/-- Room for one more read burst in the buffer and on the fabric. -/
def State.dmaRoom (s : State) : Bool :=
  decide (s.blocksUsed < 256) && decide (s.dma.ch.foldl (fun n x => n + (x.bursts.filter (fun b => !b.writing)).length) 0 < 32)

/-- One read burst of a channel is issued. -/
def State.burstIssue (s : State) (c : Nat) : State :=
  let x := s.chn_ c
  let src := dSrc x.desc + (if dSrcFix x.desc then 0 else x.issued)
  let n := min (s.burstOf c - src % s.burstOf c) (dLen x.desc - x.issued)
  (s.updCh c (fun y => { y with issued := y.issued + n, bursts := y.bursts ++ [{ off := x.issued, len := n, seq := s.dma.seq }] })).updDma (fun d =>
    { d with seq := d.seq + 1 })

/-- The channel served next: round robin among those with PRIO 1, then among the others (R451). -/
def State.dmaPick (s : State) : Option Nat :=
  let order := (List.range 32).map (fun k => (s.dma.last + 1 + k) % 32)
  match order.find? (fun c => s.dmaReady c && s.on (DMA_CH_CFG_PRIO c)) with
  | some c => some c
  | none => order.find? s.dmaReady

/-- R450, R451: the read engine issues one burst. A channel that wants a burst and has no request waits for one (R457). -/
def execDmaBurstIssue (s : State) : Out :=
  let idle := (List.range 32).filter (fun c => s.dmaWants c && s.on (DMA_CH_CFG_REQ_EN c) && s.rd (DMA_CH_STAT_REQ_CNT c) == 0)
  let s0 := idle.foldl (fun s c => (s.setCst c cWAIT).parkCheck c) s
  match (if s0.dmaRoom then s0.dmaPick else none) with
  | none => .next s0
  | some c =>
    let s1 := if s0.on (DMA_CH_CFG_REQ_EN c) then s0.wr (DMA_CH_STAT_REQ_CNT c) (s0.rd (DMA_CH_STAT_REQ_CNT c) - 1) else s0
    .next ((s1.burstIssue c).updDma (fun d => { d with last := c }))

/-- A pulse on a request line (R456). -/
def State.dmaPulse (s : State) (line : Nat) : State :=
  match (List.range 32).find? (fun c => s.on (DMA_CH_CTL_EN c) && s.on (DMA_CH_CFG_REQ_EN c) && s.rd (DMA_CH_CFG_REQ c) == line) with
  | none => s
  | some c =>
    if s.cst c = cOFF then s
    else if s.cst c = cWAIT ∧ s.dmaRoom ∧ (s.chn_ c).bursts.length < s.maxBlk c then (s.setCst c cRUN).burstIssue c
    else if s.rd (DMA_CH_STAT_REQ_CNT c) = 15 then s.wr (DMA_CH_STAT_REQ_OVF c) 1
    else (if s.cst c = cWAIT then s.setCst c cRUN else s).wr (DMA_CH_STAT_REQ_CNT c) (s.rd (DMA_CH_STAT_REQ_CNT c) + 1)

/-- R456: a peripheral request pulse. -/
def execDmaRequestPulse (line : Nat) (s : State) : Out := .next (if 16 ≤ line then s else s.dmaPulse line)

/-! ## Doorbells (R459) -/

/-- A write of DMA_CH_DB. -/
def State.dmaDoorbell (s : State) (c : Nat) (val : Word) : State :=
  if fieldOf val 0 1 = 0 ∨ s.cst c = cOFF then s
  else if s.cst c = cLAST ∧ (s.chn_ c).reread = false then (s.wr (DMA_CH_STAT_DB_PEND c) 0).updCh c (fun y => { y with reread := true })
  else s.wr (DMA_CH_STAT_DB_PEND c) 1

/-- R459: a write of DMA_CH_DB.RING. -/
def execDmaChDb (c : Nat) (val : Word) (s : State) : Out :=
  .next (if 32 ≤ c then s else s.gated (DMA_CH_DB c) (fun s => s.dmaDoorbell c (withField val 0 1 1)))

/-! ## Quiesce (R463 to R465) -/

/-- The power domain that serves an address (Table 18-4, Table 01-3). -/
def addrDom (a : Nat) : Nat :=
  if inRegs a then domOf (regBlk a) (regInst a) else if a < 0x02000000 then 1 else if ddrBase ≤ a then 7 else 4

/-- The domain of the peripheral on a request line (Table 16-2). -/
def lineDom (line : Nat) : Nat := if line < 4 then 10 else if line = 13 then 1 else 0

/-- The channel touches one of the domains. -/
def State.dmaTouches (s : State) (c domains : Nat) : Bool :=
  let x := s.chn_ c
  let has := fun (d : Nat) => domains / 2 ^ d % 2 == 1
  has (addrDom (s.descAddr c)) || (!x.desc.isEmpty && (has (addrDom (dSrc x.desc)) || has (addrDom (dDst x.desc))))
    || (s.on (DMA_CH_CFG_REQ_EN c) && has (lineDom (s.rd (DMA_CH_CFG_REQ c))))

/-- A running channel is asked to park. -/
def State.dmaPark (s : State) (c kind domains : Nat) : State :=
  if s.cst c = cFETCH ∨ s.cst c = cRUN ∨ s.cst c = cWAIT then
    (s.updCh c (fun y => { y with park := kind, dom := domains })).parkCheck c
  else s

/-- R463: a quiesce request for domains. -/
def State.dmaQuiesce (s : State) (domains : Nat) : State :=
  let s1 := ((s.updDma (fun d => { d with quiesce := some domains })).wr DMA_QSTAT_DOMAINS domains).wr DMA_QSTAT_ACK 0
  ((List.range 32).filter (fun c => s.dmaTouches c domains)).foldl (fun s c => s.dmaPark c 1 domains) s1

/-- Every channel has acknowledged. -/
def State.dmaAcked (s : State) : Bool := (List.range 32).all (fun c => !((s.chn_ c).park == 1))

/-- Channels parked for domains are released (R464). -/
def State.dmaRelease (s : State) (domains : Nat) : State :=
  (List.range 32).foldl (fun s c =>
    let x := s.chn_ c
    if x.dom = 0 ∨ Nat.land x.dom domains = 0 then s
    else if s.cst c = cPOWER then (if s.isOn bDMA 0 then s.unpark c else s.setCst c cSTOP)
    else s.updCh c (fun y => { y with park := if y.park = 1 then 0 else y.park, dom := 0, hold7 := false })) s

/-- R465: a thermal emergency. -/
def State.dmaThermal (s : State) (domains : Nat) : State :=
  let mine := (List.range 32).filter (fun c => !(s.cst c == cOFF) && s.dmaTouches c domains)
  (mine.foldl (fun s c => s.dmaDisable c) s).dmaIrq 27

/-! ## Start and shut-down (R466) -/

/-- The start actions: stopped channels continue, and channels enabled meanwhile leave OFF. -/
def State.dmaStart (s : State) : State :=
  (List.range 32).foldl (fun s c =>
    if s.cst c = cSTOP then s.unpark c else if s.cst c = cOFF ∧ s.on (DMA_CH_CTL_EN c) then s.dmaFetch c else s) s

/-- No channel is in FETCH, RUN or WAIT_REQ. -/
def State.dmaIdle (s : State) : Bool := (List.range 32).all (fun c => !(s.cst c == cFETCH || s.cst c == cRUN || s.cst c == cWAIT))

/-- A shut-down ends when no channel is active. -/
def State.dmaSettle (s : State) : State := if s.st bDMA 0 = stSTOPPING ∧ s.dmaIdle then s.shutDone bDMA 0 else s

def State.dmaStop (s : State) : State := ((List.range 32).foldl (fun s c => s.dmaPark c 2 0) s).dmaSettle

end Sys2Proof.Machine
end

