-- ==== Sys2Proof/Machine/Fls.lean ====
section
/-! DEFINITION. Embedded flash: arrays and banks, reads, command sequences, programs, erases, protection, margin scrub. -/

namespace Sys2Proof.Machine

def State.updFls (s : State) (f : FlsState → FlsState) : State := { s with fls := f s.fls }
def State.flsIrq (s : State) (bit : Nat) : State := s.irq bFLS 0 0 bit

/-! ## Arrays (R468) -/

def norBase : Nat := 0x01000000

/-- The sector index of an offset from the main array. -/
def norSectorOf (off : Nat) : Nat := if off < 0x800000 then off / 0x10000 else 128 + (off - 0x800000) / 0x1000

/-- First word and words of a sector. -/
def sectorWords (k : Nat) : Nat × Nat := if k < 128 then (k * 4096, 4096) else (524288 + (k - 128) * 256, 256)

/-- Bank A, B or C (0, 1, 2) of a sector. -/
def bankOf (k : Nat) : Nat := if k < 64 then 0 else if k < 128 then 1 else 2

/-- The offset lies in the main or the boot array. -/
def norArray (off : Nat) : Bool := decide (off < 0x810000)

/-- A range of words without another range. -/
def rangeMinus (r : Nat × Nat) (lo n : Nat) : List (Nat × Nat) :=
  let e := r.1 + r.2
  let left := if r.1 < lo then [(r.1, min e lo - r.1)] else []
  let right := if lo + n < e then [(max r.1 (lo + n), e - max r.1 (lo + n))] else []
  if e ≤ lo ∨ lo + n ≤ r.1 then [r] else left ++ right

/-- A word is programmed (R478). -/
def State.programmed (s : State) (w : Nat) : Bool := s.fls.prog.any (fun r => decide (r.1 ≤ w) && decide (w < r.1 + r.2))

def State.markProg (s : State) (w n : Nat) : State := s.updFls (fun f => { f with prog := (w, n) :: f.prog.flatMap (fun r => rangeMinus r w n) })
def State.markErased (s : State) (w n : Nat) : State := s.updFls (fun f => { f with prog := f.prog.flatMap (fun r => rangeMinus r w n) })

/-- One byte of the arrays as stored: an erased word reads 0xFF (R470). -/
def State.norByte (s : State) (a : Nat) : Byte :=
  if decide (norBase + 0x810000 ≤ a) || s.programmed ((a - norBase) / 16) then s.byte a else 0xFF#8

def State.norBytes (s : State) (a n : Nat) : List Byte := (List.range n).map (fun k => s.norByte (a + k))

/-- Bytes stored in whole words that count as programmed; firmware and the Dome write their partitions so. -/
def State.norStore (s : State) (a : Nat) (l : List Byte) : State := (s.setBytes a l).markProg ((a - norBase) / 16) ((l.length + 15) / 16)

/-- The Dome or firmware erases a sector of its own: its counter advances, its marker goes, its words read as erased (R480, R481). -/
def State.eraseWhole (s : State) (k : Nat) : State :=
  let w := sectorWords k
  ((s.updFls (fun f => { f with
    counts := sparseSet f.counts k (min 0xFFFFFF (sparseGet f.counts k + 1)), markers := removeN k f.markers })).markErased w.1 w.2).wr
      ⟨(FLS_INC_MAP_MAP (k / 32)).addr, k % 32, 1⟩ 0

/-! ## Reads (R469 to R471, R483) -/

/-- The sector holds an interrupted or unfinished erase: its content is undefined. -/
def State.unsure (s : State) (k : Nat) : Bool := s.fls.markers.contains k

def State.incomplete (s : State) (k : Nat) : Bool := s.rd (FLS_INC_MAP_MAP (k / 32)) / 2 ^ (k % 32) % 2 == 1

/-- The bank of the running operation. -/
def State.busyBank (s : State) : Option Nat :=
  s.fls.run.map (fun r => if r.op = 4 ∨ r.op = 5 ∨ r.op = 7 then 2 else bankOf r.sector)

/-- Cycles that the array needs at 1.0 GHz (R471). -/
def State.flsNeed (s : State) : Nat := if 800 ≤ s.rd PWR_AVS_STAT_MV_NOW then 20 else 26

/-- A fabric read of n bytes of the NOR windows; `ecc` is what the SEC-DED code finds: 0 nothing, 1 a single-bit error, 2 a double-bit
error, in a word of the first 32-byte beat. -/
def State.flsReadOp (s : State) (a n ecc : Nat) : State × Resp :=
  let off := a - norBase
  let cal := decide (0x810000 ≤ off)
  let k := norSectorOf off
  let bank := if cal then 2 else bankOf k
  if s.busyBank = some bank then (s.bump FLS_CNT_MISC_BUSY_READ 1, { data := List.replicate n 0#8, err := beats32 a n })
  else if cal = false ∧ s.incomplete k then
    ((s.drawn.bump FLS_CNT_MISC_INC_READ 1).flsIrq 25, { data := leBytes n s.free })
  else if ecc = 2 then
    let k := min n (32 - a % 32)
    (((s.bump FLS_CNT_ECC_UE 1).flsIrq 23).hwPost 0x0410 4 6 [], { data := List.replicate k 0#8 ++ s.norBytes (a + k) (n - k), err := beats32 a k })
  else
    let s1 := if ecc = 1 then (s.bump FLS_CNT_ECC_CE 1).flsIrq 24 else s
    if (cal = false ∧ s.unsure k) ∨ atLeast1 (s.rd FLS_WAIT_CYCLES) < s.flsNeed then (s1.drawn, { data := leBytes n s.free })
    else (s1, { data := s.norBytes a n })

/-- R470: a flash read. -/
def execFlashRead (addr n ecc : Nat) (s : State) : Out :=
  if addr < norBase ∨ norBase + 0x810800 < addr + n then .next { s with resp := some { data := List.replicate n 0#8, err := beats32 addr n } }
  else
    let r := s.flsReadOp addr n ecc
    .next { r.1 with resp := some r.2 }

/-! ## Command ends -/

def rOK : Nat := 0
def rSEQ : Nat := 1
def rBUSY : Nat := 2
def rVPP : Nat := 3
def rPROT : Nat := 4
def rSUSP : Nat := 5
def rINC : Nat := 6
def rTWICE : Nat := 7
def rVERIFY : Nat := 8
def rERASE : Nat := 9
def rPW : Nat := 10

/-- The sequence returns to READ. -/
def State.seqRead (s : State) : State := (s.wr FLS_OPSTAT_SEQ 0).updFls (fun f => { f with cmd := 0, buf := [], index := 0, step := 0 })

/-- A command ends with a result: OP_DONE, and OP_ERR when it is not OK. -/
def State.cmdEnd (s : State) (r : Nat) : State :=
  let s1 := (s.wr FLS_OPSTAT_RESULT r).flsIrq 28
  if r = rOK then s1 else s1.flsIrq 27

/-- A sequence is abandoned with SEQ_ERR (R473); in READ there is none to abandon (R474). -/
def State.seqErr (s : State) : State :=
  let s1 := if s.rd FLS_OPSTAT_SEQ = 0 then s else s.bump FLS_CNT_MISC_SEQ_ERR 1
  s1.seqRead.cmdEnd rSEQ

/-- The operation stops running. -/
def State.opEnd (s : State) (r : Nat) : State := ((s.updFls (fun f => { f with run := none })).wr FLS_OPSTAT_BUSY 0).cmdEnd r

/-- An operation begins. -/
def State.opStart (s : State) (x : FlsOp) : State :=
  (((s.updFls (fun f => { f with run := some x })).wr FLS_OPSTAT_BUSY 1).wr FLS_OPSTAT_OP x.op).wr FLS_OPSTAT_SECTOR x.sector

/-! ## Checks (Table 17-4) -/

/-- The sector is protected (R484, R486). -/
def State.protected_ (s : State) (k : Nat) : Bool :=
  if k < 128 then s.fls.ppb.contains k else s.rd FLS_BOOT_WP_WP / 2 ^ (k - 128) % 2 == 1

def opErase (op : Nat) : Bool := op == 3 || op == 4 || op == 5 || op == 7
def opProg (op : Nat) : Bool := op == 1 || op == 2

/-- Checks 2 to 7: the first that fails. -/
def State.opCheck (s : State) (op k : Nat) (words : List Nat) (vppOk : Bool) : Nat :=
  if s.fls.run.isSome ∨ (opErase op ∧ s.fls.held.isSome) then rBUSY
  else if vppOk = false then rVPP
  else if ((opProg op ∨ op = 3) ∧ s.protected_ k) ∨ ((op = 4 ∨ op = 5 ∨ op = 7) ∧ s.on FLS_PROT_PW_OPEN = false)
      ∨ (op = 6 ∧ s.on FLS_PROT_PW_LOCKED) then rPROT
  else if (opProg op ∨ op = 3) ∧ s.fls.held.elim false (fun h => h.sector == k) then rSUSP
  else if opProg op ∧ s.incomplete k then rINC
  else if opProg op ∧ words.any s.programmed then rTWICE
  else rOK

/-- PASSWORD_CHECK (R485). -/
def State.pwCheck (s : State) (l : List Byte) : State :=
  if l = s.fls.pw then ((s.wr FLS_PROT_PW_OPEN 1).wr FLS_PROT_FAILS 0).cmdEnd rOK
  else
    let n := min 8 (s.rd FLS_PROT_FAILS + 1)
    let s1 := s.wr FLS_PROT_FAILS n
    (if n = 8 then (s1.wr FLS_PROT_PW_LOCKED 1).flsIrq 21 else s1).cmdEnd rPW

/-- The sequence of a command is complete: the checks, and the command. A program marks its target words at once (R478). -/
def State.flsStart (s : State) (op k : Nat) (words : List (Nat × List Byte)) (pw : List Byte) (vppOk : Bool) : State :=
  let s0 := s.seqRead
  let r := s0.opCheck op k (words.map (·.1)) vppOk
  if ¬ r = rOK then s0.cmdEnd r
  else if op = 6 then (s0.wr FLS_OPSTAT_OP 6).pwCheck pw
  else
    let x : FlsOp := { op := op, sector := k, phase := if opProg op then 0 else if op = 3 then 1 else 4, words := words, pw := pw }
    let s1 := words.foldl (fun s w => (s.setBytes (norBase + 16 * w.1) (List.replicate 16 0xFF#8)).markProg w.1 1) s0
    s1.opStart x

/-! ## Suspend and resume (R482) -/

def State.eraseSuspend (s : State) : State :=
  s.updFls (fun f => { f with run := f.run.map (fun r => if r.op = 3 then { r with susp := true } else r) })

def State.eraseResume (s : State) (vppOk : Bool) : State :=
  match s.fls.held with
  | none => s
  | some x =>
    if s.fls.run.isSome then s.cmdEnd rBUSY
    else if vppOk = false then s.cmdEnd rVPP
    else ((s.updFls (fun f => { f with held := none })).wr FLS_OPSTAT_SUSP 0).opStart { x with susp := false }

/-! ## The sequence (R473 to R476) -/

def oCmd : Nat := 0x36C6C
def oAux : Nat := 0x19393

/-- Bytes by offset, ascending, gathered into whole code words; none when a word is partly written. -/
def gather (buf : List (Nat × Byte)) : Option (List (Nat × List Byte)) :=
  let ws := (sortBy (fun a b => decide (a ≤ b)) ((buf.map (fun e => e.1 / 16)).foldl (fun l w => insertN w l) []))
  let full := ws.map (fun w => (w, (List.range 16).filterMap (fun i => (buf.find? (fun e => e.1 == 16 * w + i)).map (·.2))))
  if full.all (fun e => e.2.length == 16) then some full else none
where
  sortBy (le : Nat → Nat → Bool) : List Nat → List Nat
    | [] => []
    | x :: r => ins le x (sortBy le r)
  ins (le : Nat → Nat → Bool) (x : Nat) : List Nat → List Nat
    | [] => [x]
    | y :: r => if le x y then x :: y :: r else y :: ins le x r

/-- An aligned write of 1, 2, 4, 8, 16 or, in the page phase, up to 256 bytes. -/
def alignedWrite (off n most : Nat) : Bool := decide (1 ≤ n) && decide (n ≤ most) && Nat.land n (n - 1) == 0 && off % n == 0

def putBytes (buf : List (Nat × Byte)) (off : Nat) (l : List Byte) : List (Nat × Byte) :=
  (l.zipIdx.map (fun e => (off + e.2, e.1))) ++ buf.filter (fun e => !(decide (off ≤ e.1) && decide (e.1 < off + l.length)))

/-- A write in the data phase of WORD_PROGRAM. -/
def State.wordData (s : State) (off : Nat) (l : List Byte) (vppOk : Bool) : State :=
  let n := l.length
  let word := (s.fls.buf.head?).elim (off / 16) (fun e => e.1 / 16)
  if alignedWrite off n 16 = false ∨ norArray off = false ∨ ¬ off / 16 = word
      ∨ s.fls.buf.any (fun e => decide (off ≤ e.1) && decide (e.1 < off + n)) then s.seqErr
  else
    let buf := putBytes s.fls.buf off l
    if buf.length = 16 then s.flsStart 1 (norSectorOf off) [(word, (List.range 16).map (fun i => ((buf.find? (fun e => e.1 == 16 * word + i)).map (·.2)).getD 0))]
      [] vppOk
    else s.updFls (fun f => { f with buf := buf })

/-- A write in the data phase of BUFFER_PROGRAM, or its confirm. A byte inside the page chosen is data while the page is not full. -/
def State.pageData (s : State) (off : Nat) (l : List Byte) (vppOk : Bool) : State :=
  let n := l.length
  let inPage := norArray off && (s.fls.buf.head?).elim true (fun e => off / 256 == e.1 / 256)
  let full := s.fls.buf.length == 256
  if inPage && !full && !(s.fls.buf.isEmpty && off == oAux && l == [0xC5#8]) then
    if alignedWrite off n 256 = false then s.seqErr
    else
      let buf := putBytes s.fls.buf off l
      (s.updFls (fun f => { f with buf := buf })).wr FLS_OPSTAT_SEQ (if buf.length = 256 then 4 else 3)
  else if off = oAux ∧ l = [0xC5#8] then
    (match s.fls.buf, gather s.fls.buf with
      | e :: _, some ws => s.flsStart 2 (norSectorOf e.1) ws [] vppOk
      | _, _ => s.seqErr)
  else s.seqErr

/-- A write in the phase of a password command. -/
def State.pwData (s : State) (off : Nat) (l : List Byte) (vppOk : Bool) : State :=
  let n := l.length
  if alignedWrite off n 16 = false ∨ 16 ≤ off ∨ s.fls.buf.any (fun e => decide (off ≤ e.1) && decide (e.1 < off + n)) then s.seqErr
  else
    let buf := putBytes s.fls.buf off l
    if buf.length = 16 then
      s.flsStart (if s.fls.cmd = 0x91 then 6 else 7) 0 [] ((List.range 16).map (fun i => ((buf.find? (fun e => e.1 == i)).map (·.2)).getD 0)) vppOk
    else s.updFls (fun f => { f with buf := buf })

/-- The second part of SECTOR_ERASE: the second U, then 0x1E in the sector. -/
def State.eraseTail (s : State) (off v : Nat) (vppOk : Bool) : State :=
  if s.fls.step = 0 ∧ off = oCmd ∧ v = 0x9C then s.updFls (fun f => { f with step := 1 })
  else if s.fls.step = 1 ∧ off = oAux ∧ v = 0x63 then s.updFls (fun f => { f with step := 2 })
  else if s.fls.step = 2 ∧ v = 0x1E ∧ norArray off ∧ norSectorOf off = s.fls.index then s.flsStart 3 s.fls.index [] [] vppOk
  else s.seqErr

/-- A write in a data, index or target phase. -/
def State.phaseWrite (s : State) (off : Nat) (l : List Byte) (vppOk : Bool) : State :=
  let v := leNat l
  let one := l.length == 1
  let c := s.fls.cmd
  if c = 0x4D then s.wordData off l vppOk
  else if c = 0x5B then s.pageData off l vppOk
  else if c = 0x91 ∨ c = 0x93 then s.pwData off l vppOk
  else if one = false then s.seqErr
  else if c = 0xE2 then
    (if s.rd FLS_OPSTAT_SEQ = 4 then s.eraseTail off v vppOk
    else if off = oAux ∧ v < 144 then (s.updFls (fun f => { f with index := v })).wr FLS_OPSTAT_SEQ 4
    else s.seqErr)
  else if c = 0xB6 then (if off < 0x800000 ∧ v = norSectorOf off then s.flsStart 4 v [] [] vppOk else s.seqErr)
  else if c = 0xB9 then (if off = 0 ∧ v = 0x6E then s.flsStart 5 0 [] [] vppOk else s.seqErr)
  else s.seqErr

/-- A command byte after U. -/
def State.afterU (s : State) (off v : Nat) : State :=
  if ¬ off = oCmd then s.seqErr
  else if v = 0x95 then ((s.seqRead).wr FLS_PROT_PW_OPEN 0).cmdEnd rOK
  else if v = 0x4D ∨ v = 0x5B ∨ v = 0xE2 ∨ v = 0x91 ∨ v = 0x93 ∨ v = 0xB6 ∨ v = 0xB9 then
    let s1 := (s.updFls (fun f => { f with cmd := v, buf := [], step := 0 })).wr FLS_OPSTAT_SEQ 3
    if v = 0x5B then s1.dmaPulse 13 else s1
  else s.seqErr

/-- One write cycle to the NOR windows at an offset from the main array. -/
def State.flsCycle (s : State) (off : Nat) (l : List Byte) (vppOk : Bool) : State :=
  let q := s.rd FLS_OPSTAT_SEQ
  let v := leNat l
  let one := l.length == 1
  if s.isOn bFLS 0 = false then s.flsIrq 19
  else if 3 ≤ q then s.phaseWrite off l vppOk
  else if one ∧ off = oAux ∧ v = 0xD4 then s.seqRead
  else if q = 0 ∧ one ∧ off = oAux ∧ v = 0x7B then s.eraseSuspend
  else if q = 0 ∧ one ∧ off = oAux ∧ v = 0x7D then s.eraseResume vppOk
  else if q = 0 ∧ one ∧ off = oCmd ∧ v = 0x9C then s.wr FLS_OPSTAT_SEQ 1
  else if q = 1 ∧ one ∧ off = oAux ∧ v = 0x63 then s.wr FLS_OPSTAT_SEQ 2
  else if q = 2 ∧ one then s.afterU off v
  else s.seqErr

/-- A fabric write to a NOR window: a command cycle, or the error response for the calibration row (R473). -/
def State.flsWriteOp (s : State) (a : Nat) (l : List Byte) (vppOk : Bool) : State × Bool :=
  if a < norBase ∨ norBase + 0x810000 ≤ a then (s, false) else (s.flsCycle (a - norBase) l vppOk, true)

/-- R473: a command cycle. -/
def execFlashCommandCycle (addr : Nat) (bytes : List Byte) (vppOk : Bool) (s : State) : Out :=
  let r := s.flsWriteOp addr bytes vppOk
  .next { r.1 with resp := some { err := if r.2 then [] else beats32 addr bytes.length } }

/-- The unlock cycles and a command byte. -/
def State.unlockCmd (s : State) (v : Nat) (vppOk : Bool) : State :=
  ((s.flsCycle oCmd [0x9C#8] vppOk).flsCycle oAux [0x63#8] vppOk).flsCycle oCmd [BitVec.ofNat 8 v] vppOk

/-- R475: the whole sequence of WORD_PROGRAM with one data write. -/
def execWordProgram (addr : Nat) (bytes : List Byte) (vppOk : Bool) (s : State) : Out :=
  .next ((s.unlockCmd 0x4D vppOk).flsWriteOp addr bytes vppOk).1

/-- R476: the whole sequence of BUFFER_PROGRAM. -/
def execBufferProgram (writes : List (Nat × List Byte)) (vppOk : Bool) (s : State) : Out :=
  .next ((writes.foldl (fun s w => (s.flsWriteOp w.1 w.2 vppOk).1) (s.unlockCmd 0x5B vppOk)).flsCycle oAux [0xC5#8] vppOk)

/-- R480: the whole sequence of SECTOR_ERASE; `target` is the address of a byte of the sector. -/
def execSectorErase (index target : Nat) (vppOk : Bool) (s : State) : Out :=
  let s1 := (s.unlockCmd 0xE2 vppOk).flsCycle oAux [BitVec.ofNat 8 index] vppOk
  .next (((s1.flsCycle oCmd [0x9C#8] vppOk).flsCycle oAux [0x63#8] vppOk).flsWriteOp target [0x1E#8] vppOk).1

/-- R482: ERASE_SUSPEND. -/
def execEraseSuspend (s : State) : Out := .next (s.flsCycle oAux [0x7B#8] true)

/-- R482: ERASE_RESUME. -/
def execEraseResume (vppOk : Bool) (s : State) : Out := .next (s.flsCycle oAux [0x7D#8] vppOk)

/-- R474: RESET. -/
def execFlashReset (s : State) : Out := .next (s.flsCycle oAux [0xD4#8] true)

/-- R485: the whole sequence of PASSWORD_CHECK. -/
def execPasswordCheck (pw : List Byte) (vppOk : Bool) (s : State) : Out := .next ((s.unlockCmd 0x91 vppOk).flsCycle 0 pw vppOk)

/-- R485: the whole sequence of PASSWORD_SET. -/
def execPasswordSet (pw : List Byte) (vppOk : Bool) (s : State) : Out := .next ((s.unlockCmd 0x93 vppOk).flsCycle 0 pw vppOk)

/-- R485: PASSWORD_CLOSE. -/
def execPasswordClose (s : State) : Out := .next (s.unlockCmd 0x95 true)

/-- R484: the whole sequence of PPB_SET. -/
def execPpbSet (addr value : Nat) (vppOk : Bool) (s : State) : Out :=
  .next ((s.unlockCmd 0xB6 vppOk).flsWriteOp addr [BitVec.ofNat 8 value] vppOk).1

/-- R484: the whole sequence of PPB_CLEAR_ALL. -/
def execPpbClearAll (vppOk : Bool) (s : State) : Out := .next ((s.unlockCmd 0xB9 vppOk).flsCycle 0 [0x6E#8] vppOk)

/-! ## Ends of operations -/

/-- R479: a program ends. With `fail` the word of that number fails: words before it hold their data, its content is undefined, and the rest
stand as they were. -/
def execProgramDone (fail : Option Nat) (retries : Nat) (s : State) : Out :=
  match s.fls.run with
  | none => .next s
  | some r =>
    if opProg r.op = false then .next s
    else
      let good := fail.elim r.words (fun k => r.words.take k)
      let s1 := good.foldl (fun s w => s.setBytes (norBase + 16 * w.1) w.2) s
      .next (match fail.bind (fun k => r.words[k]?) with
        | none => (s1.wr FLS_LAST_PROG_RETRY_RETRIES (min retries (atLeast1 (s.rd FLS_ERASE_LIM_PROG_MAX)))).opEnd rOK
        | some w => (s1.drawn.setBytes (norBase + 16 * w.1) (leBytes 16 s.free)).opEnd rVERIFY)

def setMap (s : State) (f : Nat → Fld) (k : Nat) (b : Bool) : State := s.wb ⟨(f (k / 32)).addr, k % 32, 1⟩ b

/-- The rating of a sector (Table 17-1). -/
def rating (k : Nat) : Nat := if k < 128 then 20000 else 2000

/-- The bits of a list of sectors, as the four PPB registers show them. -/
def State.showPpb (s : State) : State :=
  (List.range 4).foldl (fun s n => s.wr (FLS_PPB_PPB n) ((s.fls.ppb.filter (fun k => k / 32 == n)).foldl (fun a k => a + 2 ^ (k % 32)) 0)) s

/-- The pulse stops and the erase is suspended. -/
def State.suspendNow (s : State) (r : FlsOp) : State :=
  ((s.updFls (fun f => { f with run := none, held := some { r with susp := false, phase := 2 } })).wr FLS_OPSTAT_BUSY 0).wr FLS_OPSTAT_SUSP 1

/-- R480, R481, R484, R485: a metadata write completes. -/
def execMetadataWriteDone (s : State) : Out :=
  match s.fls.run with
  | none => .next s
  | some r =>
    if r.phase = 1 then
      let n := min 0xFFFFFF (sparseGet s.fls.counts r.sector + 1)
      let s1 := s.updFls (fun f => { f with
        counts := sparseSet f.counts r.sector n, markers := insertN r.sector f.markers, run := some { r with phase := 2 } })
      let s2 := if n = rating r.sector + 1 then ((setMap s1 FLS_WORN_MAP_MAP r.sector true).flsIrq 20).hwPost 0x0412 3 6 [] else s1
      .next (if r.susp then s2.suspendNow { r with phase := 2 } else s2)
    else if r.phase = 3 then
      let w := sectorWords r.sector
      let s1 := (s.updFls (fun f => { f with markers := removeN r.sector f.markers })).markErased w.1 w.2
      .next ((((setMap s1 FLS_INC_MAP_MAP r.sector false).wr FLS_LAST_ERASE_PULSES_SECTOR r.sector).wr FLS_LAST_ERASE_PULSES_PULSES r.pulses).opEnd rOK)
    else if r.phase = 4 then
      let s1 := if r.op = 4 then (s.updFls (fun f => { f with ppb := insertN r.sector f.ppb })).showPpb
        else if r.op = 5 then (s.updFls (fun f => { f with ppb := [] })).showPpb
        else if r.op = 7 then s.updFls (fun f => { f with pw := r.pw })
        else s
      .next (s1.opEnd rOK)
    else .next s

/-- R481: an erase pulse and its verify end. -/
def execErasePulseDone (pass vppOk : Bool) (s : State) : Out :=
  match s.fls.run with
  | none => .next s
  | some r =>
    if ¬ r.phase = 2 then .next s
    else
      let n := r.pulses + 1
      if pass ∧ vppOk then .next (s.updFls (fun f => { f with run := some { r with pulses := n, phase := 3, susp := false } }))
      else if vppOk = false ∨ atLeast1 (s.rd FLS_ERASE_LIM_MAX_PULSES) ≤ n then .next (s.opEnd rERASE)
      else
        let x := { r with pulses := n }
        .next (if r.susp then s.suspendNow x else s.updFls (fun f => { f with run := some x }))

/-- R482: the present pulse has stopped. -/
def execSuspendDone (s : State) : Out :=
  .next (match s.fls.run with
    | none => s
    | some r => if r.susp ∧ r.phase = 2 then s.suspendNow r else s)

/-! ## Margin scrub and registers (R486, R490) -/

/-- Words of both arrays. -/
def norWords : Nat := 528384

/-- R490: the margin scrubber reads the next word; `fails` says that the margin reads differ from the normal one. -/
def execMarginScrubRead (fails : Bool) (s : State) : Out :=
  if s.on FLS_MSCRUB_EN = false ∨ s.isOn bFLS 0 = false ∨ s.fls.run.isSome ∨ s.fls.held.isSome then .next s
  else
    let w := s.rd FLS_MSCRUB_POS_WORD
    let k := norSectorOf (16 * w)
    let skip := s.incomplete k
    let next := if skip then (sectorWords k).1 + (sectorWords k).2 else w + 1
    let s1 := if fails && !skip then
        ((if s.rd FLS_MSCRUB_FAIL_FAILS = 0 then s.wr FLS_MSCRUB_ADDR_ADDR (16 * w) else s).bump FLS_MSCRUB_FAIL_FAILS 1 |>.flsIrq 22).hwPost
          0x0411 3 6 []
      else s
    .next (if norWords ≤ next then (s1.wr FLS_MSCRUB_POS_WORD 0).bump FLS_MSCRUB_FAIL_PASSES 1 else s1.wr FLS_MSCRUB_POS_WORD next)

/-- A write of FLS_BOOT_WP from a fabric port: 1 sets; 0 clears only from port 13, and from another port leaves every bit unchanged. -/
def State.bootWp (s : State) (port : Nat) (val : Word) : State :=
  let old := s.rd FLS_BOOT_WP_WP
  let new := fieldOf val 0 16
  if port = 13 then s.wr FLS_BOOT_WP_WP new
  else if Nat.land old new = old then s.wr FLS_BOOT_WP_WP new
  else s.flsIrq 19

/-- R486: a write of FLS_BOOT_WP. -/
def execFlsBootWpWrite (port : Nat) (val : Word) (s : State) : Out := .next (s.gated FLS_BOOT_WP (fun s => s.bootWp port val))

/-- R470: a write of FLS_CNT_CLR. -/
def execFlsCntClr (val : Word) (s : State) : Out :=
  .next (s.gated FLS_CNT_CLR (fun s => if fieldOf val 0 1 = 1 then (s.setReg FLS_CNT_ECC 0).setReg FLS_CNT_MISC 0 else s))

/-- A write of FLS_MSCRUB_FAIL clears FAILS and ADDR. -/
def State.mscrubClear (s : State) : State := (s.wr FLS_MSCRUB_FAIL_FAILS 0).wr FLS_MSCRUB_ADDR_ADDR 0

/-- R490: a write of FLS_MSCRUB_FAIL, of any value. -/
def execMscrubFailClear (_val : Word) (s : State) : Out := .next (s.gated FLS_MSCRUB_FAIL (fun s => s.mscrubClear))

/-- The word that FLS_SECT_INFO shows for the sector selected. -/
def State.sectInfo (s : State) : Nat :=
  let k := s.rd FLS_SECT_SEL_SECTOR
  if 144 ≤ k then 0
  else b2n (s.incomplete k) * 2 ^ 31 + s.rd (FLS_WORN_MAP_MAP (k / 32)) / 2 ^ (k % 32) % 2 * 2 ^ 30 + b2n (s.protected_ k) * 2 ^ 29
    + sparseGet s.fls.counts k

/-! ## Start, shut-down, reset (R483, R491, R492) -/

/-- The start actions: the metadata row is loaded; sectors with the marker set are reported, but for one whose erase is only suspended. -/
def State.flsStartUp (s : State) : State :=
  let inc := s.fls.markers.filter (fun k => !(s.fls.held.elim false (fun h => h.sector == k)))
  let s1 := inc.foldl (fun s k => setMap s FLS_INC_MAP_MAP k true) s.showPpb
  let worn := (s.fls.counts.filter (fun e => decide (rating e.1 < e.2))).map (·.1)
  let s2 := worn.foldl (fun s k => setMap s FLS_WORN_MAP_MAP k true) s1
  if inc.isEmpty then s2 else s2.flsIrq 26

/-- The shut-down suspends a running erase. -/
def State.flsStop (s : State) : State := s.eraseSuspend

/-- A reset that reaches the block: the sequence and any erase are abandoned; the words of a program in progress are undefined. -/
def State.flsLost (s : State) : State :=
  let ws := s.fls.run.elim [] (fun r => r.words)
  (ws.foldl (fun s w => s.drawn.setBytes (norBase + 16 * w.1) (leBytes 16 s.free)) s).updFls (fun f => { f with
    cmd := 0, buf := [], index := 0, step := 0, run := none, held := none })

end Sys2Proof.Machine
end

