-- ==== Sys2Proof/Machine/Crypt.lean ====
section
/-! DEFINITION. The algorithms that the manual names without retelling them: AES-256 (FIPS 197) with XTS (R157), GCM (R313), CMAC (R319, R392),
KW (Table 13-4) and CTR_DRBG (R396); HMAC, HKDF, ECDSA and ECDH over P-384, certificates (Table 13-1). Log entry 10. -/

namespace Sys2Proof.Machine

/-! ## AES-256: a block is a number of 128 bits, byte 0 of FIPS 197 uppermost, so that columns follow each other downwards -/

/-- The substitution and its inverse, 256 entries of eight bits, entry 0 lowest. -/
def aesSub : Nat := 0x16BB54B00F2D99416842E6BF0D89A18CDF2855CEE9871E9B948ED9691198F8E19E1DC186B95735610EF6034866B53E708A8BBD4B1F74DDE8C6B4A61C2E2578BA08AE7A65EAF4566CA94ED58D6D37C8E779E4959162ACD3C25C2406490A3A32E0DB0B5EDE14B8EE4688902A22DC4F816073195D643D7EA7C41744975FEC130CCDD2F3FF1021DAB6BCF5389D928F40A351A89F3C507F02F94585334D43FBAAEFD0CF584C4A39BECB6A5BB1FC20ED00D153842FE329B3D63B52A05A6E1B1A2C830975B227EBE28012079A059618C323C7041531D871F1E5A534CCF73F362693FDB7C072A49CAFA2D4ADF04759FA7DC982CA76ABD7FE2B670130C56F6BF27B777C63
def aesUnsub : Nat := 0x7D0C2155631469E126D677BA7E042B17619953833CBBEBC8B0F52AAE4D3BE0A0EF9CC9939F7AE52D0D4AB519A97F51605FEC8027591012B131C7078833A8DD1FF45ACD78FEC0DB9A2079D2C64B3E56FC1BBE18AA0E62B76F89C5291D711AF1476EDF751CE837F9E28535ADE72274AC9673E6B4F0CECFF297EADC674F4111913A6B8A130103BDAFC1020F3FCA8F1E2CD00645B3B80558E4F70AD3BC8C00ABD890849D8DA75746155EDAB9EDFD5048706C92B6655DCC5CA4D41698688664F6F87225D18B6D49A25B76B224D92866A12E084EC3FA420B954CEE3D23C2A632947B54CBE9DEC444438E3487FF2F9B8239E37CFBD7F3819EA340BF38A53630D56A0952

def subByte (table x : Nat) : Nat := table / 2 ^ (8 * x) % 256

/-- The block of which every byte is `b`. -/
def aesEach (b : Nat) : Nat := b * 0x01010101010101010101010101010101

/-- Every byte twice, modulo x^8 + x^4 + x^3 + x + 1. -/
def aesTwice (v : Nat) : Nat := Nat.xor (2 * Nat.land v (aesEach 0x7F)) (0x1B * Nat.land (v / 128) (aesEach 1))

/-- Every column turned upwards by `r` bytes. -/
def aesTurn (r v : Nat) : Nat :=
  let low := 0x00000001000000010000000100000001 * (256 ^ r - 1)
  Nat.land v (0x00000001000000010000000100000001 * (256 ^ (4 - r) - 1)) * 256 ^ r + Nat.land (v / 256 ^ (4 - r)) low

/-- Each column multiplied by the circulant of 2, 3, 1, 1. -/
def aesMix (v : Nat) : Nat :=
  Nat.xor (aesTwice (Nat.xor v (aesTurn 1 v))) (Nat.xor (aesTurn 1 v) (Nat.xor (aesTurn 2 v) (aesTurn 3 v)))

/-- Each column multiplied by the circulant of 14, 11, 13, 9, which is that of 5, 0, 4, 0 and then the other. -/
def aesUnmix (v : Nat) : Nat := aesMix (Nat.xor v (aesTwice (aesTwice (Nat.xor v (aesTurn 2 v)))))

/-- Row `r` moved by r columns, forwards (step 1) or backwards (step 3), through a substitution. -/
def aesRows (table step v : Nat) : Nat :=
  (List.range 16).foldl (fun acc k => acc * 256 + subByte table (v / 256 ^ (15 - (4 * ((k / 4 + step * (k % 4)) % 4) + k % 4)) % 256)) 0

/-- A word through the substitution. -/
def aesWord (x : Nat) : Nat := (List.range 4).foldl (fun acc k => acc * 256 + subByte aesSub (x / 256 ^ (3 - k) % 256)) 0

/-- The 60 words of the key schedule of a 256-bit key, the first uppermost. -/
def aesSchedule (key : Nat) : Nat :=
  (List.range 52).foldl (fun w k =>
    let prev := w % 2 ^ 32
    let t := if k % 8 = 0 then Nat.xor (aesWord (prev % 2 ^ 24 * 256 + prev / 2 ^ 24)) (2 ^ (k / 8 + 24))
      else if k % 8 = 4 then aesWord prev else prev
    w * 2 ^ 32 + Nat.xor (w / 2 ^ 224 % 2 ^ 32) t) (key % 2 ^ 256)

/-- The key of round `r`. -/
def roundKey (w r : Nat) : Nat := w / 2 ^ (128 * (14 - r)) % 2 ^ 128

/-- A 128-bit block under a 256-bit key. -/
def aesEnc (key block : Nat) : Nat :=
  let w := aesSchedule key
  let x := (List.range 13).foldl (fun x r => Nat.xor (aesMix (aesRows aesSub 1 x)) (roundKey w (r + 1))) (Nat.xor block (roundKey w 0))
  Nat.xor (aesRows aesSub 1 x) (roundKey w 14)

def aesDec (key block : Nat) : Nat :=
  let w := aesSchedule key
  let x := (List.range 13).foldl (fun x r => aesUnmix (Nat.xor (aesRows aesUnsub 3 x) (roundKey w (13 - r)))) (Nat.xor block (roundKey w 14))
  Nat.xor (aesRows aesUnsub 3 x) (roundKey w 0)

/-- `n` bytes of a number, most significant byte first (R312). -/
def beBytes (n x : Nat) : List Byte := (leBytes n x).reverse

/-- The number that bytes spell, most significant byte first. -/
def beNat (l : List Byte) : Nat := leNat l.reverse

/-- Bytes of a number, most significant first. -/
def beList (n v : Nat) : List Nat := (List.range n).map (fun k => v / 256 ^ (n - 1 - k) % 256)

/-- The number that bytes spell, most significant first. -/
def beNum (l : List Nat) : Nat := l.foldl (fun acc b => 256 * acc + b) 0

/-! ## XTS (IEEE Std 1619) -/

/-- The next block's tweak: the product with α. -/
def xtsNext (t : Nat) : Nat := if 2 ^ 127 ≤ t then Nat.xor (2 * t % 2 ^ 128) 0x87 else 2 * t

/-- One data unit of whole blocks under a 512-bit key, the data key in its upper half. The tweak is encoded least significant byte
first (R157). -/
def xtsUnit (f : Nat → Nat → Nat) (key tweak : Nat) (l : List Byte) : List Byte :=
  let t0 := leNat (beBytes 16 (aesEnc (key % 2 ^ 256) (beNat (leBytes 16 tweak))))
  ((chunks 16 (l.length / 16) l).foldl (fun (x : Nat × List Byte) c =>
    let t := beNat (leBytes 16 x.1)
    (xtsNext x.1, x.2 ++ beBytes 16 (Nat.xor (f (key / 2 ^ 256 % 2 ^ 256) (Nat.xor (beNat c) t)) t))) (t0, [])).2

def xtsEnc (key tweak : Nat) (l : List Byte) : List Byte := xtsUnit aesEnc key tweak l
def xtsDec (key tweak : Nat) (l : List Byte) : List Byte := xtsUnit aesDec key tweak l

/-! ## GCM (SP 800-38D) -/

/-- The product in GF(2^128), bit 127 the coefficient of x^0. -/
def ghashMul (x y : Nat) : Nat :=
  ((List.range 128).foldl (fun (p : Nat × Nat) i =>
    (if x / 2 ^ (127 - i) % 2 = 1 then Nat.xor p.1 p.2 else p.1,
     if p.2 % 2 = 1 then Nat.xor (p.2 / 2) (0xE1 * 2 ^ 120) else p.2 / 2)) (0, y)).1

/-- The blocks of a byte string, the last padded with zeros. -/
def aesBlocks (l : List Byte) : List Nat :=
  (chunks 16 ((l.length + 15) / 16) l).map (fun c => beNat (c ++ List.replicate (16 - c.length) 0#8))

def ghash (h : Nat) (l : List Nat) : Nat := l.foldl (fun acc b => ghashMul (Nat.xor acc b) h) 0

/-- The counter stream from block `n` on over a byte string. -/
def ctrStream (key j0 n : Nat) (l : List Byte) : List Byte :=
  ((chunks 16 ((l.length + 15) / 16) l).zipIdx).flatMap (fun e =>
    let pad := beList 16 (aesEnc key (j0 / 2 ^ 32 * 2 ^ 32 + (j0 + n + e.2) % 2 ^ 32))
    List.zipWith (fun b p => b ^^^ BitVec.ofNat 8 p) e.1 pad)

/-- The 16-byte tag over additional data and ciphertext; the nonce has 96 bits. -/
def gcmTag (key nonce : Nat) (aad ct : List Byte) : List Byte :=
  let s := ghash (aesEnc key 0) (aesBlocks aad ++ aesBlocks ct ++ [8 * aad.length * 2 ^ 64 + 8 * ct.length])
  (beList 16 (Nat.xor s (aesEnc key (nonce * 2 ^ 32 + 1)))).map (BitVec.ofNat 8)

/-- Key, nonce, additional data, plaintext: the ciphertext followed by the tag. -/
def gcmSeal (key nonce : Nat) (aad pt : List Byte) : List Byte :=
  let ct := ctrStream key (nonce * 2 ^ 32 + 1) 1 pt
  ct ++ gcmTag key nonce aad ct

/-- The plaintext, none when the tag does not check. -/
def gcmOpen (key nonce : Nat) (aad ct tag : List Byte) : Option (List Byte) :=
  if gcmTag key nonce aad ct = tag then some (ctrStream key (nonce * 2 ^ 32 + 1) 1 ct) else none

/-! ## CMAC (SP 800-38B) and KW (SP 800-38F) -/

def cmacTwice (x : Nat) : Nat := if 2 ^ 127 ≤ x then Nat.xor (2 * x % 2 ^ 128) 0x87 else 2 * x

/-- AES-CMAC of a byte string. -/
def aesCmac (key : Nat) (l : List Byte) : Nat :=
  let k1 := cmacTwice (aesEnc key 0)
  let n := (l.length - 1) / 16
  let last := l.drop (16 * n)
  let end_ := if last.length = 16 then Nat.xor (beNum (last.map (·.toNat))) k1
    else Nat.xor (beNum ((last ++ [0x80#8] ++ List.replicate (15 - last.length) 0#8).map (·.toNat))) (cmacTwice k1)
  aesEnc key (Nat.xor ((aesBlocks (l.take (16 * n))).foldl (fun x b => aesEnc key (Nat.xor x b)) 0) end_)

/-- AES-KW of n 64-bit words, most significant first; 64 bits more come out. -/
def kwWrap (key n v : Nat) : Nat :=
  let r0 := (List.range n).map (fun i => v / 2 ^ (64 * (n - 1 - i)) % 2 ^ 64)
  let e := (List.range (6 * n)).foldl (fun (x : Nat × List Nat) t =>
    let b := aesEnc key (x.1 * 2 ^ 64 + nth x.2 (t % n) 0)
    (Nat.xor (b / 2 ^ 64) (t + 1), upd x.2 (t % n) (b % 2 ^ 64))) (0xA6A6A6A6A6A6A6A6, r0)
  e.2.foldl (fun acc w => acc * 2 ^ 64 + w) e.1

/-- The words of a wrapped value of n + 1 words; none when its integrity check fails. -/
def kwUnwrap (key n v : Nat) : Option Nat :=
  let r0 := (List.range n).map (fun i => v / 2 ^ (64 * (n - 1 - i)) % 2 ^ 64)
  let e := (List.range (6 * n)).reverse.foldl (fun (x : Nat × List Nat) t =>
    let b := aesDec key (Nat.xor x.1 (t + 1) * 2 ^ 64 + nth x.2 (t % n) 0)
    (b / 2 ^ 64, upd x.2 (t % n) (b % 2 ^ 64))) (v / 2 ^ (64 * n) % 2 ^ 64, r0)
  if e.1 = 0xA6A6A6A6A6A6A6A6 then some (e.2.foldl (fun acc w => acc * 2 ^ 64 + w) 0) else none

/-! ## CTR_DRBG (SP 800-90A) with AES-256 -/

/-- Update with 384 bits of provided data. -/
def Drbg.update (d : Drbg) (data : Nat) : Drbg :=
  let t := (List.range 3).foldl (fun acc i => acc * 2 ^ 128 + aesEnc d.key ((d.v + i + 1) % 2 ^ 128)) 0
  let x := Nat.xor t data
  { d with key := x / 2 ^ 128, v := x % 2 ^ 128 }

/-- The derivation function: 384 bits from a byte string. -/
def drbgDf (input : List Byte) : Nat :=
  let s := (beList 4 input.length ++ beList 4 48).map (BitVec.ofNat 8) ++ input ++ [0x80#8]
  let s := s ++ List.replicate ((16 - s.length % 16) % 16) 0#8
  let key := beNum (List.range 32)
  let bcc := fun (i : Nat) => (i * 2 ^ 96 :: aesBlocks s).foldl (fun x b => aesEnc key (Nat.xor x b)) 0
  let kx := (List.range 3).foldl (fun acc i => acc * 2 ^ 128 + bcc i) 0
  let k := kx / 2 ^ 128
  let x1 := aesEnc k (kx % 2 ^ 128)
  let x2 := aesEnc k x1
  (x1 * 2 ^ 128 + x2) * 2 ^ 128 + aesEnc k x2

/-- Instantiation and reseed from the raw bits of the entropy source. -/
def Drbg.instantiate (seed : List Byte) : Drbg := { ({} : Drbg).update (drbgDf seed) with count := 1 }
def Drbg.reseed (d : Drbg) (seed : List Byte) : Drbg := { d.update (drbgDf seed) with count := 1 }

/-- A request for `n` bits. -/
def Drbg.generate (d : Drbg) (n : Nat) : Nat × Drbg :=
  let k := (n + 127) / 128
  let out := (List.range k).foldl (fun acc i => acc * 2 ^ 128 + aesEnc d.key ((d.v + i + 1) % 2 ^ 128)) 0
  (out / 2 ^ (128 * k - n), { ({ d with v := (d.v + k) % 2 ^ 128 }).update 0 with count := d.count + 1 })

/-! ## HMAC (FIPS 198-1) and HKDF (SP 800-56C) over SHA-384 -/

/-- HMAC-SHA-384; a key of more than 128 bytes is hashed first. -/
def hmac384 (key msg : List Byte) : List Byte :=
  let k0 := if 128 < key.length then sha384 key else key
  let k := k0 ++ List.replicate (128 - k0.length) 0#8
  sha384 (k.map (· ^^^ 0x5C#8) ++ sha384 (k.map (· ^^^ 0x36#8) ++ msg))

def hkdfExtract (salt ikm : List Byte) : List Byte := hmac384 salt ikm

/-- `n` bytes from a pseudorandom key and a label. -/
def hkdfExpand (prk info : List Byte) (n : Nat) : List Byte :=
  ((List.range ((n + 47) / 48)).foldl (fun (x : List Byte × List Byte) i =>
    let t := hmac384 prk (x.1 ++ info ++ [BitVec.ofNat 8 (i + 1)])
    (t, x.2 ++ t)) ([], [])).2.take n

/-- The bytes of a label of ASCII characters (R317, Table 13-4). -/
def ascii (t : String) : List Byte := t.toList.map (fun c => BitVec.ofNat 8 c.toNat)

/-! ## P-384 (FIPS 186-4): ECDSA and ECDH -/

/-- The field, the order of the base point, the coefficient and the base point. -/
def ecP : Nat := 2 ^ 384 - 2 ^ 128 - 2 ^ 96 + 2 ^ 32 - 1
def ecN : Nat := 0xFFFFFFFFFFFFFFFFFFFFFFFFFFFFFFFFFFFFFFFFFFFFFFFFC7634D81F4372DDF581A0DB248B0A77AECEC196ACCC52973
def ecB : Nat := 0xB3312FA7E23EE7E4988E056BE3F82D19181D9C6EFE8141120314088F5013875AC656398D8A2ED19D2A85C8EDD3EC2AEF
def ecG : Nat × Nat := (0xAA87CA22BE8B05378EB1C71EF320AD746E1D3B628BA79B9859F741E082542A385502F25DBF55296C3A545E3872760AB7,
  0x3617DE4A96262C6F5D9E98BF9292DC29F8F41DBD289A147CE9DA3113B5F0B8C00A60B1CE1D7E819D7A431D7C90EA0E5F)

/-- The power of a number modulo `m`, by 384 bits of the exponent. -/
def powMod (m b e : Nat) : Nat :=
  (List.range 384).reverse.foldl (fun acc i => if e / 2 ^ i % 2 = 1 then acc * acc % m * b % m else acc * acc % m) 1

/-- The inverse modulo a prime. -/
def invMod (m a : Nat) : Nat := powMod m (a % m) (m - 2)

/-- A point as X, Y, Z for (X / Z^2, Y / Z^3); Z = 0 is the point at infinity. -/
abbrev EcPoint := Nat × Nat × Nat

def ecSub (a b : Nat) : Nat := (a + (ecP - b % ecP)) % ecP

/-- Twice a point; the curve's linear coefficient is -3. -/
def ecTwice (q : EcPoint) : EcPoint :=
  match q with
  | (x, y, z) =>
    let zz := z * z % ecP
    let yy := y * y % ecP
    let s := 4 * (x * yy % ecP) % ecP
    let m := 3 * (ecSub x zz * ((x + zz) % ecP) % ecP) % ecP
    let x3 := ecSub (m * m % ecP) (2 * s)
    (x3, ecSub (m * ecSub s x3 % ecP) (8 * (yy * yy % ecP)), 2 * (y * z % ecP) % ecP)

/-- The sum of two points. -/
def ecAdd (q r : EcPoint) : EcPoint :=
  match q, r with
  | (x1, y1, z1), (x2, y2, z2) =>
    if z1 = 0 then r
    else if z2 = 0 then q
    else
      let u1 := x1 * (z2 * z2 % ecP) % ecP
      let u2 := x2 * (z1 * z1 % ecP) % ecP
      let s1 := y1 * (z2 * z2 % ecP * z2 % ecP) % ecP
      let s2 := y2 * (z1 * z1 % ecP * z1 % ecP) % ecP
      if u1 = u2 then (if s1 = s2 then ecTwice q else (1, 1, 0))
      else
        let h := ecSub u2 u1
        let v := ecSub s2 s1
        let hh := h * h % ecP
        let hhh := h * hh % ecP
        let x3 := ecSub (ecSub (v * v % ecP) hhh) (2 * (u1 * hh % ecP))
        (x3, ecSub (v * ecSub (u1 * hh % ecP) x3 % ecP) (s1 * hhh), h * (z1 * z2 % ecP) % ecP)

/-- A multiple of a point. -/
def ecTimes (k : Nat) (q : EcPoint) : EcPoint :=
  (List.range 384).reverse.foldl (fun acc i => if k / 2 ^ i % 2 = 1 then ecAdd (ecTwice acc) q else ecTwice acc) (1, 1, 0)

/-- The coordinates of a point; none at infinity. -/
def ecAffine (q : EcPoint) : Option (Nat × Nat) :=
  if q.2.2 = 0 then none
  else
    let i := invMod ecP q.2.2
    some (q.1 * (i * i % ecP) % ecP, q.2.1 * (i * i % ecP * i % ecP) % ecP)

/-- An uncompressed point of 97 bytes that lies on the curve. -/
def ecPoint (l : List Byte) : Option EcPoint :=
  let x := beNat ((l.drop 1).take 48)
  let y := beNat (l.drop 49)
  if l.length = 97 ∧ l.head? = some 4#8 ∧ x < ecP ∧ y < ecP ∧ y * y % ecP = (x * (x * x % ecP) + (ecP - 3) * x + ecB) % ecP then some (x, y, 1)
  else none

def ecBytes (q : Nat × Nat) : List Byte := 4#8 :: (beBytes 48 q.1 ++ beBytes 48 q.2)

/-- The public point, 97 bytes, of a private key. -/
def ecPublic (d : Nat) : List Byte := ((ecAffine (ecTimes d (ecG.1, ecG.2, 1))).map ecBytes).getD []

/-- A private key from 448 random bits. -/
def ecPrivate (r : Nat) : Nat := r % (ecN - 1) + 1

/-- Z: the x-coordinate of the shared point, 48 bytes (R317). -/
def ecdh (d : Nat) (peer : List Byte) : Option (List Byte) :=
  (ecPoint peer).bind (fun q => (ecAffine (ecTimes d q)).map (fun z => beBytes 48 z.1))

/-- ECDSA over SHA-384 under a public point; the signature is r ‖ s of 96 bytes. -/
def ecdsaVerify (point msg sig : List Byte) : Bool :=
  let r := beNat (sig.take 48)
  let t := beNat (sig.drop 48)
  match ecPoint point with
  | none => false
  | some q =>
    if ¬ sig.length = 96 ∨ r = 0 ∨ t = 0 ∨ ecN ≤ r ∨ ecN ≤ t then false
    else
      let w := invMod ecN t
      let z := ecAdd (ecTimes (beNat (sha384 msg) * w % ecN) (ecG.1, ecG.2, 1)) (ecTimes (r * w % ecN) q)
      (ecAffine z).elim false (fun a => a.1 % ecN == r)

/-- The signature r ‖ s with private key `d` and per-message secret `k`. -/
def ecdsaSign (d k : Nat) (msg : List Byte) : List Byte :=
  let r := (ecAffine (ecTimes k (ecG.1, ecG.2, 1))).elim 0 (fun a => a.1 % ecN)
  beBytes 48 r ++ beBytes 48 (invMod ecN k * ((beNat (sha384 msg) + r * d) % ecN) % ecN)

/-! ## Certificates (R383): DER, X.509 version 3 -/

/-- The first element of a DER string: tag, content, and what follows; lengths take up to three bytes. -/
def derHead (l : List Byte) : Option (Nat × List Byte × List Byte) :=
  match l with
  | t :: n :: r =>
    let k := if n.toNat < 128 then 0 else n.toNat - 128
    let len := if n.toNat < 128 then n.toNat else beNat (r.take k)
    let c := r.drop k
    if k ≤ 3 ∧ k ≤ r.length ∧ ¬ n.toNat = 128 ∧ len ≤ c.length then some (t.toNat, c.take len, c.drop len) else none
  | _ => none

/-- The elements of a DER string, each with its tag and content. -/
def derList : Nat → List Byte → Option (List (Nat × List Byte))
  | 0, l => if l.isEmpty then some [] else none
  | n + 1, l =>
    if l.isEmpty then some []
    else (derHead l).bind (fun e => (derList n e.2.2).map (fun r => (e.1, e.2.1) :: r))

/-- What R383 needs of a certificate: the signed bytes, the key (empty when it is not ECDSA P-384) and the signature r ‖ s (empty when it is not ECDSA
P-384 over SHA-384). -/
structure Cert where
  signed : List Byte
  point : List Byte
  sig : List Byte
  deriving DecidableEq, Repr

/-- Object identifiers with their tags: an EC key of curve P-384, and a signature by ECDSA over SHA-384. -/
def oidKey : List Byte := [0x06#8, 0x07#8, 0x2A#8, 0x86#8, 0x48#8, 0xCE#8, 0x3D#8, 0x02#8, 0x01#8, 0x06#8, 0x05#8, 0x2B#8, 0x81#8, 0x04#8, 0x00#8, 0x22#8]
def oidSig : List Byte := [0x06#8, 0x08#8, 0x2A#8, 0x86#8, 0x48#8, 0xCE#8, 0x3D#8, 0x04#8, 0x03#8, 0x03#8]

/-- A DER integer of at most 48 bytes of value. -/
def derInt (e : Nat × List Byte) : Option Nat :=
  if e.1 = 2 ∧ ¬ e.2.isEmpty ∧ beNat e.2 < 2 ^ 384 then some (beNat e.2) else none

/-- The key of the subject: algorithm and bit string. -/
def certKey (l : List Byte) : List Byte :=
  match derList 2 l with
  | some [(0x30, alg), (0x03, b)] => if alg = oidKey ∧ b.head? = some 0#8 then b.drop 1 else []
  | _ => []

/-- The signature of a certificate. -/
def certSig (alg b : List Byte) : List Byte :=
  match (derHead (b.drop 1)).bind (fun e => if e.1 = 0x30 ∧ e.2.2.isEmpty ∧ b.head? = some 0#8 then derList 2 e.2.1 else none) with
  | some [r, t] => if alg = oidSig then ((derInt r).bind (fun x => (derInt t).map (fun y => beBytes 48 x ++ beBytes 48 y))).getD [] else []
  | _ => []

/-- A certificate: the signed part of version 3, the algorithm and the signature. -/
def certOf (l : List Byte) : Option Cert :=
  (derHead l).bind (fun body => match derList 3 l with
    | some [(0x30, tbs), (0x30, alg), (0x03, b)] =>
      (match derList 12 tbs with
        | some ((0xA0, v) :: _ :: _ :: _ :: _ :: _ :: (0x30, key) :: _) =>
          if body.1 = 0x30 ∧ v = [0x02#8, 0x01#8, 0x02#8] then
            some { signed := l.take (l.length - body.2.2.length), point := certKey key, sig := certSig alg b }
          else none
        | _ => none)
    | _ => none)

/-- A chain of certificates, leaf first. -/
def certChain (l : List Byte) : Option (List Cert) := (derList 5 l).bind (fun es => es.mapM (fun e => if e.1 = 0x30 then certOf e.2 else none))

/-- Every key and signature of a chain of 1 to 4 certificates is in order: each is signed by the next one, and the last one by an anchor's point
(R383). -/
def chainSigned (l : List Cert) (anchor : List Byte) : Bool :=
  decide (1 ≤ l.length) && decide (l.length ≤ 4) && l.all (fun c => (ecPoint c.point).isSome)
    && (l.zip (l.tail.map (·.point) ++ [anchor])).all (fun e => ecdsaVerify e.2 e.1.signed e.1.sig)

/-! ## Random bits of the Dome (R396) -/

/-- The entropy source gives 768 raw bits: free values. -/
def State.rawBits (s : State) : List Byte := leBytes 96 s.free

/-- A request for `n` bits of the DRBG, which is seeded before its first request and again after every 2^20; the raw tap starves it of a new seed
(DESIGN CHOICE, log entry 56). -/
def State.rand (s : State) (n : Nat) : Nat × State :=
  let d := s.dom.drbg
  let s1 : State :=
    if d.count = 0 then ({ s with dom := { s.dom with drbg := Drbg.instantiate s.rawBits } }).drawn
    else if 2 ^ 20 < d.count ∧ s.on DOM_TRNG_CFG_RAW_TAP = false then
      (({ s with dom := { s.dom with drbg := d.reseed s.rawBits } }).drawn).bump DOM_TRNG_STAT_RESEEDS 1
    else s
  let r := s1.dom.drbg.generate n
  (r.1, { s1 with dom := { s1.dom with drbg := r.2 } })

/-! ## Keys of the Dome (R385, Table 13-4) -/

/-- HKDF-SHA-384: `n` bytes. -/
def hkdf (salt ikm info : List Byte) (n : Nat) : List Byte := hkdfExpand (hkdfExtract salt ikm) info n

/-- KEK_DEV from the device salt of 32 bytes and the HUK. -/
def kekOf (salt : Nat) : Nat := beNat (hkdf (beBytes 32 salt) (beBytes 32 Config.huk) (ascii "igv kek") 32)

/-- The metadata key, from KEK_DEV. -/
def metaKeyOf (kek : Nat) : Nat := beNat (hkdfExpand (beBytes 32 kek) (ascii "igv meta") 64)

/-- The clock key, from the HUK alone. -/
def clockKey : Nat := beNat (hkdf (List.replicate 32 0#8) (beBytes 32 Config.huk) (ascii "igv clock") 32)

/-- VWK of a vault: KEK_DEV, the vault's salt and number, and the unlock secret, empty for none. -/
def vwkOf (kek salt v : Nat) (secret : List Byte) : Nat :=
  beNat (hkdf (beBytes 32 salt) (beBytes 32 kek) (ascii "igv vault" ++ beBytes 1 v ++ sha384 secret) 32)

/-- Entries of the key RAM: HUK, KEK_DEV, device identity key, metadata key, clock key, generation-1 drive key. The manual numbers none (DESIGN CHOICE, log
entry 57). -/
def krHuk : Nat := 0
def krKek : Nat := 1
def krDevice : Nat := 2
def krMeta : Nat := 3
def krClock : Nat := 4
def krGen1 : Nat := 5

/-- A key of the key RAM; an entry that holds none reads as zeros. -/
def State.ramKey (s : State) (k : Nat) : Nat := (s.dom.keyRam.find? (fun e => e.1 == k)).elim 0 (·.2)

end Sys2Proof.Machine
end

