-- ==== Sys2Proof/Machine/Detect.lean ====
section
/-! DEFINITION. Read-channel arithmetic: framing of samples, equaliser, soft detector, LDPC checks and min-sum decoder, sync search, adaptation. -/

namespace Sys2Proof.Machine

/-- A sync candidate as a search measures it (R209, R210): offset, Hamming distance, unsatisfied checks. -/
structure CandIn where
  off : Int
  hd : Nat
  synw : Nat
  deriving DecidableEq, Repr

/-! ## The sector of a generation (Tables 06-1 and 06-9) -/

/-- Bits of a sector on media (R153), of a codeword and of its information part (R154, R204). -/
def sectorBits : Nat := 37200
def codeBits : Nat := 36864
def infoBits : Nat := 33024

def preambleLen (fgen : Nat) : Nat := if fgen = 1 then 192 else 128

/-- The 64 bits of a generation's sync mark. -/
def syncMark (fgen : Nat) : Nat :=
  if fgen = 1 then 0x3B94E71AC52D680F else if fgen = 2 then 0x5E2B91C70D6AF348 else 0x7A1C4E93B0D62F85

/-- Bit `j` of the mark in media order, most significant first. -/
def markBit (fgen j : Nat) : Bool := syncMark fgen / 2 ^ (63 - j) % 2 == 1

/-- The first codeword bit of a sector. -/
def codeStart (fgen : Nat) : Nat := preambleLen fgen + 64

/-! ## Framing (R198) -/

/-- A reader takes part in a capture (READERS: 0 joint, 1 A, 2 B). -/
def usesReader (readers : Nat) (b : Bool) : Bool := readers == 0 || readers == (if b then 2 else 1)

/-- The piece that sector bit `i` belongs to, with the number of samples before the piece: the last piece whose first sector bit is not after
it, and the first piece for bits before the sector. -/
def pieceOf (ps : List Piece) (i : Int) : Option (Nat × Piece) :=
  (ps.foldl (fun (x : Nat × Option (Nat × Piece)) p =>
    (x.1 + p.count, if x.2.isNone || decide ((p.s0 : Int) ≤ i) then some (x.1, p) else x.2)) (0, none)).2

/-- The place in the stream of the sample that R198 gives sector bit `i` under offset `d`; none when it was not captured. -/
def frameIdx (ps : List Piece) (d i : Int) : Option Nat :=
  (pieceOf ps i).bind (fun e =>
    let k := (e.2.b0 : Int) + (i - e.2.s0) + d - e.2.bit
    if 0 ≤ k ∧ k < e.2.count then some (e.1 + k.toNat) else none)

/-- The sample of sector bit `i`. -/
def frameAt (ps : List Piece) (l : List Int) (d i : Int) : Option Int := (frameIdx ps d i).bind (fun k => l[k]?)

/-! ## Coefficient sets (Table 07-1) -/

/-- Word `off` of set `set` in a copy of the coefficient memory. -/
def coefAt (coef : List (Nat × Nat)) (set off : Nat) : Nat := sparseGet coef (128 * set + off)

/-- Tap k of reader A or B, Q10: joint taps for a joint capture, otherwise the single-reader taps of the reader and 0 for the other (R200). -/
def eqTap (coef : List (Nat × Nat)) (set readers : Nat) (b : Bool) (k : Nat) : Int :=
  if usesReader readers b then sx 12 (coefAt coef set ((if readers = 0 then 0 else 20) + (if b then 10 else 0) + k)) else 0

/-- TLEN: 3 to 5; other values act as 3. -/
def tlenOf (coef : List (Nat × Nat)) (set : Nat) : Nat :=
  let v := coefAt coef set 45
  if v = 4 ∨ v = 5 then v else 3

/-- G[j] brought from Q2 to Q10. -/
def targetTap (coef : List (Nat × Nat)) (set j : Nat) : Int :=
  if j < tlenOf coef set then sx 10 (coefAt coef set (40 + j)) * 256 else 0

/-- P_π[i], Q9, i = 1 to 3, and ISIG_π, Q8. -/
def noiseTap (coef : List (Nat × Nat)) (set pat i : Nat) : Int := sx 10 (coefAt coef set (48 + 4 * pat + (i - 1)))
def isigOf (coef : List (Nat × Nat)) (set pat : Nat) : Nat := coefAt coef set (51 + 4 * pat) % 4096

/-- x = +1 for bit 1 and -1 for bit 0. -/
def bitX (b : Bool) : Int := if b then 1 else -1

/-! ## Equaliser (R200) -/

/-- z[n] of R200 in Q10; a neighbour that was not captured counts as 0 (log entry 51). -/
def eqAt (coef : List (Nat × Nat)) (set readers : Nat) (a b : Int → Option Int) (n : Int) : Int :=
  (List.range 10).foldl (fun acc k =>
    acc + eqTap coef set readers false k * (a (n + 4 - k)).getD 0 + eqTap coef set readers true k * (b (n + 4 - k)).getD 0) 0

/-- z of every bit of a sector; none for an erased bit, one that a reader of the capture did not sample (R198). -/
def sectorZ (coef : List (Nat × Nat)) (set readers : Nat) (ps : List Piece) (la lb : List Int) (d : Int) : List (Option Int) :=
  let a := frameAt ps la d
  let b := frameAt ps lb d
  (List.range sectorBits).map (fun (n : Nat) =>
    if (!usesReader readers false || (a n).isSome) && (!usesReader readers true || (b n).isSome)
    then some (eqAt coef set readers a b n) else none)

/-- z of every sample of a stream, in capture order, as the front detector sees it. -/
def streamZ (coef : List (Nat × Nat)) (set readers : Nat) (la lb : List Int) : List (Option Int) :=
  let at_ := fun (l : List Int) (n : Int) => if n < 0 then none else l[n.toNat]?
  (List.range (max la.length lb.length)).map (fun (n : Nat) => some (eqAt coef set readers (at_ la) (at_ lb) n))

/-- The combined z of several captures (R219): the mean of the outputs of those that have the bit, rounded toward zero; erased where every
capture lacks it. -/
def combineZ (l : List (List (Option Int))) : List (Option Int) :=
  (List.range sectorBits).map (fun n =>
    let v := l.filterMap (fun z => nth z n none)
    if v.isEmpty then none else some ((v.foldl (· + ·) 0).tdiv v.length))

/-- The ideal output of bit n of decided bits, Q10 (R200). -/
def idealAt (coef : List (Nat × Nat)) (set : Nat) (x : Int → Bool) (n : Int) : Int :=
  (List.range 5).foldl (fun acc (j : Nat) => acc + targetTap coef set j * bitX (x (n - j))) 0

/-- The samples that the digital loop-back gives a capture (Table 20-8): the serialiser's bits convolved with G of set 0, in ADC codes. A sum of
Q2 products that is no whole code is rounded freely (log entry 51). -/
def loopSamples (coef : List (Nat × Nat)) (fr : Nat) (ps : List Piece) (sent : List Bool) : List Byte :=
  ps.flatMap (fun p => (List.range p.count).map (fun (k : Nat) =>
    let i := (p.s0 : Int) + (p.bit + k - p.b0)
    let x := fun (n : Int) => if n < 0 then 0 else (sent[n.toNat]?).elim 0 bitX
    let sum := (List.range 5).foldl (fun acc (j : Nat) => acc + targetTap coef 0 j / 256 * x (i - j)) 0
    let code := if sum % 4 = 0 then sum / 4 else sum / 4 + (fr / 2 ^ k % 2 : Nat)
    BitVec.ofInt 8 (clampI code (-128) 127)))

/-! ## Soft detector (R203) -/

/-- The natural logarithm of n / d for d ≤ n ≤ 2 d, with 60 fraction bits, by the series of the inverse hyperbolic tangent. -/
def lnRatio (n d : Nat) : Nat :=
  let t := (n - d) * 2 ^ 60 / (n + d)
  let t2 := t * t / 2 ^ 60
  2 * ((List.range 20).foldl (fun (x : Nat × Nat) i => (x.1 + x.2 / (2 * i + 1), x.2 * t2 / 2 ^ 60)) (0, t)).1

/-- ln (ISIG / 256) with 54 fraction bits; the logarithm of 0 has no value (Config.lnZero). -/
def lnIsig (v : Nat) : Int :=
  if v = 0 then Config.lnZero
  else ((Nat.log2 v * lnRatio 2 1 + lnRatio v (2 ^ Nat.log2 v) : Nat) - (8 * lnRatio 2 1 : Nat) : Int) / 64

/-- The survivor of a state: its metric with 54 fraction bits (none: no path), and the last three errors, Q10. -/
structure Surv where
  metric : Option Int := some 0
  e1 : Int := 0
  e2 : Int := 0
  e3 : Int := 0
  deriving DecidableEq, Repr

/-- A branch: `w` holds the last five bits, the newest lowest. An erased bit has no channel metric. -/
def branch (coef : List (Nat × Nat)) (set : Nat) (y : Option Int × Int) (w : Nat) (s : Surv) : Surv :=
  let x := fun j => bitX (w / 2 ^ j % 2 == 1)
  let prior := x 0 * y.2 * 2 ^ 53
  match y.1 with
  | none => { metric := s.metric.map (· - prior), e1 := 0, e2 := s.e1, e3 := s.e2 }
  | some z =>
    let e := (List.range 5).foldl (fun acc j => acc - targetTap coef set j * x j) z
    let v := e * 512 - noiseTap coef set (w % 16) 1 * s.e1 - noiseTap coef set (w % 16) 2 * s.e2 - noiseTap coef set (w % 16) 3 * s.e3
    let m := (isigOf coef set (w % 16)) * v
    { metric := s.metric.map (fun c => c + m * m - 2 * lnIsig (isigOf coef set (w % 16)) - prior), e1 := e, e2 := s.e1, e3 := s.e2 }

def survLe (a b : Surv) : Bool :=
  match a.metric, b.metric with
  | some x, some y => decide (x ≤ y)
  | some _, none => true
  | none, some _ => false
  | none, none => true

/-- One bit of the 16-state trellis: each state keeps the better of the two branches that reach it. -/
def trellis (coef : List (Nat × Nat)) (set : Nat) (l : List Surv) (y : Option Int × Int) : List Surv :=
  (List.range 16).map (fun q =>
    let a := branch coef set y q (nth l (q / 2) {})
    let b := branch coef set y (q + 16) (nth l (q / 2 + 8) {})
    if survLe a b then a else b)

/-- The best total metric. -/
def bestMetric (l : List Surv) : Option Int :=
  l.foldl (fun m s => match m, s.metric with
    | some a, some b => some (min a b)
    | none, y => y
    | x, none => x) none

/-- The states whose newest bit is `b`. -/
def keepBit (b : Bool) (l : List Surv) : List Surv :=
  l.zipIdx.map (fun e => if (e.2 % 2 == 1) == b then e.1 else { e.1 with metric := none })

/-- For every bit, the best total metric with the bit 1 less the best with the bit 0, over the 64 bits after it. -/
def detectGo (coef : List (Nat × Nat)) (set : Nat) : List Surv → List (Option Int × Int) → List Int
  | _, [] => []
  | l, y :: r =>
    let t := trellis coef set l y
    let best := fun b => (bestMetric ((r.take 64).foldl (trellis coef set) (keepBit b t))).getD 0
    (best true - best false) :: detectGo coef set t r

/-- A 6-bit LLR. -/
def llrSat (x : Int) : Int := clampI x (-31) 31

/-- Bit `n` of a free value. -/
def freeBit (fr n : Nat) : Nat := fr / 2 ^ n % 2

/-- The extrinsic LLRs of a detector pass (R203): half the metric difference in steps of 0.5, less the a priori LLR. A difference that is no
whole step is rounded freely (log entry 51). -/
def detect (coef : List (Nat × Nat)) (set fr : Nat) (l : List (Option Int × Int)) : List Int :=
  (List.zip (detectGo coef set (List.replicate 16 {}) l) l).zipIdx.map (fun e =>
    let q : Int := e.1.1 / 2 ^ 54
    llrSat ((if e.1.1 % 2 ^ 54 = 0 then q else q + (freeBit fr e.2 : Int)) - e.1.2.2))

/-- The decision of an LLR: positive favours bit 0; an LLR of 0 is decided freely (log entry 51). -/
def hardBit (fr n : Nat) (l : Int) : Bool := decide (l < 0) || (l == 0 && freeBit fr n == 1)

def hardBits (fr : Nat) (l : List Int) : List Bool := l.zipIdx.map (fun e => hardBit fr e.2 e.1)

/-! ## LDPC code (R204 to R206) -/

/-- The bits that row `i` of block row `r` of H_g checks (Table 07-2). -/
def checkVars (g r i : Nat) : List Nat :=
  ((List.range 129).filterMap (fun c => if (ldpcRows c).contains r then some (256 * c + (i + ldpcShift g r c) % 256) else none))
    ++ (if r = 0 ∨ r = 14 then [256 * 129 + (i + 1) % 256] else if r = 7 then [256 * 129 + i] else [])
    ++ (if 1 ≤ r then [256 * (129 + r) + i] else []) ++ (if r < 14 then [256 * (130 + r) + i] else [])

/-- The 3,840 checks in order of block row. -/
def checksOf (g : Nat) : List (List Nat) := (List.range 15).flatMap (fun r => (List.range 256).map (fun i => checkVars g r i))

/-- Checks of H_g that a word leaves unsatisfied; H_g v = 0 when there is none (R204). -/
def unsatOf (g : Nat) (v : Nat → Bool) : Nat :=
  ((checksOf g).filter (fun c => c.foldl (fun acc n => xor acc (v n)) false)).length

/-- The check-to-variable messages of a check from its variable-to-check messages: offset min-sum with offset 1, floored at 0. -/
def checkOut (q : List Int) : List Int :=
  (List.range q.length).map (fun k =>
    let o := q.eraseIdx k
    let mag := (o.foldl (fun m x => min m x.natAbs) 32) - 1
    if o.foldl (fun n x => xor n (decide (x < 0))) false then -(mag : Int) else mag)

/-- One check of a layer: the LLRs of its bits and its messages (R206). -/
def checkStep (post : List Int) (vars : List Nat) (old : List Int) : List Int × List Int :=
  let q := vars.zipIdx.map (fun e => llrSat (nth post e.1 0 - nth old e.2 0))
  let new := (checkOut q).map llrSat
  (vars.zipIdx.foldl (fun l e => upd l e.1 (nth l e.1 0 - nth old e.2 0 + nth new e.2 0)) post, new)

/-- One local iteration: block rows 0 to 14 in order (R206). -/
def localIteration (g : Nat) (post : List Int) (msgs : List (List Int)) : List Int × List (List Int) :=
  ((checksOf g).zipIdx).foldl (fun x e =>
    let r := checkStep x.1 e.1 (nth msgs e.2 [])
    (r.1, x.2 ++ [r.2])) (post, [])

/-! ## Sync search (R209, R210) -/

/-- The LLRs that a sector's codeword bits take from a pass over a stream, framed by offset `d`: 0 for a bit that was not captured. -/
def codeFrame (fgen : Nat) (ps : List Piece) (soft : List Int) (d : Int) : List Int :=
  (List.range codeBits).map (fun n => (frameAt ps soft d ((codeStart fgen + n : Nat) : Int)).getD 0)

/-- What the front detector measures at offset `d`: the position's HD and SYNW; none when its 64 bits were not captured in piece 0. `whole`
asks besides that every codeword bit was captured (mode 4 of Table 07-4). -/
def measureAt (fgen : Nat) (ps : List Piece) (soft : List Int) (fr : Nat) (whole : Bool) (d : Int) : Option CandIn :=
  let dec := fun (n : Nat) => hardBit fr n (nth soft n 0)
  let inFirst := ps.head?.elim false (fun p =>
    let k := (p.b0 : Int) + preambleLen fgen + d - p.bit
    decide (0 ≤ k) && decide (k + 63 < p.count) && decide (k + 63 < soft.length))
  let at_ := fun (i : Nat) => (frameIdx (ps.take 1) d (i : Int)).elim false dec
  let code := fun (n : Nat) => (frameIdx ps d ((codeStart fgen + n : Nat) : Int)).elim (freeBit fr n == 1) dec
  let all := (List.range codeBits).all (fun n => (frameAt ps soft d ((codeStart fgen + n : Nat) : Int)).isSome)
  if inFirst && (!whole || all) then
    some { off := d, hd := ((List.range 64).filter (fun j => !(at_ (preambleLen fgen + j) == markBit fgen j))).length,
           synw := unsatOf fgen code }
  else none

/-- The positions from E - W to E + W. -/
def searchAll (fgen w : Nat) (ps : List Piece) (soft : List Int) (fr : Nat) (whole : Bool) : List CandIn :=
  (List.range (2 * w + 1)).filterMap (fun (k : Nat) => measureAt fgen ps soft fr whole ((k : Int) - w))

/-! ## Quality and adaptation (R202, R221) -/

/-- The decided bit n of a sector: the mark before the codeword, then the decisions. -/
def decided (fgen : Nat) (bits : List Bool) (n : Int) : Bool :=
  if n < codeStart fgen then markBit fgen (63 - (codeStart fgen - 1 - n).toNat) else nth bits (n - codeStart fgen).toNat false

/-- CORR: codeword bits whose final decision differs from the first. -/
def flipsOf (first bits : List Bool) : Nat := ((List.zip first bits).filter (fun e => !(e.1 == e.2))).length

/-- e[n] of the codeword's bits that were sampled, with their place. -/
def codeErrors (coef : List (Nat × Nat)) (set fgen : Nat) (z : List (Option Int)) (bits : List Bool) : List (Nat × Int) :=
  (List.range codeBits).filterMap (fun k =>
    let n := codeStart fgen + k
    (nth z n none).map (fun v => (n, v - idealAt coef set (decided fgen bits) n)))

/-- MSE: the mean of e[n] squared in 1/16 ADC code squared; a mean that is no whole unit is rounded freely (log entry 51). -/
def mseOf (coef : List (Nat × Nat)) (set fgen fr : Nat) (z : List (Option Int)) (bits : List Bool) : Nat :=
  let e := codeErrors coef set fgen z bits
  let num := e.foldl (fun acc x => acc + x.2.natAbs * x.2.natAbs) 0
  let den := 2 ^ 16 * max 1 e.length
  if num % den = 0 then num / den else num / den + fr % 2

/-- For each of the 20 joint taps, the sum over the codeword of e[n] x sample[n + 4 - k], Q10 (R202). -/
def tapSums (coef : List (Nat × Nat)) (fgen : Nat) (ps : List Piece) (la lb : List Int) (d : Int) (bits : List Bool) : List Int :=
  let e := codeErrors coef 0 fgen (sectorZ coef 0 0 ps la lb d) bits
  (List.range 20).map (fun k =>
    let l := if k < 10 then la else lb
    e.foldl (fun acc x => acc + x.2 * (frameAt ps l d ((x.1 : Int) + 4 - (k % 10 : Nat))).getD 0) 0)

/-- Bits in media order as bytes (R153). -/
def bytesOf (l : List Bool) : List Byte := (chunks 8 (l.length / 8) l).map (fun c => BitVec.ofNat 8 (c.foldl (fun acc b => 2 * acc + b2n b) 0))

end Sys2Proof.Machine
end

