-- ==== Sys2Proof/Machine/Media.lean ====
section
/-! DEFINITION. What the media units share: local angles, gates, sample windows and captures, write sectors and their outcomes,
comparators, sources and corrections of the angle, the actuator modes and the emergency retract. -/

namespace Sys2Proof.Machine

def towers : List Tower := [.A, .B]

/-! ## Consumer levels of the filtered inputs -/

/-- EMRG_HOLD (R150): EMRG_RETRACT_N is active, or has not re-armed. -/
def State.emrgHold (s : State) : Bool := s.inActive 3 || !s.on (BEL_IN_STAT_ARMED 3)

/-! ## Angles -/

/-- The local angle of a Tower with its 24 fraction bits (R45). -/
def State.local56 (s : State) (t : Tower) : Nat := ux 56 ((s.atb.angle.toNat : Int) + (s.atb.tw.get t).skewNow)

/-- The local angle of a Tower (R45). -/
def State.localAngle (s : State) (t : Tower) : Nat := s.local56 t / 2 ^ 24

/-- The local angle crossed `φ` ac, modulo `m` ac, in the last fabric cycle (R55, R575). -/
def State.crossed (s : State) (t : Tower) (φ m : Nat) : Bool :=
  (s.local56 t + (m - φ % m) * 2 ^ 24) % (m * 2 ^ 24) < (s.atb.tw.get t).adv

/-- The ATB angle (R43). -/
def State.angle32 (s : State) : Nat := s.atb.angle.toNat / 2 ^ 24

def loadedFld : Tower → Fld
  | .A => ATB_SRC_LOADED_A
  | .B => ATB_SRC_LOADED_B
def lockFld : Tower → Fld
  | .A => ATB_SRC_LOCK_A
  | .B => ATB_SRC_LOCK_B
def goodFld : Tower → Fld
  | .A => ATB_SRC_GOOD_A
  | .B => ATB_SRC_GOOD_B

def State.locked (s : State) (t : Tower) : Bool := s.on (lockFld t)
def State.epoch (s : State) : Nat := s.rd ATB_EPOCH_EPOCH

def srcOBS : Nat := 0
def srcFLY : Nat := 3
def srcOf : Tower → Nat
  | .A => 1
  | .B => 2

/-- The source Tower, when SRC is a servo. -/
def State.srcTower (s : State) : Option Tower :=
  if s.rd ATB_SRC_SRC = 1 then some .A else if s.rd ATB_SRC_SRC = 2 then some .B else none

/-! ## Sequencer notifications -/

/-- Track sequencer `o` of a Tower. -/
def seqOf (t : Tower) (o : Nat) : Spire := ⟨0, 4 * t.idx + o % 4⟩

/-- An outcome notification for OUTC (Table 10-6). -/
def State.note (s : State) (t : Tower) (owner : Nat) (w : Word) : State :=
  s.updSpire (seqOf t owner) (fun p => { p with notes := p.notes ++ [w] })

/-- The OUTC word of Table 10-6. -/
def outcWord (last : Bool) (ordinal wout : Nat) (pass : Bool) (outcome : Nat) : Word :=
  BitVec.ofNat 32 (b2n last * 2 ^ 31 + ordinal % 64 * 2 ^ 16 + wout % 4 * 2 ^ 8 + b2n pass * 16 + outcome % 16)

/-! ## Quality (R221) -/

/-- The 512th power, by squaring nine times. -/
def pow512 (x : Nat) : Nat := (List.range 9).foldl (fun y _ => y * y) x

/-- round(-256 log10(c / 36,864)): the largest n with 10^(2n-1) c^512 at most 36,864^512. -/
def eberOf (corr : Nat) : Nat :=
  let c := pow512 (max corr 1)
  let top := pow512 36864
  (List.range 11).reverse.foldl (fun n b => if 10 ^ (2 * (n + 2 ^ b) - 1) * c ≤ top then n + 2 ^ b else n) 0

/-! ## Lantern power and learning -/

/-- The signed trim of a head. -/
def State.trim (s : State) (t : Tower) (h : Nat) : Int := s.rdI (LAN_HEAD_TRIM t.idx h)

/-- The active head of a Tower. -/
def State.head (s : State) (t : Tower) : Nat := (s.srv.get t).head

/-- The power table entry (R242). -/
def State.ptab (s : State) (t : Tower) (i : Nat) : Nat := sparseGet (s.twr.get t).lan.ptab i

/-- P of R242 for the next gate: the active head and the zone of the write run. -/
def State.nextP (s : State) (t : Tower) : Nat :=
  (clampI ((s.ptab t (64 * s.head t + s.rd (LAN_STAT_ZONE t.idx)) : Int) + s.trim t (s.head t)) 0
    (s.rd (LAN_LIMIT_PMAX t.idx) : Int)).toNat

/-- While the assist gate is closed and P differs from the code acknowledged last, the Lantern sends ASSIST_CODE (R243). -/
def State.lanAssist (s : State) (t : Tower) : State :=
  if s.isOn bLAN t.idx ∧ ¬ s.rd (LAN_CFG_KIND t.idx) = 0 ∧ s.on (LAN_STAT_AG t.idx) = false ∧
      ¬ (s.twr.get t).lan.acked = some (s.nextP t) ∧ ¬ (s.twr.get t).cpl.pendAssist = some (s.nextP t) then
    (s.updCpl t (fun c => { c with pendAssist := some (s.nextP t) })).updLan t (fun l => { l with assistWait := true })
  else s

/-- Set a warning bit of a head with its interrupt and its record (R253, Table 19-3). -/
def State.headWarn (s : State) (t : Tower) (f : Fld) (h bit : Nat) : State :=
  if s.on ⟨f.addr, f.lo + h, 1⟩ then s
  else ((s.wr ⟨f.addr, f.lo + h, 1⟩ 1).irq bLAN t.idx 0 bit).hwPost 0x0703 3 (20 + t.idx) [BitVec.ofNat 8 h]

/-- One VERIFY record is counted by the assist learning (R250). -/
def State.lanLearn (s : State) (t : Tower) (head zone : Nat) (failed : Bool) (eber locals : Nat) : State :=
  let l := (s.twr.get t).lan
  if s.on (LAN_CFG_LEARN_EN t.idx) = false ∨ ¬ zone = s.rd (LAN_STAT_ZONE t.idx) ∨ ¬ head = l.runHead then s
  else
    let fresh := !(l.lrnHead == head && l.lrnZone == zone)
    let n := (if fresh then 0 else s.rd (LAN_LEARN_N_COUNT t.idx)) + 1
    let fails := (if fresh then 0 else l.lrnFails) + b2n failed
    let eb := (if fresh then 0 else l.lrnEber) + (if failed then 0 else eber)
    let lo := (if fresh then 0 else l.lrnLocal) + locals
    if n < atLeast1 (s.rd (LAN_LEARN_N_N t.idx)) then
      (s.wr (LAN_LEARN_N_COUNT t.idx) n).updLan t (fun l =>
        { l with lrnHead := head, lrnZone := zone, lrnFails := fails, lrnEber := eb, lrnLocal := lo })
    else
      let i := 64 * head + zone
      let p := s.ptab t i
      let p' :=
        if 0 < fails ∨ eb < s.rd (LAN_LEARN_EBER_LO t.idx) * n ∨ s.rd (LAN_LEARN_ITER_HI t.idx) * n < lo then
          min (p + 1) (s.rd (LAN_LIMIT_PMAX t.idx))
        else if s.rd (LAN_LEARN_EBER_HI t.idx) * n < eb then max (p - 1) (s.rd (LAN_PMIN_PMIN t.idx))
        else p
      let s1 := (s.wr (LAN_LEARN_N_COUNT t.idx) 0).updLan t (fun l =>
        { l with lrnHead := head, lrnZone := zone, lrnFails := 0, lrnEber := 0, lrnLocal := 0,
                 ptab := if l.ptabNow = some i then l.ptab else sparseSet l.ptab i p' })
      let r := s1.ptab t (64 * head + s.rd (LAN_DRIFT_REFZ t.idx head))
      let s2 := if (s.rd (LAN_DRIFT_DRIFT_LIM t.idx head) : Int) < (r : Int) - s.rd (LAN_DRIFT_BASE t.idx head)
        then s1.headWarn t (LAN_WARN_D_DRIFT_WARN t.idx) head 25 else s1
      s2.lanAssist t

/-! ## Write sectors (R234) -/

/-- The running sector of a write run ends with an outcome of Table 08-1; the run ends at the first that is not WRITTEN. When the
run has no verify captures, the sequencer's outcome word comes here, with OUTCOME REFUSED (log entry 17). -/
def State.sectorEnd (s : State) (t : Tower) (wout : Nat) : State :=
  match (s.twr.get t).run with
  | none => s
  | some r =>
    if r.ended then s
    else
      let ended := !(wout == 0) || r.cur + 1 == r.count
      let s1 := s.updTwr t (fun x => { x with run := some { r with
        cur := r.cur + 1, writing := false, ended := ended, wouts := r.wouts ++ [wout] } })
      let s2 := if wout = 0 then s1.bump (TWR_CNT_WR_WRITTEN t.idx) 1
        else ((s1.wr (TWR_STAT_LAST t.idx) wout).bump (TWR_CNT_VFAIL_CUT t.idx) 1).irq bTWR t.idx 0
          (if wout = 3 then 26 else 27)
      let verified := match (s.spire (seqOf t 0)).plan with
        | some p => p.queued
        | none => false
      if verified then s2
      else s2.note t 0 (outcWord ended r.cur wout false 9)

/-- The write outcome of sector `i` of the run; a sector that the run did not reach counts as not started. -/
def WriteRun.woutOf (r : WriteRun) (i : Nat) : Nat := r.wouts.getD i 2

/-! ## Channel outcomes -/

/-- What a record of Table 07-5 reports beside its capture. -/
structure RecInfo where
  unit : Nat := 0
  outcome : Nat := 0
  slot : Nat := 63
  auto : Bool := false
  tag : Nat := 0
  epoch : Nat := 0
  readers : Nat := 0
  eqset : Nat := 0
  cand : Cand := {}
  ncand : Nat := 0
  relaxed : Bool := false
  missed : Bool := false
  g : Nat := 0
  l : Nat := 0
  unsat : Nat := 0
  mse : Nat := 0
  corr : Nat := 0
  dtime : Nat := 0
  crcDone : Bool := false
  crcOk : Bool := false
  delivered : Bool := false
  deriving DecidableEq, Repr

/-- The slot is pinned (CHN_RB_PINMAP). -/
def pinFld (i slot : Nat) : Fld :=
  if slot < 32 then ⟨CHN_RB_PINMAP_LO i, slot, 1⟩ else ⟨CHN_RB_PINMAP_HI i, slot - 32, 1⟩

def State.pinned (s : State) (t : Tower) (slot : Nat) : Bool := slot < 51 && s.on (pinFld t.idx slot)

/-- EBER of a record (R221). -/
def RecInfo.eber (r : RecInfo) : Nat := if r.outcome = 0 then eberOf r.corr else 0

/-- The eight words of a result record (Table 07-5). Fields that do not apply are 0. -/
def recWords (s : State) (t : Tower) (c : CapPlan) (r : RecInfo) : List Word :=
  let sl := nth (s.chn.get t).slots r.slot {}
  let gen := sl.gen
  let has := !(r.slot == 63)
  [ BitVec.ofNat 32 (r.unit * 2 ^ 28 + r.outcome * 2 ^ 24 + b2n (s.pinned t r.slot) * 2 ^ 23 + b2n r.auto * 2 ^ 22
      + r.slot * 2 ^ 16 + (if has then gen else 0) * 2 ^ 8 + r.tag % 256),
    BitVec.ofNat 32 (c.head % 16 * 2 ^ 28 + c.track % 2 ^ 24),
    BitVec.ofNat 32 (c.pos % 2048 * 2 ^ 16 + c.fgen % 16 * 2 ^ 12 + r.readers % 4 * 2 ^ 10 + r.eqset % 4 * 2 ^ 8
      + r.epoch % 256),
    BitVec.ofNat 32 (r.cand.idx % 4 * 2 ^ 30 + r.ncand % 4 * 2 ^ 28 + ux 8 r.cand.off * 2 ^ 20 + r.cand.hd % 64 * 2 ^ 14
      + b2n r.relaxed * 2 ^ 13 + b2n r.missed * 2 ^ 12 + r.cand.synw % 4096),
    BitVec.ofNat 32 (r.g % 16 * 2 ^ 28 + r.l % 4096 * 2 ^ 16 + r.unsat % 4096),
    BitVec.ofNat 32 (min r.mse 65535 * 2 ^ 16 + min r.corr 65535),
    BitVec.ofNat 32 (r.eber * 2 ^ 16 + (if has then sl.gainA % 256 * 2 ^ 8 + sl.gainB % 256 else 0)),
    BitVec.ofNat 32 (min r.dtime 65535 * 2 ^ 16 + b2n r.crcDone * 4 + b2n r.crcOk * 2 + b2n r.delivered) ]

/-- SIZE of a ring whose LOG2SIZE admits `lo` to `hi`, other values acting as `d`. -/
def ringSize (log lo hi d : Nat) : Nat := if lo ≤ log ∧ log ≤ hi then 2 ^ log else 2 ^ d

/-- Words stored at consecutive addresses. -/
def State.setWords (s : State) (a : Nat) : List Word → State
  | [] => s
  | w :: r => (s.setWord a w).setWords (a + 4) r

/-- One record enters the result ring, or is dropped when it is full (R220, R222). -/
def State.chnRecord (s : State) (t : Tower) (c : CapPlan) (r : RecInfo) : State :=
  let size := ringSize (s.rd (CHN_RING_CFG_LOG2SIZE t.idx)) 4 12 8
  let prod := s.rd (CHN_RING_PROD_INDEX t.idx)
  let cons := s.rd (CHN_RING_CONS_INDEX t.idx)
  let s1 :=
    if (prod + 65536 - cons) % 65536 = size then
      (s.irq bCHN t.idx 0 27).bump (CHN_CNT_FAIL_RING_DROP t.idx) 1
    else
      ((s.setWords (s.rd (CHN_RING_BASE_BASE t.idx) + 32 * (prod % size)) (recWords s t c r)).wr
        (CHN_RING_PROD_INDEX t.idx) (prod + 1)).irq bCHN t.idx 0 28
  let s2 := if r.outcome = 0 then s1 else s1.irq bCHN t.idx 0 26
  let s3 := if r.outcome = 3 then s2.irq bCHN t.idx 0 25 else s2
  if r.outcome = 5 then s3.irq bCHN t.idx 0 20 else s3

/-- The counts of one outcome (page CHN 6). -/
def State.chnCounts (s : State) (t : Tower) (r : RecInfo) : State :=
  let i := t.idx
  let live := !(r.unit == 2)
  let s1 := if live && r.outcome == 0 then s.bump (CHN_CNT_CONV_COUNT i) 1 else s
  let s2 := if r.outcome = 0 then s1.bump ⟨CHN_CNT_CAND i, 8 * (r.cand.idx % 4), 8⟩ 1 else s1
  let s3 := if r.outcome = 6 then s2.bump (CHN_CNT_FAIL_NO_SLOT i) 1 else s2
  let s4 := if r.outcome = 5 then s3.bump (CHN_CNT_FAIL_INCOMPLETE i) 1 else s3
  let s5 := if live && (r.outcome == 7 || (1 ≤ r.outcome && r.outcome ≤ 4)) then s4.bump (CHN_CNT_FAIL_LIVE_FAIL i) 1 else s4
  let s6 := if r.outcome = 3 then s5.bump (CHN_CNT_SYNC_MISS i) 1 else s5
  if r.unit == 2 && r.outcome == 0 then s6.bump (CHN_CNT_REPLAY_CONV i) 1 else s6

/-- The verdict of R256 for a VERIFY outcome. -/
def State.verdict (s : State) (t : Tower) (wout : Nat) (r : RecInfo) : Bool :=
  wout == 0 && r.outcome == 0 && s.rd (TWR_VERIFY_EBER_MIN t.idx) ≤ r.eber && r.l ≤ s.rd (TWR_VERIFY_ITER_MAX t.idx)

/-- Firmware takes note of an outcome of a sector that did not converge, or whose ladder runs (R258): `live` tells a capture from a replay
request, whose mode is `mode`. -/
def State.sectorSeen (s : State) (t : Tower) (c : CapPlan) (r : RecInfo) (live : Bool) (mode : Nat) : State :=
  let y := s.lay.get t
  let mine := fun (x : SeenOut) => x.head == c.head && x.track == c.track && x.pos == c.pos
  let old := y.seen.find? mine
  if old.isNone && (r.outcome == 0 || !live) then s
  else
    let o := old.getD { head := c.head, track := c.track, pos := c.pos }
    let n : SeenOut :=
      if live then { o with slot := r.slot, gen := (nth (s.chn.get t).slots r.slot {}).gen, live := r.outcome, at_ := s.fwk.cycle,
                            out := r.outcome, unsat := r.unsat, corr := r.corr, modes := [], count := o.count + 1 }
      else { o with out := r.outcome, unsat := r.unsat, corr := r.corr, modes := if r.outcome = 8 then o.modes else insertN mode o.modes }
    { s with lay := s.lay.set t { y with seen := n :: y.seen.filter (fun x => !mine x) } }

/-- A live outcome: its counts, its record, the learning and the verdict of a VERIFY, and the owner's notification
(R214, R220, R250, R256). -/
def State.liveOutcome (s : State) (t : Tower) (c : CapPlan) (r : RecInfo) : State :=
  let s0 := (s.chnCounts t r).chnRecord t c r
  let s1 := if c.verify then s0 else s0.sectorSeen t c r true 0
  if c.verify then
    let wout := ((s.twr.get t).run.elim 2 (fun w => w.woutOf c.ordinal))
    let pass := s.verdict t wout r
    let s2 := if r.outcome = 0 ∨ r.outcome = 1 ∨ r.outcome = 2 ∨ r.outcome = 7 then
        s1.lanLearn t c.head c.zone (!(r.outcome == 0)) r.eber r.l else s1
    let s3 := if pass then s2 else (s2.bump (TWR_CNT_VFAIL_VFAIL t.idx) 1).irq bTWR t.idx 0 28
    s3.note t c.owner (outcWord c.last c.ordinal wout pass r.outcome)
  else s1.note t c.owner (outcWord c.last c.ordinal 0 (r.outcome == 0) r.outcome)

/-- The record fields that a started capture fixes. -/
def State.capInfo (s : State) (t : Tower) (c : CapPlan) (slot outcome : Nat) : RecInfo :=
  { unit := b2n c.verify, outcome := outcome, slot := slot, tag := c.tag, readers := c.readers, eqset := c.eqset,
    epoch := (nth (s.chn.get t).slots slot {}).epoch }

/-- CAP_NORMAL and CAP_VERIFY follow the captures in progress. -/
def State.capBits (s : State) (t : Tower) : State :=
  let cs := (s.chn.get t).caps.filter (fun e => (nth (s.chn.get t).slots e.2 {}).capturing)
  (s.wb (CHN_STAT_CAP_NORMAL t.idx) (cs.any (fun e => !e.1.verify))).wb (CHN_STAT_CAP_VERIFY t.idx) (cs.any (fun e => e.1.verify))

/-- A reader has no further piece of a started capture to sample: its last window has closed or was followed by another, or the local angle has
passed the end of the last piece in it. -/
def State.readerOver (s : State) (t : Tower) (b : Bool) (p : CapPlan) : Bool :=
  let c := s.chn.get t
  let opens := if b then c.opensB else c.opensA
  let lastWin := (if b then p.baseB else p.baseA) + p.firstWin + p.pieces.length
  let past := (s.localAngle t + 2 ^ 24 - (if b then c.winAtB else c.winAtA) % 2 ^ 24) % 2 ^ 24
  decide (lastWin < opens) || (opens == lastWin && (!(if b then c.winB else c.winA) || decide (p.endOff ≤ past)))

/-- The capture's last piece has closed, for every reader that it uses. -/
def State.capOver (s : State) (t : Tower) (p : CapPlan) : Bool :=
  (!usesReader p.readers false || s.readerOver t false p) && (!usesReader p.readers true || s.readerOver t true p)

/-- Captures whose last piece has closed are complete (R199). -/
def State.capSettle (s : State) (t : Tower) : State :=
  let full := (s.chn.get t).caps.filter (fun e => (nth (s.chn.get t).slots e.2 {}).capturing && s.capOver t e.1)
  if full.isEmpty then s
  else (s.updChn t (fun c => { c with
    slots := full.foldl (fun l e => upd l e.2 { nth l e.2 {} with capturing := false }) c.slots })).capBits t

/-- A started capture that is still capturing ends INCOMPLETE and its slot is not replayable (R199). -/
def State.capCut (s : State) (t : Tower) (e : CapPlan × Nat) : State :=
  if (nth (s.chn.get t).slots e.2 {}).capturing then
    ((s.updChn t (fun c => { c with
      caps := c.caps.filter (fun x => !(x.2 == e.2)),
      slots := upd c.slots e.2 { nth c.slots e.2 {} with
        capturing := false, replayable := false, gainA := s.rd (CHN_AFE_STAT_GAIN t.idx 0), gainB := s.rd (CHN_AFE_STAT_GAIN t.idx 1) }
    })).capBits t).liveOutcome t e.1
        (s.capInfo t e.1 e.2 5)
  else s

/-- Every capture in progress of a Tower ends INCOMPLETE (R199). -/
def State.capCutAll (s : State) (t : Tower) : State := (s.chn.get t).caps.foldl (fun s e => s.capCut t e) s

/-- The sample windows of a Tower close. -/
def State.winShut (s : State) (t : Tower) : State := s.updChn t (fun c => { c with winA := false, winB := false })

/-! ## Gates -/

/-- The loop-back of CHN_TEST in force (Table 20-8); 4 to 7 act as 0. -/
def State.chnLoop (s : State) (t : Tower) : Nat := if 4 ≤ (s.chn.get t).loopNow then 0 else (s.chn.get t).loopNow

/-- A digital or analog loop-back is in force: the gates follow their comparators alone (R552). -/
def State.gatesFree (s : State) (t : Tower) : Bool := s.chnLoop t == 1 || s.chnLoop t == 2

/-- What R53, R63, R83 and R146 ask for a gate of a Tower. -/
def State.gateCommon (s : State) (t : Tower) : Bool :=
  s.isOn bATB 0 && s.srcTower.isSome && !s.on ATB_CFG_OBS_ONLY && s.on ATB_SRC_LOCKED && !s.on ATB_SRC_WG_INHIBIT && !s.on SPN_MODE_SPIN_INHIBIT
    && !s.on (SRV_MODE_OTWI t.idx)

/-- R230, R552. -/
def State.agOk (s : State) (t : Tower) : Bool :=
  s.gatesFree t || (s.gateCommon t && s.isOn bLAN t.idx && s.on (LAN_STAT_READY t.idx)
    && !(s.twr.get t).lan.holdHeads.contains (s.head t) && !(s.twr.get t).lan.assistWait && !s.inActive 1)

def State.wgOpen (s : State) (t : Tower) : Bool := s.on (TWR_STAT_WG t.idx)
def State.agOpen (s : State) (t : Tower) : Bool := s.on (TWR_STAT_AG t.idx)

/-- R229, R552. -/
def State.wgOk (s : State) (t : Tower) : Bool :=
  s.gatesFree t || ((s.gateCommon t || s.chnLoop t == 3) && s.isOn bTWR t.idx && s.isOn bCPL t.idx && !s.inActive 1
    && (s.rd (LAN_CFG_KIND t.idx) == 0 || s.agOpen t))

/-- The CPL_x_WG and CPL_x_AG pins follow the gates (R231), and stay at 0 under a loop-back (R552). -/
def State.wgPin (s : State) (t : Tower) : Bool := s.wgOpen t && !s.gatesFree t
def State.agPin (s : State) (t : Tower) : Bool := s.agOpen t && s.chnLoop t == 0

/-- The assist gate as TWR_STAT and LAN_STAT show it. -/
def State.setAG (s : State) (t : Tower) (v : Bool) : State := (s.wb (TWR_STAT_AG t.idx) v).wb (LAN_STAT_AG t.idx) v

/-- A sector being written ends CUT (R229, R234). -/
def State.cutSector (s : State) (t : Tower) : State :=
  match (s.twr.get t).run with
  | some r => if r.writing then s.sectorEnd t 1 else s
  | none => s

/-- The write gate drops when it is open; a gate that follows its comparators alone stays (R552). -/
def State.dropWG (s : State) (t : Tower) : State :=
  if s.wgOpen t && !s.gatesFree t then (s.wr (TWR_STAT_WG t.idx) 0).cutSector t else s

/-- The assist gate drops when it is open; a code that waited for the closed gate is then sent (R243). -/
def State.dropAG (s : State) (t : Tower) : State :=
  if s.agOpen t && !s.gatesFree t then (s.setAG t false).lanAssist t else s

/-- Both gates of a Tower drop. -/
def State.dropGates (s : State) (t : Tower) : State := (s.dropAG t).dropWG t

/-- The gates of a Tower drop as soon as a condition of R229 or R230 fails. -/
def State.regate (s : State) (t : Tower) : State :=
  let s1 := if s.agOk t then s else s.dropAG t
  if s1.wgOk t then s1 else s1.dropWG t

def State.regateBoth (s : State) : State := (s.regate .A).regate .B

/-! ## Capture start (R191, R192, R196, R223) -/

/-- Slots that a queued or running replay request names. -/
def reqSlots (q : RpReq) : List Nat :=
  let w := fun i => (nth q.words i 0).toNat
  let n := bits (w 1) 18 2
  [bits (w 0) 0 6] ++ (if 1 ≤ n then [bits (w 2) 0 6] else []) ++ (if 2 ≤ n then [bits (w 2) 16 6] else [])
    ++ (if 3 ≤ n then [bits (w 3) 0 6] else [])

/-- A slot is FREE (R197). -/
def State.slotFree (s : State) (t : Tower) (k : Nat) : Bool :=
  let c := s.chn.get t
  let sl := nth c.slots k {}
  !sl.capturing && !sl.decoding && !s.pinned t k && !c.queue.any (fun q => (reqSlots q).contains k)
    && !(c.replay.elim false (fun d => (reqSlots d.req).contains k))
    && !c.crcs.any (fun e => e.1 == .replay && (reqSlots e.2.req).contains k)

/-- The slot R196 takes: the first FREE one after the slot allocated last. -/
def State.nextSlot (s : State) (t : Tower) : Option Nat :=
  ((List.range 51).map (fun i => (s.rd (CHN_RB_STAT_LAST_ALLOC t.idx) + 1 + i) % 51)).find? (fun k => s.slotFree t k)

/-- A sector capture starts. -/
def State.capStart (s : State) (t : Tower) (p : CapPlan) : State :=
  let c := s.chn.get t
  let other := c.caps.any (fun e => !(e.1.verify == p.verify) && (nth c.slots e.2 {}).capturing)
  if s.isOn bCHN t.idx = false then s.liveOutcome t p (s.capInfo t p 63 8)
  else if other then s.liveOutcome t p (s.capInfo t p 63 9)
  else match s.nextSlot t with
    | none => s.liveOutcome t p (s.capInfo t p 63 6)
    | some k =>
      let sl : RbSlot :=
        { gen := ((nth c.slots k {}).gen + 1) % 256, capturing := true, replayable := true,
          epoch := s.epoch, cap := p, coef := c.coef }
      (((s.updChn t (fun c => { c with slots := upd c.slots k sl, caps := c.caps ++ [(p, k)] })).wr
        (CHN_RB_STAT_LAST_ALLOC t.idx) k).bump (CHN_CNT_SECT_COUNT t.idx) 1).capBits t

/-- What a reader's front end runs with (R193, R223). -/
inductive AfeBank
  | off
  | data
  | servo
  | idle
  deriving DecidableEq, Repr

def afePwr (t : Tower) (b : Bool) : Fld := if b then CHN_AFE_B_PWR t.idx else CHN_AFE_A_PWR t.idx
def afeGain (t : Tower) (b : Bool) : Fld := if b then CHN_AFE_B_GAIN t.idx else CHN_AFE_A_GAIN t.idx
def afeAgc (t : Tower) (b : Bool) : Fld := if b then CHN_AFE_B_AGC_EN t.idx else CHN_AFE_A_AGC_EN t.idx

/-- The setting bank of a reader: data settings inside its sample window; outside, the servo reader's front end runs with CHN_AFE_SRV. Of
the other reader outside its window the manual says nothing. -/
def State.afeBank (s : State) (t : Tower) (b : Bool) : AfeBank :=
  let c := s.chn.get t
  if s.isOn bCHN t.idx = false ∨ s.on (afePwr t b) = false then .off
  else if (if b then c.winB else c.winA) then .data
  else if s.on (SRV_CFG_SRDR t.idx) = b then .servo
  else .idle

/-- The settings word in force. -/
def State.afeWord (s : State) (t : Tower) (b : Bool) : Option Word :=
  match s.afeBank t b with
  | .data => some (s.reg (if b then CHN_AFE_B t.idx else CHN_AFE_A t.idx))
  | .servo => some (s.reg (CHN_AFE_SRV t.idx))
  | _ => none

/-- Gain and phase of a reader's loops. -/
def State.afeSet (s : State) (t : Tower) (b : Bool) (g : Nat × Nat) : State :=
  (s.wr (CHN_AFE_STAT_GAIN t.idx (b2n b)) g.1).wr (CHN_AFE_STAT_PHASE t.idx (b2n b)) g.2

/-- A window opens on a reader's loops: a new sector starts from the programmed gain and phase 0, a further piece resumes from the held state
(R194). -/
def State.afeOpen (s : State) (t : Tower) (b new : Bool) : State :=
  let c := s.chn.get t
  s.afeSet t b (if new then (s.rd (afeGain t b), 0) else if b then c.heldB else c.heldA)

/-- A window closes: the loops hold their state, and the servo reader's front end goes over to the gain of CHN_AFE_SRV. -/
def State.afeClose (s : State) (t : Tower) (b : Bool) : State :=
  let g := (s.rd (CHN_AFE_STAT_GAIN t.idx (b2n b)), s.rd (CHN_AFE_STAT_PHASE t.idx (b2n b)))
  let s1 := s.updChn t (fun c => if b then { c with heldB := g } else { c with heldA := g })
  if s.on (SRV_CFG_SRDR t.idx) = b then s1.wr (CHN_AFE_STAT_GAIN t.idx (b2n b)) (s.rd (CHN_AFE_SRV_GAIN t.idx)) else s1

/-- A reader's sample window opens: the captures whose first piece lies in this window start (R192, R287). -/
def State.winOpen (s : State) (t : Tower) (b : Bool) : State :=
  let c := s.chn.get t
  if (if b then c.winB else c.winA) then s
  else
    let k := if b then c.opensB else c.opensA
    let due := fun (p : CapPlan) => usesReader p.readers b && (if b then p.baseB else p.baseA) + p.firstWin == k
    let now := c.plans.filter due
    let a := s.localAngle t
    let s1 := s.updChn t (fun c =>
      let c1 := { c with plans := c.plans.filter (fun p => !due p) }
      if b then { c1 with winB := true, opensB := k + 1, winAtB := a } else { c1 with winA := true, opensA := k + 1, winAtA := a })
    now.foldl (fun s p => s.capStart t p) (s1.afeOpen t b !now.isEmpty)

/-- A reader's sample window closes; a capture that has no further piece is complete. -/
def State.winClose (s : State) (t : Tower) (b : Bool) : State :=
  ((s.updChn t (fun c => if b then { c with winB := false } else { c with winA := false })).afeClose t b).capSettle t

/-! ## Comparators -/

def cmpTower (n : Nat) : Tower := if n < 64 then .A else .B
def State.cmpArmed (s : State) (n : Nat) : Bool := s.on (ATB_CMP_CTL_ARM n)

/-- The COMPARE packet of a comparator (Table 20-10). -/
def State.cmpTrace (s : State) (n status : Nat) : State :=
  s.trace 7 0x38 5 ([BitVec.ofNat 8 n, BitVec.ofNat 8 status] ++ leBytes 4 (s.rd (ATB_CMP_TGT_TGT n)))

/-- A comparator ends: ARM clears and STATUS is written; every fire, flush or refusal is traced. -/
def State.cmpEnd (s : State) (n status : Nat) : State :=
  ((s.wr (ATB_CMP_CTL_ARM n) 0).wr (ATB_CMP_CTL_STATUS n) status).cmpTrace n status

/-- An armed comparator ends FLUSHED. A write gate that it would have opened for a sector under way stays shut, so that the sector
ends CUT. -/
def State.cmpFlush (s : State) (n : Nat) : State :=
  if s.cmpArmed n then
    let s1 := s.cmpEnd n 4
    if s.rd (ATB_CMP_CTL_ACTION n) = 1 then s1.cutSector (cmpTower n) else s1
  else s

/-- The armed comparators of a Tower end FLUSHED. -/
def State.cmpFlushT (s : State) (t : Tower) : State :=
  ((List.range 64).map (fun i => 64 * t.idx + i)).foldl (fun s n => s.cmpFlush n) s

/-- The 16 comparators that a track sequencer owns end FLUSHED (Table 10-15). -/
def State.cmpFlushSeq (s : State) (seq : Nat) : State :=
  ((List.range 16).map (fun i => 16 * seq + i)).foldl (fun s n => s.cmpFlush n) s

/-- The write gate opens, or stays shut; a sector under way whose later piece finds it shut ends CUT (R229, R231). -/
def State.openWG (s : State) (t : Tower) : State :=
  if s.wgOpen t then s
  else if s.wgOk t then s.wr (TWR_STAT_WG t.idx) 1
  else s.cutSector t

/-- The assist gate opens, or stays shut (R230, R242, R253). -/
def State.openAG (s : State) (t : Tower) : State :=
  if s.agOpen t then s
  else if s.agOk t then
    let p := s.nextP t
    let s1 := ((s.setAG t true).wr (LAN_STAT_P t.idx) p).updLan t (fun l => { l with temps := [], dutyNow := true })
    if s.rd (LAN_LIMIT_PWARN t.idx) < p then s1.headWarn t (LAN_WARN_POWER_WARN t.idx) (s.head t) 27 else s1
  else s.updLan t (fun l => { l with tryNow := true })

/-- The scheduled close of the assist gate: CONSEC clears and a waiting code is sent (R243, R246). -/
def State.closeAG (s : State) (t : Tower) : State :=
  if s.agOpen t then
    (((((s.setAG t false).updLan t (fun l => { l with shutNow := some (s.rd (LAN_CNT_CONSEC t.idx)) })).wr (LAN_CNT_CONSEC t.idx) 0)).regate
      t).lanAssist t
  else s

/-- The effect of a comparator action (Table 02-3). -/
def State.cmpAct (s : State) (t : Tower) (action owner : Nat) : State :=
  match action with
  | 1 => s.openWG t
  | 2 => s.wr (TWR_STAT_WG t.idx) 0
  | 3 => s.openAG t
  | 4 => s.closeAG t
  | 5 => s.winOpen t false
  | 6 => s.winClose t false
  | 7 => s.winOpen t true
  | 8 => s.winClose t true
  | 10 => s.updSpire (seqOf t owner) (fun p => { p with ef0 := true })
  | 11 => s.updSpire (seqOf t owner) (fun p => { p with ef1 := true })
  | _ => s

/-- The action of a comparator that opens or closes: an open that meets a close of the same gate or window in one cycle leaves it closed
(R62, Table 02-4). -/
def State.cmpActNow (s : State) (t : Tower) (action owner : Nat) : State :=
  if action % 2 = 1 ∧ action ≤ 7 ∧ (s.atb.tw.get t).closedNow.contains (action + 1) then s
  else if action = 2 ∨ action = 4 ∨ action = 6 ∨ action = 8 then
    (s.updAtbT t (fun a => { a with closedNow := insertN action a.closedNow })).cmpAct t action owner
  else s.cmpAct t action owner

/-- The owner is told of a fire (R59). -/
def State.cmpTell (s : State) (n : Nat) : State :=
  s.updSpire (seqOf (cmpTower n) (s.rd (ATB_CMP_CTL_OWNER n))) (fun p => { p with
    fires := sparseSet p.fires n (sparseGet p.fires n + 1) })

/-- The target of a comparator is reached (R59). -/
def State.cmpReached (s : State) (n : Nat) : Bool :=
  (s.localAngle (cmpTower n) + 2 ^ 32 - s.rd (ATB_CMP_TGT_TGT n)) % 2 ^ 32 < 2 ^ 31

/-- An armed comparator fires (R59): its action and the notice to its owner, then FIRED, or armed again one wedge later. -/
def State.cmpFire (s : State) (n : Nat) : State :=
  let s1 := (s.cmpActNow (cmpTower n) (s.rd (ATB_CMP_CTL_ACTION n)) (s.rd (ATB_CMP_CTL_OWNER n))).cmpTell n
  if s.on (ATB_CMP_CTL_REPEAT n) then (s1.cmpTrace n 2).wr (ATB_CMP_TGT_TGT n) (s.rd (ATB_CMP_TGT_TGT n) + 32768)
  else s1.cmpEnd n 2

/-- A comparator is disarmed, `store` being the fields written with ARM = 0: IDLE, or FIRED when it reaches its target in the same cycle
(R59, R62). -/
def State.cmpDisarm (s : State) (n : Nat) (store : State → State) : State :=
  if s.isOn bATB 0 && s.cmpArmed n && s.cmpReached n then
    (store ((s.cmpActNow (cmpTower n) (s.rd (ATB_CMP_CTL_ACTION n)) (s.rd (ATB_CMP_CTL_OWNER n))).cmpTell n)).cmpEnd n 2
  else (store s).cmpEnd n 0

/-- A comparator is armed with its registers written: refused (R61), or armed; when its target is already reached it fires LATE at
once (R60). An arm of the epoch before, in the cycle of a discontinuity, is taken and ends FLUSHED (R62). -/
def State.cmpArm (s : State) (n : Nat) : State :=
  let act := s.rd (ATB_CMP_CTL_ACTION n)
  let owner := seqOf (cmpTower n) (s.rd (ATB_CMP_CTL_OWNER n))
  if s.isOn bATB 0 = false ∨ 12 ≤ act then s.cmpEnd n 6
  else if s.atb.discNow ∧ (s.rd (ATB_CMP_CTL_EPOCH n) + 1) % 256 = s.epoch then s.cmpEnd n 4
  else if ¬ s.rd (ATB_CMP_CTL_EPOCH n) = s.epoch then (s.cmpEnd n 5).irq bATB 0 0 20
  else if s.cmpReached n then
    let s1 := ((s.irq bATB 0 0 19).cmpEnd n 3).cmpTell n
    -- a write gate that opens too late for a sector under way leaves it CUT (R60, R234)
    if act = 1 then s1.cutSector (cmpTower n) else if act = 3 then s1 else s1.cmpActNow (cmpTower n) act (s.rd (ATB_CMP_CTL_OWNER n))
  else ((s.wr (ATB_CMP_CTL_ARM n) 1).wr (ATB_CMP_CTL_STATUS n) 1).updSpire owner (fun p => { p with
    fires := p.fires.filter (fun e => !(e.1 == n)) })

/-! ## Traces of the engines -/

/-- A trigger condition of Table 04-8 occurred for an engine. -/
def State.trcEvent (s : State) (e : Eng) (code : Nat) : State :=
  s.updEng e (fun x => { x with trcEvents := insertN code x.trcEvents })

/-! ## Engine state (R97) -/

/-- The field at `lo` of the register at offset `off` of page E (`p` 2) or F (`p` 3) of an engine. -/
def engFld (e : Eng) (p off lo w : Nat) : Fld := ⟨engPage e.idx p + off, lo, w⟩

def engEstate (e : Eng) : Fld := engFld e 2 0x20 0 2
def engBusy (e : Eng) : Fld := engFld e 2 0x20 8 1

/-- STATE of the engine's block. -/
def State.engBlkSt (s : State) (e : Eng) : Nat :=
  match e with
  | .srvA => s.st bSRV 0
  | .srvB => s.st bSRV 1
  | .spn => s.st bSPN 0

/-- The value R97 gives ESTATE: 0 IDLE, 1 RUN, 2 FAULT. -/
def State.estateOf (s : State) (e : Eng) : Nat :=
  let b := s.engBlkSt e
  if b = stOFF ∨ b = stFAULT then 0 else if (s.eng e).held then 2 else 1

/-- ESTATE follows the block's STATE and the fault held; when it is not RUN, the evaluation in progress is abandoned, waiting tick
instants are dropped and the ports are 0 (R97, R123). -/
def State.engRefresh (s : State) (e : Eng) : State :=
  let v := s.estateOf e
  let s1 := s.wr (engEstate e) v
  if v = 1 then s1
  else (s1.wr (engBusy e) 0).updEng e (fun x => { x with
    port1 := 0, port2 := 0, now := {}, due := [], waiting := [], arrived := {} })

/-! ## Discontinuity, sources and locks -/

/-- ATB_LAST_EVT (KIND 1 handover, 2 discontinuity, 3 lock loss, 4 FLYWHEEL entry). -/
def State.atbEvt (s : State) (kind from_ to_ : Nat) (e : Int) : State :=
  (((s.wr ATB_LAST_EVT_KIND kind).wr ATB_LAST_EVT_FROM from_).wr ATB_LAST_EVT_TO to_).wrI ATB_LAST_EVT_ERR e

/-- Step 3 of Table 02-2: the angle moves to the source's; when that is not ahead, the revolution count rises by one. -/
def jumpAngle (a : BitVec 56) (e : Int) : BitVec 56 :=
  let cur : Nat := a.toNat / 2 ^ 24 % 2 ^ 24
  let new : Nat := ux 24 ((cur : Int) + e)
  let rev : Nat := a.toNat / 2 ^ 48 + (if new ≤ cur then 1 else 0)
  BitVec.ofNat 56 (rev % 256 * 2 ^ 48 + new * 2 ^ 24 + a.toNat % 2 ^ 24)

/-- What a discontinuity, or the ATB leaving ON, does to the windows and captures of a Tower (R64, R199). -/
def State.mediaCut (s : State) (t : Tower) : State := (s.capCutAll t).winShut t

/-- A discontinuity: every action of Table 02-2, in order. -/
def State.discontinuity (s : State) (e : Int) : State :=
  let s1 := ((s.dropGates .A).dropGates .B).wr ATB_SRC_WG_INHIBIT 1
  let s2 := (s1.cmpFlushT .A).cmpFlushT .B
  let s3 := ((s2.updAtb (fun a => { a with angle := jumpAngle a.angle e, residual := 0, inhCount := 0, discNow := true })).updAtbT .A
    (fun a => { a with adv := 0 })).updAtbT .B (fun a => { a with adv := 0 })
  let s4 := (s3.wr ATB_EPOCH_EPOCH (s.epoch + 1)).bump ATB_EPOCH_DISC_COUNT 1
  let s5 := towers.foldl (fun s t => if s.locked t then s else
    s.updAtbT t (fun a => { a with winOpen := true, winHeld := true })) s4
  let s6 := (s5.irq bATB 0 0 28).atbEvt 2 (s.rd ATB_SRC_SRC) (s.rd ATB_SRC_SRC) e
  (((s6.mediaCut .A).mediaCut .B).trcEvent .srvA 7).trcEvent .srvB 7

/-- A measured error is slewed out or, from 32,768 ac, corrected by a discontinuity (R51, R52). -/
def State.correct (s : State) (e : Int) : State :=
  if e.natAbs < 32768 then s.updAtb (fun a => { a with residual := e * 2 ^ 24 }) else s.discontinuity e

/-- The rate of a rotation speed given in 0.001 rpm: 2^24 ac per revolution, 10^9 cycles per second. -/
def rateOfSpeed (speed : Nat) : Nat := speed * 2 ^ 48 / 60000000000000

/-- The rate of rotation that a source indicates, without any slew (R51); FLYWHEEL keeps the last one (R576). A Tower that has shown no
rate leaves it as it is. -/
def State.srcRate (s : State) (v : Nat) : Nat :=
  let t := fun (x : Tower) => if (s.atb.tw.get x).rate = 0 then s.atb.rate else (s.atb.tw.get x).rate
  if v = srcOBS then rateOfSpeed (s.rd SPN_SPEED_SPEED) else if v = 1 then t .A else if v = 2 then t .B else s.atb.rate

/-- The ATB takes a source: SRC, LOCKED, IS_SRC, its rate and the count of R54. -/
def State.setSrc (s : State) (v : Nat) : State :=
  let s1 := ((s.wr ATB_SRC_SRC v).wb ATB_SRC_LOCKED ((v == 1 && s.locked .A) || (v == 2 && s.locked .B)))
  s1.updAtb (fun a => { a with inhCount := 0, rate := s.srcRate v })

/-- The residual still to be slewed, in whole ac, to the nearest. -/
def State.residualAc (s : State) : Int := (s.atb.residual + 2 ^ 23) / 2 ^ 24

/-- The selected source hands over to a Tower with the error of its latest good wedge (Table 02-1, R578). From OBS the offset moves by
that error less the observer's own residual, so that the observer matches the servo. -/
def State.toServo (s : State) (t : Tower) : State :=
  let src := s.rd ATB_SRC_SRC
  let e := (s.atb.tw.get t).err
  let s1 := if src = srcOBS then s.wr ATB_OBS_OFFSET_OFFSET (ux 24 ((s.rd ATB_OBS_OFFSET_OFFSET : Int) + e - s.residualAc)) else s
  let s2 := if src = srcFLY then s1.wr ATB_SRC_RELIABLE 1 else s1
  (((s2.setSrc (srcOf t)).irq bATB 0 0 27).atbEvt 1 src (srcOf t) e).correct e

/-- FLYWHEEL is entered (Table 02-1, R576). -/
def State.toFlywheel (s : State) : State :=
  ((((s.setSrc srcFLY).wr ATB_SRC_RELIABLE 0).irq bATB 0 0 21).atbEvt 4 (s.rd ATB_SRC_SRC) srcFLY 0).updAtb
    (fun a => { a with residual := 0 })

/-- The source Tower has lost its lock (Table 02-1). The error of the observer is measured afresh (R576, R578); ATB_LAST_EVT.ERR is 0 for
the events at which no error has been measured yet, the handover to OBS and the entry to FLYWHEEL (DESIGN CHOICE, log entry 48). -/
def State.srcLost (s : State) (t : Tower) : State :=
  if s.locked t.other ∧ s.on ATB_CFG_OBS_ONLY = false then
    (s.toServo t.other).regateBoth
  else
    let s1 := (s.dropGates .A).dropGates .B
    if s.on ATB_SRC_OBS_OK then ((s1.setSrc srcOBS).irq bATB 0 0 27).atbEvt 1 (srcOf t) srcOBS 0
    else s1.toFlywheel

/-- A Tower's servo loses lock (R48). -/
def State.loseLock (s : State) (t : Tower) : State :=
  if s.locked t then
    let s1 := ((s.wr (lockFld t) 0).irq bATB 0 0 (match t with | .A => 24 | .B => 23)).atbEvt 3 (s.rd ATB_SRC_SRC)
      (s.rd ATB_SRC_SRC) (s.atb.tw.get t).err
    let s2 := s1.updAtbT t (fun a => { a with winOpen := s.isOn bATB 0, winHeld := true, xchk := 0 })
    if s.isOn bATB 0 && s.srcTower == some t then s2.srcLost t else s2
  else s

/-- A Tower becomes the source, and what was corrected for it is kept for the rest of the cycle (R49). -/
def State.takeServo (s : State) (t : Tower) : State :=
  (s.toServo t).updAtb (fun a => { a with tookNow := some (t, (s.atb.tw.get t).err) })

/-- The Tower of PREF gains lock in the cycle in which the other one took the source (R49): it is the source instead, from the same
event; its error is that of its latest good wedge, less what a jump has corrected already. -/
def State.preferServo (s : State) (t : Tower) (e0 : Int) : State :=
  let d := (s.atb.tw.get t).err - e0
  let e := if e0.natAbs < 32768 then (s.atb.tw.get t).err else d
  let s1 := if s.rd ATB_LAST_EVT_FROM = srcOBS then
      s.wr ATB_OBS_OFFSET_OFFSET (ux 24 ((s.rd ATB_OBS_OFFSET_OFFSET : Int) + d)) else s
  ((s1.setSrc (srcOf t)).atbEvt 1 (s.rd ATB_LAST_EVT_FROM) (srcOf t) (s.atb.tw.get t).err).correct e

/-- The Tower that PREF names. -/
def State.prefTower (s : State) : Tower := if s.rd ATB_CFG_PREF = 1 then .B else .A

/-- A Tower gains lock: from OBS or FLYWHEEL it becomes the source, with PREF as the tie-break of one cycle (R49). -/
def State.takeSource (s : State) (t : Tower) : State :=
  if s.isOn bATB 0 && !s.on ATB_CFG_OBS_ONLY then
    if s.srcTower.isNone then s.takeServo t
    else match s.atb.tookNow with
      | some (o, e0) => if !(o == t) && s.prefTower == t && s.srcTower == some o then s.preferServo t e0 else s
      | none => s
  else s

/-- A Tower whose actuator reports LOADED locks with its eighth consecutive good wedge (R48). -/
def State.tryLock (s : State) (t : Tower) : State :=
  if s.locked t = false ∧ s.on (loadedFld t) ∧ 8 ≤ s.rd (goodFld t) then
    ((s.wr (lockFld t) 1).irq bATB 0 0 (match t with | .A => 26 | .B => 25)).takeSource t
  else s

/-- OBS_OK changes (R77): a loss while SRC is OBS enters FLYWHEEL; the return while SRC is FLYWHEEL takes OBS (Table 02-1). -/
def State.setObsOk (s : State) (v : Bool) : State :=
  let s1 := s.wb ATB_SRC_OBS_OK v
  if s.isOn bATB 0 then
    if v = false ∧ s.on ATB_SRC_OBS_OK ∧ s.rd ATB_SRC_SRC = srcOBS then s1.toFlywheel
    else if v ∧ s.rd ATB_SRC_SRC = srcFLY then
      ((s1.setSrc srcOBS).wr ATB_SRC_RELIABLE 1)
    else s1
  else s1

/-! ## Actuator modes -/

def mUNLOADED : Nat := 0
def mLOADING : Nat := 1
def mSEEK : Nat := 2
def mSETTLE : Nat := 3
def mFOLLOW : Nat := 4
def mUNLOADING : Nat := 5
def mRETRACT : Nat := 6
def mUNKNOWN : Nat := 7

def State.mode (s : State) (t : Tower) : Nat := s.rd (SRV_MODE_MODE t.idx)
def isLoaded (m : Nat) : Bool := m == 2 || m == 3 || m == 4

/-- OTWI becomes 1 (R144): the gates drop (R146), the run of R145 restarts, and in FOLLOW the OTW event is counted. -/
def State.setOtwi (s : State) (t : Tower) : State :=
  let s1 := s.updSrv t (fun x => { x with otwRun := 0 })
  if s.on (SRV_MODE_OTWI t.idx) then s1
  else
    let s2 := s1.wr (SRV_MODE_OTWI t.idx) 1
    let s3 := if s.mode t = mFOLLOW then (s2.irq bSRV t.idx 0 24).bump (SRV_CNT_OTW_EVT t.idx) 1 else s2
    s3.regate t

/-- The pins of Table 05-3. In LOADING, UNLOADING and RETRACT the generator drives VCM_DAC. -/
def State.srvPins (s : State) (t : Tower) : State :=
  let e := s.eng t.eng
  let m := s.mode t
  s.updSrv t (fun x =>
    if isLoaded m then { x with vcmPin := if x.pinHeld then x.vcmPin else e.port1, maPin := e.port2 }
    else if m = mUNLOADED ∨ m = mUNKNOWN then { x with vcmPin := 0, maPin := 0, pinHeld := false }
    else { x with maPin := 0, pinHeld := false })

/-- MODE changes: LOADED follows (R138), the lock is lost when the actuator leaves LOADED (R48), OTWI is 1 outside FOLLOW (R144),
and the runs of the mode restart. -/
def State.setMode (s : State) (t : Tower) (m : Nat) : State :=
  let s1 := if m = mFOLLOW then s.updSrv t (fun x => { x with otwRun := 0 }) else s.setOtwi t
  let s2 := ((s1.wr (SRV_MODE_MODE t.idx) m).wb (SRV_MODE_LOADED t.idx) (isLoaded m)).wb (loadedFld t) (isLoaded m)
  let s3 := s2.updSrv t (fun x => { x with loadRun := 0, settleRun := 0, missRun := if isLoaded m then x.missRun else 0 })
  let s4 := if isLoaded (s.mode t) && !isLoaded m then s3.loseLock t else s3
  let s5 := if !isLoaded (s.mode t) && isLoaded m then (s4.irq bSRV t.idx 0 28).tryLock t else s4
  s5.srvPins t

/-- The registers of a generator: I_DRIVE of the set of its mode (R141). -/
def State.genDrive (s : State) (t : Tower) (k : GenKind) : Nat :=
  match k with
  | .load => s.rd (SRV_GEN_LOAD_I_DRIVE t.idx)
  | .unload => s.rd (SRV_GEN_UNLOAD_I_DRIVE t.idx)
  | .retract => s.rd (SRV_GEN_RETRACT_I_DRIVE t.idx)

/-- A generator starts in its MOVE phase with cmd at I_DRIVE (R141). -/
def State.genStart (s : State) (t : Tower) (k : GenKind) : State :=
  s.updSrv t (fun x => { x with gen := some { kind := k, hold := false, cmd := s.genDrive t k } })

/-- Entry to RETRACT with its cause (Table 05-2, Table 05-4); the event record of "Event recorder". -/
def State.toRetract (s : State) (t : Tower) (cause : Nat) : State :=
  ((((((s.wr (SRV_MODE_CAUSE t.idx) cause).genStart t .retract).setMode t mRETRACT).irq bSRV t.idx 0 26).bump
    (SRV_CNT_RETRACTS t.idx) 1).hwPost (0x0600 + cause) (if cause = 1 then 1 else 3) (16 + t.idx) [])

/-- An emergency source, or the RETRACT command, reaches an actuator (Table 05-2, R149). A LOAD accepted in the same cycle is refused
(Table 05-5). -/
def State.emergency (s : State) (t : Tower) (cause : Nat) : State :=
  let m := s.mode t
  if m = mUNLOADED then
    if cause = 1 then s.toRetract t cause
    else (s.bump (SRV_CNT_EMRG t.idx) 1).updSrv t (fun v => { v with emrgNow := some cause })
  else if m = mRETRACT then s.bump (SRV_CNT_EMRG t.idx) 1
  else if m = mLOADING ∧ (s.srv.get t).loadNow then (s.toRetract t cause).irq bSRV t.idx 0 21
  else s.toRetract t cause

/-- The spindle's emergency-park request to both actuators (R84, R94). -/
def State.park (s : State) : State := (s.emergency .A 2).emergency .B 2

/-- An emergency source of a Tower is active as a level: the park request, EMRG_RETRACT_N, an engine fault held, or the Belfry's
shut-down. -/
def State.emrgActive (s : State) (t : Tower) : Bool :=
  s.spn.parkReq || s.inActive 3 || s.on BEL_STATUS_SHUT || !(s.srv.get t).emrg.isEmpty

end Sys2Proof.Machine
end

