-- ==== Sys2Proof/Machine/Atb.lean ====
section
/-! DEFINITION. The angle time base: its cycle, its start and shut-down, and the commands of its family. -/

namespace Sys2Proof.Machine

/-! ## One cycle (R44, R46, R51, R576) -/

/-- The slew of one cycle, in 2^-24 ac: at most 1/64 of the measured rate, and no more than the residual. -/
def State.slewNow (s : State) : Int :=
  let lim : Int := (s.atb.rate / 64 : Nat)
  if s.rd ATB_SRC_SRC = srcFLY then 0 else clampI s.atb.residual (-lim) lim

/-- What a Tower's skew moves in one cycle: towards its target within what the ATB's slew leaves of the bound. -/
def State.skewStep (s : State) (t : Tower) : Int :=
  let lim : Int := (s.atb.rate / 64 : Nat)
  let d := s.rdI (ATB_SKEW_T_SKEW t.idx) * 2 ^ 24 - (s.atb.tw.get t).skewNow
  clampI d (-lim - s.slewNow) (lim - s.slewNow)

/-- The ATB advances by one fabric cycle while its STATE is ON; otherwise the angle is frozen (R64). -/
def State.atbCycle (s : State) : State :=
  if s.isOn bATB 0 then
    let da := s.skewStep .A
    let db := s.skewStep .B
    let s1 := s.updAtb (fun a => { a with
      angle := BitVec.ofInt 56 ((a.angle.toNat : Int) + a.rate + s.slewNow), residual := a.residual - s.slewNow })
    let adv := fun (d : Int) => ((s.atb.rate : Int) + s.slewNow + d).toNat
    ((s1.updAtb (fun a => { a with discNow := false, tookNow := none })).updAtbT .A (fun a =>
      { a with skewNow := a.skewNow + da, adv := adv da, closedNow := [] })).updAtbT .B (fun a =>
      { a with skewNow := a.skewNow + db, adv := adv db, closedNow := [] })
  else s

/-- ATB_RATE, slew included. -/
def State.rateView (s : State) : Nat := ux 32 ((s.atb.rate : Int) + (if s.isOn bATB 0 then s.slewNow else 0))

/-! ## Start and shut-down -/

/-- The start actions of R63, but for the source that the completion takes. -/
def State.atbStart (s : State) : State :=
  let s1 := (s.wr ATB_EPOCH_EPOCH (s.epoch + 1)).wr ATB_SRC_WG_INHIBIT 1
  let s2 := s1.updAtb (fun a => { a with residual := 0, inhCount := 0 })
  if s.on ATB_SRC_OBS_OK then (s2.setSrc srcOBS).wr ATB_SRC_RELIABLE 1
  else (((s2.setSrc srcFLY).wr ATB_SRC_RELIABLE 0).updAtb (fun a => { a with rate := rateOfSpeed (s.rd SPN_SPEED_SPEED) }))

/-- When the start actions complete, a locked Tower counts as gaining lock, PREF deciding between two (R63, R49). An unlocked Tower
opens its servo window until its next SAM, as after a loss of lock (DESIGN CHOICE, log entry 48: R577 names no window for a Tower that has
found no SAM since the start). -/
def State.atbStarted (s : State) : State :=
  let s1 := towers.foldl (fun s t => if s.locked t then s else s.updAtbT t (fun a => { a with winOpen := true, winHeld := true })) s
  if s1.locked .A && s1.locked .B then s1.takeSource s1.prefTower
  else if s1.locked .A then s1.takeSource .A
  else if s1.locked .B then s1.takeSource .B
  else s1

/-- The shut-down actions of R64. -/
def State.atbStop (s : State) : State :=
  let s1 := (s.dropGates .A).dropGates .B
  let s2 := (s1.mediaCut .A).mediaCut .B
  let s3 := (s2.cmpFlushT .A).cmpFlushT .B
  let shut : AtbTower → AtbTower := fun a => { a with winOpen := false, winHeld := false, samSeen := false, adv := 0 }
  (s3.updAtbT .A shut).updAtbT .B shut

/-! ## Servo wedges -/

/-- A signed angle difference within a revolution, in ac. -/
def sAngle (x : Int) : Int := sx 24 (ux 24 x)

/-- The phase error of a SAM edge at a local angle: 384 ac into the wedge of the decoded index, less the edge (R129). -/
def wedgeErr (idx : Nat) (edge : BitVec 24) : Int := sAngle ((idx : Int) * 32768 + 384 - (edge.toNat : Int))

/-- The wedges that the reference lies back: one, or two after a switch wedge (R137). -/
def AtbTower.span (a : AtbTower) : Nat := if a.gap then 2 else 1

/-- The index of the reference wedge (R47). -/
def AtbTower.reference (a : AtbTower) (locked : Bool) : Option Nat := if locked then a.refIdx else a.foundIdx

/-- The decoded index is the one R47 asks for: one more than the reference's, two more after a switch wedge (R137). -/
def indexNext (a : AtbTower) (locked : Bool) (idx : Nat) : Bool :=
  match a.reference locked with
  | some r => idx % 512 == (r + a.span) % 512
  | none => false

/-- The last wedge with its SAM found and its index parity right, after a wedge (R47): a wedge without a SAM leaves none. -/
def foundAfter (a : AtbTower) (sam found : Bool) (idx : Nat) : Option Nat :=
  if found then some (idx % 512) else if sam then a.foundIdx else none

/-- WG_INHIBIT counts the source's good wedges (R54). -/
def State.inhCount (s : State) (good : Bool) : State :=
  if s.on ATB_SRC_WG_INHIBIT then
    let n := if good then s.atb.inhCount + 1 else 0
    let s1 := s.updAtb (fun a => { a with inhCount := n })
    if 8 ≤ n then s1.wr ATB_SRC_WG_INHIBIT 0 else s1
  else s

/-- The cross-check of the locked Tower that is not the source (R56). R56 does not say which wedges are compared: every wedge whose SAM was
found is, whatever its parity and index, and a wedge without a SAM has no phase error, so that it neither counts nor breaks the run
(DESIGN CHOICE, log entry 48). -/
def State.crossCheck (s : State) (t : Tower) (e : Int) : State :=
  let cnt := s.rd ATB_XCHK_LIM_COUNT
  if s.locked .A && s.locked .B && !(s.srcTower == some t) && !(cnt == 0) then
    let n := if s.rd ATB_XCHK_LIM_LIMIT < e.natAbs then (s.atb.tw.get t).xchk + 1 else 0
    let s1 := s.updAtbT t (fun a => { a with xchk := n })
    if cnt ≤ n then s1.irq bATB 0 0 22 else s1
  else s

/-- The wedge with its SAM, index and phase judged (R47, R48): counts, reference, record and the result still to come (R135). -/
def State.wedgeJudged (s : State) (t : Tower) (sam found good : Bool) (idx : Nat) (e : Int) (edge : BitVec 24) : State :=
  let a := s.atb.tw.get t
  let s1 := s.updAtbT t (fun a => { a with
    bad := if good then 0 else a.bad + 1
    refIdx := if good then some (idx % 512) else a.refIdx
    foundIdx := foundAfter a sam found idx
    err := if good then e else a.err
    lastGood := good
    gap := false })
  let s2 := ((s1.wr (goodFld t) (if good then min 15 (s.rd (goodFld t) + 1) else 0)).wb (ATB_PHERR_T_GOOD t.idx) good).wb
    (ATB_PHERR_T_IS_SRC t.idx) (s.srcTower == some t)
  let s3 := if sam then s2.wrI (ATB_PHERR_T_ERR t.idx) e else s2
  s3.updAtbT t (fun x => { x with winOpen := x.winOpen && !(sam && a.winHeld), winHeld := x.winHeld && !sam,
                                  samSeen := x.samSeen || sam, samAt := if sam then edge else x.samAt })

/-- The servo demodulator runs while the SRV block is not OFF or FAULT (R151). -/
def State.demodOn (s : State) (t : Tower) : Bool := s.st bSRV t.idx == stON || s.st bSRV t.idx == stSTOPPING

/-- The reading of the servo reader that SRV_CFG.SRDR names (R128). -/
def State.srdrPick {α : Type} (s : State) (t : Tower) (a b : α) : α := if s.on (SRV_CFG_SRDR t.idx) then b else a

/-- The 9-bit index and its parity bit, in the first 10 of 16 cells (Table 05-1); even parity (DEDUCED, log entry 50). -/
def wedgeIndex (c : BitVec 16) : Nat := bits c.toNat 7 9

/-- The number of ones among the low `n` bits of `x`. -/
def onesIn (n x : Nat) : Nat := ((List.range n).filter (fun i => x / 2 ^ i % 2 == 1)).length

def indexParity (c : BitVec 16) : Bool := onesIn 10 (bits c.toNat 6 10) % 2 == 0

/-- R47, R48, R54, R56, R578, R137: a servo wedge is demodulated. `ra` and `rb` are what readers A and B read, `dt` the fabric cycles since
the Tower's reference wedge, so that the rate is that of the one or two wedges passed (log entry 9). -/
def execServoWedge (t : Tower) (ra rb : ServoIn) (dt : Nat) (s : State) : Out :=
  let f := s.srdrPick t ra rb
  let edge := f.edge
  let idx := wedgeIndex f.index
  let a := s.atb.tw.get t
  if s.demodOn t = false then .next s
  else if a.switchWedge then
    -- R137: neither good nor bad; the next wedge is consecutive with an index two greater
    .next ((s.updAtbT t (fun a => { a with switchWedge := false, gap := true, lastGood := false })).updSrv t
      (fun x => { x with demodPending := true, demodSwitch := true }))
  else
    let found := edge.isSome && a.winOpen && indexParity f.index
    let sam := edge.isSome && a.winOpen
    let e := wedgeErr idx (edge.getD 0)
    let good := found && indexNext a (s.locked t) idx && (!s.locked t || decide (e.natAbs ≤ 4096))
    let s1 := ((s.wedgeJudged t sam found good idx e (edge.getD 0)).updSrv t
      (fun x => { x with demodPending := true, demodSwitch := false })).updAtbT t
      (fun b => if good && 0 < dt then { b with rate := a.span * 32768 * 2 ^ 24 / dt } else b)
    let s2 := if sam then s1.crossCheck t e else s1
    let s3 := if s.srcTower == some t && s.isOn bATB 0 then
        let s4 := s2.inhCount good
        let s5 := if good && 0 < dt then s4.updAtb (fun b => { b with rate := a.span * 32768 * 2 ^ 24 / dt }) else s4
        if good then s5.correct e else s5
      else s2
    .next (if good then s3.tryLock t
      else if 3 ≤ a.bad + 1 then s3.loseLock t
      else s3)

/-- e of an observer measurement (R578): the observer angle with ATB_OBS_OFFSET, less the ATB angle. -/
def State.obsErr (s : State) (obs : BitVec 24) : Int :=
  sAngle ((obs.toNat : Int) + s.rd ATB_OBS_OFFSET_OFFSET - (s.angle32 % 2 ^ 24 : Nat))

/-- R578: an observer source measures e. -/
def execObsPhaseMeasure (obs : BitVec 24) (s : State) : Out :=
  .next (if s.isOn bATB 0 ∧ s.rd ATB_SRC_SRC = srcOBS ∧ s.on ATB_SRC_OBS_OK then s.correct (s.obsErr obs) else s)

/-! ## Boundaries, windows and ticks -/

/-- The head switch takes effect (R136, R137, R199): HEAD_DONE, the capture in progress ends, the switch wedge begins, OTWI is 1 and
FOLLOW becomes SETTLE; HEAD_SEL goes to the preamplifier. -/
def State.headSwitch (s : State) (t : Tower) : State :=
  let h := s.rd (SRV_HEAD_HEAD t.idx)
  let s1 := ((s.wr (SRV_MODE_HEAD_PEND t.idx) 0).irq bSRV t.idx 0 19).capCutAll t
  let s2 := (s1.updSrv t (fun x => { x with head := h, sinceSwitch := 0, demodSwitch := true })).updAtbT t
    (fun a => { a with switchWedge := true })
  let s3 := s2.updCpl t (fun c => { c with pendHead := true })
  let s4 := if s.mode t = mFOLLOW then s3.setMode t mSETTLE else s3.setOtwi t
  (s4.lanAssist t).regate t

/-- The shock hold counts a wedge boundary, while no active SHOCK_N holds it (R147, R148). -/
def State.shockBoundary (s : State) (t : Tower) : State :=
  let n := (s.srv.get t).shockLeft
  if s.on (SRV_MODE_SHOCK_HOLD t.idx) = false ∨ s.inActive 2 then s
  else if n ≤ 1 then ((s.updSrv t (fun x => { x with shockLeft := 0, otwRun := 0 })).wr (SRV_MODE_SHOCK_HOLD t.idx) 0)
  else s.updSrv t (fun x => { x with shockLeft := n - 1 })

/-- The assist duty of the wedge that ends (R249). -/
def State.dutyBoundary (s : State) (t : Tower) : State :=
  s.updLan t (fun l => { l with duty := ((l.dutyNow || s.agOpen t) :: l.duty).take 256, dutyNow := false })

/-- R575: a Tower's local angle crosses a wedge boundary. -/
def execWedgeBoundary (t : Tower) (s : State) : Out :=
  if s.isOn bATB 0 = false ∨ s.crossed t 0 32768 = false then .next s
  else
    let s1 := (s.updAtbT t (fun a => { a with swin := (s.reg (ATB_SWIN_T t.idx)).toNat, switchWedge := false })).dutyBoundary t
    let s2 := s1.updSrv t (fun x => { x with
      lin := (List.range 33).map (fun n => s.rdI (SRV_LIN_CORR t.idx n)), sinceSwitch := x.sinceSwitch + 1, lateWin := s.demodOn t })
    let s3 := s2.shockBoundary t
    -- a head written in the cycle of a boundary waits for the following one (Table 05-5)
    .next (if s.on (SRV_MODE_HEAD_PEND t.idx) && !(s.srv.get t).headNow then s3.headSwitch t else s3)

/-- ATB_SWIN in force: WIDTH, where 0 acts as 2,048, and LEAD, which acts as at most WIDTH. -/
def AtbTower.winWidth (a : AtbTower) : Nat := if a.swin / 65536 % 65536 = 0 then 2048 else a.swin / 65536 % 65536
def AtbTower.winLead (a : AtbTower) : Nat := min (a.swin % 65536) a.winWidth

/-- The local angle reaches the opening of the next servo window (R577): LEAD before a wedge boundary while locked, else 32,768 - 384 - LEAD
after the last SAM's edge. -/
def State.winDue (s : State) (t : Tower) : Bool :=
  let a := s.atb.tw.get t
  if s.locked t then s.crossed t (2 * 32768 - a.winLead) 32768
  else s.crossed t (a.samAt.toNat + 2 * 32768 - 384 - a.winLead) (2 ^ 24)

/-- The local angle reaches the end of the present window, WIDTH after its opening. -/
def State.winOver (s : State) (t : Tower) : Bool :=
  let a := s.atb.tw.get t
  if s.locked t then s.crossed t (2 * 32768 - a.winLead + a.winWidth) 32768
  else s.crossed t (a.openAt + a.winWidth) (2 ^ 24)

/-- R577: a servo window opens. -/
def execServoWindowOpen (t : Tower) (s : State) : Out :=
  .next (if s.isOn bATB 0 && !(s.atb.tw.get t).winOpen && s.winDue t then
    s.updAtbT t (fun a => { a with winOpen := true, winHeld := false, samSeen := false, openAt := s.localAngle t % 2 ^ 24 }) else s)

/-- R577: a servo window closes, or stays open for a Tower that has found no SAM. -/
def execServoWindowClose (t : Tower) (s : State) : Out :=
  let a := s.atb.tw.get t
  .next (if a.winOpen && !a.winHeld && s.winOver t then
    if s.locked t || a.samSeen then s.updAtbT t (fun a => { a with winOpen := false })
    else s.updAtbT t (fun a => { a with winHeld := true })
  else s)

/-- A tick reaches a Tower's engine (R57, R98). `sub` 0 is the position tick, which is a tick of both streams. -/
def State.towerTick (s : State) (t : Tower) (sub : Nat) : State :=
  let a := s.localAngle t / 2 ^ 15
  s.updEng t.eng (fun e => { e with arrived :=
    { t0 := if sub = 0 then some (a % 65536) else e.arrived.t0, t1 := some ((4 * a + sub) % 65536) } })

/-- The local angle crosses the phase of sub-tick `sub`, 8,192 ac apart from ATB_TICK.PHASE (R57). -/
def State.tickDue (s : State) (t : Tower) (sub : Nat) : Bool :=
  s.isOn bATB 0 && s.crossed t (s.rd (ATB_TICK_T_PHASE t.idx) + 8192 * sub) 32768

/-- R57: a position tick. -/
def execPositionTick (t : Tower) (s : State) : Out :=
  .next (if s.tickDue t 0 then s.towerTick t 0 else s)

/-- R57: a current sub-tick. -/
def execCurrentSubtick (t : Tower) (sub : Nat) (s : State) : Out :=
  .next (if s.tickDue t sub ∧ s.on (ATB_TICK_T_SUB_EN t.idx) ∧ 1 ≤ sub ∧ sub ≤ 3 then s.towerTick t sub else s)

/-! ## Comparators -/

/-- The fields that a write of ATB_CMP_CTL stores. -/
def State.cmpCtlStore (s : State) (n : Nat) (ctl : Word) : State :=
  (((s.wr (ATB_CMP_CTL_EPOCH n) (fieldOf ctl 16 8)).wr (ATB_CMP_CTL_ACTION n) (fieldOf ctl 12 4)).wr
    (ATB_CMP_CTL_OWNER n) (fieldOf ctl 10 2)).wr (ATB_CMP_CTL_REPEAT n) (fieldOf ctl 9 1)

/-- R59 to R61: a write that arms a comparator; an armed one keeps what it has. -/
def execComparatorArm (n : Nat) (tgt ctl : Word) (s : State) : Out :=
  .next (if n < 128 then s.gated (ATB_CMP_CTL n) (fun s =>
    if s.cmpArmed n then s
    else ((s.wr (ATB_CMP_TGT_TGT n) tgt.toNat).cmpCtlStore n ctl).cmpArm n) else s)

/-- R59, R62: a write of ARM = 0; a comparator that reaches its target in the same cycle fires and ends FIRED. -/
def execComparatorDisarm (n : Nat) (ctl : Word) (s : State) : Out :=
  .next (if n < 128 then s.gated (ATB_CMP_CTL n) (fun s => s.cmpDisarm n (fun s => s.cmpCtlStore n ctl)) else s)

/-- R59: an armed comparator reaches its target. -/
def execComparatorFire (n : Nat) (s : State) : Out :=
  .next (if n < 128 ∧ s.isOn bATB 0 ∧ s.cmpArmed n ∧ s.cmpReached n then s.cmpFire n else s)

/-- ATB_CMP_FLUSH: the comparators of the Towers named end FLUSHED, with no epoch change. -/
def execCmpTestFlush (val : Word) (s : State) : Out :=
  .next (s.gated ATB_CMP_FLUSH (fun s =>
    let s1 := if fieldOf val 0 1 = 1 then s.cmpFlushT .A else s
    if fieldOf val 1 1 = 1 then s1.cmpFlushT .B else s1))

/-! ## Register writes -/

/-- R46: the target skew; the local angle slews to it cycle by cycle (State.atbCycle). -/
def execAtbSkewWrite (t : Tower) (val : Word) (s : State) : Out :=
  .next (s.gated (ATB_SKEW_T t.idx) (fun s => s.wr (ATB_SKEW_T_SKEW t.idx) (fieldOf val 0 16)))

/-- R51: the observer offset; the next measurement of e sees it. -/
def execAtbObsOffsetWrite (val : Word) (s : State) : Out :=
  .next (s.gated ATB_OBS_OFFSET (fun s => s.wr ATB_OBS_OFFSET_OFFSET (fieldOf val 0 24)))

end Sys2Proof.Machine
end

