-- ==== Sys2Proof/Machine/Spn.lean ====
section
/-! DEFINITION. The spindle drive: modes, direct torque control, observer, speed, SYNC_IN, marker, start and stop. -/

namespace Sys2Proof.Machine

/-! ## Modes (Table 03-6) and events -/

def pOFF : Nat := 0
def pLISTEN : Nat := 1
def pBRAKE_REV : Nat := 2
def pIPS : Nat := 3
def pALIGN : Nat := 4
def pRAMP : Nat := 5
def pCATCH : Nat := 6
def pSLEW : Nat := 7
def pRUN : Nat := 8
def pCOAST : Nat := 9
def pDECEL : Nat := 10
def pBRAKE_STOP : Nat := 11
def pHOLDUP : Nat := 12
def pFAULT_STOP : Nat := 13

def State.pmode (s : State) : Nat := s.rd SPN_MODE_MODE

/-- The target speed of a TARGET code in 0.001 rpm (Table 03-2). -/
def targetOf (code : Nat) : Nat := if code = 0 then 7200000 else if code = 1 then 5400000 else 3600000

def State.target (s : State) : Nat := targetOf (s.rd SPN_CFG_TARGET)
def State.speed (s : State) : Nat := s.rd SPN_SPEED_SPEED
def State.poles (s : State) : Nat := s.rd SPN_CFG_POLE_PAIRS

/-- The measured speed is at least `pct` percent of the target. -/
def State.atLeastPct (s : State) (pct : Nat) : Bool := s.target * pct ≤ s.speed * 100

/-- The severity of an event kind ("Event recorder"). -/
def spnSev (kind : Nat) : Nat :=
  if kind = 1 ∨ kind = 7 ∨ kind = 13 then 1
  else if kind = 2 ∨ kind = 4 ∨ kind = 8 then 2
  else if kind = 3 ∨ kind = 6 ∨ kind = 11 then 3
  else if kind = 12 then 0
  else 4

/-- An event of SPN_LAST_EVT.KIND: the register and its record (R95). MODE is the mode in force when the event is posted: the new mode at a
rotor loss, a recapture and a hold-up, the mode that failed at a fault (DESIGN CHOICE, log entry 49: R95 does not say which). -/
def State.spnEvt (s : State) (kind : Nat) : State :=
  let s1 := ((s.wr SPN_LAST_EVT_KIND kind).wr SPN_LAST_EVT_MODE s.pmode).wr SPN_LAST_EVT_SPEED s.speed
  s1.hwPost (0x0500 + kind) (spnSev kind) 15
    (leBytes 4 (s1.reg SPN_LAST_EVT).toNat ++ leBytes 4 (s1.reg SPN_MODE).toNat)

def State.spnIrq (s : State) (bit : Nat) : State := s.irq bSPN 0 0 bit

/-- A refused write: CMD_REFUSED and the event. -/
def State.spnRefuse (s : State) : State := (s.spnIrq 21).spnEvt 12

/-! ## Gates -/

/-- The gate pattern of a vector, GUH GUL GVH GVL GWH GWL high bit first, with V and W exchanged in reverse (R72). -/
def vecPattern (dir : Bool) (v : Nat) : Nat :=
  let st : List (Nat × Nat × Nat) := [(0,0,0), (1,0,0), (1,1,0), (0,1,0), (0,1,1), (0,0,1), (1,0,1), (1,1,1)]
  let (u, a, b) := nth st v (0, 0, 0)
  let (x, y) := if dir then (b, a) else (a, b)
  let leg := fun (h : Nat) => if h = 1 then 2 else 1
  leg u * 16 + leg x * 4 + leg y

/-- The gate outputs change: a change is a switching edge `off` ns after the decision (R74). -/
def State.setGates (s : State) (p : Nat) (off : Int) : State :=
  if s.rd SPN_GATE_RB_GATES = p then s
  else (s.wr SPN_GATE_RB_GATES p).updSpn (fun x => { x with edges := x.edges ++ [off] })

/-- The gates of MODE OFF: 0, or the test pattern while FORCE_EN is 1 (R66). -/
def State.offPattern (s : State) : Nat :=
  if s.on SPN_GATE_FORCE_FORCE_EN then s.rd SPN_GATE_FORCE_PATTERN else 0

/-- All six gates off and the brake released, at a decision. -/
def State.gatesOff (s : State) : State := (s.setGates 0 0).wr SPN_GATE_RB_BRAKE_N 1

/-- The low-side brake, at a decision: GUL, GVL and GWL on, SPN_BRAKE_N 0. -/
def State.brakeOn (s : State) : State := (s.setGates 0x15 0).wr SPN_GATE_RB_BRAKE_N 0

/-! ## AT_SPEED, SYNC and the observer -/

/-- AT_SPEED and its inverse SPIN_INHIBIT (R82); gates drop in the cycle SPIN_INHIBIT becomes 1 (R83). A marker measurement in progress
is given up when AT_SPEED clears; the next setting begins a new one (DESIGN CHOICE, log entry 49: R87 does not say). -/
def State.setAtSpeed (s : State) (v : Bool) : State :=
  let s1 := (s.wb SPN_MODE_AT_SPEED v).wb SPN_MODE_SPIN_INHIBIT (!v)
  if v then s1 else (s1.updSpn (fun x => { x with measuring := false })).regateBoth

/-- SYNC_LOCKED clears with a cause (R86). -/
def State.syncLose (s : State) (cause : Nat) : State :=
  let s0 := s.updSpn (fun x => { x with syncRun := 0, syncOut := 0 })
  if s.on SPN_MODE_SYNC_LOCKED then
    (((((s0.wr SPN_MODE_SYNC_LOCKED 0).wr SPN_SYNC_STAT_LOCKED 0).wr SPN_SYNC_STAT_CAUSE cause).spnIrq 22).spnEvt 8)
  else s0

/-- The modes in which OBS_OK can be 1 (R77). -/
def obsMode (m : Nat) : Bool := m == pCATCH || m == pSLEW || m == pRUN || m == pDECEL

/-- OBS_OK as R77 gives it. -/
def State.obsRefresh (s : State) : State := 
  let v := obsMode s.pmode && 8 ≤ s.spn.residOk
  let s1 := if v then s else s.updSpn (fun x => { x with obsWrap := false })
  if v = s.on ATB_SRC_OBS_OK then s1 else s1.setObsOk v

/-- MODE changes: AT_SPEED clears unless the mode is RUN, SYNC_LOCKED clears outside RUN (log entry 21), OBS_OK follows R77. -/
def State.setPmode (s : State) (m : Nat) : State :=
  let s1 := if m = pRUN then s else (s.setAtSpeed false).updSpn (fun x => { x with bandRun := 0 })
  let s2 := if m = pRUN then s1 else s1.syncLose 5
  let s3 := (s2.wr SPN_MODE_MODE m).updSpn (fun x => { x with first := true, vbusOver := 0, exit := 0 })
  s3.obsRefresh

/-! ## Faults, shut-down and hold-up -/

/-- The spindle's shut-down reaches its end; the engine's ESTATE follows. -/
def State.spnShutDone (s : State) : State := (s.shutDone bSPN 0).engRefresh .spn

/-- A fault of the spindle: a fault stop, from a stop in progress too, with gates off, park request, SPIN_INHIBIT and FAULT_STOP
(Table 03-6). -/
def State.spnFault (s : State) (kind : Nat) : State :=
  let s1 := if kind = 0 then s else s.spnEvt kind
  let s2 := s1.faultStop bSPN 0 (fun x => x)
  ((s2.gatesOff.setPmode pFAULT_STOP).updSpn (fun x => { x with shutPend := false, parkReq := false, underspeed := false })).park

/-- The start actions: LISTEN, or a fault stop without a motor model (Table 03-6). -/
def State.spnStart (s : State) : State :=
  let s0 := (s.wr SPN_GATE_FORCE_FORCE_EN 0).updSpn (fun x => { x with
    shutPend := false, holdup := false, crossings := [], dir := s.on SPN_CFG_DIR, aligned := false, catchRev := false,
    residBad := 0, residOk := 0, held := false, ocRun := 0, revBraked := false, pole := none, exit := 0 })
  if s.rd SPN_MODEL_RL_RES = 0 ∨ s.rd SPN_MODEL_RL_IND = 0 ∨ s.rd SPN_MODEL_KE_KE = 0 then
    (s0.wr SPN_MODE_START_RES 6).spnFault 10
  else (s0.gatesOff.setPmode pLISTEN)

/-- A shut-down begins: it takes effect at the next decision (R579). -/
def State.spnStop (s : State) : State := s.updSpn (fun x => { x with shutPend := true })

/-- A Tower is LOADED. -/
def State.anyLoaded (s : State) : Bool := s.on ATB_SRC_LOADED_A || s.on ATB_SRC_LOADED_B

/-- The low-side brake of BRAKE_STOP. -/
def State.toBrakeStop (s : State) : State := (s.setPmode pBRAKE_STOP).brakeOn

/-- The torque-controlled stop of DECEL or HOLDUP begins: the reference starts from the measured speed (R92), and the hardware brake of
BRAKE_REV is released (DESIGN CHOICE, log entry 49: Table 03-6 releases it only towards IPS). -/
def State.toDecel (s : State) (m : Nat) : State :=
  ((s.wr SPN_GATE_RB_BRAKE_N 1).setPmode m).updSpn (fun x => { x with refSpeed := s.speed * 200 })

/-- A shut-down takes effect (Table 03-6, "Any of 1-9"). -/
def State.shutTaken (s : State) : State :=
  let s1 := (if s.anyLoaded then s.park else s).updSpn (fun x => { x with shutPend := false, parkReq := false, underspeed := false })
  if s.atLeastPct 2 then s1.toDecel pDECEL else s1.toBrakeStop

/-- A write of CTL with EN = 0 returns a spindle in FAULT to MODE OFF (Table 03-6), with the gates of R66. -/
def State.spnOff (s : State) : State :=
  let s1 := s.setPmode pOFF
  s1.wr SPN_GATE_RB_GATES s1.offPattern

/-- PWR_FAIL_N is seen by the spindle (R94, Table 03-8). -/
def State.spnHoldup (s : State) : State :=
  let m := s.pmode
  let s1 := (s.setAtSpeed false)
  let s2 :=
    if 1 ≤ m ∧ m ≤ 10 then
      let s3 := if s.st bSPN 0 = stSTOPPING then ((s1.setEn bSPN 0 false).setRpend bSPN 0 false)
        else ((s1.setEn bSPN 0 false).setSt bSPN 0 stSTOPPING)
      let s4 := (s3.updFwk (fun y => { y with faultStop := insertN (blkKey bSPN 0) y.faultStop })).park
      (s4.toDecel pHOLDUP).updSpn (fun x => { x with holdup := true, shutPend := false })
    else if m = pBRAKE_STOP then
      let s3 := (s1.setEn bSPN 0 false).setRpend bSPN 0 false
      (s3.updFwk (fun y => { y with faultStop := insertN (blkKey bSPN 0) y.faultStop })).updSpn
        (fun x => { x with holdup := true })
    else s1
  (s2.spnIrq 18).spnEvt 11

/-! ## Speed (R82, R84) -/

/-- The under-speed condition is evaluated (R84). -/
def State.underCheck (s : State) : State :=
  let c := s.isOn bSPN 0 && !s.atLeastPct 80
  if c && !s.spn.underspeed then
    ((((s.updSpn (fun x => { x with underspeed := true, parkReq := true })).park).spnIrq 24).bump SPN_CNT_EVT_UNDERSPEED 1).spnEvt 6
  else s.updSpn (fun x => { x with underspeed := c, parkReq := c })

/-- A measured speed in 0.001 rpm reaches SPN_SPEED. -/
def State.setSpeed (s : State) (v : Nat) (rev : Bool) : State :=
  (s.wr SPN_SPEED_SPEED (min v (2 ^ 23 - 1))).wb SPN_SPEED_REVERSE rev

/-- The speed of back-EMF crossings `ns` apart: six for an electrical revolution. -/
def State.crossSpeed (s : State) (ns : Nat) : Nat := if ns * s.poles = 0 then 2 ^ 23 - 1 else 10000000000000 / (ns * s.poles)

/-- The mean of a list. -/
def meanN (l : List Nat) : Nat := l.sum / l.length

/-- The speed reference in 0.001 rpm: the ramp of SLEW and of DECEL, the SYNC_IN speed while locked, or the target. -/
def State.refNow (s : State) : Nat :=
  if s.pmode = pSLEW ∨ s.pmode = pDECEL then s.spn.refSpeed / 200
  else if s.on SPN_MODE_SYNC_LOCKED then s.spn.syncSpeed
  else s.target

/-- Measured minus reference in ppm of the target. -/
def State.speedErr (s : State) : Int := (((s.speed : Int) - s.refNow) * 1000000).tdiv s.target

/-- AT_SPEED sets after 64 electrical revolutions within 0.05 % and clears beyond 0.1 % (R82). -/
def State.bandCheck (s : State) : State :=
  let d := ((s.speed : Int) - s.target).natAbs
  let n := if d * 2000 ≤ s.target then s.spn.bandRun + 1 else 0
  let s1 := s.updSpn (fun x => { x with bandRun := n })
  if s.on SPN_MODE_AT_SPEED then (if s.target < d * 1000 then (s1.setAtSpeed false).updSpn (fun x => { x with bandRun := 0 }) else s1)
  else if 64 ≤ n then ((s1.setAtSpeed true).spnIrq 19).updSpn (fun x => { x with
    measuring := true, revs := 0, sums := List.replicate s.poles 0 })
  else s1

/-- SPN_SYNC_PHASE lies in the electrical revolution of a pole index, in ac of the marker-relative angle. -/
def State.phaseIn (s : State) (pole : Nat) : Bool :=
  let x := s.rd SPN_SYNC_PHASE_PHASE * s.poles
  pole * 2 ^ 24 ≤ x && x < (pole + 1) * 2 ^ 24

/-- The pole index moves on at a wrap: the first revolution after the observer held the rotor is index 0 (R87); the revolution that ends
joins the marker measurement, and gives the SYNC_OUT pulse when SPN_SYNC_PHASE lies in it (R86). -/
def State.poleStep (s : State) (periodNs : Nat) : State :=
  match s.spn.pole with
  | none => s.updSpn (fun x => { x with pole := if x.held then some 0 else none })
  | some p =>
    let s1 := s.updSpn (fun x => { x with pole := some ((p + 1) % atLeast1 s.poles) })
    let s2 := if s.spn.measuring ∧ s.spn.revs < 16 * s.poles then
        s1.updSpn (fun x => { x with revs := x.revs + 1, sums := upd x.sums p (nth x.sums p 0 + periodNs) })
      else s1
    if s.on SPN_SYNC_CFG_OUT_EN && s.phaseIn p then s2.updSpn (fun x => { x with syncOutN := x.syncOutN + 1 }) else s2

/-- R82, R98: an electrical revolution of `periodNs` ends. -/
def execElectricalRev (periodNs : Nat) (s : State) : Out :=
  let m := s.pmode
  if m = pRAMP ∨ obsMode m ∨ m = pHOLDUP then
    let v := if periodNs * s.poles = 0 then 2 ^ 23 - 1 else 60000000000000 / (periodNs * s.poles)
    let s1 := (s.poleStep periodNs).setSpeed v false
    let s2 := s1.wrI SPN_SPEED_ERR_ERR s1.speedErr
    let s3 := if s.isOn bATB 0 ∧ s.rd ATB_SRC_SRC = srcOBS then s2.updAtb (fun a => { a with rate := rateOfSpeed s1.speed }) else s2
    let s4 := if s.on ATB_SRC_OBS_OK then
        s3.updEng .spn (fun e => { e with arrived := { e.arrived with t0 := some e.count0 }, count0 := (e.count0 + 1) % 65536 })
      else s3
    -- a whole revolution with OBS_OK lies between two wraps
    let s5 := s4.updSpn (fun x => { x with
      catchRev := x.catchRev || (m == pCATCH && s.on ATB_SRC_OBS_OK && x.obsWrap), obsWrap := s.on ATB_SRC_OBS_OK })
    let s6 := if m = pSLEW ∨ m = pRUN then s5.bandCheck else s5
    .next s6.underCheck
  else .next s

/-! ## The switching decision -/

/-- The phase advance at the measured speed (R71), in 1/4,096 electrical revolution, rounded down (DESIGN CHOICE, log entry 49: R71 does
not say how). -/
def State.phaseAdv (s : State) : Int :=
  let span := s.rd SPN_PA_SPAN_SPAN * 1000
  let x := s.speed * 15
  if span ≤ s.speed then s.rdI (SPN_PA_ADV 15)
  else
    let n := x / span
    let a := s.rdI (SPN_PA_ADV n)
    let b := s.rdI (SPN_PA_ADV (n + 1))
    a + (b - a) * (x % span : Nat) / span

/-- The torque state after a decision (R68). -/
def tauNext (tau eT band : Int) : Int :=
  if tau = 0 then (if band < eT then 1 else if eT < -band then -1 else 0)
  else if tau = 1 then (if eT ≤ 0 then 0 else 1)
  else (if 0 ≤ eT then 0 else -1)

/-- The flux state after a decision (R68). -/
def phiNext (phi eF band : Int) : Int := if band < eF then 1 else if eF < -band then -1 else phi

/-- The sector 1 to 6 of a flux angle in 1/4,096 electrical revolution (R69). -/
def sectorOf (angle : Int) : Nat := ((angle % 4096 * 6 + 2048) / 4096 % 6).toNat + 1

/-- The number of legs in which two vectors differ. -/
def legsDiff (v w : Nat) : Nat :=
  let st : List Nat := [0, 4, 6, 2, 3, 1, 5, 7]
  let x := nth st v 0 ^^^ nth st w 0
  x % 2 + x / 2 % 2 + x / 4

/-- The vector of the switching table (Table 03-4, R70). While the gates are off, the vector in force is the one chosen last (DESIGN CHOICE,
log entry 49). -/
def dtcVector (k : Nat) (tau phi : Int) (inForce : Nat) : Nat :=
  if tau = 0 then (if legsDiff inForce 7 < legsDiff inForce 0 then 7 else 0)
  else
    let d : Int := if phi = 1 then tau else 2 * tau
    (((k : Int) - 1 + d) % 6).toNat + 1

/-- The torque reference of a closed-loop mode: 0 in CATCH, the DC-bus loop in HOLDUP, otherwise the speed loop; in DECEL
braking torque while the speed is above a reference that falls by DEC, and none while SPN_VBUS is above VBUS_MAX (R92, whose law for the
torque is open: log entry 28). -/
def State.torqueRef (s : State) (vbus : Nat) : Int :=
  let m := s.pmode
  if m = pCATCH then 0
  else if m = pHOLDUP then s.engS.port2 / 8
  else if m = pDECEL then
    (if s.rd SPN_BUS_VBUS_MAX < vbus ∨ s.speed * 200 ≤ s.spn.refSpeed then 0
      else -((Config.brakeTorque (s.rd SPN_ACCEL_DEC) s.speed : Nat) : Int))
  else s.engS.port1 / 8

/-- The closed-loop modes. -/
def dtcMode (m : Nat) : Bool := obsMode m || m == pHOLDUP

/-- The residual of the period is evaluated (R76, R77). -/
def State.residual (s : State) (r : Nat) : State :=
  if s.spn.skip19 || !(dtcMode s.pmode || s.pmode == pRAMP) then s
  else if s.rd SPN_OBS_LIM_LIMIT < r then s.updSpn (fun x => { x with residBad := x.residBad + 1, residOk := 0 })
  else s.updSpn (fun x => { x with residBad := 0, residOk := min 8 (x.residOk + 1) })

/-- Rotor loss (Table 03-5, steps 1 to 4). -/
def State.rotorLoss (s : State) : State :=
  let s1 := ((s.setAtSpeed false).dropGates .A).dropGates .B
  let s2 := s1.updSpn (fun x => { x with residBad := 0, residOk := 0, crossings := [] })
  let s3 := s2.obsRefresh.gatesOff
  ((((s3.setPmode pCOAST).spnIrq 26).bump SPN_CNT_EVT_LOSS 1).spnEvt 3).trcEvent .spn 7

/-- SLEW begins: the reference starts from the measured speed. -/
def State.toSlew (s : State) : State :=
  (s.setPmode pSLEW).updSpn (fun x => { x with refSpeed := s.speed * 200, held := true, catchRev := false })

/-- AT_SPEED has set in SLEW: RUN, and for a start its result, START_DONE and STATE ON (Table 03-6). -/
def State.toRun (s : State) : State :=
  let s1 := s.setPmode pRUN
  if s.st bSPN 0 = stSTARTING then
    let res := if s.spn.revBraked then 3 else if s.spn.aligned then 2 else 1
    (((((s1.wr SPN_MODE_START_RES res).setSt bSPN 0 stON).spnIrq 28).spnEvt 1).underCheck)
  else s1

/-- The RAMP exit condition (Table 03-6). -/
def State.rampExit (s : State) : Bool := s.atLeastPct 5 && 8 ≤ s.spn.residOk

/-- Inductive position sensing begins. -/
def State.toIps (s : State) : State :=
  (((s.setPmode pIPS).wr SPN_IPS_RES_ATTEMPTS 0).wr SPN_IPS_RES_SECTOR 0).updSpn (fun x => { x with aligned := true, ipsCount := 0 })

/-- The listen ends (R90): CATCH, IPS or the reverse brake, by its crossings and the speed measured. -/
def State.listenExit (s : State) : State :=
  if s.spn.crossings.length < 3 then s.toIps
  else if s.spn.crossFwd = false then (s.setPmode pBRAKE_REV).brakeOn
  else if s.atLeastPct 5 then
    (s.updSpn (fun x => { x with aligned := false, held := true, residOk := 0, residBad := 0 })).setPmode pCATCH
  else s.toIps

/-- The align ends: the forced vector starts 90 degrees ahead of the aligned one (Table 03-6). -/
def State.toRamp (s : State) : State :=
  (s.setPmode pRAMP).updSpn (fun x => { x with
    residOk := 0, residBad := 0, rampSpeed := 0,
    rampAngle := ((s.rd SPN_IPS_RES_SECTOR + 5) % 6 * 400000000000 + 600000000000) % 2400000000000 })

/-- The exit whose condition has been met since the last decision (R89). A met RAMP exit wins over RAMP_TIMEOUT (R579). -/
def State.takeExit (s : State) : State :=
  match s.spn.exit with
  | 1 => s.listenExit
  | 2 => ((((s.gatesOff.wr SPN_MODE_START_RES 3).updSpn (fun x => { x with revBraked := true })).toIps).spnIrq 27).spnEvt 2
  | 3 => s.setPmode pALIGN
  | 4 => (s.wr SPN_MODE_START_RES 4).spnFault 10
  | 5 => s.toRamp
  | 6 => (s.wr SPN_MODE_START_RES 5).spnFault 10
  | 7 => ((s.toSlew.spnIrq 25).spnEvt 4).underCheck
  | 8 => (s.bump SPN_CNT_EVT_RECAP_FAIL 1).spnFault 5
  | 9 =>
    let s1 := s.gatesOff
    if s.spn.holdup then (s1.setPmode pFAULT_STOP).spnShutDone else s1.spnOff.spnShutDone
  | _ => s

/-- The mode exits that a decision takes, in the state with the residual evaluated. -/
def State.modeExit (s : State) (vbus : Nat) : State :=
  let m := s.pmode
  if s.spn.shutPend ∧ 1 ≤ m ∧ m ≤ 9 then s.shutTaken
  else if 16 ≤ s.spn.ocRun ∧ 1 ≤ m ∧ m ≤ 10 then (s.spnIrq 20).spnFault 9
  else if (m = pCATCH ∨ m = pSLEW ∨ m = pRUN) ∧ 8 ≤ s.spn.residBad then s.rotorLoss
  else if m = pRAMP ∧ s.rampExit then s.toSlew
  else if m = pCATCH ∧ s.spn.catchRev then s.toSlew
  else if m = pSLEW ∧ s.on SPN_MODE_AT_SPEED then s.toRun
  else if m = pDECEL ∧ s.atLeastPct 2 = false then s.toBrakeStop
  else if m = pHOLDUP ∧ s.atLeastPct 2 = false then s.toBrakeStop
  else if m = pDECEL then
    let n := if s.rd SPN_BUS_VBUS_MAX < vbus then s.spn.vbusOver + 1 else 0
    let s1 := s.updSpn (fun x => { x with vbusOver := n })
    if 16 ≤ n then s1.spnFault 0 else s1
  else s.takeExit

/-- The reference moves by at most ACC or DEC a decision: towards the target in SLEW, towards standstill in DECEL (R92). -/
def State.refStep (s : State) : State :=
  if s.pmode = pSLEW ∨ s.pmode = pDECEL then
    let t := if s.pmode = pSLEW then s.target * 200 else 0
    let r := s.spn.refSpeed
    let r' := if r < t then min t (r + s.rd SPN_ACCEL_ACC) else max t (r - s.rd SPN_ACCEL_DEC)
    s.updSpn (fun x => { x with refSpeed := r' })
  else s

/-- A vector is applied at a decision. -/
def State.setVec (s : State) (v : Nat) : State :=
  (s.setGates (vecPattern s.spn.dir v) 0).updSpn (fun x => { x with vec := v })

/-- Decisions of one position-sensing pulse (R91): IPS_PULSE in whole decisions, at least one (0 is not excluded by the register; log
entry 49). -/
def State.ipsPulse (s : State) : Nat := atLeast1 ((s.rd SPN_START_CFG_IPS_PULSE + 4) / 5)

/-- The vector of decision `n` of a position-sensing attempt: V1 to V6 for one pulse each, V0 for eight pulses' time after each (R91). -/
def ipsVector (pulse n : Nat) : Nat := if n < 54 * pulse ∧ n % (9 * pulse) < pulse then n / (9 * pulse) + 1 else 0

/-- The vector nearest to the forced angle of RAMP. -/
def rampVector (angle : Nat) : Nat := (angle + 200000000000) / 400000000000 % 6 + 1

/-- The vector of this decision is chosen and applied: the DTC table in the closed-loop modes; the pulses of R91 in IPS; in ALIGN the vector of
the sector found, held off while the current is above ALIGN_I; in RAMP the vector nearest to the forced angle, which turns at RAMP_ACC
(DEDUCED, log entry 28); the low-side brake in the brake modes; no gate in the others. -/
def State.applyVector (s : State) (est : SpnEst) : State :=
  let m := s.pmode
  if dtcMode m then
    let eT := s.torqueRef est.vbus - est.torque
    let eF := (s.rd SPN_FLUX_REF_REF : Int) - est.flux
    let tau := if s.spn.first then 0 else tauNext s.spn.tau eT (s.rd SPN_HYST_TBAND)
    let phi := if s.spn.first then 1 else phiNext s.spn.phi eF (s.rd SPN_HYST_FBAND)
    let v := dtcVector (sectorOf ((est.fluxAngle : Int) + s.phaseAdv)) tau phi s.spn.vec
    (s.setVec v).updSpn (fun x => { x with tau := tau, phi := phi, first := false })
  else if m = pRAMP then
    (s.setVec (rampVector s.spn.rampAngle)).updSpn (fun x => { x with
      rampSpeed := x.rampSpeed + s.rd SPN_RAMP_RAMP_ACC,
      rampAngle := (x.rampAngle + x.rampSpeed * s.poles) % 2400000000000 })
  else if m = pIPS then (s.setVec (ipsVector s.ipsPulse s.spn.ipsCount)).updSpn (fun x => { x with ipsCount := x.ipsCount + 1 })
  else if m = pALIGN then s.setVec (if s.rd SPN_ALIGN_ALIGN_I < s.spn.i19 then 0 else s.rd SPN_IPS_RES_SECTOR)
  else if m = pBRAKE_REV ∨ m = pBRAKE_STOP then s.brakeOn
  else if m = pOFF then s
  else s.setGates 0 0

/-- R67 to R70, R75 to R78, R579: a switching decision. -/
def execSwitchingDecision (est : SpnEst) (s : State) : Out :=
  if s.pmode = pOFF then
    .next ((s.wr SPN_GATE_RB_GATES s.offPattern).updSpn (fun x => { x with edges := [], skip19 := false, ocCut := false, ocRun := 0 }))
  else
    let s1 := s.updSpn (fun x => { x with
      ocRun := if x.ocCut then x.ocRun + 1 else 0, ocCut := false,
      edges := (x.edges.map (fun e => e - 5000)).filter (fun e => -5000 < e) })
    let s2 := (s1.residual est.residual).updSpn (fun x => { x with skip19 := false })
    let s3 := (s2.modeExit est.vbus).obsRefresh
    let s4 := s3.refStep.applyVector est
    .next (if s4.pmode = pOFF then s4
      else s4.updEng .spn (fun e => { e with arrived := { e.arrived with t1 := some e.count1 }, count1 := (e.count1 + 1) % 65536 }))

/-! ## Conversions (R73 to R75) -/

/-- DEADTIME plus SETTLE in force, ns. -/
def State.exclusion (s : State) : Nat := max 20 (s.rd SPN_GATE_DEADTIME) + min 4000 (max 400 (s.rd SPN_SAMP_SETTLE))

/-- Conversion `j` overlaps the span after a switching edge (R74). -/
def State.convSkipped (s : State) (j : Nat) : Bool :=
  s.spn.edges.any (fun e => decide (e < 250 * (j : Int) + 250) && decide (250 * (j : Int) < e + s.exclusion))

/-- R73 to R75: conversion `j` of the period. -/
def execCurrentConversion (j : Nat) (iu iv iw : Int) (s : State) : Out :=
  let i := max iu.natAbs (max iv.natAbs iw.natAbs)
  if s.pmode = pOFF ∨ 20 ≤ j then .next s
  else if s.convSkipped j then
    .next ((s.bump SPN_CNT_SKIP_COUNT 1).updSpn (fun x => { x with skip19 := x.skip19 || j == 19 }))
  else
    let s1 := if j = 19 then s.updSpn (fun x => { x with i19 := i }) else s
    if s.rd SPN_ILIM_LIMIT < i ∧ s.spn.ocCut = false then
      .next (((s1.setGates 0 (250 * j + 250)).bump SPN_CNT_EVT_OC_CUT 1).updSpn (fun x => { x with ocCut := true }))
    else .next s1

/-! ## Crossings, listen and recapture -/

/-- A crossing joins the present run, or begins a new one when its sequence differs. -/
def State.addCrossing (s : State) (fwd : Bool) (interval : Nat) : State :=
  s.updSpn (fun x => { x with
    crossings := if x.crossFwd = fwd then interval :: x.crossings else [interval], crossFwd := fwd })

/-- Four forward crossings: the observer's angle is set at the fourth and the speed from the mean of the three intervals (R79); the next decision
resumes DTC in SLEW, or stops a spindle below 5 % (R80). -/
def State.recapture (s : State) (angle : BitVec 24) : State :=
  let v := s.crossSpeed (meanN (s.spn.crossings.take 3))
  let s1 := (s.setSpeed v false).updSpn (fun x => { x with obsAngle := angle, crossings := [], residBad := 0, residOk := 0 })
  s1.updSpn (fun x => { x with exit := if s1.atLeastPct 5 then 7 else 8 })

/-- R79, R90, Table 03-6: a back-EMF or phase-current crossing. `amp` is in the units of BEMF_MIN, `interval` the time since the
crossing before it, `sinceEdge` the time since the last gate edge, in ns. -/
def execBemfCrossing (fwd : Bool) (amp interval sinceEdge : Nat) (angle : BitVec 24) (s : State) : Out :=
  let m := s.pmode
  let valid := s.rd SPN_START_CFG_BEMF_MIN ≤ amp
  if m = pLISTEN then
    .next (if valid then (s.addCrossing fwd interval).updSpn (fun x => { x with obsAngle := angle }) else s)
  else if m = pCOAST then
    if sinceEdge < 2 * s.exclusion ∨ ¬ s.spn.exit = 0 then .next s
    else if valid ∧ fwd then
      let s1 := s.addCrossing true interval
      .next (if 4 ≤ s1.spn.crossings.length then s1.recapture angle else s1)
    else .next (s.updSpn (fun x => { x with crossings := [] }))
  else if m = pBRAKE_REV ∨ m = pBRAKE_STOP then .next (s.setSpeed (s.crossSpeed interval) (!fwd))
  else .next s

/-- The next decision takes an exit of the present mode. -/
def State.due (s : State) (m code : Nat) : State :=
  if s.pmode = m ∧ s.spn.exit = 0 then s.updSpn (fun x => { x with exit := code }) else s

/-- R80: no recapture in time; the next decision begins the fault stop. -/
def execRecapTimeout (s : State) : Out := .next (s.due pCOAST 8)

/-- R90: the 20 ms listen ends: the speed is that of the mean of the intervals between the run's crossings, of which the first stored one
lies before the run; the next decision leaves LISTEN. -/
def execListenEnd (s : State) : Out :=
  .next (if s.pmode = pLISTEN ∧ s.spn.exit = 0 then
    (if 3 ≤ s.spn.crossings.length then s.setSpeed (s.crossSpeed (meanN s.spn.crossings.dropLast)) (!s.spn.crossFwd)
      else s.setSpeed 0 false).due pLISTEN 1
  else s)

/-- R89: the reverse brake ends; the next decision releases it. -/
def execBrakeRevEnd (s : State) : Out := .next (s.due pBRAKE_REV 2)

/-- The largest element and the first index at which it stands. -/
def maxAt (l : List Nat) : Nat × Nat :=
  let m := l.foldl max 0
  (m, l.findIdx (fun x => x == m))

/-- R91: an inductive position-sensing attempt ends with the six peak currents of V1 to V6: a sector, another attempt, or the third
failure. -/
def execIpsAttemptDone (peaks : List Nat) (s : State) : Out :=
  if s.pmode = pIPS ∧ s.spn.exit = 0 then
    let (best, k) := maxAt peaks
    let second := (maxAt (peaks.eraseIdx k)).1
    let n := s.rd SPN_IPS_RES_ATTEMPTS + 1
    let s1 := (s.wr SPN_IPS_RES_ATTEMPTS n).wr SPN_IPS_RES_DIFF (min 4095 (best - second))
    .next (if best - second < s.rd SPN_START_CFG_IPS_DIFF then
      let s2 := (s1.wr SPN_IPS_RES_SECTOR 0).updSpn (fun x => { x with ipsCount := 0 })
      if 3 ≤ n then s2.due pIPS 4 else s2
    else (s1.wr SPN_IPS_RES_SECTOR (k + 1)).due pIPS 3)
  else .next s

/-- R89: ALIGN_MS elapses; the next decision begins RAMP. -/
def execAlignDone (s : State) : Out := .next (s.due pALIGN 5)

/-- R579: RAMP_TIMEOUT elapses; the next decision stops the start, unless the exit condition is met. -/
def execRampTimeout (s : State) : Out := .next (s.due pRAMP 6)

/-- R89: the brake has stopped the spindle; the next decision ends the shut-down. -/
def execBrakeStopDone (s : State) : Out := .next (s.due pBRAKE_STOP 9)

/-- R89: both actuators report parked or not LOADED, which ends a fault stop. -/
def execFaultStopParked (s : State) : Out :=
  .next (if s.pmode = pFAULT_STOP ∧ s.st bSPN 0 = stSTOPPING ∧ s.anyLoaded = false then s.spnShutDone else s)

/-! ## SYNC_IN (R86) -/

/-- DIV in force: 0 when the lock is disabled. -/
def State.syncDiv (s : State) : Nat :=
  let d := s.rd SPN_SYNC_CFG_DIV
  if s.on SPN_SYNC_CFG_EN ∧ 1 ≤ d ∧ d ≤ 512 then d else 0

/-- The phase error of a pulse at a marker-relative angle, against the nearest expected pulse, rounded toward zero where 2^24 / DIV is not
whole (DESIGN CHOICE, log entry 49). -/
def State.syncErr (s : State) (angle : BitVec 24) : Int :=
  (sAngle (((angle.toNat : Int) - s.rd SPN_SYNC_PHASE_PHASE) * s.syncDiv)).tdiv s.syncDiv

/-- PULL in force, in 0.01 %. -/
def State.pull (s : State) : Nat := min 5 (atLeast1 (s.rd SPN_SYNC_CFG_PULL))

/-- A write of SPN_SYNC_CFG: with the lock disabled, SYNC_LOCKED clears with cause 5 (R86, SPN_SYNC_STAT). -/
def State.syncCfg (s : State) (val : Word) : State :=
  let s1 := s.storeRow SPN_SYNC_CFG val
  if s1.syncDiv = 0 then s1.syncLose 5 else s1

/-- R86: a filtered SYNC_IN pulse, or the input filter's report of over-rate. -/
def execSyncInPulse (angle : BitVec 24) (intervalNs : Nat) (overRate : Bool) (s : State) : Out :=
  if overRate then .next (s.syncLose 2)
  else if s.syncDiv = 0 ∨ ¬ s.pmode = pRUN then .next s
  else
    let e := s.syncErr angle
    let v := if intervalNs = 0 then 2 ^ 40 else 60000000000000 / (s.syncDiv * intervalNs)
    let lim := s.target * s.pull / 10000
    let inRange := decide ((((v : Int) - s.target).natAbs) * 10000 ≤ s.target * s.pull)
    let run := if e.natAbs ≤ 23302 then s.spn.syncRun + 1 else 0
    let out := if 93207 < e.natAbs then s.spn.syncOut + 1 else 0
    let s1 := (s.wrI SPN_SYNC_STAT_ERR e).updSpn (fun x => { x with
      syncRun := run, syncOut := out, syncSpeed := max (s.target - lim) (min (s.target + lim) v) })
    if s.on SPN_MODE_SYNC_LOCKED then
      .next (if inRange = false then s1.syncLose 4 else if 4 ≤ out then s1.syncLose 3 else s1)
    else if 16 ≤ run ∧ inRange then
      .next ((((s1.wr SPN_MODE_SYNC_LOCKED 1).wr SPN_SYNC_STAT_LOCKED 1).spnIrq 23).spnEvt 7)
    else .next s1

/-- R86: two expected pulse periods pass without a pulse. -/
def execSyncPulseTimeout (s : State) : Out := .next (s.syncLose 1)

/-! ## Marker (R87, R88) -/

/-- The stored signature of the P pole pairs. -/
def State.sig (s : State) : List Int := (List.range s.poles).map (fun n => s.rdI (SPN_MARK_SIG_SIG n))

/-- The score of rotation `p`. -/
def markScore (sig meas : List Int) (p : Nat) : Int :=
  ((List.range sig.length).map (fun i => nth sig i 0 * nth meas ((i + p) % sig.length) 0)).sum

/-- A rotation is adopted (R88): the pole index is renamed, the observer angle moves back, and either the ATB corrects (SRC OBS) or
ATB_OBS_OFFSET takes the shift (SRC a servo or FLYWHEEL). -/
def State.markAdopt (s : State) (p conf : Nat) : State :=
  let shift := p * 2 ^ 24 / s.poles
  let s1 := (((s.wr SPN_MARK_VALID 1).wr SPN_MODE_MARK_VALID 1).wr SPN_MARK_POLE_IDX p).wr SPN_MARK_CONF conf
  let s2 := ((s1.updSpn (fun x => { x with
    measuring := false, obsAngle := x.obsAngle - BitVec.ofNat 24 shift,
    pole := x.pole.map (fun q => (q + s.poles - p) % atLeast1 s.poles) })).spnIrq 17).spnEvt 13
  if s.rd ATB_SRC_SRC = srcOBS then
    if s.isOn bATB 0 ∧ ¬ shift = 0 then s2.correct (sAngle (s.residualAc - shift)) else s2
  else s2.wr ATB_OBS_OFFSET_OFFSET (ux 24 ((s.rd ATB_OBS_OFFSET_OFFSET : Int) + shift))

/-- The mean deviation of each electrical revolution over the measured revolutions, in ppm of their mean, rounded toward zero (R87; the
rounding is a DESIGN CHOICE, log entry 49). -/
def State.markMeas (s : State) : List Int :=
  let total : Int := (s.spn.sums.sum : Nat)
  s.spn.sums.map (fun x => (((s.poles * x : Nat) : Int) - total) * 1000000 |>.tdiv total)

/-- R87: 16 mechanical revolutions have been measured. -/
def execMarkerMeasureDone (s : State) : Out :=
  if s.spn.measuring = false ∨ s.spn.revs < 16 * s.poles then .next s
  else if s.sig.all (fun x => x == 0) then
    let s1 := (List.range s.poles).foldl (fun s' n => s'.wrI (SPN_MARK_SIG_SIG n) (nth s.markMeas n 0)) s
    .next (s1.markAdopt 0 255)
  else
    let sc := (List.range s.poles).map (markScore s.sig s.markMeas)
    let best := sc.foldl max (nth sc 0 0)
    let p := sc.findIdx (fun x => x == best)
    let rest := sc.eraseIdx p
    let second := rest.foldl max (nth rest 0 0)
    let conf := if 0 < best then (min 255 (255 * (best - second) / best)).toNat else 0
    .next (if 0 < best ∧ s.rd SPN_MARK_CFG_MIN_CONF ≤ conf then s.markAdopt p conf
      else (s.wr SPN_MARK_CONF conf).updSpn (fun x => { x with revs := 0, sums := List.replicate s.poles 0 }))

/-! ## Register writes -/

/-- R85, R93, R580: SPN_CFG is judged field by field. -/
def execSpnCfgWrite (val : Word) (s : State) : Out :=
  .next (s.gated SPN_CFG (fun s =>
    let tg := fieldOf val 0 2
    let dr := fieldOf val 4 1
    let pp := fieldOf val 8 4
    let tgNew := !(tg == s.rd SPN_CFG_TARGET)
    let drNew := !(dr == s.rd SPN_CFG_DIR)
    let ppNew := !(pp == s.poles)
    let tgOk := !(tg == 3) && !s.anyLoaded
    let drOk := !s.atLeastPct 2
    let ppOk := 4 ≤ pp && pp ≤ 12 && (s.st bSPN 0 == stOFF || s.st bSPN 0 == stFAULT)
    let s1 := if ppNew && ppOk then s.wr SPN_CFG_POLE_PAIRS pp else s
    let s2 := if drNew && drOk then s1.wr SPN_CFG_DIR dr else s1
    let s3 := if tgNew && tgOk then
        let s4 := (s2.wr SPN_CFG_TARGET tg).setAtSpeed false
        (if s.pmode = pRUN then s4.toSlew else s4.updSpn (fun x => { x with bandRun := 0 })).underCheck
      else s2
    if (tgNew && !tgOk) || (drNew && !drOk) || (ppNew && !ppOk) then s3.spnRefuse else s3))

/-- A pattern turns on both switches of a leg. -/
def legClash (p : Nat) : Bool := p / 16 % 4 == 3 || p / 4 % 4 == 3 || p % 4 == 3

/-- R66: the gate test pattern is taken or refused as a whole. -/
def execSpnGateForceWrite (val : Word) (s : State) : Out :=
  .next (s.gated SPN_GATE_FORCE (fun s =>
    if legClash (fieldOf val 0 6) then s.spnRefuse
    else
      let s1 := (s.wr SPN_GATE_FORCE_PATTERN (fieldOf val 0 6)).wr SPN_GATE_FORCE_FORCE_EN (fieldOf val 31 1)
      if s.pmode = pOFF then s1.wr SPN_GATE_RB_GATES s1.offPattern else s1))

end Sys2Proof.Machine
end

