-- ==== Sys2Proof/Machine/Eng.lean ====
section
/-! DEFINITION. The control engines: number format, evaluation, ticks, profile generator, coefficient memory, faults and trace. -/

namespace Sys2Proof.Machine

/-! ## Number format (R99 to R102) -/

/-- An exact term: `m * 2^e`. -/
structure Term where
  m : Int
  e : Int
  deriving DecidableEq, Repr

/-- `m * 2^k`, rounded to nearest with ties to even. -/
def scaleRne (m : Int) (k : Int) : Int := if 0 ≤ k then m * (2 ^ k.toNat : Nat) else rne m (-k).toNat

/-- `m * 2^k`, truncated toward minus infinity. -/
def scaleFloor (m : Int) (k : Int) : Int := if 0 ≤ k then m * (2 ^ k.toNat : Nat) else m / (2 ^ (-k).toNat : Nat)

/-- Every mantissa of the values at exponent `E` lies in 16 bits. -/
def fitsAt (l : List Term) (E : Int) : Bool :=
  l.all (fun t => let m := scaleRne t.m (t.e - E + 15); decide (-32768 ≤ m) && decide (m ≤ 32767))

/-- The vector of a stage's results: the smallest exponent at which every rounded mantissa fits (R102); none when it would exceed
127. -/
def mkVec (l : List Term) : Option BVec :=
  if l.all (fun t => t.m == 0) then some { m := l.map (fun _ => 0), e := -128 }
  else ((List.range 256).map (fun (n : Nat) => (n : Int) - 128)).find? (fitsAt l) |>.map (fun E =>
    { m := l.map (fun t => scaleRne t.m (t.e - E + 15)), e := E })

/-- Element `i` of a vector as an exact term. -/
def BVec.term (v : BVec) (i : Nat) : Term := ⟨nth v.m i 0, v.e - 15⟩

/-- The 48-bit accumulation of R101. Each term has the value m 2^(e-30), its products aligned to the largest exponent among the terms;
none is the NUMERIC fault. -/
def accum (l : List Term) : Option Term :=
  match l with
  | [] => some ⟨0, 0⟩
  | t :: r =>
    let top := r.foldl (fun x t => max x t.e) t.e
    let a := l.foldl (fun a t => a + scaleFloor t.m (t.e - top + 16)) 0
    if -(2 ^ 47 : Int) ≤ a ∧ a < 2 ^ 47 then some ⟨a, top - 46⟩ else none

/-- A vector element as an accumulator term. -/
def BVec.acc (v : BVec) (i : Nat) : Term := ⟨nth v.m i 0 * 32768, v.e⟩

/-! ## Register fields -/

def engCfg (e : Eng) (q lo w : Nat) : Fld := engFld e 2 (0x200 + 4 * q) lo w
def engEn (e : Eng) : Fld := engFld e 2 0x24 0 4
def engActive (e : Eng) : Fld := engFld e 2 0x20 9 1
def engSwapPend (e : Eng) : Fld := engFld e 2 0x20 10 1
def engStale (e : Eng) : Fld := engFld e 2 0x20 11 1
def engOverrun (e : Eng) : Fld := engFld e 2 0x20 24 8
def engSatNow (e : Eng) (q : Nat) : Fld := engFld e 2 0x20 (16 + q) 1
def engSatCnt (e : Eng) (q : Nat) : Fld := engFld e 2 0x30 (8 * q) 8
def trcState (e : Eng) : Fld := engFld e 3 0x68 30 2
def trcArmBit (e : Eng) : Fld := engFld e 3 0x60 31 1
def profBusy (e : Eng) : Fld := engFld e 3 0x20 0 1
def profDone (e : Eng) : Fld := engFld e 3 0x20 1 1

/-- Block and instance of an engine, for its interrupts. -/
def engBlk : Eng → Nat × Nat
  | .srvA => (bSRV, 0)
  | .srvB => (bSRV, 1)
  | .spn => (bSPN, 0)

def State.engIrq (s : State) (e : Eng) (p bit : Nat) : State := s.irq (engBlk e).1 (engBlk e).2 p bit

/-- The Tower of an SRV engine. -/
def engTower : Eng → Option Tower
  | .srvA => some .A
  | .srvB => some .B
  | .spn => none

def State.slotOn (s : State) (e : Eng) (q : Nat) : Bool := s.rd (engEn e) / 2 ^ q % 2 == 1
def State.nState (s : State) (e : Eng) (q : Nat) : Nat := s.rd (engCfg e q 8 4)
def State.nIn (s : State) (e : Eng) (q : Nat) : Nat := s.rd (engCfg e q 4 2) + 1
def State.nOut (s : State) (e : Eng) (q : Nat) : Nat := s.rd (engCfg e q 0 2) + 1
def State.xcpl (s : State) (e : Eng) (q : Nat) : Bool := !(e == .spn) && s.on (engCfg e q 30 1)
def State.xpub (s : State) (e : Eng) (q : Nat) : Bool := !(e == .spn) && s.on (engCfg e q 31 1)

/-- The stream code that a slot runs on: its own, or its INNER slot's (R107). -/
def State.streamOf (s : State) (e : Eng) (q : Nat) : Nat :=
  if s.on (engCfg e q 28 1) then s.rd (engCfg e (s.rd (engCfg e q 26 2)) 24 2) else s.rd (engCfg e q 24 2)

/-- The number of a stream's tick in an instant. -/
def TickInst.num (i : TickInst) (stream : Nat) : Option Nat := if stream = 0 then i.t0 else if stream = 1 then i.t1 else none

/-- A slot is due at a tick instant (R104, R107). -/
def State.slotDue (s : State) (e : Eng) (i : TickInst) (q : Nat) : Bool :=
  match i.num (s.streamOf e q) with
  | none => false
  | some n => !s.on (engCfg e q 28 1) || n % (s.rd (engCfg e q 20 4) + 1) == 0

/-! ## Coefficient memory -/

def State.coefWord (s : State) (e : Eng) (a : Nat) : Nat := sparseGet (s.eng e).coef a
def State.coefI (s : State) (e : Eng) (a : Nat) : Int := sx 16 (s.coefWord e a)
def State.coefE (s : State) (e : Eng) (a : Nat) : Int := sx 8 (s.coefWord e a)

/-- The slot region in the active bank (R117). -/
def State.region (s : State) (e : Eng) (q : Nat) : Nat := s.rd (engActive e) * 0x800 + q * 0x200

/-- x̂ of a slot. -/
def State.xhat (s : State) (e : Eng) (q : Nat) : BVec :=
  let m := (List.range 12).map (fun i => s.coefI e (0x1000 + 16 * q + i))
  if m.all (fun x => x == 0) then { m := m, e := -128 } else { m := m, e := s.coefE e (0x1000 + 16 * q + 12) }

/-- The product of a matrix entry and a vector element as an accumulator term. -/
def State.prod (s : State) (e : Eng) (word expo : Nat) (v : BVec) (i : Nat) : Term :=
  ⟨s.coefI e word * nth v.m i 0, s.coefE e expo + v.e⟩

/-- The words of `rows` by `cols` entries from `base`, `rs` words from row to row and `cs` from column to column (Table 04-6). -/
def matWords (base rs cs rows cols : Nat) : List Nat :=
  (List.range rows).flatMap (fun i => (List.range cols).map (fun j => base + rs * i + cs * j))

/-- The terms of one result element over a matrix; a matrix whose mantissas are all 0 has the value 0, whatever its exponent word holds
(R122), and gives none. -/
def State.matTerms (s : State) (e : Eng) (mat : List Nat) (terms : List Term) : List Term :=
  if mat.all (fun a => s.coefI e a == 0) then [] else terms

/-- The words that a stage reads (Table 04-2, Table 04-6). -/
def State.stageWords (s : State) (e : Eng) (q stage : Nat) : List Nat :=
  let n := s.nState e q
  let p := s.nIn e q
  let m := s.nOut e q
  let r := s.region e q
  let mat := fun (base rs cs rows cols : Nat) => matWords (r + base) rs cs rows cols
  let st := (List.range n).map (fun i => 0x1000 + 16 * q + i) ++ [0x1000 + 16 * q + 12]
  if stage = 2 then mat 240 12 1 p n ++ [r + 371] ++ st
  else if stage = 3 then mat 288 12 1 m n ++ mat 336 4 1 m 4 ++ (if s.xcpl e q then mat 352 4 1 m 4 ++ [r + 374] else [])
    ++ [r + 372, r + 373] ++ st
  else if stage = 4 then (List.range m).map (fun k => r + 376 + k)
  else if stage = 5 then mat 0 12 1 n n ++ mat 144 4 1 n m ++ mat 192 4 1 n p ++ [r + 368, r + 369, r + 370, r + 380] ++ st
  else []

/-- The first word with a parity error that a stage reads. -/
def State.stagePar (s : State) (e : Eng) (q stage : Nat) : Option Nat :=
  if (s.eng e).badPar.isEmpty then none else (s.stageWords e q stage).find? (fun a => (s.eng e).badPar.contains a)

/-! ## Sources (Tables 04-3 and 04-4) -/

/-- Measured minus target speed in ppm of the target. -/
def State.speedDev (s : State) : Int := (((s.speed : Int) - s.target) * 1000000).tdiv s.target

/-- The speed reference minus the target in ppm, 0 outside SLEW and SYNC lock. -/
def State.spdRef (s : State) : Int :=
  if s.pmode = pSLEW ∨ s.on SPN_MODE_SYNC_LOCKED then (((s.refNow : Int) - s.target) * 1000000).tdiv s.target else 0

/-- A source common to inputs and set-points: u_sat,k of slot q. -/
def State.slotSrc (s : State) (e : Eng) (code : Nat) : Term :=
  if 8 ≤ code ∧ code < 24 then ⟨nth (nth (s.eng e).slots ((code - 8) / 4) {}).ports ((code - 8) % 4) 0, -15⟩ else ⟨0, 0⟩

/-- An input source as an exact value (Table 04-3, R111). -/
def State.inSrc (s : State) (e : Eng) (inp : EngIn) (code : Nat) : Term :=
  match engTower e with
  | some t =>
    if code = 1 then ⟨s.rdI (SRV_PES_PES t.idx), -15⟩
    else if code = 2 then ⟨s.rd (SRV_POS_POS t.idx), -8⟩
    else if code = 3 then ⟨inp.vcmI, -11⟩
    else if code = 4 then ⟨s.rdI (SRV_SHOCK_VAL_SHOCK_0 t.idx), -11⟩
    else if code = 5 then ⟨s.rdI (SRV_SHOCK_VAL_SHOCK_1 t.idx), -11⟩
    else s.slotSrc e code
  | none =>
    if code = 1 then ⟨s.speedDev, 0⟩
    else if code = 2 then ⟨if s.on SPN_MODE_SYNC_LOCKED then s.rdI SPN_SYNC_STAT_ERR else 0, 0⟩
    else if code = 3 then ⟨inp.vbus, 0⟩
    else if code = 4 ∨ code = 5 then ⟨inp.torqueEst, -12⟩
    else s.slotSrc e code

/-- AUX_SP (R112). -/
def State.auxSp (s : State) (t : Tower) (inp : EngIn) : Term :=
  if s.on (SRV_ENG_AUX_ALLOW t.idx) then
    ⟨(inp.auxSum - 4 * s.rdI (SRV_ENG_AUX_OFFSET t.idx)) * s.rd (SRV_ENG_AUX_GAIN t.idx), -25⟩ else ⟨0, 0⟩

/-- A set-point source as an exact value (Table 04-4); `j` is the element. -/
def State.spSrc (s : State) (e : Eng) (inp : EngIn) (code j : Nat) : Term :=
  let cst : Term := ⟨sx 16 (s.rd (engFld e 2 (0x240 + 4 * j) 8 16)), s.rdI (engFld e 2 (0x240 + 4 * j) 0 8) - 15⟩
  match engTower e with
  | some t =>
    if code = 1 then ⟨(s.eng e).prof.p, -16⟩
    else if code = 2 then ⟨(s.eng e).prof.v, -16⟩
    else if code = 3 then ⟨(s.eng e).prof.a, -16⟩
    else if code = 5 then s.auxSp t inp
    else if code = 6 then cst
    else s.slotSrc e code
  | none =>
    if code = 4 then ⟨s.spdRef, 0⟩ else if code = 6 then cst else s.slotSrc e code

/-- The difference of two exact values. -/
def Term.sub (a b : Term) : Term :=
  let e := min a.e b.e
  ⟨a.m * (2 ^ (a.e - e).toNat : Nat) - b.m * (2 ^ (b.e - e).toNat : Nat), e⟩

/-! ## The five stages -/

/-- What a stage does: an engine state of the slot, or the NUMERIC fault. -/
structure EvalRes where
  slot : EngSlot
  sat : Bool := false
  xhat : BVec := {}
  deriving DecidableEq, Repr

/-- The elements of a routing register. -/
def State.sel (s : State) (e : Eng) (off q j : Nat) : Nat := s.rd (engFld e 2 (off + 4 * q) (8 * j) 8)

/-- Stage 1 (R111, R115, R581): inputs less set-points, set-points, and the coupling vector. -/
def State.stage1 (s : State) (e : Eng) (q : Nat) (inp : EngIn) (w : BVec) : Option EngSlot :=
  let sp := (List.range 4).map (fun j => s.spSrc e inp (s.sel e 0x220 q j % 32) j)
  let y := (List.range (s.nIn e q)).map (fun j =>
    let sel := s.sel e 0x210 q j
    let v := s.inSrc e inp (sel % 32)
    if 128 ≤ sel then v.sub (nth sp j ⟨0, 0⟩) else v)
  match mkVec y, mkVec sp with
  | some yv, some sv => some { nth (s.eng e).slots q {} with y := yv, s := sv, w := w }
  | _, _ => none

/-- Collect the elements of a stage, or the NUMERIC fault. -/
def collect : List (Option Term) → Option (List Term)
  | [] => some []
  | none :: _ => none
  | some t :: r => (collect r).map (fun l => t :: l)

def vecOf (l : List (Option Term)) : Option BVec := (collect l).bind mkVec

def neg (t : Term) : Term := ⟨-t.m, t.e⟩

/-- Stage 2: ν := y - C x̂. -/
def State.stage2 (s : State) (e : Eng) (q : Nat) (sl : EngSlot) (x : BVec) : Option EngSlot :=
  let r := s.region e q
  (vecOf ((List.range (s.nIn e q)).map (fun j =>
    accum (sl.y.acc j :: s.matTerms e (matWords (r + 240) 12 1 (s.nIn e q) (s.nState e q))
      ((List.range (s.nState e q)).map (fun i => neg (s.prod e (r + 240 + 12 * j + i) (r + 371) x i))))))).map
      (fun v => { sl with nu := v })

/-- Stage 3: u := -K x̂ + F s + X w. -/
def State.stage3 (s : State) (e : Eng) (q : Nat) (sl : EngSlot) (x : BVec) : Option EngSlot :=
  let r := s.region e q
  let m := s.nOut e q
  (vecOf ((List.range m).map (fun k =>
    accum (s.matTerms e (matWords (r + 288) 12 1 m (s.nState e q))
        ((List.range (s.nState e q)).map (fun i => neg (s.prod e (r + 288 + 12 * k + i) (r + 372) x i)))
      ++ s.matTerms e (matWords (r + 336) 4 1 m 4) ((List.range 4).map (fun l => s.prod e (r + 336 + 4 * k + l) (r + 373) sl.s l))
      ++ (if s.xcpl e q then
        s.matTerms e (matWords (r + 352) 4 1 m 4) ((List.range 4).map (fun l => s.prod e (r + 352 + 4 * k + l) (r + 374) sl.w l))
        else []))))).map
        (fun v => { sl with u := v })

/-- The port integer of an output before the slot's own limit (R108). -/
def portRaw (v : BVec) (k : Nat) : Int := clampI (scaleRne (nth v.m k 0) v.e) (-32768) 32767

/-- Stage 4: the limited outputs, and whether one of them is saturated (R108). -/
def State.stage4 (s : State) (e : Eng) (q : Nat) (sl : EngSlot) : EngSlot × Bool :=
  let r := s.region e q
  let raw := (List.range (s.nOut e q)).map (fun k => scaleRne (nth sl.u.m k 0) sl.u.e)
  let lim := (List.range (s.nOut e q)).map (fun k =>
    let l : Int := s.coefWord e (r + 376 + k)
    clampI (portRaw sl.u k) (-l) l)
  let us := (mkVec (lim.map (fun p => ⟨p, -15⟩))).getD {}
  ({ sl with usat := us, ports := (List.range 4).map (fun k => nth lim k 0) }, !(raw == lim))

/-- Stage 5: x̂ := A x̂ + B u_obs + L ν; a state under AW_MASK is kept in a saturated evaluation (R109). -/
def State.stage5 (s : State) (e : Eng) (q : Nat) (sl : EngSlot) (x : BVec) (sat : Bool) : Option BVec :=
  let r := s.region e q
  let uo := if s.on (engCfg e q 29 1) then sl.u else sl.usat
  let mask := s.coefWord e (r + 380)
  let n := s.nState e q
  vecOf ((List.range n).map (fun i =>
    if sat && mask / 2 ^ i % 2 == 1 then some (x.term i)
    else accum (s.matTerms e (matWords r 12 1 n n) ((List.range n).map (fun j => s.prod e (r + 12 * i + j) (r + 368) x j))
      ++ s.matTerms e (matWords (r + 144) 4 1 n (s.nOut e q))
        ((List.range (s.nOut e q)).map (fun k => s.prod e (r + 144 + 4 * i + k) (r + 369) uo k))
      ++ s.matTerms e (matWords (r + 192) 4 1 n (s.nIn e q))
        ((List.range (s.nIn e q)).map (fun j => s.prod e (r + 192 + 4 * i + j) (r + 370) sl.nu j)))))

/-- The cycles of an evaluation (Table 04-2). -/
def State.evalCycles (s : State) (e : Eng) (q : Nat) : Nat :=
  let n := s.nState e q
  let p := s.nIn e q
  let m := s.nOut e q
  let c := fun x => (x + 3) / 4
  4 + (c (p * n) + 1) + (c (m * n) + m + (if s.xcpl e q then m else 0) + 1) + 2 + (c (n * n) + c (n * m) + c (n * p) + 1)

/-! ## Trace (R125 to R127) -/

/-- The capture ends. -/
def State.trcEnd (s : State) (e : Eng) : State := ((s.wr (trcState e) 3).wr (trcArmBit e) 0).engIrq e 3 27

/-- The entry of a trace channel. -/
def State.trcEntry (s : State) (e : Eng) (c tick : Nat) : Nat :=
  let kind := s.rd (engFld e 3 (0x80 + 4 * c) 8 4)
  let q := s.rd (engFld e 3 (0x80 + 4 * c) 4 2)
  let i := s.rd (engFld e 3 (0x80 + 4 * c) 0 4)
  let sl := nth (s.eng e).slots q {}
  let v : BVec :=
    if kind = 1 then sl.y else if kind = 2 then sl.s else if kind = 3 then sl.nu else if kind = 4 then sl.u
    else if kind = 5 then sl.usat else if kind = 6 then s.xhat e q else if kind = 7 then sl.w else {}
  if kind = 0 ∨ 9 ≤ kind then 0
  else if kind = 8 then ux 16 (nth sl.ports i 0) * 2 ^ 16 + tick % 256
  else ux 16 (nth v.m i 0) * 2 ^ 16 + ux 8 v.e * 2 ^ 8 + tick % 256

/-- `a * 2^x < b * 2^y`. -/
def ltScaled (a x b y : Int) : Bool :=
  let k := min x y
  decide (a * (2 ^ (x - k).toNat : Nat) < b * (2 ^ (y - k).toNat : Nat))

/-- The trigger of TRC_TRIG holds at a sample whose channel 0 entry is `ent` (Table 04-8). -/
def State.trcTrig (s : State) (e : Eng) (ent : Nat) : Bool :=
  let src := s.rd (engFld e 3 0x64 28 4)
  let thM := sx 16 (s.rd (engFld e 3 0x64 8 16))
  let thE := sx 8 (s.rd (engFld e 3 0x64 0 8))
  let m := sx 16 (ent / 2 ^ 16)
  let x := sx 8 (ent / 2 ^ 8)
  let ev := (s.eng e).trcEvents
  (s.eng e).trcForce
    || (src == 1 && ltScaled thM thE m x) || (src == 2 && ltScaled m x thM thE)
    || (src == 3 && ltScaled thM thE m.natAbs x)
    || (4 ≤ src && src ≤ 8 && ev.contains src)

/-- One sample of all eight channels (R125, R126). -/
def State.trcSample (s : State) (e : Eng) (tick : Nat) : State :=
  let st := s.rd (trcState e)
  if st = 1 ∨ st = 2 then
    let k := (s.eng e).trcCount % 4096
    let ents := (List.range 8).map (fun c => s.trcEntry e c tick)
    let s1 := s.updEng e (fun x => { x with
      trace := (List.range 8).foldl (fun l c => sparseSet l (4096 * c + k) (nth ents c 0)) x.trace
      trcCount := x.trcCount + 1 })
    let s1t := (List.range 8).foldl (fun s c => s.trace (4 + e.idx) (0x30 + e.idx) 4 (BitVec.ofNat 8 c :: leBytes 4 (nth ents c 0))) s1
    let s2 := s1t.wr (engFld e 3 0x68 0 13) (min 4096 ((s.eng e).trcCount + 1))
    if st = 1 then
      if s.trcTrig e (nth ents 0 0) then
        let post := s.rd (engFld e 3 0x60 16 12)
        let s3 := ((s2.wr (engFld e 3 0x68 16 12) k).wr (trcState e) 2).updEng e (fun x => { x with
          trcLeft := post, trcForce := false, trcEvents := [] })
        if post = 0 then s3.trcEnd e else s3
      else s2.updEng e (fun x => { x with trcEvents := [] })
    else
      let left := (s.eng e).trcLeft - 1
      let s3 := s2.updEng e (fun x => { x with trcLeft := left, trcEvents := [] })
      if left = 0 then s3.trcEnd e else s3
  else s

/-- The end of an evaluation of slot `q`: every DECIM-th of the traced slot samples. -/
def State.trcEval (s : State) (e : Eng) (q tick : Nat) : State :=
  if s.rd (engFld e 3 0x60 0 2) = q then
    let d := (s.eng e).trcDecim + 1
    if s.rd (engFld e 3 0x60 8 8) + 1 ≤ d then (s.updEng e (fun x => { x with trcDecim := 0 })).trcSample e tick
    else s.updEng e (fun x => { x with trcDecim := d })
  else s

/-! ## Faults (R123, R127) -/

/-- An engine fault: everything of R123, the end of a capture, and the emergency of an SRV actuator (R149). -/
def State.engFault (s : State) (e : Eng) (q stage cause addr : Nat) : State :=
  let s1 := (((s.wr (engFld e 2 0x2C 28 4) cause).wr (engFld e 2 0x2C 26 2) q).wr (engFld e 2 0x2C 23 3) stage).wr
    (engFld e 2 0x2C 0 13) addr
  let s2 := ((s1.wr (engEn e) 0).updEng e (fun x => { x with held := true })).engRefresh e
  let s3 := (s2.engIrq e 2 25).trcEvent e 6
  let s4 := if s.rd (trcState e) = 1 ∨ s.rd (trcState e) = 2 then (s3.wr (engFld e 3 0x68 29 1) 1).trcEnd e else s3
  match engTower e with
  | some t =>
    let s5 := s4.srvPins t
    if s.mode t = mLOADING ∨ isLoaded (s.mode t) then s5.emergency t 4 else s5
  | none => s4

/-! ## Delivery (R108, R114, R143) -/

def engOther : Eng → Eng
  | .srvA => .srvB
  | .srvB => .srvA
  | .spn => .spn

/-- Stage 4 writes the ports, counts saturation, publishes, and lets the actuator's pin follow its port. -/
def State.deliver (s : State) (e : Eng) (q : Nat) (sl : EngSlot) (sat : Bool) : State :=
  let codes := (List.range (s.nOut e q)).map (fun k => s.sel e 0x230 q k % 4)
  let port := fun (code : Nat) (old : Int) =>
    match codes.findIdx? (fun c => c == code) with
    | some k => nth sl.ports k 0
    | none => old
  let s1 := s.updEng e (fun x => { x with slots := upd x.slots q sl, port1 := port 1 x.port1, port2 := port 2 x.port2 })
  let s2 := s1.wb (engSatNow e q) sat
  let s3 := if sat then
      let s4 := (s2.bump (engSatCnt e q) 1).trcEvent e (if s.rd (engFld e 3 0x60 0 2) = q then 4 else 0)
      if s.on (engSatNow e q) then s4 else s4.engIrq e 2 26
    else s2
  match engTower e with
  | none => s3
  | some t =>
    let pub : BVec := if isLoaded (s.mode t) then { sl.usat with m := (List.range 4).map (fun k => nth sl.usat.m k 0) }
      else { m := [0, 0, 0, 0], e := -128 }
    let s4 := if s.xpub e q then s3.updEng (engOther e) (fun x => { x with recv := pub, recvAge0 := 0, recvAge1 := 0 }) else s3
    let s5 := if codes.contains 1 && isLoaded (s.mode t) then s4.updSrv t (fun x => { x with pinHeld := false }) else s4
    s5.srvPins t

/-- x̂ returns to the state region. -/
def State.storeX (s : State) (e : Eng) (q : Nat) (v : BVec) : State :=
  s.updEng e (fun x => { x with coef :=
    (sparseSet ((List.range v.m.length).foldl (fun l i => sparseSet l (0x1000 + 16 * q + i) (ux 16 (nth v.m i 0))) x.coef)
      (0x1000 + 16 * q + 12) (ux 16 v.e)) })

/-- The coupling vector of an evaluation and XCPL_STALE (R115, R116). -/
def State.coupling (s : State) (e : Eng) (q : Nat) : State × BVec :=
  if s.xcpl e q then
    let age := if s.streamOf e q = 0 then (s.eng e).recvAge0 else (s.eng e).recvAge1
    let stale := !(s.rd (engEstate (engOther e)) == 1) || decide (atLeast1 (s.rd (engFld e 2 0x254 0 8)) < age)
    let s1 := s.wb (engStale e) stale
    let s2 := if stale && !s.on (engStale e) then s1.engIrq e 2 22 else s1
    (s2, if stale then { m := [0, 0, 0, 0], e := -128 } else (s.eng e).recv)
  else (s, { m := [0, 0, 0, 0], e := -128 })

/-- A slot that samples PES or POS before the demodulator result (R135). -/
def State.lateDemod (s : State) (e : Eng) (q : Nat) : State :=
  match engTower e with
  | none => s
  | some t =>
    let reads := (List.range (s.nIn e q)).any (fun j => let c := s.sel e 0x210 q j % 32; c == 1 || c == 2)
    if reads && ((s.srv.get t).demodPending || (s.srv.get t).lateWin) then (s.bump (SRV_CNT_LATE_DEMOD t.idx) 1).irq bSRV t.idx 0 20 else s

/-- The five stages of one evaluation (R103). -/
def State.evaluate (s : State) (e : Eng) (q : Nat) (inp : EngIn) (tick : Nat) : State :=
  let (s0, w) := (s.lateDemod e q).coupling e q
  let x := s.xhat e q
  match s0.stage1 e q inp w with
  | none => s0.engFault e q 1 2 0
  | some a =>
    match s0.stagePar e q 2 with
    | some ad => s0.engFault e q 2 1 ad
    | none =>
    match s0.stage2 e q a x with
    | none => s0.engFault e q 2 2 0
    | some b =>
      match s0.stagePar e q 3 with
      | some ad => s0.engFault e q 3 1 ad
      | none =>
      match s0.stage3 e q b x with
      | none => s0.engFault e q 3 2 0
      | some c =>
        match s0.stagePar e q 4 with
        | some ad => s0.engFault e q 4 1 ad
        | none =>
          let (d, sat) := s0.stage4 e q c
          let s1 := s0.deliver e q d sat
          match s1.stagePar e q 5 with
          | some ad => s1.engFault e q 5 1 ad
          | none =>
          match s1.stage5 e q d x sat with
          | none => s1.engFault e q 5 2 0
          | some v => (s1.storeX e q v).trcEval e q tick

/-! ## Tick instants -/

/-- The bank swap (R119, R120). -/
def State.doSwap (s : State) (e : Eng) : State :=
  (((s.wr (engActive e) (1 - s.rd (engActive e))).wr (engSwapPend e) 0).engIrq e 2 28).trcEvent e 8

/-- A tick instant begins: a qualifying swap, then its due slots in ascending order (R104, R119). -/
def State.beginInst (s : State) (e : Eng) (i : TickInst) : State :=
  let low := (List.range 4).find? (fun q => s.slotOn e q)
  let s1 := if i.swap && s.on (engSwapPend e) && (low.elim false (fun q => s.slotDue e i q)) then s.doSwap e else s
  let due := (List.range 4).filter (fun q => s1.slotOn e q && !i.barred.contains q && s1.slotDue e i q)
  (s1.updEng e (fun x => { x with now := i, due := due, used := 0 })).wb (engBusy e) (!due.isEmpty)

/-- The tick instant ends: ENG_BUDGET, and the next waiting instant begins. -/
def State.endInst (s : State) (e : Eng) : State :=
  let u := (s.eng e).used
  let s1 := ((s.wr (engFld e 2 0x34 0 16) u).wr (engFld e 2 0x34 16 16) (max u (s.rd (engFld e 2 0x34 16 16)))).wr (engBusy e) 0
  match (s.eng e).waiting with
  | [] => s1
  | i :: r => (s1.updEng e (fun x => { x with waiting := r })).beginInst e i

/-- 48-bit saturation (R582). -/
def sat48 (x : Int) : Int := clampI x (-(2 ^ 47)) (2 ^ 47 - 1)

/-- One profile step (R113). -/
def profStep (f : Profile) (vmax amax jmax tol : Int) : Profile × Bool :=
  let d := f.target - f.p
  let vref := sgn d * min vmax (isqrt (2 * amax.toNat * d.natAbs))
  let aref := clampI (vref - f.v) (-amax) amax
  let a := sat48 (f.a + clampI (aref - f.a) (-jmax) jmax)
  let v := sat48 (clampI (f.v + a) (-vmax) vmax)
  let p := sat48 (f.p + v)
  if ((f.target - p).natAbs : Int) ≤ tol ∧ (v.natAbs : Int) ≤ jmax ∧ (a.natAbs : Int) ≤ jmax then
    ({ f with p := f.target, v := 0, a := 0 }, true)
  else ({ f with p := p, v := v, a := a }, false)

/-- The registers that show the profile. -/
def State.profShow (s : State) (e : Eng) : State :=
  let f := (s.eng e).prof
  ((s.wr (engFld e 3 0x28 0 32) (ux 32 (f.p / 65536))).wr (engFld e 3 0x2C 0 32) (ux 32 f.v)).wr (engFld e 3 0x30 0 32) (ux 32 f.a)

/-- BUSY falls in SEEK (Table 05-2). -/
def State.busyFell (s : State) (e : Eng) : State :=
  match engTower e with
  | some t => if s.mode t = mSEEK then s.setMode t mSETTLE else s
  | none => s

/-- BUSY rises in SETTLE or FOLLOW (Table 05-2). -/
def State.busyRose (s : State) (e : Eng) : State :=
  match engTower e with
  | some t => if s.mode t = mSETTLE ∨ s.mode t = mFOLLOW then s.setMode t mSEEK else s
  | none => s

/-- The profile generator's step at a tick instant with a tick of its stream (R113). -/
def State.profTick (s : State) (e : Eng) (i : TickInst) : State :=
  if !(e == .spn) && s.on (profBusy e) && (i.num (s.rd (engFld e 3 0x40 16 2))).isSome then
    let lim := fun off => ((s.rd (engFld e 3 off 0 32) : Nat) : Int)
    let (f, done) := profStep (s.eng e).prof (lim 0x34) (lim 0x38) (lim 0x3C) (s.rd (engFld e 3 0x40 0 16) * 65536)
    let s1 := (s.updEng e (fun x => { x with prof := f })).profShow e
    if done then ((((s1.wr (profBusy e) 0).wr (profDone e) 1).engIrq e 3 28).busyFell e) else s1
  else s

/-- A tick of a stream that already waits is dropped and counts (R106). -/
def State.waitInst (s : State) (e : Eng) (i : TickInst) : State :=
  let w := (s.eng e).waiting
  let d0 := i.t0.isSome && w.any (fun j => j.t0.isSome)
  let d1 := i.t1.isSome && w.any (fun j => j.t1.isSome)
  let k := { i with t0 := if d0 then none else i.t0, t1 := if d1 then none else i.t1 }
  let s1 := if d0 || d1 then ((s.bump (engOverrun e) (b2n d0 + b2n d1)).engIrq e 2 27).trcEvent e 5 else s
  if k.t0.isNone && k.t1.isNone then s1 else s1.updEng e (fun x => { x with waiting := x.waiting ++ [k] })

/-- R104, R106, R113, R119: the ticks that arrived form one tick instant. -/
def execEngineTick (e : Eng) (s : State) : Out :=
  let a := (s.eng e).arrived
  if a.t0.isNone && a.t1.isNone then .next s
  else
    let i := { a with swap := s.on (engSwapPend e) }
    let s1 := s.updEng e (fun x => { x with
      arrived := {}
      recvAge0 := if i.t0.isSome then min 256 (x.recvAge0 + 1) else x.recvAge0
      recvAge1 := if i.t1.isSome then min 256 (x.recvAge1 + 1) else x.recvAge1 })
    let s2 := s1.profTick e i
    if ¬ s.rd (engEstate e) = 1 then .next s2
    else if (s.eng e).due.isEmpty then .next (s2.beginInst e i)
    else .next (s2.waitInst e i)

/-- R103, R105: the next due slot of the tick instant evaluates. -/
def execSlotEvaluation (e : Eng) (inp : EngIn) (s : State) : Out :=
  match (s.eng e).due with
  | [] => .next s
  | q :: r =>
    if ¬ s.rd (engEstate e) = 1 then .next s
    else
      let s1 := s.updEng e (fun x => { x with due := r })
      let s2 := if s.slotOn e q then
          (s1.updEng e (fun x => { x with used := x.used + s.evalCycles e q })).evaluate e q inp
            (((s.eng e).now.num (s.streamOf e q)).getD 0)
        else s1
      .next (if r.isEmpty && s2.rd (engEstate e) == 1 then s2.endInst e else s2)

/-! ## Register writes -/

/-- R113: a write of GO. -/
def execProfGo (t : Tower) (s : State) : Out :=
  .next (s.gated (SRV_ENG_PROF_CTL t.idx) (fun s =>
    let e := t.eng
    let s1 := s.updEng e (fun x => { x with prof := { x.prof with target := sx 32 (s.rd (SRV_ENG_PROF_TGT_TARGET t.idx)) * 65536 } })
    let s2 := (s1.wr (profBusy e) 1).wr (profDone e) 0
    if s.on (profBusy e) then s2 else s2.busyRose e))

/-- PROF_P is set and PROF_V and PROF_A clear, while BUSY is 0 (R113). -/
def State.setProfP (s : State) (e : Eng) (p : Int) : State :=
  if s.on (profBusy e) then s
  else (s.updEng e (fun x => { x with prof := { x.prof with p := p * 65536, v := 0, a := 0 } })).profShow e

/-- R113: a write of PROF_P. -/
def execProfPWrite (t : Tower) (val : Word) (s : State) : Out :=
  .next (s.gated (SRV_ENG_PROF_P t.idx) (fun s => s.setProfP t.eng (sx 32 val.toNat)))

/-- A pending swap happens at once while no slot is enabled (R119). -/
def State.idleSwap (s : State) (e : Eng) : State :=
  if s.on (engSwapPend e) ∧ s.rd (engEn e) = 0 then s.doSwap e else s

/-- R119: a write of SWAP. -/
def execEngSwap (e : Eng) (s : State) : Out :=
  .next (s.gated (engPage e.idx 2 + 0x28) (fun s => (s.wr (engSwapPend e) 1).idleSwap e))

/-- R124: a write of FAULT_CLR. -/
def execFaultClr (e : Eng) (s : State) : Out :=
  .next (s.gated (engPage e.idx 2 + 0x28) (fun s =>
    if (s.eng e).held then (s.updEng e (fun x => { x with held := false })).engRefresh e else s))

/-- ENG_CMD.CNT_CLR: OVERRUN, SATCNT and BUDGET clear. -/
def execEngCntClr (e : Eng) (s : State) : Out :=
  .next (s.gated (engPage e.idx 2 + 0x28) (fun s =>
    ((s.wr (engOverrun e) 0).wr (engFld e 2 0x30 0 32) 0).wr (engFld e 2 0x34 0 32) 0))

/-- The checks of R121 for a write of 1 to SLOT_EN bit `q` beside the slots already enabled. -/
def State.canEnable (s : State) (e : Eng) (on : List Nat) (q : Nat) : Bool :=
  let nested := s.on (engCfg e q 28 1)
  let inner := s.rd (engCfg e q 26 2)
  let codes := fun k => ((List.range (s.nOut e k)).map (fun j => s.sel e 0x230 k j % 4)).filter (fun c => c == 1 || c == 2)
  let all := (on ++ [q]).flatMap codes
  1 ≤ s.nState e q && s.nState e q ≤ 12 && s.rd (engCfg e q 24 2) < 2
    && !(nested && (s.on (engCfg e inner 28 1) || inner ≤ q))
    && !(s.xpub e q && on.any (fun k => s.xpub e k))
    && (all.filter (fun c => c == 1)).length ≤ 1 && (all.filter (fun c => c == 2)).length ≤ 1

/-- The slots enabled after a write, and whether a bit was refused. -/
def State.enableSlots (s : State) (e : Eng) (want : Nat) : List Nat × Bool :=
  let keep := (List.range 4).filter (fun q => s.slotOn e q && want / 2 ^ q % 2 == 1)
  let new := (List.range 4).filter (fun q => !s.slotOn e q && want / 2 ^ q % 2 == 1)
  if s.rd (engEstate e) = 2 then (keep, false)
  else new.foldl (fun acc q => if s.canEnable e acc.1 q then (acc.1 ++ [q], acc.2) else (acc.1, true)) (keep, false)

/-- R121, R124: a write of ENG_RUN. -/
def execSlotEnWrite (e : Eng) (val : Word) (s : State) : Out :=
  .next (s.gated (engPage e.idx 2 + 0x24) (fun s =>
    let (on, refused) := s.enableSlots e (fieldOf val 0 4)
    let new := on.filter (fun q => !s.slotOn e q)
    let s1 := ((s.wr (engEn e) ((on.map (fun q => 2 ^ q)).sum)).updEng e (fun x => { x with
      waiting := x.waiting.map (fun i => { i with barred := i.barred ++ new }) })).idleSwap e
    if refused then s1.engIrq e 2 23 else s1))

/-- The register of a slot's configuration: SLOT_CFG, IN_SEL, SP_SEL, OUT_SEL, with the bits it stores. -/
def slotReg (e : Eng) (kind n : Nat) : Nat × Nat :=
  if kind = 0 then (engPage e.idx 2 + 0x200 + 4 * n, if e = .spn then 0x3FF00F33 else 0xFFF00F33)
  else if kind = 1 then (engPage e.idx 2 + 0x210 + 4 * n, 0x9F9F9F9F)
  else if kind = 2 then (engPage e.idx 2 + 0x220 + 4 * n, 0x1F1F1F1F)
  else (engPage e.idx 2 + 0x230 + 4 * n, 0x03030303)

/-- R121: a write of SLOT_CFG (`kind` 0), IN_SEL (1), SP_SEL (2) or OUT_SEL (3) of slot `n`. -/
def execSlotCfgWrite (e : Eng) (kind n : Nat) (val : Word) (s : State) : Out :=
  if 4 ≤ n ∨ 4 ≤ kind then .next s
  else
    .next (s.gated (slotReg e kind n).1 (fun s =>
      if s.slotOn e n then s.engIrq e 2 23
      else s.setReg (slotReg e kind n).1 (val &&& BitVec.ofNat 32 (slotReg e kind n).2)))

/-- A write to a coefficient word is refused (R118). -/
def State.coefRefused (s : State) (e : Eng) (a : Nat) : Bool :=
  if a < 0x1000 then (a / 0x800 == s.rd (engActive e) && !(s.rd (engEn e) == 0)) || s.on (engSwapPend e)
  else s.slotOn e ((a - 0x1000) / 16)

/-- A coefficient word that exists: not reserved and below 0x1040 (Table 04-6). -/
def coefExists (a : Nat) : Bool :=
  if a < 0x1000 then a % 512 ≤ 380 && !(a % 512 == 375) else a < 0x1040 && a % 16 ≤ 12

/-- The bits that a coefficient word stores: exponents take DATA[7:0]. -/
def coefMask (a v : Nat) : Nat :=
  if (a < 0x1000 ∧ 368 ≤ a % 512 ∧ a % 512 ≤ 374) ∨ (0x1000 ≤ a ∧ a % 16 = 12) then v % 256 else v % 65536

/-- The address of the coefficient window moves on after an access while AUTO_INC is 1. -/
def State.coefInc (s : State) (e : Eng) : State :=
  if s.on (engFld e 2 0x300 31 1) then s.wr (engFld e 2 0x300 0 13) (s.rd (engFld e 2 0x300 0 13) + 1) else s

/-- R117, R118: a write of ENG_COEF_DATA. -/
def execCoefWrite (e : Eng) (val : Word) (s : State) : Out :=
  .next (s.gated (engPage e.idx 2 + 0x304) (fun s =>
    let a := s.rd (engFld e 2 0x300 0 13)
    let s1 :=
      if 0x1040 ≤ a then s
      else if s.coefRefused e a then s.engIrq e 2 24
      else if coefExists a then
        s.updEng e (fun x => { x with coef := sparseSet x.coef a (coefMask a val.toNat), badPar := removeN a x.badPar })
      else s
    s1.coefInc e))

/-- R126: a write of ARM starts PRE. -/
def execTraceArm (e : Eng) (s : State) : Out :=
  .next (s.gated (engPage e.idx 3 + 0x60) (fun s =>
    ((((s.wr (trcState e) 1).wr (trcArmBit e) 1).wr (engFld e 3 0x68 29 1) 0).wr (engFld e 3 0x68 0 13) 0).updEng e (fun x =>
      { x with trcCount := 0, trcDecim := 0, trcForce := false, trcEvents := [] })))

/-- R126: a write of FORCE triggers at the next sample. -/
def execTraceForce (e : Eng) (s : State) : Out :=
  .next (s.gated (engPage e.idx 3 + 0x60) (fun s =>
    if s.rd (trcState e) = 1 then s.updEng e (fun x => { x with trcForce := true }) else s))

end Sys2Proof.Machine
end

