-- ==== Sys2Proof/Machine/Srv.lean ====
section
/-! DEFINITION. Actuators and servo: the demodulator, the actuator modes and commands, the generator and the shock hold. -/

namespace Sys2Proof.Machine

def State.srvIrq (s : State) (t : Tower) (bit : Nat) : State := s.irq bSRV t.idx 0 bit

/-! ## Position (R130 to R134). Positions are in 2^-32 track. -/

/-- One track. -/
def trk : Int := 2 ^ 32

/-- x_raw of R130 for burst amplitudes of a positive sum. -/
def xRaw (n1 n2 : Int) : Int :=
  let s := n1 * trk / ((n1.natAbs + n2.natAbs : Nat) : Int)
  if 0 ≤ n2 then s / 4 else (if 0 < n1 then 1 else -1) * (trk / 2 - (s.natAbs : Int) / 4)

/-- The correction, linearly interpolated between the entries at -0.5 + n/32 (Q 15). -/
def corrOf (lin : List Int) (x : Int) : Int :=
  let y := (x + trk / 2) * 32
  let n := (y / trk).toNat
  let a := nth lin n 0 * 2 ^ 17
  let b := nth lin (n + 1) 0 * 2 ^ 17
  a + (b - a) * (y % trk) / trk

/-- The prediction P̂, once two position-valid wedges have been seen (R131). -/
def SrvState.pred (v : SrvState) : Option Int := if 2 ≤ v.predN then some (2 * v.p1 - v.p2) else none

/-- The candidate nearest the prediction, with j = 0 on a tie (R131). -/
def candidate (tx : Int) (p : Int) : Int :=
  let d := fun (j : Int) => (tx + j * trk - p).natAbs
  if d 0 ≤ d (-1) ∧ d 0 ≤ d 1 then tx else if d (-1) < d 1 then tx - trk else tx + trk

/-- SRV_POS: round(256 x position). -/
def posReg (p : Int) : Nat := ux 32 ((p * 256 + trk / 2) / trk)

/-- The position error in Q 15, limited (R134). -/
def State.pesOf (s : State) (t : Tower) (p : Int) : Int :=
  clampI ((p - s.rd (SRV_TRACK_REF t.idx) * 2 ^ 24 - s.rdI (SRV_OFFSET_OFFSET t.idx) * 2 ^ 17 + 2 ^ 16) / 2 ^ 17) (-32768) 32767

/-- A position is delivered with its flags (R133, R134). -/
def State.deliverPos (s : State) (t : Tower) (p : Int) (valid : Bool) : State :=
  let s1 := (((s.wr (SRV_POS_POS t.idx) (posReg p)).wrI (SRV_PES_PES t.idx) (s.pesOf t p)).wb (SRV_PES_VALID t.idx) valid).wb
    (SRV_PES_PRED t.idx) (!valid)
  s1.updSrv t (fun v => { v with
    p2 := v.p1, p1 := p, delivered := true, predN := if valid then min 2 (v.predN + 1) else v.predN,
    demodPending := false, demodSwitch := false, lateWin := false })

/-- What an invalid or switch wedge delivers in place of a position (R131, R133). -/
def SrvState.fallback (v : SrvState) : Int := v.pred.getD (if v.delivered then v.p1 else 0)

/-! ## What a result decides -/

/-- The limits of R144 hold for a result. -/
def State.otwOk (s : State) (t : Tower) (pes prev : Int) : Bool :=
  let lim := s.rd (SRV_OTW_LIM t.idx)
  decide (pes.natAbs ≤ lim) && (!s.on (SRV_CFG_PRED_EN t.idx) || decide ((2 * pes - prev).natAbs ≤ lim))

/-- OTWI after a demodulator result (R144, R145). -/
def State.otwStep (s : State) (t : Tower) (valid : Bool) (pes prev : Int) : State :=
  if s.mode t = mFOLLOW ∧ s.on (SRV_MODE_HEAD_PEND t.idx) = false ∧ s.on (SRV_MODE_SHOCK_HOLD t.idx) = false ∧ valid ∧
      s.otwOk t pes prev then
    let n := (s.srv.get t).otwRun + 1
    let s1 := s.updSrv t (fun v => { v with otwRun := n })
    if atLeast1 (s.rd (SRV_OTW_CLR_N t.idx)) ≤ n then s1.wr (SRV_MODE_OTWI t.idx) 0 else s1
  else s.setOtwi t

/-- The end of LOADING (Table 05-2). -/
def State.loadDone (s : State) (t : Tower) : State :=
  let ref := (s.rd (SRV_POS_POS t.idx) + 128) / 256 * 256
  let s1 := (s.wr (SRV_TRACK_REF t.idx) ref).setProfP t.eng (sx 32 ref)
  (s1.updSrv t (fun v => { v with gen := none, pinHeld := true })).setMode t mSETTLE

/-- The runs of consecutive valid wedges that end LOADING and SETTLE (Table 05-2). -/
def State.modeStep (s : State) (t : Tower) (valid : Bool) (pes : Int) : State :=
  if s.mode t = mLOADING then
    let n := if valid then (s.srv.get t).loadRun + 1 else 0
    let s1 := s.updSrv t (fun v => { v with loadRun := n })
    if atLeast1 (s.rd (SRV_DEMOD_LOAD_N t.idx)) ≤ n then s1.loadDone t else s1
  else if s.mode t = mSETTLE then
    let n := if valid && decide (pes.natAbs ≤ s.rd (SRV_SETTLE_TOL t.idx)) && !s.on (profBusy t.eng) then (s.srv.get t).settleRun + 1 else 0
    let s1 := s.updSrv t (fun v => { v with settleRun := n })
    if atLeast1 (s.rd (SRV_SETTLE_N t.idx)) ≤ n then (s1.setMode t mFOLLOW).srvIrq t 25 else s1
  else s

/-- Consecutive invalid wedges may lose the servo (R133). -/
def State.missStep (s : State) (t : Tower) (valid : Bool) : State :=
  if valid then s.updSrv t (fun v => { v with missRun := 0 })
  else
    let s1 := s.bump (SRV_BAD_COUNT t.idx) 1
    if isLoaded (s.mode t) then
      let n := (s.srv.get t).missRun + 1
      let s2 := s1.updSrv t (fun v => { v with missRun := n })
      if atLeast1 (s.rd (SRV_DEMOD_MAXMISS t.idx)) ≤ n then (s2.srvIrq t 23).emergency t 5 else s2
    else s1

/-- The number whose Gray code is `g`, of 24 bits: each bit is the exclusive or of the code's bits from it upwards. -/
def grayDecode (g : Nat) : Nat :=
  ((List.range 24).map (fun i => onesIn 24 (g % 2 ^ 24 / 2 ^ i) % 2 * 2 ^ i)).sum

/-- The Gray-coded track number, in the first 24 of 32 cells (Table 05-1). -/
def trackNumber (c : BitVec 32) : Nat := grayDecode (bits c.toNat 8 24)

/-- The ones among bits `k`, `k + 2`, ... of the 24-bit code. -/
def onesEvery2 (g k : Nat) : Nat := ((List.range 12).filter (fun i => g / 2 ^ (2 * i + k) % 2 == 1)).length

/-- The parity bits over the even and the odd bits of the code, in the two cells after it; even parity (DEDUCED, log entry 50). -/
def trackParity (c : BitVec 32) : Bool :=
  (onesEvery2 (bits c.toNat 8 24) 0 + bits c.toNat 7 1) % 2 == 0 && (onesEvery2 (bits c.toNat 8 24) 1 + bits c.toNat 6 1) % 2 == 0

/-- R128, R130 to R135, R137, R144, R145: the demodulator result of a wedge, from the reader that SRDR names. -/
def execDemodResult (t : Tower) (ra rb : BurstIn) (s : State) : Out :=
  let f := s.srdrPick t ra rb
  let n1 := f.n1
  let n2 := f.n2
  let v := s.srv.get t
  if v.demodPending = false then .next s
  else if v.demodSwitch then
    .next (((s.deliverPos t v.fallback false).bump (SRV_BAD_COUNT t.idx) 1).setOtwi t)
  else
    let sum := n1.natAbs + n2.natAbs
    let s0 := if sum = 0 then s.drawn else s
    -- R130 states no fraction for bursts of sum 0: a free value in [-0.5, 0.5)
    let xr := if sum = 0 then ((s.free % 2 ^ 32 : Nat) : Int) - 2 ^ 31 else xRaw n1 n2
    let tx := (trackNumber f.track : Int) * trk + xr + corrOf v.lin xr
    let pos := if s.mode t = mSEEK ∨ v.sinceSwitch ≤ 2 then tx else (v.pred.elim tx (candidate tx))
    let valid := (s.atb.tw.get t).lastGood && trackParity f.track && decide (s.rd (SRV_DEMOD_AMIN t.idx) ≤ sum)
      && (s.mode t == mSEEK || v.pred.elim true (fun p => decide (((pos - p).natAbs : Int) ≤ trk)))
    let s1 := s0.deliverPos t (if valid then pos else v.fallback) valid
    let pes := s1.rdI (SRV_PES_PES t.idx)
    let s2 := s1.missStep t valid
    let s3 := if s2.mode t = mFOLLOW then s2.otwStep t valid pes v.pesPrev else (s2.modeStep t valid pes)
    .next (s3.updSrv t (fun v => { v with pesPrev := pes }))

/-! ## Commands (R138, R139, R152) -/

/-- The load conditions of R138. -/
def State.loadOk (s : State) (t : Tower) : Bool :=
  s.isOn bSRV t.idx && s.rd (engEstate t.eng) == 1 && !(s.rd (engEn t.eng) == 0) && s.on SPN_MODE_AT_SPEED
    && s.on (SRV_BEMF_VSRC_EN t.idx) && !s.emrgHold && !s.emrgActive t

/-- LOADING begins: generator, windows held open for the first SAM, no prediction (R131, R577). -/
def State.toLoading (s : State) (t : Tower) : State :=
  (((s.genStart t .load).updSrv t (fun v => { v with predN := 0, loadNow := true })).updAtbT t
    (fun a => { a with winOpen := s.isOn bATB 0, winHeld := true })).setMode t mLOADING

def State.toUnloading (s : State) (t : Tower) : State := (s.genStart t .unload).setMode t mUNLOADING

/-- A write of SRV_CMD with its bits [2] RETRACT, [1] UNLOAD, [0] LOAD (Table 05-2, R139, R152). -/
def State.srvCmd (s : State) (t : Tower) (b : Nat) : State :=
  let m := s.mode t
  if s.isOn bSRV t.idx = false then (if b % 8 = 0 then s else s.srvIrq t 21)
  else if b / 4 % 2 = 1 then s.emergency t 1
  else if b % 4 = 3 then s.srvIrq t 21
  else if b % 2 = 1 then
    -- an emergency source of the same cycle: RETRACT, LOAD refused (Table 05-5)
    (match (s.srv.get t).emrgNow with
      | some c => if m = mUNLOADED then (s.toRetract t c).srvIrq t 21 else s.srvIrq t 21
      | none => if m = mUNLOADED ∧ s.loadOk t then s.toLoading t else s.srvIrq t 21)
  else if b / 2 % 2 = 1 then (if m = mLOADING ∨ isLoaded m then s.toUnloading t else s.srvIrq t 21)
  else s

/-- R138: a write of SRV_CMD with LOAD set; `others` holds the other bits of the same write (R152). -/
def execLoad (t : Tower) (others : Word) (s : State) : Out :=
  .next (s.gated (SRV_CMD t.idx) (fun s => s.srvCmd t (fieldOf (others ||| 1) 0 3)))

/-- R138: a write of SRV_CMD with UNLOAD set. -/
def execUnload (t : Tower) (others : Word) (s : State) : Out :=
  .next (s.gated (SRV_CMD t.idx) (fun s => s.srvCmd t (fieldOf (others ||| 2) 0 3)))

/-- R138: a write of SRV_CMD with RETRACT set. -/
def execRetract (t : Tower) (others : Word) (s : State) : Out :=
  .next (s.gated (SRV_CMD t.idx) (fun s => s.srvCmd t (fieldOf (others ||| 4) 0 3)))

/-- R136, R144: SRV_HEAD is taken, or refused for a head that is not fitted. -/
def execSrvHeadWrite (t : Tower) (val : Word) (s : State) : Out :=
  .next (s.gated (SRV_HEAD t.idx) (fun s =>
    if s.rd (SRV_CFG_NHEADS t.idx) ≤ fieldOf val 0 4 then s.srvIrq t 21
    else (((s.wr (SRV_HEAD_HEAD t.idx) (fieldOf val 0 4)).wr (SRV_MODE_HEAD_PEND t.idx) 1).updSrv t (fun v =>
      { v with headNow := true })).setOtwi t))

/-- FOLLOW becomes SETTLE at a write of the reference or the offset (Table 05-2). -/
def State.resettle (s : State) (t : Tower) : State := if s.mode t = mFOLLOW then s.setMode t mSETTLE else s

/-- R142, Table 05-2: a write of SRV_TRACK.REF. -/
def execSrvTrackWrite (t : Tower) (val : Word) (s : State) : Out :=
  .next (s.gated (SRV_TRACK t.idx) (fun s => (s.wr (SRV_TRACK_REF t.idx) val.toNat).resettle t))

/-- R134, Table 05-2: a write of SRV_OFFSET. -/
def execSrvOffsetWrite (t : Tower) (val : Word) (s : State) : Out :=
  .next (s.gated (SRV_OFFSET t.idx) (fun s => (s.wr (SRV_OFFSET_OFFSET t.idx) (fieldOf val 0 16)).resettle t))

/-! ## Generator (R141) -/

/-- VTGT of the running generator's set. -/
def State.genVtgt (s : State) (t : Tower) (k : GenKind) : Nat :=
  match k with
  | .load => s.rd (SRV_GEN_LOAD_VTGT t.idx)
  | .unload => s.rd (SRV_GEN_UNLOAD_VTGT t.idx)
  | .retract => s.rd (SRV_GEN_RETRACT_VTGT t.idx)

def genDir (k : GenKind) : Int := if k = .load then -1 else 1

/-- cmd after one microsecond of the MOVE phase. -/
def State.genCmd (s : State) (t : Tower) (g : GenRun) (vaux vcmI : Int) : Int :=
  let drive : Int := s.genDrive t g.kind
  if s.on (SRV_BEMF_VSRC_EN t.idx) = false then drive
  else
    let bemf := genDir g.kind * (vaux * s.rd (SRV_BEMF_VGAIN t.idx) - vcmI * s.rd (SRV_BEMF_RGAIN t.idx))
    let vt : Int := s.genVtgt t g.kind
    let hy : Int := s.rd (SRV_GEN_HOLD_VHYS t.idx)
    if bemf < (vt - hy) * 4096 then drive else if (vt + hy) * 4096 < bemf then -(drive / 2) else g.cmd

/-- R141: one microsecond of the running generator, with the VCM terminal voltage and current as sampled. -/
def execGeneratorTick (t : Tower) (vaux vcmI : Int) (s : State) : Out :=
  match (s.srv.get t).gen with
  | none => .next s
  | some g =>
    if g.hold then
      .next (s.updSrv t (fun v => { v with vcmPin := clampI (genDir g.kind * s.rd (SRV_GEN_HOLD_I_HOLD t.idx)) (-32768) 32767 }))
    else
      let c := s.genCmd t g vaux vcmI
      .next (s.updSrv t (fun v => { v with gen := some { g with cmd := c }, vcmPin := clampI (genDir g.kind * c) (-32768) 32767 }))

/-- R141: T_MOVE of an unload or retract elapses. -/
def execGenMoveEnd (t : Tower) (s : State) : Out :=
  match (s.srv.get t).gen with
  | some g => .next (if g.kind = .load then s else s.updSrv t (fun v => { v with gen := some { g with hold := true } }))
  | none => .next s

/-- The SRV shut-down reaches its end; the engine's ESTATE follows. -/
def State.srvShutDone (s : State) (t : Tower) : State := (s.shutDone bSRV t.idx).engRefresh t.eng

/-- R138, R151: T_HOLD elapses; ports 0, UNLOADED, and a shut-down that waited for it completes. -/
def execGenHoldEnd (t : Tower) (s : State) : Out :=
  match (s.srv.get t).gen with
  | some g =>
    if g.hold then
      .next ((((s.updSrv t (fun v => { v with gen := none })).setMode t mUNLOADED).srvIrq t 27).srvShutDone t)
    else .next s
  | none => .next s

/-- R138: T_MOVE of the load elapses in LOADING. -/
def execLoadTimeout (t : Tower) (s : State) : Out :=
  .next (if s.mode t = mLOADING then s.toRetract t 6 else s)

/-! ## Shock (R147, R148) -/

/-- SHOCK_HOLD of a Tower sets, or its count starts again. -/
def State.shockSet (s : State) (t : Tower) : State :=
  let s1 := s.updSrv t (fun v => { v with shockLeft := atLeast1 (s.rd (SRV_SHOCK_HOLD t.idx)) })
  if s.on (SRV_MODE_SHOCK_HOLD t.idx) then s1
  else ((s1.wr (SRV_MODE_SHOCK_HOLD t.idx) 1).srvIrq t 22).setOtwi t

/-- A conversion of both shock inputs is compared by one Tower. -/
def State.shockConv (s : State) (t : Tower) (s0 s1 : Int) : State :=
  let r := (s.wrI (SRV_SHOCK_VAL_SHOCK_0 t.idx) s0).wrI (SRV_SHOCK_VAL_SHOCK_1 t.idx) s1
  if s.rd (SRV_SHOCK_LIM t.idx) < max s0.natAbs s1.natAbs then r.shockSet t else r

/-- R147: a conversion of the two shock inputs. -/
def execShockConversion (s0 s1 : Int) (s : State) : Out := .next ((s.shockConv .A s0 s1).shockConv .B s0 s1)

/-! ## Start and shut-down (R151) -/

def State.srvStart (s : State) (t : Tower) : State :=
  s.updSrv t (fun v => { v with predN := 0, demodPending := false, demodSwitch := false })

def State.srvStop (s : State) (t : Tower) : State :=
  let m := s.mode t
  if isLoaded m then s.toUnloading t else if m = mLOADING then s.toRetract t 8 else s

/-- The SRV shut-down can complete (R151). -/
def State.srvParked (s : State) (t : Tower) : Bool := s.mode t == mUNLOADED || s.mode t == mUNKNOWN

end Sys2Proof.Machine
end

