-- ==== Sys2Proof/Machine/Chn.lean ====
section
/-! DEFINITION. Read channel: detection units, sync candidates, decodes, replay requests, pins, coefficients and result records. -/

namespace Sys2Proof.Machine

def State.chnIrq (s : State) (t : Tower) (bit : Nat) : State := s.irq bCHN t.idx 0 bit

/-! ## Units -/

def unitNo : Unit3 → Nat
  | .normal => 0
  | .verify => 1
  | .replay => 2

def chnBusy (i : Nat) : Unit3 → Fld
  | .normal => CHN_STAT_BUSY_NORMAL i
  | .verify => CHN_STAT_BUSY_VERIFY i
  | .replay => CHN_STAT_BUSY_REPLAY i

/-- The decode in progress on a unit. -/
def State.dec (s : State) (t : Tower) (u : Unit3) : Option Decode :=
  match u with
  | .normal => (s.chn.get t).normal
  | .verify => (s.chn.get t).verify
  | .replay => (s.chn.get t).replay

/-- The decode of a unit replaced, with its BUSY bit. -/
def State.setDec (s : State) (t : Tower) (u : Unit3) (d : Option Decode) : State :=
  (s.updChn t (fun c => match u with
    | .normal => { c with normal := d }
    | .verify => { c with verify := d }
    | .replay => { c with replay := d })).wb (chnBusy t.idx u) d.isSome

def State.slot (s : State) (t : Tower) (k : Nat) : RbSlot := nth (s.chn.get t).slots k {}

def State.updSlot (s : State) (t : Tower) (k : Nat) (f : RbSlot → RbSlot) : State :=
  s.updChn t (fun c => { c with slots := upd c.slots k (f (nth c.slots k {})) })

/-- GMAX of CHN_ITER, 0 acting as 1 and above 8 as 8, under the LDPC throttle (Table 18-9). -/
def State.gmaxOf (s : State) (t : Tower) (u : Unit3) : Nat :=
  let g := min 8 (atLeast1 (match u with
    | .normal => s.rd (CHN_ITER_NORMAL_GMAX t.idx)
    | .verify => s.rd (CHN_ITER_VERIFY_GMAX t.idx)
    | .replay => s.rd (CHN_ITER_REPLAY_GMAX t.idx)))
  if s.rd BEL_STATUS_THROT / 2 % 2 = 1 then min g (atLeast1 (s.rd BEL_THROT_GMAX)) else g

/-- LMAX of CHN_ITER, 0 acting as 1, at most 20 for a live unit and 30 for REPLAY, under the LDPC throttle. -/
def State.lmaxOf (s : State) (t : Tower) (u : Unit3) : Nat :=
  let l := match u with
    | .normal => min 20 (atLeast1 (s.rd (CHN_ITER_NORMAL_LMAX t.idx)))
    | .verify => min 20 (atLeast1 (s.rd (CHN_ITER_VERIFY_LMAX t.idx)))
    | .replay => min 30 (atLeast1 (s.rd (CHN_ITER_REPLAY_LMAX t.idx)))
  if s.rd BEL_STATUS_THROT / 2 % 2 = 1 then min l (atLeast1 (s.rd BEL_THROT_LMAX)) else l

/-! ## Sync candidates (R209, R210) -/

/-- Insertion into an ordered list. -/
def insertBy {α : Type} (le : α → α → Bool) (x : α) : List α → List α
  | [] => [x]
  | y :: r => if le x y then x :: y :: r else y :: insertBy le x r

/-- A stable insertion sort. -/
def sortBy {α : Type} (le : α → α → Bool) : List α → List α
  | [] => []
  | x :: r => insertBy le x (sortBy le r)

/-- The search window: 0 acts as 32, above 128 as 128. -/
def State.syncW (s : State) (t : Tower) : Nat :=
  let w := s.rd (CHN_SYNC_W t.idx)
  if w = 0 then 32 else min w 128

/-- CMARGIN; above 64 it acts as 64. -/
def State.cmargin (s : State) (t : Tower) : Nat := min 64 (s.rd (CHN_MARGIN_CMARGIN t.idx))

def State.syncThr (s : State) (t : Tower) : Nat := min 32 (s.rd (CHN_SYNC_THR t.idx))

/-- THR_RELAX; below THR it acts as THR. -/
def State.syncRelax (s : State) (t : Tower) : Nat := max (s.syncThr t) (s.rd (CHN_SYNC_THR_RELAX t.idx))

/-- Lower HD first, then smaller distance from E, then smaller position. -/
def candLe (a b : CandIn) : Bool :=
  a.hd < b.hd || (a.hd == b.hd && (a.off.natAbs < b.off.natAbs || (a.off.natAbs == b.off.natAbs && decide (a.off ≤ b.off))))

/-- Candidates in SYNW order, ties to the lower CAND. -/
def synLe (a b : Cand) : Bool := a.synw < b.synw || (a.synw == b.synw && decide (a.idx ≤ b.idx))

/-- The three best positions of a search, numbered. -/
def State.findCands (s : State) (t : Tower) (thr : Nat) (skip : List Int) (l : List CandIn) : List Cand :=
  let ok := l.filter (fun c => decide (c.hd ≤ thr) && decide (c.off.natAbs ≤ s.syncW t) && !skip.contains c.off)
  ((sortBy candLe ok).take 3).zipIdx.map (fun e => { idx := e.2, off := e.1.off, hd := e.1.hd, synw := e.1.synw })

/-- The forced search of mode 4: the position of lowest SYNW in the window, as CAND 3. -/
def State.forcedCand (s : State) (t : Tower) (l : List CandIn) : Option Cand :=
  ((sortBy synLe ((sortBy candLe (l.filter (fun c => decide (c.off.natAbs ≤ s.syncW t)))).zipIdx.map
    (fun e => { idx := e.2, off := e.1.off, hd := e.1.hd, synw := e.1.synw }))).head?).map (fun c => { c with idx := 3 })

/-! ## Pins (R197) -/

def State.pinCount (s : State) (t : Tower) : Nat := ((List.range 51).filter (fun k => s.pinned t k)).length

/-- CHN_RB_PIN_MAX: 0 acts as 1, above 47 as 47. -/
def State.pinMax (s : State) (t : Tower) : Nat := min 47 (atLeast1 (s.rd (CHN_RB_PIN_MAX_MAX t.idx)))

/-- A pin of the slot is possible. -/
def State.canPin (s : State) (t : Tower) (k : Nat) : Bool := s.pinned t k || decide (s.pinCount t < s.pinMax t)

/-- A slot's pin and PIN_COUNT. -/
def State.setPin (s : State) (t : Tower) (k : Nat) (v : Bool) : State :=
  let s1 := s.wb (pinFld t.idx k) v
  s1.wr (CHN_RB_STAT_PIN_COUNT t.idx) (s1.pinCount t)

/-- A write of CHN_RB_PIN: performed for the slot's present generation, or refused (R197). -/
def State.pinWrite (s : State) (t : Tower) (op : Bool) (val : Word) : State :=
  let k := fieldOf val 16 6
  if k < 51 ∧ (s.slot t k).gen = fieldOf val 8 8 ∧ (op = false ∨ s.canPin t k) then
    (s.setPin t k op).wr (CHN_RB_STAT_PIN_OK t.idx) 1
  else (s.wr (CHN_RB_STAT_PIN_OK t.idx) 0).chnIrq t 22

/-! ## Automatic replay requests (R215) -/

/-- The words of an automatic request. -/
def State.autoWords (s : State) (t : Tower) (k mode : Nat) : List Word :=
  let sl := s.slot t k
  [ BitVec.ofNat 32 (mode * 2 ^ 24 + sl.cap.tag % 256 * 2 ^ 16 + sl.gen * 2 ^ 8 + k),
    BitVec.ofNat 32 (2 ^ 16 + s.lmaxOf t .replay * 2 ^ 8 + s.gmaxOf t .replay), 0, 0, BitVec.ofNat 32 sl.cap.dest ]

def State.setDepth (s : State) (t : Tower) : State := s.wr (CHN_RP_STAT_DEPTH t.idx) (s.chn.get t).queue.length

/-- The next request of a chain is posted; the chain ends when AUTO_L2 is 0 for its step or the queue is full. -/
def State.postAuto (s : State) (t : Tower) (k : Nat) (modes : List Nat) : State :=
  match modes with
  | [] => s
  | m :: rest =>
    if ¬ m = 0 ∧ s.on (CHN_CFG_AUTO_L2 t.idx) = false then s
    else if 16 ≤ (s.chn.get t).queue.length then s.chnIrq t 23
    else (s.updChn t (fun c => { c with queue := c.queue ++ [{ words := s.autoWords t k m, auto := true, next := rest }] })).setDepth t

/-- The modes that follow a NORMAL outcome. -/
def autoModes (outcome : Nat) : List Nat :=
  if outcome = 1 ∨ outcome = 2 then [0, 2, 3] else if outcome = 4 then [2, 3] else if outcome = 3 then [3] else []

/-! ## The end of a decode -/

/-- DTIME: 10 ns units since the last codeword sample, by the fabric cycles. -/
def State.dtime (s : State) (t : Tower) (k : Nat) : Nat := (s.fwk.cycle - (s.slot t k).stamp + 128) / 10

/-- READERS and EQSET of a decode: the capture's for a live unit, the request's for REPLAY. -/
def State.decReaders (s : State) (t : Tower) (u : Unit3) (d : Decode) : Nat :=
  if u = .replay then fieldOf (nth d.req.words 0 0) 28 2 else (s.slot t d.slot).cap.readers
def State.decSet (s : State) (t : Tower) (u : Unit3) (d : Decode) : Nat :=
  if u = .replay then fieldOf (nth d.req.words 0 0) 30 2 else (s.slot t d.slot).cap.eqset

/-- A slot's samples as signed ADC codes. -/
def samples (l : List Byte) : List Int := l.map (fun b => b.toInt)

/-- The equalised bits of the sector in a slot, framed by an offset (R198, R200). -/
def State.slotZ (s : State) (t : Tower) (coef : List (Nat × Nat)) (set readers k : Nat) (off : Int) : List (Option Int) :=
  let sl := s.slot t k
  sectorZ coef set readers sl.cap.pieces (samples sl.sampA) (samples sl.sampB) off

/-- The soft outputs of the front detector, or of REPLAY's search, over the samples of a slot (R203, R209). -/
def State.slotSoft (s : State) (t : Tower) (coef : List (Nat × Nat)) (set readers k : Nat) : List Int :=
  let sl := s.slot t k
  detect coef set s.free ((streamZ coef set readers (samples sl.sampA) (samples sl.sampB)).map (fun z => (z, (0 : Int))))

/-- The positions that a search over a slot measures. -/
def State.slotSearch (s : State) (t : Tower) (coef : List (Nat × Nat)) (set readers k : Nat) (whole : Bool) : List CandIn :=
  let cap := (s.slot t k).cap
  searchAll cap.fgen (s.syncW t) cap.pieces (s.slotSoft t coef set readers k) s.free whole

/-- Untried candidates of a slot in SYNW order. -/
def RbSlot.untried (sl : RbSlot) : List Cand := sortBy synLe (sl.cands.filter (fun c => !sl.tried.contains c.off))

/-- What a request decodes in a slot (Table 07-4): its candidates in order, after the search of a relaxed or forced mode. -/
def State.reqCands (s : State) (t : Tower) (q : RpReq) (coef : List (Nat × Nat)) (k : Nat) : List Cand :=
  let w0 := nth q.words 0 0
  let sl := s.slot t k
  let search := s.slotSearch t coef (fieldOf w0 30 2) (fieldOf w0 28 2) k
  match fieldOf w0 24 3 with
  | 0 => (match sl.last with
    | some c => [c]
    | none => (sortBy synLe sl.cands).take 1)
  | 1 => sl.untried.take 1
  | 2 => sl.untried
  | 3 => sortBy synLe (s.findCands t (s.syncRelax t) sl.tried (search false))
  | _ => (s.forcedCand t (search true)).toList

/-- The slots and generations that a request names: the main slot, then the combined ones. -/
def reqNames (q : RpReq) : List (Nat × Nat) :=
  let w := fun i => nth q.words i 0
  [(fieldOf (w 0) 0 6, fieldOf (w 0) 8 8), (fieldOf (w 2) 0 6, fieldOf (w 2) 8 6), (fieldOf (w 2) 16 6, fieldOf (w 2) 24 6),
   (fieldOf (w 3) 0 6, fieldOf (w 3) 8 6)].take (1 + fieldOf (w 1) 18 2)

/-- The offset of a combined capture (R219): that of its last decoded candidate, or what the request's search finds on it alone. -/
def State.combOff (s : State) (t : Tower) (d : Decode) (k : Nat) : Option Int :=
  match (s.slot t k).last with
  | some c => some c.off
  | none => (s.reqCands t d.req d.coef k).head?.map (·.off)

/-- What the detector takes: the equalised bits of the sector, or the mean over the captures that a request combines (R219). -/
def State.decZ (s : State) (t : Tower) (u : Unit3) (d : Decode) : List (Option Int) :=
  let z := fun (k : Nat) (off : Int) => s.slotZ t d.coef (s.decSet t u d) (s.decReaders t u d) k off
  let own := z d.slot d.cand.off
  let more := ((reqNames d.req).drop 1).filterMap (fun e => (s.combOff t d e.1).map (z e.1))
  if u = .replay ∧ ¬ more = [] then combineZ (own :: more) else own

/-- The record fields of a decode. CORR and MSE are those of its decisions (R221). -/
def State.decInfo (s : State) (t : Tower) (u : Unit3) (d : Decode) (outcome : Nat) : RecInfo :=
  let sl := s.slot t d.slot
  let w0 := nth d.req.words 0 0
  { unit := unitNo u, outcome := outcome, slot := d.slot, auto := d.req.auto,
    tag := if u = .replay then fieldOf w0 16 8 else sl.cap.tag, epoch := sl.epoch,
    readers := s.decReaders t u d, eqset := s.decSet t u d,
    cand := d.cand, ncand := sl.cands.length, relaxed := sl.relaxed, missed := sl.missed,
    g := d.g, l := d.l, unsat := d.unsat, dtime := s.dtime t d.slot,
    corr := flipsOf d.first d.bits,
    mse := if d.bits.isEmpty then 0 else mseOf d.coef (s.decSet t u d) sl.cap.fgen s.free (s.decZ t u d) d.bits }

/-- A live unit ends its sector: the automatic pin and chain of R215 around the record. -/
def State.liveEnd (s : State) (t : Tower) (k : Nat) (r : RecInfo) : State :=
  let s1 := s.updSlot t k (fun x => { x with decoding := false })
  let auto := decide (r.unit = 0) && !(autoModes r.outcome).isEmpty && s.on (CHN_CFG_AUTO_L1 t.idx) && s1.canPin t k
  let s2 := if auto then s1.setPin t k true else s1
  let s3 := s2.liveOutcome t (s2.slot t k).cap r
  if auto then s3.postAuto t k (autoModes r.outcome) else s3

/-- A replay request ends with its record; a chain that did not converge goes on while the block is ON. -/
def State.replayEnd (s : State) (t : Tower) (q : RpReq) (k : Nat) (cap : CapPlan) (r : RecInfo) : State :=
  let s1 := (((s.chnCounts t r).chnRecord t cap r).wr (CHN_RP_STAT_BUSY t.idx) 0).sectorSeen t cap r false (fieldOf (nth q.words 0 0) 24 3)
  if q.auto ∧ ¬ r.outcome = 0 ∧ s.isOn bCHN t.idx then s1.postAuto t k q.next else s1

/-- The request's limits and its candidate start a decode on REPLAY, with the coefficients copied when the request started (R201, R216). -/
def State.replayDec (s : State) (t : Tower) (q : RpReq) (coef : List (Nat × Nat)) (k : Nat) (c : Cand) (rest : List Cand) : State :=
  let w1 := nth q.words 1 0
  (s.updSlot t k (fun x => { x with tried := c.off :: x.tried, last := some c })).setDec t .replay
    (some { slot := k, cand := c, gmax := fieldOf w1 0 4, lmax := fieldOf w1 8 5, coef := coef, rest := rest, req := q })

/-- A live unit that has become free takes the oldest decode that waits for it. -/
def State.liveNext (s : State) (t : Tower) (u : Unit3) : State :=
  if (s.dec t u).isSome then s
  else match (s.chn.get t).waits.find? (fun e => e.1 == u) with
    | none => s
    | some e => (s.updChn t (fun c => { c with waits := c.waits.erase e })).setDec t u (some e.2)

/-- A decode ends without convergence: a replay request goes on to its next candidate, otherwise the sector or request ends. -/
def State.decFail (s : State) (t : Tower) (u : Unit3) (d : Decode) (outcome : Nat) : State :=
  let s1 := s.setDec t u none
  match u, d.rest with
  | .replay, c :: rest => if outcome = 1 then s1.replayDec t d.req d.coef d.slot c rest
      else s1.replayEnd t d.req d.slot (s.slot t d.slot).cap (s.decInfo t u d outcome)
  | .replay, [] => s1.replayEnd t d.req d.slot (s.slot t d.slot).cap (s.decInfo t u d outcome)
  | _, _ => (s1.liveEnd t d.slot (s.decInfo t u d outcome)).liveNext t u

/-! ## Live detection -/

/-- The front-end state that a capture leaves (CHN_AFE_STAT); with AGC_EN 0 the gain is the programmed one. -/
def State.afeGainOf (s : State) (t : Tower) (b : Bool) (a : AfeIn) : Nat := if s.on (afeAgc t b) then a.gain % 256 else s.rd (afeGain t b)

def State.setAfe (s : State) (t : Tower) (b : Bool) (a : AfeIn) : State :=
  ((s.afeSet t b (s.afeGainOf t b a, a.phase)).wr (CHN_AFE_STAT_DCOFS t.idx (b2n b)) a.dcofs).wr (CHN_AFE_STAT_RMS t.idx (b2n b)) a.rms

/-- The samples of a reader: under the digital loop-back what the serialiser sent of the sector (Table 20-8), otherwise what the ADC delivers. -/
def State.loopOr (s : State) (t : Tower) (sl : RbSlot) (samp : List Byte) : List Byte :=
  if (s.chn.get t).loopNow = 1 ∧ sl.cap.verify then
    ((s.chn.get t).sentBits.find? (fun e => e.1 == sl.cap.ordinal)).elim samp (fun e => loopSamples sl.coef s.free sl.cap.pieces (mediaBits e.2))
  else samp

/-- The samples and the gains of a completed capture enter its slot. CHN_AFE_STAT shows the readers' state after it, unless another capture
has begun since. -/
def State.capStore (s : State) (t : Tower) (k : Nat) (sampA sampB : List Byte) (afeA afeB : AfeIn) : State :=
  let s1 := s.updSlot t k (fun x => { x with
    sampA := if usesReader x.cap.readers false then (s.loopOr t x sampA).take 40960 else [],
    sampB := if usesReader x.cap.readers true then (s.loopOr t x sampB).take 40960 else [],
    gainA := s.afeGainOf t false afeA, gainB := s.afeGainOf t true afeB })
  if s.on (CHN_STAT_CAP_NORMAL t.idx) || s.on (CHN_STAT_CAP_VERIFY t.idx) then s1 else (s1.setAfe t false afeA).setAfe t true afeB

/-- A live unit's decode of the best surviving candidate: the front detector's pass is its first detector pass (R207). -/
def State.liveDec (s : State) (t : Tower) (u : Unit3) (k : Nat) (c : Cand) (soft : List Int) : State :=
  let sl := s.slot t k
  let chan := codeFrame sl.cap.fgen sl.cap.pieces soft c.off
  let bits := hardBits s.free chan
  let d : Decode := { slot := k, cand := c, gmax := s.gmaxOf t u, lmax := s.lmaxOf t u, passed := true, coef := sl.coef,
                      chan := chan, post := chan, first := bits, bits := bits }
  let s1 := s.updSlot t k (fun x => { x with tried := [c.off], last := some c, decoding := true })
  (s1.updChn t (fun y => { y with waits := y.waits ++ [(u, d)] })).liveNext t u

/-- The deadline of R212: a unit's decodes of sectors of run `n` end FAIL_DEADLINE when the front detector completes another sector of it. -/
def State.deadline (s : State) (t : Tower) (u : Unit3) (n : Nat) : State :=
  let late := (s.chn.get t).waits.filter (fun e => e.1 == u && (s.slot t e.2.slot).cap.run == n)
  let s1 := late.foldl (fun s e => s.liveEnd t e.2.slot (s.decInfo t u e.2 2))
    (s.updChn t (fun c => { c with waits := c.waits.filter (fun e => !late.contains e) }))
  match s1.dec t u with
  | some d => if (s1.slot t d.slot).cap.run = n then s1.decFail t u d 2 else s1
  | none => s1

/-- R209 to R212: the front detector completes the oldest captured sector of a live unit. `sampA` and `sampB` are the codes that its capture
took from the readers, piece after piece, `afeA` and `afeB` the state of the readers' loops at its end. -/
def execFrontDetectorDone (t : Tower) (verify : Bool) (sampA sampB : List Byte) (afeA afeB : AfeIn) (s : State) : Out :=
  let s0 := s.capSettle t
  match (s0.chn.get t).caps.find? (fun e => e.1.verify == verify && !(s0.slot t e.2).capturing) with
  | none => .next s0
  | some e =>
    let u : Unit3 := if verify then .verify else .normal
    let k := e.2
    let s1 := (s0.capStore t k sampA sampB afeA afeB).updChn t (fun c => { c with caps := c.caps.filter (fun x => !(x.2 == k)) })
    let s2 := s1.deadline t u e.1.run
    let soft := s2.slotSoft t (s2.slot t k).coef e.1.eqset e.1.readers k
    let cs := s2.findCands t (s2.syncThr t) [] (searchAll e.1.fgen (s2.syncW t) e.1.pieces soft s2.free false)
    let good := sortBy synLe (cs.filter (fun c => decide (c.synw ≤ s2.rd (CHN_SYNC_REJ_REJECT t.idx))))
    let s3 := (s2.updSlot t k (fun x => { x with cands := cs, tried := [], last := none, missed := cs.isEmpty, stamp := s.fwk.cycle }))
    let s4 := s3.bump (CHN_CNT_SYNC_REJ t.idx) (cs.length - good.length)
    let fail := fun (o : Nat) => s4.liveEnd t k { (s4.capInfo t e.1 k o) with
      ncand := cs.length, missed := cs.isEmpty, dtime := s4.dtime t k }
    .next (match good with
      | c :: _ => s4.liveDec t u k c soft
      | [] => if cs.isEmpty then fail 3 else fail 4).drawn

/-- The a priori LLRs of a detector pass: the decoder's extrinsic output of the previous global iteration on the codeword's bits, otherwise
0 (R207). -/
def Decode.priors (d : Decode) (fgen : Nat) : List Int :=
  (List.range sectorBits).map (fun n =>
    if d.g = 1 ∨ n < codeStart fgen then 0
    else llrSat (nth d.post (n - codeStart fgen) 0 - nth d.chan (n - codeStart fgen) 0))

/-- The channel input that a detector pass gives the decoder: the extrinsic LLRs, 0 for an erased bit (R206). The decoder starts anew from it
(log entry 51). -/
def Decode.pass (d : Decode) (set fgen fr : Nat) (z : List (Option Int)) : Decode :=
  let l := detect d.coef set fr (List.zip z (d.priors fgen))
  let chan := (List.range codeBits).map (fun n =>
    if (nth z (codeStart fgen + n) none).isSome then nth l (codeStart fgen + n) 0 else 0)
  let bits := hardBits fr chan
  { d with passed := true, chan := chan, post := chan, msgs := [], first := if d.g = 1 then bits else d.first, bits := if d.l = 0 then bits else d.bits }

/-- R207: a detector pass of the back end completes. -/
def execDetectorPassDone (t : Tower) (u : Unit3) (s : State) : Out :=
  .next (match s.dec t u with
    | some d => if d.passed then s
        else (s.setDec t u (some (d.pass (s.decSet t u d) (s.slot t d.slot).cap.fgen s.free (s.decZ t u d)))).drawn
    | none => s)

/-- A local iteration of the decoder, and the test of its decisions against all checks (R206, R207). -/
def Decode.iterate (d : Decode) (fgen fr : Nat) : Decode :=
  let r := localIteration fgen d.post d.msgs
  let bits := hardBits fr r.1
  { d with post := r.1, msgs := r.2, bits := bits, l := d.l + 1, lHere := d.lHere + 1, unsat := unsatOf fgen (fun n => nth bits n false) }

/-- R207: a local iteration completes; with no check left it converges, and the last iteration of the last global iteration ends
FAIL_LIMIT. -/
def execLocalIterationDone (t : Tower) (u : Unit3) (s : State) : Out :=
  match s.dec t u with
  | none => .next s
  | some d =>
    if d.passed = false then .next s
    else
      let d1 := d.iterate (s.slot t d.slot).cap.fgen s.free
      let s1 := s.drawn
      if d1.unsat = 0 then
        .next (((s1.setDec t u none).updChn t (fun c => { c with crcs := c.crcs ++ [(u, d1)] })).liveNext t u)
      else if d1.lHere < d1.lmax then .next (s1.setDec t u (some d1))
      else if d1.g < d1.gmax then .next (s1.setDec t u (some { d1 with g := d1.g + 1, lHere := 0, passed := false }))
      else .next (s1.decFail t u d1 1)

/-! ## Decryption and the CRC check (R155 to R157, R187, R213) -/

/-- The key in XTS slot `n` of a Tower. -/
def State.xtsKey (s : State) (t : Tower) (n : Nat) : Option Nat := ((s.keys.xts.get t).find? (fun e => e.1 == n)).map (·.2)

def byteAt (l : List Byte) (n : Nat) : Nat := (nth l n 0).toNat

/-- The XTS slot that a sector of a type and vault uses (Table 06-4): 256 for METADATA and JOURNAL, 257 for generation 1. -/
def xtsSlot (fgen typ vault : Nat) : Nat := if fgen = 1 then 257 else if typ = 2 ∨ typ = 4 then 256 else vault

/-- The tweak of R157 from the metadata bytes of Table 06-3. -/
def xtsTweak (md : List Byte) : Nat :=
  leNat (md.take 6) * 2 ^ 80 + leNat ((md.drop 6).take 2) * 2 ^ 64 + byteAt md 14 % 16 * 2 ^ 56 + leNat ((md.drop 8).take 5)

/-- The plaintext user bytes of an information block, and whether its CRC-32C checks; none when the XTS slot is empty (R387). -/
def State.openBlock (s : State) (t : Tower) (c : CapPlan) (info : List Byte) : Option (List Byte × Bool) :=
  let md := info.drop 4096
  let typ := if c.fgen = 1 then byteAt md 7 else byteAt md 14 % 16
  let mdLen := if c.fgen = 1 then 8 else 16
  let tweak := if c.fgen = 3 then xtsTweak md else Config.physTweak c.head c.track c.pos
  let user := if typ = 5 then some (info.take 4096)
    else (s.xtsKey t (xtsSlot c.fgen typ (byteAt md 13))).map (fun k => (xtsDec k tweak (info.take 4096)).take 4096)
  user.map (fun p => (p, crcBytes (p ++ md.take mdLen) == leNat ((md.drop mdLen).take 4)))

/-- R213: decryption and the CRC check of the oldest converged sector of a unit. -/
def execCrcCheckDone (t : Tower) (u : Unit3) (s : State) : Out :=
  match (s.chn.get t).crcs.find? (fun e => e.1 == u) with
  | none => .next s
  | some e =>
    let d := e.2
    let sl := s.slot t d.slot
    let s1 := s.updChn t (fun c => { c with crcs := c.crcs.erase e })
    let res := s.openBlock t sl.cap (bytesOf (d.bits.take infoBits))
    let ok := res.elim false (·.2)
    let deliver := ok && (u == .normal || (u == .replay && fieldOf (nth d.req.words 1 0) 16 1 == 1))
    let dest := if u = .replay then (nth d.req.words 4 0).toNat else sl.cap.dest
    let s2 := if deliver then s1.setBytes dest (res.elim [] (·.1)) else s1
    let r := { (s.decInfo t u d (if ok then 0 else 7)) with crcDone := true, crcOk := ok, delivered := deliver }
    if u = .replay then .next (s2.replayEnd t d.req d.slot sl.cap r).drawn
    else
      let s3 := (s2.liveEnd t d.slot r).drawn
      .next (if ok && u == .normal && sl.cap.eqset == 0 && sl.cap.readers == 0 && s.on (CHN_EQ_ADAPT_EN t.idx)
        then s3.updChn t (fun c => { c with
          adapt := some (tapSums d.coef sl.cap.fgen sl.cap.pieces (samples sl.sampA) (samples sl.sampB) d.cand.off d.bits) }) else s3)

/-! ## Replay requests (R216 to R219) -/

/-- A combined slot's generation matches: its field holds the low six bits of the generation. -/
def State.reqBad (s : State) (t : Tower) (q : RpReq) : Bool :=
  let w := fun i => nth q.words i 0
  let k := fieldOf (w 0) 0 6
  let sl := s.slot t k
  let mode := fieldOf (w 0) 24 3
  let same := fun (n : Nat) => let x := s.slot t n
    x.cap.head == sl.cap.head && x.cap.track == sl.cap.track && x.cap.pos == sl.cap.pos && x.cap.fgen == sl.cap.fgen
  (reqNames q).zipIdx.any (fun e => !(decide (e.1.1 < 51) && s.pinned t e.1.1 && (s.slot t e.1.1).replayable &&
      (if e.2 = 0 then (s.slot t e.1.1).gen == e.1.2 else (s.slot t e.1.1).gen % 64 == e.1.2) && same e.1.1))
    || fieldOf (w 0) 28 2 == 3 || decide (5 ≤ mode) || fieldOf (w 1) 8 5 == 0 || decide (30 < fieldOf (w 1) 8 5)
    || fieldOf (w 1) 0 4 == 0 || decide (8 < fieldOf (w 1) 0 4)
    || ((mode == 1 || mode == 2) && sl.untried.isEmpty) || !s.isOn bCHN t.idx

/-- A request ends REFUSED (R217). -/
def State.refuseReq (s : State) (t : Tower) (q : RpReq) : State :=
  let w0 := nth q.words 0 0
  let k := fieldOf w0 0 6
  let cap := if k < 51 ∧ (s.slot t k).gen = fieldOf w0 8 8 then (s.slot t k).cap else {}
  let r : RecInfo := { unit := 2, outcome := 9, slot := if k < 51 then k else 63, auto := q.auto, tag := fieldOf w0 16 8,
                       readers := fieldOf w0 28 2, eqset := fieldOf w0 30 2 }
  s.replayEnd t q k cap r

/-- A write of CHN_RP_PUSH with PUSH set queues the staged request (R218, R223). -/
def State.rpPush (s : State) (t : Tower) : State :=
  let q : RpReq := { words := (List.range 5).map (fun i => s.reg (CHN_RP_REQ t.idx i)) }
  if s.isOn bCHN t.idx = false then s.refuseReq t q
  else if 16 ≤ (s.chn.get t).queue.length then s.chnIrq t 24
  else (s.updChn t (fun c => { c with queue := c.queue ++ [q] })).setDepth t

/-- R218: a write of CHN_RP_PUSH. -/
def execChnRpPush (t : Tower) (val : Word) (s : State) : Out :=
  .next (s.gated (CHN_RP_PUSH t.idx) (fun s => if fieldOf val 0 1 = 1 then s.rpPush t else s))

/-- A request runs: it copies the coefficients, the search of its mode is made, then its first candidate is decoded; without one it ends
SYNC_MISS. -/
def State.runReq (s : State) (t : Tower) (q : RpReq) : State :=
  let w0 := nth q.words 0 0
  let k := fieldOf w0 0 6
  let coef := (s.chn.get t).coef
  let cs := s.reqCands t q coef k
  let s1 := ((s.drawn.bump (CHN_CNT_REPLAY_ATTEMPTS t.idx) 1).wr (CHN_RP_STAT_BUSY t.idx) 1)
  let s2 := if fieldOf w0 24 3 = 3 then s1.updSlot t k (fun x => { x with cands := sortBy (fun a b => decide (a.idx ≤ b.idx)) cs, relaxed := true })
    else s1
  match cs with
  | c :: rest => s2.replayDec t q coef k c rest
  | [] =>
    let d : Decode := { slot := k, req := q, g := 0 }
    s2.replayEnd t q k (s2.slot t k).cap (s2.decInfo t .replay d 3)

/-- R217: REPLAY takes the next queued request. -/
def execReplayStart (t : Tower) (s : State) : Out :=
  let c := s.chn.get t
  if c.replay.isSome || c.crcs.any (fun e => e.1 == .replay) then .next s
  else match c.queue with
    | [] => .next s
    | q :: rest =>
      let s1 := ((s.updChn t (fun c => { c with queue := rest })).setDepth t).wr (CHN_RP_STAT_TAG t.idx) (fieldOf (nth q.words 0 0) 16 8)
      .next (if s1.reqBad t q then s1.refuseReq t q else s1.runReq t q)

/-- R197: a write of CHN_RB_PIN with OP = 1. -/
def execRbPin (t : Tower) (val : Word) (s : State) : Out :=
  .next (s.gated (CHN_RB_PIN t.idx) (fun s => s.pinWrite t true val))

/-- R197: a write of CHN_RB_PIN with OP = 0. -/
def execRbUnpin (t : Tower) (val : Word) (s : State) : Out :=
  .next (s.gated (CHN_RB_PIN t.idx) (fun s => s.pinWrite t false val))

/-! ## Coefficients (R201, R202) -/

/-- Words of a set that Table 07-1 reserves. -/
def coefReserved (a : Nat) : Bool := a % 128 == 46 || a % 128 == 47 || 112 ≤ a % 128

/-- AUTO_INC after an access to CHN_COEF_DATA. -/
def State.chnCoefInc (s : State) (t : Tower) : State :=
  if s.on (CHN_COEF_ADDR_AUTO_INC t.idx) then s.wr (CHN_COEF_ADDR_ADDR t.idx) (s.rd (CHN_COEF_ADDR_ADDR t.idx) + 1) else s

/-- R201, R202: a write of CHN_COEF_DATA. -/
def execChnCoefWrite (t : Tower) (val : Word) (s : State) : Out :=
  .next (s.gated (CHN_COEF_DATA t.idx) (fun s =>
    let a := s.rd (CHN_COEF_ADDR_ADDR t.idx)
    if s.on (CHN_EQ_ADAPT_EN t.idx) && decide (a < 20) then (s.chnIrq t 21).chnCoefInc t
    else if coefReserved a then s.chnCoefInc t
    else (s.updChn t (fun c => { c with coef := sparseSet c.coef a (fieldOf val 0 16) })).chnCoefInc t))

/-- One adapted tap: F - 2^-MU x mean in Q10, from the sum over the codeword's 36,864 bits. A value that Q10 cannot hold is rounded up or
down freely, and one outside 12 bits is free: the manual states neither (log entry 2). -/
def adaptTap (s : State) (mu : Nat) (old : Nat) (sum : Int) : Nat :=
  let den : Nat := 2 ^ mu * codeBits
  let num := sx 12 old * den - sum
  let q := num / den
  let v := if num % den = 0 then q else q + (s.free % 2 : Nat)
  if v < -2048 ∨ 2047 < v then ux 16 (sx 12 (s.free / 2)) else ux 16 v

/-- R202: the tap update of a converged joint NORMAL sector of set 0 reaches the memory. -/
def execEqAdaptUpdate (t : Tower) (s : State) : Out :=
  match (s.chn.get t).adapt with
  | none => .next s
  | some sums =>
    let mu := max 6 (s.rd (CHN_EQ_ADAPT_MU t.idx))
    let s1 := s.updChn t (fun c => { c with adapt := none })
    .next ((List.range 20).foldl (fun s k =>
      (s.updChn t (fun c => { c with
        coef := sparseSet c.coef k (adaptTap s mu (sparseGet c.coef k) (nth sums k 0)) })).drawn) s1)

/-- R214, page CHN 6: a write of CHN_CNT_CLR. -/
def execChnCntClr (t : Tower) (val : Word) (s : State) : Out :=
  .next (s.gated (CHN_CNT_CLR t.idx) (fun s =>
    if fieldOf val 0 1 = 1 then
      [CHN_CNT_SECT t.idx, CHN_CNT_CONV t.idx, CHN_CNT_FAIL t.idx, CHN_CNT_SYNC t.idx, CHN_CNT_CAND t.idx, CHN_CNT_REPLAY t.idx].foldl
        (fun s a => s.setReg a 0) s
    else s))

/-- R199: a reader stream of the sector in capture, the oldest that still captures, exceeds 40,960 samples. -/
def execReaderStreamOverflow (t : Tower) (s : State) : Out :=
  let s0 := s.capSettle t
  .next (match (s0.chn.get t).caps.find? (fun e => (s0.slot t e.2).capturing) with
    | some e => s0.capCut t e
    | none => s0)

/-! ## Start and shut-down (R223, R224) -/

/-- The start latches the loop-back selection (R551); a gate that it sets free no longer, or not yet, is checked at once (R552). -/
def State.chnStart (s : State) (t : Tower) : State :=
  (s.updChn t (fun c => { c with loopNow := s.rd (CHN_TEST_LOOP t.idx) })).regate t

/-- A decode ends ABORTED. -/
def State.decAbort (s : State) (t : Tower) (u : Unit3) : State :=
  match s.dec t u with
  | some d => s.decFail t u { d with rest := [] } 8
  | none => s

/-- A converged sector that waits for its CRC check ends ABORTED. -/
def State.crcAbort (s : State) (t : Tower) (e : Unit3 × Decode) : State :=
  if e.1 = .replay then s.replayEnd t e.2.req e.2.slot (s.slot t e.2.slot).cap (s.decInfo t e.1 e.2 8)
  else s.liveEnd t e.2.slot (s.decInfo t e.1 e.2 8)

/-- R224: captures end INCOMPLETE, decodes and queued requests ABORTED, each with its record. -/
def State.chnStop (s : State) (t : Tower) : State :=
  let s1 := ((s.capSettle t).capCutAll t).winShut t
  let waiting := (s1.chn.get t).caps
  let s2 := waiting.foldl (fun s e => s.liveEnd t e.2 (s.capInfo t e.1 e.2 8)) (s1.updChn t (fun c => { c with caps := [] }))
  let ws := (s2.chn.get t).waits
  let s2 := ws.foldl (fun s e => s.liveEnd t e.2.slot (s.decInfo t e.1 e.2 8)) (s2.updChn t (fun c => { c with waits := [] }))
  let s3 := [Unit3.normal, .verify, .replay].foldl (fun s u => s.decAbort t u) s2
  let cs := (s3.chn.get t).crcs
  let s4 := cs.foldl (fun s e => s.crcAbort t e) (s3.updChn t (fun c => { c with crcs := [] }))
  let qs := (s4.chn.get t).queue
  let s5 := (s4.updChn t (fun c => { c with queue := [] })).setDepth t
  qs.foldl (fun s q =>
    let w0 := nth q.words 0 0
    s.replayEnd t q (fieldOf w0 0 6) (s.slot t (fieldOf w0 0 6)).cap
      { unit := 2, outcome := 8, slot := fieldOf w0 0 6, auto := q.auto, tag := fieldOf w0 16 8,
        readers := fieldOf w0 28 2, eqset := fieldOf w0 30 2 }) s5

end Sys2Proof.Machine
end

