-- ==== Sys2Proof/Machine/Wr.lean ====
section
/-! DEFINITION. Write path and energy assist: sectors of a write run, the preamp link, the Lantern. -/

namespace Sys2Proof.Machine

/-! ## Sectors (R226, R227, R234) -/

/-- The address of sector `r.cur`'s user data and of its metadata (EMITR, Table 10-4). -/
def WriteRun.srcAddr (r : WriteRun) : Nat := r.src + 4096 * r.cur
def WriteRun.metaAddr (r : WriteRun) : Nat := r.meta_ + 16 * r.cur

/-- The metadata of sector `r.cur` (Table 06-3): its format generation is 3 (R186), and in a slip slot FLAGS.SLIPPED is set (R167). -/
def State.sectorMeta (s : State) (r : WriteRun) : List Byte :=
  let md0 := s.bytes r.metaAddr 16
  let md := upd md0 14 (BitVec.ofNat 8 (48 + byteAt md0 14 % 16))
  if 65536 ≤ r.start + r.cur then upd md 15 (BitVec.ofNat 8 (Nat.lor (byteAt md 15) 2)) else md

/-- The CRC parity of the PARITY sector `md` (R172): the code of the group that its metadata names, over the CRC-32C fields of the data slots as
written. Where no group of that band is known the manual states no value, and it is free (log entry 2). -/
def State.crcParity (s : State) (t : Tower) (head : Nat) (md : List Byte) : List Byte :=
  match (s.lay.get t).groups.find? (fun g => g.band == leNat (md.take 6) % 2 ^ 47) with
  | none => leBytes 4 s.free
  | some g =>
    let j := g.heads.findIdx (fun h => h == head) - g.k
    let slot := leNat ((md.drop 8).take 5)
    (List.range 4).map (fun b => BitVec.ofNat 8 ((List.range g.k).foldl (fun acc i =>
      Nat.xor acc (gfMul (gfCoef j i) (((g.crcs.find? (fun e => e.1 == (i, slot))).map (·.2)).getD 0 / 256 ^ b % 256))) 0))

/-- The pad pattern of Table 06-1, in whole bytes. -/
def padBytes (n : Nat) : List Byte := List.replicate n 0xCC

/-- R226: the 37,200 bits of the sector in progress (Table 06-1); none when the XTS slot is empty (R387). -/
def State.encodeSector (s : State) (t : Tower) (r : WriteRun) : Option (List Byte) :=
  let user := s.bytes r.srcAddr 4096
  let md := s.sectorMeta r
  let typ := byteAt md 14 % 16
  let cipher := if typ = 5 then some user else (s.xtsKey t (xtsSlot 3 typ (byteAt md 13))).map (fun k => xtsEnc k (xtsTweak md) user)
  cipher.map (fun c =>
    let par := if typ = 1 then s.crcParity t r.head md else List.replicate 4 0
    let info := c ++ md ++ leBytes 4 (crcBytes (user ++ md)) ++ par ++ List.replicate 8 0
    padBytes 16 ++ (leBytes 8 (syncMark 3)).reverse ++ info ++ ldpcEncode info ++ padBytes 18)

/-- PC_i of TWR_PRECOMP, in 1/64 bit. -/
def precompOf (pc : List Word) (i : Nat) : Int := sx 6 (fieldOf (nth pc (i / 4) 0) (8 * (i % 4)) 6)

/-- The transitions of a bit sequence from bit `n` on (R228): `x2` and `x1` are the two bits before, `last` the time of the transition before. Each
stays at least 1/2 bit after the one before it. -/
def transGo (pc : List Word) : Nat → Bool → Bool → Int → List Bool → List Int
  | _, _, _, _, [] => []
  | n, x2, x1, last, x :: r =>
    if x = x1 then transGo pc (n + 1) x1 x last r
    else
      let i := 4 * b2n x + 2 * b2n (!(x2 == x1)) + b2n (!(r.headD false == x))
      let at_ := max (64 * (n : Int) + precompOf pc i) (last + 32)
      at_ :: transGo pc (n + 1) x1 x at_ r

/-- The transitions of a sector. The bits before it are the pad of the sector before it or an unwritten window, and count as 0. -/
def sectorTrans (pc : List Word) (enc : List Byte) : List Int := transGo pc 0 false false (-64) (mediaBits enc)

/-- Under the digital loop-back the bits of sector `n` of a write run go to the readers (Table 20-8). -/
def State.sentNow (s : State) (t : Tower) (n : Nat) (bits : List Byte) : State :=
  if (s.chn.get t).loopNow = 1 then
    s.updChn t (fun c => { c with sentBits := (n, bits) :: (if n = 0 then [] else c.sentBits) })
  else s

/-- R227: the first bit of a sector is due; a sector that is not encoded, or whose key slot is empty, ends UNDERRUN, and one that
finds the write gate shut ends NOT_STARTED. -/
def execSectorWriteStart (t : Tower) (encoded : Bool) (s : State) : Out :=
  match (s.twr.get t).run with
  | none => .next s
  | some r =>
    if r.ended || r.writing then .next s
    else match (if encoded then s.encodeSector t r else none) with
      | none => .next (s.sectorEnd t 3)
      | some e =>
        if s.wgOpen t then
          .next ((s.drawn.sentNow t r.cur e).updTwr t (fun x => { x with
            run := some { r with writing := true, enc := e, trans := sectorTrans r.precomp e } }))
        else .next (s.sectorEnd t 2)

/-- R234: the last bit of a sector leaves the serialiser: WRITTEN with the gate open throughout, as it still is, or closed on schedule in this
very cycle; else CUT. -/
def execSectorWriteEnd (t : Tower) (s : State) : Out :=
  match (s.twr.get t).run with
  | none => .next s
  | some r =>
    .next (if r.writing && !r.ended then s.sectorEnd t (if s.wgOpen t || (s.atb.tw.get t).closedNow.contains 2 then 0 else 1) else s)

/-! ## Write-path start and shut-down -/

/-- The TWR shut-down: both gates drop and the write run ends with the running sector CUT. -/
def State.twrStop (s : State) (t : Tower) : State :=
  let s1 := s.dropGates t
  match (s1.twr.get t).run with
  | some r => if r.ended then s1 else s1.sectorEnd t 1
  | none => s1

/-! ## Fault stops of the Lantern (R246 to R248) -/

def cHOT : Nat := 1
def cABORTS : Nat := 2
def cPREAMP : Nat := 3
def cLINK : Nat := 4
def cVERSION : Nat := 5
def cKIND : Nat := 6

def State.cplIrq (s : State) (t : Tower) (bit : Nat) : State := s.irq bCPL t.idx 0 bit

/-- The firmware frame has its answer, or its retries are exhausted. -/
def State.cplFwDone (s : State) (t : Tower) (err : Bool) : State :=
  ((s.wr (CPL_REG_CMD_GO t.idx) 0).wb (CPL_REG_CMD_ERR t.idx) err).cplIrq t 25

/-- The CPL shut-down's last step (R241): RST_N falls, frames that still wait are given up, and the block reaches its end. -/
def State.cplStopEnd (s : State) (t : Tower) : State :=
  let s1 := if s.on (CPL_REG_CMD_GO t.idx) then s.cplFwDone t true else s
  let s2 := (s1.wr (CPL_STAT_LINK_UP t.idx) 0).wr (CPL_STAT_VERSION t.idx) 0
  (s2.updCpl t (fun c => { c with
      rstN := false, rstAt := s.fwk.cycle, waitLan := false, awaiting := none, adopted := false, started := false,
      pendHead := false, pendAssist := none, pendBias := none, pendFw := none, pendKeep := false })).shutDone bCPL t.idx

/-- The Lantern reaches OFF or FAULT; a CPL shut-down that waited for it goes on (R241). -/
def State.lanShutDone (s : State) (t : Tower) : State :=
  let s1 := (s.updLan t (fun l => { l with ramp := none, bias := 0 })).shutDone bLAN t.idx
  if (s1.twr.get t).cpl.waitLan then s1.cplStopEnd t else s1

/-- The Lantern shut-down (R248): the assist gate drops, and the write gate with it; then the ramp to 0. With KIND 0, and with a version 2
preamp, which has no BIAS (Table 08-5), there is no frame to wait for. -/
def State.lanStop (s : State) (t : Tower) : State :=
  let s1 := ((s.wr (LAN_STAT_READY t.idx) 0).dropAG t).regate t
  let s2 := s1.updLan t (fun l => { l with holdPhase := 0, ramp := some 0 })
  if s.rd (LAN_CFG_KIND t.idx) = 0 ∨ s.rd (CPL_STAT_VERSION t.idx) = 2 then s2.lanShutDone t else s2

/-- A fault of the Lantern with its cause and record (Table 19-3): a fault stop, or in OFF and FAULT only recorded (R34). -/
def State.lanFault (s : State) (t : Tower) (cause : Nat) : State :=
  ((s.wr (LAN_STAT_CAUSE t.idx) cause).hwPost 0x0702 4 (20 + t.idx) [BitVec.ofNat 8 cause]).faultStop bLAN t.idx (fun s => s.lanStop t)

/-- The Lantern start actions (R247). -/
def State.lanStart (s : State) (t : Tower) : State :=
  let s1 := (s.wr (LAN_CNT_CONSEC t.idx) 0).updLan t (fun l => { l with holdHeads := [], holdPhase := 0 })
  let kind := s.rd (LAN_CFG_KIND t.idx)
  if kind = 0 then s1.setSt bLAN t.idx stON
  else if s.isOn bCPL t.idx = false then s1.lanFault t cLINK
  else if ¬ s.rd (CPL_STAT_VERSION t.idx) = 3 then s1.lanFault t cVERSION
  else if ¬ s.rd (CPL_STAT_PREAMP_ID t.idx) % 4 = kind then s1.lanFault t cKIND
  else s1.updLan t (fun l => { l with bias := 0, ramp := some (s.rd (LAN_BIAS_BIAS t.idx)) })

/-! ## Camium Preamp Link (R235 to R241) -/

/-- The CPL shut-down and fault stop (R241). An adopted link still carries the BIAS frames of the Lantern's ramp. -/
def State.cplStop (s : State) (t : Tower) : State :=
  let s1 := ((s.updCpl t (fun c => { c with pendHead := false, pendRead := none, pendAssist := none })).updLan t (fun l =>
    { l with assistWait := false })).regate t
  if s1.st bLAN t.idx = stOFF ∨ s1.st bLAN t.idx = stFAULT then s1.cplStopEnd t
  else (s1.updCpl t (fun c => { c with waitLan := true })).lanFault t cLINK

/-- The LINK fault: the frame is given up and the block takes a fault stop. The BIAS frame of 0 that a Lantern shut-down waits for is not
awaited any longer (DESIGN CHOICE, log entry 52). -/
def State.linkFault (s : State) (t : Tower) (f : CplFrame) : State :=
  let s1 := (s.updCpl t (fun c => { c with awaiting := none })).wr (CPL_STAT_LINK_UP t.idx) 0
  let s2 := if f.fw then s1.cplFwDone t true else s1
  let s3 := (s2.cplIrq t 27).faultStop bCPL t.idx (fun s => s.cplStop t)
  if f.typ = 1 ∧ f.addr = 8 ∧ f.data = 0 ∧ s3.st bLAN t.idx = stSTOPPING ∧ (s3.twr.get t).lan.ramp = none then s3.lanShutDone t else s3

/-- The CPL start actions (R240). -/
def State.cplStart (s : State) (t : Tower) : State :=
  (((s.wr (CPL_STAT_LINK_UP t.idx) 0).wr (CPL_STAT_VERSION t.idx) 0).updLan t (fun l => { l with assistWait := false })).updCpl t (fun c => { c with
      loopNow := s.rd (CPL_TEST_LOOP t.idx), resp := [], awaiting := none, rstN := false, verReads := 0, adopted := false, started := false,
      waitLan := false, pendRead := none, pendHead := false, pendAssist := none, pendBias := none, pendKeep := false })

/-- The 40 bits of a frame (R235). -/
def cplBits (f : CplFrame) : Nat :=
  let h := f.typ * 2 ^ 28 + f.seq * 2 ^ 24 + f.addr * 2 ^ 16 + f.data
  h * 256 + crc8 [h / 2 ^ 24, h / 2 ^ 16 % 256, h / 2 ^ 8 % 256, h % 256]

/-- The pending frame of highest priority (R237), and the link with it taken. During the start only the reads of R240 go out; under the
preamp-side loop-back a free slot carries a READ of VERSION (Table 20-8). -/
def State.cplNext (s : State) (t : Tower) (c : CplState) : Option (CplFrame × CplState) :=
  match c.pendRead with
  | some a => some ({ typ := 2, addr := a }, { c with pendRead := none, verReads := c.verReads + 1 })
  | none =>
    if c.adopted = false then none
    else if c.pendHead then some ({ typ := 1, addr := 2, data := s.rd (SRV_HEAD_HEAD t.idx) }, { c with pendHead := false })
    else match c.pendAssist with
      | some p => some ({ typ := 1, addr := 7, data := p }, { c with pendAssist := none })
      | none => match c.pendBias with
        | some b =>
          if s.rd (CPL_STAT_VERSION t.idx) = 2 then none else some ({ typ := 1, addr := 8, data := b }, { c with pendBias := none })
        | none => match c.pendFw with
          | some f => some (f, { c with pendFw := none })
          | none =>
            if c.loopNow = 3 ∧ c.started then some ({ typ := 2, addr := 0 }, c)
            else if c.pendKeep then some ({ typ := 3 }, { c with pendKeep := false }) else none

/-- SEQ of the next frame: counted modulo 16 (the manual states no count), 0 for a version 2 preamp (Table 08-5). -/
def State.cplSeq (s : State) (t : Tower) (c : CplState) : Nat := if s.rd (CPL_STAT_VERSION t.idx) = 2 then 0 else (c.seq + 1) % 16

/-- The upstream pins reach the receiver: no loop-back inside the chip is in force (Table 20-8, CPL_TEST 1 and 2). -/
def State.cplHears (s : State) (t : Tower) : Bool := !((s.twr.get t).cpl.loopNow == 1 || (s.twr.get t).cpl.loopNow == 2)

/-- The frame that awaits an answer with this SEQ; version 2 matches in order. -/
def State.cplMatch (s : State) (t : Tower) (seq : Nat) : Option CplFrame :=
  (s.twr.get t).cpl.awaiting.filter (fun f => s.cplHears t && (f.seq == seq || s.rd (CPL_STAT_VERSION t.idx) == 2))

/-- A VERSION answer adopts a CPL version (Table 08-5). -/
def State.cplAdopt (s : State) (t : Tower) (data : Nat) : State :=
  let s1 := s.wr (CPL_STAT_PREAMP_ID t.idx) (data / 256 % 256 * 256)
  if data % 16 < 2 then s1.faultStop bCPL t.idx (fun s => s.cplStop t)
  else ((((s1.wr (CPL_STAT_VERSION t.idx) (if data % 16 = 2 then 2 else 3)).wr (CPL_STAT_LINK_UP t.idx) 1).cplIrq t 28).updCpl t
    (fun c => { c with adopted := true, pendRead := some 1 }))

/-- CAPS is read: HEAD_SEL ends the start (R240). -/
def State.cplCaps (s : State) (t : Tower) (data : Nat) : State :=
  (s.wr (CPL_STAT_PREAMP_ID t.idx) (s.rd (CPL_STAT_PREAMP_ID t.idx) / 256 * 256 + data % 256)).updCpl t (fun c => { c with pendHead := true })

/-- An acknowledged WRITE (R236, R243, R248). -/
def State.cplWritten (s : State) (t : Tower) (f : CplFrame) : State :=
  if f.addr = 2 then
    if s.st bCPL t.idx = stSTARTING ∧ (s.twr.get t).cpl.adopted then
      (s.updCpl t (fun c => { c with started := true })).setSt bCPL t.idx stON
    else s
  else if f.addr = 7 then
    let s1 := (s.updLan t (fun l => { l with acked := some f.data, assistWait := (s.twr.get t).cpl.pendAssist.isSome })).lanAssist t
    -- an AG_OPEN of this very cycle opens the gate (Table 08-7)
    if (s.twr.get t).lan.tryNow then s1.cmpActNow t 3 0 else s1
  else if f.addr = 8 then
    if f.data = 0 then
      if s.st bLAN t.idx = stSTOPPING ∧ (s.twr.get t).lan.ramp = none then s.lanShutDone t else s
    else s
  else s

/-- Table 20-8: under the preamp-side loop-back a VERSION that differs from CPL_STAT.PREAMP_ID is an error of CPL_CNT. -/
def State.cplLoopCheck (s : State) (t : Tower) (data : Nat) : State :=
  if data / 256 % 256 = s.rd (CPL_STAT_PREAMP_ID t.idx) / 256 then s else (s.bump (CPL_CNT_CRC t.idx) 1).cplIrq t 26

/-- The frame has its answer; an ACK or READ_DATA of the matching SEQ is taken as the answer to either kind of frame. -/
def State.cplAnswer (s : State) (t : Tower) (f : CplFrame) (data : Nat) : State :=
  let s1 := s.updCpl t (fun c => { c with awaiting := none })
  if f.fw then (if f.typ = 2 then s1.wr (CPL_REG_DATA_DATA t.idx) data else s1).cplFwDone t false
  else if f.typ = 2 ∧ (s.twr.get t).cpl.started then s1.cplLoopCheck t data
  else if f.typ = 2 then (if f.addr = 0 then s1.cplAdopt t data else s1.cplCaps t data)
  else s1.cplWritten t f

/-- Register `a` of the responder of the link-layer loop-back: what was written to it, otherwise what a CPL 3 preamp holds there. -/
def CplState.respReg (c : CplState) (a : Nat) : Nat :=
  match c.resp.find? (fun e => e.1 == a) with
  | some e => e.2
  | none => if a = 0 then (Config.responder 0).toNat / 16 * 16 + 3 else (Config.responder a).toNat

/-- The internal responder answers the frame that awaits an answer (Table 20-8, CPL_TEST 1). -/
def State.cplRespond (s : State) (t : Tower) (f : CplFrame) : State :=
  if f.typ = 1 then (s.updCpl t (fun c => { c with resp := (f.addr, f.data) :: c.resp.filter (fun e => !(e.1 == f.addr)) })).cplAnswer t f f.data
  else if f.typ = 2 then s.cplAnswer t f ((s.twr.get t).cpl.respReg f.addr)
  else s

/-- A frame leaves, and waits for its answer unless it is a KEEPALIVE. -/
def State.cplSend (s : State) (t : Tower) : State :=
  let c := (s.twr.get t).cpl
  if c.rstN = false ∨ c.awaiting.isSome then s
  else match s.cplNext t c with
    | none => s
    | some (f, c1) =>
      let g := { f with seq := s.cplSeq t c }
      let s1 := s.updCpl t (fun _ => { c1 with
        seq := g.seq, sent := cplBits g, pendKeep := false, awaiting := if g.typ = 3 then none else some g })
      if c.loopNow = 1 then s1.cplRespond t g else s1

/-- R237: the highest-priority pending frame is sent. -/
def execCplFrameSend (t : Tower) (s : State) : Out := .next (s.cplSend t)

/-- R237: no frame has been sent for 2 µs. -/
def execKeepalive (t : Tower) (s : State) : Out :=
  .next ((s.updCpl t (fun c => { c with pendKeep := c.adopted })).cplSend t)

/-- No answer came, or a NAK: the frame is sent again, up to RETRY times (a read of VERSION up to three times), then LINK. -/
def State.cplRetry (s : State) (t : Tower) (f : CplFrame) : State :=
  if f.typ = 2 ∧ f.fw = false ∧ f.addr = 0 ∧ (s.twr.get t).cpl.started = false then
    if (s.twr.get t).cpl.verReads < 3 then s.updCpl t (fun c => { c with awaiting := none, pendRead := some 0 })
    else (s.updCpl t (fun c => { c with awaiting := none })).faultStop bCPL t.idx (fun s => s.cplStop t)
  else if f.resends < atLeast1 (s.rd (CPL_CFG_RETRY t.idx)) then
    let f1 := { f with resends := f.resends + 1 }
    s.updCpl t (fun c => { c with awaiting := some f1, sent := cplBits f })
  else s.linkFault t f

/-- R236: an upstream ACK. -/
def execCplAck (t : Tower) (seq addr data : Nat) (s : State) : Out :=
  .next (match s.cplMatch t seq with
    | some f => s.cplAnswer t f (if f.typ = 1 ∧ ¬ f.addr = addr then f.data else data)
    | none => s)

/-- R236: an upstream NAK. -/
def execCplNak (t : Tower) (seq : Nat) (s : State) : Out :=
  .next (match s.cplMatch t seq with
    | some f => (s.bump (CPL_CNT_NAK t.idx) 1).cplRetry t f
    | none => s)

/-- R240: an upstream READ_DATA; ADDR repeats the register. -/
def execReadData (t : Tower) (seq _addr data : Nat) (s : State) : Out :=
  .next (match s.cplMatch t seq with
    | some f => s.cplAnswer t f data
    | none => s)

/-- R235, Table 08-3: an upstream frame is discarded. `kind` 0: bad CRC, counted; 1: wrong direction bit; 2: unknown TYPE, counted. -/
def execCplBadFrame (t : Tower) (kind : Nat) (s : State) : Out :=
  .next (if kind = 0 then (s.bump (CPL_CNT_CRC t.idx) 1).cplIrq t 26
    else if kind = 2 then s.bump (CPL_CNT_BAD t.idx) 1 else s)

/-- R236: 400 ns pass without an answer. -/
def execCplAnswerTimeout (t : Tower) (s : State) : Out :=
  .next (match (s.twr.get t).cpl.awaiting with
    | some f => (s.bump (CPL_CNT_TIMEOUT t.idx) 1).cplRetry t f
    | none => s)

/-- R240: 10 µs of reset at the start end. -/
def execCplResetRelease (t : Tower) (s : State) : Out :=
  .next (if s.st bCPL t.idx = stSTARTING then s.updCpl t (fun c => { c with rstN := true }) else s)

/-- R240: 20 µs after the release VERSION is read. -/
def execCplVersionRead (t : Tower) (s : State) : Out :=
  .next (if s.st bCPL t.idx = stSTARTING ∧ (s.twr.get t).cpl.rstN ∧ (s.twr.get t).cpl.adopted = false then
    (s.updCpl t (fun c => { c with pendRead := some 0 })).cplSend t else s)

/-- A write of CPL_REG_CMD (R239): without GO it stores READ and ADDR. A frame for registers 0x02, 0x07 and 0x08, or while the link is
not up, is refused. -/
def State.cplRegCmd (s : State) (t : Tower) (val : Word) : State :=
  if s.on (CPL_REG_CMD_GO t.idx) ∧ fieldOf val 31 1 = 1 then s.cplIrq t 24
  else
    let s1 := (s.wr (CPL_REG_CMD_READ t.idx) (fieldOf val 30 1)).wr (CPL_REG_CMD_ADDR t.idx) (fieldOf val 0 8)
    let a := fieldOf val 0 8
    if fieldOf val 31 1 = 0 then s1
    else if (fieldOf val 30 1 = 0 ∧ (a = 2 ∨ a = 7 ∨ a = 8)) ∨ s.on (CPL_STAT_LINK_UP t.idx) = false then
      (s1.wr (CPL_REG_CMD_ERR t.idx) 1).cplIrq t 24
    else
      let f : CplFrame :=
        { typ := if fieldOf val 30 1 = 1 then 2 else 1, addr := a, fw := true,
          data := if fieldOf val 30 1 = 1 then 0 else s.rd (CPL_REG_DATA_DATA t.idx) }
      ((s1.wr (CPL_REG_CMD_GO t.idx) 1).wr (CPL_REG_CMD_ERR t.idx) 0).updCpl t (fun c => { c with pendFw := some f })

/-- R239: a write of CPL_REG_CMD. -/
def execCplRegGo (t : Tower) (val : Word) (s : State) : Out :=
  .next (s.gated (CPL_REG_CMD t.idx) (fun s => s.cplRegCmd t val))

/-! ## Telemetry, trim and thermal abort (R244 to R246) -/

/-- TRIM_MAX: above 127 it acts as 127. -/
def State.trimMax (s : State) (t : Tower) : Nat := min 127 (s.rd (LAN_THERM_TRIM_MAX t.idx))

def State.setTrim (s : State) (t : Tower) (h : Nat) (x : Int) : State := s.wrI (LAN_HEAD_TRIM t.idx h) x

/-- Table 08-6, actions 1 to 3. The cool-down begins only in a Lantern that is ON; a ramp of its start or shut-down goes on (R31, R34). A gate
that closed on schedule in this very cycle has not cleared CONSEC (Table 08-7). -/
def State.thermalAbort (s : State) (t : Tower) (h : Nat) : State :=
  let s1 := s.updLan t (fun l => { l with holdHeads := insertN h l.holdHeads })
  let s2 := if s.isOn bLAN t.idx then (s1.updLan t (fun l => { l with holdPhase := 1, ramp := some 0 })).wr (LAN_STAT_READY t.idx) 0 else s1
  let s3 := (if s2.gatesFree t then s2 else s2.setAG t false).dropWG t
  let s4 := s3.setTrim t h (max (s.trim t h - s.rd (LAN_HOLD_ABORT_CUT t.idx)) (-(s.trimMax t : Int)))
  let s5 := (s4.wr (LAN_CNT_CONSEC t.idx) ((s.twr.get t).lan.shutNow.getD (s.rd (LAN_CNT_CONSEC t.idx)))).updLan t (fun l => { l with shutNow := none })
  let s6 := (((s5.bump (LAN_CNT_ABORTS t.idx) 1).bump (LAN_CNT_CONSEC t.idx) 1).irq bLAN t.idx 0 28).hwPost 0x0701 2 (20 + t.idx) [BitVec.ofNat 8 h]
  s6.lanAssist t

/-- The trim step of R244. -/
def State.trimStep (s : State) (t : Tower) (h code : Nat) : State :=
  if s.on (LAN_CFG_TRIM_EN t.idx) = false then s
  else
    let tgt := s.rd (LAN_THERM_T_TGT t.idx)
    let hys := s.rd (LAN_THERM_T_HYS t.idx)
    let x := s.trim t h
    let x1 := if tgt + hys < code then x - 1 else if code + hys < tgt ∧ x < 0 then x + 1 else x
    s.setTrim t h (clampI x1 (-(s.trimMax t : Int)) (s.trimMax t))

/-- R244 to R246: a TELEMETRY frame; one that meets AG_CLOSE counts as received while open (Table 08-7). A frame that aborts makes no trim
step beside the cut of Table 08-6. -/
def execTelemetry (t : Tower) (head code : Nat) (s : State) : Out :=
  if 12 ≤ head ∨ s.cplHears t = false then .next s
  else
    let i := t.idx
    let s1 := (s.wr (LAN_HEAD_TLAST i head) code).wr (LAN_HEAD_TPEAK i head) (max (s.rd (LAN_HEAD_TPEAK i head)) (code % 4096))
    let open_ := s.agOpen t || (s.twr.get t).lan.shutNow.isSome
    let temps := (s.twr.get t).lan.temps
    let n := atLeast1 (s.rd (LAN_ROR_ROR_N i))
    let rise := open_ && decide (n ≤ temps.length) && decide (nth temps (n - 1) 0 + s.rd (LAN_ROR_ROR_LIM i) < code)
    let hot := decide (s.rd (LAN_ROR_T_ABS i) < code)
    let s2 := if open_ then s1.updLan t (fun l => { l with temps := code :: l.temps.take 15 }) else s1
    if rise || hot then
      let s3 := s2.thermalAbort t head
      .next (if hot then s3.lanFault t cHOT
        else if atLeast1 (s.rd (LAN_ROR_ABORT_MAX i)) ≤ s3.rd (LAN_CNT_CONSEC i) then s3.lanFault t cABORTS else s3)
    else .next (if open_ then (s2.trimStep t head code).lanAssist t else s2)

/-- R248: an upstream FAULT frame. -/
def execCplFaultFrame (t : Tower) (status : Nat) (s : State) : Out :=
  .next (if s.cplHears t then (s.wr (CPL_STAT_PSTATUS t.idx) status).lanFault t cPREAMP else s)

/-- R238, R252, R253: the 1 µs strobe; the on-time counter of the active head counts while its assist gate is open. -/
def execTelemetryStrobe (t : Tower) (s : State) : Out :=
  if s.agOpen t then
    let h := s.head t
    let n := s.rd (LAN_ONTIME_LO_COUNT_LO t.idx h) + 2 ^ 32 * s.rd (LAN_ONTIME_HI_COUNT_HI t.idx h) + 1
    let s1 := (s.wr (LAN_ONTIME_LO_COUNT_LO t.idx h) n).wr (LAN_ONTIME_HI_COUNT_HI t.idx h) (n / 2 ^ 32)
    .next (if n = s.rd (LAN_RATED_RATED_H t.idx) * 3600000000 then s1.headWarn t (LAN_WARN_ONTIME_WARN t.idx) h 26 else s1)
  else .next s

/-! ## Bias ramps (R245, R247, R248) -/

/-- The ramp has reached its target. -/
def State.rampEnd (s : State) (t : Tower) : State :=
  let s1 := s.updLan t (fun l => { l with ramp := none })
  let ph := (s.twr.get t).lan.holdPhase
  if s.st bLAN t.idx = stSTARTING then ((s1.setSt bLAN t.idx stON).wr (LAN_STAT_READY t.idx) 1).irq bLAN t.idx 0 24 |>.lanAssist t
  else if ph = 1 then s1.updLan t (fun l => { l with holdPhase := 2 })
  else if ph = 3 then
    (((s1.updLan t (fun l => { l with holdPhase := 0, holdHeads := [] })).wr (LAN_STAT_READY t.idx) 1).irq bLAN t.idx 0 24).lanAssist t
  else s1

/-- One step of a ramp: RAMP codes towards the target (0 acts as 1), sent as a BIAS frame. -/
def State.rampStep (s : State) (t : Tower) (target : Nat) : State :=
  let b := (s.twr.get t).lan.bias
  let k := atLeast1 (s.rd (LAN_BIAS_RAMP t.idx))
  let b1 := if b < target then min target (b + k) else max target (b - k)
  let s1 := (s.updLan t (fun l => { l with bias := b1 })).updCpl t (fun c => { c with pendBias := some b1 })
  if b1 = target then s1.rampEnd t else s1

/-- R248: a microsecond of a bias ramp; not commanded while CPL_x_RST_N is 0: a shut-down's ramp then ends 50 µs after the reset (R241). -/
def execLanBiasRampStep (t : Tower) (s : State) : Out :=
  .next (match (s.twr.get t).lan.ramp with
    | some target =>
      if (s.twr.get t).cpl.rstN then s.rampStep t target
      else if s.st bLAN t.idx = stSTOPPING ∧ (s.twr.get t).cpl.rstAt + 50000 ≤ s.fwk.cycle then s.lanShutDone t
      else s
    | none => s)

/-- R245: the hold-off time ends and BIAS ramps back. -/
def execHoldoffEnd (t : Tower) (s : State) : Out :=
  .next (if (s.twr.get t).lan.holdPhase = 2 ∧ s.isOn bLAN t.idx then
    s.updLan t (fun l => { l with holdPhase := 3, ramp := some (s.rd (LAN_BIAS_BIAS t.idx)) }) else s)

/-! ## Power table (R251) -/

/-- A write of LAN_PTAB_DATA. -/
def State.ptabWrite (s : State) (t : Tower) (val : Word) : State :=
  let i := s.rd (LAN_PTAB_ADDR_INDEX t.idx)
  let l := (s.twr.get t).lan
  let s1 := if i < 768 then s.updLan t (fun l => { l with ptab := sparseSet l.ptab i (fieldOf val 0 10), ptabNow := some i }) else s
  let s2 := if i = 64 * l.lrnHead + l.lrnZone ∧ ¬ s.rd (LAN_LEARN_N_COUNT t.idx) = 0 then
      (s1.wr (LAN_LEARN_N_COUNT t.idx) 0).updLan t (fun l => { l with lrnFails := 0, lrnEber := 0, lrnLocal := 0 })
    else s1
  let s3 := if s.on (LAN_PTAB_ADDR_AUTO_INC t.idx) then s2.wr (LAN_PTAB_ADDR_INDEX t.idx) (i + 1) else s2
  s3.lanAssist t

/-- R251: a firmware write of a PTAB entry. -/
def execPtabWrite (t : Tower) (val : Word) (s : State) : Out :=
  .next (s.gated (LAN_PTAB_DATA t.idx) (fun s => s.ptabWrite t val))

end Sys2Proof.Machine
end

