-- ==== Sys2Proof/Machine/Lay.lean ====
section
/-! DEFINITION. Media layout and recovery: bands and slots, the active head list, spread groups and rows, the band maps, the retry ladder and its
record. -/

namespace Sys2Proof.Machine

def State.updLay (s : State) (t : Tower) (f : LayState → LayState) : State := { s with lay := s.lay.set t (f (s.lay.get t)) }

/-! ## Zones and bands (R161 to R169) -/

/-- The descriptor words of a zone. -/
def State.zoneWords (s : State) (t : Tower) (h z : Nat) : List Word :=
  (List.range 8).map (fun k => s.word (s.rd (TWR_ZTAB_BASE_BASE t.idx) + (64 * h + z) * 32 + 4 * k))

def zoneShingled (l : List Word) : Bool := dword l 0 31 1 == 1 && dword l 0 28 3 == 1
def zoneSpt (l : List Word) : Nat := dword l 4 0 12
def bandTracks (l : List Word) : Nat := dword l 5 0 16
def slipMin (l : List Word) : Nat := dword l 5 16 16

/-- Tracks that a band takes with its guard. -/
def bandPitch (l : List Word) : Nat := max 1 (bandTracks l + dword l 6 0 8)

/-- Bands of a zone (R164). -/
def zoneBands (l : List Word) : Nat := if zoneShingled l then dword l 3 0 24 / bandPitch l else 0

/-- The band index of a track: the shingled bands of the head are counted through its zones. -/
def State.bandIndex (s : State) (t : Tower) (h z track : Nat) : Nat :=
  let l := s.zoneWords t h z
  (List.range z).foldl (fun n k => n + zoneBands (s.zoneWords t h k)) 0 + (track - dword l 2 0 24) / bandPitch l

/-- The first track of the band that holds a track, and whether the track is one of its guard tracks (R164, R166). -/
def bandStart (l : List Word) (track : Nat) : Nat := dword l 2 0 24 + (track - dword l 2 0 24) / bandPitch l * bandPitch l
def inGuard (l : List Word) (track : Nat) : Bool := decide (bandTracks l ≤ (track - dword l 2 0 24) % bandPitch l)

/-- The sector positions of a band in track order are numbered from 0; these are the ones that the primary defect list skips, ascending. -/
def LayState.skips (y : LayState) (l : List Word) (h start : Nat) : List Nat :=
  sortBy (fun a b => decide (a ≤ b)) (y.primary.filterMap (fun e =>
    if e.1 = h ∧ start ≤ e.2.1 ∧ e.2.1 < start + bandTracks l ∧ e.2.2 < zoneSpt l then some ((e.2.1 - start) * zoneSpt l + e.2.2) else none))

/-- The slots of a band (R164), and whether it is retired (R165). -/
def LayState.bandSlots (y : LayState) (l : List Word) (h start : Nat) : Nat := bandTracks l * zoneSpt l - (y.skips l h start).length
def LayState.retired (y : LayState) (l : List Word) (h start : Nat) : Bool := decide (y.bandSlots l h start < 65536 + slipMin l)

/-- The slot of a track and position, and the track and position of a slot (R164). -/
def LayState.slotOf (y : LayState) (l : List Word) (h track pos : Nat) : Nat :=
  let n := (track - bandStart l track) * zoneSpt l + pos
  n - ((y.skips l h (bandStart l track)).filter (fun q => decide (q < n))).length
def LayState.slotPlace (y : LayState) (l : List Word) (h start slot : Nat) : Nat × Nat :=
  let n := (y.skips l h start).foldl (fun n q => if q ≤ n then n + 1 else n) slot
  (start + n / atLeast1 (zoneSpt l), n % atLeast1 (zoneSpt l))

/-- The band of a surface. -/
def LayState.bandOf (y : LayState) (h b : Nat) : Band := (y.bands.find? (fun x => x.head == h && x.band == b)).getD { head := h, band := b }

def LayState.setBand (y : LayState) (x : Band) : LayState :=
  { y with bands := x :: y.bands.filter (fun z => !(z.head == x.head && z.band == x.band)) }

/-- Slots that are never written again, or hold no sector (R160, R169). -/
def LayState.listed (y : LayState) (h track pos : Nat) : Bool := y.grown.contains (h, track, pos) || y.primary.contains (h, track, pos)

/-- The position enters the grown defect list, which holds at most 16,384 slots (R169). -/
def LayState.growAt (y : LayState) (p : Nat × Nat × Nat) : LayState :=
  if y.grown.contains p ∨ 16384 ≤ y.grown.length then y else { y with grown := p :: y.grown }

/-- The generation that a capture of a track is read with (R186): the band map's for a shingled zone. -/
def State.readGen (s : State) (t : Tower) (h z track : Nat) : Nat :=
  if zoneShingled (s.zoneWords t h z) then ((s.lay.get t).bandOf h (s.bandIndex t h z track)).gen else 3

/-! ## The active head list and capacity (R171, R188) -/

/-- H: the fitted, working heads. -/
def State.activeHeads (s : State) (t : Tower) : List Nat := (s.lay.get t).heads.filter (fun h => decide (h < s.rd (SRV_CFG_NHEADS t.idx)))

/-- Member i's head when group g is placed over the active head list (R171). -/
def memberHead (heads : List Nat) (g i : Nat) : Nat := nth heads ((g + i) % heads.length) 0

/-- The shape of a new group: 1 to 4 parity members, and the wanted shape with k reduced so that k + m fits the active head list (R170,
R179). -/
def shapeFor (heads : List Nat) (k m : Nat) : Nat × Nat :=
  let m1 := max 1 (min m (min 4 (heads.length - 1)))
  (max 1 (min k (heads.length - m1)), m1)

/-- ROW_SECTORS: one of the five sizes of R174, else the default. -/
def rowSize (n : Nat) : Nat := if [64, 128, 256, 512, 1024].contains n then n else 256

/-- The heads of a group of band index `g`. -/
def groupHeads (heads : List Nat) (g k m : Nat) : List Nat :=
  let sh := shapeFor heads k m
  (List.range (sh.1 + sh.2)).map (memberHead heads g)

/-- Band indices of a head. -/
def State.headBands (s : State) (t : Tower) (h : Nat) : Nat := (List.range 64).foldl (fun n z => n + zoneBands (s.zoneWords t h z)) 0

/-- G: the groups that the Tower's band indices give. -/
def State.groupCount (s : State) (t : Tower) : Nat :=
  ((s.activeHeads t).foldl (fun (m : Option Nat) h => some (m.elim (s.headBands t h) (min (s.headBands t h)))) none).getD 0

/-- The native capacity of a Tower (R188). -/
def State.capacity (s : State) (t : Tower) : Nat :=
  (s.groupCount t - max 32 (s.lay.get t).spareGroups) * (shapeFor (s.activeHeads t) s.obj.k s.obj.m).1 * 268435456

/-- The two heads that hold the mirrored CMR contents of a Tower (R181): the manual does not say which; the first two of H (DESIGN CHOICE, log
entry 53). -/
def State.mirrorHeads (s : State) (t : Tower) : List Nat := (s.activeHeads t).take 2

/-! ## Groups and rows (R170 to R179) -/

/-- A new group of band index `g` (R171). -/
def newGroup (heads : List Nat) (g k m vault incarn rowSectors : Nat) : Group :=
  let sh := shapeFor heads k m
  { band := g, k := sh.1, m := sh.2, heads := groupHeads heads g k m, vault := vault, incarn := incarn, rowSectors := rowSize rowSectors }

/-- The state of row `r`; a row that is not listed is EMPTY. -/
def Group.rowSt (g : Group) (r : Nat) : RowSt := ((g.rows.find? (fun e => e.1 == r)).map (·.2)).getD .empty

def Group.setRow (g : Group) (r : Nat) (x : RowSt) : Group :=
  { g with rows := (r, x) :: g.rows.filter (fun e => !(e.1 == r)) }

/-- Events of Table 06-7 on one row: a data sector written, FLUSH or durable completion, the last data slot verified, every parity
slot verified, and the close of the group. -/
inductive RowEvt
  | dataWritten
  | flush
  | lastVerified
  | parityVerified
  | closed
  deriving DecidableEq, Repr

/-- Table 06-7. -/
def rowNext (x : RowSt) (e : RowEvt) : RowSt :=
  match e, x with
  | .dataWritten, .empty => .open_
  | .dataWritten, .covered => .open_
  | .flush, .open_ => .covered
  | .lastVerified, .open_ => .dataDone
  | .lastVerified, .covered => .dataDone
  | .parityVerified, .dataDone => .protected_
  | .closed, .empty => .empty
  | .closed, _ => .protected_
  | _, x => x

/-- A row is in progress: OPEN, COVERED or DATA_DONE (R177). -/
def rowActive (x : RowSt) : Bool := x == .open_ || x == .covered || x == .dataDone

/-- A row moves (R175); one that becomes PROTECTED gives its accumulators back, and its PARTIAL_PARITY records are discarded. -/
def Group.rowStep (g : Group) (r : Nat) (e : RowEvt) : Group :=
  let x := rowNext (g.rowSt r) e
  let g1 := g.setRow r x
  if x = .protected_ then { g1 with accs := g.accs.filter (fun a => !(a.1 == r)), partials := g.partials.filter (fun p => !(p.1 == r)) } else g1

/-- The row of a slot. -/
def Group.rowOf (g : Group) (slot : Nat) : Nat := slot / g.rowSectors

def Group.memberOf (g : Group) (h : Nat) : Nat := g.heads.findIdx (fun x => x == h)

/-- A data slot of a member has passed read-after-write. -/
def Group.has (g : Group) (i slot : Nat) : Bool := g.crcs.any (fun e => e.1 == (i, slot))

/-- Every data slot, and every parity slot, of a row has passed read-after-write. -/
def Group.dataDone (g : Group) (r : Nat) : Bool := decide (g.k * g.rowSectors ≤ (g.crcs.filter (fun e => g.rowOf e.1.2 == r)).length)
def Group.parityDone (g : Group) (r : Nat) : Bool := decide (g.m * g.rowSectors ≤ (g.parity.filter (fun e => g.rowOf e.2 == r)).length)

/-- The slot after the last one of the prefix of row `r` that member `i` has verified. -/
def Group.prefixEnd (g : Group) (r i : Nat) : Nat :=
  r * g.rowSectors + ((List.range g.rowSectors).find? (fun j => !g.has i (r * g.rowSectors + j))).getD g.rowSectors

/-- FLUSH, or a durable completion that needs parity: a PARTIAL_PARITY record covers what each OPEN row holds. -/
def Group.cover (g : Group) : Group :=
  (g.rows.filter (fun e => e.2 == .open_)).foldl (fun g e =>
    let g1 := g.rowStep e.1 .flush
    { g1 with partials := (e.1, (List.range g.k).map (g.prefixEnd e.1)) :: g1.partials.filter (fun p => !(p.1 == e.1)) }) g

/-- A sector of data member `i` is parity-pending (R176). -/
def Group.pending (g : Group) (i slot : Nat) : Bool :=
  !(g.rowSt (g.rowOf slot) == .protected_) && !g.partials.any (fun p => p.1 == g.rowOf slot && decide (slot < nth p.2 i 0))

/-- The group closes: every row in progress is closed, its parity written over what is on media (Table 06-7). -/
def Group.close (g : Group) : Group :=
  { (g.rows.filter (fun e => rowActive e.2)).foldl (fun g e => g.rowStep e.1 .closed) g with closed := true, queued := true }

/-- Head `h` leaves the active head list: its groups become DEGRADED and close their open rows (R179). -/
def Group.headOut (g : Group) (h : Nat) : Group := if g.heads.contains h then { g.close with degraded := true } else g

/-! ## Groups of a Tower -/

def LayState.groupOf (y : LayState) (b : Nat) : Option Group := y.groups.find? (fun g => g.band == b)

def LayState.updGroup (y : LayState) (b : Nat) (f : Group → Group) : LayState :=
  { y with groups := y.groups.map (fun g => if g.band = b then f g else g) }

/-- Groups with a row in progress (R177). -/
def LayState.busyGroups (y : LayState) : List Nat := (y.groups.filter (fun g => g.rows.any (fun e => rowActive e.2))).map (·.band)

/-- The incarnation of the next group of a band index (R173). -/
def LayState.nextIncarn (y : LayState) (b : Nat) : Nat := ((y.incarns.find? (fun e => e.1 == b)).elim 0 (fun e => e.2 + 1)) % 65536

/-- The group of a band, allocated at its first write (R171, R173). -/
def LayState.withGroup (y : LayState) (heads : List Nat) (b vault k m rowSectors : Nat) : LayState :=
  if y.groups.any (fun g => g.band == b) then y
  else { y with groups := y.groups ++ [newGroup heads b k m vault (y.nextIncarn b) rowSectors],
                incarns := (b, y.nextIncarn b) :: y.incarns.filter (fun e => !(e.1 == b)) }

/-- An opened row takes the first free accumulator row of the Tower (R175, R177). -/
def LayState.takeAcc (y : LayState) (b r : Nat) : LayState :=
  match y.groupOf b with
  | none => y
  | some g =>
    if g.accs.any (fun a => a.1 == r) ∨ rowActive (g.rowSt r) = false then y
    else match (List.range 16).find? (fun n => !y.groups.any (fun x => x.accs.any (fun a => a.2 == n))) with
      | none => y
      | some n => y.updGroup b (fun g => { g with accs := (r, n) :: g.accs })

/-- The place of a sector of an object. -/
def LayState.placeOf (y : LayState) (frag incarn idx : Nat) : Option Place :=
  y.places.find? (fun p => p.frag == frag && p.incarn == incarn && p.idx == idx)

/-- The sectors of a deleted object are dead (R185). -/
def LayState.placesDie (y : LayState) (frag incarn : Nat) : LayState :=
  { y with places := y.places.map (fun p => if p.frag = frag ∧ p.incarn = incarn then { p with dead := true } else p),
           rehome := y.rehome.filter (fun p => !(p.frag == frag && p.incarn == incarn)) }

/-- A group may be released: every object in it is deleted or has moved, and every destination row that it fed is PROTECTED (R173, R184). -/
def LayState.releasable (y : LayState) (g : Group) : Bool :=
  let mine := y.places.filter (fun p => p.band == g.band)
  let fed := y.feeds.filter (fun f => f.1 == g.band)
  (!mine.isEmpty || !fed.isEmpty) && mine.all (fun p => p.dead) && !y.rehome.any (fun p => p.band == g.band)
    && fed.all (fun f => (y.groupOf f.2.1).elim true (fun d => d.rowSt f.2.2 == .protected_))

/-- The group's bands are free again, from slot 0 on (R166). -/
def LayState.release (y : LayState) (g : Group) : LayState :=
  { y with groups := y.groups.filter (fun x => !(x.band == g.band)),
           bands := y.bands.map (fun x => if x.band = g.band ∧ g.heads.contains x.head then { head := x.head, band := x.band } else x),
           places := y.places.filter (fun p => !(p.band == g.band)), feeds := y.feeds.filter (fun f => !(f.1 == g.band)),
           rewrites := y.rewrites.filter (fun r => !(r.band == g.band)), unreadable := y.unreadable.filter (fun e => !(e.1 == g.band)) }

def LayState.reclaim (y : LayState) : LayState := y.groups.foldl (fun y g => if y.releasable g then y.release g else y) y

/-- Some sector of an object is parity-pending (R176). -/
def LayState.objPending (y : LayState) (frag incarn : Nat) : Bool :=
  y.places.any (fun p => p.frag == frag && p.incarn == incarn && !p.dead && (y.groupOf p.band).elim false (fun g => g.pending p.member p.slot))

/-- Unreadable members of slot `slot` of a group, beside member `i` (R178). -/
def State.unreadOthers (s : State) (t : Tower) (g : Group) (i slot : Nat) : Nat :=
  let y := s.lay.get t
  (g.heads.zipIdx.filter (fun e => !(e.2 == i) && (!(s.activeHeads t).contains e.1 || y.unreadable.contains (g.band, e.2, slot)))).length

/-- What the group makes of a sector at a place: 0 read from its own slot, 1 rebuilt, 2 unrecovered (R178). -/
def State.placeRead (s : State) (t : Tower) (p : Place) : Nat :=
  match (s.lay.get t).groupOf p.band with
  | none => 0
  | some g =>
    if (s.activeHeads t).contains (nth g.heads p.member 0) && !(s.lay.get t).unreadable.contains (p.band, p.member, p.slot) then 0
    else if s.unreadOthers t g p.member p.slot < g.m then 1 else 2

/-! ## Retry ladder (R258 to R272) -/

/-- Captures of a sector that are still pinned. -/
def State.sectorSlots (s : State) (t : Tower) (x : Sect) : List Nat :=
  (List.range 51).filter (fun k => s.pinned t k && (s.slot t k).cap.head == x.head && (s.slot t k).cap.track == x.track
    && (s.slot t k).cap.pos == x.pos)

/-- Firmware unpins every slot the sector holds (R265, R273). -/
def State.unpinSector (s : State) (t : Tower) (x : Sect) : State :=
  (s.sectorSlots t x).foldl (fun s k => s.setPin t k false) s

/-- Attempts of a step (Table 09-1). -/
def ladderAttempts (step : Nat) : Nat :=
  if step = 3 then 3 else if step = 4 then 6 else if step = 5 then 3 else if step = 6 ∨ step = 7 then 2 else if step = 8 then 1 else 0

/-- The head of a sector is in the active head list. -/
def State.headIn (s : State) (t : Tower) (h : Nat) : Bool := (s.activeHeads t).contains h

/-- The sector lies in a band of generation 1. -/
def State.sectGen1 (s : State) (t : Tower) (x : Sect) : Bool :=
  x.gen1 || (!x.cmr && !x.raw && (((s.lay.get t).bandOf x.head x.band).gen == 1))

/-- Steps that a profile and R260 allow, from L3 on (Table 09-2). -/
def State.ladderSteps (s : State) (t : Tower) (x : Sect) (profile : Nat) : List Nat :=
  let deep := if profile = 0 ∨ profile = 2 then [3, 4, 5, 6, 7] else []
  let l8 := if (profile = 0 ∨ profile = 1) ∧ x.raw = false ∧ s.sectGen1 t x = false then [8] else []
  if s.headIn t x.head = false ∧ x.cmr = false ∧ x.raw = false then l8 else deep ++ l8

/-- The position after (step, att): the next attempt of the step or the first of the next allowed step. -/
def ladderNext (steps : List Nat) (step att : Nat) : Option (Nat × Nat) :=
  if steps.contains step ∧ att < ladderAttempts step then some (step, att + 1)
  else (steps.find? (fun n => decide (step < n))).map (fun n => (n, 1))

/-- SRV_OFFSET of L4 attempt n (Table 09-3). -/
def l4Offset (n : Nat) : Nat := nth [0x051F, 0xFAE1, 0x0A3D, 0xF5C3, 0x0F5C, 0xF0A4] (n - 1) 0

/-- Firmware writes SRV_OFFSET. -/
def State.fwOffset (s : State) (t : Tower) (v : Nat) : State := (s.wr (SRV_OFFSET_OFFSET t.idx) v).resettle t

/-- Firmware writes the HEATER register of the preamplifier (R269). -/
def State.fwHeater (s : State) (t : Tower) (code : Nat) : State :=
  (s.wr (CPL_REG_DATA_DATA t.idx) code).cplRegCmd t 0x80000006

/-- The settings that a ladder leaves when it goes from one step to another (R265, R266, R268, R269). -/
def State.leaveStep (s : State) (t : Tower) (l : Ladder) : State :=
  if l.step = 3 then s.unpinSector t l.sec
  else if l.step = 4 ∨ l.step = 6 then s.fwOffset t 0
  else if l.step = 7 then s.fwHeater t (l.normalHeater.getD 0)
  else s

/-- The settings of an attempt (R266 to R269). -/
def State.enterAttempt (s : State) (t : Tower) (step att : Nat) (fac : Factory) : State :=
  if step = 4 then s.fwOffset t (l4Offset att)
  else if step = 6 then s.fwOffset t (if att = 1 then fac.offA else fac.offB)
  else if step = 7 then s.fwHeater t (min fac.hmax (fac.heater + att * fac.hstep))
  else s

def ladderKey (a b : Sect) : Bool := a.head == b.head && a.track == b.track && a.pos == b.pos

/-- What firmware last saw of a sector. -/
def State.seenOf (s : State) (t : Tower) (x : Sect) : Option SeenOut :=
  (s.lay.get t).seen.find? (fun o => o.head == x.head && o.track == x.track && o.pos == x.pos)

/-- The sector's identity from the band map, where the map names it (Table 09-5). -/
def State.sectFill (s : State) (t : Tower) (x : Sect) : Sect :=
  ((s.lay.get t).places.find? (fun p => p.band == x.band && p.member == x.member && p.slot == x.slot)).elim x (fun p =>
    { x with frag := p.frag, incarn := p.incarn, idx := p.idx, vault := p.vault })

/-- The ladder of a sector, or a new one after its live read, which began it at time `at_`. -/
def State.ladderOf (s : State) (t : Tower) (x : Sect) (profile at_ : Nat) : Ladder :=
  ((s.lay.get t).ladders.find? (fun l => ladderKey l.sec x)).getD { sec := s.sectFill t x, profile := profile, step := 2, att := 0, since := at_ }

def State.setLadder (s : State) (t : Tower) (l : Ladder) : State :=
  s.updLay t (fun y => { y with ladders := l :: y.ladders.filter (fun z => !(ladderKey z.sec l.sec)) })

/-- A request that names the slot is queued or runs, or its sector is still being decoded. -/
def State.slotBusy (s : State) (t : Tower) (k : Nat) : Bool :=
  let c := s.chn.get t
  (nth c.slots k {}).decoding || (nth c.slots k {}).capturing || c.queue.any (fun q => (reqSlots q).contains k)
    || c.replay.elim false (fun d => (reqSlots d.req).contains k) || c.crcs.any (fun e => e.1 == .replay && (reqSlots e.2.req).contains k)
    || c.caps.any (fun e => e.2 == k)

/-- The words of a request that firmware posts for the newest capture of a sector (Table 07-4); DEST and TAG are those of the capture. -/
def State.fwWords (s : State) (t : Tower) (k mode readers set gmax lmax : Nat) (comb : List Nat) : List Word :=
  let sl := s.slot t k
  let name := fun (i : Nat) => if i < comb.length then (s.slot t (nth comb i 0)).gen % 64 * 256 + nth comb i 0 else 0
  [ BitVec.ofNat 32 (set * 2 ^ 30 + readers * 2 ^ 28 + mode * 2 ^ 24 + sl.cap.tag % 256 * 2 ^ 16 + sl.gen * 2 ^ 8 + k),
    BitVec.ofNat 32 (comb.length * 2 ^ 18 + 2 ^ 16 + lmax * 2 ^ 8 + gmax), BitVec.ofNat 32 (name 1 * 2 ^ 16 + name 0),
    BitVec.ofNat 32 (name 2), BitVec.ofNat 32 sl.cap.dest ]

/-- Earlier captures of a sector, newest first, at most three (R264). -/
def State.earlier (s : State) (t : Tower) (x : Sect) (k : Nat) : List Nat :=
  (sortBy (fun a b => decide ((s.slot t b).stamp ≤ (s.slot t a).stamp)) (removeN k (s.sectorSlots t x))).take 3

/-- The mode of the next automatic request of R215 that the newest live outcome had and that has not run (R263). -/
def missingMode (o : SeenOut) : Option Nat := (autoModes o.live).find? (fun m => !o.modes.contains m)

/-- The request that firmware posts for the present attempt, after the live outcome and its chain (R263, R264, R267, R268). The limits of an L5 or
L6 request are not stated; those of CHN_ITER_REPLAY are taken (DESIGN CHOICE, log entry 54). -/
def State.ladderReq (s : State) (t : Tower) (l : Ladder) (o : SeenOut) : Option (List Word) :=
  let k := o.slot
  let g := s.gmaxOf t .replay
  let m := s.lmaxOf t .replay
  if l.step < 3 then (missingMode o).map (fun mode => s.fwWords t k mode 0 0 g m [])
  else if l.posted then none
  else if l.step = 3 then some (s.fwWords t k 0 0 0 8 30 (s.earlier t l.sec k))
  else if l.step = 5 then some (s.fwWords t k 3 0 l.att g m [])
  else if l.step = 6 then some (s.fwWords t k 3 l.att 0 g m [])
  else none

/-- The live outcome can be decoded again: the capture is still in its slot, and is pinned or can be (R197). -/
def State.seenSlot (s : State) (t : Tower) (o : SeenOut) : Bool :=
  decide (o.slot < 51) && (s.slot t o.slot).gen == o.gen && (s.slot t o.slot).replayable && s.canPin t o.slot

/-- Firmware pins the capture and posts a request; while the queue is full it waits. -/
def State.fwRequest (s : State) (t : Tower) (l : Ladder) (o : SeenOut) (w : List Word) : State :=
  if 16 ≤ (s.chn.get t).queue.length ∨ s.isOn bCHN t.idx = false then s
  else (((s.setPin t o.slot true).updChn t (fun c => { c with queue := c.queue ++ [{ words := w }] })).setDepth t).setLadder t { l with posted := true }

/-- A re-read that ended so is not an attempt of its step (R261, Table 09-6). -/
def ladderRepeats (l : Ladder) (outcome : Nat) : Bool :=
  decide (3 ≤ l.step) && (outcome == 8 || ((outcome == 5 || outcome == 6 || outcome == 9) && decide (l.rep < 3)))

/-- The slot of a sector has failed L0 to L7 (R178). -/
def LayState.failed (y : LayState) (x : Sect) : LayState :=
  if y.unreadable.contains (x.band, x.member, x.slot) then y else { y with unreadable := (x.band, x.member, x.slot) :: y.unreadable }

/-- The next attempt of a ladder begins (R265 to R270). An L3 attempt waits while no further pin is possible. The slot of a sector that reaches L8 has
failed L0 to L7 (R178). -/
def State.ladderStep (s : State) (t : Tower) (l : Ladder) (fac : Factory) (count : Nat) : State :=
  match ladderNext (s.ladderSteps t l.sec l.profile) l.step l.att with
  | none => s.setLadder t l
  | some (step, att) =>
    if step = 3 ∧ s.pinMax t ≤ s.pinCount t then s
    else
      let s1 := if step = l.step then s else s.leaveStep t l
      let heater := if step = 7 then some fac.heater else none
      let s2 := (s1.enterAttempt t step att fac).setLadder t { l with
        step := step, att := att, rep := 0, posted := false, seenAt := count, normalHeater := heater,
        captures := if step = 8 then l.captures else l.captures + 1 }
      if step = 8 ∧ l.profile = 0 ∧ s.headIn t l.sec.head then
        s2.updLay t (fun y => y.failed l.sec)
      else s2

/-- R258 to R270: firmware goes on with a sector's ladder: it waits for the capture, the chain and the requests of the present attempt, posts the
request that is due, or begins the next attempt. A sector whose head is out of H needs no read (R260). -/
def execLadderAttempt (t : Tower) (sec : Sect) (profile : Nat) (fac : Factory) (s : State) : Out :=
  .next (match s.seenOf t sec with
    | none => if s.headIn t sec.head then s else s.ladderStep t (s.ladderOf t sec profile s.fwk.cycle) fac 0
    | some o =>
      let l := s.ladderOf t sec profile o.at_
      if o.out = 0 ∨ (l.step = 8) then s
      else if s.headIn t sec.head = false ∧ sec.cmr = false ∧ sec.raw = false then s.ladderStep t l fac o.count
      else if 3 ≤ l.step ∧ o.count ≤ l.seenAt then s
      else if s.slotBusy t o.slot then s
      else if ladderRepeats l o.live then
        s.setLadder t { l with rep := if o.live = 8 then l.rep else l.rep + 1, captures := l.captures + 1, seenAt := o.count, posted := false }
      else
        let l1 := { l with bestUnsat := if o.out = 1 ∨ o.out = 2 then min l.bestUnsat o.unsat else l.bestUnsat }
        match (if s.seenSlot t o then s.ladderReq t l1 o else none) with
        | some w => s.fwRequest t l1 o w
        | none => s.ladderStep t l1 fac o.count)

/-! ## The end of a ladder (R273 to R278) -/

/-- A firmware post whose image firmware has filled (R525); the poster's value of SOURCE is its own. -/
def State.fwPost (s : State) (code sev : Nat) (payload : List Byte) : State :=
  if s.isOn bEVR 0 ∧ s.rd EVR_POST_STAT_DEPTH < 16 then
    let p : EvrPost := { fw := true, code := code, sev := sev, source := 128 + s.free % 128, payload := payload, time := s.evrTime }
    ({ s.drawn with evr := { s.evr with posts := s.evr.posts ++ [p] } }).wr EVR_POST_STAT_DEPTH (s.rd EVR_POST_STAT_DEPTH + 1)
  else (s.bump EVR_POST_STAT_REFUSED 1).irq bEVR 0 0 23

/-- DETAIL of Table 09-5: the recovering attempt. -/
def ladderDetail (l : Ladder) (outcome : Nat) : Nat := if outcome = 0 ∧ 3 ≤ l.step ∧ l.step ≤ 7 then l.att else 0

/-- The ladder record (Table 09-5). -/
def ladderPayload (t : Tower) (l : Ladder) (outcome realloc corr elapsed : Nat) : List Byte :=
  let x := l.sec
  leBytes 1 (t.idx * 128 + x.head % 16) ++ leBytes 3 x.track ++ leBytes 2 (x.pos % 2048) ++ leBytes 1 x.zone
    ++ leBytes 1 (l.step % 16 + outcome % 4 * 16 + l.profile % 4 * 64) ++ leBytes 6 x.frag ++ leBytes 2 x.incarn ++ leBytes 5 x.idx
    ++ leBytes 1 x.vault ++ leBytes 4 x.band ++ leBytes 1 x.member ++ leBytes 1 l.unread ++ leBytes 1 (ladderDetail l outcome)
    ++ leBytes 1 realloc ++ leBytes 2 l.captures ++ leBytes 4 elapsed ++ leBytes 2 l.bestUnsat
    ++ leBytes 2 (if outcome = 0 ∧ l.step < 8 then corr else 0)

/-- The band of a sector takes no further writes, or its head is out of H: the sector is relocated (R275). -/
def State.sectOut (s : State) (t : Tower) (x : Sect) : Bool :=
  ((s.lay.get t).bandOf x.head x.band).exhausted || !(((s.lay.get t).bandOf x.head x.band).gen == 3) || !s.headIn t x.head

/-- The recovered plaintext waits for the band tail, or for the band movers (R275). -/
def LayState.queueRewrite (y : LayState) (x : Sect) (parity out : Bool) : LayState :=
  { y with rewrites := y.rewrites ++ [{ head := x.head, band := x.band, slot := x.slot, typ := b2n parity, frag := x.frag, incarn := x.incarn, idx := x.idx,
                                        relocate := out }],
           groups := if out then y.groups.map (fun g => if g.band = x.band then { g with queued := true } else g) else y.groups }

/-- The sector is a parity slot of its group. -/
def LayState.sectParity (y : LayState) (x : Sect) : Bool := (y.groupOf x.band).elim false (fun g => decide (g.k ≤ x.member))

/-- REALLOC of the record: 0 none, 1 slip queued, 2 band-mover relocation, 3 grown list only (Table 09-4). -/
def State.ladderRealloc (s : State) (t : Tower) (l : Ladder) (outcome : Nat) : Nat :=
  if outcome = 2 then 0
  else if outcome = 1 then 3
  else if l.sec.cmr ∨ l.step < 3 then 0
  else if l.sec.raw then 3
  else if s.sectOut t l.sec then 2
  else 1

/-- Table 09-4: what firmware does with the slot and the sector's data. -/
def State.ladderAct (s : State) (t : Tower) (l : Ladder) (outcome : Nat) : State :=
  let x := l.sec
  s.updLay t (fun y =>
    if outcome = 2 then y
    else if outcome = 1 then (if l.step = 7 then y.failed x else y).growAt (x.head, x.track, x.pos)
    else if l.step < 3 then { y with shallow := upd y.shallow x.head (nth y.shallow x.head 0 + 1) }
    else if x.cmr then y
    else if x.raw then y.growAt (x.head, x.track, x.pos)
    else if s.headIn t x.head = false then { y with groups := y.groups.map (fun g => if g.band = x.band then { g with queued := true } else g) }
    else (y.growAt (x.head, x.track, x.pos)).queueRewrite x (y.sectParity x) (s.sectOut t x))

/-- The object of a sector is deleted (Table 09-6). -/
def LayState.sectDead (y : LayState) (x : Sect) : Bool := (y.placeOf x.frag x.incarn x.idx).elim false (fun p => p.dead)

/-- The outcome of a ladder that ends: before L8 it is that of the newest attempt; at L8 a sector with more unreadable members than parity members is
unrecovered, and otherwise `outcome` says whether the check of R272 passed. -/
def State.ladderOut (s : State) (t : Tower) (l : Ladder) (o : Option SeenOut) (outcome : Nat) : Nat :=
  if outcome = 2 then 2
  else if l.step < 8 then (if o.elim false (fun x => x.out == 0) then 0 else 1)
  else if ((s.lay.get t).groupOf l.sec.band).elim false (fun g => decide (g.m ≤ s.unreadOthers t g l.sec.member l.sec.slot)) then 1
  else min 1 outcome

/-- A ladder ends when it has recovered the sector, has no step left, or is abandoned. -/
def State.ladderOver (s : State) (t : Tower) (l : Ladder) (o : Option SeenOut) (outcome : Nat) : Bool :=
  outcome == 2 || o.elim false (fun x => x.out == 0) || l.step == 8 || (ladderNext (s.ladderSteps t l.sec l.profile) l.step l.att).isNone

/-- R273 to R278: a sector's ladder ends; `outcome` 2 abandons it, else it tells the result of an L8 rebuild. A sector already recovered at L3 or
deeper when its command is aborted is still reallocated, unless its object is deleted (Table 09-6). -/
def execLadderEnd (t : Tower) (sec : Sect) (outcome : Nat) (s : State) : Out :=
  let o := s.seenOf t sec
  let l0 := s.ladderOf t sec 0 (o.elim s.fwk.cycle (·.at_))
  let l := { l0 with unread := if l0.step = 8 then ((s.lay.get t).groupOf sec.band).elim 0 (fun g => s.unreadOthers t g l0.sec.member l0.sec.slot) else 0 }
  if s.ladderOver t l o outcome = false then .next s
  else
    let dead := (s.lay.get t).sectDead l.sec
    let out := if dead then 2 else s.ladderOut t l o outcome
    let act := if out = 2 ∧ dead = false ∧ 3 ≤ l.step ∧ o.elim false (fun x => x.out == 0) then 0 else out
    let s1 := (s.leaveStep t l).unpinSector t sec
    let realloc := s.ladderRealloc t l act
    let s2 := (s1.ladderAct t l act).updLay t (fun y => { y with
      ladders := y.ladders.filter (fun z => !(ladderKey z.sec sec)),
      seen := y.seen.filter (fun z => !(z.head == sec.head && z.track == sec.track && z.pos == sec.pos)) })
    .next (if 3 ≤ l.step ∨ out = 1 then
      s2.fwPost (if out = 1 then 0x0803 else if out = 2 then 0x0804 else if l.step = 8 then 0x0802 else 0x0801)
        (if out = 1 then 4 else if out = 2 then 2 else if l.step = 8 then 3 else 2)
        (ladderPayload t l out realloc (o.elim 0 (·.corr)) ((s.fwk.cycle - l.since) / 1000000))
    else s2)

/-- R179, Table 09-6: firmware removes a head from H. Ladders of its sectors go on at L8 with their captures unpinned. -/
def execHeadRemoved (t : Tower) (h : Nat) (s : State) : Out :=
  let mine := (s.lay.get t).ladders.filter (fun l => l.sec.head == h)
  let s1 := mine.foldl (fun s l => (s.leaveStep t l).unpinSector t l.sec) s
  .next (s1.updLay t (fun y => { y with
    heads := y.heads.filter (fun x => !(x == h)), groups := y.groups.map (fun g => g.headOut h),
    ladders := y.ladders.map (fun l => if l.sec.head = h then { l with step := 7, att := 2, normalHeater := none } else l) }))

end Sys2Proof.Machine
end

