-- ==== Sys2Proof/Machine/Eth.lean ====
section
/-! DEFINITION. Received Ethernet frames as bytes: FCS, VLAN tag, IP, UDP and ICMP fields and their checks (R305 to R310). -/

namespace Sys2Proof.Machine

/-! ## The frame -/

/-- The number in `n` bytes from offset `o` on, most significant byte first. -/
def atBe (l : List Byte) (o n : Nat) : Nat := beNat ((l.drop o).take n)

/-- The last four bytes are the FCS of the others. -/
def fcsOk (l : List Byte) : Bool :=
  decide (4 ≤ l.length) && leNat (l.drop (l.length - 4)) == crcEth (l.take (l.length - 4))

def frameDst (l : List Byte) : Nat := atBe l 0 6
def frameTagged (l : List Byte) : Bool := atBe l 12 2 == 0x8100

/-- The VID of a tagged frame. -/
def frameVid (l : List Byte) : Option Nat := if frameTagged l then some (atBe l 14 2 % 4096) else none

/-- EtherType, after the tag, and the bytes that follow it, without FCS. -/
def frameType (l : List Byte) : Nat := if frameTagged l then atBe l 16 2 else atBe l 12 2
def frameBody (l : List Byte) : List Byte := (l.take (l.length - 4)).drop (if frameTagged l then 18 else 14)

/-- PAUSE and priority flow control: MAC control frames of opcode 0x0001 and 0x0101 (Table 11-1). -/
def isPause (l : List Byte) : Bool := frameType l == 0x8808 && (atBe (frameBody l) 0 2 == 1 || atBe (frameBody l) 0 2 == 0x0101)

def etIP4 : Nat := 0x0800
def etARP : Nat := 0x0806
def etIP6 : Nat := 0x86DD
def etLLDP : Nat := 0x88CC

/-! ## Datagrams (R308) -/

/-- The sum of 16-bit words, the last padded with zero. -/
def sum16 : List Byte → Nat
  | [] => 0
  | [a] => 256 * a.toNat
  | a :: b :: r => 256 * a.toNat + b.toNat + sum16 r

/-- Bytes that include their checksum add up to all ones in ones' complement. -/
def sumsUp (l : List Byte) : Bool := !(sum16 l == 0) && sum16 l % 65535 == 0

/-- What an IP packet carries: version, protocol or next header, source, destination, and its payload. -/
structure IpPacket where
  v6 : Bool
  proto : Nat
  src : List Byte
  dst : List Byte
  load : List Byte
  deriving DecidableEq, Repr

/-- An IPv4 packet that passes the checks of R308. -/
def ip4Of (l : List Byte) : Option IpPacket :=
  if atBe l 0 1 = 0x45 ∧ 20 ≤ atBe l 2 2 ∧ atBe l 2 2 ≤ l.length ∧ sumsUp (l.take 20) = true ∧ atBe l 6 2 % 0x4000 = 0 then
    some { v6 := false, proto := atBe l 9 1, src := (l.drop 12).take 4, dst := (l.drop 16).take 4, load := (l.take (atBe l 2 2)).drop 20 }
  else none

/-- An IPv6 packet that passes the checks of R308. -/
def ip6Of (l : List Byte) : Option IpPacket :=
  if atBe l 0 1 / 16 = 6 ∧ atBe l 4 2 + 40 ≤ l.length ∧ (atBe l 6 1 = 17 ∨ atBe l 6 1 = 58) then
    some { v6 := true, proto := atBe l 6 1, src := (l.drop 8).take 16, dst := (l.drop 24).take 16, load := (l.drop 40).take (atBe l 4 2) }
  else none

def ipOf (frame : List Byte) : Option IpPacket :=
  if frameType frame = etIP4 then ip4Of (frameBody frame) else if frameType frame = etIP6 then ip6Of (frameBody frame) else none

/-- ICMP of the packet's IP version. -/
def IpPacket.icmp (p : IpPacket) : Bool := if p.v6 then p.proto == 58 else p.proto == 1

/-- The UDP header fits, and its checksum holds; 0 stands for none in IPv4 only. -/
def IpPacket.udpOk (p : IpPacket) : Bool :=
  let n := atBe p.load 4 2
  p.proto == 17 && decide (8 ≤ n) && decide (n ≤ p.load.length)
    && (if atBe p.load 6 2 = 0 then !p.v6 else sumsUp (p.src ++ p.dst ++ [0#8, 17#8] ++ beBytes 2 n ++ p.load.take n))

/-- An echo request, or a neighbour solicitation (R309). -/
def IpPacket.asks (p : IpPacket) : Bool :=
  if p.v6 then atBe p.load 0 1 == 128 || atBe p.load 0 1 == 135 else atBe p.load 0 1 == 8

/-! ## Addresses of a port (R306) -/

/-- MAXFRAME: values outside 1,518 to 9,216 act as the nearer limit. -/
def State.maxFrame (s : State) (p : Nat) : Nat := max 1518 (min 9216 (s.rd (ETH_FRAME_MAXFRAME p)))

def State.macOf (s : State) (p : Nat) : Nat := s.rd (ETH_MAC_HI_MAC p) * 2 ^ 32 + s.rd (ETH_MAC_LO_MAC p)

def State.ip4s (s : State) (p : Nat) : List Nat :=
  ((List.range 4).filter (fun n => s.rd (ETH_IP_VALID_V4 p) / 2 ^ n % 2 == 1)).map (fun n => s.rd (ETH_IP4_ADDR p n))

def State.ip6s (s : State) (p : Nat) : List Nat :=
  ((List.range 8).filter (fun n => s.rd (ETH_IP_VALID_V6 p) / 2 ^ n % 2 == 1)).map (fun n =>
    (List.range 4).foldl (fun a w => a * 2 ^ 32 + s.rd (ETH_IP6_ADDR p (4 * n + w))) 0)

/-- The VLAN rule: tagged with VID only, or untagged and priority tags of VID 0. -/
def State.vlanOk (s : State) (p : Nat) (vid : Option Nat) : Bool :=
  if s.on (ETH_FRAME_TAG_EN p) then vid == some (s.rd (ETH_FRAME_VID p)) else vid == none || vid == some 0

/-- The destination rule of R306. -/
def State.dstOk (s : State) (p dst etype : Nat) : Bool :=
  dst == s.macOf p || (dst == 0xFFFFFFFFFFFF && etype == etARP) || dst == 0x333300000001
    || (s.ip6s p).any (fun a => dst == 0x3333FF000000 + a % 2 ^ 24) || (dst == 0x0180C200000E && etype == etLLDP)

/-- A datagram is addressed to the port (R308). An ICMPv6 message also reaches it by the solicited-node address of one of its addresses and the
all-nodes address, to which solicitations go (DEDUCED from R306 and R309, log entry 56). -/
def State.ipMine (s : State) (p : Nat) (q : IpPacket) : Bool :=
  if q.v6 then
    (s.ip6s p).contains (beNat q.dst)
      || (q.icmp && (beNat q.dst == 0xFF02 * 2 ^ 112 + 1 || (s.ip6s p).any (fun a => beNat q.dst == 0xFF02 * 2 ^ 112 + 0x1FF000000 + a % 2 ^ 24)))
  else (s.ip4s p).contains (beNat q.dst)

/-! ## The link (R305, R306) -/

/-- The mode in force is a KR mode, or 25 Gbit/s; MODE 4 to 7 act as 0. -/
def modeKr (m : Nat) : Bool := m == 2 || m == 0 || decide (4 ≤ m)
def mode25 (m : Nat) : Bool := !(m == 2 || m == 3)

/-- FEC of a link that comes up: with auto-negotiation the one that Clause 73 resolves, which is one of those advertised; in a fixed mode that of
ETH_CFG.FEC. Clause 108 is not supported at 10 Gbit/s. -/
def fecOf (m cfg resolved : Nat) : Nat :=
  let able := fun (n : Nat) => n == 1 || (n == 2 && mode25 m)
  if modeKr m then (if able resolved && (cfg == 3 || cfg == resolved) then resolved else 0)
  else if cfg = 3 then (if mode25 m then 2 else 0)
  else if able cfg then cfg else 0

end Sys2Proof.Machine
end

