-- ==== Sys2Proof/Machine/Net.lean ====
section
/-! DEFINITION. Network ports and AOT transport: frames, sessions, keys and epochs, reliability, tags, completions and closes. -/

namespace Sys2Proof.Machine

/-! ## Numbers, time -/

/-- Time in µs, from mtime. -/
def State.usNow (s : State) : Nat := s.fwk.mtime / 25

def State.updAot (s : State) (f : AotState → AotState) : State := { s with aot := f s.aot }
def State.aotIrq (s : State) (bit : Nat) : State := s.irq bAOT 0 0 bit
def State.aotCount (s : State) (n : Nat) : State := s.bump (AOT_CNT_COUNT n) 1

/-- A packet engine runs (R335). -/
def State.engineUp (s : State) (n : Nat) : Bool := let x := (s.spire ⟨1, n⟩).sstate; x == 1 || x == 2

/-! ## Session table -/

def State.sessOf (s : State) (i : Nat) : Sess := ((s.aot.sess.find? (fun e => e.1 == i)).map (·.2)).getD {}

/-- Entries of a state, for AOT_STAT. -/
def sessCount (l : List (Nat × Sess)) (st : Nat) : Nat := (l.filter (fun e => e.2.st == st)).length

def State.setSess (s : State) (i : Nat) (x : Sess) : State :=
  let l := (i, x) :: s.aot.sess.filter (fun e => !(e.1 == i))
  ((s.updAot (fun a => { a with sess := l })).wr AOT_STAT_OPEN (sessCount l 2)).wr AOT_STAT_HANDSHAKE (sessCount l 1)

def State.updSess (s : State) (i : Nat) (f : Sess → Sess) : State := s.setSess i (f (s.sessOf i))

/-- SESSION_ID (R320). -/
def Sess.sid (x : Sess) (i : Nat) : Nat := x.counter * 4096 + i

/-- The GCM slot of a session, direction and epoch (R386). -/
def gcmSlot (i d e : Nat) : Nat := 4 * i + 2 * d + e % 2

def State.gcmKey (s : State) (n : Nat) : Option Nat := (s.keys.gcm.find? (fun e => e.1 == n)).map (·.2)

def State.setGcm (s : State) (n : Nat) (k : Option Nat) : State :=
  let l := s.keys.gcm.filter (fun e => !(e.1 == n))
  { s with keys := { s.keys with gcm := k.elim l (fun v => (n, v) :: l) } }

/-! ## Key derivation (R317) -/

/-- A label of R317: the version's prefix and a space come first (Table 11-4). -/
def aotLabel (version : Nat) (t : String) : List Byte := ascii "aot" ++ [BitVec.ofNat 8 (48 + version)] ++ ascii " " ++ ascii t

/-- The key of an epoch from its secret, and the secret of the next epoch. -/
def epochKey (version : Nat) (secret : List Byte) : Nat := beNat (hkdfExpand secret (aotLabel version "key") 32)
def nextSecret (version : Nat) (secret : List Byte) : List Byte := hkdfExpand secret (aotLabel version "upd") 48

/-! ## Sending -/

/-- A frame leaves on a port, or is discarded at the MAC while the link is down (R311). -/
def State.portTx (s : State) (p : Nat) (r : TxRec) : State :=
  if s.isOn bETH p && s.on (ETH_STAT_LINK p) then
    ({ s with eth := upd s.eth p { nth s.eth p {} with lastTx := some r } }).bump (ETH_CNT_COUNT p 1) 1
  else s.bump (ETH_CNT_COUNT p 9) 1

/-- A frame of a session leaves; while its packet engine is down none is sent (R335). -/
def State.sessTx (s : State) (i : Nat) (r : TxRec) : State := if s.engineUp (i % 16) then s.portTx (s.sessOf i).peer.port r else s

/-- The largest WINDOW of the version; the device always offers it (Table 11-4). -/
def windowOf (version : Nat) : Nat := if version = 1 then 256 else 1024

/-- SACK: bit i says that ACK + 1 + i has been received; AOT 1 sends 0. -/
def Sess.sackBits (x : Sess) : Nat :=
  if x.version = 1 then 0
  else (List.range 16).foldl (fun a i => if x.seen.contains (x.ack + 1 + i) then a + 2 ^ i else a) 0

/-- The 32-byte header (Table 11-2). -/
def aotHeader (version typ flags epoch sid seq ack window plen tag gen opcode sack off : Nat) : List Byte :=
  beBytes 1 (version % 16 * 16 + typ % 16) ++ beBytes 1 flags ++ beBytes 2 epoch ++ beBytes 4 sid ++ beBytes 4 seq ++ beBytes 4 ack
    ++ beBytes 2 window ++ beBytes 2 plen ++ beBytes 1 (tag % 32) ++ beBytes 1 0 ++ beBytes 2 gen ++ beBytes 2 opcode ++ beBytes 2 sack
    ++ beBytes 4 off

/-- The GCM nonce (R313). -/
def aotNonce (sid epoch stream seq : Nat) : Nat := sid * 2 ^ 64 + epoch % 2 ^ 16 * 2 ^ 48 + stream * 2 ^ 32 + seq

/-- A sealed packet: header, ciphertext and tag; none without a key. -/
def State.sealPkt (s : State) (i : Nat) (x : Sess) (typ flags epoch stream seq tag gen off : Nat) (body : List Byte) :
    Option (List Byte) :=
  (s.gcmKey (gcmSlot i 1 epoch)).map (fun k =>
    let h := aotHeader x.version typ flags epoch (x.sid i) seq x.ack (windowOf x.version) body.length tag gen 0 x.sackBits off
    h ++ gcmSeal k (aotNonce (x.sid i) epoch stream seq) h body)

/-- Every packet the session sends acknowledges what it has received (R328), and advertises its right edge. -/
def Sess.acking (x : Sess) : Sess :=
  { x with sinceAck := 0, delayOn := false, edge := max x.edge (x.ack + windowOf x.version) }

/-- An ACK packet leaves (R326). -/
def State.sendAck (s : State) (i : Nat) : State :=
  let x := s.sessOf i
  match s.sealPkt i x 8 0 x.txEpoch 1 x.ackNext 0 0 0 [] with
  | none => s
  | some w =>
    let x1 := x.acking
    (s.setSess i { x1 with ackNext := x.ackNext + 1 }).sessTx i
      { sess := some i, typ := 8, seq := x.ackNext, epoch := x.txEpoch, ack := x.ack, sack := x.sackBits, wire := w }

/-- One reliable packet leaves for the first time and is kept until it is covered. -/
def State.sendFirst (s : State) (i : Nat) (p : RelPkt) : State :=
  let x := s.sessOf i
  let w := (s.sealPkt i x p.typ p.flags p.epoch 0 p.seq p.tag p.gen p.off p.body).getD []
  let x1 := x.acking
  (s.setSess i { x1 with unacked := x.unacked ++ [{ p with wire := w, sentAt := s.usNow }] }).sessTx i
    { sess := some i, typ := p.typ, seq := p.seq, epoch := p.epoch, ack := x.ack, sack := x.sackBits, wire := w }

/-- A kept packet is resent unchanged (R326). -/
def State.resend (s : State) (i : Nat) (p : RelPkt) : State :=
  (s.aotCount 12).sessTx i { sess := some i, typ := p.typ, seq := p.seq, epoch := p.epoch, wire := p.wire }

/-- Waiting packets leave while they lie below the peer's right edge and fewer than CWND are unacknowledged (R330). -/
def State.pump (s : State) (i : Nat) : State :=
  (s.sessOf i).waiting.foldl (fun s p =>
    let x := s.sessOf i
    if p.seq < x.peerEdge ∧ x.unacked.length < x.cwnd ∧ x.waiting.head? = some p then
      (s.setSess i { x with waiting := x.waiting.drop 1 }).sendFirst i p
    else s) s

/-- A reliable packet is queued with the next sequence and leaves when it may. A packet of AOT 3 that fills its epoch is followed by a
REKEY, and every later packet uses the next epoch (R321). -/
def State.sendSeq (s : State) (i typ flags tag gen off : Nat) (body : List Byte) : State :=
  let x := s.sessOf i
  let p : RelPkt := { seq := x.next, typ := typ, epoch := x.txEpoch, flags := flags, tag := tag, gen := gen, off := off, body := body }
  let k := s.rd AOT_REKEY_PKTS
  let x1 := { x with next := x.next + 1, waiting := x.waiting ++ [p], epochPkts := x.epochPkts + 1 }
  if x.version = 3 ∧ ¬ k = 0 ∧ 2 ^ k ≤ x1.epochPkts ∧ x.rekeySeq = none ∧ ¬ typ = 11 then
    let r : RelPkt := { seq := x1.next, typ := 9, epoch := x.txEpoch }
    let sec := nextSecret x.version x.txSecret
    let x2 := { x1 with
      next := x1.next + 1, waiting := x1.waiting ++ [r], rekeySeq := some x1.next, txEpoch := x.txEpoch + 1,
      txSecret := sec, epochPkts := 0 }
    ((s.setSess i x2).setGcm (gcmSlot i 1 (x.txEpoch + 1)) (some (epochKey x.version sec))).pump i
  else (s.setSess i x1).pump i

/-! ## Commands and completions -/

def State.updObj (s : State) (f : ObjState → ObjState) : State := { s with obj := f s.obj }

def State.cmdOf (s : State) (i tag : Nat) : Option Cmd := s.obj.cmds.find? (fun c => c.sess == i && c.tag == tag)

def State.updCmd (s : State) (i tag : Nat) (f : Cmd → Cmd) : State :=
  s.updObj (fun o => { o with cmds := o.cmds.map (fun c => if c.sess = i ∧ c.tag = tag then f c else c) })

def State.dropCmd (s : State) (i tag : Nat) : State :=
  s.updObj (fun o => { o with cmds := o.cmds.filter (fun c => !(c.sess == i && c.tag == tag)) })

def State.updTag (s : State) (i tag : Nat) (f : NTag → NTag) : State :=
  s.updSess i (fun x => { x with tags := upd x.tags tag (f (nth x.tags tag {})) })

/-- A list cut or padded with zeros to `n` bytes. -/
def padTo (n : Nat) (l : List Byte) : List Byte := l.take n ++ List.replicate (n - l.length) 0

/-- The completion block (Table 12-6). -/
def cplBlock (status flags retry : Nat) (aux result : List Byte) (ext : List (Nat × Nat)) : List Byte :=
  beBytes 2 status ++ beBytes 1 flags ++ beBytes 1 ext.length ++ beBytes 4 retry ++ padTo 8 aux ++ padTo 64 result
    ++ ext.flatMap (fun e => beBytes 8 (e.1 * 2 ^ 24 + e.2 % 2 ^ 24))

def stSUCCESS : Nat := 0x0000
def stINVALID_OPCODE : Nat := 0x0101
def stINVALID_FIELD : Nat := 0x0102
def stTAG_IN_USE : Nat := 0x0103
def stNOT_FOUND : Nat := 0x0201
def stEXISTS : Nat := 0x0202
def stRETENTION : Nat := 0x0203
def stHOLD : Nat := 0x0204
def stLOCKED : Nat := 0x0205
def stUNREC : Nat := 0x0301
def stWRITE_FAULT : Nat := 0x0302
def stFIXITY : Nat := 0x0303
def stBY_RESET : Nat := 0x0401
def stFOR_ACT : Nat := 0x0402
def stBY_HOST : Nat := 0x0403
def stBUSY : Nat := 0x0404
def stNOT_AUTH : Nat := 0x0501
def stCAPACITY : Nat := 0x0502
def stDEGRADED : Nat := 0x0602

/-- An object's key. -/
def objKey (v h : Nat) (o : Obj) : Bool := o.vault == v && o.handle == h

def State.objOf (s : State) (v h : Nat) : Option Obj := s.obj.objs.find? (objKey v h)

def State.updObjOf (s : State) (v h : Nat) (f : Obj → Obj) : State :=
  s.updObj (fun o => { o with objs := o.objs.map (fun x => if objKey v h x then f x else x) })

/-- Records that the 64 MiB of a journal mirror holds, one sector each (R181, R182). -/
def journalMax : Nat := 16384

/-- The journal mirror records an object's change of state (R182); the oldest record makes room. -/
def State.journalAdd (s : State) (o : Obj) (change : Nat) : State :=
  s.updObj (fun x => { x with journal :=
    (x.journal ++ [(o.vault, o.handle, o.incarn, change)]).drop (if journalMax ≤ x.journal.length then 1 else 0) })

/-- An object leaves the index: its sectors are dead, and groups that it alone held are free (R173, R185). -/
def State.dropObj (s : State) (v h : Nat) : State :=
  match s.objOf v h with
  | none => s
  | some o =>
    let s1 := (s.updObj (fun o => { o with objs := o.objs.filter (fun x => !(objKey v h x)) })).updLay o.tower (fun y =>
      (y.placesDie (h % 2 ^ 48) o.incarn).reclaim)
    if 2 ≤ o.st then s1.journalAdd o 3 else s1

/-! ## Raw sectors -/

/-- The bytes of a host stream that have come without a gap, by offset. -/
def assemble (l : List (Nat × List Byte)) : List Byte :=
  (sortBy (fun (a b : Nat × List Byte) => decide (a.1 ≤ b.1)) l).foldl (fun acc e => if e.1 = acc.length then acc ++ e.2 else acc) []

/-- The number in bytes o to o + n - 1 of the command block. -/
def Cmd.num (c : Cmd) (o n : Nat) : Nat := beNat ((c.block.drop o).take n)

/-- Sectors of a raw zone of head h (R376). -/
def LayState.rawZone (y : LayState) (h : Nat) (l : List Word) : Nat :=
  if dword l 0 31 1 = 1 ∧ dword l 0 28 3 = 2 then
    dword l 3 0 24 * zoneSpt l - (y.primary.filter (fun e => e.1 == h && decide (dword l 2 0 24 ≤ e.2.1)
      && decide (e.2.1 < dword l 2 0 24 + dword l 3 0 24) && decide (e.2.2 < zoneSpt l))).length
  else 0

/-- The raw sectors of a Tower: the raw zones of its heads, without the positions of the primary defect list (R376). -/
def State.rawCount (s : State) (t : Nat) : Nat :=
  let u := if t = 0 then Tower.A else Tower.B
  (List.range (s.rd (SRV_CFG_NHEADS u.idx))).foldl (fun n h =>
    (List.range 64).foldl (fun n z => n + (s.lay.get u).rawZone h (s.zoneWords u h z)) n) 0

/-- The first n sectors of a raw write reach the media. -/
def State.rawStore (s : State) (t lba n : Nat) (b : List Byte) : State :=
  s.updObj (fun x => { x with raw := (List.range n).foldl (fun r k =>
    (t, lba + k, (b.drop (4096 * k)).take 4096) :: r.filter (fun e => !(e.1 == t && e.2.1 == lba + k))) x.raw })

/-- A RAW_WRITE that stops early leaves some prefix of its sectors written; the manual does not bound it (R354). -/
def State.rawPrefix (s : State) (c : Cmd) : State :=
  if c.opcode = 0x12 ∧ c.started ∧ c.done = false then
    let b := assemble c.chunks
    s.drawn.rawStore (c.num 36 1) (c.num 40 8) (s.free % (b.length / 4096 + 1)) b
  else s

/-- What Table 12-10 leaves of a command that ends early: a RECEIVING PUT is discarded whole, an acknowledged one is kept, and a RAW_WRITE stops. -/
def State.stopCmd (s : State) (c : Cmd) : State :=
  if c.opcode = 1 ∧ c.acked = false then
    (match s.objOf c.vault c.handle with
      | some o => if o.st = 1 ∧ o.sess = c.sess ∧ o.tag = c.tag then s.dropObj c.vault c.handle else s
      | none => s)
  else s.rawPrefix c

/-- FW_ACTIVATE that drains goes on (Table 12-10). -/
def State.goesOn (s : State) (c : Cmd) : Bool := c.done || (c.opcode == 0x22 && s.obj.activating.isSome && c.started)

/-- The commands of a session that leaves OPEN end without a CPL (R362). -/
def State.stopCmds (s : State) (i : Nat) : State :=
  (s.obj.cmds.filter (fun c => c.sess == i && !s.goesOn c)).foldl (fun s c =>
    (s.stopCmd c).updCmd c.sess c.tag (fun d => { d with done := true })) s

/-- An OPEN session closes with a reason of Table 11-11: CLOSE is sent and its commands end. -/
def State.shut (s : State) (i reason : Nat) : State :=
  let x := s.sessOf i
  let s1 := s.sendSeq i 11 0 0 0 0 [BitVec.ofNat 8 reason]
  (s1.updSess i (fun y => { y with st := 3, closeSeq := some x.next })).stopCmds i

/-- A reliable packet is sent. With one sequence left the session closes with SEQ_EXHAUSTED instead, and CLOSE takes it (R323; that CLOSE uses the
last sequence is a DESIGN CHOICE, log entry 56). -/
def State.sendRel (s : State) (i typ flags tag gen off : Nat) (body : List Byte) : State :=
  if (s.sessOf i).next < 0xFFFFFFFF then s.sendSeq i typ flags tag gen off body
  else if (s.sessOf i).st = 2 then s.shut i 3
  else s

/-- A final CPL is sealed (R345): the tag becomes COMPLETING. None is sealed in a hold-up (R366); none is sent when the session is not
OPEN (R362). -/
def State.finish (s : State) (i tag status flags : Nat) (aux result : List Byte) (ext : List (Nat × Nat)) (retry : Nat := 0) : State :=
  if s.fwk.holdup then s
  else
    let x := s.sessOf i
    let s1 := s.updCmd i tag (fun c => { c with done := true })
    if x.st = 2 then
      let n := x.next
      let gen := ((s.cmdOf i tag).map (·.gen)).getD 0
      let s2 := s1.updTag i tag (fun t => { t with st := 2, cplSeq := n })
      s2.sendRel i 7 0 tag gen 0 (cplBlock status (flags + (1 - flags % 2)) retry aux result ext)
    else s1

/-- A final CPL without AUX, RESULT or extents. -/
def State.fail (s : State) (i tag status : Nat) : State := s.finish i tag status 0 [] [] []

/-- A CPL for a generation that takes no slot (TAG_IN_USE, BUSY_ACTIVATING on delivery, Table 11-9). -/
def State.sendStray (s : State) (i tag gen status retry : Nat) : State :=
  if s.fwk.holdup then s else s.sendRel i 7 0 tag gen 0 (cplBlock status 1 retry [] [] [])

/-- A command ends under Table 12-10 with a status, and with ACKED when its PUT had been acknowledged. -/
def State.endCmd (s : State) (c : Cmd) (status : Nat) : State :=
  if s.goesOn c then s else (s.stopCmd c).finish c.sess c.tag status (if c.acked then 32 else 0) [] [] []

/-- Every command of a session below a sequence ends (R361, R362). -/
def State.endCmds (s : State) (i below status : Nat) : State :=
  (s.obj.cmds.filter (fun c => c.sess == i && decide (c.seq < below))).foldl (fun s c => s.endCmd c status) s

/-! ## Closing (R324, Table 11-7) -/

/-- A session entry becomes FREE: its commands, slots and keys go; the entry counter stays. -/
def State.sessFree (s : State) (i : Nat) : State :=
  let x := s.sessOf i
  let s1 := (List.range 4).foldl (fun s k => s.setGcm (4 * i + k) none) s
  ((s1.updObj (fun o => { o with cmds := o.cmds.filter (fun c => !(c.sess == i)) })).setSess i { counter := x.counter }).aotIrq 27

/-- The AOT shut-down ends when every entry is FREE (R338). -/
def State.aotIdle (s : State) : State :=
  if s.aot.closingAll ∧ s.aot.sess.all (fun e => e.2.st == 0) then
    (s.updAot (fun a => { a with closingAll := false })).shutDone bAOT 0
  else s

/-- An OPEN session closes with a reason of Table 11-11; a HANDSHAKE entry becomes FREE at once (Table 11-12). -/
def State.sessClose (s : State) (i reason : Nat) : State :=
  if (s.sessOf i).st = 2 then (if reason = 1 then (s.shut i reason).aotCount 13 else s.shut i reason)
  else if (s.sessOf i).st = 1 then (s.sessFree i).aotIdle
  else s

/-! ## Receiving (Table 11-8) -/

/-- Step 9: the ACK, SACK and WINDOW fields. -/
def State.processAck (s : State) (i : Nat) (h : AotHdr) : State :=
  let x := s.sessOf i
  let sackSeqs := if x.version = 1 then [] else ((List.range 16).filter (fun b => h.sack / 2 ^ b % 2 == 1)).map (fun b => h.ack + 1 + b)
  let covered := fun (p : RelPkt) => decide (p.seq < h.ack) || sackSeqs.contains p.seq
  let got := x.unacked.filter covered
  let rest := x.unacked.filter (fun p => !covered p)
  let sample := (got.filter (fun p => p.resends == 0 && !p.sackResent)).getLast?
  let rtt := match sample with
    | none => x.rtt
    | some p =>
      let r := s.usNow - p.sentAt
      match x.rtt with
      | none => some (r, r / 2)
      | some (sr, rv) => some ((7 * sr + r) / 8, (3 * rv + (max sr r - min sr r)) / 4)
  let rto := match sample, rtt with
    | some _, some (sr, rv) => max (s.rd AOT_RTO_MIN) (min (s.rd AOT_RTO_MAX * 1000) (sr + 4 * rv))
    | _, _ => x.rto
  let n := x.cwndAcked + got.length
  let grow := decide (x.cwnd ≤ n)
  let later := fun (p : RelPkt) => (sackSeqs.filter (fun q => decide (p.seq < q))).length
  let lost := rest.filter (fun p => !p.sackResent && decide (3 ≤ later p) && decide (h.ack ≤ p.seq))
  let mayCut := !lost.isEmpty && x.cutAt.elim true (fun t => decide (t + x.rto ≤ s.usNow))
  let cwnd1 := if grow then min (atLeast1 (s.rd AOT_CWND_MAX)) (x.cwnd + 1) else x.cwnd
  let x1 := { x with
    unacked := rest.map (fun p => if lost.contains p then { p with sackResent := true } else p),
    rtt := rtt, rto := rto, cwndAcked := if grow then 0 else n,
    cwnd := if mayCut then max (cwnd1 / 2) 2 else cwnd1, cutAt := if mayCut then some s.usNow else x.cutAt,
    peerAck := max x.peerAck h.ack, peerEdge := max x.peerEdge (h.ack + h.window),
    rekeySeq := if x.rekeySeq.elim false (fun q => got.any (fun p => p.seq == q)) then none else x.rekeySeq,
    closeDone := x.closeDone || x.closeSeq.elim false (fun q => got.any (fun p => p.seq == q)) }
  let back := (List.range 32).filter (fun t =>
    let g := nth x.tags t {}
    g.st == 2 && got.any (fun p => p.seq == g.cplSeq))
  let s1 := back.foldl (fun s t => (s.updTag i t (fun g => { g with st := 0, last := g.live })).dropCmd i t)
    (s.setSess i x1)
  (lost.foldl (fun s p => s.resend i p) s1).pump i

/-- The reliable sequence checks, steps 5 to 7: 0 new, 1 replay, 2 too old, 3 beyond the edge (RWIN). -/
def Sess.window (x : Sess) (seq : Nat) : Nat :=
  let high := x.seen.foldl max 0
  let hasHigh := !x.seen.isEmpty
  if x.seen.contains seq || (decide (seq < x.ack) && decide (high ≤ seq + 1023)) then 1
  else if hasHigh && decide (seq + 1023 < high) then 2
  else if x.edge ≤ seq then 3
  else 0

/-- ACK after a recorded sequence: the next one not yet received. -/
def nextAck (seen : List Nat) : Nat → Nat → Nat
  | 0, a => a
  | f + 1, a => if seen.contains a then nextAck seen f (a + 1) else a

/-- Step 11: the sequence is recorded, HIGH rises, the session moves to the packet's source (R311), and the acknowledgement rules of
R328 apply. -/
def State.record (s : State) (i : Nat) (rx : Peer) (h : AotHdr) : State :=
  let x := s.sessOf i
  let high := x.seen.foldl max 0
  let raised := x.seen.isEmpty || decide (high < h.seq)
  let seen := h.seq :: x.seen
  let high1 := max high h.seq
  let a := nextAck seen 1025 x.ack
  let seen1 := seen.filter (fun q => decide (high1 ≤ q + 1023))
  let dropOld := x.rekeyAt.elim false (fun e => decide (e.2 < a))
  let n := x.sinceAck + 1
  let x1 := { x with
    seen := seen1, ack := a, sinceAck := n, delayOn := true, peer := if raised then rx else x.peer,
    rxHeld := if dropOld then x.rxHeld.filter (fun e => !(some e == x.rekeyAt.map (·.1))) else x.rxHeld,
    rekeyAt := if dropOld then none else x.rekeyAt }
  let now := h.flags % 2 == 1 || !(h.seq == x.ack) || decide (h.seq + 1 < a) || decide (atLeast1 (s.rd AOT_ACK_EVERY) ≤ n)
  if now then (s.setSess i x1).sendAck i else s.setSess i x1

/-- Step 1: PAYLOAD_LEN agrees with the UDP length, and the reserved fields are 0. -/
def hdrGood (h : AotHdr) (typ : Nat) (body : List Byte) : Bool :=
  h.plen == body.length && decide (h.flags < 4) && decide (h.tag < 32) && h.rsv == 0 && (typ == 5 || h.opcode == 0)

/-- The 32 bytes of a received header. -/
def hdrBytes (h : AotHdr) (typ : Nat) : List Byte :=
  aotHeader h.version typ h.flags h.epoch h.sid h.seq h.ack h.window h.plen h.tag h.gen h.opcode h.sack h.off

/-- Steps 1 to 9 of Table 11-8 for a packet of an open session; the plaintext when it passes. -/
def State.aotRx (s : State) (typ : Nat) (h : AotHdr) (body gtag : List Byte) : State × Option (Nat × List Byte) :=
  let i := h.sid % 4096
  let x := s.sessOf i
  let stream := if typ = 8 then 1 else 0
  if s.isOn bAOT 0 = false ∧ s.aot.closingAll = false then (s, none)
  else if s.engineUp (i % 16) = false then ((s.aotCount 11).aotIrq 22, none)
  else if hdrGood h typ body = false ∨ h.version = 0 ∨ 3 < h.version then (s.aotCount 0, none)
  else if x.st < 2 ∨ ¬ x.counter = h.sid / 4096 ∨ (x.st = 3 ∧ ¬ typ = 8 ∧ ¬ typ = 11) then (s.aotCount 1, none)
  else if ¬ h.version = x.version then (s.aotCount 0, none)
  else if x.rxHeld.contains h.epoch = false ∨ (stream = 0 ∧ x.rekeyAt.elim false (fun e => e.1 == h.epoch && decide (e.2 < h.seq))) then
    (s.aotCount 2, none)
  else
    let w := if typ = 8 then (if x.ackSeen.elim false (fun q => decide (h.seq ≤ q)) then 1 else 0) else x.window h.seq
    if w = 1 then
      -- a repeated CLOSE of a CLOSING session is acknowledged again (Table 11-7)
      (if x.st = 3 ∧ typ = 11 then (s.aotCount 3).sendAck i else s.aotCount 3, none)
    else if w = 2 then (s.aotCount 4, none)
    else if w = 3 then (s.aotCount 5, none)
    else match (s.gcmKey (gcmSlot i 0 h.epoch)).bind (fun k => gcmOpen k (aotNonce h.sid h.epoch stream h.seq) (hdrBytes h typ) body gtag) with
      | none => ((s.aotCount 6).aotIrq 23, none)
      | some pt => (s.processAck i h, some (i, pt))

/-! ## Frames (R305 to R310) -/

def State.ethCount (s : State) (p n : Nat) : State := s.bump (ETH_CNT_COUNT p n) 1

/-- One record enters the firmware receive ring, or is discarded by a full one (R336); whether it entered: kind 0 other frame, 1 HELLO, 2 AUTH plaintext. -/
def State.fwRx (s : State) (port kind i : Nat) (bytes : List Byte) : State × Bool :=
  let size := ringSize (s.rd AOT_FWRX_CFG_LOG2SIZE) 2 8 4
  let prod := s.rd AOT_FWRX_PROD_INDEX
  if (prod + 65536 - s.rd AOT_FWRX_CONS_INDEX) % 65536 = size then (s.aotIrq 25, false)
  else
    let d := port + bytes.length % 2 ^ 16 * 2 ^ 16 + kind * 2 ^ 32 + i * 2 ^ 48
    (((s.setBytes (s.rd AOT_FWRX_BASE_BASE / 64 * 64 + 10240 * (prod % size)) (leBytes 16 d ++ bytes)).wr AOT_FWRX_PROD_INDEX (prod + 1)).aotIrq 26,
      true)

/-- A frame that is not AOT, or a handshake packet, is handed to packet engine 0 or 8 by its port (R334). -/
def portEngine (p : Nat) : Nat := if p = 0 then 0 else 8

/-- A frame is handed to a packet engine under a descriptor address that the hardware chooses (free); one for an engine that is down is
discarded (R335). -/
def State.handTo (s : State) (e : Nat) : State :=
  if s.engineUp e then s.drawn.updAot (fun a => { a with rxq := a.rxq ++ [(e, s.free % 2 ^ 32)] })
  else (s.aotCount 11).aotIrq 22

/-- A frame goes to its port's packet engine; under the far-end loop-back nothing reaches it (Table 20-8). -/
def State.ethHand (s : State) (port : Nat) : State :=
  if (nth s.eth port {}).loopNow = 4 then s else s.handTo (portEngine port)

/-- What becomes of an IP packet for the port (R308 to R310): whether it goes on, and then to the ring. -/
def State.ipRx (s : State) (port : Nat) (frame : List Byte) (q : IpPacket) : State :=
  if q.icmp then (if q.asks then s.ethHand port else s.ethCount port 6)
  else if q.udpOk = false then s.ethCount port 6
  else if atBe q.load 2 2 = s.rd AOT_UDP_PORT then (if s.isOn bAOT 0 then s.ethHand port else s.ethCount port 6)
  else if atBe q.load 2 2 = 68 ∨ atBe q.load 2 2 = 546 then (s.fwRx port 0 0 frame).1
  else s.ethCount port 6

/-- R306 to R308, R310: a received frame, FCS included, is filtered; DHCP and LLDP frames go to the firmware receive ring. -/
def execEthFrameRx (port : Nat) (frame : List Byte) (s : State) : Out :=
  if 2 ≤ port ∨ s.isOn bETH port = false then .next s
  else
    let s1 := s.ethCount port 0
    let typ := frameType frame
    if fcsOk frame = false then .next (s1.ethCount port 2)
    else if frame.length < 64 ∨ s.maxFrame port + (if frameTagged frame then 4 else 0) < frame.length then .next (s1.ethCount port 3)
    else if isPause frame then .next (s1.ethCount port 5)
    else if s.vlanOk port (frameVid frame) = false ∨ s.dstOk port (frameDst frame) typ = false ∨ [etARP, etIP4, etIP6, etLLDP].contains typ = false then
      .next (s1.ethCount port 4)
    else if typ = etARP then .next (s1.ethHand port)
    else if typ = etLLDP then .next (s1.fwRx port 0 0 frame).1
    else match ipOf frame with
      | none => .next (s1.ethCount port 6)
      | some q => .next (if s.ipMine port q then s1.ipRx port frame q else s1.ethCount port 6)

/-- R305, R306: a port's link comes up in the mode in force, after auto-negotiation (which resolves the FEC `fec`) and training in a KR mode. -/
def execLinkUp (port fec : Nat) (s : State) : Out :=
  if 2 ≤ port ∨ s.isOn bETH port = false then .next s
  else
    let m := (nth s.eth port {}).modeNow
    .next (((((((s.wr (ETH_STAT_LINK port) 1).wb (ETH_STAT_SPEED port) (mode25 m)).wr (ETH_STAT_FEC_ACT port) (fecOf m (s.rd (ETH_CFG_FEC port)) fec)).wb
      (ETH_STAT_AN_DONE port) (modeKr m)).wb (ETH_STAT_LT_DONE port) (modeKr m && s.on (ETH_CFG_LT_EN port))).wr (ETH_STAT_BLOCK_LOCK port) 1).wr
      (ETH_STAT_HI_BER port) 0 |>.irq bETH port 0 28)

/-- The link bits of a port clear. -/
def State.linkOff (s : State) (p : Nat) : State :=
  ((((s.wr (ETH_STAT_LINK p) 0).wr (ETH_STAT_BLOCK_LOCK p) 0).wr (ETH_STAT_AN_DONE p) 0).wr (ETH_STAT_LT_DONE p) 0).wr (ETH_STAT_FEC_ACT p) 0

/-- R307: a port's link goes down on loss of block lock or high bit error rate; sessions keep their state. -/
def execLinkDown (port : Nat) (hiBer : Bool) (s : State) : Out :=
  if 2 ≤ port ∨ s.on (ETH_STAT_LINK port) = false then .next s
  else
    let s1 := (s.linkOff port).irq bETH port 0 27
    .next (if hiBer then (s1.wr (ETH_STAT_HI_BER port) 1).irq bETH port 0 25 else s1)

/-- The shut-down of a port (R307). -/
def State.ethStop (s : State) (p : Nat) : State := s.linkOff p

def State.ethStart (s : State) (p : Nat) : State :=
  { s with eth := upd s.eth p { nth s.eth p {} with modeNow := s.rd (ETH_CFG_MODE p), loopNow := s.rd (ETH_TEST_LOOP p) } }

/-- R309: an ARP request for one of the port's IPv4 addresses is answered. -/
def execArpRequest (port ip : Nat) (s : State) : Out :=
  if port < 2 ∧ s.isOn bETH port ∧ s.engineUp (portEngine port) ∧ (s.ip4s port).contains ip then .next (s.portTx port { typ := 16 })
  else .next s

/-- R309: a neighbour solicitation for one of the port's IPv6 addresses is answered. -/
def execNeighbourSolicitation (port ip : Nat) (s : State) : Out :=
  if port < 2 ∧ s.isOn bETH port ∧ s.engineUp (portEngine port) ∧ (s.ip6s port).contains ip then .next (s.portTx port { typ := 17 })
  else .next s

/-- R309: an echo request is answered up to ETH_ICMP.RATE per second, or discarded and counted. -/
def execEchoRequest (port : Nat) (v6 : Bool) (ip : Nat) (s : State) : Out :=
  if 2 ≤ port ∨ s.isOn bETH port = false ∨ s.engineUp (portEngine port) = false then .next s
  else
    let e := nth s.eth port {}
    let sec := s.usNow / 1000000
    let n := if e.echoSec = sec then e.echoN else 0
    if (if v6 then s.ip6s port else s.ip4s port).contains ip ∧ n < s.rd (ETH_ICMP_RATE port) then
      .next (({ s with eth := upd s.eth port { e with echoSec := sec, echoN := n + 1 } }).portTx port { typ := 18 })
    else .next (s.ethCount port 6)

/-- R337: the packet engine sends the next record of the firmware transmit ring and increments CONS. -/
def execFwtxSend (s : State) : Out :=
  let size := ringSize (s.rd AOT_FWTX_CFG_LOG2SIZE) 2 8 4
  let cons := s.rd AOT_FWTX_CONS_INDEX
  if s.rd AOT_FWTX_PROD_INDEX = cons ∨ s.isOn bAOT 0 = false then .next s
  else
    let a := s.rd AOT_FWTX_BASE_BASE / 64 * 64 + 10240 * (cons % size)
    let d := leNat (s.bytes a 16)
    let port := d % 2
    if s.engineUp (portEngine port) then
      .next ((s.wr AOT_FWTX_CONS_INDEX (cons + 1)).portTx port { typ := 19, wire := s.bytes (a + 16) (d / 2 ^ 16 % 2 ^ 16) })
    else .next s

/-! ## Handshake (R315 to R319, R333) -/

/-- A bucket after it has gained `rate` tokens per second up to `cap`. -/
def Bucket.gain (b : Bucket) (rate cap now : Nat) : Bucket :=
  { tokens := if b.fresh then cap * 1000000 else min (cap * 1000000) (b.tokens + rate * (now - b.since)), since := now, fresh := false }

def Bucket.spend (b : Bucket) : Bucket := { b with tokens := b.tokens - 1000000 }

/-- The rate check of R333: the state after it, and whether the HELLO passes. -/
def State.helloRate (s : State) (ip : Nat) : State × Bool :=
  let k := Config.srcHash ip % 1024
  let b := Bucket.gain (((s.aot.sources.find? (fun (e : Nat × Bucket) => e.1 == k)).map (fun e => e.2)).getD {}) (s.rd AOT_HELLO_RATE) (atLeast1 (s.rd AOT_HELLO_BURST)) s.usNow
  let g := s.aot.all.gain (s.rd AOT_HELLO_ALL) (s.rd AOT_HELLO_ALL) s.usNow
  let ok := decide (1000000 ≤ b.tokens) && decide (1000000 ≤ g.tokens)
  let b1 := if ok then b.spend else b
  let g1 := if ok then g.spend else g
  (s.updAot (fun a => { a with sources := (k, b1) :: a.sources.filter (fun e => !(e.1 == k)), all := g1 }), ok)

/-- A device-to-host handshake packet without a session goes to the source. -/
def State.sendClear (s : State) (rx : Peer) (typ : Nat) (body : List Byte) : State := s.portTx rx.port { typ := typ, wire := body }

/-- REJECT with its code (Table 11-3). -/
def State.sendReject (s : State) (rx : Peer) (code : Nat) : State := (s.aotCount 14).sendClear rx 12 [BitVec.ofNat 8 code]

/-- A cookie under a key (R319): over the source address in 16 bytes, the UDP port in two and HOST_RANDOM in 32 (DESIGN CHOICE, log entry 56). -/
def cookieOf (key : Nat) (rx : Peer) (random : Nat) : Nat := aesCmac key (beBytes 16 rx.ip ++ beBytes 2 rx.udp ++ beBytes 32 random)

/-- The highest version in both bitmaps (R315). -/
def versionOf (offered en : Nat) : Option Nat := [3, 2, 1].find? (fun v => offered / 2 ^ v % 2 == 1 && en / 2 ^ (v - 1) % 2 == 1)

/-- HS_MAX lies in 1 to 256. -/
def State.hsMax (s : State) : Nat := max 1 (min 256 (s.rd AOT_LIMITS_HS_MAX))

/-- The entry that a HELLO takes: a FREE one; which, the manual leaves to the device (the first from a free index on). -/
def State.freeEntry (s : State) : Option Nat :=
  ((List.range 4096).map (fun k => (s.free + k) % 4096)).find? (fun k => (s.sessOf k).st == 0)

/-- The entry counter after a FREE-to-HANDSHAKE transition (R320). -/
def nextCounter (c : Nat) : Nat := if (c + 1) % 2 ^ 20 = 0 then 1 else (c + 1) % 2 ^ 20

/-- The device's MAX_PAYLOAD (R314). -/
def State.maxPayload (s : State) : Nat := max 16 (min 128 (s.rd AOT_CFG_MAXPL)) * 64

/-- Fields of a HELLO payload (Table 11-5): 152 bytes with the reserved ones 0, a MAX_PAYLOAD that is allowed and a point of the curve. -/
def helloOk (b : List Byte) : Bool :=
  let m := atBe b 2 2
  b.length == 152 && atBe b 1 1 == 0 && atBe b 149 3 == 0 && (atBe b 0 1 == atBe b 0 1 % 16 / 2 * 2) && m % 64 == 0 && decide (1024 ≤ m)
    && decide (m ≤ 8192) && (ecPoint ((b.drop 36).take 97)).isSome

/-- A handshake message in parts of 1,344 bytes (R316). -/
def partsOf (b : List Byte) : List (List Byte) := chunks 1344 (b.length / 1344 + 1) b

/-- The packet of part `k` of `n`: a clear packet has version, epoch, sequence, ACK and WINDOW 0 and a tag of zeros (R313, R316). -/
def replyHeader (sid n k : Nat) (part : List Byte) : List Byte :=
  aotHeader 0 2 (if k + 1 = n then 2 else 0) 0 sid 0 0 0 part.length 0 0 0 0 (21 * k)

/-- HELLO_REPLY up to its signature (Table 11-5). -/
def State.replyHead (s : State) (version random : Nat) (point : List Byte) : List Byte :=
  beBytes 1 version ++ [0#8] ++ beBytes 2 s.maxPayload ++ beBytes 32 random ++ point ++ beBytes 2 s.dom.cert.length ++ s.dom.cert

/-- The parts of a kept HELLO_REPLY leave. -/
def State.sendReply (s : State) (rx : Peer) (i : Nat) : State :=
  (s.sessOf i).reply.foldl (fun s w => s.portTx rx.port { sess := some i, typ := 2, wire := w }) s

/-- A HELLO takes an entry: the Dome draws DEVICE_RANDOM, the ECDHE key and the secret of its signature, signs H1 and derives PRK and the AUTH key
(R316 to R318); HELLO_REPLY leaves in parts. -/
def State.takeEntry (s : State) (rx : Peer) (i v : Nat) (body : List Byte) : State :=
  let r := s.rand 256
  let e := r.2.rand 448
  let k := e.2.rand 448
  let random := (body.drop 4).take 32
  let d := ecPrivate e.1
  let head := s.replyHead v r.1 (ecPublic d)
  let sid := nextCounter (s.sessOf i).counter * 4096 + i
  let total := head.length + 96
  let n := (partsOf (List.replicate total 0#8)).length
  let script := body ++ replyHeader sid n 0 (List.replicate (min 1344 total) 0#8) ++ head
  let h1 := sha384 script
  let parts := partsOf (head ++ ecdsaSign (s.ramKey krDevice) (ecPrivate k.1) script)
  let prk := hkdfExtract (random ++ beBytes 32 r.1) ((ecdh d ((body.drop 36).take 97)).getD [])
  let x : Sess := {
    st := 1, version := v, counter := nextCounter (s.sessOf i).counter, peer := rx, random := beNat random,
    maxPl := min (atBe body 2 2) s.maxPayload, transcript := script, prk := prk
    reply := parts.zipIdx.map (fun e => replyHeader sid n e.2 e.1 ++ e.1 ++ List.replicate 16 0#8) }
  (((k.2.setSess i x).setGcm (gcmSlot i 0 0) (some (beNat (hkdfExpand prk (aotLabel v "hs h2d" ++ h1) 32)))).wr ⟨DOM_ST_RESULT, 12, 1⟩ 1).sendReply rx i

/-- R315, R318, R319, R333: a HELLO; `frame` is the frame that carries it. -/
def execHello (rx : Peer) (h : AotHdr) (body frame : List Byte) (s : State) : Out :=
  if s.isOn bAOT 0 = false ∨ s.aot.closingAll then .next s
  else if s.engineUp (portEngine rx.port) = false then .next ((s.aotCount 11).aotIrq 22)
  else if hdrGood h 0 body = false ∨ ¬ h.version = 0 then .next (s.aotCount 0)
  else
    let r := s.helloRate rx.ip
    if r.2 = false then .next ((r.1.aotCount 10).aotIrq 24)
    else
      let q := r.1.fwRx rx.port 1 0 frame
      let s1 := q.1
      let random := atBe body 4 32
      if q.2 = false then .next s1
      else if ¬ s.rd DOM_MSTATE_MSTATE = 1 then .next (s1.sendReject rx 2)
      else if helloOk body = false then .next (s1.sendReject rx 3)
      else match s1.aot.sess.find? (fun (e : Nat × Sess) => e.2.st == 1 && e.2.random == random && e.2.peer.ip == rx.ip && e.2.peer.udp == rx.udp
          && e.2.peer.port == rx.port) with
        | some e => .next (s1.sendReply rx e.1)
        | none =>
          let need := s.on AOT_CFG_COOKIE_ALWAYS || decide (s.rd AOT_LIMITS_COOKIE_AT < s.rd AOT_STAT_HANDSHAKE)
          let cookie := atBe body 133 16
          let good := cookie == cookieOf s.aot.cookieKey rx random || cookie == cookieOf s.aot.cookiePrev rx random
          if need && !good then .next (s1.sendClear rx 1 (beBytes 16 (cookieOf s.aot.cookieKey rx random)))
          else match versionOf (atBe body 0 1) (s.rd AOT_CFG_VER_EN) with
            | none => .next (s1.sendReject rx 1)
            | some v =>
              if s.hsMax ≤ s.rd AOT_STAT_HANDSHAKE then .next (s1.sendReject rx 2)
              else match s1.freeEntry with
                | none => .next (s1.sendReject rx 2)
                | some i => .next (s1.drawn.takeEntry rx i v body)

/-- The anchor that validates an AUTH message: its chain ends at the anchor, and its signature over SHA-384 of the transcript and the bytes before it
verifies under the leaf key (R383, Table 11-5). -/
def State.authAnchor (s : State) (x : Sess) (msg : List Byte) : Option Anchor :=
  let n := atBe msg 0 2
  if n ≤ 4096 ∧ msg.length = n + 98 then
    (certChain ((msg.drop 2).take n)).bind (fun l =>
      if ecdsaVerify ((l.head?.map (·.point)).getD []) (x.transcript ++ msg.take (n + 2)) (msg.drop (n + 2)) then
        s.dom.anchors.find? (fun a => (a.role == 1 || a.role == 2) && chainSigned l a.point)
      else none)
  else none

/-- An accepted AUTH: the role of the anchor and the keys of epoch 1 (R317, R382). -/
def State.authAccepted (s : State) (i : Nat) (a : Anchor) (msg : List Byte) : State :=
  let x := s.sessOf i
  let h2 := sha384 (x.transcript ++ msg)
  let h := hkdfExpand x.prk (aotLabel x.version "ts h2d" ++ h2) 48
  let d := hkdfExpand x.prk (aotLabel x.version "ts d2h" ++ h2) 48
  ((s.setSess i { x with
      role := a.role, anchor := a.slot, mask := a.mask, keysLoaded := true, rxSecret := h, txSecret := d, authParts := [] }).setGcm
    (gcmSlot i 0 1) (some (epochKey x.version h))).setGcm (gcmSlot i 1 1) (some (epochKey x.version d))

/-- The whole AUTH message, once every part up to the last one has come. -/
def Sess.authMsg (x : Sess) : Option (List Byte) :=
  x.authLast.bind (fun n => (List.range (n + 1)).foldl (fun (acc : Option (List Byte)) k =>
    acc.bind (fun l => (x.authParts.find? (fun e => e.1 == k)).map (fun e => l ++ e.2))) (some []))

/-- R316, R318, R324, R383: an AUTH part. It is decrypted with the handshake key and passed to firmware; with the last missing part comes the verdict
on the chain. A repeated AUTH of an OPEN session has AUTH_OK resent. -/
def execAuth (rx : Peer) (h : AotHdr) (body gtag : List Byte) (s : State) : Out :=
  let i := h.sid % 4096
  let x := s.sessOf i
  if s.isOn bAOT 0 = false then .next s
  else if s.engineUp (portEngine rx.port) = false then .next ((s.aotCount 11).aotIrq 22)
  else if hdrGood h 3 body = false ∨ ¬ h.version = 0 then .next (s.aotCount 0)
  else if ¬ x.counter = h.sid / 4096 ∨ x.st = 0 ∨ x.st = 3 then .next (s.aotCount 1)
  else if x.st = 2 then
    .next (match x.unacked.find? (fun p => p.typ == 4) with
      | some p => s.resend i p
      | none => s)
  else match (s.gcmKey (gcmSlot i 0 0)).bind (fun k => gcmOpen k (aotNonce h.sid h.epoch 0 h.seq) (hdrBytes h 3) body gtag) with
    | none => .next ((s.aotCount 6).aotIrq 23)
    | some pt =>
      let q := s.fwRx rx.port 2 i pt
      if q.2 = false then .next q.1
      else
        let x1 := { x with
          authParts := (h.seq, pt) :: x.authParts.filter (fun e => !(e.1 == h.seq)), authLast := if 2 ≤ h.flags then some h.seq else x.authLast }
        let s1 := q.1.setSess i x1
        match x1.authMsg with
        | none => .next s1
        | some m => match s.authAnchor x1 m with
          | some a => .next (s1.authAccepted i a m)
          | none => .next (((s1.sendReject rx 4).sessFree i).aotIdle)

/-- R337: AOT_SESS_CTL.OPEN on a HANDSHAKE entry whose keys are loaded: AUTH_OK is sent and the session is OPEN. -/
def State.sessOpen (s : State) (i : Nat) : State :=
  let x := s.sessOf i
  if x.st = 1 ∧ x.keysLoaded then
    ((s.setSess i { x with st := 2, cwnd := max 2 (s.rd AOT_CWND_INIT), edge := windowOf x.version }).aotIrq 28).sendRel i 4 0 0 0 0
      [BitVec.ofNat 8 x.role, 32, 0, 0]
  else s

/-- A write of AOT_SESS_CTL. -/
def State.sessCtl (s : State) (val : Word) : State :=
  let i := s.rd AOT_SESS_SEL_INDEX
  if fieldOf val 31 1 = 1 then s.sessClose i (fieldOf val 0 4)
  else if fieldOf val 30 1 = 1 then s.sessOpen i
  else s

/-- R337: a write of AOT_SESS_CTL.OPEN. -/
def execAotSessOpen (val : Word) (s : State) : Out :=
  .next (s.gated AOT_SESS_CTL (fun s => s.sessCtl (withField val 30 1 1)))

/-- R324: a write of AOT_SESS_CTL.CLOSE. -/
def execAotSessClose (val : Word) (s : State) : Out :=
  .next (s.gated AOT_SESS_CTL (fun s => s.sessCtl (withField val 31 1 1)))

/-- The Dome draws a new cookie key; the present one becomes the previous. -/
def State.newCookie (s : State) : State :=
  let r := s.rand 256
  r.2.updAot (fun a => { a with cookieKey := r.1, cookiePrev := a.cookieKey })

/-- R319, R396: the Dome replaces the cookie key with a fresh random one. -/
def execCookieKeyRotation (s : State) : Out := .next s.newCookie

/-! ## Packets of an open session -/

/-- The command reads or changes one object (R356). -/
def Cmd.onObject (c : Cmd) : Bool := [1, 2, 3, 4, 6, 7].contains c.opcode || (c.opcode == 9 && nth c.block 36 0 == 0#8)

/-- A command on the same object that was delivered earlier has not taken effect yet (R356); commands stand in the order of their delivery. -/
def State.behind (s : State) (c : Cmd) : Bool :=
  c.onObject && (s.obj.cmds.takeWhile (fun d => !(d.sess == c.sess && d.tag == c.tag))).any (fun d =>
    d.onObject && d.vault == c.vault && d.handle == c.handle && !d.done && !d.started)

/-- Whether a barrier of R355, or the order of R356, keeps a command from starting. -/
def State.blocked (s : State) (c : Cmd) : Bool :=
  s.behind c ||
  s.obj.cmds.any (fun d => d.sess == c.sess && !d.done && decide (d.seq < c.seq) && (d.cflags / 4 % 2 == 1 || c.cflags / 4 % 2 == 1))
    || (c.cflags / 4 % 2 == 1 && decide ((s.sessOf c.sess).ack ≤ c.seq))

/-- The fields of a command block (Table 12-2); VAULT_ID and the reserved byte follow CFLAGS. -/
def parseCmd (i : Nat) (h : AotHdr) (b : List Byte) : Cmd :=
  let at_ := fun (o n : Nat) => beNat ((b.drop o).take n)
  { sess := i, tag := h.tag % 32, gen := h.gen, opcode := h.opcode, seq := h.seq, cflags := at_ 0 2, vault := at_ 2 1,
    handle := at_ 4 16, offset := at_ 20 8, len := at_ 28 8, block := b,
    wellFormed := b.length == 128 && at_ 3 1 == 0 && at_ 0 2 / 128 == 0 }

/-- Opcodes of Table 12-3 and Table 13-5. -/
def opcodeListed (o : Nat) : Bool :=
  (1 ≤ o && o ≤ 0x0A) || (0x10 ≤ o && o ≤ 0x12) || (0x20 ≤ o && o ≤ 0x25) || (0x30 ≤ o && o ≤ 0x3A)

/-- A command is delivered (step 12): an unlisted opcode, an activation, a reset in progress or an earlier RESET ends it at once; a FLUSH
takes note of the PUTs it covers (R359). -/
def State.deliverCmd (s : State) (c : Cmd) : State :=
  let inScope := fun (o : Obj) => nth c.block 36 0 == 0#8 || o.vault == c.vault
  let covers := if c.opcode = 8 then (s.obj.objs.filter (fun o => o.st == 2 && inScope o)).map (fun o => (o.vault, o.handle)) else []
  let s0 := if [0x03, 0x05, 0x20, 0x24, 0x25].contains c.opcode then s else s.activity
  let s1 := s0.updObj (fun o => { o with cmds := o.cmds ++ [{ c with covers := covers }] })
  if s.obj.resetting then s1.fail c.sess c.tag stBY_RESET
  else if (s.sessOf c.sess).resetSeq.elim false (fun q => decide (c.seq < q)) then s1.fail c.sess c.tag stBY_RESET
  else match s.obj.activating with
    | some a => s1.finish c.sess c.tag stBUSY 0 [] [] [] a.2.2.2
    | none => if opcodeListed c.opcode then s1 else s1.fail c.sess c.tag stINVALID_OPCODE

/-- R331: tag handling of a CMD. -/
def execCmd (rx : Peer) (h : AotHdr) (body gtag : List Byte) (s : State) : Out :=
  match s.aotRx 5 h body gtag with
  | (s1, none) => .next s1
  | (s1, some (i, pt)) =>
    let x := s1.sessOf i
    let g := nth x.tags (h.tag % 32) {}
    let v1 := x.version == 1
    if g.st = 0 ∧ (v1 ∨ h.gen = (g.last + 1) % 65536) then
      if 8192 ≤ s1.obj.cmds.length then .next (s1.aotCount 9)
      else .next (((s1.updTag i (h.tag % 32) (fun t => { t with st := 1, live := h.gen })).record i rx h).deliverCmd (parseCmd i h pt))
    else if ¬ g.st = 0 ∧ (v1 ∨ h.gen = (g.live + 1) % 65536) then
      .next ((s1.record i rx h).sendStray i (h.tag % 32) h.gen stTAG_IN_USE 0)
    else .next ((s1.aotCount 7).record i rx h)

/-- The bytes of a DATA packet are placed at their offset. -/
def placeChunk (l : List (Nat × List Byte)) (off : Nat) (b : List Byte) : List (Nat × List Byte) :=
  (off, b) :: l.filter (fun e => !(e.1 == off))

/-- R331: a DATA packet from the host. -/
def execData (rx : Peer) (h : AotHdr) (body gtag : List Byte) (s : State) : Out :=
  match s.aotRx 6 h body gtag with
  | (s1, none) => .next s1
  | (s1, some (i, pt)) =>
    let x := s1.sessOf i
    let tag := h.tag % 32
    let g := nth x.tags tag {}
    let v1 := x.version == 1
    if g.st = 1 ∧ (v1 ∨ h.gen = g.live) then
      .next ((s1.updCmd i tag (fun c => { c with chunks := placeChunk c.chunks (h.off * 64) pt })).record i rx h)
    else if v1 = false ∧ g.st = 0 ∧ h.gen = (g.last + 1) % 65536 then .next (s1.aotCount 8)
    else .next ((s1.aotCount 7).record i rx h)

/-- R326: an ACK packet. ACK_NOW asks for an answer at once. -/
def execAck (_rx : Peer) (h : AotHdr) (body gtag : List Byte) (s : State) : Out :=
  match s.aotRx 8 h body gtag with
  | (s1, none) => .next s1
  | (s1, some (i, _)) =>
    let s2 := s1.updSess i (fun x => { x with ackSeen := some h.seq })
    .next (if h.flags % 2 = 1 then s2.sendAck i else s2)

/-- R322: a REKEY installs the key of the next epoch; AOT 1 and 2 acknowledge and discard it. -/
def execRekey (rx : Peer) (h : AotHdr) (body gtag : List Byte) (s : State) : Out :=
  match s.aotRx 9 h body gtag with
  | (s1, none) => .next s1
  | (s1, some (i, _)) =>
    let x := s1.sessOf i
    if ¬ x.version = 3 then .next ((s1.aotCount 0).record i rx h)
    else
      let sec := nextSecret x.version x.rxSecret
      let x1 := { x with
        rxHeld := (h.epoch + 1) :: x.rxHeld, rxEpoch := h.epoch + 1, rxSecret := sec, rekeyAt := some (h.epoch, h.seq) }
      .next (((s1.setSess i x1).setGcm (gcmSlot i 0 (h.epoch + 1)) (some (epochKey x.version sec))).record i rx h)

/-- R361: a RESET packet ends the session's earlier commands. -/
def execReset (rx : Peer) (h : AotHdr) (body gtag : List Byte) (s : State) : Out :=
  match s.aotRx 10 h body gtag with
  | (s1, none) => .next s1
  | (s1, some (i, _)) =>
    .next (((s1.record i rx h).updSess i (fun x => { x with resetSeq := some h.seq })).endCmds i h.seq stBY_RESET)

/-- R324: a CLOSE is acknowledged and the session moves to CLOSING. -/
def execClose (rx : Peer) (h : AotHdr) (body gtag : List Byte) (s : State) : Out :=
  match s.aotRx 11 h body gtag with
  | (s1, none) => .next s1
  | (s1, some (i, _)) =>
    let s2 := (s1.record i rx h).sendAck i
    .next (if (s2.sessOf i).st = 2 then
      (s2.updSess i (fun x => { x with st := 3, closeDone := true })).stopCmds i else s2)

/-! ## Timers -/

/-- R324: AOT_HS.TIMEOUT elapses in HANDSHAKE. The timers of a halted engine's sessions stand still (R335), here and below. -/
def execHsTimeout (i : Nat) (s : State) : Out :=
  .next (if (s.sessOf i).st = 1 ∧ s.engineUp (i % 16) then (s.sessFree i).aotIdle else s)

/-- R325: no authenticated packet for AOT_RETRY.IDLE seconds. -/
def execIdleTimeout (i : Nat) (s : State) : Out :=
  .next (if (s.sessOf i).st = 2 ∧ s.engineUp (i % 16) ∧ ¬ s.rd AOT_RETRY_IDLE = 0 then s.sessClose i 2 else s)

/-- R329: the retransmission timer expires. The timers of a halted engine's sessions stand still (R335). -/
def execRetransmitTimer (i : Nat) (s : State) : Out :=
  let x := s.sessOf i
  if s.engineUp (i % 16) = false then .next s
  else match x.unacked with
    | [] => .next s
    | p :: rest =>
      if atLeast1 (s.rd AOT_RETRY_MAX) ≤ p.resends + b2n p.sackResent then
        .next (if x.st = 2 then s.sessClose i 1 else s.setSess i { x with closeDone := true })
      else
        let cut := x.cutAt.elim true (fun t => decide (t + x.rto ≤ s.usNow))
        let x1 := { x with
          unacked := { p with resends := p.resends + 1 } :: rest, rto := min (s.rd AOT_RTO_MAX * 1000) (2 * x.rto),
          cwnd := if cut then max (x.cwnd / 2) 2 else x.cwnd, cutAt := if cut then some s.usNow else x.cutAt }
        .next (((s.setSess i x1).resend i p).updAot (fun a => { a with expired := a.expired ++ [i] }))

/-- R328: AOT_ACK.DELAY passes after an unacknowledged packet. -/
def execAckDelayTimer (i : Nat) (s : State) : Out :=
  let x := s.sessOf i
  .next (if x.delayOn ∧ 2 ≤ x.st ∧ s.engineUp (i % 16) then
    (s.sendAck i).updAot (fun a => { a with expired := a.expired ++ [i] }) else s)

/-- R324: the own CLOSE is acknowledged or retried out, and no CLOSE has come for the largest RTO. -/
def execClosingTimeout (i : Nat) (s : State) : Out :=
  .next (if (s.sessOf i).st = 3 ∧ s.engineUp (i % 16) ∧ (s.sessOf i).closeDone then (s.sessFree i).aotIdle else s)

/-! ## Start, shut-down and counts (R338) -/

/-- The AOT shut-down: every OPEN session closes with reason ADMIN. -/
def State.aotStop (s : State) : State :=
  let s1 := s.updAot (fun a => { a with closingAll := true })
  ((s1.aot.sess.filter (fun e => e.2.st == 2)).foldl (fun s e => s.sessClose e.1 6) s1).aotIdle

/-- R338: 2 s after the shut-down began, entries still not FREE are freed. -/
def execAotShutdownTimeout (s : State) : Out :=
  .next (if s.aot.closingAll then
    ((s.aot.sess.filter (fun e => !(e.2.st == 0))).foldl (fun s e => s.sessFree e.1) s).aotIdle else s)

/-- R306: a write of ETH_CNT_CLR. -/
def execEthCntClr (port : Nat) (val : Word) (s : State) : Out :=
  .next (s.gated (ETH_CNT_CLR port) (fun s =>
    if fieldOf val 0 1 = 1 then (List.range 10).foldl (fun s n => s.setReg (ETH_CNT port n) 0) s else s))

/-- R327: a write of AOT_CNT_CLR. -/
def execAotCntClr (val : Word) (s : State) : Out :=
  .next (s.gated AOT_CNT_CLR (fun s =>
    if fieldOf val 0 1 = 1 then (List.range 15).foldl (fun s n => s.setReg (AOT_CNT n) 0) s else s))

end Sys2Proof.Machine
end

