-- ==== Sys2Proof/Machine/Obj.lean ====
section
/-! DEFINITION. Object commands: the checks of Table 12-5, the life of an object, reading and listing, protection, flush, raw
zones, logs, firmware slots, power states and the failure of a Tower. -/

namespace Sys2Proof.Machine

/-! ## Fields of a command block (Tables 12-2 and 12-4) -/

/-- CFLAGS bit n. -/
def Cmd.flag (c : Cmd) (n : Nat) : Bool := c.cflags / 2 ^ n % 2 == 1

/-- CFLAGS bits that Table 12-4 names for an opcode, and BARRIER. -/
def cflagsMask (op : Nat) : Nat := 4 + (if op = 1 then 0x13 else if op = 2 then 0x68 else 0)

/-- The bytes of the command block that Table 12-4 and Table 13-5 name for a command: start and length. -/
def Cmd.ranges (c : Cmd) : List (Nat × Nat) :=
  let v := (2, 1)
  let h := (4, 16)
  let off := (20, 8)
  let len := (28, 8)
  let scope := c.num 36 1
  match c.opcode with
  | 0x01 => [v, h, len, (36, 41)]
  | 0x02 => [v, h, off, len]
  | 0x03 => [v, h]
  | 0x04 => [v, h]
  | 0x05 => [v, (36, 20)]
  | 0x06 => [v, h, (36, 8)]
  | 0x07 => [v, h, (36, 1), (40, 8)]
  | 0x08 => if scope = 1 then [v, (36, 1)] else [(36, 1)]
  | 0x09 => if scope = 0 then [v, h, (36, 2), (40, 17)] else [v, (36, 2), (40, 17)]
  | 0x0A => if scope = 1 then [v, (36, 1), (40, 17), (60, 4)] else [(36, 1), (40, 17), (60, 4)]
  | 0x11 => [len, (36, 1), (40, 8)]
  | 0x12 => [len, (36, 1), (40, 8)]
  | 0x20 => [(36, 2), (40, 12)]
  | 0x21 => [len, (36, 1)]
  | 0x22 => [(36, 1), (40, 8)]
  | 0x23 => [(36, 1), (40, 20)]
  | 0x25 => [(36, 1), (38, 2)]
  | 0x30 => [v, (36, 41)]
  | 0x31 => [v, (36, 32)]
  | 0x32 => [v]
  | 0x33 => [v]
  | 0x34 => [v, (36, 32)]
  | 0x35 => [v, (36, 8)]
  | 0x37 => [len]
  | 0x38 => [len, (36, 2)]
  | 0x3A => [(36, 8)]
  | _ => []

/-- Bytes that no range names are 0. -/
def Cmd.restZero (c : Cmd) : Bool :=
  (List.range 128).all (fun i => decide (i < 2) || nth c.block i 0 == 0#8 || c.ranges.any (fun r => decide (r.1 ≤ i) && decide (i < r.1 + r.2)))

/-- Every field lies in its range (Table 12-4, R340, R352, Table 13-5). -/
def Cmd.inRange (c : Cmd) : Bool :=
  let scope := c.num 36 1
  match c.opcode with
  | 0x01 => decide (1 ≤ c.len) && decide (c.len ≤ 2 ^ 38) && (scopeHint c) && !(c.handle == 0) && (c.flag 0 || !c.flag 1)
  | 0x05 => decide (1 ≤ c.num 52 4) && decide (c.num 52 4 ≤ 65536)
  | 0x07 => decide (scope ≤ 1) && !(c.num 40 8 == 0)
  | 0x08 => decide (scope ≤ 1)
  | 0x09 => decide (scope ≤ 2) && decide (c.num 37 1 ≤ 1)
  | 0x0A => decide (1 ≤ scope) && decide (scope ≤ 2) && decide (1 ≤ c.num 60 4) && decide (c.num 60 4 ≤ 1048576)
  | 0x11 => decide (scope ≤ 1) && c.len % 4096 == 0 && decide (c.len ≤ 2 ^ 30)
  | 0x12 => decide (scope ≤ 1) && c.len % 4096 == 0 && decide (c.len ≤ 2 ^ 30)
  | 0x20 => decide (1 ≤ scope) && decide (scope ≤ 5) && decide (c.num 37 1 ≤ 1)
  | 0x21 => decide (scope ≤ 1) && decide (c.len ≤ 3145728)
  | 0x22 => decide (scope ≤ 1)
  | 0x23 => decide (scope ≤ 5) || scope == 255
  | 0x25 => decide (scope ≤ 31)
  | 0x30 => decide (c.num 76 1 ≤ 1)
  | 0x37 => c.len == 144
  | 0x38 => decide (scope ≤ 7) && ((c.num 37 1 == 1 && c.len == 130) || (c.num 37 1 == 0 && c.len == 0))
  | 0x3A => c.num 36 8 == 0x5A45524F49534521
  | _ => true
where
  scopeHint (c : Cmd) : Bool := decide (c.num 76 1 ≤ 1) || c.num 76 1 == 255

/-- The command names the vault in its VAULT_ID. -/
def Cmd.namesVault (c : Cmd) : Bool :=
  let o := c.opcode
  o == 1 || o == 2 || o == 3 || o == 4 || o == 5 || o == 6 || o == 7 || (o == 8 && c.num 36 1 == 1) || (o == 9 && decide (c.num 36 1 ≤ 1))
    || (o == 10 && c.num 36 1 == 1) || (decide (0x30 ≤ o) && decide (o ≤ 0x35))

/-- The command names one object, and needs its Tower (check 6, R373). -/
def Cmd.needsTower (c : Cmd) : Bool :=
  let o := c.opcode
  o == 1 || o == 2 || o == 6 || o == 7 || (o == 9 && c.num 36 1 == 0)

/-- Crypto Officer only (Tables 12-3 and 13-5). -/
def Cmd.coOnly (c : Cmd) : Bool :=
  let o := c.opcode
  o == 0x12 || o == 0x21 || o == 0x22 || o == 0x23 || o == 0x30 || o == 0x34 || o == 0x35 || o == 0x37 || o == 0x38 || o == 0x39 || o == 0x3A
    || (o == 7 && c.num 36 1 == 0) || (o == 0x20 && c.num 37 1 == 1)

def State.vaultOf (s : State) (v : Nat) : Option Vault := s.dom.vaults.find? (fun x => x.id == v)

def State.towerFailed (s : State) (t : Tower) : Bool := match t with | .A => s.obj.failedA | .B => s.obj.failedB

/-- The role permits the command (R382, R384). -/
def State.roleOk (s : State) (c : Cmd) : Bool :=
  let x := s.sessOf c.sess
  x.role == 2 || (x.role == 1 && !c.coOnly && (!c.namesVault || x.mask / 2 ^ c.vault % 2 == 1))

/-- Checks 1 to 6 of Table 12-5: the status of the first that fails (R344). -/
def State.cmdCheck (s : State) (c : Cmd) : Option Nat :=
  let o := c.opcode
  if opcodeListed o = false then some stINVALID_OPCODE
  else if c.wellFormed = false ∨ ¬ Nat.land c.cflags (255 - cflagsMask o) = 0 ∨ c.restZero = false ∨ c.inRange = false then some stINVALID_FIELD
  else if s.roleOk c = false then some stNOT_AUTH
  else if c.namesVault ∧ ¬ o = 0x30 ∧ (s.vaultOf c.vault).isNone then some stNOT_FOUND
  else if c.namesVault ∧ ¬ o = 0x30 ∧ ¬ o = 0x31 ∧ ¬ o = 0x33 ∧ ¬ o = 0x34 ∧ (s.vaultOf c.vault).elim false (fun v => v.unlocked) = false then
    some stLOCKED
  else if c.needsTower ∧ (s.objOf c.vault c.handle).elim false (fun x => s.towerFailed x.tower) then some stDEGRADED
  else none

/-- Commands that need media, which wake the drive from PS2 to PS5 (R377). -/
def needsMedia (o : Nat) : Bool := [1, 2, 4, 6, 7, 8, 9, 0x11, 0x12].contains o

/-- A delivered command starts (R344, R355): it must be the one the step names, in an OPEN session, not behind a barrier, and not yet
ended; a command that waits goes on. The checks are made once, at its start. -/
def State.run (s : State) (i tag op : Nat) (f : Cmd → State → State) : Out :=
  match s.cmdOf i tag with
  | none => .next s
  | some c =>
    if ¬ c.opcode = op ∨ c.done ∨ ¬ (s.sessOf i).st = 2 ∨ s.blocked c then .next s
    else if c.started then .next (f c s)
    else
      let s0 := if needsMedia op ∧ 2 ≤ s.obj.pstate then s.updObj (fun o => { o with pstate := 0 }) else s
      let s1 := s0.updCmd i tag (fun c => { c with started := true })
      match s.cmdCheck c with
      | some st => .next (s1.fail i tag st)
      | none => .next (f { c with started := true } s1)

/-! ## Data streams -/

/-- DATA packets of the device's stream from byte offset `off` on: whole packets of the session's payload, the last one marked LAST (R314,
R348). -/
def State.sendChunks (s : State) (i tag gen mpl : Nat) : Nat → Nat → List Byte → State
  | 0, _, _ => s
  | fuel + 1, off, l =>
    if l.isEmpty then s
    else
      let rest := l.drop mpl
      (s.sendRel i 6 (if rest.isEmpty then 2 else 0) tag gen (off / 64) (l.take mpl)).sendChunks i tag gen mpl fuel (off + mpl) rest

def State.sendStream (s : State) (c : Cmd) (l : List Byte) : State :=
  if s.fwk.holdup then s else s.sendChunks c.sess c.tag c.gen (atLeast1 (s.sessOf c.sess).maxPl) (l.length + 1) 0 l

/-- The bytes received, with or without gaps. -/
def received (l : List (Nat × List Byte)) : Nat := l.foldl (fun n e => max n (e.1 + e.2.length)) 0

/-! ## Objects -/

/-- A Tower is DEGRADED while any of its heads is out of H (R372). -/
def State.degraded (s : State) (t : Tower) : Bool := decide ((s.activeHeads t).length < s.rd (SRV_CFG_NHEADS t.idx))

/-- HANDLE_FRAG. -/
def fragOf (h : Nat) : Nat := h % 2 ^ 48

/-- Sectors of an object. -/
def Obj.sectors (o : Obj) : Nat := (o.len + 4095) / 4096

/-- Every data sector of the object has passed verify: the band maps name them all (R351). -/
def State.onMedia (s : State) (o : Obj) : Bool :=
  (List.range o.sectors).all (fun k => ((s.lay.get o.tower).placeOf (fragOf o.handle) o.incarn k).isSome)

/-- Some sector of the object is parity-pending (R176); one that is not on media yet is. -/
def State.objPending (s : State) (o : Obj) : Bool := !s.onMedia o || (s.lay.get o.tower).objPending (fragOf o.handle) o.incarn

/-- CPL flags that state the object (R347). -/
def State.objFlags (s : State) (o : Obj) : Nat :=
  (if o.st = 3 then 2 else 0) + (if s.objPending o then 4 else 0) + (if s.degraded o.tower then 8 else 0)

/-- An object that GET, STAT and LIST see (Table 12-1). -/
def State.seen (s : State) (v h : Nat) : Option Obj := (s.objOf v h).bind (fun o => if 2 ≤ o.st then some o else none)

/-- Acknowledged and not durable. -/
def State.ackPending (s : State) : List Obj := s.obj.objs.filter (fun o => o.st == 2)

/-- OSTATE of Table 12-8. -/
def State.ostate (s : State) (o : Obj) : Nat :=
  (if o.st = 3 then 1 else 0) + (if s.objPending o then 2 else 0) + (if s.towerFailed o.tower then 4 else 0)

/-- Sort key: vault and handle. -/
def Obj.key (o : Obj) : Nat := o.vault * 2 ^ 128 + o.handle

def sortObjs (l : List Obj) : List Obj := sortBy (fun a b => decide (a.key ≤ b.key)) l

/-- The next START of a listing (Table 12-8): the first object that was not sent; with none, the manual states no value. -/
def State.nextStart (s : State) (rest : List Obj) : Nat := rest.head?.elim (s.free % 2 ^ 136) (·.key)

/-- Bytes free for new objects of a Tower (Table 12-15): the native capacity without the whole sectors of its objects. -/
def State.freeBytes (s : State) (t : Tower) : Nat :=
  s.capacity t - (s.obj.objs.filter (fun o => o.tower == t)).foldl (fun n o => n + 4096 * o.sectors) 0

/-- The INCARN that a new object takes: the one after the last given to its fragment, so that the pair does not repeat (R341). -/
def State.nextIncarn (s : State) (h : Nat) : Nat :=
  (s.obj.incarns.find? (fun e => e.1 == fragOf h)).elim 0 (fun e => e.2 + 1)

def Tower.ofIdx (n : Nat) : Tower := if n = 0 then .A else .B

/-- Where a PUT is placed (R373): the hint when it names a Tower that is not FAILED, else the device's choice among those that are not. -/
def State.place (s : State) (hint : Nat) (choice : Tower) : Option Tower :=
  let want := if hint ≤ 1 ∧ s.towerFailed (Tower.ofIdx hint) = false then Tower.ofIdx hint else choice
  if s.towerFailed want = false then some want else if s.towerFailed want.other = false then some want.other else none

/-- R340 to R342, R350, R373: PUT receives an object. A fragment that has had every INCARN takes no further object: the pair never repeats, and the manual
names no status for it (DESIGN CHOICE, log entry 55). -/
def execPut (i tag : Nat) (choice : Tower) (s : State) : Out :=
  s.run i tag 1 (fun c s =>
    if (s.cmdOf i tag).elim false (fun d => (s.objOf d.vault d.handle).elim false (fun o => o.st == 1 && o.sess == i && o.tag == tag && o.gen == d.gen))
    then s
    else if c.acked then s
    else if (s.objOf c.vault c.handle).isSome then s.fail i tag stEXISTS
    else match s.place (c.num 76 1) choice with
      | none => s.fail i tag stDEGRADED
      | some t =>
        if s.freeBytes t < c.len ∨ 65536 ≤ s.nextIncarn c.handle then s.fail i tag stCAPACITY
        else
          let n := s.nextIncarn c.handle
          let o : Obj := {
            vault := c.vault, handle := c.handle, st := 1, incarn := n, tower := t, len := c.len, retain := c.num 36 8,
            sess := i, sid := (s.sessOf i).sid i, tag := tag, gen := c.gen }
          s.updObj (fun x => { x with
            objs := x.objs ++ [o], incarns := (fragOf c.handle, n) :: x.incarns.filter (fun e => !(e.1 == fragOf c.handle)) }))

/-- What the end of reception of a PUT finds (R350): 0 not all bytes yet, 1 ready, 2 more DATA than LENGTH, 3 fixity mismatch. -/
def Cmd.putReady (c : Cmd) : Nat :=
  let b := assemble c.chunks
  if c.len < received c.chunks then 2
  else if ¬ b.length = c.len then 0
  else if ¬ c.num 44 32 = 0 ∧ ¬ sha256 b = (c.block.drop 44).take 32 then 3
  else 1

/-- RESULT of a PUT (Table 12-8). -/
def putResult (o : Obj) : List Byte := beBytes 8 o.len ++ beBytes 8 o.retain ++ o.sha

def towerAux (o : Obj) : List Byte := beBytes 1 o.tower.idx

/-- The object of a PUT as it stands after acknowledgement (R350, R369). -/
def State.ackObj (s : State) (c : Cmd) (o : Obj) : Obj :=
  let b := assemble c.chunks
  let least := s.dom.clock + (s.vaultOf c.vault).elim 0 (fun v => v.minRet)
  { o with st := 2, sha := sha256 b, bytes := [(0, b)], retain := max o.retain least, created := s.dom.clock }

/-- A PUT that cannot be acknowledged ends, its object discarded (R342). -/
def State.putFails (s : State) (c : Cmd) (status : Nat) : State := (s.dropObj c.vault c.handle).fail c.sess c.tag status

/-- The RECEIVING object of a running PUT. -/
def State.putObj (s : State) (c : Cmd) : Option Obj :=
  (s.objOf c.vault c.handle).bind (fun o => if o.st = 1 ∧ o.sess = c.sess ∧ o.tag = c.tag then some o else none)

/-- The interim CPL of a PUT with DURABLE and NOTIFY (R345). -/
def State.interim (s : State) (c : Cmd) (o : Obj) : State :=
  s.sendRel c.sess 7 0 c.tag c.gen 0 (cplBlock stSUCCESS (s.objFlags o) 0 (towerAux o) (putResult o) [])

/-- PARTIAL_PARITY records cover the open rows of a Tower (R175). -/
def State.coverTower (s : State) (t : Tower) : State := s.updLay t (fun y => { y with groups := y.groups.map (fun g => g.cover) })

/-- R345, R346, R350, R366, R369: a PUT is acknowledged with its first CPL that reports SUCCESS. -/
def execPutAcknowledged (i tag : Nat) (s : State) : Out :=
  match s.cmdOf i tag with
  | none => .next s
  | some c => match s.putObj c with
    | none => .next s
    | some o =>
      if ¬ c.opcode = 1 ∨ c.started = false ∨ c.done ∨ c.acked ∨ c.putReady = 0 ∨ s.fwk.holdup then .next s
      else if c.putReady = 2 then .next (s.putFails c stINVALID_FIELD)
      else if c.putReady = 3 then .next (s.putFails c stFIXITY)
      else if (c.flag 0 ∧ c.flag 4 = false) ∨ 126 ≤ s.ackPending.length then .next s
      else
        let o1 := s.ackObj c o
        let s1 := ((s.updObjOf c.vault c.handle (fun _ => o1)).journalAdd o1 1).updCmd i tag (fun c => { c with acked := true })
        if c.flag 0 then .next (s1.interim c o1)
        else .next (s1.finish i tag stSUCCESS (s1.objFlags o1) (towerAux o1) (putResult o1) [])

/-- R350 to R352: an object becomes durable once its sectors are on media and its index entry is on both copies of each Tower. A PUT in reception is
acknowledged in that instant when its data is in; the final CPL of a PUT with DURABLE is sealed then. DURABLE_PARITY covers the open rows first, and
its final CPL waits until nothing is pending. -/
def execPutDurable (vault handle : Nat) (s : State) : Out :=
  match s.objOf vault handle with
  | none => .next s
  | some o =>
    if s.onMedia o = false then .next s
    else match s.obj.cmds.find? (fun c => c.opcode == 1 && c.vault == vault && c.handle == handle && c.sess == o.sess && c.tag == o.tag && c.gen == o.gen) with
      | none => .next (if o.st = 2 then (s.updObjOf vault handle (fun o => { o with st := 3 })).journalAdd o 2 else s)
      | some c =>
        let s0 := if c.flag 1 then s.coverTower o.tower else s
        let o1 := { (if o.st = 1 then s.ackObj c o else o) with st := 3 }
        let s1 := (s0.updObjOf vault handle (fun _ => o1)).journalAdd o1 2
        let ready := !c.flag 1 || !s1.objPending o1
        let fin := fun (s : State) =>
          (s.updCmd c.sess c.tag (fun c => { c with acked := true })).finish c.sess c.tag stSUCCESS (s.objFlags o1 + (if c.acked then 32 else 0))
            (towerAux o1) (putResult o1) []
        if o.st = 1 then
          if c.started ∧ c.done = false ∧ c.putReady = 1 ∧ s.fwk.holdup = false then
            if c.flag 0 ∧ c.flag 4 then (if ready then .next (fin (s1.interim c o1)) else .next (s1.interim c o1 |>.updCmd c.sess c.tag (fun c => { c with acked := true })))
            else if ready then .next (fin s1)
            else .next s0
          else .next s
        else if c.done = false ∧ c.flag 0 ∧ c.acked ∧ ready then .next (fin (if o.st = 3 then s0 else s1))
        else .next (if o.st = 3 then s0 else s1)

/-! ## Reading -/

/-- Bytes with unrecovered sectors as zeros; `unrec` gives first sector and count, `size` the bytes of a sector (R349). -/
def zeroSectors (size base : Nat) (unrec : List (Nat × Nat)) (l : List Byte) : List Byte :=
  l.zipIdx.map (fun e =>
    let k := (base + e.2) / size
    if unrec.any (fun u => decide (u.1 ≤ k) && decide (k < u.1 + u.2)) then 0#8 else e.1)

/-- Ascending sector numbers as extents, adjacent ones merged. -/
def merged (l : List Nat) : List (Nat × Nat) :=
  l.foldr (fun i acc => match acc with
    | [] => [(i, 1)]
    | (a, n) :: r => if a = i + 1 then (i, n + 1) :: r else (i, 1) :: acc) []

/-- The extent list of R277 for a range that ends before sector `last`: at most 255 extents; when more would be needed the 255th runs to the end of
the range and flag TRUNCATED is set. -/
def extents (unrec : List (Nat × Nat)) (last : Nat) : List (Nat × Nat) × Nat :=
  if 255 < unrec.length then (unrec.take 254 ++ [((nth unrec 254 (0, 0)).1, last - (nth unrec 254 (0, 0)).1)], 16) else (unrec, 0)

/-- The unrecovered sectors of bytes `off` to `off + n - 1` of an object: those that its group cannot give (R178), and those whose reads failed, as
`found` tells. -/
def State.unrecovered (s : State) (o : Obj) (off n : Nat) (found : List (Nat × Nat)) : List (Nat × Nat) :=
  let bad := fun (k : Nat) => found.any (fun u => decide (u.1 ≤ k) && decide (k < u.1 + u.2))
    || ((s.lay.get o.tower).placeOf (fragOf o.handle) o.incarn k).elim false (fun p => s.placeRead o.tower p == 2)
  merged (((List.range ((off + n + 4095) / 4096 - off / 4096)).map (· + off / 4096)).filter bad)

/-- The bytes that an object holds from `off` on. -/
def Obj.read (o : Obj) (off n : Nat) : List Byte := ((assemble o.bytes).drop off).take n

/-- R178, R277, R349, R357: GET; `unrec` names the sectors whose reads fail on every allowed step, by first SECT_IDX and count. -/
def execGet (i tag : Nat) (unrec : List (Nat × Nat)) (s : State) : Out :=
  s.run i tag 2 (fun c s =>
    match s.seen c.vault c.handle with
    | none => s.fail i tag stNOT_FOUND
    | some o =>
      let n := if c.len = 0 then o.len - c.offset else c.len
      if o.len < c.offset + n ∨ o.len < c.offset ∨ (c.flag 3 ∧ ¬ (c.offset = 0 ∧ n = o.len)) then s.fail i tag stINVALID_FIELD
      else
        let lost := s.unrecovered o c.offset n unrec
        let b := zeroSectors 4096 c.offset lost (o.read c.offset n)
        let x := extents lost ((c.offset + n + 4095) / 4096)
        let bad := c.flag 3 && !(sha256 b == o.sha)
        let st := if bad then stFIXITY else if lost.isEmpty then stSUCCESS else stUNREC
        (s.sendStream c b).finish i tag st (s.objFlags o + x.2) (beBytes 8 n) (beBytes 8 o.len ++ o.sha) x.1)

/-- R347, R373: STAT. -/
def execStat (i tag : Nat) (s : State) : Out :=
  s.run i tag 3 (fun c s =>
    match s.seen c.vault c.handle with
    | none => s.fail i tag stNOT_FOUND
    | some o => s.finish i tag stSUCCESS (s.objFlags o) (beBytes 1 o.tower.idx ++ beBytes 1 o.holds.length ++ beBytes 1 (s.ostate o))
        (beBytes 8 o.len ++ beBytes 8 o.retain ++ beBytes 8 o.created ++ o.sha) [])

/-- R347, R373: LIST. -/
def execList (i tag : Nat) (s : State) : Out :=
  s.run i tag 5 (fun c s =>
    let all := sortObjs (s.obj.objs.filter (fun o => decide (2 ≤ o.st) && o.vault == c.vault && decide (c.num 36 16 ≤ o.handle)))
    let n := c.num 52 4
    let sent := all.take n
    let rest := all.drop n
    (s.drawn.sendStream c (sent.flatMap (fun o => Config.listRecord o.vault o.handle (s.ostate o)))).finish i tag stSUCCESS 0
      (beBytes 4 sent.length ++ beBytes 1 (b2n (!rest.isEmpty))) (beBytes 17 (s.nextStart rest)) [])

/-! ## Retention and holds (R353, R369 to R371) -/

/-- R353, R356, R370: DELETE; `written` tells whether the changed index passed verify on both copies of each Tower. -/
def execDelete (i tag : Nat) (written : Bool) (s : State) : Out :=
  s.run i tag 4 (fun c s =>
    match s.seen c.vault c.handle with
    | none => s.fail i tag stNOT_FOUND
    | some o =>
      if o.holds.isEmpty = false then s.fail i tag stHOLD
      else if s.dom.clock < o.retain then s.fail i tag stRETENTION
      else if written = false then s.fail i tag stWRITE_FAULT
      else (s.dropObj c.vault c.handle).finish i tag stSUCCESS 2 [] [] [])

/-- R353, R371: SET_RETENTION; `written` as for DELETE. -/
def execSetRetention (i tag : Nat) (written : Bool) (s : State) : Out :=
  s.run i tag 6 (fun c s =>
    match s.seen c.vault c.handle with
    | none => s.fail i tag stNOT_FOUND
    | some o =>
      let v := c.num 36 8
      if v < o.retain then s.fail i tag stRETENTION
      else if written = false then s.fail i tag stWRITE_FAULT
      else (s.updObjOf c.vault c.handle (fun o => { o with retain := v })).finish i tag stSUCCESS 2 []
        (beBytes 8 o.retain ++ beBytes 8 v ++ beBytes 8 s.dom.clock) [])

/-- R353, R371: LEGAL_HOLD; `written` as for DELETE. -/
def execLegalHold (i tag : Nat) (written : Bool) (s : State) : Out :=
  s.run i tag 7 (fun c s =>
    match s.seen c.vault c.handle with
    | none => s.fail i tag stNOT_FOUND
    | some o =>
      let id := c.num 40 8
      let put := fun (l : List Nat) => if written = false then s.fail i tag stWRITE_FAULT else (s.updObjOf c.vault c.handle (fun o => { o with holds := l })).finish i tag stSUCCESS 2
        (beBytes 1 l.length) [] []
      if c.num 36 1 = 1 then
        if o.holds.contains id then s.finish i tag stSUCCESS 2 (beBytes 1 o.holds.length) [] [] else if 8 ≤ o.holds.length then s.fail i tag stCAPACITY else put (o.holds ++ [id])
      else if o.holds.contains id then put (removeN id o.holds) else s.fail i tag stNOT_FOUND)

/-! ## Flush (R359, R360) -/

/-- PARTIAL_PARITY records cover the open rows of both Towers (R175). -/
def State.coverRows (s : State) : State := (s.coverTower .A).coverTower .B

/-- An object that a FLUSH waits for: it is not durable yet, or parity-pending (R359). A DATA_DONE row takes no record and is waited for (Table
06-10). -/
def State.unsafe_ (s : State) (o : Obj) : Bool := o.st == 2 || (o.st == 3 && s.objPending o)

/-- R359, R360: FLUSH completes when every covered object is durable and not parity-pending. -/
def execFlush (i tag : Nat) (s : State) : Out :=
  s.run i tag 8 (fun c s =>
    let s1 := s.coverRows
    if c.covers.any (fun e => s.obj.lost.any (fun l => l.cause == 3 && l.vault == e.1 && l.handle == e.2)) then s1.fail i tag stWRITE_FAULT
    else if c.covers.any (fun e => (s1.objOf e.1 e.2).elim false s1.unsafe_) then s1
    else s1.finish i tag stSUCCESS 2 (beBytes 4 c.covers.length) [] [])

/-! ## Audit and export (R374, R375) -/

/-- Objects in the scope of an AUDIT or an EXPORT_MANIFEST, ascending, from START. -/
def State.scoped (s : State) (c : Cmd) (scope start : Nat) : List Obj :=
  sortObjs (s.obj.objs.filter (fun o => decide (2 ≤ o.st) && (scope == 2 || o.vault == c.vault) && (!(scope == 0) || o.handle == c.handle)
    && (scope == 0 || decide (start ≤ o.key))))

/-- One AUDIT record: KIND, vault, handle and count. -/
def auditRec (a : AuditIn) (parity : Bool) : List Byte :=
  let k := if a.mismatch then (1, 1) else if 0 < a.unrec then (2, a.unrec) else (3, a.rewritten)
  if a.mismatch || decide (0 < a.unrec) || (parity && decide (0 < a.rewritten)) then
    padTo 64 (beBytes 1 k.1 ++ beBytes 1 a.vault ++ beBytes 16 a.handle ++ beBytes 4 k.2)
  else []

/-- Sectors of an extent list. -/
def extentSum (l : List (Nat × Nat)) : Nat := l.foldl (fun n e => n + e.2) 0

/-- R374: AUDIT; `found` holds what its reads find. -/
def execAudit (i tag : Nat) (found : List AuditIn) (s : State) : Out :=
  s.run i tag 9 (fun c s =>
    let all := s.scoped c (c.num 36 1) (c.num 40 17)
    if c.num 36 1 = 0 ∧ all.isEmpty then s.fail i tag stNOT_FOUND
    else if all.any (fun o => s.towerFailed o.tower) then s.fail i tag stDEGRADED
    else
      let parity := c.num 37 1 == 1
      let mine := all.filterMap (fun o => (found.find? (fun a => a.vault == o.vault && a.handle == o.handle)).map (fun a =>
        { a with unrec := max a.unrec (extentSum (s.unrecovered o 0 o.len [])) }))
      let mis := mine.filter (fun a => a.mismatch)
      let unr := mine.foldl (fun n a => n + a.unrec) 0
      let rew := if parity then mine.foldl (fun n a => n + a.rewritten) 0 else 0
      let st := if mis.isEmpty = false then stFIXITY else if 0 < unr then stUNREC else stSUCCESS
      (s.drawn.sendStream c (mine.flatMap (fun a => auditRec a parity))).finish i tag st 0 (beBytes 8 all.length)
        (beBytes 8 (all.foldl (fun n o => n + o.len) 0) ++ beBytes 4 mis.length ++ beBytes 4 unr ++ beBytes 4 rew ++ beBytes 17 (s.nextStart [])) [])

/-- An object record of a manifest (Table 12-14). -/
def manifestRec (o : Obj) : List Byte :=
  padTo 128 (beBytes 1 1 ++ beBytes 1 o.vault ++ beBytes 1 o.tower.idx ++ beBytes 1 o.holds.length ++ beBytes 16 o.handle ++ beBytes 8 o.len
    ++ beBytes 8 o.retain ++ beBytes 8 o.created ++ padTo 32 o.sha ++ beBytes 2 o.incarn)

/-- R375: EXPORT_MANIFEST. -/
def execExportManifest (i tag : Nat) (s : State) : Out :=
  s.run i tag 10 (fun c s =>
    let all := (s.scoped c (c.num 36 1) (c.num 40 17)).filter (fun o => o.st == 3)
    let n := c.num 60 4
    let sent := all.take n
    let rest := all.drop n
    let recs := sent.flatMap manifestRec
    let next := beBytes 17 (s.nextStart rest)
    let head := [0xFF#8, 0#8, 0#8, BitVec.ofNat 8 (b2n (!rest.isEmpty))] ++ beBytes 4 sent.length ++ next ++ List.replicate 7 0#8
    let k := s.rand 448
    (k.2.drawn.sendStream c (recs ++ head ++ ecdsaSign (s.ramKey krDevice) (ecPrivate k.1) (recs ++ head))).finish i tag stSUCCESS 0
      (beBytes 4 sent.length ++ beBytes 1 (b2n (!rest.isEmpty))) next [])

/-! ## Raw zones (R376, R354) -/

/-- One raw sector: what was written last, or the zeros of a sector nothing has written (log entry 31). -/
def State.rawSector (s : State) (t lba : Nat) : List Byte :=
  (s.obj.raw.find? (fun e => e.1 == t && e.2.1 == lba)).elim (List.replicate 4096 0#8) (fun e => e.2.2)

/-- R376: RAW_INFO. -/
def execRawInfo (i tag : Nat) (s : State) : Out :=
  s.run i tag 0x10 (fun _ s => s.finish i tag stSUCCESS 0 [] (beBytes 8 (s.rawCount 0) ++ beBytes 8 (s.rawCount 1)) [])

/-- R376: RAW_READ. -/
def execRawRead (i tag : Nat) (unrec : List (Nat × Nat)) (s : State) : Out :=
  s.run i tag 0x11 (fun c s =>
    let t := c.num 36 1
    let lba := c.num 40 8
    let n := c.len / 4096
    if s.rawCount t < lba + n then s.fail i tag stINVALID_FIELD
    else
      let b := zeroSectors 4096 0 unrec ((List.range n).flatMap (fun k => s.rawSector t (lba + k)))
      let x := extents (merged ((List.range n).filter (fun k => unrec.any (fun u => decide (u.1 ≤ k) && decide (k < u.1 + u.2))))) n
      (s.sendStream c b).finish i tag (if x.1.isEmpty then stSUCCESS else stUNREC) x.2 (beBytes 8 n) [] x.1)

/-- R354: RAW_WRITE, once its DATA is in; a write fault leaves a prefix written, which the manual does not bound. -/
def execRawWrite (i tag : Nat) (verified : Bool) (s : State) : Out :=
  s.run i tag 0x12 (fun c s =>
    let t := c.num 36 1
    let lba := c.num 40 8
    let n := c.len / 4096
    let b := assemble c.chunks
    if s.rawCount t < lba + n then s.fail i tag stINVALID_FIELD
    else if b.length < c.len then s
    else if verified then (s.rawStore t lba n b).finish i tag stSUCCESS 2 (beBytes 8 n) [] []
    else (s.drawn.rawStore t lba (s.free % (n + 1)) b).finish i tag stWRITE_FAULT 0 (beBytes 8 (s.free % (n + 1))) [] [])

/-! ## Logs (R368, Table 12-12) -/

/-- The lost-write report (Table 12-13). -/
def lostEntry (l : Lost) : List Byte :=
  padTo 64 (beBytes 1 l.cause ++ beBytes 1 l.vault ++ beBytes 1 l.tower.idx ++ [0#8] ++ beBytes 16 l.handle ++ beBytes 2 l.incarn ++ beBytes 2 l.gen
    ++ beBytes 8 l.len ++ beBytes 4 l.sid ++ beBytes 1 l.tag)

def State.lostReport (s : State) : List Byte :=
  padTo 64 (beBytes 4 s.obj.lostBoot ++ beBytes 1 s.obj.lostSource ++ beBytes 1 (b2n s.obj.summaryMissing) ++ beBytes 2 s.obj.lost.length
    ++ beBytes 8 s.obj.lostClock) ++ s.obj.lost.flatMap lostEntry

/-- The records of the event store at or above a SEQ, ascending (R533). -/
def State.evrRecords (s : State) (start : Nat) : List (Nat × List Byte) :=
  sortBy (fun (a b : Nat × List Byte) => decide (a.1 ≤ b.1)) ((List.range 4096).filterMap (fun k =>
    if ¬ s.slotCode k = 0 ∧ start ≤ s.slotSeq k then some (s.slotSeq k, s.bytes (s.evrSlot k) 64) else none))

/-- An entry of page 5: the payload of a ladder record and its time stamp. -/
def ladderEntry (b : List Byte) : List Byte := padTo 64 ((b.drop 16).take 40 ++ (b.drop 8).take 8)

/-- The entries of a log page, each with its START number. -/
def State.logPage (s : State) (page start : Nat) : List (Nat × List Byte) :=
  let number := fun (l : List (List Byte)) => (l.zipIdx.map (fun e => (e.2, e.1))).filter (fun e => decide (start ≤ e.1))
  if page = 1 then (((0, s.lostReport.take 64) :: (s.obj.lost.zipIdx.map (fun e => (e.2 + 1, lostEntry e.1)))))
  else if page = 2 then s.evrRecords start
  else if page = 3 then number ((List.range 32).map (fun k => leBytes 64 (Config.freeNat (s.freeCount + 1 + k))))
  else if page = 4 then number ((sortObjs (s.obj.objs.filter (fun o => decide (2 ≤ o.st) && s.towerFailed o.tower))).map (fun o =>
    padTo 64 (beBytes 1 o.vault ++ beBytes 16 o.handle ++ beBytes 8 o.len)))
  else ((s.evrRecords start).filter (fun e => leNat (e.2.take 2) / 256 == 8)).map (fun e => (e.1, ladderEntry e.2))

/-- R368, R533: GET_LOG. A Crypto Officer's CLEAR empties the lost-write report (page 1) or the event store (page 2) after sending. -/
def execGetLog (i tag : Nat) (s : State) : Out :=
  s.run i tag 0x20 (fun c s =>
    let page := c.num 36 1
    let all := s.logPage page (c.num 40 8)
    let n := c.num 48 4
    let sent := if page = 1 then all else all.take n
    let rest := if page = 1 then [] else all.drop n
    let s1 := if page = 3 then { s with freeCount := s.freeCount + 33 } else s.drawn
    let s2 := if page = 1 ∧ c.num 37 1 = 1 then s1.updObj (fun x => { x with lost := [], summaryMissing := false, lostSource := 0 }) else s1
    let s3 := s2.sendStream c (sent.flatMap (·.2))
    (if page = 2 ∧ c.num 37 1 = 1 then s3.evrClear true true else s3).finish i tag stSUCCESS 0 (beBytes 4 (if page = 1 then s.obj.lost.length else sent.length))
      (beBytes 8 (rest.head?.elim (s.free % 2 ^ 64) (·.1))) [])

/-! ## Firmware (R365, R399 to R401) -/

/-- The NOR address of firmware slot n (Table 13-2). -/
def fwSlotAddr (n : Nat) : Nat := 0x01000000 + n * 0x300000

/-- A header follows Table 13-8; its fields are sent most significant byte first (DEDUCED from R544, log entry 57). -/
def headerOk (b : List Byte) : Bool :=
  beNat (b.take 4) == 0x49475631 && decide (beNat ((b.drop 4).take 4) ≤ 0x300000 - 160) && decide (byteAt b 12 < 4)
    && ((b.drop 14).take 2).all (· == 0#8) && ((b.drop 16).take 32).all (fun x => decide (x.toNat < 128)) && ((b.drop 48).take 16).all (· == 0#8)

/-- An image, its bytes from the header on, is valid (R399). -/
def State.imageOk (s : State) (b : List Byte) : Bool :=
  let len := beNat ((b.drop 4).take 4)
  let key := byteAt b 12
  headerOk b && decide (160 + len ≤ b.length) && decide (s.dom.svnMin ≤ beNat ((b.drop 8).take 4))
    && s.rd DOM_FUSE_KEYS_VALID / 2 ^ key % 2 == 1 && s.rd DOM_FUSE_KEYS_REVOKED / 2 ^ key % 2 == 0
    && ecdsaVerify (Config.rootPoint key) (b.take 64 ++ (b.drop 160).take len) ((b.drop 64).take 96)

/-- `n` bytes of a slot from `o` on. -/
def State.slotBytes (s : State) (k o n : Nat) : List Byte := s.norBytes (fwSlotAddr k + o) n

/-- The image in a slot is valid and has no failed mark (R399, R400). -/
def State.slotOk (s : State) (k : Nat) : Bool :=
  !nth s.dom.fwFailed k false && headerOk (s.slotBytes k 0 160) && s.imageOk (s.slotBytes k 0 (160 + beNat (s.slotBytes k 4 4)))

/-- A slot is erased and programmed (R400); `failed` is the mark it keeps. -/
def State.slotStore (s : State) (k : Nat) (b : List Byte) (failed : Bool) : State :=
  let s1 := ((List.range 48).foldl (fun (s : State) j => s.eraseWhole (48 * k + j)) s).norStore (fwSlotAddr k) b
  { s1 with dom := { s1.dom with fwFailed := upd s1.dom.fwFailed k failed } }

/-- R400: FW_DOWNLOAD, once its last byte has arrived. -/
def execFwDownload (i tag : Nat) (s : State) : Out :=
  s.run i tag 0x21 (fun c s =>
    let b := (assemble c.chunks).take c.len
    if b.length < c.len then s
    else
      let ok := s.imageOk b
      let s1 := s.slotStore (c.num 36 1) b (!ok)
      if ok then s1.finish i tag stSUCCESS 2 [] ((b.drop 16).take 32) [] else s1.fail i tag stNOT_AUTH)

/-! ## Clock records (R392, R393) -/

/-- The boot sector that takes the next clock record: the ring fills sectors 2 to 5 with 256 records each. -/
def State.recSector (s : State) : Nat := 2 + s.dom.recSeq / 256 % 4

/-- The Dome writes a clock record of the value `v` (R392), with the volatile protection of its sector clear until CLOCK_RECORD_DONE (R400); `tok` names
the command of a token. While a record is in programming the next one waits. In ERROR the clock key is gone, and no record is written (DEDUCED, log
entry 57). -/
def State.recBegin (s : State) (v : Nat) (tok : Option (Nat × Nat)) : State :=
  if s.rd DOM_MSTATE_MSTATE = 2 then s
  else if s.dom.recBusy.isSome then { s with dom := { s.dom with recAgain := true } }
  else ({ s with dom := { s.dom with recBusy := some (v, tok) } } : State).wr ⟨FLS_BOOT_WP, s.recSector, 1⟩ 0

/-! ## Activation (R365) -/

/-- R365: FW_ACTIVATE. The first step begins the activation; later ones go on once the running commands have drained and every acknowledged
object is durable and covered. -/
def execFwActivate (i tag : Nat) (s : State) : Out :=
  s.run i tag 0x22 (fun c s =>
    let n := c.num 36 1
    if s.obj.activating = none then
      if s.slotOk n = false then s.fail i tag stINVALID_FIELD
      else
        let retry := if c.num 44 4 = 0 then 1000 else c.num 44 4
        s.updObj (fun x => { x with activating := some (i, tag, n, retry) })
    else if s.obj.cmds.any (fun d => !d.done && !(d.sess == i && d.tag == tag)) then s
    else
      let s1 := s.coverRows
      if s1.obj.objs.any s1.unsafe_ then s1
      else
        let s2 := { (s1.updObj (fun x => { x with activating := none })) with dom := { s.dom with bootSlot := n, running := n } }
        let s3 := s2.recBegin s.dom.clock none
        let versions := leNat (s.slotBytes n 13 1)
        let gone := s.aot.sess.filter (fun e => e.2.st == 2 && versions / 2 ^ e.2.version % 2 == 0)
        let s4 := gone.foldl (fun s e => s.sessClose e.1 4) s3
        s4.finish i tag stSUCCESS 2 [] (s.slotBytes n 16 32) [])

/-- R365: DRAIN_MS elapses; commands still running end with ABORTED_FOR_ACTIVATION. -/
def execActivationDrainTimeout (s : State) : Out :=
  .next (match s.obj.activating with
    | none => s
    | some a => (s.obj.cmds.filter (fun c => !c.done && !(c.sess == a.1 && c.tag == a.2.1))).foldl (fun s c => s.endCmd c stFOR_ACT) s)

/-! ## Power states, identity, abort -/

/-- R377: SET_POWER. -/
def execSetPower (i tag : Nat) (s : State) : Out :=
  s.run i tag 0x23 (fun c s =>
    let st := c.num 36 1
    let idle := s.obj.idle.zipIdx.map (fun e => let v := c.num (40 + 4 * e.2) 4; if v = 0xFFFFFFFF then e.1 else v)
    let s0 := idle.zipIdx.foldl (fun (s : State) (e : Nat × Nat) => s.wr (PWR_IDLE_MS e.2) e.1) s
    let s1 := s0.updObj (fun x => { x with idle := idle, pstate := if st = 255 then x.pstate else st })
    s1.finish i tag stSUCCESS 0 (beBytes 1 s1.obj.pstate) [] [])

/-- The state of a Tower in IDENTIFY (Table 12-15). -/
def State.towerState (s : State) (t : Tower) : Nat := if s.towerFailed t then 2 else if s.degraded t then 1 else 0

/-- IDENTIFY data (Table 12-15). FW_REV is 8 bytes of the running version string. -/
def State.identifyData (s : State) : List Byte :=
  padTo 512 (padTo 16 s.obj.model ++ padTo 16 s.obj.serial ++ List.replicate 4 0#8 ++ s.slotBytes s.dom.running 16 8 ++ beBytes 2 0x4820 ++ beBytes 1 0xB0
    ++ beBytes 1 (2 * s.rd AOT_CFG_VER_EN) ++ beBytes 8 (s.capacity .A + s.capacity .B) ++ beBytes 8 (s.freeBytes .A)
    ++ beBytes 8 (s.freeBytes .B) ++ beBytes 1 (s.towerState .A) ++ beBytes 1 (s.towerState .B) ++ beBytes 1 (s.activeHeads .A).length
    ++ beBytes 1 (s.activeHeads .B).length ++ beBytes 1 s.obj.k ++ beBytes 1 s.obj.m ++ beBytes 2 (rowSize s.obj.rowSectors) ++ beBytes 2 4096 ++ beBytes 2 8192
    ++ beBytes 1 32 ++ beBytes 1 126 ++ beBytes 2 s.maxPayload ++ beBytes 8 (2 ^ 38) ++ beBytes 8 s.dom.clock ++ beBytes 2 256
    ++ beBytes 1 s.obj.pstate ++ [0#8] ++ [0, 1, 600, 6000, 25000, 30000].flatMap (beBytes 4) ++ s.obj.idle.flatMap (beBytes 4)
    ++ beBytes 4 3145728 ++ beBytes 1 s.dom.running
    ++ beBytes 1 (b2n (s.on DOM_MSTATE_APPROVED) + 2 * b2n (!s.obj.lost.isEmpty) + 4 * b2n s.obj.summaryMissing) ++ [0#8, 0#8]
    ++ beBytes 8 (s.rawCount 0) ++ beBytes 8 (s.rawCount 1))

/-- R378: IDENTIFY. -/
def execIdentify (i tag : Nat) (s : State) : Out :=
  s.run i tag 0x24 (fun c s => (s.sendStream c s.identifyData).finish i tag stSUCCESS 0 [] [] [])

/-- R358: ABORT. -/
def execAbort (i tag : Nat) (s : State) : Out :=
  s.run i tag 0x25 (fun c s =>
    match s.cmdOf i (c.num 36 1) with
    | none => s.fail i tag stNOT_FOUND
    | some d =>
      if d.done ∨ ¬ d.gen = c.num 38 2 ∨ d.tag = tag then s.fail i tag stNOT_FOUND
      else (s.endCmd d stBY_HOST).finish i tag stSUCCESS 0 [] [] [])

/-! ## Failures (R360, R367, R372, R373) -/

def lostOf (cause : Nat) (o : Obj) : Lost :=
  { cause := cause, vault := o.vault, tower := o.tower, handle := o.handle, incarn := o.incarn, gen := o.gen, len := o.len, sid := o.sid,
    tag := o.tag }

/-- An acknowledged object leaves a Tower that cannot take it: it is placed again on the other one, or, when neither can take it, it is lost, and its PUT ends
WRITE_FAULT (R360, Table 12-7). -/
def State.moveObj (s : State) (o : Obj) : State :=
  if s.towerFailed o.tower.other then
    let s1 := (s.dropObj o.vault o.handle).updObj (fun x => { x with lost := x.lost ++ [lostOf 3 o] })
    match s.obj.cmds.find? (fun c => c.opcode == 1 && c.vault == o.vault && c.handle == o.handle && c.sess == o.sess && c.tag == o.tag && !c.done) with
    | some c => s1.finish c.sess c.tag stWRITE_FAULT 32 [] [] []
    | none => s1
  else (s.updObjOf o.vault o.handle (fun o => { o with tower := o.tower.other })).updLay o.tower (fun y =>
    (y.placesDie (fragOf o.handle) o.incarn).reclaim)

/-- R360, R372, R373: firmware takes a Tower out of service. Acknowledged objects go to the other Tower, or are lost when neither can take
them; PUTs in reception end DEGRADED_TOWER. -/
def execTowerFailed (t : Tower) (s : State) : Out :=
  let s1 := s.updObj (fun x => match t with | .A => { x with failedA := true } | .B => { x with failedB := true })
  let s2 := (s.ackPending.filter (fun o => o.tower == t)).foldl (fun s o => s.moveObj o) s1
  let puts := s.obj.cmds.filter (fun c => c.opcode == 1 && !c.done && (s.putObj c).elim false (fun o => o.tower == t))
  .next (puts.foldl (fun s c => s.putFails c stDEGRADED) s2)

/-- The rows in progress are closed under Table 06-7, with parity computed from what is on media; their groups take no more data (R183, R189). -/
def LayState.closeRows (y : LayState) : LayState :=
  { y with groups := y.groups.map (fun g =>
      if g.rows.any (fun e => rowActive e.2) then
        { (g.rows.filter (fun e => rowActive e.2)).foldl (fun g e => g.rowStep e.1 .closed) g with closed := true }
      else g) }

/-- The objects that a power loss or a reset leaves neither durable nor kept go: those in reception, and the acknowledged ones, which the summary or the
journal mirror names (R342, R367). -/
def State.dropLost (s : State) : State := (s.obj.objs.filter (fun o => !(o.st == 3))).foldl (fun s o => s.dropObj o.vault o.handle) s

/-- The NOR summary is copied into the journal mirror before its area is used again (R182). -/
def State.sumCopy (s : State) : State := if s.obj.summary then s.ackPending.foldl (fun s o => s.journalAdd o 4) s else s

/-- R182, R183, R366, R367: at restart after a loss, firmware builds the lost-write report from the summary and the journal mirror and closes the rows
in progress. -/
def execPowerLossRestart (s : State) : Out :=
  if s.obj.lossPending = false then .next s
  else
    let s0 := s.sumCopy
    let named := fun (o : Obj) => s0.obj.journal.any (fun e => e.1 == o.vault && e.2.1 == o.handle && e.2.2.1 == o.incarn)
    let lost := (s.ackPending.filter named).map (lostOf 1)
    let s1 := if s.obj.deferred then s0.updObj (fun x => { x with lossPending := false, deferred := false })
      else s0.updObj (fun x => { x with
        lossPending := false, summary := false, sumDraft := false, lost := lost, summaryMissing := !x.summary, lostSource := 2 + b2n x.summary,
        lostBoot := s.rd EVR_BOOT_BOOT, lostClock := s.dom.clock })
    .next ((s1.dropLost.updLay .A LayState.closeRows).updLay .B LayState.closeRows)

end Sys2Proof.Machine
end

