-- ==== Sys2Proof/Machine/Dom.lean ====
section
/-! DEFINITION. Dome security module: vault services, the retention clock and its records, tokens, anchors, self-tests, zeroisation and
the key bus. -/

namespace Sys2Proof.Machine

def State.updDom (s : State) (f : DomState → DomState) : State := { s with dom := f s.dom }
def State.domIrq (s : State) (bit : Nat) : State := s.irq bDOM 0 0 bit

/-! ## Keys (R385 to R387) -/

/-- A slot of a Tower's XTS engine takes a key, or is cleared. -/
def State.setXts (s : State) (t : Tower) (n : Nat) (k : Option Nat) : State :=
  let l := (s.keys.xts.get t).filter (fun e => !(e.1 == n))
  { s with keys := { s.keys with xts := s.keys.xts.set t (k.elim l (fun v => (n, v) :: l)) } }

def State.setXtsBoth (s : State) (n : Nat) (k : Option Nat) : State := (s.setXts .A n k).setXts .B n k

/-- A sector of a running write or read run of the Tower uses the slot (R387). The slot of a sector in decode stands in its metadata, which
is not known before the decode, so a running read counts for every slot (log entry 33). -/
def State.xtsBusy (s : State) (t : Tower) (n : Nat) : Bool :=
  let w := match (s.twr.get t).run with
    | none => false
    | some r => !r.ended && (List.range (r.count - r.cur)).any (fun k =>
        let md := s.bytes (r.meta_ + 16 * (r.cur + k)) 16
        let typ := byteAt md 14 % 16
        !(typ == 5) && xtsSlot 3 typ (byteAt md 13) == n)
  let c := s.chn.get t
  w || !c.caps.isEmpty || c.normal.isSome || c.verify.isSome || c.replay.isSome || !c.crcs.isEmpty

/-! ## Vault services (R388 to R390) -/

def State.updVault (s : State) (v : Nat) (f : Vault → Vault) : State :=
  s.updDom (fun d => { d with vaults := d.vaults.map (fun x => if x.id = v then f x else x) })

/-- The unlock secret of a command, empty when all its bytes are zero (Table 13-5). -/
def Cmd.secret (c : Cmd) : List Byte := if c.num 36 32 = 0 then [] else beBytes 32 (c.num 36 32)

/-- The media key of a vault under a secret; none when the integrity check of AES-KW fails (R389). -/
def State.unwrap (s : State) (x : Vault) (secret : List Byte) : Option Nat := kwUnwrap (vwkOf (s.ramKey krKek) x.salt x.id secret) 8 x.wrapped

/-- The vault is unlocked and its media key loaded in both Towers. -/
def State.vaultOpen (s : State) (v key : Nat) : State := (s.updVault v (fun y => { y with unlocked := true })).setXtsBoth v (some key)

/-- A new vault under KEK_DEV `kek`: its salt of 32 bytes and its media key are drawn, and the key wrapped (Table 13-4). -/
def State.newVault (s : State) (kek v : Nat) (secret : List Byte) : Vault × Nat × State :=
  let salt := s.rand 256
  let key := salt.2.rand 512
  ({ id := v, hasSecret := !secret.isEmpty, salt := salt.1, wrapped := kwWrap (vwkOf kek salt.1 v secret) 8 key.1 }, key.1, key.2)

/-- VAULT_CREATE. -/
def execVaultCreate (i tag : Nat) (s : State) : Out :=
  s.run i tag 0x30 (fun c s =>
    if (s.vaultOf c.vault).isSome then s.fail i tag stEXISTS
    else
      let n := s.newVault (s.ramKey krKek) c.vault c.secret
      let s1 := n.2.2.updDom (fun d => { d with
        vaults := d.vaults ++ [{ n.1 with compliance := c.num 76 1 == 1, minRet := c.num 68 8 }] })
      (if c.secret.isEmpty then s1.vaultOpen c.vault n.2.1 else s1).finish i tag stSUCCESS 2 [] [] [])

/-- R389: VAULT_UNLOCK. -/
def execVaultUnlock (i tag : Nat) (s : State) : Out :=
  s.run i tag 0x31 (fun c s => match s.vaultOf c.vault with
    | none => s.fail i tag stNOT_FOUND
    | some x =>
      if x.unlocked then s.finish i tag stSUCCESS 0 [] [] []
      else match s.unwrap x c.secret with
        | none => s.fail i tag stNOT_AUTH
        | some key => (s.vaultOpen x.id key).finish i tag stSUCCESS 0 [] [] [])

/-- Steps 1 to 3 of R390: the vault is LOCKED for later checks; true once its commands have drained and its acknowledged objects are durable
and covered. -/
def State.vaultQuiet (s : State) (c : Cmd) : State × Bool :=
  let s1 := s.updVault c.vault (fun x => { x with unlocked := false, closing := some (x.closing.getD x.unlocked) })
  let running := s.obj.cmds.any (fun d => d.started && !d.done && d.namesVault && d.vault == c.vault && !(d.sess == c.sess && d.tag == c.tag))
  let s2 := s1.coverRows
  (s2, !running && !s2.obj.objs.any (fun o => o.vault == c.vault && s2.unsafe_ o) && !s.xtsBusy .A c.vault && !s.xtsBusy .B c.vault)

/-- R390: VAULT_LOCK. -/
def execVaultLock (i tag : Nat) (s : State) : Out :=
  s.run i tag 0x32 (fun c s =>
    let r := s.vaultQuiet c
    if r.2 then ((r.1.setXtsBoth c.vault none).updVault c.vault (fun x => { x with closing := none })).finish i tag stSUCCESS 0 [] [] []
    else r.1)

/-- VAULT_INFO. -/
def execVaultInfo (i tag : Nat) (s : State) : Out :=
  s.run i tag 0x33 (fun c s => match s.vaultOf c.vault with
    | none => s.fail i tag stNOT_FOUND
    | some x =>
      let mine := s.obj.objs.filter (fun o => o.vault == c.vault && decide (2 ≤ o.st))
      s.finish i tag stSUCCESS 0 (beBytes 1 (b2n x.unlocked + 2 * b2n x.compliance + 4 * b2n x.hasSecret))
        (beBytes 8 x.minRet ++ beBytes 8 mine.length ++ beBytes 8 (mine.foldl (fun n o => n + o.len) 0)) [])

/-- A refused erase leaves the vault as it was before the wait: open again with its key when it was unlocked. -/
def State.vaultBack (s : State) (x : Vault) (key : Nat) : State :=
  let s1 := s.updVault x.id (fun y => { y with closing := none })
  if x.closing.getD x.unlocked then s1.vaultOpen x.id key else s1

/-- The erase itself once the vault is known and its key unwrapped: it waits for the vault to be quiet, and a hold or a retention that
has not ended refuses it. -/
def State.vaultErase (s : State) (i tag : Nat) (c : Cmd) (x : Vault) (key : Nat) : State :=
  let r := s.vaultQuiet c
  if r.2 = false then r.1
  else
    let s1 := r.1.setXtsBoth c.vault none
    let mine := s.obj.objs.filter (fun o => o.vault == c.vault)
    if mine.any (fun o => !o.holds.isEmpty) then (s1.vaultBack x key).fail i tag stHOLD
    else if mine.any (fun o => decide (s.dom.clock < o.retain)) then (s1.vaultBack x key).fail i tag stRETENTION
    else
      let drop := fun (y : LayState) => { y with groups := y.groups.filter (fun g => !(g.vault == c.vault)) }
      let s2 := s1.updDom (fun d => { d with vaults := d.vaults.filter (fun y => !(y.id == c.vault)) })
      let s3 := mine.foldl (fun (s : State) o => s.dropObj o.vault o.handle) s2
      ((s3.updLay .A drop).updLay .B drop).finish i tag stSUCCESS 2 [] [] []

/-- The erase with what the secret unwraps. -/
def State.vaultEraseWith (s : State) (i tag : Nat) (c : Cmd) (x : Vault) (key : Option Nat) : State :=
  match key with
  | none => s.fail i tag stNOT_AUTH
  | some k => s.vaultErase i tag c x k

/-- R390: VAULT_ERASE. -/
def execVaultErase (i tag : Nat) (s : State) : Out :=
  s.run i tag 0x34 (fun c s => match s.vaultOf c.vault with
    | none => s.fail i tag stNOT_FOUND
    | some x => s.vaultEraseWith i tag c x (s.unwrap x c.secret))

/-- VAULT_SET_MIN. -/
def execVaultSetMin (i tag : Nat) (s : State) : Out :=
  s.run i tag 0x35 (fun c s => match s.vaultOf c.vault with
    | none => s.fail i tag stNOT_FOUND
    | some x =>
      if x.compliance ∧ c.num 36 8 < x.minRet then s.fail i tag stRETENTION
      else (s.updVault c.vault (fun y => { y with minRet := c.num 36 8 })).finish i tag stSUCCESS 2 [] [] [])

/-! ## Retention clock (R391 to R394) -/

/-- TIME_QUERY: the clock and a fresh nonce. -/
def execTimeQuery (i tag : Nat) (s : State) : Out :=
  s.run i tag 0x36 (fun _ s =>
    let n := s.rand 128
    (n.2.updDom (fun d => { d with nonce := some (n.1, s.dom.clock) })).finish i tag stSUCCESS 0 []
      (beBytes 8 s.dom.clock ++ beBytes 16 n.1) [])

/-- R394: TIME_TOKEN. The checks; a token that passes is accepted when its clock record completes. -/
def execTimeToken (i tag : Nat) (s : State) : Out :=
  s.run i tag 0x37 (fun c s =>
    let b := assemble c.chunks
    if b.length < 144 ∨ s.dom.recBusy.isSome then s
    else
      let at_ := fun (o n : Nat) => beNat ((b.drop o).take n)
      let target := at_ 8 8
      if (s.dom.anchors.any (fun a => a.role == 3 && ecdsaVerify a.point (b.take 48) (b.drop 48))) = false then s.fail i tag stNOT_AUTH
      else if ¬ at_ 0 1 = 1 ∨ ¬ at_ 1 7 = 0 ∨ s.dom.nonce.elim true (fun e => !(e.1 == at_ 16 16) || decide (e.2 + 300 < s.dom.clock))
          ∨ ¬ (b.drop 32).take 16 = padTo 16 s.obj.serial ∨ s.dom.clock + 31622400 < target then s.fail i tag stINVALID_FIELD
      else s.recBegin (max s.dom.clock target) (some (i, tag)))

/-- R391: 25,000,000 cycles of the reference have passed. -/
def execClockTick (s : State) : Out :=
  .next ((s.updDom (fun d => { d with clock := d.clock + 1, since := d.since + 1 })).wr DOM_CLOCK_STAT_SINCE (min 65535 (s.dom.since + 1)))

/-- R392: 600 s after the previous record. -/
def execClockRecordTimer (s : State) : Out := .next (if 600 ≤ s.dom.since then s.recBegin s.dom.clock none else s)

/-- A clock record (R392): the clock, the sequence, and 4 bytes of its CMAC; numbers are stored most significant byte first (DESIGN CHOICE, log entry
57). -/
def clockRecord (v n : Nat) : List Byte :=
  let head := beBytes 8 v ++ beBytes 4 n
  head ++ (beBytes 16 (aesCmac clockKey head)).take 4

/-- The record of the value `v` stands in the ring; its sector was erased before the first record, or because an erase of it was interrupted. -/
def State.recWrite (s : State) (v : Nat) : State :=
  let n := s.dom.recSeq
  let k := 128 + s.recSector
  let s1 := if n % 256 = 0 ∨ s.incomplete k then s.eraseWhole k else s
  let s2 := (s1.norStore (norBase + 16 * ((sectorWords k).1 + n % 256)) (clockRecord v n)).updDom (fun d => { d with recSeq := n + 1, since := 0 })
  (((s2.wr DOM_CLOCK_STAT_SINCE 0).wr DOM_CLOCK_STAT_SEQ n).wr ⟨FLS_BOOT_WP, s.recSector, 1⟩ 1).domIrq 24

/-- R392, R394: a clock record completes programming; the token that it belongs to is accepted. A record that waited begins. -/
def execClockRecordDone (s : State) : Out :=
  match s.dom.recBusy with
  | none => .next s
  | some (v, tok) =>
    let s1 := (s.recWrite v).updDom (fun d => { d with recBusy := none, recAgain := false })
    let s2 := match tok with
      | none => s1
      | some (i, tag) =>
        let new := max s.dom.clock v
        ((s1.updDom (fun d => { d with clock := new, nonce := none })).hwPost 0x0303 2 13 (leBytes 8 s.dom.clock ++ leBytes 8 new)).finish
          i tag stSUCCESS 2 [] [] []
    .next (if s.dom.recAgain then s2.recBegin s2.dom.clock none else s2)

/-- The code words of the clock ring that are programmed, but for those of sectors with an interrupted erase. -/
def State.ringWords (s : State) : List Nat :=
  (s.fls.prog.flatMap (fun r => let lo := max r.1 524800; (List.range (min (r.1 + r.2) 525824 - lo)).map (lo + ·))).filter
    (fun w => !s.fls.markers.contains (128 + (w - 524288) / 256))

/-- The valid records of the ring (R393): sequence and clock. -/
def State.validRecords (s : State) : List (Nat × Nat) :=
  s.ringWords.filterMap (fun w =>
    let b := s.norBytes (norBase + 16 * w) 16
    let v := beNat (b.take 8)
    let n := beNat ((b.drop 8).take 4)
    if b = clockRecord v n then some (n, v) else none)

/-- R393: at power-on the clock takes the value of the valid record with the highest sequence, and 0 without one. -/
def State.clockRestore (s : State) : State :=
  let best := s.validRecords.foldl (fun (acc : Option (Nat × Nat)) e => if acc.elim true (fun a => decide (a.1 < e.1)) then some e else acc) none
  s.updDom (fun d => { d with
    since := 0, clock := best.elim 0 (·.2), recSeq := best.elim 0 (·.1 + 1), recBusy := none, recAgain := false })

/-! ## Error actions, self-tests (R395 to R398) -/

/-- The write run of a Tower stops: its running sector ends UNDERRUN (R387). -/
def State.runStarved (s : State) (t : Tower) : State :=
  let s1 := s.dropGates t
  match (s1.twr.get t).run with
  | some r => if r.ended then s1 else s1.sectorEnd t 3
  | none => s1

/-- R398: the error actions for a failed test. -/
def State.domError (s : State) (bit : Nat) : State :=
  let s1 := { s with keys := {} }
  let s2 := ((s1.runStarved .A).runStarved .B).updDom (fun d => { d with
    keyRam := [], kb := none, recBusy := none, recAgain := false, vaults := d.vaults.map (fun x => { x with unlocked := false }) })
  let s3 := (((s2.wr DOM_KB_CMD_GO 0).wr DOM_KB_STAT_WAITING 0).wr DOM_MSTATE_ERR_CAUSE (bit + 1)).wr DOM_MSTATE_MSTATE 2
  (s3.domIrq (if bit = 13 then 27 else 28)).hwPost 0x0301 6 13 [BitVec.ofNat 8 (bit + 1)]

/-- The lowest power-on test (0 to 11) that a result mask shows as failed. -/
def firstFailed (pass : Nat) : Option Nat := (List.range 12).find? (fun n => pass / 2 ^ n % 2 == 0)

/-- R397, R401: the power-on tests run with the result `pass`; the start-up tests of the entropy source run its continuous ones too (test 13). Once they
have passed, SVN_MIN takes the running image's SVN. -/
def State.selfTests (s : State) (pass : Nat) : State × Bool :=
  let entropy := pass / 1024 % 2
  let s1 := ((s.wr DOM_ST_RESULT_PASS (s.rd DOM_ST_RESULT_PASS / 4096 % 2 * 4096 + pass % 4096 + 8192 * entropy)).wr DOM_ST_RESULT_RUN 2).wr
    DOM_TRNG_STAT_HEALTH_OK entropy
  match firstFailed pass with
  | some n => (s1.domError n, false)
  | none =>
    (s1.updDom (fun d => { d with
      svnMin := if s.slotOk d.running then max d.svnMin (beNat (s.slotBytes d.running 8 4)) else d.svnMin }), true)

/-- R397: SELF_TEST. -/
def execSelfTest (i tag : Nat) (pass : Nat) (s : State) : Out :=
  s.run i tag 0x39 (fun _ s =>
    let r := s.selfTests pass
    if r.2 then r.1.finish i tag stSUCCESS 0 [] [] [] else r.1)

/-- A write of DOM_CMD; tests run by it have the result `pass`. In ERROR only a reset helps (Table 13-3). -/
def State.domCmd (s : State) (val : Word) (pass : Nat) : State :=
  let s1 := if fieldOf val 0 1 = 1 then s.recBegin s.dom.clock none else s
  if fieldOf val 1 1 = 1 ∧ s.rd DOM_MSTATE_MSTATE = 1 then (s1.selfTests pass).1 else s1

/-- R392: a write of DOM_CMD.REC_NOW alone. -/
def execRecNow (val : Word) (s : State) : Out :=
  .next (s.gated DOM_CMD (fun s => s.domCmd (withField (withField val 0 1 1) 1 1 0) 0))

/-- R397: a write of DOM_CMD.ST_RUN. -/
def execStRun (val : Word) (pass : Nat) (s : State) : Out :=
  .next (s.gated DOM_CMD (fun s => s.domCmd (withField val 1 1 1) pass))

/-- R395, R398: a continuous health test of the entropy source fails. -/
def execEntropyHealthFail (s : State) : Out :=
  .next (if s.rd DOM_MSTATE_MSTATE = 2 then s else ((s.wr DOM_TRNG_STAT_HEALTH_OK 0).wr ⟨DOM_ST_RESULT, 13, 1⟩ 0).domError 13)

/-! ## Anchors and zeroisation (R384, R402) -/

/-- A CO anchor remains. -/
def hasCo (l : List Anchor) : Bool := l.any (fun a => a.role == 2)

/-- ANCHOR_SET, once its DATA is in. -/
def execAnchorSet (i tag : Nat) (s : State) : Out :=
  s.run i tag 0x38 (fun c s =>
    let b := assemble c.chunks
    if b.length < c.len then s
    else
      let k := c.num 36 1
      let install := c.num 37 1 == 1
      let role := byteAt b 97
      let rest := s.dom.anchors.filter (fun a => !(a.slot == k))
      let new := if install then rest ++ [{ slot := k, point := b.take 97, role := role, mask := beNat (b.drop 98) }] else rest
      if hasCo new = false ∨ (install ∧ (role = 0 ∨ 3 < role)) then s.fail i tag stINVALID_FIELD
      else
        let s1 := ((s.updDom (fun d => { d with anchors := new })).hwPost 0x0304 2 13 []).finish i tag stSUCCESS 2 [] [] []
        let gone := if rest.length < s.dom.anchors.length then s.aot.sess.filter (fun e => e.2.st == 2 && e.2.anchor == k) else []
        gone.foldl (fun s e => s.sessClose e.1 5) s1)

/-- R402: ZEROISE. -/
def execZeroise (i tag : Nat) (s : State) : Out :=
  s.run i tag 0x3A (fun _ s =>
    if s.obj.objs.any (fun o => !o.holds.isEmpty) then s.fail i tag stHOLD
    else if s.obj.objs.any (fun o => decide (s.dom.clock < o.retain)) then s.fail i tag stRETENTION
    else
      let s1 := (s.aot.sess.filter (fun e => e.2.st == 2 || e.2.st == 1)).foldl (fun s e => s.sessClose e.1 6) s
      let s2 := ({ s1 with keys := {} }).updDom (fun d => { d with
        keyRam := d.keyRam.filter (fun e => e.1 == krClock), drbg := {}, keyRecord := false, devWrapped := 0, salt := 0, gen1Wrapped := none, cert := [],
        anchors := [], vaults := [], approved := false, bootSlot := 0 })
      let s3 := s2.obj.objs.foldl (fun (s : State) o => s.dropObj o.vault o.handle) s2
      ((s3.wr DOM_MSTATE_APPROVED 0).wr DOM_MSTATE_MSTATE 3).hwPost 0x0302 5 13 [])

/-! ## Operational (Table 13-3, R389) -/

/-- The keys that load into the key RAM at every boot: HUK and clock key. -/
def State.loadHuk (s : State) : State := s.updDom (fun d => { d with keyRam := [(krHuk, Config.huk), (krClock, clockKey)] })

/-- The Dome reaches OPERATIONAL: the keys of Table 13-4 that load at boot, the vaults without a secret, and fresh cookie keys. -/
def State.domOperational (s : State) : State :=
  let kek := kekOf s.dom.salt
  let gen1 := s.dom.gen1Wrapped.bind (kwUnwrap kek 8)
  let s0 := s.updDom (fun d => { d with
    keyRam := d.keyRam ++ [(krKek, kek), (krDevice, (kwUnwrap kek 6 d.devWrapped).getD 0), (krMeta, metaKeyOf kek)] ++ gen1.toList.map (fun k => (krGen1, k)) })
  let s1 := (s0.setXtsBoth 256 (some (metaKeyOf kek))).setXtsBoth 257 gen1
  let s2 := (s.dom.vaults.filter (fun v => !v.hasSecret)).foldl (fun s v => match s.unwrap v [] with
    | none => s
    | some key => s.vaultOpen v.id key) s1
  ((s2.newCookie.newCookie).wb DOM_MSTATE_APPROVED s.dom.approved).wr DOM_MSTATE_MSTATE 1

/-! ## Key bus (R386, R387) -/

/-- The refusal code of a key bus command (DOM_KB_STAT.ERR). -/
def State.kbErr (s : State) (op target slot src : Nat) : Nat :=
  if ¬ s.rd DOM_MSTATE_MSTATE = 1 then 4
  else if op = 0 then 3
  else if ¬ op = 3 ∧ ¬ target = 2 ∧ 257 < slot then 1
  else if op = 1 ∧ (s.dom.keyRam.any (fun e => e.1 == src)) = false then 2
  else 0

/-- The operation waits for a run that uses its slot. -/
def State.kbWaits (s : State) (k : KbOp) : Bool :=
  let any := fun (t : Tower) => if k.op = 3 then (List.range 258).any (fun n => s.xtsBusy t n) else s.xtsBusy t k.slot
  if k.target = 0 then any .A else if k.target = 1 then any .B else if k.target = 3 then any .A || any .B else false

/-- A write of DOM_KB_CMD. -/
def State.kbWrite (s : State) (val : Word) : State :=
  let s1 := (s.storeRow DOM_KB_CMD val).wb DOM_KB_CMD_GO (s.on DOM_KB_CMD_GO)
  if fieldOf val 31 1 = 0 ∨ s.on DOM_KB_CMD_GO then s1
  else
    let k : KbOp := { op := fieldOf val 29 2, target := fieldOf val 27 2, slot := fieldOf val 12 14, src := fieldOf val 0 8 }
    let e := s.kbErr k.op k.target k.slot k.src
    if ¬ e = 0 then (s1.wr DOM_KB_STAT_ERR e).domIrq 25
    else (((s1.wr DOM_KB_STAT_ERR 0).wr DOM_KB_CMD_GO 1).wb DOM_KB_STAT_WAITING (s.kbWaits k)).updDom (fun d => { d with kb := some k })

/-- R386: a write of DOM_KB_CMD with OP 1. -/
def execKeyLoad (val : Word) (s : State) : Out := .next (s.gated DOM_KB_CMD (fun s => s.kbWrite (withField (withField val 29 2 1) 31 1 1)))

/-- R387: a write of DOM_KB_CMD with OP 2. -/
def execKeyClear (val : Word) (s : State) : Out := .next (s.gated DOM_KB_CMD (fun s => s.kbWrite (withField (withField val 29 2 2) 31 1 1)))

/-- R387: a write of DOM_KB_CMD with OP 3. -/
def execKeyClearAll (val : Word) (s : State) : Out := .next (s.gated DOM_KB_CMD (fun s => s.kbWrite (withField (withField val 29 2 3) 31 1 1)))

/-- The transfer of a key bus operation. -/
def State.kbPerform (s : State) (k : KbOp) : State :=
  let v := if k.op = 1 then (s.dom.keyRam.find? (fun e => e.1 == k.src)).map (·.2) else none
  if k.target = 2 then (if k.op = 3 then { s with keys := { s.keys with gcm := [] } } else s.setGcm k.slot v)
  else
    let one := fun (s : State) (t : Tower) => if k.op = 3 then { s with keys := { s.keys with xts := s.keys.xts.set t [] } } else s.setXts t k.slot v
    if k.target = 0 then one s .A else if k.target = 1 then one s .B else one (one s .A) .B

/-- R386, R387: a key bus operation completes, or goes on waiting for a run. -/
def execKeyBusDone (s : State) : Out :=
  match s.dom.kb with
  | none => .next s
  | some k =>
    if s.kbWaits k then .next (s.wr DOM_KB_STAT_WAITING 1)
    else .next ((((s.kbPerform k).updDom (fun d => { d with kb := none })).wr DOM_KB_CMD_GO 0).wr DOM_KB_STAT_WAITING 0 |>.domIrq 26)

end Sys2Proof.Machine
end

