-- ==== Sys2Proof/Machine/Rst.lean ====
section
/-! DEFINITION. What a reset does to the domains it reaches: registers, units, spires, harts and fuses. -/

namespace Sys2Proof.Machine

/-- The domain is named in a mask. -/
def inMask (m d : Nat) : Bool := m / 2 ^ d % 2 == 1

/-- The gateable domains of Table 18-4: 2, 3, 5, 6, 8, 9 and 10. -/
def gateable : Nat := 0x76C

/-- Every domain but AON. -/
def allButAon : Nat := 0x7FE

/-- The block instances of Table 01-4. -/
def allBlocks : List (Nat × Nat) := (List.range 23).flatMap (fun b => (List.range (blkShape b).1).map (fun i => (b, i)))

/-- The block instances of the named domains. -/
def blocksOf (m : Nat) : List (Nat × Nat) := allBlocks.filter (fun e => inMask m (domOf e.1 e.2))

/-- The domain of a spire (Table 18-4). -/
def spireDom (k : Nat) : Nat :=
  if k < 8 then 5 + k / 4 else if k < 24 then 2 else if k < 28 then 5 + (k - 24) / 2 else 8

/-- The domain of a hart (Table 18-4). -/
def hartDom (h : Nat) : Nat := if h < 8 then 3 else if h < 12 then 5 + (h - 8) / 2 else 1

/-- The harts of the named domains, as a mask of PWR_HART_PARK. -/
def hartsOf (m : Nat) : Nat := (List.range 13).foldl (fun acc h => if inMask m (hartDom h) then acc + 2 ^ h else acc) 0

/-- The command staging of a Tower's two channel cores returns to reset. -/
def State.mqReset (s : State) (t : Tower) : State :=
  { s with sprEnv := { s.sprEnv with
      mqW := (s.sprEnv.mqW.set (2 * t.idx) (List.replicate 8 0)).set (2 * t.idx + 1) (List.replicate 8 0),
      mqRes := (s.sprEnv.mqRes.set (2 * t.idx) 0).set (2 * t.idx + 1) 0 } }

/-- A Tower's domain: read channel, write path, preamp link, Lantern, XTS engine and channel cores. -/
def State.towerReset (s : State) (t : Tower) : State :=
  let s1 := ((s.updChn t (fun _ => {})).updTwr t (fun _ => { cpl := { rstAt := s.fwk.cycle } })).mqReset t
  { s1 with keys := { s1.keys with xts := s1.keys.xts.set t [] } }

/-- The state of the units of one domain returns to reset. -/
def State.unitReset (s : State) (d : Nat) : State :=
  match d with
  | 1 => ((s.flsLost).updDom (fun x => { x with
      keyRam := [], drbg := {}, nonce := none, recBusy := none, recAgain := false, kb := none,
      vaults := x.vaults.map (fun v => { v with unlocked := false, closing := none }) })).updAot (fun a => { a with cookieKey := 0, cookiePrev := 0 })
  | 2 => { s with eth := [{}, {}], aot := { cookieKey := s.aot.cookieKey, cookiePrev := s.aot.cookiePrev }, keys := { s.keys with gcm := [] } }
  | 3 => { s with cores := { s.cores with l1 := List.replicate 8 [] } }
  | 4 => { s with evr := {}, cup := {}, dma := {}, sprEnv := { s.sprEnv with steps := [], hashes := [] }, fwk := { s.fwk with cycle := 0, mtime := 0 } }
  | 5 => s.towerReset .A
  | 6 => s.towerReset .B
  | 7 => s.memLost
  | 9 => { s with atb := {}, spn := {}, engA := {}, engB := {}, engS := {}, srv := ⟨{}, {}⟩ }
  | 10 => { s with sys := { s.sys with fifo := [] } }
  | _ => s

/-- A reset that reaches the named domains: every block, spire and unit of them (R502, R537). Control stores are cleared with
their spires (R281). -/
def State.domReset (s : State) (m : Nat) : State :=
  let s1 := (blocksOf m).foldl (fun (s : State) (e : Nat × Nat) => s.blockReset e) s
  let s2 : State := { s1 with spires := s1.spires.zipIdx.map (fun e => if inMask m (spireDom e.2) || inMask m 4 then {} else e.1) }
  (((List.range 11).filter (fun d => inMask m d)).foldl (fun (s : State) (d : Nat) => s.unitReset d) s2).levelShow

/-- The release of the named domains: PWR_HART_PARK bits and RUN bits of their harts clear (R502, R545). -/
def State.hartRelease (s : State) (m : Nat) : State :=
  let h := hartsOf m
  (s.wr PWR_HART_PARK_PARK (Nat.land (s.rd PWR_HART_PARK_PARK) (8191 - h))).wr SYS_HART_RUN_RUN
    (Nat.land (s.rd SYS_HART_RUN_RUN) (4095 - h % 4096))

/-! ## Fuses (R541, R424) -/

/-- The fuse groups are loaded and checked: repair map, key slots, capabilities, die identifier. -/
def State.fuseLoad (s : State) : State :=
  let f := s.sys.fuse
  let good := fun (g : Nat) => f.ok / 2 ^ g % 2 == 1
  let s1 := (s.wr SYS_FUSE_STAT_OK f.ok).wr SYS_FUSE_STAT_LOADED 1
  let s2 := (s1.wb MEM_REP_FUSE_OK (good 0)).wr MEM_REP_FUSE_CRC f.crc
  let s3 := s2.setReg DOM_FUSE_KEYS (BitVec.ofNat 32 (f.keys % 256))
  let s4 := if good 3 then f.caps.foldl (fun (s : State) (e : Nat × Nat) => s.setReg (pageOf e.1 + 4) (BitVec.ofNat 32 e.2)) s3 else s3
  if good 4 then ((s4.wr (SYS_DIE_ID_ID 0) f.die).wr (SYS_DIE_ID_ID 1) (f.die / 2 ^ 32)).wr SYS_JTAG_ID_IDCODE (f.version % 16 * 2 ^ 28 + 0x04820753)
  else s4.wr SYS_JTAG_ID_IDCODE 0x04820753

/-- MEM_REP_STAT of the selected store (R424). -/
def State.repStat (s : State) : Nat :=
  let k := s.rd MEM_REP_SEL_STORE
  let e := nth s.sys.fuse.repair k (0, 0, 0)
  if 9 ≤ k then 0
  else if s.sys.fuse.ok % 2 = 1 then e.2.1 % 4096 * 4096 + e.2.2 % 4096
  else e.1 % 256 * 2 ^ 24

/-! ## Resets of the chip (R536 to R540) -/

/-- What firmware loses with its working memory: commands, ladders, activation. The next lost-write report is due (R366, R538); after
a deferred reset it has been written already. -/
def State.firmwareLost (s : State) (deferred : Bool) : State :=
  let lay := fun (y : LayState) => { y with ladders := [], rewrites := [], seen := [], rehome := [] }
  (((s.obj.cmds.foldl (fun s c => s.rawPrefix c) s).updObj (fun x => { x with
      cmds := [], activating := none, resetting := false, pstate := 0, lossPending := true, deferred := deferred,
      summary := x.summary && !deferred })).updLay .A lay).updLay .B lay

/-- The PLLs are locked at the end of the hardware steps (Table 20-3): SYS and DDR, and both Tower synthesisers with SYS (R499). -/
def State.pllLock (s : State) : State := s.wr CLK_STAT_LOCK 0x65

/-- Every domain but AON is reset, powered and released; the chip's own sequence starts again. -/
def State.coreReset (s : State) (deferred : Bool) : State :=
  let s1 := (s.domReset allButAon).hartRelease allButAon
  let s2 : State := { s1 with
    keys := {}
    resp := none
    fwk := { s1.fwk with holdup := false }
    sys := { s1.sys with
      hart12 := false, launched := false, listener := none, answer := none, bist := none, wdtAt := 0, balls := 0, fifo := [] }
    pwr := { s1.pwr with req := none, shedPend := none } }
  (((s2.wr PWR_DOM_STAT_POWERED 0x7FF).wr PWR_DOM_STAT_BUSY 0).wr PWR_DOM_REQ_GO 0).firmwareLost deferred

/-- A device reset with the cause bits of Table 20-1 (R537, R540). A failed supply that is active at its end is reported (R506). -/
def State.deviceReset (s : State) (causes : Nat) : State :=
  let c := Nat.lor (s.rd SYS_RST_CAUSE_CAUSE) causes
  let s1 := ((s.coreReset (causes == 4)).wr SYS_RST_CAUSE_CAUSE c).wr PWR_HOLDUP_STAT_PHASE 0
  (if s.pwr.fail then s1.wr PWR_RAIL_STAT_FAIL_AT_RESET 1 else s1).fuseLoad.pllLock

/-- The bytes that keep their value without power: the NOR window. -/
def inNor (a : Nat) : Bool := decide (norBase ≤ a) && decide (a < 0x02000000)

/-- What a loss of power leaves: the flash, the media and what they record, the fuses, and the commands that wait. Every register and
every SRAM store is as after its BIST. -/
def State.afterPower (s : State) (failActive : Bool) : State := {
  mem := s.mem.filter (fun c => inNor c.1)
  lay := s.lay
  obj := s.obj
  dom := s.dom
  fls := s.fls
  freeCount := s.freeCount
  pwr := { fail := failActive }
  sys := { fuse := s.sys.fuse, macs := s.sys.macs }
  pending := s.pending }

/-- A power-on reset (R537, R540, R542): every domain, AON included; every SRAM store reads 0 after its BIST, whose failed stores are
given, as is PWR_FAIL_N. The flash, the Dome's records, the fuses and the media keep what they hold. -/
def State.powerOn (s : State) (fails : Nat) (failActive : Bool) : State :=
  let s1 := ((s.domReset allButAon).firmwareLost false).afterPower failActive
  let s2 := (s1.clockRestore.fuseLoad.pllLock).wr SYS_BIST_POR_FAIL fails
  let s3 := s2.wr SYS_RST_CAUSE_CAUSE 1
  if failActive then s3.wr PWR_RAIL_STAT_FAIL_AT_RESET 1 else s3

end Sys2Proof.Machine
end

