-- ==== Sys2Proof/Machine/Pwr.lean ====
section
/-! DEFINITION. Power, clocks and thermal management: core voltage, CPU clock, power domains, idle timers, hold-up, the Belfry and the
filtered inputs. -/

namespace Sys2Proof.Machine

def State.updPwr (s : State) (f : PwrState → PwrState) : State := { s with pwr := f s.pwr }
def State.pwrIrq (s : State) (p bit : Nat) : State := s.irq bPWR 0 p bit
def State.belIrq (s : State) (bit : Nat) : State := s.irq bBEL 0 0 bit

/-- PWR CMD_REFUSED. -/
def State.pwrRefuse (s : State) : State := s.pwrIrq 0 21

/-! ## Core voltage (R496, R497) -/

/-- Table 18-2: the highest CLK_CPU frequency at a voltage, as a MULT of 12.5 MHz steps. -/
def multLimit (mv : Nat) : Nat := if 800 ≤ mv then 128 else if 760 ≤ mv then 112 else 96

/-- VOUT_COMMAND's code: MV / 1,000 × 2^(−EXP), rounded to nearest. -/
def voutCode (mv : Nat) (exp : Int) : Nat :=
  if exp ≤ 0 then (mv * 2 ^ (-exp).toNat * 2 + 1000) / 2000 else (mv * 2 + 1000 * 2 ^ exp.toNat) / (2000 * 2 ^ exp.toNat)

/-- A voltage request ends with an error. -/
def State.avsFail (s : State) (err : Nat) : State := ((s.wr PWR_AVS_STAT_ERR err).wr PWR_AVS_REQ_GO 0).pwrIrq 2 27

/-- A write of PWR_AVS_REQ; `nack` says that the regulator refuses VOUT_COMMAND. A GO during a request changes nothing. -/
def State.avsWrite (s : State) (val : Word) (nack : Bool) : State :=
  if s.on PWR_AVS_REQ_GO then s
  else
    let mv := fieldOf val 0 10
    let s1 := s.wr PWR_AVS_REQ_MV mv
    if fieldOf val 31 1 = 0 then s1
    else
      let s2 := s1.wr PWR_AVS_STAT_ERR 0
      if ¬ mv % 5 = 0 ∨ mv < 720 ∨ 880 < mv then s2.avsFail 1
      else if multLimit mv < s.rd CLK_CPU_MULT then s2.avsFail 2
      else
        let s3 := s2.updPwr (fun x => { x with
          avsMv := mv, vout := some (s.rd PWR_AVS_CFG_ADDR, voutCode mv (s.rdI PWR_AVS_CFG_EXP)) })
        if nack then s3.avsFail 3 else s3.wr PWR_AVS_REQ_GO 1

/-- R496: a write of PWR_AVS_REQ.GO. -/
def execAvsRequest (val : Word) (nack : Bool) (s : State) : Out :=
  .next (s.gated PWR_AVS_REQ (fun s => s.avsWrite (withField val 31 1 1) nack))

/-- R496: SETTLE has passed; READ_VOUT answers with a code, or with a NACK. -/
def execAvsSettleDone (read : Option Nat) (s : State) : Out :=
  if s.on PWR_AVS_REQ_GO = false then .next s
  else match read with
    | none => .next (s.avsFail 3)
    | some v =>
      let exp := s.rdI PWR_AVS_CFG_EXP
      let up := 2 ^ exp.toNat
      let down := 2 ^ (-exp).toNat
      let mv := (v * 1000 * up * 2 + down) / (2 * down)
      let off := ((v * 1000 * up : Int) - s.pwr.avsMv * down).natAbs
      let s1 := s.wr PWR_AVS_STAT_MV_READ (min 1023 mv)
      if 10 * down < off then .next (s1.avsFail 4)
      else .next (((s1.wr PWR_AVS_STAT_MV_NOW s.pwr.avsMv).wr PWR_AVS_REQ_GO 0).pwrIrq 2 28)

/-! ## CPU clock (R497 to R499) -/

/-- The MULT that CLK_CPU and the CORE throttle ask for (Table 18-9). -/
def State.cpuTarget (s : State) : Nat :=
  if s.rd BEL_STATUS_THROT / 4 % 2 = 1 then min (s.rd CLK_CPU_MULT) (max 32 (s.rd BEL_THROT_CPU_MULT)) else s.rd CLK_CPU_MULT

/-- A write of CLK_CPU: a MULT outside 32 to 128, or above the limit of the confirmed voltage, is ignored; otherwise the cores move to
1.0 GHz while the PLL relocks. -/
def State.cpuWrite (s : State) (val : Word) : State :=
  let m := fieldOf val 0 8
  if m < 32 ∨ 128 < m ∨ multLimit (s.rd PWR_AVS_STAT_MV_NOW) < m then s.irq bCLK 0 0 27
  else (s.wr CLK_CPU_MULT m).wr CLK_CPU_BUSY 1

/-- R497, R498: a write of CLK_CPU.MULT. -/
def execCpuMultWrite (val : Word) (s : State) : Out := .next (s.gated CLK_CPU (fun s => s.cpuWrite val))

/-- R498: the CPU PLL has relocked; the cores switch back. -/
def execCpuPllLocked (s : State) : Out :=
  .next (if s.on CLK_CPU_BUSY then ((s.wr CLK_CPU_BUSY 0).wr CLK_STAT_MULT_EFF s.cpuTarget).irq bCLK 0 0 28 else s)

/-- R499: REF, or the lock of the SYS or DDR PLL, is lost for 4 µs. -/
def execClockLoss (s : State) : Out := .next (if s.halted then s else s.deviceReset 0x10)

/-! ## Power domains (R500 to R502) -/

/-- Domains are isolated and gated. -/
def State.gate (s : State) (m : Nat) : State :=
  let g := Nat.land (Nat.land m gateable) (s.rd PWR_DOM_STAT_POWERED)
  (s.domReset g).wr PWR_DOM_STAT_POWERED (s.rd PWR_DOM_STAT_POWERED - g)

/-- Test 2 of Table 18-5 for one domain. -/
def State.domIdle (s : State) (d : Nat) : Bool :=
  (blocksOf (2 ^ d)).all (fun e => let v := s.st e.1 e.2; v == stOFF || v == stFAULT)
    && (List.range 32).all (fun k => let x := (nth s.spires k {}).sstate; !(spireDom k == d) || x == 0 || x == 3)
    && Nat.land (s.rd PWR_HART_PARK_PARK) (hartsOf (2 ^ d)) == hartsOf (2 ^ d)

/-- The lowest named domain for which a test fails. -/
def firstDom (m : Nat) (ok : Nat → Bool) : Option Nat := (List.range 16).find? (fun d => inMask m d && !ok d)

/-- A domain request ends with a result. -/
def State.domEnd (s : State) (result dom : Nat) : State :=
  let s1 := (((s.wr PWR_DOM_RESULT_RESULT result).wr PWR_DOM_RESULT_DOMAIN dom).wr PWR_DOM_STAT_BUSY 0).wr PWR_DOM_REQ_GO 0
  (s1.updPwr (fun x => { x with req := none })).pwrIrq 1 (if result = 0 then 28 else 27)

/-- A domain request begins. -/
def State.domBusy (s : State) (r : DomReq) : State :=
  ((s.wr PWR_DOM_STAT_BUSY 1).wr PWR_DOM_REQ_GO 1).updPwr (fun x => { x with req := some r })

/-- The hold-up's quiesce request for its SHED domains (Table 18-7). -/
def State.shedBegin (s : State) (m : Nat) : State :=
  let g := Nat.land (Nat.land m gateable) (s.rd PWR_DOM_STAT_POWERED)
  (s.updPwr (fun x => { x with req := some { domains := g, why := 1 }, shedPend := none })).dmaQuiesce g

/-- A hold-up's shedding that waited for the request goes on. -/
def State.shedNext (s : State) : State := match s.pwr.shedPend with | some m => s.shedBegin m | none => s

/-- A GO with ON = 0: the tests of Table 18-5 in order; the first that fails ends the request. -/
def State.domDown (s : State) (m : Nat) : State :=
  match firstDom m (fun d => inMask gateable d && s.powered d) with
  | some d => s.domEnd 1 d
  | none => match firstDom m s.domIdle with
    | some d => s.domEnd 2 d
    | none => (s.domBusy { domains := m }).dmaQuiesce m

/-- A GO with ON = 1: the named domains that are off are powered. -/
def State.domUp (s : State) (m : Nat) : State :=
  s.domBusy { domains := Nat.land (Nat.land m gateable) (65535 - s.rd PWR_DOM_STAT_POWERED), up := true }

/-- A write of PWR_DOM_REQ. A GO while BUSY is 1 is ignored. -/
def State.domReqWrite (s : State) (val : Word) : State :=
  let go := fieldOf val 31 1 == 1
  if go && s.on PWR_DOM_STAT_BUSY then s.pwrRefuse
  else
    let s1 := (s.wr PWR_DOM_REQ_ON (fieldOf val 16 1)).wr PWR_DOM_REQ_DOMAINS (fieldOf val 0 16)
    if go = false then s1 else if fieldOf val 16 1 = 1 then s1.domUp (fieldOf val 0 16) else s1.domDown (fieldOf val 0 16)

/-- R501: a GO with ON = 0. -/
def execDomainPowerDown (val : Word) (s : State) : Out :=
  .next (s.gated PWR_DOM_REQ (fun s => s.domReqWrite (withField (withField val 16 1 0) 31 1 1)))

/-- R502: a GO with ON = 1. -/
def execDomainPowerUp (val : Word) (s : State) : Out :=
  .next (s.gated PWR_DOM_REQ (fun s => s.domReqWrite (withField (withField val 16 1 1) 31 1 1)))

/-- R502, R464: the powered domains are released from reset and the quiesce request is withdrawn. -/
def execDomainRelease (s : State) : Out :=
  match s.pwr.req with
  | some r =>
    if r.up then
      let s1 := (s.domReset r.domains).hartRelease r.domains
      let s2 := (s1.wr PWR_DOM_STAT_POWERED (Nat.lor (s1.rd PWR_DOM_STAT_POWERED) r.domains)).dmaRelease r.domains
      .next (s2.domEnd 0 0).shedNext
    else .next s
  | none => .next s

/-- The domains of a request that a channel which has not acknowledged touches. -/
def State.heldDoms (s : State) (m : Nat) : Nat :=
  (List.range 16).foldl (fun acc d =>
    if inMask m d && (List.range 32).any (fun c => (s.chn_ c).park == 1 && s.dmaTouches c (2 ^ d)) then acc + 2 ^ d else acc) 0

/-- Channels parked for a request that touch none of the domains gated by it continue. -/
def State.dmaContinue (s : State) (gated : Nat) : State :=
  let free := (List.range 32).filter (fun c => !((s.chn_ c).dom == 0) && !s.dmaTouches c gated)
  let keep := (List.range 32).filter (fun c => !((s.chn_ c).dom == 0) && s.dmaTouches c gated)
  let s1 := keep.foldl (fun (s : State) (c : Nat) => s.updCh c (fun y => { y with dom := gated })) s
  (free.foldl (fun (s : State) (c : Nat) => s.updCh c (fun y => { y with dom := 2 ^ 16 })) s1).dmaRelease (2 ^ 16)

/-- The answer to a quiesce request: `ok` names the domains that are granted (R464, R501, Table 18-7). -/
def State.quiesceEnd (s : State) (r : DomReq) (ok : Nat) : State :=
  let s1 := s.updDma (fun d => { d with quiesce := none })
  if r.why = 0 then
    if ok = r.domains then ((s1.wr DMA_QSTAT_ACK 1).gate ok).domEnd 0 0
    else
      let bad := (firstDom r.domains (fun d => inMask ok d)).getD 0
      ((s1.dmaRelease r.domains).dmaIrq 28).domEnd 3 bad
  else
    let s2 := if ok = r.domains then s1.wr DMA_QSTAT_ACK 1 else (s1.dmaContinue ok).dmaIrq 28
    ((s2.gate ok).wr PWR_HOLDUP_STAT_SHED_DONE ok).updPwr (fun x => { x with req := none })

/-- R464, R501: every channel has acknowledged; the power-down is granted. -/
def execQuiesceAck (s : State) : Out :=
  match s.pwr.req with
  | some r => if r.up ∨ s.dma.quiesce = none ∨ s.dmaAcked = false then .next s else .next (s.quiesceEnd r r.domains).shedNext
  | none => .next s

/-- R464: 10 µs have passed and a channel has not acknowledged. -/
def execQuiesceTimeout (s : State) : Out :=
  match s.pwr.req with
  | some r =>
    if r.up ∨ s.dma.quiesce = none ∨ s.dmaAcked then .next s
    else .next (s.quiesceEnd r (r.domains - s.heldDoms r.domains)).shedNext
  | none => .next s

/-! ## Activity and idle timers (R505) -/

/-- Milliseconds since the last activity event. -/
def State.idleMs (s : State) : Nat := min (2 ^ 31 - 1) ((s.fwk.aon - s.pwr.actAt) / 25000)

/-- R505: a write of PWR_ACT.TOUCH. -/
def execActivityTouch (val : Word) (s : State) : Out :=
  .next (s.gated PWR_ACT (fun s => if fieldOf (withField val 31 1 1) 31 1 = 1 then s.activity else s))

/-- R505: timer n reaches PWR_IDLE_n while STATE is below n. -/
def execIdleTimerExpiry (n : Nat) (s : State) : Out :=
  let ms := s.rd (PWR_IDLE_MS (n - 1))
  .next (if 1 ≤ n ∧ n ≤ 5 ∧ ¬ ms = 0 ∧ ms ≤ s.idleMs ∧ s.rd PWR_PSTATE_STATE < n then s.pwrIrq 0 (29 - n) else s)

/-! ## Hold-up (R506 to R508) -/

/-- R506: PWR_FAIL_N, filtered, becomes active. -/
def execHoldupBegin (s : State) : Out :=
  let s0 := s.updPwr (fun x => { x with fail := true })
  if s.halted ∨ s.pwr.fail ∨ s.on PWR_HOLDUP_ARM = false ∨ s.rd PWR_HOLDUP_STAT_PHASE = 1 then .next s0
  else
    let s1 := (s0.wr PWR_HOLDUP_STAT_PHASE 1).wr PWR_HOLDUP_STAT_SHED_DONE 0
    let s2 := if s1.powered 9 then s1.spnHoldup else s1
    let s3 : State := s2.updFwk (fun y => { y with holdup := true })
    let s4 := ((s3.updObj (fun x => { x with sumDraft := true, resetting := false })).wr SYS_RST_REQ_PEND 0).recBegin s.dom.clock none
    let s5 := (s4.pwrIrq 0 23).hwPost 0x0201 3 2 []
    let shed := s.rd PWR_HOLDUP_SHED
    .next (if s5.pwr.req.isSome then s5.updPwr (fun x => { x with shedPend := some shed }) else s5.shedBegin shed)

/-- The THERMAL reset is asserted and held (R516). -/
def State.thermalReset (s : State) (causes : Nat) : State := (s.deviceReset causes).updPwr (fun x => { x with thermal := true })

/-- R508: PWR_HOLDUP_T.TIME has passed. The summary has been programmed; every domain but AON is reset; then the HOLDUP reset follows, or the
THERMAL reset after a trip, or the chip waits for its rails to fall. -/
def execHoldupDone (failActive : Bool) (s : State) : Out :=
  if ¬ s.rd PWR_HOLDUP_STAT_PHASE = 1 then .next s
  else
    let s1 := s.updObj (fun x => { x with summary := x.sumDraft })
    let s2 := ((s1.wr PWR_HOLDUP_STAT_PHASE 2).pwrIrq 0 22).updPwr (fun x => { x with fail := failActive })
    .next (if s.on PWR_TRIP_TRIPPED then s2.thermalReset 0x20
      else if failActive then (s2.coreReset false).updPwr (fun x => { x with waitRails := true })
      else s2.deviceReset 0x40)

/-! ## Thermal shutdown (R514 to R516) -/

/-- Steps 1 to 3 of Table 18-10 for the named domains. -/
def State.thermalActions (s : State) (m : Nat) : State :=
  let hot := fun (v : SrvState) => { v with emrg := insertN 7 v.emrg }
  let s1 := if s.powered 9 then ((((s.updSrv .A hot).updSrv .B hot).emergency .A 7).emergency .B 7) else s
  let s2 := s1.belIrq 25
  let stop := fun (s : State) => let d := s.disable bSPN 0 (fun s => s.spnStop); if s.st bSPN 0 = stFAULT then d.spnOff else d
  (if s.on BEL_SHUT_SPIN_STOP ∧ s.powered 9 then stop s2 else s2).dmaThermal m

/-- SHUT becomes true on a channel. -/
def State.shutdown (s : State) (n : Nat) : State :=
  let s1 := ((s.wr BEL_STATUS_SHUT 1).wr BEL_STATUS_SHUT_CH n).thermalActions (s.rd BEL_SHUT_DOM)
  (s1.hwPost 0x0202 5 4 [BitVec.ofNat 8 n]).updPwr (fun x => { x with shutDom := some (s.rd BEL_SHUT_DOM) })

/-- R514: DELAY has passed; the named domains are gated. -/
def execShutDelayExpiry (s : State) : Out :=
  .next (match s.pwr.shutDom with
    | some m => (s.gate m).updPwr (fun x => { x with shutDom := none })
    | none => s)

/-- An enabled channel's last sample lies above its SHUT limit. -/
def State.shutHot (s : State) : Bool :=
  (List.range 64).any (fun n => s.on (BEL_CH_CFG_EN n) && decide (s.rdI (BEL_CH_ACT_SHUT n) < s.rdI (BEL_CH_VAL_SAMPLE n)))

/-- A write of BEL_CMD. -/
def State.belCmd (s : State) (val : Word) : State :=
  let cool := fun (v : SrvState) => { v with emrg := removeN 7 v.emrg }
  if fieldOf val 0 1 = 0 then s
  else if s.shutHot then s.belIrq 22
  else ((s.wr BEL_STATUS_SHUT 0).updSrv .A cool).updSrv .B cool

/-- R515: a write of BEL_CMD.SHUT_CLR. -/
def execShutClr (val : Word) (s : State) : Out := .next (s.gated BEL_CMD (fun s => s.belCmd (withField val 0 1 1)))

/-- R516: the analog comparator trips. -/
def execThermalTrip (s : State) : Out :=
  .next (if s.pwr.thermal ∨ s.on PWR_TRIP_TRIPPED then s
    else (((s.thermalActions gateable).wr PWR_TRIP_TRIPPED 1).wr PWR_TRIP_HOT 1 |>.pwrIrq 0 20).hwPost 0x0203 6 2 [])

/-- R516: 100 ms after the trip. A hold-up goes on to its end first (Table 18-12). -/
def execThermalTripReset (s : State) : Out :=
  .next (if s.on PWR_TRIP_TRIPPED ∧ s.pwr.thermal = false ∧ ¬ s.rd PWR_HOLDUP_STAT_PHASE = 1 then s.thermalReset 0x20 else s)

/-- R516: the comparator has read below 140 °C for 1 s. -/
def execThermalResetRelease (s : State) : Out :=
  .next (if s.pwr.thermal then ((s.updPwr (fun x => { x with thermal := false })).wr PWR_TRIP_TRIPPED 0).wr PWR_TRIP_HOT 0 else s)

/-! ## Belfry (R510 to R513, R517) -/

/-- The sample of a channel: a sensor's count under R511, a housekeeping code under BEL_ADC_CAL, the latest conversions, TLAST of the active
head. Where C125 and C25 are equal, R511 gives no temperature: a free value. -/
def State.belSample (s : State) (n raw : Nat) : State × Int :=
  let trunc := fun (x : Int) => sx 16 (ux 16 x)
  if n < 12 then
    let c25 : Int := s.rd (BEL_RO_CAL_C25 n)
    let c125 : Int := s.rd (BEL_RO_CAL_C125 n)
    if c125 = c25 then (s.drawn, sx 16 (s.free % 65536))
    else (s, trunc (400 + 1600 * ((raw : Int) - c25) / (c125 - c25)))
  else if n < 21 then (s, trunc (Config.adcCorrect (s.rd BEL_ADC_CAL_GAIN) (s.rdI BEL_ADC_CAL_OFFSET) raw))
  else if n = 30 then (s, s.rdI (LAN_HEAD_TLAST 0 (s.head .A)))
  else if n = 31 then (s, s.rdI (LAN_HEAD_TLAST 1 (s.head .B)))
  else if n < 30 then (s, trunc raw)
  else (s, 0)

/-- 8 times the rate of change in units per second, once 16 rounds are in the history: (s − s16) × 15.625. -/
def rate8 (h : List Int) (x : Int) : Option Int := if 16 ≤ h.length then some ((x - nth h 15 0) * 125) else none

/-- Membership of a channel in a list. -/
def setIn (b : Bool) (n : Nat) (l : List Nat) : List Nat := if b then insertN n l else removeN n l

/-- The throttle kinds that the channels ask for: an enabled channel with THROT whose TMASK names the kind. -/
def State.throtKinds (s : State) : Nat :=
  s.pwr.throt.foldl (fun k n => if s.on (BEL_CH_CFG_EN n) then Nat.lor k (s.rd (BEL_CH_CFG_TMASK n)) else k) 0

/-- The throttle kinds take effect or end (Table 18-9); a change of the CPU's MULT relocks its PLL under R498. -/
def State.setKinds (s : State) (k : Nat) : State :=
  let old := s.rd BEL_STATUS_THROT
  let s1 := s.wr BEL_STATUS_THROT k
  let s2 := if Nat.land k (7 - old) = 0 then s1 else s1.belIrq 27
  let s3 := if Nat.land old (7 - k) = 0 then s2 else s2.belIrq 26
  if s3.cpuTarget = s.cpuTarget then s3 else s3.wr CLK_CPU_BUSY 1

/-- The limits of an enabled channel at a sample (R512). -/
def State.belLimits (s : State) (n : Nat) (x : Int) (r : Option Int) : State :=
  let hys : Int := s.rd (BEL_CH_CFG_HYS n)
  let act := s.rd (BEL_CH_CFG_ROR_ACT n)
  let held := fun (was : Bool) (lim : Int) => decide (lim < x) || (was && decide (lim - hys < x))
  let hi := held (s.pwr.hi.contains n) (s.rdI (BEL_CH_LIM_WARN_HI n))
  let thr := held (s.pwr.thr.contains n) (s.rdI (BEL_CH_ACT_THROT n))
  let lim8 := 8 * s.rdI (BEL_CH_CFG_ROR_LIM n)
  let ror := r.elim false (fun v => decide (lim8 < v) || (s.pwr.ror.contains n && decide (lim8 ≤ v)))
  let warn := hi || decide (x < s.rdI (BEL_CH_LIM_WARN_LO n)) || (ror && act / 4 % 2 == 1)
  let throt := thr || (ror && act / 2 % 2 == 1)
  let shut := decide (s.rdI (BEL_CH_ACT_SHUT n) < x) || (ror && act % 2 == 1)
  let s1 := s.updPwr (fun p => { p with
    hi := setIn hi n p.hi, thr := setIn thr n p.thr, ror := setIn ror n p.ror, warn := setIn warn n p.warn, throt := setIn throt n p.throt,
    shut := setIn shut n p.shut })
  let s2 := if warn && !s.pwr.warn.contains n then (s1.belIrq 28).hwPost 0x0205 3 4 [BitVec.ofNat 8 n] else s1
  if shut && !s.pwr.shut.contains n then s2.shutdown n else s2

/-- A channel that is not enabled holds no limit. -/
def State.belOff (s : State) (n : Nat) : State :=
  s.updPwr (fun p => { p with
    hi := removeN n p.hi, thr := removeN n p.thr, ror := removeN n p.ror, warn := removeN n p.warn, throt := removeN n p.throt,
    shut := removeN n p.shut })

/-- IN_RANGE of a rail (PWR_RAIL_STAT): its channel lies within its WARN limits. -/
def State.railRange (s : State) (n : Nat) (x : Int) : State :=
  if 21 ≤ n ∧ n < 27 then
    s.wb ⟨PWR_RAIL_STAT, n - 21, 1⟩ (decide (s.rdI (BEL_CH_LIM_WARN_LO n) ≤ x) && decide (x ≤ s.rdI (BEL_CH_LIM_WARN_HI n)))
  else s

/-- A slot of the round ends with its channel's sample. -/
def State.belSlot (s : State) (raw : Nat) : State :=
  let n := s.rd BEL_ROUND_SLOT
  let (s0, x) := s.belSample n raw
  let h := ((s0.pwr.hist.find? (fun e => e.1 == n)).map (·.2)).getD []
  let r := rate8 h x
  let s1 := (s0.wrI (BEL_CH_VAL_SAMPLE n) x).wrI (BEL_CH_VAL_RATE n) (clampI ((r.getD 0) / 8) (-32768) 32767)
  let s2 := s1.updPwr (fun p => { p with hist := (n, (x :: h).take 17) :: p.hist.filter (fun e => !(e.1 == n)) })
  let s3 := (if s.on (BEL_CH_CFG_EN n) then s2.belLimits n x r else s2.belOff n).railRange n x
  let s4 := s3.setKinds s3.throtKinds
  let s5 := s4.wr BEL_ROUND_SLOT (n + 1)
  if n = 63 then s5.wr BEL_ROUND_ROUNDS (s.rd BEL_ROUND_ROUNDS + 1) else s5

/-- R510 to R514, R517: a slot ends. In STOPPING the throttle kinds clear and the shut-down completes. -/
def execBelfrySlotEnd (raw : Nat) (s : State) : Out :=
  if s.isOn bBEL 0 then .next ((s.belSlot raw).dmaPulse 12)
  else if s.st bBEL 0 = stSTOPPING then
    .next (((s.updPwr (fun p => { p with throt := [], thr := [] })).setKinds 0).dmaPulse 12 |>.shutDone bBEL 0)
  else .next s

/-- The start actions of the Belfry: histories clear and a round begins at slot 0 (R517). -/
def State.belStart (s : State) : State :=
  (s.updPwr (fun p => { p with hist := [], hi := [], thr := [], ror := [], warn := [], throt := [], shut := [] })).wr BEL_ROUND_SLOT 0

/-! ## Filtered inputs (R518 to R521) -/

def State.updInput (s : State) (i : Nat) (f : InputState → InputState) : State :=
  s.updPwr (fun p => { p with inputs := upd p.inputs i (f (nth p.inputs i {})) })

/-- BURST in millionths of a token; 0 acts as 1. -/
def State.inBurst (s : State) (i : Nat) : Nat := atLeast1 (s.rd (BEL_IN_RATE_BURST i)) * 1000000

/-- The tokens of an input now: RATE per second up to BURST; a bucket never used is full. -/
def State.inTokens (s : State) (i : Nat) : Nat :=
  let x := nth s.pwr.inputs i {}
  if x.fresh then s.inBurst i else min (s.inBurst i) (x.tokens + (s.fwk.aon - x.since) * s.rd (BEL_IN_RATE_RATE i) / 25)

/-- What an acted-on activation does: EMRG_RETRACT_N retracts both actuators (R149), PREAMP_FLT_N gives the Lanterns a fault stop (R248). -/
def State.inActed (s : State) (i : Nat) : State :=
  if i = 3 then (if s.powered 9 then (s.emergency .A 3).emergency .B 3 else s)
  else if i = 1 then
    let one := fun (s : State) (t : Tower) => if s.powered (5 + t.idx) then s.lanFault t cPREAMP else s
    one (one s .A) .B
  else s

/-- The level that consumers see has changed: gates under R229 and R230, the shock hold of R148. -/
def State.inLevel (s : State) (i : Nat) : State :=
  if i = 1 then s.regateBoth
  else if i = 2 ∧ s.inActive 2 then (s.shockSet .A).shockSet .B
  else s

/-- An activation (R519, R520): acted on when the input is armed and holds a token; without a token it is counted, and SYNC_IN's over-rate
clears SYNC_LOCKED. -/
def State.activation (s : State) (i : Nat) : State :=
  if s.on (BEL_IN_STAT_ARMED i) = false then s
  else if 1000000 ≤ s.inTokens i then
    ((s.updInput i (fun _ => { tokens := s.inTokens i - 1000000, since := s.fwk.aon, fresh := false })).wr (BEL_IN_STAT_ARMED i) 0).inActed i
  else
    let s1 := ((s.bump (BEL_IN_STAT_OVR_CNT i) 1).wr (BEL_IN_STAT_OVR i) 1).belIrq 23
    if i = 0 then s1.syncLose 2 else s1

/-- R518 to R520: a level has held for MINPW and becomes the filtered level. -/
def execInputFilterChange (i : Nat) (active : Bool) (s : State) : Out :=
  if 4 ≤ i ∨ s.on (BEL_IN_STAT_LEVEL i) = active then .next s
  else
    let s1 := s.wb (BEL_IN_STAT_LEVEL i) active
    .next ((if active then s1.activation i else s1).inLevel i)

/-- R520, R521: the input has been inactive for REARM ms (at least 100 for EMRG_RETRACT_N): it re-arms, and STUCK clears. -/
def execInputRearm (i : Nat) (s : State) : Out :=
  if 4 ≤ i ∨ s.on (BEL_IN_STAT_LEVEL i) then .next s
  else .next (((s.wr (BEL_IN_STAT_ARMED i) 1).wr (BEL_IN_STAT_STUCK i) 0).inLevel i)

/-- R521: the filtered level has stayed active for STUCK ms. EMRG_RETRACT_N never is STUCK. -/
def execInputStuck (i : Nat) (s : State) : Out :=
  if 3 ≤ i ∨ s.on (BEL_IN_STAT_LEVEL i) = false ∨ s.rd (BEL_IN_STUCK_MS i) = 0 ∨ s.on (BEL_IN_STAT_STUCK i) then .next s
  else .next ((((s.wr (BEL_IN_STAT_STUCK i) 1).belIrq 24).hwPost 0x0204 3 4 [BitVec.ofNat 8 i]).inLevel i)

/-- R519: the bucket is full again; OVR clears. -/
def execInputBucketFull (i : Nat) (s : State) : Out :=
  .next (if 4 ≤ i ∨ s.inTokens i < s.inBurst i then s else s.wr (BEL_IN_STAT_OVR i) 0)

/-- A write of PWR_PSTATE: 6 and 7 are ignored (R504). -/
def State.pstateWrite (s : State) (val : Word) : State :=
  if 6 ≤ fieldOf val 0 3 then s.pwrRefuse else s.wr PWR_PSTATE_STATE (fieldOf val 0 3)

end Sys2Proof.Machine
end

