-- ==== Sys2Proof/Machine/Spr.lean ====
section
/-! DEFINITION. Spires: queues, completion records, machine checks, start and halt, control store and plan unit. -/

namespace Sys2Proof.Machine

def State.sprIrq (s : State) (cls bit : Nat) : State := s.irq bSPR cls 0 bit

/-- The spires of a class. -/
def spiresOf (cls : Nat) : List Spire := (List.range (classSize cls)).map (fun i => ⟨cls, i⟩)

/-- The Tower of a track sequencer or a band mover; integrity engines and packet engines have none. -/
def sprTower (sp : Spire) : Tower :=
  if sp.cls = 0 then (if sp.idx < 4 then .A else .B) else if sp.idx < 2 then .A else .B

def towerSpire (sp : Spire) : Bool := sp.cls == 0 || sp.cls == 2

/-- The fabric port of a spire (R283). -/
def sprPort (sp : Spire) : Nat := if towerSpire sp then 8 + (sprTower sp).idx else if sp.cls = 1 then 10 else 11

/-- Working register `n`. -/
def State.w (s : State) (sp : Spire) (n : Nat) : Nat := (nth (s.spire sp).w n 0).toNat

def State.setW (s : State) (sp : Spire) (n : Nat) (v : Word) : State := s.updSpire sp (fun p => { p with w := upd p.w n v })

/-- The angle or time that stamps the records and trace packets of a spire (Tables 10-7 and 20-10). -/
def State.sprStamp (s : State) (sp : Spire) : Nat :=
  if towerSpire sp then s.localAngle (sprTower sp) else s.fwk.mtime % 2 ^ 32

/-! ## Trace (Table 20-10) -/

def sprSource (sp : Spire) : Nat :=
  (if sp.cls = 0 then 0 else if sp.cls = 1 then 0x10 else if sp.cls = 2 then 0x20 else 0x28) + sp.idx

def State.sprTrace (s : State) (sp : Spire) (kind : Nat) (l : List Byte) : State := s.trace sp.cls (sprSource sp) kind l

/-- The FLOW packet of a taken branch, CALL or RET. -/
def State.flow (s : State) (sp : Spire) (pc : Nat) : State := s.sprTrace sp 1 (leBytes 2 pc ++ leBytes 4 (s.sprStamp sp))

/-! ## Completion records (R295, R296) -/

/-- The bit of SPR_COMP_PEND and of SPR_MAP. -/
def compFld (sp : Spire) : Fld := ⟨SPR_COMP_PEND sp.cls, sp.idx, 1⟩

/-- A record of Table 10-7 for the command header `hdr`; COMP_PEND is set whether or not the ring takes it. A header that names ring 8
to 15 names no ring. -/
def State.postRec (s : State) (sp : Spire) (hdr : Word) (status ra rb : Nat) : State :=
  let r := fieldOf hdr 20 4
  let s0 := (s.wr (compFld sp) 1).sprTrace sp 2 [BitVec.ofNat 8 status]
  let size := ringSize (s.rd (SPR_CRING_CFG_LOG2SIZE sp.cls r)) 4 10 6
  let prod := s.rd (SPR_CRING_PROD_INDEX sp.cls r)
  if 8 ≤ r then s0
  else if (prod + 65536 - s.rd (SPR_CRING_CONS_INDEX sp.cls r)) % 65536 = size then s0.sprIrq sp.cls 25
  else
    let w0 := status * 2 ^ 24 + sp.cls * 2 ^ 22 + sp.idx * 2 ^ 16 + fieldOf hdr 0 16
    let s1 := (s0.setWords (s.rd (SPR_CRING_BASE_BASE sp.cls r) / 16 * 16 + 16 * (prod % size))
      [BitVec.ofNat 32 w0, BitVec.ofNat 32 ra, BitVec.ofNat 32 rb, BitVec.ofNat 32 (s.sprStamp sp)]).wr
        (SPR_CRING_PROD_INDEX sp.cls r) (prod + 1)
    if sp.cls = 0 ∧ 4 ≤ r then s1.updSpire ⟨2, r - 4⟩ (fun p => { p with ef1 := true }) else s1

/-! ## Leaving RUN and WAIT (Table 10-15) -/

/-- Captures and emits of a sequencer that have not started are discarded (R294). -/
def State.dropPlan (s : State) (sp : Spire) : State :=
  let t := sprTower sp
  let s1 := s.updChn t (fun c => { c with plans := c.plans.filter (fun p => !(p.owner == sp.idx % 4)) })
  if sp.idx % 4 = 0 then
    s1.updTwr t (fun x => { x with run := x.run.bind (fun r =>
      if r.ended then some r
      else if r.writing then some { r with count := r.cur + 1 }
      else if r.cur = 0 then none
      else some { r with count := r.cur, ended := true }) })
  else s1

/-- The effects of entering HALTED or MCHECK on the surroundings. -/
def State.sprSurround (s : State) (sp : Spire) : State :=
  if sp.cls = 0 then
    let t := sprTower sp
    let o := sp.idx % 4
    let s1 := s.cmpFlushSeq sp.idx
    let c := s1.chn.get t
    let shutA := o = 1 ∧ c.winA
    let shutB := o = 2 ∧ c.winB
    let s2 := c.caps.foldl (fun (s : State) (e : CapPlan × Nat) =>
      if e.1.owner = o ∨ (shutA ∧ usesReader e.1.readers false) ∨ (shutB ∧ usesReader e.1.readers true) then s.capCut t e else s) s1
    let s3 := s2.updChn t (fun c => { c with winA := c.winA && !(o == 1), winB := c.winB && !(o == 2) })
    let s4 := if o = 0 then (s3.dropGates t).cutSector t else s3
    s4.dropPlan sp
  else s

/-- A spire stops in HALTED (0) or MCHECK (3). -/
def State.sprLeave (s : State) (sp : Spire) (st : Nat) : State :=
  (s.sprSurround sp).updSpire sp (fun p => { p with sstate := st, wait := .none })

/-- A halt from outside a RUN or WAIT spire: ABORTED is posted for a running command. -/
def State.sprHalt (s : State) (sp : Spire) : State :=
  let p := s.spire sp
  if p.sstate = 1 ∨ p.sstate = 2 then
    let s1 := s.sprLeave sp 0
    match p.running with
    | some c => (s1.postRec sp (nth c 0 0) 6 0 0).updSpire sp (fun p => { p with running := none, routine := none })
    | none => s1
  else s

def mcPARITY : Nat := 1
def mcILLEGAL : Nat := 2
def mcBUS : Nat := 3
def mcOVF : Nat := 4
def mcUNF : Nat := 5
def mcFORCE : Nat := 6

/-- The 25-bit word at an address of a spire's control store. -/
def SpireState.csAt (p : SpireState) (a : Nat) : BitVec 25 := ((p.cs.find? (fun e => e.1 == a)).map (·.2)).getD 0

/-- The word at the PC. -/
def SpireState.fetch (p : SpireState) : BitVec 25 := p.csAt p.pc

/-- A spire's PLIC source (Table 01-8). -/
def sprSrc (sp : Spire) : Nat := (if sp.cls = 0 then 32 else if sp.cls = 1 then 40 else if sp.cls = 2 then 56 else 60) + sp.idx

/-- A machine check (R300): the spire stops with the cause, PC, word and command recorded, and posts MCHECK; its event goes to the recorder
(Table 19-3). -/
def State.machineCheck (s : State) (sp : Spire) (cause : Nat) : State :=
  let p := s.spire sp
  let word := p.fetch.toNat
  let cmd := match p.running with
    | some c => 2 ^ 31 + fieldOf (nth c 0 0) 24 8 * 2 ^ 16 + fieldOf (nth c 0 0) 0 16
    | none => 0
  let s1 := (s.updSpire sp (fun p => { p with mcCause := cause, mcAddr := p.pc, mcWord := word, mcCmd := cmd })).sprLeave sp 3
  let mc := leBytes 4 (cause * 2 ^ 28 + p.pc) ++ leBytes 4 word
  let s2 := ((s1.sprTrace sp 3 mc).hwPost (0x0900 + 16 * sp.cls + sp.idx) 4 (sprSrc sp) (mc ++ leBytes 4 cmd)).sprIrq sp.cls 28
  match p.running with
  | some c => (s2.postRec sp (nth c 0 0) 7 p.pc 0).updSpire sp (fun p => { p with running := none, routine := none })
  | none => s2

/-! ## Queues (R293, R294) -/

/-- A command is queued in each of the spires named, MASK written by the device, or in none of them (QFULL). -/
def State.pushTo (s : State) (l : List Spire) (cmd : List Word) : State × Nat :=
  let cls := (l.head?.map (·.cls)).getD 0
  if l.any (fun sp => decide (16 ≤ (s.spire sp).queue.length)) then (s.sprIrq cls 26, 1)
  else
    let mask := if 2 ≤ l.length then l.foldl (fun n sp => n + 2 ^ (sp.idx % 4)) 0 else 0
    let c := upd cmd 0 (withField (nth cmd 0 0) 16 4 mask)
    (l.foldl (fun (s : State) (sp : Spire) => s.updSpire sp (fun p => { p with queue := p.queue ++ [c] })) s, 0)

/-- A write run's command is held while the assist throttle is in force and the duty is at or above LAN_DUTY.MAX (R249, R513). -/
def State.dutyHeld (s : State) (t : Tower) : Bool :=
  s.rd BEL_STATUS_THROT % 2 == 1 && decide (atLeast1 (s.rd (LAN_DUTY_MAX t.idx)) ≤ ((s.twr.get t).lan.duty.filter (fun b => b)).length)

/-- The command at the head of a queue may be taken. -/
def State.popReady (s : State) (sp : Spire) : Bool :=
  match (s.spire sp).queue with
  | [] => false
  | c :: _ => !(sp.cls == 0 && sp.idx % 4 == 0 && fieldOf (nth c 0 0) 24 8 == 0x11 && s.dutyHeld (sprTower sp))

/-- POP takes the head command `c` (R294). -/
def State.popTake (s : State) (sp : Spire) (c : List Word) : State :=
  let h := nth c 0 0
  let s1 := (s.updSpire sp (fun p => { p with
    queue := p.queue.drop 1, w := p.w.take 8 ++ c, stack := [], synced := false, syncMet := false })).sprTrace
    sp 2 (leBytes 1 (fieldOf h 24 8) ++ leBytes 2 (fieldOf h 0 16))
  if sp.cls = 0 then (s1.updSpire sp (fun p => { p with notes := [] })).dropPlan sp else s1

/-- POP (R294): a command of OPCODE 0x40 or above completes with status OPCODE and the next is taken; whether one was dispatched. `f` bounds
the number of commands. -/
def State.popGo (s : State) (sp : Spire) : Nat → State × Bool
  | 0 => (s, false)
  | f + 1 =>
    if s.popReady sp = false then (s, false)
    else
      let c := nth (s.spire sp).queue 0 []
      let h := nth c 0 0
      let s1 := s.popTake sp c
      if 0x40 ≤ fieldOf h 24 8 then (s1.postRec sp h 8 0 0).popGo sp f
      else (s1.updSpire sp (fun p => { p with running := some c, routine := none, pc := fieldOf h 24 8 }), true)

def State.pop (s : State) (sp : Spire) : State × Bool := s.popGo sp 17

/-! ## Start, halt, step, force (Table 10-14, R303) -/

/-- START. -/
def State.sprRun (s : State) (sp : Spire) : State :=
  let p := s.spire sp
  if s.isOn bSPR sp.cls = false then s.sprIrq sp.cls 24
  else if p.sstate = 0 ∨ p.sstate = 3 then
    s.updSpire sp (fun p => { p with
      sstate := 1, wait := .none, z := false, n := false, c := false, ef0 := false, ef1 := false, stack := [], pc := p.start,
      routine := none, running := none })
  else s

/-- The spire that SPR_SEL names. -/
def State.sprSel (s : State) (cls : Nat) : Option Spire :=
  if s.rd (SPR_SEL_INDEX cls) < classSize cls then some ⟨cls, s.rd (SPR_SEL_INDEX cls)⟩ else none

/-- A write of SPR_CMD: HALT, then START; a STEP is performed by the next command of the block (log entry 40). -/
def State.sprCmd (s : State) (cls : Nat) (val : Word) : State :=
  match s.sprSel cls with
  | none => s
  | some sp =>
    let s1 := if fieldOf val 1 1 = 1 then s.sprHalt sp else s
    let s2 := if fieldOf val 0 1 = 1 then s1.sprRun sp else s1
    if fieldOf val 2 1 = 1 ∧ (s2.spire sp).sstate = 0 then { s2 with sprEnv := { s2.sprEnv with steps := s2.sprEnv.steps ++ [sp] } } else s2

/-- FORCE: a machine check of a spire in RUN or WAIT. -/
def State.sprForce (s : State) (cls : Nat) (val : Word) : State :=
  match s.sprSel cls with
  | none => s
  | some sp => if fieldOf val 0 1 = 1 ∧ ((s.spire sp).sstate = 1 ∨ (s.spire sp).sstate = 2) then s.machineCheck sp mcFORCE else s

/-! ## Control store (R281, R301, R302) -/

/-- The parity bit of a microword: the 25 bits hold an odd number of ones. -/
def csParity (v : Nat) : Nat := ((List.range 24).foldl (fun n k => n + v / 2 ^ k) 1) % 2

/-- The word passes the check of R282. -/
def csGood (v : BitVec 25) : Bool := csParity (v.toNat % 2 ^ 24) == v.toNat / 2 ^ 24

def csPut (l : List (Nat × BitVec 25)) (a : Nat) (v : BitVec 25) : List (Nat × BitVec 25) :=
  let l' := l.filter (fun e => !(e.1 == a))
  if v = 0 then l' else (a, v) :: l'

/-- The spires that a control-store write addresses. -/
def State.csTargets (s : State) (cls : Nat) : List Spire :=
  if s.on (SPR_CS_ADDR_ALL cls) then spiresOf cls else (s.sprSel cls).toList

/-- ADDR after a DATA access. -/
def State.csInc (s : State) (cls : Nat) : State :=
  if s.on (SPR_CS_ADDR_AUTO_INC cls) then s.wr (SPR_CS_ADDR_ADDR cls) (s.rd (SPR_CS_ADDR_ADDR cls) + 1) else s

def State.csWrite (s : State) (cls : Nat) (val : Word) : State :=
  let l := s.csTargets cls
  if l.any (fun sp => (s.spire sp).sstate == 1 || (s.spire sp).sstate == 2) then s.sprIrq cls 27
  else
    let d := fieldOf val 0 24
    let v : BitVec 25 := BitVec.ofNat 25 (if s.on (SPR_CS_ADDR_PAR_AUTO cls) then csParity d * 2 ^ 24 + d else fieldOf val 0 25)
    (l.foldl (fun (s : State) (sp : Spire) => s.updSpire sp (fun p => { p with cs := csPut p.cs (s.rd (SPR_CS_ADDR_ADDR cls)) v })) s).csInc cls

/-! ## Pushes (R293, Table 10-9) -/

/-- Spires named by a target mask of SPR_QPUSH, and whether R293 allows the set: for several, track sequencers of one Tower. -/
def qTargets (cls m : Nat) : Option (List Spire) :=
  let l := (List.range 16).filter (fun k => m / 2 ^ k % 2 == 1)
  let low := l.all (fun k => k < 4)
  let high := l.all (fun k => 4 ≤ k && k < 8)
  if l = [] ∨ l.any (fun k => classSize cls ≤ k) then none
  else if 2 ≤ l.length ∧ ¬ (cls = 0 ∧ (low ∨ high)) then none
  else some (l.map (fun k => ⟨cls, k⟩))

/-- A write of SPR_QPUSH. -/
def State.qPush (s : State) (cls : Nat) (val : Word) : State :=
  if s.isOn bSPR cls = false then s.sprIrq cls 24
  else match qTargets cls (fieldOf val 0 16) with
    | none => s.wr (SPR_QRES_RESULT cls) 2
    | some l =>
      let r := s.pushTo l ((List.range 8).map (fun k => s.reg (SPR_QCMD cls k)))
      r.1.wr (SPR_QRES_RESULT cls) r.2

/-- The target set of MQ_PUSH for a channel core of Tower `t`. -/
def mqTargets (t : Tower) (m : Nat) : Option (List Spire) :=
  let q := (List.range 4).filter (fun k => m / 2 ^ k % 2 == 1)
  let b := (List.range 2).filter (fun k => m / 2 ^ (4 + k) % 2 == 1)
  match q, b with
  | [], [k] => some [⟨2, 2 * t.idx + k⟩]
  | _ :: _, [] => some (q.map (fun k => ⟨0, 4 * t.idx + k⟩))
  | _, _ => none

/-- A channel core writes MQ_PUSH, its staging holding `words`. -/
def State.mqPush (s : State) (core : Nat) (words : List Word) (val : Word) : State :=
  let s0 : State := { s with sprEnv := { s.sprEnv with mqW := upd s.sprEnv.mqW core (words.take 8 ++ List.replicate (8 - words.length) 0) } }
  let res := fun (s : State) (r : Nat) => { s with sprEnv := { s.sprEnv with mqRes := upd s.sprEnv.mqRes core r } }
  match mqTargets (if core < 2 then .A else .B) (fieldOf val 0 6) with
  | none => res s0 2
  | some l =>
    let cls := (l.head?.map (·.cls)).getD 0
    if s.isOn bSPR cls = false then s0.sprIrq cls 24
    else
      let r := s0.pushTo l (nth s0.sprEnv.mqW core [])
      res r.1 r.2

/-! ## Shut-down (R303) -/

/-- The SPR shut-down of a class. -/
def State.sprStop (s : State) (cls : Nat) : State := (spiresOf cls).foldl (fun (s : State) (sp : Spire) => s.sprHalt sp) s

/-! ## Plan unit (R160, R287) -/

/-- Fields of a zone descriptor (Table 06-5). -/
structure Zone where
  kind : Nat
  nbit : Nat
  dend : Nat
  dstart : Nat
  track0 : Nat
  tskew : Nat
  spt : Nat
  deriving DecidableEq, Repr

def zoneOf (l : List Word) : Zone :=
  { kind := dword l 0 28 3, nbit := dword l 0 0 17, dend := dword l 1 16 16, dstart := dword l 1 0 16, track0 := dword l 2 0 24,
    tskew := dword l 4 16 9, spt := dword l 4 0 12 }

/-- LOADZ takes a descriptor (R162); TSKEW above 511 and words with a field of more bits do not fit their fields. -/
def zoneOk (l : List Word) : Bool :=
  let z := zoneOf l
  dword l 0 31 1 == 1 && z.kind ≤ 2 && decide (16384 ≤ z.nbit) && decide (z.nbit ≤ 131071) && decide (1472 ≤ z.dstart)
    && decide (z.dend ≤ 32640) && decide (z.dstart + 8192 ≤ z.dend) && decide (dword l 4 16 16 ≤ 511) && decide (1 ≤ z.spt)
    && decide (z.spt ≤ 2047)

def Zone.bpw (z : Zone) : Nat := (z.dend - z.dstart) * z.nbit / 32768

/-- SW(t), the start wedge of a track. -/
def Zone.sw (z : Zone) (track : Nat) : Nat := ((((track : Int) - z.track0) * z.tskew) % 512).toNat

/-- Where the next sector begins after one at wedge `w` (counted from the start wedge), bit `b`. -/
def Zone.after (z : Zone) (p : Nat × Nat) : Nat × Nat :=
  let e := p.2 + sectorBits
  let w := p.1 + e / z.bpw
  let b := e % z.bpw
  if z.bpw - b < 192 then (w + 1, 0) else (w, b)

/-- Where each position of a track begins, from position `n` positions before the list's first. -/
def Zone.places (z : Zone) : Nat → Nat × Nat → List (Nat × Nat)
  | 0, _ => []
  | n + 1, p => p :: z.places n (z.after p)

def Zone.skip (z : Zone) : Nat → Nat × Nat → Nat × Nat
  | 0, p => p
  | n + 1, p => z.skip n (z.after p)

/-- The pieces of a sector that begins at (w, b): wedge, first bit, last bit. -/
def Zone.pieces (z : Zone) (p : Nat × Nat) : List (Nat × Nat × Nat) :=
  let e := p.2 + sectorBits
  (List.range ((e + z.bpw - 1) / z.bpw)).map (fun q =>
    (p.1 + q, if q = 0 then p.2 else 0, min (z.bpw - 1) (e - 1 - q * z.bpw)))

/-- One window of a plan: wedge counted from the start wedge, first and last captured bit, first and last sector bit. -/
structure Win where
  wedge : Nat
  c0 : Int
  c1 : Int
  b0 : Nat
  b1 : Nat
  deriving DecidableEq, Repr

/-- Captured bits of a sector's pieces (R198). -/
def capBitsOf (w cm : Nat) (l : List (Nat × Nat × Nat)) : List Win :=
  l.zipIdx.map (fun e => { wedge := e.1.1, c0 := (e.1.2.1 : Int) - (if e.2 = 0 then (w : Int) else (cm : Int)), c1 := e.1.2.2 + cm,
                           b0 := e.1.2.1, b1 := e.1.2.2 })

/-- A piece joins the window of its wedge. -/
def joinWin (l : List Win) (x : Win) : List Win :=
  if l.any (fun y => y.wedge == x.wedge) then
    l.map (fun y => if y.wedge = x.wedge then
      { y with c0 := min y.c0 x.c0, c1 := max y.c1 x.c1, b0 := min y.b0 x.b0, b1 := max y.b1 x.b1 } else y)
  else l ++ [x]

/-- The local angle at which window bit `b` begins, and the first at or after which bit `b` has ended, counted from the start of the track's
first revolution. -/
def Zone.openAt (z : Zone) (track wedge : Nat) (b : Int) : Int :=
  ((z.sw track + wedge : Nat) : Int) * 32768 + z.dstart + b * 32768 / (z.nbit : Int)
def Zone.closeAt (z : Zone) (track wedge : Nat) (b : Int) : Int :=
  ((z.sw track + wedge : Nat) : Int) * 32768 + z.dstart - (-((b + 1) * 32768)) / (z.nbit : Int)

/-- The pieces of a sector's capture, with the sector bits before each (R195, R198). -/
def capPieces (sw : Nat) (l : List Win) : List Piece :=
  (l.foldl (fun (x : Nat × List Piece) w =>
    (x.1 + (w.b1 + 1 - w.b0), x.2 ++ [{ wedge := (sw + w.wedge) % 512, bit := w.c0, count := (w.c1 - w.c0 + 1).toNat, s0 := x.1, b0 := w.b0 }]))
    (0, [])).2

/-- From the opening of the window that holds a sector's last piece to the end of that piece, in ac. -/
def Zone.endOff (z : Zone) (track : Nat) (wins l : List Win) : Nat :=
  (l.getLast?.bind (fun x => (wins.find? (fun w => w.wedge == x.wedge)).map (fun w =>
    (z.closeAt track x.wedge x.c1 - z.openAt track w.wedge w.c0).toNat))).getD 0

/-- The readers of a verify (TWR_VRDR; 3 acts as 2): 0 reader A, 1 reader B, 2 joint. -/
def State.vrdr (s : State) (t : Tower) (zone : Nat) : Nat := min 2 (s.rd (TWR_VRDR_RDR t.idx (zone / 16)) / 4 ^ (zone % 16) % 4)

/-- The eight fields of a window (WGET), before the pass of the track is chosen. -/
def State.winFields (s : State) (sp : Spire) (z : Zone) (write : Bool) (head zone track : Nat) (x : Win) : List (Option Int) :=
  let t := sprTower sp
  let o := z.openAt track x.wedge x.c0
  let c := z.closeAt track x.wedge x.c1
  if write then
    let wo := z.openAt track x.wedge x.b0
    let wc := z.closeAt track x.wedge x.b1
    let ag := !(s.rd (LAN_CFG_KIND t.idx) == 0)
    let v := s.vrdr t zone
    let d : Int := if v = 1 ∨ (v = 2 ∧ sp.idx % 4 = 2) then s.rd (TWR_VDLY_VDLY_B t.idx head) else s.rd (TWR_VDLY_VDLY_A t.idx head)
    [none, none, some wo, some wc, if ag then some (wo - s.rd (LAN_GATE_LEAD t.idx)) else none,
      if ag then some (wc + s.rd (LAN_GATE_TAIL t.idx)) else none, some (o + d), some (c + d)]
  else [some o, some c, none, none, none, none, none, none]

/-- A plan as RPLAN and WPLAN lay it out, or none when they refuse it. -/
def State.planOf (s : State) (sp : Spire) (write : Bool) (ra rb : Nat) : Option Plan :=
  let t := sprTower sp
  let p := s.spire sp
  p.zoneDesc.bind (fun zd =>
    let z := zoneOf zd.2.2
    let track := ra % 2 ^ 24
    let first := rb % 2 ^ 11
    let count := rb / 2 ^ 16 % (if write then 32 else 64) + 1
    let readers := if write then (let v := s.vrdr t zd.2.1; if v = 2 then 0 else v + 1) else rb / 2 ^ 24 % 4
    let secs := (z.places count (z.skip first (0, 0))).map z.pieces
    let last := secs.foldl (fun m l => l.foldl (fun m e => max m e.1) m) 0
    let caps := secs.map (capBitsOf (s.syncW t) (s.cmargin t))
    let wins := caps.foldl (fun l c => c.foldl joinWin l) []
    if (write && !(z.kind == 1)) || readers == 3 || decide (z.spt < first + count) || decide (511 ≤ last) || decide (16 < wins.length) then none
    else
      let fs := wins.map (s.winFields sp z write zd.1 zd.2.1 track)
      let w0 := ((nth fs 0 []).filterMap id)
      let m := w0.foldl min (w0.headD 0)
      let delta : Int := ux 24 (m - p.anchor)
      let shift := fun (f : Int) => ux 32 (f - m + p.anchor + delta)
      let k0 := (nth wins 0 { wedge := 0, c0 := 0, c1 := 0, b0 := 0, b1 := 0 }).wedge
      let cp := caps.zipIdx.map (fun e =>
        ({ verify := write, readers := readers, eqset := if write then 0 else rb / 2 ^ 22 % 4, head := zd.1, zone := zd.2.1, track := track,
           pos := first + e.2, fgen := if write then 3 else s.readGen t zd.1 zd.2.1 track, ordinal := e.2, last := e.2 + 1 == count, owner := sp.idx % 4,
           firstWin := (e.1.head?.map (fun x => x.wedge - k0)).getD 0,
           endOff := z.endOff track wins e.1, pieces := capPieces (z.sw track) e.1 } : CapPlan))
      some { write := write, head := zd.1, zone := zd.2.1, track := track, first := first, count := count, readers := readers,
             eqset := if write then 0 else rb / 2 ^ 22 % 4, wins := fs.map (fun l => l.map (fun f => f.map shift)), caps := cp })

/-- LOADZ: the descriptor of head `h` and zone `z`, or none when it is refused. The zone table has 12 heads (R161). -/
def State.loadZ (s : State) (sp : Spire) (h z : Nat) : Option (Nat × Nat × List Word) :=
  let a := s.rd (TWR_ZTAB_BASE_BASE (sprTower sp).idx) + (64 * h + z) * 32
  let l := (List.range 8).map (fun k => s.word (a + 4 * k))
  if h < 12 ∧ zoneOk l then some (h, z, l) else none

/-- CAPTR queues the plan's captures (Table 10-4). -/
def State.captr (s : State) (sp : Spire) (p : Plan) (dest tag : Nat) : State :=
  let t := sprTower sp
  let l := p.caps.map (fun c => { c with dest := dest + 4096 * c.ordinal, tag := (tag + c.ordinal) % 256 })
  (s.updSpire sp (fun x => { x with plan := some { p with queued := true } })).updChn t (fun c => { c with
    plans := c.plans ++ l.map (fun x => { x with baseA := c.opensA, baseB := c.opensB, run := c.runs + 1 }),
    runs := c.runs + 1 })

/-- The band slot that the running command names: word 7 of a WRITE_RUN (Table 10-10). -/
def State.startSlot (s : State) (sp : Spire) : Nat :=
  if fieldOf (nth ((s.spire sp).running.getD []) 0 0) 24 8 = 0x11 then (nth ((s.spire sp).running.getD []) 7 0).toNat else 0

/-- EMITR hands the sectors of a write plan to the encoder; the write run takes the precompensation and LAN_GATE (R228, R233), and its zone
is that of the next assist gates (R242, R243). -/
def State.emitr (s : State) (sp : Spire) (p : Plan) (src md : Nat) : State :=
  let t := sprTower sp
  ((s.updTwr t (fun x => { x with
    run := some { head := p.head, zone := p.zone, count := p.count, src := src, meta_ := md, start := s.startSlot sp,
                  precomp := [s.reg (TWR_PRECOMP t.idx 0), s.reg (TWR_PRECOMP t.idx 1)] },
    lan := { x.lan with gate := (s.reg (LAN_GATE t.idx)).toNat, runHead := p.head } })).wr (LAN_STAT_ZONE t.idx) p.zone).lanAssist t

end Sys2Proof.Machine
end

