-- ==== Sys2Proof/Machine/Blk.lean ====
section
/-! DEFINITION. The enable state machine of Table 01-5 over every block: start and shut-down actions, soft resets, the restart cycle. -/

namespace Sys2Proof.Machine

/-- The Tower of a block with two instances. -/
def instTower (i : Nat) : Tower := if i = 0 then .A else .B

/-- A BIST run holds a store of the block (Table 20-7). -/
def State.bistHolds (s : State) (b : Nat) : Bool :=
  match s.sys.bist with
  | none => false
  | some m =>
    let st := fun (k : Nat) => m / 2 ^ k % 2 == 1
    (b == bCHN && st 2) || (b == bAOT && st 3) || (b == bSPR && st 5) || ((b == bSRV || b == bSPN) && st 6) || (b == bDMA && st 8)

/-- The start actions of a block that do not belong to their completion. -/
def State.blockStart (s : State) (b i : Nat) : State :=
  if b = bATB then s.atbStart
  else if b = bSPN then s.spnStart.engRefresh .spn
  else if b = bSRV then (s.srvStart (instTower i)).engRefresh (instTower i).eng
  else if b = bCHN then s.chnStart (instTower i)
  else if b = bLAN then s.lanStart (instTower i)
  else if b = bCPL then s.cplStart (instTower i)
  else if b = bETH then s.ethStart i
  else if b = bEVR then s.evrStart
  else if b = bMEM then s.memStart
  else if b = bCUP then s.cupStart
  else if b = bBEL then s.belStart
  else s

/-- A block goes to STARTING; the start actions of one whose store is under BIST wait (R550). -/
def State.toStarting (s : State) (b i : Nat) : State :=
  let s1 := s.setSt b i stSTARTING
  if s1.bistHolds b then
    let s2 := s1.updFwk (fun y => { y with bistWait := insertN (blkKey b i) y.bistWait })
    -- ESTATE follows STATE while the start actions wait (R97)
    if b = bSRV then s2.engRefresh (instTower i).eng else if b = bSPN then s2.engRefresh .spn else s2
  else s1.blockStart b i

/-- The start actions complete. SPN, LAN and CPL complete by steps of their own; MEM completes here only by leaving self-refresh. -/
def State.startDone (s : State) (b i : Nat) : State :=
  if ¬ s.st b i = stSTARTING ∨ s.fwk.bistWait.contains (blkKey b i) ∨ b = bSPN ∨ b = bLAN ∨ b = bCPL then s
  else if b = bMEM then (if s.on MEM_STAT_TRAINED && s.on MEM_STAT_SELF_REFRESH then s.memOn else s)
  else
    let s1 := s.setSt b i stON
    if b = bATB then s1.atbStarted
    else if b = bSRV then s1.engRefresh (instTower i).eng
    else if b = bFLS then s1.flsStartUp
    else if b = bDMA then s1.dmaStart
    else s1

/-- The shut-down actions of a block. -/
def State.blockStop (s : State) (b i : Nat) : State :=
  let s0 : State := s.updFwk (fun y => { y with bistWait := removeN (blkKey b i) y.bistWait })
  if b = bATB then s0.atbStop
  else if b = bSPN then s0.spnStop.engRefresh .spn
  else if b = bSRV then (s0.srvStop (instTower i)).engRefresh (instTower i).eng
  else if b = bCHN then s0.chnStop (instTower i)
  else if b = bLAN then s0.lanStop (instTower i)
  else if b = bCPL then s0.cplStop (instTower i)
  else if b = bTWR then s0.twrStop (instTower i)
  else if b = bSPR then s0.sprStop i
  else if b = bETH then s0.ethStop i
  else if b = bAOT then s0.aotStop
  else if b = bEVR then s0.evrStop
  else if b = bCUP then s0.cupStop
  else if b = bDMA then s0.dmaStop
  else if b = bFLS then s0.flsStop
  else s0

/-- The shut-down of a block reaches its end when what it waits for has come about. SPN, LAN, CPL and BEL reach theirs by steps of
their own. -/
def State.stopDone (s : State) (b i : Nat) : State :=
  if ¬ s.st b i = stSTOPPING ∨ b = bSPN ∨ b = bLAN ∨ b = bCPL ∨ b = bBEL then s
  else if b = bSRV then (if s.srvParked (instTower i) then s.srvShutDone (instTower i) else s)
  else if b = bMEM then s.memStopEnd.shutDone bMEM 0
  else if b = bAOT then s.aotIdle
  else if b = bDMA then s.dmaSettle
  else if b = bFLS ∧ s.on FLS_OPSTAT_BUSY then s
  else if b = bFIX ∧ ¬ s.rd FIX_BUSY_BUSY = 0 then s
  else s.shutDone b i

/-- A write of CTL.EN = 1 (Table 01-5, R29, R30). -/
def State.enable (s : State) (b i : Nat) : State :=
  let v := s.st b i
  if fixedOn b then s
  else if v = stFAULT ∨ (v = stSTOPPING ∧ s.isFaultStop b i) then s
  else if v = stSTOPPING then (s.setEn b i true).setRpend b i true
  else if v = stOFF ∧ s.fwk.restart.contains (blkKey b i) = false then (s.setEn b i true).toStarting b i
  else s.setEn b i true

/-- A write of CTL.EN = 0. -/
def State.disableBlk (s : State) (b i : Nat) : State :=
  if fixedOn b then s
  else
    let s1 := s.disable b i (fun s => s.blockStop b i)
    if b = bSPN ∧ s.st b i = stFAULT then s1.spnOff else s1

/-- A write of CTL.SOFT_RST = 1 on page `p` (R8, R35). -/
def State.softReset (s : State) (b i p : Nat) : State :=
  let k := blkKey b i
  let s0 : State := s.updFwk (fun y => { y with unlocked := removeN (pageBase b i p) y.unlocked })
  if fixedOn b then s0
  else if s.st b i = stOFF ∨ s.st b i = stFAULT then s0.softApply b i
  else
    let s1 : State := s0.updFwk (fun y => { y with softWait := insertN k y.softWait })
    if s.st b i = stSTOPPING then (s1.setEn b i false).setRpend b i false
    else (s1.beginStop b i).blockStop b i

/-- A write of CTL on any page of a block (R35: with SOFT_RST = 1 the EN bit is ignored). -/
def State.ctlWrite (s : State) (b i p : Nat) (val : Word) : State :=
  if fieldOf val 1 1 = 1 then s.softReset b i p
  else if fieldOf val 0 1 = 1 then s.enable b i
  else s.disableBlk b i

/-- The address of CTL of a page. -/
def ctlAt (b i p : Nat) : Nat := pageBase b i p + 8

/-- R30: a write of CTL with EN = 1. -/
def execEnableWrite (blk inst : Nat) (s : State) : Out := .next (s.gated (ctlAt blk inst 0) (fun s => s.enable blk inst))

/-- R30: a write of CTL with EN = 0. -/
def execDisableWrite (blk inst : Nat) (s : State) : Out := .next (s.gated (ctlAt blk inst 0) (fun s => s.disableBlk blk inst))

/-- R35: a write of CTL with SOFT_RST = 1. -/
def execSoftReset (blk inst page : Nat) (s : State) : Out := .next (s.gated (ctlAt blk inst page) (fun s => s.softReset blk inst page))

/-- R30: the start actions of a block complete. -/
def execStartComplete (blk inst : Nat) (s : State) : Out := .next (s.startDone blk inst)

/-- R30, R31: the shut-down of a block reaches its end. -/
def execShutdownComplete (blk inst : Nat) (s : State) : Out := .next (s.stopDone blk inst)

/-- R30: the restart cycle ends. -/
def execRestartCycleEnd (blk inst : Nat) (s : State) : Out :=
  .next (if s.fwk.restart.contains (blkKey blk inst) then
    (s.updFwk (fun y => { y with restart := removeN (blkKey blk inst) y.restart })).toStarting blk inst else s)

end Sys2Proof.Machine
end

