-- ==== Sys2Proof/Machine/Sys.lean ====
section
/-! DEFINITION. Reset, boot and test: reset requests, watchdog, boot ROM, UART_0 listener, memory BIST, TAP and trace port. -/

namespace Sys2Proof.Machine

def State.updSys (s : State) (f : SysState → SysState) : State := { s with sys := f s.sys }
def State.sysIrq (s : State) (p bit : Nat) : State := s.irq bSYS 0 p bit

/-- SYS CMD_REFUSED. -/
def State.sysRefuse (s : State) : State := s.sysIrq 0 27

/-! ## Reset requests (R536 to R540) -/

/-- R536, R540, R542: a power-on reset; `fails` names the stores that fail their BIST. -/
def execPowerOnReset (fails : Nat) (failActive : Bool) (s : State) : Out := .next (s.powerOn fails failActive)

/-- NOW with PEND: steps 4 and 5 of Table 12-11 with the clock record of R392, and the reset. -/
def State.deferredReset (s : State) : State :=
  let gone := s.ackPending
  let s1 := (gone.foldl (fun (s : State) o => s.dropObj o.vault o.handle) s).updObj (fun x => { x with
    lost := gone.map (lostOf 2), lostSource := 1, summaryMissing := false, lostBoot := s.rd EVR_BOOT_BOOT, lostClock := s.dom.clock })
  let s2 := (s1.aot.sess.filter (fun e => e.2.st == 2 || e.2.st == 1)).foldl (fun (s : State) (e : Nat × Sess) => s.sessClose e.1 6) s1
  (s2.recWrite s2.dom.clock).deviceReset 4

/-- DEFER: PEND and RST_REQ; firmware ends the commands (Table 12-11). -/
def State.deferBegin (s : State) : State :=
  if s.on SYS_RST_REQ_PEND then s
  else
    let s1 := ((s.wr SYS_RST_REQ_PEND 1).sysIrq 0 28).updObj (fun x => { x with resetting := true })
    s1.obj.cmds.foldl (fun (s : State) (c : Cmd) => s.endCmd c stBY_RESET) s1

/-- A write of SYS_RST_REQ: NOW acts with PEND as it stood. -/
def State.rstReq (s : State) (val : Word) : State :=
  if fieldOf val 0 1 = 1 then (if s.on SYS_RST_REQ_PEND then s.deferredReset else s.deviceReset 2)
  else if fieldOf val 1 1 = 1 then s.deferBegin
  else s

/-- R536: a write of SYS_RST_REQ.NOW. -/
def execSwNow (val : Word) (s : State) : Out := .next (s.gated SYS_RST_REQ (fun s => s.rstReq (withField val 0 1 1)))

/-- R538: a write of SYS_RST_REQ.DEFER alone. -/
def execSwDefer (val : Word) (s : State) : Out :=
  .next (s.gated SYS_RST_REQ (fun s => s.rstReq (withField (withField val 0 1 0) 1 1 1)))

/-- R538: SYS_RST_DEFER.MS has passed with PEND 1. -/
def execDeferTimeout (s : State) : Out := .next (if s.on SYS_RST_REQ_PEND then s.deviceReset 0x80 else s)

/-! ## Watchdog (R539) -/

/-- The count is loaded. -/
def State.wdtLoad (s : State) : State := s.updSys (fun x => { x with wdtAt := s.fwk.aon })

/-- SYS_WDT_STAT.LEFT: whole milliseconds to the next expiry, rounded up. -/
def State.wdtLeft (s : State) : Nat :=
  if s.on SYS_WDT_CFG_EN then (atLeast1 (s.rd SYS_WDT_CFG_MS) * 25000 - (s.fwk.aon - s.sys.wdtAt) + 24999) / 25000 else 0

/-- R539: the count of the watchdog runs out. The count stands still in a hold-up. -/
def execWatchdogExpiry (s : State) : Out :=
  .next (if s.on SYS_WDT_CFG_EN ∧ s.fwk.holdup = false then
    (if s.on SYS_WDT_STAT_WARNED then s.deviceReset 8 else ((s.wr SYS_WDT_STAT_WARNED 1).sysIrq 2 28).wdtLoad) else s)

/-- A write of SYS_WDT_KICK. -/
def State.wdtKick (s : State) (val : Word) : State :=
  if val = 0x6B1D#32 then (s.wr SYS_WDT_STAT_WARNED 0).wdtLoad else s.sysRefuse

/-- R539: a write of SYS_WDT_KICK. -/
def execWdtKick (val : Word) (s : State) : Out := .next (s.gated SYS_WDT_KICK (fun s => s.wdtKick val))

/-- A write of SYS_WDT_CFG: under LOCK, EN and LOCK ignore writes of 0. EN from 0 to 1 loads the count. -/
def State.wdtCfg (s : State) (val : Word) : State :=
  let lock := s.on SYS_WDT_CFG_LOCK
  let was := s.on SYS_WDT_CFG_EN
  let s1 := ((s.wr SYS_WDT_CFG_MS (fieldOf val 0 16)).wb SYS_WDT_CFG_EN (fieldOf val 31 1 == 1 || (lock && was))).wb SYS_WDT_CFG_LOCK
    (fieldOf val 30 1 == 1 || lock)
  if s1.on SYS_WDT_CFG_EN && !was then s1.wdtLoad else s1

/-! ## Harts (R545) -/

/-- A write of SYS_HART_RUN: ones set bits. -/
def State.hartRun (s : State) (val : Word) : State := s.wr SYS_HART_RUN_RUN (Nat.lor (s.rd SYS_HART_RUN_RUN) (fieldOf val 0 12))

/-- R545: a write of SYS_HART_RUN. -/
def execHartRun (val : Word) (s : State) : Out := .next (s.gated SYS_HART_RUN (fun s => s.hartRun val))

/-- A write of a vector register (word `a`) of hart `h`. -/
def State.rvecWrite (s : State) (h a : Nat) (val : Word) : State :=
  if s.rd SYS_HART_RUN_RUN / 2 ^ h % 2 = 1 then s.sysRefuse else s.storeRow a val

/-! ## Boot ROM (R543, R544) -/

/-- The boot ROM records its progress. -/
def State.bootCode (s : State) (c : Nat) : State := s.wr SYS_BOOT_STAT_CODE c

/-- The calibration row's CRC (R487). -/
def State.calOk (s : State) : Bool := crcBytes (s.norBytes 0x01810000 2044) == leNat (s.norBytes 0x018107FC 4)

/-- Entry `k` of a slot's boot table (R544). -/
def State.bootEntry (s : State) (n k : Nat) : Nat := beNat (s.slotBytes n (160 + 4 * k) 4)

/-- The slot's image is startable (R399, R544). -/
def State.startable (s : State) (n : Nat) : Bool :=
  let len := beNat (s.slotBytes n 4 4)
  s.slotOk n && (List.range 3).all (fun k =>
    let e := s.bootEntry n k
    e % 4 == 0 && decide (160 ≤ e) && decide (e < 160 + len))

/-- A hart's reset vector. -/
def State.setRvec (s : State) (h a : Nat) : State := (s.wr (SYS_HART_RVEC_LO_ADDR h) (a / 4)).wr (SYS_HART_RVEC_HI_ADDR h) (a / 2 ^ 32)

/-- Step 8: the vectors, and the jump to the image. Its power-on self-tests have passed, so SVN_MIN follows it (R401). -/
def State.launch (s : State) (n : Nat) : State :=
  let base := fwSlotAddr n
  let s1 := (List.range 12).foldl (fun (s : State) (h : Nat) => s.setRvec h (base + s.bootEntry n (if h < 8 then 1 else 2))) s
  let s2 := s1.updDom (fun d => { d with running := n, svnMin := max d.svnMin (beNat (s.slotBytes n 8 4)) })
  ((s2.wr SYS_BOOT_STAT_SLOT n).bootCode 0x50).updSys (fun x => { x with launched := true, listener := none })

/-- Steps 6 to 8. -/
def State.bootImage (s : State) : State :=
  let s1 := s.bootCode 0x40
  let a := s.dom.bootSlot
  if s.startable a then s1.launch a
  else if s.startable (1 - a) then s1.launch (1 - a)
  else ((s1.wr SYS_BOOT_STAT_SLOT 3).bootCode 0xE0).updSys (fun x => { x with listener := some { recovery := true } })

/-- Steps 1 to 5, `pass` being the result of the self-tests. -/
def State.bootRom (s : State) (pass : Nat) : State :=
  let s0 := (if s.on SYS_FUSE_STAT_LOADED then s else s.fuseLoad.pllLock).updSys (fun x => { x with hart12 := true })
  if s0.rd SYS_BIST_POR_FAIL / 2 % 2 = 1 then s0.bootCode 0xF1
  else
    let r := (((s0.bootCode 0x10).cupSpad 0x101#32).bootCode 0x20).loadHuk.selfTests pass
    let s2 := ((if r.2 then (if s.dom.keyRecord then r.1.domOperational else r.1.wr DOM_MSTATE_MSTATE 4) else r.1).wb SYS_BOOT_STAT_CAL_OK
      s.calOk).bootCode 0x30
    let m := s2.rd DOM_MSTATE_MSTATE
    if m = 2 then s2.bootCode 0xF0
    else if m = 3 ∨ m = 4 then (s2.bootCode 0xE1).updSys (fun x => { x with listener := some {} })
    else s2.bootImage

/-- R542 to R544: after the hardware steps, hart 12 starts at the boot ROM. -/
def execHart12Start (pass : Nat) (s : State) : Out := .next (if s.halted || s.sys.hart12 then s else s.bootRom pass)

/-! ## UART_0 listener (R547) -/

/-- R547: 2 s without a valid frame; the recovery listener goes on until a reset. -/
def execListenerTimeout (s : State) : Out :=
  .next (match s.sys.listener with
    | none => s
    | some l => if l.recovery then s else (s.updSys (fun x => { x with listener := none })).bootImage)

def lsOK : Nat := 0
def lsCRC : Nat := 1
def lsREFUSED : Nat := 2
def lsFORMAT : Nat := 3

/-- The listener's answer to a frame. -/
def State.answer (s : State) (cmd status : Nat) (l : List Byte) : State := s.updSys (fun x => { x with answer := some (cmd, status, l) })

/-- A frame reaches the listener: its CRC-32C over command and payload and the length of the payload are checked, then `f` answers. With no listener nothing does. -/
def State.frame (s : State) (cmd crc : Nat) (payload : List Byte) (lenOk : Bool) (f : Listener → State) : State :=
  match s.sys.listener with
  | none => s
  | some l =>
    if ¬ crc = crcBytes (BitVec.ofNat 8 cmd :: payload) then s.answer cmd lsCRC []
    else if lenOk = false then s.answer cmd lsFORMAT []
    else f l

/-- The module takes personalisation: UNPERSONALISED or ZEROISED (Table 20-5). -/
def State.personalises (s : State) : Bool := s.rd DOM_MSTATE_MSTATE == 3 || s.rd DOM_MSTATE_MSTATE == 4

def State.setListener (s : State) (l : Listener) : State := s.updSys (fun x => { x with listener := some l })

/-- Listener command ID. -/
def execId (crc : Nat) (payload : List Byte) (s : State) : Out :=
  .next (s.frame 1 crc payload payload.isEmpty (fun _ =>
    s.answer 1 lsOK (beBytes 8 s.sys.fuse.die ++ beBytes 1 (s.rd DOM_MSTATE_MSTATE) ++ Config.romVersion)))

/-- Listener command GENKEY: the DRBG draws a device identity key. -/
def execGenkey (crc : Nat) (payload : List Byte) (s : State) : Out :=
  .next (s.frame 2 crc payload payload.isEmpty (fun l =>
    if s.personalises then
      let r := s.rand 448
      let k := ecPrivate r.1
      ((r.2.setListener { l with devKey := some k, cert := none, key1 := none }).wr ⟨DOM_ST_RESULT, 12, 1⟩ 1).answer 2 lsOK (ecPublic k)
    else s.answer 2 lsREFUSED []))

/-- Listener command PUTCERT. -/
def execPutcert (crc : Nat) (payload : List Byte) (s : State) : Out :=
  .next (s.frame 3 crc payload (decide (payload.length ≤ 4096)) (fun l =>
    if l.devKey.isSome then (s.setListener { l with cert := some payload }).answer 3 lsOK [] else s.answer 3 lsREFUSED []))

/-- Listener command PUTANCHOR: slot, role, 97-byte point, 32-byte mask. -/
def execPutanchor (crc : Nat) (payload : List Byte) (s : State) : Out :=
  .next (s.frame 4 crc payload (payload.length == 131) (fun l =>
    let a : Anchor := { slot := byteAt payload 0, role := byteAt payload 1, point := (payload.drop 2).take 97, mask := beNat (payload.drop 99) }
    if s.personalises = false then s.answer 4 lsREFUSED []
    else if 8 ≤ a.slot ∨ a.role = 0 ∨ 3 < a.role then s.answer 4 lsFORMAT []
    else (s.setListener { l with anchors := l.anchors.filter (fun x => !(x.slot == a.slot)) ++ [a] }).answer 4 lsOK []))

/-- Listener command PUTIDENT: 16-byte MODEL, 16-byte SERIAL, 12 bytes of MAC addresses. -/
def execPutident (crc : Nat) (payload : List Byte) (s : State) : Out :=
  .next (s.frame 5 crc payload (payload.length == 44) (fun l =>
    if s.personalises then
      (s.setListener { l with ident := some (payload.take 16, (payload.drop 16).take 16, payload.drop 32) }).answer 5 lsOK []
    else s.answer 5 lsREFUSED []))

/-- Listener command PUTKEY1: a 97-byte point, then the 72 bytes of the wrapped key (DESIGN CHOICE, log entry 57). -/
def execPutkey1 (crc : Nat) (payload : List Byte) (s : State) : Out :=
  .next (s.frame 6 crc payload (payload.length == 169) (fun l =>
    match (l.devKey.bind (fun d => ecdh d (payload.take 97))).bind (fun z => kwUnwrap (Config.agreedKey z) 8 (beNat (payload.drop 97))) with
    | some k => if s.personalises then (s.setListener { l with key1 := some k }).answer 6 lsOK [] else s.answer 6 lsREFUSED []
    | none => s.answer 6 lsREFUSED []))

/-- The factory record of R549: each field with its CRC-32C, least significant byte first (DESIGN CHOICE, log entry 57). -/
def factoryRecord (model serial macs : List Byte) : List Byte := [model, serial, macs].flatMap (fun b => b ++ leBytes 4 (crcBytes b))

/-- COMMIT with everything it needs: device salt of 32 bytes, key record, factory record in boot sectors 8 and 9, approved mode, vault 0, and the SW_NOW
reset. -/
def State.commit (s : State) (l : Listener) (k : Nat) (cert model serial macs : List Byte) : State :=
  let r := s.rand 256
  let kek := kekOf r.1
  let n := r.2.newVault kek 0 []
  let s1 := n.2.2.updDom (fun d => { d with
    salt := r.1, devWrapped := kwWrap kek 6 k, cert := cert, anchors := l.anchors, gen1Wrapped := l.key1.map (kwWrap kek 8), keyRecord := true,
    approved := true, vaults := d.vaults.filter (fun x => !(x.id == 0)) ++ [n.1] })
  let record := factoryRecord model serial macs
  let s2 := ((s1.eraseWhole 136).eraseWhole 137).norStore (norBase + 0x808000) record |>.norStore (norBase + 0x809000) record
  let s3 := (s2.updObj (fun o => { o with model := model, serial := serial })).updSys (fun x => { x with macs := macs })
  (s3.answer 7 lsOK []).deviceReset 2

/-- Listener command COMMIT. -/
def execCommit (crc : Nat) (payload : List Byte) (s : State) : Out :=
  .next (s.frame 7 crc payload payload.isEmpty (fun l =>
    match l.devKey, l.cert, l.ident with
    | some k, some c, some (m, n, a) =>
      if s.personalises && hasCo l.anchors then s.commit l k c m n a else s.answer 7 lsREFUSED []
    | _, _, _ => s.answer 7 lsREFUSED []))

/-- Listener command LOADIMG: the slot byte, then the image, written only when it is valid. -/
def execLoadimg (crc : Nat) (payload : List Byte) (s : State) : Out :=
  .next (s.frame 0x10 crc payload (decide (160 < payload.length) && decide (payload.length ≤ 0x300001) && decide (byteAt payload 0 < 2)) (fun _ =>
    if s.imageOk (payload.drop 1) then (s.slotStore (byteAt payload 0) (payload.drop 1) false).answer 0x10 lsOK [] else s.answer 0x10 lsREFUSED []))

/-! ## Memory BIST (R550) -/

/-- The block is OFF. -/
def State.isOff (s : State) (b i : Nat) : Bool := s.st b i == stOFF

/-- The condition of Table 20-7 for one store. -/
def State.bistOk (s : State) (k : Nat) : Bool :=
  let idle := fun (b i : Nat) => let v := s.st b i; v == stOFF || v == stFAULT
  match k with
  | 2 => s.isOff bCHN 0 && s.isOff bCHN 1
  | 3 => s.isOff bAOT 0
  | 5 => s.spires.all (fun p => p.sstate == 0 || p.sstate == 3)
  | 6 => idle bSRV 0 && idle bSRV 1 && idle bSPN 0
  | 7 => s.rd PWR_HART_PARK_PARK / 256 % 16 == 15
  | 8 => (List.range 32).all (fun c => s.cst c == cOFF)
  | _ => false

/-- A write of SYS_BIST_CMD. GO reads as BUSY; while a run is on, another GO changes nothing. -/
def State.bistCmd (s : State) (val : Word) : State :=
  let s1 := if s.on SYS_BIST_CMD_GO then s else s.wr SYS_BIST_CMD_ALG (fieldOf val 0 2)
  let sel := s.rd SYS_BIST_SEL_STORE
  if fieldOf val 31 1 = 0 ∨ s.on SYS_BIST_CMD_GO then s1
  else if fieldOf val 0 2 = 3 ∨ (List.range 9).any (fun k => sel / 2 ^ k % 2 == 1 && !(s.bistOk k)) then s1.sysIrq 4 27
  else (s1.wr SYS_BIST_CMD_GO 1).updSys (fun x => { x with bist := some sel })

/-- R550: a write of SYS_BIST_CMD.GO. -/
def execBistGo (val : Word) (s : State) : Out := .next (s.gated SYS_BIST_CMD (fun s => s.bistCmd (withField val 31 1 1)))

/-- Memory from `lo` up to `hi` reads 0. -/
def State.zeroMem (s : State) (lo hi : Nat) : State :=
  { s with mem := s.mem.filter (fun c => !(decide (lo ≤ c.1) && decide (c.1 < hi))) }

/-- The traces of the three engines read 0. -/
def State.zeroTraces (s : State) : State :=
  { s with engA := { s.engA with trace := [] }, engB := { s.engB with trace := [] }, engS := { s.engS with trace := [] } }

/-- One store reads 0 after its BIST (the stores of SYS_BIST_CMD). -/
def State.zeroStore (s : State) (k : Nat) : State :=
  match k with
  | 0 => s.zeroMem 0x10000000 0x11000000
  | 1 => s.cupWalk.zeroMem 0x30000000 0x30100000
  | 2 => (s.updChn .A (fun c => { c with slots := List.replicate 51 {}, caps := [] })).updChn .B (fun c => { c with
    slots := List.replicate 51 {}, caps := [] })
  | 3 => s.updAot (fun a => { a with sess := [] })
  | 4 => { s with cores := { s.cores with l1 := List.replicate 8 [] } }
  | 5 => { s with spires := s.spires.map (fun p => { p with cs := [] }) }
  | 6 => s.zeroTraces
  | 7 => { s with cores := { s.cores with tcm := List.replicate 4 [] } }
  | 8 => s.updDma (fun d => { d with ch := d.ch.map (fun x => { x with bursts := [] }) })
  | _ => s

/-- The stores of the mask `m` read 0. -/
def State.zeroStores (s : State) (m : Nat) : State :=
  (List.range 9).foldl (fun (s : State) k => if m / 2 ^ k % 2 == 1 then s.zeroStore k else s) s

/-- R550: the BIST ends; the start actions that waited begin. -/
def execBistDone (fails : Nat) (s : State) : Out :=
  match s.sys.bist with
  | none => .next s
  | some m =>
    let s1 := (s.zeroStores m).updSys (fun x => { x with bist := none })
    let s2 := ((s1.wr SYS_BIST_RES_FAIL (Nat.lor (Nat.land (s.rd SYS_BIST_RES_FAIL) (511 - m % 512)) (Nat.land fails m))).wr
      SYS_BIST_CMD_GO 0).sysIrq 4 28
    let wait := allBlocks.filter (fun e => s.fwk.bistWait.contains (blkKey e.1 e.2))
    let s3 : State := s2.updFwk (fun y => { y with bistWait := [] })
    .next (wait.foldl (fun (s : State) (e : Nat × Nat) => s.blockStart e.1 e.2) s3)

/-! ## TAP (R553, R554) -/

/-- Which columns of Table 20-9 allow an instruction: always, outside approved mode, or with JTAG_EN too. -/
def State.tapAllows (s : State) (level : Nat) : Bool :=
  level == 0 || (!s.on DOM_MSTATE_APPROVED && (level == 1 || s.on DOM_DBG_JTAG_EN))

/-- A TAP instruction is loaded: the data register it selects and how the balls are driven. One that is not available acts as BYPASS. -/
def State.tapLoad (s : State) (code level dr balls : Nat) (f : SysState → SysState) : State :=
  if s.tapAllows level then s.updSys (fun x => f { x with tapIr := code, tapDr := dr, balls := balls })
  else s.updSys (fun x => { x with tapIr := 0xFF, tapDr := 0, balls := 0 })

/-- TAP instruction EXTEST: the balls carry the boundary cells. -/
def execExtest (loaded : List Bool) (s : State) : Out := .next (s.tapLoad 0x00 1 2 1 (fun x => { x with cells := loaded }))

/-- TAP instruction SAMPLE/PRELOAD. -/
def execSamplePreload (captured loaded : List Bool) (s : State) : Out :=
  .next (s.tapLoad 0x01 1 2 0 (fun x => { x with cells := loaded, captured := captured }))

/-- TAP instruction IDCODE. -/
def execIdcode (s : State) : Out := .next (s.tapLoad 0x02 0 1 0 id)

/-- TAP instruction CLAMP: the balls hold the boundary cells. -/
def execClamp (s : State) : Out := .next (s.tapLoad 0x03 1 0 1 id)

/-- TAP instruction HIGHZ: the balls float. -/
def execHighz (s : State) : Out := .next (s.tapLoad 0x04 1 0 2 id)

/-- TAP instruction EXTEST_PULSE. -/
def execExtestPulse (loaded : List Bool) (s : State) : Out := .next (s.tapLoad 0x05 1 2 3 (fun x => { x with cells := loaded }))

/-- TAP instruction EXTEST_TRAIN. -/
def execExtestTrain (loaded : List Bool) (s : State) : Out := .next (s.tapLoad 0x06 1 2 4 (fun x => { x with cells := loaded }))

/-- TAP instruction DEBUG. -/
def execDebug (s : State) : Out := .next (s.tapLoad 0x10 2 3 0 id)

/-- R554: the keys go and the test state begins. -/
def State.testState (s : State) : State :=
  let s1 := (s.runStarved .A).runStarved .B
  (({ s1 with keys := {} }).updDom (fun d => { d with keyRam := [], kb := none })).updSys (fun x => { x with test := true })

/-- TAP instruction MBIST: BIST of any store. -/
def execMbist (stores fails : Nat) (s : State) : Out :=
  .next (if s.tapAllows 2 then ((s.tapLoad 0x11 2 4 0 id).testState.zeroStores stores).wr SYS_BIST_RES_FAIL (Nat.land fails stores)
    else s.tapLoad 0x11 2 4 0 id)

/-- TAP instruction SCAN. -/
def execScan (s : State) : Out := .next (if s.tapAllows 2 then (s.tapLoad 0x12 2 5 0 id).testState else s.tapLoad 0x12 2 5 0 id)

/-- TAP instruction BYPASS. -/
def execBypass (s : State) : Out := .next (s.tapLoad 0xFF 0 0 0 id)

/-- The word that the selected data register shifts out: the identity register's, or the bypass bit. -/
def State.tapOut (s : State) : Nat := if s.sys.tapDr = 1 then s.rd SYS_JTAG_ID_IDCODE else 0

/-! ## Trace port (R555 to R557) -/

/-- R557: after drops, an OVERFLOW packet with their count leaves as soon as the FIFO has room. -/
def execOverflow (s : State) : Out :=
  let n := s.rd BTP_STAT_DROPPED
  .next (if s.btpOpen ∧ ¬ n = 0 ∧ s.sys.fifo.length + 6 ≤ 4096 then
    let s1 := s.updSys (fun x => { x with fifo := x.fifo ++ ([0x5A#8, 0x3F#8, 6#8, 2#8] ++ leBytes 2 n) })
    ((s1.wr BTP_STAT_LEVEL s1.sys.fifo.length).wr BTP_STAT_DROPPED 0).irq bBTP 0 0 28
  else s)

/-- One byte leaves on BTP_D0 to BTP_D7 every 4 · (DIV + 1) fabric cycles while the port sends. -/
def State.btpDrain (s : State) : State :=
  if s.fwk.cycle % (4 * (s.rd BTP_CFG_DIV + 1)) = 0 ∧ s.btpOpen ∧ ¬ s.sys.fifo.isEmpty then
    let s1 := s.updSys (fun x => { x with fifo := x.fifo.drop 1 })
    s1.wr BTP_STAT_LEVEL s1.sys.fifo.length
  else s

end Sys2Proof.Machine
end

