-- ==== Sys2Proof/Machine/Bus.lean ====
section
/-! DEFINITION. The fabric: what a register read returns, what a register write does, and reads and writes over the physical address map
(R22 to R28, Tables 01-1 and 01-3). -/

namespace Sys2Proof.Machine

/-- The next state of a meaning, or the state as it was. -/
def Out.get (o : Out) (s : State) : State :=
  match o with
  | .next t => t
  | _ => s

/-! ## Register reads -/

def wd (x : Nat) : Word := BitVec.ofNat 32 x

/-- The engine whose page E or F an address lies on. -/
def engOf (a : Nat) : Eng := if regBlk a = bSPN then .spn else if regInst a = 0 then .srvA else .srvB

/-- ENG_COEF_DATA: exponent words are sign-extended (R117). -/
def coefView (a v : Nat) : Nat :=
  if (a < 0x1000 ∧ 368 ≤ a % 512 ∧ a % 512 ≤ 374) ∨ (0x1000 ≤ a ∧ a % 16 = 12) then ux 16 (sx 8 v) else v

/-- The registers of an engine's pages that show more than their stored word; none for the others. -/
def State.engView (s : State) (e : Eng) (p off : Nat) : Option Word :=
  if p = 2 ∧ off = 0x304 then
    let a := s.rd (engFld e 2 0x300 0 13)
    some (wd (if coefExists a then coefView a (sparseGet (s.eng e).coef a) else 0))
  else if p = 2 ∧ off = 0x28 then some (wd (s.rd (engSwapPend e)))  -- SWAP reads as SWAP_PEND (R119)
  else if p = 3 ∧ off = 0x70 then
    let st := s.rd (engFld e 3 0x68 30 2)
    some (wd (if st = 1 ∨ st = 2 then 0 else sparseGet (s.eng e).trace (s.rd (engFld e 3 0x6C 12 3) * 4096 + s.rd (engFld e 3 0x6C 0 12))))
  else none

/-- SPR_STATUS.WAITON. -/
def waitCode : SprWait → Nat
  | .none => 0
  | .pop => 1
  | .waitc _ _ => 2
  | .outc _ => 3
  | .syncp => 4

/-- The flags as SPR_DBG shows them. -/
def SpireState.flags (p : SpireState) : Nat := b2n p.z + 2 * b2n p.n + 4 * b2n p.c + 8 * b2n p.ef0 + 16 * b2n p.ef1

/-- SPR_DBG_DATA. -/
def SpireState.dbg (p : SpireState) (k : Nat) : Nat :=
  if p.sstate = 1 ∨ p.sstate = 2 then 0
  else if k < 16 then (nth p.w k 0).toNat
  else if k = 16 then p.flags
  else if k < 25 then nth p.stack (k - 17) 0
  else 0

/-- SPR_MAP of a class: bits without a spire read HALTED. -/
def State.sprMap (s : State) (cls : Nat) : Nat :=
  (List.range 16).foldl (fun n k =>
    let v := (s.spire ⟨cls, k⟩).sstate
    if classSize cls ≤ k ∨ v = 0 then n + 2 ^ k else if v = 3 then n + 2 ^ (16 + k) else n) 0

/-- The registers of SPR page 0 that show the selected spire. An INDEX without a spire shows the reset values. -/
def State.sprView (s : State) (cls off : Nat) : Option Word :=
  let p := ((s.sprSel cls).map s.spire).getD {}
  if off = 0x28 then some (wd (p.sstate * 2 ^ 30 + waitCode p.wait * 2 ^ 26 + p.queue.length * 2 ^ 21 + p.stack.length * 2 ^ 16 + p.pc))
  else if off = 0x2C then some (wd p.start)
  else if off = 0x30 then some (wd (p.mcCause * 2 ^ 28 + p.mcAddr))
  else if off = 0x34 then some (wd p.mcWord)
  else if off = 0x38 then some (wd p.mcCmd)
  else if off = 0x3C then some (wd (s.sprMap cls))
  else if off = 0x44 then some (wd (p.csAt (s.rd (SPR_CS_ADDR_ADDR cls))).toNat)
  else if off = 0x4C then some (wd (p.dbg (s.rd (SPR_DBG_SEL_REG cls))))
  else none

/-- Byte `n` of a slot (R195): reader A's samples, then reader B's from 40,960 on; the stream of a reader that the capture did not use is 0, and a
byte that no sample of the capture fills is free. -/
def RbSlot.byte (x : RbSlot) (fr n : Nat) : Nat :=
  let b := decide (40960 ≤ n)
  let l := if b then x.sampB else x.sampA
  let k := if b then n - 40960 else n
  if usesReader x.cap.readers b then (match l[k]? with
    | some v => v.toNat
    | none => fr / 256 ^ (n % 4) % 256) else 0

/-- The replay buffer's diagnostic window: four samples of a slot, lowest address lowest. The descriptor area has no stated layout: its words
are free (log entry 2). -/
def State.diagView (s : State) (t : Tower) : Word :=
  let k := s.rd (CHN_RB_DIAG_ADDR_SLOT t.idx)
  let w := s.rd (CHN_RB_DIAG_ADDR_WORD t.idx)
  if 51 ≤ k ∧ k < 63 then 0
  else if k < 51 ∧ w < 20480 then wd ((List.range 4).foldl (fun x j => x + (s.slot t k).byte s.free (4 * w + j) * 256 ^ j) 0)
  else wd s.free

/-- The registers that show more than their stored word, but for the engines' and the spires'. -/
def State.blkView (s : State) (a : Nat) : Option Word :=
  let b := regBlk a
  let i := regInst a
  let p := regPage a
  let off := regOff a
  let t := instTower i
  if b = bATB then
    if a = ATB_ANGLE then some (wd s.angle32)
    else if a = ATB_RATE then some (wd s.rateView)
    else if p = 1 ∧ 0x20 ≤ off ∧ off < 0x30 then
      let n := (off - 0x20) / 4
      some (wd ((List.range 32).foldl (fun x k => x + b2n (s.cmpArmed (32 * n + k)) * 2 ^ k) 0))
    else none
  else if b = bSRV ∧ a = SRV_MODE i then some (withField (s.reg a) 12 1 (b2n s.emrgHold))
  else if b = bCHN then
    if a = CHN_COEF_DATA i then some (wd (ux 32 (sx 16 (sparseGet (s.chn.get t).coef (s.rd (CHN_COEF_ADDR_ADDR i))))))
    else if a = CHN_RB_DIAG_DATA i then some (s.diagView t)
    else none
  else if b = bTWR ∧ a = TWR_STAT i then some (withField (withField (s.reg a) 0 1 (b2n (s.wgPin t))) 1 1 (b2n (s.agPin t)))
  else if b = bLAN then
    if a = LAN_STAT i then
      some (withField (withField (withField (s.reg a) 20 4 (s.head t)) 26 1 (b2n ((s.twr.get t).lan.holdHeads.contains (s.head t))))
        27 1 (s.rd BEL_STATUS_THROT % 2))
    else if a = LAN_PTAB_DATA i then
      let n := s.rd (LAN_PTAB_ADDR_INDEX i)
      some (wd (if n < 768 then s.ptab t n else 0))
    else none
  else if b = bAOT ∧ p = 4 then
    let x := s.sessOf (s.rd AOT_SESS_SEL_INDEX)
    if a = AOT_SESS_STAT then some (wd (x.st * 2 ^ 30 + x.version % 4 * 2 ^ 28 + x.counter % 2 ^ 20))
    else if a = AOT_SESS_TX then some (wd x.next)
    else if a = AOT_SESS_RX then some (wd x.ack)
    else if a = AOT_SESS_EPOCH then some (wd (x.txEpoch % 65536 * 65536 + x.rxEpoch % 65536))
    else if a = AOT_SESS_TAGS then some (wd (x.tags.zipIdx.foldl (fun n e => if e.1.st = 0 then n else n + 2 ^ e.2) 0))
    else none
  else if b = bDOM then
    if a = DOM_CLOCK_LO then some (wd s.dom.clock)
    else if a = DOM_CLOCK_HI then some (wd (s.dom.clock / 2 ^ 32))
    else if a = DOM_CLOCK_STAT then some (wd (min 65535 s.dom.since * 65536 + s.dom.recSeq % 65536))
    else if a = DOM_TRNG_RAW then some (if s.on DOM_TRNG_CFG_RAW_TAP then wd s.free else 0)
    else none
  else if b = bMEM then
    if a = MEM_STAT then some (withField (s.reg a) 4 1 (b2n s.scrubOn))
    else if p = 1 ∧ 0x30 ≤ off ∧ off < 0x40 then some (nth (s.ddr.log.headD []) ((off - 0x30) / 4) 0)
    else if a = MEM_DEV_CNT then some (wd (sparseGet s.ddr.dev (s.rd MEM_DEV_SEL_DEV)))
    else if a = MEM_REP_STAT then some (wd s.repStat)
    else none
  else if a = DMA_QSTAT then some (withField (s.reg a) 0 1 (b2n (s.on DMA_QSTAT_ACK || (s.dma.quiesce.isSome && s.dmaAcked))))
  else if a = FLS_SECT_INFO then some (wd s.sectInfo)
  else if a = PWR_ACT then some (wd s.idleMs)
  else if a = CLK_STAT then
    some (wd ((s.reg a).toNat + b2n (!s.on CLK_CPU_BUSY) * 2 + b2n (s.isOn bETH 0) * 8 + b2n (s.isOn bETH 1) * 16))
  else if b = bEVR ∧ p = 1 then
    let x := (s.rateEntry (s.rd EVR_RL_SEL_ENTRY)).at s.fwk.mtime
    if a = EVR_RL_CFG then some (wd (x.code * 65536 + x.burst * 256 + b2n x.en))
    else if a = EVR_RL_RATE then some (wd x.rate)
    else if off = 0x2C then some (wd (x.count * 65536 + x.maxsev % 8 * 256 + min 255 (x.tokens / 25000000)))
    else none
  else if a = SYS_WDT_STAT then some (withField (s.reg a) 0 16 s.wdtLeft)
  else none

/-- The header registers as they read (R27 to R29); every page reads CTL and STAT as page 0 does. -/
def State.hdrView (s : State) (a : Nat) : Word :=
  let base := pageBase (regBlk a) (regInst a) 0
  let off := regOff a
  if off = 0x08 then wd (b2n (s.en (regBlk a) (regInst a)))
  else if off = 0x0C then (if s.fuseDis a then withField (s.reg (base + 0x0C)) 0 3 stOFF else s.reg (base + 0x0C))
  else if off = 0x18 then 0
  else if off = 0x1C then wd (b2n (s.unlocked a))
  else s.reg a

/-- Bits of a register that read as stored: a WO field reads 0. -/
def shown (f : FldDesc) : Bool := match f.acc with | .wo => false | _ => true

/-- A stored register without its WO fields and its reserved bits. -/
def State.plainView (s : State) (a : Nat) : Word :=
  wd ((fieldsAt a).foldl (fun n f => if shown f then n + fieldOf (s.reg a) f.lo f.width * 2 ^ f.lo else n) 0)

/-- What an admitted read of the register at `a` returns. -/
def State.regView (s : State) (a : Nat) : Word :=
  if regOff a < 0x20 then s.hdrView a
  else if regBlk a = bDOM ∧ s.on DOM_MSTATE_APPROVED ∧ (0x100 ≤ regOff a ∨ a = DOM_DBG) then 0
  else match s.fwk.latch.find? (fun e => e.1 == a) with
    | some e => e.2
    | none =>
      let v := if regBlk a = bSRV ∨ regBlk a = bSPN then s.engView (engOf a) (regPage a) (regOff a)
        else if regBlk a = bSPR ∧ regPage a = 0 then s.sprView (regInst a) (regOff a)
        else none
      match v with
      | some w => w
      | none => (s.blkView a).getD (s.plainView a)

/-- A high word is latched by the read of its low word, and the latch is used up by the read of the high word. -/
def State.latchAt (s : State) (a : Nat) : State := s.updFwk (fun y => { y with latch := [(a, s.regView a)] ++ y.latch.filter (fun e => !(e.1 == a)) })
def State.unlatch (s : State) (a : Nat) : State := s.updFwk (fun y => { y with latch := y.latch.filter (fun e => !(e.1 == a)) })

/-- What a read changes: windows with AUTO_INC, latches, maxima since the last read, a coefficient parity error, draws. -/
def State.readEffect (s : State) (a : Nat) : State :=
  let i := regInst a
  let t := instTower i
  let off := regOff a
  if regBlk a = bSRV ∨ regBlk a = bSPN then
    let e := engOf a
    if regPage a = 2 ∧ off = 0x304 then
      let w := s.rd (engFld e 2 0x300 0 13)
      (if (s.eng e).badPar.contains w then s.wr (engFld e 2 0x2C 13 1) 1 else s).coefInc e
    else if regPage a = 3 ∧ off = 0x70 ∧ s.on (engFld e 3 0x6C 31 1) then s.wr (engFld e 3 0x6C 0 12) (s.rd (engFld e 3 0x6C 0 12) + 1)
    else s
  else if regBlk a = bSPR ∧ regPage a = 0 ∧ off = 0x44 then s.csInc i
  else if regBlk a = bCHN ∧ a = CHN_COEF_DATA i then s.chnCoefInc t
  else if regBlk a = bCHN ∧ a = CHN_RB_DIAG_DATA i then
    (if s.on (CHN_RB_DIAG_ADDR_AUTO_INC i) then s.wr (CHN_RB_DIAG_ADDR_WORD i) (s.rd (CHN_RB_DIAG_ADDR_WORD i) + 1) else s).drawn
  else if regBlk a = bLAN ∧ a = LAN_PTAB_DATA i then
    (if s.on (LAN_PTAB_ADDR_AUTO_INC i) then s.wr (LAN_PTAB_ADDR_INDEX i) (s.rd (LAN_PTAB_ADDR_INDEX i) + 1) else s)
  else if regBlk a = bLAN ∧ regPage a = 1 ∧ 0x140 ≤ off ∧ off < 0x170 then s.wr (LAN_HEAD_TPEAK i ((off - 0x140) / 4)) 0
  else if regBlk a = bLAN ∧ regPage a = 3 ∧ 0x100 ≤ off ∧ off < 0x160 then
    (if off % 8 = 0 then (s.unlatch (a + 4)).latchAt (a + 4) else s.unlatch a)
  else if a = DOM_CLOCK_LO then (s.unlatch DOM_CLOCK_HI).latchAt DOM_CLOCK_HI
  else if a = DOM_CLOCK_HI then s.unlatch a
  else if a = DOM_TRNG_RAW ∧ s.on DOM_TRNG_CFG_RAW_TAP then s.drawn
  else if a = DMA_BUF then s.wr DMA_BUF_PEAK (s.rd DMA_BUF_IN_USE)
  else s

/-- DOM pages are served only to the management core (port 13). -/
def State.regServed (s : State) (port a : Nat) : Bool := s.served a && (port == 13 || !(regBlk a == bDOM))

/-- A read of a register page: the state, the word, and whether it was served. -/
def State.regRead (s : State) (port a n : Nat) : State × Word × Bool :=
  if n = 4 ∧ a % 4 = 0 ∧ s.regServed port a then (s.readEffect a, s.regView a, true) else (s, 0, false)

/-! ## Register writes -/

/-- A write by the access types of the register's fields (Table 00-7). -/
def State.storeField (s : State) (a port : Nat) (v : Word) (f : FldDesc) : State :=
  let g : Fld := ⟨a, f.lo, f.width⟩
  let x := fieldOf v f.lo f.width
  match f.acc with
  | .rw => s.wr g x
  | .wc => s.wr g (s.rd g - Nat.land (s.rd g) x)
  | .ws => s.wr g (Nat.lor (s.rd g) x)
  | .rp => if port = 13 then s.wr g x else s
  | _ => s

def State.storePlain (s : State) (a port : Nat) (v : Word) : State := (fieldsAt a).foldl (fun s f => s.storeField a port v f) s

/-- A write of EXPERT_KEY (R7, R8, R11). -/
def State.keyWrite (s : State) (b i p : Nat) (val : Word) : State :=
  let base := pageBase b i p
  let lock : State := s.updFwk (fun y => { y with unlocked := removeN base y.unlocked })
  if ¬ val = 0xA5E7#32 then lock
  else if b = bDOM ∧ s.on DOM_MSTATE_APPROVED then lock.irq b i p 31
  else s.updFwk (fun y => { y with unlocked := insertN base y.unlocked })

/-- A write of INT_FORCE sets bits of INT_STAT. -/
def State.intForce (s : State) (base : Nat) (val : Word) : State := s.setReg (base + 0x10) (s.reg (base + 0x10) ||| val)

/-- A write of a header register of an admitted page. -/
def State.hdrWrite (s : State) (a : Nat) (val : Word) : State :=
  let base := pageOf a
  let off := regOff a
  if off = 0x08 then s.ctlWrite (regBlk a) (regInst a) (regPage a) val
  else if off = 0x10 then s.setReg a (s.reg a &&& ~~~ val)
  else if off = 0x14 then s.setReg a val
  else if off = 0x18 then s.intForce base val
  else s

/-- SYS_MBX_DB_SET. -/
def State.mbxSet (s : State) (val : Word) : State := s.wr SYS_MBX_DB_PEND_PEND (Nat.lor (s.rd SYS_MBX_DB_PEND_PEND) (fieldOf val 0 8))

/-- A write to an engine page. -/
def State.engWrite (s : State) (e : Eng) (a port : Nat) (val : Word) : State :=
  let off := regOff a
  if regPage a = 2 then
    if off = 0x24 then (execSlotEnWrite e val s).get s
    else if off = 0x28 then
      let s1 := if fieldOf val 0 1 = 1 then (execEngSwap e s).get s else s
      let s2 := if fieldOf val 1 1 = 1 then (execFaultClr e s1).get s1 else s1
      if fieldOf val 2 1 = 1 then (execEngCntClr e s2).get s2 else s2
    else if 0x200 ≤ off ∧ off < 0x240 then (execSlotCfgWrite e ((off - 0x200) / 16) ((off - 0x200) / 4 % 4) val s).get s
    else if off = 0x304 then (execCoefWrite e val s).get s
    else s.storePlain a port val
  else if off = 0x60 then
    let s1 := s.storeRow a val
    let s2 := if fieldOf val 31 1 = 1 then (execTraceArm e s1).get s1 else s1
    if fieldOf val 30 1 = 1 then (execTraceForce e s2).get s2 else s2
  else if off = 0x20 ∧ ¬ e = .spn then (if fieldOf val 31 1 = 1 then (execProfGo (if e = .srvA then .A else .B) s).get s else s)
  else if off = 0x28 ∧ ¬ e = .spn then (execProfPWrite (if e = .srvA then .A else .B) val s).get s
  else s.storePlain a port val

/-- A write to an ATB page. -/
def State.atbWrite (s : State) (a port : Nat) (val : Word) : State :=
  let off := regOff a
  if regPage a = 1 ∧ 0x100 ≤ off ∧ off < 0x500 then
    let n := (off - 0x100) / 8
    if off % 8 = 0 then (if s.cmpArmed n then s else s.storePlain a port val)
    else if fieldOf val 31 1 = 1 then (execComparatorArm n (s.reg (ATB_CMP_TGT n)) val s).get s
    else (execComparatorDisarm n val s).get s
  else if a = ATB_CMP_FLUSH then (execCmpTestFlush val s).get s
  else if a = ATB_SKEW_T 0 then (execAtbSkewWrite .A val s).get s
  else if a = ATB_SKEW_T 1 then (execAtbSkewWrite .B val s).get s
  else if a = ATB_OBS_OFFSET then (execAtbObsOffsetWrite val s).get s
  else s.storePlain a port val

/-- A write to SRV page 0 or 1. NHEADS takes 1 to 12. -/
def State.srvWrite (s : State) (t : Tower) (a port : Nat) (val : Word) : State :=
  let i := t.idx
  if a = SRV_CFG i then
    if 1 ≤ fieldOf val 8 4 ∧ fieldOf val 8 4 ≤ 12 then s.storePlain a port val
    else (s.storePlain a port (withField val 8 4 (s.rd (SRV_CFG_NHEADS i)))).srvIrq t 21
  else if a = SRV_CMD i then s.srvCmd t (fieldOf val 0 3)
  else if a = SRV_HEAD i then (execSrvHeadWrite t val s).get s
  else if a = SRV_TRACK i then (execSrvTrackWrite t val s).get s
  else if a = SRV_OFFSET i then (execSrvOffsetWrite t val s).get s
  else s.storePlain a port val

/-- A write to a CHN page. -/
def State.chnWrite (s : State) (t : Tower) (a port : Nat) (val : Word) : State :=
  let i := t.idx
  if a = CHN_COEF_DATA i then (execChnCoefWrite t val s).get s
  else if a = CHN_RP_PUSH i then (execChnRpPush t val s).get s
  else if a = CHN_RB_PIN i then s.pinWrite t (fieldOf val 31 1 == 1) val
  else if a = CHN_CNT_CLR i then (execChnCntClr t val s).get s
  else s.storePlain a port val

/-- A write to a LAN page. KIND counts as written when its value changes; 3, and a change outside OFF and FAULT, are refused. TRIM is
firmware's only while STATE is OFF. -/
def State.lanWrite (s : State) (t : Tower) (a port : Nat) (val : Word) : State :=
  let i := t.idx
  let off := regOff a
  let v := s.st bLAN i
  if a = LAN_CFG i then
    if fieldOf val 0 2 = s.rd (LAN_CFG_KIND i) ∨ (¬ fieldOf val 0 2 = 3 ∧ (v = stOFF ∨ v = stFAULT)) then (s.storePlain a port val).regate t
    else (s.storePlain a port (withField val 0 2 (s.rd (LAN_CFG_KIND i)))).irq bLAN i 0 23
  else if a = LAN_LIMIT i then (s.storePlain a port val).lanAssist t
  else if a = LAN_PTAB_DATA i then s.ptabWrite t val
  else if regPage a = 1 ∧ 0x140 ≤ off ∧ off < 0x170 then (if v = stOFF then s.storePlain a port val else s)
  else if regPage a = 3 ∧ 0x100 ≤ off ∧ off < 0x160 then (if v = stOFF then (s.storePlain a port val).unlatch a else s)
  else s.storePlain a port val

/-- A write to an SPR page of a class. -/
def State.sprWrite (s : State) (cls a port : Nat) (val : Word) : State :=
  if a = SPR_CMD cls then s.sprCmd cls val
  else if a = SPR_START cls then (match s.sprSel cls with
    | some sp => s.updSpire sp (fun p => { p with start := fieldOf val 0 12 })
    | none => s)
  else if a = SPR_CS_DATA cls then s.csWrite cls val
  else if a = SPR_MC_FORCE cls then s.sprForce cls val
  else if a = SPR_QPUSH cls then s.qPush cls val
  else s.storePlain a port val

/-- A write to a DMA page. -/
def State.dmaWrite (s : State) (a port : Nat) (val : Word) : State :=
  let p := regPage a
  let off := regOff a
  if p = 0 ∨ off < 0x20 ∨ 0x100 ≤ off then s.storePlain a port val
  else
    let c := 4 * (p - 1) + (off - 0x20) / 0x38
    let o := (off - 0x20) % 0x38
    if 32 ≤ c then s
    else if o = 4 then s.dmaCtl c val
    else if o = 0 ∨ o = 12 ∨ o = 16 then s.dmaSetup c a val
    else if o = 44 then s.dmaDoorbell c val
    else s.storePlain a port val

/-- A write to the pages of memory, cache, network and Dome. -/
def State.dataWrite (s : State) (a port : Nat) (val : Word) : State :=
  if a = MEM_CFG then s.memCfg val
  else if a = MEM_CMD then s.memCmd val
  else if a = MEM_LOG_POP then s.memPop val
  else if a = MEM_ECC_FLIP_4 then s.storeRow a val
  else if a = CUP_SPAD then s.cupSpad val
  else if a = CUP_MAINT_CMD then s.cupMaint val
  else if a = CUP_CNT_CLR then (execCupCntClr val s).get s
  else if a = ETH_CNT_CLR 0 then (execEthCntClr 0 val s).get s
  else if a = ETH_CNT_CLR 1 then (execEthCntClr 1 val s).get s
  else if a = AOT_CNT_CLR then (execAotCntClr val s).get s
  else if a = AOT_SESS_CTL then s.sessCtl val
  else if a = DOM_CMD then (s.domCmd val s.free).drawn
  else if a = DOM_KB_CMD then s.kbWrite val
  else if a = DOM_DBG ∧ s.on DOM_MSTATE_APPROVED then s
  else s.storePlain a port val

/-- A write to the pages of flash, power, clocks, Belfry, recorder and SYS. -/
def State.baseWrite (s : State) (a port : Nat) (val : Word) : State :=
  if a = FLS_BOOT_WP then s.bootWp port val
  else if a = FLS_CNT_CLR then (execFlsCntClr val s).get s
  else if a = FLS_MSCRUB_FAIL then s.mscrubClear
  else if a = PWR_PSTATE then s.pstateWrite val
  else if a = PWR_ACT then (if fieldOf val 31 1 = 1 then s.activity else s)
  else if a = PWR_DOM_REQ then s.domReqWrite val
  else if a = PWR_AVS_REQ then (s.avsWrite val (s.free % 2 == 1)).drawn
  else if a = CLK_CPU then s.cpuWrite val
  else if a = BEL_CMD then s.belCmd val
  else if a = EVR_BASE ∨ a = EVR_BOOT ∨ a = EVR_SEQ then s.evrSetup a val
  else if a = EVR_POST then s.evrPostWrite val
  else if a = EVR_CMD then s.evrCmd port val
  else if a = EVR_RL_CFG then s.rlCfg val
  else if a = EVR_RL_RATE then s.rlRate val
  else if a = SYS_MBX_DB_SET then s.mbxSet val
  else if a = SYS_RST_REQ then s.rstReq val
  else if a = SYS_HART_RUN then s.hartRun val
  else if 0x20101040 ≤ a ∧ a < 0x201010A0 then s.rvecWrite ((a - 0x20101040) / 8) a val
  else if a = SYS_WDT_CFG then s.wdtCfg val
  else if a = SYS_WDT_KICK then s.wdtKick val
  else if a = SYS_BIST_CMD then s.bistCmd val
  else s.storePlain a port val

/-- An admitted write of a register beyond the header. -/
def State.bodyWrite (s : State) (a port : Nat) (val : Word) : State :=
  let b := regBlk a
  let i := regInst a
  if b = bATB then s.atbWrite a port val
  else if b = bSPN then
    (if a = SPN_CFG then (execSpnCfgWrite val s).get s
     else if a = SPN_GATE_FORCE then (execSpnGateForceWrite val s).get s
     else if a = SPN_SYNC_CFG then s.syncCfg val
     else if 2 ≤ regPage a then s.engWrite .spn a port val
     else s.storePlain a port val)
  else if b = bSRV then (if 2 ≤ regPage a then s.engWrite (engOf a) a port val else s.srvWrite (instTower i) a port val)
  else if b = bCHN then s.chnWrite (instTower i) a port val
  else if b = bLAN then s.lanWrite (instTower i) a port val
  else if b = bCPL ∧ a = CPL_REG_CMD i then s.cplRegCmd (instTower i) val
  else if b = bSPR then s.sprWrite i a port val
  else if b = bDMA then s.dmaWrite a port val
  else if b = bMEM ∨ b = bCUP ∨ b = bETH ∨ b = bAOT ∨ b = bDOM then s.dataWrite a port val
  else s.baseWrite a port val

/-- A write of a register of a page that answers: EXPERT_KEY always (R28, R36), the others through `gated` (R7, R9, R28, R36). -/
def State.regWrite (s : State) (port a : Nat) (val : Word) : State :=
  if regOff a = 0x1C then s.keyWrite (regBlk a) (regInst a) (regPage a) val
  else s.gated a (fun s => if regOff a < 0x20 then s.hdrWrite a val else s.bodyWrite a port val)

/-- A write of n bytes to the register window (R22): whether it was served. -/
def State.regStore (s : State) (port a n : Nat) (val : Word) : State × Bool :=
  if n = 4 ∧ a % 4 = 0 ∧ s.regServed port a then (s.regWrite port a val, true) else (s, false)

/-! ## PLIC and ACLINT (R24, R37 to R40) -/

/-- The line of a PLIC source (Table 01-8). -/
def State.plicLine (s : State) (n : Nat) : Bool :=
  if n = 0 then false
  else if n ≤ 9 then s.blockLine n 0
  else if n ≤ 11 then s.blockLine bETH (n - 10)
  else if n = 12 then s.blockLine bAOT 0
  else if n = 13 then s.blockLine bDOM 0
  else if n = 14 then s.blockLine bATB 0
  else if n = 15 then s.blockLine bSPN 0
  else if n ≤ 17 then s.blockLine bSRV (n - 16)
  else if n ≤ 19 then s.blockLine bCHN (n - 18)
  else if n ≤ 21 then s.blockLine bLAN (n - 20)
  else if n ≤ 23 then s.blockLine bCPL (n - 22)
  else if n = 24 then (List.range 4).any (fun i => s.blockLine bSPR i)
  else if n = 25 then s.blockLine bFIX 0
  else if n ≤ 27 then s.blockLine bTWR (n - 26)
  else if n = 28 then s.blockLine bBTP 0
  else if n < 32 then false
  else if n < 64 then
    let sp : Spire := if n < 40 then ⟨0, n - 32⟩ else if n < 56 then ⟨1, n - 40⟩ else if n < 60 then ⟨2, n - 56⟩ else ⟨3, n - 60⟩
    (s.spire sp).sstate == 3 || s.on (compFld sp)
  else if n < 96 then !((s.reg (dmaCh (n - 64) + 36) &&& s.reg (dmaCh (n - 64) + 40)) == 0#32)
  else if n < 104 then s.rd SYS_MBX_DB_PEND_PEND / 2 ^ (n - 96) % 2 == 1
  else false

def plicBase : Nat := 0x40000000

/-- A source is pending: its line is asserted and it is not claimed. The manual names only the published PLIC: that a source whose line falls before it is
claimed does not stay pending, with no latch of the gateway, is the model's choice (DESIGN CHOICE, log entry 59). -/
def State.plicPending (s : State) (n : Nat) : Bool := s.plicLine n && !(s.fwk.claimed.contains n)

def State.plicPrio (s : State) (n : Nat) : Nat := (s.word (plicBase + 4 * n)).toNat % 8

/-- The enable bit of a source in a context; source 13 is enabled in context 20 alone (R40). -/
def State.plicEnabled (s : State) (ctx n : Nat) : Bool :=
  (s.word (plicBase + 0x2000 + 0x80 * ctx + 4 * (n / 32))).toNat / 2 ^ (n % 32) % 2 == 1 && (!(n == 13) || ctx == 20)

/-- The source that a claim in a context returns: the highest priority, the lowest number among equals; 0 none. -/
def State.plicBest (s : State) (ctx : Nat) : Nat :=
  (List.range 128).foldl (fun best n =>
    if s.plicPending n ∧ s.plicEnabled ctx n ∧ ¬ s.plicPrio n = 0 ∧ (best = 0 ∨ s.plicPrio best < s.plicPrio n) then n else best) 0

/-- The PLIC contexts of a hart (Table 01-7): M-mode, and S-mode for the application cores. -/
def hartContexts (h : Nat) : List Nat := if h < 8 then [2 * h, 2 * h + 1] else if h ≤ 12 then [h + 8] else []

/-- The threshold of a context. -/
def State.plicThreshold (s : State) (ctx : Nat) : Nat := (s.word (plicBase + 0x200000 + 0x1000 * ctx)).toNat % 8

/-- The interrupt output of a context: a source that a claim would return lies above the threshold. -/
def State.ctxOut (s : State) (ctx : Nat) : Bool := decide (s.plicThreshold ctx < s.plicPrio (s.plicBest ctx)) && !(s.plicBest ctx == 0)

/-- The external interrupts that a hart sees, by its contexts in the order of `hartContexts` (R37). -/
def State.hartExt (s : State) (h : Nat) : List Bool := (hartContexts h).map s.ctxOut

/-- The bits that a PLIC register stores (published layout; R37, R39, R40): priorities, enables, thresholds. -/
def plicMask (off : Nat) : Nat :=
  if off < 0x200 then (if off = 0 then 0 else 7)
  else if 0x2000 ≤ off ∧ off < 0x2000 + 0x80 * 21 then
    let ctx := (off - 0x2000) / 0x80
    let w := (off - 0x2000) % 0x80 / 4
    if 4 ≤ w then 0 else if w = 0 then (if ctx = 20 then 2 ^ 32 - 2 else 2 ^ 32 - 2 - 2 ^ 13) else 2 ^ 32 - 1
  else if 0x200000 ≤ off ∧ off < 0x200000 + 0x1000 * 21 ∧ off % 0x1000 = 0 then 7
  else 0

/-- The context whose claim and complete register lies at an offset. -/
def claimCtx (off : Nat) : Option Nat :=
  if 0x200000 ≤ off ∧ off < 0x200000 + 0x1000 * 21 ∧ off % 0x1000 = 4 then some ((off - 0x200000) / 0x1000) else none

/-- A 32-bit read of the PLIC. -/
def State.plicRead (s : State) (off : Nat) : State × Word :=
  match claimCtx off with
  | some ctx =>
    let n := s.plicBest ctx
    ((s.updFwk (fun y => { y with claimed := if n = 0 then y.claimed else insertN n y.claimed })), wd n)
  | none =>
    if 0x1000 ≤ off ∧ off < 0x1010 then
      (s, wd ((List.range 32).foldl (fun x k => x + b2n (s.plicPending (32 * ((off - 0x1000) / 4) + k)) * 2 ^ k) 0))
    else (s, s.word (plicBase + off) &&& wd (plicMask off))

/-- A 32-bit write of the PLIC. -/
def State.plicWrite (s : State) (off : Nat) (val : Word) : State :=
  match claimCtx off with
  | some _ => (s.updFwk (fun y => { y with claimed := removeN val.toNat y.claimed }))
  | none => if plicMask off = 0 then s else s.setWord (plicBase + off) (val &&& wd (plicMask off))

def aclintBase : Nat := 0x42000000

/-- mtime (R24). -/
def mtimeOff : Nat := 0x4000 + 0x7FF8

/-- Bytes of the ACLINT that store: msip bit 0 of harts 0 to 12, mtimecmp of harts 0 to 12; setssip reads 0. -/
def aclintMask (off : Nat) : Nat :=
  if off < 4 * 13 then (if off % 4 = 0 then 1 else 0) else if 0x4000 ≤ off ∧ off < 0x4000 + 8 * 13 then 255 else 0

/-- Reads of the ACLINT. -/
def State.aclintRead (s : State) (off n : Nat) : List Byte :=
  (List.range n).map (fun k =>
    let o := off + k
    if mtimeOff ≤ o ∧ o < mtimeOff + 8 then BitVec.ofNat 8 (s.fwk.mtime / 256 ^ (o - mtimeOff)) else s.byte (aclintBase + o) &&& BitVec.ofNat 8 (aclintMask o))

/-- Writes of the ACLINT; mtime takes the bytes written. -/
def State.aclintWrite (s : State) (off : Nat) (l : List Byte) : State :=
  l.zipIdx.foldl (fun (s : State) (e : Byte × Nat) =>
    let o := off + e.2
    if mtimeOff ≤ o ∧ o < mtimeOff + 8 then
      let k := 256 ^ (o - mtimeOff)
      (s.updFwk (fun y => { y with mtime := y.mtime - y.mtime / k % 256 * k + e.1.toNat * k }))
    else s.setByte (aclintBase + o) (e.1 &&& BitVec.ofNat 8 (aclintMask o))) s

/-! ## Reads and writes over the address map (R23) -/

/-- The target ports of the lines that `n` bytes at `a` touch (Tables 01-1 and 01-3). -/
def targetsOf (a n : Nat) : List Nat :=
  ((List.range ((a + n + 63) / 64 - a / 64)).map (fun k =>
    let x := 64 * (a / 64 + k)
    if ddrBase ≤ x then 6 + x / 256 % 2
    else if 0x10000000 ≤ x ∧ x < 0x11000000 then 2 + x / 64 % 4
    else if 0x30000000 ≤ x ∧ x < 0x30100000 then 0
    else if x < 0x10000 ∨ (inRegs x ∧ regBlk x = bDOM) then 13
    else 14)).eraseDups

/-- Two accesses share a target port, so that they keep the order of their issue (R20). -/
def sameTarget (a n b m : Nat) : Bool := (targetsOf a n).any (fun t => (targetsOf b m).contains t)

/-- An access of n bytes at `a` lies in a range. -/
def within (a n lo hi : Nat) : Bool := decide (lo ≤ a) && decide (a + n ≤ hi)

/-- Partitions of NOR that hold the Dome's own data (Table 13-2): boot sectors 0 to 7 and main sectors 124 to 127. -/
def domNor (a n : Nat) : Bool :=
  (decide (a < 0x01808000) && decide (0x01800000 < a + n)) || (decide (a < 0x01800000) && decide (0x017C0000 < a + n))

def errResp (a n : Nat) : Resp := { data := List.replicate n 0#8, err := beats32 a n }

/-- A DDR read cut at burst boundaries. `f` bounds the bursts. -/
def State.ddrReads (s : State) (port a n : Nat) : Nat → State × Resp
  | 0 => (s, {})
  | f + 1 =>
    let k := min n (128 - a % 128)
    let r := s.ddrReadOp port a k
    if n ≤ k then r
    else
      let q := r.1.ddrReads port (a + k) (n - k) f
      (q.1, { data := r.2.data ++ q.2.data, err := r.2.err ++ q.2.err })

/-- A DDR write cut at burst boundaries. -/
def State.ddrStores (s : State) (port a : Nat) (l : List Byte) : Nat → State × Bool
  | 0 => (s, true)
  | f + 1 =>
    let k := 128 - a % 128
    let r := s.ddrStore port a (l.take k)
    if l.length ≤ k then r
    else
      let q := r.1.ddrStores port (a + k) (l.drop k) f
      (q.1, r.2 && q.2)

/-- A PLIC register by its fabric address. -/
def State.plicReadAt (s : State) (a : Nat) : State × Word := s.plicRead (a - plicBase)

/-- A word read, as the bytes of a response. -/
def wordResp (r : State × Word) : State × Resp := (r.1, { data := leBytes 4 r.2.toNat })

/-- A fabric read of n bytes at `a` from `port`. What the flash's code finds is free (log entry 2). The manual does not say which widths the PLIC and the
ACLINT accept: aligned accesses of 4 bytes (PLIC) and of 4 or 8 bytes (ACLINT) are served, others get the error response (DESIGN CHOICE, log entry 59). -/
def State.busRead (s : State) (port a n : Nat) : State × Resp :=
  if s.halted then (s, errResp a n)
  else if within a n 0 0x10000 then
    (if port = 13 then (s, { data := (List.range n).map (fun k => Config.romByte (a + k)) }) else (s, errResp a n))
  else if within a n norBase 0x01810800 then
    (if domNor a n ∧ ¬ port = 13 then (s, errResp a n) else s.drawn.flsReadOp a n (s.free % 3))
  else if within a n 0x10000000 0x11000000 then (s, { data := s.bytes a n })
  else if inRegs a then
    (let r := s.regRead port a n
     if r.2.2 then (r.1, { data := leBytes 4 r.2.1.toNat }) else (s, errResp a n))
  else if within a n 0x30000000 0x30100000 ∧ s.spadServed port a then (s, { data := s.bytes a n })
  else if within a n plicBase 0x42000000 ∧ n = 4 ∧ a % 4 = 0 then wordResp (s.plicReadAt a)
  else if within a n aclintBase 0x42010000 ∧ (n = 4 ∨ n = 8) ∧ a % n = 0 then
    (s, { data := s.aclintRead (a - aclintBase) n })
  else if within a n ddrBase (ddrBase + 2 ^ 36) then s.ddrReads port a n (n / 128 + 2)
  else (s, errResp a n)

/-- A fabric write of bytes at `a` from `port`: whether it completed without an error response. The programming supply is free. -/
def State.busWrite (s : State) (port a : Nat) (l : List Byte) : State × Bool :=
  let n := l.length
  if s.halted then (s, false)
  else if within a n norBase 0x01810800 then
    (if domNor a n ∧ ¬ port = 13 then (s, false) else s.drawn.flsWriteOp a l (s.free % 2 == 1))
  else if within a n 0x10000000 0x11000000 then (s.setBytes a l, true)
  else if inRegs a then s.regStore port a n (wd (leNat l))
  else if within a n 0x30000000 0x30100000 ∧ s.spadServed port a then (s.setBytes a l, true)
  else if within a n plicBase 0x42000000 ∧ n = 4 ∧ a % 4 = 0 then (s.plicWrite (a - plicBase) (wd (leNat l)), true)
  else if within a n aclintBase 0x42010000 ∧ (n = 4 ∨ n = 8) ∧ a % n = 0 then (s.aclintWrite (a - aclintBase) l, true)
  else if within a n ddrBase (ddrBase + 2 ^ 36) then s.ddrStores port a l (n / 128 + 2)
  else (s, false)

/-- A sequence of aligned 32-bit reads of one address (R454, SRC_FIX). -/
def State.fixRead (s : State) (port a : Nat) : Nat → State × Resp
  | 0 => (s, {})
  | k + 1 =>
    let r := s.busRead port a 4
    let q := r.1.fixRead port a k
    (q.1, { data := r.2.data ++ q.2.data, err := r.2.err ++ q.2.err })

/-- A sequence of aligned 32-bit writes to one address (R454, DST_FIX): the bytes that went through before an error, and whether all did. -/
def State.fixWrite (s : State) (port a : Nat) (l : List Byte) : Nat → State × Nat × Bool
  | 0 => (s, 0, true)
  | k + 1 =>
    let r := s.busWrite port a (l.take 4)
    if r.2 then
      let q := r.1.fixWrite port a (l.drop 4) k
      (q.1, q.2.1 + 4, q.2.2)
    else (r.1, 0, false)

/-- A 32-bit read (LD): the word and whether it was served. -/
def State.busWord (s : State) (port a : Nat) : State × Word × Bool :=
  let r := s.busRead port a 4
  (r.1, wd (leNat r.2.data), r.2.err.isEmpty)

end Sys2Proof.Machine
end

