-- ==== Sys2Proof/Machine/Xfer.lean ====
section
/-! DEFINITION. Transfers over the fabric: application-core reads and stores through the Cupola with their fills, and what the DMA engine
reads and writes. -/

namespace Sys2Proof.Machine

/-! ## Cupola: application-core accesses (R425 to R429, R438, R444, R445) -/

def corePort (core : Nat) : Nat := core / 4

/-- Requests wait while the reset walk or the start actions run (R444), and those to a scratchpad way while a walk changes it (R442). -/
def State.cupWaits (s : State) (port a : Nat) : Bool := s.st bCUP 0 == stSTARTING || (s.spadServed port a && s.spadWaits a)

/-- The address is cacheable for the cores (Table 15-1). -/
def cacheable (a : Nat) : Bool := lineInDdr (a / 64) || addrInNor a

/-- The access is cut at the end of its line. -/
def lineRoom (a n : Nat) : Nat := min n (64 - a % 64)

/-- The response to the last access. -/
def State.respond (s : State) (r : Resp) : State := { s with resp := some r }

/-- The read of a fill takes effect. -/
def State.fillRead (s : State) (x : CFill) : State × Resp :=
  match x.got with
  | some r => (s, r)
  | none => s.busRead (corePort x.core) (64 * x.line) 64

/-- Before a later request of a port reaches the fabric, the reads of its pending fills take effect, in the order of their issue (R20). -/
def State.fillsFirst (s : State) (port : Nat) : State :=
  (s.cup.fills.filter (fun x => corePort x.core == port)).foldl (fun (s : State) x =>
    let r := s.fillRead x
    r.1.updCup (fun c => { c with fills := c.fills.map (fun y => if y.line = x.line then { y with got := some r.2 } else y) })) s

/-- A read of an application core. -/
def State.coreRead (s : State) (core a n : Nat) (perr : Bool) : State :=
  if s.isOn bCUP 0 ∧ cacheable a then
    let r := s.cupLookup core (a / 64) perr
    match r.2 with
    | some d => (r.1.l1Fill core (a / 64) d).respond { data := (d.drop (a % 64)).take n }
    | none => { r.1 with resp := none }
  else
    let r := (s.fillsFirst (corePort core)).busRead (corePort core) a n
    r.1.respond r.2

/-- R425, R434, R443: an application core reads; `perr` says that the lookup meets a parity error. A miss is answered by its fill. -/
def execCupolaRead (core addr n : Nat) (perr : Bool) (s : State) : Out :=
  .next (if 8 ≤ core ∨ s.cupWaits (corePort core) addr then s else s.coreRead core addr (lineRoom addr n) perr)

/-- A store of an application core: the copies, then the target. A fill of the line that is pending answers with the bytes before the store, and is not
installed (R20; DESIGN CHOICE, log entry 58). -/
def State.coreStore (s : State) (core a : Nat) (l : List Byte) : State :=
  let s1 := if s.isOn bCUP 0 ∧ lineInDdr (a / 64) then s.cupStoreHit a l
    else if s.isOn bCUP 0 ∧ addrInNor a then s.dropLines (fun x => x == a / 64)
    else s
  let s2 := ((s1.l1Store core a l).fillsFirst (corePort core)).dropFills (fun x => x == a / 64) false
  let r := s2.busWrite (corePort core) a l
  r.1.respond { err := if r.2 then [] else beats32 a l.length }

/-- R428, R429: an application core stores. -/
def execCupolaStore (core addr : Nat) (bytes : List Byte) (s : State) : Out :=
  .next (if 8 ≤ core ∨ s.cupWaits (corePort core) addr then s else s.coreStore core addr (bytes.take (64 - addr % 64)))

/-- The fill of a line in the tracker. -/
def State.fillOf (s : State) (line : Nat) (pf : Bool) : Option CFill := s.cup.fills.find? (fun x => x.line == line && x.prefetch == pf)

/-- An older fill of the same port and target is pending: this one cannot have completed (R20). -/
def State.fillBehind (s : State) (x : CFill) : Bool :=
  (s.cup.fills.takeWhile (fun y => !(y.line == x.line))).any (fun y =>
    corePort y.core == corePort x.core && sameTarget (64 * y.line) 64 (64 * x.line) 64)

/-- R20, R429, R432, R433, R448: a demand fill returns; the core has its answer, and the line is installed where it may be. -/
def execCupolaFillDone (line : Nat) (s : State) : Out :=
  .next (match s.fillOf line false with
    | none => s
    | some x =>
      if s.fillBehind x then s
      else
        let r := s.fillRead x
        let s1 := r.1.fillReturn x r.2.data r.2.err.isEmpty
        (if r.2.err.isEmpty && !x.drop then s1.l1Fill x.core line r.2.data else s1).respond r.2)

/-- R438: a prefetch returns into the side buffer; one that meets an error response is dropped. -/
def execPrefetchFill (line : Nat) (s : State) : Out :=
  .next (match s.fillOf line true with
    | none => s
    | some x =>
      if s.fillBehind x then s
      else
        let r := s.fillRead x
        r.1.fillReturn x r.2.data r.2.err.isEmpty)

/-! ## DMA (R450 to R462) -/

/-- The reads that the DMA has issued and that have not returned: channel and burst, in the order of issue. -/
def State.dmaReads (s : State) : List (Nat × DmaBurst) :=
  sortBy (fun (a b : Nat × DmaBurst) => decide (a.2.seq ≤ b.2.seq)) ((List.range 32).flatMap (fun c =>
    ((s.chn_ c).bursts.filter (fun b => !b.writing)).map (fun b => (c, b))))

/-- Address and bytes of a read burst. -/
def State.burstRange (s : State) (c : Nat) (b : DmaBurst) : Nat × Nat :=
  let d := (s.chn_ c).desc
  if dSrcFix d then (dSrc d, 4) else (dSrc d + b.off, b.len)

/-- The read of a burst takes effect. -/
def State.dmaBurstRead (s : State) (c : Nat) (b : DmaBurst) : State × Resp :=
  match b.got with
  | some r => (s, r)
  | none =>
    let x := s.chn_ c
    if dSrcFix x.desc then s.fixRead 12 (dSrc x.desc) (b.len / 4) else s.busRead 12 (dSrc x.desc + b.off) b.len

/-- The descriptor read in flight of a channel takes effect. -/
def State.descRead (s : State) (c : Nat) : State × Resp :=
  match (s.chn_ c).got with
  | some r => (s, r)
  | none => s.busRead 12 (s.descAddr c) 32

/-- Before the DMA issues a write, the reads that it issued earlier take effect (R20). -/
def State.readsFirst (s : State) : State :=
  let s1 := s.dmaReads.foldl (fun (s : State) (e : Nat × DmaBurst) =>
    let r := s.dmaBurstRead e.1 e.2
    r.1.updCh e.1 (fun y => { y with bursts := y.bursts.map (fun z => if z.seq = e.2.seq then { z with got := some r.2 } else z) })) s
  ((List.range 32).filter (fun c => s.cst c == cFETCH || (s.chn_ c).reread)).foldl (fun (s : State) c =>
    let r := s.descRead c
    r.1.updCh c (fun y => { y with got := some r.2 })) s1

/-- An older read to the same target has not returned: this one cannot have (R20). -/
def State.readBehind (s : State) (c : Nat) (b : DmaBurst) : Bool :=
  let m := s.burstRange c b
  s.dmaReads.any (fun e => decide (e.2.seq < b.seq) && (let o := s.burstRange e.1 e.2; sameTarget o.1 o.2 m.1 m.2))

/-- The 32 bytes of a descriptor as words. -/
def descWords (l : List Byte) : List Word := (List.range 8).map (fun k => wd (leNat ((l.drop (4 * k)).take 4)))

/-- An error on a descriptor read or a word-7 write (Table 16-3). -/
def State.dmaError (s : State) (c : Nat) : State :=
  (((s.updCh c (fun _ => {})).setCst c cERROR).wr (DMA_CH_IRQ_ERROR c) 1).dmaIrq 25

/-- What follows every end of something under way: the descriptor's end, a parking channel, the block's shut-down. -/
def State.dmaNext (s : State) (c : Nat) : State := ((s.dmaEnd c).parkCheck c).dmaSettle

/-- R452, R453: the descriptor of a channel in FETCH has been read. -/
def execDescFetched (c : Nat) (s : State) : Out :=
  if 32 ≤ c ∨ ¬ s.cst c = cFETCH then .next s
  else
    let a := s.descAddr c
    let r := s.descRead c
    if r.2.err.isEmpty then
      let l := descWords r.2.data
      let s1 := r.1.updCh c (fun y => { y with desc := l, addr := a, err := if descOk l then 0 else 3, got := none })
      .next ((s1.setCst c cRUN).dmaNext c)
    else .next (r.1.dmaError c).dmaSettle

/-- Read bursts that the error of a descriptor discards (R461). -/
def dropReads (l : List DmaBurst) : List DmaBurst := l.filter (fun b => b.writing)

/-- A burst's data goes to the destination, in one or two writes (R454): the bytes that went through. -/
def State.dmaStore (s : State) (c : Nat) (b : DmaBurst) (d : List Byte) : State × Nat :=
  let x := s.chn_ c
  if dDstFix x.desc then
    let r := s.fixWrite 12 (dDst x.desc) d (d.length / 4)
    (r.1, r.2.1)
  else
    let a := dDst x.desc + b.off
    let k := s.burstOf c - a % s.burstOf c
    let r := s.busWrite 12 a (d.take k)
    if r.2 = false then (r.1, 0)
    else if d.length ≤ k then (r.1, d.length)
    else
      let q := r.1.busWrite 12 (a + k) (d.drop k)
      (q.1, if q.2 then d.length else k)

/-- A burst of a channel replaced. -/
def State.setBurst (s : State) (c : Nat) (b b' : DmaBurst) : State :=
  s.updCh c (fun y => { y with bursts := y.bursts.map (fun z => if z = b then b' else z) })

/-- R451, R454, R461: the oldest read burst of a channel returns, and its data is written to the destination; while 32 write bursts are outstanding it
waits in the shared buffer. -/
def execDmaReadDone (c : Nat) (s : State) : Out :=
  let x := s.chn_ c
  match (if c < 32 then x.bursts.find? (fun b => !b.writing) else none) with
  | none => .next s
  | some b =>
    let r := s.dmaBurstRead c b
    if s.readBehind c b then .next s
    else if r.2.err.isEmpty ∧ 32 ≤ s.dmaWrites then
      .next (r.1.updCh c (fun y => { y with bursts := y.bursts.map (fun z => if z = b then { b with got := some r.2 } else z) }))
    else if r.2.err.isEmpty then
      let w := (r.1.updCh c (fun y => { y with bursts := y.bursts.map (fun z => if z = b then { b with got := some r.2 } else z) })).readsFirst.dmaStore
        c b r.2.data
      let b1 := { b with got := some r.2 }
      .next ((w.1.setBurst c b1 { b with writing := true, good := w.2 }).updCh c (fun y => { y with read := y.read + b.len }))
    else
      .next ((r.1.updCh c (fun y => { y with bursts := dropReads y.bursts, err := if y.err = 0 then 1 else y.err })).dmaNext c)

/-- The half interrupt (R455). -/
def State.dmaHalf (s : State) (c : Nat) : State :=
  let x := s.chn_ c
  if dword x.desc 0 30 1 = 1 ∧ x.half = false ∧ dLen x.desc / 8 * 4 ≤ x.wrote then
    (s.updCh c (fun y => { y with half := true })).wr (DMA_CH_IRQ_HALF c) 1
  else s

/-- R450, R455, R461: every write of the oldest burst under write has completed; its block is free. -/
def execDmaWriteDone (c : Nat) (s : State) : Out :=
  let x := s.chn_ c
  match (if c < 32 then x.bursts.find? (fun b => b.writing) else none) with
  | none => .next s
  | some b =>
    let rest := x.bursts.erase b
    let bad := decide (b.good < b.len)
    let s1 := s.updCh c (fun y => { y with
      bursts := if bad then dropReads rest else rest, wrote := y.wrote + b.good, err := if bad && y.err == 0 then 2 else y.err })
    .next ((s1.dmaHalf c).dmaNext c)

/-- The channel continues at NEXT of a descriptor (R458). -/
def State.dmaGoOn (s : State) (c : Nat) (l : List Word) : State := ((s.setDescAddr c (dNext l)).dmaFetch c).dmaSettle

/-- R452, R455, R458: word 7 has been written. -/
def execDmaWritebackDone (c : Nat) (s : State) : Out :=
  let x := s.chn_ c
  match (if c < 32 ∧ x.hold7 = false then x.word7 else none) with
  | none => .next s
  | some w =>
    let r := s.readsFirst.busWrite 12 (s.descAddr c + 28) (leBytes 4 w.toNat)
    if r.2 = false then .next (r.1.dmaError c).dmaSettle
    else
      let bad := fieldOf w 30 1 == 1
      let s1 := r.1.updCh c (fun y => { y with word7 := none })
      let s2 := if bad then (((s1.wr (DMA_CH_IRQ_BAD c) 1).bump (DMA_CH_CNT_BAD c) 1).bump DMA_CNT_BAD_COUNT 1)
        else (if dword x.desc 0 29 1 = 1 then s1.wr (DMA_CH_IRQ_FULL c) 1 else s1).bump (DMA_CH_CNT_DONE c) 1
      .next (if dLast x.desc then
          ((s2.updCh c (fun y => { y with reread := y.park == 0, ended := !(y.park == 0) })).parkCheck c).dmaSettle
        else s2.dmaGoOn c x.desc)

/-- R459: the descriptor has been read again. -/
def execDescRereadDone (c : Nat) (s : State) : Out :=
  let x := s.chn_ c
  if 32 ≤ c ∨ x.reread = false then .next s
  else
    let r := s.descRead c
    let l := descWords r.2.data
    if r.2.err.isEmpty = false then .next (r.1.dmaError c).dmaSettle
    else if dLast l = false then .next (r.1.dmaGoOn c l)
    else if s.on (DMA_CH_STAT_DB_PEND c) then .next ((r.1.wr (DMA_CH_STAT_DB_PEND c) 0).updCh c (fun y => { y with reread := true, got := none }))
    else .next (((r.1.updCh c (fun y => { y with reread := false, ended := false, park := 0, dom := 0, got := none })).setCst c cLAST)).dmaSettle

end Sys2Proof.Machine
end

