-- ==== Sys2Proof/Machine/SprExec.lean ====
section
/-! DEFINITION. Microwords: fetch, the rows of Tables 10-1 to 10-5 and 11-10, and what ends a wait. -/

namespace Sys2Proof.Machine

/-! ## Decoding a microword (Table 10-1) -/

/-- The rows that a microword can spell. -/
inductive MRow
  | alu | alui | ldi | lui | br | cbr | call | nop | ret | halt | fence | ld | st
  | getang | arm | waitc | disarm
  | loadz | anchor | rplan | wplan | wget | captr | outc | emitr | syncp
  | push
  | hinit | hupd | hfin | gfacc | gfsolve
  | rxnext | sess | openOp | seal | rwin | rmark | txq | timer
  | pop | post
  deriving DecidableEq, Repr

/-- The class operations of a class, by FN. -/
def clsRows (cls : Nat) : List MRow :=
  if cls = 0 then [.loadz, .anchor, .rplan, .wplan, .wget, .captr, .outc, .emitr, .syncp]
  else if cls = 1 then [.rxnext, .sess, .openOp, .seal, .rwin, .rmark, .txq, .timer]
  else if cls = 2 then [.push]
  else [.hinit, .hupd, .hfin, .gfacc, .gfsolve]

/-- The row of a microword; one that R284 calls illegal is counted with its neighbours of the same OP. -/
def rowOf (cls w : Nat) : MRow :=
  let sub := bits w 16 4
  match bits w 20 4 with
  | 0 => .alu
  | 1 => .alui
  | 2 => .ldi
  | 3 => .lui
  | 4 => .br
  | 5 => .cbr
  | 6 => .call
  | 7 => if sub = 1 then .ret else if sub = 2 then .halt else if sub = 3 then .fence else .nop
  | 8 => .ld
  | 9 => .st
  | 10 => if sub = 1 then .arm else if sub = 2 then .waitc else if sub = 3 then .disarm else .getang
  | 11 => nth (clsRows cls) sub ((clsRows cls).headD .nop)
  | 12 => if sub = 1 then .post else .pop
  | _ => .nop

/-- R284. -/
def illegal (cls w : Nat) : Bool :=
  let sub := bits w 16 4
  match bits w 20 4 with
  | 0 => decide (12 < sub) || !(bits w 0 4 == 0)
  | 1 => decide (12 < sub)
  | 2 => false
  | 3 => false
  | 4 => decide (9 < sub) || !(bits w 12 4 == 0)
  | 5 => decide (3 < bits w 12 4)
  | 6 => !(bits w 12 8 == 0)
  | 7 => decide (3 < sub) || !(bits w 0 16 == 0)
  | 8 => false
  | 9 => false
  | 10 => !(cls == 0) || decide (3 < sub) || !(bits w 0 3 == 0)
  | 11 => decide ((clsRows cls).length ≤ sub)
  | 12 => decide (1 < sub)
  | _ => true

/-! ## The PC -/

def State.setPc (s : State) (sp : Spire) (n : Nat) : State := s.updSpire sp (fun p => { p with pc := n % 4096 })

/-- The next microword. -/
def State.adv (s : State) (sp : Spire) : State := s.setPc sp ((s.spire sp).pc + 1)

/-- A taken branch, CALL or RET. -/
def State.jump (s : State) (sp : Spire) (n : Nat) : State := (s.setPc sp n).flow sp n

/-- C set, and the next microword (R286). -/
def State.clsEnd (s : State) (sp : Spire) (refused : Bool) : State := (s.updSpire sp (fun p => { p with c := refused })).adv sp

/-- A class operation that leaves a result in a register. -/
def State.clsRes (s : State) (sp : Spire) (rd : Nat) (v : Option Nat) : State :=
  match v with
  | some x => (s.setW sp rd (BitVec.ofNat 32 x)).clsEnd sp false
  | none => s.clsEnd sp true

/-! ## The microwords' effects: state, spire, word -/

/-- Table 10-2: the result and C. -/
def aluFn (fn a b : Nat) (c : Bool) : Nat × Bool :=
  let k := b % 32
  match fn with
  | 0 => ((a + b) % 2 ^ 32, decide (2 ^ 32 ≤ a + b))
  | 2 => (Nat.land a b, c)
  | 3 => (Nat.lor a b, c)
  | 4 => (Nat.xor a b, c)
  | 5 => (a * 2 ^ k % 2 ^ 32, if k = 0 then c else a / 2 ^ (32 - k) % 2 == 1)
  | 6 => (a / 2 ^ k, if k = 0 then c else a / 2 ^ (k - 1) % 2 == 1)
  | 7 => (ux 32 (sx 32 a / 2 ^ k), if k = 0 then c else a / 2 ^ (k - 1) % 2 == 1)
  | 8 => (b, c)
  | 10 => (min a b, c)
  | 11 => (max a b, c)
  | 12 => (a % 65536 * (b % 65536), c)
  | _ => ((a + 2 ^ 32 - b) % 2 ^ 32, decide (a < b))

/-- RD := A fn B, and the flags; CMP stores nothing. -/
def State.aluDo (s : State) (sp : Spire) (fn rd a b : Nat) : State :=
  let r := aluFn fn a b (s.spire sp).c
  let s1 := s.updSpire sp (fun p => { p with z := r.1 == 0, n := decide (2 ^ 31 ≤ r.1), c := r.2 })
  (if fn = 9 then s1 else s1.setW sp rd (BitVec.ofNat 32 r.1)).adv sp

/-- The condition of a BR (Table 10-3). -/
def SpireState.cond (p : SpireState) (n : Nat) : Bool :=
  match n with
  | 0 => true
  | 1 => p.z
  | 2 => !p.z
  | 3 => p.n
  | 4 => !p.n
  | 5 => p.c
  | 6 => !p.c
  | 7 => p.ef0
  | 8 => p.ef1
  | _ => !p.queue.isEmpty

/-- The event flag that a taken BR clears. -/
def SpireState.condTake (p : SpireState) (n : Nat) : SpireState :=
  if n = 7 then { p with ef0 := false } else if n = 8 then { p with ef1 := false } else p

/-- TEST of a CBR. -/
def cbrTest (v test : Nat) : Bool :=
  if test = 0 then v == 0 else if test = 1 then !(v == 0) else if test = 2 then decide (2 ^ 31 ≤ v) else decide (v < 2 ^ 31)

def State.opALU (s : State) (sp : Spire) (w : Nat) : State :=
  s.aluDo sp (bits w 16 4) (bits w 12 4) (s.w sp (bits w 8 4)) (s.w sp (bits w 4 4))

def State.opALUI (s : State) (sp : Spire) (w : Nat) : State :=
  s.aluDo sp (bits w 16 4) (bits w 12 4) (s.w sp (bits w 12 4)) (bits w 0 12)

def State.opLDI (s : State) (sp : Spire) (w : Nat) : State := (s.setW sp (bits w 16 4) (wd (bits w 0 16))).adv sp

def State.opLUI (s : State) (sp : Spire) (w : Nat) : State :=
  (s.setW sp (bits w 16 4) (wd (bits w 0 16 * 65536 + s.w sp (bits w 16 4) % 65536))).adv sp

def State.opBR (s : State) (sp : Spire) (w : Nat) : State :=
  if (s.spire sp).cond (bits w 16 4) then (s.updSpire sp (fun p => p.condTake (bits w 16 4))).jump sp (bits w 0 12) else s.adv sp

def State.opCBR (s : State) (sp : Spire) (w : Nat) : State :=
  if cbrTest (s.w sp (bits w 16 4)) (bits w 12 4) then s.jump sp (bits w 0 12) else s.adv sp

/-- CALL (R285). -/
def State.opCALL (s : State) (sp : Spire) (w : Nat) : State :=
  let p := s.spire sp
  if 8 ≤ p.stack.length then s.machineCheck sp mcOVF
  else (s.updSpire sp (fun p => { p with stack := p.stack ++ [(p.pc + 1) % 4096] })).jump sp (bits w 0 12)

/-- RET (R285). -/
def State.opRET (s : State) (sp : Spire) (_w : Nat) : State :=
  match (s.spire sp).stack.getLast? with
  | none => s.machineCheck sp mcUNF
  | some a => (s.updSpire sp (fun p => { p with stack := p.stack.dropLast })).jump sp a

def State.opNOP (s : State) (sp : Spire) (_w : Nat) : State := s.adv sp

/-- The HALT microword; the PC stands behind it (log entry 40). -/
def State.opHALT (s : State) (sp : Spire) (_w : Nat) : State := (s.adv sp).sprLeave sp 0

/-- FENCE finds every store of the spire complete. -/
def State.opFENCE (s : State) (sp : Spire) (_w : Nat) : State := s.adv sp

/-- The address of an LD or ST (R283). -/
def ldAddr (base off : Nat) : Nat := (base + 4 * off) % 2 ^ 32 / 4 * 4

/-- A BUS machine check of a microword at `pc`, whose access got an error response. -/
def State.busCheck (s : State) (sp : Spire) (pc : Nat) : State := (s.setPc sp pc).machineCheck sp mcBUS

def State.opLD (s : State) (sp : Spire) (w : Nat) : State :=
  let r := (s.adv sp).busWord (sprPort sp) (ldAddr (s.w sp (bits w 12 4)) (bits w 0 12))
  if r.2.2 then r.1.setW sp (bits w 16 4) r.2.1 else r.1.busCheck sp (s.spire sp).pc

def State.opST (s : State) (sp : Spire) (w : Nat) : State :=
  let r := (s.adv sp).busWrite (sprPort sp) (ldAddr (s.w sp (bits w 12 4)) (bits w 0 12)) (leBytes 4 (s.w sp (bits w 16 4)))
  if r.2 then r.1 else r.1.busCheck sp (s.spire sp).pc

/-! ## Waits (Table 10-14) -/

/-- Sequencers that a command's MASK names. -/
def maskSeqs (sp : Spire) (mask : Nat) : List Spire :=
  ((List.range 4).filter (fun o => mask / 2 ^ o % 2 == 1)).map (fun o => seqOf (sprTower sp) o)

/-- The running command's MASK. -/
def SpireState.mask (p : SpireState) : Nat := (p.running.map (fun c => fieldOf (nth c 0 0) 16 4)).getD 0

/-- A sequencer in MASK has halted. -/
def State.partnerLost (s : State) (sp : Spire) : Bool :=
  (maskSeqs sp (s.spire sp).mask).any (fun q => (s.spire q).sstate == 0 || (s.spire q).sstate == 3)

/-- Every sequencer in MASK has reached SYNCP for this command. -/
def State.rendezvous (s : State) (sp : Spire) : Bool :=
  let p := s.spire sp
  (maskSeqs sp p.mask).all (fun q => (s.spire q).synced && (s.spire q).running == p.running)

/-- The sequencer has reached SYNCP; the last of the partners meets the rendezvous for all of them. -/
def State.syncReach (s : State) (sp : Spire) : State :=
  let s1 := s.updSpire sp (fun p => { p with synced := true })
  if s1.rendezvous sp then (sp :: maskSeqs sp (s1.spire sp).mask).foldl (fun (s : State) (q : Spire) => s.updSpire q (fun p => { p with syncMet := true })) s1
  else s1

/-- The comparator of local index `c` of a track sequencer. -/
def ownCmp (sp : Spire) (c : Nat) : Nat := 16 * sp.idx + c % 16

/-- The state after a satisfied wait, the operation carried out; none while its condition is not met. -/
def State.tryWait (s : State) (sp : Spire) (x : SprWait) : Option State :=
  match x with
  | .none => some s
  | .pop =>
    let r := s.pop sp
    if r.2 then some r.1 else none
  | .waitc r c =>
    if s.cmpArmed (ownCmp sp c) then none
    else some ((s.setW sp r (wd (s.rd (ATB_CMP_CTL_STATUS (ownCmp sp c))))).adv sp)
  | .outc rd =>
    match (s.spire sp).notes with
    | [] => none
    | v :: rest => some (((s.updSpire sp (fun p => { p with notes := rest })).setW sp rd v).clsEnd sp false)
  | .syncp =>
    if (s.spire sp).syncMet then some ((s.updSpire sp (fun p => { p with syncMet := false, synced := false })).clsEnd sp false)
    else if s.partnerLost sp then some ((s.updSpire sp (fun p => { p with synced := false })).clsEnd sp true)
    else none

/-- The commands that POP completes itself (OPCODE) although none was dispatched. -/
def State.waitSide (s : State) (sp : Spire) (x : SprWait) : State :=
  match x with
  | .pop => (s.pop sp).1
  | .syncp => s.syncReach sp
  | _ => s

/-- A waiting operation: carried out at once, or WAIT. -/
def State.waitOn (s : State) (sp : Spire) (x : SprWait) : State :=
  match s.tryWait sp x with
  | some t => t
  | none =>
    let s1 := s.waitSide sp x
    match (match x with | .syncp => s1.tryWait sp x | _ => none) with
    | some t => t
    | none => s1.updSpire sp (fun p => { p with sstate := 2, wait := x })

/-- The wait of a spire in WAIT has come about: it returns to RUN. -/
def State.resume (s : State) (sp : Spire) : State :=
  let p := s.spire sp
  if spireValid sp ∧ p.sstate = 2 then
    match s.tryWait sp p.wait with
    | some t => t.updSpire sp (fun p => { p with sstate := 1, wait := .none })
    | none => s.waitSide sp p.wait
  else s

/-! ## Angle operations (R288 to R290) -/

def State.opGETANG (s : State) (sp : Spire) (w : Nat) : State :=
  ((s.setW sp (bits w 12 4) (wd (s.localAngle (sprTower sp)))).updSpire sp (fun p => { p with seqEpoch := s.epoch })).adv sp

/-- An arm of an owned comparator: the state and whether it was refused. -/
def State.armDo (s : State) (sp : Spire) (c tgt act rep epoch : Nat) : State × Bool :=
  let n := ownCmp sp c
  if s.cmpArmed n then (s, true)
  else
    let ctl := wd (epoch % 256 * 65536 + act % 16 * 4096 + sp.idx % 4 * 1024 + rep % 2 * 512)
    let s1 := ((s.wr (ATB_CMP_TGT_TGT n) tgt).cmpCtlStore n ctl).cmpArm n
    let st := s1.rd (ATB_CMP_CTL_STATUS n)
    (s1, !(st == 1 || st == 2 || st == 3))

def State.opARM (s : State) (sp : Spire) (w : Nat) : State :=
  let r := s.armDo sp (bits w 4 4) (s.w sp (bits w 12 4)) (bits w 8 4) (bits w 3 1) (s.spire sp).seqEpoch
  r.1.clsEnd sp r.2

def State.opWAITC (s : State) (sp : Spire) (w : Nat) : State := s.waitOn sp (.waitc (bits w 12 4) (bits w 4 4))

def State.opDISARM (s : State) (sp : Spire) (w : Nat) : State := (s.cmpDisarm (ownCmp sp (bits w 4 4)) (fun x => x)).adv sp

/-! ## Track sequencer operations (Table 10-4) -/

def State.ra (s : State) (sp : Spire) (w : Nat) : Nat := s.w sp (bits w 8 4)
def State.rb (s : State) (sp : Spire) (w : Nat) : Nat := s.w sp (bits w 4 4)

def State.opLOADZ (s : State) (sp : Spire) (w : Nat) : State :=
  match s.loadZ sp (s.ra sp w / 2 ^ 28) (s.rb sp w / 2 ^ 26) with
  | some z => (s.updSpire sp (fun p => { p with zoneDesc := some z })).clsEnd sp false
  | none => s.clsEnd sp true

def State.opANCHOR (s : State) (sp : Spire) (w : Nat) : State := (s.updSpire sp (fun p => { p with anchor := s.ra sp w })).clsEnd sp false

/-- RPLAN and WPLAN. -/
def State.planDo (s : State) (sp : Spire) (write : Bool) (rd ra rb : Nat) : State :=
  match s.planOf sp write ra rb with
  | some p => (s.updSpire sp (fun x => { x with plan := some p })).clsRes sp rd (some p.wins.length)
  | none => s.clsEnd sp true

def State.opRPLAN (s : State) (sp : Spire) (w : Nat) : State := s.planDo sp false (bits w 12 4) (s.ra sp w) (s.rb sp w)
def State.opWPLAN (s : State) (sp : Spire) (w : Nat) : State := s.planDo sp true (bits w 12 4) (s.ra sp w) (s.rb sp w)

/-- Field `f` of window `k` of the plan. -/
def SpireState.field (p : SpireState) (k f : Nat) : Option Nat := p.plan.bind (fun q => nth (nth q.wins k []) f none)

def State.opWGET (s : State) (sp : Spire) (w : Nat) : State :=
  s.clsRes sp (bits w 12 4) ((s.spire sp).field (s.ra sp w) (bits w 0 4))

def State.opCAPTR (s : State) (sp : Spire) (w : Nat) : State :=
  match (s.spire sp).plan with
  | some p => if p.queued then s.clsEnd sp true else (s.captr sp p (s.ra sp w) (s.rb sp w % 256)).clsEnd sp false
  | none => s.clsEnd sp true

def State.opOUTC (s : State) (sp : Spire) (w : Nat) : State := s.waitOn sp (.outc (bits w 12 4))

def State.opEMITR (s : State) (sp : Spire) (w : Nat) : State :=
  match (s.spire sp).plan with
  | some p => if p.write then (s.emitr sp p (s.ra sp w) (s.rb sp w)).clsEnd sp false else s.clsEnd sp true
  | none => s.clsEnd sp true

def State.opSYNCP (s : State) (sp : Spire) (_w : Nat) : State := s.waitOn sp .syncp

/-! ## Band movers and integrity engines (Table 10-5) -/

/-- A push by a band mover to sequencers of its Tower: the state and whether it was refused. -/
def State.moverPush (s : State) (sp : Spire) (mask : Nat) (cmd : List Word) : State × Bool :=
  let l := maskSeqs sp mask
  if l = [] then (s, true)
  else if s.isOn bSPR 0 = false then (s.sprIrq 0 24, true)
  else
    let r := s.pushTo l cmd
    (r.1, r.2 == 1)

/-- PUSH: the command is read over the spire's port. -/
def State.opPUSH (s : State) (sp : Spire) (w : Nat) : State :=
  let r := s.busRead (sprPort sp) (s.rb sp w) 32
  if r.2.err.isEmpty then
    let q := r.1.moverPush sp (s.ra sp w % 16) (descWords r.2.data)
    q.1.clsEnd sp q.2
  else r.1.busCheck sp (s.spire sp).pc

/-- The accumulator area (FIX_ACC_BASE): its user-byte part and its CRC part hold the accumulator bases. -/
def State.accInside (s : State) (user crc : Nat) : Bool :=
  let base := s.rd FIX_ACC_BASE_HI_ADDR * 2 ^ 32 + s.rd FIX_ACC_BASE_LO_ADDR * 4096
  decide (base ≤ user) && decide (user + 4096 ≤ base + 2 ^ 29) && decide (base + 2 ^ 29 ≤ crc) && decide (crc + 4 ≤ base + 2 ^ 29 + 2 ^ 19)

/-- The descriptor at an address is accepted by an integrity operation. -/
def State.intOk (s : State) (fn ra : Nat) : Bool :=
  if fn = 3 then
    let l := s.bytes ra 64
    (List.range (min 4 (Config.gfaccDesc l).2.2.1)).all (fun j => let b := Config.gfaccBase l j; s.accInside b.1 b.2)
  else true

/-- An integrity operation begins (R286): the state, and whether it was refused. -/
def State.intIssue (s : State) (sp : Spire) (fn ra rb : Nat) : State × Bool :=
  if (s.spire sp).intOp.isSome ∨ s.isOn bFIX 0 = false ∨ s.intOk fn ra = false then (s, true)
  else ((s.updSpire sp (fun p => { p with intOp := some (fn, ra, rb) })).wr ⟨FIX_BUSY, sp.idx, 1⟩ 1, false)

def State.opInt (s : State) (sp : Spire) (fn w : Nat) : State :=
  let r := s.intIssue sp fn (s.ra sp w) (s.rb sp w)
  r.1.clsEnd sp r.2

def State.opHINIT (s : State) (sp : Spire) (w : Nat) : State := s.opInt sp 0 w
def State.opHUPD (s : State) (sp : Spire) (w : Nat) : State := s.opInt sp 1 w
def State.opHFIN (s : State) (sp : Spire) (w : Nat) : State := s.opInt sp 2 w
def State.opGFACC (s : State) (sp : Spire) (w : Nat) : State := s.opInt sp 3 w
def State.opGFSOLVE (s : State) (sp : Spire) (w : Nat) : State := s.opInt sp 4 w

/-- Bytes added in GF(2^8) with a factor. -/
def gfAdd (g : Nat) (acc d : List Byte) : List Byte := List.zipWith (fun (a x : Byte) => a ^^^ BitVec.ofNat 8 (gfMul g x.toNat)) acc d

/-- The row of a member over the k data members: a data member is itself, parity member j has coefficients g_(j,i) (R172). -/
def gfRow (k i : Nat) : List Nat := (List.range k).map (fun c => if i < k then b2n (c == i) else gfCoef (i - k) c)

/-- Row `x` less `f` times row `y`. -/
def rowSub (f : Nat) (x y : List Nat) : List Nat := List.zipWith (fun a b => Nat.xor a (gfMul f b)) x y

/-- Gauss-Jordan elimination of column `c`: the rows used so far, and the others; none when no row has the column. -/
def gfColumn (c : Nat) (st : Option (List (List Nat) × List (List Nat))) : Option (List (List Nat) × List (List Nat)) :=
  st.bind (fun e => (e.2.find? (fun r => !(nth r c 0 == 0))).map (fun p =>
    let q := p.map (gfMul (gfInv (nth p c 0)))
    let clear := fun (r : List Nat) => rowSub (nth r c 0) r q
    (e.1.map clear ++ [q], (e.2.erase p).map clear)))

/-- The factors with which the first k sources give a member (R178); none when k of them do not determine it. -/
def gfFactors (k missing : Nat) (members : List Nat) : Option (List Nat) :=
  let rows := (members.take k).zipIdx.map (fun e => gfRow k e.1 ++ (List.range k).map (fun c => b2n (c == e.2)))
  if members.length < k then none
  else ((List.range k).foldl (fun st c => gfColumn c st) (some ([], rows))).map (fun e =>
    let want := gfRow k missing
    (List.range k).map (fun c =>
      (e.1.zipIdx).foldl (fun acc r => Nat.xor acc (gfMul (nth want r.2 0) (nth r.1 (k + c) 0))) 0))

/-- Free bytes, from one draw (log entry 2). -/
def State.freeBytesN (s : State) (n : Nat) : List Byte := leBytes n s.free

/-- A write of an integrity engine over port 11, in a row of accesses: whether all completed. -/
def State.intWrite (s : State × Bool) (a : Nat) (l : List Byte) : State × Bool :=
  let r := s.1.busWrite 11 a l
  (r.1, s.2 && r.2)

/-- GFACC: the accumulators of every parity member take the slot's contribution. -/
def State.gfaccRun (s : State) (ra : Nat) : State × Bool :=
  let l := s.bytes ra 64
  let d := Config.gfaccDesc l
  let u := s.busRead 11 d.1 4100
  let s1 := u.1
  let r := (List.range (min 4 d.2.2.1)).foldl (fun (x : State × Bool) j =>
    let b := Config.gfaccBase l j
    let g := gfCoef j d.2.2.2
    let a := x.1.busRead 11 b.1 4096
    let c := a.1.busRead 11 b.2 4
    State.intWrite (State.intWrite (c.1, x.2 && a.2.err.isEmpty && c.2.err.isEmpty) b.1 (gfAdd g a.2.data (u.2.data.take 4096))) b.2
      (gfAdd g c.2.data (u.2.data.drop 4096))) (s1, u.2.err.isEmpty)
  (r.1.bump FIX_CNT_GF_SLOTS 1, r.2)

/-- GFSOLVE: the missing member's user bytes and CRC. Without k sources that determine it, the manual states no result: free bytes. -/
def State.gfsolveRun (s : State) (ra : Nat) : State × Bool :=
  let l := s.bytes ra 256
  let d := Config.gfsolveDesc l
  let k := d.1
  let src := (Config.gfsolveSrc l).take 16
  match gfFactors k d.2.2.1 (src.map (·.2)) with
  | none =>
    let r := State.intWrite (State.intWrite (s.drawn, true) d.2.2.2.1 (s.freeBytesN 4096)) d.2.2.2.2 (leBytes 4 (s.free / 2 ^ 32768))
    (r.1.bump FIX_CNT_GF_SLOTS 1, r.2)
  | some fs =>
    let zero : List Byte := List.replicate 4100 0#8
    let r := (List.zip fs src).foldl (fun (x : (State × Bool) × List Byte) e =>
      let u := x.1.1.busRead 11 e.2.1 4100
      ((u.1, x.1.2 && u.2.err.isEmpty), gfAdd e.1 x.2 u.2.data)) ((s, true), zero)
    let q := State.intWrite (State.intWrite r.1 d.2.2.2.1 (r.2.take 4096)) d.2.2.2.2 (r.2.drop 4096)
    (q.1.bump FIX_CNT_GF_SLOTS 1, q.2)

def State.setHash (s : State) (a : Nat) (l : List Byte) : State :=
  { s with sprEnv := { s.sprEnv with hashes := (a, l) :: s.sprEnv.hashes.filter (fun e => !(e.1 == a)) } }

def State.hashAt (s : State) (a : Nat) : Option (List Byte) := (s.sprEnv.hashes.find? (fun e => e.1 == a)).map (·.2)

/-- The work of an integrity operation, and whether every access completed. A HUPD or HFIN on a state that no HINIT set works on an unknown
state: free bytes. -/
def State.intRun (s : State) (fn ra rb : Nat) : State × Bool :=
  if fn = 0 then (s.setHash ra [], true)
  else if fn = 1 then
    let d := Config.hupdDesc (s.bytes ra 64)
    let r := s.busRead 11 (d.1 % 2 ^ 40) d.2
    let old := (s.hashAt rb).getD (s.freeBytesN 64)
    (((if (s.hashAt rb).isSome then r.1 else r.1.drawn).setHash rb (old ++ r.2.data)).bump FIX_CNT_HASH_KIB (d.2 / 1024), r.2.err.isEmpty)
  else if fn = 2 then
    match s.hashAt ra with
    | some l => State.intWrite (s, true) rb (sha256 l)
    | none => State.intWrite (s.drawn, true) rb (s.freeBytesN 32)
  else if fn = 3 then s.gfaccRun ra
  else s.gfsolveRun ra

/-- A running operation ends (R286): EF0, BUSY. An error response is a BUS machine check of the spire (R22, R283). -/
def State.intDone (s : State) (sp : Spire) : State :=
  match (s.spire sp).intOp with
  | none => s
  | some (fn, ra, rb) =>
    let r := s.intRun fn ra rb
    let s1 := (r.1.updSpire sp (fun p => { p with intOp := none, ef0 := true })).wr ⟨FIX_BUSY, sp.idx, 1⟩ 0
    if r.2 = false ∧ ((s1.spire sp).sstate = 1 ∨ (s1.spire sp).sstate = 2) then s1.machineCheck sp mcBUS else s1

/-! ## Packet engines (Table 11-10) -/

/-- The first entry of a list that belongs to an engine, and the list without it. -/
def takeFirst {α : Type} (f : α → Bool) : List α → Option (α × List α)
  | [] => none
  | x :: r => if f x then some (x, r) else (takeFirst f r).map (fun e => (e.1, x :: e.2))

/-- RXNEXT: while no frame is handed to the engine it stays at the microword. -/
def State.opRXNEXT (s : State) (sp : Spire) (w : Nat) : State :=
  match takeFirst (fun (e : Nat × Nat) => e.1 == sp.idx) s.aot.rxq with
  | none => s
  | some (e, rest) => (s.updAot (fun a => { a with rxq := rest })).clsRes sp (bits w 12 4) (some e.2)

def State.opSESS (s : State) (sp : Spire) (w : Nat) : State :=
  let i := s.ra sp w % 4096
  if i % 16 = sp.idx then (s.updSpire sp (fun p => { p with sess := i })).clsRes sp (bits w 12 4) (some (Config.sessEntry i))
  else s.clsEnd sp true

/-- OPEN: the key of the packet's epoch; the result goes into the descriptor. -/
def State.opOPEN (s : State) (sp : Spire) (w : Nat) : State :=
  let a := s.ra sp w
  let l := s.bytes a 256
  let d := Config.openDesc l
  let i := (s.spire sp).sess
  match s.gcmKey (gcmSlot i 0 d.2.1) with
  | none => s.clsEnd sp true
  | some k =>
    let x := s.sessOf i
    let stream := if d.1 = 8 then 1 else 0
    let pt := gcmOpen k (aotNonce (x.sid i) d.2.1 stream d.2.2.1) d.2.2.2.1 d.2.2.2.2.1 d.2.2.2.2.2
    ((s.setBytes a (Config.openResult l pt)).updSpire sp (fun p => { p with ef0 := true })).clsEnd sp false

/-- SEAL: the packet takes the session's next sequence of its stream. -/
def State.opSEAL (s : State) (sp : Spire) (w : Nat) : State :=
  let i := (s.spire sp).sess
  let x := s.sessOf i
  if x.st = 2 ∨ x.st = 3 then
    let a := s.ra sp w
    let d := Config.sealDesc (s.bytes a 256)
    let ack := decide (d.1 = 8)
    let q := if ack then x.ackNext else x.next
    let s1 := s.setSess i (if ack then { x with ackNext := q + 1 } else { x with next := q + 1, epochPkts := x.epochPkts + 1 })
    match s.sealPkt i x d.1 d.2.1 x.txEpoch (if ack then 1 else 0) q d.2.2.1 d.2.2.2.1 d.2.2.2.2.1 d.2.2.2.2.2 with
    | some out => (s1.setBytes a out).clsEnd sp false
    | none => s1.clsEnd sp false
  else s.clsEnd sp true

/-- The replay check of stream 0 or 1. -/
def Sess.rwin (x : Sess) (seq stream : Nat) : Nat :=
  if stream = 1 then (if x.ackSeen.elim false (fun q => decide (seq ≤ q)) then 1 else 0) else x.window seq

def State.opRWIN (s : State) (sp : Spire) (w : Nat) : State :=
  s.clsRes sp (bits w 12 4) (some ((s.sessOf (s.spire sp).sess).rwin (s.ra sp w) (s.rb sp w % 2)))

/-- A sequence enters the replay bitmap (step 11); ACK and HIGH follow. -/
def Sess.mark (x : Sess) (seq stream : Nat) : Sess :=
  if stream = 1 then { x with ackSeen := some seq }
  else
    let high := max (x.seen.foldl max 0) seq
    { x with ack := nextAck (seq :: x.seen) 1025 x.ack, seen := (seq :: x.seen).filter (fun q => decide (high ≤ q + 1023)) }

def State.opRMARK (s : State) (sp : Spire) (w : Nat) : State :=
  let i := (s.spire sp).sess
  let x := s.sessOf i
  if x.rwin (s.ra sp w) (s.rb sp w % 2) = 1 then s.clsEnd sp true
  else (s.setSess i (x.mark (s.ra sp w) (s.rb sp w % 2))).clsEnd sp false

def State.opTXQ (s : State) (sp : Spire) (w : Nat) : State :=
  let i := (s.spire sp).sess
  let port := (s.sessOf i).peer.port
  if s.isOn bETH port then
    (s.portTx port { sess := some i, wire := Config.txqFrame (s.bytes (s.ra sp w) 256) }).clsEnd sp false
  else s.clsEnd sp true

/-- TIMER: while no timer of the engine's sessions has expired it stays at the microword. -/
def State.opTIMER (s : State) (sp : Spire) (w : Nat) : State :=
  match takeFirst (fun (i : Nat) => i % 16 == sp.idx) s.aot.expired with
  | none => s
  | some (i, rest) => (s.updAot (fun a => { a with expired := rest })).clsRes sp (bits w 12 4) (some i)

/-! ## POP and POST -/

def State.opPOP (s : State) (sp : Spire) (_w : Nat) : State := s.waitOn sp .pop

/-- The first POST ends the running command. -/
def State.postDo (s : State) (sp : Spire) (status ra rb : Nat) : State :=
  (s.postRec sp (wd (s.w sp 8)) status ra rb).updSpire sp (fun p => { p with running := none })

def State.opPOST (s : State) (sp : Spire) (w : Nat) : State :=
  (s.postDo sp (bits w 0 8) (s.w sp (bits w 12 4)) (s.w sp (bits w 8 4))).adv sp

/-! ## Execution -/

/-- The effect of a legal microword of a row. -/
def State.rowDo (s : State) (sp : Spire) (w : Nat) : MRow → State
  | .alu => s.opALU sp w
  | .alui => s.opALUI sp w
  | .ldi => s.opLDI sp w
  | .lui => s.opLUI sp w
  | .br => s.opBR sp w
  | .cbr => s.opCBR sp w
  | .call => s.opCALL sp w
  | .nop => s.opNOP sp w
  | .ret => s.opRET sp w
  | .halt => s.opHALT sp w
  | .fence => s.opFENCE sp w
  | .ld => s.opLD sp w
  | .st => s.opST sp w
  | .getang => s.opGETANG sp w
  | .arm => s.opARM sp w
  | .waitc => s.opWAITC sp w
  | .disarm => s.opDISARM sp w
  | .loadz => s.opLOADZ sp w
  | .anchor => s.opANCHOR sp w
  | .rplan => s.opRPLAN sp w
  | .wplan => s.opWPLAN sp w
  | .wget => s.opWGET sp w
  | .captr => s.opCAPTR sp w
  | .outc => s.opOUTC sp w
  | .emitr => s.opEMITR sp w
  | .syncp => s.opSYNCP sp w
  | .push => s.opPUSH sp w
  | .hinit => s.opHINIT sp w
  | .hupd => s.opHUPD sp w
  | .hfin => s.opHFIN sp w
  | .gfacc => s.opGFACC sp w
  | .gfsolve => s.opGFSOLVE sp w
  | .rxnext => s.opRXNEXT sp w
  | .sess => s.opSESS sp w
  | .openOp => s.opOPEN sp w
  | .seal => s.opSEAL sp w
  | .rwin => s.opRWIN sp w
  | .rmark => s.opRMARK sp w
  | .txq => s.opTXQ sp w
  | .timer => s.opTIMER sp w
  | .pop => s.opPOP sp w
  | .post => s.opPOST sp w

/-- The 24 bits of the microword at the PC. -/
def State.mword (s : State) (sp : Spire) : Nat := (s.spire sp).fetch.toNat % 2 ^ 24

/-- The word at the PC is fetched: a bad parity bit (R282) and an illegal word (R284) are machine checks, any other word has effect `f`. -/
def State.fetchDo (s : State) (sp : Spire) (f : State → State) : State :=
  if csGood (s.spire sp).fetch = false then s.machineCheck sp mcPARITY
  else if illegal sp.cls (s.mword sp) then s.machineCheck sp mcILLEGAL
  else f s

/-- A spire in RUN executes the microword at its PC, which is of row `row` and has effect `f`. -/
def State.micro (s : State) (sp : Spire) (row : MRow) (f : State → Spire → Nat → State) : State :=
  if spireValid sp ∧ s.halted = false ∧ (s.spire sp).sstate = 1 ∧ rowOf sp.cls (s.mword sp) = row then
    s.fetchDo sp (fun s => f s sp (s.mword sp))
  else s

/-- STEP (Table 10-14): one microword of a HALTED spire; a wait, a machine check and a HALT leave it as they leave a running spire, but
for a wait, which ends the step with no effect. -/
def State.stepOne (s : State) (sp : Spire) : State :=
  if spireValid sp ∧ s.halted = false ∧ (s.spire sp).sstate = 0 then
    let s1 := (s.updSpire sp (fun p => { p with sstate := 1 })).fetchDo sp (fun s => s.rowDo sp (s.mword sp) (rowOf sp.cls (s.mword sp)))
    if (s1.spire sp).sstate = 2 then s
    else if (s1.spire sp).sstate = 1 then s1.updSpire sp (fun p => { p with sstate := 0 })
    else s1
  else s

/-- STEP commands that came over the fabric are performed. -/
def State.drainSteps (s : State) : State :=
  s.sprEnv.steps.foldl (fun (s : State) (sp : Spire) => s.stepOne sp) { s with sprEnv := { s.sprEnv with steps := [] } }

/-- R280: an ALU microword. -/
def execAlu (sp : Spire) (s : State) : Out := .next (s.micro sp .alu State.opALU)
/-- R280: an ALUI microword. -/
def execAlui (sp : Spire) (s : State) : Out := .next (s.micro sp .alui State.opALUI)
/-- R280: LDI. -/
def execLdi (sp : Spire) (s : State) : Out := .next (s.micro sp .ldi State.opLDI)
/-- R280: LUI. -/
def execLui (sp : Spire) (s : State) : Out := .next (s.micro sp .lui State.opLUI)
/-- R280: BR. -/
def execBr (sp : Spire) (s : State) : Out := .next (s.micro sp .br State.opBR)
/-- R280: CBR. -/
def execCbr (sp : Spire) (s : State) : Out := .next (s.micro sp .cbr State.opCBR)
/-- R285: CALL. -/
def execCall (sp : Spire) (s : State) : Out := .next (s.micro sp .call State.opCALL)
/-- R280: NOP. -/
def execNop (sp : Spire) (s : State) : Out := .next (s.micro sp .nop State.opNOP)
/-- R285: RET. -/
def execRet (sp : Spire) (s : State) : Out := .next (s.micro sp .ret State.opRET)
/-- R300: the HALT microword. -/
def execHalt (sp : Spire) (s : State) : Out := .next (s.micro sp .halt State.opHALT)
/-- R280: FENCE. -/
def execFence (sp : Spire) (s : State) : Out := .next (s.micro sp .fence State.opFENCE)
/-- R283: LD. -/
def execLd (sp : Spire) (s : State) : Out := .next (s.micro sp .ld State.opLD)
/-- R283: ST. -/
def execSt (sp : Spire) (s : State) : Out := .next (s.micro sp .st State.opST)
/-- R288: GETANG. -/
def execGetang (sp : Spire) (s : State) : Out := .next (s.micro sp .getang State.opGETANG)
/-- R289: ARM. -/
def execArm (sp : Spire) (s : State) : Out := .next (s.micro sp .arm State.opARM)
/-- R290: WAITC. -/
def execWaitc (sp : Spire) (s : State) : Out := .next (s.micro sp .waitc State.opWAITC)
/-- R290: DISARM. -/
def execDisarm (sp : Spire) (s : State) : Out := .next (s.micro sp .disarm State.opDISARM)
/-- R162: LOADZ. -/
def execLoadz (sp : Spire) (s : State) : Out := .next (s.micro sp .loadz State.opLOADZ)
/-- R287: ANCHOR. -/
def execAnchor (sp : Spire) (s : State) : Out := .next (s.micro sp .anchor State.opANCHOR)
/-- R287: RPLAN. -/
def execRplan (sp : Spire) (s : State) : Out := .next (s.micro sp .rplan State.opRPLAN)
/-- R287: WPLAN. -/
def execWplan (sp : Spire) (s : State) : Out := .next (s.micro sp .wplan State.opWPLAN)
/-- R287: WGET. -/
def execWget (sp : Spire) (s : State) : Out := .next (s.micro sp .wget State.opWGET)
/-- R287: CAPTR. -/
def execCaptr (sp : Spire) (s : State) : Out := .next (s.micro sp .captr State.opCAPTR)
/-- R293: OUTC. -/
def execOutc (sp : Spire) (s : State) : Out := .next (s.micro sp .outc State.opOUTC)
/-- R226: EMITR. -/
def execEmitr (sp : Spire) (s : State) : Out := .next (s.micro sp .emitr State.opEMITR)
/-- R293: SYNCP. -/
def execSyncp (sp : Spire) (s : State) : Out := .next (s.micro sp .syncp State.opSYNCP)
/-- R293: a band mover's PUSH. -/
def execBandMoverPush (sp : Spire) (s : State) : Out := .next (s.micro sp .push State.opPUSH)
/-- R286: HINIT. -/
def execHinit (sp : Spire) (s : State) : Out := .next (s.micro sp .hinit State.opHINIT)
/-- R286: HUPD. -/
def execHupd (sp : Spire) (s : State) : Out := .next (s.micro sp .hupd State.opHUPD)
/-- R286: HFIN. -/
def execHfin (sp : Spire) (s : State) : Out := .next (s.micro sp .hfin State.opHFIN)
/-- R172: GFACC. -/
def execGfacc (sp : Spire) (s : State) : Out := .next (s.micro sp .gfacc State.opGFACC)
/-- R178: GFSOLVE. -/
def execGfsolve (sp : Spire) (s : State) : Out := .next (s.micro sp .gfsolve State.opGFSOLVE)
/-- R286: a running integrity operation of engine `n` ends. -/
def execIntegrityOpDone (n : Nat) (s : State) : Out := .next (if n < 4 then s.intDone ⟨3, n⟩ else s)
/-- R334: RXNEXT. -/
def execRxnext (sp : Spire) (s : State) : Out := .next (s.micro sp .rxnext State.opRXNEXT)
/-- R334: SESS. -/
def execSess (sp : Spire) (s : State) : Out := .next (s.micro sp .sess State.opSESS)
/-- R334: OPEN. -/
def execOpen (sp : Spire) (s : State) : Out := .next (s.micro sp .openOp State.opOPEN)
/-- R334: SEAL. -/
def execSeal (sp : Spire) (s : State) : Out := .next (s.micro sp .seal State.opSEAL)
/-- R334: RWIN. -/
def execRwin (sp : Spire) (s : State) : Out := .next (s.micro sp .rwin State.opRWIN)
/-- R334: RMARK. -/
def execRmark (sp : Spire) (s : State) : Out := .next (s.micro sp .rmark State.opRMARK)
/-- R334: TXQ. -/
def execTxq (sp : Spire) (s : State) : Out := .next (s.micro sp .txq State.opTXQ)
/-- R334: TIMER. -/
def execTimer (sp : Spire) (s : State) : Out := .next (s.micro sp .timer State.opTIMER)
/-- R294: POP. -/
def execPop (sp : Spire) (s : State) : Out := .next (s.micro sp .pop State.opPOP)
/-- R295: POST. -/
def execPost (sp : Spire) (s : State) : Out := .next (s.micro sp .post State.opPOST)
/-- R294: the wait of a spire in WAIT is satisfied. -/
def execWaitSatisfied (sp : Spire) (s : State) : Out := .next (if s.halted then s else s.resume sp)

/-! ## Commands of SPR pages (R293, R300 to R303) -/

/-- R303: a write of SPR_CMD.START. -/
def execSprStart (cls : Nat) (val : Word) (s : State) : Out :=
  .next (if cls < 4 then (s.gated (SPR_CMD cls) (fun s => s.sprCmd cls (withField val 0 1 1))).drainSteps else s)

/-- R300: a write of SPR_CMD.HALT. -/
def execSprHalt (cls : Nat) (val : Word) (s : State) : Out :=
  .next (if cls < 4 then (s.gated (SPR_CMD cls) (fun s => s.sprCmd cls (withField val 1 1 1))).drainSteps else s)

/-- R303: a write of SPR_CMD.STEP. -/
def execSprStep (cls : Nat) (val : Word) (s : State) : Out :=
  .next (if cls < 4 then (s.gated (SPR_CMD cls) (fun s => s.sprCmd cls (withField val 2 1 1))).drainSteps else s)

/-- R300: a write of SPR_MC_FORCE. -/
def execSprMcForce (cls : Nat) (val : Word) (s : State) : Out :=
  .next (if cls < 4 then s.gated (SPR_MC_FORCE cls) (fun s => s.sprForce cls val) else s)

/-- R301, R302: a write of SPR_CS_DATA. -/
def execSprCsWrite (cls : Nat) (val : Word) (s : State) : Out :=
  .next (if cls < 4 then s.gated (SPR_CS_DATA cls) (fun s => s.csWrite cls val) else s)

/-- R293: a write of SPR_QPUSH. -/
def execSprQpush (cls : Nat) (val : Word) (s : State) : Out :=
  .next (if cls < 4 then s.gated (SPR_QPUSH cls) (fun s => s.qPush cls val) else s)

/-- R293: a channel core's MQ_PUSH, its staging registers written before. -/
def execMqPush (core : Nat) (words : List Word) (val : Word) (s : State) : Out :=
  .next (if core < 4 ∧ s.halted = false then s.mqPush core words val else s)

/-- MQ_DEPTH as channel core `core` reads it (Table 10-9). -/
def State.mqDepth (s : State) (core : Nat) : Nat :=
  let t := if core < 2 then 0 else 1
  (List.range 6).foldl (fun n k =>
    n + (s.spire (if k < 4 then ⟨0, 4 * t + k⟩ else ⟨2, 2 * t + k - 4⟩)).queue.length * 2 ^ (5 * k)) 0

end Sys2Proof.Machine
end

