-- ==== Sys2Proof/Machine/Image.lean ====
section
/-! DEFINITION. The commands of the base image (Tables 10-10, 10-13 and 10-17), each step of a command going to its next wait, and what
firmware records of a write run (R166 to R175). -/

namespace Sys2Proof.Machine

/-! ## The frame of a routine -/

/-- Opcodes of the base image, by class. -/
def imgOps (cls : Nat) : List Nat :=
  if cls = 0 then [0x10, 0x11, 0x18, 0x19, 0x1A] else if cls = 2 then [0x20, 0x21] else if cls = 3 then [0x30, 0x31, 0x32, 0x33] else []

/-- OPCODE of the running command. -/
def SpireState.opcode (p : SpireState) : Nat := (p.running.map (fun c => fieldOf (nth c 0 0) 24 8)).getD 0x40

/-- Word `n` of the running command. -/
def State.cw (s : State) (sp : Spire) (n : Nat) : Nat := s.w sp (8 + n)

def State.setRoutine (s : State) (sp : Spire) (r : Option MRun) : State := s.updSpire sp (fun p => { p with routine := r })

/-- The command is posted, and POP takes the next or waits for it. -/
def State.imgPost (s : State) (sp : Spire) (status ra rb : Nat) : State :=
  ((s.postDo sp status ra rb).setRoutine sp none).waitOn sp .pop

/-- The routine goes to stage `st` and waits. -/
def State.imgWait (s : State) (sp : Spire) (r : MRun) (st : Nat) (x : SprWait) : State :=
  (s.setRoutine sp (some { r with stage := st })).waitOn sp x

/-- A spire takes the next step of a command `op`: one that runs goes on from its wait, and one at the head of the queue is taken by POP. An
opcode that the base image does not know is refused. -/
def State.image (s : State) (sp : Spire) (op : Nat) (begin_ : State → State) (go : State → MRun → State) : State :=
  let p := s.spire sp
  if spireValid sp = false ∨ s.halted ∨ ¬ (p.sstate = 1 ∨ p.sstate = 2) then s
  else match p.running, p.routine with
    | some _, some r =>
      if ¬ r.op = op then s
      else
        let s1 := s.resume sp
        if (s1.spire sp).sstate = 2 then s1 else go s1 r
    | some _, none => if p.sstate = 1 ∧ p.opcode = op ∧ p.pc = op then begin_ s else s
    | none, _ =>
      if p.sstate = 2 ∧ ¬ p.wait = .pop then s
      else
        let r := s.pop sp
        let s1 := r.1.updSpire sp (fun q => { q with sstate := 1, wait := .none })
        if r.2 = false then s
        else if (s1.spire sp).opcode = op then begin_ s1
        else if (imgOps sp.cls).contains (s1.spire sp).opcode then s
        else s1.imgPost sp 1 0 0

/-! ## READ_RUN (Table 10-17) -/

/-- The lead of a run: the lowest sequencer in MASK. -/
def State.imgLead (s : State) (sp : Spire) : Bool := (maskSeqs sp (s.spire sp).mask).headD sp == sp

/-- The rendezvous before the POST. -/
def State.imgSync (s : State) (sp : Spire) (r : MRun) (status : Nat) : State := s.imgWait sp { r with status := status } 9 .syncp

/-- Arms of the routine, in order; the state and whether one was refused. -/
def State.armAll (s : State) (sp : Spire) (l : List (Nat × Nat × Nat)) : State × Bool :=
  l.foldl (fun (x : State × Bool) e =>
    if x.2 then x else x.1.armDo sp e.1 e.2.2 e.2.1 0 (x.1.spire sp).seqEpoch) (s, false)

/-- A window field with a skew. -/
def State.winAt (s : State) (sp : Spire) (k f skew : Nat) : Nat := (((s.spire sp).field k f).getD 0 + skew) % 2 ^ 32

/-- The arms of window `k` of a read: reader B's sequencer is .2. -/
def State.readArms (s : State) (sp : Spire) (k f : Nat) (skewed : Bool) : List (Nat × Nat × Nat) :=
  let b := sp.idx % 4 == 2
  let skew := if skewed then s.cw sp (if b then 7 else 3) else 0
  [(0, if b then 7 else 5, s.winAt sp k f skew), (1, if b then 8 else 6, s.winAt sp k (f + 1) skew)]

/-- The windows of a read run, or of the verify of a write run, are armed one by one. -/
def State.armRead (s : State) (sp : Spire) (r : MRun) (f : Nat) : State :=
  let a := s.armAll sp (s.readArms sp r.k f (f == 0))
  if a.2 then a.1.imgSync sp r 2 else a.1.imgWait sp r 1 (.waitc 0 1)

/-- LOADZ, GETANG, ANCHOR and the plan of a run; none when one is refused. -/
def State.imgPlan (s : State) (sp : Spire) (write : Bool) (margin : Nat) : Option (State × Plan) :=
  (s.loadZ sp (s.cw sp 1 / 2 ^ 28) (s.cw sp 2 / 2 ^ 26)).bind (fun z =>
    let s1 := s.updSpire sp (fun p => { p with
      zoneDesc := some z, seqEpoch := s.epoch, anchor := (s.localAngle (sprTower sp) + margin) % 2 ^ 32 })
    (s1.planOf sp write (s.cw sp 1) (s.cw sp 2)).map (fun p => (s1.updSpire sp (fun q => { q with plan := some p }), p)))

def State.readBegin (s : State) (sp : Spire) : State :=
  match s.imgPlan sp false (s.cw sp 6) with
  | none => s.imgSync sp { op := 0x10 } 1
  | some (s1, p) => (if s.imgLead sp then s1.captr sp p (s.cw sp 4) (s.cw sp 5 % 256) else s1).armRead sp { op := 0x10 } 0

/-- Windows of the plan. -/
def State.planK (s : State) (sp : Spire) : Nat := (((s.spire sp).plan.map (fun p => p.wins.length))).getD 0

def State.readGo (s : State) (sp : Spire) (r : MRun) : State :=
  let v := s.w sp 0
  if r.stage = 1 then
    let r1 := { r with k := r.k + 1 }
    if 4 ≤ v then s.imgSync sp r 2
    else if r1.k < s.planK sp then s.armRead sp r1 0
    else if s.imgLead sp then s.imgWait sp r1 2 (.outc 0)
    else s.imgSync sp r1 0
  else if r.stage = 2 then
    let r1 := { r with acc := r.acc + (if v % 16 = 0 then 1 else 0) }
    if v / 2 ^ 31 = 1 then s.imgSync sp r1 0 else s.imgWait sp r1 2 (.outc 0)
  else s.imgPost sp (if (s.spire sp).c then 5 else r.status) r.acc r.k

/-- R287: READ_RUN. -/
def execReadRun (sp : Spire) (s : State) : Out :=
  .next (if sp.cls = 0 then s.image sp 0x10 (fun s => s.readBegin sp) (fun s r => s.readGo sp r) else s)

/-! ## What firmware records of a write run (R166 to R175, R275) -/

/-- One sector of a write run as firmware sees it: where it lies, what its metadata names, whether write current reached it, whether it passed verify, its
CRC-32C, the slip slots of its band, and whether its object still exists. -/
structure WrSect where
  head : Nat
  band : Nat
  slot : Nat
  track : Nat
  pos : Nat
  typ : Nat
  vault : Nat
  frag : Nat
  incarn : Nat
  idx : Nat
  written : Bool
  pass : Bool
  crc : Nat
  slips : Nat
  alive : Bool
  deriving DecidableEq, Repr

def Rewrite.isOf (r : Rewrite) (x : WrSect) : Bool :=
  r.head == x.head && r.band == x.band && r.typ == x.typ && r.frag == x.frag && r.incarn == x.incarn && r.idx == x.idx && !r.relocate

/-- A data sector has reached the media: its row opens, with accumulators of its own (Table 06-7). -/
def LayState.dataWritten (y : LayState) (x : WrSect) (slot : Nat) : LayState :=
  match y.groupOf x.band with
  | none => y
  | some g =>
    if g.memberOf x.head < g.k then (y.updGroup x.band (fun g => g.rowStep (g.rowOf slot) .dataWritten)).takeAcc x.band (g.rowOf slot) else y

/-- The band maps name a sector that has passed verify. A copy made by a band mover replaces the place it came from, and its row is one that the source
group feeds (R184); the copy of a sector whose object is deleted is dead (R185). -/
def LayState.mapSector (y : LayState) (x : WrSect) (i slot row : Nat) : LayState :=
  let old := y.placeOf x.frag x.incarn x.idx
  let from_ := old.elim x.band (·.band)
  let p : Place := { frag := x.frag, incarn := x.incarn, idx := x.idx, vault := x.vault, band := x.band, member := i, slot := slot,
                     dead := !(from_ == x.band) && !x.alive }
  { y with places := p :: y.places.filter (fun q => !(q.frag == x.frag && q.incarn == x.incarn && q.idx == x.idx)),
           rehome := y.rehome.filter (fun q => !(q.frag == x.frag && q.incarn == x.incarn && q.idx == x.idx)),
           feeds := if from_ = x.band ∨ y.feeds.contains (from_, x.band, row) then y.feeds else (from_, x.band, row) :: y.feeds }

/-- A sector has passed read-after-write for slot `slot` of its member: its row moves (Table 06-7), and what that frees is released. -/
def LayState.verified (y : LayState) (x : WrSect) (slot : Nat) : LayState :=
  match y.groupOf x.band with
  | none => y
  | some g =>
    let i := g.memberOf x.head
    let r := g.rowOf slot
    let y0 := { y with unreadable := y.unreadable.filter (fun e => !(e == (x.band, i, slot))) }
    let y1 := y0.updGroup x.band (fun g =>
      if i < g.k then
        let g1 := { g with crcs := ((i, slot), x.crc) :: g.crcs.filter (fun e => !(e.1 == (i, slot))) }
        if g1.dataDone r then g1.rowStep r .lastVerified else g1
      else if i < g.k + g.m then
        let g1 := { g with parity := (i, slot) :: g.parity.filter (fun e => !(e == (i, slot))) }
        if g1.parityDone r then g1.rowStep r .parityVerified else g1
      else g)
    (if i < g.k ∧ x.typ = 0 then y1.mapSector x i slot r else y1).reclaim

/-- A slip slot that no sector needs is left in the band. -/
def LayState.slipLeft (y : LayState) (x : WrSect) (wp : Nat) : Bool :=
  decide ((y.rewrites.filter (fun r => r.head == x.head && r.band == x.band && !r.relocate)).length + (wp - 65536) < x.slips)

/-- The data of the open rows of a group, still held in the buffer, is to be written into another group (R168). -/
def LayState.rehomeRows (y : LayState) (b : Nat) : LayState :=
  match y.groupOf b with
  | none => y
  | some g =>
    let open_ := fun (p : Place) => p.band == b && !p.dead && rowActive (g.rowSt (g.rowOf p.slot))
    { y with places := y.places.filter (fun p => !open_ p), rehome := y.rehome ++ y.places.filter open_ }

/-- The slot enters the grown list, and its sector waits for a slip slot; with none left the band takes no further writes and its group closes
(R167 to R169). -/
def LayState.slotFailed (y : LayState) (x : WrSect) (slot wp : Nat) : LayState :=
  let left := y.slipLeft x wp
  let y1 := y.growAt (x.head, x.track, x.pos)
  let y2 := { y1 with rewrites := y1.rewrites ++ [{
    head := x.head, band := x.band, slot := slot, typ := x.typ, frag := x.frag, incarn := x.incarn, idx := x.idx, relocate := !left }] }
  if left then y2
  else ((y2.setBand { y2.bandOf x.head x.band with exhausted := true }).rehomeRows x.band).updGroup x.band Group.close

/-- A sector of a write run, in a data slot or in the band's tail (R167, R275). -/
def LayState.sectorDone (y : LayState) (heads : List Nat) (x : WrSect) (k m rowSectors : Nat) : LayState :=
  let y0 := (y.withGroup heads x.band x.vault k m rowSectors).setBand { y.bandOf x.head x.band with wp := x.slot + 1 }
  if x.slot < 65536 then
    let y1 := if x.written then y0.dataWritten x x.slot else y0
    if x.pass then y1.verified x x.slot else y1.slotFailed x x.slot (x.slot + 1)
  else match y0.rewrites.find? (fun r => r.isOf x) with
    | none => y0
    | some r =>
      let b := y0.bandOf x.head x.band
      let y1 := { y0 with rewrites := y0.rewrites.erase r }
      let y2 := if x.written then y1.dataWritten x r.slot else y1
      if x.pass then (y2.setBand { b with slips := b.slips.filter (fun e => !(e.1 == r.slot)) ++ [(r.slot, x.slot)] }).verified x r.slot
      else y2.slotFailed x r.slot (x.slot + 1)

/-- The slip slots of a band (R164). -/
def LayState.slipSlots (y : LayState) (l : List Word) (h track : Nat) : Nat := y.bandSlots l h (bandStart l track) - 65536

/-- Sector `i` of the running write run. -/
def State.wrSect (s : State) (sp : Spire) (l : List Word) (b fails i : Nat) : WrSect :=
  let t := sprTower sp
  let h := s.cw sp 1 / 2 ^ 28
  let r := ((s.twr.get t).run).getD {}
  let md := s.sectorMeta { r with meta_ := s.cw sp 4, start := s.cw sp 7, cur := i }
  let user := s.bytes (s.cw sp 3 + 4096 * i) 4096
  let frag := leNat (md.take 6)
  let incarn := leNat ((md.drop 6).take 2)
  { head := h, band := b, slot := s.cw sp 7 + i, track := s.cw sp 1 % 2 ^ 24, pos := s.cw sp 2 % 2 ^ 11 + i, typ := byteAt md 14 % 16,
    vault := byteAt md 13, frag := frag, incarn := incarn, idx := leNat ((md.drop 8).take 5), written := r.woutOf i == 0,
    pass := fails / 2 ^ i % 2 == 0, crc := crcBytes (user ++ md), slips := (s.lay.get t).slipSlots l h (s.cw sp 1 % 2 ^ 24),
    alive := s.obj.objs.any (fun o => o.tower == t && o.handle % 2 ^ 48 == frag && o.incarn == incarn) }

/-- The accumulators of rows that have opened are all zeros (R172, R175). Row `n` of Tower `t` takes, in each part of the area of FIX_ACC_BASE, four
runs of 1,024 slots; the manual gives the parts and not that order (DESIGN CHOICE, log entry 53). -/
def State.zeroAcc (s : State) (t : Tower) (n : Nat) : State :=
  let base := s.rd FIX_ACC_BASE_HI_ADDR * 2 ^ 32 + s.rd FIX_ACC_BASE_LO_ADDR * 4096
  let row := 16 * t.idx + n
  if s.isOn bFIX 0 ∧ 2 ^ 32 ≤ base then
    { s with mem := s.mem.filter (fun c =>
        !(decide (base + row * 2 ^ 24 ≤ c.1) && decide (c.1 < base + (row + 1) * 2 ^ 24))
          && !(decide (base + 2 ^ 29 + row * 2 ^ 14 ≤ c.1) && decide (c.1 < base + 2 ^ 29 + (row + 1) * 2 ^ 14))) }
  else s

/-- The accumulator rows that a Tower's open rows hold. -/
def LayState.accRows (y : LayState) : List Nat := y.groups.flatMap (fun g => g.accs.map (·.2))

/-- The sectors that a write run reached are recorded. -/
def State.layWrite (s : State) (sp : Spire) (fails reached : Nat) : State :=
  let t := sprTower sp
  let h := s.cw sp 1 / 2 ^ 28
  let z := s.cw sp 2 / 2 ^ 26
  let l := s.zoneWords t h z
  let b := s.bandIndex t h z (s.cw sp 1 % 2 ^ 24)
  let s1 := s.updLay t (fun y => (List.range reached).foldl (fun (y : LayState) i =>
    y.sectorDone (s.activeHeads t) (s.wrSect sp l b fails i) s.obj.k s.obj.m s.obj.rowSectors) y)
  ((s1.lay.get t).accRows.filter (fun n => !(s.lay.get t).accRows.contains n)).foldl (fun s n => s.zeroAcc t n) s1

/-! ## What firmware never asks of a write run (R165 to R177, R186, R270) -/

/-- Sector `x` of a run may be written in member `i` of a group (R167, R173, R174): data of the group's vault in the order of the rows, parity once
every data slot of its row has passed, and in the tail only a sector that waits for a slip slot. -/
def LayState.sectorOk (y : LayState) (t : Tower) (g : Group) (x : WrSect) : Bool :=
  let i := g.memberOf x.head
  let r := g.rowOf x.slot
  let tail := y.rewrites.any (fun w => w.isOf x)
  if i < g.k then
    x.typ == 0 && x.vault == g.vault && (if x.slot < 65536 then
      !g.closed && (List.range i).all (fun j => decide (min 65536 ((r + 1) * g.rowSectors) ≤ (y.bandOf (nth g.heads j 0) x.band).wp)) else tail)
  else
    x.typ == 1 && x.vault == g.vault && x.frag == x.band + t.idx * 2 ^ 47 && x.incarn == g.incarn && (if x.slot < 65536 then
      x.idx == x.slot && (g.closed || g.dataDone r) else tail)

/-- The run may begin: what the layout rules forbid firmware to write, no channel core posts. Such a WRITE_RUN is refused (DESIGN CHOICE, log entry
25). -/
def State.writeBarred (s : State) (sp : Spire) : Bool :=
  let t := sprTower sp
  let y := s.lay.get t
  let h := s.cw sp 1 / 2 ^ 28
  let z := s.cw sp 2 / 2 ^ 26
  let track := s.cw sp 1 % 2 ^ 24
  let first := s.cw sp 2 % 2 ^ 11
  let n := s.cw sp 2 / 2 ^ 16 % 32 + 1
  let l := s.zoneWords t h z
  let b := s.bandIndex t h z track
  let bd := y.bandOf h b
  let xs := (List.range n).map (s.wrSect sp l b 0)
  let g := (y.groupOf b).getD (newGroup (s.activeHeads t) b s.obj.k s.obj.m ((xs.head?.map (·.vault)).getD 0) (y.nextIncarn b) s.obj.rowSectors)
  let opens := !y.busyGroups.contains b && xs.any (fun x => decide (g.memberOf h < g.k) && rowNext (g.rowSt (g.rowOf x.slot)) .dataWritten == .open_)
  !(s.rd (SRV_OFFSET_OFFSET t.idx) == 0) || y.ladders.any (fun l => l.normalHeater.isSome && l.sec.head == s.head t)
    || inGuard l track || y.retired l h (bandStart l track) || bd.exhausted || !(bd.gen == 3) || !(g.gen == 3)
    || !(y.slotOf l h track first == s.cw sp 7) || xs.any (fun x => y.listed h track x.pos)
    || (if g.heads.contains h then !xs.all (fun x => y.sectorOk t g x) else !y.moverBands.contains (h, b))
    || (opens && decide (16 ≤ y.busyGroups.length))

/-! ## WRITE_RUN (R298) -/

/-- The arms of window `k` of a write: the write gate on comparators 0 and 1, the assist gate on 2 and 3. -/
def State.writeArms (s : State) (sp : Spire) (k : Nat) : List (Nat × Nat × Nat) :=
  (if ((s.spire sp).field k 4).isSome then [(2, 3, s.winAt sp k 4 0), (3, 4, s.winAt sp k 5 0)] else [])
    ++ [(0, 1, s.winAt sp k 2 0), (1, 2, s.winAt sp k 3 0)]

/-- Sectors that the run reached (R234). -/
def State.wrReached (s : State) (sp : Spire) : Nat := (((s.twr.get (sprTower sp)).run.map (fun r => r.wouts.length))).getD 0

/-- First WOUT other than WRITTEN of the run. -/
def State.wrBad (s : State) (sp : Spire) : Nat :=
  (((s.twr.get (sprTower sp)).run.bind (fun r => r.wouts.find? (fun x => !(x == 0))))).getD 0

/-- The new write pointer is stored, and the run goes to its rendezvous. -/
def State.writeEnd (s : State) (sp : Spire) (r : MRun) (status : Nat) : State :=
  let n := s.wrReached sp
  let q := s.busWrite (sprPort sp) (s.cw sp 6 / 4 * 4) (leBytes 4 (s.cw sp 7 + n))
  if q.2 then q.1.imgSync sp { r with k := n + s.wrBad sp * 65536 } (if status = 0 ∧ ¬ s.wrBad sp = 0 then 3 else status)
  else q.1.busCheck sp (s.spire sp).pc

def State.armWrite (s : State) (sp : Spire) (r : MRun) : State :=
  let a := s.armAll sp (s.writeArms sp r.k)
  if a.2 then a.1.writeEnd sp r 2
  else a.1.imgWait sp r 1 (.waitc 0 (if ((s.spire sp).field r.k 4).isSome then 3 else 1))

/-- The margin from GETANG to the anchor of a write run, which its words do not give (DESIGN CHOICE, log entry 40). -/
def writeMargin : Nat := 32768

def State.writeBegin (s : State) (sp : Spire) : State :=
  match s.imgPlan sp true writeMargin with
  | none => s.imgSync sp { op := 0x11 } 1
  | some (s1, p) =>
    if s.writeBarred sp then s.imgSync sp { op := 0x11 } 1
    else if ¬ sp.idx % 4 = 0 then s1.armRead sp { op := 0x11 } 6
    else
      let q := s1.busWord (sprPort sp) (s.cw sp 6 / 4 * 4)
      if q.2.2 = false then q.1.busCheck sp (s.spire sp).pc
      else if ¬ q.2.1.toNat = s.cw sp 7 then q.1.imgSync sp { op := 0x11 } 4
      else ((q.1.emitr sp p (s.cw sp 3) (s.cw sp 4)).captr sp p 0 (s.cw sp 5 % 256)).armWrite sp { op := 0x11 }

def State.writeGo (s : State) (sp : Spire) (r : MRun) : State :=
  let v := s.w sp 0
  let lead := sp.idx % 4 == 0
  if r.stage = 1 then
    let r1 := { r with k := r.k + 1 }
    -- a run that ended early arms no further gate (R234)
    let ended := lead && (s.twr.get (sprTower sp)).run.elim true (·.ended)
    if 4 ≤ v then (if lead then s.writeEnd sp r 2 else s.imgSync sp r 2)
    else if r1.k < s.planK sp ∧ ended = false then (if lead then s.armWrite sp r1 else s.armRead sp r1 6)
    else if lead then s.imgWait sp r1 2 (.outc 0)
    else s.imgSync sp { r1 with k := 0 } 0
  else if r.stage = 2 then
    let r1 := { r with acc := r.acc + (if v / 16 % 2 = 0 then 2 ^ (v / 2 ^ 16 % 64) else 0) }
    if v / 2 ^ 31 = 1 then s.writeEnd sp r1 0 else s.imgWait sp r1 2 (.outc 0)
  else
    let st := if (s.spire sp).c then 5 else r.status
    let s1 := if lead ∧ (r.status = 0 ∨ r.status = 2 ∨ r.status = 3) then s.layWrite sp r.acc (r.k % 65536) else s
    s1.imgPost sp st (r.acc % 2 ^ 32) r.k

/-- R298: WRITE_RUN. -/
def execWriteRun (sp : Spire) (s : State) : Out :=
  .next (if sp.cls = 0 then s.image sp 0x11 (fun s => s.writeBegin sp) (fun s r => s.writeGo sp r) else s)

/-! ## SEEK, HEAD_SWITCH, ANGLE_EVENT (Table 10-10) -/

/-- Word stores over the spire's port, in order; whether all were served. -/
def State.storeAll (s : State) (sp : Spire) (l : List (Nat × Nat)) : State × Bool :=
  l.foldl (fun (x : State × Bool) e =>
    if x.2 then x.1.busWrite (sprPort sp) e.1 (leBytes 4 e.2) else x) (s, true)

def State.seekBegin (s : State) (sp : Spire) : State :=
  let i := (sprTower sp).idx
  let v := s.cw sp 1 * 256 % 2 ^ 32
  let r := s.storeAll sp [(SRV_TRACK i, v), (SRV_ENG_PROF_TGT i, v), (SRV_ENG_PROF_CTL i, 2 ^ 31)]
  if r.2 then r.1.setRoutine sp (some { op := 0x18, stage := 1 }) else r.1.busCheck sp (s.spire sp).pc

/-- The Tower has settled: its MODE is FOLLOW again. -/
def State.seekGo (s : State) (sp : Spire) (_r : MRun) : State :=
  if s.mode (sprTower sp) = mFOLLOW then s.imgPost sp 0 (s.rd (SRV_POS_POS (sprTower sp).idx)) 0 else s

/-- R142: SEEK. -/
def execSeek (sp : Spire) (s : State) : Out :=
  .next (if sp.cls = 0 then s.image sp 0x18 (fun s => s.seekBegin sp) (fun s r => s.seekGo sp r) else s)

/-- The words of the SRV_LIN table, loaded over the spire's port. -/
def State.loadWords (s : State) (sp : Spire) (a n : Nat) : State × List Nat × Bool :=
  (List.range n).foldl (fun (x : State × List Nat × Bool) k =>
    let r := x.1.busWord (sprPort sp) (a / 4 * 4 + 4 * k)
    (r.1, x.2.1 ++ [r.2.1.toNat], x.2.2 && r.2.2)) (s, [], true)

/-- The skew, the SRV_LIN table and the head, in the order of R136. -/
def State.switchBegin (s : State) (sp : Spire) : State :=
  let i := (sprTower sp).idx
  let q := s.loadWords sp (s.cw sp 3) 33
  let r := q.1.storeAll sp ([(ATB_SKEW_T i, s.cw sp 2)] ++ q.2.1.zipIdx.map (fun e => (SRV_LIN i e.2, e.1)) ++ [(SRV_HEAD i, s.cw sp 1)])
  if q.2.2 && r.2 then r.1.setRoutine sp (some { op := 0x19, stage := 1 }) else r.1.busCheck sp (s.spire sp).pc

def State.switchGo (s : State) (sp : Spire) (_r : MRun) : State :=
  if s.on (SRV_MODE_HEAD_PEND (sprTower sp).idx) then s else s.imgPost sp 0 (s.cw sp 1) 0

/-- R136: HEAD_SWITCH. -/
def execHeadSwitch (sp : Spire) (s : State) : Out :=
  .next (if sp.cls = 0 then s.image sp 0x19 (fun s => s.switchBegin sp) (fun s r => s.switchGo sp r) else s)

def State.eventBegin (s : State) (sp : Spire) : State :=
  let r := s.armDo sp 0 (s.cw sp 1) 0 0 (s.cw sp 2 % 256)
  if r.2 then r.1.imgPost sp 2 (r.1.rd (ATB_CMP_CTL_STATUS (ownCmp sp 0))) 0
  else r.1.imgWait sp { op := 0x1A } 1 (.waitc 0 0)

/-- The comparator has ended; FLUSHED is no fire, and posts DISC. -/
def State.eventGo (s : State) (sp : Spire) (_r : MRun) : State := s.imgPost sp (if s.w sp 0 < 4 then 0 else 2) (s.w sp 0) 0

/-- R61: ANGLE_EVENT. -/
def execAngleEvent (sp : Spire) (s : State) : Out :=
  .next (if sp.cls = 0 then s.image sp 0x1A (fun s => s.eventBegin sp) (fun s r => s.eventGo sp r) else s)

/-! ## Band movers (Table 10-13) -/

/-- The band that a WRITE_RUN of a mover writes is the mover's, a spare band of its index too (R171). -/
def State.moverWrites (s : State) (sp : Spire) (c : List Word) : State :=
  if fieldOf (nth c 0 0) 24 8 = 0x11 then
    let t := sprTower sp
    let h := fieldOf (nth c 1 0) 28 4
    let b := s.bandIndex t h (fieldOf (nth c 2 0) 26 6) (fieldOf (nth c 1 0) 0 24)
    s.updLay t (fun y => if y.moverBands.contains (h, b) then y else { y with moverBands := (h, b) :: y.moverBands })
  else s

/-- The pushes of a MOVE_RUN from the k-th on, as far as the queues take them. -/
def State.movePush (s : State) (sp : Spire) (cmds : List (List Word)) (r : MRun) : State :=
  let x := (cmds.drop r.k).foldl (fun (x : State × Nat × Bool) c =>
    if x.2.2 then x
    else
      let q := x.1.moverPush sp (fieldOf (nth c 0 0) 16 4) (c.take 8 ++ List.replicate (8 - c.length) 0)
      (if q.2 then q.1 else q.1.moverWrites sp c, if q.2 then x.2.1 else x.2.1 + 1, q.2)) (s, r.k, false)
  x.1.setRoutine sp (some { r with k := x.2.1, stage := if x.2.2 then 1 else 2 })

/-- With every push made, a completion in the mover's ring (EF1) ends the command; `failed` lists the unrecovered sectors. -/
def State.moveGo (s : State) (sp : Spire) (cmds : List (List Word)) (failed : Nat) (r : MRun) : State :=
  if r.stage = 1 then s.movePush sp cmds r
  else if (s.spire sp).ef1 then (s.updSpire sp (fun p => { p with ef1 := false })).imgPost sp 0 (failed % 2 ^ 32) 0
  else s

/-- R184: MOVE_RUN. `cmds` are the READ_RUN and WRITE_RUN commands that the mover pushes, each to the sequencers of its MASK. -/
def execMoveRun (sp : Spire) (cmds : List (List Word)) (failed : Nat) (s : State) : Out :=
  .next (if sp.cls = 2 then
    s.image sp 0x20 (fun s => s.movePush sp cmds { op := 0x20 }) (fun s r => s.moveGo sp cmds failed r) else s)

/-- The slip map of a band as its tail implies it (R167): each slip slot stands for the slot that is its SECT_IDX. -/
def State.slipMap (s : State) (t : Tower) (h b : Nat) (tail : List (Nat × List Byte)) : State :=
  s.updLay t (fun y => y.setBand { y.bandOf h b with
    slips := (tail.filter (fun e => decide (65536 ≤ e.1) && byteAt e.2 15 / 2 % 2 == 1)).map (fun e => (leNat ((e.2.drop 8).take 5), e.1)) })

/-- R167: TAIL_SCAN. `tail` is the metadata of the slip slots as read, `status` the completion status. -/
def execTailScan (sp : Spire) (tail : List (Nat × List Byte)) (head band status : Nat) (s : State) : Out :=
  .next (if sp.cls = 2 then
    s.image sp 0x21 (fun s => (if status = 0 then s.slipMap (sprTower sp) head band tail else s).imgPost sp (status % 256) 0 0) (fun s _ => s)
  else s)

/-! ## Integrity engines (Table 10-13) -/

/-- Field `k` of the running command. -/
def State.imgField (s : State) (sp : Spire) (k : Nat) : Nat :=
  Config.imgField (s.spire sp).opcode k ((s.spire sp).w.drop 8) % 2 ^ 32

/-- The routine issues an operation and looks for EF0, or posts REFUSED. -/
def State.imgIssue (s : State) (sp : Spire) (r : MRun) (fn ra rb : Nat) : State :=
  let q := s.intIssue sp fn ra rb
  if q.2 then q.1.imgPost sp 1 0 0 else q.1.setRoutine sp (some r)

/-- The operation under way has ended. -/
def State.ef0Take (s : State) (sp : Spire) (f : State → State) : State :=
  if (s.spire sp).ef0 then f (s.updSpire sp (fun p => { p with ef0 := false })) else s

/-- HASH: HINIT, HUPD over the list, HFIN. Fields: state, list, descriptors, digest. -/
def State.hashGo (s : State) (sp : Spire) (r : MRun) : State :=
  s.ef0Take sp (fun s =>
    if r.stage = 2 then s.imgPost sp 0 0 0
    else if r.k < s.imgField sp 2 then s.imgIssue sp { r with stage := 1, k := r.k + 1 } 1 (s.imgField sp 1 + 64 * r.k) (s.imgField sp 0)
    else s.imgIssue sp { r with stage := 2 } 2 (s.imgField sp 0) (s.imgField sp 3))

/-- R286: HASH. -/
def execHash (sp : Spire) (s : State) : Out :=
  .next (if sp.cls = 3 then
    s.image sp 0x30 (fun s => s.imgIssue sp { op := 0x30, stage := 1 } 0 (s.imgField sp 0) 0) (fun s r => s.hashGo sp r) else s)

/-- PARITY_ACC: GFACC for a run of data slots. Fields: first descriptor, count. -/
def State.accGo (s : State) (sp : Spire) (r : MRun) : State :=
  s.ef0Take sp (fun s =>
    if r.k < s.imgField sp 1 then s.imgIssue sp { r with k := r.k + 1 } 3 (s.imgField sp 0 + 64 * r.k) 0 else s.imgPost sp 0 0 0)

/-- R172: PARITY_ACC. -/
def execParityAcc (sp : Spire) (s : State) : Out :=
  .next (if sp.cls = 3 then
    s.image sp 0x31 (fun s => s.imgIssue sp { op := 0x31, k := 1 } 3 (s.imgField sp 0) 0) (fun s r => s.accGo sp r) else s)

/-- PARITY_OUT: a copy over the engine's port. Fields: source, destination, bytes. -/
def State.parityOut (s : State) (sp : Spire) : State :=
  let r := s.busRead (sprPort sp) (Config.imgField 0x32 0 ((s.spire sp).w.drop 8)) (s.imgField sp 2)
  let q := r.1.busWrite (sprPort sp) (s.imgField sp 1) r.2.data
  if r.2.err.isEmpty && q.2 then q.1.imgPost sp 0 0 0 else q.1.busCheck sp (s.spire sp).pc

/-- R172: PARITY_OUT. -/
def execParityOut (sp : Spire) (s : State) : Out :=
  .next (if sp.cls = 3 then s.image sp 0x32 (fun s => s.parityOut sp) (fun s _ => s) else s)

/-- R272: REBUILD: GFSOLVE for one slot. Field: descriptor. -/
def execRebuild (sp : Spire) (s : State) : Out :=
  .next (if sp.cls = 3 then
    s.image sp 0x33 (fun s => s.imgIssue sp { op := 0x33, stage := 1 } 4 (s.imgField sp 0) 0)
      (fun s _ => s.ef0Take sp (fun s => s.imgPost sp 0 0 0)) else s)

end Sys2Proof.Machine
end

