-- ==== Sys2Proof/Machine/Fwk.lean ====
section
/-! DEFINITION. The register framework: writes over the fabric to register pages, and what a fabric cycle does on its own. -/

namespace Sys2Proof.Machine

/-! ## Register framework (R7 to R11, R22, R26 to R40) -/

/-- The bytes of a write of `size` bytes. -/
def writeBytes (size : Nat) (val : Word) : List Byte := (leBytes 4 val.toNat).take size

/-- R22: a write over the fabric from port `port` to the register window; the response says whether it was served. STEP commands that it
brought are performed after it (log entry 40). -/
def State.fabricWrite (s : State) (port addr size : Nat) (val : Word) : State :=
  let r := s.regStore port addr size val
  (r.1.respond { err := if r.2 then [] else beats32 addr size }).drainSteps

/-- R22: REGISTER_WRITE. An address outside the register window is not this command's. -/
def execRegisterWrite (port addr size : Nat) (val : Word) (s : State) : Out :=
  .next (if inRegs addr then s.fabricWrite port addr size val else s)

/-- R7: a write of EXPERT_KEY. -/
def execExpertKeyWrite (blk inst page : Nat) (val : Word) (s : State) : Out :=
  .next (if s.served (pageBase blk inst page + 0x1C) then s.keyWrite blk inst page val else s)

/-- R27: a write of INT_FORCE. -/
def execIntForceWrite (blk inst page : Nat) (val : Word) (s : State) : Out :=
  .next (s.gated (pageBase blk inst page + 0x18) (fun s => s.intForce (pageBase blk inst page) val))

/-- R41: a write of SYS_MBX_DB_SET. -/
def execMbxDoorbellSet (val : Word) (s : State) : Out := .next (s.gated SYS_MBX_DB_SET (fun s => s.mbxSet val))

/-! ## One fabric cycle with no command waiting (log entry 3) -/

/-- The 25 MHz reference: one cycle in 40 fabric cycles. The watchdog's count stands still in a hold-up (R539). -/
def State.refTick (s : State) : State :=
  if s.fwk.cycle % 40 = 0 then
    { s with
      fwk := { s.fwk with mtime := (s.fwk.mtime + 1) % 2 ^ 64, aon := s.fwk.aon + 1 }
      sys := if s.fwk.holdup then { s.sys with wdtAt := s.sys.wdtAt + 1 } else s.sys }
  else s

/-- A STEP that came over the fabric is performed. -/
def State.stepTick (s : State) : State := if s.sprEnv.steps.isEmpty then s else s.drainSteps

/-- The events of the cycle that ends meet no others (R152). -/
def State.srvCycle (s : State) : State :=
  let f : SrvState → SrvState := fun v => { v with loadNow := false, emrgNow := none, headNow := false }
  (s.updSrv .A f).updSrv .B f

/-- The events of the cycle that ends meet no others at the Lantern (R257). -/
def State.lanCycle (s : State) : State :=
  let f : LanState → LanState := fun l => { l with shutNow := none, tryNow := false, ptabNow := none }
  (s.updLan .A f).updLan .B f

/-- One fabric cycle: time passes, the angle advances, the trace port drains. Nothing moves while the chip is held (R508, R554). -/
def State.tick (s : State) : State :=
  if s.halted then s
  else
    let s1 : State := s.updFwk (fun y => { y with cycle := y.cycle + 1 })
    (((s1.refTick.atbCycle.srvCycle.lanCycle.capSettle .A).capSettle .B).btpDrain).stepTick

end Sys2Proof.Machine
end

