-- ==== Sys2Proof/Machine/Dispatch.lean ====
section
/-! DEFINITION. The meaning of every command. -/

namespace Sys2Proof.Machine

/-- The effect of a command on everything but the queue. -/
def exec (i : Instr) (s : State) : Host.Outcome State Fault Refusal :=
  match i with
  | .registerWrite port addr size val => Sys2Proof.Machine.execRegisterWrite port addr size val s
  | .expertKeyWrite blk inst page val => Sys2Proof.Machine.execExpertKeyWrite blk inst page val s
  | .intForceWrite blk inst page val => Sys2Proof.Machine.execIntForceWrite blk inst page val s
  | .enableWrite blk inst => Sys2Proof.Machine.execEnableWrite blk inst s
  | .disableWrite blk inst => Sys2Proof.Machine.execDisableWrite blk inst s
  | .softReset blk inst page => Sys2Proof.Machine.execSoftReset blk inst page s
  | .startComplete blk inst => Sys2Proof.Machine.execStartComplete blk inst s
  | .shutdownComplete blk inst => Sys2Proof.Machine.execShutdownComplete blk inst s
  | .restartCycleEnd blk inst => Sys2Proof.Machine.execRestartCycleEnd blk inst s
  | .mbxDoorbellSet val => Sys2Proof.Machine.execMbxDoorbellSet val s
  | .servoWedge t a b dt => Sys2Proof.Machine.execServoWedge t a b dt s
  | .obsPhaseMeasure obs => Sys2Proof.Machine.execObsPhaseMeasure obs s
  | .wedgeBoundary t => Sys2Proof.Machine.execWedgeBoundary t s
  | .servoWindowOpen t => Sys2Proof.Machine.execServoWindowOpen t s
  | .servoWindowClose t => Sys2Proof.Machine.execServoWindowClose t s
  | .positionTick t => Sys2Proof.Machine.execPositionTick t s
  | .currentSubtick t sub => Sys2Proof.Machine.execCurrentSubtick t sub s
  | .comparatorArm n tgt ctl => Sys2Proof.Machine.execComparatorArm n tgt ctl s
  | .comparatorDisarm n ctl => Sys2Proof.Machine.execComparatorDisarm n ctl s
  | .comparatorFire n => Sys2Proof.Machine.execComparatorFire n s
  | .cmpTestFlush val => Sys2Proof.Machine.execCmpTestFlush val s
  | .atbSkewWrite t val => Sys2Proof.Machine.execAtbSkewWrite t val s
  | .atbObsOffsetWrite val => Sys2Proof.Machine.execAtbObsOffsetWrite val s
  | .switchingDecision est => Sys2Proof.Machine.execSwitchingDecision est s
  | .currentConversion j iu iv iw => Sys2Proof.Machine.execCurrentConversion j iu iv iw s
  | .bemfCrossing fwd amp interval sinceEdge angle => Sys2Proof.Machine.execBemfCrossing fwd amp interval sinceEdge angle s
  | .recapTimeout => Sys2Proof.Machine.execRecapTimeout s
  | .electricalRev periodNs => Sys2Proof.Machine.execElectricalRev periodNs s
  | .syncInPulse angle intervalNs overRate => Sys2Proof.Machine.execSyncInPulse angle intervalNs overRate s
  | .syncPulseTimeout => Sys2Proof.Machine.execSyncPulseTimeout s
  | .markerMeasureDone => Sys2Proof.Machine.execMarkerMeasureDone s
  | .listenEnd => Sys2Proof.Machine.execListenEnd s
  | .brakeRevEnd => Sys2Proof.Machine.execBrakeRevEnd s
  | .ipsAttemptDone peaks => Sys2Proof.Machine.execIpsAttemptDone peaks s
  | .alignDone => Sys2Proof.Machine.execAlignDone s
  | .rampTimeout => Sys2Proof.Machine.execRampTimeout s
  | .brakeStopDone => Sys2Proof.Machine.execBrakeStopDone s
  | .faultStopParked => Sys2Proof.Machine.execFaultStopParked s
  | .spnCfgWrite val => Sys2Proof.Machine.execSpnCfgWrite val s
  | .spnGateForceWrite val => Sys2Proof.Machine.execSpnGateForceWrite val s
  | .engineTick e => Sys2Proof.Machine.execEngineTick e s
  | .slotEvaluation e inp => Sys2Proof.Machine.execSlotEvaluation e inp s
  | .profGo t => Sys2Proof.Machine.execProfGo t s
  | .profPWrite t val => Sys2Proof.Machine.execProfPWrite t val s
  | .engSwap e => Sys2Proof.Machine.execEngSwap e s
  | .faultClr e => Sys2Proof.Machine.execFaultClr e s
  | .engCntClr e => Sys2Proof.Machine.execEngCntClr e s
  | .slotEnWrite e val => Sys2Proof.Machine.execSlotEnWrite e val s
  | .slotCfgWrite e kind n val => Sys2Proof.Machine.execSlotCfgWrite e kind n val s
  | .coefWrite e val => Sys2Proof.Machine.execCoefWrite e val s
  | .traceArm e => Sys2Proof.Machine.execTraceArm e s
  | .traceForce e => Sys2Proof.Machine.execTraceForce e s
  | .demodResult t a b => Sys2Proof.Machine.execDemodResult t a b s
  | .load t others => Sys2Proof.Machine.execLoad t others s
  | .unload t others => Sys2Proof.Machine.execUnload t others s
  | .retract t others => Sys2Proof.Machine.execRetract t others s
  | .srvHeadWrite t val => Sys2Proof.Machine.execSrvHeadWrite t val s
  | .srvTrackWrite t val => Sys2Proof.Machine.execSrvTrackWrite t val s
  | .srvOffsetWrite t val => Sys2Proof.Machine.execSrvOffsetWrite t val s
  | .generatorTick t vaux vcmI => Sys2Proof.Machine.execGeneratorTick t vaux vcmI s
  | .genMoveEnd t => Sys2Proof.Machine.execGenMoveEnd t s
  | .genHoldEnd t => Sys2Proof.Machine.execGenHoldEnd t s
  | .loadTimeout t => Sys2Proof.Machine.execLoadTimeout t s
  | .shockConversion s0 s1 => Sys2Proof.Machine.execShockConversion s0 s1 s
  | .headRemoved t h => Sys2Proof.Machine.execHeadRemoved t h s
  | .frontDetectorDone t verify sampA sampB afeA afeB => Sys2Proof.Machine.execFrontDetectorDone t verify sampA sampB afeA afeB s
  | .detectorPassDone t u => Sys2Proof.Machine.execDetectorPassDone t u s
  | .localIterationDone t u => Sys2Proof.Machine.execLocalIterationDone t u s
  | .crcCheckDone t u => Sys2Proof.Machine.execCrcCheckDone t u s
  | .chnRpPush t val => Sys2Proof.Machine.execChnRpPush t val s
  | .replayStart t => Sys2Proof.Machine.execReplayStart t s
  | .rbPin t val => Sys2Proof.Machine.execRbPin t val s
  | .rbUnpin t val => Sys2Proof.Machine.execRbUnpin t val s
  | .chnCoefWrite t val => Sys2Proof.Machine.execChnCoefWrite t val s
  | .eqAdaptUpdate t => Sys2Proof.Machine.execEqAdaptUpdate t s
  | .chnCntClr t val => Sys2Proof.Machine.execChnCntClr t val s
  | .sectorWriteStart t encoded => Sys2Proof.Machine.execSectorWriteStart t encoded s
  | .sectorWriteEnd t => Sys2Proof.Machine.execSectorWriteEnd t s
  | .cplFrameSend t => Sys2Proof.Machine.execCplFrameSend t s
  | .keepalive t => Sys2Proof.Machine.execKeepalive t s
  | .cplAck t seq addr data => Sys2Proof.Machine.execCplAck t seq addr data s
  | .cplNak t seq => Sys2Proof.Machine.execCplNak t seq s
  | .readData t seq addr data => Sys2Proof.Machine.execReadData t seq addr data s
  | .telemetry t head code => Sys2Proof.Machine.execTelemetry t head code s
  | .cplFaultFrame t status => Sys2Proof.Machine.execCplFaultFrame t status s
  | .cplBadFrame t kind => Sys2Proof.Machine.execCplBadFrame t kind s
  | .cplAnswerTimeout t => Sys2Proof.Machine.execCplAnswerTimeout t s
  | .cplResetRelease t => Sys2Proof.Machine.execCplResetRelease t s
  | .cplVersionRead t => Sys2Proof.Machine.execCplVersionRead t s
  | .cplRegGo t val => Sys2Proof.Machine.execCplRegGo t val s
  | .telemetryStrobe t => Sys2Proof.Machine.execTelemetryStrobe t s
  | .lanBiasRampStep t => Sys2Proof.Machine.execLanBiasRampStep t s
  | .holdoffEnd t => Sys2Proof.Machine.execHoldoffEnd t s
  | .ptabWrite t val => Sys2Proof.Machine.execPtabWrite t val s
  | .ladderAttempt t sec profile fac => Sys2Proof.Machine.execLadderAttempt t sec profile fac s
  | .ladderEnd t sec outcome => Sys2Proof.Machine.execLadderEnd t sec outcome s
  | .alu sp => Sys2Proof.Machine.execAlu sp s
  | .alui sp => Sys2Proof.Machine.execAlui sp s
  | .ldi sp => Sys2Proof.Machine.execLdi sp s
  | .lui sp => Sys2Proof.Machine.execLui sp s
  | .br sp => Sys2Proof.Machine.execBr sp s
  | .cbr sp => Sys2Proof.Machine.execCbr sp s
  | .call sp => Sys2Proof.Machine.execCall sp s
  | .nop sp => Sys2Proof.Machine.execNop sp s
  | .ret sp => Sys2Proof.Machine.execRet sp s
  | .halt sp => Sys2Proof.Machine.execHalt sp s
  | .fence sp => Sys2Proof.Machine.execFence sp s
  | .ld sp => Sys2Proof.Machine.execLd sp s
  | .st sp => Sys2Proof.Machine.execSt sp s
  | .getang sp => Sys2Proof.Machine.execGetang sp s
  | .arm sp => Sys2Proof.Machine.execArm sp s
  | .waitc sp => Sys2Proof.Machine.execWaitc sp s
  | .disarm sp => Sys2Proof.Machine.execDisarm sp s
  | .loadz sp => Sys2Proof.Machine.execLoadz sp s
  | .anchor sp => Sys2Proof.Machine.execAnchor sp s
  | .rplan sp => Sys2Proof.Machine.execRplan sp s
  | .wplan sp => Sys2Proof.Machine.execWplan sp s
  | .wget sp => Sys2Proof.Machine.execWget sp s
  | .captr sp => Sys2Proof.Machine.execCaptr sp s
  | .outc sp => Sys2Proof.Machine.execOutc sp s
  | .emitr sp => Sys2Proof.Machine.execEmitr sp s
  | .syncp sp => Sys2Proof.Machine.execSyncp sp s
  | .bandMoverPush sp => Sys2Proof.Machine.execBandMoverPush sp s
  | .hinit sp => Sys2Proof.Machine.execHinit sp s
  | .hupd sp => Sys2Proof.Machine.execHupd sp s
  | .hfin sp => Sys2Proof.Machine.execHfin sp s
  | .gfacc sp => Sys2Proof.Machine.execGfacc sp s
  | .gfsolve sp => Sys2Proof.Machine.execGfsolve sp s
  | .integrityOpDone n => Sys2Proof.Machine.execIntegrityOpDone n s
  | .rxnext sp => Sys2Proof.Machine.execRxnext sp s
  | .sess sp => Sys2Proof.Machine.execSess sp s
  | .openOp sp => Sys2Proof.Machine.execOpen sp s
  | .seal sp => Sys2Proof.Machine.execSeal sp s
  | .rwin sp => Sys2Proof.Machine.execRwin sp s
  | .rmark sp => Sys2Proof.Machine.execRmark sp s
  | .txq sp => Sys2Proof.Machine.execTxq sp s
  | .timer sp => Sys2Proof.Machine.execTimer sp s
  | .pop sp => Sys2Proof.Machine.execPop sp s
  | .post sp => Sys2Proof.Machine.execPost sp s
  | .waitSatisfied sp => Sys2Proof.Machine.execWaitSatisfied sp s
  | .sprStart cls val => Sys2Proof.Machine.execSprStart cls val s
  | .sprHalt cls val => Sys2Proof.Machine.execSprHalt cls val s
  | .sprStep cls val => Sys2Proof.Machine.execSprStep cls val s
  | .sprMcForce cls val => Sys2Proof.Machine.execSprMcForce cls val s
  | .sprCsWrite cls val => Sys2Proof.Machine.execSprCsWrite cls val s
  | .sprQpush cls val => Sys2Proof.Machine.execSprQpush cls val s
  | .mqPush core words val => Sys2Proof.Machine.execMqPush core words val s
  | .readRun sp => Sys2Proof.Machine.execReadRun sp s
  | .writeRun sp => Sys2Proof.Machine.execWriteRun sp s
  | .seek sp => Sys2Proof.Machine.execSeek sp s
  | .headSwitch sp => Sys2Proof.Machine.execHeadSwitch sp s
  | .angleEvent sp => Sys2Proof.Machine.execAngleEvent sp s
  | .moveRun sp cmds failed => Sys2Proof.Machine.execMoveRun sp cmds failed s
  | .tailScan sp slips head band status => Sys2Proof.Machine.execTailScan sp slips head band status s
  | .hash sp => Sys2Proof.Machine.execHash sp s
  | .parityAcc sp => Sys2Proof.Machine.execParityAcc sp s
  | .parityOut sp => Sys2Proof.Machine.execParityOut sp s
  | .rebuild sp => Sys2Proof.Machine.execRebuild sp s
  | .ethFrameRx port f => Sys2Proof.Machine.execEthFrameRx port f s
  | .linkUp port fec => Sys2Proof.Machine.execLinkUp port fec s
  | .linkDown port hiBer => Sys2Proof.Machine.execLinkDown port hiBer s
  | .arpRequest port ip => Sys2Proof.Machine.execArpRequest port ip s
  | .neighbourSolicitation port ip => Sys2Proof.Machine.execNeighbourSolicitation port ip s
  | .echoRequest port v6 ip => Sys2Proof.Machine.execEchoRequest port v6 ip s
  | .fwtxSend => Sys2Proof.Machine.execFwtxSend s
  | .hello rx h body frame => Sys2Proof.Machine.execHello rx h body frame s
  | .auth rx h body gtag => Sys2Proof.Machine.execAuth rx h body gtag s
  | .cmd rx h body gtag => Sys2Proof.Machine.execCmd rx h body gtag s
  | .data rx h body gtag => Sys2Proof.Machine.execData rx h body gtag s
  | .ack rx h body gtag => Sys2Proof.Machine.execAck rx h body gtag s
  | .rekey rx h body gtag => Sys2Proof.Machine.execRekey rx h body gtag s
  | .reset rx h body gtag => Sys2Proof.Machine.execReset rx h body gtag s
  | .close rx h body gtag => Sys2Proof.Machine.execClose rx h body gtag s
  | .hsTimeout k => Sys2Proof.Machine.execHsTimeout k s
  | .idleTimeout k => Sys2Proof.Machine.execIdleTimeout k s
  | .retransmitTimer k => Sys2Proof.Machine.execRetransmitTimer k s
  | .ackDelayTimer k => Sys2Proof.Machine.execAckDelayTimer k s
  | .closingTimeout k => Sys2Proof.Machine.execClosingTimeout k s
  | .cookieKeyRotation => Sys2Proof.Machine.execCookieKeyRotation s
  | .aotSessOpen val => Sys2Proof.Machine.execAotSessOpen val s
  | .aotSessClose val => Sys2Proof.Machine.execAotSessClose val s
  | .aotShutdownTimeout => Sys2Proof.Machine.execAotShutdownTimeout s
  | .ethCntClr port val => Sys2Proof.Machine.execEthCntClr port val s
  | .aotCntClr val => Sys2Proof.Machine.execAotCntClr val s
  | .put k tag choice => Sys2Proof.Machine.execPut k tag choice s
  | .putAcknowledged k tag => Sys2Proof.Machine.execPutAcknowledged k tag s
  | .putDurable vault handle => Sys2Proof.Machine.execPutDurable vault handle s
  | .get k tag unrec => Sys2Proof.Machine.execGet k tag unrec s
  | .stat k tag => Sys2Proof.Machine.execStat k tag s
  | .delete k tag written => Sys2Proof.Machine.execDelete k tag written s
  | .list k tag => Sys2Proof.Machine.execList k tag s
  | .setRetention k tag written => Sys2Proof.Machine.execSetRetention k tag written s
  | .legalHold k tag written => Sys2Proof.Machine.execLegalHold k tag written s
  | .flush k tag => Sys2Proof.Machine.execFlush k tag s
  | .audit k tag found => Sys2Proof.Machine.execAudit k tag found s
  | .exportManifest k tag => Sys2Proof.Machine.execExportManifest k tag s
  | .rawInfo k tag => Sys2Proof.Machine.execRawInfo k tag s
  | .rawRead k tag unrec => Sys2Proof.Machine.execRawRead k tag unrec s
  | .rawWrite k tag verified => Sys2Proof.Machine.execRawWrite k tag verified s
  | .getLog k tag => Sys2Proof.Machine.execGetLog k tag s
  | .fwDownload k tag => Sys2Proof.Machine.execFwDownload k tag s
  | .fwActivate k tag => Sys2Proof.Machine.execFwActivate k tag s
  | .activationDrainTimeout => Sys2Proof.Machine.execActivationDrainTimeout s
  | .setPower k tag => Sys2Proof.Machine.execSetPower k tag s
  | .identify k tag => Sys2Proof.Machine.execIdentify k tag s
  | .abort k tag => Sys2Proof.Machine.execAbort k tag s
  | .towerFailed t => Sys2Proof.Machine.execTowerFailed t s
  | .powerLossRestart => Sys2Proof.Machine.execPowerLossRestart s
  | .vaultCreate k tag => Sys2Proof.Machine.execVaultCreate k tag s
  | .vaultUnlock k tag => Sys2Proof.Machine.execVaultUnlock k tag s
  | .vaultLock k tag => Sys2Proof.Machine.execVaultLock k tag s
  | .vaultInfo k tag => Sys2Proof.Machine.execVaultInfo k tag s
  | .vaultErase k tag => Sys2Proof.Machine.execVaultErase k tag s
  | .vaultSetMin k tag => Sys2Proof.Machine.execVaultSetMin k tag s
  | .timeQuery k tag => Sys2Proof.Machine.execTimeQuery k tag s
  | .timeToken k tag => Sys2Proof.Machine.execTimeToken k tag s
  | .anchorSet k tag => Sys2Proof.Machine.execAnchorSet k tag s
  | .selfTest k tag pass => Sys2Proof.Machine.execSelfTest k tag pass s
  | .zeroise k tag => Sys2Proof.Machine.execZeroise k tag s
  | .entropyHealthFail => Sys2Proof.Machine.execEntropyHealthFail s
  | .clockTick => Sys2Proof.Machine.execClockTick s
  | .clockRecordTimer => Sys2Proof.Machine.execClockRecordTimer s
  | .clockRecordDone => Sys2Proof.Machine.execClockRecordDone s
  | .recNow val => Sys2Proof.Machine.execRecNow val s
  | .stRun val pass => Sys2Proof.Machine.execStRun val pass s
  | .keyLoad val => Sys2Proof.Machine.execKeyLoad val s
  | .keyClear val => Sys2Proof.Machine.execKeyClear val s
  | .keyClearAll val => Sys2Proof.Machine.execKeyClearAll val s
  | .keyBusDone => Sys2Proof.Machine.execKeyBusDone s
  | .ddrRead port addr n => Sys2Proof.Machine.execDdrRead port addr n s
  | .ddrWrite port addr bytes => Sys2Proof.Machine.execDdrWrite port addr bytes s
  | .memInit val => Sys2Proof.Machine.execMemInit val s
  | .memInitDone => Sys2Proof.Machine.execMemInitDone s
  | .memCntClr val => Sys2Proof.Machine.execMemCntClr val s
  | .trainingDone fail => Sys2Proof.Machine.execTrainingDone fail s
  | .scrubRead => Sys2Proof.Machine.execScrubRead s
  | .memLogPop val => Sys2Proof.Machine.execMemLogPop val s
  | .eccFlipArm val => Sys2Proof.Machine.execEccFlipArm val s
  | .cupolaRead core addr n perr => Sys2Proof.Machine.execCupolaRead core addr n perr s
  | .cupolaStore core addr bytes => Sys2Proof.Machine.execCupolaStore core addr bytes s
  | .cupolaFillDone line => Sys2Proof.Machine.execCupolaFillDone line s
  | .prefetchFill line => Sys2Proof.Machine.execPrefetchFill line s
  | .scratchpadAccess port addr n wr perr => Sys2Proof.Machine.execScratchpadAccess port addr n wr perr s
  | .invLine val => Sys2Proof.Machine.execInvLine val s
  | .invRange val => Sys2Proof.Machine.execInvRange val s
  | .invAll val => Sys2Proof.Machine.execInvAll val s
  | .invWays val => Sys2Proof.Machine.execInvWays val s
  | .maintDone => Sys2Proof.Machine.execMaintDone s
  | .cupSpadWrite val => Sys2Proof.Machine.execCupSpadWrite val s
  | .spadWalkDone => Sys2Proof.Machine.execSpadWalkDone s
  | .cupCntClr val => Sys2Proof.Machine.execCupCntClr val s
  | .dmaChEnable c val => Sys2Proof.Machine.execDmaChEnable c val s
  | .dmaChDisable c val => Sys2Proof.Machine.execDmaChDisable c val s
  | .descFetched c => Sys2Proof.Machine.execDescFetched c s
  | .dmaBurstIssue => Sys2Proof.Machine.execDmaBurstIssue s
  | .dmaReadDone c => Sys2Proof.Machine.execDmaReadDone c s
  | .dmaWriteDone c => Sys2Proof.Machine.execDmaWriteDone c s
  | .dmaWritebackDone c => Sys2Proof.Machine.execDmaWritebackDone c s
  | .descRereadDone c => Sys2Proof.Machine.execDescRereadDone c s
  | .dmaChDb c val => Sys2Proof.Machine.execDmaChDb c val s
  | .dmaRequestPulse line => Sys2Proof.Machine.execDmaRequestPulse line s
  | .quiesceAck => Sys2Proof.Machine.execQuiesceAck s
  | .quiesceTimeout => Sys2Proof.Machine.execQuiesceTimeout s
  | .flashCommandCycle addr bytes vppOk => Sys2Proof.Machine.execFlashCommandCycle addr bytes vppOk s
  | .wordProgram addr bytes vppOk => Sys2Proof.Machine.execWordProgram addr bytes vppOk s
  | .bufferProgram writes vppOk => Sys2Proof.Machine.execBufferProgram writes vppOk s
  | .sectorErase index target vppOk => Sys2Proof.Machine.execSectorErase index target vppOk s
  | .eraseSuspend => Sys2Proof.Machine.execEraseSuspend s
  | .eraseResume vppOk => Sys2Proof.Machine.execEraseResume vppOk s
  | .flashReset => Sys2Proof.Machine.execFlashReset s
  | .passwordCheck pw vppOk => Sys2Proof.Machine.execPasswordCheck pw vppOk s
  | .passwordSet pw vppOk => Sys2Proof.Machine.execPasswordSet pw vppOk s
  | .passwordClose => Sys2Proof.Machine.execPasswordClose s
  | .ppbSet addr value vppOk => Sys2Proof.Machine.execPpbSet addr value vppOk s
  | .ppbClearAll vppOk => Sys2Proof.Machine.execPpbClearAll vppOk s
  | .programDone fail retries => Sys2Proof.Machine.execProgramDone fail retries s
  | .metadataWriteDone => Sys2Proof.Machine.execMetadataWriteDone s
  | .erasePulseDone pass vppOk => Sys2Proof.Machine.execErasePulseDone pass vppOk s
  | .suspendDone => Sys2Proof.Machine.execSuspendDone s
  | .flashRead addr n ecc => Sys2Proof.Machine.execFlashRead addr n ecc s
  | .marginScrubRead fails => Sys2Proof.Machine.execMarginScrubRead fails s
  | .flsBootWpWrite port val => Sys2Proof.Machine.execFlsBootWpWrite port val s
  | .flsCntClr val => Sys2Proof.Machine.execFlsCntClr val s
  | .mscrubFailClear val => Sys2Proof.Machine.execMscrubFailClear val s
  | .avsRequest val nack => Sys2Proof.Machine.execAvsRequest val nack s
  | .avsSettleDone read => Sys2Proof.Machine.execAvsSettleDone read s
  | .cpuMultWrite val => Sys2Proof.Machine.execCpuMultWrite val s
  | .cpuPllLocked => Sys2Proof.Machine.execCpuPllLocked s
  | .clockLoss => Sys2Proof.Machine.execClockLoss s
  | .domainPowerDown val => Sys2Proof.Machine.execDomainPowerDown val s
  | .domainPowerUp val => Sys2Proof.Machine.execDomainPowerUp val s
  | .domainRelease => Sys2Proof.Machine.execDomainRelease s
  | .activityTouch val => Sys2Proof.Machine.execActivityTouch val s
  | .idleTimerExpiry n => Sys2Proof.Machine.execIdleTimerExpiry n s
  | .holdupBegin => Sys2Proof.Machine.execHoldupBegin s
  | .holdupDone failActive => Sys2Proof.Machine.execHoldupDone failActive s
  | .belfrySlotEnd raw => Sys2Proof.Machine.execBelfrySlotEnd raw s
  | .shutDelayExpiry => Sys2Proof.Machine.execShutDelayExpiry s
  | .shutClr val => Sys2Proof.Machine.execShutClr val s
  | .thermalTrip => Sys2Proof.Machine.execThermalTrip s
  | .thermalTripReset => Sys2Proof.Machine.execThermalTripReset s
  | .thermalResetRelease => Sys2Proof.Machine.execThermalResetRelease s
  | .inputFilterChange k active => Sys2Proof.Machine.execInputFilterChange k active s
  | .inputRearm k => Sys2Proof.Machine.execInputRearm k s
  | .inputStuck k => Sys2Proof.Machine.execInputStuck k s
  | .powerOnReset fails failActive => Sys2Proof.Machine.execPowerOnReset fails failActive s
  | .hart12Start pass => Sys2Proof.Machine.execHart12Start pass s
  | .swNow val => Sys2Proof.Machine.execSwNow val s
  | .swDefer val => Sys2Proof.Machine.execSwDefer val s
  | .deferTimeout => Sys2Proof.Machine.execDeferTimeout s
  | .watchdogExpiry => Sys2Proof.Machine.execWatchdogExpiry s
  | .wdtKick val => Sys2Proof.Machine.execWdtKick val s
  | .hartRun val => Sys2Proof.Machine.execHartRun val s
  | .listenerTimeout => Sys2Proof.Machine.execListenerTimeout s
  | .idOp crc payload => Sys2Proof.Machine.execId crc payload s
  | .genkey crc payload => Sys2Proof.Machine.execGenkey crc payload s
  | .putcert crc payload => Sys2Proof.Machine.execPutcert crc payload s
  | .putanchor crc payload => Sys2Proof.Machine.execPutanchor crc payload s
  | .putident crc payload => Sys2Proof.Machine.execPutident crc payload s
  | .putkey1 crc payload => Sys2Proof.Machine.execPutkey1 crc payload s
  | .commit crc payload => Sys2Proof.Machine.execCommit crc payload s
  | .loadimg crc payload => Sys2Proof.Machine.execLoadimg crc payload s
  | .bistGo val => Sys2Proof.Machine.execBistGo val s
  | .bistDone fails => Sys2Proof.Machine.execBistDone fails s
  | .extest loaded => Sys2Proof.Machine.execExtest loaded s
  | .samplePreload captured loaded => Sys2Proof.Machine.execSamplePreload captured loaded s
  | .idcode => Sys2Proof.Machine.execIdcode s
  | .clamp => Sys2Proof.Machine.execClamp s
  | .highz => Sys2Proof.Machine.execHighz s
  | .extestPulse loaded => Sys2Proof.Machine.execExtestPulse loaded s
  | .extestTrain loaded => Sys2Proof.Machine.execExtestTrain loaded s
  | .debug => Sys2Proof.Machine.execDebug s
  | .mbist stores fails => Sys2Proof.Machine.execMbist stores fails s
  | .scan => Sys2Proof.Machine.execScan s
  | .bypass => Sys2Proof.Machine.execBypass s
  | .overflow => Sys2Proof.Machine.execOverflow s
  | .hwEventPost code sev source payload => Sys2Proof.Machine.execHwEventPost code sev source payload s
  | .evrPost val => Sys2Proof.Machine.execEvrPost val s
  | .postTaken => Sys2Proof.Machine.execPostTaken s
  | .rateTokensFull n => Sys2Proof.Machine.execRateTokensFull n s
  | .rateEntryWrite val => Sys2Proof.Machine.execRateEntryWrite val s
  | .clrFatal port val => Sys2Proof.Machine.execClrFatal port val s
  | .clrGen port val => Sys2Proof.Machine.execClrGen port val s
  | .evrCntClr val => Sys2Proof.Machine.execEvrCntClr val s
  | .readerStreamOverflow t => Sys2Proof.Machine.execReaderStreamOverflow t s
  | .inputBucketFull k => Sys2Proof.Machine.execInputBucketFull k s

end Sys2Proof.Machine
end

