-- ==== Sys2Proof/WellFormed.lean ====
section
/-! DEFINITION. Which commands name things that exist: the ranges the manual gives to the operands. -/

namespace Sys2Proof

open Sys2Proof.Machine

/-- A spire (R280). -/
def isSpire (sp : Spire) : Bool := spireValid sp
/-- A spire of a class (Tables 10-4, 10-5, 10-10, 10-13, 11-10). -/
def isClass (sp : Spire) (k : Nat) : Bool := spireValid sp && sp.cls == k
/-- A class of spires, which is an instance of SPR (Table 01-4). -/
def isSprClass (cls : Nat) : Bool := cls < 4
/-- A comparator (R58). -/
def isComparator (n : Nat) : Bool := n < 128
/-- A page of a block instance (Table 01-4). -/
def isPage (blk inst page : Nat) : Bool := pageImpl blk inst page
/-- A current sub-tick between two position ticks (R57). -/
def isSubtick (sub : Nat) : Bool := 1 ≤ sub && sub ≤ 3
/-- A slot of an engine and one of its four registers (R98). -/
def isSlot (n : Nat) : Bool := n < 4
def isSlotKind (k : Nat) : Bool := k < 4
/-- A DMA channel (R450). -/
def isChannel (c : Nat) : Bool := c < 32
/-- A request line of the DMA engine (Table 16-2). -/
def isRequestLine (l : Nat) : Bool := l < 16
/-- An input of the pin filter (R518). -/
def isInput (i : Nat) : Bool := i < 4
/-- An index of the session table (R320). -/
def isSession (i : Nat) : Bool := i < 4096
/-- A tag (R331). -/
def isTag (t : Nat) : Bool := t < 32
/-- An application core (Table 01-1) and a channel core (Table 10-9). -/
def isAppCore (c : Nat) : Bool := c < 8
def isChannelCore (c : Nat) : Bool := c < 4
/-- A network port, and a fabric port (Table 01-1). -/
def isEthPort (p : Nat) : Bool := p < 2
def isPort (p : Nat) : Bool := p < 16
/-- A physical address (Table 01-3). -/
def isPhysical (a : Nat) : Bool := a < 2 ^ 40
/-- A head of a Tower (R161). -/
def isHead (h : Nat) : Bool := h < 12
/-- A vault (Table 06-3). -/
def isVault (v : Nat) : Bool := v < 256
/-- SEQ of a frame of the preamp link (R235). -/
def isCplSeq (q : Nat) : Bool := q < 16
/-- A power state that an idle timer leads to (R504). -/
def isIdleState (n : Nat) : Bool := 1 ≤ n && n ≤ 5
/-- An entry of the rate table (R527). -/
def isRateEntry (n : Nat) : Bool := n < 256

/-- The command names only what exists. -/
def Instr.wf : Instr → Bool
  | .registerWrite port addr _ _ => isPort port && isPhysical addr
  | .expertKeyWrite blk inst page _ => isPage blk inst page
  | .intForceWrite blk inst page _ => isPage blk inst page
  | .enableWrite blk inst => isPage blk inst 0
  | .disableWrite blk inst => isPage blk inst 0
  | .softReset blk inst page => isPage blk inst page
  | .startComplete blk inst => isPage blk inst 0
  | .shutdownComplete blk inst => isPage blk inst 0
  | .restartCycleEnd blk inst => isPage blk inst 0
  | .mbxDoorbellSet _ => true
  | .servoWedge _ _ _ _ => true
  | .obsPhaseMeasure _ => true
  | .wedgeBoundary _ => true
  | .servoWindowOpen _ => true
  | .servoWindowClose _ => true
  | .positionTick _ => true
  | .currentSubtick _ sub => isSubtick sub
  | .comparatorArm n _ _ => isComparator n
  | .comparatorDisarm n _ => isComparator n
  | .comparatorFire n => isComparator n
  | .cmpTestFlush _ => true
  | .atbSkewWrite _ _ => true
  | .atbObsOffsetWrite _ => true
  | .switchingDecision _ => true
  | .currentConversion _ _ _ _ => true
  | .bemfCrossing _ _ _ _ _ => true
  | .recapTimeout => true
  | .electricalRev _ => true
  | .syncInPulse _ _ _ => true
  | .syncPulseTimeout => true
  | .markerMeasureDone => true
  | .listenEnd => true
  | .brakeRevEnd => true
  | .ipsAttemptDone _ => true
  | .alignDone => true
  | .rampTimeout => true
  | .brakeStopDone => true
  | .faultStopParked => true
  | .spnCfgWrite _ => true
  | .spnGateForceWrite _ => true
  | .engineTick _ => true
  | .slotEvaluation _ _ => true
  | .profGo _ => true
  | .profPWrite _ _ => true
  | .engSwap _ => true
  | .faultClr _ => true
  | .engCntClr _ => true
  | .slotEnWrite _ _ => true
  | .slotCfgWrite _ kind n _ => isSlotKind kind && isSlot n
  | .coefWrite _ _ => true
  | .traceArm _ => true
  | .traceForce _ => true
  | .demodResult _ _ _ => true
  | .load _ _ => true
  | .unload _ _ => true
  | .retract _ _ => true
  | .srvHeadWrite _ _ => true
  | .srvTrackWrite _ _ => true
  | .srvOffsetWrite _ _ => true
  | .generatorTick _ _ _ => true
  | .genMoveEnd _ => true
  | .genHoldEnd _ => true
  | .loadTimeout _ => true
  | .shockConversion _ _ => true
  | .headRemoved _ h => isHead h
  | .frontDetectorDone _ _ _ _ _ _ => true
  | .detectorPassDone _ _ => true
  | .localIterationDone _ _ => true
  | .crcCheckDone _ _ => true
  | .chnRpPush _ _ => true
  | .replayStart _ => true
  | .rbPin _ _ => true
  | .rbUnpin _ _ => true
  | .chnCoefWrite _ _ => true
  | .eqAdaptUpdate _ => true
  | .chnCntClr _ _ => true
  | .sectorWriteStart _ _ => true
  | .sectorWriteEnd _ => true
  | .cplFrameSend _ => true
  | .keepalive _ => true
  | .cplAck _ seq _ _ => isCplSeq seq
  | .cplNak _ seq => isCplSeq seq
  | .readData _ seq _ _ => isCplSeq seq
  | .telemetry _ head _ => isHead head
  | .cplFaultFrame _ _ => true
  | .cplBadFrame _ _ => true
  | .cplAnswerTimeout _ => true
  | .cplResetRelease _ => true
  | .cplVersionRead _ => true
  | .cplRegGo _ _ => true
  | .telemetryStrobe _ => true
  | .lanBiasRampStep _ => true
  | .holdoffEnd _ => true
  | .ptabWrite _ _ => true
  | .ladderAttempt _ _ _ _ => true
  | .ladderEnd _ _ _ => true
  | .alu sp => isSpire sp
  | .alui sp => isSpire sp
  | .ldi sp => isSpire sp
  | .lui sp => isSpire sp
  | .br sp => isSpire sp
  | .cbr sp => isSpire sp
  | .call sp => isSpire sp
  | .nop sp => isSpire sp
  | .ret sp => isSpire sp
  | .halt sp => isSpire sp
  | .fence sp => isSpire sp
  | .ld sp => isSpire sp
  | .st sp => isSpire sp
  | .getang sp => isClass sp 0
  | .arm sp => isClass sp 0
  | .waitc sp => isClass sp 0
  | .disarm sp => isClass sp 0
  | .loadz sp => isClass sp 0
  | .anchor sp => isClass sp 0
  | .rplan sp => isClass sp 0
  | .wplan sp => isClass sp 0
  | .wget sp => isClass sp 0
  | .captr sp => isClass sp 0
  | .outc sp => isClass sp 0
  | .emitr sp => isClass sp 0
  | .syncp sp => isClass sp 0
  | .bandMoverPush sp => isClass sp 2
  | .hinit sp => isClass sp 3
  | .hupd sp => isClass sp 3
  | .hfin sp => isClass sp 3
  | .gfacc sp => isClass sp 3
  | .gfsolve sp => isClass sp 3
  | .integrityOpDone n => isSpire ⟨3, n⟩
  | .rxnext sp => isClass sp 1
  | .sess sp => isClass sp 1
  | .openOp sp => isClass sp 1
  | .seal sp => isClass sp 1
  | .rwin sp => isClass sp 1
  | .rmark sp => isClass sp 1
  | .txq sp => isClass sp 1
  | .timer sp => isClass sp 1
  | .pop sp => isSpire sp
  | .post sp => isSpire sp
  | .waitSatisfied sp => isSpire sp
  | .sprStart cls _ => isSprClass cls
  | .sprHalt cls _ => isSprClass cls
  | .sprStep cls _ => isSprClass cls
  | .sprMcForce cls _ => isSprClass cls
  | .sprCsWrite cls _ => isSprClass cls
  | .sprQpush cls _ => isSprClass cls
  | .mqPush core _ _ => isChannelCore core
  | .readRun sp => isClass sp 0
  | .writeRun sp => isClass sp 0
  | .seek sp => isClass sp 0
  | .headSwitch sp => isClass sp 0
  | .angleEvent sp => isClass sp 0
  | .moveRun sp _ _ => isClass sp 2
  | .tailScan sp _ head _ _ => isClass sp 2 && isHead head
  | .hash sp => isClass sp 3
  | .parityAcc sp => isClass sp 3
  | .parityOut sp => isClass sp 3
  | .rebuild sp => isClass sp 3
  | .ethFrameRx port _ => isEthPort port
  | .linkUp port _ => isEthPort port
  | .linkDown port _ => isEthPort port
  | .arpRequest port _ => isEthPort port
  | .neighbourSolicitation port _ => isEthPort port
  | .echoRequest port _ _ => isEthPort port
  | .fwtxSend => true
  | .hello rx _ _ _ => isEthPort rx.port
  | .auth rx _ _ _ => isEthPort rx.port
  | .cmd rx _ _ _ => isEthPort rx.port
  | .data rx _ _ _ => isEthPort rx.port
  | .ack rx _ _ _ => isEthPort rx.port
  | .rekey rx _ _ _ => isEthPort rx.port
  | .reset rx _ _ _ => isEthPort rx.port
  | .close rx _ _ _ => isEthPort rx.port
  | .hsTimeout i => isSession i
  | .idleTimeout i => isSession i
  | .retransmitTimer i => isSession i
  | .ackDelayTimer i => isSession i
  | .closingTimeout i => isSession i
  | .cookieKeyRotation => true
  | .aotSessOpen _ => true
  | .aotSessClose _ => true
  | .aotShutdownTimeout => true
  | .ethCntClr port _ => isEthPort port
  | .aotCntClr _ => true
  | .put i tag _ => isSession i && isTag tag
  | .putAcknowledged i tag => isSession i && isTag tag
  | .putDurable vault _ => isVault vault
  | .get i tag _ => isSession i && isTag tag
  | .stat i tag => isSession i && isTag tag
  | .delete i tag _ => isSession i && isTag tag
  | .list i tag => isSession i && isTag tag
  | .setRetention i tag _ => isSession i && isTag tag
  | .legalHold i tag _ => isSession i && isTag tag
  | .flush i tag => isSession i && isTag tag
  | .audit i tag _ => isSession i && isTag tag
  | .exportManifest i tag => isSession i && isTag tag
  | .rawInfo i tag => isSession i && isTag tag
  | .rawRead i tag _ => isSession i && isTag tag
  | .rawWrite i tag _ => isSession i && isTag tag
  | .getLog i tag => isSession i && isTag tag
  | .fwDownload i tag => isSession i && isTag tag
  | .fwActivate i tag => isSession i && isTag tag
  | .activationDrainTimeout => true
  | .setPower i tag => isSession i && isTag tag
  | .identify i tag => isSession i && isTag tag
  | .abort i tag => isSession i && isTag tag
  | .towerFailed _ => true
  | .powerLossRestart => true
  | .vaultCreate i tag => isSession i && isTag tag
  | .vaultUnlock i tag => isSession i && isTag tag
  | .vaultLock i tag => isSession i && isTag tag
  | .vaultInfo i tag => isSession i && isTag tag
  | .vaultErase i tag => isSession i && isTag tag
  | .vaultSetMin i tag => isSession i && isTag tag
  | .timeQuery i tag => isSession i && isTag tag
  | .timeToken i tag => isSession i && isTag tag
  | .anchorSet i tag => isSession i && isTag tag
  | .selfTest i tag _ => isSession i && isTag tag
  | .zeroise i tag => isSession i && isTag tag
  | .entropyHealthFail => true
  | .clockTick => true
  | .clockRecordTimer => true
  | .clockRecordDone => true
  | .recNow _ => true
  | .stRun _ _ => true
  | .keyLoad _ => true
  | .keyClear _ => true
  | .keyClearAll _ => true
  | .keyBusDone => true
  | .ddrRead port addr _ => isPort port && isPhysical addr
  | .ddrWrite port addr _ => isPort port && isPhysical addr
  | .memInit _ => true
  | .memInitDone => true
  | .memCntClr _ => true
  | .trainingDone _ => true
  | .scrubRead => true
  | .memLogPop _ => true
  | .eccFlipArm _ => true
  | .cupolaRead core addr _ _ => isAppCore core && isPhysical addr
  | .cupolaStore core addr _ => isAppCore core && isPhysical addr
  | .cupolaFillDone _ => true
  | .prefetchFill _ => true
  | .scratchpadAccess port addr _ _ _ => isPort port && isPhysical addr
  | .invLine _ => true
  | .invRange _ => true
  | .invAll _ => true
  | .invWays _ => true
  | .maintDone => true
  | .cupSpadWrite _ => true
  | .spadWalkDone => true
  | .cupCntClr _ => true
  | .dmaChEnable c _ => isChannel c
  | .dmaChDisable c _ => isChannel c
  | .descFetched c => isChannel c
  | .dmaBurstIssue => true
  | .dmaReadDone c => isChannel c
  | .dmaWriteDone c => isChannel c
  | .dmaWritebackDone c => isChannel c
  | .descRereadDone c => isChannel c
  | .dmaChDb c _ => isChannel c
  | .dmaRequestPulse line => isRequestLine line
  | .quiesceAck => true
  | .quiesceTimeout => true
  | .flashCommandCycle _ _ _ => true
  | .wordProgram _ _ _ => true
  | .bufferProgram _ _ => true
  | .sectorErase _ _ _ => true
  | .eraseSuspend => true
  | .eraseResume _ => true
  | .flashReset => true
  | .passwordCheck _ _ => true
  | .passwordSet _ _ => true
  | .passwordClose => true
  | .ppbSet _ _ _ => true
  | .ppbClearAll _ => true
  | .programDone _ _ => true
  | .metadataWriteDone => true
  | .erasePulseDone _ _ => true
  | .suspendDone => true
  | .flashRead _ _ _ => true
  | .marginScrubRead _ => true
  | .flsBootWpWrite port _ => isPort port
  | .flsCntClr _ => true
  | .mscrubFailClear _ => true
  | .avsRequest _ _ => true
  | .avsSettleDone _ => true
  | .cpuMultWrite _ => true
  | .cpuPllLocked => true
  | .clockLoss => true
  | .domainPowerDown _ => true
  | .domainPowerUp _ => true
  | .domainRelease => true
  | .activityTouch _ => true
  | .idleTimerExpiry n => isIdleState n
  | .holdupBegin => true
  | .holdupDone _ => true
  | .belfrySlotEnd _ => true
  | .shutDelayExpiry => true
  | .shutClr _ => true
  | .thermalTrip => true
  | .thermalTripReset => true
  | .thermalResetRelease => true
  | .inputFilterChange i _ => isInput i
  | .inputRearm i => isInput i
  | .inputStuck i => isInput i
  | .powerOnReset _ _ => true
  | .hart12Start _ => true
  | .swNow _ => true
  | .swDefer _ => true
  | .deferTimeout => true
  | .watchdogExpiry => true
  | .wdtKick _ => true
  | .hartRun _ => true
  | .listenerTimeout => true
  | .idOp crc _ => decide (crc < 2 ^ 32)
  | .genkey crc _ => decide (crc < 2 ^ 32)
  | .putcert crc _ => decide (crc < 2 ^ 32)
  | .putanchor crc _ => decide (crc < 2 ^ 32)
  | .putident crc _ => decide (crc < 2 ^ 32)
  | .putkey1 crc _ => decide (crc < 2 ^ 32)
  | .commit crc _ => decide (crc < 2 ^ 32)
  | .loadimg crc _ => decide (crc < 2 ^ 32)
  | .bistGo _ => true
  | .bistDone _ => true
  | .extest _ => true
  | .samplePreload _ _ => true
  | .idcode => true
  | .clamp => true
  | .highz => true
  | .extestPulse _ => true
  | .extestTrain _ => true
  | .debug => true
  | .mbist _ _ => true
  | .scan => true
  | .bypass => true
  | .overflow => true
  | .hwEventPost _ _ _ _ => true
  | .evrPost _ => true
  | .postTaken => true
  | .rateTokensFull n => isRateEntry n
  | .rateEntryWrite _ => true
  | .clrFatal port _ => isPort port
  | .clrGen port _ => isPort port
  | .evrCntClr _ => true
  | .readerStreamOverflow _ => true
  | .inputBucketFull i => isInput i

end Sys2Proof
end

