-- ==== Sys2Proof/Safety.lean ====
section
/-! DEFINITION. The words in which claims are stated: that a command answers a next state, what such a state leaves unchanged, and the
canonical form of the state. -/

namespace Sys2Proof

open Sys2Proof.Machine

/-- The command answers a next state of which `P` holds. -/
def Answers (c : Instr) (s : State) (P : State → Prop) : Prop := ∃ r, exec c s = .next r ∧ P r

/-- Every byte of memory reads as before. -/
def SameMem (s r : State) : Prop := ∀ a, r.byte a = s.byte a

/-- Every byte of memory outside the ranges of `l`, each of a first address and a length, reads as before. -/
def SameMemOut (l : List (Nat × Nat)) (s r : State) : Prop := ∀ b, (∀ e ∈ l, b < e.1 ∨ e.1 + e.2 ≤ b) → r.byte b = s.byte b

/-- Of the registers, only those at the addresses of `l` may change. -/
def OnlyRegs (l : List Nat) (s r : State) : Prop := ∀ a, a ∉ l → r.reg a = s.reg a

/-- Only the registers at the addresses of `l` may change, and no byte of memory. -/
def Changes (l : List Nat) (s r : State) : Prop := OnlyRegs l s r ∧ SameMem s r

/-- Only registers of the block codes of `l` (Table 01-4) may change, and no byte of memory. -/
def ChangesBlocks (l : List Nat) (s r : State) : Prop := (∀ a, regBlk a ∉ l → r.reg a = s.reg a) ∧ SameMem s r

/-- The register file and memory hold each register and byte at most once, in rising order, and none at the value that an unlisted one
reads as; there are 32 spires. -/
def Canonical (s : State) : Prop := regsWf s.regs = true ∧ memWf s.mem = true ∧ s.spires.length = 32

/-- A spire that runs, in a machine that runs. -/
abbrev Running (sp : Spire) (s : State) : Prop :=
  spireValid sp = true ∧ s.halted = false ∧ s.spires.length = 32 ∧ (s.spire sp).sstate = 1

/-- A spire in RUN whose next microword passes the parity check (R282) and is a legal one (R284) of the row `row`. -/
abbrev AtRow (row : MRow) (sp : Spire) (s : State) : Prop :=
  Running sp s ∧ csGood (s.spire sp).fetch = true ∧ illegal sp.cls (s.mword sp) = false ∧ rowOf sp.cls (s.mword sp) = row

/-- The state after a step of one spire that changes only the spire itself, and goes to its next microword. -/
abbrev SpireStep (sp : Spire) (f : SpireState → SpireState) (s r : State) : Prop :=
  r = s.updSpire sp (fun p => { f p with pc := (p.pc + 1) % 4096 })

/-- A packet of an OPEN session passes the checks of Table 11-8 that come before its authentication. -/
abbrev Passes (typ : Nat) (h : AotHdr) (body : List Byte) (s : State) : Prop :=
  s.isOn bAOT 0 = true ∧ s.engineUp (h.sid % 4096 % 16) = true ∧ hdrGood h typ body = true ∧ 1 ≤ h.version ∧ h.version ≤ 3 ∧ (s.sessOf (h.sid % 4096)).st = 2
    ∧ (s.sessOf (h.sid % 4096)).counter = h.sid / 4096 ∧ (s.sessOf (h.sid % 4096)).version = h.version
    ∧ (s.sessOf (h.sid % 4096)).rxHeld.contains h.epoch = true ∧ (s.sessOf (h.sid % 4096)).rekeyAt = none
    ∧ (if typ = 8 then (s.sessOf (h.sid % 4096)).ackSeen = none else (s.sessOf (h.sid % 4096)).window h.seq = 0)

/-- The session has nothing to send or to be acknowledged. -/
abbrev Quiet (i : Nat) (s : State) : Prop := (s.sessOf i).unacked = [] ∧ (s.sessOf i).waiting = []

/-- The plaintext of a packet of a session, when it authenticates (R313, R321). -/
def opened (s : State) (typ : Nat) (h : AotHdr) (body gtag : List Byte) : Option (List Byte) :=
  (s.gcmKey (gcmSlot (h.sid % 4096) 0 h.epoch)).bind (fun k =>
    gcmOpen k (aotNonce h.sid h.epoch (if typ = 8 then 1 else 0) h.seq) (hdrBytes h typ) body gtag)

/-- The next record of the firmware receive ring, which is not full (R336). -/
def fwSlot (s : State) : Nat :=
  s.rd AOT_FWRX_BASE_BASE / 64 * 64 + 10240 * (s.rd AOT_FWRX_PROD_INDEX % ringSize (s.rd AOT_FWRX_CFG_LOG2SIZE) 2 8 4)

abbrev FwRoom (s : State) : Prop :=
  ¬ (s.rd AOT_FWRX_PROD_INDEX + 65536 - s.rd AOT_FWRX_CONS_INDEX) % 65536 = ringSize (s.rd AOT_FWRX_CFG_LOG2SIZE) 2 8 4

/-- A record of the firmware receive ring has been written. -/
abbrev FwRecord (port kind i : Nat) (l : List Byte) (s r : State) : Prop :=
  r.rd AOT_FWRX_PROD_INDEX = (s.rd AOT_FWRX_PROD_INDEX + 1) % 65536
    ∧ r.mem = (s.setBytes (fwSlot s) (leBytes 16 (port + l.length % 2 ^ 16 * 2 ^ 16 + kind * 2 ^ 32 + i * 2 ^ 48) ++ l)).mem

/-- A frame of a length that the port takes, with its FCS right (R306). -/
abbrev FrameIn (p : Nat) (l : List Byte) (s : State) : Prop :=
  p < 2 ∧ s.isOn bETH p = true ∧ fcsOk l = true ∧ 64 ≤ l.length ∧ l.length ≤ s.maxFrame p + (if frameTagged l then 4 else 0)

/-- The plaintext of an AUTH part, when it authenticates under the handshake key (R316). -/
def authOpened (s : State) (h : AotHdr) (body gtag : List Byte) : Option (List Byte) :=
  (s.gcmKey (gcmSlot (h.sid % 4096) 0 0)).bind (fun k => gcmOpen k (aotNonce h.sid h.epoch 0 h.seq) (hdrBytes h 3) body gtag)

/-- An AUTH part of a HANDSHAKE entry. -/
abbrev AuthPart (rx : Peer) (h : AotHdr) (body gtag pt : List Byte) (s : State) : Prop :=
  s.isOn bAOT 0 = true ∧ s.engineUp (portEngine rx.port) = true ∧ hdrGood h 3 body = true ∧ h.version = 0
    ∧ (s.sessOf (h.sid % 4096)).counter = h.sid / 4096 ∧ (s.sessOf (h.sid % 4096)).st = 1 ∧ authOpened s h body gtag = some pt

/-- The entry with an AUTH part held. -/
def authHeld (s : State) (h : AotHdr) (pt : List Byte) : Sess :=
  let x := s.sessOf (h.sid % 4096)
  { x with authParts := (h.seq, pt) :: x.authParts.filter (fun e => !(e.1 == h.seq)), authLast := if 2 ≤ h.flags then some h.seq else x.authLast }

/-- A HELLO that the rate lets pass and whose frame has room in the ring (R333, R336). -/
abbrev HelloIn (rx : Peer) (h : AotHdr) (body : List Byte) (s : State) : Prop :=
  s.isOn bAOT 0 = true ∧ s.aot.closingAll = false ∧ s.engineUp (portEngine rx.port) = true ∧ hdrGood h 0 body = true ∧ h.version = 0
    ∧ (s.helloRate rx.ip).2 = true ∧ FwRoom s

/-- A command of an OPEN session that has started and not ended, and that nothing holds back: the session is quiet and has
sequences left (R323), and power holds. -/
abbrev Ready (i tag op : Nat) (c : Cmd) (s : State) : Prop :=
  s.cmdOf i tag = some c ∧ c.opcode = op ∧ c.started = true ∧ c.done = false ∧ (s.sessOf i).st = 2 ∧ s.blocked c = false
    ∧ s.fwk.holdup = false ∧ (s.sessOf i).next < 0xFFFFFFFF ∧ Quiet i s

/-- The completion block of the CPL that a session holds for a tag, sent or waiting. -/
def completion (s : State) (i tag : Nat) : Option (List Byte) :=
  (((s.sessOf i).unacked ++ (s.sessOf i).waiting).find? (fun p => p.typ == 7 && p.tag == tag)).map (·.body)

/-- The command has ended with the completion block `b`. -/
abbrev Ended (i tag : Nat) (b : List Byte) (r : State) : Prop :=
  completion r i tag = some b ∧ (r.cmdOf i tag).map (·.done) = some true

/-- The flash is ON, in READ, with no operation running or held. -/
abbrev FlashReady (s : State) : Prop :=
  s.isOn bFLS 0 = true ∧ s.rd FLS_OPSTAT_SEQ = 0 ∧ s.fls.run = none ∧ s.fls.held = none

/-- The commands that store no byte: they change registers and units only. -/
def storesNothing (c : Instr) : Bool :=
  match c with
  | .expertKeyWrite .. | .intForceWrite .. | .shutdownComplete .. | .mbxDoorbellSet .. | .servoWindowOpen .. | .servoWindowClose ..
  | .positionTick .. | .currentSubtick .. | .cmpTestFlush .. | .atbSkewWrite .. | .atbObsOffsetWrite .. | .currentConversion ..
  | .bemfCrossing .. | .recapTimeout | .syncInPulse .. | .syncPulseTimeout | .listenEnd | .brakeRevEnd | .ipsAttemptDone .. | .alignDone
  | .rampTimeout | .brakeStopDone | .faultStopParked | .spnGateForceWrite .. | .profPWrite .. | .engSwap .. | .faultClr ..
  | .engCntClr .. | .slotEnWrite .. | .slotCfgWrite .. | .coefWrite .. | .traceArm .. | .traceForce .. | .srvHeadWrite ..
  | .generatorTick .. | .genMoveEnd .. | .shockConversion .. | .detectorPassDone .. | .rbPin .. | .rbUnpin .. | .chnCoefWrite ..
  | .eqAdaptUpdate .. | .chnCntClr .. | .sectorWriteStart .. | .sectorWriteEnd .. | .cplNak .. | .telemetry .. | .cplFaultFrame ..
  | .cplBadFrame .. | .cplAnswerTimeout .. | .cplResetRelease .. | .cplRegGo .. | .telemetryStrobe .. | .lanBiasRampStep ..
  | .holdoffEnd .. | .ptabWrite .. | .sprCsWrite .. | .sprQpush .. | .mqPush .. | .linkUp .. | .linkDown .. | .arpRequest ..
  | .neighbourSolicitation .. | .echoRequest .. | .fwtxSend | .cmd .. | .data .. | .ack .. | .rekey .. | .reset .. | .close ..
  | .hsTimeout .. | .idleTimeout .. | .retransmitTimer .. | .ackDelayTimer .. | .closingTimeout .. | .cookieKeyRotation
  | .aotSessOpen .. | .aotSessClose .. | .aotShutdownTimeout | .ethCntClr .. | .aotCntClr .. | .put .. | .putAcknowledged ..
  | .putDurable .. | .get .. | .stat .. | .delete .. | .list .. | .setRetention .. | .legalHold .. | .flush .. | .audit ..
  | .exportManifest .. | .rawInfo .. | .rawRead .. | .rawWrite .. | .fwActivate .. | .activationDrainTimeout | .setPower ..
  | .identify .. | .abort .. | .towerFailed .. | .powerLossRestart | .vaultCreate .. | .vaultUnlock .. | .vaultLock .. | .vaultInfo ..
  | .vaultErase .. | .vaultSetMin .. | .timeQuery .. | .timeToken .. | .anchorSet .. | .selfTest .. | .zeroise .. | .entropyHealthFail
  | .clockTick | .clockRecordTimer | .recNow .. | .stRun .. | .keyLoad .. | .keyClear .. | .keyClearAll .. | .keyBusDone | .memInit ..
  | .memCntClr .. | .memLogPop .. | .eccFlipArm .. | .invLine .. | .invRange .. | .invAll .. | .invWays .. | .maintDone
  | .cupSpadWrite .. | .spadWalkDone | .cupCntClr .. | .dmaBurstIssue | .dmaWriteDone .. | .dmaChDb .. | .dmaRequestPulse ..
  | .metadataWriteDone | .erasePulseDone .. | .suspendDone | .flashRead .. | .marginScrubRead .. | .flsBootWpWrite .. | .flsCntClr ..
  | .mscrubFailClear .. | .avsRequest .. | .avsSettleDone .. | .cpuMultWrite .. | .cpuPllLocked | .domainPowerDown ..
  | .domainPowerUp .. | .activityTouch .. | .idleTimerExpiry .. | .shutClr .. | .thermalResetRelease | .inputRearm .. | .inputStuck ..
  | .hart12Start .. | .wdtKick .. | .hartRun .. | .listenerTimeout | .idOp .. | .genkey .. | .putcert .. | .putanchor .. | .putident ..
  | .putkey1 .. | .bistGo .. | .extest .. | .samplePreload .. | .idcode | .clamp | .highz | .extestPulse .. | .extestTrain .. | .debug
  | .scan | .bypass | .overflow | .hwEventPost .. | .evrPost .. | .rateTokensFull .. | .rateEntryWrite .. | .inputBucketFull .. => true
  | _ => false

/-- The commands that touch neither the key slots, the Dome nor the objects. -/
def leavesObjects (c : Instr) : Bool :=
  match c with
  | .expertKeyWrite .. | .intForceWrite .. | .enableWrite .. | .startComplete .. | .shutdownComplete .. | .restartCycleEnd ..
  | .mbxDoorbellSet .. | .servoWedge .. | .obsPhaseMeasure .. | .wedgeBoundary .. | .servoWindowOpen .. | .servoWindowClose ..
  | .positionTick .. | .currentSubtick .. | .comparatorArm .. | .comparatorDisarm .. | .comparatorFire .. | .cmpTestFlush ..
  | .atbSkewWrite .. | .atbObsOffsetWrite .. | .switchingDecision .. | .currentConversion .. | .bemfCrossing .. | .recapTimeout
  | .electricalRev .. | .syncInPulse .. | .syncPulseTimeout | .markerMeasureDone | .listenEnd | .brakeRevEnd | .ipsAttemptDone ..
  | .alignDone | .rampTimeout | .brakeStopDone | .faultStopParked | .spnCfgWrite .. | .spnGateForceWrite .. | .engineTick ..
  | .slotEvaluation .. | .profGo .. | .profPWrite .. | .engSwap .. | .faultClr .. | .engCntClr .. | .slotEnWrite .. | .slotCfgWrite ..
  | .coefWrite .. | .traceArm .. | .traceForce .. | .demodResult .. | .load .. | .unload .. | .retract .. | .srvHeadWrite ..
  | .srvTrackWrite .. | .srvOffsetWrite .. | .generatorTick .. | .genMoveEnd .. | .genHoldEnd .. | .loadTimeout .. | .shockConversion ..
  | .headRemoved .. | .frontDetectorDone .. | .detectorPassDone .. | .localIterationDone .. | .crcCheckDone .. | .chnRpPush ..
  | .replayStart .. | .rbPin .. | .rbUnpin .. | .chnCoefWrite .. | .eqAdaptUpdate .. | .chnCntClr .. | .sectorWriteStart ..
  | .sectorWriteEnd .. | .cplFrameSend .. | .keepalive .. | .cplAck .. | .cplNak .. | .readData .. | .telemetry .. | .cplFaultFrame ..
  | .cplBadFrame .. | .cplAnswerTimeout .. | .cplResetRelease .. | .cplVersionRead .. | .cplRegGo .. | .telemetryStrobe ..
  | .lanBiasRampStep .. | .holdoffEnd .. | .ptabWrite .. | .ladderAttempt .. | .ladderEnd .. | .alu .. | .alui .. | .ldi .. | .lui ..
  | .br .. | .cbr .. | .call .. | .nop .. | .ret .. | .halt .. | .fence .. | .ld .. | .getang .. | .arm .. | .waitc .. | .disarm ..
  | .loadz .. | .anchor .. | .rplan .. | .wplan .. | .wget .. | .captr .. | .outc .. | .emitr .. | .syncp .. | .bandMoverPush ..
  | .hinit .. | .hupd .. | .hfin .. | .gfacc .. | .gfsolve .. | .rxnext .. | .sess .. | .openOp .. | .seal .. | .rwin .. | .rmark ..
  | .txq .. | .timer .. | .pop .. | .post .. | .waitSatisfied .. | .sprMcForce .. | .sprCsWrite .. | .sprQpush .. | .mqPush ..
  | .readRun .. | .angleEvent .. | .moveRun .. | .tailScan .. | .hash .. | .parityAcc .. | .rebuild .. | .ethFrameRx .. | .linkUp ..
  | .linkDown .. | .arpRequest .. | .neighbourSolicitation .. | .echoRequest .. | .fwtxSend | .ackDelayTimer .. | .ethCntClr ..
  | .aotCntClr .. | .ddrRead .. | .ddrWrite .. | .memInit .. | .memInitDone | .memCntClr .. | .trainingDone .. | .scrubRead
  | .memLogPop .. | .eccFlipArm .. | .cupolaRead .. | .cupolaFillDone .. | .prefetchFill .. | .scratchpadAccess .. | .invLine ..
  | .invRange .. | .invAll .. | .invWays .. | .maintDone | .cupSpadWrite .. | .spadWalkDone | .cupCntClr .. | .dmaChEnable ..
  | .dmaChDisable .. | .descFetched .. | .dmaBurstIssue | .dmaWriteDone .. | .descRereadDone .. | .dmaChDb .. | .dmaRequestPulse ..
  | .flashCommandCycle .. | .wordProgram .. | .bufferProgram .. | .sectorErase .. | .eraseSuspend | .eraseResume .. | .flashReset
  | .passwordCheck .. | .passwordSet .. | .passwordClose | .ppbSet .. | .ppbClearAll .. | .programDone .. | .metadataWriteDone
  | .erasePulseDone .. | .suspendDone | .flashRead .. | .marginScrubRead .. | .flsBootWpWrite .. | .flsCntClr .. | .mscrubFailClear ..
  | .avsRequest .. | .avsSettleDone .. | .cpuMultWrite .. | .cpuPllLocked | .domainPowerDown .. | .domainPowerUp .. | .activityTouch ..
  | .idleTimerExpiry .. | .belfrySlotEnd .. | .shutClr .. | .thermalTrip | .thermalResetRelease | .inputFilterChange .. | .inputRearm ..
  | .inputStuck .. | .wdtKick .. | .hartRun .. | .idOp .. | .putcert .. | .putanchor .. | .putident .. | .putkey1 .. | .bistGo ..
  | .bistDone .. | .extest .. | .samplePreload .. | .idcode | .clamp | .highz | .extestPulse .. | .extestTrain .. | .debug | .bypass
  | .overflow | .hwEventPost .. | .evrPost .. | .postTaken | .rateTokensFull .. | .rateEntryWrite .. | .clrFatal .. | .clrGen ..
  | .evrCntClr .. | .readerStreamOverflow .. | .inputBucketFull .. => true
  | _ => false

/-- The commands that touch no layout: no sector that they read, write or move is recorded by one of them. -/
def leavesLayout (c : Instr) : Bool :=
  match c with
  | .expertKeyWrite .. | .intForceWrite .. | .shutdownComplete .. | .mbxDoorbellSet .. | .servoWindowOpen .. | .servoWindowClose ..
  | .positionTick .. | .currentSubtick .. | .cmpTestFlush .. | .atbSkewWrite .. | .atbObsOffsetWrite .. | .currentConversion ..
  | .bemfCrossing .. | .recapTimeout | .syncInPulse .. | .syncPulseTimeout | .listenEnd | .brakeRevEnd | .ipsAttemptDone .. | .alignDone
  | .rampTimeout | .brakeStopDone | .faultStopParked | .spnGateForceWrite .. | .profPWrite .. | .engSwap .. | .faultClr ..
  | .engCntClr .. | .slotEnWrite .. | .slotCfgWrite .. | .coefWrite .. | .traceArm .. | .traceForce .. | .srvHeadWrite ..
  | .generatorTick .. | .genMoveEnd .. | .shockConversion .. | .detectorPassDone .. | .rbPin .. | .rbUnpin .. | .chnCoefWrite ..
  | .eqAdaptUpdate .. | .chnCntClr .. | .sectorWriteStart .. | .sectorWriteEnd .. | .cplNak .. | .telemetry .. | .cplFaultFrame ..
  | .cplBadFrame .. | .cplAnswerTimeout .. | .cplResetRelease .. | .cplRegGo .. | .telemetryStrobe .. | .lanBiasRampStep ..
  | .holdoffEnd .. | .ptabWrite .. | .waitSatisfied .. | .sprCsWrite .. | .sprQpush .. | .mqPush .. | .hash .. | .parityAcc ..
  | .rebuild .. | .ethFrameRx .. | .linkUp .. | .linkDown .. | .arpRequest .. | .neighbourSolicitation .. | .echoRequest .. | .fwtxSend
  | .hello .. | .auth .. | .data .. | .ack .. | .rekey .. | .hsTimeout .. | .ackDelayTimer .. | .closingTimeout .. | .cookieKeyRotation
  | .aotShutdownTimeout | .ethCntClr .. | .aotCntClr .. | .entropyHealthFail | .clockTick | .clockRecordTimer | .recNow .. | .stRun ..
  | .keyLoad .. | .keyClear .. | .keyClearAll .. | .keyBusDone | .ddrRead .. | .ddrWrite .. | .memInit .. | .memInitDone | .memCntClr ..
  | .trainingDone .. | .scrubRead | .memLogPop .. | .eccFlipArm .. | .cupolaRead .. | .cupolaFillDone .. | .prefetchFill ..
  | .scratchpadAccess .. | .invLine .. | .invRange .. | .invAll .. | .invWays .. | .maintDone | .cupSpadWrite .. | .spadWalkDone
  | .cupCntClr .. | .dmaChEnable .. | .dmaChDisable .. | .descFetched .. | .dmaBurstIssue | .dmaWriteDone .. | .descRereadDone ..
  | .dmaChDb .. | .dmaRequestPulse .. | .quiesceAck | .quiesceTimeout | .flashCommandCycle .. | .wordProgram .. | .bufferProgram ..
  | .sectorErase .. | .eraseSuspend | .eraseResume .. | .flashReset | .passwordCheck .. | .passwordSet .. | .passwordClose | .ppbSet ..
  | .ppbClearAll .. | .programDone .. | .metadataWriteDone | .erasePulseDone .. | .suspendDone | .flashRead .. | .marginScrubRead ..
  | .flsBootWpWrite .. | .flsCntClr .. | .mscrubFailClear .. | .avsRequest .. | .avsSettleDone .. | .cpuMultWrite .. | .cpuPllLocked
  | .domainPowerDown .. | .domainPowerUp .. | .domainRelease | .activityTouch .. | .idleTimerExpiry .. | .shutDelayExpiry | .shutClr ..
  | .thermalResetRelease | .inputRearm .. | .inputStuck .. | .hart12Start .. | .wdtKick .. | .hartRun .. | .listenerTimeout | .idOp ..
  | .genkey .. | .putcert .. | .putanchor .. | .putident .. | .putkey1 .. | .loadimg .. | .bistGo .. | .extest .. | .samplePreload ..
  | .idcode | .clamp | .highz | .extestPulse .. | .extestTrain .. | .debug | .mbist .. | .scan | .bypass | .overflow | .hwEventPost ..
  | .evrPost .. | .postTaken | .rateTokensFull .. | .rateEntryWrite .. | .clrFatal .. | .clrGen .. | .evrCntClr .. | .inputBucketFull .. => true
  | _ => false

/-- The register that a command writes, for the commands that are the write of one register. -/
def target (c : Instr) : Option Nat :=
  match c with
  | .intForceWrite blk inst page _ => some (pageBase blk inst page + 0x18)
  | .enableWrite blk inst | .disableWrite blk inst => some (ctlAt blk inst 0)
  | .softReset blk inst page => some (ctlAt blk inst page)
  | .mbxDoorbellSet _ => some SYS_MBX_DB_SET
  | .comparatorArm n _ _ | .comparatorDisarm n _ => some (ATB_CMP_CTL n)
  | .cmpTestFlush _ => some ATB_CMP_FLUSH
  | .atbSkewWrite t _ => some (ATB_SKEW_T t.idx)
  | .atbObsOffsetWrite _ => some ATB_OBS_OFFSET
  | .spnCfgWrite _ => some SPN_CFG
  | .spnGateForceWrite _ => some SPN_GATE_FORCE
  | .profGo t => some (SRV_ENG_PROF_CTL t.idx)
  | .profPWrite t _ => some (SRV_ENG_PROF_P t.idx)
  | .engSwap e | .faultClr e | .engCntClr e => some (engPage e.idx 2 + 0x28)
  | .slotEnWrite e _ => some (engPage e.idx 2 + 0x24)
  | .slotCfgWrite e kind n _ => some ((slotReg e kind n).1)
  | .coefWrite e _ => some (engPage e.idx 2 + 0x304)
  | .traceArm e | .traceForce e => some (engPage e.idx 3 + 0x60)
  | .load t _ | .unload t _ | .retract t _ => some (SRV_CMD t.idx)
  | .srvHeadWrite t _ => some (SRV_HEAD t.idx)
  | .srvTrackWrite t _ => some (SRV_TRACK t.idx)
  | .srvOffsetWrite t _ => some (SRV_OFFSET t.idx)
  | .chnRpPush t _ => some (CHN_RP_PUSH t.idx)
  | .rbPin t _ | .rbUnpin t _ => some (CHN_RB_PIN t.idx)
  | .chnCoefWrite t _ => some (CHN_COEF_DATA t.idx)
  | .chnCntClr t _ => some (CHN_CNT_CLR t.idx)
  | .cplRegGo t _ => some (CPL_REG_CMD t.idx)
  | .ptabWrite t _ => some (LAN_PTAB_DATA t.idx)
  | .sprStart cls _ | .sprHalt cls _ | .sprStep cls _ => some (SPR_CMD cls)
  | .sprMcForce cls _ => some (SPR_MC_FORCE cls)
  | .sprCsWrite cls _ => some (SPR_CS_DATA cls)
  | .sprQpush cls _ => some (SPR_QPUSH cls)
  | .aotSessOpen _ | .aotSessClose _ => some AOT_SESS_CTL
  | .ethCntClr port _ => some (ETH_CNT_CLR port)
  | .aotCntClr _ => some AOT_CNT_CLR
  | .recNow _ | .stRun _ _ => some DOM_CMD
  | .keyLoad _ | .keyClear _ | .keyClearAll _ => some DOM_KB_CMD
  | .memInit _ | .memCntClr _ => some MEM_CMD
  | .memLogPop _ => some MEM_LOG_POP
  | .eccFlipArm _ => some MEM_ECC_FLIP_4
  | .invLine _ | .invRange _ | .invAll _ | .invWays _ => some CUP_MAINT_CMD
  | .cupSpadWrite _ => some CUP_SPAD
  | .cupCntClr _ => some CUP_CNT_CLR
  | .dmaChEnable c _ | .dmaChDisable c _ => some (DMA_CH_CTL c)
  | .dmaChDb c _ => some (DMA_CH_DB c)
  | .flsBootWpWrite _ _ => some FLS_BOOT_WP
  | .flsCntClr _ => some FLS_CNT_CLR
  | .mscrubFailClear _ => some FLS_MSCRUB_FAIL
  | .avsRequest _ _ => some PWR_AVS_REQ
  | .cpuMultWrite _ => some CLK_CPU
  | .domainPowerDown _ | .domainPowerUp _ => some PWR_DOM_REQ
  | .activityTouch _ => some PWR_ACT
  | .shutClr _ => some BEL_CMD
  | .swNow _ | .swDefer _ => some SYS_RST_REQ
  | .wdtKick _ => some SYS_WDT_KICK
  | .hartRun _ => some SYS_HART_RUN
  | .bistGo _ => some SYS_BIST_CMD
  | .evrPost _ => some EVR_POST
  | .rateEntryWrite _ => some EVR_RL_CFG
  | .clrFatal _ _ | .clrGen _ _ | .evrCntClr _ => some EVR_CMD
  | _ => none

end Sys2Proof
end

