-- ==== Sys2Proof/Certificates/Slice0/Obligations.lean ====
section
/-! DEFINITION. The statements for the provers. A clause of a family says of one command: under these conditions on the state and the
operands it answers a next state of which this holds. -/

set_option maxRecDepth 4000

open Sys2Proof Sys2Proof.Machine

/-- Register framework commands: writes, enables, soft resets, start and shut-down ends. R5, R7, R27, R30, R31, R35, R41. -/
def Obligations.FrameworkRows : Prop :=
  -- REGISTER_WRITE (R5)
  (∀ (port addr : Nat) (w : Word) (s : State), regOff addr = 0x14 → addr % 4 = 0 → s.regServed port addr = true → s.admits addr = true →
    s.sprEnv.steps = [] → Answers (.registerWrite port addr 4 w) s (fun r => r.reg addr = w ∧ r.resp = some {} ∧ r.mem = s.mem ∧ (∀ a, a ≠
    addr → r.reg a = s.reg a)))
  ∧ (∀ (port addr size : Nat) (w : Word) (s : State), inRegs addr = true → ¬(size = 4 ∧ addr % 4 = 0 ∧ s.regServed port addr = true) →
    s.sprEnv.steps = [] → Answers (.registerWrite port addr size w) s (fun r => r = { s with resp := some { err := beats32 addr size } }))
  -- EXPERT_KEY_WRITE (R7)
  ∧ (∀ (b i p : Nat) (s : State), s.served (pageBase b i p + 0x1C) = true → ¬(b = bDOM ∧ s.on DOM_MSTATE_APPROVED = true) → Answers
    (.expertKeyWrite b i p 0xA5E7#32) s (fun r => r.fwk.unlocked.contains (pageBase b i p) = true ∧ r.regs = s.regs ∧ r.mem = s.mem))
  ∧ (∀ (b i p : Nat) (val : Word) (s : State), s.served (pageBase b i p + 0x1C) = true → val ≠ 0xA5E7#32 → Answers (.expertKeyWrite b i p
    val) s (fun r => r.fwk.unlocked.contains (pageBase b i p) = false ∧ r.regs = s.regs ∧ r.mem = s.mem))
  -- INT_FORCE_WRITE (R27)
  ∧ (∀ (b i p : Nat) (val : Word) (s : State), s.admits (pageBase b i p + 0x18) = true → Answers (.intForceWrite b i p val) s (fun r =>
    r.reg (pageBase b i p + 0x10) = s.reg (pageBase b i p + 0x10) ||| val ∧ (∀ a, a ≠ pageBase b i p + 0x10 → r.reg a = s.reg a) ∧ r.mem =
    s.mem))
  -- ENABLE_WRITE (R30)
  ∧ (∀ (b i : Nat) (s : State), s.admits (ctlAt b i 0) = true → fixedOn b = false → s.st b i = stSTOPPING → s.isFaultStop b i = false →
    Answers (.enableWrite b i) s (fun r => r.en b i = true ∧ r.rpend b i = true ∧ r.st b i = stSTOPPING))
  ∧ (∀ (b i : Nat) (s : State), s.admits (ctlAt b i 0) = true → b = bFIX ∨ b = bTWR ∨ b = bBTP ∨ b = bAOT ∨ b = bDMA ∨ b = bFLS → s.st b i
    = stOFF → s.fwk.restart.contains (blkKey b i) = false → s.bistHolds b = false → Answers (.enableWrite b i) s (fun r => r.en b i = true
    ∧ r.st b i = stSTARTING))
  -- DISABLE_WRITE (R30)
  ∧ (∀ (b i : Nat) (s : State), s.admits (ctlAt b i 0) = true → fixedOn b = false → s.st b i = stFAULT → Answers (.disableWrite b i) s
    (fun r => r.en b i = false ∧ r.st b i = stOFF))
  ∧ (∀ (b i : Nat) (s : State), s.admits (ctlAt b i 0) = true → b = bFIX ∨ b = bBTP → s.st b i = stON → Answers (.disableWrite b i) s (fun
    r => r.en b i = false ∧ r.st b i = stSTOPPING))
  -- SOFT_RESET (R35)
  ∧ (∀ (b i p : Nat) (s : State), s.admits (ctlAt b i p) = true → fixedOn b = true → Answers (.softReset b i p) s (fun r => r.regs =
    s.regs ∧ r.mem = s.mem ∧ r.fwk.unlocked.contains (pageBase b i p) = false))
  ∧ (∀ (b i p : Nat) (s : State), s.admits (ctlAt b i p) = true → fixedOn b = false → b ≠ bMEM → s.st b i = stOFF ∨ s.st b i = stFAULT →
    Answers (.softReset b i p) s (fun r => (∀ a, pageBase b i 0 ≤ a → a < pageBase b i 0 + 0x10000 → regOff a ≠ 4 → r.reg a = resetOf a) ∧
    r.mem = s.mem ∧ (∀ a, a < pageBase b i 0 ∨ pageBase b i 0 + 0x10000 ≤ a → r.reg a = s.reg a)))
  -- START_COMPLETE (R30)
  ∧ (∀ (b i : Nat) (s : State), s.st b i = stSTARTING → s.fwk.bistWait.contains (blkKey b i) = false → ¬(b = bSPN ∨ b = bLAN ∨ b = bCPL ∨
    b = bMEM ∨ b = bATB ∨ b = bSRV ∨ b = bFLS ∨ b = bDMA) → Answers (.startComplete b i) s (fun r => r.st b i = stON ∧ (∀ a, a ≠ pageBase
    b i 0 + 0x0C → r.reg a = s.reg a) ∧ r.mem = s.mem))
  -- SHUTDOWN_COMPLETE (R31)
  ∧ (∀ (b i : Nat) (s : State), s.st b i = stSTOPPING → ¬(b = bSPN ∨ b = bLAN ∨ b = bCPL ∨ b = bBEL ∨ b = bSRV ∨ b = bMEM ∨ b = bAOT ∨ b =
    bDMA ∨ b = bFLS ∨ b = bFIX) → s.fwk.softWait.contains (blkKey b i) = false → s.isFaultStop b i = false → s.rpend b i = false → Answers
    (.shutdownComplete b i) s (fun r => r.st b i = stOFF ∧ r.rd ⟨pageBase b i 0 + 0x10, 29, 1⟩ = 1 ∧ r.mem = s.mem))
  -- RESTART_CYCLE_END (R30)
  ∧ (∀ (b i : Nat) (s : State), s.fwk.restart.contains (blkKey b i) = true → b = bFIX ∨ b = bTWR ∨ b = bBTP ∨ b = bAOT ∨ b = bDMA ∨ b =
    bFLS → s.bistHolds b = false → Answers (.restartCycleEnd b i) s (fun r => r.st b i = stSTARTING ∧ r.fwk.restart.contains (blkKey b i)
    = false ∧ r.mem = s.mem))
  -- MBX_DOORBELL_SET (R41)
  ∧ (∀ (val : Word) (s : State), s.admits SYS_MBX_DB_SET = true → Answers (.mbxDoorbellSet val) s (fun r => r.rd SYS_MBX_DB_PEND_PEND =
    Nat.lor (s.rd SYS_MBX_DB_PEND_PEND) (fieldOf val 0 8) % 256 ∧ r.mem = s.mem))

/-- Angle time base commands: servo wedges, windows and ticks. R47, R57, R575, R577, R578. -/
def Obligations.AtbRows : Prop :=
  -- SERVO_WEDGE (R47)
  (∀ (t : Tower) (ra rb : ServoIn) (dt : Nat) (s : State), s.demodOn t = true → (s.atb.tw.get t).switchWedge = true → Answers (.servoWedge
    t ra rb dt) s (fun r => (r.atb.tw.get t).switchWedge = false ∧ (r.atb.tw.get t).gap = true ∧ (r.srv.get t).demodPending = true ∧
    Changes [] s r))
  ∧ (∀ (t : Tower) (ra rb : ServoIn) (dt : Nat) (s : State), s.demodOn t = true → (s.atb.tw.get t).switchWedge = false → s.locked t =
    false → s.isOn bATB 0 = false → (s.srdrPick t ra rb).edge = none → (s.atb.tw.get t).bad < 2 → Answers (.servoWedge t ra rb dt) s (fun
    r => (r.atb.tw.get t).bad = (s.atb.tw.get t).bad + 1 ∧ (r.atb.tw.get t).lastGood = false ∧ (r.atb.tw.get t).foundIdx = none ∧ r.rd
    (goodFld t) = 0 ∧ Changes [ATB_SRC, ATB_PHERR_T t.idx] s r))
  ∧ (∀ (t : Tower) (ra rb : ServoIn) (dt : Nat) (edge : BitVec 24) (s : State), s.demodOn t = true → (s.atb.tw.get t).switchWedge = false
    → s.locked t = false → s.srcTower ≠ some t → (s.srdrPick t ra rb).edge = some edge → (s.atb.tw.get t).winOpen = true → indexParity
    (s.srdrPick t ra rb).index = true → indexNext (s.atb.tw.get t) false (wedgeIndex (s.srdrPick t ra rb).index) = true → s.rd (goodFld t)
    < 7 → Answers (.servoWedge t ra rb dt) s (fun r => r.rd (goodFld t) = s.rd (goodFld t) + 1 ∧ (r.atb.tw.get t).bad = 0 ∧ (r.atb.tw.get
    t).lastGood = true ∧ (r.atb.tw.get t).refIdx = some (wedgeIndex (s.srdrPick t ra rb).index % 512) ∧ (r.atb.tw.get t).err = wedgeErr
    (wedgeIndex (s.srdrPick t ra rb).index) edge ∧ r.rd (ATB_PHERR_T_GOOD t.idx) = 1 ∧ r.rdI (ATB_PHERR_T_ERR t.idx) = sx 16 (ux 16
    (wedgeErr (wedgeIndex (s.srdrPick t ra rb).index) edge)) ∧ (r.srv.get t).demodPending = true ∧ Changes [ATB_SRC, ATB_PHERR_T t.idx] s
    r))
  ∧ (∀ (t : Tower) (ra rb : ServoIn) (dt : Nat) (edge : BitVec 24) (s : State), s.demodOn t = true → (s.atb.tw.get t).switchWedge = false
    → s.locked t = true → s.isOn bATB 0 = true → s.srcTower = some t → s.on ATB_SRC_WG_INHIBIT = false → 0 < dt → (s.srdrPick t ra
    rb).edge = some edge → (s.atb.tw.get t).winOpen = true → indexParity (s.srdrPick t ra rb).index = true → indexNext (s.atb.tw.get t)
    true (wedgeIndex (s.srdrPick t ra rb).index) = true → (wedgeErr (wedgeIndex (s.srdrPick t ra rb).index) edge).natAbs ≤ 4096 → Answers
    (.servoWedge t ra rb dt) s (fun r => r.atb.residual = wedgeErr (wedgeIndex (s.srdrPick t ra rb).index) edge * 2 ^ 24 ∧ r.atb.rate =
    (s.atb.tw.get t).span * 32768 * 2 ^ 24 / dt ∧ (r.atb.tw.get t).bad = 0 ∧ (r.atb.tw.get t).refIdx = some (wedgeIndex (s.srdrPick t ra
    rb).index % 512) ∧ r.locked t = true ∧ r.rd (ATB_PHERR_T_GOOD t.idx) = 1 ∧ r.rd (ATB_PHERR_T_IS_SRC t.idx) = 1 ∧ Changes [ATB_SRC,
    ATB_PHERR_T t.idx] s r))
  -- OBS_PHASE_MEASURE (R578)
  ∧ (∀ (obs : BitVec 24) (s : State), s.isOn bATB 0 = true → s.rd ATB_SRC_SRC = srcOBS → s.on ATB_SRC_OBS_OK = true → (s.obsErr
    obs).natAbs < 32768 → Answers (.obsPhaseMeasure obs) s (fun r => r.atb.residual = s.obsErr obs * 2 ^ 24 ∧ Changes [] s r))
  -- WEDGE_BOUNDARY (R575)
  ∧ (∀ (t : Tower) (s : State), s.isOn bATB 0 = true → s.crossed t 0 32768 = true → s.on (SRV_MODE_HEAD_PEND t.idx) = false → s.on
    (SRV_MODE_SHOCK_HOLD t.idx) = false → Answers (.wedgeBoundary t) s (fun r => (r.atb.tw.get t).swin = (s.reg (ATB_SWIN_T t.idx)).toNat
    ∧ (r.srv.get t).sinceSwitch = (s.srv.get t).sinceSwitch + 1 ∧ Changes [] s r))
  -- SERVO_WINDOW_OPEN (R577)
  ∧ (∀ (t : Tower) (s : State), s.isOn bATB 0 = true → (s.atb.tw.get t).winOpen = false → s.winDue t = true → Answers (.servoWindowOpen t)
    s (fun r => (r.atb.tw.get t).winOpen = true ∧ (r.atb.tw.get t).winHeld = false ∧ (r.atb.tw.get t).samSeen = false ∧ Changes [] s r))
  -- SERVO_WINDOW_CLOSE (R577)
  ∧ (∀ (t : Tower) (s : State), (s.atb.tw.get t).winOpen = true → (s.atb.tw.get t).winHeld = false → s.winOver t = true → s.locked t =
    true ∨ (s.atb.tw.get t).samSeen = true → Answers (.servoWindowClose t) s (fun r => (r.atb.tw.get t).winOpen = false ∧ Changes [] s r))
  ∧ (∀ (t : Tower) (s : State), (s.atb.tw.get t).winOpen = true → (s.atb.tw.get t).winHeld = false → s.winOver t = true → s.locked t =
    false → (s.atb.tw.get t).samSeen = false → Answers (.servoWindowClose t) s (fun r => (r.atb.tw.get t).winOpen = true ∧ (r.atb.tw.get
    t).winHeld = true ∧ Changes [] s r))
  -- POSITION_TICK (R57)
  ∧ (∀ (t : Tower) (s : State), s.tickDue t 0 = true → Answers (.positionTick t) s (fun r => (r.eng t.eng).arrived.t0 = some (s.localAngle
    t / 2 ^ 15 % 65536) ∧ (r.eng t.eng).arrived.t1 = some (4 * (s.localAngle t / 2 ^ 15) % 65536) ∧ Changes [] s r))
  -- CURRENT_SUBTICK (R57)
  ∧ (∀ (t : Tower) (sub : Nat) (s : State), s.tickDue t sub = true → s.on (ATB_TICK_T_SUB_EN t.idx) = true → 1 ≤ sub → sub ≤ 3 → Answers
    (.currentSubtick t sub) s (fun r => (r.eng t.eng).arrived.t0 = (s.eng t.eng).arrived.t0 ∧ (r.eng t.eng).arrived.t1 = some ((4 *
    (s.localAngle t / 2 ^ 15) + sub) % 65536) ∧ Changes [] s r))

/-- Comparator commands: arm, disarm, fire, flush, skew and offset writes. R46, R51, R58, R59, R61. Of the model, not of the spec: that a
command whose condition does not hold answers the unchanged state is the model's reading (log entry 6). -/
def Obligations.ComparatorRows : Prop :=
  -- COMPARATOR_ARM (R61)
  (∀ (n : Nat) (tgt ctl : Word) (s : State), n < 128 → s.admits (ATB_CMP_CTL n) = true → s.cmpArmed n = true → Answers (.comparatorArm n
    tgt ctl) s (fun r => r = s))
  ∧ (∀ (n : Nat) (tgt ctl : Word) (s : State), n < 128 → s.admits (ATB_CMP_CTL n) = true → s.cmpArmed n = false → s.isOn bATB 0 = true →
    fieldOf ctl 12 4 < 12 → fieldOf ctl 16 8 = s.epoch → 2 ^ 31 ≤ (s.localAngle (cmpTower n) + 2 ^ 32 - tgt.toNat) % 2 ^ 32 → Answers
    (.comparatorArm n tgt ctl) s (fun r => r.reg (ATB_CMP_TGT n) = tgt ∧ r.cmpArmed n = true ∧ r.rd (ATB_CMP_CTL_STATUS n) = 1 ∧ r.rd
    (ATB_CMP_CTL_ACTION n) = fieldOf ctl 12 4 ∧ Changes [ATB_CMP_TGT n, ATB_CMP_CTL n] s r))
  ∧ (∀ (n : Nat) (tgt ctl : Word) (s : State), n < 128 → s.admits (ATB_CMP_CTL n) = true → s.cmpArmed n = false → s.isOn bATB 0 = true →
    12 ≤ fieldOf ctl 12 4 → Answers (.comparatorArm n tgt ctl) s (fun r => r.cmpArmed n = false ∧ r.rd (ATB_CMP_CTL_STATUS n) = 6 ∧
    Changes [ATB_CMP_TGT n, ATB_CMP_CTL n, BTP_STAT] s r))
  -- COMPARATOR_DISARM (R59)
  ∧ (∀ (n : Nat) (ctl : Word) (s : State), n < 128 → s.admits (ATB_CMP_CTL n) = true → ¬(s.isOn bATB 0 = true ∧ s.cmpArmed n = true ∧
    s.cmpReached n = true) → Answers (.comparatorDisarm n ctl) s (fun r => r.cmpArmed n = false ∧ r.rd (ATB_CMP_CTL_STATUS n) = 0 ∧
    Changes [ATB_CMP_CTL n, BTP_STAT] s r))
  ∧ (∀ (n : Nat) (ctl : Word) (s : State), n < 128 → s.admits (ATB_CMP_CTL n) = true → s.isOn bATB 0 = true → s.cmpArmed n = true →
    s.cmpReached n = true → s.rd (ATB_CMP_CTL_ACTION n) = 10 → Answers (.comparatorDisarm n ctl) s (fun r => r.cmpArmed n = false ∧ r.rd
    (ATB_CMP_CTL_STATUS n) = 2 ∧ Changes [ATB_CMP_CTL n, BTP_STAT] s r))
  -- COMPARATOR_FIRE (R59)
  ∧ (∀ (n : Nat) (s : State), n < 128 → s.isOn bATB 0 = true → s.cmpArmed n = true → s.cmpReached n = true → s.on (ATB_CMP_CTL_REPEAT n) =
    false → s.rd (ATB_CMP_CTL_ACTION n) = 10 → Answers (.comparatorFire n) s (fun r => r.cmpArmed n = false ∧ r.rd (ATB_CMP_CTL_STATUS n)
    = 2 ∧ Changes [ATB_CMP_CTL n, BTP_STAT] s r ∧ r.spires = (s.updSpire (seqOf (cmpTower n) (s.rd (ATB_CMP_CTL_OWNER n))) (fun p =>
    { p with ef0 := true, fires := sparseSet p.fires n (sparseGet p.fires n + 1) })).spires))
  -- CMP_TEST_FLUSH (R58)
  ∧ (∀ (s : State), s.admits ATB_CMP_FLUSH = true → Answers (.cmpTestFlush 0) s (fun r => r = s))
  ∧ (∀ (s : State), s.admits ATB_CMP_FLUSH = true → Answers (.cmpTestFlush 3) s (fun r => (∀ n, n < 128 → r.cmpArmed n = false) ∧ r.mem =
    s.mem))
  -- ATB_SKEW_WRITE (R46)
  ∧ (∀ (t : Tower) (val : Word) (s : State), s.admits (ATB_SKEW_T t.idx) = true → Answers (.atbSkewWrite t val) s (fun r => r.rd
    (ATB_SKEW_T_SKEW t.idx) = fieldOf val 0 16 ∧ Changes [ATB_SKEW_T t.idx] s r))
  -- ATB_OBS_OFFSET_WRITE (R51)
  ∧ (∀ (val : Word) (s : State), s.admits ATB_OBS_OFFSET = true → Answers (.atbObsOffsetWrite val) s (fun r => r.rd ATB_OBS_OFFSET_OFFSET
    = fieldOf val 0 24 ∧ Changes [ATB_OBS_OFFSET] s r))

/-- Spindle commands of starting and stopping. R67, R89, R90, R91, R579. -/
def Obligations.SpindleStartRows : Prop :=
  -- LISTEN_END (R90)
  (∀ (s : State), s.pmode = pLISTEN → s.spn.exit = 0 → s.spn.crossings.length < 3 → Answers (.listenEnd) s (fun r => r.spn.exit = 1 ∧ r.rd
    SPN_SPEED_SPEED = 0 ∧ Changes [SPN_SPEED] s r))
  ∧ (∀ (s : State), s.pmode = pLISTEN → s.spn.exit = 0 → 3 ≤ s.spn.crossings.length → 0 < meanN s.spn.crossings.dropLast * s.poles →
    Answers (.listenEnd) s (fun r => r.spn.exit = 1 ∧ r.rd SPN_SPEED_SPEED = min (2 ^ 23 - 1) (10000000000000 / (meanN
    s.spn.crossings.dropLast * s.poles)) % 2 ^ 23 ∧ r.on SPN_SPEED_REVERSE = !s.spn.crossFwd ∧ Changes [SPN_SPEED] s r))
  -- SWITCHING_DECISION (R67)
  ∧ (∀ (est : SpnEst) (s : State), s.pmode = pLISTEN → s.spn.shutPend = false → s.spn.ocRun < 15 → s.spn.exit = 1 → s.spn.crossings.length
    < 3 → Answers (.switchingDecision est) s (fun r => r.pmode = pIPS ∧ r.rd SPN_IPS_RES_ATTEMPTS = 0 ∧ r.rd SPN_IPS_RES_SECTOR = 0 ∧
    r.spn.vec = 1 ∧ r.rd SPN_GATE_RB_GATES = vecPattern s.spn.dir 1 ∧ SameMem s r))
  ∧ (∀ (est : SpnEst) (s : State), s.pmode = pLISTEN → s.spn.shutPend = false → s.spn.ocRun < 15 → s.spn.exit = 1 → 3 ≤
    s.spn.crossings.length → s.spn.crossFwd = false → Answers (.switchingDecision est) s (fun r => r.pmode = pBRAKE_REV ∧ r.rd
    SPN_GATE_RB_GATES = 0x15 ∧ r.rd SPN_GATE_RB_BRAKE_N = 0 ∧ SameMem s r))
  ∧ (∀ (est : SpnEst) (s : State), s.pmode = pLISTEN → s.spn.shutPend = false → s.spn.ocRun < 15 → s.spn.exit = 1 → 3 ≤
    s.spn.crossings.length → s.spn.crossFwd = true → s.atLeastPct 5 = true → Answers (.switchingDecision est) s (fun r => r.pmode = pCATCH
    ∧ r.spn.residOk = 0 ∧ r.spn.tau = 0 ∧ r.spn.phi = 1 ∧ r.rd SPN_GATE_RB_GATES = vecPattern s.spn.dir r.spn.vec ∧ SameMem s r))
  -- BRAKE_REV_END (R89)
  ∧ (∀ (s : State), s.pmode = pBRAKE_REV → s.spn.exit = 0 → Answers (.brakeRevEnd) s (fun r => r.spn.exit = 2 ∧ Changes [] s r))
  -- SWITCHING_DECISION (R67)
  ∧ (∀ (est : SpnEst) (s : State), s.pmode = pBRAKE_REV → s.spn.shutPend = false → s.spn.ocRun < 15 → s.spn.exit = 2 → Answers
    (.switchingDecision est) s (fun r => r.pmode = pIPS ∧ r.rd SPN_MODE_START_RES = 3 ∧ r.rd SPN_GATE_RB_BRAKE_N = 1 ∧ r.rd ⟨pageBase bSPN
    0 0 + 0x10, 27, 1⟩ = 1 ∧ r.spn.vec = 1 ∧ SameMem s r))
  -- IPS_ATTEMPT_DONE (R91)
  ∧ (∀ (s : State), s.pmode = pIPS → s.spn.exit = 0 → s.rd SPN_START_CFG_IPS_DIFF ≤ 50 → Answers (.ipsAttemptDone [10, 20, 90, 40, 30,
    20]) s (fun r => r.spn.exit = 3 ∧ r.rd SPN_IPS_RES_SECTOR = 3 ∧ r.rd SPN_IPS_RES_DIFF = 50 ∧ Changes [SPN_IPS_RES] s r))
  ∧ (∀ (s : State), s.pmode = pIPS → s.spn.exit = 0 → 50 < s.rd SPN_START_CFG_IPS_DIFF → s.rd SPN_IPS_RES_ATTEMPTS < 2 → Answers
    (.ipsAttemptDone [10, 20, 90, 40, 30, 20]) s (fun r => r.spn.exit = 0 ∧ r.pmode = pIPS ∧ r.rd SPN_IPS_RES_SECTOR = 0 ∧ r.rd
    SPN_IPS_RES_ATTEMPTS = s.rd SPN_IPS_RES_ATTEMPTS + 1 ∧ r.rd SPN_IPS_RES_DIFF = 50 ∧ r.spn.ipsCount = 0 ∧ Changes [SPN_IPS_RES] s r))
  ∧ (∀ (s : State), s.pmode = pIPS → s.spn.exit = 0 → 50 < s.rd SPN_START_CFG_IPS_DIFF → s.rd SPN_IPS_RES_ATTEMPTS = 2 → Answers
    (.ipsAttemptDone [10, 20, 90, 40, 30, 20]) s (fun r => r.spn.exit = 4 ∧ r.rd SPN_IPS_RES_SECTOR = 0 ∧ r.rd SPN_IPS_RES_ATTEMPTS = 3 ∧
    Changes [SPN_IPS_RES] s r))
  -- SWITCHING_DECISION (R67)
  ∧ (∀ (est : SpnEst) (s : State), s.pmode = pIPS → s.spn.shutPend = false → s.spn.ocRun < 15 → s.spn.exit = 3 → Answers
    (.switchingDecision est) s (fun r => r.pmode = pALIGN ∧ r.spn.vec = (if s.rd SPN_ALIGN_ALIGN_I < s.spn.i19 then 0 else s.rd
    SPN_IPS_RES_SECTOR) ∧ r.rd SPN_GATE_RB_GATES = vecPattern s.spn.dir r.spn.vec ∧ SameMem s r))
  ∧ (∀ (est : SpnEst) (s : State), s.pmode = pIPS → s.spn.shutPend = false → s.spn.ocRun < 15 → s.spn.exit = 4 → Answers
    (.switchingDecision est) s (fun r => r.pmode = pFAULT_STOP ∧ r.rd SPN_MODE_START_RES = 4 ∧ r.rd SPN_GATE_RB_GATES = 0 ∧ SameMem s r))
  -- ALIGN_DONE (R89)
  ∧ (∀ (s : State), s.pmode = pALIGN → s.spn.exit = 0 → Answers (.alignDone) s (fun r => r.spn.exit = 5 ∧ Changes [] s r))
  -- SWITCHING_DECISION (R67)
  ∧ (∀ (est : SpnEst) (s : State), s.pmode = pALIGN → s.spn.shutPend = false → s.spn.ocRun < 15 → s.spn.exit = 5 → Answers
    (.switchingDecision est) s (fun r => r.pmode = pRAMP ∧ r.spn.residOk = 0 ∧ r.spn.residBad = 0 ∧ r.spn.vec = rampVector (((s.rd
    SPN_IPS_RES_SECTOR + 5) % 6 * 400000000000 + 600000000000) % 2400000000000) ∧ r.spn.rampSpeed = s.rd SPN_RAMP_RAMP_ACC ∧ SameMem s r))
  ∧ (∀ (est : SpnEst) (s : State), s.pmode = pRAMP → s.spn.shutPend = false → s.spn.ocRun < 15 → s.spn.skip19 = false → est.residual ≤
    s.rd SPN_OBS_LIM_LIMIT → 7 ≤ s.spn.residOk → s.atLeastPct 5 = true → Answers (.switchingDecision est) s (fun r => r.pmode = pSLEW ∧
    r.spn.held = true ∧ r.rd SPN_GATE_RB_GATES = vecPattern s.spn.dir r.spn.vec ∧ SameMem s r))
  -- RAMP_TIMEOUT (R579)
  ∧ (∀ (s : State), s.pmode = pRAMP → s.spn.exit = 0 → Answers (.rampTimeout) s (fun r => r.spn.exit = 6 ∧ Changes [] s r))
  -- SWITCHING_DECISION (R67)
  ∧ (∀ (est : SpnEst) (s : State), s.pmode = pRAMP → s.spn.shutPend = false → s.spn.ocRun < 15 → s.atLeastPct 5 = false → s.spn.exit = 6 →
    Answers (.switchingDecision est) s (fun r => r.pmode = pFAULT_STOP ∧ r.rd SPN_MODE_START_RES = 5 ∧ r.rd SPN_GATE_RB_GATES = 0 ∧
    SameMem s r))
  -- BRAKE_STOP_DONE (R89)
  ∧ (∀ (s : State), s.pmode = pBRAKE_STOP → s.spn.exit = 0 → Answers (.brakeStopDone) s (fun r => r.spn.exit = 9 ∧ Changes [] s r))
  -- SWITCHING_DECISION (R67)
  ∧ (∀ (est : SpnEst) (s : State), s.pmode = pBRAKE_STOP → s.spn.exit = 9 → s.spn.holdup = false → s.st bSPN 0 = stSTOPPING →
    s.isFaultStop bSPN 0 = false → s.rpend bSPN 0 = false → s.fwk.softWait.contains (blkKey bSPN 0) = false → Answers (.switchingDecision
    est) s (fun r => r.pmode = pOFF ∧ r.st bSPN 0 = stOFF ∧ r.rd SPN_GATE_RB_BRAKE_N = 1 ∧ r.rd ⟨pageBase bSPN 0 0 + 0x10, 29, 1⟩ = 1 ∧
    SameMem s r))
  -- FAULT_STOP_PARKED (R89)
  ∧ (∀ (s : State), s.pmode = pFAULT_STOP → s.anyLoaded = false → s.st bSPN 0 = stSTOPPING → s.isFaultStop bSPN 0 = true →
    s.fwk.softWait.contains (blkKey bSPN 0) = false → Answers (.faultStopParked) s (fun r => r.st bSPN 0 = stFAULT ∧ r.rd ⟨pageBase bSPN 0
    0 + 0x10, 30, 1⟩ = 1 ∧ r.rd ⟨pageBase bSPN 0 0 + 0x10, 29, 1⟩ = 1 ∧ SameMem s r))

/-- Spindle commands of running: decisions, conversions, crossings, sync, register writes. R66, R67, R73, R79, R80, R82, R86, R87, R580.
Of the model, not of the spec: that a command whose condition does not hold answers the unchanged state is the model's reading (log entry
6). -/
def Obligations.SpindleRunRows : Prop :=
  -- SWITCHING_DECISION (R67)
  (∀ (est : SpnEst) (s : State), s.pmode = pOFF → Answers (.switchingDecision est) s (fun r => r.rd SPN_GATE_RB_GATES = s.offPattern ∧
    r.spn.edges = [] ∧ r.spn.ocRun = 0 ∧ Changes [SPN_GATE_RB] s r))
  ∧ (∀ (est : SpnEst) (s : State), s.pmode = pRUN → s.spn.shutPend = false → s.spn.ocRun < 15 → s.spn.exit = 0 → s.spn.skip19 = false →
    est.residual ≤ s.rd SPN_OBS_LIM_LIMIT → 7 ≤ s.spn.residOk → s.on ATB_SRC_OBS_OK = true → s.spn.first = false → Answers
    (.switchingDecision est) s (fun r => r.spn.tau = tauNext s.spn.tau (s.engS.port1 / 8 - est.torque) (s.rd SPN_HYST_TBAND) ∧ r.spn.phi =
    phiNext s.spn.phi ((s.rd SPN_FLUX_REF_REF : Int) - est.flux) (s.rd SPN_HYST_FBAND) ∧ r.spn.vec = dtcVector (sectorOf ((est.fluxAngle :
    Int) + s.phaseAdv)) r.spn.tau r.spn.phi s.spn.vec ∧ r.rd SPN_GATE_RB_GATES = vecPattern s.spn.dir r.spn.vec ∧ r.engS.arrived.t1 = some
    s.engS.count1 ∧ Changes [SPN_GATE_RB] s r))
  ∧ (∀ (est : SpnEst) (s : State), s.pmode = pIPS → s.spn.shutPend = false → s.spn.ocRun < 15 → s.spn.exit = 0 → s.on ATB_SRC_OBS_OK =
    false → Answers (.switchingDecision est) s (fun r => r.spn.vec = ipsVector s.ipsPulse s.spn.ipsCount ∧ r.rd SPN_GATE_RB_GATES =
    vecPattern s.spn.dir r.spn.vec ∧ r.spn.ipsCount = s.spn.ipsCount + 1 ∧ r.engS.count1 = (s.engS.count1 + 1) % 65536 ∧ r.engS.arrived.t1
    = some s.engS.count1 ∧ r.spn.ocCut = false ∧ Changes [SPN_GATE_RB] s r))
  ∧ (∀ (est : SpnEst) (s : State), s.pmode = pRUN → s.spn.shutPend = true → s.anyLoaded = false → s.atLeastPct 2 = true → Answers
    (.switchingDecision est) s (fun r => r.pmode = pDECEL ∧ r.spn.shutPend = false ∧ r.on SPN_MODE_AT_SPEED = false ∧ SameMem s r))
  ∧ (∀ (est : SpnEst) (s : State), s.pmode = pSLEW → s.spn.shutPend = false → s.spn.ocCut = true → 15 ≤ s.spn.ocRun → Answers
    (.switchingDecision est) s (fun r => r.pmode = pFAULT_STOP ∧ r.rd SPN_GATE_RB_GATES = 0 ∧ r.rd ⟨pageBase bSPN 0 0 + 0x10, 20, 1⟩ = 1 ∧
    SameMem s r))
  ∧ (∀ (est : SpnEst) (s : State), s.pmode = pRUN → s.spn.shutPend = false → s.spn.ocRun < 15 → s.spn.skip19 = false → s.rd
    SPN_OBS_LIM_LIMIT < est.residual → 7 ≤ s.spn.residBad → Answers (.switchingDecision est) s (fun r => r.pmode = pCOAST ∧ r.rd
    SPN_GATE_RB_GATES = 0 ∧ r.on ATB_SRC_OBS_OK = false ∧ r.rd SPN_CNT_EVT_LOSS = satAdd SPN_CNT_EVT_LOSS.width (s.rd SPN_CNT_EVT_LOSS) 1
    ∧ SameMem s r))
  ∧ (∀ (est : SpnEst) (s : State), s.pmode = pSLEW → s.spn.shutPend = false → s.spn.ocRun < 15 → s.spn.residBad < 7 → s.on
    SPN_MODE_AT_SPEED = true → ¬ s.st bSPN 0 = stSTARTING → Answers (.switchingDecision est) s (fun r => r.pmode = pRUN ∧ SameMem s r))
  ∧ (∀ (est : SpnEst) (s : State), s.pmode = pCOAST → s.spn.shutPend = false → s.spn.ocRun < 15 → s.spn.exit = 7 → Answers
    (.switchingDecision est) s (fun r => r.pmode = pSLEW ∧ r.rd ⟨pageBase bSPN 0 0 + 0x10, 25, 1⟩ = 1 ∧ r.rd SPN_GATE_RB_GATES =
    vecPattern s.spn.dir r.spn.vec ∧ SameMem s r))
  ∧ (∀ (est : SpnEst) (s : State), s.pmode = pCOAST → s.spn.shutPend = false → s.spn.ocRun < 15 → s.spn.exit = 8 → Answers
    (.switchingDecision est) s (fun r => r.pmode = pFAULT_STOP ∧ r.rd SPN_CNT_EVT_RECAP_FAIL = satAdd SPN_CNT_EVT_RECAP_FAIL.width (s.rd
    SPN_CNT_EVT_RECAP_FAIL) 1 ∧ SameMem s r))
  -- CURRENT_CONVERSION (R73)
  ∧ (∀ (j : Nat) (iu iv iw : Int) (s : State), ¬ s.pmode = pOFF → j < 20 → s.convSkipped j = true → Answers (.currentConversion j iu iv
    iw) s (fun r => r.rd SPN_CNT_SKIP_COUNT = satAdd SPN_CNT_SKIP_COUNT.width (s.rd SPN_CNT_SKIP_COUNT) 1 ∧ Changes [SPN_CNT_SKIP] s r))
  ∧ (∀ (j : Nat) (iu iv iw : Int) (s : State), ¬ s.pmode = pOFF → j < 20 → s.convSkipped j = false → s.spn.ocCut = false → s.rd
    SPN_ILIM_LIMIT < max iu.natAbs (max iv.natAbs iw.natAbs) → Answers (.currentConversion j iu iv iw) s (fun r => r.spn.ocCut = true ∧
    r.rd SPN_GATE_RB_GATES = 0 ∧ r.rd SPN_CNT_EVT_OC_CUT = satAdd SPN_CNT_EVT_OC_CUT.width (s.rd SPN_CNT_EVT_OC_CUT) 1 ∧ Changes
    [SPN_GATE_RB, SPN_CNT_EVT] s r))
  ∧ (∀ (iu iv iw : Int) (s : State), ¬ s.pmode = pOFF → s.convSkipped 19 = false → max iu.natAbs (max iv.natAbs iw.natAbs) ≤ s.rd
    SPN_ILIM_LIMIT → Answers (.currentConversion 19 iu iv iw) s (fun r => r.spn.i19 = max iu.natAbs (max iv.natAbs iw.natAbs) ∧
    r.spn.ocCut = s.spn.ocCut ∧ Changes [] s r))
  ∧ (∀ (j : Nat) (iu iv iw : Int) (s : State), ¬ s.pmode = pOFF → j < 19 → s.convSkipped j = false → max iu.natAbs (max iv.natAbs
    iw.natAbs) ≤ s.rd SPN_ILIM_LIMIT → Answers (.currentConversion j iu iv iw) s (fun r => r = s))
  -- BEMF_CROSSING (R79)
  ∧ (∀ (fwd : Bool) (amp interval sinceEdge : Nat) (angle : BitVec 24) (s : State), s.pmode = pLISTEN → s.rd SPN_START_CFG_BEMF_MIN ≤ amp
    → s.spn.crossFwd = fwd → Answers (.bemfCrossing fwd amp interval sinceEdge angle) s (fun r => r.spn.crossings = [interval] ++
    s.spn.crossings ∧ r.spn.obsAngle = angle ∧ Changes [] s r))
  ∧ (∀ (fwd : Bool) (amp interval sinceEdge : Nat) (angle : BitVec 24) (s : State), s.pmode = pCOAST → sinceEdge < 2 * s.exclusion →
    Answers (.bemfCrossing fwd amp interval sinceEdge angle) s (fun r => r = s))
  ∧ (∀ (fwd : Bool) (amp interval sinceEdge : Nat) (angle : BitVec 24) (s : State), s.pmode = pCOAST → s.spn.exit = 0 → 2 * s.exclusion ≤
    sinceEdge → amp < s.rd SPN_START_CFG_BEMF_MIN → Answers (.bemfCrossing fwd amp interval sinceEdge angle) s (fun r => r.spn.crossings =
    [] ∧ Changes [] s r))
  ∧ (∀ (fwd : Bool) (amp interval sinceEdge : Nat) (angle : BitVec 24) (s : State), s.pmode = pCOAST → s.spn.exit = 0 → 2 * s.exclusion ≤
    sinceEdge → s.rd SPN_START_CFG_BEMF_MIN ≤ amp → fwd = true → s.spn.crossFwd = true → 3 ≤ s.spn.crossings.length → Answers
    (.bemfCrossing fwd amp interval sinceEdge angle) s (fun r => (r.spn.exit = 7 ∨ r.spn.exit = 8) ∧ (r.spn.exit = 7 ↔ r.atLeastPct 5 =
    true) ∧ r.spn.obsAngle = angle ∧ r.spn.crossings = [] ∧ Changes [SPN_SPEED] s r))
  -- RECAP_TIMEOUT (R80)
  ∧ (∀ (s : State), s.pmode = pCOAST → s.spn.exit = 0 → Answers (.recapTimeout) s (fun r => r.spn.exit = 8 ∧ Changes [] s r))
  -- ELECTRICAL_REV (R82)
  ∧ (∀ (p : Nat) (s : State), obsMode s.pmode = true → 0 < p * s.poles → Answers (.electricalRev p) s (fun r => SameMem s r ∧ r.rd
    SPN_SPEED_SPEED = min (2 ^ 23 - 1) (60000000000000 / (p * s.poles)) % 2 ^ 23))
  -- SYNC_IN_PULSE (R86)
  ∧ (∀ (angle : BitVec 24) (n : Nat) (s : State), ¬ s.syncDiv = 0 → s.pmode = pRUN → s.on SPN_MODE_SYNC_LOCKED = false → s.spn.syncRun <
    15 → Answers (.syncInPulse angle n false) s (fun r => r.rd SPN_SYNC_STAT_ERR = ux 24 (s.syncErr angle) ∧ r.on SPN_MODE_SYNC_LOCKED =
    false ∧ r.spn.syncRun = (if (s.syncErr angle).natAbs ≤ 23302 then s.spn.syncRun + 1 else 0) ∧ Changes [SPN_SYNC_STAT] s r))
  ∧ (∀ (angle : BitVec 24) (n : Nat) (s : State), ¬ s.syncDiv = 0 → s.pmode = pRUN → s.on SPN_MODE_SYNC_LOCKED = false → 15 ≤
    s.spn.syncRun → (s.syncErr angle).natAbs ≤ 23302 → 0 < n → (((60000000000000 / (s.syncDiv * n) : Nat) : Int) - s.target).natAbs *
    10000 ≤ s.target * s.pull → Answers (.syncInPulse angle n false) s (fun r => r.on SPN_MODE_SYNC_LOCKED = true ∧ r.on
    SPN_SYNC_STAT_LOCKED = true ∧ r.rd SPN_SYNC_STAT_ERR = ux 24 (s.syncErr angle) ∧ r.rd ⟨pageBase bSPN 0 0 + 0x10, 23, 1⟩ = 1 ∧ SameMem
    s r))
  ∧ (∀ (angle : BitVec 24) (n : Nat) (s : State), s.on SPN_MODE_SYNC_LOCKED = true → Answers (.syncInPulse angle n true) s (fun r => r.on
    SPN_MODE_SYNC_LOCKED = false ∧ r.on SPN_SYNC_STAT_LOCKED = false ∧ SameMem s r))
  -- SYNC_PULSE_TIMEOUT (R86)
  ∧ (∀ (s : State), s.on SPN_MODE_SYNC_LOCKED = true → Answers (.syncPulseTimeout) s (fun r => r.on SPN_MODE_SYNC_LOCKED = false ∧ r.on
    SPN_SYNC_STAT_LOCKED = false ∧ SameMem s r))
  -- MARKER_MEASURE_DONE (R87)
  ∧ (∀ (s : State), s.spn.measuring = true → 16 * s.poles ≤ s.spn.revs → s.sig.all (fun x => x == 0) = true → s.isOn bATB 0 = false →
    Answers (.markerMeasureDone) s (fun r => r.rd SPN_MARK_VALID = 1 ∧ r.rd SPN_MARK_CONF = 255 ∧ r.rd SPN_MARK_POLE_IDX = 0 ∧
    r.spn.measuring = false ∧ SameMem s r))
  ∧ (∀ (s : State), s.spn.measuring = true → 16 * s.poles ≤ s.spn.revs → s.sig.all (fun x => x == 0) = false → ((List.range s.poles).map
    (markScore s.sig s.markMeas)).all (fun x => decide (x ≤ 0)) = true → Answers (.markerMeasureDone) s (fun r => r.rd SPN_MARK_CONF = 0 ∧
    r.spn.measuring = true ∧ r.spn.revs = 0 ∧ r.spn.sums = List.replicate s.poles 0 ∧ Changes [SPN_MARK] s r))
  -- SPN_CFG_WRITE (R580)
  ∧ (∀ (val : Word) (s : State), s.admits SPN_CFG = true → fieldOf val 0 2 = s.rd SPN_CFG_TARGET → fieldOf val 4 1 = s.rd SPN_CFG_DIR → ¬
    fieldOf val 8 4 = s.poles → 4 ≤ fieldOf val 8 4 → fieldOf val 8 4 ≤ 12 → s.st bSPN 0 = stOFF → Answers (.spnCfgWrite val) s (fun r =>
    r.poles = fieldOf val 8 4 ∧ Changes [SPN_CFG] s r))
  ∧ (∀ (val : Word) (s : State), s.admits SPN_CFG = true → fieldOf val 0 2 = s.rd SPN_CFG_TARGET → ¬ fieldOf val 4 1 = s.rd SPN_CFG_DIR →
    fieldOf val 8 4 = s.poles → s.atLeastPct 2 = true → Answers (.spnCfgWrite val) s (fun r => r.rd SPN_CFG_DIR = s.rd SPN_CFG_DIR ∧ r.rd
    ⟨pageBase bSPN 0 0 + 0x10, 21, 1⟩ = 1 ∧ SameMem s r))
  -- SPN_GATE_FORCE_WRITE (R66)
  ∧ (∀ (val : Word) (s : State), s.admits SPN_GATE_FORCE = true → legClash (fieldOf val 0 6) = true → Answers (.spnGateForceWrite val) s
    (fun r => r.reg SPN_GATE_FORCE = s.reg SPN_GATE_FORCE ∧ r.rd ⟨pageBase bSPN 0 0 + 0x10, 21, 1⟩ = 1 ∧ SameMem s r))
  ∧ (∀ (val : Word) (s : State), s.admits SPN_GATE_FORCE = true → legClash (fieldOf val 0 6) = false → ¬ s.pmode = pOFF → Answers
    (.spnGateForceWrite val) s (fun r => r.rd SPN_GATE_FORCE_PATTERN = fieldOf val 0 6 ∧ r.rd SPN_GATE_FORCE_FORCE_EN = fieldOf val 31 1 ∧
    Changes [SPN_GATE_FORCE] s r))

/-- Control engine commands: ticks, evaluations, banks, coefficients, trace, profile. R103, R104, R106, R113, R118, R119, R121, R124,
R126. Of the model, not of the spec: that a command whose condition does not hold answers the unchanged state is the model's reading (log
entry 6). -/
def Obligations.EngineRows : Prop :=
  -- ENGINE_TICK (R104)
  (∀ (e : Eng) (s : State), (s.eng e).arrived = {} → Answers (.engineTick e) s (fun r => r = s))
  ∧ (∀ (e : Eng) (x : Nat) (s : State), (s.eng e).arrived = { t0 := some x } → s.rd (engEstate e) = 1 → s.rd (engEn e) = 0 → s.on
    (engSwapPend e) = false → s.on (profBusy e) = false → (s.eng e).due = [] → Answers (.engineTick e) s (fun r => (r.eng e).arrived = {}
    ∧ (r.eng e).now.t0 = some x ∧ (r.eng e).due = [] ∧ r.rd (engBusy e) = 0 ∧ SameMem s r))
  -- SLOT_EVALUATION (R103)
  ∧ (∀ (e : Eng) (inp : EngIn) (q : Nat) (s : State), (s.eng e).due = [q] → s.rd (engEstate e) = 1 → s.slotOn e q = false → (s.eng
    e).waiting = [] → Answers (.slotEvaluation e inp) s (fun r => (r.eng e).due = [] ∧ r.rd (engBusy e) = 0 ∧ r.rd (engFld e 2 0x34 0 16)
    = (s.eng e).used % 65536 ∧ SameMem s r))
  ∧ (∀ (e : Eng) (inp : EngIn) (q q2 : Nat) (s : State), (s.eng e).due = [q, q2] → s.rd (engEstate e) = 1 → s.slotOn e q = true → (s.eng
    e).badPar = [] → Answers (.slotEvaluation e inp) s (fun r => (r.eng e).used = (s.eng e).used + s.evalCycles e q ∧ SameMem s r))
  -- ENG_SWAP (R119)
  ∧ (∀ (e : Eng) (s : State), s.admits (engPage e.idx 2 + 0x28) = true → ¬ s.rd (engEn e) = 0 → Answers (.engSwap e) s (fun r => r.rd
    (engSwapPend e) = 1 ∧ Changes [engPage e.idx 2 + 0x20] s r))
  ∧ (∀ (e : Eng) (s : State), s.admits (engPage e.idx 2 + 0x28) = true → s.rd (engEn e) = 0 → Answers (.engSwap e) s (fun r => r.rd
    (engSwapPend e) = 0 ∧ r.rd (engActive e) = 1 - s.rd (engActive e) ∧ r.rd ⟨engPage e.idx 2 + 0x10, 28, 1⟩ = 1 ∧ SameMem s r))
  -- FAULT_CLR (R124)
  ∧ (∀ (e : Eng) (s : State), s.admits (engPage e.idx 2 + 0x28) = true → (s.eng e).held = true → s.engBlkSt e = stON → Answers (.faultClr
    e) s (fun r => (r.eng e).held = false ∧ r.rd (engEstate e) = 1 ∧ Changes [engPage e.idx 2 + 0x20] s r))
  -- ENG_CNT_CLR (R106)
  ∧ (∀ (e : Eng) (s : State), s.admits (engPage e.idx 2 + 0x28) = true → Answers (.engCntClr e) s (fun r => r.rd (engOverrun e) = 0 ∧
    r.reg (engPage e.idx 2 + 0x30) = 0 ∧ r.reg (engPage e.idx 2 + 0x34) = 0 ∧ Changes [engPage e.idx 2 + 0x20, engPage e.idx 2 + 0x30,
    engPage e.idx 2 + 0x34] s r))
  -- SLOT_EN_WRITE (R121)
  ∧ (∀ (e : Eng) (val : Word) (s : State), s.admits (engPage e.idx 2 + 0x24) = true → fieldOf val 0 4 = 0 → s.on (engSwapPend e) = false →
    Answers (.slotEnWrite e val) s (fun r => r.rd (engEn e) = 0 ∧ Changes [engPage e.idx 2 + 0x24] s r))
  -- SLOT_CFG_WRITE (R121)
  ∧ (∀ (e : Eng) (kind n : Nat) (val : Word) (s : State), kind < 4 → n < 4 → s.admits (slotReg e kind n).1 = true → s.slotOn e n = false →
    Answers (.slotCfgWrite e kind n val) s (fun r => r.reg (slotReg e kind n).1 = val &&& BitVec.ofNat 32 (slotReg e kind n).2 ∧ Changes
    [(slotReg e kind n).1] s r))
  ∧ (∀ (e : Eng) (kind n : Nat) (val : Word) (s : State), kind < 4 → n < 4 → s.admits (slotReg e kind n).1 = true → s.slotOn e n = true →
    Answers (.slotCfgWrite e kind n val) s (fun r => r.rd ⟨engPage e.idx 2 + 0x10, 23, 1⟩ = 1 ∧ Changes [engPage e.idx 2 + 0x10] s r))
  -- COEF_WRITE (R118)
  ∧ (∀ (e : Eng) (val : Word) (s : State), s.admits (engPage e.idx 2 + 0x304) = true → coefExists (s.rd (engFld e 2 0x300 0 13)) = true →
    s.rd (engFld e 2 0x300 0 13) < 0x1040 → s.coefRefused e (s.rd (engFld e 2 0x300 0 13)) = false → s.on (engFld e 2 0x300 31 1) = false
    → Answers (.coefWrite e val) s (fun r => sparseGet (r.eng e).coef (s.rd (engFld e 2 0x300 0 13)) = coefMask (s.rd (engFld e 2 0x300 0
    13)) val.toNat ∧ Changes [] s r))
  -- TRACE_ARM (R126)
  ∧ (∀ (e : Eng) (s : State), s.admits (engPage e.idx 3 + 0x60) = true → Answers (.traceArm e) s (fun r => r.rd (trcState e) = 1 ∧ r.rd
    (trcArmBit e) = 1 ∧ (r.eng e).trcCount = 0 ∧ (r.eng e).trcForce = false ∧ Changes [engPage e.idx 3 + 0x60, engPage e.idx 3 + 0x68] s
    r))
  -- TRACE_FORCE (R126)
  ∧ (∀ (e : Eng) (s : State), s.admits (engPage e.idx 3 + 0x60) = true → s.rd (trcState e) = 1 → Answers (.traceForce e) s (fun r =>
    (r.eng e).trcForce = true ∧ Changes [] s r))
  -- PROF_GO (R113)
  ∧ (∀ (t : Tower) (s : State), s.admits (SRV_ENG_PROF_CTL t.idx) = true → s.on (profBusy t.eng) = true → Answers (.profGo t) s (fun r =>
    (r.eng t.eng).prof.target = sx 32 (s.rd (SRV_ENG_PROF_TGT_TARGET t.idx)) * 65536 ∧ r.rd (profBusy t.eng) = 1 ∧ r.rd (profDone t.eng) =
    0 ∧ SameMem s r))
  -- PROF_P_WRITE (R113)
  ∧ (∀ (t : Tower) (val : Word) (s : State), s.admits (SRV_ENG_PROF_P t.idx) = true → s.on (profBusy t.eng) = false → Answers (.profPWrite
    t val) s (fun r => (r.eng t.eng).prof.p = sx 32 val.toNat * 65536 ∧ (r.eng t.eng).prof.v = 0 ∧ (r.eng t.eng).prof.a = 0 ∧ r.reg
    (engPage t.eng.idx 3 + 0x2C) = 0 ∧ SameMem s r))
  ∧ (∀ (t : Tower) (val : Word) (s : State), s.admits (SRV_ENG_PROF_P t.idx) = true → s.on (profBusy t.eng) = true → Answers (.profPWrite
    t val) s (fun r => r = s))

/-- Servo commands: load, unload, retract, targets, demodulation, generator events. R134, R135, R136, R138, R141, R142, R147. Of the
model, not of the spec: that a command whose condition does not hold answers the unchanged state is the model's reading (log entry 6). -/
def Obligations.ServoRows : Prop :=
  -- LOAD (R138)
  (∀ (t : Tower) (others : Word) (s : State), s.admits (SRV_CMD t.idx) = true → s.isOn bSRV t.idx = false → Answers (.load t others) s
    (fun r => r.rd ⟨pageBase bSRV t.idx 0 + 0x10, 21, 1⟩ = 1 ∧ Changes [pageBase bSRV t.idx 0 + 0x10] s r))
  ∧ (∀ (t : Tower) (others : Word) (s : State), s.admits (SRV_CMD t.idx) = true → s.mode t = mUNLOADED → s.loadOk t = true → (s.srv.get
    t).emrgNow = none → fieldOf others 1 2 = 0 → Answers (.load t others) s (fun r => s.isOn bSRV t.idx = true ∧ r.mode t = mLOADING ∧
    (r.srv.get t).predN = 0 ∧ (r.srv.get t).gen = some { kind := .load, hold := false, cmd := s.rd (SRV_GEN_LOAD_I_DRIVE t.idx) } ∧
    SameMem s r))
  -- UNLOAD (R138)
  ∧ (∀ (t : Tower) (others : Word) (s : State), s.admits (SRV_CMD t.idx) = true → s.isOn bSRV t.idx = true → s.mode t = mFOLLOW → fieldOf
    others 0 1 = 0 → fieldOf others 2 1 = 0 → Answers (.unload t others) s (fun r => r.mode t = mUNLOADING ∧ (r.srv.get t).gen = some
    { kind := .unload, hold := false, cmd := s.rd (SRV_GEN_UNLOAD_I_DRIVE t.idx) } ∧ SameMem s r))
  ∧ (∀ (t : Tower) (others : Word) (s : State), s.admits (SRV_CMD t.idx) = true → s.isOn bSRV t.idx = true → s.mode t = mUNLOADED →
    fieldOf others 0 1 = 1 → fieldOf others 2 1 = 0 → Answers (.unload t others) s (fun r => r.rd ⟨pageBase bSRV t.idx 0 + 0x10, 21, 1⟩ =
    1 ∧ Changes [pageBase bSRV t.idx 0 + 0x10] s r))
  -- RETRACT (R138)
  ∧ (∀ (t : Tower) (others : Word) (s : State), s.admits (SRV_CMD t.idx) = true → s.isOn bSRV t.idx = true → ¬ s.mode t = mRETRACT →
    Answers (.retract t others) s (fun r => r.mode t = mRETRACT ∧ r.rd (SRV_MODE_CAUSE t.idx) = 1 ∧ (r.srv.get t).gen = some
    { kind := .retract, hold := false, cmd := s.rd (SRV_GEN_RETRACT_I_DRIVE t.idx) } ∧ SameMem s r))
  -- SRV_HEAD_WRITE (R136)
  ∧ (∀ (t : Tower) (val : Word) (s : State), s.admits (SRV_HEAD t.idx) = true → fieldOf val 0 4 < s.rd (SRV_CFG_NHEADS t.idx) → Answers
    (.srvHeadWrite t val) s (fun r => r.rd (SRV_HEAD_HEAD t.idx) = fieldOf val 0 4 ∧ r.on (SRV_MODE_HEAD_PEND t.idx) = true ∧ r.on
    (SRV_MODE_OTWI t.idx) = true ∧ SameMem s r))
  ∧ (∀ (t : Tower) (val : Word) (s : State), s.admits (SRV_HEAD t.idx) = true → s.rd (SRV_CFG_NHEADS t.idx) ≤ fieldOf val 0 4 → Answers
    (.srvHeadWrite t val) s (fun r => r.rd ⟨pageBase bSRV t.idx 0 + 0x10, 21, 1⟩ = 1 ∧ Changes [pageBase bSRV t.idx 0 + 0x10] s r))
  -- SRV_TRACK_WRITE (R142)
  ∧ (∀ (t : Tower) (val : Word) (s : State), s.admits (SRV_TRACK t.idx) = true → ¬ s.mode t = mFOLLOW → Answers (.srvTrackWrite t val) s
    (fun r => r.reg (SRV_TRACK t.idx) = val ∧ r.mode t = s.mode t ∧ Changes [SRV_TRACK t.idx] s r))
  ∧ (∀ (t : Tower) (val : Word) (s : State), s.admits (SRV_TRACK t.idx) = true → s.mode t = mFOLLOW → Answers (.srvTrackWrite t val) s
    (fun r => r.reg (SRV_TRACK t.idx) = val ∧ r.mode t = mSETTLE ∧ SameMem s r))
  -- SRV_OFFSET_WRITE (R134)
  ∧ (∀ (t : Tower) (val : Word) (s : State), s.admits (SRV_OFFSET t.idx) = true → ¬ s.mode t = mFOLLOW → Answers (.srvOffsetWrite t val) s
    (fun r => r.rd (SRV_OFFSET_OFFSET t.idx) = fieldOf val 0 16 ∧ Changes [SRV_OFFSET t.idx] s r))
  -- DEMOD_RESULT (R135)
  ∧ (∀ (t : Tower) (ra rb : BurstIn) (s : State), (s.srv.get t).demodPending = false → Answers (.demodResult t ra rb) s (fun r => r = s))
  ∧ (∀ (t : Tower) (ra rb : BurstIn) (s : State), (s.srv.get t).demodPending = true → (s.srv.get t).demodSwitch = false → s.mode t = mSEEK
    → (s.atb.tw.get t).lastGood = true → trackParity (s.srdrPick t ra rb).track = true → 0 < (s.srdrPick t ra rb).n1.natAbs + (s.srdrPick
    t ra rb).n2.natAbs → s.rd (SRV_DEMOD_AMIN t.idx) ≤ (s.srdrPick t ra rb).n1.natAbs + (s.srdrPick t ra rb).n2.natAbs → Answers
    (.demodResult t ra rb) s (fun r => (r.srv.get t).p1 = (trackNumber (s.srdrPick t ra rb).track : Int) * trk + xRaw (s.srdrPick t ra
    rb).n1 (s.srdrPick t ra rb).n2 + corrOf (s.srv.get t).lin (xRaw (s.srdrPick t ra rb).n1 (s.srdrPick t ra rb).n2) ∧ (r.srv.get t).p2 =
    (s.srv.get t).p1 ∧ (r.srv.get t).predN = min 2 ((s.srv.get t).predN + 1) ∧ (r.srv.get t).missRun = 0 ∧ (r.srv.get t).demodPending =
    false ∧ r.rd (SRV_POS_POS t.idx) = posReg (r.srv.get t).p1 ∧ r.on (SRV_PES_VALID t.idx) = true ∧ r.on (SRV_PES_PRED t.idx) = false ∧
    r.rd (SRV_PES_PES t.idx) = ux 16 (s.pesOf t (r.srv.get t).p1) ∧ Changes [SRV_POS t.idx, SRV_PES t.idx] s r))
  ∧ (∀ (t : Tower) (ra rb : BurstIn) (p : Int) (s : State), (s.srv.get t).demodPending = true → (s.srv.get t).demodSwitch = false → s.mode
    t = mFOLLOW → (s.atb.tw.get t).lastGood = true → trackParity (s.srdrPick t ra rb).track = true → 0 < (s.srdrPick t ra rb).n1.natAbs +
    (s.srdrPick t ra rb).n2.natAbs → s.rd (SRV_DEMOD_AMIN t.idx) ≤ (s.srdrPick t ra rb).n1.natAbs + (s.srdrPick t ra rb).n2.natAbs → 2 <
    (s.srv.get t).sinceSwitch → (s.srv.get t).pred = some p → ((candidate ((trackNumber (s.srdrPick t ra rb).track : Int) * trk + xRaw
    (s.srdrPick t ra rb).n1 (s.srdrPick t ra rb).n2 + corrOf (s.srv.get t).lin (xRaw (s.srdrPick t ra rb).n1 (s.srdrPick t ra rb).n2)) p -
    p).natAbs : Int) ≤ trk → Answers (.demodResult t ra rb) s (fun r => (r.srv.get t).p1 = candidate ((trackNumber (s.srdrPick t ra
    rb).track : Int) * trk + xRaw (s.srdrPick t ra rb).n1 (s.srdrPick t ra rb).n2 + corrOf (s.srv.get t).lin (xRaw (s.srdrPick t ra rb).n1
    (s.srdrPick t ra rb).n2)) p ∧ r.rd (SRV_POS_POS t.idx) = posReg (r.srv.get t).p1 ∧ r.on (SRV_PES_VALID t.idx) = true ∧ SameMem s r))
  ∧ (∀ (t : Tower) (ra rb : BurstIn) (s : State), (s.srv.get t).demodPending = true → (s.srv.get t).demodSwitch = true → Answers
    (.demodResult t ra rb) s (fun r => (r.srv.get t).demodPending = false ∧ (r.srv.get t).p1 = (s.srv.get t).fallback ∧ r.on
    (SRV_PES_VALID t.idx) = false ∧ r.on (SRV_PES_PRED t.idx) = true ∧ r.rd (SRV_POS_POS t.idx) = posReg ((s.srv.get t).fallback) ∧ r.on
    (SRV_MODE_OTWI t.idx) = true ∧ SameMem s r))
  ∧ (∀ (t : Tower) (ra rb : BurstIn) (s : State), (s.srv.get t).demodPending = true → (s.srv.get t).demodSwitch = false → trackParity
    (s.srdrPick t ra rb).track = false → 0 < (s.srdrPick t ra rb).n1.natAbs + (s.srdrPick t ra rb).n2.natAbs → Answers (.demodResult t ra
    rb) s (fun r => (r.srv.get t).demodPending = false ∧ (r.srv.get t).delivered = true ∧ r.on (SRV_PES_VALID t.idx) = false ∧ r.rd
    (SRV_POS_POS t.idx) = posReg ((s.srv.get t).fallback) ∧ SameMem s r))
  -- GENERATOR_TICK (R141)
  ∧ (∀ (t : Tower) (vaux vcmI : Int) (g : GenRun) (s : State), (s.srv.get t).gen = some g → g.hold = false → g.kind = .retract → s.on
    (SRV_BEMF_VSRC_EN t.idx) = false → s.rd (SRV_GEN_RETRACT_I_DRIVE t.idx) ≤ 32767 → Answers (.generatorTick t vaux vcmI) s (fun r =>
    (r.srv.get t).vcmPin = s.rd (SRV_GEN_RETRACT_I_DRIVE t.idx) ∧ (r.srv.get t).gen = some
    { kind := .retract, hold := false, cmd := s.rd (SRV_GEN_RETRACT_I_DRIVE t.idx) } ∧ Changes [] s r))
  -- GEN_MOVE_END (R141)
  ∧ (∀ (t : Tower) (g : GenRun) (s : State), (s.srv.get t).gen = some g → ¬ g.kind = .load → Answers (.genMoveEnd t) s (fun r =>
    (r.srv.get t).gen = some { g with hold := true } ∧ Changes [] s r))
  -- GEN_HOLD_END (R138)
  ∧ (∀ (t : Tower) (g : GenRun) (s : State), (s.srv.get t).gen = some g → g.hold = true → ¬ s.st bSRV t.idx = stSTOPPING → Answers
    (.genHoldEnd t) s (fun r => r.mode t = mUNLOADED ∧ (r.srv.get t).gen = none ∧ (r.srv.get t).vcmPin = 0 ∧ (r.srv.get t).maPin = 0 ∧
    r.rd ⟨pageBase bSRV t.idx 0 + 0x10, 27, 1⟩ = 1 ∧ SameMem s r))
  -- LOAD_TIMEOUT (R138)
  ∧ (∀ (t : Tower) (s : State), s.mode t = mLOADING → Answers (.loadTimeout t) s (fun r => r.mode t = mRETRACT ∧ r.rd (SRV_MODE_CAUSE
    t.idx) = 6 ∧ r.rd ⟨pageBase bSRV t.idx 0 + 0x10, 26, 1⟩ = 1 ∧ SameMem s r))
  -- SHOCK_CONVERSION (R147)
  ∧ (∀ (s0 s1 : Int) (s : State), s0.natAbs ≤ s.rd (SRV_SHOCK_LIM 0) → s1.natAbs ≤ s.rd (SRV_SHOCK_LIM 0) → s0.natAbs ≤ s.rd
    (SRV_SHOCK_LIM 1) → s1.natAbs ≤ s.rd (SRV_SHOCK_LIM 1) → Answers (.shockConversion s0 s1) s (fun r => r.rd (SRV_SHOCK_VAL_SHOCK_0 0) =
    ux (SRV_SHOCK_VAL_SHOCK_0 0).width s0 ∧ r.rd (SRV_SHOCK_VAL_SHOCK_1 1) = ux (SRV_SHOCK_VAL_SHOCK_1 1).width s1 ∧ Changes
    [SRV_SHOCK_VAL 0, SRV_SHOCK_VAL 1] s r))

/-- Read channel commands: decode progress, replay queue, pins, coefficients. R197, R199, R201, R202, R207, R210, R213, R214, R217, R218.
Of the model, not of the spec: a value that the spec leaves open is a free value, an uninterpreted constant of Config (log entry 2); that
a command whose condition does not hold answers the unchanged state is the model's reading (log entry 6). -/
def Obligations.ReadChannelRows : Prop :=
  -- FRONT_DETECTOR_DONE (R210)
  (∀ (t : Tower) (c : CapPlan) (k : Nat) (sampA sampB : List Byte) (afeA afeB : AfeIn) (s : State), (s.chn.get t).caps = [(c, k)] →
    c.verify = true → k < (s.chn.get t).slots.length → (s.slot t k).capturing = false → (s.chn.get t).verify = none → (s.chn.get t).waits
    = [] → Answers (.frontDetectorDone t true sampA sampB afeA afeB) s (fun r => (r.chn.get t).caps = [] ∧ (r.slot t k).cands =
    (s.capStore t k sampA sampB afeA afeB).findCands t (s.syncThr t) [] (searchAll c.fgen (s.syncW t) c.pieces ((s.capStore t k sampA
    sampB afeA afeB).slotSoft t (s.slot t k).coef c.eqset c.readers k) s.free false) ∧ (r.slot t k).gainA = s.afeGainOf t false afeA ∧
    (usesReader (s.slot t k).cap.readers false = false → (r.slot t k).sampA = []) ∧ SameMemOut [(s.rd (CHN_RING_BASE_BASE t.idx) + 32 *
    (s.rd (CHN_RING_PROD_INDEX t.idx) % ringSize (s.rd (CHN_RING_CFG_LOG2SIZE t.idx)) 4 12 8), 32)] s r))
  -- DETECTOR_PASS_DONE (R207)
  ∧ (∀ (t : Tower) (u : Unit3) (d : Decode) (s : State), s.dec t u = some d → d.passed = false → Answers (.detectorPassDone t u) s (fun r
    => r.dec t u = some (d.pass (s.decSet t u d) (s.slot t d.slot).cap.fgen s.free (s.decZ t u d)) ∧ r.rd (chnBusy t.idx u) = 1 ∧ Changes
    [CHN_STAT t.idx] s r))
  ∧ (∀ (t : Tower) (u : Unit3) (d : Decode) (s : State), s.dec t u = some d → d.passed = true → Answers (.detectorPassDone t u) s (fun r
    => r = s))
  -- LOCAL_ITERATION_DONE (R207)
  ∧ (∀ (t : Tower) (u : Unit3) (d : Decode) (s : State), s.dec t u = some d → d.passed = true → d.lHere + 1 < d.lmax → (s.chn.get t).waits
    = [] → Answers (.localIterationDone t u) s (fun r => r.dec t u = (if (d.iterate (s.slot t d.slot).cap.fgen s.free).unsat = 0 then none
    else some (d.iterate (s.slot t d.slot).cap.fgen s.free)) ∧ (r.chn.get t).crcs = (if (d.iterate (s.slot t d.slot).cap.fgen
    s.free).unsat = 0 then (s.chn.get t).crcs ++ [(u, (d.iterate (s.slot t d.slot).cap.fgen s.free))] else (s.chn.get t).crcs) ∧ Changes
    [CHN_STAT t.idx] s r))
  ∧ (∀ (t : Tower) (u : Unit3) (d : Decode) (s : State), s.dec t u = some d → d.passed = true → d.lHere + 1 = d.lmax → d.g < d.gmax →
    (s.chn.get t).waits = [] → Answers (.localIterationDone t u) s (fun r => r.dec t u = (if (d.iterate (s.slot t d.slot).cap.fgen
    s.free).unsat = 0 then none else some
    { (d.iterate (s.slot t d.slot).cap.fgen s.free) with g := d.g + 1, lHere := 0, passed := false }) ∧ (r.chn.get t).crcs = (if
    (d.iterate (s.slot t d.slot).cap.fgen s.free).unsat = 0 then (s.chn.get t).crcs ++ [(u, (d.iterate (s.slot t d.slot).cap.fgen
    s.free))] else (s.chn.get t).crcs) ∧ Changes [CHN_STAT t.idx] s r))
  -- CRC_CHECK_DONE (R213)
  ∧ (∀ (t : Tower) (d : Decode) (s : State), (s.chn.get t).crcs = [(.verify, d)] → Answers (.crcCheckDone t .verify) s (fun r =>
    (r.chn.get t).crcs = [] ∧ SameMemOut [(s.rd (CHN_RING_BASE_BASE t.idx) + 32 * (s.rd (CHN_RING_PROD_INDEX t.idx) % ringSize (s.rd
    (CHN_RING_CFG_LOG2SIZE t.idx)) 4 12 8), 32)] s r))
  ∧ (∀ (t : Tower) (d : Decode) (p : List Byte) (s : State), (s.chn.get t).crcs = [(.normal, d)] → s.openBlock t (s.slot t d.slot).cap
    (bytesOf (d.bits.take infoBits)) = some (p, true) → (s.slot t d.slot).cap.dest + p.length ≤ s.rd (CHN_RING_BASE_BASE t.idx) → Answers
    (.crcCheckDone t .normal) s (fun r => (r.chn.get t).crcs = [] ∧ r.bytes (s.slot t d.slot).cap.dest p.length = p ∧ SameMemOut [((s.slot
    t d.slot).cap.dest, p.length), (s.rd (CHN_RING_BASE_BASE t.idx) + 32 * (s.rd (CHN_RING_PROD_INDEX t.idx) % ringSize (s.rd
    (CHN_RING_CFG_LOG2SIZE t.idx)) 4 12 8), 32)] s r))
  -- CHN_RP_PUSH (R218)
  ∧ (∀ (t : Tower) (s : State), s.admits (CHN_RP_PUSH t.idx) = true → s.isOn bCHN t.idx = true → (s.chn.get t).queue.length < 16 → Answers
    (.chnRpPush t 1) s (fun r => (r.chn.get t).queue = (s.chn.get t).queue ++
    [{ words := (List.range 5).map (fun i => s.reg (CHN_RP_REQ t.idx i)) }] ∧ r.rd (CHN_RP_STAT_DEPTH t.idx) = (s.chn.get t).queue.length
    + 1 ∧ Changes [CHN_RP_STAT t.idx] s r))
  ∧ (∀ (t : Tower) (s : State), s.admits (CHN_RP_PUSH t.idx) = true → s.isOn bCHN t.idx = true → 16 ≤ (s.chn.get t).queue.length → Answers
    (.chnRpPush t 1) s (fun r => r.rd ⟨pageBase bCHN t.idx 0 + 0x10, 24, 1⟩ = 1 ∧ (r.chn.get t).queue = (s.chn.get t).queue ∧ Changes
    [pageBase bCHN t.idx 0 + 0x10] s r))
  -- REPLAY_START (R217)
  ∧ (∀ (t : Tower) (q : RpReq) (s : State), (s.chn.get t).replay = none → (s.chn.get t).crcs = [] → (s.chn.get t).queue = [q] → q.auto =
    false → Answers (.replayStart t) s (fun r => (r.chn.get t).queue = [] ∧ r.rd (CHN_RP_STAT_TAG t.idx) = fieldOf (nth q.words 0 0) 16 8
    ∧ r.rd (CHN_RP_STAT_DEPTH t.idx) = 0))
  -- RB_PIN (R197)
  ∧ (∀ (t : Tower) (val : Word) (s : State), s.admits (CHN_RB_PIN t.idx) = true → fieldOf val 16 6 < 51 → (s.slot t (fieldOf val 16
    6)).gen = fieldOf val 8 8 → s.canPin t (fieldOf val 16 6) = true → Answers (.rbPin t val) s (fun r => r.rd (pinFld t.idx (fieldOf val
    16 6)) = 1 ∧ r.rd (CHN_RB_STAT_PIN_OK t.idx) = 1 ∧ SameMem s r))
  ∧ (∀ (t : Tower) (val : Word) (s : State), s.admits (CHN_RB_PIN t.idx) = true → ¬ (fieldOf val 16 6 < 51 ∧ (s.slot t (fieldOf val 16
    6)).gen = fieldOf val 8 8) → Answers (.rbPin t val) s (fun r => r.rd (CHN_RB_STAT_PIN_OK t.idx) = 0 ∧ r.rd ⟨pageBase bCHN t.idx 0 +
    0x10, 22, 1⟩ = 1 ∧ Changes [CHN_RB_STAT t.idx, pageBase bCHN t.idx 0 + 0x10] s r))
  -- RB_UNPIN (R197)
  ∧ (∀ (t : Tower) (val : Word) (s : State), s.admits (CHN_RB_PIN t.idx) = true → fieldOf val 16 6 < 51 → (s.slot t (fieldOf val 16
    6)).gen = fieldOf val 8 8 → Answers (.rbUnpin t val) s (fun r => r.rd (pinFld t.idx (fieldOf val 16 6)) = 0 ∧ r.rd (CHN_RB_STAT_PIN_OK
    t.idx) = 1 ∧ SameMem s r))
  -- CHN_COEF_WRITE (R201)
  ∧ (∀ (t : Tower) (val : Word) (s : State), s.admits (CHN_COEF_DATA t.idx) = true → s.on (CHN_EQ_ADAPT_EN t.idx) = false → coefReserved
    (s.rd (CHN_COEF_ADDR_ADDR t.idx)) = false → s.on (CHN_COEF_ADDR_AUTO_INC t.idx) = false → Answers (.chnCoefWrite t val) s (fun r =>
    sparseGet (r.chn.get t).coef (s.rd (CHN_COEF_ADDR_ADDR t.idx)) = fieldOf val 0 16 ∧ Changes [] s r))
  ∧ (∀ (t : Tower) (val : Word) (s : State), s.admits (CHN_COEF_DATA t.idx) = true → s.on (CHN_EQ_ADAPT_EN t.idx) = true → s.rd
    (CHN_COEF_ADDR_ADDR t.idx) < 20 → s.on (CHN_COEF_ADDR_AUTO_INC t.idx) = false → Answers (.chnCoefWrite t val) s (fun r => r.rd
    ⟨pageBase bCHN t.idx 0 + 0x10, 21, 1⟩ = 1 ∧ r.chn = s.chn ∧ Changes [pageBase bCHN t.idx 0 + 0x10] s r))
  -- EQ_ADAPT_UPDATE (R202)
  ∧ (∀ (t : Tower) (sums : List Int) (s : State), (s.chn.get t).adapt = some sums → Answers (.eqAdaptUpdate t) s (fun r => (r.chn.get
    t).adapt = none ∧ sparseGet (r.chn.get t).coef 0 = adaptTap s (max 6 (s.rd (CHN_EQ_ADAPT_MU t.idx))) (sparseGet (s.chn.get t).coef 0)
    (nth sums 0 0) ∧ (∀ k, 20 ≤ k → sparseGet (r.chn.get t).coef k = sparseGet (s.chn.get t).coef k) ∧ Changes [] s r))
  -- CHN_CNT_CLR (R214)
  ∧ (∀ (t : Tower) (s : State), s.admits (CHN_CNT_CLR t.idx) = true → Answers (.chnCntClr t 1) s (fun r => r.reg (CHN_CNT_SECT t.idx) = 0
    ∧ r.reg (CHN_CNT_REPLAY t.idx) = 0 ∧ Changes [CHN_CNT_SECT t.idx, CHN_CNT_CONV t.idx, CHN_CNT_FAIL t.idx, CHN_CNT_SYNC t.idx,
    CHN_CNT_CAND t.idx, CHN_CNT_REPLAY t.idx] s r))
  -- READER_STREAM_OVERFLOW (R199)
  ∧ (∀ (t : Tower) (k : Nat) (c : CapPlan) (s : State), (s.chn.get t).caps = [(c, k)] → k < (s.chn.get t).slots.length → (s.slot t
    k).capturing = true → s.capOver t c = false → Answers (.readerStreamOverflow t) s (fun r => (r.slot t k).capturing = false ∧ (r.slot t
    k).replayable = false ∧ (r.chn.get t).caps = []))

/-- Write path and Lantern commands: sectors of a run, telemetry, faults, bias. R227, R234, R238, R244, R245, R248, R251. Of the model,
not of the spec: that a command whose condition does not hold answers the unchanged state is the model's reading (log entry 6). -/
def Obligations.WriteAndAssistRows : Prop :=
  -- SECTOR_WRITE_START (R227)
  (∀ (t : Tower) (w : WriteRun) (s : State), (s.twr.get t).run = some w → w.ended = false → w.writing = false → w.count = 5 → w.cur = 0 →
    Answers (.sectorWriteStart t false) s (fun r => (r.twr.get t).run.map (fun x => x.wouts) = some (w.wouts ++ [3]) ∧ SameMem s r))
  ∧ (∀ (t : Tower) (w : WriteRun) (e : List Byte) (s : State), (s.twr.get t).run = some w → w.ended = false → w.writing = false → s.wgOpen
    t = true → s.encodeSector t w = some e → Answers (.sectorWriteStart t true) s (fun r => (r.twr.get t).run = some
    { w with writing := true, enc := e, trans := sectorTrans w.precomp e } ∧ Changes [] s r))
  -- SECTOR_WRITE_END (R234)
  ∧ (∀ (t : Tower) (w : WriteRun) (s : State), (s.twr.get t).run = some w → w.ended = false → w.writing = true → w.count = 5 → w.cur = 0 →
    s.wgOpen t = true → Answers (.sectorWriteEnd t) s (fun r => (r.twr.get t).run.map (fun x => x.wouts) = some (w.wouts ++ [0]) ∧
    (r.twr.get t).run.map (fun x => x.cur) = some 1 ∧ SameMem s r))
  ∧ (∀ (t : Tower) (w : WriteRun) (s : State), (s.twr.get t).run = some w → w.ended = false → w.writing = true → s.wgOpen t = false →
    (s.atb.tw.get t).closedNow = [] → Answers (.sectorWriteEnd t) s (fun r => (r.twr.get t).run.map (fun x => x.wouts) = some (w.wouts ++
    [1]) ∧ (r.twr.get t).run.map (fun x => x.ended) = some true ∧ r.rd (TWR_STAT_LAST t.idx) = 1 ∧ SameMem s r))
  -- TELEMETRY (R244)
  ∧ (∀ (t : Tower) (head code : Nat) (s : State), head < 12 → s.cplHears t = true → code ≤ s.rd (LAN_ROR_T_ABS t.idx) → (s.twr.get
    t).lan.shutNow = none → s.agOpen t = false → Answers (.telemetry t head code) s (fun r => r.rd (LAN_HEAD_TLAST t.idx head) = code % 2
    ^ (LAN_HEAD_TLAST t.idx head).width ∧ r.rd (LAN_HEAD_TPEAK t.idx head) = max (s.rd (LAN_HEAD_TPEAK t.idx head)) (code % 4096) ∧
    Changes [(LAN_HEAD_TLAST t.idx head).addr, (LAN_HEAD_TPEAK t.idx head).addr] s r))
  ∧ (∀ (t : Tower) (head code : Nat) (s : State), head < 12 → s.cplHears t = true → s.rd (LAN_ROR_T_ABS t.idx) < code → s.st bLAN t.idx =
    stOFF → Answers (.telemetry t head code) s (fun r => r.rd (LAN_STAT_CAUSE t.idx) = 1 ∧ r.st bLAN t.idx = stOFF ∧ SameMem s r))
  ∧ (∀ (t : Tower) (head code : Nat) (s : State), 12 ≤ head → Answers (.telemetry t head code) s (fun r => r = s))
  -- CPL_FAULT_FRAME (R248)
  ∧ (∀ (t : Tower) (status : Nat) (s : State), s.cplHears t = true → s.st bLAN t.idx = stOFF → Answers (.cplFaultFrame t status) s (fun r
    => r.rd (CPL_STAT_PSTATUS t.idx) = status % 2 ^ (CPL_STAT_PSTATUS t.idx).width ∧ r.rd (LAN_STAT_CAUSE t.idx) = 3 ∧ r.st bLAN t.idx =
    stOFF ∧ SameMem s r))
  ∧ (∀ (t : Tower) (status : Nat) (s : State), s.cplHears t = true → s.isOn bLAN t.idx = true → Answers (.cplFaultFrame t status) s (fun r
    => r.rd (LAN_STAT_CAUSE t.idx) = 3 ∧ r.on (LAN_STAT_READY t.idx) = false ∧ r.en bLAN t.idx = false ∧ SameMem s r))
  -- TELEMETRY_STROBE (R238)
  ∧ (∀ (t : Tower) (s : State), s.agOpen t = true → s.head t < 12 → s.rd (LAN_ONTIME_LO_COUNT_LO t.idx (s.head t)) < 1000 → s.rd
    (LAN_ONTIME_HI_COUNT_HI t.idx (s.head t)) = 0 → ¬ s.rd (LAN_RATED_RATED_H t.idx) = 0 → Answers (.telemetryStrobe t) s (fun r => r.rd
    (LAN_ONTIME_LO_COUNT_LO t.idx (s.head t)) = s.rd (LAN_ONTIME_LO_COUNT_LO t.idx (s.head t)) + 1 ∧ Changes [(LAN_ONTIME_LO_COUNT_LO
    t.idx (s.head t)).addr] s r))
  ∧ (∀ (t : Tower) (s : State), s.agOpen t = false → Answers (.telemetryStrobe t) s (fun r => r = s))
  -- LAN_BIAS_RAMP_STEP (R248)
  ∧ (∀ (t : Tower) (target : Nat) (s : State), (s.twr.get t).lan.ramp = some target → (s.twr.get t).cpl.rstN = true → (s.twr.get
    t).lan.bias + atLeast1 (s.rd (LAN_BIAS_RAMP t.idx)) < target → Answers (.lanBiasRampStep t) s (fun r => (r.twr.get t).lan.bias =
    (s.twr.get t).lan.bias + atLeast1 (s.rd (LAN_BIAS_RAMP t.idx)) ∧ (r.twr.get t).cpl.pendBias = some ((s.twr.get t).lan.bias + atLeast1
    (s.rd (LAN_BIAS_RAMP t.idx))) ∧ (r.twr.get t).lan.ramp = some target ∧ Changes [] s r))
  -- HOLDOFF_END (R245)
  ∧ (∀ (t : Tower) (s : State), (s.twr.get t).lan.holdPhase = 2 → s.isOn bLAN t.idx = true → Answers (.holdoffEnd t) s (fun r =>
    (r.twr.get t).lan.holdPhase = 3 ∧ (r.twr.get t).lan.ramp = some (s.rd (LAN_BIAS_BIAS t.idx)) ∧ Changes [] s r))
  -- PTAB_WRITE (R251)
  ∧ (∀ (t : Tower) (val : Word) (s : State), s.admits (LAN_PTAB_DATA t.idx) = true → s.rd (LAN_PTAB_ADDR_INDEX t.idx) < 768 → Answers
    (.ptabWrite t val) s (fun r => sparseGet (r.twr.get t).lan.ptab (s.rd (LAN_PTAB_ADDR_INDEX t.idx)) = fieldOf val 0 10 ∧ SameMem s r))

/-- Preamp link commands: frames, answers, faults and register access. R235, R236, R237, R239, R240. Of the model, not of the spec: that a
command whose condition does not hold answers the unchanged state is the model's reading (log entry 6). -/
def Obligations.PreampLinkRows : Prop :=
  -- CPL_FRAME_SEND (R237)
  (∀ (t : Tower) (s : State), (s.twr.get t).cpl.rstN = true → (s.twr.get t).cpl.awaiting = none → (s.twr.get t).cpl.pendRead = some 0 → ¬
    s.rd (CPL_STAT_VERSION t.idx) = 2 → (s.twr.get t).cpl.loopNow = 0 → Answers (.cplFrameSend t) s (fun r => (r.twr.get t).cpl.awaiting =
    some { typ := 2, addr := 0, seq := ((s.twr.get t).cpl.seq + 1) % 16 } ∧ (r.twr.get t).cpl.pendRead = none ∧ (r.twr.get t).cpl.sent =
    cplBits { typ := 2, addr := 0, seq := ((s.twr.get t).cpl.seq + 1) % 16 } ∧ Changes [] s r))
  -- KEEPALIVE (R237)
  ∧ (∀ (t : Tower) (s : State), (s.twr.get t).cpl.rstN = true → (s.twr.get t).cpl.awaiting = none → (s.twr.get t).cpl.adopted = true →
    (s.twr.get t).cpl.pendRead = none → (s.twr.get t).cpl.pendHead = false → (s.twr.get t).cpl.pendAssist = none → (s.twr.get
    t).cpl.pendBias = none → (s.twr.get t).cpl.pendFw = none → ¬ s.rd (CPL_STAT_VERSION t.idx) = 2 → (s.twr.get t).cpl.loopNow = 0 →
    Answers (.keepalive t) s (fun r => (r.twr.get t).cpl.awaiting = none ∧ (r.twr.get t).cpl.sent = cplBits
    { typ := 3, seq := ((s.twr.get t).cpl.seq + 1) % 16 } ∧ Changes [] s r))
  -- CPL_ACK (R236)
  ∧ (∀ (t : Tower) (seq data : Nat) (f : CplFrame) (s : State), s.cplMatch t seq = some f → f.fw = true → f.typ = 1 → Answers (.cplAck t
    seq f.addr data) s (fun r => (r.twr.get t).cpl.awaiting = none ∧ r.on (CPL_REG_CMD_GO t.idx) = false ∧ r.on (CPL_REG_CMD_ERR t.idx) =
    false ∧ r.rd ⟨pageBase bCPL t.idx 0 + 0x10, 25, 1⟩ = 1 ∧ Changes [CPL_REG_CMD t.idx, pageBase bCPL t.idx 0 + 0x10] s r))
  -- CPL_NAK (R236)
  ∧ (∀ (t : Tower) (seq : Nat) (f : CplFrame) (s : State), s.cplMatch t seq = some f → (s.twr.get t).cpl.awaiting = some f → f.fw = true →
    f.typ = 1 → f.resends < atLeast1 (s.rd (CPL_CFG_RETRY t.idx)) → Answers (.cplNak t seq) s (fun r => (r.twr.get t).cpl.awaiting = some
    { f with resends := f.resends + 1 } ∧ r.rd (CPL_CNT_NAK t.idx) = satAdd (CPL_CNT_NAK t.idx).width (s.rd (CPL_CNT_NAK t.idx)) 1 ∧
    Changes [(CPL_CNT_NAK t.idx).addr] s r))
  -- READ_DATA (R240)
  ∧ (∀ (t : Tower) (seq data : Nat) (f : CplFrame) (s : State), s.cplMatch t seq = some f → f.fw = true → f.typ = 2 → Answers (.readData t
    seq f.addr data) s (fun r => (r.twr.get t).cpl.awaiting = none ∧ r.rd (CPL_REG_DATA_DATA t.idx) = data % 2 ^ (CPL_REG_DATA_DATA
    t.idx).width ∧ r.on (CPL_REG_CMD_GO t.idx) = false ∧ SameMem s r))
  -- CPL_BAD_FRAME (R235)
  ∧ (∀ (t : Tower) (s : State), Answers (.cplBadFrame t 0) s (fun r => r.rd (CPL_CNT_CRC t.idx) = satAdd (CPL_CNT_CRC t.idx).width (s.rd
    (CPL_CNT_CRC t.idx)) 1 ∧ r.rd ⟨pageBase bCPL t.idx 0 + 0x10, 26, 1⟩ = 1 ∧ Changes [(CPL_CNT_CRC t.idx).addr, pageBase bCPL t.idx 0 +
    0x10] s r))
  ∧ (∀ (t : Tower) (s : State), Answers (.cplBadFrame t 1) s (fun r => r = s))
  -- CPL_ANSWER_TIMEOUT (R236)
  ∧ (∀ (t : Tower) (f : CplFrame) (s : State), (s.twr.get t).cpl.awaiting = some f → f.fw = false → f.typ = 2 → f.addr = 0 → (s.twr.get
    t).cpl.verReads < 3 → (s.twr.get t).cpl.started = false → Answers (.cplAnswerTimeout t) s (fun r => (r.twr.get t).cpl.awaiting = none
    ∧ (r.twr.get t).cpl.pendRead = some 0 ∧ r.rd (CPL_CNT_TIMEOUT t.idx) = satAdd (CPL_CNT_TIMEOUT t.idx).width (s.rd (CPL_CNT_TIMEOUT
    t.idx)) 1 ∧ Changes [(CPL_CNT_TIMEOUT t.idx).addr] s r))
  -- CPL_RESET_RELEASE (R240)
  ∧ (∀ (t : Tower) (s : State), s.st bCPL t.idx = stSTARTING → Answers (.cplResetRelease t) s (fun r => (r.twr.get t).cpl.rstN = true ∧
    Changes [] s r))
  -- CPL_VERSION_READ (R240)
  ∧ (∀ (t : Tower) (s : State), s.st bCPL t.idx = stSTARTING → (s.twr.get t).cpl.rstN = true → (s.twr.get t).cpl.adopted = false →
    (s.twr.get t).cpl.awaiting = none → ¬ s.rd (CPL_STAT_VERSION t.idx) = 2 → (s.twr.get t).cpl.loopNow = 0 → Answers (.cplVersionRead t)
    s (fun r => (r.twr.get t).cpl.awaiting = some { typ := 2, addr := 0, seq := ((s.twr.get t).cpl.seq + 1) % 16 } ∧ (r.twr.get
    t).cpl.verReads = (s.twr.get t).cpl.verReads + 1 ∧ Changes [] s r))
  -- CPL_REG_GO (R239)
  ∧ (∀ (t : Tower) (val : Word) (s : State), s.admits (CPL_REG_CMD t.idx) = true → s.on (CPL_REG_CMD_GO t.idx) = false → fieldOf val 31 1
    = 1 → fieldOf val 30 1 = 1 → s.on (CPL_STAT_LINK_UP t.idx) = true → Answers (.cplRegGo t val) s (fun r => r.on (CPL_REG_CMD_GO t.idx)
    = true ∧ (r.twr.get t).cpl.pendFw = some { typ := 2, addr := fieldOf val 0 8, fw := true } ∧ Changes [CPL_REG_CMD t.idx] s r))
  ∧ (∀ (t : Tower) (val : Word) (s : State), s.admits (CPL_REG_CMD t.idx) = true → s.on (CPL_REG_CMD_GO t.idx) = false → fieldOf val 31 1
    = 1 → s.on (CPL_STAT_LINK_UP t.idx) = false → Answers (.cplRegGo t val) s (fun r => r.on (CPL_REG_CMD_GO t.idx) = false ∧ r.on
    (CPL_REG_CMD_ERR t.idx) = true ∧ r.rd ⟨pageBase bCPL t.idx 0 + 0x10, 24, 1⟩ = 1 ∧ SameMem s r))

/-- Recovery commands: ladder attempts and ends, removed heads. R179, R258, R274. Of the model, not of the spec: that a command whose
condition does not hold answers the unchanged state is the model's reading (log entry 6). -/
def Obligations.RecoveryRows : Prop :=
  -- LADDER_ATTEMPT (R258)
  (∀ (t : Tower) (sec : Sect) (profile : Nat) (fac : Factory) (s : State), s.seenOf t sec = none → s.headIn t sec.head = true → Answers
    (.ladderAttempt t sec profile fac) s (fun r => r = s))
  ∧ (∀ (t : Tower) (sec : Sect) (o : SeenOut) (fac : Factory) (s : State), s.seenOf t sec = some o → ¬ o.out = 0 → (s.lay.get t).ladders =
    [] → s.headIn t sec.head = true → s.slotBusy t o.slot = false → s.seenSlot t o = false → s.pinCount t < s.pinMax t → Answers
    (.ladderAttempt t sec 0 fac) s (fun r => (r.lay.get t).ladders.map (fun l => (l.step, l.att, l.captures)) = [(3, 1, 2)] ∧ Changes [] s
    r))
  ∧ (∀ (t : Tower) (sec : Sect) (o : SeenOut) (m : Nat) (fac : Factory) (s : State), s.seenOf t sec = some o → ¬ o.out = 0 → (s.lay.get
    t).ladders = [] → s.headIn t sec.head = true → s.slotBusy t o.slot = false → s.seenSlot t o = true → missingMode o = some m →
    (s.chn.get t).queue.length < 16 → s.isOn bCHN t.idx = true → Answers (.ladderAttempt t sec 0 fac) s (fun r => (r.chn.get t).queue =
    (s.chn.get t).queue ++ [{ words := s.fwWords t o.slot m 0 0 (s.gmaxOf t .replay) (s.lmaxOf t .replay) [] }] ∧ r.rd (pinFld t.idx
    o.slot) = 1 ∧ (r.lay.get t).ladders.map (fun l => (l.step, l.posted)) = [(2, true)] ∧ SameMem s r))
  ∧ (∀ (t : Tower) (l : Ladder) (o : SeenOut) (profile : Nat) (fac : Factory) (s : State), s.seenOf t l.sec = some o → o.out = 8 → o.live
    = 8 → (s.lay.get t).ladders = [l] → l.step = 3 → l.seenAt < o.count → s.headIn t l.sec.head = true → s.slotBusy t o.slot = false →
    Answers (.ladderAttempt t l.sec profile fac) s (fun r => (r.lay.get t).ladders =
    [{ l with captures := l.captures + 1, seenAt := o.count, posted := false }] ∧ Changes [] s r))
  -- LADDER_END (R274)
  ∧ (∀ (t : Tower) (sec : Sect) (s : State), s.seenOf t sec = none → (s.lay.get t).ladders = [] → Answers (.ladderEnd t sec 2) s (fun r =>
    (r.lay.get t).ladders = [] ∧ (r.lay.get t).grown = (s.lay.get t).grown ∧ r.evr.posts = s.evr.posts ∧ SameMem s r))
  ∧ (∀ (t : Tower) (l : Ladder) (s : State), s.seenOf t l.sec = none → (s.lay.get t).ladders = [l] → l.step = 8 → l.sec.cmr = false →
    l.sec.raw = false → (s.lay.get t).sectDead l.sec = false → (s.lay.get t).groupOf l.sec.band = none → s.headIn t l.sec.head = true →
    s.isOn bEVR 0 = true → s.rd EVR_POST_STAT_DEPTH < 16 → (s.lay.get t).grown.length < 16384 → Answers (.ladderEnd t l.sec 0) s (fun r =>
    (r.lay.get t).grown.contains (l.sec.head, l.sec.track, l.sec.pos) = true ∧ (r.lay.get t).ladders = [] ∧ r.rd EVR_POST_STAT_DEPTH =
    s.rd EVR_POST_STAT_DEPTH + 1 ∧ (r.evr.posts.map (fun p => (p.fw, p.code, p.sev))) = (s.evr.posts.map (fun p => (p.fw, p.code, p.sev)))
    ++ [(true, 0x0802, 3)] ∧ SameMem s r))
  ∧ (∀ (t : Tower) (l : Ladder) (s : State), s.seenOf t l.sec = none → (s.lay.get t).ladders = [l] → l.step = 8 → l.sec.cmr = false →
    l.sec.raw = false → (s.lay.get t).sectDead l.sec = false → (s.lay.get t).groupOf l.sec.band = none → s.headIn t l.sec.head = true →
    s.isOn bEVR 0 = true → s.rd EVR_POST_STAT_DEPTH < 16 → (s.lay.get t).grown.length < 16384 → Answers (.ladderEnd t l.sec 1) s (fun r =>
    (r.lay.get t).grown.contains (l.sec.head, l.sec.track, l.sec.pos) = true ∧ (r.lay.get t).ladders = [] ∧ r.rd EVR_POST_STAT_DEPTH =
    s.rd EVR_POST_STAT_DEPTH + 1 ∧ (r.evr.posts.map (fun p => (p.fw, p.code, p.sev))) = (s.evr.posts.map (fun p => (p.fw, p.code, p.sev)))
    ++ [(true, 0x0803, 4)] ∧ SameMem s r))
  -- HEAD_REMOVED (R179)
  ∧ (∀ (t : Tower) (h : Nat) (s : State), (s.lay.get t).ladders = [] → Answers (.headRemoved t h) s (fun r => (r.lay.get t).heads =
    (s.lay.get t).heads.filter (fun x => !(x == h)) ∧ Changes [] s r))

/-- Microwords common to every spire: arithmetic, branches, calls, loads and stores. R280, R283, R285, R300. -/
def Obligations.MicrowordRows : Prop :=
  -- ALU (R280)
  (∀ (sp : Spire) (s : State), AtRow .alu sp s → bits (s.mword sp) 16 4 = 0 → Answers (.alu sp) s (fun r => SpireStep sp (fun p =>
    { p with w := upd p.w (bits (s.mword sp) 12 4) (BitVec.ofNat 32 ((s.w sp (bits (s.mword sp) 8 4) + s.w sp (bits (s.mword sp) 4 4)) % 2 ^ 32)), z := (s.w sp (bits (s.mword sp) 8 4) + s.w sp (bits (s.mword sp) 4 4)) % 2 ^ 32 == 0, n := decide (2 ^ 31 ≤ (s.w sp (bits (s.mword sp) 8 4) + s.w sp (bits (s.mword sp) 4 4)) % 2 ^ 32), c := decide (2 ^ 32 ≤ s.w sp (bits (s.mword sp) 8 4) + s.w sp (bits (s.mword sp) 4 4)) })
    s r))
  ∧ (∀ (sp : Spire) (s : State), AtRow .alu sp s → bits (s.mword sp) 16 4 = 1 → s.w sp (bits (s.mword sp) 8 4) < s.w sp (bits (s.mword sp)
    4 4) → bits (s.mword sp) 12 4 < (s.spire sp).w.length → Answers (.alu sp) s (fun r => nth (r.spire sp).w (bits (s.mword sp) 12 4) 0 =
    nth (s.spire sp).w (bits (s.mword sp) 8 4) 0 - nth (s.spire sp).w (bits (s.mword sp) 4 4) 0 ∧ r.regs = s.regs ∧ r.mem = s.mem))
  ∧ (∀ (sp : Spire) (s : State), AtRow .alu sp s → bits (s.mword sp) 16 4 = 12 → Answers (.alu sp) s (fun r => (r.spire sp).w = upd
    (s.spire sp).w (bits (s.mword sp) 12 4) (BitVec.ofNat 32 (s.w sp (bits (s.mword sp) 8 4) % 65536 * (s.w sp (bits (s.mword sp) 4 4) %
    65536))) ∧ (r.spire sp).c = (s.spire sp).c ∧ (r.spire sp).pc = ((s.spire sp).pc + 1) % 4096 ∧ Changes [] s r))
  -- ALUI (R280)
  ∧ (∀ (sp : Spire) (s : State), AtRow .alui sp s → bits (s.mword sp) 16 4 = 9 → Answers (.alui sp) s (fun r => SpireStep sp (fun p =>
    { p with z := (s.w sp (bits (s.mword sp) 12 4) + 2 ^ 32 - bits (s.mword sp) 0 12) % 2 ^ 32 == 0, n := decide (2 ^ 31 ≤ (s.w sp (bits (s.mword sp) 12 4) + 2 ^ 32 - bits (s.mword sp) 0 12) % 2 ^ 32), c := decide (s.w sp (bits (s.mword sp) 12 4) < bits (s.mword sp) 0 12) })
    s r))
  ∧ (∀ (sp : Spire) (s : State), AtRow .alui sp s → bits (s.mword sp) 16 4 = 6 → bits (s.mword sp) 0 5 = 0 → Answers (.alui sp) s (fun r
    => SpireStep sp (fun p =>
    { p with w := upd p.w (bits (s.mword sp) 12 4) (BitVec.ofNat 32 (s.w sp (bits (s.mword sp) 12 4))), z := s.w sp (bits (s.mword sp) 12 4) == 0, n := decide (2 ^ 31 ≤ s.w sp (bits (s.mword sp) 12 4)) })
    s r))
  -- LDI (R280)
  ∧ (∀ (sp : Spire) (s : State), AtRow .ldi sp s → Answers (.ldi sp) s (fun r => SpireStep sp (fun p =>
    { p with w := upd p.w (bits (s.mword sp) 16 4) (BitVec.ofNat 32 (bits (s.mword sp) 0 16)) }) s r))
  -- LUI (R280)
  ∧ (∀ (sp : Spire) (s : State), AtRow .lui sp s → Answers (.lui sp) s (fun r => SpireStep sp (fun p =>
    { p with w := upd p.w (bits (s.mword sp) 16 4) (BitVec.ofNat 32 (bits (s.mword sp) 0 16 * 65536 + s.w sp (bits (s.mword sp) 16 4) % 65536)) })
    s r))
  -- BR (R280)
  ∧ (∀ (sp : Spire) (s : State), AtRow .br sp s → bits (s.mword sp) 16 4 = 7 → (s.spire sp).ef0 = true → Answers (.br sp) s (fun r =>
    r.spire sp = { s.spire sp with ef0 := false, pc := bits (s.mword sp) 0 12 } ∧ Changes [BTP_STAT] s r))
  ∧ (∀ (sp : Spire) (s : State), AtRow .br sp s → bits (s.mword sp) 16 4 = 1 → (s.spire sp).z = false → Answers (.br sp) s (fun r =>
    SpireStep sp (fun p => p) s r))
  -- CBR (R280)
  ∧ (∀ (sp : Spire) (s : State), AtRow .cbr sp s → bits (s.mword sp) 12 4 = 2 → 2 ^ 31 ≤ s.w sp (bits (s.mword sp) 16 4) → Answers (.cbr
    sp) s (fun r => r.spire sp = { s.spire sp with pc := bits (s.mword sp) 0 12 } ∧ Changes [BTP_STAT] s r))
  ∧ (∀ (sp : Spire) (s : State), AtRow .cbr sp s → bits (s.mword sp) 12 4 = 2 → s.w sp (bits (s.mword sp) 16 4) < 2 ^ 31 → Answers (.cbr
    sp) s (fun r => SpireStep sp (fun p => p) s r))
  -- CALL (R285)
  ∧ (∀ (sp : Spire) (s : State), AtRow .call sp s → (s.spire sp).stack.length < 8 → Answers (.call sp) s (fun r => r.spire sp =
    { s.spire sp with stack := (s.spire sp).stack ++ [((s.spire sp).pc + 1) % 4096], pc := bits (s.mword sp) 0 12 } ∧ Changes [BTP_STAT] s
    r))
  -- RET (R285)
  ∧ (∀ (sp : Spire) (a : Nat) (l : List Nat) (s : State), AtRow .ret sp s → (s.spire sp).stack = l ++ [a] → Answers (.ret sp) s (fun r =>
    r.spire sp = { s.spire sp with stack := l, pc := a % 4096 } ∧ Changes [BTP_STAT] s r))
  ∧ (∀ (sp : Spire) (s : State), AtRow .ret sp s → (s.spire sp).stack = [] → sp.cls = 1 → (s.spire sp).running = none → Answers (.ret sp)
    s (fun r => (r.spire sp).sstate = 3 ∧ (r.spire sp).mcCause = 5 ∧ (r.spire sp).mcAddr = (s.spire sp).pc ∧ (r.spire sp).w = (s.spire
    sp).w ∧ SameMem s r))
  -- NOP (R280)
  ∧ (∀ (sp : Spire) (s : State), AtRow .nop sp s → Answers (.nop sp) s (fun r => SpireStep sp (fun p => p) s r))
  ∧ (∀ (sp : Spire) (s : State), Running sp s → csGood (s.spire sp).fetch = false → rowOf sp.cls (s.mword sp) = .nop → sp.cls = 3 →
    (s.spire sp).running = none → Answers (.nop sp) s (fun r => (r.spire sp).sstate = 3 ∧ (r.spire sp).mcCause = 1 ∧ (r.spire sp).mcAddr =
    (s.spire sp).pc ∧ (r.spire sp).mcCmd = 0 ∧ (r.spire sp).w = (s.spire sp).w ∧ SameMem s r))
  -- HALT (R300)
  ∧ (∀ (sp : Spire) (s : State), AtRow .halt sp s → ¬ sp.cls = 0 → Answers (.halt sp) s (fun r => r.spire sp =
    { s.spire sp with sstate := 0, wait := .none, pc := ((s.spire sp).pc + 1) % 4096 } ∧ Changes [] s r))
  -- FENCE (R280)
  ∧ (∀ (sp : Spire) (s : State), AtRow .fence sp s → Answers (.fence sp) s (fun r => SpireStep sp (fun p => p) s r))
  -- LD (R283)
  ∧ (∀ (sp : Spire) (q : State) (v : Word) (s : State), AtRow .ld sp s → (s.adv sp).busWord (sprPort sp) ((s.w sp (bits (s.mword sp) 12 4)
    + 4 * bits (s.mword sp) 0 12) % 2 ^ 32 / 4 * 4) = (q, v, true) → Answers (.ld sp) s (fun r => r = q.setW sp (bits (s.mword sp) 16 4)
    v))
  -- ST (R283)
  ∧ (∀ (sp : Spire) (q : State) (s : State), AtRow .st sp s → (s.adv sp).busWrite (sprPort sp) ((s.w sp (bits (s.mword sp) 12 4) + 4 *
    bits (s.mword sp) 0 12) % 2 ^ 32 / 4 * 4) (leBytes 4 (s.w sp (bits (s.mword sp) 16 4))) = (q, true) → Answers (.st sp) s (fun r => r =
    q))

/-- Track sequencer microwords: angles, comparators, plans and windows. R162, R287, R288, R289, R290. -/
def Obligations.SequencerPlanRows : Prop :=
  -- GETANG (R288)
  (∀ (sp : Spire) (s : State), AtRow .getang sp s → Answers (.getang sp) s (fun r => SpireStep sp (fun p =>
    { p with w := upd p.w (bits (s.mword sp) 12 4) (BitVec.ofNat 32 (s.localAngle (sprTower sp))), seqEpoch := s.epoch }) s r))
  -- ARM (R289)
  ∧ (∀ (sp : Spire) (s : State), AtRow .arm sp s → s.cmpArmed (16 * sp.idx + bits (s.mword sp) 4 4) = true → Answers (.arm sp) s (fun r =>
    SpireStep sp (fun p => { p with c := true }) s r))
  ∧ (∀ (sp : Spire) (s : State), AtRow .arm sp s → s.cmpArmed (16 * sp.idx + bits (s.mword sp) 4 4) = false → s.isOn bATB 0 = true → bits
    (s.mword sp) 8 4 < 12 → (s.spire sp).seqEpoch = s.epoch → 2 ^ 31 ≤ (s.localAngle (sprTower sp) + 2 ^ 32 - s.w sp (bits (s.mword sp) 12
    4)) % 2 ^ 32 → Answers (.arm sp) s (fun r => r.cmpArmed (16 * sp.idx + bits (s.mword sp) 4 4) = true ∧ r.rd (ATB_CMP_CTL_ACTION (16 *
    sp.idx + bits (s.mword sp) 4 4)) = bits (s.mword sp) 8 4 ∧ r.rd (ATB_CMP_CTL_OWNER (16 * sp.idx + bits (s.mword sp) 4 4)) = sp.idx % 4
    ∧ r.rd (ATB_CMP_TGT_TGT (16 * sp.idx + bits (s.mword sp) 4 4)) = s.w sp (bits (s.mword sp) 12 4) ∧ r.spire sp =
    { s.spire sp with c := false, pc := ((s.spire sp).pc + 1) % 4096 } ∧ Changes [ATB_CMP_TGT (16 * sp.idx + bits (s.mword sp) 4 4),
    ATB_CMP_CTL (16 * sp.idx + bits (s.mword sp) 4 4)] s r))
  -- WAITC (R290)
  ∧ (∀ (sp : Spire) (s : State), AtRow .waitc sp s → s.cmpArmed (16 * sp.idx + bits (s.mword sp) 4 4) = false → Answers (.waitc sp) s (fun
    r => SpireStep sp (fun p =>
    { p with w := upd p.w (bits (s.mword sp) 12 4) (BitVec.ofNat 32 (s.rd (ATB_CMP_CTL_STATUS (16 * sp.idx + bits (s.mword sp) 4 4)))) })
    s r))
  ∧ (∀ (sp : Spire) (s : State), AtRow .waitc sp s → s.cmpArmed (16 * sp.idx + bits (s.mword sp) 4 4) = true → Answers (.waitc sp) s (fun
    r => r.spire sp = { s.spire sp with sstate := 2, wait := .waitc (bits (s.mword sp) 12 4) (bits (s.mword sp) 4 4) } ∧ Changes [] s r))
  -- DISARM (R290)
  ∧ (∀ (sp : Spire) (s : State), AtRow .disarm sp s → ¬ (s.isOn bATB 0 = true ∧ s.cmpArmed (16 * sp.idx + bits (s.mword sp) 4 4) = true ∧
    s.cmpReached (16 * sp.idx + bits (s.mword sp) 4 4) = true) → Answers (.disarm sp) s (fun r => r.cmpArmed (16 * sp.idx + bits (s.mword
    sp) 4 4) = false ∧ r.rd (ATB_CMP_CTL_STATUS (16 * sp.idx + bits (s.mword sp) 4 4)) = 0 ∧ (r.spire sp).pc = ((s.spire sp).pc + 1) %
    4096 ∧ Changes [ATB_CMP_CTL (16 * sp.idx + bits (s.mword sp) 4 4), BTP_STAT] s r))
  -- LOADZ (R162)
  ∧ (∀ (sp : Spire) (z : Nat × Nat × List Word) (s : State), AtRow .loadz sp s → s.loadZ sp (s.w sp (bits (s.mword sp) 8 4) / 2 ^ 28) (s.w
    sp (bits (s.mword sp) 4 4) / 2 ^ 26) = some z → Answers (.loadz sp) s (fun r => SpireStep sp (fun p =>
    { p with zoneDesc := some z, c := false }) s r))
  ∧ (∀ (sp : Spire) (s : State), AtRow .loadz sp s → 12 ≤ s.w sp (bits (s.mword sp) 8 4) / 2 ^ 28 → Answers (.loadz sp) s (fun r =>
    SpireStep sp (fun p => { p with c := true }) s r))
  -- ANCHOR (R287)
  ∧ (∀ (sp : Spire) (s : State), AtRow .anchor sp s → Answers (.anchor sp) s (fun r => SpireStep sp (fun p =>
    { p with anchor := s.w sp (bits (s.mword sp) 8 4), c := false }) s r))
  -- RPLAN (R287)
  ∧ (∀ (sp : Spire) (p : Plan) (s : State), AtRow .rplan sp s → s.planOf sp false (s.w sp (bits (s.mword sp) 8 4)) (s.w sp (bits (s.mword
    sp) 4 4)) = some p → Answers (.rplan sp) s (fun r => SpireStep sp (fun x =>
    { x with plan := some p, w := upd x.w (bits (s.mword sp) 12 4) (BitVec.ofNat 32 p.wins.length), c := false }) s r))
  ∧ (∀ (sp : Spire) (s : State), AtRow .rplan sp s → (s.spire sp).zoneDesc = none → Answers (.rplan sp) s (fun r => SpireStep sp (fun p =>
    { p with c := true }) s r))
  -- WPLAN (R287)
  ∧ (∀ (sp : Spire) (p : Plan) (s : State), AtRow .wplan sp s → s.planOf sp true (s.w sp (bits (s.mword sp) 8 4)) (s.w sp (bits (s.mword
    sp) 4 4)) = some p → Answers (.wplan sp) s (fun r => SpireStep sp (fun x =>
    { x with plan := some p, w := upd x.w (bits (s.mword sp) 12 4) (BitVec.ofNat 32 p.wins.length), c := false }) s r))
  -- WGET (R287)
  ∧ (∀ (sp : Spire) (v : Nat) (s : State), AtRow .wget sp s → (s.spire sp).field (s.w sp (bits (s.mword sp) 8 4)) (bits (s.mword sp) 0 4)
    = some v → Answers (.wget sp) s (fun r => SpireStep sp (fun x =>
    { x with w := upd x.w (bits (s.mword sp) 12 4) (BitVec.ofNat 32 v), c := false }) s r))
  ∧ (∀ (sp : Spire) (s : State), AtRow .wget sp s → (s.spire sp).plan = none → Answers (.wget sp) s (fun r => SpireStep sp (fun x =>
    { x with c := true }) s r))

/-- Track sequencer microwords: captures, outcomes, runs and waits. R226, R287, R293, R294. Of the model, not of the spec: that a command
whose condition does not hold answers the unchanged state is the model's reading (log entry 6). -/
def Obligations.SequencerEventRows : Prop :=
  -- CAPTR (R287)
  (∀ (sp : Spire) (p : Plan) (s : State), AtRow .captr sp s → (s.spire sp).plan = some p → p.queued = false → Answers (.captr sp) s (fun r
    => r.spire sp = { s.spire sp with plan := some { p with queued := true }, c := false, pc := ((s.spire sp).pc + 1) % 4096 } ∧
    (r.chn.get (sprTower sp)).plans = (s.chn.get (sprTower sp)).plans ++ p.caps.map (fun c =>
    { c with dest := s.w sp (bits (s.mword sp) 8 4) + 4096 * c.ordinal, tag := (s.w sp (bits (s.mword sp) 4 4) % 256 + c.ordinal) % 256, baseA := (s.chn.get (sprTower sp)).opensA, baseB := (s.chn.get (sprTower sp)).opensB, run := (s.chn.get (sprTower sp)).runs + 1 })
    ∧ (r.chn.get (sprTower sp)).runs = (s.chn.get (sprTower sp)).runs + 1 ∧ Changes [] s r))
  ∧ (∀ (sp : Spire) (p : Plan) (s : State), AtRow .captr sp s → (s.spire sp).plan = some p → p.queued = true → Answers (.captr sp) s (fun
    r => SpireStep sp (fun x => { x with c := true }) s r))
  -- OUTC (R293)
  ∧ (∀ (sp : Spire) (v : Word) (l : List Word) (s : State), AtRow .outc sp s → (s.spire sp).notes = [v] ++ l → Answers (.outc sp) s (fun r
    => SpireStep sp (fun x => { x with notes := l, w := upd x.w (bits (s.mword sp) 12 4) v, c := false }) s r))
  ∧ (∀ (sp : Spire) (s : State), AtRow .outc sp s → (s.spire sp).notes = [] → Answers (.outc sp) s (fun r => r.spire sp =
    { s.spire sp with sstate := 2, wait := .outc (bits (s.mword sp) 12 4) } ∧ Changes [] s r))
  -- EMITR (R226)
  ∧ (∀ (sp : Spire) (p : Plan) (s : State), AtRow .emitr sp s → (s.spire sp).plan = some p → p.write = true → Answers (.emitr sp) s (fun r
    => (r.twr.get (sprTower sp)).run.map (fun x => (x.head, x.zone, x.count, x.cur)) = some (p.head, p.zone, p.count, 0) ∧ (r.twr.get
    (sprTower sp)).run.map (fun x => (x.src, x.meta_, x.writing)) = some (s.w sp (bits (s.mword sp) 8 4), s.w sp (bits (s.mword sp) 4 4),
    false) ∧ (r.spire sp).c = false ∧ r.rd (LAN_STAT_ZONE (sprTower sp).idx) = p.zone % 2 ^ (LAN_STAT_ZONE (sprTower sp).idx).width ∧
    Changes [LAN_STAT (sprTower sp).idx] s r))
  ∧ (∀ (sp : Spire) (s : State), AtRow .emitr sp s → (s.spire sp).plan = none → Answers (.emitr sp) s (fun r => SpireStep sp (fun x =>
    { x with c := true }) s r))
  -- SYNCP (R293)
  ∧ (∀ (sp : Spire) (s : State), AtRow .syncp sp s → (s.spire sp).syncMet = true → Answers (.syncp sp) s (fun r => SpireStep sp (fun x =>
    { x with syncMet := false, synced := false, c := false }) s r))
  ∧ (∀ (sp : Spire) (s : State), AtRow .syncp sp s → (s.spire sp).syncMet = false → s.partnerLost sp = true → Answers (.syncp sp) s (fun r
    => SpireStep sp (fun x => { x with synced := false, c := true }) s r))
  -- WAIT_SATISFIED (R294)
  ∧ (∀ (sp : Spire) (v : Word) (l : List Word) (rd : Nat) (s : State), spireValid sp = true → s.halted = false → s.spires.length = 32 →
    (s.spire sp).sstate = 2 → (s.spire sp).wait = .outc rd → (s.spire sp).notes = [v] ++ l → Answers (.waitSatisfied sp) s (fun r =>
    r.spire sp =
    { s.spire sp with notes := l, w := upd (s.spire sp).w rd v, c := false, pc := ((s.spire sp).pc + 1) % 4096, sstate := 1, wait := .none }
    ∧ Changes [] s r))
  ∧ (∀ (sp : Spire) (rd c : Nat) (s : State), (s.spire sp).sstate = 2 → (s.spire sp).wait = .waitc rd c → s.cmpArmed (16 * sp.idx + c %
    16) = true → Answers (.waitSatisfied sp) s (fun r => r = s))

/-- Band mover and integrity engine microwords. R172, R178, R286, R293. -/
def Obligations.IntegrityRows : Prop :=
  -- BAND_MOVER_PUSH (R293)
  (∀ (sp : Spire) (s : State), AtRow .push sp s → s.w sp (bits (s.mword sp) 4 4) = 0x10000000 → s.w sp (bits (s.mword sp) 8 4) % 16 = 0 →
    s.busRead (sprPort sp) 0x10000000 32 = (s, { data := List.replicate 32 0#8 }) → Answers (.bandMoverPush sp) s (fun r => SpireStep sp
    (fun x => { x with c := true }) s r))
  ∧ (∀ (sp : Spire) (s : State), AtRow .push sp s → s.isOn bSPR 0 = true → s.w sp (bits (s.mword sp) 4 4) = 0x10000000 → sp.idx < 2 → s.w
    sp (bits (s.mword sp) 8 4) % 16 = 3 → (s.spire ⟨0, 0⟩).queue = [] → (s.spire ⟨0, 1⟩).queue = [] → s.busRead (sprPort sp) 0x10000000 32
    = (s, { data := List.replicate 32 0#8 }) → Answers (.bandMoverPush sp) s (fun r => (r.spire ⟨0, 0⟩).queue = [[0x00030000, 0, 0, 0, 0,
    0, 0, 0]] ∧ (r.spire ⟨0, 1⟩).queue = [[0x00030000, 0, 0, 0, 0, 0, 0, 0]] ∧ r.spire sp =
    { s.spire sp with c := false, pc := ((s.spire sp).pc + 1) % 4096 } ∧ Changes [] s r))
  -- HINIT (R286)
  ∧ (∀ (sp : Spire) (s : State), AtRow .hinit sp s → (s.spire sp).intOp = none → s.isOn bFIX 0 = true → Answers (.hinit sp) s (fun r =>
    r.spire sp =
    { s.spire sp with intOp := some (0, s.w sp (bits (s.mword sp) 8 4), s.w sp (bits (s.mword sp) 4 4)), c := false, pc := ((s.spire sp).pc + 1) % 4096 }
    ∧ r.rd ⟨FIX_BUSY, sp.idx, 1⟩ = 1 ∧ Changes [FIX_BUSY] s r))
  ∧ (∀ (sp : Spire) (s : State), AtRow .hinit sp s → (s.spire sp).intOp.isSome = true → Answers (.hinit sp) s (fun r => SpireStep sp (fun
    x => { x with c := true }) s r))
  -- HUPD (R286)
  ∧ (∀ (sp : Spire) (s : State), AtRow .hupd sp s → (s.spire sp).intOp = none → s.isOn bFIX 0 = true → Answers (.hupd sp) s (fun r =>
    (r.spire sp).intOp = some (1, s.w sp (bits (s.mword sp) 8 4), s.w sp (bits (s.mword sp) 4 4)) ∧ (r.spire sp).c = false ∧ r.rd
    ⟨FIX_BUSY, sp.idx, 1⟩ = 1 ∧ Changes [FIX_BUSY] s r))
  -- HFIN (R286)
  ∧ (∀ (sp : Spire) (s : State), AtRow .hfin sp s → (s.spire sp).intOp = none → s.isOn bFIX 0 = true → Answers (.hfin sp) s (fun r =>
    (r.spire sp).intOp = some (2, s.w sp (bits (s.mword sp) 8 4), s.w sp (bits (s.mword sp) 4 4)) ∧ (r.spire sp).c = false ∧ r.rd
    ⟨FIX_BUSY, sp.idx, 1⟩ = 1 ∧ Changes [FIX_BUSY] s r))
  -- GFACC (R172)
  ∧ (∀ (sp : Spire) (s : State), AtRow .gfacc sp s → (s.spire sp).intOp = none → s.isOn bFIX 0 = true → Answers (.gfacc sp) s (fun r =>
    (s.intOk 3 (s.w sp (bits (s.mword sp) 8 4)) = true → r.spire sp =
    { s.spire sp with intOp := some (3, s.w sp (bits (s.mword sp) 8 4), s.w sp (bits (s.mword sp) 4 4)), c := false, pc := ((s.spire sp).pc + 1) % 4096 }
    ∧ r.rd ⟨FIX_BUSY, sp.idx, 1⟩ = 1) ∧ (s.intOk 3 (s.w sp (bits (s.mword sp) 8 4)) = false → SpireStep sp (fun x => { x with c := true })
    s r) ∧ Changes [FIX_BUSY] s r))
  ∧ (∀ (sp : Spire) (s : State), AtRow .gfacc sp s → s.isOn bFIX 0 = false → Answers (.gfacc sp) s (fun r => SpireStep sp (fun x =>
    { x with c := true }) s r))
  -- GFSOLVE (R178)
  ∧ (∀ (sp : Spire) (s : State), AtRow .gfsolve sp s → (s.spire sp).intOp = none → s.isOn bFIX 0 = true → Answers (.gfsolve sp) s (fun r
    => (r.spire sp).intOp = some (4, s.w sp (bits (s.mword sp) 8 4), s.w sp (bits (s.mword sp) 4 4)) ∧ (r.spire sp).c = false ∧ r.rd
    ⟨FIX_BUSY, sp.idx, 1⟩ = 1 ∧ Changes [FIX_BUSY] s r))
  -- INTEGRITY_OP_DONE (R286)
  ∧ (∀ (n ra rb : Nat) (s : State), n < 4 → s.spires.length = 32 → (s.spire ⟨3, n⟩).intOp = some (0, ra, rb) → Answers (.integrityOpDone
    n) s (fun r => r.spire ⟨3, n⟩ = { s.spire ⟨3, n⟩ with intOp := none, ef0 := true } ∧ r.hashAt ra = some [] ∧ r.rd ⟨FIX_BUSY, n, 1⟩ = 0
    ∧ Changes [FIX_BUSY] s r))

/-- Packet engine microwords: receive, open, seal, window, transmit, timer. R334. Of the model, not of the spec: a value that the spec
leaves open is a free value, an uninterpreted constant of Config (log entry 2); that a command whose condition does not hold answers the
unchanged state is the model's reading (log entry 6). -/
def Obligations.ProtocolMicrowordRows : Prop :=
  -- RXNEXT (R334)
  (∀ (sp : Spire) (e : Nat × Nat) (l : List (Nat × Nat)) (s : State), AtRow .rxnext sp s → s.aot.rxq = [e] ++ l → e.1 = sp.idx → Answers
    (.rxnext sp) s (fun r => r.spire sp =
    { s.spire sp with w := upd (s.spire sp).w (bits (s.mword sp) 12 4) (BitVec.ofNat 32 e.2), c := false, pc := ((s.spire sp).pc + 1) % 4096 }
    ∧ r.aot.rxq = l ∧ Changes [] s r))
  ∧ (∀ (sp : Spire) (s : State), AtRow .rxnext sp s → s.aot.rxq = [] → Answers (.rxnext sp) s (fun r => r = s))
  -- SESS (R334)
  ∧ (∀ (sp : Spire) (s : State), AtRow .sess sp s → s.w sp (bits (s.mword sp) 8 4) % 16 = sp.idx → Answers (.sess sp) s (fun r =>
    SpireStep sp (fun x =>
    { x with sess := s.w sp (bits (s.mword sp) 8 4) % 4096, w := upd x.w (bits (s.mword sp) 12 4) (BitVec.ofNat 32 (Config.sessEntry (s.w sp (bits (s.mword sp) 8 4) % 4096))), c := false })
    s r))
  ∧ (∀ (sp : Spire) (s : State), AtRow .sess sp s → ¬ s.w sp (bits (s.mword sp) 8 4) % 16 = sp.idx → Answers (.sess sp) s (fun r =>
    SpireStep sp (fun x => { x with c := true }) s r))
  -- OPEN (R334)
  ∧ (∀ (sp : Spire) (s : State), AtRow .openOp sp s → Answers (.openOp sp) s (fun r => (r.spire sp).c = (s.gcmKey (gcmSlot (s.spire
    sp).sess 0 (Config.openDesc (s.bytes (s.w sp (bits (s.mword sp) 8 4)) 256)).2.1)).isNone ∧ ((s.gcmKey (gcmSlot (s.spire sp).sess 0
    (Config.openDesc (s.bytes (s.w sp (bits (s.mword sp) 8 4)) 256)).2.1)).isSome = true → (r.spire sp).ef0 = true) ∧ (r.spire sp).pc =
    ((s.spire sp).pc + 1) % 4096 ∧ OnlyRegs [] s r))
  ∧ (∀ (sp : Spire) (s : State), AtRow .openOp sp s → s.keys.gcm = [] → Answers (.openOp sp) s (fun r => SpireStep sp (fun x =>
    { x with c := true }) s r))
  -- SEAL (R334)
  ∧ (∀ (sp : Spire) (x : Sess) (s : State), AtRow .seal sp s → s.sessOf (s.spire sp).sess = x → x.st = 2 → Answers (.seal sp) s (fun r =>
    r.sessOf (s.spire sp).sess = (if (Config.sealDesc (s.bytes (s.w sp (bits (s.mword sp) 8 4)) 256)).1 = 8 then
    { x with ackNext := x.ackNext + 1 } else { x with next := x.next + 1, epochPkts := x.epochPkts + 1 }) ∧ r.spire sp =
    { s.spire sp with c := false, pc := ((s.spire sp).pc + 1) % 4096 } ∧ OnlyRegs [AOT_STAT_OPEN.addr] s r))
  ∧ (∀ (sp : Spire) (s : State), AtRow .seal sp s → s.aot.sess = [] → Answers (.seal sp) s (fun r => SpireStep sp (fun x =>
    { x with c := true }) s r))
  -- RWIN (R334)
  ∧ (∀ (sp : Spire) (q : Nat) (s : State), AtRow .rwin sp s → (s.sessOf (s.spire sp).sess).ackSeen = some q → s.w sp (bits (s.mword sp) 4
    4) % 2 = 1 → Answers (.rwin sp) s (fun r => SpireStep sp (fun x =>
    { x with w := upd x.w (bits (s.mword sp) 12 4) (if s.w sp (bits (s.mword sp) 8 4) ≤ q then 1 else 0), c := false }) s r))
  -- RMARK (R334)
  ∧ (∀ (sp : Spire) (q : Nat) (s : State), AtRow .rmark sp s → (s.sessOf (s.spire sp).sess).ackSeen = some q → s.w sp (bits (s.mword sp) 4
    4) % 2 = 1 → q < s.w sp (bits (s.mword sp) 8 4) → Answers (.rmark sp) s (fun r => r.sessOf (s.spire sp).sess =
    { s.sessOf (s.spire sp).sess with ackSeen := some (s.w sp (bits (s.mword sp) 8 4)) } ∧ (r.spire sp).c = false ∧ Changes
    [AOT_STAT_OPEN.addr] s r))
  ∧ (∀ (sp : Spire) (q : Nat) (s : State), AtRow .rmark sp s → (s.sessOf (s.spire sp).sess).ackSeen = some q → s.w sp (bits (s.mword sp) 4
    4) % 2 = 1 → s.w sp (bits (s.mword sp) 8 4) ≤ q → Answers (.rmark sp) s (fun r => SpireStep sp (fun x => { x with c := true }) s r))
  -- TXQ (R334)
  ∧ (∀ (sp : Spire) (s : State), AtRow .txq sp s → s.isOn bETH (s.sessOf (s.spire sp).sess).peer.port = true → Answers (.txq sp) s (fun r
    => (r.spire sp).c = false ∧ (r.spire sp).pc = ((s.spire sp).pc + 1) % 4096 ∧ SameMem s r))
  ∧ (∀ (sp : Spire) (s : State), AtRow .txq sp s → s.isOn bETH (s.sessOf (s.spire sp).sess).peer.port = false → Answers (.txq sp) s (fun r
    => SpireStep sp (fun x => { x with c := true }) s r))
  -- TIMER (R334)
  ∧ (∀ (sp : Spire) (i : Nat) (l : List Nat) (s : State), AtRow .timer sp s → s.aot.expired = [i] ++ l → i % 16 = sp.idx → Answers (.timer
    sp) s (fun r => r.spire sp =
    { s.spire sp with w := upd (s.spire sp).w (bits (s.mword sp) 12 4) (BitVec.ofNat 32 i), c := false, pc := ((s.spire sp).pc + 1) % 4096 }
    ∧ r.aot.expired = l ∧ Changes [] s r))
  ∧ (∀ (sp : Spire) (s : State), AtRow .timer sp s → s.aot.expired = [] → Answers (.timer sp) s (fun r => r = s))

/-- Macro-commands: queue, completion, start, halt, step, control store. R293, R294, R295, R300, R301, R303. -/
def Obligations.MacroCommandRows : Prop :=
  -- POP (R294)
  (∀ (sp : Spire) (c : List Word) (l : List (List Word)) (s : State), AtRow .pop sp s → ¬ sp.cls = 0 → (s.spire sp).queue = [c] ++ l →
    fieldOf (nth c 0 0) 24 8 < 0x40 → Answers (.pop sp) s (fun r => r.spire sp =
    { s.spire sp with queue := l, w := (s.spire sp).w.take 8 ++ c, stack := [], synced := false, syncMet := false, running := some c, routine := none, pc := fieldOf (nth c 0 0) 24 8 }
    ∧ Changes [BTP_STAT] s r))
  ∧ (∀ (sp : Spire) (s : State), AtRow .pop sp s → (s.spire sp).queue = [] → Answers (.pop sp) s (fun r => r.spire sp =
    { s.spire sp with sstate := 2, wait := .pop } ∧ Changes [BTP_STAT] s r))
  -- POST (R295)
  ∧ (∀ (sp : Spire) (s : State), AtRow .post sp s → 8 ≤ fieldOf (BitVec.ofNat 32 (s.w sp 8)) 20 4 → Answers (.post sp) s (fun r => r.spire
    sp = { s.spire sp with running := none, pc := ((s.spire sp).pc + 1) % 4096 } ∧ r.rd ⟨SPR_COMP_PEND sp.cls, sp.idx, 1⟩ = 1 ∧ Changes
    [SPR_COMP_PEND sp.cls, BTP_STAT] s r))
  ∧ (∀ (sp : Spire) (g size prod : Nat) (s : State), AtRow .post sp s → fieldOf (BitVec.ofNat 32 (s.w sp 8)) 20 4 = g → g < 4 → ringSize
    (s.rd (SPR_CRING_CFG_LOG2SIZE sp.cls g)) 4 10 6 = size → s.rd (SPR_CRING_PROD_INDEX sp.cls g) = prod → ¬ (prod + 65536 - s.rd
    (SPR_CRING_CONS_INDEX sp.cls g)) % 65536 = size → Answers (.post sp) s (fun r => r.word (s.rd (SPR_CRING_BASE_BASE sp.cls g) / 16 * 16
    + 16 * (prod % size)) = BitVec.ofNat 32 (bits (s.mword sp) 0 8 * 2 ^ 24 + sp.cls * 2 ^ 22 + sp.idx * 2 ^ 16 + s.w sp 8 % 65536) ∧
    r.word (s.rd (SPR_CRING_BASE_BASE sp.cls g) / 16 * 16 + 16 * (prod % size) + 4) = BitVec.ofNat 32 (s.w sp (bits (s.mword sp) 12 4)) ∧
    r.rd (SPR_CRING_PROD_INDEX sp.cls g) = (prod + 1) % 65536 ∧ (r.spire sp).running = none ∧ OnlyRegs [BTP_STAT, SPR_COMP_PEND sp.cls,
    (SPR_CRING_PROD_INDEX sp.cls g).addr] s r ∧ SameMemOut [(s.rd (SPR_CRING_BASE_BASE sp.cls g) / 16 * 16 + 16 * (prod % size), 16)] s
    r))
  ∧ (∀ (sp : Spire) (g size prod : Nat) (s : State), AtRow .post sp s → fieldOf (BitVec.ofNat 32 (s.w sp 8)) 20 4 = g → g < 8 → ringSize
    (s.rd (SPR_CRING_CFG_LOG2SIZE sp.cls g)) 4 10 6 = size → s.rd (SPR_CRING_PROD_INDEX sp.cls g) = prod → (prod + 65536 - s.rd
    (SPR_CRING_CONS_INDEX sp.cls g)) % 65536 = size → Answers (.post sp) s (fun r => r.rd (SPR_CRING_PROD_INDEX sp.cls g) = prod ∧ r.rd
    ⟨SPR_COMP_PEND sp.cls, sp.idx, 1⟩ = 1 ∧ r.rd ⟨pageBase bSPR sp.cls 0 + 0x10, 25, 1⟩ = 1 ∧ (r.spire sp).running = none ∧ SameMem s r))
  -- SPR_START (R303)
  ∧ (∀ (cls : Nat) (val : Word) (sp : Spire) (s : State), cls < 4 → s.admits (SPR_CMD cls) = true → s.sprEnv.steps = [] → s.sprSel cls =
    some sp → s.isOn bSPR sp.cls = true → s.spires.length = 32 → (s.spire sp).sstate = 0 → fieldOf val 1 1 = 0 → fieldOf val 2 1 = 0 →
    Answers (.sprStart cls val) s (fun r => r.spire sp =
    { s.spire sp with sstate := 1, wait := .none, z := false, n := false, c := false, ef0 := false, ef1 := false, stack := [], pc := (s.spire sp).start, routine := none, running := none }
    ∧ Changes [] s r))
  -- SPR_HALT (R300)
  ∧ (∀ (cls : Nat) (val : Word) (sp : Spire) (s : State), cls < 4 → s.admits (SPR_CMD cls) = true → s.sprEnv.steps = [] → s.sprSel cls =
    some sp → s.spires.length = 32 → ¬ sp.cls = 0 → (s.spire sp).sstate = 2 → (s.spire sp).running = none → fieldOf val 0 1 = 0 → fieldOf
    val 2 1 = 0 → Answers (.sprHalt cls val) s (fun r => r.spire sp = { s.spire sp with sstate := 0, wait := .none } ∧ Changes [] s r))
  -- SPR_STEP (R303)
  ∧ (∀ (cls : Nat) (val : Word) (sp : Spire) (s : State), cls < 4 → s.admits (SPR_CMD cls) = true → s.sprEnv.steps = [] → s.halted = false
    → s.sprSel cls = some sp → spireValid sp = true → s.spires.length = 32 → (s.spire sp).sstate = 0 → csGood (s.spire sp).fetch = true →
    s.mword sp = 0x700000 → fieldOf val 0 1 = 0 → fieldOf val 1 1 = 0 → Answers (.sprStep cls val) s (fun r => r.spire sp =
    { s.spire sp with pc := ((s.spire sp).pc + 1) % 4096 } ∧ Changes [] s r))
  -- SPR_MC_FORCE (R300)
  ∧ (∀ (cls : Nat) (val : Word) (sp : Spire) (s : State), cls < 4 → s.admits (SPR_MC_FORCE cls) = true → s.sprSel cls = some sp →
    s.spires.length = 32 → ¬ sp.cls = 0 → (s.spire sp).sstate = 1 → (s.spire sp).running = none → fieldOf val 0 1 = 1 → Answers
    (.sprMcForce cls val) s (fun r => r.spire sp =
    { s.spire sp with sstate := 3, wait := .none, mcCause := 6, mcAddr := (s.spire sp).pc, mcWord := (s.spire sp).fetch.toNat, mcCmd := 0 }
    ∧ r.rd ⟨pageBase bSPR sp.cls 0 + 0x10, 28, 1⟩ = 1 ∧ SameMem s r))
  -- SPR_CS_WRITE (R301)
  ∧ (∀ (cls : Nat) (val : Word) (sp : Spire) (s : State), cls < 4 → s.admits (SPR_CS_DATA cls) = true → s.on (SPR_CS_ADDR_ALL cls) = false
    → s.on (SPR_CS_ADDR_AUTO_INC cls) = false → s.on (SPR_CS_ADDR_PAR_AUTO cls) = false → s.sprSel cls = some sp → s.spires.length = 32 →
    (s.spire sp).sstate = 0 → Answers (.sprCsWrite cls val) s (fun r => (r.spire sp).csAt (s.rd (SPR_CS_ADDR_ADDR cls)) = BitVec.ofNat 25
    (fieldOf val 0 25) ∧ (r.spire sp).pc = (s.spire sp).pc ∧ Changes [] s r))
  ∧ (∀ (cls : Nat) (val : Word) (sp : Spire) (s : State), cls < 4 → s.admits (SPR_CS_DATA cls) = true → s.on (SPR_CS_ADDR_ALL cls) = false
    → s.sprSel cls = some sp → (s.spire sp).sstate = 1 → Answers (.sprCsWrite cls val) s (fun r => r.rd ⟨pageBase bSPR cls 0 + 0x10, 27,
    1⟩ = 1 ∧ Changes [pageBase bSPR cls 0 + 0x10] s r))
  -- SPR_QPUSH (R293)
  ∧ (∀ (cls k : Nat) (val : Word) (s : State), cls < 4 → k < 4 → s.admits (SPR_QPUSH cls) = true → s.isOn bSPR cls = true →
    s.spires.length = 32 → fieldOf val 0 16 = 2 ^ k → (s.spire ⟨cls, k⟩).queue.length < 16 → Answers (.sprQpush cls val) s (fun r =>
    (r.spire ⟨cls, k⟩).queue = (s.spire ⟨cls, k⟩).queue ++ [upd ((List.range 8).map (fun j => s.reg (SPR_QCMD cls j))) 0 (withField (s.reg
    (SPR_QCMD cls 0)) 16 4 0)] ∧ r.rd (SPR_QRES_RESULT cls) = 0 ∧ Changes [(SPR_QRES_RESULT cls).addr] s r))
  ∧ (∀ (cls k : Nat) (val : Word) (s : State), cls < 4 → k < 4 → s.admits (SPR_QPUSH cls) = true → s.isOn bSPR cls = true → fieldOf val 0
    16 = 2 ^ k → 16 ≤ (s.spire ⟨cls, k⟩).queue.length → Answers (.sprQpush cls val) s (fun r => r.spires = s.spires ∧ r.rd
    (SPR_QRES_RESULT cls) = 1 ∧ r.rd ⟨pageBase bSPR cls 0 + 0x10, 26, 1⟩ = 1 ∧ Changes [(SPR_QRES_RESULT cls).addr, pageBase bSPR cls 0 +
    0x10] s r))
  -- MQ_PUSH (R293)
  ∧ (∀ (core : Nat) (words : List Word) (s : State), core < 2 → s.halted = false → words.length = 8 → s.isOn bSPR 0 = true →
    s.spires.length = 32 → s.sprEnv.mqW.length = 4 → s.sprEnv.mqRes.length = 4 → (s.spire ⟨0, 0⟩).queue = [] → Answers (.mqPush core words
    1) s (fun r => (r.spire ⟨0, 0⟩).queue = [upd words 0 (withField (nth words 0 0) 16 4 0)] ∧ nth r.sprEnv.mqRes core 9 = 0 ∧ Changes []
    s r))
  ∧ (∀ (core : Nat) (words : List Word) (s : State), core < 4 → s.halted = false → s.sprEnv.mqRes.length = 4 → Answers (.mqPush core words
    0x31) s (fun r => r.spires = s.spires ∧ nth r.sprEnv.mqRes core 9 = 2 ∧ Changes [] s r))

/-- Base image routines for reads, writes, seeks and head switches. R61, R136, R142, R287, R298. Of the model, not of the spec: that a
command whose condition does not hold answers the unchanged state is the model's reading (log entry 6). -/
def Obligations.BaseImageMediaRows : Prop :=
  -- READ_RUN (R287)
  (∀ (sp : Spire) (s : State), sp.cls = 0 → (s.spire sp).sstate = 0 → Answers (.readRun sp) s (fun r => r = s))
  ∧ (∀ (sp : Spire) (c : List Word) (q : State) (p : Plan) (s : State), Running sp s → sp.cls = 0 → (s.spire sp).running = some c →
    (s.spire sp).routine = none → (s.spire sp).pc = 0x10 → fieldOf (nth c 0 0) 24 8 = 0x10 → s.imgPlan sp false (s.cw sp 6) = some (q, p)
    → s.imgLead sp = true → ((q.captr sp p (s.cw sp 4) (s.cw sp 5 % 256)).armAll sp ((q.captr sp p (s.cw sp 4) (s.cw sp 5 % 256)).readArms
    sp 0 0 true)).2 = false → Answers (.readRun sp) s (fun r => (r.spire sp).routine = some { op := 0x10, stage := 1 } ∧ (r.spire sp).plan
    = some { p with queued := true } ∧ (r.chn.get (sprTower sp)).runs = (s.chn.get (sprTower sp)).runs + 1 ∧ SameMem s r))
  -- WRITE_RUN (R298)
  ∧ (∀ (sp : Spire) (c : List Word) (q : State) (p : Plan) (s : State), Running sp s → sp.cls = 0 → (s.spire sp).running = some c →
    (s.spire sp).routine = none → (s.spire sp).pc = 0x11 → fieldOf (nth c 0 0) 24 8 = 0x11 → s.imgPlan sp true writeMargin = some (q, p) →
    s.writeBarred sp = false → sp.idx % 4 = 0 → (q.busWord (sprPort sp) (s.cw sp 6 / 4 * 4)).2.2 = true → (q.busWord (sprPort sp) (s.cw sp
    6 / 4 * 4)).2.1.toNat = s.cw sp 7 → ((((q.busWord (sprPort sp) (s.cw sp 6 / 4 * 4)).1.emitr sp p (s.cw sp 3) (s.cw sp 4)).captr sp p 0
    (s.cw sp 5 % 256)).armAll sp ((((q.busWord (sprPort sp) (s.cw sp 6 / 4 * 4)).1.emitr sp p (s.cw sp 3) (s.cw sp 4)).captr sp p 0 (s.cw
    sp 5 % 256)).writeArms sp 0)).2 = false → Answers (.writeRun sp) s (fun r => (r.spire sp).routine = some { op := 0x11, stage := 1 } ∧
    (r.twr.get (sprTower sp)).run.map (fun x => (x.head, x.zone, x.count, x.src, x.meta_, x.start)) = some (p.head, p.zone, p.count, s.cw
    sp 3, s.cw sp 4, (nth c 7 0).toNat) ∧ (r.chn.get (sprTower sp)).runs = (s.chn.get (sprTower sp)).runs + 1 ∧ SameMem s r))
  -- READ_RUN (R287)
  ∧ (∀ (sp : Spire) (c : List Word) (s : State), Running sp s → sp.cls = 0 → (s.spire sp).running = some c → (s.spire sp).routine = some
    { op := 0x10, stage := 9 } → (s.spire sp).queue = [] → 8 ≤ fieldOf (BitVec.ofNat 32 (s.w sp 8)) 20 4 → Answers (.readRun sp) s (fun r
    => r.spire sp = { s.spire sp with running := none, routine := none, sstate := 2, wait := .pop } ∧ r.rd ⟨SPR_COMP_PEND sp.cls, sp.idx,
    1⟩ = 1 ∧ Changes [SPR_COMP_PEND sp.cls, BTP_STAT] s r))
  ∧ (∀ (sp : Spire) (c : List Word) (s : State), Running sp s → sp.cls = 0 → (s.spire sp).running = some c → (s.spire sp).routine = none →
    (s.spire sp).pc = 0x10 → fieldOf (nth c 0 0) 24 8 = 0x10 → fieldOf (nth c 0 0) 16 4 = 0 → 12 ≤ s.w sp 9 / 2 ^ 28 → Answers (.readRun
    sp) s (fun r => (r.spire sp).routine = some { op := 0x10, stage := 9, status := 1 } ∧ (r.spire sp).sstate = 1 ∧ (r.spire sp).w =
    (s.spire sp).w ∧ Changes [] s r))
  -- WRITE_RUN (R298)
  ∧ (∀ (sp : Spire) (c : List Word) (s : State), Running sp s → sp.cls = 0 → (s.spire sp).running = some c → (s.spire sp).routine = some
    { op := 0x11, stage := 9 } → (s.spire sp).queue = [] → 8 ≤ fieldOf (BitVec.ofNat 32 (s.w sp 8)) 20 4 → ¬ sp.idx % 4 = 0 → Answers
    (.writeRun sp) s (fun r => r.spire sp = { s.spire sp with running := none, routine := none, sstate := 2, wait := .pop } ∧ r.rd
    ⟨SPR_COMP_PEND sp.cls, sp.idx, 1⟩ = 1 ∧ Changes [SPR_COMP_PEND sp.cls, BTP_STAT] s r))
  ∧ (∀ (sp : Spire) (c : List Word) (s : State), Running sp s → sp.cls = 0 → (s.spire sp).running = some c → (s.spire sp).routine = none →
    (s.spire sp).pc = 0x11 → fieldOf (nth c 0 0) 24 8 = 0x11 → fieldOf (nth c 0 0) 16 4 = 0 → 12 ≤ s.w sp 9 / 2 ^ 28 → Answers (.writeRun
    sp) s (fun r => (r.spire sp).routine = some { op := 0x11, stage := 9, status := 1 } ∧ (r.spire sp).sstate = 1 ∧ (r.spire sp).w =
    (s.spire sp).w ∧ Changes [] s r))
  -- SEEK (R142)
  ∧ (∀ (sp : Spire) (c : List Word) (s : State), Running sp s → sp.cls = 0 → (s.spire sp).running = some c → (s.spire sp).routine = some
    { op := 0x18, stage := 1 } → s.mode (sprTower sp) = mFOLLOW → (s.spire sp).queue = [] → 8 ≤ fieldOf (BitVec.ofNat 32 (s.w sp 8)) 20 4
    → Answers (.seek sp) s (fun r => r.spire sp = { s.spire sp with running := none, routine := none, sstate := 2, wait := .pop } ∧ r.rd
    ⟨SPR_COMP_PEND sp.cls, sp.idx, 1⟩ = 1 ∧ Changes [SPR_COMP_PEND sp.cls, BTP_STAT] s r))
  ∧ (∀ (sp : Spire) (c : List Word) (q : State) (s : State), Running sp s → sp.cls = 0 → (s.spire sp).running = some c → (s.spire
    sp).routine = none → (s.spire sp).pc = 0x18 → fieldOf (nth c 0 0) 24 8 = 0x18 → s.storeAll sp [(SRV_TRACK (sprTower sp).idx, s.w sp 9
    * 256 % 2 ^ 32), (SRV_ENG_PROF_TGT (sprTower sp).idx, s.w sp 9 * 256 % 2 ^ 32), (SRV_ENG_PROF_CTL (sprTower sp).idx, 2 ^ 31)] = (q,
    true) → Answers (.seek sp) s (fun r => r = q.setRoutine sp (some { op := 0x18, stage := 1 })))
  -- HEAD_SWITCH (R136)
  ∧ (∀ (sp : Spire) (c : List Word) (s : State), Running sp s → sp.cls = 0 → (s.spire sp).running = some c → (s.spire sp).routine = some
    { op := 0x19, stage := 1 } → s.on (SRV_MODE_HEAD_PEND (sprTower sp).idx) = false → (s.spire sp).queue = [] → 8 ≤ fieldOf (BitVec.ofNat
    32 (s.w sp 8)) 20 4 → Answers (.headSwitch sp) s (fun r => r.spire sp =
    { s.spire sp with running := none, routine := none, sstate := 2, wait := .pop } ∧ r.rd ⟨SPR_COMP_PEND sp.cls, sp.idx, 1⟩ = 1 ∧ Changes
    [SPR_COMP_PEND sp.cls, BTP_STAT] s r))
  -- ANGLE_EVENT (R61)
  ∧ (∀ (sp : Spire) (c : List Word) (s : State), Running sp s → sp.cls = 0 → (s.spire sp).running = some c → (s.spire sp).routine = some
    { op := 0x1A, stage := 1 } → (s.spire sp).queue = [] → 8 ≤ fieldOf (BitVec.ofNat 32 (s.w sp 8)) 20 4 → Answers (.angleEvent sp) s (fun
    r => r.spire sp = { s.spire sp with running := none, routine := none, sstate := 2, wait := .pop } ∧ r.rd ⟨SPR_COMP_PEND sp.cls,
    sp.idx, 1⟩ = 1 ∧ Changes [SPR_COMP_PEND sp.cls, BTP_STAT] s r))
  ∧ (∀ (sp : Spire) (c : List Word) (s : State), Running sp s → sp.cls = 0 → (s.spire sp).running = some c → (s.spire sp).routine = none →
    (s.spire sp).pc = 0x1A → fieldOf (nth c 0 0) 24 8 = 0x1A → s.cmpArmed (16 * sp.idx) = false → s.isOn bATB 0 = true → s.w sp 10 % 256 =
    s.epoch → 2 ^ 31 ≤ (s.localAngle (sprTower sp) + 2 ^ 32 - s.w sp 9) % 2 ^ 32 → Answers (.angleEvent sp) s (fun r => r.cmpArmed (16 *
    sp.idx) = true ∧ r.rd (ATB_CMP_TGT_TGT (16 * sp.idx)) = s.w sp 9 ∧ r.spire sp =
    { s.spire sp with routine := some { op := 0x1A, stage := 1 }, sstate := 2, wait := .waitc 0 0, c := (r.spire sp).c } ∧ Changes
    [ATB_CMP_TGT (16 * sp.idx), ATB_CMP_CTL (16 * sp.idx)] s r))

/-- Base image routines of band movers and integrity engines. R167, R172, R184, R272, R286. Of the model, not of the spec: a value that
the spec leaves open is a free value, an uninterpreted constant of Config (log entry 2). -/
def Obligations.BaseImageObjectRows : Prop :=
  -- MOVE_RUN (R184)
  (∀ (sp : Spire) (c : List Word) (cmds : List (List Word)) (failed : Nat) (s : State), Running sp s → sp.cls = 2 → (s.spire sp).running =
    some c → (s.spire sp).routine = some { op := 0x20, stage := 2 } → (s.spire sp).ef1 = true → (s.spire sp).queue = [] → 8 ≤ fieldOf
    (BitVec.ofNat 32 (s.w sp 8)) 20 4 → Answers (.moveRun sp cmds failed) s (fun r => r.spire sp =
    { s.spire sp with ef1 := false, running := none, routine := none, sstate := 2, wait := .pop } ∧ r.rd ⟨SPR_COMP_PEND sp.cls, sp.idx, 1⟩
    = 1 ∧ Changes [SPR_COMP_PEND sp.cls, BTP_STAT] s r))
  ∧ (∀ (sp : Spire) (c : List Word) (cmd : List Word) (s : State), Running sp s → sp.cls = 2 → (s.spire sp).running = some c → (s.spire
    sp).routine = none → (s.spire sp).pc = 0x20 → fieldOf (nth c 0 0) 24 8 = 0x20 → sp.idx < 2 → s.isOn bSPR 0 = true → cmd.length = 8 →
    fieldOf (nth cmd 0 0) 16 4 = 2 → (s.spire ⟨0, 1⟩).queue = [] → Answers (.moveRun sp [cmd] 0) s (fun r => (r.spire ⟨0, 1⟩).queue = [upd
    cmd 0 (withField (nth cmd 0 0) 16 4 0)] ∧ (r.spire sp).routine = some { op := 0x20, stage := 2, k := 1 } ∧ Changes [] s r))
  -- TAIL_SCAN (R167)
  ∧ (∀ (sp : Spire) (c : List Word) (tail : List (Nat × List Byte)) (head band : Nat) (s : State), Running sp s → sp.cls = 2 → (s.spire
    sp).running = some c → (s.spire sp).routine = none → (s.spire sp).pc = 0x21 → fieldOf (nth c 0 0) 24 8 = 0x21 → (s.spire sp).queue =
    [] → 8 ≤ fieldOf (BitVec.ofNat 32 (s.w sp 8)) 20 4 → Answers (.tailScan sp tail head band 0) s (fun r => ((r.lay.get (sprTower
    sp)).bandOf head band).slips = (tail.filter (fun e => decide (65536 ≤ e.1) && byteAt e.2 15 / 2 % 2 == 1)).map (fun e => (leNat
    ((e.2.drop 8).take 5), e.1)) ∧ r.spire sp = { s.spire sp with running := none, routine := none, sstate := 2, wait := .pop } ∧ r.rd
    ⟨SPR_COMP_PEND sp.cls, sp.idx, 1⟩ = 1 ∧ Changes [SPR_COMP_PEND sp.cls, BTP_STAT] s r))
  -- HASH (R286)
  ∧ (∀ (sp : Spire) (c : List Word) (s : State), Running sp s → sp.cls = 3 → (s.spire sp).running = some c → (s.spire sp).routine = none →
    (s.spire sp).pc = 0x30 → fieldOf (nth c 0 0) 24 8 = 0x30 → (s.spire sp).intOp = none → s.isOn bFIX 0 = true → Answers (.hash sp) s
    (fun r => r.spire sp = { s.spire sp with intOp := some (0, s.imgField sp 0, 0), routine := some { op := 0x30, stage := 1 } } ∧ r.rd
    ⟨FIX_BUSY, sp.idx, 1⟩ = 1 ∧ Changes [FIX_BUSY] s r))
  ∧ (∀ (sp : Spire) (c : List Word) (s : State), Running sp s → sp.cls = 3 → (s.spire sp).running = some c → (s.spire sp).routine = some
    { op := 0x30, stage := 2 } → (s.spire sp).ef0 = true → (s.spire sp).queue = [] → 8 ≤ fieldOf (BitVec.ofNat 32 (s.w sp 8)) 20 4 →
    Answers (.hash sp) s (fun r => r.spire sp =
    { s.spire sp with ef0 := false, running := none, routine := none, sstate := 2, wait := .pop } ∧ r.rd ⟨SPR_COMP_PEND sp.cls, sp.idx, 1⟩
    = 1 ∧ Changes [SPR_COMP_PEND sp.cls, BTP_STAT] s r))
  -- PARITY_ACC (R172)
  ∧ (∀ (sp : Spire) (c : List Word) (s : State), Running sp s → sp.cls = 3 → (s.spire sp).running = some c → (s.spire sp).routine = none →
    (s.spire sp).pc = 0x31 → fieldOf (nth c 0 0) 24 8 = 0x31 → (s.spire sp).intOp = none → s.isOn bFIX 0 = true → Answers (.parityAcc sp)
    s (fun r => (s.intOk 3 (s.imgField sp 0) = true → r.spire sp =
    { s.spire sp with intOp := some (3, s.imgField sp 0, 0), routine := some { op := 0x31, k := 1 } } ∧ r.rd ⟨FIX_BUSY, sp.idx, 1⟩ = 1 ∧
    Changes [FIX_BUSY] s r) ∧ (s.intOk 3 (s.imgField sp 0) = false → r = s.imgPost sp 1 0 0)))
  -- PARITY_OUT (R172)
  ∧ (∀ (sp : Spire) (c : List Word) (s : State), Running sp s → sp.cls = 3 → (s.spire sp).running = some c → (s.spire sp).routine = none →
    (s.spire sp).pc = 0x32 → fieldOf (nth c 0 0) 24 8 = 0x32 → Answers (.parityOut sp) s (fun r => ((s.busRead 11 (Config.imgField 0x32 0
    ((s.spire sp).w.drop 8)) (s.imgField sp 2)).2.err.isEmpty = true ∧ ((s.busRead 11 (Config.imgField 0x32 0 ((s.spire sp).w.drop 8))
    (s.imgField sp 2)).1.busWrite 11 (s.imgField sp 1) (s.busRead 11 (Config.imgField 0x32 0 ((s.spire sp).w.drop 8)) (s.imgField sp
    2)).2.data).2 = true → r = ((s.busRead 11 (Config.imgField 0x32 0 ((s.spire sp).w.drop 8)) (s.imgField sp 2)).1.busWrite 11
    (s.imgField sp 1) (s.busRead 11 (Config.imgField 0x32 0 ((s.spire sp).w.drop 8)) (s.imgField sp 2)).2.data).1.imgPost sp 0 0 0) ∧
    ((s.busRead 11 (Config.imgField 0x32 0 ((s.spire sp).w.drop 8)) (s.imgField sp 2)).2.err.isEmpty = false ∨ ((s.busRead 11
    (Config.imgField 0x32 0 ((s.spire sp).w.drop 8)) (s.imgField sp 2)).1.busWrite 11 (s.imgField sp 1) (s.busRead 11 (Config.imgField
    0x32 0 ((s.spire sp).w.drop 8)) (s.imgField sp 2)).2.data).2 = false → (r.spire sp).sstate = 3 ∧ (r.spire sp).mcCause = 3)))
  -- REBUILD (R272)
  ∧ (∀ (sp : Spire) (c : List Word) (s : State), Running sp s → sp.cls = 3 → (s.spire sp).running = some c → (s.spire sp).routine = none →
    (s.spire sp).pc = 0x33 → fieldOf (nth c 0 0) 24 8 = 0x33 → (s.spire sp).intOp = none → s.isOn bFIX 0 = true → Answers (.rebuild sp) s
    (fun r => r.spire sp = { s.spire sp with intOp := some (4, s.imgField sp 0, 0), routine := some { op := 0x33, stage := 1 } } ∧ r.rd
    ⟨FIX_BUSY, sp.idx, 1⟩ = 1 ∧ Changes [FIX_BUSY] s r))
  ∧ (∀ (sp : Spire) (c : List Word) (s : State), Running sp s → sp.cls = 3 → (s.spire sp).running = some c → (s.spire sp).routine = some
    { op := 0x33, stage := 1 } → (s.spire sp).ef0 = true → (s.spire sp).queue = [] → 8 ≤ fieldOf (BitVec.ofNat 32 (s.w sp 8)) 20 4 →
    Answers (.rebuild sp) s (fun r => r.spire sp =
    { s.spire sp with ef0 := false, running := none, routine := none, sstate := 2, wait := .pop } ∧ r.rd ⟨SPR_COMP_PEND sp.cls, sp.idx, 1⟩
    = 1 ∧ Changes [SPR_COMP_PEND sp.cls, BTP_STAT] s r))

/-- Ethernet and firmware frame commands. R306, R307, R309, R327, R337. Of the model, not of the spec: a value that the spec leaves open
is a free value, an uninterpreted constant of Config (log entry 2); that a command whose condition does not hold answers the unchanged
state is the model's reading (log entry 6). -/
def Obligations.EthernetRows : Prop :=
  -- ETH_FRAME_RX (R306)
  (∀ (p : Nat) (l : List Byte) (s : State), p < 2 → s.isOn bETH p = true → fcsOk l = false → Answers (.ethFrameRx p l) s (fun r => r.rd
    (ETH_CNT_COUNT p 0) = satAdd 32 (s.rd (ETH_CNT_COUNT p 0)) 1 ∧ r.rd (ETH_CNT_COUNT p 2) = satAdd 32 (s.rd (ETH_CNT_COUNT p 2)) 1 ∧
    Changes [(ETH_CNT_COUNT p 0).addr, (ETH_CNT_COUNT p 2).addr] s r))
  ∧ (∀ (p : Nat) (l : List Byte) (s : State), p < 2 → s.isOn bETH p = true → fcsOk l = true → l.length < 64 ∨ s.maxFrame p + (if
    frameTagged l then 4 else 0) < l.length → Answers (.ethFrameRx p l) s (fun r => r.rd (ETH_CNT_COUNT p 0) = satAdd 32 (s.rd
    (ETH_CNT_COUNT p 0)) 1 ∧ r.rd (ETH_CNT_COUNT p 3) = satAdd 32 (s.rd (ETH_CNT_COUNT p 3)) 1 ∧ Changes [(ETH_CNT_COUNT p 0).addr,
    (ETH_CNT_COUNT p 3).addr] s r))
  ∧ (∀ (p : Nat) (l : List Byte) (s : State), FrameIn p l s → isPause l = true → Answers (.ethFrameRx p l) s (fun r => r.rd (ETH_CNT_COUNT
    p 5) = satAdd 32 (s.rd (ETH_CNT_COUNT p 5)) 1 ∧ r.aot = s.aot ∧ Changes [(ETH_CNT_COUNT p 0).addr, (ETH_CNT_COUNT p 5).addr] s r))
  ∧ (∀ (p : Nat) (l : List Byte) (s : State), FrameIn p l s → isPause l = false → s.vlanOk p (frameVid l) = false ∨ s.dstOk p (frameDst l)
    (frameType l) = false ∨ [etARP, etIP4, etIP6, etLLDP].contains (frameType l) = false → Answers (.ethFrameRx p l) s (fun r => r.rd
    (ETH_CNT_COUNT p 4) = satAdd 32 (s.rd (ETH_CNT_COUNT p 4)) 1 ∧ r.aot = s.aot ∧ Changes [(ETH_CNT_COUNT p 0).addr, (ETH_CNT_COUNT p
    4).addr] s r))
  ∧ (∀ (p : Nat) (l : List Byte) (s : State), FrameIn p l s → isPause l = false → s.vlanOk p (frameVid l) = true → s.dstOk p (frameDst l)
    (frameType l) = true → frameType l = etARP → ¬ (nth s.eth p {}).loopNow = 4 → s.engineUp (portEngine p) = true → Answers (.ethFrameRx
    p l) s (fun r => r.aot.rxq = s.aot.rxq ++ [(portEngine p, s.free % 2 ^ 32)] ∧ r.freeCount = s.freeCount + 1 ∧ Changes [(ETH_CNT_COUNT
    p 0).addr] s r))
  ∧ (∀ (p : Nat) (l : List Byte) (s : State), FrameIn p l s → isPause l = false → s.vlanOk p (frameVid l) = true → s.dstOk p (frameDst l)
    (frameType l) = true → frameType l = etLLDP → FwRoom s → Answers (.ethFrameRx p l) s (fun r => FwRecord p 0 0 l s r ∧ r.rd
    (ETH_CNT_COUNT p 0) = satAdd 32 (s.rd (ETH_CNT_COUNT p 0)) 1 ∧ SameMemOut [(fwSlot s, 16 + l.length)] s r))
  ∧ (∀ (p : Nat) (l : List Byte) (q : IpPacket) (s : State), FrameIn p l s → isPause l = false → s.vlanOk p (frameVid l) = true → s.dstOk
    p (frameDst l) (frameType l) = true → ipOf l = some q → s.ipMine p q = true → q.icmp = false → q.udpOk = true → atBe q.load 2 2 = s.rd
    AOT_UDP_PORT → s.isOn bAOT 0 = true → ¬ (nth s.eth p {}).loopNow = 4 → s.engineUp (portEngine p) = true → Answers (.ethFrameRx p l) s
    (fun r => r.aot.rxq = s.aot.rxq ++ [(portEngine p, s.free % 2 ^ 32)] ∧ r.freeCount = s.freeCount + 1 ∧ Changes [(ETH_CNT_COUNT p
    0).addr] s r))
  ∧ (∀ (p : Nat) (l : List Byte) (q : IpPacket) (s : State), FrameIn p l s → isPause l = false → s.vlanOk p (frameVid l) = true → s.dstOk
    p (frameDst l) (frameType l) = true → ipOf l = some q → s.ipMine p q = false ∨ (q.icmp = false ∧ q.udpOk = false) → Answers
    (.ethFrameRx p l) s (fun r => r.rd (ETH_CNT_COUNT p 6) = satAdd 32 (s.rd (ETH_CNT_COUNT p 6)) 1 ∧ r.aot = s.aot ∧ Changes
    [(ETH_CNT_COUNT p 0).addr, (ETH_CNT_COUNT p 6).addr] s r))
  -- LINK_UP (R306)
  ∧ (∀ (p fec : Nat) (s : State), p < 2 → s.isOn bETH p = true → Answers (.linkUp p fec) s (fun r => r.rd (ETH_STAT_LINK p) = 1 ∧ r.on
    (ETH_STAT_SPEED p) = mode25 (nth s.eth p {}).modeNow ∧ r.on (ETH_STAT_AN_DONE p) = modeKr (nth s.eth p {}).modeNow ∧ r.on
    (ETH_STAT_LT_DONE p) = (modeKr (nth s.eth p {}).modeNow && s.on (ETH_CFG_LT_EN p)) ∧ r.rd (ETH_STAT_FEC_ACT p) = fecOf (nth s.eth p
    {}).modeNow (s.rd (ETH_CFG_FEC p)) fec ∧ r.rd (ETH_STAT_BLOCK_LOCK p) = 1 ∧ r.rd (ETH_STAT_HI_BER p) = 0 ∧ r.rd ⟨pageBase bETH p 0 +
    0x10, 28, 1⟩ = 1 ∧ Changes [(ETH_STAT_LINK p).addr, pageBase bETH p 0 + 0x10] s r))
  -- LINK_DOWN (R307)
  ∧ (∀ (p : Nat) (s : State), p < 2 → s.on (ETH_STAT_LINK p) = true → Answers (.linkDown p false) s (fun r => r.rd (ETH_STAT_LINK p) = 0 ∧
    r.rd (ETH_STAT_BLOCK_LOCK p) = 0 ∧ r.rd (ETH_STAT_HI_BER p) = s.rd (ETH_STAT_HI_BER p) ∧ r.rd ⟨pageBase bETH p 0 + 0x10, 27, 1⟩ = 1 ∧
    r.aot = s.aot ∧ Changes [(ETH_STAT_LINK p).addr, pageBase bETH p 0 + 0x10] s r))
  -- ARP_REQUEST (R309)
  ∧ (∀ (p ip : Nat) (s : State), p < 2 → s.isOn bETH p = true → s.engineUp (8 * p) = true → s.on (ETH_STAT_LINK p) = true → (s.ip4s
    p).contains ip = true → s.eth.length = 2 → Answers (.arpRequest p ip) s (fun r => (nth r.eth p {}).lastTx = some { typ := 16 } ∧ r.rd
    (ETH_CNT_COUNT p 1) = satAdd 32 (s.rd (ETH_CNT_COUNT p 1)) 1 ∧ Changes [(ETH_CNT_COUNT p 1).addr] s r))
  ∧ (∀ (p ip : Nat) (s : State), p < 2 → (s.ip4s p).contains ip = false → Answers (.arpRequest p ip) s (fun r => r = s))
  -- NEIGHBOUR_SOLICITATION (R309)
  ∧ (∀ (p ip : Nat) (s : State), p < 2 → s.isOn bETH p = true → s.engineUp (8 * p) = true → s.on (ETH_STAT_LINK p) = true → (s.ip6s
    p).contains ip = true → s.eth.length = 2 → Answers (.neighbourSolicitation p ip) s (fun r => (nth r.eth p {}).lastTx = some
    { typ := 17 } ∧ r.rd (ETH_CNT_COUNT p 1) = satAdd 32 (s.rd (ETH_CNT_COUNT p 1)) 1 ∧ Changes [(ETH_CNT_COUNT p 1).addr] s r))
  -- ECHO_REQUEST (R309)
  ∧ (∀ (p ip : Nat) (s : State), p < 2 → s.isOn bETH p = true → s.engineUp (8 * p) = true → s.on (ETH_STAT_LINK p) = true → (s.ip4s
    p).contains ip = true → s.eth.length = 2 → ¬ (nth s.eth p {}).echoSec = s.usNow / 1000000 → 1 ≤ s.rd (ETH_ICMP_RATE p) → Answers
    (.echoRequest p false ip) s (fun r => (nth r.eth p {}).lastTx = some { typ := 18 } ∧ (nth r.eth p {}).echoN = 1 ∧ (nth r.eth p
    {}).echoSec = s.usNow / 1000000 ∧ Changes [(ETH_CNT_COUNT p 1).addr] s r))
  ∧ (∀ (p ip : Nat) (s : State), p < 2 → s.isOn bETH p = true → s.engineUp (8 * p) = true → (nth s.eth p {}).echoSec = s.usNow / 1000000 →
    s.rd (ETH_ICMP_RATE p) ≤ (nth s.eth p {}).echoN → Answers (.echoRequest p false ip) s (fun r => r.eth = s.eth ∧ r.rd (ETH_CNT_COUNT p
    6) = satAdd 32 (s.rd (ETH_CNT_COUNT p 6)) 1 ∧ Changes [(ETH_CNT_COUNT p 6).addr] s r))
  -- FWTX_SEND (R337)
  ∧ (∀ (s : State), s.isOn bAOT 0 = true → ¬ s.rd AOT_FWTX_PROD_INDEX = s.rd AOT_FWTX_CONS_INDEX → s.engineUp 0 = true → s.engineUp 8 =
    true → Answers (.fwtxSend) s (fun r => r.rd AOT_FWTX_CONS_INDEX = (s.rd AOT_FWTX_CONS_INDEX + 1) % 65536 ∧ SameMem s r))
  ∧ (∀ (s : State), s.rd AOT_FWTX_PROD_INDEX = s.rd AOT_FWTX_CONS_INDEX → Answers (.fwtxSend) s (fun r => r = s))
  -- ETH_CNT_CLR (R306)
  ∧ (∀ (p : Nat) (val : Word) (s : State), p < 2 → s.admits (ETH_CNT_CLR p) = true → fieldOf val 0 1 = 1 → Answers (.ethCntClr p val) s
    (fun r => (∀ n, n < 10 → r.reg (ETH_CNT p n) = 0) ∧ r.reg (ETH_CNT p 9) = 0 ∧ ChangesBlocks [bETH] s r))
  -- AOT_CNT_CLR (R327)
  ∧ (∀ (val : Word) (s : State), s.admits AOT_CNT_CLR = true → fieldOf val 0 1 = 1 → Answers (.aotCntClr val) s (fun r => (∀ n, n < 15 →
    r.reg (AOT_CNT n) = 0) ∧ r.reg (AOT_CNT 14) = 0 ∧ ChangesBlocks [bAOT] s r))

/-- AOT packet commands: each packet of a session that passes the checks. R318, R322, R324, R326, R331, R361. Of the model, not of the
spec: a value that the spec leaves open is a free value, an uninterpreted constant of Config (log entry 2); that a command whose condition
does not hold answers the unchanged state is the model's reading (log entry 6). -/
def Obligations.PacketRows : Prop :=
  -- HELLO (R318)
  (∀ (rx : Peer) (h : AotHdr) (body frame : List Byte) (s : State), s.isOn bAOT 0 = false → Answers (.hello rx h body frame) s (fun r => r
    = s))
  ∧ (∀ (rx : Peer) (h : AotHdr) (body frame : List Byte) (s : State), s.isOn bAOT 0 = true → s.aot.closingAll = false → s.engineUp
    (portEngine rx.port) = true → hdrGood h 0 body = true → h.version = 0 → (s.helloRate rx.ip).2 = false → Answers (.hello rx h body
    frame) s (fun r => r.rd (AOT_CNT_COUNT 10) = satAdd 32 (s.rd (AOT_CNT_COUNT 10)) 1 ∧ r.rd ⟨pageBase bAOT 0 0 + 0x10, 24, 1⟩ = 1 ∧
    r.aot.sess = s.aot.sess ∧ Changes [(AOT_CNT_COUNT 10).addr, pageBase bAOT 0 0 + 0x10] s r))
  ∧ (∀ (rx : Peer) (h : AotHdr) (body frame : List Byte) (s : State), HelloIn rx h body s → ¬ s.rd DOM_MSTATE_MSTATE = 1 ∨ helloOk body =
    false → rx.port < 2 → s.isOn bETH rx.port = true → s.on (ETH_STAT_LINK rx.port) = true → s.eth.length = 2 → Answers (.hello rx h body
    frame) s (fun r => FwRecord rx.port 1 0 frame s r ∧ (nth r.eth rx.port {}).lastTx = some
    { typ := 12, wire := [if s.rd DOM_MSTATE_MSTATE = 1 then 3 else 2] } ∧ r.rd (AOT_CNT_COUNT 14) = satAdd 32 (s.rd (AOT_CNT_COUNT 14)) 1
    ∧ r.aot.sess = s.aot.sess ∧ SameMemOut [(fwSlot s, 16 + frame.length)] s r))
  ∧ (∀ (rx : Peer) (h : AotHdr) (body frame : List Byte) (s : State), HelloIn rx h body s → s.rd DOM_MSTATE_MSTATE = 1 → helloOk body =
    true → s.aot.sess = [] → s.on AOT_CFG_COOKIE_ALWAYS = true → (List.range 2).all (fun k => !(atBe body 133 16 == cookieOf (nth
    [s.aot.cookieKey, s.aot.cookiePrev] k 0) rx (atBe body 4 32))) = true → rx.port < 2 → s.isOn bETH rx.port = true → s.on (ETH_STAT_LINK
    rx.port) = true → s.eth.length = 2 → Answers (.hello rx h body frame) s (fun r => (nth r.eth rx.port {}).lastTx = some
    { typ := 1, wire := beBytes 16 (cookieOf s.aot.cookieKey rx (atBe body 4 32)) } ∧ FwRecord rx.port 1 0 frame s r ∧ r.aot.sess = [] ∧
    SameMemOut [(fwSlot s, 16 + frame.length)] s r))
  ∧ (∀ (rx : Peer) (h : AotHdr) (body frame : List Byte) (v : Nat) (s : State), HelloIn rx h body s → s.rd DOM_MSTATE_MSTATE = 1 → helloOk
    body = true → s.aot.sess = [] → s.on AOT_CFG_COOKIE_ALWAYS = false → s.rd AOT_STAT_HANDSHAKE = 0 → versionOf (atBe body 0 1) (s.rd
    AOT_CFG_VER_EN) = some v → Answers (.hello rx h body frame) s (fun r => (r.sessOf (s.free % 4096)).st = 1 ∧ (r.sessOf (s.free %
    4096)).version = v ∧ (r.sessOf (s.free % 4096)).counter = 1 ∧ (r.sessOf (s.free % 4096)).peer = rx ∧ (r.sessOf (s.free % 4096)).random
    = atBe body 4 32 ∧ (r.sessOf (s.free % 4096)).maxPl = min (atBe body 2 2) s.maxPayload ∧ (r.sessOf (s.free % 4096)).transcript.take
    body.length = body ∧ r.gcmKey (gcmSlot (s.free % 4096) 0 0) = some (beNat (hkdfExpand (r.sessOf (s.free % 4096)).prk (aotLabel v "hs
    h2d" ++ sha384 (r.sessOf (s.free % 4096)).transcript) 32)) ∧ r.rd AOT_STAT_HANDSHAKE = 1 ∧ FwRecord rx.port 1 0 frame s r ∧ SameMemOut
    [(fwSlot s, 16 + frame.length)] s r))
  -- AUTH (R324)
  ∧ (∀ (rx : Peer) (h : AotHdr) (body gtag pt : List Byte) (s : State), AuthPart rx h body gtag pt s → FwRoom s → (authHeld s h
    pt).authMsg = none → Answers (.auth rx h body gtag) s (fun r => r.sessOf (h.sid % 4096) = authHeld s h pt ∧ FwRecord rx.port 2 (h.sid
    % 4096) pt s r ∧ SameMemOut [(fwSlot s, 16 + pt.length)] s r))
  ∧ (∀ (rx : Peer) (h : AotHdr) (body gtag pt msg : List Byte) (s : State), AuthPart rx h body gtag pt s → FwRoom s → (authHeld s h
    pt).authMsg = some msg → s.aot.closingAll = false → Answers (.auth rx h body gtag) s (fun r => (∀ a, s.authAnchor (s.sessOf (h.sid %
    4096)) msg = some a → (r.sessOf (h.sid % 4096)).role = a.role ∧ (r.sessOf (h.sid % 4096)).mask = a.mask ∧ (r.sessOf (h.sid %
    4096)).keysLoaded = true ∧ (r.sessOf (h.sid % 4096)).st = 1 ∧ (r.sessOf (h.sid % 4096)).rxSecret = hkdfExpand (s.sessOf (h.sid %
    4096)).prk (aotLabel (s.sessOf (h.sid % 4096)).version "ts h2d" ++ sha384 ((s.sessOf (h.sid % 4096)).transcript ++ msg)) 48 ∧ r.gcmKey
    (gcmSlot (h.sid % 4096) 0 1) = some (epochKey (s.sessOf (h.sid % 4096)).version (r.sessOf (h.sid % 4096)).rxSecret) ∧ r.gcmKey
    (gcmSlot (h.sid % 4096) 1 1) = some (epochKey (s.sessOf (h.sid % 4096)).version (r.sessOf (h.sid % 4096)).txSecret)) ∧ (s.authAnchor
    (s.sessOf (h.sid % 4096)) msg = none → r.sessOf (h.sid % 4096) = { counter := (s.sessOf (h.sid % 4096)).counter } ∧ r.gcmKey (gcmSlot
    (h.sid % 4096) 0 0) = none ∧ r.rd (AOT_CNT_COUNT 14) = satAdd 32 (s.rd (AOT_CNT_COUNT 14)) 1) ∧ FwRecord rx.port 2 (h.sid % 4096) pt s
    r ∧ SameMemOut [(fwSlot s, 16 + pt.length)] s r))
  ∧ (∀ (rx : Peer) (h : AotHdr) (body gtag : List Byte) (p : RelPkt) (s : State), s.isOn bAOT 0 = true → s.engineUp (portEngine rx.port) =
    true → hdrGood h 3 body = true → h.version = 0 → (s.sessOf (h.sid % 4096)).counter = h.sid / 4096 → (s.sessOf (h.sid % 4096)).st = 2 →
    (s.sessOf (h.sid % 4096)).unacked.find? (fun q => q.typ == 4) = some p → Answers (.auth rx h body gtag) s (fun r => r.rd
    (AOT_CNT_COUNT 12) = satAdd 32 (s.rd (AOT_CNT_COUNT 12)) 1 ∧ r.aot.sess = s.aot.sess ∧ SameMem s r))
  ∧ (∀ (rx : Peer) (h : AotHdr) (body gtag : List Byte) (s : State), s.isOn bAOT 0 = true → s.engineUp (portEngine rx.port) = true →
    hdrGood h 3 body = true → h.version = 0 → (s.sessOf (h.sid % 4096)).st = 0 → Answers (.auth rx h body gtag) s (fun r => r.rd
    (AOT_CNT_COUNT 1) = satAdd 32 (s.rd (AOT_CNT_COUNT 1)) 1 ∧ Changes [(AOT_CNT_COUNT 1).addr] s r))
  -- CMD (R331)
  ∧ (∀ (rx : Peer) (h : AotHdr) (body gtag : List Byte) (s : State), Passes 5 h body s → opened s 5 h body gtag = none → Answers (.cmd rx
    h body gtag) s (fun r => r.aot = s.aot ∧ r.obj = s.obj ∧ r.rd (AOT_CNT_COUNT 6) = satAdd 32 (s.rd (AOT_CNT_COUNT 6)) 1 ∧ r.rd
    ⟨pageBase bAOT 0 0 + 0x10, 23, 1⟩ = 1 ∧ Changes [(AOT_CNT_COUNT 6).addr, pageBase bAOT 0 0 + 0x10] s r))
  ∧ (∀ (rx : Peer) (h : AotHdr) (body gtag pt : List Byte) (s : State), Passes 5 h body s → opened s 5 h body gtag = some pt → Quiet
    (h.sid % 4096) s → (s.sessOf (h.sid % 4096)).tags.length = 32 → (nth (s.sessOf (h.sid % 4096)).tags (h.tag % 32) {}).st = 0 → h.gen =
    ((nth (s.sessOf (h.sid % 4096)).tags (h.tag % 32) {}).last + 1) % 65536 → ¬ h.version = 1 → s.obj.cmds.length < 8192 → s.obj.resetting
    = false → s.obj.activating = none → (s.sessOf (h.sid % 4096)).resetSeq = none → h.opcode = 2 → Answers (.cmd rx h body gtag) s (fun r
    => r.obj.cmds = s.obj.cmds ++ [parseCmd (h.sid % 4096) h pt] ∧ (nth (r.sessOf (h.sid % 4096)).tags (h.tag % 32) {}).st = 1 ∧ (nth
    (r.sessOf (h.sid % 4096)).tags (h.tag % 32) {}).live = h.gen ∧ (r.sessOf (h.sid % 4096)).seen.contains h.seq = true ∧ SameMem s r))
  -- DATA (R331)
  ∧ (∀ (rx : Peer) (h : AotHdr) (body gtag pt : List Byte) (s : State), Passes 6 h body s → opened s 6 h body gtag = some pt → Quiet
    (h.sid % 4096) s → (nth (s.sessOf (h.sid % 4096)).tags (h.tag % 32) {}).st = 1 → h.gen = (nth (s.sessOf (h.sid % 4096)).tags (h.tag %
    32) {}).live → Answers (.data rx h body gtag) s (fun r => r.cmdOf (h.sid % 4096) (h.tag % 32) = (s.cmdOf (h.sid % 4096) (h.tag %
    32)).map (fun c => { c with chunks := placeChunk c.chunks (h.off * 64) pt }) ∧ (r.sessOf (h.sid % 4096)).seen.contains h.seq = true ∧
    SameMem s r))
  -- ACK (R326)
  ∧ (∀ (rx : Peer) (h : AotHdr) (body gtag pt : List Byte) (s : State), Passes 8 h body s → opened s 8 h body gtag = some pt → Quiet
    (h.sid % 4096) s → h.flags % 2 = 0 → Answers (.ack rx h body gtag) s (fun r => (r.sessOf (h.sid % 4096)).ackSeen = some h.seq ∧
    (r.sessOf (h.sid % 4096)).peerAck = max (s.sessOf (h.sid % 4096)).peerAck h.ack ∧ (r.sessOf (h.sid % 4096)).peerEdge = max (s.sessOf
    (h.sid % 4096)).peerEdge (h.ack + h.window) ∧ r.obj = s.obj ∧ SameMem s r))
  -- REKEY (R322)
  ∧ (∀ (rx : Peer) (h : AotHdr) (body gtag pt : List Byte) (s : State), Passes 9 h body s → opened s 9 h body gtag = some pt → Quiet
    (h.sid % 4096) s → h.version = 3 → Answers (.rekey rx h body gtag) s (fun r => (r.sessOf (h.sid % 4096)).rxEpoch = h.epoch + 1 ∧
    (r.sessOf (h.sid % 4096)).rxHeld.contains (h.epoch + 1) = true ∧ (r.sessOf (h.sid % 4096)).rxSecret = nextSecret (s.sessOf (h.sid %
    4096)).version (s.sessOf (h.sid % 4096)).rxSecret ∧ r.gcmKey (gcmSlot (h.sid % 4096) 0 (h.epoch + 1)) = some (epochKey (s.sessOf
    (h.sid % 4096)).version (nextSecret (s.sessOf (h.sid % 4096)).version (s.sessOf (h.sid % 4096)).rxSecret)) ∧ SameMem s r))
  -- RESET (R361)
  ∧ (∀ (rx : Peer) (h : AotHdr) (body gtag pt : List Byte) (s : State), Passes 10 h body s → opened s 10 h body gtag = some pt → Quiet
    (h.sid % 4096) s → s.obj.cmds = [] → Answers (.reset rx h body gtag) s (fun r => (r.sessOf (h.sid % 4096)).resetSeq = some h.seq ∧
    (r.sessOf (h.sid % 4096)).st = 2 ∧ SameMem s r))
  -- CLOSE (R324)
  ∧ (∀ (rx : Peer) (h : AotHdr) (body gtag pt : List Byte) (s : State), Passes 11 h body s → opened s 11 h body gtag = some pt → Quiet
    (h.sid % 4096) s → s.obj.cmds = [] → Answers (.close rx h body gtag) s (fun r => (r.sessOf (h.sid % 4096)).st = 3 ∧ (r.sessOf (h.sid %
    4096)).closeDone = true ∧ SameMem s r))

/-- AOT timer and session control commands. R319, R324, R325, R328, R329, R337, R338. Of the model, not of the spec: that a command whose
condition does not hold answers the unchanged state is the model's reading (log entry 6). -/
def Obligations.SessionTimerRows : Prop :=
  -- HS_TIMEOUT (R324)
  (∀ (i : Nat) (s : State), i < 4096 → (s.sessOf i).st = 1 → s.engineUp (i % 16) = true → s.aot.closingAll = false → Answers (.hsTimeout
    i) s (fun r => r.sessOf i = { counter := (s.sessOf i).counter } ∧ (∀ k, k < 4 → r.gcmKey (4 * i + k) = none) ∧ r.gcmKey (4 * i + 3) =
    none ∧ r.rd ⟨pageBase bAOT 0 0 + 0x10, 27, 1⟩ = 1 ∧ Changes [(AOT_STAT_OPEN).addr, pageBase bAOT 0 0 + 0x10] s r))
  -- IDLE_TIMEOUT (R325)
  ∧ (∀ (i : Nat) (s : State), (s.sessOf i).st = 2 → s.rd AOT_RETRY_IDLE = 0 → Answers (.idleTimeout i) s (fun r => r = s))
  ∧ (∀ (i : Nat) (s : State), (s.sessOf i).st = 2 → s.engineUp (i % 16) = true → ¬ s.rd AOT_RETRY_IDLE = 0 → s.obj.cmds = [] → Quiet i s →
    ¬ (s.sessOf i).version = 3 → Answers (.idleTimeout i) s (fun r => (r.sessOf i).st = 3 ∧ (r.sessOf i).closeSeq = some (s.sessOf i).next
    ∧ (r.sessOf i).next = (s.sessOf i).next + 1 ∧ SameMem s r))
  -- RETRANSMIT_TIMER (R329)
  ∧ (∀ (i : Nat) (p : RelPkt) (l : List RelPkt) (s : State), s.engineUp (i % 16) = true → (s.sessOf i).unacked = [p] ++ l → p.resends <
    atLeast1 (s.rd AOT_RETRY_MAX) → Answers (.retransmitTimer i) s (fun r => (r.sessOf i).unacked = [{ p with resends := p.resends + 1 }]
    ++ l ∧ (r.sessOf i).rto = min (s.rd AOT_RTO_MAX * 1000) (2 * (s.sessOf i).rto) ∧ r.aot.expired = s.aot.expired ++ [i] ∧ r.rd
    (AOT_CNT_COUNT 12) = satAdd 32 (s.rd (AOT_CNT_COUNT 12)) 1 ∧ SameMem s r))
  ∧ (∀ (i : Nat) (s : State), (s.sessOf i).unacked = [] → Answers (.retransmitTimer i) s (fun r => r = s))
  -- ACK_DELAY_TIMER (R328)
  ∧ (∀ (i k : Nat) (s : State), s.engineUp (i % 16) = true → (s.sessOf i).st = 2 → (s.sessOf i).delayOn = true → s.gcmKey (gcmSlot i 1
    (s.sessOf i).txEpoch) = some k → Answers (.ackDelayTimer i) s (fun r => (r.sessOf i).delayOn = false ∧ (r.sessOf i).sinceAck = 0 ∧
    (r.sessOf i).ackNext = (s.sessOf i).ackNext + 1 ∧ r.aot.expired = s.aot.expired ++ [i] ∧ SameMem s r))
  -- CLOSING_TIMEOUT (R324)
  ∧ (∀ (i : Nat) (s : State), i < 4096 → (s.sessOf i).st = 3 → s.engineUp (i % 16) = true → (s.sessOf i).closeDone = true →
    s.aot.closingAll = false → Answers (.closingTimeout i) s (fun r => r.sessOf i = { counter := (s.sessOf i).counter } ∧ r.gcmKey (4 * i
    + 3) = none ∧ r.rd ⟨pageBase bAOT 0 0 + 0x10, 27, 1⟩ = 1 ∧ Changes [(AOT_STAT_OPEN).addr, pageBase bAOT 0 0 + 0x10] s r))
  ∧ (∀ (i : Nat) (s : State), (s.sessOf i).st = 3 → (s.sessOf i).closeDone = false → Answers (.closingTimeout i) s (fun r => r = s))
  -- COOKIE_KEY_ROTATION (R319)
  ∧ (∀ (s : State), Answers (.cookieKeyRotation) s (fun r => r.aot.cookieKey = (s.rand 256).1 ∧ r.aot.cookiePrev = s.aot.cookieKey ∧
    Changes [DOM_TRNG_STAT_RESEEDS.addr] s r))
  -- AOT_SESS_OPEN (R337)
  ∧ (∀ (val : Word) (i : Nat) (s : State), s.admits AOT_SESS_CTL = true → s.rd AOT_SESS_SEL_INDEX = i → (s.sessOf i).st = 1 → (s.sessOf
    i).keysLoaded = true → (s.sessOf i).next < 0xFFFFFFFF → Quiet i s → fieldOf val 31 1 = 0 → Answers (.aotSessOpen val) s (fun r =>
    (r.sessOf i).st = 2 ∧ (r.sessOf i).cwnd = max 2 (s.rd AOT_CWND_INIT) ∧ (((r.sessOf i).unacked ++ (r.sessOf i).waiting).map (fun p =>
    p.typ)).head? = some 4 ∧ r.rd ⟨pageBase bAOT 0 0 + 0x10, 28, 1⟩ = 1 ∧ SameMem s r))
  -- AOT_SESS_CLOSE (R324)
  ∧ (∀ (val : Word) (i : Nat) (s : State), s.admits AOT_SESS_CTL = true → s.rd AOT_SESS_SEL_INDEX = i → (s.sessOf i).st = 1 →
    s.aot.closingAll = false → Answers (.aotSessClose val) s (fun r => r.sessOf i = { counter := (s.sessOf i).counter } ∧ r.rd ⟨pageBase
    bAOT 0 0 + 0x10, 27, 1⟩ = 1 ∧ Changes [(AOT_STAT_OPEN).addr, pageBase bAOT 0 0 + 0x10] s r))
  -- AOT_SHUTDOWN_TIMEOUT (R338)
  ∧ (∀ (s : State), s.aot.closingAll = false → Answers (.aotShutdownTimeout) s (fun r => r = s))
  ∧ (∀ (i : Nat) (x : Sess) (s : State), s.aot.closingAll = true → s.aot.sess = [(i, x)] → ¬ x.st = 0 → s.st bAOT 0 = stSTOPPING →
    s.fwk.softWait = [] → s.rpend bAOT 0 = false → s.isFaultStop bAOT 0 = false → Answers (.aotShutdownTimeout) s (fun r =>
    r.aot.closingAll = false ∧ r.sessOf i = { counter := x.counter } ∧ r.st bAOT 0 = stOFF ∧ SameMem s r))

/-- Object commands PUT to DELETE. R347, R349, R350, R351, R370. Of the model, not of the spec: that a command whose condition does not
hold answers the unchanged state is the model's reading (log entry 6). -/
def Obligations.ObjectDataRows : Prop :=
  -- PUT (R350)
  (∀ (i tag : Nat) (c : Cmd) (s : State), Ready i tag 1 c s → c.acked = false → s.objOf c.vault c.handle = none → s.towerFailed .A = false
    → c.num 76 1 = 0 → s.nextIncarn c.handle < 65536 → c.len ≤ s.freeBytes .A → Answers (.put i tag .B) s (fun r => r.objOf c.vault
    c.handle = some
    { vault := c.vault, handle := c.handle, st := 1, incarn := s.nextIncarn c.handle, tower := .A, len := c.len, retain := c.num 36 8, sess := i, sid := (s.sessOf i).sid i, tag := tag, gen := c.gen }
    ∧ r.nextIncarn c.handle = s.nextIncarn c.handle + 1 ∧ completion r i tag = none ∧ Changes [] s r))
  ∧ (∀ (i tag : Nat) (c : Cmd) (s : State), Ready i tag 1 c s → c.acked = false → s.objOf c.vault c.handle = none → s.towerFailed .A =
    false → c.num 76 1 = 0 → s.nextIncarn c.handle < 65536 → s.freeBytes .A < c.len → Answers (.put i tag .B) s (fun r => Ended i tag
    (cplBlock stCAPACITY 1 0 [] [] []) r ∧ r.obj.objs = s.obj.objs ∧ SameMem s r))
  ∧ (∀ (i tag : Nat) (c : Cmd) (o : Obj) (s : State), Ready i tag 1 c s → c.acked = false → s.objOf c.vault c.handle = some o → ¬ o.st = 1
    → Answers (.put i tag .B) s (fun r => Ended i tag (cplBlock stEXISTS 1 0 [] [] []) r ∧ r.obj.objs = s.obj.objs ∧ SameMem s r))
  -- PUT_ACKNOWLEDGED (R350)
  ∧ (∀ (i tag : Nat) (c : Cmd) (o : Obj) (s : State), Ready i tag 1 c s → c.acked = false → s.putObj c = some o → c.putReady = 1 → c.flag
    0 = false → s.ackPending.length < 126 → Answers (.putAcknowledged i tag) s (fun r => Ended i tag (cplBlock stSUCCESS (s.objFlags
    (s.ackObj c o) + 1) 0 (towerAux o) (putResult (s.ackObj c o)) []) r ∧ r.objOf c.vault c.handle = some (s.ackObj c o) ∧ SameMem s r))
  ∧ (∀ (i tag : Nat) (c : Cmd) (o : Obj) (s : State), Ready i tag 1 c s → c.acked = false → s.putObj c = some o → c.putReady = 2 → Answers
    (.putAcknowledged i tag) s (fun r => Ended i tag (cplBlock stINVALID_FIELD 1 0 [] [] []) r ∧ r.objOf c.vault c.handle = none ∧ SameMem
    s r))
  -- PUT_DURABLE (R351)
  ∧ (∀ (o : Obj) (s : State), s.objOf o.vault o.handle = some o → o.st = 2 → s.onMedia o = true → s.obj.cmds = [] → Answers (.putDurable
    o.vault o.handle) s (fun r => r.objOf o.vault o.handle = some { o with st := 3 } ∧ r.obj.journal.getLast? = some (o.vault, o.handle,
    o.incarn, 2) ∧ Changes [] s r))
  ∧ (∀ (o : Obj) (s : State), s.objOf o.vault o.handle = some o → s.onMedia o = false → Answers (.putDurable o.vault o.handle) s (fun r =>
    r = s))
  ∧ (∀ (o : Obj) (c : Cmd) (s : State), Ready o.sess o.tag 1 c s → s.obj.cmds = [c] → s.objOf o.vault o.handle = some o → o.st = 2 →
    s.onMedia o = true → c.vault = o.vault → c.handle = o.handle → c.sess = o.sess → c.tag = o.tag → c.gen = o.gen → c.flag 0 = true →
    c.flag 1 = false → c.acked = true → Answers (.putDurable o.vault o.handle) s (fun r => Ended o.sess o.tag (cplBlock stSUCCESS
    (s.objFlags { o with st := 3 } + 33) 0 (towerAux o) (putResult o) []) r ∧ r.objOf o.vault o.handle = some { o with st := 3 } ∧ SameMem
    s r))
  -- GET (R349)
  ∧ (∀ (i tag : Nat) (c : Cmd) (s : State), Ready i tag 2 c s → s.seen c.vault c.handle = none → Answers (.get i tag []) s (fun r => Ended
    i tag (cplBlock stNOT_FOUND 1 0 [] [] []) r ∧ r.obj.objs = s.obj.objs ∧ SameMem s r))
  ∧ (∀ (i tag : Nat) (c : Cmd) (o : Obj) (s : State), Ready i tag 2 c s → s.seen c.vault c.handle = some o → c.len = 0 → c.offset ≤ o.len
    → c.flag 3 = false → s.unrecovered o c.offset (o.len - c.offset) [] = [] → (s.sessOf i).next + 2 * o.len < 0xFFFFFFFD → Answers (.get
    i tag []) s (fun r => Ended i tag (cplBlock stSUCCESS (s.objFlags o + 1) 0 (beBytes 8 (o.len - c.offset)) (beBytes 8 o.len ++ o.sha)
    []) r ∧ r.obj.objs = s.obj.objs ∧ SameMem s r))
  ∧ (∀ (i tag : Nat) (c : Cmd) (o : Obj) (s : State), Ready i tag 2 c s → s.seen c.vault c.handle = some o → c.len = 0 → c.offset < o.len
    → (o.read c.offset (o.len - c.offset)).length = o.len - c.offset → o.len - c.offset ≤ (s.sessOf i).maxPl → c.flag 3 = false →
    s.unrecovered o c.offset (o.len - c.offset) [] = [] → (s.sessOf i).next < 0xFFFFFFF8 → Answers (.get i tag []) s (fun r =>
    ((((r.sessOf i).unacked ++ (r.sessOf i).waiting).filter (fun p => p.typ == 6)).map (fun p => (p.tag, p.off, p.flags, p.body))) =
    [(tag, 0, 2, o.read c.offset (o.len - c.offset))] ∧ SameMem s r))
  -- STAT (R347)
  ∧ (∀ (i tag : Nat) (c : Cmd) (o : Obj) (s : State), Ready i tag 3 c s → s.seen c.vault c.handle = some o → Answers (.stat i tag) s (fun
    r => Ended i tag (cplBlock stSUCCESS (s.objFlags o + 1) 0 (beBytes 1 o.tower.idx ++ beBytes 1 o.holds.length ++ beBytes 1 (s.ostate
    o)) (beBytes 8 o.len ++ beBytes 8 o.retain ++ beBytes 8 o.created ++ o.sha) []) r ∧ r.obj.objs = s.obj.objs ∧ SameMem s r))
  ∧ (∀ (i tag : Nat) (c : Cmd) (st : Nat) (s : State), s.cmdOf i tag = some c → c.opcode = 3 → c.started = false → c.done = false →
    (s.sessOf i).st = 2 → s.blocked c = false → s.fwk.holdup = false → (s.sessOf i).next < 0xFFFFFFFF → Quiet i s → s.cmdCheck c = some st
    → Answers (.stat i tag) s (fun r => Ended i tag (cplBlock st 1 0 [] [] []) r ∧ r.obj.objs = s.obj.objs ∧ SameMem s r))
  ∧ (∀ (i tag : Nat) (c : Cmd) (s : State), s.cmdOf i tag = some c → c.opcode = 3 → s.blocked c = true → Answers (.stat i tag) s (fun r =>
    r = s))
  -- DELETE (R370)
  ∧ (∀ (i tag : Nat) (c : Cmd) (o : Obj) (s : State), Ready i tag 4 c s → s.seen c.vault c.handle = some o → o.holds = [] → o.retain ≤
    s.dom.clock → Answers (.delete i tag true) s (fun r => Ended i tag (cplBlock stSUCCESS 3 0 [] [] []) r ∧ r.objOf c.vault c.handle =
    none ∧ SameMem s r))
  ∧ (∀ (i tag : Nat) (c : Cmd) (o : Obj) (s : State), Ready i tag 4 c s → s.seen c.vault c.handle = some o → o.holds = [] → o.retain ≤
    s.dom.clock → Answers (.delete i tag false) s (fun r => Ended i tag (cplBlock stWRITE_FAULT 1 0 [] [] []) r ∧ r.obj.objs = s.obj.objs
    ∧ SameMem s r))
  ∧ (∀ (i tag : Nat) (c : Cmd) (o : Obj) (s : State), Ready i tag 4 c s → s.seen c.vault c.handle = some o → ¬ o.holds = [] → Answers
    (.delete i tag true) s (fun r => Ended i tag (cplBlock stHOLD 1 0 [] [] []) r ∧ r.obj.objs = s.obj.objs ∧ SameMem s r))
  ∧ (∀ (i tag : Nat) (c : Cmd) (o : Obj) (s : State), Ready i tag 4 c s → s.seen c.vault c.handle = some o → o.holds = [] → s.dom.clock <
    o.retain → Answers (.delete i tag true) s (fun r => Ended i tag (cplBlock stRETENTION 1 0 [] [] []) r ∧ r.obj.objs = s.obj.objs ∧
    SameMem s r))

/-- Object commands LIST to GET_LOG. R347, R354, R359, R368, R371, R374, R375, R376. Of the model, not of the spec: a value that the spec
leaves open is a free value, an uninterpreted constant of Config (log entry 2); that a command whose condition does not hold answers the
unchanged state is the model's reading (log entry 6). -/
def Obligations.ObjectQueryRows : Prop :=
  -- LIST (R347)
  (∀ (i tag : Nat) (c : Cmd) (s : State), Ready i tag 5 c s → s.obj.objs = [] → Answers (.list i tag) s (fun r => completion r i tag =
    some (cplBlock stSUCCESS 1 0 (beBytes 4 0 ++ beBytes 1 0) (beBytes 17 (s.free % 2 ^ 136)) []) ∧ (r.cmdOf i tag).map (·.done) = some
    true ∧ r.obj.objs = [] ∧ SameMem s r))
  -- SET_RETENTION (R371)
  ∧ (∀ (i tag : Nat) (c : Cmd) (o : Obj) (s : State), Ready i tag 6 c s → s.seen c.vault c.handle = some o → o.retain ≤ c.num 36 8 →
    Answers (.setRetention i tag true) s (fun r => Ended i tag (cplBlock stSUCCESS 3 0 [] (beBytes 8 o.retain ++ beBytes 8 (c.num 36 8) ++
    beBytes 8 s.dom.clock) []) r ∧ r.objOf c.vault c.handle = some { o with retain := c.num 36 8 } ∧ SameMem s r))
  ∧ (∀ (i tag : Nat) (c : Cmd) (o : Obj) (s : State), Ready i tag 6 c s → s.seen c.vault c.handle = some o → o.retain ≤ c.num 36 8 →
    Answers (.setRetention i tag false) s (fun r => Ended i tag (cplBlock stWRITE_FAULT 1 0 [] [] []) r ∧ r.obj.objs = s.obj.objs ∧
    SameMem s r))
  ∧ (∀ (i tag : Nat) (c : Cmd) (o : Obj) (s : State), Ready i tag 6 c s → s.seen c.vault c.handle = some o → c.num 36 8 < o.retain →
    Answers (.setRetention i tag true) s (fun r => Ended i tag (cplBlock stRETENTION 1 0 [] [] []) r ∧ r.obj.objs = s.obj.objs ∧ SameMem s
    r))
  -- LEGAL_HOLD (R371)
  ∧ (∀ (i tag : Nat) (c : Cmd) (o : Obj) (s : State), Ready i tag 7 c s → s.seen c.vault c.handle = some o → c.num 36 1 = 1 →
    o.holds.contains (c.num 40 8) = false → o.holds.length < 8 → Answers (.legalHold i tag true) s (fun r => Ended i tag (cplBlock
    stSUCCESS 3 0 (beBytes 1 (o.holds.length + 1)) [] []) r ∧ r.objOf c.vault c.handle = some { o with holds := o.holds ++ [c.num 40 8] }
    ∧ SameMem s r))
  ∧ (∀ (i tag : Nat) (c : Cmd) (o : Obj) (s : State), Ready i tag 7 c s → s.seen c.vault c.handle = some o → c.num 36 1 = 1 →
    o.holds.contains (c.num 40 8) = false → o.holds.length < 8 → Answers (.legalHold i tag false) s (fun r => Ended i tag (cplBlock
    stWRITE_FAULT 1 0 [] [] []) r ∧ r.obj.objs = s.obj.objs ∧ SameMem s r))
  ∧ (∀ (i tag : Nat) (c : Cmd) (o : Obj) (s : State), Ready i tag 7 c s → s.seen c.vault c.handle = some o → c.num 36 1 = 1 →
    o.holds.contains (c.num 40 8) = false → 8 ≤ o.holds.length → Answers (.legalHold i tag true) s (fun r => Ended i tag (cplBlock
    stCAPACITY 1 0 [] [] []) r ∧ r.obj.objs = s.obj.objs ∧ SameMem s r))
  -- FLUSH (R359)
  ∧ (∀ (i tag : Nat) (c : Cmd) (s : State), Ready i tag 8 c s → c.covers = [] → Answers (.flush i tag) s (fun r => Ended i tag (cplBlock
    stSUCCESS 3 0 (beBytes 4 0) [] []) r ∧ OnlyRegs [AOT_STAT_OPEN.addr, (ETH_CNT_COUNT (s.sessOf i).peer.port 1).addr, (ETH_CNT_COUNT
    (s.sessOf i).peer.port 9).addr] s r ∧ SameMem s r))
  ∧ (∀ (i tag : Nat) (c : Cmd) (o : Obj) (s : State), Ready i tag 8 c s → c.covers = [(o.vault, o.handle)] → s.objOf o.vault o.handle =
    some o → o.st = 2 → s.obj.lost = [] → Answers (.flush i tag) s (fun r => completion r i tag = none ∧ r.cmdOf i tag = some c ∧ SameMem
    s r))
  -- AUDIT (R374)
  ∧ (∀ (i tag : Nat) (c : Cmd) (s : State), Ready i tag 9 c s → c.num 36 1 = 2 → s.obj.objs = [] → Answers (.audit i tag []) s (fun r =>
    completion r i tag = some (cplBlock stSUCCESS 1 0 (beBytes 8 0) (beBytes 8 0 ++ beBytes 4 0 ++ beBytes 4 0 ++ beBytes 4 0 ++ beBytes
    17 (s.free % 2 ^ 136)) []) ∧ (r.cmdOf i tag).map (·.done) = some true ∧ SameMem s r))
  ∧ (∀ (i tag : Nat) (c : Cmd) (s : State), Ready i tag 9 c s → c.num 36 1 = 0 → s.objOf c.vault c.handle = none → s.obj.objs = [] →
    Answers (.audit i tag []) s (fun r => Ended i tag (cplBlock stNOT_FOUND 1 0 [] [] []) r ∧ SameMem s r))
  -- EXPORT_MANIFEST (R375)
  ∧ (∀ (i tag : Nat) (c : Cmd) (s : State), Ready i tag 10 c s → c.num 36 1 = 2 → s.obj.objs = [] → (s.sessOf i).next < 0xFFFFFFF8 →
    Answers (.exportManifest i tag) s (fun r => completion r i tag = some (cplBlock stSUCCESS 1 0 (beBytes 4 0 ++ beBytes 1 0) (beBytes 17
    (s.free % 2 ^ 136)) []) ∧ (r.cmdOf i tag).map (·.done) = some true ∧ SameMem s r))
  -- RAW_INFO (R376)
  ∧ (∀ (i tag : Nat) (c : Cmd) (s : State), Ready i tag 16 c s → Answers (.rawInfo i tag) s (fun r => Ended i tag (cplBlock stSUCCESS 1 0
    [] (beBytes 8 (s.rawCount 0) ++ beBytes 8 (s.rawCount 1)) []) r ∧ SameMem s r))
  -- RAW_READ (R376)
  ∧ (∀ (i tag : Nat) (c : Cmd) (s : State), Ready i tag 17 c s → s.rawCount (c.num 36 1) < c.num 40 8 + c.len / 4096 → Answers (.rawRead i
    tag []) s (fun r => Ended i tag (cplBlock stINVALID_FIELD 1 0 [] [] []) r ∧ SameMem s r))
  ∧ (∀ (i tag : Nat) (c : Cmd) (s : State), Ready i tag 17 c s → c.num 40 8 + c.len / 4096 ≤ s.rawCount (c.num 36 1) → (s.sessOf i).next +
    2 * c.len < 0xFFFFFFFD → Answers (.rawRead i tag []) s (fun r => Ended i tag (cplBlock stSUCCESS 1 0 (beBytes 8 (c.len / 4096)) [] [])
    r ∧ SameMem s r))
  -- RAW_WRITE (R354)
  ∧ (∀ (i tag : Nat) (c : Cmd) (s : State), Ready i tag 18 c s → c.num 40 8 + c.len / 4096 ≤ s.rawCount (c.num 36 1) → c.len ≤ (assemble
    c.chunks).length → Answers (.rawWrite i tag true) s (fun r => Ended i tag (cplBlock stSUCCESS 3 0 (beBytes 8 (c.len / 4096)) [] []) r
    ∧ (∀ k, k < c.len / 4096 → r.rawSector (c.num 36 1) (c.num 40 8 + k) = ((assemble c.chunks).drop (4096 * k)).take 4096) ∧ SameMem s
    r))
  ∧ (∀ (i tag : Nat) (c : Cmd) (s : State), Ready i tag 18 c s → c.num 40 8 + c.len / 4096 ≤ s.rawCount (c.num 36 1) → (assemble
    c.chunks).length < c.len → Answers (.rawWrite i tag true) s (fun r => r = s))
  -- GET_LOG (R368)
  ∧ (∀ (i tag : Nat) (c : Cmd) (s : State), Ready i tag 32 c s → c.num 36 1 = 1 → c.num 37 1 = 0 → Answers (.getLog i tag) s (fun r =>
    completion r i tag = some (cplBlock stSUCCESS 1 0 (beBytes 4 s.obj.lost.length) (beBytes 8 (s.free % 2 ^ 64)) []) ∧ r.obj.lost =
    s.obj.lost ∧ SameMem s r))
  ∧ (∀ (i tag : Nat) (c : Cmd) (s : State), Ready i tag 32 c s → c.num 36 1 = 1 → c.num 37 1 = 1 → Answers (.getLog i tag) s (fun r =>
    completion r i tag = some (cplBlock stSUCCESS 1 0 (beBytes 4 s.obj.lost.length) (beBytes 8 (s.free % 2 ^ 64)) []) ∧ r.obj.lost = [] ∧
    r.obj.summaryMissing = false ∧ SameMem s r))

/-- Device commands: firmware, power, identify, abort, Tower failure, restart. R358, R365, R367, R372, R377, R378, R400. Of the model, not
of the spec: that a command whose condition does not hold answers the unchanged state is the model's reading (log entry 6). -/
def Obligations.DeviceCommandRows : Prop :=
  -- FW_DOWNLOAD (R400)
  (∀ (i tag : Nat) (c : Cmd) (s : State), Ready i tag 33 c s → (assemble c.chunks).length < c.len → Answers (.fwDownload i tag) s (fun r
    => r = s))
  ∧ (∀ (i tag : Nat) (c : Cmd) (s : State), Ready i tag 33 c s → c.len ≤ (assemble c.chunks).length → c.len ≤ 0x300000 → c.num 36 1 ≤ 1 →
    s.dom.fwFailed.length = 2 → Answers (.fwDownload i tag) s (fun r => (s.imageOk ((assemble c.chunks).take c.len) = true → Ended i tag
    (cplBlock stSUCCESS 3 0 [] ((((assemble c.chunks).take c.len).drop 16).take 32) []) r) ∧ (s.imageOk ((assemble c.chunks).take c.len) =
    false → Ended i tag (cplBlock stNOT_AUTH 1 0 [] [] []) r) ∧ r.bytes (fwSlotAddr (c.num 36 1)) c.len = (assemble c.chunks).take c.len ∧
    nth r.dom.fwFailed (c.num 36 1) false = !s.imageOk ((assemble c.chunks).take c.len) ∧ nth r.dom.fwFailed (1 - c.num 36 1) false = nth
    s.dom.fwFailed (1 - c.num 36 1) false ∧ SameMemOut [(fwSlotAddr (c.num 36 1), 0x300000)] s r))
  -- FW_ACTIVATE (R365)
  ∧ (∀ (i tag : Nat) (c : Cmd) (s : State), Ready i tag 34 c s → s.obj.activating = none → c.num 44 4 = 0 → Answers (.fwActivate i tag) s
    (fun r => (s.slotOk (c.num 36 1) = true → r.obj.activating = some (i, tag, c.num 36 1, 1000) ∧ r.cmdOf i tag = some c ∧ completion r i
    tag = none) ∧ (s.slotOk (c.num 36 1) = false → r.obj.activating = none ∧ Ended i tag (cplBlock stINVALID_FIELD 1 0 [] [] []) r) ∧
    SameMem s r))
  ∧ (∀ (i tag : Nat) (c : Cmd) (a : Nat × Nat × Nat × Nat) (x : Sess) (s : State), Ready i tag 34 c s → s.obj.activating = some a →
    s.obj.cmds = [c] → c.sess = i → c.tag = tag → s.obj.objs = [] → s.dom.recBusy = none → ¬ s.rd DOM_MSTATE_MSTATE = 2 → s.aot.sess =
    [(i, x)] → leNat (s.slotBytes (c.num 36 1) 13 1) / 2 ^ x.version % 2 = 1 → Answers (.fwActivate i tag) s (fun r => r.obj.activating =
    none ∧ r.dom.running = c.num 36 1 ∧ r.dom.bootSlot = c.num 36 1 ∧ r.dom.recBusy = some (s.dom.clock, none) ∧ Ended i tag (cplBlock
    stSUCCESS 3 0 [] (s.slotBytes (c.num 36 1) 16 32) []) r ∧ SameMem s r))
  -- ACTIVATION_DRAIN_TIMEOUT (R365)
  ∧ (∀ (s : State), s.obj.activating = none → Answers (.activationDrainTimeout) s (fun r => r = s))
  ∧ (∀ (a : Nat × Nat × Nat × Nat) (d : Cmd) (s : State), s.obj.activating = some a → s.obj.cmds = [d] → d.done = false → ¬ d.tag = a.2.1
    → ¬ d.opcode = 1 → ¬ d.opcode = 0x22 → d.acked = false → (s.sessOf d.sess).st = 2 → Quiet d.sess s → (s.sessOf d.sess).next <
    0xFFFFFFFF → s.fwk.holdup = false → Answers (.activationDrainTimeout) s (fun r => Ended d.sess d.tag (cplBlock stFOR_ACT 1 0 [] [] [])
    r ∧ r.obj.activating = some a ∧ SameMem s r))
  -- SET_POWER (R377)
  ∧ (∀ (i tag : Nat) (c : Cmd) (s : State), Ready i tag 35 c s → c.num 36 1 = 3 → Answers (.setPower i tag) s (fun r => r.obj.pstate = 3 ∧
    Ended i tag (cplBlock stSUCCESS 1 0 (beBytes 1 3) [] []) r ∧ SameMem s r))
  -- IDENTIFY (R378)
  ∧ (∀ (i tag : Nat) (c : Cmd) (s : State), Ready i tag 36 c s → (s.sessOf i).next < 0xFFFFF000 → Answers (.identify i tag) s (fun r =>
    Ended i tag (cplBlock stSUCCESS 1 0 [] [] []) r ∧ r.obj.objs = s.obj.objs ∧ SameMem s r))
  -- ABORT (R358)
  ∧ (∀ (i tag : Nat) (c : Cmd) (d : Cmd) (s : State), Ready i tag 37 c s → s.cmdOf i (c.num 36 1) = some d → d.done = false → d.gen =
    c.num 38 2 → ¬ c.num 36 1 = tag → ¬ d.opcode = 1 → ¬ d.opcode = 0x22 → d.acked = false → (s.sessOf i).next < 0xFFFFFFF8 → Answers
    (.abort i tag) s (fun r => Ended i (c.num 36 1) (cplBlock stBY_HOST 1 0 [] [] []) r ∧ Ended i tag (cplBlock stSUCCESS 1 0 [] [] []) r
    ∧ SameMem s r))
  ∧ (∀ (i tag : Nat) (c : Cmd) (s : State), Ready i tag 37 c s → s.cmdOf i (c.num 36 1) = none → Answers (.abort i tag) s (fun r => Ended
    i tag (cplBlock stNOT_FOUND 1 0 [] [] []) r ∧ SameMem s r))
  -- TOWER_FAILED (R372)
  ∧ (∀ (t : Tower) (s : State), s.towerFailed t.other = false → s.obj.cmds = [] → (s.obj.objs.map (fun o => (o.vault, o.handle))).Nodup →
    Answers (.towerFailed t) s (fun r => r.towerFailed t = true ∧ r.obj.objs = s.obj.objs.map (fun o => if o.st = 2 ∧ o.tower = t then
    { o with tower := t.other } else o) ∧ r.obj.lost = s.obj.lost ∧ Changes [] s r))
  ∧ (∀ (t : Tower) (s : State), s.towerFailed t.other = true → s.obj.cmds = [] → (s.obj.objs.map (fun o => (o.vault, o.handle))).Nodup →
    Answers (.towerFailed t) s (fun r => r.towerFailed t = true ∧ r.obj.objs = s.obj.objs.filter (fun o => !(o.st == 2 && o.tower == t)) ∧
    r.obj.lost = s.obj.lost ++ (s.ackPending.filter (fun o => o.tower == t)).map (lostOf 3) ∧ Changes [] s r))
  -- POWER_LOSS_RESTART (R367)
  ∧ (∀ (s : State), s.obj.lossPending = false → Answers (.powerLossRestart) s (fun r => r = s))
  ∧ (∀ (s : State), s.obj.lossPending = true → s.obj.deferred = false → (s.obj.objs.map (fun o => (o.vault, o.handle))).Nodup → Answers
    (.powerLossRestart) s (fun r => r.obj.objs = s.obj.objs.filter (fun o => o.st == 3) ∧ r.obj.lost = ((s.obj.objs.filter (fun o => o.st
    == 2)).filter (fun o => s.sumCopy.obj.journal.any (fun e => e.1 == o.vault && e.2.1 == o.handle && e.2.2.1 == o.incarn))).map (lostOf
    1) ∧ r.obj.summaryMissing = !s.obj.summary ∧ r.obj.lossPending = false ∧ r.obj.lostClock = s.dom.clock ∧ Changes [] s r))
  ∧ (∀ (s : State), s.obj.lossPending = true → s.obj.objs = [] → Answers (.powerLossRestart) s (fun r => r.lay.get .A = (s.lay.get
    .A).closeRows ∧ r.lay.get .B = (s.lay.get .B).closeRows ∧ r.obj.lossPending = false ∧ Changes [] s r))

/-- Vault, time and anchor commands. R388, R389, R390, R394. Of the model, not of the spec: that a command whose condition does not hold
answers the unchanged state is the model's reading (log entry 6). -/
def Obligations.VaultRows : Prop :=
  -- VAULT_CREATE (R388)
  (∀ (i tag : Nat) (c : Cmd) (s : State), Ready i tag 0x30 c s → s.vaultOf c.vault = none → c.num 36 32 = 0 → Answers (.vaultCreate i tag)
    s (fun r => Ended i tag (cplBlock stSUCCESS 3 0 [] [] []) r ∧ r.vaultOf c.vault = some
    { (s.newVault (s.ramKey krKek) c.vault []).1 with unlocked := true, compliance := c.num 76 1 == 1, minRet := c.num 68 8 } ∧
    (r.keys.xts.get .B).find? (fun e => e.1 == c.vault) = some (c.vault, (s.newVault (s.ramKey krKek) c.vault []).2.1) ∧ (r.keys.xts.get
    .A).find? (fun e => e.1 == c.vault) = some (c.vault, (s.newVault (s.ramKey krKek) c.vault []).2.1) ∧ SameMem s r))
  ∧ (∀ (i tag : Nat) (c : Cmd) (s : State), Ready i tag 0x30 c s → s.vaultOf c.vault = none → ¬ c.num 36 32 = 0 → Answers (.vaultCreate i
    tag) s (fun r => Ended i tag (cplBlock stSUCCESS 3 0 [] [] []) r ∧ r.vaultOf c.vault = some
    { (s.newVault (s.ramKey krKek) c.vault c.secret).1 with compliance := c.num 76 1 == 1, minRet := c.num 68 8 } ∧ (r.vaultOf
    c.vault).map (fun v => v.unlocked) = some false ∧ (r.vaultOf c.vault).map (fun v => v.hasSecret) = some true ∧ r.keys.xts = s.keys.xts
    ∧ SameMem s r))
  ∧ (∀ (i tag : Nat) (c : Cmd) (v : Vault) (s : State), Ready i tag 0x30 c s → s.vaultOf c.vault = some v → Answers (.vaultCreate i tag) s
    (fun r => Ended i tag (cplBlock stEXISTS 1 0 [] [] []) r ∧ r.dom.vaults = s.dom.vaults ∧ SameMem s r))
  -- VAULT_UNLOCK (R389)
  ∧ (∀ (i tag key : Nat) (c : Cmd) (v : Vault) (s : State), Ready i tag 0x31 c s → s.vaultOf c.vault = some v → v.unlocked = false →
    s.unwrap v c.secret = some key → Answers (.vaultUnlock i tag) s (fun r => Ended i tag (cplBlock stSUCCESS 1 0 [] [] []) r ∧ (r.vaultOf
    c.vault).map (fun y => y.unlocked) = some true ∧ (r.keys.xts.get .A).find? (fun e => e.1 == v.id) = some (v.id, key) ∧ (r.keys.xts.get
    .B).find? (fun e => e.1 == v.id) = some (v.id, key) ∧ SameMem s r))
  ∧ (∀ (i tag : Nat) (c : Cmd) (v : Vault) (s : State), Ready i tag 0x31 c s → s.vaultOf c.vault = some v → v.unlocked = false → s.unwrap
    v c.secret = none → Answers (.vaultUnlock i tag) s (fun r => Ended i tag (cplBlock stNOT_AUTH 1 0 [] [] []) r ∧ r.dom = s.dom ∧
    r.keys.xts = s.keys.xts ∧ SameMem s r))
  ∧ (∀ (i tag : Nat) (c : Cmd) (v : Vault) (s : State), Ready i tag 0x31 c s → s.vaultOf c.vault = some v → v.unlocked = true → Answers
    (.vaultUnlock i tag) s (fun r => Ended i tag (cplBlock stSUCCESS 1 0 [] [] []) r ∧ r.dom = s.dom ∧ r.keys.xts = s.keys.xts ∧ SameMem s
    r))
  -- VAULT_LOCK (R390)
  ∧ (∀ (i tag : Nat) (c : Cmd) (s : State), Ready i tag 0x32 c s → s.obj.cmds = [c] → s.obj.objs = [] → s.xtsBusy .A c.vault = false →
    s.xtsBusy .B c.vault = false → Answers (.vaultLock i tag) s (fun r => Ended i tag (cplBlock stSUCCESS 1 0 [] [] []) r ∧ r.vaultOf
    c.vault = (s.vaultOf c.vault).map (fun y => { y with unlocked := false, closing := none }) ∧ (r.keys.xts.get .A).find? (fun e => e.1
    == c.vault) = none ∧ (r.keys.xts.get .B).find? (fun e => e.1 == c.vault) = none ∧ SameMem s r))
  ∧ (∀ (i tag : Nat) (c : Cmd) (s : State), Ready i tag 0x32 c s → s.xtsBusy .A c.vault = true → s.obj.objs = [] → Answers (.vaultLock i
    tag) s (fun r => completion r i tag = none ∧ r.cmdOf i tag = some c ∧ r.vaultOf c.vault = (s.vaultOf c.vault).map (fun y =>
    { y with unlocked := false, closing := some (y.closing.getD y.unlocked) }) ∧ r.keys.xts = s.keys.xts ∧ SameMem s r))
  -- VAULT_INFO (R388)
  ∧ (∀ (i tag : Nat) (c : Cmd) (v : Vault) (s : State), Ready i tag 0x33 c s → s.vaultOf c.vault = some v → s.obj.objs = [] → Answers
    (.vaultInfo i tag) s (fun r => Ended i tag (cplBlock stSUCCESS 1 0 (beBytes 1 (b2n v.unlocked + 2 * b2n v.compliance + 4 * b2n
    v.hasSecret)) (beBytes 8 v.minRet ++ beBytes 8 0 ++ beBytes 8 0) []) r ∧ r.dom = s.dom ∧ SameMem s r))
  -- VAULT_ERASE (R390)
  ∧ (∀ (i tag key : Nat) (c : Cmd) (v : Vault) (s : State), Ready i tag 0x34 c s → s.vaultOf c.vault = some v → s.unwrap v c.secret = some
    key → s.obj.cmds = [c] → s.obj.objs = [] → s.xtsBusy .A c.vault = false → s.xtsBusy .B c.vault = false → Answers (.vaultErase i tag) s
    (fun r => Ended i tag (cplBlock stSUCCESS 3 0 [] [] []) r ∧ r.vaultOf c.vault = none ∧ (r.keys.xts.get .A).find? (fun e => e.1 ==
    c.vault) = none ∧ (r.keys.xts.get .B).find? (fun e => e.1 == c.vault) = none ∧ SameMem s r))
  ∧ (∀ (i tag : Nat) (c : Cmd) (v : Vault) (s : State), Ready i tag 0x34 c s → s.vaultOf c.vault = some v → s.unwrap v c.secret = none →
    Answers (.vaultErase i tag) s (fun r => Ended i tag (cplBlock stNOT_AUTH 1 0 [] [] []) r ∧ r.dom = s.dom ∧ r.keys.xts = s.keys.xts ∧
    SameMem s r))
  -- VAULT_SET_MIN (R390)
  ∧ (∀ (i tag : Nat) (c : Cmd) (v : Vault) (s : State), Ready i tag 0x35 c s → s.vaultOf c.vault = some v → v.compliance = true → c.num 36
    8 < v.minRet → Answers (.vaultSetMin i tag) s (fun r => Ended i tag (cplBlock stRETENTION 1 0 [] [] []) r ∧ r.dom = s.dom ∧ SameMem s
    r))
  ∧ (∀ (i tag : Nat) (c : Cmd) (v : Vault) (s : State), Ready i tag 0x35 c s → s.vaultOf c.vault = some v → v.minRet ≤ c.num 36 8 →
    Answers (.vaultSetMin i tag) s (fun r => Ended i tag (cplBlock stSUCCESS 3 0 [] [] []) r ∧ r.vaultOf c.vault = some
    { v with minRet := c.num 36 8 } ∧ SameMem s r))
  -- TIME_QUERY (R394)
  ∧ (∀ (i tag : Nat) (c : Cmd) (s : State), Ready i tag 0x36 c s → Answers (.timeQuery i tag) s (fun r => Ended i tag (cplBlock stSUCCESS
    1 0 [] (beBytes 8 s.dom.clock ++ beBytes 16 (s.rand 128).1) []) r ∧ r.dom.nonce = some ((s.rand 128).1, s.dom.clock) ∧ r.dom.clock =
    s.dom.clock ∧ r.dom.drbg = (s.rand 128).2.dom.drbg ∧ SameMem s r))
  -- TIME_TOKEN (R394)
  ∧ (∀ (i tag : Nat) (c : Cmd) (b : List Byte) (at_ : Nat) (s : State), Ready i tag 0x37 c s → assemble c.chunks = b → b.length = 144 →
    beNat (b.take 1) = 1 → beNat ((b.drop 1).take 7) = 0 → s.dom.recBusy = none → ¬ s.rd DOM_MSTATE_MSTATE = 2 → s.dom.nonce = some (beNat
    ((b.drop 16).take 16), at_) → s.dom.clock ≤ at_ + 300 → (b.drop 32).take 16 = padTo 16 s.obj.serial → beNat ((b.drop 8).take 8) ≤
    s.dom.clock + 31622400 → Answers (.timeToken i tag) s (fun r => (s.dom.anchors.any (fun a => a.role == 3 && ecdsaVerify a.point
    (b.take 48) (b.drop 48)) = true → r.dom.recBusy = some (max s.dom.clock (beNat ((b.drop 8).take 8)), some (i, tag)) ∧ r.dom.clock =
    s.dom.clock ∧ completion r i tag = none) ∧ (s.dom.anchors.any (fun a => a.role == 3 && ecdsaVerify a.point (b.take 48) (b.drop 48)) =
    false → Ended i tag (cplBlock stNOT_AUTH 1 0 [] [] []) r ∧ r.dom = s.dom) ∧ SameMem s r))
  ∧ (∀ (i tag : Nat) (c : Cmd) (s : State), Ready i tag 0x37 c s → (assemble c.chunks).length < 144 → Answers (.timeToken i tag) s (fun r
    => r = s))
  -- ANCHOR_SET (R388)
  ∧ (∀ (i tag : Nat) (c : Cmd) (b : List Byte) (s : State), Ready i tag 0x38 c s → assemble c.chunks = b → c.len ≤ b.length → c.num 36 1 =
    3 → c.num 37 1 = 1 → byteAt b 97 = 2 → s.dom.anchors = [] → Answers (.anchorSet i tag) s (fun r => r.dom.anchors =
    [{ slot := 3, point := b.take 97, role := 2, mask := beNat (b.drop 98) }] ∧ Ended i tag (cplBlock stSUCCESS 3 0 [] [] []) r ∧ SameMem
    s r))
  ∧ (∀ (i tag : Nat) (c : Cmd) (s : State), Ready i tag 0x38 c s → c.len = 0 → c.num 37 1 = 0 → hasCo (s.dom.anchors.filter (fun a =>
    !(a.slot == c.num 36 1))) = false → Answers (.anchorSet i tag) s (fun r => Ended i tag (cplBlock stINVALID_FIELD 1 0 [] [] []) r ∧
    r.dom = s.dom ∧ SameMem s r))

/-- Dome hardware: self-tests, zeroisation, clock, key bus. R386, R387, R391, R392, R394, R395, R397, R402. Of the model, not of the spec:
that a command whose condition does not hold answers the unchanged state is the model's reading (log entry 6). -/
def Obligations.DomeHardwareRows : Prop :=
  -- SELF_TEST (R397)
  (∀ (i tag : Nat) (c : Cmd) (pass : Nat) (s : State), Ready i tag 0x39 c s → pass % 4096 = 4095 → Answers (.selfTest i tag pass) s (fun r
    => Ended i tag (cplBlock stSUCCESS 1 0 [] [] []) r ∧ r.rd DOM_ST_RESULT_PASS % 4096 = 4095 ∧ r.rd DOM_MSTATE_MSTATE = s.rd
    DOM_MSTATE_MSTATE ∧ (s.slotOk s.dom.running = false → r.dom.svnMin = s.dom.svnMin) ∧ s.dom.svnMin ≤ r.dom.svnMin ∧ SameMem s r))
  ∧ (∀ (i tag : Nat) (c : Cmd) (pass : Nat) (s : State), Ready i tag 0x39 c s → pass % 2 = 0 → Answers (.selfTest i tag pass) s (fun r =>
    r.rd DOM_MSTATE_MSTATE = 2 ∧ r.rd DOM_MSTATE_ERR_CAUSE = 1 ∧ r.keys = {} ∧ r.dom.keyRam = [] ∧ completion r i tag = none ∧ SameMem s
    r))
  -- ZEROISE (R402)
  ∧ (∀ (i tag : Nat) (c : Cmd) (o : Obj) (s : State), Ready i tag 0x3A c s → s.obj.objs = [o] → ¬ o.holds = [] → Answers (.zeroise i tag)
    s (fun r => Ended i tag (cplBlock stHOLD 1 0 [] [] []) r ∧ r.dom = s.dom ∧ SameMem s r))
  ∧ (∀ (i tag : Nat) (c : Cmd) (s : State), Ready i tag 0x3A c s → s.obj.objs = [] → Answers (.zeroise i tag) s (fun r => r.rd
    DOM_MSTATE_MSTATE = 3 ∧ r.rd DOM_MSTATE_APPROVED = 0 ∧ r.keys = {} ∧ r.dom.vaults = [] ∧ r.dom.anchors = [] ∧ r.dom.devWrapped = 0 ∧
    r.dom.keyRecord = false ∧ r.dom.gen1Wrapped = none ∧ r.dom.keyRam.all (fun e => e.1 == krClock) = true ∧ (r.sessOf i).st = 3 ∧ SameMem
    s r))
  -- ENTROPY_HEALTH_FAIL (R395)
  ∧ (∀ (s : State), s.rd DOM_MSTATE_MSTATE = 2 → Answers (.entropyHealthFail) s (fun r => r = s))
  ∧ (∀ (s : State), ¬ s.rd DOM_MSTATE_MSTATE = 2 → Answers (.entropyHealthFail) s (fun r => r.rd DOM_MSTATE_MSTATE = 2 ∧ r.rd
    DOM_MSTATE_ERR_CAUSE = 14 ∧ r.rd DOM_TRNG_STAT_HEALTH_OK = 0 ∧ r.keys = {} ∧ r.rd ⟨pageBase bDOM 0 0 + 0x10, 27, 1⟩ = 1))
  -- CLOCK_TICK (R391)
  ∧ (∀ (s : State), Answers (.clockTick) s (fun r => r.dom = { s.dom with clock := s.dom.clock + 1, since := s.dom.since + 1 } ∧ r.rd
    DOM_CLOCK_STAT_SINCE = min 65535 (s.dom.since + 1) ∧ Changes [DOM_CLOCK_STAT_SINCE.addr] s r))
  -- CLOCK_RECORD_TIMER (R392)
  ∧ (∀ (s : State), s.dom.since < 600 → Answers (.clockRecordTimer) s (fun r => r = s))
  ∧ (∀ (s : State), 600 ≤ s.dom.since → s.dom.recBusy = none → ¬ s.rd DOM_MSTATE_MSTATE = 2 → Answers (.clockRecordTimer) s (fun r =>
    r.dom = { s.dom with recBusy := some (s.dom.clock, none) } ∧ r.rd ⟨FLS_BOOT_WP, s.recSector, 1⟩ = 0 ∧ Changes [FLS_BOOT_WP] s r))
  -- CLOCK_RECORD_DONE (R394)
  ∧ (∀ (v : Nat) (s : State), s.dom.recBusy = some (v, none) → s.dom.recAgain = false → Answers (.clockRecordDone) s (fun r => r.dom =
    { s.dom with recSeq := s.dom.recSeq + 1, since := 0, recBusy := none } ∧ r.bytes (norBase + 16 * ((sectorWords (128 + s.recSector)).1
    + s.dom.recSeq % 256)) 16 = clockRecord v s.dom.recSeq ∧ r.rd DOM_CLOCK_STAT_SINCE = 0 ∧ r.rd DOM_CLOCK_STAT_SEQ = s.dom.recSeq %
    65536 ∧ r.rd ⟨pageBase bDOM 0 0 + 0x10, 24, 1⟩ = 1 ∧ r.rd ⟨FLS_BOOT_WP, s.recSector, 1⟩ = 1 ∧ SameMemOut [(norBase + 16 *
    ((sectorWords (128 + s.recSector)).1 + s.dom.recSeq % 256), 16)] s r))
  ∧ (∀ (v : Nat) (s : State), s.dom.recBusy = some (v, some (0, 3)) → s.dom.recAgain = false → Answers (.clockRecordDone) s (fun r =>
    r.dom.clock = max s.dom.clock v ∧ r.dom.nonce = none ∧ r.dom.recBusy = none ∧ r.dom.recSeq = s.dom.recSeq + 1))
  ∧ (∀ (v : Nat) (s : State), s.dom.recBusy = some (v, none) → s.dom.recAgain = true → ¬ s.rd DOM_MSTATE_MSTATE = 2 → Answers
    (.clockRecordDone) s (fun r => r.dom.recBusy = some (s.dom.clock, none) ∧ r.dom.recAgain = false ∧ r.dom.recSeq = s.dom.recSeq + 1))
  -- REC_NOW (R392)
  ∧ (∀ (val : Word) (s : State), s.admits DOM_CMD = true → s.dom.recBusy = none → ¬ s.rd DOM_MSTATE_MSTATE = 2 → Answers (.recNow val) s
    (fun r => r.dom = { s.dom with recBusy := some (s.dom.clock, none) } ∧ Changes [FLS_BOOT_WP] s r))
  -- ST_RUN (R397)
  ∧ (∀ (val : Word) (s : State), s.admits DOM_CMD = true → fieldOf val 0 1 = 0 → s.rd DOM_MSTATE_MSTATE = 1 → Answers (.stRun val 4095) s
    (fun r => r.rd DOM_ST_RESULT_PASS % 4096 = 4095 ∧ r.rd DOM_ST_RESULT_RUN = 2 ∧ r.rd DOM_MSTATE_MSTATE = 1 ∧ r.rd
    DOM_TRNG_STAT_HEALTH_OK = 1 ∧ Changes [DOM_ST_RESULT_PASS.addr, DOM_TRNG_STAT_HEALTH_OK.addr] s r))
  -- KEY_LOAD (R386)
  ∧ (∀ (val : Word) (s : State), s.admits DOM_KB_CMD = true → s.on DOM_KB_CMD_GO = false → s.rd DOM_MSTATE_MSTATE = 1 → fieldOf val 27 2 =
    2 → s.dom.keyRam.any (fun e => e.1 == fieldOf val 0 8) = true → Answers (.keyLoad val) s (fun r => r.dom =
    { s.dom with kb := some { op := 1, target := 2, slot := fieldOf val 12 14, src := fieldOf val 0 8 } } ∧ r.rd DOM_KB_CMD_GO = 1 ∧ r.rd
    DOM_KB_STAT_ERR = 0 ∧ r.rd DOM_KB_STAT_WAITING = 0 ∧ Changes [DOM_KB_CMD, DOM_KB_STAT_ERR.addr] s r))
  ∧ (∀ (val : Word) (s : State), s.admits DOM_KB_CMD = true → s.on DOM_KB_CMD_GO = false → s.rd DOM_MSTATE_MSTATE = 1 → fieldOf val 27 2 =
    2 → s.dom.keyRam = [] → Answers (.keyLoad val) s (fun r => r.dom = s.dom ∧ r.rd DOM_KB_STAT_ERR = 2 ∧ r.rd DOM_KB_CMD_GO = 0 ∧ r.rd
    ⟨pageBase bDOM 0 0 + 0x10, 25, 1⟩ = 1 ∧ Changes [DOM_KB_CMD, DOM_KB_STAT_ERR.addr, pageBase bDOM 0 0 + 0x10] s r))
  -- KEY_CLEAR (R387)
  ∧ (∀ (val : Word) (s : State), s.admits DOM_KB_CMD = true → s.on DOM_KB_CMD_GO = false → s.rd DOM_MSTATE_MSTATE = 1 → fieldOf val 27 2 =
    2 → Answers (.keyClear val) s (fun r => r.dom =
    { s.dom with kb := some { op := 2, target := 2, slot := fieldOf val 12 14, src := fieldOf val 0 8 } } ∧ r.rd DOM_KB_CMD_GO = 1 ∧
    Changes [DOM_KB_CMD, DOM_KB_STAT_ERR.addr] s r))
  -- KEY_CLEAR_ALL (R386)
  ∧ (∀ (val : Word) (s : State), s.admits DOM_KB_CMD = true → s.on DOM_KB_CMD_GO = false → s.rd DOM_MSTATE_MSTATE = 1 → fieldOf val 27 2 =
    2 → Answers (.keyClearAll val) s (fun r => r.dom =
    { s.dom with kb := some { op := 3, target := 2, slot := fieldOf val 12 14, src := fieldOf val 0 8 } } ∧ r.rd DOM_KB_CMD_GO = 1 ∧
    Changes [DOM_KB_CMD, DOM_KB_STAT_ERR.addr] s r))
  -- KEY_BUS_DONE (R387)
  ∧ (∀ (s : State), s.dom.kb = none → Answers (.keyBusDone) s (fun r => r = s))
  ∧ (∀ (n src k : Nat) (s : State), s.dom.kb = some { op := 1, target := 2, slot := n, src := src } → s.dom.keyRam.find? (fun e => e.1 ==
    src) = some (src, k) → Answers (.keyBusDone) s (fun r => r.gcmKey n = some k ∧ r.dom = { s.dom with kb := none } ∧ r.rd DOM_KB_CMD_GO
    = 0 ∧ r.rd ⟨pageBase bDOM 0 0 + 0x10, 26, 1⟩ = 1 ∧ Changes [DOM_KB_CMD, DOM_KB_STAT_ERR.addr, pageBase bDOM 0 0 + 0x10] s r))

/-- Main memory commands: accesses, INIT, training, scrubbing, log. R410, R412, R416, R417, R419, R420, R421, R422. Of the model, not of
the spec: that a command whose condition does not hold answers the unchanged state is the model's reading (log entry 6). -/
def Obligations.MainMemoryRows : Prop :=
  -- DDR_READ (R410)
  (∀ (port addr n : Nat) (s : State), 1 ≤ n → n ≤ 128 - addr % 128 → s.isOn bMEM 0 = true → s.on MEM_STAT_INIT_BUSY = true → Answers
    (.ddrRead port addr n) s (fun r => r.resp = some { data := List.replicate n 0#8, err := beats32 addr n } ∧ r.rd MEM_CNT_PAR_REFUSED =
    satAdd MEM_CNT_PAR_REFUSED.width (s.rd MEM_CNT_PAR_REFUSED) 1 ∧ Changes [MEM_CNT_PAR] s r))
  ∧ (∀ (port addr n : Nat) (s : State), 1 ≤ n → n ≤ 128 - addr % 128 → s.isOn bMEM 0 = true → s.on MEM_STAT_INIT_BUSY = false → s.ddrIn
    addr = true → s.ddr.err = [] → s.ddr.parity = [] → s.ddr.allPar = false → s.ddr.loopNow = 0 → s.on MEM_CFG_MODE = false → Answers
    (.ddrRead port addr n) s (fun r => r.resp = some { data := s.bytes addr n } ∧ r.ddr = s.ddr ∧ Changes [] s r))
  -- DDR_WRITE (R412)
  ∧ (∀ (addr : Nat) (l : List Byte) (s : State), l.length = 128 → addr % 128 = 0 → s.isOn bMEM 0 = true → s.on MEM_STAT_INIT_BUSY = false
    → s.ddrIn addr = true → s.ddr.err = [] → s.ddr.parity = [] → s.ddr.allPar = false → s.ddr.loopNow = 0 → s.on MEM_CFG_MODE = false →
    s.on MEM_ECC_FLIP_4_ARM = false → Answers (.ddrWrite 0 addr l) s (fun r => r.resp = some {} ∧ r.bytes addr 128 = l ∧ r.ddr = s.ddr ∧
    OnlyRegs [] s r ∧ SameMemOut [(addr, 128)] s r))
  ∧ (∀ (addr : Nat) (l : List Byte) (s : State), l.length = 128 → addr % 128 = 0 → s.isOn bMEM 0 = true → s.on MEM_STAT_INIT_BUSY = true →
    Answers (.ddrWrite 0 addr l) s (fun r => r.resp = some { err := beats32 addr 128 } ∧ r.rd MEM_CNT_PAR_REFUSED = satAdd
    MEM_CNT_PAR_REFUSED.width (s.rd MEM_CNT_PAR_REFUSED) 1 ∧ Changes [MEM_CNT_PAR] s r))
  -- MEM_INIT (R416)
  ∧ (∀ (val : Word) (s : State), s.admits MEM_CMD = true → s.isOn bMEM 0 = true → s.on MEM_STAT_INIT_BUSY = false → fieldOf val 1 1 = 0 →
    Answers (.memInit val) s (fun r => r.rd MEM_STAT_INIT_BUSY = 1 ∧ r.ddr = s.ddr ∧ Changes [MEM_STAT_INIT_BUSY.addr] s r))
  ∧ (∀ (val : Word) (s : State), s.admits MEM_CMD = true → s.isOn bMEM 0 = false → fieldOf val 1 1 = 0 → Answers (.memInit val) s (fun r
    => r.rd ⟨pageBase bMEM 0 0 + 0x10, 21, 1⟩ = 1 ∧ Changes [pageBase bMEM 0 0 + 0x10] s r))
  -- MEM_INIT_DONE (R416)
  ∧ (∀ (n : Nat) (s : State), s.on MEM_STAT_INIT_BUSY = true → s.rd MEM_STAT_SIZE = n → Answers (.memInitDone) s (fun r => (∀ a, ddrBase ≤
    a → a < ddrBase + n * 2 ^ 30 → r.byte a = 0#8) ∧ r.byte 0x1000000000 = (if n = 0 then s.byte 0x1000000000 else 0#8) ∧ r.rd
    MEM_STAT_INIT_BUSY = 0 ∧ r.rd MEM_STAT_INIT_DONE = 1 ∧ r.ddr.err = [] ∧ r.rd ⟨pageBase bMEM 0 0 + 0x10, 23, 1⟩ = 1 ∧ OnlyRegs
    [MEM_STAT_INIT_BUSY.addr, pageBase bMEM 0 0 + 0x10] s r ∧ SameMemOut [(0x1000000000, n * 2 ^ 30)] s r))
  ∧ (∀ (s : State), s.on MEM_STAT_INIT_BUSY = false → Answers (.memInitDone) s (fun r => r = s))
  -- MEM_CNT_CLR (R421)
  ∧ (∀ (val : Word) (s : State), s.admits MEM_CMD = true → fieldOf val 0 1 = 0 → Answers (.memCntClr val) s (fun r => r.reg MEM_CNT_CE = 0
    ∧ r.reg MEM_CNT_UE = 0 ∧ r.reg MEM_CNT_PAR = 0 ∧ r.ddr = { s.ddr with dev := [] } ∧ Changes [MEM_CNT_CE, MEM_CNT_UE, MEM_CNT_PAR] s
    r))
  -- TRAINING_DONE (R417)
  ∧ (∀ (n : Nat) (s : State), s.st bMEM 0 = stSTARTING → s.on MEM_STAT_SELF_REFRESH = false → s.rd MEM_CFG_RANKS = 0 → s.ddrSize = some n
    → Answers (.trainingDone none) s (fun r => r.st bMEM 0 = stON ∧ r.rd MEM_STAT_TRAINED = 1 ∧ r.rd MEM_STAT_SIZE = n ∧ r.rd
    MEM_TRAIN_STAT_STEP = 6 ∧ r.rd MEM_TRAIN_STAT_LANE = 255 ∧ r.byte 0x1000000000 = 0#8 ∧ SameMemOut [(0x1000000000, 65536)] s r ∧ (∀ a,
    ¬ regBlk a = bMEM → r.reg a = s.reg a)))
  ∧ (∀ (step rank lane : Nat) (s : State), s.st bMEM 0 = stSTARTING → s.on MEM_STAT_SELF_REFRESH = false → step < 8 → rank < 2 → lane <
    256 → Answers (.trainingDone (some (step, rank, lane))) s (fun r => r.rd MEM_STAT_TRAINED = 0 ∧ r.rd MEM_STAT_CAUSE = 2 ∧ r.rd
    MEM_TRAIN_STAT_STEP = step ∧ r.rd MEM_TRAIN_STAT_RANK = rank ∧ r.rd MEM_TRAIN_STAT_LANE = lane ∧ ¬ r.st bMEM 0 = stON ∧ SameMem s r))
  -- SCRUB_READ (R419)
  ∧ (∀ (s : State), s.scrubOn = false → Answers (.scrubRead) s (fun r => r = s))
  ∧ (∀ (b : Nat) (s : State), s.scrubOn = true → s.ddr.err = [] → s.rd MEM_SCRUB_POS_BURST = b → b + 1 < s.rd MEM_STAT_SIZE * 2 ^ 23 →
    Answers (.scrubRead) s (fun r => r.rd MEM_SCRUB_POS_BURST = b + 1 ∧ r.ddr = s.ddr ∧ Changes [MEM_SCRUB_POS_BURST.addr] s r))
  ∧ (∀ (b : Nat) (s : State), s.scrubOn = true → s.ddr.err = [] → s.rd MEM_SCRUB_POS_BURST = b → s.rd MEM_STAT_SIZE * 2 ^ 23 = b + 1 →
    Answers (.scrubRead) s (fun r => r.rd MEM_SCRUB_POS_BURST = 0 ∧ r.rd MEM_SCRUB_PASS_PASSES = satAdd MEM_SCRUB_PASS_PASSES.width (s.rd
    MEM_SCRUB_PASS_PASSES) 1 ∧ r.rd ⟨pageBase bMEM 0 0 + 0x10, 22, 1⟩ = 1 ∧ SameMem s r))
  -- MEM_LOG_POP (R420)
  ∧ (∀ (val : Word) (e : List Word) (l : List (List Word)) (s : State), s.admits MEM_LOG_POP = true → fieldOf val 0 1 = 1 → s.ddr.log =
    [e] ++ l → l.length < 16 → Answers (.memLogPop val) s (fun r => r.ddr = { s.ddr with log := l } ∧ r.rd MEM_LOG_STAT_COUNT = l.length ∧
    Changes [MEM_LOG_STAT_COUNT.addr] s r))
  -- ECC_FLIP_ARM (R422)
  ∧ (∀ (val : Word) (s : State), s.admits MEM_ECC_FLIP_4 = true → Answers (.eccFlipArm val) s (fun r => r.rd MEM_ECC_FLIP_4_ARM = 1 ∧
    r.ddr = s.ddr ∧ Changes [MEM_ECC_FLIP_4] s r))

/-- Cupola commands: reads, stores, fills, prefetches, scratchpad. R425, R428, R433, R438, R441. Of the model, not of the spec: that a
command whose condition does not hold answers the unchanged state is the model's reading (log entry 6). -/
def Obligations.CupolaRows : Prop :=
  -- CUPOLA_READ (R425)
  (∀ (core addr n : Nat) (l : CLine) (s : State), core < 8 → s.isOn bCUP 0 = true → lineInDdr (addr / 64) = true → s.lineIn (addr / 64) =
    some l → Answers (.cupolaRead core addr n false) s (fun r => r.resp = some
    { data := (l.data.drop (addr % 64)).take (min n (64 - addr % 64)) } ∧ r.rd (CUP_CNT_COUNT 0) = satAdd (CUP_CNT_COUNT 0).width (s.rd
    (CUP_CNT_COUNT 0)) 1 ∧ r.cup.fills = s.cup.fills ∧ Changes [(CUP_CNT_COUNT 0).addr] s r))
  ∧ (∀ (core addr n : Nat) (s : State), core < 8 → s.isOn bCUP 0 = true → lineInDdr (addr / 64) = true → s.cup = {} → s.on CUP_CFG_PF_EN =
    false → s.on CUP_CFG_NL_EN = false → Answers (.cupolaRead core addr n false) s (fun r => r.resp = none ∧ r.cup.fills =
    [{ line := addr / 64, core := core }] ∧ r.rd (CUP_CNT_COUNT 1) = satAdd (CUP_CNT_COUNT 1).width (s.rd (CUP_CNT_COUNT 1)) 1 ∧ Changes
    [(CUP_CNT_COUNT 1).addr] s r))
  ∧ (∀ (core addr n : Nat) (s : State), core < 8 → s.isOn bCUP 0 = true → lineInDdr (addr / 64) = true → s.cup = {} → s.on CUP_CFG_PF_EN =
    false → s.on CUP_CFG_NL_EN = true → (addr / 64 + 1) / 64 = addr / 64 / 64 → Answers (.cupolaRead core addr n false) s (fun r =>
    r.cup.fills = [{ line := addr / 64, core := core }, { line := addr / 64 + 1, core := core, prefetch := true }] ∧ Changes
    [(CUP_CNT_COUNT 1).addr] s r))
  -- CUPOLA_STORE (R428)
  ∧ (∀ (core addr : Nat) (b : Byte) (l : CLine) (s : State), core < 8 → s.isOn bCUP 0 = true → lineInDdr (addr / 64) = true → s.lineIn
    (addr / 64) = some l → l.way < 12 → l.data.length = 64 → Answers (.cupolaStore core addr [b]) s (fun r => r.lineIn (addr / 64) = some
    { l with data := l.data.set (addr % 64) b } ∧ r.cup.victim = s.cup.victim ∧ r.resp.isSome = true ∧ (∀ k e, k < 8 → ¬ k = core → e ∈
    nth r.cores.l1 k [] → ¬ e.1 = addr / 64) ∧ (nth r.cores.l1 0 []).all (fun e => !(e.1 == addr / 64) || core == 0) = true))
  -- CUPOLA_FILL_DONE (R433)
  ∧ (∀ (line : Nat) (s : State), s.fillOf line false = none → Answers (.cupolaFillDone line) s (fun r => r = s))
  ∧ (∀ (line : Nat) (x : CFill) (s : State), s.fillOf line false = some x → s.fillBehind x = true → Answers (.cupolaFillDone line) s (fun
    r => r = s))
  ∧ (∀ (line : Nat) (x : CFill) (s : State), s.fillOf line false = some x → s.fillBehind x = false → x.got = none → Answers
    (.cupolaFillDone line) s (fun r => r.resp = some (s.busRead (corePort x.core) (64 * line) 64).2 ∧ r.fillOf line false = none ∧ (∀ w,
    (s.busRead (corePort x.core) (64 * line) 64).2.err = [] → x.drop = false → (s.busRead (corePort x.core) (64 * line) 64).1.isOn bCUP 0
    = true → (s.busRead (corePort x.core) (64 * line) 64).1.chooseWay ((s.busRead (corePort x.core) (64 * line) 64).1.coreMask x.core)
    line = some w → (r.lineIn line).map (fun y => (y.way, y.data)) = some (w, (s.busRead (corePort x.core) (64 * line) 64).2.data))))
  -- PREFETCH_FILL (R438)
  ∧ (∀ (line : Nat) (x : CFill) (s : State), s.fillOf line true = some x → s.fillBehind x = false → x.got = none → Answers (.prefetchFill
    line) s (fun r => r.resp = (s.busRead (corePort x.core) (64 * line) 64).1.resp ∧ r.fillOf line true = none ∧ ((s.busRead (corePort
    x.core) (64 * line) 64).2.err = [] → x.drop = false → (s.busRead (corePort x.core) (64 * line) 64).1.isOn bCUP 0 = true → r.cup.side =
    ([(line, (s.busRead (corePort x.core) (64 * line) 64).2.data)] ++ (s.busRead (corePort x.core) (64 * line) 64).1.cup.side).take 32)))
  -- SCRATCHPAD_ACCESS (R441)
  ∧ (∀ (port addr n : Nat) (l : List Byte) (s : State), s.spadServed port addr = true → s.on CUP_SPAD_SPAD_BUSY = false → addr % 0x40000 +
    l.length ≤ 0x40000 → Answers (.scratchpadAccess port addr n (some l) false) s (fun r => r.resp = some {} ∧ r.bytes addr l.length = l ∧
    OnlyRegs [] s r ∧ SameMemOut [(addr, l.length)] s r))
  ∧ (∀ (port addr n : Nat) (s : State), s.spadServed port addr = true → s.on CUP_SPAD_SPAD_BUSY = false → addr % 0x40000 + n ≤ 0x40000 →
    Answers (.scratchpadAccess port addr n none false) s (fun r => r.resp = some { data := s.bytes addr n } ∧ Changes [] s r))
  ∧ (∀ (port addr n : Nat) (s : State), s.spadServed port addr = false → addr % 0x40000 + n ≤ 0x40000 → Answers (.scratchpadAccess port
    addr n none false) s (fun r => r.resp = some { data := List.replicate n 0#8, err := beats32 addr n } ∧ Changes [] s r))

/-- Cupola maintenance and scratchpad commands. R442, R443, R446, R448. Of the model, not of the spec: that a command whose condition does
not hold answers the unchanged state is the model's reading (log entry 6). -/
def Obligations.CupolaMaintenanceRows : Prop :=
  -- INV_LINE (R446)
  (∀ (val : Word) (s : State), s.admits CUP_MAINT_CMD = true → s.on CUP_MAINT_STAT_BUSY = false → s.isOn bCUP 0 = true → Answers (.invLine
    val) s (fun r => (r.lineIn (s.maintAddr / 64)) = none ∧ r.rd CUP_MAINT_STAT_BUSY = 1 ∧ r.rd CUP_MAINT_CMD_OP = 1 ∧ r.rd
    CUP_MAINT_CMD_GO = 1 ∧ Changes [CUP_MAINT_CMD, CUP_MAINT_STAT_BUSY.addr, CUP_MAINT_LOCKED_LOCKED_INV.addr] s r))
  ∧ (∀ (val : Word) (s : State), s.admits CUP_MAINT_CMD = true → s.on CUP_MAINT_STAT_BUSY = true → Answers (.invLine val) s (fun r =>
    r.cup = s.cup ∧ r.rd ⟨pageBase bCUP 0 0 + 0x10, 24, 1⟩ = 1 ∧ Changes [pageBase bCUP 0 0 + 0x10] s r))
  -- INV_RANGE (R446)
  ∧ (∀ (val : Word) (s : State), s.admits CUP_MAINT_CMD = true → s.on CUP_MAINT_STAT_BUSY = false → s.isOn bCUP 0 = true → ¬ s.rd
    CUP_MAINT_LEN_LEN = 0 → Answers (.invRange val) s (fun r => r.cup.lines = s.cup.lines.filter (fun l => !(decide (s.maintAddr < 64 *
    (l.line + 1)) && decide (64 * l.line < s.maintAddr + s.rd CUP_MAINT_LEN_LEN))) ∧ r.rd CUP_MAINT_STAT_BUSY = 1 ∧ SameMem s r))
  -- INV_ALL (R446)
  ∧ (∀ (val : Word) (s : State), s.admits CUP_MAINT_CMD = true → s.on CUP_MAINT_STAT_BUSY = false → s.isOn bCUP 0 = true → Answers
    (.invAll val) s (fun r => r.cup.lines = [] ∧ r.cup.victim = [] ∧ r.cup.side = [] ∧ r.rd CUP_MAINT_STAT_LINES_INV = (s.cup.lines.length
    + s.cup.victim.length + s.cup.side.length) % 2 ^ CUP_MAINT_STAT_LINES_INV.width ∧ r.rd CUP_MAINT_STAT_BUSY = 1 ∧ SameMem s r))
  -- INV_WAYS (R446)
  ∧ (∀ (val : Word) (s : State), s.admits CUP_MAINT_CMD = true → s.on CUP_MAINT_STAT_BUSY = false → s.isOn bCUP 0 = true → s.rd
    CUP_SPAD_EN = 0 → Answers (.invWays val) s (fun r => r.cup.lines = s.cup.lines.filter (fun l => !(s.rd CUP_MAINT_LEN_LEN / 2 ^ l.way %
    2 == 1)) ∧ r.cup.victim = s.cup.victim ∧ r.rd CUP_MAINT_STAT_BUSY = 1 ∧ SameMem s r))
  -- MAINT_DONE (R448)
  ∧ (∀ (s : State), s.on CUP_MAINT_STAT_BUSY = true → s.cup.fills = [] → Answers (.maintDone) s (fun r => r.rd CUP_MAINT_STAT_BUSY = 0 ∧
    r.rd CUP_MAINT_CMD_GO = 0 ∧ r.rd ⟨pageBase bCUP 0 0 + 0x10, 28, 1⟩ = 1 ∧ Changes [CUP_MAINT_CMD, CUP_MAINT_STAT_BUSY.addr, pageBase
    bCUP 0 0 + 0x10] s r))
  ∧ (∀ (x : CFill) (s : State), s.cup.fills = [x] → x.held = true → Answers (.maintDone) s (fun r => r = s))
  -- CUP_SPAD_WRITE (R442)
  ∧ (∀ (val : Word) (s : State), s.admits CUP_SPAD = true → s.on CUP_SPAD_SPAD_BUSY = false → ¬ fieldOf val 0 4 = s.rd CUP_SPAD_EN →
    Answers (.cupSpadWrite val) s (fun r => r.rd CUP_SPAD_EN = fieldOf val 0 4 ∧ r.rd CUP_SPAD_SPAD_BUSY = 1 ∧ r.rd CUP_SPAD_CORE =
    fieldOf val 9 1 ∧ r.rd CUP_SPAD_MGMT = fieldOf val 8 1 ∧ r.cup.changed = Nat.xor (s.rd CUP_SPAD_EN) (fieldOf val 0 4) ∧ Changes
    [CUP_SPAD] s r))
  -- SPAD_WALK_DONE (R442)
  ∧ (∀ (s : State), s.on CUP_SPAD_SPAD_BUSY = true → s.on CUP_MAINT_STAT_BUSY = false → Answers (.spadWalkDone) s (fun r => r.rd
    CUP_SPAD_SPAD_BUSY = 0 ∧ r.cup.changed = 0 ∧ r.rd ⟨pageBase bCUP 0 0 + 0x10, 25, 1⟩ = 1 ∧ Changes [CUP_SPAD, pageBase bCUP 0 0 + 0x10]
    s r))
  -- CUP_CNT_CLR (R443)
  ∧ (∀ (val : Word) (s : State), s.admits CUP_CNT_CLR = true → fieldOf val 0 1 = 1 → Answers (.cupCntClr val) s (fun r => (∀ n, n < 7 →
    r.reg (CUP_CNT n) = 0) ∧ r.reg (CUP_CNT 6) = 0 ∧ ChangesBlocks [bCUP] s r))

/-- DMA commands: channels, descriptors, bursts, requests. R450, R453, R454, R455, R456, R457, R459, R460. Of the model, not of the spec:
that a command whose condition does not hold answers the unchanged state is the model's reading (log entry 6). -/
def Obligations.DmaRows : Prop :=
  -- DMA_CH_ENABLE (R457)
  (∀ (c : Nat) (val : Word) (s : State), c < 32 → s.admits (DMA_CH_CTL c) = true → s.on (DMA_CH_CTL_EN c) = false → s.lineTaken c = false
    → s.isOn bDMA 0 = true → s.cst c = cOFF → (s.chn_ c).park = 0 → Answers (.dmaChEnable c val) s (fun r => r.rd (DMA_CH_CTL_EN c) = 1 ∧
    r.cst c = cFETCH ∧ ChangesBlocks [bDMA] s r))
  ∧ (∀ (c : Nat) (val : Word) (s : State), c < 32 → s.admits (DMA_CH_CTL c) = true → s.on (DMA_CH_CTL_EN c) = false → s.lineTaken c = true
    → Answers (.dmaChEnable c val) s (fun r => r.dma = s.dma ∧ r.rd (DMA_CH_CTL_EN c) = 0 ∧ r.rd ⟨pageBase bDMA 0 0 + 0x10, 26, 1⟩ = 1 ∧
    Changes [pageBase bDMA 0 0 + 0x10] s r))
  -- DMA_CH_DISABLE (R460)
  ∧ (∀ (c : Nat) (val : Word) (s : State), c < 32 → s.admits (DMA_CH_CTL c) = true → s.on (DMA_CH_CTL_EN c) = true → (s.chn_ c).desc = []
    → s.dma.ch.length = 32 → Answers (.dmaChDisable c val) s (fun r => r.rd (DMA_CH_CTL_EN c) = 0 ∧ r.cst c = cOFF ∧ r.rd
    (DMA_CH_STAT_REQ_CNT c) = 0 ∧ r.rd (DMA_CH_STAT_DB_PEND c) = 0 ∧ r.chn_ c = {} ∧ ChangesBlocks [bDMA] s r))
  -- DESC_FETCHED (R453)
  ∧ (∀ (c : Nat) (q : State) (d : List Byte) (s : State), c < 32 → s.cst c = cFETCH → s.busRead 12 (s.descAddr c) 32 = (q, { data := d })
    → descOk (descWords d) = true → q.dma.ch.length = 32 → q.chn_ c = {} → Answers (.descFetched c) s (fun r => (r.chn_ c).desc =
    descWords d ∧ (r.chn_ c).err = 0 ∧ (r.chn_ c).addr = s.descAddr c ∧ r.cst c = cRUN ∧ SameMem q r))
  ∧ (∀ (c : Nat) (s : State), ¬ s.cst c = cFETCH → Answers (.descFetched c) s (fun r => r = s))
  -- DMA_BURST_ISSUE (R450)
  ∧ (∀ (c : Nat) (s : State), (List.range 32).all (fun k => !(s.on (DMA_CH_CFG_REQ_EN k))) = true → s.dmaRoom = true → s.dmaPick = some c
    → c < 32 → s.dma.ch.length = 32 → dSrcFix (s.chn_ c).desc = true → dSrc (s.chn_ c).desc = 0x10000000 → s.rd (DMA_CH_CFG_BURST c) = 0 →
    (s.chn_ c).issued + 32 ≤ dLen (s.chn_ c).desc → Answers (.dmaBurstIssue) s (fun r => (r.chn_ c).issued = (s.chn_ c).issued + 32 ∧
    (r.chn_ c).bursts = (s.chn_ c).bursts ++ [{ off := (s.chn_ c).issued, len := 32, seq := s.dma.seq }] ∧ r.dma.last = c ∧ ChangesBlocks
    [bDMA] s r))
  ∧ (∀ (s : State), s.dma.ch = List.replicate 32 {} → Answers (.dmaBurstIssue) s (fun r => r = s))
  -- DMA_READ_DONE (R454)
  ∧ (∀ (c : Nat) (b : DmaBurst) (q t : State) (d : List Byte) (s : State), c < 32 → (s.chn_ c).bursts = [b] → b.writing = false → b.got =
    none → s.readBehind c b = false → s.dmaWrites < 32 → s.dmaBurstRead c b = (q, { data := d }) → (q.updCh c (fun y =>
    { y with bursts := y.bursts.map (fun z => if z = b then { b with got := some { data := d } } else z) })).readsFirst.dmaStore c b d =
    (t, d.length) → t.dma.ch.length = 32 → (t.chn_ c).bursts = [{ b with got := some { data := d } }] → Answers (.dmaReadDone c) s (fun r
    => (r.chn_ c).bursts = [{ b with writing := true, good := d.length }] ∧ (r.chn_ c).read = (t.chn_ c).read + b.len ∧ SameMem t r))
  -- DMA_WRITE_DONE (R455)
  ∧ (∀ (c : Nat) (b : DmaBurst) (s : State), c < 32 → s.dma.ch.length = 32 → (s.chn_ c).bursts = [b] → b.writing = true → b.good = b.len →
    dword (s.chn_ c).desc 0 30 1 = 0 → (s.chn_ c).err = 0 → (s.chn_ c).park = 0 → (s.chn_ c).wrote + b.len < dLen (s.chn_ c).desc →
    Answers (.dmaWriteDone c) s (fun r => (r.chn_ c).bursts = [] ∧ (r.chn_ c).wrote = (s.chn_ c).wrote + b.len ∧ (r.chn_ c).word7 =
    (s.chn_ c).word7 ∧ SameMem s r))
  ∧ (∀ (c : Nat) (b : DmaBurst) (s : State), c < 32 → s.dma.ch.length = 32 → (s.chn_ c).bursts = [b] → b.writing = true → b.good = b.len →
    dword (s.chn_ c).desc 0 30 1 = 0 → ¬ (s.chn_ c).desc = [] → (s.chn_ c).err = 0 → (s.chn_ c).park = 0 → (s.chn_ c).word7 = none →
    (s.chn_ c).ended = false → (s.chn_ c).reread = false → (s.chn_ c).wrote + b.len = dLen (s.chn_ c).desc → Answers (.dmaWriteDone c) s
    (fun r => (r.chn_ c).bursts = [] ∧ (r.chn_ c).word7 = some (BitVec.ofNat 32 (2 ^ 31 + dLen (s.chn_ c).desc)) ∧ (r.chn_ c).hold7 =
    false ∧ SameMem s r))
  -- DMA_WRITEBACK_DONE (R455)
  ∧ (∀ (c : Nat) (w : Word) (q : State) (s : State), c < 32 → (s.chn_ c).word7 = some w → (s.chn_ c).hold7 = false → fieldOf w 30 1 = 0 →
    dLast (s.chn_ c).desc = true → dword (s.chn_ c).desc 0 29 1 = 1 → s.busWrite 12 (s.descAddr c + 28) (leBytes 4 w.toNat) = (q, true) →
    q.dma.ch.length = 32 → (q.chn_ c).park = 0 → Answers (.dmaWritebackDone c) s (fun r => (r.chn_ c).word7 = none ∧ (r.chn_ c).reread =
    true ∧ r.rd (DMA_CH_CNT_DONE c) = satAdd (DMA_CH_CNT_DONE c).width (q.rd (DMA_CH_CNT_DONE c)) 1 ∧ r.rd (DMA_CH_IRQ_FULL c) = 1 ∧
    SameMem q r))
  ∧ (∀ (c : Nat) (s : State), (s.chn_ c).word7 = none → Answers (.dmaWritebackDone c) s (fun r => r = s))
  -- DESC_REREAD_DONE (R459)
  ∧ (∀ (c : Nat) (q : State) (d : List Byte) (s : State), c < 32 → (s.chn_ c).reread = true → s.busRead 12 (s.descAddr c) 32 = (q,
    { data := d }) → dLast (descWords d) = true → q.on (DMA_CH_STAT_DB_PEND c) = false → q.dma.ch.length = 32 → Answers (.descRereadDone
    c) s (fun r => r.cst c = cLAST ∧ (r.chn_ c).reread = false ∧ SameMem q r))
  ∧ (∀ (c : Nat) (s : State), (s.chn_ c).reread = false → Answers (.descRereadDone c) s (fun r => r = s))
  -- DMA_CH_DB (R459)
  ∧ (∀ (c : Nat) (val : Word) (s : State), c < 32 → s.admits (DMA_CH_DB c) = true → s.cst c = cLAST → (s.chn_ c).reread = false →
    s.dma.ch.length = 32 → Answers (.dmaChDb c val) s (fun r => (r.chn_ c).reread = true ∧ r.rd (DMA_CH_STAT_DB_PEND c) = 0 ∧ r.cst c =
    cLAST ∧ ChangesBlocks [bDMA] s r))
  ∧ (∀ (c : Nat) (val : Word) (s : State), c < 32 → s.admits (DMA_CH_DB c) = true → s.cst c = cRUN → Answers (.dmaChDb c val) s (fun r =>
    r.rd (DMA_CH_STAT_DB_PEND c) = 1 ∧ r.dma = s.dma ∧ Changes [(DMA_CH_STAT_DB_PEND c).addr] s r))
  -- DMA_REQUEST_PULSE (R456)
  ∧ (∀ (line : Nat) (s : State), (List.range 32).all (fun k => !(s.on (DMA_CH_CFG_REQ_EN k))) = true → Answers (.dmaRequestPulse line) s
    (fun r => r = s))
  ∧ (∀ (line c : Nat) (s : State), line < 16 → (List.range 32).find? (fun c => s.on (DMA_CH_CTL_EN c) && s.on (DMA_CH_CFG_REQ_EN c) &&
    s.rd (DMA_CH_CFG_REQ c) == line) = some c → s.cst c = cRUN → s.rd (DMA_CH_STAT_REQ_CNT c) < 15 → Answers (.dmaRequestPulse line) s
    (fun r => r.rd (DMA_CH_STAT_REQ_CNT c) = s.rd (DMA_CH_STAT_REQ_CNT c) + 1 ∧ r.dma = s.dma ∧ Changes [(DMA_CH_STAT_REQ_CNT c).addr] s
    r))
  ∧ (∀ (line c : Nat) (s : State), line < 16 → (List.range 32).find? (fun c => s.on (DMA_CH_CTL_EN c) && s.on (DMA_CH_CFG_REQ_EN c) &&
    s.rd (DMA_CH_CFG_REQ c) == line) = some c → s.cst c = cRUN → s.rd (DMA_CH_STAT_REQ_CNT c) = 15 → Answers (.dmaRequestPulse line) s
    (fun r => r.rd (DMA_CH_STAT_REQ_OVF c) = 1 ∧ r.rd (DMA_CH_STAT_REQ_CNT c) = 15 ∧ r.dma = s.dma ∧ Changes [(DMA_CH_STAT_REQ_OVF
    c).addr] s r))

/-- Flash command sequences: program, erase, suspend, reset. R473, R474, R475, R476, R480, R482. -/
def Obligations.FlashCommandRows : Prop :=
  -- FLASH_COMMAND_CYCLE (R473)
  (∀ (s : State), s.isOn bFLS 0 = true → s.rd FLS_OPSTAT_SEQ = 0 → Answers (.flashCommandCycle (0x01000000 + 0x36C6C) [0x9C#8] true) s
    (fun r => r.rd FLS_OPSTAT_SEQ = 1 ∧ r.resp = some {} ∧ r.fls = s.fls ∧ Changes [FLS_OPSTAT_SEQ.addr] s r))
  ∧ (∀ (s : State), s.isOn bFLS 0 = true → s.rd FLS_OPSTAT_SEQ = 1 → Answers (.flashCommandCycle (0x01000000 + 0x19393) [0x63#8] true) s
    (fun r => r.rd FLS_OPSTAT_SEQ = 2 ∧ r.resp = some {} ∧ r.fls = s.fls ∧ Changes [FLS_OPSTAT_SEQ.addr] s r))
  ∧ (∀ (l : List Byte) (v : Bool) (s : State), Answers (.flashCommandCycle 0x01810010 l v) s (fun r => r.resp = some
    { err := beats32 0x01810010 l.length } ∧ r.fls = s.fls ∧ Changes [] s r))
  ∧ (∀ (s : State), s.isOn bFLS 0 = false → Answers (.flashCommandCycle (0x01000000 + 0x36C6C) [0x9C#8] true) s (fun r => r.fls = s.fls ∧
    r.rd ⟨pageBase bFLS 0 0 + 0x10, 19, 1⟩ = 1 ∧ Changes [pageBase bFLS 0 0 + 0x10] s r))
  -- WORD_PROGRAM (R475)
  ∧ (∀ (a : Nat) (l : List Byte) (s : State), FlashReady s → a < 0x810000 → a % 16 = 0 → l.length = 16 → s.protected_ (norSectorOf a) =
    false → s.incomplete (norSectorOf a) = false → s.programmed (a / 16) = false → Answers (.wordProgram (0x01000000 + a) l true) s (fun r
    => r.fls.run = some { op := 1, sector := norSectorOf a, phase := 0, words := [(a / 16, l)] } ∧ r.rd FLS_OPSTAT_BUSY = 1 ∧ r.rd
    FLS_OPSTAT_OP = 1 ∧ r.rd FLS_OPSTAT_SEQ = 0 ∧ r.programmed (a / 16) = true ∧ OnlyRegs [FLS_OPSTAT_BUSY.addr] s r ∧ SameMemOut
    [(0x01000000 + a, 16)] s r))
  ∧ (∀ (a : Nat) (l : List Byte) (s : State), FlashReady s → a < 0x810000 → a % 16 = 0 → l.length = 16 → s.protected_ (norSectorOf a) =
    true → Answers (.wordProgram (0x01000000 + a) l true) s (fun r => r.fls.run = none ∧ r.rd FLS_OPSTAT_RESULT = 4 ∧ r.fls.prog =
    s.fls.prog ∧ r.rd FLS_OPSTAT_SEQ = 0 ∧ SameMem s r))
  ∧ (∀ (a : Nat) (l : List Byte) (s : State), FlashReady s → a < 0x810000 → a % 16 = 0 → l.length = 16 → s.protected_ (norSectorOf a) =
    false → s.incomplete (norSectorOf a) = false → s.programmed (a / 16) = true → Answers (.wordProgram (0x01000000 + a) l true) s (fun r
    => r.fls.run = none ∧ r.rd FLS_OPSTAT_RESULT = 7 ∧ SameMem s r))
  -- BUFFER_PROGRAM (R476)
  ∧ (∀ (a : Nat) (l : List Byte) (s : State), FlashReady s → a < 0x810000 → a % 256 = 0 → l.length = 256 → s.protected_ (norSectorOf a) =
    false → s.incomplete (norSectorOf a) = false → s.fls.prog = [] → (List.range 32).all (fun k => !(s.on (DMA_CH_CTL_EN k))) = true →
    Answers (.bufferProgram [(0x01000000 + a, l)] true) s (fun r => r.fls.run.map (fun x => (x.op, x.sector, x.phase)) = some (2,
    norSectorOf a, 0) ∧ r.fls.run.map (fun x => x.words.map (fun w => w.1)) = some ((List.range 16).map (fun k => a / 16 + k)) ∧ r.rd
    FLS_OPSTAT_BUSY = 1 ∧ r.rd FLS_OPSTAT_SEQ = 0 ∧ SameMemOut [(0x01000000 + a, 256)] s r))
  -- SECTOR_ERASE (R480)
  ∧ (∀ (k : Nat) (s : State), FlashReady s → k < 128 → s.fls.ppb.contains k = false → Answers (.sectorErase k (0x01000000 + 0x10000 * k)
    true) s (fun r => r.fls.run = some { op := 3, sector := k, phase := 1 } ∧ r.rd FLS_OPSTAT_BUSY = 1 ∧ r.rd FLS_OPSTAT_OP = 3 ∧ r.rd
    FLS_OPSTAT_SECTOR = k ∧ r.rd FLS_OPSTAT_SEQ = 0 ∧ Changes [FLS_OPSTAT_BUSY.addr] s r))
  ∧ (∀ (k : Nat) (s : State), FlashReady s → k < 128 → s.fls.ppb.contains k = true → Answers (.sectorErase k (0x01000000 + 0x10000 * k)
    true) s (fun r => r.fls.run = none ∧ r.rd FLS_OPSTAT_RESULT = 4 ∧ SameMem s r))
  -- ERASE_SUSPEND (R482)
  ∧ (∀ (x : FlsOp) (s : State), s.isOn bFLS 0 = true → s.rd FLS_OPSTAT_SEQ = 0 → s.fls.run = some x → x.op = 3 → Answers (.eraseSuspend) s
    (fun r => r.fls = { s.fls with run := some { x with susp := true } } ∧ Changes [] s r))
  -- ERASE_RESUME (R482)
  ∧ (∀ (x : FlsOp) (s : State), s.isOn bFLS 0 = true → s.rd FLS_OPSTAT_SEQ = 0 → s.fls.run = none → s.fls.held = some x → x.op < 8 →
    x.sector < 144 → Answers (.eraseResume true) s (fun r => r.fls = { s.fls with held := none, run := some { x with susp := false } } ∧
    r.rd FLS_OPSTAT_SUSP = 0 ∧ r.rd FLS_OPSTAT_BUSY = 1 ∧ r.rd FLS_OPSTAT_SECTOR = x.sector ∧ Changes [FLS_OPSTAT_SUSP.addr] s r))
  ∧ (∀ (x : FlsOp) (s : State), s.isOn bFLS 0 = true → s.rd FLS_OPSTAT_SEQ = 0 → s.fls.run = none → s.fls.held = some x → Answers
    (.eraseResume false) s (fun r => r.fls = s.fls ∧ r.rd FLS_OPSTAT_RESULT = 3 ∧ SameMem s r))
  -- FLASH_RESET (R474)
  ∧ (∀ (s : State), s.isOn bFLS 0 = true → s.rd FLS_OPSTAT_SEQ < 3 → Answers (.flashReset) s (fun r => r.rd FLS_OPSTAT_SEQ = 0 ∧ r.fls =
    { s.fls with cmd := 0, buf := [], index := 0, step := 0 } ∧ Changes [FLS_OPSTAT_SEQ.addr] s r))

/-- Flash protection commands: password and PPB. R484, R485. -/
def Obligations.FlashProtectionRows : Prop :=
  -- PASSWORD_CHECK (R485)
  (∀ (l : List Byte) (s : State), FlashReady s → l.length = 16 → s.on FLS_PROT_PW_LOCKED = false → s.fls.pw = l → Answers (.passwordCheck
    l true) s (fun r => r.rd FLS_PROT_PW_OPEN = 1 ∧ r.rd FLS_PROT_FAILS = 0 ∧ r.rd FLS_OPSTAT_RESULT = 0 ∧ r.rd FLS_OPSTAT_SEQ = 0 ∧
    SameMem s r))
  ∧ (∀ (l : List Byte) (s : State), FlashReady s → l.length = 16 → s.on FLS_PROT_PW_LOCKED = false → ¬ s.fls.pw = l → s.rd FLS_PROT_FAILS
    = 7 → Answers (.passwordCheck l true) s (fun r => r.rd FLS_PROT_PW_LOCKED = 1 ∧ r.rd FLS_PROT_FAILS = 8 ∧ r.rd FLS_OPSTAT_RESULT = 10
    ∧ r.rd FLS_PROT_PW_OPEN = s.rd FLS_PROT_PW_OPEN ∧ SameMem s r))
  ∧ (∀ (l : List Byte) (s : State), FlashReady s → l.length = 16 → s.on FLS_PROT_PW_LOCKED = true → Answers (.passwordCheck l true) s (fun
    r => r.rd FLS_OPSTAT_RESULT = 4 ∧ r.rd FLS_PROT_PW_OPEN = s.rd FLS_PROT_PW_OPEN ∧ SameMem s r))
  -- PASSWORD_SET (R485)
  ∧ (∀ (l : List Byte) (s : State), FlashReady s → l.length = 16 → s.on FLS_PROT_PW_OPEN = true → Answers (.passwordSet l true) s (fun r
    => r.fls.run = some { op := 7, sector := 0, phase := 4, pw := l } ∧ r.fls.pw = s.fls.pw ∧ r.rd FLS_OPSTAT_BUSY = 1 ∧ r.rd
    FLS_OPSTAT_OP = 7 ∧ SameMem s r))
  -- PASSWORD_CLOSE (R485)
  ∧ (∀ (s : State), FlashReady s → Answers (.passwordClose) s (fun r => r.rd FLS_PROT_PW_OPEN = 0 ∧ r.rd FLS_OPSTAT_RESULT = 0 ∧ r.rd
    FLS_OPSTAT_SEQ = 0 ∧ SameMem s r))
  -- PPB_SET (R484)
  ∧ (∀ (k : Nat) (s : State), FlashReady s → k < 128 → s.on FLS_PROT_PW_OPEN = true → Answers (.ppbSet (0x01000000 + 0x10000 * k) k true)
    s (fun r => r.fls.run = some { op := 4, sector := k, phase := 4 } ∧ r.rd FLS_OPSTAT_BUSY = 1 ∧ r.rd FLS_OPSTAT_OP = 4 ∧ SameMem s r))
  ∧ (∀ (k : Nat) (s : State), FlashReady s → k < 128 → s.on FLS_PROT_PW_OPEN = false → Answers (.ppbSet (0x01000000 + 0x10000 * k) k true)
    s (fun r => r.fls.run = none ∧ r.rd FLS_OPSTAT_RESULT = 4 ∧ r.fls.ppb = s.fls.ppb ∧ SameMem s r))
  -- PPB_CLEAR_ALL (R484)
  ∧ (∀ (s : State), FlashReady s → s.on FLS_PROT_PW_OPEN = true → Answers (.ppbClearAll true) s (fun r => r.fls.run = some
    { op := 5, sector := 0, phase := 4 } ∧ r.rd FLS_OPSTAT_BUSY = 1 ∧ r.rd FLS_OPSTAT_OP = 5 ∧ SameMem s r))

/-- Flash operation ends, reads, margin scrub and register writes. R470, R479, R480, R481, R482, R486, R490. Of the model, not of the
spec: a value that the spec leaves open is a free value, an uninterpreted constant of Config (log entry 2); that a command whose condition
does not hold answers the unchanged state is the model's reading (log entry 6). -/
def Obligations.FlashOperationRows : Prop :=
  -- PROGRAM_DONE (R479)
  (∀ (x : FlsOp) (w retries : Nat) (l : List Byte) (s : State), s.fls.run = some x → x.op = 1 → x.words = [(w, l)] → l.length = 16 →
    retries < 256 → retries ≤ atLeast1 (s.rd FLS_ERASE_LIM_PROG_MAX) → Answers (.programDone none retries) s (fun r => r.fls.run = none ∧
    r.bytes (0x01000000 + 16 * w) 16 = l ∧ r.rd FLS_LAST_PROG_RETRY_RETRIES = retries ∧ r.rd FLS_OPSTAT_BUSY = 0 ∧ r.rd FLS_OPSTAT_RESULT
    = 0 ∧ r.rd ⟨pageBase bFLS 0 0 + 0x10, 28, 1⟩ = 1 ∧ OnlyRegs [FLS_LAST_PROG_RETRY_RETRIES.addr, FLS_OPSTAT_BUSY.addr, pageBase bFLS 0 0
    + 0x10] s r ∧ SameMemOut [(0x01000000 + 16 * w, 16)] s r))
  ∧ (∀ (x : FlsOp) (w : Nat) (l : List Byte) (s : State), s.fls.run = some x → x.op = 1 → x.words = [(w, l)] → Answers (.programDone (some
    0) 0) s (fun r => r.fls.run = none ∧ r.rd FLS_OPSTAT_RESULT = 8 ∧ r.rd FLS_OPSTAT_BUSY = 0 ∧ r.bytes (0x01000000 + 16 * w) 16 =
    leBytes 16 s.free ∧ SameMemOut [(0x01000000 + 16 * w, 16)] s r))
  -- METADATA_WRITE_DONE (R480)
  ∧ (∀ (x : FlsOp) (s : State), s.fls.run = some x → x.op = 3 → x.phase = 1 → x.susp = false → sparseGet s.fls.counts x.sector < 1000 →
    Answers (.metadataWriteDone) s (fun r => sparseGet r.fls.counts x.sector = sparseGet s.fls.counts x.sector + 1 ∧
    r.fls.markers.contains x.sector = true ∧ r.fls.run = some { x with phase := 2 } ∧ Changes [] s r))
  ∧ (∀ (x : FlsOp) (w : Nat) (s : State), s.fls.run = some x → x.op = 3 → x.phase = 3 → x.sector < 144 → (sectorWords x.sector).1 ≤ w → w
    < (sectorWords x.sector).1 + (sectorWords x.sector).2 → Answers (.metadataWriteDone) s (fun r => r.fls.run = none ∧
    r.fls.markers.contains x.sector = false ∧ r.programmed w = false ∧ r.norByte (0x01000000 + 16 * w) = 0xFF#8 ∧ r.rd FLS_OPSTAT_RESULT =
    0 ∧ r.rd FLS_OPSTAT_BUSY = 0 ∧ r.incomplete x.sector = false ∧ SameMem s r))
  ∧ (∀ (x : FlsOp) (s : State), s.fls.run = some x → x.op = 4 → x.phase = 4 → x.sector < 128 → Answers (.metadataWriteDone) s (fun r =>
    r.fls.ppb.contains x.sector = true ∧ r.fls.run = none ∧ r.rd FLS_OPSTAT_RESULT = 0 ∧ SameMem s r))
  -- ERASE_PULSE_DONE (R481)
  ∧ (∀ (x : FlsOp) (s : State), s.fls.run = some x → x.phase = 2 → Answers (.erasePulseDone true true) s (fun r => r.fls =
    { s.fls with run := some { x with pulses := x.pulses + 1, phase := 3, susp := false } } ∧ Changes [] s r))
  ∧ (∀ (x : FlsOp) (s : State), s.fls.run = some x → x.phase = 2 → atLeast1 (s.rd FLS_ERASE_LIM_MAX_PULSES) ≤ x.pulses + 1 → Answers
    (.erasePulseDone false true) s (fun r => r.fls.run = none ∧ r.rd FLS_OPSTAT_RESULT = 9 ∧ r.rd FLS_OPSTAT_BUSY = 0 ∧ r.fls.markers =
    s.fls.markers ∧ SameMem s r))
  -- SUSPEND_DONE (R482)
  ∧ (∀ (x : FlsOp) (s : State), s.fls.run = some x → x.phase = 2 → x.susp = true → Answers (.suspendDone) s (fun r => r.fls =
    { s.fls with run := none, held := some { x with susp := false } } ∧ r.rd FLS_OPSTAT_BUSY = 0 ∧ r.rd FLS_OPSTAT_SUSP = 1 ∧ Changes
    [FLS_OPSTAT_BUSY.addr] s r))
  ∧ (∀ (s : State), s.fls.run = none → Answers (.suspendDone) s (fun r => r = s))
  -- FLASH_READ (R470)
  ∧ (∀ (n : Nat) (s : State), n ≤ 256 → s.fls.run = none → s.incomplete 0 = false → s.unsure 0 = false → s.flsNeed ≤ atLeast1 (s.rd
    FLS_WAIT_CYCLES) → Answers (.flashRead 0x01000000 n 0) s (fun r => r.resp = some { data := s.norBytes 0x01000000 n } ∧ Changes [] s
    r))
  ∧ (∀ (a n : Nat) (x : FlsOp) (s : State), 0x01000000 ≤ a → a + n ≤ 0x01400000 → s.fls.run = some x → x.op = 3 → x.sector < 64 → Answers
    (.flashRead a n 0) s (fun r => r.resp = some { data := List.replicate n 0#8, err := beats32 a n } ∧ r.rd FLS_CNT_MISC_BUSY_READ =
    satAdd FLS_CNT_MISC_BUSY_READ.width (s.rd FLS_CNT_MISC_BUSY_READ) 1 ∧ Changes [FLS_CNT_MISC_BUSY_READ.addr] s r))
  ∧ (∀ (a n : Nat) (s : State), 0x01000000 ≤ a → n = 16 → a + n ≤ 0x01010000 → s.fls.run = none → s.incomplete 0 = false → Answers
    (.flashRead a n 2) s (fun r => r.resp = some { data := List.replicate n 0#8, err := beats32 a n } ∧ r.rd FLS_CNT_ECC_UE = satAdd
    FLS_CNT_ECC_UE.width (s.rd FLS_CNT_ECC_UE) 1 ∧ SameMem s r))
  -- MARGIN_SCRUB_READ (R490)
  ∧ (∀ (w : Nat) (s : State), s.on FLS_MSCRUB_EN = true → s.isOn bFLS 0 = true → s.fls.run = none → s.fls.held = none → s.rd
    FLS_MSCRUB_POS_WORD = w → w + 1 < 528384 → s.incomplete (norSectorOf (16 * w)) = false → Answers (.marginScrubRead false) s (fun r =>
    r.rd FLS_MSCRUB_POS_WORD = w + 1 ∧ Changes [FLS_MSCRUB_POS_WORD.addr] s r))
  ∧ (∀ (s : State), s.on FLS_MSCRUB_EN = false → Answers (.marginScrubRead true) s (fun r => r = s))
  -- FLS_BOOT_WP_WRITE (R486)
  ∧ (∀ (val : Word) (s : State), s.admits FLS_BOOT_WP = true → Answers (.flsBootWpWrite 13 val) s (fun r => r.rd FLS_BOOT_WP_WP = fieldOf
    val 0 16 ∧ Changes [FLS_BOOT_WP] s r))
  ∧ (∀ (p : Nat) (val : Word) (s : State), s.admits FLS_BOOT_WP = true → ¬ p = 13 → ¬ Nat.land (s.rd FLS_BOOT_WP_WP) (fieldOf val 0 16) =
    s.rd FLS_BOOT_WP_WP → Answers (.flsBootWpWrite p val) s (fun r => r.rd FLS_BOOT_WP_WP = s.rd FLS_BOOT_WP_WP ∧ r.rd ⟨pageBase bFLS 0 0
    + 0x10, 19, 1⟩ = 1 ∧ Changes [pageBase bFLS 0 0 + 0x10] s r))
  -- FLS_CNT_CLR (R470)
  ∧ (∀ (val : Word) (s : State), s.admits FLS_CNT_CLR = true → fieldOf val 0 1 = 1 → Answers (.flsCntClr val) s (fun r => r.reg
    FLS_CNT_ECC = 0 ∧ r.reg FLS_CNT_MISC = 0 ∧ Changes [FLS_CNT_ECC, FLS_CNT_MISC] s r))
  -- MSCRUB_FAIL_CLEAR (R490)
  ∧ (∀ (val : Word) (s : State), s.admits FLS_MSCRUB_FAIL = true → Answers (.mscrubFailClear val) s (fun r => r.rd FLS_MSCRUB_FAIL_FAILS =
    0 ∧ r.rd FLS_MSCRUB_ADDR_ADDR = 0 ∧ Changes [FLS_MSCRUB_FAIL, FLS_MSCRUB_ADDR_ADDR.addr] s r))

/-- Core voltage and CPU clock commands. R496, R498, R499. Of the model, not of the spec: that a command whose condition does not hold
answers the unchanged state is the model's reading (log entry 6). -/
def Obligations.ClockAndVoltageRows : Prop :=
  -- AVS_REQUEST (R496)
  (∀ (val : Word) (s : State), s.admits PWR_AVS_REQ = true → s.on PWR_AVS_REQ_GO = false → fieldOf val 0 10 = 800 → s.rd CLK_CPU_MULT ≤
    128 → Answers (.avsRequest val false) s (fun r => r.rd PWR_AVS_REQ_MV = 800 ∧ r.rd PWR_AVS_REQ_GO = 1 ∧ r.rd PWR_AVS_STAT_ERR = 0 ∧
    r.pwr.vout = some (s.rd PWR_AVS_CFG_ADDR, voutCode 800 (s.rdI PWR_AVS_CFG_EXP)) ∧ r.rd PWR_AVS_STAT_MV_NOW = s.rd PWR_AVS_STAT_MV_NOW
    ∧ Changes [PWR_AVS_REQ, PWR_AVS_STAT_ERR.addr] s r))
  ∧ (∀ (val : Word) (s : State), s.admits PWR_AVS_REQ = true → s.on PWR_AVS_REQ_GO = false → ¬ fieldOf val 0 10 % 5 = 0 ∨ fieldOf val 0 10
    < 720 ∨ 880 < fieldOf val 0 10 → Answers (.avsRequest val false) s (fun r => r.rd PWR_AVS_STAT_ERR = 1 ∧ r.rd PWR_AVS_REQ_GO = 0 ∧
    r.pwr.vout = s.pwr.vout ∧ r.rd ⟨pageBase bPWR 0 2 + 0x10, 27, 1⟩ = 1))
  ∧ (∀ (val : Word) (s : State), s.admits PWR_AVS_REQ = true → s.on PWR_AVS_REQ_GO = false → fieldOf val 0 10 = 755 → 96 < s.rd
    CLK_CPU_MULT → Answers (.avsRequest val false) s (fun r => r.rd PWR_AVS_STAT_ERR = 2 ∧ r.rd PWR_AVS_REQ_GO = 0 ∧ r.pwr.vout =
    s.pwr.vout))
  ∧ (∀ (val : Word) (nack : Bool) (s : State), s.admits PWR_AVS_REQ = true → s.on PWR_AVS_REQ_GO = true → Answers (.avsRequest val nack) s
    (fun r => r = s))
  -- AVS_SETTLE_DONE (R496)
  ∧ (∀ (s : State), s.on PWR_AVS_REQ_GO = true → s.rd PWR_AVS_CFG_EXP = 0x1A → s.pwr.avsMv = 750 → Answers (.avsSettleDone (some 48)) s
    (fun r => r.rd PWR_AVS_STAT_MV_NOW = 750 ∧ r.rd PWR_AVS_STAT_MV_READ = 750 ∧ r.rd PWR_AVS_REQ_GO = 0 ∧ r.rd ⟨pageBase bPWR 0 2 + 0x10,
    28, 1⟩ = 1 ∧ SameMem s r))
  ∧ (∀ (s : State), s.on PWR_AVS_REQ_GO = true → Answers (.avsSettleDone none) s (fun r => r.rd PWR_AVS_STAT_ERR = 3 ∧ r.rd PWR_AVS_REQ_GO
    = 0 ∧ r.rd PWR_AVS_STAT_MV_NOW = s.rd PWR_AVS_STAT_MV_NOW ∧ r.rd ⟨pageBase bPWR 0 2 + 0x10, 27, 1⟩ = 1 ∧ SameMem s r))
  -- CPU_MULT_WRITE (R498)
  ∧ (∀ (val : Word) (s : State), s.admits CLK_CPU = true → 32 ≤ fieldOf val 0 8 → fieldOf val 0 8 ≤ multLimit (s.rd PWR_AVS_STAT_MV_NOW) →
    Answers (.cpuMultWrite val) s (fun r => r.rd CLK_CPU_MULT = fieldOf val 0 8 ∧ r.rd CLK_CPU_BUSY = 1 ∧ Changes [CLK_CPU] s r))
  ∧ (∀ (val : Word) (s : State), s.admits CLK_CPU = true → fieldOf val 0 8 < 32 ∨ multLimit (s.rd PWR_AVS_STAT_MV_NOW) < fieldOf val 0 8 →
    Answers (.cpuMultWrite val) s (fun r => r.rd CLK_CPU_MULT = s.rd CLK_CPU_MULT ∧ r.rd ⟨pageBase bCLK 0 0 + 0x10, 27, 1⟩ = 1 ∧ Changes
    [pageBase bCLK 0 0 + 0x10] s r))
  -- CPU_PLL_LOCKED (R498)
  ∧ (∀ (s : State), s.on CLK_CPU_BUSY = true → s.rd BEL_STATUS_THROT = 0 → Answers (.cpuPllLocked) s (fun r => r.rd CLK_CPU_BUSY = 0 ∧
    r.rd CLK_STAT_MULT_EFF = s.rd CLK_CPU_MULT ∧ r.rd ⟨pageBase bCLK 0 0 + 0x10, 28, 1⟩ = 1 ∧ Changes [CLK_CPU, CLK_STAT_MULT_EFF.addr,
    pageBase bCLK 0 0 + 0x10] s r))
  ∧ (∀ (s : State), s.on CLK_CPU_BUSY = true → s.rd BEL_STATUS_THROT = 4 → s.rd CLK_CPU_MULT = 100 → s.rd BEL_THROT_CPU_MULT = 8 → Answers
    (.cpuPllLocked) s (fun r => r.rd CLK_STAT_MULT_EFF = 32))
  ∧ (∀ (s : State), s.on CLK_CPU_BUSY = false → Answers (.cpuPllLocked) s (fun r => r = s))
  -- CLOCK_LOSS (R499)
  ∧ (∀ (s : State), s.halted = false → s.rd SYS_RST_CAUSE_CAUSE = 0 → Answers (.clockLoss) s (fun r => r.rd SYS_RST_CAUSE_CAUSE = 0x10 ∧
    r.rd PWR_DOM_STAT_POWERED = 0x7FF ∧ r.sys.hart12 = false))
  ∧ (∀ (s : State), s.halted = true → Answers (.clockLoss) s (fun r => r = s))

/-- Power domain, idle and hold-up commands. R464, R501, R502, R505, R506, R508. Of the model, not of the spec: that a command whose
condition does not hold answers the unchanged state is the model's reading (log entry 6). -/
def Obligations.PowerDomainRows : Prop :=
  -- DOMAIN_POWER_DOWN (R501)
  (∀ (val : Word) (m : Nat) (s : State), s.admits PWR_DOM_REQ = true → s.on PWR_DOM_STAT_BUSY = false → fieldOf val 0 16 = m → firstDom m
    (fun d => inMask gateable d && s.powered d) = none → firstDom m s.domIdle = none → Answers (.domainPowerDown val) s (fun r => r.rd
    PWR_DOM_STAT_BUSY = 1 ∧ r.pwr.req = some { domains := m } ∧ r.dma.quiesce = some m ∧ r.rd PWR_DOM_STAT_POWERED = s.rd
    PWR_DOM_STAT_POWERED ∧ r.rd PWR_DOM_RESULT_RESULT = s.rd PWR_DOM_RESULT_RESULT ∧ SameMem s r))
  ∧ (∀ (val : Word) (s : State), s.admits PWR_DOM_REQ = true → s.on PWR_DOM_STAT_BUSY = false → fieldOf val 0 16 = 2 → Answers
    (.domainPowerDown val) s (fun r => r.rd PWR_DOM_RESULT_RESULT = 1 ∧ r.rd PWR_DOM_RESULT_DOMAIN = 1 ∧ r.rd PWR_DOM_STAT_BUSY = 0 ∧ r.rd
    PWR_DOM_STAT_POWERED = s.rd PWR_DOM_STAT_POWERED ∧ r.rd ⟨pageBase bPWR 0 1 + 0x10, 27, 1⟩ = 1 ∧ Changes [PWR_DOM_REQ,
    PWR_DOM_RESULT_RESULT.addr, PWR_DOM_STAT_BUSY.addr, pageBase bPWR 0 1 + 0x10] s r))
  ∧ (∀ (val : Word) (s : State), s.admits PWR_DOM_REQ = true → s.on PWR_DOM_STAT_BUSY = true → Answers (.domainPowerDown val) s (fun r =>
    r.rd ⟨pageBase bPWR 0 0 + 0x10, 21, 1⟩ = 1 ∧ Changes [pageBase bPWR 0 0 + 0x10] s r))
  -- DOMAIN_POWER_UP (R502)
  ∧ (∀ (val : Word) (s : State), s.admits PWR_DOM_REQ = true → s.on PWR_DOM_STAT_BUSY = false → fieldOf val 0 16 = 4 → s.rd
    PWR_DOM_STAT_POWERED = 0x7FB → Answers (.domainPowerUp val) s (fun r => r.rd PWR_DOM_STAT_BUSY = 1 ∧ r.pwr.req = some
    { domains := 4, up := true } ∧ r.rd PWR_DOM_STAT_POWERED = 0x7FB ∧ Changes [PWR_DOM_REQ, PWR_DOM_STAT_BUSY.addr] s r))
  -- DOMAIN_RELEASE (R502)
  ∧ (∀ (s : State), s.pwr.req = some { domains := 4, up := true } → s.rd PWR_DOM_STAT_POWERED = 0x7FB → s.pwr.shedPend = none → Answers
    (.domainRelease) s (fun r => r.rd PWR_DOM_STAT_POWERED = 0x7FF ∧ r.rd PWR_DOM_STAT_BUSY = 0 ∧ r.rd PWR_DOM_RESULT_RESULT = 0 ∧
    r.pwr.req = none ∧ r.rd ⟨pageBase bPWR 0 1 + 0x10, 28, 1⟩ = 1))
  ∧ (∀ (s : State), s.pwr.req = none → Answers (.domainRelease) s (fun r => r = s))
  -- QUIESCE_ACK (R464)
  ∧ (∀ (q : DomReq) (s : State), s.pwr.req = some q → q.domains = 8 → q.up = false → q.why = 0 → s.rd PWR_DOM_STAT_POWERED = 0x7FF →
    s.dma.quiesce = some 8 → s.dmaAcked = true → s.pwr.shedPend = none → Answers (.quiesceAck) s (fun r => r.rd PWR_DOM_STAT_POWERED =
    0x7F7 ∧ r.rd PWR_DOM_RESULT_RESULT = 0 ∧ r.rd PWR_DOM_STAT_BUSY = 0 ∧ r.pwr.req = none ∧ r.dma.quiesce = none ∧ r.rd DMA_QSTAT_ACK = 1
    ∧ r.rd ⟨pageBase bPWR 0 1 + 0x10, 28, 1⟩ = 1))
  ∧ (∀ (q : DomReq) (s : State), s.pwr.req = some q → q.up = false → s.dma.quiesce = some 8 → s.dmaAcked = false → Answers (.quiesceAck) s
    (fun r => r = s))
  -- QUIESCE_TIMEOUT (R464)
  ∧ (∀ (q : DomReq) (s : State), s.pwr.req = some q → q.domains = 0x400 → q.up = false → q.why = 0 → s.dma.quiesce = some 0x400 →
    s.dmaAcked = false → s.heldDoms 0x400 = 0x400 → s.pwr.shedPend = none → Answers (.quiesceTimeout) s (fun r => r.rd
    PWR_DOM_STAT_POWERED = s.rd PWR_DOM_STAT_POWERED ∧ r.rd PWR_DOM_RESULT_RESULT = 3 ∧ r.rd PWR_DOM_RESULT_DOMAIN = 10 ∧ r.rd
    PWR_DOM_STAT_BUSY = 0 ∧ r.pwr.req = none ∧ r.dma.quiesce = none ∧ r.rd ⟨pageBase bDMA 0 0 + 0x10, 28, 1⟩ = 1 ∧ SameMem s r))
  -- ACTIVITY_TOUCH (R505)
  ∧ (∀ (val : Word) (s : State), s.admits PWR_ACT = true → Answers (.activityTouch val) s (fun r => r.pwr.actAt = s.fwk.aon ∧ r.idleMs = 0
    ∧ Changes [] s r))
  -- IDLE_TIMER_EXPIRY (R505)
  ∧ (∀ (n : Nat) (s : State), 1 ≤ n → n ≤ 5 → ¬ s.rd (PWR_IDLE_MS (n - 1)) = 0 → s.rd (PWR_IDLE_MS (n - 1)) ≤ s.idleMs → s.rd
    PWR_PSTATE_STATE < n → Answers (.idleTimerExpiry n) s (fun r => r.rd ⟨pageBase bPWR 0 0 + 0x10, 29 - n, 1⟩ = 1 ∧ r.rd PWR_PSTATE_STATE
    = s.rd PWR_PSTATE_STATE ∧ Changes [pageBase bPWR 0 0 + 0x10] s r))
  ∧ (∀ (n : Nat) (s : State), n ≤ s.rd PWR_PSTATE_STATE → Answers (.idleTimerExpiry n) s (fun r => r = s))
  -- HOLDUP_BEGIN (R506)
  ∧ (∀ (s : State), s.halted = false → s.pwr.fail = false → s.on PWR_HOLDUP_ARM = true → s.rd PWR_HOLDUP_STAT_PHASE = 0 → s.powered 9 =
    false → s.pwr.req = none → Answers (.holdupBegin) s (fun r => r.pwr.fail = true ∧ r.rd PWR_HOLDUP_STAT_PHASE = 1 ∧ r.fwk.holdup = true
    ∧ r.rd ⟨pageBase bPWR 0 0 + 0x10, 23, 1⟩ = 1 ∧ r.pwr.req = some
    { domains := Nat.land (Nat.land (s.rd PWR_HOLDUP_SHED) gateable) (s.rd PWR_DOM_STAT_POWERED), why := 1 }))
  ∧ (∀ (s : State), s.pwr.fail = false → s.on PWR_HOLDUP_ARM = false → Answers (.holdupBegin) s (fun r => r = s.updPwr (fun x =>
    { x with fail := true })))
  -- HOLDUP_DONE (R508)
  ∧ (∀ (s : State), s.rd PWR_HOLDUP_STAT_PHASE = 1 → s.on PWR_TRIP_TRIPPED = false → s.rd SYS_RST_CAUSE_CAUSE = 0 → Answers (.holdupDone
    false) s (fun r => r.rd SYS_RST_CAUSE_CAUSE = 0x40 ∧ r.rd PWR_HOLDUP_STAT_PHASE = 0 ∧ r.fwk.holdup = false ∧ r.pwr.fail = false))
  ∧ (∀ (s : State), s.rd PWR_HOLDUP_STAT_PHASE = 1 → s.on PWR_TRIP_TRIPPED = false → Answers (.holdupDone true) s (fun r =>
    r.pwr.waitRails = true ∧ r.rd PWR_HOLDUP_STAT_PHASE = 2 ∧ r.pwr.fail = true))
  ∧ (∀ (b : Bool) (s : State), s.rd PWR_HOLDUP_STAT_PHASE = 0 → Answers (.holdupDone b) s (fun r => r = s))

/-- Belfry samples, thermal shutdown and thermal reset commands. R510, R514, R515, R516. Of the model, not of the spec: that a command
whose condition does not hold answers the unchanged state is the model's reading (log entry 6). -/
def Obligations.ThermalRows : Prop :=
  -- BELFRY_SLOT_END (R510)
  (∀ (raw : Nat) (s : State), s.isOn bBEL 0 = true → s.rd BEL_ROUND_SLOT = 22 → raw < 32768 → Answers (.belfrySlotEnd raw) s (fun r =>
    r.rd (BEL_CH_VAL_SAMPLE 22) = raw ∧ r.rd BEL_ROUND_SLOT = 23 ∧ r.rd BEL_ROUND_ROUNDS = s.rd BEL_ROUND_ROUNDS))
  ∧ (∀ (raw : Nat) (s : State), s.isOn bBEL 0 = true → s.rd BEL_ROUND_SLOT = 63 → Answers (.belfrySlotEnd raw) s (fun r => r.rd
    (BEL_CH_VAL_SAMPLE 63) = 0 ∧ r.rd BEL_ROUND_SLOT = 0 ∧ r.rd BEL_ROUND_ROUNDS = (s.rd BEL_ROUND_ROUNDS + 1) % 2 ^
    BEL_ROUND_ROUNDS.width))
  ∧ (∀ (raw : Nat) (s : State), s.isOn bBEL 0 = false → ¬ s.st bBEL 0 = stSTOPPING → Answers (.belfrySlotEnd raw) s (fun r => r = s))
  -- SHUT_DELAY_EXPIRY (R514)
  ∧ (∀ (m : Nat) (s : State), s.pwr.shutDom = some m → Nat.land (Nat.land m gateable) (s.rd PWR_DOM_STAT_POWERED) = 8 → s.rd
    PWR_DOM_STAT_POWERED = 0x7FF → Answers (.shutDelayExpiry) s (fun r => r.rd PWR_DOM_STAT_POWERED = 0x7F7 ∧ r.pwr.shutDom = none))
  ∧ (∀ (s : State), s.pwr.shutDom = none → Answers (.shutDelayExpiry) s (fun r => r = s))
  -- SHUT_CLR (R515)
  ∧ (∀ (val : Word) (s : State), s.admits BEL_CMD = true → s.shutHot = false → Answers (.shutClr val) s (fun r => r.rd BEL_STATUS_SHUT = 0
    ∧ (r.srv.get .A).emrg.contains 7 = false ∧ (r.srv.get .B).emrg.contains 7 = false ∧ Changes [BEL_STATUS_SHUT.addr] s r))
  ∧ (∀ (val : Word) (s : State), s.admits BEL_CMD = true → s.shutHot = true → Answers (.shutClr val) s (fun r => r.rd BEL_STATUS_SHUT =
    s.rd BEL_STATUS_SHUT ∧ r.rd ⟨pageBase bBEL 0 0 + 0x10, 22, 1⟩ = 1 ∧ Changes [pageBase bBEL 0 0 + 0x10] s r))
  -- THERMAL_TRIP (R516)
  ∧ (∀ (s : State), s.pwr.thermal = false → s.on PWR_TRIP_TRIPPED = false → s.powered 9 = false → Answers (.thermalTrip) s (fun r => r.rd
    PWR_TRIP_TRIPPED = 1 ∧ r.rd PWR_TRIP_HOT = 1 ∧ r.rd ⟨pageBase bPWR 0 0 + 0x10, 20, 1⟩ = 1 ∧ r.rd ⟨pageBase bBEL 0 0 + 0x10, 25, 1⟩ =
    1))
  ∧ (∀ (s : State), s.on PWR_TRIP_TRIPPED = true → Answers (.thermalTrip) s (fun r => r = s))
  -- THERMAL_TRIP_RESET (R516)
  ∧ (∀ (s : State), s.on PWR_TRIP_TRIPPED = true → s.pwr.thermal = false → s.rd PWR_HOLDUP_STAT_PHASE = 0 → s.rd SYS_RST_CAUSE_CAUSE = 0 →
    Answers (.thermalTripReset) s (fun r => r.rd SYS_RST_CAUSE_CAUSE = 0x20 ∧ r.pwr.thermal = true ∧ r.halted = true))
  ∧ (∀ (s : State), s.rd PWR_HOLDUP_STAT_PHASE = 1 → Answers (.thermalTripReset) s (fun r => r = s))
  -- THERMAL_RESET_RELEASE (R516)
  ∧ (∀ (s : State), s.pwr.thermal = true → Answers (.thermalResetRelease) s (fun r => r.pwr = { s.pwr with thermal := false } ∧ r.rd
    PWR_TRIP_TRIPPED = 0 ∧ r.rd PWR_TRIP_HOT = 0 ∧ Changes [PWR_TRIP_HOT.addr] s r))
  ∧ (∀ (s : State), s.pwr.thermal = false → Answers (.thermalResetRelease) s (fun r => r = s))

/-- Filtered input commands. R518, R519, R520, R521. Of the model, not of the spec: that a command whose condition does not hold answers
the unchanged state is the model's reading (log entry 6). -/
def Obligations.FilteredInputRows : Prop :=
  -- INPUT_FILTER_CHANGE (R518)
  (∀ (i : Nat) (s : State), i < 4 → s.on (BEL_IN_STAT_LEVEL i) = false → i = 0 → s.on (BEL_IN_STAT_ARMED i) = true → 1000000 ≤ s.inTokens
    i → s.pwr.inputs.length = 4 → Answers (.inputFilterChange i true) s (fun r => r.rd (BEL_IN_STAT_LEVEL i) = 1 ∧ r.rd (BEL_IN_STAT_ARMED
    i) = 0 ∧ r.inTokens i = s.inTokens i - 1000000 ∧ Changes [(BEL_IN_STAT_LEVEL i).addr] s r))
  ∧ (∀ (i : Nat) (s : State), i = 1 ∨ i = 2 ∨ i = 3 → s.on (BEL_IN_STAT_LEVEL i) = false → s.on (BEL_IN_STAT_ARMED i) = true → s.inTokens
    i < 1000000 → i = 3 → Answers (.inputFilterChange i true) s (fun r => r.rd (BEL_IN_STAT_LEVEL i) = 1 ∧ r.rd (BEL_IN_STAT_OVR i) = 1 ∧
    r.rd (BEL_IN_STAT_OVR_CNT i) = satAdd (BEL_IN_STAT_OVR_CNT i).width (s.rd (BEL_IN_STAT_OVR_CNT i)) 1 ∧ r.rd (BEL_IN_STAT_ARMED i) = 1
    ∧ r.rd ⟨pageBase bBEL 0 0 + 0x10, 23, 1⟩ = 1 ∧ Changes [(BEL_IN_STAT_LEVEL i).addr, pageBase bBEL 0 0 + 0x10] s r))
  ∧ (∀ (i : Nat) (s : State), i < 4 → s.on (BEL_IN_STAT_LEVEL i) = true → ¬ i = 1 → Answers (.inputFilterChange i false) s (fun r => r.rd
    (BEL_IN_STAT_LEVEL i) = 0 ∧ r.rd (BEL_IN_STAT_ARMED i) = s.rd (BEL_IN_STAT_ARMED i) ∧ SameMem s r))
  ∧ (∀ (i : Nat) (b : Bool) (s : State), s.on (BEL_IN_STAT_LEVEL i) = b → Answers (.inputFilterChange i b) s (fun r => r = s))
  -- INPUT_REARM (R520)
  ∧ (∀ (i : Nat) (s : State), i = 0 ∨ i = 3 → s.on (BEL_IN_STAT_LEVEL i) = false → Answers (.inputRearm i) s (fun r => r.rd
    (BEL_IN_STAT_ARMED i) = 1 ∧ r.rd (BEL_IN_STAT_STUCK i) = 0 ∧ Changes [(BEL_IN_STAT_LEVEL i).addr] s r))
  ∧ (∀ (i : Nat) (s : State), s.on (BEL_IN_STAT_LEVEL i) = true → Answers (.inputRearm i) s (fun r => r = s))
  -- INPUT_STUCK (R521)
  ∧ (∀ (i : Nat) (s : State), i = 0 ∨ i = 2 → s.on (BEL_IN_STAT_LEVEL i) = true → ¬ s.rd (BEL_IN_STUCK_MS i) = 0 → s.on (BEL_IN_STAT_STUCK
    i) = false → Answers (.inputStuck i) s (fun r => r.rd (BEL_IN_STAT_STUCK i) = 1 ∧ r.rd ⟨pageBase bBEL 0 0 + 0x10, 24, 1⟩ = 1 ∧ r.rd
    (BEL_IN_STAT_LEVEL i) = 1 ∧ SameMem s r))
  ∧ (∀ (i : Nat) (s : State), 3 ≤ i → Answers (.inputStuck i) s (fun r => r = s))
  -- INPUT_BUCKET_FULL (R519)
  ∧ (∀ (i : Nat) (s : State), i < 4 → s.inBurst i ≤ s.inTokens i → Answers (.inputBucketFull i) s (fun r => r.rd (BEL_IN_STAT_OVR i) = 0 ∧
    Changes [(BEL_IN_STAT_OVR i).addr] s r))
  ∧ (∀ (i : Nat) (s : State), i < 4 → s.inTokens i < s.inBurst i → Answers (.inputBucketFull i) s (fun r => r = s))

/-- Reset, watchdog, boot and hart commands. R536, R538, R539, R542, R545, R547. Of the model, not of the spec: that a command whose
condition does not hold answers the unchanged state is the model's reading (log entry 6). -/
def Obligations.ResetRows : Prop :=
  -- POWER_ON_RESET (R536)
  (∀ (fails : Nat) (fa : Bool) (s : State), fails < 512 → Answers (.powerOnReset fails fa) s (fun r => r.rd SYS_RST_CAUSE_CAUSE = 1 ∧ r.rd
    SYS_BIST_POR_FAIL = fails ∧ r.rd PWR_DOM_STAT_POWERED = 0x7FF ∧ r.rd SYS_FUSE_STAT_LOADED = 1 ∧ r.rd CLK_STAT_LOCK = 0x65 ∧ r.rd
    PWR_RAIL_STAT_FAIL_AT_RESET = b2n fa ∧ r.fls.prog = s.fls.prog ∧ r.sys.fuse = s.sys.fuse ∧ r.sys.hart12 = false ∧ r.eth = [{}, {}] ∧
    r.aot = {}))
  -- HART12_START (R542)
  ∧ (∀ (s : State), s.halted = false → s.sys.hart12 = false → s.rd SYS_BIST_POR_FAIL = 0 → s.on SYS_FUSE_STAT_LOADED = true →
    s.dom.keyRecord = true → Answers (.hart12Start 4095) s (fun r => r.sys.hart12 = true ∧ r.rd DOM_MSTATE_MSTATE = 1 ∧ (s.startable
    s.dom.bootSlot = true → r.rd SYS_BOOT_STAT_CODE = 0x50 ∧ r.rd SYS_BOOT_STAT_SLOT = s.dom.bootSlot % 4 ∧ r.sys.launched = true ∧
    r.sys.listener = none ∧ r.dom.running = s.dom.bootSlot) ∧ (s.startable s.dom.bootSlot = false → s.startable (1 - s.dom.bootSlot) =
    false → r.rd SYS_BOOT_STAT_CODE = 0xE0 ∧ r.rd SYS_BOOT_STAT_SLOT = 3 ∧ r.sys.listener = some { recovery := true })))
  ∧ (∀ (s : State), s.halted = false → s.sys.hart12 = false → s.rd SYS_BIST_POR_FAIL = 0 → s.on SYS_FUSE_STAT_LOADED = true →
    s.dom.keyRecord = false → Answers (.hart12Start 4095) s (fun r => r.rd SYS_BOOT_STAT_CODE = 0xE1 ∧ r.sys.hart12 = true ∧
    r.sys.launched = s.sys.launched ∧ r.sys.listener = some {} ∧ r.rd DOM_MSTATE_MSTATE = 4))
  ∧ (∀ (pass : Nat) (s : State), s.halted = false → s.sys.hart12 = false → s.rd SYS_BIST_POR_FAIL = 2 → Answers (.hart12Start pass) s (fun
    r => r.rd SYS_BOOT_STAT_CODE = 0xF1 ∧ r.sys.hart12 = true ∧ r.sys.launched = s.sys.launched))
  ∧ (∀ (pass : Nat) (s : State), s.sys.hart12 = true → Answers (.hart12Start pass) s (fun r => r = s))
  -- SW_NOW (R536)
  ∧ (∀ (val : Word) (s : State), s.admits SYS_RST_REQ = true → s.on SYS_RST_REQ_PEND = false → s.rd SYS_RST_CAUSE_CAUSE = 0 → Answers
    (.swNow val) s (fun r => r.rd SYS_RST_CAUSE_CAUSE = 2 ∧ r.rd PWR_DOM_STAT_POWERED = 0x7FF ∧ r.sys.hart12 = false ∧ r.rd
    PWR_HOLDUP_STAT_PHASE = 0))
  ∧ (∀ (val : Word) (s : State), s.admits SYS_RST_REQ = true → s.on SYS_RST_REQ_PEND = true → s.rd SYS_RST_CAUSE_CAUSE = 0 → s.ackPending
    = [] → s.aot.sess = [] → Answers (.swNow val) s (fun r => r.rd SYS_RST_CAUSE_CAUSE = 4 ∧ r.obj.deferred = true ∧ r.rd
    PWR_DOM_STAT_POWERED = 0x7FF))
  -- SW_DEFER (R538)
  ∧ (∀ (val : Word) (s : State), s.admits SYS_RST_REQ = true → s.on SYS_RST_REQ_PEND = false → s.obj.cmds = [] → Answers (.swDefer val) s
    (fun r => r.rd SYS_RST_REQ_PEND = 1 ∧ r.obj.resetting = true ∧ r.rd ⟨pageBase bSYS 0 0 + 0x10, 28, 1⟩ = 1 ∧ SameMem s r))
  ∧ (∀ (val : Word) (s : State), s.admits SYS_RST_REQ = true → s.on SYS_RST_REQ_PEND = true → Answers (.swDefer val) s (fun r => r = s))
  -- DEFER_TIMEOUT (R538)
  ∧ (∀ (s : State), s.on SYS_RST_REQ_PEND = true → s.rd SYS_RST_CAUSE_CAUSE = 0 → Answers (.deferTimeout) s (fun r => r.rd
    SYS_RST_CAUSE_CAUSE = 0x80 ∧ r.rd PWR_DOM_STAT_POWERED = 0x7FF ∧ r.obj.deferred = false))
  ∧ (∀ (s : State), s.on SYS_RST_REQ_PEND = false → Answers (.deferTimeout) s (fun r => r = s))
  -- WATCHDOG_EXPIRY (R539)
  ∧ (∀ (s : State), s.on SYS_WDT_CFG_EN = true → s.fwk.holdup = false → s.on SYS_WDT_STAT_WARNED = false → Answers (.watchdogExpiry) s
    (fun r => r.rd SYS_WDT_STAT_WARNED = 1 ∧ r.sys.wdtAt = s.fwk.aon ∧ r.rd ⟨pageBase bSYS 0 2 + 0x10, 28, 1⟩ = 1 ∧ Changes
    [SYS_WDT_STAT_WARNED.addr, pageBase bSYS 0 2 + 0x10] s r))
  ∧ (∀ (s : State), s.on SYS_WDT_CFG_EN = true → s.fwk.holdup = false → s.on SYS_WDT_STAT_WARNED = true → s.rd SYS_RST_CAUSE_CAUSE = 0 →
    Answers (.watchdogExpiry) s (fun r => r.rd SYS_RST_CAUSE_CAUSE = 8 ∧ r.rd PWR_DOM_STAT_POWERED = 0x7FF))
  ∧ (∀ (s : State), s.fwk.holdup = true → Answers (.watchdogExpiry) s (fun r => r = s))
  -- WDT_KICK (R539)
  ∧ (∀ (s : State), s.admits SYS_WDT_KICK = true → Answers (.wdtKick 0x6B1D) s (fun r => r.rd SYS_WDT_STAT_WARNED = 0 ∧ r.sys.wdtAt =
    s.fwk.aon ∧ Changes [SYS_WDT_STAT_WARNED.addr] s r))
  ∧ (∀ (val : Word) (s : State), s.admits SYS_WDT_KICK = true → ¬ val = 0x6B1D → Answers (.wdtKick val) s (fun r => r.rd
    SYS_WDT_STAT_WARNED = s.rd SYS_WDT_STAT_WARNED ∧ r.sys = s.sys ∧ r.rd ⟨pageBase bSYS 0 0 + 0x10, 27, 1⟩ = 1 ∧ Changes [pageBase bSYS 0
    0 + 0x10] s r))
  -- HART_RUN (R545)
  ∧ (∀ (val : Word) (s : State), s.admits SYS_HART_RUN = true → Answers (.hartRun val) s (fun r => r.rd SYS_HART_RUN_RUN = Nat.lor (s.rd
    SYS_HART_RUN_RUN) (fieldOf val 0 12) ∧ Changes [SYS_HART_RUN] s r))
  -- LISTENER_TIMEOUT (R547)
  ∧ (∀ (l : Listener) (s : State), s.sys.listener = some l → l.recovery = true → Answers (.listenerTimeout) s (fun r => r = s))
  ∧ (∀ (s : State), s.sys.listener = some {} → s.startable s.dom.bootSlot = false → s.startable (1 - s.dom.bootSlot) = false → Answers
    (.listenerTimeout) s (fun r => r.rd SYS_BOOT_STAT_CODE = 0xE0 ∧ r.rd SYS_BOOT_STAT_SLOT = 3 ∧ r.sys.listener = some
    { recovery := true } ∧ SameMem s r))

/-- UART listener commands. R547. Of the model, not of the spec: a value that the spec leaves open is a free value, an uninterpreted
constant of Config (log entry 2); that a command whose condition does not hold answers the unchanged state is the model's reading (log
entry 6). -/
def Obligations.ListenerRows : Prop :=
  -- ID (R547)
  (∀ (c : Nat) (p : List Byte) (s : State), s.sys.listener = none → Answers (.idOp c p) s (fun r => r = s))
  ∧ (∀ (l : Listener) (c : Nat) (p : List Byte) (s : State), s.sys.listener = some l → ¬ c = crcBytes ([1#8] ++ p) → Answers (.idOp c p) s
    (fun r => r = s.updSys (fun x => { x with answer := some (1, 1, []) })))
  ∧ (∀ (l : Listener) (s : State), s.sys.listener = some l → Answers (.idOp (crcBytes [1#8]) []) s (fun r => r = s.updSys (fun x =>
    { x with answer := some (1, 0, beBytes 8 s.sys.fuse.die ++ beBytes 1 (s.rd DOM_MSTATE_MSTATE) ++ Config.romVersion) })))
  -- GENKEY (R547)
  ∧ (∀ (l : Listener) (s : State), s.sys.listener = some l → s.personalises = true → Answers (.genkey (crcBytes [2#8]) []) s (fun r =>
    r.sys.listener = some { l with devKey := some (ecPrivate (s.rand 448).1), cert := none, key1 := none } ∧ r.sys.answer = some (2, 0,
    ecPublic (ecPrivate (s.rand 448).1)) ∧ r.dom.drbg = (s.rand 448).2.dom.drbg ∧ SameMem s r))
  ∧ (∀ (l : Listener) (s : State), s.sys.listener = some l → s.personalises = false → Answers (.genkey (crcBytes [2#8]) []) s (fun r =>
    r.sys.answer = some (2, 2, []) ∧ r.sys.listener = some l ∧ Changes [] s r))
  -- PUTCERT (R547)
  ∧ (∀ (l : Listener) (k : Nat) (p : List Byte) (s : State), s.sys.listener = some l → l.devKey = some k → p.length ≤ 4096 → Answers
    (.putcert (crcBytes ([3#8] ++ p)) p) s (fun r => r.sys.listener = some { l with cert := some p } ∧ r.sys.answer = some (3, 0, []) ∧
    Changes [] s r))
  ∧ (∀ (l : Listener) (p : List Byte) (s : State), s.sys.listener = some l → l.devKey = none → p.length ≤ 4096 → Answers (.putcert
    (crcBytes ([3#8] ++ p)) p) s (fun r => r.sys.listener = some l ∧ r.sys.answer = some (3, 2, []) ∧ Changes [] s r))
  -- PUTANCHOR (R547)
  ∧ (∀ (l : Listener) (p : List Byte) (s : State), s.sys.listener = some l → s.personalises = true → p.length = 131 → byteAt p 0 < 8 → 1 ≤
    byteAt p 1 → byteAt p 1 ≤ 3 → l.anchors = [] → Answers (.putanchor (crcBytes ([4#8] ++ p)) p) s (fun r => r.sys.listener = some
    { l with anchors := [{ slot := byteAt p 0, role := byteAt p 1, point := (p.drop 2).take 97, mask := beNat (p.drop 99) }] } ∧
    r.sys.answer = some (4, 0, []) ∧ Changes [] s r))
  ∧ (∀ (l : Listener) (p : List Byte) (s : State), s.sys.listener = some l → s.personalises = true → p.length = 131 → 8 ≤ byteAt p 0 ∨
    byteAt p 1 = 0 ∨ 3 < byteAt p 1 → Answers (.putanchor (crcBytes ([4#8] ++ p)) p) s (fun r => r.sys.listener = some l ∧ r.sys.answer =
    some (4, 3, []) ∧ Changes [] s r))
  -- PUTIDENT (R547)
  ∧ (∀ (l : Listener) (p : List Byte) (s : State), s.sys.listener = some l → s.personalises = true → p.length = 44 → Answers (.putident
    (crcBytes ([5#8] ++ p)) p) s (fun r => r.sys.listener = some { l with ident := some (p.take 16, (p.drop 16).take 16, p.drop 32) } ∧
    r.sys.answer = some (5, 0, []) ∧ Changes [] s r))
  ∧ (∀ (l : Listener) (p : List Byte) (s : State), s.sys.listener = some l → ¬ p.length = 44 → Answers (.putident (crcBytes ([5#8] ++ p))
    p) s (fun r => r.sys.listener = some l ∧ r.sys.answer = some (5, 3, []) ∧ Changes [] s r))
  -- PUTKEY1 (R547)
  ∧ (∀ (l : Listener) (p : List Byte) (s : State), s.sys.listener = some l → l.devKey = none → p.length = 169 → Answers (.putkey1
    (crcBytes ([6#8] ++ p)) p) s (fun r => r.sys.listener = some l ∧ r.sys.answer = some (6, 2, []) ∧ Changes [] s r))
  ∧ (∀ (l : Listener) (d : Nat) (p : List Byte) (s : State), s.sys.listener = some l → l.devKey = some d → s.personalises = true →
    p.length = 169 → Answers (.putkey1 (crcBytes ([6#8] ++ p)) p) s (fun r => r.sys.listener = some (((ecdh d (p.take 97)).bind (fun z =>
    kwUnwrap (Config.agreedKey z) 8 (beNat (p.drop 97)))).elim l (fun k => { l with key1 := some k })) ∧ r.sys.answer = some (6, if ((ecdh
    d (p.take 97)).bind (fun z => kwUnwrap (Config.agreedKey z) 8 (beNat (p.drop 97)))).isSome then 0 else 2, []) ∧ Changes [] s r))
  -- COMMIT (R547)
  ∧ (∀ (l : Listener) (k : Nat) (c m n a : List Byte) (s : State), s.sys.listener = some l → l.devKey = some k → l.cert = some c → l.ident
    = some (m, n, a) → s.personalises = true → hasCo l.anchors = true → s.rd SYS_RST_CAUSE_CAUSE = 0 → Answers (.commit (crcBytes [7#8])
    []) s (fun r => r.dom.keyRecord = true ∧ r.dom.salt = (s.rand 256).1 ∧ r.dom.devWrapped = kwWrap (kekOf (s.rand 256).1) 6 k ∧
    r.dom.cert = c ∧ r.dom.anchors = l.anchors ∧ r.dom.approved = true ∧ r.obj.model = m ∧ r.obj.serial = n ∧ r.sys.macs = a ∧ r.rd
    SYS_RST_CAUSE_CAUSE = 2 ∧ r.sys.listener = none))
  ∧ (∀ (l : Listener) (s : State), s.sys.listener = some l → l.cert = none → Answers (.commit (crcBytes [7#8]) []) s (fun r =>
    r.sys.answer = some (7, 2, []) ∧ r.sys.listener = some l ∧ r.dom = s.dom ∧ Changes [] s r))
  -- LOADIMG (R547)
  ∧ (∀ (l : Listener) (p : List Byte) (s : State), s.sys.listener = some l → 160 < p.length → p.length ≤ 3145729 → byteAt p 0 < 2 →
    s.imageOk (p.drop 1) = false → Answers (.loadimg (crcBytes ([16#8] ++ p)) p) s (fun r => r.sys.answer = some (0x10, 2, []) ∧ r.dom =
    s.dom ∧ Changes [] s r))
  ∧ (∀ (l : Listener) (p : List Byte) (s : State), s.sys.listener = some l → 160 < p.length → p.length ≤ 3145729 → byteAt p 0 < 2 →
    Answers (.loadimg (crcBytes ([16#8] ++ p)) p) s (fun r => r.sys.answer = some (0x10, if s.imageOk (p.drop 1) then 0 else 2, []) ∧
    r.dom.fwFailed = (if s.imageOk (p.drop 1) then upd s.dom.fwFailed (byteAt p 0) false else s.dom.fwFailed) ∧ (s.imageOk (p.drop 1) =
    true → r.norBytes (fwSlotAddr (byteAt p 0)) (p.length - 1) = p.drop 1) ∧ OnlyRegs [] s r))

/-- Memory BIST and trace overflow commands. R550, R557. Of the model, not of the spec: that a command whose condition does not hold
answers the unchanged state is the model's reading (log entry 6). -/
def Obligations.BistAndTraceRows : Prop :=
  -- BIST_GO (R550)
  (∀ (val : Word) (s : State), s.admits SYS_BIST_CMD = true → s.on SYS_BIST_CMD_GO = false → s.rd SYS_BIST_SEL_STORE = 4 → s.st bCHN 0 =
    stOFF → s.st bCHN 1 = stOFF → fieldOf val 0 2 < 3 → Answers (.bistGo val) s (fun r => r.sys.bist = some 4 ∧ r.rd SYS_BIST_CMD_GO = 1 ∧
    r.rd SYS_BIST_CMD_ALG = fieldOf val 0 2 ∧ Changes [SYS_BIST_CMD] s r))
  ∧ (∀ (val : Word) (s : State), s.admits SYS_BIST_CMD = true → s.on SYS_BIST_CMD_GO = false → s.rd SYS_BIST_SEL_STORE = 4 → s.st bCHN 0 =
    stON → Answers (.bistGo val) s (fun r => r.sys = s.sys ∧ r.rd SYS_BIST_CMD_GO = 0 ∧ r.rd ⟨pageBase bSYS 0 4 + 0x10, 27, 1⟩ = 1 ∧
    Changes [SYS_BIST_CMD, pageBase bSYS 0 4 + 0x10] s r))
  -- BIST_DONE (R550)
  ∧ (∀ (fails : Nat) (s : State), s.sys.bist = some 8 → fails = 8 → s.fwk.bistWait = [] → s.rd SYS_BIST_RES_FAIL = 1 → Answers (.bistDone
    fails) s (fun r => r.sys.bist = none ∧ r.rd SYS_BIST_RES_FAIL = 9 ∧ r.rd SYS_BIST_CMD_GO = 0 ∧ r.aot.sess = [] ∧ r.rd ⟨pageBase bSYS 0
    4 + 0x10, 28, 1⟩ = 1 ∧ Changes [SYS_BIST_RES_FAIL.addr, SYS_BIST_CMD, pageBase bSYS 0 4 + 0x10] s r))
  ∧ (∀ (fails : Nat) (s : State), s.sys.bist = none → Answers (.bistDone fails) s (fun r => r = s))
  -- OVERFLOW (R557)
  ∧ (∀ (n : Nat) (s : State), s.btpOpen = true → s.rd BTP_STAT_DROPPED = n → ¬ n = 0 → s.sys.fifo.length = 4090 → Answers (.overflow) s
    (fun r => r.sys.fifo = s.sys.fifo ++ ([0x5A#8, 0x3F#8, 6#8, 2#8] ++ leBytes 2 n) ∧ r.rd BTP_STAT_LEVEL = 4096 ∧ r.rd BTP_STAT_DROPPED
    = 0 ∧ r.rd ⟨pageBase bBTP 0 0 + 0x10, 28, 1⟩ = 1 ∧ Changes [BTP_STAT_LEVEL.addr, pageBase bBTP 0 0 + 0x10] s r))
  ∧ (∀ (s : State), 4090 < s.sys.fifo.length → Answers (.overflow) s (fun r => r = s))

/-- TAP instructions. R553, R554. -/
def Obligations.TapRows : Prop :=
  -- EXTEST (R553)
  (∀ (l : List Bool) (s : State), s.on DOM_MSTATE_APPROVED = false → Answers (.extest l) s (fun r => r = s.updSys (fun x =>
    { x with cells := l, tapIr := 0, tapDr := 2, balls := 1 })))
  ∧ (∀ (l : List Bool) (s : State), s.on DOM_MSTATE_APPROVED = true → Answers (.extest l) s (fun r => r = s.updSys (fun x =>
    { x with tapIr := 0xFF, tapDr := 0, balls := 0 })))
  -- SAMPLE_PRELOAD (R553)
  ∧ (∀ (c l : List Bool) (s : State), s.on DOM_MSTATE_APPROVED = false → Answers (.samplePreload c l) s (fun r => r = s.updSys (fun x =>
    { x with cells := l, captured := c, tapIr := 1, tapDr := 2, balls := 0 })))
  -- IDCODE (R553)
  ∧ (∀ (s : State), Answers (.idcode) s (fun r => r = s.updSys (fun x => { x with tapIr := 2, tapDr := 1, balls := 0 }) ∧ r.tapOut = s.rd
    SYS_JTAG_ID_IDCODE))
  -- CLAMP (R553)
  ∧ (∀ (s : State), s.on DOM_MSTATE_APPROVED = false → Answers (.clamp) s (fun r => r = s.updSys (fun x =>
    { x with tapIr := 3, tapDr := 0, balls := 1 })))
  -- HIGHZ (R553)
  ∧ (∀ (s : State), s.on DOM_MSTATE_APPROVED = false → Answers (.highz) s (fun r => r = s.updSys (fun x =>
    { x with tapIr := 4, tapDr := 0, balls := 2 })))
  -- EXTEST_PULSE (R553)
  ∧ (∀ (l : List Bool) (s : State), s.on DOM_MSTATE_APPROVED = false → Answers (.extestPulse l) s (fun r => r = s.updSys (fun x =>
    { x with cells := l, tapIr := 5, tapDr := 2, balls := 3 })))
  -- EXTEST_TRAIN (R553)
  ∧ (∀ (l : List Bool) (s : State), s.on DOM_MSTATE_APPROVED = false → Answers (.extestTrain l) s (fun r => r = s.updSys (fun x =>
    { x with cells := l, tapIr := 6, tapDr := 2, balls := 4 })))
  -- DEBUG (R553)
  ∧ (∀ (s : State), s.on DOM_MSTATE_APPROVED = false → s.on DOM_DBG_JTAG_EN = true → Answers (.debug) s (fun r => r = s.updSys (fun x =>
    { x with tapIr := 0x10, tapDr := 3, balls := 0 })))
  ∧ (∀ (s : State), s.on DOM_MSTATE_APPROVED = true ∨ s.on DOM_DBG_JTAG_EN = false → Answers (.debug) s (fun r => r = s.updSys (fun x =>
    { x with tapIr := 0xFF, tapDr := 0, balls := 0 })))
  -- MBIST (R554)
  ∧ (∀ (fails : Nat) (s : State), s.on DOM_MSTATE_APPROVED = false → s.on DOM_DBG_JTAG_EN = true → fails < 512 → Answers (.mbist 8 fails)
    s (fun r => r.sys.test = true ∧ r.keys = {} ∧ r.dom.keyRam = [] ∧ r.sys.tapIr = 0x11 ∧ r.aot.sess = [] ∧ r.rd SYS_BIST_RES_FAIL =
    Nat.land fails 8 ∧ r.halted = true))
  -- SCAN (R554)
  ∧ (∀ (s : State), s.on DOM_MSTATE_APPROVED = false → s.on DOM_DBG_JTAG_EN = true → Answers (.scan) s (fun r => r.sys.test = true ∧
    r.keys = {} ∧ r.dom.keyRam = [] ∧ r.sys.tapIr = 0x12 ∧ r.sys.tapDr = 5 ∧ r.halted = true ∧ SameMem s r))
  ∧ (∀ (s : State), s.on DOM_MSTATE_APPROVED = true → Answers (.scan) s (fun r => r = s.updSys (fun x =>
    { x with tapIr := 0xFF, tapDr := 0, balls := 0 })))
  -- BYPASS (R553)
  ∧ (∀ (s : State), Answers (.bypass) s (fun r => r = s.updSys (fun x => { x with tapIr := 0xFF, tapDr := 0, balls := 0 }) ∧ r.tapOut =
    0))

/-- Event recorder commands: posts, rate limits, clears. R524, R525, R526, R527, R528, R530. Of the model, not of the spec: that a command
whose condition does not hold answers the unchanged state is the model's reading (log entry 6). -/
def Obligations.EventRows : Prop :=
  -- HW_EVENT_POST (R524)
  (∀ (code sev source : Nat) (payload : List Byte) (s : State), 1 ≤ code → sev ≤ 6 → s.isOn bEVR 0 = true → s.evr.posts.length < 8 →
    Answers (.hwEventPost code sev source payload) s (fun r => r.evr =
    { s.evr with posts := s.evr.posts ++ [{ fw := false, code := code, sev := sev, source := source, payload := payload, time := s.evrTime }] }
    ∧ Changes [] s r))
  ∧ (∀ (code sev source : Nat) (payload : List Byte) (s : State), 1 ≤ code → sev = 3 → s.isOn bEVR 0 = true → 8 ≤ (s.evr.posts.filter (fun
    p => !p.fw)).length → Answers (.hwEventPost code sev source payload) s (fun r => r.evr = s.evr ∧ r.rd (EVR_DROP_SEV_HI 1) = satAdd
    (EVR_DROP_SEV_HI 1).width (s.rd (EVR_DROP_SEV_HI 1)) 1 ∧ r.rd ⟨pageBase bEVR 0 0 + 0x10, 26, 1⟩ = 1 ∧ Changes [(EVR_DROP_SEV_HI
    1).addr, pageBase bEVR 0 0 + 0x10] s r))
  -- EVR_POST (R525)
  ∧ (∀ (val : Word) (s : State), s.admits EVR_POST = true → s.isOn bEVR 0 = true → s.rd EVR_POST_STAT_DEPTH < 16 → Answers (.evrPost val)
    s (fun r => r.evr =
    { s.evr with posts := s.evr.posts ++ [{ fw := true, img := true, addr := fieldOf val 6 26 * 64, time := s.evrTime }] } ∧ r.rd
    EVR_POST_STAT_DEPTH = s.rd EVR_POST_STAT_DEPTH + 1 ∧ Changes [EVR_POST_STAT_DEPTH.addr] s r))
  ∧ (∀ (val : Word) (s : State), s.admits EVR_POST = true → s.rd EVR_POST_STAT_DEPTH = 16 → Answers (.evrPost val) s (fun r => r.evr =
    s.evr ∧ r.rd EVR_POST_STAT_REFUSED = satAdd EVR_POST_STAT_REFUSED.width (s.rd EVR_POST_STAT_REFUSED) 1 ∧ r.rd ⟨pageBase bEVR 0 0 +
    0x10, 23, 1⟩ = 1 ∧ Changes [EVR_POST_STAT_REFUSED.addr, pageBase bEVR 0 0 + 0x10] s r))
  -- POST_TAKEN (R526)
  ∧ (∀ (p : EvrPost) (s : State), s.isOn bEVR 0 = true → s.evr.posts = [p] → p.fw = false → p.img = false → p.sev = 6 → s.slotCode 0 = 0 →
    Answers (.postTaken) s (fun r => r.evr.posts = [] ∧ r.bytes (s.evrSlot 0) 64 = evrRecord p.code 6 p.source (s.rd EVR_SEQ_NEXT) p.time
    p.payload ∧ r.rd EVR_SEQ_NEXT = (s.rd EVR_SEQ_NEXT + 1) % 2 ^ EVR_SEQ_NEXT.width ∧ r.rd EVR_OCC_FATAL = (s.rd EVR_OCC_FATAL + 1) % 2 ^
    EVR_OCC_FATAL.width ∧ r.rd ⟨pageBase bEVR 0 0 + 0x10, 27, 1⟩ = 1))
  ∧ (∀ (p : EvrPost) (s : State), s.isOn bEVR 0 = true → s.evr.posts = [p] → p.fw = true → p.img = false → p.code / 256 = 1 → Answers
    (.postTaken) s (fun r => r.evr.posts = [] ∧ r.rd EVR_POST_STAT_REFUSED = satAdd EVR_POST_STAT_REFUSED.width (s.rd
    EVR_POST_STAT_REFUSED) 1 ∧ r.rd EVR_SEQ_NEXT = s.rd EVR_SEQ_NEXT ∧ r.rd ⟨pageBase bEVR 0 0 + 0x10, 23, 1⟩ = 1 ∧ SameMem s r))
  ∧ (∀ (s : State), s.isOn bEVR 0 = false → Answers (.postTaken) s (fun r => r = s))
  -- RATE_TOKENS_FULL (R528)
  ∧ (∀ (n : Nat) (s : State), n < 256 → (s.rateEntry n).count = 0 → Answers (.rateTokensFull n) s (fun r => r = s))
  ∧ (∀ (n : Nat) (x : RateEntry) (s : State), n < 256 → (s.rateEntry n).at s.fwk.mtime = x → ¬ x.count = 0 → x.full ≤ x.tokens → s.isOn
    bEVR 0 = true → s.evr.posts = [] → Answers (.rateTokensFull n) s (fun r => (r.rateEntry n).count = 0 ∧ (r.rateEntry n).maxsev = 0 ∧
    r.evr.posts = [{ fw := false, code := 0x0101, sev := x.maxsev, source := 5, payload := x.summary, time := s.evrTime }] ∧ r.rd
    ⟨pageBase bEVR 0 0 + 0x10, 22, 1⟩ = 1 ∧ Changes [pageBase bEVR 0 0 + 0x10] s r))
  -- RATE_ENTRY_WRITE (R527)
  ∧ (∀ (val : Word) (n : Nat) (s : State), s.admits EVR_RL_CFG = true → s.rd EVR_RL_SEL_ENTRY = n → fieldOf val 0 1 = 1 → Answers
    (.rateEntryWrite val) s (fun r => (r.rateEntry n).code = fieldOf val 16 16 ∧ (r.rateEntry n).burst = fieldOf val 8 8 ∧ (r.rateEntry
    n).en = true ∧ (r.rateEntry n).tokens = (r.rateEntry n).full ∧ Changes [] s r))
  -- CLR_FATAL (R530)
  ∧ (∀ (val : Word) (s : State), s.admits EVR_CMD = true → fieldOf val 0 1 = 0 → fieldOf val 2 1 = 0 → Answers (.clrFatal 0 val) s (fun r
    => r.rd ⟨pageBase bEVR 0 0 + 0x10, 21, 1⟩ = 1 ∧ Changes [pageBase bEVR 0 0 + 0x10] s r))
  ∧ (∀ (val : Word) (s : State), s.admits EVR_CMD = true → fieldOf val 0 1 = 0 → fieldOf val 2 1 = 0 → Answers (.clrFatal 13 val) s (fun r
    => r.rd EVR_OCC_FATAL = 0 ∧ (∀ k, k < 256 → r.slotCode k = 0) ∧ r.rd EVR_OCC_GENERAL = (s.rd EVR_OCC_GENERAL + (if generalSlots.any
    (fun k => s.slotCode k == 0) then 1 else 0)) % 2 ^ EVR_OCC_GENERAL.width))
  -- CLR_GEN (R530)
  ∧ (∀ (port : Nat) (val : Word) (s : State), s.admits EVR_CMD = true → fieldOf val 1 1 = 0 → fieldOf val 2 1 = 0 → Answers (.clrGen port
    val) s (fun r => r.rd EVR_OCC_GENERAL = 1 ∧ r.slotCode 256 = 0x0102 ∧ (∀ k, 257 ≤ k → k < 4096 → r.slotCode k = 0) ∧ r.rd
    EVR_OCC_FATAL = s.rd EVR_OCC_FATAL ∧ r.rd EVR_SEQ_NEXT = (s.rd EVR_SEQ_NEXT + 1) % 2 ^ EVR_SEQ_NEXT.width))
  -- EVR_CNT_CLR (R524)
  ∧ (∀ (val : Word) (n : Nat) (s : State), s.admits EVR_CMD = true → n < 4 → Answers (.evrCntClr val) s (fun r => r.reg (EVR_DROP n) = 0 ∧
    r.rd EVR_POST_STAT_REFUSED = 0 ∧ Changes [EVR_DROP 0, EVR_DROP 1, EVR_DROP 2, EVR_DROP 3, EVR_POST_STAT_REFUSED.addr] s r))

/-- A step runs the command at the front of the queue. The queue is the model's form of a block (log entry 1). -/
def Obligations.StepRunsFrontCommand : Prop :=
  ∀ (c : Instr) (l : List Instr) (s : State), step { s with pending := c :: l } = exec c { s with pending := l }

/-- With no command waiting a step is one fabric cycle (the model's choice, log entry 3). The tick on an empty queue is the model's choice
(log entry 3). -/
def Obligations.IdleStepIsOneCycle : Prop :=
  ∀ s : State, s.pending = [] → step s = .next s.tick ∧ (s.halted = true → s.tick = s)
    ∧ (s.halted = false → s.sprEnv.steps = [] → s.tick.fwk.cycle = s.fwk.cycle + 1
      ∧ s.tick.fwk.mtime = if (s.fwk.cycle + 1) % 40 = 0 then (s.fwk.mtime + 1) % 2 ^ 64 else s.fwk.mtime)

/-- What reset leaves: every register at the reset value of its table, pages locked, nothing waiting. State.reset stands at the release,
before the steps of Table 20-3 (log entry 1). -/
def Obligations.ResetLeavesTableValues : Prop :=
  (∀ a, State.reset.reg a = resetOf a) ∧ State.reset.rd PWR_DOM_STAT_POWERED = 0x7FF ∧ State.reset.rd CLK_CPU_MULT = 128
    ∧ State.reset.st bSYS 0 = stON ∧ State.reset.st bDOM 0 = stON ∧ State.reset.st bFLS 0 = stSTARTING ∧ State.reset.st bCUP 0 = stSTARTING
    ∧ State.reset.st bATB 0 = stOFF ∧ State.reset.st bLAN 1 = stOFF ∧ State.reset.fwk.unlocked = [] ∧ State.reset.fwk.mtime = 0
    ∧ State.reset.pending = [] ∧ State.reset.obj.cmds = []

/-- The canonical form holds at reset. The canonical form is the model's own (log entry 4). -/
def Obligations.ResetIsCanonical : Prop :=
  Canonical State.reset

/-- Every step keeps the canonical form of registers and memory, and takes at most the front command. The canonical form and the queue are
the model's own (log entries 1 and 4). -/
def Obligations.StepKeepsCanonical : Prop :=
  ∀ s r : State, Canonical s → step s = .next r → Canonical r ∧ r.pending = s.pending.tail

/-- No command ends the run: each answers a next state, on every state and with every operand. Events whose condition does not hold change
nothing (log entry 6). -/
def Obligations.EveryCommandAnswers : Prop :=
  (∀ (c : Instr) (s : State), ∃ r, exec c s = .next r) ∧ ∀ s : State, ∃ r, step s = .next r

/-- The frame on memory: a command that stores no byte leaves every byte as it was. What a command stores follows from its rules; a
command without a store has this frame. -/
def Obligations.MemoryFrame : Prop :=
  ∀ (c : Instr) (s r : State), storesNothing c = true → exec c s = .next r → SameMem s r

/-- The frame on keys and objects: 250 commands touch neither the key slots, the Dome nor the objects, and 190 no layout. Keys, Dome,
objects and layout change only through the commands that the chapters give that effect. -/
def Obligations.ObjectAndKeyFrame : Prop :=
  ∀ (c : Instr) (s r : State), exec c s = .next r →
    (leavesObjects c = true → r.keys = s.keys ∧ r.dom = s.dom ∧ r.obj = s.obj) ∧ (leavesLayout c = true → r.lay = s.lay)

/-- A register write that its page turns away changes nothing but, on a locked page, LOCKED_WRITE. A waiting STEP is performed by the next
SPR_CMD write (log entry 40). -/
def Obligations.TurnedAwayWritesChangeNothing : Prop :=
  ∀ (c : Instr) (a : Nat) (s : State), c.wf = true → target c = some a → s.sprEnv.steps = [] → s.admits a = false →
    exec c s = .next
      (if s.served a && !s.fuseDis a && !s.softWaiting a && listed a then s.wr ⟨pageOf a + 0x10, 31, 1⟩ 1 else s)

/-- R9: an expert write to a locked page is ignored and sets LOCKED_WRITE. R9. The forms that R28 and R36 turn away are stated below. -/
def Obligations.LockedPageIgnoresExpertWrite : Prop :=
  ∀ (port a : Nat) (w : Word) (s : State), 0x100 ≤ regOff a → listed a = true → a % 4 = 0 → s.regServed port a = true →
    s.fuseDis a = false → s.softWaiting a = false → s.unlocked a = false → s.sprEnv.steps = [] →
    Answers (.registerWrite port a 4 w) s (fun r => r = { s.wr ⟨pageOf a + 0x10, 31, 1⟩ 1 with resp := some {} }
      ∧ r.rd ⟨pageOf a + 0x10, 31, 1⟩ = 1 ∧ r.reg a = s.reg a ∧ Changes [pageOf a + 0x10] s r)

/-- R28: a page disabled by fuse ignores writes, and its STATE reads OFF. R28. -/
def Obligations.FuseDisabledPage : Prop :=
  ∀ (port a : Nat) (w : Word) (s : State), a % 4 = 0 → s.regServed port a = true → s.fuseDis a = true → s.sprEnv.steps = [] →
    (¬ regOff a = 0x1C → Answers (.registerWrite port a 4 w) s (fun r => r = { s with resp := some {} }))
    ∧ (regOff a = 0x0C → fieldOf (s.busWord port a).2.1 0 3 = stOFF)

/-- R36: while a soft reset waits, writes to the pages of the block are ignored. R36. -/
def Obligations.WaitingSoftReset : Prop :=
  ∀ (port a : Nat) (w : Word) (s : State), a % 4 = 0 → s.regServed port a = true → s.softWaiting a = true → s.sprEnv.steps = [] →
    ¬ regOff a = 0x1C → Answers (.registerWrite port a 4 w) s (fun r => r = { s with resp := some {} })

/-- R497: a voltage below the running frequency ends FREQ, and a frequency above the confirmed voltage is refused. R497. -/
def Obligations.VoltageLimitsFrequency : Prop :=
  (∀ (val : Word) (nack : Bool) (s : State), s.admits PWR_AVS_REQ = true → s.on PWR_AVS_REQ_GO = false → fieldOf val 0 10 % 5 = 0 →
      720 ≤ fieldOf val 0 10 → fieldOf val 0 10 ≤ 880 → multLimit (fieldOf val 0 10) < s.rd CLK_CPU_MULT →
      Answers (.avsRequest val nack) s (fun r => r.rd PWR_AVS_STAT_ERR = 2 ∧ r.rd PWR_AVS_REQ_GO = 0 ∧ r.pwr = s.pwr
        ∧ r.rd ⟨pageBase bPWR 0 2 + 0x10, 27, 1⟩ = 1 ∧ Changes [PWR_AVS_REQ, PWR_AVS_STAT_ERR.addr, pageBase bPWR 0 2 + 0x10] s r))
    ∧ (∀ (val : Word) (s : State), s.admits CLK_CPU = true → multLimit (s.rd PWR_AVS_STAT_MV_NOW) < fieldOf val 0 8 →
      Answers (.cpuMultWrite val) s (fun r => r.reg CLK_CPU = s.reg CLK_CPU ∧ r.rd ⟨pageBase bCLK 0 0 + 0x10, 27, 1⟩ = 1
        ∧ Changes [pageBase bCLK 0 0 + 0x10] s r))

/-- R515: SHUT clears only while no enabled channel is above its SHUT limit, and gated domains stay off. R515. -/
def Obligations.ShutClears : Prop :=
  ∀ (val : Word) (s : State), s.admits BEL_CMD = true →
    ((∀ n, n < 64 → s.on (BEL_CH_CFG_EN n) = true → s.rdI (BEL_CH_VAL_SAMPLE n) ≤ s.rdI (BEL_CH_ACT_SHUT n)) →
      Answers (.shutClr val) s (fun r => r.rd BEL_STATUS_SHUT = 0 ∧ r.rd PWR_DOM_STAT_POWERED = s.rd PWR_DOM_STAT_POWERED
        ∧ Changes [BEL_STATUS_SHUT.addr] s r))
    ∧ (∀ n, n < 64 → s.on (BEL_CH_CFG_EN n) = true → s.rdI (BEL_CH_ACT_SHUT n) < s.rdI (BEL_CH_VAL_SAMPLE n) →
      Answers (.shutClr val) s (fun r => r.rd BEL_STATUS_SHUT = s.rd BEL_STATUS_SHUT ∧ r.rd ⟨pageBase bBEL 0 0 + 0x10, 22, 1⟩ = 1
        ∧ r.rd PWR_DOM_STAT_POWERED = s.rd PWR_DOM_STAT_POWERED ∧ Changes [pageBase bBEL 0 0 + 0x10] s r))

/-- R524: a hardware post waits in an 8-entry queue; one that finds it full or STATE not ON is counted in EVR_DROP. R524. -/
def Obligations.HardwarePosts : Prop :=
  ∀ (code sev source : Nat) (payload : List Byte) (s : State), 1 ≤ code → sev ≤ 6 →
    (s.isOn bEVR 0 = true → (s.evr.posts.filter (fun p => !p.fw)).length < 8 →
      Answers (.hwEventPost code sev source payload) s (fun r =>
        r.evr = { s.evr with posts := s.evr.posts ++ [{ code := code, sev := sev, source := source, payload := payload, time := s.evrTime }] }
        ∧ Changes [] s r))
    ∧ (s.isOn bEVR 0 = false ∨ 8 ≤ (s.evr.posts.filter (fun p => !p.fw)).length →
      Answers (.hwEventPost code sev source payload) s (fun r => r.evr = s.evr
        ∧ r.rd (evrDropFld sev) = satAdd (evrDropFld sev).width (s.rd (evrDropFld sev)) 1
        ∧ Changes [(evrDropFld sev).addr, pageBase bEVR 0 0 + 0x10] s r))

/-- R540: a device reset adds its bit to SYS_RST_CAUSE, a power-on reset writes 1. R540, with the bits of Table 20-1. -/
def Obligations.ResetCauseBits : Prop :=
  (∀ (val : Word) (s : State), s.admits SYS_RST_REQ = true → Answers (.swNow val) s (fun r => r.rd SYS_RST_CAUSE_CAUSE =
      Nat.lor (s.rd SYS_RST_CAUSE_CAUSE) (if s.on SYS_RST_REQ_PEND then 4 else 2)))
    ∧ (∀ s : State, s.on SYS_WDT_CFG_EN = true → s.fwk.holdup = false → s.on SYS_WDT_STAT_WARNED = true →
      Answers .watchdogExpiry s (fun r => r.rd SYS_RST_CAUSE_CAUSE = Nat.lor (s.rd SYS_RST_CAUSE_CAUSE) 8))
    ∧ (∀ s : State, s.halted = false → Answers .clockLoss s (fun r => r.rd SYS_RST_CAUSE_CAUSE = Nat.lor (s.rd SYS_RST_CAUSE_CAUSE) 0x10))
    ∧ (∀ s : State, s.on PWR_TRIP_TRIPPED = true → s.pwr.thermal = false → ¬ s.rd PWR_HOLDUP_STAT_PHASE = 1 →
      Answers .thermalTripReset s (fun r => r.rd SYS_RST_CAUSE_CAUSE = Nat.lor (s.rd SYS_RST_CAUSE_CAUSE) 0x20))
    ∧ (∀ (b : Bool) (s : State), s.rd PWR_HOLDUP_STAT_PHASE = 1 → s.on PWR_TRIP_TRIPPED = true →
      Answers (.holdupDone b) s (fun r => r.rd SYS_RST_CAUSE_CAUSE = Nat.lor (s.rd SYS_RST_CAUSE_CAUSE) 0x20))
    ∧ (∀ s : State, s.rd PWR_HOLDUP_STAT_PHASE = 1 → s.on PWR_TRIP_TRIPPED = false →
      Answers (.holdupDone false) s (fun r => r.rd SYS_RST_CAUSE_CAUSE = Nat.lor (s.rd SYS_RST_CAUSE_CAUSE) 0x40))
    ∧ (∀ s : State, s.on SYS_RST_REQ_PEND = true → Answers .deferTimeout s (fun r => r.rd SYS_RST_CAUSE_CAUSE =
      Nat.lor (s.rd SYS_RST_CAUSE_CAUSE) 0x80))
    ∧ (∀ (fails : Nat) (b : Bool) (s : State), Answers (.powerOnReset fails b) s (fun r => r.reg SYS_RST_CAUSE = 1))
end

