-- ==== Sys2Proof/Laws/Canon.lean ====
section
/-! SUPPORT. The register file and memory: reads after writes, and the canonical form of both lists. -/

namespace Sys2Proof.Machine

/-! ## Reads after writes -/

theorem regLookup_insert_same (a : Nat) (v : Word) (l : List (Nat × Word)) : regLookup (regInsert a v l) a = some v := by
  induction l with
  | nil => simp [regInsert, regLookup]
  | cons e r ih =>
    obtain ⟨k, w⟩ := e
    by_cases h1 : a < k
    · simp [regInsert, regLookup, h1]
    · by_cases h2 : a = k
      · simp [regInsert, regLookup, h2]
      · have h3 : ¬ k = a := fun h => h2 h.symm
        simp [regInsert, regLookup, h1, h2, h3, ih]

theorem regLookup_insert_other (a b : Nat) (v : Word) (l : List (Nat × Word)) (h : a ≠ b) :
    regLookup (regInsert a v l) b = regLookup l b := by
  induction l with
  | nil => simp [regInsert, regLookup, h]
  | cons e r ih =>
    obtain ⟨k, w⟩ := e
    by_cases h1 : a < k
    · simp [regInsert, regLookup, h1, h]
    · by_cases h2 : a = k
      · subst h2
        simp [regInsert, regLookup, h]
      · simp [regInsert, regLookup, h1, h2, ih]

theorem regLookup_erase_same (a : Nat) (l : List (Nat × Word)) : regLookup (regErase a l) a = none := by
  induction l with
  | nil => rfl
  | cons e r ih =>
    obtain ⟨k, w⟩ := e
    by_cases h : k = a
    · simpa [regErase, h] using ih
    · have h2 : (k == a) = false := by simpa using h
      simpa [regErase, regLookup, h2, h] using ih

theorem regLookup_erase_other (a b : Nat) (l : List (Nat × Word)) (h : a ≠ b) : regLookup (regErase a l) b = regLookup l b := by
  induction l with
  | nil => rfl
  | cons e r ih =>
    obtain ⟨k, w⟩ := e
    by_cases h1 : k = a
    · subst h1
      simpa [regErase, regLookup, h] using ih
    · have h2 : (k == a) = false := by simpa using h1
      simp only [regErase, List.filter_cons, h2, Bool.not_false, if_true, regLookup]
      simp only [regErase] at ih
      rw [ih]

/-- A register reads what was written to it. -/
@[simp] theorem State.reg_setReg_same (s : State) (a : Nat) (v : Word) : (s.setReg a v).reg a = v := by
  unfold State.reg State.setReg
  by_cases h : v = resetOf a
  · simp [h, regLookup_erase_same]
  · simp [h, regLookup_insert_same]

/-- A write leaves every other register as it was. -/
theorem State.reg_setReg_other (s : State) (a b : Nat) (v : Word) (h : a ≠ b) : (s.setReg a v).reg b = s.reg b := by
  unfold State.reg State.setReg
  by_cases h1 : v = resetOf a
  · simp [h1, regLookup_erase_other _ _ _ h]
  · simp [h1, regLookup_insert_other _ _ _ _ h]

theorem memLookup_insert_same (a : Nat) (v : Byte) (l : List Host.Cell) : memLookup (memInsert a v l) a = v := by
  induction l with
  | nil => simp [memInsert, memLookup]
  | cons e r ih =>
    obtain ⟨k, w⟩ := e
    by_cases h1 : a < k
    · simp [memInsert, memLookup, h1]
    · by_cases h2 : a = k
      · simp [memInsert, memLookup, h2]
      · have h3 : ¬ k = a := fun h => h2 h.symm
        simp [memInsert, memLookup, h1, h2, h3, ih]

theorem memLookup_insert_other (a b : Nat) (v : Byte) (l : List Host.Cell) (h : a ≠ b) :
    memLookup (memInsert a v l) b = memLookup l b := by
  induction l with
  | nil => simp [memInsert, memLookup, h]
  | cons e r ih =>
    obtain ⟨k, w⟩ := e
    by_cases h1 : a < k
    · simp [memInsert, memLookup, h1, h]
    · by_cases h2 : a = k
      · subst h2
        simp [memInsert, memLookup, h]
      · simp [memInsert, memLookup, h1, h2, ih]

theorem memLookup_erase_same (a : Nat) (l : List Host.Cell) : memLookup (memErase a l) a = 0 := by
  induction l with
  | nil => rfl
  | cons e r ih =>
    obtain ⟨k, w⟩ := e
    by_cases h : k = a
    · simpa [memErase, h] using ih
    · have h2 : (k == a) = false := by simpa using h
      simpa [memErase, memLookup, h2, h] using ih

theorem memLookup_erase_other (a b : Nat) (l : List Host.Cell) (h : a ≠ b) : memLookup (memErase a l) b = memLookup l b := by
  induction l with
  | nil => rfl
  | cons e r ih =>
    obtain ⟨k, w⟩ := e
    by_cases h1 : k = a
    · subst h1
      simpa [memErase, memLookup, h] using ih
    · have h2 : (k == a) = false := by simpa using h1
      simp only [memErase, List.filter_cons, h2, Bool.not_false, if_true, memLookup]
      simp only [memErase] at ih
      rw [ih]

/-- A byte reads what was written to it. -/
@[simp] theorem State.byte_setByte_same (s : State) (a : Nat) (v : Byte) : (s.setByte a v).byte a = v := by
  unfold State.byte State.setByte
  by_cases h : v = 0
  · subst h
    exact memLookup_erase_same a s.mem
  · rw [if_neg h]
    exact memLookup_insert_same a v s.mem

/-- A write leaves every other byte as it was. -/
theorem State.byte_setByte_other (s : State) (a b : Nat) (v : Byte) (h : a ≠ b) : (s.setByte a v).byte b = s.byte b := by
  unfold State.byte State.setByte
  by_cases h1 : v = 0
  · rw [if_pos h1]
    exact memLookup_erase_other a b s.mem h
  · rw [if_neg h1]
    exact memLookup_insert_other a b v s.mem h

/-- A list of bytes leaves the bytes below it as they were. -/
theorem State.byte_setBytes_below (l : List Byte) : ∀ (s : State) (a b : Nat), b < a → (s.setBytes a l).byte b = s.byte b := by
  induction l with
  | nil => intro s a b _; rfl
  | cons v r ih =>
    intro s a b h
    have h1 : a ≠ b := by omega
    rw [State.setBytes, ih _ _ _ (by omega), State.byte_setByte_other s a b v h1]

/-- A list of bytes leaves the bytes above it as they were. -/
theorem State.byte_setBytes_above (l : List Byte) : ∀ (s : State) (a b : Nat), a + l.length ≤ b → (s.setBytes a l).byte b = s.byte b := by
  induction l with
  | nil => intro s a b _; rfl
  | cons v r ih =>
    intro s a b h
    have h1 : a ≠ b := by simp only [List.length_cons] at h; omega
    rw [State.setBytes, ih _ _ _ (by simp only [List.length_cons] at h; omega), State.byte_setByte_other s a b v h1]

/-- The bytes written read back. -/
theorem State.byte_setBytes_in (l : List Byte) : ∀ (s : State) (a k : Nat) (h : k < l.length), (s.setBytes a l).byte (a + k) = l[k] := by
  induction l with
  | nil => intro s a k h; simp at h
  | cons v r ih =>
    intro s a k h
    cases k with
    | zero => rw [State.setBytes, Nat.add_zero, State.byte_setBytes_below _ _ _ _ (by omega)]; simp
    | succ n =>
      have h2 : n < r.length := by simpa using h
      rw [State.setBytes, show a + (n + 1) = a + 1 + n by omega, ih _ _ _ h2]
      simp

/-! ## Fields of a register -/

theorem withField_toNat (v : Word) (lo w x : Nat) (h : lo + w ≤ 32) :
    (withField v lo w x).toNat = v.toNat - v.toNat / 2 ^ lo % 2 ^ w * 2 ^ lo + x % 2 ^ w * 2 ^ lo := by
  unfold withField
  rw [BitVec.toNat_ofNat]
  apply Nat.mod_eq_of_lt
  have hv := v.isLt
  have e : (2 : Nat) ^ lo * 2 ^ w * 2 ^ (32 - lo - w) = 2 ^ 32 := by
    rw [← pow_add, ← pow_add]
    congr 1
    omega
  generalize v.toNat = n at *
  have hA : 0 < 2 ^ lo := by positivity
  have hB : 0 < 2 ^ w := by positivity
  generalize 2 ^ lo = A at *
  generalize 2 ^ w = B at *
  generalize 2 ^ (32 - lo - w) = C at *
  have d1 : n = A * (n / A) + n % A := (Nat.div_add_mod n A).symm
  have d2 : n / A = B * (n / A / B) + n / A % B := (Nat.div_add_mod (n / A) B).symm
  have m1 : n % A < A := Nat.mod_lt _ hA
  have m2 : x % B < B := Nat.mod_lt _ hB
  have hq : n / A / B < C := by
    rw [Nat.div_div_eq_div_mul]
    exact Nat.div_lt_of_lt_mul (by rw [e]; exact hv)
  rw [← e]
  generalize n / A / B = q at *
  generalize n / A % B = y at *
  generalize n % A = r at *
  generalize x % B = z at *
  have hn : n = A * (B * q + y) + r := by rw [← d2]; exact d1
  have h3 : n - y * A = A * B * q + r := by
    rw [hn]
    have : A * (B * q + y) + r = A * B * q + r + y * A := by ring
    rw [this, Nat.add_sub_cancel]
  rw [h3]
  have h4 : z + 1 ≤ B := m2
  have h5 : q + 1 ≤ C := hq
  calc A * B * q + r + z * A < A * B * q + A + z * A := by omega
    _ = A * B * q + A * (z + 1) := by ring
    _ ≤ A * B * q + A * B := by gcongr
    _ = A * B * (q + 1) := by ring
    _ ≤ A * B * C := by gcongr

/-- A field reads what was written to it. -/
theorem fieldOf_withField_same (v : Word) (lo w x : Nat) (h : lo + w ≤ 32) : fieldOf (withField v lo w x) lo w = x % 2 ^ w := by
  unfold fieldOf
  rw [withField_toNat v lo w x h]
  have hA : 0 < 2 ^ lo := by positivity
  have hB : 0 < 2 ^ w := by positivity
  generalize v.toNat = n
  generalize 2 ^ lo = A at *
  generalize 2 ^ w = B at *
  have d1 : n = A * (n / A) + n % A := (Nat.div_add_mod n A).symm
  have d2 : n / A = B * (n / A / B) + n / A % B := (Nat.div_add_mod (n / A) B).symm
  have m1 : n % A < A := Nat.mod_lt _ hA
  generalize n / A / B = q at *
  generalize n / A % B = y at *
  generalize n % A = r at *
  have hn : n = A * (B * q + y) + r := by rw [← d2]; exact d1
  have h3 : n - y * A = A * B * q + r := by
    rw [hn]
    have : A * (B * q + y) + r = A * B * q + r + y * A := by ring
    rw [this, Nat.add_sub_cancel]
  rw [h3]
  have h4 : A * B * q + r + x % B * A = r + A * (B * q + x % B) := by ring
  rw [h4, Nat.add_mul_div_left _ _ hA, Nat.div_eq_of_lt m1, Nat.zero_add, Nat.mul_add_mod, Nat.mod_mod]

/-- A field below the one written is unchanged. -/
theorem fieldOf_withField_below (v : Word) (lo w x lo' w' : Nat) (h : lo + w ≤ 32) (hd : lo' + w' ≤ lo) :
    fieldOf (withField v lo w x) lo' w' = fieldOf v lo' w' := by
  unfold fieldOf
  rw [withField_toNat v lo w x h]
  have hA : 0 < 2 ^ lo := by positivity
  have hB : 0 < 2 ^ w := by positivity
  obtain ⟨c, rfl⟩ := Nat.exists_eq_add_of_le hd
  generalize v.toNat = n
  have e : (2 : Nat) ^ (lo' + w' + c) = 2 ^ lo' * (2 ^ w' * 2 ^ c) := by rw [pow_add, pow_add]; ring
  have hle : n / 2 ^ (lo' + w' + c) % 2 ^ w * 2 ^ (lo' + w' + c) ≤ n := by
    calc _ ≤ n / 2 ^ (lo' + w' + c) * 2 ^ (lo' + w' + c) := Nat.mul_le_mul_right _ (Nat.mod_le _ _)
      _ ≤ n := Nat.div_mul_le_self _ _
  generalize hy : n / 2 ^ (lo' + w' + c) % 2 ^ w = y at *
  generalize x % 2 ^ w = z
  rw [e] at hle ⊢
  have hL : 0 < 2 ^ lo' := by positivity
  obtain ⟨m, hm⟩ : ∃ m, n = m + y * (2 ^ lo' * (2 ^ w' * 2 ^ c)) := ⟨n - y * (2 ^ lo' * (2 ^ w' * 2 ^ c)), by omega⟩
  have key : ∀ k : Nat, (m + k * (2 ^ lo' * (2 ^ w' * 2 ^ c))) / 2 ^ lo' % 2 ^ w' = m / 2 ^ lo' % 2 ^ w' := by
    intro k
    have : m + k * (2 ^ lo' * (2 ^ w' * 2 ^ c)) = m + 2 ^ lo' * (2 ^ w' * (k * 2 ^ c)) := by ring
    rw [this, Nat.add_mul_div_left _ _ hL, Nat.add_mul_mod_self_left]
  rw [hm, Nat.add_sub_cancel, key z, key y]

/-- A field above the one written is unchanged. -/
theorem fieldOf_withField_above (v : Word) (lo w x lo' w' : Nat) (h : lo + w ≤ 32) (hd : lo + w ≤ lo') :
    fieldOf (withField v lo w x) lo' w' = fieldOf v lo' w' := by
  unfold fieldOf
  rw [withField_toNat v lo w x h]
  have hA : 0 < 2 ^ lo := by positivity
  have hB : 0 < 2 ^ w := by positivity
  obtain ⟨c, rfl⟩ := Nat.exists_eq_add_of_le hd
  generalize v.toNat = n
  have e : (2 : Nat) ^ (lo + w + c) = 2 ^ lo * 2 ^ w * 2 ^ c := by rw [pow_add, pow_add]
  rw [e]
  congr 1
  rw [← Nat.div_div_eq_div_mul, ← Nat.div_div_eq_div_mul, ← Nat.div_div_eq_div_mul, ← Nat.div_div_eq_div_mul]
  congr 1
  generalize 2 ^ lo = A at *
  generalize 2 ^ w = B at *
  have d1 : n = A * (n / A) + n % A := (Nat.div_add_mod n A).symm
  have d2 : n / A = B * (n / A / B) + n / A % B := (Nat.div_add_mod (n / A) B).symm
  have m1 : n % A < A := Nat.mod_lt _ hA
  have m2 : x % B < B := Nat.mod_lt _ hB
  generalize n / A / B = q at *
  generalize n / A % B = y at *
  generalize n % A = r at *
  generalize x % B = z at *
  have hn : n = A * (B * q + y) + r := by rw [← d2]; exact d1
  have h3 : n - y * A = A * B * q + r := by
    rw [hn]
    have : A * (B * q + y) + r = A * B * q + r + y * A := by ring
    rw [this, Nat.add_sub_cancel]
  rw [h3]
  have h4 : A * B * q + r + z * A = r + A * (z + B * q) := by ring
  rw [h4, Nat.add_mul_div_left _ _ hA, Nat.div_eq_of_lt m1, Nat.zero_add, Nat.add_mul_div_left _ _ hB, Nat.div_eq_of_lt m2, Nat.zero_add]

/-- A register field reads what was written to it. -/
theorem State.rd_wr_same (s : State) (f : Fld) (x : Nat) (h : f.lo + f.width ≤ 32) : (s.wr f x).rd f = x % 2 ^ f.width := by
  unfold State.rd State.wr
  rw [State.reg_setReg_same, fieldOf_withField_same _ _ _ _ h]

/-- A write of a field leaves the fields of other registers as they were. -/
theorem State.rd_wr_other (s : State) (f g : Fld) (x : Nat) (h : f.addr ≠ g.addr) : (s.wr f x).rd g = s.rd g := by
  unfold State.rd State.wr
  rw [State.reg_setReg_other _ _ _ _ h]

/-- A write of a field leaves the register's other fields as they were. -/
theorem State.rd_wr_beside (s : State) (f g : Fld) (x : Nat) (h : f.lo + f.width ≤ 32)
    (hd : g.lo + g.width ≤ f.lo ∨ f.lo + f.width ≤ g.lo) : (s.wr f x).rd g = s.rd g := by
  by_cases ha : f.addr = g.addr
  · unfold State.rd State.wr
    rw [← ha, State.reg_setReg_same]
    rcases hd with hd | hd
    · exact fieldOf_withField_below _ _ _ _ _ _ h hd
    · exact fieldOf_withField_above _ _ _ _ _ _ h hd
  · exact State.rd_wr_other s f g x ha

/-- A write of a field leaves every other register as it was. -/
theorem State.reg_wr_other (s : State) (f : Fld) (a x : Nat) (h : f.addr ≠ a) : (s.wr f x).reg a = s.reg a := by
  unfold State.wr
  exact State.reg_setReg_other _ _ _ _ h

/-! ## The canonical form -/

/-- The canonical form of the register file in terms of its entries. -/
theorem regsWf_iff (l : List (Nat × Word)) :
    regsWf l = true ↔ l.Pairwise (fun x y => x.1 < y.1) ∧ ∀ e ∈ l, e.2 ≠ resetOf e.1 := by
  induction l with
  | nil => simp [regsWf]
  | cons e r ih =>
    obtain ⟨k, v⟩ := e
    cases r with
    | nil => simp [regsWf]
    | cons e2 r2 =>
      obtain ⟨k2, v2⟩ := e2
      simp only [regsWf, Bool.and_eq_true, ih, decide_eq_true_eq, List.pairwise_cons, List.mem_cons]
      constructor
      · rintro ⟨⟨h1, h2⟩, ⟨h3, h4⟩, h5⟩
        refine ⟨⟨?_, h3, h4⟩, ?_⟩
        · rintro e (rfl | he)
          · exact h2
          · exact lt_trans h2 (h3 e he)
        · rintro e (rfl | he)
          · simpa using h1
          · exact h5 e he
      · rintro ⟨⟨h1, h2, h3⟩, h4⟩
        refine ⟨⟨by simpa using h4 (k, v) (Or.inl rfl), h1 (k2, v2) (Or.inl rfl)⟩, ⟨h2, h3⟩, fun e he => h4 e (Or.inr he)⟩

theorem mem_regInsert (a : Nat) (v : Word) (l : List (Nat × Word)) (e : Nat × Word) (h : e ∈ regInsert a v l) :
    e = (a, v) ∨ e ∈ l := by
  induction l with
  | nil => simpa [regInsert] using h
  | cons x r ih =>
    obtain ⟨k, w⟩ := x
    unfold regInsert at h
    split at h
    · simpa using h
    · split at h
      · simp only [List.mem_cons] at h ⊢
        rcases h with h | h
        · exact Or.inl h
        · exact Or.inr (Or.inr h)
      · simp only [List.mem_cons] at h ⊢
        rcases h with h | h
        · exact Or.inr (Or.inl h)
        · rcases ih h with h | h
          · exact Or.inl h
          · exact Or.inr (Or.inr h)

theorem pairwise_regInsert (a : Nat) (v : Word) (l : List (Nat × Word)) (h : l.Pairwise (fun x y => x.1 < y.1)) :
    (regInsert a v l).Pairwise (fun x y => x.1 < y.1) := by
  induction l with
  | nil => simp [regInsert]
  | cons x r ih =>
    obtain ⟨k, w⟩ := x
    obtain ⟨h1, h2⟩ := List.pairwise_cons.mp h
    unfold regInsert
    split
    · rename_i hk
      refine List.pairwise_cons.mpr ⟨?_, h⟩
      intro e he
      rcases List.mem_cons.mp he with rfl | he
      · exact hk
      · exact lt_trans hk (h1 e he)
    · split
      · rename_i hk
        subst hk
        exact List.pairwise_cons.mpr ⟨h1, h2⟩
      · refine List.pairwise_cons.mpr ⟨?_, ih h2⟩
        intro e he
        rcases mem_regInsert a v r e he with rfl | he
        · show k < a
          omega
        · exact h1 e he

/-- A write of a register keeps the canonical form. -/
theorem regsWf_setReg (s : State) (a : Nat) (v : Word) (h : regsWf s.regs = true) : regsWf (s.setReg a v).regs = true := by
  rw [regsWf_iff] at h ⊢
  by_cases hv : v = resetOf a
  · simp only [State.setReg, hv, if_true, regErase]
    exact ⟨h.1.filter _, fun e he => h.2 e (List.mem_of_mem_filter he)⟩
  · simp only [State.setReg, hv, if_false]
    refine ⟨pairwise_regInsert a v _ h.1, fun e he => ?_⟩
    rcases mem_regInsert a v _ e he with rfl | he
    · exact hv
    · exact h.2 e he

/-- A part of the register file is canonical. -/
theorem regsWf_filter (p : Nat × Word → Bool) (l : List (Nat × Word)) (h : regsWf l = true) : regsWf (l.filter p) = true := by
  rw [regsWf_iff] at h ⊢
  exact ⟨h.1.filter _, fun e he => h.2 e (List.mem_of_mem_filter he)⟩

/-- The canonical form of memory in terms of its entries. -/
theorem memWf_iff (l : List Host.Cell) : memWf l = true ↔ l.Pairwise (fun x y => x.1 < y.1) ∧ ∀ e ∈ l, e.2 ≠ 0#8 := by
  induction l with
  | nil => simp [memWf]
  | cons e r ih =>
    obtain ⟨k, v⟩ := e
    cases r with
    | nil => simp [memWf]
    | cons e2 r2 =>
      obtain ⟨k2, v2⟩ := e2
      simp only [memWf, Bool.and_eq_true, ih, decide_eq_true_eq, List.pairwise_cons, List.mem_cons]
      constructor
      · rintro ⟨⟨h1, h2⟩, ⟨h3, h4⟩, h5⟩
        refine ⟨⟨?_, h3, h4⟩, ?_⟩
        · rintro e (rfl | he)
          · exact h2
          · exact lt_trans h2 (h3 e he)
        · rintro e (rfl | he)
          · simpa using h1
          · exact h5 e he
      · rintro ⟨⟨h1, h2, h3⟩, h4⟩
        refine ⟨⟨by simpa using h4 (k, v) (Or.inl rfl), h1 (k2, v2) (Or.inl rfl)⟩, ⟨h2, h3⟩, fun e he => h4 e (Or.inr he)⟩

theorem mem_memInsert (a : Nat) (v : Byte) (l : List Host.Cell) (e : Host.Cell) (h : e ∈ memInsert a v l) : e = (a, v) ∨ e ∈ l := by
  induction l with
  | nil => simpa [memInsert] using h
  | cons x r ih =>
    obtain ⟨k, w⟩ := x
    unfold memInsert at h
    split at h
    · simpa using h
    · split at h
      · simp only [List.mem_cons] at h ⊢
        rcases h with h | h
        · exact Or.inl h
        · exact Or.inr (Or.inr h)
      · simp only [List.mem_cons] at h ⊢
        rcases h with h | h
        · exact Or.inr (Or.inl h)
        · rcases ih h with h | h
          · exact Or.inl h
          · exact Or.inr (Or.inr h)

theorem pairwise_memInsert (a : Nat) (v : Byte) (l : List Host.Cell) (h : l.Pairwise (fun x y => x.1 < y.1)) :
    (memInsert a v l).Pairwise (fun x y => x.1 < y.1) := by
  induction l with
  | nil => simp [memInsert]
  | cons x r ih =>
    obtain ⟨k, w⟩ := x
    obtain ⟨h1, h2⟩ := List.pairwise_cons.mp h
    unfold memInsert
    split
    · rename_i hk
      refine List.pairwise_cons.mpr ⟨?_, h⟩
      intro e he
      rcases List.mem_cons.mp he with rfl | he
      · exact hk
      · exact lt_trans hk (h1 e he)
    · split
      · rename_i hk
        subst hk
        exact List.pairwise_cons.mpr ⟨h1, h2⟩
      · refine List.pairwise_cons.mpr ⟨?_, ih h2⟩
        intro e he
        rcases mem_memInsert a v r e he with rfl | he
        · show k < a
          omega
        · exact h1 e he

/-- A write of a byte keeps the canonical form. -/
theorem memWf_setByte (s : State) (a : Nat) (v : Byte) (h : memWf s.mem = true) : memWf (s.setByte a v).mem = true := by
  rw [memWf_iff] at h ⊢
  by_cases hv : v = 0
  · subst hv
    simp only [State.setByte, if_true, memErase]
    exact ⟨h.1.filter _, fun e he => h.2 e (List.mem_of_mem_filter he)⟩
  · simp only [State.setByte, if_neg hv]
    refine ⟨pairwise_memInsert a v _ h.1, fun e he => ?_⟩
    rcases mem_memInsert a v _ e he with rfl | he
    · exact hv
    · exact h.2 e he

/-- A part of memory is canonical. -/
theorem memWf_filter (p : Host.Cell → Bool) (l : List Host.Cell) (h : memWf l = true) : memWf (l.filter p) = true := by
  rw [memWf_iff] at h ⊢
  exact ⟨h.1.filter _, fun e he => h.2 e (List.mem_of_mem_filter he)⟩

end Sys2Proof.Machine
end

