-- ==== Sys2Proof/Laws/State.lean ====
section
/-! SUPPORT. What each update of one part of the state leaves of the others. -/

namespace Sys2Proof.Machine

@[simp] theorem State.setReg_mem (s : State) (a : Nat) (v : Word) : (s.setReg a v).mem = s.mem := rfl
@[simp] theorem State.setReg_fwk (s : State) (a : Nat) (v : Word) : (s.setReg a v).fwk = s.fwk := rfl
@[simp] theorem State.setReg_atb (s : State) (a : Nat) (v : Word) : (s.setReg a v).atb = s.atb := rfl
@[simp] theorem State.setReg_spn (s : State) (a : Nat) (v : Word) : (s.setReg a v).spn = s.spn := rfl
@[simp] theorem State.setReg_engA (s : State) (a : Nat) (v : Word) : (s.setReg a v).engA = s.engA := rfl
@[simp] theorem State.setReg_engB (s : State) (a : Nat) (v : Word) : (s.setReg a v).engB = s.engB := rfl
@[simp] theorem State.setReg_engS (s : State) (a : Nat) (v : Word) : (s.setReg a v).engS = s.engS := rfl
@[simp] theorem State.setReg_srv (s : State) (a : Nat) (v : Word) : (s.setReg a v).srv = s.srv := rfl
@[simp] theorem State.setReg_chn (s : State) (a : Nat) (v : Word) : (s.setReg a v).chn = s.chn := rfl
@[simp] theorem State.setReg_twr (s : State) (a : Nat) (v : Word) : (s.setReg a v).twr = s.twr := rfl
@[simp] theorem State.setReg_lay (s : State) (a : Nat) (v : Word) : (s.setReg a v).lay = s.lay := rfl
@[simp] theorem State.setReg_keys (s : State) (a : Nat) (v : Word) : (s.setReg a v).keys = s.keys := rfl
@[simp] theorem State.setReg_spires (s : State) (a : Nat) (v : Word) : (s.setReg a v).spires = s.spires := rfl
@[simp] theorem State.setReg_sprEnv (s : State) (a : Nat) (v : Word) : (s.setReg a v).sprEnv = s.sprEnv := rfl
@[simp] theorem State.setReg_eth (s : State) (a : Nat) (v : Word) : (s.setReg a v).eth = s.eth := rfl
@[simp] theorem State.setReg_aot (s : State) (a : Nat) (v : Word) : (s.setReg a v).aot = s.aot := rfl
@[simp] theorem State.setReg_obj (s : State) (a : Nat) (v : Word) : (s.setReg a v).obj = s.obj := rfl
@[simp] theorem State.setReg_dom (s : State) (a : Nat) (v : Word) : (s.setReg a v).dom = s.dom := rfl
@[simp] theorem State.setReg_evr (s : State) (a : Nat) (v : Word) : (s.setReg a v).evr = s.evr := rfl
@[simp] theorem State.setReg_ddr (s : State) (a : Nat) (v : Word) : (s.setReg a v).ddr = s.ddr := rfl
@[simp] theorem State.setReg_cup (s : State) (a : Nat) (v : Word) : (s.setReg a v).cup = s.cup := rfl
@[simp] theorem State.setReg_dma (s : State) (a : Nat) (v : Word) : (s.setReg a v).dma = s.dma := rfl
@[simp] theorem State.setReg_cores (s : State) (a : Nat) (v : Word) : (s.setReg a v).cores = s.cores := rfl
@[simp] theorem State.setReg_fls (s : State) (a : Nat) (v : Word) : (s.setReg a v).fls = s.fls := rfl
@[simp] theorem State.setReg_pwr (s : State) (a : Nat) (v : Word) : (s.setReg a v).pwr = s.pwr := rfl
@[simp] theorem State.setReg_sys (s : State) (a : Nat) (v : Word) : (s.setReg a v).sys = s.sys := rfl
@[simp] theorem State.setReg_resp (s : State) (a : Nat) (v : Word) : (s.setReg a v).resp = s.resp := rfl
@[simp] theorem State.setReg_freeCount (s : State) (a : Nat) (v : Word) : (s.setReg a v).freeCount = s.freeCount := rfl
@[simp] theorem State.setReg_pending (s : State) (a : Nat) (v : Word) : (s.setReg a v).pending = s.pending := rfl
@[simp] theorem State.setReg_byte (s : State) (a : Nat) (v : Word) (k : Nat) : (s.setReg a v).byte k = s.byte k := rfl
@[simp] theorem State.wr_mem (s : State) (f : Fld) (x : Nat) : (s.wr f x).mem = s.mem := State.setReg_mem s _ _
@[simp] theorem State.wr_fwk (s : State) (f : Fld) (x : Nat) : (s.wr f x).fwk = s.fwk := State.setReg_fwk s _ _
@[simp] theorem State.wr_atb (s : State) (f : Fld) (x : Nat) : (s.wr f x).atb = s.atb := State.setReg_atb s _ _
@[simp] theorem State.wr_spn (s : State) (f : Fld) (x : Nat) : (s.wr f x).spn = s.spn := State.setReg_spn s _ _
@[simp] theorem State.wr_engA (s : State) (f : Fld) (x : Nat) : (s.wr f x).engA = s.engA := State.setReg_engA s _ _
@[simp] theorem State.wr_engB (s : State) (f : Fld) (x : Nat) : (s.wr f x).engB = s.engB := State.setReg_engB s _ _
@[simp] theorem State.wr_engS (s : State) (f : Fld) (x : Nat) : (s.wr f x).engS = s.engS := State.setReg_engS s _ _
@[simp] theorem State.wr_srv (s : State) (f : Fld) (x : Nat) : (s.wr f x).srv = s.srv := State.setReg_srv s _ _
@[simp] theorem State.wr_chn (s : State) (f : Fld) (x : Nat) : (s.wr f x).chn = s.chn := State.setReg_chn s _ _
@[simp] theorem State.wr_twr (s : State) (f : Fld) (x : Nat) : (s.wr f x).twr = s.twr := State.setReg_twr s _ _
@[simp] theorem State.wr_lay (s : State) (f : Fld) (x : Nat) : (s.wr f x).lay = s.lay := State.setReg_lay s _ _
@[simp] theorem State.wr_keys (s : State) (f : Fld) (x : Nat) : (s.wr f x).keys = s.keys := State.setReg_keys s _ _
@[simp] theorem State.wr_spires (s : State) (f : Fld) (x : Nat) : (s.wr f x).spires = s.spires := State.setReg_spires s _ _
@[simp] theorem State.wr_sprEnv (s : State) (f : Fld) (x : Nat) : (s.wr f x).sprEnv = s.sprEnv := State.setReg_sprEnv s _ _
@[simp] theorem State.wr_eth (s : State) (f : Fld) (x : Nat) : (s.wr f x).eth = s.eth := State.setReg_eth s _ _
@[simp] theorem State.wr_aot (s : State) (f : Fld) (x : Nat) : (s.wr f x).aot = s.aot := State.setReg_aot s _ _
@[simp] theorem State.wr_obj (s : State) (f : Fld) (x : Nat) : (s.wr f x).obj = s.obj := State.setReg_obj s _ _
@[simp] theorem State.wr_dom (s : State) (f : Fld) (x : Nat) : (s.wr f x).dom = s.dom := State.setReg_dom s _ _
@[simp] theorem State.wr_evr (s : State) (f : Fld) (x : Nat) : (s.wr f x).evr = s.evr := State.setReg_evr s _ _
@[simp] theorem State.wr_ddr (s : State) (f : Fld) (x : Nat) : (s.wr f x).ddr = s.ddr := State.setReg_ddr s _ _
@[simp] theorem State.wr_cup (s : State) (f : Fld) (x : Nat) : (s.wr f x).cup = s.cup := State.setReg_cup s _ _
@[simp] theorem State.wr_dma (s : State) (f : Fld) (x : Nat) : (s.wr f x).dma = s.dma := State.setReg_dma s _ _
@[simp] theorem State.wr_cores (s : State) (f : Fld) (x : Nat) : (s.wr f x).cores = s.cores := State.setReg_cores s _ _
@[simp] theorem State.wr_fls (s : State) (f : Fld) (x : Nat) : (s.wr f x).fls = s.fls := State.setReg_fls s _ _
@[simp] theorem State.wr_pwr (s : State) (f : Fld) (x : Nat) : (s.wr f x).pwr = s.pwr := State.setReg_pwr s _ _
@[simp] theorem State.wr_sys (s : State) (f : Fld) (x : Nat) : (s.wr f x).sys = s.sys := State.setReg_sys s _ _
@[simp] theorem State.wr_resp (s : State) (f : Fld) (x : Nat) : (s.wr f x).resp = s.resp := State.setReg_resp s _ _
@[simp] theorem State.wr_freeCount (s : State) (f : Fld) (x : Nat) : (s.wr f x).freeCount = s.freeCount := State.setReg_freeCount s _ _
@[simp] theorem State.wr_pending (s : State) (f : Fld) (x : Nat) : (s.wr f x).pending = s.pending := State.setReg_pending s _ _
@[simp] theorem State.wr_byte (s : State) (f : Fld) (x : Nat) (k : Nat) : (s.wr f x).byte k = s.byte k := State.setReg_byte s _ _ _
@[simp] theorem State.wb_mem (s : State) (f : Fld) (b : Bool) : (s.wb f b).mem = s.mem := State.wr_mem s _ _
@[simp] theorem State.wb_fwk (s : State) (f : Fld) (b : Bool) : (s.wb f b).fwk = s.fwk := State.wr_fwk s _ _
@[simp] theorem State.wb_atb (s : State) (f : Fld) (b : Bool) : (s.wb f b).atb = s.atb := State.wr_atb s _ _
@[simp] theorem State.wb_spn (s : State) (f : Fld) (b : Bool) : (s.wb f b).spn = s.spn := State.wr_spn s _ _
@[simp] theorem State.wb_engA (s : State) (f : Fld) (b : Bool) : (s.wb f b).engA = s.engA := State.wr_engA s _ _
@[simp] theorem State.wb_engB (s : State) (f : Fld) (b : Bool) : (s.wb f b).engB = s.engB := State.wr_engB s _ _
@[simp] theorem State.wb_engS (s : State) (f : Fld) (b : Bool) : (s.wb f b).engS = s.engS := State.wr_engS s _ _
@[simp] theorem State.wb_srv (s : State) (f : Fld) (b : Bool) : (s.wb f b).srv = s.srv := State.wr_srv s _ _
@[simp] theorem State.wb_chn (s : State) (f : Fld) (b : Bool) : (s.wb f b).chn = s.chn := State.wr_chn s _ _
@[simp] theorem State.wb_twr (s : State) (f : Fld) (b : Bool) : (s.wb f b).twr = s.twr := State.wr_twr s _ _
@[simp] theorem State.wb_lay (s : State) (f : Fld) (b : Bool) : (s.wb f b).lay = s.lay := State.wr_lay s _ _
@[simp] theorem State.wb_keys (s : State) (f : Fld) (b : Bool) : (s.wb f b).keys = s.keys := State.wr_keys s _ _
@[simp] theorem State.wb_spires (s : State) (f : Fld) (b : Bool) : (s.wb f b).spires = s.spires := State.wr_spires s _ _
@[simp] theorem State.wb_sprEnv (s : State) (f : Fld) (b : Bool) : (s.wb f b).sprEnv = s.sprEnv := State.wr_sprEnv s _ _
@[simp] theorem State.wb_eth (s : State) (f : Fld) (b : Bool) : (s.wb f b).eth = s.eth := State.wr_eth s _ _
@[simp] theorem State.wb_aot (s : State) (f : Fld) (b : Bool) : (s.wb f b).aot = s.aot := State.wr_aot s _ _
@[simp] theorem State.wb_obj (s : State) (f : Fld) (b : Bool) : (s.wb f b).obj = s.obj := State.wr_obj s _ _
@[simp] theorem State.wb_dom (s : State) (f : Fld) (b : Bool) : (s.wb f b).dom = s.dom := State.wr_dom s _ _
@[simp] theorem State.wb_evr (s : State) (f : Fld) (b : Bool) : (s.wb f b).evr = s.evr := State.wr_evr s _ _
@[simp] theorem State.wb_ddr (s : State) (f : Fld) (b : Bool) : (s.wb f b).ddr = s.ddr := State.wr_ddr s _ _
@[simp] theorem State.wb_cup (s : State) (f : Fld) (b : Bool) : (s.wb f b).cup = s.cup := State.wr_cup s _ _
@[simp] theorem State.wb_dma (s : State) (f : Fld) (b : Bool) : (s.wb f b).dma = s.dma := State.wr_dma s _ _
@[simp] theorem State.wb_cores (s : State) (f : Fld) (b : Bool) : (s.wb f b).cores = s.cores := State.wr_cores s _ _
@[simp] theorem State.wb_fls (s : State) (f : Fld) (b : Bool) : (s.wb f b).fls = s.fls := State.wr_fls s _ _
@[simp] theorem State.wb_pwr (s : State) (f : Fld) (b : Bool) : (s.wb f b).pwr = s.pwr := State.wr_pwr s _ _
@[simp] theorem State.wb_sys (s : State) (f : Fld) (b : Bool) : (s.wb f b).sys = s.sys := State.wr_sys s _ _
@[simp] theorem State.wb_resp (s : State) (f : Fld) (b : Bool) : (s.wb f b).resp = s.resp := State.wr_resp s _ _
@[simp] theorem State.wb_freeCount (s : State) (f : Fld) (b : Bool) : (s.wb f b).freeCount = s.freeCount := State.wr_freeCount s _ _
@[simp] theorem State.wb_pending (s : State) (f : Fld) (b : Bool) : (s.wb f b).pending = s.pending := State.wr_pending s _ _
@[simp] theorem State.wb_byte (s : State) (f : Fld) (b : Bool) (k : Nat) : (s.wb f b).byte k = s.byte k := State.wr_byte s _ _ _
@[simp] theorem State.wrI_mem (s : State) (f : Fld) (x : Int) : (s.wrI f x).mem = s.mem := State.wr_mem s _ _
@[simp] theorem State.wrI_fwk (s : State) (f : Fld) (x : Int) : (s.wrI f x).fwk = s.fwk := State.wr_fwk s _ _
@[simp] theorem State.wrI_atb (s : State) (f : Fld) (x : Int) : (s.wrI f x).atb = s.atb := State.wr_atb s _ _
@[simp] theorem State.wrI_spn (s : State) (f : Fld) (x : Int) : (s.wrI f x).spn = s.spn := State.wr_spn s _ _
@[simp] theorem State.wrI_engA (s : State) (f : Fld) (x : Int) : (s.wrI f x).engA = s.engA := State.wr_engA s _ _
@[simp] theorem State.wrI_engB (s : State) (f : Fld) (x : Int) : (s.wrI f x).engB = s.engB := State.wr_engB s _ _
@[simp] theorem State.wrI_engS (s : State) (f : Fld) (x : Int) : (s.wrI f x).engS = s.engS := State.wr_engS s _ _
@[simp] theorem State.wrI_srv (s : State) (f : Fld) (x : Int) : (s.wrI f x).srv = s.srv := State.wr_srv s _ _
@[simp] theorem State.wrI_chn (s : State) (f : Fld) (x : Int) : (s.wrI f x).chn = s.chn := State.wr_chn s _ _
@[simp] theorem State.wrI_twr (s : State) (f : Fld) (x : Int) : (s.wrI f x).twr = s.twr := State.wr_twr s _ _
@[simp] theorem State.wrI_lay (s : State) (f : Fld) (x : Int) : (s.wrI f x).lay = s.lay := State.wr_lay s _ _
@[simp] theorem State.wrI_keys (s : State) (f : Fld) (x : Int) : (s.wrI f x).keys = s.keys := State.wr_keys s _ _
@[simp] theorem State.wrI_spires (s : State) (f : Fld) (x : Int) : (s.wrI f x).spires = s.spires := State.wr_spires s _ _
@[simp] theorem State.wrI_sprEnv (s : State) (f : Fld) (x : Int) : (s.wrI f x).sprEnv = s.sprEnv := State.wr_sprEnv s _ _
@[simp] theorem State.wrI_eth (s : State) (f : Fld) (x : Int) : (s.wrI f x).eth = s.eth := State.wr_eth s _ _
@[simp] theorem State.wrI_aot (s : State) (f : Fld) (x : Int) : (s.wrI f x).aot = s.aot := State.wr_aot s _ _
@[simp] theorem State.wrI_obj (s : State) (f : Fld) (x : Int) : (s.wrI f x).obj = s.obj := State.wr_obj s _ _
@[simp] theorem State.wrI_dom (s : State) (f : Fld) (x : Int) : (s.wrI f x).dom = s.dom := State.wr_dom s _ _
@[simp] theorem State.wrI_evr (s : State) (f : Fld) (x : Int) : (s.wrI f x).evr = s.evr := State.wr_evr s _ _
@[simp] theorem State.wrI_ddr (s : State) (f : Fld) (x : Int) : (s.wrI f x).ddr = s.ddr := State.wr_ddr s _ _
@[simp] theorem State.wrI_cup (s : State) (f : Fld) (x : Int) : (s.wrI f x).cup = s.cup := State.wr_cup s _ _
@[simp] theorem State.wrI_dma (s : State) (f : Fld) (x : Int) : (s.wrI f x).dma = s.dma := State.wr_dma s _ _
@[simp] theorem State.wrI_cores (s : State) (f : Fld) (x : Int) : (s.wrI f x).cores = s.cores := State.wr_cores s _ _
@[simp] theorem State.wrI_fls (s : State) (f : Fld) (x : Int) : (s.wrI f x).fls = s.fls := State.wr_fls s _ _
@[simp] theorem State.wrI_pwr (s : State) (f : Fld) (x : Int) : (s.wrI f x).pwr = s.pwr := State.wr_pwr s _ _
@[simp] theorem State.wrI_sys (s : State) (f : Fld) (x : Int) : (s.wrI f x).sys = s.sys := State.wr_sys s _ _
@[simp] theorem State.wrI_resp (s : State) (f : Fld) (x : Int) : (s.wrI f x).resp = s.resp := State.wr_resp s _ _
@[simp] theorem State.wrI_freeCount (s : State) (f : Fld) (x : Int) : (s.wrI f x).freeCount = s.freeCount := State.wr_freeCount s _ _
@[simp] theorem State.wrI_pending (s : State) (f : Fld) (x : Int) : (s.wrI f x).pending = s.pending := State.wr_pending s _ _
@[simp] theorem State.wrI_byte (s : State) (f : Fld) (x : Int) (k : Nat) : (s.wrI f x).byte k = s.byte k := State.wr_byte s _ _ _
@[simp] theorem State.bump_mem (s : State) (f : Fld) (k : Nat) : (s.bump f k).mem = s.mem := State.wr_mem s _ _
@[simp] theorem State.bump_fwk (s : State) (f : Fld) (k : Nat) : (s.bump f k).fwk = s.fwk := State.wr_fwk s _ _
@[simp] theorem State.bump_atb (s : State) (f : Fld) (k : Nat) : (s.bump f k).atb = s.atb := State.wr_atb s _ _
@[simp] theorem State.bump_spn (s : State) (f : Fld) (k : Nat) : (s.bump f k).spn = s.spn := State.wr_spn s _ _
@[simp] theorem State.bump_engA (s : State) (f : Fld) (k : Nat) : (s.bump f k).engA = s.engA := State.wr_engA s _ _
@[simp] theorem State.bump_engB (s : State) (f : Fld) (k : Nat) : (s.bump f k).engB = s.engB := State.wr_engB s _ _
@[simp] theorem State.bump_engS (s : State) (f : Fld) (k : Nat) : (s.bump f k).engS = s.engS := State.wr_engS s _ _
@[simp] theorem State.bump_srv (s : State) (f : Fld) (k : Nat) : (s.bump f k).srv = s.srv := State.wr_srv s _ _
@[simp] theorem State.bump_chn (s : State) (f : Fld) (k : Nat) : (s.bump f k).chn = s.chn := State.wr_chn s _ _
@[simp] theorem State.bump_twr (s : State) (f : Fld) (k : Nat) : (s.bump f k).twr = s.twr := State.wr_twr s _ _
@[simp] theorem State.bump_lay (s : State) (f : Fld) (k : Nat) : (s.bump f k).lay = s.lay := State.wr_lay s _ _
@[simp] theorem State.bump_keys (s : State) (f : Fld) (k : Nat) : (s.bump f k).keys = s.keys := State.wr_keys s _ _
@[simp] theorem State.bump_spires (s : State) (f : Fld) (k : Nat) : (s.bump f k).spires = s.spires := State.wr_spires s _ _
@[simp] theorem State.bump_sprEnv (s : State) (f : Fld) (k : Nat) : (s.bump f k).sprEnv = s.sprEnv := State.wr_sprEnv s _ _
@[simp] theorem State.bump_eth (s : State) (f : Fld) (k : Nat) : (s.bump f k).eth = s.eth := State.wr_eth s _ _
@[simp] theorem State.bump_aot (s : State) (f : Fld) (k : Nat) : (s.bump f k).aot = s.aot := State.wr_aot s _ _
@[simp] theorem State.bump_obj (s : State) (f : Fld) (k : Nat) : (s.bump f k).obj = s.obj := State.wr_obj s _ _
@[simp] theorem State.bump_dom (s : State) (f : Fld) (k : Nat) : (s.bump f k).dom = s.dom := State.wr_dom s _ _
@[simp] theorem State.bump_evr (s : State) (f : Fld) (k : Nat) : (s.bump f k).evr = s.evr := State.wr_evr s _ _
@[simp] theorem State.bump_ddr (s : State) (f : Fld) (k : Nat) : (s.bump f k).ddr = s.ddr := State.wr_ddr s _ _
@[simp] theorem State.bump_cup (s : State) (f : Fld) (k : Nat) : (s.bump f k).cup = s.cup := State.wr_cup s _ _
@[simp] theorem State.bump_dma (s : State) (f : Fld) (k : Nat) : (s.bump f k).dma = s.dma := State.wr_dma s _ _
@[simp] theorem State.bump_cores (s : State) (f : Fld) (k : Nat) : (s.bump f k).cores = s.cores := State.wr_cores s _ _
@[simp] theorem State.bump_fls (s : State) (f : Fld) (k : Nat) : (s.bump f k).fls = s.fls := State.wr_fls s _ _
@[simp] theorem State.bump_pwr (s : State) (f : Fld) (k : Nat) : (s.bump f k).pwr = s.pwr := State.wr_pwr s _ _
@[simp] theorem State.bump_sys (s : State) (f : Fld) (k : Nat) : (s.bump f k).sys = s.sys := State.wr_sys s _ _
@[simp] theorem State.bump_resp (s : State) (f : Fld) (k : Nat) : (s.bump f k).resp = s.resp := State.wr_resp s _ _
@[simp] theorem State.bump_freeCount (s : State) (f : Fld) (k : Nat) : (s.bump f k).freeCount = s.freeCount := State.wr_freeCount s _ _
@[simp] theorem State.bump_pending (s : State) (f : Fld) (k : Nat) : (s.bump f k).pending = s.pending := State.wr_pending s _ _
@[simp] theorem State.bump_byte (s : State) (f : Fld) (k : Nat) (j : Nat) : (s.bump f k).byte j = s.byte j := State.wr_byte s _ _ _
@[simp] theorem State.irq_mem (s : State) (b i p k : Nat) : (s.irq b i p k).mem = s.mem := State.wr_mem s _ _
@[simp] theorem State.irq_fwk (s : State) (b i p k : Nat) : (s.irq b i p k).fwk = s.fwk := State.wr_fwk s _ _
@[simp] theorem State.irq_atb (s : State) (b i p k : Nat) : (s.irq b i p k).atb = s.atb := State.wr_atb s _ _
@[simp] theorem State.irq_spn (s : State) (b i p k : Nat) : (s.irq b i p k).spn = s.spn := State.wr_spn s _ _
@[simp] theorem State.irq_engA (s : State) (b i p k : Nat) : (s.irq b i p k).engA = s.engA := State.wr_engA s _ _
@[simp] theorem State.irq_engB (s : State) (b i p k : Nat) : (s.irq b i p k).engB = s.engB := State.wr_engB s _ _
@[simp] theorem State.irq_engS (s : State) (b i p k : Nat) : (s.irq b i p k).engS = s.engS := State.wr_engS s _ _
@[simp] theorem State.irq_srv (s : State) (b i p k : Nat) : (s.irq b i p k).srv = s.srv := State.wr_srv s _ _
@[simp] theorem State.irq_chn (s : State) (b i p k : Nat) : (s.irq b i p k).chn = s.chn := State.wr_chn s _ _
@[simp] theorem State.irq_twr (s : State) (b i p k : Nat) : (s.irq b i p k).twr = s.twr := State.wr_twr s _ _
@[simp] theorem State.irq_lay (s : State) (b i p k : Nat) : (s.irq b i p k).lay = s.lay := State.wr_lay s _ _
@[simp] theorem State.irq_keys (s : State) (b i p k : Nat) : (s.irq b i p k).keys = s.keys := State.wr_keys s _ _
@[simp] theorem State.irq_spires (s : State) (b i p k : Nat) : (s.irq b i p k).spires = s.spires := State.wr_spires s _ _
@[simp] theorem State.irq_sprEnv (s : State) (b i p k : Nat) : (s.irq b i p k).sprEnv = s.sprEnv := State.wr_sprEnv s _ _
@[simp] theorem State.irq_eth (s : State) (b i p k : Nat) : (s.irq b i p k).eth = s.eth := State.wr_eth s _ _
@[simp] theorem State.irq_aot (s : State) (b i p k : Nat) : (s.irq b i p k).aot = s.aot := State.wr_aot s _ _
@[simp] theorem State.irq_obj (s : State) (b i p k : Nat) : (s.irq b i p k).obj = s.obj := State.wr_obj s _ _
@[simp] theorem State.irq_dom (s : State) (b i p k : Nat) : (s.irq b i p k).dom = s.dom := State.wr_dom s _ _
@[simp] theorem State.irq_evr (s : State) (b i p k : Nat) : (s.irq b i p k).evr = s.evr := State.wr_evr s _ _
@[simp] theorem State.irq_ddr (s : State) (b i p k : Nat) : (s.irq b i p k).ddr = s.ddr := State.wr_ddr s _ _
@[simp] theorem State.irq_cup (s : State) (b i p k : Nat) : (s.irq b i p k).cup = s.cup := State.wr_cup s _ _
@[simp] theorem State.irq_dma (s : State) (b i p k : Nat) : (s.irq b i p k).dma = s.dma := State.wr_dma s _ _
@[simp] theorem State.irq_cores (s : State) (b i p k : Nat) : (s.irq b i p k).cores = s.cores := State.wr_cores s _ _
@[simp] theorem State.irq_fls (s : State) (b i p k : Nat) : (s.irq b i p k).fls = s.fls := State.wr_fls s _ _
@[simp] theorem State.irq_pwr (s : State) (b i p k : Nat) : (s.irq b i p k).pwr = s.pwr := State.wr_pwr s _ _
@[simp] theorem State.irq_sys (s : State) (b i p k : Nat) : (s.irq b i p k).sys = s.sys := State.wr_sys s _ _
@[simp] theorem State.irq_resp (s : State) (b i p k : Nat) : (s.irq b i p k).resp = s.resp := State.wr_resp s _ _
@[simp] theorem State.irq_freeCount (s : State) (b i p k : Nat) : (s.irq b i p k).freeCount = s.freeCount := State.wr_freeCount s _ _
@[simp] theorem State.irq_pending (s : State) (b i p k : Nat) : (s.irq b i p k).pending = s.pending := State.wr_pending s _ _
@[simp] theorem State.irq_byte (s : State) (b i p k : Nat) (j : Nat) : (s.irq b i p k).byte j = s.byte j := State.wr_byte s _ _ _
@[simp] theorem State.setSt_mem (s : State) (b i v : Nat) : (s.setSt b i v).mem = s.mem := State.wr_mem s _ _
@[simp] theorem State.setSt_fwk (s : State) (b i v : Nat) : (s.setSt b i v).fwk = s.fwk := State.wr_fwk s _ _
@[simp] theorem State.setSt_atb (s : State) (b i v : Nat) : (s.setSt b i v).atb = s.atb := State.wr_atb s _ _
@[simp] theorem State.setSt_spn (s : State) (b i v : Nat) : (s.setSt b i v).spn = s.spn := State.wr_spn s _ _
@[simp] theorem State.setSt_engA (s : State) (b i v : Nat) : (s.setSt b i v).engA = s.engA := State.wr_engA s _ _
@[simp] theorem State.setSt_engB (s : State) (b i v : Nat) : (s.setSt b i v).engB = s.engB := State.wr_engB s _ _
@[simp] theorem State.setSt_engS (s : State) (b i v : Nat) : (s.setSt b i v).engS = s.engS := State.wr_engS s _ _
@[simp] theorem State.setSt_srv (s : State) (b i v : Nat) : (s.setSt b i v).srv = s.srv := State.wr_srv s _ _
@[simp] theorem State.setSt_chn (s : State) (b i v : Nat) : (s.setSt b i v).chn = s.chn := State.wr_chn s _ _
@[simp] theorem State.setSt_twr (s : State) (b i v : Nat) : (s.setSt b i v).twr = s.twr := State.wr_twr s _ _
@[simp] theorem State.setSt_lay (s : State) (b i v : Nat) : (s.setSt b i v).lay = s.lay := State.wr_lay s _ _
@[simp] theorem State.setSt_keys (s : State) (b i v : Nat) : (s.setSt b i v).keys = s.keys := State.wr_keys s _ _
@[simp] theorem State.setSt_spires (s : State) (b i v : Nat) : (s.setSt b i v).spires = s.spires := State.wr_spires s _ _
@[simp] theorem State.setSt_sprEnv (s : State) (b i v : Nat) : (s.setSt b i v).sprEnv = s.sprEnv := State.wr_sprEnv s _ _
@[simp] theorem State.setSt_eth (s : State) (b i v : Nat) : (s.setSt b i v).eth = s.eth := State.wr_eth s _ _
@[simp] theorem State.setSt_aot (s : State) (b i v : Nat) : (s.setSt b i v).aot = s.aot := State.wr_aot s _ _
@[simp] theorem State.setSt_obj (s : State) (b i v : Nat) : (s.setSt b i v).obj = s.obj := State.wr_obj s _ _
@[simp] theorem State.setSt_dom (s : State) (b i v : Nat) : (s.setSt b i v).dom = s.dom := State.wr_dom s _ _
@[simp] theorem State.setSt_evr (s : State) (b i v : Nat) : (s.setSt b i v).evr = s.evr := State.wr_evr s _ _
@[simp] theorem State.setSt_ddr (s : State) (b i v : Nat) : (s.setSt b i v).ddr = s.ddr := State.wr_ddr s _ _
@[simp] theorem State.setSt_cup (s : State) (b i v : Nat) : (s.setSt b i v).cup = s.cup := State.wr_cup s _ _
@[simp] theorem State.setSt_dma (s : State) (b i v : Nat) : (s.setSt b i v).dma = s.dma := State.wr_dma s _ _
@[simp] theorem State.setSt_cores (s : State) (b i v : Nat) : (s.setSt b i v).cores = s.cores := State.wr_cores s _ _
@[simp] theorem State.setSt_fls (s : State) (b i v : Nat) : (s.setSt b i v).fls = s.fls := State.wr_fls s _ _
@[simp] theorem State.setSt_pwr (s : State) (b i v : Nat) : (s.setSt b i v).pwr = s.pwr := State.wr_pwr s _ _
@[simp] theorem State.setSt_sys (s : State) (b i v : Nat) : (s.setSt b i v).sys = s.sys := State.wr_sys s _ _
@[simp] theorem State.setSt_resp (s : State) (b i v : Nat) : (s.setSt b i v).resp = s.resp := State.wr_resp s _ _
@[simp] theorem State.setSt_freeCount (s : State) (b i v : Nat) : (s.setSt b i v).freeCount = s.freeCount := State.wr_freeCount s _ _
@[simp] theorem State.setSt_pending (s : State) (b i v : Nat) : (s.setSt b i v).pending = s.pending := State.wr_pending s _ _
@[simp] theorem State.setSt_byte (s : State) (b i v : Nat) (k : Nat) : (s.setSt b i v).byte k = s.byte k := State.wr_byte s _ _ _
@[simp] theorem State.setRpend_mem (s : State) (b i : Nat) (v : Bool) : (s.setRpend b i v).mem = s.mem := State.wb_mem s _ _
@[simp] theorem State.setRpend_fwk (s : State) (b i : Nat) (v : Bool) : (s.setRpend b i v).fwk = s.fwk := State.wb_fwk s _ _
@[simp] theorem State.setRpend_atb (s : State) (b i : Nat) (v : Bool) : (s.setRpend b i v).atb = s.atb := State.wb_atb s _ _
@[simp] theorem State.setRpend_spn (s : State) (b i : Nat) (v : Bool) : (s.setRpend b i v).spn = s.spn := State.wb_spn s _ _
@[simp] theorem State.setRpend_engA (s : State) (b i : Nat) (v : Bool) : (s.setRpend b i v).engA = s.engA := State.wb_engA s _ _
@[simp] theorem State.setRpend_engB (s : State) (b i : Nat) (v : Bool) : (s.setRpend b i v).engB = s.engB := State.wb_engB s _ _
@[simp] theorem State.setRpend_engS (s : State) (b i : Nat) (v : Bool) : (s.setRpend b i v).engS = s.engS := State.wb_engS s _ _
@[simp] theorem State.setRpend_srv (s : State) (b i : Nat) (v : Bool) : (s.setRpend b i v).srv = s.srv := State.wb_srv s _ _
@[simp] theorem State.setRpend_chn (s : State) (b i : Nat) (v : Bool) : (s.setRpend b i v).chn = s.chn := State.wb_chn s _ _
@[simp] theorem State.setRpend_twr (s : State) (b i : Nat) (v : Bool) : (s.setRpend b i v).twr = s.twr := State.wb_twr s _ _
@[simp] theorem State.setRpend_lay (s : State) (b i : Nat) (v : Bool) : (s.setRpend b i v).lay = s.lay := State.wb_lay s _ _
@[simp] theorem State.setRpend_keys (s : State) (b i : Nat) (v : Bool) : (s.setRpend b i v).keys = s.keys := State.wb_keys s _ _
@[simp] theorem State.setRpend_spires (s : State) (b i : Nat) (v : Bool) : (s.setRpend b i v).spires = s.spires := State.wb_spires s _ _
@[simp] theorem State.setRpend_sprEnv (s : State) (b i : Nat) (v : Bool) : (s.setRpend b i v).sprEnv = s.sprEnv := State.wb_sprEnv s _ _
@[simp] theorem State.setRpend_eth (s : State) (b i : Nat) (v : Bool) : (s.setRpend b i v).eth = s.eth := State.wb_eth s _ _
@[simp] theorem State.setRpend_aot (s : State) (b i : Nat) (v : Bool) : (s.setRpend b i v).aot = s.aot := State.wb_aot s _ _
@[simp] theorem State.setRpend_obj (s : State) (b i : Nat) (v : Bool) : (s.setRpend b i v).obj = s.obj := State.wb_obj s _ _
@[simp] theorem State.setRpend_dom (s : State) (b i : Nat) (v : Bool) : (s.setRpend b i v).dom = s.dom := State.wb_dom s _ _
@[simp] theorem State.setRpend_evr (s : State) (b i : Nat) (v : Bool) : (s.setRpend b i v).evr = s.evr := State.wb_evr s _ _
@[simp] theorem State.setRpend_ddr (s : State) (b i : Nat) (v : Bool) : (s.setRpend b i v).ddr = s.ddr := State.wb_ddr s _ _
@[simp] theorem State.setRpend_cup (s : State) (b i : Nat) (v : Bool) : (s.setRpend b i v).cup = s.cup := State.wb_cup s _ _
@[simp] theorem State.setRpend_dma (s : State) (b i : Nat) (v : Bool) : (s.setRpend b i v).dma = s.dma := State.wb_dma s _ _
@[simp] theorem State.setRpend_cores (s : State) (b i : Nat) (v : Bool) : (s.setRpend b i v).cores = s.cores := State.wb_cores s _ _
@[simp] theorem State.setRpend_fls (s : State) (b i : Nat) (v : Bool) : (s.setRpend b i v).fls = s.fls := State.wb_fls s _ _
@[simp] theorem State.setRpend_pwr (s : State) (b i : Nat) (v : Bool) : (s.setRpend b i v).pwr = s.pwr := State.wb_pwr s _ _
@[simp] theorem State.setRpend_sys (s : State) (b i : Nat) (v : Bool) : (s.setRpend b i v).sys = s.sys := State.wb_sys s _ _
@[simp] theorem State.setRpend_resp (s : State) (b i : Nat) (v : Bool) : (s.setRpend b i v).resp = s.resp := State.wb_resp s _ _
@[simp] theorem State.setRpend_freeCount (s : State) (b i : Nat) (v : Bool) : (s.setRpend b i v).freeCount = s.freeCount := State.wb_freeCount s _ _
@[simp] theorem State.setRpend_pending (s : State) (b i : Nat) (v : Bool) : (s.setRpend b i v).pending = s.pending := State.wb_pending s _ _
@[simp] theorem State.setRpend_byte (s : State) (b i : Nat) (v : Bool) (k : Nat) : (s.setRpend b i v).byte k = s.byte k := State.wb_byte s _ _ _
@[simp] theorem State.setEn_mem (s : State) (b i : Nat) (v : Bool) : (s.setEn b i v).mem = s.mem := State.wb_mem s _ _
@[simp] theorem State.setEn_fwk (s : State) (b i : Nat) (v : Bool) : (s.setEn b i v).fwk = s.fwk := State.wb_fwk s _ _
@[simp] theorem State.setEn_atb (s : State) (b i : Nat) (v : Bool) : (s.setEn b i v).atb = s.atb := State.wb_atb s _ _
@[simp] theorem State.setEn_spn (s : State) (b i : Nat) (v : Bool) : (s.setEn b i v).spn = s.spn := State.wb_spn s _ _
@[simp] theorem State.setEn_engA (s : State) (b i : Nat) (v : Bool) : (s.setEn b i v).engA = s.engA := State.wb_engA s _ _
@[simp] theorem State.setEn_engB (s : State) (b i : Nat) (v : Bool) : (s.setEn b i v).engB = s.engB := State.wb_engB s _ _
@[simp] theorem State.setEn_engS (s : State) (b i : Nat) (v : Bool) : (s.setEn b i v).engS = s.engS := State.wb_engS s _ _
@[simp] theorem State.setEn_srv (s : State) (b i : Nat) (v : Bool) : (s.setEn b i v).srv = s.srv := State.wb_srv s _ _
@[simp] theorem State.setEn_chn (s : State) (b i : Nat) (v : Bool) : (s.setEn b i v).chn = s.chn := State.wb_chn s _ _
@[simp] theorem State.setEn_twr (s : State) (b i : Nat) (v : Bool) : (s.setEn b i v).twr = s.twr := State.wb_twr s _ _
@[simp] theorem State.setEn_lay (s : State) (b i : Nat) (v : Bool) : (s.setEn b i v).lay = s.lay := State.wb_lay s _ _
@[simp] theorem State.setEn_keys (s : State) (b i : Nat) (v : Bool) : (s.setEn b i v).keys = s.keys := State.wb_keys s _ _
@[simp] theorem State.setEn_spires (s : State) (b i : Nat) (v : Bool) : (s.setEn b i v).spires = s.spires := State.wb_spires s _ _
@[simp] theorem State.setEn_sprEnv (s : State) (b i : Nat) (v : Bool) : (s.setEn b i v).sprEnv = s.sprEnv := State.wb_sprEnv s _ _
@[simp] theorem State.setEn_eth (s : State) (b i : Nat) (v : Bool) : (s.setEn b i v).eth = s.eth := State.wb_eth s _ _
@[simp] theorem State.setEn_aot (s : State) (b i : Nat) (v : Bool) : (s.setEn b i v).aot = s.aot := State.wb_aot s _ _
@[simp] theorem State.setEn_obj (s : State) (b i : Nat) (v : Bool) : (s.setEn b i v).obj = s.obj := State.wb_obj s _ _
@[simp] theorem State.setEn_dom (s : State) (b i : Nat) (v : Bool) : (s.setEn b i v).dom = s.dom := State.wb_dom s _ _
@[simp] theorem State.setEn_evr (s : State) (b i : Nat) (v : Bool) : (s.setEn b i v).evr = s.evr := State.wb_evr s _ _
@[simp] theorem State.setEn_ddr (s : State) (b i : Nat) (v : Bool) : (s.setEn b i v).ddr = s.ddr := State.wb_ddr s _ _
@[simp] theorem State.setEn_cup (s : State) (b i : Nat) (v : Bool) : (s.setEn b i v).cup = s.cup := State.wb_cup s _ _
@[simp] theorem State.setEn_dma (s : State) (b i : Nat) (v : Bool) : (s.setEn b i v).dma = s.dma := State.wb_dma s _ _
@[simp] theorem State.setEn_cores (s : State) (b i : Nat) (v : Bool) : (s.setEn b i v).cores = s.cores := State.wb_cores s _ _
@[simp] theorem State.setEn_fls (s : State) (b i : Nat) (v : Bool) : (s.setEn b i v).fls = s.fls := State.wb_fls s _ _
@[simp] theorem State.setEn_pwr (s : State) (b i : Nat) (v : Bool) : (s.setEn b i v).pwr = s.pwr := State.wb_pwr s _ _
@[simp] theorem State.setEn_sys (s : State) (b i : Nat) (v : Bool) : (s.setEn b i v).sys = s.sys := State.wb_sys s _ _
@[simp] theorem State.setEn_resp (s : State) (b i : Nat) (v : Bool) : (s.setEn b i v).resp = s.resp := State.wb_resp s _ _
@[simp] theorem State.setEn_freeCount (s : State) (b i : Nat) (v : Bool) : (s.setEn b i v).freeCount = s.freeCount := State.wb_freeCount s _ _
@[simp] theorem State.setEn_pending (s : State) (b i : Nat) (v : Bool) : (s.setEn b i v).pending = s.pending := State.wb_pending s _ _
@[simp] theorem State.setEn_byte (s : State) (b i : Nat) (v : Bool) (k : Nat) : (s.setEn b i v).byte k = s.byte k := State.wb_byte s _ _ _
@[simp] theorem State.setByte_regs (s : State) (a : Nat) (v : Byte) : (s.setByte a v).regs = s.regs := rfl
@[simp] theorem State.setByte_fwk (s : State) (a : Nat) (v : Byte) : (s.setByte a v).fwk = s.fwk := rfl
@[simp] theorem State.setByte_atb (s : State) (a : Nat) (v : Byte) : (s.setByte a v).atb = s.atb := rfl
@[simp] theorem State.setByte_spn (s : State) (a : Nat) (v : Byte) : (s.setByte a v).spn = s.spn := rfl
@[simp] theorem State.setByte_engA (s : State) (a : Nat) (v : Byte) : (s.setByte a v).engA = s.engA := rfl
@[simp] theorem State.setByte_engB (s : State) (a : Nat) (v : Byte) : (s.setByte a v).engB = s.engB := rfl
@[simp] theorem State.setByte_engS (s : State) (a : Nat) (v : Byte) : (s.setByte a v).engS = s.engS := rfl
@[simp] theorem State.setByte_srv (s : State) (a : Nat) (v : Byte) : (s.setByte a v).srv = s.srv := rfl
@[simp] theorem State.setByte_chn (s : State) (a : Nat) (v : Byte) : (s.setByte a v).chn = s.chn := rfl
@[simp] theorem State.setByte_twr (s : State) (a : Nat) (v : Byte) : (s.setByte a v).twr = s.twr := rfl
@[simp] theorem State.setByte_lay (s : State) (a : Nat) (v : Byte) : (s.setByte a v).lay = s.lay := rfl
@[simp] theorem State.setByte_keys (s : State) (a : Nat) (v : Byte) : (s.setByte a v).keys = s.keys := rfl
@[simp] theorem State.setByte_spires (s : State) (a : Nat) (v : Byte) : (s.setByte a v).spires = s.spires := rfl
@[simp] theorem State.setByte_sprEnv (s : State) (a : Nat) (v : Byte) : (s.setByte a v).sprEnv = s.sprEnv := rfl
@[simp] theorem State.setByte_eth (s : State) (a : Nat) (v : Byte) : (s.setByte a v).eth = s.eth := rfl
@[simp] theorem State.setByte_aot (s : State) (a : Nat) (v : Byte) : (s.setByte a v).aot = s.aot := rfl
@[simp] theorem State.setByte_obj (s : State) (a : Nat) (v : Byte) : (s.setByte a v).obj = s.obj := rfl
@[simp] theorem State.setByte_dom (s : State) (a : Nat) (v : Byte) : (s.setByte a v).dom = s.dom := rfl
@[simp] theorem State.setByte_evr (s : State) (a : Nat) (v : Byte) : (s.setByte a v).evr = s.evr := rfl
@[simp] theorem State.setByte_ddr (s : State) (a : Nat) (v : Byte) : (s.setByte a v).ddr = s.ddr := rfl
@[simp] theorem State.setByte_cup (s : State) (a : Nat) (v : Byte) : (s.setByte a v).cup = s.cup := rfl
@[simp] theorem State.setByte_dma (s : State) (a : Nat) (v : Byte) : (s.setByte a v).dma = s.dma := rfl
@[simp] theorem State.setByte_cores (s : State) (a : Nat) (v : Byte) : (s.setByte a v).cores = s.cores := rfl
@[simp] theorem State.setByte_fls (s : State) (a : Nat) (v : Byte) : (s.setByte a v).fls = s.fls := rfl
@[simp] theorem State.setByte_pwr (s : State) (a : Nat) (v : Byte) : (s.setByte a v).pwr = s.pwr := rfl
@[simp] theorem State.setByte_sys (s : State) (a : Nat) (v : Byte) : (s.setByte a v).sys = s.sys := rfl
@[simp] theorem State.setByte_resp (s : State) (a : Nat) (v : Byte) : (s.setByte a v).resp = s.resp := rfl
@[simp] theorem State.setByte_freeCount (s : State) (a : Nat) (v : Byte) : (s.setByte a v).freeCount = s.freeCount := rfl
@[simp] theorem State.setByte_pending (s : State) (a : Nat) (v : Byte) : (s.setByte a v).pending = s.pending := rfl
@[simp] theorem State.updFwk_regs (s : State) (f : FwkState → FwkState) : (s.updFwk f).regs = s.regs := rfl
@[simp] theorem State.updFwk_mem (s : State) (f : FwkState → FwkState) : (s.updFwk f).mem = s.mem := rfl
@[simp] theorem State.updFwk_fwk (s : State) (f : FwkState → FwkState) : (s.updFwk f).fwk = f s.fwk := rfl
@[simp] theorem State.updFwk_atb (s : State) (f : FwkState → FwkState) : (s.updFwk f).atb = s.atb := rfl
@[simp] theorem State.updFwk_spn (s : State) (f : FwkState → FwkState) : (s.updFwk f).spn = s.spn := rfl
@[simp] theorem State.updFwk_engA (s : State) (f : FwkState → FwkState) : (s.updFwk f).engA = s.engA := rfl
@[simp] theorem State.updFwk_engB (s : State) (f : FwkState → FwkState) : (s.updFwk f).engB = s.engB := rfl
@[simp] theorem State.updFwk_engS (s : State) (f : FwkState → FwkState) : (s.updFwk f).engS = s.engS := rfl
@[simp] theorem State.updFwk_srv (s : State) (f : FwkState → FwkState) : (s.updFwk f).srv = s.srv := rfl
@[simp] theorem State.updFwk_chn (s : State) (f : FwkState → FwkState) : (s.updFwk f).chn = s.chn := rfl
@[simp] theorem State.updFwk_twr (s : State) (f : FwkState → FwkState) : (s.updFwk f).twr = s.twr := rfl
@[simp] theorem State.updFwk_lay (s : State) (f : FwkState → FwkState) : (s.updFwk f).lay = s.lay := rfl
@[simp] theorem State.updFwk_keys (s : State) (f : FwkState → FwkState) : (s.updFwk f).keys = s.keys := rfl
@[simp] theorem State.updFwk_spires (s : State) (f : FwkState → FwkState) : (s.updFwk f).spires = s.spires := rfl
@[simp] theorem State.updFwk_sprEnv (s : State) (f : FwkState → FwkState) : (s.updFwk f).sprEnv = s.sprEnv := rfl
@[simp] theorem State.updFwk_eth (s : State) (f : FwkState → FwkState) : (s.updFwk f).eth = s.eth := rfl
@[simp] theorem State.updFwk_aot (s : State) (f : FwkState → FwkState) : (s.updFwk f).aot = s.aot := rfl
@[simp] theorem State.updFwk_obj (s : State) (f : FwkState → FwkState) : (s.updFwk f).obj = s.obj := rfl
@[simp] theorem State.updFwk_dom (s : State) (f : FwkState → FwkState) : (s.updFwk f).dom = s.dom := rfl
@[simp] theorem State.updFwk_evr (s : State) (f : FwkState → FwkState) : (s.updFwk f).evr = s.evr := rfl
@[simp] theorem State.updFwk_ddr (s : State) (f : FwkState → FwkState) : (s.updFwk f).ddr = s.ddr := rfl
@[simp] theorem State.updFwk_cup (s : State) (f : FwkState → FwkState) : (s.updFwk f).cup = s.cup := rfl
@[simp] theorem State.updFwk_dma (s : State) (f : FwkState → FwkState) : (s.updFwk f).dma = s.dma := rfl
@[simp] theorem State.updFwk_cores (s : State) (f : FwkState → FwkState) : (s.updFwk f).cores = s.cores := rfl
@[simp] theorem State.updFwk_fls (s : State) (f : FwkState → FwkState) : (s.updFwk f).fls = s.fls := rfl
@[simp] theorem State.updFwk_pwr (s : State) (f : FwkState → FwkState) : (s.updFwk f).pwr = s.pwr := rfl
@[simp] theorem State.updFwk_sys (s : State) (f : FwkState → FwkState) : (s.updFwk f).sys = s.sys := rfl
@[simp] theorem State.updFwk_resp (s : State) (f : FwkState → FwkState) : (s.updFwk f).resp = s.resp := rfl
@[simp] theorem State.updFwk_freeCount (s : State) (f : FwkState → FwkState) : (s.updFwk f).freeCount = s.freeCount := rfl
@[simp] theorem State.updFwk_pending (s : State) (f : FwkState → FwkState) : (s.updFwk f).pending = s.pending := rfl
@[simp] theorem State.updFwk_reg (s : State) (f : FwkState → FwkState) (r : Nat) : (s.updFwk f).reg r = s.reg r := rfl
@[simp] theorem State.updFwk_rd (s : State) (f : FwkState → FwkState) (g : Fld) : (s.updFwk f).rd g = s.rd g := rfl
@[simp] theorem State.updFwk_on (s : State) (f : FwkState → FwkState) (g : Fld) : (s.updFwk f).on g = s.on g := rfl
@[simp] theorem State.updFwk_st (s : State) (f : FwkState → FwkState) (b j : Nat) : (s.updFwk f).st b j = s.st b j := rfl
@[simp] theorem State.updFwk_isOn (s : State) (f : FwkState → FwkState) (b j : Nat) : (s.updFwk f).isOn b j = s.isOn b j := rfl
@[simp] theorem State.updFwk_byte (s : State) (f : FwkState → FwkState) (k : Nat) : (s.updFwk f).byte k = s.byte k := rfl
@[simp] theorem State.updAtb_regs (s : State) (f : AtbState → AtbState) : (s.updAtb f).regs = s.regs := rfl
@[simp] theorem State.updAtb_mem (s : State) (f : AtbState → AtbState) : (s.updAtb f).mem = s.mem := rfl
@[simp] theorem State.updAtb_fwk (s : State) (f : AtbState → AtbState) : (s.updAtb f).fwk = s.fwk := rfl
@[simp] theorem State.updAtb_atb (s : State) (f : AtbState → AtbState) : (s.updAtb f).atb = f s.atb := rfl
@[simp] theorem State.updAtb_spn (s : State) (f : AtbState → AtbState) : (s.updAtb f).spn = s.spn := rfl
@[simp] theorem State.updAtb_engA (s : State) (f : AtbState → AtbState) : (s.updAtb f).engA = s.engA := rfl
@[simp] theorem State.updAtb_engB (s : State) (f : AtbState → AtbState) : (s.updAtb f).engB = s.engB := rfl
@[simp] theorem State.updAtb_engS (s : State) (f : AtbState → AtbState) : (s.updAtb f).engS = s.engS := rfl
@[simp] theorem State.updAtb_srv (s : State) (f : AtbState → AtbState) : (s.updAtb f).srv = s.srv := rfl
@[simp] theorem State.updAtb_chn (s : State) (f : AtbState → AtbState) : (s.updAtb f).chn = s.chn := rfl
@[simp] theorem State.updAtb_twr (s : State) (f : AtbState → AtbState) : (s.updAtb f).twr = s.twr := rfl
@[simp] theorem State.updAtb_lay (s : State) (f : AtbState → AtbState) : (s.updAtb f).lay = s.lay := rfl
@[simp] theorem State.updAtb_keys (s : State) (f : AtbState → AtbState) : (s.updAtb f).keys = s.keys := rfl
@[simp] theorem State.updAtb_spires (s : State) (f : AtbState → AtbState) : (s.updAtb f).spires = s.spires := rfl
@[simp] theorem State.updAtb_sprEnv (s : State) (f : AtbState → AtbState) : (s.updAtb f).sprEnv = s.sprEnv := rfl
@[simp] theorem State.updAtb_eth (s : State) (f : AtbState → AtbState) : (s.updAtb f).eth = s.eth := rfl
@[simp] theorem State.updAtb_aot (s : State) (f : AtbState → AtbState) : (s.updAtb f).aot = s.aot := rfl
@[simp] theorem State.updAtb_obj (s : State) (f : AtbState → AtbState) : (s.updAtb f).obj = s.obj := rfl
@[simp] theorem State.updAtb_dom (s : State) (f : AtbState → AtbState) : (s.updAtb f).dom = s.dom := rfl
@[simp] theorem State.updAtb_evr (s : State) (f : AtbState → AtbState) : (s.updAtb f).evr = s.evr := rfl
@[simp] theorem State.updAtb_ddr (s : State) (f : AtbState → AtbState) : (s.updAtb f).ddr = s.ddr := rfl
@[simp] theorem State.updAtb_cup (s : State) (f : AtbState → AtbState) : (s.updAtb f).cup = s.cup := rfl
@[simp] theorem State.updAtb_dma (s : State) (f : AtbState → AtbState) : (s.updAtb f).dma = s.dma := rfl
@[simp] theorem State.updAtb_cores (s : State) (f : AtbState → AtbState) : (s.updAtb f).cores = s.cores := rfl
@[simp] theorem State.updAtb_fls (s : State) (f : AtbState → AtbState) : (s.updAtb f).fls = s.fls := rfl
@[simp] theorem State.updAtb_pwr (s : State) (f : AtbState → AtbState) : (s.updAtb f).pwr = s.pwr := rfl
@[simp] theorem State.updAtb_sys (s : State) (f : AtbState → AtbState) : (s.updAtb f).sys = s.sys := rfl
@[simp] theorem State.updAtb_resp (s : State) (f : AtbState → AtbState) : (s.updAtb f).resp = s.resp := rfl
@[simp] theorem State.updAtb_freeCount (s : State) (f : AtbState → AtbState) : (s.updAtb f).freeCount = s.freeCount := rfl
@[simp] theorem State.updAtb_pending (s : State) (f : AtbState → AtbState) : (s.updAtb f).pending = s.pending := rfl
@[simp] theorem State.updAtb_reg (s : State) (f : AtbState → AtbState) (r : Nat) : (s.updAtb f).reg r = s.reg r := rfl
@[simp] theorem State.updAtb_rd (s : State) (f : AtbState → AtbState) (g : Fld) : (s.updAtb f).rd g = s.rd g := rfl
@[simp] theorem State.updAtb_on (s : State) (f : AtbState → AtbState) (g : Fld) : (s.updAtb f).on g = s.on g := rfl
@[simp] theorem State.updAtb_st (s : State) (f : AtbState → AtbState) (b j : Nat) : (s.updAtb f).st b j = s.st b j := rfl
@[simp] theorem State.updAtb_isOn (s : State) (f : AtbState → AtbState) (b j : Nat) : (s.updAtb f).isOn b j = s.isOn b j := rfl
@[simp] theorem State.updAtb_byte (s : State) (f : AtbState → AtbState) (k : Nat) : (s.updAtb f).byte k = s.byte k := rfl
@[simp] theorem State.updAtbT_regs (s : State) (t : Tower) (f : AtbTower → AtbTower) : (s.updAtbT t f).regs = s.regs := rfl
@[simp] theorem State.updAtbT_mem (s : State) (t : Tower) (f : AtbTower → AtbTower) : (s.updAtbT t f).mem = s.mem := rfl
@[simp] theorem State.updAtbT_fwk (s : State) (t : Tower) (f : AtbTower → AtbTower) : (s.updAtbT t f).fwk = s.fwk := rfl
@[simp] theorem State.updAtbT_atb (s : State) (t : Tower) (f : AtbTower → AtbTower) : (s.updAtbT t f).atb = { s.atb with tw := s.atb.tw.set t (f (s.atb.tw.get t)) } := rfl
@[simp] theorem State.updAtbT_spn (s : State) (t : Tower) (f : AtbTower → AtbTower) : (s.updAtbT t f).spn = s.spn := rfl
@[simp] theorem State.updAtbT_engA (s : State) (t : Tower) (f : AtbTower → AtbTower) : (s.updAtbT t f).engA = s.engA := rfl
@[simp] theorem State.updAtbT_engB (s : State) (t : Tower) (f : AtbTower → AtbTower) : (s.updAtbT t f).engB = s.engB := rfl
@[simp] theorem State.updAtbT_engS (s : State) (t : Tower) (f : AtbTower → AtbTower) : (s.updAtbT t f).engS = s.engS := rfl
@[simp] theorem State.updAtbT_srv (s : State) (t : Tower) (f : AtbTower → AtbTower) : (s.updAtbT t f).srv = s.srv := rfl
@[simp] theorem State.updAtbT_chn (s : State) (t : Tower) (f : AtbTower → AtbTower) : (s.updAtbT t f).chn = s.chn := rfl
@[simp] theorem State.updAtbT_twr (s : State) (t : Tower) (f : AtbTower → AtbTower) : (s.updAtbT t f).twr = s.twr := rfl
@[simp] theorem State.updAtbT_lay (s : State) (t : Tower) (f : AtbTower → AtbTower) : (s.updAtbT t f).lay = s.lay := rfl
@[simp] theorem State.updAtbT_keys (s : State) (t : Tower) (f : AtbTower → AtbTower) : (s.updAtbT t f).keys = s.keys := rfl
@[simp] theorem State.updAtbT_spires (s : State) (t : Tower) (f : AtbTower → AtbTower) : (s.updAtbT t f).spires = s.spires := rfl
@[simp] theorem State.updAtbT_sprEnv (s : State) (t : Tower) (f : AtbTower → AtbTower) : (s.updAtbT t f).sprEnv = s.sprEnv := rfl
@[simp] theorem State.updAtbT_eth (s : State) (t : Tower) (f : AtbTower → AtbTower) : (s.updAtbT t f).eth = s.eth := rfl
@[simp] theorem State.updAtbT_aot (s : State) (t : Tower) (f : AtbTower → AtbTower) : (s.updAtbT t f).aot = s.aot := rfl
@[simp] theorem State.updAtbT_obj (s : State) (t : Tower) (f : AtbTower → AtbTower) : (s.updAtbT t f).obj = s.obj := rfl
@[simp] theorem State.updAtbT_dom (s : State) (t : Tower) (f : AtbTower → AtbTower) : (s.updAtbT t f).dom = s.dom := rfl
@[simp] theorem State.updAtbT_evr (s : State) (t : Tower) (f : AtbTower → AtbTower) : (s.updAtbT t f).evr = s.evr := rfl
@[simp] theorem State.updAtbT_ddr (s : State) (t : Tower) (f : AtbTower → AtbTower) : (s.updAtbT t f).ddr = s.ddr := rfl
@[simp] theorem State.updAtbT_cup (s : State) (t : Tower) (f : AtbTower → AtbTower) : (s.updAtbT t f).cup = s.cup := rfl
@[simp] theorem State.updAtbT_dma (s : State) (t : Tower) (f : AtbTower → AtbTower) : (s.updAtbT t f).dma = s.dma := rfl
@[simp] theorem State.updAtbT_cores (s : State) (t : Tower) (f : AtbTower → AtbTower) : (s.updAtbT t f).cores = s.cores := rfl
@[simp] theorem State.updAtbT_fls (s : State) (t : Tower) (f : AtbTower → AtbTower) : (s.updAtbT t f).fls = s.fls := rfl
@[simp] theorem State.updAtbT_pwr (s : State) (t : Tower) (f : AtbTower → AtbTower) : (s.updAtbT t f).pwr = s.pwr := rfl
@[simp] theorem State.updAtbT_sys (s : State) (t : Tower) (f : AtbTower → AtbTower) : (s.updAtbT t f).sys = s.sys := rfl
@[simp] theorem State.updAtbT_resp (s : State) (t : Tower) (f : AtbTower → AtbTower) : (s.updAtbT t f).resp = s.resp := rfl
@[simp] theorem State.updAtbT_freeCount (s : State) (t : Tower) (f : AtbTower → AtbTower) : (s.updAtbT t f).freeCount = s.freeCount := rfl
@[simp] theorem State.updAtbT_pending (s : State) (t : Tower) (f : AtbTower → AtbTower) : (s.updAtbT t f).pending = s.pending := rfl
@[simp] theorem State.updAtbT_reg (s : State) (t : Tower) (f : AtbTower → AtbTower) (r : Nat) : (s.updAtbT t f).reg r = s.reg r := rfl
@[simp] theorem State.updAtbT_rd (s : State) (t : Tower) (f : AtbTower → AtbTower) (g : Fld) : (s.updAtbT t f).rd g = s.rd g := rfl
@[simp] theorem State.updAtbT_on (s : State) (t : Tower) (f : AtbTower → AtbTower) (g : Fld) : (s.updAtbT t f).on g = s.on g := rfl
@[simp] theorem State.updAtbT_st (s : State) (t : Tower) (f : AtbTower → AtbTower) (b j : Nat) : (s.updAtbT t f).st b j = s.st b j := rfl
@[simp] theorem State.updAtbT_isOn (s : State) (t : Tower) (f : AtbTower → AtbTower) (b j : Nat) : (s.updAtbT t f).isOn b j = s.isOn b j := rfl
@[simp] theorem State.updAtbT_byte (s : State) (t : Tower) (f : AtbTower → AtbTower) (k : Nat) : (s.updAtbT t f).byte k = s.byte k := rfl
@[simp] theorem State.updSpn_regs (s : State) (f : SpnState → SpnState) : (s.updSpn f).regs = s.regs := rfl
@[simp] theorem State.updSpn_mem (s : State) (f : SpnState → SpnState) : (s.updSpn f).mem = s.mem := rfl
@[simp] theorem State.updSpn_fwk (s : State) (f : SpnState → SpnState) : (s.updSpn f).fwk = s.fwk := rfl
@[simp] theorem State.updSpn_atb (s : State) (f : SpnState → SpnState) : (s.updSpn f).atb = s.atb := rfl
@[simp] theorem State.updSpn_spn (s : State) (f : SpnState → SpnState) : (s.updSpn f).spn = f s.spn := rfl
@[simp] theorem State.updSpn_engA (s : State) (f : SpnState → SpnState) : (s.updSpn f).engA = s.engA := rfl
@[simp] theorem State.updSpn_engB (s : State) (f : SpnState → SpnState) : (s.updSpn f).engB = s.engB := rfl
@[simp] theorem State.updSpn_engS (s : State) (f : SpnState → SpnState) : (s.updSpn f).engS = s.engS := rfl
@[simp] theorem State.updSpn_srv (s : State) (f : SpnState → SpnState) : (s.updSpn f).srv = s.srv := rfl
@[simp] theorem State.updSpn_chn (s : State) (f : SpnState → SpnState) : (s.updSpn f).chn = s.chn := rfl
@[simp] theorem State.updSpn_twr (s : State) (f : SpnState → SpnState) : (s.updSpn f).twr = s.twr := rfl
@[simp] theorem State.updSpn_lay (s : State) (f : SpnState → SpnState) : (s.updSpn f).lay = s.lay := rfl
@[simp] theorem State.updSpn_keys (s : State) (f : SpnState → SpnState) : (s.updSpn f).keys = s.keys := rfl
@[simp] theorem State.updSpn_spires (s : State) (f : SpnState → SpnState) : (s.updSpn f).spires = s.spires := rfl
@[simp] theorem State.updSpn_sprEnv (s : State) (f : SpnState → SpnState) : (s.updSpn f).sprEnv = s.sprEnv := rfl
@[simp] theorem State.updSpn_eth (s : State) (f : SpnState → SpnState) : (s.updSpn f).eth = s.eth := rfl
@[simp] theorem State.updSpn_aot (s : State) (f : SpnState → SpnState) : (s.updSpn f).aot = s.aot := rfl
@[simp] theorem State.updSpn_obj (s : State) (f : SpnState → SpnState) : (s.updSpn f).obj = s.obj := rfl
@[simp] theorem State.updSpn_dom (s : State) (f : SpnState → SpnState) : (s.updSpn f).dom = s.dom := rfl
@[simp] theorem State.updSpn_evr (s : State) (f : SpnState → SpnState) : (s.updSpn f).evr = s.evr := rfl
@[simp] theorem State.updSpn_ddr (s : State) (f : SpnState → SpnState) : (s.updSpn f).ddr = s.ddr := rfl
@[simp] theorem State.updSpn_cup (s : State) (f : SpnState → SpnState) : (s.updSpn f).cup = s.cup := rfl
@[simp] theorem State.updSpn_dma (s : State) (f : SpnState → SpnState) : (s.updSpn f).dma = s.dma := rfl
@[simp] theorem State.updSpn_cores (s : State) (f : SpnState → SpnState) : (s.updSpn f).cores = s.cores := rfl
@[simp] theorem State.updSpn_fls (s : State) (f : SpnState → SpnState) : (s.updSpn f).fls = s.fls := rfl
@[simp] theorem State.updSpn_pwr (s : State) (f : SpnState → SpnState) : (s.updSpn f).pwr = s.pwr := rfl
@[simp] theorem State.updSpn_sys (s : State) (f : SpnState → SpnState) : (s.updSpn f).sys = s.sys := rfl
@[simp] theorem State.updSpn_resp (s : State) (f : SpnState → SpnState) : (s.updSpn f).resp = s.resp := rfl
@[simp] theorem State.updSpn_freeCount (s : State) (f : SpnState → SpnState) : (s.updSpn f).freeCount = s.freeCount := rfl
@[simp] theorem State.updSpn_pending (s : State) (f : SpnState → SpnState) : (s.updSpn f).pending = s.pending := rfl
@[simp] theorem State.updSpn_reg (s : State) (f : SpnState → SpnState) (r : Nat) : (s.updSpn f).reg r = s.reg r := rfl
@[simp] theorem State.updSpn_rd (s : State) (f : SpnState → SpnState) (g : Fld) : (s.updSpn f).rd g = s.rd g := rfl
@[simp] theorem State.updSpn_on (s : State) (f : SpnState → SpnState) (g : Fld) : (s.updSpn f).on g = s.on g := rfl
@[simp] theorem State.updSpn_st (s : State) (f : SpnState → SpnState) (b j : Nat) : (s.updSpn f).st b j = s.st b j := rfl
@[simp] theorem State.updSpn_isOn (s : State) (f : SpnState → SpnState) (b j : Nat) : (s.updSpn f).isOn b j = s.isOn b j := rfl
@[simp] theorem State.updSpn_byte (s : State) (f : SpnState → SpnState) (k : Nat) : (s.updSpn f).byte k = s.byte k := rfl
@[simp] theorem State.updSrv_regs (s : State) (t : Tower) (f : SrvState → SrvState) : (s.updSrv t f).regs = s.regs := rfl
@[simp] theorem State.updSrv_mem (s : State) (t : Tower) (f : SrvState → SrvState) : (s.updSrv t f).mem = s.mem := rfl
@[simp] theorem State.updSrv_fwk (s : State) (t : Tower) (f : SrvState → SrvState) : (s.updSrv t f).fwk = s.fwk := rfl
@[simp] theorem State.updSrv_atb (s : State) (t : Tower) (f : SrvState → SrvState) : (s.updSrv t f).atb = s.atb := rfl
@[simp] theorem State.updSrv_spn (s : State) (t : Tower) (f : SrvState → SrvState) : (s.updSrv t f).spn = s.spn := rfl
@[simp] theorem State.updSrv_engA (s : State) (t : Tower) (f : SrvState → SrvState) : (s.updSrv t f).engA = s.engA := rfl
@[simp] theorem State.updSrv_engB (s : State) (t : Tower) (f : SrvState → SrvState) : (s.updSrv t f).engB = s.engB := rfl
@[simp] theorem State.updSrv_engS (s : State) (t : Tower) (f : SrvState → SrvState) : (s.updSrv t f).engS = s.engS := rfl
@[simp] theorem State.updSrv_srv (s : State) (t : Tower) (f : SrvState → SrvState) : (s.updSrv t f).srv = s.srv.set t (f (s.srv.get t)) := rfl
@[simp] theorem State.updSrv_chn (s : State) (t : Tower) (f : SrvState → SrvState) : (s.updSrv t f).chn = s.chn := rfl
@[simp] theorem State.updSrv_twr (s : State) (t : Tower) (f : SrvState → SrvState) : (s.updSrv t f).twr = s.twr := rfl
@[simp] theorem State.updSrv_lay (s : State) (t : Tower) (f : SrvState → SrvState) : (s.updSrv t f).lay = s.lay := rfl
@[simp] theorem State.updSrv_keys (s : State) (t : Tower) (f : SrvState → SrvState) : (s.updSrv t f).keys = s.keys := rfl
@[simp] theorem State.updSrv_spires (s : State) (t : Tower) (f : SrvState → SrvState) : (s.updSrv t f).spires = s.spires := rfl
@[simp] theorem State.updSrv_sprEnv (s : State) (t : Tower) (f : SrvState → SrvState) : (s.updSrv t f).sprEnv = s.sprEnv := rfl
@[simp] theorem State.updSrv_eth (s : State) (t : Tower) (f : SrvState → SrvState) : (s.updSrv t f).eth = s.eth := rfl
@[simp] theorem State.updSrv_aot (s : State) (t : Tower) (f : SrvState → SrvState) : (s.updSrv t f).aot = s.aot := rfl
@[simp] theorem State.updSrv_obj (s : State) (t : Tower) (f : SrvState → SrvState) : (s.updSrv t f).obj = s.obj := rfl
@[simp] theorem State.updSrv_dom (s : State) (t : Tower) (f : SrvState → SrvState) : (s.updSrv t f).dom = s.dom := rfl
@[simp] theorem State.updSrv_evr (s : State) (t : Tower) (f : SrvState → SrvState) : (s.updSrv t f).evr = s.evr := rfl
@[simp] theorem State.updSrv_ddr (s : State) (t : Tower) (f : SrvState → SrvState) : (s.updSrv t f).ddr = s.ddr := rfl
@[simp] theorem State.updSrv_cup (s : State) (t : Tower) (f : SrvState → SrvState) : (s.updSrv t f).cup = s.cup := rfl
@[simp] theorem State.updSrv_dma (s : State) (t : Tower) (f : SrvState → SrvState) : (s.updSrv t f).dma = s.dma := rfl
@[simp] theorem State.updSrv_cores (s : State) (t : Tower) (f : SrvState → SrvState) : (s.updSrv t f).cores = s.cores := rfl
@[simp] theorem State.updSrv_fls (s : State) (t : Tower) (f : SrvState → SrvState) : (s.updSrv t f).fls = s.fls := rfl
@[simp] theorem State.updSrv_pwr (s : State) (t : Tower) (f : SrvState → SrvState) : (s.updSrv t f).pwr = s.pwr := rfl
@[simp] theorem State.updSrv_sys (s : State) (t : Tower) (f : SrvState → SrvState) : (s.updSrv t f).sys = s.sys := rfl
@[simp] theorem State.updSrv_resp (s : State) (t : Tower) (f : SrvState → SrvState) : (s.updSrv t f).resp = s.resp := rfl
@[simp] theorem State.updSrv_freeCount (s : State) (t : Tower) (f : SrvState → SrvState) : (s.updSrv t f).freeCount = s.freeCount := rfl
@[simp] theorem State.updSrv_pending (s : State) (t : Tower) (f : SrvState → SrvState) : (s.updSrv t f).pending = s.pending := rfl
@[simp] theorem State.updSrv_reg (s : State) (t : Tower) (f : SrvState → SrvState) (r : Nat) : (s.updSrv t f).reg r = s.reg r := rfl
@[simp] theorem State.updSrv_rd (s : State) (t : Tower) (f : SrvState → SrvState) (g : Fld) : (s.updSrv t f).rd g = s.rd g := rfl
@[simp] theorem State.updSrv_on (s : State) (t : Tower) (f : SrvState → SrvState) (g : Fld) : (s.updSrv t f).on g = s.on g := rfl
@[simp] theorem State.updSrv_st (s : State) (t : Tower) (f : SrvState → SrvState) (b j : Nat) : (s.updSrv t f).st b j = s.st b j := rfl
@[simp] theorem State.updSrv_isOn (s : State) (t : Tower) (f : SrvState → SrvState) (b j : Nat) : (s.updSrv t f).isOn b j = s.isOn b j := rfl
@[simp] theorem State.updSrv_byte (s : State) (t : Tower) (f : SrvState → SrvState) (k : Nat) : (s.updSrv t f).byte k = s.byte k := rfl
@[simp] theorem State.updChn_regs (s : State) (t : Tower) (f : ChnState → ChnState) : (s.updChn t f).regs = s.regs := rfl
@[simp] theorem State.updChn_mem (s : State) (t : Tower) (f : ChnState → ChnState) : (s.updChn t f).mem = s.mem := rfl
@[simp] theorem State.updChn_fwk (s : State) (t : Tower) (f : ChnState → ChnState) : (s.updChn t f).fwk = s.fwk := rfl
@[simp] theorem State.updChn_atb (s : State) (t : Tower) (f : ChnState → ChnState) : (s.updChn t f).atb = s.atb := rfl
@[simp] theorem State.updChn_spn (s : State) (t : Tower) (f : ChnState → ChnState) : (s.updChn t f).spn = s.spn := rfl
@[simp] theorem State.updChn_engA (s : State) (t : Tower) (f : ChnState → ChnState) : (s.updChn t f).engA = s.engA := rfl
@[simp] theorem State.updChn_engB (s : State) (t : Tower) (f : ChnState → ChnState) : (s.updChn t f).engB = s.engB := rfl
@[simp] theorem State.updChn_engS (s : State) (t : Tower) (f : ChnState → ChnState) : (s.updChn t f).engS = s.engS := rfl
@[simp] theorem State.updChn_srv (s : State) (t : Tower) (f : ChnState → ChnState) : (s.updChn t f).srv = s.srv := rfl
@[simp] theorem State.updChn_chn (s : State) (t : Tower) (f : ChnState → ChnState) : (s.updChn t f).chn = s.chn.set t (f (s.chn.get t)) := rfl
@[simp] theorem State.updChn_twr (s : State) (t : Tower) (f : ChnState → ChnState) : (s.updChn t f).twr = s.twr := rfl
@[simp] theorem State.updChn_lay (s : State) (t : Tower) (f : ChnState → ChnState) : (s.updChn t f).lay = s.lay := rfl
@[simp] theorem State.updChn_keys (s : State) (t : Tower) (f : ChnState → ChnState) : (s.updChn t f).keys = s.keys := rfl
@[simp] theorem State.updChn_spires (s : State) (t : Tower) (f : ChnState → ChnState) : (s.updChn t f).spires = s.spires := rfl
@[simp] theorem State.updChn_sprEnv (s : State) (t : Tower) (f : ChnState → ChnState) : (s.updChn t f).sprEnv = s.sprEnv := rfl
@[simp] theorem State.updChn_eth (s : State) (t : Tower) (f : ChnState → ChnState) : (s.updChn t f).eth = s.eth := rfl
@[simp] theorem State.updChn_aot (s : State) (t : Tower) (f : ChnState → ChnState) : (s.updChn t f).aot = s.aot := rfl
@[simp] theorem State.updChn_obj (s : State) (t : Tower) (f : ChnState → ChnState) : (s.updChn t f).obj = s.obj := rfl
@[simp] theorem State.updChn_dom (s : State) (t : Tower) (f : ChnState → ChnState) : (s.updChn t f).dom = s.dom := rfl
@[simp] theorem State.updChn_evr (s : State) (t : Tower) (f : ChnState → ChnState) : (s.updChn t f).evr = s.evr := rfl
@[simp] theorem State.updChn_ddr (s : State) (t : Tower) (f : ChnState → ChnState) : (s.updChn t f).ddr = s.ddr := rfl
@[simp] theorem State.updChn_cup (s : State) (t : Tower) (f : ChnState → ChnState) : (s.updChn t f).cup = s.cup := rfl
@[simp] theorem State.updChn_dma (s : State) (t : Tower) (f : ChnState → ChnState) : (s.updChn t f).dma = s.dma := rfl
@[simp] theorem State.updChn_cores (s : State) (t : Tower) (f : ChnState → ChnState) : (s.updChn t f).cores = s.cores := rfl
@[simp] theorem State.updChn_fls (s : State) (t : Tower) (f : ChnState → ChnState) : (s.updChn t f).fls = s.fls := rfl
@[simp] theorem State.updChn_pwr (s : State) (t : Tower) (f : ChnState → ChnState) : (s.updChn t f).pwr = s.pwr := rfl
@[simp] theorem State.updChn_sys (s : State) (t : Tower) (f : ChnState → ChnState) : (s.updChn t f).sys = s.sys := rfl
@[simp] theorem State.updChn_resp (s : State) (t : Tower) (f : ChnState → ChnState) : (s.updChn t f).resp = s.resp := rfl
@[simp] theorem State.updChn_freeCount (s : State) (t : Tower) (f : ChnState → ChnState) : (s.updChn t f).freeCount = s.freeCount := rfl
@[simp] theorem State.updChn_pending (s : State) (t : Tower) (f : ChnState → ChnState) : (s.updChn t f).pending = s.pending := rfl
@[simp] theorem State.updChn_reg (s : State) (t : Tower) (f : ChnState → ChnState) (r : Nat) : (s.updChn t f).reg r = s.reg r := rfl
@[simp] theorem State.updChn_rd (s : State) (t : Tower) (f : ChnState → ChnState) (g : Fld) : (s.updChn t f).rd g = s.rd g := rfl
@[simp] theorem State.updChn_on (s : State) (t : Tower) (f : ChnState → ChnState) (g : Fld) : (s.updChn t f).on g = s.on g := rfl
@[simp] theorem State.updChn_st (s : State) (t : Tower) (f : ChnState → ChnState) (b j : Nat) : (s.updChn t f).st b j = s.st b j := rfl
@[simp] theorem State.updChn_isOn (s : State) (t : Tower) (f : ChnState → ChnState) (b j : Nat) : (s.updChn t f).isOn b j = s.isOn b j := rfl
@[simp] theorem State.updChn_byte (s : State) (t : Tower) (f : ChnState → ChnState) (k : Nat) : (s.updChn t f).byte k = s.byte k := rfl
@[simp] theorem State.updTwr_regs (s : State) (t : Tower) (f : TwrState → TwrState) : (s.updTwr t f).regs = s.regs := rfl
@[simp] theorem State.updTwr_mem (s : State) (t : Tower) (f : TwrState → TwrState) : (s.updTwr t f).mem = s.mem := rfl
@[simp] theorem State.updTwr_fwk (s : State) (t : Tower) (f : TwrState → TwrState) : (s.updTwr t f).fwk = s.fwk := rfl
@[simp] theorem State.updTwr_atb (s : State) (t : Tower) (f : TwrState → TwrState) : (s.updTwr t f).atb = s.atb := rfl
@[simp] theorem State.updTwr_spn (s : State) (t : Tower) (f : TwrState → TwrState) : (s.updTwr t f).spn = s.spn := rfl
@[simp] theorem State.updTwr_engA (s : State) (t : Tower) (f : TwrState → TwrState) : (s.updTwr t f).engA = s.engA := rfl
@[simp] theorem State.updTwr_engB (s : State) (t : Tower) (f : TwrState → TwrState) : (s.updTwr t f).engB = s.engB := rfl
@[simp] theorem State.updTwr_engS (s : State) (t : Tower) (f : TwrState → TwrState) : (s.updTwr t f).engS = s.engS := rfl
@[simp] theorem State.updTwr_srv (s : State) (t : Tower) (f : TwrState → TwrState) : (s.updTwr t f).srv = s.srv := rfl
@[simp] theorem State.updTwr_chn (s : State) (t : Tower) (f : TwrState → TwrState) : (s.updTwr t f).chn = s.chn := rfl
@[simp] theorem State.updTwr_twr (s : State) (t : Tower) (f : TwrState → TwrState) : (s.updTwr t f).twr = s.twr.set t (f (s.twr.get t)) := rfl
@[simp] theorem State.updTwr_lay (s : State) (t : Tower) (f : TwrState → TwrState) : (s.updTwr t f).lay = s.lay := rfl
@[simp] theorem State.updTwr_keys (s : State) (t : Tower) (f : TwrState → TwrState) : (s.updTwr t f).keys = s.keys := rfl
@[simp] theorem State.updTwr_spires (s : State) (t : Tower) (f : TwrState → TwrState) : (s.updTwr t f).spires = s.spires := rfl
@[simp] theorem State.updTwr_sprEnv (s : State) (t : Tower) (f : TwrState → TwrState) : (s.updTwr t f).sprEnv = s.sprEnv := rfl
@[simp] theorem State.updTwr_eth (s : State) (t : Tower) (f : TwrState → TwrState) : (s.updTwr t f).eth = s.eth := rfl
@[simp] theorem State.updTwr_aot (s : State) (t : Tower) (f : TwrState → TwrState) : (s.updTwr t f).aot = s.aot := rfl
@[simp] theorem State.updTwr_obj (s : State) (t : Tower) (f : TwrState → TwrState) : (s.updTwr t f).obj = s.obj := rfl
@[simp] theorem State.updTwr_dom (s : State) (t : Tower) (f : TwrState → TwrState) : (s.updTwr t f).dom = s.dom := rfl
@[simp] theorem State.updTwr_evr (s : State) (t : Tower) (f : TwrState → TwrState) : (s.updTwr t f).evr = s.evr := rfl
@[simp] theorem State.updTwr_ddr (s : State) (t : Tower) (f : TwrState → TwrState) : (s.updTwr t f).ddr = s.ddr := rfl
@[simp] theorem State.updTwr_cup (s : State) (t : Tower) (f : TwrState → TwrState) : (s.updTwr t f).cup = s.cup := rfl
@[simp] theorem State.updTwr_dma (s : State) (t : Tower) (f : TwrState → TwrState) : (s.updTwr t f).dma = s.dma := rfl
@[simp] theorem State.updTwr_cores (s : State) (t : Tower) (f : TwrState → TwrState) : (s.updTwr t f).cores = s.cores := rfl
@[simp] theorem State.updTwr_fls (s : State) (t : Tower) (f : TwrState → TwrState) : (s.updTwr t f).fls = s.fls := rfl
@[simp] theorem State.updTwr_pwr (s : State) (t : Tower) (f : TwrState → TwrState) : (s.updTwr t f).pwr = s.pwr := rfl
@[simp] theorem State.updTwr_sys (s : State) (t : Tower) (f : TwrState → TwrState) : (s.updTwr t f).sys = s.sys := rfl
@[simp] theorem State.updTwr_resp (s : State) (t : Tower) (f : TwrState → TwrState) : (s.updTwr t f).resp = s.resp := rfl
@[simp] theorem State.updTwr_freeCount (s : State) (t : Tower) (f : TwrState → TwrState) : (s.updTwr t f).freeCount = s.freeCount := rfl
@[simp] theorem State.updTwr_pending (s : State) (t : Tower) (f : TwrState → TwrState) : (s.updTwr t f).pending = s.pending := rfl
@[simp] theorem State.updTwr_reg (s : State) (t : Tower) (f : TwrState → TwrState) (r : Nat) : (s.updTwr t f).reg r = s.reg r := rfl
@[simp] theorem State.updTwr_rd (s : State) (t : Tower) (f : TwrState → TwrState) (g : Fld) : (s.updTwr t f).rd g = s.rd g := rfl
@[simp] theorem State.updTwr_on (s : State) (t : Tower) (f : TwrState → TwrState) (g : Fld) : (s.updTwr t f).on g = s.on g := rfl
@[simp] theorem State.updTwr_st (s : State) (t : Tower) (f : TwrState → TwrState) (b j : Nat) : (s.updTwr t f).st b j = s.st b j := rfl
@[simp] theorem State.updTwr_isOn (s : State) (t : Tower) (f : TwrState → TwrState) (b j : Nat) : (s.updTwr t f).isOn b j = s.isOn b j := rfl
@[simp] theorem State.updTwr_byte (s : State) (t : Tower) (f : TwrState → TwrState) (k : Nat) : (s.updTwr t f).byte k = s.byte k := rfl
@[simp] theorem State.updSpire_regs (s : State) (sp : Spire) (f : SpireState → SpireState) : (s.updSpire sp f).regs = s.regs := rfl
@[simp] theorem State.updSpire_mem (s : State) (sp : Spire) (f : SpireState → SpireState) : (s.updSpire sp f).mem = s.mem := rfl
@[simp] theorem State.updSpire_fwk (s : State) (sp : Spire) (f : SpireState → SpireState) : (s.updSpire sp f).fwk = s.fwk := rfl
@[simp] theorem State.updSpire_atb (s : State) (sp : Spire) (f : SpireState → SpireState) : (s.updSpire sp f).atb = s.atb := rfl
@[simp] theorem State.updSpire_spn (s : State) (sp : Spire) (f : SpireState → SpireState) : (s.updSpire sp f).spn = s.spn := rfl
@[simp] theorem State.updSpire_engA (s : State) (sp : Spire) (f : SpireState → SpireState) : (s.updSpire sp f).engA = s.engA := rfl
@[simp] theorem State.updSpire_engB (s : State) (sp : Spire) (f : SpireState → SpireState) : (s.updSpire sp f).engB = s.engB := rfl
@[simp] theorem State.updSpire_engS (s : State) (sp : Spire) (f : SpireState → SpireState) : (s.updSpire sp f).engS = s.engS := rfl
@[simp] theorem State.updSpire_srv (s : State) (sp : Spire) (f : SpireState → SpireState) : (s.updSpire sp f).srv = s.srv := rfl
@[simp] theorem State.updSpire_chn (s : State) (sp : Spire) (f : SpireState → SpireState) : (s.updSpire sp f).chn = s.chn := rfl
@[simp] theorem State.updSpire_twr (s : State) (sp : Spire) (f : SpireState → SpireState) : (s.updSpire sp f).twr = s.twr := rfl
@[simp] theorem State.updSpire_lay (s : State) (sp : Spire) (f : SpireState → SpireState) : (s.updSpire sp f).lay = s.lay := rfl
@[simp] theorem State.updSpire_keys (s : State) (sp : Spire) (f : SpireState → SpireState) : (s.updSpire sp f).keys = s.keys := rfl
@[simp] theorem State.updSpire_spires (s : State) (sp : Spire) (f : SpireState → SpireState) : (s.updSpire sp f).spires = s.spires.set (spireFlat sp) (f (s.spire sp)) := rfl
@[simp] theorem State.updSpire_sprEnv (s : State) (sp : Spire) (f : SpireState → SpireState) : (s.updSpire sp f).sprEnv = s.sprEnv := rfl
@[simp] theorem State.updSpire_eth (s : State) (sp : Spire) (f : SpireState → SpireState) : (s.updSpire sp f).eth = s.eth := rfl
@[simp] theorem State.updSpire_aot (s : State) (sp : Spire) (f : SpireState → SpireState) : (s.updSpire sp f).aot = s.aot := rfl
@[simp] theorem State.updSpire_obj (s : State) (sp : Spire) (f : SpireState → SpireState) : (s.updSpire sp f).obj = s.obj := rfl
@[simp] theorem State.updSpire_dom (s : State) (sp : Spire) (f : SpireState → SpireState) : (s.updSpire sp f).dom = s.dom := rfl
@[simp] theorem State.updSpire_evr (s : State) (sp : Spire) (f : SpireState → SpireState) : (s.updSpire sp f).evr = s.evr := rfl
@[simp] theorem State.updSpire_ddr (s : State) (sp : Spire) (f : SpireState → SpireState) : (s.updSpire sp f).ddr = s.ddr := rfl
@[simp] theorem State.updSpire_cup (s : State) (sp : Spire) (f : SpireState → SpireState) : (s.updSpire sp f).cup = s.cup := rfl
@[simp] theorem State.updSpire_dma (s : State) (sp : Spire) (f : SpireState → SpireState) : (s.updSpire sp f).dma = s.dma := rfl
@[simp] theorem State.updSpire_cores (s : State) (sp : Spire) (f : SpireState → SpireState) : (s.updSpire sp f).cores = s.cores := rfl
@[simp] theorem State.updSpire_fls (s : State) (sp : Spire) (f : SpireState → SpireState) : (s.updSpire sp f).fls = s.fls := rfl
@[simp] theorem State.updSpire_pwr (s : State) (sp : Spire) (f : SpireState → SpireState) : (s.updSpire sp f).pwr = s.pwr := rfl
@[simp] theorem State.updSpire_sys (s : State) (sp : Spire) (f : SpireState → SpireState) : (s.updSpire sp f).sys = s.sys := rfl
@[simp] theorem State.updSpire_resp (s : State) (sp : Spire) (f : SpireState → SpireState) : (s.updSpire sp f).resp = s.resp := rfl
@[simp] theorem State.updSpire_freeCount (s : State) (sp : Spire) (f : SpireState → SpireState) : (s.updSpire sp f).freeCount = s.freeCount := rfl
@[simp] theorem State.updSpire_pending (s : State) (sp : Spire) (f : SpireState → SpireState) : (s.updSpire sp f).pending = s.pending := rfl
@[simp] theorem State.updSpire_reg (s : State) (sp : Spire) (f : SpireState → SpireState) (r : Nat) : (s.updSpire sp f).reg r = s.reg r := rfl
@[simp] theorem State.updSpire_rd (s : State) (sp : Spire) (f : SpireState → SpireState) (g : Fld) : (s.updSpire sp f).rd g = s.rd g := rfl
@[simp] theorem State.updSpire_on (s : State) (sp : Spire) (f : SpireState → SpireState) (g : Fld) : (s.updSpire sp f).on g = s.on g := rfl
@[simp] theorem State.updSpire_st (s : State) (sp : Spire) (f : SpireState → SpireState) (b j : Nat) : (s.updSpire sp f).st b j = s.st b j := rfl
@[simp] theorem State.updSpire_isOn (s : State) (sp : Spire) (f : SpireState → SpireState) (b j : Nat) : (s.updSpire sp f).isOn b j = s.isOn b j := rfl
@[simp] theorem State.updSpire_byte (s : State) (sp : Spire) (f : SpireState → SpireState) (k : Nat) : (s.updSpire sp f).byte k = s.byte k := rfl
@[simp] theorem State.updLay_regs (s : State) (t : Tower) (f : LayState → LayState) : (s.updLay t f).regs = s.regs := rfl
@[simp] theorem State.updLay_mem (s : State) (t : Tower) (f : LayState → LayState) : (s.updLay t f).mem = s.mem := rfl
@[simp] theorem State.updLay_fwk (s : State) (t : Tower) (f : LayState → LayState) : (s.updLay t f).fwk = s.fwk := rfl
@[simp] theorem State.updLay_atb (s : State) (t : Tower) (f : LayState → LayState) : (s.updLay t f).atb = s.atb := rfl
@[simp] theorem State.updLay_spn (s : State) (t : Tower) (f : LayState → LayState) : (s.updLay t f).spn = s.spn := rfl
@[simp] theorem State.updLay_engA (s : State) (t : Tower) (f : LayState → LayState) : (s.updLay t f).engA = s.engA := rfl
@[simp] theorem State.updLay_engB (s : State) (t : Tower) (f : LayState → LayState) : (s.updLay t f).engB = s.engB := rfl
@[simp] theorem State.updLay_engS (s : State) (t : Tower) (f : LayState → LayState) : (s.updLay t f).engS = s.engS := rfl
@[simp] theorem State.updLay_srv (s : State) (t : Tower) (f : LayState → LayState) : (s.updLay t f).srv = s.srv := rfl
@[simp] theorem State.updLay_chn (s : State) (t : Tower) (f : LayState → LayState) : (s.updLay t f).chn = s.chn := rfl
@[simp] theorem State.updLay_twr (s : State) (t : Tower) (f : LayState → LayState) : (s.updLay t f).twr = s.twr := rfl
@[simp] theorem State.updLay_lay (s : State) (t : Tower) (f : LayState → LayState) : (s.updLay t f).lay = s.lay.set t (f (s.lay.get t)) := rfl
@[simp] theorem State.updLay_keys (s : State) (t : Tower) (f : LayState → LayState) : (s.updLay t f).keys = s.keys := rfl
@[simp] theorem State.updLay_spires (s : State) (t : Tower) (f : LayState → LayState) : (s.updLay t f).spires = s.spires := rfl
@[simp] theorem State.updLay_sprEnv (s : State) (t : Tower) (f : LayState → LayState) : (s.updLay t f).sprEnv = s.sprEnv := rfl
@[simp] theorem State.updLay_eth (s : State) (t : Tower) (f : LayState → LayState) : (s.updLay t f).eth = s.eth := rfl
@[simp] theorem State.updLay_aot (s : State) (t : Tower) (f : LayState → LayState) : (s.updLay t f).aot = s.aot := rfl
@[simp] theorem State.updLay_obj (s : State) (t : Tower) (f : LayState → LayState) : (s.updLay t f).obj = s.obj := rfl
@[simp] theorem State.updLay_dom (s : State) (t : Tower) (f : LayState → LayState) : (s.updLay t f).dom = s.dom := rfl
@[simp] theorem State.updLay_evr (s : State) (t : Tower) (f : LayState → LayState) : (s.updLay t f).evr = s.evr := rfl
@[simp] theorem State.updLay_ddr (s : State) (t : Tower) (f : LayState → LayState) : (s.updLay t f).ddr = s.ddr := rfl
@[simp] theorem State.updLay_cup (s : State) (t : Tower) (f : LayState → LayState) : (s.updLay t f).cup = s.cup := rfl
@[simp] theorem State.updLay_dma (s : State) (t : Tower) (f : LayState → LayState) : (s.updLay t f).dma = s.dma := rfl
@[simp] theorem State.updLay_cores (s : State) (t : Tower) (f : LayState → LayState) : (s.updLay t f).cores = s.cores := rfl
@[simp] theorem State.updLay_fls (s : State) (t : Tower) (f : LayState → LayState) : (s.updLay t f).fls = s.fls := rfl
@[simp] theorem State.updLay_pwr (s : State) (t : Tower) (f : LayState → LayState) : (s.updLay t f).pwr = s.pwr := rfl
@[simp] theorem State.updLay_sys (s : State) (t : Tower) (f : LayState → LayState) : (s.updLay t f).sys = s.sys := rfl
@[simp] theorem State.updLay_resp (s : State) (t : Tower) (f : LayState → LayState) : (s.updLay t f).resp = s.resp := rfl
@[simp] theorem State.updLay_freeCount (s : State) (t : Tower) (f : LayState → LayState) : (s.updLay t f).freeCount = s.freeCount := rfl
@[simp] theorem State.updLay_pending (s : State) (t : Tower) (f : LayState → LayState) : (s.updLay t f).pending = s.pending := rfl
@[simp] theorem State.updLay_reg (s : State) (t : Tower) (f : LayState → LayState) (r : Nat) : (s.updLay t f).reg r = s.reg r := rfl
@[simp] theorem State.updLay_rd (s : State) (t : Tower) (f : LayState → LayState) (g : Fld) : (s.updLay t f).rd g = s.rd g := rfl
@[simp] theorem State.updLay_on (s : State) (t : Tower) (f : LayState → LayState) (g : Fld) : (s.updLay t f).on g = s.on g := rfl
@[simp] theorem State.updLay_st (s : State) (t : Tower) (f : LayState → LayState) (b j : Nat) : (s.updLay t f).st b j = s.st b j := rfl
@[simp] theorem State.updLay_isOn (s : State) (t : Tower) (f : LayState → LayState) (b j : Nat) : (s.updLay t f).isOn b j = s.isOn b j := rfl
@[simp] theorem State.updLay_byte (s : State) (t : Tower) (f : LayState → LayState) (k : Nat) : (s.updLay t f).byte k = s.byte k := rfl
@[simp] theorem State.updAot_regs (s : State) (f : AotState → AotState) : (s.updAot f).regs = s.regs := rfl
@[simp] theorem State.updAot_mem (s : State) (f : AotState → AotState) : (s.updAot f).mem = s.mem := rfl
@[simp] theorem State.updAot_fwk (s : State) (f : AotState → AotState) : (s.updAot f).fwk = s.fwk := rfl
@[simp] theorem State.updAot_atb (s : State) (f : AotState → AotState) : (s.updAot f).atb = s.atb := rfl
@[simp] theorem State.updAot_spn (s : State) (f : AotState → AotState) : (s.updAot f).spn = s.spn := rfl
@[simp] theorem State.updAot_engA (s : State) (f : AotState → AotState) : (s.updAot f).engA = s.engA := rfl
@[simp] theorem State.updAot_engB (s : State) (f : AotState → AotState) : (s.updAot f).engB = s.engB := rfl
@[simp] theorem State.updAot_engS (s : State) (f : AotState → AotState) : (s.updAot f).engS = s.engS := rfl
@[simp] theorem State.updAot_srv (s : State) (f : AotState → AotState) : (s.updAot f).srv = s.srv := rfl
@[simp] theorem State.updAot_chn (s : State) (f : AotState → AotState) : (s.updAot f).chn = s.chn := rfl
@[simp] theorem State.updAot_twr (s : State) (f : AotState → AotState) : (s.updAot f).twr = s.twr := rfl
@[simp] theorem State.updAot_lay (s : State) (f : AotState → AotState) : (s.updAot f).lay = s.lay := rfl
@[simp] theorem State.updAot_keys (s : State) (f : AotState → AotState) : (s.updAot f).keys = s.keys := rfl
@[simp] theorem State.updAot_spires (s : State) (f : AotState → AotState) : (s.updAot f).spires = s.spires := rfl
@[simp] theorem State.updAot_sprEnv (s : State) (f : AotState → AotState) : (s.updAot f).sprEnv = s.sprEnv := rfl
@[simp] theorem State.updAot_eth (s : State) (f : AotState → AotState) : (s.updAot f).eth = s.eth := rfl
@[simp] theorem State.updAot_aot (s : State) (f : AotState → AotState) : (s.updAot f).aot = f s.aot := rfl
@[simp] theorem State.updAot_obj (s : State) (f : AotState → AotState) : (s.updAot f).obj = s.obj := rfl
@[simp] theorem State.updAot_dom (s : State) (f : AotState → AotState) : (s.updAot f).dom = s.dom := rfl
@[simp] theorem State.updAot_evr (s : State) (f : AotState → AotState) : (s.updAot f).evr = s.evr := rfl
@[simp] theorem State.updAot_ddr (s : State) (f : AotState → AotState) : (s.updAot f).ddr = s.ddr := rfl
@[simp] theorem State.updAot_cup (s : State) (f : AotState → AotState) : (s.updAot f).cup = s.cup := rfl
@[simp] theorem State.updAot_dma (s : State) (f : AotState → AotState) : (s.updAot f).dma = s.dma := rfl
@[simp] theorem State.updAot_cores (s : State) (f : AotState → AotState) : (s.updAot f).cores = s.cores := rfl
@[simp] theorem State.updAot_fls (s : State) (f : AotState → AotState) : (s.updAot f).fls = s.fls := rfl
@[simp] theorem State.updAot_pwr (s : State) (f : AotState → AotState) : (s.updAot f).pwr = s.pwr := rfl
@[simp] theorem State.updAot_sys (s : State) (f : AotState → AotState) : (s.updAot f).sys = s.sys := rfl
@[simp] theorem State.updAot_resp (s : State) (f : AotState → AotState) : (s.updAot f).resp = s.resp := rfl
@[simp] theorem State.updAot_freeCount (s : State) (f : AotState → AotState) : (s.updAot f).freeCount = s.freeCount := rfl
@[simp] theorem State.updAot_pending (s : State) (f : AotState → AotState) : (s.updAot f).pending = s.pending := rfl
@[simp] theorem State.updAot_reg (s : State) (f : AotState → AotState) (r : Nat) : (s.updAot f).reg r = s.reg r := rfl
@[simp] theorem State.updAot_rd (s : State) (f : AotState → AotState) (g : Fld) : (s.updAot f).rd g = s.rd g := rfl
@[simp] theorem State.updAot_on (s : State) (f : AotState → AotState) (g : Fld) : (s.updAot f).on g = s.on g := rfl
@[simp] theorem State.updAot_st (s : State) (f : AotState → AotState) (b j : Nat) : (s.updAot f).st b j = s.st b j := rfl
@[simp] theorem State.updAot_isOn (s : State) (f : AotState → AotState) (b j : Nat) : (s.updAot f).isOn b j = s.isOn b j := rfl
@[simp] theorem State.updAot_byte (s : State) (f : AotState → AotState) (k : Nat) : (s.updAot f).byte k = s.byte k := rfl
@[simp] theorem State.updObj_regs (s : State) (f : ObjState → ObjState) : (s.updObj f).regs = s.regs := rfl
@[simp] theorem State.updObj_mem (s : State) (f : ObjState → ObjState) : (s.updObj f).mem = s.mem := rfl
@[simp] theorem State.updObj_fwk (s : State) (f : ObjState → ObjState) : (s.updObj f).fwk = s.fwk := rfl
@[simp] theorem State.updObj_atb (s : State) (f : ObjState → ObjState) : (s.updObj f).atb = s.atb := rfl
@[simp] theorem State.updObj_spn (s : State) (f : ObjState → ObjState) : (s.updObj f).spn = s.spn := rfl
@[simp] theorem State.updObj_engA (s : State) (f : ObjState → ObjState) : (s.updObj f).engA = s.engA := rfl
@[simp] theorem State.updObj_engB (s : State) (f : ObjState → ObjState) : (s.updObj f).engB = s.engB := rfl
@[simp] theorem State.updObj_engS (s : State) (f : ObjState → ObjState) : (s.updObj f).engS = s.engS := rfl
@[simp] theorem State.updObj_srv (s : State) (f : ObjState → ObjState) : (s.updObj f).srv = s.srv := rfl
@[simp] theorem State.updObj_chn (s : State) (f : ObjState → ObjState) : (s.updObj f).chn = s.chn := rfl
@[simp] theorem State.updObj_twr (s : State) (f : ObjState → ObjState) : (s.updObj f).twr = s.twr := rfl
@[simp] theorem State.updObj_lay (s : State) (f : ObjState → ObjState) : (s.updObj f).lay = s.lay := rfl
@[simp] theorem State.updObj_keys (s : State) (f : ObjState → ObjState) : (s.updObj f).keys = s.keys := rfl
@[simp] theorem State.updObj_spires (s : State) (f : ObjState → ObjState) : (s.updObj f).spires = s.spires := rfl
@[simp] theorem State.updObj_sprEnv (s : State) (f : ObjState → ObjState) : (s.updObj f).sprEnv = s.sprEnv := rfl
@[simp] theorem State.updObj_eth (s : State) (f : ObjState → ObjState) : (s.updObj f).eth = s.eth := rfl
@[simp] theorem State.updObj_aot (s : State) (f : ObjState → ObjState) : (s.updObj f).aot = s.aot := rfl
@[simp] theorem State.updObj_obj (s : State) (f : ObjState → ObjState) : (s.updObj f).obj = f s.obj := rfl
@[simp] theorem State.updObj_dom (s : State) (f : ObjState → ObjState) : (s.updObj f).dom = s.dom := rfl
@[simp] theorem State.updObj_evr (s : State) (f : ObjState → ObjState) : (s.updObj f).evr = s.evr := rfl
@[simp] theorem State.updObj_ddr (s : State) (f : ObjState → ObjState) : (s.updObj f).ddr = s.ddr := rfl
@[simp] theorem State.updObj_cup (s : State) (f : ObjState → ObjState) : (s.updObj f).cup = s.cup := rfl
@[simp] theorem State.updObj_dma (s : State) (f : ObjState → ObjState) : (s.updObj f).dma = s.dma := rfl
@[simp] theorem State.updObj_cores (s : State) (f : ObjState → ObjState) : (s.updObj f).cores = s.cores := rfl
@[simp] theorem State.updObj_fls (s : State) (f : ObjState → ObjState) : (s.updObj f).fls = s.fls := rfl
@[simp] theorem State.updObj_pwr (s : State) (f : ObjState → ObjState) : (s.updObj f).pwr = s.pwr := rfl
@[simp] theorem State.updObj_sys (s : State) (f : ObjState → ObjState) : (s.updObj f).sys = s.sys := rfl
@[simp] theorem State.updObj_resp (s : State) (f : ObjState → ObjState) : (s.updObj f).resp = s.resp := rfl
@[simp] theorem State.updObj_freeCount (s : State) (f : ObjState → ObjState) : (s.updObj f).freeCount = s.freeCount := rfl
@[simp] theorem State.updObj_pending (s : State) (f : ObjState → ObjState) : (s.updObj f).pending = s.pending := rfl
@[simp] theorem State.updObj_reg (s : State) (f : ObjState → ObjState) (r : Nat) : (s.updObj f).reg r = s.reg r := rfl
@[simp] theorem State.updObj_rd (s : State) (f : ObjState → ObjState) (g : Fld) : (s.updObj f).rd g = s.rd g := rfl
@[simp] theorem State.updObj_on (s : State) (f : ObjState → ObjState) (g : Fld) : (s.updObj f).on g = s.on g := rfl
@[simp] theorem State.updObj_st (s : State) (f : ObjState → ObjState) (b j : Nat) : (s.updObj f).st b j = s.st b j := rfl
@[simp] theorem State.updObj_isOn (s : State) (f : ObjState → ObjState) (b j : Nat) : (s.updObj f).isOn b j = s.isOn b j := rfl
@[simp] theorem State.updObj_byte (s : State) (f : ObjState → ObjState) (k : Nat) : (s.updObj f).byte k = s.byte k := rfl
@[simp] theorem State.updEvr_regs (s : State) (f : EvrState → EvrState) : (s.updEvr f).regs = s.regs := rfl
@[simp] theorem State.updEvr_mem (s : State) (f : EvrState → EvrState) : (s.updEvr f).mem = s.mem := rfl
@[simp] theorem State.updEvr_fwk (s : State) (f : EvrState → EvrState) : (s.updEvr f).fwk = s.fwk := rfl
@[simp] theorem State.updEvr_atb (s : State) (f : EvrState → EvrState) : (s.updEvr f).atb = s.atb := rfl
@[simp] theorem State.updEvr_spn (s : State) (f : EvrState → EvrState) : (s.updEvr f).spn = s.spn := rfl
@[simp] theorem State.updEvr_engA (s : State) (f : EvrState → EvrState) : (s.updEvr f).engA = s.engA := rfl
@[simp] theorem State.updEvr_engB (s : State) (f : EvrState → EvrState) : (s.updEvr f).engB = s.engB := rfl
@[simp] theorem State.updEvr_engS (s : State) (f : EvrState → EvrState) : (s.updEvr f).engS = s.engS := rfl
@[simp] theorem State.updEvr_srv (s : State) (f : EvrState → EvrState) : (s.updEvr f).srv = s.srv := rfl
@[simp] theorem State.updEvr_chn (s : State) (f : EvrState → EvrState) : (s.updEvr f).chn = s.chn := rfl
@[simp] theorem State.updEvr_twr (s : State) (f : EvrState → EvrState) : (s.updEvr f).twr = s.twr := rfl
@[simp] theorem State.updEvr_lay (s : State) (f : EvrState → EvrState) : (s.updEvr f).lay = s.lay := rfl
@[simp] theorem State.updEvr_keys (s : State) (f : EvrState → EvrState) : (s.updEvr f).keys = s.keys := rfl
@[simp] theorem State.updEvr_spires (s : State) (f : EvrState → EvrState) : (s.updEvr f).spires = s.spires := rfl
@[simp] theorem State.updEvr_sprEnv (s : State) (f : EvrState → EvrState) : (s.updEvr f).sprEnv = s.sprEnv := rfl
@[simp] theorem State.updEvr_eth (s : State) (f : EvrState → EvrState) : (s.updEvr f).eth = s.eth := rfl
@[simp] theorem State.updEvr_aot (s : State) (f : EvrState → EvrState) : (s.updEvr f).aot = s.aot := rfl
@[simp] theorem State.updEvr_obj (s : State) (f : EvrState → EvrState) : (s.updEvr f).obj = s.obj := rfl
@[simp] theorem State.updEvr_dom (s : State) (f : EvrState → EvrState) : (s.updEvr f).dom = s.dom := rfl
@[simp] theorem State.updEvr_evr (s : State) (f : EvrState → EvrState) : (s.updEvr f).evr = f s.evr := rfl
@[simp] theorem State.updEvr_ddr (s : State) (f : EvrState → EvrState) : (s.updEvr f).ddr = s.ddr := rfl
@[simp] theorem State.updEvr_cup (s : State) (f : EvrState → EvrState) : (s.updEvr f).cup = s.cup := rfl
@[simp] theorem State.updEvr_dma (s : State) (f : EvrState → EvrState) : (s.updEvr f).dma = s.dma := rfl
@[simp] theorem State.updEvr_cores (s : State) (f : EvrState → EvrState) : (s.updEvr f).cores = s.cores := rfl
@[simp] theorem State.updEvr_fls (s : State) (f : EvrState → EvrState) : (s.updEvr f).fls = s.fls := rfl
@[simp] theorem State.updEvr_pwr (s : State) (f : EvrState → EvrState) : (s.updEvr f).pwr = s.pwr := rfl
@[simp] theorem State.updEvr_sys (s : State) (f : EvrState → EvrState) : (s.updEvr f).sys = s.sys := rfl
@[simp] theorem State.updEvr_resp (s : State) (f : EvrState → EvrState) : (s.updEvr f).resp = s.resp := rfl
@[simp] theorem State.updEvr_freeCount (s : State) (f : EvrState → EvrState) : (s.updEvr f).freeCount = s.freeCount := rfl
@[simp] theorem State.updEvr_pending (s : State) (f : EvrState → EvrState) : (s.updEvr f).pending = s.pending := rfl
@[simp] theorem State.updEvr_reg (s : State) (f : EvrState → EvrState) (r : Nat) : (s.updEvr f).reg r = s.reg r := rfl
@[simp] theorem State.updEvr_rd (s : State) (f : EvrState → EvrState) (g : Fld) : (s.updEvr f).rd g = s.rd g := rfl
@[simp] theorem State.updEvr_on (s : State) (f : EvrState → EvrState) (g : Fld) : (s.updEvr f).on g = s.on g := rfl
@[simp] theorem State.updEvr_st (s : State) (f : EvrState → EvrState) (b j : Nat) : (s.updEvr f).st b j = s.st b j := rfl
@[simp] theorem State.updEvr_isOn (s : State) (f : EvrState → EvrState) (b j : Nat) : (s.updEvr f).isOn b j = s.isOn b j := rfl
@[simp] theorem State.updEvr_byte (s : State) (f : EvrState → EvrState) (k : Nat) : (s.updEvr f).byte k = s.byte k := rfl
@[simp] theorem State.updDom_regs (s : State) (f : DomState → DomState) : (s.updDom f).regs = s.regs := rfl
@[simp] theorem State.updDom_mem (s : State) (f : DomState → DomState) : (s.updDom f).mem = s.mem := rfl
@[simp] theorem State.updDom_fwk (s : State) (f : DomState → DomState) : (s.updDom f).fwk = s.fwk := rfl
@[simp] theorem State.updDom_atb (s : State) (f : DomState → DomState) : (s.updDom f).atb = s.atb := rfl
@[simp] theorem State.updDom_spn (s : State) (f : DomState → DomState) : (s.updDom f).spn = s.spn := rfl
@[simp] theorem State.updDom_engA (s : State) (f : DomState → DomState) : (s.updDom f).engA = s.engA := rfl
@[simp] theorem State.updDom_engB (s : State) (f : DomState → DomState) : (s.updDom f).engB = s.engB := rfl
@[simp] theorem State.updDom_engS (s : State) (f : DomState → DomState) : (s.updDom f).engS = s.engS := rfl
@[simp] theorem State.updDom_srv (s : State) (f : DomState → DomState) : (s.updDom f).srv = s.srv := rfl
@[simp] theorem State.updDom_chn (s : State) (f : DomState → DomState) : (s.updDom f).chn = s.chn := rfl
@[simp] theorem State.updDom_twr (s : State) (f : DomState → DomState) : (s.updDom f).twr = s.twr := rfl
@[simp] theorem State.updDom_lay (s : State) (f : DomState → DomState) : (s.updDom f).lay = s.lay := rfl
@[simp] theorem State.updDom_keys (s : State) (f : DomState → DomState) : (s.updDom f).keys = s.keys := rfl
@[simp] theorem State.updDom_spires (s : State) (f : DomState → DomState) : (s.updDom f).spires = s.spires := rfl
@[simp] theorem State.updDom_sprEnv (s : State) (f : DomState → DomState) : (s.updDom f).sprEnv = s.sprEnv := rfl
@[simp] theorem State.updDom_eth (s : State) (f : DomState → DomState) : (s.updDom f).eth = s.eth := rfl
@[simp] theorem State.updDom_aot (s : State) (f : DomState → DomState) : (s.updDom f).aot = s.aot := rfl
@[simp] theorem State.updDom_obj (s : State) (f : DomState → DomState) : (s.updDom f).obj = s.obj := rfl
@[simp] theorem State.updDom_dom (s : State) (f : DomState → DomState) : (s.updDom f).dom = f s.dom := rfl
@[simp] theorem State.updDom_evr (s : State) (f : DomState → DomState) : (s.updDom f).evr = s.evr := rfl
@[simp] theorem State.updDom_ddr (s : State) (f : DomState → DomState) : (s.updDom f).ddr = s.ddr := rfl
@[simp] theorem State.updDom_cup (s : State) (f : DomState → DomState) : (s.updDom f).cup = s.cup := rfl
@[simp] theorem State.updDom_dma (s : State) (f : DomState → DomState) : (s.updDom f).dma = s.dma := rfl
@[simp] theorem State.updDom_cores (s : State) (f : DomState → DomState) : (s.updDom f).cores = s.cores := rfl
@[simp] theorem State.updDom_fls (s : State) (f : DomState → DomState) : (s.updDom f).fls = s.fls := rfl
@[simp] theorem State.updDom_pwr (s : State) (f : DomState → DomState) : (s.updDom f).pwr = s.pwr := rfl
@[simp] theorem State.updDom_sys (s : State) (f : DomState → DomState) : (s.updDom f).sys = s.sys := rfl
@[simp] theorem State.updDom_resp (s : State) (f : DomState → DomState) : (s.updDom f).resp = s.resp := rfl
@[simp] theorem State.updDom_freeCount (s : State) (f : DomState → DomState) : (s.updDom f).freeCount = s.freeCount := rfl
@[simp] theorem State.updDom_pending (s : State) (f : DomState → DomState) : (s.updDom f).pending = s.pending := rfl
@[simp] theorem State.updDom_reg (s : State) (f : DomState → DomState) (r : Nat) : (s.updDom f).reg r = s.reg r := rfl
@[simp] theorem State.updDom_rd (s : State) (f : DomState → DomState) (g : Fld) : (s.updDom f).rd g = s.rd g := rfl
@[simp] theorem State.updDom_on (s : State) (f : DomState → DomState) (g : Fld) : (s.updDom f).on g = s.on g := rfl
@[simp] theorem State.updDom_st (s : State) (f : DomState → DomState) (b j : Nat) : (s.updDom f).st b j = s.st b j := rfl
@[simp] theorem State.updDom_isOn (s : State) (f : DomState → DomState) (b j : Nat) : (s.updDom f).isOn b j = s.isOn b j := rfl
@[simp] theorem State.updDom_byte (s : State) (f : DomState → DomState) (k : Nat) : (s.updDom f).byte k = s.byte k := rfl
@[simp] theorem State.updDdr_regs (s : State) (f : DdrState → DdrState) : (s.updDdr f).regs = s.regs := rfl
@[simp] theorem State.updDdr_mem (s : State) (f : DdrState → DdrState) : (s.updDdr f).mem = s.mem := rfl
@[simp] theorem State.updDdr_fwk (s : State) (f : DdrState → DdrState) : (s.updDdr f).fwk = s.fwk := rfl
@[simp] theorem State.updDdr_atb (s : State) (f : DdrState → DdrState) : (s.updDdr f).atb = s.atb := rfl
@[simp] theorem State.updDdr_spn (s : State) (f : DdrState → DdrState) : (s.updDdr f).spn = s.spn := rfl
@[simp] theorem State.updDdr_engA (s : State) (f : DdrState → DdrState) : (s.updDdr f).engA = s.engA := rfl
@[simp] theorem State.updDdr_engB (s : State) (f : DdrState → DdrState) : (s.updDdr f).engB = s.engB := rfl
@[simp] theorem State.updDdr_engS (s : State) (f : DdrState → DdrState) : (s.updDdr f).engS = s.engS := rfl
@[simp] theorem State.updDdr_srv (s : State) (f : DdrState → DdrState) : (s.updDdr f).srv = s.srv := rfl
@[simp] theorem State.updDdr_chn (s : State) (f : DdrState → DdrState) : (s.updDdr f).chn = s.chn := rfl
@[simp] theorem State.updDdr_twr (s : State) (f : DdrState → DdrState) : (s.updDdr f).twr = s.twr := rfl
@[simp] theorem State.updDdr_lay (s : State) (f : DdrState → DdrState) : (s.updDdr f).lay = s.lay := rfl
@[simp] theorem State.updDdr_keys (s : State) (f : DdrState → DdrState) : (s.updDdr f).keys = s.keys := rfl
@[simp] theorem State.updDdr_spires (s : State) (f : DdrState → DdrState) : (s.updDdr f).spires = s.spires := rfl
@[simp] theorem State.updDdr_sprEnv (s : State) (f : DdrState → DdrState) : (s.updDdr f).sprEnv = s.sprEnv := rfl
@[simp] theorem State.updDdr_eth (s : State) (f : DdrState → DdrState) : (s.updDdr f).eth = s.eth := rfl
@[simp] theorem State.updDdr_aot (s : State) (f : DdrState → DdrState) : (s.updDdr f).aot = s.aot := rfl
@[simp] theorem State.updDdr_obj (s : State) (f : DdrState → DdrState) : (s.updDdr f).obj = s.obj := rfl
@[simp] theorem State.updDdr_dom (s : State) (f : DdrState → DdrState) : (s.updDdr f).dom = s.dom := rfl
@[simp] theorem State.updDdr_evr (s : State) (f : DdrState → DdrState) : (s.updDdr f).evr = s.evr := rfl
@[simp] theorem State.updDdr_ddr (s : State) (f : DdrState → DdrState) : (s.updDdr f).ddr = f s.ddr := rfl
@[simp] theorem State.updDdr_cup (s : State) (f : DdrState → DdrState) : (s.updDdr f).cup = s.cup := rfl
@[simp] theorem State.updDdr_dma (s : State) (f : DdrState → DdrState) : (s.updDdr f).dma = s.dma := rfl
@[simp] theorem State.updDdr_cores (s : State) (f : DdrState → DdrState) : (s.updDdr f).cores = s.cores := rfl
@[simp] theorem State.updDdr_fls (s : State) (f : DdrState → DdrState) : (s.updDdr f).fls = s.fls := rfl
@[simp] theorem State.updDdr_pwr (s : State) (f : DdrState → DdrState) : (s.updDdr f).pwr = s.pwr := rfl
@[simp] theorem State.updDdr_sys (s : State) (f : DdrState → DdrState) : (s.updDdr f).sys = s.sys := rfl
@[simp] theorem State.updDdr_resp (s : State) (f : DdrState → DdrState) : (s.updDdr f).resp = s.resp := rfl
@[simp] theorem State.updDdr_freeCount (s : State) (f : DdrState → DdrState) : (s.updDdr f).freeCount = s.freeCount := rfl
@[simp] theorem State.updDdr_pending (s : State) (f : DdrState → DdrState) : (s.updDdr f).pending = s.pending := rfl
@[simp] theorem State.updDdr_reg (s : State) (f : DdrState → DdrState) (r : Nat) : (s.updDdr f).reg r = s.reg r := rfl
@[simp] theorem State.updDdr_rd (s : State) (f : DdrState → DdrState) (g : Fld) : (s.updDdr f).rd g = s.rd g := rfl
@[simp] theorem State.updDdr_on (s : State) (f : DdrState → DdrState) (g : Fld) : (s.updDdr f).on g = s.on g := rfl
@[simp] theorem State.updDdr_st (s : State) (f : DdrState → DdrState) (b j : Nat) : (s.updDdr f).st b j = s.st b j := rfl
@[simp] theorem State.updDdr_isOn (s : State) (f : DdrState → DdrState) (b j : Nat) : (s.updDdr f).isOn b j = s.isOn b j := rfl
@[simp] theorem State.updDdr_byte (s : State) (f : DdrState → DdrState) (k : Nat) : (s.updDdr f).byte k = s.byte k := rfl
@[simp] theorem State.updCup_regs (s : State) (f : CupState → CupState) : (s.updCup f).regs = s.regs := rfl
@[simp] theorem State.updCup_mem (s : State) (f : CupState → CupState) : (s.updCup f).mem = s.mem := rfl
@[simp] theorem State.updCup_fwk (s : State) (f : CupState → CupState) : (s.updCup f).fwk = s.fwk := rfl
@[simp] theorem State.updCup_atb (s : State) (f : CupState → CupState) : (s.updCup f).atb = s.atb := rfl
@[simp] theorem State.updCup_spn (s : State) (f : CupState → CupState) : (s.updCup f).spn = s.spn := rfl
@[simp] theorem State.updCup_engA (s : State) (f : CupState → CupState) : (s.updCup f).engA = s.engA := rfl
@[simp] theorem State.updCup_engB (s : State) (f : CupState → CupState) : (s.updCup f).engB = s.engB := rfl
@[simp] theorem State.updCup_engS (s : State) (f : CupState → CupState) : (s.updCup f).engS = s.engS := rfl
@[simp] theorem State.updCup_srv (s : State) (f : CupState → CupState) : (s.updCup f).srv = s.srv := rfl
@[simp] theorem State.updCup_chn (s : State) (f : CupState → CupState) : (s.updCup f).chn = s.chn := rfl
@[simp] theorem State.updCup_twr (s : State) (f : CupState → CupState) : (s.updCup f).twr = s.twr := rfl
@[simp] theorem State.updCup_lay (s : State) (f : CupState → CupState) : (s.updCup f).lay = s.lay := rfl
@[simp] theorem State.updCup_keys (s : State) (f : CupState → CupState) : (s.updCup f).keys = s.keys := rfl
@[simp] theorem State.updCup_spires (s : State) (f : CupState → CupState) : (s.updCup f).spires = s.spires := rfl
@[simp] theorem State.updCup_sprEnv (s : State) (f : CupState → CupState) : (s.updCup f).sprEnv = s.sprEnv := rfl
@[simp] theorem State.updCup_eth (s : State) (f : CupState → CupState) : (s.updCup f).eth = s.eth := rfl
@[simp] theorem State.updCup_aot (s : State) (f : CupState → CupState) : (s.updCup f).aot = s.aot := rfl
@[simp] theorem State.updCup_obj (s : State) (f : CupState → CupState) : (s.updCup f).obj = s.obj := rfl
@[simp] theorem State.updCup_dom (s : State) (f : CupState → CupState) : (s.updCup f).dom = s.dom := rfl
@[simp] theorem State.updCup_evr (s : State) (f : CupState → CupState) : (s.updCup f).evr = s.evr := rfl
@[simp] theorem State.updCup_ddr (s : State) (f : CupState → CupState) : (s.updCup f).ddr = s.ddr := rfl
@[simp] theorem State.updCup_cup (s : State) (f : CupState → CupState) : (s.updCup f).cup = f s.cup := rfl
@[simp] theorem State.updCup_dma (s : State) (f : CupState → CupState) : (s.updCup f).dma = s.dma := rfl
@[simp] theorem State.updCup_cores (s : State) (f : CupState → CupState) : (s.updCup f).cores = s.cores := rfl
@[simp] theorem State.updCup_fls (s : State) (f : CupState → CupState) : (s.updCup f).fls = s.fls := rfl
@[simp] theorem State.updCup_pwr (s : State) (f : CupState → CupState) : (s.updCup f).pwr = s.pwr := rfl
@[simp] theorem State.updCup_sys (s : State) (f : CupState → CupState) : (s.updCup f).sys = s.sys := rfl
@[simp] theorem State.updCup_resp (s : State) (f : CupState → CupState) : (s.updCup f).resp = s.resp := rfl
@[simp] theorem State.updCup_freeCount (s : State) (f : CupState → CupState) : (s.updCup f).freeCount = s.freeCount := rfl
@[simp] theorem State.updCup_pending (s : State) (f : CupState → CupState) : (s.updCup f).pending = s.pending := rfl
@[simp] theorem State.updCup_reg (s : State) (f : CupState → CupState) (r : Nat) : (s.updCup f).reg r = s.reg r := rfl
@[simp] theorem State.updCup_rd (s : State) (f : CupState → CupState) (g : Fld) : (s.updCup f).rd g = s.rd g := rfl
@[simp] theorem State.updCup_on (s : State) (f : CupState → CupState) (g : Fld) : (s.updCup f).on g = s.on g := rfl
@[simp] theorem State.updCup_st (s : State) (f : CupState → CupState) (b j : Nat) : (s.updCup f).st b j = s.st b j := rfl
@[simp] theorem State.updCup_isOn (s : State) (f : CupState → CupState) (b j : Nat) : (s.updCup f).isOn b j = s.isOn b j := rfl
@[simp] theorem State.updCup_byte (s : State) (f : CupState → CupState) (k : Nat) : (s.updCup f).byte k = s.byte k := rfl
@[simp] theorem State.updDma_regs (s : State) (f : DmaState → DmaState) : (s.updDma f).regs = s.regs := rfl
@[simp] theorem State.updDma_mem (s : State) (f : DmaState → DmaState) : (s.updDma f).mem = s.mem := rfl
@[simp] theorem State.updDma_fwk (s : State) (f : DmaState → DmaState) : (s.updDma f).fwk = s.fwk := rfl
@[simp] theorem State.updDma_atb (s : State) (f : DmaState → DmaState) : (s.updDma f).atb = s.atb := rfl
@[simp] theorem State.updDma_spn (s : State) (f : DmaState → DmaState) : (s.updDma f).spn = s.spn := rfl
@[simp] theorem State.updDma_engA (s : State) (f : DmaState → DmaState) : (s.updDma f).engA = s.engA := rfl
@[simp] theorem State.updDma_engB (s : State) (f : DmaState → DmaState) : (s.updDma f).engB = s.engB := rfl
@[simp] theorem State.updDma_engS (s : State) (f : DmaState → DmaState) : (s.updDma f).engS = s.engS := rfl
@[simp] theorem State.updDma_srv (s : State) (f : DmaState → DmaState) : (s.updDma f).srv = s.srv := rfl
@[simp] theorem State.updDma_chn (s : State) (f : DmaState → DmaState) : (s.updDma f).chn = s.chn := rfl
@[simp] theorem State.updDma_twr (s : State) (f : DmaState → DmaState) : (s.updDma f).twr = s.twr := rfl
@[simp] theorem State.updDma_lay (s : State) (f : DmaState → DmaState) : (s.updDma f).lay = s.lay := rfl
@[simp] theorem State.updDma_keys (s : State) (f : DmaState → DmaState) : (s.updDma f).keys = s.keys := rfl
@[simp] theorem State.updDma_spires (s : State) (f : DmaState → DmaState) : (s.updDma f).spires = s.spires := rfl
@[simp] theorem State.updDma_sprEnv (s : State) (f : DmaState → DmaState) : (s.updDma f).sprEnv = s.sprEnv := rfl
@[simp] theorem State.updDma_eth (s : State) (f : DmaState → DmaState) : (s.updDma f).eth = s.eth := rfl
@[simp] theorem State.updDma_aot (s : State) (f : DmaState → DmaState) : (s.updDma f).aot = s.aot := rfl
@[simp] theorem State.updDma_obj (s : State) (f : DmaState → DmaState) : (s.updDma f).obj = s.obj := rfl
@[simp] theorem State.updDma_dom (s : State) (f : DmaState → DmaState) : (s.updDma f).dom = s.dom := rfl
@[simp] theorem State.updDma_evr (s : State) (f : DmaState → DmaState) : (s.updDma f).evr = s.evr := rfl
@[simp] theorem State.updDma_ddr (s : State) (f : DmaState → DmaState) : (s.updDma f).ddr = s.ddr := rfl
@[simp] theorem State.updDma_cup (s : State) (f : DmaState → DmaState) : (s.updDma f).cup = s.cup := rfl
@[simp] theorem State.updDma_dma (s : State) (f : DmaState → DmaState) : (s.updDma f).dma = f s.dma := rfl
@[simp] theorem State.updDma_cores (s : State) (f : DmaState → DmaState) : (s.updDma f).cores = s.cores := rfl
@[simp] theorem State.updDma_fls (s : State) (f : DmaState → DmaState) : (s.updDma f).fls = s.fls := rfl
@[simp] theorem State.updDma_pwr (s : State) (f : DmaState → DmaState) : (s.updDma f).pwr = s.pwr := rfl
@[simp] theorem State.updDma_sys (s : State) (f : DmaState → DmaState) : (s.updDma f).sys = s.sys := rfl
@[simp] theorem State.updDma_resp (s : State) (f : DmaState → DmaState) : (s.updDma f).resp = s.resp := rfl
@[simp] theorem State.updDma_freeCount (s : State) (f : DmaState → DmaState) : (s.updDma f).freeCount = s.freeCount := rfl
@[simp] theorem State.updDma_pending (s : State) (f : DmaState → DmaState) : (s.updDma f).pending = s.pending := rfl
@[simp] theorem State.updDma_reg (s : State) (f : DmaState → DmaState) (r : Nat) : (s.updDma f).reg r = s.reg r := rfl
@[simp] theorem State.updDma_rd (s : State) (f : DmaState → DmaState) (g : Fld) : (s.updDma f).rd g = s.rd g := rfl
@[simp] theorem State.updDma_on (s : State) (f : DmaState → DmaState) (g : Fld) : (s.updDma f).on g = s.on g := rfl
@[simp] theorem State.updDma_st (s : State) (f : DmaState → DmaState) (b j : Nat) : (s.updDma f).st b j = s.st b j := rfl
@[simp] theorem State.updDma_isOn (s : State) (f : DmaState → DmaState) (b j : Nat) : (s.updDma f).isOn b j = s.isOn b j := rfl
@[simp] theorem State.updDma_byte (s : State) (f : DmaState → DmaState) (k : Nat) : (s.updDma f).byte k = s.byte k := rfl
@[simp] theorem State.updFls_regs (s : State) (f : FlsState → FlsState) : (s.updFls f).regs = s.regs := rfl
@[simp] theorem State.updFls_mem (s : State) (f : FlsState → FlsState) : (s.updFls f).mem = s.mem := rfl
@[simp] theorem State.updFls_fwk (s : State) (f : FlsState → FlsState) : (s.updFls f).fwk = s.fwk := rfl
@[simp] theorem State.updFls_atb (s : State) (f : FlsState → FlsState) : (s.updFls f).atb = s.atb := rfl
@[simp] theorem State.updFls_spn (s : State) (f : FlsState → FlsState) : (s.updFls f).spn = s.spn := rfl
@[simp] theorem State.updFls_engA (s : State) (f : FlsState → FlsState) : (s.updFls f).engA = s.engA := rfl
@[simp] theorem State.updFls_engB (s : State) (f : FlsState → FlsState) : (s.updFls f).engB = s.engB := rfl
@[simp] theorem State.updFls_engS (s : State) (f : FlsState → FlsState) : (s.updFls f).engS = s.engS := rfl
@[simp] theorem State.updFls_srv (s : State) (f : FlsState → FlsState) : (s.updFls f).srv = s.srv := rfl
@[simp] theorem State.updFls_chn (s : State) (f : FlsState → FlsState) : (s.updFls f).chn = s.chn := rfl
@[simp] theorem State.updFls_twr (s : State) (f : FlsState → FlsState) : (s.updFls f).twr = s.twr := rfl
@[simp] theorem State.updFls_lay (s : State) (f : FlsState → FlsState) : (s.updFls f).lay = s.lay := rfl
@[simp] theorem State.updFls_keys (s : State) (f : FlsState → FlsState) : (s.updFls f).keys = s.keys := rfl
@[simp] theorem State.updFls_spires (s : State) (f : FlsState → FlsState) : (s.updFls f).spires = s.spires := rfl
@[simp] theorem State.updFls_sprEnv (s : State) (f : FlsState → FlsState) : (s.updFls f).sprEnv = s.sprEnv := rfl
@[simp] theorem State.updFls_eth (s : State) (f : FlsState → FlsState) : (s.updFls f).eth = s.eth := rfl
@[simp] theorem State.updFls_aot (s : State) (f : FlsState → FlsState) : (s.updFls f).aot = s.aot := rfl
@[simp] theorem State.updFls_obj (s : State) (f : FlsState → FlsState) : (s.updFls f).obj = s.obj := rfl
@[simp] theorem State.updFls_dom (s : State) (f : FlsState → FlsState) : (s.updFls f).dom = s.dom := rfl
@[simp] theorem State.updFls_evr (s : State) (f : FlsState → FlsState) : (s.updFls f).evr = s.evr := rfl
@[simp] theorem State.updFls_ddr (s : State) (f : FlsState → FlsState) : (s.updFls f).ddr = s.ddr := rfl
@[simp] theorem State.updFls_cup (s : State) (f : FlsState → FlsState) : (s.updFls f).cup = s.cup := rfl
@[simp] theorem State.updFls_dma (s : State) (f : FlsState → FlsState) : (s.updFls f).dma = s.dma := rfl
@[simp] theorem State.updFls_cores (s : State) (f : FlsState → FlsState) : (s.updFls f).cores = s.cores := rfl
@[simp] theorem State.updFls_fls (s : State) (f : FlsState → FlsState) : (s.updFls f).fls = f s.fls := rfl
@[simp] theorem State.updFls_pwr (s : State) (f : FlsState → FlsState) : (s.updFls f).pwr = s.pwr := rfl
@[simp] theorem State.updFls_sys (s : State) (f : FlsState → FlsState) : (s.updFls f).sys = s.sys := rfl
@[simp] theorem State.updFls_resp (s : State) (f : FlsState → FlsState) : (s.updFls f).resp = s.resp := rfl
@[simp] theorem State.updFls_freeCount (s : State) (f : FlsState → FlsState) : (s.updFls f).freeCount = s.freeCount := rfl
@[simp] theorem State.updFls_pending (s : State) (f : FlsState → FlsState) : (s.updFls f).pending = s.pending := rfl
@[simp] theorem State.updFls_reg (s : State) (f : FlsState → FlsState) (r : Nat) : (s.updFls f).reg r = s.reg r := rfl
@[simp] theorem State.updFls_rd (s : State) (f : FlsState → FlsState) (g : Fld) : (s.updFls f).rd g = s.rd g := rfl
@[simp] theorem State.updFls_on (s : State) (f : FlsState → FlsState) (g : Fld) : (s.updFls f).on g = s.on g := rfl
@[simp] theorem State.updFls_st (s : State) (f : FlsState → FlsState) (b j : Nat) : (s.updFls f).st b j = s.st b j := rfl
@[simp] theorem State.updFls_isOn (s : State) (f : FlsState → FlsState) (b j : Nat) : (s.updFls f).isOn b j = s.isOn b j := rfl
@[simp] theorem State.updFls_byte (s : State) (f : FlsState → FlsState) (k : Nat) : (s.updFls f).byte k = s.byte k := rfl
@[simp] theorem State.updPwr_regs (s : State) (f : PwrState → PwrState) : (s.updPwr f).regs = s.regs := rfl
@[simp] theorem State.updPwr_mem (s : State) (f : PwrState → PwrState) : (s.updPwr f).mem = s.mem := rfl
@[simp] theorem State.updPwr_fwk (s : State) (f : PwrState → PwrState) : (s.updPwr f).fwk = s.fwk := rfl
@[simp] theorem State.updPwr_atb (s : State) (f : PwrState → PwrState) : (s.updPwr f).atb = s.atb := rfl
@[simp] theorem State.updPwr_spn (s : State) (f : PwrState → PwrState) : (s.updPwr f).spn = s.spn := rfl
@[simp] theorem State.updPwr_engA (s : State) (f : PwrState → PwrState) : (s.updPwr f).engA = s.engA := rfl
@[simp] theorem State.updPwr_engB (s : State) (f : PwrState → PwrState) : (s.updPwr f).engB = s.engB := rfl
@[simp] theorem State.updPwr_engS (s : State) (f : PwrState → PwrState) : (s.updPwr f).engS = s.engS := rfl
@[simp] theorem State.updPwr_srv (s : State) (f : PwrState → PwrState) : (s.updPwr f).srv = s.srv := rfl
@[simp] theorem State.updPwr_chn (s : State) (f : PwrState → PwrState) : (s.updPwr f).chn = s.chn := rfl
@[simp] theorem State.updPwr_twr (s : State) (f : PwrState → PwrState) : (s.updPwr f).twr = s.twr := rfl
@[simp] theorem State.updPwr_lay (s : State) (f : PwrState → PwrState) : (s.updPwr f).lay = s.lay := rfl
@[simp] theorem State.updPwr_keys (s : State) (f : PwrState → PwrState) : (s.updPwr f).keys = s.keys := rfl
@[simp] theorem State.updPwr_spires (s : State) (f : PwrState → PwrState) : (s.updPwr f).spires = s.spires := rfl
@[simp] theorem State.updPwr_sprEnv (s : State) (f : PwrState → PwrState) : (s.updPwr f).sprEnv = s.sprEnv := rfl
@[simp] theorem State.updPwr_eth (s : State) (f : PwrState → PwrState) : (s.updPwr f).eth = s.eth := rfl
@[simp] theorem State.updPwr_aot (s : State) (f : PwrState → PwrState) : (s.updPwr f).aot = s.aot := rfl
@[simp] theorem State.updPwr_obj (s : State) (f : PwrState → PwrState) : (s.updPwr f).obj = s.obj := rfl
@[simp] theorem State.updPwr_dom (s : State) (f : PwrState → PwrState) : (s.updPwr f).dom = s.dom := rfl
@[simp] theorem State.updPwr_evr (s : State) (f : PwrState → PwrState) : (s.updPwr f).evr = s.evr := rfl
@[simp] theorem State.updPwr_ddr (s : State) (f : PwrState → PwrState) : (s.updPwr f).ddr = s.ddr := rfl
@[simp] theorem State.updPwr_cup (s : State) (f : PwrState → PwrState) : (s.updPwr f).cup = s.cup := rfl
@[simp] theorem State.updPwr_dma (s : State) (f : PwrState → PwrState) : (s.updPwr f).dma = s.dma := rfl
@[simp] theorem State.updPwr_cores (s : State) (f : PwrState → PwrState) : (s.updPwr f).cores = s.cores := rfl
@[simp] theorem State.updPwr_fls (s : State) (f : PwrState → PwrState) : (s.updPwr f).fls = s.fls := rfl
@[simp] theorem State.updPwr_pwr (s : State) (f : PwrState → PwrState) : (s.updPwr f).pwr = f s.pwr := rfl
@[simp] theorem State.updPwr_sys (s : State) (f : PwrState → PwrState) : (s.updPwr f).sys = s.sys := rfl
@[simp] theorem State.updPwr_resp (s : State) (f : PwrState → PwrState) : (s.updPwr f).resp = s.resp := rfl
@[simp] theorem State.updPwr_freeCount (s : State) (f : PwrState → PwrState) : (s.updPwr f).freeCount = s.freeCount := rfl
@[simp] theorem State.updPwr_pending (s : State) (f : PwrState → PwrState) : (s.updPwr f).pending = s.pending := rfl
@[simp] theorem State.updPwr_reg (s : State) (f : PwrState → PwrState) (r : Nat) : (s.updPwr f).reg r = s.reg r := rfl
@[simp] theorem State.updPwr_rd (s : State) (f : PwrState → PwrState) (g : Fld) : (s.updPwr f).rd g = s.rd g := rfl
@[simp] theorem State.updPwr_on (s : State) (f : PwrState → PwrState) (g : Fld) : (s.updPwr f).on g = s.on g := rfl
@[simp] theorem State.updPwr_st (s : State) (f : PwrState → PwrState) (b j : Nat) : (s.updPwr f).st b j = s.st b j := rfl
@[simp] theorem State.updPwr_isOn (s : State) (f : PwrState → PwrState) (b j : Nat) : (s.updPwr f).isOn b j = s.isOn b j := rfl
@[simp] theorem State.updPwr_byte (s : State) (f : PwrState → PwrState) (k : Nat) : (s.updPwr f).byte k = s.byte k := rfl
@[simp] theorem State.updSys_regs (s : State) (f : SysState → SysState) : (s.updSys f).regs = s.regs := rfl
@[simp] theorem State.updSys_mem (s : State) (f : SysState → SysState) : (s.updSys f).mem = s.mem := rfl
@[simp] theorem State.updSys_fwk (s : State) (f : SysState → SysState) : (s.updSys f).fwk = s.fwk := rfl
@[simp] theorem State.updSys_atb (s : State) (f : SysState → SysState) : (s.updSys f).atb = s.atb := rfl
@[simp] theorem State.updSys_spn (s : State) (f : SysState → SysState) : (s.updSys f).spn = s.spn := rfl
@[simp] theorem State.updSys_engA (s : State) (f : SysState → SysState) : (s.updSys f).engA = s.engA := rfl
@[simp] theorem State.updSys_engB (s : State) (f : SysState → SysState) : (s.updSys f).engB = s.engB := rfl
@[simp] theorem State.updSys_engS (s : State) (f : SysState → SysState) : (s.updSys f).engS = s.engS := rfl
@[simp] theorem State.updSys_srv (s : State) (f : SysState → SysState) : (s.updSys f).srv = s.srv := rfl
@[simp] theorem State.updSys_chn (s : State) (f : SysState → SysState) : (s.updSys f).chn = s.chn := rfl
@[simp] theorem State.updSys_twr (s : State) (f : SysState → SysState) : (s.updSys f).twr = s.twr := rfl
@[simp] theorem State.updSys_lay (s : State) (f : SysState → SysState) : (s.updSys f).lay = s.lay := rfl
@[simp] theorem State.updSys_keys (s : State) (f : SysState → SysState) : (s.updSys f).keys = s.keys := rfl
@[simp] theorem State.updSys_spires (s : State) (f : SysState → SysState) : (s.updSys f).spires = s.spires := rfl
@[simp] theorem State.updSys_sprEnv (s : State) (f : SysState → SysState) : (s.updSys f).sprEnv = s.sprEnv := rfl
@[simp] theorem State.updSys_eth (s : State) (f : SysState → SysState) : (s.updSys f).eth = s.eth := rfl
@[simp] theorem State.updSys_aot (s : State) (f : SysState → SysState) : (s.updSys f).aot = s.aot := rfl
@[simp] theorem State.updSys_obj (s : State) (f : SysState → SysState) : (s.updSys f).obj = s.obj := rfl
@[simp] theorem State.updSys_dom (s : State) (f : SysState → SysState) : (s.updSys f).dom = s.dom := rfl
@[simp] theorem State.updSys_evr (s : State) (f : SysState → SysState) : (s.updSys f).evr = s.evr := rfl
@[simp] theorem State.updSys_ddr (s : State) (f : SysState → SysState) : (s.updSys f).ddr = s.ddr := rfl
@[simp] theorem State.updSys_cup (s : State) (f : SysState → SysState) : (s.updSys f).cup = s.cup := rfl
@[simp] theorem State.updSys_dma (s : State) (f : SysState → SysState) : (s.updSys f).dma = s.dma := rfl
@[simp] theorem State.updSys_cores (s : State) (f : SysState → SysState) : (s.updSys f).cores = s.cores := rfl
@[simp] theorem State.updSys_fls (s : State) (f : SysState → SysState) : (s.updSys f).fls = s.fls := rfl
@[simp] theorem State.updSys_pwr (s : State) (f : SysState → SysState) : (s.updSys f).pwr = s.pwr := rfl
@[simp] theorem State.updSys_sys (s : State) (f : SysState → SysState) : (s.updSys f).sys = f s.sys := rfl
@[simp] theorem State.updSys_resp (s : State) (f : SysState → SysState) : (s.updSys f).resp = s.resp := rfl
@[simp] theorem State.updSys_freeCount (s : State) (f : SysState → SysState) : (s.updSys f).freeCount = s.freeCount := rfl
@[simp] theorem State.updSys_pending (s : State) (f : SysState → SysState) : (s.updSys f).pending = s.pending := rfl
@[simp] theorem State.updSys_reg (s : State) (f : SysState → SysState) (r : Nat) : (s.updSys f).reg r = s.reg r := rfl
@[simp] theorem State.updSys_rd (s : State) (f : SysState → SysState) (g : Fld) : (s.updSys f).rd g = s.rd g := rfl
@[simp] theorem State.updSys_on (s : State) (f : SysState → SysState) (g : Fld) : (s.updSys f).on g = s.on g := rfl
@[simp] theorem State.updSys_st (s : State) (f : SysState → SysState) (b j : Nat) : (s.updSys f).st b j = s.st b j := rfl
@[simp] theorem State.updSys_isOn (s : State) (f : SysState → SysState) (b j : Nat) : (s.updSys f).isOn b j = s.isOn b j := rfl
@[simp] theorem State.updSys_byte (s : State) (f : SysState → SysState) (k : Nat) : (s.updSys f).byte k = s.byte k := rfl
@[simp] theorem State.drawn_regs (s : State) : (s.drawn).regs = s.regs := rfl
@[simp] theorem State.drawn_mem (s : State) : (s.drawn).mem = s.mem := rfl
@[simp] theorem State.drawn_fwk (s : State) : (s.drawn).fwk = s.fwk := rfl
@[simp] theorem State.drawn_atb (s : State) : (s.drawn).atb = s.atb := rfl
@[simp] theorem State.drawn_spn (s : State) : (s.drawn).spn = s.spn := rfl
@[simp] theorem State.drawn_engA (s : State) : (s.drawn).engA = s.engA := rfl
@[simp] theorem State.drawn_engB (s : State) : (s.drawn).engB = s.engB := rfl
@[simp] theorem State.drawn_engS (s : State) : (s.drawn).engS = s.engS := rfl
@[simp] theorem State.drawn_srv (s : State) : (s.drawn).srv = s.srv := rfl
@[simp] theorem State.drawn_chn (s : State) : (s.drawn).chn = s.chn := rfl
@[simp] theorem State.drawn_twr (s : State) : (s.drawn).twr = s.twr := rfl
@[simp] theorem State.drawn_lay (s : State) : (s.drawn).lay = s.lay := rfl
@[simp] theorem State.drawn_keys (s : State) : (s.drawn).keys = s.keys := rfl
@[simp] theorem State.drawn_spires (s : State) : (s.drawn).spires = s.spires := rfl
@[simp] theorem State.drawn_sprEnv (s : State) : (s.drawn).sprEnv = s.sprEnv := rfl
@[simp] theorem State.drawn_eth (s : State) : (s.drawn).eth = s.eth := rfl
@[simp] theorem State.drawn_aot (s : State) : (s.drawn).aot = s.aot := rfl
@[simp] theorem State.drawn_obj (s : State) : (s.drawn).obj = s.obj := rfl
@[simp] theorem State.drawn_dom (s : State) : (s.drawn).dom = s.dom := rfl
@[simp] theorem State.drawn_evr (s : State) : (s.drawn).evr = s.evr := rfl
@[simp] theorem State.drawn_ddr (s : State) : (s.drawn).ddr = s.ddr := rfl
@[simp] theorem State.drawn_cup (s : State) : (s.drawn).cup = s.cup := rfl
@[simp] theorem State.drawn_dma (s : State) : (s.drawn).dma = s.dma := rfl
@[simp] theorem State.drawn_cores (s : State) : (s.drawn).cores = s.cores := rfl
@[simp] theorem State.drawn_fls (s : State) : (s.drawn).fls = s.fls := rfl
@[simp] theorem State.drawn_pwr (s : State) : (s.drawn).pwr = s.pwr := rfl
@[simp] theorem State.drawn_sys (s : State) : (s.drawn).sys = s.sys := rfl
@[simp] theorem State.drawn_resp (s : State) : (s.drawn).resp = s.resp := rfl
@[simp] theorem State.drawn_freeCount (s : State) : (s.drawn).freeCount = s.freeCount + 1 := rfl
@[simp] theorem State.drawn_pending (s : State) : (s.drawn).pending = s.pending := rfl
@[simp] theorem State.drawn_reg (s : State) (r : Nat) : (s.drawn).reg r = s.reg r := rfl
@[simp] theorem State.drawn_rd (s : State) (g : Fld) : (s.drawn).rd g = s.rd g := rfl
@[simp] theorem State.drawn_on (s : State) (g : Fld) : (s.drawn).on g = s.on g := rfl
@[simp] theorem State.drawn_st (s : State) (b j : Nat) : (s.drawn).st b j = s.st b j := rfl
@[simp] theorem State.drawn_isOn (s : State) (b j : Nat) : (s.drawn).isOn b j = s.isOn b j := rfl
@[simp] theorem State.drawn_byte (s : State) (k : Nat) : (s.drawn).byte k = s.byte k := rfl
@[simp] theorem State.setByte_reg (s : State) (a : Nat) (v : Byte) (r : Nat) : (s.setByte a v).reg r = s.reg r := rfl
@[simp] theorem State.setByte_rd (s : State) (a : Nat) (v : Byte) (g : Fld) : (s.setByte a v).rd g = s.rd g := rfl
@[simp] theorem State.setByte_on (s : State) (a : Nat) (v : Byte) (g : Fld) : (s.setByte a v).on g = s.on g := rfl
@[simp] theorem State.setByte_st (s : State) (a : Nat) (v : Byte) (b i : Nat) : (s.setByte a v).st b i = s.st b i := rfl
@[simp] theorem State.setByte_isOn (s : State) (a : Nat) (v : Byte) (b i : Nat) : (s.setByte a v).isOn b i = s.isOn b i := rfl

end Sys2Proof.Machine
end

