-- ==== Sys2Proof/Laws/Exec.lean ====
section
/-! SUPPORT. Small laws by which the claims about single commands are proved. -/

namespace Sys2Proof.Machine

theorem Two.get_set {α : Type} (x : Two α) (t u : Tower) (v : α) : (x.set t v).get u = if t = u then v else x.get u := by
  cases t <;> cases u <;> rfl

/-! ## Trace packets touch the trace port alone -/

/-- A packet changes no register but BTP_STAT. -/
theorem State.reg_trace (s : State) (g src k : Nat) (p : List Byte) (a : Nat) (h : a ≠ BTP_STAT) :
    (s.trace g src k p).reg a = s.reg a := by
  unfold State.trace
  dsimp only
  split
  · split
    · exact State.reg_wr_other s _ _ _ (Ne.symm h)
    · exact State.reg_wr_other s _ _ _ (Ne.symm h)
  · rfl

theorem State.rd_trace (s : State) (g src k : Nat) (p : List Byte) (f : Fld) (h : f.addr ≠ BTP_STAT) :
    (s.trace g src k p).rd f = s.rd f := by
  unfold State.rd
  rw [State.reg_trace s g src k p f.addr h]

/-- A packet leaves memory as it was. -/
@[simp] theorem State.trace_mem (s : State) (g src k : Nat) (p : List Byte) : (s.trace g src k p).mem = s.mem := by
  unfold State.trace
  dsimp only
  split
  · split
    · rfl
    · exact State.bump_mem s _ _
  · rfl

/-! ## A hardware post touches the event recorder alone -/

/-- The register of a drop count is one of EVR_DROP_n. -/
theorem evrDropFld_addr (sev : Nat) : (evrDropFld sev).addr = EVR_DROP (sev / 2) := by
  unfold evrDropFld
  split <;> rfl

/-- A post changes only INT_STAT of the event recorder and the drop count of its severity. -/
theorem State.reg_hwPost (s : State) (code sev src : Nat) (p : List Byte) (a : Nat) (h1 : a ≠ pageBase bEVR 0 0 + 0x10)
    (h2 : a ≠ EVR_DROP (sev / 2)) : (s.hwPost code sev src p).reg a = s.reg a := by
  unfold State.hwPost
  split
  · rfl
  · rw [State.irq, State.reg_wr_other _ _ _ _ (Ne.symm h1), State.bump, State.reg_wr_other]
    rw [evrDropFld_addr]
    exact Ne.symm h2

theorem State.rd_hwPost (s : State) (code sev src : Nat) (p : List Byte) (f : Fld) (h1 : f.addr ≠ pageBase bEVR 0 0 + 0x10)
    (h2 : f.addr ≠ EVR_DROP (sev / 2)) : (s.hwPost code sev src p).rd f = s.rd f := by
  unfold State.rd
  rw [State.reg_hwPost s code sev src p f.addr h1 h2]

@[simp] theorem State.hwPost_mem (s : State) (code sev src : Nat) (p : List Byte) : (s.hwPost code sev src p).mem = s.mem := by
  unfold State.hwPost
  split
  · rfl
  · rw [State.irq_mem, State.bump_mem]

end Sys2Proof.Machine
end

