-- ==== Sys2Proof/Laws/Keep.lean ====
section
/-! SUPPORT. What every operation keeps: the canonical register file and memory, and the queue. The rules by which a proof goes through
conditionals, folds and updates of other fields. -/

namespace Sys2Proof.Machine

/-- The register file and memory are canonical, the queue is `q` and there are 32 spires. -/
def Kept (q : List Instr) (s : State) : Prop :=
  regsWf s.regs = true ∧ memWf s.mem = true ∧ s.pending = q ∧ s.spires.length = 32

/-- A next state of a meaning is kept. -/
def Out.Kept (q : List Instr) (o : Out) : Prop :=
  match o with
  | .next t => Sys2Proof.Machine.Kept q t
  | _ => True

variable {q : List Instr}

theorem kept_next {t : State} (h : Kept q t) : Out.Kept q (.next t) := h

/-- The same of the four parts. -/
def KeptP (q : List Instr) (r : List (Nat × Word)) (m : List Host.Cell) (p : List Instr) (l : List SpireState) : Prop :=
  regsWf r = true ∧ memWf m = true ∧ p = q ∧ l.length = 32

theorem kept_mk {t : State} (h : KeptP q t.regs t.mem t.pending t.spires) : Kept q t := h
theorem kept_un {s : State} (h : Kept q s) : KeptP q s.regs s.mem s.pending s.spires := h

theorem kept_len {s : State} {l : List SpireState} (h : Kept q s) (e : l.length = s.spires.length) : Kept q { s with spires := l } :=
  ⟨h.1, h.2.1, h.2.2.1, e.trans h.2.2.2⟩

theorem kept_ite {c : Prop} [Decidable c] {s t : State} (h1 : Kept q s) (h2 : Kept q t) : Kept q (if c then s else t) := by
  split
  · exact h1
  · exact h2

theorem kept_ite1 {c : Prop} [Decidable c] {α : Type} {s t : State × α} (h1 : Kept q s.1) (h2 : Kept q t.1) :
    Kept q (if c then s else t).1 := by
  split
  · exact h1
  · exact h2

theorem kept_ite3 {c : Prop} [Decidable c] {o p : Out} (h1 : Out.Kept q o) (h2 : Out.Kept q p) : Out.Kept q (if c then o else p) := by
  split
  · exact h1
  · exact h2

theorem kept_foldl {α : Type} {f : State → α → State} {l : List α} {s : State} (hs : Kept q s)
    (h : ∀ s x, Kept q s → Kept q (f s x)) : Kept q (l.foldl f s) := by
  induction l generalizing s with
  | nil => exact hs
  | cons x r ih => exact ih (h s x hs)

theorem kept_foldl1 {α β : Type} {f : State × β → α → State × β} {l : List α} {p : State × β} (hs : Kept q p.1)
    (h : ∀ p x, Kept q p.1 → Kept q (f p x).1) : Kept q (l.foldl f p).1 := by
  induction l generalizing p with
  | nil => exact hs
  | cons x r ih => exact ih (h p x hs)

theorem kept_foldl2 {α β γ : Type} {f : (State × β) × γ → α → (State × β) × γ} {l : List α} {p : (State × β) × γ} (hs : Kept q p.1.1)
    (h : ∀ p x, Kept q p.1.1 → Kept q (f p x).1.1) : Kept q (l.foldl f p).1.1 := by
  induction l generalizing p with
  | nil => exact hs
  | cons x r ih => exact ih (h p x hs)

/-- A state that may be none is kept when it is one. -/
def OptKept (q : List Instr) (o : Option State) : Prop := ∀ r, o = some r → Kept q r
def OptKept1 {α : Type} (q : List Instr) (o : Option (State × α)) : Prop := ∀ r, o = some r → Kept q r.1

theorem kept_pair {α : Type} {p : State × α} {s : State} {x : α} (e : p = (s, x)) (h : Kept q p.1) : Kept q s := by
  subst e
  exact h

theorem kept_id {s : State} (h : Kept q s) : Kept q (id s) := h

theorem kept_opt {o : Option State} {s : State} (e : o = some s) (h : OptKept q o) : Kept q s := h s e

theorem kept_opt1 {α : Type} {o : Option (State × α)} {s : State} {x : α} (e : o = some (s, x)) (h : OptKept1 q o) : Kept q s := h (s, x) e

theorem optKept_none : OptKept q none := fun _ h => by cases h
theorem optKept_some {s : State} (h : Kept q s) : OptKept q (some s) := fun _ e => by cases e; exact h
theorem optKept_ite {c : Prop} [Decidable c] {o p : Option State} (h1 : OptKept q o) (h2 : OptKept q p) :
    OptKept q (if c then o else p) := by
  split
  · exact h1
  · exact h2

theorem kept_setReg {s : State} (h : Kept q s) (a : Nat) (v : Word) : Kept q (s.setReg a v) :=
  ⟨regsWf_setReg s a v h.1, h.2.1, h.2.2⟩

theorem kept_setByte {s : State} (h : Kept q s) (a : Nat) (v : Byte) : Kept q (s.setByte a v) :=
  ⟨h.1, memWf_setByte s a v h.2.1, h.2.2⟩

end Sys2Proof.Machine
end

