-- ==== Sys2Proof/Laws/KeepOps.lean ====
section
/-! SUPPORT. Each operation of Machine/Ops.lean leaves the register file and memory canonical and the queue as it is. -/

set_option linter.unusedTactic false
set_option linter.unreachableTactic false
set_option maxRecDepth 8000

namespace Sys2Proof.Machine

theorem State.activity_keeps {qq : List Instr} (s : State) (h_s : Kept qq s) :
    Kept qq (State.activity s) := by
  unfold State.activity
  dsimp -failIfUnchanged only
  repeat' with_reducible first | assumption | dsimp only | (apply kept_mk; dsimp only; apply kept_un)

theorem State.setReg_keeps {q : List Instr} (s : State) (a : Nat) (v : Word) (h_s : Kept q s) : Kept q (State.setReg s a v) :=
  kept_setReg h_s a v

theorem State.wr_keeps {qq : List Instr} (s : State) (f : Fld) (x : Nat) (h_s : Kept qq s) :
    Kept qq (State.wr s f x) := by
  unfold State.wr
  dsimp -failIfUnchanged only
  repeat' with_reducible first | assumption | apply State.setReg_keeps | dsimp only

theorem State.setSt_keeps {qq : List Instr} (s : State) (b : Nat) (i : Nat) (v : Nat) (h_s : Kept qq s) :
    Kept qq (State.setSt s b i v) := by
  unfold State.setSt
  dsimp -failIfUnchanged only
  repeat' with_reducible first | assumption | apply State.wr_keeps | dsimp only

theorem State.wb_keeps {qq : List Instr} (s : State) (f : Fld) (b : Bool) (h_s : Kept qq s) :
    Kept qq (State.wb s f b) := by
  unfold State.wb
  dsimp -failIfUnchanged only
  repeat' with_reducible first | assumption | apply State.wr_keeps | dsimp only

theorem State.setEn_keeps {qq : List Instr} (s : State) (b : Nat) (i : Nat) (v : Bool) (h_s : Kept qq s) :
    Kept qq (State.setEn s b i v) := by
  unfold State.setEn
  dsimp -failIfUnchanged only
  repeat' with_reducible first | assumption | apply State.wb_keeps | dsimp only

theorem State.beginStop_keeps {qq : List Instr} (s : State) (b : Nat) (i : Nat) (h_s : Kept qq s) :
    Kept qq (State.beginStop s b i) := by
  unfold State.beginStop
  dsimp -failIfUnchanged only
  repeat' with_reducible first | assumption | apply State.setEn_keeps | apply State.setSt_keeps | dsimp only

theorem State.dropBlock_keeps {q : List Instr} (s : State) (b i : Nat) (h_s : Kept q s) : Kept q (State.dropBlock s b i) :=
  ⟨regsWf_filter _ _ h_s.1, h_s.2.1, h_s.2.2⟩

theorem State.repairShow_keeps {qq : List Instr} (s : State) (h_s : Kept qq s) :
    Kept qq (State.repairShow s) := by
  unfold State.repairShow
  dsimp -failIfUnchanged only
  repeat' with_reducible first | assumption | apply State.wb_keeps | apply State.wr_keeps | apply kept_ite | dsimp only | split

theorem State.blockReset_keeps {qq : List Instr} (s : State) (e : Nat × Nat) (h_s : Kept qq s) :
    Kept qq (State.blockReset s e) := by
  unfold State.blockReset
  dsimp -failIfUnchanged only
  repeat' with_reducible first | assumption | (intro _) | apply State.repairShow_keeps | apply State.dropBlock_keeps | apply kept_ite | apply kept_ite1 | dsimp only | (apply kept_mk; dsimp only; apply kept_un) | split

theorem State.bump_keeps {qq : List Instr} (s : State) (f : Fld) (k : Nat) (h_s : Kept qq s) :
    Kept qq (State.bump s f k) := by
  unfold State.bump
  dsimp -failIfUnchanged only
  repeat' with_reducible first | assumption | apply State.wr_keeps | dsimp only

theorem State.setRpend_keeps {qq : List Instr} (s : State) (b : Nat) (i : Nat) (v : Bool) (h_s : Kept qq s) :
    Kept qq (State.setRpend s b i v) := by
  unfold State.setRpend
  dsimp -failIfUnchanged only
  repeat' with_reducible first | assumption | apply State.wb_keeps | dsimp only

theorem State.updFwk_keeps {qq : List Instr} (s : State) (f : FwkState → FwkState) (h_s : Kept qq s) :
    Kept qq (State.updFwk s f) := by
  unfold State.updFwk
  dsimp -failIfUnchanged only
  repeat' with_reducible first | assumption | (intro _) | dsimp only | (apply kept_mk; dsimp only; apply kept_un)

theorem State.disable_keeps {qq : List Instr} (s : State) (b : Nat) (i : Nat) (stop : State → State) (h_s : Kept qq s) (h_stop : ∀ (x0 : State), Kept qq x0 → Kept qq (stop x0)) :
    Kept qq (State.disable s b i stop) := by
  unfold State.disable
  dsimp -failIfUnchanged only
  repeat' with_reducible first | assumption | (intro _) | apply State.updFwk_keeps | apply State.setRpend_keeps | apply State.beginStop_keeps | apply State.setEn_keeps | apply State.setSt_keeps | apply h_stop | apply kept_ite | dsimp only | (apply kept_mk; dsimp only; apply kept_un) | split

theorem State.drawn_keeps {qq : List Instr} (s : State) (h_s : Kept qq s) :
    Kept qq (State.drawn s) := by
  unfold State.drawn
  dsimp -failIfUnchanged only
  repeat' with_reducible first | assumption | dsimp only | (apply kept_mk; dsimp only; apply kept_un)

theorem State.faultStop_keeps {qq : List Instr} (s : State) (b : Nat) (i : Nat) (shut : State → State) (h_s : Kept qq s) (h_shut : ∀ (x0 : State), Kept qq x0 → Kept qq (shut x0)) :
    Kept qq (State.faultStop s b i shut) := by
  unfold State.faultStop
  dsimp -failIfUnchanged only
  repeat' with_reducible first | assumption | (intro _) | apply State.updFwk_keeps | apply State.setRpend_keeps | apply State.setEn_keeps | apply State.setSt_keeps | apply h_shut | apply kept_ite | dsimp only | (apply kept_mk; dsimp only; apply kept_un) | split

theorem State.gated_keeps {qq : List Instr} (s : State) (a : Nat) (f : State → State) (h_s : Kept qq s) (h_f : ∀ (x0 : State), Kept qq x0 → Kept qq (f x0)) :
    Kept qq (State.gated s a f) := by
  unfold State.gated
  dsimp -failIfUnchanged only
  repeat' with_reducible first | assumption | (intro _) | apply State.wr_keeps | apply h_f | apply kept_ite | dsimp only | split

theorem State.irq_keeps {qq : List Instr} (s : State) (b : Nat) (i : Nat) (p : Nat) (bit : Nat) (h_s : Kept qq s) :
    Kept qq (State.irq s b i p bit) := by
  unfold State.irq
  dsimp -failIfUnchanged only
  repeat' with_reducible first | assumption | apply State.wr_keeps | dsimp only

theorem State.hwPost_keeps {qq : List Instr} (s : State) (code : Nat) (sev : Nat) (source : Nat) (payload : List Byte) (h_s : Kept qq s) :
    Kept qq (State.hwPost s code sev source payload) := by
  unfold State.hwPost
  dsimp -failIfUnchanged only
  repeat' with_reducible first | assumption | (intro _) | apply State.irq_keeps | apply State.bump_keeps | apply kept_ite | dsimp only | (apply kept_mk; dsimp only; apply kept_un) | split

theorem State.levelShow_keeps {qq : List Instr} (s : State) (h_s : Kept qq s) :
    Kept qq (State.levelShow s) := by
  unfold State.levelShow
  dsimp -failIfUnchanged only
  repeat' with_reducible first | assumption | (intro _) | apply State.wb_keeps | apply State.wr_keeps | apply kept_ite | dsimp only | (apply kept_mk; dsimp only; apply kept_un) | split

theorem State.setByte_keeps {q : List Instr} (s : State) (a : Nat) (v : Byte) (h_s : Kept q s) : Kept q (State.setByte s a v) :=
  kept_setByte h_s a v

theorem State.setBytes_keeps {q : List Instr} (s : State) (a : Nat) (l : List Byte) (h_s : Kept q s) : Kept q (State.setBytes s a l) := by
  induction l generalizing s a with
  | nil => exact h_s
  | cons v r ih => exact ih _ _ (State.setByte_keeps s a v h_s)

theorem State.setWord_keeps {qq : List Instr} (s : State) (a : Nat) (v : Word) (h_s : Kept qq s) :
    Kept qq (State.setWord s a v) := by
  unfold State.setWord
  dsimp -failIfUnchanged only
  repeat' with_reducible first | assumption | apply State.setBytes_keeps | dsimp only

theorem State.spiresReset_keeps {qq : List Instr} (s : State) (cls : Nat) (h_s : Kept qq s) :
    Kept qq (State.spiresReset s cls) := by
  unfold State.spiresReset
  dsimp -failIfUnchanged only
  repeat' with_reducible first | assumption | (apply kept_id; assumption) | (intro _) | apply kept_next | apply kept_ite | apply kept_ite1 | apply kept_ite3 | (refine kept_foldl ?_ (fun _ _ _ => ?_)) | (refine kept_foldl1 ?_ (fun _ _ _ => ?_)) | (refine kept_foldl2 ?_ (fun _ _ _ => ?_)) | (intro _) | dsimp only | (refine kept_pair (by assumption) ?_) | (refine kept_opt (by assumption) ?_) | (refine kept_opt1 (by assumption) ?_) | apply optKept_some | apply optKept_none | apply optKept_ite | (apply kept_mk; dsimp only; apply kept_un) | split | (refine kept_len ?_ (by simp only [List.length_map, List.length_zipIdx]))

theorem State.softUnit_keeps {qq : List Instr} (s : State) (b : Nat) (i : Nat) (h_s : Kept qq s) :
    Kept qq (State.softUnit s b i) := by
  unfold State.softUnit
  dsimp -failIfUnchanged only
  repeat' with_reducible first | assumption | (intro _) | apply State.spiresReset_keeps | apply kept_ite | dsimp only | (apply kept_mk; dsimp only; apply kept_un) | split

theorem State.softApply_keeps {qq : List Instr} (s : State) (b : Nat) (i : Nat) (h_s : Kept qq s) :
    Kept qq (State.softApply s b i) := by
  unfold State.softApply
  dsimp -failIfUnchanged only
  repeat' with_reducible first | assumption | apply State.softUnit_keeps | apply State.levelShow_keeps | apply State.blockReset_keeps | dsimp only

theorem State.shutEnd_keeps {qq : List Instr} (s : State) (b : Nat) (i : Nat) (h_s : Kept qq s) :
    Kept qq (State.shutEnd s b i) := by
  unfold State.shutEnd
  dsimp -failIfUnchanged only
  repeat' with_reducible first | assumption | (intro _) | apply State.irq_keeps | apply State.updFwk_keeps | apply State.setRpend_keeps | apply State.setSt_keeps | apply kept_ite | dsimp only | (apply kept_mk; dsimp only; apply kept_un) | split

theorem State.shutDone_keeps {qq : List Instr} (s : State) (b : Nat) (i : Nat) (h_s : Kept qq s) :
    Kept qq (State.shutDone s b i) := by
  unfold State.shutDone
  dsimp -failIfUnchanged only
  repeat' with_reducible first | assumption | apply State.shutEnd_keeps | apply State.softApply_keeps | apply kept_ite | dsimp only | split

theorem State.storeRow_keeps {qq : List Instr} (s : State) (a : Nat) (v : Word) (h_s : Kept qq s) :
    Kept qq (State.storeRow s a v) := by
  unfold State.storeRow
  dsimp -failIfUnchanged only
  repeat' with_reducible first | assumption | (intro _) | apply State.wr_keeps | apply kept_ite | (refine kept_foldl ?_ (fun _ _ _ => ?_)) | (refine kept_foldl1 ?_ (fun _ _ _ => ?_)) | (refine kept_foldl2 ?_ (fun _ _ _ => ?_)) | dsimp only | split

theorem State.trace_keeps {qq : List Instr} (s : State) (group : Nat) (source : Nat) (kind : Nat) (payload : List Byte) (h_s : Kept qq s) :
    Kept qq (State.trace s group source kind payload) := by
  unfold State.trace
  dsimp -failIfUnchanged only
  repeat' with_reducible first | assumption | (intro _) | apply State.bump_keeps | apply State.wr_keeps | apply kept_ite | dsimp only | (apply kept_mk; dsimp only; apply kept_un) | split

theorem State.updAtb_keeps {qq : List Instr} (s : State) (f : AtbState → AtbState) (h_s : Kept qq s) :
    Kept qq (State.updAtb s f) := by
  unfold State.updAtb
  dsimp -failIfUnchanged only
  repeat' with_reducible first | assumption | (intro _) | dsimp only | (refine kept_pair (by assumption) ?_) | (refine kept_opt (by assumption) ?_) | (refine kept_opt1 (by assumption) ?_) | (apply kept_mk; dsimp only; apply kept_un) | split

theorem State.updAtbT_keeps {qq : List Instr} (s : State) (t : Tower) (f : AtbTower → AtbTower) (h_s : Kept qq s) :
    Kept qq (State.updAtbT s t f) := by
  unfold State.updAtbT
  dsimp -failIfUnchanged only
  repeat' with_reducible first | assumption | (intro _) | dsimp only | (refine kept_pair (by assumption) ?_) | (refine kept_opt (by assumption) ?_) | (refine kept_opt1 (by assumption) ?_) | (apply kept_mk; dsimp only; apply kept_un) | split

theorem State.updChn_keeps {qq : List Instr} (s : State) (t : Tower) (f : ChnState → ChnState) (h_s : Kept qq s) :
    Kept qq (State.updChn s t f) := by
  unfold State.updChn
  dsimp -failIfUnchanged only
  repeat' with_reducible first | assumption | (intro _) | dsimp only | (apply kept_mk; dsimp only; apply kept_un)

theorem State.updTwr_keeps {qq : List Instr} (s : State) (t : Tower) (f : TwrState → TwrState) (h_s : Kept qq s) :
    Kept qq (State.updTwr s t f) := by
  unfold State.updTwr
  dsimp -failIfUnchanged only
  repeat' with_reducible first | assumption | (intro _) | dsimp only | (apply kept_mk; dsimp only; apply kept_un)

theorem State.updCpl_keeps {qq : List Instr} (s : State) (t : Tower) (f : CplState → CplState) (h_s : Kept qq s) :
    Kept qq (State.updCpl s t f) := by
  unfold State.updCpl
  dsimp -failIfUnchanged only
  repeat' with_reducible first | assumption | (intro _) | apply State.updTwr_keeps | dsimp only | (apply kept_mk; dsimp only; apply kept_un)

theorem State.updEng_keeps {qq : List Instr} (s : State) (e : Eng) (f : EngState → EngState) (h_s : Kept qq s) :
    Kept qq (State.updEng s e f) := by
  unfold State.updEng
  dsimp -failIfUnchanged only
  repeat' with_reducible first | assumption | (intro _) | dsimp only | (refine kept_pair (by assumption) ?_) | (refine kept_opt (by assumption) ?_) | (refine kept_opt1 (by assumption) ?_) | (apply kept_mk; dsimp only; apply kept_un) | split

theorem State.updLan_keeps {qq : List Instr} (s : State) (t : Tower) (f : LanState → LanState) (h_s : Kept qq s) :
    Kept qq (State.updLan s t f) := by
  unfold State.updLan
  dsimp -failIfUnchanged only
  repeat' with_reducible first | assumption | (intro _) | apply State.updTwr_keeps | dsimp only | (apply kept_mk; dsimp only; apply kept_un)

theorem State.updSpire_keeps {qq : List Instr} (s : State) (sp : Spire) (f : SpireState → SpireState) (h_s : Kept qq s) :
    Kept qq (State.updSpire s sp f) := by
  unfold State.updSpire
  dsimp -failIfUnchanged only
  repeat' with_reducible first | assumption | (apply kept_id; assumption) | (intro _) | apply kept_next | apply kept_ite | apply kept_ite1 | apply kept_ite3 | (refine kept_foldl ?_ (fun _ _ _ => ?_)) | (refine kept_foldl1 ?_ (fun _ _ _ => ?_)) | (refine kept_foldl2 ?_ (fun _ _ _ => ?_)) | (intro _) | dsimp only | (refine kept_pair (by assumption) ?_) | (refine kept_opt (by assumption) ?_) | (refine kept_opt1 (by assumption) ?_) | apply optKept_some | apply optKept_none | apply optKept_ite | (apply kept_mk; dsimp only; apply kept_un) | split | (refine kept_len ?_ (by simp only [List.length_set]))

theorem State.updSpn_keeps {qq : List Instr} (s : State) (f : SpnState → SpnState) (h_s : Kept qq s) :
    Kept qq (State.updSpn s f) := by
  unfold State.updSpn
  dsimp -failIfUnchanged only
  repeat' with_reducible first | assumption | (intro _) | dsimp only | (refine kept_pair (by assumption) ?_) | (refine kept_opt (by assumption) ?_) | (refine kept_opt1 (by assumption) ?_) | (apply kept_mk; dsimp only; apply kept_un) | split

theorem State.updSrv_keeps {qq : List Instr} (s : State) (t : Tower) (f : SrvState → SrvState) (h_s : Kept qq s) :
    Kept qq (State.updSrv s t f) := by
  unfold State.updSrv
  dsimp -failIfUnchanged only
  repeat' with_reducible first | assumption | (intro _) | dsimp only | (apply kept_mk; dsimp only; apply kept_un)

theorem State.wrI_keeps {qq : List Instr} (s : State) (f : Fld) (x : Int) (h_s : Kept qq s) :
    Kept qq (State.wrI s f x) := by
  unfold State.wrI
  dsimp -failIfUnchanged only
  repeat' with_reducible first | assumption | apply State.wr_keeps | dsimp only

end Sys2Proof.Machine
end

