-- ==== Sys2Proof/Laws/KeepCrypt.lean ====
section
/-! SUPPORT. Each operation of Machine/Crypt.lean leaves the register file and memory canonical and the queue as it is. -/

set_option linter.unusedTactic false
set_option linter.unreachableTactic false
set_option maxRecDepth 8000

namespace Sys2Proof.Machine

theorem State.rand_keeps {qq : List Instr} (s : State) (n : Nat) (h_s : Kept qq s) :
    Kept qq (State.rand s n).2 := by
  unfold State.rand
  dsimp -failIfUnchanged only
  repeat' with_reducible first | assumption | (intro _) | apply State.drawn_keeps | apply State.bump_keeps | apply kept_ite | apply kept_ite1 | dsimp only | (apply kept_mk; dsimp only; apply kept_un) | split

end Sys2Proof.Machine
end

