-- ==== Sys2Proof/Laws/KeepMedia.lean ====
section
/-! SUPPORT. Each operation of Machine/Media.lean leaves the register file and memory canonical and the queue as it is. -/

set_option linter.unusedTactic false
set_option linter.unreachableTactic false
set_option maxRecDepth 8000

namespace Sys2Proof.Machine

theorem State.afeClose_keeps {qq : List Instr} (s : State) (t : Tower) (b : Bool) (h_s : Kept qq s) :
    Kept qq (State.afeClose s t b) := by
  unfold State.afeClose
  dsimp -failIfUnchanged only
  repeat' with_reducible first | assumption | (intro _) | apply State.updChn_keeps | apply State.wr_keeps | apply kept_ite | dsimp only | (apply kept_mk; dsimp only; apply kept_un) | split

theorem State.afeSet_keeps {qq : List Instr} (s : State) (t : Tower) (b : Bool) (g : Nat × Nat) (h_s : Kept qq s) :
    Kept qq (State.afeSet s t b g) := by
  unfold State.afeSet
  dsimp -failIfUnchanged only
  repeat' with_reducible first | assumption | apply State.wr_keeps | dsimp only

theorem State.afeOpen_keeps {qq : List Instr} (s : State) (t : Tower) (b : Bool) (new : Bool) (h_s : Kept qq s) :
    Kept qq (State.afeOpen s t b new) := by
  unfold State.afeOpen
  dsimp -failIfUnchanged only
  repeat' with_reducible first | assumption | (intro _) | apply State.afeSet_keeps | apply kept_ite | dsimp only | split

theorem State.atbEvt_keeps {qq : List Instr} (s : State) (kind : Nat) (from_ : Nat) (to_ : Nat) (e : Int) (h_s : Kept qq s) :
    Kept qq (State.atbEvt s kind from_ to_ e) := by
  unfold State.atbEvt
  dsimp -failIfUnchanged only
  repeat' with_reducible first | assumption | apply State.wrI_keeps | apply State.wr_keeps | dsimp only

theorem State.capBits_keeps {qq : List Instr} (s : State) (t : Tower) (h_s : Kept qq s) :
    Kept qq (State.capBits s t) := by
  unfold State.capBits
  dsimp -failIfUnchanged only
  repeat' with_reducible first | assumption | (intro _) | apply State.wb_keeps | dsimp only

theorem State.setWords_keeps {q : List Instr} (s : State) (a : Nat) (l : List Word) (h_s : Kept q s) : Kept q (State.setWords s a l) := by
  induction l generalizing s a with
  | nil => exact h_s
  | cons v r ih => exact ih _ _ (by unfold State.setWord; exact State.setBytes_keeps _ _ _ h_s)

theorem State.chnRecord_keeps {qq : List Instr} (s : State) (t : Tower) (c : CapPlan) (r : RecInfo) (h_s : Kept qq s) :
    Kept qq (State.chnRecord s t c r) := by
  unfold State.chnRecord
  dsimp -failIfUnchanged only
  repeat' with_reducible first | assumption | (intro _) | apply State.setWords_keeps | apply State.irq_keeps | apply State.bump_keeps | apply State.wr_keeps | apply kept_ite | dsimp only | split

theorem State.chnCounts_keeps {qq : List Instr} (s : State) (t : Tower) (r : RecInfo) (h_s : Kept qq s) :
    Kept qq (State.chnCounts s t r) := by
  unfold State.chnCounts
  dsimp -failIfUnchanged only
  repeat' with_reducible first | assumption | (intro _) | apply State.bump_keeps | apply kept_ite | dsimp only | split

theorem State.sectorSeen_keeps {qq : List Instr} (s : State) (t : Tower) (c : CapPlan) (r : RecInfo) (live : Bool) (mode : Nat) (h_s : Kept qq s) :
    Kept qq (State.sectorSeen s t c r live mode) := by
  unfold State.sectorSeen
  dsimp -failIfUnchanged only
  repeat' with_reducible first | assumption | (intro _) | apply kept_ite | dsimp only | (apply kept_mk; dsimp only; apply kept_un) | split

theorem State.headWarn_keeps {qq : List Instr} (s : State) (t : Tower) (f : Fld) (h : Nat) (bit : Nat) (h_s : Kept qq s) :
    Kept qq (State.headWarn s t f h bit) := by
  unfold State.headWarn
  dsimp -failIfUnchanged only
  repeat' with_reducible first | assumption | apply State.hwPost_keeps | apply State.irq_keeps | apply State.wr_keeps | apply kept_ite | dsimp only | split

theorem State.lanAssist_keeps {qq : List Instr} (s : State) (t : Tower) (h_s : Kept qq s) :
    Kept qq (State.lanAssist s t) := by
  unfold State.lanAssist
  dsimp -failIfUnchanged only
  repeat' with_reducible first | assumption | (intro _) | apply State.updLan_keeps | apply State.updCpl_keeps | apply kept_ite | dsimp only | (apply kept_mk; dsimp only; apply kept_un) | split

theorem State.lanLearn_keeps {qq : List Instr} (s : State) (t : Tower) (head : Nat) (zone : Nat) (failed : Bool) (eber : Nat) (locals : Nat) (h_s : Kept qq s) :
    Kept qq (State.lanLearn s t head zone failed eber locals) := by
  unfold State.lanLearn
  dsimp -failIfUnchanged only
  repeat' with_reducible first | assumption | (intro _) | apply State.lanAssist_keeps | apply State.headWarn_keeps | apply State.updLan_keeps | apply State.wr_keeps | apply kept_ite | dsimp only | (apply kept_mk; dsimp only; apply kept_un) | split

theorem State.note_keeps {qq : List Instr} (s : State) (t : Tower) (owner : Nat) (w : Word) (h_s : Kept qq s) :
    Kept qq (State.note s t owner w) := by
  unfold State.note
  dsimp -failIfUnchanged only
  repeat' with_reducible first | assumption | (intro _) | apply State.updSpire_keeps | dsimp only | (apply kept_mk; dsimp only; apply kept_un)

theorem State.liveOutcome_keeps {qq : List Instr} (s : State) (t : Tower) (c : CapPlan) (r : RecInfo) (h_s : Kept qq s) :
    Kept qq (State.liveOutcome s t c r) := by
  unfold State.liveOutcome
  dsimp -failIfUnchanged only
  repeat' with_reducible first | assumption | (intro _) | apply State.note_keeps | apply State.lanLearn_keeps | apply State.sectorSeen_keeps | apply State.chnCounts_keeps | apply State.chnRecord_keeps | apply State.irq_keeps | apply State.bump_keeps | apply kept_ite | dsimp only | split

theorem State.capCut_keeps {qq : List Instr} (s : State) (t : Tower) (e : CapPlan × Nat) (h_s : Kept qq s) :
    Kept qq (State.capCut s t e) := by
  unfold State.capCut
  dsimp -failIfUnchanged only
  repeat' with_reducible first | assumption | (intro _) | apply State.liveOutcome_keeps | apply State.capBits_keeps | apply State.updChn_keeps | apply kept_ite | apply kept_ite1 | dsimp only | (apply kept_mk; dsimp only; apply kept_un) | split

theorem State.capCutAll_keeps {qq : List Instr} (s : State) (t : Tower) (h_s : Kept qq s) :
    Kept qq (State.capCutAll s t) := by
  unfold State.capCutAll
  dsimp -failIfUnchanged only
  repeat' with_reducible first | assumption | (intro _) | apply State.capCut_keeps | (refine kept_foldl ?_ (fun _ _ _ => ?_)) | (refine kept_foldl1 ?_ (fun _ _ _ => ?_)) | (refine kept_foldl2 ?_ (fun _ _ _ => ?_)) | dsimp only

theorem State.capSettle_keeps {qq : List Instr} (s : State) (t : Tower) (h_s : Kept qq s) :
    Kept qq (State.capSettle s t) := by
  unfold State.capSettle
  dsimp -failIfUnchanged only
  repeat' with_reducible first | assumption | (intro _) | apply State.capBits_keeps | apply State.updChn_keeps | apply kept_ite | apply kept_ite1 | (refine kept_foldl ?_ (fun _ _ _ => ?_)) | (refine kept_foldl1 ?_ (fun _ _ _ => ?_)) | (refine kept_foldl2 ?_ (fun _ _ _ => ?_)) | dsimp only | (apply kept_mk; dsimp only; apply kept_un) | split

theorem State.capStart_keeps {qq : List Instr} (s : State) (t : Tower) (p : CapPlan) (h_s : Kept qq s) :
    Kept qq (State.capStart s t p) := by
  unfold State.capStart
  dsimp -failIfUnchanged only
  repeat' with_reducible first | assumption | (intro _) | apply State.liveOutcome_keeps | apply State.capBits_keeps | apply State.updChn_keeps | apply State.bump_keeps | apply State.wr_keeps | apply kept_ite | apply kept_ite1 | dsimp only | (refine kept_pair (by assumption) ?_) | (refine kept_opt (by assumption) ?_) | (refine kept_opt1 (by assumption) ?_) | (apply kept_mk; dsimp only; apply kept_un) | split

theorem State.setAG_keeps {qq : List Instr} (s : State) (t : Tower) (v : Bool) (h_s : Kept qq s) :
    Kept qq (State.setAG s t v) := by
  unfold State.setAG
  dsimp -failIfUnchanged only
  repeat' with_reducible first | assumption | apply State.wb_keeps | dsimp only

theorem State.dropAG_keeps {qq : List Instr} (s : State) (t : Tower) (h_s : Kept qq s) :
    Kept qq (State.dropAG s t) := by
  unfold State.dropAG
  dsimp -failIfUnchanged only
  repeat' with_reducible first | assumption | apply State.setAG_keeps | apply State.lanAssist_keeps | apply kept_ite | dsimp only | split

theorem State.sectorEnd_keeps {qq : List Instr} (s : State) (t : Tower) (wout : Nat) (h_s : Kept qq s) :
    Kept qq (State.sectorEnd s t wout) := by
  unfold State.sectorEnd
  dsimp -failIfUnchanged only
  repeat' with_reducible first | assumption | (intro _) | apply State.note_keeps | apply State.updTwr_keeps | apply State.irq_keeps | apply State.bump_keeps | apply State.wr_keeps | apply kept_ite | dsimp only | (refine kept_pair (by assumption) ?_) | (refine kept_opt (by assumption) ?_) | (refine kept_opt1 (by assumption) ?_) | (apply kept_mk; dsimp only; apply kept_un) | split

theorem State.cutSector_keeps {qq : List Instr} (s : State) (t : Tower) (h_s : Kept qq s) :
    Kept qq (State.cutSector s t) := by
  unfold State.cutSector
  dsimp -failIfUnchanged only
  repeat' with_reducible first | assumption | apply State.sectorEnd_keeps | apply kept_ite | dsimp only | (refine kept_pair (by assumption) ?_) | (refine kept_opt (by assumption) ?_) | (refine kept_opt1 (by assumption) ?_) | split

theorem State.dropWG_keeps {qq : List Instr} (s : State) (t : Tower) (h_s : Kept qq s) :
    Kept qq (State.dropWG s t) := by
  unfold State.dropWG
  dsimp -failIfUnchanged only
  repeat' with_reducible first | assumption | apply State.cutSector_keeps | apply State.wr_keeps | apply kept_ite | dsimp only | split

theorem State.regate_keeps {qq : List Instr} (s : State) (t : Tower) (h_s : Kept qq s) :
    Kept qq (State.regate s t) := by
  unfold State.regate
  dsimp -failIfUnchanged only
  repeat' with_reducible first | assumption | (intro _) | apply State.dropWG_keeps | apply State.dropAG_keeps | apply kept_ite | dsimp only | split

theorem State.closeAG_keeps {qq : List Instr} (s : State) (t : Tower) (h_s : Kept qq s) :
    Kept qq (State.closeAG s t) := by
  unfold State.closeAG
  dsimp -failIfUnchanged only
  repeat' with_reducible first | assumption | (intro _) | apply State.regate_keeps | apply State.setAG_keeps | apply State.lanAssist_keeps | apply State.updLan_keeps | apply State.wr_keeps | apply kept_ite | dsimp only | (apply kept_mk; dsimp only; apply kept_un) | split

theorem State.openWG_keeps {qq : List Instr} (s : State) (t : Tower) (h_s : Kept qq s) :
    Kept qq (State.openWG s t) := by
  unfold State.openWG
  dsimp -failIfUnchanged only
  repeat' with_reducible first | assumption | apply State.cutSector_keeps | apply State.wr_keeps | apply kept_ite | dsimp only | split

theorem State.openAG_keeps {qq : List Instr} (s : State) (t : Tower) (h_s : Kept qq s) :
    Kept qq (State.openAG s t) := by
  unfold State.openAG
  dsimp -failIfUnchanged only
  repeat' with_reducible first | assumption | (intro _) | apply State.setAG_keeps | apply State.headWarn_keeps | apply State.updLan_keeps | apply State.wr_keeps | apply kept_ite | dsimp only | (apply kept_mk; dsimp only; apply kept_un) | split

theorem State.winOpen_keeps {qq : List Instr} (s : State) (t : Tower) (b : Bool) (h_s : Kept qq s) :
    Kept qq (State.winOpen s t b) := by
  unfold State.winOpen
  dsimp -failIfUnchanged only
  repeat' with_reducible first | assumption | (intro _) | apply State.capStart_keeps | apply State.afeOpen_keeps | apply State.updChn_keeps | apply kept_ite | (refine kept_foldl ?_ (fun _ _ _ => ?_)) | (refine kept_foldl1 ?_ (fun _ _ _ => ?_)) | (refine kept_foldl2 ?_ (fun _ _ _ => ?_)) | dsimp only | (apply kept_mk; dsimp only; apply kept_un) | split

theorem State.winClose_keeps {qq : List Instr} (s : State) (t : Tower) (b : Bool) (h_s : Kept qq s) :
    Kept qq (State.winClose s t b) := by
  unfold State.winClose
  dsimp -failIfUnchanged only
  repeat' with_reducible first | assumption | (intro _) | apply State.capSettle_keeps | apply State.afeClose_keeps | apply State.updChn_keeps | apply kept_ite | dsimp only | (apply kept_mk; dsimp only; apply kept_un) | split

theorem State.cmpAct_keeps {qq : List Instr} (s : State) (t : Tower) (action : Nat) (owner : Nat) (h_s : Kept qq s) :
    Kept qq (State.cmpAct s t action owner) := by
  unfold State.cmpAct
  dsimp -failIfUnchanged only
  repeat' with_reducible first | assumption | (intro _) | apply State.winClose_keeps | apply State.winOpen_keeps | apply State.openAG_keeps | apply State.openWG_keeps | apply State.closeAG_keeps | apply State.updSpire_keeps | apply State.wr_keeps | dsimp only | (refine kept_pair (by assumption) ?_) | (refine kept_opt (by assumption) ?_) | (refine kept_opt1 (by assumption) ?_) | (apply kept_mk; dsimp only; apply kept_un) | split

theorem State.cmpActNow_keeps {qq : List Instr} (s : State) (t : Tower) (action : Nat) (owner : Nat) (h_s : Kept qq s) :
    Kept qq (State.cmpActNow s t action owner) := by
  unfold State.cmpActNow
  dsimp -failIfUnchanged only
  repeat' with_reducible first | assumption | (intro _) | apply State.cmpAct_keeps | apply State.updAtbT_keeps | apply kept_ite | dsimp only | (apply kept_mk; dsimp only; apply kept_un) | split

theorem State.cmpTrace_keeps {qq : List Instr} (s : State) (n : Nat) (status : Nat) (h_s : Kept qq s) :
    Kept qq (State.cmpTrace s n status) := by
  unfold State.cmpTrace
  dsimp -failIfUnchanged only
  repeat' with_reducible first | assumption | apply State.trace_keeps | dsimp only

theorem State.cmpEnd_keeps {qq : List Instr} (s : State) (n : Nat) (status : Nat) (h_s : Kept qq s) :
    Kept qq (State.cmpEnd s n status) := by
  unfold State.cmpEnd
  dsimp -failIfUnchanged only
  repeat' with_reducible first | assumption | apply State.cmpTrace_keeps | apply State.wr_keeps | dsimp only

theorem State.cmpTell_keeps {qq : List Instr} (s : State) (n : Nat) (h_s : Kept qq s) :
    Kept qq (State.cmpTell s n) := by
  unfold State.cmpTell
  dsimp -failIfUnchanged only
  repeat' with_reducible first | assumption | (intro _) | apply State.updSpire_keeps | dsimp only | (apply kept_mk; dsimp only; apply kept_un)

theorem State.cmpArm_keeps {qq : List Instr} (s : State) (n : Nat) (h_s : Kept qq s) :
    Kept qq (State.cmpArm s n) := by
  unfold State.cmpArm
  dsimp -failIfUnchanged only
  repeat' with_reducible first | assumption | (intro _) | apply State.cmpTell_keeps | apply State.cmpEnd_keeps | apply State.cmpActNow_keeps | apply State.cutSector_keeps | apply State.updSpire_keeps | apply State.irq_keeps | apply State.wr_keeps | apply kept_ite | apply kept_ite1 | dsimp only | (apply kept_mk; dsimp only; apply kept_un) | split

theorem State.cmpDisarm_keeps {qq : List Instr} (s : State) (n : Nat) (store : State → State) (h_s : Kept qq s) (h_store : ∀ (x0 : State), Kept qq x0 → Kept qq (store x0)) :
    Kept qq (State.cmpDisarm s n store) := by
  unfold State.cmpDisarm
  dsimp -failIfUnchanged only
  repeat' with_reducible first | assumption | (intro _) | apply State.cmpTell_keeps | apply State.cmpEnd_keeps | apply State.cmpActNow_keeps | apply h_store | apply kept_ite | dsimp only | split

theorem State.cmpFire_keeps {qq : List Instr} (s : State) (n : Nat) (h_s : Kept qq s) :
    Kept qq (State.cmpFire s n) := by
  unfold State.cmpFire
  dsimp -failIfUnchanged only
  repeat' with_reducible first | assumption | (intro _) | apply State.cmpTell_keeps | apply State.cmpEnd_keeps | apply State.cmpTrace_keeps | apply State.cmpActNow_keeps | apply State.wr_keeps | apply kept_ite | dsimp only | split

theorem State.cmpFlush_keeps {qq : List Instr} (s : State) (n : Nat) (h_s : Kept qq s) :
    Kept qq (State.cmpFlush s n) := by
  unfold State.cmpFlush
  dsimp -failIfUnchanged only
  repeat' with_reducible first | assumption | (intro _) | apply State.cmpEnd_keeps | apply State.cutSector_keeps | apply kept_ite | dsimp only | split

theorem State.cmpFlushSeq_keeps {qq : List Instr} (s : State) (seq : Nat) (h_s : Kept qq s) :
    Kept qq (State.cmpFlushSeq s seq) := by
  unfold State.cmpFlushSeq
  dsimp -failIfUnchanged only
  repeat' with_reducible first | assumption | (intro _) | apply State.cmpFlush_keeps | (refine kept_foldl ?_ (fun _ _ _ => ?_)) | (refine kept_foldl1 ?_ (fun _ _ _ => ?_)) | (refine kept_foldl2 ?_ (fun _ _ _ => ?_)) | dsimp only

theorem State.cmpFlushT_keeps {qq : List Instr} (s : State) (t : Tower) (h_s : Kept qq s) :
    Kept qq (State.cmpFlushT s t) := by
  unfold State.cmpFlushT
  dsimp -failIfUnchanged only
  repeat' with_reducible first | assumption | (intro _) | apply State.cmpFlush_keeps | (refine kept_foldl ?_ (fun _ _ _ => ?_)) | (refine kept_foldl1 ?_ (fun _ _ _ => ?_)) | (refine kept_foldl2 ?_ (fun _ _ _ => ?_)) | dsimp only

theorem State.dropGates_keeps {qq : List Instr} (s : State) (t : Tower) (h_s : Kept qq s) :
    Kept qq (State.dropGates s t) := by
  unfold State.dropGates
  dsimp -failIfUnchanged only
  repeat' with_reducible first | assumption | apply State.dropWG_keeps | apply State.dropAG_keeps | dsimp only

theorem State.trcEvent_keeps {qq : List Instr} (s : State) (e : Eng) (code : Nat) (h_s : Kept qq s) :
    Kept qq (State.trcEvent s e code) := by
  unfold State.trcEvent
  dsimp -failIfUnchanged only
  repeat' with_reducible first | assumption | (intro _) | apply State.updEng_keeps | dsimp only | (apply kept_mk; dsimp only; apply kept_un)

theorem State.winShut_keeps {qq : List Instr} (s : State) (t : Tower) (h_s : Kept qq s) :
    Kept qq (State.winShut s t) := by
  unfold State.winShut
  dsimp -failIfUnchanged only
  repeat' with_reducible first | assumption | (intro _) | apply State.updChn_keeps | dsimp only | (apply kept_mk; dsimp only; apply kept_un)

theorem State.mediaCut_keeps {qq : List Instr} (s : State) (t : Tower) (h_s : Kept qq s) :
    Kept qq (State.mediaCut s t) := by
  unfold State.mediaCut
  dsimp -failIfUnchanged only
  repeat' with_reducible first | assumption | apply State.winShut_keeps | apply State.capCutAll_keeps | dsimp only

theorem State.discontinuity_keeps {qq : List Instr} (s : State) (e : Int) (h_s : Kept qq s) :
    Kept qq (State.discontinuity s e) := by
  unfold State.discontinuity
  dsimp -failIfUnchanged only
  repeat' with_reducible first | assumption | (intro _) | apply State.mediaCut_keeps | apply State.trcEvent_keeps | apply State.dropGates_keeps | apply State.cmpFlushT_keeps | apply State.atbEvt_keeps | apply State.updAtbT_keeps | apply State.updAtb_keeps | apply State.irq_keeps | apply State.bump_keeps | apply State.wr_keeps | apply kept_ite | (refine kept_foldl ?_ (fun _ _ _ => ?_)) | (refine kept_foldl1 ?_ (fun _ _ _ => ?_)) | (refine kept_foldl2 ?_ (fun _ _ _ => ?_)) | dsimp only | (apply kept_mk; dsimp only; apply kept_un) | split

theorem State.correct_keeps {qq : List Instr} (s : State) (e : Int) (h_s : Kept qq s) :
    Kept qq (State.correct s e) := by
  unfold State.correct
  dsimp -failIfUnchanged only
  repeat' with_reducible first | assumption | (intro _) | apply State.discontinuity_keeps | apply State.updAtb_keeps | apply kept_ite | dsimp only | (apply kept_mk; dsimp only; apply kept_un) | split

theorem State.setOtwi_keeps {qq : List Instr} (s : State) (t : Tower) (h_s : Kept qq s) :
    Kept qq (State.setOtwi s t) := by
  unfold State.setOtwi
  dsimp -failIfUnchanged only
  repeat' with_reducible first | assumption | (intro _) | apply State.regate_keeps | apply State.updSrv_keeps | apply State.irq_keeps | apply State.bump_keeps | apply State.wr_keeps | apply kept_ite | dsimp only | (apply kept_mk; dsimp only; apply kept_un) | split

theorem State.regateBoth_keeps {qq : List Instr} (s : State) (h_s : Kept qq s) :
    Kept qq (State.regateBoth s) := by
  unfold State.regateBoth
  dsimp -failIfUnchanged only
  repeat' with_reducible first | assumption | apply State.regate_keeps | dsimp only

theorem State.setSrc_keeps {qq : List Instr} (s : State) (v : Nat) (h_s : Kept qq s) :
    Kept qq (State.setSrc s v) := by
  unfold State.setSrc
  dsimp -failIfUnchanged only
  repeat' with_reducible first | assumption | (intro _) | apply State.updAtb_keeps | apply State.wb_keeps | apply State.wr_keeps | dsimp only | (apply kept_mk; dsimp only; apply kept_un)

theorem State.toServo_keeps {qq : List Instr} (s : State) (t : Tower) (h_s : Kept qq s) :
    Kept qq (State.toServo s t) := by
  unfold State.toServo
  dsimp -failIfUnchanged only
  repeat' with_reducible first | assumption | (intro _) | apply State.setSrc_keeps | apply State.correct_keeps | apply State.atbEvt_keeps | apply State.irq_keeps | apply State.wr_keeps | apply kept_ite | dsimp only | split

theorem State.toFlywheel_keeps {qq : List Instr} (s : State) (h_s : Kept qq s) :
    Kept qq (State.toFlywheel s) := by
  unfold State.toFlywheel
  dsimp -failIfUnchanged only
  repeat' with_reducible first | assumption | (intro _) | apply State.setSrc_keeps | apply State.atbEvt_keeps | apply State.updAtb_keeps | apply State.irq_keeps | apply State.wr_keeps | dsimp only | (apply kept_mk; dsimp only; apply kept_un)

theorem State.srcLost_keeps {qq : List Instr} (s : State) (t : Tower) (h_s : Kept qq s) :
    Kept qq (State.srcLost s t) := by
  unfold State.srcLost
  dsimp -failIfUnchanged only
  repeat' with_reducible first | assumption | (intro _) | apply State.toFlywheel_keeps | apply State.toServo_keeps | apply State.setSrc_keeps | apply State.regateBoth_keeps | apply State.dropGates_keeps | apply State.atbEvt_keeps | apply State.irq_keeps | apply kept_ite | dsimp only | split

theorem State.loseLock_keeps {qq : List Instr} (s : State) (t : Tower) (h_s : Kept qq s) :
    Kept qq (State.loseLock s t) := by
  unfold State.loseLock
  dsimp -failIfUnchanged only
  repeat' with_reducible first | assumption | (intro _) | apply State.srcLost_keeps | apply State.atbEvt_keeps | apply State.updAtbT_keeps | apply State.irq_keeps | apply State.wr_keeps | apply kept_ite | dsimp only | (refine kept_pair (by assumption) ?_) | (refine kept_opt (by assumption) ?_) | (refine kept_opt1 (by assumption) ?_) | (apply kept_mk; dsimp only; apply kept_un) | split

theorem State.takeServo_keeps {qq : List Instr} (s : State) (t : Tower) (h_s : Kept qq s) :
    Kept qq (State.takeServo s t) := by
  unfold State.takeServo
  dsimp -failIfUnchanged only
  repeat' with_reducible first | assumption | (intro _) | apply State.toServo_keeps | apply State.updAtb_keeps | dsimp only | (apply kept_mk; dsimp only; apply kept_un)

theorem State.preferServo_keeps {qq : List Instr} (s : State) (t : Tower) (e0 : Int) (h_s : Kept qq s) :
    Kept qq (State.preferServo s t e0) := by
  unfold State.preferServo
  dsimp -failIfUnchanged only
  repeat' with_reducible first | assumption | (intro _) | apply State.setSrc_keeps | apply State.correct_keeps | apply State.atbEvt_keeps | apply State.wr_keeps | apply kept_ite | dsimp only | split

theorem State.takeSource_keeps {qq : List Instr} (s : State) (t : Tower) (h_s : Kept qq s) :
    Kept qq (State.takeSource s t) := by
  unfold State.takeSource
  dsimp -failIfUnchanged only
  repeat' with_reducible first | assumption | apply State.preferServo_keeps | apply State.takeServo_keeps | apply kept_ite | dsimp only | (refine kept_pair (by assumption) ?_) | (refine kept_opt (by assumption) ?_) | (refine kept_opt1 (by assumption) ?_) | split

theorem State.tryLock_keeps {qq : List Instr} (s : State) (t : Tower) (h_s : Kept qq s) :
    Kept qq (State.tryLock s t) := by
  unfold State.tryLock
  dsimp -failIfUnchanged only
  repeat' with_reducible first | assumption | apply State.takeSource_keeps | apply State.irq_keeps | apply State.wr_keeps | apply kept_ite | dsimp only | (refine kept_pair (by assumption) ?_) | (refine kept_opt (by assumption) ?_) | (refine kept_opt1 (by assumption) ?_) | (apply kept_mk; dsimp only; apply kept_un) | split

theorem State.srvPins_keeps {qq : List Instr} (s : State) (t : Tower) (h_s : Kept qq s) :
    Kept qq (State.srvPins s t) := by
  unfold State.srvPins
  dsimp -failIfUnchanged only
  repeat' with_reducible first | assumption | (intro _) | apply State.updSrv_keeps | apply kept_ite | dsimp only | (apply kept_mk; dsimp only; apply kept_un) | split

theorem State.setMode_keeps {qq : List Instr} (s : State) (t : Tower) (m : Nat) (h_s : Kept qq s) :
    Kept qq (State.setMode s t m) := by
  unfold State.setMode
  dsimp -failIfUnchanged only
  repeat' with_reducible first | assumption | (intro _) | apply State.srvPins_keeps | apply State.tryLock_keeps | apply State.loseLock_keeps | apply State.setOtwi_keeps | apply State.updSrv_keeps | apply State.irq_keeps | apply State.wb_keeps | apply State.wr_keeps | apply kept_ite | dsimp only | (apply kept_mk; dsimp only; apply kept_un) | split

theorem State.genStart_keeps {qq : List Instr} (s : State) (t : Tower) (k : GenKind) (h_s : Kept qq s) :
    Kept qq (State.genStart s t k) := by
  unfold State.genStart
  dsimp -failIfUnchanged only
  repeat' with_reducible first | assumption | (intro _) | apply State.updSrv_keeps | dsimp only | (apply kept_mk; dsimp only; apply kept_un)

theorem State.toRetract_keeps {qq : List Instr} (s : State) (t : Tower) (cause : Nat) (h_s : Kept qq s) :
    Kept qq (State.toRetract s t cause) := by
  unfold State.toRetract
  dsimp -failIfUnchanged only
  repeat' with_reducible first | assumption | apply State.genStart_keeps | apply State.setMode_keeps | apply State.hwPost_keeps | apply State.irq_keeps | apply State.bump_keeps | apply State.wr_keeps | apply kept_ite | dsimp only | split

theorem State.emergency_keeps {qq : List Instr} (s : State) (t : Tower) (cause : Nat) (h_s : Kept qq s) :
    Kept qq (State.emergency s t cause) := by
  unfold State.emergency
  dsimp -failIfUnchanged only
  repeat' with_reducible first | assumption | (intro _) | apply State.toRetract_keeps | apply State.updSrv_keeps | apply State.irq_keeps | apply State.bump_keeps | apply kept_ite | dsimp only | (apply kept_mk; dsimp only; apply kept_un) | split

theorem State.engRefresh_keeps {qq : List Instr} (s : State) (e : Eng) (h_s : Kept qq s) :
    Kept qq (State.engRefresh s e) := by
  unfold State.engRefresh
  dsimp -failIfUnchanged only
  repeat' with_reducible first | assumption | (intro _) | apply State.updEng_keeps | apply State.wr_keeps | apply kept_ite | dsimp only | (apply kept_mk; dsimp only; apply kept_un) | split

theorem State.park_keeps {qq : List Instr} (s : State) (h_s : Kept qq s) :
    Kept qq (State.park s) := by
  unfold State.park
  dsimp -failIfUnchanged only
  repeat' with_reducible first | assumption | apply State.emergency_keeps | dsimp only

theorem State.setObsOk_keeps {qq : List Instr} (s : State) (v : Bool) (h_s : Kept qq s) :
    Kept qq (State.setObsOk s v) := by
  unfold State.setObsOk
  dsimp -failIfUnchanged only
  repeat' with_reducible first | assumption | (intro _) | apply State.toFlywheel_keeps | apply State.setSrc_keeps | apply State.wb_keeps | apply State.wr_keeps | apply kept_ite | dsimp only | split

end Sys2Proof.Machine
end

