-- ==== Sys2Proof/Laws/KeepAtb.lean ====
section
/-! SUPPORT. Each operation of Machine/Atb.lean leaves the register file and memory canonical and the queue as it is. -/

set_option linter.unusedTactic false
set_option linter.unreachableTactic false
set_option maxRecDepth 8000

namespace Sys2Proof.Machine

theorem State.atbCycle_keeps {qq : List Instr} (s : State) (h_s : Kept qq s) :
    Kept qq (State.atbCycle s) := by
  unfold State.atbCycle
  dsimp -failIfUnchanged only
  repeat' with_reducible first | assumption | (intro _) | apply State.updAtbT_keeps | apply State.updAtb_keeps | apply kept_ite | dsimp only | (apply kept_mk; dsimp only; apply kept_un) | split

theorem State.atbStart_keeps {qq : List Instr} (s : State) (h_s : Kept qq s) :
    Kept qq (State.atbStart s) := by
  unfold State.atbStart
  dsimp -failIfUnchanged only
  repeat' with_reducible first | assumption | (intro _) | apply State.setSrc_keeps | apply State.updAtb_keeps | apply State.wr_keeps | apply kept_ite | dsimp only | (apply kept_mk; dsimp only; apply kept_un) | split

theorem State.atbStarted_keeps {qq : List Instr} (s : State) (h_s : Kept qq s) :
    Kept qq (State.atbStarted s) := by
  unfold State.atbStarted
  dsimp -failIfUnchanged only
  repeat' with_reducible first | assumption | (intro _) | apply State.takeSource_keeps | apply State.updAtbT_keeps | apply kept_ite | (refine kept_foldl ?_ (fun _ _ _ => ?_)) | (refine kept_foldl1 ?_ (fun _ _ _ => ?_)) | (refine kept_foldl2 ?_ (fun _ _ _ => ?_)) | dsimp only | (apply kept_mk; dsimp only; apply kept_un) | split

theorem State.atbStop_keeps {qq : List Instr} (s : State) (h_s : Kept qq s) :
    Kept qq (State.atbStop s) := by
  unfold State.atbStop
  dsimp -failIfUnchanged only
  repeat' with_reducible first | assumption | (intro _) | apply State.mediaCut_keeps | apply State.dropGates_keeps | apply State.cmpFlushT_keeps | apply State.updAtbT_keeps | dsimp only | (apply kept_mk; dsimp only; apply kept_un)

theorem State.cmpCtlStore_keeps {qq : List Instr} (s : State) (n : Nat) (ctl : Word) (h_s : Kept qq s) :
    Kept qq (State.cmpCtlStore s n ctl) := by
  unfold State.cmpCtlStore
  dsimp -failIfUnchanged only
  repeat' with_reducible first | assumption | apply State.wr_keeps | dsimp only

theorem State.crossCheck_keeps {qq : List Instr} (s : State) (t : Tower) (e : Int) (h_s : Kept qq s) :
    Kept qq (State.crossCheck s t e) := by
  unfold State.crossCheck
  dsimp -failIfUnchanged only
  repeat' with_reducible first | assumption | (intro _) | apply State.updAtbT_keeps | apply State.irq_keeps | apply kept_ite | dsimp only | (apply kept_mk; dsimp only; apply kept_un) | split

theorem State.dutyBoundary_keeps {qq : List Instr} (s : State) (t : Tower) (h_s : Kept qq s) :
    Kept qq (State.dutyBoundary s t) := by
  unfold State.dutyBoundary
  dsimp -failIfUnchanged only
  repeat' with_reducible first | assumption | (intro _) | apply State.updLan_keeps | dsimp only | (apply kept_mk; dsimp only; apply kept_un)

theorem State.headSwitch_keeps {qq : List Instr} (s : State) (t : Tower) (h_s : Kept qq s) :
    Kept qq (State.headSwitch s t) := by
  unfold State.headSwitch
  dsimp -failIfUnchanged only
  repeat' with_reducible first | assumption | (intro _) | apply State.setMode_keeps | apply State.setOtwi_keeps | apply State.regate_keeps | apply State.capCutAll_keeps | apply State.lanAssist_keeps | apply State.updSrv_keeps | apply State.updCpl_keeps | apply State.updAtbT_keeps | apply State.irq_keeps | apply State.wr_keeps | apply kept_ite | dsimp only | (apply kept_mk; dsimp only; apply kept_un) | split

theorem State.inhCount_keeps {qq : List Instr} (s : State) (good : Bool) (h_s : Kept qq s) :
    Kept qq (State.inhCount s good) := by
  unfold State.inhCount
  dsimp -failIfUnchanged only
  repeat' with_reducible first | assumption | (intro _) | apply State.updAtb_keeps | apply State.wr_keeps | apply kept_ite | dsimp only | (apply kept_mk; dsimp only; apply kept_un) | split

theorem State.shockBoundary_keeps {qq : List Instr} (s : State) (t : Tower) (h_s : Kept qq s) :
    Kept qq (State.shockBoundary s t) := by
  unfold State.shockBoundary
  dsimp -failIfUnchanged only
  repeat' with_reducible first | assumption | (intro _) | apply State.updSrv_keeps | apply State.wr_keeps | apply kept_ite | dsimp only | (apply kept_mk; dsimp only; apply kept_un) | split

theorem State.towerTick_keeps {qq : List Instr} (s : State) (t : Tower) (sub : Nat) (h_s : Kept qq s) :
    Kept qq (State.towerTick s t sub) := by
  unfold State.towerTick
  dsimp -failIfUnchanged only
  repeat' with_reducible first | assumption | (intro _) | apply State.updEng_keeps | apply kept_ite | dsimp only | (apply kept_mk; dsimp only; apply kept_un) | split

theorem State.wedgeJudged_keeps {qq : List Instr} (s : State) (t : Tower) (sam : Bool) (found : Bool) (good : Bool) (idx : Nat) (e : Int) (edge : BitVec 24) (h_s : Kept qq s) :
    Kept qq (State.wedgeJudged s t sam found good idx e edge) := by
  unfold State.wedgeJudged
  dsimp -failIfUnchanged only
  repeat' with_reducible first | assumption | (intro _) | apply State.wrI_keeps | apply State.updAtbT_keeps | apply State.wb_keeps | apply State.wr_keeps | apply kept_ite | dsimp only | (apply kept_mk; dsimp only; apply kept_un) | split

theorem execAtbObsOffsetWrite_keeps {qq : List Instr} (val : Word) (s : State) (h_s : Kept qq s) :
    Out.Kept qq (execAtbObsOffsetWrite val s) := by
  unfold execAtbObsOffsetWrite
  dsimp -failIfUnchanged only
  repeat' with_reducible first | assumption | (intro _) | apply State.gated_keeps | apply State.wr_keeps | apply kept_next | apply kept_ite3 | dsimp only

theorem execAtbSkewWrite_keeps {qq : List Instr} (t : Tower) (val : Word) (s : State) (h_s : Kept qq s) :
    Out.Kept qq (execAtbSkewWrite t val s) := by
  unfold execAtbSkewWrite
  dsimp -failIfUnchanged only
  repeat' with_reducible first | assumption | (intro _) | apply State.gated_keeps | apply State.wr_keeps | apply kept_next | apply kept_ite3 | dsimp only

theorem execCmpTestFlush_keeps {qq : List Instr} (val : Word) (s : State) (h_s : Kept qq s) :
    Out.Kept qq (execCmpTestFlush val s) := by
  unfold execCmpTestFlush
  dsimp -failIfUnchanged only
  repeat' with_reducible first | assumption | (intro _) | apply State.cmpFlushT_keeps | apply State.gated_keeps | apply kept_next | apply kept_ite3 | apply kept_ite | dsimp only | split

theorem execComparatorArm_keeps {qq : List Instr} (n : Nat) (tgt : Word) (ctl : Word) (s : State) (h_s : Kept qq s) :
    Out.Kept qq (execComparatorArm n tgt ctl s) := by
  unfold execComparatorArm
  dsimp -failIfUnchanged only
  repeat' with_reducible first | assumption | (intro _) | apply State.cmpCtlStore_keeps | apply State.cmpArm_keeps | apply State.gated_keeps | apply State.wr_keeps | apply kept_next | apply kept_ite3 | apply kept_ite | dsimp only | split

theorem execComparatorDisarm_keeps {qq : List Instr} (n : Nat) (ctl : Word) (s : State) (h_s : Kept qq s) :
    Out.Kept qq (execComparatorDisarm n ctl s) := by
  unfold execComparatorDisarm
  dsimp -failIfUnchanged only
  repeat' with_reducible first | assumption | (intro _) | apply State.cmpCtlStore_keeps | apply State.cmpDisarm_keeps | apply State.gated_keeps | apply kept_next | apply kept_ite3 | apply kept_ite | dsimp only | split

theorem execComparatorFire_keeps {qq : List Instr} (n : Nat) (s : State) (h_s : Kept qq s) :
    Out.Kept qq (execComparatorFire n s) := by
  unfold execComparatorFire
  dsimp -failIfUnchanged only
  repeat' with_reducible first | assumption | apply State.cmpFire_keeps | apply kept_next | apply kept_ite3 | apply kept_ite | dsimp only | split

theorem execCurrentSubtick_keeps {qq : List Instr} (t : Tower) (sub : Nat) (s : State) (h_s : Kept qq s) :
    Out.Kept qq (execCurrentSubtick t sub s) := by
  unfold execCurrentSubtick
  dsimp -failIfUnchanged only
  repeat' with_reducible first | assumption | apply State.towerTick_keeps | apply kept_next | apply kept_ite3 | apply kept_ite | dsimp only | split

theorem execObsPhaseMeasure_keeps {qq : List Instr} (obs : BitVec 24) (s : State) (h_s : Kept qq s) :
    Out.Kept qq (execObsPhaseMeasure obs s) := by
  unfold execObsPhaseMeasure
  dsimp -failIfUnchanged only
  repeat' with_reducible first | assumption | apply State.correct_keeps | apply kept_next | apply kept_ite3 | apply kept_ite | dsimp only | split

theorem execPositionTick_keeps {qq : List Instr} (t : Tower) (s : State) (h_s : Kept qq s) :
    Out.Kept qq (execPositionTick t s) := by
  unfold execPositionTick
  dsimp -failIfUnchanged only
  repeat' with_reducible first | assumption | apply State.towerTick_keeps | apply kept_next | apply kept_ite3 | apply kept_ite | dsimp only | split

theorem execServoWedge_keeps {qq : List Instr} (t : Tower) (ra : ServoIn) (rb : ServoIn) (dt : Nat) (s : State) (h_s : Kept qq s) :
    Out.Kept qq (execServoWedge t ra rb dt s) := by
  unfold execServoWedge
  dsimp -failIfUnchanged only
  repeat' with_reducible first | assumption | (intro _) | apply State.wedgeJudged_keeps | apply State.inhCount_keeps | apply State.crossCheck_keeps | apply State.tryLock_keeps | apply State.loseLock_keeps | apply State.correct_keeps | apply State.updSrv_keeps | apply State.updAtbT_keeps | apply State.updAtb_keeps | apply kept_next | apply kept_ite3 | apply kept_ite | dsimp only | (apply kept_mk; dsimp only; apply kept_un) | split

theorem execServoWindowClose_keeps {qq : List Instr} (t : Tower) (s : State) (h_s : Kept qq s) :
    Out.Kept qq (execServoWindowClose t s) := by
  unfold execServoWindowClose
  dsimp -failIfUnchanged only
  repeat' with_reducible first | assumption | (intro _) | apply State.updAtbT_keeps | apply kept_next | apply kept_ite3 | apply kept_ite | dsimp only | (apply kept_mk; dsimp only; apply kept_un) | split

theorem execServoWindowOpen_keeps {qq : List Instr} (t : Tower) (s : State) (h_s : Kept qq s) :
    Out.Kept qq (execServoWindowOpen t s) := by
  unfold execServoWindowOpen
  dsimp -failIfUnchanged only
  repeat' with_reducible first | assumption | (intro _) | apply State.updAtbT_keeps | apply kept_next | apply kept_ite3 | apply kept_ite | dsimp only | (apply kept_mk; dsimp only; apply kept_un) | split

theorem execWedgeBoundary_keeps {qq : List Instr} (t : Tower) (s : State) (h_s : Kept qq s) :
    Out.Kept qq (execWedgeBoundary t s) := by
  unfold execWedgeBoundary
  dsimp -failIfUnchanged only
  repeat' with_reducible first | assumption | (intro _) | apply State.shockBoundary_keeps | apply State.headSwitch_keeps | apply State.dutyBoundary_keeps | apply State.updSrv_keeps | apply State.updAtbT_keeps | apply kept_next | apply kept_ite3 | apply kept_ite | dsimp only | (apply kept_mk; dsimp only; apply kept_un) | split

end Sys2Proof.Machine
end

