-- ==== Sys2Proof/Laws/KeepSpn.lean ====
section
/-! SUPPORT. Each operation of Machine/Spn.lean leaves the register file and memory canonical and the queue as it is. -/

set_option linter.unusedTactic false
set_option linter.unreachableTactic false
set_option maxRecDepth 8000

namespace Sys2Proof.Machine

theorem State.addCrossing_keeps {qq : List Instr} (s : State) (fwd : Bool) (interval : Nat) (h_s : Kept qq s) :
    Kept qq (State.addCrossing s fwd interval) := by
  unfold State.addCrossing
  dsimp -failIfUnchanged only
  repeat' with_reducible first | assumption | (intro _) | apply State.updSpn_keeps | apply kept_ite | dsimp only | (apply kept_mk; dsimp only; apply kept_un) | split

theorem State.setGates_keeps {qq : List Instr} (s : State) (p : Nat) (off : Int) (h_s : Kept qq s) :
    Kept qq (State.setGates s p off) := by
  unfold State.setGates
  dsimp -failIfUnchanged only
  repeat' with_reducible first | assumption | (intro _) | apply State.updSpn_keeps | apply State.wr_keeps | apply kept_ite | dsimp only | (apply kept_mk; dsimp only; apply kept_un) | split

theorem State.setVec_keeps {qq : List Instr} (s : State) (v : Nat) (h_s : Kept qq s) :
    Kept qq (State.setVec s v) := by
  unfold State.setVec
  dsimp -failIfUnchanged only
  repeat' with_reducible first | assumption | (intro _) | apply State.setGates_keeps | apply State.updSpn_keeps | dsimp only | (apply kept_mk; dsimp only; apply kept_un)

theorem State.brakeOn_keeps {qq : List Instr} (s : State) (h_s : Kept qq s) :
    Kept qq (State.brakeOn s) := by
  unfold State.brakeOn
  dsimp -failIfUnchanged only
  repeat' with_reducible first | assumption | apply State.setGates_keeps | apply State.wr_keeps | dsimp only

theorem State.applyVector_keeps {qq : List Instr} (s : State) (est : SpnEst) (h_s : Kept qq s) :
    Kept qq (State.applyVector s est) := by
  unfold State.applyVector
  dsimp -failIfUnchanged only
  repeat' with_reducible first | assumption | (intro _) | apply State.brakeOn_keeps | apply State.setVec_keeps | apply State.setGates_keeps | apply State.updSpn_keeps | apply kept_ite | dsimp only | (apply kept_mk; dsimp only; apply kept_un) | split

theorem State.setAtSpeed_keeps {qq : List Instr} (s : State) (v : Bool) (h_s : Kept qq s) :
    Kept qq (State.setAtSpeed s v) := by
  unfold State.setAtSpeed
  dsimp -failIfUnchanged only
  repeat' with_reducible first | assumption | (intro _) | apply State.regateBoth_keeps | apply State.updSpn_keeps | apply State.wb_keeps | apply kept_ite | dsimp only | (apply kept_mk; dsimp only; apply kept_un) | split

theorem State.spnIrq_keeps {qq : List Instr} (s : State) (bit : Nat) (h_s : Kept qq s) :
    Kept qq (State.spnIrq s bit) := by
  unfold State.spnIrq
  dsimp -failIfUnchanged only
  repeat' with_reducible first | assumption | apply State.irq_keeps | dsimp only

theorem State.bandCheck_keeps {qq : List Instr} (s : State) (h_s : Kept qq s) :
    Kept qq (State.bandCheck s) := by
  unfold State.bandCheck
  dsimp -failIfUnchanged only
  repeat' with_reducible first | assumption | (intro _) | apply State.spnIrq_keeps | apply State.setAtSpeed_keeps | apply State.updSpn_keeps | apply kept_ite | dsimp only | (apply kept_mk; dsimp only; apply kept_un) | split

theorem State.due_keeps {qq : List Instr} (s : State) (m : Nat) (code : Nat) (h_s : Kept qq s) :
    Kept qq (State.due s m code) := by
  unfold State.due
  dsimp -failIfUnchanged only
  repeat' with_reducible first | assumption | (intro _) | apply State.updSpn_keeps | apply kept_ite | dsimp only | (apply kept_mk; dsimp only; apply kept_un) | split

theorem State.gatesOff_keeps {qq : List Instr} (s : State) (h_s : Kept qq s) :
    Kept qq (State.gatesOff s) := by
  unfold State.gatesOff
  dsimp -failIfUnchanged only
  repeat' with_reducible first | assumption | apply State.setGates_keeps | apply State.wr_keeps | dsimp only

theorem State.spnEvt_keeps {qq : List Instr} (s : State) (kind : Nat) (h_s : Kept qq s) :
    Kept qq (State.spnEvt s kind) := by
  unfold State.spnEvt
  dsimp -failIfUnchanged only
  repeat' with_reducible first | assumption | (intro _) | apply State.hwPost_keeps | apply State.wr_keeps | dsimp only

theorem State.syncLose_keeps {qq : List Instr} (s : State) (cause : Nat) (h_s : Kept qq s) :
    Kept qq (State.syncLose s cause) := by
  unfold State.syncLose
  dsimp -failIfUnchanged only
  repeat' with_reducible first | assumption | (intro _) | apply State.spnEvt_keeps | apply State.spnIrq_keeps | apply State.updSpn_keeps | apply State.wr_keeps | apply kept_ite | dsimp only | (apply kept_mk; dsimp only; apply kept_un) | split

theorem State.obsRefresh_keeps {qq : List Instr} (s : State) (h_s : Kept qq s) :
    Kept qq (State.obsRefresh s) := by
  unfold State.obsRefresh
  dsimp -failIfUnchanged only
  repeat' with_reducible first | assumption | (intro _) | apply State.setObsOk_keeps | apply State.updSpn_keeps | apply kept_ite | dsimp only | (apply kept_mk; dsimp only; apply kept_un) | split

theorem State.setPmode_keeps {qq : List Instr} (s : State) (m : Nat) (h_s : Kept qq s) :
    Kept qq (State.setPmode s m) := by
  unfold State.setPmode
  dsimp -failIfUnchanged only
  repeat' with_reducible first | assumption | (intro _) | apply State.obsRefresh_keeps | apply State.syncLose_keeps | apply State.setAtSpeed_keeps | apply State.updSpn_keeps | apply State.wr_keeps | apply kept_ite | dsimp only | (apply kept_mk; dsimp only; apply kept_un) | split

theorem State.toIps_keeps {qq : List Instr} (s : State) (h_s : Kept qq s) :
    Kept qq (State.toIps s) := by
  unfold State.toIps
  dsimp -failIfUnchanged only
  repeat' with_reducible first | assumption | (intro _) | apply State.setPmode_keeps | apply State.updSpn_keeps | apply State.wr_keeps | dsimp only | (apply kept_mk; dsimp only; apply kept_un)

theorem State.listenExit_keeps {qq : List Instr} (s : State) (h_s : Kept qq s) :
    Kept qq (State.listenExit s) := by
  unfold State.listenExit
  dsimp -failIfUnchanged only
  repeat' with_reducible first | assumption | (intro _) | apply State.toIps_keeps | apply State.setPmode_keeps | apply State.brakeOn_keeps | apply State.updSpn_keeps | apply kept_ite | dsimp only | (apply kept_mk; dsimp only; apply kept_un) | split

theorem State.markAdopt_keeps {qq : List Instr} (s : State) (p : Nat) (conf : Nat) (h_s : Kept qq s) :
    Kept qq (State.markAdopt s p conf) := by
  unfold State.markAdopt
  dsimp -failIfUnchanged only
  repeat' with_reducible first | assumption | (intro _) | apply State.spnEvt_keeps | apply State.spnIrq_keeps | apply State.correct_keeps | apply State.updSpn_keeps | apply State.wr_keeps | apply kept_ite | dsimp only | (apply kept_mk; dsimp only; apply kept_un) | split

theorem State.toDecel_keeps {qq : List Instr} (s : State) (m : Nat) (h_s : Kept qq s) :
    Kept qq (State.toDecel s m) := by
  unfold State.toDecel
  dsimp -failIfUnchanged only
  repeat' with_reducible first | assumption | (intro _) | apply State.setPmode_keeps | apply State.updSpn_keeps | apply State.wr_keeps | dsimp only | (apply kept_mk; dsimp only; apply kept_un)

theorem State.toBrakeStop_keeps {qq : List Instr} (s : State) (h_s : Kept qq s) :
    Kept qq (State.toBrakeStop s) := by
  unfold State.toBrakeStop
  dsimp -failIfUnchanged only
  repeat' with_reducible first | assumption | apply State.setPmode_keeps | apply State.brakeOn_keeps | dsimp only

theorem State.shutTaken_keeps {qq : List Instr} (s : State) (h_s : Kept qq s) :
    Kept qq (State.shutTaken s) := by
  unfold State.shutTaken
  dsimp -failIfUnchanged only
  repeat' with_reducible first | assumption | (intro _) | apply State.toBrakeStop_keeps | apply State.toDecel_keeps | apply State.park_keeps | apply State.updSpn_keeps | apply kept_ite | dsimp only | (apply kept_mk; dsimp only; apply kept_un) | split

theorem State.spnFault_keeps {qq : List Instr} (s : State) (kind : Nat) (h_s : Kept qq s) :
    Kept qq (State.spnFault s kind) := by
  unfold State.spnFault
  dsimp -failIfUnchanged only
  repeat' with_reducible first | assumption | (intro _) | apply State.setPmode_keeps | apply State.spnEvt_keeps | apply State.gatesOff_keeps | apply State.park_keeps | apply State.updSpn_keeps | apply State.faultStop_keeps | apply kept_ite | dsimp only | (apply kept_mk; dsimp only; apply kept_un) | split

theorem State.rotorLoss_keeps {qq : List Instr} (s : State) (h_s : Kept qq s) :
    Kept qq (State.rotorLoss s) := by
  unfold State.rotorLoss
  dsimp -failIfUnchanged only
  repeat' with_reducible first | assumption | (intro _) | apply State.setPmode_keeps | apply State.obsRefresh_keeps | apply State.spnEvt_keeps | apply State.gatesOff_keeps | apply State.spnIrq_keeps | apply State.setAtSpeed_keeps | apply State.trcEvent_keeps | apply State.dropGates_keeps | apply State.updSpn_keeps | apply State.bump_keeps | dsimp only | (apply kept_mk; dsimp only; apply kept_un)

theorem State.toSlew_keeps {qq : List Instr} (s : State) (h_s : Kept qq s) :
    Kept qq (State.toSlew s) := by
  unfold State.toSlew
  dsimp -failIfUnchanged only
  repeat' with_reducible first | assumption | (intro _) | apply State.setPmode_keeps | apply State.updSpn_keeps | dsimp only | (apply kept_mk; dsimp only; apply kept_un)

theorem State.underCheck_keeps {qq : List Instr} (s : State) (h_s : Kept qq s) :
    Kept qq (State.underCheck s) := by
  unfold State.underCheck
  dsimp -failIfUnchanged only
  repeat' with_reducible first | assumption | (intro _) | apply State.spnEvt_keeps | apply State.spnIrq_keeps | apply State.park_keeps | apply State.updSpn_keeps | apply State.bump_keeps | apply kept_ite | dsimp only | (apply kept_mk; dsimp only; apply kept_un) | split

theorem State.toRun_keeps {qq : List Instr} (s : State) (h_s : Kept qq s) :
    Kept qq (State.toRun s) := by
  unfold State.toRun
  dsimp -failIfUnchanged only
  repeat' with_reducible first | assumption | (intro _) | apply State.underCheck_keeps | apply State.setPmode_keeps | apply State.spnEvt_keeps | apply State.spnIrq_keeps | apply State.setSt_keeps | apply State.wr_keeps | apply kept_ite | dsimp only | split

theorem State.toRamp_keeps {qq : List Instr} (s : State) (h_s : Kept qq s) :
    Kept qq (State.toRamp s) := by
  unfold State.toRamp
  dsimp -failIfUnchanged only
  repeat' with_reducible first | assumption | (intro _) | apply State.setPmode_keeps | apply State.updSpn_keeps | dsimp only | (apply kept_mk; dsimp only; apply kept_un)

theorem State.spnShutDone_keeps {qq : List Instr} (s : State) (h_s : Kept qq s) :
    Kept qq (State.spnShutDone s) := by
  unfold State.spnShutDone
  dsimp -failIfUnchanged only
  repeat' with_reducible first | assumption | apply State.engRefresh_keeps | apply State.shutDone_keeps | dsimp only

theorem State.spnOff_keeps {qq : List Instr} (s : State) (h_s : Kept qq s) :
    Kept qq (State.spnOff s) := by
  unfold State.spnOff
  dsimp -failIfUnchanged only
  repeat' with_reducible first | assumption | (intro _) | apply State.setPmode_keeps | apply State.wr_keeps | dsimp only

theorem State.takeExit_keeps {qq : List Instr} (s : State) (h_s : Kept qq s) :
    Kept qq (State.takeExit s) := by
  unfold State.takeExit
  dsimp -failIfUnchanged only
  repeat' with_reducible first | assumption | (intro _) | apply State.spnOff_keeps | apply State.spnShutDone_keeps | apply State.toRamp_keeps | apply State.underCheck_keeps | apply State.toSlew_keeps | apply State.spnFault_keeps | apply State.listenExit_keeps | apply State.toIps_keeps | apply State.setPmode_keeps | apply State.spnEvt_keeps | apply State.gatesOff_keeps | apply State.spnIrq_keeps | apply State.updSpn_keeps | apply State.bump_keeps | apply State.wr_keeps | apply kept_ite | dsimp only | (refine kept_pair (by assumption) ?_) | (refine kept_opt (by assumption) ?_) | (refine kept_opt1 (by assumption) ?_) | (apply kept_mk; dsimp only; apply kept_un) | split

theorem State.modeExit_keeps {qq : List Instr} (s : State) (vbus : Nat) (h_s : Kept qq s) :
    Kept qq (State.modeExit s vbus) := by
  unfold State.modeExit
  dsimp -failIfUnchanged only
  repeat' with_reducible first | assumption | (intro _) | apply State.takeExit_keeps | apply State.toRun_keeps | apply State.toSlew_keeps | apply State.rotorLoss_keeps | apply State.spnFault_keeps | apply State.shutTaken_keeps | apply State.toBrakeStop_keeps | apply State.spnIrq_keeps | apply State.updSpn_keeps | apply kept_ite | dsimp only | (apply kept_mk; dsimp only; apply kept_un) | split

theorem State.poleStep_keeps {qq : List Instr} (s : State) (periodNs : Nat) (h_s : Kept qq s) :
    Kept qq (State.poleStep s periodNs) := by
  unfold State.poleStep
  dsimp -failIfUnchanged only
  repeat' with_reducible first | assumption | (intro _) | apply State.updSpn_keeps | apply kept_ite | dsimp only | (refine kept_pair (by assumption) ?_) | (refine kept_opt (by assumption) ?_) | (refine kept_opt1 (by assumption) ?_) | (apply kept_mk; dsimp only; apply kept_un) | split

theorem State.setSpeed_keeps {qq : List Instr} (s : State) (v : Nat) (rev : Bool) (h_s : Kept qq s) :
    Kept qq (State.setSpeed s v rev) := by
  unfold State.setSpeed
  dsimp -failIfUnchanged only
  repeat' with_reducible first | assumption | apply State.wb_keeps | apply State.wr_keeps | dsimp only

theorem State.recapture_keeps {qq : List Instr} (s : State) (angle : BitVec 24) (h_s : Kept qq s) :
    Kept qq (State.recapture s angle) := by
  unfold State.recapture
  dsimp -failIfUnchanged only
  repeat' with_reducible first | assumption | (intro _) | apply State.setSpeed_keeps | apply State.updSpn_keeps | apply kept_ite | dsimp only | (apply kept_mk; dsimp only; apply kept_un) | split

theorem State.refStep_keeps {qq : List Instr} (s : State) (h_s : Kept qq s) :
    Kept qq (State.refStep s) := by
  unfold State.refStep
  dsimp -failIfUnchanged only
  repeat' with_reducible first | assumption | (intro _) | apply State.updSpn_keeps | apply kept_ite | dsimp only | (apply kept_mk; dsimp only; apply kept_un) | split

theorem State.residual_keeps {qq : List Instr} (s : State) (r : Nat) (h_s : Kept qq s) :
    Kept qq (State.residual s r) := by
  unfold State.residual
  dsimp -failIfUnchanged only
  repeat' with_reducible first | assumption | (intro _) | apply State.updSpn_keeps | apply kept_ite | dsimp only | (apply kept_mk; dsimp only; apply kept_un) | split

theorem State.spnHoldup_keeps {qq : List Instr} (s : State) (h_s : Kept qq s) :
    Kept qq (State.spnHoldup s) := by
  unfold State.spnHoldup
  dsimp -failIfUnchanged only
  repeat' with_reducible first | assumption | (intro _) | apply State.toDecel_keeps | apply State.spnEvt_keeps | apply State.spnIrq_keeps | apply State.setAtSpeed_keeps | apply State.park_keeps | apply State.updSpn_keeps | apply State.updFwk_keeps | apply State.setRpend_keeps | apply State.setEn_keeps | apply State.setSt_keeps | apply kept_ite | dsimp only | (apply kept_mk; dsimp only; apply kept_un) | split

theorem State.spnRefuse_keeps {qq : List Instr} (s : State) (h_s : Kept qq s) :
    Kept qq (State.spnRefuse s) := by
  unfold State.spnRefuse
  dsimp -failIfUnchanged only
  repeat' with_reducible first | assumption | apply State.spnEvt_keeps | apply State.spnIrq_keeps | dsimp only

theorem State.spnStart_keeps {qq : List Instr} (s : State) (h_s : Kept qq s) :
    Kept qq (State.spnStart s) := by
  unfold State.spnStart
  dsimp -failIfUnchanged only
  repeat' with_reducible first | assumption | (intro _) | apply State.spnFault_keeps | apply State.setPmode_keeps | apply State.gatesOff_keeps | apply State.updSpn_keeps | apply State.wr_keeps | apply kept_ite | dsimp only | (apply kept_mk; dsimp only; apply kept_un) | split

theorem State.spnStop_keeps {qq : List Instr} (s : State) (h_s : Kept qq s) :
    Kept qq (State.spnStop s) := by
  unfold State.spnStop
  dsimp -failIfUnchanged only
  repeat' with_reducible first | assumption | (intro _) | apply State.updSpn_keeps | dsimp only | (apply kept_mk; dsimp only; apply kept_un)

theorem State.syncCfg_keeps {qq : List Instr} (s : State) (val : Word) (h_s : Kept qq s) :
    Kept qq (State.syncCfg s val) := by
  unfold State.syncCfg
  dsimp -failIfUnchanged only
  repeat' with_reducible first | assumption | (intro _) | apply State.syncLose_keeps | apply State.storeRow_keeps | apply kept_ite | dsimp only | split

theorem execAlignDone_keeps {qq : List Instr} (s : State) (h_s : Kept qq s) :
    Out.Kept qq (execAlignDone s) := by
  unfold execAlignDone
  dsimp -failIfUnchanged only
  repeat' with_reducible first | assumption | apply State.due_keeps | apply kept_next | apply kept_ite3 | dsimp only

theorem execBemfCrossing_keeps {qq : List Instr} (fwd : Bool) (amp : Nat) (interval : Nat) (sinceEdge : Nat) (angle : BitVec 24) (s : State) (h_s : Kept qq s) :
    Out.Kept qq (execBemfCrossing fwd amp interval sinceEdge angle s) := by
  unfold execBemfCrossing
  dsimp -failIfUnchanged only
  repeat' with_reducible first | assumption | (intro _) | apply State.recapture_keeps | apply State.setSpeed_keeps | apply State.addCrossing_keeps | apply State.updSpn_keeps | apply kept_next | apply kept_ite3 | apply kept_ite | dsimp only | (apply kept_mk; dsimp only; apply kept_un) | split

theorem execBrakeRevEnd_keeps {qq : List Instr} (s : State) (h_s : Kept qq s) :
    Out.Kept qq (execBrakeRevEnd s) := by
  unfold execBrakeRevEnd
  dsimp -failIfUnchanged only
  repeat' with_reducible first | assumption | apply State.due_keeps | apply kept_next | apply kept_ite3 | dsimp only

theorem execBrakeStopDone_keeps {qq : List Instr} (s : State) (h_s : Kept qq s) :
    Out.Kept qq (execBrakeStopDone s) := by
  unfold execBrakeStopDone
  dsimp -failIfUnchanged only
  repeat' with_reducible first | assumption | apply State.due_keeps | apply kept_next | apply kept_ite3 | dsimp only

theorem execCurrentConversion_keeps {qq : List Instr} (j : Nat) (iu : Int) (iv : Int) (iw : Int) (s : State) (h_s : Kept qq s) :
    Out.Kept qq (execCurrentConversion j iu iv iw s) := by
  unfold execCurrentConversion
  dsimp -failIfUnchanged only
  repeat' with_reducible first | assumption | (intro _) | apply State.setGates_keeps | apply State.updSpn_keeps | apply State.bump_keeps | apply kept_next | apply kept_ite3 | apply kept_ite | dsimp only | (apply kept_mk; dsimp only; apply kept_un) | split

theorem execElectricalRev_keeps {qq : List Instr} (periodNs : Nat) (s : State) (h_s : Kept qq s) :
    Out.Kept qq (execElectricalRev periodNs s) := by
  unfold execElectricalRev
  dsimp -failIfUnchanged only
  repeat' with_reducible first | assumption | (intro _) | apply State.setSpeed_keeps | apply State.poleStep_keeps | apply State.underCheck_keeps | apply State.bandCheck_keeps | apply State.wrI_keeps | apply State.updSpn_keeps | apply State.updEng_keeps | apply State.updAtb_keeps | apply kept_next | apply kept_ite3 | apply kept_ite | dsimp only | (apply kept_mk; dsimp only; apply kept_un) | split

theorem execFaultStopParked_keeps {qq : List Instr} (s : State) (h_s : Kept qq s) :
    Out.Kept qq (execFaultStopParked s) := by
  unfold execFaultStopParked
  dsimp -failIfUnchanged only
  repeat' with_reducible first | assumption | apply State.spnShutDone_keeps | apply kept_next | apply kept_ite3 | apply kept_ite | dsimp only | split

theorem execIpsAttemptDone_keeps {qq : List Instr} (peaks : List Nat) (s : State) (h_s : Kept qq s) :
    Out.Kept qq (execIpsAttemptDone peaks s) := by
  unfold execIpsAttemptDone
  dsimp -failIfUnchanged only
  repeat' with_reducible first | assumption | (intro _) | apply State.due_keeps | apply State.updSpn_keeps | apply State.wr_keeps | apply kept_next | apply kept_ite3 | apply kept_ite | apply kept_ite1 | dsimp only | (refine kept_pair (by assumption) ?_) | (refine kept_opt (by assumption) ?_) | (refine kept_opt1 (by assumption) ?_) | (apply kept_mk; dsimp only; apply kept_un) | split

theorem execListenEnd_keeps {qq : List Instr} (s : State) (h_s : Kept qq s) :
    Out.Kept qq (execListenEnd s) := by
  unfold execListenEnd
  dsimp -failIfUnchanged only
  repeat' with_reducible first | assumption | apply State.setSpeed_keeps | apply State.due_keeps | apply kept_next | apply kept_ite3 | apply kept_ite | dsimp only | split

theorem execMarkerMeasureDone_keeps {qq : List Instr} (s : State) (h_s : Kept qq s) :
    Out.Kept qq (execMarkerMeasureDone s) := by
  unfold execMarkerMeasureDone
  dsimp -failIfUnchanged only
  repeat' with_reducible first | assumption | (intro _) | apply State.markAdopt_keeps | apply State.wrI_keeps | apply State.updSpn_keeps | apply State.wr_keeps | apply kept_next | apply kept_ite3 | apply kept_ite | (refine kept_foldl ?_ (fun _ _ _ => ?_)) | (refine kept_foldl1 ?_ (fun _ _ _ => ?_)) | (refine kept_foldl2 ?_ (fun _ _ _ => ?_)) | dsimp only | (apply kept_mk; dsimp only; apply kept_un) | split

theorem execRampTimeout_keeps {qq : List Instr} (s : State) (h_s : Kept qq s) :
    Out.Kept qq (execRampTimeout s) := by
  unfold execRampTimeout
  dsimp -failIfUnchanged only
  repeat' with_reducible first | assumption | apply State.due_keeps | apply kept_next | apply kept_ite3 | dsimp only

theorem execRecapTimeout_keeps {qq : List Instr} (s : State) (h_s : Kept qq s) :
    Out.Kept qq (execRecapTimeout s) := by
  unfold execRecapTimeout
  dsimp -failIfUnchanged only
  repeat' with_reducible first | assumption | apply State.due_keeps | apply kept_next | apply kept_ite3 | dsimp only

theorem execSpnCfgWrite_keeps {qq : List Instr} (val : Word) (s : State) (h_s : Kept qq s) :
    Out.Kept qq (execSpnCfgWrite val s) := by
  unfold execSpnCfgWrite
  dsimp -failIfUnchanged only
  repeat' with_reducible first | assumption | (intro _) | apply State.spnRefuse_keeps | apply State.underCheck_keeps | apply State.toSlew_keeps | apply State.setAtSpeed_keeps | apply State.updSpn_keeps | apply State.gated_keeps | apply State.wr_keeps | apply kept_next | apply kept_ite3 | apply kept_ite | dsimp only | (apply kept_mk; dsimp only; apply kept_un) | split

theorem execSpnGateForceWrite_keeps {qq : List Instr} (val : Word) (s : State) (h_s : Kept qq s) :
    Out.Kept qq (execSpnGateForceWrite val s) := by
  unfold execSpnGateForceWrite
  dsimp -failIfUnchanged only
  repeat' with_reducible first | assumption | (intro _) | apply State.spnRefuse_keeps | apply State.gated_keeps | apply State.wr_keeps | apply kept_next | apply kept_ite3 | apply kept_ite | dsimp only | split

theorem execSwitchingDecision_keeps {qq : List Instr} (est : SpnEst) (s : State) (h_s : Kept qq s) :
    Out.Kept qq (execSwitchingDecision est s) := by
  unfold execSwitchingDecision
  dsimp -failIfUnchanged only
  repeat' with_reducible first | assumption | (intro _) | apply State.residual_keeps | apply State.refStep_keeps | apply State.modeExit_keeps | apply State.obsRefresh_keeps | apply State.applyVector_keeps | apply State.updSpn_keeps | apply State.updEng_keeps | apply State.wr_keeps | apply kept_next | apply kept_ite3 | apply kept_ite | dsimp only | (apply kept_mk; dsimp only; apply kept_un) | split

theorem execSyncInPulse_keeps {qq : List Instr} (angle : BitVec 24) (intervalNs : Nat) (overRate : Bool) (s : State) (h_s : Kept qq s) :
    Out.Kept qq (execSyncInPulse angle intervalNs overRate s) := by
  unfold execSyncInPulse
  dsimp -failIfUnchanged only
  repeat' with_reducible first | assumption | (intro _) | apply State.syncLose_keeps | apply State.spnEvt_keeps | apply State.spnIrq_keeps | apply State.wrI_keeps | apply State.updSpn_keeps | apply State.wr_keeps | apply kept_next | apply kept_ite3 | apply kept_ite | dsimp only | (apply kept_mk; dsimp only; apply kept_un) | split

theorem execSyncPulseTimeout_keeps {qq : List Instr} (s : State) (h_s : Kept qq s) :
    Out.Kept qq (execSyncPulseTimeout s) := by
  unfold execSyncPulseTimeout
  dsimp -failIfUnchanged only
  repeat' with_reducible first | assumption | apply State.syncLose_keeps | apply kept_next | apply kept_ite3 | dsimp only

end Sys2Proof.Machine
end

