-- ==== Sys2Proof/Laws/KeepEng.lean ====
section
/-! SUPPORT. Each operation of Machine/Eng.lean leaves the register file and memory canonical and the queue as it is. -/

set_option linter.unusedTactic false
set_option linter.unreachableTactic false
set_option maxRecDepth 8000

namespace Sys2Proof.Machine

theorem State.engIrq_keeps {qq : List Instr} (s : State) (e : Eng) (p : Nat) (bit : Nat) (h_s : Kept qq s) :
    Kept qq (State.engIrq s e p bit) := by
  unfold State.engIrq
  dsimp -failIfUnchanged only
  repeat' with_reducible first | assumption | apply State.irq_keeps | dsimp only

theorem State.doSwap_keeps {qq : List Instr} (s : State) (e : Eng) (h_s : Kept qq s) :
    Kept qq (State.doSwap s e) := by
  unfold State.doSwap
  dsimp -failIfUnchanged only
  repeat' with_reducible first | assumption | apply State.engIrq_keeps | apply State.trcEvent_keeps | apply State.wr_keeps | dsimp only

theorem State.beginInst_keeps {qq : List Instr} (s : State) (e : Eng) (i : TickInst) (h_s : Kept qq s) :
    Kept qq (State.beginInst s e i) := by
  unfold State.beginInst
  dsimp -failIfUnchanged only
  repeat' with_reducible first | assumption | (intro _) | apply State.doSwap_keeps | apply State.updEng_keeps | apply State.wb_keeps | apply kept_ite | dsimp only | (apply kept_mk; dsimp only; apply kept_un) | split

theorem State.busyFell_keeps {qq : List Instr} (s : State) (e : Eng) (h_s : Kept qq s) :
    Kept qq (State.busyFell s e) := by
  unfold State.busyFell
  dsimp -failIfUnchanged only
  repeat' with_reducible first | assumption | apply State.setMode_keeps | apply kept_ite | dsimp only | (refine kept_pair (by assumption) ?_) | (refine kept_opt (by assumption) ?_) | (refine kept_opt1 (by assumption) ?_) | split

theorem State.busyRose_keeps {qq : List Instr} (s : State) (e : Eng) (h_s : Kept qq s) :
    Kept qq (State.busyRose s e) := by
  unfold State.busyRose
  dsimp -failIfUnchanged only
  repeat' with_reducible first | assumption | apply State.setMode_keeps | apply kept_ite | dsimp only | (refine kept_pair (by assumption) ?_) | (refine kept_opt (by assumption) ?_) | (refine kept_opt1 (by assumption) ?_) | split

theorem State.coefInc_keeps {qq : List Instr} (s : State) (e : Eng) (h_s : Kept qq s) :
    Kept qq (State.coefInc s e) := by
  unfold State.coefInc
  dsimp -failIfUnchanged only
  repeat' with_reducible first | assumption | apply State.wr_keeps | apply kept_ite | dsimp only | split

theorem State.coupling_keeps {qq : List Instr} (s : State) (e : Eng) (q : Nat) (h_s : Kept qq s) :
    Kept qq (State.coupling s e q).1 := by
  unfold State.coupling
  dsimp -failIfUnchanged only
  repeat' with_reducible first | assumption | (intro _) | apply State.engIrq_keeps | apply State.wb_keeps | apply kept_ite | apply kept_ite1 | dsimp only | (apply kept_mk; dsimp only; apply kept_un) | split

theorem State.deliver_keeps {qq : List Instr} (s : State) (e : Eng) (q : Nat) (sl : EngSlot) (sat : Bool) (h_s : Kept qq s) :
    Kept qq (State.deliver s e q sl sat) := by
  unfold State.deliver
  dsimp -failIfUnchanged only
  repeat' with_reducible first | assumption | (intro _) | apply State.engIrq_keeps | apply State.srvPins_keeps | apply State.trcEvent_keeps | apply State.updSrv_keeps | apply State.updEng_keeps | apply State.bump_keeps | apply State.wb_keeps | apply kept_ite | dsimp only | (refine kept_pair (by assumption) ?_) | (refine kept_opt (by assumption) ?_) | (refine kept_opt1 (by assumption) ?_) | (apply kept_mk; dsimp only; apply kept_un) | split

theorem State.endInst_keeps {qq : List Instr} (s : State) (e : Eng) (h_s : Kept qq s) :
    Kept qq (State.endInst s e) := by
  unfold State.endInst
  dsimp -failIfUnchanged only
  repeat' with_reducible first | assumption | (intro _) | apply State.beginInst_keeps | apply State.updEng_keeps | apply State.wr_keeps | dsimp only | (refine kept_pair (by assumption) ?_) | (refine kept_opt (by assumption) ?_) | (refine kept_opt1 (by assumption) ?_) | (apply kept_mk; dsimp only; apply kept_un) | split

theorem State.trcEnd_keeps {qq : List Instr} (s : State) (e : Eng) (h_s : Kept qq s) :
    Kept qq (State.trcEnd s e) := by
  unfold State.trcEnd
  dsimp -failIfUnchanged only
  repeat' with_reducible first | assumption | apply State.engIrq_keeps | apply State.wr_keeps | dsimp only

theorem State.engFault_keeps {qq : List Instr} (s : State) (e : Eng) (q : Nat) (stage : Nat) (cause : Nat) (addr : Nat) (h_s : Kept qq s) :
    Kept qq (State.engFault s e q stage cause addr) := by
  unfold State.engFault
  dsimp -failIfUnchanged only
  repeat' with_reducible first | assumption | (intro _) | apply State.trcEnd_keeps | apply State.engIrq_keeps | apply State.engRefresh_keeps | apply State.emergency_keeps | apply State.srvPins_keeps | apply State.trcEvent_keeps | apply State.updEng_keeps | apply State.wr_keeps | apply kept_ite | dsimp only | (refine kept_pair (by assumption) ?_) | (refine kept_opt (by assumption) ?_) | (refine kept_opt1 (by assumption) ?_) | (apply kept_mk; dsimp only; apply kept_un) | split

theorem State.lateDemod_keeps {qq : List Instr} (s : State) (e : Eng) (q : Nat) (h_s : Kept qq s) :
    Kept qq (State.lateDemod s e q) := by
  unfold State.lateDemod
  dsimp -failIfUnchanged only
  repeat' with_reducible first | assumption | (intro _) | apply State.irq_keeps | apply State.bump_keeps | apply kept_ite | dsimp only | (refine kept_pair (by assumption) ?_) | (refine kept_opt (by assumption) ?_) | (refine kept_opt1 (by assumption) ?_) | split

theorem State.trcSample_keeps {qq : List Instr} (s : State) (e : Eng) (tick : Nat) (h_s : Kept qq s) :
    Kept qq (State.trcSample s e tick) := by
  unfold State.trcSample
  dsimp -failIfUnchanged only
  repeat' with_reducible first | assumption | (intro _) | apply State.trcEnd_keeps | apply State.updEng_keeps | apply State.trace_keeps | apply State.wr_keeps | apply kept_ite | (refine kept_foldl ?_ (fun _ _ _ => ?_)) | (refine kept_foldl1 ?_ (fun _ _ _ => ?_)) | (refine kept_foldl2 ?_ (fun _ _ _ => ?_)) | dsimp only | (apply kept_mk; dsimp only; apply kept_un) | split

theorem State.trcEval_keeps {qq : List Instr} (s : State) (e : Eng) (q : Nat) (tick : Nat) (h_s : Kept qq s) :
    Kept qq (State.trcEval s e q tick) := by
  unfold State.trcEval
  dsimp -failIfUnchanged only
  repeat' with_reducible first | assumption | (intro _) | apply State.trcSample_keeps | apply State.updEng_keeps | apply kept_ite | dsimp only | (apply kept_mk; dsimp only; apply kept_un) | split

theorem State.storeX_keeps {qq : List Instr} (s : State) (e : Eng) (q : Nat) (v : BVec) (h_s : Kept qq s) :
    Kept qq (State.storeX s e q v) := by
  unfold State.storeX
  dsimp -failIfUnchanged only
  repeat' with_reducible first | assumption | (intro _) | apply State.updEng_keeps | (refine kept_foldl ?_ (fun _ _ _ => ?_)) | (refine kept_foldl1 ?_ (fun _ _ _ => ?_)) | (refine kept_foldl2 ?_ (fun _ _ _ => ?_)) | dsimp only | (apply kept_mk; dsimp only; apply kept_un)

theorem State.evaluate_keeps {qq : List Instr} (s : State) (e : Eng) (q : Nat) (inp : EngIn) (tick : Nat) (h_s : Kept qq s) :
    Kept qq (State.evaluate s e q inp tick) := by
  unfold State.evaluate
  dsimp -failIfUnchanged only
  repeat' with_reducible first | assumption | (intro _) | apply State.storeX_keeps | apply State.trcEval_keeps | apply State.lateDemod_keeps | apply State.engFault_keeps | apply State.deliver_keeps | apply State.coupling_keeps | dsimp only | (refine kept_pair (by assumption) ?_) | (refine kept_opt (by assumption) ?_) | (refine kept_opt1 (by assumption) ?_) | split

theorem State.idleSwap_keeps {qq : List Instr} (s : State) (e : Eng) (h_s : Kept qq s) :
    Kept qq (State.idleSwap s e) := by
  unfold State.idleSwap
  dsimp -failIfUnchanged only
  repeat' with_reducible first | assumption | apply State.doSwap_keeps | apply kept_ite | dsimp only | split

theorem State.profShow_keeps {qq : List Instr} (s : State) (e : Eng) (h_s : Kept qq s) :
    Kept qq (State.profShow s e) := by
  unfold State.profShow
  dsimp -failIfUnchanged only
  repeat' with_reducible first | assumption | (intro _) | apply State.wr_keeps | dsimp only

theorem State.profTick_keeps {qq : List Instr} (s : State) (e : Eng) (i : TickInst) (h_s : Kept qq s) :
    Kept qq (State.profTick s e i) := by
  unfold State.profTick
  dsimp -failIfUnchanged only
  repeat' with_reducible first | assumption | (intro _) | apply State.profShow_keeps | apply State.busyFell_keeps | apply State.engIrq_keeps | apply State.updEng_keeps | apply State.wr_keeps | apply kept_ite | dsimp only | (refine kept_pair (by assumption) ?_) | (refine kept_opt (by assumption) ?_) | (refine kept_opt1 (by assumption) ?_) | (apply kept_mk; dsimp only; apply kept_un) | split

theorem State.setProfP_keeps {qq : List Instr} (s : State) (e : Eng) (p : Int) (h_s : Kept qq s) :
    Kept qq (State.setProfP s e p) := by
  unfold State.setProfP
  dsimp -failIfUnchanged only
  repeat' with_reducible first | assumption | (intro _) | apply State.profShow_keeps | apply State.updEng_keeps | apply kept_ite | dsimp only | (apply kept_mk; dsimp only; apply kept_un) | split

theorem State.waitInst_keeps {qq : List Instr} (s : State) (e : Eng) (i : TickInst) (h_s : Kept qq s) :
    Kept qq (State.waitInst s e i) := by
  unfold State.waitInst
  dsimp -failIfUnchanged only
  repeat' with_reducible first | assumption | (intro _) | apply State.engIrq_keeps | apply State.trcEvent_keeps | apply State.updEng_keeps | apply State.bump_keeps | apply kept_ite | dsimp only | (apply kept_mk; dsimp only; apply kept_un) | split

theorem execCoefWrite_keeps {qq : List Instr} (e : Eng) (val : Word) (s : State) (h_s : Kept qq s) :
    Out.Kept qq (execCoefWrite e val s) := by
  unfold execCoefWrite
  dsimp -failIfUnchanged only
  repeat' with_reducible first | assumption | (intro _) | apply State.coefInc_keeps | apply State.engIrq_keeps | apply State.updEng_keeps | apply State.gated_keeps | apply kept_next | apply kept_ite3 | apply kept_ite | dsimp only | (apply kept_mk; dsimp only; apply kept_un) | split

theorem execEngCntClr_keeps {qq : List Instr} (e : Eng) (s : State) (h_s : Kept qq s) :
    Out.Kept qq (execEngCntClr e s) := by
  unfold execEngCntClr
  dsimp -failIfUnchanged only
  repeat' with_reducible first | assumption | (intro _) | apply State.gated_keeps | apply State.wr_keeps | apply kept_next | apply kept_ite3 | dsimp only

theorem execEngSwap_keeps {qq : List Instr} (e : Eng) (s : State) (h_s : Kept qq s) :
    Out.Kept qq (execEngSwap e s) := by
  unfold execEngSwap
  dsimp -failIfUnchanged only
  repeat' with_reducible first | assumption | (intro _) | apply State.idleSwap_keeps | apply State.gated_keeps | apply State.wr_keeps | apply kept_next | apply kept_ite3 | dsimp only

theorem execEngineTick_keeps {qq : List Instr} (e : Eng) (s : State) (h_s : Kept qq s) :
    Out.Kept qq (execEngineTick e s) := by
  unfold execEngineTick
  dsimp -failIfUnchanged only
  repeat' with_reducible first | assumption | (intro _) | apply State.waitInst_keeps | apply State.profTick_keeps | apply State.beginInst_keeps | apply State.updEng_keeps | apply kept_next | apply kept_ite3 | apply kept_ite | dsimp only | (apply kept_mk; dsimp only; apply kept_un) | split

theorem execFaultClr_keeps {qq : List Instr} (e : Eng) (s : State) (h_s : Kept qq s) :
    Out.Kept qq (execFaultClr e s) := by
  unfold execFaultClr
  dsimp -failIfUnchanged only
  repeat' with_reducible first | assumption | (intro _) | apply State.engRefresh_keeps | apply State.updEng_keeps | apply State.gated_keeps | apply kept_next | apply kept_ite3 | apply kept_ite | dsimp only | (apply kept_mk; dsimp only; apply kept_un) | split

theorem execProfGo_keeps {qq : List Instr} (t : Tower) (s : State) (h_s : Kept qq s) :
    Out.Kept qq (execProfGo t s) := by
  unfold execProfGo
  dsimp -failIfUnchanged only
  repeat' with_reducible first | assumption | (intro _) | apply State.busyRose_keeps | apply State.updEng_keeps | apply State.gated_keeps | apply State.wr_keeps | apply kept_next | apply kept_ite3 | apply kept_ite | dsimp only | (apply kept_mk; dsimp only; apply kept_un) | split

theorem execProfPWrite_keeps {qq : List Instr} (t : Tower) (val : Word) (s : State) (h_s : Kept qq s) :
    Out.Kept qq (execProfPWrite t val s) := by
  unfold execProfPWrite
  dsimp -failIfUnchanged only
  repeat' with_reducible first | assumption | (intro _) | apply State.setProfP_keeps | apply State.gated_keeps | apply kept_next | apply kept_ite3 | dsimp only

theorem execSlotCfgWrite_keeps {qq : List Instr} (e : Eng) (kind : Nat) (n : Nat) (val : Word) (s : State) (h_s : Kept qq s) :
    Out.Kept qq (execSlotCfgWrite e kind n val s) := by
  unfold execSlotCfgWrite
  dsimp -failIfUnchanged only
  repeat' with_reducible first | assumption | (intro _) | apply State.engIrq_keeps | apply State.gated_keeps | apply State.setReg_keeps | apply kept_next | apply kept_ite3 | apply kept_ite | apply kept_ite1 | dsimp only | split

theorem execSlotEnWrite_keeps {qq : List Instr} (e : Eng) (val : Word) (s : State) (h_s : Kept qq s) :
    Out.Kept qq (execSlotEnWrite e val s) := by
  unfold execSlotEnWrite
  dsimp -failIfUnchanged only
  repeat' with_reducible first | assumption | (intro _) | apply State.idleSwap_keeps | apply State.engIrq_keeps | apply State.updEng_keeps | apply State.gated_keeps | apply State.wr_keeps | apply kept_next | apply kept_ite3 | apply kept_ite | dsimp only | (refine kept_pair (by assumption) ?_) | (refine kept_opt (by assumption) ?_) | (refine kept_opt1 (by assumption) ?_) | (apply kept_mk; dsimp only; apply kept_un) | split

theorem execSlotEvaluation_keeps {qq : List Instr} (e : Eng) (inp : EngIn) (s : State) (h_s : Kept qq s) :
    Out.Kept qq (execSlotEvaluation e inp s) := by
  unfold execSlotEvaluation
  dsimp -failIfUnchanged only
  repeat' with_reducible first | assumption | (intro _) | apply State.evaluate_keeps | apply State.endInst_keeps | apply State.updEng_keeps | apply kept_next | apply kept_ite3 | apply kept_ite | dsimp only | (refine kept_pair (by assumption) ?_) | (refine kept_opt (by assumption) ?_) | (refine kept_opt1 (by assumption) ?_) | (apply kept_mk; dsimp only; apply kept_un) | split

theorem execTraceArm_keeps {qq : List Instr} (e : Eng) (s : State) (h_s : Kept qq s) :
    Out.Kept qq (execTraceArm e s) := by
  unfold execTraceArm
  dsimp -failIfUnchanged only
  repeat' with_reducible first | assumption | (intro _) | apply State.updEng_keeps | apply State.gated_keeps | apply State.wr_keeps | apply kept_next | apply kept_ite3 | dsimp only | (apply kept_mk; dsimp only; apply kept_un)

theorem execTraceForce_keeps {qq : List Instr} (e : Eng) (s : State) (h_s : Kept qq s) :
    Out.Kept qq (execTraceForce e s) := by
  unfold execTraceForce
  dsimp -failIfUnchanged only
  repeat' with_reducible first | assumption | (intro _) | apply State.updEng_keeps | apply State.gated_keeps | apply kept_next | apply kept_ite3 | apply kept_ite | dsimp only | (apply kept_mk; dsimp only; apply kept_un) | split

end Sys2Proof.Machine
end

