-- ==== Sys2Proof/Laws/KeepSrv.lean ====
section
/-! SUPPORT. Each operation of Machine/Srv.lean leaves the register file and memory canonical and the queue as it is. -/

set_option linter.unusedTactic false
set_option linter.unreachableTactic false
set_option maxRecDepth 8000

namespace Sys2Proof.Machine

theorem State.deliverPos_keeps {qq : List Instr} (s : State) (t : Tower) (p : Int) (valid : Bool) (h_s : Kept qq s) :
    Kept qq (State.deliverPos s t p valid) := by
  unfold State.deliverPos
  dsimp -failIfUnchanged only
  repeat' with_reducible first | assumption | (intro _) | apply State.wrI_keeps | apply State.updSrv_keeps | apply State.wb_keeps | apply State.wr_keeps | apply kept_ite | dsimp only | (apply kept_mk; dsimp only; apply kept_un) | split

theorem State.loadDone_keeps {qq : List Instr} (s : State) (t : Tower) (h_s : Kept qq s) :
    Kept qq (State.loadDone s t) := by
  unfold State.loadDone
  dsimp -failIfUnchanged only
  repeat' with_reducible first | assumption | (intro _) | apply State.setProfP_keeps | apply State.setMode_keeps | apply State.updSrv_keeps | apply State.wr_keeps | dsimp only | (apply kept_mk; dsimp only; apply kept_un)

theorem State.srvIrq_keeps {qq : List Instr} (s : State) (t : Tower) (bit : Nat) (h_s : Kept qq s) :
    Kept qq (State.srvIrq s t bit) := by
  unfold State.srvIrq
  dsimp -failIfUnchanged only
  repeat' with_reducible first | assumption | apply State.irq_keeps | dsimp only

theorem State.missStep_keeps {qq : List Instr} (s : State) (t : Tower) (valid : Bool) (h_s : Kept qq s) :
    Kept qq (State.missStep s t valid) := by
  unfold State.missStep
  dsimp -failIfUnchanged only
  repeat' with_reducible first | assumption | (intro _) | apply State.srvIrq_keeps | apply State.emergency_keeps | apply State.updSrv_keeps | apply State.bump_keeps | apply kept_ite | dsimp only | (apply kept_mk; dsimp only; apply kept_un) | split

theorem State.modeStep_keeps {qq : List Instr} (s : State) (t : Tower) (valid : Bool) (pes : Int) (h_s : Kept qq s) :
    Kept qq (State.modeStep s t valid pes) := by
  unfold State.modeStep
  dsimp -failIfUnchanged only
  repeat' with_reducible first | assumption | (intro _) | apply State.srvIrq_keeps | apply State.loadDone_keeps | apply State.setMode_keeps | apply State.updSrv_keeps | apply kept_ite | dsimp only | (apply kept_mk; dsimp only; apply kept_un) | split

theorem State.otwStep_keeps {qq : List Instr} (s : State) (t : Tower) (valid : Bool) (pes : Int) (prev : Int) (h_s : Kept qq s) :
    Kept qq (State.otwStep s t valid pes prev) := by
  unfold State.otwStep
  dsimp -failIfUnchanged only
  repeat' with_reducible first | assumption | (intro _) | apply State.setOtwi_keeps | apply State.updSrv_keeps | apply State.wr_keeps | apply kept_ite | dsimp only | (apply kept_mk; dsimp only; apply kept_un) | split

theorem State.resettle_keeps {qq : List Instr} (s : State) (t : Tower) (h_s : Kept qq s) :
    Kept qq (State.resettle s t) := by
  unfold State.resettle
  dsimp -failIfUnchanged only
  repeat' with_reducible first | assumption | apply State.setMode_keeps | apply kept_ite | dsimp only | split

theorem State.shockSet_keeps {qq : List Instr} (s : State) (t : Tower) (h_s : Kept qq s) :
    Kept qq (State.shockSet s t) := by
  unfold State.shockSet
  dsimp -failIfUnchanged only
  repeat' with_reducible first | assumption | (intro _) | apply State.srvIrq_keeps | apply State.setOtwi_keeps | apply State.updSrv_keeps | apply State.wr_keeps | apply kept_ite | dsimp only | (apply kept_mk; dsimp only; apply kept_un) | split

theorem State.shockConv_keeps {qq : List Instr} (s : State) (t : Tower) (s0 : Int) (s1 : Int) (h_s : Kept qq s) :
    Kept qq (State.shockConv s t s0 s1) := by
  unfold State.shockConv
  dsimp -failIfUnchanged only
  repeat' with_reducible first | assumption | (intro _) | apply State.shockSet_keeps | apply State.wrI_keeps | apply kept_ite | dsimp only | split

theorem State.toLoading_keeps {qq : List Instr} (s : State) (t : Tower) (h_s : Kept qq s) :
    Kept qq (State.toLoading s t) := by
  unfold State.toLoading
  dsimp -failIfUnchanged only
  repeat' with_reducible first | assumption | (intro _) | apply State.genStart_keeps | apply State.setMode_keeps | apply State.updSrv_keeps | apply State.updAtbT_keeps | dsimp only | (apply kept_mk; dsimp only; apply kept_un)

theorem State.toUnloading_keeps {qq : List Instr} (s : State) (t : Tower) (h_s : Kept qq s) :
    Kept qq (State.toUnloading s t) := by
  unfold State.toUnloading
  dsimp -failIfUnchanged only
  repeat' with_reducible first | assumption | apply State.genStart_keeps | apply State.setMode_keeps | dsimp only

theorem State.srvCmd_keeps {qq : List Instr} (s : State) (t : Tower) (b : Nat) (h_s : Kept qq s) :
    Kept qq (State.srvCmd s t b) := by
  unfold State.srvCmd
  dsimp -failIfUnchanged only
  repeat' with_reducible first | assumption | (intro _) | apply State.toUnloading_keeps | apply State.toLoading_keeps | apply State.srvIrq_keeps | apply State.emergency_keeps | apply State.toRetract_keeps | apply kept_ite | dsimp only | (refine kept_pair (by assumption) ?_) | (refine kept_opt (by assumption) ?_) | (refine kept_opt1 (by assumption) ?_) | split

theorem State.srvShutDone_keeps {qq : List Instr} (s : State) (t : Tower) (h_s : Kept qq s) :
    Kept qq (State.srvShutDone s t) := by
  unfold State.srvShutDone
  dsimp -failIfUnchanged only
  repeat' with_reducible first | assumption | apply State.engRefresh_keeps | apply State.shutDone_keeps | dsimp only

theorem State.srvStart_keeps {qq : List Instr} (s : State) (t : Tower) (h_s : Kept qq s) :
    Kept qq (State.srvStart s t) := by
  unfold State.srvStart
  dsimp -failIfUnchanged only
  repeat' with_reducible first | assumption | (intro _) | apply State.updSrv_keeps | dsimp only | (apply kept_mk; dsimp only; apply kept_un)

theorem State.srvStop_keeps {qq : List Instr} (s : State) (t : Tower) (h_s : Kept qq s) :
    Kept qq (State.srvStop s t) := by
  unfold State.srvStop
  dsimp -failIfUnchanged only
  repeat' with_reducible first | assumption | (intro _) | apply State.toUnloading_keeps | apply State.toRetract_keeps | apply kept_ite | dsimp only | split

theorem execDemodResult_keeps {qq : List Instr} (t : Tower) (ra : BurstIn) (rb : BurstIn) (s : State) (h_s : Kept qq s) :
    Out.Kept qq (execDemodResult t ra rb s) := by
  unfold execDemodResult
  dsimp -failIfUnchanged only
  repeat' with_reducible first | assumption | (intro _) | apply State.otwStep_keeps | apply State.modeStep_keeps | apply State.missStep_keeps | apply State.deliverPos_keeps | apply State.setOtwi_keeps | apply State.updSrv_keeps | apply State.drawn_keeps | apply State.bump_keeps | apply kept_next | apply kept_ite3 | apply kept_ite | dsimp only | (apply kept_mk; dsimp only; apply kept_un) | split

theorem execGenHoldEnd_keeps {qq : List Instr} (t : Tower) (s : State) (h_s : Kept qq s) :
    Out.Kept qq (execGenHoldEnd t s) := by
  unfold execGenHoldEnd
  dsimp -failIfUnchanged only
  repeat' with_reducible first | assumption | (intro _) | apply State.srvShutDone_keeps | apply State.srvIrq_keeps | apply State.setMode_keeps | apply State.updSrv_keeps | apply kept_next | apply kept_ite3 | apply kept_ite | dsimp only | (refine kept_pair (by assumption) ?_) | (refine kept_opt (by assumption) ?_) | (refine kept_opt1 (by assumption) ?_) | (apply kept_mk; dsimp only; apply kept_un) | split

theorem execGenMoveEnd_keeps {qq : List Instr} (t : Tower) (s : State) (h_s : Kept qq s) :
    Out.Kept qq (execGenMoveEnd t s) := by
  unfold execGenMoveEnd
  dsimp -failIfUnchanged only
  repeat' with_reducible first | assumption | (intro _) | apply State.updSrv_keeps | apply kept_next | apply kept_ite3 | apply kept_ite | dsimp only | (refine kept_pair (by assumption) ?_) | (refine kept_opt (by assumption) ?_) | (refine kept_opt1 (by assumption) ?_) | (apply kept_mk; dsimp only; apply kept_un) | split

theorem execGeneratorTick_keeps {qq : List Instr} (t : Tower) (vaux : Int) (vcmI : Int) (s : State) (h_s : Kept qq s) :
    Out.Kept qq (execGeneratorTick t vaux vcmI s) := by
  unfold execGeneratorTick
  dsimp -failIfUnchanged only
  repeat' with_reducible first | assumption | (intro _) | apply State.updSrv_keeps | apply kept_next | apply kept_ite3 | apply kept_ite | dsimp only | (refine kept_pair (by assumption) ?_) | (refine kept_opt (by assumption) ?_) | (refine kept_opt1 (by assumption) ?_) | (apply kept_mk; dsimp only; apply kept_un) | split

theorem execLoad_keeps {qq : List Instr} (t : Tower) (others : Word) (s : State) (h_s : Kept qq s) :
    Out.Kept qq (execLoad t others s) := by
  unfold execLoad
  dsimp -failIfUnchanged only
  repeat' with_reducible first | assumption | (intro _) | apply State.srvCmd_keeps | apply State.gated_keeps | apply kept_next | apply kept_ite3 | dsimp only

theorem execLoadTimeout_keeps {qq : List Instr} (t : Tower) (s : State) (h_s : Kept qq s) :
    Out.Kept qq (execLoadTimeout t s) := by
  unfold execLoadTimeout
  dsimp -failIfUnchanged only
  repeat' with_reducible first | assumption | apply State.toRetract_keeps | apply kept_next | apply kept_ite3 | apply kept_ite | dsimp only | split

theorem execRetract_keeps {qq : List Instr} (t : Tower) (others : Word) (s : State) (h_s : Kept qq s) :
    Out.Kept qq (execRetract t others s) := by
  unfold execRetract
  dsimp -failIfUnchanged only
  repeat' with_reducible first | assumption | (intro _) | apply State.srvCmd_keeps | apply State.gated_keeps | apply kept_next | apply kept_ite3 | dsimp only

theorem execShockConversion_keeps {qq : List Instr} (s0 : Int) (s1 : Int) (s : State) (h_s : Kept qq s) :
    Out.Kept qq (execShockConversion s0 s1 s) := by
  unfold execShockConversion
  dsimp -failIfUnchanged only
  repeat' with_reducible first | assumption | apply State.shockConv_keeps | apply kept_next | apply kept_ite3 | dsimp only

theorem execSrvHeadWrite_keeps {qq : List Instr} (t : Tower) (val : Word) (s : State) (h_s : Kept qq s) :
    Out.Kept qq (execSrvHeadWrite t val s) := by
  unfold execSrvHeadWrite
  dsimp -failIfUnchanged only
  repeat' with_reducible first | assumption | (intro _) | apply State.srvIrq_keeps | apply State.setOtwi_keeps | apply State.updSrv_keeps | apply State.gated_keeps | apply State.wr_keeps | apply kept_next | apply kept_ite3 | apply kept_ite | dsimp only | (apply kept_mk; dsimp only; apply kept_un) | split

theorem execSrvOffsetWrite_keeps {qq : List Instr} (t : Tower) (val : Word) (s : State) (h_s : Kept qq s) :
    Out.Kept qq (execSrvOffsetWrite t val s) := by
  unfold execSrvOffsetWrite
  dsimp -failIfUnchanged only
  repeat' with_reducible first | assumption | (intro _) | apply State.resettle_keeps | apply State.gated_keeps | apply State.wr_keeps | apply kept_next | apply kept_ite3 | dsimp only

theorem execSrvTrackWrite_keeps {qq : List Instr} (t : Tower) (val : Word) (s : State) (h_s : Kept qq s) :
    Out.Kept qq (execSrvTrackWrite t val s) := by
  unfold execSrvTrackWrite
  dsimp -failIfUnchanged only
  repeat' with_reducible first | assumption | (intro _) | apply State.resettle_keeps | apply State.gated_keeps | apply State.wr_keeps | apply kept_next | apply kept_ite3 | dsimp only

theorem execUnload_keeps {qq : List Instr} (t : Tower) (others : Word) (s : State) (h_s : Kept qq s) :
    Out.Kept qq (execUnload t others s) := by
  unfold execUnload
  dsimp -failIfUnchanged only
  repeat' with_reducible first | assumption | (intro _) | apply State.srvCmd_keeps | apply State.gated_keeps | apply kept_next | apply kept_ite3 | dsimp only

end Sys2Proof.Machine
end

