-- ==== Sys2Proof/Laws/KeepChn.lean ====
section
/-! SUPPORT. Each operation of Machine/Chn.lean leaves the register file and memory canonical and the queue as it is. -/

set_option linter.unusedTactic false
set_option linter.unreachableTactic false
set_option maxRecDepth 8000

namespace Sys2Proof.Machine

theorem State.updSlot_keeps {qq : List Instr} (s : State) (t : Tower) (k : Nat) (f : RbSlot → RbSlot) (h_s : Kept qq s) :
    Kept qq (State.updSlot s t k f) := by
  unfold State.updSlot
  dsimp -failIfUnchanged only
  repeat' with_reducible first | assumption | (intro _) | apply State.updChn_keeps | dsimp only | (apply kept_mk; dsimp only; apply kept_un)

theorem State.setAfe_keeps {qq : List Instr} (s : State) (t : Tower) (b : Bool) (a : AfeIn) (h_s : Kept qq s) :
    Kept qq (State.setAfe s t b a) := by
  unfold State.setAfe
  dsimp -failIfUnchanged only
  repeat' with_reducible first | assumption | apply State.afeSet_keeps | apply State.wr_keeps | dsimp only

theorem State.capStore_keeps {qq : List Instr} (s : State) (t : Tower) (k : Nat) (sampA : List Byte) (sampB : List Byte) (afeA : AfeIn) (afeB : AfeIn) (h_s : Kept qq s) :
    Kept qq (State.capStore s t k sampA sampB afeA afeB) := by
  unfold State.capStore
  dsimp -failIfUnchanged only
  repeat' with_reducible first | assumption | (intro _) | apply State.setAfe_keeps | apply State.updSlot_keeps | apply kept_ite | dsimp only | (apply kept_mk; dsimp only; apply kept_un) | split

theorem State.chnCoefInc_keeps {qq : List Instr} (s : State) (t : Tower) (h_s : Kept qq s) :
    Kept qq (State.chnCoefInc s t) := by
  unfold State.chnCoefInc
  dsimp -failIfUnchanged only
  repeat' with_reducible first | assumption | apply State.wr_keeps | apply kept_ite | dsimp only | split

theorem State.chnIrq_keeps {qq : List Instr} (s : State) (t : Tower) (bit : Nat) (h_s : Kept qq s) :
    Kept qq (State.chnIrq s t bit) := by
  unfold State.chnIrq
  dsimp -failIfUnchanged only
  repeat' with_reducible first | assumption | apply State.irq_keeps | dsimp only

theorem State.chnStart_keeps {qq : List Instr} (s : State) (t : Tower) (h_s : Kept qq s) :
    Kept qq (State.chnStart s t) := by
  unfold State.chnStart
  dsimp -failIfUnchanged only
  repeat' with_reducible first | assumption | (intro _) | apply State.regate_keeps | apply State.updChn_keeps | dsimp only | (apply kept_mk; dsimp only; apply kept_un)

theorem State.setPin_keeps {qq : List Instr} (s : State) (t : Tower) (k : Nat) (v : Bool) (h_s : Kept qq s) :
    Kept qq (State.setPin s t k v) := by
  unfold State.setPin
  dsimp -failIfUnchanged only
  repeat' with_reducible first | assumption | (intro _) | apply State.wb_keeps | apply State.wr_keeps | dsimp only

theorem State.setDepth_keeps {qq : List Instr} (s : State) (t : Tower) (h_s : Kept qq s) :
    Kept qq (State.setDepth s t) := by
  unfold State.setDepth
  dsimp -failIfUnchanged only
  repeat' with_reducible first | assumption | apply State.wr_keeps | dsimp only

theorem State.postAuto_keeps {qq : List Instr} (s : State) (t : Tower) (k : Nat) (modes : List Nat) (h_s : Kept qq s) :
    Kept qq (State.postAuto s t k modes) := by
  unfold State.postAuto
  dsimp -failIfUnchanged only
  repeat' with_reducible first | assumption | (intro _) | apply State.setDepth_keeps | apply State.chnIrq_keeps | apply State.updChn_keeps | apply kept_ite | dsimp only | (refine kept_pair (by assumption) ?_) | (refine kept_opt (by assumption) ?_) | (refine kept_opt1 (by assumption) ?_) | (apply kept_mk; dsimp only; apply kept_un) | split

theorem State.liveEnd_keeps {qq : List Instr} (s : State) (t : Tower) (k : Nat) (r : RecInfo) (h_s : Kept qq s) :
    Kept qq (State.liveEnd s t k r) := by
  unfold State.liveEnd
  dsimp -failIfUnchanged only
  repeat' with_reducible first | assumption | (intro _) | apply State.postAuto_keeps | apply State.setPin_keeps | apply State.updSlot_keeps | apply State.liveOutcome_keeps | apply kept_ite | dsimp only | (apply kept_mk; dsimp only; apply kept_un) | split

theorem State.setDec_keeps {qq : List Instr} (s : State) (t : Tower) (u : Unit3) (d : Option Decode) (h_s : Kept qq s) :
    Kept qq (State.setDec s t u d) := by
  unfold State.setDec
  dsimp -failIfUnchanged only
  repeat' with_reducible first | assumption | (intro _) | apply State.updChn_keeps | apply State.wb_keeps | dsimp only | (refine kept_pair (by assumption) ?_) | (refine kept_opt (by assumption) ?_) | (refine kept_opt1 (by assumption) ?_) | (apply kept_mk; dsimp only; apply kept_un) | split

theorem State.replayDec_keeps {qq : List Instr} (s : State) (t : Tower) (q : RpReq) (coef : List (Nat × Nat)) (k : Nat) (c : Cand) (rest : List Cand) (h_s : Kept qq s) :
    Kept qq (State.replayDec s t q coef k c rest) := by
  unfold State.replayDec
  dsimp -failIfUnchanged only
  repeat' with_reducible first | assumption | (intro _) | apply State.setDec_keeps | apply State.updSlot_keeps | dsimp only | (apply kept_mk; dsimp only; apply kept_un)

theorem State.replayEnd_keeps {qq : List Instr} (s : State) (t : Tower) (q : RpReq) (k : Nat) (cap : CapPlan) (r : RecInfo) (h_s : Kept qq s) :
    Kept qq (State.replayEnd s t q k cap r) := by
  unfold State.replayEnd
  dsimp -failIfUnchanged only
  repeat' with_reducible first | assumption | (intro _) | apply State.postAuto_keeps | apply State.sectorSeen_keeps | apply State.chnCounts_keeps | apply State.chnRecord_keeps | apply State.wr_keeps | apply kept_ite | dsimp only | split

theorem State.liveNext_keeps {qq : List Instr} (s : State) (t : Tower) (u : Unit3) (h_s : Kept qq s) :
    Kept qq (State.liveNext s t u) := by
  unfold State.liveNext
  dsimp -failIfUnchanged only
  repeat' with_reducible first | assumption | (intro _) | apply State.setDec_keeps | apply State.updChn_keeps | apply kept_ite | apply kept_ite1 | dsimp only | (refine kept_pair (by assumption) ?_) | (refine kept_opt (by assumption) ?_) | (refine kept_opt1 (by assumption) ?_) | (apply kept_mk; dsimp only; apply kept_un) | split

theorem State.decFail_keeps {qq : List Instr} (s : State) (t : Tower) (u : Unit3) (d : Decode) (outcome : Nat) (h_s : Kept qq s) :
    Kept qq (State.decFail s t u d outcome) := by
  unfold State.decFail
  dsimp -failIfUnchanged only
  repeat' with_reducible first | assumption | (intro _) | apply State.liveNext_keeps | apply State.replayEnd_keeps | apply State.replayDec_keeps | apply State.setDec_keeps | apply State.liveEnd_keeps | apply kept_ite | dsimp only | (refine kept_pair (by assumption) ?_) | (refine kept_opt (by assumption) ?_) | (refine kept_opt1 (by assumption) ?_) | split

theorem State.decAbort_keeps {qq : List Instr} (s : State) (t : Tower) (u : Unit3) (h_s : Kept qq s) :
    Kept qq (State.decAbort s t u) := by
  unfold State.decAbort
  dsimp -failIfUnchanged only
  repeat' with_reducible first | assumption | apply State.decFail_keeps | dsimp only | (refine kept_pair (by assumption) ?_) | (refine kept_opt (by assumption) ?_) | (refine kept_opt1 (by assumption) ?_) | (apply kept_mk; dsimp only; apply kept_un) | split

theorem State.crcAbort_keeps {qq : List Instr} (s : State) (t : Tower) (e : Unit3 × Decode) (h_s : Kept qq s) :
    Kept qq (State.crcAbort s t e) := by
  unfold State.crcAbort
  dsimp -failIfUnchanged only
  repeat' with_reducible first | assumption | apply State.replayEnd_keeps | apply State.liveEnd_keeps | apply kept_ite | apply kept_ite1 | dsimp only | split

theorem State.chnStop_keeps {qq : List Instr} (s : State) (t : Tower) (h_s : Kept qq s) :
    Kept qq (State.chnStop s t) := by
  unfold State.chnStop
  dsimp -failIfUnchanged only
  repeat' with_reducible first | assumption | (intro _) | apply State.crcAbort_keeps | apply State.decAbort_keeps | apply State.replayEnd_keeps | apply State.liveEnd_keeps | apply State.setDepth_keeps | apply State.winShut_keeps | apply State.capSettle_keeps | apply State.capCutAll_keeps | apply State.updChn_keeps | (refine kept_foldl ?_ (fun _ _ _ => ?_)) | (refine kept_foldl1 ?_ (fun _ _ _ => ?_)) | (refine kept_foldl2 ?_ (fun _ _ _ => ?_)) | dsimp only | (apply kept_mk; dsimp only; apply kept_un)

theorem State.deadline_keeps {qq : List Instr} (s : State) (t : Tower) (u : Unit3) (n : Nat) (h_s : Kept qq s) :
    Kept qq (State.deadline s t u n) := by
  unfold State.deadline
  dsimp -failIfUnchanged only
  repeat' with_reducible first | assumption | (intro _) | apply State.decFail_keeps | apply State.liveEnd_keeps | apply State.updChn_keeps | apply kept_ite | apply kept_ite1 | (refine kept_foldl ?_ (fun _ _ _ => ?_)) | (refine kept_foldl1 ?_ (fun _ _ _ => ?_)) | (refine kept_foldl2 ?_ (fun _ _ _ => ?_)) | dsimp only | (refine kept_pair (by assumption) ?_) | (refine kept_opt (by assumption) ?_) | (refine kept_opt1 (by assumption) ?_) | (apply kept_mk; dsimp only; apply kept_un) | split

theorem State.liveDec_keeps {qq : List Instr} (s : State) (t : Tower) (u : Unit3) (k : Nat) (c : Cand) (soft : List Int) (h_s : Kept qq s) :
    Kept qq (State.liveDec s t u k c soft) := by
  unfold State.liveDec
  dsimp -failIfUnchanged only
  repeat' with_reducible first | assumption | (intro _) | apply State.liveNext_keeps | apply State.updSlot_keeps | apply State.updChn_keeps | dsimp only | (apply kept_mk; dsimp only; apply kept_un)

theorem State.pinWrite_keeps {qq : List Instr} (s : State) (t : Tower) (op : Bool) (val : Word) (h_s : Kept qq s) :
    Kept qq (State.pinWrite s t op val) := by
  unfold State.pinWrite
  dsimp -failIfUnchanged only
  repeat' with_reducible first | assumption | (intro _) | apply State.setPin_keeps | apply State.chnIrq_keeps | apply State.wr_keeps | apply kept_ite | dsimp only | split

theorem State.refuseReq_keeps {qq : List Instr} (s : State) (t : Tower) (q : RpReq) (h_s : Kept qq s) :
    Kept qq (State.refuseReq s t q) := by
  unfold State.refuseReq
  dsimp -failIfUnchanged only
  repeat' with_reducible first | assumption | (intro _) | apply State.replayEnd_keeps | apply kept_ite | dsimp only | (apply kept_mk; dsimp only; apply kept_un) | split

theorem State.rpPush_keeps {qq : List Instr} (s : State) (t : Tower) (h_s : Kept qq s) :
    Kept qq (State.rpPush s t) := by
  unfold State.rpPush
  dsimp -failIfUnchanged only
  repeat' with_reducible first | assumption | (intro _) | apply State.refuseReq_keeps | apply State.setDepth_keeps | apply State.chnIrq_keeps | apply State.updChn_keeps | apply kept_ite | dsimp only | (apply kept_mk; dsimp only; apply kept_un) | split

theorem State.runReq_keeps {qq : List Instr} (s : State) (t : Tower) (q : RpReq) (h_s : Kept qq s) :
    Kept qq (State.runReq s t q) := by
  unfold State.runReq
  dsimp -failIfUnchanged only
  repeat' with_reducible first | assumption | (intro _) | apply State.replayEnd_keeps | apply State.replayDec_keeps | apply State.updSlot_keeps | apply State.drawn_keeps | apply State.bump_keeps | apply State.wr_keeps | apply kept_ite | dsimp only | (refine kept_pair (by assumption) ?_) | (refine kept_opt (by assumption) ?_) | (refine kept_opt1 (by assumption) ?_) | (apply kept_mk; dsimp only; apply kept_un) | split

theorem execChnCntClr_keeps {qq : List Instr} (t : Tower) (val : Word) (s : State) (h_s : Kept qq s) :
    Out.Kept qq (execChnCntClr t val s) := by
  unfold execChnCntClr
  dsimp -failIfUnchanged only
  repeat' with_reducible first | assumption | (intro _) | apply State.gated_keeps | apply State.setReg_keeps | apply kept_next | apply kept_ite3 | apply kept_ite | (refine kept_foldl ?_ (fun _ _ _ => ?_)) | (refine kept_foldl1 ?_ (fun _ _ _ => ?_)) | (refine kept_foldl2 ?_ (fun _ _ _ => ?_)) | dsimp only | split

theorem execChnCoefWrite_keeps {qq : List Instr} (t : Tower) (val : Word) (s : State) (h_s : Kept qq s) :
    Out.Kept qq (execChnCoefWrite t val s) := by
  unfold execChnCoefWrite
  dsimp -failIfUnchanged only
  repeat' with_reducible first | assumption | (intro _) | apply State.chnIrq_keeps | apply State.chnCoefInc_keeps | apply State.updChn_keeps | apply State.gated_keeps | apply kept_next | apply kept_ite3 | apply kept_ite | dsimp only | (apply kept_mk; dsimp only; apply kept_un) | split

theorem execChnRpPush_keeps {qq : List Instr} (t : Tower) (val : Word) (s : State) (h_s : Kept qq s) :
    Out.Kept qq (execChnRpPush t val s) := by
  unfold execChnRpPush
  dsimp -failIfUnchanged only
  repeat' with_reducible first | assumption | (intro _) | apply State.rpPush_keeps | apply State.gated_keeps | apply kept_next | apply kept_ite3 | apply kept_ite | dsimp only | split

theorem execCrcCheckDone_keeps {qq : List Instr} (t : Tower) (u : Unit3) (s : State) (h_s : Kept qq s) :
    Out.Kept qq (execCrcCheckDone t u s) := by
  unfold execCrcCheckDone
  dsimp -failIfUnchanged only
  repeat' with_reducible first | assumption | (intro _) | apply State.replayEnd_keeps | apply State.liveEnd_keeps | apply State.updChn_keeps | apply State.setBytes_keeps | apply State.drawn_keeps | apply kept_next | apply kept_ite3 | apply kept_ite | apply kept_ite1 | dsimp only | (refine kept_pair (by assumption) ?_) | (refine kept_opt (by assumption) ?_) | (refine kept_opt1 (by assumption) ?_) | (apply kept_mk; dsimp only; apply kept_un) | split

theorem execDetectorPassDone_keeps {qq : List Instr} (t : Tower) (u : Unit3) (s : State) (h_s : Kept qq s) :
    Out.Kept qq (execDetectorPassDone t u s) := by
  unfold execDetectorPassDone
  dsimp -failIfUnchanged only
  repeat' with_reducible first | assumption | apply State.setDec_keeps | apply State.drawn_keeps | apply kept_next | apply kept_ite3 | apply kept_ite | dsimp only | (refine kept_pair (by assumption) ?_) | (refine kept_opt (by assumption) ?_) | (refine kept_opt1 (by assumption) ?_) | split

theorem execEqAdaptUpdate_keeps {qq : List Instr} (t : Tower) (s : State) (h_s : Kept qq s) :
    Out.Kept qq (execEqAdaptUpdate t s) := by
  unfold execEqAdaptUpdate
  dsimp -failIfUnchanged only
  repeat' with_reducible first | assumption | (intro _) | apply State.updChn_keeps | apply State.drawn_keeps | apply kept_next | apply kept_ite3 | (refine kept_foldl ?_ (fun _ _ _ => ?_)) | (refine kept_foldl1 ?_ (fun _ _ _ => ?_)) | (refine kept_foldl2 ?_ (fun _ _ _ => ?_)) | dsimp only | (refine kept_pair (by assumption) ?_) | (refine kept_opt (by assumption) ?_) | (refine kept_opt1 (by assumption) ?_) | (apply kept_mk; dsimp only; apply kept_un) | split

theorem execFrontDetectorDone_keeps {qq : List Instr} (t : Tower) (verify : Bool) (sampA : List Byte) (sampB : List Byte) (afeA : AfeIn) (afeB : AfeIn) (s : State) (h_s : Kept qq s) :
    Out.Kept qq (execFrontDetectorDone t verify sampA sampB afeA afeB s) := by
  unfold execFrontDetectorDone
  dsimp -failIfUnchanged only
  repeat' with_reducible first | assumption | (intro _) | apply State.liveDec_keeps | apply State.deadline_keeps | apply State.liveEnd_keeps | apply State.capStore_keeps | apply State.updSlot_keeps | apply State.capSettle_keeps | apply State.updChn_keeps | apply State.drawn_keeps | apply State.bump_keeps | apply kept_next | apply kept_ite3 | apply kept_ite | apply kept_ite1 | dsimp only | (refine kept_pair (by assumption) ?_) | (refine kept_opt (by assumption) ?_) | (refine kept_opt1 (by assumption) ?_) | (apply kept_mk; dsimp only; apply kept_un) | split

theorem execLocalIterationDone_keeps {qq : List Instr} (t : Tower) (u : Unit3) (s : State) (h_s : Kept qq s) :
    Out.Kept qq (execLocalIterationDone t u s) := by
  unfold execLocalIterationDone
  split
  · exact h_s
  · split
    · exact h_s
    · generalize Decode.iterate _ _ _ = d1
      have h1 := State.drawn_keeps s h_s
      dsimp only
      repeat' with_reducible first | assumption | apply State.decFail_keeps | apply State.liveNext_keeps | apply State.setDec_keeps | apply State.updChn_keeps | apply kept_next | apply kept_ite3

theorem execRbPin_keeps {qq : List Instr} (t : Tower) (val : Word) (s : State) (h_s : Kept qq s) :
    Out.Kept qq (execRbPin t val s) := by
  unfold execRbPin
  dsimp -failIfUnchanged only
  repeat' with_reducible first | assumption | (intro _) | apply State.pinWrite_keeps | apply State.gated_keeps | apply kept_next | apply kept_ite3 | dsimp only

theorem execRbUnpin_keeps {qq : List Instr} (t : Tower) (val : Word) (s : State) (h_s : Kept qq s) :
    Out.Kept qq (execRbUnpin t val s) := by
  unfold execRbUnpin
  dsimp -failIfUnchanged only
  repeat' with_reducible first | assumption | (intro _) | apply State.pinWrite_keeps | apply State.gated_keeps | apply kept_next | apply kept_ite3 | dsimp only

theorem execReaderStreamOverflow_keeps {qq : List Instr} (t : Tower) (s : State) (h_s : Kept qq s) :
    Out.Kept qq (execReaderStreamOverflow t s) := by
  unfold execReaderStreamOverflow
  dsimp -failIfUnchanged only
  repeat' with_reducible first | assumption | (intro _) | apply State.capSettle_keeps | apply State.capCut_keeps | apply kept_next | apply kept_ite3 | dsimp only | (refine kept_pair (by assumption) ?_) | (refine kept_opt (by assumption) ?_) | (refine kept_opt1 (by assumption) ?_) | split

theorem execReplayStart_keeps {qq : List Instr} (t : Tower) (s : State) (h_s : Kept qq s) :
    Out.Kept qq (execReplayStart t s) := by
  unfold execReplayStart
  dsimp -failIfUnchanged only
  repeat' with_reducible first | assumption | (intro _) | apply State.runReq_keeps | apply State.refuseReq_keeps | apply State.setDepth_keeps | apply State.updChn_keeps | apply State.wr_keeps | apply kept_next | apply kept_ite3 | apply kept_ite | apply kept_ite1 | dsimp only | (refine kept_pair (by assumption) ?_) | (refine kept_opt (by assumption) ?_) | (refine kept_opt1 (by assumption) ?_) | (apply kept_mk; dsimp only; apply kept_un) | split

end Sys2Proof.Machine
end

