-- ==== Sys2Proof/Laws/KeepWr.lean ====
section
/-! SUPPORT. Each operation of Machine/Wr.lean leaves the register file and memory canonical and the queue as it is. -/

set_option linter.unusedTactic false
set_option linter.unreachableTactic false
set_option maxRecDepth 8000

namespace Sys2Proof.Machine

theorem State.cplIrq_keeps {qq : List Instr} (s : State) (t : Tower) (bit : Nat) (h_s : Kept qq s) :
    Kept qq (State.cplIrq s t bit) := by
  unfold State.cplIrq
  dsimp -failIfUnchanged only
  repeat' with_reducible first | assumption | apply State.irq_keeps | dsimp only

theorem State.cplFwDone_keeps {qq : List Instr} (s : State) (t : Tower) (err : Bool) (h_s : Kept qq s) :
    Kept qq (State.cplFwDone s t err) := by
  unfold State.cplFwDone
  dsimp -failIfUnchanged only
  repeat' with_reducible first | assumption | apply State.cplIrq_keeps | apply State.wb_keeps | apply State.wr_keeps | dsimp only

theorem State.cplStopEnd_keeps {qq : List Instr} (s : State) (t : Tower) (h_s : Kept qq s) :
    Kept qq (State.cplStopEnd s t) := by
  unfold State.cplStopEnd
  dsimp -failIfUnchanged only
  repeat' with_reducible first | assumption | (intro _) | apply State.cplFwDone_keeps | apply State.updCpl_keeps | apply State.shutDone_keeps | apply State.wr_keeps | apply kept_ite | dsimp only | (apply kept_mk; dsimp only; apply kept_un) | split

theorem State.lanShutDone_keeps {qq : List Instr} (s : State) (t : Tower) (h_s : Kept qq s) :
    Kept qq (State.lanShutDone s t) := by
  unfold State.lanShutDone
  dsimp -failIfUnchanged only
  repeat' with_reducible first | assumption | (intro _) | apply State.cplStopEnd_keeps | apply State.updLan_keeps | apply State.shutDone_keeps | apply kept_ite | dsimp only | (apply kept_mk; dsimp only; apply kept_un) | split

theorem State.lanStop_keeps {qq : List Instr} (s : State) (t : Tower) (h_s : Kept qq s) :
    Kept qq (State.lanStop s t) := by
  unfold State.lanStop
  dsimp -failIfUnchanged only
  repeat' with_reducible first | assumption | (intro _) | apply State.lanShutDone_keeps | apply State.regate_keeps | apply State.dropAG_keeps | apply State.updLan_keeps | apply State.wr_keeps | apply kept_ite | dsimp only | (apply kept_mk; dsimp only; apply kept_un) | split

theorem State.lanFault_keeps {qq : List Instr} (s : State) (t : Tower) (cause : Nat) (h_s : Kept qq s) :
    Kept qq (State.lanFault s t cause) := by
  unfold State.lanFault
  dsimp -failIfUnchanged only
  repeat' with_reducible first | assumption | (intro _) | apply State.lanStop_keeps | apply State.hwPost_keeps | apply State.faultStop_keeps | apply State.wr_keeps | dsimp only

theorem State.cplStop_keeps {qq : List Instr} (s : State) (t : Tower) (h_s : Kept qq s) :
    Kept qq (State.cplStop s t) := by
  unfold State.cplStop
  dsimp -failIfUnchanged only
  repeat' with_reducible first | assumption | (intro _) | apply State.lanFault_keeps | apply State.cplStopEnd_keeps | apply State.regate_keeps | apply State.updLan_keeps | apply State.updCpl_keeps | apply kept_ite | dsimp only | (apply kept_mk; dsimp only; apply kept_un) | split

theorem State.cplAdopt_keeps {qq : List Instr} (s : State) (t : Tower) (data : Nat) (h_s : Kept qq s) :
    Kept qq (State.cplAdopt s t data) := by
  unfold State.cplAdopt
  dsimp -failIfUnchanged only
  repeat' with_reducible first | assumption | (intro _) | apply State.cplStop_keeps | apply State.cplIrq_keeps | apply State.updCpl_keeps | apply State.faultStop_keeps | apply State.wr_keeps | apply kept_ite | dsimp only | (apply kept_mk; dsimp only; apply kept_un) | split

theorem State.cplLoopCheck_keeps {qq : List Instr} (s : State) (t : Tower) (data : Nat) (h_s : Kept qq s) :
    Kept qq (State.cplLoopCheck s t data) := by
  unfold State.cplLoopCheck
  dsimp -failIfUnchanged only
  repeat' with_reducible first | assumption | apply State.cplIrq_keeps | apply State.bump_keeps | apply kept_ite | dsimp only | split

theorem State.cplCaps_keeps {qq : List Instr} (s : State) (t : Tower) (data : Nat) (h_s : Kept qq s) :
    Kept qq (State.cplCaps s t data) := by
  unfold State.cplCaps
  dsimp -failIfUnchanged only
  repeat' with_reducible first | assumption | (intro _) | apply State.updCpl_keeps | apply State.wr_keeps | dsimp only | (apply kept_mk; dsimp only; apply kept_un)

theorem State.cplWritten_keeps {qq : List Instr} (s : State) (t : Tower) (f : CplFrame) (h_s : Kept qq s) :
    Kept qq (State.cplWritten s t f) := by
  unfold State.cplWritten
  dsimp -failIfUnchanged only
  repeat' with_reducible first | assumption | (intro _) | apply State.lanShutDone_keeps | apply State.cmpActNow_keeps | apply State.lanAssist_keeps | apply State.updLan_keeps | apply State.updCpl_keeps | apply State.setSt_keeps | apply kept_ite | dsimp only | (apply kept_mk; dsimp only; apply kept_un) | split

theorem State.cplAnswer_keeps {qq : List Instr} (s : State) (t : Tower) (f : CplFrame) (data : Nat) (h_s : Kept qq s) :
    Kept qq (State.cplAnswer s t f data) := by
  unfold State.cplAnswer
  dsimp -failIfUnchanged only
  repeat' with_reducible first | assumption | (intro _) | apply State.cplWritten_keeps | apply State.cplCaps_keeps | apply State.cplLoopCheck_keeps | apply State.cplAdopt_keeps | apply State.cplFwDone_keeps | apply State.updCpl_keeps | apply State.wr_keeps | apply kept_ite | dsimp only | (apply kept_mk; dsimp only; apply kept_un) | split

theorem State.cplRegCmd_keeps {qq : List Instr} (s : State) (t : Tower) (val : Word) (h_s : Kept qq s) :
    Kept qq (State.cplRegCmd s t val) := by
  unfold State.cplRegCmd
  dsimp -failIfUnchanged only
  repeat' with_reducible first | assumption | (intro _) | apply State.cplIrq_keeps | apply State.updCpl_keeps | apply State.wr_keeps | apply kept_ite | dsimp only | (apply kept_mk; dsimp only; apply kept_un) | split

theorem State.cplRespond_keeps {qq : List Instr} (s : State) (t : Tower) (f : CplFrame) (h_s : Kept qq s) :
    Kept qq (State.cplRespond s t f) := by
  unfold State.cplRespond
  dsimp -failIfUnchanged only
  repeat' with_reducible first | assumption | (intro _) | apply State.cplAnswer_keeps | apply State.updCpl_keeps | apply kept_ite | apply kept_ite1 | dsimp only | (apply kept_mk; dsimp only; apply kept_un) | split

theorem State.linkFault_keeps {qq : List Instr} (s : State) (t : Tower) (f : CplFrame) (h_s : Kept qq s) :
    Kept qq (State.linkFault s t f) := by
  unfold State.linkFault
  dsimp -failIfUnchanged only
  repeat' with_reducible first | assumption | (intro _) | apply State.cplStop_keeps | apply State.lanShutDone_keeps | apply State.cplFwDone_keeps | apply State.cplIrq_keeps | apply State.updCpl_keeps | apply State.faultStop_keeps | apply State.wr_keeps | apply kept_ite | dsimp only | (apply kept_mk; dsimp only; apply kept_un) | split

theorem State.cplRetry_keeps {qq : List Instr} (s : State) (t : Tower) (f : CplFrame) (h_s : Kept qq s) :
    Kept qq (State.cplRetry s t f) := by
  unfold State.cplRetry
  dsimp -failIfUnchanged only
  repeat' with_reducible first | assumption | (intro _) | apply State.linkFault_keeps | apply State.cplStop_keeps | apply State.updCpl_keeps | apply State.faultStop_keeps | apply kept_ite | dsimp only | (apply kept_mk; dsimp only; apply kept_un) | split

theorem State.cplSend_keeps {qq : List Instr} (s : State) (t : Tower) (h_s : Kept qq s) :
    Kept qq (State.cplSend s t) := by
  unfold State.cplSend
  dsimp -failIfUnchanged only
  repeat' with_reducible first | assumption | (intro _) | apply State.cplRespond_keeps | apply State.updCpl_keeps | apply kept_ite | dsimp only | (refine kept_pair (by assumption) ?_) | (refine kept_opt (by assumption) ?_) | (refine kept_opt1 (by assumption) ?_) | (apply kept_mk; dsimp only; apply kept_un) | split

theorem State.cplStart_keeps {qq : List Instr} (s : State) (t : Tower) (h_s : Kept qq s) :
    Kept qq (State.cplStart s t) := by
  unfold State.cplStart
  dsimp -failIfUnchanged only
  repeat' with_reducible first | assumption | (intro _) | apply State.updLan_keeps | apply State.updCpl_keeps | apply State.wr_keeps | dsimp only | (apply kept_mk; dsimp only; apply kept_un)

theorem State.lanStart_keeps {qq : List Instr} (s : State) (t : Tower) (h_s : Kept qq s) :
    Kept qq (State.lanStart s t) := by
  unfold State.lanStart
  dsimp -failIfUnchanged only
  repeat' with_reducible first | assumption | (intro _) | apply State.lanFault_keeps | apply State.updLan_keeps | apply State.setSt_keeps | apply State.wr_keeps | apply kept_ite | dsimp only | (apply kept_mk; dsimp only; apply kept_un) | split

theorem State.ptabWrite_keeps {qq : List Instr} (s : State) (t : Tower) (val : Word) (h_s : Kept qq s) :
    Kept qq (State.ptabWrite s t val) := by
  unfold State.ptabWrite
  dsimp -failIfUnchanged only
  repeat' with_reducible first | assumption | (intro _) | apply State.lanAssist_keeps | apply State.updLan_keeps | apply State.wr_keeps | apply kept_ite | dsimp only | (apply kept_mk; dsimp only; apply kept_un) | split

theorem State.rampEnd_keeps {qq : List Instr} (s : State) (t : Tower) (h_s : Kept qq s) :
    Kept qq (State.rampEnd s t) := by
  unfold State.rampEnd
  dsimp -failIfUnchanged only
  repeat' with_reducible first | assumption | (intro _) | apply State.lanAssist_keeps | apply State.updLan_keeps | apply State.irq_keeps | apply State.setSt_keeps | apply State.wr_keeps | apply kept_ite | dsimp only | (apply kept_mk; dsimp only; apply kept_un) | split

theorem State.rampStep_keeps {qq : List Instr} (s : State) (t : Tower) (target : Nat) (h_s : Kept qq s) :
    Kept qq (State.rampStep s t target) := by
  unfold State.rampStep
  dsimp -failIfUnchanged only
  repeat' with_reducible first | assumption | (intro _) | apply State.rampEnd_keeps | apply State.updLan_keeps | apply State.updCpl_keeps | apply kept_ite | dsimp only | (apply kept_mk; dsimp only; apply kept_un) | split

theorem State.sentNow_keeps {qq : List Instr} (s : State) (t : Tower) (n : Nat) (bits : List Byte) (h_s : Kept qq s) :
    Kept qq (State.sentNow s t n bits) := by
  unfold State.sentNow
  dsimp -failIfUnchanged only
  repeat' with_reducible first | assumption | (intro _) | apply State.updChn_keeps | apply kept_ite | dsimp only | (apply kept_mk; dsimp only; apply kept_un) | split

theorem State.setTrim_keeps {qq : List Instr} (s : State) (t : Tower) (h : Nat) (x : Int) (h_s : Kept qq s) :
    Kept qq (State.setTrim s t h x) := by
  unfold State.setTrim
  dsimp -failIfUnchanged only
  repeat' with_reducible first | assumption | apply State.wrI_keeps | dsimp only

theorem State.thermalAbort_keeps {qq : List Instr} (s : State) (t : Tower) (h : Nat) (h_s : Kept qq s) :
    Kept qq (State.thermalAbort s t h) := by
  unfold State.thermalAbort
  dsimp -failIfUnchanged only
  repeat' with_reducible first | assumption | (intro _) | apply State.setTrim_keeps | apply State.dropWG_keeps | apply State.setAG_keeps | apply State.lanAssist_keeps | apply State.updLan_keeps | apply State.hwPost_keeps | apply State.irq_keeps | apply State.bump_keeps | apply State.wr_keeps | apply kept_ite | dsimp only | (apply kept_mk; dsimp only; apply kept_un) | split

theorem State.trimStep_keeps {qq : List Instr} (s : State) (t : Tower) (h : Nat) (code : Nat) (h_s : Kept qq s) :
    Kept qq (State.trimStep s t h code) := by
  unfold State.trimStep
  dsimp -failIfUnchanged only
  repeat' with_reducible first | assumption | (intro _) | apply State.setTrim_keeps | apply kept_ite | dsimp only | split

theorem State.twrStop_keeps {qq : List Instr} (s : State) (t : Tower) (h_s : Kept qq s) :
    Kept qq (State.twrStop s t) := by
  unfold State.twrStop
  dsimp -failIfUnchanged only
  repeat' with_reducible first | assumption | (intro _) | apply State.dropGates_keeps | apply State.sectorEnd_keeps | apply kept_ite | dsimp only | (refine kept_pair (by assumption) ?_) | (refine kept_opt (by assumption) ?_) | (refine kept_opt1 (by assumption) ?_) | split

theorem execCplAck_keeps {qq : List Instr} (t : Tower) (seq : Nat) (addr : Nat) (data : Nat) (s : State) (h_s : Kept qq s) :
    Out.Kept qq (execCplAck t seq addr data s) := by
  unfold execCplAck
  dsimp -failIfUnchanged only
  repeat' with_reducible first | assumption | apply State.cplAnswer_keeps | apply kept_next | apply kept_ite3 | apply kept_ite | dsimp only | (refine kept_pair (by assumption) ?_) | (refine kept_opt (by assumption) ?_) | (refine kept_opt1 (by assumption) ?_) | split

theorem execCplAnswerTimeout_keeps {qq : List Instr} (t : Tower) (s : State) (h_s : Kept qq s) :
    Out.Kept qq (execCplAnswerTimeout t s) := by
  unfold execCplAnswerTimeout
  dsimp -failIfUnchanged only
  repeat' with_reducible first | assumption | apply State.cplRetry_keeps | apply State.bump_keeps | apply kept_next | apply kept_ite3 | dsimp only | (refine kept_pair (by assumption) ?_) | (refine kept_opt (by assumption) ?_) | (refine kept_opt1 (by assumption) ?_) | split

theorem execCplBadFrame_keeps {qq : List Instr} (t : Tower) (kind : Nat) (s : State) (h_s : Kept qq s) :
    Out.Kept qq (execCplBadFrame t kind s) := by
  unfold execCplBadFrame
  dsimp -failIfUnchanged only
  repeat' with_reducible first | assumption | apply State.cplIrq_keeps | apply State.bump_keeps | apply kept_next | apply kept_ite3 | apply kept_ite | dsimp only | split

theorem execCplFaultFrame_keeps {qq : List Instr} (t : Tower) (status : Nat) (s : State) (h_s : Kept qq s) :
    Out.Kept qq (execCplFaultFrame t status s) := by
  unfold execCplFaultFrame
  dsimp -failIfUnchanged only
  repeat' with_reducible first | assumption | apply State.lanFault_keeps | apply State.wr_keeps | apply kept_next | apply kept_ite3 | apply kept_ite | dsimp only | split

theorem execCplFrameSend_keeps {qq : List Instr} (t : Tower) (s : State) (h_s : Kept qq s) :
    Out.Kept qq (execCplFrameSend t s) := by
  unfold execCplFrameSend
  dsimp -failIfUnchanged only
  repeat' with_reducible first | assumption | apply State.cplSend_keeps | apply kept_next | apply kept_ite3 | dsimp only

theorem execCplNak_keeps {qq : List Instr} (t : Tower) (seq : Nat) (s : State) (h_s : Kept qq s) :
    Out.Kept qq (execCplNak t seq s) := by
  unfold execCplNak
  dsimp -failIfUnchanged only
  repeat' with_reducible first | assumption | apply State.cplRetry_keeps | apply State.bump_keeps | apply kept_next | apply kept_ite3 | dsimp only | (refine kept_pair (by assumption) ?_) | (refine kept_opt (by assumption) ?_) | (refine kept_opt1 (by assumption) ?_) | split

theorem execCplRegGo_keeps {qq : List Instr} (t : Tower) (val : Word) (s : State) (h_s : Kept qq s) :
    Out.Kept qq (execCplRegGo t val s) := by
  unfold execCplRegGo
  dsimp -failIfUnchanged only
  repeat' with_reducible first | assumption | (intro _) | apply State.cplRegCmd_keeps | apply State.gated_keeps | apply kept_next | apply kept_ite3 | dsimp only

theorem execCplResetRelease_keeps {qq : List Instr} (t : Tower) (s : State) (h_s : Kept qq s) :
    Out.Kept qq (execCplResetRelease t s) := by
  unfold execCplResetRelease
  dsimp -failIfUnchanged only
  repeat' with_reducible first | assumption | (intro _) | apply State.updCpl_keeps | apply kept_next | apply kept_ite3 | apply kept_ite | dsimp only | (apply kept_mk; dsimp only; apply kept_un) | split

theorem execCplVersionRead_keeps {qq : List Instr} (t : Tower) (s : State) (h_s : Kept qq s) :
    Out.Kept qq (execCplVersionRead t s) := by
  unfold execCplVersionRead
  dsimp -failIfUnchanged only
  repeat' with_reducible first | assumption | (intro _) | apply State.cplSend_keeps | apply State.updCpl_keeps | apply kept_next | apply kept_ite3 | apply kept_ite | dsimp only | (apply kept_mk; dsimp only; apply kept_un) | split

theorem execHoldoffEnd_keeps {qq : List Instr} (t : Tower) (s : State) (h_s : Kept qq s) :
    Out.Kept qq (execHoldoffEnd t s) := by
  unfold execHoldoffEnd
  dsimp -failIfUnchanged only
  repeat' with_reducible first | assumption | (intro _) | apply State.updLan_keeps | apply kept_next | apply kept_ite3 | apply kept_ite | dsimp only | (apply kept_mk; dsimp only; apply kept_un) | split

theorem execKeepalive_keeps {qq : List Instr} (t : Tower) (s : State) (h_s : Kept qq s) :
    Out.Kept qq (execKeepalive t s) := by
  unfold execKeepalive
  dsimp -failIfUnchanged only
  repeat' with_reducible first | assumption | (intro _) | apply State.cplSend_keeps | apply State.updCpl_keeps | apply kept_next | apply kept_ite3 | dsimp only | (apply kept_mk; dsimp only; apply kept_un)

theorem execLanBiasRampStep_keeps {qq : List Instr} (t : Tower) (s : State) (h_s : Kept qq s) :
    Out.Kept qq (execLanBiasRampStep t s) := by
  unfold execLanBiasRampStep
  dsimp -failIfUnchanged only
  repeat' with_reducible first | assumption | apply State.rampStep_keeps | apply State.lanShutDone_keeps | apply kept_next | apply kept_ite3 | apply kept_ite | dsimp only | (refine kept_pair (by assumption) ?_) | (refine kept_opt (by assumption) ?_) | (refine kept_opt1 (by assumption) ?_) | split

theorem execPtabWrite_keeps {qq : List Instr} (t : Tower) (val : Word) (s : State) (h_s : Kept qq s) :
    Out.Kept qq (execPtabWrite t val s) := by
  unfold execPtabWrite
  dsimp -failIfUnchanged only
  repeat' with_reducible first | assumption | (intro _) | apply State.ptabWrite_keeps | apply State.gated_keeps | apply kept_next | apply kept_ite3 | dsimp only

theorem execReadData_keeps {qq : List Instr} (t : Tower) (seq : Nat) (_addr : Nat) (data : Nat) (s : State) (h_s : Kept qq s) :
    Out.Kept qq (execReadData t seq _addr data s) := by
  unfold execReadData
  dsimp -failIfUnchanged only
  repeat' with_reducible first | assumption | apply State.cplAnswer_keeps | apply kept_next | apply kept_ite3 | dsimp only | (refine kept_pair (by assumption) ?_) | (refine kept_opt (by assumption) ?_) | (refine kept_opt1 (by assumption) ?_) | split

theorem execSectorWriteEnd_keeps {qq : List Instr} (t : Tower) (s : State) (h_s : Kept qq s) :
    Out.Kept qq (execSectorWriteEnd t s) := by
  unfold execSectorWriteEnd
  dsimp -failIfUnchanged only
  repeat' with_reducible first | assumption | apply State.sectorEnd_keeps | apply kept_next | apply kept_ite3 | apply kept_ite | dsimp only | (refine kept_pair (by assumption) ?_) | (refine kept_opt (by assumption) ?_) | (refine kept_opt1 (by assumption) ?_) | split

theorem execSectorWriteStart_keeps {qq : List Instr} (t : Tower) (encoded : Bool) (s : State) (h_s : Kept qq s) :
    Out.Kept qq (execSectorWriteStart t encoded s) := by
  unfold execSectorWriteStart
  dsimp -failIfUnchanged only
  repeat' with_reducible first | assumption | (intro _) | apply State.sentNow_keeps | apply State.sectorEnd_keeps | apply State.updTwr_keeps | apply State.drawn_keeps | apply kept_next | apply kept_ite3 | apply kept_ite | dsimp only | (refine kept_pair (by assumption) ?_) | (refine kept_opt (by assumption) ?_) | (refine kept_opt1 (by assumption) ?_) | (apply kept_mk; dsimp only; apply kept_un) | split

theorem execTelemetry_keeps {qq : List Instr} (t : Tower) (head : Nat) (code : Nat) (s : State) (h_s : Kept qq s) :
    Out.Kept qq (execTelemetry t head code s) := by
  unfold execTelemetry
  dsimp -failIfUnchanged only
  repeat' with_reducible first | assumption | (intro _) | apply State.trimStep_keeps | apply State.thermalAbort_keeps | apply State.lanFault_keeps | apply State.lanAssist_keeps | apply State.updLan_keeps | apply State.wr_keeps | apply kept_next | apply kept_ite3 | apply kept_ite | dsimp only | (apply kept_mk; dsimp only; apply kept_un) | split

theorem execTelemetryStrobe_keeps {qq : List Instr} (t : Tower) (s : State) (h_s : Kept qq s) :
    Out.Kept qq (execTelemetryStrobe t s) := by
  unfold execTelemetryStrobe
  dsimp -failIfUnchanged only
  repeat' with_reducible first | assumption | (intro _) | apply State.headWarn_keeps | apply State.wr_keeps | apply kept_next | apply kept_ite3 | apply kept_ite | dsimp only | split

end Sys2Proof.Machine
end

