-- ==== Sys2Proof/Laws/KeepLay.lean ====
section
/-! SUPPORT. Each operation of Machine/Lay.lean leaves the register file and memory canonical and the queue as it is. -/

set_option linter.unusedTactic false
set_option linter.unreachableTactic false
set_option maxRecDepth 8000

namespace Sys2Proof.Machine

theorem State.fwOffset_keeps {qq : List Instr} (s : State) (t : Tower) (v : Nat) (h_s : Kept qq s) :
    Kept qq (State.fwOffset s t v) := by
  unfold State.fwOffset
  dsimp -failIfUnchanged only
  repeat' with_reducible first | assumption | apply State.resettle_keeps | apply State.wr_keeps | dsimp only

theorem State.fwHeater_keeps {qq : List Instr} (s : State) (t : Tower) (code : Nat) (h_s : Kept qq s) :
    Kept qq (State.fwHeater s t code) := by
  unfold State.fwHeater
  dsimp -failIfUnchanged only
  repeat' with_reducible first | assumption | apply State.cplRegCmd_keeps | apply State.wr_keeps | dsimp only

theorem State.enterAttempt_keeps {qq : List Instr} (s : State) (t : Tower) (step : Nat) (att : Nat) (fac : Factory) (h_s : Kept qq s) :
    Kept qq (State.enterAttempt s t step att fac) := by
  unfold State.enterAttempt
  dsimp -failIfUnchanged only
  repeat' with_reducible first | assumption | apply State.fwHeater_keeps | apply State.fwOffset_keeps | apply kept_ite | dsimp only | split

theorem State.fwPost_keeps {qq : List Instr} (s : State) (code : Nat) (sev : Nat) (payload : List Byte) (h_s : Kept qq s) :
    Kept qq (State.fwPost s code sev payload) := by
  unfold State.fwPost
  dsimp -failIfUnchanged only
  repeat' with_reducible first | assumption | (intro _) | apply State.irq_keeps | apply State.drawn_keeps | apply State.bump_keeps | apply State.wr_keeps | apply kept_ite | dsimp only | (apply kept_mk; dsimp only; apply kept_un) | split

theorem State.updLay_keeps {qq : List Instr} (s : State) (t : Tower) (f : LayState → LayState) (h_s : Kept qq s) :
    Kept qq (State.updLay s t f) := by
  unfold State.updLay
  dsimp -failIfUnchanged only
  repeat' with_reducible first | assumption | (intro _) | dsimp only | (apply kept_mk; dsimp only; apply kept_un)

theorem State.setLadder_keeps {qq : List Instr} (s : State) (t : Tower) (l : Ladder) (h_s : Kept qq s) :
    Kept qq (State.setLadder s t l) := by
  unfold State.setLadder
  dsimp -failIfUnchanged only
  repeat' with_reducible first | assumption | (intro _) | apply State.updLay_keeps | dsimp only | (apply kept_mk; dsimp only; apply kept_un)

theorem State.fwRequest_keeps {qq : List Instr} (s : State) (t : Tower) (l : Ladder) (o : SeenOut) (w : List Word) (h_s : Kept qq s) :
    Kept qq (State.fwRequest s t l o w) := by
  unfold State.fwRequest
  dsimp -failIfUnchanged only
  repeat' with_reducible first | assumption | (intro _) | apply State.setLadder_keeps | apply State.setDepth_keeps | apply State.setPin_keeps | apply State.updChn_keeps | apply kept_ite | dsimp only | (apply kept_mk; dsimp only; apply kept_un) | split

theorem State.ladderAct_keeps {qq : List Instr} (s : State) (t : Tower) (l : Ladder) (outcome : Nat) (h_s : Kept qq s) :
    Kept qq (State.ladderAct s t l outcome) := by
  unfold State.ladderAct
  dsimp -failIfUnchanged only
  repeat' with_reducible first | assumption | (intro _) | apply State.updLay_keeps | apply kept_ite | dsimp only | (apply kept_mk; dsimp only; apply kept_un) | split

theorem State.unpinSector_keeps {qq : List Instr} (s : State) (t : Tower) (x : Sect) (h_s : Kept qq s) :
    Kept qq (State.unpinSector s t x) := by
  unfold State.unpinSector
  dsimp -failIfUnchanged only
  repeat' with_reducible first | assumption | (intro _) | apply State.setPin_keeps | (refine kept_foldl ?_ (fun _ _ _ => ?_)) | (refine kept_foldl1 ?_ (fun _ _ _ => ?_)) | (refine kept_foldl2 ?_ (fun _ _ _ => ?_)) | dsimp only

theorem State.leaveStep_keeps {qq : List Instr} (s : State) (t : Tower) (l : Ladder) (h_s : Kept qq s) :
    Kept qq (State.leaveStep s t l) := by
  unfold State.leaveStep
  dsimp -failIfUnchanged only
  repeat' with_reducible first | assumption | apply State.unpinSector_keeps | apply State.fwHeater_keeps | apply State.fwOffset_keeps | apply kept_ite | dsimp only | split

theorem State.ladderStep_keeps {qq : List Instr} (s : State) (t : Tower) (l : Ladder) (fac : Factory) (count : Nat) (h_s : Kept qq s) :
    Kept qq (State.ladderStep s t l fac count) := by
  unfold State.ladderStep
  dsimp -failIfUnchanged only
  repeat' with_reducible first | assumption | (intro _) | apply State.leaveStep_keeps | apply State.setLadder_keeps | apply State.updLay_keeps | apply State.enterAttempt_keeps | apply kept_ite | dsimp only | (refine kept_pair (by assumption) ?_) | (refine kept_opt (by assumption) ?_) | (refine kept_opt1 (by assumption) ?_) | (apply kept_mk; dsimp only; apply kept_un) | split

theorem execHeadRemoved_keeps {qq : List Instr} (t : Tower) (h : Nat) (s : State) (h_s : Kept qq s) :
    Out.Kept qq (execHeadRemoved t h s) := by
  unfold execHeadRemoved
  dsimp -failIfUnchanged only
  repeat' with_reducible first | assumption | (intro _) | apply State.leaveStep_keeps | apply State.unpinSector_keeps | apply State.updLay_keeps | apply kept_next | apply kept_ite3 | apply kept_ite | (refine kept_foldl ?_ (fun _ _ _ => ?_)) | (refine kept_foldl1 ?_ (fun _ _ _ => ?_)) | (refine kept_foldl2 ?_ (fun _ _ _ => ?_)) | dsimp only | (apply kept_mk; dsimp only; apply kept_un) | split

theorem execLadderAttempt_keeps {qq : List Instr} (t : Tower) (sec : Sect) (profile : Nat) (fac : Factory) (s : State) (h_s : Kept qq s) :
    Out.Kept qq (execLadderAttempt t sec profile fac s) := by
  unfold execLadderAttempt
  dsimp -failIfUnchanged only
  repeat' with_reducible first | assumption | (intro _) | apply State.ladderStep_keeps | apply State.fwRequest_keeps | apply State.setLadder_keeps | apply kept_next | apply kept_ite3 | apply kept_ite | dsimp only | (refine kept_pair (by assumption) ?_) | (refine kept_opt (by assumption) ?_) | (refine kept_opt1 (by assumption) ?_) | (apply kept_mk; dsimp only; apply kept_un) | split

theorem execLadderEnd_keeps {qq : List Instr} (t : Tower) (sec : Sect) (outcome : Nat) (s : State) (h_s : Kept qq s) :
    Out.Kept qq (execLadderEnd t sec outcome s) := by
  unfold execLadderEnd
  dsimp -failIfUnchanged only
  repeat' with_reducible first | assumption | (intro _) | apply State.leaveStep_keeps | apply State.unpinSector_keeps | apply State.ladderAct_keeps | apply State.updLay_keeps | apply State.fwPost_keeps | apply kept_next | apply kept_ite3 | apply kept_ite | dsimp only | (apply kept_mk; dsimp only; apply kept_un) | split

end Sys2Proof.Machine
end

