-- ==== Sys2Proof/Laws/KeepNet.lean ====
section
/-! SUPPORT. Each operation of Machine/Net.lean leaves the register file and memory canonical and the queue as it is. -/

set_option linter.unusedTactic false
set_option linter.unreachableTactic false
set_option maxRecDepth 8000

namespace Sys2Proof.Machine

theorem State.aotCount_keeps {qq : List Instr} (s : State) (n : Nat) (h_s : Kept qq s) :
    Kept qq (State.aotCount s n) := by
  unfold State.aotCount
  dsimp -failIfUnchanged only
  repeat' with_reducible first | assumption | apply State.bump_keeps | dsimp only

theorem State.updAot_keeps {qq : List Instr} (s : State) (f : AotState → AotState) (h_s : Kept qq s) :
    Kept qq (State.updAot s f) := by
  unfold State.updAot
  dsimp -failIfUnchanged only
  repeat' with_reducible first | assumption | (intro _) | dsimp only | (apply kept_mk; dsimp only; apply kept_un)

theorem State.aotIdle_keeps {qq : List Instr} (s : State) (h_s : Kept qq s) :
    Kept qq (State.aotIdle s) := by
  unfold State.aotIdle
  dsimp -failIfUnchanged only
  repeat' with_reducible first | assumption | (intro _) | apply State.updAot_keeps | apply State.shutDone_keeps | apply kept_ite | apply kept_ite1 | dsimp only | (apply kept_mk; dsimp only; apply kept_un) | split

theorem State.aotIrq_keeps {qq : List Instr} (s : State) (bit : Nat) (h_s : Kept qq s) :
    Kept qq (State.aotIrq s bit) := by
  unfold State.aotIrq
  dsimp -failIfUnchanged only
  repeat' with_reducible first | assumption | apply State.irq_keeps | dsimp only

theorem State.portTx_keeps {qq : List Instr} (s : State) (p : Nat) (r : TxRec) (h_s : Kept qq s) :
    Kept qq (State.portTx s p r) := by
  unfold State.portTx
  dsimp -failIfUnchanged only
  repeat' with_reducible first | assumption | apply State.bump_keeps | apply kept_ite | dsimp only | (apply kept_mk; dsimp only; apply kept_un) | split

theorem State.sessTx_keeps {qq : List Instr} (s : State) (i : Nat) (r : TxRec) (h_s : Kept qq s) :
    Kept qq (State.sessTx s i r) := by
  unfold State.sessTx
  dsimp -failIfUnchanged only
  repeat' with_reducible first | assumption | apply State.portTx_keeps | apply kept_ite | dsimp only | split

theorem State.setSess_keeps {qq : List Instr} (s : State) (i : Nat) (x : Sess) (h_s : Kept qq s) :
    Kept qq (State.setSess s i x) := by
  unfold State.setSess
  dsimp -failIfUnchanged only
  repeat' with_reducible first | assumption | (intro _) | apply State.updAot_keeps | apply State.wr_keeps | dsimp only | (apply kept_mk; dsimp only; apply kept_un)

theorem State.sendAck_keeps {qq : List Instr} (s : State) (i : Nat) (h_s : Kept qq s) :
    Kept qq (State.sendAck s i) := by
  unfold State.sendAck
  dsimp -failIfUnchanged only
  repeat' with_reducible first | assumption | (intro _) | apply State.setSess_keeps | apply State.sessTx_keeps | dsimp only | (refine kept_pair (by assumption) ?_) | (refine kept_opt (by assumption) ?_) | (refine kept_opt1 (by assumption) ?_) | (apply kept_mk; dsimp only; apply kept_un) | split

theorem State.updObj_keeps {qq : List Instr} (s : State) (f : ObjState → ObjState) (h_s : Kept qq s) :
    Kept qq (State.updObj s f) := by
  unfold State.updObj
  dsimp -failIfUnchanged only
  repeat' with_reducible first | assumption | (intro _) | dsimp only | (apply kept_mk; dsimp only; apply kept_un)

theorem State.dropCmd_keeps {qq : List Instr} (s : State) (i : Nat) (tag : Nat) (h_s : Kept qq s) :
    Kept qq (State.dropCmd s i tag) := by
  unfold State.dropCmd
  dsimp -failIfUnchanged only
  repeat' with_reducible first | assumption | (intro _) | apply State.updObj_keeps | dsimp only | (apply kept_mk; dsimp only; apply kept_un)

theorem State.updSess_keeps {qq : List Instr} (s : State) (i : Nat) (f : Sess → Sess) (h_s : Kept qq s) :
    Kept qq (State.updSess s i f) := by
  unfold State.updSess
  dsimp -failIfUnchanged only
  repeat' with_reducible first | assumption | (intro _) | apply State.setSess_keeps | dsimp only

theorem State.updTag_keeps {qq : List Instr} (s : State) (i : Nat) (tag : Nat) (f : NTag → NTag) (h_s : Kept qq s) :
    Kept qq (State.updTag s i tag f) := by
  unfold State.updTag
  dsimp -failIfUnchanged only
  repeat' with_reducible first | assumption | (intro _) | apply State.updSess_keeps | dsimp only | (apply kept_mk; dsimp only; apply kept_un)

theorem State.sendFirst_keeps {qq : List Instr} (s : State) (i : Nat) (p : RelPkt) (h_s : Kept qq s) :
    Kept qq (State.sendFirst s i p) := by
  unfold State.sendFirst
  dsimp -failIfUnchanged only
  repeat' with_reducible first | assumption | (intro _) | apply State.setSess_keeps | apply State.sessTx_keeps | dsimp only | (apply kept_mk; dsimp only; apply kept_un)

theorem State.pump_keeps {qq : List Instr} (s : State) (i : Nat) (h_s : Kept qq s) :
    Kept qq (State.pump s i) := by
  unfold State.pump
  dsimp -failIfUnchanged only
  repeat' with_reducible first | assumption | (intro _) | apply State.sendFirst_keeps | apply State.setSess_keeps | apply kept_ite | (refine kept_foldl ?_ (fun _ _ _ => ?_)) | (refine kept_foldl1 ?_ (fun _ _ _ => ?_)) | (refine kept_foldl2 ?_ (fun _ _ _ => ?_)) | dsimp only | (apply kept_mk; dsimp only; apply kept_un) | split

theorem State.resend_keeps {qq : List Instr} (s : State) (i : Nat) (p : RelPkt) (h_s : Kept qq s) :
    Kept qq (State.resend s i p) := by
  unfold State.resend
  dsimp -failIfUnchanged only
  repeat' with_reducible first | assumption | apply State.sessTx_keeps | apply State.aotCount_keeps | dsimp only | (apply kept_mk; dsimp only; apply kept_un)

theorem State.processAck_keeps {qq : List Instr} (s : State) (i : Nat) (h : AotHdr) (h_s : Kept qq s) :
    Kept qq (State.processAck s i h) := by
  unfold State.processAck
  dsimp -failIfUnchanged only
  repeat' with_reducible first | assumption | (intro _) | apply State.resend_keeps | apply State.pump_keeps | apply State.updTag_keeps | apply State.dropCmd_keeps | apply State.setSess_keeps | apply kept_ite | (refine kept_foldl ?_ (fun _ _ _ => ?_)) | (refine kept_foldl1 ?_ (fun _ _ _ => ?_)) | (refine kept_foldl2 ?_ (fun _ _ _ => ?_)) | dsimp only | (refine kept_pair (by assumption) ?_) | (refine kept_opt (by assumption) ?_) | (refine kept_opt1 (by assumption) ?_) | (apply kept_mk; dsimp only; apply kept_un) | split

theorem State.aotRx_keeps {qq : List Instr} (s : State) (typ : Nat) (h : AotHdr) (body : List Byte) (gtag : List Byte) (h_s : Kept qq s) :
    Kept qq (State.aotRx s typ h body gtag).1 := by
  unfold State.aotRx
  dsimp -failIfUnchanged only
  repeat' with_reducible first | assumption | (intro _) | apply State.processAck_keeps | apply State.sendAck_keeps | apply State.aotIrq_keeps | apply State.aotCount_keeps | apply kept_ite | apply kept_ite1 | dsimp only | (refine kept_pair (by assumption) ?_) | (refine kept_opt (by assumption) ?_) | (refine kept_opt1 (by assumption) ?_) | split

theorem State.setGcm_keeps {qq : List Instr} (s : State) (n : Nat) (k : Option Nat) (h_s : Kept qq s) :
    Kept qq (State.setGcm s n k) := by
  unfold State.setGcm
  dsimp -failIfUnchanged only
  repeat' with_reducible first | assumption | (intro _) | dsimp only | (apply kept_mk; dsimp only; apply kept_un)

theorem State.sendSeq_keeps {qq : List Instr} (s : State) (i : Nat) (typ : Nat) (flags : Nat) (tag : Nat) (gen : Nat) (off : Nat) (body : List Byte) (h_s : Kept qq s) :
    Kept qq (State.sendSeq s i typ flags tag gen off body) := by
  unfold State.sendSeq
  dsimp -failIfUnchanged only
  repeat' with_reducible first | assumption | (intro _) | apply State.setGcm_keeps | apply State.pump_keeps | apply State.setSess_keeps | apply kept_ite | dsimp only | (apply kept_mk; dsimp only; apply kept_un) | split

theorem State.updCmd_keeps {qq : List Instr} (s : State) (i : Nat) (tag : Nat) (f : Cmd → Cmd) (h_s : Kept qq s) :
    Kept qq (State.updCmd s i tag f) := by
  unfold State.updCmd
  dsimp -failIfUnchanged only
  repeat' with_reducible first | assumption | (intro _) | apply State.updObj_keeps | apply kept_ite | dsimp only | (apply kept_mk; dsimp only; apply kept_un) | split

theorem State.journalAdd_keeps {qq : List Instr} (s : State) (o : Obj) (change : Nat) (h_s : Kept qq s) :
    Kept qq (State.journalAdd s o change) := by
  unfold State.journalAdd
  dsimp -failIfUnchanged only
  repeat' with_reducible first | assumption | (intro _) | apply State.updObj_keeps | apply kept_ite | dsimp only | (apply kept_mk; dsimp only; apply kept_un) | split

theorem State.dropObj_keeps {qq : List Instr} (s : State) (v : Nat) (h : Nat) (h_s : Kept qq s) :
    Kept qq (State.dropObj s v h) := by
  unfold State.dropObj
  dsimp -failIfUnchanged only
  repeat' with_reducible first | assumption | (intro _) | apply State.journalAdd_keeps | apply State.updObj_keeps | apply State.updLay_keeps | apply kept_ite | dsimp only | (refine kept_pair (by assumption) ?_) | (refine kept_opt (by assumption) ?_) | (refine kept_opt1 (by assumption) ?_) | (apply kept_mk; dsimp only; apply kept_un) | split

theorem State.rawStore_keeps {qq : List Instr} (s : State) (t : Nat) (lba : Nat) (n : Nat) (b : List Byte) (h_s : Kept qq s) :
    Kept qq (State.rawStore s t lba n b) := by
  unfold State.rawStore
  dsimp -failIfUnchanged only
  repeat' with_reducible first | assumption | (intro _) | apply State.updObj_keeps | (refine kept_foldl ?_ (fun _ _ _ => ?_)) | (refine kept_foldl1 ?_ (fun _ _ _ => ?_)) | (refine kept_foldl2 ?_ (fun _ _ _ => ?_)) | dsimp only | (apply kept_mk; dsimp only; apply kept_un)

theorem State.rawPrefix_keeps {qq : List Instr} (s : State) (c : Cmd) (h_s : Kept qq s) :
    Kept qq (State.rawPrefix s c) := by
  unfold State.rawPrefix
  dsimp -failIfUnchanged only
  repeat' with_reducible first | assumption | (intro _) | apply State.rawStore_keeps | apply State.drawn_keeps | apply kept_ite | dsimp only | split

theorem State.stopCmd_keeps {qq : List Instr} (s : State) (c : Cmd) (h_s : Kept qq s) :
    Kept qq (State.stopCmd s c) := by
  unfold State.stopCmd
  dsimp -failIfUnchanged only
  repeat' with_reducible first | assumption | apply State.rawPrefix_keeps | apply State.dropObj_keeps | apply kept_ite | dsimp only | (refine kept_pair (by assumption) ?_) | (refine kept_opt (by assumption) ?_) | (refine kept_opt1 (by assumption) ?_) | split

theorem State.stopCmds_keeps {qq : List Instr} (s : State) (i : Nat) (h_s : Kept qq s) :
    Kept qq (State.stopCmds s i) := by
  unfold State.stopCmds
  dsimp -failIfUnchanged only
  repeat' with_reducible first | assumption | (intro _) | apply State.stopCmd_keeps | apply State.updCmd_keeps | (refine kept_foldl ?_ (fun _ _ _ => ?_)) | (refine kept_foldl1 ?_ (fun _ _ _ => ?_)) | (refine kept_foldl2 ?_ (fun _ _ _ => ?_)) | dsimp only | (apply kept_mk; dsimp only; apply kept_un)

theorem State.shut_keeps {qq : List Instr} (s : State) (i : Nat) (reason : Nat) (h_s : Kept qq s) :
    Kept qq (State.shut s i reason) := by
  unfold State.shut
  dsimp -failIfUnchanged only
  repeat' with_reducible first | assumption | (intro _) | apply State.stopCmds_keeps | apply State.sendSeq_keeps | apply State.updSess_keeps | dsimp only | (apply kept_mk; dsimp only; apply kept_un)

theorem State.sessFree_keeps {qq : List Instr} (s : State) (i : Nat) (h_s : Kept qq s) :
    Kept qq (State.sessFree s i) := by
  unfold State.sessFree
  dsimp -failIfUnchanged only
  repeat' with_reducible first | assumption | (intro _) | apply State.setGcm_keeps | apply State.updObj_keeps | apply State.setSess_keeps | apply State.aotIrq_keeps | (refine kept_foldl ?_ (fun _ _ _ => ?_)) | (refine kept_foldl1 ?_ (fun _ _ _ => ?_)) | (refine kept_foldl2 ?_ (fun _ _ _ => ?_)) | dsimp only | (apply kept_mk; dsimp only; apply kept_un)

theorem State.sessClose_keeps {qq : List Instr} (s : State) (i : Nat) (reason : Nat) (h_s : Kept qq s) :
    Kept qq (State.sessClose s i reason) := by
  unfold State.sessClose
  dsimp -failIfUnchanged only
  repeat' with_reducible first | assumption | apply State.sessFree_keeps | apply State.shut_keeps | apply State.aotIdle_keeps | apply State.aotCount_keeps | apply kept_ite | dsimp only | split

theorem State.aotStop_keeps {qq : List Instr} (s : State) (h_s : Kept qq s) :
    Kept qq (State.aotStop s) := by
  unfold State.aotStop
  dsimp -failIfUnchanged only
  repeat' with_reducible first | assumption | (intro _) | apply State.sessClose_keeps | apply State.aotIdle_keeps | apply State.updAot_keeps | (refine kept_foldl ?_ (fun _ _ _ => ?_)) | (refine kept_foldl1 ?_ (fun _ _ _ => ?_)) | (refine kept_foldl2 ?_ (fun _ _ _ => ?_)) | dsimp only | (apply kept_mk; dsimp only; apply kept_un)

theorem State.authAccepted_keeps {qq : List Instr} (s : State) (i : Nat) (a : Anchor) (msg : List Byte) (h_s : Kept qq s) :
    Kept qq (State.authAccepted s i a msg) := by
  unfold State.authAccepted
  dsimp -failIfUnchanged only
  repeat' with_reducible first | assumption | (intro _) | apply State.setGcm_keeps | apply State.setSess_keeps | dsimp only | (apply kept_mk; dsimp only; apply kept_un)

theorem State.sendRel_keeps {qq : List Instr} (s : State) (i : Nat) (typ : Nat) (flags : Nat) (tag : Nat) (gen : Nat) (off : Nat) (body : List Byte) (h_s : Kept qq s) :
    Kept qq (State.sendRel s i typ flags tag gen off body) := by
  unfold State.sendRel
  dsimp -failIfUnchanged only
  repeat' with_reducible first | assumption | apply State.shut_keeps | apply State.sendSeq_keeps | apply kept_ite | dsimp only | split

theorem State.finish_keeps {qq : List Instr} (s : State) (i : Nat) (tag : Nat) (status : Nat) (flags : Nat) (aux : List Byte) (result : List Byte) (ext : List (Nat × Nat)) (retry : optParam Nat 0) (h_s : Kept qq s) :
    Kept qq (State.finish s i tag status flags aux result ext retry) := by
  unfold State.finish
  dsimp -failIfUnchanged only
  repeat' with_reducible first | assumption | (intro _) | apply State.sendRel_keeps | apply State.updCmd_keeps | apply State.updTag_keeps | apply kept_ite | dsimp only | (apply kept_mk; dsimp only; apply kept_un) | split

theorem State.fail_keeps {qq : List Instr} (s : State) (i : Nat) (tag : Nat) (status : Nat) (h_s : Kept qq s) :
    Kept qq (State.fail s i tag status) := by
  unfold State.fail
  dsimp -failIfUnchanged only
  repeat' with_reducible first | assumption | apply State.finish_keeps | dsimp only

theorem State.deliverCmd_keeps {qq : List Instr} (s : State) (c : Cmd) (h_s : Kept qq s) :
    Kept qq (State.deliverCmd s c) := by
  unfold State.deliverCmd
  dsimp -failIfUnchanged only
  repeat' with_reducible first | assumption | (intro _) | apply State.fail_keeps | apply State.finish_keeps | apply State.updObj_keeps | apply State.activity_keeps | apply kept_ite | apply kept_ite1 | dsimp only | (refine kept_pair (by assumption) ?_) | (refine kept_opt (by assumption) ?_) | (refine kept_opt1 (by assumption) ?_) | (apply kept_mk; dsimp only; apply kept_un) | split

theorem State.endCmd_keeps {qq : List Instr} (s : State) (c : Cmd) (status : Nat) (h_s : Kept qq s) :
    Kept qq (State.endCmd s c status) := by
  unfold State.endCmd
  dsimp -failIfUnchanged only
  repeat' with_reducible first | assumption | apply State.finish_keeps | apply State.stopCmd_keeps | apply kept_ite | dsimp only | split

theorem State.endCmds_keeps {qq : List Instr} (s : State) (i : Nat) (below : Nat) (status : Nat) (h_s : Kept qq s) :
    Kept qq (State.endCmds s i below status) := by
  unfold State.endCmds
  dsimp -failIfUnchanged only
  repeat' with_reducible first | assumption | (intro _) | apply State.endCmd_keeps | (refine kept_foldl ?_ (fun _ _ _ => ?_)) | (refine kept_foldl1 ?_ (fun _ _ _ => ?_)) | (refine kept_foldl2 ?_ (fun _ _ _ => ?_)) | dsimp only

theorem State.ethCount_keeps {qq : List Instr} (s : State) (p : Nat) (n : Nat) (h_s : Kept qq s) :
    Kept qq (State.ethCount s p n) := by
  unfold State.ethCount
  dsimp -failIfUnchanged only
  repeat' with_reducible first | assumption | apply State.bump_keeps | dsimp only

theorem State.handTo_keeps {qq : List Instr} (s : State) (e : Nat) (h_s : Kept qq s) :
    Kept qq (State.handTo s e) := by
  unfold State.handTo
  dsimp -failIfUnchanged only
  repeat' with_reducible first | assumption | (intro _) | apply State.aotIrq_keeps | apply State.updAot_keeps | apply State.aotCount_keeps | apply State.drawn_keeps | apply kept_ite | dsimp only | (apply kept_mk; dsimp only; apply kept_un) | split

theorem State.ethHand_keeps {qq : List Instr} (s : State) (port : Nat) (h_s : Kept qq s) :
    Kept qq (State.ethHand s port) := by
  unfold State.ethHand
  dsimp -failIfUnchanged only
  repeat' with_reducible first | assumption | apply State.handTo_keeps | apply kept_ite | dsimp only | split

theorem State.ethStart_keeps {qq : List Instr} (s : State) (p : Nat) (h_s : Kept qq s) :
    Kept qq (State.ethStart s p) := by
  unfold State.ethStart
  dsimp -failIfUnchanged only
  repeat' with_reducible first | assumption | dsimp only | (apply kept_mk; dsimp only; apply kept_un)

theorem State.linkOff_keeps {qq : List Instr} (s : State) (p : Nat) (h_s : Kept qq s) :
    Kept qq (State.linkOff s p) := by
  unfold State.linkOff
  dsimp -failIfUnchanged only
  repeat' with_reducible first | assumption | apply State.wr_keeps | dsimp only

theorem State.ethStop_keeps {qq : List Instr} (s : State) (p : Nat) (h_s : Kept qq s) :
    Kept qq (State.ethStop s p) := by
  unfold State.ethStop
  dsimp -failIfUnchanged only
  repeat' with_reducible first | assumption | apply State.linkOff_keeps | dsimp only

theorem State.fwRx_keeps {qq : List Instr} (s : State) (port : Nat) (kind : Nat) (i : Nat) (bytes : List Byte) (h_s : Kept qq s) :
    Kept qq (State.fwRx s port kind i bytes).1 := by
  unfold State.fwRx
  dsimp -failIfUnchanged only
  repeat' with_reducible first | assumption | (intro _) | apply State.aotIrq_keeps | apply State.setBytes_keeps | apply State.wr_keeps | apply kept_ite | apply kept_ite1 | dsimp only | split

theorem State.helloRate_keeps {qq : List Instr} (s : State) (ip : Nat) (h_s : Kept qq s) :
    Kept qq (State.helloRate s ip).1 := by
  unfold State.helloRate
  dsimp -failIfUnchanged only
  repeat' with_reducible first | assumption | (intro _) | apply State.updAot_keeps | apply kept_ite | apply kept_ite1 | dsimp only | (apply kept_mk; dsimp only; apply kept_un) | split

theorem State.ipRx_keeps {qq : List Instr} (s : State) (port : Nat) (frame : List Byte) (q : IpPacket) (h_s : Kept qq s) :
    Kept qq (State.ipRx s port frame q) := by
  unfold State.ipRx
  dsimp -failIfUnchanged only
  repeat' with_reducible first | assumption | apply State.fwRx_keeps | apply State.ethHand_keeps | apply State.ethCount_keeps | apply kept_ite | apply kept_ite1 | dsimp only | split

theorem State.newCookie_keeps {qq : List Instr} (s : State) (h_s : Kept qq s) :
    Kept qq (State.newCookie s) := by
  unfold State.newCookie
  dsimp -failIfUnchanged only
  repeat' with_reducible first | assumption | (intro _) | apply State.updAot_keeps | apply State.rand_keeps | dsimp only | (apply kept_mk; dsimp only; apply kept_un)

theorem State.record_keeps {qq : List Instr} (s : State) (i : Nat) (rx : Peer) (h : AotHdr) (h_s : Kept qq s) :
    Kept qq (State.record s i rx h) := by
  unfold State.record
  dsimp -failIfUnchanged only
  repeat' with_reducible first | assumption | (intro _) | apply State.sendAck_keeps | apply State.setSess_keeps | apply kept_ite | apply kept_ite1 | (refine kept_foldl ?_ (fun _ _ _ => ?_)) | (refine kept_foldl1 ?_ (fun _ _ _ => ?_)) | (refine kept_foldl2 ?_ (fun _ _ _ => ?_)) | dsimp only | (apply kept_mk; dsimp only; apply kept_un) | split

theorem State.sendClear_keeps {qq : List Instr} (s : State) (rx : Peer) (typ : Nat) (body : List Byte) (h_s : Kept qq s) :
    Kept qq (State.sendClear s rx typ body) := by
  unfold State.sendClear
  dsimp -failIfUnchanged only
  repeat' with_reducible first | assumption | apply State.portTx_keeps | dsimp only | (apply kept_mk; dsimp only; apply kept_un)

theorem State.sendReject_keeps {qq : List Instr} (s : State) (rx : Peer) (code : Nat) (h_s : Kept qq s) :
    Kept qq (State.sendReject s rx code) := by
  unfold State.sendReject
  dsimp -failIfUnchanged only
  repeat' with_reducible first | assumption | apply State.sendClear_keeps | apply State.aotCount_keeps | dsimp only

theorem State.sendReply_keeps {qq : List Instr} (s : State) (rx : Peer) (i : Nat) (h_s : Kept qq s) :
    Kept qq (State.sendReply s rx i) := by
  unfold State.sendReply
  dsimp -failIfUnchanged only
  repeat' with_reducible first | assumption | (intro _) | apply State.portTx_keeps | (refine kept_foldl ?_ (fun _ _ _ => ?_)) | (refine kept_foldl1 ?_ (fun _ _ _ => ?_)) | (refine kept_foldl2 ?_ (fun _ _ _ => ?_)) | dsimp only | (apply kept_mk; dsimp only; apply kept_un)

theorem State.sendStray_keeps {qq : List Instr} (s : State) (i : Nat) (tag : Nat) (gen : Nat) (status : Nat) (retry : Nat) (h_s : Kept qq s) :
    Kept qq (State.sendStray s i tag gen status retry) := by
  unfold State.sendStray
  dsimp -failIfUnchanged only
  repeat' with_reducible first | assumption | apply State.sendRel_keeps | apply kept_ite | dsimp only | split

theorem State.sessOpen_keeps {qq : List Instr} (s : State) (i : Nat) (h_s : Kept qq s) :
    Kept qq (State.sessOpen s i) := by
  unfold State.sessOpen
  dsimp -failIfUnchanged only
  repeat' with_reducible first | assumption | (intro _) | apply State.sendRel_keeps | apply State.setSess_keeps | apply State.aotIrq_keeps | apply kept_ite | dsimp only | (apply kept_mk; dsimp only; apply kept_un) | split

theorem State.sessCtl_keeps {qq : List Instr} (s : State) (val : Word) (h_s : Kept qq s) :
    Kept qq (State.sessCtl s val) := by
  unfold State.sessCtl
  dsimp -failIfUnchanged only
  repeat' with_reducible first | assumption | (intro _) | apply State.sessOpen_keeps | apply State.sessClose_keeps | apply kept_ite | dsimp only | split

theorem State.takeEntry_keeps {qq : List Instr} (s : State) (rx : Peer) (i : Nat) (v : Nat) (body : List Byte) (h_s : Kept qq s) :
    Kept qq (State.takeEntry s rx i v body) := by
  unfold State.takeEntry
  dsimp -failIfUnchanged only
  repeat' with_reducible first | assumption | (intro _) | apply State.sendReply_keeps | apply State.setGcm_keeps | apply State.setSess_keeps | apply State.rand_keeps | apply State.wr_keeps | dsimp only

theorem State.updObjOf_keeps {qq : List Instr} (s : State) (v : Nat) (h : Nat) (f : Obj → Obj) (h_s : Kept qq s) :
    Kept qq (State.updObjOf s v h f) := by
  unfold State.updObjOf
  dsimp -failIfUnchanged only
  repeat' with_reducible first | assumption | (intro _) | apply State.updObj_keeps | apply kept_ite | dsimp only | (apply kept_mk; dsimp only; apply kept_un) | split

theorem execAck_keeps {qq : List Instr} (_rx : Peer) (h : AotHdr) (body : List Byte) (gtag : List Byte) (s : State) (h_s : Kept qq s) :
    Out.Kept qq (execAck _rx h body gtag s) := by
  unfold execAck
  dsimp -failIfUnchanged only
  repeat' with_reducible first | assumption | (intro _) | apply State.aotRx_keeps | apply State.updSess_keeps | apply State.sendAck_keeps | apply kept_next | apply kept_ite3 | apply kept_ite | dsimp only | (refine kept_pair (by assumption) ?_) | (refine kept_opt (by assumption) ?_) | (refine kept_opt1 (by assumption) ?_) | (apply kept_mk; dsimp only; apply kept_un) | split

theorem execAckDelayTimer_keeps {qq : List Instr} (i : Nat) (s : State) (h_s : Kept qq s) :
    Out.Kept qq (execAckDelayTimer i s) := by
  unfold execAckDelayTimer
  dsimp -failIfUnchanged only
  repeat' with_reducible first | assumption | (intro _) | apply State.sendAck_keeps | apply State.updAot_keeps | apply kept_next | apply kept_ite3 | apply kept_ite | dsimp only | (apply kept_mk; dsimp only; apply kept_un) | split

theorem execAotCntClr_keeps {qq : List Instr} (val : Word) (s : State) (h_s : Kept qq s) :
    Out.Kept qq (execAotCntClr val s) := by
  unfold execAotCntClr
  dsimp -failIfUnchanged only
  repeat' with_reducible first | assumption | (intro _) | apply State.gated_keeps | apply State.setReg_keeps | apply kept_next | apply kept_ite3 | apply kept_ite | (refine kept_foldl ?_ (fun _ _ _ => ?_)) | (refine kept_foldl1 ?_ (fun _ _ _ => ?_)) | (refine kept_foldl2 ?_ (fun _ _ _ => ?_)) | dsimp only | split

theorem execAotSessClose_keeps {qq : List Instr} (val : Word) (s : State) (h_s : Kept qq s) :
    Out.Kept qq (execAotSessClose val s) := by
  unfold execAotSessClose
  dsimp -failIfUnchanged only
  repeat' with_reducible first | assumption | (intro _) | apply State.sessCtl_keeps | apply State.gated_keeps | apply kept_next | apply kept_ite3 | dsimp only

theorem execAotSessOpen_keeps {qq : List Instr} (val : Word) (s : State) (h_s : Kept qq s) :
    Out.Kept qq (execAotSessOpen val s) := by
  unfold execAotSessOpen
  dsimp -failIfUnchanged only
  repeat' with_reducible first | assumption | (intro _) | apply State.sessCtl_keeps | apply State.gated_keeps | apply kept_next | apply kept_ite3 | dsimp only

theorem execAotShutdownTimeout_keeps {qq : List Instr} (s : State) (h_s : Kept qq s) :
    Out.Kept qq (execAotShutdownTimeout s) := by
  unfold execAotShutdownTimeout
  dsimp -failIfUnchanged only
  repeat' with_reducible first | assumption | (intro _) | apply State.sessFree_keeps | apply State.aotIdle_keeps | apply kept_next | apply kept_ite3 | apply kept_ite | apply kept_ite1 | (refine kept_foldl ?_ (fun _ _ _ => ?_)) | (refine kept_foldl1 ?_ (fun _ _ _ => ?_)) | (refine kept_foldl2 ?_ (fun _ _ _ => ?_)) | dsimp only | split

theorem execArpRequest_keeps {qq : List Instr} (port : Nat) (ip : Nat) (s : State) (h_s : Kept qq s) :
    Out.Kept qq (execArpRequest port ip s) := by
  unfold execArpRequest
  dsimp -failIfUnchanged only
  repeat' with_reducible first | assumption | apply State.portTx_keeps | apply kept_next | apply kept_ite3 | apply kept_ite | dsimp only | (apply kept_mk; dsimp only; apply kept_un) | split

theorem execAuth_keeps {qq : List Instr} (rx : Peer) (h : AotHdr) (body : List Byte) (gtag : List Byte) (s : State) (h_s : Kept qq s) :
    Out.Kept qq (execAuth rx h body gtag s) := by
  unfold execAuth
  dsimp -failIfUnchanged only
  repeat' with_reducible first | assumption | (intro _) | apply State.sendReject_keeps | apply State.fwRx_keeps | apply State.authAccepted_keeps | apply State.sessFree_keeps | apply State.resend_keeps | apply State.setSess_keeps | apply State.aotIrq_keeps | apply State.aotIdle_keeps | apply State.aotCount_keeps | apply kept_next | apply kept_ite3 | apply kept_ite | apply kept_ite1 | dsimp only | (refine kept_pair (by assumption) ?_) | (refine kept_opt (by assumption) ?_) | (refine kept_opt1 (by assumption) ?_) | (apply kept_mk; dsimp only; apply kept_un) | split

theorem execClose_keeps {qq : List Instr} (rx : Peer) (h : AotHdr) (body : List Byte) (gtag : List Byte) (s : State) (h_s : Kept qq s) :
    Out.Kept qq (execClose rx h body gtag s) := by
  unfold execClose
  dsimp -failIfUnchanged only
  repeat' with_reducible first | assumption | (intro _) | apply State.record_keeps | apply State.stopCmds_keeps | apply State.aotRx_keeps | apply State.updSess_keeps | apply State.sendAck_keeps | apply kept_next | apply kept_ite3 | apply kept_ite | dsimp only | (refine kept_pair (by assumption) ?_) | (refine kept_opt (by assumption) ?_) | (refine kept_opt1 (by assumption) ?_) | (apply kept_mk; dsimp only; apply kept_un) | split

theorem execClosingTimeout_keeps {qq : List Instr} (i : Nat) (s : State) (h_s : Kept qq s) :
    Out.Kept qq (execClosingTimeout i s) := by
  unfold execClosingTimeout
  dsimp -failIfUnchanged only
  repeat' with_reducible first | assumption | apply State.sessFree_keeps | apply State.aotIdle_keeps | apply kept_next | apply kept_ite3 | apply kept_ite | dsimp only | split

theorem execCmd_keeps {qq : List Instr} (rx : Peer) (h : AotHdr) (body : List Byte) (gtag : List Byte) (s : State) (h_s : Kept qq s) :
    Out.Kept qq (execCmd rx h body gtag s) := by
  unfold execCmd
  dsimp -failIfUnchanged only
  repeat' with_reducible first | assumption | (intro _) | apply State.sendStray_keeps | apply State.record_keeps | apply State.deliverCmd_keeps | apply State.aotRx_keeps | apply State.updTag_keeps | apply State.aotCount_keeps | apply kept_next | apply kept_ite3 | apply kept_ite | dsimp only | (refine kept_pair (by assumption) ?_) | (refine kept_opt (by assumption) ?_) | (refine kept_opt1 (by assumption) ?_) | (apply kept_mk; dsimp only; apply kept_un) | split

theorem execCookieKeyRotation_keeps {qq : List Instr} (s : State) (h_s : Kept qq s) :
    Out.Kept qq (execCookieKeyRotation s) := by
  unfold execCookieKeyRotation
  dsimp -failIfUnchanged only
  repeat' with_reducible first | assumption | apply State.newCookie_keeps | apply kept_next | apply kept_ite3 | dsimp only

theorem execData_keeps {qq : List Instr} (rx : Peer) (h : AotHdr) (body : List Byte) (gtag : List Byte) (s : State) (h_s : Kept qq s) :
    Out.Kept qq (execData rx h body gtag s) := by
  unfold execData
  dsimp -failIfUnchanged only
  repeat' with_reducible first | assumption | (intro _) | apply State.record_keeps | apply State.updCmd_keeps | apply State.aotRx_keeps | apply State.aotCount_keeps | apply kept_next | apply kept_ite3 | apply kept_ite | dsimp only | (refine kept_pair (by assumption) ?_) | (refine kept_opt (by assumption) ?_) | (refine kept_opt1 (by assumption) ?_) | (apply kept_mk; dsimp only; apply kept_un) | split

theorem execEchoRequest_keeps {qq : List Instr} (port : Nat) (v6 : Bool) (ip : Nat) (s : State) (h_s : Kept qq s) :
    Out.Kept qq (execEchoRequest port v6 ip s) := by
  unfold execEchoRequest
  dsimp -failIfUnchanged only
  repeat' with_reducible first | assumption | (intro _) | apply State.ethCount_keeps | apply State.portTx_keeps | apply kept_next | apply kept_ite3 | apply kept_ite | dsimp only | (apply kept_mk; dsimp only; apply kept_un) | split

theorem execEthCntClr_keeps {qq : List Instr} (port : Nat) (val : Word) (s : State) (h_s : Kept qq s) :
    Out.Kept qq (execEthCntClr port val s) := by
  unfold execEthCntClr
  dsimp -failIfUnchanged only
  repeat' with_reducible first | assumption | (intro _) | apply State.gated_keeps | apply State.setReg_keeps | apply kept_next | apply kept_ite3 | apply kept_ite | (refine kept_foldl ?_ (fun _ _ _ => ?_)) | (refine kept_foldl1 ?_ (fun _ _ _ => ?_)) | (refine kept_foldl2 ?_ (fun _ _ _ => ?_)) | dsimp only | split

theorem execEthFrameRx_keeps {qq : List Instr} (port : Nat) (frame : List Byte) (s : State) (h_s : Kept qq s) :
    Out.Kept qq (execEthFrameRx port frame s) := by
  unfold execEthFrameRx
  dsimp -failIfUnchanged only
  repeat' with_reducible first | assumption | (intro _) | apply State.ipRx_keeps | apply State.fwRx_keeps | apply State.ethHand_keeps | apply State.ethCount_keeps | apply kept_next | apply kept_ite3 | apply kept_ite | apply kept_ite1 | dsimp only | (refine kept_pair (by assumption) ?_) | (refine kept_opt (by assumption) ?_) | (refine kept_opt1 (by assumption) ?_) | split

theorem execFwtxSend_keeps {qq : List Instr} (s : State) (h_s : Kept qq s) :
    Out.Kept qq (execFwtxSend s) := by
  unfold execFwtxSend
  dsimp -failIfUnchanged only
  repeat' with_reducible first | assumption | (intro _) | apply State.portTx_keeps | apply State.wr_keeps | apply kept_next | apply kept_ite3 | apply kept_ite | dsimp only | (apply kept_mk; dsimp only; apply kept_un) | split

theorem execHello_keeps {qq : List Instr} (rx : Peer) (h : AotHdr) (body : List Byte) (frame : List Byte) (s : State) (h_s : Kept qq s) :
    Out.Kept qq (execHello rx h body frame s) := by
  unfold execHello
  dsimp -failIfUnchanged only
  repeat' with_reducible first | assumption | (intro _) | apply State.takeEntry_keeps | apply State.sendReply_keeps | apply State.sendReject_keeps | apply State.sendClear_keeps | apply State.helloRate_keeps | apply State.fwRx_keeps | apply State.aotIrq_keeps | apply State.aotCount_keeps | apply State.drawn_keeps | apply kept_next | apply kept_ite3 | apply kept_ite | apply kept_ite1 | dsimp only | (refine kept_pair (by assumption) ?_) | (refine kept_opt (by assumption) ?_) | (refine kept_opt1 (by assumption) ?_) | split

theorem execHsTimeout_keeps {qq : List Instr} (i : Nat) (s : State) (h_s : Kept qq s) :
    Out.Kept qq (execHsTimeout i s) := by
  unfold execHsTimeout
  dsimp -failIfUnchanged only
  repeat' with_reducible first | assumption | apply State.sessFree_keeps | apply State.aotIdle_keeps | apply kept_next | apply kept_ite3 | apply kept_ite | dsimp only | split

theorem execIdleTimeout_keeps {qq : List Instr} (i : Nat) (s : State) (h_s : Kept qq s) :
    Out.Kept qq (execIdleTimeout i s) := by
  unfold execIdleTimeout
  dsimp -failIfUnchanged only
  repeat' with_reducible first | assumption | apply State.sessClose_keeps | apply kept_next | apply kept_ite3 | apply kept_ite | dsimp only | split

theorem execLinkDown_keeps {qq : List Instr} (port : Nat) (hiBer : Bool) (s : State) (h_s : Kept qq s) :
    Out.Kept qq (execLinkDown port hiBer s) := by
  unfold execLinkDown
  dsimp -failIfUnchanged only
  repeat' with_reducible first | assumption | (intro _) | apply State.linkOff_keeps | apply State.irq_keeps | apply State.wr_keeps | apply kept_next | apply kept_ite3 | apply kept_ite | dsimp only | split

theorem execLinkUp_keeps {qq : List Instr} (port : Nat) (fec : Nat) (s : State) (h_s : Kept qq s) :
    Out.Kept qq (execLinkUp port fec s) := by
  unfold execLinkUp
  dsimp -failIfUnchanged only
  repeat' with_reducible first | assumption | (intro _) | apply State.irq_keeps | apply State.wb_keeps | apply State.wr_keeps | apply kept_next | apply kept_ite3 | apply kept_ite | dsimp only | split

theorem execNeighbourSolicitation_keeps {qq : List Instr} (port : Nat) (ip : Nat) (s : State) (h_s : Kept qq s) :
    Out.Kept qq (execNeighbourSolicitation port ip s) := by
  unfold execNeighbourSolicitation
  dsimp -failIfUnchanged only
  repeat' with_reducible first | assumption | apply State.portTx_keeps | apply kept_next | apply kept_ite3 | apply kept_ite | dsimp only | (apply kept_mk; dsimp only; apply kept_un) | split

theorem execRekey_keeps {qq : List Instr} (rx : Peer) (h : AotHdr) (body : List Byte) (gtag : List Byte) (s : State) (h_s : Kept qq s) :
    Out.Kept qq (execRekey rx h body gtag s) := by
  unfold execRekey
  dsimp -failIfUnchanged only
  repeat' with_reducible first | assumption | (intro _) | apply State.record_keeps | apply State.setGcm_keeps | apply State.aotRx_keeps | apply State.setSess_keeps | apply State.aotCount_keeps | apply kept_next | apply kept_ite3 | apply kept_ite | dsimp only | (refine kept_pair (by assumption) ?_) | (refine kept_opt (by assumption) ?_) | (refine kept_opt1 (by assumption) ?_) | (apply kept_mk; dsimp only; apply kept_un) | split

theorem execReset_keeps {qq : List Instr} (rx : Peer) (h : AotHdr) (body : List Byte) (gtag : List Byte) (s : State) (h_s : Kept qq s) :
    Out.Kept qq (execReset rx h body gtag s) := by
  unfold execReset
  dsimp -failIfUnchanged only
  repeat' with_reducible first | assumption | (intro _) | apply State.record_keeps | apply State.endCmds_keeps | apply State.aotRx_keeps | apply State.updSess_keeps | apply kept_next | apply kept_ite3 | dsimp only | (refine kept_pair (by assumption) ?_) | (refine kept_opt (by assumption) ?_) | (refine kept_opt1 (by assumption) ?_) | (apply kept_mk; dsimp only; apply kept_un) | split

theorem execRetransmitTimer_keeps {qq : List Instr} (i : Nat) (s : State) (h_s : Kept qq s) :
    Out.Kept qq (execRetransmitTimer i s) := by
  unfold execRetransmitTimer
  dsimp -failIfUnchanged only
  repeat' with_reducible first | assumption | (intro _) | apply State.sessClose_keeps | apply State.resend_keeps | apply State.setSess_keeps | apply State.updAot_keeps | apply kept_next | apply kept_ite3 | apply kept_ite | dsimp only | (refine kept_pair (by assumption) ?_) | (refine kept_opt (by assumption) ?_) | (refine kept_opt1 (by assumption) ?_) | (apply kept_mk; dsimp only; apply kept_un) | split

end Sys2Proof.Machine
end

