-- ==== Sys2Proof/Laws/KeepEvr.lean ====
section
/-! SUPPORT. Each operation of Machine/Evr.lean leaves the register file and memory canonical and the queue as it is. -/

set_option linter.unusedTactic false
set_option linter.unreachableTactic false
set_option maxRecDepth 8000

namespace Sys2Proof.Machine

theorem State.emptySlots_keeps {qq : List Instr} (s : State) (l : List Nat) (h_s : Kept qq s) :
    Kept qq (State.emptySlots s l) := by
  unfold State.emptySlots
  dsimp -failIfUnchanged only
  repeat' with_reducible first | assumption | (intro _) | apply State.setBytes_keeps | apply kept_ite | (refine kept_foldl ?_ (fun _ _ _ => ?_)) | (refine kept_foldl1 ?_ (fun _ _ _ => ?_)) | (refine kept_foldl2 ?_ (fun _ _ _ => ?_)) | dsimp only | split

theorem State.evrIrq_keeps {qq : List Instr} (s : State) (bit : Nat) (h_s : Kept qq s) :
    Kept qq (State.evrIrq s bit) := by
  unfold State.evrIrq
  dsimp -failIfUnchanged only
  repeat' with_reducible first | assumption | apply State.irq_keeps | dsimp only

theorem State.persist_keeps {qq : List Instr} (s : State) (slot : Nat) (sev : Nat) (seq : Nat) (h_s : Kept qq s) :
    Kept qq (State.persist s slot sev seq) := by
  unfold State.persist
  dsimp -failIfUnchanged only
  repeat' with_reducible first | assumption | (intro _) | apply State.evrIrq_keeps | apply State.setWord_keeps | apply State.wr_keeps | apply kept_ite | dsimp only | split

theorem State.evrStore_keeps {qq : List Instr} (s : State) (code : Nat) (sev : Nat) (source : Nat) (time : Nat) (payload : List Byte) (h_s : Kept qq s) :
    Kept qq (State.evrStore s code sev source time payload) := by
  unfold State.evrStore
  dsimp -failIfUnchanged only
  repeat' with_reducible first | assumption | (intro _) | apply State.persist_keeps | apply State.evrIrq_keeps | apply State.setBytes_keeps | apply State.bump_keeps | apply State.wr_keeps | apply kept_ite | dsimp only | (refine kept_pair (by assumption) ?_) | (refine kept_opt (by assumption) ?_) | (refine kept_opt1 (by assumption) ?_) | split

theorem State.evrClear_keeps {qq : List Instr} (s : State) (gen : Bool) (fatal : Bool) (h_s : Kept qq s) :
    Kept qq (State.evrClear s gen fatal) := by
  unfold State.evrClear
  dsimp -failIfUnchanged only
  repeat' with_reducible first | assumption | (intro _) | apply State.evrStore_keeps | apply State.emptySlots_keeps | apply State.wr_keeps | apply kept_ite | dsimp only | split

theorem State.evrCmd_keeps {qq : List Instr} (s : State) (port : Nat) (val : Word) (h_s : Kept qq s) :
    Kept qq (State.evrCmd s port val) := by
  unfold State.evrCmd
  dsimp -failIfUnchanged only
  repeat' with_reducible first | assumption | (intro _) | apply State.evrClear_keeps | apply State.evrIrq_keeps | apply State.wr_keeps | apply State.setReg_keeps | apply kept_ite | (refine kept_foldl ?_ (fun _ _ _ => ?_)) | (refine kept_foldl1 ?_ (fun _ _ _ => ?_)) | (refine kept_foldl2 ?_ (fun _ _ _ => ?_)) | dsimp only | split

theorem State.updEvr_keeps {qq : List Instr} (s : State) (f : EvrState → EvrState) (h_s : Kept qq s) :
    Kept qq (State.updEvr s f) := by
  unfold State.updEvr
  dsimp -failIfUnchanged only
  repeat' with_reducible first | assumption | (intro _) | dsimp only | (apply kept_mk; dsimp only; apply kept_un)

theorem State.setRate_keeps {qq : List Instr} (s : State) (n : Nat) (x : RateEntry) (h_s : Kept qq s) :
    Kept qq (State.setRate s n x) := by
  unfold State.setRate
  dsimp -failIfUnchanged only
  repeat' with_reducible first | assumption | (intro _) | apply State.updEvr_keeps | dsimp only | (apply kept_mk; dsimp only; apply kept_un)

theorem State.evrPass_keeps {qq : List Instr} (s : State) (code : Nat) (sev : Nat) (source : Nat) (time : Nat) (payload : List Byte) (h_s : Kept qq s) :
    Kept qq (State.evrPass s code sev source time payload) := by
  unfold State.evrPass
  dsimp -failIfUnchanged only
  repeat' with_reducible first | assumption | (intro _) | apply State.setRate_keeps | apply State.evrStore_keeps | apply kept_ite | dsimp only | (refine kept_pair (by assumption) ?_) | (refine kept_opt (by assumption) ?_) | (refine kept_opt1 (by assumption) ?_) | (apply kept_mk; dsimp only; apply kept_un) | split

theorem State.postRefused_keeps {qq : List Instr} (s : State) (h_s : Kept qq s) :
    Kept qq (State.postRefused s) := by
  unfold State.postRefused
  dsimp -failIfUnchanged only
  repeat' with_reducible first | assumption | apply State.evrIrq_keeps | apply State.bump_keeps | dsimp only

theorem State.evrPostWrite_keeps {qq : List Instr} (s : State) (val : Word) (h_s : Kept qq s) :
    Kept qq (State.evrPostWrite s val) := by
  unfold State.evrPostWrite
  dsimp -failIfUnchanged only
  repeat' with_reducible first | assumption | (intro _) | apply State.postRefused_keeps | apply State.updEvr_keeps | apply State.wr_keeps | apply kept_ite | dsimp only | (apply kept_mk; dsimp only; apply kept_un) | split

theorem State.evrSetup_keeps {qq : List Instr} (s : State) (a : Nat) (val : Word) (h_s : Kept qq s) :
    Kept qq (State.evrSetup s a val) := by
  unfold State.evrSetup
  dsimp -failIfUnchanged only
  repeat' with_reducible first | assumption | apply State.evrIrq_keeps | apply State.storeRow_keeps | apply kept_ite | dsimp only | split

theorem State.evrStart_keeps {qq : List Instr} (s : State) (h_s : Kept qq s) :
    Kept qq (State.evrStart s) := by
  unfold State.evrStart
  dsimp -failIfUnchanged only
  repeat' with_reducible first | assumption | (intro _) | apply State.updEvr_keeps | apply State.evrStore_keeps | apply State.evrIrq_keeps | apply State.emptySlots_keeps | apply State.wr_keeps | (refine kept_foldl ?_ (fun _ _ _ => ?_)) | (refine kept_foldl1 ?_ (fun _ _ _ => ?_)) | (refine kept_foldl2 ?_ (fun _ _ _ => ?_)) | dsimp only | (apply kept_mk; dsimp only; apply kept_un)

theorem State.takePost_keeps {qq : List Instr} (s : State) (h_s : Kept qq s) :
    Kept qq (State.takePost s) := by
  unfold State.takePost
  dsimp -failIfUnchanged only
  repeat' with_reducible first | assumption | (intro _) | apply State.postRefused_keeps | apply State.evrPass_keeps | apply State.updEvr_keeps | apply State.wr_keeps | apply kept_ite | dsimp only | (refine kept_pair (by assumption) ?_) | (refine kept_opt (by assumption) ?_) | (refine kept_opt1 (by assumption) ?_) | (apply kept_mk; dsimp only; apply kept_un) | split

theorem State.takeAll_keeps {q : List Instr} (s : State) (n : Nat) (h_s : Kept q s) : Kept q (State.takeAll s n) := by
  induction n generalizing s with
  | zero => exact h_s
  | succ n ih => exact ih _ (State.takePost_keeps _ h_s)

theorem State.evrStop_keeps {qq : List Instr} (s : State) (h_s : Kept qq s) :
    Kept qq (State.evrStop s) := by
  unfold State.evrStop
  dsimp -failIfUnchanged only
  repeat' with_reducible first | assumption | (intro _) | apply State.takeAll_keeps | apply State.setRate_keeps | apply State.evrStore_keeps | apply State.evrIrq_keeps | apply State.shutDone_keeps | (refine kept_foldl ?_ (fun _ _ _ => ?_)) | (refine kept_foldl1 ?_ (fun _ _ _ => ?_)) | (refine kept_foldl2 ?_ (fun _ _ _ => ?_)) | dsimp only | (apply kept_mk; dsimp only; apply kept_un)

theorem State.rlCfg_keeps {qq : List Instr} (s : State) (val : Word) (h_s : Kept qq s) :
    Kept qq (State.rlCfg s val) := by
  unfold State.rlCfg
  dsimp -failIfUnchanged only
  repeat' with_reducible first | assumption | (intro _) | apply State.setRate_keeps | apply kept_ite | dsimp only | (apply kept_mk; dsimp only; apply kept_un) | split

theorem State.rlRate_keeps {qq : List Instr} (s : State) (val : Word) (h_s : Kept qq s) :
    Kept qq (State.rlRate s val) := by
  unfold State.rlRate
  dsimp -failIfUnchanged only
  repeat' with_reducible first | assumption | (intro _) | apply State.setRate_keeps | dsimp only | (apply kept_mk; dsimp only; apply kept_un)

theorem execClrFatal_keeps {qq : List Instr} (port : Nat) (val : Word) (s : State) (h_s : Kept qq s) :
    Out.Kept qq (execClrFatal port val s) := by
  unfold execClrFatal
  dsimp -failIfUnchanged only
  repeat' with_reducible first | assumption | (intro _) | apply State.evrCmd_keeps | apply State.gated_keeps | apply kept_next | apply kept_ite3 | dsimp only

theorem execClrGen_keeps {qq : List Instr} (port : Nat) (val : Word) (s : State) (h_s : Kept qq s) :
    Out.Kept qq (execClrGen port val s) := by
  unfold execClrGen
  dsimp -failIfUnchanged only
  repeat' with_reducible first | assumption | (intro _) | apply State.evrCmd_keeps | apply State.gated_keeps | apply kept_next | apply kept_ite3 | dsimp only

theorem execEvrCntClr_keeps {qq : List Instr} (val : Word) (s : State) (h_s : Kept qq s) :
    Out.Kept qq (execEvrCntClr val s) := by
  unfold execEvrCntClr
  dsimp -failIfUnchanged only
  repeat' with_reducible first | assumption | (intro _) | apply State.evrCmd_keeps | apply State.gated_keeps | apply kept_next | apply kept_ite3 | dsimp only

theorem execEvrPost_keeps {qq : List Instr} (val : Word) (s : State) (h_s : Kept qq s) :
    Out.Kept qq (execEvrPost val s) := by
  unfold execEvrPost
  dsimp -failIfUnchanged only
  repeat' with_reducible first | assumption | (intro _) | apply State.evrPostWrite_keeps | apply State.gated_keeps | apply kept_next | apply kept_ite3 | dsimp only

theorem execHwEventPost_keeps {qq : List Instr} (code : Nat) (sev : Nat) (source : Nat) (payload : List Byte) (s : State) (h_s : Kept qq s) :
    Out.Kept qq (execHwEventPost code sev source payload s) := by
  unfold execHwEventPost
  dsimp -failIfUnchanged only
  repeat' with_reducible first | assumption | apply State.hwPost_keeps | apply kept_next | apply kept_ite3 | apply kept_ite | dsimp only | split

theorem execPostTaken_keeps {qq : List Instr} (s : State) (h_s : Kept qq s) :
    Out.Kept qq (execPostTaken s) := by
  unfold execPostTaken
  dsimp -failIfUnchanged only
  repeat' with_reducible first | assumption | apply State.takePost_keeps | apply kept_next | apply kept_ite3 | apply kept_ite | dsimp only | split

theorem execRateEntryWrite_keeps {qq : List Instr} (val : Word) (s : State) (h_s : Kept qq s) :
    Out.Kept qq (execRateEntryWrite val s) := by
  unfold execRateEntryWrite
  dsimp -failIfUnchanged only
  repeat' with_reducible first | assumption | (intro _) | apply State.rlCfg_keeps | apply State.gated_keeps | apply kept_next | apply kept_ite3 | dsimp only

theorem execRateTokensFull_keeps {qq : List Instr} (n : Nat) (s : State) (h_s : Kept qq s) :
    Out.Kept qq (execRateTokensFull n s) := by
  unfold execRateTokensFull
  dsimp -failIfUnchanged only
  repeat' with_reducible first | assumption | (intro _) | apply State.setRate_keeps | apply State.evrIrq_keeps | apply State.hwPost_keeps | apply kept_next | apply kept_ite3 | apply kept_ite | dsimp only | (apply kept_mk; dsimp only; apply kept_un) | split

end Sys2Proof.Machine
end

