-- ==== Sys2Proof/Laws/KeepDdr.lean ====
section
/-! SUPPORT. Each operation of Machine/Ddr.lean leaves the register file and memory canonical and the queue as it is. -/

set_option linter.unusedTactic false
set_option linter.unreachableTactic false
set_option maxRecDepth 8000

namespace Sys2Proof.Machine

theorem State.memIrq_keeps {qq : List Instr} (s : State) (bit : Nat) (h_s : Kept qq s) :
    Kept qq (State.memIrq s bit) := by
  unfold State.memIrq
  dsimp -failIfUnchanged only
  repeat' with_reducible first | assumption | apply State.irq_keeps | dsimp only

theorem State.updDdr_keeps {qq : List Instr} (s : State) (f : DdrState → DdrState) (h_s : Kept qq s) :
    Kept qq (State.updDdr s f) := by
  unfold State.updDdr
  dsimp -failIfUnchanged only
  repeat' with_reducible first | assumption | (intro _) | dsimp only | (apply kept_mk; dsimp only; apply kept_un)

theorem State.memLog_keeps {qq : List Instr} (s : State) (kind : Nat) (source : Nat) (port : Nat) (cw : Nat) (syms : Nat) (bytes : Nat) (burst : Nat) (h_s : Kept qq s) :
    Kept qq (State.memLog s kind source port cw syms bytes burst) := by
  unfold State.memLog
  dsimp -failIfUnchanged only
  repeat' with_reducible first | assumption | (intro _) | apply State.updDdr_keeps | apply State.memIrq_keeps | apply State.bump_keeps | apply State.wr_keeps | apply kept_ite | dsimp only | (apply kept_mk; dsimp only; apply kept_un) | split

theorem State.ueEvent_keeps {qq : List Instr} (s : State) (kind : Nat) (source : Nat) (port : Nat) (cw : Nat) (burst : Nat) (h_s : Kept qq s) :
    Kept qq (State.ueEvent s kind source port cw burst) := by
  unfold State.ueEvent
  dsimp -failIfUnchanged only
  repeat' with_reducible first | assumption | apply State.memLog_keeps | apply State.memIrq_keeps | apply State.bump_keeps | dsimp only

theorem State.devCorrected_keeps {qq : List Instr} (s : State) (d : Nat) (h_s : Kept qq s) :
    Kept qq (State.devCorrected s d) := by
  unfold State.devCorrected
  dsimp -failIfUnchanged only
  repeat' with_reducible first | assumption | (intro _) | apply State.updDdr_keeps | apply State.memIrq_keeps | apply State.wr_keeps | apply kept_ite | dsimp only | (apply kept_mk; dsimp only; apply kept_un) | split

theorem State.ceEvent_keeps {qq : List Instr} (s : State) (source : Nat) (port : Nat) (cw : Nat) (burst : Nat) (pat : List (Nat × Nat)) (h_s : Kept qq s) :
    Kept qq (State.ceEvent s source port cw burst pat) := by
  unfold State.ceEvent
  dsimp -failIfUnchanged only
  repeat' with_reducible first | assumption | (intro _) | apply State.devCorrected_keeps | apply State.memLog_keeps | apply State.memIrq_keeps | apply State.bump_keeps | (refine kept_foldl ?_ (fun _ _ _ => ?_)) | (refine kept_foldl1 ?_ (fun _ _ _ => ?_)) | (refine kept_foldl2 ?_ (fun _ _ _ => ?_)) | dsimp only

theorem State.burstEvents_keeps {qq : List Instr} (s : State) (b : Nat) (source : Nat) (port : Nat) (h_s : Kept qq s) :
    Kept qq (State.burstEvents s b source port) := by
  unfold State.burstEvents
  dsimp -failIfUnchanged only
  repeat' with_reducible first | assumption | (intro _) | apply State.ceEvent_keeps | apply State.ueEvent_keeps | (refine kept_foldl ?_ (fun _ _ _ => ?_)) | (refine kept_foldl1 ?_ (fun _ _ _ => ?_)) | (refine kept_foldl2 ?_ (fun _ _ _ => ?_)) | dsimp only | (refine kept_pair (by assumption) ?_) | (refine kept_opt (by assumption) ?_) | (refine kept_opt1 (by assumption) ?_) | split

theorem State.setErr_keeps {qq : List Instr} (s : State) (b : Nat) (i : Nat) (m : Nat) (h_s : Kept qq s) :
    Kept qq (State.setErr s b i m) := by
  unfold State.setErr
  dsimp -failIfUnchanged only
  repeat' with_reducible first | assumption | (intro _) | apply State.updDdr_keeps | dsimp only | (apply kept_mk; dsimp only; apply kept_un)

theorem State.cwWriteBack_keeps {qq : List Instr} (s : State) (b : Nat) (c : Nat) (h_s : Kept qq s) :
    Kept qq (State.cwWriteBack s b c) := by
  unfold State.cwWriteBack
  dsimp -failIfUnchanged only
  repeat' with_reducible first | assumption | (intro _) | apply State.setErr_keeps | apply State.setBytes_keeps | (refine kept_foldl ?_ (fun _ _ _ => ?_)) | (refine kept_foldl1 ?_ (fun _ _ _ => ?_)) | (refine kept_foldl2 ?_ (fun _ _ _ => ?_)) | dsimp only | (refine kept_pair (by assumption) ?_) | (refine kept_opt (by assumption) ?_) | (refine kept_opt1 (by assumption) ?_) | split

theorem State.burstRead_keeps {qq : List Instr} (s : State) (b : Nat) (source : Nat) (port : Nat) (h_s : Kept qq s) :
    Kept qq (State.burstRead s b source port) := by
  unfold State.burstRead
  dsimp -failIfUnchanged only
  repeat' with_reducible first | assumption | (intro _) | apply State.cwWriteBack_keeps | apply State.burstEvents_keeps | apply State.memLog_keeps | apply State.memIrq_keeps | apply State.bump_keeps | apply kept_ite | (refine kept_foldl ?_ (fun _ _ _ => ?_)) | (refine kept_foldl1 ?_ (fun _ _ _ => ?_)) | (refine kept_foldl2 ?_ (fun _ _ _ => ?_)) | dsimp only | split

theorem State.ddrFlip_keeps {qq : List Instr} (s : State) (b : Nat) (h_s : Kept qq s) :
    Kept qq (State.ddrFlip s b) := by
  unfold State.ddrFlip
  dsimp -failIfUnchanged only
  repeat' with_reducible first | assumption | (intro _) | apply State.setErr_keeps | apply State.setReg_keeps | apply kept_ite | (refine kept_foldl ?_ (fun _ _ _ => ?_)) | (refine kept_foldl1 ?_ (fun _ _ _ => ?_)) | (refine kept_foldl2 ?_ (fun _ _ _ => ?_)) | dsimp only | split

theorem State.ddrRefuse_keeps {qq : List Instr} (s : State) (h_s : Kept qq s) :
    Kept qq (State.ddrRefuse s) := by
  unfold State.ddrRefuse
  dsimp -failIfUnchanged only
  repeat' with_reducible first | assumption | apply State.bump_keeps | apply kept_ite | dsimp only | split

theorem State.ddrReadOp_keeps {qq : List Instr} (s : State) (port : Nat) (a : Nat) (n : Nat) (h_s : Kept qq s) :
    Kept qq (State.ddrReadOp s port a n).1 := by
  unfold State.ddrReadOp
  dsimp -failIfUnchanged only
  repeat' with_reducible first | assumption | (intro _) | apply State.ddrRefuse_keeps | apply State.burstRead_keeps | apply State.drawn_keeps | apply kept_ite | apply kept_ite1 | dsimp only | (apply kept_mk; dsimp only; apply kept_un) | split

theorem State.markMode_keeps {qq : List Instr} (s : State) (b : Nat) (off : Nat) (n : Nat) (h_s : Kept qq s) :
    Kept qq (State.markMode s b off n) := by
  unfold State.markMode
  dsimp -failIfUnchanged only
  repeat' with_reducible first | assumption | (intro _) | apply State.updDdr_keeps | apply kept_ite | dsimp only | (apply kept_mk; dsimp only; apply kept_un) | split

theorem State.freshBytes_keeps {qq : List Instr} (s : State) (b : Nat) (off : Nat) (n : Nat) (h_s : Kept qq s) :
    Kept qq (State.freshBytes s b off n) := by
  unfold State.freshBytes
  dsimp -failIfUnchanged only
  repeat' with_reducible first | assumption | (intro _) | apply State.setErr_keeps | (refine kept_foldl ?_ (fun _ _ _ => ?_)) | (refine kept_foldl1 ?_ (fun _ _ _ => ?_)) | (refine kept_foldl2 ?_ (fun _ _ _ => ?_)) | dsimp only

theorem State.ddrWriteOp_keeps {qq : List Instr} (s : State) (port : Nat) (a : Nat) (l : List Byte) (h_s : Kept qq s) :
    Kept qq (State.ddrWriteOp s port a l).1 := by
  unfold State.ddrWriteOp
  dsimp -failIfUnchanged only
  repeat' with_reducible first | assumption | (intro _) | apply State.freshBytes_keeps | apply State.markMode_keeps | apply State.ddrRefuse_keeps | apply State.ddrFlip_keeps | apply State.cwWriteBack_keeps | apply State.setErr_keeps | apply State.ceEvent_keeps | apply State.ueEvent_keeps | apply State.setBytes_keeps | apply kept_ite | apply kept_ite1 | (refine kept_foldl ?_ (fun _ _ _ => ?_)) | (refine kept_foldl1 ?_ (fun _ _ _ => ?_)) | (refine kept_foldl2 ?_ (fun _ _ _ => ?_)) | dsimp only | (refine kept_pair (by assumption) ?_) | (refine kept_opt (by assumption) ?_) | (refine kept_opt1 (by assumption) ?_) | split

theorem State.ddrZero_keeps {q : List Instr} (s : State) (lo hi : Nat) (h_s : Kept q s) : Kept q (State.ddrZero s lo hi) :=
  ⟨h_s.1, memWf_filter _ _ h_s.2.1, h_s.2.2⟩

theorem State.memCfg_keeps {qq : List Instr} (s : State) (val : Word) (h_s : Kept qq s) :
    Kept qq (State.memCfg s val) := by
  unfold State.memCfg
  dsimp -failIfUnchanged only
  repeat' with_reducible first | assumption | (intro _) | apply State.memIrq_keeps | apply State.storeRow_keeps | apply State.wr_keeps | apply kept_ite | dsimp only | split

theorem State.memCmd_keeps {qq : List Instr} (s : State) (val : Word) (h_s : Kept qq s) :
    Kept qq (State.memCmd s val) := by
  unfold State.memCmd
  dsimp -failIfUnchanged only
  repeat' with_reducible first | assumption | (intro _) | apply State.updDdr_keeps | apply State.memIrq_keeps | apply State.wr_keeps | apply State.setReg_keeps | apply kept_ite | dsimp only | (apply kept_mk; dsimp only; apply kept_un) | split

theorem State.memFault_keeps {qq : List Instr} (s : State) (cause : Nat) (h_s : Kept qq s) :
    Kept qq (State.memFault s cause) := by
  unfold State.memFault
  dsimp -failIfUnchanged only
  repeat' with_reducible first | assumption | (apply kept_id; assumption) | (intro _) | apply State.shutDone_keeps | apply State.faultStop_keeps | apply State.wr_keeps | apply kept_next | apply kept_ite | apply kept_ite1 | apply kept_ite3 | (refine kept_foldl ?_ (fun _ _ _ => ?_)) | (refine kept_foldl1 ?_ (fun _ _ _ => ?_)) | (refine kept_foldl2 ?_ (fun _ _ _ => ?_)) | (intro _) | dsimp only | (refine kept_pair (by assumption) ?_) | (refine kept_opt (by assumption) ?_) | (refine kept_opt1 (by assumption) ?_) | apply optKept_some | apply optKept_none | apply optKept_ite | (apply kept_mk; dsimp only; apply kept_un) | split

theorem State.memLost_keeps {qq : List Instr} (s : State) (h_s : Kept qq s) :
    Kept qq (State.memLost s) := by
  unfold State.memLost
  dsimp -failIfUnchanged only
  repeat' with_reducible first | assumption | (intro _) | apply State.ddrZero_keeps | apply State.updDdr_keeps | dsimp only

theorem State.memOn_keeps {qq : List Instr} (s : State) (h_s : Kept qq s) :
    Kept qq (State.memOn s) := by
  unfold State.memOn
  dsimp -failIfUnchanged only
  repeat' with_reducible first | assumption | (intro _) | apply State.setSt_keeps | apply State.wr_keeps | apply kept_ite | dsimp only | split

theorem State.memPop_keeps {qq : List Instr} (s : State) (val : Word) (h_s : Kept qq s) :
    Kept qq (State.memPop s val) := by
  unfold State.memPop
  dsimp -failIfUnchanged only
  repeat' with_reducible first | assumption | (intro _) | apply State.updDdr_keeps | apply State.wr_keeps | apply kept_ite | dsimp only | (apply kept_mk; dsimp only; apply kept_un) | split

theorem State.memStart_keeps {qq : List Instr} (s : State) (h_s : Kept qq s) :
    Kept qq (State.memStart s) := by
  unfold State.memStart
  dsimp -failIfUnchanged only
  repeat' with_reducible first | assumption | (intro _) | apply State.memFault_keeps | apply State.updDdr_keeps | apply State.wr_keeps | apply kept_ite | dsimp only | (refine kept_pair (by assumption) ?_) | (refine kept_opt (by assumption) ?_) | (refine kept_opt1 (by assumption) ?_) | (apply kept_mk; dsimp only; apply kept_un) | split

theorem State.memStopEnd_keeps {qq : List Instr} (s : State) (h_s : Kept qq s) :
    Kept qq (State.memStopEnd s) := by
  unfold State.memStopEnd
  dsimp -failIfUnchanged only
  repeat' with_reducible first | assumption | apply State.wr_keeps | dsimp only

theorem execDdrRead_keeps {qq : List Instr} (port : Nat) (addr : Nat) (n : Nat) (s : State) (h_s : Kept qq s) :
    Out.Kept qq (execDdrRead port addr n s) := by
  unfold execDdrRead
  dsimp -failIfUnchanged only
  repeat' with_reducible first | assumption | (intro _) | apply State.ddrReadOp_keeps | apply kept_next | apply kept_ite3 | dsimp only | (apply kept_mk; dsimp only; apply kept_un)

theorem execEccFlipArm_keeps {qq : List Instr} (val : Word) (s : State) (h_s : Kept qq s) :
    Out.Kept qq (execEccFlipArm val s) := by
  unfold execEccFlipArm
  dsimp -failIfUnchanged only
  repeat' with_reducible first | assumption | (intro _) | apply State.storeRow_keeps | apply State.gated_keeps | apply kept_next | apply kept_ite3 | dsimp only

theorem execMemCntClr_keeps {qq : List Instr} (val : Word) (s : State) (h_s : Kept qq s) :
    Out.Kept qq (execMemCntClr val s) := by
  unfold execMemCntClr
  dsimp -failIfUnchanged only
  repeat' with_reducible first | assumption | (intro _) | apply State.memCmd_keeps | apply State.gated_keeps | apply kept_next | apply kept_ite3 | dsimp only

theorem execMemInit_keeps {qq : List Instr} (val : Word) (s : State) (h_s : Kept qq s) :
    Out.Kept qq (execMemInit val s) := by
  unfold execMemInit
  dsimp -failIfUnchanged only
  repeat' with_reducible first | assumption | (intro _) | apply State.memCmd_keeps | apply State.gated_keeps | apply kept_next | apply kept_ite3 | dsimp only

theorem execMemInitDone_keeps {qq : List Instr} (s : State) (h_s : Kept qq s) :
    Out.Kept qq (execMemInitDone s) := by
  unfold execMemInitDone
  dsimp -failIfUnchanged only
  repeat' with_reducible first | assumption | (intro _) | apply State.ddrZero_keeps | apply State.updDdr_keeps | apply State.memIrq_keeps | apply State.wr_keeps | apply kept_next | apply kept_ite3 | apply kept_ite | dsimp only | (apply kept_mk; dsimp only; apply kept_un) | split

theorem execMemLogPop_keeps {qq : List Instr} (val : Word) (s : State) (h_s : Kept qq s) :
    Out.Kept qq (execMemLogPop val s) := by
  unfold execMemLogPop
  dsimp -failIfUnchanged only
  repeat' with_reducible first | assumption | (intro _) | apply State.memPop_keeps | apply State.gated_keeps | apply kept_next | apply kept_ite3 | dsimp only

theorem execScrubRead_keeps {qq : List Instr} (s : State) (h_s : Kept qq s) :
    Out.Kept qq (execScrubRead s) := by
  unfold execScrubRead
  dsimp -failIfUnchanged only
  repeat' with_reducible first | assumption | (intro _) | apply State.burstRead_keeps | apply State.memIrq_keeps | apply State.bump_keeps | apply State.wr_keeps | apply kept_next | apply kept_ite3 | apply kept_ite | dsimp only | split

theorem execTrainingDone_keeps {qq : List Instr} (fail : Option (Nat × Nat × Nat)) (s : State) (h_s : Kept qq s) :
    Out.Kept qq (execTrainingDone fail s) := by
  unfold execTrainingDone
  dsimp -failIfUnchanged only
  repeat' with_reducible first | assumption | (intro _) | apply State.memOn_keeps | apply State.memFault_keeps | apply State.ddrZero_keeps | apply State.wr_keeps | apply kept_next | apply kept_ite3 | apply kept_ite | dsimp only | (refine kept_pair (by assumption) ?_) | (refine kept_opt (by assumption) ?_) | (refine kept_opt1 (by assumption) ?_) | split

end Sys2Proof.Machine
end

