-- ==== Sys2Proof/Laws/KeepCup.lean ====
section
/-! SUPPORT. Each operation of Machine/Cup.lean leaves the register file and memory canonical and the queue as it is. -/

set_option linter.unusedTactic false
set_option linter.unreachableTactic false
set_option maxRecDepth 8000

namespace Sys2Proof.Machine

theorem State.arrayData_keeps {qq : List Instr} (s : State) (w : Nat) (line : Nat) (d : List Byte) (h_s : Kept qq s) :
    Kept qq (State.arrayData s w line d) := by
  unfold State.arrayData
  dsimp -failIfUnchanged only
  repeat' with_reducible first | assumption | apply State.setBytes_keeps | apply kept_ite | dsimp only | split

theorem State.cupIrq_keeps {qq : List Instr} (s : State) (bit : Nat) (h_s : Kept qq s) :
    Kept qq (State.cupIrq s bit) := by
  unfold State.cupIrq
  dsimp -failIfUnchanged only
  repeat' with_reducible first | assumption | apply State.irq_keeps | dsimp only

theorem State.updCup_keeps {qq : List Instr} (s : State) (f : CupState → CupState) (h_s : Kept qq s) :
    Kept qq (State.updCup s f) := by
  unfold State.updCup
  dsimp -failIfUnchanged only
  repeat' with_reducible first | assumption | (intro _) | dsimp only | (apply kept_mk; dsimp only; apply kept_un)

theorem State.dropLines_keeps {qq : List Instr} (s : State) (f : Nat → Bool) (h_s : Kept qq s) :
    Kept qq (State.dropLines s f) := by
  unfold State.dropLines
  dsimp -failIfUnchanged only
  repeat' with_reducible first | assumption | (intro _) | apply State.updCup_keeps | dsimp only | (apply kept_mk; dsimp only; apply kept_un)

theorem State.cupPerr_keeps {qq : List Instr} (s : State) (line : Nat) (h_s : Kept qq s) :
    Kept qq (State.cupPerr s line) := by
  unfold State.cupPerr
  dsimp -failIfUnchanged only
  repeat' with_reducible first | assumption | (intro _) | apply State.dropLines_keeps | apply State.cupIrq_keeps | apply State.hwPost_keeps | apply State.bump_keeps | dsimp only

theorem State.putLine_keeps {qq : List Instr} (s : State) (w : Nat) (line : Nat) (d : List Byte) (h_s : Kept qq s) :
    Kept qq (State.putLine s w line d) := by
  unfold State.putLine
  dsimp -failIfUnchanged only
  repeat' with_reducible first | assumption | (intro _) | apply State.updCup_keeps | apply State.arrayData_keeps | dsimp only | (apply kept_mk; dsimp only; apply kept_un)

theorem State.fill_keeps {qq : List Instr} (s : State) (line : Nat) (core : Nat) (pf : Bool) (h_s : Kept qq s) :
    Kept qq (State.fill s line core pf) := by
  unfold State.fill
  dsimp -failIfUnchanged only
  repeat' with_reducible first | assumption | (intro _) | apply State.updCup_keeps | apply kept_ite | dsimp only | (apply kept_mk; dsimp only; apply kept_un) | split

theorem State.prefetch_keeps {qq : List Instr} (s : State) (from_ : Nat) (line : Nat) (core : Nat) (h_s : Kept qq s) :
    Kept qq (State.prefetch s from_ line core) := by
  unfold State.prefetch
  dsimp -failIfUnchanged only
  repeat' with_reducible first | assumption | apply State.fill_keeps | apply kept_ite | dsimp only | split

theorem State.train_keeps {qq : List Instr} (s : State) (core : Nat) (line : Nat) (miss : Bool) (h_s : Kept qq s) :
    Kept qq (State.train s core line miss) := by
  unfold State.train
  dsimp -failIfUnchanged only
  repeat' with_reducible first | assumption | (intro _) | apply State.prefetch_keeps | apply State.updCup_keeps | apply kept_ite | (refine kept_foldl ?_ (fun _ _ _ => ?_)) | (refine kept_foldl1 ?_ (fun _ _ _ => ?_)) | (refine kept_foldl2 ?_ (fun _ _ _ => ?_)) | dsimp only | (refine kept_pair (by assumption) ?_) | (refine kept_opt (by assumption) ?_) | (refine kept_opt1 (by assumption) ?_) | (apply kept_mk; dsimp only; apply kept_un) | split

theorem State.displace_keeps {qq : List Instr} (s : State) (old : Option CLine) (h_s : Kept qq s) :
    Kept qq (State.displace s old) := by
  unfold State.displace
  dsimp -failIfUnchanged only
  repeat' with_reducible first | assumption | (intro _) | apply State.updCup_keeps | apply kept_ite | dsimp only | (refine kept_pair (by assumption) ?_) | (refine kept_opt (by assumption) ?_) | (refine kept_opt1 (by assumption) ?_) | (apply kept_mk; dsimp only; apply kept_un) | split

theorem State.install_keeps {qq : List Instr} (s : State) (m : Nat) (line : Nat) (d : List Byte) (h_s : Kept qq s) :
    Kept qq (State.install s m line d) := by
  unfold State.install
  dsimp -failIfUnchanged only
  repeat' with_reducible first | assumption | apply State.displace_keeps | apply State.putLine_keeps | dsimp only | (refine kept_pair (by assumption) ?_) | (refine kept_opt (by assumption) ?_) | (refine kept_opt1 (by assumption) ?_) | split

theorem State.cupLookup_keeps {qq : List Instr} (s : State) (core : Nat) (line : Nat) (perr : Bool) (h_s : Kept qq s) :
    Kept qq (State.cupLookup s core line perr).1 := by
  unfold State.cupLookup
  dsimp -failIfUnchanged only
  repeat' with_reducible first | assumption | (intro _) | apply State.install_keeps | apply State.train_keeps | apply State.fill_keeps | apply State.putLine_keeps | apply State.cupPerr_keeps | apply State.updCup_keeps | apply State.bump_keeps | apply kept_ite | apply kept_ite1 | dsimp only | (refine kept_pair (by assumption) ?_) | (refine kept_opt (by assumption) ?_) | (refine kept_opt1 (by assumption) ?_) | (apply kept_mk; dsimp only; apply kept_un) | split

theorem State.dropFills_keeps {qq : List Instr} (s : State) (f : Nat → Bool) (held : Bool) (h_s : Kept qq s) :
    Kept qq (State.dropFills s f held) := by
  unfold State.dropFills
  dsimp -failIfUnchanged only
  repeat' with_reducible first | assumption | (intro _) | apply State.updCup_keeps | apply kept_ite | dsimp only | (apply kept_mk; dsimp only; apply kept_un) | split

theorem State.maintRun_keeps {qq : List Instr} (s : State) (op : Nat) (h_s : Kept qq s) :
    Kept qq (State.maintRun s op) := by
  unfold State.maintRun
  dsimp -failIfUnchanged only
  repeat' with_reducible first | assumption | (intro _) | apply State.dropFills_keeps | apply State.updCup_keeps | apply State.wr_keeps | dsimp only | (apply kept_mk; dsimp only; apply kept_un)

theorem State.cupMaint_keeps {qq : List Instr} (s : State) (val : Word) (h_s : Kept qq s) :
    Kept qq (State.cupMaint s val) := by
  unfold State.cupMaint
  dsimp -failIfUnchanged only
  repeat' with_reducible first | assumption | (intro _) | apply State.maintRun_keeps | apply State.cupIrq_keeps | apply State.wr_keeps | apply kept_ite | dsimp only | split

theorem State.cupSnoop_keeps {qq : List Instr} (s : State) (line : Nat) (h_s : Kept qq s) :
    Kept qq (State.cupSnoop s line) := by
  unfold State.cupSnoop
  dsimp -failIfUnchanged only
  repeat' with_reducible first | assumption | (intro _) | apply State.dropFills_keeps | apply State.dropLines_keeps | apply State.bump_keeps | apply kept_ite | dsimp only | split

theorem State.cupPresent_keeps {qq : List Instr} (s : State) (port : Nat) (a : Nat) (l : List Byte) (h_s : Kept qq s) :
    Kept qq (State.cupPresent s port a l) := by
  unfold State.cupPresent
  dsimp -failIfUnchanged only
  repeat' with_reducible first | assumption | (intro _) | apply State.cupSnoop_keeps | apply State.install_keeps | apply State.dropLines_keeps | apply State.bump_keeps | apply kept_ite | (refine kept_foldl ?_ (fun _ _ _ => ?_)) | (refine kept_foldl1 ?_ (fun _ _ _ => ?_)) | (refine kept_foldl2 ?_ (fun _ _ _ => ?_)) | dsimp only | split

theorem State.cupSpad_keeps {qq : List Instr} (s : State) (val : Word) (h_s : Kept qq s) :
    Kept qq (State.cupSpad s val) := by
  unfold State.cupSpad
  dsimp -failIfUnchanged only
  repeat' with_reducible first | assumption | (intro _) | apply State.updCup_keeps | apply State.cupIrq_keeps | apply State.wr_keeps | apply kept_ite | dsimp only | (apply kept_mk; dsimp only; apply kept_un) | split

theorem State.cupWalk_keeps {qq : List Instr} (s : State) (h_s : Kept qq s) :
    Kept qq (State.cupWalk s) := by
  unfold State.cupWalk
  dsimp -failIfUnchanged only
  repeat' with_reducible first | assumption | (intro _) | apply State.updCup_keeps | dsimp only | (apply kept_mk; dsimp only; apply kept_un)

theorem State.cupStart_keeps {qq : List Instr} (s : State) (h_s : Kept qq s) :
    Kept qq (State.cupStart s) := by
  unfold State.cupStart
  dsimp -failIfUnchanged only
  repeat' with_reducible first | assumption | (intro _) | apply State.cupWalk_keeps | apply State.updCup_keeps | dsimp only | (apply kept_mk; dsimp only; apply kept_un)

theorem State.cupStop_keeps {qq : List Instr} (s : State) (h_s : Kept qq s) :
    Kept qq (State.cupStop s) := by
  unfold State.cupStop
  dsimp -failIfUnchanged only
  repeat' with_reducible first | assumption | (intro _) | apply State.cupWalk_keeps | apply State.dropFills_keeps | dsimp only

theorem State.cupStoreHit_keeps {qq : List Instr} (s : State) (a : Nat) (l : List Byte) (h_s : Kept qq s) :
    Kept qq (State.cupStoreHit s a l) := by
  unfold State.cupStoreHit
  dsimp -failIfUnchanged only
  repeat' with_reducible first | assumption | (intro _) | apply State.updCup_keeps | apply State.arrayData_keeps | apply kept_ite | apply kept_ite1 | dsimp only | (refine kept_pair (by assumption) ?_) | (refine kept_opt (by assumption) ?_) | (refine kept_opt1 (by assumption) ?_) | (apply kept_mk; dsimp only; apply kept_un) | split

theorem State.ddrStore_keeps {qq : List Instr} (s : State) (port : Nat) (a : Nat) (l : List Byte) (h_s : Kept qq s) :
    Kept qq (State.ddrStore s port a l).1 := by
  unfold State.ddrStore
  dsimp -failIfUnchanged only
  repeat' with_reducible first | assumption | (intro _) | apply State.cupPresent_keeps | apply State.ddrWriteOp_keeps | apply kept_ite | apply kept_ite1 | dsimp only | split

theorem State.fillReturn_keeps {qq : List Instr} (s : State) (x : CFill) (d : List Byte) (ok : Bool) (h_s : Kept qq s) :
    Kept qq (State.fillReturn s x d ok) := by
  unfold State.fillReturn
  dsimp -failIfUnchanged only
  repeat' with_reducible first | assumption | (intro _) | apply State.install_keeps | apply State.updCup_keeps | apply kept_ite | dsimp only | (apply kept_mk; dsimp only; apply kept_un) | split

theorem State.l1Fill_keeps {qq : List Instr} (s : State) (core : Nat) (line : Nat) (d : List Byte) (h_s : Kept qq s) :
    Kept qq (State.l1Fill s core line d) := by
  unfold State.l1Fill
  dsimp -failIfUnchanged only
  repeat' with_reducible first | assumption | (intro _) | dsimp only | (apply kept_mk; dsimp only; apply kept_un)

theorem State.l1Store_keeps {qq : List Instr} (s : State) (core : Nat) (a : Nat) (b : List Byte) (h_s : Kept qq s) :
    Kept qq (State.l1Store s core a b) := by
  unfold State.l1Store
  dsimp -failIfUnchanged only
  repeat' with_reducible first | assumption | (intro _) | apply kept_ite | apply kept_ite1 | dsimp only | (apply kept_mk; dsimp only; apply kept_un) | split

theorem cupMaintOp_keeps {qq : List Instr} (op : Nat) (val : Word) (s : State) (h_s : Kept qq s) :
    Kept qq (cupMaintOp op val s) := by
  unfold cupMaintOp
  dsimp -failIfUnchanged only
  repeat' with_reducible first | assumption | (intro _) | apply State.cupMaint_keeps | apply State.gated_keeps | dsimp only

theorem execCupCntClr_keeps {qq : List Instr} (val : Word) (s : State) (h_s : Kept qq s) :
    Out.Kept qq (execCupCntClr val s) := by
  unfold execCupCntClr
  dsimp -failIfUnchanged only
  repeat' with_reducible first | assumption | (intro _) | apply State.gated_keeps | apply State.setReg_keeps | apply kept_next | apply kept_ite3 | apply kept_ite | (refine kept_foldl ?_ (fun _ _ _ => ?_)) | (refine kept_foldl1 ?_ (fun _ _ _ => ?_)) | (refine kept_foldl2 ?_ (fun _ _ _ => ?_)) | dsimp only | split

theorem execCupSpadWrite_keeps {qq : List Instr} (val : Word) (s : State) (h_s : Kept qq s) :
    Out.Kept qq (execCupSpadWrite val s) := by
  unfold execCupSpadWrite
  dsimp -failIfUnchanged only
  repeat' with_reducible first | assumption | (intro _) | apply State.cupSpad_keeps | apply State.gated_keeps | apply kept_next | apply kept_ite3 | dsimp only

theorem execDdrWrite_keeps {qq : List Instr} (port : Nat) (addr : Nat) (bytes : List Byte) (s : State) (h_s : Kept qq s) :
    Out.Kept qq (execDdrWrite port addr bytes s) := by
  unfold execDdrWrite
  dsimp -failIfUnchanged only
  repeat' with_reducible first | assumption | (intro _) | apply State.ddrStore_keeps | apply kept_next | apply kept_ite3 | apply kept_ite | apply kept_ite1 | dsimp only | (apply kept_mk; dsimp only; apply kept_un) | split

theorem execInvAll_keeps {qq : List Instr} (val : Word) (s : State) (h_s : Kept qq s) :
    Out.Kept qq (execInvAll val s) := by
  unfold execInvAll
  dsimp -failIfUnchanged only
  repeat' with_reducible first | assumption | apply cupMaintOp_keeps | apply kept_next | apply kept_ite3 | dsimp only

theorem execInvLine_keeps {qq : List Instr} (val : Word) (s : State) (h_s : Kept qq s) :
    Out.Kept qq (execInvLine val s) := by
  unfold execInvLine
  dsimp -failIfUnchanged only
  repeat' with_reducible first | assumption | apply cupMaintOp_keeps | apply kept_next | apply kept_ite3 | dsimp only

theorem execInvRange_keeps {qq : List Instr} (val : Word) (s : State) (h_s : Kept qq s) :
    Out.Kept qq (execInvRange val s) := by
  unfold execInvRange
  dsimp -failIfUnchanged only
  repeat' with_reducible first | assumption | apply cupMaintOp_keeps | apply kept_next | apply kept_ite3 | dsimp only

theorem execInvWays_keeps {qq : List Instr} (val : Word) (s : State) (h_s : Kept qq s) :
    Out.Kept qq (execInvWays val s) := by
  unfold execInvWays
  dsimp -failIfUnchanged only
  repeat' with_reducible first | assumption | apply cupMaintOp_keeps | apply kept_next | apply kept_ite3 | dsimp only

theorem execMaintDone_keeps {qq : List Instr} (s : State) (h_s : Kept qq s) :
    Out.Kept qq (execMaintDone s) := by
  unfold execMaintDone
  dsimp -failIfUnchanged only
  repeat' with_reducible first | assumption | (intro _) | apply State.cupIrq_keeps | apply State.wr_keeps | apply kept_next | apply kept_ite3 | apply kept_ite | dsimp only | split

theorem execScratchpadAccess_keeps {qq : List Instr} (port : Nat) (addr : Nat) (n : Nat) (wr : Option (List Byte)) (perr : Bool) (s : State) (h_s : Kept qq s) :
    Out.Kept qq (execScratchpadAccess port addr n wr perr s) := by
  unfold execScratchpadAccess
  dsimp -failIfUnchanged only
  repeat' with_reducible first | assumption | (intro _) | apply State.cupIrq_keeps | apply State.setBytes_keeps | apply kept_next | apply kept_ite3 | apply kept_ite | dsimp only | (refine kept_pair (by assumption) ?_) | (refine kept_opt (by assumption) ?_) | (refine kept_opt1 (by assumption) ?_) | (apply kept_mk; dsimp only; apply kept_un) | split

theorem execSpadWalkDone_keeps {qq : List Instr} (s : State) (h_s : Kept qq s) :
    Out.Kept qq (execSpadWalkDone s) := by
  unfold execSpadWalkDone
  dsimp -failIfUnchanged only
  repeat' with_reducible first | assumption | (intro _) | apply State.updCup_keeps | apply State.cupIrq_keeps | apply State.wr_keeps | apply kept_next | apply kept_ite3 | apply kept_ite | dsimp only | (apply kept_mk; dsimp only; apply kept_un) | split

end Sys2Proof.Machine
end

