-- ==== Sys2Proof/Laws/KeepDma.lean ====
section
/-! SUPPORT. Each operation of Machine/Dma.lean leaves the register file and memory canonical and the queue as it is. -/

set_option linter.unusedTactic false
set_option linter.unreachableTactic false
set_option maxRecDepth 8000

namespace Sys2Proof.Machine

theorem State.updDma_keeps {qq : List Instr} (s : State) (f : DmaState → DmaState) (h_s : Kept qq s) :
    Kept qq (State.updDma s f) := by
  unfold State.updDma
  dsimp -failIfUnchanged only
  repeat' with_reducible first | assumption | (intro _) | dsimp only | (apply kept_mk; dsimp only; apply kept_un)

theorem State.dmaShow_keeps {qq : List Instr} (s : State) (c : Nat) (h_s : Kept qq s) :
    Kept qq (State.dmaShow s c) := by
  unfold State.dmaShow
  dsimp -failIfUnchanged only
  repeat' with_reducible first | assumption | (intro _) | apply State.wr_keeps | apply kept_ite | dsimp only | split

theorem State.updCh_keeps {qq : List Instr} (s : State) (c : Nat) (f : DmaCh → DmaCh) (h_s : Kept qq s) :
    Kept qq (State.updCh s c f) := by
  unfold State.updCh
  dsimp -failIfUnchanged only
  repeat' with_reducible first | assumption | (intro _) | apply State.dmaShow_keeps | apply State.updDma_keeps | dsimp only | (apply kept_mk; dsimp only; apply kept_un)

theorem State.burstIssue_keeps {qq : List Instr} (s : State) (c : Nat) (h_s : Kept qq s) :
    Kept qq (State.burstIssue s c) := by
  unfold State.burstIssue
  dsimp -failIfUnchanged only
  repeat' with_reducible first | assumption | (intro _) | apply State.updCh_keeps | apply State.updDma_keeps | apply kept_ite | dsimp only | (apply kept_mk; dsimp only; apply kept_un) | split

theorem State.dmaSpoil_keeps {qq : List Instr} (s : State) (l : List Word) (h_s : Kept qq s) :
    Kept qq (State.dmaSpoil s l) := by
  unfold State.dmaSpoil
  dsimp -failIfUnchanged only
  repeat' with_reducible first | assumption | (intro _) | apply State.setBytes_keeps | apply State.drawn_keeps | apply kept_ite | dsimp only | split

theorem State.setCst_keeps {qq : List Instr} (s : State) (c : Nat) (v : Nat) (h_s : Kept qq s) :
    Kept qq (State.setCst s c v) := by
  unfold State.setCst
  dsimp -failIfUnchanged only
  repeat' with_reducible first | assumption | apply State.wb_keeps | apply State.wr_keeps | dsimp only

theorem State.dmaDisable_keeps {qq : List Instr} (s : State) (c : Nat) (h_s : Kept qq s) :
    Kept qq (State.dmaDisable s c) := by
  unfold State.dmaDisable
  dsimp -failIfUnchanged only
  repeat' with_reducible first | assumption | (intro _) | apply State.setCst_keeps | apply State.dmaSpoil_keeps | apply State.updCh_keeps | apply State.drawn_keeps | apply State.wr_keeps | apply kept_ite | dsimp only | split

theorem State.dmaIrq_keeps {qq : List Instr} (s : State) (bit : Nat) (h_s : Kept qq s) :
    Kept qq (State.dmaIrq s bit) := by
  unfold State.dmaIrq
  dsimp -failIfUnchanged only
  repeat' with_reducible first | assumption | apply State.irq_keeps | dsimp only

theorem State.parkCheck_keeps {qq : List Instr} (s : State) (c : Nat) (h_s : Kept qq s) :
    Kept qq (State.parkCheck s c) := by
  unfold State.parkCheck
  dsimp -failIfUnchanged only
  repeat' with_reducible first | assumption | (intro _) | apply State.setCst_keeps | apply State.updCh_keeps | apply kept_ite | dsimp only | (apply kept_mk; dsimp only; apply kept_un) | split

theorem State.dmaFetch_keeps {qq : List Instr} (s : State) (c : Nat) (h_s : Kept qq s) :
    Kept qq (State.dmaFetch s c) := by
  unfold State.dmaFetch
  dsimp -failIfUnchanged only
  repeat' with_reducible first | assumption | (intro _) | apply State.parkCheck_keeps | apply State.setCst_keeps | apply State.updCh_keeps | dsimp only | (apply kept_mk; dsimp only; apply kept_un)

theorem State.dmaCtl_keeps {qq : List Instr} (s : State) (c : Nat) (val : Word) (h_s : Kept qq s) :
    Kept qq (State.dmaCtl s c val) := by
  unfold State.dmaCtl
  dsimp -failIfUnchanged only
  repeat' with_reducible first | assumption | (intro _) | apply State.dmaFetch_keeps | apply State.dmaIrq_keeps | apply State.dmaDisable_keeps | apply State.wr_keeps | apply kept_ite | dsimp only | split

theorem State.dmaDoorbell_keeps {qq : List Instr} (s : State) (c : Nat) (val : Word) (h_s : Kept qq s) :
    Kept qq (State.dmaDoorbell s c val) := by
  unfold State.dmaDoorbell
  dsimp -failIfUnchanged only
  repeat' with_reducible first | assumption | (intro _) | apply State.updCh_keeps | apply State.wr_keeps | apply kept_ite | dsimp only | (apply kept_mk; dsimp only; apply kept_un) | split

theorem State.setWord7_keeps {qq : List Instr} (s : State) (c : Nat) (w : Word) (h_s : Kept qq s) :
    Kept qq (State.setWord7 s c w) := by
  unfold State.setWord7
  dsimp -failIfUnchanged only
  repeat' with_reducible first | assumption | (intro _) | apply State.updCh_keeps | dsimp only | (apply kept_mk; dsimp only; apply kept_un)

theorem State.dmaEnd_keeps {qq : List Instr} (s : State) (c : Nat) (h_s : Kept qq s) :
    Kept qq (State.dmaEnd s c) := by
  unfold State.dmaEnd
  dsimp -failIfUnchanged only
  repeat' with_reducible first | assumption | (intro _) | apply State.setWord7_keeps | apply kept_ite | dsimp only | split

theorem State.dmaPark_keeps {qq : List Instr} (s : State) (c : Nat) (kind : Nat) (domains : Nat) (h_s : Kept qq s) :
    Kept qq (State.dmaPark s c kind domains) := by
  unfold State.dmaPark
  dsimp -failIfUnchanged only
  repeat' with_reducible first | assumption | (intro _) | apply State.parkCheck_keeps | apply State.updCh_keeps | apply kept_ite | dsimp only | (apply kept_mk; dsimp only; apply kept_un) | split

theorem State.dmaPulse_keeps {qq : List Instr} (s : State) (line : Nat) (h_s : Kept qq s) :
    Kept qq (State.dmaPulse s line) := by
  unfold State.dmaPulse
  dsimp -failIfUnchanged only
  repeat' with_reducible first | assumption | (intro _) | apply State.setCst_keeps | apply State.burstIssue_keeps | apply State.wr_keeps | apply kept_ite | dsimp only | (refine kept_pair (by assumption) ?_) | (refine kept_opt (by assumption) ?_) | (refine kept_opt1 (by assumption) ?_) | split

theorem State.dmaQuiesce_keeps {qq : List Instr} (s : State) (domains : Nat) (h_s : Kept qq s) :
    Kept qq (State.dmaQuiesce s domains) := by
  unfold State.dmaQuiesce
  dsimp -failIfUnchanged only
  repeat' with_reducible first | assumption | (intro _) | apply State.dmaPark_keeps | apply State.updDma_keeps | apply State.wr_keeps | (refine kept_foldl ?_ (fun _ _ _ => ?_)) | (refine kept_foldl1 ?_ (fun _ _ _ => ?_)) | (refine kept_foldl2 ?_ (fun _ _ _ => ?_)) | dsimp only | (apply kept_mk; dsimp only; apply kept_un)

theorem State.unpark_keeps {qq : List Instr} (s : State) (c : Nat) (h_s : Kept qq s) :
    Kept qq (State.unpark s c) := by
  unfold State.unpark
  dsimp -failIfUnchanged only
  repeat' with_reducible first | assumption | (intro _) | apply State.setCst_keeps | apply State.updCh_keeps | dsimp only | (apply kept_mk; dsimp only; apply kept_un)

theorem State.dmaRelease_keeps {qq : List Instr} (s : State) (domains : Nat) (h_s : Kept qq s) :
    Kept qq (State.dmaRelease s domains) := by
  unfold State.dmaRelease
  dsimp -failIfUnchanged only
  repeat' with_reducible first | assumption | (intro _) | apply State.unpark_keeps | apply State.setCst_keeps | apply State.updCh_keeps | apply kept_ite | (refine kept_foldl ?_ (fun _ _ _ => ?_)) | (refine kept_foldl1 ?_ (fun _ _ _ => ?_)) | (refine kept_foldl2 ?_ (fun _ _ _ => ?_)) | dsimp only | (apply kept_mk; dsimp only; apply kept_un) | split

theorem State.dmaSettle_keeps {qq : List Instr} (s : State) (h_s : Kept qq s) :
    Kept qq (State.dmaSettle s) := by
  unfold State.dmaSettle
  dsimp -failIfUnchanged only
  repeat' with_reducible first | assumption | apply State.shutDone_keeps | apply kept_ite | dsimp only | split

theorem State.dmaSetup_keeps {qq : List Instr} (s : State) (c : Nat) (a : Nat) (val : Word) (h_s : Kept qq s) :
    Kept qq (State.dmaSetup s c a val) := by
  unfold State.dmaSetup
  dsimp -failIfUnchanged only
  repeat' with_reducible first | assumption | apply State.dmaIrq_keeps | apply State.storeRow_keeps | apply kept_ite | dsimp only | split

theorem State.dmaStart_keeps {qq : List Instr} (s : State) (h_s : Kept qq s) :
    Kept qq (State.dmaStart s) := by
  unfold State.dmaStart
  dsimp -failIfUnchanged only
  repeat' with_reducible first | assumption | (intro _) | apply State.unpark_keeps | apply State.dmaFetch_keeps | apply kept_ite | (refine kept_foldl ?_ (fun _ _ _ => ?_)) | (refine kept_foldl1 ?_ (fun _ _ _ => ?_)) | (refine kept_foldl2 ?_ (fun _ _ _ => ?_)) | dsimp only | split

theorem State.dmaStop_keeps {qq : List Instr} (s : State) (h_s : Kept qq s) :
    Kept qq (State.dmaStop s) := by
  unfold State.dmaStop
  dsimp -failIfUnchanged only
  repeat' with_reducible first | assumption | (intro _) | apply State.dmaSettle_keeps | apply State.dmaPark_keeps | (refine kept_foldl ?_ (fun _ _ _ => ?_)) | (refine kept_foldl1 ?_ (fun _ _ _ => ?_)) | (refine kept_foldl2 ?_ (fun _ _ _ => ?_)) | dsimp only

theorem State.dmaThermal_keeps {qq : List Instr} (s : State) (domains : Nat) (h_s : Kept qq s) :
    Kept qq (State.dmaThermal s domains) := by
  unfold State.dmaThermal
  dsimp -failIfUnchanged only
  repeat' with_reducible first | assumption | (intro _) | apply State.dmaIrq_keeps | apply State.dmaDisable_keeps | (refine kept_foldl ?_ (fun _ _ _ => ?_)) | (refine kept_foldl1 ?_ (fun _ _ _ => ?_)) | (refine kept_foldl2 ?_ (fun _ _ _ => ?_)) | dsimp only

theorem State.setDescAddr_keeps {qq : List Instr} (s : State) (c : Nat) (a : Nat) (h_s : Kept qq s) :
    Kept qq (State.setDescAddr s c a) := by
  unfold State.setDescAddr
  dsimp -failIfUnchanged only
  repeat' with_reducible first | assumption | apply State.wr_keeps | dsimp only

theorem execDmaBurstIssue_keeps {qq : List Instr} (s : State) (h_s : Kept qq s) :
    Out.Kept qq (execDmaBurstIssue s) := by
  unfold execDmaBurstIssue
  dsimp -failIfUnchanged only
  repeat' with_reducible first | assumption | (intro _) | apply State.parkCheck_keeps | apply State.setCst_keeps | apply State.burstIssue_keeps | apply State.updDma_keeps | apply State.wr_keeps | apply kept_next | apply kept_ite3 | apply kept_ite | (refine kept_foldl ?_ (fun _ _ _ => ?_)) | (refine kept_foldl1 ?_ (fun _ _ _ => ?_)) | (refine kept_foldl2 ?_ (fun _ _ _ => ?_)) | dsimp only | (refine kept_pair (by assumption) ?_) | (refine kept_opt (by assumption) ?_) | (refine kept_opt1 (by assumption) ?_) | (apply kept_mk; dsimp only; apply kept_un) | split

theorem execDmaChDb_keeps {qq : List Instr} (c : Nat) (val : Word) (s : State) (h_s : Kept qq s) :
    Out.Kept qq (execDmaChDb c val s) := by
  unfold execDmaChDb
  dsimp -failIfUnchanged only
  repeat' with_reducible first | assumption | (intro _) | apply State.dmaDoorbell_keeps | apply State.gated_keeps | apply kept_next | apply kept_ite3 | apply kept_ite | dsimp only | split

theorem execDmaChDisable_keeps {qq : List Instr} (c : Nat) (val : Word) (s : State) (h_s : Kept qq s) :
    Out.Kept qq (execDmaChDisable c val s) := by
  unfold execDmaChDisable
  dsimp -failIfUnchanged only
  repeat' with_reducible first | assumption | (intro _) | apply State.dmaCtl_keeps | apply State.gated_keeps | apply kept_next | apply kept_ite3 | apply kept_ite | dsimp only | split

theorem execDmaChEnable_keeps {qq : List Instr} (c : Nat) (val : Word) (s : State) (h_s : Kept qq s) :
    Out.Kept qq (execDmaChEnable c val s) := by
  unfold execDmaChEnable
  dsimp -failIfUnchanged only
  repeat' with_reducible first | assumption | (intro _) | apply State.dmaCtl_keeps | apply State.gated_keeps | apply kept_next | apply kept_ite3 | apply kept_ite | dsimp only | split

theorem execDmaRequestPulse_keeps {qq : List Instr} (line : Nat) (s : State) (h_s : Kept qq s) :
    Out.Kept qq (execDmaRequestPulse line s) := by
  unfold execDmaRequestPulse
  dsimp -failIfUnchanged only
  repeat' with_reducible first | assumption | apply State.dmaPulse_keeps | apply kept_next | apply kept_ite3 | apply kept_ite | dsimp only | split

end Sys2Proof.Machine
end

