-- ==== Sys2Proof/Laws/KeepFls.lean ====
section
/-! SUPPORT. Each operation of Machine/Fls.lean leaves the register file and memory canonical and the queue as it is. -/

set_option linter.unusedTactic false
set_option linter.unreachableTactic false
set_option maxRecDepth 8000

namespace Sys2Proof.Machine

theorem State.flsIrq_keeps {qq : List Instr} (s : State) (bit : Nat) (h_s : Kept qq s) :
    Kept qq (State.flsIrq s bit) := by
  unfold State.flsIrq
  dsimp -failIfUnchanged only
  repeat' with_reducible first | assumption | apply State.irq_keeps | dsimp only

theorem State.cmdEnd_keeps {qq : List Instr} (s : State) (r : Nat) (h_s : Kept qq s) :
    Kept qq (State.cmdEnd s r) := by
  unfold State.cmdEnd
  dsimp -failIfUnchanged only
  repeat' with_reducible first | assumption | (intro _) | apply State.flsIrq_keeps | apply State.wr_keeps | apply kept_ite | dsimp only | split

theorem State.updFls_keeps {qq : List Instr} (s : State) (f : FlsState → FlsState) (h_s : Kept qq s) :
    Kept qq (State.updFls s f) := by
  unfold State.updFls
  dsimp -failIfUnchanged only
  repeat' with_reducible first | assumption | (intro _) | dsimp only | (apply kept_mk; dsimp only; apply kept_un)

theorem State.seqRead_keeps {qq : List Instr} (s : State) (h_s : Kept qq s) :
    Kept qq (State.seqRead s) := by
  unfold State.seqRead
  dsimp -failIfUnchanged only
  repeat' with_reducible first | assumption | (intro _) | apply State.updFls_keeps | apply State.wr_keeps | dsimp only | (apply kept_mk; dsimp only; apply kept_un)

theorem State.seqErr_keeps {qq : List Instr} (s : State) (h_s : Kept qq s) :
    Kept qq (State.seqErr s) := by
  unfold State.seqErr
  dsimp -failIfUnchanged only
  repeat' with_reducible first | assumption | (intro _) | apply State.seqRead_keeps | apply State.cmdEnd_keeps | apply State.bump_keeps | apply kept_ite | dsimp only | split

theorem State.afterU_keeps {qq : List Instr} (s : State) (off : Nat) (v : Nat) (h_s : Kept qq s) :
    Kept qq (State.afterU s off v) := by
  unfold State.afterU
  dsimp -failIfUnchanged only
  repeat' with_reducible first | assumption | (intro _) | apply State.seqErr_keeps | apply State.seqRead_keeps | apply State.updFls_keeps | apply State.cmdEnd_keeps | apply State.dmaPulse_keeps | apply State.wr_keeps | apply kept_ite | dsimp only | (apply kept_mk; dsimp only; apply kept_un) | split

theorem State.bootWp_keeps {qq : List Instr} (s : State) (port : Nat) (val : Word) (h_s : Kept qq s) :
    Kept qq (State.bootWp s port val) := by
  unfold State.bootWp
  dsimp -failIfUnchanged only
  repeat' with_reducible first | assumption | (intro _) | apply State.flsIrq_keeps | apply State.wr_keeps | apply kept_ite | dsimp only | split

theorem State.opStart_keeps {qq : List Instr} (s : State) (x : FlsOp) (h_s : Kept qq s) :
    Kept qq (State.opStart s x) := by
  unfold State.opStart
  dsimp -failIfUnchanged only
  repeat' with_reducible first | assumption | (intro _) | apply State.updFls_keeps | apply State.wr_keeps | dsimp only | (apply kept_mk; dsimp only; apply kept_un)

theorem State.eraseResume_keeps {qq : List Instr} (s : State) (vppOk : Bool) (h_s : Kept qq s) :
    Kept qq (State.eraseResume s vppOk) := by
  unfold State.eraseResume
  dsimp -failIfUnchanged only
  repeat' with_reducible first | assumption | (intro _) | apply State.opStart_keeps | apply State.updFls_keeps | apply State.cmdEnd_keeps | apply State.wr_keeps | apply kept_ite | dsimp only | (refine kept_pair (by assumption) ?_) | (refine kept_opt (by assumption) ?_) | (refine kept_opt1 (by assumption) ?_) | (apply kept_mk; dsimp only; apply kept_un) | split

theorem State.eraseSuspend_keeps {qq : List Instr} (s : State) (h_s : Kept qq s) :
    Kept qq (State.eraseSuspend s) := by
  unfold State.eraseSuspend
  dsimp -failIfUnchanged only
  repeat' with_reducible first | assumption | (intro _) | apply State.updFls_keeps | apply kept_ite | dsimp only | (apply kept_mk; dsimp only; apply kept_un) | split

theorem State.pwCheck_keeps {qq : List Instr} (s : State) (l : List Byte) (h_s : Kept qq s) :
    Kept qq (State.pwCheck s l) := by
  unfold State.pwCheck
  dsimp -failIfUnchanged only
  repeat' with_reducible first | assumption | (intro _) | apply State.cmdEnd_keeps | apply State.flsIrq_keeps | apply State.wr_keeps | apply kept_ite | dsimp only | split

theorem State.markProg_keeps {qq : List Instr} (s : State) (w : Nat) (n : Nat) (h_s : Kept qq s) :
    Kept qq (State.markProg s w n) := by
  unfold State.markProg
  dsimp -failIfUnchanged only
  repeat' with_reducible first | assumption | (intro _) | apply State.updFls_keeps | dsimp only | (apply kept_mk; dsimp only; apply kept_un)

theorem State.flsStart_keeps {qq : List Instr} (s : State) (op : Nat) (k : Nat) (words : List (Nat × List Byte)) (pw : List Byte) (vppOk : Bool) (h_s : Kept qq s) :
    Kept qq (State.flsStart s op k words pw vppOk) := by
  unfold State.flsStart
  dsimp -failIfUnchanged only
  repeat' with_reducible first | assumption | (intro _) | apply State.markProg_keeps | apply State.pwCheck_keeps | apply State.opStart_keeps | apply State.seqRead_keeps | apply State.cmdEnd_keeps | apply State.setBytes_keeps | apply State.wr_keeps | apply kept_ite | apply kept_ite1 | (refine kept_foldl ?_ (fun _ _ _ => ?_)) | (refine kept_foldl1 ?_ (fun _ _ _ => ?_)) | (refine kept_foldl2 ?_ (fun _ _ _ => ?_)) | dsimp only | (apply kept_mk; dsimp only; apply kept_un) | split

theorem State.eraseTail_keeps {qq : List Instr} (s : State) (off : Nat) (v : Nat) (vppOk : Bool) (h_s : Kept qq s) :
    Kept qq (State.eraseTail s off v vppOk) := by
  unfold State.eraseTail
  dsimp -failIfUnchanged only
  repeat' with_reducible first | assumption | (intro _) | apply State.flsStart_keeps | apply State.seqErr_keeps | apply State.updFls_keeps | apply kept_ite | dsimp only | (apply kept_mk; dsimp only; apply kept_un) | split

theorem State.markErased_keeps {qq : List Instr} (s : State) (w : Nat) (n : Nat) (h_s : Kept qq s) :
    Kept qq (State.markErased s w n) := by
  unfold State.markErased
  dsimp -failIfUnchanged only
  repeat' with_reducible first | assumption | (intro _) | apply State.updFls_keeps | dsimp only | (apply kept_mk; dsimp only; apply kept_un)

theorem State.eraseWhole_keeps {qq : List Instr} (s : State) (k : Nat) (h_s : Kept qq s) :
    Kept qq (State.eraseWhole s k) := by
  unfold State.eraseWhole
  dsimp -failIfUnchanged only
  repeat' with_reducible first | assumption | (intro _) | apply State.markErased_keeps | apply State.updFls_keeps | apply State.wr_keeps | dsimp only | (apply kept_mk; dsimp only; apply kept_un)

theorem State.wordData_keeps {qq : List Instr} (s : State) (off : Nat) (l : List Byte) (vppOk : Bool) (h_s : Kept qq s) :
    Kept qq (State.wordData s off l vppOk) := by
  unfold State.wordData
  dsimp -failIfUnchanged only
  repeat' with_reducible first | assumption | (intro _) | apply State.flsStart_keeps | apply State.seqErr_keeps | apply State.updFls_keeps | apply kept_ite | apply kept_ite1 | dsimp only | (apply kept_mk; dsimp only; apply kept_un) | split

theorem State.pageData_keeps {qq : List Instr} (s : State) (off : Nat) (l : List Byte) (vppOk : Bool) (h_s : Kept qq s) :
    Kept qq (State.pageData s off l vppOk) := by
  unfold State.pageData
  dsimp -failIfUnchanged only
  repeat' with_reducible first | assumption | (intro _) | apply State.flsStart_keeps | apply State.seqErr_keeps | apply State.updFls_keeps | apply State.wr_keeps | apply kept_ite | apply kept_ite1 | dsimp only | (refine kept_pair (by assumption) ?_) | (refine kept_opt (by assumption) ?_) | (refine kept_opt1 (by assumption) ?_) | (apply kept_mk; dsimp only; apply kept_un) | split

theorem State.pwData_keeps {qq : List Instr} (s : State) (off : Nat) (l : List Byte) (vppOk : Bool) (h_s : Kept qq s) :
    Kept qq (State.pwData s off l vppOk) := by
  unfold State.pwData
  dsimp -failIfUnchanged only
  repeat' with_reducible first | assumption | (intro _) | apply State.flsStart_keeps | apply State.seqErr_keeps | apply State.updFls_keeps | apply kept_ite | apply kept_ite1 | dsimp only | (apply kept_mk; dsimp only; apply kept_un) | split

theorem State.phaseWrite_keeps {qq : List Instr} (s : State) (off : Nat) (l : List Byte) (vppOk : Bool) (h_s : Kept qq s) :
    Kept qq (State.phaseWrite s off l vppOk) := by
  unfold State.phaseWrite
  dsimp -failIfUnchanged only
  repeat' with_reducible first | assumption | (intro _) | apply State.pwData_keeps | apply State.pageData_keeps | apply State.wordData_keeps | apply State.eraseTail_keeps | apply State.flsStart_keeps | apply State.seqErr_keeps | apply State.updFls_keeps | apply State.wr_keeps | apply kept_ite | dsimp only | (apply kept_mk; dsimp only; apply kept_un) | split

theorem State.flsCycle_keeps {qq : List Instr} (s : State) (off : Nat) (l : List Byte) (vppOk : Bool) (h_s : Kept qq s) :
    Kept qq (State.flsCycle s off l vppOk) := by
  unfold State.flsCycle
  dsimp -failIfUnchanged only
  repeat' with_reducible first | assumption | (intro _) | apply State.phaseWrite_keeps | apply State.eraseSuspend_keeps | apply State.eraseResume_keeps | apply State.afterU_keeps | apply State.seqErr_keeps | apply State.seqRead_keeps | apply State.flsIrq_keeps | apply State.wr_keeps | apply kept_ite | dsimp only | split

theorem State.flsLost_keeps {qq : List Instr} (s : State) (h_s : Kept qq s) :
    Kept qq (State.flsLost s) := by
  unfold State.flsLost
  dsimp -failIfUnchanged only
  repeat' with_reducible first | assumption | (intro _) | apply State.updFls_keeps | apply State.setBytes_keeps | apply State.drawn_keeps | (refine kept_foldl ?_ (fun _ _ _ => ?_)) | (refine kept_foldl1 ?_ (fun _ _ _ => ?_)) | (refine kept_foldl2 ?_ (fun _ _ _ => ?_)) | dsimp only | (apply kept_mk; dsimp only; apply kept_un)

theorem State.flsReadOp_keeps {qq : List Instr} (s : State) (a : Nat) (n : Nat) (ecc : Nat) (h_s : Kept qq s) :
    Kept qq (State.flsReadOp s a n ecc).1 := by
  unfold State.flsReadOp
  dsimp -failIfUnchanged only
  repeat' with_reducible first | assumption | (intro _) | apply State.flsIrq_keeps | apply State.hwPost_keeps | apply State.drawn_keeps | apply State.bump_keeps | apply kept_ite | apply kept_ite1 | dsimp only | (apply kept_mk; dsimp only; apply kept_un) | split

theorem setMap_keeps {qq : List Instr} (s : State) (f : Nat → Fld) (k : Nat) (b : Bool) (h_s : Kept qq s) :
    Kept qq (setMap s f k b) := by
  unfold setMap
  dsimp -failIfUnchanged only
  repeat' with_reducible first | assumption | (intro _) | apply State.wb_keeps | dsimp only

theorem State.showPpb_keeps {qq : List Instr} (s : State) (h_s : Kept qq s) :
    Kept qq (State.showPpb s) := by
  unfold State.showPpb
  dsimp -failIfUnchanged only
  repeat' with_reducible first | assumption | (intro _) | apply State.wr_keeps | (refine kept_foldl ?_ (fun _ _ _ => ?_)) | (refine kept_foldl1 ?_ (fun _ _ _ => ?_)) | (refine kept_foldl2 ?_ (fun _ _ _ => ?_)) | dsimp only

theorem State.flsStartUp_keeps {qq : List Instr} (s : State) (h_s : Kept qq s) :
    Kept qq (State.flsStartUp s) := by
  unfold State.flsStartUp
  dsimp -failIfUnchanged only
  repeat' with_reducible first | assumption | (intro _) | apply State.showPpb_keeps | apply setMap_keeps | apply State.flsIrq_keeps | apply kept_ite | apply kept_ite1 | (refine kept_foldl ?_ (fun _ _ _ => ?_)) | (refine kept_foldl1 ?_ (fun _ _ _ => ?_)) | (refine kept_foldl2 ?_ (fun _ _ _ => ?_)) | dsimp only | split

theorem State.flsStop_keeps {qq : List Instr} (s : State) (h_s : Kept qq s) :
    Kept qq (State.flsStop s) := by
  unfold State.flsStop
  dsimp -failIfUnchanged only
  repeat' with_reducible first | assumption | apply State.eraseSuspend_keeps | dsimp only

theorem State.flsWriteOp_keeps {qq : List Instr} (s : State) (a : Nat) (l : List Byte) (vppOk : Bool) (h_s : Kept qq s) :
    Kept qq (State.flsWriteOp s a l vppOk).1 := by
  unfold State.flsWriteOp
  dsimp -failIfUnchanged only
  repeat' with_reducible first | assumption | apply State.flsCycle_keeps | apply kept_ite | apply kept_ite1 | dsimp only | split

theorem State.mscrubClear_keeps {qq : List Instr} (s : State) (h_s : Kept qq s) :
    Kept qq (State.mscrubClear s) := by
  unfold State.mscrubClear
  dsimp -failIfUnchanged only
  repeat' with_reducible first | assumption | apply State.wr_keeps | dsimp only

theorem State.norStore_keeps {qq : List Instr} (s : State) (a : Nat) (l : List Byte) (h_s : Kept qq s) :
    Kept qq (State.norStore s a l) := by
  unfold State.norStore
  dsimp -failIfUnchanged only
  repeat' with_reducible first | assumption | apply State.markProg_keeps | apply State.setBytes_keeps | dsimp only

theorem State.opEnd_keeps {qq : List Instr} (s : State) (r : Nat) (h_s : Kept qq s) :
    Kept qq (State.opEnd s r) := by
  unfold State.opEnd
  dsimp -failIfUnchanged only
  repeat' with_reducible first | assumption | (intro _) | apply State.updFls_keeps | apply State.cmdEnd_keeps | apply State.wr_keeps | dsimp only | (apply kept_mk; dsimp only; apply kept_un)

theorem State.suspendNow_keeps {qq : List Instr} (s : State) (r : FlsOp) (h_s : Kept qq s) :
    Kept qq (State.suspendNow s r) := by
  unfold State.suspendNow
  dsimp -failIfUnchanged only
  repeat' with_reducible first | assumption | (intro _) | apply State.updFls_keeps | apply State.wr_keeps | dsimp only | (apply kept_mk; dsimp only; apply kept_un)

theorem State.unlockCmd_keeps {qq : List Instr} (s : State) (v : Nat) (vppOk : Bool) (h_s : Kept qq s) :
    Kept qq (State.unlockCmd s v vppOk) := by
  unfold State.unlockCmd
  dsimp -failIfUnchanged only
  repeat' with_reducible first | assumption | apply State.flsCycle_keeps | dsimp only

theorem execBufferProgram_keeps {qq : List Instr} (writes : List (Nat × List Byte)) (vppOk : Bool) (s : State) (h_s : Kept qq s) :
    Out.Kept qq (execBufferProgram writes vppOk s) := by
  unfold execBufferProgram
  dsimp -failIfUnchanged only
  repeat' with_reducible first | assumption | (intro _) | apply State.unlockCmd_keeps | apply State.flsWriteOp_keeps | apply State.flsCycle_keeps | apply kept_next | apply kept_ite3 | (refine kept_foldl ?_ (fun _ _ _ => ?_)) | (refine kept_foldl1 ?_ (fun _ _ _ => ?_)) | (refine kept_foldl2 ?_ (fun _ _ _ => ?_)) | dsimp only

theorem execErasePulseDone_keeps {qq : List Instr} (pass : Bool) (vppOk : Bool) (s : State) (h_s : Kept qq s) :
    Out.Kept qq (execErasePulseDone pass vppOk s) := by
  unfold execErasePulseDone
  dsimp -failIfUnchanged only
  repeat' with_reducible first | assumption | (intro _) | apply State.suspendNow_keeps | apply State.opEnd_keeps | apply State.updFls_keeps | apply kept_next | apply kept_ite3 | apply kept_ite | dsimp only | (refine kept_pair (by assumption) ?_) | (refine kept_opt (by assumption) ?_) | (refine kept_opt1 (by assumption) ?_) | (apply kept_mk; dsimp only; apply kept_un) | split

theorem execEraseResume_keeps {qq : List Instr} (vppOk : Bool) (s : State) (h_s : Kept qq s) :
    Out.Kept qq (execEraseResume vppOk s) := by
  unfold execEraseResume
  dsimp -failIfUnchanged only
  repeat' with_reducible first | assumption | apply State.flsCycle_keeps | apply kept_next | apply kept_ite3 | dsimp only

theorem execEraseSuspend_keeps {qq : List Instr} (s : State) (h_s : Kept qq s) :
    Out.Kept qq (execEraseSuspend s) := by
  unfold execEraseSuspend
  dsimp -failIfUnchanged only
  repeat' with_reducible first | assumption | apply State.flsCycle_keeps | apply kept_next | apply kept_ite3 | dsimp only

theorem execFlashCommandCycle_keeps {qq : List Instr} (addr : Nat) (bytes : List Byte) (vppOk : Bool) (s : State) (h_s : Kept qq s) :
    Out.Kept qq (execFlashCommandCycle addr bytes vppOk s) := by
  unfold execFlashCommandCycle
  dsimp -failIfUnchanged only
  repeat' with_reducible first | assumption | (intro _) | apply State.flsWriteOp_keeps | apply kept_next | apply kept_ite3 | apply kept_ite | apply kept_ite1 | dsimp only | (apply kept_mk; dsimp only; apply kept_un) | split

theorem execFlashRead_keeps {qq : List Instr} (addr : Nat) (n : Nat) (ecc : Nat) (s : State) (h_s : Kept qq s) :
    Out.Kept qq (execFlashRead addr n ecc s) := by
  unfold execFlashRead
  dsimp -failIfUnchanged only
  repeat' with_reducible first | assumption | (intro _) | apply State.flsReadOp_keeps | apply kept_next | apply kept_ite3 | apply kept_ite | apply kept_ite1 | dsimp only | (apply kept_mk; dsimp only; apply kept_un) | split

theorem execFlashReset_keeps {qq : List Instr} (s : State) (h_s : Kept qq s) :
    Out.Kept qq (execFlashReset s) := by
  unfold execFlashReset
  dsimp -failIfUnchanged only
  repeat' with_reducible first | assumption | apply State.flsCycle_keeps | apply kept_next | apply kept_ite3 | dsimp only

theorem execFlsBootWpWrite_keeps {qq : List Instr} (port : Nat) (val : Word) (s : State) (h_s : Kept qq s) :
    Out.Kept qq (execFlsBootWpWrite port val s) := by
  unfold execFlsBootWpWrite
  dsimp -failIfUnchanged only
  repeat' with_reducible first | assumption | (intro _) | apply State.bootWp_keeps | apply State.gated_keeps | apply kept_next | apply kept_ite3 | dsimp only

theorem execFlsCntClr_keeps {qq : List Instr} (val : Word) (s : State) (h_s : Kept qq s) :
    Out.Kept qq (execFlsCntClr val s) := by
  unfold execFlsCntClr
  dsimp -failIfUnchanged only
  repeat' with_reducible first | assumption | (intro _) | apply State.gated_keeps | apply State.setReg_keeps | apply kept_next | apply kept_ite3 | apply kept_ite | dsimp only | split

theorem execMarginScrubRead_keeps {qq : List Instr} (fails : Bool) (s : State) (h_s : Kept qq s) :
    Out.Kept qq (execMarginScrubRead fails s) := by
  unfold execMarginScrubRead
  dsimp -failIfUnchanged only
  repeat' with_reducible first | assumption | (intro _) | apply State.flsIrq_keeps | apply State.hwPost_keeps | apply State.bump_keeps | apply State.wr_keeps | apply kept_next | apply kept_ite3 | apply kept_ite | apply kept_ite1 | dsimp only | split

theorem execMetadataWriteDone_keeps {qq : List Instr} (s : State) (h_s : Kept qq s) :
    Out.Kept qq (execMetadataWriteDone s) := by
  unfold execMetadataWriteDone
  dsimp -failIfUnchanged only
  repeat' with_reducible first | assumption | (intro _) | apply State.suspendNow_keeps | apply State.opEnd_keeps | apply State.showPpb_keeps | apply setMap_keeps | apply State.markErased_keeps | apply State.updFls_keeps | apply State.flsIrq_keeps | apply State.hwPost_keeps | apply State.wr_keeps | apply kept_next | apply kept_ite3 | apply kept_ite | apply kept_ite1 | dsimp only | (refine kept_pair (by assumption) ?_) | (refine kept_opt (by assumption) ?_) | (refine kept_opt1 (by assumption) ?_) | (apply kept_mk; dsimp only; apply kept_un) | split

theorem execMscrubFailClear_keeps {qq : List Instr} (_val : Word) (s : State) (h_s : Kept qq s) :
    Out.Kept qq (execMscrubFailClear _val s) := by
  unfold execMscrubFailClear
  dsimp -failIfUnchanged only
  repeat' with_reducible first | assumption | (intro _) | apply State.mscrubClear_keeps | apply State.gated_keeps | apply kept_next | apply kept_ite3 | dsimp only

theorem execPasswordCheck_keeps {qq : List Instr} (pw : List Byte) (vppOk : Bool) (s : State) (h_s : Kept qq s) :
    Out.Kept qq (execPasswordCheck pw vppOk s) := by
  unfold execPasswordCheck
  dsimp -failIfUnchanged only
  repeat' with_reducible first | assumption | apply State.unlockCmd_keeps | apply State.flsCycle_keeps | apply kept_next | apply kept_ite3 | dsimp only

theorem execPasswordClose_keeps {qq : List Instr} (s : State) (h_s : Kept qq s) :
    Out.Kept qq (execPasswordClose s) := by
  unfold execPasswordClose
  dsimp -failIfUnchanged only
  repeat' with_reducible first | assumption | apply State.unlockCmd_keeps | apply kept_next | apply kept_ite3 | dsimp only

theorem execPasswordSet_keeps {qq : List Instr} (pw : List Byte) (vppOk : Bool) (s : State) (h_s : Kept qq s) :
    Out.Kept qq (execPasswordSet pw vppOk s) := by
  unfold execPasswordSet
  dsimp -failIfUnchanged only
  repeat' with_reducible first | assumption | apply State.unlockCmd_keeps | apply State.flsCycle_keeps | apply kept_next | apply kept_ite3 | dsimp only

theorem execPpbClearAll_keeps {qq : List Instr} (vppOk : Bool) (s : State) (h_s : Kept qq s) :
    Out.Kept qq (execPpbClearAll vppOk s) := by
  unfold execPpbClearAll
  dsimp -failIfUnchanged only
  repeat' with_reducible first | assumption | apply State.unlockCmd_keeps | apply State.flsCycle_keeps | apply kept_next | apply kept_ite3 | dsimp only

theorem execPpbSet_keeps {qq : List Instr} (addr : Nat) (value : Nat) (vppOk : Bool) (s : State) (h_s : Kept qq s) :
    Out.Kept qq (execPpbSet addr value vppOk s) := by
  unfold execPpbSet
  dsimp -failIfUnchanged only
  repeat' with_reducible first | assumption | apply State.unlockCmd_keeps | apply State.flsWriteOp_keeps | apply kept_next | apply kept_ite3 | dsimp only

theorem execProgramDone_keeps {qq : List Instr} (fail : Option Nat) (retries : Nat) (s : State) (h_s : Kept qq s) :
    Out.Kept qq (execProgramDone fail retries s) := by
  unfold execProgramDone
  dsimp -failIfUnchanged only
  repeat' with_reducible first | assumption | (intro _) | apply State.opEnd_keeps | apply State.setBytes_keeps | apply State.drawn_keeps | apply State.wr_keeps | apply kept_next | apply kept_ite3 | apply kept_ite | apply kept_ite1 | (refine kept_foldl ?_ (fun _ _ _ => ?_)) | (refine kept_foldl1 ?_ (fun _ _ _ => ?_)) | (refine kept_foldl2 ?_ (fun _ _ _ => ?_)) | dsimp only | (refine kept_pair (by assumption) ?_) | (refine kept_opt (by assumption) ?_) | (refine kept_opt1 (by assumption) ?_) | split

theorem execSectorErase_keeps {qq : List Instr} (index : Nat) (target : Nat) (vppOk : Bool) (s : State) (h_s : Kept qq s) :
    Out.Kept qq (execSectorErase index target vppOk s) := by
  unfold execSectorErase
  dsimp -failIfUnchanged only
  repeat' with_reducible first | assumption | (intro _) | apply State.unlockCmd_keeps | apply State.flsWriteOp_keeps | apply State.flsCycle_keeps | apply kept_next | apply kept_ite3 | dsimp only

theorem execSuspendDone_keeps {qq : List Instr} (s : State) (h_s : Kept qq s) :
    Out.Kept qq (execSuspendDone s) := by
  unfold execSuspendDone
  dsimp -failIfUnchanged only
  repeat' with_reducible first | assumption | apply State.suspendNow_keeps | apply kept_next | apply kept_ite3 | apply kept_ite | dsimp only | (refine kept_pair (by assumption) ?_) | (refine kept_opt (by assumption) ?_) | (refine kept_opt1 (by assumption) ?_) | split

theorem execWordProgram_keeps {qq : List Instr} (addr : Nat) (bytes : List Byte) (vppOk : Bool) (s : State) (h_s : Kept qq s) :
    Out.Kept qq (execWordProgram addr bytes vppOk s) := by
  unfold execWordProgram
  dsimp -failIfUnchanged only
  repeat' with_reducible first | assumption | apply State.unlockCmd_keeps | apply State.flsWriteOp_keeps | apply kept_next | apply kept_ite3 | dsimp only

end Sys2Proof.Machine
end

