-- ==== Sys2Proof/Laws/KeepObj.lean ====
section
/-! SUPPORT. Each operation of Machine/Obj.lean leaves the register file and memory canonical and the queue as it is. -/

set_option linter.unusedTactic false
set_option linter.unreachableTactic false
set_option maxRecDepth 8000

namespace Sys2Proof.Machine

theorem State.coverTower_keeps {qq : List Instr} (s : State) (t : Tower) (h_s : Kept qq s) :
    Kept qq (State.coverTower s t) := by
  unfold State.coverTower
  dsimp -failIfUnchanged only
  repeat' with_reducible first | assumption | (intro _) | apply State.updLay_keeps | dsimp only | (apply kept_mk; dsimp only; apply kept_un)

theorem State.coverRows_keeps {qq : List Instr} (s : State) (h_s : Kept qq s) :
    Kept qq (State.coverRows s) := by
  unfold State.coverRows
  dsimp -failIfUnchanged only
  repeat' with_reducible first | assumption | apply State.coverTower_keeps | dsimp only

theorem State.dropLost_keeps {qq : List Instr} (s : State) (h_s : Kept qq s) :
    Kept qq (State.dropLost s) := by
  unfold State.dropLost
  dsimp -failIfUnchanged only
  repeat' with_reducible first | assumption | (intro _) | apply State.dropObj_keeps | (refine kept_foldl ?_ (fun _ _ _ => ?_)) | (refine kept_foldl1 ?_ (fun _ _ _ => ?_)) | (refine kept_foldl2 ?_ (fun _ _ _ => ?_)) | dsimp only

theorem State.interim_keeps {qq : List Instr} (s : State) (c : Cmd) (o : Obj) (h_s : Kept qq s) :
    Kept qq (State.interim s c o) := by
  unfold State.interim
  dsimp -failIfUnchanged only
  repeat' with_reducible first | assumption | apply State.sendRel_keeps | dsimp only

theorem State.moveObj_keeps {qq : List Instr} (s : State) (o : Obj) (h_s : Kept qq s) :
    Kept qq (State.moveObj s o) := by
  unfold State.moveObj
  dsimp -failIfUnchanged only
  repeat' with_reducible first | assumption | (intro _) | apply State.updObjOf_keeps | apply State.finish_keeps | apply State.dropObj_keeps | apply State.updObj_keeps | apply State.updLay_keeps | apply kept_ite | dsimp only | (refine kept_pair (by assumption) ?_) | (refine kept_opt (by assumption) ?_) | (refine kept_opt1 (by assumption) ?_) | (apply kept_mk; dsimp only; apply kept_un) | split

theorem State.putFails_keeps {qq : List Instr} (s : State) (c : Cmd) (status : Nat) (h_s : Kept qq s) :
    Kept qq (State.putFails s c status) := by
  unfold State.putFails
  dsimp -failIfUnchanged only
  repeat' with_reducible first | assumption | apply State.fail_keeps | apply State.dropObj_keeps | dsimp only

theorem State.recBegin_keeps {qq : List Instr} (s : State) (v : Nat) (tok : Option (Nat × Nat)) (h_s : Kept qq s) :
    Kept qq (State.recBegin s v tok) := by
  unfold State.recBegin
  dsimp -failIfUnchanged only
  repeat' with_reducible first | assumption | apply State.wr_keeps | apply kept_ite | dsimp only | (apply kept_mk; dsimp only; apply kept_un) | split

theorem State.run_keeps {qq : List Instr} (s : State) (i : Nat) (tag : Nat) (op : Nat) (f : Cmd → State → State) (h_s : Kept qq s) (h_f : ∀ (x0 : Cmd) (x1 : State), Kept qq x1 → Kept qq (f x0 x1)) :
    Out.Kept qq (State.run s i tag op f) := by
  unfold State.run
  dsimp -failIfUnchanged only
  repeat' with_reducible first | assumption | (intro _) | apply State.fail_keeps | apply State.updCmd_keeps | apply State.updObj_keeps | apply h_f | apply kept_next | apply kept_ite3 | apply kept_ite | dsimp only | (refine kept_pair (by assumption) ?_) | (refine kept_opt (by assumption) ?_) | (refine kept_opt1 (by assumption) ?_) | (apply kept_mk; dsimp only; apply kept_un) | split

theorem State.sendChunks_keeps {q : List Instr} (s : State) (i tag gen mpl n off : Nat) (l : List Byte) (h_s : Kept q s) :
    Kept q (State.sendChunks s i tag gen mpl n off l) := by
  induction n generalizing s off l with
  | zero => exact h_s
  | succ n ih =>
    unfold State.sendChunks
    split
    · exact h_s
    · exact ih _ _ _ (State.sendRel_keeps _ _ _ _ _ _ _ _ h_s)

theorem State.sendStream_keeps {qq : List Instr} (s : State) (c : Cmd) (l : List Byte) (h_s : Kept qq s) :
    Kept qq (State.sendStream s c l) := by
  unfold State.sendStream
  dsimp -failIfUnchanged only
  repeat' with_reducible first | assumption | apply State.sendChunks_keeps | apply kept_ite | dsimp only | split

theorem State.slotStore_keeps {qq : List Instr} (s : State) (k : Nat) (b : List Byte) (failed : Bool) (h_s : Kept qq s) :
    Kept qq (State.slotStore s k b failed) := by
  unfold State.slotStore
  dsimp -failIfUnchanged only
  repeat' with_reducible first | assumption | (intro _) | apply State.norStore_keeps | apply State.eraseWhole_keeps | (refine kept_foldl ?_ (fun _ _ _ => ?_)) | (refine kept_foldl1 ?_ (fun _ _ _ => ?_)) | (refine kept_foldl2 ?_ (fun _ _ _ => ?_)) | dsimp only | (apply kept_mk; dsimp only; apply kept_un)

theorem State.sumCopy_keeps {qq : List Instr} (s : State) (h_s : Kept qq s) :
    Kept qq (State.sumCopy s) := by
  unfold State.sumCopy
  dsimp -failIfUnchanged only
  repeat' with_reducible first | assumption | (intro _) | apply State.journalAdd_keeps | apply kept_ite | (refine kept_foldl ?_ (fun _ _ _ => ?_)) | (refine kept_foldl1 ?_ (fun _ _ _ => ?_)) | (refine kept_foldl2 ?_ (fun _ _ _ => ?_)) | dsimp only | split

theorem execAbort_keeps {qq : List Instr} (i : Nat) (tag : Nat) (s : State) (h_s : Kept qq s) :
    Out.Kept qq (execAbort i tag s) := by
  unfold execAbort
  dsimp -failIfUnchanged only
  repeat' with_reducible first | assumption | (intro _) | apply State.run_keeps | apply State.endCmd_keeps | apply State.fail_keeps | apply State.finish_keeps | apply kept_next | apply kept_ite3 | apply kept_ite | dsimp only | (refine kept_pair (by assumption) ?_) | (refine kept_opt (by assumption) ?_) | (refine kept_opt1 (by assumption) ?_) | split

theorem execActivationDrainTimeout_keeps {qq : List Instr} (s : State) (h_s : Kept qq s) :
    Out.Kept qq (execActivationDrainTimeout s) := by
  unfold execActivationDrainTimeout
  dsimp -failIfUnchanged only
  repeat' with_reducible first | assumption | (intro _) | apply State.endCmd_keeps | apply kept_next | apply kept_ite3 | (refine kept_foldl ?_ (fun _ _ _ => ?_)) | (refine kept_foldl1 ?_ (fun _ _ _ => ?_)) | (refine kept_foldl2 ?_ (fun _ _ _ => ?_)) | dsimp only | (refine kept_pair (by assumption) ?_) | (refine kept_opt (by assumption) ?_) | (refine kept_opt1 (by assumption) ?_) | split

theorem execAudit_keeps {qq : List Instr} (i : Nat) (tag : Nat) (found : List AuditIn) (s : State) (h_s : Kept qq s) :
    Out.Kept qq (execAudit i tag found s) := by
  unfold execAudit
  dsimp -failIfUnchanged only
  repeat' with_reducible first | assumption | (intro _) | apply State.sendStream_keeps | apply State.run_keeps | apply State.fail_keeps | apply State.finish_keeps | apply State.drawn_keeps | apply kept_next | apply kept_ite3 | apply kept_ite | (refine kept_foldl ?_ (fun _ _ _ => ?_)) | (refine kept_foldl1 ?_ (fun _ _ _ => ?_)) | (refine kept_foldl2 ?_ (fun _ _ _ => ?_)) | dsimp only | (refine kept_pair (by assumption) ?_) | (refine kept_opt (by assumption) ?_) | (refine kept_opt1 (by assumption) ?_) | (apply kept_mk; dsimp only; apply kept_un) | split

theorem execDelete_keeps {qq : List Instr} (i : Nat) (tag : Nat) (written : Bool) (s : State) (h_s : Kept qq s) :
    Out.Kept qq (execDelete i tag written s) := by
  unfold execDelete
  dsimp -failIfUnchanged only
  repeat' with_reducible first | assumption | (intro _) | apply State.run_keeps | apply State.fail_keeps | apply State.finish_keeps | apply State.dropObj_keeps | apply kept_next | apply kept_ite3 | apply kept_ite | dsimp only | (refine kept_pair (by assumption) ?_) | (refine kept_opt (by assumption) ?_) | (refine kept_opt1 (by assumption) ?_) | split

theorem execExportManifest_keeps {qq : List Instr} (i : Nat) (tag : Nat) (s : State) (h_s : Kept qq s) :
    Out.Kept qq (execExportManifest i tag s) := by
  unfold execExportManifest
  dsimp -failIfUnchanged only
  repeat' with_reducible first | assumption | (intro _) | apply State.sendStream_keeps | apply State.run_keeps | apply State.finish_keeps | apply State.rand_keeps | apply State.drawn_keeps | apply kept_next | apply kept_ite3 | dsimp only

theorem execFlush_keeps {qq : List Instr} (i : Nat) (tag : Nat) (s : State) (h_s : Kept qq s) :
    Out.Kept qq (execFlush i tag s) := by
  unfold execFlush
  dsimp -failIfUnchanged only
  repeat' with_reducible first | assumption | (intro _) | apply State.run_keeps | apply State.coverRows_keeps | apply State.fail_keeps | apply State.finish_keeps | apply kept_next | apply kept_ite3 | apply kept_ite | apply kept_ite1 | dsimp only | split

theorem execFwActivate_keeps {qq : List Instr} (i : Nat) (tag : Nat) (s : State) (h_s : Kept qq s) :
    Out.Kept qq (execFwActivate i tag s) := by
  unfold execFwActivate
  dsimp -failIfUnchanged only
  repeat' with_reducible first | assumption | (intro _) | apply State.run_keeps | apply State.recBegin_keeps | apply State.coverRows_keeps | apply State.fail_keeps | apply State.finish_keeps | apply State.sessClose_keeps | apply State.updObj_keeps | apply kept_next | apply kept_ite3 | apply kept_ite | apply kept_ite1 | (refine kept_foldl ?_ (fun _ _ _ => ?_)) | (refine kept_foldl1 ?_ (fun _ _ _ => ?_)) | (refine kept_foldl2 ?_ (fun _ _ _ => ?_)) | dsimp only | (apply kept_mk; dsimp only; apply kept_un) | split

theorem execFwDownload_keeps {qq : List Instr} (i : Nat) (tag : Nat) (s : State) (h_s : Kept qq s) :
    Out.Kept qq (execFwDownload i tag s) := by
  unfold execFwDownload
  dsimp -failIfUnchanged only
  repeat' with_reducible first | assumption | (intro _) | apply State.slotStore_keeps | apply State.run_keeps | apply State.fail_keeps | apply State.finish_keeps | apply kept_next | apply kept_ite3 | apply kept_ite | dsimp only | split

theorem execGet_keeps {qq : List Instr} (i : Nat) (tag : Nat) (unrec : List (Nat × Nat)) (s : State) (h_s : Kept qq s) :
    Out.Kept qq (execGet i tag unrec s) := by
  unfold execGet
  dsimp -failIfUnchanged only
  repeat' with_reducible first | assumption | (intro _) | apply State.sendStream_keeps | apply State.run_keeps | apply State.fail_keeps | apply State.finish_keeps | apply kept_next | apply kept_ite3 | apply kept_ite | apply kept_ite1 | dsimp only | (refine kept_pair (by assumption) ?_) | (refine kept_opt (by assumption) ?_) | (refine kept_opt1 (by assumption) ?_) | split

theorem execGetLog_keeps {qq : List Instr} (i : Nat) (tag : Nat) (s : State) (h_s : Kept qq s) :
    Out.Kept qq (execGetLog i tag s) := by
  unfold execGetLog
  dsimp -failIfUnchanged only
  repeat' with_reducible first | assumption | (intro _) | apply State.sendStream_keeps | apply State.run_keeps | apply State.evrClear_keeps | apply State.finish_keeps | apply State.updObj_keeps | apply State.drawn_keeps | apply kept_next | apply kept_ite3 | apply kept_ite | apply kept_ite1 | dsimp only | (apply kept_mk; dsimp only; apply kept_un) | split

theorem execIdentify_keeps {qq : List Instr} (i : Nat) (tag : Nat) (s : State) (h_s : Kept qq s) :
    Out.Kept qq (execIdentify i tag s) := by
  unfold execIdentify
  dsimp -failIfUnchanged only
  repeat' with_reducible first | assumption | (intro _) | apply State.sendStream_keeps | apply State.run_keeps | apply State.finish_keeps | apply kept_next | apply kept_ite3 | dsimp only

theorem execLegalHold_keeps {qq : List Instr} (i : Nat) (tag : Nat) (written : Bool) (s : State) (h_s : Kept qq s) :
    Out.Kept qq (execLegalHold i tag written s) := by
  unfold execLegalHold
  dsimp -failIfUnchanged only
  repeat' with_reducible first | assumption | (apply kept_id; assumption) | (intro _) | apply State.run_keeps | apply State.updObjOf_keeps | apply State.fail_keeps | apply State.finish_keeps | apply kept_next | apply kept_ite3 | apply kept_ite | dsimp only | (refine kept_pair (by assumption) ?_) | (refine kept_opt (by assumption) ?_) | (refine kept_opt1 (by assumption) ?_) | (apply kept_mk; dsimp only; apply kept_un) | split

theorem execList_keeps {qq : List Instr} (i : Nat) (tag : Nat) (s : State) (h_s : Kept qq s) :
    Out.Kept qq (execList i tag s) := by
  unfold execList
  dsimp -failIfUnchanged only
  repeat' with_reducible first | assumption | (intro _) | apply State.sendStream_keeps | apply State.run_keeps | apply State.finish_keeps | apply State.drawn_keeps | apply kept_next | apply kept_ite3 | dsimp only

theorem execPowerLossRestart_keeps {qq : List Instr} (s : State) (h_s : Kept qq s) :
    Out.Kept qq (execPowerLossRestart s) := by
  unfold execPowerLossRestart
  dsimp -failIfUnchanged only
  repeat' with_reducible first | assumption | (intro _) | apply State.sumCopy_keeps | apply State.dropLost_keeps | apply State.updObj_keeps | apply State.updLay_keeps | apply kept_next | apply kept_ite3 | apply kept_ite | apply kept_ite1 | dsimp only | (apply kept_mk; dsimp only; apply kept_un) | split

theorem execPut_keeps {qq : List Instr} (i : Nat) (tag : Nat) (choice : Tower) (s : State) (h_s : Kept qq s) :
    Out.Kept qq (execPut i tag choice s) := by
  unfold execPut
  dsimp -failIfUnchanged only
  repeat' with_reducible first | assumption | (intro _) | apply State.run_keeps | apply State.fail_keeps | apply State.updObj_keeps | apply kept_next | apply kept_ite3 | apply kept_ite | apply kept_ite1 | dsimp only | (refine kept_pair (by assumption) ?_) | (refine kept_opt (by assumption) ?_) | (refine kept_opt1 (by assumption) ?_) | (apply kept_mk; dsimp only; apply kept_un) | split

theorem execPutAcknowledged_keeps {qq : List Instr} (i : Nat) (tag : Nat) (s : State) (h_s : Kept qq s) :
    Out.Kept qq (execPutAcknowledged i tag s) := by
  unfold execPutAcknowledged
  dsimp -failIfUnchanged only
  repeat' with_reducible first | assumption | (intro _) | apply State.putFails_keeps | apply State.interim_keeps | apply State.updObjOf_keeps | apply State.finish_keeps | apply State.journalAdd_keeps | apply State.updCmd_keeps | apply kept_next | apply kept_ite3 | apply kept_ite | dsimp only | (refine kept_pair (by assumption) ?_) | (refine kept_opt (by assumption) ?_) | (refine kept_opt1 (by assumption) ?_) | (apply kept_mk; dsimp only; apply kept_un) | split

theorem execPutDurable_keeps {qq : List Instr} (vault : Nat) (handle : Nat) (s : State) (h_s : Kept qq s) :
    Out.Kept qq (execPutDurable vault handle s) := by
  unfold execPutDurable
  dsimp -failIfUnchanged only
  repeat' with_reducible first | assumption | (intro _) | apply State.interim_keeps | apply State.coverTower_keeps | apply State.updObjOf_keeps | apply State.finish_keeps | apply State.journalAdd_keeps | apply State.updCmd_keeps | apply kept_next | apply kept_ite3 | apply kept_ite | dsimp only | (refine kept_pair (by assumption) ?_) | (refine kept_opt (by assumption) ?_) | (refine kept_opt1 (by assumption) ?_) | (apply kept_mk; dsimp only; apply kept_un) | split

theorem execRawInfo_keeps {qq : List Instr} (i : Nat) (tag : Nat) (s : State) (h_s : Kept qq s) :
    Out.Kept qq (execRawInfo i tag s) := by
  unfold execRawInfo
  dsimp -failIfUnchanged only
  repeat' with_reducible first | assumption | (intro _) | apply State.run_keeps | apply State.finish_keeps | apply kept_next | apply kept_ite3 | dsimp only

theorem execRawRead_keeps {qq : List Instr} (i : Nat) (tag : Nat) (unrec : List (Nat × Nat)) (s : State) (h_s : Kept qq s) :
    Out.Kept qq (execRawRead i tag unrec s) := by
  unfold execRawRead
  dsimp -failIfUnchanged only
  repeat' with_reducible first | assumption | (intro _) | apply State.sendStream_keeps | apply State.run_keeps | apply State.fail_keeps | apply State.finish_keeps | apply kept_next | apply kept_ite3 | apply kept_ite | apply kept_ite1 | dsimp only | split

theorem execRawWrite_keeps {qq : List Instr} (i : Nat) (tag : Nat) (verified : Bool) (s : State) (h_s : Kept qq s) :
    Out.Kept qq (execRawWrite i tag verified s) := by
  unfold execRawWrite
  dsimp -failIfUnchanged only
  repeat' with_reducible first | assumption | (intro _) | apply State.run_keeps | apply State.fail_keeps | apply State.finish_keeps | apply State.rawStore_keeps | apply State.drawn_keeps | apply kept_next | apply kept_ite3 | apply kept_ite | dsimp only | split

theorem execSetPower_keeps {qq : List Instr} (i : Nat) (tag : Nat) (s : State) (h_s : Kept qq s) :
    Out.Kept qq (execSetPower i tag s) := by
  unfold execSetPower
  dsimp -failIfUnchanged only
  repeat' with_reducible first | assumption | (intro _) | apply State.run_keeps | apply State.finish_keeps | apply State.updObj_keeps | apply State.wr_keeps | apply kept_next | apply kept_ite3 | apply kept_ite | apply kept_ite1 | (refine kept_foldl ?_ (fun _ _ _ => ?_)) | (refine kept_foldl1 ?_ (fun _ _ _ => ?_)) | (refine kept_foldl2 ?_ (fun _ _ _ => ?_)) | dsimp only | (apply kept_mk; dsimp only; apply kept_un) | split

theorem execSetRetention_keeps {qq : List Instr} (i : Nat) (tag : Nat) (written : Bool) (s : State) (h_s : Kept qq s) :
    Out.Kept qq (execSetRetention i tag written s) := by
  unfold execSetRetention
  dsimp -failIfUnchanged only
  repeat' with_reducible first | assumption | (intro _) | apply State.run_keeps | apply State.updObjOf_keeps | apply State.fail_keeps | apply State.finish_keeps | apply kept_next | apply kept_ite3 | apply kept_ite | dsimp only | (refine kept_pair (by assumption) ?_) | (refine kept_opt (by assumption) ?_) | (refine kept_opt1 (by assumption) ?_) | (apply kept_mk; dsimp only; apply kept_un) | split

theorem execStat_keeps {qq : List Instr} (i : Nat) (tag : Nat) (s : State) (h_s : Kept qq s) :
    Out.Kept qq (execStat i tag s) := by
  unfold execStat
  dsimp -failIfUnchanged only
  repeat' with_reducible first | assumption | (intro _) | apply State.run_keeps | apply State.fail_keeps | apply State.finish_keeps | apply kept_next | apply kept_ite3 | dsimp only | (refine kept_pair (by assumption) ?_) | (refine kept_opt (by assumption) ?_) | (refine kept_opt1 (by assumption) ?_) | split

theorem execTowerFailed_keeps {qq : List Instr} (t : Tower) (s : State) (h_s : Kept qq s) :
    Out.Kept qq (execTowerFailed t s) := by
  unfold execTowerFailed
  dsimp -failIfUnchanged only
  repeat' with_reducible first | assumption | (intro _) | apply State.putFails_keeps | apply State.moveObj_keeps | apply State.updObj_keeps | apply kept_next | apply kept_ite3 | (refine kept_foldl ?_ (fun _ _ _ => ?_)) | (refine kept_foldl1 ?_ (fun _ _ _ => ?_)) | (refine kept_foldl2 ?_ (fun _ _ _ => ?_)) | dsimp only | (refine kept_pair (by assumption) ?_) | (refine kept_opt (by assumption) ?_) | (refine kept_opt1 (by assumption) ?_) | (apply kept_mk; dsimp only; apply kept_un) | split

end Sys2Proof.Machine
end

