-- ==== Sys2Proof/Laws/KeepDom.lean ====
section
/-! SUPPORT. Each operation of Machine/Dom.lean leaves the register file and memory canonical and the queue as it is. -/

set_option linter.unusedTactic false
set_option linter.unreachableTactic false
set_option maxRecDepth 8000

namespace Sys2Proof.Machine

theorem State.updDom_keeps {qq : List Instr} (s : State) (f : DomState → DomState) (h_s : Kept qq s) :
    Kept qq (State.updDom s f) := by
  unfold State.updDom
  dsimp -failIfUnchanged only
  repeat' with_reducible first | assumption | (intro _) | dsimp only | (apply kept_mk; dsimp only; apply kept_un)

theorem State.clockRestore_keeps {qq : List Instr} (s : State) (h_s : Kept qq s) :
    Kept qq (State.clockRestore s) := by
  unfold State.clockRestore
  dsimp -failIfUnchanged only
  repeat' with_reducible first | assumption | (intro _) | apply State.updDom_keeps | apply kept_ite | apply kept_ite1 | (refine kept_foldl ?_ (fun _ _ _ => ?_)) | (refine kept_foldl1 ?_ (fun _ _ _ => ?_)) | (refine kept_foldl2 ?_ (fun _ _ _ => ?_)) | dsimp only | (apply kept_mk; dsimp only; apply kept_un) | split

theorem State.runStarved_keeps {qq : List Instr} (s : State) (t : Tower) (h_s : Kept qq s) :
    Kept qq (State.runStarved s t) := by
  unfold State.runStarved
  dsimp -failIfUnchanged only
  repeat' with_reducible first | assumption | (intro _) | apply State.dropGates_keeps | apply State.sectorEnd_keeps | apply kept_ite | dsimp only | (refine kept_pair (by assumption) ?_) | (refine kept_opt (by assumption) ?_) | (refine kept_opt1 (by assumption) ?_) | split

theorem State.domIrq_keeps {qq : List Instr} (s : State) (bit : Nat) (h_s : Kept qq s) :
    Kept qq (State.domIrq s bit) := by
  unfold State.domIrq
  dsimp -failIfUnchanged only
  repeat' with_reducible first | assumption | apply State.irq_keeps | dsimp only

theorem State.domError_keeps {qq : List Instr} (s : State) (bit : Nat) (h_s : Kept qq s) :
    Kept qq (State.domError s bit) := by
  unfold State.domError
  dsimp -failIfUnchanged only
  repeat' with_reducible first | assumption | (intro _) | apply State.domIrq_keeps | apply State.runStarved_keeps | apply State.updDom_keeps | apply State.hwPost_keeps | apply State.wr_keeps | apply kept_ite | dsimp only | (apply kept_mk; dsimp only; apply kept_un) | split

theorem State.selfTests_keeps {qq : List Instr} (s : State) (pass : Nat) (h_s : Kept qq s) :
    Kept qq (State.selfTests s pass).1 := by
  unfold State.selfTests
  dsimp -failIfUnchanged only
  repeat' with_reducible first | assumption | (intro _) | apply State.domError_keeps | apply State.updDom_keeps | apply State.wr_keeps | apply kept_ite | apply kept_ite1 | dsimp only | (refine kept_pair (by assumption) ?_) | (refine kept_opt (by assumption) ?_) | (refine kept_opt1 (by assumption) ?_) | (apply kept_mk; dsimp only; apply kept_un) | split

theorem State.domCmd_keeps {qq : List Instr} (s : State) (val : Word) (pass : Nat) (h_s : Kept qq s) :
    Kept qq (State.domCmd s val pass) := by
  unfold State.domCmd
  dsimp -failIfUnchanged only
  repeat' with_reducible first | assumption | (intro _) | apply State.selfTests_keeps | apply State.recBegin_keeps | apply kept_ite | apply kept_ite1 | dsimp only | split

theorem State.setXts_keeps {qq : List Instr} (s : State) (t : Tower) (n : Nat) (k : Option Nat) (h_s : Kept qq s) :
    Kept qq (State.setXts s t n k) := by
  unfold State.setXts
  dsimp -failIfUnchanged only
  repeat' with_reducible first | assumption | (intro _) | dsimp only | (apply kept_mk; dsimp only; apply kept_un)

theorem State.setXtsBoth_keeps {qq : List Instr} (s : State) (n : Nat) (k : Option Nat) (h_s : Kept qq s) :
    Kept qq (State.setXtsBoth s n k) := by
  unfold State.setXtsBoth
  dsimp -failIfUnchanged only
  repeat' with_reducible first | assumption | apply State.setXts_keeps | dsimp only

theorem State.updVault_keeps {qq : List Instr} (s : State) (v : Nat) (f : Vault → Vault) (h_s : Kept qq s) :
    Kept qq (State.updVault s v f) := by
  unfold State.updVault
  dsimp -failIfUnchanged only
  repeat' with_reducible first | assumption | (apply kept_id; assumption) | (intro _) | apply State.updDom_keeps | apply kept_ite | dsimp only | (apply kept_mk; dsimp only; apply kept_un) | split

theorem State.vaultOpen_keeps {qq : List Instr} (s : State) (v : Nat) (key : Nat) (h_s : Kept qq s) :
    Kept qq (State.vaultOpen s v key) := by
  unfold State.vaultOpen
  dsimp -failIfUnchanged only
  repeat' with_reducible first | assumption | (intro _) | apply State.updVault_keeps | apply State.setXtsBoth_keeps | dsimp only | (apply kept_mk; dsimp only; apply kept_un)

theorem State.domOperational_keeps {qq : List Instr} (s : State) (h_s : Kept qq s) :
    Kept qq (State.domOperational s) := by
  unfold State.domOperational
  dsimp -failIfUnchanged only
  repeat' with_reducible first | assumption | (apply kept_id; assumption) | (intro _) | apply State.vaultOpen_keeps | apply State.setXtsBoth_keeps | apply State.updDom_keeps | apply State.newCookie_keeps | apply State.wb_keeps | apply State.wr_keeps | (refine kept_foldl ?_ (fun _ _ _ => ?_)) | (refine kept_foldl1 ?_ (fun _ _ _ => ?_)) | (refine kept_foldl2 ?_ (fun _ _ _ => ?_)) | dsimp only | (refine kept_pair (by assumption) ?_) | (refine kept_opt (by assumption) ?_) | (refine kept_opt1 (by assumption) ?_) | (apply kept_mk; dsimp only; apply kept_un) | split

theorem State.kbPerform_keeps {qq : List Instr} (s : State) (k : KbOp) (h_s : Kept qq s) :
    Kept qq (State.kbPerform s k) := by
  unfold State.kbPerform
  dsimp -failIfUnchanged only
  repeat' with_reducible first | assumption | (intro _) | apply State.setXts_keeps | apply State.setGcm_keeps | apply kept_ite | apply kept_ite1 | dsimp only | (apply kept_mk; dsimp only; apply kept_un) | split

theorem State.kbWrite_keeps {qq : List Instr} (s : State) (val : Word) (h_s : Kept qq s) :
    Kept qq (State.kbWrite s val) := by
  unfold State.kbWrite
  dsimp -failIfUnchanged only
  repeat' with_reducible first | assumption | (intro _) | apply State.domIrq_keeps | apply State.updDom_keeps | apply State.storeRow_keeps | apply State.wb_keeps | apply State.wr_keeps | apply kept_ite | dsimp only | (apply kept_mk; dsimp only; apply kept_un) | split

theorem State.loadHuk_keeps {qq : List Instr} (s : State) (h_s : Kept qq s) :
    Kept qq (State.loadHuk s) := by
  unfold State.loadHuk
  dsimp -failIfUnchanged only
  repeat' with_reducible first | assumption | (intro _) | apply State.updDom_keeps | dsimp only | (apply kept_mk; dsimp only; apply kept_un)

theorem State.newVault_keeps {qq : List Instr} (s : State) (kek : Nat) (v : Nat) (secret : List Byte) (h_s : Kept qq s) :
    Kept qq (State.newVault s kek v secret).2.2 := by
  unfold State.newVault
  dsimp -failIfUnchanged only
  repeat' with_reducible first | assumption | (apply kept_id; assumption) | (intro _) | apply State.rand_keeps | dsimp only | (apply kept_mk; dsimp only; apply kept_un)

theorem State.recWrite_keeps {qq : List Instr} (s : State) (v : Nat) (h_s : Kept qq s) :
    Kept qq (State.recWrite s v) := by
  unfold State.recWrite
  dsimp -failIfUnchanged only
  repeat' with_reducible first | assumption | (intro _) | apply State.domIrq_keeps | apply State.updDom_keeps | apply State.norStore_keeps | apply State.eraseWhole_keeps | apply State.wr_keeps | apply kept_ite | apply kept_ite1 | dsimp only | (apply kept_mk; dsimp only; apply kept_un) | split

theorem State.vaultBack_keeps {qq : List Instr} (s : State) (x : Vault) (key : Nat) (h_s : Kept qq s) :
    Kept qq (State.vaultBack s x key) := by
  unfold State.vaultBack
  dsimp -failIfUnchanged only
  repeat' with_reducible first | assumption | (apply kept_id; assumption) | (intro _) | apply State.vaultOpen_keeps | apply State.updVault_keeps | apply kept_ite | dsimp only | (apply kept_mk; dsimp only; apply kept_un) | split

theorem State.vaultQuiet_keeps {qq : List Instr} (s : State) (c : Cmd) (h_s : Kept qq s) :
    Kept qq (State.vaultQuiet s c).1 := by
  unfold State.vaultQuiet
  dsimp -failIfUnchanged only
  repeat' with_reducible first | assumption | (intro _) | apply State.updVault_keeps | apply State.coverRows_keeps | dsimp only | (apply kept_mk; dsimp only; apply kept_un)

theorem State.vaultErase_keeps {qq : List Instr} (s : State) (i : Nat) (tag : Nat) (c : Cmd) (x : Vault) (key : Nat) (h_s : Kept qq s) :
    Kept qq (State.vaultErase s i tag c x key) := by
  unfold State.vaultErase
  dsimp -failIfUnchanged only
  repeat' with_reducible first | assumption | (apply kept_id; assumption) | (intro _) | apply State.vaultQuiet_keeps | apply State.vaultBack_keeps | apply State.setXtsBoth_keeps | apply State.updDom_keeps | apply State.fail_keeps | apply State.finish_keeps | apply State.dropObj_keeps | apply State.updLay_keeps | apply kept_ite | apply kept_ite1 | (refine kept_foldl ?_ (fun _ _ _ => ?_)) | (refine kept_foldl1 ?_ (fun _ _ _ => ?_)) | (refine kept_foldl2 ?_ (fun _ _ _ => ?_)) | dsimp only | (apply kept_mk; dsimp only; apply kept_un) | split

theorem State.vaultEraseWith_keeps {qq : List Instr} (s : State) (i : Nat) (tag : Nat) (c : Cmd) (x : Vault) (key : Option Nat) (h_s : Kept qq s) :
    Kept qq (State.vaultEraseWith s i tag c x key) := by
  unfold State.vaultEraseWith
  dsimp -failIfUnchanged only
  repeat' with_reducible first | assumption | apply State.vaultErase_keeps | apply State.fail_keeps | dsimp only | (refine kept_pair (by assumption) ?_) | (refine kept_opt (by assumption) ?_) | (refine kept_opt1 (by assumption) ?_) | split

theorem execAnchorSet_keeps {qq : List Instr} (i : Nat) (tag : Nat) (s : State) (h_s : Kept qq s) :
    Out.Kept qq (execAnchorSet i tag s) := by
  unfold execAnchorSet
  dsimp -failIfUnchanged only
  repeat' with_reducible first | assumption | (intro _) | apply State.updDom_keeps | apply State.run_keeps | apply State.fail_keeps | apply State.finish_keeps | apply State.sessClose_keeps | apply State.hwPost_keeps | apply kept_next | apply kept_ite3 | apply kept_ite | apply kept_ite1 | (refine kept_foldl ?_ (fun _ _ _ => ?_)) | (refine kept_foldl1 ?_ (fun _ _ _ => ?_)) | (refine kept_foldl2 ?_ (fun _ _ _ => ?_)) | dsimp only | (apply kept_mk; dsimp only; apply kept_un) | split

theorem execClockRecordDone_keeps {qq : List Instr} (s : State) (h_s : Kept qq s) :
    Out.Kept qq (execClockRecordDone s) := by
  unfold execClockRecordDone
  dsimp -failIfUnchanged only
  repeat' with_reducible first | assumption | (intro _) | apply State.recWrite_keeps | apply State.updDom_keeps | apply State.recBegin_keeps | apply State.finish_keeps | apply State.hwPost_keeps | apply kept_next | apply kept_ite3 | apply kept_ite | dsimp only | (refine kept_pair (by assumption) ?_) | (refine kept_opt (by assumption) ?_) | (refine kept_opt1 (by assumption) ?_) | (apply kept_mk; dsimp only; apply kept_un) | split

theorem execClockRecordTimer_keeps {qq : List Instr} (s : State) (h_s : Kept qq s) :
    Out.Kept qq (execClockRecordTimer s) := by
  unfold execClockRecordTimer
  dsimp -failIfUnchanged only
  repeat' with_reducible first | assumption | apply State.recBegin_keeps | apply kept_next | apply kept_ite3 | apply kept_ite | dsimp only | split

theorem execClockTick_keeps {qq : List Instr} (s : State) (h_s : Kept qq s) :
    Out.Kept qq (execClockTick s) := by
  unfold execClockTick
  dsimp -failIfUnchanged only
  repeat' with_reducible first | assumption | (intro _) | apply State.updDom_keeps | apply State.wr_keeps | apply kept_next | apply kept_ite3 | dsimp only | (apply kept_mk; dsimp only; apply kept_un)

theorem execEntropyHealthFail_keeps {qq : List Instr} (s : State) (h_s : Kept qq s) :
    Out.Kept qq (execEntropyHealthFail s) := by
  unfold execEntropyHealthFail
  dsimp -failIfUnchanged only
  repeat' with_reducible first | assumption | apply State.domError_keeps | apply State.wr_keeps | apply kept_next | apply kept_ite3 | apply kept_ite | dsimp only | split

theorem execKeyBusDone_keeps {qq : List Instr} (s : State) (h_s : Kept qq s) :
    Out.Kept qq (execKeyBusDone s) := by
  unfold execKeyBusDone
  dsimp -failIfUnchanged only
  repeat' with_reducible first | assumption | (intro _) | apply State.kbPerform_keeps | apply State.domIrq_keeps | apply State.updDom_keeps | apply State.wr_keeps | apply kept_next | apply kept_ite3 | apply kept_ite | dsimp only | (refine kept_pair (by assumption) ?_) | (refine kept_opt (by assumption) ?_) | (refine kept_opt1 (by assumption) ?_) | (apply kept_mk; dsimp only; apply kept_un) | split

theorem execKeyClear_keeps {qq : List Instr} (val : Word) (s : State) (h_s : Kept qq s) :
    Out.Kept qq (execKeyClear val s) := by
  unfold execKeyClear
  dsimp -failIfUnchanged only
  repeat' with_reducible first | assumption | (intro _) | apply State.kbWrite_keeps | apply State.gated_keeps | apply kept_next | apply kept_ite3 | dsimp only

theorem execKeyClearAll_keeps {qq : List Instr} (val : Word) (s : State) (h_s : Kept qq s) :
    Out.Kept qq (execKeyClearAll val s) := by
  unfold execKeyClearAll
  dsimp -failIfUnchanged only
  repeat' with_reducible first | assumption | (intro _) | apply State.kbWrite_keeps | apply State.gated_keeps | apply kept_next | apply kept_ite3 | dsimp only

theorem execKeyLoad_keeps {qq : List Instr} (val : Word) (s : State) (h_s : Kept qq s) :
    Out.Kept qq (execKeyLoad val s) := by
  unfold execKeyLoad
  dsimp -failIfUnchanged only
  repeat' with_reducible first | assumption | (intro _) | apply State.kbWrite_keeps | apply State.gated_keeps | apply kept_next | apply kept_ite3 | dsimp only

theorem execRecNow_keeps {qq : List Instr} (val : Word) (s : State) (h_s : Kept qq s) :
    Out.Kept qq (execRecNow val s) := by
  unfold execRecNow
  dsimp -failIfUnchanged only
  repeat' with_reducible first | assumption | (intro _) | apply State.domCmd_keeps | apply State.gated_keeps | apply kept_next | apply kept_ite3 | dsimp only

theorem execSelfTest_keeps {qq : List Instr} (i : Nat) (tag : Nat) (pass : Nat) (s : State) (h_s : Kept qq s) :
    Out.Kept qq (execSelfTest i tag pass s) := by
  unfold execSelfTest
  dsimp -failIfUnchanged only
  repeat' with_reducible first | assumption | (intro _) | apply State.selfTests_keeps | apply State.run_keeps | apply State.finish_keeps | apply kept_next | apply kept_ite3 | apply kept_ite | apply kept_ite1 | dsimp only | split

theorem execStRun_keeps {qq : List Instr} (val : Word) (pass : Nat) (s : State) (h_s : Kept qq s) :
    Out.Kept qq (execStRun val pass s) := by
  unfold execStRun
  dsimp -failIfUnchanged only
  repeat' with_reducible first | assumption | (intro _) | apply State.domCmd_keeps | apply State.gated_keeps | apply kept_next | apply kept_ite3 | dsimp only

theorem execTimeQuery_keeps {qq : List Instr} (i : Nat) (tag : Nat) (s : State) (h_s : Kept qq s) :
    Out.Kept qq (execTimeQuery i tag s) := by
  unfold execTimeQuery
  dsimp -failIfUnchanged only
  repeat' with_reducible first | assumption | (intro _) | apply State.updDom_keeps | apply State.run_keeps | apply State.finish_keeps | apply State.rand_keeps | apply kept_next | apply kept_ite3 | dsimp only | (apply kept_mk; dsimp only; apply kept_un)

theorem execTimeToken_keeps {qq : List Instr} (i : Nat) (tag : Nat) (s : State) (h_s : Kept qq s) :
    Out.Kept qq (execTimeToken i tag s) := by
  unfold execTimeToken
  dsimp -failIfUnchanged only
  repeat' with_reducible first | assumption | (intro _) | apply State.run_keeps | apply State.recBegin_keeps | apply State.fail_keeps | apply kept_next | apply kept_ite3 | apply kept_ite | apply kept_ite1 | dsimp only | split

theorem execVaultCreate_keeps {qq : List Instr} (i : Nat) (tag : Nat) (s : State) (h_s : Kept qq s) :
    Out.Kept qq (execVaultCreate i tag s) := by
  unfold execVaultCreate
  dsimp -failIfUnchanged only
  repeat' with_reducible first | assumption | (intro _) | apply State.newVault_keeps | apply State.vaultOpen_keeps | apply State.updDom_keeps | apply State.run_keeps | apply State.fail_keeps | apply State.finish_keeps | apply kept_next | apply kept_ite3 | apply kept_ite | apply kept_ite1 | dsimp only | (apply kept_mk; dsimp only; apply kept_un) | split

theorem execVaultErase_keeps {qq : List Instr} (i : Nat) (tag : Nat) (s : State) (h_s : Kept qq s) :
    Out.Kept qq (execVaultErase i tag s) := by
  unfold execVaultErase
  dsimp -failIfUnchanged only
  repeat' with_reducible first | assumption | (intro _) | apply State.vaultEraseWith_keeps | apply State.run_keeps | apply State.fail_keeps | apply kept_next | apply kept_ite3 | dsimp only | (refine kept_pair (by assumption) ?_) | (refine kept_opt (by assumption) ?_) | (refine kept_opt1 (by assumption) ?_) | split

theorem execVaultInfo_keeps {qq : List Instr} (i : Nat) (tag : Nat) (s : State) (h_s : Kept qq s) :
    Out.Kept qq (execVaultInfo i tag s) := by
  unfold execVaultInfo
  dsimp -failIfUnchanged only
  repeat' with_reducible first | assumption | (intro _) | apply State.run_keeps | apply State.fail_keeps | apply State.finish_keeps | apply kept_next | apply kept_ite3 | (refine kept_foldl ?_ (fun _ _ _ => ?_)) | (refine kept_foldl1 ?_ (fun _ _ _ => ?_)) | (refine kept_foldl2 ?_ (fun _ _ _ => ?_)) | dsimp only | (refine kept_pair (by assumption) ?_) | (refine kept_opt (by assumption) ?_) | (refine kept_opt1 (by assumption) ?_) | split

theorem execVaultLock_keeps {qq : List Instr} (i : Nat) (tag : Nat) (s : State) (h_s : Kept qq s) :
    Out.Kept qq (execVaultLock i tag s) := by
  unfold execVaultLock
  dsimp -failIfUnchanged only
  repeat' with_reducible first | assumption | (intro _) | apply State.vaultQuiet_keeps | apply State.updVault_keeps | apply State.setXtsBoth_keeps | apply State.run_keeps | apply State.finish_keeps | apply kept_next | apply kept_ite3 | apply kept_ite | apply kept_ite1 | dsimp only | (apply kept_mk; dsimp only; apply kept_un) | split

theorem execVaultSetMin_keeps {qq : List Instr} (i : Nat) (tag : Nat) (s : State) (h_s : Kept qq s) :
    Out.Kept qq (execVaultSetMin i tag s) := by
  unfold execVaultSetMin
  dsimp -failIfUnchanged only
  repeat' with_reducible first | assumption | (intro _) | apply State.updVault_keeps | apply State.run_keeps | apply State.fail_keeps | apply State.finish_keeps | apply kept_next | apply kept_ite3 | apply kept_ite | dsimp only | (refine kept_pair (by assumption) ?_) | (refine kept_opt (by assumption) ?_) | (refine kept_opt1 (by assumption) ?_) | (apply kept_mk; dsimp only; apply kept_un) | split

theorem execVaultUnlock_keeps {qq : List Instr} (i : Nat) (tag : Nat) (s : State) (h_s : Kept qq s) :
    Out.Kept qq (execVaultUnlock i tag s) := by
  unfold execVaultUnlock
  dsimp -failIfUnchanged only
  repeat' with_reducible first | assumption | (apply kept_id; assumption) | (intro _) | apply State.vaultOpen_keeps | apply State.run_keeps | apply State.fail_keeps | apply State.finish_keeps | apply kept_next | apply kept_ite3 | apply kept_ite | dsimp only | (refine kept_pair (by assumption) ?_) | (refine kept_opt (by assumption) ?_) | (refine kept_opt1 (by assumption) ?_) | split

theorem execZeroise_keeps {qq : List Instr} (i : Nat) (tag : Nat) (s : State) (h_s : Kept qq s) :
    Out.Kept qq (execZeroise i tag s) := by
  unfold execZeroise
  dsimp -failIfUnchanged only
  repeat' with_reducible first | assumption | (intro _) | apply State.updDom_keeps | apply State.run_keeps | apply State.fail_keeps | apply State.sessClose_keeps | apply State.dropObj_keeps | apply State.hwPost_keeps | apply State.wr_keeps | apply kept_next | apply kept_ite3 | apply kept_ite | apply kept_ite1 | (refine kept_foldl ?_ (fun _ _ _ => ?_)) | (refine kept_foldl1 ?_ (fun _ _ _ => ?_)) | (refine kept_foldl2 ?_ (fun _ _ _ => ?_)) | dsimp only | (apply kept_mk; dsimp only; apply kept_un) | split

end Sys2Proof.Machine
end

