-- ==== Sys2Proof/Laws/KeepRst.lean ====
section
/-! SUPPORT. Each operation of Machine/Rst.lean leaves the register file and memory canonical and the queue as it is. -/

set_option linter.unusedTactic false
set_option linter.unreachableTactic false
set_option maxRecDepth 8000

namespace Sys2Proof.Machine

theorem State.afterPower_keeps {q : List Instr} (s : State) (failActive : Bool) (h_s : Kept q s) :
    Kept q (State.afterPower s failActive) :=
  ⟨rfl, memWf_filter _ _ h_s.2.1, h_s.2.2.1, rfl⟩

theorem State.hartRelease_keeps {qq : List Instr} (s : State) (m : Nat) (h_s : Kept qq s) :
    Kept qq (State.hartRelease s m) := by
  unfold State.hartRelease
  dsimp -failIfUnchanged only
  repeat' with_reducible first | assumption | (intro _) | apply State.wr_keeps | dsimp only

theorem State.mqReset_keeps {qq : List Instr} (s : State) (t : Tower) (h_s : Kept qq s) :
    Kept qq (State.mqReset s t) := by
  unfold State.mqReset
  dsimp -failIfUnchanged only
  repeat' with_reducible first | assumption | dsimp only | (apply kept_mk; dsimp only; apply kept_un)

theorem State.towerReset_keeps {qq : List Instr} (s : State) (t : Tower) (h_s : Kept qq s) :
    Kept qq (State.towerReset s t) := by
  unfold State.towerReset
  dsimp -failIfUnchanged only
  repeat' with_reducible first | assumption | (intro _) | apply State.mqReset_keeps | apply State.updTwr_keeps | apply State.updChn_keeps | dsimp only | (apply kept_mk; dsimp only; apply kept_un)

theorem State.unitReset_keeps {qq : List Instr} (s : State) (d : Nat) (h_s : Kept qq s) :
    Kept qq (State.unitReset s d) := by
  unfold State.unitReset
  dsimp -failIfUnchanged only
  repeat' with_reducible first | assumption | (intro _) | apply State.towerReset_keeps | apply State.updDom_keeps | apply State.flsLost_keeps | apply State.memLost_keeps | apply State.updAot_keeps | dsimp only | (refine kept_pair (by assumption) ?_) | (refine kept_opt (by assumption) ?_) | (refine kept_opt1 (by assumption) ?_) | (apply kept_mk; dsimp only; apply kept_un) | split

theorem State.domReset_keeps {qq : List Instr} (s : State) (m : Nat) (h_s : Kept qq s) :
    Kept qq (State.domReset s m) := by
  unfold State.domReset
  dsimp -failIfUnchanged only
  repeat' with_reducible first | assumption | (apply kept_id; assumption) | (intro _) | apply State.unitReset_keeps | apply State.levelShow_keeps | apply State.blockReset_keeps | apply kept_next | apply kept_ite | apply kept_ite1 | apply kept_ite3 | (refine kept_foldl ?_ (fun _ _ _ => ?_)) | (refine kept_foldl1 ?_ (fun _ _ _ => ?_)) | (refine kept_foldl2 ?_ (fun _ _ _ => ?_)) | (intro _) | dsimp only | (refine kept_pair (by assumption) ?_) | (refine kept_opt (by assumption) ?_) | (refine kept_opt1 (by assumption) ?_) | apply optKept_some | apply optKept_none | apply optKept_ite | (apply kept_mk; dsimp only; apply kept_un) | split | (refine kept_len ?_ (by simp only [List.length_map, List.length_zipIdx]))

theorem State.firmwareLost_keeps {qq : List Instr} (s : State) (deferred : Bool) (h_s : Kept qq s) :
    Kept qq (State.firmwareLost s deferred) := by
  unfold State.firmwareLost
  dsimp -failIfUnchanged only
  repeat' with_reducible first | assumption | (intro _) | apply State.rawPrefix_keeps | apply State.updObj_keeps | apply State.updLay_keeps | (refine kept_foldl ?_ (fun _ _ _ => ?_)) | (refine kept_foldl1 ?_ (fun _ _ _ => ?_)) | (refine kept_foldl2 ?_ (fun _ _ _ => ?_)) | dsimp only | (apply kept_mk; dsimp only; apply kept_un)

theorem State.coreReset_keeps {qq : List Instr} (s : State) (deferred : Bool) (h_s : Kept qq s) :
    Kept qq (State.coreReset s deferred) := by
  unfold State.coreReset
  dsimp -failIfUnchanged only
  repeat' with_reducible first | assumption | (intro _) | apply State.firmwareLost_keeps | apply State.domReset_keeps | apply State.hartRelease_keeps | apply State.wr_keeps | dsimp only | (apply kept_mk; dsimp only; apply kept_un)

theorem State.pllLock_keeps {qq : List Instr} (s : State) (h_s : Kept qq s) :
    Kept qq (State.pllLock s) := by
  unfold State.pllLock
  dsimp -failIfUnchanged only
  repeat' with_reducible first | assumption | apply State.wr_keeps | dsimp only

theorem State.fuseLoad_keeps {qq : List Instr} (s : State) (h_s : Kept qq s) :
    Kept qq (State.fuseLoad s) := by
  unfold State.fuseLoad
  dsimp -failIfUnchanged only
  repeat' with_reducible first | assumption | (intro _) | apply State.wb_keeps | apply State.wr_keeps | apply State.setReg_keeps | apply kept_ite | apply kept_ite1 | (refine kept_foldl ?_ (fun _ _ _ => ?_)) | (refine kept_foldl1 ?_ (fun _ _ _ => ?_)) | (refine kept_foldl2 ?_ (fun _ _ _ => ?_)) | dsimp only | split

theorem State.deviceReset_keeps {qq : List Instr} (s : State) (causes : Nat) (h_s : Kept qq s) :
    Kept qq (State.deviceReset s causes) := by
  unfold State.deviceReset
  dsimp -failIfUnchanged only
  repeat' with_reducible first | assumption | (intro _) | apply State.fuseLoad_keeps | apply State.pllLock_keeps | apply State.coreReset_keeps | apply State.wr_keeps | apply kept_ite | dsimp only | split

theorem State.powerOn_keeps {qq : List Instr} (s : State) (fails : Nat) (failActive : Bool) (h_s : Kept qq s) :
    Kept qq (State.powerOn s fails failActive) := by
  unfold State.powerOn
  dsimp -failIfUnchanged only
  repeat' with_reducible first | assumption | (intro _) | apply State.fuseLoad_keeps | apply State.pllLock_keeps | apply State.firmwareLost_keeps | apply State.domReset_keeps | apply State.afterPower_keeps | apply State.clockRestore_keeps | apply State.wr_keeps | apply kept_ite | dsimp only | split

end Sys2Proof.Machine
end

