-- ==== Sys2Proof/Laws/KeepPwr.lean ====
section
/-! SUPPORT. Each operation of Machine/Pwr.lean leaves the register file and memory canonical and the queue as it is. -/

set_option linter.unusedTactic false
set_option linter.unreachableTactic false
set_option maxRecDepth 8000

namespace Sys2Proof.Machine

theorem State.inActed_keeps {qq : List Instr} (s : State) (i : Nat) (h_s : Kept qq s) :
    Kept qq (State.inActed s i) := by
  unfold State.inActed
  dsimp -failIfUnchanged only
  repeat' with_reducible first | assumption | (intro _) | apply State.lanFault_keeps | apply State.emergency_keeps | apply kept_ite | dsimp only | split

theorem State.updPwr_keeps {qq : List Instr} (s : State) (f : PwrState → PwrState) (h_s : Kept qq s) :
    Kept qq (State.updPwr s f) := by
  unfold State.updPwr
  dsimp -failIfUnchanged only
  repeat' with_reducible first | assumption | (intro _) | dsimp only | (apply kept_mk; dsimp only; apply kept_un)

theorem State.updInput_keeps {qq : List Instr} (s : State) (i : Nat) (f : InputState → InputState) (h_s : Kept qq s) :
    Kept qq (State.updInput s i f) := by
  unfold State.updInput
  dsimp -failIfUnchanged only
  repeat' with_reducible first | assumption | (intro _) | apply State.updPwr_keeps | dsimp only | (apply kept_mk; dsimp only; apply kept_un)

theorem State.belIrq_keeps {qq : List Instr} (s : State) (bit : Nat) (h_s : Kept qq s) :
    Kept qq (State.belIrq s bit) := by
  unfold State.belIrq
  dsimp -failIfUnchanged only
  repeat' with_reducible first | assumption | apply State.irq_keeps | dsimp only

theorem State.activation_keeps {qq : List Instr} (s : State) (i : Nat) (h_s : Kept qq s) :
    Kept qq (State.activation s i) := by
  unfold State.activation
  dsimp -failIfUnchanged only
  repeat' with_reducible first | assumption | (intro _) | apply State.belIrq_keeps | apply State.updInput_keeps | apply State.inActed_keeps | apply State.syncLose_keeps | apply State.bump_keeps | apply State.wr_keeps | apply kept_ite | dsimp only | (apply kept_mk; dsimp only; apply kept_un) | split

theorem State.pwrIrq_keeps {qq : List Instr} (s : State) (p : Nat) (bit : Nat) (h_s : Kept qq s) :
    Kept qq (State.pwrIrq s p bit) := by
  unfold State.pwrIrq
  dsimp -failIfUnchanged only
  repeat' with_reducible first | assumption | apply State.irq_keeps | dsimp only

theorem State.avsFail_keeps {qq : List Instr} (s : State) (err : Nat) (h_s : Kept qq s) :
    Kept qq (State.avsFail s err) := by
  unfold State.avsFail
  dsimp -failIfUnchanged only
  repeat' with_reducible first | assumption | apply State.pwrIrq_keeps | apply State.wr_keeps | dsimp only

theorem State.avsWrite_keeps {qq : List Instr} (s : State) (val : Word) (nack : Bool) (h_s : Kept qq s) :
    Kept qq (State.avsWrite s val nack) := by
  unfold State.avsWrite
  dsimp -failIfUnchanged only
  repeat' with_reducible first | assumption | (intro _) | apply State.avsFail_keeps | apply State.updPwr_keeps | apply State.wr_keeps | apply kept_ite | dsimp only | (apply kept_mk; dsimp only; apply kept_un) | split

theorem State.belCmd_keeps {qq : List Instr} (s : State) (val : Word) (h_s : Kept qq s) :
    Kept qq (State.belCmd s val) := by
  unfold State.belCmd
  dsimp -failIfUnchanged only
  repeat' with_reducible first | assumption | (intro _) | apply State.belIrq_keeps | apply State.updSrv_keeps | apply State.wr_keeps | apply kept_ite | dsimp only | (apply kept_mk; dsimp only; apply kept_un) | split

theorem State.thermalActions_keeps {qq : List Instr} (s : State) (m : Nat) (h_s : Kept qq s) :
    Kept qq (State.thermalActions s m) := by
  unfold State.thermalActions
  dsimp -failIfUnchanged only
  repeat' with_reducible first | assumption | (intro _) | apply State.belIrq_keeps | apply State.dmaThermal_keeps | apply State.spnStop_keeps | apply State.spnOff_keeps | apply State.emergency_keeps | apply State.updSrv_keeps | apply State.disable_keeps | apply kept_ite | dsimp only | (apply kept_mk; dsimp only; apply kept_un) | split

theorem State.shutdown_keeps {qq : List Instr} (s : State) (n : Nat) (h_s : Kept qq s) :
    Kept qq (State.shutdown s n) := by
  unfold State.shutdown
  dsimp -failIfUnchanged only
  repeat' with_reducible first | assumption | (intro _) | apply State.thermalActions_keeps | apply State.updPwr_keeps | apply State.hwPost_keeps | apply State.wr_keeps | dsimp only | (apply kept_mk; dsimp only; apply kept_un)

theorem State.belLimits_keeps {qq : List Instr} (s : State) (n : Nat) (x : Int) (r : Option Int) (h_s : Kept qq s) :
    Kept qq (State.belLimits s n x r) := by
  unfold State.belLimits
  dsimp -failIfUnchanged only
  repeat' with_reducible first | assumption | (intro _) | apply State.shutdown_keeps | apply State.belIrq_keeps | apply State.updPwr_keeps | apply State.hwPost_keeps | apply kept_ite | dsimp only | (apply kept_mk; dsimp only; apply kept_un) | split

theorem State.belOff_keeps {qq : List Instr} (s : State) (n : Nat) (h_s : Kept qq s) :
    Kept qq (State.belOff s n) := by
  unfold State.belOff
  dsimp -failIfUnchanged only
  repeat' with_reducible first | assumption | (intro _) | apply State.updPwr_keeps | dsimp only | (apply kept_mk; dsimp only; apply kept_un)

theorem State.belSample_keeps {qq : List Instr} (s : State) (n : Nat) (raw : Nat) (h_s : Kept qq s) :
    Kept qq (State.belSample s n raw).1 := by
  unfold State.belSample
  dsimp -failIfUnchanged only
  repeat' with_reducible first | assumption | (intro _) | apply State.drawn_keeps | apply kept_ite | apply kept_ite1 | dsimp only | split

theorem State.railRange_keeps {qq : List Instr} (s : State) (n : Nat) (x : Int) (h_s : Kept qq s) :
    Kept qq (State.railRange s n x) := by
  unfold State.railRange
  dsimp -failIfUnchanged only
  repeat' with_reducible first | assumption | apply State.wb_keeps | apply kept_ite | dsimp only | split

theorem State.setKinds_keeps {qq : List Instr} (s : State) (k : Nat) (h_s : Kept qq s) :
    Kept qq (State.setKinds s k) := by
  unfold State.setKinds
  dsimp -failIfUnchanged only
  repeat' with_reducible first | assumption | (intro _) | apply State.belIrq_keeps | apply State.wr_keeps | apply kept_ite | dsimp only | split

theorem State.belSlot_keeps {qq : List Instr} (s : State) (raw : Nat) (h_s : Kept qq s) :
    Kept qq (State.belSlot s raw) := by
  unfold State.belSlot
  dsimp -failIfUnchanged only
  repeat' with_reducible first | assumption | (intro _) | apply State.setKinds_keeps | apply State.railRange_keeps | apply State.belSample_keeps | apply State.belOff_keeps | apply State.belLimits_keeps | apply State.updPwr_keeps | apply State.wrI_keeps | apply State.wr_keeps | apply kept_ite | apply kept_ite1 | dsimp only | (refine kept_pair (by assumption) ?_) | (refine kept_opt (by assumption) ?_) | (refine kept_opt1 (by assumption) ?_) | (apply kept_mk; dsimp only; apply kept_un) | split

theorem State.belStart_keeps {qq : List Instr} (s : State) (h_s : Kept qq s) :
    Kept qq (State.belStart s) := by
  unfold State.belStart
  dsimp -failIfUnchanged only
  repeat' with_reducible first | assumption | (intro _) | apply State.updPwr_keeps | apply State.wr_keeps | dsimp only | (apply kept_mk; dsimp only; apply kept_un)

theorem State.cpuWrite_keeps {qq : List Instr} (s : State) (val : Word) (h_s : Kept qq s) :
    Kept qq (State.cpuWrite s val) := by
  unfold State.cpuWrite
  dsimp -failIfUnchanged only
  repeat' with_reducible first | assumption | (intro _) | apply State.irq_keeps | apply State.wr_keeps | apply kept_ite | dsimp only | split

theorem State.dmaContinue_keeps {qq : List Instr} (s : State) (gated : Nat) (h_s : Kept qq s) :
    Kept qq (State.dmaContinue s gated) := by
  unfold State.dmaContinue
  dsimp -failIfUnchanged only
  repeat' with_reducible first | assumption | (intro _) | apply State.dmaRelease_keeps | apply State.updCh_keeps | (refine kept_foldl ?_ (fun _ _ _ => ?_)) | (refine kept_foldl1 ?_ (fun _ _ _ => ?_)) | (refine kept_foldl2 ?_ (fun _ _ _ => ?_)) | dsimp only | (apply kept_mk; dsimp only; apply kept_un)

theorem State.domBusy_keeps {qq : List Instr} (s : State) (r : DomReq) (h_s : Kept qq s) :
    Kept qq (State.domBusy s r) := by
  unfold State.domBusy
  dsimp -failIfUnchanged only
  repeat' with_reducible first | assumption | (intro _) | apply State.updPwr_keeps | apply State.wr_keeps | dsimp only | (apply kept_mk; dsimp only; apply kept_un)

theorem State.domEnd_keeps {qq : List Instr} (s : State) (result : Nat) (dom : Nat) (h_s : Kept qq s) :
    Kept qq (State.domEnd s result dom) := by
  unfold State.domEnd
  dsimp -failIfUnchanged only
  repeat' with_reducible first | assumption | (intro _) | apply State.pwrIrq_keeps | apply State.updPwr_keeps | apply State.wr_keeps | apply kept_ite | dsimp only | (apply kept_mk; dsimp only; apply kept_un) | split

theorem State.domDown_keeps {qq : List Instr} (s : State) (m : Nat) (h_s : Kept qq s) :
    Kept qq (State.domDown s m) := by
  unfold State.domDown
  dsimp -failIfUnchanged only
  repeat' with_reducible first | assumption | (intro _) | apply State.domEnd_keeps | apply State.domBusy_keeps | apply State.dmaQuiesce_keeps | dsimp only | (refine kept_pair (by assumption) ?_) | (refine kept_opt (by assumption) ?_) | (refine kept_opt1 (by assumption) ?_) | (apply kept_mk; dsimp only; apply kept_un) | split

theorem State.pwrRefuse_keeps {qq : List Instr} (s : State) (h_s : Kept qq s) :
    Kept qq (State.pwrRefuse s) := by
  unfold State.pwrRefuse
  dsimp -failIfUnchanged only
  repeat' with_reducible first | assumption | apply State.pwrIrq_keeps | dsimp only

theorem State.domUp_keeps {qq : List Instr} (s : State) (m : Nat) (h_s : Kept qq s) :
    Kept qq (State.domUp s m) := by
  unfold State.domUp
  dsimp -failIfUnchanged only
  repeat' with_reducible first | assumption | apply State.domBusy_keeps | dsimp only | (apply kept_mk; dsimp only; apply kept_un)

theorem State.domReqWrite_keeps {qq : List Instr} (s : State) (val : Word) (h_s : Kept qq s) :
    Kept qq (State.domReqWrite s val) := by
  unfold State.domReqWrite
  dsimp -failIfUnchanged only
  repeat' with_reducible first | assumption | (intro _) | apply State.domUp_keeps | apply State.pwrRefuse_keeps | apply State.domDown_keeps | apply State.wr_keeps | apply kept_ite | dsimp only | split

theorem State.gate_keeps {qq : List Instr} (s : State) (m : Nat) (h_s : Kept qq s) :
    Kept qq (State.gate s m) := by
  unfold State.gate
  dsimp -failIfUnchanged only
  repeat' with_reducible first | assumption | (intro _) | apply State.domReset_keeps | apply State.wr_keeps | dsimp only

theorem State.inLevel_keeps {qq : List Instr} (s : State) (i : Nat) (h_s : Kept qq s) :
    Kept qq (State.inLevel s i) := by
  unfold State.inLevel
  dsimp -failIfUnchanged only
  repeat' with_reducible first | assumption | apply State.shockSet_keeps | apply State.regateBoth_keeps | apply kept_ite | dsimp only | split

theorem State.pstateWrite_keeps {qq : List Instr} (s : State) (val : Word) (h_s : Kept qq s) :
    Kept qq (State.pstateWrite s val) := by
  unfold State.pstateWrite
  dsimp -failIfUnchanged only
  repeat' with_reducible first | assumption | apply State.pwrRefuse_keeps | apply State.wr_keeps | apply kept_ite | dsimp only | split

theorem State.quiesceEnd_keeps {qq : List Instr} (s : State) (r : DomReq) (ok : Nat) (h_s : Kept qq s) :
    Kept qq (State.quiesceEnd s r ok) := by
  unfold State.quiesceEnd
  dsimp -failIfUnchanged only
  repeat' with_reducible first | assumption | (intro _) | apply State.gate_keeps | apply State.domEnd_keeps | apply State.dmaContinue_keeps | apply State.updPwr_keeps | apply State.dmaRelease_keeps | apply State.dmaIrq_keeps | apply State.updDma_keeps | apply State.wr_keeps | apply kept_ite | dsimp only | (apply kept_mk; dsimp only; apply kept_un) | split

theorem State.shedBegin_keeps {qq : List Instr} (s : State) (m : Nat) (h_s : Kept qq s) :
    Kept qq (State.shedBegin s m) := by
  unfold State.shedBegin
  dsimp -failIfUnchanged only
  repeat' with_reducible first | assumption | (intro _) | apply State.updPwr_keeps | apply State.dmaQuiesce_keeps | dsimp only | (apply kept_mk; dsimp only; apply kept_un)

theorem State.shedNext_keeps {qq : List Instr} (s : State) (h_s : Kept qq s) :
    Kept qq (State.shedNext s) := by
  unfold State.shedNext
  dsimp -failIfUnchanged only
  repeat' with_reducible first | assumption | apply State.shedBegin_keeps | dsimp only | (refine kept_pair (by assumption) ?_) | (refine kept_opt (by assumption) ?_) | (refine kept_opt1 (by assumption) ?_) | (apply kept_mk; dsimp only; apply kept_un) | split

theorem State.thermalReset_keeps {qq : List Instr} (s : State) (causes : Nat) (h_s : Kept qq s) :
    Kept qq (State.thermalReset s causes) := by
  unfold State.thermalReset
  dsimp -failIfUnchanged only
  repeat' with_reducible first | assumption | (intro _) | apply State.updPwr_keeps | apply State.deviceReset_keeps | dsimp only | (apply kept_mk; dsimp only; apply kept_un)

theorem execActivityTouch_keeps {qq : List Instr} (val : Word) (s : State) (h_s : Kept qq s) :
    Out.Kept qq (execActivityTouch val s) := by
  unfold execActivityTouch
  dsimp -failIfUnchanged only
  repeat' with_reducible first | assumption | (intro _) | apply State.gated_keeps | apply State.activity_keeps | apply kept_next | apply kept_ite3 | apply kept_ite | dsimp only | split

theorem execAvsRequest_keeps {qq : List Instr} (val : Word) (nack : Bool) (s : State) (h_s : Kept qq s) :
    Out.Kept qq (execAvsRequest val nack s) := by
  unfold execAvsRequest
  dsimp -failIfUnchanged only
  repeat' with_reducible first | assumption | (intro _) | apply State.avsWrite_keeps | apply State.gated_keeps | apply kept_next | apply kept_ite3 | dsimp only

theorem execAvsSettleDone_keeps {qq : List Instr} (read : Option Nat) (s : State) (h_s : Kept qq s) :
    Out.Kept qq (execAvsSettleDone read s) := by
  unfold execAvsSettleDone
  dsimp -failIfUnchanged only
  repeat' with_reducible first | assumption | (intro _) | apply State.avsFail_keeps | apply State.pwrIrq_keeps | apply State.wr_keeps | apply kept_next | apply kept_ite3 | apply kept_ite | dsimp only | (refine kept_pair (by assumption) ?_) | (refine kept_opt (by assumption) ?_) | (refine kept_opt1 (by assumption) ?_) | split

theorem execBelfrySlotEnd_keeps {qq : List Instr} (raw : Nat) (s : State) (h_s : Kept qq s) :
    Out.Kept qq (execBelfrySlotEnd raw s) := by
  unfold execBelfrySlotEnd
  dsimp -failIfUnchanged only
  repeat' with_reducible first | assumption | (intro _) | apply State.belSlot_keeps | apply State.setKinds_keeps | apply State.updPwr_keeps | apply State.dmaPulse_keeps | apply State.shutDone_keeps | apply kept_next | apply kept_ite3 | apply kept_ite | dsimp only | (apply kept_mk; dsimp only; apply kept_un) | split

theorem execClockLoss_keeps {qq : List Instr} (s : State) (h_s : Kept qq s) :
    Out.Kept qq (execClockLoss s) := by
  unfold execClockLoss
  dsimp -failIfUnchanged only
  repeat' with_reducible first | assumption | apply State.deviceReset_keeps | apply kept_next | apply kept_ite3 | apply kept_ite | dsimp only | split

theorem execCpuMultWrite_keeps {qq : List Instr} (val : Word) (s : State) (h_s : Kept qq s) :
    Out.Kept qq (execCpuMultWrite val s) := by
  unfold execCpuMultWrite
  dsimp -failIfUnchanged only
  repeat' with_reducible first | assumption | (intro _) | apply State.cpuWrite_keeps | apply State.gated_keeps | apply kept_next | apply kept_ite3 | dsimp only

theorem execCpuPllLocked_keeps {qq : List Instr} (s : State) (h_s : Kept qq s) :
    Out.Kept qq (execCpuPllLocked s) := by
  unfold execCpuPllLocked
  dsimp -failIfUnchanged only
  repeat' with_reducible first | assumption | apply State.irq_keeps | apply State.wr_keeps | apply kept_next | apply kept_ite3 | apply kept_ite | dsimp only | split

theorem execDomainPowerDown_keeps {qq : List Instr} (val : Word) (s : State) (h_s : Kept qq s) :
    Out.Kept qq (execDomainPowerDown val s) := by
  unfold execDomainPowerDown
  dsimp -failIfUnchanged only
  repeat' with_reducible first | assumption | (intro _) | apply State.domReqWrite_keeps | apply State.gated_keeps | apply kept_next | apply kept_ite3 | dsimp only

theorem execDomainPowerUp_keeps {qq : List Instr} (val : Word) (s : State) (h_s : Kept qq s) :
    Out.Kept qq (execDomainPowerUp val s) := by
  unfold execDomainPowerUp
  dsimp -failIfUnchanged only
  repeat' with_reducible first | assumption | (intro _) | apply State.domReqWrite_keeps | apply State.gated_keeps | apply kept_next | apply kept_ite3 | dsimp only

theorem execDomainRelease_keeps {qq : List Instr} (s : State) (h_s : Kept qq s) :
    Out.Kept qq (execDomainRelease s) := by
  unfold execDomainRelease
  dsimp -failIfUnchanged only
  repeat' with_reducible first | assumption | (intro _) | apply State.shedNext_keeps | apply State.domEnd_keeps | apply State.domReset_keeps | apply State.hartRelease_keeps | apply State.dmaRelease_keeps | apply State.wr_keeps | apply kept_next | apply kept_ite3 | apply kept_ite | dsimp only | (refine kept_pair (by assumption) ?_) | (refine kept_opt (by assumption) ?_) | (refine kept_opt1 (by assumption) ?_) | split

theorem execHoldupBegin_keeps {qq : List Instr} (s : State) (h_s : Kept qq s) :
    Out.Kept qq (execHoldupBegin s) := by
  unfold execHoldupBegin
  dsimp -failIfUnchanged only
  repeat' with_reducible first | assumption | (intro _) | apply State.shedBegin_keeps | apply State.pwrIrq_keeps | apply State.updPwr_keeps | apply State.recBegin_keeps | apply State.updObj_keeps | apply State.spnHoldup_keeps | apply State.hwPost_keeps | apply State.updFwk_keeps | apply State.wr_keeps | apply kept_next | apply kept_ite3 | apply kept_ite | dsimp only | (apply kept_mk; dsimp only; apply kept_un) | split

theorem execHoldupDone_keeps {qq : List Instr} (failActive : Bool) (s : State) (h_s : Kept qq s) :
    Out.Kept qq (execHoldupDone failActive s) := by
  unfold execHoldupDone
  dsimp -failIfUnchanged only
  repeat' with_reducible first | assumption | (intro _) | apply State.thermalReset_keeps | apply State.pwrIrq_keeps | apply State.updPwr_keeps | apply State.deviceReset_keeps | apply State.coreReset_keeps | apply State.updObj_keeps | apply State.wr_keeps | apply kept_next | apply kept_ite3 | apply kept_ite | dsimp only | (apply kept_mk; dsimp only; apply kept_un) | split

theorem execIdleTimerExpiry_keeps {qq : List Instr} (n : Nat) (s : State) (h_s : Kept qq s) :
    Out.Kept qq (execIdleTimerExpiry n s) := by
  unfold execIdleTimerExpiry
  dsimp -failIfUnchanged only
  repeat' with_reducible first | assumption | (intro _) | apply State.pwrIrq_keeps | apply kept_next | apply kept_ite3 | apply kept_ite | dsimp only | split

theorem execInputBucketFull_keeps {qq : List Instr} (i : Nat) (s : State) (h_s : Kept qq s) :
    Out.Kept qq (execInputBucketFull i s) := by
  unfold execInputBucketFull
  dsimp -failIfUnchanged only
  repeat' with_reducible first | assumption | apply State.wr_keeps | apply kept_next | apply kept_ite3 | apply kept_ite | dsimp only | split

theorem execInputFilterChange_keeps {qq : List Instr} (i : Nat) (active : Bool) (s : State) (h_s : Kept qq s) :
    Out.Kept qq (execInputFilterChange i active s) := by
  unfold execInputFilterChange
  dsimp -failIfUnchanged only
  repeat' with_reducible first | assumption | (intro _) | apply State.inLevel_keeps | apply State.activation_keeps | apply State.wb_keeps | apply kept_next | apply kept_ite3 | apply kept_ite | dsimp only | split

theorem execInputRearm_keeps {qq : List Instr} (i : Nat) (s : State) (h_s : Kept qq s) :
    Out.Kept qq (execInputRearm i s) := by
  unfold execInputRearm
  dsimp -failIfUnchanged only
  repeat' with_reducible first | assumption | apply State.inLevel_keeps | apply State.wr_keeps | apply kept_next | apply kept_ite3 | apply kept_ite | dsimp only | split

theorem execInputStuck_keeps {qq : List Instr} (i : Nat) (s : State) (h_s : Kept qq s) :
    Out.Kept qq (execInputStuck i s) := by
  unfold execInputStuck
  dsimp -failIfUnchanged only
  repeat' with_reducible first | assumption | apply State.inLevel_keeps | apply State.belIrq_keeps | apply State.hwPost_keeps | apply State.wr_keeps | apply kept_next | apply kept_ite3 | apply kept_ite | dsimp only | split

theorem execQuiesceAck_keeps {qq : List Instr} (s : State) (h_s : Kept qq s) :
    Out.Kept qq (execQuiesceAck s) := by
  unfold execQuiesceAck
  dsimp -failIfUnchanged only
  repeat' with_reducible first | assumption | apply State.shedNext_keeps | apply State.quiesceEnd_keeps | apply kept_next | apply kept_ite3 | apply kept_ite | dsimp only | (refine kept_pair (by assumption) ?_) | (refine kept_opt (by assumption) ?_) | (refine kept_opt1 (by assumption) ?_) | split

theorem execQuiesceTimeout_keeps {qq : List Instr} (s : State) (h_s : Kept qq s) :
    Out.Kept qq (execQuiesceTimeout s) := by
  unfold execQuiesceTimeout
  dsimp -failIfUnchanged only
  repeat' with_reducible first | assumption | apply State.shedNext_keeps | apply State.quiesceEnd_keeps | apply kept_next | apply kept_ite3 | apply kept_ite | dsimp only | (refine kept_pair (by assumption) ?_) | (refine kept_opt (by assumption) ?_) | (refine kept_opt1 (by assumption) ?_) | split

theorem execShutClr_keeps {qq : List Instr} (val : Word) (s : State) (h_s : Kept qq s) :
    Out.Kept qq (execShutClr val s) := by
  unfold execShutClr
  dsimp -failIfUnchanged only
  repeat' with_reducible first | assumption | (intro _) | apply State.belCmd_keeps | apply State.gated_keeps | apply kept_next | apply kept_ite3 | dsimp only

theorem execShutDelayExpiry_keeps {qq : List Instr} (s : State) (h_s : Kept qq s) :
    Out.Kept qq (execShutDelayExpiry s) := by
  unfold execShutDelayExpiry
  dsimp -failIfUnchanged only
  repeat' with_reducible first | assumption | (intro _) | apply State.gate_keeps | apply State.updPwr_keeps | apply kept_next | apply kept_ite3 | dsimp only | (refine kept_pair (by assumption) ?_) | (refine kept_opt (by assumption) ?_) | (refine kept_opt1 (by assumption) ?_) | (apply kept_mk; dsimp only; apply kept_un) | split

theorem execThermalResetRelease_keeps {qq : List Instr} (s : State) (h_s : Kept qq s) :
    Out.Kept qq (execThermalResetRelease s) := by
  unfold execThermalResetRelease
  dsimp -failIfUnchanged only
  repeat' with_reducible first | assumption | (intro _) | apply State.updPwr_keeps | apply State.wr_keeps | apply kept_next | apply kept_ite3 | apply kept_ite | dsimp only | (apply kept_mk; dsimp only; apply kept_un) | split

theorem execThermalTrip_keeps {qq : List Instr} (s : State) (h_s : Kept qq s) :
    Out.Kept qq (execThermalTrip s) := by
  unfold execThermalTrip
  dsimp -failIfUnchanged only
  repeat' with_reducible first | assumption | apply State.thermalActions_keeps | apply State.pwrIrq_keeps | apply State.hwPost_keeps | apply State.wr_keeps | apply kept_next | apply kept_ite3 | apply kept_ite | dsimp only | split

theorem execThermalTripReset_keeps {qq : List Instr} (s : State) (h_s : Kept qq s) :
    Out.Kept qq (execThermalTripReset s) := by
  unfold execThermalTripReset
  dsimp -failIfUnchanged only
  repeat' with_reducible first | assumption | apply State.thermalReset_keeps | apply kept_next | apply kept_ite3 | apply kept_ite | dsimp only | split

end Sys2Proof.Machine
end

