-- ==== Sys2Proof/Laws/KeepSpr.lean ====
section
/-! SUPPORT. Each operation of Machine/Spr.lean leaves the register file and memory canonical and the queue as it is. -/

set_option linter.unusedTactic false
set_option linter.unreachableTactic false
set_option maxRecDepth 8000

namespace Sys2Proof.Machine

theorem State.captr_keeps {qq : List Instr} (s : State) (sp : Spire) (p : Plan) (dest : Nat) (tag : Nat) (h_s : Kept qq s) :
    Kept qq (State.captr s sp p dest tag) := by
  unfold State.captr
  dsimp -failIfUnchanged only
  repeat' with_reducible first | assumption | (intro _) | apply State.updSpire_keeps | apply State.updChn_keeps | dsimp only | (apply kept_mk; dsimp only; apply kept_un)

theorem State.csInc_keeps {qq : List Instr} (s : State) (cls : Nat) (h_s : Kept qq s) :
    Kept qq (State.csInc s cls) := by
  unfold State.csInc
  dsimp -failIfUnchanged only
  repeat' with_reducible first | assumption | apply State.wr_keeps | apply kept_ite | dsimp only | split

theorem State.sprIrq_keeps {qq : List Instr} (s : State) (cls : Nat) (bit : Nat) (h_s : Kept qq s) :
    Kept qq (State.sprIrq s cls bit) := by
  unfold State.sprIrq
  dsimp -failIfUnchanged only
  repeat' with_reducible first | assumption | apply State.irq_keeps | dsimp only

theorem State.csWrite_keeps {qq : List Instr} (s : State) (cls : Nat) (val : Word) (h_s : Kept qq s) :
    Kept qq (State.csWrite s cls val) := by
  unfold State.csWrite
  dsimp -failIfUnchanged only
  repeat' with_reducible first | assumption | (intro _) | apply State.sprIrq_keeps | apply State.csInc_keeps | apply State.updSpire_keeps | apply kept_ite | (refine kept_foldl ?_ (fun _ _ _ => ?_)) | (refine kept_foldl1 ?_ (fun _ _ _ => ?_)) | (refine kept_foldl2 ?_ (fun _ _ _ => ?_)) | dsimp only | (apply kept_mk; dsimp only; apply kept_un) | split

theorem State.dropPlan_keeps {qq : List Instr} (s : State) (sp : Spire) (h_s : Kept qq s) :
    Kept qq (State.dropPlan s sp) := by
  unfold State.dropPlan
  dsimp -failIfUnchanged only
  repeat' with_reducible first | assumption | (intro _) | apply State.updTwr_keeps | apply State.updChn_keeps | apply kept_ite | dsimp only | (apply kept_mk; dsimp only; apply kept_un) | split

theorem State.emitr_keeps {qq : List Instr} (s : State) (sp : Spire) (p : Plan) (src : Nat) (md : Nat) (h_s : Kept qq s) :
    Kept qq (State.emitr s sp p src md) := by
  unfold State.emitr
  dsimp -failIfUnchanged only
  repeat' with_reducible first | assumption | (intro _) | apply State.lanAssist_keeps | apply State.updTwr_keeps | apply State.wr_keeps | dsimp only | (apply kept_mk; dsimp only; apply kept_un)

theorem State.sprTrace_keeps {qq : List Instr} (s : State) (sp : Spire) (kind : Nat) (l : List Byte) (h_s : Kept qq s) :
    Kept qq (State.sprTrace s sp kind l) := by
  unfold State.sprTrace
  dsimp -failIfUnchanged only
  repeat' with_reducible first | assumption | apply State.trace_keeps | dsimp only

theorem State.flow_keeps {qq : List Instr} (s : State) (sp : Spire) (pc : Nat) (h_s : Kept qq s) :
    Kept qq (State.flow s sp pc) := by
  unfold State.flow
  dsimp -failIfUnchanged only
  repeat' with_reducible first | assumption | apply State.sprTrace_keeps | dsimp only

theorem State.sprSurround_keeps {qq : List Instr} (s : State) (sp : Spire) (h_s : Kept qq s) :
    Kept qq (State.sprSurround s sp) := by
  unfold State.sprSurround
  dsimp -failIfUnchanged only
  repeat' with_reducible first | assumption | (intro _) | apply State.dropPlan_keeps | apply State.dropGates_keeps | apply State.cmpFlushSeq_keeps | apply State.cutSector_keeps | apply State.capCut_keeps | apply State.updChn_keeps | apply kept_ite | apply kept_ite1 | (refine kept_foldl ?_ (fun _ _ _ => ?_)) | (refine kept_foldl1 ?_ (fun _ _ _ => ?_)) | (refine kept_foldl2 ?_ (fun _ _ _ => ?_)) | dsimp only | (apply kept_mk; dsimp only; apply kept_un) | split

theorem State.sprLeave_keeps {qq : List Instr} (s : State) (sp : Spire) (st : Nat) (h_s : Kept qq s) :
    Kept qq (State.sprLeave s sp st) := by
  unfold State.sprLeave
  dsimp -failIfUnchanged only
  repeat' with_reducible first | assumption | (intro _) | apply State.sprSurround_keeps | apply State.updSpire_keeps | dsimp only | (apply kept_mk; dsimp only; apply kept_un)

theorem State.postRec_keeps {qq : List Instr} (s : State) (sp : Spire) (hdr : Word) (status : Nat) (ra : Nat) (rb : Nat) (h_s : Kept qq s) :
    Kept qq (State.postRec s sp hdr status ra rb) := by
  unfold State.postRec
  dsimp -failIfUnchanged only
  repeat' with_reducible first | assumption | (intro _) | apply State.sprTrace_keeps | apply State.sprIrq_keeps | apply State.setWords_keeps | apply State.updSpire_keeps | apply State.wr_keeps | apply kept_ite | dsimp only | (apply kept_mk; dsimp only; apply kept_un) | split

theorem State.machineCheck_keeps {qq : List Instr} (s : State) (sp : Spire) (cause : Nat) (h_s : Kept qq s) :
    Kept qq (State.machineCheck s sp cause) := by
  unfold State.machineCheck
  dsimp -failIfUnchanged only
  repeat' with_reducible first | assumption | (intro _) | apply State.postRec_keeps | apply State.sprLeave_keeps | apply State.sprTrace_keeps | apply State.sprIrq_keeps | apply State.updSpire_keeps | apply State.hwPost_keeps | dsimp only | (refine kept_pair (by assumption) ?_) | (refine kept_opt (by assumption) ?_) | (refine kept_opt1 (by assumption) ?_) | (apply kept_mk; dsimp only; apply kept_un) | split

theorem State.pushTo_keeps {qq : List Instr} (s : State) (l : List Spire) (cmd : List Word) (h_s : Kept qq s) :
    Kept qq (State.pushTo s l cmd).1 := by
  unfold State.pushTo
  dsimp -failIfUnchanged only
  repeat' with_reducible first | assumption | (intro _) | apply State.sprIrq_keeps | apply State.updSpire_keeps | apply kept_ite | apply kept_ite1 | (refine kept_foldl ?_ (fun _ _ _ => ?_)) | (refine kept_foldl1 ?_ (fun _ _ _ => ?_)) | (refine kept_foldl2 ?_ (fun _ _ _ => ?_)) | dsimp only | (apply kept_mk; dsimp only; apply kept_un) | split

theorem State.mqPush_keeps {qq : List Instr} (s : State) (core : Nat) (words : List Word) (val : Word) (h_s : Kept qq s) :
    Kept qq (State.mqPush s core words val) := by
  unfold State.mqPush
  dsimp -failIfUnchanged only
  repeat' with_reducible first | assumption | (intro _) | apply State.pushTo_keeps | apply State.sprIrq_keeps | apply kept_ite | apply kept_ite1 | dsimp only | (refine kept_pair (by assumption) ?_) | (refine kept_opt (by assumption) ?_) | (refine kept_opt1 (by assumption) ?_) | (apply kept_mk; dsimp only; apply kept_un) | split

theorem State.popTake_keeps {qq : List Instr} (s : State) (sp : Spire) (c : List Word) (h_s : Kept qq s) :
    Kept qq (State.popTake s sp c) := by
  unfold State.popTake
  dsimp -failIfUnchanged only
  repeat' with_reducible first | assumption | (intro _) | apply State.sprTrace_keeps | apply State.dropPlan_keeps | apply State.updSpire_keeps | apply kept_ite | dsimp only | (apply kept_mk; dsimp only; apply kept_un) | split

theorem State.popGo_keeps {q : List Instr} (s : State) (sp : Spire) (n : Nat) (h_s : Kept q s) : Kept q (State.popGo s sp n).1 := by
  induction n generalizing s with
  | zero => exact h_s
  | succ n ih =>
    unfold State.popGo
    split
    · exact h_s
    · dsimp only
      split
      · exact ih _ (by apply State.postRec_keeps; apply State.popTake_keeps; exact h_s)
      · exact State.updSpire_keeps _ _ _ (State.popTake_keeps _ _ _ h_s)

theorem State.pop_keeps {qq : List Instr} (s : State) (sp : Spire) (h_s : Kept qq s) :
    Kept qq (State.pop s sp).1 := by
  unfold State.pop
  dsimp -failIfUnchanged only
  repeat' with_reducible first | assumption | apply State.popGo_keeps | dsimp only

theorem State.qPush_keeps {qq : List Instr} (s : State) (cls : Nat) (val : Word) (h_s : Kept qq s) :
    Kept qq (State.qPush s cls val) := by
  unfold State.qPush
  dsimp -failIfUnchanged only
  repeat' with_reducible first | assumption | (intro _) | apply State.pushTo_keeps | apply State.sprIrq_keeps | apply State.wr_keeps | apply kept_ite | apply kept_ite1 | dsimp only | (refine kept_pair (by assumption) ?_) | (refine kept_opt (by assumption) ?_) | (refine kept_opt1 (by assumption) ?_) | split

theorem State.setW_keeps {qq : List Instr} (s : State) (sp : Spire) (n : Nat) (v : Word) (h_s : Kept qq s) :
    Kept qq (State.setW s sp n v) := by
  unfold State.setW
  dsimp -failIfUnchanged only
  repeat' with_reducible first | assumption | (intro _) | apply State.updSpire_keeps | dsimp only | (apply kept_mk; dsimp only; apply kept_un)

theorem State.sprHalt_keeps {qq : List Instr} (s : State) (sp : Spire) (h_s : Kept qq s) :
    Kept qq (State.sprHalt s sp) := by
  unfold State.sprHalt
  dsimp -failIfUnchanged only
  repeat' with_reducible first | assumption | (intro _) | apply State.postRec_keeps | apply State.sprLeave_keeps | apply State.updSpire_keeps | apply kept_ite | dsimp only | (refine kept_pair (by assumption) ?_) | (refine kept_opt (by assumption) ?_) | (refine kept_opt1 (by assumption) ?_) | (apply kept_mk; dsimp only; apply kept_un) | split

theorem State.sprRun_keeps {qq : List Instr} (s : State) (sp : Spire) (h_s : Kept qq s) :
    Kept qq (State.sprRun s sp) := by
  unfold State.sprRun
  dsimp -failIfUnchanged only
  repeat' with_reducible first | assumption | (intro _) | apply State.sprIrq_keeps | apply State.updSpire_keeps | apply kept_ite | dsimp only | (apply kept_mk; dsimp only; apply kept_un) | split

theorem State.sprCmd_keeps {qq : List Instr} (s : State) (cls : Nat) (val : Word) (h_s : Kept qq s) :
    Kept qq (State.sprCmd s cls val) := by
  unfold State.sprCmd
  dsimp -failIfUnchanged only
  repeat' with_reducible first | assumption | (intro _) | apply State.sprRun_keeps | apply State.sprHalt_keeps | apply kept_ite | dsimp only | (refine kept_pair (by assumption) ?_) | (refine kept_opt (by assumption) ?_) | (refine kept_opt1 (by assumption) ?_) | (apply kept_mk; dsimp only; apply kept_un) | split

theorem State.sprForce_keeps {qq : List Instr} (s : State) (cls : Nat) (val : Word) (h_s : Kept qq s) :
    Kept qq (State.sprForce s cls val) := by
  unfold State.sprForce
  dsimp -failIfUnchanged only
  repeat' with_reducible first | assumption | apply State.machineCheck_keeps | apply kept_ite | dsimp only | (refine kept_pair (by assumption) ?_) | (refine kept_opt (by assumption) ?_) | (refine kept_opt1 (by assumption) ?_) | split

theorem State.sprStop_keeps {qq : List Instr} (s : State) (cls : Nat) (h_s : Kept qq s) :
    Kept qq (State.sprStop s cls) := by
  unfold State.sprStop
  dsimp -failIfUnchanged only
  repeat' with_reducible first | assumption | (intro _) | apply State.sprHalt_keeps | (refine kept_foldl ?_ (fun _ _ _ => ?_)) | (refine kept_foldl1 ?_ (fun _ _ _ => ?_)) | (refine kept_foldl2 ?_ (fun _ _ _ => ?_)) | dsimp only

end Sys2Proof.Machine
end

