-- ==== Sys2Proof/Laws/KeepBlk.lean ====
section
/-! SUPPORT. Each operation of Machine/Blk.lean leaves the register file and memory canonical and the queue as it is. -/

set_option linter.unusedTactic false
set_option linter.unreachableTactic false
set_option maxRecDepth 8000

namespace Sys2Proof.Machine

theorem State.blockStart_keeps {qq : List Instr} (s : State) (b : Nat) (i : Nat) (h_s : Kept qq s) :
    Kept qq (State.blockStart s b i) := by
  unfold State.blockStart
  dsimp -failIfUnchanged only
  repeat' with_reducible first | assumption | apply State.belStart_keeps | apply State.cupStart_keeps | apply State.memStart_keeps | apply State.evrStart_keeps | apply State.ethStart_keeps | apply State.lanStart_keeps | apply State.cplStart_keeps | apply State.chnStart_keeps | apply State.srvStart_keeps | apply State.spnStart_keeps | apply State.atbStart_keeps | apply State.engRefresh_keeps | apply kept_ite | dsimp only | split

theorem State.blockStop_keeps {qq : List Instr} (s : State) (b : Nat) (i : Nat) (h_s : Kept qq s) :
    Kept qq (State.blockStop s b i) := by
  unfold State.blockStop
  dsimp -failIfUnchanged only
  repeat' with_reducible first | assumption | (intro _) | apply State.sprStop_keeps | apply State.flsStop_keeps | apply State.dmaStop_keeps | apply State.cupStop_keeps | apply State.evrStop_keeps | apply State.ethStop_keeps | apply State.aotStop_keeps | apply State.twrStop_keeps | apply State.cplStop_keeps | apply State.lanStop_keeps | apply State.chnStop_keeps | apply State.srvStop_keeps | apply State.spnStop_keeps | apply State.atbStop_keeps | apply State.engRefresh_keeps | apply State.updFwk_keeps | apply kept_ite | dsimp only | (apply kept_mk; dsimp only; apply kept_un) | split

theorem State.softReset_keeps {qq : List Instr} (s : State) (b : Nat) (i : Nat) (p : Nat) (h_s : Kept qq s) :
    Kept qq (State.softReset s b i p) := by
  unfold State.softReset
  dsimp -failIfUnchanged only
  repeat' with_reducible first | assumption | (intro _) | apply State.blockStop_keeps | apply State.softApply_keeps | apply State.updFwk_keeps | apply State.setRpend_keeps | apply State.beginStop_keeps | apply State.setEn_keeps | apply kept_ite | dsimp only | (apply kept_mk; dsimp only; apply kept_un) | split

theorem State.toStarting_keeps {qq : List Instr} (s : State) (b : Nat) (i : Nat) (h_s : Kept qq s) :
    Kept qq (State.toStarting s b i) := by
  unfold State.toStarting
  dsimp -failIfUnchanged only
  repeat' with_reducible first | assumption | (intro _) | apply State.blockStart_keeps | apply State.engRefresh_keeps | apply State.updFwk_keeps | apply State.setSt_keeps | apply kept_ite | dsimp only | (apply kept_mk; dsimp only; apply kept_un) | split

theorem State.enable_keeps {qq : List Instr} (s : State) (b : Nat) (i : Nat) (h_s : Kept qq s) :
    Kept qq (State.enable s b i) := by
  unfold State.enable
  dsimp -failIfUnchanged only
  repeat' with_reducible first | assumption | (intro _) | apply State.toStarting_keeps | apply State.setRpend_keeps | apply State.setEn_keeps | apply kept_ite | dsimp only | split

theorem State.disableBlk_keeps {qq : List Instr} (s : State) (b : Nat) (i : Nat) (h_s : Kept qq s) :
    Kept qq (State.disableBlk s b i) := by
  unfold State.disableBlk
  dsimp -failIfUnchanged only
  repeat' with_reducible first | assumption | (intro _) | apply State.blockStop_keeps | apply State.spnOff_keeps | apply State.disable_keeps | apply kept_ite | dsimp only | split

theorem State.ctlWrite_keeps {qq : List Instr} (s : State) (b : Nat) (i : Nat) (p : Nat) (val : Word) (h_s : Kept qq s) :
    Kept qq (State.ctlWrite s b i p val) := by
  unfold State.ctlWrite
  dsimp -failIfUnchanged only
  repeat' with_reducible first | assumption | apply State.disableBlk_keeps | apply State.enable_keeps | apply State.softReset_keeps | apply kept_ite | dsimp only | split

theorem State.startDone_keeps {qq : List Instr} (s : State) (b : Nat) (i : Nat) (h_s : Kept qq s) :
    Kept qq (State.startDone s b i) := by
  unfold State.startDone
  dsimp -failIfUnchanged only
  repeat' with_reducible first | assumption | (intro _) | apply State.flsStartUp_keeps | apply State.dmaStart_keeps | apply State.memOn_keeps | apply State.atbStarted_keeps | apply State.engRefresh_keeps | apply State.setSt_keeps | apply kept_ite | dsimp only | split

theorem State.stopDone_keeps {qq : List Instr} (s : State) (b : Nat) (i : Nat) (h_s : Kept qq s) :
    Kept qq (State.stopDone s b i) := by
  unfold State.stopDone
  dsimp -failIfUnchanged only
  repeat' with_reducible first | assumption | apply State.dmaSettle_keeps | apply State.memStopEnd_keeps | apply State.aotIdle_keeps | apply State.srvShutDone_keeps | apply State.shutDone_keeps | apply kept_ite | dsimp only | split

theorem execDisableWrite_keeps {qq : List Instr} (blk : Nat) (inst : Nat) (s : State) (h_s : Kept qq s) :
    Out.Kept qq (execDisableWrite blk inst s) := by
  unfold execDisableWrite
  dsimp -failIfUnchanged only
  repeat' with_reducible first | assumption | (intro _) | apply State.disableBlk_keeps | apply State.gated_keeps | apply kept_next | apply kept_ite3 | dsimp only

theorem execEnableWrite_keeps {qq : List Instr} (blk : Nat) (inst : Nat) (s : State) (h_s : Kept qq s) :
    Out.Kept qq (execEnableWrite blk inst s) := by
  unfold execEnableWrite
  dsimp -failIfUnchanged only
  repeat' with_reducible first | assumption | (intro _) | apply State.enable_keeps | apply State.gated_keeps | apply kept_next | apply kept_ite3 | dsimp only

theorem execRestartCycleEnd_keeps {qq : List Instr} (blk : Nat) (inst : Nat) (s : State) (h_s : Kept qq s) :
    Out.Kept qq (execRestartCycleEnd blk inst s) := by
  unfold execRestartCycleEnd
  dsimp -failIfUnchanged only
  repeat' with_reducible first | assumption | (intro _) | apply State.toStarting_keeps | apply State.updFwk_keeps | apply kept_next | apply kept_ite3 | apply kept_ite | dsimp only | (apply kept_mk; dsimp only; apply kept_un) | split

theorem execShutdownComplete_keeps {qq : List Instr} (blk : Nat) (inst : Nat) (s : State) (h_s : Kept qq s) :
    Out.Kept qq (execShutdownComplete blk inst s) := by
  unfold execShutdownComplete
  dsimp -failIfUnchanged only
  repeat' with_reducible first | assumption | apply State.stopDone_keeps | apply kept_next | apply kept_ite3 | dsimp only

theorem execSoftReset_keeps {qq : List Instr} (blk : Nat) (inst : Nat) (page : Nat) (s : State) (h_s : Kept qq s) :
    Out.Kept qq (execSoftReset blk inst page s) := by
  unfold execSoftReset
  dsimp -failIfUnchanged only
  repeat' with_reducible first | assumption | (intro _) | apply State.softReset_keeps | apply State.gated_keeps | apply kept_next | apply kept_ite3 | dsimp only

theorem execStartComplete_keeps {qq : List Instr} (blk : Nat) (inst : Nat) (s : State) (h_s : Kept qq s) :
    Out.Kept qq (execStartComplete blk inst s) := by
  unfold execStartComplete
  dsimp -failIfUnchanged only
  repeat' with_reducible first | assumption | apply State.startDone_keeps | apply kept_next | apply kept_ite3 | dsimp only

end Sys2Proof.Machine
end

