-- ==== Sys2Proof/Laws/KeepSys.lean ====
section
/-! SUPPORT. Each operation of Machine/Sys.lean leaves the register file and memory canonical and the queue as it is. -/

set_option linter.unusedTactic false
set_option linter.unreachableTactic false
set_option maxRecDepth 8000

namespace Sys2Proof.Machine

theorem State.updSys_keeps {qq : List Instr} (s : State) (f : SysState → SysState) (h_s : Kept qq s) :
    Kept qq (State.updSys s f) := by
  unfold State.updSys
  dsimp -failIfUnchanged only
  repeat' with_reducible first | assumption | (intro _) | dsimp only | (apply kept_mk; dsimp only; apply kept_un)

theorem State.answer_keeps {qq : List Instr} (s : State) (cmd : Nat) (status : Nat) (l : List Byte) (h_s : Kept qq s) :
    Kept qq (State.answer s cmd status l) := by
  unfold State.answer
  dsimp -failIfUnchanged only
  repeat' with_reducible first | assumption | (intro _) | apply State.updSys_keeps | dsimp only | (apply kept_mk; dsimp only; apply kept_un)

theorem State.sysIrq_keeps {qq : List Instr} (s : State) (p : Nat) (bit : Nat) (h_s : Kept qq s) :
    Kept qq (State.sysIrq s p bit) := by
  unfold State.sysIrq
  dsimp -failIfUnchanged only
  repeat' with_reducible first | assumption | apply State.irq_keeps | dsimp only

theorem State.bistCmd_keeps {qq : List Instr} (s : State) (val : Word) (h_s : Kept qq s) :
    Kept qq (State.bistCmd s val) := by
  unfold State.bistCmd
  dsimp -failIfUnchanged only
  repeat' with_reducible first | assumption | (intro _) | apply State.sysIrq_keeps | apply State.updSys_keeps | apply State.wr_keeps | apply kept_ite | dsimp only | (apply kept_mk; dsimp only; apply kept_un) | split

theorem State.bootCode_keeps {qq : List Instr} (s : State) (c : Nat) (h_s : Kept qq s) :
    Kept qq (State.bootCode s c) := by
  unfold State.bootCode
  dsimp -failIfUnchanged only
  repeat' with_reducible first | assumption | apply State.wr_keeps | dsimp only

theorem State.setRvec_keeps {qq : List Instr} (s : State) (h : Nat) (a : Nat) (h_s : Kept qq s) :
    Kept qq (State.setRvec s h a) := by
  unfold State.setRvec
  dsimp -failIfUnchanged only
  repeat' with_reducible first | assumption | apply State.wr_keeps | dsimp only

theorem State.launch_keeps {qq : List Instr} (s : State) (n : Nat) (h_s : Kept qq s) :
    Kept qq (State.launch s n) := by
  unfold State.launch
  dsimp -failIfUnchanged only
  repeat' with_reducible first | assumption | (intro _) | apply State.setRvec_keeps | apply State.bootCode_keeps | apply State.updSys_keeps | apply State.updDom_keeps | apply State.wr_keeps | apply kept_ite | (refine kept_foldl ?_ (fun _ _ _ => ?_)) | (refine kept_foldl1 ?_ (fun _ _ _ => ?_)) | (refine kept_foldl2 ?_ (fun _ _ _ => ?_)) | dsimp only | (apply kept_mk; dsimp only; apply kept_un) | split

theorem State.bootImage_keeps {qq : List Instr} (s : State) (h_s : Kept qq s) :
    Kept qq (State.bootImage s) := by
  unfold State.bootImage
  dsimp -failIfUnchanged only
  repeat' with_reducible first | assumption | (intro _) | apply State.launch_keeps | apply State.bootCode_keeps | apply State.updSys_keeps | apply State.wr_keeps | apply kept_ite | dsimp only | (apply kept_mk; dsimp only; apply kept_un) | split

theorem State.bootRom_keeps {qq : List Instr} (s : State) (pass : Nat) (h_s : Kept qq s) :
    Kept qq (State.bootRom s pass) := by
  unfold State.bootRom
  dsimp -failIfUnchanged only
  repeat' with_reducible first | assumption | (intro _) | apply State.bootImage_keeps | apply State.bootCode_keeps | apply State.updSys_keeps | apply State.fuseLoad_keeps | apply State.pllLock_keeps | apply State.loadHuk_keeps | apply State.domOperational_keeps | apply State.selfTests_keeps | apply State.cupSpad_keeps | apply State.wb_keeps | apply State.wr_keeps | apply kept_ite | apply kept_ite1 | dsimp only | (apply kept_mk; dsimp only; apply kept_un) | split

theorem State.btpDrain_keeps {qq : List Instr} (s : State) (h_s : Kept qq s) :
    Kept qq (State.btpDrain s) := by
  unfold State.btpDrain
  dsimp -failIfUnchanged only
  repeat' with_reducible first | assumption | (intro _) | apply State.updSys_keeps | apply State.wr_keeps | apply kept_ite | dsimp only | (apply kept_mk; dsimp only; apply kept_un) | split

theorem State.commit_keeps {qq : List Instr} (s : State) (l : Listener) (k : Nat) (cert : List Byte) (model : List Byte) (serial : List Byte) (macs : List Byte) (h_s : Kept qq s) :
    Kept qq (State.commit s l k cert model serial macs) := by
  unfold State.commit
  dsimp -failIfUnchanged only
  repeat' with_reducible first | assumption | (apply kept_id; assumption) | (intro _) | apply State.answer_keeps | apply State.updSys_keeps | apply State.deviceReset_keeps | apply State.newVault_keeps | apply State.updDom_keeps | apply State.norStore_keeps | apply State.eraseWhole_keeps | apply State.updObj_keeps | apply State.rand_keeps | dsimp only | (apply kept_mk; dsimp only; apply kept_un)

theorem State.deferBegin_keeps {qq : List Instr} (s : State) (h_s : Kept qq s) :
    Kept qq (State.deferBegin s) := by
  unfold State.deferBegin
  dsimp -failIfUnchanged only
  repeat' with_reducible first | assumption | (intro _) | apply State.sysIrq_keeps | apply State.endCmd_keeps | apply State.updObj_keeps | apply State.wr_keeps | apply kept_ite | (refine kept_foldl ?_ (fun _ _ _ => ?_)) | (refine kept_foldl1 ?_ (fun _ _ _ => ?_)) | (refine kept_foldl2 ?_ (fun _ _ _ => ?_)) | dsimp only | (apply kept_mk; dsimp only; apply kept_un) | split

theorem State.deferredReset_keeps {qq : List Instr} (s : State) (h_s : Kept qq s) :
    Kept qq (State.deferredReset s) := by
  unfold State.deferredReset
  dsimp -failIfUnchanged only
  repeat' with_reducible first | assumption | (intro _) | apply State.deviceReset_keeps | apply State.recWrite_keeps | apply State.sessClose_keeps | apply State.dropObj_keeps | apply State.updObj_keeps | (refine kept_foldl ?_ (fun _ _ _ => ?_)) | (refine kept_foldl1 ?_ (fun _ _ _ => ?_)) | (refine kept_foldl2 ?_ (fun _ _ _ => ?_)) | dsimp only | (apply kept_mk; dsimp only; apply kept_un)

theorem State.frame_keeps {qq : List Instr} (s : State) (cmd : Nat) (crc : Nat) (payload : List Byte) (lenOk : Bool) (f : Listener → State) (h_s : Kept qq s) (h_f : ∀ (x0 : Listener), Kept qq (f x0)) :
    Kept qq (State.frame s cmd crc payload lenOk f) := by
  unfold State.frame
  dsimp -failIfUnchanged only
  repeat' with_reducible first | assumption | (intro _) | apply State.answer_keeps | apply h_f | apply kept_ite | dsimp only | (refine kept_pair (by assumption) ?_) | (refine kept_opt (by assumption) ?_) | (refine kept_opt1 (by assumption) ?_) | split

theorem State.hartRun_keeps {qq : List Instr} (s : State) (val : Word) (h_s : Kept qq s) :
    Kept qq (State.hartRun s val) := by
  unfold State.hartRun
  dsimp -failIfUnchanged only
  repeat' with_reducible first | assumption | apply State.wr_keeps | dsimp only

theorem State.rstReq_keeps {qq : List Instr} (s : State) (val : Word) (h_s : Kept qq s) :
    Kept qq (State.rstReq s val) := by
  unfold State.rstReq
  dsimp -failIfUnchanged only
  repeat' with_reducible first | assumption | apply State.deferredReset_keeps | apply State.deferBegin_keeps | apply State.deviceReset_keeps | apply kept_ite | dsimp only | split

theorem State.sysRefuse_keeps {qq : List Instr} (s : State) (h_s : Kept qq s) :
    Kept qq (State.sysRefuse s) := by
  unfold State.sysRefuse
  dsimp -failIfUnchanged only
  repeat' with_reducible first | assumption | apply State.sysIrq_keeps | dsimp only

theorem State.rvecWrite_keeps {qq : List Instr} (s : State) (h : Nat) (a : Nat) (val : Word) (h_s : Kept qq s) :
    Kept qq (State.rvecWrite s h a val) := by
  unfold State.rvecWrite
  dsimp -failIfUnchanged only
  repeat' with_reducible first | assumption | apply State.sysRefuse_keeps | apply State.storeRow_keeps | apply kept_ite | dsimp only | split

theorem State.setListener_keeps {qq : List Instr} (s : State) (l : Listener) (h_s : Kept qq s) :
    Kept qq (State.setListener s l) := by
  unfold State.setListener
  dsimp -failIfUnchanged only
  repeat' with_reducible first | assumption | (intro _) | apply State.updSys_keeps | dsimp only | (apply kept_mk; dsimp only; apply kept_un)

theorem State.tapLoad_keeps {qq : List Instr} (s : State) (code : Nat) (level : Nat) (dr : Nat) (balls : Nat) (f : SysState → SysState) (h_s : Kept qq s) :
    Kept qq (State.tapLoad s code level dr balls f) := by
  unfold State.tapLoad
  dsimp -failIfUnchanged only
  repeat' with_reducible first | assumption | (intro _) | apply State.updSys_keeps | apply kept_ite | dsimp only | (apply kept_mk; dsimp only; apply kept_un) | split

theorem State.testState_keeps {qq : List Instr} (s : State) (h_s : Kept qq s) :
    Kept qq (State.testState s) := by
  unfold State.testState
  dsimp -failIfUnchanged only
  repeat' with_reducible first | assumption | (intro _) | apply State.updSys_keeps | apply State.runStarved_keeps | apply State.updDom_keeps | dsimp only | (apply kept_mk; dsimp only; apply kept_un)

theorem State.wdtLoad_keeps {qq : List Instr} (s : State) (h_s : Kept qq s) :
    Kept qq (State.wdtLoad s) := by
  unfold State.wdtLoad
  dsimp -failIfUnchanged only
  repeat' with_reducible first | assumption | (intro _) | apply State.updSys_keeps | dsimp only | (apply kept_mk; dsimp only; apply kept_un)

theorem State.wdtCfg_keeps {qq : List Instr} (s : State) (val : Word) (h_s : Kept qq s) :
    Kept qq (State.wdtCfg s val) := by
  unfold State.wdtCfg
  dsimp -failIfUnchanged only
  repeat' with_reducible first | assumption | (intro _) | apply State.wdtLoad_keeps | apply State.wb_keeps | apply State.wr_keeps | apply kept_ite | dsimp only | split

theorem State.wdtKick_keeps {qq : List Instr} (s : State) (val : Word) (h_s : Kept qq s) :
    Kept qq (State.wdtKick s val) := by
  unfold State.wdtKick
  dsimp -failIfUnchanged only
  repeat' with_reducible first | assumption | apply State.wdtLoad_keeps | apply State.sysRefuse_keeps | apply State.wr_keeps | apply kept_ite | dsimp only | split

theorem State.zeroMem_keeps {q : List Instr} (s : State) (lo hi : Nat) (h_s : Kept q s) : Kept q (State.zeroMem s lo hi) :=
  ⟨h_s.1, memWf_filter _ _ h_s.2.1, h_s.2.2⟩

theorem State.zeroTraces_keeps {qq : List Instr} (s : State) (h_s : Kept qq s) :
    Kept qq (State.zeroTraces s) := by
  unfold State.zeroTraces
  dsimp -failIfUnchanged only
  repeat' with_reducible first | assumption | dsimp only | (apply kept_mk; dsimp only; apply kept_un)

theorem State.zeroStore_keeps {qq : List Instr} (s : State) (k : Nat) (h_s : Kept qq s) :
    Kept qq (State.zeroStore s k) := by
  unfold State.zeroStore
  dsimp -failIfUnchanged only
  repeat' with_reducible first | assumption | (apply kept_id; assumption) | (intro _) | apply State.zeroTraces_keeps | apply State.zeroMem_keeps | apply State.updDma_keeps | apply State.cupWalk_keeps | apply State.updAot_keeps | apply State.updChn_keeps | apply kept_next | apply kept_ite | apply kept_ite1 | apply kept_ite3 | (refine kept_foldl ?_ (fun _ _ _ => ?_)) | (refine kept_foldl1 ?_ (fun _ _ _ => ?_)) | (refine kept_foldl2 ?_ (fun _ _ _ => ?_)) | (intro _) | dsimp only | (refine kept_pair (by assumption) ?_) | (refine kept_opt (by assumption) ?_) | (refine kept_opt1 (by assumption) ?_) | apply optKept_some | apply optKept_none | apply optKept_ite | (apply kept_mk; dsimp only; apply kept_un) | split | (refine kept_len ?_ (by simp only [List.length_map]))

theorem State.zeroStores_keeps {qq : List Instr} (s : State) (m : Nat) (h_s : Kept qq s) :
    Kept qq (State.zeroStores s m) := by
  unfold State.zeroStores
  dsimp -failIfUnchanged only
  repeat' with_reducible first | assumption | (intro _) | apply State.zeroStore_keeps | apply kept_ite | (refine kept_foldl ?_ (fun _ _ _ => ?_)) | (refine kept_foldl1 ?_ (fun _ _ _ => ?_)) | (refine kept_foldl2 ?_ (fun _ _ _ => ?_)) | dsimp only | split

theorem execBistDone_keeps {qq : List Instr} (fails : Nat) (s : State) (h_s : Kept qq s) :
    Out.Kept qq (execBistDone fails s) := by
  unfold execBistDone
  dsimp -failIfUnchanged only
  repeat' with_reducible first | assumption | (intro _) | apply State.zeroStores_keeps | apply State.sysIrq_keeps | apply State.updSys_keeps | apply State.blockStart_keeps | apply State.updFwk_keeps | apply State.wr_keeps | apply kept_next | apply kept_ite3 | (refine kept_foldl ?_ (fun _ _ _ => ?_)) | (refine kept_foldl1 ?_ (fun _ _ _ => ?_)) | (refine kept_foldl2 ?_ (fun _ _ _ => ?_)) | dsimp only | (refine kept_pair (by assumption) ?_) | (refine kept_opt (by assumption) ?_) | (refine kept_opt1 (by assumption) ?_) | (apply kept_mk; dsimp only; apply kept_un) | split

theorem execBistGo_keeps {qq : List Instr} (val : Word) (s : State) (h_s : Kept qq s) :
    Out.Kept qq (execBistGo val s) := by
  unfold execBistGo
  dsimp -failIfUnchanged only
  repeat' with_reducible first | assumption | (intro _) | apply State.bistCmd_keeps | apply State.gated_keeps | apply kept_next | apply kept_ite3 | dsimp only

theorem execBypass_keeps {qq : List Instr} (s : State) (h_s : Kept qq s) :
    Out.Kept qq (execBypass s) := by
  unfold execBypass
  dsimp -failIfUnchanged only
  repeat' with_reducible first | assumption | (apply kept_id; assumption) | apply State.tapLoad_keeps | apply kept_next | apply kept_ite3 | dsimp only

theorem execClamp_keeps {qq : List Instr} (s : State) (h_s : Kept qq s) :
    Out.Kept qq (execClamp s) := by
  unfold execClamp
  dsimp -failIfUnchanged only
  repeat' with_reducible first | assumption | (apply kept_id; assumption) | apply State.tapLoad_keeps | apply kept_next | apply kept_ite3 | dsimp only

theorem execCommit_keeps {qq : List Instr} (crc : Nat) (payload : List Byte) (s : State) (h_s : Kept qq s) :
    Out.Kept qq (execCommit crc payload s) := by
  unfold execCommit
  dsimp -failIfUnchanged only
  repeat' with_reducible first | assumption | (intro _) | apply State.frame_keeps | apply State.commit_keeps | apply State.answer_keeps | apply kept_next | apply kept_ite3 | apply kept_ite | dsimp only | (refine kept_pair (by assumption) ?_) | (refine kept_opt (by assumption) ?_) | (refine kept_opt1 (by assumption) ?_) | split

theorem execDebug_keeps {qq : List Instr} (s : State) (h_s : Kept qq s) :
    Out.Kept qq (execDebug s) := by
  unfold execDebug
  dsimp -failIfUnchanged only
  repeat' with_reducible first | assumption | (apply kept_id; assumption) | apply State.tapLoad_keeps | apply kept_next | apply kept_ite3 | dsimp only

theorem execDeferTimeout_keeps {qq : List Instr} (s : State) (h_s : Kept qq s) :
    Out.Kept qq (execDeferTimeout s) := by
  unfold execDeferTimeout
  dsimp -failIfUnchanged only
  repeat' with_reducible first | assumption | apply State.deviceReset_keeps | apply kept_next | apply kept_ite3 | apply kept_ite | dsimp only | split

theorem execExtest_keeps {qq : List Instr} (loaded : List Bool) (s : State) (h_s : Kept qq s) :
    Out.Kept qq (execExtest loaded s) := by
  unfold execExtest
  dsimp -failIfUnchanged only
  repeat' with_reducible first | assumption | (intro _) | apply State.tapLoad_keeps | apply kept_next | apply kept_ite3 | dsimp only | (apply kept_mk; dsimp only; apply kept_un)

theorem execExtestPulse_keeps {qq : List Instr} (loaded : List Bool) (s : State) (h_s : Kept qq s) :
    Out.Kept qq (execExtestPulse loaded s) := by
  unfold execExtestPulse
  dsimp -failIfUnchanged only
  repeat' with_reducible first | assumption | (intro _) | apply State.tapLoad_keeps | apply kept_next | apply kept_ite3 | dsimp only | (apply kept_mk; dsimp only; apply kept_un)

theorem execExtestTrain_keeps {qq : List Instr} (loaded : List Bool) (s : State) (h_s : Kept qq s) :
    Out.Kept qq (execExtestTrain loaded s) := by
  unfold execExtestTrain
  dsimp -failIfUnchanged only
  repeat' with_reducible first | assumption | (intro _) | apply State.tapLoad_keeps | apply kept_next | apply kept_ite3 | dsimp only | (apply kept_mk; dsimp only; apply kept_un)

theorem execGenkey_keeps {qq : List Instr} (crc : Nat) (payload : List Byte) (s : State) (h_s : Kept qq s) :
    Out.Kept qq (execGenkey crc payload s) := by
  unfold execGenkey
  dsimp -failIfUnchanged only
  repeat' with_reducible first | assumption | (intro _) | apply State.setListener_keeps | apply State.frame_keeps | apply State.answer_keeps | apply State.rand_keeps | apply State.wr_keeps | apply kept_next | apply kept_ite3 | apply kept_ite | apply kept_ite1 | dsimp only | (apply kept_mk; dsimp only; apply kept_un) | split

theorem execHart12Start_keeps {qq : List Instr} (pass : Nat) (s : State) (h_s : Kept qq s) :
    Out.Kept qq (execHart12Start pass s) := by
  unfold execHart12Start
  dsimp -failIfUnchanged only
  repeat' with_reducible first | assumption | apply State.bootRom_keeps | apply kept_next | apply kept_ite3 | apply kept_ite | dsimp only | split

theorem execHartRun_keeps {qq : List Instr} (val : Word) (s : State) (h_s : Kept qq s) :
    Out.Kept qq (execHartRun val s) := by
  unfold execHartRun
  dsimp -failIfUnchanged only
  repeat' with_reducible first | assumption | (intro _) | apply State.hartRun_keeps | apply State.gated_keeps | apply kept_next | apply kept_ite3 | dsimp only

theorem execHighz_keeps {qq : List Instr} (s : State) (h_s : Kept qq s) :
    Out.Kept qq (execHighz s) := by
  unfold execHighz
  dsimp -failIfUnchanged only
  repeat' with_reducible first | assumption | (apply kept_id; assumption) | apply State.tapLoad_keeps | apply kept_next | apply kept_ite3 | dsimp only

theorem execId_keeps {qq : List Instr} (crc : Nat) (payload : List Byte) (s : State) (h_s : Kept qq s) :
    Out.Kept qq (execId crc payload s) := by
  unfold execId
  dsimp -failIfUnchanged only
  repeat' with_reducible first | assumption | (intro _) | apply State.frame_keeps | apply State.answer_keeps | apply kept_next | apply kept_ite3 | dsimp only

theorem execIdcode_keeps {qq : List Instr} (s : State) (h_s : Kept qq s) :
    Out.Kept qq (execIdcode s) := by
  unfold execIdcode
  dsimp -failIfUnchanged only
  repeat' with_reducible first | assumption | (apply kept_id; assumption) | apply State.tapLoad_keeps | apply kept_next | apply kept_ite3 | dsimp only

theorem execListenerTimeout_keeps {qq : List Instr} (s : State) (h_s : Kept qq s) :
    Out.Kept qq (execListenerTimeout s) := by
  unfold execListenerTimeout
  dsimp -failIfUnchanged only
  repeat' with_reducible first | assumption | (intro _) | apply State.bootImage_keeps | apply State.updSys_keeps | apply kept_next | apply kept_ite3 | apply kept_ite | dsimp only | (refine kept_pair (by assumption) ?_) | (refine kept_opt (by assumption) ?_) | (refine kept_opt1 (by assumption) ?_) | (apply kept_mk; dsimp only; apply kept_un) | split

theorem execLoadimg_keeps {qq : List Instr} (crc : Nat) (payload : List Byte) (s : State) (h_s : Kept qq s) :
    Out.Kept qq (execLoadimg crc payload s) := by
  unfold execLoadimg
  dsimp -failIfUnchanged only
  repeat' with_reducible first | assumption | (intro _) | apply State.frame_keeps | apply State.answer_keeps | apply State.slotStore_keeps | apply kept_next | apply kept_ite3 | apply kept_ite | dsimp only | split

theorem execMbist_keeps {qq : List Instr} (stores : Nat) (fails : Nat) (s : State) (h_s : Kept qq s) :
    Out.Kept qq (execMbist stores fails s) := by
  unfold execMbist
  dsimp -failIfUnchanged only
  repeat' with_reducible first | assumption | (apply kept_id; assumption) | apply State.zeroStores_keeps | apply State.testState_keeps | apply State.tapLoad_keeps | apply State.wr_keeps | apply kept_next | apply kept_ite3 | apply kept_ite | dsimp only | split

theorem execOverflow_keeps {qq : List Instr} (s : State) (h_s : Kept qq s) :
    Out.Kept qq (execOverflow s) := by
  unfold execOverflow
  dsimp -failIfUnchanged only
  repeat' with_reducible first | assumption | (intro _) | apply State.updSys_keeps | apply State.irq_keeps | apply State.wr_keeps | apply kept_next | apply kept_ite3 | apply kept_ite | dsimp only | (apply kept_mk; dsimp only; apply kept_un) | split

theorem execPowerOnReset_keeps {qq : List Instr} (fails : Nat) (failActive : Bool) (s : State) (h_s : Kept qq s) :
    Out.Kept qq (execPowerOnReset fails failActive s) := by
  unfold execPowerOnReset
  dsimp -failIfUnchanged only
  repeat' with_reducible first | assumption | apply State.powerOn_keeps | apply kept_next | apply kept_ite3 | dsimp only

theorem execPutanchor_keeps {qq : List Instr} (crc : Nat) (payload : List Byte) (s : State) (h_s : Kept qq s) :
    Out.Kept qq (execPutanchor crc payload s) := by
  unfold execPutanchor
  dsimp -failIfUnchanged only
  repeat' with_reducible first | assumption | (intro _) | apply State.setListener_keeps | apply State.frame_keeps | apply State.answer_keeps | apply kept_next | apply kept_ite3 | apply kept_ite | dsimp only | (apply kept_mk; dsimp only; apply kept_un) | split

theorem execPutcert_keeps {qq : List Instr} (crc : Nat) (payload : List Byte) (s : State) (h_s : Kept qq s) :
    Out.Kept qq (execPutcert crc payload s) := by
  unfold execPutcert
  dsimp -failIfUnchanged only
  repeat' with_reducible first | assumption | (intro _) | apply State.setListener_keeps | apply State.frame_keeps | apply State.answer_keeps | apply kept_next | apply kept_ite3 | apply kept_ite | dsimp only | (apply kept_mk; dsimp only; apply kept_un) | split

theorem execPutident_keeps {qq : List Instr} (crc : Nat) (payload : List Byte) (s : State) (h_s : Kept qq s) :
    Out.Kept qq (execPutident crc payload s) := by
  unfold execPutident
  dsimp -failIfUnchanged only
  repeat' with_reducible first | assumption | (intro _) | apply State.setListener_keeps | apply State.frame_keeps | apply State.answer_keeps | apply kept_next | apply kept_ite3 | apply kept_ite | dsimp only | (apply kept_mk; dsimp only; apply kept_un) | split

theorem execPutkey1_keeps {qq : List Instr} (crc : Nat) (payload : List Byte) (s : State) (h_s : Kept qq s) :
    Out.Kept qq (execPutkey1 crc payload s) := by
  unfold execPutkey1
  dsimp -failIfUnchanged only
  repeat' with_reducible first | assumption | (intro _) | apply State.setListener_keeps | apply State.frame_keeps | apply State.answer_keeps | apply kept_next | apply kept_ite3 | apply kept_ite | dsimp only | (refine kept_pair (by assumption) ?_) | (refine kept_opt (by assumption) ?_) | (refine kept_opt1 (by assumption) ?_) | (apply kept_mk; dsimp only; apply kept_un) | split

theorem execSamplePreload_keeps {qq : List Instr} (captured : List Bool) (loaded : List Bool) (s : State) (h_s : Kept qq s) :
    Out.Kept qq (execSamplePreload captured loaded s) := by
  unfold execSamplePreload
  dsimp -failIfUnchanged only
  repeat' with_reducible first | assumption | (intro _) | apply State.tapLoad_keeps | apply kept_next | apply kept_ite3 | dsimp only | (apply kept_mk; dsimp only; apply kept_un)

theorem execScan_keeps {qq : List Instr} (s : State) (h_s : Kept qq s) :
    Out.Kept qq (execScan s) := by
  unfold execScan
  dsimp -failIfUnchanged only
  repeat' with_reducible first | assumption | (apply kept_id; assumption) | apply State.testState_keeps | apply State.tapLoad_keeps | apply kept_next | apply kept_ite3 | apply kept_ite | dsimp only | split

theorem execSwDefer_keeps {qq : List Instr} (val : Word) (s : State) (h_s : Kept qq s) :
    Out.Kept qq (execSwDefer val s) := by
  unfold execSwDefer
  dsimp -failIfUnchanged only
  repeat' with_reducible first | assumption | (intro _) | apply State.rstReq_keeps | apply State.gated_keeps | apply kept_next | apply kept_ite3 | dsimp only

theorem execSwNow_keeps {qq : List Instr} (val : Word) (s : State) (h_s : Kept qq s) :
    Out.Kept qq (execSwNow val s) := by
  unfold execSwNow
  dsimp -failIfUnchanged only
  repeat' with_reducible first | assumption | (intro _) | apply State.rstReq_keeps | apply State.gated_keeps | apply kept_next | apply kept_ite3 | dsimp only

theorem execWatchdogExpiry_keeps {qq : List Instr} (s : State) (h_s : Kept qq s) :
    Out.Kept qq (execWatchdogExpiry s) := by
  unfold execWatchdogExpiry
  dsimp -failIfUnchanged only
  repeat' with_reducible first | assumption | apply State.wdtLoad_keeps | apply State.sysIrq_keeps | apply State.deviceReset_keeps | apply State.wr_keeps | apply kept_next | apply kept_ite3 | apply kept_ite | dsimp only | split

theorem execWdtKick_keeps {qq : List Instr} (val : Word) (s : State) (h_s : Kept qq s) :
    Out.Kept qq (execWdtKick val s) := by
  unfold execWdtKick
  dsimp -failIfUnchanged only
  repeat' with_reducible first | assumption | (intro _) | apply State.wdtKick_keeps | apply State.gated_keeps | apply kept_next | apply kept_ite3 | dsimp only

end Sys2Proof.Machine
end

