-- ==== Sys2Proof/Laws/KeepBus.lean ====
section
/-! SUPPORT. Each operation of Machine/Bus.lean leaves the register file and memory canonical and the queue as it is. -/

set_option linter.unusedTactic false
set_option linter.unreachableTactic false
set_option maxRecDepth 8000

namespace Sys2Proof.Machine

theorem Out.get_keeps {q : List Instr} (o : Out) (s : State) (h_o : Out.Kept q o) (h_s : Sys2Proof.Machine.Kept q s) :
    Sys2Proof.Machine.Kept q (Out.get o s) := by
  unfold Out.get
  split
  · exact h_o
  · exact h_s

theorem State.aclintWrite_keeps {qq : List Instr} (s : State) (off : Nat) (l : List Byte) (h_s : Kept qq s) :
    Kept qq (State.aclintWrite s off l) := by
  unfold State.aclintWrite
  dsimp -failIfUnchanged only
  repeat' with_reducible first | assumption | (intro _) | apply State.setByte_keeps | apply State.updFwk_keeps | apply kept_ite | apply kept_ite1 | (refine kept_foldl ?_ (fun _ _ _ => ?_)) | (refine kept_foldl1 ?_ (fun _ _ _ => ?_)) | (refine kept_foldl2 ?_ (fun _ _ _ => ?_)) | dsimp only | (apply kept_mk; dsimp only; apply kept_un) | split

theorem State.storeField_keeps {qq : List Instr} (s : State) (a : Nat) (port : Nat) (v : Word) (f : FldDesc) (h_s : Kept qq s) :
    Kept qq (State.storeField s a port v f) := by
  unfold State.storeField
  dsimp -failIfUnchanged only
  repeat' with_reducible first | assumption | (intro _) | apply State.wr_keeps | apply kept_ite | dsimp only | (refine kept_pair (by assumption) ?_) | (refine kept_opt (by assumption) ?_) | (refine kept_opt1 (by assumption) ?_) | split

theorem State.storePlain_keeps {qq : List Instr} (s : State) (a : Nat) (port : Nat) (v : Word) (h_s : Kept qq s) :
    Kept qq (State.storePlain s a port v) := by
  unfold State.storePlain
  dsimp -failIfUnchanged only
  repeat' with_reducible first | assumption | (intro _) | apply State.storeField_keeps | (refine kept_foldl ?_ (fun _ _ _ => ?_)) | (refine kept_foldl1 ?_ (fun _ _ _ => ?_)) | (refine kept_foldl2 ?_ (fun _ _ _ => ?_)) | dsimp only

theorem State.atbWrite_keeps {qq : List Instr} (s : State) (a : Nat) (port : Nat) (val : Word) (h_s : Kept qq s) :
    Kept qq (State.atbWrite s a port val) := by
  unfold State.atbWrite
  dsimp -failIfUnchanged only
  repeat' with_reducible first | assumption | (intro _) | apply State.storePlain_keeps | apply Out.get_keeps | apply execComparatorDisarm_keeps | apply execComparatorArm_keeps | apply execCmpTestFlush_keeps | apply execAtbSkewWrite_keeps | apply execAtbObsOffsetWrite_keeps | apply kept_ite | dsimp only | split

theorem State.mbxSet_keeps {qq : List Instr} (s : State) (val : Word) (h_s : Kept qq s) :
    Kept qq (State.mbxSet s val) := by
  unfold State.mbxSet
  dsimp -failIfUnchanged only
  repeat' with_reducible first | assumption | apply State.wr_keeps | dsimp only

theorem State.baseWrite_keeps {qq : List Instr} (s : State) (a : Nat) (port : Nat) (val : Word) (h_s : Kept qq s) :
    Kept qq (State.baseWrite s a port val) := by
  unfold State.baseWrite
  dsimp -failIfUnchanged only
  repeat' with_reducible first | assumption | apply State.mbxSet_keeps | apply State.storePlain_keeps | apply Out.get_keeps | apply State.wdtKick_keeps | apply State.wdtCfg_keeps | apply State.rvecWrite_keeps | apply State.rstReq_keeps | apply State.hartRun_keeps | apply State.bistCmd_keeps | apply State.pstateWrite_keeps | apply State.domReqWrite_keeps | apply State.cpuWrite_keeps | apply State.belCmd_keeps | apply State.avsWrite_keeps | apply execFlsCntClr_keeps | apply State.mscrubClear_keeps | apply State.bootWp_keeps | apply State.rlRate_keeps | apply State.rlCfg_keeps | apply State.evrSetup_keeps | apply State.evrPostWrite_keeps | apply State.evrCmd_keeps | apply State.drawn_keeps | apply State.activity_keeps | apply kept_ite | dsimp only | split

theorem State.engWrite_keeps {qq : List Instr} (s : State) (e : Eng) (a : Nat) (port : Nat) (val : Word) (h_s : Kept qq s) :
    Kept qq (State.engWrite s e a port val) := by
  unfold State.engWrite
  dsimp -failIfUnchanged only
  repeat' with_reducible first | assumption | (intro _) | apply State.storePlain_keeps | apply Out.get_keeps | apply execTraceForce_keeps | apply execTraceArm_keeps | apply execSlotEnWrite_keeps | apply execSlotCfgWrite_keeps | apply execProfPWrite_keeps | apply execProfGo_keeps | apply execFaultClr_keeps | apply execEngSwap_keeps | apply execEngCntClr_keeps | apply execCoefWrite_keeps | apply State.storeRow_keeps | apply kept_ite | dsimp only | split

theorem State.srvWrite_keeps {qq : List Instr} (s : State) (t : Tower) (a : Nat) (port : Nat) (val : Word) (h_s : Kept qq s) :
    Kept qq (State.srvWrite s t a port val) := by
  unfold State.srvWrite
  dsimp -failIfUnchanged only
  repeat' with_reducible first | assumption | (intro _) | apply State.storePlain_keeps | apply Out.get_keeps | apply execSrvTrackWrite_keeps | apply execSrvOffsetWrite_keeps | apply execSrvHeadWrite_keeps | apply State.srvCmd_keeps | apply State.srvIrq_keeps | apply kept_ite | dsimp only | split

theorem State.chnWrite_keeps {qq : List Instr} (s : State) (t : Tower) (a : Nat) (port : Nat) (val : Word) (h_s : Kept qq s) :
    Kept qq (State.chnWrite s t a port val) := by
  unfold State.chnWrite
  dsimp -failIfUnchanged only
  repeat' with_reducible first | assumption | (intro _) | apply State.storePlain_keeps | apply Out.get_keeps | apply execChnRpPush_keeps | apply execChnCoefWrite_keeps | apply execChnCntClr_keeps | apply State.pinWrite_keeps | apply kept_ite | dsimp only | split

theorem State.unlatch_keeps {qq : List Instr} (s : State) (a : Nat) (h_s : Kept qq s) :
    Kept qq (State.unlatch s a) := by
  unfold State.unlatch
  dsimp -failIfUnchanged only
  repeat' with_reducible first | assumption | (intro _) | apply State.updFwk_keeps | dsimp only | (apply kept_mk; dsimp only; apply kept_un)

theorem State.lanWrite_keeps {qq : List Instr} (s : State) (t : Tower) (a : Nat) (port : Nat) (val : Word) (h_s : Kept qq s) :
    Kept qq (State.lanWrite s t a port val) := by
  unfold State.lanWrite
  dsimp -failIfUnchanged only
  repeat' with_reducible first | assumption | (intro _) | apply State.unlatch_keeps | apply State.storePlain_keeps | apply State.ptabWrite_keeps | apply State.regate_keeps | apply State.lanAssist_keeps | apply State.irq_keeps | apply kept_ite | dsimp only | split

theorem State.sprWrite_keeps {qq : List Instr} (s : State) (cls : Nat) (a : Nat) (port : Nat) (val : Word) (h_s : Kept qq s) :
    Kept qq (State.sprWrite s cls a port val) := by
  unfold State.sprWrite
  dsimp -failIfUnchanged only
  repeat' with_reducible first | assumption | (intro _) | apply State.storePlain_keeps | apply State.sprForce_keeps | apply State.sprCmd_keeps | apply State.qPush_keeps | apply State.csWrite_keeps | apply State.updSpire_keeps | apply kept_ite | dsimp only | (refine kept_pair (by assumption) ?_) | (refine kept_opt (by assumption) ?_) | (refine kept_opt1 (by assumption) ?_) | (apply kept_mk; dsimp only; apply kept_un) | split

theorem State.dmaWrite_keeps {qq : List Instr} (s : State) (a : Nat) (port : Nat) (val : Word) (h_s : Kept qq s) :
    Kept qq (State.dmaWrite s a port val) := by
  unfold State.dmaWrite
  dsimp -failIfUnchanged only
  repeat' with_reducible first | assumption | (intro _) | apply State.storePlain_keeps | apply State.dmaSetup_keeps | apply State.dmaDoorbell_keeps | apply State.dmaCtl_keeps | apply kept_ite | dsimp only | split

theorem State.dataWrite_keeps {qq : List Instr} (s : State) (a : Nat) (port : Nat) (val : Word) (h_s : Kept qq s) :
    Kept qq (State.dataWrite s a port val) := by
  unfold State.dataWrite
  dsimp -failIfUnchanged only
  repeat' with_reducible first | assumption | apply State.storePlain_keeps | apply Out.get_keeps | apply State.kbWrite_keeps | apply State.domCmd_keeps | apply execCupCntClr_keeps | apply State.cupSpad_keeps | apply State.cupMaint_keeps | apply State.memPop_keeps | apply State.memCmd_keeps | apply State.memCfg_keeps | apply execEthCntClr_keeps | apply execAotCntClr_keeps | apply State.sessCtl_keeps | apply State.storeRow_keeps | apply State.drawn_keeps | apply kept_ite | dsimp only | split

theorem State.bodyWrite_keeps {qq : List Instr} (s : State) (a : Nat) (port : Nat) (val : Word) (h_s : Kept qq s) :
    Kept qq (State.bodyWrite s a port val) := by
  unfold State.bodyWrite
  dsimp -failIfUnchanged only
  repeat' with_reducible first | assumption | (intro _) | apply State.dataWrite_keeps | apply State.dmaWrite_keeps | apply State.sprWrite_keeps | apply State.lanWrite_keeps | apply State.chnWrite_keeps | apply State.srvWrite_keeps | apply State.engWrite_keeps | apply State.baseWrite_keeps | apply State.atbWrite_keeps | apply State.storePlain_keeps | apply Out.get_keeps | apply State.cplRegCmd_keeps | apply execSpnGateForceWrite_keeps | apply execSpnCfgWrite_keeps | apply State.syncCfg_keeps | apply kept_ite | dsimp only | split

theorem State.latchAt_keeps {qq : List Instr} (s : State) (a : Nat) (h_s : Kept qq s) :
    Kept qq (State.latchAt s a) := by
  unfold State.latchAt
  dsimp -failIfUnchanged only
  repeat' with_reducible first | assumption | (intro _) | apply State.updFwk_keeps | dsimp only | (apply kept_mk; dsimp only; apply kept_un)

theorem State.readEffect_keeps {qq : List Instr} (s : State) (a : Nat) (h_s : Kept qq s) :
    Kept qq (State.readEffect s a) := by
  unfold State.readEffect
  dsimp -failIfUnchanged only
  repeat' with_reducible first | assumption | (intro _) | apply State.latchAt_keeps | apply State.unlatch_keeps | apply State.csInc_keeps | apply State.chnCoefInc_keeps | apply State.coefInc_keeps | apply State.drawn_keeps | apply State.wr_keeps | apply kept_ite | dsimp only | split

theorem State.regRead_keeps {qq : List Instr} (s : State) (port : Nat) (a : Nat) (n : Nat) (h_s : Kept qq s) :
    Kept qq (State.regRead s port a n).1 := by
  unfold State.regRead
  dsimp -failIfUnchanged only
  repeat' with_reducible first | assumption | apply State.readEffect_keeps | apply kept_ite | apply kept_ite1 | dsimp only | split

theorem wordResp_keeps {qq : List Instr} (r : State × Word) (h_r : Kept qq r.1) :
    Kept qq (wordResp r).1 := by
  unfold wordResp
  dsimp -failIfUnchanged only
  repeat' with_reducible first | assumption | dsimp only | (apply kept_mk; dsimp only; apply kept_un)

theorem State.plicRead_keeps {qq : List Instr} (s : State) (off : Nat) (h_s : Kept qq s) :
    Kept qq (State.plicRead s off).1 := by
  unfold State.plicRead
  dsimp -failIfUnchanged only
  repeat' with_reducible first | assumption | (intro _) | apply State.updFwk_keeps | apply kept_ite | apply kept_ite1 | (refine kept_foldl ?_ (fun _ _ _ => ?_)) | (refine kept_foldl1 ?_ (fun _ _ _ => ?_)) | (refine kept_foldl2 ?_ (fun _ _ _ => ?_)) | dsimp only | (refine kept_pair (by assumption) ?_) | (refine kept_opt (by assumption) ?_) | (refine kept_opt1 (by assumption) ?_) | (apply kept_mk; dsimp only; apply kept_un) | split

theorem State.plicReadAt_keeps {qq : List Instr} (s : State) (a : Nat) (h_s : Kept qq s) :
    Kept qq (State.plicReadAt s a).1 := by
  unfold State.plicReadAt
  dsimp -failIfUnchanged only
  repeat' with_reducible first | assumption | apply State.plicRead_keeps | dsimp only

theorem State.ddrReads_keeps {q : List Instr} (s : State) (port a k : Nat) (n : Nat) (h_s : Kept q s) :
    Kept q (State.ddrReads s port a k n).1 := by
  induction n generalizing s a k with
  | zero => exact h_s
  | succ n ih =>
    unfold State.ddrReads
    dsimp only
    split
    · exact State.ddrReadOp_keeps _ _ _ _ h_s
    · exact ih _ _ _ (State.ddrReadOp_keeps _ _ _ _ h_s)

theorem State.busRead_keeps {qq : List Instr} (s : State) (port : Nat) (a : Nat) (n : Nat) (h_s : Kept qq s) :
    Kept qq (State.busRead s port a n).1 := by
  unfold State.busRead
  repeat' with_reducible first | assumption | (intro _) | apply State.ddrReads_keeps | apply State.plicReadAt_keeps | apply wordResp_keeps | apply State.regRead_keeps | apply State.flsReadOp_keeps | apply State.drawn_keeps | apply kept_ite | apply kept_ite1 | dsimp only | (apply kept_mk; dsimp only; apply kept_un) | split

theorem State.busWord_keeps {qq : List Instr} (s : State) (port : Nat) (a : Nat) (h_s : Kept qq s) :
    Kept qq (State.busWord s port a).1 := by
  unfold State.busWord
  dsimp -failIfUnchanged only
  repeat' with_reducible first | assumption | (intro _) | apply State.busRead_keeps | dsimp only

theorem State.keyWrite_keeps {qq : List Instr} (s : State) (b : Nat) (i : Nat) (p : Nat) (val : Word) (h_s : Kept qq s) :
    Kept qq (State.keyWrite s b i p val) := by
  unfold State.keyWrite
  dsimp -failIfUnchanged only
  repeat' with_reducible first | assumption | (intro _) | apply State.irq_keeps | apply State.updFwk_keeps | apply kept_ite | dsimp only | (apply kept_mk; dsimp only; apply kept_un) | split

theorem State.intForce_keeps {qq : List Instr} (s : State) (base : Nat) (val : Word) (h_s : Kept qq s) :
    Kept qq (State.intForce s base val) := by
  unfold State.intForce
  dsimp -failIfUnchanged only
  repeat' with_reducible first | assumption | apply State.setReg_keeps | dsimp only

theorem State.hdrWrite_keeps {qq : List Instr} (s : State) (a : Nat) (val : Word) (h_s : Kept qq s) :
    Kept qq (State.hdrWrite s a val) := by
  unfold State.hdrWrite
  dsimp -failIfUnchanged only
  repeat' with_reducible first | assumption | (intro _) | apply State.intForce_keeps | apply State.ctlWrite_keeps | apply State.setReg_keeps | apply kept_ite | dsimp only | split

theorem State.regWrite_keeps {qq : List Instr} (s : State) (port : Nat) (a : Nat) (val : Word) (h_s : Kept qq s) :
    Kept qq (State.regWrite s port a val) := by
  unfold State.regWrite
  dsimp -failIfUnchanged only
  repeat' with_reducible first | assumption | (intro _) | apply State.hdrWrite_keeps | apply State.keyWrite_keeps | apply State.bodyWrite_keeps | apply State.gated_keeps | apply kept_ite | dsimp only | split

theorem State.regStore_keeps {qq : List Instr} (s : State) (port : Nat) (a : Nat) (n : Nat) (val : Word) (h_s : Kept qq s) :
    Kept qq (State.regStore s port a n val).1 := by
  unfold State.regStore
  dsimp -failIfUnchanged only
  repeat' with_reducible first | assumption | apply State.regWrite_keeps | apply kept_ite | apply kept_ite1 | dsimp only | split

theorem State.plicWrite_keeps {qq : List Instr} (s : State) (off : Nat) (val : Word) (h_s : Kept qq s) :
    Kept qq (State.plicWrite s off val) := by
  unfold State.plicWrite
  dsimp -failIfUnchanged only
  repeat' with_reducible first | assumption | (intro _) | apply State.setWord_keeps | apply State.updFwk_keeps | apply kept_ite | dsimp only | (refine kept_pair (by assumption) ?_) | (refine kept_opt (by assumption) ?_) | (refine kept_opt1 (by assumption) ?_) | (apply kept_mk; dsimp only; apply kept_un) | split

theorem State.ddrStores_keeps {q : List Instr} (s : State) (port a : Nat) (l : List Byte) (n : Nat) (h_s : Kept q s) :
    Kept q (State.ddrStores s port a l n).1 := by
  induction n generalizing s a l with
  | zero => exact h_s
  | succ n ih =>
    unfold State.ddrStores
    dsimp only
    split
    · exact State.ddrStore_keeps _ _ _ _ h_s
    · exact ih _ _ _ (State.ddrStore_keeps _ _ _ _ h_s)

theorem State.busWrite_keeps {qq : List Instr} (s : State) (port : Nat) (a : Nat) (l : List Byte) (h_s : Kept qq s) :
    Kept qq (State.busWrite s port a l).1 := by
  unfold State.busWrite
  repeat' with_reducible first | assumption | (intro _) | apply State.ddrStores_keeps | apply State.plicWrite_keeps | apply State.regStore_keeps | apply State.aclintWrite_keeps | apply State.flsWriteOp_keeps | apply State.setBytes_keeps | apply State.drawn_keeps | apply kept_ite | apply kept_ite1 | dsimp only | split

theorem State.fixRead_keeps {q : List Instr} (s : State) (port a n : Nat) (h_s : Kept q s) : Kept q (State.fixRead s port a n).1 := by
  induction n generalizing s with
  | zero => exact h_s
  | succ n ih => exact ih _ (State.busRead_keeps _ _ _ _ h_s)

theorem State.fixWrite_keeps {q : List Instr} (s : State) (port a : Nat) (l : List Byte) (n : Nat) (h_s : Kept q s) :
    Kept q (State.fixWrite s port a l n).1 := by
  induction n generalizing s l with
  | zero => exact h_s
  | succ n ih =>
    unfold State.fixWrite
    dsimp only
    split
    · exact ih _ _ (State.busWrite_keeps _ _ _ _ h_s)
    · exact State.busWrite_keeps _ _ _ _ h_s

end Sys2Proof.Machine
end

