-- ==== Sys2Proof/Laws/KeepXfer.lean ====
section
/-! SUPPORT. Each operation of Machine/Xfer.lean leaves the register file and memory canonical and the queue as it is. -/

set_option linter.unusedTactic false
set_option linter.unreachableTactic false
set_option maxRecDepth 8000

namespace Sys2Proof.Machine

theorem State.respond_keeps {qq : List Instr} (s : State) (r : Resp) (h_s : Kept qq s) :
    Kept qq (State.respond s r) := by
  unfold State.respond
  dsimp -failIfUnchanged only
  repeat' with_reducible first | assumption | dsimp only | (apply kept_mk; dsimp only; apply kept_un)

theorem State.fillRead_keeps {qq : List Instr} (s : State) (x : CFill) (h_s : Kept qq s) :
    Kept qq (State.fillRead s x).1 := by
  unfold State.fillRead
  dsimp -failIfUnchanged only
  repeat' with_reducible first | assumption | apply State.busRead_keeps | dsimp only | (refine kept_pair (by assumption) ?_) | (refine kept_opt (by assumption) ?_) | (refine kept_opt1 (by assumption) ?_) | split

theorem State.fillsFirst_keeps {qq : List Instr} (s : State) (port : Nat) (h_s : Kept qq s) :
    Kept qq (State.fillsFirst s port) := by
  unfold State.fillsFirst
  dsimp -failIfUnchanged only
  repeat' with_reducible first | assumption | (intro _) | apply State.fillRead_keeps | apply State.updCup_keeps | apply kept_ite | apply kept_ite1 | (refine kept_foldl ?_ (fun _ _ _ => ?_)) | (refine kept_foldl1 ?_ (fun _ _ _ => ?_)) | (refine kept_foldl2 ?_ (fun _ _ _ => ?_)) | dsimp only | (apply kept_mk; dsimp only; apply kept_un) | split

theorem State.coreRead_keeps {qq : List Instr} (s : State) (core : Nat) (a : Nat) (n : Nat) (perr : Bool) (h_s : Kept qq s) :
    Kept qq (State.coreRead s core a n perr) := by
  unfold State.coreRead
  dsimp -failIfUnchanged only
  repeat' with_reducible first | assumption | (intro _) | apply State.fillsFirst_keeps | apply State.respond_keeps | apply State.busRead_keeps | apply State.l1Fill_keeps | apply State.cupLookup_keeps | apply kept_ite | apply kept_ite1 | dsimp only | (refine kept_pair (by assumption) ?_) | (refine kept_opt (by assumption) ?_) | (refine kept_opt1 (by assumption) ?_) | (apply kept_mk; dsimp only; apply kept_un) | split

theorem State.coreStore_keeps {qq : List Instr} (s : State) (core : Nat) (a : Nat) (l : List Byte) (h_s : Kept qq s) :
    Kept qq (State.coreStore s core a l) := by
  unfold State.coreStore
  dsimp -failIfUnchanged only
  repeat' with_reducible first | assumption | (intro _) | apply State.fillsFirst_keeps | apply State.respond_keeps | apply State.busWrite_keeps | apply State.l1Store_keeps | apply State.cupStoreHit_keeps | apply State.dropFills_keeps | apply State.dropLines_keeps | apply kept_ite | apply kept_ite1 | dsimp only | (apply kept_mk; dsimp only; apply kept_un) | split

theorem State.descRead_keeps {qq : List Instr} (s : State) (c : Nat) (h_s : Kept qq s) :
    Kept qq (State.descRead s c).1 := by
  unfold State.descRead
  dsimp -failIfUnchanged only
  repeat' with_reducible first | assumption | apply State.busRead_keeps | dsimp only | (refine kept_pair (by assumption) ?_) | (refine kept_opt (by assumption) ?_) | (refine kept_opt1 (by assumption) ?_) | split

theorem State.dmaBurstRead_keeps {qq : List Instr} (s : State) (c : Nat) (b : DmaBurst) (h_s : Kept qq s) :
    Kept qq (State.dmaBurstRead s c b).1 := by
  unfold State.dmaBurstRead
  dsimp -failIfUnchanged only
  repeat' with_reducible first | assumption | (intro _) | apply State.fixRead_keeps | apply State.busRead_keeps | apply kept_ite | apply kept_ite1 | dsimp only | (refine kept_pair (by assumption) ?_) | (refine kept_opt (by assumption) ?_) | (refine kept_opt1 (by assumption) ?_) | split

theorem State.dmaError_keeps {qq : List Instr} (s : State) (c : Nat) (h_s : Kept qq s) :
    Kept qq (State.dmaError s c) := by
  unfold State.dmaError
  dsimp -failIfUnchanged only
  repeat' with_reducible first | assumption | (intro _) | apply State.dmaIrq_keeps | apply State.setCst_keeps | apply State.updCh_keeps | apply State.wr_keeps | dsimp only

theorem State.dmaGoOn_keeps {qq : List Instr} (s : State) (c : Nat) (l : List Word) (h_s : Kept qq s) :
    Kept qq (State.dmaGoOn s c l) := by
  unfold State.dmaGoOn
  dsimp -failIfUnchanged only
  repeat' with_reducible first | assumption | apply State.setDescAddr_keeps | apply State.dmaSettle_keeps | apply State.dmaFetch_keeps | dsimp only

theorem State.dmaHalf_keeps {qq : List Instr} (s : State) (c : Nat) (h_s : Kept qq s) :
    Kept qq (State.dmaHalf s c) := by
  unfold State.dmaHalf
  dsimp -failIfUnchanged only
  repeat' with_reducible first | assumption | (intro _) | apply State.updCh_keeps | apply State.wr_keeps | apply kept_ite | dsimp only | (apply kept_mk; dsimp only; apply kept_un) | split

theorem State.dmaNext_keeps {qq : List Instr} (s : State) (c : Nat) (h_s : Kept qq s) :
    Kept qq (State.dmaNext s c) := by
  unfold State.dmaNext
  dsimp -failIfUnchanged only
  repeat' with_reducible first | assumption | apply State.dmaSettle_keeps | apply State.dmaEnd_keeps | apply State.parkCheck_keeps | dsimp only

theorem State.dmaStore_keeps {qq : List Instr} (s : State) (c : Nat) (b : DmaBurst) (d : List Byte) (h_s : Kept qq s) :
    Kept qq (State.dmaStore s c b d).1 := by
  unfold State.dmaStore
  dsimp -failIfUnchanged only
  repeat' with_reducible first | assumption | (intro _) | apply State.fixWrite_keeps | apply State.busWrite_keeps | apply kept_ite | apply kept_ite1 | dsimp only | split

theorem State.readsFirst_keeps {qq : List Instr} (s : State) (h_s : Kept qq s) :
    Kept qq (State.readsFirst s) := by
  unfold State.readsFirst
  dsimp -failIfUnchanged only
  repeat' with_reducible first | assumption | (intro _) | apply State.dmaBurstRead_keeps | apply State.descRead_keeps | apply State.updCh_keeps | apply kept_ite | apply kept_ite1 | (refine kept_foldl ?_ (fun _ _ _ => ?_)) | (refine kept_foldl1 ?_ (fun _ _ _ => ?_)) | (refine kept_foldl2 ?_ (fun _ _ _ => ?_)) | dsimp only | (apply kept_mk; dsimp only; apply kept_un) | split

theorem State.setBurst_keeps {qq : List Instr} (s : State) (c : Nat) (b : DmaBurst) (b' : DmaBurst) (h_s : Kept qq s) :
    Kept qq (State.setBurst s c b b') := by
  unfold State.setBurst
  dsimp -failIfUnchanged only
  repeat' with_reducible first | assumption | (intro _) | apply State.updCh_keeps | apply kept_ite | dsimp only | (apply kept_mk; dsimp only; apply kept_un) | split

theorem execCupolaFillDone_keeps {qq : List Instr} (line : Nat) (s : State) (h_s : Kept qq s) :
    Out.Kept qq (execCupolaFillDone line s) := by
  unfold execCupolaFillDone
  dsimp -failIfUnchanged only
  repeat' with_reducible first | assumption | (intro _) | apply State.fillRead_keeps | apply State.respond_keeps | apply State.l1Fill_keeps | apply State.fillReturn_keeps | apply kept_next | apply kept_ite3 | apply kept_ite | apply kept_ite1 | dsimp only | (refine kept_pair (by assumption) ?_) | (refine kept_opt (by assumption) ?_) | (refine kept_opt1 (by assumption) ?_) | split

theorem execCupolaRead_keeps {qq : List Instr} (core : Nat) (addr : Nat) (n : Nat) (perr : Bool) (s : State) (h_s : Kept qq s) :
    Out.Kept qq (execCupolaRead core addr n perr s) := by
  unfold execCupolaRead
  dsimp -failIfUnchanged only
  repeat' with_reducible first | assumption | apply State.coreRead_keeps | apply kept_next | apply kept_ite3 | apply kept_ite | dsimp only | split

theorem execCupolaStore_keeps {qq : List Instr} (core : Nat) (addr : Nat) (bytes : List Byte) (s : State) (h_s : Kept qq s) :
    Out.Kept qq (execCupolaStore core addr bytes s) := by
  unfold execCupolaStore
  dsimp -failIfUnchanged only
  repeat' with_reducible first | assumption | apply State.coreStore_keeps | apply kept_next | apply kept_ite3 | apply kept_ite | dsimp only | split

theorem execDescFetched_keeps {qq : List Instr} (c : Nat) (s : State) (h_s : Kept qq s) :
    Out.Kept qq (execDescFetched c s) := by
  unfold execDescFetched
  dsimp -failIfUnchanged only
  repeat' with_reducible first | assumption | (intro _) | apply State.dmaNext_keeps | apply State.dmaError_keeps | apply State.descRead_keeps | apply State.dmaSettle_keeps | apply State.setCst_keeps | apply State.updCh_keeps | apply kept_next | apply kept_ite3 | apply kept_ite | apply kept_ite1 | dsimp only | (apply kept_mk; dsimp only; apply kept_un) | split

theorem execDescRereadDone_keeps {qq : List Instr} (c : Nat) (s : State) (h_s : Kept qq s) :
    Out.Kept qq (execDescRereadDone c s) := by
  unfold execDescRereadDone
  dsimp -failIfUnchanged only
  repeat' with_reducible first | assumption | (intro _) | apply State.dmaGoOn_keeps | apply State.dmaError_keeps | apply State.descRead_keeps | apply State.dmaSettle_keeps | apply State.setCst_keeps | apply State.updCh_keeps | apply State.wr_keeps | apply kept_next | apply kept_ite3 | apply kept_ite | apply kept_ite1 | dsimp only | (apply kept_mk; dsimp only; apply kept_un) | split

theorem execDmaReadDone_keeps {qq : List Instr} (c : Nat) (s : State) (h_s : Kept qq s) :
    Out.Kept qq (execDmaReadDone c s) := by
  unfold execDmaReadDone
  dsimp -failIfUnchanged only
  repeat' with_reducible first | assumption | (intro _) | apply State.setBurst_keeps | apply State.readsFirst_keeps | apply State.dmaStore_keeps | apply State.dmaNext_keeps | apply State.dmaBurstRead_keeps | apply State.updCh_keeps | apply kept_next | apply kept_ite3 | apply kept_ite | apply kept_ite1 | dsimp only | (refine kept_pair (by assumption) ?_) | (refine kept_opt (by assumption) ?_) | (refine kept_opt1 (by assumption) ?_) | (apply kept_mk; dsimp only; apply kept_un) | split

theorem execDmaWriteDone_keeps {qq : List Instr} (c : Nat) (s : State) (h_s : Kept qq s) :
    Out.Kept qq (execDmaWriteDone c s) := by
  unfold execDmaWriteDone
  dsimp -failIfUnchanged only
  repeat' with_reducible first | assumption | (intro _) | apply State.dmaNext_keeps | apply State.dmaHalf_keeps | apply State.updCh_keeps | apply kept_next | apply kept_ite3 | apply kept_ite | dsimp only | (refine kept_pair (by assumption) ?_) | (refine kept_opt (by assumption) ?_) | (refine kept_opt1 (by assumption) ?_) | (apply kept_mk; dsimp only; apply kept_un) | split

theorem execDmaWritebackDone_keeps {qq : List Instr} (c : Nat) (s : State) (h_s : Kept qq s) :
    Out.Kept qq (execDmaWritebackDone c s) := by
  unfold execDmaWritebackDone
  dsimp -failIfUnchanged only
  repeat' with_reducible first | assumption | (intro _) | apply State.readsFirst_keeps | apply State.dmaGoOn_keeps | apply State.dmaError_keeps | apply State.busWrite_keeps | apply State.dmaSettle_keeps | apply State.parkCheck_keeps | apply State.updCh_keeps | apply State.bump_keeps | apply State.wr_keeps | apply kept_next | apply kept_ite3 | apply kept_ite | apply kept_ite1 | dsimp only | (refine kept_pair (by assumption) ?_) | (refine kept_opt (by assumption) ?_) | (refine kept_opt1 (by assumption) ?_) | (apply kept_mk; dsimp only; apply kept_un) | split

theorem execPrefetchFill_keeps {qq : List Instr} (line : Nat) (s : State) (h_s : Kept qq s) :
    Out.Kept qq (execPrefetchFill line s) := by
  unfold execPrefetchFill
  dsimp -failIfUnchanged only
  repeat' with_reducible first | assumption | (intro _) | apply State.fillRead_keeps | apply State.fillReturn_keeps | apply kept_next | apply kept_ite3 | apply kept_ite | apply kept_ite1 | dsimp only | (refine kept_pair (by assumption) ?_) | (refine kept_opt (by assumption) ?_) | (refine kept_opt1 (by assumption) ?_) | split

end Sys2Proof.Machine
end

