-- ==== Sys2Proof/Laws/KeepSprExec.lean ====
section
/-! SUPPORT. Each operation of Machine/SprExec.lean leaves the register file and memory canonical and the queue as it is. -/

set_option linter.unusedTactic false
set_option linter.unreachableTactic false
set_option maxRecDepth 8000

namespace Sys2Proof.Machine

theorem State.setPc_keeps {qq : List Instr} (s : State) (sp : Spire) (n : Nat) (h_s : Kept qq s) :
    Kept qq (State.setPc s sp n) := by
  unfold State.setPc
  dsimp -failIfUnchanged only
  repeat' with_reducible first | assumption | (intro _) | apply State.updSpire_keeps | dsimp only | (apply kept_mk; dsimp only; apply kept_un)

theorem State.adv_keeps {qq : List Instr} (s : State) (sp : Spire) (h_s : Kept qq s) :
    Kept qq (State.adv s sp) := by
  unfold State.adv
  dsimp -failIfUnchanged only
  repeat' with_reducible first | assumption | apply State.setPc_keeps | dsimp only

theorem State.aluDo_keeps {qq : List Instr} (s : State) (sp : Spire) (fn : Nat) (rd : Nat) (a : Nat) (b : Nat) (h_s : Kept qq s) :
    Kept qq (State.aluDo s sp fn rd a b) := by
  unfold State.aluDo
  dsimp -failIfUnchanged only
  repeat' with_reducible first | assumption | (intro _) | apply State.adv_keeps | apply State.setW_keeps | apply State.updSpire_keeps | apply kept_ite | apply kept_ite1 | dsimp only | (apply kept_mk; dsimp only; apply kept_un) | split

theorem State.armDo_keeps {qq : List Instr} (s : State) (sp : Spire) (c : Nat) (tgt : Nat) (act : Nat) (rep : Nat) (epoch : Nat) (h_s : Kept qq s) :
    Kept qq (State.armDo s sp c tgt act rep epoch).1 := by
  unfold State.armDo
  dsimp -failIfUnchanged only
  repeat' with_reducible first | assumption | (intro _) | apply State.cmpCtlStore_keeps | apply State.cmpArm_keeps | apply State.wr_keeps | apply kept_ite | apply kept_ite1 | dsimp only | split

theorem State.busCheck_keeps {qq : List Instr} (s : State) (sp : Spire) (pc : Nat) (h_s : Kept qq s) :
    Kept qq (State.busCheck s sp pc) := by
  unfold State.busCheck
  dsimp -failIfUnchanged only
  repeat' with_reducible first | assumption | apply State.setPc_keeps | apply State.machineCheck_keeps | dsimp only

theorem State.clsEnd_keeps {qq : List Instr} (s : State) (sp : Spire) (refused : Bool) (h_s : Kept qq s) :
    Kept qq (State.clsEnd s sp refused) := by
  unfold State.clsEnd
  dsimp -failIfUnchanged only
  repeat' with_reducible first | assumption | (intro _) | apply State.adv_keeps | apply State.updSpire_keeps | dsimp only | (apply kept_mk; dsimp only; apply kept_un)

theorem State.clsRes_keeps {qq : List Instr} (s : State) (sp : Spire) (rd : Nat) (v : Option Nat) (h_s : Kept qq s) :
    Kept qq (State.clsRes s sp rd v) := by
  unfold State.clsRes
  dsimp -failIfUnchanged only
  repeat' with_reducible first | assumption | apply State.clsEnd_keeps | apply State.setW_keeps | dsimp only | (refine kept_pair (by assumption) ?_) | (refine kept_opt (by assumption) ?_) | (refine kept_opt1 (by assumption) ?_) | split

theorem State.fetchDo_keeps {qq : List Instr} (s : State) (sp : Spire) (f : State → State) (h_s : Kept qq s) (h_f : ∀ (x0 : State), Kept qq x0 → Kept qq (f x0)) :
    Kept qq (State.fetchDo s sp f) := by
  unfold State.fetchDo
  dsimp -failIfUnchanged only
  repeat' with_reducible first | assumption | (intro _) | apply State.machineCheck_keeps | apply h_f | apply kept_ite | dsimp only | split

theorem State.opALU_keeps {qq : List Instr} (s : State) (sp : Spire) (w : Nat) (h_s : Kept qq s) :
    Kept qq (State.opALU s sp w) := by
  unfold State.opALU
  dsimp -failIfUnchanged only
  repeat' with_reducible first | assumption | apply State.aluDo_keeps | dsimp only

theorem State.opALUI_keeps {qq : List Instr} (s : State) (sp : Spire) (w : Nat) (h_s : Kept qq s) :
    Kept qq (State.opALUI s sp w) := by
  unfold State.opALUI
  dsimp -failIfUnchanged only
  repeat' with_reducible first | assumption | apply State.aluDo_keeps | dsimp only

theorem State.opLDI_keeps {qq : List Instr} (s : State) (sp : Spire) (w : Nat) (h_s : Kept qq s) :
    Kept qq (State.opLDI s sp w) := by
  unfold State.opLDI
  dsimp -failIfUnchanged only
  repeat' with_reducible first | assumption | apply State.adv_keeps | apply State.setW_keeps | dsimp only

theorem State.opLUI_keeps {qq : List Instr} (s : State) (sp : Spire) (w : Nat) (h_s : Kept qq s) :
    Kept qq (State.opLUI s sp w) := by
  unfold State.opLUI
  dsimp -failIfUnchanged only
  repeat' with_reducible first | assumption | apply State.adv_keeps | apply State.setW_keeps | dsimp only

theorem State.jump_keeps {qq : List Instr} (s : State) (sp : Spire) (n : Nat) (h_s : Kept qq s) :
    Kept qq (State.jump s sp n) := by
  unfold State.jump
  dsimp -failIfUnchanged only
  repeat' with_reducible first | assumption | apply State.setPc_keeps | apply State.flow_keeps | dsimp only

theorem State.opBR_keeps {qq : List Instr} (s : State) (sp : Spire) (w : Nat) (h_s : Kept qq s) :
    Kept qq (State.opBR s sp w) := by
  unfold State.opBR
  dsimp -failIfUnchanged only
  repeat' with_reducible first | assumption | (intro _) | apply State.jump_keeps | apply State.adv_keeps | apply State.updSpire_keeps | apply kept_ite | dsimp only | split

theorem State.opCBR_keeps {qq : List Instr} (s : State) (sp : Spire) (w : Nat) (h_s : Kept qq s) :
    Kept qq (State.opCBR s sp w) := by
  unfold State.opCBR
  dsimp -failIfUnchanged only
  repeat' with_reducible first | assumption | apply State.jump_keeps | apply State.adv_keeps | apply kept_ite | dsimp only | split

theorem State.opCALL_keeps {qq : List Instr} (s : State) (sp : Spire) (w : Nat) (h_s : Kept qq s) :
    Kept qq (State.opCALL s sp w) := by
  unfold State.opCALL
  dsimp -failIfUnchanged only
  repeat' with_reducible first | assumption | (intro _) | apply State.jump_keeps | apply State.machineCheck_keeps | apply State.updSpire_keeps | apply kept_ite | dsimp only | (apply kept_mk; dsimp only; apply kept_un) | split

theorem State.opNOP_keeps {qq : List Instr} (s : State) (sp : Spire) (_w : Nat) (h_s : Kept qq s) :
    Kept qq (State.opNOP s sp _w) := by
  unfold State.opNOP
  dsimp -failIfUnchanged only
  repeat' with_reducible first | assumption | apply State.adv_keeps | dsimp only

theorem State.opRET_keeps {qq : List Instr} (s : State) (sp : Spire) (_w : Nat) (h_s : Kept qq s) :
    Kept qq (State.opRET s sp _w) := by
  unfold State.opRET
  dsimp -failIfUnchanged only
  repeat' with_reducible first | assumption | (intro _) | apply State.jump_keeps | apply State.machineCheck_keeps | apply State.updSpire_keeps | dsimp only | (refine kept_pair (by assumption) ?_) | (refine kept_opt (by assumption) ?_) | (refine kept_opt1 (by assumption) ?_) | (apply kept_mk; dsimp only; apply kept_un) | split

theorem State.opHALT_keeps {qq : List Instr} (s : State) (sp : Spire) (_w : Nat) (h_s : Kept qq s) :
    Kept qq (State.opHALT s sp _w) := by
  unfold State.opHALT
  dsimp -failIfUnchanged only
  repeat' with_reducible first | assumption | apply State.adv_keeps | apply State.sprLeave_keeps | dsimp only

theorem State.opFENCE_keeps {qq : List Instr} (s : State) (sp : Spire) (_w : Nat) (h_s : Kept qq s) :
    Kept qq (State.opFENCE s sp _w) := by
  unfold State.opFENCE
  dsimp -failIfUnchanged only
  repeat' with_reducible first | assumption | apply State.adv_keeps | dsimp only

theorem State.opLD_keeps {qq : List Instr} (s : State) (sp : Spire) (w : Nat) (h_s : Kept qq s) :
    Kept qq (State.opLD s sp w) := by
  unfold State.opLD
  dsimp -failIfUnchanged only
  repeat' with_reducible first | assumption | (intro _) | apply State.busCheck_keeps | apply State.adv_keeps | apply State.busWord_keeps | apply State.setW_keeps | apply kept_ite | apply kept_ite1 | dsimp only | split

theorem State.opST_keeps {qq : List Instr} (s : State) (sp : Spire) (w : Nat) (h_s : Kept qq s) :
    Kept qq (State.opST s sp w) := by
  unfold State.opST
  dsimp -failIfUnchanged only
  repeat' with_reducible first | assumption | (intro _) | apply State.busCheck_keeps | apply State.adv_keeps | apply State.busWrite_keeps | apply kept_ite | apply kept_ite1 | dsimp only | split

theorem State.opGETANG_keeps {qq : List Instr} (s : State) (sp : Spire) (w : Nat) (h_s : Kept qq s) :
    Kept qq (State.opGETANG s sp w) := by
  unfold State.opGETANG
  dsimp -failIfUnchanged only
  repeat' with_reducible first | assumption | (intro _) | apply State.adv_keeps | apply State.setW_keeps | apply State.updSpire_keeps | dsimp only | (apply kept_mk; dsimp only; apply kept_un)

theorem State.opARM_keeps {qq : List Instr} (s : State) (sp : Spire) (w : Nat) (h_s : Kept qq s) :
    Kept qq (State.opARM s sp w) := by
  unfold State.opARM
  dsimp -failIfUnchanged only
  repeat' with_reducible first | assumption | (intro _) | apply State.clsEnd_keeps | apply State.armDo_keeps | dsimp only

theorem State.tryWait_keeps {qq : List Instr} (s : State) (sp : Spire) (x : SprWait) (h_s : Kept qq s) :
    OptKept qq (State.tryWait s sp x) := by
  unfold State.tryWait
  dsimp -failIfUnchanged only
  repeat' with_reducible first | assumption | (intro _) | apply State.clsEnd_keeps | apply State.adv_keeps | apply State.setW_keeps | apply State.pop_keeps | apply State.updSpire_keeps | apply kept_ite | apply kept_ite1 | dsimp only | (refine kept_pair (by assumption) ?_) | (refine kept_opt (by assumption) ?_) | (refine kept_opt1 (by assumption) ?_) | apply optKept_some | apply optKept_none | apply optKept_ite | (apply kept_mk; dsimp only; apply kept_un) | split

theorem State.syncReach_keeps {qq : List Instr} (s : State) (sp : Spire) (h_s : Kept qq s) :
    Kept qq (State.syncReach s sp) := by
  unfold State.syncReach
  dsimp -failIfUnchanged only
  repeat' with_reducible first | assumption | (intro _) | apply State.updSpire_keeps | apply kept_ite | (refine kept_foldl ?_ (fun _ _ _ => ?_)) | (refine kept_foldl1 ?_ (fun _ _ _ => ?_)) | (refine kept_foldl2 ?_ (fun _ _ _ => ?_)) | dsimp only | (apply kept_mk; dsimp only; apply kept_un) | split

theorem State.waitSide_keeps {qq : List Instr} (s : State) (sp : Spire) (x : SprWait) (h_s : Kept qq s) :
    Kept qq (State.waitSide s sp x) := by
  unfold State.waitSide
  dsimp -failIfUnchanged only
  repeat' with_reducible first | assumption | apply State.syncReach_keeps | apply State.pop_keeps | dsimp only | (refine kept_pair (by assumption) ?_) | (refine kept_opt (by assumption) ?_) | (refine kept_opt1 (by assumption) ?_) | split

theorem State.waitOn_keeps {qq : List Instr} (s : State) (sp : Spire) (x : SprWait) (h_s : Kept qq s) :
    Kept qq (State.waitOn s sp x) := by
  unfold State.waitOn
  dsimp -failIfUnchanged only
  repeat' with_reducible first | assumption | (apply kept_id; assumption) | (intro _) | apply State.waitSide_keeps | apply State.tryWait_keeps | apply State.updSpire_keeps | apply kept_next | apply kept_ite | apply kept_ite1 | apply kept_ite3 | (refine kept_foldl ?_ (fun _ _ _ => ?_)) | (refine kept_foldl1 ?_ (fun _ _ _ => ?_)) | (refine kept_foldl2 ?_ (fun _ _ _ => ?_)) | (intro _) | dsimp only | (refine kept_pair (by assumption) ?_) | (refine kept_opt (by assumption) ?_) | (refine kept_opt1 (by assumption) ?_) | apply optKept_some | apply optKept_none | apply optKept_ite | (apply kept_mk; dsimp only; apply kept_un) | split

theorem State.opWAITC_keeps {qq : List Instr} (s : State) (sp : Spire) (w : Nat) (h_s : Kept qq s) :
    Kept qq (State.opWAITC s sp w) := by
  unfold State.opWAITC
  dsimp -failIfUnchanged only
  repeat' with_reducible first | assumption | apply State.waitOn_keeps | dsimp only

theorem State.opDISARM_keeps {qq : List Instr} (s : State) (sp : Spire) (w : Nat) (h_s : Kept qq s) :
    Kept qq (State.opDISARM s sp w) := by
  unfold State.opDISARM
  dsimp -failIfUnchanged only
  repeat' with_reducible first | assumption | (intro _) | apply State.adv_keeps | apply State.cmpDisarm_keeps | dsimp only

theorem State.opLOADZ_keeps {qq : List Instr} (s : State) (sp : Spire) (w : Nat) (h_s : Kept qq s) :
    Kept qq (State.opLOADZ s sp w) := by
  unfold State.opLOADZ
  dsimp -failIfUnchanged only
  repeat' with_reducible first | assumption | (intro _) | apply State.clsEnd_keeps | apply State.updSpire_keeps | dsimp only | (refine kept_pair (by assumption) ?_) | (refine kept_opt (by assumption) ?_) | (refine kept_opt1 (by assumption) ?_) | (apply kept_mk; dsimp only; apply kept_un) | split

theorem State.opANCHOR_keeps {qq : List Instr} (s : State) (sp : Spire) (w : Nat) (h_s : Kept qq s) :
    Kept qq (State.opANCHOR s sp w) := by
  unfold State.opANCHOR
  dsimp -failIfUnchanged only
  repeat' with_reducible first | assumption | (intro _) | apply State.clsEnd_keeps | apply State.updSpire_keeps | dsimp only | (apply kept_mk; dsimp only; apply kept_un)

theorem State.planDo_keeps {qq : List Instr} (s : State) (sp : Spire) (write : Bool) (rd : Nat) (ra : Nat) (rb : Nat) (h_s : Kept qq s) :
    Kept qq (State.planDo s sp write rd ra rb) := by
  unfold State.planDo
  dsimp -failIfUnchanged only
  repeat' with_reducible first | assumption | (intro _) | apply State.clsRes_keeps | apply State.clsEnd_keeps | apply State.updSpire_keeps | dsimp only | (refine kept_pair (by assumption) ?_) | (refine kept_opt (by assumption) ?_) | (refine kept_opt1 (by assumption) ?_) | (apply kept_mk; dsimp only; apply kept_un) | split

theorem State.opRPLAN_keeps {qq : List Instr} (s : State) (sp : Spire) (w : Nat) (h_s : Kept qq s) :
    Kept qq (State.opRPLAN s sp w) := by
  unfold State.opRPLAN
  dsimp -failIfUnchanged only
  repeat' with_reducible first | assumption | apply State.planDo_keeps | dsimp only

theorem State.opWPLAN_keeps {qq : List Instr} (s : State) (sp : Spire) (w : Nat) (h_s : Kept qq s) :
    Kept qq (State.opWPLAN s sp w) := by
  unfold State.opWPLAN
  dsimp -failIfUnchanged only
  repeat' with_reducible first | assumption | apply State.planDo_keeps | dsimp only

theorem State.opWGET_keeps {qq : List Instr} (s : State) (sp : Spire) (w : Nat) (h_s : Kept qq s) :
    Kept qq (State.opWGET s sp w) := by
  unfold State.opWGET
  dsimp -failIfUnchanged only
  repeat' with_reducible first | assumption | apply State.clsRes_keeps | dsimp only

theorem State.opCAPTR_keeps {qq : List Instr} (s : State) (sp : Spire) (w : Nat) (h_s : Kept qq s) :
    Kept qq (State.opCAPTR s sp w) := by
  unfold State.opCAPTR
  dsimp -failIfUnchanged only
  repeat' with_reducible first | assumption | apply State.clsEnd_keeps | apply State.captr_keeps | apply kept_ite | dsimp only | (refine kept_pair (by assumption) ?_) | (refine kept_opt (by assumption) ?_) | (refine kept_opt1 (by assumption) ?_) | split

theorem State.opOUTC_keeps {qq : List Instr} (s : State) (sp : Spire) (w : Nat) (h_s : Kept qq s) :
    Kept qq (State.opOUTC s sp w) := by
  unfold State.opOUTC
  dsimp -failIfUnchanged only
  repeat' with_reducible first | assumption | apply State.waitOn_keeps | dsimp only

theorem State.opEMITR_keeps {qq : List Instr} (s : State) (sp : Spire) (w : Nat) (h_s : Kept qq s) :
    Kept qq (State.opEMITR s sp w) := by
  unfold State.opEMITR
  dsimp -failIfUnchanged only
  repeat' with_reducible first | assumption | apply State.clsEnd_keeps | apply State.emitr_keeps | apply kept_ite | dsimp only | (refine kept_pair (by assumption) ?_) | (refine kept_opt (by assumption) ?_) | (refine kept_opt1 (by assumption) ?_) | split

theorem State.opSYNCP_keeps {qq : List Instr} (s : State) (sp : Spire) (_w : Nat) (h_s : Kept qq s) :
    Kept qq (State.opSYNCP s sp _w) := by
  unfold State.opSYNCP
  dsimp -failIfUnchanged only
  repeat' with_reducible first | assumption | apply State.waitOn_keeps | dsimp only

theorem State.moverPush_keeps {qq : List Instr} (s : State) (sp : Spire) (mask : Nat) (cmd : List Word) (h_s : Kept qq s) :
    Kept qq (State.moverPush s sp mask cmd).1 := by
  unfold State.moverPush
  dsimp -failIfUnchanged only
  repeat' with_reducible first | assumption | (intro _) | apply State.pushTo_keeps | apply State.sprIrq_keeps | apply kept_ite | apply kept_ite1 | dsimp only | split

theorem State.opPUSH_keeps {qq : List Instr} (s : State) (sp : Spire) (w : Nat) (h_s : Kept qq s) :
    Kept qq (State.opPUSH s sp w) := by
  unfold State.opPUSH
  dsimp -failIfUnchanged only
  repeat' with_reducible first | assumption | (intro _) | apply State.moverPush_keeps | apply State.clsEnd_keeps | apply State.busCheck_keeps | apply State.busRead_keeps | apply kept_ite | apply kept_ite1 | dsimp only | split

theorem State.intIssue_keeps {qq : List Instr} (s : State) (sp : Spire) (fn : Nat) (ra : Nat) (rb : Nat) (h_s : Kept qq s) :
    Kept qq (State.intIssue s sp fn ra rb).1 := by
  unfold State.intIssue
  dsimp -failIfUnchanged only
  repeat' with_reducible first | assumption | (intro _) | apply State.updSpire_keeps | apply State.wr_keeps | apply kept_ite | apply kept_ite1 | dsimp only | (apply kept_mk; dsimp only; apply kept_un) | split

theorem State.opInt_keeps {qq : List Instr} (s : State) (sp : Spire) (fn : Nat) (w : Nat) (h_s : Kept qq s) :
    Kept qq (State.opInt s sp fn w) := by
  unfold State.opInt
  dsimp -failIfUnchanged only
  repeat' with_reducible first | assumption | (intro _) | apply State.intIssue_keeps | apply State.clsEnd_keeps | dsimp only

theorem State.opHINIT_keeps {qq : List Instr} (s : State) (sp : Spire) (w : Nat) (h_s : Kept qq s) :
    Kept qq (State.opHINIT s sp w) := by
  unfold State.opHINIT
  dsimp -failIfUnchanged only
  repeat' with_reducible first | assumption | apply State.opInt_keeps | dsimp only

theorem State.opHUPD_keeps {qq : List Instr} (s : State) (sp : Spire) (w : Nat) (h_s : Kept qq s) :
    Kept qq (State.opHUPD s sp w) := by
  unfold State.opHUPD
  dsimp -failIfUnchanged only
  repeat' with_reducible first | assumption | apply State.opInt_keeps | dsimp only

theorem State.opHFIN_keeps {qq : List Instr} (s : State) (sp : Spire) (w : Nat) (h_s : Kept qq s) :
    Kept qq (State.opHFIN s sp w) := by
  unfold State.opHFIN
  dsimp -failIfUnchanged only
  repeat' with_reducible first | assumption | apply State.opInt_keeps | dsimp only

theorem State.opGFACC_keeps {qq : List Instr} (s : State) (sp : Spire) (w : Nat) (h_s : Kept qq s) :
    Kept qq (State.opGFACC s sp w) := by
  unfold State.opGFACC
  dsimp -failIfUnchanged only
  repeat' with_reducible first | assumption | apply State.opInt_keeps | dsimp only

theorem State.opGFSOLVE_keeps {qq : List Instr} (s : State) (sp : Spire) (w : Nat) (h_s : Kept qq s) :
    Kept qq (State.opGFSOLVE s sp w) := by
  unfold State.opGFSOLVE
  dsimp -failIfUnchanged only
  repeat' with_reducible first | assumption | apply State.opInt_keeps | dsimp only

theorem State.opRXNEXT_keeps {qq : List Instr} (s : State) (sp : Spire) (w : Nat) (h_s : Kept qq s) :
    Kept qq (State.opRXNEXT s sp w) := by
  unfold State.opRXNEXT
  dsimp -failIfUnchanged only
  repeat' with_reducible first | assumption | (intro _) | apply State.clsRes_keeps | apply State.updAot_keeps | dsimp only | (refine kept_pair (by assumption) ?_) | (refine kept_opt (by assumption) ?_) | (refine kept_opt1 (by assumption) ?_) | (apply kept_mk; dsimp only; apply kept_un) | split

theorem State.opSESS_keeps {qq : List Instr} (s : State) (sp : Spire) (w : Nat) (h_s : Kept qq s) :
    Kept qq (State.opSESS s sp w) := by
  unfold State.opSESS
  dsimp -failIfUnchanged only
  repeat' with_reducible first | assumption | (intro _) | apply State.clsRes_keeps | apply State.clsEnd_keeps | apply State.updSpire_keeps | apply kept_ite | dsimp only | (apply kept_mk; dsimp only; apply kept_un) | split

theorem State.opOPEN_keeps {qq : List Instr} (s : State) (sp : Spire) (w : Nat) (h_s : Kept qq s) :
    Kept qq (State.opOPEN s sp w) := by
  unfold State.opOPEN
  dsimp -failIfUnchanged only
  repeat' with_reducible first | assumption | (intro _) | apply State.clsEnd_keeps | apply State.updSpire_keeps | apply State.setBytes_keeps | apply kept_ite | apply kept_ite1 | dsimp only | (refine kept_pair (by assumption) ?_) | (refine kept_opt (by assumption) ?_) | (refine kept_opt1 (by assumption) ?_) | (apply kept_mk; dsimp only; apply kept_un) | split

theorem State.opSEAL_keeps {qq : List Instr} (s : State) (sp : Spire) (w : Nat) (h_s : Kept qq s) :
    Kept qq (State.opSEAL s sp w) := by
  unfold State.opSEAL
  dsimp -failIfUnchanged only
  repeat' with_reducible first | assumption | (intro _) | apply State.clsEnd_keeps | apply State.setSess_keeps | apply State.setBytes_keeps | apply kept_ite | apply kept_ite1 | dsimp only | (refine kept_pair (by assumption) ?_) | (refine kept_opt (by assumption) ?_) | (refine kept_opt1 (by assumption) ?_) | (apply kept_mk; dsimp only; apply kept_un) | split

theorem State.opRWIN_keeps {qq : List Instr} (s : State) (sp : Spire) (w : Nat) (h_s : Kept qq s) :
    Kept qq (State.opRWIN s sp w) := by
  unfold State.opRWIN
  dsimp -failIfUnchanged only
  repeat' with_reducible first | assumption | apply State.clsRes_keeps | dsimp only

theorem State.opRMARK_keeps {qq : List Instr} (s : State) (sp : Spire) (w : Nat) (h_s : Kept qq s) :
    Kept qq (State.opRMARK s sp w) := by
  unfold State.opRMARK
  dsimp -failIfUnchanged only
  repeat' with_reducible first | assumption | (intro _) | apply State.clsEnd_keeps | apply State.setSess_keeps | apply kept_ite | dsimp only | split

theorem State.opTXQ_keeps {qq : List Instr} (s : State) (sp : Spire) (w : Nat) (h_s : Kept qq s) :
    Kept qq (State.opTXQ s sp w) := by
  unfold State.opTXQ
  dsimp -failIfUnchanged only
  repeat' with_reducible first | assumption | (intro _) | apply State.clsEnd_keeps | apply State.portTx_keeps | apply kept_ite | dsimp only | (apply kept_mk; dsimp only; apply kept_un) | split

theorem State.opTIMER_keeps {qq : List Instr} (s : State) (sp : Spire) (w : Nat) (h_s : Kept qq s) :
    Kept qq (State.opTIMER s sp w) := by
  unfold State.opTIMER
  dsimp -failIfUnchanged only
  repeat' with_reducible first | assumption | (intro _) | apply State.clsRes_keeps | apply State.updAot_keeps | dsimp only | (refine kept_pair (by assumption) ?_) | (refine kept_opt (by assumption) ?_) | (refine kept_opt1 (by assumption) ?_) | (apply kept_mk; dsimp only; apply kept_un) | split

theorem State.opPOP_keeps {qq : List Instr} (s : State) (sp : Spire) (_w : Nat) (h_s : Kept qq s) :
    Kept qq (State.opPOP s sp _w) := by
  unfold State.opPOP
  dsimp -failIfUnchanged only
  repeat' with_reducible first | assumption | apply State.waitOn_keeps | dsimp only

theorem State.postDo_keeps {qq : List Instr} (s : State) (sp : Spire) (status : Nat) (ra : Nat) (rb : Nat) (h_s : Kept qq s) :
    Kept qq (State.postDo s sp status ra rb) := by
  unfold State.postDo
  dsimp -failIfUnchanged only
  repeat' with_reducible first | assumption | (intro _) | apply State.postRec_keeps | apply State.updSpire_keeps | dsimp only | (apply kept_mk; dsimp only; apply kept_un)

theorem State.opPOST_keeps {qq : List Instr} (s : State) (sp : Spire) (w : Nat) (h_s : Kept qq s) :
    Kept qq (State.opPOST s sp w) := by
  unfold State.opPOST
  dsimp -failIfUnchanged only
  repeat' with_reducible first | assumption | apply State.postDo_keeps | apply State.adv_keeps | dsimp only

theorem State.rowDo_keeps {qq : List Instr} (s : State) (sp : Spire) (w : Nat) (y3 : MRow) (h_s : Kept qq s) :
    Kept qq (State.rowDo s sp w y3) := by
  unfold State.rowDo
  dsimp -failIfUnchanged only
  repeat' with_reducible first | assumption | (apply kept_id; assumption) | (intro _) | apply State.opPOST_keeps | apply State.opPOP_keeps | apply State.opTIMER_keeps | apply State.opTXQ_keeps | apply State.opRMARK_keeps | apply State.opRWIN_keeps | apply State.opSEAL_keeps | apply State.opOPEN_keeps | apply State.opSESS_keeps | apply State.opRXNEXT_keeps | apply State.opGFSOLVE_keeps | apply State.opGFACC_keeps | apply State.opHFIN_keeps | apply State.opHUPD_keeps | apply State.opHINIT_keeps | apply State.opPUSH_keeps | apply State.opSYNCP_keeps | apply State.opEMITR_keeps | apply State.opOUTC_keeps | apply State.opCAPTR_keeps | apply State.opWGET_keeps | apply State.opWPLAN_keeps | apply State.opRPLAN_keeps | apply State.opANCHOR_keeps | apply State.opLOADZ_keeps | apply State.opDISARM_keeps | apply State.opWAITC_keeps | apply State.opARM_keeps | apply State.opGETANG_keeps | apply State.opST_keeps | apply State.opLD_keeps | apply State.opFENCE_keeps | apply State.opHALT_keeps | apply State.opRET_keeps | apply State.opNOP_keeps | apply State.opCALL_keeps | apply State.opCBR_keeps | apply State.opBR_keeps | apply State.opLUI_keeps | apply State.opLDI_keeps | apply State.opALUI_keeps | apply State.opALU_keeps | apply kept_next | apply kept_ite | apply kept_ite1 | apply kept_ite3 | (refine kept_foldl ?_ (fun _ _ _ => ?_)) | (refine kept_foldl1 ?_ (fun _ _ _ => ?_)) | (refine kept_foldl2 ?_ (fun _ _ _ => ?_)) | (intro _) | dsimp only | (refine kept_pair (by assumption) ?_) | (refine kept_opt (by assumption) ?_) | (refine kept_opt1 (by assumption) ?_) | apply optKept_some | apply optKept_none | apply optKept_ite | (apply kept_mk; dsimp only; apply kept_un) | split

theorem State.stepOne_keeps {qq : List Instr} (s : State) (sp : Spire) (h_s : Kept qq s) :
    Kept qq (State.stepOne s sp) := by
  unfold State.stepOne
  dsimp -failIfUnchanged only
  repeat' with_reducible first | assumption | (intro _) | apply State.rowDo_keeps | apply State.fetchDo_keeps | apply State.updSpire_keeps | apply kept_ite | dsimp only | (apply kept_mk; dsimp only; apply kept_un) | split

theorem State.drainSteps_keeps {qq : List Instr} (s : State) (h_s : Kept qq s) :
    Kept qq (State.drainSteps s) := by
  unfold State.drainSteps
  dsimp -failIfUnchanged only
  repeat' with_reducible first | assumption | (intro _) | apply State.stepOne_keeps | (refine kept_foldl ?_ (fun _ _ _ => ?_)) | (refine kept_foldl1 ?_ (fun _ _ _ => ?_)) | (refine kept_foldl2 ?_ (fun _ _ _ => ?_)) | dsimp only | (apply kept_mk; dsimp only; apply kept_un)

theorem State.intWrite_keeps {q : List Instr} (s : State × Bool) (a : Nat) (l : List Byte) (h_s : Kept q s.1) :
    Kept q (State.intWrite s a l).1 := State.busWrite_keeps _ _ _ _ h_s

theorem State.gfaccRun_keeps {qq : List Instr} (s : State) (ra : Nat) (h_s : Kept qq s) :
    Kept qq (State.gfaccRun s ra).1 := by
  unfold State.gfaccRun
  dsimp -failIfUnchanged only
  repeat' with_reducible first | assumption | (intro _) | apply State.intWrite_keeps | apply State.busRead_keeps | apply State.bump_keeps | (refine kept_foldl ?_ (fun _ _ _ => ?_)) | (refine kept_foldl1 ?_ (fun _ _ _ => ?_)) | (refine kept_foldl2 ?_ (fun _ _ _ => ?_)) | dsimp only

theorem State.gfsolveRun_keeps {qq : List Instr} (s : State) (ra : Nat) (h_s : Kept qq s) :
    Kept qq (State.gfsolveRun s ra).1 := by
  unfold State.gfsolveRun
  dsimp -failIfUnchanged only
  repeat' with_reducible first | assumption | (intro _) | apply State.intWrite_keeps | apply State.busRead_keeps | apply State.drawn_keeps | apply State.bump_keeps | (refine kept_foldl ?_ (fun _ _ _ => ?_)) | (refine kept_foldl1 ?_ (fun _ _ _ => ?_)) | (refine kept_foldl2 ?_ (fun _ _ _ => ?_)) | dsimp only | (refine kept_pair (by assumption) ?_) | (refine kept_opt (by assumption) ?_) | (refine kept_opt1 (by assumption) ?_) | split

theorem State.setHash_keeps {qq : List Instr} (s : State) (a : Nat) (l : List Byte) (h_s : Kept qq s) :
    Kept qq (State.setHash s a l) := by
  unfold State.setHash
  dsimp -failIfUnchanged only
  repeat' with_reducible first | assumption | (intro _) | dsimp only | (apply kept_mk; dsimp only; apply kept_un)

theorem State.intRun_keeps {qq : List Instr} (s : State) (fn : Nat) (ra : Nat) (rb : Nat) (h_s : Kept qq s) :
    Kept qq (State.intRun s fn ra rb).1 := by
  unfold State.intRun
  dsimp -failIfUnchanged only
  repeat' with_reducible first | assumption | (intro _) | apply State.setHash_keeps | apply State.gfsolveRun_keeps | apply State.gfaccRun_keeps | apply State.intWrite_keeps | apply State.busRead_keeps | apply State.drawn_keeps | apply State.bump_keeps | apply kept_ite | apply kept_ite1 | dsimp only | (refine kept_pair (by assumption) ?_) | (refine kept_opt (by assumption) ?_) | (refine kept_opt1 (by assumption) ?_) | split

theorem State.intDone_keeps {qq : List Instr} (s : State) (sp : Spire) (h_s : Kept qq s) :
    Kept qq (State.intDone s sp) := by
  unfold State.intDone
  dsimp -failIfUnchanged only
  repeat' with_reducible first | assumption | (intro _) | apply State.intRun_keeps | apply State.machineCheck_keeps | apply State.updSpire_keeps | apply State.wr_keeps | apply kept_ite | apply kept_ite1 | dsimp only | (refine kept_pair (by assumption) ?_) | (refine kept_opt (by assumption) ?_) | (refine kept_opt1 (by assumption) ?_) | (apply kept_mk; dsimp only; apply kept_un) | split

theorem State.micro_keeps {qq : List Instr} (s : State) (sp : Spire) (row : MRow) (f : State → Spire → Nat → State) (h_s : Kept qq s) (h_f : ∀ (x0 : State) (x1 : Sys2Proof.Spire) (x2 : Nat), Kept qq x0 → Kept qq (f x0 x1 x2)) :
    Kept qq (State.micro s sp row f) := by
  unfold State.micro
  dsimp -failIfUnchanged only
  repeat' with_reducible first | assumption | (intro _) | apply State.fetchDo_keeps | apply h_f | apply kept_ite | dsimp only | split

theorem State.resume_keeps {qq : List Instr} (s : State) (sp : Spire) (h_s : Kept qq s) :
    Kept qq (State.resume s sp) := by
  unfold State.resume
  dsimp -failIfUnchanged only
  repeat' with_reducible first | assumption | (intro _) | apply State.waitSide_keeps | apply State.tryWait_keeps | apply State.updSpire_keeps | apply kept_ite | dsimp only | (refine kept_pair (by assumption) ?_) | (refine kept_opt (by assumption) ?_) | (refine kept_opt1 (by assumption) ?_) | (apply kept_mk; dsimp only; apply kept_un) | split

theorem execAlu_keeps {qq : List Instr} (sp : Spire) (s : State) (h_s : Kept qq s) :
    Out.Kept qq (execAlu sp s) := by
  unfold execAlu
  dsimp -failIfUnchanged only
  repeat' with_reducible first | assumption | apply State.micro_keeps | apply State.opALU_keeps | apply kept_next | apply kept_ite3 | apply kept_ite | dsimp only | split

theorem execAlui_keeps {qq : List Instr} (sp : Spire) (s : State) (h_s : Kept qq s) :
    Out.Kept qq (execAlui sp s) := by
  unfold execAlui
  dsimp -failIfUnchanged only
  repeat' with_reducible first | assumption | apply State.micro_keeps | apply State.opALUI_keeps | apply kept_next | apply kept_ite3 | apply kept_ite | dsimp only | split

theorem execAnchor_keeps {qq : List Instr} (sp : Spire) (s : State) (h_s : Kept qq s) :
    Out.Kept qq (execAnchor sp s) := by
  unfold execAnchor
  dsimp -failIfUnchanged only
  repeat' with_reducible first | assumption | apply State.micro_keeps | apply State.opANCHOR_keeps | apply kept_next | apply kept_ite3 | apply kept_ite | dsimp only | split

theorem execArm_keeps {qq : List Instr} (sp : Spire) (s : State) (h_s : Kept qq s) :
    Out.Kept qq (execArm sp s) := by
  unfold execArm
  dsimp -failIfUnchanged only
  repeat' with_reducible first | assumption | apply State.micro_keeps | apply State.opARM_keeps | apply kept_next | apply kept_ite3 | apply kept_ite | dsimp only | split

theorem execBandMoverPush_keeps {qq : List Instr} (sp : Spire) (s : State) (h_s : Kept qq s) :
    Out.Kept qq (execBandMoverPush sp s) := by
  unfold execBandMoverPush
  dsimp -failIfUnchanged only
  repeat' with_reducible first | assumption | apply State.micro_keeps | apply State.opPUSH_keeps | apply kept_next | apply kept_ite3 | apply kept_ite | dsimp only | split

theorem execBr_keeps {qq : List Instr} (sp : Spire) (s : State) (h_s : Kept qq s) :
    Out.Kept qq (execBr sp s) := by
  unfold execBr
  dsimp -failIfUnchanged only
  repeat' with_reducible first | assumption | apply State.micro_keeps | apply State.opBR_keeps | apply kept_next | apply kept_ite3 | apply kept_ite | dsimp only | split

theorem execCall_keeps {qq : List Instr} (sp : Spire) (s : State) (h_s : Kept qq s) :
    Out.Kept qq (execCall sp s) := by
  unfold execCall
  dsimp -failIfUnchanged only
  repeat' with_reducible first | assumption | apply State.micro_keeps | apply State.opCALL_keeps | apply kept_next | apply kept_ite3 | apply kept_ite | dsimp only | split

theorem execCaptr_keeps {qq : List Instr} (sp : Spire) (s : State) (h_s : Kept qq s) :
    Out.Kept qq (execCaptr sp s) := by
  unfold execCaptr
  dsimp -failIfUnchanged only
  repeat' with_reducible first | assumption | apply State.micro_keeps | apply State.opCAPTR_keeps | apply kept_next | apply kept_ite3 | apply kept_ite | dsimp only | split

theorem execCbr_keeps {qq : List Instr} (sp : Spire) (s : State) (h_s : Kept qq s) :
    Out.Kept qq (execCbr sp s) := by
  unfold execCbr
  dsimp -failIfUnchanged only
  repeat' with_reducible first | assumption | apply State.micro_keeps | apply State.opCBR_keeps | apply kept_next | apply kept_ite3 | apply kept_ite | dsimp only | split

theorem execDisarm_keeps {qq : List Instr} (sp : Spire) (s : State) (h_s : Kept qq s) :
    Out.Kept qq (execDisarm sp s) := by
  unfold execDisarm
  dsimp -failIfUnchanged only
  repeat' with_reducible first | assumption | apply State.micro_keeps | apply State.opDISARM_keeps | apply kept_next | apply kept_ite3 | apply kept_ite | dsimp only | split

theorem execEmitr_keeps {qq : List Instr} (sp : Spire) (s : State) (h_s : Kept qq s) :
    Out.Kept qq (execEmitr sp s) := by
  unfold execEmitr
  dsimp -failIfUnchanged only
  repeat' with_reducible first | assumption | apply State.micro_keeps | apply State.opEMITR_keeps | apply kept_next | apply kept_ite3 | apply kept_ite | dsimp only | split

theorem execFence_keeps {qq : List Instr} (sp : Spire) (s : State) (h_s : Kept qq s) :
    Out.Kept qq (execFence sp s) := by
  unfold execFence
  dsimp -failIfUnchanged only
  repeat' with_reducible first | assumption | apply State.micro_keeps | apply State.opFENCE_keeps | apply kept_next | apply kept_ite3 | apply kept_ite | dsimp only | split

theorem execGetang_keeps {qq : List Instr} (sp : Spire) (s : State) (h_s : Kept qq s) :
    Out.Kept qq (execGetang sp s) := by
  unfold execGetang
  dsimp -failIfUnchanged only
  repeat' with_reducible first | assumption | apply State.micro_keeps | apply State.opGETANG_keeps | apply kept_next | apply kept_ite3 | apply kept_ite | dsimp only | split

theorem execGfacc_keeps {qq : List Instr} (sp : Spire) (s : State) (h_s : Kept qq s) :
    Out.Kept qq (execGfacc sp s) := by
  unfold execGfacc
  dsimp -failIfUnchanged only
  repeat' with_reducible first | assumption | apply State.micro_keeps | apply State.opGFACC_keeps | apply kept_next | apply kept_ite3 | apply kept_ite | dsimp only | split

theorem execGfsolve_keeps {qq : List Instr} (sp : Spire) (s : State) (h_s : Kept qq s) :
    Out.Kept qq (execGfsolve sp s) := by
  unfold execGfsolve
  dsimp -failIfUnchanged only
  repeat' with_reducible first | assumption | apply State.micro_keeps | apply State.opGFSOLVE_keeps | apply kept_next | apply kept_ite3 | apply kept_ite | dsimp only | split

theorem execHalt_keeps {qq : List Instr} (sp : Spire) (s : State) (h_s : Kept qq s) :
    Out.Kept qq (execHalt sp s) := by
  unfold execHalt
  dsimp -failIfUnchanged only
  repeat' with_reducible first | assumption | apply State.micro_keeps | apply State.opHALT_keeps | apply kept_next | apply kept_ite3 | apply kept_ite | dsimp only | split

theorem execHfin_keeps {qq : List Instr} (sp : Spire) (s : State) (h_s : Kept qq s) :
    Out.Kept qq (execHfin sp s) := by
  unfold execHfin
  dsimp -failIfUnchanged only
  repeat' with_reducible first | assumption | apply State.micro_keeps | apply State.opHFIN_keeps | apply kept_next | apply kept_ite3 | apply kept_ite | dsimp only | split

theorem execHinit_keeps {qq : List Instr} (sp : Spire) (s : State) (h_s : Kept qq s) :
    Out.Kept qq (execHinit sp s) := by
  unfold execHinit
  dsimp -failIfUnchanged only
  repeat' with_reducible first | assumption | apply State.micro_keeps | apply State.opHINIT_keeps | apply kept_next | apply kept_ite3 | apply kept_ite | dsimp only | split

theorem execHupd_keeps {qq : List Instr} (sp : Spire) (s : State) (h_s : Kept qq s) :
    Out.Kept qq (execHupd sp s) := by
  unfold execHupd
  dsimp -failIfUnchanged only
  repeat' with_reducible first | assumption | apply State.micro_keeps | apply State.opHUPD_keeps | apply kept_next | apply kept_ite3 | apply kept_ite | dsimp only | split

theorem execIntegrityOpDone_keeps {qq : List Instr} (n : Nat) (s : State) (h_s : Kept qq s) :
    Out.Kept qq (execIntegrityOpDone n s) := by
  unfold execIntegrityOpDone
  dsimp -failIfUnchanged only
  repeat' with_reducible first | assumption | apply State.intDone_keeps | apply kept_next | apply kept_ite3 | apply kept_ite | dsimp only | split

theorem execLd_keeps {qq : List Instr} (sp : Spire) (s : State) (h_s : Kept qq s) :
    Out.Kept qq (execLd sp s) := by
  unfold execLd
  dsimp -failIfUnchanged only
  repeat' with_reducible first | assumption | apply State.micro_keeps | apply State.opLD_keeps | apply kept_next | apply kept_ite3 | apply kept_ite | dsimp only | split

theorem execLdi_keeps {qq : List Instr} (sp : Spire) (s : State) (h_s : Kept qq s) :
    Out.Kept qq (execLdi sp s) := by
  unfold execLdi
  dsimp -failIfUnchanged only
  repeat' with_reducible first | assumption | apply State.micro_keeps | apply State.opLDI_keeps | apply kept_next | apply kept_ite3 | apply kept_ite | dsimp only | split

theorem execLoadz_keeps {qq : List Instr} (sp : Spire) (s : State) (h_s : Kept qq s) :
    Out.Kept qq (execLoadz sp s) := by
  unfold execLoadz
  dsimp -failIfUnchanged only
  repeat' with_reducible first | assumption | apply State.micro_keeps | apply State.opLOADZ_keeps | apply kept_next | apply kept_ite3 | apply kept_ite | dsimp only | split

theorem execLui_keeps {qq : List Instr} (sp : Spire) (s : State) (h_s : Kept qq s) :
    Out.Kept qq (execLui sp s) := by
  unfold execLui
  dsimp -failIfUnchanged only
  repeat' with_reducible first | assumption | apply State.micro_keeps | apply State.opLUI_keeps | apply kept_next | apply kept_ite3 | apply kept_ite | dsimp only | split

theorem execMqPush_keeps {qq : List Instr} (core : Nat) (words : List Word) (val : Word) (s : State) (h_s : Kept qq s) :
    Out.Kept qq (execMqPush core words val s) := by
  unfold execMqPush
  dsimp -failIfUnchanged only
  repeat' with_reducible first | assumption | apply State.mqPush_keeps | apply kept_next | apply kept_ite3 | apply kept_ite | dsimp only | split

theorem execNop_keeps {qq : List Instr} (sp : Spire) (s : State) (h_s : Kept qq s) :
    Out.Kept qq (execNop sp s) := by
  unfold execNop
  dsimp -failIfUnchanged only
  repeat' with_reducible first | assumption | apply State.micro_keeps | apply State.opNOP_keeps | apply kept_next | apply kept_ite3 | apply kept_ite | dsimp only | split

theorem execOpen_keeps {qq : List Instr} (sp : Spire) (s : State) (h_s : Kept qq s) :
    Out.Kept qq (execOpen sp s) := by
  unfold execOpen
  dsimp -failIfUnchanged only
  repeat' with_reducible first | assumption | apply State.micro_keeps | apply State.opOPEN_keeps | apply kept_next | apply kept_ite3 | apply kept_ite | dsimp only | split

theorem execOutc_keeps {qq : List Instr} (sp : Spire) (s : State) (h_s : Kept qq s) :
    Out.Kept qq (execOutc sp s) := by
  unfold execOutc
  dsimp -failIfUnchanged only
  repeat' with_reducible first | assumption | apply State.micro_keeps | apply State.opOUTC_keeps | apply kept_next | apply kept_ite3 | apply kept_ite | dsimp only | split

theorem execPop_keeps {qq : List Instr} (sp : Spire) (s : State) (h_s : Kept qq s) :
    Out.Kept qq (execPop sp s) := by
  unfold execPop
  dsimp -failIfUnchanged only
  repeat' with_reducible first | assumption | apply State.micro_keeps | apply State.opPOP_keeps | apply kept_next | apply kept_ite3 | apply kept_ite | dsimp only | split

theorem execPost_keeps {qq : List Instr} (sp : Spire) (s : State) (h_s : Kept qq s) :
    Out.Kept qq (execPost sp s) := by
  unfold execPost
  dsimp -failIfUnchanged only
  repeat' with_reducible first | assumption | apply State.micro_keeps | apply State.opPOST_keeps | apply kept_next | apply kept_ite3 | apply kept_ite | dsimp only | split

theorem execRet_keeps {qq : List Instr} (sp : Spire) (s : State) (h_s : Kept qq s) :
    Out.Kept qq (execRet sp s) := by
  unfold execRet
  dsimp -failIfUnchanged only
  repeat' with_reducible first | assumption | apply State.micro_keeps | apply State.opRET_keeps | apply kept_next | apply kept_ite3 | apply kept_ite | dsimp only | split

theorem execRmark_keeps {qq : List Instr} (sp : Spire) (s : State) (h_s : Kept qq s) :
    Out.Kept qq (execRmark sp s) := by
  unfold execRmark
  dsimp -failIfUnchanged only
  repeat' with_reducible first | assumption | apply State.micro_keeps | apply State.opRMARK_keeps | apply kept_next | apply kept_ite3 | apply kept_ite | dsimp only | split

theorem execRplan_keeps {qq : List Instr} (sp : Spire) (s : State) (h_s : Kept qq s) :
    Out.Kept qq (execRplan sp s) := by
  unfold execRplan
  dsimp -failIfUnchanged only
  repeat' with_reducible first | assumption | apply State.micro_keeps | apply State.opRPLAN_keeps | apply kept_next | apply kept_ite3 | apply kept_ite | dsimp only | split

theorem execRwin_keeps {qq : List Instr} (sp : Spire) (s : State) (h_s : Kept qq s) :
    Out.Kept qq (execRwin sp s) := by
  unfold execRwin
  dsimp -failIfUnchanged only
  repeat' with_reducible first | assumption | apply State.micro_keeps | apply State.opRWIN_keeps | apply kept_next | apply kept_ite3 | apply kept_ite | dsimp only | split

theorem execRxnext_keeps {qq : List Instr} (sp : Spire) (s : State) (h_s : Kept qq s) :
    Out.Kept qq (execRxnext sp s) := by
  unfold execRxnext
  dsimp -failIfUnchanged only
  repeat' with_reducible first | assumption | apply State.micro_keeps | apply State.opRXNEXT_keeps | apply kept_next | apply kept_ite3 | apply kept_ite | dsimp only | split

theorem execSeal_keeps {qq : List Instr} (sp : Spire) (s : State) (h_s : Kept qq s) :
    Out.Kept qq (execSeal sp s) := by
  unfold execSeal
  dsimp -failIfUnchanged only
  repeat' with_reducible first | assumption | apply State.micro_keeps | apply State.opSEAL_keeps | apply kept_next | apply kept_ite3 | apply kept_ite | dsimp only | split

theorem execSess_keeps {qq : List Instr} (sp : Spire) (s : State) (h_s : Kept qq s) :
    Out.Kept qq (execSess sp s) := by
  unfold execSess
  dsimp -failIfUnchanged only
  repeat' with_reducible first | assumption | apply State.micro_keeps | apply State.opSESS_keeps | apply kept_next | apply kept_ite3 | apply kept_ite | dsimp only | split

theorem execSprCsWrite_keeps {qq : List Instr} (cls : Nat) (val : Word) (s : State) (h_s : Kept qq s) :
    Out.Kept qq (execSprCsWrite cls val s) := by
  unfold execSprCsWrite
  dsimp -failIfUnchanged only
  repeat' with_reducible first | assumption | (intro _) | apply State.csWrite_keeps | apply State.gated_keeps | apply kept_next | apply kept_ite3 | apply kept_ite | dsimp only | split

theorem execSprHalt_keeps {qq : List Instr} (cls : Nat) (val : Word) (s : State) (h_s : Kept qq s) :
    Out.Kept qq (execSprHalt cls val s) := by
  unfold execSprHalt
  dsimp -failIfUnchanged only
  repeat' with_reducible first | assumption | (intro _) | apply State.drainSteps_keeps | apply State.sprCmd_keeps | apply State.gated_keeps | apply kept_next | apply kept_ite3 | apply kept_ite | dsimp only | split

theorem execSprMcForce_keeps {qq : List Instr} (cls : Nat) (val : Word) (s : State) (h_s : Kept qq s) :
    Out.Kept qq (execSprMcForce cls val s) := by
  unfold execSprMcForce
  dsimp -failIfUnchanged only
  repeat' with_reducible first | assumption | (intro _) | apply State.sprForce_keeps | apply State.gated_keeps | apply kept_next | apply kept_ite3 | apply kept_ite | dsimp only | split

theorem execSprQpush_keeps {qq : List Instr} (cls : Nat) (val : Word) (s : State) (h_s : Kept qq s) :
    Out.Kept qq (execSprQpush cls val s) := by
  unfold execSprQpush
  dsimp -failIfUnchanged only
  repeat' with_reducible first | assumption | (intro _) | apply State.qPush_keeps | apply State.gated_keeps | apply kept_next | apply kept_ite3 | apply kept_ite | dsimp only | split

theorem execSprStart_keeps {qq : List Instr} (cls : Nat) (val : Word) (s : State) (h_s : Kept qq s) :
    Out.Kept qq (execSprStart cls val s) := by
  unfold execSprStart
  dsimp -failIfUnchanged only
  repeat' with_reducible first | assumption | (intro _) | apply State.drainSteps_keeps | apply State.sprCmd_keeps | apply State.gated_keeps | apply kept_next | apply kept_ite3 | apply kept_ite | dsimp only | split

theorem execSprStep_keeps {qq : List Instr} (cls : Nat) (val : Word) (s : State) (h_s : Kept qq s) :
    Out.Kept qq (execSprStep cls val s) := by
  unfold execSprStep
  dsimp -failIfUnchanged only
  repeat' with_reducible first | assumption | (intro _) | apply State.drainSteps_keeps | apply State.sprCmd_keeps | apply State.gated_keeps | apply kept_next | apply kept_ite3 | apply kept_ite | dsimp only | split

theorem execSt_keeps {qq : List Instr} (sp : Spire) (s : State) (h_s : Kept qq s) :
    Out.Kept qq (execSt sp s) := by
  unfold execSt
  dsimp -failIfUnchanged only
  repeat' with_reducible first | assumption | apply State.micro_keeps | apply State.opST_keeps | apply kept_next | apply kept_ite3 | apply kept_ite | dsimp only | split

theorem execSyncp_keeps {qq : List Instr} (sp : Spire) (s : State) (h_s : Kept qq s) :
    Out.Kept qq (execSyncp sp s) := by
  unfold execSyncp
  dsimp -failIfUnchanged only
  repeat' with_reducible first | assumption | apply State.micro_keeps | apply State.opSYNCP_keeps | apply kept_next | apply kept_ite3 | apply kept_ite | dsimp only | split

theorem execTimer_keeps {qq : List Instr} (sp : Spire) (s : State) (h_s : Kept qq s) :
    Out.Kept qq (execTimer sp s) := by
  unfold execTimer
  dsimp -failIfUnchanged only
  repeat' with_reducible first | assumption | apply State.micro_keeps | apply State.opTIMER_keeps | apply kept_next | apply kept_ite3 | apply kept_ite | dsimp only | split

theorem execTxq_keeps {qq : List Instr} (sp : Spire) (s : State) (h_s : Kept qq s) :
    Out.Kept qq (execTxq sp s) := by
  unfold execTxq
  dsimp -failIfUnchanged only
  repeat' with_reducible first | assumption | apply State.micro_keeps | apply State.opTXQ_keeps | apply kept_next | apply kept_ite3 | apply kept_ite | dsimp only | split

theorem execWaitSatisfied_keeps {qq : List Instr} (sp : Spire) (s : State) (h_s : Kept qq s) :
    Out.Kept qq (execWaitSatisfied sp s) := by
  unfold execWaitSatisfied
  dsimp -failIfUnchanged only
  repeat' with_reducible first | assumption | apply State.resume_keeps | apply kept_next | apply kept_ite3 | apply kept_ite | dsimp only | split

theorem execWaitc_keeps {qq : List Instr} (sp : Spire) (s : State) (h_s : Kept qq s) :
    Out.Kept qq (execWaitc sp s) := by
  unfold execWaitc
  dsimp -failIfUnchanged only
  repeat' with_reducible first | assumption | apply State.micro_keeps | apply State.opWAITC_keeps | apply kept_next | apply kept_ite3 | apply kept_ite | dsimp only | split

theorem execWget_keeps {qq : List Instr} (sp : Spire) (s : State) (h_s : Kept qq s) :
    Out.Kept qq (execWget sp s) := by
  unfold execWget
  dsimp -failIfUnchanged only
  repeat' with_reducible first | assumption | apply State.micro_keeps | apply State.opWGET_keeps | apply kept_next | apply kept_ite3 | apply kept_ite | dsimp only | split

theorem execWplan_keeps {qq : List Instr} (sp : Spire) (s : State) (h_s : Kept qq s) :
    Out.Kept qq (execWplan sp s) := by
  unfold execWplan
  dsimp -failIfUnchanged only
  repeat' with_reducible first | assumption | apply State.micro_keeps | apply State.opWPLAN_keeps | apply kept_next | apply kept_ite3 | apply kept_ite | dsimp only | split

end Sys2Proof.Machine
end

