-- ==== Sys2Proof/Laws/KeepImage.lean ====
section
/-! SUPPORT. Each operation of Machine/Image.lean leaves the register file and memory canonical and the queue as it is. -/

set_option linter.unusedTactic false
set_option linter.unreachableTactic false
set_option maxRecDepth 8000

namespace Sys2Proof.Machine

theorem State.ef0Take_keeps {qq : List Instr} (s : State) (sp : Spire) (f : State → State) (h_s : Kept qq s) (h_f : ∀ (x0 : State), Kept qq x0 → Kept qq (f x0)) :
    Kept qq (State.ef0Take s sp f) := by
  unfold State.ef0Take
  dsimp -failIfUnchanged only
  repeat' with_reducible first | assumption | (intro _) | apply State.updSpire_keeps | apply h_f | apply kept_ite | dsimp only | (apply kept_mk; dsimp only; apply kept_un) | split

theorem State.setRoutine_keeps {qq : List Instr} (s : State) (sp : Spire) (r : Option MRun) (h_s : Kept qq s) :
    Kept qq (State.setRoutine s sp r) := by
  unfold State.setRoutine
  dsimp -failIfUnchanged only
  repeat' with_reducible first | assumption | (intro _) | apply State.updSpire_keeps | dsimp only | (apply kept_mk; dsimp only; apply kept_un)

theorem State.imgPost_keeps {qq : List Instr} (s : State) (sp : Spire) (status : Nat) (ra : Nat) (rb : Nat) (h_s : Kept qq s) :
    Kept qq (State.imgPost s sp status ra rb) := by
  unfold State.imgPost
  dsimp -failIfUnchanged only
  repeat' with_reducible first | assumption | apply State.setRoutine_keeps | apply State.postDo_keeps | apply State.waitOn_keeps | dsimp only

theorem State.imgIssue_keeps {qq : List Instr} (s : State) (sp : Spire) (r : MRun) (fn : Nat) (ra : Nat) (rb : Nat) (h_s : Kept qq s) :
    Kept qq (State.imgIssue s sp r fn ra rb) := by
  unfold State.imgIssue
  dsimp -failIfUnchanged only
  repeat' with_reducible first | assumption | (intro _) | apply State.imgPost_keeps | apply State.setRoutine_keeps | apply State.intIssue_keeps | apply kept_ite | apply kept_ite1 | dsimp only | split

theorem State.accGo_keeps {qq : List Instr} (s : State) (sp : Spire) (r : MRun) (h_s : Kept qq s) :
    Kept qq (State.accGo s sp r) := by
  unfold State.accGo
  dsimp -failIfUnchanged only
  repeat' with_reducible first | assumption | (intro _) | apply State.imgIssue_keeps | apply State.imgPost_keeps | apply State.ef0Take_keeps | apply kept_ite | dsimp only | (apply kept_mk; dsimp only; apply kept_un) | split

theorem State.armAll_keeps {qq : List Instr} (s : State) (sp : Spire) (l : List (Nat × Nat × Nat)) (h_s : Kept qq s) :
    Kept qq (State.armAll s sp l).1 := by
  unfold State.armAll
  dsimp -failIfUnchanged only
  repeat' with_reducible first | assumption | (intro _) | apply State.armDo_keeps | apply kept_ite | apply kept_ite1 | (refine kept_foldl ?_ (fun _ _ _ => ?_)) | (refine kept_foldl1 ?_ (fun _ _ _ => ?_)) | (refine kept_foldl2 ?_ (fun _ _ _ => ?_)) | dsimp only | split

theorem State.imgWait_keeps {qq : List Instr} (s : State) (sp : Spire) (r : MRun) (st : Nat) (x : SprWait) (h_s : Kept qq s) :
    Kept qq (State.imgWait s sp r st x) := by
  unfold State.imgWait
  dsimp -failIfUnchanged only
  repeat' with_reducible first | assumption | apply State.setRoutine_keeps | apply State.waitOn_keeps | dsimp only | (apply kept_mk; dsimp only; apply kept_un)

theorem State.imgSync_keeps {qq : List Instr} (s : State) (sp : Spire) (r : MRun) (status : Nat) (h_s : Kept qq s) :
    Kept qq (State.imgSync s sp r status) := by
  unfold State.imgSync
  dsimp -failIfUnchanged only
  repeat' with_reducible first | assumption | apply State.imgWait_keeps | dsimp only | (apply kept_mk; dsimp only; apply kept_un)

theorem State.armRead_keeps {qq : List Instr} (s : State) (sp : Spire) (r : MRun) (f : Nat) (h_s : Kept qq s) :
    Kept qq (State.armRead s sp r f) := by
  unfold State.armRead
  dsimp -failIfUnchanged only
  repeat' with_reducible first | assumption | (intro _) | apply State.imgSync_keeps | apply State.imgWait_keeps | apply State.armAll_keeps | apply kept_ite | apply kept_ite1 | dsimp only | split

theorem State.writeEnd_keeps {qq : List Instr} (s : State) (sp : Spire) (r : MRun) (status : Nat) (h_s : Kept qq s) :
    Kept qq (State.writeEnd s sp r status) := by
  unfold State.writeEnd
  dsimp -failIfUnchanged only
  repeat' with_reducible first | assumption | (intro _) | apply State.imgSync_keeps | apply State.busCheck_keeps | apply State.busWrite_keeps | apply kept_ite | apply kept_ite1 | dsimp only | (apply kept_mk; dsimp only; apply kept_un) | split

theorem State.armWrite_keeps {qq : List Instr} (s : State) (sp : Spire) (r : MRun) (h_s : Kept qq s) :
    Kept qq (State.armWrite s sp r) := by
  unfold State.armWrite
  dsimp -failIfUnchanged only
  repeat' with_reducible first | assumption | (intro _) | apply State.writeEnd_keeps | apply State.imgWait_keeps | apply State.armAll_keeps | apply kept_ite | apply kept_ite1 | dsimp only | split

theorem State.eventBegin_keeps {qq : List Instr} (s : State) (sp : Spire) (h_s : Kept qq s) :
    Kept qq (State.eventBegin s sp) := by
  unfold State.eventBegin
  dsimp -failIfUnchanged only
  repeat' with_reducible first | assumption | (intro _) | apply State.imgWait_keeps | apply State.imgPost_keeps | apply State.armDo_keeps | apply kept_ite | apply kept_ite1 | dsimp only | (apply kept_mk; dsimp only; apply kept_un) | split

theorem State.eventGo_keeps {qq : List Instr} (s : State) (sp : Spire) (_r : MRun) (h_s : Kept qq s) :
    Kept qq (State.eventGo s sp _r) := by
  unfold State.eventGo
  dsimp -failIfUnchanged only
  repeat' with_reducible first | assumption | apply State.imgPost_keeps | apply kept_ite | dsimp only | split

theorem State.hashGo_keeps {qq : List Instr} (s : State) (sp : Spire) (r : MRun) (h_s : Kept qq s) :
    Kept qq (State.hashGo s sp r) := by
  unfold State.hashGo
  dsimp -failIfUnchanged only
  repeat' with_reducible first | assumption | (intro _) | apply State.imgIssue_keeps | apply State.imgPost_keeps | apply State.ef0Take_keeps | apply kept_ite | dsimp only | (apply kept_mk; dsimp only; apply kept_un) | split

theorem State.image_keeps {qq : List Instr} (s : State) (sp : Spire) (op : Nat) (begin_ : State → State) (go : State → MRun → State) (h_s : Kept qq s) (h_begin_ : ∀ (x0 : State), Kept qq x0 → Kept qq (begin_ x0)) (h_go : ∀ (x0 : State) (x1 : MRun), Kept qq x0 → Kept qq (go x0 x1)) :
    Kept qq (State.image s sp op begin_ go) := by
  unfold State.image
  dsimp -failIfUnchanged only
  repeat' with_reducible first | assumption | (intro _) | apply State.imgPost_keeps | apply State.resume_keeps | apply State.pop_keeps | apply State.updSpire_keeps | apply h_begin_ | apply h_go | apply kept_ite | apply kept_ite1 | dsimp only | (refine kept_pair (by assumption) ?_) | (refine kept_opt (by assumption) ?_) | (refine kept_opt1 (by assumption) ?_) | (apply kept_mk; dsimp only; apply kept_un) | split

theorem State.imgPlan_keeps {q : List Instr} (s : State) (sp : Spire) (write : Bool) (margin : Nat) (h_s : Kept q s) :
    OptKept1 q (State.imgPlan s sp write margin) := by
  intro r hr
  unfold State.imgPlan at hr
  obtain ⟨z, _, h2⟩ := Option.bind_eq_some_iff.mp hr
  obtain ⟨p, _, h4⟩ := Option.map_eq_some_iff.mp h2
  subst h4
  exact State.updSpire_keeps _ _ _ (State.updSpire_keeps _ _ _ h_s)

theorem State.zeroAcc_keeps {qq : List Instr} (s : State) (t : Tower) (n : Nat) (h_s : Kept qq s) : Kept qq (State.zeroAcc s t n) := by
  unfold State.zeroAcc
  dsimp only
  split
  · exact ⟨h_s.1, memWf_filter _ _ h_s.2.1, h_s.2.2⟩
  · exact h_s

theorem State.layWrite_keeps {qq : List Instr} (s : State) (sp : Spire) (fails : Nat) (reached : Nat) (h_s : Kept qq s) :
    Kept qq (State.layWrite s sp fails reached) := by
  unfold State.layWrite
  dsimp -failIfUnchanged only
  repeat' with_reducible first | assumption | (intro _) | apply State.zeroAcc_keeps | apply State.updLay_keeps | (refine kept_foldl ?_ (fun _ _ _ => ?_)) | (refine kept_foldl1 ?_ (fun _ _ _ => ?_)) | (refine kept_foldl2 ?_ (fun _ _ _ => ?_)) | dsimp only

theorem State.loadWords_keeps {qq : List Instr} (s : State) (sp : Spire) (a : Nat) (n : Nat) (h_s : Kept qq s) :
    Kept qq (State.loadWords s sp a n).1 := by
  unfold State.loadWords
  dsimp -failIfUnchanged only
  repeat' with_reducible first | assumption | (intro _) | apply State.busWord_keeps | (refine kept_foldl ?_ (fun _ _ _ => ?_)) | (refine kept_foldl1 ?_ (fun _ _ _ => ?_)) | (refine kept_foldl2 ?_ (fun _ _ _ => ?_)) | dsimp only

theorem State.moverWrites_keeps {qq : List Instr} (s : State) (sp : Spire) (c : List Word) (h_s : Kept qq s) :
    Kept qq (State.moverWrites s sp c) := by
  unfold State.moverWrites
  dsimp -failIfUnchanged only
  repeat' with_reducible first | assumption | (intro _) | apply State.updLay_keeps | apply kept_ite | dsimp only | (apply kept_mk; dsimp only; apply kept_un) | split

theorem State.movePush_keeps {qq : List Instr} (s : State) (sp : Spire) (cmds : List (List Word)) (r : MRun) (h_s : Kept qq s) :
    Kept qq (State.movePush s sp cmds r) := by
  unfold State.movePush
  dsimp -failIfUnchanged only
  repeat' with_reducible first | assumption | (intro _) | apply State.moverWrites_keeps | apply State.setRoutine_keeps | apply State.moverPush_keeps | apply kept_ite | apply kept_ite1 | (refine kept_foldl ?_ (fun _ _ _ => ?_)) | (refine kept_foldl1 ?_ (fun _ _ _ => ?_)) | (refine kept_foldl2 ?_ (fun _ _ _ => ?_)) | dsimp only | (apply kept_mk; dsimp only; apply kept_un) | split

theorem State.moveGo_keeps {qq : List Instr} (s : State) (sp : Spire) (cmds : List (List Word)) (failed : Nat) (r : MRun) (h_s : Kept qq s) :
    Kept qq (State.moveGo s sp cmds failed r) := by
  unfold State.moveGo
  dsimp -failIfUnchanged only
  repeat' with_reducible first | assumption | (intro _) | apply State.movePush_keeps | apply State.imgPost_keeps | apply State.updSpire_keeps | apply kept_ite | dsimp only | (apply kept_mk; dsimp only; apply kept_un) | split

theorem State.parityOut_keeps {qq : List Instr} (s : State) (sp : Spire) (h_s : Kept qq s) :
    Kept qq (State.parityOut s sp) := by
  unfold State.parityOut
  dsimp -failIfUnchanged only
  repeat' with_reducible first | assumption | (intro _) | apply State.imgPost_keeps | apply State.busCheck_keeps | apply State.busWrite_keeps | apply State.busRead_keeps | apply kept_ite | apply kept_ite1 | dsimp only | split

theorem State.readBegin_keeps {qq : List Instr} (s : State) (sp : Spire) (h_s : Kept qq s) :
    Kept qq (State.readBegin s sp) := by
  unfold State.readBegin
  dsimp -failIfUnchanged only
  repeat' with_reducible first | assumption | apply State.imgPlan_keeps | apply State.armRead_keeps | apply State.imgSync_keeps | apply State.captr_keeps | apply kept_ite | dsimp only | (refine kept_pair (by assumption) ?_) | (refine kept_opt (by assumption) ?_) | (refine kept_opt1 (by assumption) ?_) | (apply kept_mk; dsimp only; apply kept_un) | split

theorem State.readGo_keeps {qq : List Instr} (s : State) (sp : Spire) (r : MRun) (h_s : Kept qq s) :
    Kept qq (State.readGo s sp r) := by
  unfold State.readGo
  dsimp -failIfUnchanged only
  repeat' with_reducible first | assumption | (intro _) | apply State.armRead_keeps | apply State.imgSync_keeps | apply State.imgWait_keeps | apply State.imgPost_keeps | apply kept_ite | dsimp only | (apply kept_mk; dsimp only; apply kept_un) | split

theorem State.storeAll_keeps {qq : List Instr} (s : State) (sp : Spire) (l : List (Nat × Nat)) (h_s : Kept qq s) :
    Kept qq (State.storeAll s sp l).1 := by
  unfold State.storeAll
  dsimp -failIfUnchanged only
  repeat' with_reducible first | assumption | (intro _) | apply State.busWrite_keeps | apply kept_ite | apply kept_ite1 | (refine kept_foldl ?_ (fun _ _ _ => ?_)) | (refine kept_foldl1 ?_ (fun _ _ _ => ?_)) | (refine kept_foldl2 ?_ (fun _ _ _ => ?_)) | dsimp only | split

theorem State.seekBegin_keeps {qq : List Instr} (s : State) (sp : Spire) (h_s : Kept qq s) :
    Kept qq (State.seekBegin s sp) := by
  unfold State.seekBegin
  dsimp -failIfUnchanged only
  repeat' with_reducible first | assumption | (intro _) | apply State.storeAll_keeps | apply State.setRoutine_keeps | apply State.busCheck_keeps | apply kept_ite | apply kept_ite1 | dsimp only | (apply kept_mk; dsimp only; apply kept_un) | split

theorem State.seekGo_keeps {qq : List Instr} (s : State) (sp : Spire) (_r : MRun) (h_s : Kept qq s) :
    Kept qq (State.seekGo s sp _r) := by
  unfold State.seekGo
  dsimp -failIfUnchanged only
  repeat' with_reducible first | assumption | apply State.imgPost_keeps | apply kept_ite | dsimp only | split

theorem State.slipMap_keeps {qq : List Instr} (s : State) (t : Tower) (h : Nat) (b : Nat) (tail : List (Nat × List Byte)) (h_s : Kept qq s) :
    Kept qq (State.slipMap s t h b tail) := by
  unfold State.slipMap
  dsimp -failIfUnchanged only
  repeat' with_reducible first | assumption | (intro _) | apply State.updLay_keeps | dsimp only | (apply kept_mk; dsimp only; apply kept_un)

theorem State.switchBegin_keeps {qq : List Instr} (s : State) (sp : Spire) (h_s : Kept qq s) :
    Kept qq (State.switchBegin s sp) := by
  unfold State.switchBegin
  dsimp -failIfUnchanged only
  repeat' with_reducible first | assumption | (intro _) | apply State.storeAll_keeps | apply State.loadWords_keeps | apply State.setRoutine_keeps | apply State.busCheck_keeps | apply kept_ite | apply kept_ite1 | dsimp only | (apply kept_mk; dsimp only; apply kept_un) | split

theorem State.switchGo_keeps {qq : List Instr} (s : State) (sp : Spire) (_r : MRun) (h_s : Kept qq s) :
    Kept qq (State.switchGo s sp _r) := by
  unfold State.switchGo
  dsimp -failIfUnchanged only
  repeat' with_reducible first | assumption | apply State.imgPost_keeps | apply kept_ite | dsimp only | split

theorem State.writeBegin_keeps {qq : List Instr} (s : State) (sp : Spire) (h_s : Kept qq s) :
    Kept qq (State.writeBegin s sp) := by
  unfold State.writeBegin
  dsimp -failIfUnchanged only
  repeat' with_reducible first | assumption | (intro _) | apply State.imgPlan_keeps | apply State.armWrite_keeps | apply State.armRead_keeps | apply State.imgSync_keeps | apply State.busCheck_keeps | apply State.busWord_keeps | apply State.emitr_keeps | apply State.captr_keeps | apply kept_ite | apply kept_ite1 | dsimp only | (refine kept_pair (by assumption) ?_) | (refine kept_opt (by assumption) ?_) | (refine kept_opt1 (by assumption) ?_) | (apply kept_mk; dsimp only; apply kept_un) | split

theorem State.writeGo_keeps {qq : List Instr} (s : State) (sp : Spire) (r : MRun) (h_s : Kept qq s) :
    Kept qq (State.writeGo s sp r) := by
  unfold State.writeGo
  dsimp -failIfUnchanged only
  repeat' with_reducible first | assumption | (intro _) | apply State.layWrite_keeps | apply State.armWrite_keeps | apply State.writeEnd_keeps | apply State.armRead_keeps | apply State.imgSync_keeps | apply State.imgWait_keeps | apply State.imgPost_keeps | apply kept_ite | dsimp only | (apply kept_mk; dsimp only; apply kept_un) | split

theorem execAngleEvent_keeps {qq : List Instr} (sp : Spire) (s : State) (h_s : Kept qq s) :
    Out.Kept qq (execAngleEvent sp s) := by
  unfold execAngleEvent
  dsimp -failIfUnchanged only
  repeat' with_reducible first | assumption | (intro _) | apply State.image_keeps | apply State.eventGo_keeps | apply State.eventBegin_keeps | apply kept_next | apply kept_ite3 | apply kept_ite | dsimp only | split

theorem execHash_keeps {qq : List Instr} (sp : Spire) (s : State) (h_s : Kept qq s) :
    Out.Kept qq (execHash sp s) := by
  unfold execHash
  dsimp -failIfUnchanged only
  repeat' with_reducible first | assumption | (intro _) | apply State.image_keeps | apply State.hashGo_keeps | apply State.imgIssue_keeps | apply kept_next | apply kept_ite3 | apply kept_ite | dsimp only | (apply kept_mk; dsimp only; apply kept_un) | split

theorem execHeadSwitch_keeps {qq : List Instr} (sp : Spire) (s : State) (h_s : Kept qq s) :
    Out.Kept qq (execHeadSwitch sp s) := by
  unfold execHeadSwitch
  dsimp -failIfUnchanged only
  repeat' with_reducible first | assumption | (intro _) | apply State.switchGo_keeps | apply State.switchBegin_keeps | apply State.image_keeps | apply kept_next | apply kept_ite3 | apply kept_ite | dsimp only | split

theorem execMoveRun_keeps {qq : List Instr} (sp : Spire) (cmds : List (List Word)) (failed : Nat) (s : State) (h_s : Kept qq s) :
    Out.Kept qq (execMoveRun sp cmds failed s) := by
  unfold execMoveRun
  dsimp -failIfUnchanged only
  repeat' with_reducible first | assumption | (intro _) | apply State.moveGo_keeps | apply State.movePush_keeps | apply State.image_keeps | apply kept_next | apply kept_ite3 | apply kept_ite | dsimp only | (apply kept_mk; dsimp only; apply kept_un) | split

theorem execParityAcc_keeps {qq : List Instr} (sp : Spire) (s : State) (h_s : Kept qq s) :
    Out.Kept qq (execParityAcc sp s) := by
  unfold execParityAcc
  dsimp -failIfUnchanged only
  repeat' with_reducible first | assumption | (intro _) | apply State.image_keeps | apply State.accGo_keeps | apply State.imgIssue_keeps | apply kept_next | apply kept_ite3 | apply kept_ite | dsimp only | (apply kept_mk; dsimp only; apply kept_un) | split

theorem execParityOut_keeps {qq : List Instr} (sp : Spire) (s : State) (h_s : Kept qq s) :
    Out.Kept qq (execParityOut sp s) := by
  unfold execParityOut
  dsimp -failIfUnchanged only
  repeat' with_reducible first | assumption | (intro _) | apply State.parityOut_keeps | apply State.image_keeps | apply kept_next | apply kept_ite3 | apply kept_ite | dsimp only | split

theorem execReadRun_keeps {qq : List Instr} (sp : Spire) (s : State) (h_s : Kept qq s) :
    Out.Kept qq (execReadRun sp s) := by
  unfold execReadRun
  dsimp -failIfUnchanged only
  repeat' with_reducible first | assumption | (intro _) | apply State.readGo_keeps | apply State.readBegin_keeps | apply State.image_keeps | apply kept_next | apply kept_ite3 | apply kept_ite | dsimp only | split

theorem execRebuild_keeps {qq : List Instr} (sp : Spire) (s : State) (h_s : Kept qq s) :
    Out.Kept qq (execRebuild sp s) := by
  unfold execRebuild
  dsimp -failIfUnchanged only
  repeat' with_reducible first | assumption | (intro _) | apply State.image_keeps | apply State.imgIssue_keeps | apply State.imgPost_keeps | apply State.ef0Take_keeps | apply kept_next | apply kept_ite3 | apply kept_ite | dsimp only | (apply kept_mk; dsimp only; apply kept_un) | split

theorem execSeek_keeps {qq : List Instr} (sp : Spire) (s : State) (h_s : Kept qq s) :
    Out.Kept qq (execSeek sp s) := by
  unfold execSeek
  dsimp -failIfUnchanged only
  repeat' with_reducible first | assumption | (intro _) | apply State.seekGo_keeps | apply State.seekBegin_keeps | apply State.image_keeps | apply kept_next | apply kept_ite3 | apply kept_ite | dsimp only | split

theorem execTailScan_keeps {qq : List Instr} (sp : Spire) (tail : List (Nat × List Byte)) (head : Nat) (band : Nat) (status : Nat) (s : State) (h_s : Kept qq s) :
    Out.Kept qq (execTailScan sp tail head band status s) := by
  unfold execTailScan
  dsimp -failIfUnchanged only
  repeat' with_reducible first | assumption | (intro _) | apply State.slipMap_keeps | apply State.image_keeps | apply State.imgPost_keeps | apply kept_next | apply kept_ite3 | apply kept_ite | dsimp only | split

theorem execWriteRun_keeps {qq : List Instr} (sp : Spire) (s : State) (h_s : Kept qq s) :
    Out.Kept qq (execWriteRun sp s) := by
  unfold execWriteRun
  dsimp -failIfUnchanged only
  repeat' with_reducible first | assumption | (intro _) | apply State.writeGo_keeps | apply State.writeBegin_keeps | apply State.image_keeps | apply kept_next | apply kept_ite3 | apply kept_ite | dsimp only | split

end Sys2Proof.Machine
end

