-- ==== Sys2Proof/Laws/KeepFwk.lean ====
section
/-! SUPPORT. Each operation of Machine/Fwk.lean leaves the register file and memory canonical and the queue as it is. -/

set_option linter.unusedTactic false
set_option linter.unreachableTactic false
set_option maxRecDepth 8000

namespace Sys2Proof.Machine

theorem State.fabricWrite_keeps {qq : List Instr} (s : State) (port : Nat) (addr : Nat) (size : Nat) (val : Word) (h_s : Kept qq s) :
    Kept qq (State.fabricWrite s port addr size val) := by
  unfold State.fabricWrite
  dsimp -failIfUnchanged only
  repeat' with_reducible first | assumption | (intro _) | apply State.drainSteps_keeps | apply State.respond_keeps | apply State.regStore_keeps | apply kept_ite | apply kept_ite1 | dsimp only | (apply kept_mk; dsimp only; apply kept_un) | split

theorem State.lanCycle_keeps {qq : List Instr} (s : State) (h_s : Kept qq s) :
    Kept qq (State.lanCycle s) := by
  unfold State.lanCycle
  dsimp -failIfUnchanged only
  repeat' with_reducible first | assumption | (intro _) | apply State.updLan_keeps | dsimp only | (apply kept_mk; dsimp only; apply kept_un)

theorem State.refTick_keeps {qq : List Instr} (s : State) (h_s : Kept qq s) :
    Kept qq (State.refTick s) := by
  unfold State.refTick
  dsimp -failIfUnchanged only
  repeat' with_reducible first | assumption | apply kept_ite | dsimp only | (apply kept_mk; dsimp only; apply kept_un) | split

theorem State.srvCycle_keeps {qq : List Instr} (s : State) (h_s : Kept qq s) :
    Kept qq (State.srvCycle s) := by
  unfold State.srvCycle
  dsimp -failIfUnchanged only
  repeat' with_reducible first | assumption | (intro _) | apply State.updSrv_keeps | dsimp only | (apply kept_mk; dsimp only; apply kept_un)

theorem State.stepTick_keeps {qq : List Instr} (s : State) (h_s : Kept qq s) :
    Kept qq (State.stepTick s) := by
  unfold State.stepTick
  dsimp -failIfUnchanged only
  repeat' with_reducible first | assumption | apply State.drainSteps_keeps | apply kept_ite | dsimp only | split

theorem State.tick_keeps {qq : List Instr} (s : State) (h_s : Kept qq s) :
    Kept qq (State.tick s) := by
  unfold State.tick
  dsimp -failIfUnchanged only
  repeat' with_reducible first | assumption | (intro _) | apply State.stepTick_keeps | apply State.srvCycle_keeps | apply State.refTick_keeps | apply State.lanCycle_keeps | apply State.btpDrain_keeps | apply State.atbCycle_keeps | apply State.capSettle_keeps | apply State.updFwk_keeps | apply kept_ite | dsimp only | (apply kept_mk; dsimp only; apply kept_un) | split

theorem execExpertKeyWrite_keeps {qq : List Instr} (blk : Nat) (inst : Nat) (page : Nat) (val : Word) (s : State) (h_s : Kept qq s) :
    Out.Kept qq (execExpertKeyWrite blk inst page val s) := by
  unfold execExpertKeyWrite
  dsimp -failIfUnchanged only
  repeat' with_reducible first | assumption | apply State.keyWrite_keeps | apply kept_next | apply kept_ite3 | apply kept_ite | dsimp only | split

theorem execIntForceWrite_keeps {qq : List Instr} (blk : Nat) (inst : Nat) (page : Nat) (val : Word) (s : State) (h_s : Kept qq s) :
    Out.Kept qq (execIntForceWrite blk inst page val s) := by
  unfold execIntForceWrite
  dsimp -failIfUnchanged only
  repeat' with_reducible first | assumption | (intro _) | apply State.intForce_keeps | apply State.gated_keeps | apply kept_next | apply kept_ite3 | dsimp only

theorem execMbxDoorbellSet_keeps {qq : List Instr} (val : Word) (s : State) (h_s : Kept qq s) :
    Out.Kept qq (execMbxDoorbellSet val s) := by
  unfold execMbxDoorbellSet
  dsimp -failIfUnchanged only
  repeat' with_reducible first | assumption | (intro _) | apply State.mbxSet_keeps | apply State.gated_keeps | apply kept_next | apply kept_ite3 | dsimp only

theorem execRegisterWrite_keeps {qq : List Instr} (port : Nat) (addr : Nat) (size : Nat) (val : Word) (s : State) (h_s : Kept qq s) :
    Out.Kept qq (execRegisterWrite port addr size val s) := by
  unfold execRegisterWrite
  dsimp -failIfUnchanged only
  repeat' with_reducible first | assumption | apply State.fabricWrite_keeps | apply kept_next | apply kept_ite3 | apply kept_ite | dsimp only | split

end Sys2Proof.Machine
end

