-- ==== Sys2Proof/Laws/HoldFrame.lean ====
section
/-! SUPPORT. The key slots, the Dome and the objects are as before. The rules by which a proof goes through conditionals, folds and updates of other fields. -/

namespace Sys2Proof.Machine

/-- The key slots, the Dome and the objects are as before. -/
def HoldIs (q : KeySlots × DomState × ObjState) (s : State) : Prop := (s.keys, s.dom, s.obj) = q

/-- The same of the next state of a meaning. -/
def Out.HoldIs (q : KeySlots × DomState × ObjState) (o : Out) : Prop :=
  match o with
  | .next t => Sys2Proof.Machine.HoldIs q t
  | _ => True

variable {q : KeySlots × DomState × ObjState}

theorem hold_next {t : State} (h : HoldIs q t) : Out.HoldIs q (.next t) := h
theorem hold_mk {t : State} (h : (t.keys, t.dom, t.obj) = q) : HoldIs q t := h
theorem hold_un {s : State} (h : HoldIs q s) : (s.keys, s.dom, s.obj) = q := h

theorem hold_ite {c : Prop} [Decidable c] {s t : State} (h1 : HoldIs q s) (h2 : HoldIs q t) : HoldIs q (if c then s else t) := by
  split
  · exact h1
  · exact h2

theorem hold_ite1 {c : Prop} [Decidable c] {α : Type} {s t : State × α} (h1 : HoldIs q s.1) (h2 : HoldIs q t.1) :
    HoldIs q (if c then s else t).1 := by
  split
  · exact h1
  · exact h2

theorem hold_ite3 {c : Prop} [Decidable c] {o p : Out} (h1 : Out.HoldIs q o) (h2 : Out.HoldIs q p) : Out.HoldIs q (if c then o else p) := by
  split
  · exact h1
  · exact h2

theorem hold_foldl {α : Type} {f : State → α → State} {l : List α} {s : State} (hs : HoldIs q s)
    (h : ∀ s x, HoldIs q s → HoldIs q (f s x)) : HoldIs q (l.foldl f s) := by
  induction l generalizing s with
  | nil => exact hs
  | cons x r ih => exact ih (h s x hs)

theorem hold_foldl1 {α β : Type} {f : State × β → α → State × β} {l : List α} {p : State × β} (hs : HoldIs q p.1)
    (h : ∀ p x, HoldIs q p.1 → HoldIs q (f p x).1) : HoldIs q (l.foldl f p).1 := by
  induction l generalizing p with
  | nil => exact hs
  | cons x r ih => exact ih (h p x hs)

theorem hold_foldl2 {α β γ : Type} {f : (State × β) × γ → α → (State × β) × γ} {l : List α} {p : (State × β) × γ} (hs : HoldIs q p.1.1)
    (h : ∀ p x, HoldIs q p.1.1 → HoldIs q (f p x).1.1) : HoldIs q (l.foldl f p).1.1 := by
  induction l generalizing p with
  | nil => exact hs
  | cons x r ih => exact ih (h p x hs)

/-- A state that may be none is kept when it is one. -/
def OptHoldIs (q : KeySlots × DomState × ObjState) (o : Option State) : Prop := ∀ r, o = some r → HoldIs q r
def OptHoldIs1 {α : Type} (q : KeySlots × DomState × ObjState) (o : Option (State × α)) : Prop := ∀ r, o = some r → HoldIs q r.1

theorem hold_pair {α : Type} {p : State × α} {s : State} {x : α} (e : p = (s, x)) (h : HoldIs q p.1) : HoldIs q s := by
  subst e
  exact h

theorem hold_id {s : State} (h : HoldIs q s) : HoldIs q (id s) := h

theorem hold_opt {o : Option State} {s : State} (e : o = some s) (h : OptHoldIs q o) : HoldIs q s := h s e

theorem hold_opt1 {α : Type} {o : Option (State × α)} {s : State} {x : α} (e : o = some (s, x)) (h : OptHoldIs1 q o) : HoldIs q s := h (s, x) e

theorem optHoldIs_none : OptHoldIs q none := fun _ h => by cases h
theorem optHoldIs_some {s : State} (h : HoldIs q s) : OptHoldIs q (some s) := fun _ e => by cases e; exact h
theorem optHoldIs_ite {c : Prop} [Decidable c] {o p : Option State} (h1 : OptHoldIs q o) (h2 : OptHoldIs q p) :
    OptHoldIs q (if c then o else p) := by
  split
  · exact h1
  · exact h2


theorem hold_setReg {s : State} (h : HoldIs q s) (a : Nat) (v : Word) : HoldIs q (s.setReg a v) := h

theorem hold_setByte {s : State} (h : HoldIs q s) (a : Nat) (v : Byte) : HoldIs q (s.setByte a v) := h

end Sys2Proof.Machine
end

