-- ==== Sys2Proof/Laws/HoldFrame1.lean ====
section
/-! SUPPORT. The key slots, the Dome and the objects are as before: the operations and commands for which this holds, part 1. -/

set_option linter.unusedTactic false
set_option linter.unreachableTactic false
set_option maxRecDepth 8000

namespace Sys2Proof.Machine

theorem State.activity_holdIs {qq : KeySlots × DomState × ObjState} (s : State) (h_s : HoldIs qq s) :
    HoldIs qq (State.activity s) := by
  unfold State.activity
  dsimp -failIfUnchanged only
  repeat' with_reducible first | assumption | dsimp only | (apply hold_mk; dsimp only; apply hold_un)

theorem State.setReg_holdIs {q : KeySlots × DomState × ObjState} (s : State) (a : Nat) (v : Word) (h_s : HoldIs q s) : HoldIs q (State.setReg s a v) :=
  hold_setReg h_s a v

theorem State.wr_holdIs {qq : KeySlots × DomState × ObjState} (s : State) (f : Fld) (x : Nat) (h_s : HoldIs qq s) :
    HoldIs qq (State.wr s f x) := by
  unfold State.wr
  dsimp -failIfUnchanged only
  repeat' with_reducible first | assumption | apply State.setReg_holdIs | dsimp only

theorem State.setSt_holdIs {qq : KeySlots × DomState × ObjState} (s : State) (b : Nat) (i : Nat) (v : Nat) (h_s : HoldIs qq s) :
    HoldIs qq (State.setSt s b i v) := by
  unfold State.setSt
  dsimp -failIfUnchanged only
  repeat' with_reducible first | assumption | apply State.wr_holdIs | dsimp only

theorem State.wb_holdIs {qq : KeySlots × DomState × ObjState} (s : State) (f : Fld) (b : Bool) (h_s : HoldIs qq s) :
    HoldIs qq (State.wb s f b) := by
  unfold State.wb
  dsimp -failIfUnchanged only
  repeat' with_reducible first | assumption | apply State.wr_holdIs | dsimp only

theorem State.setEn_holdIs {qq : KeySlots × DomState × ObjState} (s : State) (b : Nat) (i : Nat) (v : Bool) (h_s : HoldIs qq s) :
    HoldIs qq (State.setEn s b i v) := by
  unfold State.setEn
  dsimp -failIfUnchanged only
  repeat' with_reducible first | assumption | apply State.wb_holdIs | dsimp only

theorem State.beginStop_holdIs {qq : KeySlots × DomState × ObjState} (s : State) (b : Nat) (i : Nat) (h_s : HoldIs qq s) :
    HoldIs qq (State.beginStop s b i) := by
  unfold State.beginStop
  dsimp -failIfUnchanged only
  repeat' with_reducible first | assumption | apply State.setEn_holdIs | apply State.setSt_holdIs | dsimp only

theorem State.dropBlock_holdIs {q : KeySlots × DomState × ObjState} (s : State) (b i : Nat) (h_s : HoldIs q s) : HoldIs q (State.dropBlock s b i) := h_s

theorem State.repairShow_holdIs {qq : KeySlots × DomState × ObjState} (s : State) (h_s : HoldIs qq s) :
    HoldIs qq (State.repairShow s) := by
  unfold State.repairShow
  dsimp -failIfUnchanged only
  repeat' with_reducible first | assumption | apply State.wb_holdIs | apply State.wr_holdIs | apply hold_ite | dsimp only | split

theorem State.blockReset_holdIs {qq : KeySlots × DomState × ObjState} (s : State) (e : Nat × Nat) (h_s : HoldIs qq s) :
    HoldIs qq (State.blockReset s e) := by
  unfold State.blockReset
  dsimp -failIfUnchanged only
  repeat' with_reducible first | assumption | (intro _) | apply State.repairShow_holdIs | apply State.dropBlock_holdIs | apply hold_ite | apply hold_ite1 | dsimp only | (apply hold_mk; dsimp only; apply hold_un) | split

theorem State.bump_holdIs {qq : KeySlots × DomState × ObjState} (s : State) (f : Fld) (k : Nat) (h_s : HoldIs qq s) :
    HoldIs qq (State.bump s f k) := by
  unfold State.bump
  dsimp -failIfUnchanged only
  repeat' with_reducible first | assumption | apply State.wr_holdIs | dsimp only

theorem State.setRpend_holdIs {qq : KeySlots × DomState × ObjState} (s : State) (b : Nat) (i : Nat) (v : Bool) (h_s : HoldIs qq s) :
    HoldIs qq (State.setRpend s b i v) := by
  unfold State.setRpend
  dsimp -failIfUnchanged only
  repeat' with_reducible first | assumption | apply State.wb_holdIs | dsimp only

theorem State.updFwk_holdIs {qq : KeySlots × DomState × ObjState} (s : State) (f : FwkState → FwkState) (h_s : HoldIs qq s) :
    HoldIs qq (State.updFwk s f) := by
  unfold State.updFwk
  dsimp -failIfUnchanged only
  repeat' with_reducible first | assumption | (intro _) | dsimp only | (apply hold_mk; dsimp only; apply hold_un)

theorem State.disable_holdIs {qq : KeySlots × DomState × ObjState} (s : State) (b : Nat) (i : Nat) (stop : State → State) (h_s : HoldIs qq s) (h_stop : ∀ (x0 : State), HoldIs qq x0 → HoldIs qq (stop x0)) :
    HoldIs qq (State.disable s b i stop) := by
  unfold State.disable
  dsimp -failIfUnchanged only
  repeat' with_reducible first | assumption | (intro _) | apply State.updFwk_holdIs | apply State.setRpend_holdIs | apply State.beginStop_holdIs | apply State.setEn_holdIs | apply State.setSt_holdIs | apply h_stop | apply hold_ite | dsimp only | (apply hold_mk; dsimp only; apply hold_un) | split

theorem State.drawn_holdIs {qq : KeySlots × DomState × ObjState} (s : State) (h_s : HoldIs qq s) :
    HoldIs qq (State.drawn s) := by
  unfold State.drawn
  dsimp -failIfUnchanged only
  repeat' with_reducible first | assumption | dsimp only | (apply hold_mk; dsimp only; apply hold_un)

theorem State.faultStop_holdIs {qq : KeySlots × DomState × ObjState} (s : State) (b : Nat) (i : Nat) (shut : State → State) (h_s : HoldIs qq s) (h_shut : ∀ (x0 : State), HoldIs qq x0 → HoldIs qq (shut x0)) :
    HoldIs qq (State.faultStop s b i shut) := by
  unfold State.faultStop
  dsimp -failIfUnchanged only
  repeat' with_reducible first | assumption | (intro _) | apply State.updFwk_holdIs | apply State.setRpend_holdIs | apply State.setEn_holdIs | apply State.setSt_holdIs | apply h_shut | apply hold_ite | dsimp only | (apply hold_mk; dsimp only; apply hold_un) | split

theorem State.gated_holdIs {qq : KeySlots × DomState × ObjState} (s : State) (a : Nat) (f : State → State) (h_s : HoldIs qq s) (h_f : ∀ (x0 : State), HoldIs qq x0 → HoldIs qq (f x0)) :
    HoldIs qq (State.gated s a f) := by
  unfold State.gated
  dsimp -failIfUnchanged only
  repeat' with_reducible first | assumption | (intro _) | apply State.wr_holdIs | apply h_f | apply hold_ite | dsimp only | split

theorem State.irq_holdIs {qq : KeySlots × DomState × ObjState} (s : State) (b : Nat) (i : Nat) (p : Nat) (bit : Nat) (h_s : HoldIs qq s) :
    HoldIs qq (State.irq s b i p bit) := by
  unfold State.irq
  dsimp -failIfUnchanged only
  repeat' with_reducible first | assumption | apply State.wr_holdIs | dsimp only

theorem State.hwPost_holdIs {qq : KeySlots × DomState × ObjState} (s : State) (code : Nat) (sev : Nat) (source : Nat) (payload : List Byte) (h_s : HoldIs qq s) :
    HoldIs qq (State.hwPost s code sev source payload) := by
  unfold State.hwPost
  dsimp -failIfUnchanged only
  repeat' with_reducible first | assumption | (intro _) | apply State.irq_holdIs | apply State.bump_holdIs | apply hold_ite | dsimp only | (apply hold_mk; dsimp only; apply hold_un) | split

theorem State.levelShow_holdIs {qq : KeySlots × DomState × ObjState} (s : State) (h_s : HoldIs qq s) :
    HoldIs qq (State.levelShow s) := by
  unfold State.levelShow
  dsimp -failIfUnchanged only
  repeat' with_reducible first | assumption | (intro _) | apply State.wb_holdIs | apply State.wr_holdIs | apply hold_ite | dsimp only | (apply hold_mk; dsimp only; apply hold_un) | split

theorem State.setByte_holdIs {q : KeySlots × DomState × ObjState} (s : State) (a : Nat) (v : Byte) (h_s : HoldIs q s) : HoldIs q (State.setByte s a v) :=
  hold_setByte h_s a v

theorem State.setBytes_holdIs {q : KeySlots × DomState × ObjState} (s : State) (a : Nat) (l : List Byte) (h_s : HoldIs q s) : HoldIs q (State.setBytes s a l) := by
  induction l generalizing s a with
  | nil => exact h_s
  | cons v r ih => exact ih _ _ (State.setByte_holdIs s a v h_s)

theorem State.setWord_holdIs {qq : KeySlots × DomState × ObjState} (s : State) (a : Nat) (v : Word) (h_s : HoldIs qq s) :
    HoldIs qq (State.setWord s a v) := by
  unfold State.setWord
  dsimp -failIfUnchanged only
  repeat' with_reducible first | assumption | apply State.setBytes_holdIs | dsimp only

theorem State.spiresReset_holdIs {qq : KeySlots × DomState × ObjState} (s : State) (cls : Nat) (h_s : HoldIs qq s) :
    HoldIs qq (State.spiresReset s cls) := by
  unfold State.spiresReset
  dsimp -failIfUnchanged only
  repeat' with_reducible first | assumption | (apply hold_id; assumption) | (intro _) | apply hold_next | apply hold_ite | apply hold_ite1 | apply hold_ite3 | (refine hold_foldl ?_ (fun _ _ _ => ?_)) | (refine hold_foldl1 ?_ (fun _ _ _ => ?_)) | (refine hold_foldl2 ?_ (fun _ _ _ => ?_)) | (intro _) | dsimp only | (refine hold_pair (by assumption) ?_) | (refine hold_opt (by assumption) ?_) | (refine hold_opt1 (by assumption) ?_) | apply optHoldIs_some | apply optHoldIs_none | apply optHoldIs_ite | (apply hold_mk; dsimp only; apply hold_un) | split

theorem State.softUnit_holdIs {qq : KeySlots × DomState × ObjState} (s : State) (b : Nat) (i : Nat) (h_s : HoldIs qq s) :
    HoldIs qq (State.softUnit s b i) := by
  unfold State.softUnit
  dsimp -failIfUnchanged only
  repeat' with_reducible first | assumption | (intro _) | apply State.spiresReset_holdIs | apply hold_ite | dsimp only | (apply hold_mk; dsimp only; apply hold_un) | split

theorem State.softApply_holdIs {qq : KeySlots × DomState × ObjState} (s : State) (b : Nat) (i : Nat) (h_s : HoldIs qq s) :
    HoldIs qq (State.softApply s b i) := by
  unfold State.softApply
  dsimp -failIfUnchanged only
  repeat' with_reducible first | assumption | apply State.softUnit_holdIs | apply State.levelShow_holdIs | apply State.blockReset_holdIs | dsimp only

theorem State.shutEnd_holdIs {qq : KeySlots × DomState × ObjState} (s : State) (b : Nat) (i : Nat) (h_s : HoldIs qq s) :
    HoldIs qq (State.shutEnd s b i) := by
  unfold State.shutEnd
  dsimp -failIfUnchanged only
  repeat' with_reducible first | assumption | (intro _) | apply State.irq_holdIs | apply State.updFwk_holdIs | apply State.setRpend_holdIs | apply State.setSt_holdIs | apply hold_ite | dsimp only | (apply hold_mk; dsimp only; apply hold_un) | split

theorem State.shutDone_holdIs {qq : KeySlots × DomState × ObjState} (s : State) (b : Nat) (i : Nat) (h_s : HoldIs qq s) :
    HoldIs qq (State.shutDone s b i) := by
  unfold State.shutDone
  dsimp -failIfUnchanged only
  repeat' with_reducible first | assumption | apply State.shutEnd_holdIs | apply State.softApply_holdIs | apply hold_ite | dsimp only | split

theorem State.storeRow_holdIs {qq : KeySlots × DomState × ObjState} (s : State) (a : Nat) (v : Word) (h_s : HoldIs qq s) :
    HoldIs qq (State.storeRow s a v) := by
  unfold State.storeRow
  dsimp -failIfUnchanged only
  repeat' with_reducible first | assumption | (intro _) | apply State.wr_holdIs | apply hold_ite | (refine hold_foldl ?_ (fun _ _ _ => ?_)) | (refine hold_foldl1 ?_ (fun _ _ _ => ?_)) | (refine hold_foldl2 ?_ (fun _ _ _ => ?_)) | dsimp only | split

theorem State.trace_holdIs {qq : KeySlots × DomState × ObjState} (s : State) (group : Nat) (source : Nat) (kind : Nat) (payload : List Byte) (h_s : HoldIs qq s) :
    HoldIs qq (State.trace s group source kind payload) := by
  unfold State.trace
  dsimp -failIfUnchanged only
  repeat' with_reducible first | assumption | (intro _) | apply State.bump_holdIs | apply State.wr_holdIs | apply hold_ite | dsimp only | (apply hold_mk; dsimp only; apply hold_un) | split

theorem State.updAtb_holdIs {qq : KeySlots × DomState × ObjState} (s : State) (f : AtbState → AtbState) (h_s : HoldIs qq s) :
    HoldIs qq (State.updAtb s f) := by
  unfold State.updAtb
  dsimp -failIfUnchanged only
  repeat' with_reducible first | assumption | (intro _) | dsimp only | (refine hold_pair (by assumption) ?_) | (refine hold_opt (by assumption) ?_) | (refine hold_opt1 (by assumption) ?_) | (apply hold_mk; dsimp only; apply hold_un) | split

theorem State.updAtbT_holdIs {qq : KeySlots × DomState × ObjState} (s : State) (t : Tower) (f : AtbTower → AtbTower) (h_s : HoldIs qq s) :
    HoldIs qq (State.updAtbT s t f) := by
  unfold State.updAtbT
  dsimp -failIfUnchanged only
  repeat' with_reducible first | assumption | (intro _) | dsimp only | (refine hold_pair (by assumption) ?_) | (refine hold_opt (by assumption) ?_) | (refine hold_opt1 (by assumption) ?_) | (apply hold_mk; dsimp only; apply hold_un) | split

theorem State.updChn_holdIs {qq : KeySlots × DomState × ObjState} (s : State) (t : Tower) (f : ChnState → ChnState) (h_s : HoldIs qq s) :
    HoldIs qq (State.updChn s t f) := by
  unfold State.updChn
  dsimp -failIfUnchanged only
  repeat' with_reducible first | assumption | (intro _) | dsimp only | (apply hold_mk; dsimp only; apply hold_un)

theorem State.updTwr_holdIs {qq : KeySlots × DomState × ObjState} (s : State) (t : Tower) (f : TwrState → TwrState) (h_s : HoldIs qq s) :
    HoldIs qq (State.updTwr s t f) := by
  unfold State.updTwr
  dsimp -failIfUnchanged only
  repeat' with_reducible first | assumption | (intro _) | dsimp only | (apply hold_mk; dsimp only; apply hold_un)

theorem State.updCpl_holdIs {qq : KeySlots × DomState × ObjState} (s : State) (t : Tower) (f : CplState → CplState) (h_s : HoldIs qq s) :
    HoldIs qq (State.updCpl s t f) := by
  unfold State.updCpl
  dsimp -failIfUnchanged only
  repeat' with_reducible first | assumption | (intro _) | apply State.updTwr_holdIs | dsimp only | (apply hold_mk; dsimp only; apply hold_un)

theorem State.updEng_holdIs {qq : KeySlots × DomState × ObjState} (s : State) (e : Eng) (f : EngState → EngState) (h_s : HoldIs qq s) :
    HoldIs qq (State.updEng s e f) := by
  unfold State.updEng
  dsimp -failIfUnchanged only
  repeat' with_reducible first | assumption | (intro _) | dsimp only | (refine hold_pair (by assumption) ?_) | (refine hold_opt (by assumption) ?_) | (refine hold_opt1 (by assumption) ?_) | (apply hold_mk; dsimp only; apply hold_un) | split

theorem State.updLan_holdIs {qq : KeySlots × DomState × ObjState} (s : State) (t : Tower) (f : LanState → LanState) (h_s : HoldIs qq s) :
    HoldIs qq (State.updLan s t f) := by
  unfold State.updLan
  dsimp -failIfUnchanged only
  repeat' with_reducible first | assumption | (intro _) | apply State.updTwr_holdIs | dsimp only | (apply hold_mk; dsimp only; apply hold_un)

theorem State.updSpire_holdIs {qq : KeySlots × DomState × ObjState} (s : State) (sp : Spire) (f : SpireState → SpireState) (h_s : HoldIs qq s) :
    HoldIs qq (State.updSpire s sp f) := by
  unfold State.updSpire
  dsimp -failIfUnchanged only
  repeat' with_reducible first | assumption | (apply hold_id; assumption) | (intro _) | apply hold_next | apply hold_ite | apply hold_ite1 | apply hold_ite3 | (refine hold_foldl ?_ (fun _ _ _ => ?_)) | (refine hold_foldl1 ?_ (fun _ _ _ => ?_)) | (refine hold_foldl2 ?_ (fun _ _ _ => ?_)) | (intro _) | dsimp only | (refine hold_pair (by assumption) ?_) | (refine hold_opt (by assumption) ?_) | (refine hold_opt1 (by assumption) ?_) | apply optHoldIs_some | apply optHoldIs_none | apply optHoldIs_ite | (apply hold_mk; dsimp only; apply hold_un) | split

theorem State.updSpn_holdIs {qq : KeySlots × DomState × ObjState} (s : State) (f : SpnState → SpnState) (h_s : HoldIs qq s) :
    HoldIs qq (State.updSpn s f) := by
  unfold State.updSpn
  dsimp -failIfUnchanged only
  repeat' with_reducible first | assumption | (intro _) | dsimp only | (refine hold_pair (by assumption) ?_) | (refine hold_opt (by assumption) ?_) | (refine hold_opt1 (by assumption) ?_) | (apply hold_mk; dsimp only; apply hold_un) | split

theorem State.updSrv_holdIs {qq : KeySlots × DomState × ObjState} (s : State) (t : Tower) (f : SrvState → SrvState) (h_s : HoldIs qq s) :
    HoldIs qq (State.updSrv s t f) := by
  unfold State.updSrv
  dsimp -failIfUnchanged only
  repeat' with_reducible first | assumption | (intro _) | dsimp only | (apply hold_mk; dsimp only; apply hold_un)

theorem State.wrI_holdIs {qq : KeySlots × DomState × ObjState} (s : State) (f : Fld) (x : Int) (h_s : HoldIs qq s) :
    HoldIs qq (State.wrI s f x) := by
  unfold State.wrI
  dsimp -failIfUnchanged only
  repeat' with_reducible first | assumption | apply State.wr_holdIs | dsimp only

theorem State.afeClose_holdIs {qq : KeySlots × DomState × ObjState} (s : State) (t : Tower) (b : Bool) (h_s : HoldIs qq s) :
    HoldIs qq (State.afeClose s t b) := by
  unfold State.afeClose
  dsimp -failIfUnchanged only
  repeat' with_reducible first | assumption | (intro _) | apply State.updChn_holdIs | apply State.wr_holdIs | apply hold_ite | dsimp only | (apply hold_mk; dsimp only; apply hold_un) | split

theorem State.afeSet_holdIs {qq : KeySlots × DomState × ObjState} (s : State) (t : Tower) (b : Bool) (g : Nat × Nat) (h_s : HoldIs qq s) :
    HoldIs qq (State.afeSet s t b g) := by
  unfold State.afeSet
  dsimp -failIfUnchanged only
  repeat' with_reducible first | assumption | apply State.wr_holdIs | dsimp only

theorem State.afeOpen_holdIs {qq : KeySlots × DomState × ObjState} (s : State) (t : Tower) (b : Bool) (new : Bool) (h_s : HoldIs qq s) :
    HoldIs qq (State.afeOpen s t b new) := by
  unfold State.afeOpen
  dsimp -failIfUnchanged only
  repeat' with_reducible first | assumption | (intro _) | apply State.afeSet_holdIs | apply hold_ite | dsimp only | split

theorem State.atbEvt_holdIs {qq : KeySlots × DomState × ObjState} (s : State) (kind : Nat) (from_ : Nat) (to_ : Nat) (e : Int) (h_s : HoldIs qq s) :
    HoldIs qq (State.atbEvt s kind from_ to_ e) := by
  unfold State.atbEvt
  dsimp -failIfUnchanged only
  repeat' with_reducible first | assumption | apply State.wrI_holdIs | apply State.wr_holdIs | dsimp only

theorem State.capBits_holdIs {qq : KeySlots × DomState × ObjState} (s : State) (t : Tower) (h_s : HoldIs qq s) :
    HoldIs qq (State.capBits s t) := by
  unfold State.capBits
  dsimp -failIfUnchanged only
  repeat' with_reducible first | assumption | (intro _) | apply State.wb_holdIs | dsimp only

theorem State.setWords_holdIs {q : KeySlots × DomState × ObjState} (s : State) (a : Nat) (l : List Word) (h_s : HoldIs q s) : HoldIs q (State.setWords s a l) := by
  induction l generalizing s a with
  | nil => exact h_s
  | cons v r ih => exact ih _ _ (by unfold State.setWord; exact State.setBytes_holdIs _ _ _ h_s)

theorem State.chnRecord_holdIs {qq : KeySlots × DomState × ObjState} (s : State) (t : Tower) (c : CapPlan) (r : RecInfo) (h_s : HoldIs qq s) :
    HoldIs qq (State.chnRecord s t c r) := by
  unfold State.chnRecord
  dsimp -failIfUnchanged only
  repeat' with_reducible first | assumption | (intro _) | apply State.setWords_holdIs | apply State.irq_holdIs | apply State.bump_holdIs | apply State.wr_holdIs | apply hold_ite | dsimp only | split

theorem State.chnCounts_holdIs {qq : KeySlots × DomState × ObjState} (s : State) (t : Tower) (r : RecInfo) (h_s : HoldIs qq s) :
    HoldIs qq (State.chnCounts s t r) := by
  unfold State.chnCounts
  dsimp -failIfUnchanged only
  repeat' with_reducible first | assumption | (intro _) | apply State.bump_holdIs | apply hold_ite | dsimp only | split

theorem State.sectorSeen_holdIs {qq : KeySlots × DomState × ObjState} (s : State) (t : Tower) (c : CapPlan) (r : RecInfo) (live : Bool) (mode : Nat) (h_s : HoldIs qq s) :
    HoldIs qq (State.sectorSeen s t c r live mode) := by
  unfold State.sectorSeen
  dsimp -failIfUnchanged only
  repeat' with_reducible first | assumption | (intro _) | apply hold_ite | dsimp only | (apply hold_mk; dsimp only; apply hold_un) | split

theorem State.headWarn_holdIs {qq : KeySlots × DomState × ObjState} (s : State) (t : Tower) (f : Fld) (h : Nat) (bit : Nat) (h_s : HoldIs qq s) :
    HoldIs qq (State.headWarn s t f h bit) := by
  unfold State.headWarn
  dsimp -failIfUnchanged only
  repeat' with_reducible first | assumption | apply State.hwPost_holdIs | apply State.irq_holdIs | apply State.wr_holdIs | apply hold_ite | dsimp only | split

theorem State.lanAssist_holdIs {qq : KeySlots × DomState × ObjState} (s : State) (t : Tower) (h_s : HoldIs qq s) :
    HoldIs qq (State.lanAssist s t) := by
  unfold State.lanAssist
  dsimp -failIfUnchanged only
  repeat' with_reducible first | assumption | (intro _) | apply State.updLan_holdIs | apply State.updCpl_holdIs | apply hold_ite | dsimp only | (apply hold_mk; dsimp only; apply hold_un) | split

theorem State.lanLearn_holdIs {qq : KeySlots × DomState × ObjState} (s : State) (t : Tower) (head : Nat) (zone : Nat) (failed : Bool) (eber : Nat) (locals : Nat) (h_s : HoldIs qq s) :
    HoldIs qq (State.lanLearn s t head zone failed eber locals) := by
  unfold State.lanLearn
  dsimp -failIfUnchanged only
  repeat' with_reducible first | assumption | (intro _) | apply State.lanAssist_holdIs | apply State.headWarn_holdIs | apply State.updLan_holdIs | apply State.wr_holdIs | apply hold_ite | dsimp only | (apply hold_mk; dsimp only; apply hold_un) | split

theorem State.note_holdIs {qq : KeySlots × DomState × ObjState} (s : State) (t : Tower) (owner : Nat) (w : Word) (h_s : HoldIs qq s) :
    HoldIs qq (State.note s t owner w) := by
  unfold State.note
  dsimp -failIfUnchanged only
  repeat' with_reducible first | assumption | (intro _) | apply State.updSpire_holdIs | dsimp only | (apply hold_mk; dsimp only; apply hold_un)

theorem State.liveOutcome_holdIs {qq : KeySlots × DomState × ObjState} (s : State) (t : Tower) (c : CapPlan) (r : RecInfo) (h_s : HoldIs qq s) :
    HoldIs qq (State.liveOutcome s t c r) := by
  unfold State.liveOutcome
  dsimp -failIfUnchanged only
  repeat' with_reducible first | assumption | (intro _) | apply State.note_holdIs | apply State.lanLearn_holdIs | apply State.sectorSeen_holdIs | apply State.chnCounts_holdIs | apply State.chnRecord_holdIs | apply State.irq_holdIs | apply State.bump_holdIs | apply hold_ite | dsimp only | split

theorem State.capCut_holdIs {qq : KeySlots × DomState × ObjState} (s : State) (t : Tower) (e : CapPlan × Nat) (h_s : HoldIs qq s) :
    HoldIs qq (State.capCut s t e) := by
  unfold State.capCut
  dsimp -failIfUnchanged only
  repeat' with_reducible first | assumption | (intro _) | apply State.liveOutcome_holdIs | apply State.capBits_holdIs | apply State.updChn_holdIs | apply hold_ite | apply hold_ite1 | dsimp only | (apply hold_mk; dsimp only; apply hold_un) | split

theorem State.capCutAll_holdIs {qq : KeySlots × DomState × ObjState} (s : State) (t : Tower) (h_s : HoldIs qq s) :
    HoldIs qq (State.capCutAll s t) := by
  unfold State.capCutAll
  dsimp -failIfUnchanged only
  repeat' with_reducible first | assumption | (intro _) | apply State.capCut_holdIs | (refine hold_foldl ?_ (fun _ _ _ => ?_)) | (refine hold_foldl1 ?_ (fun _ _ _ => ?_)) | (refine hold_foldl2 ?_ (fun _ _ _ => ?_)) | dsimp only

theorem State.capSettle_holdIs {qq : KeySlots × DomState × ObjState} (s : State) (t : Tower) (h_s : HoldIs qq s) :
    HoldIs qq (State.capSettle s t) := by
  unfold State.capSettle
  dsimp -failIfUnchanged only
  repeat' with_reducible first | assumption | (intro _) | apply State.capBits_holdIs | apply State.updChn_holdIs | apply hold_ite | apply hold_ite1 | (refine hold_foldl ?_ (fun _ _ _ => ?_)) | (refine hold_foldl1 ?_ (fun _ _ _ => ?_)) | (refine hold_foldl2 ?_ (fun _ _ _ => ?_)) | dsimp only | (apply hold_mk; dsimp only; apply hold_un) | split

theorem State.capStart_holdIs {qq : KeySlots × DomState × ObjState} (s : State) (t : Tower) (p : CapPlan) (h_s : HoldIs qq s) :
    HoldIs qq (State.capStart s t p) := by
  unfold State.capStart
  dsimp -failIfUnchanged only
  repeat' with_reducible first | assumption | (intro _) | apply State.liveOutcome_holdIs | apply State.capBits_holdIs | apply State.updChn_holdIs | apply State.bump_holdIs | apply State.wr_holdIs | apply hold_ite | apply hold_ite1 | dsimp only | (refine hold_pair (by assumption) ?_) | (refine hold_opt (by assumption) ?_) | (refine hold_opt1 (by assumption) ?_) | (apply hold_mk; dsimp only; apply hold_un) | split

theorem State.setAG_holdIs {qq : KeySlots × DomState × ObjState} (s : State) (t : Tower) (v : Bool) (h_s : HoldIs qq s) :
    HoldIs qq (State.setAG s t v) := by
  unfold State.setAG
  dsimp -failIfUnchanged only
  repeat' with_reducible first | assumption | apply State.wb_holdIs | dsimp only

theorem State.dropAG_holdIs {qq : KeySlots × DomState × ObjState} (s : State) (t : Tower) (h_s : HoldIs qq s) :
    HoldIs qq (State.dropAG s t) := by
  unfold State.dropAG
  dsimp -failIfUnchanged only
  repeat' with_reducible first | assumption | apply State.setAG_holdIs | apply State.lanAssist_holdIs | apply hold_ite | dsimp only | split

theorem State.sectorEnd_holdIs {qq : KeySlots × DomState × ObjState} (s : State) (t : Tower) (wout : Nat) (h_s : HoldIs qq s) :
    HoldIs qq (State.sectorEnd s t wout) := by
  unfold State.sectorEnd
  dsimp -failIfUnchanged only
  repeat' with_reducible first | assumption | (intro _) | apply State.note_holdIs | apply State.updTwr_holdIs | apply State.irq_holdIs | apply State.bump_holdIs | apply State.wr_holdIs | apply hold_ite | dsimp only | (refine hold_pair (by assumption) ?_) | (refine hold_opt (by assumption) ?_) | (refine hold_opt1 (by assumption) ?_) | (apply hold_mk; dsimp only; apply hold_un) | split

theorem State.cutSector_holdIs {qq : KeySlots × DomState × ObjState} (s : State) (t : Tower) (h_s : HoldIs qq s) :
    HoldIs qq (State.cutSector s t) := by
  unfold State.cutSector
  dsimp -failIfUnchanged only
  repeat' with_reducible first | assumption | apply State.sectorEnd_holdIs | apply hold_ite | dsimp only | (refine hold_pair (by assumption) ?_) | (refine hold_opt (by assumption) ?_) | (refine hold_opt1 (by assumption) ?_) | split

theorem State.dropWG_holdIs {qq : KeySlots × DomState × ObjState} (s : State) (t : Tower) (h_s : HoldIs qq s) :
    HoldIs qq (State.dropWG s t) := by
  unfold State.dropWG
  dsimp -failIfUnchanged only
  repeat' with_reducible first | assumption | apply State.cutSector_holdIs | apply State.wr_holdIs | apply hold_ite | dsimp only | split

theorem State.regate_holdIs {qq : KeySlots × DomState × ObjState} (s : State) (t : Tower) (h_s : HoldIs qq s) :
    HoldIs qq (State.regate s t) := by
  unfold State.regate
  dsimp -failIfUnchanged only
  repeat' with_reducible first | assumption | (intro _) | apply State.dropWG_holdIs | apply State.dropAG_holdIs | apply hold_ite | dsimp only | split

theorem State.closeAG_holdIs {qq : KeySlots × DomState × ObjState} (s : State) (t : Tower) (h_s : HoldIs qq s) :
    HoldIs qq (State.closeAG s t) := by
  unfold State.closeAG
  dsimp -failIfUnchanged only
  repeat' with_reducible first | assumption | (intro _) | apply State.regate_holdIs | apply State.setAG_holdIs | apply State.lanAssist_holdIs | apply State.updLan_holdIs | apply State.wr_holdIs | apply hold_ite | dsimp only | (apply hold_mk; dsimp only; apply hold_un) | split

theorem State.openWG_holdIs {qq : KeySlots × DomState × ObjState} (s : State) (t : Tower) (h_s : HoldIs qq s) :
    HoldIs qq (State.openWG s t) := by
  unfold State.openWG
  dsimp -failIfUnchanged only
  repeat' with_reducible first | assumption | apply State.cutSector_holdIs | apply State.wr_holdIs | apply hold_ite | dsimp only | split

theorem State.openAG_holdIs {qq : KeySlots × DomState × ObjState} (s : State) (t : Tower) (h_s : HoldIs qq s) :
    HoldIs qq (State.openAG s t) := by
  unfold State.openAG
  dsimp -failIfUnchanged only
  repeat' with_reducible first | assumption | (intro _) | apply State.setAG_holdIs | apply State.headWarn_holdIs | apply State.updLan_holdIs | apply State.wr_holdIs | apply hold_ite | dsimp only | (apply hold_mk; dsimp only; apply hold_un) | split

theorem State.winOpen_holdIs {qq : KeySlots × DomState × ObjState} (s : State) (t : Tower) (b : Bool) (h_s : HoldIs qq s) :
    HoldIs qq (State.winOpen s t b) := by
  unfold State.winOpen
  dsimp -failIfUnchanged only
  repeat' with_reducible first | assumption | (intro _) | apply State.capStart_holdIs | apply State.afeOpen_holdIs | apply State.updChn_holdIs | apply hold_ite | (refine hold_foldl ?_ (fun _ _ _ => ?_)) | (refine hold_foldl1 ?_ (fun _ _ _ => ?_)) | (refine hold_foldl2 ?_ (fun _ _ _ => ?_)) | dsimp only | (apply hold_mk; dsimp only; apply hold_un) | split

theorem State.winClose_holdIs {qq : KeySlots × DomState × ObjState} (s : State) (t : Tower) (b : Bool) (h_s : HoldIs qq s) :
    HoldIs qq (State.winClose s t b) := by
  unfold State.winClose
  dsimp -failIfUnchanged only
  repeat' with_reducible first | assumption | (intro _) | apply State.capSettle_holdIs | apply State.afeClose_holdIs | apply State.updChn_holdIs | apply hold_ite | dsimp only | (apply hold_mk; dsimp only; apply hold_un) | split

theorem State.cmpAct_holdIs {qq : KeySlots × DomState × ObjState} (s : State) (t : Tower) (action : Nat) (owner : Nat) (h_s : HoldIs qq s) :
    HoldIs qq (State.cmpAct s t action owner) := by
  unfold State.cmpAct
  dsimp -failIfUnchanged only
  repeat' with_reducible first | assumption | (intro _) | apply State.winClose_holdIs | apply State.winOpen_holdIs | apply State.openAG_holdIs | apply State.openWG_holdIs | apply State.closeAG_holdIs | apply State.updSpire_holdIs | apply State.wr_holdIs | dsimp only | (refine hold_pair (by assumption) ?_) | (refine hold_opt (by assumption) ?_) | (refine hold_opt1 (by assumption) ?_) | (apply hold_mk; dsimp only; apply hold_un) | split

theorem State.cmpActNow_holdIs {qq : KeySlots × DomState × ObjState} (s : State) (t : Tower) (action : Nat) (owner : Nat) (h_s : HoldIs qq s) :
    HoldIs qq (State.cmpActNow s t action owner) := by
  unfold State.cmpActNow
  dsimp -failIfUnchanged only
  repeat' with_reducible first | assumption | (intro _) | apply State.cmpAct_holdIs | apply State.updAtbT_holdIs | apply hold_ite | dsimp only | (apply hold_mk; dsimp only; apply hold_un) | split

theorem State.cmpTrace_holdIs {qq : KeySlots × DomState × ObjState} (s : State) (n : Nat) (status : Nat) (h_s : HoldIs qq s) :
    HoldIs qq (State.cmpTrace s n status) := by
  unfold State.cmpTrace
  dsimp -failIfUnchanged only
  repeat' with_reducible first | assumption | apply State.trace_holdIs | dsimp only

theorem State.cmpEnd_holdIs {qq : KeySlots × DomState × ObjState} (s : State) (n : Nat) (status : Nat) (h_s : HoldIs qq s) :
    HoldIs qq (State.cmpEnd s n status) := by
  unfold State.cmpEnd
  dsimp -failIfUnchanged only
  repeat' with_reducible first | assumption | apply State.cmpTrace_holdIs | apply State.wr_holdIs | dsimp only

theorem State.cmpTell_holdIs {qq : KeySlots × DomState × ObjState} (s : State) (n : Nat) (h_s : HoldIs qq s) :
    HoldIs qq (State.cmpTell s n) := by
  unfold State.cmpTell
  dsimp -failIfUnchanged only
  repeat' with_reducible first | assumption | (intro _) | apply State.updSpire_holdIs | dsimp only | (apply hold_mk; dsimp only; apply hold_un)

theorem State.cmpArm_holdIs {qq : KeySlots × DomState × ObjState} (s : State) (n : Nat) (h_s : HoldIs qq s) :
    HoldIs qq (State.cmpArm s n) := by
  unfold State.cmpArm
  dsimp -failIfUnchanged only
  repeat' with_reducible first | assumption | (intro _) | apply State.cmpTell_holdIs | apply State.cmpEnd_holdIs | apply State.cmpActNow_holdIs | apply State.cutSector_holdIs | apply State.updSpire_holdIs | apply State.irq_holdIs | apply State.wr_holdIs | apply hold_ite | apply hold_ite1 | dsimp only | (apply hold_mk; dsimp only; apply hold_un) | split

theorem State.cmpDisarm_holdIs {qq : KeySlots × DomState × ObjState} (s : State) (n : Nat) (store : State → State) (h_s : HoldIs qq s) (h_store : ∀ (x0 : State), HoldIs qq x0 → HoldIs qq (store x0)) :
    HoldIs qq (State.cmpDisarm s n store) := by
  unfold State.cmpDisarm
  dsimp -failIfUnchanged only
  repeat' with_reducible first | assumption | (intro _) | apply State.cmpTell_holdIs | apply State.cmpEnd_holdIs | apply State.cmpActNow_holdIs | apply h_store | apply hold_ite | dsimp only | split

theorem State.cmpFire_holdIs {qq : KeySlots × DomState × ObjState} (s : State) (n : Nat) (h_s : HoldIs qq s) :
    HoldIs qq (State.cmpFire s n) := by
  unfold State.cmpFire
  dsimp -failIfUnchanged only
  repeat' with_reducible first | assumption | (intro _) | apply State.cmpTell_holdIs | apply State.cmpEnd_holdIs | apply State.cmpTrace_holdIs | apply State.cmpActNow_holdIs | apply State.wr_holdIs | apply hold_ite | dsimp only | split

theorem State.cmpFlush_holdIs {qq : KeySlots × DomState × ObjState} (s : State) (n : Nat) (h_s : HoldIs qq s) :
    HoldIs qq (State.cmpFlush s n) := by
  unfold State.cmpFlush
  dsimp -failIfUnchanged only
  repeat' with_reducible first | assumption | (intro _) | apply State.cmpEnd_holdIs | apply State.cutSector_holdIs | apply hold_ite | dsimp only | split

theorem State.cmpFlushSeq_holdIs {qq : KeySlots × DomState × ObjState} (s : State) (seq : Nat) (h_s : HoldIs qq s) :
    HoldIs qq (State.cmpFlushSeq s seq) := by
  unfold State.cmpFlushSeq
  dsimp -failIfUnchanged only
  repeat' with_reducible first | assumption | (intro _) | apply State.cmpFlush_holdIs | (refine hold_foldl ?_ (fun _ _ _ => ?_)) | (refine hold_foldl1 ?_ (fun _ _ _ => ?_)) | (refine hold_foldl2 ?_ (fun _ _ _ => ?_)) | dsimp only

theorem State.cmpFlushT_holdIs {qq : KeySlots × DomState × ObjState} (s : State) (t : Tower) (h_s : HoldIs qq s) :
    HoldIs qq (State.cmpFlushT s t) := by
  unfold State.cmpFlushT
  dsimp -failIfUnchanged only
  repeat' with_reducible first | assumption | (intro _) | apply State.cmpFlush_holdIs | (refine hold_foldl ?_ (fun _ _ _ => ?_)) | (refine hold_foldl1 ?_ (fun _ _ _ => ?_)) | (refine hold_foldl2 ?_ (fun _ _ _ => ?_)) | dsimp only

theorem State.dropGates_holdIs {qq : KeySlots × DomState × ObjState} (s : State) (t : Tower) (h_s : HoldIs qq s) :
    HoldIs qq (State.dropGates s t) := by
  unfold State.dropGates
  dsimp -failIfUnchanged only
  repeat' with_reducible first | assumption | apply State.dropWG_holdIs | apply State.dropAG_holdIs | dsimp only

theorem State.trcEvent_holdIs {qq : KeySlots × DomState × ObjState} (s : State) (e : Eng) (code : Nat) (h_s : HoldIs qq s) :
    HoldIs qq (State.trcEvent s e code) := by
  unfold State.trcEvent
  dsimp -failIfUnchanged only
  repeat' with_reducible first | assumption | (intro _) | apply State.updEng_holdIs | dsimp only | (apply hold_mk; dsimp only; apply hold_un)

theorem State.winShut_holdIs {qq : KeySlots × DomState × ObjState} (s : State) (t : Tower) (h_s : HoldIs qq s) :
    HoldIs qq (State.winShut s t) := by
  unfold State.winShut
  dsimp -failIfUnchanged only
  repeat' with_reducible first | assumption | (intro _) | apply State.updChn_holdIs | dsimp only | (apply hold_mk; dsimp only; apply hold_un)

theorem State.mediaCut_holdIs {qq : KeySlots × DomState × ObjState} (s : State) (t : Tower) (h_s : HoldIs qq s) :
    HoldIs qq (State.mediaCut s t) := by
  unfold State.mediaCut
  dsimp -failIfUnchanged only
  repeat' with_reducible first | assumption | apply State.winShut_holdIs | apply State.capCutAll_holdIs | dsimp only

theorem State.discontinuity_holdIs {qq : KeySlots × DomState × ObjState} (s : State) (e : Int) (h_s : HoldIs qq s) :
    HoldIs qq (State.discontinuity s e) := by
  unfold State.discontinuity
  dsimp -failIfUnchanged only
  repeat' with_reducible first | assumption | (intro _) | apply State.mediaCut_holdIs | apply State.trcEvent_holdIs | apply State.dropGates_holdIs | apply State.cmpFlushT_holdIs | apply State.atbEvt_holdIs | apply State.updAtbT_holdIs | apply State.updAtb_holdIs | apply State.irq_holdIs | apply State.bump_holdIs | apply State.wr_holdIs | apply hold_ite | (refine hold_foldl ?_ (fun _ _ _ => ?_)) | (refine hold_foldl1 ?_ (fun _ _ _ => ?_)) | (refine hold_foldl2 ?_ (fun _ _ _ => ?_)) | dsimp only | (apply hold_mk; dsimp only; apply hold_un) | split

theorem State.correct_holdIs {qq : KeySlots × DomState × ObjState} (s : State) (e : Int) (h_s : HoldIs qq s) :
    HoldIs qq (State.correct s e) := by
  unfold State.correct
  dsimp -failIfUnchanged only
  repeat' with_reducible first | assumption | (intro _) | apply State.discontinuity_holdIs | apply State.updAtb_holdIs | apply hold_ite | dsimp only | (apply hold_mk; dsimp only; apply hold_un) | split

theorem State.setOtwi_holdIs {qq : KeySlots × DomState × ObjState} (s : State) (t : Tower) (h_s : HoldIs qq s) :
    HoldIs qq (State.setOtwi s t) := by
  unfold State.setOtwi
  dsimp -failIfUnchanged only
  repeat' with_reducible first | assumption | (intro _) | apply State.regate_holdIs | apply State.updSrv_holdIs | apply State.irq_holdIs | apply State.bump_holdIs | apply State.wr_holdIs | apply hold_ite | dsimp only | (apply hold_mk; dsimp only; apply hold_un) | split

theorem State.regateBoth_holdIs {qq : KeySlots × DomState × ObjState} (s : State) (h_s : HoldIs qq s) :
    HoldIs qq (State.regateBoth s) := by
  unfold State.regateBoth
  dsimp -failIfUnchanged only
  repeat' with_reducible first | assumption | apply State.regate_holdIs | dsimp only

theorem State.setSrc_holdIs {qq : KeySlots × DomState × ObjState} (s : State) (v : Nat) (h_s : HoldIs qq s) :
    HoldIs qq (State.setSrc s v) := by
  unfold State.setSrc
  dsimp -failIfUnchanged only
  repeat' with_reducible first | assumption | (intro _) | apply State.updAtb_holdIs | apply State.wb_holdIs | apply State.wr_holdIs | dsimp only | (apply hold_mk; dsimp only; apply hold_un)

theorem State.toServo_holdIs {qq : KeySlots × DomState × ObjState} (s : State) (t : Tower) (h_s : HoldIs qq s) :
    HoldIs qq (State.toServo s t) := by
  unfold State.toServo
  dsimp -failIfUnchanged only
  repeat' with_reducible first | assumption | (intro _) | apply State.setSrc_holdIs | apply State.correct_holdIs | apply State.atbEvt_holdIs | apply State.irq_holdIs | apply State.wr_holdIs | apply hold_ite | dsimp only | split

theorem State.toFlywheel_holdIs {qq : KeySlots × DomState × ObjState} (s : State) (h_s : HoldIs qq s) :
    HoldIs qq (State.toFlywheel s) := by
  unfold State.toFlywheel
  dsimp -failIfUnchanged only
  repeat' with_reducible first | assumption | (intro _) | apply State.setSrc_holdIs | apply State.atbEvt_holdIs | apply State.updAtb_holdIs | apply State.irq_holdIs | apply State.wr_holdIs | dsimp only | (apply hold_mk; dsimp only; apply hold_un)

theorem State.srcLost_holdIs {qq : KeySlots × DomState × ObjState} (s : State) (t : Tower) (h_s : HoldIs qq s) :
    HoldIs qq (State.srcLost s t) := by
  unfold State.srcLost
  dsimp -failIfUnchanged only
  repeat' with_reducible first | assumption | (intro _) | apply State.toFlywheel_holdIs | apply State.toServo_holdIs | apply State.setSrc_holdIs | apply State.regateBoth_holdIs | apply State.dropGates_holdIs | apply State.atbEvt_holdIs | apply State.irq_holdIs | apply hold_ite | dsimp only | split

theorem State.loseLock_holdIs {qq : KeySlots × DomState × ObjState} (s : State) (t : Tower) (h_s : HoldIs qq s) :
    HoldIs qq (State.loseLock s t) := by
  unfold State.loseLock
  dsimp -failIfUnchanged only
  repeat' with_reducible first | assumption | (intro _) | apply State.srcLost_holdIs | apply State.atbEvt_holdIs | apply State.updAtbT_holdIs | apply State.irq_holdIs | apply State.wr_holdIs | apply hold_ite | dsimp only | (refine hold_pair (by assumption) ?_) | (refine hold_opt (by assumption) ?_) | (refine hold_opt1 (by assumption) ?_) | (apply hold_mk; dsimp only; apply hold_un) | split

theorem State.takeServo_holdIs {qq : KeySlots × DomState × ObjState} (s : State) (t : Tower) (h_s : HoldIs qq s) :
    HoldIs qq (State.takeServo s t) := by
  unfold State.takeServo
  dsimp -failIfUnchanged only
  repeat' with_reducible first | assumption | (intro _) | apply State.toServo_holdIs | apply State.updAtb_holdIs | dsimp only | (apply hold_mk; dsimp only; apply hold_un)

theorem State.preferServo_holdIs {qq : KeySlots × DomState × ObjState} (s : State) (t : Tower) (e0 : Int) (h_s : HoldIs qq s) :
    HoldIs qq (State.preferServo s t e0) := by
  unfold State.preferServo
  dsimp -failIfUnchanged only
  repeat' with_reducible first | assumption | (intro _) | apply State.setSrc_holdIs | apply State.correct_holdIs | apply State.atbEvt_holdIs | apply State.wr_holdIs | apply hold_ite | dsimp only | split

theorem State.takeSource_holdIs {qq : KeySlots × DomState × ObjState} (s : State) (t : Tower) (h_s : HoldIs qq s) :
    HoldIs qq (State.takeSource s t) := by
  unfold State.takeSource
  dsimp -failIfUnchanged only
  repeat' with_reducible first | assumption | apply State.preferServo_holdIs | apply State.takeServo_holdIs | apply hold_ite | dsimp only | (refine hold_pair (by assumption) ?_) | (refine hold_opt (by assumption) ?_) | (refine hold_opt1 (by assumption) ?_) | split

theorem State.tryLock_holdIs {qq : KeySlots × DomState × ObjState} (s : State) (t : Tower) (h_s : HoldIs qq s) :
    HoldIs qq (State.tryLock s t) := by
  unfold State.tryLock
  dsimp -failIfUnchanged only
  repeat' with_reducible first | assumption | apply State.takeSource_holdIs | apply State.irq_holdIs | apply State.wr_holdIs | apply hold_ite | dsimp only | (refine hold_pair (by assumption) ?_) | (refine hold_opt (by assumption) ?_) | (refine hold_opt1 (by assumption) ?_) | (apply hold_mk; dsimp only; apply hold_un) | split

theorem State.srvPins_holdIs {qq : KeySlots × DomState × ObjState} (s : State) (t : Tower) (h_s : HoldIs qq s) :
    HoldIs qq (State.srvPins s t) := by
  unfold State.srvPins
  dsimp -failIfUnchanged only
  repeat' with_reducible first | assumption | (intro _) | apply State.updSrv_holdIs | apply hold_ite | dsimp only | (apply hold_mk; dsimp only; apply hold_un) | split

theorem State.setMode_holdIs {qq : KeySlots × DomState × ObjState} (s : State) (t : Tower) (m : Nat) (h_s : HoldIs qq s) :
    HoldIs qq (State.setMode s t m) := by
  unfold State.setMode
  dsimp -failIfUnchanged only
  repeat' with_reducible first | assumption | (intro _) | apply State.srvPins_holdIs | apply State.tryLock_holdIs | apply State.loseLock_holdIs | apply State.setOtwi_holdIs | apply State.updSrv_holdIs | apply State.irq_holdIs | apply State.wb_holdIs | apply State.wr_holdIs | apply hold_ite | dsimp only | (apply hold_mk; dsimp only; apply hold_un) | split

theorem State.genStart_holdIs {qq : KeySlots × DomState × ObjState} (s : State) (t : Tower) (k : GenKind) (h_s : HoldIs qq s) :
    HoldIs qq (State.genStart s t k) := by
  unfold State.genStart
  dsimp -failIfUnchanged only
  repeat' with_reducible first | assumption | (intro _) | apply State.updSrv_holdIs | dsimp only | (apply hold_mk; dsimp only; apply hold_un)

theorem State.toRetract_holdIs {qq : KeySlots × DomState × ObjState} (s : State) (t : Tower) (cause : Nat) (h_s : HoldIs qq s) :
    HoldIs qq (State.toRetract s t cause) := by
  unfold State.toRetract
  dsimp -failIfUnchanged only
  repeat' with_reducible first | assumption | apply State.genStart_holdIs | apply State.setMode_holdIs | apply State.hwPost_holdIs | apply State.irq_holdIs | apply State.bump_holdIs | apply State.wr_holdIs | apply hold_ite | dsimp only | split

theorem State.emergency_holdIs {qq : KeySlots × DomState × ObjState} (s : State) (t : Tower) (cause : Nat) (h_s : HoldIs qq s) :
    HoldIs qq (State.emergency s t cause) := by
  unfold State.emergency
  dsimp -failIfUnchanged only
  repeat' with_reducible first | assumption | (intro _) | apply State.toRetract_holdIs | apply State.updSrv_holdIs | apply State.irq_holdIs | apply State.bump_holdIs | apply hold_ite | dsimp only | (apply hold_mk; dsimp only; apply hold_un) | split

theorem State.engRefresh_holdIs {qq : KeySlots × DomState × ObjState} (s : State) (e : Eng) (h_s : HoldIs qq s) :
    HoldIs qq (State.engRefresh s e) := by
  unfold State.engRefresh
  dsimp -failIfUnchanged only
  repeat' with_reducible first | assumption | (intro _) | apply State.updEng_holdIs | apply State.wr_holdIs | apply hold_ite | dsimp only | (apply hold_mk; dsimp only; apply hold_un) | split

theorem State.park_holdIs {qq : KeySlots × DomState × ObjState} (s : State) (h_s : HoldIs qq s) :
    HoldIs qq (State.park s) := by
  unfold State.park
  dsimp -failIfUnchanged only
  repeat' with_reducible first | assumption | apply State.emergency_holdIs | dsimp only

theorem State.setObsOk_holdIs {qq : KeySlots × DomState × ObjState} (s : State) (v : Bool) (h_s : HoldIs qq s) :
    HoldIs qq (State.setObsOk s v) := by
  unfold State.setObsOk
  dsimp -failIfUnchanged only
  repeat' with_reducible first | assumption | (intro _) | apply State.toFlywheel_holdIs | apply State.setSrc_holdIs | apply State.wb_holdIs | apply State.wr_holdIs | apply hold_ite | dsimp only | split

theorem State.atbStart_holdIs {qq : KeySlots × DomState × ObjState} (s : State) (h_s : HoldIs qq s) :
    HoldIs qq (State.atbStart s) := by
  unfold State.atbStart
  dsimp -failIfUnchanged only
  repeat' with_reducible first | assumption | (intro _) | apply State.setSrc_holdIs | apply State.updAtb_holdIs | apply State.wr_holdIs | apply hold_ite | dsimp only | (apply hold_mk; dsimp only; apply hold_un) | split

theorem State.atbStarted_holdIs {qq : KeySlots × DomState × ObjState} (s : State) (h_s : HoldIs qq s) :
    HoldIs qq (State.atbStarted s) := by
  unfold State.atbStarted
  dsimp -failIfUnchanged only
  repeat' with_reducible first | assumption | (intro _) | apply State.takeSource_holdIs | apply State.updAtbT_holdIs | apply hold_ite | (refine hold_foldl ?_ (fun _ _ _ => ?_)) | (refine hold_foldl1 ?_ (fun _ _ _ => ?_)) | (refine hold_foldl2 ?_ (fun _ _ _ => ?_)) | dsimp only | (apply hold_mk; dsimp only; apply hold_un) | split

theorem State.cmpCtlStore_holdIs {qq : KeySlots × DomState × ObjState} (s : State) (n : Nat) (ctl : Word) (h_s : HoldIs qq s) :
    HoldIs qq (State.cmpCtlStore s n ctl) := by
  unfold State.cmpCtlStore
  dsimp -failIfUnchanged only
  repeat' with_reducible first | assumption | apply State.wr_holdIs | dsimp only

theorem State.crossCheck_holdIs {qq : KeySlots × DomState × ObjState} (s : State) (t : Tower) (e : Int) (h_s : HoldIs qq s) :
    HoldIs qq (State.crossCheck s t e) := by
  unfold State.crossCheck
  dsimp -failIfUnchanged only
  repeat' with_reducible first | assumption | (intro _) | apply State.updAtbT_holdIs | apply State.irq_holdIs | apply hold_ite | dsimp only | (apply hold_mk; dsimp only; apply hold_un) | split

theorem State.dutyBoundary_holdIs {qq : KeySlots × DomState × ObjState} (s : State) (t : Tower) (h_s : HoldIs qq s) :
    HoldIs qq (State.dutyBoundary s t) := by
  unfold State.dutyBoundary
  dsimp -failIfUnchanged only
  repeat' with_reducible first | assumption | (intro _) | apply State.updLan_holdIs | dsimp only | (apply hold_mk; dsimp only; apply hold_un)

theorem State.headSwitch_holdIs {qq : KeySlots × DomState × ObjState} (s : State) (t : Tower) (h_s : HoldIs qq s) :
    HoldIs qq (State.headSwitch s t) := by
  unfold State.headSwitch
  dsimp -failIfUnchanged only
  repeat' with_reducible first | assumption | (intro _) | apply State.setMode_holdIs | apply State.setOtwi_holdIs | apply State.regate_holdIs | apply State.capCutAll_holdIs | apply State.lanAssist_holdIs | apply State.updSrv_holdIs | apply State.updCpl_holdIs | apply State.updAtbT_holdIs | apply State.irq_holdIs | apply State.wr_holdIs | apply hold_ite | dsimp only | (apply hold_mk; dsimp only; apply hold_un) | split

theorem State.inhCount_holdIs {qq : KeySlots × DomState × ObjState} (s : State) (good : Bool) (h_s : HoldIs qq s) :
    HoldIs qq (State.inhCount s good) := by
  unfold State.inhCount
  dsimp -failIfUnchanged only
  repeat' with_reducible first | assumption | (intro _) | apply State.updAtb_holdIs | apply State.wr_holdIs | apply hold_ite | dsimp only | (apply hold_mk; dsimp only; apply hold_un) | split

theorem State.shockBoundary_holdIs {qq : KeySlots × DomState × ObjState} (s : State) (t : Tower) (h_s : HoldIs qq s) :
    HoldIs qq (State.shockBoundary s t) := by
  unfold State.shockBoundary
  dsimp -failIfUnchanged only
  repeat' with_reducible first | assumption | (intro _) | apply State.updSrv_holdIs | apply State.wr_holdIs | apply hold_ite | dsimp only | (apply hold_mk; dsimp only; apply hold_un) | split

theorem State.towerTick_holdIs {qq : KeySlots × DomState × ObjState} (s : State) (t : Tower) (sub : Nat) (h_s : HoldIs qq s) :
    HoldIs qq (State.towerTick s t sub) := by
  unfold State.towerTick
  dsimp -failIfUnchanged only
  repeat' with_reducible first | assumption | (intro _) | apply State.updEng_holdIs | apply hold_ite | dsimp only | (apply hold_mk; dsimp only; apply hold_un) | split

theorem State.wedgeJudged_holdIs {qq : KeySlots × DomState × ObjState} (s : State) (t : Tower) (sam : Bool) (found : Bool) (good : Bool) (idx : Nat) (e : Int) (edge : BitVec 24) (h_s : HoldIs qq s) :
    HoldIs qq (State.wedgeJudged s t sam found good idx e edge) := by
  unfold State.wedgeJudged
  dsimp -failIfUnchanged only
  repeat' with_reducible first | assumption | (intro _) | apply State.wrI_holdIs | apply State.updAtbT_holdIs | apply State.wb_holdIs | apply State.wr_holdIs | apply hold_ite | dsimp only | (apply hold_mk; dsimp only; apply hold_un) | split

theorem execAtbObsOffsetWrite_holdIs {qq : KeySlots × DomState × ObjState} (val : Word) (s : State) (h_s : HoldIs qq s) :
    Out.HoldIs qq (execAtbObsOffsetWrite val s) := by
  unfold execAtbObsOffsetWrite
  dsimp -failIfUnchanged only
  repeat' with_reducible first | assumption | (intro _) | apply State.gated_holdIs | apply State.wr_holdIs | apply hold_next | apply hold_ite3 | dsimp only

theorem execAtbSkewWrite_holdIs {qq : KeySlots × DomState × ObjState} (t : Tower) (val : Word) (s : State) (h_s : HoldIs qq s) :
    Out.HoldIs qq (execAtbSkewWrite t val s) := by
  unfold execAtbSkewWrite
  dsimp -failIfUnchanged only
  repeat' with_reducible first | assumption | (intro _) | apply State.gated_holdIs | apply State.wr_holdIs | apply hold_next | apply hold_ite3 | dsimp only

theorem execCmpTestFlush_holdIs {qq : KeySlots × DomState × ObjState} (val : Word) (s : State) (h_s : HoldIs qq s) :
    Out.HoldIs qq (execCmpTestFlush val s) := by
  unfold execCmpTestFlush
  dsimp -failIfUnchanged only
  repeat' with_reducible first | assumption | (intro _) | apply State.cmpFlushT_holdIs | apply State.gated_holdIs | apply hold_next | apply hold_ite3 | apply hold_ite | dsimp only | split

theorem execComparatorArm_holdIs {qq : KeySlots × DomState × ObjState} (n : Nat) (tgt : Word) (ctl : Word) (s : State) (h_s : HoldIs qq s) :
    Out.HoldIs qq (execComparatorArm n tgt ctl s) := by
  unfold execComparatorArm
  dsimp -failIfUnchanged only
  repeat' with_reducible first | assumption | (intro _) | apply State.cmpCtlStore_holdIs | apply State.cmpArm_holdIs | apply State.gated_holdIs | apply State.wr_holdIs | apply hold_next | apply hold_ite3 | apply hold_ite | dsimp only | split

theorem execComparatorDisarm_holdIs {qq : KeySlots × DomState × ObjState} (n : Nat) (ctl : Word) (s : State) (h_s : HoldIs qq s) :
    Out.HoldIs qq (execComparatorDisarm n ctl s) := by
  unfold execComparatorDisarm
  dsimp -failIfUnchanged only
  repeat' with_reducible first | assumption | (intro _) | apply State.cmpCtlStore_holdIs | apply State.cmpDisarm_holdIs | apply State.gated_holdIs | apply hold_next | apply hold_ite3 | apply hold_ite | dsimp only | split

theorem execComparatorFire_holdIs {qq : KeySlots × DomState × ObjState} (n : Nat) (s : State) (h_s : HoldIs qq s) :
    Out.HoldIs qq (execComparatorFire n s) := by
  unfold execComparatorFire
  dsimp -failIfUnchanged only
  repeat' with_reducible first | assumption | apply State.cmpFire_holdIs | apply hold_next | apply hold_ite3 | apply hold_ite | dsimp only | split

theorem execCurrentSubtick_holdIs {qq : KeySlots × DomState × ObjState} (t : Tower) (sub : Nat) (s : State) (h_s : HoldIs qq s) :
    Out.HoldIs qq (execCurrentSubtick t sub s) := by
  unfold execCurrentSubtick
  dsimp -failIfUnchanged only
  repeat' with_reducible first | assumption | apply State.towerTick_holdIs | apply hold_next | apply hold_ite3 | apply hold_ite | dsimp only | split

theorem execObsPhaseMeasure_holdIs {qq : KeySlots × DomState × ObjState} (obs : BitVec 24) (s : State) (h_s : HoldIs qq s) :
    Out.HoldIs qq (execObsPhaseMeasure obs s) := by
  unfold execObsPhaseMeasure
  dsimp -failIfUnchanged only
  repeat' with_reducible first | assumption | apply State.correct_holdIs | apply hold_next | apply hold_ite3 | apply hold_ite | dsimp only | split

theorem execPositionTick_holdIs {qq : KeySlots × DomState × ObjState} (t : Tower) (s : State) (h_s : HoldIs qq s) :
    Out.HoldIs qq (execPositionTick t s) := by
  unfold execPositionTick
  dsimp -failIfUnchanged only
  repeat' with_reducible first | assumption | apply State.towerTick_holdIs | apply hold_next | apply hold_ite3 | apply hold_ite | dsimp only | split

theorem execServoWedge_holdIs {qq : KeySlots × DomState × ObjState} (t : Tower) (ra : ServoIn) (rb : ServoIn) (dt : Nat) (s : State) (h_s : HoldIs qq s) :
    Out.HoldIs qq (execServoWedge t ra rb dt s) := by
  unfold execServoWedge
  dsimp -failIfUnchanged only
  repeat' with_reducible first | assumption | (intro _) | apply State.wedgeJudged_holdIs | apply State.inhCount_holdIs | apply State.crossCheck_holdIs | apply State.tryLock_holdIs | apply State.loseLock_holdIs | apply State.correct_holdIs | apply State.updSrv_holdIs | apply State.updAtbT_holdIs | apply State.updAtb_holdIs | apply hold_next | apply hold_ite3 | apply hold_ite | dsimp only | (apply hold_mk; dsimp only; apply hold_un) | split

theorem execServoWindowClose_holdIs {qq : KeySlots × DomState × ObjState} (t : Tower) (s : State) (h_s : HoldIs qq s) :
    Out.HoldIs qq (execServoWindowClose t s) := by
  unfold execServoWindowClose
  dsimp -failIfUnchanged only
  repeat' with_reducible first | assumption | (intro _) | apply State.updAtbT_holdIs | apply hold_next | apply hold_ite3 | apply hold_ite | dsimp only | (apply hold_mk; dsimp only; apply hold_un) | split

theorem execServoWindowOpen_holdIs {qq : KeySlots × DomState × ObjState} (t : Tower) (s : State) (h_s : HoldIs qq s) :
    Out.HoldIs qq (execServoWindowOpen t s) := by
  unfold execServoWindowOpen
  dsimp -failIfUnchanged only
  repeat' with_reducible first | assumption | (intro _) | apply State.updAtbT_holdIs | apply hold_next | apply hold_ite3 | apply hold_ite | dsimp only | (apply hold_mk; dsimp only; apply hold_un) | split

theorem execWedgeBoundary_holdIs {qq : KeySlots × DomState × ObjState} (t : Tower) (s : State) (h_s : HoldIs qq s) :
    Out.HoldIs qq (execWedgeBoundary t s) := by
  unfold execWedgeBoundary
  dsimp -failIfUnchanged only
  repeat' with_reducible first | assumption | (intro _) | apply State.shockBoundary_holdIs | apply State.headSwitch_holdIs | apply State.dutyBoundary_holdIs | apply State.updSrv_holdIs | apply State.updAtbT_holdIs | apply hold_next | apply hold_ite3 | apply hold_ite | dsimp only | (apply hold_mk; dsimp only; apply hold_un) | split

theorem State.addCrossing_holdIs {qq : KeySlots × DomState × ObjState} (s : State) (fwd : Bool) (interval : Nat) (h_s : HoldIs qq s) :
    HoldIs qq (State.addCrossing s fwd interval) := by
  unfold State.addCrossing
  dsimp -failIfUnchanged only
  repeat' with_reducible first | assumption | (intro _) | apply State.updSpn_holdIs | apply hold_ite | dsimp only | (apply hold_mk; dsimp only; apply hold_un) | split

theorem State.setGates_holdIs {qq : KeySlots × DomState × ObjState} (s : State) (p : Nat) (off : Int) (h_s : HoldIs qq s) :
    HoldIs qq (State.setGates s p off) := by
  unfold State.setGates
  dsimp -failIfUnchanged only
  repeat' with_reducible first | assumption | (intro _) | apply State.updSpn_holdIs | apply State.wr_holdIs | apply hold_ite | dsimp only | (apply hold_mk; dsimp only; apply hold_un) | split

theorem State.setVec_holdIs {qq : KeySlots × DomState × ObjState} (s : State) (v : Nat) (h_s : HoldIs qq s) :
    HoldIs qq (State.setVec s v) := by
  unfold State.setVec
  dsimp -failIfUnchanged only
  repeat' with_reducible first | assumption | (intro _) | apply State.setGates_holdIs | apply State.updSpn_holdIs | dsimp only | (apply hold_mk; dsimp only; apply hold_un)

theorem State.brakeOn_holdIs {qq : KeySlots × DomState × ObjState} (s : State) (h_s : HoldIs qq s) :
    HoldIs qq (State.brakeOn s) := by
  unfold State.brakeOn
  dsimp -failIfUnchanged only
  repeat' with_reducible first | assumption | apply State.setGates_holdIs | apply State.wr_holdIs | dsimp only

theorem State.applyVector_holdIs {qq : KeySlots × DomState × ObjState} (s : State) (est : SpnEst) (h_s : HoldIs qq s) :
    HoldIs qq (State.applyVector s est) := by
  unfold State.applyVector
  dsimp -failIfUnchanged only
  repeat' with_reducible first | assumption | (intro _) | apply State.brakeOn_holdIs | apply State.setVec_holdIs | apply State.setGates_holdIs | apply State.updSpn_holdIs | apply hold_ite | dsimp only | (apply hold_mk; dsimp only; apply hold_un) | split

theorem State.setAtSpeed_holdIs {qq : KeySlots × DomState × ObjState} (s : State) (v : Bool) (h_s : HoldIs qq s) :
    HoldIs qq (State.setAtSpeed s v) := by
  unfold State.setAtSpeed
  dsimp -failIfUnchanged only
  repeat' with_reducible first | assumption | (intro _) | apply State.regateBoth_holdIs | apply State.updSpn_holdIs | apply State.wb_holdIs | apply hold_ite | dsimp only | (apply hold_mk; dsimp only; apply hold_un) | split

theorem State.spnIrq_holdIs {qq : KeySlots × DomState × ObjState} (s : State) (bit : Nat) (h_s : HoldIs qq s) :
    HoldIs qq (State.spnIrq s bit) := by
  unfold State.spnIrq
  dsimp -failIfUnchanged only
  repeat' with_reducible first | assumption | apply State.irq_holdIs | dsimp only

theorem State.bandCheck_holdIs {qq : KeySlots × DomState × ObjState} (s : State) (h_s : HoldIs qq s) :
    HoldIs qq (State.bandCheck s) := by
  unfold State.bandCheck
  dsimp -failIfUnchanged only
  repeat' with_reducible first | assumption | (intro _) | apply State.spnIrq_holdIs | apply State.setAtSpeed_holdIs | apply State.updSpn_holdIs | apply hold_ite | dsimp only | (apply hold_mk; dsimp only; apply hold_un) | split

theorem State.due_holdIs {qq : KeySlots × DomState × ObjState} (s : State) (m : Nat) (code : Nat) (h_s : HoldIs qq s) :
    HoldIs qq (State.due s m code) := by
  unfold State.due
  dsimp -failIfUnchanged only
  repeat' with_reducible first | assumption | (intro _) | apply State.updSpn_holdIs | apply hold_ite | dsimp only | (apply hold_mk; dsimp only; apply hold_un) | split

theorem State.gatesOff_holdIs {qq : KeySlots × DomState × ObjState} (s : State) (h_s : HoldIs qq s) :
    HoldIs qq (State.gatesOff s) := by
  unfold State.gatesOff
  dsimp -failIfUnchanged only
  repeat' with_reducible first | assumption | apply State.setGates_holdIs | apply State.wr_holdIs | dsimp only

theorem State.spnEvt_holdIs {qq : KeySlots × DomState × ObjState} (s : State) (kind : Nat) (h_s : HoldIs qq s) :
    HoldIs qq (State.spnEvt s kind) := by
  unfold State.spnEvt
  dsimp -failIfUnchanged only
  repeat' with_reducible first | assumption | (intro _) | apply State.hwPost_holdIs | apply State.wr_holdIs | dsimp only

theorem State.syncLose_holdIs {qq : KeySlots × DomState × ObjState} (s : State) (cause : Nat) (h_s : HoldIs qq s) :
    HoldIs qq (State.syncLose s cause) := by
  unfold State.syncLose
  dsimp -failIfUnchanged only
  repeat' with_reducible first | assumption | (intro _) | apply State.spnEvt_holdIs | apply State.spnIrq_holdIs | apply State.updSpn_holdIs | apply State.wr_holdIs | apply hold_ite | dsimp only | (apply hold_mk; dsimp only; apply hold_un) | split

theorem State.obsRefresh_holdIs {qq : KeySlots × DomState × ObjState} (s : State) (h_s : HoldIs qq s) :
    HoldIs qq (State.obsRefresh s) := by
  unfold State.obsRefresh
  dsimp -failIfUnchanged only
  repeat' with_reducible first | assumption | (intro _) | apply State.setObsOk_holdIs | apply State.updSpn_holdIs | apply hold_ite | dsimp only | (apply hold_mk; dsimp only; apply hold_un) | split

theorem State.setPmode_holdIs {qq : KeySlots × DomState × ObjState} (s : State) (m : Nat) (h_s : HoldIs qq s) :
    HoldIs qq (State.setPmode s m) := by
  unfold State.setPmode
  dsimp -failIfUnchanged only
  repeat' with_reducible first | assumption | (intro _) | apply State.obsRefresh_holdIs | apply State.syncLose_holdIs | apply State.setAtSpeed_holdIs | apply State.updSpn_holdIs | apply State.wr_holdIs | apply hold_ite | dsimp only | (apply hold_mk; dsimp only; apply hold_un) | split

theorem State.toIps_holdIs {qq : KeySlots × DomState × ObjState} (s : State) (h_s : HoldIs qq s) :
    HoldIs qq (State.toIps s) := by
  unfold State.toIps
  dsimp -failIfUnchanged only
  repeat' with_reducible first | assumption | (intro _) | apply State.setPmode_holdIs | apply State.updSpn_holdIs | apply State.wr_holdIs | dsimp only | (apply hold_mk; dsimp only; apply hold_un)

theorem State.listenExit_holdIs {qq : KeySlots × DomState × ObjState} (s : State) (h_s : HoldIs qq s) :
    HoldIs qq (State.listenExit s) := by
  unfold State.listenExit
  dsimp -failIfUnchanged only
  repeat' with_reducible first | assumption | (intro _) | apply State.toIps_holdIs | apply State.setPmode_holdIs | apply State.brakeOn_holdIs | apply State.updSpn_holdIs | apply hold_ite | dsimp only | (apply hold_mk; dsimp only; apply hold_un) | split

theorem State.markAdopt_holdIs {qq : KeySlots × DomState × ObjState} (s : State) (p : Nat) (conf : Nat) (h_s : HoldIs qq s) :
    HoldIs qq (State.markAdopt s p conf) := by
  unfold State.markAdopt
  dsimp -failIfUnchanged only
  repeat' with_reducible first | assumption | (intro _) | apply State.spnEvt_holdIs | apply State.spnIrq_holdIs | apply State.correct_holdIs | apply State.updSpn_holdIs | apply State.wr_holdIs | apply hold_ite | dsimp only | (apply hold_mk; dsimp only; apply hold_un) | split

theorem State.toDecel_holdIs {qq : KeySlots × DomState × ObjState} (s : State) (m : Nat) (h_s : HoldIs qq s) :
    HoldIs qq (State.toDecel s m) := by
  unfold State.toDecel
  dsimp -failIfUnchanged only
  repeat' with_reducible first | assumption | (intro _) | apply State.setPmode_holdIs | apply State.updSpn_holdIs | apply State.wr_holdIs | dsimp only | (apply hold_mk; dsimp only; apply hold_un)

theorem State.toBrakeStop_holdIs {qq : KeySlots × DomState × ObjState} (s : State) (h_s : HoldIs qq s) :
    HoldIs qq (State.toBrakeStop s) := by
  unfold State.toBrakeStop
  dsimp -failIfUnchanged only
  repeat' with_reducible first | assumption | apply State.setPmode_holdIs | apply State.brakeOn_holdIs | dsimp only

theorem State.shutTaken_holdIs {qq : KeySlots × DomState × ObjState} (s : State) (h_s : HoldIs qq s) :
    HoldIs qq (State.shutTaken s) := by
  unfold State.shutTaken
  dsimp -failIfUnchanged only
  repeat' with_reducible first | assumption | (intro _) | apply State.toBrakeStop_holdIs | apply State.toDecel_holdIs | apply State.park_holdIs | apply State.updSpn_holdIs | apply hold_ite | dsimp only | (apply hold_mk; dsimp only; apply hold_un) | split

theorem State.spnFault_holdIs {qq : KeySlots × DomState × ObjState} (s : State) (kind : Nat) (h_s : HoldIs qq s) :
    HoldIs qq (State.spnFault s kind) := by
  unfold State.spnFault
  dsimp -failIfUnchanged only
  repeat' with_reducible first | assumption | (intro _) | apply State.setPmode_holdIs | apply State.spnEvt_holdIs | apply State.gatesOff_holdIs | apply State.park_holdIs | apply State.updSpn_holdIs | apply State.faultStop_holdIs | apply hold_ite | dsimp only | (apply hold_mk; dsimp only; apply hold_un) | split

theorem State.rotorLoss_holdIs {qq : KeySlots × DomState × ObjState} (s : State) (h_s : HoldIs qq s) :
    HoldIs qq (State.rotorLoss s) := by
  unfold State.rotorLoss
  dsimp -failIfUnchanged only
  repeat' with_reducible first | assumption | (intro _) | apply State.setPmode_holdIs | apply State.obsRefresh_holdIs | apply State.spnEvt_holdIs | apply State.gatesOff_holdIs | apply State.spnIrq_holdIs | apply State.setAtSpeed_holdIs | apply State.trcEvent_holdIs | apply State.dropGates_holdIs | apply State.updSpn_holdIs | apply State.bump_holdIs | dsimp only | (apply hold_mk; dsimp only; apply hold_un)

theorem State.toSlew_holdIs {qq : KeySlots × DomState × ObjState} (s : State) (h_s : HoldIs qq s) :
    HoldIs qq (State.toSlew s) := by
  unfold State.toSlew
  dsimp -failIfUnchanged only
  repeat' with_reducible first | assumption | (intro _) | apply State.setPmode_holdIs | apply State.updSpn_holdIs | dsimp only | (apply hold_mk; dsimp only; apply hold_un)

theorem State.underCheck_holdIs {qq : KeySlots × DomState × ObjState} (s : State) (h_s : HoldIs qq s) :
    HoldIs qq (State.underCheck s) := by
  unfold State.underCheck
  dsimp -failIfUnchanged only
  repeat' with_reducible first | assumption | (intro _) | apply State.spnEvt_holdIs | apply State.spnIrq_holdIs | apply State.park_holdIs | apply State.updSpn_holdIs | apply State.bump_holdIs | apply hold_ite | dsimp only | (apply hold_mk; dsimp only; apply hold_un) | split

theorem State.toRun_holdIs {qq : KeySlots × DomState × ObjState} (s : State) (h_s : HoldIs qq s) :
    HoldIs qq (State.toRun s) := by
  unfold State.toRun
  dsimp -failIfUnchanged only
  repeat' with_reducible first | assumption | (intro _) | apply State.underCheck_holdIs | apply State.setPmode_holdIs | apply State.spnEvt_holdIs | apply State.spnIrq_holdIs | apply State.setSt_holdIs | apply State.wr_holdIs | apply hold_ite | dsimp only | split

theorem State.toRamp_holdIs {qq : KeySlots × DomState × ObjState} (s : State) (h_s : HoldIs qq s) :
    HoldIs qq (State.toRamp s) := by
  unfold State.toRamp
  dsimp -failIfUnchanged only
  repeat' with_reducible first | assumption | (intro _) | apply State.setPmode_holdIs | apply State.updSpn_holdIs | dsimp only | (apply hold_mk; dsimp only; apply hold_un)

theorem State.spnShutDone_holdIs {qq : KeySlots × DomState × ObjState} (s : State) (h_s : HoldIs qq s) :
    HoldIs qq (State.spnShutDone s) := by
  unfold State.spnShutDone
  dsimp -failIfUnchanged only
  repeat' with_reducible first | assumption | apply State.engRefresh_holdIs | apply State.shutDone_holdIs | dsimp only

theorem State.spnOff_holdIs {qq : KeySlots × DomState × ObjState} (s : State) (h_s : HoldIs qq s) :
    HoldIs qq (State.spnOff s) := by
  unfold State.spnOff
  dsimp -failIfUnchanged only
  repeat' with_reducible first | assumption | (intro _) | apply State.setPmode_holdIs | apply State.wr_holdIs | dsimp only

theorem State.takeExit_holdIs {qq : KeySlots × DomState × ObjState} (s : State) (h_s : HoldIs qq s) :
    HoldIs qq (State.takeExit s) := by
  unfold State.takeExit
  dsimp -failIfUnchanged only
  repeat' with_reducible first | assumption | (intro _) | apply State.spnOff_holdIs | apply State.spnShutDone_holdIs | apply State.toRamp_holdIs | apply State.underCheck_holdIs | apply State.toSlew_holdIs | apply State.spnFault_holdIs | apply State.listenExit_holdIs | apply State.toIps_holdIs | apply State.setPmode_holdIs | apply State.spnEvt_holdIs | apply State.gatesOff_holdIs | apply State.spnIrq_holdIs | apply State.updSpn_holdIs | apply State.bump_holdIs | apply State.wr_holdIs | apply hold_ite | dsimp only | (refine hold_pair (by assumption) ?_) | (refine hold_opt (by assumption) ?_) | (refine hold_opt1 (by assumption) ?_) | (apply hold_mk; dsimp only; apply hold_un) | split

theorem State.modeExit_holdIs {qq : KeySlots × DomState × ObjState} (s : State) (vbus : Nat) (h_s : HoldIs qq s) :
    HoldIs qq (State.modeExit s vbus) := by
  unfold State.modeExit
  dsimp -failIfUnchanged only
  repeat' with_reducible first | assumption | (intro _) | apply State.takeExit_holdIs | apply State.toRun_holdIs | apply State.toSlew_holdIs | apply State.rotorLoss_holdIs | apply State.spnFault_holdIs | apply State.shutTaken_holdIs | apply State.toBrakeStop_holdIs | apply State.spnIrq_holdIs | apply State.updSpn_holdIs | apply hold_ite | dsimp only | (apply hold_mk; dsimp only; apply hold_un) | split

theorem State.poleStep_holdIs {qq : KeySlots × DomState × ObjState} (s : State) (periodNs : Nat) (h_s : HoldIs qq s) :
    HoldIs qq (State.poleStep s periodNs) := by
  unfold State.poleStep
  dsimp -failIfUnchanged only
  repeat' with_reducible first | assumption | (intro _) | apply State.updSpn_holdIs | apply hold_ite | dsimp only | (refine hold_pair (by assumption) ?_) | (refine hold_opt (by assumption) ?_) | (refine hold_opt1 (by assumption) ?_) | (apply hold_mk; dsimp only; apply hold_un) | split

theorem State.setSpeed_holdIs {qq : KeySlots × DomState × ObjState} (s : State) (v : Nat) (rev : Bool) (h_s : HoldIs qq s) :
    HoldIs qq (State.setSpeed s v rev) := by
  unfold State.setSpeed
  dsimp -failIfUnchanged only
  repeat' with_reducible first | assumption | apply State.wb_holdIs | apply State.wr_holdIs | dsimp only

theorem State.recapture_holdIs {qq : KeySlots × DomState × ObjState} (s : State) (angle : BitVec 24) (h_s : HoldIs qq s) :
    HoldIs qq (State.recapture s angle) := by
  unfold State.recapture
  dsimp -failIfUnchanged only
  repeat' with_reducible first | assumption | (intro _) | apply State.setSpeed_holdIs | apply State.updSpn_holdIs | apply hold_ite | dsimp only | (apply hold_mk; dsimp only; apply hold_un) | split

theorem State.refStep_holdIs {qq : KeySlots × DomState × ObjState} (s : State) (h_s : HoldIs qq s) :
    HoldIs qq (State.refStep s) := by
  unfold State.refStep
  dsimp -failIfUnchanged only
  repeat' with_reducible first | assumption | (intro _) | apply State.updSpn_holdIs | apply hold_ite | dsimp only | (apply hold_mk; dsimp only; apply hold_un) | split

theorem State.residual_holdIs {qq : KeySlots × DomState × ObjState} (s : State) (r : Nat) (h_s : HoldIs qq s) :
    HoldIs qq (State.residual s r) := by
  unfold State.residual
  dsimp -failIfUnchanged only
  repeat' with_reducible first | assumption | (intro _) | apply State.updSpn_holdIs | apply hold_ite | dsimp only | (apply hold_mk; dsimp only; apply hold_un) | split

theorem State.spnRefuse_holdIs {qq : KeySlots × DomState × ObjState} (s : State) (h_s : HoldIs qq s) :
    HoldIs qq (State.spnRefuse s) := by
  unfold State.spnRefuse
  dsimp -failIfUnchanged only
  repeat' with_reducible first | assumption | apply State.spnEvt_holdIs | apply State.spnIrq_holdIs | dsimp only

theorem State.spnStart_holdIs {qq : KeySlots × DomState × ObjState} (s : State) (h_s : HoldIs qq s) :
    HoldIs qq (State.spnStart s) := by
  unfold State.spnStart
  dsimp -failIfUnchanged only
  repeat' with_reducible first | assumption | (intro _) | apply State.spnFault_holdIs | apply State.setPmode_holdIs | apply State.gatesOff_holdIs | apply State.updSpn_holdIs | apply State.wr_holdIs | apply hold_ite | dsimp only | (apply hold_mk; dsimp only; apply hold_un) | split

theorem State.spnStop_holdIs {qq : KeySlots × DomState × ObjState} (s : State) (h_s : HoldIs qq s) :
    HoldIs qq (State.spnStop s) := by
  unfold State.spnStop
  dsimp -failIfUnchanged only
  repeat' with_reducible first | assumption | (intro _) | apply State.updSpn_holdIs | dsimp only | (apply hold_mk; dsimp only; apply hold_un)

theorem execAlignDone_holdIs {qq : KeySlots × DomState × ObjState} (s : State) (h_s : HoldIs qq s) :
    Out.HoldIs qq (execAlignDone s) := by
  unfold execAlignDone
  dsimp -failIfUnchanged only
  repeat' with_reducible first | assumption | apply State.due_holdIs | apply hold_next | apply hold_ite3 | dsimp only

theorem execBemfCrossing_holdIs {qq : KeySlots × DomState × ObjState} (fwd : Bool) (amp : Nat) (interval : Nat) (sinceEdge : Nat) (angle : BitVec 24) (s : State) (h_s : HoldIs qq s) :
    Out.HoldIs qq (execBemfCrossing fwd amp interval sinceEdge angle s) := by
  unfold execBemfCrossing
  dsimp -failIfUnchanged only
  repeat' with_reducible first | assumption | (intro _) | apply State.recapture_holdIs | apply State.setSpeed_holdIs | apply State.addCrossing_holdIs | apply State.updSpn_holdIs | apply hold_next | apply hold_ite3 | apply hold_ite | dsimp only | (apply hold_mk; dsimp only; apply hold_un) | split

theorem execBrakeRevEnd_holdIs {qq : KeySlots × DomState × ObjState} (s : State) (h_s : HoldIs qq s) :
    Out.HoldIs qq (execBrakeRevEnd s) := by
  unfold execBrakeRevEnd
  dsimp -failIfUnchanged only
  repeat' with_reducible first | assumption | apply State.due_holdIs | apply hold_next | apply hold_ite3 | dsimp only

theorem execBrakeStopDone_holdIs {qq : KeySlots × DomState × ObjState} (s : State) (h_s : HoldIs qq s) :
    Out.HoldIs qq (execBrakeStopDone s) := by
  unfold execBrakeStopDone
  dsimp -failIfUnchanged only
  repeat' with_reducible first | assumption | apply State.due_holdIs | apply hold_next | apply hold_ite3 | dsimp only

theorem execCurrentConversion_holdIs {qq : KeySlots × DomState × ObjState} (j : Nat) (iu : Int) (iv : Int) (iw : Int) (s : State) (h_s : HoldIs qq s) :
    Out.HoldIs qq (execCurrentConversion j iu iv iw s) := by
  unfold execCurrentConversion
  dsimp -failIfUnchanged only
  repeat' with_reducible first | assumption | (intro _) | apply State.setGates_holdIs | apply State.updSpn_holdIs | apply State.bump_holdIs | apply hold_next | apply hold_ite3 | apply hold_ite | dsimp only | (apply hold_mk; dsimp only; apply hold_un) | split

theorem execElectricalRev_holdIs {qq : KeySlots × DomState × ObjState} (periodNs : Nat) (s : State) (h_s : HoldIs qq s) :
    Out.HoldIs qq (execElectricalRev periodNs s) := by
  unfold execElectricalRev
  dsimp -failIfUnchanged only
  repeat' with_reducible first | assumption | (intro _) | apply State.setSpeed_holdIs | apply State.poleStep_holdIs | apply State.underCheck_holdIs | apply State.bandCheck_holdIs | apply State.wrI_holdIs | apply State.updSpn_holdIs | apply State.updEng_holdIs | apply State.updAtb_holdIs | apply hold_next | apply hold_ite3 | apply hold_ite | dsimp only | (apply hold_mk; dsimp only; apply hold_un) | split

theorem execFaultStopParked_holdIs {qq : KeySlots × DomState × ObjState} (s : State) (h_s : HoldIs qq s) :
    Out.HoldIs qq (execFaultStopParked s) := by
  unfold execFaultStopParked
  dsimp -failIfUnchanged only
  repeat' with_reducible first | assumption | apply State.spnShutDone_holdIs | apply hold_next | apply hold_ite3 | apply hold_ite | dsimp only | split

theorem execIpsAttemptDone_holdIs {qq : KeySlots × DomState × ObjState} (peaks : List Nat) (s : State) (h_s : HoldIs qq s) :
    Out.HoldIs qq (execIpsAttemptDone peaks s) := by
  unfold execIpsAttemptDone
  dsimp -failIfUnchanged only
  repeat' with_reducible first | assumption | (intro _) | apply State.due_holdIs | apply State.updSpn_holdIs | apply State.wr_holdIs | apply hold_next | apply hold_ite3 | apply hold_ite | apply hold_ite1 | dsimp only | (refine hold_pair (by assumption) ?_) | (refine hold_opt (by assumption) ?_) | (refine hold_opt1 (by assumption) ?_) | (apply hold_mk; dsimp only; apply hold_un) | split

theorem execListenEnd_holdIs {qq : KeySlots × DomState × ObjState} (s : State) (h_s : HoldIs qq s) :
    Out.HoldIs qq (execListenEnd s) := by
  unfold execListenEnd
  dsimp -failIfUnchanged only
  repeat' with_reducible first | assumption | apply State.setSpeed_holdIs | apply State.due_holdIs | apply hold_next | apply hold_ite3 | apply hold_ite | dsimp only | split

theorem execMarkerMeasureDone_holdIs {qq : KeySlots × DomState × ObjState} (s : State) (h_s : HoldIs qq s) :
    Out.HoldIs qq (execMarkerMeasureDone s) := by
  unfold execMarkerMeasureDone
  dsimp -failIfUnchanged only
  repeat' with_reducible first | assumption | (intro _) | apply State.markAdopt_holdIs | apply State.wrI_holdIs | apply State.updSpn_holdIs | apply State.wr_holdIs | apply hold_next | apply hold_ite3 | apply hold_ite | (refine hold_foldl ?_ (fun _ _ _ => ?_)) | (refine hold_foldl1 ?_ (fun _ _ _ => ?_)) | (refine hold_foldl2 ?_ (fun _ _ _ => ?_)) | dsimp only | (apply hold_mk; dsimp only; apply hold_un) | split

theorem execRampTimeout_holdIs {qq : KeySlots × DomState × ObjState} (s : State) (h_s : HoldIs qq s) :
    Out.HoldIs qq (execRampTimeout s) := by
  unfold execRampTimeout
  dsimp -failIfUnchanged only
  repeat' with_reducible first | assumption | apply State.due_holdIs | apply hold_next | apply hold_ite3 | dsimp only

theorem execRecapTimeout_holdIs {qq : KeySlots × DomState × ObjState} (s : State) (h_s : HoldIs qq s) :
    Out.HoldIs qq (execRecapTimeout s) := by
  unfold execRecapTimeout
  dsimp -failIfUnchanged only
  repeat' with_reducible first | assumption | apply State.due_holdIs | apply hold_next | apply hold_ite3 | dsimp only

theorem execSpnCfgWrite_holdIs {qq : KeySlots × DomState × ObjState} (val : Word) (s : State) (h_s : HoldIs qq s) :
    Out.HoldIs qq (execSpnCfgWrite val s) := by
  unfold execSpnCfgWrite
  dsimp -failIfUnchanged only
  repeat' with_reducible first | assumption | (intro _) | apply State.spnRefuse_holdIs | apply State.underCheck_holdIs | apply State.toSlew_holdIs | apply State.setAtSpeed_holdIs | apply State.updSpn_holdIs | apply State.gated_holdIs | apply State.wr_holdIs | apply hold_next | apply hold_ite3 | apply hold_ite | dsimp only | (apply hold_mk; dsimp only; apply hold_un) | split

theorem execSpnGateForceWrite_holdIs {qq : KeySlots × DomState × ObjState} (val : Word) (s : State) (h_s : HoldIs qq s) :
    Out.HoldIs qq (execSpnGateForceWrite val s) := by
  unfold execSpnGateForceWrite
  dsimp -failIfUnchanged only
  repeat' with_reducible first | assumption | (intro _) | apply State.spnRefuse_holdIs | apply State.gated_holdIs | apply State.wr_holdIs | apply hold_next | apply hold_ite3 | apply hold_ite | dsimp only | split

theorem execSwitchingDecision_holdIs {qq : KeySlots × DomState × ObjState} (est : SpnEst) (s : State) (h_s : HoldIs qq s) :
    Out.HoldIs qq (execSwitchingDecision est s) := by
  unfold execSwitchingDecision
  dsimp -failIfUnchanged only
  repeat' with_reducible first | assumption | (intro _) | apply State.residual_holdIs | apply State.refStep_holdIs | apply State.modeExit_holdIs | apply State.obsRefresh_holdIs | apply State.applyVector_holdIs | apply State.updSpn_holdIs | apply State.updEng_holdIs | apply State.wr_holdIs | apply hold_next | apply hold_ite3 | apply hold_ite | dsimp only | (apply hold_mk; dsimp only; apply hold_un) | split

theorem execSyncInPulse_holdIs {qq : KeySlots × DomState × ObjState} (angle : BitVec 24) (intervalNs : Nat) (overRate : Bool) (s : State) (h_s : HoldIs qq s) :
    Out.HoldIs qq (execSyncInPulse angle intervalNs overRate s) := by
  unfold execSyncInPulse
  dsimp -failIfUnchanged only
  repeat' with_reducible first | assumption | (intro _) | apply State.syncLose_holdIs | apply State.spnEvt_holdIs | apply State.spnIrq_holdIs | apply State.wrI_holdIs | apply State.updSpn_holdIs | apply State.wr_holdIs | apply hold_next | apply hold_ite3 | apply hold_ite | dsimp only | (apply hold_mk; dsimp only; apply hold_un) | split

theorem execSyncPulseTimeout_holdIs {qq : KeySlots × DomState × ObjState} (s : State) (h_s : HoldIs qq s) :
    Out.HoldIs qq (execSyncPulseTimeout s) := by
  unfold execSyncPulseTimeout
  dsimp -failIfUnchanged only
  repeat' with_reducible first | assumption | apply State.syncLose_holdIs | apply hold_next | apply hold_ite3 | dsimp only

theorem State.engIrq_holdIs {qq : KeySlots × DomState × ObjState} (s : State) (e : Eng) (p : Nat) (bit : Nat) (h_s : HoldIs qq s) :
    HoldIs qq (State.engIrq s e p bit) := by
  unfold State.engIrq
  dsimp -failIfUnchanged only
  repeat' with_reducible first | assumption | apply State.irq_holdIs | dsimp only

theorem State.doSwap_holdIs {qq : KeySlots × DomState × ObjState} (s : State) (e : Eng) (h_s : HoldIs qq s) :
    HoldIs qq (State.doSwap s e) := by
  unfold State.doSwap
  dsimp -failIfUnchanged only
  repeat' with_reducible first | assumption | apply State.engIrq_holdIs | apply State.trcEvent_holdIs | apply State.wr_holdIs | dsimp only

theorem State.beginInst_holdIs {qq : KeySlots × DomState × ObjState} (s : State) (e : Eng) (i : TickInst) (h_s : HoldIs qq s) :
    HoldIs qq (State.beginInst s e i) := by
  unfold State.beginInst
  dsimp -failIfUnchanged only
  repeat' with_reducible first | assumption | (intro _) | apply State.doSwap_holdIs | apply State.updEng_holdIs | apply State.wb_holdIs | apply hold_ite | dsimp only | (apply hold_mk; dsimp only; apply hold_un) | split

theorem State.busyFell_holdIs {qq : KeySlots × DomState × ObjState} (s : State) (e : Eng) (h_s : HoldIs qq s) :
    HoldIs qq (State.busyFell s e) := by
  unfold State.busyFell
  dsimp -failIfUnchanged only
  repeat' with_reducible first | assumption | apply State.setMode_holdIs | apply hold_ite | dsimp only | (refine hold_pair (by assumption) ?_) | (refine hold_opt (by assumption) ?_) | (refine hold_opt1 (by assumption) ?_) | split

theorem State.busyRose_holdIs {qq : KeySlots × DomState × ObjState} (s : State) (e : Eng) (h_s : HoldIs qq s) :
    HoldIs qq (State.busyRose s e) := by
  unfold State.busyRose
  dsimp -failIfUnchanged only
  repeat' with_reducible first | assumption | apply State.setMode_holdIs | apply hold_ite | dsimp only | (refine hold_pair (by assumption) ?_) | (refine hold_opt (by assumption) ?_) | (refine hold_opt1 (by assumption) ?_) | split

theorem State.coefInc_holdIs {qq : KeySlots × DomState × ObjState} (s : State) (e : Eng) (h_s : HoldIs qq s) :
    HoldIs qq (State.coefInc s e) := by
  unfold State.coefInc
  dsimp -failIfUnchanged only
  repeat' with_reducible first | assumption | apply State.wr_holdIs | apply hold_ite | dsimp only | split

theorem State.coupling_holdIs {qq : KeySlots × DomState × ObjState} (s : State) (e : Eng) (q : Nat) (h_s : HoldIs qq s) :
    HoldIs qq (State.coupling s e q).1 := by
  unfold State.coupling
  dsimp -failIfUnchanged only
  repeat' with_reducible first | assumption | (intro _) | apply State.engIrq_holdIs | apply State.wb_holdIs | apply hold_ite | apply hold_ite1 | dsimp only | (apply hold_mk; dsimp only; apply hold_un) | split

theorem State.deliver_holdIs {qq : KeySlots × DomState × ObjState} (s : State) (e : Eng) (q : Nat) (sl : EngSlot) (sat : Bool) (h_s : HoldIs qq s) :
    HoldIs qq (State.deliver s e q sl sat) := by
  unfold State.deliver
  dsimp -failIfUnchanged only
  repeat' with_reducible first | assumption | (intro _) | apply State.engIrq_holdIs | apply State.srvPins_holdIs | apply State.trcEvent_holdIs | apply State.updSrv_holdIs | apply State.updEng_holdIs | apply State.bump_holdIs | apply State.wb_holdIs | apply hold_ite | dsimp only | (refine hold_pair (by assumption) ?_) | (refine hold_opt (by assumption) ?_) | (refine hold_opt1 (by assumption) ?_) | (apply hold_mk; dsimp only; apply hold_un) | split

theorem State.endInst_holdIs {qq : KeySlots × DomState × ObjState} (s : State) (e : Eng) (h_s : HoldIs qq s) :
    HoldIs qq (State.endInst s e) := by
  unfold State.endInst
  dsimp -failIfUnchanged only
  repeat' with_reducible first | assumption | (intro _) | apply State.beginInst_holdIs | apply State.updEng_holdIs | apply State.wr_holdIs | dsimp only | (refine hold_pair (by assumption) ?_) | (refine hold_opt (by assumption) ?_) | (refine hold_opt1 (by assumption) ?_) | (apply hold_mk; dsimp only; apply hold_un) | split

theorem State.trcEnd_holdIs {qq : KeySlots × DomState × ObjState} (s : State) (e : Eng) (h_s : HoldIs qq s) :
    HoldIs qq (State.trcEnd s e) := by
  unfold State.trcEnd
  dsimp -failIfUnchanged only
  repeat' with_reducible first | assumption | apply State.engIrq_holdIs | apply State.wr_holdIs | dsimp only

theorem State.engFault_holdIs {qq : KeySlots × DomState × ObjState} (s : State) (e : Eng) (q : Nat) (stage : Nat) (cause : Nat) (addr : Nat) (h_s : HoldIs qq s) :
    HoldIs qq (State.engFault s e q stage cause addr) := by
  unfold State.engFault
  dsimp -failIfUnchanged only
  repeat' with_reducible first | assumption | (intro _) | apply State.trcEnd_holdIs | apply State.engIrq_holdIs | apply State.engRefresh_holdIs | apply State.emergency_holdIs | apply State.srvPins_holdIs | apply State.trcEvent_holdIs | apply State.updEng_holdIs | apply State.wr_holdIs | apply hold_ite | dsimp only | (refine hold_pair (by assumption) ?_) | (refine hold_opt (by assumption) ?_) | (refine hold_opt1 (by assumption) ?_) | (apply hold_mk; dsimp only; apply hold_un) | split

theorem State.lateDemod_holdIs {qq : KeySlots × DomState × ObjState} (s : State) (e : Eng) (q : Nat) (h_s : HoldIs qq s) :
    HoldIs qq (State.lateDemod s e q) := by
  unfold State.lateDemod
  dsimp -failIfUnchanged only
  repeat' with_reducible first | assumption | (intro _) | apply State.irq_holdIs | apply State.bump_holdIs | apply hold_ite | dsimp only | (refine hold_pair (by assumption) ?_) | (refine hold_opt (by assumption) ?_) | (refine hold_opt1 (by assumption) ?_) | split

theorem State.trcSample_holdIs {qq : KeySlots × DomState × ObjState} (s : State) (e : Eng) (tick : Nat) (h_s : HoldIs qq s) :
    HoldIs qq (State.trcSample s e tick) := by
  unfold State.trcSample
  dsimp -failIfUnchanged only
  repeat' with_reducible first | assumption | (intro _) | apply State.trcEnd_holdIs | apply State.updEng_holdIs | apply State.trace_holdIs | apply State.wr_holdIs | apply hold_ite | (refine hold_foldl ?_ (fun _ _ _ => ?_)) | (refine hold_foldl1 ?_ (fun _ _ _ => ?_)) | (refine hold_foldl2 ?_ (fun _ _ _ => ?_)) | dsimp only | (apply hold_mk; dsimp only; apply hold_un) | split

theorem State.trcEval_holdIs {qq : KeySlots × DomState × ObjState} (s : State) (e : Eng) (q : Nat) (tick : Nat) (h_s : HoldIs qq s) :
    HoldIs qq (State.trcEval s e q tick) := by
  unfold State.trcEval
  dsimp -failIfUnchanged only
  repeat' with_reducible first | assumption | (intro _) | apply State.trcSample_holdIs | apply State.updEng_holdIs | apply hold_ite | dsimp only | (apply hold_mk; dsimp only; apply hold_un) | split

theorem State.storeX_holdIs {qq : KeySlots × DomState × ObjState} (s : State) (e : Eng) (q : Nat) (v : BVec) (h_s : HoldIs qq s) :
    HoldIs qq (State.storeX s e q v) := by
  unfold State.storeX
  dsimp -failIfUnchanged only
  repeat' with_reducible first | assumption | (intro _) | apply State.updEng_holdIs | (refine hold_foldl ?_ (fun _ _ _ => ?_)) | (refine hold_foldl1 ?_ (fun _ _ _ => ?_)) | (refine hold_foldl2 ?_ (fun _ _ _ => ?_)) | dsimp only | (apply hold_mk; dsimp only; apply hold_un)

theorem State.evaluate_holdIs {qq : KeySlots × DomState × ObjState} (s : State) (e : Eng) (q : Nat) (inp : EngIn) (tick : Nat) (h_s : HoldIs qq s) :
    HoldIs qq (State.evaluate s e q inp tick) := by
  unfold State.evaluate
  dsimp -failIfUnchanged only
  repeat' with_reducible first | assumption | (intro _) | apply State.storeX_holdIs | apply State.trcEval_holdIs | apply State.lateDemod_holdIs | apply State.engFault_holdIs | apply State.deliver_holdIs | apply State.coupling_holdIs | dsimp only | (refine hold_pair (by assumption) ?_) | (refine hold_opt (by assumption) ?_) | (refine hold_opt1 (by assumption) ?_) | split

theorem State.idleSwap_holdIs {qq : KeySlots × DomState × ObjState} (s : State) (e : Eng) (h_s : HoldIs qq s) :
    HoldIs qq (State.idleSwap s e) := by
  unfold State.idleSwap
  dsimp -failIfUnchanged only
  repeat' with_reducible first | assumption | apply State.doSwap_holdIs | apply hold_ite | dsimp only | split

end Sys2Proof.Machine
end

