-- ==== Sys2Proof/Laws/HoldFrame2.lean ====
section
/-! SUPPORT. The key slots, the Dome and the objects are as before: the operations and commands for which this holds, part 2. -/

set_option linter.unusedTactic false
set_option linter.unreachableTactic false
set_option maxRecDepth 8000

namespace Sys2Proof.Machine

theorem State.profShow_holdIs {qq : KeySlots × DomState × ObjState} (s : State) (e : Eng) (h_s : HoldIs qq s) :
    HoldIs qq (State.profShow s e) := by
  unfold State.profShow
  dsimp -failIfUnchanged only
  repeat' with_reducible first | assumption | (intro _) | apply State.wr_holdIs | dsimp only

theorem State.profTick_holdIs {qq : KeySlots × DomState × ObjState} (s : State) (e : Eng) (i : TickInst) (h_s : HoldIs qq s) :
    HoldIs qq (State.profTick s e i) := by
  unfold State.profTick
  dsimp -failIfUnchanged only
  repeat' with_reducible first | assumption | (intro _) | apply State.profShow_holdIs | apply State.busyFell_holdIs | apply State.engIrq_holdIs | apply State.updEng_holdIs | apply State.wr_holdIs | apply hold_ite | dsimp only | (refine hold_pair (by assumption) ?_) | (refine hold_opt (by assumption) ?_) | (refine hold_opt1 (by assumption) ?_) | (apply hold_mk; dsimp only; apply hold_un) | split

theorem State.setProfP_holdIs {qq : KeySlots × DomState × ObjState} (s : State) (e : Eng) (p : Int) (h_s : HoldIs qq s) :
    HoldIs qq (State.setProfP s e p) := by
  unfold State.setProfP
  dsimp -failIfUnchanged only
  repeat' with_reducible first | assumption | (intro _) | apply State.profShow_holdIs | apply State.updEng_holdIs | apply hold_ite | dsimp only | (apply hold_mk; dsimp only; apply hold_un) | split

theorem State.waitInst_holdIs {qq : KeySlots × DomState × ObjState} (s : State) (e : Eng) (i : TickInst) (h_s : HoldIs qq s) :
    HoldIs qq (State.waitInst s e i) := by
  unfold State.waitInst
  dsimp -failIfUnchanged only
  repeat' with_reducible first | assumption | (intro _) | apply State.engIrq_holdIs | apply State.trcEvent_holdIs | apply State.updEng_holdIs | apply State.bump_holdIs | apply hold_ite | dsimp only | (apply hold_mk; dsimp only; apply hold_un) | split

theorem execCoefWrite_holdIs {qq : KeySlots × DomState × ObjState} (e : Eng) (val : Word) (s : State) (h_s : HoldIs qq s) :
    Out.HoldIs qq (execCoefWrite e val s) := by
  unfold execCoefWrite
  dsimp -failIfUnchanged only
  repeat' with_reducible first | assumption | (intro _) | apply State.coefInc_holdIs | apply State.engIrq_holdIs | apply State.updEng_holdIs | apply State.gated_holdIs | apply hold_next | apply hold_ite3 | apply hold_ite | dsimp only | (apply hold_mk; dsimp only; apply hold_un) | split

theorem execEngCntClr_holdIs {qq : KeySlots × DomState × ObjState} (e : Eng) (s : State) (h_s : HoldIs qq s) :
    Out.HoldIs qq (execEngCntClr e s) := by
  unfold execEngCntClr
  dsimp -failIfUnchanged only
  repeat' with_reducible first | assumption | (intro _) | apply State.gated_holdIs | apply State.wr_holdIs | apply hold_next | apply hold_ite3 | dsimp only

theorem execEngSwap_holdIs {qq : KeySlots × DomState × ObjState} (e : Eng) (s : State) (h_s : HoldIs qq s) :
    Out.HoldIs qq (execEngSwap e s) := by
  unfold execEngSwap
  dsimp -failIfUnchanged only
  repeat' with_reducible first | assumption | (intro _) | apply State.idleSwap_holdIs | apply State.gated_holdIs | apply State.wr_holdIs | apply hold_next | apply hold_ite3 | dsimp only

theorem execEngineTick_holdIs {qq : KeySlots × DomState × ObjState} (e : Eng) (s : State) (h_s : HoldIs qq s) :
    Out.HoldIs qq (execEngineTick e s) := by
  unfold execEngineTick
  dsimp -failIfUnchanged only
  repeat' with_reducible first | assumption | (intro _) | apply State.waitInst_holdIs | apply State.profTick_holdIs | apply State.beginInst_holdIs | apply State.updEng_holdIs | apply hold_next | apply hold_ite3 | apply hold_ite | dsimp only | (apply hold_mk; dsimp only; apply hold_un) | split

theorem execFaultClr_holdIs {qq : KeySlots × DomState × ObjState} (e : Eng) (s : State) (h_s : HoldIs qq s) :
    Out.HoldIs qq (execFaultClr e s) := by
  unfold execFaultClr
  dsimp -failIfUnchanged only
  repeat' with_reducible first | assumption | (intro _) | apply State.engRefresh_holdIs | apply State.updEng_holdIs | apply State.gated_holdIs | apply hold_next | apply hold_ite3 | apply hold_ite | dsimp only | (apply hold_mk; dsimp only; apply hold_un) | split

theorem execProfGo_holdIs {qq : KeySlots × DomState × ObjState} (t : Tower) (s : State) (h_s : HoldIs qq s) :
    Out.HoldIs qq (execProfGo t s) := by
  unfold execProfGo
  dsimp -failIfUnchanged only
  repeat' with_reducible first | assumption | (intro _) | apply State.busyRose_holdIs | apply State.updEng_holdIs | apply State.gated_holdIs | apply State.wr_holdIs | apply hold_next | apply hold_ite3 | apply hold_ite | dsimp only | (apply hold_mk; dsimp only; apply hold_un) | split

theorem execProfPWrite_holdIs {qq : KeySlots × DomState × ObjState} (t : Tower) (val : Word) (s : State) (h_s : HoldIs qq s) :
    Out.HoldIs qq (execProfPWrite t val s) := by
  unfold execProfPWrite
  dsimp -failIfUnchanged only
  repeat' with_reducible first | assumption | (intro _) | apply State.setProfP_holdIs | apply State.gated_holdIs | apply hold_next | apply hold_ite3 | dsimp only

theorem execSlotCfgWrite_holdIs {qq : KeySlots × DomState × ObjState} (e : Eng) (kind : Nat) (n : Nat) (val : Word) (s : State) (h_s : HoldIs qq s) :
    Out.HoldIs qq (execSlotCfgWrite e kind n val s) := by
  unfold execSlotCfgWrite
  dsimp -failIfUnchanged only
  repeat' with_reducible first | assumption | (intro _) | apply State.engIrq_holdIs | apply State.gated_holdIs | apply State.setReg_holdIs | apply hold_next | apply hold_ite3 | apply hold_ite | apply hold_ite1 | dsimp only | split

theorem execSlotEnWrite_holdIs {qq : KeySlots × DomState × ObjState} (e : Eng) (val : Word) (s : State) (h_s : HoldIs qq s) :
    Out.HoldIs qq (execSlotEnWrite e val s) := by
  unfold execSlotEnWrite
  dsimp -failIfUnchanged only
  repeat' with_reducible first | assumption | (intro _) | apply State.idleSwap_holdIs | apply State.engIrq_holdIs | apply State.updEng_holdIs | apply State.gated_holdIs | apply State.wr_holdIs | apply hold_next | apply hold_ite3 | apply hold_ite | dsimp only | (refine hold_pair (by assumption) ?_) | (refine hold_opt (by assumption) ?_) | (refine hold_opt1 (by assumption) ?_) | (apply hold_mk; dsimp only; apply hold_un) | split

theorem execSlotEvaluation_holdIs {qq : KeySlots × DomState × ObjState} (e : Eng) (inp : EngIn) (s : State) (h_s : HoldIs qq s) :
    Out.HoldIs qq (execSlotEvaluation e inp s) := by
  unfold execSlotEvaluation
  dsimp -failIfUnchanged only
  repeat' with_reducible first | assumption | (intro _) | apply State.evaluate_holdIs | apply State.endInst_holdIs | apply State.updEng_holdIs | apply hold_next | apply hold_ite3 | apply hold_ite | dsimp only | (refine hold_pair (by assumption) ?_) | (refine hold_opt (by assumption) ?_) | (refine hold_opt1 (by assumption) ?_) | (apply hold_mk; dsimp only; apply hold_un) | split

theorem execTraceArm_holdIs {qq : KeySlots × DomState × ObjState} (e : Eng) (s : State) (h_s : HoldIs qq s) :
    Out.HoldIs qq (execTraceArm e s) := by
  unfold execTraceArm
  dsimp -failIfUnchanged only
  repeat' with_reducible first | assumption | (intro _) | apply State.updEng_holdIs | apply State.gated_holdIs | apply State.wr_holdIs | apply hold_next | apply hold_ite3 | dsimp only | (apply hold_mk; dsimp only; apply hold_un)

theorem execTraceForce_holdIs {qq : KeySlots × DomState × ObjState} (e : Eng) (s : State) (h_s : HoldIs qq s) :
    Out.HoldIs qq (execTraceForce e s) := by
  unfold execTraceForce
  dsimp -failIfUnchanged only
  repeat' with_reducible first | assumption | (intro _) | apply State.updEng_holdIs | apply State.gated_holdIs | apply hold_next | apply hold_ite3 | apply hold_ite | dsimp only | (apply hold_mk; dsimp only; apply hold_un) | split

theorem State.deliverPos_holdIs {qq : KeySlots × DomState × ObjState} (s : State) (t : Tower) (p : Int) (valid : Bool) (h_s : HoldIs qq s) :
    HoldIs qq (State.deliverPos s t p valid) := by
  unfold State.deliverPos
  dsimp -failIfUnchanged only
  repeat' with_reducible first | assumption | (intro _) | apply State.wrI_holdIs | apply State.updSrv_holdIs | apply State.wb_holdIs | apply State.wr_holdIs | apply hold_ite | dsimp only | (apply hold_mk; dsimp only; apply hold_un) | split

theorem State.loadDone_holdIs {qq : KeySlots × DomState × ObjState} (s : State) (t : Tower) (h_s : HoldIs qq s) :
    HoldIs qq (State.loadDone s t) := by
  unfold State.loadDone
  dsimp -failIfUnchanged only
  repeat' with_reducible first | assumption | (intro _) | apply State.setProfP_holdIs | apply State.setMode_holdIs | apply State.updSrv_holdIs | apply State.wr_holdIs | dsimp only | (apply hold_mk; dsimp only; apply hold_un)

theorem State.srvIrq_holdIs {qq : KeySlots × DomState × ObjState} (s : State) (t : Tower) (bit : Nat) (h_s : HoldIs qq s) :
    HoldIs qq (State.srvIrq s t bit) := by
  unfold State.srvIrq
  dsimp -failIfUnchanged only
  repeat' with_reducible first | assumption | apply State.irq_holdIs | dsimp only

theorem State.missStep_holdIs {qq : KeySlots × DomState × ObjState} (s : State) (t : Tower) (valid : Bool) (h_s : HoldIs qq s) :
    HoldIs qq (State.missStep s t valid) := by
  unfold State.missStep
  dsimp -failIfUnchanged only
  repeat' with_reducible first | assumption | (intro _) | apply State.srvIrq_holdIs | apply State.emergency_holdIs | apply State.updSrv_holdIs | apply State.bump_holdIs | apply hold_ite | dsimp only | (apply hold_mk; dsimp only; apply hold_un) | split

theorem State.modeStep_holdIs {qq : KeySlots × DomState × ObjState} (s : State) (t : Tower) (valid : Bool) (pes : Int) (h_s : HoldIs qq s) :
    HoldIs qq (State.modeStep s t valid pes) := by
  unfold State.modeStep
  dsimp -failIfUnchanged only
  repeat' with_reducible first | assumption | (intro _) | apply State.srvIrq_holdIs | apply State.loadDone_holdIs | apply State.setMode_holdIs | apply State.updSrv_holdIs | apply hold_ite | dsimp only | (apply hold_mk; dsimp only; apply hold_un) | split

theorem State.otwStep_holdIs {qq : KeySlots × DomState × ObjState} (s : State) (t : Tower) (valid : Bool) (pes : Int) (prev : Int) (h_s : HoldIs qq s) :
    HoldIs qq (State.otwStep s t valid pes prev) := by
  unfold State.otwStep
  dsimp -failIfUnchanged only
  repeat' with_reducible first | assumption | (intro _) | apply State.setOtwi_holdIs | apply State.updSrv_holdIs | apply State.wr_holdIs | apply hold_ite | dsimp only | (apply hold_mk; dsimp only; apply hold_un) | split

theorem State.resettle_holdIs {qq : KeySlots × DomState × ObjState} (s : State) (t : Tower) (h_s : HoldIs qq s) :
    HoldIs qq (State.resettle s t) := by
  unfold State.resettle
  dsimp -failIfUnchanged only
  repeat' with_reducible first | assumption | apply State.setMode_holdIs | apply hold_ite | dsimp only | split

theorem State.shockSet_holdIs {qq : KeySlots × DomState × ObjState} (s : State) (t : Tower) (h_s : HoldIs qq s) :
    HoldIs qq (State.shockSet s t) := by
  unfold State.shockSet
  dsimp -failIfUnchanged only
  repeat' with_reducible first | assumption | (intro _) | apply State.srvIrq_holdIs | apply State.setOtwi_holdIs | apply State.updSrv_holdIs | apply State.wr_holdIs | apply hold_ite | dsimp only | (apply hold_mk; dsimp only; apply hold_un) | split

theorem State.shockConv_holdIs {qq : KeySlots × DomState × ObjState} (s : State) (t : Tower) (s0 : Int) (s1 : Int) (h_s : HoldIs qq s) :
    HoldIs qq (State.shockConv s t s0 s1) := by
  unfold State.shockConv
  dsimp -failIfUnchanged only
  repeat' with_reducible first | assumption | (intro _) | apply State.shockSet_holdIs | apply State.wrI_holdIs | apply hold_ite | dsimp only | split

theorem State.toLoading_holdIs {qq : KeySlots × DomState × ObjState} (s : State) (t : Tower) (h_s : HoldIs qq s) :
    HoldIs qq (State.toLoading s t) := by
  unfold State.toLoading
  dsimp -failIfUnchanged only
  repeat' with_reducible first | assumption | (intro _) | apply State.genStart_holdIs | apply State.setMode_holdIs | apply State.updSrv_holdIs | apply State.updAtbT_holdIs | dsimp only | (apply hold_mk; dsimp only; apply hold_un)

theorem State.toUnloading_holdIs {qq : KeySlots × DomState × ObjState} (s : State) (t : Tower) (h_s : HoldIs qq s) :
    HoldIs qq (State.toUnloading s t) := by
  unfold State.toUnloading
  dsimp -failIfUnchanged only
  repeat' with_reducible first | assumption | apply State.genStart_holdIs | apply State.setMode_holdIs | dsimp only

theorem State.srvCmd_holdIs {qq : KeySlots × DomState × ObjState} (s : State) (t : Tower) (b : Nat) (h_s : HoldIs qq s) :
    HoldIs qq (State.srvCmd s t b) := by
  unfold State.srvCmd
  dsimp -failIfUnchanged only
  repeat' with_reducible first | assumption | (intro _) | apply State.toUnloading_holdIs | apply State.toLoading_holdIs | apply State.srvIrq_holdIs | apply State.emergency_holdIs | apply State.toRetract_holdIs | apply hold_ite | dsimp only | (refine hold_pair (by assumption) ?_) | (refine hold_opt (by assumption) ?_) | (refine hold_opt1 (by assumption) ?_) | split

theorem State.srvShutDone_holdIs {qq : KeySlots × DomState × ObjState} (s : State) (t : Tower) (h_s : HoldIs qq s) :
    HoldIs qq (State.srvShutDone s t) := by
  unfold State.srvShutDone
  dsimp -failIfUnchanged only
  repeat' with_reducible first | assumption | apply State.engRefresh_holdIs | apply State.shutDone_holdIs | dsimp only

theorem State.srvStart_holdIs {qq : KeySlots × DomState × ObjState} (s : State) (t : Tower) (h_s : HoldIs qq s) :
    HoldIs qq (State.srvStart s t) := by
  unfold State.srvStart
  dsimp -failIfUnchanged only
  repeat' with_reducible first | assumption | (intro _) | apply State.updSrv_holdIs | dsimp only | (apply hold_mk; dsimp only; apply hold_un)

theorem execDemodResult_holdIs {qq : KeySlots × DomState × ObjState} (t : Tower) (ra : BurstIn) (rb : BurstIn) (s : State) (h_s : HoldIs qq s) :
    Out.HoldIs qq (execDemodResult t ra rb s) := by
  unfold execDemodResult
  dsimp -failIfUnchanged only
  repeat' with_reducible first | assumption | (intro _) | apply State.otwStep_holdIs | apply State.modeStep_holdIs | apply State.missStep_holdIs | apply State.deliverPos_holdIs | apply State.setOtwi_holdIs | apply State.updSrv_holdIs | apply State.drawn_holdIs | apply State.bump_holdIs | apply hold_next | apply hold_ite3 | apply hold_ite | dsimp only | (apply hold_mk; dsimp only; apply hold_un) | split

theorem execGenHoldEnd_holdIs {qq : KeySlots × DomState × ObjState} (t : Tower) (s : State) (h_s : HoldIs qq s) :
    Out.HoldIs qq (execGenHoldEnd t s) := by
  unfold execGenHoldEnd
  dsimp -failIfUnchanged only
  repeat' with_reducible first | assumption | (intro _) | apply State.srvShutDone_holdIs | apply State.srvIrq_holdIs | apply State.setMode_holdIs | apply State.updSrv_holdIs | apply hold_next | apply hold_ite3 | apply hold_ite | dsimp only | (refine hold_pair (by assumption) ?_) | (refine hold_opt (by assumption) ?_) | (refine hold_opt1 (by assumption) ?_) | (apply hold_mk; dsimp only; apply hold_un) | split

theorem execGenMoveEnd_holdIs {qq : KeySlots × DomState × ObjState} (t : Tower) (s : State) (h_s : HoldIs qq s) :
    Out.HoldIs qq (execGenMoveEnd t s) := by
  unfold execGenMoveEnd
  dsimp -failIfUnchanged only
  repeat' with_reducible first | assumption | (intro _) | apply State.updSrv_holdIs | apply hold_next | apply hold_ite3 | apply hold_ite | dsimp only | (refine hold_pair (by assumption) ?_) | (refine hold_opt (by assumption) ?_) | (refine hold_opt1 (by assumption) ?_) | (apply hold_mk; dsimp only; apply hold_un) | split

theorem execGeneratorTick_holdIs {qq : KeySlots × DomState × ObjState} (t : Tower) (vaux : Int) (vcmI : Int) (s : State) (h_s : HoldIs qq s) :
    Out.HoldIs qq (execGeneratorTick t vaux vcmI s) := by
  unfold execGeneratorTick
  dsimp -failIfUnchanged only
  repeat' with_reducible first | assumption | (intro _) | apply State.updSrv_holdIs | apply hold_next | apply hold_ite3 | apply hold_ite | dsimp only | (refine hold_pair (by assumption) ?_) | (refine hold_opt (by assumption) ?_) | (refine hold_opt1 (by assumption) ?_) | (apply hold_mk; dsimp only; apply hold_un) | split

theorem execLoad_holdIs {qq : KeySlots × DomState × ObjState} (t : Tower) (others : Word) (s : State) (h_s : HoldIs qq s) :
    Out.HoldIs qq (execLoad t others s) := by
  unfold execLoad
  dsimp -failIfUnchanged only
  repeat' with_reducible first | assumption | (intro _) | apply State.srvCmd_holdIs | apply State.gated_holdIs | apply hold_next | apply hold_ite3 | dsimp only

theorem execLoadTimeout_holdIs {qq : KeySlots × DomState × ObjState} (t : Tower) (s : State) (h_s : HoldIs qq s) :
    Out.HoldIs qq (execLoadTimeout t s) := by
  unfold execLoadTimeout
  dsimp -failIfUnchanged only
  repeat' with_reducible first | assumption | apply State.toRetract_holdIs | apply hold_next | apply hold_ite3 | apply hold_ite | dsimp only | split

theorem execRetract_holdIs {qq : KeySlots × DomState × ObjState} (t : Tower) (others : Word) (s : State) (h_s : HoldIs qq s) :
    Out.HoldIs qq (execRetract t others s) := by
  unfold execRetract
  dsimp -failIfUnchanged only
  repeat' with_reducible first | assumption | (intro _) | apply State.srvCmd_holdIs | apply State.gated_holdIs | apply hold_next | apply hold_ite3 | dsimp only

theorem execShockConversion_holdIs {qq : KeySlots × DomState × ObjState} (s0 : Int) (s1 : Int) (s : State) (h_s : HoldIs qq s) :
    Out.HoldIs qq (execShockConversion s0 s1 s) := by
  unfold execShockConversion
  dsimp -failIfUnchanged only
  repeat' with_reducible first | assumption | apply State.shockConv_holdIs | apply hold_next | apply hold_ite3 | dsimp only

theorem execSrvHeadWrite_holdIs {qq : KeySlots × DomState × ObjState} (t : Tower) (val : Word) (s : State) (h_s : HoldIs qq s) :
    Out.HoldIs qq (execSrvHeadWrite t val s) := by
  unfold execSrvHeadWrite
  dsimp -failIfUnchanged only
  repeat' with_reducible first | assumption | (intro _) | apply State.srvIrq_holdIs | apply State.setOtwi_holdIs | apply State.updSrv_holdIs | apply State.gated_holdIs | apply State.wr_holdIs | apply hold_next | apply hold_ite3 | apply hold_ite | dsimp only | (apply hold_mk; dsimp only; apply hold_un) | split

theorem execSrvOffsetWrite_holdIs {qq : KeySlots × DomState × ObjState} (t : Tower) (val : Word) (s : State) (h_s : HoldIs qq s) :
    Out.HoldIs qq (execSrvOffsetWrite t val s) := by
  unfold execSrvOffsetWrite
  dsimp -failIfUnchanged only
  repeat' with_reducible first | assumption | (intro _) | apply State.resettle_holdIs | apply State.gated_holdIs | apply State.wr_holdIs | apply hold_next | apply hold_ite3 | dsimp only

theorem execSrvTrackWrite_holdIs {qq : KeySlots × DomState × ObjState} (t : Tower) (val : Word) (s : State) (h_s : HoldIs qq s) :
    Out.HoldIs qq (execSrvTrackWrite t val s) := by
  unfold execSrvTrackWrite
  dsimp -failIfUnchanged only
  repeat' with_reducible first | assumption | (intro _) | apply State.resettle_holdIs | apply State.gated_holdIs | apply State.wr_holdIs | apply hold_next | apply hold_ite3 | dsimp only

theorem execUnload_holdIs {qq : KeySlots × DomState × ObjState} (t : Tower) (others : Word) (s : State) (h_s : HoldIs qq s) :
    Out.HoldIs qq (execUnload t others s) := by
  unfold execUnload
  dsimp -failIfUnchanged only
  repeat' with_reducible first | assumption | (intro _) | apply State.srvCmd_holdIs | apply State.gated_holdIs | apply hold_next | apply hold_ite3 | dsimp only

theorem State.updSlot_holdIs {qq : KeySlots × DomState × ObjState} (s : State) (t : Tower) (k : Nat) (f : RbSlot → RbSlot) (h_s : HoldIs qq s) :
    HoldIs qq (State.updSlot s t k f) := by
  unfold State.updSlot
  dsimp -failIfUnchanged only
  repeat' with_reducible first | assumption | (intro _) | apply State.updChn_holdIs | dsimp only | (apply hold_mk; dsimp only; apply hold_un)

theorem State.setAfe_holdIs {qq : KeySlots × DomState × ObjState} (s : State) (t : Tower) (b : Bool) (a : AfeIn) (h_s : HoldIs qq s) :
    HoldIs qq (State.setAfe s t b a) := by
  unfold State.setAfe
  dsimp -failIfUnchanged only
  repeat' with_reducible first | assumption | apply State.afeSet_holdIs | apply State.wr_holdIs | dsimp only

theorem State.capStore_holdIs {qq : KeySlots × DomState × ObjState} (s : State) (t : Tower) (k : Nat) (sampA : List Byte) (sampB : List Byte) (afeA : AfeIn) (afeB : AfeIn) (h_s : HoldIs qq s) :
    HoldIs qq (State.capStore s t k sampA sampB afeA afeB) := by
  unfold State.capStore
  dsimp -failIfUnchanged only
  repeat' with_reducible first | assumption | (intro _) | apply State.setAfe_holdIs | apply State.updSlot_holdIs | apply hold_ite | dsimp only | (apply hold_mk; dsimp only; apply hold_un) | split

theorem State.chnCoefInc_holdIs {qq : KeySlots × DomState × ObjState} (s : State) (t : Tower) (h_s : HoldIs qq s) :
    HoldIs qq (State.chnCoefInc s t) := by
  unfold State.chnCoefInc
  dsimp -failIfUnchanged only
  repeat' with_reducible first | assumption | apply State.wr_holdIs | apply hold_ite | dsimp only | split

theorem State.chnIrq_holdIs {qq : KeySlots × DomState × ObjState} (s : State) (t : Tower) (bit : Nat) (h_s : HoldIs qq s) :
    HoldIs qq (State.chnIrq s t bit) := by
  unfold State.chnIrq
  dsimp -failIfUnchanged only
  repeat' with_reducible first | assumption | apply State.irq_holdIs | dsimp only

theorem State.chnStart_holdIs {qq : KeySlots × DomState × ObjState} (s : State) (t : Tower) (h_s : HoldIs qq s) :
    HoldIs qq (State.chnStart s t) := by
  unfold State.chnStart
  dsimp -failIfUnchanged only
  repeat' with_reducible first | assumption | (intro _) | apply State.regate_holdIs | apply State.updChn_holdIs | dsimp only | (apply hold_mk; dsimp only; apply hold_un)

theorem State.setPin_holdIs {qq : KeySlots × DomState × ObjState} (s : State) (t : Tower) (k : Nat) (v : Bool) (h_s : HoldIs qq s) :
    HoldIs qq (State.setPin s t k v) := by
  unfold State.setPin
  dsimp -failIfUnchanged only
  repeat' with_reducible first | assumption | (intro _) | apply State.wb_holdIs | apply State.wr_holdIs | dsimp only

theorem State.setDepth_holdIs {qq : KeySlots × DomState × ObjState} (s : State) (t : Tower) (h_s : HoldIs qq s) :
    HoldIs qq (State.setDepth s t) := by
  unfold State.setDepth
  dsimp -failIfUnchanged only
  repeat' with_reducible first | assumption | apply State.wr_holdIs | dsimp only

theorem State.postAuto_holdIs {qq : KeySlots × DomState × ObjState} (s : State) (t : Tower) (k : Nat) (modes : List Nat) (h_s : HoldIs qq s) :
    HoldIs qq (State.postAuto s t k modes) := by
  unfold State.postAuto
  dsimp -failIfUnchanged only
  repeat' with_reducible first | assumption | (intro _) | apply State.setDepth_holdIs | apply State.chnIrq_holdIs | apply State.updChn_holdIs | apply hold_ite | dsimp only | (refine hold_pair (by assumption) ?_) | (refine hold_opt (by assumption) ?_) | (refine hold_opt1 (by assumption) ?_) | (apply hold_mk; dsimp only; apply hold_un) | split

theorem State.liveEnd_holdIs {qq : KeySlots × DomState × ObjState} (s : State) (t : Tower) (k : Nat) (r : RecInfo) (h_s : HoldIs qq s) :
    HoldIs qq (State.liveEnd s t k r) := by
  unfold State.liveEnd
  dsimp -failIfUnchanged only
  repeat' with_reducible first | assumption | (intro _) | apply State.postAuto_holdIs | apply State.setPin_holdIs | apply State.updSlot_holdIs | apply State.liveOutcome_holdIs | apply hold_ite | dsimp only | (apply hold_mk; dsimp only; apply hold_un) | split

theorem State.setDec_holdIs {qq : KeySlots × DomState × ObjState} (s : State) (t : Tower) (u : Unit3) (d : Option Decode) (h_s : HoldIs qq s) :
    HoldIs qq (State.setDec s t u d) := by
  unfold State.setDec
  dsimp -failIfUnchanged only
  repeat' with_reducible first | assumption | (intro _) | apply State.updChn_holdIs | apply State.wb_holdIs | dsimp only | (refine hold_pair (by assumption) ?_) | (refine hold_opt (by assumption) ?_) | (refine hold_opt1 (by assumption) ?_) | (apply hold_mk; dsimp only; apply hold_un) | split

theorem State.replayDec_holdIs {qq : KeySlots × DomState × ObjState} (s : State) (t : Tower) (q : RpReq) (coef : List (Nat × Nat)) (k : Nat) (c : Cand) (rest : List Cand) (h_s : HoldIs qq s) :
    HoldIs qq (State.replayDec s t q coef k c rest) := by
  unfold State.replayDec
  dsimp -failIfUnchanged only
  repeat' with_reducible first | assumption | (intro _) | apply State.setDec_holdIs | apply State.updSlot_holdIs | dsimp only | (apply hold_mk; dsimp only; apply hold_un)

theorem State.replayEnd_holdIs {qq : KeySlots × DomState × ObjState} (s : State) (t : Tower) (q : RpReq) (k : Nat) (cap : CapPlan) (r : RecInfo) (h_s : HoldIs qq s) :
    HoldIs qq (State.replayEnd s t q k cap r) := by
  unfold State.replayEnd
  dsimp -failIfUnchanged only
  repeat' with_reducible first | assumption | (intro _) | apply State.postAuto_holdIs | apply State.sectorSeen_holdIs | apply State.chnCounts_holdIs | apply State.chnRecord_holdIs | apply State.wr_holdIs | apply hold_ite | dsimp only | split

theorem State.liveNext_holdIs {qq : KeySlots × DomState × ObjState} (s : State) (t : Tower) (u : Unit3) (h_s : HoldIs qq s) :
    HoldIs qq (State.liveNext s t u) := by
  unfold State.liveNext
  dsimp -failIfUnchanged only
  repeat' with_reducible first | assumption | (intro _) | apply State.setDec_holdIs | apply State.updChn_holdIs | apply hold_ite | apply hold_ite1 | dsimp only | (refine hold_pair (by assumption) ?_) | (refine hold_opt (by assumption) ?_) | (refine hold_opt1 (by assumption) ?_) | (apply hold_mk; dsimp only; apply hold_un) | split

theorem State.decFail_holdIs {qq : KeySlots × DomState × ObjState} (s : State) (t : Tower) (u : Unit3) (d : Decode) (outcome : Nat) (h_s : HoldIs qq s) :
    HoldIs qq (State.decFail s t u d outcome) := by
  unfold State.decFail
  dsimp -failIfUnchanged only
  repeat' with_reducible first | assumption | (intro _) | apply State.liveNext_holdIs | apply State.replayEnd_holdIs | apply State.replayDec_holdIs | apply State.setDec_holdIs | apply State.liveEnd_holdIs | apply hold_ite | dsimp only | (refine hold_pair (by assumption) ?_) | (refine hold_opt (by assumption) ?_) | (refine hold_opt1 (by assumption) ?_) | split

theorem State.deadline_holdIs {qq : KeySlots × DomState × ObjState} (s : State) (t : Tower) (u : Unit3) (n : Nat) (h_s : HoldIs qq s) :
    HoldIs qq (State.deadline s t u n) := by
  unfold State.deadline
  dsimp -failIfUnchanged only
  repeat' with_reducible first | assumption | (intro _) | apply State.decFail_holdIs | apply State.liveEnd_holdIs | apply State.updChn_holdIs | apply hold_ite | apply hold_ite1 | (refine hold_foldl ?_ (fun _ _ _ => ?_)) | (refine hold_foldl1 ?_ (fun _ _ _ => ?_)) | (refine hold_foldl2 ?_ (fun _ _ _ => ?_)) | dsimp only | (refine hold_pair (by assumption) ?_) | (refine hold_opt (by assumption) ?_) | (refine hold_opt1 (by assumption) ?_) | (apply hold_mk; dsimp only; apply hold_un) | split

theorem State.liveDec_holdIs {qq : KeySlots × DomState × ObjState} (s : State) (t : Tower) (u : Unit3) (k : Nat) (c : Cand) (soft : List Int) (h_s : HoldIs qq s) :
    HoldIs qq (State.liveDec s t u k c soft) := by
  unfold State.liveDec
  dsimp -failIfUnchanged only
  repeat' with_reducible first | assumption | (intro _) | apply State.liveNext_holdIs | apply State.updSlot_holdIs | apply State.updChn_holdIs | dsimp only | (apply hold_mk; dsimp only; apply hold_un)

theorem State.pinWrite_holdIs {qq : KeySlots × DomState × ObjState} (s : State) (t : Tower) (op : Bool) (val : Word) (h_s : HoldIs qq s) :
    HoldIs qq (State.pinWrite s t op val) := by
  unfold State.pinWrite
  dsimp -failIfUnchanged only
  repeat' with_reducible first | assumption | (intro _) | apply State.setPin_holdIs | apply State.chnIrq_holdIs | apply State.wr_holdIs | apply hold_ite | dsimp only | split

theorem State.refuseReq_holdIs {qq : KeySlots × DomState × ObjState} (s : State) (t : Tower) (q : RpReq) (h_s : HoldIs qq s) :
    HoldIs qq (State.refuseReq s t q) := by
  unfold State.refuseReq
  dsimp -failIfUnchanged only
  repeat' with_reducible first | assumption | (intro _) | apply State.replayEnd_holdIs | apply hold_ite | dsimp only | (apply hold_mk; dsimp only; apply hold_un) | split

theorem State.rpPush_holdIs {qq : KeySlots × DomState × ObjState} (s : State) (t : Tower) (h_s : HoldIs qq s) :
    HoldIs qq (State.rpPush s t) := by
  unfold State.rpPush
  dsimp -failIfUnchanged only
  repeat' with_reducible first | assumption | (intro _) | apply State.refuseReq_holdIs | apply State.setDepth_holdIs | apply State.chnIrq_holdIs | apply State.updChn_holdIs | apply hold_ite | dsimp only | (apply hold_mk; dsimp only; apply hold_un) | split

theorem State.runReq_holdIs {qq : KeySlots × DomState × ObjState} (s : State) (t : Tower) (q : RpReq) (h_s : HoldIs qq s) :
    HoldIs qq (State.runReq s t q) := by
  unfold State.runReq
  dsimp -failIfUnchanged only
  repeat' with_reducible first | assumption | (intro _) | apply State.replayEnd_holdIs | apply State.replayDec_holdIs | apply State.updSlot_holdIs | apply State.drawn_holdIs | apply State.bump_holdIs | apply State.wr_holdIs | apply hold_ite | dsimp only | (refine hold_pair (by assumption) ?_) | (refine hold_opt (by assumption) ?_) | (refine hold_opt1 (by assumption) ?_) | (apply hold_mk; dsimp only; apply hold_un) | split

theorem execChnCntClr_holdIs {qq : KeySlots × DomState × ObjState} (t : Tower) (val : Word) (s : State) (h_s : HoldIs qq s) :
    Out.HoldIs qq (execChnCntClr t val s) := by
  unfold execChnCntClr
  dsimp -failIfUnchanged only
  repeat' with_reducible first | assumption | (intro _) | apply State.gated_holdIs | apply State.setReg_holdIs | apply hold_next | apply hold_ite3 | apply hold_ite | (refine hold_foldl ?_ (fun _ _ _ => ?_)) | (refine hold_foldl1 ?_ (fun _ _ _ => ?_)) | (refine hold_foldl2 ?_ (fun _ _ _ => ?_)) | dsimp only | split

theorem execChnCoefWrite_holdIs {qq : KeySlots × DomState × ObjState} (t : Tower) (val : Word) (s : State) (h_s : HoldIs qq s) :
    Out.HoldIs qq (execChnCoefWrite t val s) := by
  unfold execChnCoefWrite
  dsimp -failIfUnchanged only
  repeat' with_reducible first | assumption | (intro _) | apply State.chnIrq_holdIs | apply State.chnCoefInc_holdIs | apply State.updChn_holdIs | apply State.gated_holdIs | apply hold_next | apply hold_ite3 | apply hold_ite | dsimp only | (apply hold_mk; dsimp only; apply hold_un) | split

theorem execChnRpPush_holdIs {qq : KeySlots × DomState × ObjState} (t : Tower) (val : Word) (s : State) (h_s : HoldIs qq s) :
    Out.HoldIs qq (execChnRpPush t val s) := by
  unfold execChnRpPush
  dsimp -failIfUnchanged only
  repeat' with_reducible first | assumption | (intro _) | apply State.rpPush_holdIs | apply State.gated_holdIs | apply hold_next | apply hold_ite3 | apply hold_ite | dsimp only | split

theorem execCrcCheckDone_holdIs {qq : KeySlots × DomState × ObjState} (t : Tower) (u : Unit3) (s : State) (h_s : HoldIs qq s) :
    Out.HoldIs qq (execCrcCheckDone t u s) := by
  unfold execCrcCheckDone
  dsimp -failIfUnchanged only
  repeat' with_reducible first | assumption | (intro _) | apply State.replayEnd_holdIs | apply State.liveEnd_holdIs | apply State.updChn_holdIs | apply State.setBytes_holdIs | apply State.drawn_holdIs | apply hold_next | apply hold_ite3 | apply hold_ite | apply hold_ite1 | dsimp only | (refine hold_pair (by assumption) ?_) | (refine hold_opt (by assumption) ?_) | (refine hold_opt1 (by assumption) ?_) | (apply hold_mk; dsimp only; apply hold_un) | split

theorem execDetectorPassDone_holdIs {qq : KeySlots × DomState × ObjState} (t : Tower) (u : Unit3) (s : State) (h_s : HoldIs qq s) :
    Out.HoldIs qq (execDetectorPassDone t u s) := by
  unfold execDetectorPassDone
  dsimp -failIfUnchanged only
  repeat' with_reducible first | assumption | apply State.setDec_holdIs | apply State.drawn_holdIs | apply hold_next | apply hold_ite3 | apply hold_ite | dsimp only | (refine hold_pair (by assumption) ?_) | (refine hold_opt (by assumption) ?_) | (refine hold_opt1 (by assumption) ?_) | split

theorem execEqAdaptUpdate_holdIs {qq : KeySlots × DomState × ObjState} (t : Tower) (s : State) (h_s : HoldIs qq s) :
    Out.HoldIs qq (execEqAdaptUpdate t s) := by
  unfold execEqAdaptUpdate
  dsimp -failIfUnchanged only
  repeat' with_reducible first | assumption | (intro _) | apply State.updChn_holdIs | apply State.drawn_holdIs | apply hold_next | apply hold_ite3 | (refine hold_foldl ?_ (fun _ _ _ => ?_)) | (refine hold_foldl1 ?_ (fun _ _ _ => ?_)) | (refine hold_foldl2 ?_ (fun _ _ _ => ?_)) | dsimp only | (refine hold_pair (by assumption) ?_) | (refine hold_opt (by assumption) ?_) | (refine hold_opt1 (by assumption) ?_) | (apply hold_mk; dsimp only; apply hold_un) | split

theorem execFrontDetectorDone_holdIs {qq : KeySlots × DomState × ObjState} (t : Tower) (verify : Bool) (sampA : List Byte) (sampB : List Byte) (afeA : AfeIn) (afeB : AfeIn) (s : State) (h_s : HoldIs qq s) :
    Out.HoldIs qq (execFrontDetectorDone t verify sampA sampB afeA afeB s) := by
  unfold execFrontDetectorDone
  dsimp -failIfUnchanged only
  repeat' with_reducible first | assumption | (intro _) | apply State.liveDec_holdIs | apply State.deadline_holdIs | apply State.liveEnd_holdIs | apply State.capStore_holdIs | apply State.updSlot_holdIs | apply State.capSettle_holdIs | apply State.updChn_holdIs | apply State.drawn_holdIs | apply State.bump_holdIs | apply hold_next | apply hold_ite3 | apply hold_ite | apply hold_ite1 | dsimp only | (refine hold_pair (by assumption) ?_) | (refine hold_opt (by assumption) ?_) | (refine hold_opt1 (by assumption) ?_) | (apply hold_mk; dsimp only; apply hold_un) | split

theorem execLocalIterationDone_holdIs {qq : KeySlots × DomState × ObjState} (t : Tower) (u : Unit3) (s : State) (h_s : HoldIs qq s) :
    Out.HoldIs qq (execLocalIterationDone t u s) := by
  unfold execLocalIterationDone
  split
  · exact h_s
  · split
    · exact h_s
    · generalize Decode.iterate _ _ _ = d1
      have h1 := State.drawn_holdIs s h_s
      dsimp only
      repeat' with_reducible first | assumption | apply State.decFail_holdIs | apply State.liveNext_holdIs | apply State.setDec_holdIs | apply State.updChn_holdIs | apply hold_next | apply hold_ite3

theorem execRbPin_holdIs {qq : KeySlots × DomState × ObjState} (t : Tower) (val : Word) (s : State) (h_s : HoldIs qq s) :
    Out.HoldIs qq (execRbPin t val s) := by
  unfold execRbPin
  dsimp -failIfUnchanged only
  repeat' with_reducible first | assumption | (intro _) | apply State.pinWrite_holdIs | apply State.gated_holdIs | apply hold_next | apply hold_ite3 | dsimp only

theorem execRbUnpin_holdIs {qq : KeySlots × DomState × ObjState} (t : Tower) (val : Word) (s : State) (h_s : HoldIs qq s) :
    Out.HoldIs qq (execRbUnpin t val s) := by
  unfold execRbUnpin
  dsimp -failIfUnchanged only
  repeat' with_reducible first | assumption | (intro _) | apply State.pinWrite_holdIs | apply State.gated_holdIs | apply hold_next | apply hold_ite3 | dsimp only

theorem execReaderStreamOverflow_holdIs {qq : KeySlots × DomState × ObjState} (t : Tower) (s : State) (h_s : HoldIs qq s) :
    Out.HoldIs qq (execReaderStreamOverflow t s) := by
  unfold execReaderStreamOverflow
  dsimp -failIfUnchanged only
  repeat' with_reducible first | assumption | (intro _) | apply State.capSettle_holdIs | apply State.capCut_holdIs | apply hold_next | apply hold_ite3 | dsimp only | (refine hold_pair (by assumption) ?_) | (refine hold_opt (by assumption) ?_) | (refine hold_opt1 (by assumption) ?_) | split

theorem execReplayStart_holdIs {qq : KeySlots × DomState × ObjState} (t : Tower) (s : State) (h_s : HoldIs qq s) :
    Out.HoldIs qq (execReplayStart t s) := by
  unfold execReplayStart
  dsimp -failIfUnchanged only
  repeat' with_reducible first | assumption | (intro _) | apply State.runReq_holdIs | apply State.refuseReq_holdIs | apply State.setDepth_holdIs | apply State.updChn_holdIs | apply State.wr_holdIs | apply hold_next | apply hold_ite3 | apply hold_ite | apply hold_ite1 | dsimp only | (refine hold_pair (by assumption) ?_) | (refine hold_opt (by assumption) ?_) | (refine hold_opt1 (by assumption) ?_) | (apply hold_mk; dsimp only; apply hold_un) | split

theorem State.cplIrq_holdIs {qq : KeySlots × DomState × ObjState} (s : State) (t : Tower) (bit : Nat) (h_s : HoldIs qq s) :
    HoldIs qq (State.cplIrq s t bit) := by
  unfold State.cplIrq
  dsimp -failIfUnchanged only
  repeat' with_reducible first | assumption | apply State.irq_holdIs | dsimp only

theorem State.cplFwDone_holdIs {qq : KeySlots × DomState × ObjState} (s : State) (t : Tower) (err : Bool) (h_s : HoldIs qq s) :
    HoldIs qq (State.cplFwDone s t err) := by
  unfold State.cplFwDone
  dsimp -failIfUnchanged only
  repeat' with_reducible first | assumption | apply State.cplIrq_holdIs | apply State.wb_holdIs | apply State.wr_holdIs | dsimp only

theorem State.cplStopEnd_holdIs {qq : KeySlots × DomState × ObjState} (s : State) (t : Tower) (h_s : HoldIs qq s) :
    HoldIs qq (State.cplStopEnd s t) := by
  unfold State.cplStopEnd
  dsimp -failIfUnchanged only
  repeat' with_reducible first | assumption | (intro _) | apply State.cplFwDone_holdIs | apply State.updCpl_holdIs | apply State.shutDone_holdIs | apply State.wr_holdIs | apply hold_ite | dsimp only | (apply hold_mk; dsimp only; apply hold_un) | split

theorem State.lanShutDone_holdIs {qq : KeySlots × DomState × ObjState} (s : State) (t : Tower) (h_s : HoldIs qq s) :
    HoldIs qq (State.lanShutDone s t) := by
  unfold State.lanShutDone
  dsimp -failIfUnchanged only
  repeat' with_reducible first | assumption | (intro _) | apply State.cplStopEnd_holdIs | apply State.updLan_holdIs | apply State.shutDone_holdIs | apply hold_ite | dsimp only | (apply hold_mk; dsimp only; apply hold_un) | split

theorem State.lanStop_holdIs {qq : KeySlots × DomState × ObjState} (s : State) (t : Tower) (h_s : HoldIs qq s) :
    HoldIs qq (State.lanStop s t) := by
  unfold State.lanStop
  dsimp -failIfUnchanged only
  repeat' with_reducible first | assumption | (intro _) | apply State.lanShutDone_holdIs | apply State.regate_holdIs | apply State.dropAG_holdIs | apply State.updLan_holdIs | apply State.wr_holdIs | apply hold_ite | dsimp only | (apply hold_mk; dsimp only; apply hold_un) | split

theorem State.lanFault_holdIs {qq : KeySlots × DomState × ObjState} (s : State) (t : Tower) (cause : Nat) (h_s : HoldIs qq s) :
    HoldIs qq (State.lanFault s t cause) := by
  unfold State.lanFault
  dsimp -failIfUnchanged only
  repeat' with_reducible first | assumption | (intro _) | apply State.lanStop_holdIs | apply State.hwPost_holdIs | apply State.faultStop_holdIs | apply State.wr_holdIs | dsimp only

theorem State.cplStop_holdIs {qq : KeySlots × DomState × ObjState} (s : State) (t : Tower) (h_s : HoldIs qq s) :
    HoldIs qq (State.cplStop s t) := by
  unfold State.cplStop
  dsimp -failIfUnchanged only
  repeat' with_reducible first | assumption | (intro _) | apply State.lanFault_holdIs | apply State.cplStopEnd_holdIs | apply State.regate_holdIs | apply State.updLan_holdIs | apply State.updCpl_holdIs | apply hold_ite | dsimp only | (apply hold_mk; dsimp only; apply hold_un) | split

theorem State.cplAdopt_holdIs {qq : KeySlots × DomState × ObjState} (s : State) (t : Tower) (data : Nat) (h_s : HoldIs qq s) :
    HoldIs qq (State.cplAdopt s t data) := by
  unfold State.cplAdopt
  dsimp -failIfUnchanged only
  repeat' with_reducible first | assumption | (intro _) | apply State.cplStop_holdIs | apply State.cplIrq_holdIs | apply State.updCpl_holdIs | apply State.faultStop_holdIs | apply State.wr_holdIs | apply hold_ite | dsimp only | (apply hold_mk; dsimp only; apply hold_un) | split

theorem State.cplLoopCheck_holdIs {qq : KeySlots × DomState × ObjState} (s : State) (t : Tower) (data : Nat) (h_s : HoldIs qq s) :
    HoldIs qq (State.cplLoopCheck s t data) := by
  unfold State.cplLoopCheck
  dsimp -failIfUnchanged only
  repeat' with_reducible first | assumption | apply State.cplIrq_holdIs | apply State.bump_holdIs | apply hold_ite | dsimp only | split

theorem State.cplCaps_holdIs {qq : KeySlots × DomState × ObjState} (s : State) (t : Tower) (data : Nat) (h_s : HoldIs qq s) :
    HoldIs qq (State.cplCaps s t data) := by
  unfold State.cplCaps
  dsimp -failIfUnchanged only
  repeat' with_reducible first | assumption | (intro _) | apply State.updCpl_holdIs | apply State.wr_holdIs | dsimp only | (apply hold_mk; dsimp only; apply hold_un)

theorem State.cplWritten_holdIs {qq : KeySlots × DomState × ObjState} (s : State) (t : Tower) (f : CplFrame) (h_s : HoldIs qq s) :
    HoldIs qq (State.cplWritten s t f) := by
  unfold State.cplWritten
  dsimp -failIfUnchanged only
  repeat' with_reducible first | assumption | (intro _) | apply State.lanShutDone_holdIs | apply State.cmpActNow_holdIs | apply State.lanAssist_holdIs | apply State.updLan_holdIs | apply State.updCpl_holdIs | apply State.setSt_holdIs | apply hold_ite | dsimp only | (apply hold_mk; dsimp only; apply hold_un) | split

theorem State.cplAnswer_holdIs {qq : KeySlots × DomState × ObjState} (s : State) (t : Tower) (f : CplFrame) (data : Nat) (h_s : HoldIs qq s) :
    HoldIs qq (State.cplAnswer s t f data) := by
  unfold State.cplAnswer
  dsimp -failIfUnchanged only
  repeat' with_reducible first | assumption | (intro _) | apply State.cplWritten_holdIs | apply State.cplCaps_holdIs | apply State.cplLoopCheck_holdIs | apply State.cplAdopt_holdIs | apply State.cplFwDone_holdIs | apply State.updCpl_holdIs | apply State.wr_holdIs | apply hold_ite | dsimp only | (apply hold_mk; dsimp only; apply hold_un) | split

theorem State.cplRegCmd_holdIs {qq : KeySlots × DomState × ObjState} (s : State) (t : Tower) (val : Word) (h_s : HoldIs qq s) :
    HoldIs qq (State.cplRegCmd s t val) := by
  unfold State.cplRegCmd
  dsimp -failIfUnchanged only
  repeat' with_reducible first | assumption | (intro _) | apply State.cplIrq_holdIs | apply State.updCpl_holdIs | apply State.wr_holdIs | apply hold_ite | dsimp only | (apply hold_mk; dsimp only; apply hold_un) | split

theorem State.cplRespond_holdIs {qq : KeySlots × DomState × ObjState} (s : State) (t : Tower) (f : CplFrame) (h_s : HoldIs qq s) :
    HoldIs qq (State.cplRespond s t f) := by
  unfold State.cplRespond
  dsimp -failIfUnchanged only
  repeat' with_reducible first | assumption | (intro _) | apply State.cplAnswer_holdIs | apply State.updCpl_holdIs | apply hold_ite | apply hold_ite1 | dsimp only | (apply hold_mk; dsimp only; apply hold_un) | split

theorem State.linkFault_holdIs {qq : KeySlots × DomState × ObjState} (s : State) (t : Tower) (f : CplFrame) (h_s : HoldIs qq s) :
    HoldIs qq (State.linkFault s t f) := by
  unfold State.linkFault
  dsimp -failIfUnchanged only
  repeat' with_reducible first | assumption | (intro _) | apply State.cplStop_holdIs | apply State.lanShutDone_holdIs | apply State.cplFwDone_holdIs | apply State.cplIrq_holdIs | apply State.updCpl_holdIs | apply State.faultStop_holdIs | apply State.wr_holdIs | apply hold_ite | dsimp only | (apply hold_mk; dsimp only; apply hold_un) | split

theorem State.cplRetry_holdIs {qq : KeySlots × DomState × ObjState} (s : State) (t : Tower) (f : CplFrame) (h_s : HoldIs qq s) :
    HoldIs qq (State.cplRetry s t f) := by
  unfold State.cplRetry
  dsimp -failIfUnchanged only
  repeat' with_reducible first | assumption | (intro _) | apply State.linkFault_holdIs | apply State.cplStop_holdIs | apply State.updCpl_holdIs | apply State.faultStop_holdIs | apply hold_ite | dsimp only | (apply hold_mk; dsimp only; apply hold_un) | split

theorem State.cplSend_holdIs {qq : KeySlots × DomState × ObjState} (s : State) (t : Tower) (h_s : HoldIs qq s) :
    HoldIs qq (State.cplSend s t) := by
  unfold State.cplSend
  dsimp -failIfUnchanged only
  repeat' with_reducible first | assumption | (intro _) | apply State.cplRespond_holdIs | apply State.updCpl_holdIs | apply hold_ite | dsimp only | (refine hold_pair (by assumption) ?_) | (refine hold_opt (by assumption) ?_) | (refine hold_opt1 (by assumption) ?_) | (apply hold_mk; dsimp only; apply hold_un) | split

theorem State.cplStart_holdIs {qq : KeySlots × DomState × ObjState} (s : State) (t : Tower) (h_s : HoldIs qq s) :
    HoldIs qq (State.cplStart s t) := by
  unfold State.cplStart
  dsimp -failIfUnchanged only
  repeat' with_reducible first | assumption | (intro _) | apply State.updLan_holdIs | apply State.updCpl_holdIs | apply State.wr_holdIs | dsimp only | (apply hold_mk; dsimp only; apply hold_un)

theorem State.lanStart_holdIs {qq : KeySlots × DomState × ObjState} (s : State) (t : Tower) (h_s : HoldIs qq s) :
    HoldIs qq (State.lanStart s t) := by
  unfold State.lanStart
  dsimp -failIfUnchanged only
  repeat' with_reducible first | assumption | (intro _) | apply State.lanFault_holdIs | apply State.updLan_holdIs | apply State.setSt_holdIs | apply State.wr_holdIs | apply hold_ite | dsimp only | (apply hold_mk; dsimp only; apply hold_un) | split

theorem State.ptabWrite_holdIs {qq : KeySlots × DomState × ObjState} (s : State) (t : Tower) (val : Word) (h_s : HoldIs qq s) :
    HoldIs qq (State.ptabWrite s t val) := by
  unfold State.ptabWrite
  dsimp -failIfUnchanged only
  repeat' with_reducible first | assumption | (intro _) | apply State.lanAssist_holdIs | apply State.updLan_holdIs | apply State.wr_holdIs | apply hold_ite | dsimp only | (apply hold_mk; dsimp only; apply hold_un) | split

theorem State.rampEnd_holdIs {qq : KeySlots × DomState × ObjState} (s : State) (t : Tower) (h_s : HoldIs qq s) :
    HoldIs qq (State.rampEnd s t) := by
  unfold State.rampEnd
  dsimp -failIfUnchanged only
  repeat' with_reducible first | assumption | (intro _) | apply State.lanAssist_holdIs | apply State.updLan_holdIs | apply State.irq_holdIs | apply State.setSt_holdIs | apply State.wr_holdIs | apply hold_ite | dsimp only | (apply hold_mk; dsimp only; apply hold_un) | split

theorem State.rampStep_holdIs {qq : KeySlots × DomState × ObjState} (s : State) (t : Tower) (target : Nat) (h_s : HoldIs qq s) :
    HoldIs qq (State.rampStep s t target) := by
  unfold State.rampStep
  dsimp -failIfUnchanged only
  repeat' with_reducible first | assumption | (intro _) | apply State.rampEnd_holdIs | apply State.updLan_holdIs | apply State.updCpl_holdIs | apply hold_ite | dsimp only | (apply hold_mk; dsimp only; apply hold_un) | split

theorem State.sentNow_holdIs {qq : KeySlots × DomState × ObjState} (s : State) (t : Tower) (n : Nat) (bits : List Byte) (h_s : HoldIs qq s) :
    HoldIs qq (State.sentNow s t n bits) := by
  unfold State.sentNow
  dsimp -failIfUnchanged only
  repeat' with_reducible first | assumption | (intro _) | apply State.updChn_holdIs | apply hold_ite | dsimp only | (apply hold_mk; dsimp only; apply hold_un) | split

theorem State.setTrim_holdIs {qq : KeySlots × DomState × ObjState} (s : State) (t : Tower) (h : Nat) (x : Int) (h_s : HoldIs qq s) :
    HoldIs qq (State.setTrim s t h x) := by
  unfold State.setTrim
  dsimp -failIfUnchanged only
  repeat' with_reducible first | assumption | apply State.wrI_holdIs | dsimp only

theorem State.thermalAbort_holdIs {qq : KeySlots × DomState × ObjState} (s : State) (t : Tower) (h : Nat) (h_s : HoldIs qq s) :
    HoldIs qq (State.thermalAbort s t h) := by
  unfold State.thermalAbort
  dsimp -failIfUnchanged only
  repeat' with_reducible first | assumption | (intro _) | apply State.setTrim_holdIs | apply State.dropWG_holdIs | apply State.setAG_holdIs | apply State.lanAssist_holdIs | apply State.updLan_holdIs | apply State.hwPost_holdIs | apply State.irq_holdIs | apply State.bump_holdIs | apply State.wr_holdIs | apply hold_ite | dsimp only | (apply hold_mk; dsimp only; apply hold_un) | split

theorem State.trimStep_holdIs {qq : KeySlots × DomState × ObjState} (s : State) (t : Tower) (h : Nat) (code : Nat) (h_s : HoldIs qq s) :
    HoldIs qq (State.trimStep s t h code) := by
  unfold State.trimStep
  dsimp -failIfUnchanged only
  repeat' with_reducible first | assumption | (intro _) | apply State.setTrim_holdIs | apply hold_ite | dsimp only | split

theorem execCplAck_holdIs {qq : KeySlots × DomState × ObjState} (t : Tower) (seq : Nat) (addr : Nat) (data : Nat) (s : State) (h_s : HoldIs qq s) :
    Out.HoldIs qq (execCplAck t seq addr data s) := by
  unfold execCplAck
  dsimp -failIfUnchanged only
  repeat' with_reducible first | assumption | apply State.cplAnswer_holdIs | apply hold_next | apply hold_ite3 | apply hold_ite | dsimp only | (refine hold_pair (by assumption) ?_) | (refine hold_opt (by assumption) ?_) | (refine hold_opt1 (by assumption) ?_) | split

theorem execCplAnswerTimeout_holdIs {qq : KeySlots × DomState × ObjState} (t : Tower) (s : State) (h_s : HoldIs qq s) :
    Out.HoldIs qq (execCplAnswerTimeout t s) := by
  unfold execCplAnswerTimeout
  dsimp -failIfUnchanged only
  repeat' with_reducible first | assumption | apply State.cplRetry_holdIs | apply State.bump_holdIs | apply hold_next | apply hold_ite3 | dsimp only | (refine hold_pair (by assumption) ?_) | (refine hold_opt (by assumption) ?_) | (refine hold_opt1 (by assumption) ?_) | split

theorem execCplBadFrame_holdIs {qq : KeySlots × DomState × ObjState} (t : Tower) (kind : Nat) (s : State) (h_s : HoldIs qq s) :
    Out.HoldIs qq (execCplBadFrame t kind s) := by
  unfold execCplBadFrame
  dsimp -failIfUnchanged only
  repeat' with_reducible first | assumption | apply State.cplIrq_holdIs | apply State.bump_holdIs | apply hold_next | apply hold_ite3 | apply hold_ite | dsimp only | split

theorem execCplFaultFrame_holdIs {qq : KeySlots × DomState × ObjState} (t : Tower) (status : Nat) (s : State) (h_s : HoldIs qq s) :
    Out.HoldIs qq (execCplFaultFrame t status s) := by
  unfold execCplFaultFrame
  dsimp -failIfUnchanged only
  repeat' with_reducible first | assumption | apply State.lanFault_holdIs | apply State.wr_holdIs | apply hold_next | apply hold_ite3 | apply hold_ite | dsimp only | split

theorem execCplFrameSend_holdIs {qq : KeySlots × DomState × ObjState} (t : Tower) (s : State) (h_s : HoldIs qq s) :
    Out.HoldIs qq (execCplFrameSend t s) := by
  unfold execCplFrameSend
  dsimp -failIfUnchanged only
  repeat' with_reducible first | assumption | apply State.cplSend_holdIs | apply hold_next | apply hold_ite3 | dsimp only

theorem execCplNak_holdIs {qq : KeySlots × DomState × ObjState} (t : Tower) (seq : Nat) (s : State) (h_s : HoldIs qq s) :
    Out.HoldIs qq (execCplNak t seq s) := by
  unfold execCplNak
  dsimp -failIfUnchanged only
  repeat' with_reducible first | assumption | apply State.cplRetry_holdIs | apply State.bump_holdIs | apply hold_next | apply hold_ite3 | dsimp only | (refine hold_pair (by assumption) ?_) | (refine hold_opt (by assumption) ?_) | (refine hold_opt1 (by assumption) ?_) | split

theorem execCplRegGo_holdIs {qq : KeySlots × DomState × ObjState} (t : Tower) (val : Word) (s : State) (h_s : HoldIs qq s) :
    Out.HoldIs qq (execCplRegGo t val s) := by
  unfold execCplRegGo
  dsimp -failIfUnchanged only
  repeat' with_reducible first | assumption | (intro _) | apply State.cplRegCmd_holdIs | apply State.gated_holdIs | apply hold_next | apply hold_ite3 | dsimp only

theorem execCplResetRelease_holdIs {qq : KeySlots × DomState × ObjState} (t : Tower) (s : State) (h_s : HoldIs qq s) :
    Out.HoldIs qq (execCplResetRelease t s) := by
  unfold execCplResetRelease
  dsimp -failIfUnchanged only
  repeat' with_reducible first | assumption | (intro _) | apply State.updCpl_holdIs | apply hold_next | apply hold_ite3 | apply hold_ite | dsimp only | (apply hold_mk; dsimp only; apply hold_un) | split

theorem execCplVersionRead_holdIs {qq : KeySlots × DomState × ObjState} (t : Tower) (s : State) (h_s : HoldIs qq s) :
    Out.HoldIs qq (execCplVersionRead t s) := by
  unfold execCplVersionRead
  dsimp -failIfUnchanged only
  repeat' with_reducible first | assumption | (intro _) | apply State.cplSend_holdIs | apply State.updCpl_holdIs | apply hold_next | apply hold_ite3 | apply hold_ite | dsimp only | (apply hold_mk; dsimp only; apply hold_un) | split

theorem execHoldoffEnd_holdIs {qq : KeySlots × DomState × ObjState} (t : Tower) (s : State) (h_s : HoldIs qq s) :
    Out.HoldIs qq (execHoldoffEnd t s) := by
  unfold execHoldoffEnd
  dsimp -failIfUnchanged only
  repeat' with_reducible first | assumption | (intro _) | apply State.updLan_holdIs | apply hold_next | apply hold_ite3 | apply hold_ite | dsimp only | (apply hold_mk; dsimp only; apply hold_un) | split

theorem execKeepalive_holdIs {qq : KeySlots × DomState × ObjState} (t : Tower) (s : State) (h_s : HoldIs qq s) :
    Out.HoldIs qq (execKeepalive t s) := by
  unfold execKeepalive
  dsimp -failIfUnchanged only
  repeat' with_reducible first | assumption | (intro _) | apply State.cplSend_holdIs | apply State.updCpl_holdIs | apply hold_next | apply hold_ite3 | dsimp only | (apply hold_mk; dsimp only; apply hold_un)

theorem execLanBiasRampStep_holdIs {qq : KeySlots × DomState × ObjState} (t : Tower) (s : State) (h_s : HoldIs qq s) :
    Out.HoldIs qq (execLanBiasRampStep t s) := by
  unfold execLanBiasRampStep
  dsimp -failIfUnchanged only
  repeat' with_reducible first | assumption | apply State.rampStep_holdIs | apply State.lanShutDone_holdIs | apply hold_next | apply hold_ite3 | apply hold_ite | dsimp only | (refine hold_pair (by assumption) ?_) | (refine hold_opt (by assumption) ?_) | (refine hold_opt1 (by assumption) ?_) | split

theorem execPtabWrite_holdIs {qq : KeySlots × DomState × ObjState} (t : Tower) (val : Word) (s : State) (h_s : HoldIs qq s) :
    Out.HoldIs qq (execPtabWrite t val s) := by
  unfold execPtabWrite
  dsimp -failIfUnchanged only
  repeat' with_reducible first | assumption | (intro _) | apply State.ptabWrite_holdIs | apply State.gated_holdIs | apply hold_next | apply hold_ite3 | dsimp only

theorem execReadData_holdIs {qq : KeySlots × DomState × ObjState} (t : Tower) (seq : Nat) (_addr : Nat) (data : Nat) (s : State) (h_s : HoldIs qq s) :
    Out.HoldIs qq (execReadData t seq _addr data s) := by
  unfold execReadData
  dsimp -failIfUnchanged only
  repeat' with_reducible first | assumption | apply State.cplAnswer_holdIs | apply hold_next | apply hold_ite3 | dsimp only | (refine hold_pair (by assumption) ?_) | (refine hold_opt (by assumption) ?_) | (refine hold_opt1 (by assumption) ?_) | split

theorem execSectorWriteEnd_holdIs {qq : KeySlots × DomState × ObjState} (t : Tower) (s : State) (h_s : HoldIs qq s) :
    Out.HoldIs qq (execSectorWriteEnd t s) := by
  unfold execSectorWriteEnd
  dsimp -failIfUnchanged only
  repeat' with_reducible first | assumption | apply State.sectorEnd_holdIs | apply hold_next | apply hold_ite3 | apply hold_ite | dsimp only | (refine hold_pair (by assumption) ?_) | (refine hold_opt (by assumption) ?_) | (refine hold_opt1 (by assumption) ?_) | split

theorem execSectorWriteStart_holdIs {qq : KeySlots × DomState × ObjState} (t : Tower) (encoded : Bool) (s : State) (h_s : HoldIs qq s) :
    Out.HoldIs qq (execSectorWriteStart t encoded s) := by
  unfold execSectorWriteStart
  dsimp -failIfUnchanged only
  repeat' with_reducible first | assumption | (intro _) | apply State.sentNow_holdIs | apply State.sectorEnd_holdIs | apply State.updTwr_holdIs | apply State.drawn_holdIs | apply hold_next | apply hold_ite3 | apply hold_ite | dsimp only | (refine hold_pair (by assumption) ?_) | (refine hold_opt (by assumption) ?_) | (refine hold_opt1 (by assumption) ?_) | (apply hold_mk; dsimp only; apply hold_un) | split

theorem execTelemetry_holdIs {qq : KeySlots × DomState × ObjState} (t : Tower) (head : Nat) (code : Nat) (s : State) (h_s : HoldIs qq s) :
    Out.HoldIs qq (execTelemetry t head code s) := by
  unfold execTelemetry
  dsimp -failIfUnchanged only
  repeat' with_reducible first | assumption | (intro _) | apply State.trimStep_holdIs | apply State.thermalAbort_holdIs | apply State.lanFault_holdIs | apply State.lanAssist_holdIs | apply State.updLan_holdIs | apply State.wr_holdIs | apply hold_next | apply hold_ite3 | apply hold_ite | dsimp only | (apply hold_mk; dsimp only; apply hold_un) | split

theorem execTelemetryStrobe_holdIs {qq : KeySlots × DomState × ObjState} (t : Tower) (s : State) (h_s : HoldIs qq s) :
    Out.HoldIs qq (execTelemetryStrobe t s) := by
  unfold execTelemetryStrobe
  dsimp -failIfUnchanged only
  repeat' with_reducible first | assumption | (intro _) | apply State.headWarn_holdIs | apply State.wr_holdIs | apply hold_next | apply hold_ite3 | apply hold_ite | dsimp only | split

theorem State.fwOffset_holdIs {qq : KeySlots × DomState × ObjState} (s : State) (t : Tower) (v : Nat) (h_s : HoldIs qq s) :
    HoldIs qq (State.fwOffset s t v) := by
  unfold State.fwOffset
  dsimp -failIfUnchanged only
  repeat' with_reducible first | assumption | apply State.resettle_holdIs | apply State.wr_holdIs | dsimp only

theorem State.fwHeater_holdIs {qq : KeySlots × DomState × ObjState} (s : State) (t : Tower) (code : Nat) (h_s : HoldIs qq s) :
    HoldIs qq (State.fwHeater s t code) := by
  unfold State.fwHeater
  dsimp -failIfUnchanged only
  repeat' with_reducible first | assumption | apply State.cplRegCmd_holdIs | apply State.wr_holdIs | dsimp only

theorem State.enterAttempt_holdIs {qq : KeySlots × DomState × ObjState} (s : State) (t : Tower) (step : Nat) (att : Nat) (fac : Factory) (h_s : HoldIs qq s) :
    HoldIs qq (State.enterAttempt s t step att fac) := by
  unfold State.enterAttempt
  dsimp -failIfUnchanged only
  repeat' with_reducible first | assumption | apply State.fwHeater_holdIs | apply State.fwOffset_holdIs | apply hold_ite | dsimp only | split

theorem State.fwPost_holdIs {qq : KeySlots × DomState × ObjState} (s : State) (code : Nat) (sev : Nat) (payload : List Byte) (h_s : HoldIs qq s) :
    HoldIs qq (State.fwPost s code sev payload) := by
  unfold State.fwPost
  dsimp -failIfUnchanged only
  repeat' with_reducible first | assumption | (intro _) | apply State.irq_holdIs | apply State.drawn_holdIs | apply State.bump_holdIs | apply State.wr_holdIs | apply hold_ite | dsimp only | (apply hold_mk; dsimp only; apply hold_un) | split

theorem State.updLay_holdIs {qq : KeySlots × DomState × ObjState} (s : State) (t : Tower) (f : LayState → LayState) (h_s : HoldIs qq s) :
    HoldIs qq (State.updLay s t f) := by
  unfold State.updLay
  dsimp -failIfUnchanged only
  repeat' with_reducible first | assumption | (intro _) | dsimp only | (apply hold_mk; dsimp only; apply hold_un)

theorem State.setLadder_holdIs {qq : KeySlots × DomState × ObjState} (s : State) (t : Tower) (l : Ladder) (h_s : HoldIs qq s) :
    HoldIs qq (State.setLadder s t l) := by
  unfold State.setLadder
  dsimp -failIfUnchanged only
  repeat' with_reducible first | assumption | (intro _) | apply State.updLay_holdIs | dsimp only | (apply hold_mk; dsimp only; apply hold_un)

theorem State.fwRequest_holdIs {qq : KeySlots × DomState × ObjState} (s : State) (t : Tower) (l : Ladder) (o : SeenOut) (w : List Word) (h_s : HoldIs qq s) :
    HoldIs qq (State.fwRequest s t l o w) := by
  unfold State.fwRequest
  dsimp -failIfUnchanged only
  repeat' with_reducible first | assumption | (intro _) | apply State.setLadder_holdIs | apply State.setDepth_holdIs | apply State.setPin_holdIs | apply State.updChn_holdIs | apply hold_ite | dsimp only | (apply hold_mk; dsimp only; apply hold_un) | split

theorem State.ladderAct_holdIs {qq : KeySlots × DomState × ObjState} (s : State) (t : Tower) (l : Ladder) (outcome : Nat) (h_s : HoldIs qq s) :
    HoldIs qq (State.ladderAct s t l outcome) := by
  unfold State.ladderAct
  dsimp -failIfUnchanged only
  repeat' with_reducible first | assumption | (intro _) | apply State.updLay_holdIs | apply hold_ite | dsimp only | (apply hold_mk; dsimp only; apply hold_un) | split

theorem State.unpinSector_holdIs {qq : KeySlots × DomState × ObjState} (s : State) (t : Tower) (x : Sect) (h_s : HoldIs qq s) :
    HoldIs qq (State.unpinSector s t x) := by
  unfold State.unpinSector
  dsimp -failIfUnchanged only
  repeat' with_reducible first | assumption | (intro _) | apply State.setPin_holdIs | (refine hold_foldl ?_ (fun _ _ _ => ?_)) | (refine hold_foldl1 ?_ (fun _ _ _ => ?_)) | (refine hold_foldl2 ?_ (fun _ _ _ => ?_)) | dsimp only

theorem State.leaveStep_holdIs {qq : KeySlots × DomState × ObjState} (s : State) (t : Tower) (l : Ladder) (h_s : HoldIs qq s) :
    HoldIs qq (State.leaveStep s t l) := by
  unfold State.leaveStep
  dsimp -failIfUnchanged only
  repeat' with_reducible first | assumption | apply State.unpinSector_holdIs | apply State.fwHeater_holdIs | apply State.fwOffset_holdIs | apply hold_ite | dsimp only | split

theorem State.ladderStep_holdIs {qq : KeySlots × DomState × ObjState} (s : State) (t : Tower) (l : Ladder) (fac : Factory) (count : Nat) (h_s : HoldIs qq s) :
    HoldIs qq (State.ladderStep s t l fac count) := by
  unfold State.ladderStep
  dsimp -failIfUnchanged only
  repeat' with_reducible first | assumption | (intro _) | apply State.leaveStep_holdIs | apply State.setLadder_holdIs | apply State.updLay_holdIs | apply State.enterAttempt_holdIs | apply hold_ite | dsimp only | (refine hold_pair (by assumption) ?_) | (refine hold_opt (by assumption) ?_) | (refine hold_opt1 (by assumption) ?_) | (apply hold_mk; dsimp only; apply hold_un) | split

theorem execHeadRemoved_holdIs {qq : KeySlots × DomState × ObjState} (t : Tower) (h : Nat) (s : State) (h_s : HoldIs qq s) :
    Out.HoldIs qq (execHeadRemoved t h s) := by
  unfold execHeadRemoved
  dsimp -failIfUnchanged only
  repeat' with_reducible first | assumption | (intro _) | apply State.leaveStep_holdIs | apply State.unpinSector_holdIs | apply State.updLay_holdIs | apply hold_next | apply hold_ite3 | apply hold_ite | (refine hold_foldl ?_ (fun _ _ _ => ?_)) | (refine hold_foldl1 ?_ (fun _ _ _ => ?_)) | (refine hold_foldl2 ?_ (fun _ _ _ => ?_)) | dsimp only | (apply hold_mk; dsimp only; apply hold_un) | split

theorem execLadderAttempt_holdIs {qq : KeySlots × DomState × ObjState} (t : Tower) (sec : Sect) (profile : Nat) (fac : Factory) (s : State) (h_s : HoldIs qq s) :
    Out.HoldIs qq (execLadderAttempt t sec profile fac s) := by
  unfold execLadderAttempt
  dsimp -failIfUnchanged only
  repeat' with_reducible first | assumption | (intro _) | apply State.ladderStep_holdIs | apply State.fwRequest_holdIs | apply State.setLadder_holdIs | apply hold_next | apply hold_ite3 | apply hold_ite | dsimp only | (refine hold_pair (by assumption) ?_) | (refine hold_opt (by assumption) ?_) | (refine hold_opt1 (by assumption) ?_) | (apply hold_mk; dsimp only; apply hold_un) | split

theorem execLadderEnd_holdIs {qq : KeySlots × DomState × ObjState} (t : Tower) (sec : Sect) (outcome : Nat) (s : State) (h_s : HoldIs qq s) :
    Out.HoldIs qq (execLadderEnd t sec outcome s) := by
  unfold execLadderEnd
  dsimp -failIfUnchanged only
  repeat' with_reducible first | assumption | (intro _) | apply State.leaveStep_holdIs | apply State.unpinSector_holdIs | apply State.ladderAct_holdIs | apply State.updLay_holdIs | apply State.fwPost_holdIs | apply hold_next | apply hold_ite3 | apply hold_ite | dsimp only | (apply hold_mk; dsimp only; apply hold_un) | split

theorem State.aotCount_holdIs {qq : KeySlots × DomState × ObjState} (s : State) (n : Nat) (h_s : HoldIs qq s) :
    HoldIs qq (State.aotCount s n) := by
  unfold State.aotCount
  dsimp -failIfUnchanged only
  repeat' with_reducible first | assumption | apply State.bump_holdIs | dsimp only

theorem State.updAot_holdIs {qq : KeySlots × DomState × ObjState} (s : State) (f : AotState → AotState) (h_s : HoldIs qq s) :
    HoldIs qq (State.updAot s f) := by
  unfold State.updAot
  dsimp -failIfUnchanged only
  repeat' with_reducible first | assumption | (intro _) | dsimp only | (apply hold_mk; dsimp only; apply hold_un)

theorem State.aotIdle_holdIs {qq : KeySlots × DomState × ObjState} (s : State) (h_s : HoldIs qq s) :
    HoldIs qq (State.aotIdle s) := by
  unfold State.aotIdle
  dsimp -failIfUnchanged only
  repeat' with_reducible first | assumption | (intro _) | apply State.updAot_holdIs | apply State.shutDone_holdIs | apply hold_ite | apply hold_ite1 | dsimp only | (apply hold_mk; dsimp only; apply hold_un) | split

theorem State.aotIrq_holdIs {qq : KeySlots × DomState × ObjState} (s : State) (bit : Nat) (h_s : HoldIs qq s) :
    HoldIs qq (State.aotIrq s bit) := by
  unfold State.aotIrq
  dsimp -failIfUnchanged only
  repeat' with_reducible first | assumption | apply State.irq_holdIs | dsimp only

theorem State.portTx_holdIs {qq : KeySlots × DomState × ObjState} (s : State) (p : Nat) (r : TxRec) (h_s : HoldIs qq s) :
    HoldIs qq (State.portTx s p r) := by
  unfold State.portTx
  dsimp -failIfUnchanged only
  repeat' with_reducible first | assumption | apply State.bump_holdIs | apply hold_ite | dsimp only | (apply hold_mk; dsimp only; apply hold_un) | split

theorem State.sessTx_holdIs {qq : KeySlots × DomState × ObjState} (s : State) (i : Nat) (r : TxRec) (h_s : HoldIs qq s) :
    HoldIs qq (State.sessTx s i r) := by
  unfold State.sessTx
  dsimp -failIfUnchanged only
  repeat' with_reducible first | assumption | apply State.portTx_holdIs | apply hold_ite | dsimp only | split

theorem State.setSess_holdIs {qq : KeySlots × DomState × ObjState} (s : State) (i : Nat) (x : Sess) (h_s : HoldIs qq s) :
    HoldIs qq (State.setSess s i x) := by
  unfold State.setSess
  dsimp -failIfUnchanged only
  repeat' with_reducible first | assumption | (intro _) | apply State.updAot_holdIs | apply State.wr_holdIs | dsimp only | (apply hold_mk; dsimp only; apply hold_un)

theorem State.sendAck_holdIs {qq : KeySlots × DomState × ObjState} (s : State) (i : Nat) (h_s : HoldIs qq s) :
    HoldIs qq (State.sendAck s i) := by
  unfold State.sendAck
  dsimp -failIfUnchanged only
  repeat' with_reducible first | assumption | (intro _) | apply State.setSess_holdIs | apply State.sessTx_holdIs | dsimp only | (refine hold_pair (by assumption) ?_) | (refine hold_opt (by assumption) ?_) | (refine hold_opt1 (by assumption) ?_) | (apply hold_mk; dsimp only; apply hold_un) | split

theorem State.ethCount_holdIs {qq : KeySlots × DomState × ObjState} (s : State) (p : Nat) (n : Nat) (h_s : HoldIs qq s) :
    HoldIs qq (State.ethCount s p n) := by
  unfold State.ethCount
  dsimp -failIfUnchanged only
  repeat' with_reducible first | assumption | apply State.bump_holdIs | dsimp only

theorem State.handTo_holdIs {qq : KeySlots × DomState × ObjState} (s : State) (e : Nat) (h_s : HoldIs qq s) :
    HoldIs qq (State.handTo s e) := by
  unfold State.handTo
  dsimp -failIfUnchanged only
  repeat' with_reducible first | assumption | (intro _) | apply State.aotIrq_holdIs | apply State.updAot_holdIs | apply State.aotCount_holdIs | apply State.drawn_holdIs | apply hold_ite | dsimp only | (apply hold_mk; dsimp only; apply hold_un) | split

theorem State.ethHand_holdIs {qq : KeySlots × DomState × ObjState} (s : State) (port : Nat) (h_s : HoldIs qq s) :
    HoldIs qq (State.ethHand s port) := by
  unfold State.ethHand
  dsimp -failIfUnchanged only
  repeat' with_reducible first | assumption | apply State.handTo_holdIs | apply hold_ite | dsimp only | split

theorem State.ethStart_holdIs {qq : KeySlots × DomState × ObjState} (s : State) (p : Nat) (h_s : HoldIs qq s) :
    HoldIs qq (State.ethStart s p) := by
  unfold State.ethStart
  dsimp -failIfUnchanged only
  repeat' with_reducible first | assumption | dsimp only | (apply hold_mk; dsimp only; apply hold_un)

theorem State.linkOff_holdIs {qq : KeySlots × DomState × ObjState} (s : State) (p : Nat) (h_s : HoldIs qq s) :
    HoldIs qq (State.linkOff s p) := by
  unfold State.linkOff
  dsimp -failIfUnchanged only
  repeat' with_reducible first | assumption | apply State.wr_holdIs | dsimp only

theorem State.fwRx_holdIs {qq : KeySlots × DomState × ObjState} (s : State) (port : Nat) (kind : Nat) (i : Nat) (bytes : List Byte) (h_s : HoldIs qq s) :
    HoldIs qq (State.fwRx s port kind i bytes).1 := by
  unfold State.fwRx
  dsimp -failIfUnchanged only
  repeat' with_reducible first | assumption | (intro _) | apply State.aotIrq_holdIs | apply State.setBytes_holdIs | apply State.wr_holdIs | apply hold_ite | apply hold_ite1 | dsimp only | split

theorem State.ipRx_holdIs {qq : KeySlots × DomState × ObjState} (s : State) (port : Nat) (frame : List Byte) (q : IpPacket) (h_s : HoldIs qq s) :
    HoldIs qq (State.ipRx s port frame q) := by
  unfold State.ipRx
  dsimp -failIfUnchanged only
  repeat' with_reducible first | assumption | apply State.fwRx_holdIs | apply State.ethHand_holdIs | apply State.ethCount_holdIs | apply hold_ite | apply hold_ite1 | dsimp only | split

theorem execAckDelayTimer_holdIs {qq : KeySlots × DomState × ObjState} (i : Nat) (s : State) (h_s : HoldIs qq s) :
    Out.HoldIs qq (execAckDelayTimer i s) := by
  unfold execAckDelayTimer
  dsimp -failIfUnchanged only
  repeat' with_reducible first | assumption | (intro _) | apply State.sendAck_holdIs | apply State.updAot_holdIs | apply hold_next | apply hold_ite3 | apply hold_ite | dsimp only | (apply hold_mk; dsimp only; apply hold_un) | split

theorem execAotCntClr_holdIs {qq : KeySlots × DomState × ObjState} (val : Word) (s : State) (h_s : HoldIs qq s) :
    Out.HoldIs qq (execAotCntClr val s) := by
  unfold execAotCntClr
  dsimp -failIfUnchanged only
  repeat' with_reducible first | assumption | (intro _) | apply State.gated_holdIs | apply State.setReg_holdIs | apply hold_next | apply hold_ite3 | apply hold_ite | (refine hold_foldl ?_ (fun _ _ _ => ?_)) | (refine hold_foldl1 ?_ (fun _ _ _ => ?_)) | (refine hold_foldl2 ?_ (fun _ _ _ => ?_)) | dsimp only | split

theorem execArpRequest_holdIs {qq : KeySlots × DomState × ObjState} (port : Nat) (ip : Nat) (s : State) (h_s : HoldIs qq s) :
    Out.HoldIs qq (execArpRequest port ip s) := by
  unfold execArpRequest
  dsimp -failIfUnchanged only
  repeat' with_reducible first | assumption | apply State.portTx_holdIs | apply hold_next | apply hold_ite3 | apply hold_ite | dsimp only | (apply hold_mk; dsimp only; apply hold_un) | split

theorem execEchoRequest_holdIs {qq : KeySlots × DomState × ObjState} (port : Nat) (v6 : Bool) (ip : Nat) (s : State) (h_s : HoldIs qq s) :
    Out.HoldIs qq (execEchoRequest port v6 ip s) := by
  unfold execEchoRequest
  dsimp -failIfUnchanged only
  repeat' with_reducible first | assumption | (intro _) | apply State.ethCount_holdIs | apply State.portTx_holdIs | apply hold_next | apply hold_ite3 | apply hold_ite | dsimp only | (apply hold_mk; dsimp only; apply hold_un) | split

theorem execEthCntClr_holdIs {qq : KeySlots × DomState × ObjState} (port : Nat) (val : Word) (s : State) (h_s : HoldIs qq s) :
    Out.HoldIs qq (execEthCntClr port val s) := by
  unfold execEthCntClr
  dsimp -failIfUnchanged only
  repeat' with_reducible first | assumption | (intro _) | apply State.gated_holdIs | apply State.setReg_holdIs | apply hold_next | apply hold_ite3 | apply hold_ite | (refine hold_foldl ?_ (fun _ _ _ => ?_)) | (refine hold_foldl1 ?_ (fun _ _ _ => ?_)) | (refine hold_foldl2 ?_ (fun _ _ _ => ?_)) | dsimp only | split

theorem execEthFrameRx_holdIs {qq : KeySlots × DomState × ObjState} (port : Nat) (frame : List Byte) (s : State) (h_s : HoldIs qq s) :
    Out.HoldIs qq (execEthFrameRx port frame s) := by
  unfold execEthFrameRx
  dsimp -failIfUnchanged only
  repeat' with_reducible first | assumption | (intro _) | apply State.ipRx_holdIs | apply State.fwRx_holdIs | apply State.ethHand_holdIs | apply State.ethCount_holdIs | apply hold_next | apply hold_ite3 | apply hold_ite | apply hold_ite1 | dsimp only | (refine hold_pair (by assumption) ?_) | (refine hold_opt (by assumption) ?_) | (refine hold_opt1 (by assumption) ?_) | split

theorem execFwtxSend_holdIs {qq : KeySlots × DomState × ObjState} (s : State) (h_s : HoldIs qq s) :
    Out.HoldIs qq (execFwtxSend s) := by
  unfold execFwtxSend
  dsimp -failIfUnchanged only
  repeat' with_reducible first | assumption | (intro _) | apply State.portTx_holdIs | apply State.wr_holdIs | apply hold_next | apply hold_ite3 | apply hold_ite | dsimp only | (apply hold_mk; dsimp only; apply hold_un) | split

theorem execLinkDown_holdIs {qq : KeySlots × DomState × ObjState} (port : Nat) (hiBer : Bool) (s : State) (h_s : HoldIs qq s) :
    Out.HoldIs qq (execLinkDown port hiBer s) := by
  unfold execLinkDown
  dsimp -failIfUnchanged only
  repeat' with_reducible first | assumption | (intro _) | apply State.linkOff_holdIs | apply State.irq_holdIs | apply State.wr_holdIs | apply hold_next | apply hold_ite3 | apply hold_ite | dsimp only | split

theorem execLinkUp_holdIs {qq : KeySlots × DomState × ObjState} (port : Nat) (fec : Nat) (s : State) (h_s : HoldIs qq s) :
    Out.HoldIs qq (execLinkUp port fec s) := by
  unfold execLinkUp
  dsimp -failIfUnchanged only
  repeat' with_reducible first | assumption | (intro _) | apply State.irq_holdIs | apply State.wb_holdIs | apply State.wr_holdIs | apply hold_next | apply hold_ite3 | apply hold_ite | dsimp only | split

theorem execNeighbourSolicitation_holdIs {qq : KeySlots × DomState × ObjState} (port : Nat) (ip : Nat) (s : State) (h_s : HoldIs qq s) :
    Out.HoldIs qq (execNeighbourSolicitation port ip s) := by
  unfold execNeighbourSolicitation
  dsimp -failIfUnchanged only
  repeat' with_reducible first | assumption | apply State.portTx_holdIs | apply hold_next | apply hold_ite3 | apply hold_ite | dsimp only | (apply hold_mk; dsimp only; apply hold_un) | split

theorem State.emptySlots_holdIs {qq : KeySlots × DomState × ObjState} (s : State) (l : List Nat) (h_s : HoldIs qq s) :
    HoldIs qq (State.emptySlots s l) := by
  unfold State.emptySlots
  dsimp -failIfUnchanged only
  repeat' with_reducible first | assumption | (intro _) | apply State.setBytes_holdIs | apply hold_ite | (refine hold_foldl ?_ (fun _ _ _ => ?_)) | (refine hold_foldl1 ?_ (fun _ _ _ => ?_)) | (refine hold_foldl2 ?_ (fun _ _ _ => ?_)) | dsimp only | split

theorem State.evrIrq_holdIs {qq : KeySlots × DomState × ObjState} (s : State) (bit : Nat) (h_s : HoldIs qq s) :
    HoldIs qq (State.evrIrq s bit) := by
  unfold State.evrIrq
  dsimp -failIfUnchanged only
  repeat' with_reducible first | assumption | apply State.irq_holdIs | dsimp only

theorem State.persist_holdIs {qq : KeySlots × DomState × ObjState} (s : State) (slot : Nat) (sev : Nat) (seq : Nat) (h_s : HoldIs qq s) :
    HoldIs qq (State.persist s slot sev seq) := by
  unfold State.persist
  dsimp -failIfUnchanged only
  repeat' with_reducible first | assumption | (intro _) | apply State.evrIrq_holdIs | apply State.setWord_holdIs | apply State.wr_holdIs | apply hold_ite | dsimp only | split

theorem State.evrStore_holdIs {qq : KeySlots × DomState × ObjState} (s : State) (code : Nat) (sev : Nat) (source : Nat) (time : Nat) (payload : List Byte) (h_s : HoldIs qq s) :
    HoldIs qq (State.evrStore s code sev source time payload) := by
  unfold State.evrStore
  dsimp -failIfUnchanged only
  repeat' with_reducible first | assumption | (intro _) | apply State.persist_holdIs | apply State.evrIrq_holdIs | apply State.setBytes_holdIs | apply State.bump_holdIs | apply State.wr_holdIs | apply hold_ite | dsimp only | (refine hold_pair (by assumption) ?_) | (refine hold_opt (by assumption) ?_) | (refine hold_opt1 (by assumption) ?_) | split

theorem State.evrClear_holdIs {qq : KeySlots × DomState × ObjState} (s : State) (gen : Bool) (fatal : Bool) (h_s : HoldIs qq s) :
    HoldIs qq (State.evrClear s gen fatal) := by
  unfold State.evrClear
  dsimp -failIfUnchanged only
  repeat' with_reducible first | assumption | (intro _) | apply State.evrStore_holdIs | apply State.emptySlots_holdIs | apply State.wr_holdIs | apply hold_ite | dsimp only | split

theorem State.evrCmd_holdIs {qq : KeySlots × DomState × ObjState} (s : State) (port : Nat) (val : Word) (h_s : HoldIs qq s) :
    HoldIs qq (State.evrCmd s port val) := by
  unfold State.evrCmd
  dsimp -failIfUnchanged only
  repeat' with_reducible first | assumption | (intro _) | apply State.evrClear_holdIs | apply State.evrIrq_holdIs | apply State.wr_holdIs | apply State.setReg_holdIs | apply hold_ite | (refine hold_foldl ?_ (fun _ _ _ => ?_)) | (refine hold_foldl1 ?_ (fun _ _ _ => ?_)) | (refine hold_foldl2 ?_ (fun _ _ _ => ?_)) | dsimp only | split

theorem State.updEvr_holdIs {qq : KeySlots × DomState × ObjState} (s : State) (f : EvrState → EvrState) (h_s : HoldIs qq s) :
    HoldIs qq (State.updEvr s f) := by
  unfold State.updEvr
  dsimp -failIfUnchanged only
  repeat' with_reducible first | assumption | (intro _) | dsimp only | (apply hold_mk; dsimp only; apply hold_un)

theorem State.setRate_holdIs {qq : KeySlots × DomState × ObjState} (s : State) (n : Nat) (x : RateEntry) (h_s : HoldIs qq s) :
    HoldIs qq (State.setRate s n x) := by
  unfold State.setRate
  dsimp -failIfUnchanged only
  repeat' with_reducible first | assumption | (intro _) | apply State.updEvr_holdIs | dsimp only | (apply hold_mk; dsimp only; apply hold_un)

theorem State.evrPass_holdIs {qq : KeySlots × DomState × ObjState} (s : State) (code : Nat) (sev : Nat) (source : Nat) (time : Nat) (payload : List Byte) (h_s : HoldIs qq s) :
    HoldIs qq (State.evrPass s code sev source time payload) := by
  unfold State.evrPass
  dsimp -failIfUnchanged only
  repeat' with_reducible first | assumption | (intro _) | apply State.setRate_holdIs | apply State.evrStore_holdIs | apply hold_ite | dsimp only | (refine hold_pair (by assumption) ?_) | (refine hold_opt (by assumption) ?_) | (refine hold_opt1 (by assumption) ?_) | (apply hold_mk; dsimp only; apply hold_un) | split

theorem State.postRefused_holdIs {qq : KeySlots × DomState × ObjState} (s : State) (h_s : HoldIs qq s) :
    HoldIs qq (State.postRefused s) := by
  unfold State.postRefused
  dsimp -failIfUnchanged only
  repeat' with_reducible first | assumption | apply State.evrIrq_holdIs | apply State.bump_holdIs | dsimp only

theorem State.evrPostWrite_holdIs {qq : KeySlots × DomState × ObjState} (s : State) (val : Word) (h_s : HoldIs qq s) :
    HoldIs qq (State.evrPostWrite s val) := by
  unfold State.evrPostWrite
  dsimp -failIfUnchanged only
  repeat' with_reducible first | assumption | (intro _) | apply State.postRefused_holdIs | apply State.updEvr_holdIs | apply State.wr_holdIs | apply hold_ite | dsimp only | (apply hold_mk; dsimp only; apply hold_un) | split

theorem State.evrStart_holdIs {qq : KeySlots × DomState × ObjState} (s : State) (h_s : HoldIs qq s) :
    HoldIs qq (State.evrStart s) := by
  unfold State.evrStart
  dsimp -failIfUnchanged only
  repeat' with_reducible first | assumption | (intro _) | apply State.updEvr_holdIs | apply State.evrStore_holdIs | apply State.evrIrq_holdIs | apply State.emptySlots_holdIs | apply State.wr_holdIs | (refine hold_foldl ?_ (fun _ _ _ => ?_)) | (refine hold_foldl1 ?_ (fun _ _ _ => ?_)) | (refine hold_foldl2 ?_ (fun _ _ _ => ?_)) | dsimp only | (apply hold_mk; dsimp only; apply hold_un)

theorem State.takePost_holdIs {qq : KeySlots × DomState × ObjState} (s : State) (h_s : HoldIs qq s) :
    HoldIs qq (State.takePost s) := by
  unfold State.takePost
  dsimp -failIfUnchanged only
  repeat' with_reducible first | assumption | (intro _) | apply State.postRefused_holdIs | apply State.evrPass_holdIs | apply State.updEvr_holdIs | apply State.wr_holdIs | apply hold_ite | dsimp only | (refine hold_pair (by assumption) ?_) | (refine hold_opt (by assumption) ?_) | (refine hold_opt1 (by assumption) ?_) | (apply hold_mk; dsimp only; apply hold_un) | split

theorem State.rlCfg_holdIs {qq : KeySlots × DomState × ObjState} (s : State) (val : Word) (h_s : HoldIs qq s) :
    HoldIs qq (State.rlCfg s val) := by
  unfold State.rlCfg
  dsimp -failIfUnchanged only
  repeat' with_reducible first | assumption | (intro _) | apply State.setRate_holdIs | apply hold_ite | dsimp only | (apply hold_mk; dsimp only; apply hold_un) | split

theorem execClrFatal_holdIs {qq : KeySlots × DomState × ObjState} (port : Nat) (val : Word) (s : State) (h_s : HoldIs qq s) :
    Out.HoldIs qq (execClrFatal port val s) := by
  unfold execClrFatal
  dsimp -failIfUnchanged only
  repeat' with_reducible first | assumption | (intro _) | apply State.evrCmd_holdIs | apply State.gated_holdIs | apply hold_next | apply hold_ite3 | dsimp only

theorem execClrGen_holdIs {qq : KeySlots × DomState × ObjState} (port : Nat) (val : Word) (s : State) (h_s : HoldIs qq s) :
    Out.HoldIs qq (execClrGen port val s) := by
  unfold execClrGen
  dsimp -failIfUnchanged only
  repeat' with_reducible first | assumption | (intro _) | apply State.evrCmd_holdIs | apply State.gated_holdIs | apply hold_next | apply hold_ite3 | dsimp only

theorem execEvrCntClr_holdIs {qq : KeySlots × DomState × ObjState} (val : Word) (s : State) (h_s : HoldIs qq s) :
    Out.HoldIs qq (execEvrCntClr val s) := by
  unfold execEvrCntClr
  dsimp -failIfUnchanged only
  repeat' with_reducible first | assumption | (intro _) | apply State.evrCmd_holdIs | apply State.gated_holdIs | apply hold_next | apply hold_ite3 | dsimp only

theorem execEvrPost_holdIs {qq : KeySlots × DomState × ObjState} (val : Word) (s : State) (h_s : HoldIs qq s) :
    Out.HoldIs qq (execEvrPost val s) := by
  unfold execEvrPost
  dsimp -failIfUnchanged only
  repeat' with_reducible first | assumption | (intro _) | apply State.evrPostWrite_holdIs | apply State.gated_holdIs | apply hold_next | apply hold_ite3 | dsimp only

theorem execHwEventPost_holdIs {qq : KeySlots × DomState × ObjState} (code : Nat) (sev : Nat) (source : Nat) (payload : List Byte) (s : State) (h_s : HoldIs qq s) :
    Out.HoldIs qq (execHwEventPost code sev source payload s) := by
  unfold execHwEventPost
  dsimp -failIfUnchanged only
  repeat' with_reducible first | assumption | apply State.hwPost_holdIs | apply hold_next | apply hold_ite3 | apply hold_ite | dsimp only | split

theorem execPostTaken_holdIs {qq : KeySlots × DomState × ObjState} (s : State) (h_s : HoldIs qq s) :
    Out.HoldIs qq (execPostTaken s) := by
  unfold execPostTaken
  dsimp -failIfUnchanged only
  repeat' with_reducible first | assumption | apply State.takePost_holdIs | apply hold_next | apply hold_ite3 | apply hold_ite | dsimp only | split

theorem execRateEntryWrite_holdIs {qq : KeySlots × DomState × ObjState} (val : Word) (s : State) (h_s : HoldIs qq s) :
    Out.HoldIs qq (execRateEntryWrite val s) := by
  unfold execRateEntryWrite
  dsimp -failIfUnchanged only
  repeat' with_reducible first | assumption | (intro _) | apply State.rlCfg_holdIs | apply State.gated_holdIs | apply hold_next | apply hold_ite3 | dsimp only

theorem execRateTokensFull_holdIs {qq : KeySlots × DomState × ObjState} (n : Nat) (s : State) (h_s : HoldIs qq s) :
    Out.HoldIs qq (execRateTokensFull n s) := by
  unfold execRateTokensFull
  dsimp -failIfUnchanged only
  repeat' with_reducible first | assumption | (intro _) | apply State.setRate_holdIs | apply State.evrIrq_holdIs | apply State.hwPost_holdIs | apply hold_next | apply hold_ite3 | apply hold_ite | dsimp only | (apply hold_mk; dsimp only; apply hold_un) | split

theorem State.memIrq_holdIs {qq : KeySlots × DomState × ObjState} (s : State) (bit : Nat) (h_s : HoldIs qq s) :
    HoldIs qq (State.memIrq s bit) := by
  unfold State.memIrq
  dsimp -failIfUnchanged only
  repeat' with_reducible first | assumption | apply State.irq_holdIs | dsimp only

theorem State.updDdr_holdIs {qq : KeySlots × DomState × ObjState} (s : State) (f : DdrState → DdrState) (h_s : HoldIs qq s) :
    HoldIs qq (State.updDdr s f) := by
  unfold State.updDdr
  dsimp -failIfUnchanged only
  repeat' with_reducible first | assumption | (intro _) | dsimp only | (apply hold_mk; dsimp only; apply hold_un)

theorem State.memLog_holdIs {qq : KeySlots × DomState × ObjState} (s : State) (kind : Nat) (source : Nat) (port : Nat) (cw : Nat) (syms : Nat) (bytes : Nat) (burst : Nat) (h_s : HoldIs qq s) :
    HoldIs qq (State.memLog s kind source port cw syms bytes burst) := by
  unfold State.memLog
  dsimp -failIfUnchanged only
  repeat' with_reducible first | assumption | (intro _) | apply State.updDdr_holdIs | apply State.memIrq_holdIs | apply State.bump_holdIs | apply State.wr_holdIs | apply hold_ite | dsimp only | (apply hold_mk; dsimp only; apply hold_un) | split

theorem State.ueEvent_holdIs {qq : KeySlots × DomState × ObjState} (s : State) (kind : Nat) (source : Nat) (port : Nat) (cw : Nat) (burst : Nat) (h_s : HoldIs qq s) :
    HoldIs qq (State.ueEvent s kind source port cw burst) := by
  unfold State.ueEvent
  dsimp -failIfUnchanged only
  repeat' with_reducible first | assumption | apply State.memLog_holdIs | apply State.memIrq_holdIs | apply State.bump_holdIs | dsimp only

theorem State.devCorrected_holdIs {qq : KeySlots × DomState × ObjState} (s : State) (d : Nat) (h_s : HoldIs qq s) :
    HoldIs qq (State.devCorrected s d) := by
  unfold State.devCorrected
  dsimp -failIfUnchanged only
  repeat' with_reducible first | assumption | (intro _) | apply State.updDdr_holdIs | apply State.memIrq_holdIs | apply State.wr_holdIs | apply hold_ite | dsimp only | (apply hold_mk; dsimp only; apply hold_un) | split

theorem State.ceEvent_holdIs {qq : KeySlots × DomState × ObjState} (s : State) (source : Nat) (port : Nat) (cw : Nat) (burst : Nat) (pat : List (Nat × Nat)) (h_s : HoldIs qq s) :
    HoldIs qq (State.ceEvent s source port cw burst pat) := by
  unfold State.ceEvent
  dsimp -failIfUnchanged only
  repeat' with_reducible first | assumption | (intro _) | apply State.devCorrected_holdIs | apply State.memLog_holdIs | apply State.memIrq_holdIs | apply State.bump_holdIs | (refine hold_foldl ?_ (fun _ _ _ => ?_)) | (refine hold_foldl1 ?_ (fun _ _ _ => ?_)) | (refine hold_foldl2 ?_ (fun _ _ _ => ?_)) | dsimp only

theorem State.burstEvents_holdIs {qq : KeySlots × DomState × ObjState} (s : State) (b : Nat) (source : Nat) (port : Nat) (h_s : HoldIs qq s) :
    HoldIs qq (State.burstEvents s b source port) := by
  unfold State.burstEvents
  dsimp -failIfUnchanged only
  repeat' with_reducible first | assumption | (intro _) | apply State.ceEvent_holdIs | apply State.ueEvent_holdIs | (refine hold_foldl ?_ (fun _ _ _ => ?_)) | (refine hold_foldl1 ?_ (fun _ _ _ => ?_)) | (refine hold_foldl2 ?_ (fun _ _ _ => ?_)) | dsimp only | (refine hold_pair (by assumption) ?_) | (refine hold_opt (by assumption) ?_) | (refine hold_opt1 (by assumption) ?_) | split

theorem State.setErr_holdIs {qq : KeySlots × DomState × ObjState} (s : State) (b : Nat) (i : Nat) (m : Nat) (h_s : HoldIs qq s) :
    HoldIs qq (State.setErr s b i m) := by
  unfold State.setErr
  dsimp -failIfUnchanged only
  repeat' with_reducible first | assumption | (intro _) | apply State.updDdr_holdIs | dsimp only | (apply hold_mk; dsimp only; apply hold_un)

end Sys2Proof.Machine
end

