-- ==== Sys2Proof/Laws/HoldFrame3.lean ====
section
/-! SUPPORT. The key slots, the Dome and the objects are as before: the operations and commands for which this holds, part 3. -/

set_option linter.unusedTactic false
set_option linter.unreachableTactic false
set_option maxRecDepth 8000

namespace Sys2Proof.Machine

theorem State.cwWriteBack_holdIs {qq : KeySlots × DomState × ObjState} (s : State) (b : Nat) (c : Nat) (h_s : HoldIs qq s) :
    HoldIs qq (State.cwWriteBack s b c) := by
  unfold State.cwWriteBack
  dsimp -failIfUnchanged only
  repeat' with_reducible first | assumption | (intro _) | apply State.setErr_holdIs | apply State.setBytes_holdIs | (refine hold_foldl ?_ (fun _ _ _ => ?_)) | (refine hold_foldl1 ?_ (fun _ _ _ => ?_)) | (refine hold_foldl2 ?_ (fun _ _ _ => ?_)) | dsimp only | (refine hold_pair (by assumption) ?_) | (refine hold_opt (by assumption) ?_) | (refine hold_opt1 (by assumption) ?_) | split

theorem State.burstRead_holdIs {qq : KeySlots × DomState × ObjState} (s : State) (b : Nat) (source : Nat) (port : Nat) (h_s : HoldIs qq s) :
    HoldIs qq (State.burstRead s b source port) := by
  unfold State.burstRead
  dsimp -failIfUnchanged only
  repeat' with_reducible first | assumption | (intro _) | apply State.cwWriteBack_holdIs | apply State.burstEvents_holdIs | apply State.memLog_holdIs | apply State.memIrq_holdIs | apply State.bump_holdIs | apply hold_ite | (refine hold_foldl ?_ (fun _ _ _ => ?_)) | (refine hold_foldl1 ?_ (fun _ _ _ => ?_)) | (refine hold_foldl2 ?_ (fun _ _ _ => ?_)) | dsimp only | split

theorem State.ddrFlip_holdIs {qq : KeySlots × DomState × ObjState} (s : State) (b : Nat) (h_s : HoldIs qq s) :
    HoldIs qq (State.ddrFlip s b) := by
  unfold State.ddrFlip
  dsimp -failIfUnchanged only
  repeat' with_reducible first | assumption | (intro _) | apply State.setErr_holdIs | apply State.setReg_holdIs | apply hold_ite | (refine hold_foldl ?_ (fun _ _ _ => ?_)) | (refine hold_foldl1 ?_ (fun _ _ _ => ?_)) | (refine hold_foldl2 ?_ (fun _ _ _ => ?_)) | dsimp only | split

theorem State.ddrRefuse_holdIs {qq : KeySlots × DomState × ObjState} (s : State) (h_s : HoldIs qq s) :
    HoldIs qq (State.ddrRefuse s) := by
  unfold State.ddrRefuse
  dsimp -failIfUnchanged only
  repeat' with_reducible first | assumption | apply State.bump_holdIs | apply hold_ite | dsimp only | split

theorem State.ddrReadOp_holdIs {qq : KeySlots × DomState × ObjState} (s : State) (port : Nat) (a : Nat) (n : Nat) (h_s : HoldIs qq s) :
    HoldIs qq (State.ddrReadOp s port a n).1 := by
  unfold State.ddrReadOp
  dsimp -failIfUnchanged only
  repeat' with_reducible first | assumption | (intro _) | apply State.ddrRefuse_holdIs | apply State.burstRead_holdIs | apply State.drawn_holdIs | apply hold_ite | apply hold_ite1 | dsimp only | (apply hold_mk; dsimp only; apply hold_un) | split

theorem State.markMode_holdIs {qq : KeySlots × DomState × ObjState} (s : State) (b : Nat) (off : Nat) (n : Nat) (h_s : HoldIs qq s) :
    HoldIs qq (State.markMode s b off n) := by
  unfold State.markMode
  dsimp -failIfUnchanged only
  repeat' with_reducible first | assumption | (intro _) | apply State.updDdr_holdIs | apply hold_ite | dsimp only | (apply hold_mk; dsimp only; apply hold_un) | split

theorem State.freshBytes_holdIs {qq : KeySlots × DomState × ObjState} (s : State) (b : Nat) (off : Nat) (n : Nat) (h_s : HoldIs qq s) :
    HoldIs qq (State.freshBytes s b off n) := by
  unfold State.freshBytes
  dsimp -failIfUnchanged only
  repeat' with_reducible first | assumption | (intro _) | apply State.setErr_holdIs | (refine hold_foldl ?_ (fun _ _ _ => ?_)) | (refine hold_foldl1 ?_ (fun _ _ _ => ?_)) | (refine hold_foldl2 ?_ (fun _ _ _ => ?_)) | dsimp only

theorem State.ddrWriteOp_holdIs {qq : KeySlots × DomState × ObjState} (s : State) (port : Nat) (a : Nat) (l : List Byte) (h_s : HoldIs qq s) :
    HoldIs qq (State.ddrWriteOp s port a l).1 := by
  unfold State.ddrWriteOp
  dsimp -failIfUnchanged only
  repeat' with_reducible first | assumption | (intro _) | apply State.freshBytes_holdIs | apply State.markMode_holdIs | apply State.ddrRefuse_holdIs | apply State.ddrFlip_holdIs | apply State.cwWriteBack_holdIs | apply State.setErr_holdIs | apply State.ceEvent_holdIs | apply State.ueEvent_holdIs | apply State.setBytes_holdIs | apply hold_ite | apply hold_ite1 | (refine hold_foldl ?_ (fun _ _ _ => ?_)) | (refine hold_foldl1 ?_ (fun _ _ _ => ?_)) | (refine hold_foldl2 ?_ (fun _ _ _ => ?_)) | dsimp only | (refine hold_pair (by assumption) ?_) | (refine hold_opt (by assumption) ?_) | (refine hold_opt1 (by assumption) ?_) | split

theorem State.ddrZero_holdIs {q : KeySlots × DomState × ObjState} (s : State) (lo hi : Nat) (h_s : HoldIs q s) : HoldIs q (State.ddrZero s lo hi) := h_s

theorem State.memCmd_holdIs {qq : KeySlots × DomState × ObjState} (s : State) (val : Word) (h_s : HoldIs qq s) :
    HoldIs qq (State.memCmd s val) := by
  unfold State.memCmd
  dsimp -failIfUnchanged only
  repeat' with_reducible first | assumption | (intro _) | apply State.updDdr_holdIs | apply State.memIrq_holdIs | apply State.wr_holdIs | apply State.setReg_holdIs | apply hold_ite | dsimp only | (apply hold_mk; dsimp only; apply hold_un) | split

theorem State.memFault_holdIs {qq : KeySlots × DomState × ObjState} (s : State) (cause : Nat) (h_s : HoldIs qq s) :
    HoldIs qq (State.memFault s cause) := by
  unfold State.memFault
  dsimp -failIfUnchanged only
  repeat' with_reducible first | assumption | (apply hold_id; assumption) | (intro _) | apply State.shutDone_holdIs | apply State.faultStop_holdIs | apply State.wr_holdIs | apply hold_next | apply hold_ite | apply hold_ite1 | apply hold_ite3 | (refine hold_foldl ?_ (fun _ _ _ => ?_)) | (refine hold_foldl1 ?_ (fun _ _ _ => ?_)) | (refine hold_foldl2 ?_ (fun _ _ _ => ?_)) | (intro _) | dsimp only | (refine hold_pair (by assumption) ?_) | (refine hold_opt (by assumption) ?_) | (refine hold_opt1 (by assumption) ?_) | apply optHoldIs_some | apply optHoldIs_none | apply optHoldIs_ite | (apply hold_mk; dsimp only; apply hold_un) | split

theorem State.memOn_holdIs {qq : KeySlots × DomState × ObjState} (s : State) (h_s : HoldIs qq s) :
    HoldIs qq (State.memOn s) := by
  unfold State.memOn
  dsimp -failIfUnchanged only
  repeat' with_reducible first | assumption | (intro _) | apply State.setSt_holdIs | apply State.wr_holdIs | apply hold_ite | dsimp only | split

theorem State.memPop_holdIs {qq : KeySlots × DomState × ObjState} (s : State) (val : Word) (h_s : HoldIs qq s) :
    HoldIs qq (State.memPop s val) := by
  unfold State.memPop
  dsimp -failIfUnchanged only
  repeat' with_reducible first | assumption | (intro _) | apply State.updDdr_holdIs | apply State.wr_holdIs | apply hold_ite | dsimp only | (apply hold_mk; dsimp only; apply hold_un) | split

theorem State.memStart_holdIs {qq : KeySlots × DomState × ObjState} (s : State) (h_s : HoldIs qq s) :
    HoldIs qq (State.memStart s) := by
  unfold State.memStart
  dsimp -failIfUnchanged only
  repeat' with_reducible first | assumption | (intro _) | apply State.memFault_holdIs | apply State.updDdr_holdIs | apply State.wr_holdIs | apply hold_ite | dsimp only | (refine hold_pair (by assumption) ?_) | (refine hold_opt (by assumption) ?_) | (refine hold_opt1 (by assumption) ?_) | (apply hold_mk; dsimp only; apply hold_un) | split

theorem State.memStopEnd_holdIs {qq : KeySlots × DomState × ObjState} (s : State) (h_s : HoldIs qq s) :
    HoldIs qq (State.memStopEnd s) := by
  unfold State.memStopEnd
  dsimp -failIfUnchanged only
  repeat' with_reducible first | assumption | apply State.wr_holdIs | dsimp only

theorem execDdrRead_holdIs {qq : KeySlots × DomState × ObjState} (port : Nat) (addr : Nat) (n : Nat) (s : State) (h_s : HoldIs qq s) :
    Out.HoldIs qq (execDdrRead port addr n s) := by
  unfold execDdrRead
  dsimp -failIfUnchanged only
  repeat' with_reducible first | assumption | (intro _) | apply State.ddrReadOp_holdIs | apply hold_next | apply hold_ite3 | dsimp only | (apply hold_mk; dsimp only; apply hold_un)

theorem execEccFlipArm_holdIs {qq : KeySlots × DomState × ObjState} (val : Word) (s : State) (h_s : HoldIs qq s) :
    Out.HoldIs qq (execEccFlipArm val s) := by
  unfold execEccFlipArm
  dsimp -failIfUnchanged only
  repeat' with_reducible first | assumption | (intro _) | apply State.storeRow_holdIs | apply State.gated_holdIs | apply hold_next | apply hold_ite3 | dsimp only

theorem execMemCntClr_holdIs {qq : KeySlots × DomState × ObjState} (val : Word) (s : State) (h_s : HoldIs qq s) :
    Out.HoldIs qq (execMemCntClr val s) := by
  unfold execMemCntClr
  dsimp -failIfUnchanged only
  repeat' with_reducible first | assumption | (intro _) | apply State.memCmd_holdIs | apply State.gated_holdIs | apply hold_next | apply hold_ite3 | dsimp only

theorem execMemInit_holdIs {qq : KeySlots × DomState × ObjState} (val : Word) (s : State) (h_s : HoldIs qq s) :
    Out.HoldIs qq (execMemInit val s) := by
  unfold execMemInit
  dsimp -failIfUnchanged only
  repeat' with_reducible first | assumption | (intro _) | apply State.memCmd_holdIs | apply State.gated_holdIs | apply hold_next | apply hold_ite3 | dsimp only

theorem execMemInitDone_holdIs {qq : KeySlots × DomState × ObjState} (s : State) (h_s : HoldIs qq s) :
    Out.HoldIs qq (execMemInitDone s) := by
  unfold execMemInitDone
  dsimp -failIfUnchanged only
  repeat' with_reducible first | assumption | (intro _) | apply State.ddrZero_holdIs | apply State.updDdr_holdIs | apply State.memIrq_holdIs | apply State.wr_holdIs | apply hold_next | apply hold_ite3 | apply hold_ite | dsimp only | (apply hold_mk; dsimp only; apply hold_un) | split

theorem execMemLogPop_holdIs {qq : KeySlots × DomState × ObjState} (val : Word) (s : State) (h_s : HoldIs qq s) :
    Out.HoldIs qq (execMemLogPop val s) := by
  unfold execMemLogPop
  dsimp -failIfUnchanged only
  repeat' with_reducible first | assumption | (intro _) | apply State.memPop_holdIs | apply State.gated_holdIs | apply hold_next | apply hold_ite3 | dsimp only

theorem execScrubRead_holdIs {qq : KeySlots × DomState × ObjState} (s : State) (h_s : HoldIs qq s) :
    Out.HoldIs qq (execScrubRead s) := by
  unfold execScrubRead
  dsimp -failIfUnchanged only
  repeat' with_reducible first | assumption | (intro _) | apply State.burstRead_holdIs | apply State.memIrq_holdIs | apply State.bump_holdIs | apply State.wr_holdIs | apply hold_next | apply hold_ite3 | apply hold_ite | dsimp only | split

theorem execTrainingDone_holdIs {qq : KeySlots × DomState × ObjState} (fail : Option (Nat × Nat × Nat)) (s : State) (h_s : HoldIs qq s) :
    Out.HoldIs qq (execTrainingDone fail s) := by
  unfold execTrainingDone
  dsimp -failIfUnchanged only
  repeat' with_reducible first | assumption | (intro _) | apply State.memOn_holdIs | apply State.memFault_holdIs | apply State.ddrZero_holdIs | apply State.wr_holdIs | apply hold_next | apply hold_ite3 | apply hold_ite | dsimp only | (refine hold_pair (by assumption) ?_) | (refine hold_opt (by assumption) ?_) | (refine hold_opt1 (by assumption) ?_) | split

theorem State.arrayData_holdIs {qq : KeySlots × DomState × ObjState} (s : State) (w : Nat) (line : Nat) (d : List Byte) (h_s : HoldIs qq s) :
    HoldIs qq (State.arrayData s w line d) := by
  unfold State.arrayData
  dsimp -failIfUnchanged only
  repeat' with_reducible first | assumption | apply State.setBytes_holdIs | apply hold_ite | dsimp only | split

theorem State.cupIrq_holdIs {qq : KeySlots × DomState × ObjState} (s : State) (bit : Nat) (h_s : HoldIs qq s) :
    HoldIs qq (State.cupIrq s bit) := by
  unfold State.cupIrq
  dsimp -failIfUnchanged only
  repeat' with_reducible first | assumption | apply State.irq_holdIs | dsimp only

theorem State.updCup_holdIs {qq : KeySlots × DomState × ObjState} (s : State) (f : CupState → CupState) (h_s : HoldIs qq s) :
    HoldIs qq (State.updCup s f) := by
  unfold State.updCup
  dsimp -failIfUnchanged only
  repeat' with_reducible first | assumption | (intro _) | dsimp only | (apply hold_mk; dsimp only; apply hold_un)

theorem State.dropLines_holdIs {qq : KeySlots × DomState × ObjState} (s : State) (f : Nat → Bool) (h_s : HoldIs qq s) :
    HoldIs qq (State.dropLines s f) := by
  unfold State.dropLines
  dsimp -failIfUnchanged only
  repeat' with_reducible first | assumption | (intro _) | apply State.updCup_holdIs | dsimp only | (apply hold_mk; dsimp only; apply hold_un)

theorem State.cupPerr_holdIs {qq : KeySlots × DomState × ObjState} (s : State) (line : Nat) (h_s : HoldIs qq s) :
    HoldIs qq (State.cupPerr s line) := by
  unfold State.cupPerr
  dsimp -failIfUnchanged only
  repeat' with_reducible first | assumption | (intro _) | apply State.dropLines_holdIs | apply State.cupIrq_holdIs | apply State.hwPost_holdIs | apply State.bump_holdIs | dsimp only

theorem State.putLine_holdIs {qq : KeySlots × DomState × ObjState} (s : State) (w : Nat) (line : Nat) (d : List Byte) (h_s : HoldIs qq s) :
    HoldIs qq (State.putLine s w line d) := by
  unfold State.putLine
  dsimp -failIfUnchanged only
  repeat' with_reducible first | assumption | (intro _) | apply State.updCup_holdIs | apply State.arrayData_holdIs | dsimp only | (apply hold_mk; dsimp only; apply hold_un)

theorem State.fill_holdIs {qq : KeySlots × DomState × ObjState} (s : State) (line : Nat) (core : Nat) (pf : Bool) (h_s : HoldIs qq s) :
    HoldIs qq (State.fill s line core pf) := by
  unfold State.fill
  dsimp -failIfUnchanged only
  repeat' with_reducible first | assumption | (intro _) | apply State.updCup_holdIs | apply hold_ite | dsimp only | (apply hold_mk; dsimp only; apply hold_un) | split

theorem State.prefetch_holdIs {qq : KeySlots × DomState × ObjState} (s : State) (from_ : Nat) (line : Nat) (core : Nat) (h_s : HoldIs qq s) :
    HoldIs qq (State.prefetch s from_ line core) := by
  unfold State.prefetch
  dsimp -failIfUnchanged only
  repeat' with_reducible first | assumption | apply State.fill_holdIs | apply hold_ite | dsimp only | split

theorem State.train_holdIs {qq : KeySlots × DomState × ObjState} (s : State) (core : Nat) (line : Nat) (miss : Bool) (h_s : HoldIs qq s) :
    HoldIs qq (State.train s core line miss) := by
  unfold State.train
  dsimp -failIfUnchanged only
  repeat' with_reducible first | assumption | (intro _) | apply State.prefetch_holdIs | apply State.updCup_holdIs | apply hold_ite | (refine hold_foldl ?_ (fun _ _ _ => ?_)) | (refine hold_foldl1 ?_ (fun _ _ _ => ?_)) | (refine hold_foldl2 ?_ (fun _ _ _ => ?_)) | dsimp only | (refine hold_pair (by assumption) ?_) | (refine hold_opt (by assumption) ?_) | (refine hold_opt1 (by assumption) ?_) | (apply hold_mk; dsimp only; apply hold_un) | split

theorem State.displace_holdIs {qq : KeySlots × DomState × ObjState} (s : State) (old : Option CLine) (h_s : HoldIs qq s) :
    HoldIs qq (State.displace s old) := by
  unfold State.displace
  dsimp -failIfUnchanged only
  repeat' with_reducible first | assumption | (intro _) | apply State.updCup_holdIs | apply hold_ite | dsimp only | (refine hold_pair (by assumption) ?_) | (refine hold_opt (by assumption) ?_) | (refine hold_opt1 (by assumption) ?_) | (apply hold_mk; dsimp only; apply hold_un) | split

theorem State.install_holdIs {qq : KeySlots × DomState × ObjState} (s : State) (m : Nat) (line : Nat) (d : List Byte) (h_s : HoldIs qq s) :
    HoldIs qq (State.install s m line d) := by
  unfold State.install
  dsimp -failIfUnchanged only
  repeat' with_reducible first | assumption | apply State.displace_holdIs | apply State.putLine_holdIs | dsimp only | (refine hold_pair (by assumption) ?_) | (refine hold_opt (by assumption) ?_) | (refine hold_opt1 (by assumption) ?_) | split

theorem State.cupLookup_holdIs {qq : KeySlots × DomState × ObjState} (s : State) (core : Nat) (line : Nat) (perr : Bool) (h_s : HoldIs qq s) :
    HoldIs qq (State.cupLookup s core line perr).1 := by
  unfold State.cupLookup
  dsimp -failIfUnchanged only
  repeat' with_reducible first | assumption | (intro _) | apply State.install_holdIs | apply State.train_holdIs | apply State.fill_holdIs | apply State.putLine_holdIs | apply State.cupPerr_holdIs | apply State.updCup_holdIs | apply State.bump_holdIs | apply hold_ite | apply hold_ite1 | dsimp only | (refine hold_pair (by assumption) ?_) | (refine hold_opt (by assumption) ?_) | (refine hold_opt1 (by assumption) ?_) | (apply hold_mk; dsimp only; apply hold_un) | split

theorem State.dropFills_holdIs {qq : KeySlots × DomState × ObjState} (s : State) (f : Nat → Bool) (held : Bool) (h_s : HoldIs qq s) :
    HoldIs qq (State.dropFills s f held) := by
  unfold State.dropFills
  dsimp -failIfUnchanged only
  repeat' with_reducible first | assumption | (intro _) | apply State.updCup_holdIs | apply hold_ite | dsimp only | (apply hold_mk; dsimp only; apply hold_un) | split

theorem State.maintRun_holdIs {qq : KeySlots × DomState × ObjState} (s : State) (op : Nat) (h_s : HoldIs qq s) :
    HoldIs qq (State.maintRun s op) := by
  unfold State.maintRun
  dsimp -failIfUnchanged only
  repeat' with_reducible first | assumption | (intro _) | apply State.dropFills_holdIs | apply State.updCup_holdIs | apply State.wr_holdIs | dsimp only | (apply hold_mk; dsimp only; apply hold_un)

theorem State.cupMaint_holdIs {qq : KeySlots × DomState × ObjState} (s : State) (val : Word) (h_s : HoldIs qq s) :
    HoldIs qq (State.cupMaint s val) := by
  unfold State.cupMaint
  dsimp -failIfUnchanged only
  repeat' with_reducible first | assumption | (intro _) | apply State.maintRun_holdIs | apply State.cupIrq_holdIs | apply State.wr_holdIs | apply hold_ite | dsimp only | split

theorem State.cupSnoop_holdIs {qq : KeySlots × DomState × ObjState} (s : State) (line : Nat) (h_s : HoldIs qq s) :
    HoldIs qq (State.cupSnoop s line) := by
  unfold State.cupSnoop
  dsimp -failIfUnchanged only
  repeat' with_reducible first | assumption | (intro _) | apply State.dropFills_holdIs | apply State.dropLines_holdIs | apply State.bump_holdIs | apply hold_ite | dsimp only | split

theorem State.cupPresent_holdIs {qq : KeySlots × DomState × ObjState} (s : State) (port : Nat) (a : Nat) (l : List Byte) (h_s : HoldIs qq s) :
    HoldIs qq (State.cupPresent s port a l) := by
  unfold State.cupPresent
  dsimp -failIfUnchanged only
  repeat' with_reducible first | assumption | (intro _) | apply State.cupSnoop_holdIs | apply State.install_holdIs | apply State.dropLines_holdIs | apply State.bump_holdIs | apply hold_ite | (refine hold_foldl ?_ (fun _ _ _ => ?_)) | (refine hold_foldl1 ?_ (fun _ _ _ => ?_)) | (refine hold_foldl2 ?_ (fun _ _ _ => ?_)) | dsimp only | split

theorem State.cupSpad_holdIs {qq : KeySlots × DomState × ObjState} (s : State) (val : Word) (h_s : HoldIs qq s) :
    HoldIs qq (State.cupSpad s val) := by
  unfold State.cupSpad
  dsimp -failIfUnchanged only
  repeat' with_reducible first | assumption | (intro _) | apply State.updCup_holdIs | apply State.cupIrq_holdIs | apply State.wr_holdIs | apply hold_ite | dsimp only | (apply hold_mk; dsimp only; apply hold_un) | split

theorem State.cupWalk_holdIs {qq : KeySlots × DomState × ObjState} (s : State) (h_s : HoldIs qq s) :
    HoldIs qq (State.cupWalk s) := by
  unfold State.cupWalk
  dsimp -failIfUnchanged only
  repeat' with_reducible first | assumption | (intro _) | apply State.updCup_holdIs | dsimp only | (apply hold_mk; dsimp only; apply hold_un)

theorem State.cupStart_holdIs {qq : KeySlots × DomState × ObjState} (s : State) (h_s : HoldIs qq s) :
    HoldIs qq (State.cupStart s) := by
  unfold State.cupStart
  dsimp -failIfUnchanged only
  repeat' with_reducible first | assumption | (intro _) | apply State.cupWalk_holdIs | apply State.updCup_holdIs | dsimp only | (apply hold_mk; dsimp only; apply hold_un)

theorem State.ddrStore_holdIs {qq : KeySlots × DomState × ObjState} (s : State) (port : Nat) (a : Nat) (l : List Byte) (h_s : HoldIs qq s) :
    HoldIs qq (State.ddrStore s port a l).1 := by
  unfold State.ddrStore
  dsimp -failIfUnchanged only
  repeat' with_reducible first | assumption | (intro _) | apply State.cupPresent_holdIs | apply State.ddrWriteOp_holdIs | apply hold_ite | apply hold_ite1 | dsimp only | split

theorem State.fillReturn_holdIs {qq : KeySlots × DomState × ObjState} (s : State) (x : CFill) (d : List Byte) (ok : Bool) (h_s : HoldIs qq s) :
    HoldIs qq (State.fillReturn s x d ok) := by
  unfold State.fillReturn
  dsimp -failIfUnchanged only
  repeat' with_reducible first | assumption | (intro _) | apply State.install_holdIs | apply State.updCup_holdIs | apply hold_ite | dsimp only | (apply hold_mk; dsimp only; apply hold_un) | split

theorem State.l1Fill_holdIs {qq : KeySlots × DomState × ObjState} (s : State) (core : Nat) (line : Nat) (d : List Byte) (h_s : HoldIs qq s) :
    HoldIs qq (State.l1Fill s core line d) := by
  unfold State.l1Fill
  dsimp -failIfUnchanged only
  repeat' with_reducible first | assumption | (intro _) | dsimp only | (apply hold_mk; dsimp only; apply hold_un)

theorem cupMaintOp_holdIs {qq : KeySlots × DomState × ObjState} (op : Nat) (val : Word) (s : State) (h_s : HoldIs qq s) :
    HoldIs qq (cupMaintOp op val s) := by
  unfold cupMaintOp
  dsimp -failIfUnchanged only
  repeat' with_reducible first | assumption | (intro _) | apply State.cupMaint_holdIs | apply State.gated_holdIs | dsimp only

theorem execCupCntClr_holdIs {qq : KeySlots × DomState × ObjState} (val : Word) (s : State) (h_s : HoldIs qq s) :
    Out.HoldIs qq (execCupCntClr val s) := by
  unfold execCupCntClr
  dsimp -failIfUnchanged only
  repeat' with_reducible first | assumption | (intro _) | apply State.gated_holdIs | apply State.setReg_holdIs | apply hold_next | apply hold_ite3 | apply hold_ite | (refine hold_foldl ?_ (fun _ _ _ => ?_)) | (refine hold_foldl1 ?_ (fun _ _ _ => ?_)) | (refine hold_foldl2 ?_ (fun _ _ _ => ?_)) | dsimp only | split

theorem execCupSpadWrite_holdIs {qq : KeySlots × DomState × ObjState} (val : Word) (s : State) (h_s : HoldIs qq s) :
    Out.HoldIs qq (execCupSpadWrite val s) := by
  unfold execCupSpadWrite
  dsimp -failIfUnchanged only
  repeat' with_reducible first | assumption | (intro _) | apply State.cupSpad_holdIs | apply State.gated_holdIs | apply hold_next | apply hold_ite3 | dsimp only

theorem execDdrWrite_holdIs {qq : KeySlots × DomState × ObjState} (port : Nat) (addr : Nat) (bytes : List Byte) (s : State) (h_s : HoldIs qq s) :
    Out.HoldIs qq (execDdrWrite port addr bytes s) := by
  unfold execDdrWrite
  dsimp -failIfUnchanged only
  repeat' with_reducible first | assumption | (intro _) | apply State.ddrStore_holdIs | apply hold_next | apply hold_ite3 | apply hold_ite | apply hold_ite1 | dsimp only | (apply hold_mk; dsimp only; apply hold_un) | split

theorem execInvAll_holdIs {qq : KeySlots × DomState × ObjState} (val : Word) (s : State) (h_s : HoldIs qq s) :
    Out.HoldIs qq (execInvAll val s) := by
  unfold execInvAll
  dsimp -failIfUnchanged only
  repeat' with_reducible first | assumption | apply cupMaintOp_holdIs | apply hold_next | apply hold_ite3 | dsimp only

theorem execInvLine_holdIs {qq : KeySlots × DomState × ObjState} (val : Word) (s : State) (h_s : HoldIs qq s) :
    Out.HoldIs qq (execInvLine val s) := by
  unfold execInvLine
  dsimp -failIfUnchanged only
  repeat' with_reducible first | assumption | apply cupMaintOp_holdIs | apply hold_next | apply hold_ite3 | dsimp only

theorem execInvRange_holdIs {qq : KeySlots × DomState × ObjState} (val : Word) (s : State) (h_s : HoldIs qq s) :
    Out.HoldIs qq (execInvRange val s) := by
  unfold execInvRange
  dsimp -failIfUnchanged only
  repeat' with_reducible first | assumption | apply cupMaintOp_holdIs | apply hold_next | apply hold_ite3 | dsimp only

theorem execInvWays_holdIs {qq : KeySlots × DomState × ObjState} (val : Word) (s : State) (h_s : HoldIs qq s) :
    Out.HoldIs qq (execInvWays val s) := by
  unfold execInvWays
  dsimp -failIfUnchanged only
  repeat' with_reducible first | assumption | apply cupMaintOp_holdIs | apply hold_next | apply hold_ite3 | dsimp only

theorem execMaintDone_holdIs {qq : KeySlots × DomState × ObjState} (s : State) (h_s : HoldIs qq s) :
    Out.HoldIs qq (execMaintDone s) := by
  unfold execMaintDone
  dsimp -failIfUnchanged only
  repeat' with_reducible first | assumption | (intro _) | apply State.cupIrq_holdIs | apply State.wr_holdIs | apply hold_next | apply hold_ite3 | apply hold_ite | dsimp only | split

theorem execScratchpadAccess_holdIs {qq : KeySlots × DomState × ObjState} (port : Nat) (addr : Nat) (n : Nat) (wr : Option (List Byte)) (perr : Bool) (s : State) (h_s : HoldIs qq s) :
    Out.HoldIs qq (execScratchpadAccess port addr n wr perr s) := by
  unfold execScratchpadAccess
  dsimp -failIfUnchanged only
  repeat' with_reducible first | assumption | (intro _) | apply State.cupIrq_holdIs | apply State.setBytes_holdIs | apply hold_next | apply hold_ite3 | apply hold_ite | dsimp only | (refine hold_pair (by assumption) ?_) | (refine hold_opt (by assumption) ?_) | (refine hold_opt1 (by assumption) ?_) | (apply hold_mk; dsimp only; apply hold_un) | split

theorem execSpadWalkDone_holdIs {qq : KeySlots × DomState × ObjState} (s : State) (h_s : HoldIs qq s) :
    Out.HoldIs qq (execSpadWalkDone s) := by
  unfold execSpadWalkDone
  dsimp -failIfUnchanged only
  repeat' with_reducible first | assumption | (intro _) | apply State.updCup_holdIs | apply State.cupIrq_holdIs | apply State.wr_holdIs | apply hold_next | apply hold_ite3 | apply hold_ite | dsimp only | (apply hold_mk; dsimp only; apply hold_un) | split

theorem State.updDma_holdIs {qq : KeySlots × DomState × ObjState} (s : State) (f : DmaState → DmaState) (h_s : HoldIs qq s) :
    HoldIs qq (State.updDma s f) := by
  unfold State.updDma
  dsimp -failIfUnchanged only
  repeat' with_reducible first | assumption | (intro _) | dsimp only | (apply hold_mk; dsimp only; apply hold_un)

theorem State.dmaShow_holdIs {qq : KeySlots × DomState × ObjState} (s : State) (c : Nat) (h_s : HoldIs qq s) :
    HoldIs qq (State.dmaShow s c) := by
  unfold State.dmaShow
  dsimp -failIfUnchanged only
  repeat' with_reducible first | assumption | (intro _) | apply State.wr_holdIs | apply hold_ite | dsimp only | split

theorem State.updCh_holdIs {qq : KeySlots × DomState × ObjState} (s : State) (c : Nat) (f : DmaCh → DmaCh) (h_s : HoldIs qq s) :
    HoldIs qq (State.updCh s c f) := by
  unfold State.updCh
  dsimp -failIfUnchanged only
  repeat' with_reducible first | assumption | (intro _) | apply State.dmaShow_holdIs | apply State.updDma_holdIs | dsimp only | (apply hold_mk; dsimp only; apply hold_un)

theorem State.burstIssue_holdIs {qq : KeySlots × DomState × ObjState} (s : State) (c : Nat) (h_s : HoldIs qq s) :
    HoldIs qq (State.burstIssue s c) := by
  unfold State.burstIssue
  dsimp -failIfUnchanged only
  repeat' with_reducible first | assumption | (intro _) | apply State.updCh_holdIs | apply State.updDma_holdIs | apply hold_ite | dsimp only | (apply hold_mk; dsimp only; apply hold_un) | split

theorem State.dmaSpoil_holdIs {qq : KeySlots × DomState × ObjState} (s : State) (l : List Word) (h_s : HoldIs qq s) :
    HoldIs qq (State.dmaSpoil s l) := by
  unfold State.dmaSpoil
  dsimp -failIfUnchanged only
  repeat' with_reducible first | assumption | (intro _) | apply State.setBytes_holdIs | apply State.drawn_holdIs | apply hold_ite | dsimp only | split

theorem State.setCst_holdIs {qq : KeySlots × DomState × ObjState} (s : State) (c : Nat) (v : Nat) (h_s : HoldIs qq s) :
    HoldIs qq (State.setCst s c v) := by
  unfold State.setCst
  dsimp -failIfUnchanged only
  repeat' with_reducible first | assumption | apply State.wb_holdIs | apply State.wr_holdIs | dsimp only

theorem State.dmaDisable_holdIs {qq : KeySlots × DomState × ObjState} (s : State) (c : Nat) (h_s : HoldIs qq s) :
    HoldIs qq (State.dmaDisable s c) := by
  unfold State.dmaDisable
  dsimp -failIfUnchanged only
  repeat' with_reducible first | assumption | (intro _) | apply State.setCst_holdIs | apply State.dmaSpoil_holdIs | apply State.updCh_holdIs | apply State.drawn_holdIs | apply State.wr_holdIs | apply hold_ite | dsimp only | split

theorem State.dmaIrq_holdIs {qq : KeySlots × DomState × ObjState} (s : State) (bit : Nat) (h_s : HoldIs qq s) :
    HoldIs qq (State.dmaIrq s bit) := by
  unfold State.dmaIrq
  dsimp -failIfUnchanged only
  repeat' with_reducible first | assumption | apply State.irq_holdIs | dsimp only

theorem State.parkCheck_holdIs {qq : KeySlots × DomState × ObjState} (s : State) (c : Nat) (h_s : HoldIs qq s) :
    HoldIs qq (State.parkCheck s c) := by
  unfold State.parkCheck
  dsimp -failIfUnchanged only
  repeat' with_reducible first | assumption | (intro _) | apply State.setCst_holdIs | apply State.updCh_holdIs | apply hold_ite | dsimp only | (apply hold_mk; dsimp only; apply hold_un) | split

theorem State.dmaFetch_holdIs {qq : KeySlots × DomState × ObjState} (s : State) (c : Nat) (h_s : HoldIs qq s) :
    HoldIs qq (State.dmaFetch s c) := by
  unfold State.dmaFetch
  dsimp -failIfUnchanged only
  repeat' with_reducible first | assumption | (intro _) | apply State.parkCheck_holdIs | apply State.setCst_holdIs | apply State.updCh_holdIs | dsimp only | (apply hold_mk; dsimp only; apply hold_un)

theorem State.dmaCtl_holdIs {qq : KeySlots × DomState × ObjState} (s : State) (c : Nat) (val : Word) (h_s : HoldIs qq s) :
    HoldIs qq (State.dmaCtl s c val) := by
  unfold State.dmaCtl
  dsimp -failIfUnchanged only
  repeat' with_reducible first | assumption | (intro _) | apply State.dmaFetch_holdIs | apply State.dmaIrq_holdIs | apply State.dmaDisable_holdIs | apply State.wr_holdIs | apply hold_ite | dsimp only | split

theorem State.dmaDoorbell_holdIs {qq : KeySlots × DomState × ObjState} (s : State) (c : Nat) (val : Word) (h_s : HoldIs qq s) :
    HoldIs qq (State.dmaDoorbell s c val) := by
  unfold State.dmaDoorbell
  dsimp -failIfUnchanged only
  repeat' with_reducible first | assumption | (intro _) | apply State.updCh_holdIs | apply State.wr_holdIs | apply hold_ite | dsimp only | (apply hold_mk; dsimp only; apply hold_un) | split

theorem State.setWord7_holdIs {qq : KeySlots × DomState × ObjState} (s : State) (c : Nat) (w : Word) (h_s : HoldIs qq s) :
    HoldIs qq (State.setWord7 s c w) := by
  unfold State.setWord7
  dsimp -failIfUnchanged only
  repeat' with_reducible first | assumption | (intro _) | apply State.updCh_holdIs | dsimp only | (apply hold_mk; dsimp only; apply hold_un)

theorem State.dmaEnd_holdIs {qq : KeySlots × DomState × ObjState} (s : State) (c : Nat) (h_s : HoldIs qq s) :
    HoldIs qq (State.dmaEnd s c) := by
  unfold State.dmaEnd
  dsimp -failIfUnchanged only
  repeat' with_reducible first | assumption | (intro _) | apply State.setWord7_holdIs | apply hold_ite | dsimp only | split

theorem State.dmaPark_holdIs {qq : KeySlots × DomState × ObjState} (s : State) (c : Nat) (kind : Nat) (domains : Nat) (h_s : HoldIs qq s) :
    HoldIs qq (State.dmaPark s c kind domains) := by
  unfold State.dmaPark
  dsimp -failIfUnchanged only
  repeat' with_reducible first | assumption | (intro _) | apply State.parkCheck_holdIs | apply State.updCh_holdIs | apply hold_ite | dsimp only | (apply hold_mk; dsimp only; apply hold_un) | split

theorem State.dmaPulse_holdIs {qq : KeySlots × DomState × ObjState} (s : State) (line : Nat) (h_s : HoldIs qq s) :
    HoldIs qq (State.dmaPulse s line) := by
  unfold State.dmaPulse
  dsimp -failIfUnchanged only
  repeat' with_reducible first | assumption | (intro _) | apply State.setCst_holdIs | apply State.burstIssue_holdIs | apply State.wr_holdIs | apply hold_ite | dsimp only | (refine hold_pair (by assumption) ?_) | (refine hold_opt (by assumption) ?_) | (refine hold_opt1 (by assumption) ?_) | split

theorem State.dmaQuiesce_holdIs {qq : KeySlots × DomState × ObjState} (s : State) (domains : Nat) (h_s : HoldIs qq s) :
    HoldIs qq (State.dmaQuiesce s domains) := by
  unfold State.dmaQuiesce
  dsimp -failIfUnchanged only
  repeat' with_reducible first | assumption | (intro _) | apply State.dmaPark_holdIs | apply State.updDma_holdIs | apply State.wr_holdIs | (refine hold_foldl ?_ (fun _ _ _ => ?_)) | (refine hold_foldl1 ?_ (fun _ _ _ => ?_)) | (refine hold_foldl2 ?_ (fun _ _ _ => ?_)) | dsimp only | (apply hold_mk; dsimp only; apply hold_un)

theorem State.unpark_holdIs {qq : KeySlots × DomState × ObjState} (s : State) (c : Nat) (h_s : HoldIs qq s) :
    HoldIs qq (State.unpark s c) := by
  unfold State.unpark
  dsimp -failIfUnchanged only
  repeat' with_reducible first | assumption | (intro _) | apply State.setCst_holdIs | apply State.updCh_holdIs | dsimp only | (apply hold_mk; dsimp only; apply hold_un)

theorem State.dmaSettle_holdIs {qq : KeySlots × DomState × ObjState} (s : State) (h_s : HoldIs qq s) :
    HoldIs qq (State.dmaSettle s) := by
  unfold State.dmaSettle
  dsimp -failIfUnchanged only
  repeat' with_reducible first | assumption | apply State.shutDone_holdIs | apply hold_ite | dsimp only | split

theorem State.dmaStart_holdIs {qq : KeySlots × DomState × ObjState} (s : State) (h_s : HoldIs qq s) :
    HoldIs qq (State.dmaStart s) := by
  unfold State.dmaStart
  dsimp -failIfUnchanged only
  repeat' with_reducible first | assumption | (intro _) | apply State.unpark_holdIs | apply State.dmaFetch_holdIs | apply hold_ite | (refine hold_foldl ?_ (fun _ _ _ => ?_)) | (refine hold_foldl1 ?_ (fun _ _ _ => ?_)) | (refine hold_foldl2 ?_ (fun _ _ _ => ?_)) | dsimp only | split

theorem State.dmaThermal_holdIs {qq : KeySlots × DomState × ObjState} (s : State) (domains : Nat) (h_s : HoldIs qq s) :
    HoldIs qq (State.dmaThermal s domains) := by
  unfold State.dmaThermal
  dsimp -failIfUnchanged only
  repeat' with_reducible first | assumption | (intro _) | apply State.dmaIrq_holdIs | apply State.dmaDisable_holdIs | (refine hold_foldl ?_ (fun _ _ _ => ?_)) | (refine hold_foldl1 ?_ (fun _ _ _ => ?_)) | (refine hold_foldl2 ?_ (fun _ _ _ => ?_)) | dsimp only

theorem State.setDescAddr_holdIs {qq : KeySlots × DomState × ObjState} (s : State) (c : Nat) (a : Nat) (h_s : HoldIs qq s) :
    HoldIs qq (State.setDescAddr s c a) := by
  unfold State.setDescAddr
  dsimp -failIfUnchanged only
  repeat' with_reducible first | assumption | apply State.wr_holdIs | dsimp only

theorem execDmaBurstIssue_holdIs {qq : KeySlots × DomState × ObjState} (s : State) (h_s : HoldIs qq s) :
    Out.HoldIs qq (execDmaBurstIssue s) := by
  unfold execDmaBurstIssue
  dsimp -failIfUnchanged only
  repeat' with_reducible first | assumption | (intro _) | apply State.parkCheck_holdIs | apply State.setCst_holdIs | apply State.burstIssue_holdIs | apply State.updDma_holdIs | apply State.wr_holdIs | apply hold_next | apply hold_ite3 | apply hold_ite | (refine hold_foldl ?_ (fun _ _ _ => ?_)) | (refine hold_foldl1 ?_ (fun _ _ _ => ?_)) | (refine hold_foldl2 ?_ (fun _ _ _ => ?_)) | dsimp only | (refine hold_pair (by assumption) ?_) | (refine hold_opt (by assumption) ?_) | (refine hold_opt1 (by assumption) ?_) | (apply hold_mk; dsimp only; apply hold_un) | split

theorem execDmaChDb_holdIs {qq : KeySlots × DomState × ObjState} (c : Nat) (val : Word) (s : State) (h_s : HoldIs qq s) :
    Out.HoldIs qq (execDmaChDb c val s) := by
  unfold execDmaChDb
  dsimp -failIfUnchanged only
  repeat' with_reducible first | assumption | (intro _) | apply State.dmaDoorbell_holdIs | apply State.gated_holdIs | apply hold_next | apply hold_ite3 | apply hold_ite | dsimp only | split

theorem execDmaChDisable_holdIs {qq : KeySlots × DomState × ObjState} (c : Nat) (val : Word) (s : State) (h_s : HoldIs qq s) :
    Out.HoldIs qq (execDmaChDisable c val s) := by
  unfold execDmaChDisable
  dsimp -failIfUnchanged only
  repeat' with_reducible first | assumption | (intro _) | apply State.dmaCtl_holdIs | apply State.gated_holdIs | apply hold_next | apply hold_ite3 | apply hold_ite | dsimp only | split

theorem execDmaChEnable_holdIs {qq : KeySlots × DomState × ObjState} (c : Nat) (val : Word) (s : State) (h_s : HoldIs qq s) :
    Out.HoldIs qq (execDmaChEnable c val s) := by
  unfold execDmaChEnable
  dsimp -failIfUnchanged only
  repeat' with_reducible first | assumption | (intro _) | apply State.dmaCtl_holdIs | apply State.gated_holdIs | apply hold_next | apply hold_ite3 | apply hold_ite | dsimp only | split

theorem execDmaRequestPulse_holdIs {qq : KeySlots × DomState × ObjState} (line : Nat) (s : State) (h_s : HoldIs qq s) :
    Out.HoldIs qq (execDmaRequestPulse line s) := by
  unfold execDmaRequestPulse
  dsimp -failIfUnchanged only
  repeat' with_reducible first | assumption | apply State.dmaPulse_holdIs | apply hold_next | apply hold_ite3 | apply hold_ite | dsimp only | split

theorem State.flsIrq_holdIs {qq : KeySlots × DomState × ObjState} (s : State) (bit : Nat) (h_s : HoldIs qq s) :
    HoldIs qq (State.flsIrq s bit) := by
  unfold State.flsIrq
  dsimp -failIfUnchanged only
  repeat' with_reducible first | assumption | apply State.irq_holdIs | dsimp only

theorem State.cmdEnd_holdIs {qq : KeySlots × DomState × ObjState} (s : State) (r : Nat) (h_s : HoldIs qq s) :
    HoldIs qq (State.cmdEnd s r) := by
  unfold State.cmdEnd
  dsimp -failIfUnchanged only
  repeat' with_reducible first | assumption | (intro _) | apply State.flsIrq_holdIs | apply State.wr_holdIs | apply hold_ite | dsimp only | split

theorem State.updFls_holdIs {qq : KeySlots × DomState × ObjState} (s : State) (f : FlsState → FlsState) (h_s : HoldIs qq s) :
    HoldIs qq (State.updFls s f) := by
  unfold State.updFls
  dsimp -failIfUnchanged only
  repeat' with_reducible first | assumption | (intro _) | dsimp only | (apply hold_mk; dsimp only; apply hold_un)

theorem State.seqRead_holdIs {qq : KeySlots × DomState × ObjState} (s : State) (h_s : HoldIs qq s) :
    HoldIs qq (State.seqRead s) := by
  unfold State.seqRead
  dsimp -failIfUnchanged only
  repeat' with_reducible first | assumption | (intro _) | apply State.updFls_holdIs | apply State.wr_holdIs | dsimp only | (apply hold_mk; dsimp only; apply hold_un)

theorem State.seqErr_holdIs {qq : KeySlots × DomState × ObjState} (s : State) (h_s : HoldIs qq s) :
    HoldIs qq (State.seqErr s) := by
  unfold State.seqErr
  dsimp -failIfUnchanged only
  repeat' with_reducible first | assumption | (intro _) | apply State.seqRead_holdIs | apply State.cmdEnd_holdIs | apply State.bump_holdIs | apply hold_ite | dsimp only | split

theorem State.afterU_holdIs {qq : KeySlots × DomState × ObjState} (s : State) (off : Nat) (v : Nat) (h_s : HoldIs qq s) :
    HoldIs qq (State.afterU s off v) := by
  unfold State.afterU
  dsimp -failIfUnchanged only
  repeat' with_reducible first | assumption | (intro _) | apply State.seqErr_holdIs | apply State.seqRead_holdIs | apply State.updFls_holdIs | apply State.cmdEnd_holdIs | apply State.dmaPulse_holdIs | apply State.wr_holdIs | apply hold_ite | dsimp only | (apply hold_mk; dsimp only; apply hold_un) | split

theorem State.bootWp_holdIs {qq : KeySlots × DomState × ObjState} (s : State) (port : Nat) (val : Word) (h_s : HoldIs qq s) :
    HoldIs qq (State.bootWp s port val) := by
  unfold State.bootWp
  dsimp -failIfUnchanged only
  repeat' with_reducible first | assumption | (intro _) | apply State.flsIrq_holdIs | apply State.wr_holdIs | apply hold_ite | dsimp only | split

theorem State.opStart_holdIs {qq : KeySlots × DomState × ObjState} (s : State) (x : FlsOp) (h_s : HoldIs qq s) :
    HoldIs qq (State.opStart s x) := by
  unfold State.opStart
  dsimp -failIfUnchanged only
  repeat' with_reducible first | assumption | (intro _) | apply State.updFls_holdIs | apply State.wr_holdIs | dsimp only | (apply hold_mk; dsimp only; apply hold_un)

theorem State.eraseResume_holdIs {qq : KeySlots × DomState × ObjState} (s : State) (vppOk : Bool) (h_s : HoldIs qq s) :
    HoldIs qq (State.eraseResume s vppOk) := by
  unfold State.eraseResume
  dsimp -failIfUnchanged only
  repeat' with_reducible first | assumption | (intro _) | apply State.opStart_holdIs | apply State.updFls_holdIs | apply State.cmdEnd_holdIs | apply State.wr_holdIs | apply hold_ite | dsimp only | (refine hold_pair (by assumption) ?_) | (refine hold_opt (by assumption) ?_) | (refine hold_opt1 (by assumption) ?_) | (apply hold_mk; dsimp only; apply hold_un) | split

theorem State.eraseSuspend_holdIs {qq : KeySlots × DomState × ObjState} (s : State) (h_s : HoldIs qq s) :
    HoldIs qq (State.eraseSuspend s) := by
  unfold State.eraseSuspend
  dsimp -failIfUnchanged only
  repeat' with_reducible first | assumption | (intro _) | apply State.updFls_holdIs | apply hold_ite | dsimp only | (apply hold_mk; dsimp only; apply hold_un) | split

theorem State.pwCheck_holdIs {qq : KeySlots × DomState × ObjState} (s : State) (l : List Byte) (h_s : HoldIs qq s) :
    HoldIs qq (State.pwCheck s l) := by
  unfold State.pwCheck
  dsimp -failIfUnchanged only
  repeat' with_reducible first | assumption | (intro _) | apply State.cmdEnd_holdIs | apply State.flsIrq_holdIs | apply State.wr_holdIs | apply hold_ite | dsimp only | split

theorem State.markProg_holdIs {qq : KeySlots × DomState × ObjState} (s : State) (w : Nat) (n : Nat) (h_s : HoldIs qq s) :
    HoldIs qq (State.markProg s w n) := by
  unfold State.markProg
  dsimp -failIfUnchanged only
  repeat' with_reducible first | assumption | (intro _) | apply State.updFls_holdIs | dsimp only | (apply hold_mk; dsimp only; apply hold_un)

theorem State.flsStart_holdIs {qq : KeySlots × DomState × ObjState} (s : State) (op : Nat) (k : Nat) (words : List (Nat × List Byte)) (pw : List Byte) (vppOk : Bool) (h_s : HoldIs qq s) :
    HoldIs qq (State.flsStart s op k words pw vppOk) := by
  unfold State.flsStart
  dsimp -failIfUnchanged only
  repeat' with_reducible first | assumption | (intro _) | apply State.markProg_holdIs | apply State.pwCheck_holdIs | apply State.opStart_holdIs | apply State.seqRead_holdIs | apply State.cmdEnd_holdIs | apply State.setBytes_holdIs | apply State.wr_holdIs | apply hold_ite | apply hold_ite1 | (refine hold_foldl ?_ (fun _ _ _ => ?_)) | (refine hold_foldl1 ?_ (fun _ _ _ => ?_)) | (refine hold_foldl2 ?_ (fun _ _ _ => ?_)) | dsimp only | (apply hold_mk; dsimp only; apply hold_un) | split

theorem State.eraseTail_holdIs {qq : KeySlots × DomState × ObjState} (s : State) (off : Nat) (v : Nat) (vppOk : Bool) (h_s : HoldIs qq s) :
    HoldIs qq (State.eraseTail s off v vppOk) := by
  unfold State.eraseTail
  dsimp -failIfUnchanged only
  repeat' with_reducible first | assumption | (intro _) | apply State.flsStart_holdIs | apply State.seqErr_holdIs | apply State.updFls_holdIs | apply hold_ite | dsimp only | (apply hold_mk; dsimp only; apply hold_un) | split

theorem State.markErased_holdIs {qq : KeySlots × DomState × ObjState} (s : State) (w : Nat) (n : Nat) (h_s : HoldIs qq s) :
    HoldIs qq (State.markErased s w n) := by
  unfold State.markErased
  dsimp -failIfUnchanged only
  repeat' with_reducible first | assumption | (intro _) | apply State.updFls_holdIs | dsimp only | (apply hold_mk; dsimp only; apply hold_un)

theorem State.wordData_holdIs {qq : KeySlots × DomState × ObjState} (s : State) (off : Nat) (l : List Byte) (vppOk : Bool) (h_s : HoldIs qq s) :
    HoldIs qq (State.wordData s off l vppOk) := by
  unfold State.wordData
  dsimp -failIfUnchanged only
  repeat' with_reducible first | assumption | (intro _) | apply State.flsStart_holdIs | apply State.seqErr_holdIs | apply State.updFls_holdIs | apply hold_ite | apply hold_ite1 | dsimp only | (apply hold_mk; dsimp only; apply hold_un) | split

theorem State.pageData_holdIs {qq : KeySlots × DomState × ObjState} (s : State) (off : Nat) (l : List Byte) (vppOk : Bool) (h_s : HoldIs qq s) :
    HoldIs qq (State.pageData s off l vppOk) := by
  unfold State.pageData
  dsimp -failIfUnchanged only
  repeat' with_reducible first | assumption | (intro _) | apply State.flsStart_holdIs | apply State.seqErr_holdIs | apply State.updFls_holdIs | apply State.wr_holdIs | apply hold_ite | apply hold_ite1 | dsimp only | (refine hold_pair (by assumption) ?_) | (refine hold_opt (by assumption) ?_) | (refine hold_opt1 (by assumption) ?_) | (apply hold_mk; dsimp only; apply hold_un) | split

theorem State.pwData_holdIs {qq : KeySlots × DomState × ObjState} (s : State) (off : Nat) (l : List Byte) (vppOk : Bool) (h_s : HoldIs qq s) :
    HoldIs qq (State.pwData s off l vppOk) := by
  unfold State.pwData
  dsimp -failIfUnchanged only
  repeat' with_reducible first | assumption | (intro _) | apply State.flsStart_holdIs | apply State.seqErr_holdIs | apply State.updFls_holdIs | apply hold_ite | apply hold_ite1 | dsimp only | (apply hold_mk; dsimp only; apply hold_un) | split

theorem State.phaseWrite_holdIs {qq : KeySlots × DomState × ObjState} (s : State) (off : Nat) (l : List Byte) (vppOk : Bool) (h_s : HoldIs qq s) :
    HoldIs qq (State.phaseWrite s off l vppOk) := by
  unfold State.phaseWrite
  dsimp -failIfUnchanged only
  repeat' with_reducible first | assumption | (intro _) | apply State.pwData_holdIs | apply State.pageData_holdIs | apply State.wordData_holdIs | apply State.eraseTail_holdIs | apply State.flsStart_holdIs | apply State.seqErr_holdIs | apply State.updFls_holdIs | apply State.wr_holdIs | apply hold_ite | dsimp only | (apply hold_mk; dsimp only; apply hold_un) | split

theorem State.flsCycle_holdIs {qq : KeySlots × DomState × ObjState} (s : State) (off : Nat) (l : List Byte) (vppOk : Bool) (h_s : HoldIs qq s) :
    HoldIs qq (State.flsCycle s off l vppOk) := by
  unfold State.flsCycle
  dsimp -failIfUnchanged only
  repeat' with_reducible first | assumption | (intro _) | apply State.phaseWrite_holdIs | apply State.eraseSuspend_holdIs | apply State.eraseResume_holdIs | apply State.afterU_holdIs | apply State.seqErr_holdIs | apply State.seqRead_holdIs | apply State.flsIrq_holdIs | apply State.wr_holdIs | apply hold_ite | dsimp only | split

theorem State.flsReadOp_holdIs {qq : KeySlots × DomState × ObjState} (s : State) (a : Nat) (n : Nat) (ecc : Nat) (h_s : HoldIs qq s) :
    HoldIs qq (State.flsReadOp s a n ecc).1 := by
  unfold State.flsReadOp
  dsimp -failIfUnchanged only
  repeat' with_reducible first | assumption | (intro _) | apply State.flsIrq_holdIs | apply State.hwPost_holdIs | apply State.drawn_holdIs | apply State.bump_holdIs | apply hold_ite | apply hold_ite1 | dsimp only | (apply hold_mk; dsimp only; apply hold_un) | split

theorem setMap_holdIs {qq : KeySlots × DomState × ObjState} (s : State) (f : Nat → Fld) (k : Nat) (b : Bool) (h_s : HoldIs qq s) :
    HoldIs qq (setMap s f k b) := by
  unfold setMap
  dsimp -failIfUnchanged only
  repeat' with_reducible first | assumption | (intro _) | apply State.wb_holdIs | dsimp only

theorem State.showPpb_holdIs {qq : KeySlots × DomState × ObjState} (s : State) (h_s : HoldIs qq s) :
    HoldIs qq (State.showPpb s) := by
  unfold State.showPpb
  dsimp -failIfUnchanged only
  repeat' with_reducible first | assumption | (intro _) | apply State.wr_holdIs | (refine hold_foldl ?_ (fun _ _ _ => ?_)) | (refine hold_foldl1 ?_ (fun _ _ _ => ?_)) | (refine hold_foldl2 ?_ (fun _ _ _ => ?_)) | dsimp only

theorem State.flsStartUp_holdIs {qq : KeySlots × DomState × ObjState} (s : State) (h_s : HoldIs qq s) :
    HoldIs qq (State.flsStartUp s) := by
  unfold State.flsStartUp
  dsimp -failIfUnchanged only
  repeat' with_reducible first | assumption | (intro _) | apply State.showPpb_holdIs | apply setMap_holdIs | apply State.flsIrq_holdIs | apply hold_ite | apply hold_ite1 | (refine hold_foldl ?_ (fun _ _ _ => ?_)) | (refine hold_foldl1 ?_ (fun _ _ _ => ?_)) | (refine hold_foldl2 ?_ (fun _ _ _ => ?_)) | dsimp only | split

theorem State.flsWriteOp_holdIs {qq : KeySlots × DomState × ObjState} (s : State) (a : Nat) (l : List Byte) (vppOk : Bool) (h_s : HoldIs qq s) :
    HoldIs qq (State.flsWriteOp s a l vppOk).1 := by
  unfold State.flsWriteOp
  dsimp -failIfUnchanged only
  repeat' with_reducible first | assumption | apply State.flsCycle_holdIs | apply hold_ite | apply hold_ite1 | dsimp only | split

theorem State.mscrubClear_holdIs {qq : KeySlots × DomState × ObjState} (s : State) (h_s : HoldIs qq s) :
    HoldIs qq (State.mscrubClear s) := by
  unfold State.mscrubClear
  dsimp -failIfUnchanged only
  repeat' with_reducible first | assumption | apply State.wr_holdIs | dsimp only

theorem State.opEnd_holdIs {qq : KeySlots × DomState × ObjState} (s : State) (r : Nat) (h_s : HoldIs qq s) :
    HoldIs qq (State.opEnd s r) := by
  unfold State.opEnd
  dsimp -failIfUnchanged only
  repeat' with_reducible first | assumption | (intro _) | apply State.updFls_holdIs | apply State.cmdEnd_holdIs | apply State.wr_holdIs | dsimp only | (apply hold_mk; dsimp only; apply hold_un)

theorem State.suspendNow_holdIs {qq : KeySlots × DomState × ObjState} (s : State) (r : FlsOp) (h_s : HoldIs qq s) :
    HoldIs qq (State.suspendNow s r) := by
  unfold State.suspendNow
  dsimp -failIfUnchanged only
  repeat' with_reducible first | assumption | (intro _) | apply State.updFls_holdIs | apply State.wr_holdIs | dsimp only | (apply hold_mk; dsimp only; apply hold_un)

theorem State.unlockCmd_holdIs {qq : KeySlots × DomState × ObjState} (s : State) (v : Nat) (vppOk : Bool) (h_s : HoldIs qq s) :
    HoldIs qq (State.unlockCmd s v vppOk) := by
  unfold State.unlockCmd
  dsimp -failIfUnchanged only
  repeat' with_reducible first | assumption | apply State.flsCycle_holdIs | dsimp only

theorem execBufferProgram_holdIs {qq : KeySlots × DomState × ObjState} (writes : List (Nat × List Byte)) (vppOk : Bool) (s : State) (h_s : HoldIs qq s) :
    Out.HoldIs qq (execBufferProgram writes vppOk s) := by
  unfold execBufferProgram
  dsimp -failIfUnchanged only
  repeat' with_reducible first | assumption | (intro _) | apply State.unlockCmd_holdIs | apply State.flsWriteOp_holdIs | apply State.flsCycle_holdIs | apply hold_next | apply hold_ite3 | (refine hold_foldl ?_ (fun _ _ _ => ?_)) | (refine hold_foldl1 ?_ (fun _ _ _ => ?_)) | (refine hold_foldl2 ?_ (fun _ _ _ => ?_)) | dsimp only

theorem execErasePulseDone_holdIs {qq : KeySlots × DomState × ObjState} (pass : Bool) (vppOk : Bool) (s : State) (h_s : HoldIs qq s) :
    Out.HoldIs qq (execErasePulseDone pass vppOk s) := by
  unfold execErasePulseDone
  dsimp -failIfUnchanged only
  repeat' with_reducible first | assumption | (intro _) | apply State.suspendNow_holdIs | apply State.opEnd_holdIs | apply State.updFls_holdIs | apply hold_next | apply hold_ite3 | apply hold_ite | dsimp only | (refine hold_pair (by assumption) ?_) | (refine hold_opt (by assumption) ?_) | (refine hold_opt1 (by assumption) ?_) | (apply hold_mk; dsimp only; apply hold_un) | split

theorem execEraseResume_holdIs {qq : KeySlots × DomState × ObjState} (vppOk : Bool) (s : State) (h_s : HoldIs qq s) :
    Out.HoldIs qq (execEraseResume vppOk s) := by
  unfold execEraseResume
  dsimp -failIfUnchanged only
  repeat' with_reducible first | assumption | apply State.flsCycle_holdIs | apply hold_next | apply hold_ite3 | dsimp only

theorem execEraseSuspend_holdIs {qq : KeySlots × DomState × ObjState} (s : State) (h_s : HoldIs qq s) :
    Out.HoldIs qq (execEraseSuspend s) := by
  unfold execEraseSuspend
  dsimp -failIfUnchanged only
  repeat' with_reducible first | assumption | apply State.flsCycle_holdIs | apply hold_next | apply hold_ite3 | dsimp only

theorem execFlashCommandCycle_holdIs {qq : KeySlots × DomState × ObjState} (addr : Nat) (bytes : List Byte) (vppOk : Bool) (s : State) (h_s : HoldIs qq s) :
    Out.HoldIs qq (execFlashCommandCycle addr bytes vppOk s) := by
  unfold execFlashCommandCycle
  dsimp -failIfUnchanged only
  repeat' with_reducible first | assumption | (intro _) | apply State.flsWriteOp_holdIs | apply hold_next | apply hold_ite3 | apply hold_ite | apply hold_ite1 | dsimp only | (apply hold_mk; dsimp only; apply hold_un) | split

theorem execFlashRead_holdIs {qq : KeySlots × DomState × ObjState} (addr : Nat) (n : Nat) (ecc : Nat) (s : State) (h_s : HoldIs qq s) :
    Out.HoldIs qq (execFlashRead addr n ecc s) := by
  unfold execFlashRead
  dsimp -failIfUnchanged only
  repeat' with_reducible first | assumption | (intro _) | apply State.flsReadOp_holdIs | apply hold_next | apply hold_ite3 | apply hold_ite | apply hold_ite1 | dsimp only | (apply hold_mk; dsimp only; apply hold_un) | split

theorem execFlashReset_holdIs {qq : KeySlots × DomState × ObjState} (s : State) (h_s : HoldIs qq s) :
    Out.HoldIs qq (execFlashReset s) := by
  unfold execFlashReset
  dsimp -failIfUnchanged only
  repeat' with_reducible first | assumption | apply State.flsCycle_holdIs | apply hold_next | apply hold_ite3 | dsimp only

theorem execFlsBootWpWrite_holdIs {qq : KeySlots × DomState × ObjState} (port : Nat) (val : Word) (s : State) (h_s : HoldIs qq s) :
    Out.HoldIs qq (execFlsBootWpWrite port val s) := by
  unfold execFlsBootWpWrite
  dsimp -failIfUnchanged only
  repeat' with_reducible first | assumption | (intro _) | apply State.bootWp_holdIs | apply State.gated_holdIs | apply hold_next | apply hold_ite3 | dsimp only

theorem execFlsCntClr_holdIs {qq : KeySlots × DomState × ObjState} (val : Word) (s : State) (h_s : HoldIs qq s) :
    Out.HoldIs qq (execFlsCntClr val s) := by
  unfold execFlsCntClr
  dsimp -failIfUnchanged only
  repeat' with_reducible first | assumption | (intro _) | apply State.gated_holdIs | apply State.setReg_holdIs | apply hold_next | apply hold_ite3 | apply hold_ite | dsimp only | split

theorem execMarginScrubRead_holdIs {qq : KeySlots × DomState × ObjState} (fails : Bool) (s : State) (h_s : HoldIs qq s) :
    Out.HoldIs qq (execMarginScrubRead fails s) := by
  unfold execMarginScrubRead
  dsimp -failIfUnchanged only
  repeat' with_reducible first | assumption | (intro _) | apply State.flsIrq_holdIs | apply State.hwPost_holdIs | apply State.bump_holdIs | apply State.wr_holdIs | apply hold_next | apply hold_ite3 | apply hold_ite | apply hold_ite1 | dsimp only | split

theorem execMetadataWriteDone_holdIs {qq : KeySlots × DomState × ObjState} (s : State) (h_s : HoldIs qq s) :
    Out.HoldIs qq (execMetadataWriteDone s) := by
  unfold execMetadataWriteDone
  dsimp -failIfUnchanged only
  repeat' with_reducible first | assumption | (intro _) | apply State.suspendNow_holdIs | apply State.opEnd_holdIs | apply State.showPpb_holdIs | apply setMap_holdIs | apply State.markErased_holdIs | apply State.updFls_holdIs | apply State.flsIrq_holdIs | apply State.hwPost_holdIs | apply State.wr_holdIs | apply hold_next | apply hold_ite3 | apply hold_ite | apply hold_ite1 | dsimp only | (refine hold_pair (by assumption) ?_) | (refine hold_opt (by assumption) ?_) | (refine hold_opt1 (by assumption) ?_) | (apply hold_mk; dsimp only; apply hold_un) | split

theorem execMscrubFailClear_holdIs {qq : KeySlots × DomState × ObjState} (_val : Word) (s : State) (h_s : HoldIs qq s) :
    Out.HoldIs qq (execMscrubFailClear _val s) := by
  unfold execMscrubFailClear
  dsimp -failIfUnchanged only
  repeat' with_reducible first | assumption | (intro _) | apply State.mscrubClear_holdIs | apply State.gated_holdIs | apply hold_next | apply hold_ite3 | dsimp only

theorem execPasswordCheck_holdIs {qq : KeySlots × DomState × ObjState} (pw : List Byte) (vppOk : Bool) (s : State) (h_s : HoldIs qq s) :
    Out.HoldIs qq (execPasswordCheck pw vppOk s) := by
  unfold execPasswordCheck
  dsimp -failIfUnchanged only
  repeat' with_reducible first | assumption | apply State.unlockCmd_holdIs | apply State.flsCycle_holdIs | apply hold_next | apply hold_ite3 | dsimp only

theorem execPasswordClose_holdIs {qq : KeySlots × DomState × ObjState} (s : State) (h_s : HoldIs qq s) :
    Out.HoldIs qq (execPasswordClose s) := by
  unfold execPasswordClose
  dsimp -failIfUnchanged only
  repeat' with_reducible first | assumption | apply State.unlockCmd_holdIs | apply hold_next | apply hold_ite3 | dsimp only

theorem execPasswordSet_holdIs {qq : KeySlots × DomState × ObjState} (pw : List Byte) (vppOk : Bool) (s : State) (h_s : HoldIs qq s) :
    Out.HoldIs qq (execPasswordSet pw vppOk s) := by
  unfold execPasswordSet
  dsimp -failIfUnchanged only
  repeat' with_reducible first | assumption | apply State.unlockCmd_holdIs | apply State.flsCycle_holdIs | apply hold_next | apply hold_ite3 | dsimp only

theorem execPpbClearAll_holdIs {qq : KeySlots × DomState × ObjState} (vppOk : Bool) (s : State) (h_s : HoldIs qq s) :
    Out.HoldIs qq (execPpbClearAll vppOk s) := by
  unfold execPpbClearAll
  dsimp -failIfUnchanged only
  repeat' with_reducible first | assumption | apply State.unlockCmd_holdIs | apply State.flsCycle_holdIs | apply hold_next | apply hold_ite3 | dsimp only

theorem execPpbSet_holdIs {qq : KeySlots × DomState × ObjState} (addr : Nat) (value : Nat) (vppOk : Bool) (s : State) (h_s : HoldIs qq s) :
    Out.HoldIs qq (execPpbSet addr value vppOk s) := by
  unfold execPpbSet
  dsimp -failIfUnchanged only
  repeat' with_reducible first | assumption | apply State.unlockCmd_holdIs | apply State.flsWriteOp_holdIs | apply hold_next | apply hold_ite3 | dsimp only

theorem execProgramDone_holdIs {qq : KeySlots × DomState × ObjState} (fail : Option Nat) (retries : Nat) (s : State) (h_s : HoldIs qq s) :
    Out.HoldIs qq (execProgramDone fail retries s) := by
  unfold execProgramDone
  dsimp -failIfUnchanged only
  repeat' with_reducible first | assumption | (intro _) | apply State.opEnd_holdIs | apply State.setBytes_holdIs | apply State.drawn_holdIs | apply State.wr_holdIs | apply hold_next | apply hold_ite3 | apply hold_ite | apply hold_ite1 | (refine hold_foldl ?_ (fun _ _ _ => ?_)) | (refine hold_foldl1 ?_ (fun _ _ _ => ?_)) | (refine hold_foldl2 ?_ (fun _ _ _ => ?_)) | dsimp only | (refine hold_pair (by assumption) ?_) | (refine hold_opt (by assumption) ?_) | (refine hold_opt1 (by assumption) ?_) | split

theorem execSectorErase_holdIs {qq : KeySlots × DomState × ObjState} (index : Nat) (target : Nat) (vppOk : Bool) (s : State) (h_s : HoldIs qq s) :
    Out.HoldIs qq (execSectorErase index target vppOk s) := by
  unfold execSectorErase
  dsimp -failIfUnchanged only
  repeat' with_reducible first | assumption | (intro _) | apply State.unlockCmd_holdIs | apply State.flsWriteOp_holdIs | apply State.flsCycle_holdIs | apply hold_next | apply hold_ite3 | dsimp only

theorem execSuspendDone_holdIs {qq : KeySlots × DomState × ObjState} (s : State) (h_s : HoldIs qq s) :
    Out.HoldIs qq (execSuspendDone s) := by
  unfold execSuspendDone
  dsimp -failIfUnchanged only
  repeat' with_reducible first | assumption | apply State.suspendNow_holdIs | apply hold_next | apply hold_ite3 | apply hold_ite | dsimp only | (refine hold_pair (by assumption) ?_) | (refine hold_opt (by assumption) ?_) | (refine hold_opt1 (by assumption) ?_) | split

theorem execWordProgram_holdIs {qq : KeySlots × DomState × ObjState} (addr : Nat) (bytes : List Byte) (vppOk : Bool) (s : State) (h_s : HoldIs qq s) :
    Out.HoldIs qq (execWordProgram addr bytes vppOk s) := by
  unfold execWordProgram
  dsimp -failIfUnchanged only
  repeat' with_reducible first | assumption | apply State.unlockCmd_holdIs | apply State.flsWriteOp_holdIs | apply hold_next | apply hold_ite3 | dsimp only

theorem State.inActed_holdIs {qq : KeySlots × DomState × ObjState} (s : State) (i : Nat) (h_s : HoldIs qq s) :
    HoldIs qq (State.inActed s i) := by
  unfold State.inActed
  dsimp -failIfUnchanged only
  repeat' with_reducible first | assumption | (intro _) | apply State.lanFault_holdIs | apply State.emergency_holdIs | apply hold_ite | dsimp only | split

theorem State.updPwr_holdIs {qq : KeySlots × DomState × ObjState} (s : State) (f : PwrState → PwrState) (h_s : HoldIs qq s) :
    HoldIs qq (State.updPwr s f) := by
  unfold State.updPwr
  dsimp -failIfUnchanged only
  repeat' with_reducible first | assumption | (intro _) | dsimp only | (apply hold_mk; dsimp only; apply hold_un)

theorem State.updInput_holdIs {qq : KeySlots × DomState × ObjState} (s : State) (i : Nat) (f : InputState → InputState) (h_s : HoldIs qq s) :
    HoldIs qq (State.updInput s i f) := by
  unfold State.updInput
  dsimp -failIfUnchanged only
  repeat' with_reducible first | assumption | (intro _) | apply State.updPwr_holdIs | dsimp only | (apply hold_mk; dsimp only; apply hold_un)

theorem State.belIrq_holdIs {qq : KeySlots × DomState × ObjState} (s : State) (bit : Nat) (h_s : HoldIs qq s) :
    HoldIs qq (State.belIrq s bit) := by
  unfold State.belIrq
  dsimp -failIfUnchanged only
  repeat' with_reducible first | assumption | apply State.irq_holdIs | dsimp only

theorem State.activation_holdIs {qq : KeySlots × DomState × ObjState} (s : State) (i : Nat) (h_s : HoldIs qq s) :
    HoldIs qq (State.activation s i) := by
  unfold State.activation
  dsimp -failIfUnchanged only
  repeat' with_reducible first | assumption | (intro _) | apply State.belIrq_holdIs | apply State.updInput_holdIs | apply State.inActed_holdIs | apply State.syncLose_holdIs | apply State.bump_holdIs | apply State.wr_holdIs | apply hold_ite | dsimp only | (apply hold_mk; dsimp only; apply hold_un) | split

theorem State.pwrIrq_holdIs {qq : KeySlots × DomState × ObjState} (s : State) (p : Nat) (bit : Nat) (h_s : HoldIs qq s) :
    HoldIs qq (State.pwrIrq s p bit) := by
  unfold State.pwrIrq
  dsimp -failIfUnchanged only
  repeat' with_reducible first | assumption | apply State.irq_holdIs | dsimp only

theorem State.avsFail_holdIs {qq : KeySlots × DomState × ObjState} (s : State) (err : Nat) (h_s : HoldIs qq s) :
    HoldIs qq (State.avsFail s err) := by
  unfold State.avsFail
  dsimp -failIfUnchanged only
  repeat' with_reducible first | assumption | apply State.pwrIrq_holdIs | apply State.wr_holdIs | dsimp only

theorem State.avsWrite_holdIs {qq : KeySlots × DomState × ObjState} (s : State) (val : Word) (nack : Bool) (h_s : HoldIs qq s) :
    HoldIs qq (State.avsWrite s val nack) := by
  unfold State.avsWrite
  dsimp -failIfUnchanged only
  repeat' with_reducible first | assumption | (intro _) | apply State.avsFail_holdIs | apply State.updPwr_holdIs | apply State.wr_holdIs | apply hold_ite | dsimp only | (apply hold_mk; dsimp only; apply hold_un) | split

theorem State.belCmd_holdIs {qq : KeySlots × DomState × ObjState} (s : State) (val : Word) (h_s : HoldIs qq s) :
    HoldIs qq (State.belCmd s val) := by
  unfold State.belCmd
  dsimp -failIfUnchanged only
  repeat' with_reducible first | assumption | (intro _) | apply State.belIrq_holdIs | apply State.updSrv_holdIs | apply State.wr_holdIs | apply hold_ite | dsimp only | (apply hold_mk; dsimp only; apply hold_un) | split

theorem State.thermalActions_holdIs {qq : KeySlots × DomState × ObjState} (s : State) (m : Nat) (h_s : HoldIs qq s) :
    HoldIs qq (State.thermalActions s m) := by
  unfold State.thermalActions
  dsimp -failIfUnchanged only
  repeat' with_reducible first | assumption | (intro _) | apply State.belIrq_holdIs | apply State.dmaThermal_holdIs | apply State.spnStop_holdIs | apply State.spnOff_holdIs | apply State.emergency_holdIs | apply State.updSrv_holdIs | apply State.disable_holdIs | apply hold_ite | dsimp only | (apply hold_mk; dsimp only; apply hold_un) | split

theorem State.shutdown_holdIs {qq : KeySlots × DomState × ObjState} (s : State) (n : Nat) (h_s : HoldIs qq s) :
    HoldIs qq (State.shutdown s n) := by
  unfold State.shutdown
  dsimp -failIfUnchanged only
  repeat' with_reducible first | assumption | (intro _) | apply State.thermalActions_holdIs | apply State.updPwr_holdIs | apply State.hwPost_holdIs | apply State.wr_holdIs | dsimp only | (apply hold_mk; dsimp only; apply hold_un)

theorem State.belLimits_holdIs {qq : KeySlots × DomState × ObjState} (s : State) (n : Nat) (x : Int) (r : Option Int) (h_s : HoldIs qq s) :
    HoldIs qq (State.belLimits s n x r) := by
  unfold State.belLimits
  dsimp -failIfUnchanged only
  repeat' with_reducible first | assumption | (intro _) | apply State.shutdown_holdIs | apply State.belIrq_holdIs | apply State.updPwr_holdIs | apply State.hwPost_holdIs | apply hold_ite | dsimp only | (apply hold_mk; dsimp only; apply hold_un) | split

theorem State.belOff_holdIs {qq : KeySlots × DomState × ObjState} (s : State) (n : Nat) (h_s : HoldIs qq s) :
    HoldIs qq (State.belOff s n) := by
  unfold State.belOff
  dsimp -failIfUnchanged only
  repeat' with_reducible first | assumption | (intro _) | apply State.updPwr_holdIs | dsimp only | (apply hold_mk; dsimp only; apply hold_un)

theorem State.belSample_holdIs {qq : KeySlots × DomState × ObjState} (s : State) (n : Nat) (raw : Nat) (h_s : HoldIs qq s) :
    HoldIs qq (State.belSample s n raw).1 := by
  unfold State.belSample
  dsimp -failIfUnchanged only
  repeat' with_reducible first | assumption | (intro _) | apply State.drawn_holdIs | apply hold_ite | apply hold_ite1 | dsimp only | split

theorem State.railRange_holdIs {qq : KeySlots × DomState × ObjState} (s : State) (n : Nat) (x : Int) (h_s : HoldIs qq s) :
    HoldIs qq (State.railRange s n x) := by
  unfold State.railRange
  dsimp -failIfUnchanged only
  repeat' with_reducible first | assumption | apply State.wb_holdIs | apply hold_ite | dsimp only | split

theorem State.setKinds_holdIs {qq : KeySlots × DomState × ObjState} (s : State) (k : Nat) (h_s : HoldIs qq s) :
    HoldIs qq (State.setKinds s k) := by
  unfold State.setKinds
  dsimp -failIfUnchanged only
  repeat' with_reducible first | assumption | (intro _) | apply State.belIrq_holdIs | apply State.wr_holdIs | apply hold_ite | dsimp only | split

theorem State.belSlot_holdIs {qq : KeySlots × DomState × ObjState} (s : State) (raw : Nat) (h_s : HoldIs qq s) :
    HoldIs qq (State.belSlot s raw) := by
  unfold State.belSlot
  dsimp -failIfUnchanged only
  repeat' with_reducible first | assumption | (intro _) | apply State.setKinds_holdIs | apply State.railRange_holdIs | apply State.belSample_holdIs | apply State.belOff_holdIs | apply State.belLimits_holdIs | apply State.updPwr_holdIs | apply State.wrI_holdIs | apply State.wr_holdIs | apply hold_ite | apply hold_ite1 | dsimp only | (refine hold_pair (by assumption) ?_) | (refine hold_opt (by assumption) ?_) | (refine hold_opt1 (by assumption) ?_) | (apply hold_mk; dsimp only; apply hold_un) | split

theorem State.belStart_holdIs {qq : KeySlots × DomState × ObjState} (s : State) (h_s : HoldIs qq s) :
    HoldIs qq (State.belStart s) := by
  unfold State.belStart
  dsimp -failIfUnchanged only
  repeat' with_reducible first | assumption | (intro _) | apply State.updPwr_holdIs | apply State.wr_holdIs | dsimp only | (apply hold_mk; dsimp only; apply hold_un)

theorem State.cpuWrite_holdIs {qq : KeySlots × DomState × ObjState} (s : State) (val : Word) (h_s : HoldIs qq s) :
    HoldIs qq (State.cpuWrite s val) := by
  unfold State.cpuWrite
  dsimp -failIfUnchanged only
  repeat' with_reducible first | assumption | (intro _) | apply State.irq_holdIs | apply State.wr_holdIs | apply hold_ite | dsimp only | split

theorem State.domBusy_holdIs {qq : KeySlots × DomState × ObjState} (s : State) (r : DomReq) (h_s : HoldIs qq s) :
    HoldIs qq (State.domBusy s r) := by
  unfold State.domBusy
  dsimp -failIfUnchanged only
  repeat' with_reducible first | assumption | (intro _) | apply State.updPwr_holdIs | apply State.wr_holdIs | dsimp only | (apply hold_mk; dsimp only; apply hold_un)

theorem State.domEnd_holdIs {qq : KeySlots × DomState × ObjState} (s : State) (result : Nat) (dom : Nat) (h_s : HoldIs qq s) :
    HoldIs qq (State.domEnd s result dom) := by
  unfold State.domEnd
  dsimp -failIfUnchanged only
  repeat' with_reducible first | assumption | (intro _) | apply State.pwrIrq_holdIs | apply State.updPwr_holdIs | apply State.wr_holdIs | apply hold_ite | dsimp only | (apply hold_mk; dsimp only; apply hold_un) | split

theorem State.domDown_holdIs {qq : KeySlots × DomState × ObjState} (s : State) (m : Nat) (h_s : HoldIs qq s) :
    HoldIs qq (State.domDown s m) := by
  unfold State.domDown
  dsimp -failIfUnchanged only
  repeat' with_reducible first | assumption | (intro _) | apply State.domEnd_holdIs | apply State.domBusy_holdIs | apply State.dmaQuiesce_holdIs | dsimp only | (refine hold_pair (by assumption) ?_) | (refine hold_opt (by assumption) ?_) | (refine hold_opt1 (by assumption) ?_) | (apply hold_mk; dsimp only; apply hold_un) | split

theorem State.pwrRefuse_holdIs {qq : KeySlots × DomState × ObjState} (s : State) (h_s : HoldIs qq s) :
    HoldIs qq (State.pwrRefuse s) := by
  unfold State.pwrRefuse
  dsimp -failIfUnchanged only
  repeat' with_reducible first | assumption | apply State.pwrIrq_holdIs | dsimp only

theorem State.domUp_holdIs {qq : KeySlots × DomState × ObjState} (s : State) (m : Nat) (h_s : HoldIs qq s) :
    HoldIs qq (State.domUp s m) := by
  unfold State.domUp
  dsimp -failIfUnchanged only
  repeat' with_reducible first | assumption | apply State.domBusy_holdIs | dsimp only | (apply hold_mk; dsimp only; apply hold_un)

theorem State.domReqWrite_holdIs {qq : KeySlots × DomState × ObjState} (s : State) (val : Word) (h_s : HoldIs qq s) :
    HoldIs qq (State.domReqWrite s val) := by
  unfold State.domReqWrite
  dsimp -failIfUnchanged only
  repeat' with_reducible first | assumption | (intro _) | apply State.domUp_holdIs | apply State.pwrRefuse_holdIs | apply State.domDown_holdIs | apply State.wr_holdIs | apply hold_ite | dsimp only | split

theorem State.inLevel_holdIs {qq : KeySlots × DomState × ObjState} (s : State) (i : Nat) (h_s : HoldIs qq s) :
    HoldIs qq (State.inLevel s i) := by
  unfold State.inLevel
  dsimp -failIfUnchanged only
  repeat' with_reducible first | assumption | apply State.shockSet_holdIs | apply State.regateBoth_holdIs | apply hold_ite | dsimp only | split

theorem execActivityTouch_holdIs {qq : KeySlots × DomState × ObjState} (val : Word) (s : State) (h_s : HoldIs qq s) :
    Out.HoldIs qq (execActivityTouch val s) := by
  unfold execActivityTouch
  dsimp -failIfUnchanged only
  repeat' with_reducible first | assumption | (intro _) | apply State.gated_holdIs | apply State.activity_holdIs | apply hold_next | apply hold_ite3 | apply hold_ite | dsimp only | split

theorem execAvsRequest_holdIs {qq : KeySlots × DomState × ObjState} (val : Word) (nack : Bool) (s : State) (h_s : HoldIs qq s) :
    Out.HoldIs qq (execAvsRequest val nack s) := by
  unfold execAvsRequest
  dsimp -failIfUnchanged only
  repeat' with_reducible first | assumption | (intro _) | apply State.avsWrite_holdIs | apply State.gated_holdIs | apply hold_next | apply hold_ite3 | dsimp only

theorem execAvsSettleDone_holdIs {qq : KeySlots × DomState × ObjState} (read : Option Nat) (s : State) (h_s : HoldIs qq s) :
    Out.HoldIs qq (execAvsSettleDone read s) := by
  unfold execAvsSettleDone
  dsimp -failIfUnchanged only
  repeat' with_reducible first | assumption | (intro _) | apply State.avsFail_holdIs | apply State.pwrIrq_holdIs | apply State.wr_holdIs | apply hold_next | apply hold_ite3 | apply hold_ite | dsimp only | (refine hold_pair (by assumption) ?_) | (refine hold_opt (by assumption) ?_) | (refine hold_opt1 (by assumption) ?_) | split

theorem execBelfrySlotEnd_holdIs {qq : KeySlots × DomState × ObjState} (raw : Nat) (s : State) (h_s : HoldIs qq s) :
    Out.HoldIs qq (execBelfrySlotEnd raw s) := by
  unfold execBelfrySlotEnd
  dsimp -failIfUnchanged only
  repeat' with_reducible first | assumption | (intro _) | apply State.belSlot_holdIs | apply State.setKinds_holdIs | apply State.updPwr_holdIs | apply State.dmaPulse_holdIs | apply State.shutDone_holdIs | apply hold_next | apply hold_ite3 | apply hold_ite | dsimp only | (apply hold_mk; dsimp only; apply hold_un) | split

theorem execCpuMultWrite_holdIs {qq : KeySlots × DomState × ObjState} (val : Word) (s : State) (h_s : HoldIs qq s) :
    Out.HoldIs qq (execCpuMultWrite val s) := by
  unfold execCpuMultWrite
  dsimp -failIfUnchanged only
  repeat' with_reducible first | assumption | (intro _) | apply State.cpuWrite_holdIs | apply State.gated_holdIs | apply hold_next | apply hold_ite3 | dsimp only

theorem execCpuPllLocked_holdIs {qq : KeySlots × DomState × ObjState} (s : State) (h_s : HoldIs qq s) :
    Out.HoldIs qq (execCpuPllLocked s) := by
  unfold execCpuPllLocked
  dsimp -failIfUnchanged only
  repeat' with_reducible first | assumption | apply State.irq_holdIs | apply State.wr_holdIs | apply hold_next | apply hold_ite3 | apply hold_ite | dsimp only | split

theorem execDomainPowerDown_holdIs {qq : KeySlots × DomState × ObjState} (val : Word) (s : State) (h_s : HoldIs qq s) :
    Out.HoldIs qq (execDomainPowerDown val s) := by
  unfold execDomainPowerDown
  dsimp -failIfUnchanged only
  repeat' with_reducible first | assumption | (intro _) | apply State.domReqWrite_holdIs | apply State.gated_holdIs | apply hold_next | apply hold_ite3 | dsimp only

theorem execDomainPowerUp_holdIs {qq : KeySlots × DomState × ObjState} (val : Word) (s : State) (h_s : HoldIs qq s) :
    Out.HoldIs qq (execDomainPowerUp val s) := by
  unfold execDomainPowerUp
  dsimp -failIfUnchanged only
  repeat' with_reducible first | assumption | (intro _) | apply State.domReqWrite_holdIs | apply State.gated_holdIs | apply hold_next | apply hold_ite3 | dsimp only

theorem execIdleTimerExpiry_holdIs {qq : KeySlots × DomState × ObjState} (n : Nat) (s : State) (h_s : HoldIs qq s) :
    Out.HoldIs qq (execIdleTimerExpiry n s) := by
  unfold execIdleTimerExpiry
  dsimp -failIfUnchanged only
  repeat' with_reducible first | assumption | (intro _) | apply State.pwrIrq_holdIs | apply hold_next | apply hold_ite3 | apply hold_ite | dsimp only | split

theorem execInputBucketFull_holdIs {qq : KeySlots × DomState × ObjState} (i : Nat) (s : State) (h_s : HoldIs qq s) :
    Out.HoldIs qq (execInputBucketFull i s) := by
  unfold execInputBucketFull
  dsimp -failIfUnchanged only
  repeat' with_reducible first | assumption | apply State.wr_holdIs | apply hold_next | apply hold_ite3 | apply hold_ite | dsimp only | split

theorem execInputFilterChange_holdIs {qq : KeySlots × DomState × ObjState} (i : Nat) (active : Bool) (s : State) (h_s : HoldIs qq s) :
    Out.HoldIs qq (execInputFilterChange i active s) := by
  unfold execInputFilterChange
  dsimp -failIfUnchanged only
  repeat' with_reducible first | assumption | (intro _) | apply State.inLevel_holdIs | apply State.activation_holdIs | apply State.wb_holdIs | apply hold_next | apply hold_ite3 | apply hold_ite | dsimp only | split

theorem execInputRearm_holdIs {qq : KeySlots × DomState × ObjState} (i : Nat) (s : State) (h_s : HoldIs qq s) :
    Out.HoldIs qq (execInputRearm i s) := by
  unfold execInputRearm
  dsimp -failIfUnchanged only
  repeat' with_reducible first | assumption | apply State.inLevel_holdIs | apply State.wr_holdIs | apply hold_next | apply hold_ite3 | apply hold_ite | dsimp only | split

theorem execInputStuck_holdIs {qq : KeySlots × DomState × ObjState} (i : Nat) (s : State) (h_s : HoldIs qq s) :
    Out.HoldIs qq (execInputStuck i s) := by
  unfold execInputStuck
  dsimp -failIfUnchanged only
  repeat' with_reducible first | assumption | apply State.inLevel_holdIs | apply State.belIrq_holdIs | apply State.hwPost_holdIs | apply State.wr_holdIs | apply hold_next | apply hold_ite3 | apply hold_ite | dsimp only | split

theorem execShutClr_holdIs {qq : KeySlots × DomState × ObjState} (val : Word) (s : State) (h_s : HoldIs qq s) :
    Out.HoldIs qq (execShutClr val s) := by
  unfold execShutClr
  dsimp -failIfUnchanged only
  repeat' with_reducible first | assumption | (intro _) | apply State.belCmd_holdIs | apply State.gated_holdIs | apply hold_next | apply hold_ite3 | dsimp only

theorem execThermalResetRelease_holdIs {qq : KeySlots × DomState × ObjState} (s : State) (h_s : HoldIs qq s) :
    Out.HoldIs qq (execThermalResetRelease s) := by
  unfold execThermalResetRelease
  dsimp -failIfUnchanged only
  repeat' with_reducible first | assumption | (intro _) | apply State.updPwr_holdIs | apply State.wr_holdIs | apply hold_next | apply hold_ite3 | apply hold_ite | dsimp only | (apply hold_mk; dsimp only; apply hold_un) | split

theorem execThermalTrip_holdIs {qq : KeySlots × DomState × ObjState} (s : State) (h_s : HoldIs qq s) :
    Out.HoldIs qq (execThermalTrip s) := by
  unfold execThermalTrip
  dsimp -failIfUnchanged only
  repeat' with_reducible first | assumption | apply State.thermalActions_holdIs | apply State.pwrIrq_holdIs | apply State.hwPost_holdIs | apply State.wr_holdIs | apply hold_next | apply hold_ite3 | apply hold_ite | dsimp only | split

theorem State.captr_holdIs {qq : KeySlots × DomState × ObjState} (s : State) (sp : Spire) (p : Plan) (dest : Nat) (tag : Nat) (h_s : HoldIs qq s) :
    HoldIs qq (State.captr s sp p dest tag) := by
  unfold State.captr
  dsimp -failIfUnchanged only
  repeat' with_reducible first | assumption | (intro _) | apply State.updSpire_holdIs | apply State.updChn_holdIs | dsimp only | (apply hold_mk; dsimp only; apply hold_un)

theorem State.csInc_holdIs {qq : KeySlots × DomState × ObjState} (s : State) (cls : Nat) (h_s : HoldIs qq s) :
    HoldIs qq (State.csInc s cls) := by
  unfold State.csInc
  dsimp -failIfUnchanged only
  repeat' with_reducible first | assumption | apply State.wr_holdIs | apply hold_ite | dsimp only | split

theorem State.sprIrq_holdIs {qq : KeySlots × DomState × ObjState} (s : State) (cls : Nat) (bit : Nat) (h_s : HoldIs qq s) :
    HoldIs qq (State.sprIrq s cls bit) := by
  unfold State.sprIrq
  dsimp -failIfUnchanged only
  repeat' with_reducible first | assumption | apply State.irq_holdIs | dsimp only

theorem State.csWrite_holdIs {qq : KeySlots × DomState × ObjState} (s : State) (cls : Nat) (val : Word) (h_s : HoldIs qq s) :
    HoldIs qq (State.csWrite s cls val) := by
  unfold State.csWrite
  dsimp -failIfUnchanged only
  repeat' with_reducible first | assumption | (intro _) | apply State.sprIrq_holdIs | apply State.csInc_holdIs | apply State.updSpire_holdIs | apply hold_ite | (refine hold_foldl ?_ (fun _ _ _ => ?_)) | (refine hold_foldl1 ?_ (fun _ _ _ => ?_)) | (refine hold_foldl2 ?_ (fun _ _ _ => ?_)) | dsimp only | (apply hold_mk; dsimp only; apply hold_un) | split

theorem State.dropPlan_holdIs {qq : KeySlots × DomState × ObjState} (s : State) (sp : Spire) (h_s : HoldIs qq s) :
    HoldIs qq (State.dropPlan s sp) := by
  unfold State.dropPlan
  dsimp -failIfUnchanged only
  repeat' with_reducible first | assumption | (intro _) | apply State.updTwr_holdIs | apply State.updChn_holdIs | apply hold_ite | dsimp only | (apply hold_mk; dsimp only; apply hold_un) | split

theorem State.emitr_holdIs {qq : KeySlots × DomState × ObjState} (s : State) (sp : Spire) (p : Plan) (src : Nat) (md : Nat) (h_s : HoldIs qq s) :
    HoldIs qq (State.emitr s sp p src md) := by
  unfold State.emitr
  dsimp -failIfUnchanged only
  repeat' with_reducible first | assumption | (intro _) | apply State.lanAssist_holdIs | apply State.updTwr_holdIs | apply State.wr_holdIs | dsimp only | (apply hold_mk; dsimp only; apply hold_un)

theorem State.sprTrace_holdIs {qq : KeySlots × DomState × ObjState} (s : State) (sp : Spire) (kind : Nat) (l : List Byte) (h_s : HoldIs qq s) :
    HoldIs qq (State.sprTrace s sp kind l) := by
  unfold State.sprTrace
  dsimp -failIfUnchanged only
  repeat' with_reducible first | assumption | apply State.trace_holdIs | dsimp only

theorem State.flow_holdIs {qq : KeySlots × DomState × ObjState} (s : State) (sp : Spire) (pc : Nat) (h_s : HoldIs qq s) :
    HoldIs qq (State.flow s sp pc) := by
  unfold State.flow
  dsimp -failIfUnchanged only
  repeat' with_reducible first | assumption | apply State.sprTrace_holdIs | dsimp only

theorem State.sprSurround_holdIs {qq : KeySlots × DomState × ObjState} (s : State) (sp : Spire) (h_s : HoldIs qq s) :
    HoldIs qq (State.sprSurround s sp) := by
  unfold State.sprSurround
  dsimp -failIfUnchanged only
  repeat' with_reducible first | assumption | (intro _) | apply State.dropPlan_holdIs | apply State.dropGates_holdIs | apply State.cmpFlushSeq_holdIs | apply State.cutSector_holdIs | apply State.capCut_holdIs | apply State.updChn_holdIs | apply hold_ite | apply hold_ite1 | (refine hold_foldl ?_ (fun _ _ _ => ?_)) | (refine hold_foldl1 ?_ (fun _ _ _ => ?_)) | (refine hold_foldl2 ?_ (fun _ _ _ => ?_)) | dsimp only | (apply hold_mk; dsimp only; apply hold_un) | split

theorem State.sprLeave_holdIs {qq : KeySlots × DomState × ObjState} (s : State) (sp : Spire) (st : Nat) (h_s : HoldIs qq s) :
    HoldIs qq (State.sprLeave s sp st) := by
  unfold State.sprLeave
  dsimp -failIfUnchanged only
  repeat' with_reducible first | assumption | (intro _) | apply State.sprSurround_holdIs | apply State.updSpire_holdIs | dsimp only | (apply hold_mk; dsimp only; apply hold_un)

theorem State.postRec_holdIs {qq : KeySlots × DomState × ObjState} (s : State) (sp : Spire) (hdr : Word) (status : Nat) (ra : Nat) (rb : Nat) (h_s : HoldIs qq s) :
    HoldIs qq (State.postRec s sp hdr status ra rb) := by
  unfold State.postRec
  dsimp -failIfUnchanged only
  repeat' with_reducible first | assumption | (intro _) | apply State.sprTrace_holdIs | apply State.sprIrq_holdIs | apply State.setWords_holdIs | apply State.updSpire_holdIs | apply State.wr_holdIs | apply hold_ite | dsimp only | (apply hold_mk; dsimp only; apply hold_un) | split

theorem State.machineCheck_holdIs {qq : KeySlots × DomState × ObjState} (s : State) (sp : Spire) (cause : Nat) (h_s : HoldIs qq s) :
    HoldIs qq (State.machineCheck s sp cause) := by
  unfold State.machineCheck
  dsimp -failIfUnchanged only
  repeat' with_reducible first | assumption | (intro _) | apply State.postRec_holdIs | apply State.sprLeave_holdIs | apply State.sprTrace_holdIs | apply State.sprIrq_holdIs | apply State.updSpire_holdIs | apply State.hwPost_holdIs | dsimp only | (refine hold_pair (by assumption) ?_) | (refine hold_opt (by assumption) ?_) | (refine hold_opt1 (by assumption) ?_) | (apply hold_mk; dsimp only; apply hold_un) | split

theorem State.pushTo_holdIs {qq : KeySlots × DomState × ObjState} (s : State) (l : List Spire) (cmd : List Word) (h_s : HoldIs qq s) :
    HoldIs qq (State.pushTo s l cmd).1 := by
  unfold State.pushTo
  dsimp -failIfUnchanged only
  repeat' with_reducible first | assumption | (intro _) | apply State.sprIrq_holdIs | apply State.updSpire_holdIs | apply hold_ite | apply hold_ite1 | (refine hold_foldl ?_ (fun _ _ _ => ?_)) | (refine hold_foldl1 ?_ (fun _ _ _ => ?_)) | (refine hold_foldl2 ?_ (fun _ _ _ => ?_)) | dsimp only | (apply hold_mk; dsimp only; apply hold_un) | split

theorem State.mqPush_holdIs {qq : KeySlots × DomState × ObjState} (s : State) (core : Nat) (words : List Word) (val : Word) (h_s : HoldIs qq s) :
    HoldIs qq (State.mqPush s core words val) := by
  unfold State.mqPush
  dsimp -failIfUnchanged only
  repeat' with_reducible first | assumption | (intro _) | apply State.pushTo_holdIs | apply State.sprIrq_holdIs | apply hold_ite | apply hold_ite1 | dsimp only | (refine hold_pair (by assumption) ?_) | (refine hold_opt (by assumption) ?_) | (refine hold_opt1 (by assumption) ?_) | (apply hold_mk; dsimp only; apply hold_un) | split

theorem State.popTake_holdIs {qq : KeySlots × DomState × ObjState} (s : State) (sp : Spire) (c : List Word) (h_s : HoldIs qq s) :
    HoldIs qq (State.popTake s sp c) := by
  unfold State.popTake
  dsimp -failIfUnchanged only
  repeat' with_reducible first | assumption | (intro _) | apply State.sprTrace_holdIs | apply State.dropPlan_holdIs | apply State.updSpire_holdIs | apply hold_ite | dsimp only | (apply hold_mk; dsimp only; apply hold_un) | split

theorem State.popGo_holdIs {q : KeySlots × DomState × ObjState} (s : State) (sp : Spire) (n : Nat) (h_s : HoldIs q s) : HoldIs q (State.popGo s sp n).1 := by
  induction n generalizing s with
  | zero => exact h_s
  | succ n ih =>
    unfold State.popGo
    split
    · exact h_s
    · dsimp only
      split
      · exact ih _ (by apply State.postRec_holdIs; apply State.popTake_holdIs; exact h_s)
      · exact State.updSpire_holdIs _ _ _ (State.popTake_holdIs _ _ _ h_s)

theorem State.pop_holdIs {qq : KeySlots × DomState × ObjState} (s : State) (sp : Spire) (h_s : HoldIs qq s) :
    HoldIs qq (State.pop s sp).1 := by
  unfold State.pop
  dsimp -failIfUnchanged only
  repeat' with_reducible first | assumption | apply State.popGo_holdIs | dsimp only

theorem State.qPush_holdIs {qq : KeySlots × DomState × ObjState} (s : State) (cls : Nat) (val : Word) (h_s : HoldIs qq s) :
    HoldIs qq (State.qPush s cls val) := by
  unfold State.qPush
  dsimp -failIfUnchanged only
  repeat' with_reducible first | assumption | (intro _) | apply State.pushTo_holdIs | apply State.sprIrq_holdIs | apply State.wr_holdIs | apply hold_ite | apply hold_ite1 | dsimp only | (refine hold_pair (by assumption) ?_) | (refine hold_opt (by assumption) ?_) | (refine hold_opt1 (by assumption) ?_) | split

theorem State.setW_holdIs {qq : KeySlots × DomState × ObjState} (s : State) (sp : Spire) (n : Nat) (v : Word) (h_s : HoldIs qq s) :
    HoldIs qq (State.setW s sp n v) := by
  unfold State.setW
  dsimp -failIfUnchanged only
  repeat' with_reducible first | assumption | (intro _) | apply State.updSpire_holdIs | dsimp only | (apply hold_mk; dsimp only; apply hold_un)

theorem State.sprForce_holdIs {qq : KeySlots × DomState × ObjState} (s : State) (cls : Nat) (val : Word) (h_s : HoldIs qq s) :
    HoldIs qq (State.sprForce s cls val) := by
  unfold State.sprForce
  dsimp -failIfUnchanged only
  repeat' with_reducible first | assumption | apply State.machineCheck_holdIs | apply hold_ite | dsimp only | (refine hold_pair (by assumption) ?_) | (refine hold_opt (by assumption) ?_) | (refine hold_opt1 (by assumption) ?_) | split

theorem State.blockStart_holdIs {qq : KeySlots × DomState × ObjState} (s : State) (b : Nat) (i : Nat) (h_s : HoldIs qq s) :
    HoldIs qq (State.blockStart s b i) := by
  unfold State.blockStart
  dsimp -failIfUnchanged only
  repeat' with_reducible first | assumption | apply State.belStart_holdIs | apply State.cupStart_holdIs | apply State.memStart_holdIs | apply State.evrStart_holdIs | apply State.ethStart_holdIs | apply State.lanStart_holdIs | apply State.cplStart_holdIs | apply State.chnStart_holdIs | apply State.srvStart_holdIs | apply State.spnStart_holdIs | apply State.atbStart_holdIs | apply State.engRefresh_holdIs | apply hold_ite | dsimp only | split

theorem State.toStarting_holdIs {qq : KeySlots × DomState × ObjState} (s : State) (b : Nat) (i : Nat) (h_s : HoldIs qq s) :
    HoldIs qq (State.toStarting s b i) := by
  unfold State.toStarting
  dsimp -failIfUnchanged only
  repeat' with_reducible first | assumption | (intro _) | apply State.blockStart_holdIs | apply State.engRefresh_holdIs | apply State.updFwk_holdIs | apply State.setSt_holdIs | apply hold_ite | dsimp only | (apply hold_mk; dsimp only; apply hold_un) | split

end Sys2Proof.Machine
end

