-- ==== Sys2Proof/Laws/HoldFrame4.lean ====
section
/-! SUPPORT. The key slots, the Dome and the objects are as before: the operations and commands for which this holds, part 4. -/

set_option linter.unusedTactic false
set_option linter.unreachableTactic false
set_option maxRecDepth 8000

namespace Sys2Proof.Machine

theorem State.enable_holdIs {qq : KeySlots × DomState × ObjState} (s : State) (b : Nat) (i : Nat) (h_s : HoldIs qq s) :
    HoldIs qq (State.enable s b i) := by
  unfold State.enable
  dsimp -failIfUnchanged only
  repeat' with_reducible first | assumption | (intro _) | apply State.toStarting_holdIs | apply State.setRpend_holdIs | apply State.setEn_holdIs | apply hold_ite | dsimp only | split

theorem State.startDone_holdIs {qq : KeySlots × DomState × ObjState} (s : State) (b : Nat) (i : Nat) (h_s : HoldIs qq s) :
    HoldIs qq (State.startDone s b i) := by
  unfold State.startDone
  dsimp -failIfUnchanged only
  repeat' with_reducible first | assumption | (intro _) | apply State.flsStartUp_holdIs | apply State.dmaStart_holdIs | apply State.memOn_holdIs | apply State.atbStarted_holdIs | apply State.engRefresh_holdIs | apply State.setSt_holdIs | apply hold_ite | dsimp only | split

theorem State.stopDone_holdIs {qq : KeySlots × DomState × ObjState} (s : State) (b : Nat) (i : Nat) (h_s : HoldIs qq s) :
    HoldIs qq (State.stopDone s b i) := by
  unfold State.stopDone
  dsimp -failIfUnchanged only
  repeat' with_reducible first | assumption | apply State.dmaSettle_holdIs | apply State.memStopEnd_holdIs | apply State.aotIdle_holdIs | apply State.srvShutDone_holdIs | apply State.shutDone_holdIs | apply hold_ite | dsimp only | split

theorem execEnableWrite_holdIs {qq : KeySlots × DomState × ObjState} (blk : Nat) (inst : Nat) (s : State) (h_s : HoldIs qq s) :
    Out.HoldIs qq (execEnableWrite blk inst s) := by
  unfold execEnableWrite
  dsimp -failIfUnchanged only
  repeat' with_reducible first | assumption | (intro _) | apply State.enable_holdIs | apply State.gated_holdIs | apply hold_next | apply hold_ite3 | dsimp only

theorem execRestartCycleEnd_holdIs {qq : KeySlots × DomState × ObjState} (blk : Nat) (inst : Nat) (s : State) (h_s : HoldIs qq s) :
    Out.HoldIs qq (execRestartCycleEnd blk inst s) := by
  unfold execRestartCycleEnd
  dsimp -failIfUnchanged only
  repeat' with_reducible first | assumption | (intro _) | apply State.toStarting_holdIs | apply State.updFwk_holdIs | apply hold_next | apply hold_ite3 | apply hold_ite | dsimp only | (apply hold_mk; dsimp only; apply hold_un) | split

theorem execShutdownComplete_holdIs {qq : KeySlots × DomState × ObjState} (blk : Nat) (inst : Nat) (s : State) (h_s : HoldIs qq s) :
    Out.HoldIs qq (execShutdownComplete blk inst s) := by
  unfold execShutdownComplete
  dsimp -failIfUnchanged only
  repeat' with_reducible first | assumption | apply State.stopDone_holdIs | apply hold_next | apply hold_ite3 | dsimp only

theorem execStartComplete_holdIs {qq : KeySlots × DomState × ObjState} (blk : Nat) (inst : Nat) (s : State) (h_s : HoldIs qq s) :
    Out.HoldIs qq (execStartComplete blk inst s) := by
  unfold execStartComplete
  dsimp -failIfUnchanged only
  repeat' with_reducible first | assumption | apply State.startDone_holdIs | apply hold_next | apply hold_ite3 | dsimp only

theorem State.updSys_holdIs {qq : KeySlots × DomState × ObjState} (s : State) (f : SysState → SysState) (h_s : HoldIs qq s) :
    HoldIs qq (State.updSys s f) := by
  unfold State.updSys
  dsimp -failIfUnchanged only
  repeat' with_reducible first | assumption | (intro _) | dsimp only | (apply hold_mk; dsimp only; apply hold_un)

theorem State.answer_holdIs {qq : KeySlots × DomState × ObjState} (s : State) (cmd : Nat) (status : Nat) (l : List Byte) (h_s : HoldIs qq s) :
    HoldIs qq (State.answer s cmd status l) := by
  unfold State.answer
  dsimp -failIfUnchanged only
  repeat' with_reducible first | assumption | (intro _) | apply State.updSys_holdIs | dsimp only | (apply hold_mk; dsimp only; apply hold_un)

theorem State.sysIrq_holdIs {qq : KeySlots × DomState × ObjState} (s : State) (p : Nat) (bit : Nat) (h_s : HoldIs qq s) :
    HoldIs qq (State.sysIrq s p bit) := by
  unfold State.sysIrq
  dsimp -failIfUnchanged only
  repeat' with_reducible first | assumption | apply State.irq_holdIs | dsimp only

theorem State.bistCmd_holdIs {qq : KeySlots × DomState × ObjState} (s : State) (val : Word) (h_s : HoldIs qq s) :
    HoldIs qq (State.bistCmd s val) := by
  unfold State.bistCmd
  dsimp -failIfUnchanged only
  repeat' with_reducible first | assumption | (intro _) | apply State.sysIrq_holdIs | apply State.updSys_holdIs | apply State.wr_holdIs | apply hold_ite | dsimp only | (apply hold_mk; dsimp only; apply hold_un) | split

theorem State.frame_holdIs {qq : KeySlots × DomState × ObjState} (s : State) (cmd : Nat) (crc : Nat) (payload : List Byte) (lenOk : Bool) (f : Listener → State) (h_s : HoldIs qq s) (h_f : ∀ (x0 : Listener), HoldIs qq (f x0)) :
    HoldIs qq (State.frame s cmd crc payload lenOk f) := by
  unfold State.frame
  dsimp -failIfUnchanged only
  repeat' with_reducible first | assumption | (intro _) | apply State.answer_holdIs | apply h_f | apply hold_ite | dsimp only | (refine hold_pair (by assumption) ?_) | (refine hold_opt (by assumption) ?_) | (refine hold_opt1 (by assumption) ?_) | split

theorem State.hartRun_holdIs {qq : KeySlots × DomState × ObjState} (s : State) (val : Word) (h_s : HoldIs qq s) :
    HoldIs qq (State.hartRun s val) := by
  unfold State.hartRun
  dsimp -failIfUnchanged only
  repeat' with_reducible first | assumption | apply State.wr_holdIs | dsimp only

theorem State.sysRefuse_holdIs {qq : KeySlots × DomState × ObjState} (s : State) (h_s : HoldIs qq s) :
    HoldIs qq (State.sysRefuse s) := by
  unfold State.sysRefuse
  dsimp -failIfUnchanged only
  repeat' with_reducible first | assumption | apply State.sysIrq_holdIs | dsimp only

theorem State.setListener_holdIs {qq : KeySlots × DomState × ObjState} (s : State) (l : Listener) (h_s : HoldIs qq s) :
    HoldIs qq (State.setListener s l) := by
  unfold State.setListener
  dsimp -failIfUnchanged only
  repeat' with_reducible first | assumption | (intro _) | apply State.updSys_holdIs | dsimp only | (apply hold_mk; dsimp only; apply hold_un)

theorem State.tapLoad_holdIs {qq : KeySlots × DomState × ObjState} (s : State) (code : Nat) (level : Nat) (dr : Nat) (balls : Nat) (f : SysState → SysState) (h_s : HoldIs qq s) :
    HoldIs qq (State.tapLoad s code level dr balls f) := by
  unfold State.tapLoad
  dsimp -failIfUnchanged only
  repeat' with_reducible first | assumption | (intro _) | apply State.updSys_holdIs | apply hold_ite | dsimp only | (apply hold_mk; dsimp only; apply hold_un) | split

theorem State.wdtLoad_holdIs {qq : KeySlots × DomState × ObjState} (s : State) (h_s : HoldIs qq s) :
    HoldIs qq (State.wdtLoad s) := by
  unfold State.wdtLoad
  dsimp -failIfUnchanged only
  repeat' with_reducible first | assumption | (intro _) | apply State.updSys_holdIs | dsimp only | (apply hold_mk; dsimp only; apply hold_un)

theorem State.wdtKick_holdIs {qq : KeySlots × DomState × ObjState} (s : State) (val : Word) (h_s : HoldIs qq s) :
    HoldIs qq (State.wdtKick s val) := by
  unfold State.wdtKick
  dsimp -failIfUnchanged only
  repeat' with_reducible first | assumption | apply State.wdtLoad_holdIs | apply State.sysRefuse_holdIs | apply State.wr_holdIs | apply hold_ite | dsimp only | split

theorem State.zeroMem_holdIs {q : KeySlots × DomState × ObjState} (s : State) (lo hi : Nat) (h_s : HoldIs q s) : HoldIs q (State.zeroMem s lo hi) := h_s

theorem State.zeroTraces_holdIs {qq : KeySlots × DomState × ObjState} (s : State) (h_s : HoldIs qq s) :
    HoldIs qq (State.zeroTraces s) := by
  unfold State.zeroTraces
  dsimp -failIfUnchanged only
  repeat' with_reducible first | assumption | dsimp only | (apply hold_mk; dsimp only; apply hold_un)

theorem State.zeroStore_holdIs {qq : KeySlots × DomState × ObjState} (s : State) (k : Nat) (h_s : HoldIs qq s) :
    HoldIs qq (State.zeroStore s k) := by
  unfold State.zeroStore
  dsimp -failIfUnchanged only
  repeat' with_reducible first | assumption | (apply hold_id; assumption) | (intro _) | apply State.zeroTraces_holdIs | apply State.zeroMem_holdIs | apply State.updDma_holdIs | apply State.cupWalk_holdIs | apply State.updAot_holdIs | apply State.updChn_holdIs | apply hold_next | apply hold_ite | apply hold_ite1 | apply hold_ite3 | (refine hold_foldl ?_ (fun _ _ _ => ?_)) | (refine hold_foldl1 ?_ (fun _ _ _ => ?_)) | (refine hold_foldl2 ?_ (fun _ _ _ => ?_)) | (intro _) | dsimp only | (refine hold_pair (by assumption) ?_) | (refine hold_opt (by assumption) ?_) | (refine hold_opt1 (by assumption) ?_) | apply optHoldIs_some | apply optHoldIs_none | apply optHoldIs_ite | (apply hold_mk; dsimp only; apply hold_un) | split

theorem State.zeroStores_holdIs {qq : KeySlots × DomState × ObjState} (s : State) (m : Nat) (h_s : HoldIs qq s) :
    HoldIs qq (State.zeroStores s m) := by
  unfold State.zeroStores
  dsimp -failIfUnchanged only
  repeat' with_reducible first | assumption | (intro _) | apply State.zeroStore_holdIs | apply hold_ite | (refine hold_foldl ?_ (fun _ _ _ => ?_)) | (refine hold_foldl1 ?_ (fun _ _ _ => ?_)) | (refine hold_foldl2 ?_ (fun _ _ _ => ?_)) | dsimp only | split

theorem execBistDone_holdIs {qq : KeySlots × DomState × ObjState} (fails : Nat) (s : State) (h_s : HoldIs qq s) :
    Out.HoldIs qq (execBistDone fails s) := by
  unfold execBistDone
  dsimp -failIfUnchanged only
  repeat' with_reducible first | assumption | (intro _) | apply State.zeroStores_holdIs | apply State.sysIrq_holdIs | apply State.updSys_holdIs | apply State.blockStart_holdIs | apply State.updFwk_holdIs | apply State.wr_holdIs | apply hold_next | apply hold_ite3 | (refine hold_foldl ?_ (fun _ _ _ => ?_)) | (refine hold_foldl1 ?_ (fun _ _ _ => ?_)) | (refine hold_foldl2 ?_ (fun _ _ _ => ?_)) | dsimp only | (refine hold_pair (by assumption) ?_) | (refine hold_opt (by assumption) ?_) | (refine hold_opt1 (by assumption) ?_) | (apply hold_mk; dsimp only; apply hold_un) | split

theorem execBistGo_holdIs {qq : KeySlots × DomState × ObjState} (val : Word) (s : State) (h_s : HoldIs qq s) :
    Out.HoldIs qq (execBistGo val s) := by
  unfold execBistGo
  dsimp -failIfUnchanged only
  repeat' with_reducible first | assumption | (intro _) | apply State.bistCmd_holdIs | apply State.gated_holdIs | apply hold_next | apply hold_ite3 | dsimp only

theorem execBypass_holdIs {qq : KeySlots × DomState × ObjState} (s : State) (h_s : HoldIs qq s) :
    Out.HoldIs qq (execBypass s) := by
  unfold execBypass
  dsimp -failIfUnchanged only
  repeat' with_reducible first | assumption | (apply hold_id; assumption) | apply State.tapLoad_holdIs | apply hold_next | apply hold_ite3 | dsimp only

theorem execClamp_holdIs {qq : KeySlots × DomState × ObjState} (s : State) (h_s : HoldIs qq s) :
    Out.HoldIs qq (execClamp s) := by
  unfold execClamp
  dsimp -failIfUnchanged only
  repeat' with_reducible first | assumption | (apply hold_id; assumption) | apply State.tapLoad_holdIs | apply hold_next | apply hold_ite3 | dsimp only

theorem execDebug_holdIs {qq : KeySlots × DomState × ObjState} (s : State) (h_s : HoldIs qq s) :
    Out.HoldIs qq (execDebug s) := by
  unfold execDebug
  dsimp -failIfUnchanged only
  repeat' with_reducible first | assumption | (apply hold_id; assumption) | apply State.tapLoad_holdIs | apply hold_next | apply hold_ite3 | dsimp only

theorem execExtest_holdIs {qq : KeySlots × DomState × ObjState} (loaded : List Bool) (s : State) (h_s : HoldIs qq s) :
    Out.HoldIs qq (execExtest loaded s) := by
  unfold execExtest
  dsimp -failIfUnchanged only
  repeat' with_reducible first | assumption | (intro _) | apply State.tapLoad_holdIs | apply hold_next | apply hold_ite3 | dsimp only | (apply hold_mk; dsimp only; apply hold_un)

theorem execExtestPulse_holdIs {qq : KeySlots × DomState × ObjState} (loaded : List Bool) (s : State) (h_s : HoldIs qq s) :
    Out.HoldIs qq (execExtestPulse loaded s) := by
  unfold execExtestPulse
  dsimp -failIfUnchanged only
  repeat' with_reducible first | assumption | (intro _) | apply State.tapLoad_holdIs | apply hold_next | apply hold_ite3 | dsimp only | (apply hold_mk; dsimp only; apply hold_un)

theorem execExtestTrain_holdIs {qq : KeySlots × DomState × ObjState} (loaded : List Bool) (s : State) (h_s : HoldIs qq s) :
    Out.HoldIs qq (execExtestTrain loaded s) := by
  unfold execExtestTrain
  dsimp -failIfUnchanged only
  repeat' with_reducible first | assumption | (intro _) | apply State.tapLoad_holdIs | apply hold_next | apply hold_ite3 | dsimp only | (apply hold_mk; dsimp only; apply hold_un)

theorem execHartRun_holdIs {qq : KeySlots × DomState × ObjState} (val : Word) (s : State) (h_s : HoldIs qq s) :
    Out.HoldIs qq (execHartRun val s) := by
  unfold execHartRun
  dsimp -failIfUnchanged only
  repeat' with_reducible first | assumption | (intro _) | apply State.hartRun_holdIs | apply State.gated_holdIs | apply hold_next | apply hold_ite3 | dsimp only

theorem execHighz_holdIs {qq : KeySlots × DomState × ObjState} (s : State) (h_s : HoldIs qq s) :
    Out.HoldIs qq (execHighz s) := by
  unfold execHighz
  dsimp -failIfUnchanged only
  repeat' with_reducible first | assumption | (apply hold_id; assumption) | apply State.tapLoad_holdIs | apply hold_next | apply hold_ite3 | dsimp only

theorem execId_holdIs {qq : KeySlots × DomState × ObjState} (crc : Nat) (payload : List Byte) (s : State) (h_s : HoldIs qq s) :
    Out.HoldIs qq (execId crc payload s) := by
  unfold execId
  dsimp -failIfUnchanged only
  repeat' with_reducible first | assumption | (intro _) | apply State.frame_holdIs | apply State.answer_holdIs | apply hold_next | apply hold_ite3 | dsimp only

theorem execIdcode_holdIs {qq : KeySlots × DomState × ObjState} (s : State) (h_s : HoldIs qq s) :
    Out.HoldIs qq (execIdcode s) := by
  unfold execIdcode
  dsimp -failIfUnchanged only
  repeat' with_reducible first | assumption | (apply hold_id; assumption) | apply State.tapLoad_holdIs | apply hold_next | apply hold_ite3 | dsimp only

theorem execOverflow_holdIs {qq : KeySlots × DomState × ObjState} (s : State) (h_s : HoldIs qq s) :
    Out.HoldIs qq (execOverflow s) := by
  unfold execOverflow
  dsimp -failIfUnchanged only
  repeat' with_reducible first | assumption | (intro _) | apply State.updSys_holdIs | apply State.irq_holdIs | apply State.wr_holdIs | apply hold_next | apply hold_ite3 | apply hold_ite | dsimp only | (apply hold_mk; dsimp only; apply hold_un) | split

theorem execPutanchor_holdIs {qq : KeySlots × DomState × ObjState} (crc : Nat) (payload : List Byte) (s : State) (h_s : HoldIs qq s) :
    Out.HoldIs qq (execPutanchor crc payload s) := by
  unfold execPutanchor
  dsimp -failIfUnchanged only
  repeat' with_reducible first | assumption | (intro _) | apply State.setListener_holdIs | apply State.frame_holdIs | apply State.answer_holdIs | apply hold_next | apply hold_ite3 | apply hold_ite | dsimp only | (apply hold_mk; dsimp only; apply hold_un) | split

theorem execPutcert_holdIs {qq : KeySlots × DomState × ObjState} (crc : Nat) (payload : List Byte) (s : State) (h_s : HoldIs qq s) :
    Out.HoldIs qq (execPutcert crc payload s) := by
  unfold execPutcert
  dsimp -failIfUnchanged only
  repeat' with_reducible first | assumption | (intro _) | apply State.setListener_holdIs | apply State.frame_holdIs | apply State.answer_holdIs | apply hold_next | apply hold_ite3 | apply hold_ite | dsimp only | (apply hold_mk; dsimp only; apply hold_un) | split

theorem execPutident_holdIs {qq : KeySlots × DomState × ObjState} (crc : Nat) (payload : List Byte) (s : State) (h_s : HoldIs qq s) :
    Out.HoldIs qq (execPutident crc payload s) := by
  unfold execPutident
  dsimp -failIfUnchanged only
  repeat' with_reducible first | assumption | (intro _) | apply State.setListener_holdIs | apply State.frame_holdIs | apply State.answer_holdIs | apply hold_next | apply hold_ite3 | apply hold_ite | dsimp only | (apply hold_mk; dsimp only; apply hold_un) | split

theorem execPutkey1_holdIs {qq : KeySlots × DomState × ObjState} (crc : Nat) (payload : List Byte) (s : State) (h_s : HoldIs qq s) :
    Out.HoldIs qq (execPutkey1 crc payload s) := by
  unfold execPutkey1
  dsimp -failIfUnchanged only
  repeat' with_reducible first | assumption | (intro _) | apply State.setListener_holdIs | apply State.frame_holdIs | apply State.answer_holdIs | apply hold_next | apply hold_ite3 | apply hold_ite | dsimp only | (refine hold_pair (by assumption) ?_) | (refine hold_opt (by assumption) ?_) | (refine hold_opt1 (by assumption) ?_) | (apply hold_mk; dsimp only; apply hold_un) | split

theorem execSamplePreload_holdIs {qq : KeySlots × DomState × ObjState} (captured : List Bool) (loaded : List Bool) (s : State) (h_s : HoldIs qq s) :
    Out.HoldIs qq (execSamplePreload captured loaded s) := by
  unfold execSamplePreload
  dsimp -failIfUnchanged only
  repeat' with_reducible first | assumption | (intro _) | apply State.tapLoad_holdIs | apply hold_next | apply hold_ite3 | dsimp only | (apply hold_mk; dsimp only; apply hold_un)

theorem execWdtKick_holdIs {qq : KeySlots × DomState × ObjState} (val : Word) (s : State) (h_s : HoldIs qq s) :
    Out.HoldIs qq (execWdtKick val s) := by
  unfold execWdtKick
  dsimp -failIfUnchanged only
  repeat' with_reducible first | assumption | (intro _) | apply State.wdtKick_holdIs | apply State.gated_holdIs | apply hold_next | apply hold_ite3 | dsimp only

theorem State.mbxSet_holdIs {qq : KeySlots × DomState × ObjState} (s : State) (val : Word) (h_s : HoldIs qq s) :
    HoldIs qq (State.mbxSet s val) := by
  unfold State.mbxSet
  dsimp -failIfUnchanged only
  repeat' with_reducible first | assumption | apply State.wr_holdIs | dsimp only

theorem State.unlatch_holdIs {qq : KeySlots × DomState × ObjState} (s : State) (a : Nat) (h_s : HoldIs qq s) :
    HoldIs qq (State.unlatch s a) := by
  unfold State.unlatch
  dsimp -failIfUnchanged only
  repeat' with_reducible first | assumption | (intro _) | apply State.updFwk_holdIs | dsimp only | (apply hold_mk; dsimp only; apply hold_un)

theorem State.latchAt_holdIs {qq : KeySlots × DomState × ObjState} (s : State) (a : Nat) (h_s : HoldIs qq s) :
    HoldIs qq (State.latchAt s a) := by
  unfold State.latchAt
  dsimp -failIfUnchanged only
  repeat' with_reducible first | assumption | (intro _) | apply State.updFwk_holdIs | dsimp only | (apply hold_mk; dsimp only; apply hold_un)

theorem State.readEffect_holdIs {qq : KeySlots × DomState × ObjState} (s : State) (a : Nat) (h_s : HoldIs qq s) :
    HoldIs qq (State.readEffect s a) := by
  unfold State.readEffect
  dsimp -failIfUnchanged only
  repeat' with_reducible first | assumption | (intro _) | apply State.latchAt_holdIs | apply State.unlatch_holdIs | apply State.csInc_holdIs | apply State.chnCoefInc_holdIs | apply State.coefInc_holdIs | apply State.drawn_holdIs | apply State.wr_holdIs | apply hold_ite | dsimp only | split

theorem State.regRead_holdIs {qq : KeySlots × DomState × ObjState} (s : State) (port : Nat) (a : Nat) (n : Nat) (h_s : HoldIs qq s) :
    HoldIs qq (State.regRead s port a n).1 := by
  unfold State.regRead
  dsimp -failIfUnchanged only
  repeat' with_reducible first | assumption | apply State.readEffect_holdIs | apply hold_ite | apply hold_ite1 | dsimp only | split

theorem wordResp_holdIs {qq : KeySlots × DomState × ObjState} (r : State × Word) (h_r : HoldIs qq r.1) :
    HoldIs qq (wordResp r).1 := by
  unfold wordResp
  dsimp -failIfUnchanged only
  repeat' with_reducible first | assumption | dsimp only | (apply hold_mk; dsimp only; apply hold_un)

theorem State.plicRead_holdIs {qq : KeySlots × DomState × ObjState} (s : State) (off : Nat) (h_s : HoldIs qq s) :
    HoldIs qq (State.plicRead s off).1 := by
  unfold State.plicRead
  dsimp -failIfUnchanged only
  repeat' with_reducible first | assumption | (intro _) | apply State.updFwk_holdIs | apply hold_ite | apply hold_ite1 | (refine hold_foldl ?_ (fun _ _ _ => ?_)) | (refine hold_foldl1 ?_ (fun _ _ _ => ?_)) | (refine hold_foldl2 ?_ (fun _ _ _ => ?_)) | dsimp only | (refine hold_pair (by assumption) ?_) | (refine hold_opt (by assumption) ?_) | (refine hold_opt1 (by assumption) ?_) | (apply hold_mk; dsimp only; apply hold_un) | split

theorem State.plicReadAt_holdIs {qq : KeySlots × DomState × ObjState} (s : State) (a : Nat) (h_s : HoldIs qq s) :
    HoldIs qq (State.plicReadAt s a).1 := by
  unfold State.plicReadAt
  dsimp -failIfUnchanged only
  repeat' with_reducible first | assumption | apply State.plicRead_holdIs | dsimp only

theorem State.ddrReads_holdIs {q : KeySlots × DomState × ObjState} (s : State) (port a k : Nat) (n : Nat) (h_s : HoldIs q s) :
    HoldIs q (State.ddrReads s port a k n).1 := by
  induction n generalizing s a k with
  | zero => exact h_s
  | succ n ih =>
    unfold State.ddrReads
    dsimp only
    split
    · exact State.ddrReadOp_holdIs _ _ _ _ h_s
    · exact ih _ _ _ (State.ddrReadOp_holdIs _ _ _ _ h_s)

theorem State.busRead_holdIs {qq : KeySlots × DomState × ObjState} (s : State) (port : Nat) (a : Nat) (n : Nat) (h_s : HoldIs qq s) :
    HoldIs qq (State.busRead s port a n).1 := by
  unfold State.busRead
  repeat' with_reducible first | assumption | (intro _) | apply State.ddrReads_holdIs | apply State.plicReadAt_holdIs | apply wordResp_holdIs | apply State.regRead_holdIs | apply State.flsReadOp_holdIs | apply State.drawn_holdIs | apply hold_ite | apply hold_ite1 | dsimp only | (apply hold_mk; dsimp only; apply hold_un) | split

theorem State.busWord_holdIs {qq : KeySlots × DomState × ObjState} (s : State) (port : Nat) (a : Nat) (h_s : HoldIs qq s) :
    HoldIs qq (State.busWord s port a).1 := by
  unfold State.busWord
  dsimp -failIfUnchanged only
  repeat' with_reducible first | assumption | (intro _) | apply State.busRead_holdIs | dsimp only

theorem State.keyWrite_holdIs {qq : KeySlots × DomState × ObjState} (s : State) (b : Nat) (i : Nat) (p : Nat) (val : Word) (h_s : HoldIs qq s) :
    HoldIs qq (State.keyWrite s b i p val) := by
  unfold State.keyWrite
  dsimp -failIfUnchanged only
  repeat' with_reducible first | assumption | (intro _) | apply State.irq_holdIs | apply State.updFwk_holdIs | apply hold_ite | dsimp only | (apply hold_mk; dsimp only; apply hold_un) | split

theorem State.intForce_holdIs {qq : KeySlots × DomState × ObjState} (s : State) (base : Nat) (val : Word) (h_s : HoldIs qq s) :
    HoldIs qq (State.intForce s base val) := by
  unfold State.intForce
  dsimp -failIfUnchanged only
  repeat' with_reducible first | assumption | apply State.setReg_holdIs | dsimp only

theorem State.respond_holdIs {qq : KeySlots × DomState × ObjState} (s : State) (r : Resp) (h_s : HoldIs qq s) :
    HoldIs qq (State.respond s r) := by
  unfold State.respond
  dsimp -failIfUnchanged only
  repeat' with_reducible first | assumption | dsimp only | (apply hold_mk; dsimp only; apply hold_un)

theorem State.fillRead_holdIs {qq : KeySlots × DomState × ObjState} (s : State) (x : CFill) (h_s : HoldIs qq s) :
    HoldIs qq (State.fillRead s x).1 := by
  unfold State.fillRead
  dsimp -failIfUnchanged only
  repeat' with_reducible first | assumption | apply State.busRead_holdIs | dsimp only | (refine hold_pair (by assumption) ?_) | (refine hold_opt (by assumption) ?_) | (refine hold_opt1 (by assumption) ?_) | split

theorem State.fillsFirst_holdIs {qq : KeySlots × DomState × ObjState} (s : State) (port : Nat) (h_s : HoldIs qq s) :
    HoldIs qq (State.fillsFirst s port) := by
  unfold State.fillsFirst
  dsimp -failIfUnchanged only
  repeat' with_reducible first | assumption | (intro _) | apply State.fillRead_holdIs | apply State.updCup_holdIs | apply hold_ite | apply hold_ite1 | (refine hold_foldl ?_ (fun _ _ _ => ?_)) | (refine hold_foldl1 ?_ (fun _ _ _ => ?_)) | (refine hold_foldl2 ?_ (fun _ _ _ => ?_)) | dsimp only | (apply hold_mk; dsimp only; apply hold_un) | split

theorem State.coreRead_holdIs {qq : KeySlots × DomState × ObjState} (s : State) (core : Nat) (a : Nat) (n : Nat) (perr : Bool) (h_s : HoldIs qq s) :
    HoldIs qq (State.coreRead s core a n perr) := by
  unfold State.coreRead
  dsimp -failIfUnchanged only
  repeat' with_reducible first | assumption | (intro _) | apply State.fillsFirst_holdIs | apply State.respond_holdIs | apply State.busRead_holdIs | apply State.l1Fill_holdIs | apply State.cupLookup_holdIs | apply hold_ite | apply hold_ite1 | dsimp only | (refine hold_pair (by assumption) ?_) | (refine hold_opt (by assumption) ?_) | (refine hold_opt1 (by assumption) ?_) | (apply hold_mk; dsimp only; apply hold_un) | split

theorem State.descRead_holdIs {qq : KeySlots × DomState × ObjState} (s : State) (c : Nat) (h_s : HoldIs qq s) :
    HoldIs qq (State.descRead s c).1 := by
  unfold State.descRead
  dsimp -failIfUnchanged only
  repeat' with_reducible first | assumption | apply State.busRead_holdIs | dsimp only | (refine hold_pair (by assumption) ?_) | (refine hold_opt (by assumption) ?_) | (refine hold_opt1 (by assumption) ?_) | split

theorem State.dmaError_holdIs {qq : KeySlots × DomState × ObjState} (s : State) (c : Nat) (h_s : HoldIs qq s) :
    HoldIs qq (State.dmaError s c) := by
  unfold State.dmaError
  dsimp -failIfUnchanged only
  repeat' with_reducible first | assumption | (intro _) | apply State.dmaIrq_holdIs | apply State.setCst_holdIs | apply State.updCh_holdIs | apply State.wr_holdIs | dsimp only

theorem State.dmaGoOn_holdIs {qq : KeySlots × DomState × ObjState} (s : State) (c : Nat) (l : List Word) (h_s : HoldIs qq s) :
    HoldIs qq (State.dmaGoOn s c l) := by
  unfold State.dmaGoOn
  dsimp -failIfUnchanged only
  repeat' with_reducible first | assumption | apply State.setDescAddr_holdIs | apply State.dmaSettle_holdIs | apply State.dmaFetch_holdIs | dsimp only

theorem State.dmaHalf_holdIs {qq : KeySlots × DomState × ObjState} (s : State) (c : Nat) (h_s : HoldIs qq s) :
    HoldIs qq (State.dmaHalf s c) := by
  unfold State.dmaHalf
  dsimp -failIfUnchanged only
  repeat' with_reducible first | assumption | (intro _) | apply State.updCh_holdIs | apply State.wr_holdIs | apply hold_ite | dsimp only | (apply hold_mk; dsimp only; apply hold_un) | split

theorem State.dmaNext_holdIs {qq : KeySlots × DomState × ObjState} (s : State) (c : Nat) (h_s : HoldIs qq s) :
    HoldIs qq (State.dmaNext s c) := by
  unfold State.dmaNext
  dsimp -failIfUnchanged only
  repeat' with_reducible first | assumption | apply State.dmaSettle_holdIs | apply State.dmaEnd_holdIs | apply State.parkCheck_holdIs | dsimp only

theorem execCupolaFillDone_holdIs {qq : KeySlots × DomState × ObjState} (line : Nat) (s : State) (h_s : HoldIs qq s) :
    Out.HoldIs qq (execCupolaFillDone line s) := by
  unfold execCupolaFillDone
  dsimp -failIfUnchanged only
  repeat' with_reducible first | assumption | (intro _) | apply State.fillRead_holdIs | apply State.respond_holdIs | apply State.l1Fill_holdIs | apply State.fillReturn_holdIs | apply hold_next | apply hold_ite3 | apply hold_ite | apply hold_ite1 | dsimp only | (refine hold_pair (by assumption) ?_) | (refine hold_opt (by assumption) ?_) | (refine hold_opt1 (by assumption) ?_) | split

theorem execCupolaRead_holdIs {qq : KeySlots × DomState × ObjState} (core : Nat) (addr : Nat) (n : Nat) (perr : Bool) (s : State) (h_s : HoldIs qq s) :
    Out.HoldIs qq (execCupolaRead core addr n perr s) := by
  unfold execCupolaRead
  dsimp -failIfUnchanged only
  repeat' with_reducible first | assumption | apply State.coreRead_holdIs | apply hold_next | apply hold_ite3 | apply hold_ite | dsimp only | split

theorem execDescFetched_holdIs {qq : KeySlots × DomState × ObjState} (c : Nat) (s : State) (h_s : HoldIs qq s) :
    Out.HoldIs qq (execDescFetched c s) := by
  unfold execDescFetched
  dsimp -failIfUnchanged only
  repeat' with_reducible first | assumption | (intro _) | apply State.dmaNext_holdIs | apply State.dmaError_holdIs | apply State.descRead_holdIs | apply State.dmaSettle_holdIs | apply State.setCst_holdIs | apply State.updCh_holdIs | apply hold_next | apply hold_ite3 | apply hold_ite | apply hold_ite1 | dsimp only | (apply hold_mk; dsimp only; apply hold_un) | split

theorem execDescRereadDone_holdIs {qq : KeySlots × DomState × ObjState} (c : Nat) (s : State) (h_s : HoldIs qq s) :
    Out.HoldIs qq (execDescRereadDone c s) := by
  unfold execDescRereadDone
  dsimp -failIfUnchanged only
  repeat' with_reducible first | assumption | (intro _) | apply State.dmaGoOn_holdIs | apply State.dmaError_holdIs | apply State.descRead_holdIs | apply State.dmaSettle_holdIs | apply State.setCst_holdIs | apply State.updCh_holdIs | apply State.wr_holdIs | apply hold_next | apply hold_ite3 | apply hold_ite | apply hold_ite1 | dsimp only | (apply hold_mk; dsimp only; apply hold_un) | split

theorem execDmaWriteDone_holdIs {qq : KeySlots × DomState × ObjState} (c : Nat) (s : State) (h_s : HoldIs qq s) :
    Out.HoldIs qq (execDmaWriteDone c s) := by
  unfold execDmaWriteDone
  dsimp -failIfUnchanged only
  repeat' with_reducible first | assumption | (intro _) | apply State.dmaNext_holdIs | apply State.dmaHalf_holdIs | apply State.updCh_holdIs | apply hold_next | apply hold_ite3 | apply hold_ite | dsimp only | (refine hold_pair (by assumption) ?_) | (refine hold_opt (by assumption) ?_) | (refine hold_opt1 (by assumption) ?_) | (apply hold_mk; dsimp only; apply hold_un) | split

theorem execPrefetchFill_holdIs {qq : KeySlots × DomState × ObjState} (line : Nat) (s : State) (h_s : HoldIs qq s) :
    Out.HoldIs qq (execPrefetchFill line s) := by
  unfold execPrefetchFill
  dsimp -failIfUnchanged only
  repeat' with_reducible first | assumption | (intro _) | apply State.fillRead_holdIs | apply State.fillReturn_holdIs | apply hold_next | apply hold_ite3 | apply hold_ite | apply hold_ite1 | dsimp only | (refine hold_pair (by assumption) ?_) | (refine hold_opt (by assumption) ?_) | (refine hold_opt1 (by assumption) ?_) | split

theorem State.setPc_holdIs {qq : KeySlots × DomState × ObjState} (s : State) (sp : Spire) (n : Nat) (h_s : HoldIs qq s) :
    HoldIs qq (State.setPc s sp n) := by
  unfold State.setPc
  dsimp -failIfUnchanged only
  repeat' with_reducible first | assumption | (intro _) | apply State.updSpire_holdIs | dsimp only | (apply hold_mk; dsimp only; apply hold_un)

theorem State.adv_holdIs {qq : KeySlots × DomState × ObjState} (s : State) (sp : Spire) (h_s : HoldIs qq s) :
    HoldIs qq (State.adv s sp) := by
  unfold State.adv
  dsimp -failIfUnchanged only
  repeat' with_reducible first | assumption | apply State.setPc_holdIs | dsimp only

theorem State.aluDo_holdIs {qq : KeySlots × DomState × ObjState} (s : State) (sp : Spire) (fn : Nat) (rd : Nat) (a : Nat) (b : Nat) (h_s : HoldIs qq s) :
    HoldIs qq (State.aluDo s sp fn rd a b) := by
  unfold State.aluDo
  dsimp -failIfUnchanged only
  repeat' with_reducible first | assumption | (intro _) | apply State.adv_holdIs | apply State.setW_holdIs | apply State.updSpire_holdIs | apply hold_ite | apply hold_ite1 | dsimp only | (apply hold_mk; dsimp only; apply hold_un) | split

theorem State.armDo_holdIs {qq : KeySlots × DomState × ObjState} (s : State) (sp : Spire) (c : Nat) (tgt : Nat) (act : Nat) (rep : Nat) (epoch : Nat) (h_s : HoldIs qq s) :
    HoldIs qq (State.armDo s sp c tgt act rep epoch).1 := by
  unfold State.armDo
  dsimp -failIfUnchanged only
  repeat' with_reducible first | assumption | (intro _) | apply State.cmpCtlStore_holdIs | apply State.cmpArm_holdIs | apply State.wr_holdIs | apply hold_ite | apply hold_ite1 | dsimp only | split

theorem State.busCheck_holdIs {qq : KeySlots × DomState × ObjState} (s : State) (sp : Spire) (pc : Nat) (h_s : HoldIs qq s) :
    HoldIs qq (State.busCheck s sp pc) := by
  unfold State.busCheck
  dsimp -failIfUnchanged only
  repeat' with_reducible first | assumption | apply State.setPc_holdIs | apply State.machineCheck_holdIs | dsimp only

theorem State.clsEnd_holdIs {qq : KeySlots × DomState × ObjState} (s : State) (sp : Spire) (refused : Bool) (h_s : HoldIs qq s) :
    HoldIs qq (State.clsEnd s sp refused) := by
  unfold State.clsEnd
  dsimp -failIfUnchanged only
  repeat' with_reducible first | assumption | (intro _) | apply State.adv_holdIs | apply State.updSpire_holdIs | dsimp only | (apply hold_mk; dsimp only; apply hold_un)

theorem State.clsRes_holdIs {qq : KeySlots × DomState × ObjState} (s : State) (sp : Spire) (rd : Nat) (v : Option Nat) (h_s : HoldIs qq s) :
    HoldIs qq (State.clsRes s sp rd v) := by
  unfold State.clsRes
  dsimp -failIfUnchanged only
  repeat' with_reducible first | assumption | apply State.clsEnd_holdIs | apply State.setW_holdIs | dsimp only | (refine hold_pair (by assumption) ?_) | (refine hold_opt (by assumption) ?_) | (refine hold_opt1 (by assumption) ?_) | split

theorem State.fetchDo_holdIs {qq : KeySlots × DomState × ObjState} (s : State) (sp : Spire) (f : State → State) (h_s : HoldIs qq s) (h_f : ∀ (x0 : State), HoldIs qq x0 → HoldIs qq (f x0)) :
    HoldIs qq (State.fetchDo s sp f) := by
  unfold State.fetchDo
  dsimp -failIfUnchanged only
  repeat' with_reducible first | assumption | (intro _) | apply State.machineCheck_holdIs | apply h_f | apply hold_ite | dsimp only | split

theorem State.opALU_holdIs {qq : KeySlots × DomState × ObjState} (s : State) (sp : Spire) (w : Nat) (h_s : HoldIs qq s) :
    HoldIs qq (State.opALU s sp w) := by
  unfold State.opALU
  dsimp -failIfUnchanged only
  repeat' with_reducible first | assumption | apply State.aluDo_holdIs | dsimp only

theorem State.opALUI_holdIs {qq : KeySlots × DomState × ObjState} (s : State) (sp : Spire) (w : Nat) (h_s : HoldIs qq s) :
    HoldIs qq (State.opALUI s sp w) := by
  unfold State.opALUI
  dsimp -failIfUnchanged only
  repeat' with_reducible first | assumption | apply State.aluDo_holdIs | dsimp only

theorem State.opLDI_holdIs {qq : KeySlots × DomState × ObjState} (s : State) (sp : Spire) (w : Nat) (h_s : HoldIs qq s) :
    HoldIs qq (State.opLDI s sp w) := by
  unfold State.opLDI
  dsimp -failIfUnchanged only
  repeat' with_reducible first | assumption | apply State.adv_holdIs | apply State.setW_holdIs | dsimp only

theorem State.opLUI_holdIs {qq : KeySlots × DomState × ObjState} (s : State) (sp : Spire) (w : Nat) (h_s : HoldIs qq s) :
    HoldIs qq (State.opLUI s sp w) := by
  unfold State.opLUI
  dsimp -failIfUnchanged only
  repeat' with_reducible first | assumption | apply State.adv_holdIs | apply State.setW_holdIs | dsimp only

theorem State.jump_holdIs {qq : KeySlots × DomState × ObjState} (s : State) (sp : Spire) (n : Nat) (h_s : HoldIs qq s) :
    HoldIs qq (State.jump s sp n) := by
  unfold State.jump
  dsimp -failIfUnchanged only
  repeat' with_reducible first | assumption | apply State.setPc_holdIs | apply State.flow_holdIs | dsimp only

theorem State.opBR_holdIs {qq : KeySlots × DomState × ObjState} (s : State) (sp : Spire) (w : Nat) (h_s : HoldIs qq s) :
    HoldIs qq (State.opBR s sp w) := by
  unfold State.opBR
  dsimp -failIfUnchanged only
  repeat' with_reducible first | assumption | (intro _) | apply State.jump_holdIs | apply State.adv_holdIs | apply State.updSpire_holdIs | apply hold_ite | dsimp only | split

theorem State.opCBR_holdIs {qq : KeySlots × DomState × ObjState} (s : State) (sp : Spire) (w : Nat) (h_s : HoldIs qq s) :
    HoldIs qq (State.opCBR s sp w) := by
  unfold State.opCBR
  dsimp -failIfUnchanged only
  repeat' with_reducible first | assumption | apply State.jump_holdIs | apply State.adv_holdIs | apply hold_ite | dsimp only | split

theorem State.opCALL_holdIs {qq : KeySlots × DomState × ObjState} (s : State) (sp : Spire) (w : Nat) (h_s : HoldIs qq s) :
    HoldIs qq (State.opCALL s sp w) := by
  unfold State.opCALL
  dsimp -failIfUnchanged only
  repeat' with_reducible first | assumption | (intro _) | apply State.jump_holdIs | apply State.machineCheck_holdIs | apply State.updSpire_holdIs | apply hold_ite | dsimp only | (apply hold_mk; dsimp only; apply hold_un) | split

theorem State.opNOP_holdIs {qq : KeySlots × DomState × ObjState} (s : State) (sp : Spire) (_w : Nat) (h_s : HoldIs qq s) :
    HoldIs qq (State.opNOP s sp _w) := by
  unfold State.opNOP
  dsimp -failIfUnchanged only
  repeat' with_reducible first | assumption | apply State.adv_holdIs | dsimp only

theorem State.opRET_holdIs {qq : KeySlots × DomState × ObjState} (s : State) (sp : Spire) (_w : Nat) (h_s : HoldIs qq s) :
    HoldIs qq (State.opRET s sp _w) := by
  unfold State.opRET
  dsimp -failIfUnchanged only
  repeat' with_reducible first | assumption | (intro _) | apply State.jump_holdIs | apply State.machineCheck_holdIs | apply State.updSpire_holdIs | dsimp only | (refine hold_pair (by assumption) ?_) | (refine hold_opt (by assumption) ?_) | (refine hold_opt1 (by assumption) ?_) | (apply hold_mk; dsimp only; apply hold_un) | split

theorem State.opHALT_holdIs {qq : KeySlots × DomState × ObjState} (s : State) (sp : Spire) (_w : Nat) (h_s : HoldIs qq s) :
    HoldIs qq (State.opHALT s sp _w) := by
  unfold State.opHALT
  dsimp -failIfUnchanged only
  repeat' with_reducible first | assumption | apply State.adv_holdIs | apply State.sprLeave_holdIs | dsimp only

theorem State.opFENCE_holdIs {qq : KeySlots × DomState × ObjState} (s : State) (sp : Spire) (_w : Nat) (h_s : HoldIs qq s) :
    HoldIs qq (State.opFENCE s sp _w) := by
  unfold State.opFENCE
  dsimp -failIfUnchanged only
  repeat' with_reducible first | assumption | apply State.adv_holdIs | dsimp only

theorem State.opLD_holdIs {qq : KeySlots × DomState × ObjState} (s : State) (sp : Spire) (w : Nat) (h_s : HoldIs qq s) :
    HoldIs qq (State.opLD s sp w) := by
  unfold State.opLD
  dsimp -failIfUnchanged only
  repeat' with_reducible first | assumption | (intro _) | apply State.busCheck_holdIs | apply State.adv_holdIs | apply State.busWord_holdIs | apply State.setW_holdIs | apply hold_ite | apply hold_ite1 | dsimp only | split

theorem State.opGETANG_holdIs {qq : KeySlots × DomState × ObjState} (s : State) (sp : Spire) (w : Nat) (h_s : HoldIs qq s) :
    HoldIs qq (State.opGETANG s sp w) := by
  unfold State.opGETANG
  dsimp -failIfUnchanged only
  repeat' with_reducible first | assumption | (intro _) | apply State.adv_holdIs | apply State.setW_holdIs | apply State.updSpire_holdIs | dsimp only | (apply hold_mk; dsimp only; apply hold_un)

theorem State.opARM_holdIs {qq : KeySlots × DomState × ObjState} (s : State) (sp : Spire) (w : Nat) (h_s : HoldIs qq s) :
    HoldIs qq (State.opARM s sp w) := by
  unfold State.opARM
  dsimp -failIfUnchanged only
  repeat' with_reducible first | assumption | (intro _) | apply State.clsEnd_holdIs | apply State.armDo_holdIs | dsimp only

theorem State.tryWait_holdIs {qq : KeySlots × DomState × ObjState} (s : State) (sp : Spire) (x : SprWait) (h_s : HoldIs qq s) :
    OptHoldIs qq (State.tryWait s sp x) := by
  unfold State.tryWait
  dsimp -failIfUnchanged only
  repeat' with_reducible first | assumption | (intro _) | apply State.clsEnd_holdIs | apply State.adv_holdIs | apply State.setW_holdIs | apply State.pop_holdIs | apply State.updSpire_holdIs | apply hold_ite | apply hold_ite1 | dsimp only | (refine hold_pair (by assumption) ?_) | (refine hold_opt (by assumption) ?_) | (refine hold_opt1 (by assumption) ?_) | apply optHoldIs_some | apply optHoldIs_none | apply optHoldIs_ite | (apply hold_mk; dsimp only; apply hold_un) | split

theorem State.syncReach_holdIs {qq : KeySlots × DomState × ObjState} (s : State) (sp : Spire) (h_s : HoldIs qq s) :
    HoldIs qq (State.syncReach s sp) := by
  unfold State.syncReach
  dsimp -failIfUnchanged only
  repeat' with_reducible first | assumption | (intro _) | apply State.updSpire_holdIs | apply hold_ite | (refine hold_foldl ?_ (fun _ _ _ => ?_)) | (refine hold_foldl1 ?_ (fun _ _ _ => ?_)) | (refine hold_foldl2 ?_ (fun _ _ _ => ?_)) | dsimp only | (apply hold_mk; dsimp only; apply hold_un) | split

theorem State.waitSide_holdIs {qq : KeySlots × DomState × ObjState} (s : State) (sp : Spire) (x : SprWait) (h_s : HoldIs qq s) :
    HoldIs qq (State.waitSide s sp x) := by
  unfold State.waitSide
  dsimp -failIfUnchanged only
  repeat' with_reducible first | assumption | apply State.syncReach_holdIs | apply State.pop_holdIs | dsimp only | (refine hold_pair (by assumption) ?_) | (refine hold_opt (by assumption) ?_) | (refine hold_opt1 (by assumption) ?_) | split

theorem State.waitOn_holdIs {qq : KeySlots × DomState × ObjState} (s : State) (sp : Spire) (x : SprWait) (h_s : HoldIs qq s) :
    HoldIs qq (State.waitOn s sp x) := by
  unfold State.waitOn
  dsimp -failIfUnchanged only
  repeat' with_reducible first | assumption | (apply hold_id; assumption) | (intro _) | apply State.waitSide_holdIs | apply State.tryWait_holdIs | apply State.updSpire_holdIs | apply hold_next | apply hold_ite | apply hold_ite1 | apply hold_ite3 | (refine hold_foldl ?_ (fun _ _ _ => ?_)) | (refine hold_foldl1 ?_ (fun _ _ _ => ?_)) | (refine hold_foldl2 ?_ (fun _ _ _ => ?_)) | (intro _) | dsimp only | (refine hold_pair (by assumption) ?_) | (refine hold_opt (by assumption) ?_) | (refine hold_opt1 (by assumption) ?_) | apply optHoldIs_some | apply optHoldIs_none | apply optHoldIs_ite | (apply hold_mk; dsimp only; apply hold_un) | split

theorem State.opWAITC_holdIs {qq : KeySlots × DomState × ObjState} (s : State) (sp : Spire) (w : Nat) (h_s : HoldIs qq s) :
    HoldIs qq (State.opWAITC s sp w) := by
  unfold State.opWAITC
  dsimp -failIfUnchanged only
  repeat' with_reducible first | assumption | apply State.waitOn_holdIs | dsimp only

theorem State.opDISARM_holdIs {qq : KeySlots × DomState × ObjState} (s : State) (sp : Spire) (w : Nat) (h_s : HoldIs qq s) :
    HoldIs qq (State.opDISARM s sp w) := by
  unfold State.opDISARM
  dsimp -failIfUnchanged only
  repeat' with_reducible first | assumption | (intro _) | apply State.adv_holdIs | apply State.cmpDisarm_holdIs | dsimp only

theorem State.opLOADZ_holdIs {qq : KeySlots × DomState × ObjState} (s : State) (sp : Spire) (w : Nat) (h_s : HoldIs qq s) :
    HoldIs qq (State.opLOADZ s sp w) := by
  unfold State.opLOADZ
  dsimp -failIfUnchanged only
  repeat' with_reducible first | assumption | (intro _) | apply State.clsEnd_holdIs | apply State.updSpire_holdIs | dsimp only | (refine hold_pair (by assumption) ?_) | (refine hold_opt (by assumption) ?_) | (refine hold_opt1 (by assumption) ?_) | (apply hold_mk; dsimp only; apply hold_un) | split

theorem State.opANCHOR_holdIs {qq : KeySlots × DomState × ObjState} (s : State) (sp : Spire) (w : Nat) (h_s : HoldIs qq s) :
    HoldIs qq (State.opANCHOR s sp w) := by
  unfold State.opANCHOR
  dsimp -failIfUnchanged only
  repeat' with_reducible first | assumption | (intro _) | apply State.clsEnd_holdIs | apply State.updSpire_holdIs | dsimp only | (apply hold_mk; dsimp only; apply hold_un)

theorem State.planDo_holdIs {qq : KeySlots × DomState × ObjState} (s : State) (sp : Spire) (write : Bool) (rd : Nat) (ra : Nat) (rb : Nat) (h_s : HoldIs qq s) :
    HoldIs qq (State.planDo s sp write rd ra rb) := by
  unfold State.planDo
  dsimp -failIfUnchanged only
  repeat' with_reducible first | assumption | (intro _) | apply State.clsRes_holdIs | apply State.clsEnd_holdIs | apply State.updSpire_holdIs | dsimp only | (refine hold_pair (by assumption) ?_) | (refine hold_opt (by assumption) ?_) | (refine hold_opt1 (by assumption) ?_) | (apply hold_mk; dsimp only; apply hold_un) | split

theorem State.opRPLAN_holdIs {qq : KeySlots × DomState × ObjState} (s : State) (sp : Spire) (w : Nat) (h_s : HoldIs qq s) :
    HoldIs qq (State.opRPLAN s sp w) := by
  unfold State.opRPLAN
  dsimp -failIfUnchanged only
  repeat' with_reducible first | assumption | apply State.planDo_holdIs | dsimp only

theorem State.opWPLAN_holdIs {qq : KeySlots × DomState × ObjState} (s : State) (sp : Spire) (w : Nat) (h_s : HoldIs qq s) :
    HoldIs qq (State.opWPLAN s sp w) := by
  unfold State.opWPLAN
  dsimp -failIfUnchanged only
  repeat' with_reducible first | assumption | apply State.planDo_holdIs | dsimp only

theorem State.opWGET_holdIs {qq : KeySlots × DomState × ObjState} (s : State) (sp : Spire) (w : Nat) (h_s : HoldIs qq s) :
    HoldIs qq (State.opWGET s sp w) := by
  unfold State.opWGET
  dsimp -failIfUnchanged only
  repeat' with_reducible first | assumption | apply State.clsRes_holdIs | dsimp only

theorem State.opCAPTR_holdIs {qq : KeySlots × DomState × ObjState} (s : State) (sp : Spire) (w : Nat) (h_s : HoldIs qq s) :
    HoldIs qq (State.opCAPTR s sp w) := by
  unfold State.opCAPTR
  dsimp -failIfUnchanged only
  repeat' with_reducible first | assumption | apply State.clsEnd_holdIs | apply State.captr_holdIs | apply hold_ite | dsimp only | (refine hold_pair (by assumption) ?_) | (refine hold_opt (by assumption) ?_) | (refine hold_opt1 (by assumption) ?_) | split

theorem State.opOUTC_holdIs {qq : KeySlots × DomState × ObjState} (s : State) (sp : Spire) (w : Nat) (h_s : HoldIs qq s) :
    HoldIs qq (State.opOUTC s sp w) := by
  unfold State.opOUTC
  dsimp -failIfUnchanged only
  repeat' with_reducible first | assumption | apply State.waitOn_holdIs | dsimp only

theorem State.opEMITR_holdIs {qq : KeySlots × DomState × ObjState} (s : State) (sp : Spire) (w : Nat) (h_s : HoldIs qq s) :
    HoldIs qq (State.opEMITR s sp w) := by
  unfold State.opEMITR
  dsimp -failIfUnchanged only
  repeat' with_reducible first | assumption | apply State.clsEnd_holdIs | apply State.emitr_holdIs | apply hold_ite | dsimp only | (refine hold_pair (by assumption) ?_) | (refine hold_opt (by assumption) ?_) | (refine hold_opt1 (by assumption) ?_) | split

theorem State.opSYNCP_holdIs {qq : KeySlots × DomState × ObjState} (s : State) (sp : Spire) (_w : Nat) (h_s : HoldIs qq s) :
    HoldIs qq (State.opSYNCP s sp _w) := by
  unfold State.opSYNCP
  dsimp -failIfUnchanged only
  repeat' with_reducible first | assumption | apply State.waitOn_holdIs | dsimp only

theorem State.moverPush_holdIs {qq : KeySlots × DomState × ObjState} (s : State) (sp : Spire) (mask : Nat) (cmd : List Word) (h_s : HoldIs qq s) :
    HoldIs qq (State.moverPush s sp mask cmd).1 := by
  unfold State.moverPush
  dsimp -failIfUnchanged only
  repeat' with_reducible first | assumption | (intro _) | apply State.pushTo_holdIs | apply State.sprIrq_holdIs | apply hold_ite | apply hold_ite1 | dsimp only | split

theorem State.opPUSH_holdIs {qq : KeySlots × DomState × ObjState} (s : State) (sp : Spire) (w : Nat) (h_s : HoldIs qq s) :
    HoldIs qq (State.opPUSH s sp w) := by
  unfold State.opPUSH
  dsimp -failIfUnchanged only
  repeat' with_reducible first | assumption | (intro _) | apply State.moverPush_holdIs | apply State.clsEnd_holdIs | apply State.busCheck_holdIs | apply State.busRead_holdIs | apply hold_ite | apply hold_ite1 | dsimp only | split

theorem State.intIssue_holdIs {qq : KeySlots × DomState × ObjState} (s : State) (sp : Spire) (fn : Nat) (ra : Nat) (rb : Nat) (h_s : HoldIs qq s) :
    HoldIs qq (State.intIssue s sp fn ra rb).1 := by
  unfold State.intIssue
  dsimp -failIfUnchanged only
  repeat' with_reducible first | assumption | (intro _) | apply State.updSpire_holdIs | apply State.wr_holdIs | apply hold_ite | apply hold_ite1 | dsimp only | (apply hold_mk; dsimp only; apply hold_un) | split

theorem State.opInt_holdIs {qq : KeySlots × DomState × ObjState} (s : State) (sp : Spire) (fn : Nat) (w : Nat) (h_s : HoldIs qq s) :
    HoldIs qq (State.opInt s sp fn w) := by
  unfold State.opInt
  dsimp -failIfUnchanged only
  repeat' with_reducible first | assumption | (intro _) | apply State.intIssue_holdIs | apply State.clsEnd_holdIs | dsimp only

theorem State.opHINIT_holdIs {qq : KeySlots × DomState × ObjState} (s : State) (sp : Spire) (w : Nat) (h_s : HoldIs qq s) :
    HoldIs qq (State.opHINIT s sp w) := by
  unfold State.opHINIT
  dsimp -failIfUnchanged only
  repeat' with_reducible first | assumption | apply State.opInt_holdIs | dsimp only

theorem State.opHUPD_holdIs {qq : KeySlots × DomState × ObjState} (s : State) (sp : Spire) (w : Nat) (h_s : HoldIs qq s) :
    HoldIs qq (State.opHUPD s sp w) := by
  unfold State.opHUPD
  dsimp -failIfUnchanged only
  repeat' with_reducible first | assumption | apply State.opInt_holdIs | dsimp only

theorem State.opHFIN_holdIs {qq : KeySlots × DomState × ObjState} (s : State) (sp : Spire) (w : Nat) (h_s : HoldIs qq s) :
    HoldIs qq (State.opHFIN s sp w) := by
  unfold State.opHFIN
  dsimp -failIfUnchanged only
  repeat' with_reducible first | assumption | apply State.opInt_holdIs | dsimp only

theorem State.opGFACC_holdIs {qq : KeySlots × DomState × ObjState} (s : State) (sp : Spire) (w : Nat) (h_s : HoldIs qq s) :
    HoldIs qq (State.opGFACC s sp w) := by
  unfold State.opGFACC
  dsimp -failIfUnchanged only
  repeat' with_reducible first | assumption | apply State.opInt_holdIs | dsimp only

theorem State.opGFSOLVE_holdIs {qq : KeySlots × DomState × ObjState} (s : State) (sp : Spire) (w : Nat) (h_s : HoldIs qq s) :
    HoldIs qq (State.opGFSOLVE s sp w) := by
  unfold State.opGFSOLVE
  dsimp -failIfUnchanged only
  repeat' with_reducible first | assumption | apply State.opInt_holdIs | dsimp only

theorem State.opRXNEXT_holdIs {qq : KeySlots × DomState × ObjState} (s : State) (sp : Spire) (w : Nat) (h_s : HoldIs qq s) :
    HoldIs qq (State.opRXNEXT s sp w) := by
  unfold State.opRXNEXT
  dsimp -failIfUnchanged only
  repeat' with_reducible first | assumption | (intro _) | apply State.clsRes_holdIs | apply State.updAot_holdIs | dsimp only | (refine hold_pair (by assumption) ?_) | (refine hold_opt (by assumption) ?_) | (refine hold_opt1 (by assumption) ?_) | (apply hold_mk; dsimp only; apply hold_un) | split

theorem State.opSESS_holdIs {qq : KeySlots × DomState × ObjState} (s : State) (sp : Spire) (w : Nat) (h_s : HoldIs qq s) :
    HoldIs qq (State.opSESS s sp w) := by
  unfold State.opSESS
  dsimp -failIfUnchanged only
  repeat' with_reducible first | assumption | (intro _) | apply State.clsRes_holdIs | apply State.clsEnd_holdIs | apply State.updSpire_holdIs | apply hold_ite | dsimp only | (apply hold_mk; dsimp only; apply hold_un) | split

theorem State.opOPEN_holdIs {qq : KeySlots × DomState × ObjState} (s : State) (sp : Spire) (w : Nat) (h_s : HoldIs qq s) :
    HoldIs qq (State.opOPEN s sp w) := by
  unfold State.opOPEN
  dsimp -failIfUnchanged only
  repeat' with_reducible first | assumption | (intro _) | apply State.clsEnd_holdIs | apply State.updSpire_holdIs | apply State.setBytes_holdIs | apply hold_ite | apply hold_ite1 | dsimp only | (refine hold_pair (by assumption) ?_) | (refine hold_opt (by assumption) ?_) | (refine hold_opt1 (by assumption) ?_) | (apply hold_mk; dsimp only; apply hold_un) | split

theorem State.opSEAL_holdIs {qq : KeySlots × DomState × ObjState} (s : State) (sp : Spire) (w : Nat) (h_s : HoldIs qq s) :
    HoldIs qq (State.opSEAL s sp w) := by
  unfold State.opSEAL
  dsimp -failIfUnchanged only
  repeat' with_reducible first | assumption | (intro _) | apply State.clsEnd_holdIs | apply State.setSess_holdIs | apply State.setBytes_holdIs | apply hold_ite | apply hold_ite1 | dsimp only | (refine hold_pair (by assumption) ?_) | (refine hold_opt (by assumption) ?_) | (refine hold_opt1 (by assumption) ?_) | (apply hold_mk; dsimp only; apply hold_un) | split

theorem State.opRWIN_holdIs {qq : KeySlots × DomState × ObjState} (s : State) (sp : Spire) (w : Nat) (h_s : HoldIs qq s) :
    HoldIs qq (State.opRWIN s sp w) := by
  unfold State.opRWIN
  dsimp -failIfUnchanged only
  repeat' with_reducible first | assumption | apply State.clsRes_holdIs | dsimp only

theorem State.opRMARK_holdIs {qq : KeySlots × DomState × ObjState} (s : State) (sp : Spire) (w : Nat) (h_s : HoldIs qq s) :
    HoldIs qq (State.opRMARK s sp w) := by
  unfold State.opRMARK
  dsimp -failIfUnchanged only
  repeat' with_reducible first | assumption | (intro _) | apply State.clsEnd_holdIs | apply State.setSess_holdIs | apply hold_ite | dsimp only | split

theorem State.opTXQ_holdIs {qq : KeySlots × DomState × ObjState} (s : State) (sp : Spire) (w : Nat) (h_s : HoldIs qq s) :
    HoldIs qq (State.opTXQ s sp w) := by
  unfold State.opTXQ
  dsimp -failIfUnchanged only
  repeat' with_reducible first | assumption | (intro _) | apply State.clsEnd_holdIs | apply State.portTx_holdIs | apply hold_ite | dsimp only | (apply hold_mk; dsimp only; apply hold_un) | split

theorem State.opTIMER_holdIs {qq : KeySlots × DomState × ObjState} (s : State) (sp : Spire) (w : Nat) (h_s : HoldIs qq s) :
    HoldIs qq (State.opTIMER s sp w) := by
  unfold State.opTIMER
  dsimp -failIfUnchanged only
  repeat' with_reducible first | assumption | (intro _) | apply State.clsRes_holdIs | apply State.updAot_holdIs | dsimp only | (refine hold_pair (by assumption) ?_) | (refine hold_opt (by assumption) ?_) | (refine hold_opt1 (by assumption) ?_) | (apply hold_mk; dsimp only; apply hold_un) | split

theorem State.opPOP_holdIs {qq : KeySlots × DomState × ObjState} (s : State) (sp : Spire) (_w : Nat) (h_s : HoldIs qq s) :
    HoldIs qq (State.opPOP s sp _w) := by
  unfold State.opPOP
  dsimp -failIfUnchanged only
  repeat' with_reducible first | assumption | apply State.waitOn_holdIs | dsimp only

theorem State.postDo_holdIs {qq : KeySlots × DomState × ObjState} (s : State) (sp : Spire) (status : Nat) (ra : Nat) (rb : Nat) (h_s : HoldIs qq s) :
    HoldIs qq (State.postDo s sp status ra rb) := by
  unfold State.postDo
  dsimp -failIfUnchanged only
  repeat' with_reducible first | assumption | (intro _) | apply State.postRec_holdIs | apply State.updSpire_holdIs | dsimp only | (apply hold_mk; dsimp only; apply hold_un)

theorem State.opPOST_holdIs {qq : KeySlots × DomState × ObjState} (s : State) (sp : Spire) (w : Nat) (h_s : HoldIs qq s) :
    HoldIs qq (State.opPOST s sp w) := by
  unfold State.opPOST
  dsimp -failIfUnchanged only
  repeat' with_reducible first | assumption | apply State.postDo_holdIs | apply State.adv_holdIs | dsimp only

theorem State.micro_holdIs {qq : KeySlots × DomState × ObjState} (s : State) (sp : Spire) (row : MRow) (f : State → Spire → Nat → State) (h_s : HoldIs qq s) (h_f : ∀ (x0 : State) (x1 : Sys2Proof.Spire) (x2 : Nat), HoldIs qq x0 → HoldIs qq (f x0 x1 x2)) :
    HoldIs qq (State.micro s sp row f) := by
  unfold State.micro
  dsimp -failIfUnchanged only
  repeat' with_reducible first | assumption | (intro _) | apply State.fetchDo_holdIs | apply h_f | apply hold_ite | dsimp only | split

theorem State.resume_holdIs {qq : KeySlots × DomState × ObjState} (s : State) (sp : Spire) (h_s : HoldIs qq s) :
    HoldIs qq (State.resume s sp) := by
  unfold State.resume
  dsimp -failIfUnchanged only
  repeat' with_reducible first | assumption | (intro _) | apply State.waitSide_holdIs | apply State.tryWait_holdIs | apply State.updSpire_holdIs | apply hold_ite | dsimp only | (refine hold_pair (by assumption) ?_) | (refine hold_opt (by assumption) ?_) | (refine hold_opt1 (by assumption) ?_) | (apply hold_mk; dsimp only; apply hold_un) | split

theorem execAlu_holdIs {qq : KeySlots × DomState × ObjState} (sp : Spire) (s : State) (h_s : HoldIs qq s) :
    Out.HoldIs qq (execAlu sp s) := by
  unfold execAlu
  dsimp -failIfUnchanged only
  repeat' with_reducible first | assumption | apply State.micro_holdIs | apply State.opALU_holdIs | apply hold_next | apply hold_ite3 | apply hold_ite | dsimp only | split

theorem execAlui_holdIs {qq : KeySlots × DomState × ObjState} (sp : Spire) (s : State) (h_s : HoldIs qq s) :
    Out.HoldIs qq (execAlui sp s) := by
  unfold execAlui
  dsimp -failIfUnchanged only
  repeat' with_reducible first | assumption | apply State.micro_holdIs | apply State.opALUI_holdIs | apply hold_next | apply hold_ite3 | apply hold_ite | dsimp only | split

theorem execAnchor_holdIs {qq : KeySlots × DomState × ObjState} (sp : Spire) (s : State) (h_s : HoldIs qq s) :
    Out.HoldIs qq (execAnchor sp s) := by
  unfold execAnchor
  dsimp -failIfUnchanged only
  repeat' with_reducible first | assumption | apply State.micro_holdIs | apply State.opANCHOR_holdIs | apply hold_next | apply hold_ite3 | apply hold_ite | dsimp only | split

theorem execArm_holdIs {qq : KeySlots × DomState × ObjState} (sp : Spire) (s : State) (h_s : HoldIs qq s) :
    Out.HoldIs qq (execArm sp s) := by
  unfold execArm
  dsimp -failIfUnchanged only
  repeat' with_reducible first | assumption | apply State.micro_holdIs | apply State.opARM_holdIs | apply hold_next | apply hold_ite3 | apply hold_ite | dsimp only | split

theorem execBandMoverPush_holdIs {qq : KeySlots × DomState × ObjState} (sp : Spire) (s : State) (h_s : HoldIs qq s) :
    Out.HoldIs qq (execBandMoverPush sp s) := by
  unfold execBandMoverPush
  dsimp -failIfUnchanged only
  repeat' with_reducible first | assumption | apply State.micro_holdIs | apply State.opPUSH_holdIs | apply hold_next | apply hold_ite3 | apply hold_ite | dsimp only | split

theorem execBr_holdIs {qq : KeySlots × DomState × ObjState} (sp : Spire) (s : State) (h_s : HoldIs qq s) :
    Out.HoldIs qq (execBr sp s) := by
  unfold execBr
  dsimp -failIfUnchanged only
  repeat' with_reducible first | assumption | apply State.micro_holdIs | apply State.opBR_holdIs | apply hold_next | apply hold_ite3 | apply hold_ite | dsimp only | split

theorem execCall_holdIs {qq : KeySlots × DomState × ObjState} (sp : Spire) (s : State) (h_s : HoldIs qq s) :
    Out.HoldIs qq (execCall sp s) := by
  unfold execCall
  dsimp -failIfUnchanged only
  repeat' with_reducible first | assumption | apply State.micro_holdIs | apply State.opCALL_holdIs | apply hold_next | apply hold_ite3 | apply hold_ite | dsimp only | split

theorem execCaptr_holdIs {qq : KeySlots × DomState × ObjState} (sp : Spire) (s : State) (h_s : HoldIs qq s) :
    Out.HoldIs qq (execCaptr sp s) := by
  unfold execCaptr
  dsimp -failIfUnchanged only
  repeat' with_reducible first | assumption | apply State.micro_holdIs | apply State.opCAPTR_holdIs | apply hold_next | apply hold_ite3 | apply hold_ite | dsimp only | split

theorem execCbr_holdIs {qq : KeySlots × DomState × ObjState} (sp : Spire) (s : State) (h_s : HoldIs qq s) :
    Out.HoldIs qq (execCbr sp s) := by
  unfold execCbr
  dsimp -failIfUnchanged only
  repeat' with_reducible first | assumption | apply State.micro_holdIs | apply State.opCBR_holdIs | apply hold_next | apply hold_ite3 | apply hold_ite | dsimp only | split

theorem execDisarm_holdIs {qq : KeySlots × DomState × ObjState} (sp : Spire) (s : State) (h_s : HoldIs qq s) :
    Out.HoldIs qq (execDisarm sp s) := by
  unfold execDisarm
  dsimp -failIfUnchanged only
  repeat' with_reducible first | assumption | apply State.micro_holdIs | apply State.opDISARM_holdIs | apply hold_next | apply hold_ite3 | apply hold_ite | dsimp only | split

theorem execEmitr_holdIs {qq : KeySlots × DomState × ObjState} (sp : Spire) (s : State) (h_s : HoldIs qq s) :
    Out.HoldIs qq (execEmitr sp s) := by
  unfold execEmitr
  dsimp -failIfUnchanged only
  repeat' with_reducible first | assumption | apply State.micro_holdIs | apply State.opEMITR_holdIs | apply hold_next | apply hold_ite3 | apply hold_ite | dsimp only | split

theorem execFence_holdIs {qq : KeySlots × DomState × ObjState} (sp : Spire) (s : State) (h_s : HoldIs qq s) :
    Out.HoldIs qq (execFence sp s) := by
  unfold execFence
  dsimp -failIfUnchanged only
  repeat' with_reducible first | assumption | apply State.micro_holdIs | apply State.opFENCE_holdIs | apply hold_next | apply hold_ite3 | apply hold_ite | dsimp only | split

theorem execGetang_holdIs {qq : KeySlots × DomState × ObjState} (sp : Spire) (s : State) (h_s : HoldIs qq s) :
    Out.HoldIs qq (execGetang sp s) := by
  unfold execGetang
  dsimp -failIfUnchanged only
  repeat' with_reducible first | assumption | apply State.micro_holdIs | apply State.opGETANG_holdIs | apply hold_next | apply hold_ite3 | apply hold_ite | dsimp only | split

theorem execGfacc_holdIs {qq : KeySlots × DomState × ObjState} (sp : Spire) (s : State) (h_s : HoldIs qq s) :
    Out.HoldIs qq (execGfacc sp s) := by
  unfold execGfacc
  dsimp -failIfUnchanged only
  repeat' with_reducible first | assumption | apply State.micro_holdIs | apply State.opGFACC_holdIs | apply hold_next | apply hold_ite3 | apply hold_ite | dsimp only | split

theorem execGfsolve_holdIs {qq : KeySlots × DomState × ObjState} (sp : Spire) (s : State) (h_s : HoldIs qq s) :
    Out.HoldIs qq (execGfsolve sp s) := by
  unfold execGfsolve
  dsimp -failIfUnchanged only
  repeat' with_reducible first | assumption | apply State.micro_holdIs | apply State.opGFSOLVE_holdIs | apply hold_next | apply hold_ite3 | apply hold_ite | dsimp only | split

theorem execHalt_holdIs {qq : KeySlots × DomState × ObjState} (sp : Spire) (s : State) (h_s : HoldIs qq s) :
    Out.HoldIs qq (execHalt sp s) := by
  unfold execHalt
  dsimp -failIfUnchanged only
  repeat' with_reducible first | assumption | apply State.micro_holdIs | apply State.opHALT_holdIs | apply hold_next | apply hold_ite3 | apply hold_ite | dsimp only | split

theorem execHfin_holdIs {qq : KeySlots × DomState × ObjState} (sp : Spire) (s : State) (h_s : HoldIs qq s) :
    Out.HoldIs qq (execHfin sp s) := by
  unfold execHfin
  dsimp -failIfUnchanged only
  repeat' with_reducible first | assumption | apply State.micro_holdIs | apply State.opHFIN_holdIs | apply hold_next | apply hold_ite3 | apply hold_ite | dsimp only | split

theorem execHinit_holdIs {qq : KeySlots × DomState × ObjState} (sp : Spire) (s : State) (h_s : HoldIs qq s) :
    Out.HoldIs qq (execHinit sp s) := by
  unfold execHinit
  dsimp -failIfUnchanged only
  repeat' with_reducible first | assumption | apply State.micro_holdIs | apply State.opHINIT_holdIs | apply hold_next | apply hold_ite3 | apply hold_ite | dsimp only | split

theorem execHupd_holdIs {qq : KeySlots × DomState × ObjState} (sp : Spire) (s : State) (h_s : HoldIs qq s) :
    Out.HoldIs qq (execHupd sp s) := by
  unfold execHupd
  dsimp -failIfUnchanged only
  repeat' with_reducible first | assumption | apply State.micro_holdIs | apply State.opHUPD_holdIs | apply hold_next | apply hold_ite3 | apply hold_ite | dsimp only | split

theorem execLd_holdIs {qq : KeySlots × DomState × ObjState} (sp : Spire) (s : State) (h_s : HoldIs qq s) :
    Out.HoldIs qq (execLd sp s) := by
  unfold execLd
  dsimp -failIfUnchanged only
  repeat' with_reducible first | assumption | apply State.micro_holdIs | apply State.opLD_holdIs | apply hold_next | apply hold_ite3 | apply hold_ite | dsimp only | split

theorem execLdi_holdIs {qq : KeySlots × DomState × ObjState} (sp : Spire) (s : State) (h_s : HoldIs qq s) :
    Out.HoldIs qq (execLdi sp s) := by
  unfold execLdi
  dsimp -failIfUnchanged only
  repeat' with_reducible first | assumption | apply State.micro_holdIs | apply State.opLDI_holdIs | apply hold_next | apply hold_ite3 | apply hold_ite | dsimp only | split

theorem execLoadz_holdIs {qq : KeySlots × DomState × ObjState} (sp : Spire) (s : State) (h_s : HoldIs qq s) :
    Out.HoldIs qq (execLoadz sp s) := by
  unfold execLoadz
  dsimp -failIfUnchanged only
  repeat' with_reducible first | assumption | apply State.micro_holdIs | apply State.opLOADZ_holdIs | apply hold_next | apply hold_ite3 | apply hold_ite | dsimp only | split

theorem execLui_holdIs {qq : KeySlots × DomState × ObjState} (sp : Spire) (s : State) (h_s : HoldIs qq s) :
    Out.HoldIs qq (execLui sp s) := by
  unfold execLui
  dsimp -failIfUnchanged only
  repeat' with_reducible first | assumption | apply State.micro_holdIs | apply State.opLUI_holdIs | apply hold_next | apply hold_ite3 | apply hold_ite | dsimp only | split

theorem execMqPush_holdIs {qq : KeySlots × DomState × ObjState} (core : Nat) (words : List Word) (val : Word) (s : State) (h_s : HoldIs qq s) :
    Out.HoldIs qq (execMqPush core words val s) := by
  unfold execMqPush
  dsimp -failIfUnchanged only
  repeat' with_reducible first | assumption | apply State.mqPush_holdIs | apply hold_next | apply hold_ite3 | apply hold_ite | dsimp only | split

theorem execNop_holdIs {qq : KeySlots × DomState × ObjState} (sp : Spire) (s : State) (h_s : HoldIs qq s) :
    Out.HoldIs qq (execNop sp s) := by
  unfold execNop
  dsimp -failIfUnchanged only
  repeat' with_reducible first | assumption | apply State.micro_holdIs | apply State.opNOP_holdIs | apply hold_next | apply hold_ite3 | apply hold_ite | dsimp only | split

theorem execOpen_holdIs {qq : KeySlots × DomState × ObjState} (sp : Spire) (s : State) (h_s : HoldIs qq s) :
    Out.HoldIs qq (execOpen sp s) := by
  unfold execOpen
  dsimp -failIfUnchanged only
  repeat' with_reducible first | assumption | apply State.micro_holdIs | apply State.opOPEN_holdIs | apply hold_next | apply hold_ite3 | apply hold_ite | dsimp only | split

theorem execOutc_holdIs {qq : KeySlots × DomState × ObjState} (sp : Spire) (s : State) (h_s : HoldIs qq s) :
    Out.HoldIs qq (execOutc sp s) := by
  unfold execOutc
  dsimp -failIfUnchanged only
  repeat' with_reducible first | assumption | apply State.micro_holdIs | apply State.opOUTC_holdIs | apply hold_next | apply hold_ite3 | apply hold_ite | dsimp only | split

theorem execPop_holdIs {qq : KeySlots × DomState × ObjState} (sp : Spire) (s : State) (h_s : HoldIs qq s) :
    Out.HoldIs qq (execPop sp s) := by
  unfold execPop
  dsimp -failIfUnchanged only
  repeat' with_reducible first | assumption | apply State.micro_holdIs | apply State.opPOP_holdIs | apply hold_next | apply hold_ite3 | apply hold_ite | dsimp only | split

theorem execPost_holdIs {qq : KeySlots × DomState × ObjState} (sp : Spire) (s : State) (h_s : HoldIs qq s) :
    Out.HoldIs qq (execPost sp s) := by
  unfold execPost
  dsimp -failIfUnchanged only
  repeat' with_reducible first | assumption | apply State.micro_holdIs | apply State.opPOST_holdIs | apply hold_next | apply hold_ite3 | apply hold_ite | dsimp only | split

theorem execRet_holdIs {qq : KeySlots × DomState × ObjState} (sp : Spire) (s : State) (h_s : HoldIs qq s) :
    Out.HoldIs qq (execRet sp s) := by
  unfold execRet
  dsimp -failIfUnchanged only
  repeat' with_reducible first | assumption | apply State.micro_holdIs | apply State.opRET_holdIs | apply hold_next | apply hold_ite3 | apply hold_ite | dsimp only | split

theorem execRmark_holdIs {qq : KeySlots × DomState × ObjState} (sp : Spire) (s : State) (h_s : HoldIs qq s) :
    Out.HoldIs qq (execRmark sp s) := by
  unfold execRmark
  dsimp -failIfUnchanged only
  repeat' with_reducible first | assumption | apply State.micro_holdIs | apply State.opRMARK_holdIs | apply hold_next | apply hold_ite3 | apply hold_ite | dsimp only | split

theorem execRplan_holdIs {qq : KeySlots × DomState × ObjState} (sp : Spire) (s : State) (h_s : HoldIs qq s) :
    Out.HoldIs qq (execRplan sp s) := by
  unfold execRplan
  dsimp -failIfUnchanged only
  repeat' with_reducible first | assumption | apply State.micro_holdIs | apply State.opRPLAN_holdIs | apply hold_next | apply hold_ite3 | apply hold_ite | dsimp only | split

theorem execRwin_holdIs {qq : KeySlots × DomState × ObjState} (sp : Spire) (s : State) (h_s : HoldIs qq s) :
    Out.HoldIs qq (execRwin sp s) := by
  unfold execRwin
  dsimp -failIfUnchanged only
  repeat' with_reducible first | assumption | apply State.micro_holdIs | apply State.opRWIN_holdIs | apply hold_next | apply hold_ite3 | apply hold_ite | dsimp only | split

theorem execRxnext_holdIs {qq : KeySlots × DomState × ObjState} (sp : Spire) (s : State) (h_s : HoldIs qq s) :
    Out.HoldIs qq (execRxnext sp s) := by
  unfold execRxnext
  dsimp -failIfUnchanged only
  repeat' with_reducible first | assumption | apply State.micro_holdIs | apply State.opRXNEXT_holdIs | apply hold_next | apply hold_ite3 | apply hold_ite | dsimp only | split

theorem execSeal_holdIs {qq : KeySlots × DomState × ObjState} (sp : Spire) (s : State) (h_s : HoldIs qq s) :
    Out.HoldIs qq (execSeal sp s) := by
  unfold execSeal
  dsimp -failIfUnchanged only
  repeat' with_reducible first | assumption | apply State.micro_holdIs | apply State.opSEAL_holdIs | apply hold_next | apply hold_ite3 | apply hold_ite | dsimp only | split

theorem execSess_holdIs {qq : KeySlots × DomState × ObjState} (sp : Spire) (s : State) (h_s : HoldIs qq s) :
    Out.HoldIs qq (execSess sp s) := by
  unfold execSess
  dsimp -failIfUnchanged only
  repeat' with_reducible first | assumption | apply State.micro_holdIs | apply State.opSESS_holdIs | apply hold_next | apply hold_ite3 | apply hold_ite | dsimp only | split

theorem execSprCsWrite_holdIs {qq : KeySlots × DomState × ObjState} (cls : Nat) (val : Word) (s : State) (h_s : HoldIs qq s) :
    Out.HoldIs qq (execSprCsWrite cls val s) := by
  unfold execSprCsWrite
  dsimp -failIfUnchanged only
  repeat' with_reducible first | assumption | (intro _) | apply State.csWrite_holdIs | apply State.gated_holdIs | apply hold_next | apply hold_ite3 | apply hold_ite | dsimp only | split

theorem execSprMcForce_holdIs {qq : KeySlots × DomState × ObjState} (cls : Nat) (val : Word) (s : State) (h_s : HoldIs qq s) :
    Out.HoldIs qq (execSprMcForce cls val s) := by
  unfold execSprMcForce
  dsimp -failIfUnchanged only
  repeat' with_reducible first | assumption | (intro _) | apply State.sprForce_holdIs | apply State.gated_holdIs | apply hold_next | apply hold_ite3 | apply hold_ite | dsimp only | split

theorem execSprQpush_holdIs {qq : KeySlots × DomState × ObjState} (cls : Nat) (val : Word) (s : State) (h_s : HoldIs qq s) :
    Out.HoldIs qq (execSprQpush cls val s) := by
  unfold execSprQpush
  dsimp -failIfUnchanged only
  repeat' with_reducible first | assumption | (intro _) | apply State.qPush_holdIs | apply State.gated_holdIs | apply hold_next | apply hold_ite3 | apply hold_ite | dsimp only | split

theorem execSyncp_holdIs {qq : KeySlots × DomState × ObjState} (sp : Spire) (s : State) (h_s : HoldIs qq s) :
    Out.HoldIs qq (execSyncp sp s) := by
  unfold execSyncp
  dsimp -failIfUnchanged only
  repeat' with_reducible first | assumption | apply State.micro_holdIs | apply State.opSYNCP_holdIs | apply hold_next | apply hold_ite3 | apply hold_ite | dsimp only | split

theorem execTimer_holdIs {qq : KeySlots × DomState × ObjState} (sp : Spire) (s : State) (h_s : HoldIs qq s) :
    Out.HoldIs qq (execTimer sp s) := by
  unfold execTimer
  dsimp -failIfUnchanged only
  repeat' with_reducible first | assumption | apply State.micro_holdIs | apply State.opTIMER_holdIs | apply hold_next | apply hold_ite3 | apply hold_ite | dsimp only | split

theorem execTxq_holdIs {qq : KeySlots × DomState × ObjState} (sp : Spire) (s : State) (h_s : HoldIs qq s) :
    Out.HoldIs qq (execTxq sp s) := by
  unfold execTxq
  dsimp -failIfUnchanged only
  repeat' with_reducible first | assumption | apply State.micro_holdIs | apply State.opTXQ_holdIs | apply hold_next | apply hold_ite3 | apply hold_ite | dsimp only | split

theorem execWaitSatisfied_holdIs {qq : KeySlots × DomState × ObjState} (sp : Spire) (s : State) (h_s : HoldIs qq s) :
    Out.HoldIs qq (execWaitSatisfied sp s) := by
  unfold execWaitSatisfied
  dsimp -failIfUnchanged only
  repeat' with_reducible first | assumption | apply State.resume_holdIs | apply hold_next | apply hold_ite3 | apply hold_ite | dsimp only | split

theorem execWaitc_holdIs {qq : KeySlots × DomState × ObjState} (sp : Spire) (s : State) (h_s : HoldIs qq s) :
    Out.HoldIs qq (execWaitc sp s) := by
  unfold execWaitc
  dsimp -failIfUnchanged only
  repeat' with_reducible first | assumption | apply State.micro_holdIs | apply State.opWAITC_holdIs | apply hold_next | apply hold_ite3 | apply hold_ite | dsimp only | split

theorem execWget_holdIs {qq : KeySlots × DomState × ObjState} (sp : Spire) (s : State) (h_s : HoldIs qq s) :
    Out.HoldIs qq (execWget sp s) := by
  unfold execWget
  dsimp -failIfUnchanged only
  repeat' with_reducible first | assumption | apply State.micro_holdIs | apply State.opWGET_holdIs | apply hold_next | apply hold_ite3 | apply hold_ite | dsimp only | split

theorem execWplan_holdIs {qq : KeySlots × DomState × ObjState} (sp : Spire) (s : State) (h_s : HoldIs qq s) :
    Out.HoldIs qq (execWplan sp s) := by
  unfold execWplan
  dsimp -failIfUnchanged only
  repeat' with_reducible first | assumption | apply State.micro_holdIs | apply State.opWPLAN_holdIs | apply hold_next | apply hold_ite3 | apply hold_ite | dsimp only | split

theorem State.ef0Take_holdIs {qq : KeySlots × DomState × ObjState} (s : State) (sp : Spire) (f : State → State) (h_s : HoldIs qq s) (h_f : ∀ (x0 : State), HoldIs qq x0 → HoldIs qq (f x0)) :
    HoldIs qq (State.ef0Take s sp f) := by
  unfold State.ef0Take
  dsimp -failIfUnchanged only
  repeat' with_reducible first | assumption | (intro _) | apply State.updSpire_holdIs | apply h_f | apply hold_ite | dsimp only | (apply hold_mk; dsimp only; apply hold_un) | split

theorem State.setRoutine_holdIs {qq : KeySlots × DomState × ObjState} (s : State) (sp : Spire) (r : Option MRun) (h_s : HoldIs qq s) :
    HoldIs qq (State.setRoutine s sp r) := by
  unfold State.setRoutine
  dsimp -failIfUnchanged only
  repeat' with_reducible first | assumption | (intro _) | apply State.updSpire_holdIs | dsimp only | (apply hold_mk; dsimp only; apply hold_un)

theorem State.imgPost_holdIs {qq : KeySlots × DomState × ObjState} (s : State) (sp : Spire) (status : Nat) (ra : Nat) (rb : Nat) (h_s : HoldIs qq s) :
    HoldIs qq (State.imgPost s sp status ra rb) := by
  unfold State.imgPost
  dsimp -failIfUnchanged only
  repeat' with_reducible first | assumption | apply State.setRoutine_holdIs | apply State.postDo_holdIs | apply State.waitOn_holdIs | dsimp only

theorem State.imgIssue_holdIs {qq : KeySlots × DomState × ObjState} (s : State) (sp : Spire) (r : MRun) (fn : Nat) (ra : Nat) (rb : Nat) (h_s : HoldIs qq s) :
    HoldIs qq (State.imgIssue s sp r fn ra rb) := by
  unfold State.imgIssue
  dsimp -failIfUnchanged only
  repeat' with_reducible first | assumption | (intro _) | apply State.imgPost_holdIs | apply State.setRoutine_holdIs | apply State.intIssue_holdIs | apply hold_ite | apply hold_ite1 | dsimp only | split

theorem State.accGo_holdIs {qq : KeySlots × DomState × ObjState} (s : State) (sp : Spire) (r : MRun) (h_s : HoldIs qq s) :
    HoldIs qq (State.accGo s sp r) := by
  unfold State.accGo
  dsimp -failIfUnchanged only
  repeat' with_reducible first | assumption | (intro _) | apply State.imgIssue_holdIs | apply State.imgPost_holdIs | apply State.ef0Take_holdIs | apply hold_ite | dsimp only | (apply hold_mk; dsimp only; apply hold_un) | split

theorem State.armAll_holdIs {qq : KeySlots × DomState × ObjState} (s : State) (sp : Spire) (l : List (Nat × Nat × Nat)) (h_s : HoldIs qq s) :
    HoldIs qq (State.armAll s sp l).1 := by
  unfold State.armAll
  dsimp -failIfUnchanged only
  repeat' with_reducible first | assumption | (intro _) | apply State.armDo_holdIs | apply hold_ite | apply hold_ite1 | (refine hold_foldl ?_ (fun _ _ _ => ?_)) | (refine hold_foldl1 ?_ (fun _ _ _ => ?_)) | (refine hold_foldl2 ?_ (fun _ _ _ => ?_)) | dsimp only | split

theorem State.imgWait_holdIs {qq : KeySlots × DomState × ObjState} (s : State) (sp : Spire) (r : MRun) (st : Nat) (x : SprWait) (h_s : HoldIs qq s) :
    HoldIs qq (State.imgWait s sp r st x) := by
  unfold State.imgWait
  dsimp -failIfUnchanged only
  repeat' with_reducible first | assumption | apply State.setRoutine_holdIs | apply State.waitOn_holdIs | dsimp only | (apply hold_mk; dsimp only; apply hold_un)

theorem State.imgSync_holdIs {qq : KeySlots × DomState × ObjState} (s : State) (sp : Spire) (r : MRun) (status : Nat) (h_s : HoldIs qq s) :
    HoldIs qq (State.imgSync s sp r status) := by
  unfold State.imgSync
  dsimp -failIfUnchanged only
  repeat' with_reducible first | assumption | apply State.imgWait_holdIs | dsimp only | (apply hold_mk; dsimp only; apply hold_un)

theorem State.armRead_holdIs {qq : KeySlots × DomState × ObjState} (s : State) (sp : Spire) (r : MRun) (f : Nat) (h_s : HoldIs qq s) :
    HoldIs qq (State.armRead s sp r f) := by
  unfold State.armRead
  dsimp -failIfUnchanged only
  repeat' with_reducible first | assumption | (intro _) | apply State.imgSync_holdIs | apply State.imgWait_holdIs | apply State.armAll_holdIs | apply hold_ite | apply hold_ite1 | dsimp only | split

theorem State.eventBegin_holdIs {qq : KeySlots × DomState × ObjState} (s : State) (sp : Spire) (h_s : HoldIs qq s) :
    HoldIs qq (State.eventBegin s sp) := by
  unfold State.eventBegin
  dsimp -failIfUnchanged only
  repeat' with_reducible first | assumption | (intro _) | apply State.imgWait_holdIs | apply State.imgPost_holdIs | apply State.armDo_holdIs | apply hold_ite | apply hold_ite1 | dsimp only | (apply hold_mk; dsimp only; apply hold_un) | split

theorem State.eventGo_holdIs {qq : KeySlots × DomState × ObjState} (s : State) (sp : Spire) (_r : MRun) (h_s : HoldIs qq s) :
    HoldIs qq (State.eventGo s sp _r) := by
  unfold State.eventGo
  dsimp -failIfUnchanged only
  repeat' with_reducible first | assumption | apply State.imgPost_holdIs | apply hold_ite | dsimp only | split

theorem State.hashGo_holdIs {qq : KeySlots × DomState × ObjState} (s : State) (sp : Spire) (r : MRun) (h_s : HoldIs qq s) :
    HoldIs qq (State.hashGo s sp r) := by
  unfold State.hashGo
  dsimp -failIfUnchanged only
  repeat' with_reducible first | assumption | (intro _) | apply State.imgIssue_holdIs | apply State.imgPost_holdIs | apply State.ef0Take_holdIs | apply hold_ite | dsimp only | (apply hold_mk; dsimp only; apply hold_un) | split

theorem State.image_holdIs {qq : KeySlots × DomState × ObjState} (s : State) (sp : Spire) (op : Nat) (begin_ : State → State) (go : State → MRun → State) (h_s : HoldIs qq s) (h_begin_ : ∀ (x0 : State), HoldIs qq x0 → HoldIs qq (begin_ x0)) (h_go : ∀ (x0 : State) (x1 : MRun), HoldIs qq x0 → HoldIs qq (go x0 x1)) :
    HoldIs qq (State.image s sp op begin_ go) := by
  unfold State.image
  dsimp -failIfUnchanged only
  repeat' with_reducible first | assumption | (intro _) | apply State.imgPost_holdIs | apply State.resume_holdIs | apply State.pop_holdIs | apply State.updSpire_holdIs | apply h_begin_ | apply h_go | apply hold_ite | apply hold_ite1 | dsimp only | (refine hold_pair (by assumption) ?_) | (refine hold_opt (by assumption) ?_) | (refine hold_opt1 (by assumption) ?_) | (apply hold_mk; dsimp only; apply hold_un) | split

theorem State.imgPlan_holdIs {q : KeySlots × DomState × ObjState} (s : State) (sp : Spire) (write : Bool) (margin : Nat) (h_s : HoldIs q s) :
    OptHoldIs1 q (State.imgPlan s sp write margin) := by
  intro r hr
  unfold State.imgPlan at hr
  obtain ⟨z, _, h2⟩ := Option.bind_eq_some_iff.mp hr
  obtain ⟨p, _, h4⟩ := Option.map_eq_some_iff.mp h2
  subst h4
  exact State.updSpire_holdIs _ _ _ (State.updSpire_holdIs _ _ _ h_s)

theorem State.moverWrites_holdIs {qq : KeySlots × DomState × ObjState} (s : State) (sp : Spire) (c : List Word) (h_s : HoldIs qq s) :
    HoldIs qq (State.moverWrites s sp c) := by
  unfold State.moverWrites
  dsimp -failIfUnchanged only
  repeat' with_reducible first | assumption | (intro _) | apply State.updLay_holdIs | apply hold_ite | dsimp only | (apply hold_mk; dsimp only; apply hold_un) | split

theorem State.movePush_holdIs {qq : KeySlots × DomState × ObjState} (s : State) (sp : Spire) (cmds : List (List Word)) (r : MRun) (h_s : HoldIs qq s) :
    HoldIs qq (State.movePush s sp cmds r) := by
  unfold State.movePush
  dsimp -failIfUnchanged only
  repeat' with_reducible first | assumption | (intro _) | apply State.moverWrites_holdIs | apply State.setRoutine_holdIs | apply State.moverPush_holdIs | apply hold_ite | apply hold_ite1 | (refine hold_foldl ?_ (fun _ _ _ => ?_)) | (refine hold_foldl1 ?_ (fun _ _ _ => ?_)) | (refine hold_foldl2 ?_ (fun _ _ _ => ?_)) | dsimp only | (apply hold_mk; dsimp only; apply hold_un) | split

theorem State.moveGo_holdIs {qq : KeySlots × DomState × ObjState} (s : State) (sp : Spire) (cmds : List (List Word)) (failed : Nat) (r : MRun) (h_s : HoldIs qq s) :
    HoldIs qq (State.moveGo s sp cmds failed r) := by
  unfold State.moveGo
  dsimp -failIfUnchanged only
  repeat' with_reducible first | assumption | (intro _) | apply State.movePush_holdIs | apply State.imgPost_holdIs | apply State.updSpire_holdIs | apply hold_ite | dsimp only | (apply hold_mk; dsimp only; apply hold_un) | split

theorem State.readBegin_holdIs {qq : KeySlots × DomState × ObjState} (s : State) (sp : Spire) (h_s : HoldIs qq s) :
    HoldIs qq (State.readBegin s sp) := by
  unfold State.readBegin
  dsimp -failIfUnchanged only
  repeat' with_reducible first | assumption | apply State.imgPlan_holdIs | apply State.armRead_holdIs | apply State.imgSync_holdIs | apply State.captr_holdIs | apply hold_ite | dsimp only | (refine hold_pair (by assumption) ?_) | (refine hold_opt (by assumption) ?_) | (refine hold_opt1 (by assumption) ?_) | (apply hold_mk; dsimp only; apply hold_un) | split

theorem State.readGo_holdIs {qq : KeySlots × DomState × ObjState} (s : State) (sp : Spire) (r : MRun) (h_s : HoldIs qq s) :
    HoldIs qq (State.readGo s sp r) := by
  unfold State.readGo
  dsimp -failIfUnchanged only
  repeat' with_reducible first | assumption | (intro _) | apply State.armRead_holdIs | apply State.imgSync_holdIs | apply State.imgWait_holdIs | apply State.imgPost_holdIs | apply hold_ite | dsimp only | (apply hold_mk; dsimp only; apply hold_un) | split

theorem State.slipMap_holdIs {qq : KeySlots × DomState × ObjState} (s : State) (t : Tower) (h : Nat) (b : Nat) (tail : List (Nat × List Byte)) (h_s : HoldIs qq s) :
    HoldIs qq (State.slipMap s t h b tail) := by
  unfold State.slipMap
  dsimp -failIfUnchanged only
  repeat' with_reducible first | assumption | (intro _) | apply State.updLay_holdIs | dsimp only | (apply hold_mk; dsimp only; apply hold_un)

theorem execAngleEvent_holdIs {qq : KeySlots × DomState × ObjState} (sp : Spire) (s : State) (h_s : HoldIs qq s) :
    Out.HoldIs qq (execAngleEvent sp s) := by
  unfold execAngleEvent
  dsimp -failIfUnchanged only
  repeat' with_reducible first | assumption | (intro _) | apply State.image_holdIs | apply State.eventGo_holdIs | apply State.eventBegin_holdIs | apply hold_next | apply hold_ite3 | apply hold_ite | dsimp only | split

theorem execHash_holdIs {qq : KeySlots × DomState × ObjState} (sp : Spire) (s : State) (h_s : HoldIs qq s) :
    Out.HoldIs qq (execHash sp s) := by
  unfold execHash
  dsimp -failIfUnchanged only
  repeat' with_reducible first | assumption | (intro _) | apply State.image_holdIs | apply State.hashGo_holdIs | apply State.imgIssue_holdIs | apply hold_next | apply hold_ite3 | apply hold_ite | dsimp only | (apply hold_mk; dsimp only; apply hold_un) | split

theorem execMoveRun_holdIs {qq : KeySlots × DomState × ObjState} (sp : Spire) (cmds : List (List Word)) (failed : Nat) (s : State) (h_s : HoldIs qq s) :
    Out.HoldIs qq (execMoveRun sp cmds failed s) := by
  unfold execMoveRun
  dsimp -failIfUnchanged only
  repeat' with_reducible first | assumption | (intro _) | apply State.moveGo_holdIs | apply State.movePush_holdIs | apply State.image_holdIs | apply hold_next | apply hold_ite3 | apply hold_ite | dsimp only | (apply hold_mk; dsimp only; apply hold_un) | split

theorem execParityAcc_holdIs {qq : KeySlots × DomState × ObjState} (sp : Spire) (s : State) (h_s : HoldIs qq s) :
    Out.HoldIs qq (execParityAcc sp s) := by
  unfold execParityAcc
  dsimp -failIfUnchanged only
  repeat' with_reducible first | assumption | (intro _) | apply State.image_holdIs | apply State.accGo_holdIs | apply State.imgIssue_holdIs | apply hold_next | apply hold_ite3 | apply hold_ite | dsimp only | (apply hold_mk; dsimp only; apply hold_un) | split

theorem execReadRun_holdIs {qq : KeySlots × DomState × ObjState} (sp : Spire) (s : State) (h_s : HoldIs qq s) :
    Out.HoldIs qq (execReadRun sp s) := by
  unfold execReadRun
  dsimp -failIfUnchanged only
  repeat' with_reducible first | assumption | (intro _) | apply State.readGo_holdIs | apply State.readBegin_holdIs | apply State.image_holdIs | apply hold_next | apply hold_ite3 | apply hold_ite | dsimp only | split

theorem execRebuild_holdIs {qq : KeySlots × DomState × ObjState} (sp : Spire) (s : State) (h_s : HoldIs qq s) :
    Out.HoldIs qq (execRebuild sp s) := by
  unfold execRebuild
  dsimp -failIfUnchanged only
  repeat' with_reducible first | assumption | (intro _) | apply State.image_holdIs | apply State.imgIssue_holdIs | apply State.imgPost_holdIs | apply State.ef0Take_holdIs | apply hold_next | apply hold_ite3 | apply hold_ite | dsimp only | (apply hold_mk; dsimp only; apply hold_un) | split

theorem execTailScan_holdIs {qq : KeySlots × DomState × ObjState} (sp : Spire) (tail : List (Nat × List Byte)) (head : Nat) (band : Nat) (status : Nat) (s : State) (h_s : HoldIs qq s) :
    Out.HoldIs qq (execTailScan sp tail head band status s) := by
  unfold execTailScan
  dsimp -failIfUnchanged only
  repeat' with_reducible first | assumption | (intro _) | apply State.slipMap_holdIs | apply State.image_holdIs | apply State.imgPost_holdIs | apply hold_next | apply hold_ite3 | apply hold_ite | dsimp only | split

theorem execExpertKeyWrite_holdIs {qq : KeySlots × DomState × ObjState} (blk : Nat) (inst : Nat) (page : Nat) (val : Word) (s : State) (h_s : HoldIs qq s) :
    Out.HoldIs qq (execExpertKeyWrite blk inst page val s) := by
  unfold execExpertKeyWrite
  dsimp -failIfUnchanged only
  repeat' with_reducible first | assumption | apply State.keyWrite_holdIs | apply hold_next | apply hold_ite3 | apply hold_ite | dsimp only | split

theorem execIntForceWrite_holdIs {qq : KeySlots × DomState × ObjState} (blk : Nat) (inst : Nat) (page : Nat) (val : Word) (s : State) (h_s : HoldIs qq s) :
    Out.HoldIs qq (execIntForceWrite blk inst page val s) := by
  unfold execIntForceWrite
  dsimp -failIfUnchanged only
  repeat' with_reducible first | assumption | (intro _) | apply State.intForce_holdIs | apply State.gated_holdIs | apply hold_next | apply hold_ite3 | dsimp only

theorem execMbxDoorbellSet_holdIs {qq : KeySlots × DomState × ObjState} (val : Word) (s : State) (h_s : HoldIs qq s) :
    Out.HoldIs qq (execMbxDoorbellSet val s) := by
  unfold execMbxDoorbellSet
  dsimp -failIfUnchanged only
  repeat' with_reducible first | assumption | (intro _) | apply State.mbxSet_holdIs | apply State.gated_holdIs | apply hold_next | apply hold_ite3 | dsimp only

end Sys2Proof.Machine
end

