-- ==== Sys2Proof/Laws/LayFrame.lean ====
section
/-! SUPPORT. The layout is as before. The rules by which a proof goes through conditionals, folds and updates of other fields. -/

namespace Sys2Proof.Machine

/-- The layout is as before. -/
def LayIs (q : Two LayState) (s : State) : Prop := s.lay = q

/-- The same of the next state of a meaning. -/
def Out.LayIs (q : Two LayState) (o : Out) : Prop :=
  match o with
  | .next t => Sys2Proof.Machine.LayIs q t
  | _ => True

variable {q : Two LayState}

theorem lay_next {t : State} (h : LayIs q t) : Out.LayIs q (.next t) := h
theorem lay_mk {t : State} (h : t.lay = q) : LayIs q t := h
theorem lay_un {s : State} (h : LayIs q s) : s.lay = q := h

theorem lay_ite {c : Prop} [Decidable c] {s t : State} (h1 : LayIs q s) (h2 : LayIs q t) : LayIs q (if c then s else t) := by
  split
  · exact h1
  · exact h2

theorem lay_ite1 {c : Prop} [Decidable c] {α : Type} {s t : State × α} (h1 : LayIs q s.1) (h2 : LayIs q t.1) :
    LayIs q (if c then s else t).1 := by
  split
  · exact h1
  · exact h2

theorem lay_ite3 {c : Prop} [Decidable c] {o p : Out} (h1 : Out.LayIs q o) (h2 : Out.LayIs q p) : Out.LayIs q (if c then o else p) := by
  split
  · exact h1
  · exact h2

theorem lay_foldl {α : Type} {f : State → α → State} {l : List α} {s : State} (hs : LayIs q s)
    (h : ∀ s x, LayIs q s → LayIs q (f s x)) : LayIs q (l.foldl f s) := by
  induction l generalizing s with
  | nil => exact hs
  | cons x r ih => exact ih (h s x hs)

theorem lay_foldl1 {α β : Type} {f : State × β → α → State × β} {l : List α} {p : State × β} (hs : LayIs q p.1)
    (h : ∀ p x, LayIs q p.1 → LayIs q (f p x).1) : LayIs q (l.foldl f p).1 := by
  induction l generalizing p with
  | nil => exact hs
  | cons x r ih => exact ih (h p x hs)

theorem lay_foldl2 {α β γ : Type} {f : (State × β) × γ → α → (State × β) × γ} {l : List α} {p : (State × β) × γ} (hs : LayIs q p.1.1)
    (h : ∀ p x, LayIs q p.1.1 → LayIs q (f p x).1.1) : LayIs q (l.foldl f p).1.1 := by
  induction l generalizing p with
  | nil => exact hs
  | cons x r ih => exact ih (h p x hs)

/-- A state that may be none is kept when it is one. -/
def OptLayIs (q : Two LayState) (o : Option State) : Prop := ∀ r, o = some r → LayIs q r
def OptLayIs1 {α : Type} (q : Two LayState) (o : Option (State × α)) : Prop := ∀ r, o = some r → LayIs q r.1

theorem lay_pair {α : Type} {p : State × α} {s : State} {x : α} (e : p = (s, x)) (h : LayIs q p.1) : LayIs q s := by
  subst e
  exact h

theorem lay_id {s : State} (h : LayIs q s) : LayIs q (id s) := h

theorem lay_opt {o : Option State} {s : State} (e : o = some s) (h : OptLayIs q o) : LayIs q s := h s e

theorem lay_opt1 {α : Type} {o : Option (State × α)} {s : State} {x : α} (e : o = some (s, x)) (h : OptLayIs1 q o) : LayIs q s := h (s, x) e

theorem optLayIs_none : OptLayIs q none := fun _ h => by cases h
theorem optLayIs_some {s : State} (h : LayIs q s) : OptLayIs q (some s) := fun _ e => by cases e; exact h
theorem optLayIs_ite {c : Prop} [Decidable c] {o p : Option State} (h1 : OptLayIs q o) (h2 : OptLayIs q p) :
    OptLayIs q (if c then o else p) := by
  split
  · exact h1
  · exact h2


theorem lay_setReg {s : State} (h : LayIs q s) (a : Nat) (v : Word) : LayIs q (s.setReg a v) := h

theorem lay_setByte {s : State} (h : LayIs q s) (a : Nat) (v : Byte) : LayIs q (s.setByte a v) := h

end Sys2Proof.Machine
end

