-- ==== Sys2Proof/Laws/LayFrame1.lean ====
section
/-! SUPPORT. The layout is as before: the operations and commands for which this holds, part 1. -/

set_option linter.unusedTactic false
set_option linter.unreachableTactic false
set_option maxRecDepth 8000

namespace Sys2Proof.Machine

theorem State.activity_layIs {qq : Two LayState} (s : State) (h_s : LayIs qq s) :
    LayIs qq (State.activity s) := by
  unfold State.activity
  dsimp -failIfUnchanged only
  repeat' with_reducible first | assumption | dsimp only | (apply lay_mk; dsimp only; apply lay_un)

theorem State.setReg_layIs {q : Two LayState} (s : State) (a : Nat) (v : Word) (h_s : LayIs q s) : LayIs q (State.setReg s a v) :=
  lay_setReg h_s a v

theorem State.wr_layIs {qq : Two LayState} (s : State) (f : Fld) (x : Nat) (h_s : LayIs qq s) :
    LayIs qq (State.wr s f x) := by
  unfold State.wr
  dsimp -failIfUnchanged only
  repeat' with_reducible first | assumption | apply State.setReg_layIs | dsimp only

theorem State.setSt_layIs {qq : Two LayState} (s : State) (b : Nat) (i : Nat) (v : Nat) (h_s : LayIs qq s) :
    LayIs qq (State.setSt s b i v) := by
  unfold State.setSt
  dsimp -failIfUnchanged only
  repeat' with_reducible first | assumption | apply State.wr_layIs | dsimp only

theorem State.wb_layIs {qq : Two LayState} (s : State) (f : Fld) (b : Bool) (h_s : LayIs qq s) :
    LayIs qq (State.wb s f b) := by
  unfold State.wb
  dsimp -failIfUnchanged only
  repeat' with_reducible first | assumption | apply State.wr_layIs | dsimp only

theorem State.setEn_layIs {qq : Two LayState} (s : State) (b : Nat) (i : Nat) (v : Bool) (h_s : LayIs qq s) :
    LayIs qq (State.setEn s b i v) := by
  unfold State.setEn
  dsimp -failIfUnchanged only
  repeat' with_reducible first | assumption | apply State.wb_layIs | dsimp only

theorem State.dropBlock_layIs {q : Two LayState} (s : State) (b i : Nat) (h_s : LayIs q s) : LayIs q (State.dropBlock s b i) := h_s

theorem State.repairShow_layIs {qq : Two LayState} (s : State) (h_s : LayIs qq s) :
    LayIs qq (State.repairShow s) := by
  unfold State.repairShow
  dsimp -failIfUnchanged only
  repeat' with_reducible first | assumption | apply State.wb_layIs | apply State.wr_layIs | apply lay_ite | dsimp only | split

theorem State.blockReset_layIs {qq : Two LayState} (s : State) (e : Nat × Nat) (h_s : LayIs qq s) :
    LayIs qq (State.blockReset s e) := by
  unfold State.blockReset
  dsimp -failIfUnchanged only
  repeat' with_reducible first | assumption | (intro _) | apply State.repairShow_layIs | apply State.dropBlock_layIs | apply lay_ite | apply lay_ite1 | dsimp only | (apply lay_mk; dsimp only; apply lay_un) | split

theorem State.bump_layIs {qq : Two LayState} (s : State) (f : Fld) (k : Nat) (h_s : LayIs qq s) :
    LayIs qq (State.bump s f k) := by
  unfold State.bump
  dsimp -failIfUnchanged only
  repeat' with_reducible first | assumption | apply State.wr_layIs | dsimp only

theorem State.setRpend_layIs {qq : Two LayState} (s : State) (b : Nat) (i : Nat) (v : Bool) (h_s : LayIs qq s) :
    LayIs qq (State.setRpend s b i v) := by
  unfold State.setRpend
  dsimp -failIfUnchanged only
  repeat' with_reducible first | assumption | apply State.wb_layIs | dsimp only

theorem State.updFwk_layIs {qq : Two LayState} (s : State) (f : FwkState → FwkState) (h_s : LayIs qq s) :
    LayIs qq (State.updFwk s f) := by
  unfold State.updFwk
  dsimp -failIfUnchanged only
  repeat' with_reducible first | assumption | (intro _) | dsimp only | (apply lay_mk; dsimp only; apply lay_un)

theorem State.drawn_layIs {qq : Two LayState} (s : State) (h_s : LayIs qq s) :
    LayIs qq (State.drawn s) := by
  unfold State.drawn
  dsimp -failIfUnchanged only
  repeat' with_reducible first | assumption | dsimp only | (apply lay_mk; dsimp only; apply lay_un)

theorem State.faultStop_layIs {qq : Two LayState} (s : State) (b : Nat) (i : Nat) (shut : State → State) (h_s : LayIs qq s) (h_shut : ∀ (x0 : State), LayIs qq x0 → LayIs qq (shut x0)) :
    LayIs qq (State.faultStop s b i shut) := by
  unfold State.faultStop
  dsimp -failIfUnchanged only
  repeat' with_reducible first | assumption | (intro _) | apply State.updFwk_layIs | apply State.setRpend_layIs | apply State.setEn_layIs | apply State.setSt_layIs | apply h_shut | apply lay_ite | dsimp only | (apply lay_mk; dsimp only; apply lay_un) | split

theorem State.gated_layIs {qq : Two LayState} (s : State) (a : Nat) (f : State → State) (h_s : LayIs qq s) (h_f : ∀ (x0 : State), LayIs qq x0 → LayIs qq (f x0)) :
    LayIs qq (State.gated s a f) := by
  unfold State.gated
  dsimp -failIfUnchanged only
  repeat' with_reducible first | assumption | (intro _) | apply State.wr_layIs | apply h_f | apply lay_ite | dsimp only | split

theorem State.irq_layIs {qq : Two LayState} (s : State) (b : Nat) (i : Nat) (p : Nat) (bit : Nat) (h_s : LayIs qq s) :
    LayIs qq (State.irq s b i p bit) := by
  unfold State.irq
  dsimp -failIfUnchanged only
  repeat' with_reducible first | assumption | apply State.wr_layIs | dsimp only

theorem State.hwPost_layIs {qq : Two LayState} (s : State) (code : Nat) (sev : Nat) (source : Nat) (payload : List Byte) (h_s : LayIs qq s) :
    LayIs qq (State.hwPost s code sev source payload) := by
  unfold State.hwPost
  dsimp -failIfUnchanged only
  repeat' with_reducible first | assumption | (intro _) | apply State.irq_layIs | apply State.bump_layIs | apply lay_ite | dsimp only | (apply lay_mk; dsimp only; apply lay_un) | split

theorem State.levelShow_layIs {qq : Two LayState} (s : State) (h_s : LayIs qq s) :
    LayIs qq (State.levelShow s) := by
  unfold State.levelShow
  dsimp -failIfUnchanged only
  repeat' with_reducible first | assumption | (intro _) | apply State.wb_layIs | apply State.wr_layIs | apply lay_ite | dsimp only | (apply lay_mk; dsimp only; apply lay_un) | split

theorem State.setByte_layIs {q : Two LayState} (s : State) (a : Nat) (v : Byte) (h_s : LayIs q s) : LayIs q (State.setByte s a v) :=
  lay_setByte h_s a v

theorem State.setBytes_layIs {q : Two LayState} (s : State) (a : Nat) (l : List Byte) (h_s : LayIs q s) : LayIs q (State.setBytes s a l) := by
  induction l generalizing s a with
  | nil => exact h_s
  | cons v r ih => exact ih _ _ (State.setByte_layIs s a v h_s)

theorem State.setWord_layIs {qq : Two LayState} (s : State) (a : Nat) (v : Word) (h_s : LayIs qq s) :
    LayIs qq (State.setWord s a v) := by
  unfold State.setWord
  dsimp -failIfUnchanged only
  repeat' with_reducible first | assumption | apply State.setBytes_layIs | dsimp only

theorem State.spiresReset_layIs {qq : Two LayState} (s : State) (cls : Nat) (h_s : LayIs qq s) :
    LayIs qq (State.spiresReset s cls) := by
  unfold State.spiresReset
  dsimp -failIfUnchanged only
  repeat' with_reducible first | assumption | (apply lay_id; assumption) | (intro _) | apply lay_next | apply lay_ite | apply lay_ite1 | apply lay_ite3 | (refine lay_foldl ?_ (fun _ _ _ => ?_)) | (refine lay_foldl1 ?_ (fun _ _ _ => ?_)) | (refine lay_foldl2 ?_ (fun _ _ _ => ?_)) | (intro _) | dsimp only | (refine lay_pair (by assumption) ?_) | (refine lay_opt (by assumption) ?_) | (refine lay_opt1 (by assumption) ?_) | apply optLayIs_some | apply optLayIs_none | apply optLayIs_ite | (apply lay_mk; dsimp only; apply lay_un) | split

theorem State.softUnit_layIs {qq : Two LayState} (s : State) (b : Nat) (i : Nat) (h_s : LayIs qq s) :
    LayIs qq (State.softUnit s b i) := by
  unfold State.softUnit
  dsimp -failIfUnchanged only
  repeat' with_reducible first | assumption | (intro _) | apply State.spiresReset_layIs | apply lay_ite | dsimp only | (apply lay_mk; dsimp only; apply lay_un) | split

theorem State.softApply_layIs {qq : Two LayState} (s : State) (b : Nat) (i : Nat) (h_s : LayIs qq s) :
    LayIs qq (State.softApply s b i) := by
  unfold State.softApply
  dsimp -failIfUnchanged only
  repeat' with_reducible first | assumption | apply State.softUnit_layIs | apply State.levelShow_layIs | apply State.blockReset_layIs | dsimp only

theorem State.shutEnd_layIs {qq : Two LayState} (s : State) (b : Nat) (i : Nat) (h_s : LayIs qq s) :
    LayIs qq (State.shutEnd s b i) := by
  unfold State.shutEnd
  dsimp -failIfUnchanged only
  repeat' with_reducible first | assumption | (intro _) | apply State.irq_layIs | apply State.updFwk_layIs | apply State.setRpend_layIs | apply State.setSt_layIs | apply lay_ite | dsimp only | (apply lay_mk; dsimp only; apply lay_un) | split

theorem State.shutDone_layIs {qq : Two LayState} (s : State) (b : Nat) (i : Nat) (h_s : LayIs qq s) :
    LayIs qq (State.shutDone s b i) := by
  unfold State.shutDone
  dsimp -failIfUnchanged only
  repeat' with_reducible first | assumption | apply State.shutEnd_layIs | apply State.softApply_layIs | apply lay_ite | dsimp only | split

theorem State.storeRow_layIs {qq : Two LayState} (s : State) (a : Nat) (v : Word) (h_s : LayIs qq s) :
    LayIs qq (State.storeRow s a v) := by
  unfold State.storeRow
  dsimp -failIfUnchanged only
  repeat' with_reducible first | assumption | (intro _) | apply State.wr_layIs | apply lay_ite | (refine lay_foldl ?_ (fun _ _ _ => ?_)) | (refine lay_foldl1 ?_ (fun _ _ _ => ?_)) | (refine lay_foldl2 ?_ (fun _ _ _ => ?_)) | dsimp only | split

theorem State.trace_layIs {qq : Two LayState} (s : State) (group : Nat) (source : Nat) (kind : Nat) (payload : List Byte) (h_s : LayIs qq s) :
    LayIs qq (State.trace s group source kind payload) := by
  unfold State.trace
  dsimp -failIfUnchanged only
  repeat' with_reducible first | assumption | (intro _) | apply State.bump_layIs | apply State.wr_layIs | apply lay_ite | dsimp only | (apply lay_mk; dsimp only; apply lay_un) | split

theorem State.updAtbT_layIs {qq : Two LayState} (s : State) (t : Tower) (f : AtbTower → AtbTower) (h_s : LayIs qq s) :
    LayIs qq (State.updAtbT s t f) := by
  unfold State.updAtbT
  dsimp -failIfUnchanged only
  repeat' with_reducible first | assumption | (intro _) | dsimp only | (refine lay_pair (by assumption) ?_) | (refine lay_opt (by assumption) ?_) | (refine lay_opt1 (by assumption) ?_) | (apply lay_mk; dsimp only; apply lay_un) | split

theorem State.updChn_layIs {qq : Two LayState} (s : State) (t : Tower) (f : ChnState → ChnState) (h_s : LayIs qq s) :
    LayIs qq (State.updChn s t f) := by
  unfold State.updChn
  dsimp -failIfUnchanged only
  repeat' with_reducible first | assumption | (intro _) | dsimp only | (apply lay_mk; dsimp only; apply lay_un)

theorem State.updTwr_layIs {qq : Two LayState} (s : State) (t : Tower) (f : TwrState → TwrState) (h_s : LayIs qq s) :
    LayIs qq (State.updTwr s t f) := by
  unfold State.updTwr
  dsimp -failIfUnchanged only
  repeat' with_reducible first | assumption | (intro _) | dsimp only | (apply lay_mk; dsimp only; apply lay_un)

theorem State.updCpl_layIs {qq : Two LayState} (s : State) (t : Tower) (f : CplState → CplState) (h_s : LayIs qq s) :
    LayIs qq (State.updCpl s t f) := by
  unfold State.updCpl
  dsimp -failIfUnchanged only
  repeat' with_reducible first | assumption | (intro _) | apply State.updTwr_layIs | dsimp only | (apply lay_mk; dsimp only; apply lay_un)

theorem State.updEng_layIs {qq : Two LayState} (s : State) (e : Eng) (f : EngState → EngState) (h_s : LayIs qq s) :
    LayIs qq (State.updEng s e f) := by
  unfold State.updEng
  dsimp -failIfUnchanged only
  repeat' with_reducible first | assumption | (intro _) | dsimp only | (refine lay_pair (by assumption) ?_) | (refine lay_opt (by assumption) ?_) | (refine lay_opt1 (by assumption) ?_) | (apply lay_mk; dsimp only; apply lay_un) | split

theorem State.updLan_layIs {qq : Two LayState} (s : State) (t : Tower) (f : LanState → LanState) (h_s : LayIs qq s) :
    LayIs qq (State.updLan s t f) := by
  unfold State.updLan
  dsimp -failIfUnchanged only
  repeat' with_reducible first | assumption | (intro _) | apply State.updTwr_layIs | dsimp only | (apply lay_mk; dsimp only; apply lay_un)

theorem State.updSpire_layIs {qq : Two LayState} (s : State) (sp : Spire) (f : SpireState → SpireState) (h_s : LayIs qq s) :
    LayIs qq (State.updSpire s sp f) := by
  unfold State.updSpire
  dsimp -failIfUnchanged only
  repeat' with_reducible first | assumption | (apply lay_id; assumption) | (intro _) | apply lay_next | apply lay_ite | apply lay_ite1 | apply lay_ite3 | (refine lay_foldl ?_ (fun _ _ _ => ?_)) | (refine lay_foldl1 ?_ (fun _ _ _ => ?_)) | (refine lay_foldl2 ?_ (fun _ _ _ => ?_)) | (intro _) | dsimp only | (refine lay_pair (by assumption) ?_) | (refine lay_opt (by assumption) ?_) | (refine lay_opt1 (by assumption) ?_) | apply optLayIs_some | apply optLayIs_none | apply optLayIs_ite | (apply lay_mk; dsimp only; apply lay_un) | split

theorem State.updSpn_layIs {qq : Two LayState} (s : State) (f : SpnState → SpnState) (h_s : LayIs qq s) :
    LayIs qq (State.updSpn s f) := by
  unfold State.updSpn
  dsimp -failIfUnchanged only
  repeat' with_reducible first | assumption | (intro _) | dsimp only | (refine lay_pair (by assumption) ?_) | (refine lay_opt (by assumption) ?_) | (refine lay_opt1 (by assumption) ?_) | (apply lay_mk; dsimp only; apply lay_un) | split

theorem State.updSrv_layIs {qq : Two LayState} (s : State) (t : Tower) (f : SrvState → SrvState) (h_s : LayIs qq s) :
    LayIs qq (State.updSrv s t f) := by
  unfold State.updSrv
  dsimp -failIfUnchanged only
  repeat' with_reducible first | assumption | (intro _) | dsimp only | (apply lay_mk; dsimp only; apply lay_un)

theorem State.wrI_layIs {qq : Two LayState} (s : State) (f : Fld) (x : Int) (h_s : LayIs qq s) :
    LayIs qq (State.wrI s f x) := by
  unfold State.wrI
  dsimp -failIfUnchanged only
  repeat' with_reducible first | assumption | apply State.wr_layIs | dsimp only

theorem State.rand_layIs {qq : Two LayState} (s : State) (n : Nat) (h_s : LayIs qq s) :
    LayIs qq (State.rand s n).2 := by
  unfold State.rand
  dsimp -failIfUnchanged only
  repeat' with_reducible first | assumption | (intro _) | apply State.drawn_layIs | apply State.bump_layIs | apply lay_ite | apply lay_ite1 | dsimp only | (apply lay_mk; dsimp only; apply lay_un) | split

theorem State.setWords_layIs {q : Two LayState} (s : State) (a : Nat) (l : List Word) (h_s : LayIs q s) : LayIs q (State.setWords s a l) := by
  induction l generalizing s a with
  | nil => exact h_s
  | cons v r ih => exact ih _ _ (by unfold State.setWord; exact State.setBytes_layIs _ _ _ h_s)

theorem State.headWarn_layIs {qq : Two LayState} (s : State) (t : Tower) (f : Fld) (h : Nat) (bit : Nat) (h_s : LayIs qq s) :
    LayIs qq (State.headWarn s t f h bit) := by
  unfold State.headWarn
  dsimp -failIfUnchanged only
  repeat' with_reducible first | assumption | apply State.hwPost_layIs | apply State.irq_layIs | apply State.wr_layIs | apply lay_ite | dsimp only | split

theorem State.lanAssist_layIs {qq : Two LayState} (s : State) (t : Tower) (h_s : LayIs qq s) :
    LayIs qq (State.lanAssist s t) := by
  unfold State.lanAssist
  dsimp -failIfUnchanged only
  repeat' with_reducible first | assumption | (intro _) | apply State.updLan_layIs | apply State.updCpl_layIs | apply lay_ite | dsimp only | (apply lay_mk; dsimp only; apply lay_un) | split

theorem State.note_layIs {qq : Two LayState} (s : State) (t : Tower) (owner : Nat) (w : Word) (h_s : LayIs qq s) :
    LayIs qq (State.note s t owner w) := by
  unfold State.note
  dsimp -failIfUnchanged only
  repeat' with_reducible first | assumption | (intro _) | apply State.updSpire_layIs | dsimp only | (apply lay_mk; dsimp only; apply lay_un)

theorem State.setAG_layIs {qq : Two LayState} (s : State) (t : Tower) (v : Bool) (h_s : LayIs qq s) :
    LayIs qq (State.setAG s t v) := by
  unfold State.setAG
  dsimp -failIfUnchanged only
  repeat' with_reducible first | assumption | apply State.wb_layIs | dsimp only

theorem State.dropAG_layIs {qq : Two LayState} (s : State) (t : Tower) (h_s : LayIs qq s) :
    LayIs qq (State.dropAG s t) := by
  unfold State.dropAG
  dsimp -failIfUnchanged only
  repeat' with_reducible first | assumption | apply State.setAG_layIs | apply State.lanAssist_layIs | apply lay_ite | dsimp only | split

theorem State.sectorEnd_layIs {qq : Two LayState} (s : State) (t : Tower) (wout : Nat) (h_s : LayIs qq s) :
    LayIs qq (State.sectorEnd s t wout) := by
  unfold State.sectorEnd
  dsimp -failIfUnchanged only
  repeat' with_reducible first | assumption | (intro _) | apply State.note_layIs | apply State.updTwr_layIs | apply State.irq_layIs | apply State.bump_layIs | apply State.wr_layIs | apply lay_ite | dsimp only | (refine lay_pair (by assumption) ?_) | (refine lay_opt (by assumption) ?_) | (refine lay_opt1 (by assumption) ?_) | (apply lay_mk; dsimp only; apply lay_un) | split

theorem State.cutSector_layIs {qq : Two LayState} (s : State) (t : Tower) (h_s : LayIs qq s) :
    LayIs qq (State.cutSector s t) := by
  unfold State.cutSector
  dsimp -failIfUnchanged only
  repeat' with_reducible first | assumption | apply State.sectorEnd_layIs | apply lay_ite | dsimp only | (refine lay_pair (by assumption) ?_) | (refine lay_opt (by assumption) ?_) | (refine lay_opt1 (by assumption) ?_) | split

theorem State.dropWG_layIs {qq : Two LayState} (s : State) (t : Tower) (h_s : LayIs qq s) :
    LayIs qq (State.dropWG s t) := by
  unfold State.dropWG
  dsimp -failIfUnchanged only
  repeat' with_reducible first | assumption | apply State.cutSector_layIs | apply State.wr_layIs | apply lay_ite | dsimp only | split

theorem State.regate_layIs {qq : Two LayState} (s : State) (t : Tower) (h_s : LayIs qq s) :
    LayIs qq (State.regate s t) := by
  unfold State.regate
  dsimp -failIfUnchanged only
  repeat' with_reducible first | assumption | (intro _) | apply State.dropWG_layIs | apply State.dropAG_layIs | apply lay_ite | dsimp only | split

theorem State.cmpTrace_layIs {qq : Two LayState} (s : State) (n : Nat) (status : Nat) (h_s : LayIs qq s) :
    LayIs qq (State.cmpTrace s n status) := by
  unfold State.cmpTrace
  dsimp -failIfUnchanged only
  repeat' with_reducible first | assumption | apply State.trace_layIs | dsimp only

theorem State.cmpEnd_layIs {qq : Two LayState} (s : State) (n : Nat) (status : Nat) (h_s : LayIs qq s) :
    LayIs qq (State.cmpEnd s n status) := by
  unfold State.cmpEnd
  dsimp -failIfUnchanged only
  repeat' with_reducible first | assumption | apply State.cmpTrace_layIs | apply State.wr_layIs | dsimp only

theorem State.cmpFlush_layIs {qq : Two LayState} (s : State) (n : Nat) (h_s : LayIs qq s) :
    LayIs qq (State.cmpFlush s n) := by
  unfold State.cmpFlush
  dsimp -failIfUnchanged only
  repeat' with_reducible first | assumption | (intro _) | apply State.cmpEnd_layIs | apply State.cutSector_layIs | apply lay_ite | dsimp only | split

theorem State.cmpFlushT_layIs {qq : Two LayState} (s : State) (t : Tower) (h_s : LayIs qq s) :
    LayIs qq (State.cmpFlushT s t) := by
  unfold State.cmpFlushT
  dsimp -failIfUnchanged only
  repeat' with_reducible first | assumption | (intro _) | apply State.cmpFlush_layIs | (refine lay_foldl ?_ (fun _ _ _ => ?_)) | (refine lay_foldl1 ?_ (fun _ _ _ => ?_)) | (refine lay_foldl2 ?_ (fun _ _ _ => ?_)) | dsimp only

theorem State.dropGates_layIs {qq : Two LayState} (s : State) (t : Tower) (h_s : LayIs qq s) :
    LayIs qq (State.dropGates s t) := by
  unfold State.dropGates
  dsimp -failIfUnchanged only
  repeat' with_reducible first | assumption | apply State.dropWG_layIs | apply State.dropAG_layIs | dsimp only

theorem State.trcEvent_layIs {qq : Two LayState} (s : State) (e : Eng) (code : Nat) (h_s : LayIs qq s) :
    LayIs qq (State.trcEvent s e code) := by
  unfold State.trcEvent
  dsimp -failIfUnchanged only
  repeat' with_reducible first | assumption | (intro _) | apply State.updEng_layIs | dsimp only | (apply lay_mk; dsimp only; apply lay_un)

theorem State.setOtwi_layIs {qq : Two LayState} (s : State) (t : Tower) (h_s : LayIs qq s) :
    LayIs qq (State.setOtwi s t) := by
  unfold State.setOtwi
  dsimp -failIfUnchanged only
  repeat' with_reducible first | assumption | (intro _) | apply State.regate_layIs | apply State.updSrv_layIs | apply State.irq_layIs | apply State.bump_layIs | apply State.wr_layIs | apply lay_ite | dsimp only | (apply lay_mk; dsimp only; apply lay_un) | split

theorem State.regateBoth_layIs {qq : Two LayState} (s : State) (h_s : LayIs qq s) :
    LayIs qq (State.regateBoth s) := by
  unfold State.regateBoth
  dsimp -failIfUnchanged only
  repeat' with_reducible first | assumption | apply State.regate_layIs | dsimp only

theorem State.engRefresh_layIs {qq : Two LayState} (s : State) (e : Eng) (h_s : LayIs qq s) :
    LayIs qq (State.engRefresh s e) := by
  unfold State.engRefresh
  dsimp -failIfUnchanged only
  repeat' with_reducible first | assumption | (intro _) | apply State.updEng_layIs | apply State.wr_layIs | apply lay_ite | dsimp only | (apply lay_mk; dsimp only; apply lay_un) | split

theorem State.towerTick_layIs {qq : Two LayState} (s : State) (t : Tower) (sub : Nat) (h_s : LayIs qq s) :
    LayIs qq (State.towerTick s t sub) := by
  unfold State.towerTick
  dsimp -failIfUnchanged only
  repeat' with_reducible first | assumption | (intro _) | apply State.updEng_layIs | apply lay_ite | dsimp only | (apply lay_mk; dsimp only; apply lay_un) | split

theorem execAtbObsOffsetWrite_layIs {qq : Two LayState} (val : Word) (s : State) (h_s : LayIs qq s) :
    Out.LayIs qq (execAtbObsOffsetWrite val s) := by
  unfold execAtbObsOffsetWrite
  dsimp -failIfUnchanged only
  repeat' with_reducible first | assumption | (intro _) | apply State.gated_layIs | apply State.wr_layIs | apply lay_next | apply lay_ite3 | dsimp only

theorem execAtbSkewWrite_layIs {qq : Two LayState} (t : Tower) (val : Word) (s : State) (h_s : LayIs qq s) :
    Out.LayIs qq (execAtbSkewWrite t val s) := by
  unfold execAtbSkewWrite
  dsimp -failIfUnchanged only
  repeat' with_reducible first | assumption | (intro _) | apply State.gated_layIs | apply State.wr_layIs | apply lay_next | apply lay_ite3 | dsimp only

theorem execCmpTestFlush_layIs {qq : Two LayState} (val : Word) (s : State) (h_s : LayIs qq s) :
    Out.LayIs qq (execCmpTestFlush val s) := by
  unfold execCmpTestFlush
  dsimp -failIfUnchanged only
  repeat' with_reducible first | assumption | (intro _) | apply State.cmpFlushT_layIs | apply State.gated_layIs | apply lay_next | apply lay_ite3 | apply lay_ite | dsimp only | split

theorem execCurrentSubtick_layIs {qq : Two LayState} (t : Tower) (sub : Nat) (s : State) (h_s : LayIs qq s) :
    Out.LayIs qq (execCurrentSubtick t sub s) := by
  unfold execCurrentSubtick
  dsimp -failIfUnchanged only
  repeat' with_reducible first | assumption | apply State.towerTick_layIs | apply lay_next | apply lay_ite3 | apply lay_ite | dsimp only | split

theorem execPositionTick_layIs {qq : Two LayState} (t : Tower) (s : State) (h_s : LayIs qq s) :
    Out.LayIs qq (execPositionTick t s) := by
  unfold execPositionTick
  dsimp -failIfUnchanged only
  repeat' with_reducible first | assumption | apply State.towerTick_layIs | apply lay_next | apply lay_ite3 | apply lay_ite | dsimp only | split

theorem execServoWindowClose_layIs {qq : Two LayState} (t : Tower) (s : State) (h_s : LayIs qq s) :
    Out.LayIs qq (execServoWindowClose t s) := by
  unfold execServoWindowClose
  dsimp -failIfUnchanged only
  repeat' with_reducible first | assumption | (intro _) | apply State.updAtbT_layIs | apply lay_next | apply lay_ite3 | apply lay_ite | dsimp only | (apply lay_mk; dsimp only; apply lay_un) | split

theorem execServoWindowOpen_layIs {qq : Two LayState} (t : Tower) (s : State) (h_s : LayIs qq s) :
    Out.LayIs qq (execServoWindowOpen t s) := by
  unfold execServoWindowOpen
  dsimp -failIfUnchanged only
  repeat' with_reducible first | assumption | (intro _) | apply State.updAtbT_layIs | apply lay_next | apply lay_ite3 | apply lay_ite | dsimp only | (apply lay_mk; dsimp only; apply lay_un) | split

theorem State.addCrossing_layIs {qq : Two LayState} (s : State) (fwd : Bool) (interval : Nat) (h_s : LayIs qq s) :
    LayIs qq (State.addCrossing s fwd interval) := by
  unfold State.addCrossing
  dsimp -failIfUnchanged only
  repeat' with_reducible first | assumption | (intro _) | apply State.updSpn_layIs | apply lay_ite | dsimp only | (apply lay_mk; dsimp only; apply lay_un) | split

theorem State.setGates_layIs {qq : Two LayState} (s : State) (p : Nat) (off : Int) (h_s : LayIs qq s) :
    LayIs qq (State.setGates s p off) := by
  unfold State.setGates
  dsimp -failIfUnchanged only
  repeat' with_reducible first | assumption | (intro _) | apply State.updSpn_layIs | apply State.wr_layIs | apply lay_ite | dsimp only | (apply lay_mk; dsimp only; apply lay_un) | split

theorem State.spnIrq_layIs {qq : Two LayState} (s : State) (bit : Nat) (h_s : LayIs qq s) :
    LayIs qq (State.spnIrq s bit) := by
  unfold State.spnIrq
  dsimp -failIfUnchanged only
  repeat' with_reducible first | assumption | apply State.irq_layIs | dsimp only

theorem State.due_layIs {qq : Two LayState} (s : State) (m : Nat) (code : Nat) (h_s : LayIs qq s) :
    LayIs qq (State.due s m code) := by
  unfold State.due
  dsimp -failIfUnchanged only
  repeat' with_reducible first | assumption | (intro _) | apply State.updSpn_layIs | apply lay_ite | dsimp only | (apply lay_mk; dsimp only; apply lay_un) | split

theorem State.spnEvt_layIs {qq : Two LayState} (s : State) (kind : Nat) (h_s : LayIs qq s) :
    LayIs qq (State.spnEvt s kind) := by
  unfold State.spnEvt
  dsimp -failIfUnchanged only
  repeat' with_reducible first | assumption | (intro _) | apply State.hwPost_layIs | apply State.wr_layIs | dsimp only

theorem State.syncLose_layIs {qq : Two LayState} (s : State) (cause : Nat) (h_s : LayIs qq s) :
    LayIs qq (State.syncLose s cause) := by
  unfold State.syncLose
  dsimp -failIfUnchanged only
  repeat' with_reducible first | assumption | (intro _) | apply State.spnEvt_layIs | apply State.spnIrq_layIs | apply State.updSpn_layIs | apply State.wr_layIs | apply lay_ite | dsimp only | (apply lay_mk; dsimp only; apply lay_un) | split

theorem State.spnShutDone_layIs {qq : Two LayState} (s : State) (h_s : LayIs qq s) :
    LayIs qq (State.spnShutDone s) := by
  unfold State.spnShutDone
  dsimp -failIfUnchanged only
  repeat' with_reducible first | assumption | apply State.engRefresh_layIs | apply State.shutDone_layIs | dsimp only

theorem State.setSpeed_layIs {qq : Two LayState} (s : State) (v : Nat) (rev : Bool) (h_s : LayIs qq s) :
    LayIs qq (State.setSpeed s v rev) := by
  unfold State.setSpeed
  dsimp -failIfUnchanged only
  repeat' with_reducible first | assumption | apply State.wb_layIs | apply State.wr_layIs | dsimp only

theorem State.recapture_layIs {qq : Two LayState} (s : State) (angle : BitVec 24) (h_s : LayIs qq s) :
    LayIs qq (State.recapture s angle) := by
  unfold State.recapture
  dsimp -failIfUnchanged only
  repeat' with_reducible first | assumption | (intro _) | apply State.setSpeed_layIs | apply State.updSpn_layIs | apply lay_ite | dsimp only | (apply lay_mk; dsimp only; apply lay_un) | split

theorem State.spnRefuse_layIs {qq : Two LayState} (s : State) (h_s : LayIs qq s) :
    LayIs qq (State.spnRefuse s) := by
  unfold State.spnRefuse
  dsimp -failIfUnchanged only
  repeat' with_reducible first | assumption | apply State.spnEvt_layIs | apply State.spnIrq_layIs | dsimp only

theorem execAlignDone_layIs {qq : Two LayState} (s : State) (h_s : LayIs qq s) :
    Out.LayIs qq (execAlignDone s) := by
  unfold execAlignDone
  dsimp -failIfUnchanged only
  repeat' with_reducible first | assumption | apply State.due_layIs | apply lay_next | apply lay_ite3 | dsimp only

theorem execBemfCrossing_layIs {qq : Two LayState} (fwd : Bool) (amp : Nat) (interval : Nat) (sinceEdge : Nat) (angle : BitVec 24) (s : State) (h_s : LayIs qq s) :
    Out.LayIs qq (execBemfCrossing fwd amp interval sinceEdge angle s) := by
  unfold execBemfCrossing
  dsimp -failIfUnchanged only
  repeat' with_reducible first | assumption | (intro _) | apply State.recapture_layIs | apply State.setSpeed_layIs | apply State.addCrossing_layIs | apply State.updSpn_layIs | apply lay_next | apply lay_ite3 | apply lay_ite | dsimp only | (apply lay_mk; dsimp only; apply lay_un) | split

theorem execBrakeRevEnd_layIs {qq : Two LayState} (s : State) (h_s : LayIs qq s) :
    Out.LayIs qq (execBrakeRevEnd s) := by
  unfold execBrakeRevEnd
  dsimp -failIfUnchanged only
  repeat' with_reducible first | assumption | apply State.due_layIs | apply lay_next | apply lay_ite3 | dsimp only

theorem execBrakeStopDone_layIs {qq : Two LayState} (s : State) (h_s : LayIs qq s) :
    Out.LayIs qq (execBrakeStopDone s) := by
  unfold execBrakeStopDone
  dsimp -failIfUnchanged only
  repeat' with_reducible first | assumption | apply State.due_layIs | apply lay_next | apply lay_ite3 | dsimp only

theorem execCurrentConversion_layIs {qq : Two LayState} (j : Nat) (iu : Int) (iv : Int) (iw : Int) (s : State) (h_s : LayIs qq s) :
    Out.LayIs qq (execCurrentConversion j iu iv iw s) := by
  unfold execCurrentConversion
  dsimp -failIfUnchanged only
  repeat' with_reducible first | assumption | (intro _) | apply State.setGates_layIs | apply State.updSpn_layIs | apply State.bump_layIs | apply lay_next | apply lay_ite3 | apply lay_ite | dsimp only | (apply lay_mk; dsimp only; apply lay_un) | split

theorem execFaultStopParked_layIs {qq : Two LayState} (s : State) (h_s : LayIs qq s) :
    Out.LayIs qq (execFaultStopParked s) := by
  unfold execFaultStopParked
  dsimp -failIfUnchanged only
  repeat' with_reducible first | assumption | apply State.spnShutDone_layIs | apply lay_next | apply lay_ite3 | apply lay_ite | dsimp only | split

theorem execIpsAttemptDone_layIs {qq : Two LayState} (peaks : List Nat) (s : State) (h_s : LayIs qq s) :
    Out.LayIs qq (execIpsAttemptDone peaks s) := by
  unfold execIpsAttemptDone
  dsimp -failIfUnchanged only
  repeat' with_reducible first | assumption | (intro _) | apply State.due_layIs | apply State.updSpn_layIs | apply State.wr_layIs | apply lay_next | apply lay_ite3 | apply lay_ite | apply lay_ite1 | dsimp only | (refine lay_pair (by assumption) ?_) | (refine lay_opt (by assumption) ?_) | (refine lay_opt1 (by assumption) ?_) | (apply lay_mk; dsimp only; apply lay_un) | split

theorem execListenEnd_layIs {qq : Two LayState} (s : State) (h_s : LayIs qq s) :
    Out.LayIs qq (execListenEnd s) := by
  unfold execListenEnd
  dsimp -failIfUnchanged only
  repeat' with_reducible first | assumption | apply State.setSpeed_layIs | apply State.due_layIs | apply lay_next | apply lay_ite3 | apply lay_ite | dsimp only | split

theorem execRampTimeout_layIs {qq : Two LayState} (s : State) (h_s : LayIs qq s) :
    Out.LayIs qq (execRampTimeout s) := by
  unfold execRampTimeout
  dsimp -failIfUnchanged only
  repeat' with_reducible first | assumption | apply State.due_layIs | apply lay_next | apply lay_ite3 | dsimp only

theorem execRecapTimeout_layIs {qq : Two LayState} (s : State) (h_s : LayIs qq s) :
    Out.LayIs qq (execRecapTimeout s) := by
  unfold execRecapTimeout
  dsimp -failIfUnchanged only
  repeat' with_reducible first | assumption | apply State.due_layIs | apply lay_next | apply lay_ite3 | dsimp only

theorem execSpnGateForceWrite_layIs {qq : Two LayState} (val : Word) (s : State) (h_s : LayIs qq s) :
    Out.LayIs qq (execSpnGateForceWrite val s) := by
  unfold execSpnGateForceWrite
  dsimp -failIfUnchanged only
  repeat' with_reducible first | assumption | (intro _) | apply State.spnRefuse_layIs | apply State.gated_layIs | apply State.wr_layIs | apply lay_next | apply lay_ite3 | apply lay_ite | dsimp only | split

theorem execSyncInPulse_layIs {qq : Two LayState} (angle : BitVec 24) (intervalNs : Nat) (overRate : Bool) (s : State) (h_s : LayIs qq s) :
    Out.LayIs qq (execSyncInPulse angle intervalNs overRate s) := by
  unfold execSyncInPulse
  dsimp -failIfUnchanged only
  repeat' with_reducible first | assumption | (intro _) | apply State.syncLose_layIs | apply State.spnEvt_layIs | apply State.spnIrq_layIs | apply State.wrI_layIs | apply State.updSpn_layIs | apply State.wr_layIs | apply lay_next | apply lay_ite3 | apply lay_ite | dsimp only | (apply lay_mk; dsimp only; apply lay_un) | split

theorem execSyncPulseTimeout_layIs {qq : Two LayState} (s : State) (h_s : LayIs qq s) :
    Out.LayIs qq (execSyncPulseTimeout s) := by
  unfold execSyncPulseTimeout
  dsimp -failIfUnchanged only
  repeat' with_reducible first | assumption | apply State.syncLose_layIs | apply lay_next | apply lay_ite3 | dsimp only

theorem State.engIrq_layIs {qq : Two LayState} (s : State) (e : Eng) (p : Nat) (bit : Nat) (h_s : LayIs qq s) :
    LayIs qq (State.engIrq s e p bit) := by
  unfold State.engIrq
  dsimp -failIfUnchanged only
  repeat' with_reducible first | assumption | apply State.irq_layIs | dsimp only

theorem State.doSwap_layIs {qq : Two LayState} (s : State) (e : Eng) (h_s : LayIs qq s) :
    LayIs qq (State.doSwap s e) := by
  unfold State.doSwap
  dsimp -failIfUnchanged only
  repeat' with_reducible first | assumption | apply State.engIrq_layIs | apply State.trcEvent_layIs | apply State.wr_layIs | dsimp only

theorem State.coefInc_layIs {qq : Two LayState} (s : State) (e : Eng) (h_s : LayIs qq s) :
    LayIs qq (State.coefInc s e) := by
  unfold State.coefInc
  dsimp -failIfUnchanged only
  repeat' with_reducible first | assumption | apply State.wr_layIs | apply lay_ite | dsimp only | split

theorem State.idleSwap_layIs {qq : Two LayState} (s : State) (e : Eng) (h_s : LayIs qq s) :
    LayIs qq (State.idleSwap s e) := by
  unfold State.idleSwap
  dsimp -failIfUnchanged only
  repeat' with_reducible first | assumption | apply State.doSwap_layIs | apply lay_ite | dsimp only | split

theorem State.profShow_layIs {qq : Two LayState} (s : State) (e : Eng) (h_s : LayIs qq s) :
    LayIs qq (State.profShow s e) := by
  unfold State.profShow
  dsimp -failIfUnchanged only
  repeat' with_reducible first | assumption | (intro _) | apply State.wr_layIs | dsimp only

theorem State.setProfP_layIs {qq : Two LayState} (s : State) (e : Eng) (p : Int) (h_s : LayIs qq s) :
    LayIs qq (State.setProfP s e p) := by
  unfold State.setProfP
  dsimp -failIfUnchanged only
  repeat' with_reducible first | assumption | (intro _) | apply State.profShow_layIs | apply State.updEng_layIs | apply lay_ite | dsimp only | (apply lay_mk; dsimp only; apply lay_un) | split

theorem execCoefWrite_layIs {qq : Two LayState} (e : Eng) (val : Word) (s : State) (h_s : LayIs qq s) :
    Out.LayIs qq (execCoefWrite e val s) := by
  unfold execCoefWrite
  dsimp -failIfUnchanged only
  repeat' with_reducible first | assumption | (intro _) | apply State.coefInc_layIs | apply State.engIrq_layIs | apply State.updEng_layIs | apply State.gated_layIs | apply lay_next | apply lay_ite3 | apply lay_ite | dsimp only | (apply lay_mk; dsimp only; apply lay_un) | split

theorem execEngCntClr_layIs {qq : Two LayState} (e : Eng) (s : State) (h_s : LayIs qq s) :
    Out.LayIs qq (execEngCntClr e s) := by
  unfold execEngCntClr
  dsimp -failIfUnchanged only
  repeat' with_reducible first | assumption | (intro _) | apply State.gated_layIs | apply State.wr_layIs | apply lay_next | apply lay_ite3 | dsimp only

theorem execEngSwap_layIs {qq : Two LayState} (e : Eng) (s : State) (h_s : LayIs qq s) :
    Out.LayIs qq (execEngSwap e s) := by
  unfold execEngSwap
  dsimp -failIfUnchanged only
  repeat' with_reducible first | assumption | (intro _) | apply State.idleSwap_layIs | apply State.gated_layIs | apply State.wr_layIs | apply lay_next | apply lay_ite3 | dsimp only

theorem execFaultClr_layIs {qq : Two LayState} (e : Eng) (s : State) (h_s : LayIs qq s) :
    Out.LayIs qq (execFaultClr e s) := by
  unfold execFaultClr
  dsimp -failIfUnchanged only
  repeat' with_reducible first | assumption | (intro _) | apply State.engRefresh_layIs | apply State.updEng_layIs | apply State.gated_layIs | apply lay_next | apply lay_ite3 | apply lay_ite | dsimp only | (apply lay_mk; dsimp only; apply lay_un) | split

theorem execProfPWrite_layIs {qq : Two LayState} (t : Tower) (val : Word) (s : State) (h_s : LayIs qq s) :
    Out.LayIs qq (execProfPWrite t val s) := by
  unfold execProfPWrite
  dsimp -failIfUnchanged only
  repeat' with_reducible first | assumption | (intro _) | apply State.setProfP_layIs | apply State.gated_layIs | apply lay_next | apply lay_ite3 | dsimp only

theorem execSlotCfgWrite_layIs {qq : Two LayState} (e : Eng) (kind : Nat) (n : Nat) (val : Word) (s : State) (h_s : LayIs qq s) :
    Out.LayIs qq (execSlotCfgWrite e kind n val s) := by
  unfold execSlotCfgWrite
  dsimp -failIfUnchanged only
  repeat' with_reducible first | assumption | (intro _) | apply State.engIrq_layIs | apply State.gated_layIs | apply State.setReg_layIs | apply lay_next | apply lay_ite3 | apply lay_ite | apply lay_ite1 | dsimp only | split

theorem execSlotEnWrite_layIs {qq : Two LayState} (e : Eng) (val : Word) (s : State) (h_s : LayIs qq s) :
    Out.LayIs qq (execSlotEnWrite e val s) := by
  unfold execSlotEnWrite
  dsimp -failIfUnchanged only
  repeat' with_reducible first | assumption | (intro _) | apply State.idleSwap_layIs | apply State.engIrq_layIs | apply State.updEng_layIs | apply State.gated_layIs | apply State.wr_layIs | apply lay_next | apply lay_ite3 | apply lay_ite | dsimp only | (refine lay_pair (by assumption) ?_) | (refine lay_opt (by assumption) ?_) | (refine lay_opt1 (by assumption) ?_) | (apply lay_mk; dsimp only; apply lay_un) | split

theorem execTraceArm_layIs {qq : Two LayState} (e : Eng) (s : State) (h_s : LayIs qq s) :
    Out.LayIs qq (execTraceArm e s) := by
  unfold execTraceArm
  dsimp -failIfUnchanged only
  repeat' with_reducible first | assumption | (intro _) | apply State.updEng_layIs | apply State.gated_layIs | apply State.wr_layIs | apply lay_next | apply lay_ite3 | dsimp only | (apply lay_mk; dsimp only; apply lay_un)

theorem execTraceForce_layIs {qq : Two LayState} (e : Eng) (s : State) (h_s : LayIs qq s) :
    Out.LayIs qq (execTraceForce e s) := by
  unfold execTraceForce
  dsimp -failIfUnchanged only
  repeat' with_reducible first | assumption | (intro _) | apply State.updEng_layIs | apply State.gated_layIs | apply lay_next | apply lay_ite3 | apply lay_ite | dsimp only | (apply lay_mk; dsimp only; apply lay_un) | split

theorem State.srvIrq_layIs {qq : Two LayState} (s : State) (t : Tower) (bit : Nat) (h_s : LayIs qq s) :
    LayIs qq (State.srvIrq s t bit) := by
  unfold State.srvIrq
  dsimp -failIfUnchanged only
  repeat' with_reducible first | assumption | apply State.irq_layIs | dsimp only

theorem State.shockSet_layIs {qq : Two LayState} (s : State) (t : Tower) (h_s : LayIs qq s) :
    LayIs qq (State.shockSet s t) := by
  unfold State.shockSet
  dsimp -failIfUnchanged only
  repeat' with_reducible first | assumption | (intro _) | apply State.srvIrq_layIs | apply State.setOtwi_layIs | apply State.updSrv_layIs | apply State.wr_layIs | apply lay_ite | dsimp only | (apply lay_mk; dsimp only; apply lay_un) | split

theorem State.shockConv_layIs {qq : Two LayState} (s : State) (t : Tower) (s0 : Int) (s1 : Int) (h_s : LayIs qq s) :
    LayIs qq (State.shockConv s t s0 s1) := by
  unfold State.shockConv
  dsimp -failIfUnchanged only
  repeat' with_reducible first | assumption | (intro _) | apply State.shockSet_layIs | apply State.wrI_layIs | apply lay_ite | dsimp only | split

theorem State.srvShutDone_layIs {qq : Two LayState} (s : State) (t : Tower) (h_s : LayIs qq s) :
    LayIs qq (State.srvShutDone s t) := by
  unfold State.srvShutDone
  dsimp -failIfUnchanged only
  repeat' with_reducible first | assumption | apply State.engRefresh_layIs | apply State.shutDone_layIs | dsimp only

theorem execGenMoveEnd_layIs {qq : Two LayState} (t : Tower) (s : State) (h_s : LayIs qq s) :
    Out.LayIs qq (execGenMoveEnd t s) := by
  unfold execGenMoveEnd
  dsimp -failIfUnchanged only
  repeat' with_reducible first | assumption | (intro _) | apply State.updSrv_layIs | apply lay_next | apply lay_ite3 | apply lay_ite | dsimp only | (refine lay_pair (by assumption) ?_) | (refine lay_opt (by assumption) ?_) | (refine lay_opt1 (by assumption) ?_) | (apply lay_mk; dsimp only; apply lay_un) | split

theorem execGeneratorTick_layIs {qq : Two LayState} (t : Tower) (vaux : Int) (vcmI : Int) (s : State) (h_s : LayIs qq s) :
    Out.LayIs qq (execGeneratorTick t vaux vcmI s) := by
  unfold execGeneratorTick
  dsimp -failIfUnchanged only
  repeat' with_reducible first | assumption | (intro _) | apply State.updSrv_layIs | apply lay_next | apply lay_ite3 | apply lay_ite | dsimp only | (refine lay_pair (by assumption) ?_) | (refine lay_opt (by assumption) ?_) | (refine lay_opt1 (by assumption) ?_) | (apply lay_mk; dsimp only; apply lay_un) | split

theorem execShockConversion_layIs {qq : Two LayState} (s0 : Int) (s1 : Int) (s : State) (h_s : LayIs qq s) :
    Out.LayIs qq (execShockConversion s0 s1 s) := by
  unfold execShockConversion
  dsimp -failIfUnchanged only
  repeat' with_reducible first | assumption | apply State.shockConv_layIs | apply lay_next | apply lay_ite3 | dsimp only

theorem execSrvHeadWrite_layIs {qq : Two LayState} (t : Tower) (val : Word) (s : State) (h_s : LayIs qq s) :
    Out.LayIs qq (execSrvHeadWrite t val s) := by
  unfold execSrvHeadWrite
  dsimp -failIfUnchanged only
  repeat' with_reducible first | assumption | (intro _) | apply State.srvIrq_layIs | apply State.setOtwi_layIs | apply State.updSrv_layIs | apply State.gated_layIs | apply State.wr_layIs | apply lay_next | apply lay_ite3 | apply lay_ite | dsimp only | (apply lay_mk; dsimp only; apply lay_un) | split

theorem State.chnCoefInc_layIs {qq : Two LayState} (s : State) (t : Tower) (h_s : LayIs qq s) :
    LayIs qq (State.chnCoefInc s t) := by
  unfold State.chnCoefInc
  dsimp -failIfUnchanged only
  repeat' with_reducible first | assumption | apply State.wr_layIs | apply lay_ite | dsimp only | split

theorem State.chnIrq_layIs {qq : Two LayState} (s : State) (t : Tower) (bit : Nat) (h_s : LayIs qq s) :
    LayIs qq (State.chnIrq s t bit) := by
  unfold State.chnIrq
  dsimp -failIfUnchanged only
  repeat' with_reducible first | assumption | apply State.irq_layIs | dsimp only

theorem State.setPin_layIs {qq : Two LayState} (s : State) (t : Tower) (k : Nat) (v : Bool) (h_s : LayIs qq s) :
    LayIs qq (State.setPin s t k v) := by
  unfold State.setPin
  dsimp -failIfUnchanged only
  repeat' with_reducible first | assumption | (intro _) | apply State.wb_layIs | apply State.wr_layIs | dsimp only

theorem State.setDec_layIs {qq : Two LayState} (s : State) (t : Tower) (u : Unit3) (d : Option Decode) (h_s : LayIs qq s) :
    LayIs qq (State.setDec s t u d) := by
  unfold State.setDec
  dsimp -failIfUnchanged only
  repeat' with_reducible first | assumption | (intro _) | apply State.updChn_layIs | apply State.wb_layIs | dsimp only | (refine lay_pair (by assumption) ?_) | (refine lay_opt (by assumption) ?_) | (refine lay_opt1 (by assumption) ?_) | (apply lay_mk; dsimp only; apply lay_un) | split

theorem State.pinWrite_layIs {qq : Two LayState} (s : State) (t : Tower) (op : Bool) (val : Word) (h_s : LayIs qq s) :
    LayIs qq (State.pinWrite s t op val) := by
  unfold State.pinWrite
  dsimp -failIfUnchanged only
  repeat' with_reducible first | assumption | (intro _) | apply State.setPin_layIs | apply State.chnIrq_layIs | apply State.wr_layIs | apply lay_ite | dsimp only | split

theorem execChnCntClr_layIs {qq : Two LayState} (t : Tower) (val : Word) (s : State) (h_s : LayIs qq s) :
    Out.LayIs qq (execChnCntClr t val s) := by
  unfold execChnCntClr
  dsimp -failIfUnchanged only
  repeat' with_reducible first | assumption | (intro _) | apply State.gated_layIs | apply State.setReg_layIs | apply lay_next | apply lay_ite3 | apply lay_ite | (refine lay_foldl ?_ (fun _ _ _ => ?_)) | (refine lay_foldl1 ?_ (fun _ _ _ => ?_)) | (refine lay_foldl2 ?_ (fun _ _ _ => ?_)) | dsimp only | split

theorem execChnCoefWrite_layIs {qq : Two LayState} (t : Tower) (val : Word) (s : State) (h_s : LayIs qq s) :
    Out.LayIs qq (execChnCoefWrite t val s) := by
  unfold execChnCoefWrite
  dsimp -failIfUnchanged only
  repeat' with_reducible first | assumption | (intro _) | apply State.chnIrq_layIs | apply State.chnCoefInc_layIs | apply State.updChn_layIs | apply State.gated_layIs | apply lay_next | apply lay_ite3 | apply lay_ite | dsimp only | (apply lay_mk; dsimp only; apply lay_un) | split

theorem execDetectorPassDone_layIs {qq : Two LayState} (t : Tower) (u : Unit3) (s : State) (h_s : LayIs qq s) :
    Out.LayIs qq (execDetectorPassDone t u s) := by
  unfold execDetectorPassDone
  dsimp -failIfUnchanged only
  repeat' with_reducible first | assumption | apply State.setDec_layIs | apply State.drawn_layIs | apply lay_next | apply lay_ite3 | apply lay_ite | dsimp only | (refine lay_pair (by assumption) ?_) | (refine lay_opt (by assumption) ?_) | (refine lay_opt1 (by assumption) ?_) | split

theorem execEqAdaptUpdate_layIs {qq : Two LayState} (t : Tower) (s : State) (h_s : LayIs qq s) :
    Out.LayIs qq (execEqAdaptUpdate t s) := by
  unfold execEqAdaptUpdate
  dsimp -failIfUnchanged only
  repeat' with_reducible first | assumption | (intro _) | apply State.updChn_layIs | apply State.drawn_layIs | apply lay_next | apply lay_ite3 | (refine lay_foldl ?_ (fun _ _ _ => ?_)) | (refine lay_foldl1 ?_ (fun _ _ _ => ?_)) | (refine lay_foldl2 ?_ (fun _ _ _ => ?_)) | dsimp only | (refine lay_pair (by assumption) ?_) | (refine lay_opt (by assumption) ?_) | (refine lay_opt1 (by assumption) ?_) | (apply lay_mk; dsimp only; apply lay_un) | split

theorem execRbPin_layIs {qq : Two LayState} (t : Tower) (val : Word) (s : State) (h_s : LayIs qq s) :
    Out.LayIs qq (execRbPin t val s) := by
  unfold execRbPin
  dsimp -failIfUnchanged only
  repeat' with_reducible first | assumption | (intro _) | apply State.pinWrite_layIs | apply State.gated_layIs | apply lay_next | apply lay_ite3 | dsimp only

theorem execRbUnpin_layIs {qq : Two LayState} (t : Tower) (val : Word) (s : State) (h_s : LayIs qq s) :
    Out.LayIs qq (execRbUnpin t val s) := by
  unfold execRbUnpin
  dsimp -failIfUnchanged only
  repeat' with_reducible first | assumption | (intro _) | apply State.pinWrite_layIs | apply State.gated_layIs | apply lay_next | apply lay_ite3 | dsimp only

theorem State.cplIrq_layIs {qq : Two LayState} (s : State) (t : Tower) (bit : Nat) (h_s : LayIs qq s) :
    LayIs qq (State.cplIrq s t bit) := by
  unfold State.cplIrq
  dsimp -failIfUnchanged only
  repeat' with_reducible first | assumption | apply State.irq_layIs | dsimp only

theorem State.cplFwDone_layIs {qq : Two LayState} (s : State) (t : Tower) (err : Bool) (h_s : LayIs qq s) :
    LayIs qq (State.cplFwDone s t err) := by
  unfold State.cplFwDone
  dsimp -failIfUnchanged only
  repeat' with_reducible first | assumption | apply State.cplIrq_layIs | apply State.wb_layIs | apply State.wr_layIs | dsimp only

theorem State.cplStopEnd_layIs {qq : Two LayState} (s : State) (t : Tower) (h_s : LayIs qq s) :
    LayIs qq (State.cplStopEnd s t) := by
  unfold State.cplStopEnd
  dsimp -failIfUnchanged only
  repeat' with_reducible first | assumption | (intro _) | apply State.cplFwDone_layIs | apply State.updCpl_layIs | apply State.shutDone_layIs | apply State.wr_layIs | apply lay_ite | dsimp only | (apply lay_mk; dsimp only; apply lay_un) | split

theorem State.lanShutDone_layIs {qq : Two LayState} (s : State) (t : Tower) (h_s : LayIs qq s) :
    LayIs qq (State.lanShutDone s t) := by
  unfold State.lanShutDone
  dsimp -failIfUnchanged only
  repeat' with_reducible first | assumption | (intro _) | apply State.cplStopEnd_layIs | apply State.updLan_layIs | apply State.shutDone_layIs | apply lay_ite | dsimp only | (apply lay_mk; dsimp only; apply lay_un) | split

theorem State.lanStop_layIs {qq : Two LayState} (s : State) (t : Tower) (h_s : LayIs qq s) :
    LayIs qq (State.lanStop s t) := by
  unfold State.lanStop
  dsimp -failIfUnchanged only
  repeat' with_reducible first | assumption | (intro _) | apply State.lanShutDone_layIs | apply State.regate_layIs | apply State.dropAG_layIs | apply State.updLan_layIs | apply State.wr_layIs | apply lay_ite | dsimp only | (apply lay_mk; dsimp only; apply lay_un) | split

theorem State.lanFault_layIs {qq : Two LayState} (s : State) (t : Tower) (cause : Nat) (h_s : LayIs qq s) :
    LayIs qq (State.lanFault s t cause) := by
  unfold State.lanFault
  dsimp -failIfUnchanged only
  repeat' with_reducible first | assumption | (intro _) | apply State.lanStop_layIs | apply State.hwPost_layIs | apply State.faultStop_layIs | apply State.wr_layIs | dsimp only

theorem State.cplStop_layIs {qq : Two LayState} (s : State) (t : Tower) (h_s : LayIs qq s) :
    LayIs qq (State.cplStop s t) := by
  unfold State.cplStop
  dsimp -failIfUnchanged only
  repeat' with_reducible first | assumption | (intro _) | apply State.lanFault_layIs | apply State.cplStopEnd_layIs | apply State.regate_layIs | apply State.updLan_layIs | apply State.updCpl_layIs | apply lay_ite | dsimp only | (apply lay_mk; dsimp only; apply lay_un) | split

theorem State.cplRegCmd_layIs {qq : Two LayState} (s : State) (t : Tower) (val : Word) (h_s : LayIs qq s) :
    LayIs qq (State.cplRegCmd s t val) := by
  unfold State.cplRegCmd
  dsimp -failIfUnchanged only
  repeat' with_reducible first | assumption | (intro _) | apply State.cplIrq_layIs | apply State.updCpl_layIs | apply State.wr_layIs | apply lay_ite | dsimp only | (apply lay_mk; dsimp only; apply lay_un) | split

theorem State.linkFault_layIs {qq : Two LayState} (s : State) (t : Tower) (f : CplFrame) (h_s : LayIs qq s) :
    LayIs qq (State.linkFault s t f) := by
  unfold State.linkFault
  dsimp -failIfUnchanged only
  repeat' with_reducible first | assumption | (intro _) | apply State.cplStop_layIs | apply State.lanShutDone_layIs | apply State.cplFwDone_layIs | apply State.cplIrq_layIs | apply State.updCpl_layIs | apply State.faultStop_layIs | apply State.wr_layIs | apply lay_ite | dsimp only | (apply lay_mk; dsimp only; apply lay_un) | split

theorem State.cplRetry_layIs {qq : Two LayState} (s : State) (t : Tower) (f : CplFrame) (h_s : LayIs qq s) :
    LayIs qq (State.cplRetry s t f) := by
  unfold State.cplRetry
  dsimp -failIfUnchanged only
  repeat' with_reducible first | assumption | (intro _) | apply State.linkFault_layIs | apply State.cplStop_layIs | apply State.updCpl_layIs | apply State.faultStop_layIs | apply lay_ite | dsimp only | (apply lay_mk; dsimp only; apply lay_un) | split

theorem State.ptabWrite_layIs {qq : Two LayState} (s : State) (t : Tower) (val : Word) (h_s : LayIs qq s) :
    LayIs qq (State.ptabWrite s t val) := by
  unfold State.ptabWrite
  dsimp -failIfUnchanged only
  repeat' with_reducible first | assumption | (intro _) | apply State.lanAssist_layIs | apply State.updLan_layIs | apply State.wr_layIs | apply lay_ite | dsimp only | (apply lay_mk; dsimp only; apply lay_un) | split

theorem State.rampEnd_layIs {qq : Two LayState} (s : State) (t : Tower) (h_s : LayIs qq s) :
    LayIs qq (State.rampEnd s t) := by
  unfold State.rampEnd
  dsimp -failIfUnchanged only
  repeat' with_reducible first | assumption | (intro _) | apply State.lanAssist_layIs | apply State.updLan_layIs | apply State.irq_layIs | apply State.setSt_layIs | apply State.wr_layIs | apply lay_ite | dsimp only | (apply lay_mk; dsimp only; apply lay_un) | split

theorem State.rampStep_layIs {qq : Two LayState} (s : State) (t : Tower) (target : Nat) (h_s : LayIs qq s) :
    LayIs qq (State.rampStep s t target) := by
  unfold State.rampStep
  dsimp -failIfUnchanged only
  repeat' with_reducible first | assumption | (intro _) | apply State.rampEnd_layIs | apply State.updLan_layIs | apply State.updCpl_layIs | apply lay_ite | dsimp only | (apply lay_mk; dsimp only; apply lay_un) | split

theorem State.sentNow_layIs {qq : Two LayState} (s : State) (t : Tower) (n : Nat) (bits : List Byte) (h_s : LayIs qq s) :
    LayIs qq (State.sentNow s t n bits) := by
  unfold State.sentNow
  dsimp -failIfUnchanged only
  repeat' with_reducible first | assumption | (intro _) | apply State.updChn_layIs | apply lay_ite | dsimp only | (apply lay_mk; dsimp only; apply lay_un) | split

theorem State.setTrim_layIs {qq : Two LayState} (s : State) (t : Tower) (h : Nat) (x : Int) (h_s : LayIs qq s) :
    LayIs qq (State.setTrim s t h x) := by
  unfold State.setTrim
  dsimp -failIfUnchanged only
  repeat' with_reducible first | assumption | apply State.wrI_layIs | dsimp only

theorem State.thermalAbort_layIs {qq : Two LayState} (s : State) (t : Tower) (h : Nat) (h_s : LayIs qq s) :
    LayIs qq (State.thermalAbort s t h) := by
  unfold State.thermalAbort
  dsimp -failIfUnchanged only
  repeat' with_reducible first | assumption | (intro _) | apply State.setTrim_layIs | apply State.dropWG_layIs | apply State.setAG_layIs | apply State.lanAssist_layIs | apply State.updLan_layIs | apply State.hwPost_layIs | apply State.irq_layIs | apply State.bump_layIs | apply State.wr_layIs | apply lay_ite | dsimp only | (apply lay_mk; dsimp only; apply lay_un) | split

theorem State.trimStep_layIs {qq : Two LayState} (s : State) (t : Tower) (h : Nat) (code : Nat) (h_s : LayIs qq s) :
    LayIs qq (State.trimStep s t h code) := by
  unfold State.trimStep
  dsimp -failIfUnchanged only
  repeat' with_reducible first | assumption | (intro _) | apply State.setTrim_layIs | apply lay_ite | dsimp only | split

theorem execCplAnswerTimeout_layIs {qq : Two LayState} (t : Tower) (s : State) (h_s : LayIs qq s) :
    Out.LayIs qq (execCplAnswerTimeout t s) := by
  unfold execCplAnswerTimeout
  dsimp -failIfUnchanged only
  repeat' with_reducible first | assumption | apply State.cplRetry_layIs | apply State.bump_layIs | apply lay_next | apply lay_ite3 | dsimp only | (refine lay_pair (by assumption) ?_) | (refine lay_opt (by assumption) ?_) | (refine lay_opt1 (by assumption) ?_) | split

theorem execCplBadFrame_layIs {qq : Two LayState} (t : Tower) (kind : Nat) (s : State) (h_s : LayIs qq s) :
    Out.LayIs qq (execCplBadFrame t kind s) := by
  unfold execCplBadFrame
  dsimp -failIfUnchanged only
  repeat' with_reducible first | assumption | apply State.cplIrq_layIs | apply State.bump_layIs | apply lay_next | apply lay_ite3 | apply lay_ite | dsimp only | split

theorem execCplFaultFrame_layIs {qq : Two LayState} (t : Tower) (status : Nat) (s : State) (h_s : LayIs qq s) :
    Out.LayIs qq (execCplFaultFrame t status s) := by
  unfold execCplFaultFrame
  dsimp -failIfUnchanged only
  repeat' with_reducible first | assumption | apply State.lanFault_layIs | apply State.wr_layIs | apply lay_next | apply lay_ite3 | apply lay_ite | dsimp only | split

theorem execCplNak_layIs {qq : Two LayState} (t : Tower) (seq : Nat) (s : State) (h_s : LayIs qq s) :
    Out.LayIs qq (execCplNak t seq s) := by
  unfold execCplNak
  dsimp -failIfUnchanged only
  repeat' with_reducible first | assumption | apply State.cplRetry_layIs | apply State.bump_layIs | apply lay_next | apply lay_ite3 | dsimp only | (refine lay_pair (by assumption) ?_) | (refine lay_opt (by assumption) ?_) | (refine lay_opt1 (by assumption) ?_) | split

theorem execCplRegGo_layIs {qq : Two LayState} (t : Tower) (val : Word) (s : State) (h_s : LayIs qq s) :
    Out.LayIs qq (execCplRegGo t val s) := by
  unfold execCplRegGo
  dsimp -failIfUnchanged only
  repeat' with_reducible first | assumption | (intro _) | apply State.cplRegCmd_layIs | apply State.gated_layIs | apply lay_next | apply lay_ite3 | dsimp only

theorem execCplResetRelease_layIs {qq : Two LayState} (t : Tower) (s : State) (h_s : LayIs qq s) :
    Out.LayIs qq (execCplResetRelease t s) := by
  unfold execCplResetRelease
  dsimp -failIfUnchanged only
  repeat' with_reducible first | assumption | (intro _) | apply State.updCpl_layIs | apply lay_next | apply lay_ite3 | apply lay_ite | dsimp only | (apply lay_mk; dsimp only; apply lay_un) | split

theorem execHoldoffEnd_layIs {qq : Two LayState} (t : Tower) (s : State) (h_s : LayIs qq s) :
    Out.LayIs qq (execHoldoffEnd t s) := by
  unfold execHoldoffEnd
  dsimp -failIfUnchanged only
  repeat' with_reducible first | assumption | (intro _) | apply State.updLan_layIs | apply lay_next | apply lay_ite3 | apply lay_ite | dsimp only | (apply lay_mk; dsimp only; apply lay_un) | split

theorem execLanBiasRampStep_layIs {qq : Two LayState} (t : Tower) (s : State) (h_s : LayIs qq s) :
    Out.LayIs qq (execLanBiasRampStep t s) := by
  unfold execLanBiasRampStep
  dsimp -failIfUnchanged only
  repeat' with_reducible first | assumption | apply State.rampStep_layIs | apply State.lanShutDone_layIs | apply lay_next | apply lay_ite3 | apply lay_ite | dsimp only | (refine lay_pair (by assumption) ?_) | (refine lay_opt (by assumption) ?_) | (refine lay_opt1 (by assumption) ?_) | split

theorem execPtabWrite_layIs {qq : Two LayState} (t : Tower) (val : Word) (s : State) (h_s : LayIs qq s) :
    Out.LayIs qq (execPtabWrite t val s) := by
  unfold execPtabWrite
  dsimp -failIfUnchanged only
  repeat' with_reducible first | assumption | (intro _) | apply State.ptabWrite_layIs | apply State.gated_layIs | apply lay_next | apply lay_ite3 | dsimp only

theorem execSectorWriteEnd_layIs {qq : Two LayState} (t : Tower) (s : State) (h_s : LayIs qq s) :
    Out.LayIs qq (execSectorWriteEnd t s) := by
  unfold execSectorWriteEnd
  dsimp -failIfUnchanged only
  repeat' with_reducible first | assumption | apply State.sectorEnd_layIs | apply lay_next | apply lay_ite3 | apply lay_ite | dsimp only | (refine lay_pair (by assumption) ?_) | (refine lay_opt (by assumption) ?_) | (refine lay_opt1 (by assumption) ?_) | split

theorem execSectorWriteStart_layIs {qq : Two LayState} (t : Tower) (encoded : Bool) (s : State) (h_s : LayIs qq s) :
    Out.LayIs qq (execSectorWriteStart t encoded s) := by
  unfold execSectorWriteStart
  dsimp -failIfUnchanged only
  repeat' with_reducible first | assumption | (intro _) | apply State.sentNow_layIs | apply State.sectorEnd_layIs | apply State.updTwr_layIs | apply State.drawn_layIs | apply lay_next | apply lay_ite3 | apply lay_ite | dsimp only | (refine lay_pair (by assumption) ?_) | (refine lay_opt (by assumption) ?_) | (refine lay_opt1 (by assumption) ?_) | (apply lay_mk; dsimp only; apply lay_un) | split

theorem execTelemetry_layIs {qq : Two LayState} (t : Tower) (head : Nat) (code : Nat) (s : State) (h_s : LayIs qq s) :
    Out.LayIs qq (execTelemetry t head code s) := by
  unfold execTelemetry
  dsimp -failIfUnchanged only
  repeat' with_reducible first | assumption | (intro _) | apply State.trimStep_layIs | apply State.thermalAbort_layIs | apply State.lanFault_layIs | apply State.lanAssist_layIs | apply State.updLan_layIs | apply State.wr_layIs | apply lay_next | apply lay_ite3 | apply lay_ite | dsimp only | (apply lay_mk; dsimp only; apply lay_un) | split

theorem execTelemetryStrobe_layIs {qq : Two LayState} (t : Tower) (s : State) (h_s : LayIs qq s) :
    Out.LayIs qq (execTelemetryStrobe t s) := by
  unfold execTelemetryStrobe
  dsimp -failIfUnchanged only
  repeat' with_reducible first | assumption | (intro _) | apply State.headWarn_layIs | apply State.wr_layIs | apply lay_next | apply lay_ite3 | apply lay_ite | dsimp only | split

theorem State.aotCount_layIs {qq : Two LayState} (s : State) (n : Nat) (h_s : LayIs qq s) :
    LayIs qq (State.aotCount s n) := by
  unfold State.aotCount
  dsimp -failIfUnchanged only
  repeat' with_reducible first | assumption | apply State.bump_layIs | dsimp only

theorem State.updAot_layIs {qq : Two LayState} (s : State) (f : AotState → AotState) (h_s : LayIs qq s) :
    LayIs qq (State.updAot s f) := by
  unfold State.updAot
  dsimp -failIfUnchanged only
  repeat' with_reducible first | assumption | (intro _) | dsimp only | (apply lay_mk; dsimp only; apply lay_un)

theorem State.aotIdle_layIs {qq : Two LayState} (s : State) (h_s : LayIs qq s) :
    LayIs qq (State.aotIdle s) := by
  unfold State.aotIdle
  dsimp -failIfUnchanged only
  repeat' with_reducible first | assumption | (intro _) | apply State.updAot_layIs | apply State.shutDone_layIs | apply lay_ite | apply lay_ite1 | dsimp only | (apply lay_mk; dsimp only; apply lay_un) | split

theorem State.aotIrq_layIs {qq : Two LayState} (s : State) (bit : Nat) (h_s : LayIs qq s) :
    LayIs qq (State.aotIrq s bit) := by
  unfold State.aotIrq
  dsimp -failIfUnchanged only
  repeat' with_reducible first | assumption | apply State.irq_layIs | dsimp only

theorem State.portTx_layIs {qq : Two LayState} (s : State) (p : Nat) (r : TxRec) (h_s : LayIs qq s) :
    LayIs qq (State.portTx s p r) := by
  unfold State.portTx
  dsimp -failIfUnchanged only
  repeat' with_reducible first | assumption | apply State.bump_layIs | apply lay_ite | dsimp only | (apply lay_mk; dsimp only; apply lay_un) | split

theorem State.sessTx_layIs {qq : Two LayState} (s : State) (i : Nat) (r : TxRec) (h_s : LayIs qq s) :
    LayIs qq (State.sessTx s i r) := by
  unfold State.sessTx
  dsimp -failIfUnchanged only
  repeat' with_reducible first | assumption | apply State.portTx_layIs | apply lay_ite | dsimp only | split

theorem State.setSess_layIs {qq : Two LayState} (s : State) (i : Nat) (x : Sess) (h_s : LayIs qq s) :
    LayIs qq (State.setSess s i x) := by
  unfold State.setSess
  dsimp -failIfUnchanged only
  repeat' with_reducible first | assumption | (intro _) | apply State.updAot_layIs | apply State.wr_layIs | dsimp only | (apply lay_mk; dsimp only; apply lay_un)

theorem State.sendAck_layIs {qq : Two LayState} (s : State) (i : Nat) (h_s : LayIs qq s) :
    LayIs qq (State.sendAck s i) := by
  unfold State.sendAck
  dsimp -failIfUnchanged only
  repeat' with_reducible first | assumption | (intro _) | apply State.setSess_layIs | apply State.sessTx_layIs | dsimp only | (refine lay_pair (by assumption) ?_) | (refine lay_opt (by assumption) ?_) | (refine lay_opt1 (by assumption) ?_) | (apply lay_mk; dsimp only; apply lay_un) | split

theorem State.updObj_layIs {qq : Two LayState} (s : State) (f : ObjState → ObjState) (h_s : LayIs qq s) :
    LayIs qq (State.updObj s f) := by
  unfold State.updObj
  dsimp -failIfUnchanged only
  repeat' with_reducible first | assumption | (intro _) | dsimp only | (apply lay_mk; dsimp only; apply lay_un)

theorem State.dropCmd_layIs {qq : Two LayState} (s : State) (i : Nat) (tag : Nat) (h_s : LayIs qq s) :
    LayIs qq (State.dropCmd s i tag) := by
  unfold State.dropCmd
  dsimp -failIfUnchanged only
  repeat' with_reducible first | assumption | (intro _) | apply State.updObj_layIs | dsimp only | (apply lay_mk; dsimp only; apply lay_un)

theorem State.updSess_layIs {qq : Two LayState} (s : State) (i : Nat) (f : Sess → Sess) (h_s : LayIs qq s) :
    LayIs qq (State.updSess s i f) := by
  unfold State.updSess
  dsimp -failIfUnchanged only
  repeat' with_reducible first | assumption | (intro _) | apply State.setSess_layIs | dsimp only

theorem State.updTag_layIs {qq : Two LayState} (s : State) (i : Nat) (tag : Nat) (f : NTag → NTag) (h_s : LayIs qq s) :
    LayIs qq (State.updTag s i tag f) := by
  unfold State.updTag
  dsimp -failIfUnchanged only
  repeat' with_reducible first | assumption | (intro _) | apply State.updSess_layIs | dsimp only | (apply lay_mk; dsimp only; apply lay_un)

theorem State.sendFirst_layIs {qq : Two LayState} (s : State) (i : Nat) (p : RelPkt) (h_s : LayIs qq s) :
    LayIs qq (State.sendFirst s i p) := by
  unfold State.sendFirst
  dsimp -failIfUnchanged only
  repeat' with_reducible first | assumption | (intro _) | apply State.setSess_layIs | apply State.sessTx_layIs | dsimp only | (apply lay_mk; dsimp only; apply lay_un)

theorem State.pump_layIs {qq : Two LayState} (s : State) (i : Nat) (h_s : LayIs qq s) :
    LayIs qq (State.pump s i) := by
  unfold State.pump
  dsimp -failIfUnchanged only
  repeat' with_reducible first | assumption | (intro _) | apply State.sendFirst_layIs | apply State.setSess_layIs | apply lay_ite | (refine lay_foldl ?_ (fun _ _ _ => ?_)) | (refine lay_foldl1 ?_ (fun _ _ _ => ?_)) | (refine lay_foldl2 ?_ (fun _ _ _ => ?_)) | dsimp only | (apply lay_mk; dsimp only; apply lay_un) | split

theorem State.resend_layIs {qq : Two LayState} (s : State) (i : Nat) (p : RelPkt) (h_s : LayIs qq s) :
    LayIs qq (State.resend s i p) := by
  unfold State.resend
  dsimp -failIfUnchanged only
  repeat' with_reducible first | assumption | apply State.sessTx_layIs | apply State.aotCount_layIs | dsimp only | (apply lay_mk; dsimp only; apply lay_un)

theorem State.processAck_layIs {qq : Two LayState} (s : State) (i : Nat) (h : AotHdr) (h_s : LayIs qq s) :
    LayIs qq (State.processAck s i h) := by
  unfold State.processAck
  dsimp -failIfUnchanged only
  repeat' with_reducible first | assumption | (intro _) | apply State.resend_layIs | apply State.pump_layIs | apply State.updTag_layIs | apply State.dropCmd_layIs | apply State.setSess_layIs | apply lay_ite | (refine lay_foldl ?_ (fun _ _ _ => ?_)) | (refine lay_foldl1 ?_ (fun _ _ _ => ?_)) | (refine lay_foldl2 ?_ (fun _ _ _ => ?_)) | dsimp only | (refine lay_pair (by assumption) ?_) | (refine lay_opt (by assumption) ?_) | (refine lay_opt1 (by assumption) ?_) | (apply lay_mk; dsimp only; apply lay_un) | split

theorem State.aotRx_layIs {qq : Two LayState} (s : State) (typ : Nat) (h : AotHdr) (body : List Byte) (gtag : List Byte) (h_s : LayIs qq s) :
    LayIs qq (State.aotRx s typ h body gtag).1 := by
  unfold State.aotRx
  dsimp -failIfUnchanged only
  repeat' with_reducible first | assumption | (intro _) | apply State.processAck_layIs | apply State.sendAck_layIs | apply State.aotIrq_layIs | apply State.aotCount_layIs | apply lay_ite | apply lay_ite1 | dsimp only | (refine lay_pair (by assumption) ?_) | (refine lay_opt (by assumption) ?_) | (refine lay_opt1 (by assumption) ?_) | split

theorem State.setGcm_layIs {qq : Two LayState} (s : State) (n : Nat) (k : Option Nat) (h_s : LayIs qq s) :
    LayIs qq (State.setGcm s n k) := by
  unfold State.setGcm
  dsimp -failIfUnchanged only
  repeat' with_reducible first | assumption | (intro _) | dsimp only | (apply lay_mk; dsimp only; apply lay_un)

theorem State.updCmd_layIs {qq : Two LayState} (s : State) (i : Nat) (tag : Nat) (f : Cmd → Cmd) (h_s : LayIs qq s) :
    LayIs qq (State.updCmd s i tag f) := by
  unfold State.updCmd
  dsimp -failIfUnchanged only
  repeat' with_reducible first | assumption | (intro _) | apply State.updObj_layIs | apply lay_ite | dsimp only | (apply lay_mk; dsimp only; apply lay_un) | split

theorem State.sessFree_layIs {qq : Two LayState} (s : State) (i : Nat) (h_s : LayIs qq s) :
    LayIs qq (State.sessFree s i) := by
  unfold State.sessFree
  dsimp -failIfUnchanged only
  repeat' with_reducible first | assumption | (intro _) | apply State.setGcm_layIs | apply State.updObj_layIs | apply State.setSess_layIs | apply State.aotIrq_layIs | (refine lay_foldl ?_ (fun _ _ _ => ?_)) | (refine lay_foldl1 ?_ (fun _ _ _ => ?_)) | (refine lay_foldl2 ?_ (fun _ _ _ => ?_)) | dsimp only | (apply lay_mk; dsimp only; apply lay_un)

theorem State.authAccepted_layIs {qq : Two LayState} (s : State) (i : Nat) (a : Anchor) (msg : List Byte) (h_s : LayIs qq s) :
    LayIs qq (State.authAccepted s i a msg) := by
  unfold State.authAccepted
  dsimp -failIfUnchanged only
  repeat' with_reducible first | assumption | (intro _) | apply State.setGcm_layIs | apply State.setSess_layIs | dsimp only | (apply lay_mk; dsimp only; apply lay_un)

theorem State.ethCount_layIs {qq : Two LayState} (s : State) (p : Nat) (n : Nat) (h_s : LayIs qq s) :
    LayIs qq (State.ethCount s p n) := by
  unfold State.ethCount
  dsimp -failIfUnchanged only
  repeat' with_reducible first | assumption | apply State.bump_layIs | dsimp only

theorem State.handTo_layIs {qq : Two LayState} (s : State) (e : Nat) (h_s : LayIs qq s) :
    LayIs qq (State.handTo s e) := by
  unfold State.handTo
  dsimp -failIfUnchanged only
  repeat' with_reducible first | assumption | (intro _) | apply State.aotIrq_layIs | apply State.updAot_layIs | apply State.aotCount_layIs | apply State.drawn_layIs | apply lay_ite | dsimp only | (apply lay_mk; dsimp only; apply lay_un) | split

theorem State.ethHand_layIs {qq : Two LayState} (s : State) (port : Nat) (h_s : LayIs qq s) :
    LayIs qq (State.ethHand s port) := by
  unfold State.ethHand
  dsimp -failIfUnchanged only
  repeat' with_reducible first | assumption | apply State.handTo_layIs | apply lay_ite | dsimp only | split

theorem State.linkOff_layIs {qq : Two LayState} (s : State) (p : Nat) (h_s : LayIs qq s) :
    LayIs qq (State.linkOff s p) := by
  unfold State.linkOff
  dsimp -failIfUnchanged only
  repeat' with_reducible first | assumption | apply State.wr_layIs | dsimp only

theorem State.fwRx_layIs {qq : Two LayState} (s : State) (port : Nat) (kind : Nat) (i : Nat) (bytes : List Byte) (h_s : LayIs qq s) :
    LayIs qq (State.fwRx s port kind i bytes).1 := by
  unfold State.fwRx
  dsimp -failIfUnchanged only
  repeat' with_reducible first | assumption | (intro _) | apply State.aotIrq_layIs | apply State.setBytes_layIs | apply State.wr_layIs | apply lay_ite | apply lay_ite1 | dsimp only | split

theorem State.helloRate_layIs {qq : Two LayState} (s : State) (ip : Nat) (h_s : LayIs qq s) :
    LayIs qq (State.helloRate s ip).1 := by
  unfold State.helloRate
  dsimp -failIfUnchanged only
  repeat' with_reducible first | assumption | (intro _) | apply State.updAot_layIs | apply lay_ite | apply lay_ite1 | dsimp only | (apply lay_mk; dsimp only; apply lay_un) | split

theorem State.ipRx_layIs {qq : Two LayState} (s : State) (port : Nat) (frame : List Byte) (q : IpPacket) (h_s : LayIs qq s) :
    LayIs qq (State.ipRx s port frame q) := by
  unfold State.ipRx
  dsimp -failIfUnchanged only
  repeat' with_reducible first | assumption | apply State.fwRx_layIs | apply State.ethHand_layIs | apply State.ethCount_layIs | apply lay_ite | apply lay_ite1 | dsimp only | split

theorem State.newCookie_layIs {qq : Two LayState} (s : State) (h_s : LayIs qq s) :
    LayIs qq (State.newCookie s) := by
  unfold State.newCookie
  dsimp -failIfUnchanged only
  repeat' with_reducible first | assumption | (intro _) | apply State.updAot_layIs | apply State.rand_layIs | dsimp only | (apply lay_mk; dsimp only; apply lay_un)

theorem State.record_layIs {qq : Two LayState} (s : State) (i : Nat) (rx : Peer) (h : AotHdr) (h_s : LayIs qq s) :
    LayIs qq (State.record s i rx h) := by
  unfold State.record
  dsimp -failIfUnchanged only
  repeat' with_reducible first | assumption | (intro _) | apply State.sendAck_layIs | apply State.setSess_layIs | apply lay_ite | apply lay_ite1 | (refine lay_foldl ?_ (fun _ _ _ => ?_)) | (refine lay_foldl1 ?_ (fun _ _ _ => ?_)) | (refine lay_foldl2 ?_ (fun _ _ _ => ?_)) | dsimp only | (apply lay_mk; dsimp only; apply lay_un) | split

theorem State.sendClear_layIs {qq : Two LayState} (s : State) (rx : Peer) (typ : Nat) (body : List Byte) (h_s : LayIs qq s) :
    LayIs qq (State.sendClear s rx typ body) := by
  unfold State.sendClear
  dsimp -failIfUnchanged only
  repeat' with_reducible first | assumption | apply State.portTx_layIs | dsimp only | (apply lay_mk; dsimp only; apply lay_un)

theorem State.sendReject_layIs {qq : Two LayState} (s : State) (rx : Peer) (code : Nat) (h_s : LayIs qq s) :
    LayIs qq (State.sendReject s rx code) := by
  unfold State.sendReject
  dsimp -failIfUnchanged only
  repeat' with_reducible first | assumption | apply State.sendClear_layIs | apply State.aotCount_layIs | dsimp only

theorem State.sendReply_layIs {qq : Two LayState} (s : State) (rx : Peer) (i : Nat) (h_s : LayIs qq s) :
    LayIs qq (State.sendReply s rx i) := by
  unfold State.sendReply
  dsimp -failIfUnchanged only
  repeat' with_reducible first | assumption | (intro _) | apply State.portTx_layIs | (refine lay_foldl ?_ (fun _ _ _ => ?_)) | (refine lay_foldl1 ?_ (fun _ _ _ => ?_)) | (refine lay_foldl2 ?_ (fun _ _ _ => ?_)) | dsimp only | (apply lay_mk; dsimp only; apply lay_un)

theorem State.takeEntry_layIs {qq : Two LayState} (s : State) (rx : Peer) (i : Nat) (v : Nat) (body : List Byte) (h_s : LayIs qq s) :
    LayIs qq (State.takeEntry s rx i v body) := by
  unfold State.takeEntry
  dsimp -failIfUnchanged only
  repeat' with_reducible first | assumption | (intro _) | apply State.sendReply_layIs | apply State.setGcm_layIs | apply State.setSess_layIs | apply State.rand_layIs | apply State.wr_layIs | dsimp only

theorem execAck_layIs {qq : Two LayState} (_rx : Peer) (h : AotHdr) (body : List Byte) (gtag : List Byte) (s : State) (h_s : LayIs qq s) :
    Out.LayIs qq (execAck _rx h body gtag s) := by
  unfold execAck
  dsimp -failIfUnchanged only
  repeat' with_reducible first | assumption | (intro _) | apply State.aotRx_layIs | apply State.updSess_layIs | apply State.sendAck_layIs | apply lay_next | apply lay_ite3 | apply lay_ite | dsimp only | (refine lay_pair (by assumption) ?_) | (refine lay_opt (by assumption) ?_) | (refine lay_opt1 (by assumption) ?_) | (apply lay_mk; dsimp only; apply lay_un) | split

theorem execAckDelayTimer_layIs {qq : Two LayState} (i : Nat) (s : State) (h_s : LayIs qq s) :
    Out.LayIs qq (execAckDelayTimer i s) := by
  unfold execAckDelayTimer
  dsimp -failIfUnchanged only
  repeat' with_reducible first | assumption | (intro _) | apply State.sendAck_layIs | apply State.updAot_layIs | apply lay_next | apply lay_ite3 | apply lay_ite | dsimp only | (apply lay_mk; dsimp only; apply lay_un) | split

theorem execAotCntClr_layIs {qq : Two LayState} (val : Word) (s : State) (h_s : LayIs qq s) :
    Out.LayIs qq (execAotCntClr val s) := by
  unfold execAotCntClr
  dsimp -failIfUnchanged only
  repeat' with_reducible first | assumption | (intro _) | apply State.gated_layIs | apply State.setReg_layIs | apply lay_next | apply lay_ite3 | apply lay_ite | (refine lay_foldl ?_ (fun _ _ _ => ?_)) | (refine lay_foldl1 ?_ (fun _ _ _ => ?_)) | (refine lay_foldl2 ?_ (fun _ _ _ => ?_)) | dsimp only | split

theorem execAotShutdownTimeout_layIs {qq : Two LayState} (s : State) (h_s : LayIs qq s) :
    Out.LayIs qq (execAotShutdownTimeout s) := by
  unfold execAotShutdownTimeout
  dsimp -failIfUnchanged only
  repeat' with_reducible first | assumption | (intro _) | apply State.sessFree_layIs | apply State.aotIdle_layIs | apply lay_next | apply lay_ite3 | apply lay_ite | apply lay_ite1 | (refine lay_foldl ?_ (fun _ _ _ => ?_)) | (refine lay_foldl1 ?_ (fun _ _ _ => ?_)) | (refine lay_foldl2 ?_ (fun _ _ _ => ?_)) | dsimp only | split

theorem execArpRequest_layIs {qq : Two LayState} (port : Nat) (ip : Nat) (s : State) (h_s : LayIs qq s) :
    Out.LayIs qq (execArpRequest port ip s) := by
  unfold execArpRequest
  dsimp -failIfUnchanged only
  repeat' with_reducible first | assumption | apply State.portTx_layIs | apply lay_next | apply lay_ite3 | apply lay_ite | dsimp only | (apply lay_mk; dsimp only; apply lay_un) | split

theorem execAuth_layIs {qq : Two LayState} (rx : Peer) (h : AotHdr) (body : List Byte) (gtag : List Byte) (s : State) (h_s : LayIs qq s) :
    Out.LayIs qq (execAuth rx h body gtag s) := by
  unfold execAuth
  dsimp -failIfUnchanged only
  repeat' with_reducible first | assumption | (intro _) | apply State.sendReject_layIs | apply State.fwRx_layIs | apply State.authAccepted_layIs | apply State.sessFree_layIs | apply State.resend_layIs | apply State.setSess_layIs | apply State.aotIrq_layIs | apply State.aotIdle_layIs | apply State.aotCount_layIs | apply lay_next | apply lay_ite3 | apply lay_ite | apply lay_ite1 | dsimp only | (refine lay_pair (by assumption) ?_) | (refine lay_opt (by assumption) ?_) | (refine lay_opt1 (by assumption) ?_) | (apply lay_mk; dsimp only; apply lay_un) | split

theorem execClosingTimeout_layIs {qq : Two LayState} (i : Nat) (s : State) (h_s : LayIs qq s) :
    Out.LayIs qq (execClosingTimeout i s) := by
  unfold execClosingTimeout
  dsimp -failIfUnchanged only
  repeat' with_reducible first | assumption | apply State.sessFree_layIs | apply State.aotIdle_layIs | apply lay_next | apply lay_ite3 | apply lay_ite | dsimp only | split

theorem execCookieKeyRotation_layIs {qq : Two LayState} (s : State) (h_s : LayIs qq s) :
    Out.LayIs qq (execCookieKeyRotation s) := by
  unfold execCookieKeyRotation
  dsimp -failIfUnchanged only
  repeat' with_reducible first | assumption | apply State.newCookie_layIs | apply lay_next | apply lay_ite3 | dsimp only

theorem execData_layIs {qq : Two LayState} (rx : Peer) (h : AotHdr) (body : List Byte) (gtag : List Byte) (s : State) (h_s : LayIs qq s) :
    Out.LayIs qq (execData rx h body gtag s) := by
  unfold execData
  dsimp -failIfUnchanged only
  repeat' with_reducible first | assumption | (intro _) | apply State.record_layIs | apply State.updCmd_layIs | apply State.aotRx_layIs | apply State.aotCount_layIs | apply lay_next | apply lay_ite3 | apply lay_ite | dsimp only | (refine lay_pair (by assumption) ?_) | (refine lay_opt (by assumption) ?_) | (refine lay_opt1 (by assumption) ?_) | (apply lay_mk; dsimp only; apply lay_un) | split

theorem execEchoRequest_layIs {qq : Two LayState} (port : Nat) (v6 : Bool) (ip : Nat) (s : State) (h_s : LayIs qq s) :
    Out.LayIs qq (execEchoRequest port v6 ip s) := by
  unfold execEchoRequest
  dsimp -failIfUnchanged only
  repeat' with_reducible first | assumption | (intro _) | apply State.ethCount_layIs | apply State.portTx_layIs | apply lay_next | apply lay_ite3 | apply lay_ite | dsimp only | (apply lay_mk; dsimp only; apply lay_un) | split

theorem execEthCntClr_layIs {qq : Two LayState} (port : Nat) (val : Word) (s : State) (h_s : LayIs qq s) :
    Out.LayIs qq (execEthCntClr port val s) := by
  unfold execEthCntClr
  dsimp -failIfUnchanged only
  repeat' with_reducible first | assumption | (intro _) | apply State.gated_layIs | apply State.setReg_layIs | apply lay_next | apply lay_ite3 | apply lay_ite | (refine lay_foldl ?_ (fun _ _ _ => ?_)) | (refine lay_foldl1 ?_ (fun _ _ _ => ?_)) | (refine lay_foldl2 ?_ (fun _ _ _ => ?_)) | dsimp only | split

theorem execEthFrameRx_layIs {qq : Two LayState} (port : Nat) (frame : List Byte) (s : State) (h_s : LayIs qq s) :
    Out.LayIs qq (execEthFrameRx port frame s) := by
  unfold execEthFrameRx
  dsimp -failIfUnchanged only
  repeat' with_reducible first | assumption | (intro _) | apply State.ipRx_layIs | apply State.fwRx_layIs | apply State.ethHand_layIs | apply State.ethCount_layIs | apply lay_next | apply lay_ite3 | apply lay_ite | apply lay_ite1 | dsimp only | (refine lay_pair (by assumption) ?_) | (refine lay_opt (by assumption) ?_) | (refine lay_opt1 (by assumption) ?_) | split

theorem execFwtxSend_layIs {qq : Two LayState} (s : State) (h_s : LayIs qq s) :
    Out.LayIs qq (execFwtxSend s) := by
  unfold execFwtxSend
  dsimp -failIfUnchanged only
  repeat' with_reducible first | assumption | (intro _) | apply State.portTx_layIs | apply State.wr_layIs | apply lay_next | apply lay_ite3 | apply lay_ite | dsimp only | (apply lay_mk; dsimp only; apply lay_un) | split

theorem execHello_layIs {qq : Two LayState} (rx : Peer) (h : AotHdr) (body : List Byte) (frame : List Byte) (s : State) (h_s : LayIs qq s) :
    Out.LayIs qq (execHello rx h body frame s) := by
  unfold execHello
  dsimp -failIfUnchanged only
  repeat' with_reducible first | assumption | (intro _) | apply State.takeEntry_layIs | apply State.sendReply_layIs | apply State.sendReject_layIs | apply State.sendClear_layIs | apply State.helloRate_layIs | apply State.fwRx_layIs | apply State.aotIrq_layIs | apply State.aotCount_layIs | apply State.drawn_layIs | apply lay_next | apply lay_ite3 | apply lay_ite | apply lay_ite1 | dsimp only | (refine lay_pair (by assumption) ?_) | (refine lay_opt (by assumption) ?_) | (refine lay_opt1 (by assumption) ?_) | split

theorem execHsTimeout_layIs {qq : Two LayState} (i : Nat) (s : State) (h_s : LayIs qq s) :
    Out.LayIs qq (execHsTimeout i s) := by
  unfold execHsTimeout
  dsimp -failIfUnchanged only
  repeat' with_reducible first | assumption | apply State.sessFree_layIs | apply State.aotIdle_layIs | apply lay_next | apply lay_ite3 | apply lay_ite | dsimp only | split

theorem execLinkDown_layIs {qq : Two LayState} (port : Nat) (hiBer : Bool) (s : State) (h_s : LayIs qq s) :
    Out.LayIs qq (execLinkDown port hiBer s) := by
  unfold execLinkDown
  dsimp -failIfUnchanged only
  repeat' with_reducible first | assumption | (intro _) | apply State.linkOff_layIs | apply State.irq_layIs | apply State.wr_layIs | apply lay_next | apply lay_ite3 | apply lay_ite | dsimp only | split

theorem execLinkUp_layIs {qq : Two LayState} (port : Nat) (fec : Nat) (s : State) (h_s : LayIs qq s) :
    Out.LayIs qq (execLinkUp port fec s) := by
  unfold execLinkUp
  dsimp -failIfUnchanged only
  repeat' with_reducible first | assumption | (intro _) | apply State.irq_layIs | apply State.wb_layIs | apply State.wr_layIs | apply lay_next | apply lay_ite3 | apply lay_ite | dsimp only | split

theorem execNeighbourSolicitation_layIs {qq : Two LayState} (port : Nat) (ip : Nat) (s : State) (h_s : LayIs qq s) :
    Out.LayIs qq (execNeighbourSolicitation port ip s) := by
  unfold execNeighbourSolicitation
  dsimp -failIfUnchanged only
  repeat' with_reducible first | assumption | apply State.portTx_layIs | apply lay_next | apply lay_ite3 | apply lay_ite | dsimp only | (apply lay_mk; dsimp only; apply lay_un) | split

theorem execRekey_layIs {qq : Two LayState} (rx : Peer) (h : AotHdr) (body : List Byte) (gtag : List Byte) (s : State) (h_s : LayIs qq s) :
    Out.LayIs qq (execRekey rx h body gtag s) := by
  unfold execRekey
  dsimp -failIfUnchanged only
  repeat' with_reducible first | assumption | (intro _) | apply State.record_layIs | apply State.setGcm_layIs | apply State.aotRx_layIs | apply State.setSess_layIs | apply State.aotCount_layIs | apply lay_next | apply lay_ite3 | apply lay_ite | dsimp only | (refine lay_pair (by assumption) ?_) | (refine lay_opt (by assumption) ?_) | (refine lay_opt1 (by assumption) ?_) | (apply lay_mk; dsimp only; apply lay_un) | split

theorem State.emptySlots_layIs {qq : Two LayState} (s : State) (l : List Nat) (h_s : LayIs qq s) :
    LayIs qq (State.emptySlots s l) := by
  unfold State.emptySlots
  dsimp -failIfUnchanged only
  repeat' with_reducible first | assumption | (intro _) | apply State.setBytes_layIs | apply lay_ite | (refine lay_foldl ?_ (fun _ _ _ => ?_)) | (refine lay_foldl1 ?_ (fun _ _ _ => ?_)) | (refine lay_foldl2 ?_ (fun _ _ _ => ?_)) | dsimp only | split

theorem State.evrIrq_layIs {qq : Two LayState} (s : State) (bit : Nat) (h_s : LayIs qq s) :
    LayIs qq (State.evrIrq s bit) := by
  unfold State.evrIrq
  dsimp -failIfUnchanged only
  repeat' with_reducible first | assumption | apply State.irq_layIs | dsimp only

theorem State.persist_layIs {qq : Two LayState} (s : State) (slot : Nat) (sev : Nat) (seq : Nat) (h_s : LayIs qq s) :
    LayIs qq (State.persist s slot sev seq) := by
  unfold State.persist
  dsimp -failIfUnchanged only
  repeat' with_reducible first | assumption | (intro _) | apply State.evrIrq_layIs | apply State.setWord_layIs | apply State.wr_layIs | apply lay_ite | dsimp only | split

theorem State.evrStore_layIs {qq : Two LayState} (s : State) (code : Nat) (sev : Nat) (source : Nat) (time : Nat) (payload : List Byte) (h_s : LayIs qq s) :
    LayIs qq (State.evrStore s code sev source time payload) := by
  unfold State.evrStore
  dsimp -failIfUnchanged only
  repeat' with_reducible first | assumption | (intro _) | apply State.persist_layIs | apply State.evrIrq_layIs | apply State.setBytes_layIs | apply State.bump_layIs | apply State.wr_layIs | apply lay_ite | dsimp only | (refine lay_pair (by assumption) ?_) | (refine lay_opt (by assumption) ?_) | (refine lay_opt1 (by assumption) ?_) | split

theorem State.evrClear_layIs {qq : Two LayState} (s : State) (gen : Bool) (fatal : Bool) (h_s : LayIs qq s) :
    LayIs qq (State.evrClear s gen fatal) := by
  unfold State.evrClear
  dsimp -failIfUnchanged only
  repeat' with_reducible first | assumption | (intro _) | apply State.evrStore_layIs | apply State.emptySlots_layIs | apply State.wr_layIs | apply lay_ite | dsimp only | split

theorem State.evrCmd_layIs {qq : Two LayState} (s : State) (port : Nat) (val : Word) (h_s : LayIs qq s) :
    LayIs qq (State.evrCmd s port val) := by
  unfold State.evrCmd
  dsimp -failIfUnchanged only
  repeat' with_reducible first | assumption | (intro _) | apply State.evrClear_layIs | apply State.evrIrq_layIs | apply State.wr_layIs | apply State.setReg_layIs | apply lay_ite | (refine lay_foldl ?_ (fun _ _ _ => ?_)) | (refine lay_foldl1 ?_ (fun _ _ _ => ?_)) | (refine lay_foldl2 ?_ (fun _ _ _ => ?_)) | dsimp only | split

theorem State.updEvr_layIs {qq : Two LayState} (s : State) (f : EvrState → EvrState) (h_s : LayIs qq s) :
    LayIs qq (State.updEvr s f) := by
  unfold State.updEvr
  dsimp -failIfUnchanged only
  repeat' with_reducible first | assumption | (intro _) | dsimp only | (apply lay_mk; dsimp only; apply lay_un)

theorem State.setRate_layIs {qq : Two LayState} (s : State) (n : Nat) (x : RateEntry) (h_s : LayIs qq s) :
    LayIs qq (State.setRate s n x) := by
  unfold State.setRate
  dsimp -failIfUnchanged only
  repeat' with_reducible first | assumption | (intro _) | apply State.updEvr_layIs | dsimp only | (apply lay_mk; dsimp only; apply lay_un)

theorem State.evrPass_layIs {qq : Two LayState} (s : State) (code : Nat) (sev : Nat) (source : Nat) (time : Nat) (payload : List Byte) (h_s : LayIs qq s) :
    LayIs qq (State.evrPass s code sev source time payload) := by
  unfold State.evrPass
  dsimp -failIfUnchanged only
  repeat' with_reducible first | assumption | (intro _) | apply State.setRate_layIs | apply State.evrStore_layIs | apply lay_ite | dsimp only | (refine lay_pair (by assumption) ?_) | (refine lay_opt (by assumption) ?_) | (refine lay_opt1 (by assumption) ?_) | (apply lay_mk; dsimp only; apply lay_un) | split

theorem State.postRefused_layIs {qq : Two LayState} (s : State) (h_s : LayIs qq s) :
    LayIs qq (State.postRefused s) := by
  unfold State.postRefused
  dsimp -failIfUnchanged only
  repeat' with_reducible first | assumption | apply State.evrIrq_layIs | apply State.bump_layIs | dsimp only

theorem State.evrPostWrite_layIs {qq : Two LayState} (s : State) (val : Word) (h_s : LayIs qq s) :
    LayIs qq (State.evrPostWrite s val) := by
  unfold State.evrPostWrite
  dsimp -failIfUnchanged only
  repeat' with_reducible first | assumption | (intro _) | apply State.postRefused_layIs | apply State.updEvr_layIs | apply State.wr_layIs | apply lay_ite | dsimp only | (apply lay_mk; dsimp only; apply lay_un) | split

theorem State.takePost_layIs {qq : Two LayState} (s : State) (h_s : LayIs qq s) :
    LayIs qq (State.takePost s) := by
  unfold State.takePost
  dsimp -failIfUnchanged only
  repeat' with_reducible first | assumption | (intro _) | apply State.postRefused_layIs | apply State.evrPass_layIs | apply State.updEvr_layIs | apply State.wr_layIs | apply lay_ite | dsimp only | (refine lay_pair (by assumption) ?_) | (refine lay_opt (by assumption) ?_) | (refine lay_opt1 (by assumption) ?_) | (apply lay_mk; dsimp only; apply lay_un) | split

theorem State.rlCfg_layIs {qq : Two LayState} (s : State) (val : Word) (h_s : LayIs qq s) :
    LayIs qq (State.rlCfg s val) := by
  unfold State.rlCfg
  dsimp -failIfUnchanged only
  repeat' with_reducible first | assumption | (intro _) | apply State.setRate_layIs | apply lay_ite | dsimp only | (apply lay_mk; dsimp only; apply lay_un) | split

theorem execClrFatal_layIs {qq : Two LayState} (port : Nat) (val : Word) (s : State) (h_s : LayIs qq s) :
    Out.LayIs qq (execClrFatal port val s) := by
  unfold execClrFatal
  dsimp -failIfUnchanged only
  repeat' with_reducible first | assumption | (intro _) | apply State.evrCmd_layIs | apply State.gated_layIs | apply lay_next | apply lay_ite3 | dsimp only

theorem execClrGen_layIs {qq : Two LayState} (port : Nat) (val : Word) (s : State) (h_s : LayIs qq s) :
    Out.LayIs qq (execClrGen port val s) := by
  unfold execClrGen
  dsimp -failIfUnchanged only
  repeat' with_reducible first | assumption | (intro _) | apply State.evrCmd_layIs | apply State.gated_layIs | apply lay_next | apply lay_ite3 | dsimp only

theorem execEvrCntClr_layIs {qq : Two LayState} (val : Word) (s : State) (h_s : LayIs qq s) :
    Out.LayIs qq (execEvrCntClr val s) := by
  unfold execEvrCntClr
  dsimp -failIfUnchanged only
  repeat' with_reducible first | assumption | (intro _) | apply State.evrCmd_layIs | apply State.gated_layIs | apply lay_next | apply lay_ite3 | dsimp only

theorem execEvrPost_layIs {qq : Two LayState} (val : Word) (s : State) (h_s : LayIs qq s) :
    Out.LayIs qq (execEvrPost val s) := by
  unfold execEvrPost
  dsimp -failIfUnchanged only
  repeat' with_reducible first | assumption | (intro _) | apply State.evrPostWrite_layIs | apply State.gated_layIs | apply lay_next | apply lay_ite3 | dsimp only

theorem execHwEventPost_layIs {qq : Two LayState} (code : Nat) (sev : Nat) (source : Nat) (payload : List Byte) (s : State) (h_s : LayIs qq s) :
    Out.LayIs qq (execHwEventPost code sev source payload s) := by
  unfold execHwEventPost
  dsimp -failIfUnchanged only
  repeat' with_reducible first | assumption | apply State.hwPost_layIs | apply lay_next | apply lay_ite3 | apply lay_ite | dsimp only | split

theorem execPostTaken_layIs {qq : Two LayState} (s : State) (h_s : LayIs qq s) :
    Out.LayIs qq (execPostTaken s) := by
  unfold execPostTaken
  dsimp -failIfUnchanged only
  repeat' with_reducible first | assumption | apply State.takePost_layIs | apply lay_next | apply lay_ite3 | apply lay_ite | dsimp only | split

theorem execRateEntryWrite_layIs {qq : Two LayState} (val : Word) (s : State) (h_s : LayIs qq s) :
    Out.LayIs qq (execRateEntryWrite val s) := by
  unfold execRateEntryWrite
  dsimp -failIfUnchanged only
  repeat' with_reducible first | assumption | (intro _) | apply State.rlCfg_layIs | apply State.gated_layIs | apply lay_next | apply lay_ite3 | dsimp only

theorem execRateTokensFull_layIs {qq : Two LayState} (n : Nat) (s : State) (h_s : LayIs qq s) :
    Out.LayIs qq (execRateTokensFull n s) := by
  unfold execRateTokensFull
  dsimp -failIfUnchanged only
  repeat' with_reducible first | assumption | (intro _) | apply State.setRate_layIs | apply State.evrIrq_layIs | apply State.hwPost_layIs | apply lay_next | apply lay_ite3 | apply lay_ite | dsimp only | (apply lay_mk; dsimp only; apply lay_un) | split

theorem State.memIrq_layIs {qq : Two LayState} (s : State) (bit : Nat) (h_s : LayIs qq s) :
    LayIs qq (State.memIrq s bit) := by
  unfold State.memIrq
  dsimp -failIfUnchanged only
  repeat' with_reducible first | assumption | apply State.irq_layIs | dsimp only

theorem State.updDdr_layIs {qq : Two LayState} (s : State) (f : DdrState → DdrState) (h_s : LayIs qq s) :
    LayIs qq (State.updDdr s f) := by
  unfold State.updDdr
  dsimp -failIfUnchanged only
  repeat' with_reducible first | assumption | (intro _) | dsimp only | (apply lay_mk; dsimp only; apply lay_un)

theorem State.memLog_layIs {qq : Two LayState} (s : State) (kind : Nat) (source : Nat) (port : Nat) (cw : Nat) (syms : Nat) (bytes : Nat) (burst : Nat) (h_s : LayIs qq s) :
    LayIs qq (State.memLog s kind source port cw syms bytes burst) := by
  unfold State.memLog
  dsimp -failIfUnchanged only
  repeat' with_reducible first | assumption | (intro _) | apply State.updDdr_layIs | apply State.memIrq_layIs | apply State.bump_layIs | apply State.wr_layIs | apply lay_ite | dsimp only | (apply lay_mk; dsimp only; apply lay_un) | split

theorem State.ueEvent_layIs {qq : Two LayState} (s : State) (kind : Nat) (source : Nat) (port : Nat) (cw : Nat) (burst : Nat) (h_s : LayIs qq s) :
    LayIs qq (State.ueEvent s kind source port cw burst) := by
  unfold State.ueEvent
  dsimp -failIfUnchanged only
  repeat' with_reducible first | assumption | apply State.memLog_layIs | apply State.memIrq_layIs | apply State.bump_layIs | dsimp only

theorem State.devCorrected_layIs {qq : Two LayState} (s : State) (d : Nat) (h_s : LayIs qq s) :
    LayIs qq (State.devCorrected s d) := by
  unfold State.devCorrected
  dsimp -failIfUnchanged only
  repeat' with_reducible first | assumption | (intro _) | apply State.updDdr_layIs | apply State.memIrq_layIs | apply State.wr_layIs | apply lay_ite | dsimp only | (apply lay_mk; dsimp only; apply lay_un) | split

theorem State.ceEvent_layIs {qq : Two LayState} (s : State) (source : Nat) (port : Nat) (cw : Nat) (burst : Nat) (pat : List (Nat × Nat)) (h_s : LayIs qq s) :
    LayIs qq (State.ceEvent s source port cw burst pat) := by
  unfold State.ceEvent
  dsimp -failIfUnchanged only
  repeat' with_reducible first | assumption | (intro _) | apply State.devCorrected_layIs | apply State.memLog_layIs | apply State.memIrq_layIs | apply State.bump_layIs | (refine lay_foldl ?_ (fun _ _ _ => ?_)) | (refine lay_foldl1 ?_ (fun _ _ _ => ?_)) | (refine lay_foldl2 ?_ (fun _ _ _ => ?_)) | dsimp only

theorem State.burstEvents_layIs {qq : Two LayState} (s : State) (b : Nat) (source : Nat) (port : Nat) (h_s : LayIs qq s) :
    LayIs qq (State.burstEvents s b source port) := by
  unfold State.burstEvents
  dsimp -failIfUnchanged only
  repeat' with_reducible first | assumption | (intro _) | apply State.ceEvent_layIs | apply State.ueEvent_layIs | (refine lay_foldl ?_ (fun _ _ _ => ?_)) | (refine lay_foldl1 ?_ (fun _ _ _ => ?_)) | (refine lay_foldl2 ?_ (fun _ _ _ => ?_)) | dsimp only | (refine lay_pair (by assumption) ?_) | (refine lay_opt (by assumption) ?_) | (refine lay_opt1 (by assumption) ?_) | split

theorem State.setErr_layIs {qq : Two LayState} (s : State) (b : Nat) (i : Nat) (m : Nat) (h_s : LayIs qq s) :
    LayIs qq (State.setErr s b i m) := by
  unfold State.setErr
  dsimp -failIfUnchanged only
  repeat' with_reducible first | assumption | (intro _) | apply State.updDdr_layIs | dsimp only | (apply lay_mk; dsimp only; apply lay_un)

theorem State.cwWriteBack_layIs {qq : Two LayState} (s : State) (b : Nat) (c : Nat) (h_s : LayIs qq s) :
    LayIs qq (State.cwWriteBack s b c) := by
  unfold State.cwWriteBack
  dsimp -failIfUnchanged only
  repeat' with_reducible first | assumption | (intro _) | apply State.setErr_layIs | apply State.setBytes_layIs | (refine lay_foldl ?_ (fun _ _ _ => ?_)) | (refine lay_foldl1 ?_ (fun _ _ _ => ?_)) | (refine lay_foldl2 ?_ (fun _ _ _ => ?_)) | dsimp only | (refine lay_pair (by assumption) ?_) | (refine lay_opt (by assumption) ?_) | (refine lay_opt1 (by assumption) ?_) | split

theorem State.burstRead_layIs {qq : Two LayState} (s : State) (b : Nat) (source : Nat) (port : Nat) (h_s : LayIs qq s) :
    LayIs qq (State.burstRead s b source port) := by
  unfold State.burstRead
  dsimp -failIfUnchanged only
  repeat' with_reducible first | assumption | (intro _) | apply State.cwWriteBack_layIs | apply State.burstEvents_layIs | apply State.memLog_layIs | apply State.memIrq_layIs | apply State.bump_layIs | apply lay_ite | (refine lay_foldl ?_ (fun _ _ _ => ?_)) | (refine lay_foldl1 ?_ (fun _ _ _ => ?_)) | (refine lay_foldl2 ?_ (fun _ _ _ => ?_)) | dsimp only | split

theorem State.ddrFlip_layIs {qq : Two LayState} (s : State) (b : Nat) (h_s : LayIs qq s) :
    LayIs qq (State.ddrFlip s b) := by
  unfold State.ddrFlip
  dsimp -failIfUnchanged only
  repeat' with_reducible first | assumption | (intro _) | apply State.setErr_layIs | apply State.setReg_layIs | apply lay_ite | (refine lay_foldl ?_ (fun _ _ _ => ?_)) | (refine lay_foldl1 ?_ (fun _ _ _ => ?_)) | (refine lay_foldl2 ?_ (fun _ _ _ => ?_)) | dsimp only | split

theorem State.ddrRefuse_layIs {qq : Two LayState} (s : State) (h_s : LayIs qq s) :
    LayIs qq (State.ddrRefuse s) := by
  unfold State.ddrRefuse
  dsimp -failIfUnchanged only
  repeat' with_reducible first | assumption | apply State.bump_layIs | apply lay_ite | dsimp only | split

theorem State.ddrReadOp_layIs {qq : Two LayState} (s : State) (port : Nat) (a : Nat) (n : Nat) (h_s : LayIs qq s) :
    LayIs qq (State.ddrReadOp s port a n).1 := by
  unfold State.ddrReadOp
  dsimp -failIfUnchanged only
  repeat' with_reducible first | assumption | (intro _) | apply State.ddrRefuse_layIs | apply State.burstRead_layIs | apply State.drawn_layIs | apply lay_ite | apply lay_ite1 | dsimp only | (apply lay_mk; dsimp only; apply lay_un) | split

theorem State.markMode_layIs {qq : Two LayState} (s : State) (b : Nat) (off : Nat) (n : Nat) (h_s : LayIs qq s) :
    LayIs qq (State.markMode s b off n) := by
  unfold State.markMode
  dsimp -failIfUnchanged only
  repeat' with_reducible first | assumption | (intro _) | apply State.updDdr_layIs | apply lay_ite | dsimp only | (apply lay_mk; dsimp only; apply lay_un) | split

theorem State.freshBytes_layIs {qq : Two LayState} (s : State) (b : Nat) (off : Nat) (n : Nat) (h_s : LayIs qq s) :
    LayIs qq (State.freshBytes s b off n) := by
  unfold State.freshBytes
  dsimp -failIfUnchanged only
  repeat' with_reducible first | assumption | (intro _) | apply State.setErr_layIs | (refine lay_foldl ?_ (fun _ _ _ => ?_)) | (refine lay_foldl1 ?_ (fun _ _ _ => ?_)) | (refine lay_foldl2 ?_ (fun _ _ _ => ?_)) | dsimp only

theorem State.ddrWriteOp_layIs {qq : Two LayState} (s : State) (port : Nat) (a : Nat) (l : List Byte) (h_s : LayIs qq s) :
    LayIs qq (State.ddrWriteOp s port a l).1 := by
  unfold State.ddrWriteOp
  dsimp -failIfUnchanged only
  repeat' with_reducible first | assumption | (intro _) | apply State.freshBytes_layIs | apply State.markMode_layIs | apply State.ddrRefuse_layIs | apply State.ddrFlip_layIs | apply State.cwWriteBack_layIs | apply State.setErr_layIs | apply State.ceEvent_layIs | apply State.ueEvent_layIs | apply State.setBytes_layIs | apply lay_ite | apply lay_ite1 | (refine lay_foldl ?_ (fun _ _ _ => ?_)) | (refine lay_foldl1 ?_ (fun _ _ _ => ?_)) | (refine lay_foldl2 ?_ (fun _ _ _ => ?_)) | dsimp only | (refine lay_pair (by assumption) ?_) | (refine lay_opt (by assumption) ?_) | (refine lay_opt1 (by assumption) ?_) | split

theorem State.ddrZero_layIs {q : Two LayState} (s : State) (lo hi : Nat) (h_s : LayIs q s) : LayIs q (State.ddrZero s lo hi) := h_s

theorem State.memCmd_layIs {qq : Two LayState} (s : State) (val : Word) (h_s : LayIs qq s) :
    LayIs qq (State.memCmd s val) := by
  unfold State.memCmd
  dsimp -failIfUnchanged only
  repeat' with_reducible first | assumption | (intro _) | apply State.updDdr_layIs | apply State.memIrq_layIs | apply State.wr_layIs | apply State.setReg_layIs | apply lay_ite | dsimp only | (apply lay_mk; dsimp only; apply lay_un) | split

theorem State.memFault_layIs {qq : Two LayState} (s : State) (cause : Nat) (h_s : LayIs qq s) :
    LayIs qq (State.memFault s cause) := by
  unfold State.memFault
  dsimp -failIfUnchanged only
  repeat' with_reducible first | assumption | (apply lay_id; assumption) | (intro _) | apply State.shutDone_layIs | apply State.faultStop_layIs | apply State.wr_layIs | apply lay_next | apply lay_ite | apply lay_ite1 | apply lay_ite3 | (refine lay_foldl ?_ (fun _ _ _ => ?_)) | (refine lay_foldl1 ?_ (fun _ _ _ => ?_)) | (refine lay_foldl2 ?_ (fun _ _ _ => ?_)) | (intro _) | dsimp only | (refine lay_pair (by assumption) ?_) | (refine lay_opt (by assumption) ?_) | (refine lay_opt1 (by assumption) ?_) | apply optLayIs_some | apply optLayIs_none | apply optLayIs_ite | (apply lay_mk; dsimp only; apply lay_un) | split

theorem State.memLost_layIs {qq : Two LayState} (s : State) (h_s : LayIs qq s) :
    LayIs qq (State.memLost s) := by
  unfold State.memLost
  dsimp -failIfUnchanged only
  repeat' with_reducible first | assumption | (intro _) | apply State.ddrZero_layIs | apply State.updDdr_layIs | dsimp only

theorem State.memOn_layIs {qq : Two LayState} (s : State) (h_s : LayIs qq s) :
    LayIs qq (State.memOn s) := by
  unfold State.memOn
  dsimp -failIfUnchanged only
  repeat' with_reducible first | assumption | (intro _) | apply State.setSt_layIs | apply State.wr_layIs | apply lay_ite | dsimp only | split

theorem State.memPop_layIs {qq : Two LayState} (s : State) (val : Word) (h_s : LayIs qq s) :
    LayIs qq (State.memPop s val) := by
  unfold State.memPop
  dsimp -failIfUnchanged only
  repeat' with_reducible first | assumption | (intro _) | apply State.updDdr_layIs | apply State.wr_layIs | apply lay_ite | dsimp only | (apply lay_mk; dsimp only; apply lay_un) | split

theorem State.memStopEnd_layIs {qq : Two LayState} (s : State) (h_s : LayIs qq s) :
    LayIs qq (State.memStopEnd s) := by
  unfold State.memStopEnd
  dsimp -failIfUnchanged only
  repeat' with_reducible first | assumption | apply State.wr_layIs | dsimp only

theorem execDdrRead_layIs {qq : Two LayState} (port : Nat) (addr : Nat) (n : Nat) (s : State) (h_s : LayIs qq s) :
    Out.LayIs qq (execDdrRead port addr n s) := by
  unfold execDdrRead
  dsimp -failIfUnchanged only
  repeat' with_reducible first | assumption | (intro _) | apply State.ddrReadOp_layIs | apply lay_next | apply lay_ite3 | dsimp only | (apply lay_mk; dsimp only; apply lay_un)

theorem execEccFlipArm_layIs {qq : Two LayState} (val : Word) (s : State) (h_s : LayIs qq s) :
    Out.LayIs qq (execEccFlipArm val s) := by
  unfold execEccFlipArm
  dsimp -failIfUnchanged only
  repeat' with_reducible first | assumption | (intro _) | apply State.storeRow_layIs | apply State.gated_layIs | apply lay_next | apply lay_ite3 | dsimp only

theorem execMemCntClr_layIs {qq : Two LayState} (val : Word) (s : State) (h_s : LayIs qq s) :
    Out.LayIs qq (execMemCntClr val s) := by
  unfold execMemCntClr
  dsimp -failIfUnchanged only
  repeat' with_reducible first | assumption | (intro _) | apply State.memCmd_layIs | apply State.gated_layIs | apply lay_next | apply lay_ite3 | dsimp only

theorem execMemInit_layIs {qq : Two LayState} (val : Word) (s : State) (h_s : LayIs qq s) :
    Out.LayIs qq (execMemInit val s) := by
  unfold execMemInit
  dsimp -failIfUnchanged only
  repeat' with_reducible first | assumption | (intro _) | apply State.memCmd_layIs | apply State.gated_layIs | apply lay_next | apply lay_ite3 | dsimp only

theorem execMemInitDone_layIs {qq : Two LayState} (s : State) (h_s : LayIs qq s) :
    Out.LayIs qq (execMemInitDone s) := by
  unfold execMemInitDone
  dsimp -failIfUnchanged only
  repeat' with_reducible first | assumption | (intro _) | apply State.ddrZero_layIs | apply State.updDdr_layIs | apply State.memIrq_layIs | apply State.wr_layIs | apply lay_next | apply lay_ite3 | apply lay_ite | dsimp only | (apply lay_mk; dsimp only; apply lay_un) | split

theorem execMemLogPop_layIs {qq : Two LayState} (val : Word) (s : State) (h_s : LayIs qq s) :
    Out.LayIs qq (execMemLogPop val s) := by
  unfold execMemLogPop
  dsimp -failIfUnchanged only
  repeat' with_reducible first | assumption | (intro _) | apply State.memPop_layIs | apply State.gated_layIs | apply lay_next | apply lay_ite3 | dsimp only

theorem execScrubRead_layIs {qq : Two LayState} (s : State) (h_s : LayIs qq s) :
    Out.LayIs qq (execScrubRead s) := by
  unfold execScrubRead
  dsimp -failIfUnchanged only
  repeat' with_reducible first | assumption | (intro _) | apply State.burstRead_layIs | apply State.memIrq_layIs | apply State.bump_layIs | apply State.wr_layIs | apply lay_next | apply lay_ite3 | apply lay_ite | dsimp only | split

theorem execTrainingDone_layIs {qq : Two LayState} (fail : Option (Nat × Nat × Nat)) (s : State) (h_s : LayIs qq s) :
    Out.LayIs qq (execTrainingDone fail s) := by
  unfold execTrainingDone
  dsimp -failIfUnchanged only
  repeat' with_reducible first | assumption | (intro _) | apply State.memOn_layIs | apply State.memFault_layIs | apply State.ddrZero_layIs | apply State.wr_layIs | apply lay_next | apply lay_ite3 | apply lay_ite | dsimp only | (refine lay_pair (by assumption) ?_) | (refine lay_opt (by assumption) ?_) | (refine lay_opt1 (by assumption) ?_) | split

theorem State.arrayData_layIs {qq : Two LayState} (s : State) (w : Nat) (line : Nat) (d : List Byte) (h_s : LayIs qq s) :
    LayIs qq (State.arrayData s w line d) := by
  unfold State.arrayData
  dsimp -failIfUnchanged only
  repeat' with_reducible first | assumption | apply State.setBytes_layIs | apply lay_ite | dsimp only | split

theorem State.cupIrq_layIs {qq : Two LayState} (s : State) (bit : Nat) (h_s : LayIs qq s) :
    LayIs qq (State.cupIrq s bit) := by
  unfold State.cupIrq
  dsimp -failIfUnchanged only
  repeat' with_reducible first | assumption | apply State.irq_layIs | dsimp only

theorem State.updCup_layIs {qq : Two LayState} (s : State) (f : CupState → CupState) (h_s : LayIs qq s) :
    LayIs qq (State.updCup s f) := by
  unfold State.updCup
  dsimp -failIfUnchanged only
  repeat' with_reducible first | assumption | (intro _) | dsimp only | (apply lay_mk; dsimp only; apply lay_un)

theorem State.dropLines_layIs {qq : Two LayState} (s : State) (f : Nat → Bool) (h_s : LayIs qq s) :
    LayIs qq (State.dropLines s f) := by
  unfold State.dropLines
  dsimp -failIfUnchanged only
  repeat' with_reducible first | assumption | (intro _) | apply State.updCup_layIs | dsimp only | (apply lay_mk; dsimp only; apply lay_un)

theorem State.cupPerr_layIs {qq : Two LayState} (s : State) (line : Nat) (h_s : LayIs qq s) :
    LayIs qq (State.cupPerr s line) := by
  unfold State.cupPerr
  dsimp -failIfUnchanged only
  repeat' with_reducible first | assumption | (intro _) | apply State.dropLines_layIs | apply State.cupIrq_layIs | apply State.hwPost_layIs | apply State.bump_layIs | dsimp only

theorem State.putLine_layIs {qq : Two LayState} (s : State) (w : Nat) (line : Nat) (d : List Byte) (h_s : LayIs qq s) :
    LayIs qq (State.putLine s w line d) := by
  unfold State.putLine
  dsimp -failIfUnchanged only
  repeat' with_reducible first | assumption | (intro _) | apply State.updCup_layIs | apply State.arrayData_layIs | dsimp only | (apply lay_mk; dsimp only; apply lay_un)

theorem State.fill_layIs {qq : Two LayState} (s : State) (line : Nat) (core : Nat) (pf : Bool) (h_s : LayIs qq s) :
    LayIs qq (State.fill s line core pf) := by
  unfold State.fill
  dsimp -failIfUnchanged only
  repeat' with_reducible first | assumption | (intro _) | apply State.updCup_layIs | apply lay_ite | dsimp only | (apply lay_mk; dsimp only; apply lay_un) | split

theorem State.prefetch_layIs {qq : Two LayState} (s : State) (from_ : Nat) (line : Nat) (core : Nat) (h_s : LayIs qq s) :
    LayIs qq (State.prefetch s from_ line core) := by
  unfold State.prefetch
  dsimp -failIfUnchanged only
  repeat' with_reducible first | assumption | apply State.fill_layIs | apply lay_ite | dsimp only | split

theorem State.train_layIs {qq : Two LayState} (s : State) (core : Nat) (line : Nat) (miss : Bool) (h_s : LayIs qq s) :
    LayIs qq (State.train s core line miss) := by
  unfold State.train
  dsimp -failIfUnchanged only
  repeat' with_reducible first | assumption | (intro _) | apply State.prefetch_layIs | apply State.updCup_layIs | apply lay_ite | (refine lay_foldl ?_ (fun _ _ _ => ?_)) | (refine lay_foldl1 ?_ (fun _ _ _ => ?_)) | (refine lay_foldl2 ?_ (fun _ _ _ => ?_)) | dsimp only | (refine lay_pair (by assumption) ?_) | (refine lay_opt (by assumption) ?_) | (refine lay_opt1 (by assumption) ?_) | (apply lay_mk; dsimp only; apply lay_un) | split

theorem State.displace_layIs {qq : Two LayState} (s : State) (old : Option CLine) (h_s : LayIs qq s) :
    LayIs qq (State.displace s old) := by
  unfold State.displace
  dsimp -failIfUnchanged only
  repeat' with_reducible first | assumption | (intro _) | apply State.updCup_layIs | apply lay_ite | dsimp only | (refine lay_pair (by assumption) ?_) | (refine lay_opt (by assumption) ?_) | (refine lay_opt1 (by assumption) ?_) | (apply lay_mk; dsimp only; apply lay_un) | split

theorem State.install_layIs {qq : Two LayState} (s : State) (m : Nat) (line : Nat) (d : List Byte) (h_s : LayIs qq s) :
    LayIs qq (State.install s m line d) := by
  unfold State.install
  dsimp -failIfUnchanged only
  repeat' with_reducible first | assumption | apply State.displace_layIs | apply State.putLine_layIs | dsimp only | (refine lay_pair (by assumption) ?_) | (refine lay_opt (by assumption) ?_) | (refine lay_opt1 (by assumption) ?_) | split

theorem State.cupLookup_layIs {qq : Two LayState} (s : State) (core : Nat) (line : Nat) (perr : Bool) (h_s : LayIs qq s) :
    LayIs qq (State.cupLookup s core line perr).1 := by
  unfold State.cupLookup
  dsimp -failIfUnchanged only
  repeat' with_reducible first | assumption | (intro _) | apply State.install_layIs | apply State.train_layIs | apply State.fill_layIs | apply State.putLine_layIs | apply State.cupPerr_layIs | apply State.updCup_layIs | apply State.bump_layIs | apply lay_ite | apply lay_ite1 | dsimp only | (refine lay_pair (by assumption) ?_) | (refine lay_opt (by assumption) ?_) | (refine lay_opt1 (by assumption) ?_) | (apply lay_mk; dsimp only; apply lay_un) | split

theorem State.dropFills_layIs {qq : Two LayState} (s : State) (f : Nat → Bool) (held : Bool) (h_s : LayIs qq s) :
    LayIs qq (State.dropFills s f held) := by
  unfold State.dropFills
  dsimp -failIfUnchanged only
  repeat' with_reducible first | assumption | (intro _) | apply State.updCup_layIs | apply lay_ite | dsimp only | (apply lay_mk; dsimp only; apply lay_un) | split

theorem State.maintRun_layIs {qq : Two LayState} (s : State) (op : Nat) (h_s : LayIs qq s) :
    LayIs qq (State.maintRun s op) := by
  unfold State.maintRun
  dsimp -failIfUnchanged only
  repeat' with_reducible first | assumption | (intro _) | apply State.dropFills_layIs | apply State.updCup_layIs | apply State.wr_layIs | dsimp only | (apply lay_mk; dsimp only; apply lay_un)

theorem State.cupMaint_layIs {qq : Two LayState} (s : State) (val : Word) (h_s : LayIs qq s) :
    LayIs qq (State.cupMaint s val) := by
  unfold State.cupMaint
  dsimp -failIfUnchanged only
  repeat' with_reducible first | assumption | (intro _) | apply State.maintRun_layIs | apply State.cupIrq_layIs | apply State.wr_layIs | apply lay_ite | dsimp only | split

theorem State.cupSnoop_layIs {qq : Two LayState} (s : State) (line : Nat) (h_s : LayIs qq s) :
    LayIs qq (State.cupSnoop s line) := by
  unfold State.cupSnoop
  dsimp -failIfUnchanged only
  repeat' with_reducible first | assumption | (intro _) | apply State.dropFills_layIs | apply State.dropLines_layIs | apply State.bump_layIs | apply lay_ite | dsimp only | split

theorem State.cupPresent_layIs {qq : Two LayState} (s : State) (port : Nat) (a : Nat) (l : List Byte) (h_s : LayIs qq s) :
    LayIs qq (State.cupPresent s port a l) := by
  unfold State.cupPresent
  dsimp -failIfUnchanged only
  repeat' with_reducible first | assumption | (intro _) | apply State.cupSnoop_layIs | apply State.install_layIs | apply State.dropLines_layIs | apply State.bump_layIs | apply lay_ite | (refine lay_foldl ?_ (fun _ _ _ => ?_)) | (refine lay_foldl1 ?_ (fun _ _ _ => ?_)) | (refine lay_foldl2 ?_ (fun _ _ _ => ?_)) | dsimp only | split

theorem State.cupSpad_layIs {qq : Two LayState} (s : State) (val : Word) (h_s : LayIs qq s) :
    LayIs qq (State.cupSpad s val) := by
  unfold State.cupSpad
  dsimp -failIfUnchanged only
  repeat' with_reducible first | assumption | (intro _) | apply State.updCup_layIs | apply State.cupIrq_layIs | apply State.wr_layIs | apply lay_ite | dsimp only | (apply lay_mk; dsimp only; apply lay_un) | split

theorem State.cupWalk_layIs {qq : Two LayState} (s : State) (h_s : LayIs qq s) :
    LayIs qq (State.cupWalk s) := by
  unfold State.cupWalk
  dsimp -failIfUnchanged only
  repeat' with_reducible first | assumption | (intro _) | apply State.updCup_layIs | dsimp only | (apply lay_mk; dsimp only; apply lay_un)

theorem State.ddrStore_layIs {qq : Two LayState} (s : State) (port : Nat) (a : Nat) (l : List Byte) (h_s : LayIs qq s) :
    LayIs qq (State.ddrStore s port a l).1 := by
  unfold State.ddrStore
  dsimp -failIfUnchanged only
  repeat' with_reducible first | assumption | (intro _) | apply State.cupPresent_layIs | apply State.ddrWriteOp_layIs | apply lay_ite | apply lay_ite1 | dsimp only | split

end Sys2Proof.Machine
end

