-- ==== Sys2Proof/Laws/LayFrame2.lean ====
section
/-! SUPPORT. The layout is as before: the operations and commands for which this holds, part 2. -/

set_option linter.unusedTactic false
set_option linter.unreachableTactic false
set_option maxRecDepth 8000

namespace Sys2Proof.Machine

theorem State.fillReturn_layIs {qq : Two LayState} (s : State) (x : CFill) (d : List Byte) (ok : Bool) (h_s : LayIs qq s) :
    LayIs qq (State.fillReturn s x d ok) := by
  unfold State.fillReturn
  dsimp -failIfUnchanged only
  repeat' with_reducible first | assumption | (intro _) | apply State.install_layIs | apply State.updCup_layIs | apply lay_ite | dsimp only | (apply lay_mk; dsimp only; apply lay_un) | split

theorem State.l1Fill_layIs {qq : Two LayState} (s : State) (core : Nat) (line : Nat) (d : List Byte) (h_s : LayIs qq s) :
    LayIs qq (State.l1Fill s core line d) := by
  unfold State.l1Fill
  dsimp -failIfUnchanged only
  repeat' with_reducible first | assumption | (intro _) | dsimp only | (apply lay_mk; dsimp only; apply lay_un)

theorem cupMaintOp_layIs {qq : Two LayState} (op : Nat) (val : Word) (s : State) (h_s : LayIs qq s) :
    LayIs qq (cupMaintOp op val s) := by
  unfold cupMaintOp
  dsimp -failIfUnchanged only
  repeat' with_reducible first | assumption | (intro _) | apply State.cupMaint_layIs | apply State.gated_layIs | dsimp only

theorem execCupCntClr_layIs {qq : Two LayState} (val : Word) (s : State) (h_s : LayIs qq s) :
    Out.LayIs qq (execCupCntClr val s) := by
  unfold execCupCntClr
  dsimp -failIfUnchanged only
  repeat' with_reducible first | assumption | (intro _) | apply State.gated_layIs | apply State.setReg_layIs | apply lay_next | apply lay_ite3 | apply lay_ite | (refine lay_foldl ?_ (fun _ _ _ => ?_)) | (refine lay_foldl1 ?_ (fun _ _ _ => ?_)) | (refine lay_foldl2 ?_ (fun _ _ _ => ?_)) | dsimp only | split

theorem execCupSpadWrite_layIs {qq : Two LayState} (val : Word) (s : State) (h_s : LayIs qq s) :
    Out.LayIs qq (execCupSpadWrite val s) := by
  unfold execCupSpadWrite
  dsimp -failIfUnchanged only
  repeat' with_reducible first | assumption | (intro _) | apply State.cupSpad_layIs | apply State.gated_layIs | apply lay_next | apply lay_ite3 | dsimp only

theorem execDdrWrite_layIs {qq : Two LayState} (port : Nat) (addr : Nat) (bytes : List Byte) (s : State) (h_s : LayIs qq s) :
    Out.LayIs qq (execDdrWrite port addr bytes s) := by
  unfold execDdrWrite
  dsimp -failIfUnchanged only
  repeat' with_reducible first | assumption | (intro _) | apply State.ddrStore_layIs | apply lay_next | apply lay_ite3 | apply lay_ite | apply lay_ite1 | dsimp only | (apply lay_mk; dsimp only; apply lay_un) | split

theorem execInvAll_layIs {qq : Two LayState} (val : Word) (s : State) (h_s : LayIs qq s) :
    Out.LayIs qq (execInvAll val s) := by
  unfold execInvAll
  dsimp -failIfUnchanged only
  repeat' with_reducible first | assumption | apply cupMaintOp_layIs | apply lay_next | apply lay_ite3 | dsimp only

theorem execInvLine_layIs {qq : Two LayState} (val : Word) (s : State) (h_s : LayIs qq s) :
    Out.LayIs qq (execInvLine val s) := by
  unfold execInvLine
  dsimp -failIfUnchanged only
  repeat' with_reducible first | assumption | apply cupMaintOp_layIs | apply lay_next | apply lay_ite3 | dsimp only

theorem execInvRange_layIs {qq : Two LayState} (val : Word) (s : State) (h_s : LayIs qq s) :
    Out.LayIs qq (execInvRange val s) := by
  unfold execInvRange
  dsimp -failIfUnchanged only
  repeat' with_reducible first | assumption | apply cupMaintOp_layIs | apply lay_next | apply lay_ite3 | dsimp only

theorem execInvWays_layIs {qq : Two LayState} (val : Word) (s : State) (h_s : LayIs qq s) :
    Out.LayIs qq (execInvWays val s) := by
  unfold execInvWays
  dsimp -failIfUnchanged only
  repeat' with_reducible first | assumption | apply cupMaintOp_layIs | apply lay_next | apply lay_ite3 | dsimp only

theorem execMaintDone_layIs {qq : Two LayState} (s : State) (h_s : LayIs qq s) :
    Out.LayIs qq (execMaintDone s) := by
  unfold execMaintDone
  dsimp -failIfUnchanged only
  repeat' with_reducible first | assumption | (intro _) | apply State.cupIrq_layIs | apply State.wr_layIs | apply lay_next | apply lay_ite3 | apply lay_ite | dsimp only | split

theorem execScratchpadAccess_layIs {qq : Two LayState} (port : Nat) (addr : Nat) (n : Nat) (wr : Option (List Byte)) (perr : Bool) (s : State) (h_s : LayIs qq s) :
    Out.LayIs qq (execScratchpadAccess port addr n wr perr s) := by
  unfold execScratchpadAccess
  dsimp -failIfUnchanged only
  repeat' with_reducible first | assumption | (intro _) | apply State.cupIrq_layIs | apply State.setBytes_layIs | apply lay_next | apply lay_ite3 | apply lay_ite | dsimp only | (refine lay_pair (by assumption) ?_) | (refine lay_opt (by assumption) ?_) | (refine lay_opt1 (by assumption) ?_) | (apply lay_mk; dsimp only; apply lay_un) | split

theorem execSpadWalkDone_layIs {qq : Two LayState} (s : State) (h_s : LayIs qq s) :
    Out.LayIs qq (execSpadWalkDone s) := by
  unfold execSpadWalkDone
  dsimp -failIfUnchanged only
  repeat' with_reducible first | assumption | (intro _) | apply State.updCup_layIs | apply State.cupIrq_layIs | apply State.wr_layIs | apply lay_next | apply lay_ite3 | apply lay_ite | dsimp only | (apply lay_mk; dsimp only; apply lay_un) | split

theorem State.updDma_layIs {qq : Two LayState} (s : State) (f : DmaState → DmaState) (h_s : LayIs qq s) :
    LayIs qq (State.updDma s f) := by
  unfold State.updDma
  dsimp -failIfUnchanged only
  repeat' with_reducible first | assumption | (intro _) | dsimp only | (apply lay_mk; dsimp only; apply lay_un)

theorem State.dmaShow_layIs {qq : Two LayState} (s : State) (c : Nat) (h_s : LayIs qq s) :
    LayIs qq (State.dmaShow s c) := by
  unfold State.dmaShow
  dsimp -failIfUnchanged only
  repeat' with_reducible first | assumption | (intro _) | apply State.wr_layIs | apply lay_ite | dsimp only | split

theorem State.updCh_layIs {qq : Two LayState} (s : State) (c : Nat) (f : DmaCh → DmaCh) (h_s : LayIs qq s) :
    LayIs qq (State.updCh s c f) := by
  unfold State.updCh
  dsimp -failIfUnchanged only
  repeat' with_reducible first | assumption | (intro _) | apply State.dmaShow_layIs | apply State.updDma_layIs | dsimp only | (apply lay_mk; dsimp only; apply lay_un)

theorem State.burstIssue_layIs {qq : Two LayState} (s : State) (c : Nat) (h_s : LayIs qq s) :
    LayIs qq (State.burstIssue s c) := by
  unfold State.burstIssue
  dsimp -failIfUnchanged only
  repeat' with_reducible first | assumption | (intro _) | apply State.updCh_layIs | apply State.updDma_layIs | apply lay_ite | dsimp only | (apply lay_mk; dsimp only; apply lay_un) | split

theorem State.dmaSpoil_layIs {qq : Two LayState} (s : State) (l : List Word) (h_s : LayIs qq s) :
    LayIs qq (State.dmaSpoil s l) := by
  unfold State.dmaSpoil
  dsimp -failIfUnchanged only
  repeat' with_reducible first | assumption | (intro _) | apply State.setBytes_layIs | apply State.drawn_layIs | apply lay_ite | dsimp only | split

theorem State.setCst_layIs {qq : Two LayState} (s : State) (c : Nat) (v : Nat) (h_s : LayIs qq s) :
    LayIs qq (State.setCst s c v) := by
  unfold State.setCst
  dsimp -failIfUnchanged only
  repeat' with_reducible first | assumption | apply State.wb_layIs | apply State.wr_layIs | dsimp only

theorem State.dmaDisable_layIs {qq : Two LayState} (s : State) (c : Nat) (h_s : LayIs qq s) :
    LayIs qq (State.dmaDisable s c) := by
  unfold State.dmaDisable
  dsimp -failIfUnchanged only
  repeat' with_reducible first | assumption | (intro _) | apply State.setCst_layIs | apply State.dmaSpoil_layIs | apply State.updCh_layIs | apply State.drawn_layIs | apply State.wr_layIs | apply lay_ite | dsimp only | split

theorem State.dmaIrq_layIs {qq : Two LayState} (s : State) (bit : Nat) (h_s : LayIs qq s) :
    LayIs qq (State.dmaIrq s bit) := by
  unfold State.dmaIrq
  dsimp -failIfUnchanged only
  repeat' with_reducible first | assumption | apply State.irq_layIs | dsimp only

theorem State.parkCheck_layIs {qq : Two LayState} (s : State) (c : Nat) (h_s : LayIs qq s) :
    LayIs qq (State.parkCheck s c) := by
  unfold State.parkCheck
  dsimp -failIfUnchanged only
  repeat' with_reducible first | assumption | (intro _) | apply State.setCst_layIs | apply State.updCh_layIs | apply lay_ite | dsimp only | (apply lay_mk; dsimp only; apply lay_un) | split

theorem State.dmaFetch_layIs {qq : Two LayState} (s : State) (c : Nat) (h_s : LayIs qq s) :
    LayIs qq (State.dmaFetch s c) := by
  unfold State.dmaFetch
  dsimp -failIfUnchanged only
  repeat' with_reducible first | assumption | (intro _) | apply State.parkCheck_layIs | apply State.setCst_layIs | apply State.updCh_layIs | dsimp only | (apply lay_mk; dsimp only; apply lay_un)

theorem State.dmaCtl_layIs {qq : Two LayState} (s : State) (c : Nat) (val : Word) (h_s : LayIs qq s) :
    LayIs qq (State.dmaCtl s c val) := by
  unfold State.dmaCtl
  dsimp -failIfUnchanged only
  repeat' with_reducible first | assumption | (intro _) | apply State.dmaFetch_layIs | apply State.dmaIrq_layIs | apply State.dmaDisable_layIs | apply State.wr_layIs | apply lay_ite | dsimp only | split

theorem State.dmaDoorbell_layIs {qq : Two LayState} (s : State) (c : Nat) (val : Word) (h_s : LayIs qq s) :
    LayIs qq (State.dmaDoorbell s c val) := by
  unfold State.dmaDoorbell
  dsimp -failIfUnchanged only
  repeat' with_reducible first | assumption | (intro _) | apply State.updCh_layIs | apply State.wr_layIs | apply lay_ite | dsimp only | (apply lay_mk; dsimp only; apply lay_un) | split

theorem State.setWord7_layIs {qq : Two LayState} (s : State) (c : Nat) (w : Word) (h_s : LayIs qq s) :
    LayIs qq (State.setWord7 s c w) := by
  unfold State.setWord7
  dsimp -failIfUnchanged only
  repeat' with_reducible first | assumption | (intro _) | apply State.updCh_layIs | dsimp only | (apply lay_mk; dsimp only; apply lay_un)

theorem State.dmaEnd_layIs {qq : Two LayState} (s : State) (c : Nat) (h_s : LayIs qq s) :
    LayIs qq (State.dmaEnd s c) := by
  unfold State.dmaEnd
  dsimp -failIfUnchanged only
  repeat' with_reducible first | assumption | (intro _) | apply State.setWord7_layIs | apply lay_ite | dsimp only | split

theorem State.dmaPark_layIs {qq : Two LayState} (s : State) (c : Nat) (kind : Nat) (domains : Nat) (h_s : LayIs qq s) :
    LayIs qq (State.dmaPark s c kind domains) := by
  unfold State.dmaPark
  dsimp -failIfUnchanged only
  repeat' with_reducible first | assumption | (intro _) | apply State.parkCheck_layIs | apply State.updCh_layIs | apply lay_ite | dsimp only | (apply lay_mk; dsimp only; apply lay_un) | split

theorem State.dmaPulse_layIs {qq : Two LayState} (s : State) (line : Nat) (h_s : LayIs qq s) :
    LayIs qq (State.dmaPulse s line) := by
  unfold State.dmaPulse
  dsimp -failIfUnchanged only
  repeat' with_reducible first | assumption | (intro _) | apply State.setCst_layIs | apply State.burstIssue_layIs | apply State.wr_layIs | apply lay_ite | dsimp only | (refine lay_pair (by assumption) ?_) | (refine lay_opt (by assumption) ?_) | (refine lay_opt1 (by assumption) ?_) | split

theorem State.dmaQuiesce_layIs {qq : Two LayState} (s : State) (domains : Nat) (h_s : LayIs qq s) :
    LayIs qq (State.dmaQuiesce s domains) := by
  unfold State.dmaQuiesce
  dsimp -failIfUnchanged only
  repeat' with_reducible first | assumption | (intro _) | apply State.dmaPark_layIs | apply State.updDma_layIs | apply State.wr_layIs | (refine lay_foldl ?_ (fun _ _ _ => ?_)) | (refine lay_foldl1 ?_ (fun _ _ _ => ?_)) | (refine lay_foldl2 ?_ (fun _ _ _ => ?_)) | dsimp only | (apply lay_mk; dsimp only; apply lay_un)

theorem State.unpark_layIs {qq : Two LayState} (s : State) (c : Nat) (h_s : LayIs qq s) :
    LayIs qq (State.unpark s c) := by
  unfold State.unpark
  dsimp -failIfUnchanged only
  repeat' with_reducible first | assumption | (intro _) | apply State.setCst_layIs | apply State.updCh_layIs | dsimp only | (apply lay_mk; dsimp only; apply lay_un)

theorem State.dmaRelease_layIs {qq : Two LayState} (s : State) (domains : Nat) (h_s : LayIs qq s) :
    LayIs qq (State.dmaRelease s domains) := by
  unfold State.dmaRelease
  dsimp -failIfUnchanged only
  repeat' with_reducible first | assumption | (intro _) | apply State.unpark_layIs | apply State.setCst_layIs | apply State.updCh_layIs | apply lay_ite | (refine lay_foldl ?_ (fun _ _ _ => ?_)) | (refine lay_foldl1 ?_ (fun _ _ _ => ?_)) | (refine lay_foldl2 ?_ (fun _ _ _ => ?_)) | dsimp only | (apply lay_mk; dsimp only; apply lay_un) | split

theorem State.dmaSettle_layIs {qq : Two LayState} (s : State) (h_s : LayIs qq s) :
    LayIs qq (State.dmaSettle s) := by
  unfold State.dmaSettle
  dsimp -failIfUnchanged only
  repeat' with_reducible first | assumption | apply State.shutDone_layIs | apply lay_ite | dsimp only | split

theorem State.setDescAddr_layIs {qq : Two LayState} (s : State) (c : Nat) (a : Nat) (h_s : LayIs qq s) :
    LayIs qq (State.setDescAddr s c a) := by
  unfold State.setDescAddr
  dsimp -failIfUnchanged only
  repeat' with_reducible first | assumption | apply State.wr_layIs | dsimp only

theorem execDmaBurstIssue_layIs {qq : Two LayState} (s : State) (h_s : LayIs qq s) :
    Out.LayIs qq (execDmaBurstIssue s) := by
  unfold execDmaBurstIssue
  dsimp -failIfUnchanged only
  repeat' with_reducible first | assumption | (intro _) | apply State.parkCheck_layIs | apply State.setCst_layIs | apply State.burstIssue_layIs | apply State.updDma_layIs | apply State.wr_layIs | apply lay_next | apply lay_ite3 | apply lay_ite | (refine lay_foldl ?_ (fun _ _ _ => ?_)) | (refine lay_foldl1 ?_ (fun _ _ _ => ?_)) | (refine lay_foldl2 ?_ (fun _ _ _ => ?_)) | dsimp only | (refine lay_pair (by assumption) ?_) | (refine lay_opt (by assumption) ?_) | (refine lay_opt1 (by assumption) ?_) | (apply lay_mk; dsimp only; apply lay_un) | split

theorem execDmaChDb_layIs {qq : Two LayState} (c : Nat) (val : Word) (s : State) (h_s : LayIs qq s) :
    Out.LayIs qq (execDmaChDb c val s) := by
  unfold execDmaChDb
  dsimp -failIfUnchanged only
  repeat' with_reducible first | assumption | (intro _) | apply State.dmaDoorbell_layIs | apply State.gated_layIs | apply lay_next | apply lay_ite3 | apply lay_ite | dsimp only | split

theorem execDmaChDisable_layIs {qq : Two LayState} (c : Nat) (val : Word) (s : State) (h_s : LayIs qq s) :
    Out.LayIs qq (execDmaChDisable c val s) := by
  unfold execDmaChDisable
  dsimp -failIfUnchanged only
  repeat' with_reducible first | assumption | (intro _) | apply State.dmaCtl_layIs | apply State.gated_layIs | apply lay_next | apply lay_ite3 | apply lay_ite | dsimp only | split

theorem execDmaChEnable_layIs {qq : Two LayState} (c : Nat) (val : Word) (s : State) (h_s : LayIs qq s) :
    Out.LayIs qq (execDmaChEnable c val s) := by
  unfold execDmaChEnable
  dsimp -failIfUnchanged only
  repeat' with_reducible first | assumption | (intro _) | apply State.dmaCtl_layIs | apply State.gated_layIs | apply lay_next | apply lay_ite3 | apply lay_ite | dsimp only | split

theorem execDmaRequestPulse_layIs {qq : Two LayState} (line : Nat) (s : State) (h_s : LayIs qq s) :
    Out.LayIs qq (execDmaRequestPulse line s) := by
  unfold execDmaRequestPulse
  dsimp -failIfUnchanged only
  repeat' with_reducible first | assumption | apply State.dmaPulse_layIs | apply lay_next | apply lay_ite3 | apply lay_ite | dsimp only | split

theorem State.flsIrq_layIs {qq : Two LayState} (s : State) (bit : Nat) (h_s : LayIs qq s) :
    LayIs qq (State.flsIrq s bit) := by
  unfold State.flsIrq
  dsimp -failIfUnchanged only
  repeat' with_reducible first | assumption | apply State.irq_layIs | dsimp only

theorem State.cmdEnd_layIs {qq : Two LayState} (s : State) (r : Nat) (h_s : LayIs qq s) :
    LayIs qq (State.cmdEnd s r) := by
  unfold State.cmdEnd
  dsimp -failIfUnchanged only
  repeat' with_reducible first | assumption | (intro _) | apply State.flsIrq_layIs | apply State.wr_layIs | apply lay_ite | dsimp only | split

theorem State.updFls_layIs {qq : Two LayState} (s : State) (f : FlsState → FlsState) (h_s : LayIs qq s) :
    LayIs qq (State.updFls s f) := by
  unfold State.updFls
  dsimp -failIfUnchanged only
  repeat' with_reducible first | assumption | (intro _) | dsimp only | (apply lay_mk; dsimp only; apply lay_un)

theorem State.seqRead_layIs {qq : Two LayState} (s : State) (h_s : LayIs qq s) :
    LayIs qq (State.seqRead s) := by
  unfold State.seqRead
  dsimp -failIfUnchanged only
  repeat' with_reducible first | assumption | (intro _) | apply State.updFls_layIs | apply State.wr_layIs | dsimp only | (apply lay_mk; dsimp only; apply lay_un)

theorem State.seqErr_layIs {qq : Two LayState} (s : State) (h_s : LayIs qq s) :
    LayIs qq (State.seqErr s) := by
  unfold State.seqErr
  dsimp -failIfUnchanged only
  repeat' with_reducible first | assumption | (intro _) | apply State.seqRead_layIs | apply State.cmdEnd_layIs | apply State.bump_layIs | apply lay_ite | dsimp only | split

theorem State.afterU_layIs {qq : Two LayState} (s : State) (off : Nat) (v : Nat) (h_s : LayIs qq s) :
    LayIs qq (State.afterU s off v) := by
  unfold State.afterU
  dsimp -failIfUnchanged only
  repeat' with_reducible first | assumption | (intro _) | apply State.seqErr_layIs | apply State.seqRead_layIs | apply State.updFls_layIs | apply State.cmdEnd_layIs | apply State.dmaPulse_layIs | apply State.wr_layIs | apply lay_ite | dsimp only | (apply lay_mk; dsimp only; apply lay_un) | split

theorem State.bootWp_layIs {qq : Two LayState} (s : State) (port : Nat) (val : Word) (h_s : LayIs qq s) :
    LayIs qq (State.bootWp s port val) := by
  unfold State.bootWp
  dsimp -failIfUnchanged only
  repeat' with_reducible first | assumption | (intro _) | apply State.flsIrq_layIs | apply State.wr_layIs | apply lay_ite | dsimp only | split

theorem State.opStart_layIs {qq : Two LayState} (s : State) (x : FlsOp) (h_s : LayIs qq s) :
    LayIs qq (State.opStart s x) := by
  unfold State.opStart
  dsimp -failIfUnchanged only
  repeat' with_reducible first | assumption | (intro _) | apply State.updFls_layIs | apply State.wr_layIs | dsimp only | (apply lay_mk; dsimp only; apply lay_un)

theorem State.eraseResume_layIs {qq : Two LayState} (s : State) (vppOk : Bool) (h_s : LayIs qq s) :
    LayIs qq (State.eraseResume s vppOk) := by
  unfold State.eraseResume
  dsimp -failIfUnchanged only
  repeat' with_reducible first | assumption | (intro _) | apply State.opStart_layIs | apply State.updFls_layIs | apply State.cmdEnd_layIs | apply State.wr_layIs | apply lay_ite | dsimp only | (refine lay_pair (by assumption) ?_) | (refine lay_opt (by assumption) ?_) | (refine lay_opt1 (by assumption) ?_) | (apply lay_mk; dsimp only; apply lay_un) | split

theorem State.eraseSuspend_layIs {qq : Two LayState} (s : State) (h_s : LayIs qq s) :
    LayIs qq (State.eraseSuspend s) := by
  unfold State.eraseSuspend
  dsimp -failIfUnchanged only
  repeat' with_reducible first | assumption | (intro _) | apply State.updFls_layIs | apply lay_ite | dsimp only | (apply lay_mk; dsimp only; apply lay_un) | split

theorem State.pwCheck_layIs {qq : Two LayState} (s : State) (l : List Byte) (h_s : LayIs qq s) :
    LayIs qq (State.pwCheck s l) := by
  unfold State.pwCheck
  dsimp -failIfUnchanged only
  repeat' with_reducible first | assumption | (intro _) | apply State.cmdEnd_layIs | apply State.flsIrq_layIs | apply State.wr_layIs | apply lay_ite | dsimp only | split

theorem State.markProg_layIs {qq : Two LayState} (s : State) (w : Nat) (n : Nat) (h_s : LayIs qq s) :
    LayIs qq (State.markProg s w n) := by
  unfold State.markProg
  dsimp -failIfUnchanged only
  repeat' with_reducible first | assumption | (intro _) | apply State.updFls_layIs | dsimp only | (apply lay_mk; dsimp only; apply lay_un)

theorem State.flsStart_layIs {qq : Two LayState} (s : State) (op : Nat) (k : Nat) (words : List (Nat × List Byte)) (pw : List Byte) (vppOk : Bool) (h_s : LayIs qq s) :
    LayIs qq (State.flsStart s op k words pw vppOk) := by
  unfold State.flsStart
  dsimp -failIfUnchanged only
  repeat' with_reducible first | assumption | (intro _) | apply State.markProg_layIs | apply State.pwCheck_layIs | apply State.opStart_layIs | apply State.seqRead_layIs | apply State.cmdEnd_layIs | apply State.setBytes_layIs | apply State.wr_layIs | apply lay_ite | apply lay_ite1 | (refine lay_foldl ?_ (fun _ _ _ => ?_)) | (refine lay_foldl1 ?_ (fun _ _ _ => ?_)) | (refine lay_foldl2 ?_ (fun _ _ _ => ?_)) | dsimp only | (apply lay_mk; dsimp only; apply lay_un) | split

theorem State.eraseTail_layIs {qq : Two LayState} (s : State) (off : Nat) (v : Nat) (vppOk : Bool) (h_s : LayIs qq s) :
    LayIs qq (State.eraseTail s off v vppOk) := by
  unfold State.eraseTail
  dsimp -failIfUnchanged only
  repeat' with_reducible first | assumption | (intro _) | apply State.flsStart_layIs | apply State.seqErr_layIs | apply State.updFls_layIs | apply lay_ite | dsimp only | (apply lay_mk; dsimp only; apply lay_un) | split

theorem State.markErased_layIs {qq : Two LayState} (s : State) (w : Nat) (n : Nat) (h_s : LayIs qq s) :
    LayIs qq (State.markErased s w n) := by
  unfold State.markErased
  dsimp -failIfUnchanged only
  repeat' with_reducible first | assumption | (intro _) | apply State.updFls_layIs | dsimp only | (apply lay_mk; dsimp only; apply lay_un)

theorem State.eraseWhole_layIs {qq : Two LayState} (s : State) (k : Nat) (h_s : LayIs qq s) :
    LayIs qq (State.eraseWhole s k) := by
  unfold State.eraseWhole
  dsimp -failIfUnchanged only
  repeat' with_reducible first | assumption | (intro _) | apply State.markErased_layIs | apply State.updFls_layIs | apply State.wr_layIs | dsimp only | (apply lay_mk; dsimp only; apply lay_un)

theorem State.wordData_layIs {qq : Two LayState} (s : State) (off : Nat) (l : List Byte) (vppOk : Bool) (h_s : LayIs qq s) :
    LayIs qq (State.wordData s off l vppOk) := by
  unfold State.wordData
  dsimp -failIfUnchanged only
  repeat' with_reducible first | assumption | (intro _) | apply State.flsStart_layIs | apply State.seqErr_layIs | apply State.updFls_layIs | apply lay_ite | apply lay_ite1 | dsimp only | (apply lay_mk; dsimp only; apply lay_un) | split

theorem State.pageData_layIs {qq : Two LayState} (s : State) (off : Nat) (l : List Byte) (vppOk : Bool) (h_s : LayIs qq s) :
    LayIs qq (State.pageData s off l vppOk) := by
  unfold State.pageData
  dsimp -failIfUnchanged only
  repeat' with_reducible first | assumption | (intro _) | apply State.flsStart_layIs | apply State.seqErr_layIs | apply State.updFls_layIs | apply State.wr_layIs | apply lay_ite | apply lay_ite1 | dsimp only | (refine lay_pair (by assumption) ?_) | (refine lay_opt (by assumption) ?_) | (refine lay_opt1 (by assumption) ?_) | (apply lay_mk; dsimp only; apply lay_un) | split

theorem State.pwData_layIs {qq : Two LayState} (s : State) (off : Nat) (l : List Byte) (vppOk : Bool) (h_s : LayIs qq s) :
    LayIs qq (State.pwData s off l vppOk) := by
  unfold State.pwData
  dsimp -failIfUnchanged only
  repeat' with_reducible first | assumption | (intro _) | apply State.flsStart_layIs | apply State.seqErr_layIs | apply State.updFls_layIs | apply lay_ite | apply lay_ite1 | dsimp only | (apply lay_mk; dsimp only; apply lay_un) | split

theorem State.phaseWrite_layIs {qq : Two LayState} (s : State) (off : Nat) (l : List Byte) (vppOk : Bool) (h_s : LayIs qq s) :
    LayIs qq (State.phaseWrite s off l vppOk) := by
  unfold State.phaseWrite
  dsimp -failIfUnchanged only
  repeat' with_reducible first | assumption | (intro _) | apply State.pwData_layIs | apply State.pageData_layIs | apply State.wordData_layIs | apply State.eraseTail_layIs | apply State.flsStart_layIs | apply State.seqErr_layIs | apply State.updFls_layIs | apply State.wr_layIs | apply lay_ite | dsimp only | (apply lay_mk; dsimp only; apply lay_un) | split

theorem State.flsCycle_layIs {qq : Two LayState} (s : State) (off : Nat) (l : List Byte) (vppOk : Bool) (h_s : LayIs qq s) :
    LayIs qq (State.flsCycle s off l vppOk) := by
  unfold State.flsCycle
  dsimp -failIfUnchanged only
  repeat' with_reducible first | assumption | (intro _) | apply State.phaseWrite_layIs | apply State.eraseSuspend_layIs | apply State.eraseResume_layIs | apply State.afterU_layIs | apply State.seqErr_layIs | apply State.seqRead_layIs | apply State.flsIrq_layIs | apply State.wr_layIs | apply lay_ite | dsimp only | split

theorem State.flsLost_layIs {qq : Two LayState} (s : State) (h_s : LayIs qq s) :
    LayIs qq (State.flsLost s) := by
  unfold State.flsLost
  dsimp -failIfUnchanged only
  repeat' with_reducible first | assumption | (intro _) | apply State.updFls_layIs | apply State.setBytes_layIs | apply State.drawn_layIs | (refine lay_foldl ?_ (fun _ _ _ => ?_)) | (refine lay_foldl1 ?_ (fun _ _ _ => ?_)) | (refine lay_foldl2 ?_ (fun _ _ _ => ?_)) | dsimp only | (apply lay_mk; dsimp only; apply lay_un)

theorem State.flsReadOp_layIs {qq : Two LayState} (s : State) (a : Nat) (n : Nat) (ecc : Nat) (h_s : LayIs qq s) :
    LayIs qq (State.flsReadOp s a n ecc).1 := by
  unfold State.flsReadOp
  dsimp -failIfUnchanged only
  repeat' with_reducible first | assumption | (intro _) | apply State.flsIrq_layIs | apply State.hwPost_layIs | apply State.drawn_layIs | apply State.bump_layIs | apply lay_ite | apply lay_ite1 | dsimp only | (apply lay_mk; dsimp only; apply lay_un) | split

theorem setMap_layIs {qq : Two LayState} (s : State) (f : Nat → Fld) (k : Nat) (b : Bool) (h_s : LayIs qq s) :
    LayIs qq (setMap s f k b) := by
  unfold setMap
  dsimp -failIfUnchanged only
  repeat' with_reducible first | assumption | (intro _) | apply State.wb_layIs | dsimp only

theorem State.showPpb_layIs {qq : Two LayState} (s : State) (h_s : LayIs qq s) :
    LayIs qq (State.showPpb s) := by
  unfold State.showPpb
  dsimp -failIfUnchanged only
  repeat' with_reducible first | assumption | (intro _) | apply State.wr_layIs | (refine lay_foldl ?_ (fun _ _ _ => ?_)) | (refine lay_foldl1 ?_ (fun _ _ _ => ?_)) | (refine lay_foldl2 ?_ (fun _ _ _ => ?_)) | dsimp only

theorem State.flsWriteOp_layIs {qq : Two LayState} (s : State) (a : Nat) (l : List Byte) (vppOk : Bool) (h_s : LayIs qq s) :
    LayIs qq (State.flsWriteOp s a l vppOk).1 := by
  unfold State.flsWriteOp
  dsimp -failIfUnchanged only
  repeat' with_reducible first | assumption | apply State.flsCycle_layIs | apply lay_ite | apply lay_ite1 | dsimp only | split

theorem State.mscrubClear_layIs {qq : Two LayState} (s : State) (h_s : LayIs qq s) :
    LayIs qq (State.mscrubClear s) := by
  unfold State.mscrubClear
  dsimp -failIfUnchanged only
  repeat' with_reducible first | assumption | apply State.wr_layIs | dsimp only

theorem State.norStore_layIs {qq : Two LayState} (s : State) (a : Nat) (l : List Byte) (h_s : LayIs qq s) :
    LayIs qq (State.norStore s a l) := by
  unfold State.norStore
  dsimp -failIfUnchanged only
  repeat' with_reducible first | assumption | apply State.markProg_layIs | apply State.setBytes_layIs | dsimp only

theorem State.opEnd_layIs {qq : Two LayState} (s : State) (r : Nat) (h_s : LayIs qq s) :
    LayIs qq (State.opEnd s r) := by
  unfold State.opEnd
  dsimp -failIfUnchanged only
  repeat' with_reducible first | assumption | (intro _) | apply State.updFls_layIs | apply State.cmdEnd_layIs | apply State.wr_layIs | dsimp only | (apply lay_mk; dsimp only; apply lay_un)

theorem State.suspendNow_layIs {qq : Two LayState} (s : State) (r : FlsOp) (h_s : LayIs qq s) :
    LayIs qq (State.suspendNow s r) := by
  unfold State.suspendNow
  dsimp -failIfUnchanged only
  repeat' with_reducible first | assumption | (intro _) | apply State.updFls_layIs | apply State.wr_layIs | dsimp only | (apply lay_mk; dsimp only; apply lay_un)

theorem State.unlockCmd_layIs {qq : Two LayState} (s : State) (v : Nat) (vppOk : Bool) (h_s : LayIs qq s) :
    LayIs qq (State.unlockCmd s v vppOk) := by
  unfold State.unlockCmd
  dsimp -failIfUnchanged only
  repeat' with_reducible first | assumption | apply State.flsCycle_layIs | dsimp only

theorem execBufferProgram_layIs {qq : Two LayState} (writes : List (Nat × List Byte)) (vppOk : Bool) (s : State) (h_s : LayIs qq s) :
    Out.LayIs qq (execBufferProgram writes vppOk s) := by
  unfold execBufferProgram
  dsimp -failIfUnchanged only
  repeat' with_reducible first | assumption | (intro _) | apply State.unlockCmd_layIs | apply State.flsWriteOp_layIs | apply State.flsCycle_layIs | apply lay_next | apply lay_ite3 | (refine lay_foldl ?_ (fun _ _ _ => ?_)) | (refine lay_foldl1 ?_ (fun _ _ _ => ?_)) | (refine lay_foldl2 ?_ (fun _ _ _ => ?_)) | dsimp only

theorem execErasePulseDone_layIs {qq : Two LayState} (pass : Bool) (vppOk : Bool) (s : State) (h_s : LayIs qq s) :
    Out.LayIs qq (execErasePulseDone pass vppOk s) := by
  unfold execErasePulseDone
  dsimp -failIfUnchanged only
  repeat' with_reducible first | assumption | (intro _) | apply State.suspendNow_layIs | apply State.opEnd_layIs | apply State.updFls_layIs | apply lay_next | apply lay_ite3 | apply lay_ite | dsimp only | (refine lay_pair (by assumption) ?_) | (refine lay_opt (by assumption) ?_) | (refine lay_opt1 (by assumption) ?_) | (apply lay_mk; dsimp only; apply lay_un) | split

theorem execEraseResume_layIs {qq : Two LayState} (vppOk : Bool) (s : State) (h_s : LayIs qq s) :
    Out.LayIs qq (execEraseResume vppOk s) := by
  unfold execEraseResume
  dsimp -failIfUnchanged only
  repeat' with_reducible first | assumption | apply State.flsCycle_layIs | apply lay_next | apply lay_ite3 | dsimp only

theorem execEraseSuspend_layIs {qq : Two LayState} (s : State) (h_s : LayIs qq s) :
    Out.LayIs qq (execEraseSuspend s) := by
  unfold execEraseSuspend
  dsimp -failIfUnchanged only
  repeat' with_reducible first | assumption | apply State.flsCycle_layIs | apply lay_next | apply lay_ite3 | dsimp only

theorem execFlashCommandCycle_layIs {qq : Two LayState} (addr : Nat) (bytes : List Byte) (vppOk : Bool) (s : State) (h_s : LayIs qq s) :
    Out.LayIs qq (execFlashCommandCycle addr bytes vppOk s) := by
  unfold execFlashCommandCycle
  dsimp -failIfUnchanged only
  repeat' with_reducible first | assumption | (intro _) | apply State.flsWriteOp_layIs | apply lay_next | apply lay_ite3 | apply lay_ite | apply lay_ite1 | dsimp only | (apply lay_mk; dsimp only; apply lay_un) | split

theorem execFlashRead_layIs {qq : Two LayState} (addr : Nat) (n : Nat) (ecc : Nat) (s : State) (h_s : LayIs qq s) :
    Out.LayIs qq (execFlashRead addr n ecc s) := by
  unfold execFlashRead
  dsimp -failIfUnchanged only
  repeat' with_reducible first | assumption | (intro _) | apply State.flsReadOp_layIs | apply lay_next | apply lay_ite3 | apply lay_ite | apply lay_ite1 | dsimp only | (apply lay_mk; dsimp only; apply lay_un) | split

theorem execFlashReset_layIs {qq : Two LayState} (s : State) (h_s : LayIs qq s) :
    Out.LayIs qq (execFlashReset s) := by
  unfold execFlashReset
  dsimp -failIfUnchanged only
  repeat' with_reducible first | assumption | apply State.flsCycle_layIs | apply lay_next | apply lay_ite3 | dsimp only

theorem execFlsBootWpWrite_layIs {qq : Two LayState} (port : Nat) (val : Word) (s : State) (h_s : LayIs qq s) :
    Out.LayIs qq (execFlsBootWpWrite port val s) := by
  unfold execFlsBootWpWrite
  dsimp -failIfUnchanged only
  repeat' with_reducible first | assumption | (intro _) | apply State.bootWp_layIs | apply State.gated_layIs | apply lay_next | apply lay_ite3 | dsimp only

theorem execFlsCntClr_layIs {qq : Two LayState} (val : Word) (s : State) (h_s : LayIs qq s) :
    Out.LayIs qq (execFlsCntClr val s) := by
  unfold execFlsCntClr
  dsimp -failIfUnchanged only
  repeat' with_reducible first | assumption | (intro _) | apply State.gated_layIs | apply State.setReg_layIs | apply lay_next | apply lay_ite3 | apply lay_ite | dsimp only | split

theorem execMarginScrubRead_layIs {qq : Two LayState} (fails : Bool) (s : State) (h_s : LayIs qq s) :
    Out.LayIs qq (execMarginScrubRead fails s) := by
  unfold execMarginScrubRead
  dsimp -failIfUnchanged only
  repeat' with_reducible first | assumption | (intro _) | apply State.flsIrq_layIs | apply State.hwPost_layIs | apply State.bump_layIs | apply State.wr_layIs | apply lay_next | apply lay_ite3 | apply lay_ite | apply lay_ite1 | dsimp only | split

theorem execMetadataWriteDone_layIs {qq : Two LayState} (s : State) (h_s : LayIs qq s) :
    Out.LayIs qq (execMetadataWriteDone s) := by
  unfold execMetadataWriteDone
  dsimp -failIfUnchanged only
  repeat' with_reducible first | assumption | (intro _) | apply State.suspendNow_layIs | apply State.opEnd_layIs | apply State.showPpb_layIs | apply setMap_layIs | apply State.markErased_layIs | apply State.updFls_layIs | apply State.flsIrq_layIs | apply State.hwPost_layIs | apply State.wr_layIs | apply lay_next | apply lay_ite3 | apply lay_ite | apply lay_ite1 | dsimp only | (refine lay_pair (by assumption) ?_) | (refine lay_opt (by assumption) ?_) | (refine lay_opt1 (by assumption) ?_) | (apply lay_mk; dsimp only; apply lay_un) | split

theorem execMscrubFailClear_layIs {qq : Two LayState} (_val : Word) (s : State) (h_s : LayIs qq s) :
    Out.LayIs qq (execMscrubFailClear _val s) := by
  unfold execMscrubFailClear
  dsimp -failIfUnchanged only
  repeat' with_reducible first | assumption | (intro _) | apply State.mscrubClear_layIs | apply State.gated_layIs | apply lay_next | apply lay_ite3 | dsimp only

theorem execPasswordCheck_layIs {qq : Two LayState} (pw : List Byte) (vppOk : Bool) (s : State) (h_s : LayIs qq s) :
    Out.LayIs qq (execPasswordCheck pw vppOk s) := by
  unfold execPasswordCheck
  dsimp -failIfUnchanged only
  repeat' with_reducible first | assumption | apply State.unlockCmd_layIs | apply State.flsCycle_layIs | apply lay_next | apply lay_ite3 | dsimp only

theorem execPasswordClose_layIs {qq : Two LayState} (s : State) (h_s : LayIs qq s) :
    Out.LayIs qq (execPasswordClose s) := by
  unfold execPasswordClose
  dsimp -failIfUnchanged only
  repeat' with_reducible first | assumption | apply State.unlockCmd_layIs | apply lay_next | apply lay_ite3 | dsimp only

theorem execPasswordSet_layIs {qq : Two LayState} (pw : List Byte) (vppOk : Bool) (s : State) (h_s : LayIs qq s) :
    Out.LayIs qq (execPasswordSet pw vppOk s) := by
  unfold execPasswordSet
  dsimp -failIfUnchanged only
  repeat' with_reducible first | assumption | apply State.unlockCmd_layIs | apply State.flsCycle_layIs | apply lay_next | apply lay_ite3 | dsimp only

theorem execPpbClearAll_layIs {qq : Two LayState} (vppOk : Bool) (s : State) (h_s : LayIs qq s) :
    Out.LayIs qq (execPpbClearAll vppOk s) := by
  unfold execPpbClearAll
  dsimp -failIfUnchanged only
  repeat' with_reducible first | assumption | apply State.unlockCmd_layIs | apply State.flsCycle_layIs | apply lay_next | apply lay_ite3 | dsimp only

theorem execPpbSet_layIs {qq : Two LayState} (addr : Nat) (value : Nat) (vppOk : Bool) (s : State) (h_s : LayIs qq s) :
    Out.LayIs qq (execPpbSet addr value vppOk s) := by
  unfold execPpbSet
  dsimp -failIfUnchanged only
  repeat' with_reducible first | assumption | apply State.unlockCmd_layIs | apply State.flsWriteOp_layIs | apply lay_next | apply lay_ite3 | dsimp only

theorem execProgramDone_layIs {qq : Two LayState} (fail : Option Nat) (retries : Nat) (s : State) (h_s : LayIs qq s) :
    Out.LayIs qq (execProgramDone fail retries s) := by
  unfold execProgramDone
  dsimp -failIfUnchanged only
  repeat' with_reducible first | assumption | (intro _) | apply State.opEnd_layIs | apply State.setBytes_layIs | apply State.drawn_layIs | apply State.wr_layIs | apply lay_next | apply lay_ite3 | apply lay_ite | apply lay_ite1 | (refine lay_foldl ?_ (fun _ _ _ => ?_)) | (refine lay_foldl1 ?_ (fun _ _ _ => ?_)) | (refine lay_foldl2 ?_ (fun _ _ _ => ?_)) | dsimp only | (refine lay_pair (by assumption) ?_) | (refine lay_opt (by assumption) ?_) | (refine lay_opt1 (by assumption) ?_) | split

theorem execSectorErase_layIs {qq : Two LayState} (index : Nat) (target : Nat) (vppOk : Bool) (s : State) (h_s : LayIs qq s) :
    Out.LayIs qq (execSectorErase index target vppOk s) := by
  unfold execSectorErase
  dsimp -failIfUnchanged only
  repeat' with_reducible first | assumption | (intro _) | apply State.unlockCmd_layIs | apply State.flsWriteOp_layIs | apply State.flsCycle_layIs | apply lay_next | apply lay_ite3 | dsimp only

theorem execSuspendDone_layIs {qq : Two LayState} (s : State) (h_s : LayIs qq s) :
    Out.LayIs qq (execSuspendDone s) := by
  unfold execSuspendDone
  dsimp -failIfUnchanged only
  repeat' with_reducible first | assumption | apply State.suspendNow_layIs | apply lay_next | apply lay_ite3 | apply lay_ite | dsimp only | (refine lay_pair (by assumption) ?_) | (refine lay_opt (by assumption) ?_) | (refine lay_opt1 (by assumption) ?_) | split

theorem execWordProgram_layIs {qq : Two LayState} (addr : Nat) (bytes : List Byte) (vppOk : Bool) (s : State) (h_s : LayIs qq s) :
    Out.LayIs qq (execWordProgram addr bytes vppOk s) := by
  unfold execWordProgram
  dsimp -failIfUnchanged only
  repeat' with_reducible first | assumption | apply State.unlockCmd_layIs | apply State.flsWriteOp_layIs | apply lay_next | apply lay_ite3 | dsimp only

theorem State.recBegin_layIs {qq : Two LayState} (s : State) (v : Nat) (tok : Option (Nat × Nat)) (h_s : LayIs qq s) :
    LayIs qq (State.recBegin s v tok) := by
  unfold State.recBegin
  dsimp -failIfUnchanged only
  repeat' with_reducible first | assumption | apply State.wr_layIs | apply lay_ite | dsimp only | (apply lay_mk; dsimp only; apply lay_un) | split

theorem State.slotStore_layIs {qq : Two LayState} (s : State) (k : Nat) (b : List Byte) (failed : Bool) (h_s : LayIs qq s) :
    LayIs qq (State.slotStore s k b failed) := by
  unfold State.slotStore
  dsimp -failIfUnchanged only
  repeat' with_reducible first | assumption | (intro _) | apply State.norStore_layIs | apply State.eraseWhole_layIs | (refine lay_foldl ?_ (fun _ _ _ => ?_)) | (refine lay_foldl1 ?_ (fun _ _ _ => ?_)) | (refine lay_foldl2 ?_ (fun _ _ _ => ?_)) | dsimp only | (apply lay_mk; dsimp only; apply lay_un)

theorem State.updDom_layIs {qq : Two LayState} (s : State) (f : DomState → DomState) (h_s : LayIs qq s) :
    LayIs qq (State.updDom s f) := by
  unfold State.updDom
  dsimp -failIfUnchanged only
  repeat' with_reducible first | assumption | (intro _) | dsimp only | (apply lay_mk; dsimp only; apply lay_un)

theorem State.runStarved_layIs {qq : Two LayState} (s : State) (t : Tower) (h_s : LayIs qq s) :
    LayIs qq (State.runStarved s t) := by
  unfold State.runStarved
  dsimp -failIfUnchanged only
  repeat' with_reducible first | assumption | (intro _) | apply State.dropGates_layIs | apply State.sectorEnd_layIs | apply lay_ite | dsimp only | (refine lay_pair (by assumption) ?_) | (refine lay_opt (by assumption) ?_) | (refine lay_opt1 (by assumption) ?_) | split

theorem State.domIrq_layIs {qq : Two LayState} (s : State) (bit : Nat) (h_s : LayIs qq s) :
    LayIs qq (State.domIrq s bit) := by
  unfold State.domIrq
  dsimp -failIfUnchanged only
  repeat' with_reducible first | assumption | apply State.irq_layIs | dsimp only

theorem State.domError_layIs {qq : Two LayState} (s : State) (bit : Nat) (h_s : LayIs qq s) :
    LayIs qq (State.domError s bit) := by
  unfold State.domError
  dsimp -failIfUnchanged only
  repeat' with_reducible first | assumption | (intro _) | apply State.domIrq_layIs | apply State.runStarved_layIs | apply State.updDom_layIs | apply State.hwPost_layIs | apply State.wr_layIs | apply lay_ite | dsimp only | (apply lay_mk; dsimp only; apply lay_un) | split

theorem State.selfTests_layIs {qq : Two LayState} (s : State) (pass : Nat) (h_s : LayIs qq s) :
    LayIs qq (State.selfTests s pass).1 := by
  unfold State.selfTests
  dsimp -failIfUnchanged only
  repeat' with_reducible first | assumption | (intro _) | apply State.domError_layIs | apply State.updDom_layIs | apply State.wr_layIs | apply lay_ite | apply lay_ite1 | dsimp only | (refine lay_pair (by assumption) ?_) | (refine lay_opt (by assumption) ?_) | (refine lay_opt1 (by assumption) ?_) | (apply lay_mk; dsimp only; apply lay_un) | split

theorem State.domCmd_layIs {qq : Two LayState} (s : State) (val : Word) (pass : Nat) (h_s : LayIs qq s) :
    LayIs qq (State.domCmd s val pass) := by
  unfold State.domCmd
  dsimp -failIfUnchanged only
  repeat' with_reducible first | assumption | (intro _) | apply State.selfTests_layIs | apply State.recBegin_layIs | apply lay_ite | apply lay_ite1 | dsimp only | split

theorem State.setXts_layIs {qq : Two LayState} (s : State) (t : Tower) (n : Nat) (k : Option Nat) (h_s : LayIs qq s) :
    LayIs qq (State.setXts s t n k) := by
  unfold State.setXts
  dsimp -failIfUnchanged only
  repeat' with_reducible first | assumption | (intro _) | dsimp only | (apply lay_mk; dsimp only; apply lay_un)

theorem State.setXtsBoth_layIs {qq : Two LayState} (s : State) (n : Nat) (k : Option Nat) (h_s : LayIs qq s) :
    LayIs qq (State.setXtsBoth s n k) := by
  unfold State.setXtsBoth
  dsimp -failIfUnchanged only
  repeat' with_reducible first | assumption | apply State.setXts_layIs | dsimp only

theorem State.updVault_layIs {qq : Two LayState} (s : State) (v : Nat) (f : Vault → Vault) (h_s : LayIs qq s) :
    LayIs qq (State.updVault s v f) := by
  unfold State.updVault
  dsimp -failIfUnchanged only
  repeat' with_reducible first | assumption | (apply lay_id; assumption) | (intro _) | apply State.updDom_layIs | apply lay_ite | dsimp only | (apply lay_mk; dsimp only; apply lay_un) | split

theorem State.vaultOpen_layIs {qq : Two LayState} (s : State) (v : Nat) (key : Nat) (h_s : LayIs qq s) :
    LayIs qq (State.vaultOpen s v key) := by
  unfold State.vaultOpen
  dsimp -failIfUnchanged only
  repeat' with_reducible first | assumption | (intro _) | apply State.updVault_layIs | apply State.setXtsBoth_layIs | dsimp only | (apply lay_mk; dsimp only; apply lay_un)

theorem State.domOperational_layIs {qq : Two LayState} (s : State) (h_s : LayIs qq s) :
    LayIs qq (State.domOperational s) := by
  unfold State.domOperational
  dsimp -failIfUnchanged only
  repeat' with_reducible first | assumption | (apply lay_id; assumption) | (intro _) | apply State.vaultOpen_layIs | apply State.setXtsBoth_layIs | apply State.updDom_layIs | apply State.newCookie_layIs | apply State.wb_layIs | apply State.wr_layIs | (refine lay_foldl ?_ (fun _ _ _ => ?_)) | (refine lay_foldl1 ?_ (fun _ _ _ => ?_)) | (refine lay_foldl2 ?_ (fun _ _ _ => ?_)) | dsimp only | (refine lay_pair (by assumption) ?_) | (refine lay_opt (by assumption) ?_) | (refine lay_opt1 (by assumption) ?_) | (apply lay_mk; dsimp only; apply lay_un) | split

theorem State.kbPerform_layIs {qq : Two LayState} (s : State) (k : KbOp) (h_s : LayIs qq s) :
    LayIs qq (State.kbPerform s k) := by
  unfold State.kbPerform
  dsimp -failIfUnchanged only
  repeat' with_reducible first | assumption | (intro _) | apply State.setXts_layIs | apply State.setGcm_layIs | apply lay_ite | apply lay_ite1 | dsimp only | (apply lay_mk; dsimp only; apply lay_un) | split

theorem State.kbWrite_layIs {qq : Two LayState} (s : State) (val : Word) (h_s : LayIs qq s) :
    LayIs qq (State.kbWrite s val) := by
  unfold State.kbWrite
  dsimp -failIfUnchanged only
  repeat' with_reducible first | assumption | (intro _) | apply State.domIrq_layIs | apply State.updDom_layIs | apply State.storeRow_layIs | apply State.wb_layIs | apply State.wr_layIs | apply lay_ite | dsimp only | (apply lay_mk; dsimp only; apply lay_un) | split

theorem State.loadHuk_layIs {qq : Two LayState} (s : State) (h_s : LayIs qq s) :
    LayIs qq (State.loadHuk s) := by
  unfold State.loadHuk
  dsimp -failIfUnchanged only
  repeat' with_reducible first | assumption | (intro _) | apply State.updDom_layIs | dsimp only | (apply lay_mk; dsimp only; apply lay_un)

theorem execClockRecordTimer_layIs {qq : Two LayState} (s : State) (h_s : LayIs qq s) :
    Out.LayIs qq (execClockRecordTimer s) := by
  unfold execClockRecordTimer
  dsimp -failIfUnchanged only
  repeat' with_reducible first | assumption | apply State.recBegin_layIs | apply lay_next | apply lay_ite3 | apply lay_ite | dsimp only | split

theorem execClockTick_layIs {qq : Two LayState} (s : State) (h_s : LayIs qq s) :
    Out.LayIs qq (execClockTick s) := by
  unfold execClockTick
  dsimp -failIfUnchanged only
  repeat' with_reducible first | assumption | (intro _) | apply State.updDom_layIs | apply State.wr_layIs | apply lay_next | apply lay_ite3 | dsimp only | (apply lay_mk; dsimp only; apply lay_un)

theorem execEntropyHealthFail_layIs {qq : Two LayState} (s : State) (h_s : LayIs qq s) :
    Out.LayIs qq (execEntropyHealthFail s) := by
  unfold execEntropyHealthFail
  dsimp -failIfUnchanged only
  repeat' with_reducible first | assumption | apply State.domError_layIs | apply State.wr_layIs | apply lay_next | apply lay_ite3 | apply lay_ite | dsimp only | split

theorem execKeyBusDone_layIs {qq : Two LayState} (s : State) (h_s : LayIs qq s) :
    Out.LayIs qq (execKeyBusDone s) := by
  unfold execKeyBusDone
  dsimp -failIfUnchanged only
  repeat' with_reducible first | assumption | (intro _) | apply State.kbPerform_layIs | apply State.domIrq_layIs | apply State.updDom_layIs | apply State.wr_layIs | apply lay_next | apply lay_ite3 | apply lay_ite | dsimp only | (refine lay_pair (by assumption) ?_) | (refine lay_opt (by assumption) ?_) | (refine lay_opt1 (by assumption) ?_) | (apply lay_mk; dsimp only; apply lay_un) | split

theorem execKeyClear_layIs {qq : Two LayState} (val : Word) (s : State) (h_s : LayIs qq s) :
    Out.LayIs qq (execKeyClear val s) := by
  unfold execKeyClear
  dsimp -failIfUnchanged only
  repeat' with_reducible first | assumption | (intro _) | apply State.kbWrite_layIs | apply State.gated_layIs | apply lay_next | apply lay_ite3 | dsimp only

theorem execKeyClearAll_layIs {qq : Two LayState} (val : Word) (s : State) (h_s : LayIs qq s) :
    Out.LayIs qq (execKeyClearAll val s) := by
  unfold execKeyClearAll
  dsimp -failIfUnchanged only
  repeat' with_reducible first | assumption | (intro _) | apply State.kbWrite_layIs | apply State.gated_layIs | apply lay_next | apply lay_ite3 | dsimp only

theorem execKeyLoad_layIs {qq : Two LayState} (val : Word) (s : State) (h_s : LayIs qq s) :
    Out.LayIs qq (execKeyLoad val s) := by
  unfold execKeyLoad
  dsimp -failIfUnchanged only
  repeat' with_reducible first | assumption | (intro _) | apply State.kbWrite_layIs | apply State.gated_layIs | apply lay_next | apply lay_ite3 | dsimp only

theorem execRecNow_layIs {qq : Two LayState} (val : Word) (s : State) (h_s : LayIs qq s) :
    Out.LayIs qq (execRecNow val s) := by
  unfold execRecNow
  dsimp -failIfUnchanged only
  repeat' with_reducible first | assumption | (intro _) | apply State.domCmd_layIs | apply State.gated_layIs | apply lay_next | apply lay_ite3 | dsimp only

theorem execStRun_layIs {qq : Two LayState} (val : Word) (pass : Nat) (s : State) (h_s : LayIs qq s) :
    Out.LayIs qq (execStRun val pass s) := by
  unfold execStRun
  dsimp -failIfUnchanged only
  repeat' with_reducible first | assumption | (intro _) | apply State.domCmd_layIs | apply State.gated_layIs | apply lay_next | apply lay_ite3 | dsimp only

theorem State.hartRelease_layIs {qq : Two LayState} (s : State) (m : Nat) (h_s : LayIs qq s) :
    LayIs qq (State.hartRelease s m) := by
  unfold State.hartRelease
  dsimp -failIfUnchanged only
  repeat' with_reducible first | assumption | (intro _) | apply State.wr_layIs | dsimp only

theorem State.mqReset_layIs {qq : Two LayState} (s : State) (t : Tower) (h_s : LayIs qq s) :
    LayIs qq (State.mqReset s t) := by
  unfold State.mqReset
  dsimp -failIfUnchanged only
  repeat' with_reducible first | assumption | dsimp only | (apply lay_mk; dsimp only; apply lay_un)

theorem State.towerReset_layIs {qq : Two LayState} (s : State) (t : Tower) (h_s : LayIs qq s) :
    LayIs qq (State.towerReset s t) := by
  unfold State.towerReset
  dsimp -failIfUnchanged only
  repeat' with_reducible first | assumption | (intro _) | apply State.mqReset_layIs | apply State.updTwr_layIs | apply State.updChn_layIs | dsimp only | (apply lay_mk; dsimp only; apply lay_un)

theorem State.unitReset_layIs {qq : Two LayState} (s : State) (d : Nat) (h_s : LayIs qq s) :
    LayIs qq (State.unitReset s d) := by
  unfold State.unitReset
  dsimp -failIfUnchanged only
  repeat' with_reducible first | assumption | (intro _) | apply State.towerReset_layIs | apply State.updDom_layIs | apply State.flsLost_layIs | apply State.memLost_layIs | apply State.updAot_layIs | dsimp only | (refine lay_pair (by assumption) ?_) | (refine lay_opt (by assumption) ?_) | (refine lay_opt1 (by assumption) ?_) | (apply lay_mk; dsimp only; apply lay_un) | split

theorem State.domReset_layIs {qq : Two LayState} (s : State) (m : Nat) (h_s : LayIs qq s) :
    LayIs qq (State.domReset s m) := by
  unfold State.domReset
  dsimp -failIfUnchanged only
  repeat' with_reducible first | assumption | (apply lay_id; assumption) | (intro _) | apply State.unitReset_layIs | apply State.levelShow_layIs | apply State.blockReset_layIs | apply lay_next | apply lay_ite | apply lay_ite1 | apply lay_ite3 | (refine lay_foldl ?_ (fun _ _ _ => ?_)) | (refine lay_foldl1 ?_ (fun _ _ _ => ?_)) | (refine lay_foldl2 ?_ (fun _ _ _ => ?_)) | (intro _) | dsimp only | (refine lay_pair (by assumption) ?_) | (refine lay_opt (by assumption) ?_) | (refine lay_opt1 (by assumption) ?_) | apply optLayIs_some | apply optLayIs_none | apply optLayIs_ite | (apply lay_mk; dsimp only; apply lay_un) | split

theorem State.pllLock_layIs {qq : Two LayState} (s : State) (h_s : LayIs qq s) :
    LayIs qq (State.pllLock s) := by
  unfold State.pllLock
  dsimp -failIfUnchanged only
  repeat' with_reducible first | assumption | apply State.wr_layIs | dsimp only

theorem State.fuseLoad_layIs {qq : Two LayState} (s : State) (h_s : LayIs qq s) :
    LayIs qq (State.fuseLoad s) := by
  unfold State.fuseLoad
  dsimp -failIfUnchanged only
  repeat' with_reducible first | assumption | (intro _) | apply State.wb_layIs | apply State.wr_layIs | apply State.setReg_layIs | apply lay_ite | apply lay_ite1 | (refine lay_foldl ?_ (fun _ _ _ => ?_)) | (refine lay_foldl1 ?_ (fun _ _ _ => ?_)) | (refine lay_foldl2 ?_ (fun _ _ _ => ?_)) | dsimp only | split

theorem State.updPwr_layIs {qq : Two LayState} (s : State) (f : PwrState → PwrState) (h_s : LayIs qq s) :
    LayIs qq (State.updPwr s f) := by
  unfold State.updPwr
  dsimp -failIfUnchanged only
  repeat' with_reducible first | assumption | (intro _) | dsimp only | (apply lay_mk; dsimp only; apply lay_un)

theorem State.belIrq_layIs {qq : Two LayState} (s : State) (bit : Nat) (h_s : LayIs qq s) :
    LayIs qq (State.belIrq s bit) := by
  unfold State.belIrq
  dsimp -failIfUnchanged only
  repeat' with_reducible first | assumption | apply State.irq_layIs | dsimp only

theorem State.pwrIrq_layIs {qq : Two LayState} (s : State) (p : Nat) (bit : Nat) (h_s : LayIs qq s) :
    LayIs qq (State.pwrIrq s p bit) := by
  unfold State.pwrIrq
  dsimp -failIfUnchanged only
  repeat' with_reducible first | assumption | apply State.irq_layIs | dsimp only

theorem State.avsFail_layIs {qq : Two LayState} (s : State) (err : Nat) (h_s : LayIs qq s) :
    LayIs qq (State.avsFail s err) := by
  unfold State.avsFail
  dsimp -failIfUnchanged only
  repeat' with_reducible first | assumption | apply State.pwrIrq_layIs | apply State.wr_layIs | dsimp only

theorem State.avsWrite_layIs {qq : Two LayState} (s : State) (val : Word) (nack : Bool) (h_s : LayIs qq s) :
    LayIs qq (State.avsWrite s val nack) := by
  unfold State.avsWrite
  dsimp -failIfUnchanged only
  repeat' with_reducible first | assumption | (intro _) | apply State.avsFail_layIs | apply State.updPwr_layIs | apply State.wr_layIs | apply lay_ite | dsimp only | (apply lay_mk; dsimp only; apply lay_un) | split

theorem State.belCmd_layIs {qq : Two LayState} (s : State) (val : Word) (h_s : LayIs qq s) :
    LayIs qq (State.belCmd s val) := by
  unfold State.belCmd
  dsimp -failIfUnchanged only
  repeat' with_reducible first | assumption | (intro _) | apply State.belIrq_layIs | apply State.updSrv_layIs | apply State.wr_layIs | apply lay_ite | dsimp only | (apply lay_mk; dsimp only; apply lay_un) | split

theorem State.cpuWrite_layIs {qq : Two LayState} (s : State) (val : Word) (h_s : LayIs qq s) :
    LayIs qq (State.cpuWrite s val) := by
  unfold State.cpuWrite
  dsimp -failIfUnchanged only
  repeat' with_reducible first | assumption | (intro _) | apply State.irq_layIs | apply State.wr_layIs | apply lay_ite | dsimp only | split

theorem State.dmaContinue_layIs {qq : Two LayState} (s : State) (gated : Nat) (h_s : LayIs qq s) :
    LayIs qq (State.dmaContinue s gated) := by
  unfold State.dmaContinue
  dsimp -failIfUnchanged only
  repeat' with_reducible first | assumption | (intro _) | apply State.dmaRelease_layIs | apply State.updCh_layIs | (refine lay_foldl ?_ (fun _ _ _ => ?_)) | (refine lay_foldl1 ?_ (fun _ _ _ => ?_)) | (refine lay_foldl2 ?_ (fun _ _ _ => ?_)) | dsimp only | (apply lay_mk; dsimp only; apply lay_un)

theorem State.domBusy_layIs {qq : Two LayState} (s : State) (r : DomReq) (h_s : LayIs qq s) :
    LayIs qq (State.domBusy s r) := by
  unfold State.domBusy
  dsimp -failIfUnchanged only
  repeat' with_reducible first | assumption | (intro _) | apply State.updPwr_layIs | apply State.wr_layIs | dsimp only | (apply lay_mk; dsimp only; apply lay_un)

theorem State.domEnd_layIs {qq : Two LayState} (s : State) (result : Nat) (dom : Nat) (h_s : LayIs qq s) :
    LayIs qq (State.domEnd s result dom) := by
  unfold State.domEnd
  dsimp -failIfUnchanged only
  repeat' with_reducible first | assumption | (intro _) | apply State.pwrIrq_layIs | apply State.updPwr_layIs | apply State.wr_layIs | apply lay_ite | dsimp only | (apply lay_mk; dsimp only; apply lay_un) | split

theorem State.domDown_layIs {qq : Two LayState} (s : State) (m : Nat) (h_s : LayIs qq s) :
    LayIs qq (State.domDown s m) := by
  unfold State.domDown
  dsimp -failIfUnchanged only
  repeat' with_reducible first | assumption | (intro _) | apply State.domEnd_layIs | apply State.domBusy_layIs | apply State.dmaQuiesce_layIs | dsimp only | (refine lay_pair (by assumption) ?_) | (refine lay_opt (by assumption) ?_) | (refine lay_opt1 (by assumption) ?_) | (apply lay_mk; dsimp only; apply lay_un) | split

theorem State.pwrRefuse_layIs {qq : Two LayState} (s : State) (h_s : LayIs qq s) :
    LayIs qq (State.pwrRefuse s) := by
  unfold State.pwrRefuse
  dsimp -failIfUnchanged only
  repeat' with_reducible first | assumption | apply State.pwrIrq_layIs | dsimp only

theorem State.domUp_layIs {qq : Two LayState} (s : State) (m : Nat) (h_s : LayIs qq s) :
    LayIs qq (State.domUp s m) := by
  unfold State.domUp
  dsimp -failIfUnchanged only
  repeat' with_reducible first | assumption | apply State.domBusy_layIs | dsimp only | (apply lay_mk; dsimp only; apply lay_un)

theorem State.domReqWrite_layIs {qq : Two LayState} (s : State) (val : Word) (h_s : LayIs qq s) :
    LayIs qq (State.domReqWrite s val) := by
  unfold State.domReqWrite
  dsimp -failIfUnchanged only
  repeat' with_reducible first | assumption | (intro _) | apply State.domUp_layIs | apply State.pwrRefuse_layIs | apply State.domDown_layIs | apply State.wr_layIs | apply lay_ite | dsimp only | split

theorem State.gate_layIs {qq : Two LayState} (s : State) (m : Nat) (h_s : LayIs qq s) :
    LayIs qq (State.gate s m) := by
  unfold State.gate
  dsimp -failIfUnchanged only
  repeat' with_reducible first | assumption | (intro _) | apply State.domReset_layIs | apply State.wr_layIs | dsimp only

theorem State.inLevel_layIs {qq : Two LayState} (s : State) (i : Nat) (h_s : LayIs qq s) :
    LayIs qq (State.inLevel s i) := by
  unfold State.inLevel
  dsimp -failIfUnchanged only
  repeat' with_reducible first | assumption | apply State.shockSet_layIs | apply State.regateBoth_layIs | apply lay_ite | dsimp only | split

theorem State.quiesceEnd_layIs {qq : Two LayState} (s : State) (r : DomReq) (ok : Nat) (h_s : LayIs qq s) :
    LayIs qq (State.quiesceEnd s r ok) := by
  unfold State.quiesceEnd
  dsimp -failIfUnchanged only
  repeat' with_reducible first | assumption | (intro _) | apply State.gate_layIs | apply State.domEnd_layIs | apply State.dmaContinue_layIs | apply State.updPwr_layIs | apply State.dmaRelease_layIs | apply State.dmaIrq_layIs | apply State.updDma_layIs | apply State.wr_layIs | apply lay_ite | dsimp only | (apply lay_mk; dsimp only; apply lay_un) | split

theorem State.shedBegin_layIs {qq : Two LayState} (s : State) (m : Nat) (h_s : LayIs qq s) :
    LayIs qq (State.shedBegin s m) := by
  unfold State.shedBegin
  dsimp -failIfUnchanged only
  repeat' with_reducible first | assumption | (intro _) | apply State.updPwr_layIs | apply State.dmaQuiesce_layIs | dsimp only | (apply lay_mk; dsimp only; apply lay_un)

theorem State.shedNext_layIs {qq : Two LayState} (s : State) (h_s : LayIs qq s) :
    LayIs qq (State.shedNext s) := by
  unfold State.shedNext
  dsimp -failIfUnchanged only
  repeat' with_reducible first | assumption | apply State.shedBegin_layIs | dsimp only | (refine lay_pair (by assumption) ?_) | (refine lay_opt (by assumption) ?_) | (refine lay_opt1 (by assumption) ?_) | (apply lay_mk; dsimp only; apply lay_un) | split

theorem execActivityTouch_layIs {qq : Two LayState} (val : Word) (s : State) (h_s : LayIs qq s) :
    Out.LayIs qq (execActivityTouch val s) := by
  unfold execActivityTouch
  dsimp -failIfUnchanged only
  repeat' with_reducible first | assumption | (intro _) | apply State.gated_layIs | apply State.activity_layIs | apply lay_next | apply lay_ite3 | apply lay_ite | dsimp only | split

theorem execAvsRequest_layIs {qq : Two LayState} (val : Word) (nack : Bool) (s : State) (h_s : LayIs qq s) :
    Out.LayIs qq (execAvsRequest val nack s) := by
  unfold execAvsRequest
  dsimp -failIfUnchanged only
  repeat' with_reducible first | assumption | (intro _) | apply State.avsWrite_layIs | apply State.gated_layIs | apply lay_next | apply lay_ite3 | dsimp only

theorem execAvsSettleDone_layIs {qq : Two LayState} (read : Option Nat) (s : State) (h_s : LayIs qq s) :
    Out.LayIs qq (execAvsSettleDone read s) := by
  unfold execAvsSettleDone
  dsimp -failIfUnchanged only
  repeat' with_reducible first | assumption | (intro _) | apply State.avsFail_layIs | apply State.pwrIrq_layIs | apply State.wr_layIs | apply lay_next | apply lay_ite3 | apply lay_ite | dsimp only | (refine lay_pair (by assumption) ?_) | (refine lay_opt (by assumption) ?_) | (refine lay_opt1 (by assumption) ?_) | split

theorem execCpuMultWrite_layIs {qq : Two LayState} (val : Word) (s : State) (h_s : LayIs qq s) :
    Out.LayIs qq (execCpuMultWrite val s) := by
  unfold execCpuMultWrite
  dsimp -failIfUnchanged only
  repeat' with_reducible first | assumption | (intro _) | apply State.cpuWrite_layIs | apply State.gated_layIs | apply lay_next | apply lay_ite3 | dsimp only

theorem execCpuPllLocked_layIs {qq : Two LayState} (s : State) (h_s : LayIs qq s) :
    Out.LayIs qq (execCpuPllLocked s) := by
  unfold execCpuPllLocked
  dsimp -failIfUnchanged only
  repeat' with_reducible first | assumption | apply State.irq_layIs | apply State.wr_layIs | apply lay_next | apply lay_ite3 | apply lay_ite | dsimp only | split

theorem execDomainPowerDown_layIs {qq : Two LayState} (val : Word) (s : State) (h_s : LayIs qq s) :
    Out.LayIs qq (execDomainPowerDown val s) := by
  unfold execDomainPowerDown
  dsimp -failIfUnchanged only
  repeat' with_reducible first | assumption | (intro _) | apply State.domReqWrite_layIs | apply State.gated_layIs | apply lay_next | apply lay_ite3 | dsimp only

theorem execDomainPowerUp_layIs {qq : Two LayState} (val : Word) (s : State) (h_s : LayIs qq s) :
    Out.LayIs qq (execDomainPowerUp val s) := by
  unfold execDomainPowerUp
  dsimp -failIfUnchanged only
  repeat' with_reducible first | assumption | (intro _) | apply State.domReqWrite_layIs | apply State.gated_layIs | apply lay_next | apply lay_ite3 | dsimp only

theorem execDomainRelease_layIs {qq : Two LayState} (s : State) (h_s : LayIs qq s) :
    Out.LayIs qq (execDomainRelease s) := by
  unfold execDomainRelease
  dsimp -failIfUnchanged only
  repeat' with_reducible first | assumption | (intro _) | apply State.shedNext_layIs | apply State.domEnd_layIs | apply State.domReset_layIs | apply State.hartRelease_layIs | apply State.dmaRelease_layIs | apply State.wr_layIs | apply lay_next | apply lay_ite3 | apply lay_ite | dsimp only | (refine lay_pair (by assumption) ?_) | (refine lay_opt (by assumption) ?_) | (refine lay_opt1 (by assumption) ?_) | split

theorem execIdleTimerExpiry_layIs {qq : Two LayState} (n : Nat) (s : State) (h_s : LayIs qq s) :
    Out.LayIs qq (execIdleTimerExpiry n s) := by
  unfold execIdleTimerExpiry
  dsimp -failIfUnchanged only
  repeat' with_reducible first | assumption | (intro _) | apply State.pwrIrq_layIs | apply lay_next | apply lay_ite3 | apply lay_ite | dsimp only | split

theorem execInputBucketFull_layIs {qq : Two LayState} (i : Nat) (s : State) (h_s : LayIs qq s) :
    Out.LayIs qq (execInputBucketFull i s) := by
  unfold execInputBucketFull
  dsimp -failIfUnchanged only
  repeat' with_reducible first | assumption | apply State.wr_layIs | apply lay_next | apply lay_ite3 | apply lay_ite | dsimp only | split

theorem execInputRearm_layIs {qq : Two LayState} (i : Nat) (s : State) (h_s : LayIs qq s) :
    Out.LayIs qq (execInputRearm i s) := by
  unfold execInputRearm
  dsimp -failIfUnchanged only
  repeat' with_reducible first | assumption | apply State.inLevel_layIs | apply State.wr_layIs | apply lay_next | apply lay_ite3 | apply lay_ite | dsimp only | split

theorem execInputStuck_layIs {qq : Two LayState} (i : Nat) (s : State) (h_s : LayIs qq s) :
    Out.LayIs qq (execInputStuck i s) := by
  unfold execInputStuck
  dsimp -failIfUnchanged only
  repeat' with_reducible first | assumption | apply State.inLevel_layIs | apply State.belIrq_layIs | apply State.hwPost_layIs | apply State.wr_layIs | apply lay_next | apply lay_ite3 | apply lay_ite | dsimp only | split

theorem execQuiesceAck_layIs {qq : Two LayState} (s : State) (h_s : LayIs qq s) :
    Out.LayIs qq (execQuiesceAck s) := by
  unfold execQuiesceAck
  dsimp -failIfUnchanged only
  repeat' with_reducible first | assumption | apply State.shedNext_layIs | apply State.quiesceEnd_layIs | apply lay_next | apply lay_ite3 | apply lay_ite | dsimp only | (refine lay_pair (by assumption) ?_) | (refine lay_opt (by assumption) ?_) | (refine lay_opt1 (by assumption) ?_) | split

theorem execQuiesceTimeout_layIs {qq : Two LayState} (s : State) (h_s : LayIs qq s) :
    Out.LayIs qq (execQuiesceTimeout s) := by
  unfold execQuiesceTimeout
  dsimp -failIfUnchanged only
  repeat' with_reducible first | assumption | apply State.shedNext_layIs | apply State.quiesceEnd_layIs | apply lay_next | apply lay_ite3 | apply lay_ite | dsimp only | (refine lay_pair (by assumption) ?_) | (refine lay_opt (by assumption) ?_) | (refine lay_opt1 (by assumption) ?_) | split

theorem execShutClr_layIs {qq : Two LayState} (val : Word) (s : State) (h_s : LayIs qq s) :
    Out.LayIs qq (execShutClr val s) := by
  unfold execShutClr
  dsimp -failIfUnchanged only
  repeat' with_reducible first | assumption | (intro _) | apply State.belCmd_layIs | apply State.gated_layIs | apply lay_next | apply lay_ite3 | dsimp only

theorem execShutDelayExpiry_layIs {qq : Two LayState} (s : State) (h_s : LayIs qq s) :
    Out.LayIs qq (execShutDelayExpiry s) := by
  unfold execShutDelayExpiry
  dsimp -failIfUnchanged only
  repeat' with_reducible first | assumption | (intro _) | apply State.gate_layIs | apply State.updPwr_layIs | apply lay_next | apply lay_ite3 | dsimp only | (refine lay_pair (by assumption) ?_) | (refine lay_opt (by assumption) ?_) | (refine lay_opt1 (by assumption) ?_) | (apply lay_mk; dsimp only; apply lay_un) | split

theorem execThermalResetRelease_layIs {qq : Two LayState} (s : State) (h_s : LayIs qq s) :
    Out.LayIs qq (execThermalResetRelease s) := by
  unfold execThermalResetRelease
  dsimp -failIfUnchanged only
  repeat' with_reducible first | assumption | (intro _) | apply State.updPwr_layIs | apply State.wr_layIs | apply lay_next | apply lay_ite3 | apply lay_ite | dsimp only | (apply lay_mk; dsimp only; apply lay_un) | split

theorem State.csInc_layIs {qq : Two LayState} (s : State) (cls : Nat) (h_s : LayIs qq s) :
    LayIs qq (State.csInc s cls) := by
  unfold State.csInc
  dsimp -failIfUnchanged only
  repeat' with_reducible first | assumption | apply State.wr_layIs | apply lay_ite | dsimp only | split

theorem State.sprIrq_layIs {qq : Two LayState} (s : State) (cls : Nat) (bit : Nat) (h_s : LayIs qq s) :
    LayIs qq (State.sprIrq s cls bit) := by
  unfold State.sprIrq
  dsimp -failIfUnchanged only
  repeat' with_reducible first | assumption | apply State.irq_layIs | dsimp only

theorem State.csWrite_layIs {qq : Two LayState} (s : State) (cls : Nat) (val : Word) (h_s : LayIs qq s) :
    LayIs qq (State.csWrite s cls val) := by
  unfold State.csWrite
  dsimp -failIfUnchanged only
  repeat' with_reducible first | assumption | (intro _) | apply State.sprIrq_layIs | apply State.csInc_layIs | apply State.updSpire_layIs | apply lay_ite | (refine lay_foldl ?_ (fun _ _ _ => ?_)) | (refine lay_foldl1 ?_ (fun _ _ _ => ?_)) | (refine lay_foldl2 ?_ (fun _ _ _ => ?_)) | dsimp only | (apply lay_mk; dsimp only; apply lay_un) | split

theorem State.dropPlan_layIs {qq : Two LayState} (s : State) (sp : Spire) (h_s : LayIs qq s) :
    LayIs qq (State.dropPlan s sp) := by
  unfold State.dropPlan
  dsimp -failIfUnchanged only
  repeat' with_reducible first | assumption | (intro _) | apply State.updTwr_layIs | apply State.updChn_layIs | apply lay_ite | dsimp only | (apply lay_mk; dsimp only; apply lay_un) | split

theorem State.sprTrace_layIs {qq : Two LayState} (s : State) (sp : Spire) (kind : Nat) (l : List Byte) (h_s : LayIs qq s) :
    LayIs qq (State.sprTrace s sp kind l) := by
  unfold State.sprTrace
  dsimp -failIfUnchanged only
  repeat' with_reducible first | assumption | apply State.trace_layIs | dsimp only

theorem State.postRec_layIs {qq : Two LayState} (s : State) (sp : Spire) (hdr : Word) (status : Nat) (ra : Nat) (rb : Nat) (h_s : LayIs qq s) :
    LayIs qq (State.postRec s sp hdr status ra rb) := by
  unfold State.postRec
  dsimp -failIfUnchanged only
  repeat' with_reducible first | assumption | (intro _) | apply State.sprTrace_layIs | apply State.sprIrq_layIs | apply State.setWords_layIs | apply State.updSpire_layIs | apply State.wr_layIs | apply lay_ite | dsimp only | (apply lay_mk; dsimp only; apply lay_un) | split

theorem State.pushTo_layIs {qq : Two LayState} (s : State) (l : List Spire) (cmd : List Word) (h_s : LayIs qq s) :
    LayIs qq (State.pushTo s l cmd).1 := by
  unfold State.pushTo
  dsimp -failIfUnchanged only
  repeat' with_reducible first | assumption | (intro _) | apply State.sprIrq_layIs | apply State.updSpire_layIs | apply lay_ite | apply lay_ite1 | (refine lay_foldl ?_ (fun _ _ _ => ?_)) | (refine lay_foldl1 ?_ (fun _ _ _ => ?_)) | (refine lay_foldl2 ?_ (fun _ _ _ => ?_)) | dsimp only | (apply lay_mk; dsimp only; apply lay_un) | split

theorem State.mqPush_layIs {qq : Two LayState} (s : State) (core : Nat) (words : List Word) (val : Word) (h_s : LayIs qq s) :
    LayIs qq (State.mqPush s core words val) := by
  unfold State.mqPush
  dsimp -failIfUnchanged only
  repeat' with_reducible first | assumption | (intro _) | apply State.pushTo_layIs | apply State.sprIrq_layIs | apply lay_ite | apply lay_ite1 | dsimp only | (refine lay_pair (by assumption) ?_) | (refine lay_opt (by assumption) ?_) | (refine lay_opt1 (by assumption) ?_) | (apply lay_mk; dsimp only; apply lay_un) | split

theorem State.popTake_layIs {qq : Two LayState} (s : State) (sp : Spire) (c : List Word) (h_s : LayIs qq s) :
    LayIs qq (State.popTake s sp c) := by
  unfold State.popTake
  dsimp -failIfUnchanged only
  repeat' with_reducible first | assumption | (intro _) | apply State.sprTrace_layIs | apply State.dropPlan_layIs | apply State.updSpire_layIs | apply lay_ite | dsimp only | (apply lay_mk; dsimp only; apply lay_un) | split

theorem State.popGo_layIs {q : Two LayState} (s : State) (sp : Spire) (n : Nat) (h_s : LayIs q s) : LayIs q (State.popGo s sp n).1 := by
  induction n generalizing s with
  | zero => exact h_s
  | succ n ih =>
    unfold State.popGo
    split
    · exact h_s
    · dsimp only
      split
      · exact ih _ (by apply State.postRec_layIs; apply State.popTake_layIs; exact h_s)
      · exact State.updSpire_layIs _ _ _ (State.popTake_layIs _ _ _ h_s)

theorem State.pop_layIs {qq : Two LayState} (s : State) (sp : Spire) (h_s : LayIs qq s) :
    LayIs qq (State.pop s sp).1 := by
  unfold State.pop
  dsimp -failIfUnchanged only
  repeat' with_reducible first | assumption | apply State.popGo_layIs | dsimp only

theorem State.qPush_layIs {qq : Two LayState} (s : State) (cls : Nat) (val : Word) (h_s : LayIs qq s) :
    LayIs qq (State.qPush s cls val) := by
  unfold State.qPush
  dsimp -failIfUnchanged only
  repeat' with_reducible first | assumption | (intro _) | apply State.pushTo_layIs | apply State.sprIrq_layIs | apply State.wr_layIs | apply lay_ite | apply lay_ite1 | dsimp only | (refine lay_pair (by assumption) ?_) | (refine lay_opt (by assumption) ?_) | (refine lay_opt1 (by assumption) ?_) | split

theorem State.setW_layIs {qq : Two LayState} (s : State) (sp : Spire) (n : Nat) (v : Word) (h_s : LayIs qq s) :
    LayIs qq (State.setW s sp n v) := by
  unfold State.setW
  dsimp -failIfUnchanged only
  repeat' with_reducible first | assumption | (intro _) | apply State.updSpire_layIs | dsimp only | (apply lay_mk; dsimp only; apply lay_un)

theorem State.stopDone_layIs {qq : Two LayState} (s : State) (b : Nat) (i : Nat) (h_s : LayIs qq s) :
    LayIs qq (State.stopDone s b i) := by
  unfold State.stopDone
  dsimp -failIfUnchanged only
  repeat' with_reducible first | assumption | apply State.dmaSettle_layIs | apply State.memStopEnd_layIs | apply State.aotIdle_layIs | apply State.srvShutDone_layIs | apply State.shutDone_layIs | apply lay_ite | dsimp only | split

theorem execShutdownComplete_layIs {qq : Two LayState} (blk : Nat) (inst : Nat) (s : State) (h_s : LayIs qq s) :
    Out.LayIs qq (execShutdownComplete blk inst s) := by
  unfold execShutdownComplete
  dsimp -failIfUnchanged only
  repeat' with_reducible first | assumption | apply State.stopDone_layIs | apply lay_next | apply lay_ite3 | dsimp only

theorem State.updSys_layIs {qq : Two LayState} (s : State) (f : SysState → SysState) (h_s : LayIs qq s) :
    LayIs qq (State.updSys s f) := by
  unfold State.updSys
  dsimp -failIfUnchanged only
  repeat' with_reducible first | assumption | (intro _) | dsimp only | (apply lay_mk; dsimp only; apply lay_un)

theorem State.answer_layIs {qq : Two LayState} (s : State) (cmd : Nat) (status : Nat) (l : List Byte) (h_s : LayIs qq s) :
    LayIs qq (State.answer s cmd status l) := by
  unfold State.answer
  dsimp -failIfUnchanged only
  repeat' with_reducible first | assumption | (intro _) | apply State.updSys_layIs | dsimp only | (apply lay_mk; dsimp only; apply lay_un)

theorem State.sysIrq_layIs {qq : Two LayState} (s : State) (p : Nat) (bit : Nat) (h_s : LayIs qq s) :
    LayIs qq (State.sysIrq s p bit) := by
  unfold State.sysIrq
  dsimp -failIfUnchanged only
  repeat' with_reducible first | assumption | apply State.irq_layIs | dsimp only

theorem State.bistCmd_layIs {qq : Two LayState} (s : State) (val : Word) (h_s : LayIs qq s) :
    LayIs qq (State.bistCmd s val) := by
  unfold State.bistCmd
  dsimp -failIfUnchanged only
  repeat' with_reducible first | assumption | (intro _) | apply State.sysIrq_layIs | apply State.updSys_layIs | apply State.wr_layIs | apply lay_ite | dsimp only | (apply lay_mk; dsimp only; apply lay_un) | split

theorem State.bootCode_layIs {qq : Two LayState} (s : State) (c : Nat) (h_s : LayIs qq s) :
    LayIs qq (State.bootCode s c) := by
  unfold State.bootCode
  dsimp -failIfUnchanged only
  repeat' with_reducible first | assumption | apply State.wr_layIs | dsimp only

theorem State.setRvec_layIs {qq : Two LayState} (s : State) (h : Nat) (a : Nat) (h_s : LayIs qq s) :
    LayIs qq (State.setRvec s h a) := by
  unfold State.setRvec
  dsimp -failIfUnchanged only
  repeat' with_reducible first | assumption | apply State.wr_layIs | dsimp only

theorem State.launch_layIs {qq : Two LayState} (s : State) (n : Nat) (h_s : LayIs qq s) :
    LayIs qq (State.launch s n) := by
  unfold State.launch
  dsimp -failIfUnchanged only
  repeat' with_reducible first | assumption | (intro _) | apply State.setRvec_layIs | apply State.bootCode_layIs | apply State.updSys_layIs | apply State.updDom_layIs | apply State.wr_layIs | apply lay_ite | (refine lay_foldl ?_ (fun _ _ _ => ?_)) | (refine lay_foldl1 ?_ (fun _ _ _ => ?_)) | (refine lay_foldl2 ?_ (fun _ _ _ => ?_)) | dsimp only | (apply lay_mk; dsimp only; apply lay_un) | split

theorem State.bootImage_layIs {qq : Two LayState} (s : State) (h_s : LayIs qq s) :
    LayIs qq (State.bootImage s) := by
  unfold State.bootImage
  dsimp -failIfUnchanged only
  repeat' with_reducible first | assumption | (intro _) | apply State.launch_layIs | apply State.bootCode_layIs | apply State.updSys_layIs | apply State.wr_layIs | apply lay_ite | dsimp only | (apply lay_mk; dsimp only; apply lay_un) | split

theorem State.bootRom_layIs {qq : Two LayState} (s : State) (pass : Nat) (h_s : LayIs qq s) :
    LayIs qq (State.bootRom s pass) := by
  unfold State.bootRom
  dsimp -failIfUnchanged only
  repeat' with_reducible first | assumption | (intro _) | apply State.bootImage_layIs | apply State.bootCode_layIs | apply State.updSys_layIs | apply State.fuseLoad_layIs | apply State.pllLock_layIs | apply State.loadHuk_layIs | apply State.domOperational_layIs | apply State.selfTests_layIs | apply State.cupSpad_layIs | apply State.wb_layIs | apply State.wr_layIs | apply lay_ite | apply lay_ite1 | dsimp only | (apply lay_mk; dsimp only; apply lay_un) | split

theorem State.frame_layIs {qq : Two LayState} (s : State) (cmd : Nat) (crc : Nat) (payload : List Byte) (lenOk : Bool) (f : Listener → State) (h_s : LayIs qq s) (h_f : ∀ (x0 : Listener), LayIs qq (f x0)) :
    LayIs qq (State.frame s cmd crc payload lenOk f) := by
  unfold State.frame
  dsimp -failIfUnchanged only
  repeat' with_reducible first | assumption | (intro _) | apply State.answer_layIs | apply h_f | apply lay_ite | dsimp only | (refine lay_pair (by assumption) ?_) | (refine lay_opt (by assumption) ?_) | (refine lay_opt1 (by assumption) ?_) | split

theorem State.hartRun_layIs {qq : Two LayState} (s : State) (val : Word) (h_s : LayIs qq s) :
    LayIs qq (State.hartRun s val) := by
  unfold State.hartRun
  dsimp -failIfUnchanged only
  repeat' with_reducible first | assumption | apply State.wr_layIs | dsimp only

theorem State.sysRefuse_layIs {qq : Two LayState} (s : State) (h_s : LayIs qq s) :
    LayIs qq (State.sysRefuse s) := by
  unfold State.sysRefuse
  dsimp -failIfUnchanged only
  repeat' with_reducible first | assumption | apply State.sysIrq_layIs | dsimp only

theorem State.setListener_layIs {qq : Two LayState} (s : State) (l : Listener) (h_s : LayIs qq s) :
    LayIs qq (State.setListener s l) := by
  unfold State.setListener
  dsimp -failIfUnchanged only
  repeat' with_reducible first | assumption | (intro _) | apply State.updSys_layIs | dsimp only | (apply lay_mk; dsimp only; apply lay_un)

theorem State.tapLoad_layIs {qq : Two LayState} (s : State) (code : Nat) (level : Nat) (dr : Nat) (balls : Nat) (f : SysState → SysState) (h_s : LayIs qq s) :
    LayIs qq (State.tapLoad s code level dr balls f) := by
  unfold State.tapLoad
  dsimp -failIfUnchanged only
  repeat' with_reducible first | assumption | (intro _) | apply State.updSys_layIs | apply lay_ite | dsimp only | (apply lay_mk; dsimp only; apply lay_un) | split

theorem State.testState_layIs {qq : Two LayState} (s : State) (h_s : LayIs qq s) :
    LayIs qq (State.testState s) := by
  unfold State.testState
  dsimp -failIfUnchanged only
  repeat' with_reducible first | assumption | (intro _) | apply State.updSys_layIs | apply State.runStarved_layIs | apply State.updDom_layIs | dsimp only | (apply lay_mk; dsimp only; apply lay_un)

theorem State.wdtLoad_layIs {qq : Two LayState} (s : State) (h_s : LayIs qq s) :
    LayIs qq (State.wdtLoad s) := by
  unfold State.wdtLoad
  dsimp -failIfUnchanged only
  repeat' with_reducible first | assumption | (intro _) | apply State.updSys_layIs | dsimp only | (apply lay_mk; dsimp only; apply lay_un)

theorem State.wdtKick_layIs {qq : Two LayState} (s : State) (val : Word) (h_s : LayIs qq s) :
    LayIs qq (State.wdtKick s val) := by
  unfold State.wdtKick
  dsimp -failIfUnchanged only
  repeat' with_reducible first | assumption | apply State.wdtLoad_layIs | apply State.sysRefuse_layIs | apply State.wr_layIs | apply lay_ite | dsimp only | split

theorem State.zeroMem_layIs {q : Two LayState} (s : State) (lo hi : Nat) (h_s : LayIs q s) : LayIs q (State.zeroMem s lo hi) := h_s

theorem State.zeroTraces_layIs {qq : Two LayState} (s : State) (h_s : LayIs qq s) :
    LayIs qq (State.zeroTraces s) := by
  unfold State.zeroTraces
  dsimp -failIfUnchanged only
  repeat' with_reducible first | assumption | dsimp only | (apply lay_mk; dsimp only; apply lay_un)

theorem State.zeroStore_layIs {qq : Two LayState} (s : State) (k : Nat) (h_s : LayIs qq s) :
    LayIs qq (State.zeroStore s k) := by
  unfold State.zeroStore
  dsimp -failIfUnchanged only
  repeat' with_reducible first | assumption | (apply lay_id; assumption) | (intro _) | apply State.zeroTraces_layIs | apply State.zeroMem_layIs | apply State.updDma_layIs | apply State.cupWalk_layIs | apply State.updAot_layIs | apply State.updChn_layIs | apply lay_next | apply lay_ite | apply lay_ite1 | apply lay_ite3 | (refine lay_foldl ?_ (fun _ _ _ => ?_)) | (refine lay_foldl1 ?_ (fun _ _ _ => ?_)) | (refine lay_foldl2 ?_ (fun _ _ _ => ?_)) | (intro _) | dsimp only | (refine lay_pair (by assumption) ?_) | (refine lay_opt (by assumption) ?_) | (refine lay_opt1 (by assumption) ?_) | apply optLayIs_some | apply optLayIs_none | apply optLayIs_ite | (apply lay_mk; dsimp only; apply lay_un) | split

theorem State.zeroStores_layIs {qq : Two LayState} (s : State) (m : Nat) (h_s : LayIs qq s) :
    LayIs qq (State.zeroStores s m) := by
  unfold State.zeroStores
  dsimp -failIfUnchanged only
  repeat' with_reducible first | assumption | (intro _) | apply State.zeroStore_layIs | apply lay_ite | (refine lay_foldl ?_ (fun _ _ _ => ?_)) | (refine lay_foldl1 ?_ (fun _ _ _ => ?_)) | (refine lay_foldl2 ?_ (fun _ _ _ => ?_)) | dsimp only | split

theorem execBistGo_layIs {qq : Two LayState} (val : Word) (s : State) (h_s : LayIs qq s) :
    Out.LayIs qq (execBistGo val s) := by
  unfold execBistGo
  dsimp -failIfUnchanged only
  repeat' with_reducible first | assumption | (intro _) | apply State.bistCmd_layIs | apply State.gated_layIs | apply lay_next | apply lay_ite3 | dsimp only

theorem execBypass_layIs {qq : Two LayState} (s : State) (h_s : LayIs qq s) :
    Out.LayIs qq (execBypass s) := by
  unfold execBypass
  dsimp -failIfUnchanged only
  repeat' with_reducible first | assumption | (apply lay_id; assumption) | apply State.tapLoad_layIs | apply lay_next | apply lay_ite3 | dsimp only

theorem execClamp_layIs {qq : Two LayState} (s : State) (h_s : LayIs qq s) :
    Out.LayIs qq (execClamp s) := by
  unfold execClamp
  dsimp -failIfUnchanged only
  repeat' with_reducible first | assumption | (apply lay_id; assumption) | apply State.tapLoad_layIs | apply lay_next | apply lay_ite3 | dsimp only

theorem execDebug_layIs {qq : Two LayState} (s : State) (h_s : LayIs qq s) :
    Out.LayIs qq (execDebug s) := by
  unfold execDebug
  dsimp -failIfUnchanged only
  repeat' with_reducible first | assumption | (apply lay_id; assumption) | apply State.tapLoad_layIs | apply lay_next | apply lay_ite3 | dsimp only

theorem execExtest_layIs {qq : Two LayState} (loaded : List Bool) (s : State) (h_s : LayIs qq s) :
    Out.LayIs qq (execExtest loaded s) := by
  unfold execExtest
  dsimp -failIfUnchanged only
  repeat' with_reducible first | assumption | (intro _) | apply State.tapLoad_layIs | apply lay_next | apply lay_ite3 | dsimp only | (apply lay_mk; dsimp only; apply lay_un)

theorem execExtestPulse_layIs {qq : Two LayState} (loaded : List Bool) (s : State) (h_s : LayIs qq s) :
    Out.LayIs qq (execExtestPulse loaded s) := by
  unfold execExtestPulse
  dsimp -failIfUnchanged only
  repeat' with_reducible first | assumption | (intro _) | apply State.tapLoad_layIs | apply lay_next | apply lay_ite3 | dsimp only | (apply lay_mk; dsimp only; apply lay_un)

theorem execExtestTrain_layIs {qq : Two LayState} (loaded : List Bool) (s : State) (h_s : LayIs qq s) :
    Out.LayIs qq (execExtestTrain loaded s) := by
  unfold execExtestTrain
  dsimp -failIfUnchanged only
  repeat' with_reducible first | assumption | (intro _) | apply State.tapLoad_layIs | apply lay_next | apply lay_ite3 | dsimp only | (apply lay_mk; dsimp only; apply lay_un)

theorem execGenkey_layIs {qq : Two LayState} (crc : Nat) (payload : List Byte) (s : State) (h_s : LayIs qq s) :
    Out.LayIs qq (execGenkey crc payload s) := by
  unfold execGenkey
  dsimp -failIfUnchanged only
  repeat' with_reducible first | assumption | (intro _) | apply State.setListener_layIs | apply State.frame_layIs | apply State.answer_layIs | apply State.rand_layIs | apply State.wr_layIs | apply lay_next | apply lay_ite3 | apply lay_ite | apply lay_ite1 | dsimp only | (apply lay_mk; dsimp only; apply lay_un) | split

theorem execHart12Start_layIs {qq : Two LayState} (pass : Nat) (s : State) (h_s : LayIs qq s) :
    Out.LayIs qq (execHart12Start pass s) := by
  unfold execHart12Start
  dsimp -failIfUnchanged only
  repeat' with_reducible first | assumption | apply State.bootRom_layIs | apply lay_next | apply lay_ite3 | apply lay_ite | dsimp only | split

theorem execHartRun_layIs {qq : Two LayState} (val : Word) (s : State) (h_s : LayIs qq s) :
    Out.LayIs qq (execHartRun val s) := by
  unfold execHartRun
  dsimp -failIfUnchanged only
  repeat' with_reducible first | assumption | (intro _) | apply State.hartRun_layIs | apply State.gated_layIs | apply lay_next | apply lay_ite3 | dsimp only

theorem execHighz_layIs {qq : Two LayState} (s : State) (h_s : LayIs qq s) :
    Out.LayIs qq (execHighz s) := by
  unfold execHighz
  dsimp -failIfUnchanged only
  repeat' with_reducible first | assumption | (apply lay_id; assumption) | apply State.tapLoad_layIs | apply lay_next | apply lay_ite3 | dsimp only

theorem execId_layIs {qq : Two LayState} (crc : Nat) (payload : List Byte) (s : State) (h_s : LayIs qq s) :
    Out.LayIs qq (execId crc payload s) := by
  unfold execId
  dsimp -failIfUnchanged only
  repeat' with_reducible first | assumption | (intro _) | apply State.frame_layIs | apply State.answer_layIs | apply lay_next | apply lay_ite3 | dsimp only

theorem execIdcode_layIs {qq : Two LayState} (s : State) (h_s : LayIs qq s) :
    Out.LayIs qq (execIdcode s) := by
  unfold execIdcode
  dsimp -failIfUnchanged only
  repeat' with_reducible first | assumption | (apply lay_id; assumption) | apply State.tapLoad_layIs | apply lay_next | apply lay_ite3 | dsimp only

theorem execListenerTimeout_layIs {qq : Two LayState} (s : State) (h_s : LayIs qq s) :
    Out.LayIs qq (execListenerTimeout s) := by
  unfold execListenerTimeout
  dsimp -failIfUnchanged only
  repeat' with_reducible first | assumption | (intro _) | apply State.bootImage_layIs | apply State.updSys_layIs | apply lay_next | apply lay_ite3 | apply lay_ite | dsimp only | (refine lay_pair (by assumption) ?_) | (refine lay_opt (by assumption) ?_) | (refine lay_opt1 (by assumption) ?_) | (apply lay_mk; dsimp only; apply lay_un) | split

theorem execLoadimg_layIs {qq : Two LayState} (crc : Nat) (payload : List Byte) (s : State) (h_s : LayIs qq s) :
    Out.LayIs qq (execLoadimg crc payload s) := by
  unfold execLoadimg
  dsimp -failIfUnchanged only
  repeat' with_reducible first | assumption | (intro _) | apply State.frame_layIs | apply State.answer_layIs | apply State.slotStore_layIs | apply lay_next | apply lay_ite3 | apply lay_ite | dsimp only | split

theorem execMbist_layIs {qq : Two LayState} (stores : Nat) (fails : Nat) (s : State) (h_s : LayIs qq s) :
    Out.LayIs qq (execMbist stores fails s) := by
  unfold execMbist
  dsimp -failIfUnchanged only
  repeat' with_reducible first | assumption | (apply lay_id; assumption) | apply State.zeroStores_layIs | apply State.testState_layIs | apply State.tapLoad_layIs | apply State.wr_layIs | apply lay_next | apply lay_ite3 | apply lay_ite | dsimp only | split

theorem execOverflow_layIs {qq : Two LayState} (s : State) (h_s : LayIs qq s) :
    Out.LayIs qq (execOverflow s) := by
  unfold execOverflow
  dsimp -failIfUnchanged only
  repeat' with_reducible first | assumption | (intro _) | apply State.updSys_layIs | apply State.irq_layIs | apply State.wr_layIs | apply lay_next | apply lay_ite3 | apply lay_ite | dsimp only | (apply lay_mk; dsimp only; apply lay_un) | split

theorem execPutanchor_layIs {qq : Two LayState} (crc : Nat) (payload : List Byte) (s : State) (h_s : LayIs qq s) :
    Out.LayIs qq (execPutanchor crc payload s) := by
  unfold execPutanchor
  dsimp -failIfUnchanged only
  repeat' with_reducible first | assumption | (intro _) | apply State.setListener_layIs | apply State.frame_layIs | apply State.answer_layIs | apply lay_next | apply lay_ite3 | apply lay_ite | dsimp only | (apply lay_mk; dsimp only; apply lay_un) | split

theorem execPutcert_layIs {qq : Two LayState} (crc : Nat) (payload : List Byte) (s : State) (h_s : LayIs qq s) :
    Out.LayIs qq (execPutcert crc payload s) := by
  unfold execPutcert
  dsimp -failIfUnchanged only
  repeat' with_reducible first | assumption | (intro _) | apply State.setListener_layIs | apply State.frame_layIs | apply State.answer_layIs | apply lay_next | apply lay_ite3 | apply lay_ite | dsimp only | (apply lay_mk; dsimp only; apply lay_un) | split

theorem execPutident_layIs {qq : Two LayState} (crc : Nat) (payload : List Byte) (s : State) (h_s : LayIs qq s) :
    Out.LayIs qq (execPutident crc payload s) := by
  unfold execPutident
  dsimp -failIfUnchanged only
  repeat' with_reducible first | assumption | (intro _) | apply State.setListener_layIs | apply State.frame_layIs | apply State.answer_layIs | apply lay_next | apply lay_ite3 | apply lay_ite | dsimp only | (apply lay_mk; dsimp only; apply lay_un) | split

theorem execPutkey1_layIs {qq : Two LayState} (crc : Nat) (payload : List Byte) (s : State) (h_s : LayIs qq s) :
    Out.LayIs qq (execPutkey1 crc payload s) := by
  unfold execPutkey1
  dsimp -failIfUnchanged only
  repeat' with_reducible first | assumption | (intro _) | apply State.setListener_layIs | apply State.frame_layIs | apply State.answer_layIs | apply lay_next | apply lay_ite3 | apply lay_ite | dsimp only | (refine lay_pair (by assumption) ?_) | (refine lay_opt (by assumption) ?_) | (refine lay_opt1 (by assumption) ?_) | (apply lay_mk; dsimp only; apply lay_un) | split

theorem execSamplePreload_layIs {qq : Two LayState} (captured : List Bool) (loaded : List Bool) (s : State) (h_s : LayIs qq s) :
    Out.LayIs qq (execSamplePreload captured loaded s) := by
  unfold execSamplePreload
  dsimp -failIfUnchanged only
  repeat' with_reducible first | assumption | (intro _) | apply State.tapLoad_layIs | apply lay_next | apply lay_ite3 | dsimp only | (apply lay_mk; dsimp only; apply lay_un)

theorem execScan_layIs {qq : Two LayState} (s : State) (h_s : LayIs qq s) :
    Out.LayIs qq (execScan s) := by
  unfold execScan
  dsimp -failIfUnchanged only
  repeat' with_reducible first | assumption | (apply lay_id; assumption) | apply State.testState_layIs | apply State.tapLoad_layIs | apply lay_next | apply lay_ite3 | apply lay_ite | dsimp only | split

theorem execWdtKick_layIs {qq : Two LayState} (val : Word) (s : State) (h_s : LayIs qq s) :
    Out.LayIs qq (execWdtKick val s) := by
  unfold execWdtKick
  dsimp -failIfUnchanged only
  repeat' with_reducible first | assumption | (intro _) | apply State.wdtKick_layIs | apply State.gated_layIs | apply lay_next | apply lay_ite3 | dsimp only

theorem State.mbxSet_layIs {qq : Two LayState} (s : State) (val : Word) (h_s : LayIs qq s) :
    LayIs qq (State.mbxSet s val) := by
  unfold State.mbxSet
  dsimp -failIfUnchanged only
  repeat' with_reducible first | assumption | apply State.wr_layIs | dsimp only

theorem State.unlatch_layIs {qq : Two LayState} (s : State) (a : Nat) (h_s : LayIs qq s) :
    LayIs qq (State.unlatch s a) := by
  unfold State.unlatch
  dsimp -failIfUnchanged only
  repeat' with_reducible first | assumption | (intro _) | apply State.updFwk_layIs | dsimp only | (apply lay_mk; dsimp only; apply lay_un)

theorem State.latchAt_layIs {qq : Two LayState} (s : State) (a : Nat) (h_s : LayIs qq s) :
    LayIs qq (State.latchAt s a) := by
  unfold State.latchAt
  dsimp -failIfUnchanged only
  repeat' with_reducible first | assumption | (intro _) | apply State.updFwk_layIs | dsimp only | (apply lay_mk; dsimp only; apply lay_un)

theorem State.readEffect_layIs {qq : Two LayState} (s : State) (a : Nat) (h_s : LayIs qq s) :
    LayIs qq (State.readEffect s a) := by
  unfold State.readEffect
  dsimp -failIfUnchanged only
  repeat' with_reducible first | assumption | (intro _) | apply State.latchAt_layIs | apply State.unlatch_layIs | apply State.csInc_layIs | apply State.chnCoefInc_layIs | apply State.coefInc_layIs | apply State.drawn_layIs | apply State.wr_layIs | apply lay_ite | dsimp only | split

theorem State.regRead_layIs {qq : Two LayState} (s : State) (port : Nat) (a : Nat) (n : Nat) (h_s : LayIs qq s) :
    LayIs qq (State.regRead s port a n).1 := by
  unfold State.regRead
  dsimp -failIfUnchanged only
  repeat' with_reducible first | assumption | apply State.readEffect_layIs | apply lay_ite | apply lay_ite1 | dsimp only | split

theorem wordResp_layIs {qq : Two LayState} (r : State × Word) (h_r : LayIs qq r.1) :
    LayIs qq (wordResp r).1 := by
  unfold wordResp
  dsimp -failIfUnchanged only
  repeat' with_reducible first | assumption | dsimp only | (apply lay_mk; dsimp only; apply lay_un)

theorem State.plicRead_layIs {qq : Two LayState} (s : State) (off : Nat) (h_s : LayIs qq s) :
    LayIs qq (State.plicRead s off).1 := by
  unfold State.plicRead
  dsimp -failIfUnchanged only
  repeat' with_reducible first | assumption | (intro _) | apply State.updFwk_layIs | apply lay_ite | apply lay_ite1 | (refine lay_foldl ?_ (fun _ _ _ => ?_)) | (refine lay_foldl1 ?_ (fun _ _ _ => ?_)) | (refine lay_foldl2 ?_ (fun _ _ _ => ?_)) | dsimp only | (refine lay_pair (by assumption) ?_) | (refine lay_opt (by assumption) ?_) | (refine lay_opt1 (by assumption) ?_) | (apply lay_mk; dsimp only; apply lay_un) | split

theorem State.plicReadAt_layIs {qq : Two LayState} (s : State) (a : Nat) (h_s : LayIs qq s) :
    LayIs qq (State.plicReadAt s a).1 := by
  unfold State.plicReadAt
  dsimp -failIfUnchanged only
  repeat' with_reducible first | assumption | apply State.plicRead_layIs | dsimp only

theorem State.ddrReads_layIs {q : Two LayState} (s : State) (port a k : Nat) (n : Nat) (h_s : LayIs q s) :
    LayIs q (State.ddrReads s port a k n).1 := by
  induction n generalizing s a k with
  | zero => exact h_s
  | succ n ih =>
    unfold State.ddrReads
    dsimp only
    split
    · exact State.ddrReadOp_layIs _ _ _ _ h_s
    · exact ih _ _ _ (State.ddrReadOp_layIs _ _ _ _ h_s)

theorem State.busRead_layIs {qq : Two LayState} (s : State) (port : Nat) (a : Nat) (n : Nat) (h_s : LayIs qq s) :
    LayIs qq (State.busRead s port a n).1 := by
  unfold State.busRead
  repeat' with_reducible first | assumption | (intro _) | apply State.ddrReads_layIs | apply State.plicReadAt_layIs | apply wordResp_layIs | apply State.regRead_layIs | apply State.flsReadOp_layIs | apply State.drawn_layIs | apply lay_ite | apply lay_ite1 | dsimp only | (apply lay_mk; dsimp only; apply lay_un) | split

theorem State.keyWrite_layIs {qq : Two LayState} (s : State) (b : Nat) (i : Nat) (p : Nat) (val : Word) (h_s : LayIs qq s) :
    LayIs qq (State.keyWrite s b i p val) := by
  unfold State.keyWrite
  dsimp -failIfUnchanged only
  repeat' with_reducible first | assumption | (intro _) | apply State.irq_layIs | apply State.updFwk_layIs | apply lay_ite | dsimp only | (apply lay_mk; dsimp only; apply lay_un) | split

theorem State.intForce_layIs {qq : Two LayState} (s : State) (base : Nat) (val : Word) (h_s : LayIs qq s) :
    LayIs qq (State.intForce s base val) := by
  unfold State.intForce
  dsimp -failIfUnchanged only
  repeat' with_reducible first | assumption | apply State.setReg_layIs | dsimp only

theorem State.respond_layIs {qq : Two LayState} (s : State) (r : Resp) (h_s : LayIs qq s) :
    LayIs qq (State.respond s r) := by
  unfold State.respond
  dsimp -failIfUnchanged only
  repeat' with_reducible first | assumption | dsimp only | (apply lay_mk; dsimp only; apply lay_un)

theorem State.fillRead_layIs {qq : Two LayState} (s : State) (x : CFill) (h_s : LayIs qq s) :
    LayIs qq (State.fillRead s x).1 := by
  unfold State.fillRead
  dsimp -failIfUnchanged only
  repeat' with_reducible first | assumption | apply State.busRead_layIs | dsimp only | (refine lay_pair (by assumption) ?_) | (refine lay_opt (by assumption) ?_) | (refine lay_opt1 (by assumption) ?_) | split

theorem State.fillsFirst_layIs {qq : Two LayState} (s : State) (port : Nat) (h_s : LayIs qq s) :
    LayIs qq (State.fillsFirst s port) := by
  unfold State.fillsFirst
  dsimp -failIfUnchanged only
  repeat' with_reducible first | assumption | (intro _) | apply State.fillRead_layIs | apply State.updCup_layIs | apply lay_ite | apply lay_ite1 | (refine lay_foldl ?_ (fun _ _ _ => ?_)) | (refine lay_foldl1 ?_ (fun _ _ _ => ?_)) | (refine lay_foldl2 ?_ (fun _ _ _ => ?_)) | dsimp only | (apply lay_mk; dsimp only; apply lay_un) | split

theorem State.coreRead_layIs {qq : Two LayState} (s : State) (core : Nat) (a : Nat) (n : Nat) (perr : Bool) (h_s : LayIs qq s) :
    LayIs qq (State.coreRead s core a n perr) := by
  unfold State.coreRead
  dsimp -failIfUnchanged only
  repeat' with_reducible first | assumption | (intro _) | apply State.fillsFirst_layIs | apply State.respond_layIs | apply State.busRead_layIs | apply State.l1Fill_layIs | apply State.cupLookup_layIs | apply lay_ite | apply lay_ite1 | dsimp only | (refine lay_pair (by assumption) ?_) | (refine lay_opt (by assumption) ?_) | (refine lay_opt1 (by assumption) ?_) | (apply lay_mk; dsimp only; apply lay_un) | split

theorem State.descRead_layIs {qq : Two LayState} (s : State) (c : Nat) (h_s : LayIs qq s) :
    LayIs qq (State.descRead s c).1 := by
  unfold State.descRead
  dsimp -failIfUnchanged only
  repeat' with_reducible first | assumption | apply State.busRead_layIs | dsimp only | (refine lay_pair (by assumption) ?_) | (refine lay_opt (by assumption) ?_) | (refine lay_opt1 (by assumption) ?_) | split

theorem State.dmaError_layIs {qq : Two LayState} (s : State) (c : Nat) (h_s : LayIs qq s) :
    LayIs qq (State.dmaError s c) := by
  unfold State.dmaError
  dsimp -failIfUnchanged only
  repeat' with_reducible first | assumption | (intro _) | apply State.dmaIrq_layIs | apply State.setCst_layIs | apply State.updCh_layIs | apply State.wr_layIs | dsimp only

theorem State.dmaGoOn_layIs {qq : Two LayState} (s : State) (c : Nat) (l : List Word) (h_s : LayIs qq s) :
    LayIs qq (State.dmaGoOn s c l) := by
  unfold State.dmaGoOn
  dsimp -failIfUnchanged only
  repeat' with_reducible first | assumption | apply State.setDescAddr_layIs | apply State.dmaSettle_layIs | apply State.dmaFetch_layIs | dsimp only

theorem State.dmaHalf_layIs {qq : Two LayState} (s : State) (c : Nat) (h_s : LayIs qq s) :
    LayIs qq (State.dmaHalf s c) := by
  unfold State.dmaHalf
  dsimp -failIfUnchanged only
  repeat' with_reducible first | assumption | (intro _) | apply State.updCh_layIs | apply State.wr_layIs | apply lay_ite | dsimp only | (apply lay_mk; dsimp only; apply lay_un) | split

theorem State.dmaNext_layIs {qq : Two LayState} (s : State) (c : Nat) (h_s : LayIs qq s) :
    LayIs qq (State.dmaNext s c) := by
  unfold State.dmaNext
  dsimp -failIfUnchanged only
  repeat' with_reducible first | assumption | apply State.dmaSettle_layIs | apply State.dmaEnd_layIs | apply State.parkCheck_layIs | dsimp only

theorem execCupolaFillDone_layIs {qq : Two LayState} (line : Nat) (s : State) (h_s : LayIs qq s) :
    Out.LayIs qq (execCupolaFillDone line s) := by
  unfold execCupolaFillDone
  dsimp -failIfUnchanged only
  repeat' with_reducible first | assumption | (intro _) | apply State.fillRead_layIs | apply State.respond_layIs | apply State.l1Fill_layIs | apply State.fillReturn_layIs | apply lay_next | apply lay_ite3 | apply lay_ite | apply lay_ite1 | dsimp only | (refine lay_pair (by assumption) ?_) | (refine lay_opt (by assumption) ?_) | (refine lay_opt1 (by assumption) ?_) | split

theorem execCupolaRead_layIs {qq : Two LayState} (core : Nat) (addr : Nat) (n : Nat) (perr : Bool) (s : State) (h_s : LayIs qq s) :
    Out.LayIs qq (execCupolaRead core addr n perr s) := by
  unfold execCupolaRead
  dsimp -failIfUnchanged only
  repeat' with_reducible first | assumption | apply State.coreRead_layIs | apply lay_next | apply lay_ite3 | apply lay_ite | dsimp only | split

theorem execDescFetched_layIs {qq : Two LayState} (c : Nat) (s : State) (h_s : LayIs qq s) :
    Out.LayIs qq (execDescFetched c s) := by
  unfold execDescFetched
  dsimp -failIfUnchanged only
  repeat' with_reducible first | assumption | (intro _) | apply State.dmaNext_layIs | apply State.dmaError_layIs | apply State.descRead_layIs | apply State.dmaSettle_layIs | apply State.setCst_layIs | apply State.updCh_layIs | apply lay_next | apply lay_ite3 | apply lay_ite | apply lay_ite1 | dsimp only | (apply lay_mk; dsimp only; apply lay_un) | split

theorem execDescRereadDone_layIs {qq : Two LayState} (c : Nat) (s : State) (h_s : LayIs qq s) :
    Out.LayIs qq (execDescRereadDone c s) := by
  unfold execDescRereadDone
  dsimp -failIfUnchanged only
  repeat' with_reducible first | assumption | (intro _) | apply State.dmaGoOn_layIs | apply State.dmaError_layIs | apply State.descRead_layIs | apply State.dmaSettle_layIs | apply State.setCst_layIs | apply State.updCh_layIs | apply State.wr_layIs | apply lay_next | apply lay_ite3 | apply lay_ite | apply lay_ite1 | dsimp only | (apply lay_mk; dsimp only; apply lay_un) | split

theorem execDmaWriteDone_layIs {qq : Two LayState} (c : Nat) (s : State) (h_s : LayIs qq s) :
    Out.LayIs qq (execDmaWriteDone c s) := by
  unfold execDmaWriteDone
  dsimp -failIfUnchanged only
  repeat' with_reducible first | assumption | (intro _) | apply State.dmaNext_layIs | apply State.dmaHalf_layIs | apply State.updCh_layIs | apply lay_next | apply lay_ite3 | apply lay_ite | dsimp only | (refine lay_pair (by assumption) ?_) | (refine lay_opt (by assumption) ?_) | (refine lay_opt1 (by assumption) ?_) | (apply lay_mk; dsimp only; apply lay_un) | split

theorem execPrefetchFill_layIs {qq : Two LayState} (line : Nat) (s : State) (h_s : LayIs qq s) :
    Out.LayIs qq (execPrefetchFill line s) := by
  unfold execPrefetchFill
  dsimp -failIfUnchanged only
  repeat' with_reducible first | assumption | (intro _) | apply State.fillRead_layIs | apply State.fillReturn_layIs | apply lay_next | apply lay_ite3 | apply lay_ite | apply lay_ite1 | dsimp only | (refine lay_pair (by assumption) ?_) | (refine lay_opt (by assumption) ?_) | (refine lay_opt1 (by assumption) ?_) | split

theorem State.setPc_layIs {qq : Two LayState} (s : State) (sp : Spire) (n : Nat) (h_s : LayIs qq s) :
    LayIs qq (State.setPc s sp n) := by
  unfold State.setPc
  dsimp -failIfUnchanged only
  repeat' with_reducible first | assumption | (intro _) | apply State.updSpire_layIs | dsimp only | (apply lay_mk; dsimp only; apply lay_un)

theorem State.adv_layIs {qq : Two LayState} (s : State) (sp : Spire) (h_s : LayIs qq s) :
    LayIs qq (State.adv s sp) := by
  unfold State.adv
  dsimp -failIfUnchanged only
  repeat' with_reducible first | assumption | apply State.setPc_layIs | dsimp only

theorem State.clsEnd_layIs {qq : Two LayState} (s : State) (sp : Spire) (refused : Bool) (h_s : LayIs qq s) :
    LayIs qq (State.clsEnd s sp refused) := by
  unfold State.clsEnd
  dsimp -failIfUnchanged only
  repeat' with_reducible first | assumption | (intro _) | apply State.adv_layIs | apply State.updSpire_layIs | dsimp only | (apply lay_mk; dsimp only; apply lay_un)

theorem State.tryWait_layIs {qq : Two LayState} (s : State) (sp : Spire) (x : SprWait) (h_s : LayIs qq s) :
    OptLayIs qq (State.tryWait s sp x) := by
  unfold State.tryWait
  dsimp -failIfUnchanged only
  repeat' with_reducible first | assumption | (intro _) | apply State.clsEnd_layIs | apply State.adv_layIs | apply State.setW_layIs | apply State.pop_layIs | apply State.updSpire_layIs | apply lay_ite | apply lay_ite1 | dsimp only | (refine lay_pair (by assumption) ?_) | (refine lay_opt (by assumption) ?_) | (refine lay_opt1 (by assumption) ?_) | apply optLayIs_some | apply optLayIs_none | apply optLayIs_ite | (apply lay_mk; dsimp only; apply lay_un) | split

theorem State.syncReach_layIs {qq : Two LayState} (s : State) (sp : Spire) (h_s : LayIs qq s) :
    LayIs qq (State.syncReach s sp) := by
  unfold State.syncReach
  dsimp -failIfUnchanged only
  repeat' with_reducible first | assumption | (intro _) | apply State.updSpire_layIs | apply lay_ite | (refine lay_foldl ?_ (fun _ _ _ => ?_)) | (refine lay_foldl1 ?_ (fun _ _ _ => ?_)) | (refine lay_foldl2 ?_ (fun _ _ _ => ?_)) | dsimp only | (apply lay_mk; dsimp only; apply lay_un) | split

theorem State.waitSide_layIs {qq : Two LayState} (s : State) (sp : Spire) (x : SprWait) (h_s : LayIs qq s) :
    LayIs qq (State.waitSide s sp x) := by
  unfold State.waitSide
  dsimp -failIfUnchanged only
  repeat' with_reducible first | assumption | apply State.syncReach_layIs | apply State.pop_layIs | dsimp only | (refine lay_pair (by assumption) ?_) | (refine lay_opt (by assumption) ?_) | (refine lay_opt1 (by assumption) ?_) | split

theorem State.waitOn_layIs {qq : Two LayState} (s : State) (sp : Spire) (x : SprWait) (h_s : LayIs qq s) :
    LayIs qq (State.waitOn s sp x) := by
  unfold State.waitOn
  dsimp -failIfUnchanged only
  repeat' with_reducible first | assumption | (apply lay_id; assumption) | (intro _) | apply State.waitSide_layIs | apply State.tryWait_layIs | apply State.updSpire_layIs | apply lay_next | apply lay_ite | apply lay_ite1 | apply lay_ite3 | (refine lay_foldl ?_ (fun _ _ _ => ?_)) | (refine lay_foldl1 ?_ (fun _ _ _ => ?_)) | (refine lay_foldl2 ?_ (fun _ _ _ => ?_)) | (intro _) | dsimp only | (refine lay_pair (by assumption) ?_) | (refine lay_opt (by assumption) ?_) | (refine lay_opt1 (by assumption) ?_) | apply optLayIs_some | apply optLayIs_none | apply optLayIs_ite | (apply lay_mk; dsimp only; apply lay_un) | split

theorem State.intIssue_layIs {qq : Two LayState} (s : State) (sp : Spire) (fn : Nat) (ra : Nat) (rb : Nat) (h_s : LayIs qq s) :
    LayIs qq (State.intIssue s sp fn ra rb).1 := by
  unfold State.intIssue
  dsimp -failIfUnchanged only
  repeat' with_reducible first | assumption | (intro _) | apply State.updSpire_layIs | apply State.wr_layIs | apply lay_ite | apply lay_ite1 | dsimp only | (apply lay_mk; dsimp only; apply lay_un) | split

theorem State.postDo_layIs {qq : Two LayState} (s : State) (sp : Spire) (status : Nat) (ra : Nat) (rb : Nat) (h_s : LayIs qq s) :
    LayIs qq (State.postDo s sp status ra rb) := by
  unfold State.postDo
  dsimp -failIfUnchanged only
  repeat' with_reducible first | assumption | (intro _) | apply State.postRec_layIs | apply State.updSpire_layIs | dsimp only | (apply lay_mk; dsimp only; apply lay_un)

theorem State.resume_layIs {qq : Two LayState} (s : State) (sp : Spire) (h_s : LayIs qq s) :
    LayIs qq (State.resume s sp) := by
  unfold State.resume
  dsimp -failIfUnchanged only
  repeat' with_reducible first | assumption | (intro _) | apply State.waitSide_layIs | apply State.tryWait_layIs | apply State.updSpire_layIs | apply lay_ite | dsimp only | (refine lay_pair (by assumption) ?_) | (refine lay_opt (by assumption) ?_) | (refine lay_opt1 (by assumption) ?_) | (apply lay_mk; dsimp only; apply lay_un) | split

theorem execMqPush_layIs {qq : Two LayState} (core : Nat) (words : List Word) (val : Word) (s : State) (h_s : LayIs qq s) :
    Out.LayIs qq (execMqPush core words val s) := by
  unfold execMqPush
  dsimp -failIfUnchanged only
  repeat' with_reducible first | assumption | apply State.mqPush_layIs | apply lay_next | apply lay_ite3 | apply lay_ite | dsimp only | split

theorem execSprCsWrite_layIs {qq : Two LayState} (cls : Nat) (val : Word) (s : State) (h_s : LayIs qq s) :
    Out.LayIs qq (execSprCsWrite cls val s) := by
  unfold execSprCsWrite
  dsimp -failIfUnchanged only
  repeat' with_reducible first | assumption | (intro _) | apply State.csWrite_layIs | apply State.gated_layIs | apply lay_next | apply lay_ite3 | apply lay_ite | dsimp only | split

theorem execSprQpush_layIs {qq : Two LayState} (cls : Nat) (val : Word) (s : State) (h_s : LayIs qq s) :
    Out.LayIs qq (execSprQpush cls val s) := by
  unfold execSprQpush
  dsimp -failIfUnchanged only
  repeat' with_reducible first | assumption | (intro _) | apply State.qPush_layIs | apply State.gated_layIs | apply lay_next | apply lay_ite3 | apply lay_ite | dsimp only | split

theorem execWaitSatisfied_layIs {qq : Two LayState} (sp : Spire) (s : State) (h_s : LayIs qq s) :
    Out.LayIs qq (execWaitSatisfied sp s) := by
  unfold execWaitSatisfied
  dsimp -failIfUnchanged only
  repeat' with_reducible first | assumption | apply State.resume_layIs | apply lay_next | apply lay_ite3 | apply lay_ite | dsimp only | split

theorem State.ef0Take_layIs {qq : Two LayState} (s : State) (sp : Spire) (f : State → State) (h_s : LayIs qq s) (h_f : ∀ (x0 : State), LayIs qq x0 → LayIs qq (f x0)) :
    LayIs qq (State.ef0Take s sp f) := by
  unfold State.ef0Take
  dsimp -failIfUnchanged only
  repeat' with_reducible first | assumption | (intro _) | apply State.updSpire_layIs | apply h_f | apply lay_ite | dsimp only | (apply lay_mk; dsimp only; apply lay_un) | split

theorem State.setRoutine_layIs {qq : Two LayState} (s : State) (sp : Spire) (r : Option MRun) (h_s : LayIs qq s) :
    LayIs qq (State.setRoutine s sp r) := by
  unfold State.setRoutine
  dsimp -failIfUnchanged only
  repeat' with_reducible first | assumption | (intro _) | apply State.updSpire_layIs | dsimp only | (apply lay_mk; dsimp only; apply lay_un)

theorem State.imgPost_layIs {qq : Two LayState} (s : State) (sp : Spire) (status : Nat) (ra : Nat) (rb : Nat) (h_s : LayIs qq s) :
    LayIs qq (State.imgPost s sp status ra rb) := by
  unfold State.imgPost
  dsimp -failIfUnchanged only
  repeat' with_reducible first | assumption | apply State.setRoutine_layIs | apply State.postDo_layIs | apply State.waitOn_layIs | dsimp only

theorem State.imgIssue_layIs {qq : Two LayState} (s : State) (sp : Spire) (r : MRun) (fn : Nat) (ra : Nat) (rb : Nat) (h_s : LayIs qq s) :
    LayIs qq (State.imgIssue s sp r fn ra rb) := by
  unfold State.imgIssue
  dsimp -failIfUnchanged only
  repeat' with_reducible first | assumption | (intro _) | apply State.imgPost_layIs | apply State.setRoutine_layIs | apply State.intIssue_layIs | apply lay_ite | apply lay_ite1 | dsimp only | split

theorem State.accGo_layIs {qq : Two LayState} (s : State) (sp : Spire) (r : MRun) (h_s : LayIs qq s) :
    LayIs qq (State.accGo s sp r) := by
  unfold State.accGo
  dsimp -failIfUnchanged only
  repeat' with_reducible first | assumption | (intro _) | apply State.imgIssue_layIs | apply State.imgPost_layIs | apply State.ef0Take_layIs | apply lay_ite | dsimp only | (apply lay_mk; dsimp only; apply lay_un) | split

theorem State.hashGo_layIs {qq : Two LayState} (s : State) (sp : Spire) (r : MRun) (h_s : LayIs qq s) :
    LayIs qq (State.hashGo s sp r) := by
  unfold State.hashGo
  dsimp -failIfUnchanged only
  repeat' with_reducible first | assumption | (intro _) | apply State.imgIssue_layIs | apply State.imgPost_layIs | apply State.ef0Take_layIs | apply lay_ite | dsimp only | (apply lay_mk; dsimp only; apply lay_un) | split

theorem State.image_layIs {qq : Two LayState} (s : State) (sp : Spire) (op : Nat) (begin_ : State → State) (go : State → MRun → State) (h_s : LayIs qq s) (h_begin_ : ∀ (x0 : State), LayIs qq x0 → LayIs qq (begin_ x0)) (h_go : ∀ (x0 : State) (x1 : MRun), LayIs qq x0 → LayIs qq (go x0 x1)) :
    LayIs qq (State.image s sp op begin_ go) := by
  unfold State.image
  dsimp -failIfUnchanged only
  repeat' with_reducible first | assumption | (intro _) | apply State.imgPost_layIs | apply State.resume_layIs | apply State.pop_layIs | apply State.updSpire_layIs | apply h_begin_ | apply h_go | apply lay_ite | apply lay_ite1 | dsimp only | (refine lay_pair (by assumption) ?_) | (refine lay_opt (by assumption) ?_) | (refine lay_opt1 (by assumption) ?_) | (apply lay_mk; dsimp only; apply lay_un) | split

theorem execHash_layIs {qq : Two LayState} (sp : Spire) (s : State) (h_s : LayIs qq s) :
    Out.LayIs qq (execHash sp s) := by
  unfold execHash
  dsimp -failIfUnchanged only
  repeat' with_reducible first | assumption | (intro _) | apply State.image_layIs | apply State.hashGo_layIs | apply State.imgIssue_layIs | apply lay_next | apply lay_ite3 | apply lay_ite | dsimp only | (apply lay_mk; dsimp only; apply lay_un) | split

theorem execParityAcc_layIs {qq : Two LayState} (sp : Spire) (s : State) (h_s : LayIs qq s) :
    Out.LayIs qq (execParityAcc sp s) := by
  unfold execParityAcc
  dsimp -failIfUnchanged only
  repeat' with_reducible first | assumption | (intro _) | apply State.image_layIs | apply State.accGo_layIs | apply State.imgIssue_layIs | apply lay_next | apply lay_ite3 | apply lay_ite | dsimp only | (apply lay_mk; dsimp only; apply lay_un) | split

theorem execRebuild_layIs {qq : Two LayState} (sp : Spire) (s : State) (h_s : LayIs qq s) :
    Out.LayIs qq (execRebuild sp s) := by
  unfold execRebuild
  dsimp -failIfUnchanged only
  repeat' with_reducible first | assumption | (intro _) | apply State.image_layIs | apply State.imgIssue_layIs | apply State.imgPost_layIs | apply State.ef0Take_layIs | apply lay_next | apply lay_ite3 | apply lay_ite | dsimp only | (apply lay_mk; dsimp only; apply lay_un) | split

theorem execExpertKeyWrite_layIs {qq : Two LayState} (blk : Nat) (inst : Nat) (page : Nat) (val : Word) (s : State) (h_s : LayIs qq s) :
    Out.LayIs qq (execExpertKeyWrite blk inst page val s) := by
  unfold execExpertKeyWrite
  dsimp -failIfUnchanged only
  repeat' with_reducible first | assumption | apply State.keyWrite_layIs | apply lay_next | apply lay_ite3 | apply lay_ite | dsimp only | split

theorem execIntForceWrite_layIs {qq : Two LayState} (blk : Nat) (inst : Nat) (page : Nat) (val : Word) (s : State) (h_s : LayIs qq s) :
    Out.LayIs qq (execIntForceWrite blk inst page val s) := by
  unfold execIntForceWrite
  dsimp -failIfUnchanged only
  repeat' with_reducible first | assumption | (intro _) | apply State.intForce_layIs | apply State.gated_layIs | apply lay_next | apply lay_ite3 | dsimp only

theorem execMbxDoorbellSet_layIs {qq : Two LayState} (val : Word) (s : State) (h_s : LayIs qq s) :
    Out.LayIs qq (execMbxDoorbellSet val s) := by
  unfold execMbxDoorbellSet
  dsimp -failIfUnchanged only
  repeat' with_reducible first | assumption | (intro _) | apply State.mbxSet_layIs | apply State.gated_layIs | apply lay_next | apply lay_ite3 | dsimp only

end Sys2Proof.Machine
end

