-- ==== Sys2Proof/Laws/MemFrame.lean ====
section
/-! SUPPORT. Memory reads as before. The rules by which a proof goes through conditionals, folds and updates of other fields. -/

namespace Sys2Proof.Machine

/-- Memory reads as before. -/
def MemIs (q : List Host.Cell) (s : State) : Prop := s.mem = q

/-- The same of the next state of a meaning. -/
def Out.MemIs (q : List Host.Cell) (o : Out) : Prop :=
  match o with
  | .next t => Sys2Proof.Machine.MemIs q t
  | _ => True

variable {q : List Host.Cell}

theorem mem_next {t : State} (h : MemIs q t) : Out.MemIs q (.next t) := h
theorem mem_mk {t : State} (h : t.mem = q) : MemIs q t := h
theorem mem_un {s : State} (h : MemIs q s) : s.mem = q := h

theorem mem_ite {c : Prop} [Decidable c] {s t : State} (h1 : MemIs q s) (h2 : MemIs q t) : MemIs q (if c then s else t) := by
  split
  · exact h1
  · exact h2

theorem mem_ite1 {c : Prop} [Decidable c] {α : Type} {s t : State × α} (h1 : MemIs q s.1) (h2 : MemIs q t.1) :
    MemIs q (if c then s else t).1 := by
  split
  · exact h1
  · exact h2

theorem mem_ite3 {c : Prop} [Decidable c] {o p : Out} (h1 : Out.MemIs q o) (h2 : Out.MemIs q p) : Out.MemIs q (if c then o else p) := by
  split
  · exact h1
  · exact h2

theorem mem_foldl {α : Type} {f : State → α → State} {l : List α} {s : State} (hs : MemIs q s)
    (h : ∀ s x, MemIs q s → MemIs q (f s x)) : MemIs q (l.foldl f s) := by
  induction l generalizing s with
  | nil => exact hs
  | cons x r ih => exact ih (h s x hs)

theorem mem_foldl1 {α β : Type} {f : State × β → α → State × β} {l : List α} {p : State × β} (hs : MemIs q p.1)
    (h : ∀ p x, MemIs q p.1 → MemIs q (f p x).1) : MemIs q (l.foldl f p).1 := by
  induction l generalizing p with
  | nil => exact hs
  | cons x r ih => exact ih (h p x hs)

theorem mem_foldl2 {α β γ : Type} {f : (State × β) × γ → α → (State × β) × γ} {l : List α} {p : (State × β) × γ} (hs : MemIs q p.1.1)
    (h : ∀ p x, MemIs q p.1.1 → MemIs q (f p x).1.1) : MemIs q (l.foldl f p).1.1 := by
  induction l generalizing p with
  | nil => exact hs
  | cons x r ih => exact ih (h p x hs)

/-- A state that may be none is kept when it is one. -/
def OptMemIs (q : List Host.Cell) (o : Option State) : Prop := ∀ r, o = some r → MemIs q r
def OptMemIs1 {α : Type} (q : List Host.Cell) (o : Option (State × α)) : Prop := ∀ r, o = some r → MemIs q r.1

theorem mem_pair {α : Type} {p : State × α} {s : State} {x : α} (e : p = (s, x)) (h : MemIs q p.1) : MemIs q s := by
  subst e
  exact h

theorem mem_id {s : State} (h : MemIs q s) : MemIs q (id s) := h

theorem mem_opt {o : Option State} {s : State} (e : o = some s) (h : OptMemIs q o) : MemIs q s := h s e

theorem mem_opt1 {α : Type} {o : Option (State × α)} {s : State} {x : α} (e : o = some (s, x)) (h : OptMemIs1 q o) : MemIs q s := h (s, x) e

theorem optMemIs_none : OptMemIs q none := fun _ h => by cases h
theorem optMemIs_some {s : State} (h : MemIs q s) : OptMemIs q (some s) := fun _ e => by cases e; exact h
theorem optMemIs_ite {c : Prop} [Decidable c] {o p : Option State} (h1 : OptMemIs q o) (h2 : OptMemIs q p) :
    OptMemIs q (if c then o else p) := by
  split
  · exact h1
  · exact h2


theorem mem_setReg {s : State} (h : MemIs q s) (a : Nat) (v : Word) : MemIs q (s.setReg a v) := h

end Sys2Proof.Machine
end

