-- ==== Sys2Proof/Laws/MemFrame1.lean ====
section
/-! SUPPORT. Memory reads as before: the operations and commands for which this holds, part 1. -/

set_option linter.unusedTactic false
set_option linter.unreachableTactic false
set_option maxRecDepth 8000

namespace Sys2Proof.Machine

theorem State.activity_memIs {qq : List Host.Cell} (s : State) (h_s : MemIs qq s) :
    MemIs qq (State.activity s) := by
  unfold State.activity
  dsimp -failIfUnchanged only
  repeat' with_reducible first | assumption | dsimp only | (apply mem_mk; dsimp only; apply mem_un)

theorem State.setReg_memIs {q : List Host.Cell} (s : State) (a : Nat) (v : Word) (h_s : MemIs q s) : MemIs q (State.setReg s a v) :=
  mem_setReg h_s a v

theorem State.wr_memIs {qq : List Host.Cell} (s : State) (f : Fld) (x : Nat) (h_s : MemIs qq s) :
    MemIs qq (State.wr s f x) := by
  unfold State.wr
  dsimp -failIfUnchanged only
  repeat' with_reducible first | assumption | apply State.setReg_memIs | dsimp only

theorem State.setSt_memIs {qq : List Host.Cell} (s : State) (b : Nat) (i : Nat) (v : Nat) (h_s : MemIs qq s) :
    MemIs qq (State.setSt s b i v) := by
  unfold State.setSt
  dsimp -failIfUnchanged only
  repeat' with_reducible first | assumption | apply State.wr_memIs | dsimp only

theorem State.wb_memIs {qq : List Host.Cell} (s : State) (f : Fld) (b : Bool) (h_s : MemIs qq s) :
    MemIs qq (State.wb s f b) := by
  unfold State.wb
  dsimp -failIfUnchanged only
  repeat' with_reducible first | assumption | apply State.wr_memIs | dsimp only

theorem State.setEn_memIs {qq : List Host.Cell} (s : State) (b : Nat) (i : Nat) (v : Bool) (h_s : MemIs qq s) :
    MemIs qq (State.setEn s b i v) := by
  unfold State.setEn
  dsimp -failIfUnchanged only
  repeat' with_reducible first | assumption | apply State.wb_memIs | dsimp only

theorem State.dropBlock_memIs {q : List Host.Cell} (s : State) (b i : Nat) (h_s : MemIs q s) : MemIs q (State.dropBlock s b i) := h_s

theorem State.repairShow_memIs {qq : List Host.Cell} (s : State) (h_s : MemIs qq s) :
    MemIs qq (State.repairShow s) := by
  unfold State.repairShow
  dsimp -failIfUnchanged only
  repeat' with_reducible first | assumption | apply State.wb_memIs | apply State.wr_memIs | apply mem_ite | dsimp only | split

theorem State.blockReset_memIs {qq : List Host.Cell} (s : State) (e : Nat × Nat) (h_s : MemIs qq s) :
    MemIs qq (State.blockReset s e) := by
  unfold State.blockReset
  dsimp -failIfUnchanged only
  repeat' with_reducible first | assumption | (intro _) | apply State.repairShow_memIs | apply State.dropBlock_memIs | apply mem_ite | apply mem_ite1 | dsimp only | (apply mem_mk; dsimp only; apply mem_un) | split

theorem State.bump_memIs {qq : List Host.Cell} (s : State) (f : Fld) (k : Nat) (h_s : MemIs qq s) :
    MemIs qq (State.bump s f k) := by
  unfold State.bump
  dsimp -failIfUnchanged only
  repeat' with_reducible first | assumption | apply State.wr_memIs | dsimp only

theorem State.setRpend_memIs {qq : List Host.Cell} (s : State) (b : Nat) (i : Nat) (v : Bool) (h_s : MemIs qq s) :
    MemIs qq (State.setRpend s b i v) := by
  unfold State.setRpend
  dsimp -failIfUnchanged only
  repeat' with_reducible first | assumption | apply State.wb_memIs | dsimp only

theorem State.updFwk_memIs {qq : List Host.Cell} (s : State) (f : FwkState → FwkState) (h_s : MemIs qq s) :
    MemIs qq (State.updFwk s f) := by
  unfold State.updFwk
  dsimp -failIfUnchanged only
  repeat' with_reducible first | assumption | (intro _) | dsimp only | (apply mem_mk; dsimp only; apply mem_un)

theorem State.drawn_memIs {qq : List Host.Cell} (s : State) (h_s : MemIs qq s) :
    MemIs qq (State.drawn s) := by
  unfold State.drawn
  dsimp -failIfUnchanged only
  repeat' with_reducible first | assumption | dsimp only | (apply mem_mk; dsimp only; apply mem_un)

theorem State.faultStop_memIs {qq : List Host.Cell} (s : State) (b : Nat) (i : Nat) (shut : State → State) (h_s : MemIs qq s) (h_shut : ∀ (x0 : State), MemIs qq x0 → MemIs qq (shut x0)) :
    MemIs qq (State.faultStop s b i shut) := by
  unfold State.faultStop
  dsimp -failIfUnchanged only
  repeat' with_reducible first | assumption | (intro _) | apply State.updFwk_memIs | apply State.setRpend_memIs | apply State.setEn_memIs | apply State.setSt_memIs | apply h_shut | apply mem_ite | dsimp only | (apply mem_mk; dsimp only; apply mem_un) | split

theorem State.gated_memIs {qq : List Host.Cell} (s : State) (a : Nat) (f : State → State) (h_s : MemIs qq s) (h_f : ∀ (x0 : State), MemIs qq x0 → MemIs qq (f x0)) :
    MemIs qq (State.gated s a f) := by
  unfold State.gated
  dsimp -failIfUnchanged only
  repeat' with_reducible first | assumption | (intro _) | apply State.wr_memIs | apply h_f | apply mem_ite | dsimp only | split

theorem State.irq_memIs {qq : List Host.Cell} (s : State) (b : Nat) (i : Nat) (p : Nat) (bit : Nat) (h_s : MemIs qq s) :
    MemIs qq (State.irq s b i p bit) := by
  unfold State.irq
  dsimp -failIfUnchanged only
  repeat' with_reducible first | assumption | apply State.wr_memIs | dsimp only

theorem State.hwPost_memIs {qq : List Host.Cell} (s : State) (code : Nat) (sev : Nat) (source : Nat) (payload : List Byte) (h_s : MemIs qq s) :
    MemIs qq (State.hwPost s code sev source payload) := by
  unfold State.hwPost
  dsimp -failIfUnchanged only
  repeat' with_reducible first | assumption | (intro _) | apply State.irq_memIs | apply State.bump_memIs | apply mem_ite | dsimp only | (apply mem_mk; dsimp only; apply mem_un) | split

theorem State.levelShow_memIs {qq : List Host.Cell} (s : State) (h_s : MemIs qq s) :
    MemIs qq (State.levelShow s) := by
  unfold State.levelShow
  dsimp -failIfUnchanged only
  repeat' with_reducible first | assumption | (intro _) | apply State.wb_memIs | apply State.wr_memIs | apply mem_ite | dsimp only | (apply mem_mk; dsimp only; apply mem_un) | split

theorem State.spiresReset_memIs {qq : List Host.Cell} (s : State) (cls : Nat) (h_s : MemIs qq s) :
    MemIs qq (State.spiresReset s cls) := by
  unfold State.spiresReset
  dsimp -failIfUnchanged only
  repeat' with_reducible first | assumption | (apply mem_id; assumption) | (intro _) | apply mem_next | apply mem_ite | apply mem_ite1 | apply mem_ite3 | (refine mem_foldl ?_ (fun _ _ _ => ?_)) | (refine mem_foldl1 ?_ (fun _ _ _ => ?_)) | (refine mem_foldl2 ?_ (fun _ _ _ => ?_)) | (intro _) | dsimp only | (refine mem_pair (by assumption) ?_) | (refine mem_opt (by assumption) ?_) | (refine mem_opt1 (by assumption) ?_) | apply optMemIs_some | apply optMemIs_none | apply optMemIs_ite | (apply mem_mk; dsimp only; apply mem_un) | split

theorem State.softUnit_memIs {qq : List Host.Cell} (s : State) (b : Nat) (i : Nat) (h_s : MemIs qq s) :
    MemIs qq (State.softUnit s b i) := by
  unfold State.softUnit
  dsimp -failIfUnchanged only
  repeat' with_reducible first | assumption | (intro _) | apply State.spiresReset_memIs | apply mem_ite | dsimp only | (apply mem_mk; dsimp only; apply mem_un) | split

theorem State.softApply_memIs {qq : List Host.Cell} (s : State) (b : Nat) (i : Nat) (h_s : MemIs qq s) :
    MemIs qq (State.softApply s b i) := by
  unfold State.softApply
  dsimp -failIfUnchanged only
  repeat' with_reducible first | assumption | apply State.softUnit_memIs | apply State.levelShow_memIs | apply State.blockReset_memIs | dsimp only

theorem State.shutEnd_memIs {qq : List Host.Cell} (s : State) (b : Nat) (i : Nat) (h_s : MemIs qq s) :
    MemIs qq (State.shutEnd s b i) := by
  unfold State.shutEnd
  dsimp -failIfUnchanged only
  repeat' with_reducible first | assumption | (intro _) | apply State.irq_memIs | apply State.updFwk_memIs | apply State.setRpend_memIs | apply State.setSt_memIs | apply mem_ite | dsimp only | (apply mem_mk; dsimp only; apply mem_un) | split

theorem State.shutDone_memIs {qq : List Host.Cell} (s : State) (b : Nat) (i : Nat) (h_s : MemIs qq s) :
    MemIs qq (State.shutDone s b i) := by
  unfold State.shutDone
  dsimp -failIfUnchanged only
  repeat' with_reducible first | assumption | apply State.shutEnd_memIs | apply State.softApply_memIs | apply mem_ite | dsimp only | split

theorem State.storeRow_memIs {qq : List Host.Cell} (s : State) (a : Nat) (v : Word) (h_s : MemIs qq s) :
    MemIs qq (State.storeRow s a v) := by
  unfold State.storeRow
  dsimp -failIfUnchanged only
  repeat' with_reducible first | assumption | (intro _) | apply State.wr_memIs | apply mem_ite | (refine mem_foldl ?_ (fun _ _ _ => ?_)) | (refine mem_foldl1 ?_ (fun _ _ _ => ?_)) | (refine mem_foldl2 ?_ (fun _ _ _ => ?_)) | dsimp only | split

theorem State.trace_memIs {qq : List Host.Cell} (s : State) (group : Nat) (source : Nat) (kind : Nat) (payload : List Byte) (h_s : MemIs qq s) :
    MemIs qq (State.trace s group source kind payload) := by
  unfold State.trace
  dsimp -failIfUnchanged only
  repeat' with_reducible first | assumption | (intro _) | apply State.bump_memIs | apply State.wr_memIs | apply mem_ite | dsimp only | (apply mem_mk; dsimp only; apply mem_un) | split

theorem State.updAtbT_memIs {qq : List Host.Cell} (s : State) (t : Tower) (f : AtbTower → AtbTower) (h_s : MemIs qq s) :
    MemIs qq (State.updAtbT s t f) := by
  unfold State.updAtbT
  dsimp -failIfUnchanged only
  repeat' with_reducible first | assumption | (intro _) | dsimp only | (refine mem_pair (by assumption) ?_) | (refine mem_opt (by assumption) ?_) | (refine mem_opt1 (by assumption) ?_) | (apply mem_mk; dsimp only; apply mem_un) | split

theorem State.updChn_memIs {qq : List Host.Cell} (s : State) (t : Tower) (f : ChnState → ChnState) (h_s : MemIs qq s) :
    MemIs qq (State.updChn s t f) := by
  unfold State.updChn
  dsimp -failIfUnchanged only
  repeat' with_reducible first | assumption | (intro _) | dsimp only | (apply mem_mk; dsimp only; apply mem_un)

theorem State.updTwr_memIs {qq : List Host.Cell} (s : State) (t : Tower) (f : TwrState → TwrState) (h_s : MemIs qq s) :
    MemIs qq (State.updTwr s t f) := by
  unfold State.updTwr
  dsimp -failIfUnchanged only
  repeat' with_reducible first | assumption | (intro _) | dsimp only | (apply mem_mk; dsimp only; apply mem_un)

theorem State.updCpl_memIs {qq : List Host.Cell} (s : State) (t : Tower) (f : CplState → CplState) (h_s : MemIs qq s) :
    MemIs qq (State.updCpl s t f) := by
  unfold State.updCpl
  dsimp -failIfUnchanged only
  repeat' with_reducible first | assumption | (intro _) | apply State.updTwr_memIs | dsimp only | (apply mem_mk; dsimp only; apply mem_un)

theorem State.updEng_memIs {qq : List Host.Cell} (s : State) (e : Eng) (f : EngState → EngState) (h_s : MemIs qq s) :
    MemIs qq (State.updEng s e f) := by
  unfold State.updEng
  dsimp -failIfUnchanged only
  repeat' with_reducible first | assumption | (intro _) | dsimp only | (refine mem_pair (by assumption) ?_) | (refine mem_opt (by assumption) ?_) | (refine mem_opt1 (by assumption) ?_) | (apply mem_mk; dsimp only; apply mem_un) | split

theorem State.updLan_memIs {qq : List Host.Cell} (s : State) (t : Tower) (f : LanState → LanState) (h_s : MemIs qq s) :
    MemIs qq (State.updLan s t f) := by
  unfold State.updLan
  dsimp -failIfUnchanged only
  repeat' with_reducible first | assumption | (intro _) | apply State.updTwr_memIs | dsimp only | (apply mem_mk; dsimp only; apply mem_un)

theorem State.updSpire_memIs {qq : List Host.Cell} (s : State) (sp : Spire) (f : SpireState → SpireState) (h_s : MemIs qq s) :
    MemIs qq (State.updSpire s sp f) := by
  unfold State.updSpire
  dsimp -failIfUnchanged only
  repeat' with_reducible first | assumption | (apply mem_id; assumption) | (intro _) | apply mem_next | apply mem_ite | apply mem_ite1 | apply mem_ite3 | (refine mem_foldl ?_ (fun _ _ _ => ?_)) | (refine mem_foldl1 ?_ (fun _ _ _ => ?_)) | (refine mem_foldl2 ?_ (fun _ _ _ => ?_)) | (intro _) | dsimp only | (refine mem_pair (by assumption) ?_) | (refine mem_opt (by assumption) ?_) | (refine mem_opt1 (by assumption) ?_) | apply optMemIs_some | apply optMemIs_none | apply optMemIs_ite | (apply mem_mk; dsimp only; apply mem_un) | split

theorem State.updSpn_memIs {qq : List Host.Cell} (s : State) (f : SpnState → SpnState) (h_s : MemIs qq s) :
    MemIs qq (State.updSpn s f) := by
  unfold State.updSpn
  dsimp -failIfUnchanged only
  repeat' with_reducible first | assumption | (intro _) | dsimp only | (refine mem_pair (by assumption) ?_) | (refine mem_opt (by assumption) ?_) | (refine mem_opt1 (by assumption) ?_) | (apply mem_mk; dsimp only; apply mem_un) | split

theorem State.updSrv_memIs {qq : List Host.Cell} (s : State) (t : Tower) (f : SrvState → SrvState) (h_s : MemIs qq s) :
    MemIs qq (State.updSrv s t f) := by
  unfold State.updSrv
  dsimp -failIfUnchanged only
  repeat' with_reducible first | assumption | (intro _) | dsimp only | (apply mem_mk; dsimp only; apply mem_un)

theorem State.wrI_memIs {qq : List Host.Cell} (s : State) (f : Fld) (x : Int) (h_s : MemIs qq s) :
    MemIs qq (State.wrI s f x) := by
  unfold State.wrI
  dsimp -failIfUnchanged only
  repeat' with_reducible first | assumption | apply State.wr_memIs | dsimp only

theorem State.rand_memIs {qq : List Host.Cell} (s : State) (n : Nat) (h_s : MemIs qq s) :
    MemIs qq (State.rand s n).2 := by
  unfold State.rand
  dsimp -failIfUnchanged only
  repeat' with_reducible first | assumption | (intro _) | apply State.drawn_memIs | apply State.bump_memIs | apply mem_ite | apply mem_ite1 | dsimp only | (apply mem_mk; dsimp only; apply mem_un) | split

theorem State.headWarn_memIs {qq : List Host.Cell} (s : State) (t : Tower) (f : Fld) (h : Nat) (bit : Nat) (h_s : MemIs qq s) :
    MemIs qq (State.headWarn s t f h bit) := by
  unfold State.headWarn
  dsimp -failIfUnchanged only
  repeat' with_reducible first | assumption | apply State.hwPost_memIs | apply State.irq_memIs | apply State.wr_memIs | apply mem_ite | dsimp only | split

theorem State.lanAssist_memIs {qq : List Host.Cell} (s : State) (t : Tower) (h_s : MemIs qq s) :
    MemIs qq (State.lanAssist s t) := by
  unfold State.lanAssist
  dsimp -failIfUnchanged only
  repeat' with_reducible first | assumption | (intro _) | apply State.updLan_memIs | apply State.updCpl_memIs | apply mem_ite | dsimp only | (apply mem_mk; dsimp only; apply mem_un) | split

theorem State.note_memIs {qq : List Host.Cell} (s : State) (t : Tower) (owner : Nat) (w : Word) (h_s : MemIs qq s) :
    MemIs qq (State.note s t owner w) := by
  unfold State.note
  dsimp -failIfUnchanged only
  repeat' with_reducible first | assumption | (intro _) | apply State.updSpire_memIs | dsimp only | (apply mem_mk; dsimp only; apply mem_un)

theorem State.setAG_memIs {qq : List Host.Cell} (s : State) (t : Tower) (v : Bool) (h_s : MemIs qq s) :
    MemIs qq (State.setAG s t v) := by
  unfold State.setAG
  dsimp -failIfUnchanged only
  repeat' with_reducible first | assumption | apply State.wb_memIs | dsimp only

theorem State.dropAG_memIs {qq : List Host.Cell} (s : State) (t : Tower) (h_s : MemIs qq s) :
    MemIs qq (State.dropAG s t) := by
  unfold State.dropAG
  dsimp -failIfUnchanged only
  repeat' with_reducible first | assumption | apply State.setAG_memIs | apply State.lanAssist_memIs | apply mem_ite | dsimp only | split

theorem State.sectorEnd_memIs {qq : List Host.Cell} (s : State) (t : Tower) (wout : Nat) (h_s : MemIs qq s) :
    MemIs qq (State.sectorEnd s t wout) := by
  unfold State.sectorEnd
  dsimp -failIfUnchanged only
  repeat' with_reducible first | assumption | (intro _) | apply State.note_memIs | apply State.updTwr_memIs | apply State.irq_memIs | apply State.bump_memIs | apply State.wr_memIs | apply mem_ite | dsimp only | (refine mem_pair (by assumption) ?_) | (refine mem_opt (by assumption) ?_) | (refine mem_opt1 (by assumption) ?_) | (apply mem_mk; dsimp only; apply mem_un) | split

theorem State.cutSector_memIs {qq : List Host.Cell} (s : State) (t : Tower) (h_s : MemIs qq s) :
    MemIs qq (State.cutSector s t) := by
  unfold State.cutSector
  dsimp -failIfUnchanged only
  repeat' with_reducible first | assumption | apply State.sectorEnd_memIs | apply mem_ite | dsimp only | (refine mem_pair (by assumption) ?_) | (refine mem_opt (by assumption) ?_) | (refine mem_opt1 (by assumption) ?_) | split

theorem State.dropWG_memIs {qq : List Host.Cell} (s : State) (t : Tower) (h_s : MemIs qq s) :
    MemIs qq (State.dropWG s t) := by
  unfold State.dropWG
  dsimp -failIfUnchanged only
  repeat' with_reducible first | assumption | apply State.cutSector_memIs | apply State.wr_memIs | apply mem_ite | dsimp only | split

theorem State.regate_memIs {qq : List Host.Cell} (s : State) (t : Tower) (h_s : MemIs qq s) :
    MemIs qq (State.regate s t) := by
  unfold State.regate
  dsimp -failIfUnchanged only
  repeat' with_reducible first | assumption | (intro _) | apply State.dropWG_memIs | apply State.dropAG_memIs | apply mem_ite | dsimp only | split

theorem State.cmpTrace_memIs {qq : List Host.Cell} (s : State) (n : Nat) (status : Nat) (h_s : MemIs qq s) :
    MemIs qq (State.cmpTrace s n status) := by
  unfold State.cmpTrace
  dsimp -failIfUnchanged only
  repeat' with_reducible first | assumption | apply State.trace_memIs | dsimp only

theorem State.cmpEnd_memIs {qq : List Host.Cell} (s : State) (n : Nat) (status : Nat) (h_s : MemIs qq s) :
    MemIs qq (State.cmpEnd s n status) := by
  unfold State.cmpEnd
  dsimp -failIfUnchanged only
  repeat' with_reducible first | assumption | apply State.cmpTrace_memIs | apply State.wr_memIs | dsimp only

theorem State.cmpFlush_memIs {qq : List Host.Cell} (s : State) (n : Nat) (h_s : MemIs qq s) :
    MemIs qq (State.cmpFlush s n) := by
  unfold State.cmpFlush
  dsimp -failIfUnchanged only
  repeat' with_reducible first | assumption | (intro _) | apply State.cmpEnd_memIs | apply State.cutSector_memIs | apply mem_ite | dsimp only | split

theorem State.cmpFlushT_memIs {qq : List Host.Cell} (s : State) (t : Tower) (h_s : MemIs qq s) :
    MemIs qq (State.cmpFlushT s t) := by
  unfold State.cmpFlushT
  dsimp -failIfUnchanged only
  repeat' with_reducible first | assumption | (intro _) | apply State.cmpFlush_memIs | (refine mem_foldl ?_ (fun _ _ _ => ?_)) | (refine mem_foldl1 ?_ (fun _ _ _ => ?_)) | (refine mem_foldl2 ?_ (fun _ _ _ => ?_)) | dsimp only

theorem State.dropGates_memIs {qq : List Host.Cell} (s : State) (t : Tower) (h_s : MemIs qq s) :
    MemIs qq (State.dropGates s t) := by
  unfold State.dropGates
  dsimp -failIfUnchanged only
  repeat' with_reducible first | assumption | apply State.dropWG_memIs | apply State.dropAG_memIs | dsimp only

theorem State.trcEvent_memIs {qq : List Host.Cell} (s : State) (e : Eng) (code : Nat) (h_s : MemIs qq s) :
    MemIs qq (State.trcEvent s e code) := by
  unfold State.trcEvent
  dsimp -failIfUnchanged only
  repeat' with_reducible first | assumption | (intro _) | apply State.updEng_memIs | dsimp only | (apply mem_mk; dsimp only; apply mem_un)

theorem State.setOtwi_memIs {qq : List Host.Cell} (s : State) (t : Tower) (h_s : MemIs qq s) :
    MemIs qq (State.setOtwi s t) := by
  unfold State.setOtwi
  dsimp -failIfUnchanged only
  repeat' with_reducible first | assumption | (intro _) | apply State.regate_memIs | apply State.updSrv_memIs | apply State.irq_memIs | apply State.bump_memIs | apply State.wr_memIs | apply mem_ite | dsimp only | (apply mem_mk; dsimp only; apply mem_un) | split

theorem State.regateBoth_memIs {qq : List Host.Cell} (s : State) (h_s : MemIs qq s) :
    MemIs qq (State.regateBoth s) := by
  unfold State.regateBoth
  dsimp -failIfUnchanged only
  repeat' with_reducible first | assumption | apply State.regate_memIs | dsimp only

theorem State.engRefresh_memIs {qq : List Host.Cell} (s : State) (e : Eng) (h_s : MemIs qq s) :
    MemIs qq (State.engRefresh s e) := by
  unfold State.engRefresh
  dsimp -failIfUnchanged only
  repeat' with_reducible first | assumption | (intro _) | apply State.updEng_memIs | apply State.wr_memIs | apply mem_ite | dsimp only | (apply mem_mk; dsimp only; apply mem_un) | split

theorem State.towerTick_memIs {qq : List Host.Cell} (s : State) (t : Tower) (sub : Nat) (h_s : MemIs qq s) :
    MemIs qq (State.towerTick s t sub) := by
  unfold State.towerTick
  dsimp -failIfUnchanged only
  repeat' with_reducible first | assumption | (intro _) | apply State.updEng_memIs | apply mem_ite | dsimp only | (apply mem_mk; dsimp only; apply mem_un) | split

theorem execAtbObsOffsetWrite_memIs {qq : List Host.Cell} (val : Word) (s : State) (h_s : MemIs qq s) :
    Out.MemIs qq (execAtbObsOffsetWrite val s) := by
  unfold execAtbObsOffsetWrite
  dsimp -failIfUnchanged only
  repeat' with_reducible first | assumption | (intro _) | apply State.gated_memIs | apply State.wr_memIs | apply mem_next | apply mem_ite3 | dsimp only

theorem execAtbSkewWrite_memIs {qq : List Host.Cell} (t : Tower) (val : Word) (s : State) (h_s : MemIs qq s) :
    Out.MemIs qq (execAtbSkewWrite t val s) := by
  unfold execAtbSkewWrite
  dsimp -failIfUnchanged only
  repeat' with_reducible first | assumption | (intro _) | apply State.gated_memIs | apply State.wr_memIs | apply mem_next | apply mem_ite3 | dsimp only

theorem execCmpTestFlush_memIs {qq : List Host.Cell} (val : Word) (s : State) (h_s : MemIs qq s) :
    Out.MemIs qq (execCmpTestFlush val s) := by
  unfold execCmpTestFlush
  dsimp -failIfUnchanged only
  repeat' with_reducible first | assumption | (intro _) | apply State.cmpFlushT_memIs | apply State.gated_memIs | apply mem_next | apply mem_ite3 | apply mem_ite | dsimp only | split

theorem execCurrentSubtick_memIs {qq : List Host.Cell} (t : Tower) (sub : Nat) (s : State) (h_s : MemIs qq s) :
    Out.MemIs qq (execCurrentSubtick t sub s) := by
  unfold execCurrentSubtick
  dsimp -failIfUnchanged only
  repeat' with_reducible first | assumption | apply State.towerTick_memIs | apply mem_next | apply mem_ite3 | apply mem_ite | dsimp only | split

theorem execPositionTick_memIs {qq : List Host.Cell} (t : Tower) (s : State) (h_s : MemIs qq s) :
    Out.MemIs qq (execPositionTick t s) := by
  unfold execPositionTick
  dsimp -failIfUnchanged only
  repeat' with_reducible first | assumption | apply State.towerTick_memIs | apply mem_next | apply mem_ite3 | apply mem_ite | dsimp only | split

theorem execServoWindowClose_memIs {qq : List Host.Cell} (t : Tower) (s : State) (h_s : MemIs qq s) :
    Out.MemIs qq (execServoWindowClose t s) := by
  unfold execServoWindowClose
  dsimp -failIfUnchanged only
  repeat' with_reducible first | assumption | (intro _) | apply State.updAtbT_memIs | apply mem_next | apply mem_ite3 | apply mem_ite | dsimp only | (apply mem_mk; dsimp only; apply mem_un) | split

theorem execServoWindowOpen_memIs {qq : List Host.Cell} (t : Tower) (s : State) (h_s : MemIs qq s) :
    Out.MemIs qq (execServoWindowOpen t s) := by
  unfold execServoWindowOpen
  dsimp -failIfUnchanged only
  repeat' with_reducible first | assumption | (intro _) | apply State.updAtbT_memIs | apply mem_next | apply mem_ite3 | apply mem_ite | dsimp only | (apply mem_mk; dsimp only; apply mem_un) | split

theorem State.addCrossing_memIs {qq : List Host.Cell} (s : State) (fwd : Bool) (interval : Nat) (h_s : MemIs qq s) :
    MemIs qq (State.addCrossing s fwd interval) := by
  unfold State.addCrossing
  dsimp -failIfUnchanged only
  repeat' with_reducible first | assumption | (intro _) | apply State.updSpn_memIs | apply mem_ite | dsimp only | (apply mem_mk; dsimp only; apply mem_un) | split

theorem State.setGates_memIs {qq : List Host.Cell} (s : State) (p : Nat) (off : Int) (h_s : MemIs qq s) :
    MemIs qq (State.setGates s p off) := by
  unfold State.setGates
  dsimp -failIfUnchanged only
  repeat' with_reducible first | assumption | (intro _) | apply State.updSpn_memIs | apply State.wr_memIs | apply mem_ite | dsimp only | (apply mem_mk; dsimp only; apply mem_un) | split

theorem State.spnIrq_memIs {qq : List Host.Cell} (s : State) (bit : Nat) (h_s : MemIs qq s) :
    MemIs qq (State.spnIrq s bit) := by
  unfold State.spnIrq
  dsimp -failIfUnchanged only
  repeat' with_reducible first | assumption | apply State.irq_memIs | dsimp only

theorem State.due_memIs {qq : List Host.Cell} (s : State) (m : Nat) (code : Nat) (h_s : MemIs qq s) :
    MemIs qq (State.due s m code) := by
  unfold State.due
  dsimp -failIfUnchanged only
  repeat' with_reducible first | assumption | (intro _) | apply State.updSpn_memIs | apply mem_ite | dsimp only | (apply mem_mk; dsimp only; apply mem_un) | split

theorem State.spnEvt_memIs {qq : List Host.Cell} (s : State) (kind : Nat) (h_s : MemIs qq s) :
    MemIs qq (State.spnEvt s kind) := by
  unfold State.spnEvt
  dsimp -failIfUnchanged only
  repeat' with_reducible first | assumption | (intro _) | apply State.hwPost_memIs | apply State.wr_memIs | dsimp only

theorem State.syncLose_memIs {qq : List Host.Cell} (s : State) (cause : Nat) (h_s : MemIs qq s) :
    MemIs qq (State.syncLose s cause) := by
  unfold State.syncLose
  dsimp -failIfUnchanged only
  repeat' with_reducible first | assumption | (intro _) | apply State.spnEvt_memIs | apply State.spnIrq_memIs | apply State.updSpn_memIs | apply State.wr_memIs | apply mem_ite | dsimp only | (apply mem_mk; dsimp only; apply mem_un) | split

theorem State.spnShutDone_memIs {qq : List Host.Cell} (s : State) (h_s : MemIs qq s) :
    MemIs qq (State.spnShutDone s) := by
  unfold State.spnShutDone
  dsimp -failIfUnchanged only
  repeat' with_reducible first | assumption | apply State.engRefresh_memIs | apply State.shutDone_memIs | dsimp only

theorem State.setSpeed_memIs {qq : List Host.Cell} (s : State) (v : Nat) (rev : Bool) (h_s : MemIs qq s) :
    MemIs qq (State.setSpeed s v rev) := by
  unfold State.setSpeed
  dsimp -failIfUnchanged only
  repeat' with_reducible first | assumption | apply State.wb_memIs | apply State.wr_memIs | dsimp only

theorem State.recapture_memIs {qq : List Host.Cell} (s : State) (angle : BitVec 24) (h_s : MemIs qq s) :
    MemIs qq (State.recapture s angle) := by
  unfold State.recapture
  dsimp -failIfUnchanged only
  repeat' with_reducible first | assumption | (intro _) | apply State.setSpeed_memIs | apply State.updSpn_memIs | apply mem_ite | dsimp only | (apply mem_mk; dsimp only; apply mem_un) | split

theorem State.spnRefuse_memIs {qq : List Host.Cell} (s : State) (h_s : MemIs qq s) :
    MemIs qq (State.spnRefuse s) := by
  unfold State.spnRefuse
  dsimp -failIfUnchanged only
  repeat' with_reducible first | assumption | apply State.spnEvt_memIs | apply State.spnIrq_memIs | dsimp only

theorem execAlignDone_memIs {qq : List Host.Cell} (s : State) (h_s : MemIs qq s) :
    Out.MemIs qq (execAlignDone s) := by
  unfold execAlignDone
  dsimp -failIfUnchanged only
  repeat' with_reducible first | assumption | apply State.due_memIs | apply mem_next | apply mem_ite3 | dsimp only

theorem execBemfCrossing_memIs {qq : List Host.Cell} (fwd : Bool) (amp : Nat) (interval : Nat) (sinceEdge : Nat) (angle : BitVec 24) (s : State) (h_s : MemIs qq s) :
    Out.MemIs qq (execBemfCrossing fwd amp interval sinceEdge angle s) := by
  unfold execBemfCrossing
  dsimp -failIfUnchanged only
  repeat' with_reducible first | assumption | (intro _) | apply State.recapture_memIs | apply State.setSpeed_memIs | apply State.addCrossing_memIs | apply State.updSpn_memIs | apply mem_next | apply mem_ite3 | apply mem_ite | dsimp only | (apply mem_mk; dsimp only; apply mem_un) | split

theorem execBrakeRevEnd_memIs {qq : List Host.Cell} (s : State) (h_s : MemIs qq s) :
    Out.MemIs qq (execBrakeRevEnd s) := by
  unfold execBrakeRevEnd
  dsimp -failIfUnchanged only
  repeat' with_reducible first | assumption | apply State.due_memIs | apply mem_next | apply mem_ite3 | dsimp only

theorem execBrakeStopDone_memIs {qq : List Host.Cell} (s : State) (h_s : MemIs qq s) :
    Out.MemIs qq (execBrakeStopDone s) := by
  unfold execBrakeStopDone
  dsimp -failIfUnchanged only
  repeat' with_reducible first | assumption | apply State.due_memIs | apply mem_next | apply mem_ite3 | dsimp only

theorem execCurrentConversion_memIs {qq : List Host.Cell} (j : Nat) (iu : Int) (iv : Int) (iw : Int) (s : State) (h_s : MemIs qq s) :
    Out.MemIs qq (execCurrentConversion j iu iv iw s) := by
  unfold execCurrentConversion
  dsimp -failIfUnchanged only
  repeat' with_reducible first | assumption | (intro _) | apply State.setGates_memIs | apply State.updSpn_memIs | apply State.bump_memIs | apply mem_next | apply mem_ite3 | apply mem_ite | dsimp only | (apply mem_mk; dsimp only; apply mem_un) | split

theorem execFaultStopParked_memIs {qq : List Host.Cell} (s : State) (h_s : MemIs qq s) :
    Out.MemIs qq (execFaultStopParked s) := by
  unfold execFaultStopParked
  dsimp -failIfUnchanged only
  repeat' with_reducible first | assumption | apply State.spnShutDone_memIs | apply mem_next | apply mem_ite3 | apply mem_ite | dsimp only | split

theorem execIpsAttemptDone_memIs {qq : List Host.Cell} (peaks : List Nat) (s : State) (h_s : MemIs qq s) :
    Out.MemIs qq (execIpsAttemptDone peaks s) := by
  unfold execIpsAttemptDone
  dsimp -failIfUnchanged only
  repeat' with_reducible first | assumption | (intro _) | apply State.due_memIs | apply State.updSpn_memIs | apply State.wr_memIs | apply mem_next | apply mem_ite3 | apply mem_ite | apply mem_ite1 | dsimp only | (refine mem_pair (by assumption) ?_) | (refine mem_opt (by assumption) ?_) | (refine mem_opt1 (by assumption) ?_) | (apply mem_mk; dsimp only; apply mem_un) | split

theorem execListenEnd_memIs {qq : List Host.Cell} (s : State) (h_s : MemIs qq s) :
    Out.MemIs qq (execListenEnd s) := by
  unfold execListenEnd
  dsimp -failIfUnchanged only
  repeat' with_reducible first | assumption | apply State.setSpeed_memIs | apply State.due_memIs | apply mem_next | apply mem_ite3 | apply mem_ite | dsimp only | split

theorem execRampTimeout_memIs {qq : List Host.Cell} (s : State) (h_s : MemIs qq s) :
    Out.MemIs qq (execRampTimeout s) := by
  unfold execRampTimeout
  dsimp -failIfUnchanged only
  repeat' with_reducible first | assumption | apply State.due_memIs | apply mem_next | apply mem_ite3 | dsimp only

theorem execRecapTimeout_memIs {qq : List Host.Cell} (s : State) (h_s : MemIs qq s) :
    Out.MemIs qq (execRecapTimeout s) := by
  unfold execRecapTimeout
  dsimp -failIfUnchanged only
  repeat' with_reducible first | assumption | apply State.due_memIs | apply mem_next | apply mem_ite3 | dsimp only

theorem execSpnGateForceWrite_memIs {qq : List Host.Cell} (val : Word) (s : State) (h_s : MemIs qq s) :
    Out.MemIs qq (execSpnGateForceWrite val s) := by
  unfold execSpnGateForceWrite
  dsimp -failIfUnchanged only
  repeat' with_reducible first | assumption | (intro _) | apply State.spnRefuse_memIs | apply State.gated_memIs | apply State.wr_memIs | apply mem_next | apply mem_ite3 | apply mem_ite | dsimp only | split

theorem execSyncInPulse_memIs {qq : List Host.Cell} (angle : BitVec 24) (intervalNs : Nat) (overRate : Bool) (s : State) (h_s : MemIs qq s) :
    Out.MemIs qq (execSyncInPulse angle intervalNs overRate s) := by
  unfold execSyncInPulse
  dsimp -failIfUnchanged only
  repeat' with_reducible first | assumption | (intro _) | apply State.syncLose_memIs | apply State.spnEvt_memIs | apply State.spnIrq_memIs | apply State.wrI_memIs | apply State.updSpn_memIs | apply State.wr_memIs | apply mem_next | apply mem_ite3 | apply mem_ite | dsimp only | (apply mem_mk; dsimp only; apply mem_un) | split

theorem execSyncPulseTimeout_memIs {qq : List Host.Cell} (s : State) (h_s : MemIs qq s) :
    Out.MemIs qq (execSyncPulseTimeout s) := by
  unfold execSyncPulseTimeout
  dsimp -failIfUnchanged only
  repeat' with_reducible first | assumption | apply State.syncLose_memIs | apply mem_next | apply mem_ite3 | dsimp only

theorem State.engIrq_memIs {qq : List Host.Cell} (s : State) (e : Eng) (p : Nat) (bit : Nat) (h_s : MemIs qq s) :
    MemIs qq (State.engIrq s e p bit) := by
  unfold State.engIrq
  dsimp -failIfUnchanged only
  repeat' with_reducible first | assumption | apply State.irq_memIs | dsimp only

theorem State.doSwap_memIs {qq : List Host.Cell} (s : State) (e : Eng) (h_s : MemIs qq s) :
    MemIs qq (State.doSwap s e) := by
  unfold State.doSwap
  dsimp -failIfUnchanged only
  repeat' with_reducible first | assumption | apply State.engIrq_memIs | apply State.trcEvent_memIs | apply State.wr_memIs | dsimp only

theorem State.coefInc_memIs {qq : List Host.Cell} (s : State) (e : Eng) (h_s : MemIs qq s) :
    MemIs qq (State.coefInc s e) := by
  unfold State.coefInc
  dsimp -failIfUnchanged only
  repeat' with_reducible first | assumption | apply State.wr_memIs | apply mem_ite | dsimp only | split

theorem State.idleSwap_memIs {qq : List Host.Cell} (s : State) (e : Eng) (h_s : MemIs qq s) :
    MemIs qq (State.idleSwap s e) := by
  unfold State.idleSwap
  dsimp -failIfUnchanged only
  repeat' with_reducible first | assumption | apply State.doSwap_memIs | apply mem_ite | dsimp only | split

theorem State.profShow_memIs {qq : List Host.Cell} (s : State) (e : Eng) (h_s : MemIs qq s) :
    MemIs qq (State.profShow s e) := by
  unfold State.profShow
  dsimp -failIfUnchanged only
  repeat' with_reducible first | assumption | (intro _) | apply State.wr_memIs | dsimp only

theorem State.setProfP_memIs {qq : List Host.Cell} (s : State) (e : Eng) (p : Int) (h_s : MemIs qq s) :
    MemIs qq (State.setProfP s e p) := by
  unfold State.setProfP
  dsimp -failIfUnchanged only
  repeat' with_reducible first | assumption | (intro _) | apply State.profShow_memIs | apply State.updEng_memIs | apply mem_ite | dsimp only | (apply mem_mk; dsimp only; apply mem_un) | split

theorem execCoefWrite_memIs {qq : List Host.Cell} (e : Eng) (val : Word) (s : State) (h_s : MemIs qq s) :
    Out.MemIs qq (execCoefWrite e val s) := by
  unfold execCoefWrite
  dsimp -failIfUnchanged only
  repeat' with_reducible first | assumption | (intro _) | apply State.coefInc_memIs | apply State.engIrq_memIs | apply State.updEng_memIs | apply State.gated_memIs | apply mem_next | apply mem_ite3 | apply mem_ite | dsimp only | (apply mem_mk; dsimp only; apply mem_un) | split

theorem execEngCntClr_memIs {qq : List Host.Cell} (e : Eng) (s : State) (h_s : MemIs qq s) :
    Out.MemIs qq (execEngCntClr e s) := by
  unfold execEngCntClr
  dsimp -failIfUnchanged only
  repeat' with_reducible first | assumption | (intro _) | apply State.gated_memIs | apply State.wr_memIs | apply mem_next | apply mem_ite3 | dsimp only

theorem execEngSwap_memIs {qq : List Host.Cell} (e : Eng) (s : State) (h_s : MemIs qq s) :
    Out.MemIs qq (execEngSwap e s) := by
  unfold execEngSwap
  dsimp -failIfUnchanged only
  repeat' with_reducible first | assumption | (intro _) | apply State.idleSwap_memIs | apply State.gated_memIs | apply State.wr_memIs | apply mem_next | apply mem_ite3 | dsimp only

theorem execFaultClr_memIs {qq : List Host.Cell} (e : Eng) (s : State) (h_s : MemIs qq s) :
    Out.MemIs qq (execFaultClr e s) := by
  unfold execFaultClr
  dsimp -failIfUnchanged only
  repeat' with_reducible first | assumption | (intro _) | apply State.engRefresh_memIs | apply State.updEng_memIs | apply State.gated_memIs | apply mem_next | apply mem_ite3 | apply mem_ite | dsimp only | (apply mem_mk; dsimp only; apply mem_un) | split

theorem execProfPWrite_memIs {qq : List Host.Cell} (t : Tower) (val : Word) (s : State) (h_s : MemIs qq s) :
    Out.MemIs qq (execProfPWrite t val s) := by
  unfold execProfPWrite
  dsimp -failIfUnchanged only
  repeat' with_reducible first | assumption | (intro _) | apply State.setProfP_memIs | apply State.gated_memIs | apply mem_next | apply mem_ite3 | dsimp only

theorem execSlotCfgWrite_memIs {qq : List Host.Cell} (e : Eng) (kind : Nat) (n : Nat) (val : Word) (s : State) (h_s : MemIs qq s) :
    Out.MemIs qq (execSlotCfgWrite e kind n val s) := by
  unfold execSlotCfgWrite
  dsimp -failIfUnchanged only
  repeat' with_reducible first | assumption | (intro _) | apply State.engIrq_memIs | apply State.gated_memIs | apply State.setReg_memIs | apply mem_next | apply mem_ite3 | apply mem_ite | apply mem_ite1 | dsimp only | split

theorem execSlotEnWrite_memIs {qq : List Host.Cell} (e : Eng) (val : Word) (s : State) (h_s : MemIs qq s) :
    Out.MemIs qq (execSlotEnWrite e val s) := by
  unfold execSlotEnWrite
  dsimp -failIfUnchanged only
  repeat' with_reducible first | assumption | (intro _) | apply State.idleSwap_memIs | apply State.engIrq_memIs | apply State.updEng_memIs | apply State.gated_memIs | apply State.wr_memIs | apply mem_next | apply mem_ite3 | apply mem_ite | dsimp only | (refine mem_pair (by assumption) ?_) | (refine mem_opt (by assumption) ?_) | (refine mem_opt1 (by assumption) ?_) | (apply mem_mk; dsimp only; apply mem_un) | split

theorem execTraceArm_memIs {qq : List Host.Cell} (e : Eng) (s : State) (h_s : MemIs qq s) :
    Out.MemIs qq (execTraceArm e s) := by
  unfold execTraceArm
  dsimp -failIfUnchanged only
  repeat' with_reducible first | assumption | (intro _) | apply State.updEng_memIs | apply State.gated_memIs | apply State.wr_memIs | apply mem_next | apply mem_ite3 | dsimp only | (apply mem_mk; dsimp only; apply mem_un)

theorem execTraceForce_memIs {qq : List Host.Cell} (e : Eng) (s : State) (h_s : MemIs qq s) :
    Out.MemIs qq (execTraceForce e s) := by
  unfold execTraceForce
  dsimp -failIfUnchanged only
  repeat' with_reducible first | assumption | (intro _) | apply State.updEng_memIs | apply State.gated_memIs | apply mem_next | apply mem_ite3 | apply mem_ite | dsimp only | (apply mem_mk; dsimp only; apply mem_un) | split

theorem State.srvIrq_memIs {qq : List Host.Cell} (s : State) (t : Tower) (bit : Nat) (h_s : MemIs qq s) :
    MemIs qq (State.srvIrq s t bit) := by
  unfold State.srvIrq
  dsimp -failIfUnchanged only
  repeat' with_reducible first | assumption | apply State.irq_memIs | dsimp only

theorem State.shockSet_memIs {qq : List Host.Cell} (s : State) (t : Tower) (h_s : MemIs qq s) :
    MemIs qq (State.shockSet s t) := by
  unfold State.shockSet
  dsimp -failIfUnchanged only
  repeat' with_reducible first | assumption | (intro _) | apply State.srvIrq_memIs | apply State.setOtwi_memIs | apply State.updSrv_memIs | apply State.wr_memIs | apply mem_ite | dsimp only | (apply mem_mk; dsimp only; apply mem_un) | split

theorem State.shockConv_memIs {qq : List Host.Cell} (s : State) (t : Tower) (s0 : Int) (s1 : Int) (h_s : MemIs qq s) :
    MemIs qq (State.shockConv s t s0 s1) := by
  unfold State.shockConv
  dsimp -failIfUnchanged only
  repeat' with_reducible first | assumption | (intro _) | apply State.shockSet_memIs | apply State.wrI_memIs | apply mem_ite | dsimp only | split

theorem State.srvShutDone_memIs {qq : List Host.Cell} (s : State) (t : Tower) (h_s : MemIs qq s) :
    MemIs qq (State.srvShutDone s t) := by
  unfold State.srvShutDone
  dsimp -failIfUnchanged only
  repeat' with_reducible first | assumption | apply State.engRefresh_memIs | apply State.shutDone_memIs | dsimp only

theorem execGenMoveEnd_memIs {qq : List Host.Cell} (t : Tower) (s : State) (h_s : MemIs qq s) :
    Out.MemIs qq (execGenMoveEnd t s) := by
  unfold execGenMoveEnd
  dsimp -failIfUnchanged only
  repeat' with_reducible first | assumption | (intro _) | apply State.updSrv_memIs | apply mem_next | apply mem_ite3 | apply mem_ite | dsimp only | (refine mem_pair (by assumption) ?_) | (refine mem_opt (by assumption) ?_) | (refine mem_opt1 (by assumption) ?_) | (apply mem_mk; dsimp only; apply mem_un) | split

theorem execGeneratorTick_memIs {qq : List Host.Cell} (t : Tower) (vaux : Int) (vcmI : Int) (s : State) (h_s : MemIs qq s) :
    Out.MemIs qq (execGeneratorTick t vaux vcmI s) := by
  unfold execGeneratorTick
  dsimp -failIfUnchanged only
  repeat' with_reducible first | assumption | (intro _) | apply State.updSrv_memIs | apply mem_next | apply mem_ite3 | apply mem_ite | dsimp only | (refine mem_pair (by assumption) ?_) | (refine mem_opt (by assumption) ?_) | (refine mem_opt1 (by assumption) ?_) | (apply mem_mk; dsimp only; apply mem_un) | split

theorem execShockConversion_memIs {qq : List Host.Cell} (s0 : Int) (s1 : Int) (s : State) (h_s : MemIs qq s) :
    Out.MemIs qq (execShockConversion s0 s1 s) := by
  unfold execShockConversion
  dsimp -failIfUnchanged only
  repeat' with_reducible first | assumption | apply State.shockConv_memIs | apply mem_next | apply mem_ite3 | dsimp only

theorem execSrvHeadWrite_memIs {qq : List Host.Cell} (t : Tower) (val : Word) (s : State) (h_s : MemIs qq s) :
    Out.MemIs qq (execSrvHeadWrite t val s) := by
  unfold execSrvHeadWrite
  dsimp -failIfUnchanged only
  repeat' with_reducible first | assumption | (intro _) | apply State.srvIrq_memIs | apply State.setOtwi_memIs | apply State.updSrv_memIs | apply State.gated_memIs | apply State.wr_memIs | apply mem_next | apply mem_ite3 | apply mem_ite | dsimp only | (apply mem_mk; dsimp only; apply mem_un) | split

theorem State.chnCoefInc_memIs {qq : List Host.Cell} (s : State) (t : Tower) (h_s : MemIs qq s) :
    MemIs qq (State.chnCoefInc s t) := by
  unfold State.chnCoefInc
  dsimp -failIfUnchanged only
  repeat' with_reducible first | assumption | apply State.wr_memIs | apply mem_ite | dsimp only | split

theorem State.chnIrq_memIs {qq : List Host.Cell} (s : State) (t : Tower) (bit : Nat) (h_s : MemIs qq s) :
    MemIs qq (State.chnIrq s t bit) := by
  unfold State.chnIrq
  dsimp -failIfUnchanged only
  repeat' with_reducible first | assumption | apply State.irq_memIs | dsimp only

theorem State.setPin_memIs {qq : List Host.Cell} (s : State) (t : Tower) (k : Nat) (v : Bool) (h_s : MemIs qq s) :
    MemIs qq (State.setPin s t k v) := by
  unfold State.setPin
  dsimp -failIfUnchanged only
  repeat' with_reducible first | assumption | (intro _) | apply State.wb_memIs | apply State.wr_memIs | dsimp only

theorem State.setDec_memIs {qq : List Host.Cell} (s : State) (t : Tower) (u : Unit3) (d : Option Decode) (h_s : MemIs qq s) :
    MemIs qq (State.setDec s t u d) := by
  unfold State.setDec
  dsimp -failIfUnchanged only
  repeat' with_reducible first | assumption | (intro _) | apply State.updChn_memIs | apply State.wb_memIs | dsimp only | (refine mem_pair (by assumption) ?_) | (refine mem_opt (by assumption) ?_) | (refine mem_opt1 (by assumption) ?_) | (apply mem_mk; dsimp only; apply mem_un) | split

theorem State.pinWrite_memIs {qq : List Host.Cell} (s : State) (t : Tower) (op : Bool) (val : Word) (h_s : MemIs qq s) :
    MemIs qq (State.pinWrite s t op val) := by
  unfold State.pinWrite
  dsimp -failIfUnchanged only
  repeat' with_reducible first | assumption | (intro _) | apply State.setPin_memIs | apply State.chnIrq_memIs | apply State.wr_memIs | apply mem_ite | dsimp only | split

theorem execChnCntClr_memIs {qq : List Host.Cell} (t : Tower) (val : Word) (s : State) (h_s : MemIs qq s) :
    Out.MemIs qq (execChnCntClr t val s) := by
  unfold execChnCntClr
  dsimp -failIfUnchanged only
  repeat' with_reducible first | assumption | (intro _) | apply State.gated_memIs | apply State.setReg_memIs | apply mem_next | apply mem_ite3 | apply mem_ite | (refine mem_foldl ?_ (fun _ _ _ => ?_)) | (refine mem_foldl1 ?_ (fun _ _ _ => ?_)) | (refine mem_foldl2 ?_ (fun _ _ _ => ?_)) | dsimp only | split

theorem execChnCoefWrite_memIs {qq : List Host.Cell} (t : Tower) (val : Word) (s : State) (h_s : MemIs qq s) :
    Out.MemIs qq (execChnCoefWrite t val s) := by
  unfold execChnCoefWrite
  dsimp -failIfUnchanged only
  repeat' with_reducible first | assumption | (intro _) | apply State.chnIrq_memIs | apply State.chnCoefInc_memIs | apply State.updChn_memIs | apply State.gated_memIs | apply mem_next | apply mem_ite3 | apply mem_ite | dsimp only | (apply mem_mk; dsimp only; apply mem_un) | split

theorem execDetectorPassDone_memIs {qq : List Host.Cell} (t : Tower) (u : Unit3) (s : State) (h_s : MemIs qq s) :
    Out.MemIs qq (execDetectorPassDone t u s) := by
  unfold execDetectorPassDone
  dsimp -failIfUnchanged only
  repeat' with_reducible first | assumption | apply State.setDec_memIs | apply State.drawn_memIs | apply mem_next | apply mem_ite3 | apply mem_ite | dsimp only | (refine mem_pair (by assumption) ?_) | (refine mem_opt (by assumption) ?_) | (refine mem_opt1 (by assumption) ?_) | split

theorem execEqAdaptUpdate_memIs {qq : List Host.Cell} (t : Tower) (s : State) (h_s : MemIs qq s) :
    Out.MemIs qq (execEqAdaptUpdate t s) := by
  unfold execEqAdaptUpdate
  dsimp -failIfUnchanged only
  repeat' with_reducible first | assumption | (intro _) | apply State.updChn_memIs | apply State.drawn_memIs | apply mem_next | apply mem_ite3 | (refine mem_foldl ?_ (fun _ _ _ => ?_)) | (refine mem_foldl1 ?_ (fun _ _ _ => ?_)) | (refine mem_foldl2 ?_ (fun _ _ _ => ?_)) | dsimp only | (refine mem_pair (by assumption) ?_) | (refine mem_opt (by assumption) ?_) | (refine mem_opt1 (by assumption) ?_) | (apply mem_mk; dsimp only; apply mem_un) | split

theorem execRbPin_memIs {qq : List Host.Cell} (t : Tower) (val : Word) (s : State) (h_s : MemIs qq s) :
    Out.MemIs qq (execRbPin t val s) := by
  unfold execRbPin
  dsimp -failIfUnchanged only
  repeat' with_reducible first | assumption | (intro _) | apply State.pinWrite_memIs | apply State.gated_memIs | apply mem_next | apply mem_ite3 | dsimp only

theorem execRbUnpin_memIs {qq : List Host.Cell} (t : Tower) (val : Word) (s : State) (h_s : MemIs qq s) :
    Out.MemIs qq (execRbUnpin t val s) := by
  unfold execRbUnpin
  dsimp -failIfUnchanged only
  repeat' with_reducible first | assumption | (intro _) | apply State.pinWrite_memIs | apply State.gated_memIs | apply mem_next | apply mem_ite3 | dsimp only

theorem State.cplIrq_memIs {qq : List Host.Cell} (s : State) (t : Tower) (bit : Nat) (h_s : MemIs qq s) :
    MemIs qq (State.cplIrq s t bit) := by
  unfold State.cplIrq
  dsimp -failIfUnchanged only
  repeat' with_reducible first | assumption | apply State.irq_memIs | dsimp only

theorem State.cplFwDone_memIs {qq : List Host.Cell} (s : State) (t : Tower) (err : Bool) (h_s : MemIs qq s) :
    MemIs qq (State.cplFwDone s t err) := by
  unfold State.cplFwDone
  dsimp -failIfUnchanged only
  repeat' with_reducible first | assumption | apply State.cplIrq_memIs | apply State.wb_memIs | apply State.wr_memIs | dsimp only

theorem State.cplStopEnd_memIs {qq : List Host.Cell} (s : State) (t : Tower) (h_s : MemIs qq s) :
    MemIs qq (State.cplStopEnd s t) := by
  unfold State.cplStopEnd
  dsimp -failIfUnchanged only
  repeat' with_reducible first | assumption | (intro _) | apply State.cplFwDone_memIs | apply State.updCpl_memIs | apply State.shutDone_memIs | apply State.wr_memIs | apply mem_ite | dsimp only | (apply mem_mk; dsimp only; apply mem_un) | split

theorem State.lanShutDone_memIs {qq : List Host.Cell} (s : State) (t : Tower) (h_s : MemIs qq s) :
    MemIs qq (State.lanShutDone s t) := by
  unfold State.lanShutDone
  dsimp -failIfUnchanged only
  repeat' with_reducible first | assumption | (intro _) | apply State.cplStopEnd_memIs | apply State.updLan_memIs | apply State.shutDone_memIs | apply mem_ite | dsimp only | (apply mem_mk; dsimp only; apply mem_un) | split

theorem State.lanStop_memIs {qq : List Host.Cell} (s : State) (t : Tower) (h_s : MemIs qq s) :
    MemIs qq (State.lanStop s t) := by
  unfold State.lanStop
  dsimp -failIfUnchanged only
  repeat' with_reducible first | assumption | (intro _) | apply State.lanShutDone_memIs | apply State.regate_memIs | apply State.dropAG_memIs | apply State.updLan_memIs | apply State.wr_memIs | apply mem_ite | dsimp only | (apply mem_mk; dsimp only; apply mem_un) | split

theorem State.lanFault_memIs {qq : List Host.Cell} (s : State) (t : Tower) (cause : Nat) (h_s : MemIs qq s) :
    MemIs qq (State.lanFault s t cause) := by
  unfold State.lanFault
  dsimp -failIfUnchanged only
  repeat' with_reducible first | assumption | (intro _) | apply State.lanStop_memIs | apply State.hwPost_memIs | apply State.faultStop_memIs | apply State.wr_memIs | dsimp only

theorem State.cplStop_memIs {qq : List Host.Cell} (s : State) (t : Tower) (h_s : MemIs qq s) :
    MemIs qq (State.cplStop s t) := by
  unfold State.cplStop
  dsimp -failIfUnchanged only
  repeat' with_reducible first | assumption | (intro _) | apply State.lanFault_memIs | apply State.cplStopEnd_memIs | apply State.regate_memIs | apply State.updLan_memIs | apply State.updCpl_memIs | apply mem_ite | dsimp only | (apply mem_mk; dsimp only; apply mem_un) | split

theorem State.cplRegCmd_memIs {qq : List Host.Cell} (s : State) (t : Tower) (val : Word) (h_s : MemIs qq s) :
    MemIs qq (State.cplRegCmd s t val) := by
  unfold State.cplRegCmd
  dsimp -failIfUnchanged only
  repeat' with_reducible first | assumption | (intro _) | apply State.cplIrq_memIs | apply State.updCpl_memIs | apply State.wr_memIs | apply mem_ite | dsimp only | (apply mem_mk; dsimp only; apply mem_un) | split

theorem State.linkFault_memIs {qq : List Host.Cell} (s : State) (t : Tower) (f : CplFrame) (h_s : MemIs qq s) :
    MemIs qq (State.linkFault s t f) := by
  unfold State.linkFault
  dsimp -failIfUnchanged only
  repeat' with_reducible first | assumption | (intro _) | apply State.cplStop_memIs | apply State.lanShutDone_memIs | apply State.cplFwDone_memIs | apply State.cplIrq_memIs | apply State.updCpl_memIs | apply State.faultStop_memIs | apply State.wr_memIs | apply mem_ite | dsimp only | (apply mem_mk; dsimp only; apply mem_un) | split

theorem State.cplRetry_memIs {qq : List Host.Cell} (s : State) (t : Tower) (f : CplFrame) (h_s : MemIs qq s) :
    MemIs qq (State.cplRetry s t f) := by
  unfold State.cplRetry
  dsimp -failIfUnchanged only
  repeat' with_reducible first | assumption | (intro _) | apply State.linkFault_memIs | apply State.cplStop_memIs | apply State.updCpl_memIs | apply State.faultStop_memIs | apply mem_ite | dsimp only | (apply mem_mk; dsimp only; apply mem_un) | split

theorem State.ptabWrite_memIs {qq : List Host.Cell} (s : State) (t : Tower) (val : Word) (h_s : MemIs qq s) :
    MemIs qq (State.ptabWrite s t val) := by
  unfold State.ptabWrite
  dsimp -failIfUnchanged only
  repeat' with_reducible first | assumption | (intro _) | apply State.lanAssist_memIs | apply State.updLan_memIs | apply State.wr_memIs | apply mem_ite | dsimp only | (apply mem_mk; dsimp only; apply mem_un) | split

theorem State.rampEnd_memIs {qq : List Host.Cell} (s : State) (t : Tower) (h_s : MemIs qq s) :
    MemIs qq (State.rampEnd s t) := by
  unfold State.rampEnd
  dsimp -failIfUnchanged only
  repeat' with_reducible first | assumption | (intro _) | apply State.lanAssist_memIs | apply State.updLan_memIs | apply State.irq_memIs | apply State.setSt_memIs | apply State.wr_memIs | apply mem_ite | dsimp only | (apply mem_mk; dsimp only; apply mem_un) | split

theorem State.rampStep_memIs {qq : List Host.Cell} (s : State) (t : Tower) (target : Nat) (h_s : MemIs qq s) :
    MemIs qq (State.rampStep s t target) := by
  unfold State.rampStep
  dsimp -failIfUnchanged only
  repeat' with_reducible first | assumption | (intro _) | apply State.rampEnd_memIs | apply State.updLan_memIs | apply State.updCpl_memIs | apply mem_ite | dsimp only | (apply mem_mk; dsimp only; apply mem_un) | split

theorem State.sentNow_memIs {qq : List Host.Cell} (s : State) (t : Tower) (n : Nat) (bits : List Byte) (h_s : MemIs qq s) :
    MemIs qq (State.sentNow s t n bits) := by
  unfold State.sentNow
  dsimp -failIfUnchanged only
  repeat' with_reducible first | assumption | (intro _) | apply State.updChn_memIs | apply mem_ite | dsimp only | (apply mem_mk; dsimp only; apply mem_un) | split

theorem State.setTrim_memIs {qq : List Host.Cell} (s : State) (t : Tower) (h : Nat) (x : Int) (h_s : MemIs qq s) :
    MemIs qq (State.setTrim s t h x) := by
  unfold State.setTrim
  dsimp -failIfUnchanged only
  repeat' with_reducible first | assumption | apply State.wrI_memIs | dsimp only

theorem State.thermalAbort_memIs {qq : List Host.Cell} (s : State) (t : Tower) (h : Nat) (h_s : MemIs qq s) :
    MemIs qq (State.thermalAbort s t h) := by
  unfold State.thermalAbort
  dsimp -failIfUnchanged only
  repeat' with_reducible first | assumption | (intro _) | apply State.setTrim_memIs | apply State.dropWG_memIs | apply State.setAG_memIs | apply State.lanAssist_memIs | apply State.updLan_memIs | apply State.hwPost_memIs | apply State.irq_memIs | apply State.bump_memIs | apply State.wr_memIs | apply mem_ite | dsimp only | (apply mem_mk; dsimp only; apply mem_un) | split

theorem State.trimStep_memIs {qq : List Host.Cell} (s : State) (t : Tower) (h : Nat) (code : Nat) (h_s : MemIs qq s) :
    MemIs qq (State.trimStep s t h code) := by
  unfold State.trimStep
  dsimp -failIfUnchanged only
  repeat' with_reducible first | assumption | (intro _) | apply State.setTrim_memIs | apply mem_ite | dsimp only | split

theorem execCplAnswerTimeout_memIs {qq : List Host.Cell} (t : Tower) (s : State) (h_s : MemIs qq s) :
    Out.MemIs qq (execCplAnswerTimeout t s) := by
  unfold execCplAnswerTimeout
  dsimp -failIfUnchanged only
  repeat' with_reducible first | assumption | apply State.cplRetry_memIs | apply State.bump_memIs | apply mem_next | apply mem_ite3 | dsimp only | (refine mem_pair (by assumption) ?_) | (refine mem_opt (by assumption) ?_) | (refine mem_opt1 (by assumption) ?_) | split

theorem execCplBadFrame_memIs {qq : List Host.Cell} (t : Tower) (kind : Nat) (s : State) (h_s : MemIs qq s) :
    Out.MemIs qq (execCplBadFrame t kind s) := by
  unfold execCplBadFrame
  dsimp -failIfUnchanged only
  repeat' with_reducible first | assumption | apply State.cplIrq_memIs | apply State.bump_memIs | apply mem_next | apply mem_ite3 | apply mem_ite | dsimp only | split

theorem execCplFaultFrame_memIs {qq : List Host.Cell} (t : Tower) (status : Nat) (s : State) (h_s : MemIs qq s) :
    Out.MemIs qq (execCplFaultFrame t status s) := by
  unfold execCplFaultFrame
  dsimp -failIfUnchanged only
  repeat' with_reducible first | assumption | apply State.lanFault_memIs | apply State.wr_memIs | apply mem_next | apply mem_ite3 | apply mem_ite | dsimp only | split

theorem execCplNak_memIs {qq : List Host.Cell} (t : Tower) (seq : Nat) (s : State) (h_s : MemIs qq s) :
    Out.MemIs qq (execCplNak t seq s) := by
  unfold execCplNak
  dsimp -failIfUnchanged only
  repeat' with_reducible first | assumption | apply State.cplRetry_memIs | apply State.bump_memIs | apply mem_next | apply mem_ite3 | dsimp only | (refine mem_pair (by assumption) ?_) | (refine mem_opt (by assumption) ?_) | (refine mem_opt1 (by assumption) ?_) | split

theorem execCplRegGo_memIs {qq : List Host.Cell} (t : Tower) (val : Word) (s : State) (h_s : MemIs qq s) :
    Out.MemIs qq (execCplRegGo t val s) := by
  unfold execCplRegGo
  dsimp -failIfUnchanged only
  repeat' with_reducible first | assumption | (intro _) | apply State.cplRegCmd_memIs | apply State.gated_memIs | apply mem_next | apply mem_ite3 | dsimp only

theorem execCplResetRelease_memIs {qq : List Host.Cell} (t : Tower) (s : State) (h_s : MemIs qq s) :
    Out.MemIs qq (execCplResetRelease t s) := by
  unfold execCplResetRelease
  dsimp -failIfUnchanged only
  repeat' with_reducible first | assumption | (intro _) | apply State.updCpl_memIs | apply mem_next | apply mem_ite3 | apply mem_ite | dsimp only | (apply mem_mk; dsimp only; apply mem_un) | split

theorem execHoldoffEnd_memIs {qq : List Host.Cell} (t : Tower) (s : State) (h_s : MemIs qq s) :
    Out.MemIs qq (execHoldoffEnd t s) := by
  unfold execHoldoffEnd
  dsimp -failIfUnchanged only
  repeat' with_reducible first | assumption | (intro _) | apply State.updLan_memIs | apply mem_next | apply mem_ite3 | apply mem_ite | dsimp only | (apply mem_mk; dsimp only; apply mem_un) | split

theorem execLanBiasRampStep_memIs {qq : List Host.Cell} (t : Tower) (s : State) (h_s : MemIs qq s) :
    Out.MemIs qq (execLanBiasRampStep t s) := by
  unfold execLanBiasRampStep
  dsimp -failIfUnchanged only
  repeat' with_reducible first | assumption | apply State.rampStep_memIs | apply State.lanShutDone_memIs | apply mem_next | apply mem_ite3 | apply mem_ite | dsimp only | (refine mem_pair (by assumption) ?_) | (refine mem_opt (by assumption) ?_) | (refine mem_opt1 (by assumption) ?_) | split

theorem execPtabWrite_memIs {qq : List Host.Cell} (t : Tower) (val : Word) (s : State) (h_s : MemIs qq s) :
    Out.MemIs qq (execPtabWrite t val s) := by
  unfold execPtabWrite
  dsimp -failIfUnchanged only
  repeat' with_reducible first | assumption | (intro _) | apply State.ptabWrite_memIs | apply State.gated_memIs | apply mem_next | apply mem_ite3 | dsimp only

theorem execSectorWriteEnd_memIs {qq : List Host.Cell} (t : Tower) (s : State) (h_s : MemIs qq s) :
    Out.MemIs qq (execSectorWriteEnd t s) := by
  unfold execSectorWriteEnd
  dsimp -failIfUnchanged only
  repeat' with_reducible first | assumption | apply State.sectorEnd_memIs | apply mem_next | apply mem_ite3 | apply mem_ite | dsimp only | (refine mem_pair (by assumption) ?_) | (refine mem_opt (by assumption) ?_) | (refine mem_opt1 (by assumption) ?_) | split

theorem execSectorWriteStart_memIs {qq : List Host.Cell} (t : Tower) (encoded : Bool) (s : State) (h_s : MemIs qq s) :
    Out.MemIs qq (execSectorWriteStart t encoded s) := by
  unfold execSectorWriteStart
  dsimp -failIfUnchanged only
  repeat' with_reducible first | assumption | (intro _) | apply State.sentNow_memIs | apply State.sectorEnd_memIs | apply State.updTwr_memIs | apply State.drawn_memIs | apply mem_next | apply mem_ite3 | apply mem_ite | dsimp only | (refine mem_pair (by assumption) ?_) | (refine mem_opt (by assumption) ?_) | (refine mem_opt1 (by assumption) ?_) | (apply mem_mk; dsimp only; apply mem_un) | split

theorem execTelemetry_memIs {qq : List Host.Cell} (t : Tower) (head : Nat) (code : Nat) (s : State) (h_s : MemIs qq s) :
    Out.MemIs qq (execTelemetry t head code s) := by
  unfold execTelemetry
  dsimp -failIfUnchanged only
  repeat' with_reducible first | assumption | (intro _) | apply State.trimStep_memIs | apply State.thermalAbort_memIs | apply State.lanFault_memIs | apply State.lanAssist_memIs | apply State.updLan_memIs | apply State.wr_memIs | apply mem_next | apply mem_ite3 | apply mem_ite | dsimp only | (apply mem_mk; dsimp only; apply mem_un) | split

theorem execTelemetryStrobe_memIs {qq : List Host.Cell} (t : Tower) (s : State) (h_s : MemIs qq s) :
    Out.MemIs qq (execTelemetryStrobe t s) := by
  unfold execTelemetryStrobe
  dsimp -failIfUnchanged only
  repeat' with_reducible first | assumption | (intro _) | apply State.headWarn_memIs | apply State.wr_memIs | apply mem_next | apply mem_ite3 | apply mem_ite | dsimp only | split

theorem State.updLay_memIs {qq : List Host.Cell} (s : State) (t : Tower) (f : LayState → LayState) (h_s : MemIs qq s) :
    MemIs qq (State.updLay s t f) := by
  unfold State.updLay
  dsimp -failIfUnchanged only
  repeat' with_reducible first | assumption | (intro _) | dsimp only | (apply mem_mk; dsimp only; apply mem_un)

theorem State.aotCount_memIs {qq : List Host.Cell} (s : State) (n : Nat) (h_s : MemIs qq s) :
    MemIs qq (State.aotCount s n) := by
  unfold State.aotCount
  dsimp -failIfUnchanged only
  repeat' with_reducible first | assumption | apply State.bump_memIs | dsimp only

theorem State.updAot_memIs {qq : List Host.Cell} (s : State) (f : AotState → AotState) (h_s : MemIs qq s) :
    MemIs qq (State.updAot s f) := by
  unfold State.updAot
  dsimp -failIfUnchanged only
  repeat' with_reducible first | assumption | (intro _) | dsimp only | (apply mem_mk; dsimp only; apply mem_un)

theorem State.aotIdle_memIs {qq : List Host.Cell} (s : State) (h_s : MemIs qq s) :
    MemIs qq (State.aotIdle s) := by
  unfold State.aotIdle
  dsimp -failIfUnchanged only
  repeat' with_reducible first | assumption | (intro _) | apply State.updAot_memIs | apply State.shutDone_memIs | apply mem_ite | apply mem_ite1 | dsimp only | (apply mem_mk; dsimp only; apply mem_un) | split

theorem State.aotIrq_memIs {qq : List Host.Cell} (s : State) (bit : Nat) (h_s : MemIs qq s) :
    MemIs qq (State.aotIrq s bit) := by
  unfold State.aotIrq
  dsimp -failIfUnchanged only
  repeat' with_reducible first | assumption | apply State.irq_memIs | dsimp only

theorem State.portTx_memIs {qq : List Host.Cell} (s : State) (p : Nat) (r : TxRec) (h_s : MemIs qq s) :
    MemIs qq (State.portTx s p r) := by
  unfold State.portTx
  dsimp -failIfUnchanged only
  repeat' with_reducible first | assumption | apply State.bump_memIs | apply mem_ite | dsimp only | (apply mem_mk; dsimp only; apply mem_un) | split

theorem State.sessTx_memIs {qq : List Host.Cell} (s : State) (i : Nat) (r : TxRec) (h_s : MemIs qq s) :
    MemIs qq (State.sessTx s i r) := by
  unfold State.sessTx
  dsimp -failIfUnchanged only
  repeat' with_reducible first | assumption | apply State.portTx_memIs | apply mem_ite | dsimp only | split

theorem State.setSess_memIs {qq : List Host.Cell} (s : State) (i : Nat) (x : Sess) (h_s : MemIs qq s) :
    MemIs qq (State.setSess s i x) := by
  unfold State.setSess
  dsimp -failIfUnchanged only
  repeat' with_reducible first | assumption | (intro _) | apply State.updAot_memIs | apply State.wr_memIs | dsimp only | (apply mem_mk; dsimp only; apply mem_un)

theorem State.sendAck_memIs {qq : List Host.Cell} (s : State) (i : Nat) (h_s : MemIs qq s) :
    MemIs qq (State.sendAck s i) := by
  unfold State.sendAck
  dsimp -failIfUnchanged only
  repeat' with_reducible first | assumption | (intro _) | apply State.setSess_memIs | apply State.sessTx_memIs | dsimp only | (refine mem_pair (by assumption) ?_) | (refine mem_opt (by assumption) ?_) | (refine mem_opt1 (by assumption) ?_) | (apply mem_mk; dsimp only; apply mem_un) | split

theorem State.updObj_memIs {qq : List Host.Cell} (s : State) (f : ObjState → ObjState) (h_s : MemIs qq s) :
    MemIs qq (State.updObj s f) := by
  unfold State.updObj
  dsimp -failIfUnchanged only
  repeat' with_reducible first | assumption | (intro _) | dsimp only | (apply mem_mk; dsimp only; apply mem_un)

theorem State.dropCmd_memIs {qq : List Host.Cell} (s : State) (i : Nat) (tag : Nat) (h_s : MemIs qq s) :
    MemIs qq (State.dropCmd s i tag) := by
  unfold State.dropCmd
  dsimp -failIfUnchanged only
  repeat' with_reducible first | assumption | (intro _) | apply State.updObj_memIs | dsimp only | (apply mem_mk; dsimp only; apply mem_un)

theorem State.updSess_memIs {qq : List Host.Cell} (s : State) (i : Nat) (f : Sess → Sess) (h_s : MemIs qq s) :
    MemIs qq (State.updSess s i f) := by
  unfold State.updSess
  dsimp -failIfUnchanged only
  repeat' with_reducible first | assumption | (intro _) | apply State.setSess_memIs | dsimp only

theorem State.updTag_memIs {qq : List Host.Cell} (s : State) (i : Nat) (tag : Nat) (f : NTag → NTag) (h_s : MemIs qq s) :
    MemIs qq (State.updTag s i tag f) := by
  unfold State.updTag
  dsimp -failIfUnchanged only
  repeat' with_reducible first | assumption | (intro _) | apply State.updSess_memIs | dsimp only | (apply mem_mk; dsimp only; apply mem_un)

theorem State.sendFirst_memIs {qq : List Host.Cell} (s : State) (i : Nat) (p : RelPkt) (h_s : MemIs qq s) :
    MemIs qq (State.sendFirst s i p) := by
  unfold State.sendFirst
  dsimp -failIfUnchanged only
  repeat' with_reducible first | assumption | (intro _) | apply State.setSess_memIs | apply State.sessTx_memIs | dsimp only | (apply mem_mk; dsimp only; apply mem_un)

theorem State.pump_memIs {qq : List Host.Cell} (s : State) (i : Nat) (h_s : MemIs qq s) :
    MemIs qq (State.pump s i) := by
  unfold State.pump
  dsimp -failIfUnchanged only
  repeat' with_reducible first | assumption | (intro _) | apply State.sendFirst_memIs | apply State.setSess_memIs | apply mem_ite | (refine mem_foldl ?_ (fun _ _ _ => ?_)) | (refine mem_foldl1 ?_ (fun _ _ _ => ?_)) | (refine mem_foldl2 ?_ (fun _ _ _ => ?_)) | dsimp only | (apply mem_mk; dsimp only; apply mem_un) | split

theorem State.resend_memIs {qq : List Host.Cell} (s : State) (i : Nat) (p : RelPkt) (h_s : MemIs qq s) :
    MemIs qq (State.resend s i p) := by
  unfold State.resend
  dsimp -failIfUnchanged only
  repeat' with_reducible first | assumption | apply State.sessTx_memIs | apply State.aotCount_memIs | dsimp only | (apply mem_mk; dsimp only; apply mem_un)

theorem State.processAck_memIs {qq : List Host.Cell} (s : State) (i : Nat) (h : AotHdr) (h_s : MemIs qq s) :
    MemIs qq (State.processAck s i h) := by
  unfold State.processAck
  dsimp -failIfUnchanged only
  repeat' with_reducible first | assumption | (intro _) | apply State.resend_memIs | apply State.pump_memIs | apply State.updTag_memIs | apply State.dropCmd_memIs | apply State.setSess_memIs | apply mem_ite | (refine mem_foldl ?_ (fun _ _ _ => ?_)) | (refine mem_foldl1 ?_ (fun _ _ _ => ?_)) | (refine mem_foldl2 ?_ (fun _ _ _ => ?_)) | dsimp only | (refine mem_pair (by assumption) ?_) | (refine mem_opt (by assumption) ?_) | (refine mem_opt1 (by assumption) ?_) | (apply mem_mk; dsimp only; apply mem_un) | split

theorem State.aotRx_memIs {qq : List Host.Cell} (s : State) (typ : Nat) (h : AotHdr) (body : List Byte) (gtag : List Byte) (h_s : MemIs qq s) :
    MemIs qq (State.aotRx s typ h body gtag).1 := by
  unfold State.aotRx
  dsimp -failIfUnchanged only
  repeat' with_reducible first | assumption | (intro _) | apply State.processAck_memIs | apply State.sendAck_memIs | apply State.aotIrq_memIs | apply State.aotCount_memIs | apply mem_ite | apply mem_ite1 | dsimp only | (refine mem_pair (by assumption) ?_) | (refine mem_opt (by assumption) ?_) | (refine mem_opt1 (by assumption) ?_) | split

theorem State.setGcm_memIs {qq : List Host.Cell} (s : State) (n : Nat) (k : Option Nat) (h_s : MemIs qq s) :
    MemIs qq (State.setGcm s n k) := by
  unfold State.setGcm
  dsimp -failIfUnchanged only
  repeat' with_reducible first | assumption | (intro _) | dsimp only | (apply mem_mk; dsimp only; apply mem_un)

theorem State.sendSeq_memIs {qq : List Host.Cell} (s : State) (i : Nat) (typ : Nat) (flags : Nat) (tag : Nat) (gen : Nat) (off : Nat) (body : List Byte) (h_s : MemIs qq s) :
    MemIs qq (State.sendSeq s i typ flags tag gen off body) := by
  unfold State.sendSeq
  dsimp -failIfUnchanged only
  repeat' with_reducible first | assumption | (intro _) | apply State.setGcm_memIs | apply State.pump_memIs | apply State.setSess_memIs | apply mem_ite | dsimp only | (apply mem_mk; dsimp only; apply mem_un) | split

theorem State.updCmd_memIs {qq : List Host.Cell} (s : State) (i : Nat) (tag : Nat) (f : Cmd → Cmd) (h_s : MemIs qq s) :
    MemIs qq (State.updCmd s i tag f) := by
  unfold State.updCmd
  dsimp -failIfUnchanged only
  repeat' with_reducible first | assumption | (intro _) | apply State.updObj_memIs | apply mem_ite | dsimp only | (apply mem_mk; dsimp only; apply mem_un) | split

theorem State.journalAdd_memIs {qq : List Host.Cell} (s : State) (o : Obj) (change : Nat) (h_s : MemIs qq s) :
    MemIs qq (State.journalAdd s o change) := by
  unfold State.journalAdd
  dsimp -failIfUnchanged only
  repeat' with_reducible first | assumption | (intro _) | apply State.updObj_memIs | apply mem_ite | dsimp only | (apply mem_mk; dsimp only; apply mem_un) | split

theorem State.dropObj_memIs {qq : List Host.Cell} (s : State) (v : Nat) (h : Nat) (h_s : MemIs qq s) :
    MemIs qq (State.dropObj s v h) := by
  unfold State.dropObj
  dsimp -failIfUnchanged only
  repeat' with_reducible first | assumption | (intro _) | apply State.journalAdd_memIs | apply State.updObj_memIs | apply State.updLay_memIs | apply mem_ite | dsimp only | (refine mem_pair (by assumption) ?_) | (refine mem_opt (by assumption) ?_) | (refine mem_opt1 (by assumption) ?_) | (apply mem_mk; dsimp only; apply mem_un) | split

theorem State.rawStore_memIs {qq : List Host.Cell} (s : State) (t : Nat) (lba : Nat) (n : Nat) (b : List Byte) (h_s : MemIs qq s) :
    MemIs qq (State.rawStore s t lba n b) := by
  unfold State.rawStore
  dsimp -failIfUnchanged only
  repeat' with_reducible first | assumption | (intro _) | apply State.updObj_memIs | (refine mem_foldl ?_ (fun _ _ _ => ?_)) | (refine mem_foldl1 ?_ (fun _ _ _ => ?_)) | (refine mem_foldl2 ?_ (fun _ _ _ => ?_)) | dsimp only | (apply mem_mk; dsimp only; apply mem_un)

theorem State.rawPrefix_memIs {qq : List Host.Cell} (s : State) (c : Cmd) (h_s : MemIs qq s) :
    MemIs qq (State.rawPrefix s c) := by
  unfold State.rawPrefix
  dsimp -failIfUnchanged only
  repeat' with_reducible first | assumption | (intro _) | apply State.rawStore_memIs | apply State.drawn_memIs | apply mem_ite | dsimp only | split

theorem State.stopCmd_memIs {qq : List Host.Cell} (s : State) (c : Cmd) (h_s : MemIs qq s) :
    MemIs qq (State.stopCmd s c) := by
  unfold State.stopCmd
  dsimp -failIfUnchanged only
  repeat' with_reducible first | assumption | apply State.rawPrefix_memIs | apply State.dropObj_memIs | apply mem_ite | dsimp only | (refine mem_pair (by assumption) ?_) | (refine mem_opt (by assumption) ?_) | (refine mem_opt1 (by assumption) ?_) | split

theorem State.stopCmds_memIs {qq : List Host.Cell} (s : State) (i : Nat) (h_s : MemIs qq s) :
    MemIs qq (State.stopCmds s i) := by
  unfold State.stopCmds
  dsimp -failIfUnchanged only
  repeat' with_reducible first | assumption | (intro _) | apply State.stopCmd_memIs | apply State.updCmd_memIs | (refine mem_foldl ?_ (fun _ _ _ => ?_)) | (refine mem_foldl1 ?_ (fun _ _ _ => ?_)) | (refine mem_foldl2 ?_ (fun _ _ _ => ?_)) | dsimp only | (apply mem_mk; dsimp only; apply mem_un)

theorem State.shut_memIs {qq : List Host.Cell} (s : State) (i : Nat) (reason : Nat) (h_s : MemIs qq s) :
    MemIs qq (State.shut s i reason) := by
  unfold State.shut
  dsimp -failIfUnchanged only
  repeat' with_reducible first | assumption | (intro _) | apply State.stopCmds_memIs | apply State.sendSeq_memIs | apply State.updSess_memIs | dsimp only | (apply mem_mk; dsimp only; apply mem_un)

theorem State.sessFree_memIs {qq : List Host.Cell} (s : State) (i : Nat) (h_s : MemIs qq s) :
    MemIs qq (State.sessFree s i) := by
  unfold State.sessFree
  dsimp -failIfUnchanged only
  repeat' with_reducible first | assumption | (intro _) | apply State.setGcm_memIs | apply State.updObj_memIs | apply State.setSess_memIs | apply State.aotIrq_memIs | (refine mem_foldl ?_ (fun _ _ _ => ?_)) | (refine mem_foldl1 ?_ (fun _ _ _ => ?_)) | (refine mem_foldl2 ?_ (fun _ _ _ => ?_)) | dsimp only | (apply mem_mk; dsimp only; apply mem_un)

theorem State.sessClose_memIs {qq : List Host.Cell} (s : State) (i : Nat) (reason : Nat) (h_s : MemIs qq s) :
    MemIs qq (State.sessClose s i reason) := by
  unfold State.sessClose
  dsimp -failIfUnchanged only
  repeat' with_reducible first | assumption | apply State.sessFree_memIs | apply State.shut_memIs | apply State.aotIdle_memIs | apply State.aotCount_memIs | apply mem_ite | dsimp only | split

theorem State.sendRel_memIs {qq : List Host.Cell} (s : State) (i : Nat) (typ : Nat) (flags : Nat) (tag : Nat) (gen : Nat) (off : Nat) (body : List Byte) (h_s : MemIs qq s) :
    MemIs qq (State.sendRel s i typ flags tag gen off body) := by
  unfold State.sendRel
  dsimp -failIfUnchanged only
  repeat' with_reducible first | assumption | apply State.shut_memIs | apply State.sendSeq_memIs | apply mem_ite | dsimp only | split

theorem State.finish_memIs {qq : List Host.Cell} (s : State) (i : Nat) (tag : Nat) (status : Nat) (flags : Nat) (aux : List Byte) (result : List Byte) (ext : List (Nat × Nat)) (retry : optParam Nat 0) (h_s : MemIs qq s) :
    MemIs qq (State.finish s i tag status flags aux result ext retry) := by
  unfold State.finish
  dsimp -failIfUnchanged only
  repeat' with_reducible first | assumption | (intro _) | apply State.sendRel_memIs | apply State.updCmd_memIs | apply State.updTag_memIs | apply mem_ite | dsimp only | (apply mem_mk; dsimp only; apply mem_un) | split

theorem State.fail_memIs {qq : List Host.Cell} (s : State) (i : Nat) (tag : Nat) (status : Nat) (h_s : MemIs qq s) :
    MemIs qq (State.fail s i tag status) := by
  unfold State.fail
  dsimp -failIfUnchanged only
  repeat' with_reducible first | assumption | apply State.finish_memIs | dsimp only

theorem State.deliverCmd_memIs {qq : List Host.Cell} (s : State) (c : Cmd) (h_s : MemIs qq s) :
    MemIs qq (State.deliverCmd s c) := by
  unfold State.deliverCmd
  dsimp -failIfUnchanged only
  repeat' with_reducible first | assumption | (intro _) | apply State.fail_memIs | apply State.finish_memIs | apply State.updObj_memIs | apply State.activity_memIs | apply mem_ite | apply mem_ite1 | dsimp only | (refine mem_pair (by assumption) ?_) | (refine mem_opt (by assumption) ?_) | (refine mem_opt1 (by assumption) ?_) | (apply mem_mk; dsimp only; apply mem_un) | split

theorem State.endCmd_memIs {qq : List Host.Cell} (s : State) (c : Cmd) (status : Nat) (h_s : MemIs qq s) :
    MemIs qq (State.endCmd s c status) := by
  unfold State.endCmd
  dsimp -failIfUnchanged only
  repeat' with_reducible first | assumption | apply State.finish_memIs | apply State.stopCmd_memIs | apply mem_ite | dsimp only | split

theorem State.endCmds_memIs {qq : List Host.Cell} (s : State) (i : Nat) (below : Nat) (status : Nat) (h_s : MemIs qq s) :
    MemIs qq (State.endCmds s i below status) := by
  unfold State.endCmds
  dsimp -failIfUnchanged only
  repeat' with_reducible first | assumption | (intro _) | apply State.endCmd_memIs | (refine mem_foldl ?_ (fun _ _ _ => ?_)) | (refine mem_foldl1 ?_ (fun _ _ _ => ?_)) | (refine mem_foldl2 ?_ (fun _ _ _ => ?_)) | dsimp only

theorem State.ethCount_memIs {qq : List Host.Cell} (s : State) (p : Nat) (n : Nat) (h_s : MemIs qq s) :
    MemIs qq (State.ethCount s p n) := by
  unfold State.ethCount
  dsimp -failIfUnchanged only
  repeat' with_reducible first | assumption | apply State.bump_memIs | dsimp only

theorem State.linkOff_memIs {qq : List Host.Cell} (s : State) (p : Nat) (h_s : MemIs qq s) :
    MemIs qq (State.linkOff s p) := by
  unfold State.linkOff
  dsimp -failIfUnchanged only
  repeat' with_reducible first | assumption | apply State.wr_memIs | dsimp only

theorem State.newCookie_memIs {qq : List Host.Cell} (s : State) (h_s : MemIs qq s) :
    MemIs qq (State.newCookie s) := by
  unfold State.newCookie
  dsimp -failIfUnchanged only
  repeat' with_reducible first | assumption | (intro _) | apply State.updAot_memIs | apply State.rand_memIs | dsimp only | (apply mem_mk; dsimp only; apply mem_un)

theorem State.record_memIs {qq : List Host.Cell} (s : State) (i : Nat) (rx : Peer) (h : AotHdr) (h_s : MemIs qq s) :
    MemIs qq (State.record s i rx h) := by
  unfold State.record
  dsimp -failIfUnchanged only
  repeat' with_reducible first | assumption | (intro _) | apply State.sendAck_memIs | apply State.setSess_memIs | apply mem_ite | apply mem_ite1 | (refine mem_foldl ?_ (fun _ _ _ => ?_)) | (refine mem_foldl1 ?_ (fun _ _ _ => ?_)) | (refine mem_foldl2 ?_ (fun _ _ _ => ?_)) | dsimp only | (apply mem_mk; dsimp only; apply mem_un) | split

theorem State.sendStray_memIs {qq : List Host.Cell} (s : State) (i : Nat) (tag : Nat) (gen : Nat) (status : Nat) (retry : Nat) (h_s : MemIs qq s) :
    MemIs qq (State.sendStray s i tag gen status retry) := by
  unfold State.sendStray
  dsimp -failIfUnchanged only
  repeat' with_reducible first | assumption | apply State.sendRel_memIs | apply mem_ite | dsimp only | split

theorem State.sessOpen_memIs {qq : List Host.Cell} (s : State) (i : Nat) (h_s : MemIs qq s) :
    MemIs qq (State.sessOpen s i) := by
  unfold State.sessOpen
  dsimp -failIfUnchanged only
  repeat' with_reducible first | assumption | (intro _) | apply State.sendRel_memIs | apply State.setSess_memIs | apply State.aotIrq_memIs | apply mem_ite | dsimp only | (apply mem_mk; dsimp only; apply mem_un) | split

theorem State.sessCtl_memIs {qq : List Host.Cell} (s : State) (val : Word) (h_s : MemIs qq s) :
    MemIs qq (State.sessCtl s val) := by
  unfold State.sessCtl
  dsimp -failIfUnchanged only
  repeat' with_reducible first | assumption | (intro _) | apply State.sessOpen_memIs | apply State.sessClose_memIs | apply mem_ite | dsimp only | split

theorem State.updObjOf_memIs {qq : List Host.Cell} (s : State) (v : Nat) (h : Nat) (f : Obj → Obj) (h_s : MemIs qq s) :
    MemIs qq (State.updObjOf s v h f) := by
  unfold State.updObjOf
  dsimp -failIfUnchanged only
  repeat' with_reducible first | assumption | (intro _) | apply State.updObj_memIs | apply mem_ite | dsimp only | (apply mem_mk; dsimp only; apply mem_un) | split

theorem execAck_memIs {qq : List Host.Cell} (_rx : Peer) (h : AotHdr) (body : List Byte) (gtag : List Byte) (s : State) (h_s : MemIs qq s) :
    Out.MemIs qq (execAck _rx h body gtag s) := by
  unfold execAck
  dsimp -failIfUnchanged only
  repeat' with_reducible first | assumption | (intro _) | apply State.aotRx_memIs | apply State.updSess_memIs | apply State.sendAck_memIs | apply mem_next | apply mem_ite3 | apply mem_ite | dsimp only | (refine mem_pair (by assumption) ?_) | (refine mem_opt (by assumption) ?_) | (refine mem_opt1 (by assumption) ?_) | (apply mem_mk; dsimp only; apply mem_un) | split

theorem execAckDelayTimer_memIs {qq : List Host.Cell} (i : Nat) (s : State) (h_s : MemIs qq s) :
    Out.MemIs qq (execAckDelayTimer i s) := by
  unfold execAckDelayTimer
  dsimp -failIfUnchanged only
  repeat' with_reducible first | assumption | (intro _) | apply State.sendAck_memIs | apply State.updAot_memIs | apply mem_next | apply mem_ite3 | apply mem_ite | dsimp only | (apply mem_mk; dsimp only; apply mem_un) | split

theorem execAotCntClr_memIs {qq : List Host.Cell} (val : Word) (s : State) (h_s : MemIs qq s) :
    Out.MemIs qq (execAotCntClr val s) := by
  unfold execAotCntClr
  dsimp -failIfUnchanged only
  repeat' with_reducible first | assumption | (intro _) | apply State.gated_memIs | apply State.setReg_memIs | apply mem_next | apply mem_ite3 | apply mem_ite | (refine mem_foldl ?_ (fun _ _ _ => ?_)) | (refine mem_foldl1 ?_ (fun _ _ _ => ?_)) | (refine mem_foldl2 ?_ (fun _ _ _ => ?_)) | dsimp only | split

theorem execAotSessClose_memIs {qq : List Host.Cell} (val : Word) (s : State) (h_s : MemIs qq s) :
    Out.MemIs qq (execAotSessClose val s) := by
  unfold execAotSessClose
  dsimp -failIfUnchanged only
  repeat' with_reducible first | assumption | (intro _) | apply State.sessCtl_memIs | apply State.gated_memIs | apply mem_next | apply mem_ite3 | dsimp only

theorem execAotSessOpen_memIs {qq : List Host.Cell} (val : Word) (s : State) (h_s : MemIs qq s) :
    Out.MemIs qq (execAotSessOpen val s) := by
  unfold execAotSessOpen
  dsimp -failIfUnchanged only
  repeat' with_reducible first | assumption | (intro _) | apply State.sessCtl_memIs | apply State.gated_memIs | apply mem_next | apply mem_ite3 | dsimp only

theorem execAotShutdownTimeout_memIs {qq : List Host.Cell} (s : State) (h_s : MemIs qq s) :
    Out.MemIs qq (execAotShutdownTimeout s) := by
  unfold execAotShutdownTimeout
  dsimp -failIfUnchanged only
  repeat' with_reducible first | assumption | (intro _) | apply State.sessFree_memIs | apply State.aotIdle_memIs | apply mem_next | apply mem_ite3 | apply mem_ite | apply mem_ite1 | (refine mem_foldl ?_ (fun _ _ _ => ?_)) | (refine mem_foldl1 ?_ (fun _ _ _ => ?_)) | (refine mem_foldl2 ?_ (fun _ _ _ => ?_)) | dsimp only | split

theorem execArpRequest_memIs {qq : List Host.Cell} (port : Nat) (ip : Nat) (s : State) (h_s : MemIs qq s) :
    Out.MemIs qq (execArpRequest port ip s) := by
  unfold execArpRequest
  dsimp -failIfUnchanged only
  repeat' with_reducible first | assumption | apply State.portTx_memIs | apply mem_next | apply mem_ite3 | apply mem_ite | dsimp only | (apply mem_mk; dsimp only; apply mem_un) | split

theorem execClose_memIs {qq : List Host.Cell} (rx : Peer) (h : AotHdr) (body : List Byte) (gtag : List Byte) (s : State) (h_s : MemIs qq s) :
    Out.MemIs qq (execClose rx h body gtag s) := by
  unfold execClose
  dsimp -failIfUnchanged only
  repeat' with_reducible first | assumption | (intro _) | apply State.record_memIs | apply State.stopCmds_memIs | apply State.aotRx_memIs | apply State.updSess_memIs | apply State.sendAck_memIs | apply mem_next | apply mem_ite3 | apply mem_ite | dsimp only | (refine mem_pair (by assumption) ?_) | (refine mem_opt (by assumption) ?_) | (refine mem_opt1 (by assumption) ?_) | (apply mem_mk; dsimp only; apply mem_un) | split

theorem execClosingTimeout_memIs {qq : List Host.Cell} (i : Nat) (s : State) (h_s : MemIs qq s) :
    Out.MemIs qq (execClosingTimeout i s) := by
  unfold execClosingTimeout
  dsimp -failIfUnchanged only
  repeat' with_reducible first | assumption | apply State.sessFree_memIs | apply State.aotIdle_memIs | apply mem_next | apply mem_ite3 | apply mem_ite | dsimp only | split

theorem execCmd_memIs {qq : List Host.Cell} (rx : Peer) (h : AotHdr) (body : List Byte) (gtag : List Byte) (s : State) (h_s : MemIs qq s) :
    Out.MemIs qq (execCmd rx h body gtag s) := by
  unfold execCmd
  dsimp -failIfUnchanged only
  repeat' with_reducible first | assumption | (intro _) | apply State.sendStray_memIs | apply State.record_memIs | apply State.deliverCmd_memIs | apply State.aotRx_memIs | apply State.updTag_memIs | apply State.aotCount_memIs | apply mem_next | apply mem_ite3 | apply mem_ite | dsimp only | (refine mem_pair (by assumption) ?_) | (refine mem_opt (by assumption) ?_) | (refine mem_opt1 (by assumption) ?_) | (apply mem_mk; dsimp only; apply mem_un) | split

theorem execCookieKeyRotation_memIs {qq : List Host.Cell} (s : State) (h_s : MemIs qq s) :
    Out.MemIs qq (execCookieKeyRotation s) := by
  unfold execCookieKeyRotation
  dsimp -failIfUnchanged only
  repeat' with_reducible first | assumption | apply State.newCookie_memIs | apply mem_next | apply mem_ite3 | dsimp only

theorem execData_memIs {qq : List Host.Cell} (rx : Peer) (h : AotHdr) (body : List Byte) (gtag : List Byte) (s : State) (h_s : MemIs qq s) :
    Out.MemIs qq (execData rx h body gtag s) := by
  unfold execData
  dsimp -failIfUnchanged only
  repeat' with_reducible first | assumption | (intro _) | apply State.record_memIs | apply State.updCmd_memIs | apply State.aotRx_memIs | apply State.aotCount_memIs | apply mem_next | apply mem_ite3 | apply mem_ite | dsimp only | (refine mem_pair (by assumption) ?_) | (refine mem_opt (by assumption) ?_) | (refine mem_opt1 (by assumption) ?_) | (apply mem_mk; dsimp only; apply mem_un) | split

theorem execEchoRequest_memIs {qq : List Host.Cell} (port : Nat) (v6 : Bool) (ip : Nat) (s : State) (h_s : MemIs qq s) :
    Out.MemIs qq (execEchoRequest port v6 ip s) := by
  unfold execEchoRequest
  dsimp -failIfUnchanged only
  repeat' with_reducible first | assumption | (intro _) | apply State.ethCount_memIs | apply State.portTx_memIs | apply mem_next | apply mem_ite3 | apply mem_ite | dsimp only | (apply mem_mk; dsimp only; apply mem_un) | split

theorem execEthCntClr_memIs {qq : List Host.Cell} (port : Nat) (val : Word) (s : State) (h_s : MemIs qq s) :
    Out.MemIs qq (execEthCntClr port val s) := by
  unfold execEthCntClr
  dsimp -failIfUnchanged only
  repeat' with_reducible first | assumption | (intro _) | apply State.gated_memIs | apply State.setReg_memIs | apply mem_next | apply mem_ite3 | apply mem_ite | (refine mem_foldl ?_ (fun _ _ _ => ?_)) | (refine mem_foldl1 ?_ (fun _ _ _ => ?_)) | (refine mem_foldl2 ?_ (fun _ _ _ => ?_)) | dsimp only | split

theorem execFwtxSend_memIs {qq : List Host.Cell} (s : State) (h_s : MemIs qq s) :
    Out.MemIs qq (execFwtxSend s) := by
  unfold execFwtxSend
  dsimp -failIfUnchanged only
  repeat' with_reducible first | assumption | (intro _) | apply State.portTx_memIs | apply State.wr_memIs | apply mem_next | apply mem_ite3 | apply mem_ite | dsimp only | (apply mem_mk; dsimp only; apply mem_un) | split

theorem execHsTimeout_memIs {qq : List Host.Cell} (i : Nat) (s : State) (h_s : MemIs qq s) :
    Out.MemIs qq (execHsTimeout i s) := by
  unfold execHsTimeout
  dsimp -failIfUnchanged only
  repeat' with_reducible first | assumption | apply State.sessFree_memIs | apply State.aotIdle_memIs | apply mem_next | apply mem_ite3 | apply mem_ite | dsimp only | split

theorem execIdleTimeout_memIs {qq : List Host.Cell} (i : Nat) (s : State) (h_s : MemIs qq s) :
    Out.MemIs qq (execIdleTimeout i s) := by
  unfold execIdleTimeout
  dsimp -failIfUnchanged only
  repeat' with_reducible first | assumption | apply State.sessClose_memIs | apply mem_next | apply mem_ite3 | apply mem_ite | dsimp only | split

theorem execLinkDown_memIs {qq : List Host.Cell} (port : Nat) (hiBer : Bool) (s : State) (h_s : MemIs qq s) :
    Out.MemIs qq (execLinkDown port hiBer s) := by
  unfold execLinkDown
  dsimp -failIfUnchanged only
  repeat' with_reducible first | assumption | (intro _) | apply State.linkOff_memIs | apply State.irq_memIs | apply State.wr_memIs | apply mem_next | apply mem_ite3 | apply mem_ite | dsimp only | split

theorem execLinkUp_memIs {qq : List Host.Cell} (port : Nat) (fec : Nat) (s : State) (h_s : MemIs qq s) :
    Out.MemIs qq (execLinkUp port fec s) := by
  unfold execLinkUp
  dsimp -failIfUnchanged only
  repeat' with_reducible first | assumption | (intro _) | apply State.irq_memIs | apply State.wb_memIs | apply State.wr_memIs | apply mem_next | apply mem_ite3 | apply mem_ite | dsimp only | split

theorem execNeighbourSolicitation_memIs {qq : List Host.Cell} (port : Nat) (ip : Nat) (s : State) (h_s : MemIs qq s) :
    Out.MemIs qq (execNeighbourSolicitation port ip s) := by
  unfold execNeighbourSolicitation
  dsimp -failIfUnchanged only
  repeat' with_reducible first | assumption | apply State.portTx_memIs | apply mem_next | apply mem_ite3 | apply mem_ite | dsimp only | (apply mem_mk; dsimp only; apply mem_un) | split

theorem execRekey_memIs {qq : List Host.Cell} (rx : Peer) (h : AotHdr) (body : List Byte) (gtag : List Byte) (s : State) (h_s : MemIs qq s) :
    Out.MemIs qq (execRekey rx h body gtag s) := by
  unfold execRekey
  dsimp -failIfUnchanged only
  repeat' with_reducible first | assumption | (intro _) | apply State.record_memIs | apply State.setGcm_memIs | apply State.aotRx_memIs | apply State.setSess_memIs | apply State.aotCount_memIs | apply mem_next | apply mem_ite3 | apply mem_ite | dsimp only | (refine mem_pair (by assumption) ?_) | (refine mem_opt (by assumption) ?_) | (refine mem_opt1 (by assumption) ?_) | (apply mem_mk; dsimp only; apply mem_un) | split

theorem execReset_memIs {qq : List Host.Cell} (rx : Peer) (h : AotHdr) (body : List Byte) (gtag : List Byte) (s : State) (h_s : MemIs qq s) :
    Out.MemIs qq (execReset rx h body gtag s) := by
  unfold execReset
  dsimp -failIfUnchanged only
  repeat' with_reducible first | assumption | (intro _) | apply State.record_memIs | apply State.endCmds_memIs | apply State.aotRx_memIs | apply State.updSess_memIs | apply mem_next | apply mem_ite3 | dsimp only | (refine mem_pair (by assumption) ?_) | (refine mem_opt (by assumption) ?_) | (refine mem_opt1 (by assumption) ?_) | (apply mem_mk; dsimp only; apply mem_un) | split

theorem execRetransmitTimer_memIs {qq : List Host.Cell} (i : Nat) (s : State) (h_s : MemIs qq s) :
    Out.MemIs qq (execRetransmitTimer i s) := by
  unfold execRetransmitTimer
  dsimp -failIfUnchanged only
  repeat' with_reducible first | assumption | (intro _) | apply State.sessClose_memIs | apply State.resend_memIs | apply State.setSess_memIs | apply State.updAot_memIs | apply mem_next | apply mem_ite3 | apply mem_ite | dsimp only | (refine mem_pair (by assumption) ?_) | (refine mem_opt (by assumption) ?_) | (refine mem_opt1 (by assumption) ?_) | (apply mem_mk; dsimp only; apply mem_un) | split

theorem State.evrIrq_memIs {qq : List Host.Cell} (s : State) (bit : Nat) (h_s : MemIs qq s) :
    MemIs qq (State.evrIrq s bit) := by
  unfold State.evrIrq
  dsimp -failIfUnchanged only
  repeat' with_reducible first | assumption | apply State.irq_memIs | dsimp only

theorem State.updEvr_memIs {qq : List Host.Cell} (s : State) (f : EvrState → EvrState) (h_s : MemIs qq s) :
    MemIs qq (State.updEvr s f) := by
  unfold State.updEvr
  dsimp -failIfUnchanged only
  repeat' with_reducible first | assumption | (intro _) | dsimp only | (apply mem_mk; dsimp only; apply mem_un)

theorem State.setRate_memIs {qq : List Host.Cell} (s : State) (n : Nat) (x : RateEntry) (h_s : MemIs qq s) :
    MemIs qq (State.setRate s n x) := by
  unfold State.setRate
  dsimp -failIfUnchanged only
  repeat' with_reducible first | assumption | (intro _) | apply State.updEvr_memIs | dsimp only | (apply mem_mk; dsimp only; apply mem_un)

theorem State.postRefused_memIs {qq : List Host.Cell} (s : State) (h_s : MemIs qq s) :
    MemIs qq (State.postRefused s) := by
  unfold State.postRefused
  dsimp -failIfUnchanged only
  repeat' with_reducible first | assumption | apply State.evrIrq_memIs | apply State.bump_memIs | dsimp only

theorem State.evrPostWrite_memIs {qq : List Host.Cell} (s : State) (val : Word) (h_s : MemIs qq s) :
    MemIs qq (State.evrPostWrite s val) := by
  unfold State.evrPostWrite
  dsimp -failIfUnchanged only
  repeat' with_reducible first | assumption | (intro _) | apply State.postRefused_memIs | apply State.updEvr_memIs | apply State.wr_memIs | apply mem_ite | dsimp only | (apply mem_mk; dsimp only; apply mem_un) | split

theorem State.rlCfg_memIs {qq : List Host.Cell} (s : State) (val : Word) (h_s : MemIs qq s) :
    MemIs qq (State.rlCfg s val) := by
  unfold State.rlCfg
  dsimp -failIfUnchanged only
  repeat' with_reducible first | assumption | (intro _) | apply State.setRate_memIs | apply mem_ite | dsimp only | (apply mem_mk; dsimp only; apply mem_un) | split

theorem execEvrPost_memIs {qq : List Host.Cell} (val : Word) (s : State) (h_s : MemIs qq s) :
    Out.MemIs qq (execEvrPost val s) := by
  unfold execEvrPost
  dsimp -failIfUnchanged only
  repeat' with_reducible first | assumption | (intro _) | apply State.evrPostWrite_memIs | apply State.gated_memIs | apply mem_next | apply mem_ite3 | dsimp only

theorem execHwEventPost_memIs {qq : List Host.Cell} (code : Nat) (sev : Nat) (source : Nat) (payload : List Byte) (s : State) (h_s : MemIs qq s) :
    Out.MemIs qq (execHwEventPost code sev source payload s) := by
  unfold execHwEventPost
  dsimp -failIfUnchanged only
  repeat' with_reducible first | assumption | apply State.hwPost_memIs | apply mem_next | apply mem_ite3 | apply mem_ite | dsimp only | split

theorem execRateEntryWrite_memIs {qq : List Host.Cell} (val : Word) (s : State) (h_s : MemIs qq s) :
    Out.MemIs qq (execRateEntryWrite val s) := by
  unfold execRateEntryWrite
  dsimp -failIfUnchanged only
  repeat' with_reducible first | assumption | (intro _) | apply State.rlCfg_memIs | apply State.gated_memIs | apply mem_next | apply mem_ite3 | dsimp only

theorem execRateTokensFull_memIs {qq : List Host.Cell} (n : Nat) (s : State) (h_s : MemIs qq s) :
    Out.MemIs qq (execRateTokensFull n s) := by
  unfold execRateTokensFull
  dsimp -failIfUnchanged only
  repeat' with_reducible first | assumption | (intro _) | apply State.setRate_memIs | apply State.evrIrq_memIs | apply State.hwPost_memIs | apply mem_next | apply mem_ite3 | apply mem_ite | dsimp only | (apply mem_mk; dsimp only; apply mem_un) | split

theorem State.memIrq_memIs {qq : List Host.Cell} (s : State) (bit : Nat) (h_s : MemIs qq s) :
    MemIs qq (State.memIrq s bit) := by
  unfold State.memIrq
  dsimp -failIfUnchanged only
  repeat' with_reducible first | assumption | apply State.irq_memIs | dsimp only

end Sys2Proof.Machine
end

