-- ==== Sys2Proof/Laws/MemFrame2.lean ====
section
/-! SUPPORT. Memory reads as before: the operations and commands for which this holds, part 2. -/

set_option linter.unusedTactic false
set_option linter.unreachableTactic false
set_option maxRecDepth 8000

namespace Sys2Proof.Machine

theorem State.updDdr_memIs {qq : List Host.Cell} (s : State) (f : DdrState → DdrState) (h_s : MemIs qq s) :
    MemIs qq (State.updDdr s f) := by
  unfold State.updDdr
  dsimp -failIfUnchanged only
  repeat' with_reducible first | assumption | (intro _) | dsimp only | (apply mem_mk; dsimp only; apply mem_un)

theorem State.memCmd_memIs {qq : List Host.Cell} (s : State) (val : Word) (h_s : MemIs qq s) :
    MemIs qq (State.memCmd s val) := by
  unfold State.memCmd
  dsimp -failIfUnchanged only
  repeat' with_reducible first | assumption | (intro _) | apply State.updDdr_memIs | apply State.memIrq_memIs | apply State.wr_memIs | apply State.setReg_memIs | apply mem_ite | dsimp only | (apply mem_mk; dsimp only; apply mem_un) | split

theorem State.memPop_memIs {qq : List Host.Cell} (s : State) (val : Word) (h_s : MemIs qq s) :
    MemIs qq (State.memPop s val) := by
  unfold State.memPop
  dsimp -failIfUnchanged only
  repeat' with_reducible first | assumption | (intro _) | apply State.updDdr_memIs | apply State.wr_memIs | apply mem_ite | dsimp only | (apply mem_mk; dsimp only; apply mem_un) | split

theorem State.memStopEnd_memIs {qq : List Host.Cell} (s : State) (h_s : MemIs qq s) :
    MemIs qq (State.memStopEnd s) := by
  unfold State.memStopEnd
  dsimp -failIfUnchanged only
  repeat' with_reducible first | assumption | apply State.wr_memIs | dsimp only

theorem execEccFlipArm_memIs {qq : List Host.Cell} (val : Word) (s : State) (h_s : MemIs qq s) :
    Out.MemIs qq (execEccFlipArm val s) := by
  unfold execEccFlipArm
  dsimp -failIfUnchanged only
  repeat' with_reducible first | assumption | (intro _) | apply State.storeRow_memIs | apply State.gated_memIs | apply mem_next | apply mem_ite3 | dsimp only

theorem execMemCntClr_memIs {qq : List Host.Cell} (val : Word) (s : State) (h_s : MemIs qq s) :
    Out.MemIs qq (execMemCntClr val s) := by
  unfold execMemCntClr
  dsimp -failIfUnchanged only
  repeat' with_reducible first | assumption | (intro _) | apply State.memCmd_memIs | apply State.gated_memIs | apply mem_next | apply mem_ite3 | dsimp only

theorem execMemInit_memIs {qq : List Host.Cell} (val : Word) (s : State) (h_s : MemIs qq s) :
    Out.MemIs qq (execMemInit val s) := by
  unfold execMemInit
  dsimp -failIfUnchanged only
  repeat' with_reducible first | assumption | (intro _) | apply State.memCmd_memIs | apply State.gated_memIs | apply mem_next | apply mem_ite3 | dsimp only

theorem execMemLogPop_memIs {qq : List Host.Cell} (val : Word) (s : State) (h_s : MemIs qq s) :
    Out.MemIs qq (execMemLogPop val s) := by
  unfold execMemLogPop
  dsimp -failIfUnchanged only
  repeat' with_reducible first | assumption | (intro _) | apply State.memPop_memIs | apply State.gated_memIs | apply mem_next | apply mem_ite3 | dsimp only

theorem State.cupIrq_memIs {qq : List Host.Cell} (s : State) (bit : Nat) (h_s : MemIs qq s) :
    MemIs qq (State.cupIrq s bit) := by
  unfold State.cupIrq
  dsimp -failIfUnchanged only
  repeat' with_reducible first | assumption | apply State.irq_memIs | dsimp only

theorem State.updCup_memIs {qq : List Host.Cell} (s : State) (f : CupState → CupState) (h_s : MemIs qq s) :
    MemIs qq (State.updCup s f) := by
  unfold State.updCup
  dsimp -failIfUnchanged only
  repeat' with_reducible first | assumption | (intro _) | dsimp only | (apply mem_mk; dsimp only; apply mem_un)

theorem State.dropFills_memIs {qq : List Host.Cell} (s : State) (f : Nat → Bool) (held : Bool) (h_s : MemIs qq s) :
    MemIs qq (State.dropFills s f held) := by
  unfold State.dropFills
  dsimp -failIfUnchanged only
  repeat' with_reducible first | assumption | (intro _) | apply State.updCup_memIs | apply mem_ite | dsimp only | (apply mem_mk; dsimp only; apply mem_un) | split

theorem State.maintRun_memIs {qq : List Host.Cell} (s : State) (op : Nat) (h_s : MemIs qq s) :
    MemIs qq (State.maintRun s op) := by
  unfold State.maintRun
  dsimp -failIfUnchanged only
  repeat' with_reducible first | assumption | (intro _) | apply State.dropFills_memIs | apply State.updCup_memIs | apply State.wr_memIs | dsimp only | (apply mem_mk; dsimp only; apply mem_un)

theorem State.cupMaint_memIs {qq : List Host.Cell} (s : State) (val : Word) (h_s : MemIs qq s) :
    MemIs qq (State.cupMaint s val) := by
  unfold State.cupMaint
  dsimp -failIfUnchanged only
  repeat' with_reducible first | assumption | (intro _) | apply State.maintRun_memIs | apply State.cupIrq_memIs | apply State.wr_memIs | apply mem_ite | dsimp only | split

theorem State.cupSpad_memIs {qq : List Host.Cell} (s : State) (val : Word) (h_s : MemIs qq s) :
    MemIs qq (State.cupSpad s val) := by
  unfold State.cupSpad
  dsimp -failIfUnchanged only
  repeat' with_reducible first | assumption | (intro _) | apply State.updCup_memIs | apply State.cupIrq_memIs | apply State.wr_memIs | apply mem_ite | dsimp only | (apply mem_mk; dsimp only; apply mem_un) | split

theorem cupMaintOp_memIs {qq : List Host.Cell} (op : Nat) (val : Word) (s : State) (h_s : MemIs qq s) :
    MemIs qq (cupMaintOp op val s) := by
  unfold cupMaintOp
  dsimp -failIfUnchanged only
  repeat' with_reducible first | assumption | (intro _) | apply State.cupMaint_memIs | apply State.gated_memIs | dsimp only

theorem execCupCntClr_memIs {qq : List Host.Cell} (val : Word) (s : State) (h_s : MemIs qq s) :
    Out.MemIs qq (execCupCntClr val s) := by
  unfold execCupCntClr
  dsimp -failIfUnchanged only
  repeat' with_reducible first | assumption | (intro _) | apply State.gated_memIs | apply State.setReg_memIs | apply mem_next | apply mem_ite3 | apply mem_ite | (refine mem_foldl ?_ (fun _ _ _ => ?_)) | (refine mem_foldl1 ?_ (fun _ _ _ => ?_)) | (refine mem_foldl2 ?_ (fun _ _ _ => ?_)) | dsimp only | split

theorem execCupSpadWrite_memIs {qq : List Host.Cell} (val : Word) (s : State) (h_s : MemIs qq s) :
    Out.MemIs qq (execCupSpadWrite val s) := by
  unfold execCupSpadWrite
  dsimp -failIfUnchanged only
  repeat' with_reducible first | assumption | (intro _) | apply State.cupSpad_memIs | apply State.gated_memIs | apply mem_next | apply mem_ite3 | dsimp only

theorem execInvAll_memIs {qq : List Host.Cell} (val : Word) (s : State) (h_s : MemIs qq s) :
    Out.MemIs qq (execInvAll val s) := by
  unfold execInvAll
  dsimp -failIfUnchanged only
  repeat' with_reducible first | assumption | apply cupMaintOp_memIs | apply mem_next | apply mem_ite3 | dsimp only

theorem execInvLine_memIs {qq : List Host.Cell} (val : Word) (s : State) (h_s : MemIs qq s) :
    Out.MemIs qq (execInvLine val s) := by
  unfold execInvLine
  dsimp -failIfUnchanged only
  repeat' with_reducible first | assumption | apply cupMaintOp_memIs | apply mem_next | apply mem_ite3 | dsimp only

theorem execInvRange_memIs {qq : List Host.Cell} (val : Word) (s : State) (h_s : MemIs qq s) :
    Out.MemIs qq (execInvRange val s) := by
  unfold execInvRange
  dsimp -failIfUnchanged only
  repeat' with_reducible first | assumption | apply cupMaintOp_memIs | apply mem_next | apply mem_ite3 | dsimp only

theorem execInvWays_memIs {qq : List Host.Cell} (val : Word) (s : State) (h_s : MemIs qq s) :
    Out.MemIs qq (execInvWays val s) := by
  unfold execInvWays
  dsimp -failIfUnchanged only
  repeat' with_reducible first | assumption | apply cupMaintOp_memIs | apply mem_next | apply mem_ite3 | dsimp only

theorem execMaintDone_memIs {qq : List Host.Cell} (s : State) (h_s : MemIs qq s) :
    Out.MemIs qq (execMaintDone s) := by
  unfold execMaintDone
  dsimp -failIfUnchanged only
  repeat' with_reducible first | assumption | (intro _) | apply State.cupIrq_memIs | apply State.wr_memIs | apply mem_next | apply mem_ite3 | apply mem_ite | dsimp only | split

theorem execSpadWalkDone_memIs {qq : List Host.Cell} (s : State) (h_s : MemIs qq s) :
    Out.MemIs qq (execSpadWalkDone s) := by
  unfold execSpadWalkDone
  dsimp -failIfUnchanged only
  repeat' with_reducible first | assumption | (intro _) | apply State.updCup_memIs | apply State.cupIrq_memIs | apply State.wr_memIs | apply mem_next | apply mem_ite3 | apply mem_ite | dsimp only | (apply mem_mk; dsimp only; apply mem_un) | split

theorem State.updDma_memIs {qq : List Host.Cell} (s : State) (f : DmaState → DmaState) (h_s : MemIs qq s) :
    MemIs qq (State.updDma s f) := by
  unfold State.updDma
  dsimp -failIfUnchanged only
  repeat' with_reducible first | assumption | (intro _) | dsimp only | (apply mem_mk; dsimp only; apply mem_un)

theorem State.dmaShow_memIs {qq : List Host.Cell} (s : State) (c : Nat) (h_s : MemIs qq s) :
    MemIs qq (State.dmaShow s c) := by
  unfold State.dmaShow
  dsimp -failIfUnchanged only
  repeat' with_reducible first | assumption | (intro _) | apply State.wr_memIs | apply mem_ite | dsimp only | split

theorem State.updCh_memIs {qq : List Host.Cell} (s : State) (c : Nat) (f : DmaCh → DmaCh) (h_s : MemIs qq s) :
    MemIs qq (State.updCh s c f) := by
  unfold State.updCh
  dsimp -failIfUnchanged only
  repeat' with_reducible first | assumption | (intro _) | apply State.dmaShow_memIs | apply State.updDma_memIs | dsimp only | (apply mem_mk; dsimp only; apply mem_un)

theorem State.burstIssue_memIs {qq : List Host.Cell} (s : State) (c : Nat) (h_s : MemIs qq s) :
    MemIs qq (State.burstIssue s c) := by
  unfold State.burstIssue
  dsimp -failIfUnchanged only
  repeat' with_reducible first | assumption | (intro _) | apply State.updCh_memIs | apply State.updDma_memIs | apply mem_ite | dsimp only | (apply mem_mk; dsimp only; apply mem_un) | split

theorem State.setCst_memIs {qq : List Host.Cell} (s : State) (c : Nat) (v : Nat) (h_s : MemIs qq s) :
    MemIs qq (State.setCst s c v) := by
  unfold State.setCst
  dsimp -failIfUnchanged only
  repeat' with_reducible first | assumption | apply State.wb_memIs | apply State.wr_memIs | dsimp only

theorem State.parkCheck_memIs {qq : List Host.Cell} (s : State) (c : Nat) (h_s : MemIs qq s) :
    MemIs qq (State.parkCheck s c) := by
  unfold State.parkCheck
  dsimp -failIfUnchanged only
  repeat' with_reducible first | assumption | (intro _) | apply State.setCst_memIs | apply State.updCh_memIs | apply mem_ite | dsimp only | (apply mem_mk; dsimp only; apply mem_un) | split

theorem State.dmaDoorbell_memIs {qq : List Host.Cell} (s : State) (c : Nat) (val : Word) (h_s : MemIs qq s) :
    MemIs qq (State.dmaDoorbell s c val) := by
  unfold State.dmaDoorbell
  dsimp -failIfUnchanged only
  repeat' with_reducible first | assumption | (intro _) | apply State.updCh_memIs | apply State.wr_memIs | apply mem_ite | dsimp only | (apply mem_mk; dsimp only; apply mem_un) | split

theorem State.setWord7_memIs {qq : List Host.Cell} (s : State) (c : Nat) (w : Word) (h_s : MemIs qq s) :
    MemIs qq (State.setWord7 s c w) := by
  unfold State.setWord7
  dsimp -failIfUnchanged only
  repeat' with_reducible first | assumption | (intro _) | apply State.updCh_memIs | dsimp only | (apply mem_mk; dsimp only; apply mem_un)

theorem State.dmaEnd_memIs {qq : List Host.Cell} (s : State) (c : Nat) (h_s : MemIs qq s) :
    MemIs qq (State.dmaEnd s c) := by
  unfold State.dmaEnd
  dsimp -failIfUnchanged only
  repeat' with_reducible first | assumption | (intro _) | apply State.setWord7_memIs | apply mem_ite | dsimp only | split

theorem State.dmaPark_memIs {qq : List Host.Cell} (s : State) (c : Nat) (kind : Nat) (domains : Nat) (h_s : MemIs qq s) :
    MemIs qq (State.dmaPark s c kind domains) := by
  unfold State.dmaPark
  dsimp -failIfUnchanged only
  repeat' with_reducible first | assumption | (intro _) | apply State.parkCheck_memIs | apply State.updCh_memIs | apply mem_ite | dsimp only | (apply mem_mk; dsimp only; apply mem_un) | split

theorem State.dmaPulse_memIs {qq : List Host.Cell} (s : State) (line : Nat) (h_s : MemIs qq s) :
    MemIs qq (State.dmaPulse s line) := by
  unfold State.dmaPulse
  dsimp -failIfUnchanged only
  repeat' with_reducible first | assumption | (intro _) | apply State.setCst_memIs | apply State.burstIssue_memIs | apply State.wr_memIs | apply mem_ite | dsimp only | (refine mem_pair (by assumption) ?_) | (refine mem_opt (by assumption) ?_) | (refine mem_opt1 (by assumption) ?_) | split

theorem State.dmaQuiesce_memIs {qq : List Host.Cell} (s : State) (domains : Nat) (h_s : MemIs qq s) :
    MemIs qq (State.dmaQuiesce s domains) := by
  unfold State.dmaQuiesce
  dsimp -failIfUnchanged only
  repeat' with_reducible first | assumption | (intro _) | apply State.dmaPark_memIs | apply State.updDma_memIs | apply State.wr_memIs | (refine mem_foldl ?_ (fun _ _ _ => ?_)) | (refine mem_foldl1 ?_ (fun _ _ _ => ?_)) | (refine mem_foldl2 ?_ (fun _ _ _ => ?_)) | dsimp only | (apply mem_mk; dsimp only; apply mem_un)

theorem State.dmaSettle_memIs {qq : List Host.Cell} (s : State) (h_s : MemIs qq s) :
    MemIs qq (State.dmaSettle s) := by
  unfold State.dmaSettle
  dsimp -failIfUnchanged only
  repeat' with_reducible first | assumption | apply State.shutDone_memIs | apply mem_ite | dsimp only | split

theorem execDmaBurstIssue_memIs {qq : List Host.Cell} (s : State) (h_s : MemIs qq s) :
    Out.MemIs qq (execDmaBurstIssue s) := by
  unfold execDmaBurstIssue
  dsimp -failIfUnchanged only
  repeat' with_reducible first | assumption | (intro _) | apply State.parkCheck_memIs | apply State.setCst_memIs | apply State.burstIssue_memIs | apply State.updDma_memIs | apply State.wr_memIs | apply mem_next | apply mem_ite3 | apply mem_ite | (refine mem_foldl ?_ (fun _ _ _ => ?_)) | (refine mem_foldl1 ?_ (fun _ _ _ => ?_)) | (refine mem_foldl2 ?_ (fun _ _ _ => ?_)) | dsimp only | (refine mem_pair (by assumption) ?_) | (refine mem_opt (by assumption) ?_) | (refine mem_opt1 (by assumption) ?_) | (apply mem_mk; dsimp only; apply mem_un) | split

theorem execDmaChDb_memIs {qq : List Host.Cell} (c : Nat) (val : Word) (s : State) (h_s : MemIs qq s) :
    Out.MemIs qq (execDmaChDb c val s) := by
  unfold execDmaChDb
  dsimp -failIfUnchanged only
  repeat' with_reducible first | assumption | (intro _) | apply State.dmaDoorbell_memIs | apply State.gated_memIs | apply mem_next | apply mem_ite3 | apply mem_ite | dsimp only | split

theorem execDmaRequestPulse_memIs {qq : List Host.Cell} (line : Nat) (s : State) (h_s : MemIs qq s) :
    Out.MemIs qq (execDmaRequestPulse line s) := by
  unfold execDmaRequestPulse
  dsimp -failIfUnchanged only
  repeat' with_reducible first | assumption | apply State.dmaPulse_memIs | apply mem_next | apply mem_ite3 | apply mem_ite | dsimp only | split

theorem State.flsIrq_memIs {qq : List Host.Cell} (s : State) (bit : Nat) (h_s : MemIs qq s) :
    MemIs qq (State.flsIrq s bit) := by
  unfold State.flsIrq
  dsimp -failIfUnchanged only
  repeat' with_reducible first | assumption | apply State.irq_memIs | dsimp only

theorem State.cmdEnd_memIs {qq : List Host.Cell} (s : State) (r : Nat) (h_s : MemIs qq s) :
    MemIs qq (State.cmdEnd s r) := by
  unfold State.cmdEnd
  dsimp -failIfUnchanged only
  repeat' with_reducible first | assumption | (intro _) | apply State.flsIrq_memIs | apply State.wr_memIs | apply mem_ite | dsimp only | split

theorem State.updFls_memIs {qq : List Host.Cell} (s : State) (f : FlsState → FlsState) (h_s : MemIs qq s) :
    MemIs qq (State.updFls s f) := by
  unfold State.updFls
  dsimp -failIfUnchanged only
  repeat' with_reducible first | assumption | (intro _) | dsimp only | (apply mem_mk; dsimp only; apply mem_un)

theorem State.bootWp_memIs {qq : List Host.Cell} (s : State) (port : Nat) (val : Word) (h_s : MemIs qq s) :
    MemIs qq (State.bootWp s port val) := by
  unfold State.bootWp
  dsimp -failIfUnchanged only
  repeat' with_reducible first | assumption | (intro _) | apply State.flsIrq_memIs | apply State.wr_memIs | apply mem_ite | dsimp only | split

theorem State.markErased_memIs {qq : List Host.Cell} (s : State) (w : Nat) (n : Nat) (h_s : MemIs qq s) :
    MemIs qq (State.markErased s w n) := by
  unfold State.markErased
  dsimp -failIfUnchanged only
  repeat' with_reducible first | assumption | (intro _) | apply State.updFls_memIs | dsimp only | (apply mem_mk; dsimp only; apply mem_un)

theorem State.flsReadOp_memIs {qq : List Host.Cell} (s : State) (a : Nat) (n : Nat) (ecc : Nat) (h_s : MemIs qq s) :
    MemIs qq (State.flsReadOp s a n ecc).1 := by
  unfold State.flsReadOp
  dsimp -failIfUnchanged only
  repeat' with_reducible first | assumption | (intro _) | apply State.flsIrq_memIs | apply State.hwPost_memIs | apply State.drawn_memIs | apply State.bump_memIs | apply mem_ite | apply mem_ite1 | dsimp only | (apply mem_mk; dsimp only; apply mem_un) | split

theorem setMap_memIs {qq : List Host.Cell} (s : State) (f : Nat → Fld) (k : Nat) (b : Bool) (h_s : MemIs qq s) :
    MemIs qq (setMap s f k b) := by
  unfold setMap
  dsimp -failIfUnchanged only
  repeat' with_reducible first | assumption | (intro _) | apply State.wb_memIs | dsimp only

theorem State.showPpb_memIs {qq : List Host.Cell} (s : State) (h_s : MemIs qq s) :
    MemIs qq (State.showPpb s) := by
  unfold State.showPpb
  dsimp -failIfUnchanged only
  repeat' with_reducible first | assumption | (intro _) | apply State.wr_memIs | (refine mem_foldl ?_ (fun _ _ _ => ?_)) | (refine mem_foldl1 ?_ (fun _ _ _ => ?_)) | (refine mem_foldl2 ?_ (fun _ _ _ => ?_)) | dsimp only

theorem State.mscrubClear_memIs {qq : List Host.Cell} (s : State) (h_s : MemIs qq s) :
    MemIs qq (State.mscrubClear s) := by
  unfold State.mscrubClear
  dsimp -failIfUnchanged only
  repeat' with_reducible first | assumption | apply State.wr_memIs | dsimp only

theorem State.opEnd_memIs {qq : List Host.Cell} (s : State) (r : Nat) (h_s : MemIs qq s) :
    MemIs qq (State.opEnd s r) := by
  unfold State.opEnd
  dsimp -failIfUnchanged only
  repeat' with_reducible first | assumption | (intro _) | apply State.updFls_memIs | apply State.cmdEnd_memIs | apply State.wr_memIs | dsimp only | (apply mem_mk; dsimp only; apply mem_un)

theorem State.suspendNow_memIs {qq : List Host.Cell} (s : State) (r : FlsOp) (h_s : MemIs qq s) :
    MemIs qq (State.suspendNow s r) := by
  unfold State.suspendNow
  dsimp -failIfUnchanged only
  repeat' with_reducible first | assumption | (intro _) | apply State.updFls_memIs | apply State.wr_memIs | dsimp only | (apply mem_mk; dsimp only; apply mem_un)

theorem execErasePulseDone_memIs {qq : List Host.Cell} (pass : Bool) (vppOk : Bool) (s : State) (h_s : MemIs qq s) :
    Out.MemIs qq (execErasePulseDone pass vppOk s) := by
  unfold execErasePulseDone
  dsimp -failIfUnchanged only
  repeat' with_reducible first | assumption | (intro _) | apply State.suspendNow_memIs | apply State.opEnd_memIs | apply State.updFls_memIs | apply mem_next | apply mem_ite3 | apply mem_ite | dsimp only | (refine mem_pair (by assumption) ?_) | (refine mem_opt (by assumption) ?_) | (refine mem_opt1 (by assumption) ?_) | (apply mem_mk; dsimp only; apply mem_un) | split

theorem execFlashRead_memIs {qq : List Host.Cell} (addr : Nat) (n : Nat) (ecc : Nat) (s : State) (h_s : MemIs qq s) :
    Out.MemIs qq (execFlashRead addr n ecc s) := by
  unfold execFlashRead
  dsimp -failIfUnchanged only
  repeat' with_reducible first | assumption | (intro _) | apply State.flsReadOp_memIs | apply mem_next | apply mem_ite3 | apply mem_ite | apply mem_ite1 | dsimp only | (apply mem_mk; dsimp only; apply mem_un) | split

theorem execFlsBootWpWrite_memIs {qq : List Host.Cell} (port : Nat) (val : Word) (s : State) (h_s : MemIs qq s) :
    Out.MemIs qq (execFlsBootWpWrite port val s) := by
  unfold execFlsBootWpWrite
  dsimp -failIfUnchanged only
  repeat' with_reducible first | assumption | (intro _) | apply State.bootWp_memIs | apply State.gated_memIs | apply mem_next | apply mem_ite3 | dsimp only

theorem execFlsCntClr_memIs {qq : List Host.Cell} (val : Word) (s : State) (h_s : MemIs qq s) :
    Out.MemIs qq (execFlsCntClr val s) := by
  unfold execFlsCntClr
  dsimp -failIfUnchanged only
  repeat' with_reducible first | assumption | (intro _) | apply State.gated_memIs | apply State.setReg_memIs | apply mem_next | apply mem_ite3 | apply mem_ite | dsimp only | split

theorem execMarginScrubRead_memIs {qq : List Host.Cell} (fails : Bool) (s : State) (h_s : MemIs qq s) :
    Out.MemIs qq (execMarginScrubRead fails s) := by
  unfold execMarginScrubRead
  dsimp -failIfUnchanged only
  repeat' with_reducible first | assumption | (intro _) | apply State.flsIrq_memIs | apply State.hwPost_memIs | apply State.bump_memIs | apply State.wr_memIs | apply mem_next | apply mem_ite3 | apply mem_ite | apply mem_ite1 | dsimp only | split

theorem execMetadataWriteDone_memIs {qq : List Host.Cell} (s : State) (h_s : MemIs qq s) :
    Out.MemIs qq (execMetadataWriteDone s) := by
  unfold execMetadataWriteDone
  dsimp -failIfUnchanged only
  repeat' with_reducible first | assumption | (intro _) | apply State.suspendNow_memIs | apply State.opEnd_memIs | apply State.showPpb_memIs | apply setMap_memIs | apply State.markErased_memIs | apply State.updFls_memIs | apply State.flsIrq_memIs | apply State.hwPost_memIs | apply State.wr_memIs | apply mem_next | apply mem_ite3 | apply mem_ite | apply mem_ite1 | dsimp only | (refine mem_pair (by assumption) ?_) | (refine mem_opt (by assumption) ?_) | (refine mem_opt1 (by assumption) ?_) | (apply mem_mk; dsimp only; apply mem_un) | split

theorem execMscrubFailClear_memIs {qq : List Host.Cell} (_val : Word) (s : State) (h_s : MemIs qq s) :
    Out.MemIs qq (execMscrubFailClear _val s) := by
  unfold execMscrubFailClear
  dsimp -failIfUnchanged only
  repeat' with_reducible first | assumption | (intro _) | apply State.mscrubClear_memIs | apply State.gated_memIs | apply mem_next | apply mem_ite3 | dsimp only

theorem execSuspendDone_memIs {qq : List Host.Cell} (s : State) (h_s : MemIs qq s) :
    Out.MemIs qq (execSuspendDone s) := by
  unfold execSuspendDone
  dsimp -failIfUnchanged only
  repeat' with_reducible first | assumption | apply State.suspendNow_memIs | apply mem_next | apply mem_ite3 | apply mem_ite | dsimp only | (refine mem_pair (by assumption) ?_) | (refine mem_opt (by assumption) ?_) | (refine mem_opt1 (by assumption) ?_) | split

theorem State.coverTower_memIs {qq : List Host.Cell} (s : State) (t : Tower) (h_s : MemIs qq s) :
    MemIs qq (State.coverTower s t) := by
  unfold State.coverTower
  dsimp -failIfUnchanged only
  repeat' with_reducible first | assumption | (intro _) | apply State.updLay_memIs | dsimp only | (apply mem_mk; dsimp only; apply mem_un)

theorem State.coverRows_memIs {qq : List Host.Cell} (s : State) (h_s : MemIs qq s) :
    MemIs qq (State.coverRows s) := by
  unfold State.coverRows
  dsimp -failIfUnchanged only
  repeat' with_reducible first | assumption | apply State.coverTower_memIs | dsimp only

theorem State.dropLost_memIs {qq : List Host.Cell} (s : State) (h_s : MemIs qq s) :
    MemIs qq (State.dropLost s) := by
  unfold State.dropLost
  dsimp -failIfUnchanged only
  repeat' with_reducible first | assumption | (intro _) | apply State.dropObj_memIs | (refine mem_foldl ?_ (fun _ _ _ => ?_)) | (refine mem_foldl1 ?_ (fun _ _ _ => ?_)) | (refine mem_foldl2 ?_ (fun _ _ _ => ?_)) | dsimp only

theorem State.interim_memIs {qq : List Host.Cell} (s : State) (c : Cmd) (o : Obj) (h_s : MemIs qq s) :
    MemIs qq (State.interim s c o) := by
  unfold State.interim
  dsimp -failIfUnchanged only
  repeat' with_reducible first | assumption | apply State.sendRel_memIs | dsimp only

theorem State.moveObj_memIs {qq : List Host.Cell} (s : State) (o : Obj) (h_s : MemIs qq s) :
    MemIs qq (State.moveObj s o) := by
  unfold State.moveObj
  dsimp -failIfUnchanged only
  repeat' with_reducible first | assumption | (intro _) | apply State.updObjOf_memIs | apply State.finish_memIs | apply State.dropObj_memIs | apply State.updObj_memIs | apply State.updLay_memIs | apply mem_ite | dsimp only | (refine mem_pair (by assumption) ?_) | (refine mem_opt (by assumption) ?_) | (refine mem_opt1 (by assumption) ?_) | (apply mem_mk; dsimp only; apply mem_un) | split

theorem State.putFails_memIs {qq : List Host.Cell} (s : State) (c : Cmd) (status : Nat) (h_s : MemIs qq s) :
    MemIs qq (State.putFails s c status) := by
  unfold State.putFails
  dsimp -failIfUnchanged only
  repeat' with_reducible first | assumption | apply State.fail_memIs | apply State.dropObj_memIs | dsimp only

theorem State.recBegin_memIs {qq : List Host.Cell} (s : State) (v : Nat) (tok : Option (Nat × Nat)) (h_s : MemIs qq s) :
    MemIs qq (State.recBegin s v tok) := by
  unfold State.recBegin
  dsimp -failIfUnchanged only
  repeat' with_reducible first | assumption | apply State.wr_memIs | apply mem_ite | dsimp only | (apply mem_mk; dsimp only; apply mem_un) | split

theorem State.run_memIs {qq : List Host.Cell} (s : State) (i : Nat) (tag : Nat) (op : Nat) (f : Cmd → State → State) (h_s : MemIs qq s) (h_f : ∀ (x0 : Cmd) (x1 : State), MemIs qq x1 → MemIs qq (f x0 x1)) :
    Out.MemIs qq (State.run s i tag op f) := by
  unfold State.run
  dsimp -failIfUnchanged only
  repeat' with_reducible first | assumption | (intro _) | apply State.fail_memIs | apply State.updCmd_memIs | apply State.updObj_memIs | apply h_f | apply mem_next | apply mem_ite3 | apply mem_ite | dsimp only | (refine mem_pair (by assumption) ?_) | (refine mem_opt (by assumption) ?_) | (refine mem_opt1 (by assumption) ?_) | (apply mem_mk; dsimp only; apply mem_un) | split

theorem State.sendChunks_memIs {q : List Host.Cell} (s : State) (i tag gen mpl n off : Nat) (l : List Byte) (h_s : MemIs q s) :
    MemIs q (State.sendChunks s i tag gen mpl n off l) := by
  induction n generalizing s off l with
  | zero => exact h_s
  | succ n ih =>
    unfold State.sendChunks
    split
    · exact h_s
    · exact ih _ _ _ (State.sendRel_memIs _ _ _ _ _ _ _ _ h_s)

theorem State.sendStream_memIs {qq : List Host.Cell} (s : State) (c : Cmd) (l : List Byte) (h_s : MemIs qq s) :
    MemIs qq (State.sendStream s c l) := by
  unfold State.sendStream
  dsimp -failIfUnchanged only
  repeat' with_reducible first | assumption | apply State.sendChunks_memIs | apply mem_ite | dsimp only | split

theorem State.sumCopy_memIs {qq : List Host.Cell} (s : State) (h_s : MemIs qq s) :
    MemIs qq (State.sumCopy s) := by
  unfold State.sumCopy
  dsimp -failIfUnchanged only
  repeat' with_reducible first | assumption | (intro _) | apply State.journalAdd_memIs | apply mem_ite | (refine mem_foldl ?_ (fun _ _ _ => ?_)) | (refine mem_foldl1 ?_ (fun _ _ _ => ?_)) | (refine mem_foldl2 ?_ (fun _ _ _ => ?_)) | dsimp only | split

theorem execAbort_memIs {qq : List Host.Cell} (i : Nat) (tag : Nat) (s : State) (h_s : MemIs qq s) :
    Out.MemIs qq (execAbort i tag s) := by
  unfold execAbort
  dsimp -failIfUnchanged only
  repeat' with_reducible first | assumption | (intro _) | apply State.run_memIs | apply State.endCmd_memIs | apply State.fail_memIs | apply State.finish_memIs | apply mem_next | apply mem_ite3 | apply mem_ite | dsimp only | (refine mem_pair (by assumption) ?_) | (refine mem_opt (by assumption) ?_) | (refine mem_opt1 (by assumption) ?_) | split

theorem execActivationDrainTimeout_memIs {qq : List Host.Cell} (s : State) (h_s : MemIs qq s) :
    Out.MemIs qq (execActivationDrainTimeout s) := by
  unfold execActivationDrainTimeout
  dsimp -failIfUnchanged only
  repeat' with_reducible first | assumption | (intro _) | apply State.endCmd_memIs | apply mem_next | apply mem_ite3 | (refine mem_foldl ?_ (fun _ _ _ => ?_)) | (refine mem_foldl1 ?_ (fun _ _ _ => ?_)) | (refine mem_foldl2 ?_ (fun _ _ _ => ?_)) | dsimp only | (refine mem_pair (by assumption) ?_) | (refine mem_opt (by assumption) ?_) | (refine mem_opt1 (by assumption) ?_) | split

theorem execAudit_memIs {qq : List Host.Cell} (i : Nat) (tag : Nat) (found : List AuditIn) (s : State) (h_s : MemIs qq s) :
    Out.MemIs qq (execAudit i tag found s) := by
  unfold execAudit
  dsimp -failIfUnchanged only
  repeat' with_reducible first | assumption | (intro _) | apply State.sendStream_memIs | apply State.run_memIs | apply State.fail_memIs | apply State.finish_memIs | apply State.drawn_memIs | apply mem_next | apply mem_ite3 | apply mem_ite | (refine mem_foldl ?_ (fun _ _ _ => ?_)) | (refine mem_foldl1 ?_ (fun _ _ _ => ?_)) | (refine mem_foldl2 ?_ (fun _ _ _ => ?_)) | dsimp only | (refine mem_pair (by assumption) ?_) | (refine mem_opt (by assumption) ?_) | (refine mem_opt1 (by assumption) ?_) | (apply mem_mk; dsimp only; apply mem_un) | split

theorem execDelete_memIs {qq : List Host.Cell} (i : Nat) (tag : Nat) (written : Bool) (s : State) (h_s : MemIs qq s) :
    Out.MemIs qq (execDelete i tag written s) := by
  unfold execDelete
  dsimp -failIfUnchanged only
  repeat' with_reducible first | assumption | (intro _) | apply State.run_memIs | apply State.fail_memIs | apply State.finish_memIs | apply State.dropObj_memIs | apply mem_next | apply mem_ite3 | apply mem_ite | dsimp only | (refine mem_pair (by assumption) ?_) | (refine mem_opt (by assumption) ?_) | (refine mem_opt1 (by assumption) ?_) | split

theorem execExportManifest_memIs {qq : List Host.Cell} (i : Nat) (tag : Nat) (s : State) (h_s : MemIs qq s) :
    Out.MemIs qq (execExportManifest i tag s) := by
  unfold execExportManifest
  dsimp -failIfUnchanged only
  repeat' with_reducible first | assumption | (intro _) | apply State.sendStream_memIs | apply State.run_memIs | apply State.finish_memIs | apply State.rand_memIs | apply State.drawn_memIs | apply mem_next | apply mem_ite3 | dsimp only

theorem execFlush_memIs {qq : List Host.Cell} (i : Nat) (tag : Nat) (s : State) (h_s : MemIs qq s) :
    Out.MemIs qq (execFlush i tag s) := by
  unfold execFlush
  dsimp -failIfUnchanged only
  repeat' with_reducible first | assumption | (intro _) | apply State.run_memIs | apply State.coverRows_memIs | apply State.fail_memIs | apply State.finish_memIs | apply mem_next | apply mem_ite3 | apply mem_ite | apply mem_ite1 | dsimp only | split

theorem execFwActivate_memIs {qq : List Host.Cell} (i : Nat) (tag : Nat) (s : State) (h_s : MemIs qq s) :
    Out.MemIs qq (execFwActivate i tag s) := by
  unfold execFwActivate
  dsimp -failIfUnchanged only
  repeat' with_reducible first | assumption | (intro _) | apply State.run_memIs | apply State.recBegin_memIs | apply State.coverRows_memIs | apply State.fail_memIs | apply State.finish_memIs | apply State.sessClose_memIs | apply State.updObj_memIs | apply mem_next | apply mem_ite3 | apply mem_ite | apply mem_ite1 | (refine mem_foldl ?_ (fun _ _ _ => ?_)) | (refine mem_foldl1 ?_ (fun _ _ _ => ?_)) | (refine mem_foldl2 ?_ (fun _ _ _ => ?_)) | dsimp only | (apply mem_mk; dsimp only; apply mem_un) | split

theorem execGet_memIs {qq : List Host.Cell} (i : Nat) (tag : Nat) (unrec : List (Nat × Nat)) (s : State) (h_s : MemIs qq s) :
    Out.MemIs qq (execGet i tag unrec s) := by
  unfold execGet
  dsimp -failIfUnchanged only
  repeat' with_reducible first | assumption | (intro _) | apply State.sendStream_memIs | apply State.run_memIs | apply State.fail_memIs | apply State.finish_memIs | apply mem_next | apply mem_ite3 | apply mem_ite | apply mem_ite1 | dsimp only | (refine mem_pair (by assumption) ?_) | (refine mem_opt (by assumption) ?_) | (refine mem_opt1 (by assumption) ?_) | split

theorem execIdentify_memIs {qq : List Host.Cell} (i : Nat) (tag : Nat) (s : State) (h_s : MemIs qq s) :
    Out.MemIs qq (execIdentify i tag s) := by
  unfold execIdentify
  dsimp -failIfUnchanged only
  repeat' with_reducible first | assumption | (intro _) | apply State.sendStream_memIs | apply State.run_memIs | apply State.finish_memIs | apply mem_next | apply mem_ite3 | dsimp only

theorem execLegalHold_memIs {qq : List Host.Cell} (i : Nat) (tag : Nat) (written : Bool) (s : State) (h_s : MemIs qq s) :
    Out.MemIs qq (execLegalHold i tag written s) := by
  unfold execLegalHold
  dsimp -failIfUnchanged only
  repeat' with_reducible first | assumption | (apply mem_id; assumption) | (intro _) | apply State.run_memIs | apply State.updObjOf_memIs | apply State.fail_memIs | apply State.finish_memIs | apply mem_next | apply mem_ite3 | apply mem_ite | dsimp only | (refine mem_pair (by assumption) ?_) | (refine mem_opt (by assumption) ?_) | (refine mem_opt1 (by assumption) ?_) | (apply mem_mk; dsimp only; apply mem_un) | split

theorem execList_memIs {qq : List Host.Cell} (i : Nat) (tag : Nat) (s : State) (h_s : MemIs qq s) :
    Out.MemIs qq (execList i tag s) := by
  unfold execList
  dsimp -failIfUnchanged only
  repeat' with_reducible first | assumption | (intro _) | apply State.sendStream_memIs | apply State.run_memIs | apply State.finish_memIs | apply State.drawn_memIs | apply mem_next | apply mem_ite3 | dsimp only

theorem execPowerLossRestart_memIs {qq : List Host.Cell} (s : State) (h_s : MemIs qq s) :
    Out.MemIs qq (execPowerLossRestart s) := by
  unfold execPowerLossRestart
  dsimp -failIfUnchanged only
  repeat' with_reducible first | assumption | (intro _) | apply State.sumCopy_memIs | apply State.dropLost_memIs | apply State.updObj_memIs | apply State.updLay_memIs | apply mem_next | apply mem_ite3 | apply mem_ite | apply mem_ite1 | dsimp only | (apply mem_mk; dsimp only; apply mem_un) | split

theorem execPut_memIs {qq : List Host.Cell} (i : Nat) (tag : Nat) (choice : Tower) (s : State) (h_s : MemIs qq s) :
    Out.MemIs qq (execPut i tag choice s) := by
  unfold execPut
  dsimp -failIfUnchanged only
  repeat' with_reducible first | assumption | (intro _) | apply State.run_memIs | apply State.fail_memIs | apply State.updObj_memIs | apply mem_next | apply mem_ite3 | apply mem_ite | apply mem_ite1 | dsimp only | (refine mem_pair (by assumption) ?_) | (refine mem_opt (by assumption) ?_) | (refine mem_opt1 (by assumption) ?_) | (apply mem_mk; dsimp only; apply mem_un) | split

theorem execPutAcknowledged_memIs {qq : List Host.Cell} (i : Nat) (tag : Nat) (s : State) (h_s : MemIs qq s) :
    Out.MemIs qq (execPutAcknowledged i tag s) := by
  unfold execPutAcknowledged
  dsimp -failIfUnchanged only
  repeat' with_reducible first | assumption | (intro _) | apply State.putFails_memIs | apply State.interim_memIs | apply State.updObjOf_memIs | apply State.finish_memIs | apply State.journalAdd_memIs | apply State.updCmd_memIs | apply mem_next | apply mem_ite3 | apply mem_ite | dsimp only | (refine mem_pair (by assumption) ?_) | (refine mem_opt (by assumption) ?_) | (refine mem_opt1 (by assumption) ?_) | (apply mem_mk; dsimp only; apply mem_un) | split

theorem execPutDurable_memIs {qq : List Host.Cell} (vault : Nat) (handle : Nat) (s : State) (h_s : MemIs qq s) :
    Out.MemIs qq (execPutDurable vault handle s) := by
  unfold execPutDurable
  dsimp -failIfUnchanged only
  repeat' with_reducible first | assumption | (intro _) | apply State.interim_memIs | apply State.coverTower_memIs | apply State.updObjOf_memIs | apply State.finish_memIs | apply State.journalAdd_memIs | apply State.updCmd_memIs | apply mem_next | apply mem_ite3 | apply mem_ite | dsimp only | (refine mem_pair (by assumption) ?_) | (refine mem_opt (by assumption) ?_) | (refine mem_opt1 (by assumption) ?_) | (apply mem_mk; dsimp only; apply mem_un) | split

theorem execRawInfo_memIs {qq : List Host.Cell} (i : Nat) (tag : Nat) (s : State) (h_s : MemIs qq s) :
    Out.MemIs qq (execRawInfo i tag s) := by
  unfold execRawInfo
  dsimp -failIfUnchanged only
  repeat' with_reducible first | assumption | (intro _) | apply State.run_memIs | apply State.finish_memIs | apply mem_next | apply mem_ite3 | dsimp only

theorem execRawRead_memIs {qq : List Host.Cell} (i : Nat) (tag : Nat) (unrec : List (Nat × Nat)) (s : State) (h_s : MemIs qq s) :
    Out.MemIs qq (execRawRead i tag unrec s) := by
  unfold execRawRead
  dsimp -failIfUnchanged only
  repeat' with_reducible first | assumption | (intro _) | apply State.sendStream_memIs | apply State.run_memIs | apply State.fail_memIs | apply State.finish_memIs | apply mem_next | apply mem_ite3 | apply mem_ite | apply mem_ite1 | dsimp only | split

theorem execRawWrite_memIs {qq : List Host.Cell} (i : Nat) (tag : Nat) (verified : Bool) (s : State) (h_s : MemIs qq s) :
    Out.MemIs qq (execRawWrite i tag verified s) := by
  unfold execRawWrite
  dsimp -failIfUnchanged only
  repeat' with_reducible first | assumption | (intro _) | apply State.run_memIs | apply State.fail_memIs | apply State.finish_memIs | apply State.rawStore_memIs | apply State.drawn_memIs | apply mem_next | apply mem_ite3 | apply mem_ite | dsimp only | split

theorem execSetPower_memIs {qq : List Host.Cell} (i : Nat) (tag : Nat) (s : State) (h_s : MemIs qq s) :
    Out.MemIs qq (execSetPower i tag s) := by
  unfold execSetPower
  dsimp -failIfUnchanged only
  repeat' with_reducible first | assumption | (intro _) | apply State.run_memIs | apply State.finish_memIs | apply State.updObj_memIs | apply State.wr_memIs | apply mem_next | apply mem_ite3 | apply mem_ite | apply mem_ite1 | (refine mem_foldl ?_ (fun _ _ _ => ?_)) | (refine mem_foldl1 ?_ (fun _ _ _ => ?_)) | (refine mem_foldl2 ?_ (fun _ _ _ => ?_)) | dsimp only | (apply mem_mk; dsimp only; apply mem_un) | split

theorem execSetRetention_memIs {qq : List Host.Cell} (i : Nat) (tag : Nat) (written : Bool) (s : State) (h_s : MemIs qq s) :
    Out.MemIs qq (execSetRetention i tag written s) := by
  unfold execSetRetention
  dsimp -failIfUnchanged only
  repeat' with_reducible first | assumption | (intro _) | apply State.run_memIs | apply State.updObjOf_memIs | apply State.fail_memIs | apply State.finish_memIs | apply mem_next | apply mem_ite3 | apply mem_ite | dsimp only | (refine mem_pair (by assumption) ?_) | (refine mem_opt (by assumption) ?_) | (refine mem_opt1 (by assumption) ?_) | (apply mem_mk; dsimp only; apply mem_un) | split

theorem execStat_memIs {qq : List Host.Cell} (i : Nat) (tag : Nat) (s : State) (h_s : MemIs qq s) :
    Out.MemIs qq (execStat i tag s) := by
  unfold execStat
  dsimp -failIfUnchanged only
  repeat' with_reducible first | assumption | (intro _) | apply State.run_memIs | apply State.fail_memIs | apply State.finish_memIs | apply mem_next | apply mem_ite3 | dsimp only | (refine mem_pair (by assumption) ?_) | (refine mem_opt (by assumption) ?_) | (refine mem_opt1 (by assumption) ?_) | split

theorem execTowerFailed_memIs {qq : List Host.Cell} (t : Tower) (s : State) (h_s : MemIs qq s) :
    Out.MemIs qq (execTowerFailed t s) := by
  unfold execTowerFailed
  dsimp -failIfUnchanged only
  repeat' with_reducible first | assumption | (intro _) | apply State.putFails_memIs | apply State.moveObj_memIs | apply State.updObj_memIs | apply mem_next | apply mem_ite3 | (refine mem_foldl ?_ (fun _ _ _ => ?_)) | (refine mem_foldl1 ?_ (fun _ _ _ => ?_)) | (refine mem_foldl2 ?_ (fun _ _ _ => ?_)) | dsimp only | (refine mem_pair (by assumption) ?_) | (refine mem_opt (by assumption) ?_) | (refine mem_opt1 (by assumption) ?_) | (apply mem_mk; dsimp only; apply mem_un) | split

theorem State.updDom_memIs {qq : List Host.Cell} (s : State) (f : DomState → DomState) (h_s : MemIs qq s) :
    MemIs qq (State.updDom s f) := by
  unfold State.updDom
  dsimp -failIfUnchanged only
  repeat' with_reducible first | assumption | (intro _) | dsimp only | (apply mem_mk; dsimp only; apply mem_un)

theorem State.runStarved_memIs {qq : List Host.Cell} (s : State) (t : Tower) (h_s : MemIs qq s) :
    MemIs qq (State.runStarved s t) := by
  unfold State.runStarved
  dsimp -failIfUnchanged only
  repeat' with_reducible first | assumption | (intro _) | apply State.dropGates_memIs | apply State.sectorEnd_memIs | apply mem_ite | dsimp only | (refine mem_pair (by assumption) ?_) | (refine mem_opt (by assumption) ?_) | (refine mem_opt1 (by assumption) ?_) | split

theorem State.domIrq_memIs {qq : List Host.Cell} (s : State) (bit : Nat) (h_s : MemIs qq s) :
    MemIs qq (State.domIrq s bit) := by
  unfold State.domIrq
  dsimp -failIfUnchanged only
  repeat' with_reducible first | assumption | apply State.irq_memIs | dsimp only

theorem State.domError_memIs {qq : List Host.Cell} (s : State) (bit : Nat) (h_s : MemIs qq s) :
    MemIs qq (State.domError s bit) := by
  unfold State.domError
  dsimp -failIfUnchanged only
  repeat' with_reducible first | assumption | (intro _) | apply State.domIrq_memIs | apply State.runStarved_memIs | apply State.updDom_memIs | apply State.hwPost_memIs | apply State.wr_memIs | apply mem_ite | dsimp only | (apply mem_mk; dsimp only; apply mem_un) | split

theorem State.selfTests_memIs {qq : List Host.Cell} (s : State) (pass : Nat) (h_s : MemIs qq s) :
    MemIs qq (State.selfTests s pass).1 := by
  unfold State.selfTests
  dsimp -failIfUnchanged only
  repeat' with_reducible first | assumption | (intro _) | apply State.domError_memIs | apply State.updDom_memIs | apply State.wr_memIs | apply mem_ite | apply mem_ite1 | dsimp only | (refine mem_pair (by assumption) ?_) | (refine mem_opt (by assumption) ?_) | (refine mem_opt1 (by assumption) ?_) | (apply mem_mk; dsimp only; apply mem_un) | split

theorem State.domCmd_memIs {qq : List Host.Cell} (s : State) (val : Word) (pass : Nat) (h_s : MemIs qq s) :
    MemIs qq (State.domCmd s val pass) := by
  unfold State.domCmd
  dsimp -failIfUnchanged only
  repeat' with_reducible first | assumption | (intro _) | apply State.selfTests_memIs | apply State.recBegin_memIs | apply mem_ite | apply mem_ite1 | dsimp only | split

theorem State.setXts_memIs {qq : List Host.Cell} (s : State) (t : Tower) (n : Nat) (k : Option Nat) (h_s : MemIs qq s) :
    MemIs qq (State.setXts s t n k) := by
  unfold State.setXts
  dsimp -failIfUnchanged only
  repeat' with_reducible first | assumption | (intro _) | dsimp only | (apply mem_mk; dsimp only; apply mem_un)

theorem State.setXtsBoth_memIs {qq : List Host.Cell} (s : State) (n : Nat) (k : Option Nat) (h_s : MemIs qq s) :
    MemIs qq (State.setXtsBoth s n k) := by
  unfold State.setXtsBoth
  dsimp -failIfUnchanged only
  repeat' with_reducible first | assumption | apply State.setXts_memIs | dsimp only

theorem State.updVault_memIs {qq : List Host.Cell} (s : State) (v : Nat) (f : Vault → Vault) (h_s : MemIs qq s) :
    MemIs qq (State.updVault s v f) := by
  unfold State.updVault
  dsimp -failIfUnchanged only
  repeat' with_reducible first | assumption | (apply mem_id; assumption) | (intro _) | apply State.updDom_memIs | apply mem_ite | dsimp only | (apply mem_mk; dsimp only; apply mem_un) | split

theorem State.vaultOpen_memIs {qq : List Host.Cell} (s : State) (v : Nat) (key : Nat) (h_s : MemIs qq s) :
    MemIs qq (State.vaultOpen s v key) := by
  unfold State.vaultOpen
  dsimp -failIfUnchanged only
  repeat' with_reducible first | assumption | (intro _) | apply State.updVault_memIs | apply State.setXtsBoth_memIs | dsimp only | (apply mem_mk; dsimp only; apply mem_un)

theorem State.domOperational_memIs {qq : List Host.Cell} (s : State) (h_s : MemIs qq s) :
    MemIs qq (State.domOperational s) := by
  unfold State.domOperational
  dsimp -failIfUnchanged only
  repeat' with_reducible first | assumption | (apply mem_id; assumption) | (intro _) | apply State.vaultOpen_memIs | apply State.setXtsBoth_memIs | apply State.updDom_memIs | apply State.newCookie_memIs | apply State.wb_memIs | apply State.wr_memIs | (refine mem_foldl ?_ (fun _ _ _ => ?_)) | (refine mem_foldl1 ?_ (fun _ _ _ => ?_)) | (refine mem_foldl2 ?_ (fun _ _ _ => ?_)) | dsimp only | (refine mem_pair (by assumption) ?_) | (refine mem_opt (by assumption) ?_) | (refine mem_opt1 (by assumption) ?_) | (apply mem_mk; dsimp only; apply mem_un) | split

theorem State.kbPerform_memIs {qq : List Host.Cell} (s : State) (k : KbOp) (h_s : MemIs qq s) :
    MemIs qq (State.kbPerform s k) := by
  unfold State.kbPerform
  dsimp -failIfUnchanged only
  repeat' with_reducible first | assumption | (intro _) | apply State.setXts_memIs | apply State.setGcm_memIs | apply mem_ite | apply mem_ite1 | dsimp only | (apply mem_mk; dsimp only; apply mem_un) | split

theorem State.kbWrite_memIs {qq : List Host.Cell} (s : State) (val : Word) (h_s : MemIs qq s) :
    MemIs qq (State.kbWrite s val) := by
  unfold State.kbWrite
  dsimp -failIfUnchanged only
  repeat' with_reducible first | assumption | (intro _) | apply State.domIrq_memIs | apply State.updDom_memIs | apply State.storeRow_memIs | apply State.wb_memIs | apply State.wr_memIs | apply mem_ite | dsimp only | (apply mem_mk; dsimp only; apply mem_un) | split

theorem State.loadHuk_memIs {qq : List Host.Cell} (s : State) (h_s : MemIs qq s) :
    MemIs qq (State.loadHuk s) := by
  unfold State.loadHuk
  dsimp -failIfUnchanged only
  repeat' with_reducible first | assumption | (intro _) | apply State.updDom_memIs | dsimp only | (apply mem_mk; dsimp only; apply mem_un)

theorem State.newVault_memIs {qq : List Host.Cell} (s : State) (kek : Nat) (v : Nat) (secret : List Byte) (h_s : MemIs qq s) :
    MemIs qq (State.newVault s kek v secret).2.2 := by
  unfold State.newVault
  dsimp -failIfUnchanged only
  repeat' with_reducible first | assumption | (apply mem_id; assumption) | (intro _) | apply State.rand_memIs | dsimp only | (apply mem_mk; dsimp only; apply mem_un)

theorem State.vaultBack_memIs {qq : List Host.Cell} (s : State) (x : Vault) (key : Nat) (h_s : MemIs qq s) :
    MemIs qq (State.vaultBack s x key) := by
  unfold State.vaultBack
  dsimp -failIfUnchanged only
  repeat' with_reducible first | assumption | (apply mem_id; assumption) | (intro _) | apply State.vaultOpen_memIs | apply State.updVault_memIs | apply mem_ite | dsimp only | (apply mem_mk; dsimp only; apply mem_un) | split

theorem State.vaultQuiet_memIs {qq : List Host.Cell} (s : State) (c : Cmd) (h_s : MemIs qq s) :
    MemIs qq (State.vaultQuiet s c).1 := by
  unfold State.vaultQuiet
  dsimp -failIfUnchanged only
  repeat' with_reducible first | assumption | (intro _) | apply State.updVault_memIs | apply State.coverRows_memIs | dsimp only | (apply mem_mk; dsimp only; apply mem_un)

theorem State.vaultErase_memIs {qq : List Host.Cell} (s : State) (i : Nat) (tag : Nat) (c : Cmd) (x : Vault) (key : Nat) (h_s : MemIs qq s) :
    MemIs qq (State.vaultErase s i tag c x key) := by
  unfold State.vaultErase
  dsimp -failIfUnchanged only
  repeat' with_reducible first | assumption | (apply mem_id; assumption) | (intro _) | apply State.vaultQuiet_memIs | apply State.vaultBack_memIs | apply State.setXtsBoth_memIs | apply State.updDom_memIs | apply State.fail_memIs | apply State.finish_memIs | apply State.dropObj_memIs | apply State.updLay_memIs | apply mem_ite | apply mem_ite1 | (refine mem_foldl ?_ (fun _ _ _ => ?_)) | (refine mem_foldl1 ?_ (fun _ _ _ => ?_)) | (refine mem_foldl2 ?_ (fun _ _ _ => ?_)) | dsimp only | (apply mem_mk; dsimp only; apply mem_un) | split

theorem State.vaultEraseWith_memIs {qq : List Host.Cell} (s : State) (i : Nat) (tag : Nat) (c : Cmd) (x : Vault) (key : Option Nat) (h_s : MemIs qq s) :
    MemIs qq (State.vaultEraseWith s i tag c x key) := by
  unfold State.vaultEraseWith
  dsimp -failIfUnchanged only
  repeat' with_reducible first | assumption | apply State.vaultErase_memIs | apply State.fail_memIs | dsimp only | (refine mem_pair (by assumption) ?_) | (refine mem_opt (by assumption) ?_) | (refine mem_opt1 (by assumption) ?_) | split

theorem execAnchorSet_memIs {qq : List Host.Cell} (i : Nat) (tag : Nat) (s : State) (h_s : MemIs qq s) :
    Out.MemIs qq (execAnchorSet i tag s) := by
  unfold execAnchorSet
  dsimp -failIfUnchanged only
  repeat' with_reducible first | assumption | (intro _) | apply State.updDom_memIs | apply State.run_memIs | apply State.fail_memIs | apply State.finish_memIs | apply State.sessClose_memIs | apply State.hwPost_memIs | apply mem_next | apply mem_ite3 | apply mem_ite | apply mem_ite1 | (refine mem_foldl ?_ (fun _ _ _ => ?_)) | (refine mem_foldl1 ?_ (fun _ _ _ => ?_)) | (refine mem_foldl2 ?_ (fun _ _ _ => ?_)) | dsimp only | (apply mem_mk; dsimp only; apply mem_un) | split

theorem execClockRecordTimer_memIs {qq : List Host.Cell} (s : State) (h_s : MemIs qq s) :
    Out.MemIs qq (execClockRecordTimer s) := by
  unfold execClockRecordTimer
  dsimp -failIfUnchanged only
  repeat' with_reducible first | assumption | apply State.recBegin_memIs | apply mem_next | apply mem_ite3 | apply mem_ite | dsimp only | split

theorem execClockTick_memIs {qq : List Host.Cell} (s : State) (h_s : MemIs qq s) :
    Out.MemIs qq (execClockTick s) := by
  unfold execClockTick
  dsimp -failIfUnchanged only
  repeat' with_reducible first | assumption | (intro _) | apply State.updDom_memIs | apply State.wr_memIs | apply mem_next | apply mem_ite3 | dsimp only | (apply mem_mk; dsimp only; apply mem_un)

theorem execEntropyHealthFail_memIs {qq : List Host.Cell} (s : State) (h_s : MemIs qq s) :
    Out.MemIs qq (execEntropyHealthFail s) := by
  unfold execEntropyHealthFail
  dsimp -failIfUnchanged only
  repeat' with_reducible first | assumption | apply State.domError_memIs | apply State.wr_memIs | apply mem_next | apply mem_ite3 | apply mem_ite | dsimp only | split

theorem execKeyBusDone_memIs {qq : List Host.Cell} (s : State) (h_s : MemIs qq s) :
    Out.MemIs qq (execKeyBusDone s) := by
  unfold execKeyBusDone
  dsimp -failIfUnchanged only
  repeat' with_reducible first | assumption | (intro _) | apply State.kbPerform_memIs | apply State.domIrq_memIs | apply State.updDom_memIs | apply State.wr_memIs | apply mem_next | apply mem_ite3 | apply mem_ite | dsimp only | (refine mem_pair (by assumption) ?_) | (refine mem_opt (by assumption) ?_) | (refine mem_opt1 (by assumption) ?_) | (apply mem_mk; dsimp only; apply mem_un) | split

theorem execKeyClear_memIs {qq : List Host.Cell} (val : Word) (s : State) (h_s : MemIs qq s) :
    Out.MemIs qq (execKeyClear val s) := by
  unfold execKeyClear
  dsimp -failIfUnchanged only
  repeat' with_reducible first | assumption | (intro _) | apply State.kbWrite_memIs | apply State.gated_memIs | apply mem_next | apply mem_ite3 | dsimp only

theorem execKeyClearAll_memIs {qq : List Host.Cell} (val : Word) (s : State) (h_s : MemIs qq s) :
    Out.MemIs qq (execKeyClearAll val s) := by
  unfold execKeyClearAll
  dsimp -failIfUnchanged only
  repeat' with_reducible first | assumption | (intro _) | apply State.kbWrite_memIs | apply State.gated_memIs | apply mem_next | apply mem_ite3 | dsimp only

theorem execKeyLoad_memIs {qq : List Host.Cell} (val : Word) (s : State) (h_s : MemIs qq s) :
    Out.MemIs qq (execKeyLoad val s) := by
  unfold execKeyLoad
  dsimp -failIfUnchanged only
  repeat' with_reducible first | assumption | (intro _) | apply State.kbWrite_memIs | apply State.gated_memIs | apply mem_next | apply mem_ite3 | dsimp only

theorem execRecNow_memIs {qq : List Host.Cell} (val : Word) (s : State) (h_s : MemIs qq s) :
    Out.MemIs qq (execRecNow val s) := by
  unfold execRecNow
  dsimp -failIfUnchanged only
  repeat' with_reducible first | assumption | (intro _) | apply State.domCmd_memIs | apply State.gated_memIs | apply mem_next | apply mem_ite3 | dsimp only

theorem execSelfTest_memIs {qq : List Host.Cell} (i : Nat) (tag : Nat) (pass : Nat) (s : State) (h_s : MemIs qq s) :
    Out.MemIs qq (execSelfTest i tag pass s) := by
  unfold execSelfTest
  dsimp -failIfUnchanged only
  repeat' with_reducible first | assumption | (intro _) | apply State.selfTests_memIs | apply State.run_memIs | apply State.finish_memIs | apply mem_next | apply mem_ite3 | apply mem_ite | apply mem_ite1 | dsimp only | split

theorem execStRun_memIs {qq : List Host.Cell} (val : Word) (pass : Nat) (s : State) (h_s : MemIs qq s) :
    Out.MemIs qq (execStRun val pass s) := by
  unfold execStRun
  dsimp -failIfUnchanged only
  repeat' with_reducible first | assumption | (intro _) | apply State.domCmd_memIs | apply State.gated_memIs | apply mem_next | apply mem_ite3 | dsimp only

theorem execTimeQuery_memIs {qq : List Host.Cell} (i : Nat) (tag : Nat) (s : State) (h_s : MemIs qq s) :
    Out.MemIs qq (execTimeQuery i tag s) := by
  unfold execTimeQuery
  dsimp -failIfUnchanged only
  repeat' with_reducible first | assumption | (intro _) | apply State.updDom_memIs | apply State.run_memIs | apply State.finish_memIs | apply State.rand_memIs | apply mem_next | apply mem_ite3 | dsimp only | (apply mem_mk; dsimp only; apply mem_un)

theorem execTimeToken_memIs {qq : List Host.Cell} (i : Nat) (tag : Nat) (s : State) (h_s : MemIs qq s) :
    Out.MemIs qq (execTimeToken i tag s) := by
  unfold execTimeToken
  dsimp -failIfUnchanged only
  repeat' with_reducible first | assumption | (intro _) | apply State.run_memIs | apply State.recBegin_memIs | apply State.fail_memIs | apply mem_next | apply mem_ite3 | apply mem_ite | apply mem_ite1 | dsimp only | split

theorem execVaultCreate_memIs {qq : List Host.Cell} (i : Nat) (tag : Nat) (s : State) (h_s : MemIs qq s) :
    Out.MemIs qq (execVaultCreate i tag s) := by
  unfold execVaultCreate
  dsimp -failIfUnchanged only
  repeat' with_reducible first | assumption | (intro _) | apply State.newVault_memIs | apply State.vaultOpen_memIs | apply State.updDom_memIs | apply State.run_memIs | apply State.fail_memIs | apply State.finish_memIs | apply mem_next | apply mem_ite3 | apply mem_ite | apply mem_ite1 | dsimp only | (apply mem_mk; dsimp only; apply mem_un) | split

theorem execVaultErase_memIs {qq : List Host.Cell} (i : Nat) (tag : Nat) (s : State) (h_s : MemIs qq s) :
    Out.MemIs qq (execVaultErase i tag s) := by
  unfold execVaultErase
  dsimp -failIfUnchanged only
  repeat' with_reducible first | assumption | (intro _) | apply State.vaultEraseWith_memIs | apply State.run_memIs | apply State.fail_memIs | apply mem_next | apply mem_ite3 | dsimp only | (refine mem_pair (by assumption) ?_) | (refine mem_opt (by assumption) ?_) | (refine mem_opt1 (by assumption) ?_) | split

theorem execVaultInfo_memIs {qq : List Host.Cell} (i : Nat) (tag : Nat) (s : State) (h_s : MemIs qq s) :
    Out.MemIs qq (execVaultInfo i tag s) := by
  unfold execVaultInfo
  dsimp -failIfUnchanged only
  repeat' with_reducible first | assumption | (intro _) | apply State.run_memIs | apply State.fail_memIs | apply State.finish_memIs | apply mem_next | apply mem_ite3 | (refine mem_foldl ?_ (fun _ _ _ => ?_)) | (refine mem_foldl1 ?_ (fun _ _ _ => ?_)) | (refine mem_foldl2 ?_ (fun _ _ _ => ?_)) | dsimp only | (refine mem_pair (by assumption) ?_) | (refine mem_opt (by assumption) ?_) | (refine mem_opt1 (by assumption) ?_) | split

theorem execVaultLock_memIs {qq : List Host.Cell} (i : Nat) (tag : Nat) (s : State) (h_s : MemIs qq s) :
    Out.MemIs qq (execVaultLock i tag s) := by
  unfold execVaultLock
  dsimp -failIfUnchanged only
  repeat' with_reducible first | assumption | (intro _) | apply State.vaultQuiet_memIs | apply State.updVault_memIs | apply State.setXtsBoth_memIs | apply State.run_memIs | apply State.finish_memIs | apply mem_next | apply mem_ite3 | apply mem_ite | apply mem_ite1 | dsimp only | (apply mem_mk; dsimp only; apply mem_un) | split

theorem execVaultSetMin_memIs {qq : List Host.Cell} (i : Nat) (tag : Nat) (s : State) (h_s : MemIs qq s) :
    Out.MemIs qq (execVaultSetMin i tag s) := by
  unfold execVaultSetMin
  dsimp -failIfUnchanged only
  repeat' with_reducible first | assumption | (intro _) | apply State.updVault_memIs | apply State.run_memIs | apply State.fail_memIs | apply State.finish_memIs | apply mem_next | apply mem_ite3 | apply mem_ite | dsimp only | (refine mem_pair (by assumption) ?_) | (refine mem_opt (by assumption) ?_) | (refine mem_opt1 (by assumption) ?_) | (apply mem_mk; dsimp only; apply mem_un) | split

theorem execVaultUnlock_memIs {qq : List Host.Cell} (i : Nat) (tag : Nat) (s : State) (h_s : MemIs qq s) :
    Out.MemIs qq (execVaultUnlock i tag s) := by
  unfold execVaultUnlock
  dsimp -failIfUnchanged only
  repeat' with_reducible first | assumption | (apply mem_id; assumption) | (intro _) | apply State.vaultOpen_memIs | apply State.run_memIs | apply State.fail_memIs | apply State.finish_memIs | apply mem_next | apply mem_ite3 | apply mem_ite | dsimp only | (refine mem_pair (by assumption) ?_) | (refine mem_opt (by assumption) ?_) | (refine mem_opt1 (by assumption) ?_) | split

theorem execZeroise_memIs {qq : List Host.Cell} (i : Nat) (tag : Nat) (s : State) (h_s : MemIs qq s) :
    Out.MemIs qq (execZeroise i tag s) := by
  unfold execZeroise
  dsimp -failIfUnchanged only
  repeat' with_reducible first | assumption | (intro _) | apply State.updDom_memIs | apply State.run_memIs | apply State.fail_memIs | apply State.sessClose_memIs | apply State.dropObj_memIs | apply State.hwPost_memIs | apply State.wr_memIs | apply mem_next | apply mem_ite3 | apply mem_ite | apply mem_ite1 | (refine mem_foldl ?_ (fun _ _ _ => ?_)) | (refine mem_foldl1 ?_ (fun _ _ _ => ?_)) | (refine mem_foldl2 ?_ (fun _ _ _ => ?_)) | dsimp only | (apply mem_mk; dsimp only; apply mem_un) | split

theorem State.pllLock_memIs {qq : List Host.Cell} (s : State) (h_s : MemIs qq s) :
    MemIs qq (State.pllLock s) := by
  unfold State.pllLock
  dsimp -failIfUnchanged only
  repeat' with_reducible first | assumption | apply State.wr_memIs | dsimp only

theorem State.fuseLoad_memIs {qq : List Host.Cell} (s : State) (h_s : MemIs qq s) :
    MemIs qq (State.fuseLoad s) := by
  unfold State.fuseLoad
  dsimp -failIfUnchanged only
  repeat' with_reducible first | assumption | (intro _) | apply State.wb_memIs | apply State.wr_memIs | apply State.setReg_memIs | apply mem_ite | apply mem_ite1 | (refine mem_foldl ?_ (fun _ _ _ => ?_)) | (refine mem_foldl1 ?_ (fun _ _ _ => ?_)) | (refine mem_foldl2 ?_ (fun _ _ _ => ?_)) | dsimp only | split

theorem State.updPwr_memIs {qq : List Host.Cell} (s : State) (f : PwrState → PwrState) (h_s : MemIs qq s) :
    MemIs qq (State.updPwr s f) := by
  unfold State.updPwr
  dsimp -failIfUnchanged only
  repeat' with_reducible first | assumption | (intro _) | dsimp only | (apply mem_mk; dsimp only; apply mem_un)

theorem State.belIrq_memIs {qq : List Host.Cell} (s : State) (bit : Nat) (h_s : MemIs qq s) :
    MemIs qq (State.belIrq s bit) := by
  unfold State.belIrq
  dsimp -failIfUnchanged only
  repeat' with_reducible first | assumption | apply State.irq_memIs | dsimp only

theorem State.pwrIrq_memIs {qq : List Host.Cell} (s : State) (p : Nat) (bit : Nat) (h_s : MemIs qq s) :
    MemIs qq (State.pwrIrq s p bit) := by
  unfold State.pwrIrq
  dsimp -failIfUnchanged only
  repeat' with_reducible first | assumption | apply State.irq_memIs | dsimp only

theorem State.avsFail_memIs {qq : List Host.Cell} (s : State) (err : Nat) (h_s : MemIs qq s) :
    MemIs qq (State.avsFail s err) := by
  unfold State.avsFail
  dsimp -failIfUnchanged only
  repeat' with_reducible first | assumption | apply State.pwrIrq_memIs | apply State.wr_memIs | dsimp only

theorem State.avsWrite_memIs {qq : List Host.Cell} (s : State) (val : Word) (nack : Bool) (h_s : MemIs qq s) :
    MemIs qq (State.avsWrite s val nack) := by
  unfold State.avsWrite
  dsimp -failIfUnchanged only
  repeat' with_reducible first | assumption | (intro _) | apply State.avsFail_memIs | apply State.updPwr_memIs | apply State.wr_memIs | apply mem_ite | dsimp only | (apply mem_mk; dsimp only; apply mem_un) | split

theorem State.belCmd_memIs {qq : List Host.Cell} (s : State) (val : Word) (h_s : MemIs qq s) :
    MemIs qq (State.belCmd s val) := by
  unfold State.belCmd
  dsimp -failIfUnchanged only
  repeat' with_reducible first | assumption | (intro _) | apply State.belIrq_memIs | apply State.updSrv_memIs | apply State.wr_memIs | apply mem_ite | dsimp only | (apply mem_mk; dsimp only; apply mem_un) | split

theorem State.cpuWrite_memIs {qq : List Host.Cell} (s : State) (val : Word) (h_s : MemIs qq s) :
    MemIs qq (State.cpuWrite s val) := by
  unfold State.cpuWrite
  dsimp -failIfUnchanged only
  repeat' with_reducible first | assumption | (intro _) | apply State.irq_memIs | apply State.wr_memIs | apply mem_ite | dsimp only | split

theorem State.domBusy_memIs {qq : List Host.Cell} (s : State) (r : DomReq) (h_s : MemIs qq s) :
    MemIs qq (State.domBusy s r) := by
  unfold State.domBusy
  dsimp -failIfUnchanged only
  repeat' with_reducible first | assumption | (intro _) | apply State.updPwr_memIs | apply State.wr_memIs | dsimp only | (apply mem_mk; dsimp only; apply mem_un)

theorem State.domEnd_memIs {qq : List Host.Cell} (s : State) (result : Nat) (dom : Nat) (h_s : MemIs qq s) :
    MemIs qq (State.domEnd s result dom) := by
  unfold State.domEnd
  dsimp -failIfUnchanged only
  repeat' with_reducible first | assumption | (intro _) | apply State.pwrIrq_memIs | apply State.updPwr_memIs | apply State.wr_memIs | apply mem_ite | dsimp only | (apply mem_mk; dsimp only; apply mem_un) | split

theorem State.domDown_memIs {qq : List Host.Cell} (s : State) (m : Nat) (h_s : MemIs qq s) :
    MemIs qq (State.domDown s m) := by
  unfold State.domDown
  dsimp -failIfUnchanged only
  repeat' with_reducible first | assumption | (intro _) | apply State.domEnd_memIs | apply State.domBusy_memIs | apply State.dmaQuiesce_memIs | dsimp only | (refine mem_pair (by assumption) ?_) | (refine mem_opt (by assumption) ?_) | (refine mem_opt1 (by assumption) ?_) | (apply mem_mk; dsimp only; apply mem_un) | split

theorem State.pwrRefuse_memIs {qq : List Host.Cell} (s : State) (h_s : MemIs qq s) :
    MemIs qq (State.pwrRefuse s) := by
  unfold State.pwrRefuse
  dsimp -failIfUnchanged only
  repeat' with_reducible first | assumption | apply State.pwrIrq_memIs | dsimp only

theorem State.domUp_memIs {qq : List Host.Cell} (s : State) (m : Nat) (h_s : MemIs qq s) :
    MemIs qq (State.domUp s m) := by
  unfold State.domUp
  dsimp -failIfUnchanged only
  repeat' with_reducible first | assumption | apply State.domBusy_memIs | dsimp only | (apply mem_mk; dsimp only; apply mem_un)

theorem State.domReqWrite_memIs {qq : List Host.Cell} (s : State) (val : Word) (h_s : MemIs qq s) :
    MemIs qq (State.domReqWrite s val) := by
  unfold State.domReqWrite
  dsimp -failIfUnchanged only
  repeat' with_reducible first | assumption | (intro _) | apply State.domUp_memIs | apply State.pwrRefuse_memIs | apply State.domDown_memIs | apply State.wr_memIs | apply mem_ite | dsimp only | split

theorem State.inLevel_memIs {qq : List Host.Cell} (s : State) (i : Nat) (h_s : MemIs qq s) :
    MemIs qq (State.inLevel s i) := by
  unfold State.inLevel
  dsimp -failIfUnchanged only
  repeat' with_reducible first | assumption | apply State.shockSet_memIs | apply State.regateBoth_memIs | apply mem_ite | dsimp only | split

theorem execActivityTouch_memIs {qq : List Host.Cell} (val : Word) (s : State) (h_s : MemIs qq s) :
    Out.MemIs qq (execActivityTouch val s) := by
  unfold execActivityTouch
  dsimp -failIfUnchanged only
  repeat' with_reducible first | assumption | (intro _) | apply State.gated_memIs | apply State.activity_memIs | apply mem_next | apply mem_ite3 | apply mem_ite | dsimp only | split

theorem execAvsRequest_memIs {qq : List Host.Cell} (val : Word) (nack : Bool) (s : State) (h_s : MemIs qq s) :
    Out.MemIs qq (execAvsRequest val nack s) := by
  unfold execAvsRequest
  dsimp -failIfUnchanged only
  repeat' with_reducible first | assumption | (intro _) | apply State.avsWrite_memIs | apply State.gated_memIs | apply mem_next | apply mem_ite3 | dsimp only

theorem execAvsSettleDone_memIs {qq : List Host.Cell} (read : Option Nat) (s : State) (h_s : MemIs qq s) :
    Out.MemIs qq (execAvsSettleDone read s) := by
  unfold execAvsSettleDone
  dsimp -failIfUnchanged only
  repeat' with_reducible first | assumption | (intro _) | apply State.avsFail_memIs | apply State.pwrIrq_memIs | apply State.wr_memIs | apply mem_next | apply mem_ite3 | apply mem_ite | dsimp only | (refine mem_pair (by assumption) ?_) | (refine mem_opt (by assumption) ?_) | (refine mem_opt1 (by assumption) ?_) | split

theorem execCpuMultWrite_memIs {qq : List Host.Cell} (val : Word) (s : State) (h_s : MemIs qq s) :
    Out.MemIs qq (execCpuMultWrite val s) := by
  unfold execCpuMultWrite
  dsimp -failIfUnchanged only
  repeat' with_reducible first | assumption | (intro _) | apply State.cpuWrite_memIs | apply State.gated_memIs | apply mem_next | apply mem_ite3 | dsimp only

theorem execCpuPllLocked_memIs {qq : List Host.Cell} (s : State) (h_s : MemIs qq s) :
    Out.MemIs qq (execCpuPllLocked s) := by
  unfold execCpuPllLocked
  dsimp -failIfUnchanged only
  repeat' with_reducible first | assumption | apply State.irq_memIs | apply State.wr_memIs | apply mem_next | apply mem_ite3 | apply mem_ite | dsimp only | split

theorem execDomainPowerDown_memIs {qq : List Host.Cell} (val : Word) (s : State) (h_s : MemIs qq s) :
    Out.MemIs qq (execDomainPowerDown val s) := by
  unfold execDomainPowerDown
  dsimp -failIfUnchanged only
  repeat' with_reducible first | assumption | (intro _) | apply State.domReqWrite_memIs | apply State.gated_memIs | apply mem_next | apply mem_ite3 | dsimp only

theorem execDomainPowerUp_memIs {qq : List Host.Cell} (val : Word) (s : State) (h_s : MemIs qq s) :
    Out.MemIs qq (execDomainPowerUp val s) := by
  unfold execDomainPowerUp
  dsimp -failIfUnchanged only
  repeat' with_reducible first | assumption | (intro _) | apply State.domReqWrite_memIs | apply State.gated_memIs | apply mem_next | apply mem_ite3 | dsimp only

theorem execIdleTimerExpiry_memIs {qq : List Host.Cell} (n : Nat) (s : State) (h_s : MemIs qq s) :
    Out.MemIs qq (execIdleTimerExpiry n s) := by
  unfold execIdleTimerExpiry
  dsimp -failIfUnchanged only
  repeat' with_reducible first | assumption | (intro _) | apply State.pwrIrq_memIs | apply mem_next | apply mem_ite3 | apply mem_ite | dsimp only | split

theorem execInputBucketFull_memIs {qq : List Host.Cell} (i : Nat) (s : State) (h_s : MemIs qq s) :
    Out.MemIs qq (execInputBucketFull i s) := by
  unfold execInputBucketFull
  dsimp -failIfUnchanged only
  repeat' with_reducible first | assumption | apply State.wr_memIs | apply mem_next | apply mem_ite3 | apply mem_ite | dsimp only | split

theorem execInputRearm_memIs {qq : List Host.Cell} (i : Nat) (s : State) (h_s : MemIs qq s) :
    Out.MemIs qq (execInputRearm i s) := by
  unfold execInputRearm
  dsimp -failIfUnchanged only
  repeat' with_reducible first | assumption | apply State.inLevel_memIs | apply State.wr_memIs | apply mem_next | apply mem_ite3 | apply mem_ite | dsimp only | split

theorem execInputStuck_memIs {qq : List Host.Cell} (i : Nat) (s : State) (h_s : MemIs qq s) :
    Out.MemIs qq (execInputStuck i s) := by
  unfold execInputStuck
  dsimp -failIfUnchanged only
  repeat' with_reducible first | assumption | apply State.inLevel_memIs | apply State.belIrq_memIs | apply State.hwPost_memIs | apply State.wr_memIs | apply mem_next | apply mem_ite3 | apply mem_ite | dsimp only | split

theorem execShutClr_memIs {qq : List Host.Cell} (val : Word) (s : State) (h_s : MemIs qq s) :
    Out.MemIs qq (execShutClr val s) := by
  unfold execShutClr
  dsimp -failIfUnchanged only
  repeat' with_reducible first | assumption | (intro _) | apply State.belCmd_memIs | apply State.gated_memIs | apply mem_next | apply mem_ite3 | dsimp only

theorem execThermalResetRelease_memIs {qq : List Host.Cell} (s : State) (h_s : MemIs qq s) :
    Out.MemIs qq (execThermalResetRelease s) := by
  unfold execThermalResetRelease
  dsimp -failIfUnchanged only
  repeat' with_reducible first | assumption | (intro _) | apply State.updPwr_memIs | apply State.wr_memIs | apply mem_next | apply mem_ite3 | apply mem_ite | dsimp only | (apply mem_mk; dsimp only; apply mem_un) | split

theorem State.csInc_memIs {qq : List Host.Cell} (s : State) (cls : Nat) (h_s : MemIs qq s) :
    MemIs qq (State.csInc s cls) := by
  unfold State.csInc
  dsimp -failIfUnchanged only
  repeat' with_reducible first | assumption | apply State.wr_memIs | apply mem_ite | dsimp only | split

theorem State.sprIrq_memIs {qq : List Host.Cell} (s : State) (cls : Nat) (bit : Nat) (h_s : MemIs qq s) :
    MemIs qq (State.sprIrq s cls bit) := by
  unfold State.sprIrq
  dsimp -failIfUnchanged only
  repeat' with_reducible first | assumption | apply State.irq_memIs | dsimp only

theorem State.csWrite_memIs {qq : List Host.Cell} (s : State) (cls : Nat) (val : Word) (h_s : MemIs qq s) :
    MemIs qq (State.csWrite s cls val) := by
  unfold State.csWrite
  dsimp -failIfUnchanged only
  repeat' with_reducible first | assumption | (intro _) | apply State.sprIrq_memIs | apply State.csInc_memIs | apply State.updSpire_memIs | apply mem_ite | (refine mem_foldl ?_ (fun _ _ _ => ?_)) | (refine mem_foldl1 ?_ (fun _ _ _ => ?_)) | (refine mem_foldl2 ?_ (fun _ _ _ => ?_)) | dsimp only | (apply mem_mk; dsimp only; apply mem_un) | split

theorem State.pushTo_memIs {qq : List Host.Cell} (s : State) (l : List Spire) (cmd : List Word) (h_s : MemIs qq s) :
    MemIs qq (State.pushTo s l cmd).1 := by
  unfold State.pushTo
  dsimp -failIfUnchanged only
  repeat' with_reducible first | assumption | (intro _) | apply State.sprIrq_memIs | apply State.updSpire_memIs | apply mem_ite | apply mem_ite1 | (refine mem_foldl ?_ (fun _ _ _ => ?_)) | (refine mem_foldl1 ?_ (fun _ _ _ => ?_)) | (refine mem_foldl2 ?_ (fun _ _ _ => ?_)) | dsimp only | (apply mem_mk; dsimp only; apply mem_un) | split

theorem State.mqPush_memIs {qq : List Host.Cell} (s : State) (core : Nat) (words : List Word) (val : Word) (h_s : MemIs qq s) :
    MemIs qq (State.mqPush s core words val) := by
  unfold State.mqPush
  dsimp -failIfUnchanged only
  repeat' with_reducible first | assumption | (intro _) | apply State.pushTo_memIs | apply State.sprIrq_memIs | apply mem_ite | apply mem_ite1 | dsimp only | (refine mem_pair (by assumption) ?_) | (refine mem_opt (by assumption) ?_) | (refine mem_opt1 (by assumption) ?_) | (apply mem_mk; dsimp only; apply mem_un) | split

theorem State.qPush_memIs {qq : List Host.Cell} (s : State) (cls : Nat) (val : Word) (h_s : MemIs qq s) :
    MemIs qq (State.qPush s cls val) := by
  unfold State.qPush
  dsimp -failIfUnchanged only
  repeat' with_reducible first | assumption | (intro _) | apply State.pushTo_memIs | apply State.sprIrq_memIs | apply State.wr_memIs | apply mem_ite | apply mem_ite1 | dsimp only | (refine mem_pair (by assumption) ?_) | (refine mem_opt (by assumption) ?_) | (refine mem_opt1 (by assumption) ?_) | split

theorem State.stopDone_memIs {qq : List Host.Cell} (s : State) (b : Nat) (i : Nat) (h_s : MemIs qq s) :
    MemIs qq (State.stopDone s b i) := by
  unfold State.stopDone
  dsimp -failIfUnchanged only
  repeat' with_reducible first | assumption | apply State.dmaSettle_memIs | apply State.memStopEnd_memIs | apply State.aotIdle_memIs | apply State.srvShutDone_memIs | apply State.shutDone_memIs | apply mem_ite | dsimp only | split

theorem execShutdownComplete_memIs {qq : List Host.Cell} (blk : Nat) (inst : Nat) (s : State) (h_s : MemIs qq s) :
    Out.MemIs qq (execShutdownComplete blk inst s) := by
  unfold execShutdownComplete
  dsimp -failIfUnchanged only
  repeat' with_reducible first | assumption | apply State.stopDone_memIs | apply mem_next | apply mem_ite3 | dsimp only

theorem State.updSys_memIs {qq : List Host.Cell} (s : State) (f : SysState → SysState) (h_s : MemIs qq s) :
    MemIs qq (State.updSys s f) := by
  unfold State.updSys
  dsimp -failIfUnchanged only
  repeat' with_reducible first | assumption | (intro _) | dsimp only | (apply mem_mk; dsimp only; apply mem_un)

theorem State.answer_memIs {qq : List Host.Cell} (s : State) (cmd : Nat) (status : Nat) (l : List Byte) (h_s : MemIs qq s) :
    MemIs qq (State.answer s cmd status l) := by
  unfold State.answer
  dsimp -failIfUnchanged only
  repeat' with_reducible first | assumption | (intro _) | apply State.updSys_memIs | dsimp only | (apply mem_mk; dsimp only; apply mem_un)

theorem State.sysIrq_memIs {qq : List Host.Cell} (s : State) (p : Nat) (bit : Nat) (h_s : MemIs qq s) :
    MemIs qq (State.sysIrq s p bit) := by
  unfold State.sysIrq
  dsimp -failIfUnchanged only
  repeat' with_reducible first | assumption | apply State.irq_memIs | dsimp only

theorem State.bistCmd_memIs {qq : List Host.Cell} (s : State) (val : Word) (h_s : MemIs qq s) :
    MemIs qq (State.bistCmd s val) := by
  unfold State.bistCmd
  dsimp -failIfUnchanged only
  repeat' with_reducible first | assumption | (intro _) | apply State.sysIrq_memIs | apply State.updSys_memIs | apply State.wr_memIs | apply mem_ite | dsimp only | (apply mem_mk; dsimp only; apply mem_un) | split

theorem State.bootCode_memIs {qq : List Host.Cell} (s : State) (c : Nat) (h_s : MemIs qq s) :
    MemIs qq (State.bootCode s c) := by
  unfold State.bootCode
  dsimp -failIfUnchanged only
  repeat' with_reducible first | assumption | apply State.wr_memIs | dsimp only

theorem State.setRvec_memIs {qq : List Host.Cell} (s : State) (h : Nat) (a : Nat) (h_s : MemIs qq s) :
    MemIs qq (State.setRvec s h a) := by
  unfold State.setRvec
  dsimp -failIfUnchanged only
  repeat' with_reducible first | assumption | apply State.wr_memIs | dsimp only

theorem State.launch_memIs {qq : List Host.Cell} (s : State) (n : Nat) (h_s : MemIs qq s) :
    MemIs qq (State.launch s n) := by
  unfold State.launch
  dsimp -failIfUnchanged only
  repeat' with_reducible first | assumption | (intro _) | apply State.setRvec_memIs | apply State.bootCode_memIs | apply State.updSys_memIs | apply State.updDom_memIs | apply State.wr_memIs | apply mem_ite | (refine mem_foldl ?_ (fun _ _ _ => ?_)) | (refine mem_foldl1 ?_ (fun _ _ _ => ?_)) | (refine mem_foldl2 ?_ (fun _ _ _ => ?_)) | dsimp only | (apply mem_mk; dsimp only; apply mem_un) | split

theorem State.bootImage_memIs {qq : List Host.Cell} (s : State) (h_s : MemIs qq s) :
    MemIs qq (State.bootImage s) := by
  unfold State.bootImage
  dsimp -failIfUnchanged only
  repeat' with_reducible first | assumption | (intro _) | apply State.launch_memIs | apply State.bootCode_memIs | apply State.updSys_memIs | apply State.wr_memIs | apply mem_ite | dsimp only | (apply mem_mk; dsimp only; apply mem_un) | split

theorem State.bootRom_memIs {qq : List Host.Cell} (s : State) (pass : Nat) (h_s : MemIs qq s) :
    MemIs qq (State.bootRom s pass) := by
  unfold State.bootRom
  dsimp -failIfUnchanged only
  repeat' with_reducible first | assumption | (intro _) | apply State.bootImage_memIs | apply State.bootCode_memIs | apply State.updSys_memIs | apply State.fuseLoad_memIs | apply State.pllLock_memIs | apply State.loadHuk_memIs | apply State.domOperational_memIs | apply State.selfTests_memIs | apply State.cupSpad_memIs | apply State.wb_memIs | apply State.wr_memIs | apply mem_ite | apply mem_ite1 | dsimp only | (apply mem_mk; dsimp only; apply mem_un) | split

theorem State.frame_memIs {qq : List Host.Cell} (s : State) (cmd : Nat) (crc : Nat) (payload : List Byte) (lenOk : Bool) (f : Listener → State) (h_s : MemIs qq s) (h_f : ∀ (x0 : Listener), MemIs qq (f x0)) :
    MemIs qq (State.frame s cmd crc payload lenOk f) := by
  unfold State.frame
  dsimp -failIfUnchanged only
  repeat' with_reducible first | assumption | (intro _) | apply State.answer_memIs | apply h_f | apply mem_ite | dsimp only | (refine mem_pair (by assumption) ?_) | (refine mem_opt (by assumption) ?_) | (refine mem_opt1 (by assumption) ?_) | split

theorem State.hartRun_memIs {qq : List Host.Cell} (s : State) (val : Word) (h_s : MemIs qq s) :
    MemIs qq (State.hartRun s val) := by
  unfold State.hartRun
  dsimp -failIfUnchanged only
  repeat' with_reducible first | assumption | apply State.wr_memIs | dsimp only

theorem State.sysRefuse_memIs {qq : List Host.Cell} (s : State) (h_s : MemIs qq s) :
    MemIs qq (State.sysRefuse s) := by
  unfold State.sysRefuse
  dsimp -failIfUnchanged only
  repeat' with_reducible first | assumption | apply State.sysIrq_memIs | dsimp only

theorem State.setListener_memIs {qq : List Host.Cell} (s : State) (l : Listener) (h_s : MemIs qq s) :
    MemIs qq (State.setListener s l) := by
  unfold State.setListener
  dsimp -failIfUnchanged only
  repeat' with_reducible first | assumption | (intro _) | apply State.updSys_memIs | dsimp only | (apply mem_mk; dsimp only; apply mem_un)

theorem State.tapLoad_memIs {qq : List Host.Cell} (s : State) (code : Nat) (level : Nat) (dr : Nat) (balls : Nat) (f : SysState → SysState) (h_s : MemIs qq s) :
    MemIs qq (State.tapLoad s code level dr balls f) := by
  unfold State.tapLoad
  dsimp -failIfUnchanged only
  repeat' with_reducible first | assumption | (intro _) | apply State.updSys_memIs | apply mem_ite | dsimp only | (apply mem_mk; dsimp only; apply mem_un) | split

theorem State.testState_memIs {qq : List Host.Cell} (s : State) (h_s : MemIs qq s) :
    MemIs qq (State.testState s) := by
  unfold State.testState
  dsimp -failIfUnchanged only
  repeat' with_reducible first | assumption | (intro _) | apply State.updSys_memIs | apply State.runStarved_memIs | apply State.updDom_memIs | dsimp only | (apply mem_mk; dsimp only; apply mem_un)

theorem State.wdtLoad_memIs {qq : List Host.Cell} (s : State) (h_s : MemIs qq s) :
    MemIs qq (State.wdtLoad s) := by
  unfold State.wdtLoad
  dsimp -failIfUnchanged only
  repeat' with_reducible first | assumption | (intro _) | apply State.updSys_memIs | dsimp only | (apply mem_mk; dsimp only; apply mem_un)

theorem State.wdtKick_memIs {qq : List Host.Cell} (s : State) (val : Word) (h_s : MemIs qq s) :
    MemIs qq (State.wdtKick s val) := by
  unfold State.wdtKick
  dsimp -failIfUnchanged only
  repeat' with_reducible first | assumption | apply State.wdtLoad_memIs | apply State.sysRefuse_memIs | apply State.wr_memIs | apply mem_ite | dsimp only | split

theorem execBistGo_memIs {qq : List Host.Cell} (val : Word) (s : State) (h_s : MemIs qq s) :
    Out.MemIs qq (execBistGo val s) := by
  unfold execBistGo
  dsimp -failIfUnchanged only
  repeat' with_reducible first | assumption | (intro _) | apply State.bistCmd_memIs | apply State.gated_memIs | apply mem_next | apply mem_ite3 | dsimp only

theorem execBypass_memIs {qq : List Host.Cell} (s : State) (h_s : MemIs qq s) :
    Out.MemIs qq (execBypass s) := by
  unfold execBypass
  dsimp -failIfUnchanged only
  repeat' with_reducible first | assumption | (apply mem_id; assumption) | apply State.tapLoad_memIs | apply mem_next | apply mem_ite3 | dsimp only

theorem execClamp_memIs {qq : List Host.Cell} (s : State) (h_s : MemIs qq s) :
    Out.MemIs qq (execClamp s) := by
  unfold execClamp
  dsimp -failIfUnchanged only
  repeat' with_reducible first | assumption | (apply mem_id; assumption) | apply State.tapLoad_memIs | apply mem_next | apply mem_ite3 | dsimp only

theorem execDebug_memIs {qq : List Host.Cell} (s : State) (h_s : MemIs qq s) :
    Out.MemIs qq (execDebug s) := by
  unfold execDebug
  dsimp -failIfUnchanged only
  repeat' with_reducible first | assumption | (apply mem_id; assumption) | apply State.tapLoad_memIs | apply mem_next | apply mem_ite3 | dsimp only

theorem execExtest_memIs {qq : List Host.Cell} (loaded : List Bool) (s : State) (h_s : MemIs qq s) :
    Out.MemIs qq (execExtest loaded s) := by
  unfold execExtest
  dsimp -failIfUnchanged only
  repeat' with_reducible first | assumption | (intro _) | apply State.tapLoad_memIs | apply mem_next | apply mem_ite3 | dsimp only | (apply mem_mk; dsimp only; apply mem_un)

theorem execExtestPulse_memIs {qq : List Host.Cell} (loaded : List Bool) (s : State) (h_s : MemIs qq s) :
    Out.MemIs qq (execExtestPulse loaded s) := by
  unfold execExtestPulse
  dsimp -failIfUnchanged only
  repeat' with_reducible first | assumption | (intro _) | apply State.tapLoad_memIs | apply mem_next | apply mem_ite3 | dsimp only | (apply mem_mk; dsimp only; apply mem_un)

theorem execExtestTrain_memIs {qq : List Host.Cell} (loaded : List Bool) (s : State) (h_s : MemIs qq s) :
    Out.MemIs qq (execExtestTrain loaded s) := by
  unfold execExtestTrain
  dsimp -failIfUnchanged only
  repeat' with_reducible first | assumption | (intro _) | apply State.tapLoad_memIs | apply mem_next | apply mem_ite3 | dsimp only | (apply mem_mk; dsimp only; apply mem_un)

theorem execGenkey_memIs {qq : List Host.Cell} (crc : Nat) (payload : List Byte) (s : State) (h_s : MemIs qq s) :
    Out.MemIs qq (execGenkey crc payload s) := by
  unfold execGenkey
  dsimp -failIfUnchanged only
  repeat' with_reducible first | assumption | (intro _) | apply State.setListener_memIs | apply State.frame_memIs | apply State.answer_memIs | apply State.rand_memIs | apply State.wr_memIs | apply mem_next | apply mem_ite3 | apply mem_ite | apply mem_ite1 | dsimp only | (apply mem_mk; dsimp only; apply mem_un) | split

theorem execHart12Start_memIs {qq : List Host.Cell} (pass : Nat) (s : State) (h_s : MemIs qq s) :
    Out.MemIs qq (execHart12Start pass s) := by
  unfold execHart12Start
  dsimp -failIfUnchanged only
  repeat' with_reducible first | assumption | apply State.bootRom_memIs | apply mem_next | apply mem_ite3 | apply mem_ite | dsimp only | split

theorem execHartRun_memIs {qq : List Host.Cell} (val : Word) (s : State) (h_s : MemIs qq s) :
    Out.MemIs qq (execHartRun val s) := by
  unfold execHartRun
  dsimp -failIfUnchanged only
  repeat' with_reducible first | assumption | (intro _) | apply State.hartRun_memIs | apply State.gated_memIs | apply mem_next | apply mem_ite3 | dsimp only

theorem execHighz_memIs {qq : List Host.Cell} (s : State) (h_s : MemIs qq s) :
    Out.MemIs qq (execHighz s) := by
  unfold execHighz
  dsimp -failIfUnchanged only
  repeat' with_reducible first | assumption | (apply mem_id; assumption) | apply State.tapLoad_memIs | apply mem_next | apply mem_ite3 | dsimp only

theorem execId_memIs {qq : List Host.Cell} (crc : Nat) (payload : List Byte) (s : State) (h_s : MemIs qq s) :
    Out.MemIs qq (execId crc payload s) := by
  unfold execId
  dsimp -failIfUnchanged only
  repeat' with_reducible first | assumption | (intro _) | apply State.frame_memIs | apply State.answer_memIs | apply mem_next | apply mem_ite3 | dsimp only

theorem execIdcode_memIs {qq : List Host.Cell} (s : State) (h_s : MemIs qq s) :
    Out.MemIs qq (execIdcode s) := by
  unfold execIdcode
  dsimp -failIfUnchanged only
  repeat' with_reducible first | assumption | (apply mem_id; assumption) | apply State.tapLoad_memIs | apply mem_next | apply mem_ite3 | dsimp only

theorem execListenerTimeout_memIs {qq : List Host.Cell} (s : State) (h_s : MemIs qq s) :
    Out.MemIs qq (execListenerTimeout s) := by
  unfold execListenerTimeout
  dsimp -failIfUnchanged only
  repeat' with_reducible first | assumption | (intro _) | apply State.bootImage_memIs | apply State.updSys_memIs | apply mem_next | apply mem_ite3 | apply mem_ite | dsimp only | (refine mem_pair (by assumption) ?_) | (refine mem_opt (by assumption) ?_) | (refine mem_opt1 (by assumption) ?_) | (apply mem_mk; dsimp only; apply mem_un) | split

theorem execOverflow_memIs {qq : List Host.Cell} (s : State) (h_s : MemIs qq s) :
    Out.MemIs qq (execOverflow s) := by
  unfold execOverflow
  dsimp -failIfUnchanged only
  repeat' with_reducible first | assumption | (intro _) | apply State.updSys_memIs | apply State.irq_memIs | apply State.wr_memIs | apply mem_next | apply mem_ite3 | apply mem_ite | dsimp only | (apply mem_mk; dsimp only; apply mem_un) | split

theorem execPutanchor_memIs {qq : List Host.Cell} (crc : Nat) (payload : List Byte) (s : State) (h_s : MemIs qq s) :
    Out.MemIs qq (execPutanchor crc payload s) := by
  unfold execPutanchor
  dsimp -failIfUnchanged only
  repeat' with_reducible first | assumption | (intro _) | apply State.setListener_memIs | apply State.frame_memIs | apply State.answer_memIs | apply mem_next | apply mem_ite3 | apply mem_ite | dsimp only | (apply mem_mk; dsimp only; apply mem_un) | split

theorem execPutcert_memIs {qq : List Host.Cell} (crc : Nat) (payload : List Byte) (s : State) (h_s : MemIs qq s) :
    Out.MemIs qq (execPutcert crc payload s) := by
  unfold execPutcert
  dsimp -failIfUnchanged only
  repeat' with_reducible first | assumption | (intro _) | apply State.setListener_memIs | apply State.frame_memIs | apply State.answer_memIs | apply mem_next | apply mem_ite3 | apply mem_ite | dsimp only | (apply mem_mk; dsimp only; apply mem_un) | split

theorem execPutident_memIs {qq : List Host.Cell} (crc : Nat) (payload : List Byte) (s : State) (h_s : MemIs qq s) :
    Out.MemIs qq (execPutident crc payload s) := by
  unfold execPutident
  dsimp -failIfUnchanged only
  repeat' with_reducible first | assumption | (intro _) | apply State.setListener_memIs | apply State.frame_memIs | apply State.answer_memIs | apply mem_next | apply mem_ite3 | apply mem_ite | dsimp only | (apply mem_mk; dsimp only; apply mem_un) | split

theorem execPutkey1_memIs {qq : List Host.Cell} (crc : Nat) (payload : List Byte) (s : State) (h_s : MemIs qq s) :
    Out.MemIs qq (execPutkey1 crc payload s) := by
  unfold execPutkey1
  dsimp -failIfUnchanged only
  repeat' with_reducible first | assumption | (intro _) | apply State.setListener_memIs | apply State.frame_memIs | apply State.answer_memIs | apply mem_next | apply mem_ite3 | apply mem_ite | dsimp only | (refine mem_pair (by assumption) ?_) | (refine mem_opt (by assumption) ?_) | (refine mem_opt1 (by assumption) ?_) | (apply mem_mk; dsimp only; apply mem_un) | split

theorem execSamplePreload_memIs {qq : List Host.Cell} (captured : List Bool) (loaded : List Bool) (s : State) (h_s : MemIs qq s) :
    Out.MemIs qq (execSamplePreload captured loaded s) := by
  unfold execSamplePreload
  dsimp -failIfUnchanged only
  repeat' with_reducible first | assumption | (intro _) | apply State.tapLoad_memIs | apply mem_next | apply mem_ite3 | dsimp only | (apply mem_mk; dsimp only; apply mem_un)

theorem execScan_memIs {qq : List Host.Cell} (s : State) (h_s : MemIs qq s) :
    Out.MemIs qq (execScan s) := by
  unfold execScan
  dsimp -failIfUnchanged only
  repeat' with_reducible first | assumption | (apply mem_id; assumption) | apply State.testState_memIs | apply State.tapLoad_memIs | apply mem_next | apply mem_ite3 | apply mem_ite | dsimp only | split

theorem execWdtKick_memIs {qq : List Host.Cell} (val : Word) (s : State) (h_s : MemIs qq s) :
    Out.MemIs qq (execWdtKick val s) := by
  unfold execWdtKick
  dsimp -failIfUnchanged only
  repeat' with_reducible first | assumption | (intro _) | apply State.wdtKick_memIs | apply State.gated_memIs | apply mem_next | apply mem_ite3 | dsimp only

theorem State.mbxSet_memIs {qq : List Host.Cell} (s : State) (val : Word) (h_s : MemIs qq s) :
    MemIs qq (State.mbxSet s val) := by
  unfold State.mbxSet
  dsimp -failIfUnchanged only
  repeat' with_reducible first | assumption | apply State.wr_memIs | dsimp only

theorem State.keyWrite_memIs {qq : List Host.Cell} (s : State) (b : Nat) (i : Nat) (p : Nat) (val : Word) (h_s : MemIs qq s) :
    MemIs qq (State.keyWrite s b i p val) := by
  unfold State.keyWrite
  dsimp -failIfUnchanged only
  repeat' with_reducible first | assumption | (intro _) | apply State.irq_memIs | apply State.updFwk_memIs | apply mem_ite | dsimp only | (apply mem_mk; dsimp only; apply mem_un) | split

theorem State.intForce_memIs {qq : List Host.Cell} (s : State) (base : Nat) (val : Word) (h_s : MemIs qq s) :
    MemIs qq (State.intForce s base val) := by
  unfold State.intForce
  dsimp -failIfUnchanged only
  repeat' with_reducible first | assumption | apply State.setReg_memIs | dsimp only

theorem State.dmaHalf_memIs {qq : List Host.Cell} (s : State) (c : Nat) (h_s : MemIs qq s) :
    MemIs qq (State.dmaHalf s c) := by
  unfold State.dmaHalf
  dsimp -failIfUnchanged only
  repeat' with_reducible first | assumption | (intro _) | apply State.updCh_memIs | apply State.wr_memIs | apply mem_ite | dsimp only | (apply mem_mk; dsimp only; apply mem_un) | split

theorem State.dmaNext_memIs {qq : List Host.Cell} (s : State) (c : Nat) (h_s : MemIs qq s) :
    MemIs qq (State.dmaNext s c) := by
  unfold State.dmaNext
  dsimp -failIfUnchanged only
  repeat' with_reducible first | assumption | apply State.dmaSettle_memIs | apply State.dmaEnd_memIs | apply State.parkCheck_memIs | dsimp only

theorem execDmaWriteDone_memIs {qq : List Host.Cell} (c : Nat) (s : State) (h_s : MemIs qq s) :
    Out.MemIs qq (execDmaWriteDone c s) := by
  unfold execDmaWriteDone
  dsimp -failIfUnchanged only
  repeat' with_reducible first | assumption | (intro _) | apply State.dmaNext_memIs | apply State.dmaHalf_memIs | apply State.updCh_memIs | apply mem_next | apply mem_ite3 | apply mem_ite | dsimp only | (refine mem_pair (by assumption) ?_) | (refine mem_opt (by assumption) ?_) | (refine mem_opt1 (by assumption) ?_) | (apply mem_mk; dsimp only; apply mem_un) | split

theorem execMqPush_memIs {qq : List Host.Cell} (core : Nat) (words : List Word) (val : Word) (s : State) (h_s : MemIs qq s) :
    Out.MemIs qq (execMqPush core words val s) := by
  unfold execMqPush
  dsimp -failIfUnchanged only
  repeat' with_reducible first | assumption | apply State.mqPush_memIs | apply mem_next | apply mem_ite3 | apply mem_ite | dsimp only | split

theorem execSprCsWrite_memIs {qq : List Host.Cell} (cls : Nat) (val : Word) (s : State) (h_s : MemIs qq s) :
    Out.MemIs qq (execSprCsWrite cls val s) := by
  unfold execSprCsWrite
  dsimp -failIfUnchanged only
  repeat' with_reducible first | assumption | (intro _) | apply State.csWrite_memIs | apply State.gated_memIs | apply mem_next | apply mem_ite3 | apply mem_ite | dsimp only | split

theorem execSprQpush_memIs {qq : List Host.Cell} (cls : Nat) (val : Word) (s : State) (h_s : MemIs qq s) :
    Out.MemIs qq (execSprQpush cls val s) := by
  unfold execSprQpush
  dsimp -failIfUnchanged only
  repeat' with_reducible first | assumption | (intro _) | apply State.qPush_memIs | apply State.gated_memIs | apply mem_next | apply mem_ite3 | apply mem_ite | dsimp only | split

theorem execExpertKeyWrite_memIs {qq : List Host.Cell} (blk : Nat) (inst : Nat) (page : Nat) (val : Word) (s : State) (h_s : MemIs qq s) :
    Out.MemIs qq (execExpertKeyWrite blk inst page val s) := by
  unfold execExpertKeyWrite
  dsimp -failIfUnchanged only
  repeat' with_reducible first | assumption | apply State.keyWrite_memIs | apply mem_next | apply mem_ite3 | apply mem_ite | dsimp only | split

theorem execIntForceWrite_memIs {qq : List Host.Cell} (blk : Nat) (inst : Nat) (page : Nat) (val : Word) (s : State) (h_s : MemIs qq s) :
    Out.MemIs qq (execIntForceWrite blk inst page val s) := by
  unfold execIntForceWrite
  dsimp -failIfUnchanged only
  repeat' with_reducible first | assumption | (intro _) | apply State.intForce_memIs | apply State.gated_memIs | apply mem_next | apply mem_ite3 | dsimp only

theorem execMbxDoorbellSet_memIs {qq : List Host.Cell} (val : Word) (s : State) (h_s : MemIs qq s) :
    Out.MemIs qq (execMbxDoorbellSet val s) := by
  unfold execMbxDoorbellSet
  dsimp -failIfUnchanged only
  repeat' with_reducible first | assumption | (intro _) | apply State.mbxSet_memIs | apply State.gated_memIs | apply mem_next | apply mem_ite3 | dsimp only

end Sys2Proof.Machine
end

