-- ==== Sys2Proof/Machine/Package.lean ====
section
/-! DEFINITION. The ball map of the package: which ball carries a signal and to which rail every other ball belongs. A ball is its row
index, 1 (A) to 36 (AV), and its column, 1 to 36. -/

namespace Sys2Proof.Machine

/-- The rails of Table 21-4. -/
inductive Rail
  | vddCore
  | vddSer
  | vdda
  | vddIo
  | vpp
  | vddDdr
  | vss
  deriving DecidableEq, Repr

/-- The ball of signal k of DDR channel c (R560): row index and column. -/
def ddrBall (c k : Nat) : Nat × Nat := (6 + k / 6, if c = 0 then 1 + k % 6 else 36 - k % 6)

/-- Runs of signal balls outside the DDR fields: row index, first and last column (Table 21-1). -/
def signalRuns : List (Nat × Nat × Nat) :=
  [(1, 10, 11), (1, 14, 15), (1, 18, 19), (1, 22, 23), (1, 26, 27), (2, 8, 29), (3, 8, 25), (3, 27, 28), (4, 8, 22), (5, 8, 23)]
    ++ [(32, 18, 18), (33, 8, 29), (34, 8, 29), (35, 8, 17), (35, 20, 29), (36, 9, 10), (36, 12, 13), (36, 15, 16), (36, 21, 22)]
    ++ [(36, 24, 25), (36, 27, 28)]

/-- The ball lies in a DDR field: channel 0 in columns 1 to 6, channel 1 in columns 31 to 36, rows F to AL (R560). -/
def inDdrField (row col : Nat) : Bool :=
  decide (6 ≤ row) && decide (row ≤ 30) && ((decide (1 ≤ col) && decide (col ≤ 6)) || (decide (31 ≤ col) && decide (col ≤ 36)))

/-- The ball carries a signal (R559; RSVD balls are signal balls). -/
def isSignalBall (row col : Nat) : Bool :=
  inDdrField row col || signalRuns.any (fun r => r.1 == row && decide (r.2.1 ≤ col) && decide (col ≤ r.2.2))

/-- The rail of a supply ball by the first row of Table 21-4 that matches it (R563); none for a signal ball. -/
def ballRail (row col : Nat) : Option Rail :=
  let side := col ≤ 7 ∨ 30 ≤ col
  let outer := row ≤ 5 ∨ 33 ≤ row
  if isSignalBall row col = true then none
  else if (col = 7 ∨ col = 30) ∧ 6 ≤ row ∧ row ≤ 30 then some (if row % 2 = 1 then .vddDdr else .vss)
  else if (row = 31 ∨ row = 32) ∧ side then some .vddDdr
  else if outer ∧ side then some .vss
  else if (row = 4 ∧ 23 ≤ col ∧ col ≤ 29) ∨ (row = 5 ∧ 24 ≤ col ∧ col ≤ 29) then some .vddIo
  else if outer then some .vss
  else if row = 6 ∨ row = 7 then some (if col % 2 = 0 then .vddSer else .vss)
  else if row = 30 ∧ (col = 14 ∨ col = 16 ∨ col = 22 ∨ col = 24) then some .vpp
  else if row = 30 then some (if col % 2 = 0 then .vddIo else .vss)
  else if row = 31 ∨ row = 32 then some (if col % 2 = 0 then .vdda else .vss)
  else some (if (row + col) % 2 = 0 then .vddCore else .vss)

/-- All 1,296 balls. -/
def allBalls : List (Nat × Nat) := (List.range 36).flatMap (fun r => (List.range 36).map (fun c => (r + 1, c + 1)))

/-- How many balls belong to a rail. -/
def railBalls (x : Rail) : Nat := (allBalls.filter (fun b => decide (ballRail b.1 b.2 = some x))).length

end Sys2Proof.Machine
end

