-- ==== Sys2Proof/Tests/Slice0.lean ====
section
/-! SUPPORT. The row's own tests: ill-formed commands that the check refuses, values that the spec or a published standard states, and for
every statement with hypotheses one witness of each clause. -/

set_option maxRecDepth 20000
set_option linter.unusedVariables false
set_option Elab.async false

namespace Sys2Proof

open Sys2Proof.Machine


/-- The block instances of Table 01-4. -/
def blocks : List (Nat × Nat) :=
  [(bSYS, 0), (bPWR, 0), (bCLK, 0), (bBEL, 0), (bEVR, 0), (bFLS, 0), (bCUP, 0), (bMEM, 0), (bDMA, 0), (bETH, 0), (bETH, 1), (bAOT, 0),
   (bDOM, 0), (bATB, 0), (bSPN, 0), (bSRV, 0), (bSRV, 1), (bCHN, 0), (bCHN, 1), (bLAN, 0), (bLAN, 1), (bCPL, 0), (bCPL, 1), (bSPR, 0),
   (bSPR, 1), (bSPR, 2), (bSPR, 3), (bFIX, 0), (bTWR, 0), (bTWR, 1), (bBTP, 0)]

/-- The registers of the block `e` that differ from reset when it is enabled and ON. -/
def onRegs (e : Nat × Nat) : List (Nat × Word) :=
  if fixedOn e.1 then []
  else if e.1 = bFLS ∨ e.1 = bCUP then [(pageBase e.1 e.2 0 + 12, 2)]
  else [(pageBase e.1 e.2 0 + 8, 1), (pageBase e.1 e.2 0 + 12, 2)]

/-- The machine after reset with every block enabled and ON, and every page unlocked. -/
def allOn : State := {
  regs := blocks.flatMap onRegs
  fwk := { unlocked := blocks.flatMap (fun e => (List.range (blkShape e.1).2).map (fun p => pageBase e.1 e.2 p)) } }

/-- The local angle of a Tower without skew has just reached `x` ac. -/
def atLocal (t : Tower) (x : Nat) (s : State) : State :=
  (s.updAtb (fun a => { a with angle := BitVec.ofNat 56 (x * 2 ^ 24) })).updAtbT t (fun a => { a with adv := 1 })

/-- A spire in RUN at a microword. -/
def atWord (sp : Spire) (w : Nat) (s : State) : State :=
  s.updSpire sp (fun p => { p with sstate := 1, pc := 0, cs := [(0, BitVec.ofNat 25 (csParity w * 2 ^ 24 + w))] })

/-- A packet engine in RUN. -/
def engUp (n : Nat) (s : State) : State := s.updSpire ⟨1, n⟩ (fun p => { p with sstate := 1 })

/-- Session 0 open, under AOT 3, its engine in RUN. -/
def openSess : State := (engUp 0 allOn).setSess 0 { st := 2, version := 3 }

/-- The tag of a packet under key 7. -/
def tagOf (typ : Nat) (h : AotHdr) (body : List Byte) : List Byte :=
  gcmTag 7 (aotNonce h.sid h.epoch (if typ = 8 then 1 else 0) h.seq) (hdrBytes h typ) body

/-- Session 0 with the key 7 for epochs of its number's parity. -/
def withKey (e : Nat) (s : State) : State := s.setGcm (gcmSlot 0 0 e) (some 7)

/-- A frame with its FCS. -/
def ethFrame (dst etype : Nat) (body : List Byte) : List Byte :=
  let l := beBytes 6 dst ++ beBytes 6 0 ++ beBytes 2 etype ++ padTo 46 body
  l ++ leBytes 4 (crcEth l)

/-- An IPv4 packet of 28 bytes to 10.0.0.1 that carries a UDP header without checksum. -/
def udpTo (udpPort : Nat) : List Byte :=
  let l := fun (c : Nat) =>
    beBytes 2 0x4500 ++ beBytes 2 28 ++ beBytes 4 0 ++ [64#8, 17#8] ++ beBytes 2 c ++ beBytes 4 0x0A000002 ++ beBytes 4 0x0A000001
  l (65535 - sum16 (l 0) % 65535) ++ beBytes 2 9 ++ beBytes 2 udpPort ++ beBytes 2 8 ++ beBytes 2 0

/-- A HELLO payload that offers AOT 3, with the base point of the curve. -/
def helloBody : List Byte := [8#8, 0#8] ++ beBytes 2 8192 ++ beBytes 32 5 ++ ecBytes ecG ++ List.replicate 19 0#8

/-- A command of session 0, in the machine with that session open. -/
def cmdIn (l : List Cmd) (s : State := openSess) : State := s.updObj (fun o => { o with cmds := l })

/-- DMA channel 5 in RUN, with a descriptor that moves 64 bytes, its first burst read. -/
def DMAW : State :=
  (allOn.wr (DMA_CH_STAT_CSTATE 5) 2).updDma (fun d => { d with
    ch := upd d.ch 5 { desc := [0, 64, 0x10000000, 0, 0x10001000, 0, 0, 0], bursts := [{ off := 0, len := 4 }] } })

/-- DMA channel 5 with word 7 of its last descriptor to be written. -/
def DMAB : State :=
  ((allOn.wr (DMA_CH_STAT_CSTATE 5) 2).setDescAddr 5 0x10000000).updDma (fun d => { d with
    ch := upd d.ch 5 { desc := [0xA0000000, 4, 0x10000000, 0, 0x10001000, 0, 0, 0], word7 := some 0x80000004 } })

/-- DMA channel 5 that reads its last descriptor again. -/
def DMAL : State :=
  (((allOn.wr (DMA_CH_STAT_CSTATE 5) 2).setDescAddr 5 0x10000000).setWords 0x10000000 [0x80000000]).updDma (fun d => { d with
    ch := upd d.ch 5 { desc := [0x80000000], reread := true } })

/-- Track sequencer A.0 takes a READ_RUN or WRITE_RUN of one sector in a shingled zone of head 0. -/
def runAt (op : Nat) : State :=
  let c : List Word := [BitVec.ofNat 32 (op * 2 ^ 24 + 0x100005), 0, 0x08000000, 0x10000000, 0x10001000, 0, 0x10002000, 0]
  ((allOn.wr (SRV_CFG_NHEADS 0) 12).setWords 64 [0x90008000, 0x7F0005C0, 0, 0x8000, 0x00100010, 0x00101001, 0, 0]).updSpire ⟨0, 0⟩ (fun p =>
    { p with sstate := 1, pc := op, running := some c, w := p.w.take 8 ++ c })

/-! ## Commands that the check refuses, one for each check of WellFormed -/

theorem test_wf_isSpire : (Instr.nop ⟨4, 0⟩).wf = false := by decide
theorem test_wf_isClass : (Instr.getang ⟨1, 0⟩).wf = false := by decide
theorem test_wf_isSprClass : (Instr.sprStart 4 0).wf = false := by decide
theorem test_wf_isComparator : (Instr.comparatorFire 128).wf = false := by decide
theorem test_wf_isPage : (Instr.softReset bLAN 2 0).wf = false := by decide
theorem test_wf_isSubtick : (Instr.currentSubtick .A 4).wf = false := by decide
theorem test_wf_isSlot : (Instr.slotCfgWrite .srvA 0 4 0).wf = false := by decide
theorem test_wf_isSlotKind : (Instr.slotCfgWrite .srvA 4 0 0).wf = false := by decide
theorem test_wf_isChannel : (Instr.descFetched 32).wf = false := by decide
theorem test_wf_isRequestLine : (Instr.dmaRequestPulse 32).wf = false := by decide
theorem test_wf_isInput : (Instr.inputRearm 4).wf = false := by decide
theorem test_wf_isSession : (Instr.hsTimeout 4096).wf = false := by decide
theorem test_wf_isTag : (Instr.stat 0 32).wf = false := by decide
theorem test_wf_isAppCore : (Instr.cupolaRead 8 0 0 false).wf = false := by decide
theorem test_wf_isChannelCore : (Instr.mqPush 4 [] 0).wf = false := by decide
theorem test_wf_isEthPort : (Instr.ethCntClr 2 0).wf = false := by decide
theorem test_wf_isPort : (Instr.ddrRead 16 0 0).wf = false := by decide
theorem test_wf_isPhysical : (Instr.ddrRead 0 0x10000000000 0).wf = false := by decide
theorem test_wf_isHead : (Instr.headRemoved .A 12).wf = false := by decide
theorem test_wf_isVault : (Instr.putDurable 256 0).wf = false := by decide
theorem test_wf_isCplSeq : (Instr.cplNak .A 16).wf = false := by decide
theorem test_wf_isIdleState : (Instr.idleTimerExpiry 6).wf = false := by decide
theorem test_wf_isRateEntry : (Instr.rateTokensFull 256).wf = false := by decide

/-! ## Values that the spec or a published standard states -/

/-- R25's own example: expert offset 0x104 of LAN page 2 of Tower B. -/
theorem test_pageBase : pageBase bLAN 1 2 + 0x104 = 0x21112104 := by decide

/-- R26, Table 01-4: LAN page 2 of Tower B answers, instance 2 does not. -/
theorem test_pageImpl : pageImpl bLAN 1 2 = true ∧ pageImpl bLAN 2 0 = false := by decide

/-- CRC-32C of "123456789", the check value published with the polynomial. -/
theorem test_crc32c : crc32c [0x31, 0x32, 0x33, 0x34, 0x35, 0x36, 0x37, 0x38, 0x39] = 0xE3069283 := by decide +kernel

/-- CRC-8 with polynomial 0x07 of "123456789", the published check value. -/
theorem test_crc8 : crc8 [0x31, 0x32, 0x33, 0x34, 0x35, 0x36, 0x37, 0x38, 0x39] = 0xF4 := by decide +kernel

/-- AES-256 of FIPS 197, appendix C.3. -/
theorem test_aes256 : aesEnc 0x000102030405060708090A0B0C0D0E0F101112131415161718191A1B1C1D1E1F 0x00112233445566778899AABBCCDDEEFF
      = 0x8EA2B7CA516745BFEAFC49904B496089
    ∧ aesDec 0x000102030405060708090A0B0C0D0E0F101112131415161718191A1B1C1D1E1F 0x8EA2B7CA516745BFEAFC49904B496089
      = 0x00112233445566778899AABBCCDDEEFF := by decide +kernel

/-- SHA-256 of "abc", the example of FIPS 180-4 (first four bytes BA7816BF). -/
theorem test_sha256 : (sha256 [0x61#8, 0x62#8, 0x63#8]).take 4 = [0xBA#8, 0x78#8, 0x16#8, 0xBF#8] := by decide +kernel

/-- The round constants and start values of FIPS 180-4: the first bits of the fractional parts of the cube and square roots of the first
primes. -/
theorem test_primes : (primesTo 312).length = 64 ∧ (primesTo 410).length = 80 := by decide +kernel
theorem test_hash256_k : (primesTo 312).zipIdx.foldl (fun acc e => acc + rootBits 3 32 e.1 * 2 ^ (32 * e.2)) 0 = hash256.k := by
  decide +kernel
theorem test_hash384_k : (primesTo 410).zipIdx.foldl (fun acc e => acc + rootBits 3 64 e.1 * 2 ^ (64 * e.2)) 0 = hash384.k := by
  decide +kernel
theorem test_hash_init : ((primesTo 410).take 8).zipIdx.foldl (fun acc e => acc + rootBits 2 32 e.1 * 2 ^ (32 * e.2)) 0 = hash256.init
    ∧ (((primesTo 410).take 16).drop 8).zipIdx.foldl (fun acc e => acc + rootBits 2 64 e.1 * 2 ^ (64 * e.2)) 0 = hash384.init := by
      decide +kernel

/-- Control store words of Table 10-17 with the parity bits it prints (R284). -/
theorem test_csParity : csParity 0x400100 = 1 ∧ csParity 0xB009A0 = 0 ∧ csParity 0xA00000 = 1 ∧ csParity 0xC14202 = 1
    ∧ csParity 0x553118 = 0 := by decide +kernel

/-- Table 14-6, step 1: flips of lanes 12 and 84 to 87 of one beat are errors of devices 3 and 21, within the x4 code. -/
theorem test_flip_devices : (symOf false [0x00F000000000000000001000] 0 3, symOf false [0x00F000000000000000001000] 0 21) = (1, 15)
    ∧ rsDecode false none ((List.range 4).map (syndrome false ((List.range 36).map (symOf false [0x00F000000000000000001000] 0))))
      = some [(3, 1), (21, 15)] := by decide +kernel

/-- Table 14-6, log word 1 of step 1: 0x1000_9583. -/
theorem test_logWord : 1 * 2 ^ 28 + logSyms [3, 21] = 0x10009583 := by decide

/-- Table 14-6, step 3: with device 21 marked, two further symbols are uncorrectable. -/
theorem test_marked_ue : rsDecode false (some 21) ((List.range 4).map
    (syndrome false ((List.range 36).map (symOf false [0x0F000000000000000000000000001000] 0)))) = none := by decide +kernel

/-- Chapter 21's own lookups: DDR_1_DQS_C_5 (k = 83) at Y31, DDR_1_ZQ (k = 144) at AL36, DDR_0_DQ_0 at F1; Y30 is VDD_DDR, Y29 VDD_CORE. -/
theorem test_ddrBall : ddrBall 1 83 = (19, 31) ∧ ddrBall 1 144 = (30, 36) ∧ ddrBall 0 0 = (6, 1)
    ∧ ballRail 19 30 = some .vddDdr ∧ ballRail 19 29 = some .vddCore := by decide

/-- Tables 21-3 and 21-5: 460 signal balls, and the count of each rail. -/
theorem test_ball_counts : (allBalls.filter (fun b => isSignalBall b.1 b.2)).length = 460 ∧ railBalls .vddCore = 242 ∧ railBalls .vddSer =
  22
    ∧ railBalls .vdda = 21 ∧ railBalls .vddIo = 20 ∧ railBalls .vpp = 4 ∧ railBalls .vddDdr = 52 ∧ railBalls .vss = 475 := by
  decide +kernel

/-- Table 18-2: the limits at the edges of its rows. -/
theorem test_multLimit : multLimit 800 = 128 ∧ multLimit 799 < 128 ∧ multLimit 720 = 96 := by decide

/-- R496 with the reset EXP of -12: 800 mV is 3,277 (0.8 * 4,096, to nearest). -/
theorem test_voutCode : voutCode 800 (-12) = 3277 := by decide

/-- The media key 77 of vault 1, wrapped under KEK_DEV 0 and no secret, unwraps; a wrapped value of zeros does not (Table 13-4). -/
theorem test_vaultKey : kwUnwrap (vwkOf 0 0 1 []) 8 (kwWrap (vwkOf 0 0 1 []) 8 77) = some 77 ∧ kwUnwrap (vwkOf 0 0 1 []) 8 0 = none := by
  decide +kernel

/-! ## Each clause with hypotheses has a state and operands that meet them -/

/-- Every hypothesis of FrameworkRows can hold. -/
theorem witness_FrameworkRows :
    (∃ (port addr : Nat) (w : Word) (s : State), regOff addr = 0x14 ∧ addr % 4 = 0 ∧ s.regServed port addr = true ∧ s.admits addr = true ∧
      s.sprEnv.steps = [])
    ∧ (∃ (port addr size : Nat) (w : Word) (s : State), inRegs addr = true ∧ ¬(size = 4 ∧ addr % 4 = 0 ∧ s.regServed port addr = true) ∧
      s.sprEnv.steps = [])
    ∧ (∃ (b i p : Nat) (s : State), s.served (pageBase b i p + 0x1C) = true ∧ ¬(b = bDOM ∧ s.on DOM_MSTATE_APPROVED = true))
    ∧ (∃ (b i p : Nat) (val : Word) (s : State), s.served (pageBase b i p + 0x1C) = true ∧ val ≠ 0xA5E7#32)
    ∧ (∃ (b i p : Nat) (val : Word) (s : State), s.admits (pageBase b i p + 0x18) = true)
    ∧ (∃ (b i : Nat) (s : State), s.admits (ctlAt b i 0) = true ∧ fixedOn b = false ∧ s.st b i = stSTOPPING ∧ s.isFaultStop b i = false)
    ∧ (∃ (b i : Nat) (s : State), s.admits (ctlAt b i 0) = true ∧ (b = bFIX ∨ b = bTWR ∨ b = bBTP ∨ b = bAOT ∨ b = bDMA ∨ b = bFLS) ∧ s.st
      b i = stOFF ∧ s.fwk.restart.contains (blkKey b i) = false ∧ s.bistHolds b = false)
    ∧ (∃ (b i : Nat) (s : State), s.admits (ctlAt b i 0) = true ∧ fixedOn b = false ∧ s.st b i = stFAULT)
    ∧ (∃ (b i : Nat) (s : State), s.admits (ctlAt b i 0) = true ∧ (b = bFIX ∨ b = bBTP) ∧ s.st b i = stON)
    ∧ (∃ (b i p : Nat) (s : State), s.admits (ctlAt b i p) = true ∧ fixedOn b = true) :=
  ⟨⟨(0), (0x20D00014), (0x12345678), (allOn), by decide +kernel⟩,
   ⟨(0), (0x20D00015), (4), (0x12345678), (allOn), by decide +kernel⟩,
   ⟨(bSYS), (0), (0), (allOn), by decide +kernel⟩,
   ⟨(bSYS), (0), (0), (0xA5E6#32), (allOn), by decide +kernel⟩,
   ⟨(bATB), (0), (0), (0x10000000), (allOn), by decide +kernel⟩,
   ⟨(bATB), (0), ((allOn.setSt bATB 0 stSTOPPING)), by decide +kernel⟩,
   ⟨(bFIX), (0), ((allOn.setSt bFIX 0 stOFF)), by decide +kernel⟩,
   ⟨(bATB), (0), ((allOn.setSt bATB 0 stFAULT)), by decide +kernel⟩,
   ⟨(bFIX), (0), (allOn), by decide +kernel⟩,
   ⟨(bSYS), (0), (1), (allOn), by decide +kernel⟩⟩

/-- Every hypothesis of FrameworkRows_2 can hold. -/
theorem witness_FrameworkRows_2 :
    (∃ (b i p : Nat) (s : State), s.admits (ctlAt b i p) = true ∧ fixedOn b = false ∧ b ≠ bMEM ∧ (s.st b i = stOFF ∨ s.st b i = stFAULT))
    ∧ (∃ (b i : Nat) (s : State), s.st b i = stSTARTING ∧ s.fwk.bistWait.contains (blkKey b i) = false ∧ (¬(b = bSPN ∨ b = bLAN ∨ b = bCPL
      ∨ b = bMEM ∨ b = bATB ∨ b = bSRV ∨ b = bFLS ∨ b = bDMA)))
    ∧ (∃ (b i : Nat) (s : State), s.st b i = stSTOPPING ∧ (¬(b = bSPN ∨ b = bLAN ∨ b = bCPL ∨ b = bBEL ∨ b = bSRV ∨ b = bMEM ∨ b = bAOT ∨
      b = bDMA ∨ b = bFLS ∨ b = bFIX)) ∧ s.fwk.softWait.contains (blkKey b i) = false ∧ s.isFaultStop b i = false ∧ s.rpend b i = false)
    ∧ (∃ (b i : Nat) (s : State), s.fwk.restart.contains (blkKey b i) = true ∧ (b = bFIX ∨ b = bTWR ∨ b = bBTP ∨ b = bAOT ∨ b = bDMA ∨ b =
      bFLS) ∧ s.bistHolds b = false)
    ∧ (∃ (val : Word) (s : State), s.admits SYS_MBX_DB_SET = true) :=
  ⟨⟨(bATB), (0), (1), ((allOn.setSt bATB 0 stOFF)), by decide +kernel⟩,
   ⟨(bFIX), (0), ((allOn.setSt bFIX 0 stSTARTING)), by decide +kernel⟩,
   ⟨(bATB), (0), ((allOn.setSt bATB 0 stSTOPPING)), by decide +kernel⟩,
   ⟨(bFIX), (0), ({ allOn with fwk := { allOn.fwk with restart := [blkKey bFIX 0] } }), by decide +kernel⟩,
   ⟨(0x81), (allOn), by decide +kernel⟩⟩

/-- Every hypothesis of AtbRows can hold. -/
theorem witness_AtbRows :
    (∃ (t : Tower) (ra rb : ServoIn) (dt : Nat) (s : State), s.demodOn t = true ∧ (s.atb.tw.get t).switchWedge = true)
    ∧ (∃ (t : Tower) (ra rb : ServoIn) (dt : Nat) (s : State), s.demodOn t = true ∧ (s.atb.tw.get t).switchWedge = false ∧ s.locked t =
      false ∧ s.isOn bATB 0 = false ∧ (s.srdrPick t ra rb).edge = none ∧ (s.atb.tw.get t).bad < 2)
    ∧ (∃ (t : Tower) (ra rb : ServoIn) (dt : Nat) (edge : BitVec 24) (s : State), s.demodOn t = true ∧ (s.atb.tw.get t).switchWedge =
      false ∧ s.locked t = false ∧ s.srcTower ≠ some t ∧ (s.srdrPick t ra rb).edge = some edge ∧ (s.atb.tw.get t).winOpen = true ∧
      indexParity (s.srdrPick t ra rb).index = true ∧ indexNext (s.atb.tw.get t) false (wedgeIndex (s.srdrPick t ra rb).index) = true ∧
      s.rd (goodFld t) < 7)
    ∧ (∃ (t : Tower) (ra rb : ServoIn) (dt : Nat) (edge : BitVec 24) (s : State), s.demodOn t = true ∧ (s.atb.tw.get t).switchWedge =
      false ∧ s.locked t = true ∧ s.isOn bATB 0 = true ∧ s.srcTower = some t ∧ s.on ATB_SRC_WG_INHIBIT = false ∧ 0 < dt ∧ (s.srdrPick t ra
      rb).edge = some edge ∧ (s.atb.tw.get t).winOpen = true ∧ indexParity (s.srdrPick t ra rb).index = true ∧ indexNext (s.atb.tw.get t)
      true (wedgeIndex (s.srdrPick t ra rb).index) = true ∧ (wedgeErr (wedgeIndex (s.srdrPick t ra rb).index) edge).natAbs ≤ 4096)
    ∧ (∃ (obs : BitVec 24) (s : State), s.isOn bATB 0 = true ∧ s.rd ATB_SRC_SRC = srcOBS ∧ s.on ATB_SRC_OBS_OK = true ∧ (s.obsErr
      obs).natAbs < 32768)
    ∧ (∃ (t : Tower) (s : State), s.isOn bATB 0 = true ∧ s.crossed t 0 32768 = true ∧ s.on (SRV_MODE_HEAD_PEND t.idx) = false ∧ s.on
      (SRV_MODE_SHOCK_HOLD t.idx) = false)
    ∧ (∃ (t : Tower) (s : State), s.isOn bATB 0 = true ∧ (s.atb.tw.get t).winOpen = false ∧ s.winDue t = true)
    ∧ (∃ (t : Tower) (s : State), (s.atb.tw.get t).winOpen = true ∧ (s.atb.tw.get t).winHeld = false ∧ s.winOver t = true ∧ (s.locked t =
      true ∨ (s.atb.tw.get t).samSeen = true))
    ∧ (∃ (t : Tower) (s : State), (s.atb.tw.get t).winOpen = true ∧ (s.atb.tw.get t).winHeld = false ∧ s.winOver t = true ∧ s.locked t =
      false ∧ (s.atb.tw.get t).samSeen = false)
    ∧ (∃ (t : Tower) (s : State), s.tickDue t 0 = true) :=
  ⟨⟨(.A), ({ edge := none, index := 3 }), ({ edge := some 9, index := 4 }), (4), (((allOn.setSt bSRV 0 stON).updAtbT .A (fun a =>
    { a with switchWedge := true }))), by decide +kernel⟩,
   ⟨(.B), ({ edge := none, index := 3 }), ({ edge := some 9, index := 4 }), (4), ((allOn.setSt bATB 0 stOFF)), by decide +kernel⟩,
   ⟨(.A), ({ edge := some 0x28180, index := 0x280 }), ({ edge := none, index := 0 }), (400000), (0x28180), (allOn.updAtbT .A (fun a =>
     { a with foundIdx := some 4, winOpen := true })), by decide +kernel⟩,
   ⟨(.B), ({ edge := some 9, index := 3 }), ({ edge := some 0x28100, index := 0x280 }), (400000), (0x28100), (((((allOn.wr
     ATB_SRC_WG_INHIBIT 0).wr ATB_SRC_LOCK_B 1).wr ATB_SRC_SRC 2).wr (SRV_CFG_SRDR 1) 1).updAtbT .B (fun a =>
     { a with refIdx := some 4, winOpen := true })), by decide +kernel⟩,
   ⟨(5), (((allOn.wr ATB_SRC_SRC srcOBS).wr ATB_SRC_OBS_OK 1)), by decide +kernel⟩,
   ⟨(.A), ((atLocal .A 32768 allOn)), by decide +kernel⟩,
   ⟨(.A), ((atLocal .A 64640 allOn)), by decide +kernel⟩,
   ⟨(.A), (((atLocal .A 2048 allOn).updAtbT .A (fun a => { a with winOpen := true, samSeen := true }))), by decide +kernel⟩,
   ⟨(.A), (((atLocal .A 2048 allOn).updAtbT .A (fun a => { a with winOpen := true }))), by decide +kernel⟩,
   ⟨(.B), (((atLocal .B 32768 allOn).wr (ATB_TICK_T_PHASE 1) 0)), by decide +kernel⟩⟩

/-- Every hypothesis of AtbRows_2 can hold. -/
theorem witness_AtbRows_2 :
    (∃ (t : Tower) (sub : Nat) (s : State), s.tickDue t sub = true ∧ s.on (ATB_TICK_T_SUB_EN t.idx) = true ∧ 1 ≤ sub ∧ sub ≤ 3) :=
  ⟨(.B), (3), ((((atLocal .B 24576 allOn).wr (ATB_TICK_T_PHASE 1) 0).wr (ATB_TICK_T_SUB_EN 1) 1)), by decide +kernel⟩

/-- Every hypothesis of ComparatorRows can hold. -/
theorem witness_ComparatorRows :
    (∃ (n : Nat) (tgt ctl : Word) (s : State), n < 128 ∧ s.admits (ATB_CMP_CTL n) = true ∧ s.cmpArmed n = true)
    ∧ (∃ (n : Nat) (tgt ctl : Word) (s : State), n < 128 ∧ s.admits (ATB_CMP_CTL n) = true ∧ s.cmpArmed n = false ∧ s.isOn bATB 0 = true ∧
      fieldOf ctl 12 4 < 12 ∧ fieldOf ctl 16 8 = s.epoch ∧ 2 ^ 31 ≤ (s.localAngle (cmpTower n) + 2 ^ 32 - tgt.toNat) % 2 ^ 32)
    ∧ (∃ (n : Nat) (tgt ctl : Word) (s : State), n < 128 ∧ s.admits (ATB_CMP_CTL n) = true ∧ s.cmpArmed n = false ∧ s.isOn bATB 0 = true ∧
      12 ≤ fieldOf ctl 12 4)
    ∧ (∃ (n : Nat) (ctl : Word) (s : State), n < 128 ∧ s.admits (ATB_CMP_CTL n) = true ∧ ¬(s.isOn bATB 0 = true ∧ s.cmpArmed n = true ∧
      s.cmpReached n = true))
    ∧ (∃ (n : Nat) (ctl : Word) (s : State), n < 128 ∧ s.admits (ATB_CMP_CTL n) = true ∧ s.isOn bATB 0 = true ∧ s.cmpArmed n = true ∧
      s.cmpReached n = true ∧ s.rd (ATB_CMP_CTL_ACTION n) = 10)
    ∧ (∃ (n : Nat) (s : State), n < 128 ∧ s.isOn bATB 0 = true ∧ s.cmpArmed n = true ∧ s.cmpReached n = true ∧ s.on (ATB_CMP_CTL_REPEAT n)
      = false ∧ s.rd (ATB_CMP_CTL_ACTION n) = 10)
    ∧ (∃ (s : State), s.admits ATB_CMP_FLUSH = true)
    ∧ (∃ (s : State), s.admits ATB_CMP_FLUSH = true)
    ∧ (∃ (t : Tower) (val : Word) (s : State), s.admits (ATB_SKEW_T t.idx) = true)
    ∧ (∃ (val : Word) (s : State), s.admits ATB_OBS_OFFSET = true) :=
  ⟨⟨(127), (5), (7), ((allOn.wr (ATB_CMP_CTL_ARM 127) 1)), by decide +kernel⟩,
   ⟨(127), (0x10000000), (0x3000), (allOn), by decide +kernel⟩,
   ⟨(0), (0x10000000), (0xC000), (allOn), by decide +kernel⟩,
   ⟨(0), (7), (allOn), by decide +kernel⟩,
   ⟨(64), (7), (((allOn.wr (ATB_CMP_CTL_ARM 64) 1).wr (ATB_CMP_CTL_ACTION 64) 10)), by decide +kernel⟩,
   ⟨(64), (((allOn.wr (ATB_CMP_CTL_ARM 64) 1).wr (ATB_CMP_CTL_ACTION 64) 10)), by decide +kernel⟩,
   ⟨(allOn), by decide +kernel⟩,
   ⟨((allOn.wr (ATB_CMP_CTL_ARM 64) 1)), by decide +kernel⟩,
   ⟨(.B), (0x1234), (allOn), by decide +kernel⟩,
   ⟨(0x1234), (allOn), by decide +kernel⟩⟩

/-- Every hypothesis of SpindleStartRows can hold. -/
theorem witness_SpindleStartRows :
    (∃ (s : State), s.pmode = pLISTEN ∧ s.spn.exit = 0 ∧ s.spn.crossings.length < 3)
    ∧ (∃ (s : State), s.pmode = pLISTEN ∧ s.spn.exit = 0 ∧ 3 ≤ s.spn.crossings.length ∧ 0 < meanN s.spn.crossings.dropLast * s.poles)
    ∧ (∃ (est : SpnEst) (s : State), s.pmode = pLISTEN ∧ s.spn.shutPend = false ∧ s.spn.ocRun < 15 ∧ s.spn.exit = 1 ∧
      s.spn.crossings.length < 3)
    ∧ (∃ (est : SpnEst) (s : State), s.pmode = pLISTEN ∧ s.spn.shutPend = false ∧ s.spn.ocRun < 15 ∧ s.spn.exit = 1 ∧ 3 ≤
      s.spn.crossings.length ∧ s.spn.crossFwd = false)
    ∧ (∃ (est : SpnEst) (s : State), s.pmode = pLISTEN ∧ s.spn.shutPend = false ∧ s.spn.ocRun < 15 ∧ s.spn.exit = 1 ∧ 3 ≤
      s.spn.crossings.length ∧ s.spn.crossFwd = true ∧ s.atLeastPct 5 = true)
    ∧ (∃ (s : State), s.pmode = pBRAKE_REV ∧ s.spn.exit = 0)
    ∧ (∃ (est : SpnEst) (s : State), s.pmode = pBRAKE_REV ∧ s.spn.shutPend = false ∧ s.spn.ocRun < 15 ∧ s.spn.exit = 2)
    ∧ (∃ (s : State), s.pmode = pIPS ∧ s.spn.exit = 0 ∧ s.rd SPN_START_CFG_IPS_DIFF ≤ 50)
    ∧ (∃ (s : State), s.pmode = pIPS ∧ s.spn.exit = 0 ∧ 50 < s.rd SPN_START_CFG_IPS_DIFF ∧ s.rd SPN_IPS_RES_ATTEMPTS < 2)
    ∧ (∃ (s : State), s.pmode = pIPS ∧ s.spn.exit = 0 ∧ 50 < s.rd SPN_START_CFG_IPS_DIFF ∧ s.rd SPN_IPS_RES_ATTEMPTS = 2) :=
  ⟨⟨((allOn.wr SPN_MODE_MODE pLISTEN)), by decide +kernel⟩,
   ⟨(((allOn.wr SPN_MODE_MODE pLISTEN).updSpn (fun x => { x with crossings := [1000000, 1000000, 1000000], crossFwd := false }))), by
     decide +kernel⟩,
   ⟨(⟨0, 0, 0, 0, 0⟩), (((allOn.wr SPN_MODE_MODE pLISTEN).updSpn (fun x => { x with exit := 1 }))), by decide +kernel⟩,
   ⟨(⟨0, 0, 0, 0, 0⟩), (((allOn.wr SPN_MODE_MODE pLISTEN).updSpn (fun x =>
     { x with exit := 1, crossings := [1000000, 1000000, 1000000], crossFwd := false }))), by decide +kernel⟩,
   ⟨(⟨0, 0, 0, 0, 0⟩), ((((allOn.wr SPN_MODE_MODE pLISTEN).wr SPN_SPEED_SPEED 7200000).updSpn (fun x =>
     { x with exit := 1, crossings := [1000000, 1000000, 1000000], crossFwd := true }))), by decide +kernel⟩,
   ⟨((allOn.wr SPN_MODE_MODE pBRAKE_REV)), by decide +kernel⟩,
   ⟨(⟨0, 0, 0, 0, 0⟩), (((allOn.wr SPN_MODE_MODE pBRAKE_REV).updSpn (fun x => { x with exit := 2 }))), by decide +kernel⟩,
   ⟨(((allOn.wr SPN_MODE_MODE pIPS).wr SPN_START_CFG_IPS_DIFF 50)), by decide +kernel⟩,
   ⟨(((allOn.wr SPN_MODE_MODE pIPS).wr SPN_START_CFG_IPS_DIFF 51)), by decide +kernel⟩,
   ⟨((((allOn.wr SPN_MODE_MODE pIPS).wr SPN_START_CFG_IPS_DIFF 51).wr SPN_IPS_RES_ATTEMPTS 2)), by decide +kernel⟩⟩

/-- Every hypothesis of SpindleStartRows_2 can hold. -/
theorem witness_SpindleStartRows_2 :
    (∃ (est : SpnEst) (s : State), s.pmode = pIPS ∧ s.spn.shutPend = false ∧ s.spn.ocRun < 15 ∧ s.spn.exit = 3)
    ∧ (∃ (est : SpnEst) (s : State), s.pmode = pIPS ∧ s.spn.shutPend = false ∧ s.spn.ocRun < 15 ∧ s.spn.exit = 4)
    ∧ (∃ (s : State), s.pmode = pALIGN ∧ s.spn.exit = 0)
    ∧ (∃ (est : SpnEst) (s : State), s.pmode = pALIGN ∧ s.spn.shutPend = false ∧ s.spn.ocRun < 15 ∧ s.spn.exit = 5)
    ∧ (∃ (est : SpnEst) (s : State), s.pmode = pRAMP ∧ s.spn.shutPend = false ∧ s.spn.ocRun < 15 ∧ s.spn.skip19 = false ∧ est.residual ≤
      s.rd SPN_OBS_LIM_LIMIT ∧ 7 ≤ s.spn.residOk ∧ s.atLeastPct 5 = true)
    ∧ (∃ (s : State), s.pmode = pRAMP ∧ s.spn.exit = 0)
    ∧ (∃ (est : SpnEst) (s : State), s.pmode = pRAMP ∧ s.spn.shutPend = false ∧ s.spn.ocRun < 15 ∧ s.atLeastPct 5 = false ∧ s.spn.exit = 6)
    ∧ (∃ (s : State), s.pmode = pBRAKE_STOP ∧ s.spn.exit = 0)
    ∧ (∃ (est : SpnEst) (s : State), s.pmode = pBRAKE_STOP ∧ s.spn.exit = 9 ∧ s.spn.holdup = false ∧ s.st bSPN 0 = stSTOPPING ∧
      s.isFaultStop bSPN 0 = false ∧ s.rpend bSPN 0 = false ∧ s.fwk.softWait.contains (blkKey bSPN 0) = false)
    ∧ (∃ (s : State), s.pmode = pFAULT_STOP ∧ s.anyLoaded = false ∧ s.st bSPN 0 = stSTOPPING ∧ s.isFaultStop bSPN 0 = true ∧
      s.fwk.softWait.contains (blkKey bSPN 0) = false) :=
  ⟨⟨(⟨0, 0, 0, 0, 0⟩), ((((allOn.wr SPN_MODE_MODE pIPS).wr SPN_IPS_RES_SECTOR 3).updSpn (fun x => { x with exit := 3 }))), by
    decide +kernel⟩,
   ⟨(⟨0, 0, 0, 0, 0⟩), (((allOn.wr SPN_MODE_MODE pIPS).updSpn (fun x => { x with exit := 4 }))), by decide +kernel⟩,
   ⟨((allOn.wr SPN_MODE_MODE pALIGN)), by decide +kernel⟩,
   ⟨(⟨0, 0, 0, 0, 0⟩), (((allOn.wr SPN_MODE_MODE pALIGN).updSpn (fun x => { x with exit := 5 }))), by decide +kernel⟩,
   ⟨(⟨0, 0, 0, 0, 0⟩), ((((allOn.wr SPN_MODE_MODE pRAMP).wr SPN_SPEED_SPEED 7200000).updSpn (fun x => { x with residOk := 7 }))), by
     decide +kernel⟩,
   ⟨((allOn.wr SPN_MODE_MODE pRAMP)), by decide +kernel⟩,
   ⟨(⟨0, 0, 0, 0, 0⟩), (((allOn.wr SPN_MODE_MODE pRAMP).updSpn (fun x => { x with exit := 6 }))), by decide +kernel⟩,
   ⟨((allOn.wr SPN_MODE_MODE pBRAKE_STOP)), by decide +kernel⟩,
   ⟨(⟨0, 0, 0, 0, 0⟩), ((((allOn.wr SPN_MODE_MODE pBRAKE_STOP).setSt bSPN 0 stSTOPPING).updSpn (fun x => { x with exit := 9 }))), by
     decide +kernel⟩,
   ⟨((((allOn.wr SPN_MODE_MODE pFAULT_STOP).setSt bSPN 0 stSTOPPING).updFwk (fun y => { y with faultStop := [blkKey bSPN 0] }))), by
     decide +kernel⟩⟩

/-- Every hypothesis of SpindleRunRows can hold. -/
theorem witness_SpindleRunRows :
    (∃ (est : SpnEst) (s : State), s.pmode = pOFF)
    ∧ (∃ (est : SpnEst) (s : State), s.pmode = pRUN ∧ s.spn.shutPend = false ∧ s.spn.ocRun < 15 ∧ s.spn.exit = 0 ∧ s.spn.skip19 = false ∧
      est.residual ≤ s.rd SPN_OBS_LIM_LIMIT ∧ 7 ≤ s.spn.residOk ∧ s.on ATB_SRC_OBS_OK = true ∧ s.spn.first = false)
    ∧ (∃ (est : SpnEst) (s : State), s.pmode = pIPS ∧ s.spn.shutPend = false ∧ s.spn.ocRun < 15 ∧ s.spn.exit = 0 ∧ s.on ATB_SRC_OBS_OK =
      false)
    ∧ (∃ (est : SpnEst) (s : State), s.pmode = pRUN ∧ s.spn.shutPend = true ∧ s.anyLoaded = false ∧ s.atLeastPct 2 = true)
    ∧ (∃ (est : SpnEst) (s : State), s.pmode = pSLEW ∧ s.spn.shutPend = false ∧ s.spn.ocCut = true ∧ 15 ≤ s.spn.ocRun)
    ∧ (∃ (est : SpnEst) (s : State), s.pmode = pRUN ∧ s.spn.shutPend = false ∧ s.spn.ocRun < 15 ∧ s.spn.skip19 = false ∧ s.rd
      SPN_OBS_LIM_LIMIT < est.residual ∧ 7 ≤ s.spn.residBad)
    ∧ (∃ (est : SpnEst) (s : State), s.pmode = pSLEW ∧ s.spn.shutPend = false ∧ s.spn.ocRun < 15 ∧ s.spn.residBad < 7 ∧ s.on
      SPN_MODE_AT_SPEED = true ∧ ¬ s.st bSPN 0 = stSTARTING)
    ∧ (∃ (est : SpnEst) (s : State), s.pmode = pCOAST ∧ s.spn.shutPend = false ∧ s.spn.ocRun < 15 ∧ s.spn.exit = 7)
    ∧ (∃ (est : SpnEst) (s : State), s.pmode = pCOAST ∧ s.spn.shutPend = false ∧ s.spn.ocRun < 15 ∧ s.spn.exit = 8)
    ∧ (∃ (j : Nat) (iu iv iw : Int) (s : State), ¬ s.pmode = pOFF ∧ j < 20 ∧ s.convSkipped j = true) :=
  ⟨⟨(⟨0, 0, 0, 0, 0⟩), (allOn), by decide +kernel⟩,
   ⟨(⟨0, 0, 0, 0, 0⟩), ((((allOn.wr SPN_MODE_MODE pRUN).wr ATB_SRC_OBS_OK 1).updSpn (fun x => { x with first := false, residOk := 8 }))),
     by decide +kernel⟩,
   ⟨(⟨0, 0, 0, 0, 0⟩), ((allOn.wr SPN_MODE_MODE pIPS)), by decide +kernel⟩,
   ⟨(⟨0, 0, 0, 0, 0⟩), ((((allOn.wr SPN_MODE_MODE pRUN).wr SPN_SPEED_SPEED 7200000).updSpn (fun x => { x with shutPend := true }))), by
     decide +kernel⟩,
   ⟨(⟨0, 0, 0, 0, 0⟩), (((allOn.wr SPN_MODE_MODE pSLEW).updSpn (fun x => { x with ocCut := true, ocRun := 15 }))), by decide +kernel⟩,
   ⟨(⟨0, 0, 0, 70000, 0⟩), ((((allOn.wr SPN_MODE_MODE pRUN).wr SPN_OBS_LIM_LIMIT 5).updSpn (fun x => { x with residBad := 7 }))), by
     decide +kernel⟩,
   ⟨(⟨0, 0, 0, 0, 0⟩), (((allOn.wr SPN_MODE_MODE pSLEW).wr SPN_MODE_AT_SPEED 1)), by decide +kernel⟩,
   ⟨(⟨0, 0, 0, 0, 0⟩), (((allOn.wr SPN_MODE_MODE pCOAST).updSpn (fun x => { x with exit := 7 }))), by decide +kernel⟩,
   ⟨(⟨0, 0, 0, 0, 0⟩), (((allOn.wr SPN_MODE_MODE pCOAST).updSpn (fun x => { x with exit := 8 }))), by decide +kernel⟩,
   ⟨(19), (0), (0), (0), (((allOn.wr SPN_MODE_MODE pRUN).updSpn (fun x => { x with edges := [4700] }))), by decide +kernel⟩⟩

/-- Every hypothesis of SpindleRunRows_2 can hold. -/
theorem witness_SpindleRunRows_2 :
    (∃ (j : Nat) (iu iv iw : Int) (s : State), ¬ s.pmode = pOFF ∧ j < 20 ∧ s.convSkipped j = false ∧ s.spn.ocCut = false ∧ s.rd
      SPN_ILIM_LIMIT < max iu.natAbs (max iv.natAbs iw.natAbs))
    ∧ (∃ (iu iv iw : Int) (s : State), ¬ s.pmode = pOFF ∧ s.convSkipped 19 = false ∧ max iu.natAbs (max iv.natAbs iw.natAbs) ≤ s.rd
      SPN_ILIM_LIMIT)
    ∧ (∃ (j : Nat) (iu iv iw : Int) (s : State), ¬ s.pmode = pOFF ∧ j < 19 ∧ s.convSkipped j = false ∧ max iu.natAbs (max iv.natAbs
      iw.natAbs) ≤ s.rd SPN_ILIM_LIMIT)
    ∧ (∃ (fwd : Bool) (amp interval sinceEdge : Nat) (angle : BitVec 24) (s : State), s.pmode = pLISTEN ∧ s.rd SPN_START_CFG_BEMF_MIN ≤
      amp ∧ s.spn.crossFwd = fwd)
    ∧ (∃ (fwd : Bool) (amp interval sinceEdge : Nat) (angle : BitVec 24) (s : State), s.pmode = pCOAST ∧ sinceEdge < 2 * s.exclusion)
    ∧ (∃ (fwd : Bool) (amp interval sinceEdge : Nat) (angle : BitVec 24) (s : State), s.pmode = pCOAST ∧ s.spn.exit = 0 ∧ 2 * s.exclusion
      ≤ sinceEdge ∧ amp < s.rd SPN_START_CFG_BEMF_MIN)
    ∧ (∃ (fwd : Bool) (amp interval sinceEdge : Nat) (angle : BitVec 24) (s : State), s.pmode = pCOAST ∧ s.spn.exit = 0 ∧ 2 * s.exclusion
      ≤ sinceEdge ∧ s.rd SPN_START_CFG_BEMF_MIN ≤ amp ∧ fwd = true ∧ s.spn.crossFwd = true ∧ 3 ≤ s.spn.crossings.length)
    ∧ (∃ (s : State), s.pmode = pCOAST ∧ s.spn.exit = 0)
    ∧ (∃ (p : Nat) (s : State), obsMode s.pmode = true ∧ 0 < p * s.poles)
    ∧ (∃ (angle : BitVec 24) (n : Nat) (s : State), ¬ s.syncDiv = 0 ∧ s.pmode = pRUN ∧ s.on SPN_MODE_SYNC_LOCKED = false ∧ s.spn.syncRun <
      15) :=
  ⟨⟨(0), (-70000), (0), (0), ((allOn.wr SPN_MODE_MODE pRUN)), by decide +kernel⟩,
   ⟨(0), (-7), (3), (((allOn.wr SPN_MODE_MODE pRUN).wr SPN_ILIM_LIMIT 9)), by decide +kernel⟩,
   ⟨(7), (0), (-7), (3), (((allOn.wr SPN_MODE_MODE pRUN).wr SPN_ILIM_LIMIT 9)), by decide +kernel⟩,
   ⟨(true), (65535), (7), (0), (9), ((allOn.wr SPN_MODE_MODE pLISTEN)), by decide +kernel⟩,
   ⟨(true), (65535), (7), (0), (9), ((allOn.wr SPN_MODE_MODE pCOAST)), by decide +kernel⟩,
   ⟨(true), (0), (7), (10000), (9), (((allOn.wr SPN_MODE_MODE pCOAST).wr SPN_START_CFG_BEMF_MIN 5)), by decide +kernel⟩,
   ⟨(true), (65535), (1000000), (10000), (9), (((allOn.wr SPN_MODE_MODE pCOAST).updSpn (fun x =>
     { x with crossFwd := true, crossings := [1000000, 1000000, 1000000] }))), by decide +kernel⟩,
   ⟨((allOn.wr SPN_MODE_MODE pCOAST)), by decide +kernel⟩,
   ⟨(1000000), ((allOn.wr SPN_MODE_MODE pRUN)), by decide +kernel⟩,
   ⟨(5), (8333333), ((((allOn.wr SPN_MODE_MODE pRUN).wr SPN_SYNC_CFG_EN 1).wr SPN_SYNC_CFG_DIV 1)), by decide +kernel⟩⟩

/-- Every hypothesis of SpindleRunRows_3 can hold. -/
theorem witness_SpindleRunRows_3 :
    (∃ (angle : BitVec 24) (n : Nat) (s : State), ¬ s.syncDiv = 0 ∧ s.pmode = pRUN ∧ s.on SPN_MODE_SYNC_LOCKED = false ∧ 15 ≤
      s.spn.syncRun ∧ (s.syncErr angle).natAbs ≤ 23302 ∧ 0 < n ∧ (((60000000000000 / (s.syncDiv * n) : Nat) : Int) - s.target).natAbs *
      10000 ≤ s.target * s.pull)
    ∧ (∃ (angle : BitVec 24) (n : Nat) (s : State), s.on SPN_MODE_SYNC_LOCKED = true)
    ∧ (∃ (s : State), s.on SPN_MODE_SYNC_LOCKED = true)
    ∧ (∃ (s : State), s.spn.measuring = true ∧ 16 * s.poles ≤ s.spn.revs ∧ s.sig.all (fun x => x == 0) = true ∧ s.isOn bATB 0 = false)
    ∧ (∃ (s : State), s.spn.measuring = true ∧ 16 * s.poles ≤ s.spn.revs ∧ s.sig.all (fun x => x == 0) = false ∧ ((List.range s.poles).map
      (markScore s.sig s.markMeas)).all (fun x => decide (x ≤ 0)) = true)
    ∧ (∃ (val : Word) (s : State), s.admits SPN_CFG = true ∧ fieldOf val 0 2 = s.rd SPN_CFG_TARGET ∧ fieldOf val 4 1 = s.rd SPN_CFG_DIR ∧
      ¬ fieldOf val 8 4 = s.poles ∧ 4 ≤ fieldOf val 8 4 ∧ fieldOf val 8 4 ≤ 12 ∧ s.st bSPN 0 = stOFF)
    ∧ (∃ (val : Word) (s : State), s.admits SPN_CFG = true ∧ fieldOf val 0 2 = s.rd SPN_CFG_TARGET ∧ ¬ fieldOf val 4 1 = s.rd SPN_CFG_DIR
      ∧ fieldOf val 8 4 = s.poles ∧ s.atLeastPct 2 = true)
    ∧ (∃ (val : Word) (s : State), s.admits SPN_GATE_FORCE = true ∧ legClash (fieldOf val 0 6) = true)
    ∧ (∃ (val : Word) (s : State), s.admits SPN_GATE_FORCE = true ∧ legClash (fieldOf val 0 6) = false ∧ ¬ s.pmode = pOFF) :=
  ⟨⟨(5), (8333333), (((((allOn.wr SPN_MODE_MODE pRUN).wr SPN_SYNC_CFG_EN 1).wr SPN_SYNC_CFG_DIV 1).updSpn (fun x =>
    { x with syncRun := 15 }))), by decide +kernel⟩,
   ⟨(0), (0), ((allOn.wr SPN_MODE_SYNC_LOCKED 1)), by decide +kernel⟩,
   ⟨((allOn.wr SPN_MODE_SYNC_LOCKED 1)), by decide +kernel⟩,
   ⟨((((allOn.setSt bATB 0 stOFF).wr SPN_CFG_POLE_PAIRS 6).updSpn (fun x =>
     { x with measuring := true, revs := 96, sums := [1, 2, 3, 4, 5, 6] }))), by decide +kernel⟩,
   ⟨((((allOn.wr (SPN_MARK_SIG_SIG 0) 5).wr SPN_CFG_POLE_PAIRS 6).updSpn (fun x =>
     { x with measuring := true, revs := 96, sums := [7, 7, 7, 7, 7, 7] }))), by decide +kernel⟩,
   ⟨(0xC00), (((allOn.setSt bSPN 0 stOFF).wr SPN_CFG_TARGET 0)), by decide +kernel⟩,
   ⟨(0xC10), ((((allOn.wr SPN_SPEED_SPEED 7200000).wr SPN_CFG_TARGET 0).wr SPN_CFG_POLE_PAIRS 12)), by decide +kernel⟩,
   ⟨(3), (allOn), by decide +kernel⟩,
   ⟨(0x80000001), ((allOn.wr SPN_MODE_MODE pRUN)), by decide +kernel⟩⟩

/-- Every hypothesis of EngineRows can hold. -/
theorem witness_EngineRows :
    (∃ (e : Eng) (s : State), (s.eng e).arrived = {})
    ∧ (∃ (e : Eng) (x : Nat) (s : State), (s.eng e).arrived = { t0 := some x } ∧ s.rd (engEstate e) = 1 ∧ s.rd (engEn e) = 0 ∧ s.on
      (engSwapPend e) = false ∧ s.on (profBusy e) = false ∧ (s.eng e).due = [])
    ∧ (∃ (e : Eng) (inp : EngIn) (q : Nat) (s : State), (s.eng e).due = [q] ∧ s.rd (engEstate e) = 1 ∧ s.slotOn e q = false ∧ (s.eng
      e).waiting = [])
    ∧ (∃ (e : Eng) (inp : EngIn) (q q2 : Nat) (s : State), (s.eng e).due = [q, q2] ∧ s.rd (engEstate e) = 1 ∧ s.slotOn e q = true ∧ (s.eng
      e).badPar = [])
    ∧ (∃ (e : Eng) (s : State), s.admits (engPage e.idx 2 + 0x28) = true ∧ ¬ s.rd (engEn e) = 0)
    ∧ (∃ (e : Eng) (s : State), s.admits (engPage e.idx 2 + 0x28) = true ∧ s.rd (engEn e) = 0)
    ∧ (∃ (e : Eng) (s : State), s.admits (engPage e.idx 2 + 0x28) = true ∧ (s.eng e).held = true ∧ s.engBlkSt e = stON)
    ∧ (∃ (e : Eng) (s : State), s.admits (engPage e.idx 2 + 0x28) = true)
    ∧ (∃ (e : Eng) (val : Word) (s : State), s.admits (engPage e.idx 2 + 0x24) = true ∧ fieldOf val 0 4 = 0 ∧ s.on (engSwapPend e) = false)
    ∧ (∃ (e : Eng) (kind n : Nat) (val : Word) (s : State), kind < 4 ∧ n < 4 ∧ s.admits (slotReg e kind n).1 = true ∧ s.slotOn e n =
      false) :=
  ⟨⟨(.srvB), (allOn), by decide +kernel⟩,
   ⟨(.spn), (9), (((allOn.updEng .spn (fun x => { x with arrived := { t0 := some 9 } })).wr (engEstate .spn) 1)), by decide +kernel⟩,
   ⟨(.srvA), (⟨0, 0, 0, 0⟩), (3), (((allOn.updEng .srvA (fun x => { x with due := [3] })).wr (engEstate .srvA) 1)), by decide +kernel⟩,
   ⟨(.srvA), (⟨0, 0, 0, 0⟩), (0), (3), (((allOn.updEng .srvA (fun x => { x with due := [0, 3] })).wr (engEstate .srvA) 1).wr (engEn .srvA)
     9), by decide +kernel⟩,
   ⟨(.srvB), ((allOn.wr (engEn .srvB) 8)), by decide +kernel⟩,
   ⟨(.spn), (allOn), by decide +kernel⟩,
   ⟨(.srvB), ((allOn.updEng .srvB (fun x => { x with held := true }))), by decide +kernel⟩,
   ⟨(.spn), ((allOn.wr (engOverrun .spn) 7)), by decide +kernel⟩,
   ⟨(.srvA), (0x10), ((allOn.wr (engEn .srvA) 15)), by decide +kernel⟩,
   ⟨(.spn), (3), (3), (0xFFFFFFFF), (allOn), by decide +kernel⟩⟩

/-- Every hypothesis of EngineRows_2 can hold. -/
theorem witness_EngineRows_2 :
    (∃ (e : Eng) (kind n : Nat) (val : Word) (s : State), kind < 4 ∧ n < 4 ∧ s.admits (slotReg e kind n).1 = true ∧ s.slotOn e n = true)
    ∧ (∃ (e : Eng) (val : Word) (s : State), s.admits (engPage e.idx 2 + 0x304) = true ∧ coefExists (s.rd (engFld e 2 0x300 0 13)) = true
      ∧ s.rd (engFld e 2 0x300 0 13) < 0x1040 ∧ s.coefRefused e (s.rd (engFld e 2 0x300 0 13)) = false ∧ s.on (engFld e 2 0x300 31 1) =
      false)
    ∧ (∃ (e : Eng) (s : State), s.admits (engPage e.idx 3 + 0x60) = true)
    ∧ (∃ (e : Eng) (s : State), s.admits (engPage e.idx 3 + 0x60) = true ∧ s.rd (trcState e) = 1)
    ∧ (∃ (t : Tower) (s : State), s.admits (SRV_ENG_PROF_CTL t.idx) = true ∧ s.on (profBusy t.eng) = true)
    ∧ (∃ (t : Tower) (val : Word) (s : State), s.admits (SRV_ENG_PROF_P t.idx) = true ∧ s.on (profBusy t.eng) = false)
    ∧ (∃ (t : Tower) (val : Word) (s : State), s.admits (SRV_ENG_PROF_P t.idx) = true ∧ s.on (profBusy t.eng) = true) :=
  ⟨⟨(.spn), (0), (3), (0xFFFFFFFF), ((allOn.wr (engEn .spn) 8)), by decide +kernel⟩,
   ⟨(.srvB), (0x12345), ((allOn.wr (engFld .srvB 2 0x300 0 13) 368)), by decide +kernel⟩,
   ⟨(.srvA), (allOn), by decide +kernel⟩,
   ⟨(.srvA), ((allOn.wr (trcState .srvA) 1)), by decide +kernel⟩,
   ⟨(.B), (((allOn.wr (profBusy .srvB) 1).wr (SRV_ENG_PROF_TGT_TARGET 1) 0xFFFFFFFF)), by decide +kernel⟩,
   ⟨(.B), (0x80000000), (allOn), by decide +kernel⟩,
   ⟨(.B), (0x80000000), ((allOn.wr (profBusy .srvB) 1)), by decide +kernel⟩⟩

/-- Every hypothesis of ServoRows can hold. -/
theorem witness_ServoRows :
    (∃ (t : Tower) (others : Word) (s : State), s.admits (SRV_CMD t.idx) = true ∧ s.isOn bSRV t.idx = false)
    ∧ (∃ (t : Tower) (others : Word) (s : State), s.admits (SRV_CMD t.idx) = true ∧ s.mode t = mUNLOADED ∧ s.loadOk t = true ∧ (s.srv.get
      t).emrgNow = none ∧ fieldOf others 1 2 = 0)
    ∧ (∃ (t : Tower) (others : Word) (s : State), s.admits (SRV_CMD t.idx) = true ∧ s.isOn bSRV t.idx = true ∧ s.mode t = mFOLLOW ∧
      fieldOf others 0 1 = 0 ∧ fieldOf others 2 1 = 0)
    ∧ (∃ (t : Tower) (others : Word) (s : State), s.admits (SRV_CMD t.idx) = true ∧ s.isOn bSRV t.idx = true ∧ s.mode t = mUNLOADED ∧
      fieldOf others 0 1 = 1 ∧ fieldOf others 2 1 = 0)
    ∧ (∃ (t : Tower) (others : Word) (s : State), s.admits (SRV_CMD t.idx) = true ∧ s.isOn bSRV t.idx = true ∧ ¬ s.mode t = mRETRACT)
    ∧ (∃ (t : Tower) (val : Word) (s : State), s.admits (SRV_HEAD t.idx) = true ∧ fieldOf val 0 4 < s.rd (SRV_CFG_NHEADS t.idx))
    ∧ (∃ (t : Tower) (val : Word) (s : State), s.admits (SRV_HEAD t.idx) = true ∧ s.rd (SRV_CFG_NHEADS t.idx) ≤ fieldOf val 0 4)
    ∧ (∃ (t : Tower) (val : Word) (s : State), s.admits (SRV_TRACK t.idx) = true ∧ ¬ s.mode t = mFOLLOW)
    ∧ (∃ (t : Tower) (val : Word) (s : State), s.admits (SRV_TRACK t.idx) = true ∧ s.mode t = mFOLLOW)
    ∧ (∃ (t : Tower) (val : Word) (s : State), s.admits (SRV_OFFSET t.idx) = true ∧ ¬ s.mode t = mFOLLOW) :=
  ⟨⟨(.B), (0), ((allOn.setSt bSRV 1 stOFF)), by decide +kernel⟩,
   ⟨(.A), (0), (((((allOn.wr (SRV_MODE_MODE 0) mUNLOADED).wr (engEstate .srvA) 1).wr (engEn .srvA) 1).wr SPN_MODE_AT_SPEED 1).wr
     (SRV_BEMF_VSRC_EN 0) 1), by decide +kernel⟩,
   ⟨(.A), (0), ((allOn.wr (SRV_MODE_MODE 0) mFOLLOW)), by decide +kernel⟩,
   ⟨(.A), (1), ((allOn.wr (SRV_MODE_MODE 0) mUNLOADED)), by decide +kernel⟩,
   ⟨(.B), (7), ((allOn.wr (SRV_MODE_MODE 1) mFOLLOW)), by decide +kernel⟩,
   ⟨(.B), (11), ((allOn.wr (SRV_CFG_NHEADS 1) 12)), by decide +kernel⟩,
   ⟨(.B), (12), ((allOn.wr (SRV_CFG_NHEADS 1) 12)), by decide +kernel⟩,
   ⟨(.A), (0xFFFFFFFF), (allOn), by decide +kernel⟩,
   ⟨(.A), (0xFFFFFFFF), ((allOn.wr (SRV_MODE_MODE 0) mFOLLOW)), by decide +kernel⟩,
   ⟨(.A), (0xFFFFFFFF), (allOn), by decide +kernel⟩⟩

/-- Every hypothesis of ServoRows_2 can hold. -/
theorem witness_ServoRows_2 :
    (∃ (t : Tower) (ra rb : BurstIn) (s : State), (s.srv.get t).demodPending = false)
    ∧ (∃ (t : Tower) (ra rb : BurstIn) (s : State), (s.srv.get t).demodPending = true ∧ (s.srv.get t).demodSwitch = false ∧ s.mode t =
      mSEEK ∧ (s.atb.tw.get t).lastGood = true ∧ trackParity (s.srdrPick t ra rb).track = true ∧ 0 < (s.srdrPick t ra rb).n1.natAbs +
      (s.srdrPick t ra rb).n2.natAbs ∧ s.rd (SRV_DEMOD_AMIN t.idx) ≤ (s.srdrPick t ra rb).n1.natAbs + (s.srdrPick t ra rb).n2.natAbs)
    ∧ (∃ (t : Tower) (ra rb : BurstIn) (p : Int) (s : State), (s.srv.get t).demodPending = true ∧ (s.srv.get t).demodSwitch = false ∧
      s.mode t = mFOLLOW ∧ (s.atb.tw.get t).lastGood = true ∧ trackParity (s.srdrPick t ra rb).track = true ∧ 0 < (s.srdrPick t ra
      rb).n1.natAbs + (s.srdrPick t ra rb).n2.natAbs ∧ s.rd (SRV_DEMOD_AMIN t.idx) ≤ (s.srdrPick t ra rb).n1.natAbs + (s.srdrPick t ra
      rb).n2.natAbs ∧ 2 < (s.srv.get t).sinceSwitch ∧ (s.srv.get t).pred = some p ∧ ((candidate ((trackNumber (s.srdrPick t ra rb).track :
      Int) * trk + xRaw (s.srdrPick t ra rb).n1 (s.srdrPick t ra rb).n2 + corrOf (s.srv.get t).lin (xRaw (s.srdrPick t ra rb).n1
      (s.srdrPick t ra rb).n2)) p - p).natAbs : Int) ≤ trk)
    ∧ (∃ (t : Tower) (ra rb : BurstIn) (s : State), (s.srv.get t).demodPending = true ∧ (s.srv.get t).demodSwitch = true)
    ∧ (∃ (t : Tower) (ra rb : BurstIn) (s : State), (s.srv.get t).demodPending = true ∧ (s.srv.get t).demodSwitch = false ∧ trackParity
      (s.srdrPick t ra rb).track = false ∧ 0 < (s.srdrPick t ra rb).n1.natAbs + (s.srdrPick t ra rb).n2.natAbs)
    ∧ (∃ (t : Tower) (vaux vcmI : Int) (g : GenRun) (s : State), (s.srv.get t).gen = some g ∧ g.hold = false ∧ g.kind = .retract ∧ s.on
      (SRV_BEMF_VSRC_EN t.idx) = false ∧ s.rd (SRV_GEN_RETRACT_I_DRIVE t.idx) ≤ 32767)
    ∧ (∃ (t : Tower) (g : GenRun) (s : State), (s.srv.get t).gen = some g ∧ ¬ g.kind = .load)
    ∧ (∃ (t : Tower) (g : GenRun) (s : State), (s.srv.get t).gen = some g ∧ g.hold = true ∧ ¬ s.st bSRV t.idx = stSTOPPING)
    ∧ (∃ (t : Tower) (s : State), s.mode t = mLOADING)
    ∧ (∃ (s0 s1 : Int) (s : State), s0.natAbs ≤ s.rd (SRV_SHOCK_LIM 0) ∧ s1.natAbs ≤ s.rd (SRV_SHOCK_LIM 0) ∧ s0.natAbs ≤ s.rd
      (SRV_SHOCK_LIM 1) ∧ s1.natAbs ≤ s.rd (SRV_SHOCK_LIM 1)) :=
  ⟨⟨(.A), (⟨0x3C0, -40, 70⟩), (⟨0x3C0, -40, 70⟩), (allOn), by decide +kernel⟩,
   ⟨(.A), (⟨0x3C0, -40, 70⟩), (⟨0x3C0, -40, 70⟩), (((((allOn.wr (SRV_MODE_MODE 0) mSEEK).wr (SRV_DEMOD_AMIN 0) 100).updSrv .A (fun x =>
     { x with demodPending := true })).updAtbT .A (fun a => { a with lastGood := true }))), by decide +kernel⟩,
   ⟨(.A), (⟨0x3C0, -40, 70⟩), (⟨0x3C0, -40, 70⟩), (0), (((((allOn.wr (SRV_MODE_MODE 0) mFOLLOW).wr (SRV_DEMOD_AMIN 0) 100).updSrv .A (fun
     x => { x with demodPending := true, predN := 2, sinceSwitch := 3 })).updAtbT .A (fun a => { a with lastGood := true }))), by
     decide +kernel⟩,
   ⟨(.A), (⟨0x3C0, -40, 70⟩), (⟨0x3C0, -40, 70⟩), ((allOn.updSrv .A (fun x => { x with demodPending := true, demodSwitch := true }))), by
     decide +kernel⟩,
   ⟨(.A), (⟨0x200, 1, 1⟩), (⟨0x200, 1, 1⟩), ((allOn.updSrv .A (fun x => { x with demodPending := true, demodSwitch := false }))), by
     decide +kernel⟩,
   ⟨(.B), (0), (0), (⟨.retract, false, 5⟩), ((allOn.updSrv .B (fun x => { x with gen := some ⟨.retract, false, 5⟩ }))), by decide +kernel⟩,
   ⟨(.B), (⟨.unload, false, 5⟩), ((allOn.updSrv .B (fun x => { x with gen := some ⟨.unload, false, 5⟩ }))), by decide +kernel⟩,
   ⟨(.A), (⟨.unload, true, 5⟩), ((allOn.updSrv .A (fun x => { x with gen := some ⟨.unload, true, 5⟩ }))), by decide +kernel⟩,
   ⟨(.A), ((allOn.wr (SRV_MODE_MODE 0) mLOADING)), by decide +kernel⟩,
   ⟨(-9), (9), (((allOn.wr (SRV_SHOCK_LIM 0) 9).wr (SRV_SHOCK_LIM 1) 9)), by decide +kernel⟩⟩

/-- Every hypothesis of ReadChannelRows can hold. -/
theorem witness_ReadChannelRows :
    (∃ (t : Tower) (c : CapPlan) (k : Nat) (sampA sampB : List Byte) (afeA afeB : AfeIn) (s : State), (s.chn.get t).caps = [(c, k)] ∧
      c.verify = true ∧ k < (s.chn.get t).slots.length ∧ (s.slot t k).capturing = false ∧ (s.chn.get t).verify = none ∧ (s.chn.get
      t).waits = [])
    ∧ (∃ (t : Tower) (u : Unit3) (d : Decode) (s : State), s.dec t u = some d ∧ d.passed = false)
    ∧ (∃ (t : Tower) (u : Unit3) (d : Decode) (s : State), s.dec t u = some d ∧ d.passed = true)
    ∧ (∃ (t : Tower) (u : Unit3) (d : Decode) (s : State), s.dec t u = some d ∧ d.passed = true ∧ d.lHere + 1 < d.lmax ∧ (s.chn.get
      t).waits = [])
    ∧ (∃ (t : Tower) (u : Unit3) (d : Decode) (s : State), s.dec t u = some d ∧ d.passed = true ∧ d.lHere + 1 = d.lmax ∧ d.g < d.gmax ∧
      (s.chn.get t).waits = [])
    ∧ (∃ (t : Tower) (d : Decode) (s : State), (s.chn.get t).crcs = [(.verify, d)])
    ∧ (∃ (t : Tower) (d : Decode) (p : List Byte) (s : State), (s.chn.get t).crcs = [(.normal, d)] ∧ s.openBlock t (s.slot t d.slot).cap
      (bytesOf (d.bits.take infoBits)) = some (p, true) ∧ (s.slot t d.slot).cap.dest + p.length ≤ s.rd (CHN_RING_BASE_BASE t.idx))
    ∧ (∃ (t : Tower) (s : State), s.admits (CHN_RP_PUSH t.idx) = true ∧ s.isOn bCHN t.idx = true ∧ (s.chn.get t).queue.length < 16)
    ∧ (∃ (t : Tower) (s : State), s.admits (CHN_RP_PUSH t.idx) = true ∧ s.isOn bCHN t.idx = true ∧ 16 ≤ (s.chn.get t).queue.length)
    ∧ (∃ (t : Tower) (q : RpReq) (s : State), (s.chn.get t).replay = none ∧ (s.chn.get t).crcs = [] ∧ (s.chn.get t).queue = [q] ∧ q.auto =
      false) :=
  ⟨⟨(.B), ({ verify := true }), (50), ([1, 2]), ([]), (⟨1, 2, 3, 4⟩), (⟨5, 6, 7, 8⟩), ((allOn.updChn .B (fun c =>
    { c with caps := [({ verify := true }, 50)] }))), by decide +kernel⟩,
   ⟨(.B), (.verify), ({ slot := 4 }), ((allOn.updChn .B (fun c => { c with verify := some { slot := 4 } }))), by decide +kernel⟩,
   ⟨(.B), (.verify), ({ slot := 4, passed := true }), ((allOn.updChn .B (fun c =>
     { c with verify := some { slot := 4, passed := true } }))), by decide +kernel⟩,
   ⟨(.A), (.replay), ({ slot := 4, passed := true, lHere := 18 }), ((allOn.updChn .A (fun c =>
     { c with replay := some { slot := 4, passed := true, lHere := 18 } }))), by decide +kernel⟩,
   ⟨(.A), (.normal), ({ slot := 4, passed := true, lHere := 19, g := 7 }), ((allOn.updChn .A (fun c =>
     { c with normal := some { slot := 4, passed := true, lHere := 19, g := 7 } }))), by decide +kernel⟩,
   ⟨(.A), ({ slot := 4 }), ((allOn.updChn .A (fun c => { c with crcs := [(.verify, { slot := 4 })] }))), by decide +kernel⟩,
   ⟨(.A), ({ slot := 4 }), ([]), ((({ allOn with keys := { xts := ⟨[(0, 7)], []⟩ } } : State).updChn .A (fun c =>
     { c with crcs := [(.normal, { slot := 4 })] }))), by decide +kernel⟩,
   ⟨(.B), ((allOn.updChn .B (fun c => { c with queue := List.replicate 15 {} }))), by decide +kernel⟩,
   ⟨(.B), ((allOn.updChn .B (fun c => { c with queue := List.replicate 16 {} }))), by decide +kernel⟩,
   ⟨(.A), ({}), ((allOn.updChn .A (fun c => { c with queue := [{}] }))), by decide +kernel⟩⟩

/-- Every hypothesis of ReadChannelRows_2 can hold. -/
theorem witness_ReadChannelRows_2 :
    (∃ (t : Tower) (val : Word) (s : State), s.admits (CHN_RB_PIN t.idx) = true ∧ fieldOf val 16 6 < 51 ∧ (s.slot t (fieldOf val 16
      6)).gen = fieldOf val 8 8 ∧ s.canPin t (fieldOf val 16 6) = true)
    ∧ (∃ (t : Tower) (val : Word) (s : State), s.admits (CHN_RB_PIN t.idx) = true ∧ ¬ (fieldOf val 16 6 < 51 ∧ (s.slot t (fieldOf val 16
      6)).gen = fieldOf val 8 8))
    ∧ (∃ (t : Tower) (val : Word) (s : State), s.admits (CHN_RB_PIN t.idx) = true ∧ fieldOf val 16 6 < 51 ∧ (s.slot t (fieldOf val 16
      6)).gen = fieldOf val 8 8)
    ∧ (∃ (t : Tower) (val : Word) (s : State), s.admits (CHN_COEF_DATA t.idx) = true ∧ s.on (CHN_EQ_ADAPT_EN t.idx) = false ∧ coefReserved
      (s.rd (CHN_COEF_ADDR_ADDR t.idx)) = false ∧ s.on (CHN_COEF_ADDR_AUTO_INC t.idx) = false)
    ∧ (∃ (t : Tower) (val : Word) (s : State), s.admits (CHN_COEF_DATA t.idx) = true ∧ s.on (CHN_EQ_ADAPT_EN t.idx) = true ∧ s.rd
      (CHN_COEF_ADDR_ADDR t.idx) < 20 ∧ s.on (CHN_COEF_ADDR_AUTO_INC t.idx) = false)
    ∧ (∃ (t : Tower) (sums : List Int) (s : State), (s.chn.get t).adapt = some sums)
    ∧ (∃ (t : Tower) (s : State), s.admits (CHN_CNT_CLR t.idx) = true)
    ∧ (∃ (t : Tower) (k : Nat) (c : CapPlan) (s : State), (s.chn.get t).caps = [(c, k)] ∧ k < (s.chn.get t).slots.length ∧ (s.slot t
      k).capturing = true ∧ s.capOver t c = false) :=
  ⟨⟨(.A), (0x00320001), (allOn), by decide +kernel⟩,
   ⟨(.A), (0x00330001), (allOn), by decide +kernel⟩,
   ⟨(.B), (0x00320000), ((allOn.wr (pinFld 1 50) 1)), by decide +kernel⟩,
   ⟨(.A), (0x7F0), ((allOn.wr (CHN_COEF_ADDR_ADDR 0) 45)), by decide +kernel⟩,
   ⟨(.A), (0x7F0), (((allOn.wr (CHN_COEF_ADDR_ADDR 0) 19).wr (CHN_EQ_ADAPT_EN 0) 1)), by decide +kernel⟩,
   ⟨(.A), ([65536, -1]), ((allOn.updChn .A (fun c => { c with adapt := some [65536, -1] }))), by decide +kernel⟩,
   ⟨(.B), (((allOn.setReg (CHN_CNT_SECT 1) 5).setReg (CHN_CNT_REPLAY 1) 5)), by decide +kernel⟩,
   ⟨(.B), (50), ({ baseA := 5, baseB := 5 }), ((allOn.updChn .B (fun c =>
     { c with caps := [({ baseA := 5, baseB := 5 }, 50)], slots := c.slots.set 50 { capturing := true, replayable := true } }))), by
     decide +kernel⟩⟩

/-- Every hypothesis of WriteAndAssistRows can hold. -/
theorem witness_WriteAndAssistRows :
    (∃ (t : Tower) (w : WriteRun) (s : State), (s.twr.get t).run = some w ∧ w.ended = false ∧ w.writing = false ∧ w.count = 5 ∧ w.cur = 0)
    ∧ (∃ (t : Tower) (w : WriteRun) (e : List Byte) (s : State), (s.twr.get t).run = some w ∧ w.ended = false ∧ w.writing = false ∧
      s.wgOpen t = true ∧ s.encodeSector t w = some e)
    ∧ (∃ (t : Tower) (w : WriteRun) (s : State), (s.twr.get t).run = some w ∧ w.ended = false ∧ w.writing = true ∧ w.count = 5 ∧ w.cur = 0
      ∧ s.wgOpen t = true)
    ∧ (∃ (t : Tower) (w : WriteRun) (s : State), (s.twr.get t).run = some w ∧ w.ended = false ∧ w.writing = true ∧ s.wgOpen t = false ∧
      (s.atb.tw.get t).closedNow = [])
    ∧ (∃ (t : Tower) (head code : Nat) (s : State), head < 12 ∧ s.cplHears t = true ∧ code ≤ s.rd (LAN_ROR_T_ABS t.idx) ∧ (s.twr.get
      t).lan.shutNow = none ∧ s.agOpen t = false)
    ∧ (∃ (t : Tower) (head code : Nat) (s : State), head < 12 ∧ s.cplHears t = true ∧ s.rd (LAN_ROR_T_ABS t.idx) < code ∧ s.st bLAN t.idx
      = stOFF)
    ∧ (∃ (t : Tower) (head code : Nat) (s : State), 12 ≤ head)
    ∧ (∃ (t : Tower) (status : Nat) (s : State), s.cplHears t = true ∧ s.st bLAN t.idx = stOFF)
    ∧ (∃ (t : Tower) (status : Nat) (s : State), s.cplHears t = true ∧ s.isOn bLAN t.idx = true)
    ∧ (∃ (t : Tower) (s : State), s.agOpen t = true ∧ s.head t < 12 ∧ s.rd (LAN_ONTIME_LO_COUNT_LO t.idx (s.head t)) < 1000 ∧ s.rd
      (LAN_ONTIME_HI_COUNT_HI t.idx (s.head t)) = 0 ∧ ¬ s.rd (LAN_RATED_RATED_H t.idx) = 0) :=
  ⟨⟨(.A), ({ count := 5 }), ((allOn.updTwr .A (fun x => { x with run := some { count := 5 } }))), by decide +kernel⟩,
   ⟨.A, { count := 5, src := 0x10000000, meta_ := 0x10001000 }, _,
    ((allOn.updTwr .A (fun x => { x with run := some { count := 5, src := 0x10000000, meta_ := 0x10001000 } })).wr (TWR_STAT_WG 0)
      1).setXts .A 0 (some 7),
    by decide, by decide, by decide, by decide, rfl⟩,
   ⟨(.B), ({ count := 5, writing := true }), (((allOn.wr (TWR_STAT_WG 1) 1).updTwr .B (fun x =>
     { x with run := some { count := 5, writing := true } }))), by decide +kernel⟩,
   ⟨(.B), ({ count := 5, writing := true }), ((allOn.updTwr .B (fun x => { x with run := some { count := 5, writing := true } }))), by
     decide +kernel⟩,
   ⟨(.A), (11), (0xFFF), (((allOn.setSt bLAN 0 stOFF).wr (LAN_ROR_T_ABS 0) 0xFFF)), by decide +kernel⟩,
   ⟨(.A), (11), (0xFFF), (((allOn.setSt bLAN 0 stOFF).wr (LAN_ROR_T_ABS 0) 0xFFE)), by decide +kernel⟩,
   ⟨(.A), (12), (0xFFF), (allOn), by decide +kernel⟩,
   ⟨(.A), (0xFF), ((allOn.setSt bLAN 0 stOFF)), by decide +kernel⟩,
   ⟨(.A), (0xFF), ((allOn.wr (LAN_STAT_READY 0) 1)), by decide +kernel⟩,
   ⟨(.B), (((allOn.wr (TWR_STAT_AG 1) 1).wr (LAN_RATED_RATED_H 1) 1)), by decide +kernel⟩⟩

/-- Every hypothesis of WriteAndAssistRows_2 can hold. -/
theorem witness_WriteAndAssistRows_2 :
    (∃ (t : Tower) (s : State), s.agOpen t = false)
    ∧ (∃ (t : Tower) (target : Nat) (s : State), (s.twr.get t).lan.ramp = some target ∧ (s.twr.get t).cpl.rstN = true ∧ (s.twr.get
      t).lan.bias + atLeast1 (s.rd (LAN_BIAS_RAMP t.idx)) < target)
    ∧ (∃ (t : Tower) (s : State), (s.twr.get t).lan.holdPhase = 2 ∧ s.isOn bLAN t.idx = true)
    ∧ (∃ (t : Tower) (val : Word) (s : State), s.admits (LAN_PTAB_DATA t.idx) = true ∧ s.rd (LAN_PTAB_ADDR_INDEX t.idx) < 768) :=
  ⟨⟨(.B), (allOn), by decide +kernel⟩,
   ⟨(.A), (1000), (((allOn.updLan .A (fun l => { l with ramp := some 1000 })).updCpl .A (fun c => { c with rstN := true }))), by
     decide +kernel⟩,
   ⟨(.A), ((allOn.updLan .A (fun l => { l with holdPhase := 2 }))), by decide +kernel⟩,
   ⟨(.A), (0x3FF), ((allOn.wr (LAN_PTAB_ADDR_INDEX 0) 767)), by decide +kernel⟩⟩

/-- Every hypothesis of PreampLinkRows can hold. -/
theorem witness_PreampLinkRows :
    (∃ (t : Tower) (s : State), (s.twr.get t).cpl.rstN = true ∧ (s.twr.get t).cpl.awaiting = none ∧ (s.twr.get t).cpl.pendRead = some 0 ∧
      ¬ s.rd (CPL_STAT_VERSION t.idx) = 2 ∧ (s.twr.get t).cpl.loopNow = 0)
    ∧ (∃ (t : Tower) (s : State), (s.twr.get t).cpl.rstN = true ∧ (s.twr.get t).cpl.awaiting = none ∧ (s.twr.get t).cpl.adopted = true ∧
      (s.twr.get t).cpl.pendRead = none ∧ (s.twr.get t).cpl.pendHead = false ∧ (s.twr.get t).cpl.pendAssist = none ∧ (s.twr.get
      t).cpl.pendBias = none ∧ (s.twr.get t).cpl.pendFw = none ∧ ¬ s.rd (CPL_STAT_VERSION t.idx) = 2 ∧ (s.twr.get t).cpl.loopNow = 0)
    ∧ (∃ (t : Tower) (seq data : Nat) (f : CplFrame) (s : State), s.cplMatch t seq = some f ∧ f.fw = true ∧ f.typ = 1)
    ∧ (∃ (t : Tower) (seq : Nat) (f : CplFrame) (s : State), s.cplMatch t seq = some f ∧ (s.twr.get t).cpl.awaiting = some f ∧ f.fw = true
      ∧ f.typ = 1 ∧ f.resends < atLeast1 (s.rd (CPL_CFG_RETRY t.idx)))
    ∧ (∃ (t : Tower) (seq data : Nat) (f : CplFrame) (s : State), s.cplMatch t seq = some f ∧ f.fw = true ∧ f.typ = 2)
    ∧ (∃ (t : Tower) (f : CplFrame) (s : State), (s.twr.get t).cpl.awaiting = some f ∧ f.fw = false ∧ f.typ = 2 ∧ f.addr = 0 ∧ (s.twr.get
      t).cpl.verReads < 3 ∧ (s.twr.get t).cpl.started = false)
    ∧ (∃ (t : Tower) (s : State), s.st bCPL t.idx = stSTARTING)
    ∧ (∃ (t : Tower) (s : State), s.st bCPL t.idx = stSTARTING ∧ (s.twr.get t).cpl.rstN = true ∧ (s.twr.get t).cpl.adopted = false ∧
      (s.twr.get t).cpl.awaiting = none ∧ ¬ s.rd (CPL_STAT_VERSION t.idx) = 2 ∧ (s.twr.get t).cpl.loopNow = 0)
    ∧ (∃ (t : Tower) (val : Word) (s : State), s.admits (CPL_REG_CMD t.idx) = true ∧ s.on (CPL_REG_CMD_GO t.idx) = false ∧ fieldOf val 31
      1 = 1 ∧ fieldOf val 30 1 = 1 ∧ s.on (CPL_STAT_LINK_UP t.idx) = true)
    ∧ (∃ (t : Tower) (val : Word) (s : State), s.admits (CPL_REG_CMD t.idx) = true ∧ s.on (CPL_REG_CMD_GO t.idx) = false ∧ fieldOf val 31
      1 = 1 ∧ s.on (CPL_STAT_LINK_UP t.idx) = false) :=
  ⟨⟨(.A), ((allOn.updCpl .A (fun c => { c with rstN := true, pendRead := some 0, seq := 15 }))), by decide +kernel⟩,
   ⟨(.A), ((allOn.updCpl .A (fun c => { c with rstN := true, adopted := true, seq := 15 }))), by decide +kernel⟩,
   ⟨(.B), (9), (5), ({ typ := 1, seq := 9, addr := 3, fw := true }), ((allOn.updCpl .B (fun c =>
     { c with awaiting := some { typ := 1, seq := 9, addr := 3, fw := true } }))), by decide +kernel⟩,
   ⟨(.B), (9), ({ typ := 1, seq := 9, addr := 3, fw := true }), ((allOn.updCpl .B (fun c =>
     { c with awaiting := some { typ := 1, seq := 9, addr := 3, fw := true } }))), by decide +kernel⟩,
   ⟨(.B), (9), (0xFFFF), ({ typ := 2, seq := 9, addr := 3, fw := true }), ((allOn.updCpl .B (fun c =>
     { c with awaiting := some { typ := 2, seq := 9, addr := 3, fw := true } }))), by decide +kernel⟩,
   ⟨(.B), ({ typ := 2 }), ((allOn.updCpl .B (fun c => { c with awaiting := some { typ := 2 }, verReads := 2 }))), by decide +kernel⟩,
   ⟨(.B), ((allOn.setSt bCPL 1 stSTARTING)), by decide +kernel⟩,
   ⟨(.B), (((allOn.setSt bCPL 1 stSTARTING).updCpl .B (fun c => { c with rstN := true }))), by decide +kernel⟩,
   ⟨(.A), (0xC0000007), ((allOn.wr (CPL_STAT_LINK_UP 0) 1)), by decide +kernel⟩,
   ⟨(.A), (0xC0000007), (allOn), by decide +kernel⟩⟩

/-- Every hypothesis of RecoveryRows can hold. -/
theorem witness_RecoveryRows :
    (∃ (t : Tower) (sec : Sect) (profile : Nat) (fac : Factory) (s : State), s.seenOf t sec = none ∧ s.headIn t sec.head = true)
    ∧ (∃ (t : Tower) (sec : Sect) (o : SeenOut) (fac : Factory) (s : State), s.seenOf t sec = some o ∧ ¬ o.out = 0 ∧ (s.lay.get t).ladders
      = [] ∧ s.headIn t sec.head = true ∧ s.slotBusy t o.slot = false ∧ s.seenSlot t o = false ∧ s.pinCount t < s.pinMax t)
    ∧ (∃ (t : Tower) (sec : Sect) (o : SeenOut) (m : Nat) (fac : Factory) (s : State), s.seenOf t sec = some o ∧ ¬ o.out = 0 ∧ (s.lay.get
      t).ladders = [] ∧ s.headIn t sec.head = true ∧ s.slotBusy t o.slot = false ∧ s.seenSlot t o = true ∧ missingMode o = some m ∧
      (s.chn.get t).queue.length < 16 ∧ s.isOn bCHN t.idx = true)
    ∧ (∃ (t : Tower) (l : Ladder) (o : SeenOut) (profile : Nat) (fac : Factory) (s : State), s.seenOf t l.sec = some o ∧ o.out = 8 ∧
      o.live = 8 ∧ (s.lay.get t).ladders = [l] ∧ l.step = 3 ∧ l.seenAt < o.count ∧ s.headIn t l.sec.head = true ∧ s.slotBusy t o.slot =
      false)
    ∧ (∃ (t : Tower) (sec : Sect) (s : State), s.seenOf t sec = none ∧ (s.lay.get t).ladders = [])
    ∧ (∃ (t : Tower) (l : Ladder) (s : State), s.seenOf t l.sec = none ∧ (s.lay.get t).ladders = [l] ∧ l.step = 8 ∧ l.sec.cmr = false ∧
      l.sec.raw = false ∧ (s.lay.get t).sectDead l.sec = false ∧ (s.lay.get t).groupOf l.sec.band = none ∧ s.headIn t l.sec.head = true ∧
      s.isOn bEVR 0 = true ∧ s.rd EVR_POST_STAT_DEPTH < 16 ∧ (s.lay.get t).grown.length < 16384)
    ∧ (∃ (t : Tower) (l : Ladder) (s : State), s.seenOf t l.sec = none ∧ (s.lay.get t).ladders = [l] ∧ l.step = 8 ∧ l.sec.cmr = false ∧
      l.sec.raw = false ∧ (s.lay.get t).sectDead l.sec = false ∧ (s.lay.get t).groupOf l.sec.band = none ∧ s.headIn t l.sec.head = true ∧
      s.isOn bEVR 0 = true ∧ s.rd EVR_POST_STAT_DEPTH < 16 ∧ (s.lay.get t).grown.length < 16384)
    ∧ (∃ (t : Tower) (h : Nat) (s : State), (s.lay.get t).ladders = []) :=
  ⟨⟨(.A), (⟨1, 2, 3, 4, false, false, false, 0, 0, 0, 0, 0, 0, 0⟩), (0), (⟨0, 0, 0, 0, 0⟩), ((allOn.wr (SRV_CFG_NHEADS 0) 12)), by
    decide +kernel⟩,
   ⟨(.A), (⟨1, 2, 3, 4, false, false, false, 0, 0, 0, 0, 0, 0, 0⟩),
     ({ head := 1, track := 3, pos := 4, out := 1, live := 1, count := 1 }), (⟨0, 0, 0, 0, 0⟩), (((allOn.wr (SRV_CFG_NHEADS 0) 12).updLay
     .A (fun y => { y with seen := [{ head := 1, track := 3, pos := 4, out := 1, live := 1, count := 1 }] }))), by decide +kernel⟩,
   ⟨(.A), (⟨1, 2, 3, 4, false, false, false, 0, 0, 0, 0, 0, 0, 0⟩),
     ({ head := 1, track := 3, pos := 4, out := 3, live := 3, count := 1, slot := 0 }), (3), (⟨0, 0, 0, 0, 0⟩), ((((allOn.wr
     (SRV_CFG_NHEADS 0) 12).updChn .A (fun c => { c with slots := c.slots.set 0 { replayable := true } })).updLay .A (fun y =>
     { y with seen := [{ head := 1, track := 3, pos := 4, out := 3, live := 3, count := 1, slot := 0 }] }))), by decide +kernel⟩,
   ⟨(.A), ({ sec := ⟨1, 2, 3, 4, false, false, false, 0, 0, 0, 0, 0, 0, 0⟩, step := 3, att := 1 }),
     ({ head := 1, track := 3, pos := 4, out := 8, live := 8, count := 3 }), (0), (⟨0, 0, 0, 0, 0⟩), (((allOn.wr (SRV_CFG_NHEADS 0)
     12).updLay .A (fun y =>
     { y with seen := [{ head := 1, track := 3, pos := 4, out := 8, live := 8, count := 3 }], ladders := [{ sec := ⟨1, 2, 3, 4, false, false, false, 0, 0, 0, 0, 0, 0, 0⟩, step := 3, att := 1 }] }))),
     by decide +kernel⟩,
   ⟨(.A), (⟨1, 2, 3, 4, false, false, false, 0, 0, 0, 0, 0, 0, 0⟩), ((allOn.wr (SRV_CFG_NHEADS 0) 12)), by decide +kernel⟩,
   ⟨(.A), ({ sec := ⟨1, 2, 3, 4, false, false, false, 0, 0, 0, 0, 0, 0, 0⟩, step := 8, att := 1 }), (((allOn.wr (SRV_CFG_NHEADS 0)
     12).updLay .A (fun y =>
     { y with ladders := [{ sec := ⟨1, 2, 3, 4, false, false, false, 0, 0, 0, 0, 0, 0, 0⟩, step := 8, att := 1 }] }))), by
     decide +kernel⟩,
   ⟨(.A), ({ sec := ⟨1, 2, 3, 4, false, false, false, 0, 0, 0, 0, 0, 0, 0⟩, step := 8, att := 1 }), (((allOn.wr (SRV_CFG_NHEADS 0)
     12).updLay .A (fun y =>
     { y with ladders := [{ sec := ⟨1, 2, 3, 4, false, false, false, 0, 0, 0, 0, 0, 0, 0⟩, step := 8, att := 1 }] }))), by
     decide +kernel⟩,
   ⟨(.B), (3), (allOn), by decide +kernel⟩⟩

/-- Every hypothesis of MicrowordRows can hold. -/
theorem witness_MicrowordRows :
    (∃ (sp : Spire) (s : State), AtRow .alu sp s ∧ bits (s.mword sp) 16 4 = 0)
    ∧ (∃ (sp : Spire) (s : State), AtRow .alu sp s ∧ bits (s.mword sp) 16 4 = 1 ∧ s.w sp (bits (s.mword sp) 8 4) < s.w sp (bits (s.mword
      sp) 4 4) ∧ bits (s.mword sp) 12 4 < (s.spire sp).w.length)
    ∧ (∃ (sp : Spire) (s : State), AtRow .alu sp s ∧ bits (s.mword sp) 16 4 = 12)
    ∧ (∃ (sp : Spire) (s : State), AtRow .alui sp s ∧ bits (s.mword sp) 16 4 = 9)
    ∧ (∃ (sp : Spire) (s : State), AtRow .alui sp s ∧ bits (s.mword sp) 16 4 = 6 ∧ bits (s.mword sp) 0 5 = 0)
    ∧ (∃ (sp : Spire) (s : State), AtRow .ldi sp s)
    ∧ (∃ (sp : Spire) (s : State), AtRow .lui sp s)
    ∧ (∃ (sp : Spire) (s : State), AtRow .br sp s ∧ bits (s.mword sp) 16 4 = 7 ∧ (s.spire sp).ef0 = true)
    ∧ (∃ (sp : Spire) (s : State), AtRow .br sp s ∧ bits (s.mword sp) 16 4 = 1 ∧ (s.spire sp).z = false)
    ∧ (∃ (sp : Spire) (s : State), AtRow .cbr sp s ∧ bits (s.mword sp) 12 4 = 2 ∧ 2 ^ 31 ≤ s.w sp (bits (s.mword sp) 16 4)) :=
  ⟨⟨(⟨1, 15⟩), (atWord ⟨1, 15⟩ 0x003120 ((allOn.setW ⟨1, 15⟩ 1 0xFFFFFFFF).setW ⟨1, 15⟩ 2 1)), by decide +kernel⟩,
   ⟨(⟨0, 7⟩), (atWord ⟨0, 7⟩ 0x013120 (allOn.setW ⟨0, 7⟩ 2 1)), by decide +kernel⟩,
   ⟨(⟨3, 0⟩), (atWord ⟨3, 0⟩ 0x0C3120 ((allOn.setW ⟨3, 0⟩ 1 0x3FFFF).setW ⟨3, 0⟩ 2 0xFFFF)), by decide +kernel⟩,
   ⟨(⟨2, 3⟩), (atWord ⟨2, 3⟩ 0x193FFF (allOn.setW ⟨2, 3⟩ 3 0xFFE)), by decide +kernel⟩,
   ⟨(⟨2, 3⟩), (atWord ⟨2, 3⟩ 0x163FE0 (allOn.setW ⟨2, 3⟩ 3 0xFFE)), by decide +kernel⟩,
   ⟨(⟨0, 0⟩), (atWord ⟨0, 0⟩ 0x2FABCD allOn), by decide +kernel⟩,
   ⟨(⟨0, 0⟩), (atWord ⟨0, 0⟩ 0x3FABCD (allOn.setW ⟨0, 0⟩ 15 0x12345678)), by decide +kernel⟩,
   ⟨(⟨0, 0⟩), (atWord ⟨0, 0⟩ 0x470FFF (allOn.updSpire ⟨0, 0⟩ (fun p => { p with ef0 := true }))), by decide +kernel⟩,
   ⟨(⟨0, 0⟩), (atWord ⟨0, 0⟩ 0x410FFF allOn), by decide +kernel⟩,
   ⟨(⟨0, 0⟩), (atWord ⟨0, 0⟩ 0x502123 (allOn.setW ⟨0, 0⟩ 0 0x80000000)), by decide +kernel⟩⟩

/-- Every hypothesis of MicrowordRows_2 can hold. -/
theorem witness_MicrowordRows_2 :
    (∃ (sp : Spire) (s : State), AtRow .cbr sp s ∧ bits (s.mword sp) 12 4 = 2 ∧ s.w sp (bits (s.mword sp) 16 4) < 2 ^ 31)
    ∧ (∃ (sp : Spire) (s : State), AtRow .call sp s ∧ (s.spire sp).stack.length < 8)
    ∧ (∃ (sp : Spire) (a : Nat) (l : List Nat) (s : State), AtRow .ret sp s ∧ (s.spire sp).stack = l ++ [a])
    ∧ (∃ (sp : Spire) (s : State), AtRow .ret sp s ∧ (s.spire sp).stack = [] ∧ sp.cls = 1 ∧ (s.spire sp).running = none)
    ∧ (∃ (sp : Spire) (s : State), AtRow .nop sp s)
    ∧ (∃ (sp : Spire) (s : State), Running sp s ∧ csGood (s.spire sp).fetch = false ∧ rowOf sp.cls (s.mword sp) = .nop ∧ sp.cls = 3 ∧
      (s.spire sp).running = none)
    ∧ (∃ (sp : Spire) (s : State), AtRow .halt sp s ∧ ¬ sp.cls = 0)
    ∧ (∃ (sp : Spire) (s : State), AtRow .fence sp s)
    ∧ (∃ (sp : Spire) (q : State) (v : Word) (s : State), AtRow .ld sp s ∧ (s.adv sp).busWord (sprPort sp) ((s.w sp (bits (s.mword sp) 12
      4) + 4 * bits (s.mword sp) 0 12) % 2 ^ 32 / 4 * 4) = (q, v, true))
    ∧ (∃ (sp : Spire) (q : State) (s : State), AtRow .st sp s ∧ (s.adv sp).busWrite (sprPort sp) ((s.w sp (bits (s.mword sp) 12 4) + 4 *
      bits (s.mword sp) 0 12) % 2 ^ 32 / 4 * 4) (leBytes 4 (s.w sp (bits (s.mword sp) 16 4))) = (q, true)) :=
  ⟨⟨(⟨0, 0⟩), (atWord ⟨0, 0⟩ 0x502123 allOn), by decide +kernel⟩,
   ⟨(⟨0, 0⟩), (atWord ⟨0, 0⟩ 0x600123 allOn), by decide +kernel⟩,
   ⟨(⟨0, 0⟩), (0x321), ([5]), (atWord ⟨0, 0⟩ 0x710000 (allOn.updSpire ⟨0, 0⟩ (fun p => { p with stack := [5, 0x321] }))), by
     decide +kernel⟩,
   ⟨(⟨1, 0⟩), (atWord ⟨1, 0⟩ 0x710000 allOn), by decide +kernel⟩,
   ⟨(⟨3, 3⟩), (atWord ⟨3, 3⟩ 0x700000 allOn), by decide +kernel⟩,
   ⟨(⟨3, 3⟩), ((allOn.updSpire ⟨3, 3⟩ (fun p => { p with sstate := 1, pc := 0, cs := [(0, 0x1700000)] }))), by decide +kernel⟩,
   ⟨(⟨3, 3⟩), (atWord ⟨3, 3⟩ 0x720000 allOn), by decide +kernel⟩,
   ⟨(⟨3, 3⟩), (atWord ⟨3, 3⟩ 0x730000 allOn), by decide +kernel⟩,
   ⟨(⟨0, 3⟩), (((((atWord ⟨0, 3⟩ 0x810002 (allOn.setByte 0x10000008 0x55#8)).setW ⟨0, 3⟩ 0 0x10000000).adv ⟨0, 3⟩).busWord 8
     0x10000008).1), (((((atWord ⟨0, 3⟩ 0x810002 (allOn.setByte 0x10000008 0x55#8)).setW ⟨0, 3⟩ 0 0x10000000).adv ⟨0, 3⟩).busWord 8
     0x10000008).2.1), (((atWord ⟨0, 3⟩ 0x810002 (allOn.setByte 0x10000008 0x55#8)).setW ⟨0, 3⟩ 0 0x10000000)), by decide +kernel⟩,
   ⟨(⟨0, 3⟩), (((((atWord ⟨0, 3⟩ 0x910002 allOn).setW ⟨0, 3⟩ 0 0x10000000).adv ⟨0, 3⟩).busWrite 8 0x10000008 (leBytes 4 0)).1), (((atWord
     ⟨0, 3⟩ 0x910002 allOn).setW ⟨0, 3⟩ 0 0x10000000)), by decide +kernel⟩⟩

/-- Every hypothesis of SequencerPlanRows can hold. -/
theorem witness_SequencerPlanRows :
    (∃ (sp : Spire) (s : State), AtRow .getang sp s)
    ∧ (∃ (sp : Spire) (s : State), AtRow .arm sp s ∧ s.cmpArmed (16 * sp.idx + bits (s.mword sp) 4 4) = true)
    ∧ (∃ (sp : Spire) (s : State), AtRow .arm sp s ∧ s.cmpArmed (16 * sp.idx + bits (s.mword sp) 4 4) = false ∧ s.isOn bATB 0 = true ∧
      bits (s.mword sp) 8 4 < 12 ∧ (s.spire sp).seqEpoch = s.epoch ∧ 2 ^ 31 ≤ (s.localAngle (sprTower sp) + 2 ^ 32 - s.w sp (bits (s.mword
      sp) 12 4)) % 2 ^ 32)
    ∧ (∃ (sp : Spire) (s : State), AtRow .waitc sp s ∧ s.cmpArmed (16 * sp.idx + bits (s.mword sp) 4 4) = false)
    ∧ (∃ (sp : Spire) (s : State), AtRow .waitc sp s ∧ s.cmpArmed (16 * sp.idx + bits (s.mword sp) 4 4) = true)
    ∧ (∃ (sp : Spire) (s : State), AtRow .disarm sp s ∧ ¬ (s.isOn bATB 0 = true ∧ s.cmpArmed (16 * sp.idx + bits (s.mword sp) 4 4) = true
      ∧ s.cmpReached (16 * sp.idx + bits (s.mword sp) 4 4) = true))
    ∧ (∃ (sp : Spire) (z : Nat × Nat × List Word) (s : State), AtRow .loadz sp s ∧ s.loadZ sp (s.w sp (bits (s.mword sp) 8 4) / 2 ^ 28)
      (s.w sp (bits (s.mword sp) 4 4) / 2 ^ 26) = some z)
    ∧ (∃ (sp : Spire) (s : State), AtRow .loadz sp s ∧ 12 ≤ s.w sp (bits (s.mword sp) 8 4) / 2 ^ 28)
    ∧ (∃ (sp : Spire) (s : State), AtRow .anchor sp s)
    ∧ (∃ (sp : Spire) (p : Plan) (s : State), AtRow .rplan sp s ∧ s.planOf sp false (s.w sp (bits (s.mword sp) 8 4)) (s.w sp (bits
      (s.mword sp) 4 4)) = some p) :=
  ⟨⟨(⟨0, 5⟩), (atWord ⟨0, 5⟩ 0xA03000 allOn), by decide +kernel⟩,
   ⟨(⟨0, 5⟩), (atWord ⟨0, 5⟩ 0xA13170 (allOn.wr (ATB_CMP_CTL_ARM 0x57) 1)), by decide +kernel⟩,
   ⟨(⟨0, 5⟩), (atWord ⟨0, 5⟩ 0xA13170 (allOn.setW ⟨0, 5⟩ 3 0x10000000)), by decide +kernel⟩,
   ⟨(⟨0, 5⟩), (atWord ⟨0, 5⟩ 0xA23070 (allOn.wr (ATB_CMP_CTL_STATUS 0x57) 2)), by decide +kernel⟩,
   ⟨(⟨0, 5⟩), (atWord ⟨0, 5⟩ 0xA23070 (allOn.wr (ATB_CMP_CTL_ARM 0x57) 1)), by decide +kernel⟩,
   ⟨(⟨0, 5⟩), (atWord ⟨0, 5⟩ 0xA33070 ((allOn.wr (ATB_CMP_CTL_ARM 0x57) 1).wr (ATB_CMP_TGT_TGT 0x57) 5000)), by decide +kernel⟩,
   ⟨(⟨0, 5⟩), ((1, 2, [0x90008000, 0x7F0005C0, 0, 0, 0x00100010, 0, 0, 0])), (atWord ⟨0, 5⟩ 0xB00120 (((allOn.setW ⟨0, 5⟩ 1
     0x10000000).setW ⟨0, 5⟩ 2 0x08000000).setWords (66 * 32) [0x90008000, 0x7F0005C0, 0, 0, 0x00100010, 0, 0, 0])), by decide +kernel⟩,
   ⟨(⟨0, 5⟩), (atWord ⟨0, 5⟩ 0xB00120 (allOn.setW ⟨0, 5⟩ 1 0xC0000000)), by decide +kernel⟩,
   ⟨(⟨0, 5⟩), (atWord ⟨0, 5⟩ 0xB10120 (allOn.setW ⟨0, 5⟩ 1 0xC0000000)), by decide +kernel⟩,
   ⟨(⟨0, 5⟩), (((allOn.updSpire ⟨0, 5⟩ (fun p =>
     { p with zoneDesc := some (1, 2, [0x90008000, 0x7F0005C0, 0, 0, 0x00100010, 0, 0, 0]) })).planOf ⟨0, 5⟩ false 0 0).getD
     { write := false, head := 0, zone := 0, track := 0, first := 0, count := 0, readers := 0, eqset := 0, wins := [], caps := [] }),
     (atWord ⟨0, 5⟩ 0xB23120 (allOn.updSpire ⟨0, 5⟩ (fun p =>
     { p with zoneDesc := some (1, 2, [0x90008000, 0x7F0005C0, 0, 0, 0x00100010, 0, 0, 0]) }))), by decide +kernel⟩⟩

/-- Every hypothesis of SequencerPlanRows_2 can hold. -/
theorem witness_SequencerPlanRows_2 :
    (∃ (sp : Spire) (s : State), AtRow .rplan sp s ∧ (s.spire sp).zoneDesc = none)
    ∧ (∃ (sp : Spire) (p : Plan) (s : State), AtRow .wplan sp s ∧ s.planOf sp true (s.w sp (bits (s.mword sp) 8 4)) (s.w sp (bits (s.mword
      sp) 4 4)) = some p)
    ∧ (∃ (sp : Spire) (v : Nat) (s : State), AtRow .wget sp s ∧ (s.spire sp).field (s.w sp (bits (s.mword sp) 8 4)) (bits (s.mword sp) 0
      4) = some v)
    ∧ (∃ (sp : Spire) (s : State), AtRow .wget sp s ∧ (s.spire sp).plan = none) :=
  ⟨⟨(⟨0, 5⟩), (atWord ⟨0, 5⟩ 0xB23120 allOn), by decide +kernel⟩,
   ⟨(⟨0, 4⟩), (((allOn.updSpire ⟨0, 4⟩ (fun p =>
     { p with zoneDesc := some (1, 2, [0x90008000, 0x7F0005C0, 0, 0, 0x00100010, 0, 0, 0]) })).planOf ⟨0, 4⟩ true 0 0).getD
     { write := false, head := 0, zone := 0, track := 0, first := 0, count := 0, readers := 0, eqset := 0, wins := [], caps := [] }),
     (atWord ⟨0, 4⟩ 0xB33120 (allOn.updSpire ⟨0, 4⟩ (fun p =>
     { p with zoneDesc := some (1, 2, [0x90008000, 0x7F0005C0, 0, 0, 0x00100010, 0, 0, 0]) }))), by decide +kernel⟩,
   ⟨(⟨0, 4⟩), (77), (atWord ⟨0, 4⟩ 0xB43120 (allOn.updSpire ⟨0, 4⟩ (fun p =>
     { p with plan := some { write := false, head := 0, zone := 0, track := 0, first := 0, count := 0, readers := 0, eqset := 0, wins := [[some 77]], caps := [] } }))),
     by decide +kernel⟩,
   ⟨(⟨0, 4⟩), (atWord ⟨0, 4⟩ 0xB43120 allOn), by decide +kernel⟩⟩

/-- Every hypothesis of SequencerEventRows can hold. -/
theorem witness_SequencerEventRows :
    (∃ (sp : Spire) (p : Plan) (s : State), AtRow .captr sp s ∧ (s.spire sp).plan = some p ∧ p.queued = false)
    ∧ (∃ (sp : Spire) (p : Plan) (s : State), AtRow .captr sp s ∧ (s.spire sp).plan = some p ∧ p.queued = true)
    ∧ (∃ (sp : Spire) (v : Word) (l : List Word) (s : State), AtRow .outc sp s ∧ (s.spire sp).notes = [v] ++ l)
    ∧ (∃ (sp : Spire) (s : State), AtRow .outc sp s ∧ (s.spire sp).notes = [])
    ∧ (∃ (sp : Spire) (p : Plan) (s : State), AtRow .emitr sp s ∧ (s.spire sp).plan = some p ∧ p.write = true)
    ∧ (∃ (sp : Spire) (s : State), AtRow .emitr sp s ∧ (s.spire sp).plan = none)
    ∧ (∃ (sp : Spire) (s : State), AtRow .syncp sp s ∧ (s.spire sp).syncMet = true)
    ∧ (∃ (sp : Spire) (s : State), AtRow .syncp sp s ∧ (s.spire sp).syncMet = false ∧ s.partnerLost sp = true)
    ∧ (∃ (sp : Spire) (v : Word) (l : List Word) (rd : Nat) (s : State), spireValid sp = true ∧ s.halted = false ∧ s.spires.length = 32 ∧
      (s.spire sp).sstate = 2 ∧ (s.spire sp).wait = .outc rd ∧ (s.spire sp).notes = [v] ++ l)
    ∧ (∃ (sp : Spire) (rd c : Nat) (s : State), (s.spire sp).sstate = 2 ∧ (s.spire sp).wait = .waitc rd c ∧ s.cmpArmed (16 * sp.idx + c %
      16) = true) :=
  ⟨⟨(⟨0, 4⟩),
    ({ write := false, head := 0, zone := 0, track := 0, first := 0, count := 0, readers := 0, eqset := 0, wins := [[some 77]], caps := [{}, { ordinal := 1 }] }),
    (atWord ⟨0, 4⟩ 0xB53120 (allOn.updSpire ⟨0, 4⟩ (fun p =>
    { p with plan := some { write := false, head := 0, zone := 0, track := 0, first := 0, count := 0, readers := 0, eqset := 0, wins := [[some 77]], caps := [{}, { ordinal := 1 }] } }))),
    by decide +kernel⟩,
   ⟨(⟨0, 4⟩),
     ({ write := false, head := 0, zone := 0, track := 0, first := 0, count := 0, readers := 0, eqset := 0, wins := [[some 77]], caps := [], queued := true }),
     (atWord ⟨0, 4⟩ 0xB53120 (allOn.updSpire ⟨0, 4⟩ (fun p =>
     { p with plan := some { write := false, head := 0, zone := 0, track := 0, first := 0, count := 0, readers := 0, eqset := 0, wins := [[some 77]], caps := [], queued := true } }))),
     by decide +kernel⟩,
   ⟨(⟨0, 4⟩), (9), ([7]), (atWord ⟨0, 4⟩ 0xB63120 (allOn.updSpire ⟨0, 4⟩ (fun p => { p with notes := [9, 7] }))), by decide +kernel⟩,
   ⟨(⟨0, 4⟩), (atWord ⟨0, 4⟩ 0xB63120 allOn), by decide +kernel⟩,
   ⟨(⟨0, 4⟩),
     ({ write := true, head := 0, zone := 0, track := 0, first := 0, count := 3, readers := 0, eqset := 0, wins := [[some 77]], caps := [] }),
     (atWord ⟨0, 4⟩ 0xB73120 (allOn.updSpire ⟨0, 4⟩ (fun p =>
     { p with plan := some { write := true, head := 0, zone := 0, track := 0, first := 0, count := 3, readers := 0, eqset := 0, wins := [[some 77]], caps := [] } }))),
     by decide +kernel⟩,
   ⟨(⟨0, 4⟩), (atWord ⟨0, 4⟩ 0xB73120 allOn), by decide +kernel⟩,
   ⟨(⟨0, 4⟩), (atWord ⟨0, 4⟩ 0xB83120 (allOn.updSpire ⟨0, 4⟩ (fun p => { p with synced := true, syncMet := true }))), by decide +kernel⟩,
   ⟨(⟨0, 4⟩), (atWord ⟨0, 4⟩ 0xB83120 (allOn.updSpire ⟨0, 4⟩ (fun p => { p with running := some [0x00030000] }))), by decide +kernel⟩,
   ⟨(⟨0, 4⟩), (9), ([7]), (3), ((allOn.updSpire ⟨0, 4⟩ (fun p => { p with notes := [9, 7], sstate := 2, wait := .outc 3 }))), by
     decide +kernel⟩,
   ⟨(⟨0, 4⟩), (9), (7), (((allOn.updSpire ⟨0, 4⟩ (fun p => { p with sstate := 2, wait := .waitc 9 7 })).wr (ATB_CMP_CTL_ARM 0x47) 1)), by
     decide +kernel⟩⟩

/-- Every hypothesis of IntegrityRows can hold. -/
theorem witness_IntegrityRows :
    (∃ (sp : Spire) (s : State), AtRow .push sp s ∧ s.w sp (bits (s.mword sp) 4 4) = 0x10000000 ∧ s.w sp (bits (s.mword sp) 8 4) % 16 = 0
      ∧ s.busRead (sprPort sp) 0x10000000 32 = (s, { data := List.replicate 32 0#8 }))
    ∧ (∃ (sp : Spire) (s : State), AtRow .push sp s ∧ s.isOn bSPR 0 = true ∧ s.w sp (bits (s.mword sp) 4 4) = 0x10000000 ∧ sp.idx < 2 ∧
      s.w sp (bits (s.mword sp) 8 4) % 16 = 3 ∧ (s.spire ⟨0, 0⟩).queue = [] ∧ (s.spire ⟨0, 1⟩).queue = [] ∧ s.busRead (sprPort sp)
      0x10000000 32 = (s, { data := List.replicate 32 0#8 }))
    ∧ (∃ (sp : Spire) (s : State), AtRow .hinit sp s ∧ (s.spire sp).intOp = none ∧ s.isOn bFIX 0 = true)
    ∧ (∃ (sp : Spire) (s : State), AtRow .hinit sp s ∧ (s.spire sp).intOp.isSome = true)
    ∧ (∃ (sp : Spire) (s : State), AtRow .hupd sp s ∧ (s.spire sp).intOp = none ∧ s.isOn bFIX 0 = true)
    ∧ (∃ (sp : Spire) (s : State), AtRow .hfin sp s ∧ (s.spire sp).intOp = none ∧ s.isOn bFIX 0 = true)
    ∧ (∃ (sp : Spire) (s : State), AtRow .gfacc sp s ∧ (s.spire sp).intOp = none ∧ s.isOn bFIX 0 = true)
    ∧ (∃ (sp : Spire) (s : State), AtRow .gfacc sp s ∧ s.isOn bFIX 0 = false)
    ∧ (∃ (sp : Spire) (s : State), AtRow .gfsolve sp s ∧ (s.spire sp).intOp = none ∧ s.isOn bFIX 0 = true)
    ∧ (∃ (n ra rb : Nat) (s : State), n < 4 ∧ s.spires.length = 32 ∧ (s.spire ⟨3, n⟩).intOp = some (0, ra, rb)) :=
  ⟨⟨(⟨2, 1⟩), (atWord ⟨2, 1⟩ 0xB03120 (allOn.setW ⟨2, 1⟩ 2 0x10000000)), by decide +kernel⟩,
   ⟨(⟨2, 1⟩), (atWord ⟨2, 1⟩ 0xB03120 ((allOn.setW ⟨2, 1⟩ 2 0x10000000).setW ⟨2, 1⟩ 1 3)), by decide +kernel⟩,
   ⟨(⟨3, 1⟩), (atWord ⟨3, 1⟩ 0xB00120 allOn), by decide +kernel⟩,
   ⟨(⟨3, 1⟩), (atWord ⟨3, 1⟩ 0xB00120 (allOn.updSpire ⟨3, 1⟩ (fun p => { p with intOp := some (0, 0, 0) }))), by decide +kernel⟩,
   ⟨(⟨3, 1⟩), (atWord ⟨3, 1⟩ 0xB10120 allOn), by decide +kernel⟩,
   ⟨(⟨3, 1⟩), (atWord ⟨3, 1⟩ 0xB20120 allOn), by decide +kernel⟩,
   ⟨(⟨3, 1⟩), (atWord ⟨3, 1⟩ 0xB30120 allOn), by decide +kernel⟩,
   ⟨(⟨3, 1⟩), (atWord ⟨3, 1⟩ 0xB30120 (allOn.setSt bFIX 0 0)), by decide +kernel⟩,
   ⟨(⟨3, 1⟩), (atWord ⟨3, 1⟩ 0xB40120 allOn), by decide +kernel⟩,
   ⟨(3), (5), (6), ((allOn.updSpire ⟨3, 3⟩ (fun p => { p with intOp := some (0, 5, 6) })).wr ⟨FIX_BUSY, 3, 1⟩ 1), by decide +kernel⟩⟩

/-- Every hypothesis of ProtocolMicrowordRows can hold. -/
theorem witness_ProtocolMicrowordRows :
    (∃ (sp : Spire) (e : Nat × Nat) (l : List (Nat × Nat)) (s : State), AtRow .rxnext sp s ∧ s.aot.rxq = [e] ++ l ∧ e.1 = sp.idx)
    ∧ (∃ (sp : Spire) (s : State), AtRow .rxnext sp s ∧ s.aot.rxq = [])
    ∧ (∃ (sp : Spire) (s : State), AtRow .sess sp s ∧ s.w sp (bits (s.mword sp) 8 4) % 16 = sp.idx)
    ∧ (∃ (sp : Spire) (s : State), AtRow .sess sp s ∧ ¬ s.w sp (bits (s.mword sp) 8 4) % 16 = sp.idx)
    ∧ (∃ (sp : Spire) (s : State), AtRow .openOp sp s)
    ∧ (∃ (sp : Spire) (s : State), AtRow .openOp sp s ∧ s.keys.gcm = [])
    ∧ (∃ (sp : Spire) (x : Sess) (s : State), AtRow .seal sp s ∧ s.sessOf (s.spire sp).sess = x ∧ x.st = 2)
    ∧ (∃ (sp : Spire) (s : State), AtRow .seal sp s ∧ s.aot.sess = [])
    ∧ (∃ (sp : Spire) (q : Nat) (s : State), AtRow .rwin sp s ∧ (s.sessOf (s.spire sp).sess).ackSeen = some q ∧ s.w sp (bits (s.mword sp)
      4 4) % 2 = 1)
    ∧ (∃ (sp : Spire) (q : Nat) (s : State), AtRow .rmark sp s ∧ (s.sessOf (s.spire sp).sess).ackSeen = some q ∧ s.w sp (bits (s.mword sp)
      4 4) % 2 = 1 ∧ q < s.w sp (bits (s.mword sp) 8 4)) :=
  ⟨⟨(⟨1, 9⟩), ((9, 77)), ([(3, 4)]), (atWord ⟨1, 9⟩ 0xB03120 (allOn.updAot (fun a => { a with rxq := [(9, 77), (3, 4)] }))), by
    decide +kernel⟩,
   ⟨(⟨1, 9⟩), (atWord ⟨1, 9⟩ 0xB03120 allOn), by decide +kernel⟩,
   ⟨(⟨1, 9⟩), (atWord ⟨1, 9⟩ 0xB13120 (allOn.setW ⟨1, 9⟩ 1 25)), by decide +kernel⟩,
   ⟨(⟨1, 9⟩), (atWord ⟨1, 9⟩ 0xB13120 (allOn.setW ⟨1, 9⟩ 1 26)), by decide +kernel⟩,
   ⟨(⟨1, 9⟩), (atWord ⟨1, 9⟩ 0xB23120 (allOn.setGcm (gcmSlot 0 0 0) (some 5))), by decide +kernel⟩,
   ⟨(⟨1, 9⟩), (atWord ⟨1, 9⟩ 0xB23120 allOn), by decide +kernel⟩,
   ⟨(⟨1, 9⟩), ({ st := 2 }), (atWord ⟨1, 9⟩ 0xB33120 (allOn.setSess 0 { st := 2 })), by decide +kernel⟩,
   ⟨(⟨1, 9⟩), (atWord ⟨1, 9⟩ 0xB33120 allOn), by decide +kernel⟩,
   ⟨(⟨1, 9⟩), (5), (atWord ⟨1, 9⟩ 0xB43120 (((allOn.setSess 0 { ackSeen := some 5 }).setW ⟨1, 9⟩ 2 1).setW ⟨1, 9⟩ 1 6)), by decide +kernel⟩,
   ⟨(⟨1, 9⟩), (5), (atWord ⟨1, 9⟩ 0xB53120 (((allOn.setSess 0 { ackSeen := some 5 }).setW ⟨1, 9⟩ 2 1).setW ⟨1, 9⟩ 1 6)), by decide +kernel⟩⟩

/-- Every hypothesis of ProtocolMicrowordRows_2 can hold. -/
theorem witness_ProtocolMicrowordRows_2 :
    (∃ (sp : Spire) (q : Nat) (s : State), AtRow .rmark sp s ∧ (s.sessOf (s.spire sp).sess).ackSeen = some q ∧ s.w sp (bits (s.mword sp) 4
      4) % 2 = 1 ∧ s.w sp (bits (s.mword sp) 8 4) ≤ q)
    ∧ (∃ (sp : Spire) (s : State), AtRow .txq sp s ∧ s.isOn bETH (s.sessOf (s.spire sp).sess).peer.port = true)
    ∧ (∃ (sp : Spire) (s : State), AtRow .txq sp s ∧ s.isOn bETH (s.sessOf (s.spire sp).sess).peer.port = false)
    ∧ (∃ (sp : Spire) (i : Nat) (l : List Nat) (s : State), AtRow .timer sp s ∧ s.aot.expired = [i] ++ l ∧ i % 16 = sp.idx)
    ∧ (∃ (sp : Spire) (s : State), AtRow .timer sp s ∧ s.aot.expired = []) :=
  ⟨⟨(⟨1, 9⟩), (5), (atWord ⟨1, 9⟩ 0xB53120 (((allOn.setSess 0 { ackSeen := some 5 }).setW ⟨1, 9⟩ 2 1).setW ⟨1, 9⟩ 1 5)), by decide +kernel⟩,
   ⟨(⟨1, 9⟩), (atWord ⟨1, 9⟩ 0xB63120 allOn), by decide +kernel⟩,
   ⟨(⟨1, 9⟩), (atWord ⟨1, 9⟩ 0xB63120 (allOn.setSt bETH 0 0)), by decide +kernel⟩,
   ⟨(⟨1, 9⟩), (25), ([4]), (atWord ⟨1, 9⟩ 0xB73120 (allOn.updAot (fun a => { a with expired := [25, 4] }))), by decide +kernel⟩,
   ⟨(⟨1, 9⟩), (atWord ⟨1, 9⟩ 0xB73120 allOn), by decide +kernel⟩⟩

/-- Every hypothesis of MacroCommandRows can hold. -/
theorem witness_MacroCommandRows :
    (∃ (sp : Spire) (c : List Word) (l : List (List Word)) (s : State), AtRow .pop sp s ∧ ¬ sp.cls = 0 ∧ (s.spire sp).queue = [c] ++ l ∧
      fieldOf (nth c 0 0) 24 8 < 0x40)
    ∧ (∃ (sp : Spire) (s : State), AtRow .pop sp s ∧ (s.spire sp).queue = [])
    ∧ (∃ (sp : Spire) (s : State), AtRow .post sp s ∧ 8 ≤ fieldOf (BitVec.ofNat 32 (s.w sp 8)) 20 4)
    ∧ (∃ (sp : Spire) (g size prod : Nat) (s : State), AtRow .post sp s ∧ fieldOf (BitVec.ofNat 32 (s.w sp 8)) 20 4 = g ∧ g < 4 ∧ ringSize
      (s.rd (SPR_CRING_CFG_LOG2SIZE sp.cls g)) 4 10 6 = size ∧ s.rd (SPR_CRING_PROD_INDEX sp.cls g) = prod ∧ ¬ (prod + 65536 - s.rd
      (SPR_CRING_CONS_INDEX sp.cls g)) % 65536 = size)
    ∧ (∃ (sp : Spire) (g size prod : Nat) (s : State), AtRow .post sp s ∧ fieldOf (BitVec.ofNat 32 (s.w sp 8)) 20 4 = g ∧ g < 8 ∧ ringSize
      (s.rd (SPR_CRING_CFG_LOG2SIZE sp.cls g)) 4 10 6 = size ∧ s.rd (SPR_CRING_PROD_INDEX sp.cls g) = prod ∧ (prod + 65536 - s.rd
      (SPR_CRING_CONS_INDEX sp.cls g)) % 65536 = size)
    ∧ (∃ (cls : Nat) (val : Word) (sp : Spire) (s : State), cls < 4 ∧ s.admits (SPR_CMD cls) = true ∧ s.sprEnv.steps = [] ∧ s.sprSel cls =
      some sp ∧ s.isOn bSPR sp.cls = true ∧ s.spires.length = 32 ∧ (s.spire sp).sstate = 0 ∧ fieldOf val 1 1 = 0 ∧ fieldOf val 2 1 = 0)
    ∧ (∃ (cls : Nat) (val : Word) (sp : Spire) (s : State), cls < 4 ∧ s.admits (SPR_CMD cls) = true ∧ s.sprEnv.steps = [] ∧ s.sprSel cls =
      some sp ∧ s.spires.length = 32 ∧ ¬ sp.cls = 0 ∧ (s.spire sp).sstate = 2 ∧ (s.spire sp).running = none ∧ fieldOf val 0 1 = 0 ∧
      fieldOf val 2 1 = 0)
    ∧ (∃ (cls : Nat) (val : Word) (sp : Spire) (s : State), cls < 4 ∧ s.admits (SPR_CMD cls) = true ∧ s.sprEnv.steps = [] ∧ s.halted =
      false ∧ s.sprSel cls = some sp ∧ spireValid sp = true ∧ s.spires.length = 32 ∧ (s.spire sp).sstate = 0 ∧ csGood (s.spire sp).fetch =
      true ∧ s.mword sp = 0x700000 ∧ fieldOf val 0 1 = 0 ∧ fieldOf val 1 1 = 0)
    ∧ (∃ (cls : Nat) (val : Word) (sp : Spire) (s : State), cls < 4 ∧ s.admits (SPR_MC_FORCE cls) = true ∧ s.sprSel cls = some sp ∧
      s.spires.length = 32 ∧ ¬ sp.cls = 0 ∧ (s.spire sp).sstate = 1 ∧ (s.spire sp).running = none ∧ fieldOf val 0 1 = 1)
    ∧ (∃ (cls : Nat) (val : Word) (sp : Spire) (s : State), cls < 4 ∧ s.admits (SPR_CS_DATA cls) = true ∧ s.on (SPR_CS_ADDR_ALL cls) =
      false ∧ s.on (SPR_CS_ADDR_AUTO_INC cls) = false ∧ s.on (SPR_CS_ADDR_PAR_AUTO cls) = false ∧ s.sprSel cls = some sp ∧ s.spires.length
      = 32 ∧ (s.spire sp).sstate = 0) :=
  ⟨⟨(⟨2, 2⟩), ([0x20000005, 1, 2, 3, 4, 5, 6, 7]), ([[0x21000006, 1, 2, 3, 4, 5, 6, 7]]), (atWord ⟨2, 2⟩ 0xC00000 (allOn.updSpire ⟨2, 2⟩
    (fun p => { p with queue := [[0x20000005, 1, 2, 3, 4, 5, 6, 7], [0x21000006, 1, 2, 3, 4, 5, 6, 7]] }))), by decide +kernel⟩,
   ⟨(⟨0, 2⟩), (atWord ⟨0, 2⟩ 0xC00000 allOn), by decide +kernel⟩,
   ⟨(⟨0, 2⟩), (atWord ⟨0, 2⟩ 0xC11200 (allOn.setW ⟨0, 2⟩ 8 0x00F00000)), by decide +kernel⟩,
   ⟨(⟨1, 15⟩), (3), (64), (65535), (atWord ⟨1, 15⟩ 0xC112A5 (((allOn.setW ⟨1, 15⟩ 8 0x0030ABCD).setW ⟨1, 15⟩ 1 0x12345678).wr
     (SPR_CRING_PROD_INDEX 1 3) 65535)), by decide +kernel⟩,
   ⟨(⟨1, 15⟩), (7), (64), (64), (atWord ⟨1, 15⟩ 0xC112A5 ((allOn.setW ⟨1, 15⟩ 8 0x0070ABCD).wr (SPR_CRING_PROD_INDEX 1 7) 64)), by
     decide +kernel⟩,
   ⟨(1), (1), (⟨1, 15⟩), (allOn.wr (SPR_SEL_INDEX 1) 15), by decide +kernel⟩,
   ⟨(1), (2), (⟨1, 15⟩), (((allOn.wr (SPR_SEL_INDEX 1) 15).updSpire ⟨1, 15⟩ (fun p => { p with sstate := 2, wait := .pop }))), by
     decide +kernel⟩,
   ⟨(1), (4), (⟨1, 15⟩), (((atWord ⟨1, 15⟩ 0x700000 (allOn.wr (SPR_SEL_INDEX 1) 15)).updSpire ⟨1, 15⟩ (fun p => { p with sstate := 0 }))),
     by decide +kernel⟩,
   ⟨(1), (1), (⟨1, 15⟩), (((allOn.wr (SPR_SEL_INDEX 1) 15).updSpire ⟨1, 15⟩ (fun p => { p with sstate := 1 }))), by decide +kernel⟩,
   ⟨(1), (0x01700000), (⟨1, 15⟩), (((allOn.wr (SPR_SEL_INDEX 1) 15).wr (SPR_CS_ADDR_PAR_AUTO 1) 0).wr (SPR_CS_ADDR_AUTO_INC 1) 0), by
     decide +kernel⟩⟩

/-- Every hypothesis of MacroCommandRows_2 can hold. -/
theorem witness_MacroCommandRows_2 :
    (∃ (cls : Nat) (val : Word) (sp : Spire) (s : State), cls < 4 ∧ s.admits (SPR_CS_DATA cls) = true ∧ s.on (SPR_CS_ADDR_ALL cls) = false
      ∧ s.sprSel cls = some sp ∧ (s.spire sp).sstate = 1)
    ∧ (∃ (cls k : Nat) (val : Word) (s : State), cls < 4 ∧ k < 4 ∧ s.admits (SPR_QPUSH cls) = true ∧ s.isOn bSPR cls = true ∧
      s.spires.length = 32 ∧ fieldOf val 0 16 = 2 ^ k ∧ (s.spire ⟨cls, k⟩).queue.length < 16)
    ∧ (∃ (cls k : Nat) (val : Word) (s : State), cls < 4 ∧ k < 4 ∧ s.admits (SPR_QPUSH cls) = true ∧ s.isOn bSPR cls = true ∧ fieldOf val
      0 16 = 2 ^ k ∧ 16 ≤ (s.spire ⟨cls, k⟩).queue.length)
    ∧ (∃ (core : Nat) (words : List Word) (s : State), core < 2 ∧ s.halted = false ∧ words.length = 8 ∧ s.isOn bSPR 0 = true ∧
      s.spires.length = 32 ∧ s.sprEnv.mqW.length = 4 ∧ s.sprEnv.mqRes.length = 4 ∧ (s.spire ⟨0, 0⟩).queue = [])
    ∧ (∃ (core : Nat) (words : List Word) (s : State), core < 4 ∧ s.halted = false ∧ s.sprEnv.mqRes.length = 4) :=
  ⟨⟨(1), (0x01700000), (⟨1, 15⟩), (atWord ⟨1, 15⟩ 0x700000 (allOn.wr (SPR_SEL_INDEX 1) 15)), by decide +kernel⟩,
   ⟨(3), (3), (8), (allOn.setReg (SPR_QCMD 3 0) 0x300F0001), by decide +kernel⟩,
   ⟨(3), (3), (8), (allOn.updSpire ⟨3, 3⟩ (fun p => { p with queue := List.replicate 16 [0] })), by decide +kernel⟩,
   ⟨(1), ([0x10030005, 1, 2, 3, 4, 5, 6, 7]), (allOn), by decide +kernel⟩,
   ⟨(3), ([0x10030005, 1, 2, 3, 4, 5, 6, 7]), (allOn), by decide +kernel⟩⟩

/-- Every hypothesis of BaseImageMediaRows can hold. -/
theorem witness_BaseImageMediaRows :
    (∃ (sp : Spire) (s : State), sp.cls = 0 ∧ (s.spire sp).sstate = 0)
    ∧ (∃ (sp : Spire) (c : List Word) (q : State) (p : Plan) (s : State), Running sp s ∧ sp.cls = 0 ∧ (s.spire sp).running = some c ∧
      (s.spire sp).routine = none ∧ (s.spire sp).pc = 0x10 ∧ fieldOf (nth c 0 0) 24 8 = 0x10 ∧ s.imgPlan sp false (s.cw sp 6) = some (q,
      p) ∧ s.imgLead sp = true ∧ ((q.captr sp p (s.cw sp 4) (s.cw sp 5 % 256)).armAll sp ((q.captr sp p (s.cw sp 4) (s.cw sp 5 %
      256)).readArms sp 0 0 true)).2 = false)
    ∧ (∃ (sp : Spire) (c : List Word) (q : State) (p : Plan) (s : State), Running sp s ∧ sp.cls = 0 ∧ (s.spire sp).running = some c ∧
      (s.spire sp).routine = none ∧ (s.spire sp).pc = 0x11 ∧ fieldOf (nth c 0 0) 24 8 = 0x11 ∧ s.imgPlan sp true writeMargin = some (q, p)
      ∧ s.writeBarred sp = false ∧ sp.idx % 4 = 0 ∧ (q.busWord (sprPort sp) (s.cw sp 6 / 4 * 4)).2.2 = true ∧ (q.busWord (sprPort sp)
      (s.cw sp 6 / 4 * 4)).2.1.toNat = s.cw sp 7 ∧ ((((q.busWord (sprPort sp) (s.cw sp 6 / 4 * 4)).1.emitr sp p (s.cw sp 3) (s.cw sp
      4)).captr sp p 0 (s.cw sp 5 % 256)).armAll sp ((((q.busWord (sprPort sp) (s.cw sp 6 / 4 * 4)).1.emitr sp p (s.cw sp 3) (s.cw sp
      4)).captr sp p 0 (s.cw sp 5 % 256)).writeArms sp 0)).2 = false)
    ∧ (∃ (sp : Spire) (c : List Word) (s : State), Running sp s ∧ sp.cls = 0 ∧ (s.spire sp).running = some c ∧ (s.spire sp).routine = some
      { op := 0x10, stage := 9 } ∧ (s.spire sp).queue = [] ∧ 8 ≤ fieldOf (BitVec.ofNat 32 (s.w sp 8)) 20 4)
    ∧ (∃ (sp : Spire) (c : List Word) (s : State), Running sp s ∧ sp.cls = 0 ∧ (s.spire sp).running = some c ∧ (s.spire sp).routine = none
      ∧ (s.spire sp).pc = 0x10 ∧ fieldOf (nth c 0 0) 24 8 = 0x10 ∧ fieldOf (nth c 0 0) 16 4 = 0 ∧ 12 ≤ s.w sp 9 / 2 ^ 28)
    ∧ (∃ (sp : Spire) (c : List Word) (s : State), Running sp s ∧ sp.cls = 0 ∧ (s.spire sp).running = some c ∧ (s.spire sp).routine = some
      { op := 0x11, stage := 9 } ∧ (s.spire sp).queue = [] ∧ 8 ≤ fieldOf (BitVec.ofNat 32 (s.w sp 8)) 20 4 ∧ ¬ sp.idx % 4 = 0)
    ∧ (∃ (sp : Spire) (c : List Word) (s : State), Running sp s ∧ sp.cls = 0 ∧ (s.spire sp).running = some c ∧ (s.spire sp).routine = none
      ∧ (s.spire sp).pc = 0x11 ∧ fieldOf (nth c 0 0) 24 8 = 0x11 ∧ fieldOf (nth c 0 0) 16 4 = 0 ∧ 12 ≤ s.w sp 9 / 2 ^ 28)
    ∧ (∃ (sp : Spire) (c : List Word) (s : State), Running sp s ∧ sp.cls = 0 ∧ (s.spire sp).running = some c ∧ (s.spire sp).routine = some
      { op := 0x18, stage := 1 } ∧ s.mode (sprTower sp) = mFOLLOW ∧ (s.spire sp).queue = [] ∧ 8 ≤ fieldOf (BitVec.ofNat 32 (s.w sp 8)) 20
      4)
    ∧ (∃ (sp : Spire) (c : List Word) (q : State) (s : State), Running sp s ∧ sp.cls = 0 ∧ (s.spire sp).running = some c ∧ (s.spire
      sp).routine = none ∧ (s.spire sp).pc = 0x18 ∧ fieldOf (nth c 0 0) 24 8 = 0x18 ∧ s.storeAll sp [(SRV_TRACK (sprTower sp).idx, s.w sp
      9 * 256 % 2 ^ 32), (SRV_ENG_PROF_TGT (sprTower sp).idx, s.w sp 9 * 256 % 2 ^ 32), (SRV_ENG_PROF_CTL (sprTower sp).idx, 2 ^ 31)] =
      (q, true))
    ∧ (∃ (sp : Spire) (c : List Word) (s : State), Running sp s ∧ sp.cls = 0 ∧ (s.spire sp).running = some c ∧ (s.spire sp).routine = some
      { op := 0x19, stage := 1 } ∧ s.on (SRV_MODE_HEAD_PEND (sprTower sp).idx) = false ∧ (s.spire sp).queue = [] ∧ 8 ≤ fieldOf
      (BitVec.ofNat 32 (s.w sp 8)) 20 4) :=
  ⟨⟨(⟨0, 0⟩), (allOn), by decide +kernel⟩,
   ⟨(⟨0, 0⟩), ([0x10100005, 0, 0x08000000, 0x10000000, 0x10001000, 0, 0x10002000, 0]), ((((runAt 0x10).imgPlan ⟨0, 0⟩ false
     0x10002000).getD (allOn, {})).1), ((((runAt 0x10).imgPlan ⟨0, 0⟩ false 0x10002000).getD (allOn, {})).2), (runAt 0x10), by
     decide +kernel⟩,
   ⟨(⟨0, 0⟩), ([0x11100005, 0, 0x08000000, 0x10000000, 0x10001000, 0, 0x10002000, 0]), ((((runAt 0x11).imgPlan ⟨0, 0⟩ true
     writeMargin).getD (allOn, {})).1), ((((runAt 0x11).imgPlan ⟨0, 0⟩ true writeMargin).getD (allOn, {})).2), (runAt 0x11), by
     decide +kernel⟩,
   ⟨(⟨0, 5⟩), ([0x10F00005, 1, 2, 3, 4, 5, 6, 7]), ((allOn.updSpire ⟨0, 5⟩ (fun p =>
     { p with sstate := 1, pc := 0x10, running := some [0x10F00005, 1, 2, 3, 4, 5, 6, 7], w := p.w.take 8 ++ [0x10F00005, 1, 2, 3, 4, 5, 6, 7], routine := some { op := 0x10, stage := 9 } }))),
     by decide +kernel⟩,
   ⟨(⟨0, 5⟩), ([0x10F00005, 0xC0000000, 2, 3, 4, 5, 6, 7]), ((allOn.updSpire ⟨0, 5⟩ (fun p =>
     { p with sstate := 1, pc := 0x10, running := some [0x10F00005, 0xC0000000, 2, 3, 4, 5, 6, 7], w := p.w.take 8 ++ [0x10F00005, 0xC0000000, 2, 3, 4, 5, 6, 7] }))),
     by decide +kernel⟩,
   ⟨(⟨0, 5⟩), ([0x11F00005, 1, 2, 3, 4, 5, 6, 7]), ((allOn.updSpire ⟨0, 5⟩ (fun p =>
     { p with sstate := 1, pc := 0x11, running := some [0x11F00005, 1, 2, 3, 4, 5, 6, 7], w := p.w.take 8 ++ [0x11F00005, 1, 2, 3, 4, 5, 6, 7], routine := some { op := 0x11, stage := 9 } }))),
     by decide +kernel⟩,
   ⟨(⟨0, 4⟩), ([0x11F00005, 0xC0000000, 2, 3, 4, 5, 6, 7]), ((allOn.updSpire ⟨0, 4⟩ (fun p =>
     { p with sstate := 1, pc := 0x11, running := some [0x11F00005, 0xC0000000, 2, 3, 4, 5, 6, 7], w := p.w.take 8 ++ [0x11F00005, 0xC0000000, 2, 3, 4, 5, 6, 7] }))),
     by decide +kernel⟩,
   ⟨(⟨0, 5⟩), ([0x18F00005, 1, 2, 3, 4, 5, 6, 7]), (((allOn.wr (SRV_MODE_MODE 1) mFOLLOW).updSpire ⟨0, 5⟩ (fun p =>
     { p with sstate := 1, pc := 0x18, running := some [0x18F00005, 1, 2, 3, 4, 5, 6, 7], w := p.w.take 8 ++ [0x18F00005, 1, 2, 3, 4, 5, 6, 7], routine := some { op := 0x18, stage := 1 } }))),
     by decide +kernel⟩,
   ⟨(⟨0, 5⟩), ([0x18F00005, 1, 2, 3, 4, 5, 6, 7]), (((allOn.updSpire ⟨0, 5⟩ (fun p =>
     { p with sstate := 1, pc := 0x18, running := some [0x18F00005, 1, 2, 3, 4, 5, 6, 7], w := p.w.take 8 ++ [0x18F00005, 1, 2, 3, 4, 5, 6, 7], synced := false })).storeAll
     ⟨0, 5⟩ [(SRV_TRACK 1, 256), (SRV_ENG_PROF_TGT 1, 256), (SRV_ENG_PROF_CTL 1, 2 ^ 31)]).1), ((allOn.updSpire ⟨0, 5⟩ (fun p =>
     { p with sstate := 1, pc := 0x18, running := some [0x18F00005, 1, 2, 3, 4, 5, 6, 7], w := p.w.take 8 ++ [0x18F00005, 1, 2, 3, 4, 5, 6, 7], synced := false }))),
     by decide +kernel⟩,
   ⟨(⟨0, 5⟩), ([0x19F00005, 1, 2, 3, 4, 5, 6, 7]), ((allOn.updSpire ⟨0, 5⟩ (fun p =>
     { p with sstate := 1, pc := 0x19, running := some [0x19F00005, 1, 2, 3, 4, 5, 6, 7], w := p.w.take 8 ++ [0x19F00005, 1, 2, 3, 4, 5, 6, 7], routine := some { op := 0x19, stage := 1 } }))),
     by decide +kernel⟩⟩

/-- Every hypothesis of BaseImageMediaRows_2 can hold. -/
theorem witness_BaseImageMediaRows_2 :
    (∃ (sp : Spire) (c : List Word) (s : State), Running sp s ∧ sp.cls = 0 ∧ (s.spire sp).running = some c ∧ (s.spire sp).routine = some
      { op := 0x1A, stage := 1 } ∧ (s.spire sp).queue = [] ∧ 8 ≤ fieldOf (BitVec.ofNat 32 (s.w sp 8)) 20 4)
    ∧ (∃ (sp : Spire) (c : List Word) (s : State), Running sp s ∧ sp.cls = 0 ∧ (s.spire sp).running = some c ∧ (s.spire sp).routine = none
      ∧ (s.spire sp).pc = 0x1A ∧ fieldOf (nth c 0 0) 24 8 = 0x1A ∧ s.cmpArmed (16 * sp.idx) = false ∧ s.isOn bATB 0 = true ∧ s.w sp 10 %
      256 = s.epoch ∧ 2 ^ 31 ≤ (s.localAngle (sprTower sp) + 2 ^ 32 - s.w sp 9) % 2 ^ 32) :=
  ⟨⟨(⟨0, 5⟩), ([0x1AF00005, 1, 2, 3, 4, 5, 6, 7]), ((allOn.updSpire ⟨0, 5⟩ (fun p =>
    { p with sstate := 1, pc := 0x1A, running := some [0x1AF00005, 1, 2, 3, 4, 5, 6, 7], w := p.w.take 8 ++ [0x1AF00005, 1, 2, 3, 4, 5, 6, 7], routine := some { op := 0x1A, stage := 1 } }))),
    by decide +kernel⟩,
   ⟨(⟨0, 5⟩), ([0x1AF00005, 0x10000000, 0, 3, 4, 5, 6, 7]), ((allOn.updSpire ⟨0, 5⟩ (fun p =>
     { p with sstate := 1, pc := 0x1A, running := some [0x1AF00005, 0x10000000, 0, 3, 4, 5, 6, 7], w := p.w.take 8 ++ [0x1AF00005, 0x10000000, 0, 3, 4, 5, 6, 7] }))),
     by decide +kernel⟩⟩

/-- Every hypothesis of BaseImageObjectRows can hold. -/
theorem witness_BaseImageObjectRows :
    (∃ (sp : Spire) (c : List Word) (cmds : List (List Word)) (failed : Nat) (s : State), Running sp s ∧ sp.cls = 2 ∧ (s.spire sp).running
      = some c ∧ (s.spire sp).routine = some { op := 0x20, stage := 2 } ∧ (s.spire sp).ef1 = true ∧ (s.spire sp).queue = [] ∧ 8 ≤ fieldOf
      (BitVec.ofNat 32 (s.w sp 8)) 20 4)
    ∧ (∃ (sp : Spire) (c : List Word) (cmd : List Word) (s : State), Running sp s ∧ sp.cls = 2 ∧ (s.spire sp).running = some c ∧ (s.spire
      sp).routine = none ∧ (s.spire sp).pc = 0x20 ∧ fieldOf (nth c 0 0) 24 8 = 0x20 ∧ sp.idx < 2 ∧ s.isOn bSPR 0 = true ∧ cmd.length = 8 ∧
      fieldOf (nth cmd 0 0) 16 4 = 2 ∧ (s.spire ⟨0, 1⟩).queue = [])
    ∧ (∃ (sp : Spire) (c : List Word) (tail : List (Nat × List Byte)) (head band : Nat) (s : State), Running sp s ∧ sp.cls = 2 ∧ (s.spire
      sp).running = some c ∧ (s.spire sp).routine = none ∧ (s.spire sp).pc = 0x21 ∧ fieldOf (nth c 0 0) 24 8 = 0x21 ∧ (s.spire sp).queue =
      [] ∧ 8 ≤ fieldOf (BitVec.ofNat 32 (s.w sp 8)) 20 4)
    ∧ (∃ (sp : Spire) (c : List Word) (s : State), Running sp s ∧ sp.cls = 3 ∧ (s.spire sp).running = some c ∧ (s.spire sp).routine = none
      ∧ (s.spire sp).pc = 0x30 ∧ fieldOf (nth c 0 0) 24 8 = 0x30 ∧ (s.spire sp).intOp = none ∧ s.isOn bFIX 0 = true)
    ∧ (∃ (sp : Spire) (c : List Word) (s : State), Running sp s ∧ sp.cls = 3 ∧ (s.spire sp).running = some c ∧ (s.spire sp).routine = some
      { op := 0x30, stage := 2 } ∧ (s.spire sp).ef0 = true ∧ (s.spire sp).queue = [] ∧ 8 ≤ fieldOf (BitVec.ofNat 32 (s.w sp 8)) 20 4)
    ∧ (∃ (sp : Spire) (c : List Word) (s : State), Running sp s ∧ sp.cls = 3 ∧ (s.spire sp).running = some c ∧ (s.spire sp).routine = none
      ∧ (s.spire sp).pc = 0x31 ∧ fieldOf (nth c 0 0) 24 8 = 0x31 ∧ (s.spire sp).intOp = none ∧ s.isOn bFIX 0 = true)
    ∧ (∃ (sp : Spire) (c : List Word) (s : State), Running sp s ∧ sp.cls = 3 ∧ (s.spire sp).running = some c ∧ (s.spire sp).routine = none
      ∧ (s.spire sp).pc = 0x32 ∧ fieldOf (nth c 0 0) 24 8 = 0x32)
    ∧ (∃ (sp : Spire) (c : List Word) (s : State), Running sp s ∧ sp.cls = 3 ∧ (s.spire sp).running = some c ∧ (s.spire sp).routine = none
      ∧ (s.spire sp).pc = 0x33 ∧ fieldOf (nth c 0 0) 24 8 = 0x33 ∧ (s.spire sp).intOp = none ∧ s.isOn bFIX 0 = true)
    ∧ (∃ (sp : Spire) (c : List Word) (s : State), Running sp s ∧ sp.cls = 3 ∧ (s.spire sp).running = some c ∧ (s.spire sp).routine = some
      { op := 0x33, stage := 1 } ∧ (s.spire sp).ef0 = true ∧ (s.spire sp).queue = [] ∧ 8 ≤ fieldOf (BitVec.ofNat 32 (s.w sp 8)) 20 4) :=
  ⟨⟨(⟨2, 1⟩), ([0x20F00005, 1, 2, 3, 4, 5, 6, 7]), ([]), (3), ((allOn.updSpire ⟨2, 1⟩ (fun p =>
    { p with sstate := 1, pc := 0x20, running := some [0x20F00005, 1, 2, 3, 4, 5, 6, 7], w := p.w.take 8 ++ [0x20F00005, 1, 2, 3, 4, 5, 6, 7], routine := some { op := 0x20, stage := 2 }, ef1 := true }))),
    by decide +kernel⟩,
   ⟨(⟨2, 1⟩), ([0x20F00005, 1, 2, 3, 4, 5, 6, 7]), ([0x10020000, 0, 0, 0, 0, 0, 0, 0]), ((allOn.updSpire ⟨2, 1⟩ (fun p =>
     { p with sstate := 1, pc := 0x20, running := some [0x20F00005, 1, 2, 3, 4, 5, 6, 7], w := p.w.take 8 ++ [0x20F00005, 1, 2, 3, 4, 5, 6, 7], ef1 := false }))),
     by decide +kernel⟩,
   ⟨(⟨2, 3⟩), ([0x21F00005, 1, 2, 3, 4, 5, 6, 7]), ([(65540, [0, 0, 0, 0, 0, 0, 0, 0, 5, 0, 0, 0, 0, 0, 48, 2])]), (3), (7),
     ((allOn.updSpire ⟨2, 3⟩ (fun p =>
     { p with sstate := 1, pc := 0x21, running := some [0x21F00005, 1, 2, 3, 4, 5, 6, 7], w := p.w.take 8 ++ [0x21F00005, 1, 2, 3, 4, 5, 6, 7], ef1 := false }))),
     by decide +kernel⟩,
   ⟨(⟨3, 1⟩), ([0x30F00005, 1, 2, 3, 4, 5, 6, 7]), ((allOn.updSpire ⟨3, 1⟩ (fun p =>
     { p with sstate := 1, pc := 0x30, running := some [0x30F00005, 1, 2, 3, 4, 5, 6, 7], w := p.w.take 8 ++ [0x30F00005, 1, 2, 3, 4, 5, 6, 7], ef0 := false }))),
     by decide +kernel⟩,
   ⟨(⟨3, 1⟩), ([0x30F00005, 1, 2, 3, 4, 5, 6, 7]), ((allOn.updSpire ⟨3, 1⟩ (fun p =>
     { p with sstate := 1, pc := 0x30, running := some [0x30F00005, 1, 2, 3, 4, 5, 6, 7], w := p.w.take 8 ++ [0x30F00005, 1, 2, 3, 4, 5, 6, 7], routine := some { op := 0x30, stage := 2 }, ef0 := true }))),
     by decide +kernel⟩,
   ⟨(⟨3, 1⟩), ([0x31F00005, 1, 2, 3, 4, 5, 6, 7]), ((allOn.updSpire ⟨3, 1⟩ (fun p =>
     { p with sstate := 1, pc := 0x31, running := some [0x31F00005, 1, 2, 3, 4, 5, 6, 7], w := p.w.take 8 ++ [0x31F00005, 1, 2, 3, 4, 5, 6, 7], ef0 := false }))),
     by decide +kernel⟩,
   ⟨(⟨3, 1⟩), ([0x32F00005, 1, 2, 3, 4, 5, 6, 7]), ((allOn.updSpire ⟨3, 1⟩ (fun p =>
     { p with sstate := 1, pc := 0x32, running := some [0x32F00005, 1, 2, 3, 4, 5, 6, 7], w := p.w.take 8 ++ [0x32F00005, 1, 2, 3, 4, 5, 6, 7], ef0 := false }))),
     by decide +kernel⟩,
   ⟨(⟨3, 1⟩), ([0x33F00005, 1, 2, 3, 4, 5, 6, 7]), ((allOn.updSpire ⟨3, 1⟩ (fun p =>
     { p with sstate := 1, pc := 0x33, running := some [0x33F00005, 1, 2, 3, 4, 5, 6, 7], w := p.w.take 8 ++ [0x33F00005, 1, 2, 3, 4, 5, 6, 7], ef0 := false }))),
     by decide +kernel⟩,
   ⟨(⟨3, 1⟩), ([0x33F00005, 1, 2, 3, 4, 5, 6, 7]), ((allOn.updSpire ⟨3, 1⟩ (fun p =>
     { p with sstate := 1, pc := 0x33, running := some [0x33F00005, 1, 2, 3, 4, 5, 6, 7], w := p.w.take 8 ++ [0x33F00005, 1, 2, 3, 4, 5, 6, 7], routine := some { op := 0x33, stage := 1 }, ef0 := true }))),
     by decide +kernel⟩⟩

/-- Every hypothesis of EthernetRows can hold. -/
theorem witness_EthernetRows :
    (∃ (p : Nat) (l : List Byte) (s : State), p < 2 ∧ s.isOn bETH p = true ∧ fcsOk l = false)
    ∧ (∃ (p : Nat) (l : List Byte) (s : State), p < 2 ∧ s.isOn bETH p = true ∧ fcsOk l = true ∧ (l.length < 64 ∨ s.maxFrame p + (if
      frameTagged l then 4 else 0) < l.length))
    ∧ (∃ (p : Nat) (l : List Byte) (s : State), FrameIn p l s ∧ isPause l = true)
    ∧ (∃ (p : Nat) (l : List Byte) (s : State), FrameIn p l s ∧ isPause l = false ∧ (s.vlanOk p (frameVid l) = false ∨ s.dstOk p (frameDst
      l) (frameType l) = false ∨ [etARP, etIP4, etIP6, etLLDP].contains (frameType l) = false))
    ∧ (∃ (p : Nat) (l : List Byte) (s : State), FrameIn p l s ∧ isPause l = false ∧ s.vlanOk p (frameVid l) = true ∧ s.dstOk p (frameDst
      l) (frameType l) = true ∧ frameType l = etARP ∧ ¬ (nth s.eth p {}).loopNow = 4 ∧ s.engineUp (portEngine p) = true)
    ∧ (∃ (p : Nat) (l : List Byte) (s : State), FrameIn p l s ∧ isPause l = false ∧ s.vlanOk p (frameVid l) = true ∧ s.dstOk p (frameDst
      l) (frameType l) = true ∧ frameType l = etLLDP ∧ FwRoom s)
    ∧ (∃ (p : Nat) (l : List Byte) (q : IpPacket) (s : State), FrameIn p l s ∧ isPause l = false ∧ s.vlanOk p (frameVid l) = true ∧
      s.dstOk p (frameDst l) (frameType l) = true ∧ ipOf l = some q ∧ s.ipMine p q = true ∧ q.icmp = false ∧ q.udpOk = true ∧ atBe q.load
      2 2 = s.rd AOT_UDP_PORT ∧ s.isOn bAOT 0 = true ∧ ¬ (nth s.eth p {}).loopNow = 4 ∧ s.engineUp (portEngine p) = true)
    ∧ (∃ (p : Nat) (l : List Byte) (q : IpPacket) (s : State), FrameIn p l s ∧ isPause l = false ∧ s.vlanOk p (frameVid l) = true ∧
      s.dstOk p (frameDst l) (frameType l) = true ∧ ipOf l = some q ∧ (s.ipMine p q = false ∨ (q.icmp = false ∧ q.udpOk = false)))
    ∧ (∃ (p fec : Nat) (s : State), p < 2 ∧ s.isOn bETH p = true)
    ∧ (∃ (p : Nat) (s : State), p < 2 ∧ s.on (ETH_STAT_LINK p) = true) :=
  ⟨⟨(1), ([1, 2, 3]), (allOn), by decide +kernel⟩,
   ⟨(1), ([0, 0, 0, 0]), (allOn), by decide +kernel⟩,
   ⟨(0), (ethFrame 0x0180C2000001 0x8808 [0, 1]), (allOn), by decide +kernel⟩,
   ⟨(1), (ethFrame 5 etARP []), (allOn), by decide +kernel⟩,
   ⟨(1), (ethFrame 0xFFFFFFFFFFFF etARP []), (engUp 8 allOn), by decide +kernel⟩,
   ⟨(1), (ethFrame 0x0180C200000E etLLDP []), (allOn), by decide +kernel⟩,
   ⟨(1), (ethFrame 0 etIP4 (udpTo 4791)), ((ipOf (ethFrame 0 etIP4 (udpTo 4791))).getD ⟨false, 0, [], [], []⟩), ((((engUp 8 allOn).wr
     (ETH_IP_VALID_V4 1) 1).wr (ETH_IP4_ADDR 1 0) 0x0A000001).wr AOT_UDP_PORT 4791), by decide +kernel⟩,
   ⟨(1), (ethFrame 0 etIP4 (udpTo 4791)), ((ipOf (ethFrame 0 etIP4 (udpTo 4791))).getD ⟨false, 0, [], [], []⟩), (allOn), by decide +kernel⟩,
   ⟨(1), (2), (allOn), by decide +kernel⟩,
   ⟨(1), (allOn.wr (ETH_STAT_LINK 1) 1), by decide +kernel⟩⟩

/-- Every hypothesis of EthernetRows_2 can hold. -/
theorem witness_EthernetRows_2 :
    (∃ (p ip : Nat) (s : State), p < 2 ∧ s.isOn bETH p = true ∧ s.engineUp (8 * p) = true ∧ s.on (ETH_STAT_LINK p) = true ∧ (s.ip4s
      p).contains ip = true ∧ s.eth.length = 2)
    ∧ (∃ (p ip : Nat) (s : State), p < 2 ∧ (s.ip4s p).contains ip = false)
    ∧ (∃ (p ip : Nat) (s : State), p < 2 ∧ s.isOn bETH p = true ∧ s.engineUp (8 * p) = true ∧ s.on (ETH_STAT_LINK p) = true ∧ (s.ip6s
      p).contains ip = true ∧ s.eth.length = 2)
    ∧ (∃ (p ip : Nat) (s : State), p < 2 ∧ s.isOn bETH p = true ∧ s.engineUp (8 * p) = true ∧ s.on (ETH_STAT_LINK p) = true ∧ (s.ip4s
      p).contains ip = true ∧ s.eth.length = 2 ∧ ¬ (nth s.eth p {}).echoSec = s.usNow / 1000000 ∧ 1 ≤ s.rd (ETH_ICMP_RATE p))
    ∧ (∃ (p ip : Nat) (s : State), p < 2 ∧ s.isOn bETH p = true ∧ s.engineUp (8 * p) = true ∧ (nth s.eth p {}).echoSec = s.usNow / 1000000
      ∧ s.rd (ETH_ICMP_RATE p) ≤ (nth s.eth p {}).echoN)
    ∧ (∃ (s : State), s.isOn bAOT 0 = true ∧ ¬ s.rd AOT_FWTX_PROD_INDEX = s.rd AOT_FWTX_CONS_INDEX ∧ s.engineUp 0 = true ∧ s.engineUp 8 =
      true)
    ∧ (∃ (s : State), s.rd AOT_FWTX_PROD_INDEX = s.rd AOT_FWTX_CONS_INDEX)
    ∧ (∃ (p : Nat) (val : Word) (s : State), p < 2 ∧ s.admits (ETH_CNT_CLR p) = true ∧ fieldOf val 0 1 = 1)
    ∧ (∃ (val : Word) (s : State), s.admits AOT_CNT_CLR = true ∧ fieldOf val 0 1 = 1) :=
  ⟨⟨(1), (0x0A000001), (((engUp 8 allOn).wr (ETH_STAT_LINK 1) 1).wr (ETH_IP_VALID_V4 1) 1 |>.wr (ETH_IP4_ADDR 1 0) 0x0A000001), by
    decide +kernel⟩,
   ⟨(1), (0x0A000001), (allOn), by decide +kernel⟩,
   ⟨(1), (0), (((engUp 8 allOn).wr (ETH_STAT_LINK 1) 1).wr (ETH_IP_VALID_V6 1) 2), by decide +kernel⟩,
   ⟨(1), (0x0A000001), (((((((engUp 8 allOn).wr (ETH_STAT_LINK 1) 1).wr (ETH_IP_VALID_V4 1) 1).wr (ETH_IP4_ADDR 1 0) 0x0A000001).wr
     (ETH_ICMP_RATE 1) 5).updFwk (fun y => { y with mtime := 50000000 }))), by decide +kernel⟩,
   ⟨(1), (0x0A000001), ((engUp 8 allOn).wr (ETH_ICMP_RATE 1) 0), by decide +kernel⟩,
   ⟨((engUp 0 (engUp 8 allOn)).wr AOT_FWTX_PROD_INDEX 1), by decide +kernel⟩,
   ⟨(allOn), by decide +kernel⟩,
   ⟨(1), (1), (allOn.setReg (ETH_CNT 1 9) 7), by decide +kernel⟩,
   ⟨(1), (allOn.setReg (AOT_CNT 9) 7), by decide +kernel⟩⟩

/-- Every hypothesis of PacketRows can hold. -/
theorem witness_PacketRows :
    (∃ (rx : Peer) (h : AotHdr) (body frame : List Byte) (s : State), s.isOn bAOT 0 = false)
    ∧ (∃ (rx : Peer) (h : AotHdr) (body frame : List Byte) (s : State), s.isOn bAOT 0 = true ∧ s.aot.closingAll = false ∧ s.engineUp
      (portEngine rx.port) = true ∧ hdrGood h 0 body = true ∧ h.version = 0 ∧ (s.helloRate rx.ip).2 = false)
    ∧ (∃ (rx : Peer) (h : AotHdr) (body frame : List Byte) (s : State), HelloIn rx h body s ∧ (¬ s.rd DOM_MSTATE_MSTATE = 1 ∨ helloOk body
      = false) ∧ rx.port < 2 ∧ s.isOn bETH rx.port = true ∧ s.on (ETH_STAT_LINK rx.port) = true ∧ s.eth.length = 2)
    ∧ (∃ (rx : Peer) (h : AotHdr) (body frame : List Byte) (s : State), HelloIn rx h body s ∧ s.rd DOM_MSTATE_MSTATE = 1 ∧ helloOk body =
      true ∧ s.aot.sess = [] ∧ s.on AOT_CFG_COOKIE_ALWAYS = true ∧ (List.range 2).all (fun k => !(atBe body 133 16 == cookieOf (nth
      [s.aot.cookieKey, s.aot.cookiePrev] k 0) rx (atBe body 4 32))) = true ∧ rx.port < 2 ∧ s.isOn bETH rx.port = true ∧ s.on
      (ETH_STAT_LINK rx.port) = true ∧ s.eth.length = 2)
    ∧ (∃ (rx : Peer) (h : AotHdr) (body frame : List Byte) (v : Nat) (s : State), HelloIn rx h body s ∧ s.rd DOM_MSTATE_MSTATE = 1 ∧
      helloOk body = true ∧ s.aot.sess = [] ∧ s.on AOT_CFG_COOKIE_ALWAYS = false ∧ s.rd AOT_STAT_HANDSHAKE = 0 ∧ versionOf (atBe body 0 1)
      (s.rd AOT_CFG_VER_EN) = some v)
    ∧ (∃ (rx : Peer) (h : AotHdr) (body gtag pt : List Byte) (s : State), AuthPart rx h body gtag pt s ∧ FwRoom s ∧ (authHeld s h
      pt).authMsg = none)
    ∧ (∃ (rx : Peer) (h : AotHdr) (body gtag pt msg : List Byte) (s : State), AuthPart rx h body gtag pt s ∧ FwRoom s ∧ (authHeld s h
      pt).authMsg = some msg ∧ s.aot.closingAll = false)
    ∧ (∃ (rx : Peer) (h : AotHdr) (body gtag : List Byte) (p : RelPkt) (s : State), s.isOn bAOT 0 = true ∧ s.engineUp (portEngine rx.port)
      = true ∧ hdrGood h 3 body = true ∧ h.version = 0 ∧ (s.sessOf (h.sid % 4096)).counter = h.sid / 4096 ∧ (s.sessOf (h.sid % 4096)).st =
      2 ∧ (s.sessOf (h.sid % 4096)).unacked.find? (fun q => q.typ == 4) = some p)
    ∧ (∃ (rx : Peer) (h : AotHdr) (body gtag : List Byte) (s : State), s.isOn bAOT 0 = true ∧ s.engineUp (portEngine rx.port) = true ∧
      hdrGood h 3 body = true ∧ h.version = 0 ∧ (s.sessOf (h.sid % 4096)).st = 0)
    ∧ (∃ (rx : Peer) (h : AotHdr) (body gtag : List Byte) (s : State), Passes 5 h body s ∧ opened s 5 h body gtag = none) :=
  ⟨⟨({}), ({}), ([]), ([]), (allOn.setSt bAOT 0 0), by decide +kernel⟩,
   ⟨({}), ({ version := 0, epoch := 0, plen := 152 }), (helloBody), ([1, 2]), ((engUp 0 allOn).wr AOT_HELLO_ALL 0), by decide +kernel⟩,
   ⟨({}), ({ version := 0, epoch := 0, plen := 152 }), (helloBody), ([1, 2]), ((((engUp 0 allOn).wr DOM_MSTATE_MSTATE 2).wr (ETH_STAT_LINK
     0) 1)), by decide +kernel⟩,
   ⟨({}), ({ version := 0, epoch := 0, plen := 152 }), (helloBody), ([1, 2]), (((((((engUp 0 allOn).wr DOM_MSTATE_MSTATE 1).wr
     AOT_CFG_COOKIE_ALWAYS 0).wr AOT_CFG_VER_EN 7).wr AOT_CFG_COOKIE_ALWAYS 1).wr (ETH_STAT_LINK 0) 1)), by decide +kernel⟩,
   ⟨({}), ({ version := 0, epoch := 0, plen := 152 }), (helloBody), ([1, 2]), (3), (((((engUp 0 allOn).wr DOM_MSTATE_MSTATE 1).wr
     AOT_CFG_COOKIE_ALWAYS 0).wr AOT_CFG_VER_EN 7)), by decide +kernel⟩,
   ⟨({}), ({ version := 0, epoch := 0, flags := 0 }), ([]), (tagOf 3 { version := 0, epoch := 0, flags := 0 } []), ([]), ((withKey 0
     ((engUp 0 allOn).setSess 0 { st := 1, version := 3 }))), by decide +kernel⟩,
   ⟨({}), ({ version := 0, epoch := 0, flags := 2 }), ([]), (tagOf 3 { version := 0, epoch := 0, flags := 2 } []), ([]), ([]), ((withKey 0
     ((engUp 0 allOn).setSess 0 { st := 1, version := 3 }))), by decide +kernel⟩,
   ⟨({}), ({ version := 0, epoch := 0 }), ([]), ([]), ({ seq := 0, typ := 4 }), ((engUp 0 allOn).setSess 0
     { st := 2, version := 3, unacked := [{ seq := 0, typ := 4 }] }), by decide +kernel⟩,
   ⟨({}), ({ version := 0, epoch := 0 }), ([]), ([]), (engUp 0 allOn), by decide +kernel⟩,
   ⟨({}), ({}), ([]), ([]), (openSess), by decide +kernel⟩⟩

/-- Every hypothesis of PacketRows_2 can hold. -/
theorem witness_PacketRows_2 :
    (∃ (rx : Peer) (h : AotHdr) (body gtag pt : List Byte) (s : State), Passes 5 h body s ∧ opened s 5 h body gtag = some pt ∧ Quiet
      (h.sid % 4096) s ∧ (s.sessOf (h.sid % 4096)).tags.length = 32 ∧ (nth (s.sessOf (h.sid % 4096)).tags (h.tag % 32) {}).st = 0 ∧ h.gen
      = ((nth (s.sessOf (h.sid % 4096)).tags (h.tag % 32) {}).last + 1) % 65536 ∧ ¬ h.version = 1 ∧ s.obj.cmds.length < 8192 ∧
      s.obj.resetting = false ∧ s.obj.activating = none ∧ (s.sessOf (h.sid % 4096)).resetSeq = none ∧ h.opcode = 2)
    ∧ (∃ (rx : Peer) (h : AotHdr) (body gtag pt : List Byte) (s : State), Passes 6 h body s ∧ opened s 6 h body gtag = some pt ∧ Quiet
      (h.sid % 4096) s ∧ (nth (s.sessOf (h.sid % 4096)).tags (h.tag % 32) {}).st = 1 ∧ h.gen = (nth (s.sessOf (h.sid % 4096)).tags (h.tag
      % 32) {}).live)
    ∧ (∃ (rx : Peer) (h : AotHdr) (body gtag pt : List Byte) (s : State), Passes 8 h body s ∧ opened s 8 h body gtag = some pt ∧ Quiet
      (h.sid % 4096) s ∧ h.flags % 2 = 0)
    ∧ (∃ (rx : Peer) (h : AotHdr) (body gtag pt : List Byte) (s : State), Passes 9 h body s ∧ opened s 9 h body gtag = some pt ∧ Quiet
      (h.sid % 4096) s ∧ h.version = 3)
    ∧ (∃ (rx : Peer) (h : AotHdr) (body gtag pt : List Byte) (s : State), Passes 10 h body s ∧ opened s 10 h body gtag = some pt ∧ Quiet
      (h.sid % 4096) s ∧ s.obj.cmds = [])
    ∧ (∃ (rx : Peer) (h : AotHdr) (body gtag pt : List Byte) (s : State), Passes 11 h body s ∧ opened s 11 h body gtag = some pt ∧ Quiet
      (h.sid % 4096) s ∧ s.obj.cmds = []) :=
  ⟨⟨({}), ({ gen := 1, opcode := 2 }), ([]), (tagOf 5 { gen := 1, opcode := 2 } []), ([]), (withKey 1 (openSess)), by decide +kernel⟩,
   ⟨({}), ({ gen := 1 }), ([]), (tagOf 6 { gen := 1 } []), ([]), (withKey 1 ((engUp 0 allOn).setSess 0
     { st := 2, version := 3, tags := [{ st := 1, live := 1 }] })), by decide +kernel⟩,
   ⟨({}), ({}), ([]), (tagOf 8 {} []), ([]), (withKey 1 (openSess)), by decide +kernel⟩,
   ⟨({}), ({}), ([]), (tagOf 9 {} []), ([]), (withKey 1 (openSess)), by decide +kernel⟩,
   ⟨({}), ({}), ([]), (tagOf 10 {} []), ([]), (withKey 1 (openSess)), by decide +kernel⟩,
   ⟨({}), ({}), ([]), (tagOf 11 {} []), ([]), (withKey 1 (openSess)), by decide +kernel⟩⟩

/-- Every hypothesis of SessionTimerRows can hold. -/
theorem witness_SessionTimerRows :
    (∃ (i : Nat) (s : State), i < 4096 ∧ (s.sessOf i).st = 1 ∧ s.engineUp (i % 16) = true ∧ s.aot.closingAll = false)
    ∧ (∃ (i : Nat) (s : State), (s.sessOf i).st = 2 ∧ s.rd AOT_RETRY_IDLE = 0)
    ∧ (∃ (i : Nat) (s : State), (s.sessOf i).st = 2 ∧ s.engineUp (i % 16) = true ∧ ¬ s.rd AOT_RETRY_IDLE = 0 ∧ s.obj.cmds = [] ∧ Quiet i s
      ∧ ¬ (s.sessOf i).version = 3)
    ∧ (∃ (i : Nat) (p : RelPkt) (l : List RelPkt) (s : State), s.engineUp (i % 16) = true ∧ (s.sessOf i).unacked = [p] ++ l ∧ p.resends <
      atLeast1 (s.rd AOT_RETRY_MAX))
    ∧ (∃ (i : Nat) (s : State), (s.sessOf i).unacked = [])
    ∧ (∃ (i k : Nat) (s : State), s.engineUp (i % 16) = true ∧ (s.sessOf i).st = 2 ∧ (s.sessOf i).delayOn = true ∧ s.gcmKey (gcmSlot i 1
      (s.sessOf i).txEpoch) = some k)
    ∧ (∃ (i : Nat) (s : State), i < 4096 ∧ (s.sessOf i).st = 3 ∧ s.engineUp (i % 16) = true ∧ (s.sessOf i).closeDone = true ∧
      s.aot.closingAll = false)
    ∧ (∃ (i : Nat) (s : State), (s.sessOf i).st = 3 ∧ (s.sessOf i).closeDone = false)
    ∧ (∃ (val : Word) (i : Nat) (s : State), s.admits AOT_SESS_CTL = true ∧ s.rd AOT_SESS_SEL_INDEX = i ∧ (s.sessOf i).st = 1 ∧ (s.sessOf
      i).keysLoaded = true ∧ (s.sessOf i).next < 0xFFFFFFFF ∧ Quiet i s ∧ fieldOf val 31 1 = 0)
    ∧ (∃ (val : Word) (i : Nat) (s : State), s.admits AOT_SESS_CTL = true ∧ s.rd AOT_SESS_SEL_INDEX = i ∧ (s.sessOf i).st = 1 ∧
      s.aot.closingAll = false) :=
  ⟨⟨(4095), ((engUp 15 allOn).setSess 4095 { st := 1, counter := 9 }), by decide +kernel⟩,
   ⟨(9), ((allOn.setSess 9 { st := 2 }).wr AOT_RETRY_IDLE 0), by decide +kernel⟩,
   ⟨(9), (((engUp 9 allOn).setSess 9 { st := 2 }).wr AOT_RETRY_IDLE 3), by decide +kernel⟩,
   ⟨(25), ({ seq := 3, typ := 7 }), ([{ seq := 4, typ := 7 }]), ((engUp 9 allOn).setSess 25
     { st := 2, unacked := [{ seq := 3, typ := 7 }, { seq := 4, typ := 7 }] }), by decide +kernel⟩,
   ⟨(25), (allOn), by decide +kernel⟩,
   ⟨(25), (7), (((engUp 9 allOn).setSess 25 { st := 2, delayOn := true, sinceAck := 1 }).setGcm (gcmSlot 25 1 1) (some 7)), by
     decide +kernel⟩,
   ⟨(25), ((engUp 9 allOn).setSess 25 { st := 3, closeDone := true, counter := 9 }), by decide +kernel⟩,
   ⟨(25), (allOn.setSess 25 { st := 3 }), by decide +kernel⟩,
   ⟨(0), (5), ((allOn.wr AOT_SESS_SEL_INDEX 5).setSess 5 { st := 1, version := 2, keysLoaded := true }), by decide +kernel⟩,
   ⟨(0), (5), ((allOn.wr AOT_SESS_SEL_INDEX 5).setSess 5 { st := 1, version := 2, keysLoaded := true }), by decide +kernel⟩⟩

/-- Every hypothesis of SessionTimerRows_2 can hold. -/
theorem witness_SessionTimerRows_2 :
    (∃ (s : State), s.aot.closingAll = false)
    ∧ (∃ (i : Nat) (x : Sess) (s : State), s.aot.closingAll = true ∧ s.aot.sess = [(i, x)] ∧ ¬ x.st = 0 ∧ s.st bAOT 0 = stSTOPPING ∧
      s.fwk.softWait = [] ∧ s.rpend bAOT 0 = false ∧ s.isFaultStop bAOT 0 = false) :=
  ⟨⟨(allOn), by decide +kernel⟩,
   ⟨(5), ({ st := 3, counter := 8 }), (((allOn.setSt bAOT 0 stSTOPPING).setSess 5 { st := 3, counter := 8 }).updAot (fun a =>
     { a with closingAll := true })), by decide +kernel⟩⟩

/-- Every hypothesis of ObjectDataRows can hold. -/
theorem witness_ObjectDataRows :
    (∃ (i tag : Nat) (c : Cmd) (s : State), Ready i tag 1 c s ∧ c.acked = false ∧ s.objOf c.vault c.handle = none ∧ s.towerFailed .A =
      false ∧ c.num 76 1 = 0 ∧ s.nextIncarn c.handle < 65536 ∧ c.len ≤ s.freeBytes .A)
    ∧ (∃ (i tag : Nat) (c : Cmd) (s : State), Ready i tag 1 c s ∧ c.acked = false ∧ s.objOf c.vault c.handle = none ∧ s.towerFailed .A =
      false ∧ c.num 76 1 = 0 ∧ s.nextIncarn c.handle < 65536 ∧ s.freeBytes .A < c.len)
    ∧ (∃ (i tag : Nat) (c : Cmd) (o : Obj) (s : State), Ready i tag 1 c s ∧ c.acked = false ∧ s.objOf c.vault c.handle = some o ∧ ¬ o.st =
      1)
    ∧ (∃ (i tag : Nat) (c : Cmd) (o : Obj) (s : State), Ready i tag 1 c s ∧ c.acked = false ∧ s.putObj c = some o ∧ c.putReady = 1 ∧
      c.flag 0 = false ∧ s.ackPending.length < 126)
    ∧ (∃ (i tag : Nat) (c : Cmd) (o : Obj) (s : State), Ready i tag 1 c s ∧ c.acked = false ∧ s.putObj c = some o ∧ c.putReady = 2)
    ∧ (∃ (o : Obj) (s : State), s.objOf o.vault o.handle = some o ∧ o.st = 2 ∧ s.onMedia o = true ∧ s.obj.cmds = [])
    ∧ (∃ (o : Obj) (s : State), s.objOf o.vault o.handle = some o ∧ s.onMedia o = false)
    ∧ (∃ (o : Obj) (c : Cmd) (s : State), Ready o.sess o.tag 1 c s ∧ s.obj.cmds = [c] ∧ s.objOf o.vault o.handle = some o ∧ o.st = 2 ∧
      s.onMedia o = true ∧ c.vault = o.vault ∧ c.handle = o.handle ∧ c.sess = o.sess ∧ c.tag = o.tag ∧ c.gen = o.gen ∧ c.flag 0 = true ∧
      c.flag 1 = false ∧ c.acked = true)
    ∧ (∃ (i tag : Nat) (c : Cmd) (s : State), Ready i tag 2 c s ∧ s.seen c.vault c.handle = none)
    ∧ (∃ (i tag : Nat) (c : Cmd) (o : Obj) (s : State), Ready i tag 2 c s ∧ s.seen c.vault c.handle = some o ∧ c.len = 0 ∧ c.offset ≤
      o.len ∧ c.flag 3 = false ∧ s.unrecovered o c.offset (o.len - c.offset) [] = [] ∧ (s.sessOf i).next + 2 * o.len < 0xFFFFFFFD) :=
  ⟨⟨(0), (0), ({ sess := 0, tag := 0, opcode := 1, started := true, vault := 1, handle := 5, len := 9 }), (((cmdIn
    [{ sess := 0, tag := 0, opcode := 1, started := true, vault := 1, handle := 5, len := 9 }]).wr (SRV_CFG_NHEADS 0) 1).setWords 0
    [0x90000000, 0, 0, 100, 0, 1, 0, 0]), by decide +kernel⟩,
   ⟨(0), (0), ({ sess := 0, tag := 0, opcode := 1, started := true, vault := 1, handle := 5, len := 9 }), (cmdIn
     [{ sess := 0, tag := 0, opcode := 1, started := true, vault := 1, handle := 5, len := 9 }]), by decide +kernel⟩,
   ⟨(0), (0), ({ sess := 0, tag := 0, opcode := 1, started := true, vault := 1, handle := 5 }),
     ({ vault := 1, handle := 5, st := 3, len := 4 }), ((cmdIn
     [{ sess := 0, tag := 0, opcode := 1, started := true, vault := 1, handle := 5 }]).updObj (fun y =>
     { y with objs := [{ vault := 1, handle := 5, st := 3, len := 4 }] })), by decide +kernel⟩,
   ⟨(0), (0),
     ({ sess := 0, tag := 0, opcode := 1, started := true, vault := 1, handle := 5, len := 4, chunks := [(0, [1#8, 2#8, 3#8, 4#8])] }),
     ({ vault := 1, handle := 5, st := 1, len := 4 }), ((cmdIn
     [{ sess := 0, tag := 0, opcode := 1, started := true, vault := 1, handle := 5, len := 4, chunks := [(0, [1#8, 2#8, 3#8, 4#8])] }]).updObj
     (fun y => { y with objs := [{ vault := 1, handle := 5, st := 1, len := 4 }] })), by decide +kernel⟩,
   ⟨(0), (0),
     ({ sess := 0, tag := 0, opcode := 1, started := true, vault := 1, handle := 5, len := 2, chunks := [(0, [1#8, 2#8, 3#8, 4#8])] }),
     ({ vault := 1, handle := 5, st := 1, len := 4 }), ((cmdIn
     [{ sess := 0, tag := 0, opcode := 1, started := true, vault := 1, handle := 5, len := 2, chunks := [(0, [1#8, 2#8, 3#8, 4#8])] }]).updObj
     (fun y => { y with objs := [{ vault := 1, handle := 5, st := 1, len := 4 }] })), by decide +kernel⟩,
   ⟨({ vault := 1, handle := 5, st := 2, len := 4 }), ((allOn.updObj (fun y =>
     { y with objs := [{ vault := 1, handle := 5, st := 2, len := 4 }] })).updLay .A (fun y =>
     { y with places := [{ frag := 5, incarn := 0, idx := 0, vault := 1, band := 0, member := 0, slot := 0 }] })), by decide +kernel⟩,
   ⟨({ vault := 1, handle := 5, st := 2, len := 4 }), (allOn.updObj (fun y =>
     { y with objs := [{ vault := 1, handle := 5, st := 2, len := 4 }] })), by decide +kernel⟩,
   ⟨({ vault := 1, handle := 5, st := 2, len := 4 }),
     ({ sess := 0, tag := 0, opcode := 1, started := true, acked := true, cflags := 1, vault := 1, handle := 5, len := 4 }), (((cmdIn
     [{ sess := 0, tag := 0, opcode := 1, started := true, acked := true, cflags := 1, vault := 1, handle := 5, len := 4 }]).updObj (fun y
     => { y with objs := [{ vault := 1, handle := 5, st := 2, len := 4 }] })).updLay .A (fun y =>
     { y with places := [{ frag := 5, incarn := 0, idx := 0, vault := 1, band := 0, member := 0, slot := 0 }] })), by decide +kernel⟩,
   ⟨(0), (0), ({ sess := 0, tag := 0, opcode := 2, started := true, vault := 1, handle := 5 }), (cmdIn
     [{ sess := 0, tag := 0, opcode := 2, started := true, vault := 1, handle := 5 }]), by decide +kernel⟩,
   ⟨(0), (0), ({ sess := 0, tag := 0, opcode := 2, started := true, vault := 1, handle := 5 }),
     ({ vault := 1, handle := 5, st := 3, len := 4 }), ((cmdIn
     [{ sess := 0, tag := 0, opcode := 2, started := true, vault := 1, handle := 5 }]).updObj (fun y =>
     { y with objs := [{ vault := 1, handle := 5, st := 3, len := 4 }] })), by decide +kernel⟩⟩

/-- Every hypothesis of ObjectDataRows_2 can hold. -/
theorem witness_ObjectDataRows_2 :
    (∃ (i tag : Nat) (c : Cmd) (o : Obj) (s : State), Ready i tag 2 c s ∧ s.seen c.vault c.handle = some o ∧ c.len = 0 ∧ c.offset < o.len
      ∧ (o.read c.offset (o.len - c.offset)).length = o.len - c.offset ∧ o.len - c.offset ≤ (s.sessOf i).maxPl ∧ c.flag 3 = false ∧
      s.unrecovered o c.offset (o.len - c.offset) [] = [] ∧ (s.sessOf i).next < 0xFFFFFFF8)
    ∧ (∃ (i tag : Nat) (c : Cmd) (o : Obj) (s : State), Ready i tag 3 c s ∧ s.seen c.vault c.handle = some o)
    ∧ (∃ (i tag : Nat) (c : Cmd) (st : Nat) (s : State), s.cmdOf i tag = some c ∧ c.opcode = 3 ∧ c.started = false ∧ c.done = false ∧
      (s.sessOf i).st = 2 ∧ s.blocked c = false ∧ s.fwk.holdup = false ∧ (s.sessOf i).next < 0xFFFFFFFF ∧ Quiet i s ∧ s.cmdCheck c = some
      st)
    ∧ (∃ (i tag : Nat) (c : Cmd) (s : State), s.cmdOf i tag = some c ∧ c.opcode = 3 ∧ s.blocked c = true)
    ∧ (∃ (i tag : Nat) (c : Cmd) (o : Obj) (s : State), Ready i tag 4 c s ∧ s.seen c.vault c.handle = some o ∧ o.holds = [] ∧ o.retain ≤
      s.dom.clock)
    ∧ (∃ (i tag : Nat) (c : Cmd) (o : Obj) (s : State), Ready i tag 4 c s ∧ s.seen c.vault c.handle = some o ∧ o.holds = [] ∧ o.retain ≤
      s.dom.clock)
    ∧ (∃ (i tag : Nat) (c : Cmd) (o : Obj) (s : State), Ready i tag 4 c s ∧ s.seen c.vault c.handle = some o ∧ ¬ o.holds = [])
    ∧ (∃ (i tag : Nat) (c : Cmd) (o : Obj) (s : State), Ready i tag 4 c s ∧ s.seen c.vault c.handle = some o ∧ o.holds = [] ∧ s.dom.clock
      < o.retain) :=
  ⟨⟨(0), (0), ({ sess := 0, tag := 0, opcode := 2, started := true, vault := 1, handle := 5 }),
    ({ vault := 1, handle := 5, st := 3, len := 4, bytes := [(0, [1#8, 2#8, 3#8, 4#8])] }), ((cmdIn
    [{ sess := 0, tag := 0, opcode := 2, started := true, vault := 1, handle := 5 }]).updObj (fun y =>
    { y with objs := [{ vault := 1, handle := 5, st := 3, len := 4, bytes := [(0, [1#8, 2#8, 3#8, 4#8])] }] })), by decide +kernel⟩,
   ⟨(0), (0), ({ sess := 0, tag := 0, opcode := 3, started := true, vault := 1, handle := 5 }),
     ({ vault := 1, handle := 5, st := 3, len := 4 }), ((cmdIn
     [{ sess := 0, tag := 0, opcode := 3, started := true, vault := 1, handle := 5 }]).updObj (fun y =>
     { y with objs := [{ vault := 1, handle := 5, st := 3, len := 4 }] })), by decide +kernel⟩,
   ⟨(0), (0), ({ sess := 0, tag := 0, opcode := 3, block := [0#8, 0#8, 1#8, 9#8] }), (stINVALID_FIELD), (cmdIn
     [{ sess := 0, tag := 0, opcode := 3, block := [0#8, 0#8, 1#8, 9#8] }]), by decide +kernel⟩,
   ⟨(0), (1), ({ sess := 0, tag := 1, opcode := 3, seq := 1, cflags := 4 }), (cmdIn [{ sess := 0, tag := 0, opcode := 3 },
     { sess := 0, tag := 1, opcode := 3, seq := 1, cflags := 4 }]), by decide +kernel⟩,
   ⟨(0), (0), ({ sess := 0, tag := 0, opcode := 4, started := true, vault := 1, handle := 5 }),
     ({ vault := 1, handle := 5, st := 3, len := 4 }), ((cmdIn
     [{ sess := 0, tag := 0, opcode := 4, started := true, vault := 1, handle := 5 }]).updObj (fun y =>
     { y with objs := [{ vault := 1, handle := 5, st := 3, len := 4 }] })), by decide +kernel⟩,
   ⟨(0), (0), ({ sess := 0, tag := 0, opcode := 4, started := true, vault := 1, handle := 5 }),
     ({ vault := 1, handle := 5, st := 3, len := 4 }), ((cmdIn
     [{ sess := 0, tag := 0, opcode := 4, started := true, vault := 1, handle := 5 }]).updObj (fun y =>
     { y with objs := [{ vault := 1, handle := 5, st := 3, len := 4 }] })), by decide +kernel⟩,
   ⟨(0), (0), ({ sess := 0, tag := 0, opcode := 4, started := true, vault := 1, handle := 5 }),
     ({ vault := 1, handle := 5, st := 3, holds := [7] }), ((cmdIn
     [{ sess := 0, tag := 0, opcode := 4, started := true, vault := 1, handle := 5 }]).updObj (fun y =>
     { y with objs := [{ vault := 1, handle := 5, st := 3, holds := [7] }] })), by decide +kernel⟩,
   ⟨(0), (0), ({ sess := 0, tag := 0, opcode := 4, started := true, vault := 1, handle := 5 }),
     ({ vault := 1, handle := 5, st := 3, retain := 7 }), ((cmdIn
     [{ sess := 0, tag := 0, opcode := 4, started := true, vault := 1, handle := 5 }]).updObj (fun y =>
     { y with objs := [{ vault := 1, handle := 5, st := 3, retain := 7 }] })), by decide +kernel⟩⟩

/-- Every hypothesis of ObjectQueryRows can hold. -/
theorem witness_ObjectQueryRows :
    (∃ (i tag : Nat) (c : Cmd) (s : State), Ready i tag 5 c s ∧ s.obj.objs = [])
    ∧ (∃ (i tag : Nat) (c : Cmd) (o : Obj) (s : State), Ready i tag 6 c s ∧ s.seen c.vault c.handle = some o ∧ o.retain ≤ c.num 36 8)
    ∧ (∃ (i tag : Nat) (c : Cmd) (o : Obj) (s : State), Ready i tag 6 c s ∧ s.seen c.vault c.handle = some o ∧ o.retain ≤ c.num 36 8)
    ∧ (∃ (i tag : Nat) (c : Cmd) (o : Obj) (s : State), Ready i tag 6 c s ∧ s.seen c.vault c.handle = some o ∧ c.num 36 8 < o.retain)
    ∧ (∃ (i tag : Nat) (c : Cmd) (o : Obj) (s : State), Ready i tag 7 c s ∧ s.seen c.vault c.handle = some o ∧ c.num 36 1 = 1 ∧
      o.holds.contains (c.num 40 8) = false ∧ o.holds.length < 8)
    ∧ (∃ (i tag : Nat) (c : Cmd) (o : Obj) (s : State), Ready i tag 7 c s ∧ s.seen c.vault c.handle = some o ∧ c.num 36 1 = 1 ∧
      o.holds.contains (c.num 40 8) = false ∧ o.holds.length < 8)
    ∧ (∃ (i tag : Nat) (c : Cmd) (o : Obj) (s : State), Ready i tag 7 c s ∧ s.seen c.vault c.handle = some o ∧ c.num 36 1 = 1 ∧
      o.holds.contains (c.num 40 8) = false ∧ 8 ≤ o.holds.length)
    ∧ (∃ (i tag : Nat) (c : Cmd) (s : State), Ready i tag 8 c s ∧ c.covers = [])
    ∧ (∃ (i tag : Nat) (c : Cmd) (o : Obj) (s : State), Ready i tag 8 c s ∧ c.covers = [(o.vault, o.handle)] ∧ s.objOf o.vault o.handle =
      some o ∧ o.st = 2 ∧ s.obj.lost = [])
    ∧ (∃ (i tag : Nat) (c : Cmd) (s : State), Ready i tag 9 c s ∧ c.num 36 1 = 2 ∧ s.obj.objs = []) :=
  ⟨⟨(0), (0), ({ sess := 0, tag := 0, opcode := 5, started := true }), (cmdIn [{ sess := 0, tag := 0, opcode := 5, started := true }]), by
    decide +kernel⟩,
   ⟨(0), (0), ({ sess := 0, tag := 0, opcode := 6, started := true, vault := 1, handle := 5 }),
     ({ vault := 1, handle := 5, st := 3, len := 4 }), ((cmdIn
     [{ sess := 0, tag := 0, opcode := 6, started := true, vault := 1, handle := 5 }]).updObj (fun y =>
     { y with objs := [{ vault := 1, handle := 5, st := 3, len := 4 }] })), by decide +kernel⟩,
   ⟨(0), (0), ({ sess := 0, tag := 0, opcode := 6, started := true, vault := 1, handle := 5 }),
     ({ vault := 1, handle := 5, st := 3, len := 4 }), ((cmdIn
     [{ sess := 0, tag := 0, opcode := 6, started := true, vault := 1, handle := 5 }]).updObj (fun y =>
     { y with objs := [{ vault := 1, handle := 5, st := 3, len := 4 }] })), by decide +kernel⟩,
   ⟨(0), (0), ({ sess := 0, tag := 0, opcode := 6, started := true, vault := 1, handle := 5 }),
     ({ vault := 1, handle := 5, st := 3, retain := 7 }), ((cmdIn
     [{ sess := 0, tag := 0, opcode := 6, started := true, vault := 1, handle := 5 }]).updObj (fun y =>
     { y with objs := [{ vault := 1, handle := 5, st := 3, retain := 7 }] })), by decide +kernel⟩,
   ⟨(0), (0), ({ sess := 0, tag := 0, opcode := 7, started := true, vault := 1, handle := 5, block := List.replicate 36 0#8 ++ [1#8] }),
     ({ vault := 1, handle := 5, st := 3, len := 4 }), ((cmdIn
     [{ sess := 0, tag := 0, opcode := 7, started := true, vault := 1, handle := 5, block := List.replicate 36 0#8 ++ [1#8] }]).updObj
     (fun y => { y with objs := [{ vault := 1, handle := 5, st := 3, len := 4 }] })), by decide +kernel⟩,
   ⟨(0), (0), ({ sess := 0, tag := 0, opcode := 7, started := true, vault := 1, handle := 5, block := List.replicate 36 0#8 ++ [1#8] }),
     ({ vault := 1, handle := 5, st := 3, len := 4 }), ((cmdIn
     [{ sess := 0, tag := 0, opcode := 7, started := true, vault := 1, handle := 5, block := List.replicate 36 0#8 ++ [1#8] }]).updObj
     (fun y => { y with objs := [{ vault := 1, handle := 5, st := 3, len := 4 }] })), by decide +kernel⟩,
   ⟨(0), (0), ({ sess := 0, tag := 0, opcode := 7, started := true, vault := 1, handle := 5, block := List.replicate 36 0#8 ++ [1#8] }),
     ({ vault := 1, handle := 5, st := 3, holds := [1, 2, 3, 4, 5, 6, 7, 8] }), ((cmdIn
     [{ sess := 0, tag := 0, opcode := 7, started := true, vault := 1, handle := 5, block := List.replicate 36 0#8 ++ [1#8] }]).updObj
     (fun y => { y with objs := [{ vault := 1, handle := 5, st := 3, holds := [1, 2, 3, 4, 5, 6, 7, 8] }] })), by decide +kernel⟩,
   ⟨(0), (0), ({ sess := 0, tag := 0, opcode := 8, started := true }), (cmdIn [{ sess := 0, tag := 0, opcode := 8, started := true }]), by
     decide +kernel⟩,
   ⟨(0), (0), ({ sess := 0, tag := 0, opcode := 8, started := true, covers := [(1, 5)] }), ({ vault := 1, handle := 5, st := 2 }), ((cmdIn
     [{ sess := 0, tag := 0, opcode := 8, started := true, covers := [(1, 5)] }]).updObj (fun y =>
     { y with objs := [{ vault := 1, handle := 5, st := 2 }] })), by decide +kernel⟩,
   ⟨(0), (0), ({ sess := 0, tag := 0, opcode := 9, started := true, block := List.replicate 36 0#8 ++ [2#8] }), (cmdIn
     [{ sess := 0, tag := 0, opcode := 9, started := true, block := List.replicate 36 0#8 ++ [2#8] }]), by decide +kernel⟩⟩

/-- Every hypothesis of ObjectQueryRows_2 can hold. -/
theorem witness_ObjectQueryRows_2 :
    (∃ (i tag : Nat) (c : Cmd) (s : State), Ready i tag 9 c s ∧ c.num 36 1 = 0 ∧ s.objOf c.vault c.handle = none ∧ s.obj.objs = [])
    ∧ (∃ (i tag : Nat) (c : Cmd) (s : State), Ready i tag 10 c s ∧ c.num 36 1 = 2 ∧ s.obj.objs = [] ∧ (s.sessOf i).next < 0xFFFFFFF8)
    ∧ (∃ (i tag : Nat) (c : Cmd) (s : State), Ready i tag 16 c s)
    ∧ (∃ (i tag : Nat) (c : Cmd) (s : State), Ready i tag 17 c s ∧ s.rawCount (c.num 36 1) < c.num 40 8 + c.len / 4096)
    ∧ (∃ (i tag : Nat) (c : Cmd) (s : State), Ready i tag 17 c s ∧ c.num 40 8 + c.len / 4096 ≤ s.rawCount (c.num 36 1) ∧ (s.sessOf i).next
      + 2 * c.len < 0xFFFFFFFD)
    ∧ (∃ (i tag : Nat) (c : Cmd) (s : State), Ready i tag 18 c s ∧ c.num 40 8 + c.len / 4096 ≤ s.rawCount (c.num 36 1) ∧ c.len ≤ (assemble
      c.chunks).length)
    ∧ (∃ (i tag : Nat) (c : Cmd) (s : State), Ready i tag 18 c s ∧ c.num 40 8 + c.len / 4096 ≤ s.rawCount (c.num 36 1) ∧ (assemble
      c.chunks).length < c.len)
    ∧ (∃ (i tag : Nat) (c : Cmd) (s : State), Ready i tag 32 c s ∧ c.num 36 1 = 1 ∧ c.num 37 1 = 0)
    ∧ (∃ (i tag : Nat) (c : Cmd) (s : State), Ready i tag 32 c s ∧ c.num 36 1 = 1 ∧ c.num 37 1 = 1) :=
  ⟨⟨(0), (0), ({ sess := 0, tag := 0, opcode := 9, started := true }), (cmdIn [{ sess := 0, tag := 0, opcode := 9, started := true }]), by
    decide +kernel⟩,
   ⟨(0), (0), ({ sess := 0, tag := 0, opcode := 10, started := true, block := List.replicate 36 0#8 ++ [2#8] }), (cmdIn
     [{ sess := 0, tag := 0, opcode := 10, started := true, block := List.replicate 36 0#8 ++ [2#8] }]), by decide +kernel⟩,
   ⟨(0), (0), ({ sess := 0, tag := 0, opcode := 16, started := true }), (cmdIn [{ sess := 0, tag := 0, opcode := 16, started := true }]),
     by decide +kernel⟩,
   ⟨(0), (0), ({ sess := 0, tag := 0, opcode := 17, started := true, len := 4096 }), (cmdIn
     [{ sess := 0, tag := 0, opcode := 17, started := true, len := 4096 }]), by decide +kernel⟩,
   ⟨(0), (0), ({ sess := 0, tag := 0, opcode := 17, started := true, len := 0 }), (cmdIn
     [{ sess := 0, tag := 0, opcode := 17, started := true, len := 0 }]), by decide +kernel⟩,
   ⟨(0), (0), ({ sess := 0, tag := 0, opcode := 18, started := true, len := 4096, chunks := [(0, List.replicate 4096 9#8)] }), (((cmdIn
     [{ sess := 0, tag := 0, opcode := 18, started := true, len := 4096, chunks := [(0, List.replicate 4096 9#8)] }]).wr (SRV_CFG_NHEADS
     0) 1).setWords 0 [0xA0000000, 0, 0, 1, 1, 0, 0, 0]), by decide +kernel⟩,
   ⟨(0), (0), ({ sess := 0, tag := 0, opcode := 18, started := true, len := 4096 }), (((cmdIn
     [{ sess := 0, tag := 0, opcode := 18, started := true, len := 4096 }]).wr (SRV_CFG_NHEADS 0) 1).setWords 0 [0xA0000000, 0, 0, 1, 1,
     0, 0, 0]), by decide +kernel⟩,
   ⟨(0), (0), ({ sess := 0, tag := 0, opcode := 32, started := true, block := List.replicate 36 0#8 ++ [1#8] }), (cmdIn
     [{ sess := 0, tag := 0, opcode := 32, started := true, block := List.replicate 36 0#8 ++ [1#8] }]), by decide +kernel⟩,
   ⟨(0), (0), ({ sess := 0, tag := 0, opcode := 32, started := true, block := List.replicate 36 0#8 ++ [1#8, 1#8] }), (cmdIn
     [{ sess := 0, tag := 0, opcode := 32, started := true, block := List.replicate 36 0#8 ++ [1#8, 1#8] }]), by decide +kernel⟩⟩

/-- Every hypothesis of DeviceCommandRows can hold. -/
theorem witness_DeviceCommandRows :
    (∃ (i tag : Nat) (c : Cmd) (s : State), Ready i tag 33 c s ∧ (assemble c.chunks).length < c.len)
    ∧ (∃ (i tag : Nat) (c : Cmd) (s : State), Ready i tag 33 c s ∧ c.len ≤ (assemble c.chunks).length ∧ c.len ≤ 0x300000 ∧ c.num 36 1 ≤ 1
      ∧ s.dom.fwFailed.length = 2)
    ∧ (∃ (i tag : Nat) (c : Cmd) (s : State), Ready i tag 34 c s ∧ s.obj.activating = none ∧ c.num 44 4 = 0)
    ∧ (∃ (i tag : Nat) (c : Cmd) (a : Nat × Nat × Nat × Nat) (x : Sess) (s : State), Ready i tag 34 c s ∧ s.obj.activating = some a ∧
      s.obj.cmds = [c] ∧ c.sess = i ∧ c.tag = tag ∧ s.obj.objs = [] ∧ s.dom.recBusy = none ∧ ¬ s.rd DOM_MSTATE_MSTATE = 2 ∧ s.aot.sess =
      [(i, x)] ∧ leNat (s.slotBytes (c.num 36 1) 13 1) / 2 ^ x.version % 2 = 1)
    ∧ (∃ (s : State), s.obj.activating = none)
    ∧ (∃ (a : Nat × Nat × Nat × Nat) (d : Cmd) (s : State), s.obj.activating = some a ∧ s.obj.cmds = [d] ∧ d.done = false ∧ ¬ d.tag =
      a.2.1 ∧ ¬ d.opcode = 1 ∧ ¬ d.opcode = 0x22 ∧ d.acked = false ∧ (s.sessOf d.sess).st = 2 ∧ Quiet d.sess s ∧ (s.sessOf d.sess).next <
      0xFFFFFFFF ∧ s.fwk.holdup = false)
    ∧ (∃ (i tag : Nat) (c : Cmd) (s : State), Ready i tag 35 c s ∧ c.num 36 1 = 3)
    ∧ (∃ (i tag : Nat) (c : Cmd) (s : State), Ready i tag 36 c s ∧ (s.sessOf i).next < 0xFFFFF000)
    ∧ (∃ (i tag : Nat) (c : Cmd) (d : Cmd) (s : State), Ready i tag 37 c s ∧ s.cmdOf i (c.num 36 1) = some d ∧ d.done = false ∧ d.gen =
      c.num 38 2 ∧ ¬ c.num 36 1 = tag ∧ ¬ d.opcode = 1 ∧ ¬ d.opcode = 0x22 ∧ d.acked = false ∧ (s.sessOf i).next < 0xFFFFFFF8)
    ∧ (∃ (i tag : Nat) (c : Cmd) (s : State), Ready i tag 37 c s ∧ s.cmdOf i (c.num 36 1) = none) :=
  ⟨⟨(0), (0), ({ sess := 0, tag := 0, opcode := 33, started := true, len := 4096 }), (cmdIn
    [{ sess := 0, tag := 0, opcode := 33, started := true, len := 4096 }]), by decide +kernel⟩,
   ⟨(0), (0), ({ sess := 0, tag := 0, opcode := 33, started := true, len := 3, chunks := [(0, [1#8, 2#8, 3#8])] }), (cmdIn
     [{ sess := 0, tag := 0, opcode := 33, started := true, len := 3, chunks := [(0, [1#8, 2#8, 3#8])] }]), by decide +kernel⟩,
   ⟨(0), (0), ({ sess := 0, tag := 0, opcode := 34, started := true }), (cmdIn [{ sess := 0, tag := 0, opcode := 34, started := true }]),
     by decide +kernel⟩,
   ⟨(0), (0), ({ sess := 0, tag := 0, opcode := 34, started := true }), ((0, 0, 0, 1000)), ({ st := 2, version := 3 }), ((cmdIn
     [{ sess := 0, tag := 0, opcode := 34, started := true }]).updObj (fun y => { y with activating := some (0, 0, 0, 1000) })), by
     decide +kernel⟩,
   ⟨(allOn), by decide +kernel⟩,
   ⟨((0, 3, 1, 1000)), ({ sess := 0, tag := 0, opcode := 2 }), ((cmdIn [{ sess := 0, tag := 0, opcode := 2 }]).updObj (fun y =>
     { y with activating := some (0, 3, 1, 1000) })), by decide +kernel⟩,
   ⟨(0), (0), ({ sess := 0, tag := 0, opcode := 35, started := true, block := List.replicate 36 0#8 ++ [3#8] }), (cmdIn
     [{ sess := 0, tag := 0, opcode := 35, started := true, block := List.replicate 36 0#8 ++ [3#8] }]), by decide +kernel⟩,
   ⟨(0), (0), ({ sess := 0, tag := 0, opcode := 36, started := true }), (cmdIn [{ sess := 0, tag := 0, opcode := 36, started := true }]),
     by decide +kernel⟩,
   ⟨(0), (0), ({ sess := 0, tag := 0, opcode := 37, started := true, block := List.replicate 36 0#8 ++ [1#8] }),
     ({ sess := 0, tag := 1, opcode := 2 }), (cmdIn
     [{ sess := 0, tag := 0, opcode := 37, started := true, block := List.replicate 36 0#8 ++ [1#8] },
     { sess := 0, tag := 1, opcode := 2 }]), by decide +kernel⟩,
   ⟨(0), (0), ({ sess := 0, tag := 0, opcode := 37, started := true, block := List.replicate 36 0#8 ++ [1#8] }), (cmdIn
     [{ sess := 0, tag := 0, opcode := 37, started := true, block := List.replicate 36 0#8 ++ [1#8] }]), by decide +kernel⟩⟩

/-- Every hypothesis of DeviceCommandRows_2 can hold. -/
theorem witness_DeviceCommandRows_2 :
    (∃ (t : Tower) (s : State), s.towerFailed t.other = false ∧ s.obj.cmds = [] ∧ (s.obj.objs.map (fun o => (o.vault, o.handle))).Nodup)
    ∧ (∃ (t : Tower) (s : State), s.towerFailed t.other = true ∧ s.obj.cmds = [] ∧ (s.obj.objs.map (fun o => (o.vault, o.handle))).Nodup)
    ∧ (∃ (s : State), s.obj.lossPending = false)
    ∧ (∃ (s : State), s.obj.lossPending = true ∧ s.obj.deferred = false ∧ (s.obj.objs.map (fun o => (o.vault, o.handle))).Nodup)
    ∧ (∃ (s : State), s.obj.lossPending = true ∧ s.obj.objs = []) :=
  ⟨⟨(.B), (allOn.updObj (fun y => { y with objs := [{ vault := 1, handle := 5, st := 2, tower := .B }] })), by decide +kernel⟩,
   ⟨(.B), (allOn.updObj (fun y => { y with failedA := true, objs := [{ vault := 1, handle := 5, st := 2, tower := .B }] })), by
     decide +kernel⟩,
   ⟨(allOn), by decide +kernel⟩,
   ⟨(allOn.updObj (fun y => { y with lossPending := true, objs := [{ vault := 1, handle := 5, st := 2, tower := .B }] })), by
     decide +kernel⟩,
   ⟨(allOn.updObj (fun y => { y with lossPending := true })), by decide +kernel⟩⟩

/-- Every hypothesis of VaultRows can hold. -/
theorem witness_VaultRows :
    (∃ (i tag : Nat) (c : Cmd) (s : State), Ready i tag 0x30 c s ∧ s.vaultOf c.vault = none ∧ c.num 36 32 = 0)
    ∧ (∃ (i tag : Nat) (c : Cmd) (s : State), Ready i tag 0x30 c s ∧ s.vaultOf c.vault = none ∧ ¬ c.num 36 32 = 0)
    ∧ (∃ (i tag : Nat) (c : Cmd) (v : Vault) (s : State), Ready i tag 0x30 c s ∧ s.vaultOf c.vault = some v)
    ∧ (∃ (i tag key : Nat) (c : Cmd) (v : Vault) (s : State), Ready i tag 0x31 c s ∧ s.vaultOf c.vault = some v ∧ v.unlocked = false ∧
      s.unwrap v c.secret = some key)
    ∧ (∃ (i tag : Nat) (c : Cmd) (v : Vault) (s : State), Ready i tag 0x31 c s ∧ s.vaultOf c.vault = some v ∧ v.unlocked = false ∧
      s.unwrap v c.secret = none)
    ∧ (∃ (i tag : Nat) (c : Cmd) (v : Vault) (s : State), Ready i tag 0x31 c s ∧ s.vaultOf c.vault = some v ∧ v.unlocked = true)
    ∧ (∃ (i tag : Nat) (c : Cmd) (s : State), Ready i tag 0x32 c s ∧ s.obj.cmds = [c] ∧ s.obj.objs = [] ∧ s.xtsBusy .A c.vault = false ∧
      s.xtsBusy .B c.vault = false)
    ∧ (∃ (i tag : Nat) (c : Cmd) (s : State), Ready i tag 0x32 c s ∧ s.xtsBusy .A c.vault = true ∧ s.obj.objs = [])
    ∧ (∃ (i tag : Nat) (c : Cmd) (v : Vault) (s : State), Ready i tag 0x33 c s ∧ s.vaultOf c.vault = some v ∧ s.obj.objs = [])
    ∧ (∃ (i tag key : Nat) (c : Cmd) (v : Vault) (s : State), Ready i tag 0x34 c s ∧ s.vaultOf c.vault = some v ∧ s.unwrap v c.secret =
      some key ∧ s.obj.cmds = [c] ∧ s.obj.objs = [] ∧ s.xtsBusy .A c.vault = false ∧ s.xtsBusy .B c.vault = false) :=
  ⟨⟨(0), (0), ({ sess := 0, tag := 0, opcode := 0x30, started := true, vault := 1 }), (cmdIn
    [{ sess := 0, tag := 0, opcode := 0x30, started := true, vault := 1 }]), by decide +kernel⟩,
   ⟨(0), (0), ({ sess := 0, tag := 0, opcode := 0x30, started := true, vault := 1, block := List.replicate 128 1#8 }), (cmdIn
     [{ sess := 0, tag := 0, opcode := 0x30, started := true, vault := 1, block := List.replicate 128 1#8 }]), by decide +kernel⟩,
   ⟨(0), (0), ({ sess := 0, tag := 0, opcode := 0x30, started := true, vault := 1 }), ({ id := 1 }), ((cmdIn
     [{ sess := 0, tag := 0, opcode := 0x30, started := true, vault := 1 }]).updDom (fun d => { d with vaults := [{ id := 1 }] })), by
     decide +kernel⟩,
   ⟨(0), (0), (77), ({ sess := 0, tag := 0, opcode := 0x31, started := true, vault := 1 }),
     ({ id := 1, wrapped := kwWrap (vwkOf 0 0 1 []) 8 77 }), ((cmdIn
     [{ sess := 0, tag := 0, opcode := 0x31, started := true, vault := 1 }]).updDom (fun d =>
     { d with vaults := [{ id := 1, wrapped := kwWrap (vwkOf 0 0 1 []) 8 77 }] })), by decide +kernel, by decide +kernel, by
     decide +kernel, test_vaultKey.1⟩,
   ⟨(0), (0), ({ sess := 0, tag := 0, opcode := 0x31, started := true, vault := 1 }), ({ id := 1 }), ((cmdIn
     [{ sess := 0, tag := 0, opcode := 0x31, started := true, vault := 1 }]).updDom (fun d => { d with vaults := [{ id := 1 }] })), by
     decide +kernel, by decide +kernel, by decide +kernel, test_vaultKey.2⟩,
   ⟨(0), (0), ({ sess := 0, tag := 0, opcode := 0x31, started := true, vault := 1 }), ({ id := 1, unlocked := true }), ((cmdIn
     [{ sess := 0, tag := 0, opcode := 0x31, started := true, vault := 1 }]).updDom (fun d =>
     { d with vaults := [{ id := 1, unlocked := true }] })), by decide +kernel⟩,
   ⟨(0), (0), ({ sess := 0, tag := 0, opcode := 0x32, started := true, vault := 1 }), ((cmdIn
     [{ sess := 0, tag := 0, opcode := 0x32, started := true, vault := 1 }]).updDom (fun d =>
     { d with vaults := [{ id := 1, unlocked := true }] })), by decide +kernel⟩,
   ⟨(0), (0), ({ sess := 0, tag := 0, opcode := 0x32, started := true, vault := 1 }), (((cmdIn
     [{ sess := 0, tag := 0, opcode := 0x32, started := true, vault := 1 }]).updDom (fun d =>
     { d with vaults := [{ id := 1, unlocked := true }] })).updChn .A (fun y =>
     { y with caps := [({ verify := false, readers := 0, eqset := 0, head := 0, zone := 0, track := 0, pos := 0, fgen := 0, ordinal := 0, last := true, owner := 0, firstWin := 0, pieces := [] }, 0)] })),
     by decide +kernel⟩,
   ⟨(0), (0), ({ sess := 0, tag := 0, opcode := 0x33, started := true, vault := 1 }), ({ id := 1 }), ((cmdIn
     [{ sess := 0, tag := 0, opcode := 0x33, started := true, vault := 1 }]).updDom (fun d => { d with vaults := [{ id := 1 }] })), by
     decide +kernel⟩,
   ⟨(0), (0), (77), ({ sess := 0, tag := 0, opcode := 0x34, started := true, vault := 1 }),
     ({ id := 1, wrapped := kwWrap (vwkOf 0 0 1 []) 8 77 }), ((cmdIn
     [{ sess := 0, tag := 0, opcode := 0x34, started := true, vault := 1 }]).updDom (fun d =>
     { d with vaults := [{ id := 1, wrapped := kwWrap (vwkOf 0 0 1 []) 8 77 }] })), by decide +kernel, by decide +kernel, test_vaultKey.1,
     by decide +kernel, by decide +kernel, by decide +kernel, by decide +kernel⟩⟩

/-- Every hypothesis of VaultRows_2 can hold. -/
theorem witness_VaultRows_2 :
    (∃ (i tag : Nat) (c : Cmd) (v : Vault) (s : State), Ready i tag 0x34 c s ∧ s.vaultOf c.vault = some v ∧ s.unwrap v c.secret = none)
    ∧ (∃ (i tag : Nat) (c : Cmd) (v : Vault) (s : State), Ready i tag 0x35 c s ∧ s.vaultOf c.vault = some v ∧ v.compliance = true ∧ c.num
      36 8 < v.minRet)
    ∧ (∃ (i tag : Nat) (c : Cmd) (v : Vault) (s : State), Ready i tag 0x35 c s ∧ s.vaultOf c.vault = some v ∧ v.minRet ≤ c.num 36 8)
    ∧ (∃ (i tag : Nat) (c : Cmd) (s : State), Ready i tag 0x36 c s)
    ∧ (∃ (i tag : Nat) (c : Cmd) (b : List Byte) (at_ : Nat) (s : State), Ready i tag 0x37 c s ∧ assemble c.chunks = b ∧ b.length = 144 ∧
      beNat (b.take 1) = 1 ∧ beNat ((b.drop 1).take 7) = 0 ∧ s.dom.recBusy = none ∧ ¬ s.rd DOM_MSTATE_MSTATE = 2 ∧ s.dom.nonce = some
      (beNat ((b.drop 16).take 16), at_) ∧ s.dom.clock ≤ at_ + 300 ∧ (b.drop 32).take 16 = padTo 16 s.obj.serial ∧ beNat ((b.drop 8).take
      8) ≤ s.dom.clock + 31622400)
    ∧ (∃ (i tag : Nat) (c : Cmd) (s : State), Ready i tag 0x37 c s ∧ (assemble c.chunks).length < 144)
    ∧ (∃ (i tag : Nat) (c : Cmd) (b : List Byte) (s : State), Ready i tag 0x38 c s ∧ assemble c.chunks = b ∧ c.len ≤ b.length ∧ c.num 36 1
      = 3 ∧ c.num 37 1 = 1 ∧ byteAt b 97 = 2 ∧ s.dom.anchors = [])
    ∧ (∃ (i tag : Nat) (c : Cmd) (s : State), Ready i tag 0x38 c s ∧ c.len = 0 ∧ c.num 37 1 = 0 ∧ hasCo (s.dom.anchors.filter (fun a =>
      !(a.slot == c.num 36 1))) = false) :=
  ⟨⟨(0), (0), ({ sess := 0, tag := 0, opcode := 0x34, started := true, vault := 1 }), ({ id := 1 }), ((cmdIn
    [{ sess := 0, tag := 0, opcode := 0x34, started := true, vault := 1 }]).updDom (fun d => { d with vaults := [{ id := 1 }] })), by
    decide +kernel, by decide +kernel, test_vaultKey.2⟩,
   ⟨(0), (0), ({ sess := 0, tag := 0, opcode := 0x35, started := true, vault := 1 }), ({ id := 1, compliance := true, minRet := 9 }),
     ((cmdIn [{ sess := 0, tag := 0, opcode := 0x35, started := true, vault := 1 }]).updDom (fun d =>
     { d with vaults := [{ id := 1, compliance := true, minRet := 9 }] })), by decide +kernel⟩,
   ⟨(0), (0), ({ sess := 0, tag := 0, opcode := 0x35, started := true, vault := 1 }), ({ id := 1, compliance := true }), ((cmdIn
     [{ sess := 0, tag := 0, opcode := 0x35, started := true, vault := 1 }]).updDom (fun d =>
     { d with vaults := [{ id := 1, compliance := true }] })), by decide +kernel⟩,
   ⟨(0), (0), ({ sess := 0, tag := 0, opcode := 0x36, started := true, vault := 1 }), (cmdIn
     [{ sess := 0, tag := 0, opcode := 0x36, started := true, vault := 1 }]), by decide +kernel⟩,
   ⟨(0), (0), ({ sess := 0, tag := 0, opcode := 0x37, started := true, len := 144, chunks := [(0, [1#8] ++ List.replicate 143 0#8)] }),
     ([1#8] ++ List.replicate 143 0#8), (0), ((cmdIn
     [{ sess := 0, tag := 0, opcode := 0x37, started := true, len := 144, chunks := [(0, [1#8] ++ List.replicate 143 0#8)] }]).updDom (fun
     d => { d with nonce := some (0, 0), anchors := [{ slot := 0, point := [], role := 3, mask := 0 }] })), by decide +kernel⟩,
   ⟨(0), (0), ({ sess := 0, tag := 0, opcode := 0x37, started := true, len := 144 }), (cmdIn
     [{ sess := 0, tag := 0, opcode := 0x37, started := true, len := 144 }]), by decide +kernel⟩,
   ⟨(0), (0),
     ({ sess := 0, tag := 0, opcode := 0x38, started := true, len := 130, chunks := [(0, List.replicate 97 7#8 ++ [2#8] ++ List.replicate 32 1#8)], block := List.replicate 36 0#8 ++ [3#8, 1#8] }),
     (List.replicate 97 7#8 ++ [2#8] ++ List.replicate 32 1#8), (cmdIn
     [{ sess := 0, tag := 0, opcode := 0x38, started := true, len := 130, chunks := [(0, List.replicate 97 7#8 ++ [2#8] ++ List.replicate 32 1#8)], block := List.replicate 36 0#8 ++ [3#8, 1#8] }]),
     by decide +kernel⟩,
   ⟨(0), (0), ({ sess := 0, tag := 0, opcode := 0x38, started := true }), (cmdIn
     [{ sess := 0, tag := 0, opcode := 0x38, started := true }]), by decide +kernel⟩⟩

/-- Every hypothesis of DomeHardwareRows can hold. -/
theorem witness_DomeHardwareRows :
    (∃ (i tag : Nat) (c : Cmd) (pass : Nat) (s : State), Ready i tag 0x39 c s ∧ pass % 4096 = 4095)
    ∧ (∃ (i tag : Nat) (c : Cmd) (pass : Nat) (s : State), Ready i tag 0x39 c s ∧ pass % 2 = 0)
    ∧ (∃ (i tag : Nat) (c : Cmd) (o : Obj) (s : State), Ready i tag 0x3A c s ∧ s.obj.objs = [o] ∧ ¬ o.holds = [])
    ∧ (∃ (i tag : Nat) (c : Cmd) (s : State), Ready i tag 0x3A c s ∧ s.obj.objs = [])
    ∧ (∃ (s : State), s.rd DOM_MSTATE_MSTATE = 2)
    ∧ (∃ (s : State), ¬ s.rd DOM_MSTATE_MSTATE = 2)
    ∧ (∃ (s : State), s.dom.since < 600)
    ∧ (∃ (s : State), 600 ≤ s.dom.since ∧ s.dom.recBusy = none ∧ ¬ s.rd DOM_MSTATE_MSTATE = 2)
    ∧ (∃ (v : Nat) (s : State), s.dom.recBusy = some (v, none) ∧ s.dom.recAgain = false)
    ∧ (∃ (v : Nat) (s : State), s.dom.recBusy = some (v, some (0, 3)) ∧ s.dom.recAgain = false) :=
  ⟨⟨(0), (0), ({ sess := 0, tag := 0, opcode := 0x39, started := true }), (4095), (cmdIn
    [{ sess := 0, tag := 0, opcode := 0x39, started := true }]), by decide +kernel⟩,
   ⟨(0), (0), ({ sess := 0, tag := 0, opcode := 0x39, started := true }), (4094), (cmdIn
     [{ sess := 0, tag := 0, opcode := 0x39, started := true }]), by decide +kernel⟩,
   ⟨(0), (0), ({ sess := 0, tag := 0, opcode := 0x3A, started := true }), ({ vault := 1, handle := 5, holds := [7] }), ((cmdIn
     [{ sess := 0, tag := 0, opcode := 0x3A, started := true }]).updObj (fun y =>
     { y with objs := [{ vault := 1, handle := 5, holds := [7] }] })), by decide +kernel⟩,
   ⟨(0), (0), ({ sess := 0, tag := 0, opcode := 0x3A, started := true }), (cmdIn
     [{ sess := 0, tag := 0, opcode := 0x3A, started := true }]), by decide +kernel⟩,
   ⟨(allOn.wr DOM_MSTATE_MSTATE 2), by decide +kernel⟩,
   ⟨(allOn.wr DOM_MSTATE_MSTATE 1), by decide +kernel⟩,
   ⟨(allOn), by decide +kernel⟩,
   ⟨(allOn.updDom (fun d => { d with since := 600 })), by decide +kernel⟩,
   ⟨(5), (allOn.updDom (fun d => { d with recBusy := some (5, none), recSeq := 3 })), by decide +kernel⟩,
   ⟨(5), (allOn.updDom (fun d => { d with recBusy := some (5, some (0, 3)) })), by decide +kernel⟩⟩

/-- Every hypothesis of DomeHardwareRows_2 can hold. -/
theorem witness_DomeHardwareRows_2 :
    (∃ (v : Nat) (s : State), s.dom.recBusy = some (v, none) ∧ s.dom.recAgain = true ∧ ¬ s.rd DOM_MSTATE_MSTATE = 2)
    ∧ (∃ (val : Word) (s : State), s.admits DOM_CMD = true ∧ s.dom.recBusy = none ∧ ¬ s.rd DOM_MSTATE_MSTATE = 2)
    ∧ (∃ (val : Word) (s : State), s.admits DOM_CMD = true ∧ fieldOf val 0 1 = 0 ∧ s.rd DOM_MSTATE_MSTATE = 1)
    ∧ (∃ (val : Word) (s : State), s.admits DOM_KB_CMD = true ∧ s.on DOM_KB_CMD_GO = false ∧ s.rd DOM_MSTATE_MSTATE = 1 ∧ fieldOf val 27 2
      = 2 ∧ s.dom.keyRam.any (fun e => e.1 == fieldOf val 0 8) = true)
    ∧ (∃ (val : Word) (s : State), s.admits DOM_KB_CMD = true ∧ s.on DOM_KB_CMD_GO = false ∧ s.rd DOM_MSTATE_MSTATE = 1 ∧ fieldOf val 27 2
      = 2 ∧ s.dom.keyRam = [])
    ∧ (∃ (val : Word) (s : State), s.admits DOM_KB_CMD = true ∧ s.on DOM_KB_CMD_GO = false ∧ s.rd DOM_MSTATE_MSTATE = 1 ∧ fieldOf val 27 2
      = 2)
    ∧ (∃ (val : Word) (s : State), s.admits DOM_KB_CMD = true ∧ s.on DOM_KB_CMD_GO = false ∧ s.rd DOM_MSTATE_MSTATE = 1 ∧ fieldOf val 27 2
      = 2)
    ∧ (∃ (s : State), s.dom.kb = none)
    ∧ (∃ (n src k : Nat) (s : State), s.dom.kb = some { op := 1, target := 2, slot := n, src := src } ∧ s.dom.keyRam.find? (fun e => e.1
      == src) = some (src, k)) :=
  ⟨⟨(5), (allOn.updDom (fun d => { d with recBusy := some (5, none), recAgain := true })), by decide +kernel⟩,
   ⟨(0), (allOn), by decide +kernel⟩,
   ⟨(0), (allOn.wr DOM_MSTATE_MSTATE 1), by decide +kernel⟩,
   ⟨(0x10003005), ((allOn.wr DOM_MSTATE_MSTATE 1).updDom (fun d => { d with keyRam := [(5, 77)] })), by decide +kernel⟩,
   ⟨(0x10003005), (allOn.wr DOM_MSTATE_MSTATE 1), by decide +kernel⟩,
   ⟨(0x10003005), (allOn.wr DOM_MSTATE_MSTATE 1), by decide +kernel⟩,
   ⟨(0x10003005), (allOn.wr DOM_MSTATE_MSTATE 1), by decide +kernel⟩,
   ⟨(allOn), by decide +kernel⟩,
   ⟨(3), (5), (77), (allOn.updDom (fun d => { d with keyRam := [(5, 77)], kb := some { op := 1, target := 2, slot := 3, src := 5 } })), by
     decide +kernel⟩⟩

/-- Every hypothesis of MainMemoryRows can hold. -/
theorem witness_MainMemoryRows :
    (∃ (port addr n : Nat) (s : State), 1 ≤ n ∧ n ≤ 128 - addr % 128 ∧ s.isOn bMEM 0 = true ∧ s.on MEM_STAT_INIT_BUSY = true)
    ∧ (∃ (port addr n : Nat) (s : State), 1 ≤ n ∧ n ≤ 128 - addr % 128 ∧ s.isOn bMEM 0 = true ∧ s.on MEM_STAT_INIT_BUSY = false ∧ s.ddrIn
      addr = true ∧ s.ddr.err = [] ∧ s.ddr.parity = [] ∧ s.ddr.allPar = false ∧ s.ddr.loopNow = 0 ∧ s.on MEM_CFG_MODE = false)
    ∧ (∃ (addr : Nat) (l : List Byte) (s : State), l.length = 128 ∧ addr % 128 = 0 ∧ s.isOn bMEM 0 = true ∧ s.on MEM_STAT_INIT_BUSY =
      false ∧ s.ddrIn addr = true ∧ s.ddr.err = [] ∧ s.ddr.parity = [] ∧ s.ddr.allPar = false ∧ s.ddr.loopNow = 0 ∧ s.on MEM_CFG_MODE =
      false ∧ s.on MEM_ECC_FLIP_4_ARM = false)
    ∧ (∃ (addr : Nat) (l : List Byte) (s : State), l.length = 128 ∧ addr % 128 = 0 ∧ s.isOn bMEM 0 = true ∧ s.on MEM_STAT_INIT_BUSY = true)
    ∧ (∃ (val : Word) (s : State), s.admits MEM_CMD = true ∧ s.isOn bMEM 0 = true ∧ s.on MEM_STAT_INIT_BUSY = false ∧ fieldOf val 1 1 = 0)
    ∧ (∃ (val : Word) (s : State), s.admits MEM_CMD = true ∧ s.isOn bMEM 0 = false ∧ fieldOf val 1 1 = 0)
    ∧ (∃ (n : Nat) (s : State), s.on MEM_STAT_INIT_BUSY = true ∧ s.rd MEM_STAT_SIZE = n)
    ∧ (∃ (s : State), s.on MEM_STAT_INIT_BUSY = false)
    ∧ (∃ (val : Word) (s : State), s.admits MEM_CMD = true ∧ fieldOf val 0 1 = 0)
    ∧ (∃ (n : Nat) (s : State), s.st bMEM 0 = stSTARTING ∧ s.on MEM_STAT_SELF_REFRESH = false ∧ s.rd MEM_CFG_RANKS = 0 ∧ s.ddrSize = some
      n) :=
  ⟨⟨(12), (0x1000000010), (64), (allOn.wr MEM_STAT_INIT_BUSY 1), by decide +kernel⟩,
   ⟨(12), (0x1000000010), (64), ((allOn.wr MEM_STAT_SIZE 16).setByte 0x1000000011 7#8), by decide +kernel⟩,
   ⟨(0x1000000080), (List.replicate 128 9#8), (allOn.wr MEM_STAT_SIZE 16), by decide +kernel⟩,
   ⟨(0x1000000080), (List.replicate 128 9#8), (allOn.wr MEM_STAT_INIT_BUSY 1), by decide +kernel⟩,
   ⟨(0), (allOn), by decide +kernel⟩,
   ⟨(0), (allOn.setSt bMEM 0 stOFF), by decide +kernel⟩,
   ⟨(16), (((allOn.wr MEM_STAT_SIZE 16).wr MEM_STAT_INIT_BUSY 1).setByte 0x1000000000 7#8), by decide +kernel⟩,
   ⟨(allOn), by decide +kernel⟩,
   ⟨(0), (allOn.setReg MEM_CNT_CE 5), by decide +kernel⟩,
   ⟨(16), (((allOn.setSt bMEM 0 stSTARTING).wr MEM_CFG_WIDTH 1).wr MEM_CFG_DENSITY 0), by decide +kernel⟩⟩

/-- Every hypothesis of MainMemoryRows_2 can hold. -/
theorem witness_MainMemoryRows_2 :
    (∃ (step rank lane : Nat) (s : State), s.st bMEM 0 = stSTARTING ∧ s.on MEM_STAT_SELF_REFRESH = false ∧ step < 8 ∧ rank < 2 ∧ lane < 256)
    ∧ (∃ (s : State), s.scrubOn = false)
    ∧ (∃ (b : Nat) (s : State), s.scrubOn = true ∧ s.ddr.err = [] ∧ s.rd MEM_SCRUB_POS_BURST = b ∧ b + 1 < s.rd MEM_STAT_SIZE * 2 ^ 23)
    ∧ (∃ (b : Nat) (s : State), s.scrubOn = true ∧ s.ddr.err = [] ∧ s.rd MEM_SCRUB_POS_BURST = b ∧ s.rd MEM_STAT_SIZE * 2 ^ 23 = b + 1)
    ∧ (∃ (val : Word) (e : List Word) (l : List (List Word)) (s : State), s.admits MEM_LOG_POP = true ∧ fieldOf val 0 1 = 1 ∧ s.ddr.log =
      [e] ++ l ∧ l.length < 16)
    ∧ (∃ (val : Word) (s : State), s.admits MEM_ECC_FLIP_4 = true) :=
  ⟨⟨(3), (1), (7), (allOn.setSt bMEM 0 stSTARTING), by decide +kernel⟩,
   ⟨(allOn.wr MEM_SCRUB_EN 0), by decide +kernel⟩,
   ⟨(5), (((((allOn.wr MEM_SCRUB_EN 1).wr MEM_STAT_INIT_DONE 1).wr MEM_STAT_SIZE 16).wr MEM_SCRUB_POS_BURST 5)), by decide +kernel⟩,
   ⟨(134217727), (((((allOn.wr MEM_SCRUB_EN 1).wr MEM_STAT_INIT_DONE 1).wr MEM_STAT_SIZE 16).wr MEM_SCRUB_POS_BURST 134217727)), by
     decide +kernel⟩,
   ⟨(1), ([1]), ([[2]]), ((allOn.updDdr (fun d => { d with log := [[1], [2]] }))), by decide +kernel⟩,
   ⟨(1), (allOn), by decide +kernel⟩⟩

/-- Every hypothesis of CupolaRows can hold. -/
theorem witness_CupolaRows :
    (∃ (core addr n : Nat) (l : CLine) (s : State), core < 8 ∧ s.isOn bCUP 0 = true ∧ lineInDdr (addr / 64) = true ∧ s.lineIn (addr / 64)
      = some l)
    ∧ (∃ (core addr n : Nat) (s : State), core < 8 ∧ s.isOn bCUP 0 = true ∧ lineInDdr (addr / 64) = true ∧ s.cup = {} ∧ s.on CUP_CFG_PF_EN
      = false ∧ s.on CUP_CFG_NL_EN = false)
    ∧ (∃ (core addr n : Nat) (s : State), core < 8 ∧ s.isOn bCUP 0 = true ∧ lineInDdr (addr / 64) = true ∧ s.cup = {} ∧ s.on CUP_CFG_PF_EN
      = false ∧ s.on CUP_CFG_NL_EN = true ∧ (addr / 64 + 1) / 64 = addr / 64 / 64)
    ∧ (∃ (core addr : Nat) (b : Byte) (l : CLine) (s : State), core < 8 ∧ s.isOn bCUP 0 = true ∧ lineInDdr (addr / 64) = true ∧ s.lineIn
      (addr / 64) = some l ∧ l.way < 12 ∧ l.data.length = 64)
    ∧ (∃ (line : Nat) (s : State), s.fillOf line false = none)
    ∧ (∃ (line : Nat) (x : CFill) (s : State), s.fillOf line false = some x ∧ s.fillBehind x = true)
    ∧ (∃ (line : Nat) (x : CFill) (s : State), s.fillOf line false = some x ∧ s.fillBehind x = false ∧ x.got = none)
    ∧ (∃ (line : Nat) (x : CFill) (s : State), s.fillOf line true = some x ∧ s.fillBehind x = false ∧ x.got = none)
    ∧ (∃ (port addr n : Nat) (l : List Byte) (s : State), s.spadServed port addr = true ∧ s.on CUP_SPAD_SPAD_BUSY = false ∧ addr % 0x40000
      + l.length ≤ 0x40000)
    ∧ (∃ (port addr n : Nat) (s : State), s.spadServed port addr = true ∧ s.on CUP_SPAD_SPAD_BUSY = false ∧ addr % 0x40000 + n ≤ 0x40000) :=
  ⟨⟨(7), (0x1000000010), (8), ({ way := 3, line := 0x40000000, data := List.replicate 64 5#8 }), (allOn.updCup (fun c =>
    { c with lines := [{ way := 3, line := 0x40000000, data := List.replicate 64 5#8 }] })), by decide +kernel⟩,
   ⟨(7), (0x1000000010), (8), ((allOn.wr CUP_CFG_PF_EN 0).wr CUP_CFG_NL_EN 0), by decide +kernel⟩,
   ⟨(7), (0x1000000010), (8), ((allOn.wr CUP_CFG_PF_EN 0).wr CUP_CFG_NL_EN 1), by decide +kernel⟩,
   ⟨(7), (0x1000000010), (9#8), ({ way := 3, line := 0x40000000, data := List.replicate 64 5#8 }), (allOn.updCup (fun c =>
     { c with lines := [{ way := 3, line := 0x40000000, data := List.replicate 64 5#8 }] })), by decide +kernel⟩,
   ⟨(5), (allOn), by decide +kernel⟩,
   ⟨(0x40000001), ({ line := 0x40000001, core := 3 }), (allOn.updCup (fun c =>
     { c with fills := [{ line := 0x40000000, core := 3 }, { line := 0x40000001, core := 3 }] })), by decide +kernel⟩,
   ⟨(0x40000000), ({ line := 0x40000000, core := 3 }), ((allOn.wr MEM_STAT_SIZE 16).updCup (fun c =>
     { c with fills := [{ line := 0x40000000, core := 3 }] })), by decide +kernel⟩,
   ⟨(0x40000000), ({ line := 0x40000000, core := 3, prefetch := true }), ((allOn.wr MEM_STAT_SIZE 16).updCup (fun c =>
     { c with fills := [{ line := 0x40000000, core := 3, prefetch := true }] })), by decide +kernel⟩,
   ⟨(13), (0x30040008), (0), ([1#8, 2#8]), ((allOn.wr CUP_SPAD_EN 15).wr CUP_SPAD_MGMT 1), by decide +kernel⟩,
   ⟨(13), (0x30040008), (4), (((allOn.wr CUP_SPAD_EN 15).wr CUP_SPAD_MGMT 1).setByte 0x30040009 5#8), by decide +kernel⟩⟩

/-- Every hypothesis of CupolaRows_2 can hold. -/
theorem witness_CupolaRows_2 :
    (∃ (port addr n : Nat) (s : State), s.spadServed port addr = false ∧ addr % 0x40000 + n ≤ 0x40000) :=
  ⟨(13), (0x30040008), (4), (allOn.wr CUP_SPAD_EN 0), by decide +kernel⟩

/-- Every hypothesis of CupolaMaintenanceRows can hold. -/
theorem witness_CupolaMaintenanceRows :
    (∃ (val : Word) (s : State), s.admits CUP_MAINT_CMD = true ∧ s.on CUP_MAINT_STAT_BUSY = false ∧ s.isOn bCUP 0 = true)
    ∧ (∃ (val : Word) (s : State), s.admits CUP_MAINT_CMD = true ∧ s.on CUP_MAINT_STAT_BUSY = true)
    ∧ (∃ (val : Word) (s : State), s.admits CUP_MAINT_CMD = true ∧ s.on CUP_MAINT_STAT_BUSY = false ∧ s.isOn bCUP 0 = true ∧ ¬ s.rd
      CUP_MAINT_LEN_LEN = 0)
    ∧ (∃ (val : Word) (s : State), s.admits CUP_MAINT_CMD = true ∧ s.on CUP_MAINT_STAT_BUSY = false ∧ s.isOn bCUP 0 = true)
    ∧ (∃ (val : Word) (s : State), s.admits CUP_MAINT_CMD = true ∧ s.on CUP_MAINT_STAT_BUSY = false ∧ s.isOn bCUP 0 = true ∧ s.rd
      CUP_SPAD_EN = 0)
    ∧ (∃ (s : State), s.on CUP_MAINT_STAT_BUSY = true ∧ s.cup.fills = [])
    ∧ (∃ (x : CFill) (s : State), s.cup.fills = [x] ∧ x.held = true)
    ∧ (∃ (val : Word) (s : State), s.admits CUP_SPAD = true ∧ s.on CUP_SPAD_SPAD_BUSY = false ∧ ¬ fieldOf val 0 4 = s.rd CUP_SPAD_EN)
    ∧ (∃ (s : State), s.on CUP_SPAD_SPAD_BUSY = true ∧ s.on CUP_MAINT_STAT_BUSY = false)
    ∧ (∃ (val : Word) (s : State), s.admits CUP_CNT_CLR = true ∧ fieldOf val 0 1 = 1) :=
  ⟨⟨(0), (allOn.updCup (fun c => { c with lines := [{ way := 3, line := 0, data := [] }] })), by decide +kernel⟩,
   ⟨(0), (allOn.wr CUP_MAINT_STAT_BUSY 1), by decide +kernel⟩,
   ⟨(0), ((allOn.updCup (fun c => { c with lines := [{ way := 3, line := 0, data := [] }, { way := 3, line := 5, data := [] }] })).wr
     CUP_MAINT_LEN_LEN 64), by decide +kernel⟩,
   ⟨(0), (allOn.updCup (fun c => { c with lines := [{ way := 3, line := 0, data := [] }] })), by decide +kernel⟩,
   ⟨(0), ((allOn.updCup (fun c => { c with lines := [{ way := 3, line := 0, data := [] }] })).wr CUP_MAINT_LEN_LEN 8), by decide +kernel⟩,
   ⟨(allOn.wr CUP_MAINT_STAT_BUSY 1), by decide +kernel⟩,
   ⟨({ line := 3, core := 0, drop := true, held := true }), ((allOn.wr CUP_MAINT_STAT_BUSY 1).updCup (fun c =>
     { c with fills := [{ line := 3, core := 0, drop := true, held := true }] })), by decide +kernel⟩,
   ⟨(0x10F), (allOn.wr CUP_SPAD_EN 0), by decide +kernel⟩,
   ⟨(allOn.wr CUP_SPAD_SPAD_BUSY 1), by decide +kernel⟩,
   ⟨(1), (allOn.setReg (CUP_CNT 6) 7), by decide +kernel⟩⟩

/-- Every hypothesis of DmaRows can hold. -/
theorem witness_DmaRows :
    (∃ (c : Nat) (val : Word) (s : State), c < 32 ∧ s.admits (DMA_CH_CTL c) = true ∧ s.on (DMA_CH_CTL_EN c) = false ∧ s.lineTaken c =
      false ∧ s.isOn bDMA 0 = true ∧ s.cst c = cOFF ∧ (s.chn_ c).park = 0)
    ∧ (∃ (c : Nat) (val : Word) (s : State), c < 32 ∧ s.admits (DMA_CH_CTL c) = true ∧ s.on (DMA_CH_CTL_EN c) = false ∧ s.lineTaken c =
      true)
    ∧ (∃ (c : Nat) (val : Word) (s : State), c < 32 ∧ s.admits (DMA_CH_CTL c) = true ∧ s.on (DMA_CH_CTL_EN c) = true ∧ (s.chn_ c).desc =
      [] ∧ s.dma.ch.length = 32)
    ∧ (∃ (c : Nat) (q : State) (d : List Byte) (s : State), c < 32 ∧ s.cst c = cFETCH ∧ s.busRead 12 (s.descAddr c) 32 = (q,
      { data := d }) ∧ descOk (descWords d) = true ∧ q.dma.ch.length = 32 ∧ q.chn_ c = {})
    ∧ (∃ (c : Nat) (s : State), ¬ s.cst c = cFETCH)
    ∧ (∃ (c : Nat) (s : State), (List.range 32).all (fun k => !(s.on (DMA_CH_CFG_REQ_EN k))) = true ∧ s.dmaRoom = true ∧ s.dmaPick = some
      c ∧ c < 32 ∧ s.dma.ch.length = 32 ∧ dSrcFix (s.chn_ c).desc = true ∧ dSrc (s.chn_ c).desc = 0x10000000 ∧ s.rd (DMA_CH_CFG_BURST c) =
      0 ∧ (s.chn_ c).issued + 32 ≤ dLen (s.chn_ c).desc)
    ∧ (∃ (s : State), s.dma.ch = List.replicate 32 {})
    ∧ (∃ (c : Nat) (b : DmaBurst) (q t : State) (d : List Byte) (s : State), c < 32 ∧ (s.chn_ c).bursts = [b] ∧ b.writing = false ∧ b.got
      = none ∧ s.readBehind c b = false ∧ s.dmaWrites < 32 ∧ s.dmaBurstRead c b = (q, { data := d }) ∧ (q.updCh c (fun y =>
      { y with bursts := y.bursts.map (fun z => if z = b then { b with got := some { data := d } } else z) })).readsFirst.dmaStore c b d =
      (t, d.length) ∧ t.dma.ch.length = 32 ∧ (t.chn_ c).bursts = [{ b with got := some { data := d } }])
    ∧ (∃ (c : Nat) (b : DmaBurst) (s : State), c < 32 ∧ s.dma.ch.length = 32 ∧ (s.chn_ c).bursts = [b] ∧ b.writing = true ∧ b.good = b.len
      ∧ dword (s.chn_ c).desc 0 30 1 = 0 ∧ (s.chn_ c).err = 0 ∧ (s.chn_ c).park = 0 ∧ (s.chn_ c).wrote + b.len < dLen (s.chn_ c).desc)
    ∧ (∃ (c : Nat) (b : DmaBurst) (s : State), c < 32 ∧ s.dma.ch.length = 32 ∧ (s.chn_ c).bursts = [b] ∧ b.writing = true ∧ b.good = b.len
      ∧ dword (s.chn_ c).desc 0 30 1 = 0 ∧ ¬ (s.chn_ c).desc = [] ∧ (s.chn_ c).err = 0 ∧ (s.chn_ c).park = 0 ∧ (s.chn_ c).word7 = none ∧
      (s.chn_ c).ended = false ∧ (s.chn_ c).reread = false ∧ (s.chn_ c).wrote + b.len = dLen (s.chn_ c).desc) :=
  ⟨⟨(31), (0), (allOn), by decide +kernel⟩,
   ⟨(31), (0), (((allOn.wr (DMA_CH_CTL_EN 3) 1).wr (DMA_CH_CFG_REQ_EN 3) 1).wr (DMA_CH_CFG_REQ_EN 31) 1), by decide +kernel⟩,
   ⟨(31), (0), ((allOn.wr (DMA_CH_CTL_EN 31) 1).wr (DMA_CH_STAT_CSTATE 31) 2), by decide +kernel⟩,
   ⟨(5), ((((allOn.wr (DMA_CH_STAT_CSTATE 5) 1).setDescAddr 5 0x10000000).setWords 0x10000000 [0, 64]).busRead 12 0x10000000 32 |>.1),
     ((((allOn.wr (DMA_CH_STAT_CSTATE 5) 1).setDescAddr 5 0x10000000).setWords 0x10000000 [0, 64]).bytes 0x10000000 32), ((((allOn.wr
     (DMA_CH_STAT_CSTATE 5) 1).setDescAddr 5 0x10000000).setWords 0x10000000 [0, 64])), by decide +kernel⟩,
   ⟨(5), (allOn), by decide +kernel⟩,
   ⟨(5), (((allOn.wr (DMA_CH_STAT_CSTATE 5) 2).wr (DMA_CH_CFG_BURST 5) 0).updDma (fun d =>
     { d with ch := upd d.ch 5 { desc := [0x10000000, 64, 0x10000000, 0, 0, 0, 0, 0] } })), by decide +kernel⟩,
   ⟨(allOn), by decide +kernel⟩,
   ⟨(5), ({ off := 0, len := 4 }), ((DMAW.dmaBurstRead 5 { off := 0, len := 4 }).1), ((((DMAW.dmaBurstRead 5
     { off := 0, len := 4 }).1.updCh 5 (fun y =>
     { y with bursts := [{ off := 0, len := 4, got := some { data := DMAW.bytes 0x10000000 4 } }] })).readsFirst.dmaStore 5
     { off := 0, len := 4 } (DMAW.bytes 0x10000000 4)).1), (DMAW.bytes 0x10000000 4), (DMAW), by decide +kernel⟩,
   ⟨(5), ({ off := 0, len := 4, writing := true, good := 4 }), ((DMAW.updDma (fun d =>
     { d with ch := upd d.ch 5 { desc := [0, 64, 0x10000000, 0, 0x10001000, 0, 0, 0], bursts := [{ off := 0, len := 4, writing := true, good := 4 }] } }))),
     by decide +kernel⟩,
   ⟨(5), ({ off := 0, len := 4, writing := true, good := 4 }), ((DMAW.updDma (fun d =>
     { d with ch := upd d.ch 5 { desc := [0, 4, 0x10000000, 0, 0x10001000, 0, 0, 0], bursts := [{ off := 0, len := 4, writing := true, good := 4 }] } }))),
     by decide +kernel⟩⟩

/-- Every hypothesis of DmaRows_2 can hold. -/
theorem witness_DmaRows_2 :
    (∃ (c : Nat) (w : Word) (q : State) (s : State), c < 32 ∧ (s.chn_ c).word7 = some w ∧ (s.chn_ c).hold7 = false ∧ fieldOf w 30 1 = 0 ∧
      dLast (s.chn_ c).desc = true ∧ dword (s.chn_ c).desc 0 29 1 = 1 ∧ s.busWrite 12 (s.descAddr c + 28) (leBytes 4 w.toNat) = (q, true)
      ∧ q.dma.ch.length = 32 ∧ (q.chn_ c).park = 0)
    ∧ (∃ (c : Nat) (s : State), (s.chn_ c).word7 = none)
    ∧ (∃ (c : Nat) (q : State) (d : List Byte) (s : State), c < 32 ∧ (s.chn_ c).reread = true ∧ s.busRead 12 (s.descAddr c) 32 = (q,
      { data := d }) ∧ dLast (descWords d) = true ∧ q.on (DMA_CH_STAT_DB_PEND c) = false ∧ q.dma.ch.length = 32)
    ∧ (∃ (c : Nat) (s : State), (s.chn_ c).reread = false)
    ∧ (∃ (c : Nat) (val : Word) (s : State), c < 32 ∧ s.admits (DMA_CH_DB c) = true ∧ s.cst c = cLAST ∧ (s.chn_ c).reread = false ∧
      s.dma.ch.length = 32)
    ∧ (∃ (c : Nat) (val : Word) (s : State), c < 32 ∧ s.admits (DMA_CH_DB c) = true ∧ s.cst c = cRUN)
    ∧ (∃ (line : Nat) (s : State), (List.range 32).all (fun k => !(s.on (DMA_CH_CFG_REQ_EN k))) = true)
    ∧ (∃ (line c : Nat) (s : State), line < 16 ∧ (List.range 32).find? (fun c => s.on (DMA_CH_CTL_EN c) && s.on (DMA_CH_CFG_REQ_EN c) &&
      s.rd (DMA_CH_CFG_REQ c) == line) = some c ∧ s.cst c = cRUN ∧ s.rd (DMA_CH_STAT_REQ_CNT c) < 15)
    ∧ (∃ (line c : Nat) (s : State), line < 16 ∧ (List.range 32).find? (fun c => s.on (DMA_CH_CTL_EN c) && s.on (DMA_CH_CFG_REQ_EN c) &&
      s.rd (DMA_CH_CFG_REQ c) == line) = some c ∧ s.cst c = cRUN ∧ s.rd (DMA_CH_STAT_REQ_CNT c) = 15) :=
  ⟨⟨(5), (0x80000004), (DMAB.busWrite 12 0x1000001C (leBytes 4 0x80000004) |>.1), (DMAB), by decide +kernel⟩,
   ⟨(5), (allOn), by decide +kernel⟩,
   ⟨(5), (DMAL.busRead 12 0x10000000 32 |>.1), (DMAL.bytes 0x10000000 32), (DMAL), by decide +kernel⟩,
   ⟨(5), (allOn), by decide +kernel⟩,
   ⟨(5), (0), (allOn.wr (DMA_CH_STAT_CSTATE 5) cLAST), by decide +kernel⟩,
   ⟨(5), (0), (allOn.wr (DMA_CH_STAT_CSTATE 5) cRUN), by decide +kernel⟩,
   ⟨(5), (allOn), by decide +kernel⟩,
   ⟨(7), (5), ((((allOn.wr (DMA_CH_STAT_CSTATE 5) cRUN).wr (DMA_CH_CTL_EN 5) 1).wr (DMA_CH_CFG_REQ_EN 5) 1).wr (DMA_CH_CFG_REQ 5) 7), by
     decide +kernel⟩,
   ⟨(7), (5), (((((allOn.wr (DMA_CH_STAT_CSTATE 5) cRUN).wr (DMA_CH_CTL_EN 5) 1).wr (DMA_CH_CFG_REQ_EN 5) 1).wr (DMA_CH_CFG_REQ 5) 7).wr
     (DMA_CH_STAT_REQ_CNT 5) 15), by decide +kernel⟩⟩

/-- Every hypothesis of FlashCommandRows can hold. -/
theorem witness_FlashCommandRows :
    (∃ (s : State), s.isOn bFLS 0 = true ∧ s.rd FLS_OPSTAT_SEQ = 0)
    ∧ (∃ (s : State), s.isOn bFLS 0 = true ∧ s.rd FLS_OPSTAT_SEQ = 1)
    ∧ (∃ (s : State), s.isOn bFLS 0 = false)
    ∧ (∃ (a : Nat) (l : List Byte) (s : State), FlashReady s ∧ a < 0x810000 ∧ a % 16 = 0 ∧ l.length = 16 ∧ s.protected_ (norSectorOf a) =
      false ∧ s.incomplete (norSectorOf a) = false ∧ s.programmed (a / 16) = false)
    ∧ (∃ (a : Nat) (l : List Byte) (s : State), FlashReady s ∧ a < 0x810000 ∧ a % 16 = 0 ∧ l.length = 16 ∧ s.protected_ (norSectorOf a) =
      true)
    ∧ (∃ (a : Nat) (l : List Byte) (s : State), FlashReady s ∧ a < 0x810000 ∧ a % 16 = 0 ∧ l.length = 16 ∧ s.protected_ (norSectorOf a) =
      false ∧ s.incomplete (norSectorOf a) = false ∧ s.programmed (a / 16) = true)
    ∧ (∃ (a : Nat) (l : List Byte) (s : State), FlashReady s ∧ a < 0x810000 ∧ a % 256 = 0 ∧ l.length = 256 ∧ s.protected_ (norSectorOf a)
      = false ∧ s.incomplete (norSectorOf a) = false ∧ s.fls.prog = [] ∧ (List.range 32).all (fun k => !(s.on (DMA_CH_CTL_EN k))) = true)
    ∧ (∃ (k : Nat) (s : State), FlashReady s ∧ k < 128 ∧ s.fls.ppb.contains k = false)
    ∧ (∃ (k : Nat) (s : State), FlashReady s ∧ k < 128 ∧ s.fls.ppb.contains k = true)
    ∧ (∃ (x : FlsOp) (s : State), s.isOn bFLS 0 = true ∧ s.rd FLS_OPSTAT_SEQ = 0 ∧ s.fls.run = some x ∧ x.op = 3) :=
  ⟨⟨(allOn), by decide +kernel⟩,
   ⟨(allOn.wr FLS_OPSTAT_SEQ 1), by decide +kernel⟩,
   ⟨(allOn.setSt bFLS 0 stOFF), by decide +kernel⟩,
   ⟨(0x80FFF0), (List.replicate 16 0x5A#8), (allOn.wr FLS_BOOT_WP_WP 0), by decide +kernel⟩,
   ⟨(0x80FFF0), (List.replicate 16 0x5A#8), (allOn.wr FLS_BOOT_WP_WP 0xFFFF), by decide +kernel⟩,
   ⟨(0x100), (List.replicate 16 0x5A#8), (allOn.markProg 16 1), by decide +kernel⟩,
   ⟨(0x100), (List.replicate 256 0x5A#8), (allOn), by decide +kernel⟩,
   ⟨(127), (allOn), by decide +kernel⟩,
   ⟨(127), (allOn.updFls (fun f => { f with ppb := [127] })), by decide +kernel⟩,
   ⟨({ op := 3, sector := 5, phase := 2 }), (allOn.updFls (fun f => { f with run := some { op := 3, sector := 5, phase := 2 } })), by
     decide +kernel⟩⟩

/-- Every hypothesis of FlashCommandRows_2 can hold. -/
theorem witness_FlashCommandRows_2 :
    (∃ (x : FlsOp) (s : State), s.isOn bFLS 0 = true ∧ s.rd FLS_OPSTAT_SEQ = 0 ∧ s.fls.run = none ∧ s.fls.held = some x ∧ x.op < 8 ∧
      x.sector < 144)
    ∧ (∃ (x : FlsOp) (s : State), s.isOn bFLS 0 = true ∧ s.rd FLS_OPSTAT_SEQ = 0 ∧ s.fls.run = none ∧ s.fls.held = some x)
    ∧ (∃ (s : State), s.isOn bFLS 0 = true ∧ s.rd FLS_OPSTAT_SEQ < 3) :=
  ⟨⟨({ op := 3, sector := 5, phase := 2 }), ((allOn.updFls (fun f => { f with held := some { op := 3, sector := 5, phase := 2 } })).wr
    FLS_OPSTAT_SUSP 1), by decide +kernel⟩,
   ⟨({ op := 3, sector := 5, phase := 2 }), ((allOn.updFls (fun f => { f with held := some { op := 3, sector := 5, phase := 2 } }))), by
     decide +kernel⟩,
   ⟨(allOn.wr FLS_OPSTAT_SEQ 2), by decide +kernel⟩⟩

/-- Every hypothesis of FlashProtectionRows can hold. -/
theorem witness_FlashProtectionRows :
    (∃ (l : List Byte) (s : State), FlashReady s ∧ l.length = 16 ∧ s.on FLS_PROT_PW_LOCKED = false ∧ s.fls.pw = l)
    ∧ (∃ (l : List Byte) (s : State), FlashReady s ∧ l.length = 16 ∧ s.on FLS_PROT_PW_LOCKED = false ∧ ¬ s.fls.pw = l ∧ s.rd
      FLS_PROT_FAILS = 7)
    ∧ (∃ (l : List Byte) (s : State), FlashReady s ∧ l.length = 16 ∧ s.on FLS_PROT_PW_LOCKED = true)
    ∧ (∃ (l : List Byte) (s : State), FlashReady s ∧ l.length = 16 ∧ s.on FLS_PROT_PW_OPEN = true)
    ∧ (∃ (s : State), FlashReady s)
    ∧ (∃ (k : Nat) (s : State), FlashReady s ∧ k < 128 ∧ s.on FLS_PROT_PW_OPEN = true)
    ∧ (∃ (k : Nat) (s : State), FlashReady s ∧ k < 128 ∧ s.on FLS_PROT_PW_OPEN = false)
    ∧ (∃ (s : State), FlashReady s ∧ s.on FLS_PROT_PW_OPEN = true) :=
  ⟨⟨(List.replicate 16 0xFF#8), (allOn), by decide +kernel⟩,
   ⟨(List.replicate 16 0x11#8), (allOn.wr FLS_PROT_FAILS 7), by decide +kernel⟩,
   ⟨(List.replicate 16 0x11#8), (allOn.wr FLS_PROT_PW_LOCKED 1), by decide +kernel⟩,
   ⟨(List.replicate 16 0x11#8), (allOn.wr FLS_PROT_PW_OPEN 1), by decide +kernel⟩,
   ⟨(allOn.wr FLS_PROT_PW_OPEN 1), by decide +kernel⟩,
   ⟨(127), (allOn.wr FLS_PROT_PW_OPEN 1), by decide +kernel⟩,
   ⟨(127), (allOn.wr FLS_PROT_PW_OPEN 0), by decide +kernel⟩,
   ⟨(allOn.wr FLS_PROT_PW_OPEN 1), by decide +kernel⟩⟩

/-- Every hypothesis of FlashOperationRows can hold. -/
theorem witness_FlashOperationRows :
    (∃ (x : FlsOp) (w retries : Nat) (l : List Byte) (s : State), s.fls.run = some x ∧ x.op = 1 ∧ x.words = [(w, l)] ∧ l.length = 16 ∧
      retries < 256 ∧ retries ≤ atLeast1 (s.rd FLS_ERASE_LIM_PROG_MAX))
    ∧ (∃ (x : FlsOp) (w : Nat) (l : List Byte) (s : State), s.fls.run = some x ∧ x.op = 1 ∧ x.words = [(w, l)])
    ∧ (∃ (x : FlsOp) (s : State), s.fls.run = some x ∧ x.op = 3 ∧ x.phase = 1 ∧ x.susp = false ∧ sparseGet s.fls.counts x.sector < 1000)
    ∧ (∃ (x : FlsOp) (w : Nat) (s : State), s.fls.run = some x ∧ x.op = 3 ∧ x.phase = 3 ∧ x.sector < 144 ∧ (sectorWords x.sector).1 ≤ w ∧
      w < (sectorWords x.sector).1 + (sectorWords x.sector).2)
    ∧ (∃ (x : FlsOp) (s : State), s.fls.run = some x ∧ x.op = 4 ∧ x.phase = 4 ∧ x.sector < 128)
    ∧ (∃ (x : FlsOp) (s : State), s.fls.run = some x ∧ x.phase = 2)
    ∧ (∃ (x : FlsOp) (s : State), s.fls.run = some x ∧ x.phase = 2 ∧ atLeast1 (s.rd FLS_ERASE_LIM_MAX_PULSES) ≤ x.pulses + 1)
    ∧ (∃ (x : FlsOp) (s : State), s.fls.run = some x ∧ x.phase = 2 ∧ x.susp = true)
    ∧ (∃ (s : State), s.fls.run = none)
    ∧ (∃ (n : Nat) (s : State), n ≤ 256 ∧ s.fls.run = none ∧ s.incomplete 0 = false ∧ s.unsure 0 = false ∧ s.flsNeed ≤ atLeast1 (s.rd
      FLS_WAIT_CYCLES)) :=
  ⟨⟨({ op := 1, sector := 0, words := [(16, List.replicate 16 0x5A#8)] }), (16), (2), (List.replicate 16 0x5A#8), (allOn.updFls (fun f =>
    { f with run := some { op := 1, sector := 0, words := [(16, List.replicate 16 0x5A#8)] } })), by decide +kernel⟩,
   ⟨({ op := 1, sector := 0, words := [(16, List.replicate 16 0x5A#8)] }), (16), (List.replicate 16 0x5A#8), (allOn.updFls (fun f =>
     { f with run := some { op := 1, sector := 0, words := [(16, List.replicate 16 0x5A#8)] } })), by decide +kernel⟩,
   ⟨({ op := 3, sector := 5, phase := 1 }), (allOn.updFls (fun f => { f with run := some { op := 3, sector := 5, phase := 1 } })), by
     decide +kernel⟩,
   ⟨({ op := 3, sector := 143, phase := 3 }), (528383), ((allOn.updFls (fun f =>
     { f with markers := [143], prog := [(528000, 384)], run := some { op := 3, sector := 143, phase := 3 } }))), by decide +kernel⟩,
   ⟨({ op := 4, sector := 5, phase := 4 }), (allOn.updFls (fun f => { f with run := some { op := 4, sector := 5, phase := 4 } })), by
     decide +kernel⟩,
   ⟨({ op := 3, sector := 5, phase := 2 }), (allOn.updFls (fun f => { f with run := some { op := 3, sector := 5, phase := 2 } })), by
     decide +kernel⟩,
   ⟨({ op := 3, sector := 5, phase := 2, pulses := 20000 }), (allOn.updFls (fun f =>
     { f with run := some { op := 3, sector := 5, phase := 2, pulses := 20000 } })), by decide +kernel⟩,
   ⟨({ op := 3, sector := 5, phase := 2, susp := true }), (allOn.updFls (fun f =>
     { f with run := some { op := 3, sector := 5, phase := 2, susp := true } })), by decide +kernel⟩,
   ⟨(allOn), by decide +kernel⟩,
   ⟨(256), (allOn.wr FLS_WAIT_CYCLES 26), by decide +kernel⟩⟩

/-- Every hypothesis of FlashOperationRows_2 can hold. -/
theorem witness_FlashOperationRows_2 :
    (∃ (a n : Nat) (x : FlsOp) (s : State), 0x01000000 ≤ a ∧ a + n ≤ 0x01400000 ∧ s.fls.run = some x ∧ x.op = 3 ∧ x.sector < 64)
    ∧ (∃ (a n : Nat) (s : State), 0x01000000 ≤ a ∧ n = 16 ∧ a + n ≤ 0x01010000 ∧ s.fls.run = none ∧ s.incomplete 0 = false)
    ∧ (∃ (w : Nat) (s : State), s.on FLS_MSCRUB_EN = true ∧ s.isOn bFLS 0 = true ∧ s.fls.run = none ∧ s.fls.held = none ∧ s.rd
      FLS_MSCRUB_POS_WORD = w ∧ w + 1 < 528384 ∧ s.incomplete (norSectorOf (16 * w)) = false)
    ∧ (∃ (s : State), s.on FLS_MSCRUB_EN = false)
    ∧ (∃ (val : Word) (s : State), s.admits FLS_BOOT_WP = true)
    ∧ (∃ (p : Nat) (val : Word) (s : State), s.admits FLS_BOOT_WP = true ∧ ¬ p = 13 ∧ ¬ Nat.land (s.rd FLS_BOOT_WP_WP) (fieldOf val 0 16)
      = s.rd FLS_BOOT_WP_WP)
    ∧ (∃ (val : Word) (s : State), s.admits FLS_CNT_CLR = true ∧ fieldOf val 0 1 = 1)
    ∧ (∃ (val : Word) (s : State), s.admits FLS_MSCRUB_FAIL = true) :=
  ⟨⟨(0x01000010), (16), ({ op := 3, sector := 63 }), (allOn.updFls (fun f => { f with run := some { op := 3, sector := 63 } })), by
    decide +kernel⟩,
   ⟨(0x01000010), (16), (allOn), by decide +kernel⟩,
   ⟨(528382), ((allOn.wr FLS_MSCRUB_EN 1).wr FLS_MSCRUB_POS_WORD 528382), by decide +kernel⟩,
   ⟨(allOn.wr FLS_MSCRUB_EN 0), by decide +kernel⟩,
   ⟨(5), (allOn), by decide +kernel⟩,
   ⟨(0), (5), (allOn.wr FLS_BOOT_WP_WP 0xFF), by decide +kernel⟩,
   ⟨(1), (allOn.setReg FLS_CNT_ECC 5), by decide +kernel⟩,
   ⟨(1), (allOn.wr FLS_MSCRUB_FAIL_FAILS 5), by decide +kernel⟩⟩

/-- Every hypothesis of ClockAndVoltageRows can hold. -/
theorem witness_ClockAndVoltageRows :
    (∃ (val : Word) (s : State), s.admits PWR_AVS_REQ = true ∧ s.on PWR_AVS_REQ_GO = false ∧ fieldOf val 0 10 = 800 ∧ s.rd CLK_CPU_MULT ≤
      128)
    ∧ (∃ (val : Word) (s : State), s.admits PWR_AVS_REQ = true ∧ s.on PWR_AVS_REQ_GO = false ∧ (¬ fieldOf val 0 10 % 5 = 0 ∨ fieldOf val 0
      10 < 720 ∨ 880 < fieldOf val 0 10))
    ∧ (∃ (val : Word) (s : State), s.admits PWR_AVS_REQ = true ∧ s.on PWR_AVS_REQ_GO = false ∧ fieldOf val 0 10 = 755 ∧ 96 < s.rd
      CLK_CPU_MULT)
    ∧ (∃ (val : Word) (nack : Bool) (s : State), s.admits PWR_AVS_REQ = true ∧ s.on PWR_AVS_REQ_GO = true)
    ∧ (∃ (s : State), s.on PWR_AVS_REQ_GO = true ∧ s.rd PWR_AVS_CFG_EXP = 0x1A ∧ s.pwr.avsMv = 750)
    ∧ (∃ (s : State), s.on PWR_AVS_REQ_GO = true)
    ∧ (∃ (val : Word) (s : State), s.admits CLK_CPU = true ∧ 32 ≤ fieldOf val 0 8 ∧ fieldOf val 0 8 ≤ multLimit (s.rd PWR_AVS_STAT_MV_NOW))
    ∧ (∃ (val : Word) (s : State), s.admits CLK_CPU = true ∧ (fieldOf val 0 8 < 32 ∨ multLimit (s.rd PWR_AVS_STAT_MV_NOW) < fieldOf val 0
      8))
    ∧ (∃ (s : State), s.on CLK_CPU_BUSY = true ∧ s.rd BEL_STATUS_THROT = 0)
    ∧ (∃ (s : State), s.on CLK_CPU_BUSY = true ∧ s.rd BEL_STATUS_THROT = 4 ∧ s.rd CLK_CPU_MULT = 100 ∧ s.rd BEL_THROT_CPU_MULT = 8) :=
  ⟨⟨(800), (allOn), by decide +kernel⟩,
   ⟨(719), (allOn), by decide +kernel⟩,
   ⟨(755), (allOn.wr CLK_CPU_MULT 97), by decide +kernel⟩,
   ⟨(800), (true), (allOn.wr PWR_AVS_REQ_GO 1), by decide +kernel⟩,
   ⟨(((allOn.wr PWR_AVS_REQ_GO 1).wr PWR_AVS_CFG_EXP 0x1A).updPwr (fun x => { x with avsMv := 750 })), by decide +kernel⟩,
   ⟨(allOn.wr PWR_AVS_REQ_GO 1), by decide +kernel⟩,
   ⟨(96), (allOn), by decide +kernel⟩,
   ⟨(129), (allOn.wr PWR_AVS_STAT_MV_NOW 880), by decide +kernel⟩,
   ⟨(allOn.wr CLK_CPU_BUSY 1), by decide +kernel⟩,
   ⟨((((allOn.wr CLK_CPU_BUSY 1).wr BEL_STATUS_THROT 4).wr CLK_CPU_MULT 100).wr BEL_THROT_CPU_MULT 8), by decide +kernel⟩⟩

/-- Every hypothesis of ClockAndVoltageRows_2 can hold. -/
theorem witness_ClockAndVoltageRows_2 :
    (∃ (s : State), s.on CLK_CPU_BUSY = false)
    ∧ (∃ (s : State), s.halted = false ∧ s.rd SYS_RST_CAUSE_CAUSE = 0)
    ∧ (∃ (s : State), s.halted = true) :=
  ⟨⟨(allOn.wr CLK_CPU_BUSY 0), by decide +kernel⟩,
   ⟨(allOn.wr SYS_RST_CAUSE_CAUSE 0), by decide +kernel⟩,
   ⟨(allOn.updSys (fun x => { x with test := true })), by decide +kernel⟩⟩

/-- Every hypothesis of PowerDomainRows can hold. -/
theorem witness_PowerDomainRows :
    (∃ (val : Word) (m : Nat) (s : State), s.admits PWR_DOM_REQ = true ∧ s.on PWR_DOM_STAT_BUSY = false ∧ fieldOf val 0 16 = m ∧ firstDom
      m (fun d => inMask gateable d && s.powered d) = none ∧ firstDom m s.domIdle = none)
    ∧ (∃ (val : Word) (s : State), s.admits PWR_DOM_REQ = true ∧ s.on PWR_DOM_STAT_BUSY = false ∧ fieldOf val 0 16 = 2)
    ∧ (∃ (val : Word) (s : State), s.admits PWR_DOM_REQ = true ∧ s.on PWR_DOM_STAT_BUSY = true)
    ∧ (∃ (val : Word) (s : State), s.admits PWR_DOM_REQ = true ∧ s.on PWR_DOM_STAT_BUSY = false ∧ fieldOf val 0 16 = 4 ∧ s.rd
      PWR_DOM_STAT_POWERED = 0x7FB)
    ∧ (∃ (s : State), s.pwr.req = some { domains := 4, up := true } ∧ s.rd PWR_DOM_STAT_POWERED = 0x7FB ∧ s.pwr.shedPend = none)
    ∧ (∃ (s : State), s.pwr.req = none)
    ∧ (∃ (q : DomReq) (s : State), s.pwr.req = some q ∧ q.domains = 8 ∧ q.up = false ∧ q.why = 0 ∧ s.rd PWR_DOM_STAT_POWERED = 0x7FF ∧
      s.dma.quiesce = some 8 ∧ s.dmaAcked = true ∧ s.pwr.shedPend = none)
    ∧ (∃ (q : DomReq) (s : State), s.pwr.req = some q ∧ q.up = false ∧ s.dma.quiesce = some 8 ∧ s.dmaAcked = false)
    ∧ (∃ (q : DomReq) (s : State), s.pwr.req = some q ∧ q.domains = 0x400 ∧ q.up = false ∧ q.why = 0 ∧ s.dma.quiesce = some 0x400 ∧
      s.dmaAcked = false ∧ s.heldDoms 0x400 = 0x400 ∧ s.pwr.shedPend = none)
    ∧ (∃ (val : Word) (s : State), s.admits PWR_ACT = true) :=
  ⟨⟨(8), (8), (allOn.wr PWR_HART_PARK_PARK 255), by decide +kernel⟩,
   ⟨(2), (allOn), by decide +kernel⟩,
   ⟨(2), (allOn.wr PWR_DOM_STAT_BUSY 1), by decide +kernel⟩,
   ⟨(4), (allOn.wr PWR_DOM_STAT_POWERED 0x7FB), by decide +kernel⟩,
   ⟨((allOn.wr PWR_DOM_STAT_POWERED 0x7FB).updPwr (fun x => { x with req := some { domains := 4, up := true } })), by decide +kernel⟩,
   ⟨(allOn), by decide +kernel⟩,
   ⟨({ domains := 8 }), ((allOn.wr PWR_DOM_STAT_POWERED 0x7FF).updPwr (fun x => { x with req := some { domains := 8 } }) |>.updDma (fun d
     => { d with quiesce := some 8 })), by decide +kernel⟩,
   ⟨({ domains := 8 }), (allOn.updPwr (fun x => { x with req := some { domains := 8 } }) |>.updDma (fun d =>
     { d with quiesce := some 8, ch := upd d.ch 0 { park := 1 } })), by decide +kernel⟩,
   ⟨({ domains := 0x400 }), ((allOn.wr (DMA_CH_CFG_REQ_EN 0) 1).updPwr (fun x => { x with req := some { domains := 0x400 } }) |>.updDma
     (fun d => { d with quiesce := some 0x400, ch := upd d.ch 0 { park := 1, dom := 0x400 } })), by decide +kernel⟩,
   ⟨(0), (allOn), by decide +kernel⟩⟩

/-- Every hypothesis of PowerDomainRows_2 can hold. -/
theorem witness_PowerDomainRows_2 :
    (∃ (n : Nat) (s : State), 1 ≤ n ∧ n ≤ 5 ∧ ¬ s.rd (PWR_IDLE_MS (n - 1)) = 0 ∧ s.rd (PWR_IDLE_MS (n - 1)) ≤ s.idleMs ∧ s.rd
      PWR_PSTATE_STATE < n)
    ∧ (∃ (n : Nat) (s : State), n ≤ s.rd PWR_PSTATE_STATE)
    ∧ (∃ (s : State), s.halted = false ∧ s.pwr.fail = false ∧ s.on PWR_HOLDUP_ARM = true ∧ s.rd PWR_HOLDUP_STAT_PHASE = 0 ∧ s.powered 9 =
      false ∧ s.pwr.req = none)
    ∧ (∃ (s : State), s.pwr.fail = false ∧ s.on PWR_HOLDUP_ARM = false)
    ∧ (∃ (s : State), s.rd PWR_HOLDUP_STAT_PHASE = 1 ∧ s.on PWR_TRIP_TRIPPED = false ∧ s.rd SYS_RST_CAUSE_CAUSE = 0)
    ∧ (∃ (s : State), s.rd PWR_HOLDUP_STAT_PHASE = 1 ∧ s.on PWR_TRIP_TRIPPED = false)
    ∧ (∃ (b : Bool) (s : State), s.rd PWR_HOLDUP_STAT_PHASE = 0) :=
  ⟨⟨(5), ((allOn.wr (PWR_IDLE_MS 4) 1).updFwk (fun y => { y with aon := 25000 })), by decide +kernel⟩,
   ⟨(5), (allOn.wr PWR_PSTATE_STATE 5), by decide +kernel⟩,
   ⟨((allOn.wr PWR_HOLDUP_ARM 1).wr PWR_DOM_STAT_POWERED 0x5FF), by decide +kernel⟩,
   ⟨(allOn.wr PWR_HOLDUP_ARM 0), by decide +kernel⟩,
   ⟨((allOn.wr PWR_HOLDUP_STAT_PHASE 1).wr SYS_RST_CAUSE_CAUSE 0), by decide +kernel⟩,
   ⟨(allOn.wr PWR_HOLDUP_STAT_PHASE 1), by decide +kernel⟩,
   ⟨(true), (allOn.wr PWR_HOLDUP_STAT_PHASE 0), by decide +kernel⟩⟩

/-- Every hypothesis of ThermalRows can hold. -/
theorem witness_ThermalRows :
    (∃ (raw : Nat) (s : State), s.isOn bBEL 0 = true ∧ s.rd BEL_ROUND_SLOT = 22 ∧ raw < 32768)
    ∧ (∃ (raw : Nat) (s : State), s.isOn bBEL 0 = true ∧ s.rd BEL_ROUND_SLOT = 63)
    ∧ (∃ (raw : Nat) (s : State), s.isOn bBEL 0 = false ∧ ¬ s.st bBEL 0 = stSTOPPING)
    ∧ (∃ (m : Nat) (s : State), s.pwr.shutDom = some m ∧ Nat.land (Nat.land m gateable) (s.rd PWR_DOM_STAT_POWERED) = 8 ∧ s.rd
      PWR_DOM_STAT_POWERED = 0x7FF)
    ∧ (∃ (s : State), s.pwr.shutDom = none)
    ∧ (∃ (val : Word) (s : State), s.admits BEL_CMD = true ∧ s.shutHot = false)
    ∧ (∃ (val : Word) (s : State), s.admits BEL_CMD = true ∧ s.shutHot = true)
    ∧ (∃ (s : State), s.pwr.thermal = false ∧ s.on PWR_TRIP_TRIPPED = false ∧ s.powered 9 = false)
    ∧ (∃ (s : State), s.on PWR_TRIP_TRIPPED = true)
    ∧ (∃ (s : State), s.on PWR_TRIP_TRIPPED = true ∧ s.pwr.thermal = false ∧ s.rd PWR_HOLDUP_STAT_PHASE = 0 ∧ s.rd SYS_RST_CAUSE_CAUSE =
      0) :=
  ⟨⟨(32767), (allOn.wr BEL_ROUND_SLOT 22), by decide +kernel⟩,
   ⟨(5), (allOn.wr BEL_ROUND_SLOT 63), by decide +kernel⟩,
   ⟨(5), (allOn.setSt bBEL 0 stOFF), by decide +kernel⟩,
   ⟨(8), ((allOn.wr PWR_DOM_STAT_POWERED 0x7FF).updPwr (fun x => { x with shutDom := some 8 })), by decide +kernel⟩,
   ⟨(allOn), by decide +kernel⟩,
   ⟨(1), (allOn.wr BEL_STATUS_SHUT 1), by decide +kernel⟩,
   ⟨(1), ((allOn.wr (BEL_CH_CFG_EN 0) 1).wrI (BEL_CH_ACT_SHUT 0) (-1)), by decide +kernel⟩,
   ⟨((allOn.wr PWR_TRIP_TRIPPED 0).wr PWR_DOM_STAT_POWERED 0x5FF), by decide +kernel⟩,
   ⟨(allOn.wr PWR_TRIP_TRIPPED 1), by decide +kernel⟩,
   ⟨(((allOn.wr PWR_TRIP_TRIPPED 1).wr PWR_HOLDUP_STAT_PHASE 0).wr SYS_RST_CAUSE_CAUSE 0), by decide +kernel⟩⟩

/-- Every hypothesis of ThermalRows_2 can hold. -/
theorem witness_ThermalRows_2 :
    (∃ (s : State), s.rd PWR_HOLDUP_STAT_PHASE = 1)
    ∧ (∃ (s : State), s.pwr.thermal = true)
    ∧ (∃ (s : State), s.pwr.thermal = false) :=
  ⟨⟨((allOn.wr PWR_TRIP_TRIPPED 1).wr PWR_HOLDUP_STAT_PHASE 1), by decide +kernel⟩,
   ⟨((allOn.wr PWR_TRIP_TRIPPED 1).updPwr (fun x => { x with thermal := true })), by decide +kernel⟩,
   ⟨(allOn), by decide +kernel⟩⟩

/-- Every hypothesis of FilteredInputRows can hold. -/
theorem witness_FilteredInputRows :
    (∃ (i : Nat) (s : State), i < 4 ∧ s.on (BEL_IN_STAT_LEVEL i) = false ∧ i = 0 ∧ s.on (BEL_IN_STAT_ARMED i) = true ∧ 1000000 ≤
      s.inTokens i ∧ s.pwr.inputs.length = 4)
    ∧ (∃ (i : Nat) (s : State), (i = 1 ∨ i = 2 ∨ i = 3) ∧ s.on (BEL_IN_STAT_LEVEL i) = false ∧ s.on (BEL_IN_STAT_ARMED i) = true ∧
      s.inTokens i < 1000000 ∧ i = 3)
    ∧ (∃ (i : Nat) (s : State), i < 4 ∧ s.on (BEL_IN_STAT_LEVEL i) = true ∧ ¬ i = 1)
    ∧ (∃ (i : Nat) (b : Bool) (s : State), s.on (BEL_IN_STAT_LEVEL i) = b)
    ∧ (∃ (i : Nat) (s : State), (i = 0 ∨ i = 3) ∧ s.on (BEL_IN_STAT_LEVEL i) = false)
    ∧ (∃ (i : Nat) (s : State), s.on (BEL_IN_STAT_LEVEL i) = true)
    ∧ (∃ (i : Nat) (s : State), (i = 0 ∨ i = 2) ∧ s.on (BEL_IN_STAT_LEVEL i) = true ∧ ¬ s.rd (BEL_IN_STUCK_MS i) = 0 ∧ s.on
      (BEL_IN_STAT_STUCK i) = false)
    ∧ (∃ (i : Nat) (s : State), 3 ≤ i)
    ∧ (∃ (i : Nat) (s : State), i < 4 ∧ s.inBurst i ≤ s.inTokens i)
    ∧ (∃ (i : Nat) (s : State), i < 4 ∧ s.inTokens i < s.inBurst i) :=
  ⟨⟨(0), (allOn.wr (BEL_IN_STAT_ARMED 0) 1), by decide +kernel⟩,
   ⟨(3), ((allOn.wr (BEL_IN_STAT_ARMED 3) 1).updInput 3 (fun x => { x with fresh := false })), by decide +kernel⟩,
   ⟨(3), (allOn.wr (BEL_IN_STAT_LEVEL 3) 1), by decide +kernel⟩,
   ⟨(3), (false), (allOn), by decide +kernel⟩,
   ⟨(3), (allOn), by decide +kernel⟩,
   ⟨(3), (allOn.wr (BEL_IN_STAT_LEVEL 3) 1), by decide +kernel⟩,
   ⟨(2), (((allOn.wr (BEL_IN_STAT_LEVEL 2) 1).wr (BEL_IN_STUCK_MS 2) 5).wr (BEL_IN_STAT_STUCK 2) 0), by decide +kernel⟩,
   ⟨(3), (allOn), by decide +kernel⟩,
   ⟨(3), (allOn.wr (BEL_IN_STAT_OVR 3) 1), by decide +kernel⟩,
   ⟨(3), (allOn.updInput 3 (fun x => { x with fresh := false })), by decide +kernel⟩⟩

/-- Every hypothesis of ResetRows can hold. -/
theorem witness_ResetRows :
    (∃ (fails : Nat) (fa : Bool) (s : State), fails < 512)
    ∧ (∃ (s : State), s.halted = false ∧ s.sys.hart12 = false ∧ s.rd SYS_BIST_POR_FAIL = 0 ∧ s.on SYS_FUSE_STAT_LOADED = true ∧
      s.dom.keyRecord = true)
    ∧ (∃ (s : State), s.halted = false ∧ s.sys.hart12 = false ∧ s.rd SYS_BIST_POR_FAIL = 0 ∧ s.on SYS_FUSE_STAT_LOADED = true ∧
      s.dom.keyRecord = false)
    ∧ (∃ (pass : Nat) (s : State), s.halted = false ∧ s.sys.hart12 = false ∧ s.rd SYS_BIST_POR_FAIL = 2)
    ∧ (∃ (pass : Nat) (s : State), s.sys.hart12 = true)
    ∧ (∃ (val : Word) (s : State), s.admits SYS_RST_REQ = true ∧ s.on SYS_RST_REQ_PEND = false ∧ s.rd SYS_RST_CAUSE_CAUSE = 0)
    ∧ (∃ (val : Word) (s : State), s.admits SYS_RST_REQ = true ∧ s.on SYS_RST_REQ_PEND = true ∧ s.rd SYS_RST_CAUSE_CAUSE = 0 ∧
      s.ackPending = [] ∧ s.aot.sess = [])
    ∧ (∃ (val : Word) (s : State), s.admits SYS_RST_REQ = true ∧ s.on SYS_RST_REQ_PEND = false ∧ s.obj.cmds = [])
    ∧ (∃ (val : Word) (s : State), s.admits SYS_RST_REQ = true ∧ s.on SYS_RST_REQ_PEND = true)
    ∧ (∃ (s : State), s.on SYS_RST_REQ_PEND = true ∧ s.rd SYS_RST_CAUSE_CAUSE = 0) :=
  ⟨⟨(511), (true), (allOn), by decide +kernel⟩,
   ⟨((allOn.wr SYS_FUSE_STAT_LOADED 1).updDom (fun d => { d with keyRecord := true })), by decide +kernel⟩,
   ⟨(allOn.wr SYS_FUSE_STAT_LOADED 1), by decide +kernel⟩,
   ⟨(4095), (allOn.wr SYS_BIST_POR_FAIL 2), by decide +kernel⟩,
   ⟨(4095), (allOn.updSys (fun x => { x with hart12 := true })), by decide +kernel⟩,
   ⟨(0), (allOn.wr SYS_RST_CAUSE_CAUSE 0), by decide +kernel⟩,
   ⟨(0), ((allOn.wr SYS_RST_REQ_PEND 1).wr SYS_RST_CAUSE_CAUSE 0), by decide +kernel⟩,
   ⟨(0), (allOn), by decide +kernel⟩,
   ⟨(0), (allOn.wr SYS_RST_REQ_PEND 1), by decide +kernel⟩,
   ⟨((allOn.wr SYS_RST_REQ_PEND 1).wr SYS_RST_CAUSE_CAUSE 0), by decide +kernel⟩⟩

/-- Every hypothesis of ResetRows_2 can hold. -/
theorem witness_ResetRows_2 :
    (∃ (s : State), s.on SYS_RST_REQ_PEND = false)
    ∧ (∃ (s : State), s.on SYS_WDT_CFG_EN = true ∧ s.fwk.holdup = false ∧ s.on SYS_WDT_STAT_WARNED = false)
    ∧ (∃ (s : State), s.on SYS_WDT_CFG_EN = true ∧ s.fwk.holdup = false ∧ s.on SYS_WDT_STAT_WARNED = true ∧ s.rd SYS_RST_CAUSE_CAUSE = 0)
    ∧ (∃ (s : State), s.fwk.holdup = true)
    ∧ (∃ (s : State), s.admits SYS_WDT_KICK = true)
    ∧ (∃ (val : Word) (s : State), s.admits SYS_WDT_KICK = true ∧ ¬ val = 0x6B1D)
    ∧ (∃ (val : Word) (s : State), s.admits SYS_HART_RUN = true)
    ∧ (∃ (l : Listener) (s : State), s.sys.listener = some l ∧ l.recovery = true)
    ∧ (∃ (s : State), s.sys.listener = some {} ∧ s.startable s.dom.bootSlot = false ∧ s.startable (1 - s.dom.bootSlot) = false) :=
  ⟨⟨(allOn), by decide +kernel⟩,
   ⟨(allOn.wr SYS_WDT_CFG_EN 1), by decide +kernel⟩,
   ⟨(((allOn.wr SYS_WDT_CFG_EN 1).wr SYS_WDT_STAT_WARNED 1).wr SYS_RST_CAUSE_CAUSE 0), by decide +kernel⟩,
   ⟨(allOn.updFwk (fun y => { y with holdup := true })), by decide +kernel⟩,
   ⟨(allOn.wr SYS_WDT_STAT_WARNED 1), by decide +kernel⟩,
   ⟨(0x6B1E), (allOn.wr SYS_WDT_STAT_WARNED 1), by decide +kernel⟩,
   ⟨(0xFFF), (allOn), by decide +kernel⟩,
   ⟨({ recovery := true }), (allOn.updSys (fun x => { x with listener := some { recovery := true } })), by decide +kernel⟩,
   ⟨(allOn.updSys (fun x => { x with listener := some {} })), by decide +kernel⟩⟩

/-- Every hypothesis of ListenerRows can hold. -/
theorem witness_ListenerRows :
    (∃ (c : Nat) (p : List Byte) (s : State), s.sys.listener = none)
    ∧ (∃ (l : Listener) (c : Nat) (p : List Byte) (s : State), s.sys.listener = some l ∧ ¬ c = crcBytes ([1#8] ++ p))
    ∧ (∃ (l : Listener) (s : State), s.sys.listener = some l)
    ∧ (∃ (l : Listener) (s : State), s.sys.listener = some l ∧ s.personalises = true)
    ∧ (∃ (l : Listener) (s : State), s.sys.listener = some l ∧ s.personalises = false)
    ∧ (∃ (l : Listener) (k : Nat) (p : List Byte) (s : State), s.sys.listener = some l ∧ l.devKey = some k ∧ p.length ≤ 4096)
    ∧ (∃ (l : Listener) (p : List Byte) (s : State), s.sys.listener = some l ∧ l.devKey = none ∧ p.length ≤ 4096)
    ∧ (∃ (l : Listener) (p : List Byte) (s : State), s.sys.listener = some l ∧ s.personalises = true ∧ p.length = 131 ∧ byteAt p 0 < 8 ∧ 1
      ≤ byteAt p 1 ∧ byteAt p 1 ≤ 3 ∧ l.anchors = [])
    ∧ (∃ (l : Listener) (p : List Byte) (s : State), s.sys.listener = some l ∧ s.personalises = true ∧ p.length = 131 ∧ (8 ≤ byteAt p 0 ∨
      byteAt p 1 = 0 ∨ 3 < byteAt p 1))
    ∧ (∃ (l : Listener) (p : List Byte) (s : State), s.sys.listener = some l ∧ s.personalises = true ∧ p.length = 44) :=
  ⟨⟨(7), ([]), (allOn), by decide +kernel⟩,
   ⟨({}), (7), ([]), (allOn.updSys (fun x => { x with listener := some {} })), by decide +kernel⟩,
   ⟨({}), (allOn.updSys (fun x => { x with listener := some {} })), by decide +kernel⟩,
   ⟨({}), ((allOn.wr DOM_MSTATE_MSTATE 3).updSys (fun x => { x with listener := some {} })), by decide +kernel⟩,
   ⟨({}), ((allOn.wr DOM_MSTATE_MSTATE 1).updSys (fun x => { x with listener := some {} })), by decide +kernel⟩,
   ⟨({ devKey := some 5 }), (5), ([1#8, 2#8]), (allOn.updSys (fun x => { x with listener := some { devKey := some 5 } })), by
     decide +kernel⟩,
   ⟨({}), ([1#8, 2#8]), (allOn.updSys (fun x => { x with listener := some {} })), by decide +kernel⟩,
   ⟨({}), ([7#8, 3#8] ++ List.replicate 129 0x5A#8), ((allOn.wr DOM_MSTATE_MSTATE 4).updSys (fun x => { x with listener := some {} })), by
     decide +kernel⟩,
   ⟨({}), ([8#8, 3#8] ++ List.replicate 129 0x5A#8), ((allOn.wr DOM_MSTATE_MSTATE 4).updSys (fun x => { x with listener := some {} })), by
     decide +kernel⟩,
   ⟨({}), (List.replicate 44 0x5A#8), ((allOn.wr DOM_MSTATE_MSTATE 4).updSys (fun x => { x with listener := some {} })), by decide +kernel⟩⟩

/-- Every hypothesis of ListenerRows_2 can hold. -/
theorem witness_ListenerRows_2 :
    (∃ (l : Listener) (p : List Byte) (s : State), s.sys.listener = some l ∧ ¬ p.length = 44)
    ∧ (∃ (l : Listener) (p : List Byte) (s : State), s.sys.listener = some l ∧ l.devKey = none ∧ p.length = 169)
    ∧ (∃ (l : Listener) (d : Nat) (p : List Byte) (s : State), s.sys.listener = some l ∧ l.devKey = some d ∧ s.personalises = true ∧
      p.length = 169)
    ∧ (∃ (l : Listener) (k : Nat) (c m n a : List Byte) (s : State), s.sys.listener = some l ∧ l.devKey = some k ∧ l.cert = some c ∧
      l.ident = some (m, n, a) ∧ s.personalises = true ∧ hasCo l.anchors = true ∧ s.rd SYS_RST_CAUSE_CAUSE = 0)
    ∧ (∃ (l : Listener) (s : State), s.sys.listener = some l ∧ l.cert = none)
    ∧ (∃ (l : Listener) (p : List Byte) (s : State), s.sys.listener = some l ∧ 160 < p.length ∧ p.length ≤ 3145729 ∧ byteAt p 0 < 2 ∧
      s.imageOk (p.drop 1) = false)
    ∧ (∃ (l : Listener) (p : List Byte) (s : State), s.sys.listener = some l ∧ 160 < p.length ∧ p.length ≤ 3145729 ∧ byteAt p 0 < 2) :=
  ⟨⟨({}), (List.replicate 43 0x5A#8), ((allOn.wr DOM_MSTATE_MSTATE 4).updSys (fun x => { x with listener := some {} })), by decide +kernel⟩,
   ⟨({}), (List.replicate 169 0x5A#8), (allOn.updSys (fun x => { x with listener := some {} })), by decide +kernel⟩,
   ⟨({ devKey := some 5 }), (5), (List.replicate 169 0x5A#8), ((allOn.wr DOM_MSTATE_MSTATE 4).updSys (fun x =>
     { x with listener := some { devKey := some 5 } })), by decide +kernel⟩,
   ⟨({ devKey := some 5, cert := some [1#8], ident := some ([1#8], [2#8], [3#8]), anchors := [{ slot := 0, role := 2, point := [], mask := 0 }] }),
     (5), ([1#8]), ([1#8]), ([2#8]), ([3#8]), (((allOn.wr DOM_MSTATE_MSTATE 3).wr SYS_RST_CAUSE_CAUSE 0).updSys (fun x =>
     { x with listener := some { devKey := some 5, cert := some [1#8], ident := some ([1#8], [2#8], [3#8]), anchors := [{ slot := 0, role := 2, point := [], mask := 0 }] } })),
     by decide +kernel⟩,
   ⟨({}), ((allOn.wr DOM_MSTATE_MSTATE 3).updSys (fun x => { x with listener := some {} })), by decide +kernel⟩,
   ⟨({}), (List.replicate 161 1#8), (allOn.updSys (fun x => { x with listener := some {} })), by decide +kernel⟩,
   ⟨({}), (List.replicate 161 1#8), (allOn.updSys (fun x => { x with listener := some {} })), by decide +kernel⟩⟩

/-- Every hypothesis of BistAndTraceRows can hold. -/
theorem witness_BistAndTraceRows :
    (∃ (val : Word) (s : State), s.admits SYS_BIST_CMD = true ∧ s.on SYS_BIST_CMD_GO = false ∧ s.rd SYS_BIST_SEL_STORE = 4 ∧ s.st bCHN 0 =
      stOFF ∧ s.st bCHN 1 = stOFF ∧ fieldOf val 0 2 < 3)
    ∧ (∃ (val : Word) (s : State), s.admits SYS_BIST_CMD = true ∧ s.on SYS_BIST_CMD_GO = false ∧ s.rd SYS_BIST_SEL_STORE = 4 ∧ s.st bCHN 0
      = stON)
    ∧ (∃ (fails : Nat) (s : State), s.sys.bist = some 8 ∧ fails = 8 ∧ s.fwk.bistWait = [] ∧ s.rd SYS_BIST_RES_FAIL = 1)
    ∧ (∃ (fails : Nat) (s : State), s.sys.bist = none)
    ∧ (∃ (n : Nat) (s : State), s.btpOpen = true ∧ s.rd BTP_STAT_DROPPED = n ∧ ¬ n = 0 ∧ s.sys.fifo.length = 4090)
    ∧ (∃ (s : State), 4090 < s.sys.fifo.length) :=
  ⟨⟨(2), (((allOn.setSt bCHN 0 stOFF).setSt bCHN 1 stOFF).wr SYS_BIST_SEL_STORE 4), by decide +kernel⟩,
   ⟨(0), (allOn.wr SYS_BIST_SEL_STORE 4), by decide +kernel⟩,
   ⟨(8), ((allOn.wr SYS_BIST_RES_FAIL 1).updSys (fun x => { x with bist := some 8 })), by decide +kernel⟩,
   ⟨(8), (allOn), by decide +kernel⟩,
   ⟨(3), (((allOn.wr DOM_DBG_BTP_EN 1).wr BTP_STAT_DROPPED 3).updSys (fun x => { x with fifo := List.replicate 4090 0#8 })), by
     decide +kernel⟩,
   ⟨((allOn.wr BTP_STAT_DROPPED 3).updSys (fun x => { x with fifo := List.replicate 4091 0#8 })), by decide +kernel⟩⟩

/-- Every hypothesis of TapRows can hold. -/
theorem witness_TapRows :
    (∃ (l : List Bool) (s : State), s.on DOM_MSTATE_APPROVED = false)
    ∧ (∃ (l : List Bool) (s : State), s.on DOM_MSTATE_APPROVED = true)
    ∧ (∃ (c l : List Bool) (s : State), s.on DOM_MSTATE_APPROVED = false)
    ∧ (∃ (s : State), s.on DOM_MSTATE_APPROVED = false)
    ∧ (∃ (s : State), s.on DOM_MSTATE_APPROVED = false)
    ∧ (∃ (l : List Bool) (s : State), s.on DOM_MSTATE_APPROVED = false)
    ∧ (∃ (l : List Bool) (s : State), s.on DOM_MSTATE_APPROVED = false)
    ∧ (∃ (s : State), s.on DOM_MSTATE_APPROVED = false ∧ s.on DOM_DBG_JTAG_EN = true)
    ∧ (∃ (s : State), (s.on DOM_MSTATE_APPROVED = true ∨ s.on DOM_DBG_JTAG_EN = false))
    ∧ (∃ (fails : Nat) (s : State), s.on DOM_MSTATE_APPROVED = false ∧ s.on DOM_DBG_JTAG_EN = true ∧ fails < 512) :=
  ⟨⟨([true]), (allOn.wr DOM_MSTATE_APPROVED 0), by decide +kernel⟩,
   ⟨([true]), (allOn.wr DOM_MSTATE_APPROVED 1), by decide +kernel⟩,
   ⟨([true]), ([false]), (allOn.wr DOM_MSTATE_APPROVED 0), by decide +kernel⟩,
   ⟨(allOn.wr DOM_MSTATE_APPROVED 0), by decide +kernel⟩,
   ⟨(allOn.wr DOM_MSTATE_APPROVED 0), by decide +kernel⟩,
   ⟨([true]), (allOn.wr DOM_MSTATE_APPROVED 0), by decide +kernel⟩,
   ⟨([true]), (allOn.wr DOM_MSTATE_APPROVED 0), by decide +kernel⟩,
   ⟨((allOn.wr DOM_MSTATE_APPROVED 0).wr DOM_DBG_JTAG_EN 1), by decide +kernel⟩,
   ⟨((allOn.wr DOM_MSTATE_APPROVED 0).wr DOM_DBG_JTAG_EN 0), by decide +kernel⟩,
   ⟨(8), ((allOn.wr DOM_MSTATE_APPROVED 0).wr DOM_DBG_JTAG_EN 1), by decide +kernel⟩⟩

/-- Every hypothesis of TapRows_2 can hold. -/
theorem witness_TapRows_2 :
    (∃ (s : State), s.on DOM_MSTATE_APPROVED = false ∧ s.on DOM_DBG_JTAG_EN = true)
    ∧ (∃ (s : State), s.on DOM_MSTATE_APPROVED = true) :=
  ⟨⟨((allOn.wr DOM_MSTATE_APPROVED 0).wr DOM_DBG_JTAG_EN 1), by decide +kernel⟩,
   ⟨(allOn.wr DOM_MSTATE_APPROVED 1), by decide +kernel⟩⟩

/-- Every hypothesis of EventRows can hold. -/
theorem witness_EventRows :
    (∃ (code sev source : Nat) (payload : List Byte) (s : State), 1 ≤ code ∧ sev ≤ 6 ∧ s.isOn bEVR 0 = true ∧ s.evr.posts.length < 8)
    ∧ (∃ (code sev source : Nat) (payload : List Byte) (s : State), 1 ≤ code ∧ sev = 3 ∧ s.isOn bEVR 0 = true ∧ 8 ≤ (s.evr.posts.filter
      (fun p => !p.fw)).length)
    ∧ (∃ (val : Word) (s : State), s.admits EVR_POST = true ∧ s.isOn bEVR 0 = true ∧ s.rd EVR_POST_STAT_DEPTH < 16)
    ∧ (∃ (val : Word) (s : State), s.admits EVR_POST = true ∧ s.rd EVR_POST_STAT_DEPTH = 16)
    ∧ (∃ (p : EvrPost) (s : State), s.isOn bEVR 0 = true ∧ s.evr.posts = [p] ∧ p.fw = false ∧ p.img = false ∧ p.sev = 6 ∧ s.slotCode 0 = 0)
    ∧ (∃ (p : EvrPost) (s : State), s.isOn bEVR 0 = true ∧ s.evr.posts = [p] ∧ p.fw = true ∧ p.img = false ∧ p.code / 256 = 1)
    ∧ (∃ (s : State), s.isOn bEVR 0 = false)
    ∧ (∃ (n : Nat) (s : State), n < 256 ∧ (s.rateEntry n).count = 0)
    ∧ (∃ (n : Nat) (x : RateEntry) (s : State), n < 256 ∧ (s.rateEntry n).at s.fwk.mtime = x ∧ ¬ x.count = 0 ∧ x.full ≤ x.tokens ∧ s.isOn
      bEVR 0 = true ∧ s.evr.posts = [])
    ∧ (∃ (val : Word) (n : Nat) (s : State), s.admits EVR_RL_CFG = true ∧ s.rd EVR_RL_SEL_ENTRY = n ∧ fieldOf val 0 1 = 1) :=
  ⟨⟨(0x200), (6), (3), ([1#8]), (allOn.updEvr (fun v => { v with posts := List.replicate 7 {} })), by decide +kernel⟩,
   ⟨(0x200), (3), (3), ([1#8]), (allOn.updEvr (fun v => { v with posts := List.replicate 8 {} })), by decide +kernel⟩,
   ⟨(0x1000), (allOn.wr EVR_POST_STAT_DEPTH 15), by decide +kernel⟩,
   ⟨(0x1000), (allOn.wr EVR_POST_STAT_DEPTH 16), by decide +kernel⟩,
   ⟨({ code := 0x203, sev := 6, source := 2, payload := [1#8] }), (allOn.updEvr (fun v =>
     { v with posts := [{ code := 0x203, sev := 6, source := 2, payload := [1#8] }] })), by decide +kernel⟩,
   ⟨({ fw := true, code := 0x103 }), (allOn.updEvr (fun v => { v with posts := [{ fw := true, code := 0x103 }] })), by decide +kernel⟩,
   ⟨(allOn.setSt bEVR 0 stOFF), by decide +kernel⟩,
   ⟨(255), (allOn), by decide +kernel⟩,
   ⟨255, { code := 0x205, count := 3, maxsev := 4, tokens := 100000000 },
    allOn.setRate 255 { code := 0x205, count := 3, maxsev := 4, tokens := 100000000 }, by decide +kernel⟩,
   ⟨(0x02050401), (255), (allOn.wr EVR_RL_SEL_ENTRY 255), by decide +kernel⟩⟩

/-- Every hypothesis of EventRows_2 can hold. -/
theorem witness_EventRows_2 :
    (∃ (val : Word) (s : State), s.admits EVR_CMD = true ∧ fieldOf val 0 1 = 0 ∧ fieldOf val 2 1 = 0)
    ∧ (∃ (val : Word) (s : State), s.admits EVR_CMD = true ∧ fieldOf val 0 1 = 0 ∧ fieldOf val 2 1 = 0)
    ∧ (∃ (port : Nat) (val : Word) (s : State), s.admits EVR_CMD = true ∧ fieldOf val 1 1 = 0 ∧ fieldOf val 2 1 = 0)
    ∧ (∃ (val : Word) (n : Nat) (s : State), s.admits EVR_CMD = true ∧ n < 4) :=
  ⟨⟨(0), (allOn), by decide +kernel⟩,
   ⟨(0), (allOn), by decide +kernel⟩,
   ⟨(0), (0), (allOn), by decide +kernel⟩,
   ⟨(0), (3), (allOn.setReg (EVR_DROP 3) 5), by decide +kernel⟩⟩

/-- Every hypothesis of LockedPageIgnoresExpertWrite can hold. -/
theorem witness_LockedPageIgnoresExpertWrite :
    (∃ (port a : Nat) (w : Word) (s : State), 0x100 ≤ regOff a ∧ listed a = true ∧ a % 4 = 0 ∧ s.regServed port a = true ∧ s.fuseDis a =
      false ∧ s.softWaiting a = false ∧ s.unlocked a = false ∧ s.sprEnv.steps = []) :=
  ⟨(0), (ATB_CMP_CTL 3), (5), (allOn.updFwk (fun y => { y with unlocked := [] })), by decide +kernel⟩

/-- Every hypothesis of FuseDisabledPage can hold. -/
theorem witness_FuseDisabledPage :
    (∃ (port a : Nat) (w : Word) (s : State), a % 4 = 0 ∧ s.regServed port a = true ∧ s.fuseDis a = true ∧ s.sprEnv.steps = [] ∧ regOff a
      = 0x24)
    ∧ (∃ (port a : Nat) (w : Word) (s : State), a % 4 = 0 ∧ s.regServed port a = true ∧ s.fuseDis a = true ∧ s.sprEnv.steps = [] ∧ regOff
      a = 0x0C) :=
  ⟨⟨(0), (pageBase bEVR 0 0 + 0x24), (5), (allOn.wr ⟨pageBase bEVR 0 0 + 4, 31, 1⟩ 1), by decide +kernel⟩,
   ⟨(0), (pageBase bEVR 0 0 + 0x0C), (5), (allOn.wr ⟨pageBase bEVR 0 0 + 4, 31, 1⟩ 1), by decide +kernel⟩⟩

/-- Every hypothesis of WaitingSoftReset can hold. -/
theorem witness_WaitingSoftReset :
    (∃ (port a : Nat) (w : Word) (s : State), a % 4 = 0 ∧ s.regServed port a = true ∧ s.softWaiting a = true ∧ s.sprEnv.steps = [] ∧ ¬
      regOff a = 0x1C) :=
  ⟨(0), (pageBase bLAN 1 2 + 0x24), (5), (allOn.updFwk (fun y => { y with softWait := [blkKey bLAN 1] })), by decide +kernel⟩

/-- Every hypothesis of VoltageLimitsFrequency can hold. -/
theorem witness_VoltageLimitsFrequency :
    (∃ (val : Word) (nack : Bool) (s : State), s.admits PWR_AVS_REQ = true ∧ s.on PWR_AVS_REQ_GO = false ∧ fieldOf val 0 10 % 5 = 0 ∧ 720
      ≤ fieldOf val 0 10 ∧ fieldOf val 0 10 ≤ 880 ∧ multLimit (fieldOf val 0 10) < s.rd CLK_CPU_MULT)
    ∧ (∃ (val : Word) (s : State), s.admits CLK_CPU = true ∧ multLimit (s.rd PWR_AVS_STAT_MV_NOW) < fieldOf val 0 8) :=
  ⟨⟨(795), (true), (allOn.wr CLK_CPU_MULT 113), by decide +kernel⟩,
   ⟨(129), (allOn.wr PWR_AVS_STAT_MV_NOW 880), by decide +kernel⟩⟩

/-- Every hypothesis of ShutClears can hold. -/
theorem witness_ShutClears :
    (∃ (val : Word) (s : State), s.admits BEL_CMD = true ∧ (List.range 64).all (fun n => !(s.on (BEL_CH_CFG_EN n)) || decide (s.rdI
      (BEL_CH_VAL_SAMPLE n) ≤ s.rdI (BEL_CH_ACT_SHUT n))) = true)
    ∧ (∃ (val : Word) (n : Nat) (s : State), s.admits BEL_CMD = true ∧ n < 64 ∧ s.on (BEL_CH_CFG_EN n) = true ∧ s.rdI (BEL_CH_ACT_SHUT n)
      < s.rdI (BEL_CH_VAL_SAMPLE n)) :=
  ⟨⟨(1), (allOn.wr BEL_STATUS_SHUT 1), by decide +kernel⟩,
   ⟨(1), (63), ((allOn.wr (BEL_CH_CFG_EN 63) 1).wrI (BEL_CH_ACT_SHUT 63) (-1)), by decide +kernel⟩⟩

/-- Every hypothesis of HardwarePosts can hold. -/
theorem witness_HardwarePosts :
    (∃ (code sev source : Nat) (payload : List Byte) (s : State), 1 ≤ code ∧ sev ≤ 6 ∧ s.isOn bEVR 0 = true ∧ (s.evr.posts.filter (fun p
      => !p.fw)).length < 8)
    ∧ (∃ (code sev source : Nat) (payload : List Byte) (s : State), 1 ≤ code ∧ sev ≤ 6 ∧ (s.isOn bEVR 0 = false ∨ 8 ≤ (s.evr.posts.filter
      (fun p => !p.fw)).length)) :=
  ⟨⟨(1), (6), (2), ([1#8]), (allOn.updEvr (fun v => { v with posts := List.replicate 7 {} ++ List.replicate 3 { fw := true } })), by
    decide +kernel⟩,
   ⟨(1), (6), (2), ([1#8]), (allOn.setSt bEVR 0 stOFF), by decide +kernel⟩⟩

/-- Every hypothesis of ResetCauseBits can hold. -/
theorem witness_ResetCauseBits :
    (∃ (val : Word) (s : State), s.admits SYS_RST_REQ = true)
    ∧ (∃ (s : State), s.on SYS_WDT_CFG_EN = true ∧ s.fwk.holdup = false ∧ s.on SYS_WDT_STAT_WARNED = true)
    ∧ (∃ (s : State), s.halted = false)
    ∧ (∃ (s : State), s.on PWR_TRIP_TRIPPED = true ∧ s.pwr.thermal = false ∧ ¬ s.rd PWR_HOLDUP_STAT_PHASE = 1)
    ∧ (∃ (b : Bool) (s : State), s.rd PWR_HOLDUP_STAT_PHASE = 1 ∧ s.on PWR_TRIP_TRIPPED = true)
    ∧ (∃ (s : State), s.rd PWR_HOLDUP_STAT_PHASE = 1 ∧ s.on PWR_TRIP_TRIPPED = false)
    ∧ (∃ (s : State), s.on SYS_RST_REQ_PEND = true) :=
  ⟨⟨(1), (allOn.wr SYS_RST_REQ_PEND 1), by decide +kernel⟩,
   ⟨((allOn.wr SYS_WDT_CFG_EN 1).wr SYS_WDT_STAT_WARNED 1), by decide +kernel⟩,
   ⟨(allOn), by decide +kernel⟩,
   ⟨(allOn.wr PWR_TRIP_TRIPPED 1), by decide +kernel⟩,
   ⟨(true), ((allOn.wr PWR_TRIP_TRIPPED 1).wr PWR_HOLDUP_STAT_PHASE 1), by decide +kernel⟩,
   ⟨(allOn.wr PWR_HOLDUP_STAT_PHASE 1), by decide +kernel⟩,
   ⟨(allOn.wr SYS_RST_REQ_PEND 1), by decide +kernel⟩⟩

/-- Every hypothesis of IdleStepIsOneCycle can hold, at the last cycle before mtime advances and with a halted chip. -/
theorem witness_IdleStepIsOneCycle :
    (∃ s : State, s.pending = [] ∧ s.halted = false ∧ s.sprEnv.steps = [] ∧ s.fwk.cycle = 39) ∧ (∃ s : State, s.pending = [] ∧ s.halted =
      true) :=
  ⟨⟨allOn.updFwk (fun y => { y with cycle := 39 }), by decide⟩, ⟨{ allOn with sys := { allOn.sys with test := true } }, by decide⟩⟩

/-- A canonical state takes a step that changes it. -/
theorem witness_StepKeepsCanonical : Canonical { State.reset with pending := [.clockLoss] } ∧
    ∃ r, step { State.reset with pending := [.clockLoss] } = .next r :=
  ⟨⟨by decide, by decide, by decide⟩, ⟨_, rfl⟩⟩

/-- The frames speak of commands that run. -/
theorem witness_MemoryFrame : storesNothing (.intForceWrite bEVR 0 0 0) = true ∧ ∃ r, exec (.intForceWrite bEVR 0 0 0) State.reset = .next
  r :=
  ⟨by decide, ⟨_, rfl⟩⟩

theorem witness_ObjectAndKeyFrame : leavesObjects (.cupCntClr 1) = true ∧ leavesLayout (.cupCntClr 1) = true ∧ ∃ r, exec (.cupCntClr 1)
  State.reset = .next r :=
  ⟨by decide, by decide, ⟨_, rfl⟩⟩

/-- A locked expert register, a page disabled by fuse and a waiting soft reset all turn a write away. -/
theorem witness_TurnedAwayWritesChangeNothing :
    (∃ (c : Instr) (a : Nat) (s : State), c.wf = true ∧ target c = some a ∧ s.sprEnv.steps = [] ∧ s.admits a = false ∧ s.served a = true
      ∧ s.fuseDis a = false ∧ s.softWaiting a = false ∧ listed a = true)
    ∧ (∃ (c : Instr) (a : Nat) (s : State), c.wf = true ∧ target c = some a ∧ s.sprEnv.steps = [] ∧ s.admits a = false ∧ s.fuseDis a = true)
    ∧ (∃ (c : Instr) (a : Nat) (s : State), c.wf = true ∧ target c = some a ∧ s.sprEnv.steps = [] ∧ s.admits a = false ∧ s.softWaiting a =
      true) :=
  ⟨⟨.comparatorArm 127 0 0, ATB_CMP_CTL 127, allOn.updFwk (fun y => { y with unlocked := [] }), by decide⟩,
   ⟨.shutClr 1, BEL_CMD, allOn.wr ⟨pageBase bBEL 0 0 + 4, 31, 1⟩ 1, by decide⟩,
   ⟨.shutClr 1, BEL_CMD, allOn.updFwk (fun y => { y with softWait := [blkKey bBEL 0] }), by decide⟩⟩

end Sys2Proof
end

section
/-! PROOFS of the statements of chapter 0, the register framework: register writes that a page turns away (R7, R9, R22, R28, R36), and what a
soft reset leaves of the registers (R35). -/

namespace Sys2Proof.Machine

/-! ## Writes that a page turns away -/

/-- The next state of a write that is not admitted: on a page that only its lock closes, a listed register sets LOCKED_WRITE (R9);
otherwise nothing changes (R22, R28, R36). -/
def State.turnedAway (s : State) (a : Nat) : State :=
  if s.served a && !s.fuseDis a && !s.softWaiting a && listed a then s.wr ⟨pageOf a + 0x10, 31, 1⟩ 1 else s

/-- A write that is not admitted does nothing of what it would do when admitted. -/
theorem State.gated_of_not_admits {s : State} {a : Nat} (h : s.admits a = false) (f : State → State) :
    s.gated a f = s.turnedAway a := by
  simp [State.gated, State.turnedAway, h]

@[simp] theorem State.turnedAway_sprEnv (s : State) (a : Nat) : (s.turnedAway a).sprEnv = s.sprEnv := by
  unfold State.turnedAway
  split
  · exact State.wr_sprEnv s _ _
  · rfl

/-- R9: where only the lock closes the page of a listed register, the write sets LOCKED_WRITE. -/
theorem State.turnedAway_of_locked {s : State} {a : Nat} (hserved : s.served a = true) (hfuse : s.fuseDis a = false)
    (hsoft : s.softWaiting a = false) (hlisted : listed a = true) : s.turnedAway a = s.wr ⟨pageOf a + 0x10, 31, 1⟩ 1 := by
  simp [State.turnedAway, hserved, hfuse, hsoft, hlisted]

/-- With no STEP waiting there is none to perform. -/
theorem State.drainSteps_of_nil {s : State} (h : s.sprEnv.steps = []) : s.drainSteps = s := by
  have hclear : { s with sprEnv := { s.sprEnv with steps := [] } } = s := by rw [← h]
  rw [State.drainSteps, h, List.foldl_nil, hclear]

/-- A command that is the write of one register goes through the gate of that register's page, and only SPR_CMD is followed by the STEP
commands that wait. -/
theorem exec_eq_gated_of_target {c : Instr} {a : Nat} (s : State) (hwf : c.wf = true) (ht : target c = some a) :
    ∃ f, exec c s = .next (s.gated a f) ∨ exec c s = .next (s.gated a f).drainSteps := by
  cases c
  case comparatorArm n _ _ | comparatorDisarm n _ =>
    have hn : n < 128 := of_decide_eq_true hwf
    cases ht
    exact ⟨_, .inl (congrArg Host.Outcome.next (if_pos hn))⟩
  case slotCfgWrite e kind n _ =>
    obtain ⟨hkind, hn⟩ := (Bool.and_eq_true (isSlotKind kind) (isSlot n)).mp hwf
    have hslot : ¬(4 ≤ n ∨ 4 ≤ kind) := by
      rw [isSlotKind, decide_eq_true_eq] at hkind
      rw [isSlot, decide_eq_true_eq] at hn
      omega
    cases ht
    exact ⟨_, .inl (if_neg hslot)⟩
  case sprStart cls _ | sprHalt cls _ | sprStep cls _ =>
    have hcls : cls < 4 := of_decide_eq_true hwf
    cases ht
    exact ⟨_, .inr (congrArg Host.Outcome.next (if_pos hcls))⟩
  case sprMcForce cls _ | sprCsWrite cls _ | sprQpush cls _ =>
    have hcls : cls < 4 := of_decide_eq_true hwf
    cases ht
    exact ⟨_, .inl (congrArg Host.Outcome.next (if_pos hcls))⟩
  case dmaChEnable n _ | dmaChDisable n _ | dmaChDb n _ =>
    have hn : ¬ 32 ≤ n := Nat.not_le.mpr (of_decide_eq_true hwf)
    cases ht
    exact ⟨_, .inl (congrArg Host.Outcome.next (if_neg hn))⟩
  -- the other commands name no operand that needs a range: those without a target are ruled out, the rest meet their gate at once
  all_goals cases ht
  all_goals exact ⟨_, .inl rfl⟩

/-- Settles O52: every such command goes through the gate of its register's page,
and where the write is not admitted no STEP is left to perform. -/
theorem turnedAwayWritesChangeNothing : Obligations.TurnedAwayWritesChangeNothing := by
  intro c a s hwf ht hsteps hadm
  have hdrain : (s.turnedAway a).drainSteps = s.turnedAway a := State.drainSteps_of_nil (by rw [State.turnedAway_sprEnv, hsteps])
  obtain ⟨f, hexec | hexec⟩ := exec_eq_gated_of_target s hwf ht
  · rw [hexec, State.gated_of_not_admits hadm, State.turnedAway]
  · rw [hexec, State.gated_of_not_admits hadm, hdrain, State.turnedAway]

/-! ## REGISTER_WRITE to a locked page -/

/-- A response changes no register and no byte. -/
@[simp] theorem State.respond_reg (s : State) (x : Resp) (a : Nat) : (s.respond x).reg a = s.reg a := rfl
@[simp] theorem State.respond_rd (s : State) (x : Resp) (f : Fld) : (s.respond x).rd f = s.rd f := rfl
@[simp] theorem State.respond_byte (s : State) (x : Resp) (k : Nat) : (s.respond x).byte k = s.byte k := rfl

/-- R22: a page that answers takes an aligned word. -/
theorem State.regStore_of_served {s : State} {port a : Nat} (w : Word) (halign : a % 4 = 0) (hserved : s.regServed port a = true) :
    s.regStore port a 4 w = (s.regWrite port a w, true) := by
  simp [State.regStore, halign, hserved]

/-- A page that serves a port answers. -/
theorem State.served_of_regServed {s : State} {port a : Nat} (h : s.regServed port a = true) : s.served a = true := by
  rw [State.regServed, Bool.and_eq_true] at h
  obtain ⟨hserved, -⟩ := h
  exact hserved

/-- A page that answers lies in the register window. -/
theorem State.inRegs_of_served {s : State} {a : Nat} (h : s.served a = true) : inRegs a = true := by
  simp only [State.served, Bool.and_eq_true] at h
  obtain ⟨⟨⟨-, hin⟩, -⟩, -⟩ := h
  exact hin

/-- A write that is not admitted, to any register but EXPERT_KEY, is turned away. -/
theorem State.regWrite_of_not_admits {s : State} {a : Nat} (port : Nat) (w : Word) (hkey : regOff a ≠ 0x1C)
    (h : s.admits a = false) : s.regWrite port a w = s.turnedAway a := by
  rw [State.regWrite, if_neg hkey, State.gated_of_not_admits h]

/-- A write that a page serves, with no STEP waiting before or after it: the response says that it was served. -/
theorem exec_registerWrite_of_served {s r : State} {port a : Nat} (w : Word) (halign : a % 4 = 0) (hserved : s.regServed port a = true)
    (hwrite : s.regWrite port a w = r) (hsteps : r.sprEnv.steps = []) :
    exec (.registerWrite port a 4 w) s = .next (r.respond {}) := by
  have hin : inRegs a = true := State.inRegs_of_served (State.served_of_regServed hserved)
  have hdrain : (r.respond {}).drainSteps = r.respond {} := State.drainSteps_of_nil hsteps
  have hfabric : s.fabricWrite port a 4 w = r.respond {} := by
    simp [State.fabricWrite, State.regStore_of_served w halign hserved, hwrite, hdrain]
  exact congrArg Host.Outcome.next ((if_pos hin).trans hfabric)

/-- R7: a write to an expert register of a locked page is not admitted. -/
theorem State.admits_eq_false_of_locked {s : State} {a : Nat} (hoff : 0x100 ≤ regOff a) (hlock : s.unlocked a = false) : s.admits a = false := by
  simp [State.admits, hlock, Nat.not_lt.mpr hoff]

/-- An expert register is no header register of its page. -/
theorem pageOf_add_ne_of_expert {a k : Nat} (hoff : 0x100 ≤ regOff a) (hk : k < 0x100) : pageOf a + k ≠ a := by
  unfold regOff at hoff
  unfold pageOf
  omega

/-- Settles O53: the locked page turns the write away, and what LOCKED_WRITE changes is INT_STAT, which is no expert register. -/
theorem lockedPageIgnoresExpertWrite : Obligations.LockedPageIgnoresExpertWrite := by
  intro port a w s hoff hlisted halign hserved hfuse hsoft hlock hsteps
  have hkey : regOff a ≠ 0x1C := by omega
  have haway : s.turnedAway a = s.wr ⟨pageOf a + 0x10, 31, 1⟩ 1 :=
    State.turnedAway_of_locked (State.served_of_regServed hserved) hfuse hsoft hlisted
  have hwrite : s.regWrite port a w = s.wr ⟨pageOf a + 0x10, 31, 1⟩ 1 :=
    (State.regWrite_of_not_admits port w hkey (State.admits_eq_false_of_locked hoff hlock)).trans haway
  have hexec := exec_registerWrite_of_served w halign hserved hwrite (by rw [State.wr_sprEnv, hsteps])
  refine ⟨_, hexec, rfl, ?_, ?_, ?_, ?_⟩
  · rw [State.respond_rd]
    exact State.rd_wr_same s ⟨pageOf a + 0x10, 31, 1⟩ 1 le_rfl
  · rw [State.respond_reg, State.reg_wr_other _ _ _ _ (pageOf_add_ne_of_expert hoff (by decide))]
  · intro b hb
    rw [State.respond_reg, State.reg_wr_other _ _ _ _ (Ne.symm (List.ne_of_not_mem_cons hb))]
  · intro b
    rw [State.respond_byte, State.wr_byte]

/-! ## Soft reset of a block whose registers show an input -/

/-- The machine from reset after SHOCK_N has become active: both Towers hold the shock (R148), every actuator is OFF. -/
def shockActive : State := (execInputFilterChange 2 true State.reset).get State.reset

/-- The state is one that the machine reaches: reset, then the filtered level of SHOCK_N. -/
theorem exec_inputFilterChange_reset : exec (.inputFilterChange 2 true) State.reset = .next shockActive := rfl

/-- The soft reset of actuator A is admitted, and its STATE is OFF. -/
theorem shockActive_admits_softReset : shockActive.admits (ctlAt bSRV 0 0) = true ∧ shockActive.st bSRV 0 = stOFF := by
  decide

/-- R148 keeps SHOCK_HOLD at 1 over a soft reset while SHOCK_N is active, so SRV_MODE is not at its reset value. -/
theorem shockActive_softReset_mode :
    (shockActive.softReset bSRV 0 0).reg (SRV_MODE 0) = resetOf (SRV_MODE 0) ||| 0x800#32 := by
  decide

/-- Refutes O1: a soft reset of actuator A, OFF, while SHOCK_N is active leaves SRV_MODE.SHOCK_HOLD at 1 (R148), where the SOFT_RESET clause
wants every register of the block but PAGE_CAP at its reset value. -/
theorem not_frameworkRows : ¬ Obligations.FrameworkRows := by
  intro h
  obtain ⟨-, -, -, -, -, -, -, -, -, -, hsoft, -⟩ := h
  obtain ⟨hadm, hoff⟩ := shockActive_admits_softReset
  obtain ⟨r, hexec, hregs, -, -⟩ := hsoft bSRV 0 0 shockActive hadm (by decide) (by decide) (.inl hoff)
  have hrun : exec (.softReset bSRV 0 0) shockActive = .next (shockActive.softReset bSRV 0 0) :=
    congrArg Host.Outcome.next (if_pos hadm)
  obtain rfl : shockActive.softReset bSRV 0 0 = r := by rw [hrun] at hexec; exact Host.Outcome.next.inj hexec
  have hmode := hregs (SRV_MODE 0) (by decide) (by decide) (by decide)
  rw [shockActive_softReset_mode] at hmode
  exact absurd hmode (by decide)

end Sys2Proof.Machine
end

section
/-! PROOFS of the statements of the architecture as a whole (chapter 1): what reset leaves, the idle cycle, writes to pages disabled by fuse or
waiting for a soft reset (R28, R36), the canonical form, that every command answers, and the frame on memory. -/

namespace Sys2Proof.Machine

/-! ## Reset -/

/-- Nothing is listed at reset, so every register reads the reset value of its table. -/
theorem State.reset_reg (a : Nat) : State.reset.reg a = resetOf a := rfl

/-- Settles O46: the registers and the states of the blocks are evaluated on the reset state, which lists nothing. -/
theorem resetLeavesTableValues : Obligations.ResetLeavesTableValues :=
  ⟨State.reset_reg, by decide, by decide, by decide, by decide, by decide, by decide, by decide, by decide, rfl, rfl, rfl, rfl⟩

/-- Settles O47: both lists are empty. -/
theorem resetIsCanonical : Obligations.ResetIsCanonical :=
  ⟨rfl, rfl, rfl⟩

/-! ## A step -/

/-- With no command waiting a step is one fabric cycle. -/
theorem step_of_nil {s : State} (h : s.pending = []) : step s = .next s.tick := by
  rw [step, h]

/-- A step takes the front command and runs it with the rest of the queue. -/
theorem step_of_cons {s : State} {c : Instr} {rest : List Instr} (h : s.pending = c :: rest) :
    step s = exec c { s with pending := rest } := by
  rw [step, h]

/-! ## One idle cycle -/

/-- The time and the STEP commands that wait are as before. -/
def SameTime (s r : State) : Prop := r.fwk = s.fwk ∧ r.sprEnv = s.sprEnv

theorem SameTime.refl (s : State) : SameTime s s := ⟨rfl, rfl⟩

theorem SameTime.trans {s r q : State} (h : SameTime s r) (h' : SameTime r q) : SameTime s q :=
  ⟨h'.1.trans h.1, h'.2.trans h.2⟩

theorem State.wr_sameTime (s : State) (f : Fld) (x : Nat) : SameTime s (s.wr f x) := ⟨s.wr_fwk f x, s.wr_sprEnv f x⟩

theorem State.atbCycle_sameTime (s : State) : SameTime s s.atbCycle := by
  unfold State.atbCycle
  split
  · exact ⟨rfl, rfl⟩
  · exact ⟨rfl, rfl⟩

theorem State.srvCycle_sameTime (s : State) : SameTime s s.srvCycle := ⟨rfl, rfl⟩

theorem State.lanCycle_sameTime (s : State) : SameTime s s.lanCycle := ⟨rfl, rfl⟩

theorem State.capBits_sameTime (s : State) (t : Tower) : SameTime s (s.capBits t) :=
  (State.wr_sameTime s _ _).trans (State.wr_sameTime _ _ _)

theorem State.capSettle_sameTime (s : State) (t : Tower) : SameTime s (s.capSettle t) := by
  unfold State.capSettle
  dsimp only
  split
  · exact SameTime.refl s
  · exact State.capBits_sameTime (s.updChn t _) t

theorem State.btpDrain_sameTime (s : State) : SameTime s s.btpDrain := by
  unfold State.btpDrain
  split
  · exact State.wr_sameTime (s.updSys _) _ _
  · exact SameTime.refl s

/-- What the units do in a cycle, between the reference tick and a waiting STEP. -/
def State.unitCycles (s : State) : State := ((s.atbCycle.srvCycle.lanCycle.capSettle .A).capSettle .B).btpDrain

/-- The units leave the time and the waiting STEP commands as they are. -/
theorem State.unitCycles_sameTime (s : State) : SameTime s s.unitCycles :=
  s.atbCycle_sameTime.trans <| (State.srvCycle_sameTime _).trans <| (State.lanCycle_sameTime _).trans <|
    (State.capSettle_sameTime _ .A).trans <| (State.capSettle_sameTime _ .B).trans <| State.btpDrain_sameTime _

/-- R24: the reference tick counts mtime and no fabric cycle. -/
theorem State.refTick_time (s : State) :
    s.refTick.fwk.cycle = s.fwk.cycle
      ∧ s.refTick.fwk.mtime = (if s.fwk.cycle % 40 = 0 then (s.fwk.mtime + 1) % 2 ^ 64 else s.fwk.mtime)
      ∧ s.refTick.sprEnv = s.sprEnv := by
  unfold State.refTick
  split
  · exact ⟨rfl, rfl, rfl⟩
  · exact ⟨rfl, rfl, rfl⟩

/-- With no STEP waiting none is performed at the end of the cycle. -/
theorem State.stepTick_of_nil {s : State} (h : s.sprEnv.steps = []) : s.stepTick = s := by
  rw [State.stepTick, h, List.isEmpty_nil, if_pos rfl]

/-- R508, R516, R554: a chip that is held does not move. -/
theorem State.tick_of_halted {s : State} (h : s.halted = true) : s.tick = s := by
  rw [State.tick, if_pos h]

/-- The state with its cycle counter advanced. -/
def State.nextCycle (s : State) : State := s.updFwk (fun y => { y with cycle := y.cycle + 1 })

/-- A cycle of a chip that is not held: the counter, the reference, the units, a waiting STEP. -/
theorem State.tick_of_not_halted {s : State} (h : s.halted = false) : s.tick = s.nextCycle.refTick.unitCycles.stepTick := by
  rw [State.tick, h]
  rfl

/-- With no STEP waiting a cycle of a chip that is not held takes exactly the time of one cycle. -/
theorem State.tick_time {s : State} (hrun : s.halted = false) (hsteps : s.sprEnv.steps = []) :
    s.tick.fwk.cycle = s.fwk.cycle + 1
      ∧ s.tick.fwk.mtime = if (s.fwk.cycle + 1) % 40 = 0 then (s.fwk.mtime + 1) % 2 ^ 64 else s.fwk.mtime := by
  obtain ⟨hcycle, hmtime, href⟩ := s.nextCycle.refTick_time
  obtain ⟨hfwk, hunits⟩ := s.nextCycle.refTick.unitCycles_sameTime
  have hnil : s.nextCycle.refTick.unitCycles.sprEnv.steps = [] := by rw [hunits, href]; exact hsteps
  rw [State.tick_of_not_halted hrun, State.stepTick_of_nil hnil, hfwk]
  exact ⟨hcycle, hmtime⟩

/-- Settles O45: only the cycle counter and the reference tick move the time; what the units do in the cycle leaves it. -/
theorem idleStepIsOneCycle : Obligations.IdleStepIsOneCycle :=
  fun _ hnil => ⟨step_of_nil hnil, State.tick_of_halted, State.tick_time⟩

/-! ## Pages disabled by fuse and soft resets that wait (R28, R36) -/

/-- A write to a page that is disabled by fuse (R28) or whose block waits for its soft reset (R36), to any register but EXPERT_KEY, changes
nothing but the response. -/
theorem exec_registerWrite_of_ignored {s : State} {port a : Nat} (w : Word) (halign : a % 4 = 0) (hserved : s.regServed port a = true)
    (hkey : ¬ regOff a = 0x1C) (hsteps : s.sprEnv.steps = []) (hshut : s.fuseDis a = true ∨ s.softWaiting a = true) :
    Answers (.registerWrite port a 4 w) s (fun r => r = { s with resp := some {} }) := by
  have hadm : s.admits a = false := by rcases hshut with h | h <;> simp [State.admits, h]
  have haway : s.turnedAway a = s := by rcases hshut with h | h <;> simp [State.turnedAway, h]
  have hwrite : s.regWrite port a w = s := (State.regWrite_of_not_admits port w hkey hadm).trans haway
  exact ⟨_, exec_registerWrite_of_served w halign hserved hwrite hsteps, rfl⟩

/-- Settles O55: a page of a block whose soft reset waits admits no write, and sets no LOCKED_WRITE. -/
theorem waitingSoftReset : Obligations.WaitingSoftReset :=
  fun _ _ w _ halign hserved hsoft hsteps hkey =>
    exec_registerWrite_of_ignored w halign hserved hkey hsteps (.inr hsoft)

/-- The bytes of a number spell it, up to their width. -/
theorem leNat_leBytes (n x : Nat) : leNat (leBytes n x) = x % 256 ^ n := by
  induction n generalizing x with
  | zero => simp [leBytes, leNat, Nat.mod_one]
  | succ n ih =>
    rw [leBytes, leNat, ih, BitVec.toNat_ofNat, pow_succ' 256 n, Nat.mod_mul]

/-- A register word comes back from the bytes of a response. -/
theorem wd_leNat_leBytes (v : Word) : wd (leNat (leBytes 4 v.toNat)) = v := by
  have hlt : v.toNat < 256 ^ 4 := v.isLt
  rw [leNat_leBytes, wd, Nat.mod_eq_of_lt hlt, BitVec.ofNat_toNat, BitVec.setWidth_eq]

/-- A chip that is held answers nothing. -/
theorem State.halted_eq_false_of_served {s : State} {a : Nat} (h : s.served a = true) : s.halted = false := by
  simp only [State.served, Bool.and_eq_true, Bool.not_eq_true'] at h
  obtain ⟨⟨⟨hrun, -⟩, -⟩, -⟩ := h
  exact hrun

/-- R22: a read of an aligned word of a page that answers returns what the register shows. -/
theorem State.busWord_of_served {s : State} {port a : Nat} (halign : a % 4 = 0) (hserved : s.regServed port a = true) :
    (s.busWord port a).2.1 = s.regView a := by
  have hserved' : s.served a = true := State.served_of_regServed hserved
  have hin : inRegs a = true := State.inRegs_of_served hserved'
  have hrun : s.halted = false := State.halted_eq_false_of_served hserved'
  have hlow : 0x20000000 ≤ a := by
    simp only [inRegs, Bool.and_eq_true, decide_eq_true_eq] at hin
    omega
  have hread : s.busRead port a 4 = (s.readEffect a, { data := leBytes 4 (s.regView a).toNat }) := by
    have hrom : within a 4 0 0x10000 = false := by simp [within]; omega
    have hnor : within a 4 norBase 0x01810800 = false := by simp [within]; omega
    have hcb : within a 4 0x10000000 0x11000000 = false := by simp [within]; omega
    simp [State.busRead, State.regRead, hrun, hrom, hnor, hcb, hin, halign, hserved]
  rw [State.busWord, hread]
  exact wd_leNat_leBytes _

/-- R28: the STAT of a page disabled by fuse reads STATE OFF. -/
theorem State.regView_stat_of_fuseDis {s : State} {a : Nat} (hstat : regOff a = 0x0C) (hfuse : s.fuseDis a = true) :
    fieldOf (s.regView a) 0 3 = stOFF := by
  have hview : s.regView a = withField (s.reg (pageBase (regBlk a) (regInst a) 0 + 0x0C)) 0 3 stOFF := by
    simp [State.regView, State.hdrView, hstat, hfuse]
  rw [hview]
  exact fieldOf_withField_same _ 0 3 stOFF (by decide)

/-- Settles O54: a page disabled by fuse admits no write, and its STAT shows OFF in the place of STATE. -/
theorem fuseDisabledPage : Obligations.FuseDisabledPage := by
  intro port a w s halign hserved hfuse hsteps
  refine ⟨fun hkey => exec_registerWrite_of_ignored w halign hserved hkey hsteps (.inl hfuse), fun hstat => ?_⟩
  rw [State.busWord_of_served halign hserved]
  exact State.regView_stat_of_fuseDis hstat hfuse

/-! ## The canonical form -/

/-- Every command keeps the canonical form and the queue: for each, the law of its own meaning. Three arms name their operands, since a
meaning that ignores one of them does not give it back. -/
theorem exec_keeps {q : List Instr} {s : State} (h : Kept q s) : ∀ c : Instr, Out.Kept q (exec c s)
  | .registerWrite .. => execRegisterWrite_keeps (h_s := h) ..
  | .expertKeyWrite .. => execExpertKeyWrite_keeps (h_s := h) ..
  | .intForceWrite .. => execIntForceWrite_keeps (h_s := h) ..
  | .enableWrite .. => execEnableWrite_keeps (h_s := h) ..
  | .disableWrite .. => execDisableWrite_keeps (h_s := h) ..
  | .softReset .. => execSoftReset_keeps (h_s := h) ..
  | .startComplete .. => execStartComplete_keeps (h_s := h) ..
  | .shutdownComplete .. => execShutdownComplete_keeps (h_s := h) ..
  | .restartCycleEnd .. => execRestartCycleEnd_keeps (h_s := h) ..
  | .mbxDoorbellSet .. => execMbxDoorbellSet_keeps (h_s := h) ..
  | .servoWedge .. => execServoWedge_keeps (h_s := h) ..
  | .obsPhaseMeasure .. => execObsPhaseMeasure_keeps (h_s := h) ..
  | .wedgeBoundary .. => execWedgeBoundary_keeps (h_s := h) ..
  | .servoWindowOpen .. => execServoWindowOpen_keeps (h_s := h) ..
  | .servoWindowClose .. => execServoWindowClose_keeps (h_s := h) ..
  | .positionTick .. => execPositionTick_keeps (h_s := h) ..
  | .currentSubtick .. => execCurrentSubtick_keeps (h_s := h) ..
  | .comparatorArm .. => execComparatorArm_keeps (h_s := h) ..
  | .comparatorDisarm .. => execComparatorDisarm_keeps (h_s := h) ..
  | .comparatorFire .. => execComparatorFire_keeps (h_s := h) ..
  | .cmpTestFlush .. => execCmpTestFlush_keeps (h_s := h) ..
  | .atbSkewWrite .. => execAtbSkewWrite_keeps (h_s := h) ..
  | .atbObsOffsetWrite .. => execAtbObsOffsetWrite_keeps (h_s := h) ..
  | .switchingDecision .. => execSwitchingDecision_keeps (h_s := h) ..
  | .currentConversion .. => execCurrentConversion_keeps (h_s := h) ..
  | .bemfCrossing .. => execBemfCrossing_keeps (h_s := h) ..
  | .recapTimeout => execRecapTimeout_keeps (h_s := h) ..
  | .electricalRev .. => execElectricalRev_keeps (h_s := h) ..
  | .syncInPulse .. => execSyncInPulse_keeps (h_s := h) ..
  | .syncPulseTimeout => execSyncPulseTimeout_keeps (h_s := h) ..
  | .markerMeasureDone => execMarkerMeasureDone_keeps (h_s := h) ..
  | .listenEnd => execListenEnd_keeps (h_s := h) ..
  | .brakeRevEnd => execBrakeRevEnd_keeps (h_s := h) ..
  | .ipsAttemptDone .. => execIpsAttemptDone_keeps (h_s := h) ..
  | .alignDone => execAlignDone_keeps (h_s := h) ..
  | .rampTimeout => execRampTimeout_keeps (h_s := h) ..
  | .brakeStopDone => execBrakeStopDone_keeps (h_s := h) ..
  | .faultStopParked => execFaultStopParked_keeps (h_s := h) ..
  | .spnCfgWrite .. => execSpnCfgWrite_keeps (h_s := h) ..
  | .spnGateForceWrite .. => execSpnGateForceWrite_keeps (h_s := h) ..
  | .engineTick .. => execEngineTick_keeps (h_s := h) ..
  | .slotEvaluation .. => execSlotEvaluation_keeps (h_s := h) ..
  | .profGo .. => execProfGo_keeps (h_s := h) ..
  | .profPWrite .. => execProfPWrite_keeps (h_s := h) ..
  | .engSwap .. => execEngSwap_keeps (h_s := h) ..
  | .faultClr .. => execFaultClr_keeps (h_s := h) ..
  | .engCntClr .. => execEngCntClr_keeps (h_s := h) ..
  | .slotEnWrite .. => execSlotEnWrite_keeps (h_s := h) ..
  | .slotCfgWrite .. => execSlotCfgWrite_keeps (h_s := h) ..
  | .coefWrite .. => execCoefWrite_keeps (h_s := h) ..
  | .traceArm .. => execTraceArm_keeps (h_s := h) ..
  | .traceForce .. => execTraceForce_keeps (h_s := h) ..
  | .demodResult .. => execDemodResult_keeps (h_s := h) ..
  | .load .. => execLoad_keeps (h_s := h) ..
  | .unload .. => execUnload_keeps (h_s := h) ..
  | .retract .. => execRetract_keeps (h_s := h) ..
  | .srvHeadWrite .. => execSrvHeadWrite_keeps (h_s := h) ..
  | .srvTrackWrite .. => execSrvTrackWrite_keeps (h_s := h) ..
  | .srvOffsetWrite .. => execSrvOffsetWrite_keeps (h_s := h) ..
  | .generatorTick .. => execGeneratorTick_keeps (h_s := h) ..
  | .genMoveEnd .. => execGenMoveEnd_keeps (h_s := h) ..
  | .genHoldEnd .. => execGenHoldEnd_keeps (h_s := h) ..
  | .loadTimeout .. => execLoadTimeout_keeps (h_s := h) ..
  | .shockConversion .. => execShockConversion_keeps (h_s := h) ..
  | .headRemoved .. => execHeadRemoved_keeps (h_s := h) ..
  | .frontDetectorDone .. => execFrontDetectorDone_keeps (h_s := h) ..
  | .detectorPassDone .. => execDetectorPassDone_keeps (h_s := h) ..
  | .localIterationDone .. => execLocalIterationDone_keeps (h_s := h) ..
  | .crcCheckDone .. => execCrcCheckDone_keeps (h_s := h) ..
  | .chnRpPush .. => execChnRpPush_keeps (h_s := h) ..
  | .replayStart .. => execReplayStart_keeps (h_s := h) ..
  | .rbPin .. => execRbPin_keeps (h_s := h) ..
  | .rbUnpin .. => execRbUnpin_keeps (h_s := h) ..
  | .chnCoefWrite .. => execChnCoefWrite_keeps (h_s := h) ..
  | .eqAdaptUpdate .. => execEqAdaptUpdate_keeps (h_s := h) ..
  | .chnCntClr .. => execChnCntClr_keeps (h_s := h) ..
  | .sectorWriteStart .. => execSectorWriteStart_keeps (h_s := h) ..
  | .sectorWriteEnd .. => execSectorWriteEnd_keeps (h_s := h) ..
  | .cplFrameSend .. => execCplFrameSend_keeps (h_s := h) ..
  | .keepalive .. => execKeepalive_keeps (h_s := h) ..
  | .cplAck .. => execCplAck_keeps (h_s := h) ..
  | .cplNak .. => execCplNak_keeps (h_s := h) ..
  | .readData t seq addr data => execReadData_keeps t seq addr data s h
  | .telemetry .. => execTelemetry_keeps (h_s := h) ..
  | .cplFaultFrame .. => execCplFaultFrame_keeps (h_s := h) ..
  | .cplBadFrame .. => execCplBadFrame_keeps (h_s := h) ..
  | .cplAnswerTimeout .. => execCplAnswerTimeout_keeps (h_s := h) ..
  | .cplResetRelease .. => execCplResetRelease_keeps (h_s := h) ..
  | .cplVersionRead .. => execCplVersionRead_keeps (h_s := h) ..
  | .cplRegGo .. => execCplRegGo_keeps (h_s := h) ..
  | .telemetryStrobe .. => execTelemetryStrobe_keeps (h_s := h) ..
  | .lanBiasRampStep .. => execLanBiasRampStep_keeps (h_s := h) ..
  | .holdoffEnd .. => execHoldoffEnd_keeps (h_s := h) ..
  | .ptabWrite .. => execPtabWrite_keeps (h_s := h) ..
  | .ladderAttempt .. => execLadderAttempt_keeps (h_s := h) ..
  | .ladderEnd .. => execLadderEnd_keeps (h_s := h) ..
  | .alu .. => execAlu_keeps (h_s := h) ..
  | .alui .. => execAlui_keeps (h_s := h) ..
  | .ldi .. => execLdi_keeps (h_s := h) ..
  | .lui .. => execLui_keeps (h_s := h) ..
  | .br .. => execBr_keeps (h_s := h) ..
  | .cbr .. => execCbr_keeps (h_s := h) ..
  | .call .. => execCall_keeps (h_s := h) ..
  | .nop .. => execNop_keeps (h_s := h) ..
  | .ret .. => execRet_keeps (h_s := h) ..
  | .halt .. => execHalt_keeps (h_s := h) ..
  | .fence .. => execFence_keeps (h_s := h) ..
  | .ld .. => execLd_keeps (h_s := h) ..
  | .st .. => execSt_keeps (h_s := h) ..
  | .getang .. => execGetang_keeps (h_s := h) ..
  | .arm .. => execArm_keeps (h_s := h) ..
  | .waitc .. => execWaitc_keeps (h_s := h) ..
  | .disarm .. => execDisarm_keeps (h_s := h) ..
  | .loadz .. => execLoadz_keeps (h_s := h) ..
  | .anchor .. => execAnchor_keeps (h_s := h) ..
  | .rplan .. => execRplan_keeps (h_s := h) ..
  | .wplan .. => execWplan_keeps (h_s := h) ..
  | .wget .. => execWget_keeps (h_s := h) ..
  | .captr .. => execCaptr_keeps (h_s := h) ..
  | .outc .. => execOutc_keeps (h_s := h) ..
  | .emitr .. => execEmitr_keeps (h_s := h) ..
  | .syncp .. => execSyncp_keeps (h_s := h) ..
  | .bandMoverPush .. => execBandMoverPush_keeps (h_s := h) ..
  | .hinit .. => execHinit_keeps (h_s := h) ..
  | .hupd .. => execHupd_keeps (h_s := h) ..
  | .hfin .. => execHfin_keeps (h_s := h) ..
  | .gfacc .. => execGfacc_keeps (h_s := h) ..
  | .gfsolve .. => execGfsolve_keeps (h_s := h) ..
  | .integrityOpDone .. => execIntegrityOpDone_keeps (h_s := h) ..
  | .rxnext .. => execRxnext_keeps (h_s := h) ..
  | .sess .. => execSess_keeps (h_s := h) ..
  | .openOp .. => execOpen_keeps (h_s := h) ..
  | .seal .. => execSeal_keeps (h_s := h) ..
  | .rwin .. => execRwin_keeps (h_s := h) ..
  | .rmark .. => execRmark_keeps (h_s := h) ..
  | .txq .. => execTxq_keeps (h_s := h) ..
  | .timer .. => execTimer_keeps (h_s := h) ..
  | .pop .. => execPop_keeps (h_s := h) ..
  | .post .. => execPost_keeps (h_s := h) ..
  | .waitSatisfied .. => execWaitSatisfied_keeps (h_s := h) ..
  | .sprStart .. => execSprStart_keeps (h_s := h) ..
  | .sprHalt .. => execSprHalt_keeps (h_s := h) ..
  | .sprStep .. => execSprStep_keeps (h_s := h) ..
  | .sprMcForce .. => execSprMcForce_keeps (h_s := h) ..
  | .sprCsWrite .. => execSprCsWrite_keeps (h_s := h) ..
  | .sprQpush .. => execSprQpush_keeps (h_s := h) ..
  | .mqPush .. => execMqPush_keeps (h_s := h) ..
  | .readRun .. => execReadRun_keeps (h_s := h) ..
  | .writeRun .. => execWriteRun_keeps (h_s := h) ..
  | .seek .. => execSeek_keeps (h_s := h) ..
  | .headSwitch .. => execHeadSwitch_keeps (h_s := h) ..
  | .angleEvent .. => execAngleEvent_keeps (h_s := h) ..
  | .moveRun .. => execMoveRun_keeps (h_s := h) ..
  | .tailScan .. => execTailScan_keeps (h_s := h) ..
  | .hash .. => execHash_keeps (h_s := h) ..
  | .parityAcc .. => execParityAcc_keeps (h_s := h) ..
  | .parityOut .. => execParityOut_keeps (h_s := h) ..
  | .rebuild .. => execRebuild_keeps (h_s := h) ..
  | .ethFrameRx .. => execEthFrameRx_keeps (h_s := h) ..
  | .linkUp .. => execLinkUp_keeps (h_s := h) ..
  | .linkDown .. => execLinkDown_keeps (h_s := h) ..
  | .arpRequest .. => execArpRequest_keeps (h_s := h) ..
  | .neighbourSolicitation .. => execNeighbourSolicitation_keeps (h_s := h) ..
  | .echoRequest .. => execEchoRequest_keeps (h_s := h) ..
  | .fwtxSend => execFwtxSend_keeps (h_s := h) ..
  | .hello .. => execHello_keeps (h_s := h) ..
  | .auth .. => execAuth_keeps (h_s := h) ..
  | .cmd .. => execCmd_keeps (h_s := h) ..
  | .data .. => execData_keeps (h_s := h) ..
  | .ack rx hd body tag => execAck_keeps rx hd body tag s h
  | .rekey .. => execRekey_keeps (h_s := h) ..
  | .reset .. => execReset_keeps (h_s := h) ..
  | .close .. => execClose_keeps (h_s := h) ..
  | .hsTimeout .. => execHsTimeout_keeps (h_s := h) ..
  | .idleTimeout .. => execIdleTimeout_keeps (h_s := h) ..
  | .retransmitTimer .. => execRetransmitTimer_keeps (h_s := h) ..
  | .ackDelayTimer .. => execAckDelayTimer_keeps (h_s := h) ..
  | .closingTimeout .. => execClosingTimeout_keeps (h_s := h) ..
  | .cookieKeyRotation => execCookieKeyRotation_keeps (h_s := h) ..
  | .aotSessOpen .. => execAotSessOpen_keeps (h_s := h) ..
  | .aotSessClose .. => execAotSessClose_keeps (h_s := h) ..
  | .aotShutdownTimeout => execAotShutdownTimeout_keeps (h_s := h) ..
  | .ethCntClr .. => execEthCntClr_keeps (h_s := h) ..
  | .aotCntClr .. => execAotCntClr_keeps (h_s := h) ..
  | .put .. => execPut_keeps (h_s := h) ..
  | .putAcknowledged .. => execPutAcknowledged_keeps (h_s := h) ..
  | .putDurable .. => execPutDurable_keeps (h_s := h) ..
  | .get .. => execGet_keeps (h_s := h) ..
  | .stat .. => execStat_keeps (h_s := h) ..
  | .delete .. => execDelete_keeps (h_s := h) ..
  | .list .. => execList_keeps (h_s := h) ..
  | .setRetention .. => execSetRetention_keeps (h_s := h) ..
  | .legalHold .. => execLegalHold_keeps (h_s := h) ..
  | .flush .. => execFlush_keeps (h_s := h) ..
  | .audit .. => execAudit_keeps (h_s := h) ..
  | .exportManifest .. => execExportManifest_keeps (h_s := h) ..
  | .rawInfo .. => execRawInfo_keeps (h_s := h) ..
  | .rawRead .. => execRawRead_keeps (h_s := h) ..
  | .rawWrite .. => execRawWrite_keeps (h_s := h) ..
  | .getLog .. => execGetLog_keeps (h_s := h) ..
  | .fwDownload .. => execFwDownload_keeps (h_s := h) ..
  | .fwActivate .. => execFwActivate_keeps (h_s := h) ..
  | .activationDrainTimeout => execActivationDrainTimeout_keeps (h_s := h) ..
  | .setPower .. => execSetPower_keeps (h_s := h) ..
  | .identify .. => execIdentify_keeps (h_s := h) ..
  | .abort .. => execAbort_keeps (h_s := h) ..
  | .towerFailed .. => execTowerFailed_keeps (h_s := h) ..
  | .powerLossRestart => execPowerLossRestart_keeps (h_s := h) ..
  | .vaultCreate .. => execVaultCreate_keeps (h_s := h) ..
  | .vaultUnlock .. => execVaultUnlock_keeps (h_s := h) ..
  | .vaultLock .. => execVaultLock_keeps (h_s := h) ..
  | .vaultInfo .. => execVaultInfo_keeps (h_s := h) ..
  | .vaultErase .. => execVaultErase_keeps (h_s := h) ..
  | .vaultSetMin .. => execVaultSetMin_keeps (h_s := h) ..
  | .timeQuery .. => execTimeQuery_keeps (h_s := h) ..
  | .timeToken .. => execTimeToken_keeps (h_s := h) ..
  | .anchorSet .. => execAnchorSet_keeps (h_s := h) ..
  | .selfTest .. => execSelfTest_keeps (h_s := h) ..
  | .zeroise .. => execZeroise_keeps (h_s := h) ..
  | .entropyHealthFail => execEntropyHealthFail_keeps (h_s := h) ..
  | .clockTick => execClockTick_keeps (h_s := h) ..
  | .clockRecordTimer => execClockRecordTimer_keeps (h_s := h) ..
  | .clockRecordDone => execClockRecordDone_keeps (h_s := h) ..
  | .recNow .. => execRecNow_keeps (h_s := h) ..
  | .stRun .. => execStRun_keeps (h_s := h) ..
  | .keyLoad .. => execKeyLoad_keeps (h_s := h) ..
  | .keyClear .. => execKeyClear_keeps (h_s := h) ..
  | .keyClearAll .. => execKeyClearAll_keeps (h_s := h) ..
  | .keyBusDone => execKeyBusDone_keeps (h_s := h) ..
  | .ddrRead .. => execDdrRead_keeps (h_s := h) ..
  | .ddrWrite .. => execDdrWrite_keeps (h_s := h) ..
  | .memInit .. => execMemInit_keeps (h_s := h) ..
  | .memInitDone => execMemInitDone_keeps (h_s := h) ..
  | .memCntClr .. => execMemCntClr_keeps (h_s := h) ..
  | .trainingDone .. => execTrainingDone_keeps (h_s := h) ..
  | .scrubRead => execScrubRead_keeps (h_s := h) ..
  | .memLogPop .. => execMemLogPop_keeps (h_s := h) ..
  | .eccFlipArm .. => execEccFlipArm_keeps (h_s := h) ..
  | .cupolaRead .. => execCupolaRead_keeps (h_s := h) ..
  | .cupolaStore .. => execCupolaStore_keeps (h_s := h) ..
  | .cupolaFillDone .. => execCupolaFillDone_keeps (h_s := h) ..
  | .prefetchFill .. => execPrefetchFill_keeps (h_s := h) ..
  | .scratchpadAccess .. => execScratchpadAccess_keeps (h_s := h) ..
  | .invLine .. => execInvLine_keeps (h_s := h) ..
  | .invRange .. => execInvRange_keeps (h_s := h) ..
  | .invAll .. => execInvAll_keeps (h_s := h) ..
  | .invWays .. => execInvWays_keeps (h_s := h) ..
  | .maintDone => execMaintDone_keeps (h_s := h) ..
  | .cupSpadWrite .. => execCupSpadWrite_keeps (h_s := h) ..
  | .spadWalkDone => execSpadWalkDone_keeps (h_s := h) ..
  | .cupCntClr .. => execCupCntClr_keeps (h_s := h) ..
  | .dmaChEnable .. => execDmaChEnable_keeps (h_s := h) ..
  | .dmaChDisable .. => execDmaChDisable_keeps (h_s := h) ..
  | .descFetched .. => execDescFetched_keeps (h_s := h) ..
  | .dmaBurstIssue => execDmaBurstIssue_keeps (h_s := h) ..
  | .dmaReadDone .. => execDmaReadDone_keeps (h_s := h) ..
  | .dmaWriteDone .. => execDmaWriteDone_keeps (h_s := h) ..
  | .dmaWritebackDone .. => execDmaWritebackDone_keeps (h_s := h) ..
  | .descRereadDone .. => execDescRereadDone_keeps (h_s := h) ..
  | .dmaChDb .. => execDmaChDb_keeps (h_s := h) ..
  | .dmaRequestPulse .. => execDmaRequestPulse_keeps (h_s := h) ..
  | .quiesceAck => execQuiesceAck_keeps (h_s := h) ..
  | .quiesceTimeout => execQuiesceTimeout_keeps (h_s := h) ..
  | .flashCommandCycle .. => execFlashCommandCycle_keeps (h_s := h) ..
  | .wordProgram .. => execWordProgram_keeps (h_s := h) ..
  | .bufferProgram .. => execBufferProgram_keeps (h_s := h) ..
  | .sectorErase .. => execSectorErase_keeps (h_s := h) ..
  | .eraseSuspend => execEraseSuspend_keeps (h_s := h) ..
  | .eraseResume .. => execEraseResume_keeps (h_s := h) ..
  | .flashReset => execFlashReset_keeps (h_s := h) ..
  | .passwordCheck .. => execPasswordCheck_keeps (h_s := h) ..
  | .passwordSet .. => execPasswordSet_keeps (h_s := h) ..
  | .passwordClose => execPasswordClose_keeps (h_s := h) ..
  | .ppbSet .. => execPpbSet_keeps (h_s := h) ..
  | .ppbClearAll .. => execPpbClearAll_keeps (h_s := h) ..
  | .programDone .. => execProgramDone_keeps (h_s := h) ..
  | .metadataWriteDone => execMetadataWriteDone_keeps (h_s := h) ..
  | .erasePulseDone .. => execErasePulseDone_keeps (h_s := h) ..
  | .suspendDone => execSuspendDone_keeps (h_s := h) ..
  | .flashRead .. => execFlashRead_keeps (h_s := h) ..
  | .marginScrubRead .. => execMarginScrubRead_keeps (h_s := h) ..
  | .flsBootWpWrite .. => execFlsBootWpWrite_keeps (h_s := h) ..
  | .flsCntClr .. => execFlsCntClr_keeps (h_s := h) ..
  | .mscrubFailClear val => execMscrubFailClear_keeps val s h
  | .avsRequest .. => execAvsRequest_keeps (h_s := h) ..
  | .avsSettleDone .. => execAvsSettleDone_keeps (h_s := h) ..
  | .cpuMultWrite .. => execCpuMultWrite_keeps (h_s := h) ..
  | .cpuPllLocked => execCpuPllLocked_keeps (h_s := h) ..
  | .clockLoss => execClockLoss_keeps (h_s := h) ..
  | .domainPowerDown .. => execDomainPowerDown_keeps (h_s := h) ..
  | .domainPowerUp .. => execDomainPowerUp_keeps (h_s := h) ..
  | .domainRelease => execDomainRelease_keeps (h_s := h) ..
  | .activityTouch .. => execActivityTouch_keeps (h_s := h) ..
  | .idleTimerExpiry .. => execIdleTimerExpiry_keeps (h_s := h) ..
  | .holdupBegin => execHoldupBegin_keeps (h_s := h) ..
  | .holdupDone .. => execHoldupDone_keeps (h_s := h) ..
  | .belfrySlotEnd .. => execBelfrySlotEnd_keeps (h_s := h) ..
  | .shutDelayExpiry => execShutDelayExpiry_keeps (h_s := h) ..
  | .shutClr .. => execShutClr_keeps (h_s := h) ..
  | .thermalTrip => execThermalTrip_keeps (h_s := h) ..
  | .thermalTripReset => execThermalTripReset_keeps (h_s := h) ..
  | .thermalResetRelease => execThermalResetRelease_keeps (h_s := h) ..
  | .inputFilterChange .. => execInputFilterChange_keeps (h_s := h) ..
  | .inputRearm .. => execInputRearm_keeps (h_s := h) ..
  | .inputStuck .. => execInputStuck_keeps (h_s := h) ..
  | .powerOnReset .. => execPowerOnReset_keeps (h_s := h) ..
  | .hart12Start .. => execHart12Start_keeps (h_s := h) ..
  | .swNow .. => execSwNow_keeps (h_s := h) ..
  | .swDefer .. => execSwDefer_keeps (h_s := h) ..
  | .deferTimeout => execDeferTimeout_keeps (h_s := h) ..
  | .watchdogExpiry => execWatchdogExpiry_keeps (h_s := h) ..
  | .wdtKick .. => execWdtKick_keeps (h_s := h) ..
  | .hartRun .. => execHartRun_keeps (h_s := h) ..
  | .listenerTimeout => execListenerTimeout_keeps (h_s := h) ..
  | .idOp .. => execId_keeps (h_s := h) ..
  | .genkey .. => execGenkey_keeps (h_s := h) ..
  | .putcert .. => execPutcert_keeps (h_s := h) ..
  | .putanchor .. => execPutanchor_keeps (h_s := h) ..
  | .putident .. => execPutident_keeps (h_s := h) ..
  | .putkey1 .. => execPutkey1_keeps (h_s := h) ..
  | .commit .. => execCommit_keeps (h_s := h) ..
  | .loadimg .. => execLoadimg_keeps (h_s := h) ..
  | .bistGo .. => execBistGo_keeps (h_s := h) ..
  | .bistDone .. => execBistDone_keeps (h_s := h) ..
  | .extest .. => execExtest_keeps (h_s := h) ..
  | .samplePreload .. => execSamplePreload_keeps (h_s := h) ..
  | .idcode => execIdcode_keeps (h_s := h) ..
  | .clamp => execClamp_keeps (h_s := h) ..
  | .highz => execHighz_keeps (h_s := h) ..
  | .extestPulse .. => execExtestPulse_keeps (h_s := h) ..
  | .extestTrain .. => execExtestTrain_keeps (h_s := h) ..
  | .debug => execDebug_keeps (h_s := h) ..
  | .mbist .. => execMbist_keeps (h_s := h) ..
  | .scan => execScan_keeps (h_s := h) ..
  | .bypass => execBypass_keeps (h_s := h) ..
  | .overflow => execOverflow_keeps (h_s := h) ..
  | .hwEventPost .. => execHwEventPost_keeps (h_s := h) ..
  | .evrPost .. => execEvrPost_keeps (h_s := h) ..
  | .postTaken => execPostTaken_keeps (h_s := h) ..
  | .rateTokensFull .. => execRateTokensFull_keeps (h_s := h) ..
  | .rateEntryWrite .. => execRateEntryWrite_keeps (h_s := h) ..
  | .clrFatal .. => execClrFatal_keeps (h_s := h) ..
  | .clrGen .. => execClrGen_keeps (h_s := h) ..
  | .evrCntClr .. => execEvrCntClr_keeps (h_s := h) ..
  | .readerStreamOverflow .. => execReaderStreamOverflow_keeps (h_s := h) ..
  | .inputBucketFull .. => execInputBucketFull_keeps (h_s := h) ..

/-- The next state of a meaning that keeps them is kept. -/
theorem Out.Kept.of_next {q : List Instr} {o : Out} {r : State} (h : Out.Kept q o) (ho : o = .next r) : Sys2Proof.Machine.Kept q r := by
  subst ho
  exact h

/-- Settles O48: a step is a fabric cycle or the front command on the rest of the queue, and each keeps the form and the queue it is given. -/
theorem stepKeepsCanonical : Obligations.StepKeepsCanonical := by
  intro s r hs hstep
  suffices hkept : Kept s.pending.tail r by
    obtain ⟨hregs, hmem, hqueue, hspires⟩ := hkept
    exact ⟨⟨hregs, hmem, hspires⟩, hqueue⟩
  obtain ⟨hregs, hmem, hspires⟩ := hs
  cases hq : s.pending with
  | nil =>
    rw [step_of_nil hq] at hstep
    cases hstep
    exact State.tick_keeps s ⟨hregs, hmem, hq, hspires⟩
  | cons c rest =>
    rw [step_of_cons hq] at hstep
    have hrest : Kept rest { s with pending := rest } := ⟨hregs, hmem, rfl, hspires⟩
    exact (exec_keeps hrest c).of_next hstep

/-! ## Every command answers -/

/-- The meaning answers a next state. -/
def Out.IsNext (o : Out) : Prop := ∃ r, o = .next r

theorem isNext_next (r : State) : Out.IsNext (.next r) := ⟨r, rfl⟩

/-- A condition between two meanings that answer. -/
theorem isNext_ite {c : Prop} [Decidable c] {o p : Out} (ho : o.IsNext) (hp : p.IsNext) : Out.IsNext (if c then o else p) := by
  split
  · exact ho
  · exact hp

/-- R344, R355: a command of a session that is not the one to start, has ended or is refused answers a next state as one that runs does. -/
theorem State.run_isNext (s : State) (i tag op : Nat) (f : Cmd → State → State) : Out.IsNext (s.run i tag op f) := by
  unfold State.run
  split
  · exact isNext_next _
  · refine isNext_ite (isNext_next _) (isNext_ite (isNext_next _) ?_)
    dsimp only
    split
    · exact isNext_next _
    · exact isNext_next _

/-- No command ends the run. The commands of a session go through `State.run`; of the others, some decide by conditions and some by what they
find, and every branch answers; the rest answer at once. -/
theorem exec_isNext (c : Instr) (s : State) : Out.IsNext (exec c s) := by
  cases c with
  | put | get | stat | list | delete | setRetention | legalHold | flush | audit | exportManifest | rawInfo | rawRead | rawWrite | getLog
  | fwDownload | fwActivate | setPower | identify | abort | vaultCreate | vaultUnlock | vaultLock | vaultInfo | vaultErase | vaultSetMin
  | timeQuery | timeToken | selfTest | anchorSet | zeroise =>
    dsimp only [exec, execPut, execGet, execStat, execList, execDelete, execSetRetention, execLegalHold, execFlush, execAudit, execExportManifest,
      execRawInfo, execRawRead, execRawWrite, execGetLog, execFwDownload, execFwActivate, execSetPower, execIdentify, execAbort,
      execVaultCreate, execVaultUnlock, execVaultLock, execVaultInfo, execVaultErase, execVaultSetMin, execTimeQuery, execTimeToken,
      execSelfTest, execAnchorSet, execZeroise]
    exact State.run_isNext ..
  | scrubRead | flashRead | marginScrubRead | servoWedge | wedgeBoundary | servoWindowClose | electricalRev | switchingDecision
  | currentConversion | bemfCrossing | ipsAttemptDone | syncInPulse | markerMeasureDone | engineTick | slotCfgWrite | demodResult
  | telemetry | telemetryStrobe | ladderEnd | linkUp | linkDown | arpRequest | neighbourSolicitation | echoRequest | fwtxSend
  | powerLossRestart | holdupBegin | holdupDone | belfrySlotEnd | inputFilterChange | inputRearm | inputStuck | descFetched
  | descRereadDone =>
    dsimp only [exec, execScrubRead, execFlashRead, execMarginScrubRead, execServoWedge, execWedgeBoundary, execServoWindowClose, execElectricalRev,
      execSwitchingDecision, execCurrentConversion, execBemfCrossing, execIpsAttemptDone, execSyncInPulse, execMarkerMeasureDone,
      execEngineTick, execSlotCfgWrite, execDemodResult, execTelemetry, execTelemetryStrobe, execLadderEnd, execLinkUp, execLinkDown,
      execArpRequest, execNeighbourSolicitation, execEchoRequest, execFwtxSend, execPowerLossRestart, execHoldupBegin, execHoldupDone,
      execBelfrySlotEnd, execInputFilterChange, execInputRearm, execInputStuck, execDescFetched, execDescRereadDone]
    repeat' with_reducible first | exact isNext_next _ | apply isNext_ite
  | trainingDone | scratchpadAccess | dmaBurstIssue | programDone | metadataWriteDone | erasePulseDone | slotEvaluation | generatorTick
  | genMoveEnd | genHoldEnd | frontDetectorDone | localIterationDone | crcCheckDone | replayStart | eqAdaptUpdate | readerStreamOverflow
  | sectorWriteStart | sectorWriteEnd | ethFrameRx | hello | auth | cmd | data | ack | rekey | reset | close | retransmitTimer
  | putAcknowledged | putDurable | towerFailed | clockRecordDone | keyBusDone | avsSettleDone | domainRelease | quiesceAck | quiesceTimeout
  | bistDone | dmaReadDone | dmaWriteDone | dmaWritebackDone =>
    dsimp only [exec, execTrainingDone, execScratchpadAccess, execDmaBurstIssue, execProgramDone, execMetadataWriteDone, execErasePulseDone,
      execSlotEvaluation, execGeneratorTick, execGenMoveEnd, execGenHoldEnd, execFrontDetectorDone, execLocalIterationDone,
      execCrcCheckDone, execReplayStart, execEqAdaptUpdate, execReaderStreamOverflow, execSectorWriteStart, execSectorWriteEnd,
      execEthFrameRx, execHello, execAuth, execCmd, execData, execAck, execRekey, execReset, execClose, execRetransmitTimer,
      execPutAcknowledged, execPutDurable, execTowerFailed, execClockRecordDone, execKeyBusDone, execAvsSettleDone, execDomainRelease,
      execQuiesceAck, execQuiesceTimeout, execBistDone, execDmaReadDone, execDmaWriteDone, execDmaWritebackDone]
    repeat' with_reducible first | exact isNext_next _ | apply isNext_ite | split
  | _ => exact ⟨_, rfl⟩

/-- Settles O49: a step is a fabric cycle, which answers, or the front command. -/
theorem everyCommandAnswers : Obligations.EveryCommandAnswers := by
  refine ⟨exec_isNext, fun s => ?_⟩
  cases hq : s.pending with
  | nil => exact ⟨s.tick, step_of_nil hq⟩
  | cons c rest =>
    rw [step_of_cons hq]
    exact exec_isNext c _

/-! ## The frame on memory -/

/-- A command that stores no byte leaves memory as it was: the law of its own meaning. -/
theorem exec_memIs {c : Instr} (s : State) (h : storesNothing c = true) : Out.MemIs s.mem (exec c s) := by
  cases c with
  | expertKeyWrite => exact execExpertKeyWrite_memIs (h_s := rfl) ..
  | intForceWrite => exact execIntForceWrite_memIs (h_s := rfl) ..
  | shutdownComplete => exact execShutdownComplete_memIs (h_s := rfl) ..
  | mbxDoorbellSet => exact execMbxDoorbellSet_memIs (h_s := rfl) ..
  | servoWindowOpen => exact execServoWindowOpen_memIs (h_s := rfl) ..
  | servoWindowClose => exact execServoWindowClose_memIs (h_s := rfl) ..
  | positionTick => exact execPositionTick_memIs (h_s := rfl) ..
  | currentSubtick => exact execCurrentSubtick_memIs (h_s := rfl) ..
  | cmpTestFlush => exact execCmpTestFlush_memIs (h_s := rfl) ..
  | atbSkewWrite => exact execAtbSkewWrite_memIs (h_s := rfl) ..
  | atbObsOffsetWrite => exact execAtbObsOffsetWrite_memIs (h_s := rfl) ..
  | currentConversion => exact execCurrentConversion_memIs (h_s := rfl) ..
  | bemfCrossing => exact execBemfCrossing_memIs (h_s := rfl) ..
  | recapTimeout => exact execRecapTimeout_memIs (h_s := rfl) ..
  | syncInPulse => exact execSyncInPulse_memIs (h_s := rfl) ..
  | syncPulseTimeout => exact execSyncPulseTimeout_memIs (h_s := rfl) ..
  | listenEnd => exact execListenEnd_memIs (h_s := rfl) ..
  | brakeRevEnd => exact execBrakeRevEnd_memIs (h_s := rfl) ..
  | ipsAttemptDone => exact execIpsAttemptDone_memIs (h_s := rfl) ..
  | alignDone => exact execAlignDone_memIs (h_s := rfl) ..
  | rampTimeout => exact execRampTimeout_memIs (h_s := rfl) ..
  | brakeStopDone => exact execBrakeStopDone_memIs (h_s := rfl) ..
  | faultStopParked => exact execFaultStopParked_memIs (h_s := rfl) ..
  | spnGateForceWrite => exact execSpnGateForceWrite_memIs (h_s := rfl) ..
  | profPWrite => exact execProfPWrite_memIs (h_s := rfl) ..
  | engSwap => exact execEngSwap_memIs (h_s := rfl) ..
  | faultClr => exact execFaultClr_memIs (h_s := rfl) ..
  | engCntClr => exact execEngCntClr_memIs (h_s := rfl) ..
  | slotEnWrite => exact execSlotEnWrite_memIs (h_s := rfl) ..
  | slotCfgWrite => exact execSlotCfgWrite_memIs (h_s := rfl) ..
  | coefWrite => exact execCoefWrite_memIs (h_s := rfl) ..
  | traceArm => exact execTraceArm_memIs (h_s := rfl) ..
  | traceForce => exact execTraceForce_memIs (h_s := rfl) ..
  | srvHeadWrite => exact execSrvHeadWrite_memIs (h_s := rfl) ..
  | generatorTick => exact execGeneratorTick_memIs (h_s := rfl) ..
  | genMoveEnd => exact execGenMoveEnd_memIs (h_s := rfl) ..
  | shockConversion => exact execShockConversion_memIs (h_s := rfl) ..
  | detectorPassDone => exact execDetectorPassDone_memIs (h_s := rfl) ..
  | rbPin => exact execRbPin_memIs (h_s := rfl) ..
  | rbUnpin => exact execRbUnpin_memIs (h_s := rfl) ..
  | chnCoefWrite => exact execChnCoefWrite_memIs (h_s := rfl) ..
  | eqAdaptUpdate => exact execEqAdaptUpdate_memIs (h_s := rfl) ..
  | chnCntClr => exact execChnCntClr_memIs (h_s := rfl) ..
  | sectorWriteStart => exact execSectorWriteStart_memIs (h_s := rfl) ..
  | sectorWriteEnd => exact execSectorWriteEnd_memIs (h_s := rfl) ..
  | cplNak => exact execCplNak_memIs (h_s := rfl) ..
  | telemetry => exact execTelemetry_memIs (h_s := rfl) ..
  | cplFaultFrame => exact execCplFaultFrame_memIs (h_s := rfl) ..
  | cplBadFrame => exact execCplBadFrame_memIs (h_s := rfl) ..
  | cplAnswerTimeout => exact execCplAnswerTimeout_memIs (h_s := rfl) ..
  | cplResetRelease => exact execCplResetRelease_memIs (h_s := rfl) ..
  | cplRegGo => exact execCplRegGo_memIs (h_s := rfl) ..
  | telemetryStrobe => exact execTelemetryStrobe_memIs (h_s := rfl) ..
  | lanBiasRampStep => exact execLanBiasRampStep_memIs (h_s := rfl) ..
  | holdoffEnd => exact execHoldoffEnd_memIs (h_s := rfl) ..
  | ptabWrite => exact execPtabWrite_memIs (h_s := rfl) ..
  | sprCsWrite => exact execSprCsWrite_memIs (h_s := rfl) ..
  | sprQpush => exact execSprQpush_memIs (h_s := rfl) ..
  | mqPush => exact execMqPush_memIs (h_s := rfl) ..
  | linkUp => exact execLinkUp_memIs (h_s := rfl) ..
  | linkDown => exact execLinkDown_memIs (h_s := rfl) ..
  | arpRequest => exact execArpRequest_memIs (h_s := rfl) ..
  | neighbourSolicitation => exact execNeighbourSolicitation_memIs (h_s := rfl) ..
  | echoRequest => exact execEchoRequest_memIs (h_s := rfl) ..
  | fwtxSend => exact execFwtxSend_memIs (h_s := rfl) ..
  | cmd => exact execCmd_memIs (h_s := rfl) ..
  | data => exact execData_memIs (h_s := rfl) ..
  | ack rx hd body tag => exact execAck_memIs rx hd body tag s rfl
  | rekey => exact execRekey_memIs (h_s := rfl) ..
  | reset => exact execReset_memIs (h_s := rfl) ..
  | close => exact execClose_memIs (h_s := rfl) ..
  | hsTimeout => exact execHsTimeout_memIs (h_s := rfl) ..
  | idleTimeout => exact execIdleTimeout_memIs (h_s := rfl) ..
  | retransmitTimer => exact execRetransmitTimer_memIs (h_s := rfl) ..
  | ackDelayTimer => exact execAckDelayTimer_memIs (h_s := rfl) ..
  | closingTimeout => exact execClosingTimeout_memIs (h_s := rfl) ..
  | cookieKeyRotation => exact execCookieKeyRotation_memIs (h_s := rfl) ..
  | aotSessOpen => exact execAotSessOpen_memIs (h_s := rfl) ..
  | aotSessClose => exact execAotSessClose_memIs (h_s := rfl) ..
  | aotShutdownTimeout => exact execAotShutdownTimeout_memIs (h_s := rfl) ..
  | ethCntClr => exact execEthCntClr_memIs (h_s := rfl) ..
  | aotCntClr => exact execAotCntClr_memIs (h_s := rfl) ..
  | put => exact execPut_memIs (h_s := rfl) ..
  | putAcknowledged => exact execPutAcknowledged_memIs (h_s := rfl) ..
  | putDurable => exact execPutDurable_memIs (h_s := rfl) ..
  | get => exact execGet_memIs (h_s := rfl) ..
  | stat => exact execStat_memIs (h_s := rfl) ..
  | delete => exact execDelete_memIs (h_s := rfl) ..
  | list => exact execList_memIs (h_s := rfl) ..
  | setRetention => exact execSetRetention_memIs (h_s := rfl) ..
  | legalHold => exact execLegalHold_memIs (h_s := rfl) ..
  | flush => exact execFlush_memIs (h_s := rfl) ..
  | audit => exact execAudit_memIs (h_s := rfl) ..
  | exportManifest => exact execExportManifest_memIs (h_s := rfl) ..
  | rawInfo => exact execRawInfo_memIs (h_s := rfl) ..
  | rawRead => exact execRawRead_memIs (h_s := rfl) ..
  | rawWrite => exact execRawWrite_memIs (h_s := rfl) ..
  | fwActivate => exact execFwActivate_memIs (h_s := rfl) ..
  | activationDrainTimeout => exact execActivationDrainTimeout_memIs (h_s := rfl) ..
  | setPower => exact execSetPower_memIs (h_s := rfl) ..
  | identify => exact execIdentify_memIs (h_s := rfl) ..
  | abort => exact execAbort_memIs (h_s := rfl) ..
  | towerFailed => exact execTowerFailed_memIs (h_s := rfl) ..
  | powerLossRestart => exact execPowerLossRestart_memIs (h_s := rfl) ..
  | vaultCreate => exact execVaultCreate_memIs (h_s := rfl) ..
  | vaultUnlock => exact execVaultUnlock_memIs (h_s := rfl) ..
  | vaultLock => exact execVaultLock_memIs (h_s := rfl) ..
  | vaultInfo => exact execVaultInfo_memIs (h_s := rfl) ..
  | vaultErase => exact execVaultErase_memIs (h_s := rfl) ..
  | vaultSetMin => exact execVaultSetMin_memIs (h_s := rfl) ..
  | timeQuery => exact execTimeQuery_memIs (h_s := rfl) ..
  | timeToken => exact execTimeToken_memIs (h_s := rfl) ..
  | anchorSet => exact execAnchorSet_memIs (h_s := rfl) ..
  | selfTest => exact execSelfTest_memIs (h_s := rfl) ..
  | zeroise => exact execZeroise_memIs (h_s := rfl) ..
  | entropyHealthFail => exact execEntropyHealthFail_memIs (h_s := rfl) ..
  | clockTick => exact execClockTick_memIs (h_s := rfl) ..
  | clockRecordTimer => exact execClockRecordTimer_memIs (h_s := rfl) ..
  | recNow => exact execRecNow_memIs (h_s := rfl) ..
  | stRun => exact execStRun_memIs (h_s := rfl) ..
  | keyLoad => exact execKeyLoad_memIs (h_s := rfl) ..
  | keyClear => exact execKeyClear_memIs (h_s := rfl) ..
  | keyClearAll => exact execKeyClearAll_memIs (h_s := rfl) ..
  | keyBusDone => exact execKeyBusDone_memIs (h_s := rfl) ..
  | memInit => exact execMemInit_memIs (h_s := rfl) ..
  | memCntClr => exact execMemCntClr_memIs (h_s := rfl) ..
  | memLogPop => exact execMemLogPop_memIs (h_s := rfl) ..
  | eccFlipArm => exact execEccFlipArm_memIs (h_s := rfl) ..
  | invLine => exact execInvLine_memIs (h_s := rfl) ..
  | invRange => exact execInvRange_memIs (h_s := rfl) ..
  | invAll => exact execInvAll_memIs (h_s := rfl) ..
  | invWays => exact execInvWays_memIs (h_s := rfl) ..
  | maintDone => exact execMaintDone_memIs (h_s := rfl) ..
  | cupSpadWrite => exact execCupSpadWrite_memIs (h_s := rfl) ..
  | spadWalkDone => exact execSpadWalkDone_memIs (h_s := rfl) ..
  | cupCntClr => exact execCupCntClr_memIs (h_s := rfl) ..
  | dmaBurstIssue => exact execDmaBurstIssue_memIs (h_s := rfl) ..
  | dmaWriteDone => exact execDmaWriteDone_memIs (h_s := rfl) ..
  | dmaChDb => exact execDmaChDb_memIs (h_s := rfl) ..
  | dmaRequestPulse => exact execDmaRequestPulse_memIs (h_s := rfl) ..
  | metadataWriteDone => exact execMetadataWriteDone_memIs (h_s := rfl) ..
  | erasePulseDone => exact execErasePulseDone_memIs (h_s := rfl) ..
  | suspendDone => exact execSuspendDone_memIs (h_s := rfl) ..
  | flashRead => exact execFlashRead_memIs (h_s := rfl) ..
  | marginScrubRead => exact execMarginScrubRead_memIs (h_s := rfl) ..
  | flsBootWpWrite => exact execFlsBootWpWrite_memIs (h_s := rfl) ..
  | flsCntClr => exact execFlsCntClr_memIs (h_s := rfl) ..
  | mscrubFailClear val => exact execMscrubFailClear_memIs val s rfl
  | avsRequest => exact execAvsRequest_memIs (h_s := rfl) ..
  | avsSettleDone => exact execAvsSettleDone_memIs (h_s := rfl) ..
  | cpuMultWrite => exact execCpuMultWrite_memIs (h_s := rfl) ..
  | cpuPllLocked => exact execCpuPllLocked_memIs (h_s := rfl) ..
  | domainPowerDown => exact execDomainPowerDown_memIs (h_s := rfl) ..
  | domainPowerUp => exact execDomainPowerUp_memIs (h_s := rfl) ..
  | activityTouch => exact execActivityTouch_memIs (h_s := rfl) ..
  | idleTimerExpiry => exact execIdleTimerExpiry_memIs (h_s := rfl) ..
  | shutClr => exact execShutClr_memIs (h_s := rfl) ..
  | thermalResetRelease => exact execThermalResetRelease_memIs (h_s := rfl) ..
  | inputRearm => exact execInputRearm_memIs (h_s := rfl) ..
  | inputStuck => exact execInputStuck_memIs (h_s := rfl) ..
  | hart12Start => exact execHart12Start_memIs (h_s := rfl) ..
  | wdtKick => exact execWdtKick_memIs (h_s := rfl) ..
  | hartRun => exact execHartRun_memIs (h_s := rfl) ..
  | listenerTimeout => exact execListenerTimeout_memIs (h_s := rfl) ..
  | idOp => exact execId_memIs (h_s := rfl) ..
  | genkey => exact execGenkey_memIs (h_s := rfl) ..
  | putcert => exact execPutcert_memIs (h_s := rfl) ..
  | putanchor => exact execPutanchor_memIs (h_s := rfl) ..
  | putident => exact execPutident_memIs (h_s := rfl) ..
  | putkey1 => exact execPutkey1_memIs (h_s := rfl) ..
  | bistGo => exact execBistGo_memIs (h_s := rfl) ..
  | extest => exact execExtest_memIs (h_s := rfl) ..
  | samplePreload => exact execSamplePreload_memIs (h_s := rfl) ..
  | idcode => exact execIdcode_memIs (h_s := rfl) ..
  | clamp => exact execClamp_memIs (h_s := rfl) ..
  | highz => exact execHighz_memIs (h_s := rfl) ..
  | extestPulse => exact execExtestPulse_memIs (h_s := rfl) ..
  | extestTrain => exact execExtestTrain_memIs (h_s := rfl) ..
  | debug => exact execDebug_memIs (h_s := rfl) ..
  | scan => exact execScan_memIs (h_s := rfl) ..
  | bypass => exact execBypass_memIs (h_s := rfl) ..
  | overflow => exact execOverflow_memIs (h_s := rfl) ..
  | hwEventPost => exact execHwEventPost_memIs (h_s := rfl) ..
  | evrPost => exact execEvrPost_memIs (h_s := rfl) ..
  | rateTokensFull => exact execRateTokensFull_memIs (h_s := rfl) ..
  | rateEntryWrite => exact execRateEntryWrite_memIs (h_s := rfl) ..
  | inputBucketFull => exact execInputBucketFull_memIs (h_s := rfl) ..
  | _ => cases h

/-- The next state of a meaning that leaves memory as it was reads each byte as before. -/
theorem Out.MemIs.sameMem {s r : State} {o : Out} (h : Out.MemIs s.mem o) (ho : o = .next r) : SameMem s r := by
  subst ho
  exact fun a => congrArg (fun m => memLookup m a) h

/-- Settles O50. -/
theorem memoryFrame : Obligations.MemoryFrame :=
  fun _ s _ hstores hexec => (exec_memIs s hstores).sameMem hexec

end Sys2Proof.Machine
end

section
/-! PROOFS of the statements of chapter 2, the angle time base: the phase error that a wedge of an unlocked Tower leaves in ATB_PHERR (R47,
R129), and the comparators with the writes of skew and observer offset (R46, R51, R58, R59, R61). -/

namespace Sys2Proof

open Sys2Proof.Machine

/-! ## Frames -/

theorem Changes.trans {l : List Nat} {s q r : State} (h : Changes l s q) (h' : Changes l q r) : Changes l s r :=
  ⟨fun a ha => (h'.1 a ha).trans (h.1 a ha), fun a => (h'.2 a).trans (h.2 a)⟩

theorem Changes.mono {l l' : List Nat} {s r : State} (h : Changes l s r) (hl : l ⊆ l') : Changes l' s r :=
  ⟨fun a ha => h.1 a (fun hmem => ha (hl hmem)), h.2⟩

end Sys2Proof

namespace Sys2Proof.Machine

theorem State.wr_changes {l : List Nat} (s : State) (f : Fld) (x : Nat) (h : f.addr ∈ l) : Changes l s (s.wr f x) :=
  ⟨fun a ha => State.reg_wr_other s f a x (fun e => ha (e ▸ h)), fun a => s.wr_byte f x a⟩

theorem State.updSpire_changes (l : List Nat) (s : State) (sp : Spire) (f : SpireState → SpireState) :
    Changes l s (s.updSpire sp f) :=
  ⟨fun _ _ => rfl, fun _ => rfl⟩

theorem State.trace_changes {l : List Nat} (s : State) (g src k : Nat) (p : List Byte) (h : BTP_STAT ∈ l) :
    Changes l s (s.trace g src k p) :=
  ⟨fun a ha => s.reg_trace g src k p a (fun e => ha (e ▸ h)), fun a => congrArg (memLookup · a) (s.trace_mem g src k p)⟩

/-! ## Writes and fields -/

theorem State.gated_of_admits {s : State} {a : Nat} (h : s.admits a = true) (f : State → State) : s.gated a f = f s := if_pos h

/-- A field has no more than its bits. -/
theorem fieldOf_mod (v : Word) (lo w : Nat) : fieldOf v lo w % 2 ^ w = fieldOf v lo w := Nat.mod_mod _ _

/-- A field that spans its register takes the whole word. -/
theorem State.reg_wr_word (s : State) (a : Nat) (v : Word) : (s.wr ⟨a, 0, 32⟩ v.toNat).reg a = v := by
  have hwhole : withField (s.reg a) 0 32 v.toNat = v := by
    apply BitVec.eq_of_toNat_eq
    have hlt : (s.reg a).toNat < 2 ^ 32 := (s.reg a).isLt
    have hv : v.toNat < 2 ^ 32 := v.isLt
    rw [withField_toNat _ _ _ _ le_rfl, Nat.pow_zero, Nat.div_one, Nat.mod_eq_of_lt hlt, Nat.mod_eq_of_lt hv]
    omega
  rw [State.wr, State.reg_setReg_same, hwhole]

/-- Two updates of one spire are one. -/
theorem State.updSpire_updSpire (s : State) (sp : Spire) (f g : SpireState → SpireState) :
    (s.updSpire sp f).updSpire sp g = s.updSpire sp (fun p => g (f p)) := by
  by_cases h : spireFlat sp < s.spires.length
  · simp [State.updSpire, State.spire, h]
  · simp [State.updSpire, State.spire, List.set_eq_of_length_le (Nat.not_lt.mp h)]

/-- A trace packet leaves the spires as they are. -/
@[simp] theorem State.trace_spires (s : State) (g src k : Nat) (p : List Byte) : (s.trace g src k p).spires = s.spires := by
  unfold State.trace
  dsimp only
  split
  · split
    · rfl
    · exact State.bump_spires s _ _
  · rfl

/-! ## The phase error of an unlocked Tower -/

/-- The machine from reset with actuator A and the ATB ON: Tower A is unlocked, its servo window is open, and its last wedge with a SAM
found had the index 4. -/
def unlockedTower : State :=
  ((State.reset.setSt bSRV 0 stON).setSt bATB 0 stON).updAtbT .A (fun a => { a with winOpen := true, foundIdx := some 4 })

/-- The wedge of index 5 with even parity, its SAM edge at the local angle 0. -/
def wedgeFive : ServoIn := { edge := some 0, index := 0x280 }

/-- The state after that wedge. -/
def afterWedgeFive : State := (execServoWedge .A wedgeFive wedgeFive 0 unlockedTower).get State.reset

theorem exec_servoWedge_unlockedTower : exec (.servoWedge .A wedgeFive wedgeFive 0) unlockedTower = .next afterWedgeFive := rfl

/-- An unlocked Tower judges no size of error (R47): the edge lies five wedges and 384 ac early, and ERR has the 24 bits to show it. -/
theorem afterWedgeFive_err : afterWedgeFive.rdI (ATB_PHERR_T_ERR 0) = 5 * 32768 + 384 := by
  decide

/-- Refutes O2: the third clause of SERVO_WEDGE has ATB_PHERR.ERR show the low 16 bits of the error, where the field has 24 bits and a good
wedge of an unlocked Tower may be off by more than a wedge. -/
theorem not_atbRows : ¬ Obligations.AtbRows := by
  intro h
  obtain ⟨-, -, hgood, -⟩ := h
  obtain ⟨r, hexec, -, -, -, -, -, -, herr, -, -⟩ := hgood .A wedgeFive wedgeFive 0 0 unlockedTower (by decide) (by decide) (by decide)
    (by decide) (by decide) (by decide) (by decide) (by decide) (by decide)
  obtain rfl : afterWedgeFive = r := by rw [exec_servoWedge_unlockedTower] at hexec; exact Host.Outcome.next.inj hexec
  have hlow : afterWedgeFive.rdI (ATB_PHERR_T_ERR 0) = -32384 := herr.trans (by decide)
  rw [afterWedgeFive_err] at hlow
  exact absurd hlow (by decide)

/-! ## The registers of a comparator -/

theorem cmpCtl_ne_btpStat {n : Nat} (hn : n < 128) : ATB_CMP_CTL n ≠ BTP_STAT := by
  unfold ATB_CMP_CTL BTP_STAT
  omega

theorem cmpCtl_injective {m n : Nat} (h : ATB_CMP_CTL m = ATB_CMP_CTL n) : m = n := by
  unfold ATB_CMP_CTL at h
  omega

theorem cmpCtl_ne_cmpTgt (m n : Nat) : ATB_CMP_CTL m ≠ ATB_CMP_TGT n := by
  unfold ATB_CMP_CTL ATB_CMP_TGT
  omega

/-- The registers of the ATB below the comparators' are none of theirs. -/
theorem not_mem_cmpRegs {a : Nat} (n : Nat) (h : a < 0x20D01100) : a ∉ [ATB_CMP_TGT n, ATB_CMP_CTL n] := by
  simp only [List.mem_cons, List.not_mem_nil, or_false, ATB_CMP_TGT, ATB_CMP_CTL]
  omega

/-- Each Tower has 64 comparators. -/
theorem cmpTower_idx {n : Nat} (hn : n < 128) : (cmpTower n).idx = n / 64 := by
  unfold cmpTower
  split
  · show 0 = n / 64
    omega
  · show 1 = n / 64
    omega

/-! ## A comparator ends -/

/-- The end of a comparator writes its ATB_CMP_CTL and, through the trace, BTP_STAT. -/
theorem State.cmpEnd_changes {l : List Nat} (s : State) {n : Nat} (k : Nat) (hctl : ATB_CMP_CTL n ∈ l) (hstat : BTP_STAT ∈ l) :
    Changes l s (s.cmpEnd n k) := by
  have harm : Changes l s (s.wr (ATB_CMP_CTL_ARM n) 0) := s.wr_changes (ATB_CMP_CTL_ARM n) 0 hctl
  have hstatus := (s.wr (ATB_CMP_CTL_ARM n) 0).wr_changes (ATB_CMP_CTL_STATUS n) k hctl
  exact (harm.trans hstatus).trans (State.trace_changes _ _ _ _ _ hstat)

@[simp] theorem State.cmpEnd_spires (s : State) (n k : Nat) : (s.cmpEnd n k).spires = s.spires := by
  simp [State.cmpEnd, State.cmpTrace]

/-- The trace of an end leaves what was written to ATB_CMP_CTL. -/
theorem State.rd_cmpEnd (s : State) {n : Nat} (k : Nat) (hn : n < 128) (f : Fld) (hf : f.addr = ATB_CMP_CTL n) :
    (s.cmpEnd n k).rd f = ((s.wr (ATB_CMP_CTL_ARM n) 0).wr (ATB_CMP_CTL_STATUS n) k).rd f :=
  State.rd_trace _ _ _ _ _ f (hf ▸ cmpCtl_ne_btpStat hn)

/-- A comparator that has ended is not armed. -/
theorem State.cmpArmed_cmpEnd_same (s : State) {n : Nat} (k : Nat) (hn : n < 128) : (s.cmpEnd n k).cmpArmed n = false := by
  have harm : (s.cmpEnd n k).rd (ATB_CMP_CTL_ARM n) = 0 := by
    rw [State.rd_cmpEnd s k hn _ rfl, State.rd_wr_beside _ (ATB_CMP_CTL_STATUS n) _ _ (Nat.le_of_ble_eq_true rfl) (.inr le_rfl)]
    exact State.rd_wr_same s _ _ le_rfl
  rw [State.cmpArmed, State.on, harm]
  rfl

/-- A comparator that has ended shows why. -/
theorem State.status_cmpEnd (s : State) {n k : Nat} (hn : n < 128) (hk : k < 16) : (s.cmpEnd n k).rd (ATB_CMP_CTL_STATUS n) = k := by
  rw [State.rd_cmpEnd s k hn _ rfl]
  exact (State.rd_wr_same _ _ _ (Nat.le_of_ble_eq_true rfl)).trans (Nat.mod_eq_of_lt hk)

/-- A comparator's end leaves the registers of the others. -/
theorem State.cmpArmed_cmpEnd_other (s : State) {m n : Nat} (k : Nat) (hn : n < 128) (h : m ≠ n) :
    (s.cmpEnd m k).cmpArmed n = s.cmpArmed n := by
  have hreg : (s.cmpEnd m k).reg (ATB_CMP_CTL n) = s.reg (ATB_CMP_CTL n) :=
    (s.cmpEnd_changes k (l := [ATB_CMP_CTL m, BTP_STAT]) (by simp) (by simp)).1 _
      (by simpa [cmpCtl_ne_btpStat hn] using fun e => h (cmpCtl_injective e).symm)
  unfold State.cmpArmed State.on State.rd
  rw [show (ATB_CMP_CTL_ARM n).addr = ATB_CMP_CTL n from rfl, hreg]

/-! ## Arming -/

/-- The fields of a write of ATB_CMP_CTL stay in that register. -/
theorem State.cmpCtlStore_changes {l : List Nat} (s : State) {n : Nat} (ctl : Word) (hctl : ATB_CMP_CTL n ∈ l) :
    Changes l s (s.cmpCtlStore n ctl) :=
  (((s.wr_changes (ATB_CMP_CTL_EPOCH n) _ hctl).trans (State.wr_changes _ (ATB_CMP_CTL_ACTION n) _ hctl)).trans
    (State.wr_changes _ (ATB_CMP_CTL_OWNER n) _ hctl)).trans (State.wr_changes _ (ATB_CMP_CTL_REPEAT n) _ hctl)

/-- The registers of a comparator as a write that arms it leaves them. -/
def State.cmpWritten (s : State) (n : Nat) (tgt ctl : Word) : State := (s.wr (ATB_CMP_TGT_TGT n) tgt.toNat).cmpCtlStore n ctl

theorem State.cmpWritten_changes (s : State) (n : Nat) (tgt ctl : Word) :
    Changes [ATB_CMP_TGT n, ATB_CMP_CTL n] s (s.cmpWritten n tgt ctl) :=
  (s.wr_changes (ATB_CMP_TGT_TGT n) _ (by simp [ATB_CMP_TGT_TGT])).trans (State.cmpCtlStore_changes _ ctl (by simp))

@[simp] theorem State.cmpWritten_atb (s : State) (n : Nat) (tgt ctl : Word) : (s.cmpWritten n tgt ctl).atb = s.atb := rfl

theorem State.reg_cmpTgt_cmpWritten (s : State) (n : Nat) (tgt ctl : Word) : (s.cmpWritten n tgt ctl).reg (ATB_CMP_TGT n) = tgt := by
  have hctl : (s.cmpWritten n tgt ctl).reg (ATB_CMP_TGT n) = (s.wr (ATB_CMP_TGT_TGT n) tgt.toNat).reg (ATB_CMP_TGT n) :=
    (State.cmpCtlStore_changes _ ctl (List.mem_singleton_self _)).1 _ (by simpa using (cmpCtl_ne_cmpTgt n n).symm)
  exact hctl.trans (s.reg_wr_word (ATB_CMP_TGT n) tgt)

theorem State.action_cmpWritten (s : State) (n : Nat) (tgt ctl : Word) :
    (s.cmpWritten n tgt ctl).rd (ATB_CMP_CTL_ACTION n) = fieldOf ctl 12 4 := by
  simp [State.cmpWritten, State.cmpCtlStore, State.rd_wr_beside, State.rd_wr_same, ATB_CMP_CTL_ACTION, ATB_CMP_CTL_OWNER,
    ATB_CMP_CTL_REPEAT, fieldOf]

theorem State.epoch_cmpWritten (s : State) (n : Nat) (tgt ctl : Word) :
    (s.cmpWritten n tgt ctl).rd (ATB_CMP_CTL_EPOCH n) = fieldOf ctl 16 8 := by
  simp [State.cmpWritten, State.cmpCtlStore, State.rd_wr_beside, State.rd_wr_same, ATB_CMP_CTL_EPOCH, ATB_CMP_CTL_ACTION, ATB_CMP_CTL_OWNER,
    ATB_CMP_CTL_REPEAT, fieldOf]

theorem State.isOn_cmpWritten (s : State) (n : Nat) (tgt ctl : Word) : (s.cmpWritten n tgt ctl).isOn bATB 0 = s.isOn bATB 0 := by
  have hreg := (s.cmpWritten_changes n tgt ctl).1 (pageBase bATB 0 0 + 0x0C) (not_mem_cmpRegs n (by decide))
  simp only [State.isOn, State.st, State.rd, hreg]

theorem State.atbEpoch_cmpWritten (s : State) (n : Nat) (tgt ctl : Word) : (s.cmpWritten n tgt ctl).epoch = s.epoch := by
  have hreg := (s.cmpWritten_changes n tgt ctl).1 ATB_EPOCH (not_mem_cmpRegs n (by decide))
  simp only [State.epoch, State.rd, ATB_EPOCH_EPOCH, hreg]

/-- Whether the target written is reached goes by the local angle as it was. -/
theorem State.cmpReached_cmpWritten (s : State) (n : Nat) (tgt ctl : Word) : (s.cmpWritten n tgt ctl).cmpReached n =
    decide ((s.localAngle (cmpTower n) + 2 ^ 32 - tgt.toNat) % 2 ^ 32 < 2 ^ 31) := by
  have htgt : (s.cmpWritten n tgt ctl).rd (ATB_CMP_TGT_TGT n) = tgt.toNat := by
    rw [State.rd, ATB_CMP_TGT_TGT, State.reg_cmpTgt_cmpWritten, fieldOf, Nat.pow_zero, Nat.div_one, Nat.mod_eq_of_lt tgt.isLt]
  rw [State.cmpReached, htgt]
  rfl

/-- R61: an arm while the ATB is not ON, or with a reserved action, is refused. -/
theorem State.cmpArm_of_refused {s : State} {n : Nat} (h : s.isOn bATB 0 = false ∨ 12 ≤ s.rd (ATB_CMP_CTL_ACTION n)) :
    s.cmpArm n = s.cmpEnd n 6 := if_pos h

/-- The state with a comparator armed, its owner's memory of its last fires cleared. -/
def State.cmpSet (s : State) (n : Nat) : State :=
  ((s.wr (ATB_CMP_CTL_ARM n) 1).wr (ATB_CMP_CTL_STATUS n) 1).updSpire (seqOf (cmpTower n) (s.rd (ATB_CMP_CTL_OWNER n))) (fun p =>
    { p with fires := p.fires.filter (fun e => !(e.1 == n)) })

/-- R59: an arm of the present epoch whose target lies ahead is taken. -/
theorem State.cmpArm_of_ahead {s : State} {n : Nat} (hon : s.isOn bATB 0 = true) (hact : s.rd (ATB_CMP_CTL_ACTION n) < 12)
    (hepoch : s.rd (ATB_CMP_CTL_EPOCH n) = s.epoch) (hahead : s.cmpReached n = false) : s.cmpArm n = s.cmpSet n := by
  have hlt : s.epoch < 256 := Nat.mod_lt _ (by decide)
  have hnext : (s.epoch + 1) % 256 ≠ s.epoch := by omega
  simp [State.cmpArm, State.cmpSet, hon, hact, hepoch, hahead, hnext]

theorem State.cmpSet_changes {l : List Nat} (s : State) {n : Nat} (hctl : ATB_CMP_CTL n ∈ l) : Changes l s (s.cmpSet n) := by
  have harm : Changes l s (s.wr (ATB_CMP_CTL_ARM n) 1) := s.wr_changes (ATB_CMP_CTL_ARM n) 1 hctl
  have hstatus := (s.wr (ATB_CMP_CTL_ARM n) 1).wr_changes (ATB_CMP_CTL_STATUS n) 1 hctl
  exact (harm.trans hstatus).trans (State.updSpire_changes l _ _ _)

/-- A field of ATB_CMP_CTL after the two writes that set ARM and STATUS. -/
theorem State.rd_cmpSet (s : State) (n : Nat) (f : Fld) :
    (s.cmpSet n).rd f = ((s.wr (ATB_CMP_CTL_ARM n) 1).wr (ATB_CMP_CTL_STATUS n) 1).rd f :=
  State.updSpire_rd _ _ _ f

theorem State.cmpArmed_cmpSet (s : State) (n : Nat) : (s.cmpSet n).cmpArmed n = true := by
  have harm : (s.cmpSet n).rd (ATB_CMP_CTL_ARM n) = 1 := by
    simp [State.rd_cmpSet, State.rd_wr_beside, State.rd_wr_same, ATB_CMP_CTL_ARM, ATB_CMP_CTL_STATUS]
  rw [State.cmpArmed, State.on, harm]
  rfl

theorem State.status_cmpSet (s : State) (n : Nat) : (s.cmpSet n).rd (ATB_CMP_CTL_STATUS n) = 1 := by
  simp [State.rd_cmpSet, State.rd_wr_same, ATB_CMP_CTL_STATUS]

theorem State.action_cmpSet (s : State) (n : Nat) : (s.cmpSet n).rd (ATB_CMP_CTL_ACTION n) = s.rd (ATB_CMP_CTL_ACTION n) := by
  simp [State.rd_cmpSet, State.rd_wr_beside, ATB_CMP_CTL_ARM, ATB_CMP_CTL_STATUS, ATB_CMP_CTL_ACTION]

theorem exec_comparatorArm {s : State} {n : Nat} (tgt ctl : Word) (hn : n < 128) (hadm : s.admits (ATB_CMP_CTL n) = true) :
    exec (.comparatorArm n tgt ctl) s = .next (if s.cmpArmed n then s else (s.cmpWritten n tgt ctl).cmpArm n) :=
  congrArg Host.Outcome.next ((if_pos hn).trans (State.gated_of_admits hadm _))

/-! ## Disarming and firing -/

/-- A comparator with the action MARK_0 that fires tells its owner and sets EF0, and nothing else changes. -/
theorem State.cmpTell_cmpActNow_mark {s : State} {n : Nat} (hact : s.rd (ATB_CMP_CTL_ACTION n) = 10) :
    (s.cmpActNow (cmpTower n) (s.rd (ATB_CMP_CTL_ACTION n)) (s.rd (ATB_CMP_CTL_OWNER n))).cmpTell n
      = s.updSpire (seqOf (cmpTower n) (s.rd (ATB_CMP_CTL_OWNER n))) (fun p =>
        { p with ef0 := true, fires := sparseSet p.fires n (sparseGet p.fires n + 1) }) := by
  have hmark : s.cmpActNow (cmpTower n) 10 (s.rd (ATB_CMP_CTL_OWNER n))
      = s.updSpire (seqOf (cmpTower n) (s.rd (ATB_CMP_CTL_OWNER n))) (fun p => { p with ef0 := true }) := rfl
  rw [hact, hmark, State.cmpTell, State.updSpire_rd, State.updSpire_updSpire]

theorem State.cmpDisarm_of_ahead {s : State} {n : Nat} (store : State → State)
    (h : ¬(s.isOn bATB 0 = true ∧ s.cmpArmed n = true ∧ s.cmpReached n = true)) : s.cmpDisarm n store = (store s).cmpEnd n 0 :=
  if_neg (by simpa [and_assoc] using h)

theorem State.cmpDisarm_of_reached {s : State} {n : Nat} (store : State → State) (hon : s.isOn bATB 0 = true)
    (harmed : s.cmpArmed n = true) (hreached : s.cmpReached n = true) : s.cmpDisarm n store
      = (store ((s.cmpActNow (cmpTower n) (s.rd (ATB_CMP_CTL_ACTION n)) (s.rd (ATB_CMP_CTL_OWNER n))).cmpTell n)).cmpEnd n 2 :=
  if_pos (by rw [hon, harmed, hreached]; rfl)

theorem exec_comparatorDisarm {s : State} {n : Nat} (ctl : Word) (hn : n < 128) (hadm : s.admits (ATB_CMP_CTL n) = true) :
    exec (.comparatorDisarm n ctl) s = .next (s.cmpDisarm n (fun s => s.cmpCtlStore n ctl)) :=
  congrArg Host.Outcome.next ((if_pos hn).trans (State.gated_of_admits hadm _))

theorem exec_comparatorFire {s : State} {n : Nat} (hn : n < 128) (hon : s.isOn bATB 0 = true) (harmed : s.cmpArmed n = true)
    (hreached : s.cmpReached n = true) : exec (.comparatorFire n) s = .next (s.cmpFire n) :=
  congrArg Host.Outcome.next (if_pos ⟨hn, hon, harmed, hreached⟩)

/-- A comparator without REPEAT ends FIRED. -/
theorem State.cmpFire_once {s : State} {n : Nat} (honce : s.on (ATB_CMP_CTL_REPEAT n) = false) : s.cmpFire n
    = ((s.cmpActNow (cmpTower n) (s.rd (ATB_CMP_CTL_ACTION n)) (s.rd (ATB_CMP_CTL_OWNER n))).cmpTell n).cmpEnd n 2 :=
  if_neg (by rw [honce]; decide)

/-! ## Flushing -/

/-- The end of a sector writes registers of the Tower's write path only. -/
theorem State.reg_sectorEnd (s : State) (t : Tower) (wout a : Nat) (ha : regBlk a ≠ bTWR) : (s.sectorEnd t wout).reg a = s.reg a := by
  have hother : ∀ b, regBlk b = bTWR → b ≠ a := fun b hb e => ha (e ▸ hb)
  have hstat : TWR_STAT t.idx ≠ a := hother _ (by cases t <;> decide)
  have hwr : TWR_CNT_WR t.idx ≠ a := hother _ (by cases t <;> decide)
  have hcut : TWR_CNT_VFAIL t.idx ≠ a := hother _ (by cases t <;> decide)
  have hint : pageBase bTWR t.idx 0 + 0x10 ≠ a := hother _ (by cases t <;> decide)
  unfold State.sectorEnd
  split
  · rfl
  · split
    · rfl
    · simp only [State.note, State.bump, State.irq, TWR_STAT_LAST, TWR_CNT_WR_WRITTEN, TWR_CNT_VFAIL_CUT,
        apply_ite (fun s : State => s.reg a), State.updSpire_reg, State.updTwr_reg, State.reg_wr_other, hstat, hwr, hcut, hint,
        ite_self, ne_eq, not_false_eq_true]

/-- A sector that is cut changes no comparator. -/
theorem State.cmpArmed_cutSector (s : State) (t : Tower) {n : Nat} (hn : n < 128) : (s.cutSector t).cmpArmed n = s.cmpArmed n := by
  have hblk : regBlk (ATB_CMP_CTL n) ≠ bTWR := by unfold regBlk ATB_CMP_CTL bTWR; omega
  have hreg : (s.cutSector t).reg (ATB_CMP_CTL n) = s.reg (ATB_CMP_CTL n) := by
    unfold State.cutSector
    split
    · split
      · exact s.reg_sectorEnd t 1 _ hblk
      · rfl
    · rfl
  simp only [State.cmpArmed, State.on, State.rd, ATB_CMP_CTL_ARM, hreg]

/-- A comparator that has been flushed is not armed. -/
theorem State.cmpArmed_cmpFlush_same (s : State) {n : Nat} (hn : n < 128) : (s.cmpFlush n).cmpArmed n = false := by
  have hend : (s.cmpEnd n 4).cmpArmed n = false := s.cmpArmed_cmpEnd_same 4 hn
  by_cases harmed : s.cmpArmed n = true
  · rw [State.cmpFlush, if_pos harmed]
    dsimp only
    split
    · rw [State.cmpArmed_cutSector _ _ hn, hend]
    · exact hend
  · rw [State.cmpFlush, if_neg harmed]
    exact eq_false_of_ne_true harmed

/-- A flush of one comparator arms no other. -/
theorem State.cmpArmed_cmpFlush_of_not_armed (s : State) (m : Nat) {n : Nat} (hn : n < 128) (h : s.cmpArmed n = false) :
    (s.cmpFlush m).cmpArmed n = false := by
  by_cases hmn : m = n
  · subst hmn
    exact s.cmpArmed_cmpFlush_same hn
  · have hend : (s.cmpEnd m 4).cmpArmed n = false := (s.cmpArmed_cmpEnd_other 4 hn hmn).trans h
    unfold State.cmpFlush
    split
    · dsimp only
      split
      · rw [State.cmpArmed_cutSector _ _ hn, hend]
      · exact hend
    · exact h

/-- After the flush of a list of comparators none of them is armed, and none that was not armed before. -/
theorem State.cmpArmed_foldl_cmpFlush (l : List Nat) {n : Nat} (hn : n < 128) (s : State) (h : n ∈ l ∨ s.cmpArmed n = false) :
    (l.foldl (fun s m => s.cmpFlush m) s).cmpArmed n = false := by
  induction l generalizing s with
  | nil => exact h.resolve_left (List.not_mem_nil)
  | cons m r ih =>
    refine ih (s.cmpFlush m) ?_
    rcases h with h | h
    · rcases List.mem_cons.mp h with rfl | h
      · exact .inr (s.cmpArmed_cmpFlush_same hn)
      · exact .inl h
    · exact .inr (s.cmpArmed_cmpFlush_of_not_armed m hn h)

/-- The flush of a Tower ends the comparators of that Tower, and arms none. -/
theorem State.cmpArmed_cmpFlushT (s : State) (t : Tower) {n : Nat} (hn : n < 128) (h : cmpTower n = t ∨ s.cmpArmed n = false) :
    (s.cmpFlushT t).cmpArmed n = false := by
  refine State.cmpArmed_foldl_cmpFlush _ hn s (h.imp_left fun ht => ?_)
  subst ht
  refine List.mem_map.mpr ⟨n % 64, List.mem_range.mpr (Nat.mod_lt n (by decide)), ?_⟩
  rw [cmpTower_idx hn, Nat.div_add_mod]

theorem exec_cmpTestFlush_both {s : State} (hadm : s.admits ATB_CMP_FLUSH = true) :
    exec (.cmpTestFlush 3) s = .next ((s.cmpFlushT .A).cmpFlushT .B) :=
  congrArg Host.Outcome.next (State.gated_of_admits hadm _)

/-- Settles O3: behind the gate of its register each command is one operation on its comparator, and the rule of the branch that the
conditions pick says what that leaves; the flush goes over the comparators of both Towers. -/
theorem comparatorRows : Obligations.ComparatorRows := by
  refine ⟨?arm_armed, ?arm_ahead, ?arm_reserved, ?disarm, ?disarm_reached, ?fire, ?flush_none, ?flush_both, ?skew, ?offset⟩
  case arm_armed =>
    intro n tgt ctl s hn hadm harmed
    exact ⟨s, (exec_comparatorArm tgt ctl hn hadm).trans (congrArg _ (if_pos harmed)), rfl⟩
  case arm_ahead =>
    intro n tgt ctl s hn hadm hfree hon hact hepoch hahead
    have hset : (s.cmpWritten n tgt ctl).cmpArm n = (s.cmpWritten n tgt ctl).cmpSet n :=
      State.cmpArm_of_ahead (by rw [State.isOn_cmpWritten, hon]) (by rw [State.action_cmpWritten]; exact hact)
        (by rw [State.epoch_cmpWritten, State.atbEpoch_cmpWritten, hepoch])
        (by rw [State.cmpReached_cmpWritten]; exact decide_eq_false (Nat.not_lt.mpr hahead))
    refine ⟨(s.cmpWritten n tgt ctl).cmpSet n, ?_, ?_, State.cmpArmed_cmpSet _ n, State.status_cmpSet _ n, ?_, ?_⟩
    · rw [exec_comparatorArm tgt ctl hn hadm, if_neg (by rw [hfree]; decide), hset]
    · exact ((State.cmpSet_changes _ (List.mem_singleton_self _)).1 _ (by simpa using (cmpCtl_ne_cmpTgt n n).symm)).trans
        (s.reg_cmpTgt_cmpWritten n tgt ctl)
    · rw [State.action_cmpSet, State.action_cmpWritten]
    · exact (s.cmpWritten_changes n tgt ctl).trans (State.cmpSet_changes _ (by simp))
  case arm_reserved =>
    intro n tgt ctl s hn hadm hfree _ hact
    have hrefused : (s.cmpWritten n tgt ctl).cmpArm n = (s.cmpWritten n tgt ctl).cmpEnd n 6 :=
      State.cmpArm_of_refused (.inr (by rw [State.action_cmpWritten]; exact hact))
    refine ⟨(s.cmpWritten n tgt ctl).cmpEnd n 6, ?_, State.cmpArmed_cmpEnd_same _ 6 hn, State.status_cmpEnd _ hn (by decide), ?_⟩
    · rw [exec_comparatorArm tgt ctl hn hadm, if_neg (by rw [hfree]; decide), hrefused]
    · exact ((s.cmpWritten_changes n tgt ctl).mono (by simp)).trans (State.cmpEnd_changes _ 6 (by simp) (by simp))
  case disarm =>
    intro n ctl s hn hadm hahead
    exact ⟨(s.cmpCtlStore n ctl).cmpEnd n 0, by rw [exec_comparatorDisarm ctl hn hadm, State.cmpDisarm_of_ahead _ hahead],
      State.cmpArmed_cmpEnd_same _ 0 hn, State.status_cmpEnd _ hn (by decide),
      (s.cmpCtlStore_changes ctl (by simp)).trans (State.cmpEnd_changes _ 0 (by simp) (by simp))⟩
  case disarm_reached =>
    intro n ctl s hn hadm hon harmed hreached hact
    refine ⟨_, by rw [exec_comparatorDisarm ctl hn hadm, State.cmpDisarm_of_reached _ hon harmed hreached,
      State.cmpTell_cmpActNow_mark hact], State.cmpArmed_cmpEnd_same _ 2 hn, State.status_cmpEnd _ hn (by decide), ?_⟩
    exact ((State.updSpire_changes _ s _ _).trans (State.cmpCtlStore_changes _ ctl (by simp))).trans
      (State.cmpEnd_changes _ 2 (by simp) (by simp))
  case fire =>
    intro n s hn hon harmed hreached honce hact
    refine ⟨_, by rw [exec_comparatorFire hn hon harmed hreached, State.cmpFire_once honce, State.cmpTell_cmpActNow_mark hact],
      State.cmpArmed_cmpEnd_same _ 2 hn, State.status_cmpEnd _ hn (by decide), ?_, State.cmpEnd_spires _ n 2⟩
    exact (State.updSpire_changes _ s _ _).trans (State.cmpEnd_changes _ 2 (by simp) (by simp))
  case flush_none =>
    intro s hadm
    exact ⟨s, congrArg Host.Outcome.next (State.gated_of_admits hadm _), rfl⟩
  case flush_both =>
    intro s hadm
    refine ⟨_, exec_cmpTestFlush_both hadm, fun n hn => ?_, ?_⟩
    · refine State.cmpArmed_cmpFlushT _ .B hn ?_
      cases ht : cmpTower n with
      | A => exact .inr (s.cmpArmed_cmpFlushT .A hn (.inl ht))
      | B => exact .inl rfl
    · exact State.cmpFlushT_memIs _ .B (State.cmpFlushT_memIs s .A rfl)
  case skew =>
    intro t val s hadm
    exact ⟨s.wr (ATB_SKEW_T_SKEW t.idx) (fieldOf val 0 16), congrArg Host.Outcome.next (State.gated_of_admits hadm _),
      (s.rd_wr_same _ _ (Nat.le_of_ble_eq_true rfl)).trans (fieldOf_mod val 0 16), s.wr_changes _ _ (List.mem_singleton_self _)⟩
  case offset =>
    intro val s hadm
    exact ⟨s.wr ATB_OBS_OFFSET_OFFSET (fieldOf val 0 24), congrArg Host.Outcome.next (State.gated_of_admits hadm _),
      (s.rd_wr_same _ _ (by decide)).trans (fieldOf_mod val 0 24), s.wr_changes _ _ (List.mem_singleton_self _)⟩

end Sys2Proof.Machine
end

section
/-! PROOFS of the statements of chapter 3, the spindle drive (R67): the emergency-park request of a fault stop can end a capture, whose record
is stored to memory. -/

namespace Sys2Proof

open Sys2Proof.Machine

/-- Where what a command answers asks for memory as before, every byte of its next state is that of the state before. -/
theorem Answers.byte_get {c : Instr} {s : State} {P : State → Prop} (h : Answers c s P) (hmem : ∀ r, P r → SameMem s r) (a : Nat) :
    (Out.get (exec c s) s).byte a = s.byte a := by
  obtain ⟨r, hexec, hr⟩ := h
  rw [hexec]
  exact hmem r hr a

end Sys2Proof

namespace Sys2Proof.Machine

/-- Both actuators follow their tracks and are locked, Tower A is the source of the ATB, and Tower A captures a sector into slot 0. Tower B
gained lock with its last good wedge, whose error R47 does not limit (R578): 32,768 ac, which a handover corrects by a discontinuity (R52). -/
def captureUnderWay : State :=
  let s := towers.foldl (fun s t => ((((s.setSt bSRV t.idx stON).setSt bCHN t.idx stON).wr (SRV_MODE_MODE t.idx) mFOLLOW).wr
    (loadedFld t) 1).wr (lockFld t) 1) (State.reset.setSt bATB 0 stON)
  (((s.wr ATB_SRC_SRC (srcOf .A)).wr ATB_SRC_LOCKED 1).updAtbT .B (fun a => { a with err := 32768 })).updChn .A
    (fun c => { c with caps := [({}, 0)], slots := [{ capturing := true }] })

/-- That machine with the spindle in mode `m`, whose next decision takes the exit `code` (R89). -/
def captureAtExit (m code : Nat) : State := (captureUnderWay.wr SPN_MODE_MODE m).updSpn (fun x => { x with exit := code })

/-- MODE holds any mode that is written to it. -/
theorem captureAtExit_pmode {m : Nat} (code : Nat) (hm : m < 16) : (captureAtExit m code).pmode = m := by
  rw [State.pmode, captureAtExit, State.updSpn_rd, State.rd_wr_same _ _ _ (by decide)]
  exact Nat.mod_eq_of_lt hm

/-- An estimate of zeros. -/
def zeroEst : SpnEst := ⟨0, 0, 0, 0, 0⟩

/-- Before the decision memory holds nothing. -/
theorem captureAtExit_byte (m code a : Nat) : (captureAtExit m code).byte a = 0#8 := rfl

/-- The decision that fails a start requests the emergency park. Tower A leaves LOADED and loses its lock (R48), Tower B takes the source
with a discontinuity (Table 02-2), and the sector ends INCOMPLETE (R199): OUTCOME 5 of its record stands in byte 3 of the result ring
(R220). -/
theorem byte_switchingDecision_startFailed :
    (Out.get (exec (.switchingDecision zeroEst) (captureAtExit pIPS 4)) (captureAtExit pIPS 4)).byte 3 = 5#8 := by
  decide +kernel

/-- So does the decision that finds the recapture failed (R80). -/
theorem byte_switchingDecision_recaptureFailed :
    (Out.get (exec (.switchingDecision zeroEst) (captureAtExit pCOAST 8)) (captureAtExit pCOAST 8)).byte 3 = 5#8 := by
  decide +kernel

/-- Refutes O4: the clause of the third ambiguous position sensing wants every byte of memory as it was, but the park request of its fault
stop can end a capture, whose record goes to the result ring. -/
theorem not_spindleStartRows : ¬ Obligations.SpindleStartRows := by
  intro h
  obtain ⟨-, -, -, -, -, -, -, -, -, -, -, hfailed, -⟩ := h
  have hsame := (hfailed zeroEst (captureAtExit pIPS 4) (captureAtExit_pmode 4 (by decide)) rfl (by decide) rfl).byte_get
    (fun _ ⟨_, _, _, hmem⟩ => hmem) 3
  rw [byte_switchingDecision_startFailed, captureAtExit_byte] at hsame
  exact absurd hsame (by decide)

/-- Refutes O5: the clause of the failed recapture wants every byte of memory as it was, and its fault stop requests the same park. -/
theorem not_spindleRunRows : ¬ Obligations.SpindleRunRows := by
  intro h
  obtain ⟨-, -, -, -, -, -, -, -, hfailed, -⟩ := h
  have hsame := (hfailed zeroEst (captureAtExit pCOAST 8) (captureAtExit_pmode 8 (by decide)) rfl (by decide) rfl).byte_get
    (fun _ ⟨_, _, hmem⟩ => hmem) 3
  rw [byte_switchingDecision_recaptureFailed, captureAtExit_byte] at hsame
  exact absurd hsame (by decide)

end Sys2Proof.Machine
end

section
/-! PROOFS of the statements of chapter 4, the control engines (R123): the NUMERIC fault of a slot whose evaluation overflows is an emergency of
its actuator (R149), which can end a capture, whose record is stored to memory. -/

namespace Sys2Proof.Machine

/-- The state in which due slot `q` evaluates, the slots `r` being due after it. -/
def State.evaluating (s : State) (e : Eng) (q : Nat) (r : List Nat) : State :=
  (s.updEng e (fun x => { x with due := r })).updEng e (fun x => { x with used := x.used + s.evalCycles e q })

/-- R103: an enabled slot that is not the last one due evaluates, and the tick instant goes on. -/
theorem exec_slotEvaluation_of_more_due {s : State} {e : Eng} {q q2 : Nat} {r : List Nat} (inp : EngIn)
    (hdue : (s.eng e).due = q :: q2 :: r) (hrun : s.rd (engEstate e) = 1) (hon : s.slotOn e q = true) :
    exec (.slotEvaluation e inp) s = .next ((s.evaluating e q (q2 :: r)).evaluate e q inp
      (((s.eng e).now.num (s.streamOf e q)).getD 0)) := by
  show execSlotEvaluation e inp s = _
  simp [execSlotEvaluation, hdue, hrun, hon, State.evaluating]

/-- Converter values of zero. -/
def zeroIn : EngIn := ⟨0, 0, 0, 0⟩

/-- `captureUnderWay` with actuator A's engine in a tick instant at which slots 0 and 1, of one state each, are due. In slot 0 the gain K
(word 288, exponent 372) and the state estimate (0x1000, exponent 0x100C) hold the largest mantissa at the largest exponent, so that the
control output of stage 3 is near 2^254 (Table 04-6). -/
def outputOverflow : State :=
  let s := (((captureUnderWay.wr (engEstate .srvA) 1).wr (engEn .srvA) 3).wr (engCfg .srvA 0 8 4) 1).wr (engCfg .srvA 1 8 4) 1
  (s.wr (engBusy .srvA) 1).updEng .srvA (fun x => { x with
    now := { t0 := some 0 }, due := [0, 1], coef := [(288, 0x7FFF), (372, 127), (0x1000, 0x7FFF), (0x100C, 127)] })

/-- R102: the output needs an exponent above 127, so the evaluation ends at stage 3 with the NUMERIC fault. -/
theorem evaluate_outputOverflow : (outputOverflow.evaluating .srvA 0 [1]).evaluate .srvA 0 zeroIn 0
    = (outputOverflow.evaluating .srvA 0 [1]).engFault .srvA 0 3 2 0 := by
  decide +kernel

/-- Before the command memory holds nothing. -/
theorem outputOverflow_byte (a : Nat) : outputOverflow.byte a = 0#8 := rfl

/-- The fault is an emergency of Tower A (R149), which leaves LOADED; Tower B takes the source with a discontinuity (Table 02-2), and the
sector ends INCOMPLETE (R199): OUTCOME 5 of its record stands in byte 3 of the result ring (R220). -/
theorem byte_engFault_outputOverflow : ((outputOverflow.evaluating .srvA 0 [1]).engFault .srvA 0 3 2 0).byte 3 = 5#8 := by
  decide +kernel

/-- Refutes O6: the second clause of SLOT_EVALUATION wants every byte of memory as it was, but without a parity error the evaluation can
still take the NUMERIC fault, and the emergency of its actuator can end a capture, whose record goes to the result ring. -/
theorem not_engineRows : ¬ Obligations.EngineRows := by
  intro h
  obtain ⟨-, -, -, hevaluates, -⟩ := h
  have hdue : (outputOverflow.eng .srvA).due = [0, 1] := rfl
  have hrun : outputOverflow.rd (engEstate .srvA) = 1 := by decide +kernel
  have hon : outputOverflow.slotOn .srvA 0 = true := by decide +kernel
  have htick : ((outputOverflow.eng .srvA).now.num (outputOverflow.streamOf .srvA 0)).getD 0 = 0 := by decide +kernel
  have hsame := (hevaluates .srvA zeroIn 0 1 outputOverflow hdue hrun hon rfl).byte_get (fun _ ⟨_, hmem⟩ => hmem) 3
  rw [exec_slotEvaluation_of_more_due zeroIn hdue hrun hon, htick, evaluate_outputOverflow, Out.get, byte_engFault_outputOverflow,
    outputOverflow_byte] at hsame
  exact absurd hsame (by decide)

end Sys2Proof.Machine
end

section
/-! PROOFS of the statements of chapter 5, actuators and servo (R138): an UNLOAD takes the actuator out of LOADED, which can end a capture,
whose record is stored to memory. -/

namespace Sys2Proof.Machine

/-- R138, R139: an UNLOAD, written with no other bit, starts the unload of an actuator that is ON and loaded. -/
theorem exec_unload_of_loaded {s : State} {t : Tower} (hadm : s.admits (SRV_CMD t.idx) = true) (hon : s.isOn bSRV t.idx = true)
    (hloaded : isLoaded (s.mode t) = true) : exec (.unload t 0) s = .next (s.toUnloading t) := by
  have hbits : fieldOf (0#32 ||| 2) 0 3 = 2 := by decide
  have hcmd : s.srvCmd t 2 = s.toUnloading t := by simp [State.srvCmd, hon, hloaded]
  show Host.Outcome.next (s.gated (SRV_CMD t.idx) (fun s => s.srvCmd t (fieldOf (0#32 ||| 2) 0 3))) = _
  rw [State.gated_of_admits hadm, hbits, hcmd]

/-- `captureUnderWay` admits the UNLOAD of Tower A's actuator, which is ON and follows its track. -/
theorem captureUnderWay_unload : captureUnderWay.admits (SRV_CMD Tower.A.idx) = true ∧ captureUnderWay.isOn bSRV Tower.A.idx = true ∧
    captureUnderWay.mode .A = mFOLLOW := by
  decide +kernel

/-- Before the command memory holds nothing. -/
theorem captureUnderWay_byte (a : Nat) : captureUnderWay.byte a = 0#8 := rfl

/-- Tower A leaves LOADED and loses its lock (R48), Tower B takes the source with a discontinuity (Table 02-2), and the sector that A was
capturing ends INCOMPLETE (R199): OUTCOME 5 of its record stands in byte 3 of the result ring (R220). -/
theorem byte_toUnloading_captureUnderWay : (captureUnderWay.toUnloading .A).byte 3 = 5#8 := by
  decide +kernel

/-- Refutes O7: the clause of an UNLOAD in FOLLOW wants every byte of memory as it was, but the actuator leaves LOADED, and the loss of its
lock can end a capture, whose record goes to the result ring. -/
theorem not_servoRows : ¬ Obligations.ServoRows := by
  intro h
  obtain ⟨-, -, hunload, -⟩ := h
  obtain ⟨hadm, hon, hfollow⟩ := captureUnderWay_unload
  have hloaded : isLoaded (captureUnderWay.mode .A) = true := by rw [hfollow]; rfl
  have hsame := (hunload .A 0 captureUnderWay hadm hon hfollow (by decide) (by decide)).byte_get (fun _ ⟨_, _, hmem⟩ => hmem) 3
  rw [exec_unload_of_loaded hadm hon hloaded, Out.get, byte_toUnloading_captureUnderWay, captureUnderWay_byte] at hsame
  exact absurd hsame (by decide)

end Sys2Proof.Machine
end

section
/-! PROOFS of what a machine check after a failed access rests on: no access of the fabric changes the number of spires. One lemma per operation that
an access can reach, in the order of the files of the model, an operation used once being run with the one that uses it. -/

namespace Sys2Proof.Machine

/-- The number of spires in the state's list. -/
def State.spireCount (s : State) : Nat := s.spires.length

/-! ## Rules -/

@[simp] theorem State.length_spires (s : State) : s.spires.length = s.spireCount := rfl

/-- A state written out field by field, as an update of some fields is. -/
@[simp] theorem spireCount_mk (regs mem fwk atb spn engA engB engS srv chn twr lay keys spires sprEnv eth aot obj dom evr ddr cup dma cores fls
    pwr sys resp freeCount pending) :
    (State.mk regs mem fwk atb spn engA engB engS srv chn twr lay keys spires sprEnv eth aot obj dom evr ddr cup dma cores fls
      pwr sys resp freeCount pending).spireCount = spires.length := rfl

@[simp] theorem spireCount_ite {p : Prop} [Decidable p] (x y : State) :
    (if p then x else y).spireCount = if p then x.spireCount else y.spireCount := apply_ite ..

@[simp] theorem spireCount_fst_ite {α : Type} {p : Prop} [Decidable p] (x y : State × α) :
    (if p then x else y).1.spireCount = if p then x.1.spireCount else y.1.spireCount :=
  apply_ite (fun z : State × α => z.1.spireCount) ..

/-- The state that a meaning answers. -/
@[simp] theorem Out.get_next (x s : State) : Out.get (.next x) s = x := rfl

@[simp] theorem spireCount_get_ite {p : Prop} [Decidable p] (x y : Out) (s : State) :
    (Out.get (if p then x else y) s).spireCount = if p then (x.get s).spireCount else (y.get s).spireCount :=
  apply_ite (fun o => (Out.get o s).spireCount) ..

@[simp] theorem spireCount_foldl {α : Type} {f : State → α → State} (l : List α) (s : State)
    (h : ∀ s x, (f s x).spireCount = s.spireCount) : (l.foldl f s).spireCount = s.spireCount := by
  induction l generalizing s with
  | nil => rfl
  | cons x r ih => exact (ih _).trans (h s x)

@[simp] theorem spireCount_foldl_fst {α β : Type} {f : State × β → α → State × β} (l : List α) (p : State × β)
    (h : ∀ p x, (f p x).1.spireCount = p.1.spireCount) : (l.foldl f p).1.spireCount = p.1.spireCount := by
  induction l generalizing p with
  | nil => rfl
  | cons x r ih => exact (ih _).trans (h p x)

/-! ## Operations -/

variable (s : State) (t : Tower) (u : Eng) (sp : Spire) (a b c d e j k : Nat) (v w : Word) (ok on : Bool) (l m : List Byte)

/-! ### Machine/Ops.lean -/

@[simp] theorem State.setReg_spireCount : (s.setReg a v).spireCount = s.spireCount := by simp [State.setReg]
@[simp] theorem State.wr_spireCount (f : Fld) : (s.wr f a).spireCount = s.spireCount := by simp [State.wr]
@[simp] theorem State.wb_spireCount (f : Fld) : (s.wb f ok).spireCount = s.spireCount := by simp [State.wb]
@[simp] theorem State.bump_spireCount (f : Fld) : (s.bump f a).spireCount = s.spireCount := by simp [State.bump]
@[simp] theorem State.storeRow_spireCount : (s.storeRow a v).spireCount = s.spireCount := by simp [State.storeRow]
@[simp] theorem State.irq_spireCount : (s.irq a b c d).spireCount = s.spireCount := by simp [State.irq]
@[simp] theorem State.setSt_spireCount : (s.setSt a b c).spireCount = s.spireCount := by simp [State.setSt]
@[simp] theorem State.setRpend_spireCount : (s.setRpend a b ok).spireCount = s.spireCount := by simp [State.setRpend]
@[simp] theorem State.setEn_spireCount : (s.setEn a b ok).spireCount = s.spireCount := by simp [State.setEn]
@[simp] theorem State.updFwk_spireCount (f : FwkState → FwkState) : (s.updFwk f).spireCount = s.spireCount := by simp [State.updFwk]
@[simp] theorem State.faultStop_spireCount (shut : State → State) (h : ∀ s, (shut s).spireCount = s.spireCount) :
    (s.faultStop a b shut).spireCount = s.spireCount := by
  simp [State.faultStop, h]

@[simp] theorem State.repairShow_spireCount : s.repairShow.spireCount = s.spireCount := by simp [State.repairShow]
@[simp] theorem State.levelShow_spireCount : s.levelShow.spireCount = s.spireCount := by simp [State.levelShow]
@[simp] theorem State.blockReset_spireCount (x : Nat × Nat) : (s.blockReset x).spireCount = s.spireCount := by
  simp [State.blockReset, State.dropBlock]

@[simp] theorem State.softUnit_spireCount : (s.softUnit a b).spireCount = s.spireCount := by simp [State.softUnit, State.spiresReset]
@[simp] theorem State.softApply_spireCount : (s.softApply a b).spireCount = s.spireCount := by simp [State.softApply]
@[simp] theorem State.shutDone_spireCount : (s.shutDone a b).spireCount = s.spireCount := by simp [State.shutDone, State.shutEnd]
@[simp] theorem State.beginStop_spireCount : (s.beginStop a b).spireCount = s.spireCount := by simp [State.beginStop]
@[simp] theorem State.disable_spireCount (stop : State → State) (h : ∀ s, (stop s).spireCount = s.spireCount) :
    (s.disable a b stop).spireCount = s.spireCount := by
  simp [State.disable, h]

@[simp] theorem State.setByte_spireCount (x : Byte) : (s.setByte a x).spireCount = s.spireCount := by simp [State.setByte]
@[simp] theorem State.setBytes_spireCount : (s.setBytes a l).spireCount = s.spireCount := by
  induction l generalizing s a with
  | nil => rfl
  | cons x r ih => exact (ih ..).trans (s.setByte_spireCount a x)

@[simp] theorem State.setWord_spireCount : (s.setWord a v).spireCount = s.spireCount := by simp [State.setWord]
@[simp] theorem State.drawn_spireCount : s.drawn.spireCount = s.spireCount := by simp [State.drawn]
@[simp] theorem State.hwPost_spireCount : (s.hwPost a b c l).spireCount = s.spireCount := by simp [State.hwPost]
@[simp] theorem State.activity_spireCount : s.activity.spireCount = s.spireCount := by simp [State.activity]
@[simp] theorem State.trace_spireCount : (s.trace a b c l).spireCount = s.spireCount := by simp [State.trace]
@[simp] theorem State.gated_spireCount (f : State → State) (h : ∀ s, (f s).spireCount = s.spireCount) :
    (s.gated a f).spireCount = s.spireCount := by
  simp [State.gated, h]

@[simp] theorem State.updAtb_spireCount (f : AtbState → AtbState) : (s.updAtb f).spireCount = s.spireCount := by simp [State.updAtb]
@[simp] theorem State.updAtbT_spireCount (f : AtbTower → AtbTower) : (s.updAtbT t f).spireCount = s.spireCount := by simp [State.updAtbT]
@[simp] theorem State.updSpn_spireCount (f : SpnState → SpnState) : (s.updSpn f).spireCount = s.spireCount := by simp [State.updSpn]
@[simp] theorem State.updEng_spireCount (f : EngState → EngState) : (s.updEng u f).spireCount = s.spireCount := by
  unfold State.updEng
  split <;> simp

@[simp] theorem State.updSrv_spireCount (f : SrvState → SrvState) : (s.updSrv t f).spireCount = s.spireCount := by simp [State.updSrv]
@[simp] theorem State.updChn_spireCount (f : ChnState → ChnState) : (s.updChn t f).spireCount = s.spireCount := by simp [State.updChn]
@[simp] theorem State.updTwr_spireCount (f : TwrState → TwrState) : (s.updTwr t f).spireCount = s.spireCount := by simp [State.updTwr]
@[simp] theorem State.updCpl_spireCount (f : CplState → CplState) : (s.updCpl t f).spireCount = s.spireCount := by simp [State.updCpl]
@[simp] theorem State.updLan_spireCount (f : LanState → LanState) : (s.updLan t f).spireCount = s.spireCount := by simp [State.updLan]
@[simp] theorem State.updSpire_spireCount (f : SpireState → SpireState) : (s.updSpire sp f).spireCount = s.spireCount := by
  simp [State.updSpire]

/-! ### Machine/Evr.lean -/

@[simp] theorem State.evrIrq_spireCount : (s.evrIrq a).spireCount = s.spireCount := by simp [State.evrIrq]
@[simp] theorem State.evrStore_spireCount : (s.evrStore a b c d l).spireCount = s.spireCount := by
  unfold State.evrStore State.persist
  split <;> simp

@[simp] theorem State.updEvr_spireCount (f : EvrState → EvrState) : (s.updEvr f).spireCount = s.spireCount := by simp [State.updEvr]
@[simp] theorem State.setRate_spireCount (x : RateEntry) : (s.setRate a x).spireCount = s.spireCount := by simp [State.setRate]
@[simp] theorem State.evrPass_spireCount : (s.evrPass a b c d l).spireCount = s.spireCount := by
  unfold State.evrPass
  split <;> simp

@[simp] theorem State.rlCfg_spireCount : (s.rlCfg v).spireCount = s.spireCount := by simp [State.rlCfg]
@[simp] theorem State.rlRate_spireCount : (s.rlRate v).spireCount = s.spireCount := by simp [State.rlRate]
@[simp] theorem State.postRefused_spireCount : s.postRefused.spireCount = s.spireCount := by simp [State.postRefused]
@[simp] theorem State.evrPostWrite_spireCount : (s.evrPostWrite v).spireCount = s.spireCount := by simp [State.evrPostWrite]
@[simp] theorem State.takePost_spireCount : s.takePost.spireCount = s.spireCount := by
  unfold State.takePost
  split <;> simp

@[simp] theorem State.emptySlots_spireCount (x : List Nat) : (s.emptySlots x).spireCount = s.spireCount := by simp [State.emptySlots]
@[simp] theorem State.evrCmd_spireCount : (s.evrCmd a v).spireCount = s.spireCount := by simp [State.evrCmd, State.evrClear]
@[simp] theorem State.evrSetup_spireCount : (s.evrSetup a v).spireCount = s.spireCount := by simp [State.evrSetup]
@[simp] theorem State.evrStart_spireCount : s.evrStart.spireCount = s.spireCount := by simp [State.evrStart]
@[simp] theorem State.takeAll_spireCount : (s.takeAll a).spireCount = s.spireCount := by
  induction a generalizing s with
  | zero => rfl
  | succ n ih => exact (ih _).trans s.takePost_spireCount

@[simp] theorem State.evrStop_spireCount : s.evrStop.spireCount = s.spireCount := by simp [State.evrStop]

/-! ### Machine/Ddr.lean -/

@[simp] theorem State.updDdr_spireCount (f : DdrState → DdrState) : (s.updDdr f).spireCount = s.spireCount := by simp [State.updDdr]
@[simp] theorem State.memIrq_spireCount : (s.memIrq a).spireCount = s.spireCount := by simp [State.memIrq]
@[simp] theorem State.memLog_spireCount : (s.memLog a b c d e j k).spireCount = s.spireCount := by simp [State.memLog]
@[simp] theorem State.ceEvent_spireCount (pat : List (Nat × Nat)) : (s.ceEvent a b c d pat).spireCount = s.spireCount := by
  simp [State.ceEvent, State.devCorrected]

@[simp] theorem State.ueEvent_spireCount : (s.ueEvent a b c d e).spireCount = s.spireCount := by simp [State.ueEvent]
@[simp] theorem State.setErr_spireCount : (s.setErr a b c).spireCount = s.spireCount := by simp [State.setErr]
@[simp] theorem State.burstEvents_spireCount : (s.burstEvents a b c).spireCount = s.spireCount := by
  refine spireCount_foldl _ s fun s c => ?_
  split <;> simp

@[simp] theorem State.cwWriteBack_spireCount : (s.cwWriteBack a b).spireCount = s.spireCount := by
  unfold State.cwWriteBack
  split <;> simp

@[simp] theorem State.ddrRefuse_spireCount : s.ddrRefuse.spireCount = s.spireCount := by simp [State.ddrRefuse]
@[simp] theorem State.ddrReadOp_spireCount : (s.ddrReadOp a b c).1.spireCount = s.spireCount := by simp [State.ddrReadOp, State.burstRead]
@[simp] theorem State.ddrFlip_spireCount : (s.ddrFlip a).spireCount = s.spireCount := by simp [State.ddrFlip]
@[simp] theorem State.markMode_spireCount : (s.markMode a b c).spireCount = s.spireCount := by simp [State.markMode]
@[simp] theorem State.freshBytes_spireCount : (s.freshBytes a b c).spireCount = s.spireCount := by simp [State.freshBytes]
@[simp] theorem State.ddrWriteOp_spireCount : (s.ddrWriteOp a b l).1.spireCount = s.spireCount := by
  simp only [State.ddrWriteOp]
  repeat' split
  · simp
  · simp
  · simp
  · exact spireCount_foldl _ s fun q x => by split <;> simp
  · rw [State.ddrFlip_spireCount, State.markMode_spireCount, State.setBytes_spireCount,
      spireCount_foldl _ _ fun q x => q.cwWriteBack_spireCount _ x]
    exact spireCount_foldl _ s fun q x => by split <;> simp

@[simp] theorem State.memCmd_spireCount : (s.memCmd v).spireCount = s.spireCount := by simp [State.memCmd]
@[simp] theorem State.memPop_spireCount : (s.memPop v).spireCount = s.spireCount := by simp [State.memPop]
@[simp] theorem State.memStart_spireCount : s.memStart.spireCount = s.spireCount := by
  unfold State.memStart State.memFault
  split <;> simp

@[simp] theorem State.memLost_spireCount : s.memLost.spireCount = s.spireCount := by simp [State.memLost, State.ddrZero]

/-! ### Machine/Cup.lean -/

@[simp] theorem State.updCup_spireCount (f : CupState → CupState) : (s.updCup f).spireCount = s.spireCount := by simp [State.updCup]
@[simp] theorem State.cupIrq_spireCount : (s.cupIrq a).spireCount = s.spireCount := by simp [State.cupIrq]
@[simp] theorem State.putLine_spireCount : (s.putLine a b l).spireCount = s.spireCount := by simp [State.putLine, State.arrayData]
@[simp] theorem State.displace_spireCount (old : Option CLine) : (s.displace old).spireCount = s.spireCount := by
  unfold State.displace
  split <;> simp

@[simp] theorem State.install_spireCount : (s.install a b l).spireCount = s.spireCount := by
  unfold State.install
  split <;> simp

@[simp] theorem State.dropLines_spireCount (f : Nat → Bool) : (s.dropLines f).spireCount = s.spireCount := by simp [State.dropLines]
@[simp] theorem State.dropFills_spireCount (f : Nat → Bool) : (s.dropFills f ok).spireCount = s.spireCount := by simp [State.dropFills]
@[simp] theorem State.cupPresent_spireCount : (s.cupPresent a b l).spireCount = s.spireCount := by simp [State.cupPresent, State.cupSnoop]
@[simp] theorem State.ddrStore_spireCount : (s.ddrStore a b l).1.spireCount = s.spireCount := by simp [State.ddrStore]
@[simp] theorem State.cupSpad_spireCount : (s.cupSpad v).spireCount = s.spireCount := by simp [State.cupSpad]
@[simp] theorem State.cupMaint_spireCount : (s.cupMaint v).spireCount = s.spireCount := by simp [State.cupMaint, State.maintRun]
@[simp] theorem execCupCntClr_spireCount : ((execCupCntClr v s).get s).spireCount = s.spireCount := by simp [execCupCntClr]
@[simp] theorem State.cupWalk_spireCount : s.cupWalk.spireCount = s.spireCount := by simp [State.cupWalk]
@[simp] theorem State.cupStart_spireCount : s.cupStart.spireCount = s.spireCount := by simp [State.cupStart]
@[simp] theorem State.cupStop_spireCount : s.cupStop.spireCount = s.spireCount := by simp [State.cupStop]

/-! ### Machine/Dma.lean -/

@[simp] theorem State.updDma_spireCount (f : DmaState → DmaState) : (s.updDma f).spireCount = s.spireCount := by simp [State.updDma]
@[simp] theorem State.dmaIrq_spireCount : (s.dmaIrq a).spireCount = s.spireCount := by simp [State.dmaIrq]
@[simp] theorem State.setCst_spireCount : (s.setCst a b).spireCount = s.spireCount := by simp [State.setCst]
@[simp] theorem State.updCh_spireCount (f : DmaCh → DmaCh) : (s.updCh a f).spireCount = s.spireCount := by
  simp [State.updCh, State.dmaShow]

@[simp] theorem State.parkCheck_spireCount : (s.parkCheck a).spireCount = s.spireCount := by simp [State.parkCheck]
@[simp] theorem State.dmaDisable_spireCount : (s.dmaDisable a).spireCount = s.spireCount := by simp [State.dmaDisable, State.dmaSpoil]
@[simp] theorem State.dmaCtl_spireCount : (s.dmaCtl a v).spireCount = s.spireCount := by simp [State.dmaCtl, State.dmaFetch]
@[simp] theorem State.dmaPulse_spireCount : (s.dmaPulse a).spireCount = s.spireCount := by
  unfold State.dmaPulse State.burstIssue
  split <;> simp

@[simp] theorem State.dmaDoorbell_spireCount : (s.dmaDoorbell a v).spireCount = s.spireCount := by simp [State.dmaDoorbell]
@[simp] theorem State.dmaPark_spireCount : (s.dmaPark a b c).spireCount = s.spireCount := by simp [State.dmaPark]
@[simp] theorem State.dmaQuiesce_spireCount : (s.dmaQuiesce a).spireCount = s.spireCount := by simp [State.dmaQuiesce]
@[simp] theorem State.dmaStop_spireCount : s.dmaStop.spireCount = s.spireCount := by simp [State.dmaStop, State.dmaSettle]

/-! ### Machine/Fls.lean -/

@[simp] theorem State.updFls_spireCount (f : FlsState → FlsState) : (s.updFls f).spireCount = s.spireCount := by simp [State.updFls]
@[simp] theorem State.flsIrq_spireCount : (s.flsIrq a).spireCount = s.spireCount := by simp [State.flsIrq]
@[simp] theorem State.markProg_spireCount : (s.markProg a b).spireCount = s.spireCount := by simp [State.markProg]
@[simp] theorem State.eraseWhole_spireCount : (s.eraseWhole a).spireCount = s.spireCount := by simp [State.eraseWhole, State.markErased]
@[simp] theorem State.flsReadOp_spireCount : (s.flsReadOp a b c).1.spireCount = s.spireCount := by simp [State.flsReadOp]
@[simp] theorem State.seqRead_spireCount : s.seqRead.spireCount = s.spireCount := by simp [State.seqRead]
@[simp] theorem State.cmdEnd_spireCount : (s.cmdEnd a).spireCount = s.spireCount := by simp [State.cmdEnd]
@[simp] theorem State.seqErr_spireCount : s.seqErr.spireCount = s.spireCount := by simp [State.seqErr]
@[simp] theorem State.opStart_spireCount (x : FlsOp) : (s.opStart x).spireCount = s.spireCount := by simp [State.opStart]
@[simp] theorem State.flsStart_spireCount (words : List (Nat × List Byte)) : (s.flsStart a b words l ok).spireCount = s.spireCount := by
  simp [State.flsStart, State.pwCheck]

@[simp] theorem State.eraseSuspend_spireCount : s.eraseSuspend.spireCount = s.spireCount := by simp [State.eraseSuspend]
@[simp] theorem State.eraseResume_spireCount : (s.eraseResume ok).spireCount = s.spireCount := by
  unfold State.eraseResume
  split <;> simp

@[simp] theorem State.pageData_spireCount : (s.pageData a l ok).spireCount = s.spireCount := by
  simp only [State.pageData]
  repeat' split
  all_goals simp

@[simp] theorem State.pwData_spireCount : (s.pwData a l ok).spireCount = s.spireCount := by simp [State.pwData]
@[simp] theorem State.eraseTail_spireCount : (s.eraseTail a b ok).spireCount = s.spireCount := by simp [State.eraseTail]
@[simp] theorem State.phaseWrite_spireCount : (s.phaseWrite a l ok).spireCount = s.spireCount := by simp [State.phaseWrite, State.wordData]
@[simp] theorem State.flsCycle_spireCount : (s.flsCycle a l ok).spireCount = s.spireCount := by simp [State.flsCycle, State.afterU]
@[simp] theorem State.bootWp_spireCount : (s.bootWp a v).spireCount = s.spireCount := by simp [State.bootWp]
@[simp] theorem State.mscrubClear_spireCount : s.mscrubClear.spireCount = s.spireCount := by simp [State.mscrubClear]
@[simp] theorem State.flsStop_spireCount : s.flsStop.spireCount = s.spireCount := by simp [State.flsStop]

/-! ### Machine/Media.lean -/

@[simp] theorem State.note_spireCount : (s.note t a v).spireCount = s.spireCount := by simp [State.note]
@[simp] theorem State.lanAssist_spireCount : (s.lanAssist t).spireCount = s.spireCount := by simp [State.lanAssist]
@[simp] theorem State.headWarn_spireCount (f : Fld) : (s.headWarn t f a b).spireCount = s.spireCount := by simp [State.headWarn]
@[simp] theorem State.sectorEnd_spireCount : (s.sectorEnd t a).spireCount = s.spireCount := by
  unfold State.sectorEnd
  split <;> simp

@[simp] theorem State.setWords_spireCount (x : List Word) : (s.setWords a x).spireCount = s.spireCount := by
  induction x generalizing s a with
  | nil => rfl
  | cons y r ih => exact (ih ..).trans (s.setWord_spireCount a y)

@[simp] theorem State.chnRecord_spireCount (x : CapPlan) (r : RecInfo) : (s.chnRecord t x r).spireCount = s.spireCount := by
  simp [State.chnRecord]

@[simp] theorem State.chnCounts_spireCount (r : RecInfo) : (s.chnCounts t r).spireCount = s.spireCount := by simp [State.chnCounts]
@[simp] theorem State.sectorSeen_spireCount (x : CapPlan) (r : RecInfo) : (s.sectorSeen t x r ok a).spireCount = s.spireCount := by
  simp [State.sectorSeen]

@[simp] theorem State.liveOutcome_spireCount (x : CapPlan) (r : RecInfo) : (s.liveOutcome t x r).spireCount = s.spireCount := by
  simp [State.liveOutcome, State.lanLearn]

@[simp] theorem State.capBits_spireCount : (s.capBits t).spireCount = s.spireCount := by simp [State.capBits]
@[simp] theorem State.capSettle_spireCount : (s.capSettle t).spireCount = s.spireCount := by simp [State.capSettle]
@[simp] theorem State.capCut_spireCount (x : CapPlan × Nat) : (s.capCut t x).spireCount = s.spireCount := by simp [State.capCut]
@[simp] theorem State.capCutAll_spireCount : (s.capCutAll t).spireCount = s.spireCount := by simp [State.capCutAll]
@[simp] theorem State.winShut_spireCount : (s.winShut t).spireCount = s.spireCount := by simp [State.winShut]
@[simp] theorem State.setAG_spireCount : (s.setAG t ok).spireCount = s.spireCount := by simp [State.setAG]
@[simp] theorem State.cutSector_spireCount : (s.cutSector t).spireCount = s.spireCount := by
  unfold State.cutSector
  split <;> simp

@[simp] theorem State.dropWG_spireCount : (s.dropWG t).spireCount = s.spireCount := by simp [State.dropWG]
@[simp] theorem State.dropAG_spireCount : (s.dropAG t).spireCount = s.spireCount := by simp [State.dropAG]
@[simp] theorem State.dropGates_spireCount : (s.dropGates t).spireCount = s.spireCount := by simp [State.dropGates]
@[simp] theorem State.regate_spireCount : (s.regate t).spireCount = s.spireCount := by simp [State.regate]
@[simp] theorem State.regateBoth_spireCount : s.regateBoth.spireCount = s.spireCount := by simp [State.regateBoth]
@[simp] theorem State.capStart_spireCount (p : CapPlan) : (s.capStart t p).spireCount = s.spireCount := by
  simp only [State.capStart]
  repeat' split
  all_goals simp

@[simp] theorem State.afeOpen_spireCount : (s.afeOpen t ok on).spireCount = s.spireCount := by simp [State.afeOpen, State.afeSet]
@[simp] theorem State.afeClose_spireCount : (s.afeClose t ok).spireCount = s.spireCount := by simp [State.afeClose]
@[simp] theorem State.winOpen_spireCount : (s.winOpen t ok).spireCount = s.spireCount := by simp [State.winOpen]
@[simp] theorem State.winClose_spireCount : (s.winClose t ok).spireCount = s.spireCount := by simp [State.winClose]
@[simp] theorem State.cmpEnd_spireCount : (s.cmpEnd a b).spireCount = s.spireCount := by simp [State.cmpEnd, State.cmpTrace]
@[simp] theorem State.cmpFlush_spireCount : (s.cmpFlush a).spireCount = s.spireCount := by simp [State.cmpFlush]
@[simp] theorem State.cmpFlushT_spireCount : (s.cmpFlushT t).spireCount = s.spireCount := by simp [State.cmpFlushT]
@[simp] theorem State.cmpFlushSeq_spireCount : (s.cmpFlushSeq a).spireCount = s.spireCount := by simp [State.cmpFlushSeq]
@[simp] theorem State.openAG_spireCount : (s.openAG t).spireCount = s.spireCount := by simp [State.openAG]
@[simp] theorem State.closeAG_spireCount : (s.closeAG t).spireCount = s.spireCount := by simp [State.closeAG]
@[simp] theorem State.cmpAct_spireCount : (s.cmpAct t a b).spireCount = s.spireCount := by
  unfold State.cmpAct State.openWG
  split <;> simp

@[simp] theorem State.cmpActNow_spireCount : (s.cmpActNow t a b).spireCount = s.spireCount := by simp [State.cmpActNow]
@[simp] theorem State.cmpTell_spireCount : (s.cmpTell a).spireCount = s.spireCount := by simp [State.cmpTell]
@[simp] theorem State.cmpDisarm_spireCount (store : State → State) (h : ∀ s, (store s).spireCount = s.spireCount) :
    (s.cmpDisarm a store).spireCount = s.spireCount := by
  simp [State.cmpDisarm, h]

@[simp] theorem State.trcEvent_spireCount : (s.trcEvent u a).spireCount = s.spireCount := by simp [State.trcEvent]
@[simp] theorem State.engRefresh_spireCount : (s.engRefresh u).spireCount = s.spireCount := by simp [State.engRefresh]
@[simp] theorem State.atbEvt_spireCount (x : Int) : (s.atbEvt a b c x).spireCount = s.spireCount := by simp [State.atbEvt, State.wrI]
@[simp] theorem State.mediaCut_spireCount : (s.mediaCut t).spireCount = s.spireCount := by simp [State.mediaCut]
@[simp] theorem State.correct_spireCount (x : Int) : (s.correct x).spireCount = s.spireCount := by
  simp [State.correct, State.discontinuity]

@[simp] theorem State.setSrc_spireCount : (s.setSrc a).spireCount = s.spireCount := by simp [State.setSrc]
@[simp] theorem State.toServo_spireCount : (s.toServo t).spireCount = s.spireCount := by simp [State.toServo]
@[simp] theorem State.toFlywheel_spireCount : s.toFlywheel.spireCount = s.spireCount := by simp [State.toFlywheel]
@[simp] theorem State.srcLost_spireCount : (s.srcLost t).spireCount = s.spireCount := by simp [State.srcLost]
@[simp] theorem State.preferServo_spireCount (e0 : Int) : (s.preferServo t e0).spireCount = s.spireCount := by simp [State.preferServo]
@[simp] theorem State.takeSource_spireCount : (s.takeSource t).spireCount = s.spireCount := by
  simp only [State.takeSource, State.takeServo]
  repeat' split
  all_goals simp

@[simp] theorem State.tryLock_spireCount : (s.tryLock t).spireCount = s.spireCount := by simp [State.tryLock]
@[simp] theorem State.setOtwi_spireCount : (s.setOtwi t).spireCount = s.spireCount := by simp [State.setOtwi]
@[simp] theorem State.srvPins_spireCount : (s.srvPins t).spireCount = s.spireCount := by simp [State.srvPins]
@[simp] theorem State.setMode_spireCount : (s.setMode t a).spireCount = s.spireCount := by simp [State.setMode, State.loseLock]
@[simp] theorem State.genStart_spireCount (x : GenKind) : (s.genStart t x).spireCount = s.spireCount := by simp [State.genStart]
@[simp] theorem State.toRetract_spireCount : (s.toRetract t a).spireCount = s.spireCount := by simp [State.toRetract]
@[simp] theorem State.emergency_spireCount : (s.emergency t a).spireCount = s.spireCount := by simp [State.emergency]
@[simp] theorem State.park_spireCount : s.park.spireCount = s.spireCount := by simp [State.park]

/-! ### Machine/Atb.lean -/

@[simp] theorem State.cmpCtlStore_spireCount : (s.cmpCtlStore a v).spireCount = s.spireCount := by simp [State.cmpCtlStore]
@[simp] theorem execComparatorArm_spireCount : ((execComparatorArm a v w s).get s).spireCount = s.spireCount := by
  simp [execComparatorArm, State.cmpArm]

@[simp] theorem execCmpTestFlush_spireCount : ((execCmpTestFlush v s).get s).spireCount = s.spireCount := by simp [execCmpTestFlush]
@[simp] theorem execAtbSkewWrite_spireCount : ((execAtbSkewWrite t v s).get s).spireCount = s.spireCount := by simp [execAtbSkewWrite]
@[simp] theorem execAtbObsOffsetWrite_spireCount : ((execAtbObsOffsetWrite v s).get s).spireCount = s.spireCount := by
  simp [execAtbObsOffsetWrite]

/-! ### Machine/Spn.lean -/

@[simp] theorem State.spnEvt_spireCount : (s.spnEvt a).spireCount = s.spireCount := by simp [State.spnEvt]
@[simp] theorem State.spnIrq_spireCount : (s.spnIrq a).spireCount = s.spireCount := by simp [State.spnIrq]
@[simp] theorem State.spnRefuse_spireCount : s.spnRefuse.spireCount = s.spireCount := by simp [State.spnRefuse]
@[simp] theorem State.gatesOff_spireCount : s.gatesOff.spireCount = s.spireCount := by simp [State.gatesOff, State.setGates]
@[simp] theorem State.setAtSpeed_spireCount : (s.setAtSpeed ok).spireCount = s.spireCount := by simp [State.setAtSpeed]
@[simp] theorem State.syncLose_spireCount : (s.syncLose a).spireCount = s.spireCount := by simp [State.syncLose]
@[simp] theorem State.obsRefresh_spireCount : s.obsRefresh.spireCount = s.spireCount := by simp [State.obsRefresh, State.setObsOk]
@[simp] theorem State.setPmode_spireCount : (s.setPmode a).spireCount = s.spireCount := by simp [State.setPmode]
@[simp] theorem State.spnStart_spireCount : s.spnStart.spireCount = s.spireCount := by simp [State.spnStart, State.spnFault]
@[simp] theorem State.spnStop_spireCount : s.spnStop.spireCount = s.spireCount := by simp [State.spnStop]
@[simp] theorem State.toSlew_spireCount : s.toSlew.spireCount = s.spireCount := by simp [State.toSlew]
@[simp] theorem State.syncCfg_spireCount : (s.syncCfg v).spireCount = s.spireCount := by simp [State.syncCfg]
@[simp] theorem execSpnCfgWrite_spireCount : ((execSpnCfgWrite v s).get s).spireCount = s.spireCount := by
  simp [execSpnCfgWrite, State.underCheck]

/-! ### Machine/Eng.lean -/

@[simp] theorem State.engIrq_spireCount : (s.engIrq u a b).spireCount = s.spireCount := by simp [State.engIrq]
@[simp] theorem State.busyRose_spireCount : (s.busyRose u).spireCount = s.spireCount := by
  unfold State.busyRose
  split <;> simp

@[simp] theorem execProfGo_spireCount : ((execProfGo t s).get s).spireCount = s.spireCount := by simp [execProfGo]
@[simp] theorem State.setProfP_spireCount (p : Int) : (s.setProfP u p).spireCount = s.spireCount := by
  simp [State.setProfP, State.profShow]

@[simp] theorem execProfPWrite_spireCount : ((execProfPWrite t v s).get s).spireCount = s.spireCount := by simp [execProfPWrite]
@[simp] theorem State.idleSwap_spireCount : (s.idleSwap u).spireCount = s.spireCount := by simp [State.idleSwap, State.doSwap]
@[simp] theorem execEngSwap_spireCount : ((execEngSwap u s).get s).spireCount = s.spireCount := by simp [execEngSwap]
@[simp] theorem execFaultClr_spireCount : ((execFaultClr u s).get s).spireCount = s.spireCount := by simp [execFaultClr]
@[simp] theorem execEngCntClr_spireCount : ((execEngCntClr u s).get s).spireCount = s.spireCount := by simp [execEngCntClr]
@[simp] theorem execSlotCfgWrite_spireCount : ((execSlotCfgWrite u a b v s).get s).spireCount = s.spireCount := by simp [execSlotCfgWrite]
@[simp] theorem State.coefInc_spireCount : (s.coefInc u).spireCount = s.spireCount := by simp [State.coefInc]
@[simp] theorem execCoefWrite_spireCount : ((execCoefWrite u v s).get s).spireCount = s.spireCount := by simp [execCoefWrite]
@[simp] theorem execTraceArm_spireCount : ((execTraceArm u s).get s).spireCount = s.spireCount := by simp [execTraceArm]
@[simp] theorem execTraceForce_spireCount : ((execTraceForce u s).get s).spireCount = s.spireCount := by simp [execTraceForce]

/-! ### Machine/Srv.lean -/

@[simp] theorem State.srvIrq_spireCount : (s.srvIrq t a).spireCount = s.spireCount := by simp [State.srvIrq]
@[simp] theorem State.toUnloading_spireCount : (s.toUnloading t).spireCount = s.spireCount := by simp [State.toUnloading]
@[simp] theorem State.srvCmd_spireCount : (s.srvCmd t a).spireCount = s.spireCount := by
  simp only [State.srvCmd, State.toLoading]
  repeat' split
  all_goals simp

@[simp] theorem State.resettle_spireCount : (s.resettle t).spireCount = s.spireCount := by simp [State.resettle]
@[simp] theorem execSrvTrackWrite_spireCount : ((execSrvTrackWrite t v s).get s).spireCount = s.spireCount := by simp [execSrvTrackWrite]
@[simp] theorem execSrvOffsetWrite_spireCount : ((execSrvOffsetWrite t v s).get s).spireCount = s.spireCount := by
  simp [execSrvOffsetWrite]

@[simp] theorem State.srvStart_spireCount : (s.srvStart t).spireCount = s.spireCount := by simp [State.srvStart]
@[simp] theorem State.srvStop_spireCount : (s.srvStop t).spireCount = s.spireCount := by simp [State.srvStop]

/-! ### Machine/Chn.lean -/

@[simp] theorem State.chnIrq_spireCount : (s.chnIrq t a).spireCount = s.spireCount := by simp [State.chnIrq]
@[simp] theorem State.setDec_spireCount (x : Unit3) (x' : Option Decode) : (s.setDec t x x').spireCount = s.spireCount := by
  simp [State.setDec]

@[simp] theorem State.updSlot_spireCount (f : RbSlot → RbSlot) : (s.updSlot t a f).spireCount = s.spireCount := by simp [State.updSlot]
@[simp] theorem State.setPin_spireCount : (s.setPin t a ok).spireCount = s.spireCount := by simp [State.setPin]
@[simp] theorem State.pinWrite_spireCount : (s.pinWrite t ok v).spireCount = s.spireCount := by simp [State.pinWrite]
@[simp] theorem State.setDepth_spireCount : (s.setDepth t).spireCount = s.spireCount := by simp [State.setDepth]
@[simp] theorem State.postAuto_spireCount (modes : List Nat) : (s.postAuto t a modes).spireCount = s.spireCount := by
  unfold State.postAuto
  split <;> simp

@[simp] theorem State.liveEnd_spireCount (r : RecInfo) : (s.liveEnd t a r).spireCount = s.spireCount := by simp [State.liveEnd]
@[simp] theorem State.replayEnd_spireCount (q : RpReq) (cap : CapPlan) (r : RecInfo) : (s.replayEnd t q a cap r).spireCount = s.spireCount := by
  simp [State.replayEnd]

@[simp] theorem State.replayDec_spireCount (q : RpReq) (coef : List (Nat × Nat)) (x : Cand) (rest : List Cand) :
    (s.replayDec t q coef a x rest).spireCount = s.spireCount := by
  simp [State.replayDec]

@[simp] theorem State.liveNext_spireCount (x : Unit3) : (s.liveNext t x).spireCount = s.spireCount := by
  simp only [State.liveNext]
  repeat' split
  all_goals simp

@[simp] theorem State.decFail_spireCount (x : Unit3) (x' : Decode) : (s.decFail t x x' a).spireCount = s.spireCount := by
  unfold State.decFail
  split <;> simp

@[simp] theorem State.rpPush_spireCount : (s.rpPush t).spireCount = s.spireCount := by simp [State.rpPush, State.refuseReq]
@[simp] theorem execChnRpPush_spireCount : ((execChnRpPush t v s).get s).spireCount = s.spireCount := by simp [execChnRpPush]
@[simp] theorem State.chnCoefInc_spireCount : (s.chnCoefInc t).spireCount = s.spireCount := by simp [State.chnCoefInc]
@[simp] theorem execChnCntClr_spireCount : ((execChnCntClr t v s).get s).spireCount = s.spireCount := by simp [execChnCntClr]
@[simp] theorem State.chnStart_spireCount : (s.chnStart t).spireCount = s.spireCount := by simp [State.chnStart]
@[simp] theorem State.decAbort_spireCount (x : Unit3) : (s.decAbort t x).spireCount = s.spireCount := by
  unfold State.decAbort
  split <;> simp

@[simp] theorem State.chnStop_spireCount : (s.chnStop t).spireCount = s.spireCount := by simp [State.chnStop, State.crcAbort]

/-! ### Machine/Wr.lean -/

@[simp] theorem State.twrStop_spireCount : (s.twrStop t).spireCount = s.spireCount := by
  simp only [State.twrStop]
  split <;> simp

@[simp] theorem State.cplIrq_spireCount : (s.cplIrq t a).spireCount = s.spireCount := by simp [State.cplIrq]
@[simp] theorem State.cplStopEnd_spireCount : (s.cplStopEnd t).spireCount = s.spireCount := by simp [State.cplStopEnd, State.cplFwDone]
@[simp] theorem State.lanStop_spireCount : (s.lanStop t).spireCount = s.spireCount := by simp [State.lanStop, State.lanShutDone]
@[simp] theorem State.lanFault_spireCount : (s.lanFault t a).spireCount = s.spireCount := by simp [State.lanFault]
@[simp] theorem State.lanStart_spireCount : (s.lanStart t).spireCount = s.spireCount := by simp [State.lanStart]
@[simp] theorem State.cplStop_spireCount : (s.cplStop t).spireCount = s.spireCount := by simp [State.cplStop]
@[simp] theorem State.cplStart_spireCount : (s.cplStart t).spireCount = s.spireCount := by simp [State.cplStart]
@[simp] theorem State.cplRegCmd_spireCount : (s.cplRegCmd t v).spireCount = s.spireCount := by simp [State.cplRegCmd]

/-! ### Machine/Lay.lean -/

@[simp] theorem State.updLay_spireCount (f : LayState → LayState) : (s.updLay t f).spireCount = s.spireCount := by simp [State.updLay]

/-! ### Machine/Net.lean -/

@[simp] theorem State.updAot_spireCount (f : AotState → AotState) : (s.updAot f).spireCount = s.spireCount := by simp [State.updAot]
@[simp] theorem State.aotIrq_spireCount : (s.aotIrq a).spireCount = s.spireCount := by simp [State.aotIrq]
@[simp] theorem State.setSess_spireCount (x : Sess) : (s.setSess a x).spireCount = s.spireCount := by simp [State.setSess]
@[simp] theorem State.updSess_spireCount (f : Sess → Sess) : (s.updSess a f).spireCount = s.spireCount := by simp [State.updSess]
@[simp] theorem State.setGcm_spireCount (x : Option Nat) : (s.setGcm a x).spireCount = s.spireCount := by simp [State.setGcm]
@[simp] theorem State.sessTx_spireCount (r : TxRec) : (s.sessTx a r).spireCount = s.spireCount := by simp [State.sessTx, State.portTx]
@[simp] theorem State.pump_spireCount : (s.pump a).spireCount = s.spireCount := by simp [State.pump, State.sendFirst]
@[simp] theorem State.sendSeq_spireCount : (s.sendSeq a b c d e j l).spireCount = s.spireCount := by simp [State.sendSeq]
@[simp] theorem State.updObj_spireCount (f : ObjState → ObjState) : (s.updObj f).spireCount = s.spireCount := by simp [State.updObj]
@[simp] theorem State.updCmd_spireCount (f : Cmd → Cmd) : (s.updCmd a b f).spireCount = s.spireCount := by simp [State.updCmd]
@[simp] theorem State.dropObj_spireCount : (s.dropObj a b).spireCount = s.spireCount := by
  unfold State.dropObj State.journalAdd
  split <;> simp

@[simp] theorem State.rawPrefix_spireCount (x : Cmd) : (s.rawPrefix x).spireCount = s.spireCount := by
  simp [State.rawPrefix, State.rawStore]

@[simp] theorem State.stopCmd_spireCount (x : Cmd) : (s.stopCmd x).spireCount = s.spireCount := by
  simp only [State.stopCmd]
  repeat' split
  all_goals simp

@[simp] theorem State.shut_spireCount : (s.shut a b).spireCount = s.spireCount := by simp [State.shut, State.stopCmds]
@[simp] theorem State.sendRel_spireCount : (s.sendRel a b c d e j l).spireCount = s.spireCount := by simp [State.sendRel]
@[simp] theorem State.finish_spireCount (ext : List (Nat × Nat)) (retry : Nat) : (s.finish a b c d l m ext retry).spireCount = s.spireCount := by
  simp [State.finish, State.updTag]

@[simp] theorem State.endCmd_spireCount (x : Cmd) : (s.endCmd x a).spireCount = s.spireCount := by simp [State.endCmd]
@[simp] theorem State.sessFree_spireCount : (s.sessFree a).spireCount = s.spireCount := by simp [State.sessFree]
@[simp] theorem State.aotIdle_spireCount : s.aotIdle.spireCount = s.spireCount := by simp [State.aotIdle]
@[simp] theorem State.sessClose_spireCount : (s.sessClose a b).spireCount = s.spireCount := by simp [State.sessClose, State.aotCount]
@[simp] theorem State.ethStop_spireCount : (s.ethStop a).spireCount = s.spireCount := by simp [State.ethStop, State.linkOff]
@[simp] theorem State.ethStart_spireCount : (s.ethStart a).spireCount = s.spireCount := by simp [State.ethStart]
@[simp] theorem State.sessCtl_spireCount : (s.sessCtl v).spireCount = s.spireCount := by simp [State.sessCtl, State.sessOpen]
@[simp] theorem State.aotStop_spireCount : s.aotStop.spireCount = s.spireCount := by simp [State.aotStop]
@[simp] theorem execEthCntClr_spireCount : ((execEthCntClr a v s).get s).spireCount = s.spireCount := by simp [execEthCntClr]
@[simp] theorem execAotCntClr_spireCount : ((execAotCntClr v s).get s).spireCount = s.spireCount := by simp [execAotCntClr]

/-! ### Machine/Obj.lean -/

@[simp] theorem State.recBegin_spireCount (tok : Option (Nat × Nat)) : (s.recBegin a tok).spireCount = s.spireCount := by
  simp [State.recBegin]

/-! ### Machine/Dom.lean -/

@[simp] theorem State.updDom_spireCount (f : DomState → DomState) : (s.updDom f).spireCount = s.spireCount := by simp [State.updDom]
@[simp] theorem State.domIrq_spireCount : (s.domIrq a).spireCount = s.spireCount := by simp [State.domIrq]
@[simp] theorem State.recWrite_spireCount : (s.recWrite a).spireCount = s.spireCount := by simp [State.recWrite, State.norStore]
@[simp] theorem State.runStarved_spireCount : (s.runStarved t).spireCount = s.spireCount := by
  simp only [State.runStarved]
  split <;> simp

@[simp] theorem State.domError_spireCount : (s.domError a).spireCount = s.spireCount := by simp [State.domError]
@[simp] theorem State.selfTests_spireCount : (s.selfTests a).1.spireCount = s.spireCount := by
  unfold State.selfTests
  split <;> simp

@[simp] theorem State.domCmd_spireCount : (s.domCmd v a).spireCount = s.spireCount := by simp [State.domCmd]
@[simp] theorem State.kbWrite_spireCount : (s.kbWrite v).spireCount = s.spireCount := by simp [State.kbWrite]

/-! ### Machine/Rst.lean -/

@[simp] theorem State.towerReset_spireCount : (s.towerReset t).spireCount = s.spireCount := by simp [State.towerReset, State.mqReset]
@[simp] theorem State.unitReset_spireCount : (s.unitReset a).spireCount = s.spireCount := by
  unfold State.unitReset State.flsLost
  split <;> simp

@[simp] theorem State.domReset_spireCount : (s.domReset a).spireCount = s.spireCount := by simp [State.domReset]
@[simp] theorem State.fuseLoad_spireCount : s.fuseLoad.spireCount = s.spireCount := by simp [State.fuseLoad]
@[simp] theorem State.firmwareLost_spireCount : (s.firmwareLost ok).spireCount = s.spireCount := by simp [State.firmwareLost]
@[simp] theorem State.coreReset_spireCount : (s.coreReset ok).spireCount = s.spireCount := by simp [State.coreReset, State.hartRelease]
@[simp] theorem State.deviceReset_spireCount : (s.deviceReset a).spireCount = s.spireCount := by simp [State.deviceReset, State.pllLock]

/-! ### Machine/Pwr.lean -/

@[simp] theorem State.updPwr_spireCount (f : PwrState → PwrState) : (s.updPwr f).spireCount = s.spireCount := by simp [State.updPwr]
@[simp] theorem State.pwrIrq_spireCount : (s.pwrIrq a b).spireCount = s.spireCount := by simp [State.pwrIrq]
@[simp] theorem State.pwrRefuse_spireCount : s.pwrRefuse.spireCount = s.spireCount := by simp [State.pwrRefuse]
@[simp] theorem State.avsWrite_spireCount : (s.avsWrite v ok).spireCount = s.spireCount := by simp [State.avsWrite, State.avsFail]
@[simp] theorem State.cpuWrite_spireCount : (s.cpuWrite v).spireCount = s.spireCount := by simp [State.cpuWrite]
@[simp] theorem State.domBusy_spireCount (r : DomReq) : (s.domBusy r).spireCount = s.spireCount := by simp [State.domBusy]
@[simp] theorem State.domDown_spireCount : (s.domDown a).spireCount = s.spireCount := by
  simp only [State.domDown, State.domEnd]
  repeat' split
  all_goals simp

@[simp] theorem State.domReqWrite_spireCount : (s.domReqWrite v).spireCount = s.spireCount := by simp [State.domReqWrite, State.domUp]
@[simp] theorem State.belCmd_spireCount : (s.belCmd v).spireCount = s.spireCount := by simp [State.belCmd, State.belIrq]
@[simp] theorem State.belStart_spireCount : s.belStart.spireCount = s.spireCount := by simp [State.belStart]
@[simp] theorem State.pstateWrite_spireCount : (s.pstateWrite v).spireCount = s.spireCount := by simp [State.pstateWrite]

/-! ### Machine/Spr.lean -/

@[simp] theorem State.sprIrq_spireCount : (s.sprIrq a b).spireCount = s.spireCount := by simp [State.sprIrq]
@[simp] theorem State.sprTrace_spireCount : (s.sprTrace sp a l).spireCount = s.spireCount := by simp [State.sprTrace]
@[simp] theorem State.postRec_spireCount : (s.postRec sp v a b c).spireCount = s.spireCount := by simp [State.postRec]
@[simp] theorem State.sprSurround_spireCount : (s.sprSurround sp).spireCount = s.spireCount := by simp [State.sprSurround, State.dropPlan]
@[simp] theorem State.sprLeave_spireCount : (s.sprLeave sp a).spireCount = s.spireCount := by simp [State.sprLeave]
@[simp] theorem State.sprHalt_spireCount : (s.sprHalt sp).spireCount = s.spireCount := by
  simp only [State.sprHalt]
  repeat' split
  all_goals simp

@[simp] theorem State.machineCheck_spireCount : (s.machineCheck sp a).spireCount = s.spireCount := by
  simp only [State.machineCheck]
  split <;> simp

@[simp] theorem State.sprCmd_spireCount : (s.sprCmd a v).spireCount = s.spireCount := by
  unfold State.sprCmd State.sprRun
  split <;> simp

@[simp] theorem State.sprForce_spireCount : (s.sprForce a v).spireCount = s.spireCount := by
  unfold State.sprForce
  split <;> simp

@[simp] theorem State.csInc_spireCount : (s.csInc a).spireCount = s.spireCount := by simp [State.csInc]
@[simp] theorem State.qPush_spireCount : (s.qPush a v).spireCount = s.spireCount := by
  simp only [State.qPush, State.pushTo]
  repeat' split
  all_goals simp

@[simp] theorem State.sprStop_spireCount : (s.sprStop a).spireCount = s.spireCount := by simp [State.sprStop]

/-! ### Machine/Blk.lean -/

@[simp] theorem State.blockStart_spireCount : (s.blockStart a b).spireCount = s.spireCount := by simp [State.blockStart, State.atbStart]
@[simp] theorem State.blockStop_spireCount : (s.blockStop a b).spireCount = s.spireCount := by simp [State.blockStop, State.atbStop]
@[simp] theorem State.enable_spireCount : (s.enable a b).spireCount = s.spireCount := by simp [State.enable, State.toStarting]
@[simp] theorem State.disableBlk_spireCount : (s.disableBlk a b).spireCount = s.spireCount := by simp [State.disableBlk, State.spnOff]
@[simp] theorem State.ctlWrite_spireCount : (s.ctlWrite a b c v).spireCount = s.spireCount := by simp [State.ctlWrite, State.softReset]

/-! ### Machine/Sys.lean -/

@[simp] theorem State.updSys_spireCount (f : SysState → SysState) : (s.updSys f).spireCount = s.spireCount := by simp [State.updSys]
@[simp] theorem State.sysIrq_spireCount : (s.sysIrq a b).spireCount = s.spireCount := by simp [State.sysIrq]
@[simp] theorem State.sysRefuse_spireCount : s.sysRefuse.spireCount = s.spireCount := by simp [State.sysRefuse]
@[simp] theorem State.deferredReset_spireCount : s.deferredReset.spireCount = s.spireCount := by simp [State.deferredReset]
@[simp] theorem State.deferBegin_spireCount : s.deferBegin.spireCount = s.spireCount := by
  unfold State.deferBegin
  split
  · rfl
  · refine (spireCount_foldl _ _ fun q x => q.endCmd_spireCount _ x).trans ?_
    rw [State.updObj_spireCount, State.sysIrq_spireCount, State.wr_spireCount]

@[simp] theorem State.rstReq_spireCount : (s.rstReq v).spireCount = s.spireCount := by simp [State.rstReq]
@[simp] theorem State.wdtLoad_spireCount : s.wdtLoad.spireCount = s.spireCount := by simp [State.wdtLoad]
@[simp] theorem State.wdtKick_spireCount : (s.wdtKick v).spireCount = s.spireCount := by simp [State.wdtKick]
@[simp] theorem State.wdtCfg_spireCount : (s.wdtCfg v).spireCount = s.spireCount := by simp [State.wdtCfg]
@[simp] theorem State.hartRun_spireCount : (s.hartRun v).spireCount = s.spireCount := by simp [State.hartRun]
@[simp] theorem State.rvecWrite_spireCount : (s.rvecWrite a b v).spireCount = s.spireCount := by simp [State.rvecWrite]
@[simp] theorem State.bistCmd_spireCount : (s.bistCmd v).spireCount = s.spireCount := by simp [State.bistCmd]

/-! ### Machine/Bus.lean -/

@[simp] theorem State.unlatch_spireCount : (s.unlatch a).spireCount = s.spireCount := by simp [State.unlatch]
@[simp] theorem State.readEffect_spireCount : (s.readEffect a).spireCount = s.spireCount := by simp [State.readEffect, State.latchAt]
@[simp] theorem State.regRead_spireCount : (s.regRead a b c).1.spireCount = s.spireCount := by simp [State.regRead]
@[simp] theorem State.storeField_spireCount (f : FldDesc) : (s.storeField a b v f).spireCount = s.spireCount := by
  unfold State.storeField
  split <;> simp

@[simp] theorem State.storePlain_spireCount : (s.storePlain a b v).spireCount = s.spireCount := by simp [State.storePlain]
@[simp] theorem State.hdrWrite_spireCount : (s.hdrWrite a v).spireCount = s.spireCount := by simp [State.hdrWrite, State.intForce]
@[simp] theorem State.mbxSet_spireCount : (s.mbxSet v).spireCount = s.spireCount := by simp [State.mbxSet]
@[simp] theorem State.engWrite_spireCount : (s.engWrite u a b v).spireCount = s.spireCount := by simp [State.engWrite, execSlotEnWrite]
@[simp] theorem State.atbWrite_spireCount : (s.atbWrite a b v).spireCount = s.spireCount := by simp [State.atbWrite, execComparatorDisarm]
@[simp] theorem State.srvWrite_spireCount : (s.srvWrite t a b v).spireCount = s.spireCount := by simp [State.srvWrite, execSrvHeadWrite]
@[simp] theorem State.chnWrite_spireCount : (s.chnWrite t a b v).spireCount = s.spireCount := by simp [State.chnWrite, execChnCoefWrite]
@[simp] theorem State.lanWrite_spireCount : (s.lanWrite t a b v).spireCount = s.spireCount := by simp [State.lanWrite, State.ptabWrite]
@[simp] theorem State.sprWrite_spireCount : (s.sprWrite a b c v).spireCount = s.spireCount := by
  simp only [State.sprWrite, State.csWrite]
  repeat' split
  all_goals simp

@[simp] theorem State.dmaWrite_spireCount : (s.dmaWrite a b v).spireCount = s.spireCount := by simp [State.dmaWrite, State.dmaSetup]
@[simp] theorem State.dataWrite_spireCount : (s.dataWrite a b v).spireCount = s.spireCount := by simp [State.dataWrite, State.memCfg]
@[simp] theorem State.baseWrite_spireCount : (s.baseWrite a b v).spireCount = s.spireCount := by simp [State.baseWrite, execFlsCntClr]
@[simp] theorem State.bodyWrite_spireCount : (s.bodyWrite a b v).spireCount = s.spireCount := by
  simp [State.bodyWrite, execSpnGateForceWrite]

@[simp] theorem State.regWrite_spireCount : (s.regWrite a b v).spireCount = s.spireCount := by simp [State.regWrite, State.keyWrite]
@[simp] theorem State.regStore_spireCount : (s.regStore a b c v).1.spireCount = s.spireCount := by simp [State.regStore]
@[simp] theorem State.plicRead_spireCount : (s.plicRead a).1.spireCount = s.spireCount := by
  unfold State.plicRead
  split <;> simp

@[simp] theorem State.plicWrite_spireCount : (s.plicWrite a v).spireCount = s.spireCount := by
  unfold State.plicWrite
  split <;> simp

@[simp] theorem State.aclintWrite_spireCount : (s.aclintWrite a l).spireCount = s.spireCount := by simp [State.aclintWrite]
@[simp] theorem State.ddrReads_spireCount : (s.ddrReads a b c d).1.spireCount = s.spireCount := by
  induction d generalizing s b c with
  | zero => rfl
  | succ n ih => simp [State.ddrReads, ih]

@[simp] theorem State.ddrStores_spireCount : (s.ddrStores a b l c).1.spireCount = s.spireCount := by
  induction c generalizing s b l with
  | zero => rfl
  | succ n ih => simp [State.ddrStores, ih]

@[simp] theorem wordResp_spireCount (r : State × Word) : (wordResp r).1.spireCount = r.1.spireCount := by simp [wordResp]
@[simp] theorem State.busRead_spireCount : (s.busRead a b c).1.spireCount = s.spireCount := by simp [State.busRead, State.plicReadAt]
@[simp] theorem State.busWrite_spireCount : (s.busWrite a b l).1.spireCount = s.spireCount := by simp [State.busWrite, State.flsWriteOp]

end Sys2Proof.Machine
end

section
/-! PROOFS of the rules that the routines of the base image share: reading and writing one spire, a routine that goes on or begins, posts, pushes or
issues an operation, and machine checks. -/

namespace Sys2Proof.Machine

/-! ## Reading and writing one spire -/

/-- A spire that exists has its place in a full list. -/
theorem spireFlat_lt {sp : Spire} (h : spireValid sp = true) : spireFlat sp < 32 := by
  simp only [spireValid, classSize, Bool.and_eq_true, decide_eq_true_eq] at h
  unfold spireFlat
  grind

theorem spire_idx_lt {sp : Spire} (h : spireValid sp = true) : sp.idx < 32 := by
  simp only [spireValid, classSize, Bool.and_eq_true, decide_eq_true_eq] at h
  grind

theorem State.spire_updSpire_same {s : State} {sp : Spire} (h : spireFlat sp < s.spireCount) (f : SpireState → SpireState) :
    (s.updSpire sp f).spire sp = f (s.spire sp) := by
  rw [State.spire, State.updSpire_spires, List.getD_eq_getElem?_getD, List.getElem?_set_self h, Option.getD_some]

theorem State.spire_updSpire_other {s : State} {q sp : Spire} (h : spireFlat sp ≠ spireFlat q) (f : SpireState → SpireState) :
    (s.updSpire sp f).spire q = s.spire q := by
  rw [State.spire, State.updSpire_spires, List.getD_eq_getElem?_getD, List.getElem?_set_ne h, ← List.getD_eq_getElem?_getD, State.spire]

/-- A spire is read from the list of spires alone. -/
theorem State.spire_congr {s r : State} (h : r.spires = s.spires) (sp : Spire) : r.spire sp = s.spire sp := by
  rw [State.spire, h, State.spire]

@[simp] theorem State.wr_spire (s : State) (f : Fld) (x : Nat) (sp : Spire) : (s.wr f x).spire sp = s.spire sp :=
  State.spire_congr (s.wr_spires f x) sp

@[simp] theorem State.sprIrq_spire (s : State) (cls bit : Nat) (sp : Spire) : (s.sprIrq cls bit).spire sp = s.spire sp :=
  State.spire_congr (s.irq_spires _ _ _ _) sp

@[simp] theorem State.sprTrace_spire (s : State) (q : Spire) (kind : Nat) (l : List Byte) (sp : Spire) :
    (s.sprTrace q kind l).spire sp = s.spire sp :=
  State.spire_congr (s.trace_spires _ _ _ _) sp

@[simp] theorem State.hwPost_spire (s : State) (code sev source : Nat) (l : List Byte) (sp : Spire) :
    (s.hwPost code sev source l).spire sp = s.spire sp := by
  unfold State.hwPost
  split
  · rfl
  · exact State.spire_congr (by simp) sp

@[simp] theorem State.setWords_spire (s : State) (a : Nat) (l : List Word) (sp : Spire) : (s.setWords a l).spire sp = s.spire sp := by
  induction l generalizing s a with
  | nil => rfl
  | cons v r ih => exact ih ..

/-- Only a record of a track sequencer tells a band mover (R296). -/
theorem State.postRec_spire {q : Spire} (hcls : q.cls ≠ 0) (s : State) (hdr : Word) (status ra rb : Nat) (sp : Spire) :
    (s.postRec q hdr status ra rb).spire sp = s.spire sp := by
  simp [State.postRec, hcls, apply_ite (fun r : State => r.spire sp)]

/-! ## A routine of the base image goes on, or begins -/

/-- A command that waits in its routine goes on from there, while the spire runs. -/
theorem State.image_of_routine {sp : Spire} {s : State} {c : List Word} {r : MRun} {op : Nat} (begin_ : State → State)
    (go : State → MRun → State) (hrun : Running sp s) (hc : (s.spire sp).running = some c) (hr : (s.spire sp).routine = some r)
    (hop : r.op = op) : s.image sp op begin_ go = go s r := by
  obtain ⟨hvalid, hhalt, -, hst⟩ := hrun
  have hresume : s.resume sp = s := by simp [State.resume, hst]
  simp [State.image, hvalid, hhalt, hst, hc, hr, hop, hresume]

/-- A command that POP has dispatched begins its routine at the entry of its opcode. -/
theorem State.image_of_dispatched {sp : Spire} {s : State} {c : List Word} {op : Nat} (begin_ : State → State)
    (go : State → MRun → State) (hrun : Running sp s) (hc : (s.spire sp).running = some c) (hr : (s.spire sp).routine = none)
    (hpc : (s.spire sp).pc = op) (hop : fieldOf (nth c 0 0) 24 8 = op) : s.image sp op begin_ go = begin_ s := by
  obtain ⟨hvalid, hhalt, -, hst⟩ := hrun
  have hcode : (s.spire sp).opcode = op := by rw [SpireState.opcode, hc]; exact hop
  simp [State.image, hvalid, hhalt, hst, hc, hr, hpc, hcode]

/-! ## A routine posts -/

/-- R294: with an empty queue POP waits. -/
theorem State.waitOn_pop_of_empty {s : State} {sp : Spire} (h : (s.spire sp).queue = []) :
    s.waitOn sp .pop = s.updSpire sp (fun p => { p with sstate := 2, wait := .pop }) := by
  have hready : s.popReady sp = false := by rw [State.popReady, h]
  have hpop : s.pop sp = (s, false) := by rw [State.pop, State.popGo, if_pos hready]
  simp [State.waitOn, State.tryWait, State.waitSide, hpop]

/-- A header that names none of the eight rings posts no record (R295). -/
theorem State.postRec_of_no_ring {hdr : Word} (s : State) (sp : Spire) (status ra rb : Nat) (h : 8 ≤ fieldOf hdr 20 4) :
    s.postRec sp hdr status ra rb = (s.wr (compFld sp) 1).sprTrace sp 2 [BitVec.ofNat 8 status] := if_pos h

theorem compPend_ne_btpStat (cls : Nat) : SPR_COMP_PEND cls ≠ BTP_STAT := by
  unfold SPR_COMP_PEND BTP_STAT
  omega

/-- COMP_PEND is set, and what the trace port makes of the packet stays in BTP_STAT. -/
theorem State.sprTrace_compPend {sp : Spire} (hvalid : spireValid sp = true) (s : State) (l : List Byte) :
    ((s.wr (compFld sp) 1).sprTrace sp 2 l).rd (compFld sp) = 1 ∧
      Changes [SPR_COMP_PEND sp.cls, BTP_STAT] s ((s.wr (compFld sp) 1).sprTrace sp 2 l) := by
  have hset : (s.wr (compFld sp) 1).rd (compFld sp) = 1 := State.rd_wr_same s (compFld sp) 1 (spire_idx_lt hvalid)
  exact ⟨((s.wr (compFld sp) 1).rd_trace _ _ _ l _ (compPend_ne_btpStat sp.cls)).trans hset,
    (s.wr_changes (compFld sp) 1 (.head _)).trans (State.trace_changes _ _ _ _ l (.tail _ (.head _)))⟩

/-- The spire `sp`, found as `p`, has posted its command and waits for the next: COMP_PEND and the trace port are all else that changed. -/
def Posted (sp : Spire) (p : SpireState) (s r : State) : Prop :=
  r.spire sp = { p with running := none, routine := none, sstate := 2, wait := .pop } ∧ r.rd ⟨SPR_COMP_PEND sp.cls, sp.idx, 1⟩ = 1 ∧
    Changes [SPR_COMP_PEND sp.cls, BTP_STAT] s r

/-- A routine posts: with no ring for the record and no command behind it, it leaves COMP_PEND and a trace packet. -/
theorem State.imgPost_posted {s : State} {sp : Spire} (hvalid : spireValid sp = true) (hcount : s.spireCount = 32) (status ra rb : Nat)
    (hqueue : (s.spire sp).queue = []) (hring : 8 ≤ fieldOf (BitVec.ofNat 32 (s.w sp 8)) 20 4) :
    Posted sp (s.spire sp) s (s.imgPost sp status ra rb) := by
  let q := (s.wr (compFld sp) 1).sprTrace sp 2 [BitVec.ofNat 8 status]
  have hrec : s.postRec sp (wd (s.w sp 8)) status ra rb = q := s.postRec_of_no_ring sp status ra rb hring
  have hspire : q.spire sp = s.spire sp := by simp [q]
  have hflat : spireFlat sp < q.spireCount := by simpa [q, State.sprTrace, hcount] using spireFlat_lt hvalid
  have hpost : s.imgPost sp status ra rb = q.updSpire sp (fun p => { p with running := none, routine := none, sstate := 2, wait := .pop }) := by
    rw [State.imgPost, State.postDo, hrec, State.setRoutine, State.updSpire_updSpire, State.waitOn_pop_of_empty, State.updSpire_updSpire]
    rw [State.spire_updSpire_same hflat, hspire]
    exact hqueue
  obtain ⟨hset, hchanges⟩ := s.sprTrace_compPend hvalid [BitVec.ofNat 8 status]
  rw [hpost]
  refine ⟨?_, hset, hchanges.trans (q.updSpire_changes _ _ _)⟩
  rw [State.spire_updSpire_same hflat, hspire]

/-- A spire takes EF0 or EF1 before it posts: the post finds the spire as it is but for that flag. -/
theorem State.imgPost_updSpire_posted {s : State} {sp : Spire} {f : SpireState → SpireState} (hvalid : spireValid sp = true)
    (hcount : s.spireCount = 32) (status ra rb : Nat) (hqueue : (f (s.spire sp)).queue = []) (hw : (f (s.spire sp)).w = (s.spire sp).w)
    (hring : 8 ≤ fieldOf (BitVec.ofNat 32 (s.w sp 8)) 20 4) :
    Posted sp (f (s.spire sp)) s ((s.updSpire sp f).imgPost sp status ra rb) := by
  have hspire : (s.updSpire sp f).spire sp = f (s.spire sp) := State.spire_updSpire_same (hcount ▸ spireFlat_lt hvalid) f
  have hword : (s.updSpire sp f).w sp 8 = s.w sp 8 := by rw [State.w, hspire, hw, State.w]
  obtain ⟨hsp, hset, hchanges⟩ := State.imgPost_posted (s := s.updSpire sp f) hvalid (by rw [State.updSpire_spireCount, hcount]) status ra rb
    (by rw [hspire, hqueue]) (by rwa [hword])
  rw [hspire] at hsp
  exact ⟨hsp, hset, (s.updSpire_changes _ sp f).trans hchanges⟩

/-! ## Band movers -/

/-- A push to one spire whose queue is empty. -/
theorem State.pushTo_one_of_empty {s : State} {q : Spire} (h : (s.spire q).queue = []) (cmd : List Word) :
    s.pushTo [q] cmd = (s.updSpire q (fun p => { p with queue := [upd cmd 0 (withField (nth cmd 0 0) 16 4 0)] }), 0) := by
  simp [State.pushTo, State.updSpire, h]

/-- MASK 2 of a band mover of Tower A names the sequencer A.1. -/
theorem maskSeqs_two_of_towerA {sp : Spire} (hcls : sp.cls = 2) (hidx : sp.idx < 2) : maskSeqs sp 2 = [⟨0, 1⟩] := by
  have htower : sprTower sp = .A := by simp [sprTower, hcls, hidx]
  rw [maskSeqs, htower]
  rfl

/-- A band that the mover writes is an entry of the layout alone (R171). -/
theorem State.moverWrites_frame (s : State) (sp : Spire) (c : List Word) :
    (s.moverWrites sp c).spires = s.spires ∧ Changes [] s (s.moverWrites sp c) := by
  unfold State.moverWrites
  split
  · exact ⟨rfl, fun _ _ => rfl, fun _ => rfl⟩
  · exact ⟨rfl, fun _ _ => rfl, fun _ => rfl⟩

/-- MOVE_RUN with one command for A.1, whose queue is empty: the push is made, and the routine goes to its wait for the completions. -/
theorem State.movePush_eq_of_one {sp : Spire} {cmd : List Word} {s : State} (hcls : sp.cls = 2) (hidx : sp.idx < 2)
    (hon : s.isOn bSPR 0 = true) (hcmd : cmd.length = 8) (hmask : fieldOf (nth cmd 0 0) 16 4 = 2) (hqueue : (s.spire ⟨0, 1⟩).queue = []) :
    s.movePush sp [cmd] { op := 0x20 } =
      ((s.updSpire ⟨0, 1⟩ (fun p => { p with queue := [upd cmd 0 (withField (nth cmd 0 0) 16 4 0)] })).moverWrites sp cmd).setRoutine sp
        (some { op := 0x20, stage := 2, k := 1 }) := by
  have hwords : cmd.take 8 ++ List.replicate (8 - cmd.length) 0 = cmd := by simp [hcmd]
  have hpush : s.moverPush sp (fieldOf (nth cmd 0 0) 16 4) (cmd.take 8 ++ List.replicate (8 - cmd.length) 0) =
      (s.updSpire ⟨0, 1⟩ (fun p => { p with queue := [upd cmd 0 (withField (nth cmd 0 0) 16 4 0)] }), false) := by
    rw [hmask, hwords]
    simp [State.moverPush, maskSeqs_two_of_towerA hcls hidx, hon, State.pushTo_one_of_empty hqueue]
  simp only [State.movePush, List.drop_zero, List.foldl_cons, List.foldl_nil, hpush, Bool.false_eq_true, if_false, Nat.zero_add]

/-- What that leaves: the command in the queue of A.1, the routine in the mover. -/
theorem State.movePush_one {sp : Spire} {cmd : List Word} {s : State} (hvalid : spireValid sp = true) (hcount : s.spireCount = 32)
    (hcls : sp.cls = 2) (hidx : sp.idx < 2) (hon : s.isOn bSPR 0 = true) (hcmd : cmd.length = 8)
    (hmask : fieldOf (nth cmd 0 0) 16 4 = 2) (hqueue : (s.spire ⟨0, 1⟩).queue = []) :
    ((s.movePush sp [cmd] { op := 0x20 }).spire ⟨0, 1⟩).queue = [upd cmd 0 (withField (nth cmd 0 0) 16 4 0)] ∧
      ((s.movePush sp [cmd] { op := 0x20 }).spire sp).routine = some { op := 0x20, stage := 2, k := 1 } ∧
      Changes [] s (s.movePush sp [cmd] { op := 0x20 }) := by
  let q := s.updSpire ⟨0, 1⟩ (fun p => { p with queue := [upd cmd 0 (withField (nth cmd 0 0) 16 4 0)] })
  obtain ⟨hspires, hchanges⟩ := q.moverWrites_frame sp cmd
  have hflat : spireFlat sp < (q.moverWrites sp cmd).spireCount := by
    rw [State.spireCount, hspires, State.length_spires, State.updSpire_spireCount, hcount]
    exact spireFlat_lt hvalid
  have hother : spireFlat sp ≠ spireFlat ⟨0, 1⟩ := by
    have hmover : spireFlat sp = 24 + sp.idx := by simp [spireFlat, hcls]
    have hseq : spireFlat ⟨0, 1⟩ = 1 := rfl
    omega
  rw [State.movePush_eq_of_one hcls hidx hon hcmd hmask hqueue, State.setRoutine]
  refine ⟨?_, ?_, ((s.updSpire_changes _ _ _).trans hchanges).trans (State.updSpire_changes _ _ _ _)⟩
  · rw [State.spire_updSpire_other hother, State.spire_congr hspires, State.spire_updSpire_same (hcount ▸ by decide)]
  · rw [State.spire_updSpire_same hflat]

/-- A band that has been set is the one found under its number. -/
theorem LayState.bandOf_setBand (y : LayState) (x : Band) : (y.setBand x).bandOf x.head x.band = x := by
  simp [LayState.bandOf, LayState.setBand]

/-- A band bears the number that it is looked for under. -/
theorem LayState.bandOf_number (y : LayState) (h b : Nat) : (y.bandOf h b).head = h ∧ (y.bandOf h b).band = b := by
  unfold LayState.bandOf
  cases hfind : y.bands.find? (fun x => x.head == h && x.band == b) with
  | none => exact ⟨rfl, rfl⟩
  | some x => simpa using List.find?_some hfind

/-- The slips that the tail of a band implies: each slip slot stands for the slot that is its SECT_IDX (R167). -/
def tailSlips (tail : List (Nat × List Byte)) : List (Nat × Nat) :=
  (tail.filter (fun e => decide (65536 ≤ e.1) && byteAt e.2 15 / 2 % 2 == 1)).map (fun e => (leNat ((e.2.drop 8).take 5), e.1))

/-- The band that a scan has mapped has the slips of its tail. -/
theorem State.slips_slipMap (s : State) (t : Tower) (h b : Nat) (tail : List (Nat × List Byte)) :
    (((s.slipMap t h b tail).lay.get t).bandOf h b).slips = tailSlips tail := by
  have hlay : (s.slipMap t h b tail).lay.get t = (s.lay.get t).setBand { (s.lay.get t).bandOf h b with slips := tailSlips tail } := by
    rw [State.slipMap, State.updLay, Two.get_set, if_pos rfl, tailSlips]
  have hset := (s.lay.get t).bandOf_setBand { (s.lay.get t).bandOf h b with slips := tailSlips tail }
  obtain ⟨hhead, hband⟩ := (s.lay.get t).bandOf_number h b
  rw [hhead, hband] at hset
  rw [hlay, hset]

/-! ## Integrity engines -/

/-- An operation that the integrity engine takes (R286). -/
theorem State.imgIssue_of_accepted {s : State} {sp : Spire} {fn ra : Nat} (r : MRun) (rb : Nat) (hop : (s.spire sp).intOp = none)
    (hon : s.isOn bFIX 0 = true) (hok : s.intOk fn ra = true) : s.imgIssue sp r fn ra rb =
      ((s.updSpire sp (fun p => { p with intOp := some (fn, ra, rb) })).wr ⟨FIX_BUSY, sp.idx, 1⟩ 1).setRoutine sp (some r) := by
  simp [State.imgIssue, State.intIssue, hop, hon, hok]

/-- An operation that it does not take: the routine posts REFUSED. -/
theorem State.imgIssue_of_not_intOk {s : State} {sp : Spire} {fn ra : Nat} (r : MRun) (rb : Nat) (hok : s.intOk fn ra = false) :
    s.imgIssue sp r fn ra rb = s.imgPost sp 1 0 0 := by
  simp [State.imgIssue, State.intIssue, hok]

/-- What an accepted operation leaves: the operation and the routine in the spire, and BUSY. -/
theorem State.imgIssue_accepted {s : State} {sp : Spire} {fn ra : Nat} (r : MRun) (rb : Nat) (hvalid : spireValid sp = true)
    (hcount : s.spireCount = 32) (hop : (s.spire sp).intOp = none) (hon : s.isOn bFIX 0 = true) (hok : s.intOk fn ra = true) :
    (s.imgIssue sp r fn ra rb).spire sp = { s.spire sp with intOp := some (fn, ra, rb), routine := some r } ∧
      (s.imgIssue sp r fn ra rb).rd ⟨FIX_BUSY, sp.idx, 1⟩ = 1 ∧ Changes [FIX_BUSY] s (s.imgIssue sp r fn ra rb) := by
  let q := s.updSpire sp (fun p => { p with intOp := some (fn, ra, rb) })
  have hflat : spireFlat sp < s.spireCount := hcount ▸ spireFlat_lt hvalid
  rw [State.imgIssue_of_accepted r rb hop hon hok, State.setRoutine]
  refine ⟨?_, State.rd_wr_same q ⟨FIX_BUSY, sp.idx, 1⟩ 1 (spire_idx_lt hvalid), ?_⟩
  · rw [State.spire_updSpire_same (by simpa using hflat), State.wr_spire, State.spire_updSpire_same hflat]
  · exact ((s.updSpire_changes _ sp _).trans (q.wr_changes ⟨FIX_BUSY, sp.idx, 1⟩ 1 (.head _))).trans (State.updSpire_changes _ _ _ _)

/-- A spire that is no track sequencer stops without a word to its surroundings. -/
theorem State.sprLeave_of_cls_ne_zero {sp : Spire} (hcls : sp.cls ≠ 0) (s : State) (st : Nat) :
    s.sprLeave sp st = s.updSpire sp (fun p => { p with sstate := st, wait := .none }) := by
  rw [State.sprLeave, State.sprSurround, if_neg hcls]

/-- A machine check leaves a spire that is no track sequencer in MCHECK with its cause (R300). -/
theorem State.machineCheck_sstate_cause {s : State} {sp : Spire} (hcls : sp.cls ≠ 0) (hflat : spireFlat sp < s.spireCount) (cause : Nat) :
    ((s.machineCheck sp cause).spire sp).sstate = 3 ∧ ((s.machineCheck sp cause).spire sp).mcCause = cause := by
  unfold State.machineCheck
  dsimp only
  rw [State.sprLeave_of_cls_ne_zero hcls, State.updSpire_updSpire]
  split <;> simp [hflat, State.spire_updSpire_same, State.postRec_spire hcls]

theorem sprPort_of_integrity {sp : Spire} (hcls : sp.cls = 3) : sprPort sp = 11 := by
  simp [sprPort, towerSpire, hcls]

section
variable {s : State} {sp : Spire} {x : State × Resp} {y : State × Bool}

/-- PARITY_OUT posts a copy of which the read and the write were served. -/
theorem State.parityOut_of_served (hcls : sp.cls = 3)
    (hx : s.busRead 11 (Config.imgField 0x32 0 ((s.spire sp).w.drop 8)) (s.imgField sp 2) = x)
    (hy : x.1.busWrite 11 (s.imgField sp 1) x.2.data = y) (hread : x.2.err.isEmpty = true) (hwrite : y.2 = true) :
    s.parityOut sp = y.1.imgPost sp 0 0 0 := by
  simp only [State.parityOut, sprPort_of_integrity hcls, hx, hy, hread, hwrite, Bool.and_self, if_true]

/-- A copy of which the read or the write failed is a BUS machine check of the integrity engine (R300): no access of the fabric takes the spire
out of the list. -/
theorem State.parityOut_of_failed (hvalid : spireValid sp = true) (hcount : s.spireCount = 32) (hcls : sp.cls = 3)
    (hx : s.busRead 11 (Config.imgField 0x32 0 ((s.spire sp).w.drop 8)) (s.imgField sp 2) = x)
    (hy : x.1.busWrite 11 (s.imgField sp 1) x.2.data = y) (hfail : x.2.err.isEmpty = false ∨ y.2 = false) :
    ((s.parityOut sp).spire sp).sstate = 3 ∧ ((s.parityOut sp).spire sp).mcCause = 3 := by
  have hnot : ¬ (x.2.err.isEmpty && y.2) = true := by grind
  have hcheck : s.parityOut sp = y.1.busCheck sp (s.spire sp).pc := by
    simp only [State.parityOut, sprPort_of_integrity hcls, hx, hy, if_neg hnot]
  have hflat : spireFlat sp < (y.1.setPc sp (s.spire sp).pc).spireCount := by
    rw [State.setPc, State.updSpire_spireCount, ← hy, State.busWrite_spireCount, ← hx, State.busRead_spireCount, hcount]
    exact spireFlat_lt hvalid
  rw [hcheck, State.busCheck]
  exact State.machineCheck_sstate_cause (by omega) hflat mcBUS

end

end Sys2Proof.Machine
end

section
/-! PROOFS of the statements of chapter 6, media layout: the routines of the base image for band movers and integrity engines (R167, R172, R184,
R272, R286), each from its entry or from its wait. -/

namespace Sys2Proof.Machine

/-- Settles O19: each routine begins at its entry or goes on from its wait, and issues an operation of its engine, pushes or posts; after a copy
that failed, the spire is still there to take its machine check. -/
theorem baseImageObjectRows : Obligations.BaseImageObjectRows := by
  refine ⟨?moveWait, ?moveBegin, ?scan, ?hash, ?hashWait, ?acc, ?out, ?rebuild, ?rebuildWait⟩
  case moveWait =>
    intro sp c cmds failed s hrun hcls hc hr hef hqueue hring
    have hexec : exec (.moveRun sp cmds failed) s = .next (s.moveGo sp cmds failed { op := 0x20, stage := 2 }) :=
      congrArg Host.Outcome.next ((if_pos hcls).trans (State.image_of_routine _ _ hrun hc hr rfl))
    have hgo : s.moveGo sp cmds failed { op := 0x20, stage := 2 } =
        (s.updSpire sp (fun p => { p with ef1 := false })).imgPost sp 0 (failed % 2 ^ 32) 0 := by
      rw [State.moveGo, if_neg (by decide), if_pos hef]
    obtain ⟨hvalid, -, hcount, -⟩ := hrun
    exact ⟨_, hexec.trans (congrArg _ hgo), State.imgPost_updSpire_posted hvalid hcount _ _ _ hqueue rfl hring⟩
  case moveBegin =>
    intro sp c cmd s hrun hcls hc hr hpc hop hidx hon hcmd hmask hqueue
    have hexec : exec (.moveRun sp [cmd] 0) s = .next (s.movePush sp [cmd] { op := 0x20 }) :=
      congrArg Host.Outcome.next ((if_pos hcls).trans (State.image_of_dispatched _ _ hrun hc hr hpc hop))
    obtain ⟨hvalid, -, hcount, -⟩ := hrun
    exact ⟨_, hexec, State.movePush_one hvalid hcount hcls hidx hon hcmd hmask hqueue⟩
  case scan =>
    intro sp c tail head band s hrun hcls hc hr hpc hop hqueue hring
    let q := s.slipMap (sprTower sp) head band tail
    have hexec : exec (.tailScan sp tail head band 0) s = .next (q.imgPost sp 0 0 0) :=
      congrArg Host.Outcome.next ((if_pos hcls).trans (State.image_of_dispatched _ _ hrun hc hr hpc hop))
    have hlay : (q.imgPost sp 0 0 0).lay = q.lay := q.imgPost_layIs sp 0 0 0 rfl
    obtain ⟨hvalid, -, hcount, -⟩ := hrun
    refine ⟨_, hexec, ?_, State.imgPost_posted (s := q) hvalid hcount _ _ _ hqueue hring⟩
    rw [hlay]
    exact s.slips_slipMap (sprTower sp) head band tail
  case hash =>
    intro sp c s hrun hcls hc hr hpc hop hint hon
    have hexec : exec (.hash sp) s = .next (s.imgIssue sp { op := 0x30, stage := 1 } 0 (s.imgField sp 0) 0) :=
      congrArg Host.Outcome.next ((if_pos hcls).trans (State.image_of_dispatched _ _ hrun hc hr hpc hop))
    obtain ⟨hvalid, -, hcount, -⟩ := hrun
    exact ⟨_, hexec, State.imgIssue_accepted _ _ hvalid hcount hint hon rfl⟩
  case hashWait =>
    intro sp c s hrun hcls hc hr hef hqueue hring
    have hexec : exec (.hash sp) s = .next (s.hashGo sp { op := 0x30, stage := 2 }) :=
      congrArg Host.Outcome.next ((if_pos hcls).trans (State.image_of_routine _ _ hrun hc hr rfl))
    have hgo : s.hashGo sp { op := 0x30, stage := 2 } = (s.updSpire sp (fun p => { p with ef0 := false })).imgPost sp 0 0 0 := by
      rw [State.hashGo, State.ef0Take, if_pos hef, if_pos rfl]
    obtain ⟨hvalid, -, hcount, -⟩ := hrun
    exact ⟨_, hexec.trans (congrArg _ hgo), State.imgPost_updSpire_posted hvalid hcount _ _ _ hqueue rfl hring⟩
  case acc =>
    intro sp c s hrun hcls hc hr hpc hop hint hon
    have hexec : exec (.parityAcc sp) s = .next (s.imgIssue sp { op := 0x31, k := 1 } 3 (s.imgField sp 0) 0) :=
      congrArg Host.Outcome.next ((if_pos hcls).trans (State.image_of_dispatched _ _ hrun hc hr hpc hop))
    obtain ⟨hvalid, -, hcount, -⟩ := hrun
    exact ⟨_, hexec, State.imgIssue_accepted _ _ hvalid hcount hint hon, State.imgIssue_of_not_intOk _ _⟩
  case out =>
    intro sp c s hrun hcls hc hr hpc hop
    have hexec : exec (.parityOut sp) s = .next (s.parityOut sp) :=
      congrArg Host.Outcome.next ((if_pos hcls).trans (State.image_of_dispatched _ _ hrun hc hr hpc hop))
    obtain ⟨hvalid, -, hcount, -⟩ := hrun
    exact ⟨_, hexec, fun ⟨hread, hwrite⟩ => State.parityOut_of_served hcls rfl rfl hread hwrite,
      State.parityOut_of_failed hvalid hcount hcls rfl rfl⟩
  case rebuild =>
    intro sp c s hrun hcls hc hr hpc hop hint hon
    have hexec : exec (.rebuild sp) s = .next (s.imgIssue sp { op := 0x33, stage := 1 } 4 (s.imgField sp 0) 0) :=
      congrArg Host.Outcome.next ((if_pos hcls).trans (State.image_of_dispatched _ _ hrun hc hr hpc hop))
    obtain ⟨hvalid, -, hcount, -⟩ := hrun
    exact ⟨_, hexec, State.imgIssue_accepted _ _ hvalid hcount hint hon rfl⟩
  case rebuildWait =>
    intro sp c s hrun hcls hc hr hef hqueue hring
    have hexec : exec (.rebuild sp) s = .next (s.ef0Take sp (fun s => s.imgPost sp 0 0 0)) :=
      congrArg Host.Outcome.next ((if_pos hcls).trans (State.image_of_routine _ _ hrun hc hr rfl))
    have hgo : s.ef0Take sp (fun s => s.imgPost sp 0 0 0) = (s.updSpire sp (fun p => { p with ef0 := false })).imgPost sp 0 0 0 := if_pos hef
    obtain ⟨hvalid, -, hcount, -⟩ := hrun
    exact ⟨_, hexec.trans (congrArg _ hgo), State.imgPost_updSpire_posted hvalid hcount _ _ _ hqueue rfl hring⟩

end Sys2Proof.Machine
end

section
/-! PROOFS of the rules that the commands of the read channel share. -/

namespace Sys2Proof

open Sys2Proof.Machine

/-! ## Frames -/

theorem SameMem.out {l : List (Nat × Nat)} {s r : State} (h : SameMem s r) : SameMemOut l s r := fun b _ => h b

theorem SameMemOut.trans {l : List (Nat × Nat)} {s q r : State} (h : SameMemOut l s q) (h' : SameMemOut l q r) : SameMemOut l s r :=
  fun b hb => (h' b hb).trans (h b hb)

theorem SameMemOut.mono {l l' : List (Nat × Nat)} {s r : State} (h : SameMemOut l s r) (hl : l ⊆ l') : SameMemOut l' s r :=
  fun b hb => h b (fun e he => hb e (hl he))

theorem Changes.ite {l : List Nat} {s x y : State} {p : Prop} [Decidable p] (hx : Changes l s x) (hy : Changes l s y) :
    Changes l s (if p then x else y) := by
  split
  · exact hx
  · exact hy

end Sys2Proof

namespace Sys2Proof.Machine

@[simp] theorem Two.get_set_same {α : Type} (x : Two α) (t : Tower) (v : α) : (x.set t v).get t = v := by
  rw [Two.get_set, if_pos rfl]

@[simp] theorem Two.set_get_self {α : Type} (x : Two α) (t : Tower) : x.set t (x.get t) = x := by cases t <;> rfl

theorem State.updChn_of_fixed {s : State} {t : Tower} {f : ChnState → ChnState} (h : f (s.chn.get t) = s.chn.get t) : s.updChn t f = s := by
  rw [State.updChn, h, Two.set_get_self]

/-- An update made or not is one update. -/
theorem State.updChn_ite {p : Prop} [Decidable p] (s : State) (t : Tower) (f : ChnState → ChnState) :
    (if p then s.updChn t f else s) = s.updChn t (fun c => if p then f c else c) := by
  split
  · rfl
  · exact (State.updChn_of_fixed rfl).symm

theorem State.irq_changes {l : List Nat} (s : State) (b i p bit : Nat) (h : pageBase b i p + 0x10 ∈ l) : Changes l s (s.irq b i p bit) :=
  s.wr_changes ⟨pageBase b i p + 0x10, bit, 1⟩ 1 h

/-- The count of a branch that counts or not. -/
theorem State.bump_ite_changes {l : List Nat} {s q : State} {p : Prop} [Decidable p] {f : Fld} (k : Nat) (h : Changes l s q) (hf : f.addr ∈ l) :
    Changes l s (if p then q.bump f k else q) :=
  .ite (h.trans (q.wr_changes f _ hf)) h

/-! ## The read channels and memory -/

/-- The read channels and memory, which counts, warnings, learning, verdicts and notifications leave as they are. -/
def State.chnMem (s : State) : Two ChnState × List Host.Cell := (s.chn, s.mem)

theorem State.chn_of_chnMem {s r : State} (h : r.chnMem = s.chnMem) : r.chn = s.chn := congrArg Prod.fst h

theorem State.sameMem_of_chnMem {s r : State} (h : r.chnMem = s.chnMem) : SameMem s r :=
  fun a => congrArg (fun m : Two ChnState × List Host.Cell => memLookup m.2 a) h

@[simp] theorem State.chnMem_ite {p : Prop} [Decidable p] (x y : State) :
    (if p then x else y).chnMem = if p then x.chnMem else y.chnMem := apply_ite ..

section
variable (s : State) (t : Tower) (c : CapPlan) (x : RecInfo)

@[simp] theorem State.wr_chnMem (f : Fld) (v : Nat) : (s.wr f v).chnMem = s.chnMem := by rw [State.chnMem, State.wr_chn, State.wr_mem, State.chnMem]
@[simp] theorem State.bump_chnMem (f : Fld) (k : Nat) : (s.bump f k).chnMem = s.chnMem := s.wr_chnMem f _
@[simp] theorem State.irq_chnMem (b i p bit : Nat) : (s.irq b i p bit).chnMem = s.chnMem := s.wr_chnMem _ _
@[simp] theorem State.updLan_chnMem (f : LanState → LanState) : (s.updLan t f).chnMem = s.chnMem := rfl
@[simp] theorem State.updCpl_chnMem (f : CplState → CplState) : (s.updCpl t f).chnMem = s.chnMem := rfl
@[simp] theorem State.note_chnMem (owner : Nat) (w : Word) : (s.note t owner w).chnMem = s.chnMem := rfl

@[simp] theorem State.hwPost_chnMem (code sev source : Nat) (l : List Byte) : (s.hwPost code sev source l).chnMem = s.chnMem := by
  unfold State.hwPost
  split
  · rfl
  · rw [State.irq_chnMem, State.bump_chnMem]

@[simp] theorem State.headWarn_chnMem (f : Fld) (h bit : Nat) : (s.headWarn t f h bit).chnMem = s.chnMem := by simp [State.headWarn]
@[simp] theorem State.lanAssist_chnMem : (s.lanAssist t).chnMem = s.chnMem := by simp [State.lanAssist]
@[simp] theorem State.lanLearn_chnMem (head zone : Nat) (failed : Bool) (eber locals : Nat) :
    (s.lanLearn t head zone failed eber locals).chnMem = s.chnMem := by
  simp [State.lanLearn]

@[simp] theorem State.sectorSeen_chnMem (live : Bool) (mode : Nat) : (s.sectorSeen t c x live mode).chnMem = s.chnMem := by
  unfold State.sectorSeen
  dsimp only
  split <;> rfl

@[simp] theorem State.chnCounts_chnMem : (s.chnCounts t x).chnMem = s.chnMem := by simp [State.chnCounts]

/-- Of the read channels and memory an outcome leaves what its record leaves. -/
theorem State.liveOutcome_chnMem : (s.liveOutcome t c x).chnMem = ((s.chnCounts t x).chnRecord t c x).chnMem := by
  simp [State.liveOutcome]

end

/-! ## Bytes -/

theorem State.setBytes_regs (l : List Byte) (s : State) (a : Nat) : (s.setBytes a l).regs = s.regs := by
  induction l generalizing s a with
  | nil => rfl
  | cons v r ih => exact ih ..

theorem State.setBytes_chn (l : List Byte) (s : State) (a : Nat) : (s.setBytes a l).chn = s.chn := by
  induction l generalizing s a with
  | nil => rfl
  | cons v r ih => exact ih ..

theorem State.bytes_congr {s r : State} (h : r.mem = s.mem) (a n : Nat) : r.bytes a n = s.bytes a n := by
  induction n generalizing a with
  | zero => rfl
  | succ n ih => rw [State.bytes, ih, State.byte, h, State.bytes, State.byte]

/-- A list of bytes leaves every byte outside it. -/
theorem State.setBytes_sameMemOut (s : State) (a : Nat) (l : List Byte) : SameMemOut [(a, l.length)] s (s.setBytes a l) := by
  intro b hb
  rcases hb _ (List.mem_singleton_self _) with h | h
  · exact State.byte_setBytes_below l s a b h
  · exact State.byte_setBytes_above l s a b h

/-- Bytes that read as a list are that list. -/
theorem State.bytes_eq (s : State) (l : List Byte) (a : Nat) (h : ∀ k, (hk : k < l.length) → s.byte (a + k) = l[k]) : s.bytes a l.length = l := by
  induction l generalizing a with
  | nil => rfl
  | cons v r ih =>
    have hhead : s.byte a = v := h 0 (Nat.succ_pos _)
    have htail : s.bytes (a + 1) r.length = r := ih (a + 1) fun k hk => by
      rw [Nat.add_assoc, Nat.add_comm 1 k]
      exact h (k + 1) (Nat.succ_lt_succ hk)
    rw [List.length_cons, State.bytes, hhead, htail]

theorem leBytes_length (n x : Nat) : (leBytes n x).length = n := by
  induction n generalizing x with
  | zero => rfl
  | succ n ih => exact congrArg (· + 1) (ih _)

theorem State.setWords_regs (l : List Word) (s : State) (a : Nat) : (s.setWords a l).regs = s.regs := by
  induction l generalizing s a with
  | nil => rfl
  | cons w r ih => exact (ih ..).trans (State.setBytes_regs _ s a)

theorem State.setWords_chn (l : List Word) (s : State) (a : Nat) : (s.setWords a l).chn = s.chn := by
  induction l generalizing s a with
  | nil => rfl
  | cons w r ih => exact (ih ..).trans (State.setBytes_chn _ s a)

/-- A list of words leaves every byte outside it. -/
theorem State.setWords_sameMemOut (l : List Word) (s : State) (a : Nat) : SameMemOut [(a, 4 * l.length)] s (s.setWords a l) := by
  induction l generalizing s a with
  | nil => exact fun _ _ => rfl
  | cons w r ih =>
    intro b hb
    have hout : b < a ∨ a + 4 * (r.length + 1) ≤ b := hb _ (List.mem_singleton_self _)
    have hword : (s.setWord a w).byte b = s.byte b :=
      s.setBytes_sameMemOut a (leBytes 4 w.toNat) b (by simp [leBytes_length]; omega)
    have hrest : ((s.setWord a w).setWords (a + 4) r).byte b = (s.setWord a w).byte b := ih _ _ b (by simp; omega)
    exact hrest.trans hword

/-- A state with the registers of another reads them alike. -/
theorem State.reg_congr {s r : State} (h : r.regs = s.regs) (a : Nat) : r.reg a = s.reg a := by rw [State.reg, h, State.reg]

theorem State.rd_congr {s r : State} {f : Fld} (h : r.reg f.addr = s.reg f.addr) : r.rd f = s.rd f := by rw [State.rd, h, State.rd]

/-! ## Counts and records of outcomes -/

/-- The counts of one outcome are registers of page CHN 6. -/
theorem State.chnCounts_changes (s : State) (t : Tower) (x : RecInfo) :
    Changes [CHN_CNT_CONV t.idx, CHN_CNT_FAIL t.idx, CHN_CNT_SYNC t.idx, CHN_CNT_CAND t.idx, CHN_CNT_REPLAY t.idx] s (s.chnCounts t x) := by
  have hstart : ∀ l, Changes l s s := fun _ => ⟨fun _ _ => rfl, fun _ => rfl⟩
  unfold State.chnCounts
  refine bump_ite_changes _ (bump_ite_changes _ (bump_ite_changes _ (bump_ite_changes _ (bump_ite_changes _ (bump_ite_changes _
    (bump_ite_changes _ (hstart _) ?conv) ?cand) ?noSlot) ?incomplete) ?live) ?miss) ?replay
  all_goals simp [CHN_CNT_CONV_COUNT, CHN_CNT_FAIL_NO_SLOT, CHN_CNT_FAIL_INCOMPLETE, CHN_CNT_FAIL_LIVE_FAIL, CHN_CNT_SYNC_MISS,
    CHN_CNT_REPLAY_CONV]

/-- Where the result ring of a Tower takes its next record (R220): the first address, and the length. -/
def State.ringSlot (s : State) (t : Tower) : Nat × Nat :=
  (s.rd (CHN_RING_BASE_BASE t.idx) + 32 * (s.rd (CHN_RING_PROD_INDEX t.idx) % ringSize (s.rd (CHN_RING_CFG_LOG2SIZE t.idx)) 4 12 8), 32)

/-- The place of the next record goes by CHN_RING_BASE, CHN_RING_CFG and CHN_RING_PROD. -/
theorem State.ringSlot_congr {l : List Nat} {s r : State} {t : Tower} (h : OnlyRegs l s r)
    (hbase : CHN_RING_BASE t.idx ∉ l) (hcfg : CHN_RING_CFG t.idx ∉ l) (hprod : CHN_RING_PROD t.idx ∉ l) : r.ringSlot t = s.ringSlot t := by
  simp only [State.ringSlot, State.rd, CHN_RING_BASE_BASE, CHN_RING_CFG_LOG2SIZE, CHN_RING_PROD_INDEX, h _ hbase, h _ hcfg, h _ hprod]

theorem State.ringSlot_chnCounts (s : State) (t : Tower) (x : RecInfo) : (s.chnCounts t x).ringSlot t = s.ringSlot t := by
  refine State.ringSlot_congr (s.chnCounts_changes t x).1 ?_ ?_ ?_ <;> cases t <;> decide

/-- What a record makes of the result ring (R220, R222): it enters at the producer's place, or is dropped when the ring is full. -/
def State.ringPut (s : State) (t : Tower) (c : CapPlan) (x : RecInfo) : State :=
  if (s.rd (CHN_RING_PROD_INDEX t.idx) + 65536 - s.rd (CHN_RING_CONS_INDEX t.idx)) % 65536
      = ringSize (s.rd (CHN_RING_CFG_LOG2SIZE t.idx)) 4 12 8 then
    (s.irq bCHN t.idx 0 27).bump (CHN_CNT_FAIL_RING_DROP t.idx) 1
  else
    ((s.setWords (s.ringSlot t).1 (recWords s t c x)).wr (CHN_RING_PROD_INDEX t.idx) (s.rd (CHN_RING_PROD_INDEX t.idx) + 1)).irq
      bCHN t.idx 0 28

/-- The interrupts of the outcomes that raise one. -/
def State.outcomeIrqs (s : State) (t : Tower) (x : RecInfo) : State :=
  let s2 := if x.outcome = 0 then s else s.irq bCHN t.idx 0 26
  let s3 := if x.outcome = 3 then s2.irq bCHN t.idx 0 25 else s2
  if x.outcome = 5 then s3.irq bCHN t.idx 0 20 else s3

theorem State.chnRecord_eq (s : State) (t : Tower) (c : CapPlan) (x : RecInfo) :
    s.chnRecord t c x = (s.ringPut t c x).outcomeIrqs t x := rfl

theorem State.outcomeIrqs_chnMem (s : State) (t : Tower) (x : RecInfo) : (s.outcomeIrqs t x).chnMem = s.chnMem := by
  simp [State.outcomeIrqs]

theorem State.outcomeIrqs_reg (s : State) (t : Tower) (x : RecInfo) {a : Nat} (h : a ≠ pageBase bCHN t.idx 0 + 0x10) :
    (s.outcomeIrqs t x).reg a = s.reg a := by
  have hirq : ∀ (q : State) bit, (q.irq bCHN t.idx 0 bit).reg a = q.reg a := fun q bit =>
    (q.irq_changes bCHN t.idx 0 bit (List.mem_singleton_self _)).1 a (by simpa using h)
  simp only [State.outcomeIrqs, apply_ite (fun q : State => q.reg a), hirq, ite_self]

theorem State.ringPut_chn (s : State) (t : Tower) (c : CapPlan) (x : RecInfo) : (s.ringPut t c x).chn = s.chn := by
  unfold State.ringPut
  split
  · rw [State.bump_chn, State.irq_chn]
  · rw [State.irq_chn, State.wr_chn, State.setWords_chn]

/-- The record is the eight words at the producer's place. -/
theorem State.ringPut_sameMemOut (s : State) (t : Tower) (c : CapPlan) (x : RecInfo) : SameMemOut [s.ringSlot t] s (s.ringPut t c x) := by
  unfold State.ringPut
  split
  · exact fun b _ => by rw [State.bump_byte, State.irq_byte]
  · intro b hb
    rw [State.irq_byte, State.wr_byte]
    exact s.setWords_sameMemOut (recWords s t c x) (s.ringSlot t).1 b hb

theorem State.ringPut_reg (s : State) (t : Tower) (c : CapPlan) (x : RecInfo) {a : Nat}
    (h : a ∉ [pageBase bCHN t.idx 0 + 0x10, CHN_RING_PROD t.idx, CHN_CNT_FAIL t.idx]) : (s.ringPut t c x).reg a = s.reg a := by
  simp only [List.mem_cons, List.not_mem_nil, or_false, not_or] at h
  obtain ⟨hint, hprod, hfail⟩ := h
  unfold State.ringPut
  split
  · rw [State.bump, State.reg_wr_other _ _ _ _ (Ne.symm hfail), State.irq, State.reg_wr_other _ _ _ _ (Ne.symm hint)]
  · rw [State.irq, State.reg_wr_other _ _ _ _ (Ne.symm hint), State.reg_wr_other _ _ _ _ (Ne.symm hprod),
      State.reg_congr (State.setWords_regs ..)]

/-- A record leaves the read channels, every byte outside its place, and every register but those of the ring and the interrupts. -/
theorem State.chnRecord_leaves (s : State) (t : Tower) (c : CapPlan) (x : RecInfo) :
    (s.chnRecord t c x).chn = s.chn ∧ SameMemOut [s.ringSlot t] s (s.chnRecord t c x) ∧
      OnlyRegs [pageBase bCHN t.idx 0 + 0x10, CHN_RING_PROD t.idx, CHN_CNT_FAIL t.idx] s (s.chnRecord t c x) := by
  have hirqs := (s.ringPut t c x).outcomeIrqs_chnMem t x
  rw [State.chnRecord_eq]
  refine ⟨(State.chn_of_chnMem hirqs).trans (s.ringPut_chn t c x), ?_, fun a ha => ?_⟩
  · exact (s.ringPut_sameMemOut t c x).trans (State.sameMem_of_chnMem hirqs).out
  · rw [State.outcomeIrqs_reg _ _ _ (List.ne_of_not_mem_cons ha), State.ringPut_reg s t c x ha]

/-- A live outcome leaves the read channels, and every byte outside the place of its record. -/
theorem State.liveOutcome_leaves (s : State) (t : Tower) (c : CapPlan) (x : RecInfo) :
    (s.liveOutcome t c x).chn = s.chn ∧ SameMemOut [s.ringSlot t] s (s.liveOutcome t c x) := by
  have hcounts := s.chnCounts_chnMem t x
  have houtcome := s.liveOutcome_chnMem t c x
  obtain ⟨hchn, hmem, -⟩ := (s.chnCounts t x).chnRecord_leaves t c x
  rw [State.ringSlot_chnCounts] at hmem
  refine ⟨(State.chn_of_chnMem houtcome).trans (hchn.trans (State.chn_of_chnMem hcounts)), ?_⟩
  exact ((State.sameMem_of_chnMem hcounts).out.trans hmem).trans (State.sameMem_of_chnMem houtcome).out

/-! ## Slots -/

theorem nth_upd_same {α : Type} {l : List α} {k : Nat} (h : k < l.length) (x d : α) : nth (upd l k x) k d = x := by
  simp [nth, upd, h]

theorem State.slot_congr {s r : State} (h : r.chn = s.chn) (t : Tower) (k : Nat) : r.slot t k = s.slot t k := by
  rw [State.slot, h, State.slot]

theorem State.slot_updSlot_same {s : State} {t : Tower} {k : Nat} (h : k < (s.chn.get t).slots.length) (f : RbSlot → RbSlot) :
    (s.updSlot t k f).slot t k = f (s.slot t k) := by
  rw [State.slot, State.updSlot, State.updChn_chn, Two.get_set_same, nth_upd_same h, State.slot]

theorem State.length_slots_updSlot (s : State) (t : Tower) (k : Nat) (f : RbSlot → RbSlot) :
    ((s.updSlot t k f).chn.get t).slots.length = (s.chn.get t).slots.length := by
  rw [State.updSlot, State.updChn_chn, Two.get_set_same, upd, List.length_set]

/-- An update of a slot leaves everything of its read channel but the slots. -/
theorem State.get_chn_updSlot (s : State) (t : Tower) (k : Nat) (f : RbSlot → RbSlot) :
    (s.updSlot t k f).chn.get t = { s.chn.get t with slots := ((s.updSlot t k f).chn.get t).slots } := by
  simp [State.updSlot]

/-! ## The ends of decodes -/

/-- A live unit without an automatic replay: VERIFY, or a sector that converged (R215). -/
theorem State.liveEnd_of_no_auto {s : State} {t : Tower} {x : RecInfo} (k : Nat) (h : ¬ x.unit = 0 ∨ x.outcome = 0) :
    s.liveEnd t k x = (s.updSlot t k (fun y => { y with decoding := false })).liveOutcome t
      ((s.updSlot t k (fun y => { y with decoding := false })).slot t k).cap x := by
  rcases h with h | h <;> simp [State.liveEnd, h, autoModes]

/-- It leaves of the read channels all but DECODING of its slot, and every byte outside the place of the record. -/
theorem State.liveEnd_leaves {s : State} {t : Tower} {x : RecInfo} (k : Nat) (h : ¬ x.unit = 0 ∨ x.outcome = 0) :
    (s.liveEnd t k x).chn = (s.updSlot t k (fun y => { y with decoding := false })).chn ∧ SameMemOut [s.ringSlot t] s (s.liveEnd t k x) := by
  rw [State.liveEnd_of_no_auto k h]
  exact State.liveOutcome_leaves _ t _ x

end Sys2Proof.Machine
end

section
/-! PROOFS of the statements of chapter 7, the read channel: decodes, the replay queue, pins, coefficients, counts and overflows (R197 to R218). -/

namespace Sys2Proof.Machine

/-! ## Decodes -/

theorem chnBusy_addr (i : Nat) (u : Unit3) : (chnBusy i u).addr = CHN_STAT i := by cases u <;> rfl

theorem State.dec_setDec_same (s : State) (t : Tower) (u : Unit3) (d : Option Decode) : (s.setDec t u d).dec t u = d := by
  cases u <;> simp [State.dec, State.setDec]

theorem State.waits_setDec (s : State) (t : Tower) (u : Unit3) (d : Option Decode) :
    ((s.setDec t u d).chn.get t).waits = (s.chn.get t).waits := by
  cases u <;> simp [State.setDec]

theorem State.crcs_setDec (s : State) (t : Tower) (u : Unit3) (d : Option Decode) :
    ((s.setDec t u d).chn.get t).crcs = (s.chn.get t).crcs := by
  cases u <;> simp [State.setDec]

theorem State.setDec_changes (s : State) (t : Tower) (u : Unit3) (d : Option Decode) : Changes [CHN_STAT t.idx] s (s.setDec t u d) :=
  State.wr_changes (s.updChn t _) (chnBusy t.idx u) _ (by rw [chnBusy_addr]; exact List.mem_singleton_self _)

/-- A decode in progress shows as BUSY. -/
theorem State.busy_setDec_some (s : State) (t : Tower) (u : Unit3) (d : Decode) : (s.setDec t u (some d)).rd (chnBusy t.idx u) = 1 := by
  obtain ⟨hwidth, hfits⟩ : (chnBusy t.idx u).width = 1 ∧ (chnBusy t.idx u).lo + (chnBusy t.idx u).width ≤ 32 := by
    cases u <;> exact ⟨rfl, Nat.le_of_ble_eq_true rfl⟩
  rw [State.setDec, State.wb, State.rd_wr_same _ _ _ hfits, hwidth]
  rfl

/-- With no decode waiting, a unit that is free stays free. -/
theorem State.liveNext_of_no_waits {s : State} {t : Tower} (u : Unit3) (h : (s.chn.get t).waits = []) : s.liveNext t u = s := by
  rw [State.liveNext, h]
  split <;> rfl

/-! ## DETECTOR_PASS_DONE -/

section
variable {s : State} {t : Tower} {u : Unit3} {d : Decode}

/-- R207: the pass that a global iteration begins with. -/
theorem exec_detectorPassDone_first (hdec : s.dec t u = some d) (hpassed : d.passed = false) : exec (.detectorPassDone t u) s =
    .next (s.setDec t u (some (d.pass (s.decSet t u d) (s.slot t d.slot).cap.fgen s.free (s.decZ t u d)))).drawn := by
  show execDetectorPassDone t u s = _
  simp only [execDetectorPassDone, hdec, hpassed, Bool.false_eq_true, if_false]

/-- R207: a global iteration has one pass. -/
theorem exec_detectorPassDone_again (hdec : s.dec t u = some d) (hpassed : d.passed = true) : exec (.detectorPassDone t u) s = .next s := by
  show execDetectorPassDone t u s = _
  simp only [execDetectorPassDone, hdec, hpassed, if_true]

/-! ## LOCAL_ITERATION_DONE -/

/-- The decode of a unit after one more local iteration. -/
def State.iterated (s : State) (t : Tower) (d : Decode) : Decode := d.iterate (s.slot t d.slot).cap.fgen s.free

/-- R207, R213: with no check left the sector leaves its unit and waits for its CRC check. -/
theorem localIterationDone_answers_of_converged (hdec : s.dec t u = some d) (hpassed : d.passed = true) (hwaits : (s.chn.get t).waits = [])
    (hunsat : (s.iterated t d).unsat = 0) :
    Answers (.localIterationDone t u) s (fun r => r.dec t u = none ∧ (r.chn.get t).crcs = (s.chn.get t).crcs ++ [(u, s.iterated t d)] ∧
      Changes [CHN_STAT t.idx] s r) := by
  let q := (s.drawn.setDec t u none).updChn t (fun c => { c with crcs := c.crcs ++ [(u, s.iterated t d)] })
  have hq : (q.chn.get t).waits = [] := by
    rw [State.updChn_chn, Two.get_set_same, State.waits_setDec, State.drawn_chn, hwaits]
  have hexec : exec (.localIterationDone t u) s = .next (q.liveNext t u) := by
    show execLocalIterationDone t u s = _
    rw [execLocalIterationDone, hdec]
    simp only [hpassed, Bool.true_eq_false, if_false]
    exact if_pos hunsat
  refine ⟨q, hexec.trans (congrArg _ (State.liveNext_of_no_waits u hq)), ?_, ?_, (s.drawn.setDec_changes t u none)⟩
  · have hnone := s.drawn.dec_setDec_same t u none
    cases u <;> simpa [q, State.dec] using hnone
  · rw [State.updChn_chn, Two.get_set_same, State.crcs_setDec, State.drawn_chn]

/-- R207: a further local iteration of the same global iteration. -/
theorem exec_localIterationDone_local (hdec : s.dec t u = some d) (hpassed : d.passed = true) (hunsat : ¬ (s.iterated t d).unsat = 0)
    (hlocal : d.lHere + 1 < d.lmax) : exec (.localIterationDone t u) s = .next (s.drawn.setDec t u (some (s.iterated t d))) := by
  show execLocalIterationDone t u s = _
  rw [execLocalIterationDone, hdec]
  simp only [hpassed, Bool.true_eq_false, if_false]
  exact (if_neg hunsat).trans (if_pos hlocal)

/-- R207: the last local iteration leads to the next global iteration. -/
theorem exec_localIterationDone_global (hdec : s.dec t u = some d) (hpassed : d.passed = true) (hunsat : ¬ (s.iterated t d).unsat = 0)
    (hlocal : d.lHere + 1 = d.lmax) (hglobal : d.g < d.gmax) : exec (.localIterationDone t u) s =
      .next (s.drawn.setDec t u (some { s.iterated t d with g := d.g + 1, lHere := 0, passed := false })) := by
  show execLocalIterationDone t u s = _
  rw [execLocalIterationDone, hdec]
  simp only [hpassed, Bool.true_eq_false, if_false]
  exact (if_neg hunsat).trans ((if_neg (Nat.not_lt.mpr hlocal.ge)).trans (if_pos hglobal))

/-- R207: an iteration ends the decode when no check is left, otherwise the decode goes on as `d2`. -/
theorem localIterationDone_answers {d2 : Decode} (hdec : s.dec t u = some d) (hpassed : d.passed = true) (hwaits : (s.chn.get t).waits = [])
    (hgo : ¬ (s.iterated t d).unsat = 0 → exec (.localIterationDone t u) s = .next (s.drawn.setDec t u (some d2))) :
    Answers (.localIterationDone t u) s (fun r => r.dec t u = (if (s.iterated t d).unsat = 0 then none else some d2) ∧
      (r.chn.get t).crcs = (if (s.iterated t d).unsat = 0 then (s.chn.get t).crcs ++ [(u, s.iterated t d)] else (s.chn.get t).crcs) ∧
      Changes [CHN_STAT t.idx] s r) := by
  by_cases hunsat : (s.iterated t d).unsat = 0
  · simpa only [if_pos hunsat] using localIterationDone_answers_of_converged hdec hpassed hwaits hunsat
  · simp only [if_neg hunsat]
    exact ⟨_, hgo hunsat, s.drawn.dec_setDec_same t u _, s.drawn.crcs_setDec t u _, s.drawn.setDec_changes t u _⟩

end

/-! ## FRONT_DETECTOR_DONE -/

/-- No capture has its last piece behind it: none is settled (R199). -/
theorem State.capSettle_of_none_over {s : State} {t : Tower} {c : CapPlan} {k : Nat} (hcaps : (s.chn.get t).caps = [(c, k)])
    (h : (s.slot t k).capturing = false ∨ s.capOver t c = false) : s.capSettle t = s := by
  have hfull : ((s.chn.get t).caps.filter (fun e => (nth (s.chn.get t).slots e.2 {}).capturing && s.capOver t e.1)) = [] := by
    rw [State.slot] at h
    rcases h with h | h <;> simp [hcaps, h]
  simp only [State.capSettle, hfull, List.isEmpty_nil, if_true]

/-- R212: a unit without a decode, in progress or waiting, misses no deadline. -/
theorem State.deadline_of_idle {s : State} {t : Tower} {u : Unit3} (n : Nat) (hwaits : (s.chn.get t).waits = []) (hdec : s.dec t u = none) :
    s.deadline t u n = s := by
  have hsame : s.updChn t (fun c => { c with waits := c.waits.filter (fun e => !([] : List (Unit3 × Decode)).contains e) }) = s :=
    State.updChn_of_fixed (by simp only [List.contains_nil, Bool.not_false, List.filter_true])
  simp only [State.deadline, hwaits, List.filter_nil, List.foldl_nil]
  rw [hsame, hdec]

/-- The slot of a capture with the samples and gains that the capture took. -/
def State.capFill (s : State) (t : Tower) (sampA sampB : List Byte) (afeA afeB : AfeIn) (x : RbSlot) : RbSlot :=
  { x with
    sampA := if usesReader x.cap.readers false then (s.loopOr t x sampA).take 40960 else [],
    sampB := if usesReader x.cap.readers true then (s.loopOr t x sampB).take 40960 else [],
    gainA := s.afeGainOf t false afeA, gainB := s.afeGainOf t true afeB }

theorem State.setAfe_chn (s : State) (t : Tower) (b : Bool) (x : AfeIn) : (s.setAfe t b x).chn = s.chn := by simp [State.setAfe, State.afeSet]

theorem State.setAfe_freeCount (s : State) (t : Tower) (b : Bool) (x : AfeIn) : (s.setAfe t b x).freeCount = s.freeCount := by
  simp [State.setAfe, State.afeSet]

theorem State.setAfe_changes (s : State) (t : Tower) (b : Bool) (x : AfeIn) : Changes [CHN_AFE_STAT t.idx (b2n b)] s (s.setAfe t b x) :=
  (((s.wr_changes (CHN_AFE_STAT_GAIN t.idx (b2n b)) _ (List.mem_singleton_self _)).trans
    (State.wr_changes _ (CHN_AFE_STAT_PHASE t.idx (b2n b)) _ (List.mem_singleton_self _))).trans
    (State.wr_changes _ (CHN_AFE_STAT_DCOFS t.idx (b2n b)) _ (List.mem_singleton_self _))).trans
    (State.wr_changes _ (CHN_AFE_STAT_RMS t.idx (b2n b)) _ (List.mem_singleton_self _))

section
variable (s : State) (t : Tower) (k : Nat) (sampA sampB : List Byte) (afeA afeB : AfeIn)

theorem State.capStore_chn : (s.capStore t k sampA sampB afeA afeB).chn = (s.updSlot t k (s.capFill t sampA sampB afeA afeB)).chn := by
  unfold State.capStore
  split
  · rfl
  · rw [State.setAfe_chn, State.setAfe_chn]
    rfl

theorem State.capStore_freeCount : (s.capStore t k sampA sampB afeA afeB).freeCount = s.freeCount := by
  unfold State.capStore
  split
  · rfl
  · rw [State.setAfe_freeCount, State.setAfe_freeCount]
    rfl

theorem State.capStore_changes : Changes [CHN_AFE_STAT t.idx 0, CHN_AFE_STAT t.idx 1] s (s.capStore t k sampA sampB afeA afeB) := by
  have hslot : Changes [CHN_AFE_STAT t.idx 0, CHN_AFE_STAT t.idx 1] s (s.updSlot t k (s.capFill t sampA sampB afeA afeB)) :=
    ⟨fun _ _ => rfl, fun _ => rfl⟩
  unfold State.capStore
  refine .ite hslot ?_
  exact (hslot.trans ((State.setAfe_changes _ t false afeA).mono (by simp [b2n]))).trans ((State.setAfe_changes _ t true afeB).mono (by simp [b2n]))

end

/-- The candidates within the limit of unsatisfied checks, the best first. -/
def State.goodCands (s : State) (t : Tower) (cs : List Cand) : List Cand :=
  sortBy synLe (cs.filter (fun x => decide (x.synw ≤ s.rd (CHN_SYNC_REJ_REJECT t.idx))))

/-- The state in which a search has left its candidates in the slot and counted the rejected ones. -/
def State.searched (s : State) (t : Tower) (k : Nat) (cs : List Cand) (stamp : Nat) : State :=
  (s.updSlot t k (fun x => { x with cands := cs, tried := [], last := none, missed := cs.isEmpty, stamp := stamp })).bump
    (CHN_CNT_SYNC_REJ t.idx) (cs.length - (s.goodCands t cs).length)

/-- A search changes the slot, and counts. -/
theorem State.searched_leaves {s : State} {t : Tower} {k : Nat} (cs : List Cand) (stamp : Nat) (hk : k < (s.chn.get t).slots.length) :
    ((s.searched t k cs stamp).chn.get t).caps = (s.chn.get t).caps ∧
      (((s.searched t k cs stamp).slot t k).cands = cs ∧ ((s.searched t k cs stamp).slot t k).gainA = (s.slot t k).gainA ∧
        ((s.searched t k cs stamp).slot t k).sampA = (s.slot t k).sampA) ∧
      Changes [CHN_CNT_SYNC t.idx] s (s.searched t k cs stamp) := by
  refine ⟨?_, ?_, State.wr_changes (s.updSlot t k _) (CHN_CNT_SYNC_REJ t.idx) _ (List.mem_singleton_self _)⟩
  · rw [State.searched, State.bump_chn, State.get_chn_updSlot]
  · rw [State.searched, State.slot_congr (State.bump_chn _ _ _), State.slot_updSlot_same hk]
    exact ⟨rfl, rfl, rfl⟩

/-- The end of the work on a sector in slot `k`: what the search left there stays, no capture begins, and of memory the record is all that
changes. -/
def SectorEnds (t : Tower) (k : Nat) (s r : State) : Prop :=
  (r.chn.get t).caps = (s.chn.get t).caps ∧
    ((r.slot t k).cands = (s.slot t k).cands ∧ (r.slot t k).gainA = (s.slot t k).gainA ∧ (r.slot t k).sampA = (s.slot t k).sampA) ∧
    SameMemOut [s.ringSlot t] s r

/-- A sector given up ends so. -/
theorem State.liveEnd_sectorEnds {s : State} {t : Tower} {k : Nat} {x : RecInfo} (hk : k < (s.chn.get t).slots.length)
    (h : ¬ x.unit = 0 ∨ x.outcome = 0) : SectorEnds t k s (s.liveEnd t k x) := by
  obtain ⟨hchn, hmem⟩ := State.liveEnd_leaves (s := s) (t := t) k h
  refine ⟨?_, ?_, hmem⟩
  · rw [hchn, State.get_chn_updSlot]
  · rw [State.slot_congr hchn, State.slot_updSlot_same hk]
    exact ⟨rfl, rfl, rfl⟩

/-- A unit that takes a waiting decode leaves captures, slots and memory. -/
theorem State.liveNext_leaves (s : State) (t : Tower) (u : Unit3) :
    ((s.liveNext t u).chn.get t).caps = (s.chn.get t).caps ∧ ((s.liveNext t u).chn.get t).slots = (s.chn.get t).slots ∧
      SameMem s (s.liveNext t u) := by
  unfold State.liveNext
  split
  · exact ⟨rfl, rfl, fun _ => rfl⟩
  · split
    · exact ⟨rfl, rfl, fun _ => rfl⟩
    · refine ⟨?_, ?_, fun _ => rfl⟩ <;> cases u <;> simp [State.setDec]

/-- So does a sector whose best candidate goes to its unit. -/
theorem State.liveDec_sectorEnds {s : State} {t : Tower} {k : Nat} (u : Unit3) (c : Cand) (soft : List Int)
    (hk : k < (s.chn.get t).slots.length) : SectorEnds t k s (s.liveDec t u k c soft) := by
  unfold State.liveDec
  dsimp only
  generalize hd : Decode.mk .. = d
  let q := (s.updSlot t k (fun x => { x with tried := [c.off], last := some c, decoding := true })).updChn t
    (fun y => { y with waits := y.waits ++ [(u, d)] })
  obtain ⟨hcaps, hslots, hmem⟩ := q.liveNext_leaves t u
  have hslot : (q.liveNext t u).slot t k = { s.slot t k with tried := [c.off], last := some c, decoding := true } := by
    have hq : (q.liveNext t u).slot t k = (s.updSlot t k (fun x => { x with tried := [c.off], last := some c, decoding := true })).slot t k := by
      rw [State.slot, hslots, State.updChn_chn, Two.get_set_same, State.slot]
    rw [hq, State.slot_updSlot_same hk]
  show SectorEnds t k s (q.liveNext t u)
  refine ⟨?_, by rw [hslot]; exact ⟨rfl, rfl, rfl⟩, SameMem.out hmem⟩
  rw [hcaps, State.updChn_chn, Two.get_set_same, State.get_chn_updSlot]

/-- The candidates that a search over the samples in slot `k` finds (R209, R210). -/
def State.searchCands (s : State) (t : Tower) (c : CapPlan) (k : Nat) (coef : List (Nat × Nat)) : List Cand :=
  s.findCands t (s.syncThr t) [] (searchAll c.fgen (s.syncW t) c.pieces (s.slotSoft t coef c.eqset c.readers k) s.free false)

/-- How the front detector ends its sector: the best candidate goes to the unit, or the sector is given up. -/
def State.searchEnd (s : State) (t : Tower) (u : Unit3) (c : CapPlan) (k stamp : Nat) : State :=
  let coef := (s.slot t k).coef
  let cs := s.searchCands t c k coef
  let q := s.searched t k cs stamp
  let fail := fun (o : Nat) => q.liveEnd t k { (q.capInfo t c k o) with ncand := cs.length, missed := cs.isEmpty, dtime := q.dtime t k }
  match s.goodCands t cs with
  | x :: _ => q.liveDec t u k x (s.slotSoft t coef c.eqset c.readers k)
  | [] => if cs.isEmpty then fail 3 else fail 4

/-- A sector of a write run: its candidates stay in the slot, and the work on it ends there. -/
theorem State.searchEnd_of_verify {s : State} {t : Tower} {c : CapPlan} {k : Nat} (u : Unit3) (stamp : Nat) (hverify : c.verify = true)
    (hk : k < (s.chn.get t).slots.length) :
    SectorEnds t k (s.searched t k (s.searchCands t c k (s.slot t k).coef) stamp) (s.searchEnd t u c k stamp) := by
  let q := s.searched t k (s.searchCands t c k (s.slot t k).coef) stamp
  have hlen : k < (q.chn.get t).slots.length := by
    simpa only [q, State.searched, State.bump_chn, State.length_slots_updSlot] using hk
  have hunit : ∀ o, ¬ (q.capInfo t c k o).unit = 0 := fun o => by simp [State.capInfo, hverify, b2n]
  unfold State.searchEnd
  dsimp only
  split
  · exact State.liveDec_sectorEnds u _ _ hlen
  · split
    · exact State.liveEnd_sectorEnds hlen (.inl (hunit 3))
    · exact State.liveEnd_sectorEnds hlen (.inl (hunit 4))

/-- The window and the threshold of the search go by CHN_SYNC. -/
theorem State.syncW_congr {s r : State} {t : Tower} (h : r.reg (CHN_SYNC t.idx) = s.reg (CHN_SYNC t.idx)) : r.syncW t = s.syncW t := by
  rw [State.syncW, State.rd_congr (f := CHN_SYNC_W t.idx) h, State.syncW]

theorem State.syncThr_congr {s r : State} {t : Tower} (h : r.reg (CHN_SYNC t.idx) = s.reg (CHN_SYNC t.idx)) : r.syncThr t = s.syncThr t := by
  rw [State.syncThr, State.rd_congr (f := CHN_SYNC_THR t.idx) h, State.syncThr]

theorem State.findCands_congr {s r : State} {t : Tower} (h : r.syncW t = s.syncW t) (thr : Nat) (skip : List Int) (l : List CandIn) :
    r.findCands t thr skip l = s.findCands t thr skip l := by
  rw [State.findCands, h, State.findCands]

section
variable {s : State} {t : Tower} {c : CapPlan} {k : Nat} (sampA sampB : List Byte) (afeA afeB : AfeIn)

/-- The state in which the samples of a completed capture stand in its slot, and the capture has gone. -/
def State.stored (s : State) (t : Tower) (k : Nat) (sampA sampB : List Byte) (afeA afeB : AfeIn) : State :=
  (s.capStore t k sampA sampB afeA afeB).updChn t (fun c => { c with caps := c.caps.filter (fun x => !(x.2 == k)) })

theorem State.get_chn_stored (hcaps : (s.chn.get t).caps = [(c, k)]) : (s.stored t k sampA sampB afeA afeB).chn.get t =
    { s.chn.get t with caps := [], slots := ((s.updSlot t k (s.capFill t sampA sampB afeA afeB)).chn.get t).slots } := by
  rw [State.stored, State.updChn_chn, Two.get_set_same, State.capStore_chn, State.get_chn_updSlot]
  simp [hcaps]

theorem State.slot_stored (hcaps : (s.chn.get t).caps = [(c, k)]) (hk : k < (s.chn.get t).slots.length) :
    (s.stored t k sampA sampB afeA afeB).slot t k = s.capFill t sampA sampB afeA afeB (s.slot t k) := by
  rw [State.slot, State.get_chn_stored sampA sampB afeA afeB hcaps]
  exact State.slot_updSlot_same hk _

theorem State.stored_changes (s : State) (t : Tower) (k : Nat) :
    Changes [CHN_AFE_STAT t.idx 0, CHN_AFE_STAT t.idx 1] s (s.stored t k sampA sampB afeA afeB) :=
  s.capStore_changes t k sampA sampB afeA afeB

/-- R209 to R212: the search of the only sector, captured for VERIFY, with the unit idle. -/
theorem exec_frontDetectorDone_verify (hcaps : (s.chn.get t).caps = [(c, k)]) (hverify : c.verify = true)
    (hdone : (s.slot t k).capturing = false) (hdec : (s.chn.get t).verify = none) (hwaits : (s.chn.get t).waits = []) :
    exec (.frontDetectorDone t true sampA sampB afeA afeB) s =
      .next ((s.stored t k sampA sampB afeA afeB).searchEnd t .verify c k s.fwk.cycle).drawn := by
  have hget := State.get_chn_stored sampA sampB afeA afeB hcaps
  have hidle : (s.stored t k sampA sampB afeA afeB).deadline t .verify c.run = s.stored t k sampA sampB afeA afeB :=
    State.deadline_of_idle _ (by rw [hget]; exact hwaits) (by rw [State.dec, hget]; exact hdec)
  show execFrontDetectorDone t true sampA sampB afeA afeB s = _
  rw [← hidle, execFrontDetectorDone, State.capSettle_of_none_over hcaps (.inl hdone), hcaps,
    List.find?_cons_of_pos (by simp [hverify, hdone])]
  rfl

/-- The search finds what it would find beside the capture that has gone. -/
theorem State.searchCands_stored (hcaps : (s.chn.get t).caps = [(c, k)]) (hk : k < (s.chn.get t).slots.length) :
    (s.stored t k sampA sampB afeA afeB).searchCands t c k ((s.stored t k sampA sampB afeA afeB).slot t k).coef =
      (s.capStore t k sampA sampB afeA afeB).findCands t (s.syncThr t) [] (searchAll c.fgen (s.syncW t) c.pieces
        ((s.capStore t k sampA sampB afeA afeB).slotSoft t (s.slot t k).coef c.eqset c.readers k) s.free false) := by
  let p := s.stored t k sampA sampB afeA afeB
  let q := s.capStore t k sampA sampB afeA afeB
  have hsync : q.reg (CHN_SYNC t.idx) = s.reg (CHN_SYNC t.idx) :=
    (s.capStore_changes t k sampA sampB afeA afeB).1 _ (by cases t <;> decide)
  have hthr : p.syncThr t = s.syncThr t := State.syncThr_congr (s := s) (r := p) hsync
  have hslot : p.slot t k = q.slot t k := by simp only [State.slot, p, q, State.stored, State.updChn_chn, Two.get_set_same]
  have hfree : p.free = s.free := congrArg Config.freeNat (s.capStore_freeCount ..)
  have hcoef : (p.slot t k).coef = (s.slot t k).coef := by
    simp only [p, State.slot_stored sampA sampB afeA afeB hcaps hk, State.capFill]
  have hsoft : p.slotSoft t (s.slot t k).coef c.eqset c.readers k = q.slotSoft t (s.slot t k).coef c.eqset c.readers k := by
    rw [State.slotSoft, hslot, State.slotSoft]
    rfl
  show p.searchCands t c k (p.slot t k).coef = _
  rw [hcoef, State.searchCands, hthr, hsoft, hfree, State.syncW_congr (s := s) (r := p) hsync, State.findCands_congr (s := q) (r := p) rfl]

/-- The work on that sector leaves its samples, its gains and the candidates found in the slot, and of memory all but its record. -/
theorem State.searchEnd_stored_leaves (hcaps : (s.chn.get t).caps = [(c, k)]) (hverify : c.verify = true)
    (hk : k < (s.chn.get t).slots.length) (u : Unit3) (stamp : Nat) {p r : State} (hp : p = s.stored t k sampA sampB afeA afeB)
    (hr : r = p.searchEnd t u c k stamp) :
    (r.chn.get t).caps = [] ∧ (r.slot t k).cands = p.searchCands t c k (p.slot t k).coef ∧ (r.slot t k).gainA = s.afeGainOf t false afeA ∧
      (usesReader (s.slot t k).cap.readers false = false → (r.slot t k).sampA = []) ∧ SameMemOut [s.ringSlot t] s r := by
  have hget := State.get_chn_stored sampA sampB afeA afeB hcaps
  have hslot := State.slot_stored sampA sampB afeA afeB hcaps hk
  have hstored := s.stored_changes sampA sampB afeA afeB t k
  rw [← hp] at hget hslot hstored
  have hlen : k < (p.chn.get t).slots.length := by
    rw [hget]
    exact (s.length_slots_updSlot t k _).symm ▸ hk
  obtain ⟨hcaps', ⟨hcands', hgain', hsamp'⟩, hsearched⟩ := State.searched_leaves (p.searchCands t c k (p.slot t k).coef) stamp hlen
  obtain ⟨hend, ⟨hcands, hgain, hsamp⟩, hmem⟩ := State.searchEnd_of_verify u stamp hverify hlen
  have hchanges := (hstored.mono (l' := [CHN_AFE_STAT t.idx 0, CHN_AFE_STAT t.idx 1, CHN_CNT_SYNC t.idx]) (by simp)).trans
    (hsearched.mono (by simp))
  rw [State.ringSlot_congr hchanges.1 (by cases t <;> decide) (by cases t <;> decide) (by cases t <;> decide)] at hmem
  rw [← hr] at hend hcands hgain hsamp hmem
  refine ⟨?_, hcands.trans hcands', ?_, fun hother => ?_, (SameMem.out hchanges.2).trans hmem⟩
  · rw [hend, hcaps', hget]
  · rw [hgain, hgain', hslot, State.capFill]
  · rw [hsamp, hsamp', hslot, State.capFill, hother]
    rfl

end

/-! ## CRC_CHECK_DONE -/

section
variable {s : State} {t : Tower} {d : Decode}

/-- The state in which a sector has left the list of those that wait for their CRC check. -/
def State.crcTaken (s : State) (t : Tower) (e : Unit3 × Decode) : State := s.updChn t (fun c => { c with crcs := c.crcs.erase e })

theorem State.crcs_crcTaken {e : Unit3 × Decode} (hcrcs : (s.chn.get t).crcs = [e]) : ((s.crcTaken t e).chn.get t).crcs = [] := by
  simp [State.crcTaken, hcrcs]

/-- R213: a sector of VERIFY ends with its record. -/
theorem exec_crcCheckDone_verify (hcrcs : (s.chn.get t).crcs = [(.verify, d)]) : ∃ x : RecInfo, ¬ x.unit = 0 ∧
    exec (.crcCheckDone t .verify) s = .next ((s.crcTaken t (.verify, d)).liveEnd t d.slot x).drawn := by
  obtain ⟨ok, hok⟩ : ∃ ok, (s.openBlock t (s.slot t d.slot).cap (bytesOf (d.bits.take infoBits))).elim false (·.2) = ok := ⟨_, rfl⟩
  refine ⟨{ s.decInfo t .verify d (if ok then 0 else 7) with crcDone := true, crcOk := ok, delivered := false }, Nat.one_ne_zero, ?_⟩
  show execCrcCheckDone t .verify s = _
  rw [execCrcCheckDone, hcrcs, List.find?_cons_of_pos rfl]
  dsimp only
  rw [hok]
  cases ok <;> rfl

/-- R213: a sector of NORMAL whose CRC checks is delivered and ends with its record; a joint sector of set 0 begins an update of the taps
(R202). -/
theorem exec_crcCheckDone_normal {p : List Byte} (hcrcs : (s.chn.get t).crcs = [(.normal, d)])
    (hopen : s.openBlock t (s.slot t d.slot).cap (bytesOf (d.bits.take infoBits)) = some (p, true)) :
    ∃ (x : RecInfo) (f : ChnState → ChnState), x.outcome = 0 ∧ (∀ c, (f c).crcs = c.crcs) ∧
      exec (.crcCheckDone t .normal) s =
        .next ((((s.crcTaken t (.normal, d)).setBytes (s.slot t d.slot).cap.dest p).liveEnd t d.slot x).drawn.updChn t f) := by
  refine ⟨{ s.decInfo t .normal d 0 with crcDone := true, crcOk := true, delivered := true }, ?_⟩
  show ∃ f : ChnState → ChnState, _ ∧ _ ∧ execCrcCheckDone t .normal s = _
  rw [execCrcCheckDone, hcrcs, List.find?_cons_of_pos rfl]
  dsimp only
  rw [hopen]
  refine ⟨_, rfl, fun c => ?_, congrArg Host.Outcome.next (State.updChn_ite ..)⟩
  split <;> rfl

/-- A delivered sector that ends leaves its bytes, below the result ring, and every byte outside them and the record. -/
theorem State.liveEnd_setBytes_leaves {x : RecInfo} (k : Nat) (hout : x.outcome = 0) {a : Nat} {p : List Byte}
    (hbelow : a + p.length ≤ s.rd (CHN_RING_BASE_BASE t.idx)) :
    (((s.setBytes a p).liveEnd t k x).chn.get t).crcs = (s.chn.get t).crcs ∧ ((s.setBytes a p).liveEnd t k x).bytes a p.length = p ∧
      SameMemOut [(a, p.length), s.ringSlot t] s ((s.setBytes a p).liveEnd t k x) := by
  obtain ⟨hchn, hmem⟩ := State.liveEnd_leaves (s := s.setBytes a p) (t := t) k (.inr hout)
  have hring : (s.setBytes a p).ringSlot t = s.ringSlot t :=
    State.ringSlot_congr (l := []) (fun b _ => State.reg_congr (State.setBytes_regs p s a) b) (by simp) (by simp) (by simp)
  rw [hring] at hmem
  refine ⟨?_, State.bytes_eq _ p a fun j hj => ?_, ?_⟩
  · rw [hchn, State.get_chn_updSlot, State.setBytes_chn]
  · rw [hmem (a + j) (by simp [State.ringSlot]; omega), State.byte_setBytes_in p s a j hj]
  · exact ((s.setBytes_sameMemOut a p).mono (by simp)).trans (hmem.mono (by simp))

end

/-! ## CHN_RP_PUSH -/

section
variable {s : State} {t : Tower}

/-- R218: a request that the queue has room for. -/
theorem State.rpPush_of_room (hon : s.isOn bCHN t.idx = true) (hroom : (s.chn.get t).queue.length < 16) : s.rpPush t =
    (s.updChn t (fun c => { c with queue := c.queue ++ [{ words := (List.range 5).map (fun i => s.reg (CHN_RP_REQ t.idx i)) }] })).setDepth t := by
  simp [State.rpPush, hon, Nat.not_le.mpr hroom]

/-- R218: a request to a full queue is dropped. -/
theorem State.rpPush_of_full (hon : s.isOn bCHN t.idx = true) (hfull : 16 ≤ (s.chn.get t).queue.length) : s.rpPush t = s.chnIrq t 24 := by
  simp [State.rpPush, hon, hfull]

/-- A write of CHN_RP_PUSH with PUSH set. -/
theorem exec_chnRpPush_one (hadm : s.admits (CHN_RP_PUSH t.idx) = true) : exec (.chnRpPush t 1) s = .next (s.rpPush t) :=
  congrArg Host.Outcome.next (State.gated_of_admits hadm _)

/-- DEPTH shows the length of a queue. -/
theorem State.rd_setDepth (h : (s.chn.get t).queue.length < 32) : (s.setDepth t).rd (CHN_RP_STAT_DEPTH t.idx) = (s.chn.get t).queue.length :=
  (s.rd_wr_same (CHN_RP_STAT_DEPTH t.idx) _ (Nat.le_of_ble_eq_true rfl)).trans (Nat.mod_eq_of_lt h)

/-- Requests that the queue takes show in DEPTH. -/
theorem State.setDepth_queued (q : List RpReq) (h : (s.chn.get t).queue.length + q.length < 32) {r : State}
    (hr : r = (s.updChn t (fun c => { c with queue := c.queue ++ q })).setDepth t) : (r.chn.get t).queue = (s.chn.get t).queue ++ q ∧
      r.rd (CHN_RP_STAT_DEPTH t.idx) = (s.chn.get t).queue.length + q.length ∧ Changes [CHN_RP_STAT t.idx] s r := by
  let x := s.updChn t (fun c => { c with queue := c.queue ++ q })
  have hqueue : (x.chn.get t).queue = (s.chn.get t).queue ++ q := by rw [State.updChn_chn, Two.get_set_same]
  have hlen : (x.chn.get t).queue.length = (s.chn.get t).queue.length + q.length := by rw [hqueue, List.length_append]
  rw [hr]
  refine ⟨?_, (State.rd_setDepth (s := x) (hlen ▸ h)).trans hlen, x.wr_changes (CHN_RP_STAT_DEPTH t.idx) _ (List.mem_singleton_self _)⟩
  rw [State.setDepth, State.wr_chn, hqueue]

/-- An interrupt of the read channel shows in INT_STAT of its page 0, and leaves everything else. -/
theorem State.chnIrq_leaves (s : State) (t : Tower) {bit : Nat} (hbit : bit < 32) :
    (s.chnIrq t bit).rd ⟨pageBase bCHN t.idx 0 + 0x10, bit, 1⟩ = 1 ∧ (s.chnIrq t bit).chn = s.chn ∧
    Changes [pageBase bCHN t.idx 0 + 0x10] s (s.chnIrq t bit) :=
  ⟨State.rd_wr_same s ⟨pageBase bCHN t.idx 0 + 0x10, bit, 1⟩ 1 hbit, s.irq_chn _ _ _ _,
    s.irq_changes bCHN t.idx 0 bit (List.mem_singleton_self _)⟩

end

/-! ## REPLAY_START -/

/-- The replay queue of a Tower holds `q`, and CHN_RP_STAT shows the tag `tag` and the depth `n`. -/
def ReplayShows (t : Tower) (q : List RpReq) (tag n : Nat) (s : State) : Prop :=
  (s.chn.get t).queue = q ∧ s.rd (CHN_RP_STAT_TAG t.idx) = tag ∧ s.rd (CHN_RP_STAT_DEPTH t.idx) = n

section
variable {t : Tower} {q : List RpReq} {tag n : Nat} {s r : State}

/-- It goes by the queue and CHN_RP_STAT. -/
theorem ReplayShows.congr (h : ReplayShows t q tag n s) (hqueue : (r.chn.get t).queue = (s.chn.get t).queue)
    (hreg : r.reg (CHN_RP_STAT t.idx) = s.reg (CHN_RP_STAT t.idx)) : ReplayShows t q tag n r := by
  obtain ⟨hq, htag, hn⟩ := h
  exact ⟨hqueue.trans hq, (State.rd_congr hreg).trans htag, (State.rd_congr hreg).trans hn⟩

/-- BUSY stands beside the tag and the depth. -/
theorem ReplayShows.busy (h : ReplayShows t q tag n s) (x : Nat) : ReplayShows t q tag n (s.wr (CHN_RP_STAT_BUSY t.idx) x) := by
  obtain ⟨hq, htag, hn⟩ := h
  have hwidth : (CHN_RP_STAT_BUSY t.idx).lo + (CHN_RP_STAT_BUSY t.idx).width ≤ 32 := Nat.le_of_ble_eq_true rfl
  refine ⟨by rw [State.wr_chn, hq], ?_, ?_⟩
  · rw [State.rd_wr_beside _ _ _ _ hwidth (.inl (Nat.le_of_ble_eq_true rfl)), htag]
  · rw [State.rd_wr_beside _ _ _ _ hwidth (.inr (Nat.le_of_ble_eq_true rfl)), hn]

theorem ReplayShows.updSlot (h : ReplayShows t q tag n s) (k : Nat) (f : RbSlot → RbSlot) : ReplayShows t q tag n (s.updSlot t k f) :=
  h.congr (by rw [State.get_chn_updSlot]) rfl

theorem ReplayShows.setDec (h : ReplayShows t q tag n s) (u : Unit3) (d : Option Decode) : ReplayShows t q tag n (s.setDec t u d) := by
  refine h.congr ?_ ((s.setDec_changes t u d).1 _ (by cases t <;> decide))
  cases u <;> simp [State.setDec]

theorem ReplayShows.chnCounts (h : ReplayShows t q tag n s) (x : RecInfo) : ReplayShows t q tag n (s.chnCounts t x) :=
  h.congr (by rw [State.chn_of_chnMem (s.chnCounts_chnMem t x)]) ((s.chnCounts_changes t x).1 _ (by cases t <;> decide))

theorem ReplayShows.chnRecord (h : ReplayShows t q tag n s) (c : CapPlan) (x : RecInfo) : ReplayShows t q tag n (s.chnRecord t c x) := by
  obtain ⟨hchn, -, hregs⟩ := s.chnRecord_leaves t c x
  exact h.congr (by rw [hchn]) (hregs _ (by cases t <;> decide))

theorem ReplayShows.sectorSeen (h : ReplayShows t q tag n s) (c : CapPlan) (x : RecInfo) (live : Bool) (mode : Nat) :
    ReplayShows t q tag n (s.sectorSeen t c x live mode) := by
  unfold State.sectorSeen
  dsimp only
  split <;> exact h

/-- A request of firmware ends without another request behind it. -/
theorem ReplayShows.replayEnd (h : ReplayShows t q tag n s) {y : RpReq} (hauto : y.auto = false) (k : Nat) (c : CapPlan) (x : RecInfo) :
    ReplayShows t q tag n (s.replayEnd t y k c x) := by
  simp only [State.replayEnd, hauto, Bool.false_eq_true, false_and, if_false]
  exact (((h.chnCounts x).chnRecord c x).busy 0).sectorSeen c x false _

theorem ReplayShows.runReq (h : ReplayShows t q tag n s) {y : RpReq} (hauto : y.auto = false) : ReplayShows t q tag n (s.runReq t y) := by
  have hcount : ReplayShows t q tag n (s.drawn.bump (CHN_CNT_REPLAY_ATTEMPTS t.idx) 1) :=
    h.congr (by simp) (State.reg_wr_other s.drawn _ _ _ (by cases t <;> decide))
  have hsearch := hcount.busy 1
  unfold State.runReq
  dsimp only
  split
  · split
    · exact ((hsearch.updSlot _ _).updSlot _ _).setDec _ _
    · exact (hsearch.updSlot _ _).setDec _ _
  · split
    · exact (hsearch.updSlot _ _).replayEnd hauto _ _ _
    · exact hsearch.replayEnd hauto _ _ _

end

/-- R217: REPLAY takes the only request of firmware, and runs or refuses it. -/
theorem exec_replayStart_one {s : State} {t : Tower} {q : RpReq} (hreplay : (s.chn.get t).replay = none) (hcrcs : (s.chn.get t).crcs = [])
    (hqueue : (s.chn.get t).queue = [q]) : ∃ r, exec (.replayStart t) s = .next (if r.reqBad t q then r.refuseReq t q else r.runReq t q) ∧
      ReplayShows t [] (fieldOf (nth q.words 0 0) 16 8) 0 r := by
  let p := (s.updChn t (fun c => { c with queue := [] })).setDepth t
  have hempty : ((s.updChn t (fun c => { c with queue := [] })).chn.get t).queue = [] := by rw [State.updChn_chn, Two.get_set_same]
  have hp : (p.chn.get t).queue = [] := by simp only [p, State.setDepth, State.wr_chn, hempty]
  have hdepth : p.rd (CHN_RP_STAT_DEPTH t.idx) = 0 := (State.rd_setDepth (by rw [hempty]; decide)).trans (congrArg List.length hempty)
  have hwidth : (CHN_RP_STAT_TAG t.idx).lo + (CHN_RP_STAT_TAG t.idx).width ≤ 32 := Nat.le_of_ble_eq_true rfl
  refine ⟨p.wr (CHN_RP_STAT_TAG t.idx) (fieldOf (nth q.words 0 0) 16 8), ?_, by rw [State.wr_chn, hp], ?_, ?_⟩
  · show execReplayStart t s = _
    rw [execReplayStart, hreplay, hcrcs, hqueue]
    rfl
  · rw [State.rd_wr_same _ _ _ hwidth]
    exact fieldOf_mod _ 16 8
  · rw [State.rd_wr_beside _ _ _ _ hwidth (.inr (Nat.le_of_ble_eq_true rfl)), hdepth]

/-! ## RB_PIN, RB_UNPIN -/

section
variable {s : State} {t : Tower} {k : Nat}

theorem pinFld_bit (i k : Nat) (hk : k < 51) : (pinFld i k).lo + (pinFld i k).width ≤ 32 ∧ (pinFld i k).width = 1 := by
  unfold pinFld
  split
  · exact ⟨by dsimp only; omega, rfl⟩
  · exact ⟨by dsimp only; omega, rfl⟩

theorem rbStat_ne_pinFld (i k : Nat) : CHN_RB_STAT i ≠ (pinFld i k).addr := by
  unfold pinFld CHN_RB_STAT CHN_RB_PINMAP_LO CHN_RB_PINMAP_HI
  split
  · dsimp only
    omega
  · dsimp only
    omega

/-- A pin performed shows in its bit of the pin map, and in PIN_OK. -/
theorem State.setPin_shows (hk : k < 51) (v : Bool) : ((s.setPin t k v).wr (CHN_RB_STAT_PIN_OK t.idx) 1).rd (pinFld t.idx k) = b2n v ∧
    ((s.setPin t k v).wr (CHN_RB_STAT_PIN_OK t.idx) 1).rd (CHN_RB_STAT_PIN_OK t.idx) = 1 ∧
    SameMem s ((s.setPin t k v).wr (CHN_RB_STAT_PIN_OK t.idx) 1) := by
  obtain ⟨hfits, hwidth⟩ := pinFld_bit t.idx k hk
  refine ⟨?_, State.rd_wr_same _ _ _ (Nat.le_of_ble_eq_true rfl), fun a => ?_⟩
  · rw [State.rd_wr_other _ _ _ _ (rbStat_ne_pinFld t.idx k), State.setPin, State.rd_wr_other _ _ _ _ (rbStat_ne_pinFld t.idx k),
      State.wb, State.rd_wr_same _ _ _ hfits, hwidth]
    cases v <;> rfl
  · rw [State.wr_byte, State.setPin, State.wr_byte, State.wb_byte]

/-- R197: a pin or unpin of a slot's present generation is performed. -/
theorem State.pinWrite_performed {op : Bool} {val : Word} (hslot : fieldOf val 16 6 < 51)
    (hgen : (s.slot t (fieldOf val 16 6)).gen = fieldOf val 8 8) (hop : op = false ∨ s.canPin t (fieldOf val 16 6) = true) :
    s.pinWrite t op val = (s.setPin t (fieldOf val 16 6) op).wr (CHN_RB_STAT_PIN_OK t.idx) 1 :=
  if_pos ⟨hslot, hgen, hop⟩

/-- A refused pin shows in PIN_OK and in its interrupt. -/
theorem State.pinRefused_shows (s : State) (t : Tower) {r : State} (hr : r = (s.wr (CHN_RB_STAT_PIN_OK t.idx) 0).chnIrq t 22) :
    r.rd (CHN_RB_STAT_PIN_OK t.idx) = 0 ∧ r.rd ⟨pageBase bCHN t.idx 0 + 0x10, 22, 1⟩ = 1 ∧
      Changes [CHN_RB_STAT t.idx, pageBase bCHN t.idx 0 + 0x10] s r := by
  let q := s.wr (CHN_RB_STAT_PIN_OK t.idx) 0
  obtain ⟨hshows, -, hchanges⟩ := q.chnIrq_leaves t (bit := 22) (by decide)
  have hok : (q.chnIrq t 22).rd (CHN_RB_STAT_PIN_OK t.idx) = q.rd (CHN_RB_STAT_PIN_OK t.idx) :=
    State.rd_congr (hchanges.1 _ (by cases t <;> decide))
  rw [hr]
  refine ⟨hok.trans ?_, hshows, ?_⟩
  · exact State.rd_wr_same s _ 0 (Nat.le_of_ble_eq_true rfl)
  · exact (s.wr_changes (CHN_RB_STAT_PIN_OK t.idx) 0 (.head _)).trans (hchanges.mono (by simp))

/-- R197: one of another generation, or of no slot, is refused. -/
theorem State.pinWrite_refused {op : Bool} {val : Word}
    (h : ¬ (fieldOf val 16 6 < 51 ∧ (s.slot t (fieldOf val 16 6)).gen = fieldOf val 8 8)) :
    s.pinWrite t op val = (s.wr (CHN_RB_STAT_PIN_OK t.idx) 0).chnIrq t 22 :=
  if_neg fun ⟨hslot, hgen, _⟩ => h ⟨hslot, hgen⟩

end

/-! ## CHN_COEF_WRITE, EQ_ADAPT_UPDATE -/

theorem sparseGet_sparseSet_same (l : List (Nat × Nat)) (a v : Nat) : sparseGet (sparseSet l a v) a = v := by
  unfold sparseGet sparseSet
  split
  · next h =>
    have hnone : (l.filter (fun e => !(e.1 == a))).find? (fun e => e.1 == a) = none := by simp
    rw [hnone, h]
    rfl
  · simp

theorem sparseGet_sparseSet_other (l : List (Nat × Nat)) {a b : Nat} (v : Nat) (h : a ≠ b) : sparseGet (sparseSet l a v) b = sparseGet l b := by
  have hrest : (l.filter (fun e => !(e.1 == a))).find? (fun e => e.1 == b) = l.find? (fun e => e.1 == b) := by
    rw [List.find?_filter]
    refine congrArg (l.find? ·) (funext fun e => ?_)
    by_cases he : e.1 = b
    · simp [he, h.symm]
    · simp [he]
  unfold sparseGet sparseSet
  dsimp only
  split
  · rw [hrest]
  · rw [List.find?_cons_of_neg (by simpa using h), hrest]

section
variable {s : State} {t : Tower}

/-- Without AUTO_INC an access to CHN_COEF_DATA leaves the address. -/
theorem State.chnCoefInc_off (h : s.on (CHN_COEF_ADDR_AUTO_INC t.idx) = false) : s.chnCoefInc t = s := by
  rw [State.chnCoefInc, h]
  rfl

/-- R201: a word that no adaptation holds and Table 07-1 does not reserve is written. -/
theorem exec_chnCoefWrite_free (val : Word) (hadm : s.admits (CHN_COEF_DATA t.idx) = true) (hoff : s.on (CHN_EQ_ADAPT_EN t.idx) = false)
    (hfree : coefReserved (s.rd (CHN_COEF_ADDR_ADDR t.idx)) = false) (hinc : s.on (CHN_COEF_ADDR_AUTO_INC t.idx) = false) :
    exec (.chnCoefWrite t val) s =
      .next (s.updChn t (fun c => { c with coef := sparseSet c.coef (s.rd (CHN_COEF_ADDR_ADDR t.idx)) (fieldOf val 0 16) })) := by
  refine congrArg Host.Outcome.next ((State.gated_of_admits hadm _).trans ?_)
  simp only [hoff, hfree, Bool.false_and, Bool.false_eq_true, if_false]
  exact State.chnCoefInc_off hinc

/-- R202: the joint taps of set 0 are not written during adaptation. -/
theorem exec_chnCoefWrite_adapting (val : Word) (hadm : s.admits (CHN_COEF_DATA t.idx) = true) (hon : s.on (CHN_EQ_ADAPT_EN t.idx) = true)
    (htap : s.rd (CHN_COEF_ADDR_ADDR t.idx) < 20) (hinc : s.on (CHN_COEF_ADDR_AUTO_INC t.idx) = false) :
    exec (.chnCoefWrite t val) s = .next (s.chnIrq t 21) := by
  obtain ⟨-, -, hregs, -⟩ := s.chnIrq_leaves t (bit := 21) (by decide)
  refine congrArg Host.Outcome.next ((State.gated_of_admits hadm _).trans ?_)
  simp only [hon, htap, decide_true, Bool.true_and, if_true]
  refine State.chnCoefInc_off ?_
  rw [State.on, State.rd_congr (hregs _ (by cases t <;> decide)), ← State.on, hinc]

/-- One tap of the update (R202). -/
def State.adaptOne (s : State) (t : Tower) (mu : Nat) (sums : List Int) (k : Nat) : State :=
  (s.updChn t (fun c => { c with coef := sparseSet c.coef k (adaptTap s mu (sparseGet c.coef k) (nth sums k 0)) })).drawn

theorem State.coef_adaptOne_same (mu : Nat) (sums : List Int) (k : Nat) : sparseGet ((s.adaptOne t mu sums k).chn.get t).coef k =
    adaptTap s mu (sparseGet (s.chn.get t).coef k) (nth sums k 0) := by
  rw [State.adaptOne, State.drawn_chn, State.updChn_chn, Two.get_set_same, sparseGet_sparseSet_same]

theorem State.coef_adaptOne_other (mu : Nat) (sums : List Int) {j k : Nat} (h : k ≠ j) :
    sparseGet ((s.adaptOne t mu sums k).chn.get t).coef j = sparseGet (s.chn.get t).coef j := by
  rw [State.adaptOne, State.drawn_chn, State.updChn_chn, Two.get_set_same, sparseGet_sparseSet_other _ _ h]

/-- Of all else a tap leaves the coming updates, every register and every byte. -/
theorem State.adaptOne_leaves (mu : Nat) (sums : List Int) (k : Nat) :
    ((s.adaptOne t mu sums k).chn.get t).adapt = (s.chn.get t).adapt ∧ Changes [] s (s.adaptOne t mu sums k) :=
  ⟨by rw [State.adaptOne, State.drawn_chn, State.updChn_chn, Two.get_set_same], fun _ _ => rfl, fun _ => rfl⟩

/-- The update of a list of taps changes no other coefficient. -/
theorem State.foldl_adaptOne (mu : Nat) (sums : List Int) (l : List Nat) (s : State) :
    ((l.foldl (fun s k => s.adaptOne t mu sums k) s).chn.get t).adapt = (s.chn.get t).adapt ∧
      (∀ j, j ∉ l → sparseGet ((l.foldl (fun s k => s.adaptOne t mu sums k) s).chn.get t).coef j = sparseGet (s.chn.get t).coef j) ∧
      Changes [] s (l.foldl (fun s k => s.adaptOne t mu sums k) s) := by
  induction l generalizing s with
  | nil => exact ⟨rfl, fun _ _ => rfl, fun _ _ => rfl, fun _ => rfl⟩
  | cons k r ih =>
    obtain ⟨hadapt, hcoef, hchanges⟩ := ih (s.adaptOne t mu sums k)
    obtain ⟨hone, hkeeps⟩ := s.adaptOne_leaves (t := t) mu sums k
    refine ⟨hadapt.trans hone, fun j hj => ?_, hkeeps.trans hchanges⟩
    exact (hcoef j (List.not_mem_of_not_mem_cons hj)).trans (State.coef_adaptOne_other mu sums (List.ne_of_not_mem_cons hj).symm)

/-- The first of the 20 taps is updated from the state that the update finds. -/
theorem State.coef_foldl_adaptOne_first (mu : Nat) (sums : List Int) :
    sparseGet (((List.range 20).foldl (fun s k => s.adaptOne t mu sums k) s).chn.get t).coef 0 =
      adaptTap s mu (sparseGet (s.chn.get t).coef 0) (nth sums 0 0) := by
  have hfirst : List.range 20 = 0 :: List.range' 1 19 := rfl
  obtain ⟨-, hrest, -⟩ := (s.adaptOne t mu sums 0).foldl_adaptOne (t := t) mu sums (List.range' 1 19)
  rw [hfirst, List.foldl_cons, hrest 0 (by decide), State.coef_adaptOne_same]

/-- R202: the update goes over the 20 joint taps. -/
theorem exec_eqAdaptUpdate_due {sums : List Int} (h : (s.chn.get t).adapt = some sums) : exec (.eqAdaptUpdate t) s =
    .next ((List.range 20).foldl (fun q k => q.adaptOne t (max 6 (s.rd (CHN_EQ_ADAPT_MU t.idx))) sums k)
      (s.updChn t (fun c => { c with adapt := none }))) := by
  show execEqAdaptUpdate t s = _
  rw [execEqAdaptUpdate, h]
  rfl

end

/-! ## CHN_CNT_CLR -/

/-- Registers cleared one after the other read 0, the others as before. -/
theorem State.reg_foldl_setReg_zero (l : List Nat) (s : State) (a : Nat) :
    (l.foldl (fun s b => s.setReg b 0) s).reg a = if a ∈ l then 0 else s.reg a := by
  induction l generalizing s with
  | nil => rfl
  | cons b r ih =>
    rw [List.foldl_cons, ih]
    by_cases hb : b = a
    · simp [hb]
    · rw [State.reg_setReg_other s b a 0 hb]
      simp [Ne.symm hb]

theorem State.byte_foldl_setReg (l : List Nat) (s : State) (a : Nat) : (l.foldl (fun s b => s.setReg b 0) s).byte a = s.byte a := by
  induction l generalizing s with
  | nil => rfl
  | cons b r ih => exact (ih _).trans (s.setReg_byte b 0 a)

/-! ## READER_STREAM_OVERFLOW -/

section
variable {s : State} {t : Tower} {c : CapPlan} {k : Nat}

/-- The state in which the only capture has been given up, before its outcome is told (R199). -/
def State.cut (s : State) (t : Tower) (k : Nat) : State :=
  (s.updChn t (fun c => { c with
    caps := c.caps.filter (fun x => !(x.2 == k)),
    slots := upd c.slots k { nth c.slots k {} with
      capturing := false, replayable := false, gainA := s.rd (CHN_AFE_STAT_GAIN t.idx 0), gainB := s.rd (CHN_AFE_STAT_GAIN t.idx 1) } })).capBits t

theorem State.capBits_chn (s : State) (t : Tower) : (s.capBits t).chn = s.chn := by simp [State.capBits]

/-- R199: the overflow ends the only capture INCOMPLETE. -/
theorem exec_readerStreamOverflow_one (hcaps : (s.chn.get t).caps = [(c, k)]) (hcapturing : (s.slot t k).capturing = true)
    (hover : s.capOver t c = false) :
    exec (.readerStreamOverflow t) s = .next ((s.cut t k).liveOutcome t c (s.capInfo t c k 5)) := by
  have hcut : s.capCut t (c, k) = (s.cut t k).liveOutcome t c (s.capInfo t c k 5) := if_pos hcapturing
  show execReaderStreamOverflow t s = _
  rw [execReaderStreamOverflow, State.capSettle_of_none_over hcaps (.inr hover), hcaps, List.find?_cons_of_pos (by exact hcapturing)]
  exact congrArg Host.Outcome.next hcut

/-- The capture has gone, and its slot neither captures nor serves a replay. -/
theorem State.cut_caps_slot (hcaps : (s.chn.get t).caps = [(c, k)]) (hk : k < (s.chn.get t).slots.length) :
    ((s.cut t k).chn.get t).caps = [] ∧ ((s.cut t k).slot t k).capturing = false ∧ ((s.cut t k).slot t k).replayable = false := by
  rw [State.slot, State.cut, State.capBits_chn, State.updChn_chn, Two.get_set_same]
  dsimp only
  rw [nth_upd_same hk]
  exact ⟨by simp [hcaps], rfl, rfl⟩

end

/-! ## The rows of chapter 7 -/

/-- Settles O8: in the branch that the conditions of a clause pick, each command is one operation on the read channel, and the rule of that
operation says what it leaves. An outcome that is told leaves of memory all but the place of its record in the result ring. -/
theorem readChannelRows : Obligations.ReadChannelRows := by
  refine ⟨?front, ?pass, ?passed, ?localIter, ?globalIter, ?crcVerify, ?crcNormal, ?push, ?pushFull, ?replay, ?pin, ?pinRefused, ?unpin,
    ?coef, ?coefAdapting, ?adapt, ?clear, ?overflow⟩
  case front =>
    intro t c k sampA sampB afeA afeB s hcaps hverify hk hdone hdec hwaits
    obtain ⟨hend, hcands, hgain, hsamp, hmem⟩ :=
      State.searchEnd_stored_leaves sampA sampB afeA afeB hcaps hverify hk .verify s.fwk.cycle rfl rfl
    have hsearch := State.searchCands_stored sampA sampB afeA afeB hcaps hk
    refine ⟨_, exec_frontDetectorDone_verify sampA sampB afeA afeB hcaps hverify hdone hdec hwaits, ?_, ?_, ?_, fun hother => ?_, ?_⟩
    · rw [State.drawn_chn, hend]
    · rw [State.slot_congr (State.drawn_chn _), hcands, hsearch]
    · rw [State.slot_congr (State.drawn_chn _), hgain]
    · rw [State.slot_congr (State.drawn_chn _), hsamp hother]
    · exact fun b hb => by rw [State.drawn_byte, hmem b hb]
  case pass =>
    intro t u d s hdec hpassed
    exact ⟨_, exec_detectorPassDone_first hdec hpassed, s.dec_setDec_same t u _, s.busy_setDec_some t u _, s.setDec_changes t u _⟩
  case passed =>
    intro t u d s hdec hpassed
    exact ⟨s, exec_detectorPassDone_again hdec hpassed, rfl⟩
  case localIter =>
    intro t u d s hdec hpassed hlocal hwaits
    exact localIterationDone_answers hdec hpassed hwaits fun hunsat => exec_localIterationDone_local hdec hpassed hunsat hlocal
  case globalIter =>
    intro t u d s hdec hpassed hlocal hglobal hwaits
    exact localIterationDone_answers hdec hpassed hwaits fun hunsat => exec_localIterationDone_global hdec hpassed hunsat hlocal hglobal
  case crcVerify =>
    intro t d s hcrcs
    obtain ⟨x, hunit, hexec⟩ := exec_crcCheckDone_verify hcrcs
    obtain ⟨hchn, hmem⟩ := State.liveEnd_leaves (s := s.crcTaken t (.verify, d)) (t := t) d.slot (.inl hunit)
    refine ⟨_, hexec, ?_, hmem⟩
    rw [State.drawn_chn, hchn, State.get_chn_updSlot]
    exact State.crcs_crcTaken hcrcs
  case crcNormal =>
    intro t d p s hcrcs hopen hbelow
    obtain ⟨x, f, hout, hf, hexec⟩ := exec_crcCheckDone_normal hcrcs hopen
    obtain ⟨hend, hbytes, hmem⟩ := State.liveEnd_setBytes_leaves (s := s.crcTaken t (.normal, d)) d.slot hout hbelow
    refine ⟨_, hexec, ?_, ?_, hmem⟩
    · rw [State.updChn_chn, Two.get_set_same, hf, State.drawn_chn, hend]
      exact State.crcs_crcTaken hcrcs
    · rw [State.bytes_congr (State.updChn_mem _ t f), State.bytes_congr (State.drawn_mem _), hbytes]
  case push =>
    intro t s hadm hon hroom
    exact ⟨_, (exec_chnRpPush_one hadm).trans (congrArg _ (State.rpPush_of_room hon hroom)),
      State.setDepth_queued [_] (Nat.lt_trans (Nat.succ_lt_succ hroom) (by decide)) rfl⟩
  case pushFull =>
    intro t s hadm hon hfull
    obtain ⟨hshows, hchn, hchanges⟩ := s.chnIrq_leaves t (bit := 24) (by decide)
    exact ⟨_, (exec_chnRpPush_one hadm).trans (congrArg _ (State.rpPush_of_full hon hfull)), hshows, by rw [hchn], hchanges⟩
  case replay =>
    intro t q s hreplay hcrcs hqueue hauto
    obtain ⟨r, hexec, hshows⟩ := exec_replayStart_one hreplay hcrcs hqueue
    refine ⟨_, hexec, ?_⟩
    show ReplayShows t [] (fieldOf (nth q.words 0 0) 16 8) 0 _
    split
    · exact hshows.replayEnd hauto _ _ _
    · exact hshows.runReq hauto
  case pin =>
    intro t val s hadm hslot hgen hcan
    exact ⟨_, congrArg Host.Outcome.next ((State.gated_of_admits hadm _).trans (State.pinWrite_performed hslot hgen (.inr hcan))),
      State.setPin_shows hslot true⟩
  case pinRefused =>
    intro t val s hadm hbad
    exact ⟨_, congrArg Host.Outcome.next ((State.gated_of_admits hadm _).trans (State.pinWrite_refused hbad)), s.pinRefused_shows t rfl⟩
  case unpin =>
    intro t val s hadm hslot hgen
    exact ⟨_, congrArg Host.Outcome.next ((State.gated_of_admits hadm _).trans (State.pinWrite_performed hslot hgen (.inl rfl))),
      State.setPin_shows hslot false⟩
  case coef =>
    intro t val s hadm hoff hfree hinc
    refine ⟨_, exec_chnCoefWrite_free val hadm hoff hfree hinc, ?_, fun _ _ => rfl, fun _ => rfl⟩
    rw [State.updChn_chn, Two.get_set_same, sparseGet_sparseSet_same]
  case coefAdapting =>
    intro t val s hadm hon htap hinc
    exact ⟨_, exec_chnCoefWrite_adapting val hadm hon htap hinc, s.chnIrq_leaves t (by decide)⟩
  case adapt =>
    intro t sums s hdue
    let mu := max 6 (s.rd (CHN_EQ_ADAPT_MU t.idx))
    let q := s.updChn t (fun c => { c with adapt := none })
    obtain ⟨hadapt, hcoef, hchanges⟩ := q.foldl_adaptOne (t := t) mu sums (List.range 20)
    refine ⟨_, exec_eqAdaptUpdate_due hdue, ?_, ?_, fun k hk => ?_, hchanges⟩
    · rw [hadapt, State.updChn_chn, Two.get_set_same]
    · rw [State.coef_foldl_adaptOne_first, State.updChn_chn, Two.get_set_same]
      rfl
    · rw [hcoef k (by simpa using hk), State.updChn_chn, Two.get_set_same]
  case clear =>
    intro t s hadm
    refine ⟨_, congrArg Host.Outcome.next (State.gated_of_admits hadm _), ?_, ?_, fun a ha => ?_, fun a => State.byte_foldl_setReg _ s a⟩
    · exact (State.reg_foldl_setReg_zero _ s _).trans (if_pos (.head _))
    · exact (State.reg_foldl_setReg_zero _ s _).trans (if_pos (by simp))
    · exact (State.reg_foldl_setReg_zero _ s a).trans (if_neg ha)
  case overflow =>
    intro t k c s hcaps hk hcapturing hover
    obtain ⟨hend, hcapturing', hreplayable⟩ := State.cut_caps_slot hcaps hk
    obtain ⟨hchn, -⟩ := (s.cut t k).liveOutcome_leaves t c (s.capInfo t c k 5)
    refine ⟨_, exec_readerStreamOverflow_one hcaps hcapturing hover, ?_, ?_, ?_⟩
    · rw [State.slot_congr hchn, hcapturing']
    · rw [State.slot_congr hchn, hreplayable]
    · rw [hchn, hend]

end Sys2Proof.Machine
end

section
/-! PROOFS of the statements of chapter 8 about the write path and the Lantern (R248): a fault stop that ends at once takes with it a soft reset
that waits, and so the cause of the fault. -/

namespace Sys2Proof.Machine

/-- Lantern A from reset, ON, with a soft reset of it that waits for a shut-down (R35). With KIND 0 its shut-down has no BIAS frame to wait
for and is over at once. The state is written out, not reached by a run: a soft reset that begins to wait takes the block out of ON. -/
def lanternAwaitingReset : State := (State.reset.setSt bLAN 0 stON).updFwk (fun y => { y with softWait := [blkKey bLAN 0] })

/-- The link of Tower A hears a FAULT frame, and the Lantern is ON. -/
theorem lanternAwaitingReset_hears : lanternAwaitingReset.cplHears .A = true ∧ lanternAwaitingReset.isOn bLAN Tower.A.idx = true := by
  decide

/-- The state after a FAULT frame. -/
def afterFaultFrame : State := (lanternAwaitingReset.wr (CPL_STAT_PSTATUS 0) 0).lanFault .A cPREAMP

theorem exec_cplFaultFrame_lanternAwaitingReset : exec (.cplFaultFrame .A 0) lanternAwaitingReset = .next afterFaultFrame :=
  congrArg Host.Outcome.next (if_pos lanternAwaitingReset_hears.1)

/-- The fault stop reaches its end in the step of the frame, and the register reset that waited for it returns LAN_STAT to its reset value
(R35). -/
theorem afterFaultFrame_cause : afterFaultFrame.rd (LAN_STAT_CAUSE 0) = 0 := by
  decide +kernel

/-- Refutes O9: the clause of a FAULT frame at a Lantern that is ON wants CAUSE to show PREAMP, and none of its conditions excludes a soft
reset that waits, as those of SHUTDOWN_COMPLETE do. Where one waits, the end of the fault stop resets the Lantern's registers, CAUSE among
them. -/
theorem not_writeAndAssistRows : ¬ Obligations.WriteAndAssistRows := by
  intro h
  obtain ⟨-, -, -, -, -, -, -, -, hfault, -⟩ := h
  obtain ⟨hhears, hon⟩ := lanternAwaitingReset_hears
  obtain ⟨r, hexec, hcause, -⟩ := hfault .A 0 lanternAwaitingReset hhears hon
  obtain rfl : afterFaultFrame = r := by rw [exec_cplFaultFrame_lanternAwaitingReset] at hexec; exact Host.Outcome.next.inj hexec
  have hreset : afterFaultFrame.rd (LAN_STAT_CAUSE 0) = 3 := hcause
  rw [afterFaultFrame_cause] at hreset
  exact absurd hreset (by decide)

end Sys2Proof.Machine
end

section
/-! PROOFS of the statements of chapter 8 about the preamp link (R235, R236, R237, R239, R240): what a frame that leaves, an answer, a count, or
a write of CPL_REG_CMD makes of the link, and what it leaves. -/

namespace Sys2Proof.Machine

/-! ## Link state, counts and interrupts -/

theorem State.cpl_updCpl (s : State) (t : Tower) (f : CplState → CplState) :
    ((s.updCpl t f).twr.get t).cpl = f (s.twr.get t).cpl := by
  rw [State.updCpl, State.updTwr_twr, Two.get_set_same]

theorem State.updCpl_changes (l : List Nat) (s : State) (t : Tower) (f : CplState → CplState) : Changes l s (s.updCpl t f) :=
  ⟨fun _ _ => rfl, fun _ => rfl⟩

/-- A count shows its new value: it saturates within its field. -/
theorem State.rd_bump_same (s : State) (f : Fld) (k : Nat) (h : f.lo + f.width ≤ 32) :
    (s.bump f k).rd f = satAdd f.width (s.rd f) k := by
  have hlt : satAdd f.width (s.rd f) k < 2 ^ f.width :=
    lt_of_le_of_lt (Nat.min_le_left _ _) (Nat.sub_lt (Nat.two_pow_pos _) Nat.one_pos)
  exact (s.rd_wr_same f _ h).trans (Nat.mod_eq_of_lt hlt)

/-- An interrupt of the link shows in INT_STAT of its page 0, and leaves everything else. -/
theorem State.cplIrq_leaves (s : State) (t : Tower) {bit : Nat} (hbit : bit < 32) :
    (s.cplIrq t bit).rd ⟨pageBase bCPL t.idx 0 + 0x10, bit, 1⟩ = 1 ∧ (s.cplIrq t bit).twr = s.twr ∧
      Changes [pageBase bCPL t.idx 0 + 0x10] s (s.cplIrq t bit) :=
  ⟨State.rd_wr_same s ⟨pageBase bCPL t.idx 0 + 0x10, bit, 1⟩ 1 hbit, s.irq_twr _ _ _ _,
    s.irq_changes bCPL t.idx 0 bit (List.mem_singleton_self _)⟩

/-! ## A frame leaves -/

section
variable {s : State} {t : Tower}

/-- R240: a read that waits is the next frame. -/
theorem State.cplNext_of_read {c : CplState} {a : Nat} (h : c.pendRead = some a) :
    s.cplNext t c = some ({ typ := 2, addr := a }, { c with pendRead := none, verReads := c.verReads + 1 }) := by
  rw [State.cplNext, h]

/-- R237: on an adopted link on which nothing else waits, the next frame is the KEEPALIVE. -/
theorem State.cplNext_of_keep {c : CplState} (hadopted : c.adopted = true) (hread : c.pendRead = none) (hhead : c.pendHead = false)
    (hassist : c.pendAssist = none) (hbias : c.pendBias = none) (hfw : c.pendFw = none) (hloop : c.loopNow = 0) (hkeep : c.pendKeep = true) :
    s.cplNext t c = some ({ typ := 3 }, { c with pendKeep := false }) := by
  simp [State.cplNext, hadopted, hread, hhead, hassist, hbias, hfw, hloop, hkeep]

/-- The link after the frame `f` has left with the sequence number `n`: a KEEPALIVE awaits no answer. -/
def CplState.afterSend (c : CplState) (f : CplFrame) (n : Nat) : CplState :=
  { c with seq := n, sent := cplBits { f with seq := n }, pendKeep := false, awaiting := if f.typ = 3 then none else some { f with seq := n } }

/-- R237: with no frame unanswered the next frame leaves; a preamp of version 3 counts SEQ, and under no loop-back nothing answers yet. -/
theorem State.cplSend_of_next {f : CplFrame} {c : CplState} (hrst : (s.twr.get t).cpl.rstN = true)
    (hfree : (s.twr.get t).cpl.awaiting = none) (hversion : ¬ s.rd (CPL_STAT_VERSION t.idx) = 2) (hloop : (s.twr.get t).cpl.loopNow = 0)
    (hnext : s.cplNext t (s.twr.get t).cpl = some (f, c)) :
    s.cplSend t = s.updCpl t (fun _ => c.afterSend f (((s.twr.get t).cpl.seq + 1) % 16)) := by
  have hseq : s.cplSeq t (s.twr.get t).cpl = ((s.twr.get t).cpl.seq + 1) % 16 := if_neg hversion
  simp [State.cplSend, hrst, hfree, hnext, hloop, hseq, CplState.afterSend]

end

/-! ## Answers to a frame of the firmware -/

section
variable {s : State} {t : Tower}

/-- A write of ERR leaves GO. -/
theorem State.rd_go_wr_err (s : State) (t : Tower) (x : Nat) :
    (s.wr (CPL_REG_CMD_ERR t.idx) x).rd (CPL_REG_CMD_GO t.idx) = s.rd (CPL_REG_CMD_GO t.idx) :=
  s.rd_wr_beside (CPL_REG_CMD_ERR t.idx) (CPL_REG_CMD_GO t.idx) x (Nat.le_of_ble_eq_true rfl) (.inr (Nat.le_of_ble_eq_true rfl))

theorem State.rd_err_wb (s : State) (t : Tower) (b : Bool) :
    (s.wb (CPL_REG_CMD_ERR t.idx) b).rd (CPL_REG_CMD_ERR t.idx) = b2n b := by
  have hsame := s.rd_wr_same (CPL_REG_CMD_ERR t.idx) (b2n b) (Nat.le_of_ble_eq_true rfl)
  cases b with
  | false => exact hsame
  | true => exact hsame

/-- R239: CPL_REG_CMD shows the end of the firmware's frame, with or without an error, and an interrupt tells of it. -/
theorem State.cplFwDone_shows (s : State) (t : Tower) (err : Bool) :
    (s.cplFwDone t err).on (CPL_REG_CMD_GO t.idx) = false ∧ (s.cplFwDone t err).on (CPL_REG_CMD_ERR t.idx) = err ∧
      (s.cplFwDone t err).rd ⟨pageBase bCPL t.idx 0 + 0x10, 25, 1⟩ = 1 ∧ (s.cplFwDone t err).twr = s.twr ∧
      Changes [CPL_REG_CMD t.idx, pageBase bCPL t.idx 0 + 0x10] s (s.cplFwDone t err) := by
  let q := (s.wr (CPL_REG_CMD_GO t.idx) 0).wb (CPL_REG_CMD_ERR t.idx) err
  obtain ⟨hirq, htwr, hchanges⟩ := q.cplIrq_leaves t (bit := 25) (by decide)
  have hkept : ∀ f : Fld, f.addr = CPL_REG_CMD t.idx → (q.cplIrq t 25).rd f = q.rd f := fun f hf =>
    State.rd_congr (hchanges.1 _ (by rw [hf]; cases t <;> decide))
  have hgo : q.rd (CPL_REG_CMD_GO t.idx) = 0 :=
    (State.rd_go_wr_err _ t _).trans (s.rd_wr_same (CPL_REG_CMD_GO t.idx) 0 le_rfl)
  refine ⟨?_, ?_, hirq, htwr.trans ((State.wb_twr _ _ _).trans (State.wr_twr _ _ _)), ?_⟩
  · rw [State.on, State.cplFwDone, hkept (CPL_REG_CMD_GO t.idx) rfl, hgo]
    rfl
  · rw [State.on, State.cplFwDone, hkept (CPL_REG_CMD_ERR t.idx) rfl, State.rd_err_wb]
    cases err <;> rfl
  · exact ((s.wr_changes (CPL_REG_CMD_GO t.idx) 0 (.head _)).trans (State.wr_changes _ (CPL_REG_CMD_ERR t.idx) _ (.head _))).trans
      (hchanges.mono (by simp))

/-- The link with the frame that awaited an answer taken off it. -/
def State.cplTaken (s : State) (t : Tower) : State := s.updCpl t (fun c => { c with awaiting := none })

theorem State.awaiting_cplTaken (s : State) (t : Tower) : ((s.cplTaken t).twr.get t).cpl.awaiting = none := by
  rw [State.cplTaken, State.cpl_updCpl]

/-- R236: the answer to a WRITE of the firmware. -/
theorem State.cplAnswer_fwWrite {f : CplFrame} (data : Nat) (hfw : f.fw = true) (htyp : f.typ = 1) :
    s.cplAnswer t f data = (s.cplTaken t).cplFwDone t false := by
  simp [State.cplAnswer, State.cplTaken, hfw, htyp]

/-- R240: the answer to a READ of the firmware shows in CPL_REG_DATA. -/
theorem State.cplAnswer_fwRead {f : CplFrame} (data : Nat) (hfw : f.fw = true) (htyp : f.typ = 2) :
    s.cplAnswer t f data = ((s.cplTaken t).wr (CPL_REG_DATA_DATA t.idx) data).cplFwDone t false := by
  simp [State.cplAnswer, State.cplTaken, hfw, htyp]

/-- R236: an ACK that repeats the register is the answer to the frame with its SEQ. -/
theorem exec_cplAck_of_match {seq : Nat} {f : CplFrame} (data : Nat) (hmatch : s.cplMatch t seq = some f) :
    exec (.cplAck t seq f.addr data) s = .next (s.cplAnswer t f data) := by
  show execCplAck t seq f.addr data s = _
  simp [execCplAck, hmatch]

theorem exec_readData_of_match {seq : Nat} {f : CplFrame} (addr data : Nat) (hmatch : s.cplMatch t seq = some f) :
    exec (.readData t seq addr data) s = .next (s.cplAnswer t f data) := by
  show execReadData t seq addr data s = _
  rw [execReadData, hmatch]

/-! ## Frames sent again -/

theorem exec_cplNak_of_match {seq : Nat} {f : CplFrame} (hmatch : s.cplMatch t seq = some f) :
    exec (.cplNak t seq) s = .next ((s.bump (CPL_CNT_NAK t.idx) 1).cplRetry t f) := by
  show execCplNak t seq s = _
  rw [execCplNak, hmatch]

theorem exec_cplAnswerTimeout_of_awaiting {f : CplFrame} (hawait : (s.twr.get t).cpl.awaiting = some f) :
    exec (.cplAnswerTimeout t) s = .next ((s.bump (CPL_CNT_TIMEOUT t.idx) 1).cplRetry t f) := by
  show execCplAnswerTimeout t s = _
  rw [execCplAnswerTimeout, hawait]

/-- R236: a frame that is no read of VERSION by the start goes out again while RETRY allows it. -/
theorem State.cplRetry_again {f : CplFrame} (htyp : f.typ = 1) (hretry : f.resends < atLeast1 (s.rd (CPL_CFG_RETRY t.idx))) :
    s.cplRetry t f = s.updCpl t (fun c => { c with awaiting := some { f with resends := f.resends + 1 }, sent := cplBits f }) := by
  simp [State.cplRetry, htyp, hretry]

/-- R240: during the start a read of VERSION without an answer is made again, three times in all. -/
theorem State.cplRetry_version {f : CplFrame} (hfw : f.fw = false) (htyp : f.typ = 2) (haddr : f.addr = 0)
    (hstarted : (s.twr.get t).cpl.started = false) (hreads : (s.twr.get t).cpl.verReads < 3) :
    s.cplRetry t f = s.updCpl t (fun c => { c with awaiting := none, pendRead := some 0 }) := by
  simp [State.cplRetry, hfw, htyp, haddr, hstarted, hreads]

/-! ## CPL_REG_CMD -/

/-- READ and ADDR of CPL_REG_CMD as a write leaves them. -/
def State.regCmdStored (s : State) (t : Tower) (val : Word) : State :=
  (s.wr (CPL_REG_CMD_READ t.idx) (fieldOf val 30 1)).wr (CPL_REG_CMD_ADDR t.idx) (fieldOf val 0 8)

theorem State.regCmdStored_changes (s : State) (t : Tower) (val : Word) : Changes [CPL_REG_CMD t.idx] s (s.regCmdStored t val) :=
  (s.wr_changes (CPL_REG_CMD_READ t.idx) _ (.head _)).trans (State.wr_changes _ (CPL_REG_CMD_ADDR t.idx) _ (.head _))

theorem State.rd_go_regCmdStored (s : State) (t : Tower) (val : Word) :
    (s.regCmdStored t val).rd (CPL_REG_CMD_GO t.idx) = s.rd (CPL_REG_CMD_GO t.idx) := by
  simp [State.regCmdStored, State.rd_wr_beside, CPL_REG_CMD_GO, CPL_REG_CMD_READ, CPL_REG_CMD_ADDR]

/-- R239: GO with READ on a link that is up queues a READ of the firmware. -/
theorem exec_cplRegGo_read {val : Word} (hadm : s.admits (CPL_REG_CMD t.idx) = true) (hidle : s.on (CPL_REG_CMD_GO t.idx) = false)
    (hgo : fieldOf val 31 1 = 1) (hread : fieldOf val 30 1 = 1) (hup : s.on (CPL_STAT_LINK_UP t.idx) = true) :
    exec (.cplRegGo t val) s = .next ((((s.regCmdStored t val).wr (CPL_REG_CMD_GO t.idx) 1).wr (CPL_REG_CMD_ERR t.idx) 0).updCpl t
      (fun c => { c with pendFw := some { typ := 2, addr := fieldOf val 0 8, fw := true } })) := by
  refine congrArg Host.Outcome.next ((State.gated_of_admits hadm _).trans ?_)
  simp [State.cplRegCmd, State.regCmdStored, hidle, hgo, hread, hup]

/-- R239: GO on a link that is not up is refused. -/
theorem exec_cplRegGo_down {val : Word} (hadm : s.admits (CPL_REG_CMD t.idx) = true) (hidle : s.on (CPL_REG_CMD_GO t.idx) = false)
    (hgo : fieldOf val 31 1 = 1) (hdown : s.on (CPL_STAT_LINK_UP t.idx) = false) :
    exec (.cplRegGo t val) s = .next (((s.regCmdStored t val).wr (CPL_REG_CMD_ERR t.idx) 1).cplIrq t 24) := by
  refine congrArg Host.Outcome.next ((State.gated_of_admits hadm _).trans ?_)
  simp [State.cplRegCmd, State.regCmdStored, hidle, hgo, hdown]

end

/-! ## The rows of the link -/

/-- Settles O10: in the branch that the conditions of a clause pick, each command sends the next frame, takes an answer, counts, or writes
CPL_REG_CMD, and the rule of that operation says what it leaves. -/
theorem preampLinkRows : Obligations.PreampLinkRows := by
  refine ⟨?send, ?keepalive, ?ack, ?nak, ?readData, ?badCrc, ?badDirection, ?timeout, ?release, ?versionRead, ?regRead, ?regDown⟩
  case send =>
    intro t s hrst hfree hread hversion hloop
    have hsend := State.cplSend_of_next hrst hfree hversion hloop (State.cplNext_of_read hread)
    refine ⟨_, congrArg Host.Outcome.next hsend, ?_, ?_, ?_, s.updCpl_changes _ t _⟩
    all_goals rw [State.cpl_updCpl]; rfl
  case keepalive =>
    intro t s hrst hfree hadopted hread hhead hassist hbias hfw hversion hloop
    let q := s.updCpl t (fun c => { c with pendKeep := c.adopted })
    have hcpl : (q.twr.get t).cpl = { (s.twr.get t).cpl with pendKeep := true } := by
      rw [State.cpl_updCpl, ← hadopted]
    have hsend : q.cplSend t = _ := State.cplSend_of_next (by rw [hcpl, hrst]) (by rw [hcpl, hfree]) hversion (by rw [hcpl, hloop])
      (by rw [hcpl]; exact State.cplNext_of_keep hadopted hread hhead hassist hbias hfw hloop rfl)
    refine ⟨_, congrArg Host.Outcome.next hsend, ?_, ?_, (s.updCpl_changes _ t _).trans (q.updCpl_changes _ t _)⟩
    · rw [State.cpl_updCpl]; rfl
    · rw [State.cpl_updCpl, hcpl]; rfl
  case ack =>
    intro t seq data f s hmatch hfw htyp
    obtain ⟨hgo, herr, hirq, htwr, hchanges⟩ := (s.cplTaken t).cplFwDone_shows t false
    refine ⟨_, (exec_cplAck_of_match data hmatch).trans (congrArg _ (State.cplAnswer_fwWrite data hfw htyp)), ?_, hgo, herr, hirq, ?_⟩
    · rw [htwr, State.awaiting_cplTaken]
    · exact (s.updCpl_changes _ t _).trans hchanges
  case nak =>
    intro t seq f s hmatch _ _ htyp hretry
    let q := s.bump (CPL_CNT_NAK t.idx) 1
    have hcfg : q.rd (CPL_CFG_RETRY t.idx) = s.rd (CPL_CFG_RETRY t.idx) := s.rd_wr_other _ _ _ (by cases t <;> decide)
    refine ⟨_, (exec_cplNak_of_match hmatch).trans (congrArg _ (State.cplRetry_again htyp (by rw [hcfg]; exact hretry))), ?_, ?_, ?_⟩
    · rw [State.cpl_updCpl]
    · exact s.rd_bump_same (CPL_CNT_NAK t.idx) 1 (Nat.le_of_ble_eq_true rfl)
    · exact (s.wr_changes (CPL_CNT_NAK t.idx) _ (.head _)).trans (q.updCpl_changes _ t _)
  case readData =>
    intro t seq data f s hmatch hfw htyp
    let q := (s.cplTaken t).wr (CPL_REG_DATA_DATA t.idx) data
    obtain ⟨hgo, -, -, htwr, hchanges⟩ := q.cplFwDone_shows t false
    refine ⟨_, (exec_readData_of_match f.addr data hmatch).trans (congrArg _ (State.cplAnswer_fwRead data hfw htyp)), ?_, ?_, hgo, ?_⟩
    · rw [htwr, State.wr_twr, State.awaiting_cplTaken]
    · rw [State.rd_congr (hchanges.1 _ (by cases t <;> decide))]
      exact State.rd_wr_same _ (CPL_REG_DATA_DATA t.idx) data (Nat.le_of_ble_eq_true rfl)
    · exact hchanges.2
  case badCrc =>
    intro t s
    let q := s.bump (CPL_CNT_CRC t.idx) 1
    obtain ⟨hirq, -, hchanges⟩ := q.cplIrq_leaves t (bit := 26) (by decide)
    refine ⟨q.cplIrq t 26, rfl, ?_, hirq, (s.wr_changes (CPL_CNT_CRC t.idx) _ (.head _)).trans (hchanges.mono (by simp))⟩
    rw [State.rd_congr (hchanges.1 _ (by cases t <;> decide))]
    exact s.rd_bump_same (CPL_CNT_CRC t.idx) 1 le_rfl
  case badDirection =>
    exact fun t s => ⟨s, rfl, rfl⟩
  case timeout =>
    intro t f s hawait hfw htyp haddr hreads hstarted
    let q := s.bump (CPL_CNT_TIMEOUT t.idx) 1
    have hretry : q.cplRetry t f = _ := State.cplRetry_version hfw htyp haddr hstarted hreads
    refine ⟨_, (exec_cplAnswerTimeout_of_awaiting hawait).trans (congrArg _ hretry), ?_, ?_, ?_, ?_⟩
    · rw [State.cpl_updCpl]
    · rw [State.cpl_updCpl]
    · exact s.rd_bump_same (CPL_CNT_TIMEOUT t.idx) 1 (Nat.le_of_ble_eq_true rfl)
    · exact (s.wr_changes (CPL_CNT_TIMEOUT t.idx) _ (.head _)).trans (q.updCpl_changes _ t _)
  case release =>
    intro t s hstarting
    exact ⟨_, congrArg Host.Outcome.next (if_pos hstarting), by rw [State.cpl_updCpl], s.updCpl_changes _ t _⟩
  case versionRead =>
    intro t s hstarting hrst hadopted hfree hversion hloop
    let q := s.updCpl t (fun c => { c with pendRead := some 0 })
    have hcpl : (q.twr.get t).cpl = { (s.twr.get t).cpl with pendRead := some 0 } := State.cpl_updCpl s t _
    have hsend : q.cplSend t = _ := State.cplSend_of_next (by rw [hcpl, hrst]) (by rw [hcpl, hfree]) hversion (by rw [hcpl, hloop])
      (State.cplNext_of_read (by rw [hcpl]))
    refine ⟨_, congrArg Host.Outcome.next ((if_pos ⟨hstarting, hrst, hadopted⟩).trans hsend), ?_, ?_,
      (s.updCpl_changes _ t _).trans (q.updCpl_changes _ t _)⟩
    all_goals rw [State.cpl_updCpl, hcpl]; rfl
  case regRead =>
    intro t val s hadm hidle hgo hread hup
    let q := (s.regCmdStored t val).wr (CPL_REG_CMD_GO t.idx) 1
    refine ⟨_, exec_cplRegGo_read hadm hidle hgo hread hup, ?_, ?_, ?_⟩
    · have hset : q.rd (CPL_REG_CMD_GO t.idx) = 1 := State.rd_wr_same _ (CPL_REG_CMD_GO t.idx) 1 le_rfl
      rw [State.updCpl, State.updTwr_on, State.on, State.rd_go_wr_err, hset]
      rfl
    · rw [State.cpl_updCpl]
    · exact (((s.regCmdStored_changes t val).trans (State.wr_changes _ (CPL_REG_CMD_GO t.idx) 1 (.head _))).trans
        (q.wr_changes (CPL_REG_CMD_ERR t.idx) 0 (.head _))).trans (State.updCpl_changes _ _ t _)
  case regDown =>
    intro t val s hadm hidle hgo hdown
    let q := (s.regCmdStored t val).wr (CPL_REG_CMD_ERR t.idx) 1
    obtain ⟨hirq, -, hchanges⟩ := q.cplIrq_leaves t (bit := 24) (by decide)
    have hkept : ∀ f : Fld, f.addr = CPL_REG_CMD t.idx → (q.cplIrq t 24).on f = q.on f := fun f hf => by
      rw [State.on, State.rd_congr (hchanges.1 _ (by rw [hf]; cases t <;> decide)), State.on]
    refine ⟨_, exec_cplRegGo_down hadm hidle hgo hdown, ?_, ?_, hirq, ?_⟩
    · rw [hkept _ rfl, State.on, State.rd_go_wr_err, State.rd_go_regCmdStored, ← State.on, hidle]
    · have herr : q.rd (CPL_REG_CMD_ERR t.idx) = 1 := (s.regCmdStored t val).rd_err_wb t true
      rw [hkept _ rfl, State.on, herr]
      rfl
    · have hstored : SameMem s q := ((s.regCmdStored_changes t val).trans (State.wr_changes _ (CPL_REG_CMD_ERR t.idx) 1 (.head _))).2
      exact fun a => (hchanges.2 a).trans (hstored a)

end Sys2Proof.Machine
end

section
/-! PROOFS of the statements of chapter 9: an attempt of the retry ladder (R258 to R264), the end of a ladder (R273 to R278), and a head taken out
of the active head list (R179). -/

namespace Sys2Proof.Machine

/-! ## Layout updates and pins -/

theorem State.lay_updLay (s : State) (t : Tower) (f : LayState → LayState) : (s.updLay t f).lay.get t = f (s.lay.get t) := by
  rw [State.updLay_lay, Two.get_set_same]

theorem State.updLay_changes (l : List Nat) (s : State) (t : Tower) (f : LayState → LayState) : Changes l s (s.updLay t f) :=
  ⟨fun _ _ => rfl, fun _ => rfl⟩

/-- Of registers and memory, only CHN_RB_STAT and the pin map of a Tower differ; the layout and the event recorder are the same. -/
def OnlyPins (t : Tower) (s r : State) : Prop :=
  Changes [CHN_RB_STAT t.idx, CHN_RB_PINMAP_LO t.idx, CHN_RB_PINMAP_HI t.idx] s r ∧ r.lay = s.lay ∧ r.evr = s.evr

theorem pinFld_addr_mem (i k : Nat) : (pinFld i k).addr ∈ [CHN_RB_STAT i, CHN_RB_PINMAP_LO i, CHN_RB_PINMAP_HI i] := by
  unfold pinFld
  split <;> simp

theorem rpStat_ne_pinFld (i k : Nat) : CHN_RP_STAT i ≠ (pinFld i k).addr := fun h => by
  have hmem := pinFld_addr_mem i k
  rw [← h] at hmem
  simp [CHN_RP_STAT, CHN_RB_STAT, CHN_RB_PINMAP_LO, CHN_RB_PINMAP_HI] at hmem

section
variable {s q r : State} {t : Tower}

theorem OnlyPins.refl (t : Tower) (s : State) : OnlyPins t s s := ⟨⟨fun _ _ => rfl, fun _ => rfl⟩, rfl, rfl⟩

theorem OnlyPins.trans (h : OnlyPins t s q) (h' : OnlyPins t q r) : OnlyPins t s r := by
  obtain ⟨hchanges, hlay, hevr⟩ := h
  obtain ⟨hchanges', hlay', hevr'⟩ := h'
  exact ⟨hchanges.trans hchanges', hlay'.trans hlay, hevr'.trans hevr⟩

theorem State.setPin_onlyPins (s : State) (t : Tower) (k : Nat) (v : Bool) : OnlyPins t s (s.setPin t k v) :=
  ⟨(s.wr_changes (pinFld t.idx k) _ (pinFld_addr_mem t.idx k)).trans (State.wr_changes _ (CHN_RB_STAT_PIN_COUNT t.idx) _ (.head _)),
    by rw [State.setPin, State.wr_lay, State.wb_lay], by rw [State.setPin, State.wr_evr, State.wb_evr]⟩

theorem State.setPin_chn (s : State) (t : Tower) (k : Nat) (v : Bool) : (s.setPin t k v).chn = s.chn := by simp [State.setPin]

/-- A pin shows in its bit of the pin map. -/
theorem State.rd_pinFld_setPin {k : Nat} (hk : k < 51) (v : Bool) : (s.setPin t k v).rd (pinFld t.idx k) = b2n v :=
  (State.rd_wr_other _ (CHN_RB_STAT_PIN_OK t.idx) _ 1 (rbStat_ne_pinFld t.idx k)).symm.trans (State.setPin_shows hk v).1

theorem State.unpinSector_onlyPins (s : State) (t : Tower) (x : Sect) : OnlyPins t s (s.unpinSector t x) :=
  List.foldlRecOn (motive := OnlyPins t s) _ _ (OnlyPins.refl t s) fun q hq k _ => hq.trans (q.setPin_onlyPins t k false)

/-- The registers of the servo and of the event recorder are no pins. -/
theorem OnlyPins.rd (h : OnlyPins t s r) (f : Fld) (hf : f.addr < 0x21000000) : r.rd f = s.rd f := by
  obtain ⟨⟨hregs, -⟩, -⟩ := h
  refine State.rd_congr (hregs _ fun hmem => ?_)
  simp only [List.mem_cons, List.not_mem_nil, or_false, CHN_RB_STAT, CHN_RB_PINMAP_LO, CHN_RB_PINMAP_HI] at hmem
  omega

theorem OnlyPins.headIn (h : OnlyPins t s r) (x : Nat) : r.headIn t x = s.headIn t x := by
  have hheads : r.rd (SRV_CFG_NHEADS t.idx) = s.rd (SRV_CFG_NHEADS t.idx) := h.rd _ (by cases t <;> decide)
  obtain ⟨-, hlay, -⟩ := h
  rw [State.headIn, State.headIn, State.activeHeads, State.activeHeads, hlay, hheads]

end

/-! ## The ladder of a sector -/

theorem ladderKey_self (x : Sect) : ladderKey x x = true := by simp [ladderKey]

section
variable {s : State} {t : Tower} {sec : Sect} {l : Ladder} {o : SeenOut} {fac : Factory} {profile : Nat}

/-- The band map says what a sector holds, not where it lies. -/
theorem State.sectFill_head (s : State) (t : Tower) (x : Sect) : (s.sectFill t x).head = x.head := by
  unfold State.sectFill
  cases (s.lay.get t).places.find? (fun p => p.band == x.band && p.member == x.member && p.slot == x.slot) <;> rfl

/-- A ladder that a live outcome at time `since` begins (R258). -/
def State.newLadder (s : State) (t : Tower) (x : Sect) (profile since : Nat) : Ladder :=
  { sec := s.sectFill t x, profile := profile, step := 2, att := 0, since := since }

theorem State.ladderOf_of_none (h : (s.lay.get t).ladders = []) (since : Nat) :
    s.ladderOf t sec profile since = s.newLadder t sec profile since := by
  rw [State.ladderOf, h, List.find?_nil]
  rfl

theorem State.ladderOf_of_one (h : (s.lay.get t).ladders = [l]) (since : Nat) : s.ladderOf t l.sec profile since = l := by
  simp [State.ladderOf, h, ladderKey_self]

/-- Ladders of other sectors stay beside the one that is set. -/
theorem State.ladders_setLadder (s : State) (t : Tower) (l : Ladder) : ((s.setLadder t l).lay.get t).ladders =
    l :: (s.lay.get t).ladders.filter (fun z => !(ladderKey z.sec l.sec)) := by
  rw [State.setLadder, State.lay_updLay]

theorem State.setLadder_changes (s : State) (t : Tower) (l : Ladder) : Changes [] s (s.setLadder t l) := s.updLay_changes [] t _

/-- The steps of profile 0 for a head of H begin with L3 to L7 (Table 09-2). -/
theorem State.ladderSteps_all (hhead : s.headIn t sec.head = true) : ∃ l8, s.ladderSteps t sec 0 = 3 :: 4 :: 5 :: 6 :: 7 :: l8 := by
  simp [State.ladderSteps, hhead]

/-- After L2 comes the first attempt of L3. -/
theorem ladderNext_first (l8 : List Nat) : ladderNext (3 :: 4 :: 5 :: 6 :: 7 :: l8) 2 0 = some (3, 1) := by
  simp [ladderNext, ladderAttempts]

/-- The first attempt of L3 begins: a pin is possible, and no setting changes (R265). -/
theorem State.ladderStep_first (hstep : l.step = 2) (hatt : l.att = 0) (hprofile : l.profile = 0) (hhead : s.headIn t l.sec.head = true)
    (hpin : s.pinCount t < s.pinMax t) (count : Nat) : s.ladderStep t l fac count = s.setLadder t { l with
      step := 3, att := 1, rep := 0, posted := false, seenAt := count, normalHeater := none, captures := l.captures + 1 } := by
  obtain ⟨l8, hsteps⟩ := State.ladderSteps_all hhead
  simp [State.ladderStep, hprofile, hsteps, hstep, hatt, ladderNext_first, Nat.not_le.mpr hpin, State.leaveStep, State.enterAttempt]

/-! ## LADDER_ATTEMPT -/

/-- A ladder with the lowest UNSAT of its failed attempts, for BEST_UNSAT of its record (Table 09-5). -/
def Ladder.judged (l : Ladder) (o : SeenOut) : Ladder :=
  { l with bestUnsat := if o.out = 1 ∨ o.out = 2 then min l.bestUnsat o.unsat else l.bestUnsat }

/-- The head is in H and nothing was seen of the sector: firmware waits for its capture (R258). -/
theorem exec_ladderAttempt_unseen (hseen : s.seenOf t sec = none) (hhead : s.headIn t sec.head = true) :
    exec (.ladderAttempt t sec profile fac) s = .next s := by
  show execLadderAttempt t sec profile fac s = _
  simp only [execLadderAttempt, hseen, hhead, if_true]

section
variable (hseen : s.seenOf t sec = some o) (hout : ¬ o.out = 0) (hhead : s.headIn t sec.head = true) (hbusy : s.slotBusy t o.slot = false)
include hseen hout hhead hbusy

/-- The first outcome of a sector without a ladder, while its capture can be decoded again: the request that is due is posted (R263). -/
theorem exec_ladderAttempt_request (hnone : (s.lay.get t).ladders = []) (hslot : s.seenSlot t o = true) {w : List Word}
    (hreq : s.ladderReq t ((s.newLadder t sec profile o.at_).judged o) o = some w) :
    exec (.ladderAttempt t sec profile fac) s = .next (s.fwRequest t ((s.newLadder t sec profile o.at_).judged o) o w) := by
  rw [State.newLadder, Ladder.judged] at hreq
  show execLadderAttempt t sec profile fac s = _
  simp [execLadderAttempt, hseen, hhead, hout, hbusy, State.ladderOf_of_none hnone, State.newLadder, Ladder.judged, ladderRepeats, hslot, hreq]

/-- Its capture cannot be decoded again: the next attempt begins (R258). -/
theorem exec_ladderAttempt_next (hnone : (s.lay.get t).ladders = []) (hslot : s.seenSlot t o = false) :
    exec (.ladderAttempt t sec profile fac) s =
      .next (s.ladderStep t ((s.newLadder t sec profile o.at_).judged o) fac o.count) := by
  show execLadderAttempt t sec profile fac s = _
  simp [execLadderAttempt, hseen, hhead, hout, hbusy, State.ladderOf_of_none hnone, State.newLadder, Ladder.judged, ladderRepeats, hslot]

/-- A live decode that ended ABORTED, by a shut-down of the read channel, is made again: the ladder resumes at the same attempt, and no repeat
of R261 counts (Table 09-6). -/
theorem exec_ladderAttempt_aborted (hl : s.ladderOf t sec profile o.at_ = l) (hdeep : 3 ≤ l.step) (hlast : ¬ l.step = 8)
    (hnew : l.seenAt < o.count) (hlive : o.live = 8) : exec (.ladderAttempt t sec profile fac) s =
      .next (s.setLadder t { l with captures := l.captures + 1, seenAt := o.count, posted := false }) := by
  show execLadderAttempt t sec profile fac s = _
  simp [execLadderAttempt, hseen, hhead, hout, hbusy, hl, hdeep, hlast, Nat.not_le.mpr hnew, ladderRepeats, hlive]

end

/-- A capture that can be decoded again stands in one of the 51 slots. -/
theorem State.slot_lt_of_seenSlot (h : s.seenSlot t o = true) : o.slot < 51 := by
  simp only [State.seenSlot, Bool.and_eq_true, decide_eq_true_eq] at h
  obtain ⟨⟨⟨hlt, -⟩, -⟩, -⟩ := h
  exact hlt

/-- Firmware pins a capture and posts a request for it that the queue has room for (R263). -/
theorem State.fwRequest_shows (hslot : o.slot < 51) (hroom : (s.chn.get t).queue.length < 16) (hon : s.isOn bCHN t.idx = true)
    (w : List Word) {r : State} (hr : r = s.fwRequest t l o w) : (r.chn.get t).queue = (s.chn.get t).queue ++ [{ words := w }] ∧
      r.rd (pinFld t.idx o.slot) = 1 ∧
      (r.lay.get t).ladders = { l with posted := true } :: (s.lay.get t).ladders.filter (fun z => !(ladderKey z.sec l.sec)) ∧
      SameMem s r := by
  let p := s.setPin t o.slot true
  obtain ⟨hpinned, hlay, -⟩ := s.setPin_onlyPins t o.slot true
  have hchn : p.chn = s.chn := s.setPin_chn t o.slot true
  have hlen : (p.chn.get t).queue.length + 1 < 32 := by rw [hchn]; omega
  obtain ⟨hqueue, -, hchanges⟩ := State.setDepth_queued (s := p) (t := t) [{ words := w }] hlen rfl
  have hpost : r = (((p.updChn t (fun c => { c with queue := c.queue ++ [{ words := w }] })).setDepth t).setLadder t { l with posted := true }) := by
    rw [hr, State.fwRequest, if_neg (by simp [Nat.not_le.mpr hroom, hon])]
  rw [hpost]
  refine ⟨by rw [State.setLadder, State.updLay_chn, hqueue, hchn], ?_, ?_, fun a => ?_⟩
  · rw [State.setLadder, State.updLay_rd, State.rd_congr (hchanges.1 _ ?_)]
    · exact State.rd_pinFld_setPin hslot true
    · exact fun h => rpStat_ne_pinFld t.idx o.slot (List.mem_singleton.mp h).symm
  · rw [State.ladders_setLadder, State.setDepth, State.wr_lay, State.updChn_lay, hlay]
  · rw [State.setLadder, State.updLay_byte, hchanges.2 a, hpinned.2 a]

/-! ## LADDER_END -/

theorem LayState.mem_growAt (y : LayState) (p : Nat × Nat × Nat) (h : y.grown.length < 16384) : p ∈ (y.growAt p).grown := by
  unfold LayState.growAt
  split
  next hfull => exact hfull.elim List.contains_iff_mem.mp (fun hge => absurd h (Nat.not_lt.mpr hge))
  next => exact List.mem_cons_self

theorem LayState.growAt_ladders (y : LayState) (p : Nat × Nat × Nat) : (y.growAt p).ladders = y.ladders := by
  unfold LayState.growAt
  split <;> rfl

theorem LayState.failed_ladders (y : LayState) (x : Sect) : (y.failed x).ladders = y.ladders := by
  unfold LayState.failed
  split <;> rfl

theorem State.ladderAct_ladders (s : State) (t : Tower) (l : Ladder) (outcome : Nat) :
    ((s.ladderAct t l outcome).lay.get t).ladders = (s.lay.get t).ladders := by
  rw [State.ladderAct, State.lay_updLay]
  repeat' split
  all_goals simp only [LayState.queueRewrite, LayState.growAt_ladders, LayState.failed_ladders]

/-- Table 09-4: the position of a sector rebuilt at L8, or lost, goes to the grown list. -/
theorem State.ladderAct_grown (hstep : l.step = 8) (hcmr : l.sec.cmr = false) (hraw : l.sec.raw = false)
    (hhead : s.headIn t l.sec.head = true) (hroom : (s.lay.get t).grown.length < 16384) {c : Nat} (hc : c ≤ 1) :
    (l.sec.head, l.sec.track, l.sec.pos) ∈ ((s.ladderAct t l c).lay.get t).grown := by
  rw [State.ladderAct, State.lay_updLay]
  have hgrown := LayState.mem_growAt _ (l.sec.head, l.sec.track, l.sec.pos) hroom
  obtain rfl | rfl : c = 0 ∨ c = 1 := by omega
  · simpa [hstep, hcmr, hraw, hhead, LayState.queueRewrite] using hgrown
  · simpa [hstep] using hgrown

/-- What firmware leaves of a ladder that ends, before its record: settings and pins given back, Table 09-4 done (R273, R275). -/
def State.ladderClosed (s : State) (t : Tower) (l : Ladder) (sec : Sect) (act : Nat) : State :=
  (((s.leaveStep t l).unpinSector t sec).ladderAct t l act).updLay t (fun y => { y with
    ladders := y.ladders.filter (fun z => !(ladderKey z.sec sec)),
    seen := y.seen.filter (fun z => !(z.head == sec.head && z.track == sec.track && z.pos == sec.pos)) })

/-- From a step that left no setting behind, a ladder's end leaves every register but the pins, and memory. -/
theorem State.ladderClosed_leaves (hleave : s.leaveStep t l = s) (act : Nat) {r : State} (hr : r = s.ladderClosed t l sec act) :
    OnlyPins t s (s.unpinSector t sec) ∧ r.reg = (s.unpinSector t sec).reg ∧ r.evr = s.evr ∧ SameMem s r ∧
      (r.lay.get t).ladders = (s.lay.get t).ladders.filter (fun z => !(ladderKey z.sec sec)) ∧
      (r.lay.get t).grown = (((s.unpinSector t sec).ladderAct t l act).lay.get t).grown := by
  have hpins := s.unpinSector_onlyPins t sec
  have ⟨hchanges, hlay, hevr⟩ := hpins
  rw [hr, State.ladderClosed, hleave]
  refine ⟨hpins, rfl, hevr, hchanges.2, ?_, by rw [State.lay_updLay]⟩
  rw [State.lay_updLay]
  dsimp only
  rw [State.ladderAct_ladders, hlay]

/-- A ladder that is abandoned before anything was seen of its sector. -/
theorem exec_ladderEnd_abandoned (hseen : s.seenOf t sec = none) (hnone : (s.lay.get t).ladders = []) :
    exec (.ladderEnd t sec 2) s = .next (s.ladderClosed t (s.newLadder t sec 0 s.fwk.cycle) sec 2) := by
  show execLadderEnd t sec 2 s = _
  simp [execLadderEnd, hseen, State.ladderOf_of_none hnone, State.newLadder, State.ladderOver, State.ladderOut, State.ladderClosed]

/-- R272, R274: a ladder at L8 ends with the result of the rebuild, told in a ladder record. -/
theorem exec_ladderEnd_rebuild (hseen : s.seenOf t l.sec = none) (hone : (s.lay.get t).ladders = [l]) (hstep : l.step = 8)
    (hdead : (s.lay.get t).sectDead l.sec = false) (hgroup : (s.lay.get t).groupOf l.sec.band = none) {c : Nat} (hc : c ≤ 1) :
    exec (.ladderEnd t l.sec c) s = .next ((s.ladderClosed t { l with unread := 0 } l.sec c).fwPost
      (if c = 1 then 0x0803 else 0x0802) (if c = 1 then 4 else 3) (ladderPayload t { l with unread := 0 } c
        (s.ladderRealloc t { l with unread := 0 } c) 0 ((s.fwk.cycle - l.since) / 1000000))) := by
  have hout : min 1 c = c := Nat.min_eq_right hc
  have hkept : ¬ c = 2 := by omega
  show execLadderEnd t l.sec c s = _
  simp [execLadderEnd, hseen, State.ladderOf_of_one hone, hstep, hdead, hgroup, State.ladderOver, State.ladderOut, hout, hkept,
    State.ladderClosed]

/-- R525: a post of firmware that the event recorder takes. -/
theorem State.fwPost_shows (hon : s.isOn bEVR 0 = true) (hroom : s.rd EVR_POST_STAT_DEPTH < 16) (code sev : Nat) (payload : List Byte)
    {r : State} (hr : r = s.fwPost code sev payload) : r.rd EVR_POST_STAT_DEPTH = s.rd EVR_POST_STAT_DEPTH + 1 ∧
      r.evr.posts.map (fun p => (p.fw, p.code, p.sev)) = s.evr.posts.map (fun p => (p.fw, p.code, p.sev)) ++ [(true, code, sev)] ∧
      r.lay = s.lay ∧ SameMem s r := by
  rw [hr, State.fwPost, if_pos ⟨hon, hroom⟩]
  refine ⟨?_, ?_, ?_, fun a => ?_⟩
  · rw [State.rd_wr_same _ EVR_POST_STAT_DEPTH _ (Nat.le_of_ble_eq_true rfl)]
    exact Nat.mod_eq_of_lt (Nat.lt_of_lt_of_le (Nat.succ_lt_succ hroom) (Nat.le_of_ble_eq_true rfl))
  · rw [State.wr_evr, List.map_append]
    rfl
  · rw [State.wr_lay]
    rfl
  · rw [State.wr_byte]
    rfl

end

/-! ## HEAD_REMOVED -/

/-- R179: with no ladder in progress, removing a head changes the layout alone. -/
theorem exec_headRemoved_idle {s : State} {t : Tower} (h : Nat) (hnone : (s.lay.get t).ladders = []) :
    exec (.headRemoved t h) s = .next (s.updLay t (fun y => { y with
      heads := y.heads.filter (fun x => !(x == h)), groups := y.groups.map (fun g => g.headOut h),
      ladders := y.ladders.map (fun l => if l.sec.head = h then { l with step := 7, att := 2, normalHeater := none } else l) })) := by
  show execHeadRemoved t h s = _
  rw [execHeadRemoved, hnone]
  rfl

/-! ## The rows of chapter 9 -/

/-- What a ladder at L8 leaves when it ends with the result `c` of the rebuild: 0 recovered, 1 lost. -/
theorem ladderEnd_answers {s : State} {t : Tower} {l : Ladder} (hseen : s.seenOf t l.sec = none) (hone : (s.lay.get t).ladders = [l])
    (hstep : l.step = 8) (hcmr : l.sec.cmr = false) (hraw : l.sec.raw = false) (hdead : (s.lay.get t).sectDead l.sec = false)
    (hgroup : (s.lay.get t).groupOf l.sec.band = none) (hhead : s.headIn t l.sec.head = true) (hon : s.isOn bEVR 0 = true)
    (hroom : s.rd EVR_POST_STAT_DEPTH < 16) (hgrown : (s.lay.get t).grown.length < 16384) {c : Nat} (hc : c ≤ 1) :
    Answers (.ladderEnd t l.sec c) s (fun r => (r.lay.get t).grown.contains (l.sec.head, l.sec.track, l.sec.pos) = true ∧
      (r.lay.get t).ladders = [] ∧ r.rd EVR_POST_STAT_DEPTH = s.rd EVR_POST_STAT_DEPTH + 1 ∧
      (r.evr.posts.map (fun p => (p.fw, p.code, p.sev))) = (s.evr.posts.map (fun p => (p.fw, p.code, p.sev))) ++
        [(true, if c = 1 then 0x0803 else 0x0802, if c = 1 then 4 else 3)] ∧ SameMem s r) := by
  let l0 : Ladder := { l with unread := 0 }
  let q := s.ladderClosed t l0 l.sec c
  have hleave : s.leaveStep t l0 = s := by simp [State.leaveStep, l0, hstep]
  obtain ⟨hpins, hreg, hevr, hmem, hladders, hlist⟩ := State.ladderClosed_leaves (r := q) (sec := l.sec) hleave c rfl
  have ⟨_, hlay, _⟩ := hpins
  have hkept : ∀ f : Fld, f.addr < 0x21000000 → q.rd f = s.rd f := fun f hf => (State.rd_congr (congrFun hreg _)).trans (hpins.rd f hf)
  have hdepth : q.rd EVR_POST_STAT_DEPTH = s.rd EVR_POST_STAT_DEPTH := hkept _ (by decide)
  have hon' : q.isOn bEVR 0 = true := by rw [State.isOn, State.st, hkept _ (by decide)]; exact hon
  have hmember := State.ladderAct_grown (l := l0) (t := t) hstep hcmr hraw ((hpins.headIn l.sec.head).trans hhead) (hlay ▸ hgrown) hc
  obtain ⟨hpost, hposts, hlayout, hbytes⟩ := State.fwPost_shows hon' (hdepth ▸ hroom) _ _ _ rfl
  refine ⟨_, exec_ladderEnd_rebuild hseen hone hstep hdead hgroup hc, ?_, ?_,
    hpost.trans (by rw [hdepth]), hposts.trans (by rw [hevr]), fun a => (hbytes a).trans (hmem a)⟩
  · rw [hlayout, hlist]
    exact List.contains_iff_mem.mpr hmember
  · rw [hlayout, hladders, hone]
    simp [ladderKey_self]

/-- Settles O11: an attempt waits, posts the request that is due, repeats a capture, or begins the next attempt; the end of a ladder gives the
pins back, does what Table 09-4 says and posts the record; the removal of a head with no ladder in progress changes the layout alone. -/
theorem recoveryRows : Obligations.RecoveryRows := by
  refine ⟨?unseen, ?first, ?request, ?aborted, ?abandoned, ?recovered, ?lost, ?removed⟩
  case unseen =>
    intro t sec profile fac s hseen hhead
    exact ⟨s, exec_ladderAttempt_unseen hseen hhead, rfl⟩
  case first =>
    intro t sec o fac s hseen hout hnone hhead hbusy hslot hpin
    let l := (s.newLadder t sec 0 o.at_).judged o
    have hfill : s.headIn t l.sec.head = true := (congrArg (s.headIn t) (s.sectFill_head t sec)).trans hhead
    have hbegun := State.ladderStep_first (l := l) (fac := fac) rfl rfl rfl hfill hpin o.count
    refine ⟨_, (exec_ladderAttempt_next hseen hout hhead hbusy hnone hslot).trans (congrArg _ hbegun), ?_, s.setLadder_changes t _⟩
    rw [State.ladders_setLadder, hnone]
    rfl
  case request =>
    intro t sec o m fac s hseen hout hnone hhead hbusy hslot hmode hroom hon
    let l := (s.newLadder t sec 0 o.at_).judged o
    have hreq : s.ladderReq t l o = some (s.fwWords t o.slot m 0 0 (s.gmaxOf t .replay) (s.lmaxOf t .replay) []) := by
      simp [State.ladderReq, l, Ladder.judged, State.newLadder, hmode]
    obtain ⟨hqueue, hpin, hladders, hmem⟩ := State.fwRequest_shows (l := l) (State.slot_lt_of_seenSlot hslot) hroom hon _ rfl
    refine ⟨_, exec_ladderAttempt_request hseen hout hhead hbusy hnone hslot hreq, hqueue, hpin, ?_, hmem⟩
    rw [hladders, hnone]
    rfl
  case aborted =>
    intro t l o profile fac s hseen hout hlive hone hstep hnew hhead hbusy
    refine ⟨_, exec_ladderAttempt_aborted hseen (by omega) hhead hbusy (State.ladderOf_of_one hone o.at_) (by omega) (by omega) hnew hlive,
      ?_, s.setLadder_changes t _⟩
    rw [State.ladders_setLadder, hone]
    simp [ladderKey_self]
  case abandoned =>
    intro t sec s hseen hnone
    obtain ⟨⟨-, hlay, -⟩, -, hevr, hmem, hladders, hgrown⟩ :=
      State.ladderClosed_leaves (s := s) (t := t) (l := s.newLadder t sec 0 s.fwk.cycle) (sec := sec) rfl 2 rfl
    refine ⟨_, exec_ladderEnd_abandoned hseen hnone, hladders.trans (by rw [hnone]; rfl), hgrown.trans ?_, congrArg _ hevr, hmem⟩
    rw [State.ladderAct, State.lay_updLay, hlay]
    rfl
  case recovered =>
    intro t l s hseen hone hstep hcmr hraw hdead hgroup hhead hon hroom hgrown
    exact ladderEnd_answers hseen hone hstep hcmr hraw hdead hgroup hhead hon hroom hgrown (Nat.zero_le 1)
  case lost =>
    intro t l s hseen hone hstep hcmr hraw hdead hgroup hhead hon hroom hgrown
    exact ladderEnd_answers hseen hone hstep hcmr hraw hdead hgroup hhead hon hroom hgrown (Nat.le_refl 1)
  case removed =>
    intro t h s hnone
    exact ⟨_, exec_headRemoved_idle h hnone, by rw [State.lay_updLay], s.updLay_changes [] t _⟩

end Sys2Proof.Machine
end

section
/-! PROOFS of the rules that the microwords of the spires share (Tables 10-1 to 10-5, 10-14, 10-15): a microword that is fetched, the PC, results and
flags, waits, completion records and machine checks. -/

namespace Sys2Proof.Machine

/-! ## A microword -/

/-- A spire that runs has its place in the list. -/
theorem spireFlat_lt_of_running {sp : Spire} {s : State} (h : Running sp s) : spireFlat sp < s.spireCount := by
  obtain ⟨hvalid, -, hcount, -⟩ := h
  exact (spireFlat_lt hvalid).trans_eq hcount.symm

theorem spireFlat_lt_congr {sp : Spire} {s r : State} (hspires : r.spires = s.spires) (h : spireFlat sp < s.spireCount) :
    spireFlat sp < r.spireCount := by
  rwa [State.spireCount, hspires]

theorem spireFlat_lt_of_atRow {row : MRow} {sp : Spire} {s : State} (h : AtRow row sp s) : spireFlat sp < s.spireCount := by
  obtain ⟨hrun, -⟩ := h
  exact spireFlat_lt_of_running hrun

theorem spireValid_of_atRow {row : MRow} {sp : Spire} {s : State} (h : AtRow row sp s) : spireValid sp = true := by
  obtain ⟨⟨hvalid, -⟩, -⟩ := h
  exact hvalid

/-- A legal microword with good parity has the effect of its row. -/
theorem State.micro_of_atRow {row : MRow} {sp : Spire} {s : State} (h : AtRow row sp s) (op : State → Spire → Nat → State) :
    s.micro sp row op = op s sp (s.mword sp) := by
  obtain ⟨⟨hvalid, hhalt, -, hrun⟩, hgood, hlegal, hrow⟩ := h
  simp [State.micro, State.fetchDo, hvalid, hhalt, hrun, hgood, hlegal, hrow]

/-- What a command answers whose meaning is a microword of `row`, with the effect `op`, at such a microword. -/
theorem answers_of_micro {c : Instr} {row : MRow} {op : State → Spire → Nat → State} {sp : Spire} {s : State} {P : State → Prop}
    (hc : exec c s = .next (s.micro sp row op)) (h : AtRow row sp s) (hP : P (op s sp (s.mword sp))) : Answers c s P :=
  ⟨_, hc.trans (congrArg Host.Outcome.next (State.micro_of_atRow h op)), hP⟩

/-- The next microword is an update of the spire. -/
theorem State.adv_eq (s : State) (sp : Spire) : s.adv sp = s.updSpire sp (fun p => { p with pc := (p.pc + 1) % 4096 }) := rfl

theorem State.updSpire_adv (s : State) (sp : Spire) (f : SpireState → SpireState) :
    (s.updSpire sp f).adv sp = s.updSpire sp (fun p => { f p with pc := ((f p).pc + 1) % 4096 }) := by
  rw [State.adv_eq, State.updSpire_updSpire]

/-- C and the next microword. -/
theorem State.clsEnd_eq (s : State) (sp : Spire) (refused : Bool) :
    s.clsEnd sp refused = s.updSpire sp (fun p => { p with c := refused, pc := (p.pc + 1) % 4096 }) := s.updSpire_adv sp _

theorem State.updSpire_clsEnd (s : State) (sp : Spire) (f : SpireState → SpireState) (refused : Bool) :
    (s.updSpire sp f).clsEnd sp refused = s.updSpire sp (fun p => { f p with c := refused, pc := ((f p).pc + 1) % 4096 }) := by
  rw [State.clsEnd_eq, State.updSpire_updSpire]

/-- The flags and, but for CMP, the result of an ALU function (Table 10-2). -/
def SpireState.aluSet (p : SpireState) (fn rd : Nat) (r : Nat × Bool) : SpireState :=
  { p with w := if fn = 9 then p.w else upd p.w rd (BitVec.ofNat 32 r.1), z := r.1 == 0, n := decide (2 ^ 31 ≤ r.1), c := r.2 }

theorem State.aluDo_eq (s : State) (sp : Spire) (fn rd a b : Nat) : s.aluDo sp fn rd a b =
    s.updSpire sp (fun p => { p.aluSet fn rd (aluFn fn a b (s.spire sp).c) with pc := (p.pc + 1) % 4096 }) := by
  by_cases hcmp : fn = 9
  · simp only [State.aluDo, SpireState.aluSet, if_pos hcmp, State.updSpire_adv]
  · simp only [State.aluDo, SpireState.aluSet, if_neg hcmp, State.setW, State.updSpire_updSpire, State.updSpire_adv]

/-- The change of a spire alone. -/
theorem State.updSpire_spire_changes {s : State} {sp : Spire} (h : spireFlat sp < s.spireCount) (f : SpireState → SpireState) (l : List Nat) :
    (s.updSpire sp f).spire sp = f (s.spire sp) ∧ Changes l s (s.updSpire sp f) :=
  ⟨State.spire_updSpire_same h f, s.updSpire_changes l sp f⟩

/-- A taken branch of a spire updated before: the new PC, and a packet of the trace port. -/
theorem State.jump_updSpire {s : State} {sp : Spire} (h : spireFlat sp < s.spireCount) (f : SpireState → SpireState) {n pc : Nat} (hn : n % 4096 = pc) :
    ((s.updSpire sp f).jump sp n).spire sp = { f (s.spire sp) with pc := pc } ∧ Changes [BTP_STAT] s ((s.updSpire sp f).jump sp n) := by
  have hpc : (s.updSpire sp f).setPc sp n = s.updSpire sp (fun p => { f p with pc := pc }) := by
    rw [State.setPc, State.updSpire_updSpire, hn]
  rw [State.jump, hpc, State.flow]
  exact ⟨(State.sprTrace_spire _ _ _ _ sp).trans (State.spire_updSpire_same h _),
    (s.updSpire_changes _ _ _).trans (State.trace_changes _ _ _ _ _ (.head _))⟩

/-- A taken branch. -/
theorem State.jump_spire_changes {s : State} {sp : Spire} (h : spireFlat sp < s.spireCount) {n pc : Nat} (hn : n % 4096 = pc) :
    (s.jump sp n).spire sp = { s.spire sp with pc := pc } ∧ Changes [BTP_STAT] s (s.jump sp n) := by
  have hsame : s.updSpire sp (fun p => p) = s := by
    simp [State.updSpire, State.spire, List.getD_eq_getElem?_getD, List.getElem?_eq_getElem (show spireFlat sp < s.spires.length from h)]
  simpa [hsame] using State.jump_updSpire h (fun p => p) hn

/-- A field of a microword has no more than its bits. -/
theorem bits_mod (x lo w : Nat) : bits x lo w % 2 ^ w = bits x lo w := Nat.mod_mod _ _

/-! ## Waits -/

/-- A wait whose condition holds is carried out at once. -/
theorem State.waitOn_of_tryWait {s r : State} {sp : Spire} {x : SprWait} (h : s.tryWait sp x = some r) : s.waitOn sp x = r := by
  rw [State.waitOn, h]

/-- When the condition of a spire in WAIT comes about, the operation is carried out and the spire runs again. -/
theorem State.resume_of_tryWait {s r : State} {sp : Spire} {x : SprWait} (hvalid : spireValid sp = true) (hst : (s.spire sp).sstate = 2)
    (hwait : (s.spire sp).wait = x) (h : s.tryWait sp x = some r) :
    s.resume sp = r.updSpire sp (fun p => { p with sstate := 1, wait := .none }) := by
  simp [State.resume, hvalid, hst, hwait, h]

/-- R293: OUTC takes the first notification. -/
theorem State.tryWait_outc_of_note {s : State} {sp : Spire} {v : Word} {l : List Word} (h : (s.spire sp).notes = v :: l) (rd : Nat) :
    s.tryWait sp (.outc rd) = some (s.updSpire sp (fun p =>
      { p with notes := l, w := upd p.w rd v, c := false, pc := (p.pc + 1) % 4096 })) := by
  simp only [State.tryWait, h, State.setW, State.updSpire_updSpire, State.updSpire_clsEnd]

/-- Without one it waits. -/
theorem State.waitOn_outc_of_none {s : State} {sp : Spire} (h : (s.spire sp).notes = []) (rd : Nat) :
    s.waitOn sp (.outc rd) = s.updSpire sp (fun p => { p with sstate := 2, wait := .outc rd }) := by
  simp [State.waitOn, State.tryWait, State.waitSide, h]

/-- SYNCP after the rendezvous. -/
theorem State.tryWait_syncp_of_met {s : State} {sp : Spire} (h : (s.spire sp).syncMet = true) : s.tryWait sp .syncp =
    some (s.updSpire sp (fun p => { p with syncMet := false, synced := false, c := false, pc := (p.pc + 1) % 4096 })) := by
  simp only [State.tryWait, h, if_true, State.updSpire_clsEnd]

/-- SYNCP with a partner that has halted. -/
theorem State.tryWait_syncp_of_lost {s : State} {sp : Spire} (hmet : (s.spire sp).syncMet = false) (hlost : s.partnerLost sp = true) :
    s.tryWait sp .syncp = some (s.updSpire sp (fun p => { p with synced := false, c := true, pc := (p.pc + 1) % 4096 })) := by
  simp only [State.tryWait, hmet, hlost, if_true, Bool.false_eq_true, if_false, State.updSpire_clsEnd]

/-! ## Machine checks -/

/-- What a machine check leaves in a spire without a command (R300): where it stopped and why. -/
def SpireState.checked (p : SpireState) (cause : Nat) : SpireState :=
  { p with sstate := 3, wait := .none, mcCause := cause, mcAddr := p.pc, mcWord := p.fetch.toNat, mcCmd := 0 }

/-- A machine check of a spire that is no track sequencer and runs no command: the spire stops, the interrupt is raised, and what else changes
is the trace port and the event recorder. -/
theorem State.machineCheck_of_idle {s : State} {sp : Spire} (hflat : spireFlat sp < s.spireCount) (hcls : sp.cls ≠ 0)
    (hidle : (s.spire sp).running = none) (cause : Nat) :
    (s.machineCheck sp cause).spire sp = (s.spire sp).checked cause ∧
      (s.machineCheck sp cause).rd ⟨pageBase bSPR sp.cls 0 + 0x10, 28, 1⟩ = 1 ∧ SameMem s (s.machineCheck sp cause) := by
  unfold State.machineCheck
  simp only [hidle, State.sprLeave_of_cls_ne_zero hcls, State.updSpire_updSpire]
  refine ⟨?_, State.rd_wr_same _ _ _ (Nat.le_of_ble_eq_true rfl), fun a => ?_⟩
  · simp [State.spire_updSpire_same hflat, SpireState.checked]
  · simp [State.byte, State.sprIrq, State.sprTrace]

end Sys2Proof.Machine
end

section
/-! PROOFS of the statements of chapter 10 about the microwords that every spire has (R280, R282, R283, R285, R300). -/

namespace Sys2Proof.Machine

/-- A difference of words, by the numbers that they stand for. -/
theorem ofNat_sub_toNat (x y : Word) : BitVec.ofNat 32 ((x.toNat + 2 ^ 32 - y.toNat) % 2 ^ 32) = x - y := by
  apply BitVec.eq_of_toNat_eq
  simp only [BitVec.toNat_ofNat, BitVec.toNat_sub]
  omega

/-- R285: a RET goes to the address that the last CALL left. -/
theorem State.opRET_of_stack {s : State} {sp : Spire} {l : List Nat} {a : Nat} (h : (s.spire sp).stack = l ++ [a]) (w : Nat) :
    s.opRET sp w = (s.updSpire sp (fun p => { p with stack := p.stack.dropLast })).jump sp a := by
  simp [State.opRET, h]

/-- R285: a RET without a CALL is a machine check. -/
theorem State.opRET_of_empty {s : State} {sp : Spire} (h : (s.spire sp).stack = []) (w : Nat) :
    s.opRET sp w = s.machineCheck sp mcUNF := by
  simp [State.opRET, h]

/-- R282: a word with bad parity is a machine check, whatever its row. -/
theorem State.micro_of_bad_parity {row : MRow} {sp : Spire} {s : State} (hrun : Running sp s) (hbad : csGood (s.spire sp).fetch = false)
    (hrow : rowOf sp.cls (s.mword sp) = row) (op : State → Spire → Nat → State) : s.micro sp row op = s.machineCheck sp mcPARITY := by
  obtain ⟨hvalid, hhalt, -, hst⟩ := hrun
  simp [State.micro, State.fetchDo, hvalid, hhalt, hst, hrow, hbad]

/-- Settles O12: each microword is an update of its spire, a jump, an access, or a machine check. -/
theorem microwordRows : Obligations.MicrowordRows := by
  refine ⟨?add, ?sub, ?mulu, ?cmp, ?shr, ?ldi, ?lui, ?brTaken, ?brNot, ?cbrTaken, ?cbrNot, ?call, ?ret, ?retEmpty, ?nop, ?parity, ?halt, ?fence,
    ?ld, ?st⟩
  case add =>
    intro sp s hrow hfn
    refine answers_of_micro rfl hrow ?_
    rw [State.opALU, State.aluDo_eq, hfn]
    rfl
  case sub =>
    intro sp s hrow hfn hlt hrd
    have hflat := spireFlat_lt_of_atRow hrow
    refine answers_of_micro rfl hrow ?_
    rw [State.opALU, State.aluDo_eq, hfn, State.spire_updSpire_same hflat]
    refine ⟨?_, rfl, rfl⟩
    exact (nth_upd_same hrd _ _).trans (ofNat_sub_toNat _ _)
  case mulu =>
    intro sp s hrow hfn
    have hflat := spireFlat_lt_of_atRow hrow
    refine answers_of_micro rfl hrow ?_
    rw [State.opALU, State.aluDo_eq, hfn, State.spire_updSpire_same hflat]
    exact ⟨rfl, rfl, rfl, State.updSpire_changes _ _ _ _⟩
  case cmp =>
    intro sp s hrow hfn
    refine answers_of_micro rfl hrow ?_
    rw [State.opALUI, State.aluDo_eq, hfn]
    rfl
  case shr =>
    intro sp s hrow hfn hk
    refine answers_of_micro rfl hrow ?_
    have hshift : aluFn 6 (s.w sp (bits (s.mword sp) 12 4)) (bits (s.mword sp) 0 12) (s.spire sp).c =
        (s.w sp (bits (s.mword sp) 12 4), (s.spire sp).c) := by
      have hnone : bits (s.mword sp) 0 12 % 32 = 0 := by
        unfold bits at hk ⊢
        omega
      simp [aluFn, hnone]
    rw [State.opALUI, State.aluDo_eq, hfn, hshift]
    rfl
  case ldi =>
    intro sp s hrow
    exact answers_of_micro rfl hrow (s.updSpire_adv sp _)
  case lui =>
    intro sp s hrow
    exact answers_of_micro rfl hrow (s.updSpire_adv sp _)
  case brTaken =>
    intro sp s hrow hfn hef
    have hflat := spireFlat_lt_of_atRow hrow
    refine answers_of_micro rfl hrow ?_
    rw [State.opBR, hfn, if_pos (show (s.spire sp).cond 7 = true from hef)]
    exact State.jump_updSpire hflat _ (bits_mod _ _ _)
  case brNot =>
    intro sp s hrow hfn hz
    refine answers_of_micro rfl hrow ?_
    rw [State.opBR, hfn, if_neg (by simp [SpireState.cond, hz])]
    rfl
  case cbrTaken =>
    intro sp s hrow htest hneg
    have hflat := spireFlat_lt_of_atRow hrow
    refine answers_of_micro rfl hrow ?_
    rw [State.opCBR, htest, if_pos (show cbrTest (s.w sp _) 2 = true from decide_eq_true hneg)]
    exact State.jump_spire_changes hflat (bits_mod _ _ _)
  case cbrNot =>
    intro sp s hrow htest hpos
    refine answers_of_micro rfl hrow ?_
    rw [State.opCBR, htest, if_neg (by simpa [cbrTest] using hpos)]
    rfl
  case call =>
    intro sp s hrow hroom
    have hflat := spireFlat_lt_of_atRow hrow
    refine answers_of_micro rfl hrow ?_
    rw [State.opCALL, if_neg (Nat.not_le.mpr hroom)]
    exact State.jump_updSpire hflat _ (bits_mod _ _ _)
  case ret =>
    intro sp a l s hrow hstack
    have hflat := spireFlat_lt_of_atRow hrow
    refine answers_of_micro rfl hrow ?_
    have hpop : (s.spire sp).stack.dropLast = l := by rw [hstack, List.dropLast_concat]
    rw [State.opRET_of_stack hstack, ← hpop]
    exact State.jump_updSpire hflat _ rfl
  case retEmpty =>
    intro sp s hrow hstack hcls hidle
    have hflat := spireFlat_lt_of_atRow hrow
    obtain ⟨hsp, -, hmem⟩ := State.machineCheck_of_idle hflat (by omega) hidle mcUNF
    refine answers_of_micro rfl hrow ?_
    rw [State.opRET_of_empty hstack, hsp]
    exact ⟨rfl, rfl, rfl, rfl, hmem⟩
  case nop =>
    intro sp s hrow
    exact answers_of_micro rfl hrow rfl
  case parity =>
    intro sp s hrun hbad hrow hcls hidle
    obtain ⟨hsp, -, hmem⟩ := State.machineCheck_of_idle (spireFlat_lt_of_running hrun) (by omega) hidle mcPARITY
    refine ⟨_, congrArg Host.Outcome.next (State.micro_of_bad_parity hrun hbad hrow State.opNOP), ?_⟩
    beta_reduce
    rw [hsp]
    exact ⟨rfl, rfl, rfl, rfl, rfl, hmem⟩
  case halt =>
    intro sp s hrow hcls
    have hflat := spireFlat_lt_of_atRow hrow
    refine answers_of_micro rfl hrow ?_
    rw [State.opHALT, State.sprLeave_of_cls_ne_zero hcls, State.adv_eq, State.updSpire_updSpire]
    exact State.updSpire_spire_changes hflat _ _
  case fence =>
    intro sp s hrow
    exact answers_of_micro rfl hrow rfl
  case ld =>
    intro sp q v s hrow hread
    refine answers_of_micro rfl hrow ?_
    simp only [State.opLD, ldAddr, hread, if_true]
  case st =>
    intro sp q s hrow hwrite
    refine answers_of_micro rfl hrow ?_
    simp only [State.opST, ldAddr, hwrite, if_true]

end Sys2Proof.Machine
end

section
/-! PROOFS of the statements of chapter 10 about the microwords of band movers and integrity engines (R172, R178, R286, R293). -/

namespace Sys2Proof.Machine

/-! ## Pushes -/

theorem nth_mem_cons {α : Type} (l : List α) (n : Nat) (d : α) : nth l n d ∈ d :: l := by
  rw [nth, List.getD_eq_getElem?_getD]
  cases hget : l[n]? with
  | none => exact .head _
  | some x => exact .tail _ (List.mem_of_getElem? hget)

/-- Only band movers have PUSH among their class operations. -/
theorem cls_eq_two_of_push_mem {cls : Nat} (h : .push ∈ (clsRows cls).headD .nop :: clsRows cls) : cls = 2 := by
  by_contra hcls
  unfold clsRows at h
  split_ifs at h <;> simp at h

/-- A PUSH is a microword of a band mover. -/
theorem cls_eq_two_of_push {cls w : Nat} (h : rowOf cls w = .push) : cls = 2 := by
  have hcls : nth (clsRows cls) (bits w 16 4) ((clsRows cls).headD .nop) = .push → cls = 2 := fun hsub =>
    cls_eq_two_of_push_mem (hsub ▸ nth_mem_cons _ _ _)
  unfold rowOf at h
  grind

/-- PUSH of a command that the fabric served (R293). -/
theorem State.opPUSH_of_read {s : State} {sp : Spire} {w : Nat} {x : Resp} (hread : s.busRead (sprPort sp) (s.rb sp w) 32 = (s, x))
    (herr : x.err.isEmpty = true) : s.opPUSH sp w =
      (s.moverPush sp (s.ra sp w % 16) (descWords x.data)).1.clsEnd sp (s.moverPush sp (s.ra sp w % 16) (descWords x.data)).2 := by
  simp [State.opPUSH, hread, herr]

/-- A mask that names no sequencer is refused. -/
theorem maskSeqs_zero (sp : Spire) : maskSeqs sp 0 = [] := by
  simp [maskSeqs]

/-- MASK 3 of a band mover of Tower A names the sequencers A.0 and A.1. -/
theorem maskSeqs_three_of_towerA {sp : Spire} (hcls : sp.cls = 2) (hidx : sp.idx < 2) : maskSeqs sp 3 = [⟨0, 0⟩, ⟨0, 1⟩] := by
  have htower : sprTower sp = .A := by simp [sprTower, hcls, hidx]
  rw [maskSeqs, htower]
  rfl

/-- A command at the end of a spire's queue. -/
def SpireState.queued (p : SpireState) (c : List Word) : SpireState := { p with queue := p.queue ++ [c] }

/-- A push by a band mover of Tower A to the sequencers A.0 and A.1, both with an empty queue: each takes the command, and the device writes its
MASK. -/
theorem State.moverPush_three_of_empty {s : State} {sp : Spire} (hcls : sp.cls = 2) (hidx : sp.idx < 2) (hon : s.isOn bSPR 0 = true)
    (h0 : (s.spire ⟨0, 0⟩).queue = []) (h1 : (s.spire ⟨0, 1⟩).queue = []) (cmd : List Word) : s.moverPush sp 3 cmd =
      ((s.updSpire ⟨0, 0⟩ (·.queued (upd cmd 0 (withField (nth cmd 0 0) 16 4 3)))).updSpire ⟨0, 1⟩
        (·.queued (upd cmd 0 (withField (nth cmd 0 0) 16 4 3))), false) := by
  simp [State.moverPush, maskSeqs_three_of_towerA hcls hidx, hon, State.pushTo, h0, h1, SpireState.queued]

/-- The spires after that push, the mover having moved on. -/
theorem State.spire_pushed_three {s : State} {sp : Spire} (hvalid : spireValid sp = true) (hcls : sp.cls = 2) (hcount : s.spireCount = 32)
    (c : List Word) (f : SpireState → SpireState) {r : State}
    (hr : r = ((s.updSpire ⟨0, 0⟩ (·.queued c)).updSpire ⟨0, 1⟩ (·.queued c)).updSpire sp f) :
    r.spire ⟨0, 0⟩ = (s.spire ⟨0, 0⟩).queued c ∧ r.spire ⟨0, 1⟩ = (s.spire ⟨0, 1⟩).queued c ∧ r.spire sp = f (s.spire sp) := by
  have hmover : spireFlat sp = 24 + sp.idx := by simp [spireFlat, hcls]
  have h0 : spireFlat ⟨0, 0⟩ = 0 := rfl
  have h1 : spireFlat ⟨0, 1⟩ = 1 := rfl
  have hsp : spireFlat sp < 32 := spireFlat_lt hvalid
  refine ⟨?_, ?_, ?_⟩
  · rw [hr, State.spire_updSpire_other (by omega), State.spire_updSpire_other (by omega), State.spire_updSpire_same (by omega)]
  · rw [hr, State.spire_updSpire_other (by omega), State.spire_updSpire_same (by simp; omega), State.spire_updSpire_other (by omega)]
  · rw [hr, State.spire_updSpire_same (by simp; omega), State.spire_updSpire_other (by omega), State.spire_updSpire_other (by omega)]

/-! ## Integrity operations -/

/-- An operation that the engine takes (R286): BUSY and the operation, C clear. -/
theorem State.opInt_of_accepted {s : State} {sp : Spire} {fn w : Nat} (hvalid : spireValid sp = true) (hflat : spireFlat sp < s.spireCount)
    (hop : (s.spire sp).intOp = none) (hon : s.isOn bFIX 0 = true) (hok : s.intOk fn (s.ra sp w) = true) :
    (s.opInt sp fn w).spire sp =
        { s.spire sp with intOp := some (fn, s.ra sp w, s.rb sp w), c := false, pc := ((s.spire sp).pc + 1) % 4096 } ∧
      (s.opInt sp fn w).rd ⟨FIX_BUSY, sp.idx, 1⟩ = 1 ∧ Changes [FIX_BUSY] s (s.opInt sp fn w) := by
  let q := s.updSpire sp (fun p => { p with intOp := some (fn, s.ra sp w, s.rb sp w) })
  have hissue : s.intIssue sp fn (s.ra sp w) (s.rb sp w) = (q.wr ⟨FIX_BUSY, sp.idx, 1⟩ 1, false) := by
    simp [State.intIssue, hop, hon, hok, q]
  rw [State.opInt, hissue, State.clsEnd_eq]
  refine ⟨?_, q.rd_wr_same ⟨FIX_BUSY, sp.idx, 1⟩ 1 (spire_idx_lt hvalid), ?_⟩
  · rw [State.spire_updSpire_same (by simpa [q] using hflat), State.wr_spire, State.spire_updSpire_same hflat]
  · exact ((s.updSpire_changes _ sp _).trans (q.wr_changes ⟨FIX_BUSY, sp.idx, 1⟩ 1 (.head _))).trans (State.updSpire_changes _ _ _ _)

/-- One that it does not take sets C. -/
theorem State.opInt_of_refused {s : State} {sp : Spire} {fn w : Nat}
    (h : (s.spire sp).intOp.isSome = true ∨ s.isOn bFIX 0 = false ∨ s.intOk fn (s.ra sp w) = false) :
    s.opInt sp fn w = s.updSpire sp (fun p => { p with c := true, pc := (p.pc + 1) % 4096 }) := by
  rw [State.opInt, State.intIssue, if_pos h, State.clsEnd_eq]

/-- What such an operation leaves, field by field. -/
theorem State.opInt_issued {s : State} {sp : Spire} {fn w : Nat} (hvalid : spireValid sp = true) (hflat : spireFlat sp < s.spireCount)
    (hop : (s.spire sp).intOp = none) (hon : s.isOn bFIX 0 = true) (hok : s.intOk fn (s.ra sp w) = true) :
    ((s.opInt sp fn w).spire sp).intOp = some (fn, s.ra sp w, s.rb sp w) ∧ ((s.opInt sp fn w).spire sp).c = false ∧
      (s.opInt sp fn w).rd ⟨FIX_BUSY, sp.idx, 1⟩ = 1 ∧ Changes [FIX_BUSY] s (s.opInt sp fn w) := by
  obtain ⟨hsp, hbusy, hchanges⟩ := State.opInt_of_accepted hvalid hflat hop hon hok
  exact ⟨by rw [hsp], by rw [hsp], hbusy, hchanges⟩

/-- A HINIT ends (R286): an empty state, EF0, and BUSY clear. -/
theorem State.intDone_of_hinit {s : State} {sp : Spire} {ra rb : Nat} (hop : (s.spire sp).intOp = some (0, ra, rb)) : s.intDone sp =
    ((s.setHash ra []).updSpire sp (fun p => { p with intOp := none, ef0 := true })).wr ⟨FIX_BUSY, sp.idx, 1⟩ 0 := by
  simp [State.intDone, hop, State.intRun]

theorem State.hashAt_setHash (s : State) (a : Nat) (l : List Byte) : (s.setHash a l).hashAt a = some l := by
  simp [State.hashAt, State.setHash]

/-- Settles O15: a PUSH reads its command and pushes it, an integrity operation is taken or refused, and a HINIT that ends leaves its state. -/
theorem integrityRows : Obligations.IntegrityRows := by
  refine ⟨?pushNone, ?push, ?hinit, ?hinitBusy, ?hupd, ?hfin, ?gfacc, ?gfaccOff, ?gfsolve, ?done⟩
  case pushNone =>
    intro sp s hrow haddr hmask hread
    refine answers_of_micro rfl hrow ?_
    rw [State.opPUSH_of_read (x := { data := List.replicate 32 0#8 }) (by rw [State.rb, haddr, hread]) rfl, State.ra, hmask, State.moverPush,
      if_pos (maskSeqs_zero sp)]
    exact s.clsEnd_eq sp true
  case push =>
    intro sp s hrow hon haddr hidx hmask h0 h1 hread
    obtain ⟨hrun, -, -, hpush⟩ := id hrow
    have hcls := cls_eq_two_of_push hpush
    let c : List Word := [0x00030000, 0, 0, 0, 0, 0, 0, 0]
    let q := (s.updSpire ⟨0, 0⟩ (·.queued c)).updSpire ⟨0, 1⟩ (·.queued c)
    have hop : s.opPUSH sp (s.mword sp) = q.updSpire sp (fun p => { p with c := false, pc := (p.pc + 1) % 4096 }) := by
      rw [State.opPUSH_of_read (x := { data := List.replicate 32 0#8 }) (by rw [State.rb, haddr, hread]) rfl, State.ra, hmask,
        State.moverPush_three_of_empty hcls hidx hon h0 h1]
      exact q.clsEnd_eq sp false
    obtain ⟨hvalid, -, hcount, -⟩ := hrun
    obtain ⟨hq0, hq1, hsp⟩ := State.spire_pushed_three hvalid hcls hcount c _ hop
    refine answers_of_micro rfl hrow ⟨?_, ?_, hsp, ?_⟩
    · rw [hq0, SpireState.queued, h0, List.nil_append]
    · rw [hq1, SpireState.queued, h1, List.nil_append]
    · rw [hop]
      exact ((s.updSpire_changes _ _ _).trans (State.updSpire_changes _ _ _ _)).trans (State.updSpire_changes _ _ _ _)
  case hinit =>
    intro sp s hrow hop hon
    exact answers_of_micro rfl hrow (State.opInt_of_accepted (spireValid_of_atRow hrow) (spireFlat_lt_of_atRow hrow) hop hon rfl)
  case hinitBusy =>
    intro sp s hrow hop
    exact answers_of_micro rfl hrow (State.opInt_of_refused (.inl hop))
  case hupd =>
    intro sp s hrow hop hon
    exact answers_of_micro rfl hrow (State.opInt_issued (spireValid_of_atRow hrow) (spireFlat_lt_of_atRow hrow) hop hon rfl)
  case hfin =>
    intro sp s hrow hop hon
    exact answers_of_micro rfl hrow (State.opInt_issued (spireValid_of_atRow hrow) (spireFlat_lt_of_atRow hrow) hop hon rfl)
  case gfacc =>
    intro sp s hrow hop hon
    refine answers_of_micro rfl hrow ?_
    cases hok : s.intOk 3 (s.ra sp (s.mword sp)) with
    | true =>
      obtain ⟨hsp, hbusy, hchanges⟩ := State.opInt_of_accepted (spireValid_of_atRow hrow) (spireFlat_lt_of_atRow hrow) hop hon hok
      exact ⟨fun _ => ⟨hsp, hbusy⟩, fun hno => absurd (hok.symm.trans hno) (by decide), hchanges⟩
    | false =>
      have hrefused := State.opInt_of_refused (sp := sp) (w := s.mword sp) (.inr (.inr hok))
      refine ⟨fun hyes => absurd (hok.symm.trans hyes) (by decide), fun _ => hrefused, ?_⟩
      rw [State.opGFACC, hrefused]
      exact s.updSpire_changes _ sp _
  case gfaccOff =>
    intro sp s hrow hoff
    exact answers_of_micro rfl hrow (State.opInt_of_refused (.inr (.inl hoff)))
  case gfsolve =>
    intro sp s hrow hop hon
    exact answers_of_micro rfl hrow (State.opInt_issued (spireValid_of_atRow hrow) (spireFlat_lt_of_atRow hrow) hop hon rfl)
  case done =>
    intro n ra rb s hn hcount hop
    let q := (s.setHash ra []).updSpire ⟨3, n⟩ (fun p => { p with intOp := none, ef0 := true })
    have hexec : exec (.integrityOpDone n) s = .next (q.wr ⟨FIX_BUSY, n, 1⟩ 0) :=
      congrArg Host.Outcome.next ((if_pos hn).trans (State.intDone_of_hinit hop))
    have hvalid : spireValid ⟨3, n⟩ = true := by simpa [spireValid, classSize] using hn
    have hflat : spireFlat ⟨3, n⟩ < (s.setHash ra []).spireCount := (spireFlat_lt hvalid).trans_eq hcount.symm
    refine ⟨_, hexec, ?_, ?_, ?_, ?_⟩
    · rw [State.wr_spire]
      exact State.spire_updSpire_same hflat _
    · rw [State.hashAt, State.wr_sprEnv]
      exact s.hashAt_setHash ra []
    · exact q.rd_wr_same ⟨FIX_BUSY, n, 1⟩ 0 (spire_idx_lt hvalid)
    · exact q.wr_changes ⟨FIX_BUSY, n, 1⟩ 0 (.head _)

end Sys2Proof.Machine
end

section
/-! PROOFS of the statements of chapter 10 about the microwords of track sequencers: captures, outcomes, runs and waits (R226, R287, R293, R294). -/

namespace Sys2Proof.Machine

/-- A new assist code is work of the preamp link and the Lantern alone (R243): registers, memory, spires and the write run stay. -/
theorem State.lanAssist_frame (s : State) (t : Tower) : (s.lanAssist t).regs = s.regs ∧ (s.lanAssist t).mem = s.mem ∧
    (s.lanAssist t).spires = s.spires ∧ ((s.lanAssist t).twr.get t).run = (s.twr.get t).run := by
  unfold State.lanAssist
  split
  · exact ⟨rfl, rfl, rfl, by simp [State.updCpl, State.updLan, State.updTwr]⟩
  · exact ⟨rfl, rfl, rfl, rfl⟩

/-- A new assist code changes no register and no byte. -/
theorem State.lanAssist_changes (l : List Nat) (s : State) (t : Tower) : Changes l s (s.lanAssist t) := by
  obtain ⟨hregs, hmem, -, -⟩ := s.lanAssist_frame t
  exact ⟨fun a _ => State.reg_congr hregs a, fun a => congrArg (memLookup · a) hmem⟩

/-- The write run that EMITR begins for a plan (R226, R228). -/
def State.emitted (s : State) (sp : Spire) (p : Plan) (src md : Nat) : WriteRun :=
  { head := p.head, zone := p.zone, count := p.count, src := src, meta_ := md, start := s.startSlot sp,
    precomp := [s.reg (TWR_PRECOMP (sprTower sp).idx 0), s.reg (TWR_PRECOMP (sprTower sp).idx 1)] }

/-- EMITR with a write plan hands its sectors to the write path of the Tower, and LAN_STAT shows the zone (R242). -/
theorem State.emitr_effect (s : State) (sp : Spire) (p : Plan) (src md : Nat) :
    ((s.emitr sp p src md).twr.get (sprTower sp)).run = some (s.emitted sp p src md) ∧ (s.emitr sp p src md).spires = s.spires ∧
      (s.emitr sp p src md).rd (LAN_STAT_ZONE (sprTower sp).idx) = p.zone % 2 ^ 6 ∧
      Changes [LAN_STAT (sprTower sp).idx] s (s.emitr sp p src md) := by
  let q := s.updTwr (sprTower sp) (fun x => { x with
    run := some (s.emitted sp p src md), lan := { x.lan with gate := (s.reg (LAN_GATE (sprTower sp).idx)).toNat, runHead := p.head } })
  let r := q.wr (LAN_STAT_ZONE (sprTower sp).idx) p.zone
  have hemitr : s.emitr sp p src md = r.lanAssist (sprTower sp) := rfl
  obtain ⟨hregs, -, hspires, hrun⟩ := r.lanAssist_frame (sprTower sp)
  rw [hemitr]
  refine ⟨?_, hspires.trans (q.wr_spires _ _), ?_, ?_⟩
  · rw [hrun, q.wr_twr, State.updTwr_twr, Two.get_set_same]
  · rw [State.rd_congr (State.reg_congr hregs _)]
    exact q.rd_wr_same _ _ (Nat.le_of_ble_eq_true rfl)
  · exact Changes.trans (q.wr_changes (LAN_STAT_ZONE (sprTower sp).idx) p.zone (.head _)) (r.lanAssist_changes _ _)

/-- CAPTR of a plan not queued before (R287): the captures wait in the channel, and their run is the Tower's next. -/
theorem State.captr_chn (s : State) (sp : Spire) (p : Plan) (dest tag : Nat) : (s.captr sp p dest tag).chn.get (sprTower sp) =
    { s.chn.get (sprTower sp) with
      plans := (s.chn.get (sprTower sp)).plans ++ p.caps.map (fun c =>
        { c with
          dest := dest + 4096 * c.ordinal, tag := (tag + c.ordinal) % 256, baseA := (s.chn.get (sprTower sp)).opensA,
          baseB := (s.chn.get (sprTower sp)).opensB, run := (s.chn.get (sprTower sp)).runs + 1 })
      runs := (s.chn.get (sprTower sp)).runs + 1 } := by
  rw [State.captr, State.updChn_chn, Two.get_set_same, List.map_map]
  rfl

/-- Settles O14: CAPTR and EMITR hand the plan to the channel and the write path, OUTC and SYNCP are waits, and a wait that is satisfied lets the
spire run again. -/
theorem sequencerEventRows : Obligations.SequencerEventRows := by
  refine ⟨?captr, ?captrQueued, ?outc, ?outcWait, ?emitr, ?emitrNone, ?syncp, ?syncpLost, ?noted, ?armed⟩
  case captr =>
    intro sp p s hrow hplan hfree
    have hflat := spireFlat_lt_of_atRow hrow
    refine answers_of_micro rfl hrow ?_
    let q := s.captr sp p (s.ra sp (s.mword sp)) (s.rb sp (s.mword sp) % 256)
    have hop : s.opCAPTR sp (s.mword sp) = q.clsEnd sp false := by simp [State.opCAPTR, hplan, hfree, q]
    have hspires : q.spires = (s.updSpire sp (fun x => { x with plan := some { p with queued := true } })).spires := rfl
    have hsp : q.spire sp = { s.spire sp with plan := some { p with queued := true } } :=
      (State.spire_congr hspires sp).trans (State.spire_updSpire_same hflat _)
    have hchn := s.captr_chn sp p (s.ra sp (s.mword sp)) (s.rb sp (s.mword sp) % 256)
    rw [hop, State.clsEnd_eq, State.spire_updSpire_same (spireFlat_lt_congr hspires (by simpa using hflat)), hsp, State.updSpire_chn, hchn]
    exact ⟨rfl, rfl, rfl, fun _ _ => rfl, fun _ => rfl⟩
  case captrQueued =>
    intro sp p s hrow hplan hqueued
    refine answers_of_micro rfl hrow ?_
    have hop : s.opCAPTR sp (s.mword sp) = s.clsEnd sp true := by simp [State.opCAPTR, hplan, hqueued]
    exact hop.trans (s.clsEnd_eq sp true)
  case outc =>
    intro sp v l s hrow hnotes
    exact answers_of_micro rfl hrow (State.waitOn_of_tryWait (State.tryWait_outc_of_note hnotes _))
  case outcWait =>
    intro sp s hrow hnotes
    refine answers_of_micro rfl hrow ?_
    rw [State.opOUTC, State.waitOn_outc_of_none hnotes]
    exact State.updSpire_spire_changes (spireFlat_lt_of_atRow hrow) _ _
  case emitr =>
    intro sp p s hrow hplan hwrite
    have hflat := spireFlat_lt_of_atRow hrow
    have hop : s.opEMITR sp (s.mword sp) = (s.emitr sp p (s.ra sp (s.mword sp)) (s.rb sp (s.mword sp))).clsEnd sp false := by
      simp [State.opEMITR, hplan, hwrite]
    obtain ⟨hrun, hspires, hzone, hchanges⟩ := s.emitr_effect sp p (s.ra sp (s.mword sp)) (s.rb sp (s.mword sp))
    refine answers_of_micro rfl hrow ?_
    rw [hop, State.clsEnd_eq, State.updSpire_twr, hrun, State.spire_updSpire_same (spireFlat_lt_congr hspires hflat)]
    exact ⟨rfl, rfl, rfl, hzone, hchanges.trans (State.updSpire_changes _ _ _ _)⟩
  case emitrNone =>
    intro sp s hrow hplan
    refine answers_of_micro rfl hrow ?_
    have hop : s.opEMITR sp (s.mword sp) = s.clsEnd sp true := by simp [State.opEMITR, hplan]
    exact hop.trans (s.clsEnd_eq sp true)
  case syncp =>
    intro sp s hrow hmet
    exact answers_of_micro rfl hrow (State.waitOn_of_tryWait (State.tryWait_syncp_of_met hmet))
  case syncpLost =>
    intro sp s hrow hmet hlost
    exact answers_of_micro rfl hrow (State.waitOn_of_tryWait (State.tryWait_syncp_of_lost hmet hlost))
  case noted =>
    intro sp v l rd s hvalid hhalt hcount hst hwait hnotes
    have hflat : spireFlat sp < s.spireCount := (spireFlat_lt hvalid).trans_eq hcount.symm
    have hresume := State.resume_of_tryWait hvalid hst hwait (State.tryWait_outc_of_note hnotes rd)
    rw [State.updSpire_updSpire] at hresume
    have hexec : exec (.waitSatisfied sp) s = .next (s.resume sp) :=
      congrArg Host.Outcome.next (if_neg (by simp [hhalt]))
    refine ⟨_, hexec.trans (congrArg _ hresume), State.updSpire_spire_changes hflat _ _⟩
  case armed =>
    intro sp rd c s hst hwait harmed
    have hnone : s.tryWait sp (.waitc rd c) = none := if_pos harmed
    have hresume : s.resume sp = s := by simp [State.resume, hst, hwait, hnone, State.waitSide]
    have hexec : exec (.waitSatisfied sp) s = .next (if s.halted then s else s.resume sp) := rfl
    exact ⟨s, by rw [hexec, hresume, ite_self], rfl⟩

end Sys2Proof.Machine
end

section
/-! PROOFS of the statements of chapter 10 about macro-commands: queues, completion records, and the commands of the SPR pages (R293 to R295, R300,
R301, R303). -/

namespace Sys2Proof.Machine

/-! ## POP -/

/-- What POP leaves in a spire that takes the command `c` (R294). -/
def SpireState.dispatched (p : SpireState) (c : List Word) : SpireState :=
  { p with queue := p.queue.drop 1, w := p.w.take 8 ++ c, stack := [], synced := false, syncMet := false, running := some c, routine := none,
           pc := fieldOf (nth c 0 0) 24 8 }

/-- POP dispatches a command of the base image's opcodes. -/
theorem State.popGo_of_ready {s : State} {sp : Spire} {c : List Word} {l : List (List Word)} (hready : s.popReady sp = true)
    (hqueue : (s.spire sp).queue = c :: l) (hop : fieldOf (nth c 0 0) 24 8 < 0x40) (n : Nat) : s.popGo sp (n + 1) =
      ((s.popTake sp c).updSpire sp (fun p => { p with running := some c, routine := none, pc := fieldOf (nth c 0 0) 24 8 }), true) := by
  have hhead : nth (s.spire sp).queue 0 [] = c := by rw [hqueue]; rfl
  simp only [State.popGo, if_neg (show ¬ s.popReady sp = false by rw [hready]; decide), hhead, if_neg (Nat.not_le.mpr hop)]

/-- R294: a spire that is no track sequencer takes the command at the head of its queue, with a packet of the trace port. -/
theorem State.tryWait_pop_of_queue {s : State} {sp : Spire} {c : List Word} {l : List (List Word)} (hflat : spireFlat sp < s.spireCount)
    (hcls : sp.cls ≠ 0) (hqueue : (s.spire sp).queue = c :: l) (hop : fieldOf (nth c 0 0) 24 8 < 0x40) :
    ∃ r, s.tryWait sp .pop = some r ∧ r.spire sp = (s.spire sp).dispatched c ∧ Changes [BTP_STAT] s r := by
  have hready : s.popReady sp = true := by simp [State.popReady, hqueue, hcls]
  let f : SpireState → SpireState := fun p =>
    { p with queue := p.queue.drop 1, w := p.w.take 8 ++ c, stack := [], synced := false, syncMet := false }
  let q := (s.updSpire sp f).sprTrace sp 2 (leBytes 1 (fieldOf (nth c 0 0) 24 8) ++ leBytes 2 (fieldOf (nth c 0 0) 0 16))
  have htake : s.popTake sp c = q := if_neg hcls
  have hq : q.spire sp = f (s.spire sp) := (State.sprTrace_spire _ _ _ _ sp).trans (State.spire_updSpire_same hflat f)
  let r := q.updSpire sp (fun p => { p with running := some c, routine := none, pc := fieldOf (nth c 0 0) 24 8 })
  have hpop : s.pop sp = (r, true) := (State.popGo_of_ready hready hqueue hop 16).trans (by rw [htake])
  refine ⟨r, by rw [State.tryWait, hpop, if_pos rfl], ?_, ?_⟩
  · rw [State.spire_updSpire_same (by simpa [q, State.sprTrace] using hflat), hq]
    rfl
  · exact ((s.updSpire_changes _ sp f).trans (State.trace_changes _ _ _ _ _ (.head _))).trans (q.updSpire_changes _ _ _)

/-! ## Words of memory -/

/-- A word reads what was stored to it. -/
theorem State.word_setWord_same (s : State) (a : Nat) (v : Word) : (s.setWord a v).word a = v := by
  have hbytes : (s.setWord a v).bytes a 4 = leBytes 4 v.toNat := by
    have h := State.bytes_eq (s.setWord a v) (leBytes 4 v.toNat) a (fun k hk => State.byte_setBytes_in _ _ _ _ hk)
    rwa [leBytes_length] at h
  rw [State.word, hbytes]
  exact wd_leNat_leBytes v

theorem State.word_setWords_head (s : State) (a : Nat) (v : Word) (l : List Word) : (s.setWords a (v :: l)).word a = v := by
  have hrest : ∀ b, b < a + 4 → ((s.setWord a v).setWords (a + 4) l).byte b = (s.setWord a v).byte b := fun b hb =>
    State.setWords_sameMemOut l _ _ b (by simpa using .inl hb)
  have hbytes : ((s.setWord a v).setWords (a + 4) l).bytes a 4 = (s.setWord a v).bytes a 4 := by
    simp only [State.bytes]
    rw [hrest _ (by omega), hrest _ (by omega), hrest _ (by omega), hrest _ (by omega)]
  rw [State.setWords, State.word, hbytes]
  exact s.word_setWord_same a v

theorem State.word_congr {s r : State} (h : r.mem = s.mem) (a : Nat) : r.word a = s.word a := by
  rw [State.word, State.bytes_congr h, State.word]

/-! ## POST -/

/-- The state of a post before its record: COMP_PEND and the trace packet. -/
def State.compPosted (s : State) (sp : Spire) (status : Nat) : State := (s.wr (compFld sp) 1).sprTrace sp 2 [BitVec.ofNat 8 status]

/-- Where the next record of ring `g` goes. -/
def State.cringSlot (s : State) (cls g : Nat) : Nat :=
  s.rd (SPR_CRING_BASE_BASE cls g) / 16 * 16 + 16 * (s.rd (SPR_CRING_PROD_INDEX cls g) %
    ringSize (s.rd (SPR_CRING_CFG_LOG2SIZE cls g)) 4 10 6)

/-- Ring `g` is full. -/
def State.cringFull (s : State) (cls g : Nat) : Prop :=
  (s.rd (SPR_CRING_PROD_INDEX cls g) + 65536 - s.rd (SPR_CRING_CONS_INDEX cls g)) % 65536 = ringSize (s.rd (SPR_CRING_CFG_LOG2SIZE cls g)) 4 10 6

/-- R295: a record that its ring, one of the four of firmware, has room for. -/
theorem State.postRec_of_room {s : State} {sp : Spire} {hdr : Word} {g : Nat} (hring : fieldOf hdr 20 4 = g) (hg : g < 4)
    (hroom : ¬ s.cringFull sp.cls g) (status ra rb : Nat) : s.postRec sp hdr status ra rb =
      ((s.compPosted sp status).setWords (s.cringSlot sp.cls g)
        [BitVec.ofNat 32 (status * 2 ^ 24 + sp.cls * 2 ^ 22 + sp.idx * 2 ^ 16 + fieldOf hdr 0 16), BitVec.ofNat 32 ra, BitVec.ofNat 32 rb,
          BitVec.ofNat 32 (s.sprStamp sp)]).wr (SPR_CRING_PROD_INDEX sp.cls g) (s.rd (SPR_CRING_PROD_INDEX sp.cls g) + 1) := by
  subst hring
  unfold State.cringFull at hroom
  simp only [State.postRec, if_neg (show ¬ 8 ≤ fieldOf hdr 20 4 by omega), if_neg hroom, if_neg (show ¬ (sp.cls = 0 ∧ 4 ≤ fieldOf hdr 20 4) by omega)]
  rfl

/-- R295: a full ring drops the record and raises an interrupt. -/
theorem State.postRec_of_full {s : State} {sp : Spire} {hdr : Word} {g : Nat} (hring : fieldOf hdr 20 4 = g) (hg : g < 8)
    (hfull : s.cringFull sp.cls g) (status ra rb : Nat) : s.postRec sp hdr status ra rb = (s.compPosted sp status).sprIrq sp.cls 25 := by
  subst hring
  unfold State.cringFull at hfull
  simp only [State.postRec, if_neg (show ¬ 8 ≤ fieldOf hdr 20 4 by omega), if_pos hfull]
  rfl

theorem State.compPosted_changes {s : State} {sp : Spire} (hvalid : spireValid sp = true) (status : Nat) :
    (s.compPosted sp status).rd ⟨SPR_COMP_PEND sp.cls, sp.idx, 1⟩ = 1 ∧ Changes [SPR_COMP_PEND sp.cls, BTP_STAT] s (s.compPosted sp status) :=
  State.sprTrace_compPend hvalid s _

@[simp] theorem State.compPosted_spires (s : State) (sp : Spire) (status : Nat) : (s.compPosted sp status).spires = s.spires := by
  simp [State.compPosted, State.sprTrace]

/-- The state after the record, its first two words read back, the ring's index and what else changed. -/
theorem State.postRec_effect {s : State} {sp : Spire} {hdr : Word} {g : Nat} (hvalid : spireValid sp = true) (hring : fieldOf hdr 20 4 = g)
    (hg : g < 4) (hroom : ¬ s.cringFull sp.cls g) (status ra rb : Nat) {r : State} (hr : s.postRec sp hdr status ra rb = r) :
    r.spire sp = s.spire sp ∧ r.spireCount = s.spireCount ∧
      r.word (s.cringSlot sp.cls g) = BitVec.ofNat 32 (status * 2 ^ 24 + sp.cls * 2 ^ 22 + sp.idx * 2 ^ 16 + fieldOf hdr 0 16) ∧
      r.word (s.cringSlot sp.cls g + 4) = BitVec.ofNat 32 ra ∧
      r.rd (SPR_CRING_PROD_INDEX sp.cls g) = (s.rd (SPR_CRING_PROD_INDEX sp.cls g) + 1) % 65536 ∧
      OnlyRegs [BTP_STAT, SPR_COMP_PEND sp.cls, (SPR_CRING_PROD_INDEX sp.cls g).addr] s r ∧
      SameMemOut [(s.cringSlot sp.cls g, 16)] s r := by
  obtain ⟨-, hregs, hmem⟩ := State.compPosted_changes (s := s) hvalid status
  rw [State.postRec_of_room hring hg hroom] at hr
  subst hr
  refine ⟨?_, ?_, ?_, ?_, ?_, ?_, ?_⟩
  · rw [State.wr_spire, State.setWords_spire, State.spire_congr (s.compPosted_spires sp status)]
  · simp [State.compPosted, State.sprTrace]
  · rw [State.word_congr (State.wr_mem _ _ _), State.word_setWords_head]
  · rw [State.word_congr (State.wr_mem _ _ _), State.setWords, State.word_setWords_head]
  · exact State.rd_wr_same _ _ _ (Nat.le_of_ble_eq_true rfl)
  · intro a ha
    simp only [List.mem_cons, List.not_mem_nil, or_false, not_or] at ha
    obtain ⟨hbtp, hpend, hprod⟩ := ha
    rw [State.reg_wr_other _ _ _ _ (Ne.symm hprod), State.reg_congr (State.setWords_regs _ _ _)]
    exact hregs a (by simp [hbtp, hpend])
  · exact ((SameMem.out hmem).trans (State.setWords_sameMemOut [_, _, _, _] _ _)).trans (SameMem.out (State.wr_byte _ _ _))

/-- The low half of a working register. -/
theorem fieldOf_ofNat_low (x : Nat) : fieldOf (BitVec.ofNat 32 x) 0 16 = x % 65536 := by
  simp only [fieldOf, BitVec.toNat_ofNat]
  omega

/-- The state after a record that a full ring did not take: its index stays. -/
theorem State.postRec_full_effect {s : State} {sp : Spire} {hdr : Word} {g : Nat} (hvalid : spireValid sp = true) (hring : fieldOf hdr 20 4 = g)
    (hg : g < 8) (hfull : s.cringFull sp.cls g) (status ra rb : Nat) {r : State} (hr : s.postRec sp hdr status ra rb = r) :
    r.rd ⟨SPR_COMP_PEND sp.cls, sp.idx, 1⟩ = 1 ∧ r.rd (SPR_CRING_PROD_INDEX sp.cls g) = s.rd (SPR_CRING_PROD_INDEX sp.cls g) ∧
      r.rd ⟨pageBase bSPR sp.cls 0 + 0x10, 25, 1⟩ = 1 ∧ SameMem s r ∧ r.spires = s.spires := by
  obtain ⟨hpend, hregs, hmem⟩ := State.compPosted_changes (s := s) hvalid status
  rw [State.postRec_of_full hring hg hfull] at hr
  subst hr
  have hirq_pend : pageBase bSPR sp.cls 0 + 0x10 ≠ SPR_COMP_PEND sp.cls := by
    unfold pageBase bSPR SPR_COMP_PEND
    omega
  have hirq_prod : pageBase bSPR sp.cls 0 + 0x10 ≠ SPR_CRING_PROD sp.cls g := by
    unfold pageBase bSPR SPR_CRING_PROD
    omega
  have hprod : SPR_CRING_PROD sp.cls g ∉ [SPR_COMP_PEND sp.cls, BTP_STAT] := by
    simp only [List.mem_cons, List.not_mem_nil, or_false, SPR_CRING_PROD, SPR_COMP_PEND, BTP_STAT]
    omega
  refine ⟨(State.rd_wr_other _ _ _ _ hirq_pend).trans hpend, (State.rd_wr_other _ _ _ _ hirq_prod).trans (State.rd_congr (hregs _ hprod)),
    State.rd_wr_same _ _ _ (Nat.le_of_ble_eq_true rfl), fun a => (State.wr_byte _ _ _ a).trans (hmem a), ?_⟩
  rw [State.sprIrq, State.irq_spires, State.compPosted_spires]

/-- POST ends the command and goes on (R295). -/
theorem State.opPOST_eq (s : State) (sp : Spire) (w : Nat) : s.opPOST sp w =
    (s.postRec sp (BitVec.ofNat 32 (s.w sp 8)) (bits w 0 8) (s.w sp (bits w 12 4)) (s.w sp (bits w 8 4))).updSpire sp (fun p =>
      { p with running := none, pc := (p.pc + 1) % 4096 }) := by
  rw [State.opPOST, State.postDo, State.updSpire_adv, wd]

/-! ## SPR_CMD -/

/-- A spire that SPR_SEL names exists. -/
theorem spireValid_of_sprSel {s : State} {cls : Nat} {sp : Spire} (hcls : cls < 4) (h : s.sprSel cls = some sp) :
    spireValid sp = true ∧ sp.cls = cls := by
  unfold State.sprSel at h
  split at h
  case isTrue hidx =>
    obtain rfl := Option.some.inj h
    exact ⟨by simp [spireValid, hcls, hidx], rfl⟩
  case isFalse => cases h

/-- START alone (R303). -/
theorem State.sprCmd_of_start {s : State} {cls : Nat} {sp : Spire} {v : Word} (hsel : s.sprSel cls = some sp) (hstart : fieldOf v 0 1 = 1)
    (hhalt : fieldOf v 1 1 = 0) (hstep : fieldOf v 2 1 = 0) : s.sprCmd cls v = s.sprRun sp := by
  simp [State.sprCmd, hsel, hstart, hhalt, hstep]

/-- HALT alone (R300). -/
theorem State.sprCmd_of_halt {s : State} {cls : Nat} {sp : Spire} {v : Word} (hsel : s.sprSel cls = some sp) (hstart : fieldOf v 0 1 = 0)
    (hhalt : fieldOf v 1 1 = 1) (hstep : fieldOf v 2 1 = 0) : s.sprCmd cls v = s.sprHalt sp := by
  simp [State.sprCmd, hsel, hstart, hhalt, hstep]

/-- STEP alone of a spire in HALTED (R303). -/
theorem State.sprCmd_of_step {s : State} {cls : Nat} {sp : Spire} {v : Word} (hsel : s.sprSel cls = some sp) (hstart : fieldOf v 0 1 = 0)
    (hhalt : fieldOf v 1 1 = 0) (hstep : fieldOf v 2 1 = 1) (hst : (s.spire sp).sstate = 0) :
    s.sprCmd cls v = { s with sprEnv := { s.sprEnv with steps := s.sprEnv.steps ++ [sp] } } := by
  simp [State.sprCmd, hsel, hstart, hhalt, hstep, hst]

/-- A STEP over a NOP: the next microword, and HALTED again. -/
theorem State.stepOne_of_nop {s : State} {sp : Spire} (hvalid : spireValid sp = true) (hhalt : s.halted = false)
    (hflat : spireFlat sp < s.spireCount) (hst : (s.spire sp).sstate = 0) (hgood : csGood (s.spire sp).fetch = true)
    (hword : s.mword sp = 0x700000) : s.stepOne sp = s.updSpire sp (fun p => { p with sstate := 0, pc := (p.pc + 1) % 4096 }) := by
  let q := s.updSpire sp (fun p => { p with sstate := 1 })
  have hq : q.spire sp = { s.spire sp with sstate := 1 } := State.spire_updSpire_same hflat _
  have hgood' : csGood (q.spire sp).fetch = true := by rw [hq]; exact hgood
  have hword' : q.mword sp = 0x700000 := by rw [State.mword, hq]; exact hword
  have hfetch : q.fetchDo sp (fun s => s.rowDo sp (s.mword sp) (rowOf sp.cls (s.mword sp))) = q.adv sp := by
    have hlegal : illegal sp.cls 0x700000 = false := by simp [illegal, bits]
    have hrow : rowOf sp.cls 0x700000 = .nop := by simp [rowOf, bits]
    simp [State.fetchDo, hgood', hword', hlegal, hrow, State.rowDo, State.opNOP]
  have hrun : ((q.adv sp).spire sp).sstate = 1 := by
    rw [State.updSpire_adv, State.spire_updSpire_same hflat]
  have hstep : s.stepOne sp = (q.adv sp).updSpire sp (fun p => { p with sstate := 0 }) := by
    rw [State.stepOne, if_pos ⟨hvalid, hhalt, hst⟩, hfetch]
    simp only [hrun, if_true, if_neg (show ¬ 1 = 2 by decide)]
  rw [hstep, State.updSpire_adv, State.updSpire_updSpire]

theorem exec_sprStart {s r : State} {cls : Nat} {val : Word} (hcls : cls < 4) (hadm : s.admits (SPR_CMD cls) = true)
    (hcmd : s.sprCmd cls (withField val 0 1 1) = r) (hsteps : r.sprEnv.steps = []) : exec (.sprStart cls val) s = .next r := by
  refine congrArg Host.Outcome.next ((if_pos hcls).trans ?_)
  rw [State.gated_of_admits hadm, hcmd, State.drainSteps_of_nil hsteps]

theorem exec_sprHalt {s r : State} {cls : Nat} {val : Word} (hcls : cls < 4) (hadm : s.admits (SPR_CMD cls) = true)
    (hcmd : s.sprCmd cls (withField val 1 1 1) = r) (hsteps : r.sprEnv.steps = []) : exec (.sprHalt cls val) s = .next r := by
  refine congrArg Host.Outcome.next ((if_pos hcls).trans ?_)
  rw [State.gated_of_admits hadm, hcmd, State.drainSteps_of_nil hsteps]

/-! ## The control store -/

/-- R301: a word for one spire in HALTED, with its parity bit given. -/
theorem State.csWrite_of_halted {s : State} {cls : Nat} {val : Word} {sp : Spire} (hall : s.on (SPR_CS_ADDR_ALL cls) = false)
    (hinc : s.on (SPR_CS_ADDR_AUTO_INC cls) = false) (hpar : s.on (SPR_CS_ADDR_PAR_AUTO cls) = false) (hsel : s.sprSel cls = some sp)
    (hst : (s.spire sp).sstate = 0) : s.csWrite cls val =
      s.updSpire sp (fun p => { p with cs := csPut p.cs (s.rd (SPR_CS_ADDR_ADDR cls)) (BitVec.ofNat 25 (fieldOf val 0 25)) }) := by
  simp [State.csWrite, State.csTargets, State.csInc, hall, hinc, hpar, hsel, hst]

/-- A control-store word reads what was written to it (R301). -/
theorem csAt_csPut (p : SpireState) (a : Nat) (v : BitVec 25) : ({ p with cs := csPut p.cs a v }).csAt a = v := by
  unfold csPut SpireState.csAt
  split
  case isTrue hzero =>
    have hnone : (p.cs.filter (fun e => !(e.1 == a))).find? (fun e => e.1 == a) = none := by simp
    rw [hnone, hzero]
    rfl
  case isFalse => simp

/-! ## Pushes -/

/-- R293: a push to one spire with room in its queue. -/
theorem State.pushTo_one_of_room {s : State} {q : Spire} (h : (s.spire q).queue.length < 16) (cmd : List Word) :
    s.pushTo [q] cmd = (s.updSpire q (·.queued (upd cmd 0 (withField (nth cmd 0 0) 16 4 0))), 0) := by
  simp [State.pushTo, Nat.not_le.mpr h, SpireState.queued]

/-- A full queue takes nothing. -/
theorem State.pushTo_one_of_full {s : State} {q : Spire} (h : 16 ≤ (s.spire q).queue.length) (cmd : List Word) :
    s.pushTo [q] cmd = (s.sprIrq q.cls 26, 1) := by
  simp [State.pushTo, h]

/-- A mask with one bit names one spire. -/
theorem qTargets_two_pow {cls k : Nat} (hcls : cls < 4) (hk : k < 4) : qTargets cls (2 ^ k) = some [⟨cls, k⟩] := by
  have hall : ∀ c < 4, ∀ j < 4, qTargets c (2 ^ j) = some [⟨c, j⟩] := by decide
  exact hall cls hcls k hk

theorem spireValid_of_lt_four {cls k : Nat} (hcls : cls < 4) (hk : k < 4) : spireValid ⟨cls, k⟩ = true := by
  simp only [spireValid, classSize, Bool.and_eq_true, decide_eq_true_eq]
  exact ⟨hcls, by split_ifs <;> omega⟩

/-- R293: a write of SPR_QPUSH that names one spire; the result is shown in SPR_QRES. -/
theorem State.qPush_of_one {s : State} {cls : Nat} {val : Word} {q : Spire} (hon : s.isOn bSPR cls = true)
    (htarget : qTargets cls (fieldOf val 0 16) = some [q]) : s.qPush cls val =
      (s.pushTo [q] ((List.range 8).map (fun j => s.reg (SPR_QCMD cls j)))).1.wr (SPR_QRES_RESULT cls)
        (s.pushTo [q] ((List.range 8).map (fun j => s.reg (SPR_QCMD cls j)))).2 := by
  simp [State.qPush, hon, htarget]

theorem exec_sprQpush {s r : State} {cls : Nat} {val : Word} (hcls : cls < 4) (hadm : s.admits (SPR_QPUSH cls) = true)
    (hpush : s.qPush cls val = r) : exec (.sprQpush cls val) s = .next r :=
  congrArg Host.Outcome.next ((if_pos hcls).trans ((State.gated_of_admits hadm _).trans hpush))

/-- A channel core's staging holds the eight words that it wrote. -/
def State.staged (s : State) (core : Nat) (words : List Word) : State :=
  { s with sprEnv := { s.sprEnv with mqW := upd s.sprEnv.mqW core (words.take 8 ++ List.replicate (8 - words.length) 0) } }

/-- The result of a channel core's push (Table 10-9). -/
def State.mqAnswer (s : State) (core r : Nat) : State := { s with sprEnv := { s.sprEnv with mqRes := upd s.sprEnv.mqRes core r } }

/-- R293: a target set that no push may have. -/
theorem State.mqPush_of_none {s : State} {core : Nat} {val : Word} (words : List Word)
    (h : mqTargets (if core < 2 then .A else .B) (fieldOf val 0 6) = none) : s.mqPush core words val = (s.staged core words).mqAnswer core 2 := by
  rw [State.mqPush, h]
  rfl

/-- A push of a channel core of Tower A to A.0, whose queue is empty. -/
theorem State.mqPush_of_empty {s : State} {core : Nat} {words : List Word} (hcore : core < 2) (hlen : words.length = 8)
    (hon : s.isOn bSPR 0 = true) (hmq : s.sprEnv.mqW.length = 4) (hqueue : (s.spire ⟨0, 0⟩).queue = []) : s.mqPush core words 1 =
      ((s.staged core words).updSpire ⟨0, 0⟩ (·.queued (upd words 0 (withField (nth words 0 0) 16 4 0)))).mqAnswer core 0 := by
  have htargets : mqTargets (if core < 2 then .A else .B) (fieldOf 1 0 6) = some [⟨0, 0⟩] := by rw [if_pos hcore]; rfl
  have hwords : nth (upd s.sprEnv.mqW core (words.take 8 ++ List.replicate (8 - words.length) 0)) core [] = words := by
    have hall : words.take 8 ++ List.replicate (8 - words.length) 0 = words := by simp [hlen]
    exact (nth_upd_same (by omega) _ _).trans hall
  have hroom : ((s.staged core words).spire ⟨0, 0⟩).queue.length < 16 := by
    rw [show (s.staged core words).spire ⟨0, 0⟩ = s.spire ⟨0, 0⟩ from rfl, hqueue]
    decide
  have hcls : ((([⟨0, 0⟩] : List Spire).head?).map (·.cls)).getD 0 = 0 := rfl
  rw [State.mqPush, htargets]
  simp only [hcls, if_neg (show ¬ s.isOn bSPR 0 = false by rw [hon]; decide)]
  rw [hwords, ← State.staged, State.pushTo_one_of_room hroom]
  rfl

/-- A sequencer and a band mover take no push together. -/
theorem mqTargets_both (t : Tower) : mqTargets t (fieldOf 0x31 0 6) = none := by cases t <;> rfl

/-- Settles O17: each command by what it does to a spire's queue, its completion ring or its control store; a STEP over a NOP is the `stepOne`
that the drain of the waiting steps runs. -/
theorem macroCommandRows : Obligations.MacroCommandRows := by
  refine ⟨?pop, ?popWait, ?postNone, ?postRoom, ?postFull, ?start, ?halt, ?step, ?force, ?csWrite, ?csRefused, ?qpush, ?qpushFull, ?mqPush,
    ?mqPushNone⟩
  case pop =>
    intro sp c l s hrow hcls hqueue hop
    obtain ⟨r, htry, hsp, hchanges⟩ := State.tryWait_pop_of_queue (spireFlat_lt_of_atRow hrow) hcls hqueue hop
    refine answers_of_micro rfl hrow ?_
    rw [State.opPOP, State.waitOn_of_tryWait htry, hsp]
    exact ⟨by simp [SpireState.dispatched, hqueue], hchanges⟩
  case popWait =>
    intro sp s hrow hqueue
    refine answers_of_micro rfl hrow ?_
    rw [State.opPOP, State.waitOn_pop_of_empty hqueue]
    exact State.updSpire_spire_changes (spireFlat_lt_of_atRow hrow) _ _
  case postNone =>
    intro sp s hrow hring
    have hflat := spireFlat_lt_of_atRow hrow
    refine answers_of_micro rfl hrow ?_
    obtain ⟨hpend, hchanges⟩ := State.compPosted_changes (s := s) (spireValid_of_atRow hrow) (bits (s.mword sp) 0 8)
    have hspires := s.compPosted_spires sp (bits (s.mword sp) 0 8)
    rw [State.opPOST_eq, State.postRec_of_no_ring _ _ _ _ _ hring, ← State.compPosted, State.spire_updSpire_same (spireFlat_lt_congr hspires hflat),
      State.spire_congr hspires]
    exact ⟨rfl, hpend, hchanges.trans (State.updSpire_changes _ _ _ _)⟩
  case postRoom =>
    intro sp g size prod s hrow hring hg hsize hprod hroom
    subst hsize hprod
    have hflat := spireFlat_lt_of_atRow hrow
    obtain ⟨-, hcount, hw0, hw1, hindex, hregs, hmem⟩ := State.postRec_effect (spireValid_of_atRow hrow) hring hg hroom (bits (s.mword sp) 0 8)
      (s.w sp (bits (s.mword sp) 12 4)) (s.w sp (bits (s.mword sp) 8 4)) rfl
    rw [fieldOf_ofNat_low] at hw0
    refine answers_of_micro rfl hrow ?_
    rw [State.opPOST_eq, State.spire_updSpire_same (hcount.symm ▸ hflat)]
    exact ⟨hw0, hw1, hindex, rfl, hregs, hmem⟩
  case postFull =>
    intro sp g size prod s hrow hring hg hsize hprod hfull
    subst hsize hprod
    have hflat := spireFlat_lt_of_atRow hrow
    obtain ⟨hpend, hindex, hirq, hmem, hspires⟩ := State.postRec_full_effect (spireValid_of_atRow hrow) hring hg hfull (bits (s.mword sp) 0 8)
      (s.w sp (bits (s.mword sp) 12 4)) (s.w sp (bits (s.mword sp) 8 4)) rfl
    refine answers_of_micro rfl hrow ?_
    rw [State.opPOST_eq, State.spire_updSpire_same (spireFlat_lt_congr hspires hflat)]
    exact ⟨hindex, hpend, hirq, rfl, hmem⟩
  case start =>
    intro cls val sp s hcls hadm hsteps hsel hon hcount hst hnohalt hnostep
    obtain ⟨hvalid, -⟩ := spireValid_of_sprSel hcls hsel
    have hflat : spireFlat sp < s.spireCount := (spireFlat_lt hvalid).trans_eq hcount.symm
    have hcmd : s.sprCmd cls (withField val 0 1 1) = s.sprRun sp :=
      State.sprCmd_of_start hsel (fieldOf_withField_same _ _ _ _ (by decide))
        ((fieldOf_withField_above _ _ _ _ _ _ (by decide) (by decide)).trans hnohalt)
        ((fieldOf_withField_above _ _ _ _ _ _ (by decide) (by decide)).trans hnostep)
    have hrun : s.sprRun sp = s.updSpire sp (fun p => { p with
        sstate := 1, wait := .none, z := false, n := false, c := false, ef0 := false, ef1 := false, stack := [], pc := p.start,
        routine := none, running := none }) := by
      simp [State.sprRun, hon, hst]
    exact ⟨_, exec_sprStart hcls hadm (hcmd.trans hrun) hsteps, State.updSpire_spire_changes hflat _ _⟩
  case halt =>
    intro cls val sp s hcls hadm hsteps hsel hcount hseq hst hidle hnostart hnostep
    obtain ⟨hvalid, -⟩ := spireValid_of_sprSel hcls hsel
    have hflat : spireFlat sp < s.spireCount := (spireFlat_lt hvalid).trans_eq hcount.symm
    have hcmd : s.sprCmd cls (withField val 1 1 1) = s.sprHalt sp :=
      State.sprCmd_of_halt hsel ((fieldOf_withField_below _ _ _ _ _ _ (by decide) (by decide)).trans hnostart)
        (fieldOf_withField_same _ _ _ _ (by decide)) ((fieldOf_withField_above _ _ _ _ _ _ (by decide) (by decide)).trans hnostep)
    have hstop : s.sprHalt sp = s.updSpire sp (fun p => { p with sstate := 0, wait := .none }) := by
      simp [State.sprHalt, hst, hidle, State.sprLeave_of_cls_ne_zero hseq]
    exact ⟨_, exec_sprHalt hcls hadm (hcmd.trans hstop) hsteps, State.updSpire_spire_changes hflat _ _⟩
  case step =>
    intro cls val sp s hcls hadm hsteps hrun hsel hvalid hcount hst hgood hword hnostart hnohalt
    have hflat : spireFlat sp < s.spireCount := (spireFlat_lt hvalid).trans_eq hcount.symm
    let q : State := { s with sprEnv := { s.sprEnv with steps := [] } }
    have hcmd : s.sprCmd cls (withField val 2 1 1) = { s with sprEnv := { s.sprEnv with steps := [sp] } } := by
      rw [State.sprCmd_of_step hsel ((fieldOf_withField_below _ _ _ _ _ _ (by decide) (by decide)).trans hnostart)
        ((fieldOf_withField_below _ _ _ _ _ _ (by decide) (by decide)).trans hnohalt) (fieldOf_withField_same _ _ _ _ (by decide)) hst, hsteps,
        List.nil_append]
    have hexec : exec (.sprStep cls val) s = .next (q.stepOne sp) := by
      refine congrArg Host.Outcome.next ((if_pos hcls).trans ?_)
      rw [State.gated_of_admits hadm, hcmd]
      rfl
    have hstep : q.stepOne sp = q.updSpire sp (fun p => { p with sstate := 0, pc := (p.pc + 1) % 4096 }) :=
      State.stepOne_of_nop hvalid hrun hflat hst hgood hword
    refine ⟨_, hexec.trans (congrArg _ hstep), ?_, fun _ _ => rfl, fun _ => rfl⟩
    rw [State.spire_updSpire_same (show spireFlat sp < q.spireCount from hflat), show q.spire sp = s.spire sp from rfl, ← hst]
  case force =>
    intro cls val sp s hcls hadm hsel hcount hseq hst hidle hforce
    obtain ⟨hvalid, -⟩ := spireValid_of_sprSel hcls hsel
    have hflat : spireFlat sp < s.spireCount := (spireFlat_lt hvalid).trans_eq hcount.symm
    have hexec : exec (.sprMcForce cls val) s = .next (s.machineCheck sp mcFORCE) := by
      refine congrArg Host.Outcome.next ((if_pos hcls).trans ((State.gated_of_admits hadm _).trans ?_))
      simp [State.sprForce, hsel, hforce, hst]
    exact ⟨_, hexec, State.machineCheck_of_idle hflat hseq hidle mcFORCE⟩
  case csWrite =>
    intro cls val sp s hcls hadm hall hinc hpar hsel hcount hst
    obtain ⟨hvalid, -⟩ := spireValid_of_sprSel hcls hsel
    have hflat : spireFlat sp < s.spireCount := (spireFlat_lt hvalid).trans_eq hcount.symm
    have hexec : exec (.sprCsWrite cls val) s = .next (s.csWrite cls val) :=
      congrArg Host.Outcome.next ((if_pos hcls).trans (State.gated_of_admits hadm _))
    refine ⟨_, hexec.trans (congrArg _ (State.csWrite_of_halted hall hinc hpar hsel hst)), ?_, ?_, s.updSpire_changes _ _ _⟩
    · rw [State.spire_updSpire_same hflat]
      exact csAt_csPut _ _ _
    · rw [State.spire_updSpire_same hflat]
  case csRefused =>
    intro cls val sp s hcls hadm hall hsel hst
    have hexec : exec (.sprCsWrite cls val) s = .next (s.sprIrq cls 27) := by
      refine congrArg Host.Outcome.next ((if_pos hcls).trans ((State.gated_of_admits hadm _).trans ?_))
      simp [State.csWrite, State.csTargets, hall, hsel, hst]
    exact ⟨_, hexec, State.rd_wr_same _ _ _ (Nat.le_of_ble_eq_true rfl), s.irq_changes _ _ _ _ (.head _)⟩
  case qpush =>
    intro cls k val s hcls hk hadm hon hcount hmask hroom
    have hvalid : spireValid ⟨cls, k⟩ = true := spireValid_of_lt_four hcls hk
    have hflat : spireFlat ⟨cls, k⟩ < s.spireCount := (spireFlat_lt hvalid).trans_eq hcount.symm
    have hpush := State.qPush_of_one hon (hmask ▸ qTargets_two_pow hcls hk)
    rw [State.pushTo_one_of_room hroom] at hpush
    refine ⟨_, exec_sprQpush hcls hadm hpush, ?_, State.rd_wr_same _ _ _ (Nat.le_of_ble_eq_true rfl),
      (s.updSpire_changes _ _ _).trans (State.wr_changes _ (SPR_QRES_RESULT cls) 0 (.head _))⟩
    rw [State.wr_spire, State.spire_updSpire_same hflat]
    rfl
  case qpushFull =>
    intro cls k val s hcls hk hadm hon hmask hfull
    have hpush := State.qPush_of_one hon (hmask ▸ qTargets_two_pow hcls hk)
    rw [State.pushTo_one_of_full hfull] at hpush
    have hother : SPR_QRES cls ≠ pageBase bSPR cls 0 + 0x10 := by
      unfold SPR_QRES pageBase bSPR
      omega
    refine ⟨_, exec_sprQpush hcls hadm hpush, ?_, State.rd_wr_same _ _ _ (Nat.le_of_ble_eq_true rfl), ?_,
      (s.irq_changes _ _ _ _ (.tail _ (.head _))).trans (State.wr_changes _ (SPR_QRES_RESULT cls) 1 (.head _))⟩
    · rw [State.wr_spires, State.sprIrq, State.irq_spires]
    · exact (State.rd_wr_other _ _ _ _ hother).trans (State.rd_wr_same _ _ _ (Nat.le_of_ble_eq_true rfl))
  case mqPush =>
    intro core words s hcore hhalt hlen hon hcount hmq hres hqueue
    have hexec : exec (.mqPush core words 1) s = .next (s.mqPush core words 1) :=
      congrArg Host.Outcome.next (if_pos ⟨by omega, hhalt⟩)
    rw [State.mqPush_of_empty hcore hlen hon hmq hqueue] at hexec
    refine ⟨_, hexec, ?_, nth_upd_same (show core < s.sprEnv.mqRes.length by omega) _ _, fun _ _ => rfl, fun _ => rfl⟩
    have hflat : spireFlat ⟨0, 0⟩ < (s.staged core words).spireCount := by
      rw [show (s.staged core words).spireCount = 32 from hcount]
      decide
    exact (congrArg SpireState.queue (State.spire_updSpire_same hflat (·.queued (upd words 0 (withField (nth words 0 0) 16 4 0))))).trans
      (congrArg (· ++ [upd words 0 (withField (nth words 0 0) 16 4 0)]) hqueue)
  case mqPushNone =>
    intro core words s hcore hhalt hres
    have hexec : exec (.mqPush core words 0x31) s = .next (s.mqPush core words 0x31) :=
      congrArg Host.Outcome.next (if_pos ⟨hcore, hhalt⟩)
    rw [State.mqPush_of_none words (mqTargets_both _)] at hexec
    exact ⟨_, hexec, rfl, nth_upd_same (show core < s.sprEnv.mqRes.length by omega) _ _, fun _ _ => rfl, fun _ => rfl⟩

end Sys2Proof.Machine
end

section
/-! PROOFS of the statements of chapter 10 that fail (R59, R61, R289): an arm that is taken clears what its owner keeps of the comparator's earlier
fires, which the frames of ARM and ANGLE_EVENT leave out. -/

namespace Sys2Proof

open Sys2Proof.Machine

/-- Where what a command answers has a spire with the fires it was told of before, its next state has them. -/
theorem Answers.fires_get {c : Instr} {s : State} {P : State → Prop} (sp : Spire) (h : Answers c s P)
    (hfires : ∀ r, P r → (r.spire sp).fires = (s.spire sp).fires) :
    ((Out.get (exec c s) s).spire sp).fires = (s.spire sp).fires := by
  obtain ⟨r, hexec, hr⟩ := h
  rw [hexec]
  exact hfires r hr

end Sys2Proof

namespace Sys2Proof.Machine

/-- The machine from reset with the ATB ON. Track sequencer A.0 is in RUN at `pc`, was told of one fire of its comparator 0 (R59), and holds in w9
the target 0x10000000, which lies ahead of the angle 0. -/
def toldOnce (pc : Nat) (p : SpireState) : State :=
  (State.reset.setSt bATB 0 stON).updSpire ⟨0, 0⟩ (fun _ => { p with sstate := 1, pc := pc, w := upd p.w 9 0x10000000, fires := [(0, 1)] })

/-- A.0 at the microword that arms comparator 0 at the angle in w9 with the action MARK_0. -/
def armAgain : State := toldOnce 0 { cs := [(0, 0xA19A00)] }

/-- A.0 at the entry of the ANGLE_EVENT that POP has dispatched. -/
def eventAgain : State := toldOnce 0x1A { running := some [0x1A000000] }

/-- The arm is taken, and the sequencer has been told of no fire since. -/
theorem fires_arm_armAgain : ((Out.get (exec (.arm ⟨0, 0⟩) armAgain) armAgain).spire ⟨0, 0⟩).fires = [] := by
  decide +kernel

/-- So is the arm with which ANGLE_EVENT begins. -/
theorem fires_angleEvent_eventAgain : ((Out.get (exec (.angleEvent ⟨0, 0⟩) eventAgain) eventAgain).spire ⟨0, 0⟩).fires = [] := by
  decide +kernel

/-- Refutes O13: the clause of an arm that is taken has the sequencer as it was but for C and the PC, but the arm also clears the count of the
fires that the sequencer was told of since the comparator was last armed (R59). -/
theorem not_sequencerPlanRows : ¬ Obligations.SequencerPlanRows := by
  intro h
  obtain ⟨-, -, harm, -⟩ := h
  have htaken := harm ⟨0, 0⟩ armAgain (by decide +kernel) (by decide +kernel) (by decide +kernel) (by decide +kernel) (by decide +kernel)
    (by decide +kernel)
  have hsame := htaken.fires_get ⟨0, 0⟩ (fun _ ⟨_, _, _, _, hspire, _⟩ => by rw [hspire])
  rw [fires_arm_armAgain] at hsame
  exact absurd hsame (by decide)

/-- Refutes O18: the clause in which ANGLE_EVENT begins has the sequencer as it was but for its routine, its wait and C, but the arm of its
comparator clears the same count. -/
theorem not_baseImageMediaRows : ¬ Obligations.BaseImageMediaRows := by
  intro h
  obtain ⟨-, -, -, -, -, -, -, -, -, -, -, hevent⟩ := h
  have hbegun := hevent ⟨0, 0⟩ [0x1A000000] eventAgain (by decide +kernel) rfl rfl rfl rfl (by decide +kernel) (by decide +kernel)
    (by decide +kernel) (by decide +kernel) (by decide +kernel)
  have hsame := hbegun.fires_get ⟨0, 0⟩ (fun _ ⟨_, _, hspire, _⟩ => by rw [hspire])
  rw [fires_angleEvent_eventAgain] at hsame
  exact absurd hsame (by decide)

end Sys2Proof.Machine
end
